-- ==== Sys2Proof/Word.lean ====
section
/-! DEFINITION. The word types of the module and their plainest arithmetic. -/

namespace Sys2Proof

/-- One byte of memory, of a descriptor, of a packet. -/
abbrev Byte := BitVec 8
/-- A register, a descriptor word, an address (R12, R47). -/
abbrev W64 := BitVec 64
/-- A 32-bit element or half register. -/
abbrev W32 := BitVec 32
/-- A beat number (R104, R105): counted modulo 2^48. -/
abbrev Beat := BitVec 48
/-- Fabric time in nanoseconds (R104): BEAT in [57:10], NS in [9:0]. -/
abbrev Time := BitVec 58

end Sys2Proof
end

