-- ==== Sys2Proof/Syntax.lean ====
section
/-! DEFINITION. The commands of the block: one constructor of `Instr` for each row of spec/opcode_table.json.
The table gives its rows no operand fields; the operands here are what the rules of the row need from outside
the module (who writes which register with what, which unit, what a peer sent, what the physics did). -/

namespace Sys2Proof

/-- Which PCIe function makes an access (R697): the physical function, or the virtual function that serves
partition `p` (virtual function number `p + 1`). -/
inductive Fn where
  | pf
  | vf (p : Fin 16)
deriving DecidableEq, Repr

/-- An ECC error that the hardware meets while it works (R223, R258, R294, R322, R338): whether it is uncorrected; whether the odd
member of a full-mode pair meets it; where (`row`, `col` and `store`, the location fields of the unit's ECC_LAST register; for a
Gallery, `store` 1 a weight register and 0 the accumulator store); which read of that place meets it (`elem`: a block along K, a
weight's place along K, a row); and, when it is uncorrected, what the read gives in place of what is stored (`val`). Unused fields are
zero. -/
structure EccHit where
  unc : Bool
  odd : Bool
  row : Nat
  col : Nat
  store : Nat
  elem : Nat
  val : W64
deriving DecidableEq, Repr

/-- An ECC error in a sector that the command reads (R380): the tier, the sector's tier offset, whether the error lies in the cache
bank that holds the sector (else in the memory itself), whether it is uncorrected, and then the leading bytes that the sector reads as
instead of what was stored. -/
structure MemErr where
  tier : Fin 3
  off : Nat
  cached : Bool
  unc : Bool
  data : List Byte
deriving DecidableEq, Repr

/-- Where a fault of a Gallery lies (R222): an accumulator entry, through whatever formed it; the checksum unit's E or Mag of the
entry's group; the sum S that the checksum-row accumulator forms of it; or the read-out conversion or the write to the Hall. -/
inductive FaultSite where
  | cell | expected | magnitude | actual | output
deriving DecidableEq, Repr

/-- A fault of the arithmetic (R222): at an accumulator entry's row and column, the faulty place gives `val` (A48, laid out under R155;
the element's bits for a fault of the output) in place of what it should. -/
structure CellFault where
  site : FaultSite
  row : Nat
  col : Nat
  val : W64
deriving DecidableEq, Repr

/-- How a fetch from host memory ends (R77, R103, R600): the bytes read, or a PCIe error or completion timeout. -/
inductive FetchResult where
  | data (bytes : List Byte)
  | error
deriving DecidableEq, Repr

/-- The packet header (R435). `rsv` gathers the reserved bits: word 0 [49:48], word 0 [14:0], word 1 [5:0],
from the most significant down. -/
structure Hdr where
  ver : BitVec 4
  ty : BitVec 8
  tc : BitVec 2
  slice : BitVec 12
  epoch : BitVec 8
  len : BitVec 13
  dstChip : BitVec 16
  srcChip : BitVec 16
  dstPart : BitVec 5
  srcPart : BitVec 5
  tag : BitVec 16
  addr : W64
  aux : W64
  rsv : BitVec 23
deriving DecidableEq, Repr

/-- A packet: its header and its payload (R435); `via` the wing of the port it came in at, or of the engine of this module that sent
it, 2 for the always-on domain (R32, R33). -/
structure Pkt where
  hdr : Hdr
  payload : List Byte
  via : Nat := 2
deriving DecidableEq, Repr

/-- A flit (R431, R432): the control word's fields, the header of a head flit and the content bytes.
`rsv` holds the control word's reserved bits [25:24] and [15:0]. -/
structure Flit where
  crc : W32
  kind : BitVec 3
  tc : BitVec 2
  vcb : Bool
  xoff : BitVec 8
  rsv : BitVec 18
  hdr : Option Hdr
  content : List Byte
deriving DecidableEq, Repr

/-- The answer to a burst (R407, R411, R413): read data, an acknowledgement, a refusal by the destination,
or a PCIe error or completion timeout. -/
inductive BurstAnswer where
  | data (bytes : List Byte)
  | ack
  | refused
  | hostError
deriving DecidableEq, Repr

/-- One channel with a channel-test set (R387, R388): an HBM4 channel `stack * 32 + channel`, or a channel of an
LPDDR5X package. -/
inductive MemCh where
  | hbm (ch : Fin 256)
  | lpx (pkg : Fin 24) (ch : Fin 4)
deriving DecidableEq, Repr

/-- A sector that a pass of a channel test, numbered from 0, reads differently from what was stored (R378): its channel offset and its
wrong bits, by data lane. -/
structure TestFail where
  pass : Nat
  off : Nat
  lanes : W64
deriving DecidableEq, Repr

/-- A requester of a Hall bank, in the order of R352. -/
inductive HallReq where
  | corridor | gallery | landing | narrow | flight | cache | core
deriving DecidableEq, Repr

/-- An engine with an engine watchdog (R556), by the queue class of R133; the vote unit is its own. -/
inductive EngCls where
  | gallery | balcony | landing | riser | winder | newel | flight | arcade | baluster | voteUnit
deriving DecidableEq, Repr

/-- An engine: its class and its global index under R34. -/
structure Eng where
  cls : EngCls
  idx : Nat
deriving DecidableEq, Repr

/-- The domain that a reset reaches (R37, R562). -/
inductive Dom where
  | context (part : Fin 16) (ctx : Fin 8)
  | engine (e : Eng)
  | partition (part : Fin 16)
  | wing (w : Fin 2)
  | chip
deriving DecidableEq, Repr

/-- What a pattern test found at its end (R602, R603): every selected test passed, or the test with the given
index failed; with the temperature at the end of the last test run, in degrees Celsius. -/
structure PtOutcome where
  failed : Option Nat
  temp : BitVec 8
  notSoaked : Bool
deriving DecidableEq, Repr

/-- A command of the block. The docstring of each constructor names its row's rule. -/
inductive Instr where
  -- register access, structure image
  /-- R15 -/ | registerWrite (fn : Fn) (off : Nat) (bytes : Nat) (val : W64)
  /-- R453 -/ | flitSend (p : Fin 16)
  /-- R45 -/ | registerRead (fn : Fn) (off : Nat) (bytes : Nat)
  /-- R707 -/ | traySpiBadcmd (cmd : W32)
  /-- R636 -/ | throttleLevelChange (reason : Fin 6) (up : Bool)
  /-- R77 -/ | load
  /-- R77 -/ | fetchComplete (r : FetchResult)
  /-- R79 -/ | imgShadowWrite (off : Nat) (bytes : Nat) (val : W64)
  /-- R77 -/ | check
  /-- R81 -/ | checkingEnd
  /-- R85 -/ | arm
  /-- R77 -/ | cancel
  /-- R84 -/ | apply
  /-- R658 -/ | scrubbed
  -- beat time
  /-- R108 -/ | timePacketSend
  /-- R109 -/ | timePacketReceive (port : Fin 16) (carried : Time)
  /-- R117 -/ | holdover
  /-- R107 -/ | beatGmCtrlWrite (val : W64)
  /-- R139 -/ | beatSet (val : W64)
  /-- R111 -/ | delayRemeasure (port : Fin 16) (trips : List W32) (turn : W32)
  /-- R141 -/ | beatMqPush
  /-- R121 -/ | alarmFire (q : Option (Fin 16))
  -- control cores
  /-- R134 -/ | eqPush (core : Fin 32) (hart : Fin 4) (waits : BitVec 4)
  /-- R135 -/ | eqPushStallEnd (core : Fin 32) (hart : Fin 4)
  /-- R132 -/ | eqWait (core : Fin 32) (hart : Fin 4) (waits : BitVec 4)
  /-- R136 -/ | eqWaitSatisfied (core : Fin 32) (hart : Fin 4)
  /-- R132 -/ | eqPoll (core : Fin 32) (hart : Fin 4) (waits : BitVec 4)
  /-- R132 -/ | eqGate (core : Fin 32) (hart : Fin 4) (waits : BitVec 4)
  /-- R132 -/ | eqGateSatisfied (core : Fin 32) (hart : Fin 4)
  /-- R132 -/ | eqBeat (core : Fin 32) (hart : Fin 4) (waits : BitVec 4)
  /-- R132 -/ | eqFence (core : Fin 32) (hart : Fin 4) (waits : BitVec 4)
  /-- R132 -/ | eqFenceSatisfied (core : Fin 32) (hart : Fin 4)
  /-- R131 -/ | hartInstruction (core : Fin 32) (hart : Fin 4) (waits : BitVec 4)
  /-- R745 -/ | hartStart (core : Fin 32) (hart : Fin 4)
  /-- R745 -/ | hartHalt (core : Fin 32) (hart : Fin 4)
  -- Galleries
  /-- R201 -/ | matmul (g : Fin 64) (stalls : List Nat) (ecc balEcc : List EccHit) (errs : List MemErr)
  /-- R208 -/ | accLoad (g : Fin 64) (errs : List MemErr)
  /-- R208 -/ | accRead (g : Fin 64)
  /-- R197 -/ | galReadout (g : Fin 64) (faults : List CellFault) (pairDiff : Bool) (ecc : List EccHit)
  /-- R199 -/ | galComplete (g : Fin 64)
  /-- R226 -/ | galCntClr (g : Fin 64)
  -- Balconies
  /-- R237 -/ | slots (b : Fin 64)
  /-- R238 -/ | down (b : Fin 64)
  /-- R247 -/ | up (b : Fin 64) (stalls : List Nat) (pairDiff : Bool) (ecc : List EccHit) (errs : List MemErr)
  /-- R249 -/ | upComplete (b : Fin 64)
  /-- R252 -/ | scrRead (b : Fin 64) (pairDiff : Bool) (ecc : List EccHit)
  /-- R261 -/ | adpCntClr (b : Fin 64)
  -- Risers and Winders
  /-- R283 -/ | convert (r : Fin 8) (hallStalls nwlStalls : Nat) (seedEcc : List EccHit) (errs : List MemErr)
  /-- R273 -/ | risComplete (r : Fin 8) (pairDiff : Bool)
  /-- R274 -/ | streamClear (r : Fin 8) (set : Fin 16)
  /-- R299 -/ | risCntClr (r : Fin 8)
  /-- R299 -/ | risClearStreamSets (r : Fin 8)
  /-- R293 -/ | transform (w : Fin 4) (hallStalls nwlStalls : Nat) (ecc seedEcc : List EccHit) (errs : List MemErr)
  /-- R293 -/ | winComplete (w : Fin 4)
  /-- R302 -/ | winCntClr (w : Fin 4)
  -- Landings and Newels
  /-- R317 -/ | run (l : Fin 16) (hallStalls nwlStalls : Nat) (ecc seedEcc : List EccHit) (errs : List MemErr)
  /-- R319 -/ | lndComplete (l : Fin 16) (pairDiff : Bool)
  /-- R340 -/ | lndCntClr (l : Fin 16)
  /-- R336 -/ | gen (n : Fin 2) (misses : Nat) (ecc : List EccHit)
  /-- R336 -/ | genComplete (n : Fin 2)
  /-- R334 -/ | seed (n : Fin 2)
  /-- R342 -/ | nwlCntClr (n : Fin 2)
  -- memory tiers
  /-- R353 -/ | hallRequestAged (bank : Fin 512) (req : HallReq) (idx waited : Nat)
  /-- R364 -/ | flush (p : Fin 16) (errs : List MemErr)
  /-- R364 -/ | invalidate (p : Fin 16) (errs : List MemErr)
  /-- R364 -/ | cacheCommandDone (p : Fin 16)
  /-- R384 -/ | hallCntClr (w : Fin 2)
  /-- R387 -/ | hbmCntClr (stack : Fin 8)
  /-- R387 -/ | lpxCntClr (pkg : Fin 24)
  /-- R375 -/ | testStart (ch : MemCh) (fails : List TestFail)
  /-- R379 -/ | testStop (ch : MemCh)
  /-- R378 -/ | channelTestEnd (ch : MemCh)
  -- Flight engines
  /-- R395 -/ | move (f : Fin 32)
  /-- R403 -/ | gather (f : Fin 32)
  /-- R400 -/ | prefetch (f : Fin 32)
  /-- R405 -/ | put (f : Fin 32)
  /-- R407 -/ | burstIssue (f : Fin 32) (errs : List MemErr)
  /-- R411 -/ | burstResponse (f : Fin 32) (tag : Nat) (answer : BurstAnswer)
  /-- R412 -/ | burstTimeout (f : Fin 32) (tag : Nat)
  /-- R416 -/ | fltCntClr (f : Fin 32)
  -- fabric ports
  /-- R422 -/ | portDisable (p : Fin 16)
  /-- R422 -/ | portEnable (p : Fin 16)
  /-- R429 -/ | release (p : Fin 16)
  /-- R422 -/ | laneLock (p : Fin 16) (lanes : BitVec 9)
  /-- R423 -/ | bringUpComplete (p : Fin 16) (lanes : BitVec 9) (farVer : BitVec 2) (trips : List W32) (turn : W32) (nbrDev : W64)
      (nbrPort : BitVec 4)
  /-- R422 -/ | bringUpTimeout (p : Fin 16)
  /-- R422 -/ | bringUpRetry (p : Fin 16)
  /-- R426 -/ | laneLoss (p : Fin 16) (lane : Fin 9)
  /-- R422 -/ | lightLoss (p : Fin 16)
  /-- R422 -/ | noFlitTimeout (p : Fin 16)
  /-- R430 -/ | retrainDone (p : Fin 16)
  /-- R433 -/ | flitReceive (p : Fin 16) (f : Flit)
  /-- R462 -/ | localDelivery
  /-- R468 -/ | tailTimeout (p : Fin 16) (vc : Fin 8)
  /-- R470 -/ | cmapWindowEnd
  /-- R450 -/ | nutFcThrWrite (p : Fin 16) (vc : Fin 8) (val : W64)
  /-- R473 -/ | nutCntClr (p : Fin 16)
  -- packets delivered to the module's functions
  /-- R440 -/ | write
  /-- R441 -/ | notify
  /-- R442 -/ | readReq (errs : List MemErr)
  /-- R442 -/ | readResp
  /-- R443 -/ | atomic (errs : List MemErr)
  /-- R444 -/ | ack
  /-- R446 -/ | mgmt
  -- routing tables
  /-- R464 -/ | rteArm
  /-- R467 -/ | rteCancel
  /-- R464 -/ | swap
  /-- R467 -/ | rteShadowWrite (off : Nat) (bytes : Nat) (val : W64)
  /-- R476 -/ | rteCntClr
  -- Arcade
  /-- R486 -/ | allreduce (a : Fin 2) (errs : List MemErr)
  /-- R499 -/ | voteCfg (a : Fin 2)
  /-- R492 -/ | arcade (pairDiff : Bool)
  /-- R495 -/ | phaseTimeout (u : Option (Fin 2)) (part : Fin 16)
  /-- R493 -/ | earlyReadyExpiry (a : Fin 2)
  /-- R500 -/ | vote (pairDiff : Bool)
  /-- R510 -/ | arcCntClr (a : Fin 2)
  -- Vestibule and mirror
  /-- R526 -/ | retain (p : Fin 16)
  /-- R520 -/ | done (p : Fin 16)
  /-- R527 -/ | await (p : Fin 16)
  /-- R527 -/ | awaitComplete (p : Fin 16)
  /-- R538 -/ | send (p : Fin 16)
  /-- R524 -/ | released (p : Fin 16)
  /-- R528 -/ | replayLive (p : Fin 16)
  /-- R528 -/ | replaySolo (p : Fin 16)
  /-- R528 -/ | replaySoloCommitted (p : Fin 16)
  /-- R528 -/ | revote (p : Fin 16)
  /-- R528 -/ | resolveCommit (p : Fin 16)
  /-- R528 -/ | resolveAbort (p : Fin 16)
  /-- R529 -/ | vstCommandBeat (p : Fin 16)
  /-- R545 -/ | cutCommand (p : Fin 16)
  /-- R545 -/ | cutTaken (p : Fin 16)
  /-- R546 -/ | drainHost (p : Fin 16)
  /-- R546 -/ | drainFabric (p : Fin 16)
  /-- R546 -/ | drainDone (p : Fin 16)
  /-- R546 -/ | drainError (p : Fin 16)
  /-- R546 -/ | drainLate (p : Fin 16)
  /-- R528 -/ | clear (p : Fin 16)
  /-- R547 -/ | ckpt
  /-- R513 -/ | vstCfgWrite (p : Fin 16) (val : W64)
  /-- R515 -/ | vstRegionWrite (p : Fin 16) (region : Fin 3) (val : W64)
  /-- R553 -/ | mirRegionWrite (p : Fin 16) (val : W64)
  /-- R539 -/ | mirBegin
  /-- R539 -/ | mirList
  /-- R539; the sectors of the payload that were sent as poison (R381) -/ | mirData (bad : List Nat)
  /-- R539 -/ | mirEnd
  /-- R540 -/ | mirInput
  /-- R539 -/ | inAborted (p : Fin 16)
  /-- R538 -/ | mirrorTimeout (p : Fin 16)
  /-- R541 -/ | restore (p : Fin 16)
  /-- R553 -/ | discardInboundW (p : Fin 16)
  /-- R541 -/ | fetch
  /-- R541; the sectors of the payload that were sent as poison (R381) -/ | rdata (bad : List Nat)
  /-- R541; the sectors of the payload that were sent as poison (R381) -/ | rresult (bad : List Nat)
  /-- R541 -/ | rdone
  /-- R541 -/ | restoreFailed (p : Fin 16)
  -- watchdogs, resets, suspects, notices
  /-- R556 -/ | ctxHang (part : Fin 16) (ctx : Fin 8)
  /-- R570 -/ | engHang (cls : EngCls) (idx : Nat)
  /-- R556 -/ | partHang (part : Fin 16)
  /-- R560 -/ | wingHang (w : Fin 2)
  /-- R560 -/ | aonWatchdogFire
  /-- R563 -/ | contextReset (part : Fin 16) (ctx : Fin 8)
  /-- R564 -/ | engineReset (cls : EngCls) (idx : Nat)
  /-- R562 -/ | partitionReset (part : Fin 16)
  /-- R562 -/ | wingReset (w : Fin 2)
  /-- R562 -/ | chipReset
  /-- R569 -/ | powerCycleRequest
  /-- R569 -/ | pwrcycReqNAssert
  /-- R562 -/ | resetDone (d : Dom)
  /-- R562 -/ | resetOverrun (d : Dom)
  /-- R572 -/ | slotOpen
  /-- R573 -/ | suspectClear
  /-- R573 -/ | slotMaxExpiry
  /-- R580 -/ | noticeExtend
  /-- R580 -/ | noticeAbort
  /-- R580 -/ | noticeInfo
  /-- R582 -/ | notice
  -- checking, health
  /-- R595 -/ | chkSync (w : Fin 2)
  /-- R620 -/ | chkCntClr (w : Fin 2)
  /-- R600 -/ | packLoad (val : W64) (r : FetchResult)
  /-- R600 -/ | packLoaded
  /-- R601 -/ | ptStart (w : Fin 2)
  /-- R604 -/ | ptStop (w : Fin 2)
  /-- R602 -/ | soakEnd (w : Fin 2) (temp : BitVec 8) (reached : Bool)
  /-- R603 -/ | patternTestEnd (w : Fin 2) (o : PtOutcome)
  /-- R607 -/ | subWindowEnd
  /-- R612 -/ | eventRingFlush
  /-- R612 -/ | summaryRewrite
  /-- R685 -/ | holdupOkFall
  /-- R646 -/ | inputLoss (tenMv : BitVec 16)
  /-- R615 -/ | hltRetire (val : W64)
  /-- R616 -/ | crcRetry (w : Fin 2) (m : Fin 8)
  /-- R617 -/ | moduleDown (w : Fin 2) (m : Fin 8)
  -- power
  /-- R631 -/ | opChanged
  /-- R636 -/ | throttle (reason : Fin 6)
  /-- R637 -/ | throttleEnd (reason : Fin 6)
  /-- R638 -/ | thermWarn (temp : BitVec 8)
  /-- R638 -/ | thermTrip (temp : BitVec 8)
  /-- R644 -/ | calDue
  /-- R645 -/ | recalDone (minMv : BitVec 16) (band : BitVec 2)
  /-- R647 -/ | holdupLow (tenMv : BitVec 16)
  /-- R648 -/ | holdupDisagree (derived measured : BitVec 16)
  -- security, host link
  /-- R655 -/ | secLock
  /-- R674 -/ | enrol (val : W64)
  /-- R674 -/ | revoke (val : W64)
  /-- R667 -/ | skeyLoad (val : W64)
  /-- R678 -/ | ckeyLoad (part : Fin 16)
  /-- R678 -/ | ckeyClear (part : Fin 16)
  /-- R671 -/ | spdmRequest (fn : Option Fn) (version : Byte) (code : Byte) (body : List Byte)
  /-- R672 -/ | getMeasurements (fn : Option Fn) (index : Byte)
  /-- R670 -/ | ideKm (stream : Fin 9) (key : List Byte) (on : Bool)
  /-- R711 -/ | ideFail (stream : Fin 9)
  -- start-up, pins
  /-- R683 -/ | powerGood (slot : BitVec 4)
  /-- R690 -/ | firmwareVerified (copyB : Bool) (digest : List Byte) (secVersion : BitVec 32)
  /-- R689 -/ | aonComplete
  /-- R684 -/ | wingRailsUp
  /-- R689 -/ | wingsOutOfReset
  /-- R689 -/ | memTrainComplete (failed : List (Fin 2 × Nat))
  /-- R692 -/ | bistComplete (failed : List (Nat × Nat))
  /-- R689 -/ | stageFail
  /-- R687 -/ | slotIdChange (slot : BitVec 4)
  /-- R701 -/ | perstNFall
  /-- R701 -/ | perstNRise
  /-- R702 -/ | vfFlr (p : Fin 16)
  /-- R702 -/ | pfFlr
  /-- R711 -/ | linkUp (width rate : Byte) (flit : Bool)
  /-- R711 -/ | linkDown
  -- event rings, sideband
  /-- R703 -/ | evrHeadWrite (fn : Fn) (val : W64)
  /-- R705 -/ | msixCoalesceEnd (fn : Fn)
  /-- R706 -/ | traySpiRead (cmd : W32) (bits : Nat)
  /-- R706 -/ | traySpiWrite (cmd : W32) (words : List W32) (bits : Nat)
  /-- R710 -/ | dynamicAddressAssignment (addr : BitVec 7)
  /-- R710 -/ | vendorRead (off : Nat)
  /-- R710 -/ | vendorWrite (off : Nat) (val : W64) (tray : Bool)
  -- telemetry, trace, debug
  /-- R721 -/ | telemetry
  /-- R722 -/ | snapshotPeriod
  /-- R724 -/ | lostRecordEntry
  /-- R728 -/ | kportUp
  /-- R728 -/ | kportDown
  /-- R729 -/ | dump
  /-- R729 -/ | dumpDone
  /-- R733 -/ | drained (part : Fin 16)
  /-- R735 -/ | resume (core : Fin 32) (hart : Fin 4)
  /-- R735 -/ | bpStep (core : Fin 32) (hart : Fin 4)
  /-- R717 -/ | dbgAonClr
  /-- R737 -/ | extest
  /-- R737 -/ | idcode
  /-- R737 -/ | samplePreload
  /-- R738 -/ | dbgacc (dr : BitVec 96)
  /-- R737 -/ | bypass (code : Byte)
  -- link scheduling and the remaining rows
  /-- R470 -/ | cmapSample
  /-- R712 -/ | pciCntClr
  /-- R691 -/ | configurationRequest
  /-- R689 -/ | firmwareCopiesFail
  /-- R583 -/ | pwrcycOverdue
  /-- R613 -/ | thermalCycle
  /-- R723 -/ | pcSample
deriving DecidableEq, Repr

end Sys2Proof
end

