-- ==== Sys2Proof/Machine/Bits.lean ====
section
/-! DEFINITION. Bit fields, byte order, saturating counts, and sparse maps. -/

namespace Sys2Proof.Machine

/-- The field of `w` bits whose lowest bit is `lo` (R10). -/
def nfld (x lo w : Nat) : Nat := (x >>> lo) % 2 ^ w

/-- The same field of a word. -/
def fld {n : Nat} (x : BitVec n) (lo w : Nat) : Nat := nfld x.toNat lo w

/-- Bit `i` of a word. -/
def bit {n : Nat} (x : BitVec n) (i : Nat) : Bool := x.toNat.testBit i

/-- A register value from its fields, each a value and its lowest bit. -/
def pack : List (Nat × Nat) → W64
  | [] => 0
  | (v, lo) :: r => BitVec.ofNat 64 (v <<< lo) ||| pack r

def b2n (b : Bool) : Nat := if b then 1 else 0

/-- The number whose bytes are given, lowest address first (R11). -/
def leNat : List Byte → Nat
  | [] => 0
  | b :: r => b.toNat + 256 * leNat r

/-- `n` bytes of a number, lowest address first (R11). -/
def natLe : Nat → Nat → List Byte
  | 0, _ => []
  | n + 1, v => BitVec.ofNat 8 v :: natLe n (v / 256)

/-- The number whose bytes are given, most significant first. -/
def beNat (l : List Byte) : Nat := l.foldl (fun a b => 256 * a + b.toNat) 0

/-- `n` bytes of a number, most significant first. -/
def natBe (n v : Nat) : List Byte := (natLe n v).reverse

/-- `n` bytes at offset `off`; bytes past the end read as zero. -/
def slice (l : List Byte) (off n : Nat) : List Byte :=
  let t := (l.drop off).take n
  t ++ List.replicate (n - t.length) 0

/-- The little-endian number of `n` bytes at an offset. -/
def le (l : List Byte) (off n : Nat) : Nat := leNat (slice l off n)

/-- Replaces the bytes from `off` on, never growing the list. -/
def splice (l : List Byte) (off : Nat) (new : List Byte) : List Byte :=
  l.take off ++ (new.take (l.length - off) ++ l.drop (off + new.length))

/-- Whether every byte of a range is zero (R23). -/
def zeros (l : List Byte) (off n : Nat) : Bool := (slice l off n).all (· == 0)

/-- A count that stays at its largest value (R719 and the registers that say so). -/
def satAdd {w : Nat} (x : BitVec w) (n : Nat) : BitVec w :=
  BitVec.ofNat w (min (x.toNat + n) (2 ^ w - 1))

/-- A count that wraps. -/
def wrapAdd {w : Nat} (x : BitVec w) (n : Nat) : BitVec w := BitVec.ofNat w (x.toNat + n)

/-- Sign extension of the low `w` bits of a number to an integer. -/
def sext (x w : Nat) : Int := if x.testBit (w - 1) then (x % 2 ^ w : Nat) - (2 ^ w : Nat) else (x % 2 ^ w : Nat)

/-- The entry of a sparse map, or the default. -/
def nget {α : Type} (d : α) : List (Nat × α) → Nat → α
  | [], _ => d
  | (k', v) :: r, k => if k' = k then v else nget d r k

/-- Sets an entry, keeping the keys rising and no entry equal to the default. -/
def nset {α : Type} [DecidableEq α] (d : α) : List (Nat × α) → Nat → α → List (Nat × α)
  | [], k, v => if v = d then [] else [(k, v)]
  | (k', v') :: r, k, v =>
    if k < k' then (if v = d then (k', v') :: r else (k, v) :: (k', v') :: r)
    else if k = k' then (if v = d then r else (k, v) :: r)
    else (k', v') :: nset d r k v

/-- Sets an entry and keeps it, whatever its value. -/
def nput {α : Type} : List (Nat × α) → Nat → α → List (Nat × α)
  | [], k, v => [(k, v)]
  | (k', v') :: r, k, v =>
    if k < k' then (k, v) :: (k', v') :: r else if k = k' then (k, v) :: r else (k', v') :: nput r k v

/-- The entry of a list of keyed values, if there is one. -/
def nfind {α : Type} : List (Nat × α) → Nat → Option α
  | [], _ => none
  | (k', v) :: r, k => if k' = k then some v else nfind r k

/-- The keys are strictly rising. -/
def rising {α : Type} : List (Nat × α) → Bool
  | [] => true
  | [_] => true
  | (k, _) :: (k', v') :: r => decide (k < k') && rising ((k', v') :: r)

/-- Whether the beat `a` is at or after the beat `b` (R106). -/
def atOrAfter (a b : Beat) : Bool := decide ((a - b).toNat < 2 ^ 47)

/-- The indices of the set bits of a mask, rising. -/
def bitsOf {n : Nat} (x : BitVec n) : List Nat := (List.range n).filter (fun i => x.toNat.testBit i)

/-- A mask of the indices below `n` that meet a condition. -/
def maskOf (n : Nat) (f : Nat → Bool) : Nat := (List.range n).foldl (fun a i => if f i then a + 2 ^ i else a) 0

/-- `a / b`, rounded up. -/
def ceilDiv (a b : Nat) : Nat := (a + b - 1) / b

/-- The position of the first element that meets a condition. -/
def findIdx? {α : Type} (p : α → Bool) : List α → Nat → Option Nat
  | [], _ => none
  | a :: r, i => if p a then some i else findIdx? p r (i + 1)

/-- Replaces the element at a position. -/
def setAt {α : Type} (l : List α) (i : Nat) (v : α) : List α := l.set i v

end Sys2Proof.Machine
end

