-- ==== Sys2Proof/Machine/Crypto.lean ====
section
/-! DEFINITION. The cryptographic functions that the rules name (R72, R664, R669): SHA-384, ECDSA on P-384 and
AES-256-GCM, as their public standards define them (PRESUMED, log entry 10: the spec names them and does not restate them). -/

namespace Sys2Proof.Machine

/-! ### SHA-384

The standard names its constants by what they are: 64 bits of the fractional parts of roots of the first primes. They are
computed here from that, and the sixteen newest schedule words slide along with the rounds that use them. -/

/-- The greatest number whose `k`-th power is at most `n`, of at most `i` bits, none of them below those of `r`. -/
def rootBits (k n : Nat) : Nat → Nat → Nat
  | 0, r => r
  | i + 1, r => bif Nat.ble ((r + 2 ^ i) ^ k) n then rootBits k n i (r + 2 ^ i) else rootBits k n i r

/-- The first 64 bits after the point of the `k`-th root of `p`. -/
def rootFrac (k p : Nat) : W64 := BitVec.ofNat 64 (rootBits k (p * 2 ^ (64 * k)) 69 0)

/-- The primes below 410: the first eighty. -/
def primes80 : List Nat :=
  (List.range 410).filter fun n => decide (2 ≤ n) && (List.range 19).all (fun j => n ≤ j + 2 || n % (j + 2) != 0)

def roundConsts : List W64 := primes80.map (rootFrac 3)
def digestStart : List W64 := ((primes80.drop 8).take 8).map (rootFrac 2)

/-- The exclusive or of `x` turned right by each count. -/
def turns (x : W64) (ns : List Nat) : W64 := ns.foldl (fun acc n => acc ^^^ x.rotateRight n) 0

/-- One round on the eight working words with the schedule word `w` and the constant `c`. -/
def digestRound (c w : W64) : List W64 → List W64
  | [v0, v1, v2, v3, v4, v5, v6, v7] =>
    let pick := v6 ^^^ (v4 &&& (v5 ^^^ v6))
    let most := (v0 &&& (v1 ||| v2)) ||| (v1 &&& v2)
    let up := c + w + v7 + pick + turns v4 [14, 18, 41]
    [up + most + turns v0 [28, 34, 39], v0, v1, v2, v3 + up, v4, v5, v6]
  | v => v

/-- The word that enters the window `win` of sixteen schedule words, oldest first. -/
def nextWord (win : List W64) : W64 :=
  let near := win.getD 1 0
  let far := win.getD 14 0
  win.getD 0 0 + win.getD 9 0 + (turns near [1, 8] ^^^ near >>> 7) + (turns far [19, 61] ^^^ far >>> 6)

def digestRounds : List W64 → List W64 → List W64 → List W64
  | [], _, v => v
  | c :: cs, win, v => digestRounds cs (win.drop 1 ++ [nextWord win]) (digestRound c (win.headD 0) v)

def digestBlock (v : List W64) (blk : List Byte) : List W64 :=
  List.zipWith (· + ·) v
    (digestRounds roundConsts ((List.range 16).map fun i => BitVec.ofNat 64 (beNat (slice blk (8 * i) 8))) v)

/-- The SHA-384 digest: 48 bytes. -/
def sha384 (l : List Byte) : List Byte :=
  let p := l ++ 0x80 :: (List.replicate ((239 - l.length % 128) % 128) 0 ++ natBe 16 (8 * l.length))
  let v := (List.range (p.length / 128)).foldl (fun v i => digestBlock v (slice p (128 * i) 128)) digestStart
  (v.take 6).flatMap fun x => natBe 8 x.toNat

/-! ### ECDSA on P-384 -/

def p384P : Nat := 0xfffffffffffffffffffffffffffffffffffffffffffffffffffffffffffffffeffffffff0000000000000000ffffffff
def p384N : Nat := 0xffffffffffffffffffffffffffffffffffffffffffffffffc7634d81f4372ddf581a0db248b0a77aecec196accc52973
def p384B : Nat := 0xb3312fa7e23ee7e4988e056be3f82d19181d9c6efe8141120314088f5013875ac656398d8a2ed19d2a85c8edd3ec2aef
def p384Gx : Nat := 0xaa87ca22be8b05378eb1c71ef320ad746e1d3b628ba79b9859f741e082542a385502f25dbf55296c3a545e3872760ab7
def p384Gy : Nat := 0x3617de4a96262c6f5d9e98bf9292dc29f8f41dbd289a147ce9da3113b5f0b8c00a60b1ce1d7e819d7a431d7c90ea0e5f

/-- Modular power over the lowest `k` bits of the exponent. -/
def powMod (q : Nat) : Nat → Nat → Nat → Nat → Nat
  | 0, _, _, acc => acc
  | k + 1, b, e, acc => powMod q k (b * b % q) (e / 2) (if e % 2 = 1 then acc * b % q else acc)

/-- The inverse modulo a prime below 2^384. -/
def invMod (q a : Nat) : Nat := powMod q 384 (a % q) (q - 2) 1

/-- A point in projective form (x / z², y / z³); z = 0 is the point at infinity. -/
structure Pt where
  x : Nat
  y : Nat
  z : Nat

def subP (a b : Nat) : Nat := (a + p384P - b % p384P) % p384P

def ptDbl (a : Pt) : Pt :=
  if a.z = 0 ∨ a.y = 0 then ⟨1, 1, 0⟩
  else
    let zz := a.z * a.z % p384P
    let mm := 3 * (subP a.x zz) * ((a.x + zz) % p384P) % p384P
    let yy := a.y * a.y % p384P
    let s := 4 * a.x * yy % p384P
    let x := subP (mm * mm) (2 * s)
    ⟨x, subP (mm * subP s x) (8 * yy * yy), 2 * a.y * a.z % p384P⟩

def ptAdd (a b : Pt) : Pt :=
  if a.z = 0 then b
  else if b.z = 0 then a
  else
    let z1 := a.z * a.z % p384P
    let z2 := b.z * b.z % p384P
    let u1 := a.x * z2 % p384P
    let u2 := b.x * z1 % p384P
    let s1 := a.y * b.z * z2 % p384P
    let s2 := b.y * a.z * z1 % p384P
    if u1 = u2 then (if s1 = s2 then ptDbl a else ⟨1, 1, 0⟩)
    else
      let h := subP u2 u1
      let r := subP s2 s1
      let hh := h * h % p384P
      let hhh := h * hh % p384P
      let v := u1 * hh % p384P
      let x := subP (subP (r * r) hhh) (2 * v)
      ⟨x, subP (r * subP v x) (s1 * hhh), h * a.z * b.z % p384P⟩

/-- The multiple of a point by the `n` low bits of `k`. -/
def ptMul : Nat → Nat → Pt → Pt
  | 0, _, _ => ⟨1, 1, 0⟩
  | n + 1, k, p => let q := ptMul n (k / 2) (ptDbl p); if k % 2 = 1 then ptAdd q p else q

/-- Whether two coordinates are a point on the curve (R674). -/
def onCurve (x y : Nat) : Bool :=
  x < p384P && y < p384P && decide (y * y % p384P = (x * x % p384P * x + (p384P - 3) * x + p384B) % p384P)

/-- Whether a signature r ‖ s verifies over a digest under a key x ‖ y (R72). -/
def ecdsaOk (key digest sig : List Byte) : Bool :=
  let qx := beNat (key.take 48)
  let qy := beNat (key.drop 48)
  let r := beNat (sig.take 48)
  let s := beNat ((sig.drop 48).take 48)
  if key.length = 96 ∧ sig.length = 96 ∧ onCurve qx qy = true ∧ 0 < r ∧ r < p384N ∧ 0 < s ∧ s < p384N then
    let w := invMod p384N s
    let u1 := beNat digest * w % p384N
    let u2 := r * w % p384N
    let p := ptAdd (ptMul 384 u1 ⟨p384Gx, p384Gy, 1⟩) (ptMul 384 u2 ⟨qx, qy, 1⟩)
    if p.z = 0 then false
    else
      let zi := invMod p384P p.z
      decide (p.x * (zi * zi % p384P) % p384P % p384N = r)
  else false

/-! ### AES-256-GCM -/

def aesBox0 : List Byte :=
  [0x63, 0x7c, 0x77, 0x7b, 0xf2, 0x6b, 0x6f, 0xc5, 0x30, 0x01, 0x67, 0x2b, 0xfe, 0xd7, 0xab, 0x76,
   0xca, 0x82, 0xc9, 0x7d, 0xfa, 0x59, 0x47, 0xf0, 0xad, 0xd4, 0xa2, 0xaf, 0x9c, 0xa4, 0x72, 0xc0,
   0xb7, 0xfd, 0x93, 0x26, 0x36, 0x3f, 0xf7, 0xcc, 0x34, 0xa5, 0xe5, 0xf1, 0x71, 0xd8, 0x31, 0x15,
   0x04, 0xc7, 0x23, 0xc3, 0x18, 0x96, 0x05, 0x9a, 0x07, 0x12, 0x80, 0xe2, 0xeb, 0x27, 0xb2, 0x75]
def aesBox1 : List Byte :=
  [0x09, 0x83, 0x2c, 0x1a, 0x1b, 0x6e, 0x5a, 0xa0, 0x52, 0x3b, 0xd6, 0xb3, 0x29, 0xe3, 0x2f, 0x84,
   0x53, 0xd1, 0x00, 0xed, 0x20, 0xfc, 0xb1, 0x5b, 0x6a, 0xcb, 0xbe, 0x39, 0x4a, 0x4c, 0x58, 0xcf,
   0xd0, 0xef, 0xaa, 0xfb, 0x43, 0x4d, 0x33, 0x85, 0x45, 0xf9, 0x02, 0x7f, 0x50, 0x3c, 0x9f, 0xa8,
   0x51, 0xa3, 0x40, 0x8f, 0x92, 0x9d, 0x38, 0xf5, 0xbc, 0xb6, 0xda, 0x21, 0x10, 0xff, 0xf3, 0xd2]
def aesBox2 : List Byte :=
  [0xcd, 0x0c, 0x13, 0xec, 0x5f, 0x97, 0x44, 0x17, 0xc4, 0xa7, 0x7e, 0x3d, 0x64, 0x5d, 0x19, 0x73,
   0x60, 0x81, 0x4f, 0xdc, 0x22, 0x2a, 0x90, 0x88, 0x46, 0xee, 0xb8, 0x14, 0xde, 0x5e, 0x0b, 0xdb,
   0xe0, 0x32, 0x3a, 0x0a, 0x49, 0x06, 0x24, 0x5c, 0xc2, 0xd3, 0xac, 0x62, 0x91, 0x95, 0xe4, 0x79,
   0xe7, 0xc8, 0x37, 0x6d, 0x8d, 0xd5, 0x4e, 0xa9, 0x6c, 0x56, 0xf4, 0xea, 0x65, 0x7a, 0xae, 0x08]
def aesBox3 : List Byte :=
  [0xba, 0x78, 0x25, 0x2e, 0x1c, 0xa6, 0xb4, 0xc6, 0xe8, 0xdd, 0x74, 0x1f, 0x4b, 0xbd, 0x8b, 0x8a,
   0x70, 0x3e, 0xb5, 0x66, 0x48, 0x03, 0xf6, 0x0e, 0x61, 0x35, 0x57, 0xb9, 0x86, 0xc1, 0x1d, 0x9e,
   0xe1, 0xf8, 0x98, 0x11, 0x69, 0xd9, 0x8e, 0x94, 0x9b, 0x1e, 0x87, 0xe9, 0xce, 0x55, 0x28, 0xdf,
   0x8c, 0xa1, 0x89, 0x0d, 0xbf, 0xe6, 0x42, 0x68, 0x41, 0x99, 0x2d, 0x0f, 0xb0, 0x54, 0xbb, 0x16]
def aesBox : List Byte := aesBox0 ++ aesBox1 ++ aesBox2 ++ aesBox3

def subByte (b : Byte) : Byte := aesBox.getD b.toNat 0
def xorB (a b : List Byte) : List Byte := List.zipWith (· ^^^ ·) a b
def xtime (b : Byte) : Byte := (b <<< 1) ^^^ (if b.toNat ≥ 128 then 0x1b else 0)

/-- The key schedule, newest word first: `n` more words of four bytes; `i` is the index of the next word. -/
def aesExpand : Nat → Nat → Byte → List (List Byte) → List (List Byte)
  | 0, _, _, w => w
  | n + 1, i, rc, w =>
    let t := w.headD []
    let old := w.getD 7 []
    if i % 8 = 0 then
      let r := (t.drop 1 ++ t.take 1).map subByte
      let r := xorB r [rc, 0, 0, 0]
      aesExpand n (i + 1) (xtime rc) (xorB old r :: w)
    else if i % 8 = 4 then aesExpand n (i + 1) rc (xorB old (t.map subByte) :: w)
    else aesExpand n (i + 1) rc (xorB old t :: w)

/-- The fifteen round keys of 16 bytes. -/
def aesKeys (key : List Byte) : List (List Byte) :=
  let w0 := (List.range 8).map (fun i => (key.drop (4 * i)).take 4)
  let w := (aesExpand 52 8 1 w0.reverse).reverse
  (List.range 15).map (fun i => ((w.drop (4 * i)).take 4).flatten)

def shiftRows (s : List Byte) : List Byte := (List.range 16).map (fun i => s.getD ((i + 4 * (i % 4)) % 16) 0)

def mixCol (c : List Byte) : List Byte :=
  (List.range 4).map (fun i =>
    let g (k : Nat) : Byte := c.getD ((i + k) % 4) 0
    xtime (g 0) ^^^ (xtime (g 1) ^^^ g 1) ^^^ g 2 ^^^ g 3)

def mixCols (s : List Byte) : List Byte := ((List.range 4).map (fun i => mixCol ((s.drop (4 * i)).take 4))).flatten

def aesRounds : List (List Byte) → List Byte → List Byte
  | [], s => s
  | [k], s => xorB (shiftRows (s.map subByte)) k
  | k :: r, s => aesRounds r (xorB (mixCols (shiftRows (s.map subByte))) k)

/-- AES-256 of one block, under expanded keys. -/
def aesBlock (ks : List (List Byte)) (b : List Byte) : List Byte :=
  match ks with
  | [] => b
  | k :: r => aesRounds r (xorB b k)

/-- The product in the field of GCM, bit 0 of the standard being the most significant. -/
def ghMul : Nat → Nat → Nat → Nat → Nat
  | 0, _, _, z => z
  | n + 1, x, v, z =>
    ghMul n x (if v % 2 = 1 then (v / 2) ^^^ (0xe1 <<< 120) else v / 2) (if x.testBit n then z ^^^ v else z)

def ghBlocks (h : Nat) : Nat → Nat → List Byte → Nat
  | 0, y, _ => y
  | n + 1, y, l =>
    if l.isEmpty then y
    else ghBlocks h n (ghMul 128 (y ^^^ beNat (slice l 0 16)) h 0) (l.drop 16)

/-- The key stream from counter value `c` on, for `n` blocks. -/
def gcmStream (ks : List (List Byte)) (iv : List Byte) : Nat → Nat → List Byte
  | 0, _ => []
  | n + 1, c => aesBlock ks (iv ++ natBe 4 c) ++ gcmStream ks iv n (c + 1)

def gcmTag (ks : List (List Byte)) (iv aad ct : List Byte) : List Byte :=
  let h := beNat (aesBlock ks (List.replicate 16 0))
  let y := ghBlocks h (aad.length / 16 + 1) 0 aad
  let y := ghBlocks h (ct.length / 16 + 1) y ct
  let y := ghMul 128 (y ^^^ (aad.length * 8 * 2 ^ 64 + ct.length * 8)) h 0
  xorB (natBe 16 y) (aesBlock ks (iv ++ natBe 4 1))

/-- AES-256-GCM encryption with a 12-byte IV: the ciphertext and its 16-byte tag. -/
def gcmSeal (key iv aad pt : List Byte) : List Byte × List Byte :=
  let ks := aesKeys key
  let ct := xorB pt (gcmStream ks iv (pt.length / 16 + 1) 2)
  (ct, gcmTag ks iv aad ct)

/-- AES-256-GCM decryption; none when the tag does not authenticate. -/
def gcmOpen (key iv aad ct tag : List Byte) : Option (List Byte) :=
  let ks := aesKeys key
  if gcmTag ks iv aad ct = tag then some (xorB ct (gcmStream ks iv (ct.length / 16 + 1) 2)) else none

end Sys2Proof.Machine
end

