-- ==== Sys2Proof/Machine/Num.lean ====
section
/-! DEFINITION. Number formats and arithmetic (chapter 4): exact values, the one rounding each operation makes, the
conversion table of R178, A48 and FP32 arithmetic, atomic sums, and block sums. -/

namespace Sys2Proof.Machine

/-- A value: NaN, an infinity, or (−1)^neg × m × 2^e, zero keeping its sign (R153). -/
inductive Val where
  | nan
  | inf (neg : Bool)
  | fin (neg : Bool) (m : Nat) (e : Int)
deriving DecidableEq, Repr

/-- A format (R150). `kind`: 0 with infinities and NaNs, 1 the E4M3 form (one NaN, no infinity), 2 neither,
3 two's complement, 4 unsigned. -/
structure Fmt where
  kind : Nat
  eb : Nat
  mb : Nat
  bias : Nat
  bits : Nat
  mxOk : Bool
deriving DecidableEq, Repr

/-- The format of a code; reserved codes have none (R150). -/
def fmtOf (code : Nat) : Option Fmt :=
  match code with
  | 0x00 => some ⟨0, 8, 23, 127, 32, false⟩
  | 0x01 => some ⟨0, 8, 7, 127, 16, false⟩
  | 0x02 => some ⟨0, 5, 10, 15, 16, false⟩
  | 0x10 => some ⟨1, 4, 3, 7, 8, true⟩
  | 0x11 => some ⟨0, 5, 2, 15, 8, true⟩
  | 0x12 => some ⟨2, 3, 2, 3, 6, true⟩
  | 0x13 => some ⟨2, 2, 3, 1, 6, true⟩
  | 0x14 => some ⟨2, 2, 1, 1, 4, true⟩
  | 0x20 => some ⟨3, 0, 7, 0, 8, true⟩
  | 0x21 => some ⟨3, 0, 3, 0, 4, false⟩
  | 0x22 => some ⟨4, 0, 8, 0, 8, false⟩
  | 0x23 => some ⟨4, 0, 4, 0, 4, false⟩
  | 0x24 => some ⟨3, 0, 31, 0, 32, false⟩
  | 0x30 => some ⟨0, 10, 48, 511, 64, false⟩
  | _ => none

def fmt0 : Fmt := ⟨0, 8, 23, 127, 32, false⟩

/-- The code of a format specifier (R149). -/
def spCode (b : Byte) : Nat := b.toNat % 64
def spSat (b : Byte) : Bool := bit b 7
def spMx (b : Byte) : Bool := bit b 6

/-- Whether a specifier is one the module takes at all (R150, R151). -/
def spOk (b : Byte) : Bool :=
  match fmtOf (spCode b) with
  | none => false
  | some f => (!spMx b || f.mxOk) && (spCode b != 0x30 || (!spSat b && !spMx b))

def spFmt (b : Byte) : Fmt := (fmtOf (spCode b)).getD fmt0
def isIntFmt (f : Fmt) : Bool := f.kind ≥ 3

/-- The value of a float encoding (R150, R156). -/
def decFloat (f : Fmt) (x : Nat) : Val :=
  let s := x.testBit (f.eb + f.mb)
  let ex := nfld x f.mb f.eb
  let t := x % 2 ^ f.mb
  if f.kind = 0 ∧ ex = 2 ^ f.eb - 1 then (if t = 0 then .inf s else .nan)
  else if f.kind = 1 ∧ ex = 2 ^ f.eb - 1 ∧ t = 2 ^ f.mb - 1 then .nan
  else if ex = 0 then .fin s t (1 - (f.bias : Int) - f.mb)
  else .fin s (2 ^ f.mb + t) ((ex : Int) - f.bias - f.mb)

def ofInt (i : Int) : Val := .fin (decide (i < 0)) i.natAbs 0

/-- The integer an encoding stands for. -/
def decIntN (f : Fmt) (x : Nat) : Int := if f.kind = 3 then sext x f.bits else (x % 2 ^ f.bits : Nat)

/-- The value of an element of a format; MXINT8 counts in units of 2^-6 (R158). A48 is taken from its 64-bit memory
form, whose low five bits are ignored (R155). -/
def decode (code : Nat) (mx : Bool) (x : Nat) : Val :=
  match fmtOf code with
  | none => .nan
  | some f =>
    if isIntFmt f then
      match ofInt (decIntN f x) with
      | .fin s m _ => .fin s m (if mx then -6 else 0)
      | v => v
    else if code = 0x30 then decFloat ⟨0, 10, 48, 511, 59, false⟩ (x >>> 5)
    else decFloat f x

/-- Rounding to an integer multiple of 2^q: to nearest even, or stochastically with the 16 random bits given (R175). -/
def roundAt (m : Nat) (e q : Int) (rnd : Option Nat) : Nat :=
  if q ≤ e then m <<< (e - q).toNat
  else
    let sh := (q - e).toNat
    let hi := m >>> sh
    let rem := m % 2 ^ sh
    if rem = 0 then hi
    else match rnd with
      | none =>
        if 2 * rem > 2 ^ sh ∨ (2 * rem = 2 ^ sh ∧ hi % 2 = 1) then hi + 1 else hi
      | some r =>
        let f := if 16 ≤ sh then rem >>> (sh - 16) else rem <<< (16 - sh)
        if f + r ≥ 65536 then hi + 1 else hi

/-- The exponent of the last place of a magnitude m × 2^e in a float format. -/
def lastPlace (f : Fmt) (m : Nat) (e : Int) : Int :=
  max (e + (Nat.log2 m : Int) - f.mb) (1 - (f.bias : Int) - f.mb)

/-- The bits of the largest finite magnitude of a float format (R150). -/
def maxBits (f : Fmt) : Nat :=
  if f.kind = 0 then (2 ^ f.eb - 1) * 2 ^ f.mb - 1
  else if f.kind = 1 then 2 ^ (f.eb + f.mb) - 2
  else 2 ^ (f.eb + f.mb) - 1

/-- The bits of a rounded magnitude k × 2^q, q its last place; it may exceed the format. -/
def magBits (f : Fmt) (k : Nat) (q : Int) : Nat :=
  if k < 2 ^ f.mb then k
  else
    let ex := (q + f.mb + f.bias).toNat
    ex * 2 ^ f.mb + (k - 2 ^ f.mb)

/-- The canonical NaN of a float format (R179). -/
def canonNan (f : Fmt) : Nat :=
  if f.kind = 1 then 2 ^ (f.eb + f.mb) - 1 else (2 ^ f.eb - 1) * 2 ^ f.mb + 2 ^ (f.mb - 1)

/-- What a conversion of one element gives: its bits, and how R178 and R180 count it. -/
structure Conv where
  bits : Nat
  clip : Bool
  nanrep : Bool
deriving DecidableEq, Repr

/-- Whether an overflow becomes an infinity: an infinity in the format and SAT clear (R152, R178). -/
def toInf (f : Fmt) (sat : Bool) : Bool := f.kind = 0 && (f.eb = 10 || !sat)

/-- A float destination (R178). -/
def convFloat (f : Fmt) (sat mx : Bool) (rnd : Option Nat) (v : Val) : Conv :=
  let sb (neg : Bool) := b2n neg * 2 ^ (f.eb + f.mb)
  match v with
  | .nan =>
    if mx then ⟨0, false, true⟩
    else if f.kind = 2 then ⟨0, false, true⟩ else ⟨canonNan f, false, false⟩
  | .inf neg =>
    if toInf f sat && !mx then ⟨sb neg + (2 ^ f.eb - 1) * 2 ^ f.mb, false, false⟩
    else ⟨sb neg + maxBits f, true, false⟩
  | .fin neg m e =>
    if m = 0 then ⟨sb neg, false, false⟩
    else
      let q := lastPlace f m e
      let b := magBits f (roundAt m e q rnd) q
      if b ≤ maxBits f then ⟨sb neg + b, false, false⟩
      else if toInf f sat && !mx then ⟨sb neg + (2 ^ f.eb - 1) * 2 ^ f.mb, false, false⟩
      else ⟨sb neg + maxBits f, true, false⟩

/-- The least and the largest integer of a format; MXINT8 is written in a symmetric range (R158). -/
def intRange (f : Fmt) (mx : Bool) : Int × Int :=
  if f.kind = 4 then (0, 2 ^ f.bits - 1)
  else (if mx then -(2 ^ (f.bits - 1) - 1) else -(2 ^ (f.bits - 1)), 2 ^ (f.bits - 1) - 1)

/-- An integer destination: rounded, the zero point added, then clipped (R178, R267). -/
def convInt (f : Fmt) (mx : Bool) (z : Int) (rnd : Option Nat) (v : Val) : Conv :=
  let (lo, hi) := intRange f mx
  let enc (i : Int) : Nat := (i % (2 ^ f.bits : Int)).toNat
  match v with
  | .nan => if mx then ⟨0, false, true⟩ else ⟨enc z, false, true⟩
  | .inf neg => ⟨enc (if neg then lo else hi), true, false⟩
  | .fin neg m e =>
    let k : Int := roundAt m e (if mx then -6 else 0) rnd
    let y := (if neg then -k else k) + z
    if y < lo then ⟨enc lo, true, false⟩ else if y > hi then ⟨enc hi, true, false⟩ else ⟨enc y, false, false⟩

/-- Conversion to a format specifier (R173 to R180). A48 is given in its 64-bit memory form. -/
def convert (sp : Byte) (z : Int) (rnd : Option Nat) (v : Val) : Conv :=
  let f := spFmt sp
  if isIntFmt f then convInt f (spMx sp) z rnd v
  else if spCode sp = 0x30 then
    let c := convFloat ⟨0, 10, 48, 511, 59, false⟩ false false rnd v
    { c with bits := c.bits <<< 5 }
  else convFloat f (spSat sp) (spMx sp) rnd v

/-! ### Exact operations -/

def vneg : Val → Val
  | .nan => .nan
  | .inf s => .inf !s
  | .fin s m e => .fin (!s) m e

def vabs : Val → Val
  | .nan => .nan
  | .inf _ => .inf false
  | .fin _ m e => .fin false m e

def isNanV : Val → Bool
  | .nan => true
  | _ => false

def isFinV : Val → Bool
  | .fin _ _ _ => true
  | _ => false

def isZeroV : Val → Bool
  | .fin _ m _ => m = 0
  | _ => false

/-- The exact sum; a zero sum of values of unlike sign is +0. -/
def vadd : Val → Val → Val
  | .nan, _ => .nan
  | _, .nan => .nan
  | .inf s, .inf t => if s = t then .inf s else .nan
  | .inf s, _ => .inf s
  | _, .inf t => .inf t
  | .fin s m e, .fin t n f =>
    let g := min e f
    let a : Int := (if s then -1 else 1) * ((m <<< (e - g).toNat : Nat) : Int)
    let b : Int := (if t then -1 else 1) * ((n <<< (f - g).toNat : Nat) : Int)
    let c := a + b
    if c = 0 then .fin (s && t) 0 g else .fin (decide (c < 0)) c.natAbs g

/-- The exact product; infinity × 0 is NaN. -/
def vmul : Val → Val → Val
  | .nan, _ => .nan
  | _, .nan => .nan
  | .inf s, .inf t => .inf (s != t)
  | .inf s, .fin t m _ => if m = 0 then .nan else .inf (s != t)
  | .fin s m _, .inf t => if m = 0 then .nan else .inf (s != t)
  | .fin s m e, .fin t n f => .fin (s != t) (m * n) (e + f)

/-- The quotient to far more places than any format holds, its last bit standing for what is left. -/
def vdiv : Val → Val → Val
  | .nan, _ => .nan
  | _, .nan => .nan
  | .inf _, .inf _ => .nan
  | .inf s, .fin t _ _ => .inf (s != t)
  | .fin s _ _, .inf t => .fin (s != t) 0 0
  | .fin s m e, .fin t n f =>
    if n = 0 then (if m = 0 then .nan else .inf (s != t))
    else if m = 0 then .fin (s != t) 0 0
    else
      let sh := 72 + Nat.log2 n
      let q := (m <<< sh) / n
      let r := (m <<< sh) % n
      .fin (s != t) (2 * q + (if r = 0 then 0 else 1)) (e - f - sh - 1)

/-- The integer square root, bit by bit from bit `k − 1` down. -/
def isqrtGo (n : Nat) : Nat → Nat → Nat
  | 0, r => r
  | k + 1, r => let t := r + 2 ^ k; isqrtGo n k (if t * t ≤ n then t else r)

def isqrt (n : Nat) : Nat := isqrtGo n (Nat.log2 n / 2 + 1) 0

/-- The square root in the same manner; of an operand below zero NaN, of −0 −0 (R312). -/
def vsqrt : Val → Val
  | .nan => .nan
  | .inf s => if s then .nan else .inf false
  | .fin s m e =>
    if m = 0 then .fin s 0 0
    else if s then .nan
    else
      let odd := e % 2 ≠ 0
      let m' := if odd then 2 * m else m
      let e' := if odd then e - 1 else e
      let r := isqrt (m' <<< 140)
      .fin false (2 * r + (if r * r = m' <<< 140 then 0 else 1)) (e' / 2 - 71)

/-- Scaling by a power of two, exact. -/
def vscale (v : Val) (k : Int) : Val :=
  match v with
  | .fin s m e => .fin s m (e + k)
  | v => v

/-- The order of two values; none when either is NaN. -/
def vcmp (a b : Val) : Option Ordering :=
  match a, b with
  | .nan, _ => none
  | _, .nan => none
  | .inf s, .inf t => some (if s = t then .eq else if s then .lt else .gt)
  | .inf s, _ => some (if s then .lt else .gt)
  | _, .inf t => some (if t then .gt else .lt)
  | a, b =>
    match vadd a (vneg b) with
    | .fin s m _ => some (if m = 0 then .eq else if s then .lt else .gt)
    | _ => none

/-! ### FP32, BF16 and A48 -/

def spFp32 : Byte := 0x00
def spBf16 : Byte := 0x01
def spA48 : Byte := 0x30

def f32 (x : W32) : Val := decode 0 false x.toNat
def toF32 (v : Val) : W32 := BitVec.ofNat 32 (convert spFp32 0 none v).bits
def a48 (x : W64) : Val := decode 0x30 false x.toNat
def toA48 (v : Val) : W64 := BitVec.ofNat 64 (convert spA48 0 none v).bits

/-- A48 addition (R157, R170). -/
def a48Add (x y : W64) : W64 := toA48 (vadd (a48 x) (a48 y))
/-- FP32 addition, to nearest even (R153, R179). -/
def f32Add (x y : W32) : W32 := toF32 (vadd (f32 x) (f32 y))
/-- BF16: the exact sum rounded once (R367). -/
def bf16Add (x y : BitVec 16) : BitVec 16 :=
  BitVec.ofNat 16 (convert spBf16 0 none (vadd (decode 1 false x.toNat) (decode 1 false y.toNat))).bits

/-- The A48 of 1.0 and of 2^-17 are the two that chapter 4 writes out. -/
def a48One : W64 := toA48 (.fin false 1 0)

/-! ### Elements of a tensor -/

/-- Element `i` of a packed run of elements that begins at the first byte (R154). -/
def elemAt (bits : Nat) (l : List Byte) (i : Nat) : Nat :=
  let o := bits * i
  (le l (o / 8) ((bits + 7) / 8 + 1) >>> (o % 8)) % 2 ^ bits

/-- The bytes of `n` elements, rounded up to whole bytes. -/
def packedLen (bits n : Nat) : Nat := (bits * n + 7) / 8

/-- Elements packed without gaps from the lowest address (R154). -/
def packElems (bits : Nat) (xs : List Nat) : List Byte :=
  let v := xs.foldr (fun x a => x % 2 ^ bits + 2 ^ bits * a) 0
  natLe (packedLen bits xs.length) v

/-- The value of an E8M0 scale byte (R158); 0xFF is NaN. -/
def scaleVal (x : Byte) : Val := if x = 0xFF then .nan else .fin false 1 ((x.toNat : Int) - 127)

/-! ### Block sums (R164 to R169) -/

/-- The exponent e with m × 2^f in [2^e, 2^(e+1)). -/
def magExp (m : Nat) (f : Int) : Int := f + Nat.log2 m

/-- A product cut at the window's last place 2^w, toward zero (R166). -/
def cutAt (w : Int) (v : Val) : Val :=
  match v with
  | .fin s m e => if w ≤ e then v else .fin s (m >>> (w - e).toNat) w
  | v => v

/-- The largest product exponent of a block; none when every product is zero. -/
def topExp (ps : List Val) : Option Int :=
  ps.foldl (fun a p => match p with
    | .fin _ m e => if m = 0 then a else
        (match a with | none => some (magExp m e) | some x => some (max x (magExp m e)))
    | _ => a) none

/-- The sum of a block's products before scaling and rounding: special values first (R169), then the 72-bit tree whose
window is aligned to the largest product (R164 to R166). -/
def blockSum (ps : List Val) : Val :=
  if ps.any isNanV then .nan
  else match topExp ps with
    | none => ps.foldl vadd (.fin false 0 0)
    | some e => ps.foldl (fun a p => vadd a (cutAt (e - 64) p)) (.fin false 0 0)

/-- The products of two runs of values. -/
def products (xs ys : List Val) : List Val := List.zipWith vmul xs ys

/-- A block sum with its two scales, rounded once to A48 (R167). A NaN scale makes every element NaN (R161). -/
def blockA48 (xs ys : List Val) (sx sy : Val) : W64 :=
  toA48 (vmul (vmul (blockSum (products xs ys)) sx) sy)

end Sys2Proof.Machine
end

