-- ==== Sys2Proof/Config.lean ====
section
/-! DEFINITION. What the spec leaves open: each a constant with no body, so that no proof can see its value and every
claim holds whatever it is. -/

namespace Sys2Proof

/-- A value that the spec leaves undefined or unstated (log entry 4); applied to a counter of the state that each use
advances. -/
opaque Config.free : Nat → W64

/-- What a byte of memory holds after its contents were lost (R41, R97): by tier, number of losses and address. -/
opaque Config.lostByte : Nat → Nat → Nat → Byte

/-- What a slow-tier byte reads as under a key that did not store it (R663): by a counter that each such read advances,
the tier offset of the sector and the byte. -/
opaque Config.cipherByte : Nat → Nat → Nat → Byte

/-- The result of a transcendental Landing operation (R311, R312) on an operand for which the rules name no exact
result: by operation code and FP32 operand, the same on every module. -/
opaque Config.lane : Nat → W32 → W32

/-- The pattern sequence PRBS-31 of a channel test (R376), whose polynomial and bit order no rule gives: by seed and by the byte's place
in the pass. -/
opaque Config.prbs : BitVec 31 → Nat → Byte

/-- The order in which a channel test with ORDER 2 visits the blocks of its range (R377): by seed, a rank for each block. -/
opaque Config.testOrder : BitVec 31 → Nat → Nat

/-- The faults that a channel test started by a register write meets (R378): by a counter that each such start advances. -/
opaque Config.testFaults : Nat → List TestFail

/-- The content of a link-local flit (R434), whose form no rule gives: by what it carries (0 time, 1 a time stamp, 2 discovery, 3 lanes)
and its values. -/
opaque Config.linkContent : Nat → W64 → Nat → List Byte

/-- The lane that a port retrains (R430), the spare being 8: by the instant at which retraining began and the present one. -/
opaque Config.retrainLane : Nat → Nat → Nat

/-- What the SPDM responder answers beyond the blocks of R672 (certificates, challenges, session messages; R671): by
request code and request bytes. -/
opaque Config.spdm : Byte → List Byte → List Byte

end Sys2Proof
end

