-- ==== Sys2Proof/Machine/State.lean ====
section
/-! DEFINITION. The state of the module: everything the spec names, as plain data; the reasons a step can stop;
the state right after reset (power-on). Sparse maps keep only entries that differ from their default. -/

namespace Sys2Proof.Machine

/-- A sparse map: keys strictly rising, no entry equal to the map's default. -/
abbrev NMap (α : Type) := List (Nat × α)

/-- A memory tier: the bytes stored, by physical address (unit index × slot size + unit offset, R345), and for each
unit how many times its contents were lost (R41, R97); see log entry 3. -/
structure TierMem where
  cells : List Host.Cell
  lost : NMap Nat
deriving DecidableEq, Repr

/-- A descriptor in a queue (R53). `bytes` is the whole descriptor, header included. -/
structure Desc where
  part : Nat
  ctx : Nat
  ty : Byte
  flags : BitVec 12
  len : Nat
  seq : W64
  bytes : List Byte
deriving DecidableEq, Repr

/-- A common event record (R59). -/
structure Event where
  cls : Byte
  code : Byte
  unit : BitVec 16
  sev : BitVec 4
  beat : W64
  part : BitVec 5
  ctx : BitVec 3
  step : Beat
  detail : W64
deriving DecidableEq, Repr

/-- What a link-local flit carries besides time (R425, R428, R434): a time stamp of a delay measurement, the sender's identity and port,
or a change of lanes, as the good lanes and the data lane that the spare replaces. -/
inductive LinkMsg where
  | delay (n : Nat)
  | discovery (dev : W64) (port : Nat)
  | lanes (good : BitVec 9) (spareFor : BitVec 4)
deriving DecidableEq, Repr

/-- What the module has given the outside world, the newest first (log entry 6). -/
inductive Output where
  /-- Bytes written to host memory at a bus address. -/
  | hostWrite (addr : W64) (bytes : List Byte)
  /-- An event record written into a function's ring at an index (R703). -/
  | record (fn : Fn) (index : Nat) (e : Event)
  /-- An MSI-X signal (R705). -/
  | msix (fn : Fn) (vector : Nat)
  /-- A flit put on a port's fibre (R453). -/
  | flit (port : Nat) (f : Flit)
  /-- What a link-local flit just put on a port's fibre says, time apart (R425, R428, R434). -/
  | link (port : Nat) (msg : LinkMsg)
  /-- The 32-byte sectors of a mirror packet's payload that were read with an uncorrected error (R381; log entry 170). -/
  | poison (tag : Nat) (sectors : List Nat)
  /-- A time packet put on a port's fibre (R108): what the link-local flit before it carries. -/
  | timePacket (port : Nat) (t : Time)
  /-- The words a tray SPI frame carried on MISO (R706). -/
  | miso (words : List W32)
  /-- The value of a register read (R15). -/
  | readData (fn : Fn) (off : Nat) (val : W64)
  /-- A read or a write answered on the management bus (R710): its value, and whether it was refused. -/
  | vendorReply (val : W64) (refused : Bool)
  /-- An SPDM answer (R671, R672). -/
  | spdm (fn : Option Fn) (code : Byte) (body : List Byte)
  /-- What Capture-DR loads or TDO shifts out (R737). -/
  | jtag (val : BitVec 96)
  /-- The answer to a PCIe configuration request (R691): served, or Request Retry Status. -/
  | config (served : Bool)
  /-- A trace record sent through the Kerdun debug port (R728). -/
  | kport (bytes : List Byte)
deriving DecidableEq, Repr

/-- When the hardware last set a bit that a write of 1 clears: the elapsed nanosecond and the Gallery cycle, none before the first
time (R17). -/
abbrev SetAt := Option (Nat × Nat)

/-! ### Structure image (chapter 2) -/

inductive ImgSt where
  | idle | staging | staged | checking | checked | armed | applied | failed
deriving DecidableEq, Repr

/-- A Hall range of a partition record (R73). -/
structure HallRange where
  valid : Bool
  last : Nat
  first : Nat
deriving DecidableEq, Repr

/-- A partition record (R73). -/
structure PRec where
  enable : Bool
  check : Nat
  atomicSel : Nat
  power : Nat
  slice : Nat
  gal : W64
  flt : W32
  lnd : BitVec 16
  ris : Byte
  win : Byte
  cc : W32
  lpx : W32
  hbm : BitVec 256
  hall0 : HallRange
  hall1 : HallRange
  cache : Nat
  hbmIl : Nat
  lpxIl : Nat
  vcw : W32
deriving DecidableEq, Repr

/-- A slice-table entry (R75). -/
structure SliceEnt where
  slice : Nat
  mask : BitVec 16
  epoch : Byte
deriving DecidableEq, Repr

/-- The structure in force (R66): the partition records, the global settings, the slice table, and the units out of
service as (class, global index) pairs (R76). `bytes` is the image applied last; `table` its partition table section. -/
structure Struct where
  parts : List PRec
  atomicDefault : Nat
  traceTier : Nat
  traceBase : Nat
  traceSize : Nat
  slices : List SliceEnt
  oos : List (Nat × Nat)
  bytes : List Byte
  table : List Byte
deriving DecidableEq, Repr

structure Img where
  st : ImgSt
  lastCode : Byte
  badCmd : Bool
  badCmdAt : SetAt
  dirty : Bool
  devUnsigned : Bool
  latePolicy : Bool
  loadAddr : W64
  loadLen : BitVec 21
  fetchLen : Nat
  applyBeat : Beat
  armedBeat : Beat
  armedLate : Option Beat
  activeId : W64
  activeBeat : Beat
  errCount : Nat
  stIgnored : W32
  late : Beat
  errLog : List W64
  shadow : List Byte
  active : Option Struct
  excStaged : Bool
  excActive : Bool
deriving DecidableEq, Repr

/-! ### Beat time and control cores (chapter 3) -/

inductive TimeSt where
  | free | acquire | locked | holdover | master
deriving DecidableEq, Repr

structure BeatBlk where
  st : TimeSt
  master : Bool
  upEn : Bool
  upPort : BitVec 4
  distMask : BitVec 16
  offset : W64
  stray : W32
  holdBeats : Nat
  holdSince : Nat
  good : Nat
  lastPacket : Nat
  slew : Int
  slewAcc : Nat
  mqDesc : List W64
  mqRefused : Bool
  remeasure : List Nat
  almLate : NMap (W32 × W32)
  almLateAt : NMap SetAt
  lastFire : Nat
  lastFireBeat : Option Beat
  sentBeat : Option Beat
  cmapAt : Option Nat
  cmapBy : Bool
  sampleAt : Option Beat
  xoffAt : Option Beat
deriving DecidableEq, Repr

/-- Where a queue is (R133, R137): the queue class, the unit's global index, and the context (owned engines) or the
partition (every other queue; 16 is the module queue). -/
structure QKey where
  cls : Nat
  idx : Nat
  sub : Nat
deriving DecidableEq, Repr

/-- What a stalled hart waits for (R132, R135). -/
inductive Wait where
  | push (k : QKey) (d : Desc) (rd : Nat)
  | count (k : QKey) (n : W32)
  | gate (n : Nat)
  | fence
deriving DecidableEq, Repr

structure Hart where
  run : Bool
  on : Bool
  wait : Option Wait
  bpHalt : Bool
  bpStep : Bool
  bpSkip : Bool
  faulted : Bool
  faultedAt : SetAt
  pc : W64
  fault : W64
  boot : W64
  xs : NMap W64
  resv : Option (Nat × Nat)
  lastProgress : Nat
deriving DecidableEq, Repr

/-- What the harts of a control core share (R127, R129): the data scratch, the halfwords that the instruction cache holds, by Hall
offset over 2, and the hart that issued last. -/
structure Core where
  data : List Host.Cell
  icache : NMap (List Byte)
  last : Nat
deriving DecidableEq, Repr

/-! ### Galleries and Balconies (chapters 5, 6) -/

/-- The checksum unit's values for one accumulator row and array row (R214), and whether the pair accumulated last was an
integer one (R216). -/
structure ChkCell where
  e : W64
  mag : W64
  nb : Nat
  int : Bool
deriving DecidableEq, Repr

/-- What happens in a stretch of cycles of a stream on a Gallery's array: loading, or stalled in a load; vectors entering, or stalled,
or waiting for a row group (R193, R198, R200). -/
inductive SegKind where
  | load | loadStall | vec | vecStall | wait
deriving DecidableEq, Repr

/-- A stretch of consecutive cycles of one kind; `per` the cycles that one of its events takes (R187). -/
structure Seg where
  kind : SegKind
  start : Nat
  len : Nat
  per : Nat
deriving DecidableEq, Repr

/-- A Gallery descriptor that has started and not completed (R199, R201): its cycles on the Gallery clock, the stretches of its stream
and of its waits, the rows its read-out delivers (row, values of columns 0 to N − 1 and the check cells), and whether the read-out has
been made. -/
structure GalOp where
  desc : Desc
  segs : List Seg
  startC : Nat
  nextC : Nat
  lastC : Nat
  rdStart : Nat
  rdEnd : Nat
  doneC : Nat
  rows : List (Nat × List W64)
  cells : List (Nat × Nat × ChkCell × List W64)
  readout : Bool
  read : Bool
  preload : Bool
  outAddr : W64
  outStride : Nat
  outFmt : Byte
  failed : Bool
deriving DecidableEq, Repr

structure Gal where
  acc : NMap W64
  weights : List Byte
  chk : NMap ChkCell
  ops : List GalOp
  busyTo : Nat
  lastUpd : Nat
  rdFree : Nat
  grpFree : NMap Nat
  busy : W64
  vec : W64
  stallLoad : W64
  stallHall : W64
  stallIlk : W64
  refused : W32
  clip : W32
  nanrep : W32
  chkPass : W64
  chkFail : W32
  chkSkip : W32
  chkLast : W64
  eccC : W32
  eccU : W32
  eccLast : W64
  lastProgress : Nat
deriving DecidableEq, Repr

structure Slot where
  valid : Bool
  aAddr : W64
  aScl : W64
  stride : Nat
  kt : Nat
  r : Nat
  fmt : Byte
  variant : W32
deriving DecidableEq, Repr

/-- A Balcony descriptor selected (R234): a DOWN waiting for its tap (phase 1), a DOWN tapped by a MATMUL (phase 2), or an
UP (phase 4), with the cycle in which it completes; for an UP, the cycles from `startC` on in which it holds the Balcony and the array,
up to `endC`, and their stretches. -/
structure BalOp where
  desc : Desc
  phase : Nat
  startC : Nat
  endC : Nat
  segs : List Seg
  doneC : Nat
  failed : Bool
deriving DecidableEq, Repr

structure Bal where
  slots : NMap Slot
  scratch : NMap W64
  tags : NMap Byte
  slice : NMap (List Byte)
  held : Option BalOp
  freeC : Nat
  ups : List BalOp
  taps : W64
  upVec : W64
  stallHall : W64
  refused : W32
  tapMiss : W32
  clip : W32
  nanrep : W32
  tagBad : W32
  eccC : W32
  eccU : W32
  eccLast : W64
  lastProgress : Nat
deriving DecidableEq, Repr

/-! ### Risers, Winders, Landings, Newels (chapters 7, 8) -/

structure StreamSet where
  elems : W64
  clip : W64
  nanrep : W64
  under : W64
  amax : W32
  high : Bool
  thresh : BitVec 16
deriving DecidableEq, Repr

/-- A Riser, Winder, Landing or Newel descriptor executing, with the counts that its completion adds; `marks` the cycles in
which its phase changes, each with 4 × phase + pass section (R300, R341). `hallSt` and `nwlSt` hold the runs of cycles in which it
stalls, and `draws` those in which the Newel grants it lanes (R325), with their number; each run ends before its second cycle. `issues`
holds the cycle in which each operation of a Landing issues first, with the cycles it waited (R318). -/
structure EngOp where
  desc : Desc
  startC : Nat
  doneC : Nat
  elems : Nat
  clip : Nat
  nanrep : Nat
  under : Nat
  amax : W32
  hallSt : List (Nat × Nat)
  nwlSt : List (Nat × Nat)
  draws : List (Nat × Nat × Nat)
  issues : List (Nat × Nat)
  marks : List (Nat × Nat)
  failed : Bool
deriving DecidableEq, Repr

structure Ris where
  op : Option EngOp
  sets : NMap StreamSet
  busy : W64
  elems : W64
  stallHall : W64
  stallNwl : W64
  refused : W32
  last : Option EngOp
  lastAt : SetAt
  lastProgress : Nat
deriving DecidableEq, Repr

structure Win where
  op : Option EngOp
  segment : List W64
  busy : W64
  elems : W64
  stallHall : W64
  stallNwl : W64
  refused : W32
  clip : W32
  nanrep : W32
  special : W32
  eccC : W32
  eccU : W32
  eccLast : W64
  lastProgress : Nat
deriving DecidableEq, Repr

/-- A Landing. `vr` holds the vector registers by 2,048 × register + 32-bit storage word (R303, R340). -/
structure Lnd where
  op : Option EngOp
  vr : NMap W32
  sr : NMap W32
  busy : W64
  ops : W64
  stallDep : W64
  stallHall : W64
  stallNwl : W64
  refused : W32
  clip : W32
  nanrep : W32
  eccC : W32
  eccU : W32
  eccLast : W64
  lastProgress : Nat
deriving DecidableEq, Repr

/-- A Newel: `seeds` by 8 × partition + slot, `step` by partition (R326); `bad` the slots with an uncorrected seed (R338). -/
structure Nwl where
  seeds : NMap W64
  step : NMap W32
  bad : List Nat
  op : Option EngOp
  rr : Nat
  calls : W64
  grantMiss : W64
  refused : W32
  eccC : W32
  eccU : W32
  lastProgress : Nat
deriving DecidableEq, Repr

/-! ### Memory tiers (chapter 9) -/

/-- The prefetched mark of a cache line's sector (R409): the sector's place in the line, the engine that filled it, the tag of the
burst that did, and whether the fill has arrived. -/
structure PfMark where
  sector : Nat
  eng : Nat
  tag : Nat
  arrived : Bool
deriving DecidableEq, Repr

/-- A cache line (R360). `bad` marks the sectors that carry an uncorrected error (R381), and `own` those of them whose error arose in
the cache bank itself (R380). `marks` holds the prefetched marks of its sectors (R409). -/
structure CacheLine where
  tier : Nat
  addr : Nat
  valid : Byte
  dirty : Byte
  data : List Byte
  used : Nat
  bad : Byte
  own : Byte
  marks : List PfMark
deriving DecidableEq, Repr

structure PCache where
  lines : NMap CacheLine
  busy : Option Bool
  hit : W64
  miss : W64
  wb : W64
  atom : W64
  ign : W32
  clock : Nat
deriving DecidableEq, Repr

structure HallWing where
  eccC : W32
  eccU : W32
  eccLast : W64
  conflict : W64
  aged : W64
  remote : W64
deriving DecidableEq, Repr

structure MemUnit where
  trained : Bool
  selfRefresh : Bool
  temp : Byte
  rd : W64
  wr : W64
  rmw : W64
  atom : W64
  eccC : W32
  eccU : W32
  eccLast : W64
deriving DecidableEq, Repr

structure Tg where
  passes : BitVec 16
  order : BitVec 2
  mode : BitVec 2
  invert : Bool
  pattern : BitVec 3
  passesDone : BitVec 16
  refused : Bool
  refusedAt : SetAt
  isDone : Bool
  isDoneAt : SetAt
  running : Bool
  /-- When the test in progress started, what it meets, and the count under which it reads sectors stored under a key. -/
  startAt : Nat
  faults : List TestFail
  freeAt : Nat
  base : BitVec 35
  len : BitVec 36
  seed : BitVec 31
  errs : W64
  first : BitVec 35
  bits : W64
  user : List W64
deriving DecidableEq, Repr

structure MemBlk where
  hall : TierMem
  fast : TierMem
  slow : TierMem
  slowTag : NMap (Nat × Nat)
  poison : NMap Bool
  keyId : NMap Nat
  nextKey : Nat
  caches : NMap PCache
  hallW : NMap HallWing
  hbm : NMap MemUnit
  lpx : NMap MemUnit
  tg : NMap Tg
  badUnits : List (Nat × Nat)
  freeCount : Nat
deriving DecidableEq, Repr

/-! ### Flight engines (chapter 10) -/

/-- What a burst in flight waits for (R407, R411): data of another module or of the host, the acknowledgement of this
module's memory, of a destination module, or of the host, the old values of a fetching update, the acknowledgement of a
NOTIFY, the arrival of a prefetch's fill, or its turn among the atomic updates of its descriptor, its operands read. -/
inductive BurstKind where
  | slotData | hostData | localAck | slotAck | oldData | hostAck | notifyAck | fill | held
deriving DecidableEq, Repr

/-- A burst in flight: its tag, the instant of its issue, what it waits for, its source and destination and its length in
bytes, whether it holds a shared tag (R408), and, with atomic updates, the tag of the burst with the first part of its first operand
(R398). -/
structure BurstRec where
  tag : Nat
  issued : Nat
  kind : BurstKind
  src : W64
  dst : W64
  len : Nat
  shared : Bool
  mate : Option Nat
deriving DecidableEq, Repr

/-- A burst of atomic updates whose updates have not been sent on (R370, R398): its tag, and its operands once read. -/
structure AtomPart where
  tag : Nat
  data : Option (List Byte)
deriving DecidableEq, Repr

/-- A Flight descriptor that has started: the bytes issued of the walk's total; the gather entry, its run once read, and the
bytes issued of it; whether a NOTIFY is due (1) or sent (2); the event code of its first error; its bursts in flight; and its bursts of
atomic updates, in the order of issue. -/
structure FltOp where
  desc : Desc
  next : Nat
  total : Nat
  entry : Nat
  run : Option (W64 × Nat)
  inEntry : Nat
  linOff : Nat
  issuedAll : Bool
  notify : Nat
  err : Byte
  bursts : List BurstRec
  atoms : List AtomPart
deriving DecidableEq, Repr

/-- A burst in flight whose engine was reset (R413): its partition, context and SEQ; its tag is released by its response or its
limit. -/
structure Orphan where
  burst : BurstRec
  part : Nat
  ctx : Nat
  seq : W64
deriving DecidableEq, Repr

/-- A Flight engine; `stallFrom` the cycle since which it has had a burst ready and no tag; `dead` the tags of bursts that timed out,
each with its partition, context and SEQ. -/
structure Flt where
  ops : List FltOp
  tmo : BitVec 16
  maxShare : BitVec 15
  nextTag : Nat
  rd : W64
  wr : W64
  tagsMax : BitVec 16
  stallTag : W64
  stallFrom : Option Nat
  refused : W32
  errors : W32
  late : W32
  pfFilled : W64
  pfUsed : W64
  pfTimely : W64
  pfWaste : W64
  errLast : W64
  dead : List (Nat × Nat × Nat × W64)
  orphans : List Orphan
  lastProgress : Nat
deriving DecidableEq, Repr

/-! ### Fabric (chapter 11) -/

inductive PortSt where
  | down | training | up | narrow | quarantined | disabled
deriving DecidableEq, Repr

/-- A packet in progress on an input virtual channel: its header, the route its head took (0–15 port, 16 LOCAL,
17 discard), the output VC, the content gathered, the flits received and forwarded, whether its tail has come, whether it was
truncated, whether a truncation mark of this port is to follow its last flit, and the instant from which its tail is timed. -/
structure InPkt where
  hdr : Hdr
  out : Nat
  outVc : Nat
  flits : List Flit
  got : Nat
  sent : Nat
  content : List Byte
  ended : Bool
  truncated : Bool
  mark : Bool
  lastAt : Nat
deriving DecidableEq, Repr

structure VcSt where
  pkts : List InPkt
  occ : Nat
  xoff : Bool
  seen : Bool
  off : Nat
  on : Nat
  hist : List Nat
  histX : Nat
  last : List Nat
  lastX : Nat
deriving DecidableEq, Repr

/-- A packet waiting for local injection at an output port: the partition that sends it (16 none). -/
structure Inj where
  part : Nat
  vc : Nat
  flits : List Flit
deriving DecidableEq, Repr

structure PortCnt where
  tx : W64
  rx : W64
  crc : W32
  orphan : W32
  trunc : W32
  lenBad : W32
  overrun : W32
  hdrBad : W32
  downDrop : W32
  tc0Shaped : W64
  fcIgn : W32
  laneLoss : W32
deriving DecidableEq, Repr

structure Port where
  st : PortSt
  lanes : BitVec 9
  spareFor : BitVec 4
  active : List Nat
  ver : BitVec 2
  eqLight : Bool
  verMax : BitVec 2
  enable : Bool
  delay : W32
  nbrDev : W64
  nbrPort : BitVec 4
  nbrKnown : Bool
  vcs : NMap VcSt
  tcWgt : BitVec 24
  tc0Limit : BitVec 16
  tailTmo : BitVec 10
  cnt : PortCnt
  cmapWin : Beat
  farXoff : Byte
  inj : List Inj
  owner : NMap Nat
  rrIn : NMap Nat
  credit : NMap Int
  deficit : List Nat
  turn : Nat
  bucket : Nat
  bucketBeat : Nat
  lastFlit : Nat
  since : Nat
  retraining : Bool
  retrainAt : Nat
deriving DecidableEq, Repr

inductive RteSt where
  | idle | armed | refused
deriving DecidableEq, Repr

structure Rte where
  chipValid : Bool
  chip : BitVec 13
  nextRaw : W64
  swapBeat : Beat
  armedBeat : Beat
  st : RteSt
  entry : BitVec 16
  lastCode : Byte
  badCmd : Bool
  badCmdAt : SetAt
  noRoute : W32
  stale : W32
  sliceRej : W32
  nopart : W32
  shadowIgn : W32
  epochs : NMap (Byte × Byte)
  active : NMap (BitVec 128)
  shadow : NMap (BitVec 128)
  seen : List (Nat × Nat × Nat)
  local_ : List Pkt
  accepted : List Pkt
  nextTag : Nat
deriving DecidableEq, Repr

/-! ### Arcade (chapter 12) -/

/-- An ALLREDUCE that runs (R487, R488): whether by the ring, which of its phases it is in, the current value of each element of
its half, the rank-map entries it uses, the phases whose READY has come, whether this phase's DATA has left, the bytes
received in this phase, when the phase began and the timer limit in beats. -/
structure ArcOp where
  desc : Desc
  ring : Bool
  phase : Nat
  vals : NMap W64
  ents : NMap Nat
  readies : List Nat
  sent : Bool
  got : Nat
  startAt : Nat
  limit : Nat
deriving DecidableEq, Repr

/-- A READY or VOTE packet that came before its operation started (R493, R501). -/
structure Early where
  pkt : Pkt
  at_ : Nat
deriving DecidableEq, Repr

structure Arc where
  op : Option ArcOp
  rr : Nat
  early : List Early
  tmoDef : BitVec 16
  voteTmo : BitVec 16
  ops : W64
  tx : W64
  rx : W64
  adds : W64
  timeouts : W32
  latePkt : W32
  earlyDrop : W32
  refused : W32
  xwing : W64
  errLast : W64
  ended : List (Nat × Nat)
  lastProgress : Nat
deriving DecidableEq, Repr

structure VoteCfgRec where
  map : W64
  size : Nat
  rank : Nat
  tmo : Nat
deriving DecidableEq, Repr

structure VoteOp where
  cfg : VoteCfgRec
  step : Beat
  phase : Nat
  value : W32
  ents : NMap Nat
  got : Bool
  startAt : Nat
  limit : Nat
deriving DecidableEq, Repr

structure VoteUnit where
  cfgs : NMap VoteCfgRec
  running : List (Nat × VoteOp)
  queued : NMap (List (Beat × W32))
  ended : List (Nat × Nat)
  early : List Early
  lastStep : NMap (Bool × Beat)
  lastRes : NMap (W32 × W32)
  lastProgress : Nat
deriving DecidableEq, Repr

/-! ### Vestibule and mirror engine (chapter 13) -/

inductive SlotSt where
  | open | computed | verified | committed | failed | undecided
deriving DecidableEq, Repr

/-- A batch record (R516); `off` is the slow-tier offset of the bytes that COPY keeps, none when none are kept. -/
structure BatchRec where
  addr : W64
  len : W64
  digestMode : Bool
  handle : List Byte
  digest : List Byte
  off : Option Nat
deriving DecidableEq, Repr

/-- A captured ALLREDUCE (R518): its OP_ID, HALF, DTYPE, element count, and the slow-tier offset of its record. -/
structure Capture where
  opId : W32
  half : Nat
  dtype : Nat
  elems : Nat
  off : Nat
deriving DecidableEq, Repr

structure VSlot where
  st : SlotSt
  step : Beat
  norec : Bool
  taint : Bool
  verifiedSeen : Bool
  voting : Bool
  replayed : Bool
  replayMode : Nat
  s : W32
  seeds : List W64
  batches : List BatchRec
  captures : List Capture
  used : Nat
  openedAt : Nat
  verifiedBeat : Option Beat
  soloNext0 : Nat
  soloNext1 : Nat
  result : W32
  deep : Nat := 0
deriving DecidableEq, Repr

inductive SnapSt where
  | empty | copying | valid | draining | drained
deriving DecidableEq, Repr

structure Vst where
  enable : Bool
  depth : BitVec 4
  vest : BitVec 44
  shard : BitVec 44
  snap : BitVec 44
  cmdStep : Beat
  cmdBeat : Beat
  armedCmd : List (Nat × Beat × Beat)
  lastCode : Byte
  regionBad : Bool
  regionBadAt : SetAt
  cfgIgn : Bool
  cfgIgnAt : SetAt
  committed : Beat
  snapSt : SnapSt
  snapStep : Beat
  cut : Option Beat
  drainDst : W64
  drainDeadline : Beat
  drainObj : W64
  drainDone : W64
  drainFab : Bool
  drainTags : List (Nat × Nat)
  drainLateSeen : Bool
  drainAckAt : Nat
  replays : BitVec 16
  overflows : BitVec 16
  putsSupp : W32
  slots : NMap VSlot
  awaits : List Desc
deriving DecidableEq, Repr

/-- A SEND that runs (R538): whether FULL and whether it was sent again, the tag of its BEGIN, the tag of its END once that
has left, the tags of LIST and DATA packets not yet acknowledged, its ranges, and the instant of the last acknowledgement. -/
structure SendOp where
  desc : Desc
  full : Bool
  resent : Bool
  beginTag : Nat
  endTag : Option Nat
  tags : List Nat
  ranges : List (Nat × Nat)
  lastAck : Nat
deriving DecidableEq, Repr

/-- An inbound mirror transfer (R539). -/
structure InXfer where
  step : Beat
  full : Bool
  size : Nat
  entries : Nat
  ranges : List (Nat × Nat)
  bytes : Nat
  wrote : Bool
  lastAt : Nat
deriving DecidableEq, Repr

/-- A restore that runs (R541): bytes received, the instant of the last packet, its FETCH's tag, and each step whose header has
come, as the slot to be built, in the order in which they came. -/
structure Restore where
  bytes : Nat
  lastAt : Nat
  tag : Nat
  slots : List VSlot
deriving DecidableEq, Repr

structure Mir where
  partner : W32
  region : BitVec 44
  source : W32
  lastRefusal : BitVec 4
  outAck : Option Beat
  inC : Option (Bool × Beat)
  inCSize : Nat
  tmo : BitVec 16
  tx : W64
  rx : W64
  fulls : W32
  send : Option SendOp
  inX : Option InXfer
  lastRanges : Option (List (Nat × Nat))
  inputs : List (List Byte)
  restore : Option Restore
deriving DecidableEq, Repr

/-! ### Watchdogs, resets, suspects (chapter 14) -/

/-- A suspect (R570, R589); `exit` when its hart has fetched from its WDG_EXIT address in its slot (R573). -/
structure Suspect where
  verdict : Nat
  cls : Nat
  unit : Nat
  part : Nat
  exec : Bool
  ctx : Nat
  exit : Bool
deriving DecidableEq, Repr

/-- A reset in progress: its domain, its level and the instant it began. -/
structure ResetRec where
  dom : Dom
  level : Nat
  start : Nat
deriving DecidableEq, Repr

/-- A reset ordered and not begun: its domain, its level (6 a power cycle), and 0 when the module orders it on its own, 1 for the
always-on watchdog, 2 when a command does. -/
structure ResetOrder where
  dom : Dom
  level : Nat
  cause : Nat
deriving DecidableEq, Repr

structure Wdg where
  pwrAuto : Bool
  auto : BitVec 5
  ctxTmo : W32
  engTmo : BitVec 16
  partTmo : W32
  wingTmo : BitVec 11
  ctxDrain : BitVec 16
  escWin : W32
  escCount : Byte
  slotMax : W32
  slotGap : BitVec 16
  pend : List (Nat × Dom)
  badCmd : Bool
  badCmdAt : SetAt
  phase : Bool
  phaseAt : Nat
  slotOpen : Option Nat
  slotAt : Nat
  gapFrom : Option Beat
  hung : List (Nat × Nat)
  suspects : List Suspect
  noticeSrc : W64
  noticeDst : W64
  noticeArg : W64
  cntCtx : BitVec 16
  cntEng : BitVec 16
  cntPart : BitVec 16
  cntWing : Byte
  cntChip : Byte
  noticeRej : W32
  entries : NMap W64
  exits : NMap W64
  ordered : List ResetOrder
  running : List ResetRec
  history : List ResetRec
  partProgress : NMap Nat
  pwr : Option (Nat × Nat)
  pwrLog : Nat
deriving DecidableEq, Repr

/-! ### Checking and health (chapter 15) -/

structure PtRun where
  unit : Nat
  cls : Nat
  slot : Nat
  first : Nat
  last : Nat
  soaking : Bool
  startBeat : Beat
  stopping : Bool
deriving DecidableEq, Repr

structure Chk where
  cmp : W64
  mismatch : W32
  lost : W32
  last : W64
  pmis : NMap W32
  ptUnit : BitVec 16
  ptCls : BitVec 4
  ptSlot : BitVec 2
  ptFirst : Byte
  ptLast : Byte
  failTest : Byte
  temp : Byte
  reason : BitVec 3
  notSoaked : Bool
  ptSt : Nat
  run : Option PtRun
  buffer : NMap Byte
  rr : Nat
  lastProgress : Nat
deriving DecidableEq, Repr

structure Pack where
  id : W64
  ver : W32
  tests : Nat
  bytes : List Byte
deriving DecidableEq, Repr

/-- The windowed counts of one unit (R605, R607): per (sub-window, cell) the counts CORR, HARD and HANG; the lifetime
totals; LAST_PASS; and what was recorded in this window. -/
structure UnitHealth where
  cells : NMap (Nat × Nat × Nat)
  lifeC : Nat
  lifeH : Nat
  lifeG : Nat
  pass : Option Beat
  lasting : Bool
  warned : Bool
  lastingSeen : Bool
deriving DecidableEq, Repr

structure Hlt where
  breath : Nat
  breathWhole : Bool
  win : Beat
  thrC : W64
  thrH : W64
  thrG : W64
  unitSel : BitVec 24
  units : NMap UnitHealth
  sub : Nat
  subAt : Nat
  packAddr : W64
  packLen : BitVec 24
  packBusy : Option (Nat × Pack)
  packCode : Byte
  packs : NMap Pack
  logSel : BitVec 36
  sram : List (List Byte)
  ring : NMap (List Byte)
  ringNext : Nat
  ringOver : Nat
  summary : List Byte
  summaryAt : Nat
  flushAt : Nat
  breathSlots : NMap (List Byte)
  breathNext : Nat
  last16 : List Event
  margins : List (List Byte)
  retired : List (Nat × Nat × Beat)
  seconds : Nat
  thermal : W32
  powerOns : W32
deriving DecidableEq, Repr

structure Cor where
  status : Byte
  retry : W64
  repair : W32
  tx : W64
  rx : W64
  seen : List (Nat × Nat)
deriving DecidableEq, Repr

/-! ### Power (chapter 16) -/

structure Reason where
  active : Bool
  level : Nat
  deepest : Nat
  start : Beat
  lastStep : Nat
  seenWin : Option Nat
deriving DecidableEq, Repr

/-- A change of operating point or cap on its way (R631): its target point, whether it raises the clock. -/
structure OpChange where
  op : Nat
  raise : Bool
  due : Nat
deriving DecidableEq, Repr

structure Pwr where
  slackTx : Bool
  bandLock : Bool
  op : Nat
  clockOp : Nat
  cap : Nat
  change : Option OpChange
  reasons : NMap Reason
  inputMw : W32
  avgMw : W32
  energy : W64
  trayLimit : BitVec 11
  thermThr : Byte
  temp : Byte
  slackDst : BitVec 13
  thrHead : Nat
  thrLog : NMap (W64 × W64)
  guard : W32
  derived : BitVec 16
  measured : BitVec 16
  disagree : BitVec 16
  measuredAt : Nat
  calDue : Bool
  therm : Bool
  cal : NMap (BitVec 16 × BitVec 2 × Bool)
  slack : NMap (W32 × W32)
  loadBand : Nat
  recal : Option Nat
  deepest : NMap Nat
deriving DecidableEq, Repr

/-! ### Security (chapter 17) -/

/-- A signing-key slot (R673): its key, its USE field, and 0 empty, 1 enrolled, 2 revoked. -/
structure KeySlot where
  key : List Byte
  use : BitVec 2
  st : Nat
deriving DecidableEq, Repr

/-- A slice key (R666): slice ID, epoch, key, load order and the sender's counter (R665). -/
structure SKey where
  slice : Nat
  epoch : Byte
  key : List Byte
  order : Nat
  counter : W64
deriving DecidableEq, Repr

structure Sec where
  locked : Bool
  refusal : Byte
  lkIgn : W32
  gcmFail : W32
  noKey : W32
  scrub : List (Nat × Nat)
  scrubAt : Nat
  keyData : List W64
  keyStatus : Byte
  keySlots : NMap KeySlot
  revoked : List (List Byte)
  skeyData : List W64
  skeyStatus : BitVec 2
  skeyAt : SetAt
  skeys : List SKey
  skeyOrder : Nat
  ckeyData : List W64
  ckeys : NMap (List Byte)
  gcmSeen : List (Nat × Nat)
  lkSeen : Option Nat
  partCtr : NMap W64
deriving DecidableEq, Repr

/-! ### Host link, start-up, sideband (chapter 18) -/

structure Evr where
  base : W64
  mod_ : BitVec 16
  size : BitVec 5
  enable : Bool
  head : W32
  tail : W32
  lost : W32
  lostSince : Nat
  lastSig : Option Nat
  unsig : Bool
deriving DecidableEq, Repr

structure Pci where
  stage : Nat
  failStage : Nat
  stageAt : Nat
  degraded : Bool
  copyB : Bool
  readyBeat : W32
  linkUp : Bool
  width : Byte
  rate : Byte
  flit : Bool
  slotChanged : Bool
  slotChangedAt : SetAt
  slotValid : Bool
  slotId : BitVec 4
  unmappedR : W32
  unmappedW : W32
  vfDenied : W32
  spiShort : W32
  spiExcess : W32
  spiBad : W32
  ide : BitVec 9
  ideKeys : NMap (List Byte)
  slotMap : NMap W32
  bistFail : List (Nat × Nat)
  evr : NMap Evr
  vfOn : BitVec 16
  woHi : NMap W32
  wingOut : NMap Bool
  fwDigest : List Byte
  fwVersion : W32
deriving DecidableEq, Repr

structure Tray where
  alert : BitVec 10
  alertEn : W32
  errShort : BitVec 16
  errExcess : BitVec 16
  p54v : Bool
  perstN : Bool
  holdupOk : Bool
  pwrcycReqN : Bool
  thermTripN : Bool
  dynAddr : Option (BitVec 7)
  ibi : Nat
  alertAt : NMap SetAt
  hottestHbm : Byte
  hottestLpx : Byte
deriving DecidableEq, Repr

/-! ### Debug and trace (chapter 19) -/

structure Dbg where
  pcPer : BitVec 16
  kinds : BitVec 6
  stopFull : Bool
  sink : BitVec 2
  enable : Bool
  part : BitVec 16
  cls : BitVec 12
  dst : BitVec 13
  wptr : Nat
  lost : W32
  lostNow : Nat
  lostWin : Option Nat
  regionFull : Bool
  kport : Bool
  sinkNow : Nat
  dumpRun : Option (W64 × Nat × Nat)
  dumpAddr : W64
  dumpFirst : Beat
  dumpCount : W32
  telCtrl : W64
  telSrc : W64
  telRej : W32
  buffer : List (List Byte)
  hold : Option Beat
  snapBeat : Option Beat
  pcAt : Nat
  bp : NMap W64
  hitAt : NMap Nat
  evtSev : NMap W64
  pGal : NMap W64
  pLnd : NMap W64
  pFlt : NMap W64
  pDesc : NMap W64
  pErrC : NMap W32
  pErrE : NMap W32
  pAlmMax : NMap Nat
  pComC : NMap W32
  pComF : NMap W32
  /-- Bytes of command queues, event records and the always-on mirror over the Corridor (R33), by sending and by receiving wing; COR_TX
  and COR_RX show them with the rest. -/
  corTx : NMap W64
  corRx : NMap W64
deriving DecidableEq, Repr

structure Jtag where
  ir : Byte
  dr : BitVec 96
  boundary : W64
deriving DecidableEq, Repr

/-- What is fixed at factory test (R7, R8, R428, R678). -/
structure Fused where
  grade : Byte
  galPresent : W64
  devId : W64
deriving DecidableEq, Repr

/-- The clocks: fabric time (R104); nanoseconds since power-on and Gallery cycles since power-on (the model's own
monotonic measures, log entry 2). -/
structure Clk where
  time : Time
  elapsed : Nat
  cycle : Nat
  cycAcc : Nat
deriving DecidableEq, Repr

/-- All the hardware of one module. -/
structure Module where
  fused : Fused
  clk : Clk
  img : Img
  beat : BeatBlk
  queues : List (QKey × List Desc)
  counts : List ((Nat × QKey) × W32)
  gates : NMap (BitVec 16)
  outstanding : NMap Nat
  harts : NMap Hart
  cores : NMap Core
  gal : NMap Gal
  bal : NMap Bal
  ris : NMap Ris
  win : NMap Win
  lnd : NMap Lnd
  nwl : NMap Nwl
  mem : MemBlk
  flt : NMap Flt
  port : NMap Port
  rte : Rte
  arc : NMap Arc
  vote : VoteUnit
  vst : NMap Vst
  mir : NMap Mir
  wdg : Wdg
  chk : NMap Chk
  hlt : Hlt
  cor : NMap Cor
  pwr : Pwr
  sec : Sec
  pci : Pci
  tray : Tray
  dbg : Dbg
  jtag : Jtag
  out : List Output
deriving DecidableEq, Repr

/-- Why a step stops with a fault. The spec names no condition in which the module as a whole stops without being
described state; no command of the model faults. -/
inductive Fault where
  /-- Raised by no command of this model: kept so that the type has a value. Safe. -/
  | none
deriving DecidableEq, Repr

/-- Why a command is refused. -/
inductive Refusal where
  /-- The arm of `exec` for a row that has no meaning yet. Safe: nothing is claimed of it. -/
  | notModelled (mnemonic : String)
  /-- Raised by the row's own meaning when the event it stands for cannot come about in the state (a completion with
  nothing executing, an alarm of an empty queue): the spec gives no such event there. Safe: no next state is claimed. -/
  | notDue (row : String)
  /-- Raised by a row's own meaning on operands that fail `Instr.wellFormed`: no command of the hardware. Safe. -/
  | illFormed
deriving DecidableEq, Repr

structure State where
  /-- The commands that wait, first in, first out. -/
  pending : List Instr
  /-- The hardware. -/
  m : Module
deriving DecidableEq, Repr

/-! ### Reset values of the units -/

def Img.init : Img :=
  { st := .idle, lastCode := 0, badCmd := false, badCmdAt := none, dirty := false, devUnsigned := false, latePolicy := false,
    loadAddr := 0, loadLen := 0, fetchLen := 0, applyBeat := 0, armedBeat := 0, armedLate := none, activeId := 0, activeBeat := 0, errCount := 0,
    stIgnored := 0, late := 0, errLog := [], shadow := [], active := none, excStaged := false, excActive := false }

def BeatBlk.init : BeatBlk :=
  { st := .free, master := false, upEn := false, upPort := 0, distMask := 0, offset := 0, stray := 0, holdBeats := 0,
    holdSince := 0, good := 0, lastPacket := 0, slew := 0, slewAcc := 0, mqDesc := [0, 0, 0, 0], mqRefused := false,
    remeasure := [], almLate := [], almLateAt := [], lastFire := 0, lastFireBeat := none, sentBeat := none, cmapAt := none, cmapBy := false,
    sampleAt := none, xoffAt := none }

def Hart.init : Hart :=
  { run := false, on := false, wait := none, bpHalt := false, bpStep := false, bpSkip := false, faulted := false, faultedAt := none, pc := 0, fault := 0,
    boot := 0, xs := [], resv := none, lastProgress := 0 }

def Core.init : Core := { data := [], icache := [], last := 3 }

def ChkCell.init : ChkCell := { e := 0, mag := 0, nb := 0, int := false }

def Gal.init : Gal :=
  { acc := [], weights := [], chk := [], ops := [], busyTo := 0, lastUpd := 0, rdFree := 0, grpFree := [], busy := 0, vec := 0,
    stallLoad := 0, stallHall := 0, stallIlk := 0, refused := 0, clip := 0, nanrep := 0, chkPass := 0, chkFail := 0,
    chkSkip := 0, chkLast := 0, eccC := 0, eccU := 0, eccLast := 0, lastProgress := 0 }

def Slot.init : Slot :=
  { valid := false, aAddr := 0, aScl := 0, stride := 0, kt := 0, r := 1, fmt := 0, variant := 0 }

def Bal.init : Bal :=
  { slots := [], scratch := [], tags := [], slice := [], held := none, freeC := 0, ups := [], taps := 0, upVec := 0, stallHall := 0,
    refused := 0, tapMiss := 0, clip := 0, nanrep := 0, tagBad := 0, eccC := 0, eccU := 0, eccLast := 0, lastProgress := 0 }

def StreamSet.init : StreamSet :=
  { elems := 0, clip := 0, nanrep := 0, under := 0, amax := 0, high := false, thresh := 0 }

def Ris.init : Ris :=
  { op := none, sets := [], busy := 0, elems := 0, stallHall := 0, stallNwl := 0, refused := 0, last := none, lastAt := none,
    lastProgress := 0 }

def Win.init : Win :=
  { op := none, segment := [], busy := 0, elems := 0, stallHall := 0, stallNwl := 0, refused := 0, clip := 0, nanrep := 0,
    special := 0, eccC := 0, eccU := 0, eccLast := 0, lastProgress := 0 }

def Lnd.init : Lnd :=
  { op := none, vr := [], sr := [], busy := 0, ops := 0, stallDep := 0, stallHall := 0, stallNwl := 0, refused := 0,
    clip := 0, nanrep := 0, eccC := 0, eccU := 0, eccLast := 0, lastProgress := 0 }

def Nwl.init : Nwl :=
  { seeds := [], step := [], bad := [], op := none, rr := 15, calls := 0, grantMiss := 0, refused := 0,
    eccC := 0, eccU := 0, lastProgress := 0 }

def PCache.init : PCache :=
  { lines := [], busy := none, hit := 0, miss := 0, wb := 0, atom := 0, ign := 0, clock := 0 }

def HallWing.init : HallWing :=
  { eccC := 0, eccU := 0, eccLast := 0, conflict := 0, aged := 0, remote := 0 }

def MemUnit.init : MemUnit :=
  { trained := false, selfRefresh := false, temp := 0, rd := 0, wr := 0, rmw := 0, atom := 0, eccC := 0, eccU := 0, eccLast := 0 }

def Tg.init : Tg :=
  { passes := 1, order := 0, mode := 0, invert := false, pattern := 0, passesDone := 0, refused := false, refusedAt := none, isDone := false,
    isDoneAt := none, running := false, startAt := 0, faults := [], freeAt := 0, base := 0, len := 0, seed := 0, errs := 0, first := 0, bits := 0, user := [0, 0, 0, 0] }

def TierMem.init : TierMem := { cells := [], lost := [] }

def MemBlk.init : MemBlk :=
  { hall := TierMem.init, fast := TierMem.init, slow := TierMem.init, slowTag := [], poison := [], keyId := [], nextKey := 1,
    caches := [], hallW := [], hbm := [], lpx := [], tg := [], badUnits := [], freeCount := 0 }

def Flt.init : Flt :=
  { ops := [], tmo := 64, maxShare := 24576, nextTag := 0, rd := 0, wr := 0, tagsMax := 0, stallTag := 0, stallFrom := none, refused := 0,
    errors := 0, late := 0, pfFilled := 0, pfUsed := 0, pfTimely := 0, pfWaste := 0, errLast := 0, dead := [], orphans := [], lastProgress := 0 }

def PortCnt.init : PortCnt :=
  { tx := 0, rx := 0, crc := 0, orphan := 0, trunc := 0, lenBad := 0, overrun := 0, hdrBad := 0, downDrop := 0,
    tc0Shaped := 0, fcIgn := 0, laneLoss := 0 }

/-- An input virtual channel at reset; `big` for TC1 and TC2, whose default thresholds are larger (R452). -/
def VcSt.init (big : Bool) : VcSt :=
  { pkts := [], occ := 0, xoff := false, seen := false, off := if big then 40 else 16, on := if big then 20 else 8,
    hist := [0, 0, 0, 0, 0, 0, 0, 0], histX := 0, last := [0, 0, 0, 0, 0, 0, 0, 0], lastX := 0 }

def Port.init : Port :=
  { st := .down, lanes := 0, spareFor := 15, active := [], ver := 0, eqLight := false, verMax := 3, enable := true, delay := 0,
    nbrDev := 0, nbrPort := 0, nbrKnown := false, vcs := [], tcWgt := 0x206060, tc0Limit := 1024, tailTmo := 20,
    cnt := PortCnt.init, cmapWin := 0, farXoff := 0, inj := [], owner := [], rrIn := [], credit := [], deficit := [0, 0, 0],
    turn := 0, bucket := 1024, bucketBeat := 0, lastFlit := 0, since := 0, retraining := false, retrainAt := 0 }

def Rte.init : Rte :=
  { chipValid := false, chip := 0, nextRaw := 0, swapBeat := 0, armedBeat := 0, st := .idle, entry := 0, lastCode := 0,
    badCmd := false, badCmdAt := none, noRoute := 0, stale := 0, sliceRej := 0, nopart := 0, shadowIgn := 0, epochs := [], active := [],
    shadow := [], seen := [], local_ := [], accepted := [], nextTag := 0 }

def Arc.init : Arc :=
  { op := none, rr := 15, early := [], tmoDef := 4096, voteTmo := 16, ops := 0, tx := 0, rx := 0, adds := 0, timeouts := 0,
    latePkt := 0, earlyDrop := 0, refused := 0, xwing := 0, errLast := 0, ended := [], lastProgress := 0 }

def VoteUnit.init : VoteUnit :=
  { cfgs := [], running := [], queued := [], ended := [], early := [], lastStep := [], lastRes := [], lastProgress := 0 }

def Vst.init : Vst :=
  { enable := false, depth := 2, vest := 0, shard := 0, snap := 0, cmdStep := 0, cmdBeat := 0, armedCmd := [], lastCode := 0,
    regionBad := false, regionBadAt := none, cfgIgn := false, cfgIgnAt := none, committed := 0, snapSt := .empty, snapStep := 0, cut := none, drainDst := 0,
    drainDeadline := 0, drainObj := 0, drainDone := 0, drainFab := false, drainTags := [], drainLateSeen := false,
    drainAckAt := 0, replays := 0, overflows := 0, putsSupp := 0, slots := [], awaits := [] }

def Mir.init : Mir :=
  { partner := 0, region := 0, source := 0, lastRefusal := 0, outAck := none, inC := none, inCSize := 0, tmo := 8192, tx := 0, rx := 0,
    fulls := 0, send := none, inX := none, lastRanges := none, inputs := [], restore := none }

def Wdg.init : Wdg :=
  { pwrAuto := true, auto := 0x1F, ctxTmo := 16384, engTmo := 4096, partTmo := 262144, wingTmo := 16, ctxDrain := 64,
    escWin := 16777216, escCount := 3, slotMax := 1048576, slotGap := 16, pend := [], badCmd := false, badCmdAt := none, phase := false,
    phaseAt := 0, slotOpen := none, slotAt := 0, gapFrom := none, hung := [], suspects := [], noticeSrc := 0, noticeDst := 0, noticeArg := 0,
    cntCtx := 0, cntEng := 0, cntPart := 0, cntWing := 0, cntChip := 0, noticeRej := 0, entries := [],
    exits := [], ordered := [], running := [], history := [], partProgress := [], pwr := none, pwrLog := 0 }

def Chk.init : Chk :=
  { cmp := 0, mismatch := 0, lost := 0, last := 0, pmis := [], ptUnit := 0, ptCls := 0, ptSlot := 0, ptFirst := 0, ptLast := 0,
    failTest := 0, temp := 0, reason := 0, notSoaked := false, ptSt := 0, run := none, buffer := [], rr := 15,
    lastProgress := 0 }

def UnitHealth.init : UnitHealth :=
  { cells := [], lifeC := 0, lifeH := 0, lifeG := 0, pass := none, lasting := false, warned := false, lastingSeen := false }

def Hlt.init : Hlt :=
  { breath := 0, breathWhole := true, win := 0x100000000, thrC := 0x1000010004000040,
    thrH := 0x0004000200020001, thrG := 0x0006000200030001, unitSel := 0, units := [], sub := 0, subAt := 0, packAddr := 0,
    packLen := 0, packBusy := none, packCode := 0, packs := [], logSel := 0, sram := [], ring := [], ringNext := 0,
    ringOver := 0, summary := [], summaryAt := 0, flushAt := 0, breathSlots := [], breathNext := 0, last16 := [],
    margins := [], retired := [], seconds := 0, thermal := 0, powerOns := 0 }

def Cor.init : Cor := { status := 0xFF, retry := 0, repair := 0, tx := 0, rx := 0, seen := [] }

def Reason.init : Reason :=
  { active := false, level := 0, deepest := 0, start := 0, lastStep := 0, seenWin := none }

def Pwr.init : Pwr :=
  { slackTx := false, bandLock := true, op := 0, clockOp := 0, cap := 1400, change := none, reasons := [], inputMw := 0,
    avgMw := 0, energy := 0, trayLimit := 0, thermThr := 95, temp := 0, slackDst := 0, thrHead := 0, thrLog := [],
    guard := 0, derived := 0, measured := 0, disagree := 0, measuredAt := 0, calDue := false, therm := false, cal := [],
    slack := [], loadBand := 0, recal := none, deepest := [] }

def KeySlot.init : KeySlot := { key := [], use := 0, st := 0 }

def Sec.init : Sec :=
  { locked := false, refusal := 0, lkIgn := 0, gcmFail := 0, noKey := 0, scrub := [], scrubAt := 0, keyData := List.replicate 12 0,
    keyStatus := 0, keySlots := [], revoked := [], skeyData := [0, 0, 0, 0], skeyStatus := 0, skeyAt := none, skeys := [], skeyOrder := 0,
    ckeyData := [0, 0, 0, 0], ckeys := [], gcmSeen := [], lkSeen := none, partCtr := [] }

def Evr.init : Evr :=
  { base := 0, mod_ := 0, size := 0, enable := false, head := 0, tail := 0, lost := 0, lostSince := 0, lastSig := none,
    unsig := false }

def Pci.init : Pci :=
  { stage := 1, failStage := 0, stageAt := 0, degraded := false, copyB := false, readyBeat := 0, linkUp := false, width := 0,
    rate := 0, flit := false, slotChanged := false, slotChangedAt := none, slotValid := false, slotId := 0, unmappedR := 0, unmappedW := 0,
    vfDenied := 0, spiShort := 0, spiExcess := 0, spiBad := 0, ide := 0, ideKeys := [], slotMap := [], bistFail := [],
    evr := [], vfOn := 0, woHi := [], wingOut := [], fwDigest := [], fwVersion := 0 }

def Tray.init : Tray :=
  { alert := 0, alertEn := 0x27F, errShort := 0, errExcess := 0, p54v := true, perstN := true, holdupOk := false,
    pwrcycReqN := true, thermTripN := true, dynAddr := none, ibi := 0, alertAt := [], hottestHbm := 0, hottestLpx := 0 }

def Dbg.init : Dbg :=
  { pcPer := 0, kinds := 0, stopFull := false, sink := 0, enable := false, part := 0, cls := 0, dst := 0, wptr := 0, lost := 0,
    lostNow := 0, lostWin := none, regionFull := false, kport := false, sinkNow := 3, dumpRun := none, dumpAddr := 0,
    dumpFirst := 0, dumpCount := 0, telCtrl := 0, telSrc := 0, telRej := 0, buffer := [], hold := none, snapBeat := none, pcAt := 0, bp := [], hitAt := [], evtSev := [],
    pGal := [], pLnd := [], pFlt := [], pDesc := [], pErrC := [], pErrE := [], pAlmMax := [], pComC := [], pComF := [], corTx := [], corRx := [] }

/-- Test-Logic-Reset selects IDCODE, as IEEE 1149.1 has it (PRESUMED, log entry 33). -/
def Jtag.init : Jtag := { ir := 0x01, dr := 0, boundary := 0 }

/-- An LT9-M2 (log entry 1): the grade and the Gallery positions are fused at factory test. -/
def Fused.init : Fused := { grade := 1, galPresent := 0xFFFFFFFFFFFFFFFF, devId := 1 }

def Clk.init : Clk := { time := 0, elapsed := 0, cycle := 0, cycAcc := 0 }

def Module.init : Module :=
  { fused := Fused.init, clk := Clk.init, img := Img.init, beat := BeatBlk.init, queues := [], counts := [], gates := [],
    outstanding := [], harts := [], cores := [], gal := [], bal := [], ris := [], win := [], lnd := [], nwl := [],
    mem := MemBlk.init, flt := [], port := [], rte := Rte.init, arc := [], vote := VoteUnit.init, vst := [], mir := [],
    wdg := Wdg.init, chk := [], hlt := Hlt.init, cor := [], pwr := Pwr.init, sec := Sec.init, pci := Pci.init,
    tray := Tray.init, dbg := Dbg.init, jtag := Jtag.init, out := [] }

/-- The module right after power good (R20, R683, R689): stage KERDUN, no image, fabric time 0 in FREE, every register
at its reset value; no command waits. -/
def State.reset : State := { pending := [], m := Module.init }

end Sys2Proof.Machine
end

