-- ==== Sys2Proof/Machine/Ops.lean ====
section
/-! DEFINITION. The operations every block shares: outcomes, time, ownership under the applied image, event records and
their delivery, the windowed counts, trace, and descriptor queues with their completion counts. -/

namespace Sys2Proof.Machine

/-! ### Outcomes -/

abbrev Out := Host.Outcome State Fault Refusal

/-- The command takes effect on the hardware; the queue of waiting commands stays as it is. -/
def done (s : State) (m : Module) : Out := .next { s with m := m }
/-- The event the command stands for cannot come about in this state. -/
def stop (row : String) : Out := .refused (.notDue row)
/-- The operands are those of no command. -/
def ill : Out := .refused .illFormed

/-- Applies a function to one entry of a unit map. -/
def mapAt {α : Type} [DecidableEq α] (d : α) (l : NMap α) (k : Nat) (f : α → α) : NMap α := nset d l k (f (nget d l k))

/-! ### Units: reading and changing one unit's state -/

def Module.hart (m : Module) (k : Nat) : Hart := nget Hart.init m.harts k
def Module.setHart (m : Module) (k : Nat) (h : Hart) : Module := { m with harts := nset Hart.init m.harts k h }
def Module.core (m : Module) (k : Nat) : Core := nget Core.init m.cores k
def Module.setCore (m : Module) (k : Nat) (x : Core) : Module := { m with cores := nset Core.init m.cores k x }
def Module.gal' (m : Module) (k : Nat) : Gal := nget Gal.init m.gal k
def Module.setGal (m : Module) (k : Nat) (x : Gal) : Module := { m with gal := nset Gal.init m.gal k x }
def Module.bal' (m : Module) (k : Nat) : Bal := nget Bal.init m.bal k
def Module.setBal (m : Module) (k : Nat) (x : Bal) : Module := { m with bal := nset Bal.init m.bal k x }
def Module.ris' (m : Module) (k : Nat) : Ris := nget Ris.init m.ris k
def Module.setRis (m : Module) (k : Nat) (x : Ris) : Module := { m with ris := nset Ris.init m.ris k x }
def Module.win' (m : Module) (k : Nat) : Win := nget Win.init m.win k
def Module.setWin (m : Module) (k : Nat) (x : Win) : Module := { m with win := nset Win.init m.win k x }
def Module.lnd' (m : Module) (k : Nat) : Lnd := nget Lnd.init m.lnd k
def Module.setLnd (m : Module) (k : Nat) (x : Lnd) : Module := { m with lnd := nset Lnd.init m.lnd k x }
def Module.nwl' (m : Module) (k : Nat) : Nwl := nget Nwl.init m.nwl k
def Module.setNwl (m : Module) (k : Nat) (x : Nwl) : Module := { m with nwl := nset Nwl.init m.nwl k x }
def Module.flt' (m : Module) (k : Nat) : Flt := nget Flt.init m.flt k
def Module.setFlt (m : Module) (k : Nat) (x : Flt) : Module := { m with flt := nset Flt.init m.flt k x }
def Module.port' (m : Module) (k : Nat) : Port := nget Port.init m.port k
def Module.setPort (m : Module) (k : Nat) (x : Port) : Module := { m with port := nset Port.init m.port k x }
def Module.arc' (m : Module) (k : Nat) : Arc := nget Arc.init m.arc k
def Module.setArc (m : Module) (k : Nat) (x : Arc) : Module := { m with arc := nset Arc.init m.arc k x }
def Module.vst' (m : Module) (k : Nat) : Vst := nget Vst.init m.vst k
def Module.setVst (m : Module) (k : Nat) (x : Vst) : Module := { m with vst := nset Vst.init m.vst k x }
def Module.mir' (m : Module) (k : Nat) : Mir := nget Mir.init m.mir k
def Module.setMir (m : Module) (k : Nat) (x : Mir) : Module := { m with mir := nset Mir.init m.mir k x }
def Module.chk' (m : Module) (k : Nat) : Chk := nget Chk.init m.chk k
def Module.setChk (m : Module) (k : Nat) (x : Chk) : Module := { m with chk := nset Chk.init m.chk k x }
def Module.cor' (m : Module) (k : Nat) : Cor := nget Cor.init m.cor k
def Module.setCor (m : Module) (k : Nat) (x : Cor) : Module := { m with cor := nset Cor.init m.cor k x }
def Module.cache (m : Module) (p : Nat) : PCache := nget PCache.init m.mem.caches p
def Module.setCache (m : Module) (p : Nat) (x : PCache) : Module :=
  { m with mem := { m.mem with caches := nset PCache.init m.mem.caches p x } }
def Module.hallW' (m : Module) (w : Nat) : HallWing := nget HallWing.init m.mem.hallW w
def Module.setHallW (m : Module) (w : Nat) (x : HallWing) : Module :=
  { m with mem := { m.mem with hallW := nset HallWing.init m.mem.hallW w x } }
def Module.evr' (m : Module) (f : Nat) : Evr := nget Evr.init m.pci.evr f
def Module.setEvr (m : Module) (f : Nat) (x : Evr) : Module :=
  { m with pci := { m.pci with evr := nset Evr.init m.pci.evr f x } }

/-- Gives something to the outside world. -/
def emit (o : Output) (m : Module) : Module := { m with out := o :: m.out }

/-! ### Time (R104 to R106, R113) -/

/-- The beat of fabric time now. -/
def beatNow (m : Module) : Beat := BitVec.ofNat 48 (m.clk.time.toNat / 1024)

/-- The clock of an operating point, in MHz (R625). -/
def opMhz (op : Nat) : Nat :=
  match op with
  | 0 => 1500 | 1 => 1350 | 2 => 1200 | 3 => 1000 | 4 => 1000 | 5 => 900 | 6 => 800 | _ => 600

def Pwr.reason (x : Pwr) (r : Nat) : Reason := nget Reason.init x.reasons r

/-- The level in force: the largest level of reasons 1 to 4 and 6, limited so that the clock stays at 500 MHz or above
(R635, R636). -/
def levelNow (x : Pwr) : Nat :=
  min (max (max (max (x.reason 1).level (x.reason 2).level) (max (x.reason 3).level (x.reason 4).level)) (x.reason 6).level)
    ((opMhz x.clockOp - 500) / 50)

/-- The Gallery clock in MHz (R635). -/
def galMhz (x : Pwr) : Nat := opMhz x.clockOp - 50 * levelNow x

/-- How many of the nanoseconds that a slew has left to correct it corrects while `n` nanoseconds pass: one in every 5,000 (R112:
200 ppm), and none beyond the offset. -/
def slewed (n : Nat) (b : BeatBlk) : Nat := min b.slew.natAbs ((b.slewAcc + n) / 5000)

/-- Lets `n` nanoseconds pass (log entry 2). Fabric time moves on by as many, more or fewer by what a slew corrects meanwhile: it never
runs backwards and passes the start of every beat (R112, R113). A tripped module's wings have no clock (R638). -/
def advance (n : Nat) (m : Module) : Module :=
  let acc := m.clk.cycAcc + n * (if m.tray.thermTripN then galMhz m.pwr else 0)
  let sl := m.beat.slew
  let k := slewed n m.beat
  { m with
    clk := { time := m.clk.time + BitVec.ofNat 58 (if 0 ≤ sl then n + k else n - k), elapsed := m.clk.elapsed + n,
             cycle := m.clk.cycle + acc / 1000, cycAcc := acc % 1000 }
    beat := { m.beat with
      slew := if 0 ≤ sl then sl - k else sl + k
      slewAcc := if sl = 0 then 0 else (m.beat.slewAcc + n) % 5000 } }

/-- The least number of nanoseconds in which fabric time moves on by `gap`, under the slew that runs (R112): in 5,000 nanoseconds it
moves on by 5,001 or by 4,999, until the offset is zero. -/
def slewNs (gap : Nat) (b : BeatBlk) : Nat :=
  let g := gap + b.slewAcc
  if b.slew = 0 ∨ gap = 0 then gap
  else if 0 ≤ b.slew then max (5000 * (g / 5001) + g % 5001 - b.slewAcc) (gap - b.slew.natAbs)
  else min (5000 * ((g - 1) / 4999) + (g - 1) % 4999 + 1 - b.slewAcc) (gap + b.slew.natAbs)

/-- Lets time pass to an instant of the elapsed-time measure, if it has not come. -/
def advanceTo (t : Nat) (m : Module) : Module := advance (t - m.clk.elapsed) m

/-- Nanoseconds from now to the start of a beat; zero when it has begun (R106). -/
def nsToBeat (b : Beat) (m : Module) : Nat :=
  if atOrAfter (beatNow m) b then 0 else slewNs ((BitVec.ofNat 58 (b.toNat * 1024)) - m.clk.time).toNat m.beat

/-- Lets time pass to the start of a beat, if it has not begun. -/
def advanceToBeat (b : Beat) (m : Module) : Module := advance (nsToBeat b m) m

/-- Lets time pass to a Gallery-clock cycle, if it has not come. -/
def advanceToCycle (c : Nat) (m : Module) : Module :=
  if c ≤ m.clk.cycle then m
  else advance (ceilDiv ((c - m.clk.cycle) * 1000 - m.clk.cycAcc) (galMhz m.pwr)) m

/-- The present instant, kept beside a bit that a write of 1 clears when the hardware sets it (R17). -/
def instant (m : Module) : SetAt := some (m.clk.elapsed, m.clk.cycle)

/-- Whether an instant lies in the present cycle: in the present nanosecond, which is the model's shortest time (log entry 149), or in
the same cycle of the Gallery clock while that runs. A bit set then stays set when a write of 1 clears it (R17). -/
def sameCycle (m : Module) (t : SetAt) : Bool :=
  match t with
  | some (e, c) => m.clk.elapsed = e || (m.clk.cycle = c && m.tray.thermTripN)
  | none => false

/-- The 1,024-beat window that an instant lies in. -/
def window (m : Module) : Nat := m.clk.elapsed / (1024 * 1024)

/-- A free value (log entry 4): the constant applied to a counter that each use advances. -/
def freeVal (m : Module) : W64 × Module :=
  (Config.free m.mem.freeCount, { m with mem := { m.mem with freeCount := m.mem.freeCount + 1 } })

/-- The lowest of several refusal codes whose rules are broken (R744). -/
def firstCode (l : List (Nat × Bool)) : Option Nat := (l.find? (·.2)).map (·.1)

/-! ### Ownership (R66 to R68, R73, R93) -/

/-- The bits of a partition record for a service-unit class (R76). -/
def PRec.mask (r : PRec) (cls : Nat) : Nat :=
  match cls with
  | 0 => r.gal.toNat | 1 => r.lnd.toNat | 2 => r.ris.toNat | 3 => r.win.toNat | 4 => r.flt.toNat | 5 => r.cc.toNat
  | 7 => r.hbm.toNat | 8 => r.lpx.toNat | _ => 0

def HallRange.has (h : HallRange) (b : Nat) : Bool := h.valid && decide (h.first ≤ b) && decide (b ≤ h.last)

/-- Whether a record names a unit. -/
def PRec.has (r : PRec) (cls u : Nat) : Bool :=
  if cls = 6 then r.hall0.has u || r.hall1.has u else (r.mask cls).testBit u

/-- How many units a service-unit class has (R76). -/
def clsCount (cls : Nat) : Nat :=
  match cls with
  | 0 => 64 | 1 => 16 | 2 => 8 | 3 => 4 | 4 => 32 | 5 => 32 | 6 => 512 | 7 => 256 | 8 => 24 | _ => 0

def Struct.isOos (t : Struct) (cls u : Nat) : Bool := t.oos.contains (cls, u)

/-- The partition that owns a unit (R66, R93). -/
def Struct.owner (t : Struct) (cls u : Nat) : Option Nat :=
  if t.isOos cls u then none else findIdx? (fun r => r.enable && r.has cls u) t.parts 0

def owner (m : Module) (cls u : Nat) : Option Nat :=
  match m.img.active with
  | none => none
  | some t => t.owner cls u

def PRec.zero : PRec :=
  { enable := false, check := 0, atomicSel := 0, power := 0, slice := 0xFFF, gal := 0, flt := 0, lnd := 0, ris := 0, win := 0,
    cc := 0, lpx := 0, hbm := 0, hall0 := ⟨false, 0, 0⟩, hall1 := ⟨false, 0, 0⟩, cache := 0, hbmIl := 0, lpxIl := 0, vcw := 0 }

def Struct.prec (t : Struct) (p : Nat) : PRec := t.parts.getD p PRec.zero

/-- The record of a partition in the structure in force. -/
def prec (m : Module) (p : Nat) : PRec :=
  match m.img.active with
  | none => PRec.zero
  | some t => t.prec p

def enabled (m : Module) (p : Nat) : Bool := (prec m p).enable

/-- The wing of a partition (R42) and of a unit (R34). -/
def homeWing (p : Nat) : Nat := p / 8
def wingOf (cls u : Nat) : Nat := u / (clsCount cls / 2)

/-- The service-unit class of a queue class whose engines partitions own (R133, R68). -/
def svcOf (qcls : Nat) : Option Nat :=
  match qcls with
  | 0 => some 0 | 1 => some 0 | 2 => some 1 | 3 => some 2 | 4 => some 3 | 6 => some 4 | _ => none

/-- How many units a queue class has (R133, R34). -/
def qclsCount (qcls : Nat) : Nat :=
  match qcls with
  | 0 => 64 | 1 => 64 | 2 => 16 | 3 => 8 | 4 => 4 | 5 => 2 | 6 => 32 | 7 => 2 | 8 => 1 | 9 => 1 | 10 => 1 | 11 => 2 | _ => 0

/-- The hart that runs a context (R128): the lower-numbered core of the partition runs contexts 0 to 3. -/
def ctxHart (m : Module) (p c : Nat) : Option Nat :=
  match (bitsOf (prec m p).cc).filter (fun k => owner m 5 k = some p) with
  | [a, b] => if c < 4 then some (4 * a + c) else some (4 * b + (c - 4))
  | [a] => if c < 4 then some (4 * a + c) else none
  | _ => none

/-- The partition and the context for which a hart acts (R128). -/
def hartCtx (m : Module) (hk : Nat) : Option (Nat × Nat) :=
  match owner m 5 (hk / 4) with
  | none => none
  | some p =>
    match (List.range 8).filter (fun c => ctxHart m p c = some hk) with
    | c :: _ => some (p, c)
    | [] => none

/-- Whether a partition's checking mode is full (R590). -/
def fullMode (m : Module) (p : Nat) : Bool := (prec m p).check = 2

/-- Whether a wing is held in reset (R46): not yet released at start-up, or under a wing or chip reset. -/
def wingUp (m : Module) (w : Nat) : Bool :=
  nget false m.pci.wingOut w &&
    !(m.wdg.running.any (fun r => match r.dom with
      | .wing v => v.val = w
      | .chip => true
      | _ => false))

/-! ### Steps of a partition (R520 to R522) -/

/-- The states in which a step is live for R521. -/
def liveSt (s : SlotSt) : Bool :=
  match s with
  | .open => true | .computed => true | .verified => true | _ => false

/-- The newest of the partition's slots that meet a condition, as (slot, content). -/
def newestSlot (v : Vst) (ok : VSlot → Bool) : Option (Nat × VSlot) :=
  v.slots.foldl (fun a x => if ok x.2 then
      match a with
      | none => some x
      | some y => if atOrAfter x.2.step y.2.step then some x else a
    else a) none

def noStep : Beat := 0xFFFFFFFFFFFF

/-- The STEP of an event of a partition (R521). -/
def stepOf (m : Module) (p : Nat) : Beat :=
  if p < 16 then
    match newestSlot (m.vst' p) (fun s => liveSt s.st) with
    | some x => x.2.step
    | none => noStep
  else noStep

/-- Taints a step of a partition unless its vote has started (R522): VERIFIED falls back to COMPUTED. -/
def taint (p : Nat) (step : Beat) (m : Module) : Module :=
  let v := m.vst' p
  { m with vst := nset Vst.init m.vst p { v with slots := v.slots.map (fun x =>
      if x.2.step = step && liveSt x.2.st && !x.2.voting then
        (x.1, { x.2 with taint := true, st := if x.2.st = .verified then .computed else x.2.st })
      else x) } }

/-- The slot of a partition's SOLO replay, when one runs (R531). -/
def soloSlot (m : Module) (p : Nat) : Option (Nat × VSlot) := (m.vst' p).slots.find? (fun x => x.2.replayMode ≥ 2)

/-! ### Accesses that no register takes (R12, R45) -/

/-- Whether the module accepts an access: an aligned one of 32 or 64 bits (R12). -/
def accepted (off bytes : Nat) : Bool := (bytes = 4 || bytes = 8) && off % bytes = 0

/-- An access that R12, R45 or R46 lets act on nothing is counted. -/
def unmapped (write : Bool) (m : Module) : Module :=
  { m with pci := if write then { m.pci with unmappedW := satAdd m.pci.unmappedW 1 }
    else { m.pci with unmappedR := satAdd m.pci.unmappedR 1 } }

/-! ### Event records (R59 to R63) -/

/-- The 32 bytes of a record, under R11. -/
def Event.bytes (e : Event) : List Byte :=
  natLe 8 (2 ^ 56 * e.cls.toNat + 2 ^ 48 * e.code.toNat + 2 ^ 32 * e.unit.toNat + 2 ^ 28 * e.sev.toNat)
  ++ natLe 8 e.beat.toNat
  ++ natLe 8 (2 ^ 60 + 2 ^ 55 * e.part.toNat + 2 ^ 52 * e.ctx.toNat + e.step.toNat)
  ++ natLe 8 e.detail.toNat

/-- Whether ALERT_N is driven low (R709). -/
def alertLow (t : Tray) : Bool := (t.alert &&& t.alertEn.setWidth 10) != 0

/-- A change of the alert registers; a fall of ALERT_N raises an in-band interrupt (R709, R710). -/
def setTray (t : Tray) (m : Module) : Module :=
  { m with tray := { t with ibi := if !alertLow m.tray && alertLow t then m.tray.ibi + 1 else t.ibi } }

/-- The alert registers once the hardware sets the bits `b` now (R709). -/
def alertSet (b : BitVec 10) (m : Module) : Tray :=
  { m.tray with
    alert := m.tray.alert ||| b
    alertAt := (List.range 10).foldl (fun l i => if b.getLsbD i then nset none l i (instant m) else l) m.tray.alertAt }

/-- Sets tray alert bits (R709). -/
def trayAlert (b : BitVec 10) (m : Module) : Module := setTray (alertSet b m) m

/-- The alert bits that the hardware has set in the present cycle: a write of 1 leaves them set (R17). -/
def alertHeld (m : Module) : BitVec 10 :=
  BitVec.ofNat 10 (maskOf 10 fun i => sameCycle m (nget none m.tray.alertAt i))

/-- What a write of 1s leaves of the alert bits (R709). -/
def alertClear (v : W32) (m : Module) : BitVec 10 := m.tray.alert &&& (~~~(v.setWidth 10) ||| alertHeld m)

/-- The alert bits that recording an event sets (R709). -/
def alertBits (e : Event) : BitVec 10 :=
  let k := (e.cls.toNat, e.code.toNat)
  (if k = (0x1A, 4) then 0x001 else 0) ||| (if k = (0x1A, 5) then 0x002 else 0) ||| (if k = (0x18, 0x0B) then 0x004 else 0)
  ||| (if e.sev = 6 then 0x008 else 0) ||| (if k = (0x1A, 0x0A) then 0x010 else 0) ||| (if k = (0x1C, 5) then 0x020 else 0)
  ||| (if k = (0x1C, 7) then 0x040 else 0) ||| (if k = (0x1C, 4) then 0x200 else 0)

/-- The records a ring holds: SIZE from 6 to 20, other values as the nearest end (R713). -/
def Evr.cap (r : Evr) : Nat := 2 ^ (min 20 (max 6 r.size.toNat))

/-- Whether a record can be written (R703, R704). -/
def Evr.room (r : Evr) : Bool := r.enable && decide ((r.tail - r.head).toNat < r.cap)

/-- The function of ring `f`: 0 the physical function, k virtual function k (R712). -/
def ringFn (f : Nat) : Fn := if f = 0 then .pf else .vf (Fin.ofNat 16 (f - 1))

/-- Signals vector 0 after a record under the interval MOD (R705). -/
def ringSignal (f : Nat) (r : Evr) (m : Module) : Module :=
  let within := match r.lastSig with
    | none => false
    | some t => decide (m.clk.elapsed < t + r.mod_.toNat * 1024)
  if within then m.setEvr f { r with unsig := true }
  else emit (.msix (ringFn f) 0) (m.setEvr f { r with unsig := false, lastSig := some m.clk.elapsed })

/-- Writes one record into a ring that has room (R703, R705). -/
def ringWrite (f : Nat) (e : Event) (m : Module) : Module :=
  let r := m.evr' f
  let m := emit (.record (ringFn f) (r.tail.toNat % r.cap) e) m
  let m := ringSignal f { r with tail := r.tail + 1 } m
  if e.sev.toNat ≥ 5 then emit (.msix (ringFn f) 1) m else m

/-- The RING_OVERFLOW record (R704, R711). -/
def overflowRec (n : Nat) (m : Module) : Event :=
  { cls := 0x1C, code := 3, unit := 0xFFFF, sev := 2, beat := m.clk.time.setWidth 64, part := 31, ctx := 0, step := noStep,
    detail := BitVec.ofNat 64 n }

/-- When losses are waiting and the ring has a free entry, the overflow record goes first (R704). -/
def ringOverflow (f : Nat) (m : Module) : Module :=
  let r := m.evr' f
  if r.lostSince > 0 && r.room then
    ringWrite f (overflowRec r.lostSince m) (m.setEvr f { r with lostSince := 0 })
  else m

/-- A record due to a ring (R703, R704). -/
def ringPut (f : Nat) (e : Event) (m : Module) : Module :=
  let m := ringOverflow f m
  let r := m.evr' f
  if r.room && m.tray.perstN then ringWrite f e m
  else m.setEvr f { r with lost := satAdd r.lost 1, lostSince := r.lostSince + 1 }

/-- The temperature band of a reading in °C (R605). -/
def tempBand (t : Byte) : Nat :=
  let v := t.toInt
  if v < 40 then 0 else if v < 55 then 1 else if v < 70 then 2 else if v < 80 then 3 else if v < 90 then 4
  else if v < 100 then 5 else if v < 105 then 6 else 7

/-- A record of the lifetime log's event ring (R612; the eight bytes after the event: log entry 7). -/
def ringRecord (e : Event) (m : Module) : List Byte :=
  e.bytes ++ [BitVec.ofNat 8 (tempBand m.pwr.temp), BitVec.ofNat 8 m.pwr.loadBand, BitVec.ofNat 8 m.pwr.op, 0]
  ++ natLe 4 m.hlt.powerOns.toNat ++ List.replicate 24 0

/-- Whether an event enters the lifetime ring (R612); an always-on watchdog's request does not (R560). -/
def entersRing (e : Event) : Bool :=
  (e.sev.toNat ≥ 4 || e.cls = 0x15 || e.cls = 0x19 || (e.cls = 0x18 && e.code = 8))
  && !(e.cls = 0x18 && e.code = 0x0B && e.detail = 1)

/-- Bytes of command queues, event records and the always-on mirror that cross the Corridor (R33). -/
def Dbg.cross (src dst n : Nat) (d : Dbg) : Dbg :=
  if src = dst then d
  else { d with corTx := mapAt 0 d.corTx src (· + BitVec.ofNat 64 n), corRx := mapAt 0 d.corRx dst (· + BitVec.ofNat 64 n) }

/-- The units of an event class that lie half on each wing (R34, R60). -/
def wingUnits (cls : Nat) : Nat :=
  match cls with
  | 0x04 => 32 | 0x05 => 64 | 0x06 => 64 | 0x07 => 16 | 0x08 => 8 | 0x09 => 4 | 0x0A => 2 | 0x0B => 512 | 0x0C => 256 | 0x0D => 24
  | 0x0E => 32 | 0x0F => 2 | 0x12 => 16 | 0x14 => 2 | 0x15 => 2 | _ => 0

/-- The wing of the unit that an event names; wing A, the home of the always-on domain (R38), for any other. -/
def evWing (e : Event) : Nat :=
  let n := wingUnits e.cls.toNat
  b2n (decide (n / 2 ≤ e.unit.toNat) && decide (e.unit.toNat < n))

/-- Records one event: counters of R717, taint under R522, the lifetime ring's buffer, the tray alert, and delivery to
the physical function and to the partition's virtual function (R62). -/
def note (e : Event) (m : Module) : Module :=
  let p := e.part.toNat
  let bad := decide (e.sev.toNat ≥ 4)
  let d := m.dbg.cross (evWing e) 0 32
  let m := { m with dbg := { d with
    evtSev := mapAt 0 d.evtSev e.sev.toNat (· + 1)
    pErrE := if bad && p < 16 then mapAt 0 d.pErrE p (satAdd · 1) else d.pErrE } }
  let m := if bad && p < 16 && e.cls != 0x16 && e.cls != 0x17 then taint p e.step m else m
  let h := m.hlt
  let m := { m with hlt := { h with
    sram := if entersRing e then h.sram ++ [ringRecord e m] else h.sram
    last16 := if bad then (e :: h.last16).take 16 else h.last16 } }
  let m := trayAlert (alertBits e) m
  let m := ringPut 0 e m
  if p < 16 then ringPut (p + 1) e m else m

/-- The event record that a block makes now; `part` 31 for none. -/
def mkEvent (cls code unit sev part ctx : Nat) (detail : W64) (m : Module) : Event :=
  { cls := BitVec.ofNat 8 cls, code := BitVec.ofNat 8 code, unit := BitVec.ofNat 16 unit, sev := BitVec.ofNat 4 sev,
    beat := m.clk.time.setWidth 64, part := BitVec.ofNat 5 part, ctx := if part = 31 then 0 else BitVec.ofNat 3 ctx,
    step := stepOf m part, detail := detail }

/-! ### Trace (R723 to R728) -/

/-- Whether the trace unit captures (R723, R726, R730). -/
def capturing (m : Module) : Bool := m.dbg.enable && !m.sec.locked && !(m.dbg.stopFull && m.dbg.regionFull)

/-- The trace region of the applied image, as (tier, base, records). -/
def traceRegion (m : Module) : Option (Nat × Nat × Nat) :=
  match m.img.active with
  | none => none
  | some t => if t.traceTier = 0 || t.traceSize = 0 then none else some (t.traceTier, t.traceBase, t.traceSize * 32768)

/-- The sink in use: 0 region, 1 Kerdun port, 2 fabric, 3 none (R725). -/
def sinkFor (m : Module) : Nat :=
  let s := if m.dbg.sink = 3 then 0 else m.dbg.sink.toNat
  if s = 0 then (if (traceRegion m).isSome then 0 else if m.dbg.kport then 1 else 3)
  else if s = 1 then (if m.dbg.kport then 1 else 3)
  else 2

/-- The buffer's size in records (R724). -/
def traceCap : Nat := 8192

/-- A trace record (R723). -/
def traceRecord (kind : Nat) (w0 : Nat) (part ctx : Nat) (w3 : W64) (m : Module) : List Byte :=
  natLe 8 (2 ^ 56 * kind + w0) ++ natLe 8 m.clk.time.toNat
  ++ natLe 8 (2 ^ 60 + 2 ^ 55 * part + 2 ^ 52 * (if part = 31 then 0 else ctx) + (stepOf m part).toNat) ++ natLe 8 w3.toNat

/-- Puts a record into the buffer, a LOST record ahead of it when records were lost and space has returned; when the
buffer is full, counts it and records TRACE_LOST at most once in each window (R724). -/
def traceBuffer (r : List Byte) (m : Module) : Module :=
  let d := m.dbg
  let need := if d.lostNow > 0 then 2 else 1
  if d.buffer.length + need ≤ traceCap then
    let lostRec := if d.lostNow > 0 then [traceRecord 7 (min d.lostNow (2 ^ 32 - 1)) 31 0 0 m] else []
    { m with dbg := { d with buffer := d.buffer ++ lostRec ++ [r], lostNow := 0 } }
  else
    let m := { m with dbg := { d with lost := satAdd d.lost 1, lostNow := d.lostNow + 1 } }
    if d.lostWin = some (window m) then m
    else note (mkEvent 0x1D 1 0xFFFF 2 31 0 (BitVec.ofNat 64 (d.lostNow + 1)) m) { m with dbg := { m.dbg with lostWin := some (window m) } }

/-- Captures a record of a kind (R723): kinds 1 to 3 only for traced partitions, 1 and 2 only for traced classes. -/
def traceEv (kind w0 part ctx qcls : Nat) (w3 : W64) (m : Module) : Module :=
  let d := m.dbg
  let partOk := if kind ≤ 3 then part < 16 && bit d.part part else true
  let clsOk := if kind ≤ 2 then bit d.cls qcls else true
  if capturing m && bit d.kinds (kind - 1) && partOk && clsOk then traceBuffer (traceRecord kind w0 part ctx w3 m) m else m

/-- Records an event and copies it to the trace (R62, R723). -/
def evRec (e : Event) (m : Module) : Module :=
  let m := note e m
  traceEv 4 (2 ^ 48 * e.cls.toNat + 2 ^ 32 * e.unit.toNat + 2 ^ 24 * e.code.toNat + 2 ^ 20 * e.sev.toNat) e.part.toNat e.ctx.toNat 0
    e.detail m

/-- Records an event (R59): class, code, unit, severity, partition (31 none), context, DETAIL. -/
def ev (cls code unit sev part ctx : Nat) (detail : W64) (m : Module) : Module :=
  evRec (mkEvent cls code unit sev part ctx detail m) m

/-! ### Windowed counts (R605 to R609) -/

def Hlt.unit (h : Hlt) (k : Nat) : UnitHealth := nget UnitHealth.init h.units k
/-- A unit's key: event class × 65,536 + index. -/
def healthKey (cls unit : Nat) : Nat := cls * 65536 + unit

/-- The three counts of one cell in the window: the sum over its 16 sub-windows (R607). -/
def cellSum (h : Hlt) (u : UnitHealth) (cell : Nat) : Nat × Nat × Nat :=
  (List.range 16).foldl (fun a i =>
    if i ≤ h.sub then
      let c := nget (0, 0, 0) u.cells ((h.sub - i) * 32 + cell)
      (a.1 + c.1, a.2.1 + c.2.1, a.2.2 + c.2.2)
    else a) (0, 0, 0)

/-- The unit's totals over its 32 cells. -/
def totalSum (h : Hlt) (u : UnitHealth) : Nat × Nat × Nat :=
  (List.range 32).foldl (fun a c => let x := cellSum h u c; (a.1 + x.1, a.2.1 + x.2.1, a.2.2 + x.2.2)) (0, 0, 0)

/-- The count that a kind selects: 0 CORR, 1 HARD, 2 HANG. -/
def pick3 (k : Nat) (x : Nat × Nat × Nat) : Nat := if k = 0 then x.1 else if k = 1 then x.2.1 else x.2.2
def bump3 (k : Nat) (x : Nat × Nat × Nat) : Nat × Nat × Nat :=
  if k = 0 then (x.1 + 1, x.2.1, x.2.2) else if k = 1 then (x.1, x.2.1 + 1, x.2.2) else (x.1, x.2.1, x.2.2 + 1)

/-- The threshold register of a count: cell warn, cell lasting, total warn, total lasting (R608, R623). -/
def Hlt.thr (h : Hlt) (k : Nat) : W64 := if k = 0 then h.thrC else if k = 1 then h.thrH else h.thrG

/-- SUSPECT_INTERVAL (R609). -/
def suspectInterval (cls unit : Nat) (m : Module) : Module :=
  let d := match (m.hlt.unit (healthKey cls unit)).pass with
    | some b => b.setWidth 64
    | none => 0
  ev 0x19 3 unit 2 31 0 d m

/-- Scores an event against a unit (R605 to R608) and records what it reaches. -/
def score (k cls unit : Nat) (m : Module) : Module :=
  let h := m.hlt
  let key := healthKey cls unit
  let cell := 4 * tempBand m.pwr.temp + m.pwr.loadBand
  let u := h.unit key
  let u := { u with
    cells := nset (0, 0, 0) u.cells (h.sub * 32 + cell) (bump3 k (nget (0, 0, 0) u.cells (h.sub * 32 + cell)))
    lifeC := if k = 0 then u.lifeC + 1 else u.lifeC
    lifeH := if k = 1 then u.lifeH + 1 else u.lifeH
    lifeG := if k = 2 then u.lifeG + 1 else u.lifeG }
  let c := pick3 k (cellSum h u cell)
  let t := pick3 k (totalSum h u)
  let thr := h.thr k
  let warn := decide (c ≥ fld thr 0 16) || decide (t ≥ fld thr 32 16)
  let last := decide (c ≥ fld thr 16 16) || decide (t ≥ fld thr 48 16)
  let doWarn := warn && !u.warned
  let doLast := last && !u.lastingSeen
  let u := { u with lasting := u.lasting || last, warned := u.warned || warn, lastingSeen := u.lastingSeen || last }
  let m := { m with hlt := { h with units := nset UnitHealth.init h.units key u } }
  let det := pack [(cls, 48), (unit, 32), (k, 0)]
  let m := if doWarn then ev 0x19 1 unit 2 31 0 det m else m
  if doLast then suspectInterval cls unit (ev 0x19 2 unit 2 31 0 det m) else m

/-- An event that scores against its own unit (R606): 0 CORR, 1 HARD, 2 HANG. -/
def evS (k cls code unit sev part ctx : Nat) (detail : W64) (m : Module) : Module :=
  score k cls unit (ev cls code unit sev part ctx detail m)

/-! ### Queues and completion counts (R133 to R137) -/

/-- The entry of a keyed list. -/
def alGet {κ α : Type} [DecidableEq κ] (d : α) : List (κ × α) → κ → α
  | [], _ => d
  | (k', v) :: r, k => if k' = k then v else alGet d r k

/-- Sets the entry of a keyed list. -/
def alSet {κ α : Type} [DecidableEq κ] : List (κ × α) → κ → α → List (κ × α)
  | [], k, v => [(k, v)]
  | (k', v') :: r, k, v => if k' = k then (k, v) :: r else (k', v') :: alSet r k v

/-- Removes the entry of a keyed list. -/
def alDel {κ α : Type} [DecidableEq κ] : List (κ × α) → κ → List (κ × α)
  | [], _ => []
  | (k', v') :: r, k => if k' = k then alDel r k else (k', v') :: alDel r k

def queue (m : Module) (k : QKey) : List Desc := alGet [] m.queues k

/-- Sets a queue; an empty queue has no entry. -/
def setQueue (k : QKey) (l : List Desc) (m : Module) : Module :=
  { m with queues := if l.isEmpty then alDel m.queues k else alSet m.queues k l }

def queueDepth (k : QKey) : Nat := if k.cls = 10 then 64 else 16

/-- The queue that a descriptor of a context reaches at a target (R133, R137). -/
def queueFor (cls idx part ctx : Nat) : QKey :=
  match svcOf cls with
  | some _ => ⟨cls, idx, ctx⟩
  | none => ⟨cls, idx, part⟩

/-- The key of a completion count: the context and the queue's target (R136). -/
def countKey (part ctx cls idx : Nat) : Nat × QKey := (part * 8 + ctx, ⟨cls, idx, 0⟩)
def count (m : Module) (part ctx cls idx : Nat) : W32 := alGet 0 m.counts (countKey part ctx cls idx)

/-- Progress of a context (R557) and of a partition (R559). -/
def progress (part ctx : Nat) (m : Module) : Module :=
  let m := match ctxHart m part ctx with
    | some hk => m.setHart hk { m.hart hk with lastProgress := m.clk.elapsed }
    | none => m
  { m with wdg := { m.wdg with partProgress := nset 0 m.wdg.partProgress part m.clk.elapsed } }

/-- Word 0 of a DESC_START or DESC_DONE record (R723). -/
def descWord (cls idx : Nat) (d : Desc) : Nat := 2 ^ 52 * cls + 2 ^ 32 * idx + d.seq.toNat % 2 ^ 32

/-- A descriptor starts: the trace sees it (R723). -/
def descStart (cls idx : Nat) (d : Desc) (m : Module) : Module :=
  traceEv 1 (descWord cls idx d) d.part d.ctx cls (d.ty.setWidth 64) m

/-- A descriptor completes (R136, R717): its context's count rises by one, whether the outcome is success or error. -/
def complete (cls idx : Nat) (d : Desc) (err : Bool) (m : Module) : Module :=
  let k := countKey d.part d.ctx cls idx
  let g := m.dbg
  let m := { m with
    counts := alSet m.counts k (alGet 0 m.counts k + 1)
    outstanding := mapAt 0 m.outstanding (d.part * 8 + d.ctx) (· - 1)
    dbg := { g with
      pDesc := mapAt 0 g.pDesc d.part (· + 1)
      pErrC := if err then mapAt 0 g.pErrC d.part (satAdd · 1) else g.pErrC } }
  let m := progress d.part d.ctx m
  traceEv 2 (descWord cls idx d) d.part d.ctx cls (if err then 1 else 0) m

/-- The depth of a beat-alarm queue has grown (R717, DBG_P_ALM). -/
def noteDepth (k : QKey) (m : Module) : Module :=
  if k.cls = 10 && k.sub < 16 then
    let n := (queue m k).length
    { m with dbg := { m.dbg with pAlmMax := nset 0 m.dbg.pAlmMax k.sub (max n (nget 0 m.dbg.pAlmMax k.sub)) } }
  else m

/-- Puts a descriptor at the end of a queue. -/
def enqueue (k : QKey) (d : Desc) (m : Module) : Module := noteDepth k (setQueue k (queue m k ++ [d]) m)

/-- Takes the descriptor at a queue's head off it. -/
def dequeue (k : QKey) (m : Module) : Module := setQueue k (queue m k).tail m

/-- The suspect whose slot is open, when a suspect phase runs (R571, R574). -/
def openSuspect (w : Wdg) : Option Suspect :=
  match w.slotOpen with
  | some i => w.suspects[i]?
  | none => none

/-- Whether an engine may start a descriptor of a context during a suspect phase (R574). -/
def suspectOk (m : Module) (cls idx part ctx : Nat) : Bool :=
  if m.wdg.phase && m.wdg.suspects.any (fun s => s.cls = cls && s.unit = idx) then
    match openSuspect m.wdg with
    | some s => s.part = part && s.ctx = ctx
    | none => false
  else true

/-- The queue class of an engine. -/
def engCode (e : EngCls) : Nat :=
  match e with
  | .gallery => 0 | .balcony => 1 | .landing => 2 | .riser => 3 | .winder => 4 | .newel => 5 | .flight => 6 | .arcade => 7
  | .baluster => 11 | .voteUnit => 12

/-- Whether an engine is under reset: its own engine reset, a Gallery and its Balcony together (R259), or its partition's, or its
wing's (R562). -/
def underReset (m : Module) (cls idx : Nat) : Bool :=
  m.wdg.running.any (fun r => match r.dom with
    | .engine e => (engCode e.cls = cls || (engCode e.cls ≤ 1 && cls ≤ 1)) && e.idx = idx
    | .partition p => match svcOf cls with
        | some c => owner m c idx = some p.val
        | none => false
    | .wing w => idx / (qclsCount cls / 2) = w.val
    | .chip => true
    | .context _ _ => false)

/-- How many Galleries of a partition, or pairs in full checking mode, run at an operating point (R625, R626). -/
def activeOf (op g : Nat) : Nat :=
  match op with
  | 4 => ceilDiv (3 * g) 4 | 5 => ceilDiv g 2 | 6 => ceilDiv g 4 | 7 => max 1 (ceilDiv g 8) | _ => g

/-- The gated Galleries (R626): those beyond the lowest-indexed active ones, or pairs, of each partition. -/
def gatedList (m : Module) : List Nat :=
  (List.range 16).flatMap (fun p =>
    let gs := (bitsOf (prec m p).gal).filter (fun g => owner m 0 g = some p)
    if fullMode m p then
      let pairs := gs.filter (fun g => g % 2 = 0)
      let keep := pairs.take (activeOf m.pwr.op pairs.length)
      gs.filter (fun g => !keep.contains (g / 2 * 2))
    else gs.drop (activeOf m.pwr.op gs.length))

def gated (m : Module) (g : Nat) : Bool := m.pwr.op ≥ 4 && (gatedList m).contains g

/-- Whether a queue class's unit can start a descriptor at all: its wing runs, it is not under reset, and it is not a
gated Gallery or Balcony (R627) nor the idle odd member of a pair. -/
def canStart (m : Module) (cls idx : Nat) : Bool :=
  wingUp m (idx / (qclsCount cls / 2)) && !underReset m cls idx && !(cls ≤ 1 && gated m idx) && m.tray.thermTripN

/-- The descriptor an owned engine takes next: strict priority, context 0 highest (R137). -/
def headOwned (m : Module) (cls idx : Nat) : Option (QKey × Desc) :=
  (List.range 8).foldl (fun a c =>
    match a with
    | some x => some x
    | none =>
      match queue m ⟨cls, idx, c⟩ with
      | d :: _ => if suspectOk m cls idx d.part d.ctx then some (⟨cls, idx, c⟩, d) else none
      | [] => none) none

/-- The descriptor a shared engine takes next: round robin over partitions after the one served last (R137). -/
def headShared (m : Module) (cls idx last : Nat) : Option (QKey × Desc) :=
  (List.range 16).foldl (fun a i =>
    match a with
    | some x => some x
    | none =>
      let p := (last + 1 + i) % 16
      match queue m ⟨cls, idx, p⟩ with
      | d :: _ => if suspectOk m cls idx d.part d.ctx then some (⟨cls, idx, p⟩, d) else none
      | [] => none) none

/-- The wing of a queue class's unit. -/
def qwing (cls idx : Nat) : Nat := idx / (qclsCount cls / 2)

/-- The service class of record events for each queue class (R60). -/
def evClsOf (qcls : Nat) : Nat :=
  match qcls with
  | 0 => 0x05 | 1 => 0x06 | 2 => 0x07 | 3 => 0x08 | 4 => 0x09 | 5 => 0x0A | 6 => 0x0E | 7 => 0x14 | 8 => 0x16 | 9 => 0x17
  | 10 => 0x03 | 11 => 0x15 | _ => 0x14

/-- A descriptor refused at the head of its queue: it does no work and completes, BODY_REFUSED carrying its SEQ. -/
def bodyRefused (cls idx : Nat) (code : Nat) (d : Desc) (m : Module) : Module :=
  let unit := if cls = 8 ∨ cls = 9 then 0xFFFF else idx
  complete cls idx d true (ev (evClsOf cls) code unit 2 d.part d.ctx d.seq m)

/-- Busy cycles and bytes by partition (R717, R718). -/
def addPGal (p n : Nat) (m : Module) : Module :=
  { m with dbg := { m.dbg with pGal := mapAt 0 m.dbg.pGal p (· + BitVec.ofNat 64 n) } }
def addPLnd (p n : Nat) (m : Module) : Module :=
  { m with dbg := { m.dbg with pLnd := mapAt 0 m.dbg.pLnd p (· + BitVec.ofNat 64 n) } }
def addPFlt (p n : Nat) (m : Module) : Module :=
  { m with dbg := { m.dbg with pFlt := mapAt 0 m.dbg.pFlt p (· + BitVec.ofNat 64 n) } }

/-- Sets a gate of a context (R119, R126, R557); setting one that is set records GATE_DOUBLE. -/
def setGate (part ctx g : Nat) (m : Module) : Module :=
  let k := part * 8 + ctx
  let x := nget 0 m.gates k
  let m' := progress part ctx { m with gates := nset 0 m.gates k (x ||| BitVec.ofNat 16 (2 ^ g)) }
  if bit x g then ev 0x03 7 0xFFFF 2 part ctx (BitVec.ofNat 64 g) m' else m'

/-- The tiers' unit and slot sizes (R345); tier 0 Hall, 1 fast, 2 slow. -/
def slotSize (tier : Nat) : Nat := if tier = 0 then 0xC0000 else if tier = 1 then 0x80000000 else 0x2000000000
def tierUnits (tier : Nat) : Nat := if tier = 0 then 512 else if tier = 1 then 256 else 24
def tierSize (tier : Nat) : Nat := slotSize tier * tierUnits tier
def tierCls (tier : Nat) : Nat := if tier = 0 then 6 else if tier = 1 then 7 else 8
def tierEvCls (tier : Nat) : Nat := if tier = 0 then 0x0B else if tier = 1 then 0x0C else 0x0D

end Sys2Proof.Machine
end

