-- ==== Sys2Proof/Machine/Mem.lean ====
section
/-! DEFINITION. The three memory tiers (chapter 9): global addresses, ownership slots and interleave, sectors, the
partition caches, slow-tier encryption, atomic updates, and what a reset or an apply does to contents. -/

namespace Sys2Proof.Machine

/-! ### Global addresses (R47 to R50) -/

def gaSlot (a : W64) : Nat := fld a 56 4
def gaTier (a : W64) : Nat := fld a 54 2
def gaOff (a : W64) : Nat := fld a 0 54
/-- Whether the reserved bits are zero and SLOT is not a reserved value (R47). -/
def gaOk (a : W64) : Bool := fld a 60 4 = 0 && (gaSlot a ≤ 8 || gaSlot a = 15)
/-- Whether an address names this module (R48). -/
def gaHere (m : Module) (a : W64) : Bool := gaSlot a = 15 || (m.pci.slotValid && gaSlot a = m.pci.slotId.toNat)
def gaMake (slot tier off : Nat) : W64 := BitVec.ofNat 64 (2 ^ 56 * slot + 2 ^ 54 * tier + off)

/-! ### Units of a partition and placement (R346 to R351) -/

/-- The scratch banks in service of a Hall range; HALL0 leaves out its cache banks (R351). -/
def scratchBanks (t : Struct) (r : PRec) (which : Nat) : List Nat :=
  let h := if which = 0 then r.hall0 else r.hall1
  if h.valid then
    let n := h.last + 1 - h.first - (if which = 0 then r.cache else 0)
    ((List.range n).map (· + h.first)).filter (fun b => !t.isOos 6 b)
  else []

/-- The partition's units of the range or tier that an offset's slot falls in (R350, R351). -/
def unitsFor (t : Struct) (p tier off : Nat) : List Nat :=
  let r := t.prec p
  if tier = 0 then
    let a := scratchBanks t r 0
    if a.contains (off / slotSize 0) then a else scratchBanks t r 1
  else (bitsOf (BitVec.ofNat 256 (r.mask (tierCls tier)))).filter (fun u => !t.isOos (tierCls tier) u)

/-- The granule of an interleave code, none when linear (R348). -/
def granule (code : Nat) : Option Nat :=
  match code with
  | 0 => some 0x100 | 1 => some 0x1000 | 2 => some 0x10000 | 3 => some 0x200000 | _ => none

/-- Where an offset is stored, as unit × slot size + unit offset (R350). -/
def placeIn (us : List Nat) (z : Nat) (g : Option Nat) (a : Nat) : Nat :=
  match g with
  | none => a
  | some g =>
    let i := z * us.idxOf (a / z) + a % z
    let q := i / g
    z * us.getD (q % us.length) 0 + g * (q / us.length) + i % g

/-- The physical place of an offset for a partition (R350, R351). -/
def place (m : Module) (p tier off : Nat) : Nat :=
  match m.img.active with
  | none => off
  | some t =>
    let r := t.prec p
    placeIn (unitsFor t p tier off) (slotSize tier)
      (if tier = 0 then some 0x100 else granule ((if tier = 1 then r.hbmIl else r.lpxIl) % 8)) off

/-- Whether the slot of an offset belongs to the partition (R346, R351). -/
def slotOwned (t : Struct) (p tier slot : Nat) : Bool :=
  (t.prec p).enable && (unitsFor t p tier (slotSize tier * slot)).contains slot

/-- Whether every slot that a range touches belongs to the partition and the range lies in its tier (R49, R346). -/
def allowed (m : Module) (p tier off len : Nat) : Bool :=
  match m.img.active with
  | none => false
  | some t =>
    tier < 3 && len > 0 && off + len ≤ tierSize tier &&
    (List.range ((off + len - 1) / slotSize tier - off / slotSize tier + 1)).all
      (fun i => slotOwned t p tier (off / slotSize tier + i))

/-- Whether an address names an owned range of this module's tier. -/
def allowedAt (m : Module) (p tier : Nat) (a : W64) (len : Nat) : Bool :=
  gaOk a && gaHere m a && gaTier a = tier && allowed m p tier (gaOff a) len

/-! ### Bytes of a tier -/

/-- A stored byte; an unlisted address reads zero while its unit's contents were never lost, and otherwise as the free
byte of that loss (R41, R97; log entry 3). -/
def TierMem.get (t : TierMem) (z tier a : Nat) : Byte :=
  match nfind t.cells a with
  | some b => b
  | none =>
    let l := nget 0 t.lost (a / z)
    if l = 0 then 0 else Config.lostByte tier l a

/-- Stores a byte, keeping the canonical form: in a unit never lost a zero byte is not listed. -/
def TierMem.put (t : TierMem) (z a : Nat) (b : Byte) : TierMem :=
  if nget 0 t.lost (a / z) = 0 then { t with cells := nset 0 t.cells a b } else { t with cells := nput t.cells a b }

def TierMem.getN (t : TierMem) (z tier a n : Nat) : List Byte := (List.range n).map (fun i => t.get z tier (a + i))

def TierMem.putN (t : TierMem) (z : Nat) : Nat → List Byte → TierMem
  | _, [] => t
  | a, b :: r => TierMem.putN (t.put z a b) z (a + 1) r

/-- The canonical form: addresses strictly rising, no entry that an unlisted address would read as. -/
def TierMem.wf (z : Nat) (t : TierMem) : Bool :=
  rising t.cells && t.cells.all (fun c => c.2 != 0 || nget 0 t.lost (c.1 / z) != 0)

/-- Every tier in canonical form. -/
def Memory.wf (b : MemBlk) : Bool :=
  b.hall.wf (slotSize 0) && b.fast.wf (slotSize 1) && b.slow.wf (slotSize 2)

/-- A unit's contents are zeroed (R658). -/
def TierMem.zeroUnit (t : TierMem) (z u : Nat) : TierMem :=
  { cells := t.cells.filter (fun c => c.1 / z != u), lost := nset 0 t.lost u 0 }

/-- A unit's contents are lost (R41, R97). -/
def TierMem.loseUnit (t : TierMem) (z u : Nat) : TierMem :=
  { cells := t.cells.filter (fun c => c.1 / z != u), lost := mapAt 0 t.lost u (· + 1) }

def tierMem (b : MemBlk) (tier : Nat) : TierMem := if tier = 0 then b.hall else if tier = 1 then b.fast else b.slow
def setTierMem (b : MemBlk) (tier : Nat) (t : TierMem) : MemBlk :=
  if tier = 0 then { b with hall := t } else if tier = 1 then { b with fast := t } else { b with slow := t }

def zeroUnit (tier u : Nat) (m : Module) : Module :=
  { m with mem := setTierMem m.mem tier ((tierMem m.mem tier).zeroUnit (slotSize tier) u) }
def loseUnit (tier u : Nat) (m : Module) : Module :=
  { m with mem := setTierMem m.mem tier ((tierMem m.mem tier).loseUnit (slotSize tier) u) }

/-! ### Counters and ECC of the tiers (R353, R354, R380, R384, R387) -/

/-- The controller of a physical address of the fast or slow tier: the stack or the package. -/
def ctlOf (tier phys : Nat) : Nat := if tier = 1 then phys / slotSize 1 / 32 else phys / slotSize 2

def memUnit (b : MemBlk) (tier k : Nat) : MemUnit := nget MemUnit.init (if tier = 1 then b.hbm else b.lpx) k
def setMemUnit (b : MemBlk) (tier k : Nat) (u : MemUnit) : MemBlk :=
  if tier = 1 then { b with hbm := nset MemUnit.init b.hbm k u } else { b with lpx := nset MemUnit.init b.lpx k u }
def updMemUnit (tier k : Nat) (f : MemUnit → MemUnit) (m : Module) : Module :=
  { m with mem := setMemUnit m.mem tier k (f (memUnit m.mem tier k)) }

/-- The sectors a run of bytes touches, and how many it only partly writes (R355, R356). -/
def sectorsOf (off n : Nat) : Nat := if n = 0 then 0 else (off + n - 1) / 32 - off / 32 + 1
def partialSectors (off n : Nat) : Nat :=
  sectorsOf off n - ((off + n) / 32 - ceilDiv off 32)

/-- Bytes that cross the Corridor, counted in COR_TX of the wing that sends them and in COR_RX of the wing that receives them (R33,
R618). -/
def corridor (src dst n : Nat) (m : Module) : Module :=
  if src = dst || src > 1 || dst > 1 then m
  else
    let a := m.cor' src
    let m := m.setCor src { a with tx := a.tx + BitVec.ofNat 64 n }
    let b := m.cor' dst
    m.setCor dst { b with rx := b.rx + BitVec.ofNat 64 n }

/-- An access of `n` bytes that a wing makes to a Hall bank of wing `bw`: one from the other wing is counted in HALL_REMOTE, and its
bytes cross the Corridor (R354); a requester of no wing (2) crosses nothing (log entry 163). -/
def hallAccess (w bw n : Nat) (write : Bool) (m : Module) : Module :=
  if w ≤ 1 && w != bw then
    let h := m.hallW' bw
    (if write then corridor w bw n else corridor bw w n) (m.setHallW bw { h with remote := h.remote + 1 })
  else m

/-- Requester-cycles lost at the banks of a wing (R353). -/
def hallLost (w n : Nat) (m : Module) : Module :=
  let h := m.hallW' w
  m.setHallW w { h with conflict := h.conflict + BitVec.ofNat 64 n }

/-- The wing of a controller of the fast or slow tier (R34). -/
def ctlWing (tier phys : Nat) : Nat := if tier = 1 then ctlOf 1 phys / 4 else ctlOf 2 phys / 12

/-- The wing that holds a partition's cache banks (R360, R384). -/
def cacheWing (m : Module) (p : Nat) : Nat := (prec m p).hall0.last / 256

/-- The physical sector key of a poison code word (R381). -/
def poisonKey (tier phys : Nat) : Nat := 2 ^ 60 * tier + phys / 32
def isPoison (m : Module) (tier phys : Nat) : Bool := nget false m.mem.poison (poisonKey tier phys)
def setPoison (tier phys : Nat) (v : Bool) (m : Module) : Module :=
  { m with mem := { m.mem with poison := nset false m.mem.poison (poisonKey tier phys) v } }

/-- ECC_LAST of an HBM4 stack or a package for a physical address (R347, R387). -/
def eccLoc (tier phys : Nat) : W64 :=
  let u := phys / slotSize tier
  let o := phys % slotSize tier
  let ch := if tier = 1 then u % 32 else o / 256 % 4
  let co := if tier = 1 then o else (o / 1024) * 256 + o % 256
  pack [(ch, 40), (co / 32, 5)]

/-- HALL_ECC_LAST for a physical address: the bank, the line in it and the sector (R384). -/
def hallLoc (phys : Nat) : W64 :=
  pack [(phys / slotSize 0, 32), (phys % slotSize 0 / 256 % 4096, 3), (phys / 32 % 8, 0)]

/-- An ECC error of a sector is counted, and ECC_LAST holds its place (R380, R383, R384, R387). -/
def eccTally (unc : Bool) (tier phys : Nat) (m : Module) : Module :=
  if tier = 0 then
    let w := phys / slotSize 0 / 256
    let h := m.hallW' w
    m.setHallW w { h with
      eccU := if unc then satAdd h.eccU 1 else h.eccU, eccC := if unc then h.eccC else satAdd h.eccC 1, eccLast := hallLoc phys }
  else updMemUnit tier (ctlOf tier phys) (fun u => { u with
    eccU := if unc then satAdd u.eccU 1 else u.eccU, eccC := if unc then u.eccC else satAdd u.eccC 1, eccLast := eccLoc tier phys }) m

/-- Records an uncorrected error of a sector read by a partition (R380): `p` 31 for none. -/
def sectorUnc (tier phys off p : Nat) (m : Module) : Module :=
  evS 1 (tierEvCls tier) 2 (phys / slotSize tier) 4 p 0 (BitVec.ofNat 64 (off / 32 * 32)) (eccTally true tier phys m)

/-- Counts and records a corrected error (R380). -/
def sectorCor (tier phys off p : Nat) (m : Module) : Module :=
  evS 0 (tierEvCls tier) 1 (phys / slotSize tier) 3 p 0 (BitVec.ofNat 64 (off / 32 * 32)) (eccTally false tier phys m)

/-! ### One block of at most 256 bytes -/

/-- The key under which a partition's slow-tier sectors are stored (R661); partition 16 is the module itself. -/
def keyOf (m : Module) (p : Nat) : Nat := if p < 16 then nget 0 m.mem.keyId p else 2 ^ 32

/-- The 32 bytes of one physical sector as a partition sees them: slow-tier sectors stored under another key or offset read
as unpredictable values (R661, R663). -/
def sectorBytes (p tier off phys : Nat) (m : Module) : List Byte × Module :=
  if tier = 2 ∧ nget (0, 0) m.mem.slowTag (phys / 32) ≠ (keyOf m p, off / 32) then
    ((List.range 32).map (fun i => Config.cipherByte m.mem.freeCount (off / 32) i),
      { m with mem := { m.mem with freeCount := m.mem.freeCount + 1 } })
  else ((tierMem m.mem tier).getN (slotSize tier) tier (phys / 32 * 32) 32, m)

/-- Whether a sector read carries an uncorrected error: a poison code word, or a unit that failed training (R381, R693). -/
def sectorBad (m : Module) (tier phys : Nat) : Bool :=
  isPoison m tier phys || m.mem.badUnits.contains (tierCls tier, phys / slotSize tier)

/-- Reads one sector from memory: its 32 bytes, and whether it carries an uncorrected error, which is recorded. -/
def readSector (p tier off phys : Nat) (m : Module) : List Byte × Bool × Module :=
  let (b, m) := sectorBytes p tier off phys m
  if sectorBad m tier phys then (b, true, sectorUnc tier (phys / 32 * 32) off (if p < 16 then p else 31) m) else (b, false, m)

/-- Stores a whole sector: it ends poison, unless the data itself is poisoned (R381). -/
def storeSector (p tier off phys : Nat) (bs : List Byte) (poisoned : Bool) (m : Module) : Module :=
  let base := phys / 32 * 32
  let m := { m with mem := setTierMem m.mem tier ((tierMem m.mem tier).putN (slotSize tier) base bs) }
  let m := if tier = 2 then
      { m with mem := { m.mem with slowTag := nset (0, 0) m.mem.slowTag (base / 32) (keyOf m p, off / 32) } }
    else m
  setPoison tier base poisoned m

/-- Writes bytes into one sector, `lo` the first byte's place in it: a partial write is merged, for which the controllers of the fast
and slow tiers read the sector (R356), and that read reports an uncorrected error as any other (R380, R381); a whole one ends poison,
unless the data itself is poisoned (R381). -/
def writeSector (p tier off phys lo : Nat) (bs : List Byte) (poisoned : Bool) (m : Module) : Module :=
  if bs.length = 32 then storeSector p tier off phys bs (poisoned && tier != 0) m
  else
    let (old, m) := if tier = 0 then sectorBytes p tier off phys m
      else
        let x := readSector p tier off phys m
        (x.1, x.2.2)
    let kept := isPoison m tier (phys / 32 * 32)
    storeSector p tier off phys (old.take lo ++ bs ++ old.drop (lo + bs.length)) (poisoned && tier != 0 || kept) m

/-- The parts of a run of bytes in each sector: (offset, place in the sector, bytes). -/
def sectorParts : Nat → Nat → Nat → List (Nat × Nat × Nat)
  | 0, _, _ => []
  | f + 1, off, n =>
    if n = 0 then []
    else
      let l := min n (32 - off % 32)
      (off, off % 32, l) :: sectorParts f (off + l) (n - l)

/-- The blocks of a run of bytes that lie in one 256-byte line each. -/
def blocks : Nat → Nat → Nat → List (Nat × Nat)
  | 0, _, _ => []
  | f + 1, off, n =>
    if n = 0 then []
    else
      let l := min n (256 - off % 256)
      (off, l) :: blocks f (off + l) (n - l)

def blocksOf (off n : Nat) : List (Nat × Nat) := blocks (n / 256 + 2) off n

/-- Counts a memory access of one block. -/
def countRead (w tier phys n : Nat) (m : Module) : Module :=
  if tier = 0 then hallAccess w (phys / slotSize 0 / 256) (sectorsOf phys n * 32) false m
  else updMemUnit tier (ctlOf tier phys) (fun u => { u with rd := u.rd + BitVec.ofNat 64 (sectorsOf phys n * 32) }) m

def countWrite (w tier phys n : Nat) (m : Module) : Module :=
  if tier = 0 then hallAccess w (phys / slotSize 0 / 256) (sectorsOf phys n * 32) true m
  else updMemUnit tier (ctlOf tier phys) (fun u => { u with
    wr := u.wr + BitVec.ofNat 64 (sectorsOf phys n * 32), rmw := u.rmw + BitVec.ofNat 64 (partialSectors phys n) }) m

/-! ### The partition's cache (R360 to R363) -/

/-- The number of sets of a partition's cache, zero when it has none (R360). -/
def cacheSets (m : Module) (p : Nat) : Nat := if p < 16 then (prec m p).cache / 8 * 3072 else 0

/-- The first bank of a cache way (R360). -/
def wayBank (r : PRec) (way : Nat) : Nat := r.hall0.last + 1 - r.cache + way * (r.cache / 8)

/-- Whether the banks of a cache way are in service under a structure (R351). -/
def wayUpIn (t : Struct) (p way : Nat) : Bool :=
  (List.range ((t.prec p).cache / 8)).all (fun i => !t.isOos 6 (wayBank (t.prec p) way + i))

/-- Whether a cache way holds lines: its banks are in service (R351). -/
def wayUp (m : Module) (p way : Nat) : Bool :=
  match m.img.active with
  | none => false
  | some t => wayUpIn t p way

def lineKey (set way : Nat) : Nat := set * 8 + way

/-- The way that holds a line, if one in service does (R351). -/
def lineAt (m : Module) (p tier off : Nat) : Option (Nat × CacheLine) :=
  let s := cacheSets m p
  if s = 0 || tier = 0 then none
  else
    let set := off / 256 % s
    (List.range 8).foldl (fun a w =>
      match a with
      | some x => some x
      | none =>
        match nfind (m.cache p).lines (lineKey set w) with
        | some l => if wayUp m p w && l.tier = tier && l.addr = off / 256 then some (lineKey set w, l) else none
        | none => none) none

/-- The physical Hall address of a sector of a line: 3,072 sets fill one bank of the way (R360; log entry 163). -/
def lineSpot (m : Module) (p key s : Nat) : Nat :=
  slotSize 0 * (wayBank (prec m p) (key % 8) + key / 8 / 3072) + 256 * (key / 8 % 3072) + 32 * s

def putLine (p key : Nat) (l : CacheLine) (m : Module) : Module :=
  let c := m.cache p
  m.setCache p { c with lines := nput c.lines key l }

/-- A line is used now (R363). -/
def useLine (p key : Nat) (l : CacheLine) (m : Module) : Module :=
  let c := m.cache p
  m.setCache p { c with lines := nput c.lines key { l with used := c.clock + 1 }, clock := c.clock + 1 }

/-- Prefetched sectors that leave the cache unused are wasted (R409). -/
def wasteMarks (l : CacheLine) (m : Module) : Module :=
  l.marks.foldl (fun m k => let f := m.flt' k.eng; m.setFlt k.eng { f with pfWaste := f.pfWaste + 1 }) m

/-- A demand that hits a marked sector (R409). -/
def demandMark (s : Nat) (l : CacheLine) (m : Module) : CacheLine × Module :=
  match l.marks.find? (fun k => k.sector = s) with
  | none => (l, m)
  | some k =>
    let f := m.flt' k.eng
    ({ l with marks := l.marks.filter (fun x => x.sector != s) },
      m.setFlt k.eng { f with pfUsed := f.pfUsed + 1, pfTimely := if k.arrived then f.pfTimely + 1 else f.pfTimely })

/-- Writes back the dirty sectors of a line (R363): the number written back, and memory after it. -/
def writeBack (p : Nat) (l : CacheLine) (m : Module) : Nat × Module :=
  (List.range 8).foldl (fun a s =>
    if bit l.dirty s then
      let off := l.addr * 256 + s * 32
      let ph := place a.2 p l.tier off
      let m := hallAccess (ctlWing l.tier ph) (cacheWing a.2 p) 32 false (countWrite 2 l.tier ph 32 a.2)
      (a.1 + 1, storeSector p l.tier off ph (slice l.data (s * 32) 32) (bit l.bad s) m)
    else a) (0, m)

/-- Writes a line back and counts the sectors in HALL_CWB. -/
def cleanLine (p key : Nat) (l : CacheLine) (m : Module) : Module :=
  let (n, m) := writeBack p l m
  let c := m.cache p
  m.setCache p { c with wb := c.wb + BitVec.ofNat 64 n, lines := nput c.lines key { l with dirty := 0 } }

def dropLine (p key : Nat) (m : Module) : Module :=
  let c := m.cache p
  m.setCache p { c with lines := c.lines.filter (fun x => x.1 != key) }

/-- Allocates a line: a free way, or the least recently used one, whose dirty sectors are written back (R363). -/
def allocLine (p tier off : Nat) (m : Module) : Option (Nat × CacheLine × Module) :=
  let s := cacheSets m p
  let set := off / 256 % s
  let ways := (List.range 8).filter (wayUp m p)
  let new : CacheLine := { tier := tier, addr := off / 256, valid := 0, dirty := 0, data := List.replicate 256 0, used := 0,
                           bad := 0, own := 0, marks := [] }
  match ways.find? (fun w => (nfind (m.cache p).lines (lineKey set w)).isNone) with
  | some w => some (lineKey set w, new, m)
  | none =>
    let pick := ways.foldl (fun a w =>
      match a, nfind (m.cache p).lines (lineKey set w) with
      | none, some l => some (w, l)
      | some x, some l => if l.used < x.2.used then some (w, l) else some x
      | a, none => a) (none : Option (Nat × CacheLine))
    match pick with
    | none => none
    | some (w, l) =>
      let m := wasteMarks l (cleanLine p (lineKey set w) l m)
      some (lineKey set w, new, dropLine p (lineKey set w) m)

def setBit8 (b : Byte) (i : Nat) (v : Bool) : Byte :=
  if v then b ||| BitVec.ofNat 8 (2 ^ i) else b &&& ~~~(BitVec.ofNat 8 (2 ^ i))

/-- Fills the invalid sectors of a line from memory (R362); `pf` the prefetching engine and its burst's tag, if one fills it. -/
def fillLine (p : Nat) (l : CacheLine) (pf : Option (Nat × Nat)) (m : Module) : CacheLine × Module :=
  (List.range 8).foldl (fun a s =>
    if bit a.1.valid s then a
    else
      let off := l.addr * 256 + s * 32
      let ph := place a.2 p l.tier off
      let m := hallAccess (ctlWing l.tier ph) (cacheWing a.2 p) 32 true (countRead 2 l.tier ph 32 a.2)
      let (b, bad, m) := readSector p l.tier off ph m
      let marks := match pf with
        | some e => (⟨s, e.1, e.2, false⟩ : PfMark) :: a.1.marks
        | none => a.1.marks
      let m := match pf with
        | some e => let f := m.flt' e.1; m.setFlt e.1 { f with pfFilled := f.pfFilled + 1 }
        | none => m
      ({ a.1 with valid := setBit8 a.1.valid s true, data := splice a.1.data (s * 32) b, bad := setBit8 a.1.bad s bad,
                  own := setBit8 a.1.own s false, marks := marks }, m)) (l, m)

/-- Whether every sector of a run is valid in a line. -/
def lineHas (l : CacheLine) (off n : Nat) : Bool :=
  (sectorParts 9 off n).all (fun x => bit l.valid (x.1 / 32 % 8))

def countLookup (p : Nat) (hit : Bool) (m : Module) : Module :=
  let c := m.cache p
  m.setCache p (if hit then { c with hit := c.hit + 1 } else { c with miss := c.miss + 1 })

/-! ### Reads and writes by a partition's requester -/

/-- A read of a cached sector with an uncorrected error reports it (R380, R381): for the Hall bank that holds it where the error
arose there, else for the memory it was filled from. -/
def lineUnc (p key : Nat) (l : CacheLine) (off : Nat) (m : Module) : Module :=
  let s := off / 32 % 8
  if bit l.own s then sectorUnc 0 (lineSpot m p key s) (lineSpot m p key s) p m
  else if bit l.bad s then sectorUnc l.tier (place m p l.tier off / 32 * 32) off p m
  else m

/-- Reads the parts of one block: from the line where a sector is valid, else from memory. Answers the bytes, and for each
byte's sector whether it carries an uncorrected error; a sector of `fresh`, which this access itself filled, was reported then. -/
def readParts (w p tier : Nat) (line : Option (Nat × CacheLine)) (fresh : Byte) :
    List (Nat × Nat × Nat) → Module → List Byte × List Bool × Module
  | [], m => ([], [], m)
  | (off, lo, n) :: r, m =>
    let s := off / 32 % 8
    let line' := match line with
      | some (k, l) => if bit l.valid s then some (k, l) else none
      | none => none
    match line' with
    | some (k, l) =>
      let l := match nfind (m.cache p).lines k with
        | some x => x
        | none => l
      let (l, m) := demandMark s l m
      let m := putLine p k l m
      let bad := bit l.bad s
      let m := if bit fresh s then m else lineUnc p k l off m
      let x := readParts w p tier line fresh r (hallAccess w (cacheWing m p) 32 false m)
      (slice l.data (s * 32 + lo) n ++ x.1, List.replicate n bad ++ x.2.1, x.2.2)
    | none =>
      let ph := place m p tier off
      let m := countRead w tier ph n m
      let (b, bad, m) := readSector p tier off ph m
      let x := readParts w p tier line fresh r m
      (slice b lo n ++ x.1, List.replicate n bad ++ x.2.1, x.2.2)

/-- A lookup uses the line on a hit and on an allocation, and not on a miss that allocates nothing (R363). -/
def touchLine (use : Bool) (p key : Nat) (l : CacheLine) (m : Module) : Module := if use then useLine p key l m else m

/-- Reads one block through the partition's cache (R361, R362). -/
def readBlock (w p tier : Nat) (alloc : Bool) (off n : Nat) (m : Module) : List Byte × List Bool × Module :=
  if tier = 0 || cacheSets m p = 0 then
    let x := readParts 2 p tier none 0 (sectorParts 9 off n) m
    (x.1, x.2.1, if tier = 0 then countRead w 0 (place m p 0 off) n x.2.2 else x.2.2)
  else
    match lineAt m p tier off with
    | some (k, l) =>
      let hit := lineHas l off n
      let m := countLookup p hit m
      let (l', m) := if !hit && alloc then fillLine p l none m else (l, m)
      readParts w p tier (some (k, l')) (l'.valid &&& ~~~l.valid) (sectorParts 9 off n) (touchLine (hit || alloc) p k l' m)
    | none =>
      let m := countLookup p false m
      if alloc then
        match allocLine p tier off m with
        | some (k, l, m) =>
          let (l, m) := fillLine p l none m
          readParts w p tier (some (k, l)) 0xFF (sectorParts 9 off n) (useLine p k l m)
        | none => readParts w p tier none 0 (sectorParts 9 off n) m
      else readParts w p tier none 0 (sectorParts 9 off n) m

/-- Reads a run of bytes for a partition: the bytes, whether each lies in a sector with an uncorrected error, and the
module after the read. `w` is the requester's wing, 2 for one of no wing. -/
def memRead (w p tier : Nat) (alloc : Bool) (off n : Nat) (m : Module) : List Byte × List Bool × Module :=
  (blocksOf off n).foldl (fun a b =>
    let x := readBlock w p tier alloc b.1 b.2 a.2.2
    (a.1 ++ x.1, a.2.1 ++ x.2.1, x.2.2)) ([], [], m)

/-- Writes the parts of one block. A whole sector enters the line when one is allocated; a part of a sector enters it only
where the sector is valid (log entry 8); everything else goes to memory. `bad` marks the bytes that carry an uncorrected error. -/
def writeParts (w p tier : Nat) (alloc : Bool) (key : Option Nat) :
    List (Nat × Nat × Nat) → List Byte → List Bool → Module → Module
  | [], _, _, m => m
  | (off, lo, n) :: r, bs, bad, m =>
    let s := off / 32 % 8
    let isBad := (bad.take n).any id
    let line := match key with
      | some k => (nfind (m.cache p).lines k).map (fun l => (k, l))
      | none => none
    let toMem (m : Module) : Module :=
      let ph := place m p tier off
      writeSector p tier off ph lo (bs.take n) isBad (countWrite w tier ph n m)
    let m := match line with
      | some (k, l) =>
        if bit l.valid s || (alloc && n = 32) then
          let (l, m) := demandMark s l m
          hallAccess w (cacheWing m p) 32 true (putLine p k { l with
            valid := setBit8 l.valid s true, dirty := setBit8 l.dirty s true, data := splice l.data (s * 32 + lo) (bs.take n)
            bad := if n = 32 then setBit8 l.bad s isBad else if isBad then setBit8 l.bad s true else l.bad
            own := if n = 32 then setBit8 l.own s false else l.own } m)
        else toMem m
      | none => toMem m
    writeParts w p tier alloc key r (bs.drop n) (bad.drop n) m

/-- Writes one block through the partition's cache (R361, R362). -/
def writeBlock (w p tier : Nat) (alloc : Bool) (off : Nat) (bs : List Byte) (bad : List Bool) (m : Module) : Module :=
  let parts := sectorParts 9 off bs.length
  if tier = 0 || cacheSets m p = 0 then
    let m := writeParts 2 p tier false none parts bs bad m
    if tier = 0 then countWrite w 0 (place m p 0 off) bs.length m else m
  else
    match lineAt m p tier off with
    | some (k, l) =>
      let hit := lineHas l off bs.length
      writeParts w p tier alloc (some k) parts bs bad (touchLine (hit || alloc) p k l (countLookup p hit m))
    | none =>
      let m := countLookup p false m
      if alloc then
        match allocLine p tier off m with
        | some (k, l, m) => writeParts w p tier true (some k) parts bs bad (useLine p k l m)
        | none => writeParts w p tier false none parts bs bad m
      else writeParts w p tier false none parts bs bad m

/-- Writes a run of bytes for a partition; the sectors of bytes marked bad are stored with the poison code word in the
fast and slow tiers (R381, R413). -/
def memWriteBad (w p tier : Nat) (alloc : Bool) (off : Nat) (bs : List Byte) (bad : List Bool) (m : Module) : Module :=
  ((blocksOf off bs.length).foldl (fun (a : Nat × Module) b =>
    (a.1 + b.2, writeBlock w p tier alloc b.1 ((bs.drop a.1).take b.2) ((bad.drop a.1).take b.2) a.2)) (0, m)).2

def memWrite (w p tier : Nat) (alloc : Bool) (off : Nat) (bs : List Byte) (m : Module) : Module :=
  memWriteBad w p tier alloc off bs [] m

/-- A Hall read and a Hall write by an engine of a wing. -/
def hallRead (w p off n : Nat) (m : Module) : List Byte × Module :=
  let x := memRead w p 0 false off n m
  (x.1, x.2.2)
def hallWrite (w p off : Nat) (bs : List Byte) (m : Module) : Module := memWrite w p 0 false off bs m

/-! ### ECC errors that a command meets (R380, R383) -/

/-- An uncorrected error stands in a sector until it is rewritten, and what it holds is what a read now gives (R380, R381). -/
def spoilSector (tier phys : Nat) (data : List Byte) (m : Module) : Module :=
  setPoison tier phys true
    { m with mem := setTierMem m.mem tier ((tierMem m.mem tier).putN (slotSize tier) (phys / 32 * 32) (data.take 32)) }

/-- One error, in memory or in the cache bank that holds the sector. A corrected one is counted and recorded; an uncorrected one is
reported by the read that meets it. -/
def memErr (p : Nat) (e : MemErr) (m : Module) : Module :=
  let t := e.tier.val
  let q := if p < 16 then p else 31
  let s := e.off / 32 % 8
  match (if e.cached then lineAt m p t e.off else none) with
  | some (k, l) =>
    if !bit l.valid s then m
    else if e.unc then
      putLine p k { l with bad := setBit8 l.bad s true, own := setBit8 l.own s true, data := splice l.data (s * 32) (e.data.take 32) } m
    else sectorCor 0 (lineSpot m p k s) (lineSpot m p k s) q m
  | none =>
    if e.cached then m
    else if e.unc then spoilSector t (place m p t e.off) e.data m
    else sectorCor t (place m p t e.off / 32 * 32) e.off q m

/-- The ECC errors that a command meets in the sectors it reads, corrected ones first, as their codes stand (R63). -/
def memErrs (p : Nat) (errs : List MemErr) (m : Module) : Module :=
  (errs.filter (fun e => !e.unc) ++ errs.filter (fun e => e.unc)).foldl (fun m e => memErr p e m) m

/-! ### Atomic updates (R367 to R371) -/

/-- The element size of an atomic operation; zero for a reserved code (R367). -/
def atomSize (op : Nat) : Nat :=
  match op with
  | 0 => 4 | 1 => 2 | 2 => 4 | 3 => 8 | 4 => 4 | 5 => 8 | _ => 0

def atomFetches (op : Nat) : Bool := op = 4 || op = 5

/-- The result in memory (R367, R368). -/
def atomResult (op : Nat) (old arg : Nat) : Nat :=
  match op with
  | 0 => (f32Add (BitVec.ofNat 32 old) (BitVec.ofNat 32 arg)).toNat
  | 1 => (bf16Add (BitVec.ofNat 16 old) (BitVec.ofNat 16 arg)).toNat
  | 2 => (old + arg) % 2 ^ 32
  | 3 => (old + arg) % 2 ^ 64
  | 4 => (old + arg) % 2 ^ 32
  | _ => (old + arg) % 2 ^ 64

/-- The site of a partition's updates: the Hall cache, or the memory-side adders (R73, R74). -/
def atCache (m : Module) (p : Nat) : Bool :=
  match m.img.active with
  | none => false
  | some t => let r := t.prec p; (if r.atomicSel = 2 then t.atomicDefault else r.atomicSel) = 1

/-- The element an update leaves. -/
def atomNew (op n : Nat) (old arg : List Byte) : List Byte := natLe n (atomResult op (leNat old) (leNat arg))

/-- An update in the partition's cache: one lookup, which allocates the line (R362, R369). -/
def cacheAtomic (w p tier op off : Nat) (arg : List Byte) (m : Module) : List Byte × Module :=
  let n := atomSize op
  let x := readBlock w p tier true off n m
  let m := writeParts w p tier true ((lineAt x.2.2 p tier off).map (·.1)) (sectorParts 9 off n) (atomNew op n x.1 arg) x.2.1 x.2.2
  let c := m.cache p
  (x.1, m.setCache p { c with atom := c.atom + 1 })

/-- Before an update at the memory side, a cached line that holds the element's sector is written back if dirty, then invalidated
(R369). -/
def evictFor (p tier off : Nat) (m : Module) : Module :=
  match lineAt m p tier off with
  | some (k, l) =>
    if bit l.valid (off / 32 % 8) then
      let m := countLookup p true m
      let m := if l.dirty != 0 then cleanLine p k l m else m
      dropLine p k (wasteMarks l m)
    else countLookup p false m
  | none => if cacheSets m p = 0 then m else countLookup p false m

/-- An update by the adder of the controller that holds the element (R369). -/
def sideAtomic (p tier op off : Nat) (arg : List Byte) (m : Module) : List Byte × Module :=
  let n := atomSize op
  let m := evictFor p tier off m
  let ph := place m p tier off
  let (b, _, m) := readSector p tier off ph m
  let old := slice b (off % 32) n
  let new := splice b (off % 32) (atomNew op n old arg)
  let m := storeSector p tier off ph new (sectorBad m tier ph) m
  (old, updMemUnit tier (ctlOf tier ph) (fun u => { u with atom := u.atom + 1 }) m)

/-- One update, at the partition's site; answers the old element (R369). -/
def memAtomic (w p tier op off : Nat) (arg : List Byte) (m : Module) : List Byte × Module :=
  if atCache m p && cacheSets m p > 0 then cacheAtomic w p tier op off arg m else sideAtomic p tier op off arg m

/-! ### Slow-tier regions (R372, R373) -/

/-- A region register as (base, size) in bytes: [43:32] size in GiB, [11:0] base in GiB (R550). -/
def regionOf (r : BitVec 44) : Nat × Nat := (2 ^ 30 * fld r 0 12, 2 ^ 30 * fld r 32 12)

def overlap (a n b k : Nat) : Bool := a < b + k && b < a + n && n > 0 && k > 0

/-- The regions of a partition that only the Vestibule and the mirror engine write: MIRROR, VEST, SNAP (R373). -/
def guardedRegions (m : Module) (p : Nat) : List (Nat × Nat) :=
  [regionOf (m.mir' p).region, regionOf (m.vst' p).vest, regionOf (m.vst' p).snap]

def touchesGuarded (m : Module) (p tier off len : Nat) : Bool :=
  tier = 2 && (guardedRegions m p).any (fun r => overlap off len r.1 r.2)

/-- Dirty sectors that a partition's cache holds. -/
def popcount8 (b : Byte) : Nat := (bitsOf b).length
def dirtySectors (c : PCache) : Nat := c.lines.foldl (fun a x => a + popcount8 x.2.dirty) 0

/-- Writes back every dirty line of a partition's cache that meets a condition. -/
def flushCache (p : Nat) (sel : CacheLine → Bool) (m : Module) : Module :=
  (m.cache p).lines.foldl (fun m x => if x.2.dirty != 0 && sel x.2 then cleanLine p x.1 x.2 m else m) m

/-- Marks every line invalid; prefetched sectors not used are wasted (R364, R409). -/
def invalidateCache (p : Nat) (m : Module) : Module :=
  let m := (m.cache p).lines.foldl (fun m x => wasteMarks x.2 m) m
  let c := m.cache p
  m.setCache p { c with lines := [] }

/-! ### Trace drain (R725, R726) and the passing of time -/

/-- Whether the trace unit issues nothing to the region: an image that changes the region is armed, and the beat before its beat has
begun (R727). -/
def drainHeld (m : Module) : Bool :=
  m.img.st = .armed && (match m.dbg.hold with
    | some b => atOrAfter (beatNow m) b
    | none => false)

/-- One trace record leaves for the region (R726) or the Kerdun port; region writes bypass every cache. -/
def drainOne (m : Module) : Module :=
  let d := m.dbg
  match d.buffer with
  | [] => m
  | r :: rest =>
    match sinkFor m with
    | 0 =>
      match traceRegion m with
      | none => m
      | some (tier, base, c) =>
        if (d.stopFull && d.regionFull) || drainHeld m then m
        else
          let off := base + 32 * (d.wptr % c)
          let m := { m with dbg := { d with buffer := rest, wptr := d.wptr + 1, regionFull := d.regionFull || (d.stopFull && d.wptr + 1 ≥ c) } }
          storeSector 16 tier off off r false (countWrite 2 tier off 32 m)
    | 1 => emit (.kport r) { m with dbg := { d with buffer := rest } }
    | _ => m

/-- Drains up to `n` records; one record of 32 bytes is one nanosecond at the region's rate (R725; log entry 9). -/
def drainTrace : Nat → Module → Module
  | 0, m => m
  | n + 1, m => drainTrace n (drainOne m)

/-- Lets time pass and the trace buffer drain. -/
def pass (n : Nat) (m : Module) : Module := advance n (drainTrace (min n m.dbg.buffer.length) m)
def passTo (t : Nat) (m : Module) : Module := pass (t - m.clk.elapsed) m
def passToBeat (b : Beat) (m : Module) : Module := pass (nsToBeat b m) m
/-- The beat that is a multiple of `n` at whose start something recurs: the one that starts now, unless it has been served, or the
next. -/
def nextMultiple (n : Nat) (served : Option Beat) (m : Module) : Beat :=
  let k := (beatNow m).toNat / n * n
  if m.clk.time.toNat = 1024 * k && served != some (BitVec.ofNat 48 k) then BitVec.ofNat 48 k else BitVec.ofNat 48 (k + n)

def passToCycle (c : Nat) (m : Module) : Module :=
  if c ≤ m.clk.cycle then m
  else pass (ceilDiv ((c - m.clk.cycle) * 1000 - m.clk.cycAcc) (galMhz m.pwr)) m

end Sys2Proof.Machine
end

