-- ==== Sys2Proof/Machine/Fab.lean ====
section
/-! DEFINITION. The Nutur fabric's packets (chapter 11): headers, flits and their CRC, payload protection, routing, local
injection, and the replies of the data packets. -/

namespace Sys2Proof.Machine

/-! ### Headers and flits (R431 to R438) -/

def hdrZero : Hdr :=
  { ver := 1, ty := 0, tc := 0, slice := 0xFFF, epoch := 0, len := 0, dstChip := 0, srcChip := 0, dstPart := 31, srcPart := 31,
    tag := 0, addr := 0, aux := 0, rsv := 0 }

/-- The 32 bytes of a header (R435). -/
def hdrBytes (h : Hdr) : List Byte :=
  let w0 := 2 ^ 60 * h.ver.toNat + 2 ^ 52 * h.ty.toNat + 2 ^ 50 * h.tc.toNat + 2 ^ 48 * fld h.rsv 21 2 + 2 ^ 36 * h.slice.toNat
    + 2 ^ 28 * h.epoch.toNat + h.len.toNat * 2 ^ 15 + fld h.rsv 6 15
  let w1 := 2 ^ 48 * h.dstChip.toNat + 2 ^ 32 * h.srcChip.toNat + 2 ^ 27 * h.dstPart.toNat + 2 ^ 22 * h.srcPart.toNat
    + h.tag.toNat * 2 ^ 6 + fld h.rsv 0 6
  natLe 8 w0 ++ natLe 8 w1 ++ natLe 8 h.addr.toNat ++ natLe 8 h.aux.toNat

/-- The classes on which a TYPE may travel; none for a reserved TYPE (R436). -/
def tyClasses (ty : Nat) : List Nat :=
  match ty with
  | 0x01 => [1, 2] | 0x02 => [1, 2] | 0x03 => [2] | 0x04 => [2] | 0x05 => [2] | 0x06 => [1, 2] | 0x10 => [1] | 0x11 => [0]
  | 0x18 => [2] | 0x19 => [2] | 0x20 => [0] | 0x28 => [3] | 0x29 => [3] | 0x2A => [3] | _ => []

/-- Whether a router discards a head (R437); the flit's control word names class `tc`. -/
def hdrBad (h : Hdr) (tc : BitVec 2) : Bool :=
  h.ver != 1 || h.rsv != 0 || !(tyClasses h.ty.toNat).contains h.tc.toNat || h.len.toNat > 4096
  || (h.tc = 0 && h.len.toNat > 256) || h.tc != tc || fld h.dstChip 13 3 != 0 || fld h.srcChip 13 3 != 0

/-- The flits that a packet occupies (R435). -/
def flitCount (len : Nat) : Nat := max 1 (ceilDiv len 256)

/-- One step of CRC-32C over a byte. -/
def crcByte (c : Nat) (b : Byte) : Nat :=
  (List.range 8).foldl (fun x _ => if x % 2 = 1 then (x / 2) ^^^ 0x82F63B78 else x / 2) (c ^^^ b.toNat)

/-- CRC-32C (R432). -/
def crc32c (l : List Byte) : W32 := BitVec.ofNat 32 ((l.foldl crcByte 0xFFFFFFFF) ^^^ 0xFFFFFFFF)

/-- The bytes of a flit with its CRC field zero (R431, R432). -/
def flitBytes0 (f : Flit) : List Byte :=
  let lo := 2 ^ 29 * f.kind.toNat + 2 ^ 27 * f.tc.toNat + 2 ^ 26 * b2n f.vcb + 2 ^ 24 * fld f.rsv 16 2 + f.xoff.toNat * 2 ^ 16
    + fld f.rsv 0 16
  natLe 8 lo ++ (match f.hdr with
    | some h => hdrBytes h
    | none => []) ++ slice f.content 0 256

def flitCrcOk (f : Flit) : Bool := f.crc = crc32c (flitBytes0 f)
def flitWithCrc (f : Flit) : Flit := { f with crc := crc32c (flitBytes0 f) }
/-- The bytes a flit occupies in a buffer (R431, R448). -/
def flitSize (f : Flit) : Nat := if f.hdr.isSome then 296 else 264

/-- A packet cut into flits (R431, R435). -/
def toFlits (k : Pkt) (vcb : Bool) : List Flit :=
  let n := flitCount k.hdr.len.toNat
  (List.range n).map (fun i =>
    { crc := 0
      kind := if n = 1 then 4 else if i = 0 then 1 else if i + 1 = n then 3 else 2
      tc := k.hdr.tc, vcb := vcb, xoff := 0, rsv := 0
      hdr := if i = 0 then some k.hdr else none
      content := slice k.payload (256 * i) 256 })

/-! ### Routing (R458 to R461) -/

/-- A routing-table entry, as 128 bits: word 1 above word 0 (R459). -/
structure REnt where
  valid : Bool
  any : Bool
  slice : Nat
  prio : Nat
  out : Nat
  dl : Bool
  hi : Nat
  lo : Nat
  rsvBad : Bool

def rent (x : BitVec 128) : REnt :=
  { valid := bit x 63, any := bit x 62, slice := fld x 48 12, prio := fld x 44 4, out := fld x 32 5, dl := bit x 31,
    hi := fld x 96 13, lo := fld x 64 13,
    rsvBad := fld x 60 2 != 0 || fld x 37 7 != 0 || fld x 0 31 != 0 || fld x 109 19 != 0 || fld x 77 19 != 0 }

def REnt.hits (e : REnt) (slice chip : Nat) : Bool :=
  e.valid && (e.any || e.slice = slice) && e.lo ≤ chip && chip ≤ e.hi

/-- The winning entry: highest PRIO, then lowest index (R460). -/
def routeOf (t : NMap (BitVec 128)) (slice chip : Nat) : Option REnt :=
  t.foldl (fun a x =>
    let e := rent x.2
    if e.hits slice chip then
      match a with
      | none => some e
      | some b => if e.prio > b.prio then some e else a
    else a) none

/-- Whether two entries conflict (R461); a range whose ends are the wrong way round holds no chip and meets none. -/
def conflict (a b : REnt) : Bool :=
  a.valid && b.valid && a.lo ≤ a.hi && b.lo ≤ b.hi && (a.slice = b.slice || a.any || b.any) && a.lo ≤ b.hi && b.lo ≤ a.hi && a.prio = b.prio
  && (a.out != b.out || a.dl != b.dl)

/-- The conflicting pairs of a table, as (lower index, higher index), in order (R744). -/
def conflicts : NMap (BitVec 128) → List (Nat × Nat)
  | [] => []
  | (i, x) :: r => ((r.filter (fun y => conflict (rent x) (rent y.2))).map (fun y => (i, y.1))) ++ conflicts r

/-- A valid LOCAL entry that delivers a slice of no enabled partition (R90 code 0x16, R464 code 0x02). -/
def badLocal (slices : List Nat) (x : BitVec 128) : Bool :=
  let e := rent x
  e.valid && e.out = 16 && !e.any && e.slice != 0xFFF && !slices.contains e.slice

/-- Records an event at most once per slice in each 1,024-beat window (R472, R668). -/
def oncePerSlice (code slice : Nat) (f : Module → Module) (m : Module) : Module :=
  let k := (code, slice, window m)
  if m.rte.seen.contains k then m
  else
    let old := m.rte.seen.filter (fun x => x.2.2 = window m)
    f { m with rte := { m.rte with seen := k :: old } }

/-- A packet that no entry forwards (R460). -/
def noRoute (slice : Nat) (chip : Nat) (m : Module) : Module :=
  let m := { m with rte := { m.rte with noRoute := m.rte.noRoute + 1 } }
  oncePerSlice 4 slice (ev 0x13 4 0xFFFF 2 31 0 (pack [(slice, 16), (chip, 0)])) m

def sliceReject (h : Hdr) (m : Module) : Module :=
  let m := { m with rte := { m.rte with sliceRej := m.rte.sliceRej + 1 } }
  oncePerSlice 5 h.slice.toNat
    (ev 0x13 5 0xFFFF 2 31 0 (pack [(h.slice.toNat, 48), (h.dstPart.toNat, 32), (h.srcChip.toNat, 0)])) m

/-! ### Slices and epochs (R75, R463) -/

/-- The index of a slice in the slice table of the structure in force. -/
def sliceIdx (m : Module) (slice : Nat) : Option Nat :=
  match m.img.active with
  | none => none
  | some t => findIdx? (fun e => e.slice = slice) t.slices 0

/-- The current epoch of a slice (R463). -/
def curEpoch (m : Module) (slice : Nat) : Byte :=
  match sliceIdx m slice with
  | some n => (nget (0, 0) m.rte.epochs n).2
  | none => 0

/-- Whether a partition is an enabled member of a slice (R462). -/
def member (m : Module) (slice part : Nat) : Bool :=
  part < 16 && enabled m part && (prec m part).slice = slice

/-! ### Payload protection (R664 to R668) -/

def protectedPkt (h : Hdr) : Bool := h.slice != 0xFFF && h.tc != 0 && h.len != 0

/-- The 96-bit IV (R665; its byte order: log entry 11). -/
def gcmIv (h : Hdr) (epoch : Byte) (ctr : List Byte) : List Byte :=
  natLe 2 h.srcChip.toNat ++ [BitVec.ofNat 8 h.srcPart.toNat, epoch] ++ ctr

def skey (m : Module) (slice : Nat) (epoch : Byte) : Option SKey :=
  m.sec.skeys.find? (fun k => k.slice = slice && k.epoch = epoch)

/-- Encrypts a packet under its slice's key, whose counter advances; none when no key is held, which is counted (R666). -/
def protect (k : Pkt) (m : Module) : Option Pkt × Module :=
  let sl := k.hdr.slice.toNat
  match skey m sl k.hdr.epoch with
  | none =>
    let m := { m with sec := { m.sec with noKey := satAdd m.sec.noKey 1 } }
    (none, ev 0x1B 7 0xFFFF 4 31 0 (pack [(sl, 48), (k.hdr.epoch.toNat, 0)]) m)
  | some s =>
    let ctr := natLe 8 s.counter.toNat
    let h := { k.hdr with len := BitVec.ofNat 13 (k.payload.length + 24) }
    let e := gcmSeal s.key (gcmIv h h.epoch ctr) (hdrBytes h) k.payload
    let keys := m.sec.skeys.map (fun x => if x.slice = sl && x.epoch = k.hdr.epoch then { x with counter := x.counter + 1 } else x)
    (some { k with hdr := h, payload := ctr ++ e.1 ++ e.2 }, { m with sec := { m.sec with skeys := keys } })

/-- Opens a protected packet; none when it does not authenticate (R668). -/
def unprotect (k : Pkt) (m : Module) : Option Pkt :=
  match skey m k.hdr.slice.toNat k.hdr.epoch with
  | none => none
  | some s =>
    let n := k.payload.length
    if n < 24 then none
    else
      let ctr := k.payload.take 8
      let ct := (k.payload.drop 8).take (n - 24)
      match gcmOpen s.key (gcmIv k.hdr k.hdr.epoch ctr) (hdrBytes k.hdr) ct (k.payload.drop (n - 16)) with
      | some pt => some { k with payload := pt }
      | none => none

/-! ### Injection (R438, R455, R458) -/

def portUp (p : Port) : Bool := p.st = .up || p.st = .narrow
def portWing (p : Nat) : Nat := p / 8

/-- Offers a packet to the fabric: SRC_CHIP is the chip ID in force, its payload is protected where R664 says so, and the
routing table names the port; `w` is the wing of the engine that sends, 2 for the always-on domain. -/
def inject (w : Nat) (k : Pkt) (m : Module) : Module :=
  if !m.rte.chipValid then { m with rte := { m.rte with noRoute := m.rte.noRoute + 1 } }
  else
    let h := { k.hdr with srcChip := m.rte.chip.setWidth 16, len := BitVec.ofNat 13 k.payload.length }
    let k : Pkt := { hdr := h, payload := k.payload, via := w }
    let r := if protectedPkt h then protect k m else (some k, m)
    match r.1 with
    | none => r.2
    | some k =>
      let m := r.2
      match routeOf m.rte.active h.slice.toNat h.dstChip.toNat with
      | none => noRoute h.slice.toNat h.dstChip.toNat m
      | some e =>
        if e.out < 16 then
          let p := m.port' e.out
          if portUp p then
            let x : Inj := { part := h.srcPart.toNat, vc := 2 * h.tc.toNat + b2n e.dl, flits := toFlits k e.dl }
            let m := m.setPort e.out { p with inj := p.inj ++ [x] }
            corridor w (portWing e.out) (x.flits.length * 256) m
          else m.setPort e.out { p with cnt := { p.cnt with downDrop := satAdd p.cnt.downDrop 1 } }
        else if e.out = 16 then { m with rte := { m.rte with local_ := m.rte.local_ ++ [k] } }
        else { m with rte := { m.rte with noRoute := m.rte.noRoute + 1 } }

/-- A fresh tag for a packet the module sends. -/
def newTag (m : Module) : Nat × Module :=
  (m.rte.nextTag % 65536, { m with rte := { m.rte with nextTag := m.rte.nextTag + 1 } })

/-- A packet of a partition to a chip of its slice. -/
def slicePkt (m : Module) (ty tc part dstChip dstPart tag : Nat) (addr aux : W64) (payload : List Byte) : Pkt :=
  let sl := (prec m part).slice
  { hdr := { hdrZero with
      ty := BitVec.ofNat 8 ty, tc := BitVec.ofNat 2 tc, slice := BitVec.ofNat 12 sl, epoch := curEpoch m sl
      dstChip := BitVec.ofNat 16 dstChip, dstPart := BitVec.ofNat 5 dstPart, srcPart := BitVec.ofNat 5 part
      tag := BitVec.ofNat 16 tag, addr := addr, aux := aux }
    payload := payload }

/-- A packet of a module function, with SLICE 0xFFF. -/
def plainPkt (ty tc dstChip tag : Nat) (aux : W64) (payload : List Byte) : Pkt :=
  { hdr := { hdrZero with
      ty := BitVec.ofNat 8 ty, tc := BitVec.ofNat 2 tc, dstChip := BitVec.ofNat 16 dstChip, tag := BitVec.ofNat 16 tag, aux := aux }
    payload := payload }

/-- The reply to a request: sender and destination exchanged, TAG, ADDR and AUX [63:32] returned (R444). -/
def reply (k : Pkt) (ty : Nat) (auxLo : Nat) (payload : List Byte) (m : Module) : Module :=
  let h := k.hdr
  let h' : Hdr := { h with
    ty := BitVec.ofNat 8 ty, dstChip := h.srcChip, dstPart := h.srcPart, srcPart := h.dstPart,
    epoch := if h.slice = 0xFFF then h.epoch else curEpoch m h.slice.toNat,
    aux := BitVec.ofNat 64 (2 ^ 32 * fld h.aux 32 32 + auxLo) }
  inject 2 { hdr := h', payload := payload } m

/-- A refusal: an ACK, or a READ_RESP for the requests that it answers, with the reason (R442, R444). -/
def refuse (k : Pkt) (reason : Nat) (m : Module) : Module :=
  let ty := k.hdr.ty.toNat
  let ans := if ty = 3 ∨ (ty = 5 ∧ atomFetches (fld k.hdr.aux 0 4) = true) then 4 else 6
  reply k ans (reason * 256 + 1) [] m

/-- Whether a TYPE's requests are answered when refused (R444, R536). -/
def hasReply (ty : Nat) : Bool := ty = 1 || ty = 2 || ty = 3 || ty = 5 || ty = 0x18

/-- Takes the first accepted packet of a type. -/
def takeAccepted (ok : Pkt → Bool) (m : Module) : Option (Pkt × Module) :=
  match m.rte.accepted.find? ok with
  | none => none
  | some k => some (k, { m with rte := { m.rte with accepted := m.rte.accepted.erase k } })

def takeTy (ty : Nat) (m : Module) : Option (Pkt × Module) := takeAccepted (fun k => k.hdr.ty.toNat = ty) m

/-! ### Local delivery (R462) -/

/-- The half of a vector that an ARCADE packet names (R491). -/
def pktHalf (k : Pkt) : Nat := fld k.hdr.aux 31 1

/-- The Flight engine whose burst a tag names (R444). -/
def tagEngine (m : Module) (tag : Nat) : Option Nat :=
  (m.flt.find? (fun x => x.2.ops.any (fun o => o.bursts.any (fun b => b.tag = tag)))).map (·.1)

/-- The wing that holds the target of a packet: the memory it names, the Arcade of the half it names (R485, R491), the vote unit in
wing A (R499), or the engine that waits for it; none for a function of the always-on domain. -/
def targetWing (m : Module) (k : Pkt) : Option Nat :=
  let ty := k.hdr.ty.toNat
  if ty = 1 || ty = 2 || ty = 3 || ty = 5 then
    let t := gaTier k.hdr.addr
    let o := gaOff k.hdr.addr
    if t < 3 then some (o / (tierSize t / 2) % 2) else none
  else if ty = 4 || ty = 6 then (tagEngine m k.hdr.tag.toNat).map (· / 16)
  else if ty = 0x10 then some (pktHalf k)
  else if ty = 0x11 then some 0
  else none

/-- A request that this module refuses: the reply, and RX_REFUSED (R413). -/
def rxRefused (k : Pkt) (reason : Nat) (m : Module) : Module :=
  ev 0x0E 0x24 0xFFFF 2 31 0 (k.hdr.srcChip.setWidth 64) (refuse k reason m)

/-- A packet that R462 refuses: the reply of a type that has one, with RX_REFUSED for the requests on memory (R413, R444). -/
def refuse1 (k : Pkt) (m : Module) : Module :=
  let ty := k.hdr.ty.toNat
  if ty = 1 || ty = 2 || ty = 3 || ty = 5 then rxRefused k 1 m else if hasReply ty then refuse k 1 m else m

/-- Whether a MIRROR packet keeps its form (R23, R25, R536): a kind that is defined, and AUX [59:48] zero but for the mark of an RRESULT
(log entry 19). -/
def mirOk (k : Pkt) : Bool :=
  let kind := fld k.hdr.aux 60 4
  kind ≤ 8 && fld k.hdr.aux 49 11 = 0 && (kind = 7 || !bit k.hdr.aux 48)

/-- What R462 does with a packet, up to its type's own checks: the packet is accepted, refused or discarded. -/
def deliver (k : Pkt) (m : Module) : Module :=
  let h := k.hdr
  let sl := h.slice.toNat
  let ty := h.ty.toNat
  let accept (k : Pkt) (m : Module) : Module := { m with rte := { m.rte with accepted := m.rte.accepted ++ [k] } }
  if sl = 0xFFF then
    if ty = 0x28 || ty = 0x29 || ty = 0x2A || ty = 0x20 then accept k m else sliceReject h m
  else if (sliceIdx m sl).isSome && h.epoch != curEpoch m sl then
    let m := { m with rte := { m.rte with stale := m.rte.stale + 1 } }
    oncePerSlice 3 sl (ev 0x13 3 0xFFFF 1 31 0 (pack [(sl, 48), (h.epoch.toNat, 40), (h.srcChip.toNat, 0)])) m
  else if (sliceIdx m sl).isNone || !member m sl h.dstPart.toNat then refuse1 k (sliceReject h m)
  else
    let opened := if protectedPkt h then unprotect k m else some k
    match opened with
    | none =>
      let m := { m with sec := { m.sec with gcmFail := satAdd m.sec.gcmFail 1 } }
      oncePerSlice 0x106 sl (ev 0x1B 6 0xFFFF 3 31 0 (pack [(sl, 48), (h.srcChip.toNat, 0)])) m
    | some k =>
      let up := wingUp m (homeWing h.dstPart.toNat) && (match targetWing m k with
        | some w => wingUp m w
        | none => true)
      if up then (if ty = 0x18 && !mirOk k then refuse1 k m else accept k m) else { m with rte := { m.rte with nopart := m.rte.nopart + 1 } }

def execLocalDelivery (s : State) : Out :=
  match s.m.rte.local_ with
  | [] => stop "LOCAL_DELIVERY"
  | k :: r => done s (deliver k { s.m with rte := { s.m.rte with local_ := r } })

/-! ### Requests on this module's memory (R440 to R444) -/

/-- What refuses a data request on its range (R444): `wr` a write, `n` its length, `lenOk` its own checks of length and alignment. The
module's own SLOT_ID is as 0xF (R48). -/
def dataConds (k : Pkt) (n : Nat) (wr lenOk : Bool) (m : Module) : List (Nat × Bool) :=
  let a := k.hdr.addr
  let t := gaTier a
  let p := k.hdr.dstPart.toNat
  let fits : Bool := t < 3 && gaOff a + n ≤ tierSize t
  [(2, fits && n > 0 && !allowed m p t (gaOff a) n), (3, t = 3 || (wr && touchesGuarded m p t (gaOff a) n)),
   (4, !gaOk a || !gaHere m a || (t < 3 && !fits) || !lenOk)]

/-- The refusal reason of a data request, none when it is allowed: the lowest that holds (R444, R744). -/
def dataReason (k : Pkt) (n : Nat) (wr lenOk : Bool) (m : Module) : Option Nat := firstCode (dataConds k n wr lenOk m)

/-- The effect of a WRITE (R440). -/
def doWrite (k : Pkt) (m : Module) : Module :=
  let n := k.payload.length
  let o := gaOff k.hdr.addr
  let lenOk := n ≥ 1 && n ≤ 2048 && o / 2048 = (o + n - 1) / 2048 && fld k.hdr.aux 0 32 = 0
  match dataReason k n true lenOk m with
  | some r => rxRefused k r m
  | none => reply k 6 0 [] (memWrite k.via k.hdr.dstPart.toNat (gaTier k.hdr.addr) false o k.payload m)

/-- The effect of a NOTIFY (R441). -/
def doNotify (k : Pkt) (m : Module) : Module :=
  let o := gaOff k.hdr.addr
  let lenOk := k.payload.length = 8 && o % 8 = 0 && gaTier k.hdr.addr = 0 && fld k.hdr.aux 0 32 = 0
  match dataReason k 8 true lenOk m with
  | some r => rxRefused k r m
  | none => reply k 6 0 [] (memWrite k.via k.hdr.dstPart.toNat 0 false o k.payload m)

/-- The effect of a READ_REQ (R442). -/
def doReadReq (k : Pkt) (m : Module) : Module :=
  let n := fld k.hdr.aux 0 9
  let o := gaOff k.hdr.addr
  let lenOk := n ≥ 1 && n ≤ 256 && o / 256 = (o + n - 1) / 256 && k.payload.length = 0 && fld k.hdr.aux 9 23 = 0
  match dataReason k n false lenOk m with
  | some r => rxRefused k r m
  | none =>
    let x := memRead k.via k.hdr.dstPart.toNat (gaTier k.hdr.addr) false o n m
    reply k 4 0 x.1 x.2.2

/-- Applies a run of updates in payload order (R443): the old values and the module after. -/
def atomRun (w p tier op off : Nat) : Nat → List Byte → Module → List Byte × Module
  | 0, _, m => ([], m)
  | n + 1, bs, m =>
    let z := atomSize op
    let x := memAtomic w p tier op off (bs.take z) m
    let y := atomRun w p tier op (off + z) n (bs.drop z) x.2
    (x.1 ++ y.1, y.2)

/-- The refusal reason of an ATOMIC (R443, R444, R744). -/
def atomReason (k : Pkt) (m : Module) : Option Nat :=
  let z := atomSize (fld k.hdr.aux 0 4)
  let n := k.payload.length
  let o := gaOff k.hdr.addr
  let lenOk := n ≥ 1 && n ≤ 256 && o / 256 = (o + n - 1) / 256 && fld k.hdr.aux 4 28 = 0 && (z = 0 || (n % z = 0 && o % z = 0))
  firstCode (dataConds k n true lenOk m ++ [(5, z = 0 || gaTier k.hdr.addr = 0)])

/-- The effect of an ATOMIC (R443, R444). -/
def doAtomic (k : Pkt) (m : Module) : Module :=
  let op := fld k.hdr.aux 0 4
  match atomReason k m with
  | some r => rxRefused k r m
  | none =>
    let x := atomRun k.via k.hdr.dstPart.toNat (gaTier k.hdr.addr) op (gaOff k.hdr.addr) (k.payload.length / atomSize op) k.payload m
    if atomFetches op then reply k 4 0 x.1 x.2 else reply k 6 0 [] x.2

def execWrite (s : State) : Out :=
  match takeTy 1 s.m with
  | none => stop "WRITE"
  | some (k, m) => done s (doWrite k m)

def execNotify (s : State) : Out :=
  match takeTy 2 s.m with
  | none => stop "NOTIFY"
  | some (k, m) => done s (doNotify k m)

def execReadReq (errs : List MemErr) (s : State) : Out :=
  match takeTy 3 s.m with
  | none => stop "READ_REQ"
  | some (k, m) => done s (doReadReq k (memErrs k.hdr.dstPart.toNat errs m))

def execAtomic (errs : List MemErr) (s : State) : Out :=
  match takeTy 5 s.m with
  | none => stop "ATOMIC"
  | some (k, m) => done s (doAtomic k (memErrs k.hdr.dstPart.toNat errs m))

end Sys2Proof.Machine
end

