-- ==== Sys2Proof/Machine/Nut.lean ====
section
/-! DEFINITION. Fabric ports and routing tables (chapter 11): port states and lanes, flits received and sent, flow control,
arbitration, truncation, congestion maps, and table swaps. -/

namespace Sys2Proof.Machine

/-! ### Virtual channels and flow control (R447 to R452) -/

/-- A port's input virtual channel; TC1 and TC2 start with the larger thresholds (R452). -/
def vcOf (p : Port) (v : Nat) : VcSt := (nfind p.vcs v).getD (VcSt.init (v / 2 = 1 || v / 2 = 2))
def setVc (p : Port) (v : Nat) (x : VcSt) : Port := { p with vcs := nput p.vcs v x }

/-- The headroom H in KiB for a one-way delay in units of 10 ps (R450). -/
def headroom (delay : W32) : Nat := ceilDiv (4 * delay.toNat + 32768) 1024

def offSum (p : Port) : Nat := (List.range 8).foldl (fun a v => a + (vcOf p v).off) 0

/-- The XOFF bits of a port's input channels (R448). -/
def xoffVec (p : Port) : Byte :=
  (List.range 8).foldl (fun a v => if (vcOf p v).xoff then a ||| BitVec.ofNat 8 (2 ^ v) else a) 0

/-- Sets or clears the XOFF bit after the occupancy or a threshold changed (R448); `seen` notes that it was set in this beat (R470). -/
def xoffUpdate (v : VcSt) : VcSt :=
  let x := if v.occ ≥ v.off * 1024 then true else if v.occ ≤ v.on * 1024 then false else v.xoff
  { v with xoff := x, seen := v.seen || x }

/-- A measured delay that breaks the sum of thresholds clamps them all (R450). -/
def clampThr (k : Nat) (m : Module) : Module :=
  let p := m.port' k
  let s := offSum p
  let room := 512 - headroom p.delay
  if s > room then
    let p := (List.range 8).foldl (fun p v => let x := vcOf p v
      setVc p v (xoffUpdate { x with off := x.off * room / s, on := x.on * room / s })) p
    ev 0x12 7 k 2 31 0 (BitVec.ofNat 64 (offSum p)) (m.setPort k p)
  else m

def execNutFcThrWrite (p : Fin 16) (vc : Fin 8) (val : W64) (s : State) : Out :=
  let q := s.m.port' p
  let off := fld val 16 10
  let on := fld val 0 10
  let x := vcOf q vc
  let q' := setVc q vc (xoffUpdate { x with off := off, on := on })
  if on ≥ off ∨ offSum q' > 512 - headroom q.delay then
    done s (s.m.setPort p { q with cnt := { q.cnt with fcIgn := q.cnt.fcIgn + 1 } })
  else done s (s.m.setPort p q')

/-! ### Link-local flits (R434) -/

/-- Sends a link-local flit on a port's fibre, ahead of every other flit (R434, R453); its content is opaque. -/
def linkFlit (k kind : Nat) (a : W64) (b : Nat) (m : Module) : Module :=
  let p := m.port' k
  let m := m.setPort k { p with cnt := { p.cnt with tx := p.cnt.tx + 1 } }
  emit (.flit k (flitWithCrc { crc := 0, kind := 5, tc := 0, vcb := false, xoff := xoffVec p, rsv := 0, hdr := none,
                               content := slice (Config.linkContent kind a b) 0 256 })) m

/-- `n` link-local flits arrive and are consumed (R434): they count as flits received. -/
def recvLinks (k n : Nat) (m : Module) : Module :=
  let p := m.port' k
  m.setPort k { p with lastFlit := m.clk.elapsed, cnt := { p.cnt with rx := p.cnt.rx + BitVec.ofNat 64 n } }

/-- Sends what is not time over a link (R425, R428). -/
def sendLink (k : Nat) (msg : LinkMsg) (m : Module) : Module :=
  emit (.link k msg) (match msg with
    | .delay n => linkFlit k 1 (m.clk.time.setWidth 64) n m
    | .discovery dev port => linkFlit k 2 dev port m
    | .lanes good sp => linkFlit k 3 (good.setWidth 64) sp.toNat m)

/-- Sends a time packet: fabric time as the flit leaves (R108). -/
def sendTime (k : Nat) (m : Module) : Module :=
  emit (.timePacket k m.clk.time) (linkFlit k 0 (m.clk.time.setWidth 64) 0 m)

/-- Puts a number into a rising list. -/
def insNat (x : Nat) : List Nat → List Nat
  | [] => [x]
  | y :: r => if x < y then x :: y :: r else y :: insNat x r

/-- The median of measured round trips; of an even number, the mean of the middle two, rounded down (log entry 167). -/
def median (l : List Nat) : Nat :=
  let s := l.foldl (fun a x => insNat x a) []
  (s.getD ((s.length - 1) / 2) 0 + s.getD (s.length / 2) 0) / 2

/-- The one-way delay: half of the median round trip, less the far end's stated turnaround (R425). -/
def oneWay (trips : List W32) (turn : W32) : W32 := BitVec.ofNat 32 (median (trips.map (·.toNat)) / 2 - turn.toNat)

/-- The module's part of a delay measurement: 64 timestamped packets (R425). -/
def sendDelays (k : Nat) (m : Module) : Module := (List.range 64).foldl (fun m n => sendLink k (.delay n) m) m

/-! ### Port states (R422 to R430) -/

def portStCode (s : PortSt) : Nat :=
  match s with
  | .down => 0 | .training => 1 | .up => 2 | .narrow => 3 | .quarantined => 4 | .disabled => 5

def portDownEv (k : Nat) (old : PortSt) (m : Module) : Module :=
  ev 0x12 2 k 2 31 0 (BitVec.ofNat 64 (portStCode old)) m

/-- Packets routed to a port that no longer carries traffic are discarded whole and counted there (R471). -/
def dropRouted (k : Nat) (m : Module) : Module :=
  let n := (m.port' k).inj.length
  let m := m.setPort k { m.port' k with inj := [], owner := [] }
  let r := (List.range 16).foldl (fun (a : Nat × Module) i =>
    let q := a.2.port' i
    (List.range 8).foldl (fun (a : Nat × Module) v =>
      let q := a.2.port' i
      let x := vcOf q v
      let hit := x.pkts.filter (fun c => c.out = k)
      if hit.isEmpty then a
      else
        let freed := hit.foldl (fun b c => b + (c.flits.map flitSize).sum) 0
        let pk := (x.pkts.map (fun c => if c.out = k then { c with out := 17, flits := [] } else c)).filter
          (fun c => !(c.out ≥ 17 && c.ended))
        (a.1 + hit.length, a.2.setPort i (setVc q v (xoffUpdate { x with pkts := pk, occ := x.occ - freed })))) (a.1, (a.2.setPort i q))) (n, m)
  let p := r.2.port' k
  r.2.setPort k { p with cnt := { p.cnt with downDrop := satAdd p.cnt.downDrop r.1 } }

/-- A port goes DOWN (R422). -/
def portGoDown (k : Nat) (m : Module) : Module :=
  let p := m.port' k
  let m := dropRouted k (m.setPort k { p with st := .down, since := m.clk.elapsed, active := [], retraining := false })
  portDownEv k p.st m

def goodLanes (l : BitVec 9) : List Nat := bitsOf l
def goodData (l : BitVec 9) : List Nat := (bitsOf l).filter (· < 8)

/-- Received time packets wait for a new delay measurement when the port is the one time is taken from (R111). -/
def needRemeasure (k : Nat) (m : Module) : Module :=
  if m.beat.upEn && m.beat.upPort.toNat = k && !m.beat.remeasure.contains k then
    { m with beat := { m.beat with remeasure := k :: m.beat.remeasure } }
  else m

/-- What an input channel keeps when its buffer is discarded: the packets of which an output has sent the head and not the tail, whose
tails now never come (R454, R468). -/
def cutPkts (m : Module) (l : List InPkt) : List InPkt :=
  (l.filter (fun c => decide (c.out < 16) && decide (0 < c.sent) && !(c.ended && c.flits.isEmpty && !c.mark))).map (fun c =>
    { c with flits := [], ended := false, mark := false, lastAt := m.clk.elapsed })

/-- The packets that lose flits when a port's buffers are discarded (R422): those with flits buffered or gathered, and those that wait for
injection. -/
def heldPkts (q : Port) : Nat :=
  ((List.range 8).map (fun v => ((vcOf q v).pkts.filter (fun c => !c.flits.isEmpty || decide (c.out = 16))).length)).sum + q.inj.length

/-- ENABLE cleared (R422). -/
def portDisable (k : Nat) (m : Module) : Module :=
  let q := m.port' k
  dropRouted k (m.setPort k { q with
    enable := false
    st := .disabled
    active := []
    inj := []
    owner := []
    retraining := false
    vcs := q.vcs.map (fun x => (x.1, xoffUpdate { x.2 with pkts := cutPkts m x.2.pkts, occ := 0 }))
    cnt := { q.cnt with downDrop := satAdd q.cnt.downDrop (heldPkts q) } })

def execPortDisable (p : Fin 16) (s : State) : Out := done s (portDisable p.val s.m)

def execPortEnable (p : Fin 16) (s : State) : Out :=
  let q := s.m.port' p
  if q.st = .disabled then done s (s.m.setPort p { q with enable := true, st := .down, since := s.m.clk.elapsed })
  else done s (s.m.setPort p { q with enable := true })

/-- The lanes that a port at full width uses, and the data lane that its spare replaces (R422, R426). -/
def fullLanes (l : BitVec 9) : List Nat × Nat :=
  match (List.range 8).filter (fun i => !bit l i) with
  | [] => (List.range 8, 15)
  | b :: _ => ((List.range 9).filter (· != b), b)

/-- A port that may carry traffic takes its lanes: UP on eight, NARROW on four to seven at version 2 or 3, else DOWN (R422, R427). -/
def takeLanes (q : Port) : Port :=
  let n := (goodLanes q.lanes).length
  let full := fullLanes q.lanes
  if n ≥ 8 then { q with st := .up, active := full.1, spareFor := BitVec.ofNat 4 full.2 }
  else if n ≥ 4 && q.ver.toNat ≥ 2 then { q with st := .narrow, active := (goodLanes q.lanes).take 4, spareFor := 15 }
  else { q with st := .down, active := [], spareFor := 15 }

/-- RELEASE (R422): by the lanes that still hold lock. -/
def release (k : Nat) (m : Module) : Module :=
  let q := m.port' k
  if q.st = .quarantined then
    let r := takeLanes { q with lastFlit := m.clk.elapsed, since := m.clk.elapsed }
    let m := m.setPort k r
    if r.st = .down then portDownEv k .quarantined m else m
  else m

def execRelease (p : Fin 16) (s : State) : Out := done s (release p.val s.m)

def execLaneLock (p : Fin 16) (lanes : BitVec 9) (s : State) : Out :=
  let q := s.m.port' p
  if q.st = .down ∧ q.enable = true then
    if (goodLanes lanes).length ≥ 4 then
      done s (s.m.setPort p { q with st := .training, lanes := lanes, since := s.m.clk.elapsed })
    else done s (s.m.setPort p { q with lanes := lanes })
  else stop "LANE_LOCK"

/-- The version that both ends run (R423, R475). -/
def pickVer (mine far : BitVec 2) : BitVec 2 :=
  let a : BitVec 2 := if mine = 0 then 1 else mine
  let b : BitVec 2 := if far = 0 then 1 else far
  if a.toNat ≤ b.toNat then a else b

/-- The eye margins of a training enter the lifetime log (R611); the spec gives no value for them: free. -/
def marginRec (kind unit : Nat) (m : Module) : Module :=
  let (v, m) := freeVal m
  { m with hlt := { m.hlt with margins := m.hlt.margins ++
    [[BitVec.ofNat 8 kind, BitVec.ofNat 8 unit] ++ natLe 6 (beatNow m).toNat ++ natLe 8 v.toNat ++ List.replicate 48 0] } }

/-- The other ports that carry the same neighbour ID (R429); the record of a port that is not up is of no neighbour. -/
def twins (m : Module) (p : Nat) (dev : W64) (port : BitVec 4) : List Nat :=
  (List.range 16).filter (fun k =>
    let q := m.port' k
    k != p && (portUp q || q.st = .quarantined) && q.nbrDev = dev && q.nbrPort = port)

/-- A port that carries the same neighbour ID as `p` enters QUARANTINED (R429). -/
def quarantineTwin (p k : Nat) (m : Module) : Module :=
  let o := m.port' k
  if o.st = .quarantined then m
  else ev 0x12 5 k 2 31 0 (BitVec.ofNat 64 p) (dropRouted k (m.setPort k { o with st := .quarantined, retraining := false }))

/-- The outcome of a bring-up whose steps are done (R422, R429). -/
def bringUpEnd (p : Nat) (q : Port) (m : Module) : Module :=
  let dups := twins m p q.nbrDev q.nbrPort
  let own : Bool := q.nbrDev = m.fused.devId
  let up := takeLanes q
  if own || !dups.isEmpty then
    let m := clampThr p (m.setPort p { up with st := .quarantined })
    dups.foldl (fun m k => quarantineTwin p k m) (ev 0x12 5 p 2 31 0 (if own then 15 else BitVec.ofNat 64 (dups.headD 0)) m)
  else
    let m := m.setPort p up
    match up.st with
    | .up => clampThr p (ev 0x12 1 p 0 31 0 (pack [(8, 8), (q.ver.toNat, 0)]) m)
    | .narrow => clampThr p (evS 1 0x12 4 p 2 31 0 (q.lanes.setWidth 64) (ev 0x12 1 p 0 31 0 (pack [(4, 8), (q.ver.toNat, 0)]) m))
    | _ => portDownEv p .training m

def eqDue (m : Module) : BitVec 16 :=
  (List.range 16).foldl (fun a p => if (m.port' p).eqLight then a ||| BitVec.ofNat 16 (2 ^ p) else a) 0

/-- CAL_DUE clears when no point in use is LIGHT and no port is due (R645). -/
def calDueUpdate (m : Module) : Module :=
  let light := match nfind m.pwr.cal m.pwr.op with
    | some x => x.2.2
    | none => false
  if !light && eqDue m = 0 then { m with pwr := { m.pwr with calDue := false } } else m

/-- A port's delay has been measured again: its time packets count once more (R111). -/
def remeasured (k : Nat) (m : Module) : Module :=
  { m with beat := { m.beat with remeasure := m.beat.remeasure.filter (· != k) } }

/-- Bring-up (R423): the lanes, the version, the delay measured, both identities exchanged, and every channel on. -/
def execBringUpComplete (p : Fin 16) (lanes : BitVec 9) (farVer : BitVec 2) (trips : List W32) (turn : W32) (nbrDev : W64)
    (nbrPort : BitVec 4) (s : State) : Out :=
  if trips.length ≠ 64 then ill
  else if (s.m.port' p).st = .training ∧ (goodLanes lanes).length ≥ 4 then
    let m := recvLinks p (trips.length + 2) s.m
    let m := sendLink p (.discovery m.fused.devId p) (sendDelays p (sendLink p (.lanes lanes 15) m))
    let q := m.port' p
    let q := { q with
      lanes := lanes, ver := pickVer q.verMax farVer, delay := oneWay trips turn, nbrDev := nbrDev, nbrPort := nbrPort, nbrKnown := true
      farXoff := 0, vcs := q.vcs.map (fun x => (x.1, { x.2 with xoff := false }))
      eqLight := decide (m.pwr.loadBand ≤ 1), lastFlit := m.clk.elapsed, since := m.clk.elapsed }
    done s (calDueUpdate (bringUpEnd p q (marginRec 1 p (remeasured p m))))
  else stop "BRING_UP_COMPLETE"

def execBringUpTimeout (p : Fin 16) (s : State) : Out :=
  let q := s.m.port' p
  if q.st = .training then
    let m := passTo (q.since + 10000000) s.m
    done s (m.setPort p { q with st := .down, since := m.clk.elapsed })
  else stop "BRING_UP_TIMEOUT"

def execBringUpRetry (p : Fin 16) (s : State) : Out :=
  let q := s.m.port' p
  if q.st = .down ∧ q.enable = true then
    let m := passTo (q.since + 100000000) s.m
    done s (m.setPort p { q with since := m.clk.elapsed })
  else stop "BRING_UP_RETRY"

/-- The port narrows to its four lowest good lanes, or goes DOWN (R422, R427). -/
def narrowPort (k : Nat) (m : Module) : Module :=
  let q := m.port' k
  let g := goodLanes q.lanes
  if q.ver.toNat ≥ 2 && g.length ≥ 4 then
    let m := needRemeasure k (sendLink k (.lanes q.lanes 15) <| m.setPort k { q with st := .narrow, active := g.take 4, spareFor := 15, retraining := false })
    evS 1 0x12 4 k 2 31 0 (q.lanes.setWidth 64) m
  else portGoDown k m

def execLaneLoss (p : Fin 16) (lane : Fin 9) (s : State) : Out :=
  let q := s.m.port' p
  if bit q.lanes lane then
    let q := { q with
      lanes := q.lanes &&& ~~~(BitVec.ofNat 9 (2 ^ lane.val)), cnt := { q.cnt with laneLoss := q.cnt.laneLoss + 1 } }
    let m := s.m.setPort p q
    if q.st = .up then
      if !q.active.contains lane.val then done s m
      else if lane.val < 8 && bit q.lanes 8 && q.spareFor = 15 then
        let act := (q.active.filter (· != lane.val)) ++ [8]
        let m := needRemeasure p (sendLink p (.lanes q.lanes (BitVec.ofNat 4 lane.val)) <| m.setPort p { q with
          spareFor := BitVec.ofNat 4 lane.val, active := act, retraining := false })
        done s (evS 0 0x12 3 p 3 31 0 (BitVec.ofNat 64 lane.val) m)
      else done s (narrowPort p m)
    else if q.st = .narrow then
      if !q.active.contains lane.val then done s m
      else
        match (goodLanes q.lanes).filter (fun l => !q.active.contains l) with
        | l :: _ =>
          done s (needRemeasure p (sendLink p (.lanes q.lanes 15) <| m.setPort p { q with active := (q.active.filter (· != lane.val)) ++ [l] }))
        | [] => done s (portGoDown p m)
    else done s m
  else stop "LANE_LOSS"

def execLightLoss (p : Fin 16) (s : State) : Out :=
  let q := s.m.port' p
  if portUp q then done s (portGoDown p (s.m.setPort p { q with lanes := 0 })) else done s (s.m.setPort p { q with lanes := 0 })

def execNoFlitTimeout (p : Fin 16) (s : State) : Out :=
  let q := s.m.port' p
  if portUp q then done s (portGoDown p (passTo (q.lastFlit + 10000) s.m)) else stop "NO_FLIT_TIMEOUT"

def execRetrainDone (p : Fin 16) (s : State) : Out :=
  let q := s.m.port' p
  if q.st = .up ∧ q.retraining = true then
    let m := s.m.setPort p { q with retraining := false, eqLight := decide (s.m.pwr.loadBand ≤ 1) }
    done s (calDueUpdate (needRemeasure p (ev 0x12 9 p 0 31 0 9 (marginRec 1 p m))))
  else stop "RETRAIN_DONE"

/-- Why a port is skipped by a RETRAIN alarm (R430, R472, R744): the lowest that holds. -/
def retrainSkip (q : Port) : Option Nat :=
  firstCode [(0, q.ver != 3), (1, q.spareFor != 15 || !bit q.lanes 8 || q.retraining), (2, q.st != .up)]

/-- The data lane whose share the spare carries (R474): while a port retrains its lanes one at a time, that of the lane in turn (R430; log
entry 167). -/
def spareNow (m : Module) (q : Port) : BitVec 4 :=
  if q.retraining then
    let l := Config.retrainLane q.retrainAt m.clk.elapsed % 9
    if l = 8 then 15 else BitVec.ofNat 4 l
  else q.spareFor

/-- The RETRAIN alarm (R430): the spare first, then each data lane in turn, until RETRAIN_DONE; ports that cannot retrain are skipped. -/
def retrainAlarm (mask : W64) (m : Module) : Module :=
  (List.range 16).foldl (fun m k =>
    if bit mask k then
      let q := m.port' k
      match retrainSkip q with
      | some c => ev 0x12 8 k 1 31 0 (BitVec.ofNat 64 c) m
      | none => sendLink k (.lanes q.lanes 15) (m.setPort k { q with retraining := true, retrainAt := m.clk.elapsed })
    else m) m

/-- A delay is measured again, by link-local packets among the traffic (R111, R425). -/
def execDelayRemeasure (port : Fin 16) (trips : List W32) (turn : W32) (s : State) : Out :=
  if trips.length ≠ 64 then ill
  else if portUp (s.m.port' port) ∨ s.m.beat.remeasure.contains port.val = true then
    let m := sendDelays port (recvLinks port trips.length s.m)
    let m := m.setPort port { m.port' port with delay := oneWay trips turn }
    done s (clampThr port (remeasured port m))
  else stop "DELAY_REMEASURE"

/-! ### Flits received (R433, R437 to R439, R451, R469) -/

def cntUpd (k : Nat) (f : PortCnt → PortCnt) (m : Module) : Module :=
  let p := m.port' k
  m.setPort k { p with cnt := f p.cnt }

/-- A packet that ends at this module (R439, R462): checked for its length and handed to local delivery. -/
def endLocal (k : Nat) (c : InPkt) (m : Module) : Module :=
  if c.truncated then m
  else if c.got != flitCount c.hdr.len.toNat then cntUpd k (fun x => { x with lenBad := satAdd x.lenBad 1 }) m
  else
    { m with rte := { m.rte with local_ := m.rte.local_ ++ [{ hdr := c.hdr, payload := c.content.take c.hdr.len.toNat, via := portWing k }] } }

/-- Puts a packet record back; packets for this module or for discard leave when they end. -/
def settle (k v : Nat) (c : InPkt) (rest : List InPkt) (m : Module) : Module :=
  let p := m.port' k
  let x := vcOf p v
  if c.out ≥ 16 && c.ended then
    let m := m.setPort k (setVc p v { x with pkts := rest })
    if c.out = 16 then endLocal k c m else m
  else m.setPort k (setVc p v { x with pkts := rest ++ [c] })

/-- Where a head goes (R460, R471): the output, its virtual channel and the module with what was counted. -/
def headRoute (k : Nat) (h : Hdr) (vcb : Bool) (m : Module) : Nat × Nat × Module :=
  let sl := h.slice.toNat
  match routeOf m.rte.active sl h.dstChip.toNat with
  | none => (17, 0, noRoute sl h.dstChip.toNat m)
  | some e =>
    let ov := 2 * h.tc.toNat + b2n (e.dl || vcb)
    if e.out = 16 then (16, ov, m)
    else if e.out ≥ 17 then (17, ov, { m with rte := { m.rte with noRoute := m.rte.noRoute + 1 } })
    else if e.out = k then (17, ov, noRoute sl h.dstChip.toNat m)
    else if portUp (m.port' e.out) then (e.out, ov, m)
    else (17, ov, cntUpd e.out (fun x => { x with downDrop := satAdd x.downDrop 1 }) m)

/-- A flit of a packet that waits in the buffer to be forwarded. -/
def addOcc (k v n : Nat) (m : Module) : Module :=
  let p := m.port' k
  let x := vcOf p v
  m.setPort k (setVc p v (xoffUpdate { x with occ := x.occ + n }))

/-- A head or single flit (R437, R447, R460). -/
def recvHead (k v : Nat) (f : Flit) (h : Hdr) (m : Module) : Module :=
  let bad := hdrBad h f.tc
  let m := if bad then cntUpd k (fun x => { x with hdrBad := satAdd x.hdrBad 1 }) m else m
  let (out, ov, m) := if bad then (18, 0, m) else headRoute k h f.vcb m
  let c : InPkt := { hdr := h, out := out, outVc := ov, flits := if out < 16 then [f] else [], got := 1, sent := 0,
                     content := if out = 16 then slice f.content 0 256 else [], ended := f.kind = 4, truncated := false, mark := false,
                     lastAt := m.clk.elapsed }
  let m := settle k v c (vcOf (m.port' k) v).pkts m
  if out < 16 then addOcc k v (flitSize f) m else m

/-- A body flit, a tail or a truncation mark (R468, R469). -/
def recvMore (k v : Nat) (f : Flit) (m : Module) : Module :=
  let x := vcOf (m.port' k) v
  match x.pkts.getLast? with
  | none => cntUpd k (fun c => { c with orphan := satAdd c.orphan 1 }) m
  | some c =>
    if c.ended then cntUpd k (fun c => { c with orphan := satAdd c.orphan 1 }) m
    else
      let c := { c with
        flits := if c.out < 16 then c.flits ++ [f] else []
        got := if f.kind = 6 then c.got else c.got + 1
        content := if c.out = 16 && f.kind != 6 then c.content ++ slice f.content 0 256 else c.content
        ended := f.kind = 3 || f.kind = 6
        truncated := f.kind = 6
        lastAt := m.clk.elapsed }
      let m := settle k v c x.pkts.dropLast m
      if c.out < 16 then addOcc k v (flitSize f) m else m

def bufferUsed (p : Port) : Nat := ((List.range 8).map (fun v => (vcOf p v).occ)).sum

def receiveFlit (k : Nat) (f : Flit) (m : Module) : Module :=
  let m := cntUpd k (fun x => { x with rx := x.rx + 1 }) m
  if !flitCrcOk f then cntUpd k (fun x => { x with crc := satAdd x.crc 1 }) m
  else
    let p := m.port' k
    let m := m.setPort k { p with farXoff := f.xoff, lastFlit := m.clk.elapsed }
    let kind := f.kind.toNat
    if kind = 0 || kind = 5 || kind = 7 || !portUp p then m
    else if bufferUsed p + flitSize f > 524288 then cntUpd k (fun x => { x with overrun := satAdd x.overrun 1 }) m
    else
      let v := 2 * f.tc.toNat + b2n f.vcb
      match kind, f.hdr with
      | 1, some h => recvHead k v f h m
      | 4, some h => recvHead k v f h m
      | 1, none => m
      | 4, none => m
      | _, _ => recvMore k v f m

/-- A flit arrives (R433); head flits carry a header and no others do (R431). A port with its light off receives none. -/
def execFlitReceive (p : Fin 16) (f : Flit) (s : State) : Out :=
  if f.hdr.isSome ≠ (f.kind = 1 ∨ f.kind = 4) ∨ f.content.length > 256 then ill
  else if (s.m.port' p).st = .disabled ∨ (s.m.port' p).st = .down then stop "FLIT_RECEIVE"
  else done s (receiveFlit p f s.m)

/-! ### Truncation and congestion maps (R468, R470) -/

/-- The first packet of an input channel that has not ended and has no flit in the buffer (R468). -/
def stalledPkt (x : VcSt) : Option InPkt := x.pkts.find? (fun c => !c.ended && c.flits.isEmpty)

def truncMark (tc : BitVec 2) (vcb : Bool) : Flit :=
  { crc := 0, kind := 6, tc := tc, vcb := vcb, xoff := 0, rsv := 0, hdr := none, content := [] }

/-- The flit that a packet sends next: its first in the buffer, or the truncation mark in place of its tail. -/
def nextFlit (c : InPkt) : Option Flit :=
  match c.flits with
  | f :: _ => some f
  | [] => if c.mark then some (truncMark c.hdr.tc (c.outVc % 2 = 1)) else none

/-- A packet whose tail never came is truncated (R468); a packet for this module or for discard ends at once. -/
def truncate (c : InPkt) : InPkt := { c with ended := true, truncated := true, mark := decide (c.out < 16) }

def execTailTimeout (p : Fin 16) (vc : Fin 8) (s : State) : Out :=
  let q := s.m.port' p
  match stalledPkt (vcOf q vc) with
  | none => stop "TAIL_TIMEOUT"
  | some c =>
    let m := passTo (c.lastAt + (max 1 q.tailTmo.toNat) * 1000) s.m
    let q := m.port' p
    let x := vcOf q vc
    let pk := (x.pkts.map (fun d => if d = c then truncate c else d)).filter (fun d => !(d.out ≥ 16 && d.ended))
    let m := m.setPort p (setVc q vc { x with pkts := pk })
    let m := cntUpd p (fun y => { y with trunc := satAdd y.trunc 1 }) m
    done s (ev 0x12 6 p 2 31 0 (pack [(c.hdr.srcChip.toNat, 32), (vc.val, 0)]) m)

def bump (l : List Nat) (i : Nat) : List Nat := l.set i (l.getD i 0 + 1)

/-- Every input channel of every port. -/
def allVcs (f : VcSt → VcSt) (m : Module) : Module :=
  (List.range 16).foldl (fun m k =>
    m.setPort k ((List.range 8).foldl (fun p v => setVc p v (f (vcOf p v))) (m.port' k))) m

/-- The sample of the occupancy at the start of a beat (R470). -/
def sampleVc (v : VcSt) : VcSt :=
  { v with hist := bump v.hist (if v.off = 0 then 7 else min 7 (8 * v.occ / (v.off * 1024))) }

/-- A beat in which XOFF was set is counted once, as it ends (R470). -/
def countXoff (v : VcSt) : VcSt := { v with histX := if v.seen then v.histX + 1 else v.histX, seen := v.xoff }

/-- The beat before `b` ends. -/
def beatXoff (b : Beat) (m : Module) : Module :=
  if m.beat.xoffAt = some b then m else allVcs countXoff { m with beat := { m.beat with xoffAt := some b } }

/-- A window's histograms and counts become the last set, and the current set restarts. -/
def rollVc (v : VcSt) : VcSt := { v with last := v.hist, lastX := v.histX, hist := [0, 0, 0, 0, 0, 0, 0, 0], histX := 0 }

/-- Window `k` ends (R470). -/
def closeWindow (k : Nat) (m : Module) : Module :=
  let m := allVcs rollVc { m with beat := { m.beat with cmapAt := some k } }
  (List.range 16).foldl (fun m i => m.setPort i { m.port' i with cmapWin := BitVec.ofNat 48 k }) m

/-- The sample of beat `b`, which falls into the window of that beat: where it is a window's first, the window before it ends. -/
def sampleBeat (b : Beat) (m : Module) : Module :=
  let k := b.toNat / 1024 - 1
  let close := b.toNat % 1024 = 0 && b.toNat != 0 && m.beat.cmapAt != some k
  let m := allVcs sampleVc (if close then closeWindow k m else m)
  { m with beat := { m.beat with sampleAt := some b, cmapBy := close || m.beat.cmapBy } }

/-- The start of a beat (R470): the beat before it ends, and then its sample is taken. -/
def execCmapSample (s : State) : Out :=
  let b := nextMultiple 1 s.m.beat.sampleAt s.m
  done s (sampleBeat b (beatXoff b (passToBeat b s.m)))

/-- The window that ends next: the one that ends at this instant, unless it has ended, or the one under way. -/
def nextWindow (m : Module) : Nat :=
  let now := (beatNow m).toNat
  if now % 1024 = 0 && now != 0 && m.beat.cmapAt != some (now / 1024 - 1) then now / 1024 - 1 else now / 1024

/-- The end of a 1,024-beat window (R470); one that the sample of the next beat has already closed ends no second time. -/
def execCmapWindowEnd (s : State) : Out :=
  if s.m.beat.cmapBy then done s { s.m with beat := { s.m.beat with cmapBy := false } }
  else
    let k := nextWindow s.m
    let b : Beat := BitVec.ofNat 48 ((k + 1) * 1024)
    done s (closeWindow k (beatXoff b (passToBeat b s.m)))

def execNutCntClr (p : Fin 16) (s : State) : Out :=
  let q := s.m.port' p
  done s (s.m.setPort p { q with cnt := PortCnt.init })

/-! ### Flits sent (R453 to R456) -/

/-- The packet at the head of an input channel that waits for an output: the first not for this module or discard. -/
def headPkt (x : VcSt) : Option InPkt := x.pkts.find? (fun c => c.out < 16)

/-- What input port `src` offers on output `k`, channel `v`: its input channel and the flit; `going` the packet under way there, else a
head that waits (R454). -/
def inputOffer (m : Module) (k v src : Nat) (going : Bool) : Option (Nat × Flit) :=
  ((List.range 8).filterMap (fun iv =>
    match headPkt (vcOf (m.port' src) iv) with
    | some c => if c.out = k && c.outVc = v && decide (0 < c.sent) = going then (nextFlit c).map (fun f => (iv, f)) else none
    | none => none)).head?

/-- The weight of a partition at local injection (R455); the module's own functions have what no partition's weight takes (log entry
42). -/
def vcWeight (m : Module) (part tc : Nat) : Nat :=
  let w (p : Nat) : Nat := fld (prec m p).vcw (8 * tc) 8
  if part < 16 then w part else 256 - (((List.range 16).filter (enabled m)).map w).sum

def creditKey (q tc : Nat) : Nat := q * 4 + tc

/-- What a partition's credit gains in a round: its weight in flits; the least weight of those that none other precedes is one. -/
def roundCredit (m : Module) (tc q : Nat) : Nat := max 1 (vcWeight m q tc) * 264

/-- The credits once as many rounds have passed as give one of the sources credit: what a source took beyond its credit is owed
(R455). -/
def refill (m : Module) (tc : Nat) (pool : List Nat) (cr : NMap Int) : NMap Int :=
  if pool.any (fun q => decide (0 < nget 0 cr (creditKey q tc))) then cr
  else
    let need (q : Nat) : Nat := (-(nget 0 cr (creditKey q tc))).toNat / roundCredit m tc q + 1
    let r := pool.foldl (fun a q => min a (need q)) (need (pool.headD 0))
    pool.foldl (fun c q => nset 0 c (creditKey q tc) (nget 0 c (creditKey q tc) + (r * roundCredit m tc q : Nat))) cr

/-- The local packet that injection grants next on a channel (R455): the position in the list of waiting packets, and
the credits after. A partition of weight zero is served only when no other is ready. -/
def pickInj (m : Module) (k v : Nat) : Option (Nat × Inj × NMap Int) :=
  let p := m.port' k
  let tc := v / 2
  let ready := (List.range 32).filter (fun q => p.inj.any (fun x => x.vc = v && x.part = q))
  let heavy := ready.filter (fun q => vcWeight m q tc > 0)
  let pool := if heavy.isEmpty then ready else heavy
  let cr := refill m tc pool p.credit
  match pool.find? (fun q => decide (0 < nget 0 cr (creditKey q tc))) with
  | none => none
  | some q =>
    match findIdx? (fun (x : Inj) => x.vc = v && x.part = q) p.inj 0 with
    | none => none
    | some i => p.inj[i]?.map (fun x => (i, x, cr))

/-- The local packet under way on a channel, whose head has been sent: the source does not stall within it (R438, R454). -/
def goingInj (m : Module) (k v : Nat) : Option (Nat × Inj × NMap Int) :=
  let p := m.port' k
  match findIdx? (fun (x : Inj) => x.vc = v && (match x.flits with
      | f :: _ => f.hdr.isNone
      | [] => false)) p.inj 0 with
  | none => none
  | some i => p.inj[i]?.map (fun x => (i, x, p.credit))

/-- The bucket of TC0 injection now: refilled by one limit in each beat, one limit deep (R456). -/
def bucketNow (m : Module) (k : Nat) : Nat :=
  let p := m.port' k
  let lim := max 296 p.tc0Limit.toNat
  min lim (p.bucket + (m.clk.elapsed / 1024 - p.bucketBeat) * lim)

def injSize (x : Inj) : Nat := (x.flits.map flitSize).sum

/-- A grant on an output channel: the source that holds it, or the next in turn whose head waits (R454). -/
inductive Grant where
  | input (src iv : Nat)
  | inj (i : Nat) (x : Inj) (cr : NMap Int)

def Grant.src (g : Grant) : Nat :=
  match g with
  | .input i _ => i
  | .inj _ _ _ => 16

/-- Whether a head of a channel waits for the TC0 limit (R456). -/
def overLimit (m : Module) (k v : Nat) (x : Inj) : Bool :=
  decide (v < 2) && (match x.flits with
    | f :: _ => f.hdr.isSome
    | [] => false) && decide (bucketNow m k < injSize x)

/-- The flit that local injection would send on a channel, the packet under way or the next. -/
def injOffer (m : Module) (k v : Nat) (going : Bool) : Option (Flit × Grant) :=
  match (if going then goingInj m k v else pickInj m k v) with
  | none => none
  | some (i, x, cr) => if overLimit m k v x then none else x.flits.head?.map (fun f => (f, .inj i x cr))

/-- What an output channel would send now: nothing, or a flit with its grant (R449, R453 to R456). -/
def eligible (m : Module) (k v : Nat) : Option (Flit × Grant) :=
  let p := m.port' k
  if bit p.farXoff v then none
  else
    match nfind p.owner v with
    | some 16 => injOffer m k v true
    | some src => (inputOffer m k v src true).map (fun x => (x.2, .input src x.1))
    | none =>
      let last := nget 16 p.rrIn v
      (List.range 17).foldl (fun a i =>
        match a with
        | some _ => a
        | none =>
          let src := (last + 1 + i) % 17
          if src = 16 then injOffer m k v false
          else (inputOffer m k v src false).map (fun x => (x.2, .input src x.1))) none

/-- Whether a TC0 packet of this module waits for the limit in this slot, whatever is sent in it (R456). -/
def shapedWaits (m : Module) (k : Nat) : Bool :=
  [0, 1].any (fun v => !bit (m.port' k).farXoff v && (match pickInj m k v with
    | some (_, x, _) => overLimit m k v x
    | none => false))

/-- An input channel after its first packet's next flit has been sent; when the buffer holds none of the packet's flits, its tail is timed
from now on (R468). -/
def sentVc (now : Nat) (x : VcSt) : VcSt :=
  match headPkt x with
  | none => x
  | some c =>
    let size := match c.flits with
      | f :: _ => flitSize f
      | [] => 0
    let c' := { c with
      flits := c.flits.tail, sent := c.sent + 1, mark := if c.flits.isEmpty then false else c.mark
      lastAt := if c.flits.tail.isEmpty then now else c.lastAt }
    let gone := c'.ended && c'.flits.isEmpty && !c'.mark
    xoffUpdate { x with pkts := if gone then x.pkts.erase c else x.pkts.map (fun d => if d = c then c' else d), occ := x.occ - size }

/-- Removes the flit that is sent from its source. -/
def takeFlit (k v : Nat) (g : Grant) (m : Module) : Module :=
  match g with
  | .inj i x cr =>
    let p := m.port' k
    let size : Nat := match x.flits with
      | f :: _ => flitSize f
      | [] => 0
    let key := creditKey x.part (v / 2)
    m.setPort k { p with
      inj := if x.flits.tail.isEmpty then p.inj.eraseIdx i else p.inj.set i { x with flits := x.flits.tail }
      credit := nset 0 cr key (nget 0 cr key - (size : Int))
      bucket := if v < 2 then bucketNow m k - size else p.bucket
      bucketBeat := if v < 2 then m.clk.elapsed / 1024 else p.bucketBeat }
  | .input src iv =>
    let q := m.port' src
    m.setPort src (setVc q iv (sentVc m.clk.elapsed (vcOf q iv)))

/-- The quantum of a class in deficit round robin: weight × 256 bytes (R453, R473). -/
def quantum (p : Port) (tc : Nat) : Nat := max 1 (fld p.tcWgt (8 * (tc - 1)) 8) * 256

/-- The channel that a class offers: VC1 before VC0. -/
def classOffer (m : Module) (k tc : Nat) : Option (Nat × Flit × Grant) :=
  match eligible m k (2 * tc + 1) with
  | some (f, g) => some (2 * tc + 1, f, g)
  | none => (eligible m k (2 * tc)).map (fun x => (2 * tc, x.1, x.2))

/-- Deficit round robin over TC1 to TC3 (R453): the channel served, with the deficits and the turn after. -/
def drr (m : Module) (k : Nat) (size : Nat → Option Nat) : Nat → List Nat → Nat → Option (Nat × List Nat × Nat)
  | 0, _, _ => none
  | n + 1, d, t =>
    let adv (d : List Nat) : Option (Nat × List Nat × Nat) :=
      let t' := (t + 1) % 3
      drr m k size n (d.set t' (d.getD t' 0 + quantum (m.port' k) (t' + 1))) t'
    match size (t + 1) with
    | none => adv (d.set t 0)
    | some z => if z ≤ d.getD t 0 then some (t + 1, d.set t (d.getD t 0 - z), t) else adv d

/-- Puts a flit on a port's fibre: the XOFF vector is the port's own, and reserved bits are zero (R21, R432). -/
def putFlit (k : Nat) (f : Flit) (m : Module) : Module :=
  emit (.flit k (flitWithCrc { f with xoff := xoffVec (m.port' k), rsv := 0 })) (cntUpd k (fun x => { x with tx := x.tx + 1 }) m)

/-- What a port sends in a slot: TC0 first, then the other classes, with the deficits and the turn after (R453). -/
def slotChoice (m : Module) (k : Nat) : Option (Nat × Flit × Grant × List Nat × Nat) :=
  let p := m.port' k
  match classOffer m k 0 with
  | some (v, f, g) => some (v, f, g, p.deficit, p.turn)
  | none =>
    match drr m k (fun tc => (classOffer m k tc).map (fun x => flitSize x.2.1)) 24 p.deficit p.turn with
    | none => none
    | some (tc, d, t) => (classOffer m k tc).map (fun x => (x.1, x.2.1, x.2.2, d, t))

/-- A flit slot of a port: the chosen flit, else an idle flit. Link-local flits go as they arise, ahead of every other (R434, R453). -/
def sendFlit (k : Nat) (m : Module) : Module :=
  let m := if shapedWaits m k then cntUpd k (fun x => { x with tc0Shaped := x.tc0Shaped + 1 }) m else m
  match slotChoice m k with
  | none => putFlit k { crc := 0, kind := 0, tc := 0, vcb := false, xoff := 0, rsv := 0, hdr := none, content := [] } m
  | some (v, f, g, d, t) =>
    let ends := f.kind = 3 || f.kind = 4 || f.kind = 6
    let m := takeFlit k v g m
    let p := m.port' k
    let own := if ends then p.owner.filter (fun x => x.1 != v) else nput p.owner v g.src
    let m := m.setPort k { p with owner := own, rrIn := nset 16 p.rrIn v g.src, deficit := d, turn := t }
    putFlit k { f with tc := BitVec.ofNat 2 (v / 2), vcb := v % 2 = 1 } m

def execFlitSend (p : Fin 16) (s : State) : Out :=
  if portUp (s.m.port' p) then done s (sendFlit p s.m) else stop "FLIT_SEND"

/-! ### Routing tables and swaps (R463 to R467, R476) -/

def rteRefuse (code entry : Nat) (m : Module) : Module :=
  let m := { m with rte := { m.rte with st := .refused, lastCode := BitVec.ofNat 8 code, entry := BitVec.ofNat 16 entry } }
  ev 0x13 2 0xFFFF 2 31 0 (pack [(entry, 16), (code, 0)]) m

/-- ARM in RTE_CMD (R464); refused at once when the beat has passed. -/
def rteArm (m : Module) : Module :=
  if atOrAfter (beatNow m) m.rte.swapBeat then rteRefuse 3 0 m
  else { m with rte := { m.rte with st := .armed, armedBeat := m.rte.swapBeat } }

/-- A command that the block ignores (R467, R476). -/
def rteBad (m : Module) : Module := { m with rte := { m.rte with badCmd := true, badCmdAt := instant m } }

/-- CANCEL disarms the swap (R467); with none armed it is ignored. -/
def rteCancel (m : Module) : Module :=
  if m.rte.st = .armed then { m with rte := { m.rte with st := .idle } } else rteBad m

def execRteArm (s : State) : Out := done s (rteArm s.m)
def execRteCancel (s : State) : Out := done s (rteCancel s.m)

/-- The slices of which an enabled partition is a member. -/
def memberSlices (m : Module) : List Nat :=
  ((List.range 16).filter (fun p => enabled m p)).map (fun p => (prec m p).slice)

/-- The check of a swap that fails, with the entry reported (R464, R744). -/
def swapCheck (m : Module) : Option (Nat × Nat) :=
  let sh := m.rte.shadow
  match conflicts sh with
  | (i, _) :: _ => some (1, i)
  | [] =>
    match sh.find? (fun x => badLocal (memberSlices m) x.2) with
    | some x => some (2, x.1)
    | none =>
      match sh.find? (fun x => let e := rent x.2; e.rsvBad || e.out ≥ 18 || e.lo > e.hi) with
      | some x => some (4, x.1)
      | none =>
        if fld m.rte.nextRaw 32 32 != 0 || fld m.rte.nextRaw 13 18 != 0 then some (5, 0)
        else if m.img.st = .checking ∨ m.img.st = .checked ∨ (m.img.st = .armed ∧ m.img.armedBeat ≠ m.rte.armedBeat) then
          some (6, 0)
        else none

/-- The swap itself (R464). -/
def doSwap (m : Module) : Module :=
  let r := m.rte
  ev 0x13 1 0xFFFF 1 31 0 (r.armedBeat.setWidth 64) { m with rte := { r with
    st := .idle
    active := r.shadow
    chipValid := bit r.nextRaw 31
    chip := BitVec.ofNat 13 (fld r.nextRaw 0 13)
    epochs := r.epochs.map (fun x => (x.1, (x.2.1, x.2.1))) } }

/-- The armed beat starts (R464); an image armed for the same beat is applied first (R465). -/
def execSwap (s : State) : Out :=
  if s.m.rte.st = .armed then
    if s.m.img.st = .armed ∧ s.m.img.armedBeat = s.m.rte.armedBeat then stop "SWAP"
    else
      let m := passToBeat s.m.rte.armedBeat s.m
      match swapCheck m with
      | some (c, e) => done s (rteRefuse c e m)
      | none => done s (doSwap m)
  else stop "SWAP"

/-- A write that reaches the shadow table (R467); wing B's copy is written across the Corridor (R33, R39). -/
def rteShadowWrite (off bytes : Nat) (val : W64) (m : Module) : Module :=
  if m.rte.st = .armed then { m with rte := { m.rte with shadowIgn := m.rte.shadowIgn + 1 } }
  else
    let m := { m with dbg := m.dbg.cross 0 1 bytes }
    let i := off / 16
    let x : BitVec 128 := nget 0 m.rte.shadow i
    let sh := off % 16 * 8
    let w := 8 * bytes
    let mask : BitVec 128 := BitVec.ofNat 128 ((2 ^ w - 1) <<< sh)
    let v : BitVec 128 := BitVec.ofNat 128 ((val.toNat % 2 ^ w) <<< sh)
    { m with rte := { m.rte with shadow := nset 0 m.rte.shadow i ((x &&& ~~~mask) ||| v) } }

/-- Only aligned accesses of 32 or 64 bits reach the table, and any other is counted (R12); `off` counts from its start. -/
def execRteShadowWrite (off bytes : Nat) (val : W64) (s : State) : Out :=
  if off < 65536 then
    if accepted off bytes then done s (rteShadowWrite off bytes val s.m) else done s (unmapped true s.m)
  else ill

def execRteCntClr (s : State) : Out :=
  done s { s.m with rte := { s.m.rte with noRoute := 0, stale := 0, sliceRej := 0, nopart := 0, shadowIgn := 0 } }

end Sys2Proof.Machine
end

