-- ==== Sys2Proof/Machine/Beat.lean ====
section
/-! DEFINITION. Beat time (chapter 3): time packets, time states, the BEAT registers that act, and pushes to the module's
alarm queue. What an alarm does at its beat is in Alarm.lean. -/

namespace Sys2Proof.Machine

def beatEv (code sev : Nat) (d : W64) (m : Module) : Module := ev 0x03 code 0xFFFF sev 31 0 d m
def imageApplied (m : Module) : Bool := m.img.active.isSome

/-- The beats spent in HOLDOVER since the last LOCKED (BEAT_HOLD, R139). -/
def holdNow (m : Module) : Nat :=
  m.beat.holdBeats + (if m.beat.st = .holdover then (m.clk.elapsed - m.beat.holdSince) / 1024 else 0)

/-- Enters a time state; leaving HOLDOVER keeps its beats. -/
def enterTime (st : TimeSt) (m : Module) : Module :=
  let h := holdNow m
  { m with beat := { m.beat with
    st := st
    holdBeats := if st = .locked then 0 else h
    holdSince := m.clk.elapsed } }

/-- Fabric time is overwritten at once (R112). -/
def stepTime (o : Int) (m : Module) : Module :=
  { m with
    clk := { m.clk with time := m.clk.time + BitVec.ofInt 58 o }
    beat := { m.beat with slew := 0, slewAcc := 0 } }

/-- Fabric time is slewed until the offset is zero (R112). -/
def slewTime (o : Int) (m : Module) : Module := { m with beat := { m.beat with slew := o, slewAcc := 0 } }

/-- A correction in ACQUIRE: a step only while no image is applied (R112). -/
def correct (o : Int) (m : Module) : Module := if imageApplied m then slewTime o m else stepTime o m

def ofsWord (o : Int) : W64 := BitVec.ofInt 64 o

/-- The ACQUIRE row of R117 for one offset. -/
def acquire (o : Int) (m : Module) : Module :=
  if o.natAbs > 20 then correct o { m with beat := { m.beat with good := 0 } }
  else
    let g := m.beat.good + 1
    let m := slewTime o { m with beat := { m.beat with good := g } }
    if g ≥ 4 then beatEv 1 0 (ofsWord o) (enterTime .locked m) else m

/-- The table of R117 for a time packet that is taken. -/
def timeOffset (o : Int) (m : Module) : Module :=
  let far := decide (o.natAbs > 1024)
  match m.beat.st with
  | .free => acquire o (enterTime .acquire { m with beat := { m.beat with good := 0 } })
  | .acquire => acquire o m
  | .locked =>
    if far then
      if imageApplied m then beatEv 3 4 (ofsWord o) (slewTime o m)
      else
        let m := enterTime .acquire { m with beat := { m.beat with good := 0 } }
        beatEv 3 4 (ofsWord o) (stepTime o m)
    else slewTime o m
  | .holdover =>
    if far && imageApplied m then beatEv 3 4 (ofsWord o) (slewTime o m)
    else enterTime .acquire { m with beat := { m.beat with good := 0 } }
  | .master => m

/-- A time packet arrives (R109 to R111). The delay, recorded in units of 10 ps, is added in whole nanoseconds, rounded down (DESIGN
CHOICE, log entry 153). -/
def execTimePacketReceive (port : Fin 16) (carried : Time) (s : State) : Out :=
  let m := recvLinks port 1 s.m
  if m.beat.master || !m.beat.upEn || m.beat.upPort.toNat != port.val then
    done s { m with beat := { m.beat with stray := m.beat.stray + 1 } }
  else if m.beat.remeasure.contains port.val then done s m
  else
    let d := (m.port' port).delay.toNat / 100
    let o := (carried + BitVec.ofNat 58 d - m.clk.time).toInt
    let m := { m with beat := { m.beat with offset := ofsWord o, lastPacket := m.clk.elapsed } }
    done s (timeOffset o m)

/-- Time packets leave at beat 1,024k + 0 ns (R108). -/
def execTimePacketSend (s : State) : Out :=
  if s.m.beat.st = .master ∨ s.m.beat.st = .locked then
    let b := nextMultiple 1024 s.m.beat.sentBeat s.m
    let m := passToBeat b s.m
    let m := { m with beat := { m.beat with sentBeat := some b } }
    done s ((List.range 16).foldl (fun m p =>
      let st := (m.port' p).st
      if bit m.beat.distMask p && (st = .up || st = .narrow || st = .quarantined) then sendTime p m else m) m)
  else stop "TIME_PACKET_SEND"

/-- No time packet for 2,048 beats, or UP_PORT down (R117): a QUARANTINED port counts as down (DESIGN CHOICE, log entry 154). -/
def execHoldover (s : State) : Out :=
  if s.m.beat.st = .locked then
    let m := if portUp (s.m.port' s.m.beat.upPort.toNat) then passTo (s.m.beat.lastPacket + 2048 * 1024) s.m else s.m
    done s (beatEv 2 2 (m.beat.upPort.setWidth 64) (enterTime .holdover m))
  else stop "HOLDOVER"

/-- A write of BEAT_GM_CTRL (R107, R117, R143). -/
def gmCtrl (val : W64) (m : Module) : Module :=
  let was := m.beat.master
  let now := bit val 0
  let m := { m with beat := { m.beat with
    master := now, upEn := bit val 8, upPort := BitVec.ofNat 4 (fld val 4 4) } }
  if !was && now then beatEv 6 1 1 (slewTime 0 (enterTime .master m))
  else if was && !now then beatEv 6 1 0 (enterTime .holdover m)
  else m

def execBeatGmCtrlWrite (val : W64) (s : State) : Out := done s (gmCtrl val s.m)

/-- A write of BEAT_SET: effective in FREE or MASTER while no image is applied (R139 with R113; log entry 12). -/
def beatSet (val : W64) (m : Module) : Module :=
  if (m.beat.st = .free || m.beat.st = .master) && !imageApplied m then
    { m with clk := { m.clk with time := val.setWidth 58 } }
  else m

def execBeatSet (val : W64) (s : State) : Out := done s (beatSet val s.m)

/-! ### Descriptors (R53) and the alarm's body (R118, R119, R629) -/

/-- A descriptor from its bytes (R53). -/
def parseDesc (b : List Byte) : Desc :=
  { part := nfld (le b 8 8) 47 5 % 32, ctx := nfld (le b 8 8) 44 3, ty := BitVec.ofNat 8 (nfld (le b 8 8) 52 8),
    flags := BitVec.ofNat 12 (nfld (le b 8 8) 32 12), len := nfld (le b 8 8) 0 32, seq := BitVec.ofNat 64 (le b 0 8), bytes := b }

def descVersion (b : List Byte) : Nat := nfld (le b 8 8) 60 4

def alarmAction (d : Desc) : Nat := nfld (le d.bytes 16 8) 48 8
def alarmBeat (d : Desc) : Beat := BitVec.ofNat 48 (le d.bytes 16 8)
def alarmArg (d : Desc) : W64 := BitVec.ofNat 64 (le d.bytes 24 8)

/-- Whether an alarm's ARG keeps its reserved bits zero (R119, R430, R629). -/
def argOk (action : Nat) (a : W64) : Bool :=
  match action with
  | 1 => fld a 4 60 = 0
  | 2 => fld a 48 16 = 0
  | 3 => fld a 48 16 = 0
  | 4 => fld a 4 60 = 0
  | 5 => fld a 48 16 = 0
  | 6 => 1 ≤ fld a 60 4 && fld a 60 4 ≤ 4 && fld a 11 45 = 0
  | 7 => fld a 16 48 = 0
  | 8 => true
  | _ => false

/-- Whether an action may stand in the module queue, or in a partition's (R119). -/
def actionIn (module : Bool) (action : Nat) : Bool :=
  if module then action = 6 || action = 7 || action = 8
  else action = 1 || action = 2 || action = 3 || action = 4 || action = 5 || action = 8

/-- Whether an alarm descriptor's own fields are in order (R118, R119). -/
def alarmOk (module : Bool) (d : Desc) : Bool :=
  d.ty = 0x90 && d.flags = 0 && d.len = 32 && nfld (le d.bytes 16 8) 56 8 = 0 && actionIn module (alarmAction d)
  && argOk (alarmAction d) (alarmArg d)

def modQ : QKey := ⟨10, 0, 16⟩

/-- A push of BEAT_MQ_DESC0–3 into the module queue (R140, R141). -/
def mqPush (m : Module) : Module :=
  let b := (m.beat.mqDesc.map (fun w => natLe 8 w.toNat)).flatten
  let d := parseDesc b
  if (queue m modQ).length ≥ 64 || descVersion b != 1 || d.part != 0 || d.ctx != 0 || !alarmOk true d then
    { m with beat := { m.beat with mqRefused := true } }
  else enqueue modQ d { m with beat := { m.beat with mqRefused := false } }

def execBeatMqPush (s : State) : Out := done s (mqPush s.m)

end Sys2Proof.Machine
end

