-- ==== Sys2Proof/Machine/Img.lean ====
section
/-! DEFINITION. The structure image (chapter 2): its layout, the consistency rules of R90, and the commands of the IMG
block up to the armed beat. The apply itself is in Apply.lean. -/

namespace Sys2Proof.Machine

/-! ### Layout (R69 to R76) -/

def hallRange (x : Nat) : HallRange := { valid := x.testBit 31, last := nfld x 16 9, first := nfld x 0 9 }

/-- A partition record from its 128 bytes (R73). -/
def parseRec (b : List Byte) : PRec :=
  let md := le b 1 1
  { enable := md.testBit 0, check := nfld md 1 2, atomicSel := nfld md 3 2, power := nfld (le b 2 2) 0 11,
    slice := nfld (le b 4 2) 0 12, gal := BitVec.ofNat 64 (le b 8 8), flt := BitVec.ofNat 32 (le b 0x10 4),
    lnd := BitVec.ofNat 16 (le b 0x14 2), ris := BitVec.ofNat 8 (le b 0x16 1), win := BitVec.ofNat 8 (le b 0x17 1),
    cc := BitVec.ofNat 32 (le b 0x18 4), lpx := BitVec.ofNat 32 (le b 0x1C 4), hbm := BitVec.ofNat 256 (le b 0x20 32),
    hall0 := hallRange (le b 0x40 4), hall1 := hallRange (le b 0x44 4), cache := nfld (le b 0x48 2) 0 9, hbmIl := le b 0x4A 1,
    lpxIl := le b 0x4B 1, vcw := BitVec.ofNat 32 (le b 0x4C 4) }

/-- Whether a partition record is as R73 requires: its position, reserved bits and reserved values. -/
def recOk (n : Nat) (b : List Byte) : Bool :=
  let md := le b 1 1
  le b 0 1 = n && nfld md 1 2 != 3 && nfld md 3 2 != 3 && nfld md 5 3 = 0 && nfld (le b 2 2) 11 5 = 0 && nfld (le b 4 2) 12 4 = 0
  && zeros b 6 2 && nfld (le b 0x17 1) 4 4 = 0 && nfld (le b 0x1C 4) 24 8 = 0
  && nfld (le b 0x40 4) 25 6 = 0 && nfld (le b 0x40 4) 9 7 = 0 && nfld (le b 0x44 4) 25 6 = 0 && nfld (le b 0x44 4) 9 7 = 0
  && nfld (le b 0x48 2) 9 7 = 0 && nfld (le b 0x4A 1) 3 5 = 0 && nfld (le b 0x4B 1) 3 5 = 0 && zeros b 0x50 48

/-- The sections of an image body, as (TYPE, entries, bytes); none when a header or a length is malformed (R70). -/
def imgSections : Nat → List Byte → Option (List (Nat × Nat × List Byte))
  | 0, b => if b.isEmpty then some [] else none
  | f + 1, b =>
    if b.isEmpty then some []
    else
      let len := le b 4 4
      if b.length < 16 || le b 1 1 != 1 || !zeros b 2 2 || !zeros b 10 6 || len < 16 || len % 16 != 0 || len > b.length then none
      else
        match imgSections f (b.drop len) with
        | none => none
        | some r => some ((le b 0 1, le b 8 2, b.take len) :: r)

/-- A service-list entry (R76). -/
structure SvcEnt where
  cls : Nat
  act : Nat
  own : Nat
  idx : Nat

def parseSvc (x : Nat) : SvcEnt := { cls := nfld x 0 4, act := nfld x 4 2, own := nfld x 8 5, idx := nfld x 16 16 }

def svcOk (x : Nat) : Bool :=
  nfld x 0 4 ≤ 8 && (nfld x 4 2 = 1 || nfld x 4 2 = 2) && nfld x 6 2 = 0 && nfld x 13 3 = 0 && nfld x 32 32 = 0
  && (nfld x 4 2 = 2 || nfld x 8 5 = 0)

/-- Whether a section is as R70 to R76 require. -/
def sectionOk (s : Nat × Nat × List Byte) : Bool :=
  let (ty, n, b) := s
  match ty with
  | 1 => n = 0 && b.length = 2064 && (List.range 16).all (fun i => recOk i (slice b (16 + 128 * i) 128))
  | 2 => n = 0 && b.length = 80 && nfld (le b 0x10 1) 1 7 = 0 && le b 0x11 1 ≤ 2 && zeros b 0x12 6 && zeros b 0x24 44
  | 3 => n ≤ 16 && b.length = 16 + 16 * n && (List.range n).all (fun i =>
      let x := le b (16 + 16 * i) 8
      nfld x 12 4 = 0 && nfld x 40 24 = 0 && zeros b (24 + 16 * i) 8)
  | 4 => n ≤ 64 && b.length = 16 + (8 * n + 15) / 16 * 16 && (List.range n).all (fun i => svcOk (le b (16 + 8 * i) 8))
      && zeros b (16 + 8 * n) (b.length - 16 - 8 * n)
  | _ => false

/-- A parsed image. -/
structure ImgFile where
  service : Bool
  grade : Nat
  keySlot : Nat
  gal : Nat
  id : W64
  base : W64
  parts : List PRec
  table : List Byte
  glob : List Byte
  slices : List SliceEnt
  svc : List SvcEnt

def secBytes (ss : List (Nat × Nat × List Byte)) (ty : Nat) : Nat × List Byte :=
  match ss.find? (fun s => s.1 = ty) with
  | some s => s.2
  | none => (0, [])

/-- The image whose bytes were fetched, none when its header or layout is malformed (code 0x01 of R90; R69 to R76). A zero
IMAGE_ID, a non-zero BASE_ID of a full image, a reserved KIND and a record whose PART is not its position count as malformed
(DESIGN CHOICE, log entry 144: R69 and R73 require them, and R90's list for code 0x01 does not name them). -/
def parseImage (b : List Byte) : Option ImgFile :=
  let len := le b 0x20 4
  let kind := le b 5 1
  if b.length < 160 || le b 0 4 != 0x55544352 || le b 4 1 != 1 || kind > 1 || le b 7 1 > 7 || le b 0x10 8 = 0
    || (kind = 0 && le b 0x18 8 != 0) || len != b.length || len % 16 != 0 || len > 1048576 || !zeros b 0x26 26 then none
  else
    match imgSections 5 ((b.take (len - 96)).drop 64) with
    | none => none
    | some ss =>
      let tys := ss.map (fun s => s.1)
      let order := tys = ([1, 2, 3, 4].filter (fun t => tys.contains t))
      let need := if kind = 0 then tys.contains 1 && tys.contains 2 else tys = [4]
      if !order || !need || ss.length != le b 0x24 2 || !(ss.all sectionOk) then none
      else
        let p := (secBytes ss 1).2
        let g := (secBytes ss 2).2
        let sl := secBytes ss 3
        let sv := secBytes ss 4
        some { service := kind = 1, grade := le b 6 1, keySlot := le b 7 1, gal := le b 8 8, id := BitVec.ofNat 64 (le b 0x10 8),
               base := BitVec.ofNat 64 (le b 0x18 8),
               parts := if kind = 0 then (List.range 16).map (fun i => parseRec (slice p (16 + 128 * i) 128)) else [],
               table := p.drop 16, glob := g,
               slices := (List.range sl.1).map (fun i =>
                 let x := le sl.2 (16 + 16 * i) 8
                 { slice := nfld x 0 12, mask := BitVec.ofNat 16 (nfld x 16 16), epoch := BitVec.ofNat 8 (nfld x 32 8) }),
               svc := (List.range sv.1).map (fun i => parseSvc (le sv.2 (16 + 8 * i) 8)) }

/-- The structure a full image describes, every unit in service (R92). -/
def baseStruct (f : ImgFile) : Struct :=
  { parts := f.parts, atomicDefault := le f.glob 0x10 1 % 2, traceTier := le f.glob 0x11 1, traceBase := le f.glob 0x18 8,
    traceSize := le f.glob 0x20 4, slices := f.slices, oos := [], bytes := [], table := f.table }

/-! ### The service list (R92, R93) -/

/-- Sets or clears a unit's bit in a record. -/
def PRec.setUnit (r : PRec) (cls u : Nat) (v : Bool) : PRec :=
  let f {n : Nat} (x : BitVec n) : BitVec n := if v then x ||| BitVec.ofNat n (2 ^ u) else x &&& ~~~(BitVec.ofNat n (2 ^ u))
  match cls with
  | 0 => { r with gal := f r.gal } | 1 => { r with lnd := f r.lnd } | 2 => { r with ris := f r.ris }
  | 3 => { r with win := f r.win } | 4 => { r with flt := f r.flt } | 5 => { r with cc := f r.cc }
  | 7 => { r with hbm := f r.hbm } | 8 => { r with lpx := f r.lpx } | _ => r

/-- A log entry before it is packed (R94): code, section, partition, unit, other. -/
structure ErrEnt where
  code : Nat
  sec : Nat
  part : Nat
  unit : Nat
  other : Nat
deriving DecidableEq

def ErrEnt.word (e : ErrEnt) : W64 :=
  pack [(e.code, 56), (e.sec, 48), (e.part, 43), (e.unit, 16), (min e.other 0xFFFF, 0)]

def ErrEnt.key (e : ErrEnt) : Nat := (e.sec * 256 + e.code) * 65536 + e.unit

/-- Whether an entry that returns a unit fails code 0x18 (R90). -/
def badReturn (t : Struct) (e : SvcEnt) : Bool :=
  !t.isOos e.cls e.idx || e.own > 15 || !(t.prec e.own).enable || (e.cls = 5 && e.idx / 16 != homeWing e.own)
  || (e.cls = 6 && !((t.prec e.own).hall0.has e.idx || (t.prec e.own).hall1.has e.idx))

/-- Lays one service entry over a structure (R92, R93): the structure after it, and its failures. -/
def layEntry (present : W64) (t : Struct) (e : SvcEnt) : Struct × List ErrEnt :=
  let part := if e.act = 2 then e.own else 31
  if e.idx ≥ clsCount e.cls then (t, [⟨0x18, 4, part, e.idx, 0⟩])
  else
    let fused := if e.cls = 0 && !bit present e.idx then [⟨0x08, 4, part, e.idx, 0⟩] else []
    if e.act = 1 then
      if t.isOos e.cls e.idx then (t, fused ++ [⟨0x18, 4, 31, e.idx, 0⟩])
      else
        ({ t with parts := t.parts.map (fun r => r.setUnit e.cls e.idx false), oos := (e.cls, e.idx) :: t.oos }, fused)
    else if badReturn t e then (t, fused ++ [⟨0x18, 4, part, e.idx, 0⟩])
    else
      ({ t with
          parts := t.parts.set e.own ((t.prec e.own).setUnit e.cls e.idx true)
          oos := t.oos.filter (· != (e.cls, e.idx)) }, fused)

def layList (present : W64) (t : Struct) (es : List SvcEnt) : Struct × List ErrEnt :=
  es.foldl (fun a e => let x := layEntry present a.1 e; (x.1, a.2 ++ x.2)) (t, [])

/-! ### Consistency rules (R90) -/

/-- The units of a class that a record holds in a structure. -/
def unitsOf (t : Struct) (r : PRec) (cls : Nat) : List Nat :=
  (List.range (clsCount cls)).filter (fun u => r.has cls u && !t.isOos cls u)

/-- Whether an interleaved code can be formed over C units (R349). -/
def formable (c : Nat) : Bool := c = 0 || (List.range 9).any (fun a => c = 2 ^ a || c = 3 * 2 ^ a)

/-- A record's Hall range that breaks code 0x0B. -/
def badRange (h : HallRange) : Bool := h.valid && (h.first > h.last || h.first / 256 != h.last / 256 || h.last > 511)

def rangeSize (h : HallRange) : Nat := if h.valid && h.first ≤ h.last then h.last + 1 - h.first else 0

/-- Failures in one partition's record: codes 0x08 to 0x10, 0x12 and 0x19. One instance of 0x12 stands for all that a disabled
partition holds, with UNIT 0xFFFF, and one of 0x0A and one of 0x0C for either of their conditions or both (DESIGN CHOICE, log
entry 145). -/
def recFails (t : Struct) (present : W64) (locked : Bool) (sec p : Nat) : List ErrEnt :=
  let r := t.prec p
  let on := r.enable
  let mk (c : Nat) (u : Nat) (o : Nat) : ErrEnt := ⟨c, sec, p, u, o⟩
  let cores := unitsOf t r 5
  let site := if r.atomicSel = 2 then t.atomicDefault else r.atomicSel
  let il (code cls o : Nat) : List ErrEnt :=
    if on && (code % 8 > 4 || (code % 8 < 4 && !formable (unitsOf t r cls).length)) then [mk 0x0E 0xFFFF o] else []
  let pairs (cls : Nat) : List ErrEnt :=
    ((unitsOf t r cls).filter (fun u => !(unitsOf t r cls).contains (if u % 2 = 0 then u + 1 else u - 1))).map (fun u => mk 0x10 u 0)
  ((unitsOf t r 0).filter (fun u => !bit present u)).map (fun u => mk 0x08 u 0)
  ++ (if on && cores.length != 2 then [mk 0x09 0xFFFF 0] else [])
  ++ (if on then (cores.filter (fun c => c / 16 != homeWing p)).map (fun c => mk 0x09 c 0) else [])
  ++ (if on && ((unitsOf t r 4).isEmpty || !(r.hall0.valid || r.hall1.valid)) then [mk 0x0A 0xFFFF 0] else [])
  ++ (if badRange r.hall0 then [mk 0x0B 0xFFFF 0] else []) ++ (if badRange r.hall1 then [mk 0x0B 0xFFFF 1] else [])
  ++ (if r.cache > rangeSize r.hall0 || r.cache % 8 != 0 then [mk 0x0C 0xFFFF 0] else [])
  ++ (if site = 1 && r.cache = 0 then [mk 0x0D 0xFFFF 0] else [])
  ++ il r.hbmIl 7 0 ++ il r.lpxIl 8 1
  ++ (if r.slice != 0xFFF && (unitsOf t r 8).isEmpty then [mk 0x0F 0xFFFF 0] else [])
  ++ (if r.check = 2 then pairs 0 ++ pairs 1 ++ pairs 2 else [])
  ++ (if !on && ((List.range 9).any (fun c => !(unitsOf t r c).isEmpty) || r.power != 0 || r.slice != 0xFFF)
      then [mk 0x12 0xFFFF 0] else [])
  ++ (if on && locked && r.check = 0 then [mk 0x19 0xFFFF 0] else [])

/-- Units owned by two partitions (code 0x07): one instance for each further owner, the first owner named in PART. -/
def doubleFails (t : Struct) (sec : Nat) : List ErrEnt :=
  (List.range 9).flatMap (fun cls => (List.range (clsCount cls)).flatMap (fun u =>
    if t.isOos cls u then []
    else
      match (List.range 16).filter (fun p => (t.prec p).has cls u) with
      | a :: b :: r => (b :: r).map (fun q => ⟨0x07, sec, a, u, q⟩)
      | _ => []))

def powerSum (t : Struct) : Nat := ((t.parts.filter (·.enable)).map (·.power)).sum

/-- Whether the trace region overlaps a slot that a partition owns, or passes its tier's end (code 0x17). -/
def badTrace (t : Struct) : Bool :=
  let len := 2 ^ 20 * t.traceSize
  t.traceBase % 2 ^ 20 != 0 || t.traceSize > 16384
  || (t.traceTier != 0 && (t.traceBase + len > tierSize t.traceTier
    || (len > 0 && (List.range (tierUnits t.traceTier)).any (fun u =>
        overlap t.traceBase len (slotSize t.traceTier * u) (slotSize t.traceTier)
        && !t.isOos (tierCls t.traceTier) u && t.parts.any (fun r => r.has (tierCls t.traceTier) u)))))

/-- Every failure of codes 0x06 to 0x19 in the structure that would result; `sec` is the section of the partition table's,
the settings' and the slice table's failures in the image at hand. -/
def structFails (t : Struct) (present : W64) (locked : Bool) (cap : Nat) (routes : NMap (BitVec 128)) (sec : Nat → Nat) :
    List ErrEnt :=
  let en := (List.range 16).filter (fun p => (t.prec p).enable)
  (if en.isEmpty then [⟨0x06, sec 1, 31, 0xFFFF, 0⟩] else [])
  ++ doubleFails t (sec 1)
  ++ (List.range 16).flatMap (recFails t present locked (sec 1))
  ++ (if powerSum t > cap then [⟨0x11, sec 1, 31, 0xFFFF, powerSum t - cap⟩] else [])
  ++ (List.range t.slices.length).flatMap (fun i =>
      match t.slices[i]? with
      | none => []
      | some e =>
        let want : BitVec 16 := (en.filter (fun p => (t.prec p).slice = e.slice)).foldl (fun a p => a ||| BitVec.ofNat 16 (2 ^ p)) 0
        if e.mask != want || (t.slices.take i).any (fun x => x.slice = e.slice) then [⟨0x13, sec 3, 31, 0xFFFF, i⟩] else [])
  ++ (List.range 4).flatMap (fun c =>
      if (en.map (fun p => fld (t.prec p).vcw (8 * c) 8)).sum > 256 then [⟨0x14, sec 1, 31, 0xFFFF, c⟩] else [])
  ++ (conflicts routes).map (fun c => ⟨0x15, 0, 31, c.2, c.1⟩)
  ++ (routes.filter (fun x => badLocal (en.map (fun p => (t.prec p).slice)) x.2)).map (fun x => ⟨0x16, 0, 31, x.1, 0⟩)
  ++ (if badTrace t then [⟨0x17, sec 2, 31, 0xFFFF, 0⟩] else [])

/-- Sorts by SECTION, CODE and UNIT (R95); entries equal in all three stay in the order in which the rules were evaluated, by
partition and then by OTHER (DESIGN CHOICE, log entry 146). -/
def insertErr (e : ErrEnt) : List ErrEnt → List ErrEnt
  | [] => [e]
  | x :: r => if x.key ≤ e.key then x :: insertErr e r else e :: x :: r

def sortErrs (l : List ErrEnt) : List ErrEnt := l.foldl (fun a e => insertErr e a) []

/-- Whether the signature of an image is in order (code 0x02 of R90, R72, R673). -/
def imageSigned (m : Module) (b : List Byte) (slot : Nat) : Bool :=
  let k := nget KeySlot.init m.sec.keySlots slot
  let n := b.length - 96
  k.st = 1 && bit k.use 0 && !m.img.dirty && ecdsaOk k.key (sha384 (b.take n)) (b.drop n)

/-- The outcome of a check (R80, R81, R92): the failures, the structure that would result, whether code 0x02 was waived. -/
structure CheckRes where
  errs : List ErrEnt
  struct : Option Struct
  waived : Bool

def hdrErr (c : Nat) : ErrEnt := ⟨c, 0, 31, 0xFFFF, 0⟩

def checkImage (m : Module) : CheckRes :=
  let b := m.img.shadow
  match parseImage b with
  | none => { errs := [hdrErr 1], struct := none, waived := false }
  | some f =>
    let signed := imageSigned m b f.keySlot
    let waive := m.img.devUnsigned && !m.sec.locked
    let e2 := if !signed && !waive then [hdrErr 2] else []
    let e3 := if f.grade != m.fused.grade.toNat then [hdrErr 3] else []
    let e4 := if f.gal != m.fused.galPresent.toNat then [hdrErr 4] else []
    let e5 := if f.service && (f.base != m.img.activeId || m.img.active.isNone) then [hdrErr 5] else []
    let hd := e2 ++ e3 ++ e4 ++ e5
    let base := if f.service then m.img.active else some (baseStruct f)
    match base with
    | none => { errs := hd, struct := none, waived := !signed }
    | some t =>
      let x := layList m.fused.galPresent t f.svc
      let sec (n : Nat) : Nat := if f.service then 4 else n
      let errs := hd ++ x.2 ++ structFails x.1 m.fused.galPresent m.sec.locked m.pwr.cap m.rte.active sec
      { errs := sortErrs errs, waived := !signed,
        struct := some { x.1 with bytes := b, table := if f.service then t.table else f.table } }

/-! ### Commands (R77 to R103) -/

def imgId (m : Module) : W64 := BitVec.ofNat 64 (le m.img.shadow 0x10 8)
def imgEv (code sev : Nat) (d : W64) (m : Module) : Module := ev 0x02 code 0xFFFF sev 31 0 d m
def imgBad (m : Module) : Module := { m with img := { m.img with badCmd := true, badCmdAt := instant m } }

/-- The single log entry of a failed fetch (R103). -/
def fetchFailed (m : Module) : Module :=
  { m with img := { m.img with
    st := .failed, lastCode := 1, errCount := 1, errLog := [(hdrErr 1).word], shadow := [] } }

/-- LOAD (R77, R103). An image cancelled in STAGING has no IMAGE_ID yet: the DETAIL of its CANCELLED is 0 (DESIGN CHOICE, log
entry 147). -/
def imgLoad (m : Module) : Module :=
  let live := m.img.st = .staging ∨ m.img.st = .staged ∨ m.img.st = .checking ∨ m.img.st = .checked ∨ m.img.st = .armed
  let m := if live then imgEv 7 1 (imgId m) m else m
  let m := { m with img := { m.img with
    st := .staging, dirty := false, errCount := 0, errLog := [], stIgnored := 0, shadow := [],
    fetchLen := min m.img.loadLen.toNat 1048576 } }
  if m.img.loadAddr.toNat % 16 != 0 then fetchFailed m else m

def imgCheckCmd (m : Module) : Module :=
  if m.img.st = .staged then { m with img := { m.img with st := .checking } } else imgBad m

/-- A refused apply (R77, R85). -/
def applyRefused (code : Nat) (m : Module) : Module :=
  imgEv 6 2 (BitVec.ofNat 64 code) { m with img := { m.img with st := .failed, lastCode := BitVec.ofNat 8 code } }

/-- The structure that the staged image describes, laid over the one in force where it is a service image. -/
def stagedStruct (m : Module) : Option (ImgFile × Struct) :=
  match parseImage m.img.shadow with
  | none => none
  | some f =>
    match (if f.service then m.img.active else some (baseStruct f)) with
    | none => none
    | some t =>
      let x := (layList m.fused.galPresent t f.svc).1
      some (f, { x with bytes := m.img.shadow, table := if f.service then t.table else f.table })

/-- Whether a structure has its trace region elsewhere than the structure in force. -/
def Struct.regionMoves (t : Struct) (a : Option Struct) : Bool :=
  match a with
  | some a => t.traceTier != a.traceTier || t.traceBase != a.traceBase || t.traceSize != a.traceSize
  | none => true

/-- Whether the staged image moves the trace region (R727). -/
def movesRegion (m : Module) : Bool :=
  match stagedStruct m with
  | some x => x.2.regionMoves m.img.active
  | none => false

/-- The image is armed for a beat. -/
def armFor (b : Beat) (late : Option Beat) (m : Module) : Module :=
  { m with
    img := { m.img with st := .armed, armedBeat := b, armedLate := late }
    dbg := { m.dbg with hold := if movesRegion m then some (b - 1) else none } }

/-- ARM (R77, R85, R86). -/
def imgArm (m : Module) : Module :=
  if m.img.st = .checked then
    let b := m.img.applyBeat
    if atOrAfter (beatNow m) b then
      if m.img.latePolicy then
        let at_ := beatNow m + 1
        imgEv 4 0 (b.setWidth 64) (armFor at_ (some (at_ - b)) m)
      else applyRefused 0x20 m
    else imgEv 4 0 (b.setWidth 64) (armFor b none m)
  else imgBad m

/-- CANCEL (R77). -/
def imgCancel (m : Module) : Module :=
  if m.img.st = .staged ∨ m.img.st = .checking ∨ m.img.st = .checked ∨ m.img.st = .armed then
    let d := imgId m
    imgEv 7 1 d { m with img := { m.img with st := .idle, dirty := false, shadow := [] } }
  else imgBad m

/-- A write of IMG_CMD (R101). -/
def imgCmd (val : W64) (m : Module) : Module :=
  if val = 1 then imgLoad m else if val = 2 then imgCheckCmd m else if val = 3 then imgArm m else if val = 4 then imgCancel m
  else imgBad m

def execLoad (s : State) : Out := done s (imgLoad s.m)
def execCheck (s : State) : Out := done s (imgCheckCmd s.m)
def execArm (s : State) : Out := done s (imgArm s.m)
def execCancel (s : State) : Out := done s (imgCancel s.m)

/-- The end of the fetch (R77, R103). -/
def execFetchComplete (r : FetchResult) (s : State) : Out :=
  if s.m.img.st = .staging then
    match r with
    | .error => done s (fetchFailed s.m)
    | .data b =>
      if b.length < s.m.img.fetchLen then stop "FETCH_COMPLETE"
      else
      let m := { s.m with img := { s.m.img with st := .staged, shadow := slice b 0 s.m.img.fetchLen } }
      done s (imgEv 1 0 (imgId m) m)
  else stop "FETCH_COMPLETE"

/-- A write of the IMG_SHADOW window (R78, R79). -/
def imgShadowWrite (off bytes : Nat) (val : W64) (m : Module) : Module :=
  if m.img.st = .staged && off + bytes ≤ m.img.shadow.length then
    { m with img := { m.img with dirty := true, shadow := splice m.img.shadow off (natLe bytes val.toNat) } }
  else { m with img := { m.img with stIgnored := m.img.stIgnored + 1 } }

/-- Only aligned accesses of 32 or 64 bits reach the window, and any other is counted (R12); `off` counts from its start. -/
def execImgShadowWrite (off bytes : Nat) (val : W64) (s : State) : Out :=
  if off < 32768 then
    if accepted off bytes then done s (imgShadowWrite off bytes val s.m) else done s (unmapped true s.m)
  else ill

/-- The end of a check (R77, R81, R95). -/
def execCheckingEnd (s : State) : Out :=
  if s.m.img.st = .checking then
    let r := checkImage s.m
    let n := min r.errs.length 65535
    let log := (r.errs.take 256).map ErrEnt.word
    match r.errs with
    | [] =>
      done s (imgEv 2 0 (imgId s.m) { s.m with img := { s.m.img with st := .checked, errCount := 0, errLog := [], excStaged := r.waived } })
    | e :: _ =>
      done s (imgEv 3 2 (BitVec.ofNat 64 n) { s.m with img := { s.m.img with
        st := .failed, lastCode := BitVec.ofNat 8 e.code, errCount := n, errLog := log } })
  else stop "CHECKING_END"

end Sys2Proof.Machine
end

