-- ==== Sys2Proof/Machine/Cmp.lean ====
section
/-! DEFINITION. What the engines share: the Balusters' comparisons (R591 to R593), ECC errors met while working, Hall ranges
of descriptors, fields of a descriptor body, and element streams read from and written to the Hall. -/

namespace Sys2Proof.Machine

/-! ### Comparisons (R591 to R593, R619) -/

/-- DETAIL of a MISMATCH or a CHK_LOST (R619). -/
def cmpDetail (qcls unit : Nat) (d : Desc) : W64 := pack [(qcls, 60), (unit, 48), (d.seq.toNat % 2 ^ 48, 0)]

/-- A Baluster has made comparisons (R620). -/
def compared (w n : Nat) (m : Module) : Module :=
  let c := m.chk' w
  m.setChk w { c with cmp := c.cmp + BitVec.ofNat 64 n, lastProgress := m.clk.elapsed }

/-- A comparison fails (R593): the record, the counts, and the score against each unit compared. -/
def mismatch (w qcls unit : Nat) (scored : List Nat) (d : Desc) (m : Module) : Module :=
  let c := m.chk' w
  let det := cmpDetail qcls unit d
  let m := m.setChk w { c with mismatch := satAdd c.mismatch 1, last := det, pmis := mapAt 0 c.pmis d.part (· + 1) }
  scored.foldl (fun m u => score 1 (evClsOf qcls) u m) (ev 0x15 1 w 4 d.part d.ctx det m)

/-- The paired comparison of a full-mode unit (R593): `n` values compared, of which `bad` differ; both members score. -/
def comparePair (w qcls unit n bad : Nat) (d : Desc) (m : Module) : Module :=
  (List.range bad).foldl (fun m _ => mismatch w qcls unit [unit / 2 * 2, unit / 2 * 2 + 1] d m) (compared w n m)

/-! ### ECC errors (R223, R258, R294, R322, R338) -/

/-- Records the ECC errors that an engine met: ECC_CORRECTED or ECC_UNCORRECTED of its class, in the order of their codes (R63),
scored against it. -/
def eccEvents (cls unit : Nat) (d : Desc) (hits : List EccHit) (m : Module) : Module :=
  (hits.filter (·.unc)).foldl (fun m _ => evS 1 cls 2 unit 4 d.part d.ctx d.seq m)
    ((hits.filter (!·.unc)).foldl (fun m _ => evS 0 cls 1 unit 3 d.part d.ctx d.seq m) m)

/-- How many of the errors met were corrected, or uncorrected. -/
def eccCount (unc : Bool) (hits : List EccHit) : Nat := (hits.filter (fun h => h.unc = unc)).length

/-- The last uncorrected error met. -/
def eccLastHit (hits : List EccHit) : Option EccHit := (hits.filter (·.unc)).getLast?

/-- What the uncorrected errors that a unit meets at the places `at_` names give to its read of one place (R223: data as read): the last
of them, none when there is no such error. -/
def eccRead (hits : List EccHit) (at_ : EccHit → Bool) : Option W64 := ((hits.filter (fun h => h.unc && !h.odd && at_ h)).getLast?).map (·.val)

/-! ### Descriptor bodies -/

/-- A field of `n` bytes at a byte offset of a descriptor. -/
def Desc.f (d : Desc) (off n : Nat) : Nat := le d.bytes off n
/-- A 64-bit field. -/
def Desc.a (d : Desc) (off : Nat) : W64 := BitVec.ofNat 64 (le d.bytes off 8)
/-- A one-byte field. -/
def Desc.b (d : Desc) (off : Nat) : Byte := BitVec.ofNat 8 (le d.bytes off 1)
/-- A flag bit. -/
def Desc.fl (d : Desc) (i : Nat) : Bool := bit d.flags i

/-- Whether `n` bytes at an address displaced by `delta` lie in the partition's Hall (R206, R49). -/
def hallAt (m : Module) (p : Nat) (a : W64) (delta n : Nat) : Bool :=
  gaOk a && gaHere m a && gaTier a = 0 && allowed m p 0 (gaOff a + delta) n

/-- The same for `k` ranges that a stride separates. -/
def hallRows (m : Module) (p : Nat) (a : W64) (stride k n : Nat) : Bool :=
  (List.range k).all (fun i => hallAt m p a (i * stride) n)

/-- Reads `k` Hall ranges that a stride separates. -/
def readRows (w p : Nat) (a : W64) (stride n : Nat) : Nat → Module → List (List Byte) × Module
  | 0, m => ([], m)
  | k + 1, m =>
    let x := readRows w p a stride n k m
    let y := hallRead w p (gaOff a + k * stride) n x.2
    (x.1 ++ [y.1], y.2)

/-! ### Element streams -/

/-- The values of `n` elements of a specifier packed from the first byte; an integer element has its zero point taken
away (R162). -/
def elemVal (sp : Byte) (z : Int) (l : List Byte) (i : Nat) : Val :=
  let v := decode (spCode sp) (spMx sp) (elemAt (spFmt sp).bits l i)
  if z = 0 then v else vadd v (ofInt (-z))

/-- A zero point's value from its byte (R162); a 4-bit one sits in the low bits. -/
def zeroPoint (sp b : Byte) : Int := decIntN (spFmt sp) b.toNat

/-- Whether a zero point may stand with a specifier (R162): an integer operand of 8 or 4 bits, MX clear. Of the byte that holds a
4-bit one, a non-zero upper half refuses a per-tensor zero point and is ignored in a per-column or per-row one (DESIGN CHOICE, log
entry 157). -/
def zpOk (sp b : Byte) : Bool :=
  isIntFmt (spFmt sp) && (spFmt sp).bits ≤ 8 && !spMx sp && ((spFmt sp).bits = 8 || b.toNat < 16)

/-- Elements converted to a format: their bits, and how many were clipped and NaN-replaced. -/
def convBits (sp : Byte) (vs : List Val) : List Nat × Nat × Nat :=
  let cs := vs.map (convert sp 0 none)
  (cs.map (·.bits), (cs.filter (·.clip)).length, (cs.filter (·.nanrep)).length)

/-- Elements converted to a format: their bytes, and how many were clipped and NaN-replaced. -/
def convAll (sp : Byte) (vs : List Val) : List Byte × Nat × Nat :=
  let c := convBits sp vs
  (packElems (spFmt sp).bits c.1, c.2)

/-- Bytes of `n` elements of a specifier. -/
def spLen (sp : Byte) (n : Nat) : Nat := packedLen (spFmt sp).bits n

end Sys2Proof.Machine
end

