-- ==== Sys2Proof/Machine/GalArr.lean ====
section
/-! DEFINITION. The Gallery array (chapter 5): operand pairs, the block sums of a stream of rows through a stationary
operand, the checksum unit, and the cycle schedule of loads, vectors and read-out. -/

namespace Sys2Proof.Machine

/-- The tile depth, the cycles of a vector and whether the pair is an integer pair, for the pairs a Gallery accepts
(R187 to R189). -/
def pairInfo (a w : Byte) : Option (Nat × Nat × Bool) :=
  let x := spCode a
  let y := spCode w
  let f8 (c : Nat) : Bool := 0x10 ≤ c && c ≤ 0x14
  let i4 (c : Nat) : Bool := c = 0x21 || c = 0x23
  let i8 (c : Nat) : Bool := 0x20 ≤ c && c ≤ 0x23
  if x = 0x14 ∧ y = 0x14 then some (64, 1, false)
  else if i4 x && i4 y then some (64, 1, true)
  else if f8 x && f8 y then some (32, 1, false)
  else if i8 x && i8 y then some (32, 1, true)
  else if (x = 1 ∧ y = 1) ∨ (x = 2 ∧ y = 2) then some (32, 2, false)
  else none

/-- A stationary operand as the array holds it: columns, blocks along K, the value of element `k` of a block in a column, as the weight
registers give it and as the weight stream brought it (R213), and the block's scale (R164, R190, R192). -/
structure Station where
  n : Nat
  blocks : Nat
  int : Bool
  w : Nat → Nat → Nat → Val
  stream : Nat → Nat → Nat → Val
  ws : Nat → Nat → Val

/-- One activation row: its accumulator row, the 32 values of a block, and the block's scale. -/
structure ActRow where
  row : Nat
  xs : Nat → List Val
  sx : Nat → Val

/-- `n` blocks of a stationary operand from block `b0` on, and a row's blocks from there. -/
def Station.part (st : Station) (b0 n : Nat) : Station :=
  { st with blocks := n, w := fun b => st.w (b + b0), stream := fun b => st.stream (b + b0), ws := fun b => st.ws (b + b0) }
def ActRow.from_ (a : ActRow) (b0 : Nat) : ActRow := { a with xs := fun b => a.xs (b + b0), sx := fun b => a.sx (b + b0) }

/-- Runs `tot` blocks from block `b0` on in stretches, `run` each, and between them, before a block that it names, makes each of the
changes listed. -/
def stretches {S : Type} (run : Nat → Nat → S → S) (tot b0 : Nat) : List (Nat × (S → S)) → S → S
  | [], s => run b0 (tot - b0) s
  | (b, f) :: r, s =>
    if b ≤ b0 then stretches run tot b0 r (f s)
    else stretches run tot (min b tot) r (f (run b0 (min b tot - b0) s))

def one : Val := .fin false 1 0
def zeroV : Val := .fin false 0 0

/-- The rounded block sums of a column in increasing K order (R167, R168). -/
def colSums (st : Station) (a : ActRow) (j : Nat) : List W64 :=
  (List.range st.blocks).map (fun b => blockA48 (a.xs b) ((List.range 32).map (st.w b j)) (a.sx b) (st.ws b j))

/-- The block sums of a column beyond N, whose weights are zero (R192, R169). -/
def padSums (st : Station) (a : ActRow) : List W64 :=
  (List.range st.blocks).map (fun b => blockA48 (a.xs b) (List.replicate 32 zeroV) (a.sx b) one)

/-- Block sums added to an accumulator value, the first replacing it when `rep` (R168, R196). -/
def accum (rep : Bool) (v : W64) (bs : List W64) : W64 :=
  match rep, bs with
  | true, b :: r => r.foldl a48Add b
  | _, bs => bs.foldl a48Add v

def accKey (row col : Nat) : Nat := row * 1024 + col

/-- Updates one accumulator row, its 1,024 columns together (R192, R196). -/
def accRow (rep : Bool) (st : Station) (a : ActRow) (acc : NMap W64) : NMap W64 :=
  let pads := padSums st a
  let pv := accum true 0 pads
  let acc1 := (List.range st.n).foldl (fun acc j =>
    nset 0 acc (accKey a.row j) (accum rep (nget 0 acc (accKey a.row j)) (colSums st a j))) acc
  let inPad (k : Nat) : Bool := k / 1024 = a.row && st.n ≤ k % 1024
  if pads.all (· == 0) then
    if rep then acc1.filter (fun x => !inPad x.1)
    else (acc1.map (fun x => if inPad x.1 then (x.1, a48Add x.2 0) else x)).filter (fun x => !(inPad x.1 && x.2 = 0))
  else (List.range (1024 - st.n)).foldl (fun acc i =>
    let k := accKey a.row (st.n + i)
    nset 0 acc k (if rep then pv else accum false (nget 0 acc k) pads)) acc1

/-! ### The checksum unit (R213 to R219) -/

/-- The signed, or absolute, weight sum of one K element over an array row's 32 columns, rounded to A48 (R213). -/
def weightSum (st : Station) (abs : Bool) (i b k : Nat) : Val :=
  let js := (List.range 32).filter (fun j => 32 * i + j < st.n)
  a48 (toA48 (js.foldl (fun s j =>
    let v := vmul (st.ws b (32 * i + j)) (st.stream b (32 * i + j) k)
    vadd s (if abs then vabs v else v)) zeroV))

/-- A block's contribution to E, or to Mag (R214; log entry 13: the exact sum rounded once, within the bound). -/
def checkBlock (st : Station) (abs : Bool) (a : ActRow) (i b : Nat) : W64 :=
  let ps := List.zipWith (fun k x => vmul (if abs then vabs x else x) (weightSum st abs i b k)) (List.range 32) (a.xs b)
  toA48 (vmul (ps.foldl vadd zeroV) (a.sx b))

/-- Updates the checksum values of one row and one array row (R214). -/
def checkCell (rep : Bool) (st : Station) (a : ActRow) (i : Nat) (c : ChkCell) : ChkCell :=
  let es := (List.range st.blocks).map (checkBlock st false a i)
  let ms := (List.range st.blocks).map (checkBlock st true a i)
  { e := accum rep c.e es, mag := accum rep c.mag ms, nb := (if rep then 0 else c.nb) + st.blocks, int := st.int }

def cellKey (row i : Nat) : Nat := row * 32 + i

/-- Streams rows through the stationary operand: the accumulator rows and, in checksum mode, the checksum values (R196, R214). -/
def streamRows (chk rep : Bool) (st : Station) (rows : List ActRow) (g : Gal) : Gal :=
  rows.foldl (fun g a =>
    { g with
      acc := accRow rep st a g.acc
      chk := if chk then (List.range 32).foldl (fun c i =>
          mapAt ChkCell.init c (cellKey a.row i) (checkCell rep st a i)) g.chk
        else g.chk }) g

/-- The uncorrected errors of weight registers (R223): the array works with what each register reads as, `elem` its place along K; the
checksum unit forms its sums of the weight stream (R213). -/
def readWeights (sp : Byte) (hits : List EccHit) (st : Station) : Station :=
  { st with w := fun b j k =>
      match eccRead hits (fun h => h.store = 1 && h.col = j && h.elem = b * 32 + k) with
      | some v => decode (spCode sp) (spMx sp) v.toNat
      | none => st.w b j k }

/-- Streams rows through the stationary operand, where uncorrected errors of accumulator entries stand: before block `elem` of the
operand, the entry reads as its value in error (R223). -/
def streamHits (chk rep : Bool) (st : Station) (rows : List ActRow) (hits : List EccHit) (g : Gal) : Gal :=
  stretches (fun b0 n g => if n = 0 then g else streamRows chk (rep && b0 = 0) (st.part b0 n) (rows.map (·.from_ b0)) g) st.blocks 0
    ((hits.filter (fun h => h.unc && !h.odd && h.store = 0)).map (fun h =>
      (h.elem, fun g => { g with acc := nset 0 g.acc (accKey (h.row % 256) (h.col % 1024)) h.val }))) g

/-- The A48 sum of a group's 32 values in increasing column order (R215). -/
def groupSum (vs : List W64) : W64 :=
  match vs with
  | [] => 0
  | v :: r => r.foldl a48Add v

/-- What a comparison of E and the sum S gives: none when it is not made (R216 to R218). -/
def checkGroup (c : ChkCell) (sum : W64) : Option Bool :=
  let s := a48 sum
  let e := a48 c.e
  let mag := a48 c.mag
  if !isFinV e || !isFinV s || !isFinV mag then none
  else
    let tau := if c.int && vcmp mag (.fin false 1 49) = some .lt then zeroV
      else vscale (vmul mag (ofInt (2 * c.nb + 40))) (-49)
    some (vcmp (vabs (vadd s (vneg e))) tau != some .gt)

/-- Whether a Gallery's checksum column works for a partition (R220). -/
def chkOn (m : Module) (p : Nat) : Bool := (prec m p).check = 1

/-! ### The cycle schedule (R193 to R201) -/

/-- The row groups that a run of rows touches (R196, R197). -/
def groupsOf (row0 n : Nat) : List Nat := (List.range ((row0 + n - 1) / 32 - row0 / 32 + 1)).map (· + row0 / 32)

/-- Adds `n` cycles of a kind to a schedule: its stretches, newest first, and the cycle after the last. -/
def addSeg (k : SegKind) (per n : Nat) (x : List Seg × Nat) : List Seg × Nat :=
  if n = 0 then x
  else
    match x.1 with
    | s :: r =>
      if s.kind = k then ({ s with len := s.len + n } :: r, x.2 + n)
      else ({ kind := k, start := x.2, len := n, per := per } :: s :: r, x.2 + n)
    | [] => ([{ kind := k, start := x.2, len := n, per := per }], x.2 + n)

/-- The cycles of one tile: its 32 load rows, then its vectors, each of which waits until its row group is free (R193, R198). The Hall's
deliveries are numbered from `i0` on, the load rows first; `stalls` names a delivery once for each cycle in which it does not come
(R200). -/
def tileSegs (stalls : List Nat) (free : NMap Nat) (c : Nat) (rows : List Nat) (i0 : Nat) (x : List Seg × Nat) : List Seg × Nat :=
  let x := (List.range 32).foldl (fun x i => addSeg .load 1 1 (addSeg .loadStall 1 (stalls.count (i0 + i)) x)) x
  (List.zip (List.range rows.length) rows).foldl (fun x e =>
    let x := addSeg .vecStall 1 (stalls.count (i0 + 32 + e.1)) x
    let x := addSeg .wait 1 (nget 0 free (e.2 / 32) - x.2) x
    addSeg .vec c c x) x

/-- The schedule of `kt` tiles and their vectors from cycle `s` on: its stretches, newest first, and the cycle after the last vector
(R194, R201). -/
def mmSched (g : Gal) (s : Nat) (stalls : List Nat) (c kt : Nat) (rows : List Nat) : List Seg × Nat :=
  (List.range kt).foldl (fun x t => tileSegs stalls g.grpFree c rows (t * (32 + rows.length)) x) ([], s)

/-- The cycles of the kinds named in a schedule. -/
def segSum (ks : List SegKind) (l : List Seg) : Nat := ((l.filter (fun s => ks.contains s.kind)).map (·.len)).sum

/-- The cycles of a run of cycles that have not passed at cycle `now`. -/
def spanLeft (now a b : Nat) : Nat := b - max now a

/-- The events of the kinds named, cycles or vectors, that have not come to an end at cycle `now`. -/
def segsLeft (now : Nat) (ks : List SegKind) (l : List Seg) : Nat :=
  ((l.filter (fun s => ks.contains s.kind)).map (fun s => ceilDiv (spanLeft now s.start (s.start + s.len)) s.per)).sum

/-- The read-out or preload of row groups from a cycle on: its first and last cycle, and when each group is free (R197). -/
def rdSched (g : Gal) (t : Nat) (gs : List Nat) : Nat × Nat × NMap Nat :=
  let a := max t g.rdFree
  (a, a + 32 * gs.length - 1, (gs.foldl (fun (x : NMap Nat × Nat) k => (nset 0 x.1 k (x.2 + 32), x.2 + 32)) (g.grpFree, a)).1)

def overlapLen (a b c d : Nat) : Nat := min b d - max a c

/-- The cycles that a read-out or preload of row groups, ready in cycle `t`, waits under R198 for the first of them that is held. -/
def rdWait (g : Gal) (t : Nat) (gs : List Nat) : Nat :=
  (List.zip (List.range gs.length) gs).foldl (fun w e => max w (nget 0 g.grpFree e.2 - (t + 32 * e.1))) 0

/-- The cycles of a descriptor's read-out or preload, as a run up to a cycle not in it. -/
def GalOp.rdSpan (o : GalOp) : Nat × Nat := (o.rdStart, if o.readout || o.preload then o.rdEnd + 1 else o.rdStart)

/-- The cycles of a stream from `s` up to `e` that no read-out or preload already counts (R226). -/
def streamBusy (g : Gal) (s e : Nat) : Nat := g.ops.foldl (fun n o => n - overlapLen s e o.rdSpan.1 o.rdSpan.2) (e - s)

/-- The Gallery's array takes a stream of tiles and vectors: its cycles and counts (R226). A count is added whole when its stream
starts, and what has not passed is left out when the register is read. -/
def galStream (s e : Nat) (segs : List Seg) (vecs : Nat) (g : Gal) : Gal :=
  { g with
    busyTo := e, lastUpd := max g.lastUpd (e + 39), busy := g.busy + BitVec.ofNat 64 (streamBusy g s e)
    vec := g.vec + BitVec.ofNat 64 vecs, stallLoad := g.stallLoad + BitVec.ofNat 64 (segSum [.load, .loadStall] segs)
    stallHall := g.stallHall + BitVec.ofNat 64 (segSum [.loadStall, .vecStall] segs)
    stallIlk := g.stallIlk + BitVec.ofNat 64 (segSum [.wait] segs) }

/-- The streams on a Gallery's array, its own descriptors' and its Balcony's UPs', as runs of cycles up to a cycle not in them. -/
def galStreams (x : Gal) (b : Bal) : List (Nat × Nat) :=
  (x.ops.filter (fun o => o.desc.ty = 0x10)).map (fun o => (o.startC, o.nextC)) ++ b.ups.map (fun o => (o.startC, o.endC))

/-- The cycles of loading, streaming and reading out that have not passed at cycle `now`. -/
def busyLeft (now : Nat) (x : Gal) (b : Bal) : Nat :=
  ((galStreams x b).map (fun s => spanLeft now s.1 s.2)).sum + (x.ops.map (fun o => spanLeft now o.rdSpan.1 o.rdSpan.2)).sum
  - ((galStreams x b).map (fun s => (x.ops.map (fun o => overlapLen (max now s.1) s.2 o.rdSpan.1 o.rdSpan.2)).sum)).sum

/-- The stretches of all that has started on a Gallery's array. -/
def galSegs (x : Gal) (b : Bal) : List Seg := x.ops.flatMap (·.segs) ++ b.ups.flatMap (·.segs)

/-- What of GAL_BUSY, GAL_VEC, GAL_STALL_LOAD, GAL_STALL_HALL and GAL_STALL_ILK has been added and has not come to pass at cycle `now`
(R226). -/
def galLeft (now : Nat) (x : Gal) (b : Bal) : W64 × W64 × W64 × W64 × W64 :=
  let l (ks : List SegKind) : W64 := BitVec.ofNat 64 (segsLeft now ks (galSegs x b))
  (BitVec.ofNat 64 (busyLeft now x b), l [.vec], l [.load, .loadStall], l [.loadStall, .vecStall], l [.wait])

/-- In full mode the odd member of a pair runs the descriptor in lockstep (R221, R257): it holds what the even one holds, and its
counters rise as the even one's do. `m0` is the module before the descriptor's step. -/
def lockstep (g p : Nat) (m0 m : Module) : Module :=
  if fullMode m p && g % 2 = 0 then
    let e := m.gal' g
    let e0 := m0.gal' g
    let b := m.bal' g
    let b0 := m0.bal' g
    let x := m.gal' (g + 1)
    let y := m.bal' (g + 1)
    let m := m.setGal (g + 1) { x with
      acc := e.acc, weights := e.weights, chk := e.chk, busy := x.busy + (e.busy - e0.busy), vec := x.vec + (e.vec - e0.vec)
      stallLoad := x.stallLoad + (e.stallLoad - e0.stallLoad), stallHall := x.stallHall + (e.stallHall - e0.stallHall)
      stallIlk := x.stallIlk + (e.stallIlk - e0.stallIlk), clip := satAdd x.clip (e.clip - e0.clip).toNat
      nanrep := satAdd x.nanrep (e.nanrep - e0.nanrep).toNat, lastProgress := e.lastProgress }
    m.setBal (g + 1) { y with
      slots := b.slots, scratch := b.scratch, tags := b.tags, slice := b.slice, taps := y.taps + (b.taps - b0.taps)
      upVec := y.upVec + (b.upVec - b0.upVec), stallHall := y.stallHall + (b.stallHall - b0.stallHall)
      tapMiss := y.tapMiss + (b.tapMiss - b0.tapMiss), clip := satAdd y.clip (b.clip - b0.clip).toNat
      nanrep := satAdd y.nanrep (b.nanrep - b0.nanrep).toNat, tagBad := satAdd y.tagBad (b.tagBad - b0.tagBad).toNat
      lastProgress := b.lastProgress }
  else m

/-! ### Weight tiles in memory (R205) -/

/-- A stationary operand read from memory as Gallery weight tiles: `tiles` one per tile, `scales` the scale bytes of each
tile, `zp` the zero point of each column. -/
def tileStation (sp : Byte) (kd n kt : Nat) (int : Bool) (tiles scales : List (List Byte)) (zp : Nat → Int) : Station :=
  { n := n
    blocks := kt * kd / 32
    int := int
    w := fun b j k => elemVal sp (zp j) (tiles.getD (b * 32 / kd) []) (j * kd + b * 32 % kd + k)
    stream := fun b j k => elemVal sp (zp j) (tiles.getD (b * 32 / kd) []) (j * kd + b * 32 % kd + k)
    ws := fun b j =>
      if spMx sp then scaleVal ((scales.getD (b * 32 / kd) []).getD (j * (kd / 32) + b * 32 % kd / 32) 0) else one }

end Sys2Proof.Machine
end

