-- ==== Sys2Proof/Machine/Bal.lean ====
section
/-! DEFINITION. Balconies (chapter 6): slots, taps of a MATMUL, up-projection passes and reads of the scratch. -/

namespace Sys2Proof.Machine

/-! ### Descriptor checks -/

/-- What EQ.PUSH checks of a Balcony descriptor beyond its header (R21, R25, R57, R233). -/
def balPushOk (d : Desc) : Bool :=
  match d.ty.toNat with
  | 0x20 => d.len = 272 && d.flags = 0 &&
      (List.range 8).all (fun s =>
        let o := 16 + 32 * s
        zeros d.bytes (o + 28) 4 && nfld (d.f (o + 22) 1) 6 1 = 0 && (!(d.b (o + 22)).getLsbD 7 || spOk (d.b (o + 23))))
  | 0x21 => d.len = 32 && d.flags.toNat < 2
  | 0x22 => d.len = 64 && d.flags = 0 && zeros d.bytes 48 16 && nfld (d.f 40 2) 11 5 = 0 && nfld (d.f 44 1) 3 5 = 0
      && nfld (d.f 45 1) 6 2 = 0 && spOk (d.b 46) && spOk (d.b 47)
  | 0x23 => d.len = 48 && d.flags.toNat < 2 && zeros d.bytes 41 7 && nfld (d.f 38 1) 4 4 = 0 && nfld (d.f 39 1) 6 2 = 0
      && spOk (d.b 40)
  | _ => false

/-- Whether a descriptor stands in the queue of the odd Balcony of a full-mode pair (R255). -/
def oddPair (m : Module) (u p : Nat) : Bool := fullMode m p && u % 2 = 1

/-- The slot entry `s` of a SLOTS body (R235). -/
def slotEntry (d : Desc) (s : Nat) : Slot :=
  let o := 16 + 32 * s
  if (d.b (o + 22)).getLsbD 7 then
    { valid := true, aAddr := d.a o, aScl := d.a (o + 8), stride := d.f (o + 16) 4, kt := d.f (o + 20) 2,
      r := nfld (d.f (o + 22) 1) 0 6 + 1, fmt := d.b (o + 23), variant := BitVec.ofNat 32 (d.f (o + 24) 4) }
  else Slot.init

/-- Whether a slot's format is an integer or 16-bit format outside R188, INT32 among the formats there are (R150, R255); another
format that no pair accepts fails at the tap. -/
def slotFmtBad (sp : Byte) : Bool :=
  (isIntFmt (spFmt sp) || (spFmt sp).bits = 16) && !((0x20 ≤ spCode sp && spCode sp ≤ 0x23) || spCode sp = 1 || spCode sp = 2)

/-- Whether an MX operand of several tiles has a stride that does not start every block at a multiple of 32 elements (R160). -/
def mxStrideBad (sp : Byte) (stride tiles : Nat) : Bool := spMx sp && tiles > 1 && stride * 8 % (32 * (spFmt sp).bits) != 0

/-- The tiles and scales of a slot at a tile depth lie in the partition's Hall (R236, R253). -/
def slotRanges (m : Module) (p kd kt : Nat) (s : Slot) : Bool :=
  hallRows m p s.aAddr s.stride kt (spLen s.fmt (s.r * kd)) &&
  (!spMx s.fmt || hallRows m p s.aScl 128 kt (s.r * (kd / 32)))

/-- The refusal of a SLOTS, at the head (R235, R255). R255 names no code for a stride that R160 refuses: 0x13 (DESIGN CHOICE, log entry
159). -/
def slotsRefusal (m : Module) (b : Nat) (d : Desc) : Option Nat :=
  let ss := ((List.range 8).map (slotEntry d)).filter (·.valid)
  firstCode [
    (0x10, ss.any (fun s => s.kt = 0)),
    (0x11, ss.any (fun s => slotFmtBad s.fmt)),
    (0x12, ss.any (fun s => !slotRanges m d.part 32 s.kt s)),
    (0x13, ss.any (fun s => gaOff s.aAddr % 256 != 0 || s.stride % 256 != 0 || s.stride < spLen s.fmt (s.r * 32)
      || mxStrideBad s.fmt s.stride s.kt)),
    (0x15, oddPair m b d.part)]

/-- The refusal of a DOWN at the head: its tag range is known only at the tap, so that its address alone is checked. -/
def downRefusal (m : Module) (b : Nat) (d : Desc) : Option Nat :=
  firstCode [(0x12, !hallAt m d.part (d.a 24) 0 1), (0x15, oddPair m b d.part)]

/-- Rank columns, rows and the first row of an UP (R245). -/
def upRank (d : Desc) : Nat := nfld (d.f 45 1) 0 6 + 1
def upRows (d : Desc) : Nat := d.f 42 1 + 1
def upRow0 (d : Desc) : Nat := d.f 43 1
def upSlot (d : Desc) : Nat := nfld (d.f 44 1) 0 3
def upCols (d : Desc) : Nat := nfld (d.f 40 2) 0 11

/-- The accepted formats of h as fed (R245). -/
def hFmtOk (sp : Byte) : Bool := !spMx sp && (spCode sp = 1 || spCode sp = 2 || spCode sp = 0x10 || spCode sp = 0x11)

/-- Tiles of an UP (R246). -/
def upTiles (d : Desc) : Nat :=
  match pairInfo (d.b 46) (d.b 47) with
  | some x => ceilDiv (upRank d) x.1
  | none => 1

def upKd (d : Desc) : Nat :=
  match pairInfo (d.b 46) (d.b 47) with
  | some x => x.1
  | none => 32

/-- The refusal of an UP at the head (R255). R255 names no code for a stride that R160 refuses: 0x13 (DESIGN CHOICE, log entry 159). -/
def upRefusal (m : Module) (b : Nat) (d : Desc) : Option Nat :=
  let kd := upKd d
  let n := upCols d
  let tile := spLen (d.b 47) (n * kd)
  firstCode [
    (0x10, upRow0 d + upRows d > 256 || n = 0 || n > 1024 || !(nget Slot.init (m.bal' b).slots (upSlot d)).valid),
    (0x11, !hFmtOk (d.b 46) || (pairInfo (d.b 46) (d.b 47)).isNone),
    (0x12, !hallRows m d.part (d.a 16) (d.f 32 4) (upTiles d) tile
      || (spMx (d.b 47) && !hallRows m d.part (d.a 24) 2048 (upTiles d) (n * (kd / 32)))),
    (0x13, gaOff (d.a 16) % 256 != 0 || d.f 32 4 % 256 != 0 || d.f 32 4 < tile
      || mxStrideBad (d.b 47) (d.f 32 4) (upTiles d)),
    (0x15, oddPair m b d.part)]

def scrRows (d : Desc) : Nat := d.f 36 1 + 1
def scrRow0 (d : Desc) : Nat := d.f 37 1
def scrCols (d : Desc) : Nat := nfld (d.f 39 1) 0 6 + 1
def scrSel (d : Desc) : Nat := nfld (d.f 38 1) 0 4

/-- The tag of a row as a slot, none for a token with no adapter (R232). -/
def tagSlot (x : Bal) (row : Nat) : Option Nat :=
  let t := nget 0 x.tags row
  let s := fld t 0 3
  if t.getLsbD 7 || fld t 3 4 != 0 || !(nget Slot.init x.slots s).valid then none else some s

/-- Whether a tag counts in ADP_TAG_BAD (R232). -/
def tagBad (x : Bal) (t : Byte) : Bool :=
  fld t 3 4 != 0 || (!t.getLsbD 7 && !(nget Slot.init x.slots (fld t 0 3)).valid)

/-- The rows an SCR_READ selects (R251, R252). -/
def scrSelected (x : Bal) (d : Desc) : List Nat :=
  ((List.range (scrRows d)).map (· + scrRow0 d)).filter (fun r => scrSel d = 15 || tagSlot x r = some (scrSel d))

/-- The refusal of an SCR_READ (R255). -/
def scrRefusal (m : Module) (b : Nat) (d : Desc) : Option Nat :=
  let len := spLen (d.b 40) (scrCols d)
  let x := m.bal' b
  let sel := scrSelected x d
  let at_ (i r : Nat) : Nat := (if d.fl 0 then i else r - scrRow0 d) * d.f 32 4
  let c := spCode (d.b 40)
  firstCode [
    (0x10, scrRow0 d + scrRows d > 256 || (scrSel d > 7 && scrSel d != 15)),
    (0x11, spMx (d.b 40) || !(c = 0 || c = 1 || c = 2 || c = 0x30)),
    (0x12, !hallAt m d.part (d.a 16) 0 1
      || !(List.zipWith (fun i r => hallAt m d.part (d.a 16) (at_ i r) len) (List.range sel.length) sel).all id
      || (d.a 24 != 0 && !hallAt m d.part (d.a 24) 0 (8 + sel.length))),
    (0x13, gaOff (d.a 16) % 8 != 0 || d.f 32 4 % 8 != 0),
    (0x15, oddPair m b d.part)]

/-! ### ECC and completion -/

/-- Hands the ECC errors that a unit meets to it, and those of the odd member of a full-mode pair to that one (R221, R257). -/
def eccBoth (p u : Nat) (hits : List EccHit) (f : Nat → List EccHit → Module → Module) (m : Module) : Module :=
  let m := f u (hits.filter (!·.odd)) m
  if fullMode m p && u % 2 = 0 then f (u + 1) (hits.filter (·.odd)) m else m

/-- ECC errors met by a Balcony (R258, R261). -/
def balEcc (d : Desc) (b : Nat) (hits : List EccHit) (m : Module) : Module :=
  let x := m.bal' b
  let last := match eccLastHit hits with
    | some h => pack [(h.row % 256, 16), (h.store % 4, 14), (h.col % 64, 0)]
    | none => x.eccLast
  eccEvents 6 b d hits (m.setBal b { x with
    eccC := satAdd x.eccC (eccCount false hits), eccU := satAdd x.eccU (eccCount true hits), eccLast := last })

/-- A Balcony's stores as its reads give them where uncorrected errors stand: scratch entries and tags (R223, R258). -/
def balRead (hits : List EccHit) (x : Bal) : Bal :=
  (hits.filter (fun h => h.unc && !h.odd)).foldl (fun x h =>
    if h.store = 1 then { x with scratch := nset 0 x.scratch (h.row % 256 * 64 + h.col % 64) h.val }
    else if h.store = 2 then { x with tags := nset 0 x.tags (h.row % 256) (h.val.setWidth 8) }
    else x) x

/-- The cycle in which the last UP in the pipeline completes. -/
def lastUpC (x : Bal) : Nat := x.ups.foldl (fun a o => max a o.doneC) 0

/-- Completes what has ended, in the order of selection: UPs, then a tapped DOWN (R234, R244). -/
def settleBal (b : Nat) (m : Module) : Module :=
  let x := m.bal' b
  let due := x.ups.filter (fun o => o.doneC ≤ m.clk.cycle)
  let m := m.setBal b { x with
    ups := x.ups.filter (fun o => m.clk.cycle < o.doneC)
    lastProgress := if due.isEmpty then x.lastProgress else m.clk.elapsed }
  let m := due.foldl (fun m o => complete 1 b o.desc o.failed m) m
  let x := m.bal' b
  match x.held with
  | some o =>
    if o.phase = 2 && o.doneC ≤ m.clk.cycle && x.ups.isEmpty then complete 1 b o.desc o.failed (m.setBal b { x with held := none })
    else m
  | none => m

/-- Lets time pass until the Balcony may select a descriptor: a tapped DOWN has completed, and an UP's last vector has entered (R234). -/
def balTurn (b : Nat) (m : Module) : Module :=
  let x := m.bal' b
  let t := match x.held with
    | some o => if o.phase = 2 then max o.doneC (lastUpC x) else 0
    | none => 0
  settleBal b (passToCycle (max t x.freeC) m)

/-- A descriptor refused at the head of its queue (R255): it completes after all that was selected before it (R234). -/
def adpRefuse (b code : Nat) (d : Desc) (m : Module) : Module :=
  let m := settleBal b (passToCycle (lastUpC (m.bal' b)) m)
  let x := m.bal' b
  bodyRefused 1 b code d (m.setBal b { x with refused := x.refused + 1 })

/-- A DOWN ends at its tap without work: it completes, after the UPs selected before it (R234). -/
def downEnd (b : Nat) (o : BalOp) (m : Module) : Module :=
  settleBal b (m.setBal b { m.bal' b with held := some { o with phase := 2, doneC := m.clk.cycle, failed := true } })

/-- A DOWN refused at the tap (R240, R255). -/
def downRefuse (b code : Nat) (o : BalOp) (m : Module) : Module :=
  let x := m.bal' b
  downEnd b o (ev 6 code b 2 o.desc.part o.desc.ctx o.desc.seq (m.setBal b { x with refused := x.refused + 1 }))

/-- The Balcony's next descriptor of a type, when it can be selected: no DOWN is held, and the unit can start (R234). -/
def balHead (m : Module) (b ty : Nat) : Option (QKey × Desc) :=
  if (m.bal' b).held.isNone && canStart m 1 b then
    match headOwned m 1 b with
    | some (k, d) => if d.ty.toNat = ty then some (k, d) else none
    | none => none
  else none

/-! ### SLOTS and DOWN (R235 to R239) -/

def execSlots (b : Fin 64) (s : State) : Out :=
  let m := balTurn b.val (settleBal b.val s.m)
  match balHead m b.val 0x20 with
  | none => stop "SLOTS"
  | some (k, d) =>
    let m0 := dequeue k m
    match slotsRefusal m0 b.val d with
    | some c => done s (adpRefuse b.val c d m0)
    | none =>
      let m := descStart 1 b.val d m0
      let m := settleBal b.val (passToCycle (max (m.clk.cycle + 16) (lastUpC (m.bal' b.val))) m)
      let m := m.setBal b.val { m.bal' b.val with
        slots := (List.range 8).foldl (fun l i => nset Slot.init l i (slotEntry d i)) [] }
      done s (complete 1 b.val d false (lockstep b.val d.part m0 m))

def execDown (b : Fin 64) (s : State) : Out :=
  let m := balTurn b.val (settleBal b.val s.m)
  match balHead m b.val 0x21 with
  | none => stop "DOWN"
  | some (k, d) =>
    let m := dequeue k m
    match downRefusal m b.val d with
    | some c => done s (adpRefuse b.val c d m)
    | none =>
      let m := descStart 1 b.val d m
      let x := m.bal' b.val
      done s (m.setBal b.val { x with
        held := some { desc := d, phase := 1, startC := m.clk.cycle, endC := 0, segs := [], doneC := 0, failed := false }
        lastProgress := m.clk.elapsed })

/-! ### The tap (R239 to R244) -/

/-- Whether every valid slot may be tapped by a MATMUL (R240, R162, R190). -/
def tapOk (x : Bal) (aSp : Byte) (kd c kt : Nat) : Bool :=
  x.slots.all (fun e => !e.2.valid || (decide (kt ≤ e.2.kt) &&
    (match pairInfo aSp e.2.fmt with
     | some i => i.1 = kd && i.2.1 = c
     | none => false)))

/-- Updates one scratch row from its slot's tiles (R242, R243). -/
def scratchRow (rep : Bool) (x : Bal) (sts : Nat → Station) (a : ActRow) (sc : NMap W64) : NMap W64 :=
  match tagSlot x a.row with
  | none => if rep then sc.filter (fun e => e.1 / 64 != a.row) else sc
  | some s =>
    let st := sts s
    let r := (nget Slot.init x.slots s).r
    (List.range 64).foldl (fun sc j =>
      nset 0 sc (a.row * 64 + j) (if j < r then accum rep (nget 0 sc (a.row * 64 + j)) (colSums st a j) else 0)) sc

/-- Reads the tiles of every valid slot for a MATMUL (R236, R241): the operand of each, and the tile of each that the slice store holds
last (R231). -/
def slotStations (w p kd kt : Nat) (int : Bool) (x : Bal) (m : Module) : List (Nat × Station) × NMap (List Byte) × Module :=
  x.slots.foldl (fun (a : List (Nat × Station) × NMap (List Byte) × Module) e =>
    if e.2.valid then
      let t := readRows w p e.2.aAddr e.2.stride (spLen e.2.fmt (e.2.r * kd)) kt a.2.2
      let sc := if spMx e.2.fmt then readRows w p e.2.aScl 128 (e.2.r * (kd / 32)) kt t.2 else ([], t.2)
      (a.1 ++ [(e.1, tileStation e.2.fmt kd e.2.r kt int t.1 sc.1 (fun _ => 0))], nset [] a.2.1 e.1 (t.1.getLastD []), sc.2)
    else a) ([], [], m)

def emptyStation : Station :=
  { n := 0, blocks := 0, int := false, w := fun _ _ _ => zeroV, stream := fun _ _ _ => zeroV, ws := fun _ _ => one }

/-- A slot's tiles as the slice store gives them where uncorrected errors stand: `row` the slot, `col` the rank column, `elem` the place
along K (R223, R258). -/
def readSlice (s : Nat) (sp : Byte) (hits : List EccHit) (st : Station) : Station :=
  { st with w := fun b j k =>
      match eccRead hits (fun h => h.store = 0 && h.row = s && h.col = j && h.elem = b * 32 + k) with
      | some v => decode (spCode sp) (spMx sp) v.toNat
      | none => st.w b j k }

/-- Updates the scratch rows of a tapped MATMUL (R242, R243); before block `elem`, an entry of the scratch in uncorrected error reads as
its value in error (R258). -/
def scratchRows (rep : Bool) (x : Bal) (sts : Nat → Station) (rows : List ActRow) (tot : Nat) (hits : List EccHit) (sc : NMap W64) :
    NMap W64 :=
  stretches (fun b0 n sc => if n = 0 then sc else
      rows.foldl (fun sc a => scratchRow (rep && b0 = 0) x (fun s => (sts s).part b0 n) (a.from_ b0) sc) sc) tot 0
    ((hits.filter (fun h => h.unc && !h.odd && h.store = 1)).map (fun h =>
      (h.elem, fun sc => nset 0 sc (h.row % 256 * 64 + h.col % 64) h.val))) sc

/-- A MATMUL that starts in Gallery `g` meets the DOWN its Balcony holds (R239 to R243): `rows` its activation rows, `doneC`
the cycle after its last update, `stalls` the cycles in which the Hall did not deliver, `ecc` the errors that the Balcony meets. -/
def tap (g : Nat) (d : Desc) (kd c kt : Nat) (int : Bool) (row0 n stalls doneC : Nat) (ecc : List EccHit) (rows : List ActRow)
    (m : Module) : Module :=
  let x := m.bal' g
  match x.held with
  | none => m
  | some h =>
    if h.phase != 1 || h.desc.ctx != d.ctx || h.desc.part != d.part then m
    else if h.desc.a 16 != d.seq then
      downEnd g h (ev 6 3 g 2 h.desc.part h.desc.ctx h.desc.seq (m.setBal g { x with tapMiss := x.tapMiss + 1 }))
    else if !hallAt m d.part (h.desc.a 24) 0 n then downRefuse g 0x12 h m
    else
      let (tags, m) := hallRead (g / 32) d.part (gaOff (h.desc.a 24)) n m
      let x := m.bal' g
      let x := { x with
        tags := (List.zip (List.range n) tags).foldl (fun l e => nset 0 l (row0 + e.1) e.2) x.tags
        tagBad := satAdd x.tagBad (tags.filter (tagBad x)).length }
      let m := m.setBal g x
      match firstCode [(0x12, x.slots.any (fun e => e.2.valid && !slotRanges m d.part kd kt e.2)),
          (0x14, !tapOk x (d.b 74) kd c kt)] with
      | some code => downRefuse g code h m
      | none =>
        let m := eccBoth d.part g ecc (balEcc h.desc) m
        let x := m.bal' g
        let (sts, slice, m) := slotStations (g / 32) d.part kd kt int x m
        let get (s : Nat) : Station :=
          readSlice s (nget Slot.init x.slots s).fmt ecc (nget emptyStation sts s)
        let tagged := { x with tags := (balRead ecc x).tags }
        m.setBal g { m.bal' g with
          held := some { h with phase := 2, doneC := doneC }, taps := x.taps + 1, slice := slice
          stallHall := x.stallHall + BitVec.ofNat 64 stalls
          scratch := scratchRows (!h.desc.fl 0) tagged get rows (kt * kd / 32) ecc x.scratch, lastProgress := m.clk.elapsed }

/-! ### UP (R245 to R250) -/

/-- The rows an UP passes (R248). -/
def upSelected (x : Bal) (d : Desc) : List Nat :=
  ((List.range (upRows d)).map (· + upRow0 d)).filter (fun r => tagSlot x r = some (upSlot d))

/-- Whether the Balcony's UP could start on the array now (R247). -/
def upReady (m : Module) (b : Nat) : Bool :=
  match balHead m b 0x22 with
  | some (_, d) => (upRefusal m b d).isNone && decide (max (m.bal' b).freeC (m.gal' b).busyTo ≤ m.clk.cycle)
  | none => false

/-- The values of one row as fed: each multiplied by SCALE and rounded once to H_FMT (R248). -/
def upFeed (x : Bal) (d : Desc) (row width : Nat) : List Conv :=
  let sc := f32 (BitVec.ofNat 32 (d.f 36 4))
  (List.range width).map (fun j => convert (d.b 46) 0 none (vmul (a48 (nget 0 x.scratch (row * 64 + j))) sc))

/-- An UP with rows to pass takes the array (R248, R249): its tiles, its vectors, their updates and the schedule of all that follows. -/
def upStart (b : Nat) (d : Desc) (stalls : List Nat) (kd c : Nat) (int : Bool) (ecc : List EccHit) (rows : List Nat) (m : Module) :
    List Conv × Module :=
  let kt := upTiles d
  let n := upCols d
  let w := b / 32
  let (tiles, m) := readRows w d.part (d.a 16) (d.f 32 4) (spLen (d.b 47) (n * kd)) kt m
  let (scales, m) := if spMx (d.b 47) then readRows w d.part (d.a 24) 2048 (n * (kd / 32)) kt m else ([], m)
  let x := m.bal' b
  let g := m.gal' b
  let feeds := rows.map (fun r => (r, upFeed (balRead ecc x) d r (kt * kd)))
  let convs := feeds.flatMap (·.2)
  let st := tileStation (d.b 47) kd n kt int tiles scales (fun _ => 0)
  let acts := feeds.map (fun e =>
    ({ row := e.1, xs := fun i => (List.range 32).map (fun j =>
         match e.2[i * 32 + j]? with
         | some v => decode (spCode (d.b 46)) false v.bits
         | none => zeroV), sx := fun _ => one } : ActRow))
  let u := m.clk.cycle
  let (segs, e) := mmSched g u stalls c kt rows
  let g1 := galStream u e segs (rows.length * kt) (streamRows (chkOn m d.part) false st acts g)
  let m := hallLost w (segSum [.loadStall, .vecStall] segs) m
  let m := addPGal d.part (streamBusy g u e) (m.setGal b { g1 with weights := tiles.getLastD [], lastProgress := m.clk.elapsed })
  (convs, m.setBal b { x with
    freeC := e
    ups := x.ups ++ [{ desc := d, phase := 4, startC := u, endC := e, segs := segs, doneC := e + 40, failed := false }]
    upVec := x.upVec + BitVec.ofNat 64 rows.length, clip := satAdd x.clip (convs.filter (·.clip)).length
    nanrep := satAdd x.nanrep (convs.filter (·.nanrep)).length, lastProgress := m.clk.elapsed })

def execUp (b : Fin 64) (stalls : List Nat) (pairDiff : Bool) (ecc : List EccHit) (errs : List MemErr) (s : State) : Out :=
  let m := balTurn b.val (settleBal b.val s.m)
  match balHead m b.val 0x22 with
  | none => stop "UP"
  | some (k, d) =>
    let m0 := dequeue k m
    match upRefusal m0 b.val d, pairInfo (d.b 46) (d.b 47) with
    | some c, _ => done s (adpRefuse b.val c d m0)
    | none, none => done s (adpRefuse b.val 0x11 d m0)
    | none, some (kd, c, int) =>
      let m := settleBal b.val (passToCycle (m0.gal' b.val).busyTo m0)
      let m := eccBoth d.part b.val ecc (balEcc d) (memErrs d.part errs (descStart 1 b.val d m))
      let x := m.bal' b.val
      let rows := upSelected (balRead ecc x) d
      let u := m.clk.cycle
      if rows.isEmpty then
        done s (settleBal b.val (m.setBal b.val { x with
          freeC := max u (lastUpC x)
          ups := x.ups ++ [{ desc := d, phase := 4, startC := u, endC := u, segs := [], doneC := max u (lastUpC x), failed := false }]
          lastProgress := m.clk.elapsed }))
      else
        let r := upStart b.val d stalls kd c int ecc rows m
        let m := lockstep b.val d.part m0 r.2
        done s (if fullMode m d.part then comparePair (b.val / 32) 1 b.val r.1.length (b2n pairDiff) d m else m)

/-- An UP completes in the cycle after its last update (R249). -/
def execUpComplete (b : Fin 64) (s : State) : Out :=
  match (s.m.bal' b.val).ups with
  | [] => stop "UP_COMPLETE"
  | o :: _ => done s (settleBal b.val (passToCycle o.doneC s.m))

/-! ### SCR_READ (R251, R252) -/

/-- Writes the selected rows (R252); `x` holds the scratch as it is read. -/
def scrWrite (b : Nat) (x : Bal) (d : Desc) (rows : List Nat) (m : Module) : Module :=
  (List.zip (List.range rows.length) rows).foldl (fun m e =>
    let vs := (List.range (scrCols d)).map (fun j => a48 (nget 0 x.scratch (e.2 * 64 + j)))
    let c := convAll (d.b 40) vs
    let off := (if d.fl 0 then e.1 else e.2 - scrRow0 d) * d.f 32 4
    let y := m.bal' b
    let m := m.setBal b { y with clip := satAdd y.clip c.2.1, nanrep := satAdd y.nanrep c.2.2 }
    hallWrite (b / 32) d.part (gaOff (d.a 16) + off) c.1 m) m

def execScrRead (b : Fin 64) (pairDiff : Bool) (ecc : List EccHit) (s : State) : Out :=
  let m := balTurn b.val (settleBal b.val s.m)
  match balHead m b.val 0x23 with
  | none => stop "SCR_READ"
  | some (k, d) =>
    let m0 := dequeue k m
    match scrRefusal m0 b.val d with
    | some c => done s (adpRefuse b.val c d m0)
    | none =>
      let m := eccBoth d.part b.val ecc (balEcc d) (descStart 1 b.val d m0)
      let x := balRead ecc (m.bal' b.val)
      let rows := scrSelected x d
      let m := passToCycle (max (m.clk.cycle + scrRows d + 8) (lastUpC x)) m
      let m := scrWrite b.val x d rows (settleBal b.val m)
      let m := if d.a 24 = 0 then m
        else hallWrite (b.val / 32) d.part (gaOff (d.a 24)) (natLe 8 rows.length ++ rows.map (BitVec.ofNat 8)) m
      let m := lockstep b.val d.part m0 m
      let m := if fullMode m d.part then comparePair (b.val / 32) 1 b.val (rows.length * scrCols d) (b2n pairDiff) d m else m
      done s (complete 1 b.val d false m)

/-- ADP_CNT_CLR: 0x018 to 0x048 to zero (R261). -/
def adpClear (x : Bal) : Bal :=
  { x with taps := 0, upVec := 0, stallHall := 0, refused := 0, tapMiss := 0, clip := 0, nanrep := 0, tagBad := 0 }

def execAdpCntClr (b : Fin 64) (s : State) : Out := done s (s.m.setBal b.val (adpClear (s.m.bal' b.val)))

end Sys2Proof.Machine
end

