-- ==== Sys2Proof/Machine/Flt.lean ====
section
/-! DEFINITION. Flight engines (chapter 10): MOVE, GATHER, PREFETCH and PUT, their bursts, and how they end. -/

namespace Sys2Proof.Machine

/-! ### Fields and checks (R391 to R406, R414) -/

def mvLen0 (d : Desc) : Nat := d.f 32 4
/-- CNT1 to CNT4, `i` from 0. -/
def mvCnt (d : Desc) (i : Nat) : Nat := nfld (d.f (36 + 4 * i) 4) 0 24
def mvSs (d : Desc) (i : Nat) : Int := sext (d.f (56 + 8 * i) 8) 64
def mvDs (d : Desc) (i : Nat) : Int := sext (d.f (88 + 8 * i) 8) 64
def mvAop (d : Desc) : Nat := nfld (d.f 52 1) 0 4
def mvHost (d : Desc) : Nat := fld d.flags 3 2
def mvAtomic (d : Desc) : Bool := d.ty = 0x60 && d.fl 1
def gaEntries (d : Desc) : Nat := nfld (d.f 32 4) 0 24
def gaScatter (d : Desc) : Bool := d.fl 1
def puLen (d : Desc) : Nat := d.f 48 4
def puChip (d : Desc) : Nat := d.f 52 2
def puPart (d : Desc) : Nat := d.f 54 1
def isPut (d : Desc) : Bool := d.ty = 0x63
def isGather (d : Desc) : Bool := d.ty = 0x61

def fltPushOk (d : Desc) : Bool :=
  let cnts := (List.range 4).all (fun i => nfld (d.f (36 + 4 * i) 4) 24 8 = 0)
  match d.ty.toNat with
  | 0x60 => d.len = 128 && nfld d.flags.toNat 5 7 = 0 && cnts && nfld (d.f 52 1) 4 4 = 0 && zeros d.bytes 53 3 && zeros d.bytes 120 8
  | 0x61 => d.len = 48 && nfld d.flags.toNat 3 9 = 0 && nfld (d.f 32 4) 24 8 = 0 && zeros d.bytes 36 12
  | 0x62 => d.len = 128 && nfld d.flags.toNat 5 7 = 0 && !d.fl 0 && !d.fl 1 && cnts && zeros d.bytes 24 8 && zeros d.bytes 52 4
      && zeros d.bytes 88 40
  | 0x63 => d.len = 64 && nfld d.flags.toNat 5 7 = 0 && !d.fl 0 && !d.fl 1 && zeros d.bytes 55 9
  | _ => false

/-- Where one side of a burst lies: this module, another board slot, or the host. -/
inductive Side where
  | here | slot (n : Nat) | host
deriving DecidableEq, Repr

def sideOf (m : Module) (a : W64) : Side := if gaHere m a then .here else .slot (gaSlot a)

def mvSrcSide (m : Module) (d : Desc) : Side := if mvHost d = 1 then .host else sideOf m (d.a 16)
def mvDstSide (m : Module) (d : Desc) : Side := if mvHost d = 2 then .host else sideOf m (d.a 24)

/-- The bounding range of one side: the sums of its negative and of its positive strides (R397). -/
def spanLo (d : Desc) (st : Nat → Int) : Int := (List.range 4).foldl (fun a i => a + min 0 (st i * ((mvCnt d i : Int) - 1))) 0
def spanHi (d : Desc) (st : Nat → Int) : Int := (List.range 4).foldl (fun a i => a + max 0 (st i * ((mvCnt d i : Int) - 1))) 0

def tierBytes (t : Nat) : Nat := if t = 3 then 0x10000000 else tierSize t

/-- Whether a bounding range is in order (R397, R49, R50): owned where it lies in this module. -/
def spanOk (m : Module) (p : Nat) (a : W64) (lo hi : Int) (len : Nat) : Bool :=
  let o : Int := gaOff a
  let l := o + lo
  let h := o + hi + (len : Int) - 1
  gaOk a && 0 ≤ l && h < tierBytes (gaTier a) && gaTier a < 3 &&
  (!gaHere m a || allowed m p (gaTier a) l.toNat (h - l + 1).toNat)

def spanGuarded (m : Module) (p : Nat) (a : W64) (lo hi : Int) (len : Nat) : Bool :=
  gaHere m a && touchesGuarded m p (gaTier a) ((gaOff a : Int) + lo).toNat (hi - lo + (len : Int)).toNat

def isSlot (s : Side) : Bool :=
  match s with
  | .slot _ => true
  | _ => false

def sliceless (m : Module) (p : Nat) : Bool := (prec m p).slice = 0xFFF

/-- The refusal of a MOVE (R397, R398, R414). A fetching update writes the old values over its source, so that range too must not touch
a guarded region (R373; log entry 165). -/
def moveRefusal (m : Module) (d : Desc) : Option Nat :=
  let src := mvSrcSide m d
  let dst := mvDstSide m d
  let z := atomSize (mvAop d)
  let ds (i : Nat) : Nat := (mvDs d i).natAbs
  firstCode [
    (0x10, mvLen0 d = 0 || (List.range 4).any (fun i => mvCnt d i = 0)),
    (0x11, (src != .host && !spanOk m d.part (d.a 16) (spanLo d (mvSs d)) (spanHi d (mvSs d)) (mvLen0 d))
      || (mvAtomic d && atomFetches (mvAop d) && src != .host
        && spanGuarded m d.part (d.a 16) (spanLo d (mvSs d)) (spanHi d (mvSs d)) (mvLen0 d))
      || (dst != .host && (!spanOk m d.part (d.a 24) (spanLo d (mvDs d)) (spanHi d (mvDs d)) (mvLen0 d)
        || spanGuarded m d.part (d.a 24) (spanLo d (mvDs d)) (spanHi d (mvDs d)) (mvLen0 d)))),
    (0x13, d.fl 1 && (z = 0 || mvHost d != 0 || !(gaTier (d.a 24) = 1 || gaTier (d.a 24) = 2) || mvLen0 d % z != 0
      || gaOff (d.a 24) % z != 0 || (List.range 4).any (fun i => ds i % z != 0))),
    (0x15, mvHost d = 3),
    (0x16, sliceless m d.part && (isSlot src || isSlot dst))]

def prefetchRefusal (m : Module) (d : Desc) : Option Nat :=
  let a := d.a 16
  firstCode [
    (0x10, mvLen0 d = 0 || (List.range 4).any (fun i => mvCnt d i = 0)),
    (0x11, !gaHere m a || !spanOk m d.part a (spanLo d (mvSs d)) (spanHi d (mvSs d)) (mvLen0 d)),
    (0x14, cacheSets m d.part = 0 || !(gaTier a = 1 || gaTier a = 2)),
    (0x15, mvHost d != 0)]

/-- The linear side of a GATHER at an offset (R401, R373). -/
def linearOk (m : Module) (d : Desc) (off len : Nat) : Bool :=
  let a := d.a 24
  gaOk a && gaHere m a && gaTier a < 3 && allowed m d.part (gaTier a) (gaOff a + off) len
  && (gaScatter d || !touchesGuarded m d.part (gaTier a) (gaOff a + off) len)

def gatherRefusal (m : Module) (d : Desc) : Option Nat :=
  firstCode [
    (0x10, gaEntries d = 0),
    (0x11, !hallAt m d.part (d.a 16) 0 (8 * gaEntries d) || !linearOk m d 0 32),
    (0x12, gaOff (d.a 16) % 8 != 0 || gaOff (d.a 24) % 32 != 0)]

def putRefusal (m : Module) (d : Desc) : Option Nat :=
  let a := d.a 16
  let b := d.a 24
  let n := d.a 32
  firstCode [
    (0x10, puLen d = 0),
    (0x11, !(gaOk a && gaHere m a && gaTier a < 3 && allowed m d.part (gaTier a) (gaOff a) (puLen d))
      || !(gaOk b && gaSlot b = 15 && gaOff b + puLen d ≤ tierBytes (gaTier b))
      || (d.fl 3 && !(gaOk n && gaSlot n = 15 && gaTier n = 0 && gaOff n + 8 ≤ tierSize 0))),
    (0x12, d.fl 3 && gaOff n % 8 != 0),
    (0x16, sliceless m d.part || puChip d ≥ 8192 || puPart d ≥ 16)]

/-! ### Engines and tags (R407, R408) -/

def updFltOp (f i : Nat) (g : FltOp → FltOp) (m : Module) : Module :=
  let x := m.flt' f
  match x.ops[i]? with
  | some o => m.setFlt f { x with ops := x.ops.set i (g o) }
  | none => m

/-- The instant at which a burst times out (R412, R417). -/
def burstDue (x : Flt) (b : BurstRec) : Nat := b.issued + max 1 x.tmo.toNat * 1024

/-- Tags an engine holds, reserved or shared, with those of bursts that outlived a reset of it (R413). -/
def tagsHeld (m : Module) (f : Nat) (shared : Bool) : Nat :=
  let x := m.flt' f
  x.ops.foldl (fun n o => n + (o.bursts.filter (fun b => b.shared = shared)).length) 0
  + (x.orphans.filter (fun o => o.burst.shared = shared && decide (m.clk.elapsed ≤ burstDue x o.burst))).length

/-- Shared tags free in a wing (R408, R416). -/
def poolFree (m : Module) (w : Nat) : Nat :=
  24576 - (List.range 16).foldl (fun n i => n + tagsHeld m (16 * w + i) true) 0

/-- Whether an engine with its reserved tags taken may hold one more shared tag (R408). -/
def wantsShared (m : Module) (f : Nat) : Bool :=
  decide (512 ≤ tagsHeld m f false) && decide (tagsHeld m f true < min 24576 (m.flt' f).maxShare.toNat)

/-- The engines of lower index in the wing that wait for a shared tag: they are served first (R408). -/
def tagsAhead (m : Module) (f : Nat) : Nat :=
  ((List.range (f % 16)).filter (fun i => let g := f / 16 * 16 + i; (m.flt' g).stallFrom.isSome && wantsShared m g)).length

/-- The tag a burst would take: reserved, shared, or none. -/
def tagFor (m : Module) (f : Nat) : Option Bool :=
  if tagsHeld m f false < 512 then some false
  else if wantsShared m f && poolFree m (f / 16) > tagsAhead m f then some true
  else none

/-- An engine has a burst ready and no tag: the cycle is counted, and those that follow while it stays so (R408). -/
def tagStall (f : Nat) (m : Module) : Module :=
  let x := m.flt' f
  if x.stallFrom.isSome then m else m.setFlt f { x with stallTag := x.stallTag + 1, stallFrom := some m.clk.cycle }

/-- The cycles since a stall began that are not yet in FLT_STALL_TAG. -/
def stallPast (m : Module) (f : Nat) : Nat :=
  match (m.flt' f).stallFrom with
  | some c => m.clk.cycle - c
  | none => 0

/-- A stall ends when the engine can have a tag. -/
def stallEnd (f : Nat) (m : Module) : Module :=
  let x := m.flt' f
  if x.stallFrom.isSome && (tagFor m f).isSome then
    m.setFlt f { x with stallTag := x.stallTag + BitVec.ofNat 64 (stallPast m f - 1), stallFrom := none }
  else m

/-- Notes the most tags held at once. -/
def noteTags (f : Nat) (m : Module) : Module :=
  let x := m.flt' f
  let n := tagsHeld m f false + tagsHeld m f true
  m.setFlt f { x with tagsMax := if x.tagsMax.toNat < n then BitVec.ofNat 16 n else x.tagsMax, lastProgress := m.clk.elapsed }

def addBurst (f i : Nat) (b : BurstRec) (m : Module) : Module :=
  noteTags f (updFltOp f i (fun o => { o with bursts := o.bursts.filter (fun c => c.tag != b.tag) ++ [b] }) m)

/-- A burst's tag is released. -/
def dropBurst (f i tag : Nat) (m : Module) : Module :=
  updFltOp f i (fun o => { o with bursts := o.bursts.filter (fun c => c.tag != tag) }) m

/-- Bytes read and written by an engine (R416, R717). -/
def fltRead (f p n : Nat) (m : Module) : Module :=
  let x := m.flt' f
  addPFlt p n (m.setFlt f { x with rd := x.rd + BitVec.ofNat 64 n })
def fltWrote (f p n : Nat) (m : Module) : Module :=
  let x := m.flt' f
  addPFlt p n (m.setFlt f { x with wr := x.wr + BitVec.ofNat 64 n })

/-- A burst, entry, host access or destination fails (R412, R413, R415): the event, and the descriptor issues nothing more; its updates
that wait for their turn are not made, and their tags, whose responses have come, are released. -/
def fltError (f i code : Nat) (m : Module) : Module :=
  let x := m.flt' f
  match x.ops[i]? with
  | none => m
  | some o =>
    let idx := if code = 0x22 then o.entry else 0
    let m := m.setFlt f { x with errLast := pack [(code, 32), (idx, 0)] }
    let m := updFltOp f i (fun o => { o with
      err := if o.err = 0 then BitVec.ofNat 8 code else o.err, bursts := o.bursts.filter (fun b => b.kind != .held), atoms := [] }) m
    ev 0x0E code f 4 o.desc.part o.desc.ctx o.desc.seq m

/-! ### Completion (R406, R410 to R412) -/

/-- The NOTIFY of a PUT is sent once every WRITE has been acknowledged without refusal (R441); it holds a tag as every fabric burst
does, and waits for one (R407, R408). -/
def sendNotify (f i : Nat) (o : FltOp) (m : Module) : Module :=
  let d := o.desc
  match tagFor m f with
  | none => tagStall f m
  | some sh =>
    let (tag, m) := newTag m
    let k := slicePkt m 2 (if d.fl 4 then 1 else 2) d.part (puChip d) (puPart d) tag (d.a 32) (BitVec.ofNat 64 (2 ^ 32 * (d.seq.toNat % 2 ^ 32)))
      (natLe 8 (d.f 40 8))
    let m := inject (f / 16) k m
    let m := updFltOp f i (fun o => { o with notify := 2 }) m
    addBurst f i { tag := tag, issued := m.clk.elapsed, kind := .notifyAck, src := 0, dst := d.a 32, len := 8, shared := sh, mate := none } m

def opEnded (o : FltOp) : Bool := (o.issuedAll || o.err != 0) && o.bursts.isEmpty

/-- Completes descriptors in the order in which they started. -/
def settleGo (f : Nat) : Nat → Module → Module
  | 0, m => m
  | n + 1, m =>
    match (m.flt' f).ops with
    | [] => m
    | o :: r =>
      if opEnded o && !(o.notify = 1 && o.err = 0) then
        let x := m.flt' f
        let m := m.setFlt f { x with
          ops := r, errors := if o.err = 0 then x.errors else x.errors + 1, lastProgress := m.clk.elapsed }
        settleGo f n (complete 6 f o.desc (o.err != 0) m)
      else m

/-- Sends an engine's NOTIFYs that are due. -/
def sendDue (f : Nat) (m : Module) : Module :=
  let ops := (m.flt' f).ops
  (List.zip (List.range ops.length) ops).foldl (fun m e =>
    if opEnded e.2 && e.2.notify = 1 && e.2.err = 0 then sendNotify f e.1 e.2 m else m) m

/-- What follows when bursts of an engine ended: its NOTIFYs, its completions, and the engines of its wing that wait for a tag. -/
def settleFlt (f : Nat) (m : Module) : Module :=
  let m := settleGo f (m.flt' f).ops.length (sendDue f m)
  (List.range 16).foldl (fun m i => let g := f / 16 * 16 + i; sendDue g (stallEnd g m)) m

/-! ### Starting a descriptor (R392, R410) -/

/-- A refused descriptor completes with error (R414, R416). -/
def fltRefuse (f code : Nat) (d : Desc) (m : Module) : Module :=
  let x := m.flt' f
  bodyRefused 6 f code d (m.setFlt f { x with refused := x.refused + 1, errors := x.errors + 1 })

/-- The engine's next descriptor of a type, when it can start: the one before has issued its last burst, and a fence finds
nothing running (R392, R410). -/
def fltHead (m : Module) (f ty : Nat) : Option (QKey × Desc) :=
  let x := m.flt' f
  if x.ops.all (fun o => o.issuedAll || o.err != 0) && canStart m 6 f then
    match headOwned m 6 f with
    | some (k, d) => if d.ty.toNat = ty && !(d.fl 2 && !x.ops.isEmpty) then some (k, d) else none
    | none => none
  else none

/-- A descriptor starts, or is refused. -/
def fltStart (row : String) (f : Fin 32) (ty : Nat) (refusal : Module → Desc → Option Nat) (total : Desc → Nat) (s : State) : Out :=
  match fltHead s.m f.val ty with
  | none => stop row
  | some (k, d) =>
    let m := dequeue k s.m
    match refusal m d with
    | some c => done s (fltRefuse f.val c d m)
    | none =>
      let m := descStart 6 f.val d m
      let x := m.flt' f.val
      let o : FltOp := { desc := d, next := 0, total := total d, entry := 0, run := none, inEntry := 0, linOff := 0, issuedAll := false,
                         notify := if isPut d && d.fl 3 then 1 else 0, err := 0, bursts := [], atoms := [] }
      done s (m.setFlt f.val { x with ops := x.ops ++ [o], lastProgress := m.clk.elapsed })

def walkTotal (d : Desc) : Nat := mvLen0 d * mvCnt d 0 * mvCnt d 1 * mvCnt d 2 * mvCnt d 3

def execMove (f : Fin 32) (s : State) : Out := fltStart "MOVE" f 0x60 moveRefusal walkTotal s
def execGather (f : Fin 32) (s : State) : Out := fltStart "GATHER" f 0x61 gatherRefusal gaEntries s
def execPrefetch (f : Fin 32) (s : State) : Out := fltStart "PREFETCH" f 0x62 prefetchRefusal walkTotal s
/-- A PUT of a partition in a SOLO replay completes at once and sends nothing (R531). -/
def putSuppressed (f : Nat) (k : QKey) (d : Desc) (m : Module) : Module :=
  let m := descStart 6 f d (dequeue k m)
  let v := m.vst' d.part
  complete 6 f d false (m.setVst d.part { v with putsSupp := v.putsSupp + 1 })

def execPut (f : Fin 32) (s : State) : Out :=
  match fltHead s.m f.val 0x63 with
  | none => stop "PUT"
  | some (k, d) =>
    if (soloSlot s.m d.part).isSome && (putRefusal s.m d).isNone then done s (putSuppressed f.val k d s.m)
    else fltStart "PUT" f 0x63 putRefusal puLen s

/-! ### The walk (R395, R396) -/

/-- An address with its OFFSET displaced, SLOT and TIER carried unchanged (R395). -/
def addOff (a : W64) (k : Int) : W64 :=
  let o := ((gaOff a : Int) + k) % (2 ^ 54 : Int)
  BitVec.ofNat 64 (2 ^ 54 * (a.toNat / 2 ^ 54) + o.toNat)

/-- A host bus address displaced. -/
def addHost (a : W64) (k : Int) : W64 := a + BitVec.ofInt 64 k

/-- The displacement of position `q` of a walk (R395): the innermost run it lies in, and the place in the run. -/
def walkDisp (d : Desc) (st : Nat → Int) (q : Nat) : Int :=
  let o := q / mvLen0 d
  let i1 := o % mvCnt d 0
  let i2 := o / mvCnt d 0 % mvCnt d 1
  let i3 := o / mvCnt d 0 / mvCnt d 1 % mvCnt d 2
  let i4 := o / mvCnt d 0 / mvCnt d 1 / mvCnt d 2
  (i1 : Int) * st 0 + (i2 : Int) * st 1 + (i3 : Int) * st 2 + (i4 : Int) * st 3 + (q % mvLen0 d : Nat)

def mvSrcAt (d : Desc) (q : Nat) : W64 := (if mvHost d = 1 then addHost else addOff) (d.a 16) (walkDisp d (mvSs d) q)
def mvDstAt (d : Desc) (q : Nat) : W64 := (if mvHost d = 2 then addHost else addOff) (d.a 24) (walkDisp d (mvDs d) q)

/-- Bytes up to the next boundary of a block size. -/
def toBoundary (a : W64) (z : Nat) : Nat := z - a.toNat % z

/-- The length of the burst at position `q` of a MOVE (R396). With ATOMIC a burst holds whole elements; an operand that a 256-byte
boundary of the source cuts makes a burst of its first part, and its other part begins the next burst (log entry 165). -/
def mvBurst (d : Desc) (q : Nat) : Nat :=
  let rest := mvLen0 d - q % mvLen0 d
  let l := min rest (min (toBoundary (mvSrcAt d q) 256) (toBoundary (mvDstAt d q) 256))
  if mvAtomic d then
    let z := atomSize (mvAop d)
    let h := (z - q % z) % z
    if l < h + z then (if h = 0 || l < h then l else h) else h + (l - h) / z * z
  else l

/-- Whether the source and destination bytes of a MOVE overlap (R399). -/
def mvOverlap (m : Module) (d : Desc) : Bool :=
  let same := mvHost d = 0 && gaTier (d.a 16) = gaTier (d.a 24) && sideOf m (d.a 16) = sideOf m (d.a 24)
  let runs := List.range (walkTotal d / mvLen0 d)
  same && runs.any (fun i => runs.any (fun j =>
    overlap (gaOff (mvSrcAt d (i * mvLen0 d))) (mvLen0 d) (gaOff (mvDstAt d (j * mvLen0 d))) (mvLen0 d)))

/-- Bytes with undefined contents (R399): free values. -/
def freeBytes : Nat → Module → List Byte × Module
  | 0, m => ([], m)
  | n + 1, m =>
    let x := freeVal m
    let y := freeBytes n x.2
    (x.1.setWidth 8 :: y.1, y.2)

/-! ### Data on its way (R398, R403, R405, R411) -/

/-- AUX of a data packet: SEQ [31:0] in the upper half (R440). -/
def auxSeq (d : Desc) (lo : Nat) : W64 := BitVec.ofNat 64 (2 ^ 32 * (d.seq.toNat % 2 ^ 32) + lo)

/-- The chip that PCI_SLOT_MAP gives for a slot (R688). -/
def slotChip (m : Module) (n : Nat) : Option Nat :=
  let e := nget 0 m.pci.slotMap n
  if bit e 31 then some (e.toNat % 8192) else none

/-- An address as another module sees it: SLOT 0xF. -/
def slotF (a : W64) : W64 := BitVec.ofNat 64 (a.toNat % 2 ^ 56 + 15 * 2 ^ 56)

/-- A packet of a burst to another board slot (R52). -/
def slotPkt (m : Module) (d : Desc) (ty chip tag : Nat) (a : W64) (auxLo : Nat) (payload : List Byte) : Pkt :=
  slicePkt m ty 2 d.part chip d.part tag (slotF a) (auxSeq d auxLo) payload

/-- Whether a Flight descriptor's accesses ask for a cache line: CACHE of a MOVE or a GATHER, which ATOMIC makes ignored (R394, R398,
R401). -/
def fltCaches (d : Desc) : Bool := !isPut d && d.fl 0 && !mvAtomic d

/-- A write into this module's memory, with sectors in error poisoned (R381, R413). -/
def localWrite (f : Nat) (d : Desc) (dst : W64) (data : List Byte) (bad : List Bool) (m : Module) : Module :=
  fltWrote f d.part data.length (memWriteBad (f / 16) d.part (gaTier dst) (fltCaches d) (gaOff dst) data bad m)

/-- The destination side of a burst. -/
def dstSide (m : Module) (d : Desc) (dst : W64) : Side :=
  if isGather d then sideOf m dst else if mvHost d = 2 then .host else sideOf m dst
def srcSide (m : Module) (d : Desc) (src : W64) : Side :=
  if isGather d then sideOf m src else if mvHost d = 1 then .host else sideOf m src

/-- Old values return over the source elements (R398); a write here is acknowledged when `ack`, and else ends the burst. -/
def writeOld (f i : Nat) (d : Desc) (b : BurstRec) (ack : Bool) (old : List Byte) (m : Module) : Module :=
  match srcSide m d b.src with
  | .slot n =>
    match slotChip m n with
    | some c =>
      let m := inject (f / 16) (slotPkt m d 1 c b.tag b.src 0 old) m
      addBurst f i { b with kind := .slotAck, mate := none } (fltWrote f d.part old.length m)
    | none => dropBurst f i b.tag (fltError f i 0x21 m)
  | _ =>
    let m := localWrite f d b.src old [] m
    if ack then addBurst f i { b with kind := .localAck, mate := none } m else dropBurst f i b.tag m

/-- The old values of the bursts that updated one run of elements, each over its own source bytes. -/
def writeOlds (f i : Nat) (d : Desc) (ack : Bool) : List BurstRec → List Byte → Module → Module
  | [], _, m => m
  | b :: r, old, m => writeOlds f i d ack r (old.drop b.len) (writeOld f i d b ack (old.take b.len) m)

/-- Sends the updates of bursts on (R369, R398, R411): into this module's memory, or as one ATOMIC packet, under the last one's tag. -/
def sendAtoms (f i : Nat) (d : Desc) (b : BurstRec) (mate : Option BurstRec) (data : List Byte) (m : Module) : Module :=
  let bs := mate.toList ++ [b]
  let dst := (bs.headD b).dst
  let m := fltWrote f d.part data.length m
  match sideOf m dst with
  | .slot n =>
    match slotChip m n with
    | none => dropBurst f i b.tag (fltError f i 0x21 m)
    | some c =>
      addBurst f i { b with kind := if atomFetches (mvAop d) then .oldData else .slotAck, mate := mate.map (·.tag) }
        (inject (f / 16) (slotPkt m d 5 c b.tag dst (mvAop d) data) m)
  | _ =>
    let (old, m) := atomRun (f / 16) d.part (gaTier dst) (mvAop d) (gaOff dst) (data.length / atomSize (mvAop d)) data m
    if atomFetches (mvAop d) then writeOlds f i d true bs old m
    else bs.foldl (fun m b => addBurst f i { b with kind := .localAck } m) m

def opAt (m : Module) (f i : Nat) : Option FltOp := (m.flt' f).ops[i]?
def burstOf (m : Module) (f i tag : Nat) : Option BurstRec := (opAt m f i).bind (fun o => o.bursts.find? (fun b => b.tag = tag))
def setAtoms (f i : Nat) (l : List AtomPart) (m : Module) : Module := updFltOp f i (fun o => { o with atoms := l }) m

/-- Sends on every burst of updates whose turn has come, in the order of issue (R370): one whose operands are read, together with the
burst that holds the first part of its first operand. -/
def drainAtoms (f i : Nat) (d : Desc) : Nat → Module → Module
  | 0, m => m
  | n + 1, m =>
    match opAt m f i with
    | none => m
    | some o =>
      match o.atoms with
      | ⟨t, some x⟩ :: r =>
        match burstOf m f i t with
        | none => drainAtoms f i d n (setAtoms f i r m)
        | some b =>
          if b.len % atomSize (mvAop d) = 0 then drainAtoms f i d n (sendAtoms f i d b none x (setAtoms f i r m))
          else
            match r with
            | ⟨t2, some y⟩ :: r2 =>
              match burstOf m f i t2 with
              | some b2 => drainAtoms f i d n (sendAtoms f i d b2 (some b) (x ++ y) (setAtoms f i r2 m))
              | none => m
            | _ => m
      | _ => m

/-- The operands of a burst of updates are read; it waits for its turn. -/
def atomData (f i : Nat) (d : Desc) (b : BurstRec) (data : List Byte) (m : Module) : Module :=
  let m := addBurst f i { b with kind := .held } m
  let m := updFltOp f i (fun o => { o with
    atoms := o.atoms.map (fun a => if a.tag = b.tag then { a with data := some data } else a) }) m
  drainAtoms f i d (match opAt m f i with
    | some o => o.atoms.length
    | none => 0) m

/-- Whether a partition's host bursts can be served: its virtual function is enabled and PERST_N is high (R700, R701). -/
def hostOpen (m : Module) (p : Nat) : Bool := bit m.pci.vfOn p && m.tray.perstN

/-- Puts a burst's data at its destination; `tagged` when the burst holds a tag. -/
def putData (f i : Nat) (d : Desc) (tagged : Bool) (b : BurstRec) (data : List Byte) (bad : List Bool) (m : Module) : Module :=
  let lap := d.ty = 0x60 && mvOverlap m d
  if mvAtomic d && !lap then atomData f i d b data m
  else
    let (data, m) := if lap then freeBytes data.length m else (data, m)
    let keep (k : BurstKind) (m : Module) : Module := if tagged then addBurst f i { b with kind := k } m else m
    match dstSide m d b.dst with
    | .host =>
      if !hostOpen m d.part then dropBurst f i b.tag (fltError f i 0x23 m)
      else keep .hostAck (emit (.hostWrite b.dst data) (fltWrote f d.part data.length m))
    | .slot n =>
      match slotChip m n with
      | none => dropBurst f i b.tag (fltError f i 0x21 m)
      | some c => keep .slotAck (inject (f / 16) (slotPkt m d 1 c b.tag b.dst 0 data) (fltWrote f d.part data.length m))
    | .here => keep .localAck (localWrite f d b.dst data bad m)

/-- Begins a burst: its source is read here, asked of another module, or asked of the host. -/
def beginBurst (f i : Nat) (d : Desc) (tagged : Bool) (b : BurstRec) (m : Module) : Module :=
  let m := fltRead f d.part b.len m
  match srcSide m d b.src with
  | .host => if hostOpen m d.part then addBurst f i { b with kind := .hostData } m else fltError f i 0x23 m
  | .slot n =>
    match slotChip m n with
    | none => fltError f i 0x21 m
    | some c => addBurst f i { b with kind := .slotData } (inject (f / 16) (slotPkt m d 3 c b.tag b.src b.len []) m)
  | .here =>
    let (data, bad, m) := memRead (f / 16) d.part (gaTier b.src) (fltCaches d) (gaOff b.src) b.len m
    putData f i d tagged b data bad m

/-- A PUT's burst: one WRITE packet (R396, R405). -/
def putBurst (f i : Nat) (d : Desc) (b : BurstRec) (m : Module) : Module :=
  let m := fltRead f d.part b.len m
  let (data, _, m) := memRead (f / 16) d.part (gaTier b.src) false (gaOff b.src) b.len m
  let k := slicePkt m 1 (if d.fl 4 then 1 else 2) d.part (puChip d) (puPart d) b.tag b.dst (auxSeq d 0) data
  addBurst f i { b with kind := .slotAck } (inject (f / 16) k (fltWrote f d.part b.len m))

/-- A PREFETCH's burst: the line's invalid sectors are filled and marked (R400, R409). -/
def prefetchBurst (f i : Nat) (d : Desc) (b : BurstRec) (m : Module) : Module :=
  let p := d.part
  let t := gaTier b.src
  let o := gaOff b.src
  let m := fltRead f p b.len m
  match lineAt m p t o with
  | some (k, l) =>
    let m := countLookup p (lineHas l o b.len) m
    let (l, m) := fillLine p l (some (f, b.tag)) m
    addBurst f i { b with kind := .fill } (useLine p k l m)
  | none =>
    let m := countLookup p false m
    match allocLine p t o m with
    | some (k, l, m) =>
      let (l, m) := fillLine p l (some (f, b.tag)) m
      addBurst f i { b with kind := .fill } (useLine p k l m)
    | none => addBurst f i { b with kind := .fill } m

/-- A prefetch's fill has arrived (R409). -/
def fillArrived (f : Nat) (d : Desc) (b : BurstRec) (m : Module) : Module :=
  match lineAt m d.part (gaTier b.src) (gaOff b.src) with
  | some (k, l) => putLine d.part k { l with
      marks := l.marks.map (fun x => if x.eng = f && x.tag = b.tag then { x with arrived := true } else x) } m
  | none => m

/-! ### BURST_ISSUE (R396, R403, R407, R408) -/

/-- Whether a burst needs a tag: every one but those between banks of this module's Hall (R407). -/
def needsTag (m : Module) (d : Desc) (src dst : W64) : Bool :=
  isPut d || d.ty = 0x62 ||
  !(srcSide m d src = .here && gaTier src = 0 && dstSide m d dst = .here && gaTier dst = 0)

/-- One gather entry (R402): the run's address and its length in bytes. -/
def entryOf (x : Nat) : W64 × Nat := (BitVec.ofNat 64 (x / 32 * 32), (x % 32 + 1) * 32)

/-- Whether a gather entry is in order (R403). -/
def entryOk (m : Module) (d : Desc) (a : W64) (n linOff : Nat) : Bool :=
  gaOk a && gaTier a < 3 && gaOff a + n ≤ tierSize (gaTier a) &&
  (if gaHere m a then allowed m d.part (gaTier a) (gaOff a) n && !(gaScatter d && touchesGuarded m d.part (gaTier a) (gaOff a) n)
   else !sliceless m d.part)
  && linearOk m d linOff n

/-- Issues one burst with its geometry; `adv` moves the descriptor on. -/
def issueOne (f i : Nat) (d : Desc) (src dst : W64) (len : Nat) (adv : FltOp → FltOp) (m : Module) : Module :=
  let tagged := needsTag m d src dst
  match (if tagged then tagFor m f else some false) with
  | none => tagStall f m
  | some sh =>
    let m := updFltOp f i adv (stallEnd f m)
    let (tag, m) := if tagged then newTag m else (0, m)
    let b : BurstRec := { tag := tag, issued := m.clk.elapsed, kind := .localAck, src := src, dst := dst, len := len, shared := sh,
                          mate := none }
    let m := if mvAtomic d then updFltOp f i (fun o => { o with atoms := o.atoms ++ [⟨tag, none⟩] }) m else m
    let m := if isPut d then putBurst f i d b m
      else if d.ty = 0x62 then prefetchBurst f i d b m
      else beginBurst f i d tagged b m
    settleFlt f (noteTags f m)

/-- The first source and destination bytes of the burst at position `q` of a walk. -/
def walkSrc (d : Desc) (q : Nat) : W64 := if isPut d then addOff (d.a 16) q else mvSrcAt d q
def walkDst (d : Desc) (q : Nat) : W64 := if isPut d then addOff (d.a 24) q else mvDstAt d q

/-- The next burst of a walk. -/
def issueWalk (f i : Nat) (o : FltOp) (m : Module) : Module :=
  let d := o.desc
  let q := o.next
  let src := walkSrc d q
  let dst := walkDst d q
  let len := if isPut d then min (o.total - q) (min (toBoundary src 2048) (toBoundary dst 2048))
    else if d.ty = 0x62 then min (mvLen0 d - q % mvLen0 d) (toBoundary src 256)
    else mvBurst d q
  issueOne f i d src dst len (fun o => { o with next := o.next + len, issuedAll := o.next + len ≥ o.total }) m

/-- The next burst of a GATHER: an entry is checked as it is read, and a failing one stops the descriptor (R403). -/
def issueGather (f i : Nat) (o : FltOp) (m : Module) : Module :=
  let d := o.desc
  let (run, m) := match o.run with
    | some r => (r, m)
    | none =>
      let x := hallRead (f / 16) d.part (gaOff (d.a 16) + 8 * o.entry) 8 m
      (entryOf (leNat x.1), x.2)
  if o.run.isNone && !entryOk m d run.1 run.2 o.linOff then settleFlt f (fltError f i 0x22 m)
  else
    let m := updFltOp f i (fun o => { o with run := some run }) m
    let ra := addOff run.1 o.inEntry
    let la := addOff (d.a 24) o.linOff
    let src := if gaScatter d then la else ra
    let dst := if gaScatter d then ra else la
    let len := min (run.2 - o.inEntry) (min (toBoundary src 256) (toBoundary dst 256))
    let adv (o : FltOp) : FltOp :=
      if o.inEntry + len ≥ run.2 then
        { o with entry := o.entry + 1, run := none, inEntry := 0, linOff := o.linOff + len, issuedAll := o.entry + 1 ≥ o.total }
      else { o with inEntry := o.inEntry + len, linOff := o.linOff + len }
    issueOne f i d src dst len adv m

def execBurstIssue (f : Fin 32) (errs : List MemErr) (s : State) : Out :=
  match findIdx? (fun o => !o.issuedAll && o.err = 0) (s.m.flt' f.val).ops 0 with
  | none => stop "BURST_ISSUE"
  | some i =>
    match (s.m.flt' f.val).ops[i]? with
    | none => stop "BURST_ISSUE"
    | some o =>
      let m := memErrs o.desc.part errs s.m
      done s (if isGather o.desc then issueGather f.val i o m else issueWalk f.val i o m)

/-! ### Answers and timeouts (R411 to R413) -/

/-- The burst that holds a tag: the descriptor's place and the burst. -/
def findBurst (x : Flt) (tag : Nat) : Option (Nat × FltOp × BurstRec) :=
  (List.zip (List.range x.ops.length) x.ops).foldl (fun a e =>
    match a with
    | some y => some y
    | none =>
      match e.2.bursts.find? (fun b => b.tag = tag) with
      | some b => some (e.1, e.2, b)
      | none => none) none

/-- The burst that holds the first part of a burst's first operand, while it is held (R398). -/
def mateOf (m : Module) (f i : Nat) (b : BurstRec) : List BurstRec := ((b.mate.bind (fun t => burstOf m f i t)).filter (·.kind = .held)).toList

/-- An answer to a burst in flight; none when it is no answer to what the burst waits for. -/
def fltAnswer (f i : Nat) (o : FltOp) (b : BurstRec) (ans : BurstAnswer) (m : Module) : Option Module :=
  let d := o.desc
  let release (m : Module) : Module :=
    settleFlt f ((mateOf m f i b).foldl (fun m a => dropBurst f i a.tag m) (dropBurst f i b.tag m))
  let onData (bs : List Byte) : Module :=
    if o.err != 0 && (mvAtomic d || dstSide m d b.dst != .here) then release m
    else settleFlt f (putData f i d true b (slice bs 0 b.len) [] m)
  match b.kind, ans with
  | .slotData, .data bs => some (onData bs)
  | .hostData, .data bs => some (onData bs)
  | .oldData, .data bs => some (settleFlt f (writeOlds f i d false (mateOf m f i b ++ [b]) bs m))
  | .localAck, .ack => some (release m)
  | .slotAck, .ack => some (release m)
  | .hostAck, .ack => some (release m)
  | .notifyAck, .ack => some (release m)
  | .fill, .ack => some (release (fillArrived f d b m))
  | .slotData, .refused => some (release (fltError f i 0x21 m))
  | .oldData, .refused => some (release (fltError f i 0x21 m))
  | .slotAck, .refused => some (release (fltError f i 0x21 m))
  | .notifyAck, .refused => some (release (fltError f i 0x21 m))
  | .hostData, .hostError => some (release (fltError f i 0x23 m))
  | .hostAck, .hostError => some (release (fltError f i 0x23 m))
  | _, _ => none

/-- A response that arrives after its burst has timed out (R413). -/
def lateResponse (f tag : Nat) (m : Module) : Option Module :=
  let x := m.flt' f
  match x.dead.find? (fun e => e.1 = tag) with
  | none => none
  | some e =>
    some (ev 0x0E 0x25 f 1 e.2.1 e.2.2.1 e.2.2.2 (m.setFlt f { x with late := satAdd x.late 1, dead := x.dead.erase e }))

/-- A burst fails, and its tag is released (R412). -/
def burstFail (f i code : Nat) (o : FltOp) (b : BurstRec) (m : Module) : Module :=
  let m := dropBurst f i b.tag (fltError f i code m)
  let x := m.flt' f
  settleFlt f (m.setFlt f { x with dead := (b.tag, o.desc.part, o.desc.ctx, o.desc.seq) :: x.dead })

def orphanAt (x : Flt) (tag : Nat) : Option Orphan := x.orphans.find? (fun o => o.burst.tag = tag)

/-- The tag of a burst that outlived a reset of its engine is released; after its limit its response will be late (R412, R413). -/
def orphanEnd (f : Nat) (o : Orphan) (timedOut : Bool) (m : Module) : Module :=
  let x := m.flt' f
  settleFlt f (m.setFlt f { x with
    orphans := x.orphans.erase o, dead := if timedOut then (o.burst.tag, o.part, o.ctx, o.seq) :: x.dead else x.dead })

/-- A response for an engine's tag: one that comes beyond TMO finds its burst failed (R412), and one for a burst of before a reset is
discarded (R413). -/
def fltRespond (f tag : Nat) (ans : BurstAnswer) (m : Module) : Option Module :=
  let x := m.flt' f
  match findBurst x tag with
  | some (i, o, b) =>
    if burstDue x b < m.clk.elapsed then lateResponse f tag (burstFail f i 0x20 o b m) else fltAnswer f i o b ans m
  | none =>
    match orphanAt x tag with
    | some o =>
      if burstDue x o.burst < m.clk.elapsed then lateResponse f tag (orphanEnd f o true m) else some (orphanEnd f o false m)
    | none => lateResponse f tag m

/-- The bytes that an answer brings: those of the burst, and of the burst with the first part of its first operand. -/
def answerLen (x : Flt) (b : BurstRec) : Nat :=
  b.len + (match b.mate.bind (findBurst x) with
    | some (_, _, a) => a.len
    | none => 0)

/-- An answer that brings fewer bytes than its burst asked for is no answer to it. -/
def answerShort (x : Flt) (tag : Nat) (ans : BurstAnswer) : Bool :=
  match ans, findBurst x tag with
  | .data bs, some (_, _, b) => decide (bs.length < answerLen x b)
  | _, _ => false

def execBurstResponse (f : Fin 32) (tag : Nat) (answer : BurstAnswer) (s : State) : Out :=
  if answerShort (s.m.flt' f.val) tag answer then stop "BURST_RESPONSE"
  else
    match fltRespond f.val tag answer s.m with
    | some m => done s m
    | none => stop "BURST_RESPONSE"

/-- A burst's limit passes with no response (R412). -/
def execBurstTimeout (f : Fin 32) (tag : Nat) (s : State) : Out :=
  let x := s.m.flt' f.val
  match findBurst x tag with
  | some (i, o, b) => done s (burstFail f.val i 0x20 o b (passTo (burstDue x b) s.m))
  | none =>
    match orphanAt x tag with
    | some o => done s (orphanEnd f.val o true (passTo (burstDue x o.burst) s.m))
    | none => stop "BURST_TIMEOUT"

/-- Host bursts in flight fail as HOST_ERROR (R701). -/
def hostBurstsFail (f : Nat) (m : Module) : Module :=
  let tags := (m.flt' f).ops.flatMap (fun o => (o.bursts.filter (fun b => b.kind = .hostData || b.kind = .hostAck)).map (·.tag))
  tags.foldl (fun m t => match fltRespond f t .hostError m with
    | some m => m
    | none => m) m

/-- FLT_CNT_CLR: 0x020 to 0x068 to zero (R416); a stall that goes on counts from this cycle on. -/
def fltClear (now : Nat) (x : Flt) : Flt :=
  { x with rd := 0, wr := 0, tagsMax := 0, stallTag := 0, stallFrom := x.stallFrom.map (fun _ => now), refused := 0, errors := 0,
           late := 0, pfFilled := 0, pfUsed := 0, pfTimely := 0, pfWaste := 0 }
def fltCntClr (f : Nat) (m : Module) : Module := m.setFlt f (fltClear m.clk.cycle (m.flt' f))
def execFltCntClr (f : Fin 32) (s : State) : Out := done s (fltCntClr f.val s.m)

end Sys2Proof.Machine
end

