-- ==== Sys2Proof/Machine/Gal.lean ====
section
/-! DEFINITION. Galleries (chapter 5): MATMUL, ACC_LOAD and ACC_READ, read-out with its checks, and completion. -/

namespace Sys2Proof.Machine

/-! ### Fields and checks -/

/-- What EQ.PUSH checks of a Gallery descriptor beyond its header (R21, R25, R57, R202 to R204, R208). -/
def galPushOk (d : Desc) : Bool :=
  match d.ty.toNat with
  | 0x10 => d.len = 96 && nfld d.flags.toNat 6 6 = 0 && !d.fl 2 && fld d.flags 4 2 != 3 && nfld (d.f 70 2) 11 5 = 0
      && zeros d.bytes 79 1 && zeros d.bytes 84 12 && spOk (d.b 74) && spOk (d.b 75) && (!d.fl 1 || spOk (d.b 76))
  | 0x11 => d.len = 64 && d.flags = 0 && nfld (d.f 28 2) 11 5 = 0 && zeros d.bytes 33 31 && spOk (d.b 32)
  | 0x12 => d.len = 64 && d.flags = 0 && nfld (d.f 28 2) 11 5 = 0 && zeros d.bytes 33 31 && spOk (d.b 32)
  | _ => false

/-- A refusal (R207). -/
def galRefuse (g code : Nat) (d : Desc) (m : Module) : Module :=
  let x := m.gal' g
  bodyRefused 0 g code d (m.setGal g { x with refused := x.refused + 1 })

def mmKt (d : Desc) : Nat := d.f 68 2
def mmN (d : Desc) : Nat := nfld (d.f 70 2) 0 11
def mmM (d : Desc) : Nat := d.f 72 1 + 1
def mmRow0 (d : Desc) : Nat := d.f 73 1
def mmZpMode (d : Desc) : Nat := fld d.flags 4 2
def accN (d : Desc) : Nat := nfld (d.f 28 2) 0 11
def accM (d : Desc) : Nat := d.f 30 1 + 1
def accRow0 (d : Desc) : Nat := d.f 31 1

/-- The tile depth of a MATMUL's pair. -/
def mmKd (d : Desc) : Nat :=
  match pairInfo (d.b 74) (d.b 75) with
  | some x => x.1
  | none => 32

/-- The read-out formats of a pair: floating-point, integer, or the union (R209). -/
def readFmtOk (sp : Byte) (flt int : Bool) : Bool :=
  let c := spCode sp
  !spMx sp && (c = 0 || c = 0x30 || (flt && (c = 1 || c = 2)) || (int && c = 0x24))

/-- The refusal of a MATMUL at the head: the lowest code whose rule is broken (R207, R744). -/
def matmulRefusal (m : Module) (g : Nat) (d : Desc) : Option Nat :=
  let a := d.b 74
  let w := d.b 75
  let kd := mmKd d
  let kt := mmKt d
  let n := mmN d
  let rows := mmM d
  let int := match pairInfo a w with
    | some x => x.2.2
    | none => false
  let rowLen := spLen a (kt * kd)
  let tileLen := spLen w (n * kd)
  firstCode [
    (0x10, mmRow0 d + rows > 256),
    (0x11, n = 0 || n > 1024 || kt = 0),
    (0x12, (pairInfo a w).isNone || (d.fl 1 && !readFmtOk (d.b 76) (!int) int)),
    (0x13, (d.fl 3 && !zpOk a (d.b 77)) || (mmZpMode d = 1 && !zpOk w (d.b 78)) || (mmZpMode d = 2 && !zpOk w 0)),
    (0x14, mxStrideBad a (d.f 56 4) rows
      || mxStrideBad w (d.f 64 4) kt),
    (0x15, !hallRows m d.part (d.a 16) (d.f 56 4) rows rowLen || !hallRows m d.part (d.a 24) (d.f 64 4) kt tileLen
      || (spMx a && !hallRows m d.part (d.a 40) (d.f 80 4) rows (kt * kd / 32))
      || (spMx w && !hallRows m d.part (d.a 48) 2048 kt (n * (kd / 32)))
      || (mmZpMode d = 2 && !hallAt m d.part (d.a 48) 0 n)
      || (d.fl 1 && !hallRows m d.part (d.a 32) (d.f 60 4) rows (spLen (d.b 76) n))),
    (0x16, gaOff (d.a 16) % 8 != 0 || d.f 56 4 % 8 != 0 || gaOff (d.a 32) % 8 != 0 || d.f 60 4 % 8 != 0
      || gaOff (d.a 24) % 256 != 0 || d.f 64 4 % 256 != 0 || d.f 64 4 < tileLen || d.f 56 4 < rowLen),
    (0x17, oddPair m g d.part)]

/-- The refusal of an ACC_LOAD or ACC_READ (R207, R208). -/
def accRefusal (m : Module) (g : Nat) (d : Desc) : Option Nat :=
  let sp := d.b 32
  let n := accN d
  firstCode [
    (0x10, accRow0 d + accM d > 256),
    (0x11, n = 0 || n > 1024),
    (0x12, if d.ty = 0x11 then !(sp = 0x00 || sp = 0x30) else !readFmtOk sp true true),
    (0x15, !hallRows m d.part (d.a 16) (d.f 24 4) (accM d) (spLen sp n)),
    (0x16, gaOff (d.a 16) % 8 != 0 || d.f 24 4 % 8 != 0),
    (0x17, oddPair m g d.part)]

/-! ### ECC -/

/-- ECC errors met by a Gallery (R223, R226). -/
def galEcc (d : Desc) (g : Nat) (hits : List EccHit) (m : Module) : Module :=
  let x := m.gal' g
  let last := match eccLastHit hits with
    | some h => pack [(h.row % 256, 16), (h.col % 1024, 0)]
    | none => x.eccLast
  eccEvents 5 g d hits (m.setGal g { x with
    eccC := satAdd x.eccC (eccCount false hits), eccU := satAdd x.eccU (eccCount true hits), eccLast := last })

/-! ### Starting a descriptor (R199) -/

/-- The Gallery's next descriptor of a type, when the unit can start (R137, R199). -/
def galHead (m : Module) (g ty : Nat) : Option (QKey × Desc) :=
  if canStart m 0 g then
    match headOwned m 0 g with
    | some (k, d) => if d.ty.toNat = ty then some (k, d) else none
    | none => none
  else none

/-- Lets time pass to the cycle in which the Gallery can start a descriptor (R199); none when an UP of its Balcony then starts first
(R247). -/
def galTurn (g : Nat) (m : Module) : Option Module :=
  let m := settleBal g (passToCycle (m.gal' g).busyTo m)
  if upReady m g then none else some m

/-- What a read-out of rows will deliver: their values in columns 0 to N − 1, and in checksum mode each array row group of each row,
with its checksum values (R205, R215). -/
def snapRows (x : Gal) (row0 n k : Nat) : List (Nat × List W64) :=
  (List.range k).map (fun i => (row0 + i, (List.range n).map (fun j => nget 0 x.acc (accKey (row0 + i) j))))

def snapCells (x : Gal) (row0 k : Nat) : List (Nat × Nat × ChkCell × List W64) :=
  (List.range k).flatMap (fun r => (List.range 32).map (fun i =>
    (row0 + r, i, nget ChkCell.init x.chk (cellKey (row0 + r) i),
      (List.range 32).map (fun j => nget 0 x.acc (accKey (row0 + r) (32 * i + j))))))

/-- Reads the activation rows of a MATMUL (R205, R190, R191). -/
def actRows (w : Nat) (d : Desc) (kd : Nat) (m : Module) : List ActRow × Module :=
  let a := d.b 74
  let k := mmKt d * kd
  let z := if d.fl 3 then zeroPoint a (d.b 77) else 0
  let (rows, m) := readRows w d.part (d.a 16) (d.f 56 4) (spLen a k) (mmM d) m
  let (scs, m) := if spMx a then readRows w d.part (d.a 40) (d.f 80 4) (k / 32) (mmM d) m else ([], m)
  ((List.range (mmM d)).map (fun i =>
    { row := mmRow0 d + i
      xs := fun b => (List.range 32).map (fun e => elemVal a z (rows.getD i []) (b * 32 + e))
      sx := fun b => if spMx a then scaleVal ((scs.getD i []).getD b 0) else one }), m)

/-- Reads the weight tiles of a MATMUL (R205, R191). -/
def mmStation (w : Nat) (d : Desc) (kd : Nat) (int : Bool) (m : Module) : Station × List Byte × Module :=
  let sp := d.b 75
  let n := mmN d
  let (tiles, m) := readRows w d.part (d.a 24) (d.f 64 4) (spLen sp (n * kd)) (mmKt d) m
  let (scs, m) := if spMx sp then readRows w d.part (d.a 48) 2048 (n * (kd / 32)) (mmKt d) m else ([], m)
  let (zps, m) := if mmZpMode d = 2 then hallRead w d.part (gaOff (d.a 48)) n m else ([], m)
  let zp (j : Nat) : Int :=
    if mmZpMode d = 1 then zeroPoint sp (d.b 78)
    else if mmZpMode d = 2 then zeroPoint sp (zps.getD j 0)
    else 0
  (tileStation sp kd n (mmKt d) int tiles scs zp, tiles.getLastD [], m)

/-- A descriptor's entry among those that the Gallery has started, with its read-out or preload `rd` of row groups as scheduled. -/
def galOpOf (x : Gal) (d : Desc) (segs : List Seg) (startC nextC lastC : Nat) (rd : Nat × Nat) (preload readout chk : Bool)
    (row0 n k : Nat) (outAddr : W64) (outStride : Nat) (outFmt : Byte) : GalOp :=
  { desc := d, segs := segs, startC := startC, nextC := nextC, lastC := lastC, rdStart := rd.1, rdEnd := rd.2, doneC := rd.2 + 1
    rows := if readout then snapRows x row0 n k else [], cells := if readout && chk then snapCells x row0 k else []
    readout := readout, read := false, preload := preload, outAddr := outAddr, outStride := outStride, outFmt := outFmt
    failed := false }

/-- The schedule of a read-out or preload of row groups that is ready in cycle `t`, and its wait under R198. -/
def rdPlan (x : Gal) (t : Nat) (gs : List Nat) : (Nat × Nat × NMap Nat) × List Seg :=
  let w := rdWait x t gs
  (rdSched x (t + w) gs, if w = 0 then [] else [{ kind := .wait, start := t, len := w, per := 1 }])

/-- A MATMUL starts: its loads and vectors, its updates and the schedule of all that follows (R192 to R201). -/
def mmStart (g : Nat) (d : Desc) (stalls : List Nat) (kd c : Nat) (int : Bool) (ecc balHits : List EccHit) (m : Module) : Module :=
  let w := g / 32
  let kt := mmKt d
  let k := mmM d
  let row0 := mmRow0 d
  let (acts, m) := actRows w d kd m
  let (st, last, m) := mmStation w d kd int m
  let x := m.gal' g
  let u := m.clk.cycle
  let chk := chkOn m d.part
  let (segs, e) := mmSched x u stalls c kt (acts.map (·.row))
  let x1 := galStream u e segs (k * kt) (streamHits chk (!d.fl 0) (readWeights (d.b 75) ecc st) acts ecc x)
  let (rd, ws) := if d.fl 1 then rdPlan x1 (e + 40) (groupsOf row0 k) else ((e + 40, e + 39, x1.grpFree), [])
  let op := galOpOf x1 d (ws ++ segs) u e (e + 39) (rd.1, rd.2.1) false (d.fl 1) chk row0 (mmN d) k (d.a 32) (d.f 60 4) (d.b 76)
  let rdBusy := if d.fl 1 then rd.2.1 + 1 - rd.1 else 0
  let busy := streamBusy x u e
  let m := m.setGal g { x1 with
    grpFree := rd.2.2, rdFree := if d.fl 1 then rd.2.1 + 1 else x1.rdFree, ops := x1.ops ++ [op]
    stallIlk := x1.stallIlk + BitVec.ofNat 64 (segSum [.wait] ws)
    busy := x1.busy + BitVec.ofNat 64 rdBusy, weights := last, lastProgress := m.clk.elapsed }
  tap g d kd c kt int row0 k (segSum [.loadStall, .vecStall] segs) (e + 40) balHits acts
    (addPGal d.part (busy + rdBusy) (hallLost w (segSum [.loadStall, .vecStall] segs) m))

def execMatmul (g : Fin 64) (stalls : List Nat) (ecc balEcc : List EccHit) (errs : List MemErr) (s : State) : Out :=
  let m := settleBal g.val s.m
  match galHead m g.val 0x10 with
  | none => stop "MATMUL"
  | some (k, d) =>
    let m0 := dequeue k m
    match matmulRefusal m0 g.val d, pairInfo (d.b 74) (d.b 75) with
    | some c, _ => done s (galRefuse g.val c d m0)
    | none, none => done s (galRefuse g.val 0x12 d m0)
    | none, some (kd, c, int) =>
      match galTurn g.val m0 with
      | none => stop "MATMUL"
      | some m =>
        let m := eccBoth d.part g.val ecc (galEcc d) (memErrs d.part errs (descStart 0 g.val d m))
        done s (lockstep g.val d.part m0 (mmStart g.val d stalls kd c int ecc balEcc m))

/-- An ACC_LOAD or ACC_READ starts: it counts its last vector as entered in its first cycle, and moves no row before the last update of
what started before it (R198, R199, R208). -/
def accStart (g : Nat) (d : Desc) (load : Bool) (x : Gal) (m : Module) : Module :=
  let u := m.clk.cycle
  let k := accM d
  let t := max u (x.lastUpd + 1)
  let (rd, ws) := rdPlan x t (groupsOf (accRow0 d) k)
  let ws := ws ++ (if t = u then [] else [{ kind := .wait, start := u, len := t - u, per := 1 }])
  let op := galOpOf x d ws u (u + 1) u (rd.1, rd.2.1) load (!load) (chkOn m d.part) (accRow0 d) (accN d) k (d.a 16) (d.f 24 4) (d.b 32)
  addPGal d.part (rd.2.1 + 1 - rd.1) (m.setGal g { x with
    busyTo := u + 1, grpFree := rd.2.2, rdFree := rd.2.1 + 1, ops := x.ops ++ [op]
    stallIlk := x.stallIlk + BitVec.ofNat 64 (segSum [.wait] ws)
    busy := x.busy + BitVec.ofNat 64 (rd.2.1 + 1 - rd.1), lastProgress := m.clk.elapsed })

/-- Writes one preloaded row, its columns N to 1,023 zero, and seeds its checksum values (R208, R219). -/
def preloadRow (chk : Bool) (row : Nat) (vs : List W64) (x : Gal) : Gal :=
  let acc := (List.zip (List.range vs.length) vs).foldl (fun a e => nset 0 a (accKey row e.1) e.2)
    (x.acc.filter (fun e => e.1 / 1024 != row))
  { x with
    acc := acc
    chk := if chk then (List.range 32).foldl (fun c i =>
        let g := (List.range 32).map (fun j => nget 0 acc (accKey row (32 * i + j)))
        nset ChkCell.init c (cellKey row i)
          { e := groupSum g, mag := groupSum (g.map (fun v => toA48 (vabs (a48 v)))), nb := 0, int := false }) x.chk
      else x.chk }

def execAccLoad (g : Fin 64) (errs : List MemErr) (s : State) : Out :=
  let m := settleBal g.val s.m
  match galHead m g.val 0x11 with
  | none => stop "ACC_LOAD"
  | some (k, d) =>
    let m0 := dequeue k m
    match accRefusal m0 g.val d with
    | some c => done s (galRefuse g.val c d m0)
    | none =>
      match galTurn g.val m0 with
      | none => stop "ACC_LOAD"
      | some m =>
        let m := memErrs d.part errs (descStart 0 g.val d m)
        let sp := d.b 32
        let (rows, m) := readRows (g.val / 32) d.part (d.a 16) (d.f 24 4) (spLen sp (accN d)) (accM d) m
        let x := (List.zip (List.range rows.length) rows).foldl (fun x e =>
          preloadRow (chkOn m d.part) (accRow0 d + e.1) ((List.range (accN d)).map (fun j => toA48 (elemVal sp 0 e.2 j))) x)
          (m.gal' g.val)
        done s (lockstep g.val d.part m0 (accStart g.val d true x m))

def execAccRead (g : Fin 64) (s : State) : Out :=
  let m := settleBal g.val s.m
  match galHead m g.val 0x12 with
  | none => stop "ACC_READ"
  | some (k, d) =>
    let m0 := dequeue k m
    match accRefusal m0 g.val d with
    | some c => done s (galRefuse g.val c d m0)
    | none =>
      match galTurn g.val m0 with
      | none => stop "ACC_READ"
      | some m =>
        let m := descStart 0 g.val d m
        done s (lockstep g.val d.part m0 (accStart g.val d false (m.gal' g.val) m))

/-! ### Read-out (R197, R215 to R222) -/

/-- Puts values at places of the rows read out. -/
def overRows (vs : List (Nat × Nat × W64)) (rows : List (Nat × List W64)) : List (Nat × List W64) :=
  rows.map (fun r => (r.1, vs.foldl (fun l v => if v.1 = r.1 then l.set v.2.1 v.2.2 else l) r.2))

/-- The same for the groups that are checked. -/
def overCells (vs : List (Nat × Nat × W64)) (cs : List (Nat × Nat × ChkCell × List W64)) : List (Nat × Nat × ChkCell × List W64) :=
  cs.map (fun c => (c.1, c.2.1, c.2.2.1, vs.foldl (fun l v =>
    if v.1 = c.1 && v.2.1 / 32 = c.2.1 then l.set (v.2.1 % 32) v.2.2 else l) c.2.2.2))

/-- What the fault of a kind gives at a group, or at an element for a fault of the output (R222). -/
def faultAt (fs : List CellFault) (site : FaultSite) (row : Nat) (col : Nat → Bool) : Option W64 :=
  ((fs.filter (fun f => f.site = site && f.row = row && col f.col)).getLast?).map (·.val)

/-- The checksum values of a group, where the checksum unit may be faulty, and the sum S that the checksum-row accumulator forms of it
(R214, R215, R222). -/
def checkedCell (fs : List CellFault) (c : Nat × Nat × ChkCell × List W64) : ChkCell × W64 :=
  let at_ (site : FaultSite) (v : W64) : W64 := (faultAt fs site c.1 (fun j => j / 32 = c.2.1)).getD v
  ({ c.2.2.1 with e := at_ .expected c.2.2.1.e, mag := at_ .magnitude c.2.2.1.mag }, at_ .actual (groupSum c.2.2.2))

/-- The checksum comparison of one group (R217, R218): `v` its checksum values and its sum. -/
def checkOne (g : Nat) (d : Desc) (row grp : Nat) (v : ChkCell × W64) (m : Module) : Module :=
  let x := m.gal' g
  match checkGroup v.1 v.2 with
  | none => m.setGal g { x with chkSkip := satAdd x.chkSkip 1 }
  | some true => compared (g / 32) 1 (m.setGal g { x with chkPass := x.chkPass + 1 })
  | some false =>
    mismatch (g / 32) 0 g [g] d (compared (g / 32) 1 (m.setGal g { x with
      chkFail := satAdd x.chkFail 1
      chkLast := pack [(d.seq.toNat % 2 ^ 32, 32), (d.ctx, 29), (row, 16), (grp, 8)] }))

/-- Writes the rows of a read-out, through a conversion that may be faulty (R205, R209, R222). -/
def writeRead (g : Nat) (o : GalOp) (fs : List CellFault) (rows : List (Nat × List W64)) (m : Module) : Module :=
  (List.zip (List.range rows.length) rows).foldl (fun m e =>
    let c := convBits o.outFmt (e.2.2.map a48)
    let x := m.gal' g
    let m := m.setGal g { x with clip := satAdd x.clip c.2.1, nanrep := satAdd x.nanrep c.2.2 }
    let w := (spFmt o.outFmt).bits
    let bits := (List.zip (List.range c.1.length) c.1).map (fun b =>
      match faultAt fs .output e.2.1 (fun j => j = b.1) with
      | some v => v.toNat % 2 ^ w
      | none => b.2)
    hallWrite (g / 32) o.desc.part (gaOff o.outAddr + e.1 * o.outStride) (packElems w bits) m) m

def execGalReadout (g : Fin 64) (faults : List CellFault) (pairDiff : Bool) (ecc : List EccHit) (s : State) : Out :=
  match (s.m.gal' g.val).ops.find? (fun o => o.readout && !o.read) with
  | none => stop "GAL_READOUT"
  | some o =>
    let m0 := settleBal g.val (passToCycle o.rdStart s.m)
    let m := eccBoth o.desc.part g.val ecc (galEcc o.desc) (passToCycle o.rdEnd m0)
    let x := m.gal' g.val
    let cells := (faults.filter (fun f => f.site = .cell)).map (fun f => (f.row, f.col, f.val))
    let m := m.setGal g.val { x with
      acc := cells.foldl (fun a f => nset 0 a (accKey f.1 f.2.1) f.2.2) x.acc
      ops := x.ops.map (fun q => if q = o then { q with read := true } else q), lastProgress := m.clk.elapsed }
    let at_ := cells ++ (ecc.filter (fun h => h.unc && !h.odd && h.store = 0)).map (fun h => (h.row, h.col, h.val))
    let rows := overRows at_ o.rows
    let m := lockstep g.val o.desc.part m0 (writeRead g.val o faults rows m)
    let m := if o.failed then m
      else if fullMode m o.desc.part then
        let bad := ((List.zip rows o.rows).flatMap (fun e => (List.zip e.1.2 e.2.2).filter (fun v => v.1 != v.2))).length
        comparePair (g.val / 32) 0 g.val (rows.flatMap (·.2)).length (bad + b2n pairDiff) o.desc m
      else (overCells at_ o.cells).foldl (fun m c => checkOne g.val o.desc c.1 c.2.1 (checkedCell faults c) m) m
    done s m

/-! ### Completion (R199, R244) -/

def execGalComplete (g : Fin 64) (s : State) : Out :=
  match (s.m.gal' g.val).ops with
  | [] => stop "GAL_COMPLETE"
  | o :: r =>
    if o.readout && !o.read then stop "GAL_COMPLETE"
    else
      let m := settleBal g.val (passToCycle o.doneC s.m)
      let m := m.setGal g.val { m.gal' g.val with ops := r, lastProgress := m.clk.elapsed }
      done s (complete 0 g.val o.desc o.failed m)

/-- GAL_BUSY to GAL_CLIP to zero (R226, R229); what has started and not come to pass, `left`, is still to come. -/
def galClear (left : W64 × W64 × W64 × W64 × W64) (x : Gal) : Gal :=
  { x with busy := left.1, vec := left.2.1, stallLoad := left.2.2.1, stallHall := left.2.2.2.1, stallIlk := left.2.2.2.2, refused := 0,
           clip := 0, nanrep := 0 }

/-- The member of a pair whose descriptors a Gallery or Balcony runs: the even one for the odd one of a full-mode pair (R221, R257). -/
def pairLead (m : Module) (g : Nat) : Nat :=
  match owner m 0 g with
  | some p => if oddPair m g p then g - 1 else g
  | none => g

/-- The partition whose descriptors a Gallery's array runs. -/
def galPart (m : Module) (g : Nat) : Option Nat :=
  match (m.gal' g).ops.map (·.desc.part) ++ (m.bal' g).ups.map (·.desc.part) with
  | p :: _ => some p
  | [] => none

/-- GAL_CNT_CLR (R226). -/
def galCntClr (g : Nat) (m : Module) : Module :=
  let e := pairLead m g
  m.setGal g (galClear (galLeft m.clk.cycle (m.gal' e) (m.bal' e)) (m.gal' g))

def execGalCntClr (g : Fin 64) (s : State) : Out := done s (galCntClr g.val s.m)

end Sys2Proof.Machine
end

