-- ==== Sys2Proof/Machine/MemRows.lean ====
section
/-! DEFINITION. The commands of the memory tiers (chapter 9): aged Hall requests, cache commands, counter clears and channel
tests. -/

namespace Sys2Proof.Machine

/-- Whether a requester's lost cycles come with its own command, as Hall stalls: an engine that computes (R200, R294, R299, R316). -/
def hallStalled (q : HallReq) : Bool :=
  match q with
  | .gallery => true | .landing => true | .narrow => true
  | .corridor => false | .flight => false | .cache => false | .core => false

/-- A request that has waited 64 cycles or more becomes aged and is granted before all others (R352, R353). The cycles it lost are
counted here unless its engine's command counts them (log entry 164). -/
def execHallRequestAged (bank : Fin 512) (req : HallReq) (_idx waited : Nat) (s : State) : Out :=
  let w := bank.val / 256
  let m := if hallStalled req then s.m else hallLost w (max 64 waited) s.m
  let h := m.hallW' w
  done s (m.setHallW w { h with aged := h.aged + 1 })

/-! ### Cache commands (R364) -/

/-- FLUSH, or INVALIDATE when `inv`; a second command while one runs is ignored and counted. -/
def cacheCommand (p : Nat) (inv : Bool) (m : Module) : Module :=
  let c := m.cache p
  if c.busy.isSome then m.setCache p { c with ign := c.ign + 1 }
  else if cacheSets m p = 0 then m
  else
    let m := flushCache p (fun _ => true) m
    m.setCache p { m.cache p with busy := some inv }

/-- BUSY clears; an INVALIDATE has written back every dirty sector and marks every line invalid. -/
def cacheDone (p : Nat) (inv : Bool) (m : Module) : Module :=
  let m := if inv then invalidateCache p (flushCache p (fun _ => true) m) else m
  m.setCache p { m.cache p with busy := none }

def execFlush (p : Fin 16) (errs : List MemErr) (s : State) : Out := done s (cacheCommand p.val false (memErrs p.val errs s.m))
def execInvalidate (p : Fin 16) (errs : List MemErr) (s : State) : Out := done s (cacheCommand p.val true (memErrs p.val errs s.m))
def execCacheCommandDone (p : Fin 16) (s : State) : Out :=
  match (s.m.cache p.val).busy with
  | none => stop "CACHE_COMMAND_DONE"
  | some inv => done s (cacheDone p.val inv s.m)

/-! ### Counter clears (R384, R387) -/

def hallClear (h : HallWing) : HallWing := { h with conflict := 0, aged := 0, remote := 0 }
def memClear (u : MemUnit) : MemUnit := { u with rd := 0, wr := 0, rmw := 0, atom := 0 }

def execHallCntClr (w : Fin 2) (s : State) : Out := done s (s.m.setHallW w.val (hallClear (s.m.hallW' w.val)))
def execHbmCntClr (stack : Fin 8) (s : State) : Out := done s (updMemUnit 1 stack.val memClear s.m)
def execLpxCntClr (pkg : Fin 24) (s : State) : Out := done s (updMemUnit 2 pkg.val memClear s.m)

/-! ### Channel tests (R375 to R379) -/

/-- The index of a channel's test set: HBM4 channels first, then four for each package. -/
def chKey (ch : MemCh) : Nat :=
  match ch with
  | .hbm c => c.val
  | .lpx p c => 256 + 4 * p.val + c.val

/-- The unit of a channel: its service-unit class and index, and the channel's number for DETAIL (R383). -/
def chUnit (k : Nat) : Nat × Nat := if k < 256 then (7, k) else (8, (k - 256) / 4)
def chTier (k : Nat) : Nat := if k < 256 then 1 else 2
def chIndex (k : Nat) : Nat := if k < 256 then k % 32 else (k - 256) % 4

def tgGet (m : Module) (k : Nat) : Tg := nget Tg.init m.mem.tg k
def tgSet (k : Nat) (t : Tg) (m : Module) : Module := { m with mem := { m.mem with tg := nset Tg.init m.mem.tg k t } }

/-- Whether a unit is out of service under the applied image (R93). -/
def unitOos (m : Module) (cls u : Nat) : Bool :=
  match m.img.active with
  | none => false
  | some t => t.isOos cls u

/-! #### What a test does (R376, R377)

A test runs its passes at the channel's rate, so the sectors it has passed follow from the time since START. Sectors are numbered from
the start of the channel, passes from 0 (log entry 15). -/

/-- The bytes of a channel (R345, R347). -/
def chBytes (k : Nat) : Nat := if k < 256 then 0x80000000 else 0x800000000

/-- The physical address of a channel offset (R347). -/
def chPhys (k off : Nat) : Nat :=
  if k < 256 then slotSize 1 * k + off else slotSize 2 * ((k - 256) / 4) + 1024 * (off / 256) + 256 * chIndex k + off % 256

/-- The range's first offset and its sectors, in whole 256-byte blocks of the channel (R376). -/
def tgBase (t : Tg) : Nat := t.base.toNat / 256 * 256
def tgSectors (k : Nat) (t : Tg) : Nat := min t.len.toNat (chBytes k - tgBase t) / 256 * 8

def testPasses (t : Tg) : Nat := max 1 t.passes.toNat

/-- The sectors that one pass writes or reads, and the whole test (R377). -/
def passSteps (k : Nat) (t : Tg) : Nat := (if t.mode = 0 then 2 else 1) * tgSectors k t
def testSteps (k : Nat) (t : Tg) : Nat := testPasses t * passSteps k t

/-- Puts a number into a list sorted by a rank, behind those of its own rank. -/
def insRank (f : Nat → Nat) (x : Nat) : List Nat → List Nat
  | [] => [x]
  | y :: r => if f x < f y then x :: y :: r else y :: insRank f x r

/-- The sectors of the range in the order in which a pass visits them (R377). -/
def testWalk (k : Nat) (t : Tg) : List Nat :=
  let n := tgSectors k t
  match t.order.toNat with
  | 0 => List.range n
  | 1 => (List.range n).reverse
  | _ => ((List.range (n / 8)).foldl (fun a b => insRank (Config.testOrder t.seed) b a) []).flatMap
      (fun b => (List.range 8).map (fun i => 8 * b + i))

/-- The pattern of a sector (R376): `pos` its place in the pass, `off` its channel offset. -/
def patSector (t : Tg) (pos off : Nat) : List Byte :=
  match t.pattern.toNat with
  | 0 => List.replicate 32 0
  | 1 => List.replicate 32 0xFF
  | 2 => List.replicate 32 (if off / 32 % 2 = 0 then 0x55 else 0xAA)
  | 3 => natLe 32 (2 ^ (off / 32 % 256))
  | 4 => (List.range 4).flatMap (fun i => natLe 8 (off + 8 * i))
  | 5 => (List.range 32).map (fun i => Config.prbs t.seed (32 * pos + i))
  | _ => t.user.flatMap (fun w => natLe 8 w.toNat)

/-- What a pass writes into a sector: with INVERT, odd passes the complement. -/
def passSector (t : Tg) (pass pos off : Nat) : List Byte :=
  if t.invert && pass % 2 = 1 then (patSector t pos off).map (fun b => ~~~b) else patSector t pos off

/-- Data lanes of a channel (R378), and the lanes on which bits of a sector differ: bit b of a sector travels on lane b mod the width. -/
def chLanes (k : Nat) : Nat := if k < 256 then 64 else 16
def wrongLanes (k : Nat) (a b : List Byte) : W64 :=
  let x := leNat (List.zipWith (fun x y => x ^^^ y) a b)
  (List.range (256 / chLanes k)).foldl (fun r i => r ||| BitVec.ofNat 64 (x / 2 ^ (chLanes k * i) % 2 ^ chLanes k)) 0

/-- The bytes of a sector as the checker reads them: those of a slow-tier sector stored under a partition's key are unknown (R661). -/
def rawSector (k : Nat) (t : Tg) (off : Nat) (m : Module) : List Byte :=
  (sectorBytes 16 (chTier k) (chPhys k off) (chPhys k off) { m with mem := { m.mem with freeCount := t.freeAt } }).1

/-- The wrong lanes of a sector in a pass: the faults the hardware meets, and in MODE 2 what the memory held before (R377). -/
def sectorLanes (k : Nat) (t : Tg) (pass pos off : Nat) (m : Module) : W64 :=
  t.faults.foldl (fun r f => if f.pass = pass && f.off / 32 * 32 = off then r ||| (f.lanes &&& BitVec.ofNat 64 (2 ^ chLanes k - 1)) else r)
    (if t.mode = 2 then wrongLanes k (rawSector k t off m) (patSector t pos off) else 0)

/-- The failing sectors among the first `steps` of a test, in the order met, as (channel offset, wrong lanes); MODE 1 reads nothing. -/
def testFails (k : Nat) (t : Tg) (steps : Nat) (m : Module) : List (Nat × W64) :=
  if t.mode = 1 then []
  else
    let walk := List.zip (List.range (tgSectors k t)) (testWalk k t)
    (List.range (testPasses t)).flatMap (fun pass => walk.filterMap (fun x =>
      let off := tgBase t + 32 * x.2
      let at_ := pass * passSteps k t + (if t.mode = 0 then tgSectors k t else 0) + x.1
      let lanes := sectorLanes k t pass x.1 off m
      if at_ < steps && lanes != 0 then some (off, lanes) else none))

/-- The registers after the first `steps` of a test (R378, R390). -/
def testResult (k : Nat) (t : Tg) (steps : Nat) (m : Module) : Tg :=
  let fs := testFails k t steps m
  { t with
    errs := BitVec.ofNat 64 fs.length
    first := match fs.head? with
      | some f => BitVec.ofNat 35 f.1
      | none => 0
    bits := fs.foldl (fun b f => b ||| f.2) 0
    passesDone := BitVec.ofNat 16 (if passSteps k t = 0 then testPasses t else steps / passSteps k t) }

/-- What the first `steps` of a test leave in its range: each sector as the last pass that wrote it did. -/
def testWrites (k : Nat) (t : Tg) (steps : Nat) (m : Module) : Module :=
  if t.mode = 2 then m
  else (List.zip (List.range (tgSectors k t)) (testWalk k t)).foldl (fun m x =>
    if x.1 < steps then
      let off := tgBase t + 32 * x.2
      let pass := min (testPasses t - 1) ((steps - x.1 - 1) / passSteps k t)
      storeSector 16 (chTier k) (chPhys k off) (chPhys k off) (passSector t pass x.1 off) false m
    else m) m

/-- The steps a test has taken by now (R376): 64 GB/s is two sectors a nanosecond, and a package's channel, a quarter of 76.8 GB/s,
three in five (R345). -/
def testProgress (k : Nat) (t : Tg) (m : Module) : Nat :=
  let dt := m.clk.elapsed - t.startAt
  min (testSteps k t) (if k < 256 then 2 * dt else 3 * dt / 5)

/-- When a test has taken its last step. -/
def testDue (k : Nat) (t : Tg) : Nat := t.startAt + (if k < 256 then ceilDiv (testSteps k t) 2 else ceilDiv (5 * testSteps k t) 3)

/-- A channel's test set as its registers show it now. -/
def tgNow (m : Module) (k : Nat) : Tg :=
  let t := tgGet m k
  if t.running then testResult k t (testProgress k t m) m else t

/-! #### START, STOP and the end -/

/-- START (R375 to R377, R389): a unit in service refuses it; reserved codes and a running test leave it ignored. -/
def testStart (k : Nat) (faults : List TestFail) (m : Module) : Module :=
  let t := tgGet m k
  let u := chUnit k
  if t.running then m
  else if !unitOos m u.1 u.2 then tgSet k { t with refused := true, refusedAt := instant m } m
  else if t.pattern = 7 || t.mode = 3 || t.order = 3 then m
  else tgSet k { t with
      running := true, startAt := m.clk.elapsed, faults := faults, freeAt := m.mem.freeCount, passesDone := 0, errs := 0, first := 0
      bits := 0 } { m with mem := { m.mem with freeCount := m.mem.freeCount + 1 } }

/-- A test ends after some of its steps; the counts are kept (R379). -/
def testHalt (k steps : Nat) (m : Module) : Module :=
  let t := tgGet m k
  testWrites k t steps (tgSet k { testResult k t steps m with running := false } m)

/-- The end of a test with its outcome (R378, R379, R390). -/
def testEnd (k steps : Nat) (m : Module) : Module :=
  let m := testHalt k steps m
  let t := tgGet m k
  let m := tgSet k { t with isDone := true, isDoneAt := instant m } m
  let cls := tierEvCls (chTier k)
  if t.errs = 0 then ev cls 4 (chUnit k).2 0 31 0 (BitVec.ofNat 64 (chIndex k)) m
  else ev cls 5 (chUnit k).2 2 31 0 t.errs m

/-- STOP ends a running test after the current sector (R379). -/
def testStop (k : Nat) (m : Module) : Module :=
  let t := tgGet m k
  if t.running then testEnd k (min (testSteps k t) (testProgress k t m + 1)) m else m

def execTestStart (ch : MemCh) (fails : List TestFail) (s : State) : Out := done s (testStart (chKey ch) fails s.m)
def execTestStop (ch : MemCh) (s : State) : Out := done s (testStop (chKey ch) s.m)
/-- A test has taken its last step. -/
def execChannelTestEnd (ch : MemCh) (s : State) : Out :=
  let k := chKey ch
  let t := tgGet s.m k
  if t.running then done s (testEnd k (testSteps k t) (passTo (testDue k t) s.m)) else stop "CHANNEL_TEST_END"

end Sys2Proof.Machine
end

