-- ==== Sys2Proof/Machine/Nwl.lean ====
section
/-! DEFINITION. The Newel (chapter 8): seeds, the Philox composition of draws, and the GEN and SEED descriptors. -/

namespace Sys2Proof.Machine

/-! ### Draws (R330 to R333) -/

/-- One round of Philox-4×32-10 (R332): the four counter words and the two key words. -/
def philoxRound (s : W32 × W32 × W32 × W32 × W32 × W32) : W32 × W32 × W32 × W32 × W32 × W32 :=
  let p0 : W64 := 0xD2511F53 * s.1.setWidth 64
  let p1 : W64 := 0xCD9E8D57 * s.2.2.1.setWidth 64
  let hi (x : W64) : W32 := (x >>> 32).setWidth 32
  let k := s.2.2.2.2
  (hi p1 ^^^ s.2.1 ^^^ k.1, p1.setWidth 32, hi p0 ^^^ s.2.2.2.1 ^^^ k.2, p0.setWidth 32, k.1 + 0x9E3779B9, k.2 + 0xBB67AE85)

/-- The rounds of one evaluation. -/
def philoxGo : Nat → W32 × W32 × W32 × W32 × W32 × W32 → List W32
  | 0, s => [s.1, s.2.1, s.2.2.1, s.2.2.2.1]
  | n + 1, s => philoxGo n (philoxRound s)

/-- A draw (R330, R331): seed, partition, tensor identifier, position, step component, draw index, and whether it is the
32-bit width. -/
def draw (seed : W64) (p t pos : Nat) (s : W32) (d : Nat) (w : Bool) : Nat :=
  let pos := pos % 2 ^ 48
  let b := if w then pos / 4 else pos / 8
  let c1 := 2 ^ 22 * (d % 4) + p % 32 * 2 ^ 17 + b2n w * 2 ^ 16 + b / 2 ^ 32 % 2 ^ 16
  let x := philoxGo 10 (BitVec.ofNat 32 b, BitVec.ofNat 32 c1, BitVec.ofNat 32 t, s, seed.setWidth 32, (seed >>> 32).setWidth 32)
  if w then (x.getD (pos % 4) 0).toNat
  else (x.getD (pos % 8 / 2) 0).toNat >>> (16 * (pos % 2)) % 2 ^ 16

/-! ### Seeds (R326 to R329, R338) -/

def seedOf (m : Module) (w p slot : Nat) : W64 := nget 0 (m.nwl' w).seeds (8 * p + slot)
def stepComp (m : Module) (w p : Nat) : W32 := nget 0 (m.nwl' w).step p

/-- Whether a Newel refuses a partition's draws (R338). -/
def drawsRefused (m : Module) (w p : Nat) : Bool := (m.nwl' w).bad.any (fun k => k / 8 = p)

/-- Both copies of a partition's step component (R326, R327). -/
def setStepComp (p : Nat) (s : W32) (m : Module) : Module :=
  let m := m.setNwl 0 { m.nwl' 0 with step := nset 0 (m.nwl' 0).step p s }
  m.setNwl 1 { m.nwl' 1 with step := nset 0 (m.nwl' 1).step p s }

/-- Both copies of a seed; the slot holds no error any more (R326, R338). -/
def setSeed (p slot : Nat) (v : W64) (m : Module) : Module :=
  let f (x : Nwl) : Nwl := { x with seeds := nset 0 x.seeds (8 * p + slot) v, bad := x.bad.filter (· != 8 * p + slot) }
  (m.setNwl 0 (f (m.nwl' 0))).setNwl 1 (f (m.nwl' 1))

/-- A draw is refused: the Newel records the descriptor's code 0x13 (R338, R339). -/
def refuseDraw (w : Nat) (d : Desc) (m : Module) : Module :=
  let x := m.nwl' w
  ev 0x0A 0x13 w 2 d.part d.ctx d.seq (m.setNwl w { x with refused := x.refused + 1 })

/-- Counts evaluations and requester-cycles refused (R342). -/
def nwlCount (w calls misses : Nat) (m : Module) : Module :=
  let x := m.nwl' w
  m.setNwl w { x with
    calls := x.calls + BitVec.ofNat 64 calls, grantMiss := x.grantMiss + BitVec.ofNat 64 misses
    lastProgress := if calls > 0 then m.clk.elapsed else x.lastProgress }

/-! ### Descriptors (R334 to R338) -/

def nwlPushOk (d : Desc) : Bool :=
  match d.ty.toNat with
  | 0x50 => d.len = 48 && d.flags.toNat < 2 && nfld (d.f 41 1) 3 5 = 0 && nfld (d.f 42 1) 2 6 = 0 && zeros d.bytes 43 1
      && zeros d.bytes 46 2
  | 0x51 => d.len = 32 && d.flags = 0 && nfld (d.f 24 1) 3 5 = 0 && zeros d.bytes 25 7
  | _ => false

def genForm (d : Desc) : Nat := d.f 40 1
def genCount (d : Desc) : Nat := d.f 32 4
/-- Bytes that a GEN writes (R336). -/
def genLen (d : Desc) : Nat := match genForm d with
  | 0 => 2 * genCount d
  | 2 => genCount d / 8
  | _ => 4 * genCount d

def genRefusal (m : Module) (n : Nat) (d : Desc) : Option Nat :=
  firstCode [
    (0x10, genCount d = 0 || genForm d > 3 || (genForm d = 2 && genCount d % 8 != 0)),
    (0x11, !hallAt m d.part (d.a 16) 0 (genLen d)),
    (0x12, gaOff (d.a 16) % 8 != 0),
    (0x13, drawsRefused m n d.part)]

/-- The UNIF output of a 24-bit integer x, x × 2^-24 + 2^-25, rounded toward zero where it needs 25 bits, so that it stays in (0, 1)
(R336; DEDUCED, log entry 56). -/
def unifBits (x : Nat) : Nat :=
  let v := 2 * x + 1
  (toF32 (if v < 2 ^ 24 then .fin false v (-25) else .fin false x (-24))).toNat

/-- The bytes of a GEN (R336). -/
def genBytes (seed : W64) (s : W32) (d : Desc) : List Byte :=
  let dr (w : Bool) (i : Nat) : Nat := draw seed d.part (d.f 36 4) (d.f 24 8 + i) s (nfld (d.f 42 1) 0 2) w
  let is := List.range (genCount d)
  match genForm d with
  | 0 => is.flatMap (fun i => natLe 2 (dr false i))
  | 1 => is.flatMap (fun i => natLe 4 (dr true i))
  | 2 => packElems 1 (is.map (fun i => b2n (decide (dr false i < d.f 44 2))))
  | _ => is.flatMap (fun i => natLe 4 (unifBits (dr true i / 256)))

/-- ECC errors of the seeds met when a descriptor's seed is read, `row` the slot (R338). -/
def nwlEcc (n : Nat) (d : Desc) (hits : List EccHit) (m : Module) : Module :=
  let m := (hits.filter (!·.unc)).foldl (fun m h =>
    let x := m.nwl' n
    evS 0 0x0A 1 n 3 d.part 0 (BitVec.ofNat 64 (h.row % 8)) (m.setNwl n { x with eccC := satAdd x.eccC 1 })) m
  (hits.filter (·.unc)).foldl (fun m h =>
    let x := m.nwl' n
    let slot := h.row % 8
    evS 1 0x0A 2 n 5 d.part 0 (BitVec.ofNat 64 slot) (m.setNwl n { x with
      eccU := satAdd x.eccU 1, bad := (8 * d.part + slot) :: x.bad.filter (· != 8 * d.part + slot) })) m

/-! ### The grant of lanes (R325) -/

/-- The runs of cycles in which each of a wing's requesters draws, with its share, in the order of their grants: its Risers, Winders and
Landings, of which the first `n` are asked for. -/
def requesters (m : Module) (w n : Nat) : List (List (Nat × Nat × Nat)) :=
  let draws (o : Option EngOp) : List (Nat × Nat × Nat) :=
    match o with
    | some o => o.draws
    | none => []
  ((List.range 4).map (fun i => draws (m.ris' (4 * w + i)).op) ++ (List.range 2).map (fun i => draws (m.win' (2 * w + i)).op)
    ++ (List.range 8).map (fun i => draws (m.lnd' (8 * w + i)).op)).take n

/-- The lanes that a cycle leaves to whoever comes after these requesters: each receives its whole share or nothing. -/
def lanesLeft (rs : List (List (Nat × Nat × Nat))) (c : Nat) : Nat :=
  rs.foldl (fun f r => match r.find? (fun d => d.1 ≤ c && c < d.2.1) with
    | some d => if d.2.2 ≤ f then f - d.2.2 else f
    | none => f) 32

/-- Puts a number into a rising list. -/
def insertRising (x : Nat) : List Nat → List Nat
  | [] => [x]
  | y :: r => if x < y then x :: y :: r else if x = y then y :: r else y :: insertRising x r

/-- The cycles at which what these requesters take changes, rising. -/
def grantPoints (rs : List (List (Nat × Nat × Nat))) : List Nat :=
  rs.foldl (fun a r => r.foldl (fun a d => insertRising d.1 (insertRising d.2.1 a)) a) []

/-- What a requester is given from cycle `c` on until it has drawn `need`: it takes `lanes` of what is left to it, and draws
`per` in each cycle for each lane. Answers the runs of cycles with lanes, those without, and the cycle after the last. -/
def grant (rs : List (List (Nat × Nat × Nat))) (lanes : Nat → Nat) (per : Nat) :
    List Nat → Nat → Nat → List (Nat × Nat × Nat) × List (Nat × Nat) × Nat
  | [], need, c =>
    let l := max 1 (lanes (lanesLeft rs c))
    if need = 0 then ([], [], c) else ([(c, c + ceilDiv need (per * l), l)], [], c + ceilDiv need (per * l))
  | p :: ps, need, c =>
    if need = 0 then ([], [], c)
    else if p ≤ c then grant rs lanes per ps need c
    else
      let l := lanes (lanesLeft rs c)
      if l = 0 then let r := grant rs lanes per ps need p; (r.1, (c, p) :: r.2.1, r.2.2)
      else if c + ceilDiv need (per * l) ≤ p then ([(c, c + ceilDiv need (per * l), l)], [], c + ceilDiv need (per * l))
      else let r := grant rs lanes per ps (need - per * l * (p - c)) p; ((c, p, l) :: r.1, r.2)

/-- The same for a requester with a fixed share, which draws in `n` cycles. -/
def grantShare (rs : List (List (Nat × Nat × Nat))) (share n c : Nat) : List (Nat × Nat × Nat) × List (Nat × Nat) × Nat :=
  grant rs (fun f => if share ≤ f then share else 0) 1 (grantPoints rs) (share * n) c

/-- The cycles of runs, and those of them that have not passed at cycle `now`. -/
def spanSum (l : List (Nat × Nat)) : Nat := (l.map (fun s => s.2 - s.1)).sum
def spansLeft (now : Nat) (l : List (Nat × Nat)) : Nat := (l.map (fun s => spanLeft now s.1 s.2)).sum
/-- Lane-cycles not passed at cycle `now`. -/
def drawsLeft (now : Nat) (l : List (Nat × Nat × Nat)) : Nat := (l.map (fun d => d.2.2 * spanLeft now d.1 d.2.1)).sum

/-- The run of `n` cycles from `c` on, none when it is empty. -/
def spanOf (c n : Nat) : List (Nat × Nat) := if n = 0 then [] else [(c, c + n)]

/-- Of a count of a running descriptor's cycles that is added whole when it starts, what has not passed (R299, R302, R340). -/
def opLeft (now : Nat) (f : EngOp → List (Nat × Nat)) (op : Option EngOp) : Nat :=
  match op with
  | some o => spansLeft now (f o)
  | none => 0
def opSpan (o : EngOp) : List (Nat × Nat) := [(o.startC, o.doneC)]

/-- The lanes granted to a Newel's GEN in a cycle (R343). -/
def genLanes (m : Module) (n c : Nat) : Nat :=
  match (m.nwl' n).op with
  | some o => match o.draws.find? (fun d => d.1 ≤ c && c < d.2.1) with
    | some d => min d.2.2 (lanesLeft (requesters m n 14) c)
    | none => 0
  | none => 0

/-- The Newel's next descriptor of a type (R137). -/
def nwlHead (m : Module) (n ty : Nat) : Option (QKey × Desc) :=
  if (m.nwl' n).op.isNone && canStart m 5 n then
    match headShared m 5 n (m.nwl' n).rr with
    | some (k, d) => if d.ty.toNat = ty then some (k, d) else none
    | none => none
  else none

def nwlServe (n p : Nat) (m : Module) : Module := m.setNwl n { m.nwl' n with rr := p, lastProgress := m.clk.elapsed }

def execGen (n : Fin 2) (misses : Nat) (ecc : List EccHit) (s : State) : Out :=
  match nwlHead s.m n.val 0x50 with
  | none => stop "GEN"
  | some (k, d) =>
    let m := nwlServe n.val d.part (nwlEcc n.val d ecc (dequeue k s.m))
    match genRefusal m n.val d with
    | some c =>
      let m := m.setNwl n.val { m.nwl' n.val with refused := (m.nwl' n.val).refused + 1 }
      done s (bodyRefused 5 n.val c d m)
    | none =>
      let m := descStart 5 n.val d m
      let seed := seedOf m n.val d.part (nfld (d.f 41 1) 0 3)
      let sc := if d.fl 0 then 0 else stepComp m n.val d.part
      let per := if genForm d = 0 || genForm d = 2 then 8 else 4
      let m := hallWrite n.val d.part (gaOff (d.a 16)) (genBytes seed sc d) m
      let u := m.clk.cycle
      let rs := requesters m n.val 14
      let g := grant rs id per (grantPoints rs) (genCount d) (u + misses)
      let m := nwlCount n.val (ceilDiv (genCount d) per) (misses + spanSum g.2.1) m
      let op : EngOp := { desc := d, startC := u, doneC := g.2.2 + 1, elems := genCount d, clip := 0, nanrep := 0, under := 0, amax := 0,
                          hallSt := [], nwlSt := spanOf u misses ++ g.2.1, draws := g.1, issues := [], marks := [], failed := false }
      done s (m.setNwl n.val { m.nwl' n.val with op := some op })

def execGenComplete (n : Fin 2) (s : State) : Out :=
  match (s.m.nwl' n.val).op with
  | none => stop "GEN_COMPLETE"
  | some o =>
    let m := passToCycle o.doneC s.m
    done s (complete 5 n.val o.desc o.failed (m.setNwl n.val { m.nwl' n.val with
      op := none, lastProgress := m.clk.elapsed }))

/-- SEED writes both copies and completes in the cycle after it starts (R326, R334). -/
def execSeed (n : Fin 2) (s : State) : Out :=
  match nwlHead s.m n.val 0x51 with
  | none => stop "SEED"
  | some (k, d) =>
    let m := descStart 5 n.val d (nwlServe n.val d.part (dequeue k s.m))
    let m := setSeed d.part (nfld (d.f 24 1) 0 3) (d.a 16) (passToCycle (m.clk.cycle + 1) m)
    done s (complete 5 n.val d false m)

/-- What of NWL_CALLS and NWL_GRANT_MISS is added and has not come to pass (R342). -/
def nwlLeft (m : Module) (n : Nat) : W64 × W64 :=
  let ops := (List.range 4).filterMap (fun i => (m.ris' (4 * n + i)).op) ++ (List.range 2).filterMap (fun i => (m.win' (2 * n + i)).op)
    ++ (List.range 8).filterMap (fun i => (m.lnd' (8 * n + i)).op)
  let now := m.clk.cycle
  let gen := match (m.nwl' n).op with
    | some o => (min (ceilDiv o.elems (if genForm o.desc = 0 || genForm o.desc = 2 then 8 else 4)) (drawsLeft now o.draws), spansLeft now o.nwlSt)
    | none => (0, 0)
  (BitVec.ofNat 64 ((ops.map (fun o => drawsLeft now o.draws)).sum + gen.1),
    BitVec.ofNat 64 ((ops.map (fun o => spansLeft now o.nwlSt)).sum + gen.2))

/-- NWL_CALLS to NWL_REFUSED to zero (R342, R344); what has started and not come to pass, `left`, is still to come. -/
def nwlClear (left : W64 × W64) (x : Nwl) : Nwl := { x with calls := left.1, grantMiss := left.2, refused := 0 }
def nwlCntClr (n : Nat) (m : Module) : Module := m.setNwl n (nwlClear (nwlLeft m n) (m.nwl' n))
def execNwlCntClr (n : Fin 2) (s : State) : Out := done s (nwlCntClr n.val s.m)

end Sys2Proof.Machine
end

