-- ==== Sys2Proof/Machine/Steps.lean ====
section
/-! DEFINITION. The Vestibule's slots (chapter 13): retained headers, batches and captures, votes' outcomes, release. The rows of
the Vestibule are in Vst.lean. -/

namespace Sys2Proof.Machine

/-! ### Slots and their areas (R514, R516, R550) -/

def Vst.depthN (v : Vst) : Nat := min 8 (max 2 v.depth.toNat)
def Vst.area (v : Vst) : Nat := 2 ^ 20 * (2 ^ 30 * fld v.vest 32 12 / v.depthN / 2 ^ 20)
/-- The slow-tier offset at which a slot's area begins (R514). -/
def Vst.slotBase (v : Vst) (k : Nat) : Nat := 2 ^ 30 * fld v.vest 0 12 + k * v.area

/-- Whether the Vestibule serves a partition (R513). -/
def vstServes (m : Module) (p : Nat) : Bool := (m.vst' p).enable && (prec m p).slice != 0xFFF

/-- The slot that holds a step. -/
def slotOfStep (v : Vst) (n : Beat) : Option (Nat × VSlot) := v.slots.find? (fun x => x.2.step = n)

/-- The oldest of the held slots that meet a condition. -/
def oldestSlot (v : Vst) (ok : VSlot → Bool) : Option (Nat × VSlot) :=
  v.slots.foldl (fun a x => if ok x.2 then
      match a with
      | none => some x
      | some y => if atOrAfter y.2.step x.2.step then some x else a
    else a) none

/-- HOLD (R523). -/
def holdSet (v : Vst) : Bool := v.slots.any (fun x => x.2.st = .failed || x.2.st = .undecided || x.2.replayMode != 0)

def updSlot (p k : Nat) (f : VSlot → VSlot) (m : Module) : Module :=
  let v := m.vst' p
  m.setVst p { v with slots := v.slots.map (fun x => if x.1 = k then (k, f x.2) else x) }

def freeSlot (p k : Nat) (m : Module) : Module :=
  let v := m.vst' p
  m.setVst p { v with slots := v.slots.filter (fun x => x.1 != k) }

def vstEv (p code sev ctx : Nat) (d : W64) (m : Module) : Module := ev 0x16 code 0xFFFF sev p ctx d m
def mirEv (p code sev ctx : Nat) (d : W64) (m : Module) : Module := ev 0x17 code 0xFFFF sev p ctx d m

/-- DETAIL of OVERFLOW and REPLAY_START (R519, R525, R548). -/
def stepDetail (n : Beat) (lo : Nat) : W64 := BitVec.ofNat 64 (n.toNat * 2 ^ 16 + lo)

/-- A batch record of a slot header (R516). -/
def batchBytes (b : BatchRec) : List Byte :=
  natLe 8 b.addr.toNat ++ natLe 8 b.len.toNat ++ [if b.digestMode then 1 else 0] ++ List.replicate 7 0 ++ slice b.handle 0 16
  ++ slice b.digest 0 48 ++ List.replicate 8 0

/-- The 4 KiB header of a slot area (R516). -/
def slotHeader (s : VSlot) : List Byte :=
  slice (natLe 8 s.step.toNat ++ natLe 4 s.s.toNat ++ List.replicate 4 0 ++ (s.seeds.map (fun x => natLe 8 x.toNat)).flatten
    ++ [BitVec.ofNat 8 s.batches.length] ++ List.replicate 15 0 ++ (s.batches.map batchBytes).flatten) 0 4096

/-- Writes the Vestibule's bytes into a partition's slow tier, allocating no cache line (R374). -/
def vstWrite (p off : Nat) (bs : List Byte) (m : Module) : Module := memWrite 2 p 2 false off bs m

/-- Writes a slot's header, when its area has room for one. -/
def writeHeader (p k : Nat) (m : Module) : Module :=
  let v := m.vst' p
  match nfind v.slots k with
  | some s => if v.area < 4096 then m else vstWrite p (v.slotBase k) (slotHeader s) m
  | none => m

/-! ### Captures and COPY bytes (R517 to R519) -/

/-- Takes room in a slot area: its slow-tier offset; or marks the step NOREC (R519). -/
def reserve (p k : Nat) (s : VSlot) (n : Nat) (m : Module) : Option Nat × Module :=
  let v := m.vst' p
  if s.used + n > v.area then
    let m := updSlot p k (fun s => { s with norec := true }) m
    let v := m.vst' p
    (none, vstEv p 4 4 0 (stepDetail s.step 1) (m.setVst p { v with overflows := v.overflows + 1 }))
  else (some (v.slotBase k + s.used), updSlot p k (fun s => { s with used := s.used + n }) m)

/-- A capture's size in the slot area (R518). -/
def captureSize (n : Nat) : Nat := ceilDiv (64 + n) 4096 * 4096

/-- The record header of a capture (R518; the places of its fields: log entry 16). -/
def captureHead (opId : W32) (half dtype elems : Nat) : List Byte :=
  natLe 8 opId.toNat ++ natLe 8 half ++ natLe 8 dtype ++ natLe 8 elems ++ List.replicate 32 0

/-- Captures an ALLREDUCE into the partition's newest OPEN step (R518). -/
def capture (p : Nat) (opId : W32) (half dtype elems : Nat) (data : List Byte) (m : Module) : Module :=
  if !vstServes m p then m
  else
    match newestSlot (m.vst' p) (fun s => s.st = .open) with
    | none => m
    | some (k, s) =>
      if s.norec then m
      else
        match reserve p k s (captureSize data.length) m with
        | (none, m) => m
        | (some off, m) =>
          let m := vstWrite p off (captureHead opId half dtype elems ++ data) m
          updSlot p k (fun s => { s with captures := s.captures ++ [{ opId := opId, half := half, dtype := dtype, elems := elems, off := off }] }) m

/-- How an ALLREDUCE that starts is served: live, from a capture, or with error. -/
inductive Served where
  | live | from_ (data : List Byte) (bad : List Bool) | miss
deriving DecidableEq, Repr

/-- The bytes of a capture in the slow tier, and which of them carry an uncorrected error. -/
def captureData (p n : Nat) (c : Capture) (m : Module) : List Byte × List Bool × Module := memRead 2 p 2 false (c.off + 64) n m

/-- Serves an ALLREDUCE from the captures of a SOLO replay (R531) or, in an open suspect slot, of the newest open step
(R575); `n` its half's bytes. -/
def serveCapture (d : Desc) (opId : W32) (half dtype elems n : Nat) (m : Module) : Served × Module :=
  let p := d.part
  match soloSlot m p with
  | some (k, s) =>
    let i := if half = 0 then s.soloNext0 else s.soloNext1
    let m := updSlot p k (fun s => if half = 0 then { s with soloNext0 := i + 1 } else { s with soloNext1 := i + 1 }) m
    match (s.captures.filter (fun c => c.half = half))[i]? with
    | some c =>
      if c.opId = opId && c.dtype = dtype && c.elems = elems then
        let x := captureData p n c m
        (.from_ x.1 x.2.1, x.2.2)
      else (.miss, taint p s.step (vstEv p 7 4 d.ctx (opId.setWidth 64) m))
    | none => (.miss, taint p s.step (vstEv p 7 4 d.ctx (opId.setWidth 64) m))
  | none =>
    match openSuspect m.wdg with
    | some u =>
      if u.part = p && u.ctx = d.ctx then
        match newestSlot (m.vst' p) (fun s => s.st = .open) with
        | some (_, s) =>
          match s.captures.find? (fun c => c.opId = opId && c.half = half) with
          | some c =>
            if c.dtype = dtype && c.elems = elems then
              let x := captureData p n c m
              (.from_ x.1 x.2.1, x.2.2)
            else (.miss, taint p s.step (vstEv p 7 4 d.ctx (opId.setWidth 64) m))
          | none => (.live, m)
        | none => (.live, m)
      else (.live, m)
    | none => (.live, m)

/-! ### Outcomes of a step (R520 to R524) -/

/-- A step commits; `beat` the beat the COMMITTED record carries. -/
def commitStep (p k : Nat) (res : W32) (beat : Beat) (m : Module) : Module :=
  match nfind (m.vst' p).slots k with
  | none => m
  | some s =>
    let m := updSlot p k (fun s => { s with st := .committed, voting := false, replayMode := 0, result := res }) m
    let v := m.vst' p
    vstEv p 1 0 0 (beat.setWidth 64) (m.setVst p { v with committed := s.step })

/-- A cut armed for a step that fails is aborted (R545). -/
def cutFails (p : Nat) (n : Beat) (m : Module) : Module :=
  let v := m.vst' p
  if v.cut = some n then vstEv p 0x0C 2 0 (n.setWidth 64) (m.setVst p { v with cut := none }) else m

def failStep (p k : Nat) (st : SlotSt) (res : W32) (code : Nat) (det : W64) (m : Module) : Module :=
  match nfind (m.vst' p).slots k with
  | none => m
  | some s =>
    let m := updSlot p k (fun s => { s with st := st, voting := false, replayMode := 0, result := res }) m
    let m := vstEv p code 4 0 det m
    if st = .failed then cutFails p s.step m else m

/-- A vote ends with a result (R502, R520). -/
def voteDone (p : Nat) (n : Beat) (res : W32) (size : Nat) (m : Module) : Module :=
  match (m.vst' p).slots.find? (fun x => x.2.voting && x.2.step = n) with
  | none => m
  | some (k, _) =>
    if res.toNat = size then commitStep p k res (beatNow m) m
    else failStep p k .failed res 2 (res.setWidth 64) m

/-- A vote fails (R502, R520). -/
def voteFailed (p : Nat) (n : Beat) (m : Module) : Module :=
  match (m.vst' p).slots.find? (fun x => x.2.voting && x.2.step = n) with
  | none => m
  | some (k, s) => failStep p k .undecided 0 3 (s.step.setWidth 64) m

/-- The Baluster reports a step checked (R520, R594). -/
def stepChecked (p : Nat) (n : Beat) (m : Module) : Module :=
  match slotOfStep (m.vst' p) n with
  | none => m
  | some (k, s) =>
    if s.st = .computed && !s.taint then
      let m := updSlot p k (fun s => { s with st := .verified, verifiedSeen := true, verifiedBeat := some (beatNow m) }) m
      if s.replayMode = 3 then commitStep p k 0 (beatNow m) m else m
    else m

end Sys2Proof.Machine
end

