-- ==== Sys2Proof/Machine/Arc.lean ====
section
/-! DEFINITION. The Arcade and its vote unit (chapter 12): ALLREDUCE by recursive doubling and by the ring, its packets and timers,
and the commit vote. -/

namespace Sys2Proof.Machine

/-! ### Fields (R504, R505) -/

def arElems (d : Desc) : Nat := d.f 48 4
def arOpId (d : Desc) : W32 := BitVec.ofNat 32 (d.f 52 4)
def arSize (d : Desc) : Nat := d.f 56 2
def arRank (d : Desc) : Nat := d.f 58 2
def arTmo (d : Desc) : Nat := d.f 60 2
def arThresh (d : Desc) : Nat := d.f 62 2
def arDtype (d : Desc) : Nat := d.f 64 1
def isCfg (d : Desc) : Bool := d.ty = 0x71
def arHalf (d : Desc) : Nat := if isCfg d then 0 else b2n (d.fl 0)

def arcPushOk (d : Desc) : Bool :=
  d.len = 80 && arSize d < 2 ^ 14 && arRank d < 2 ^ 13 && zeros d.bytes 65 15 &&
  match d.ty.toNat with
  | 0x70 => nfld d.flags.toNat 1 11 = 0
  | 0x71 => d.flags = 0 && zeros d.bytes 16 24 && zeros d.bytes 48 8 && zeros d.bytes 62 3
  | _ => false

/-- Element bytes in memory by DTYPE (R479). -/
def arBytes (t : Nat) : Nat := if t = 1 then 2 else if t = 3 then 8 else 4
/-- E0 (R483). -/
def arE0 (e : Nat) : Nat := min e (ceilDiv e 64 * 32)
/-- The first element of a descriptor's half, and how many it has. -/
def arFirst (d : Desc) : Nat := if arHalf d = 0 then 0 else arE0 (arElems d)
def arCount (d : Desc) : Nat := if arHalf d = 0 then arE0 (arElems d) else arElems d - arE0 (arElems d)
/-- The algorithm choice (R486). -/
def arRing (d : Desc) : Bool := arElems d * arBytes (arDtype d) > (if arThresh d = 0 then 64 else arThresh d) * 1024

/-! ### Phases (R487, R488) -/

/-- What a member does in a phase: the phase's number, the rank it sends to and the elements it sends, the rank it receives from
and the elements it receives, how they are taken (0 own + received, 1 received + own, 2 written), whether BF16 values travel
as BF16, and the elements rounded to BF16 at its end. -/
structure Phase where
  num : Nat
  dst : Option Nat
  sLo : Nat
  sHi : Nat
  src : Option Nat
  rLo : Nat
  rHi : Nat
  how : Nat
  narrow : Bool
  round : Option (Nat × Nat)

def Phase.idle (n : Nat) : Phase := ⟨n, none, 0, 0, none, 0, 0, 0, false, none⟩
def Phase.sends (f : Phase) (r e : Nat) : Phase := { f with dst := some r, sLo := 0, sHi := e }
def Phase.takes (f : Phase) (r e how : Nat) : Phase := { f with src := some r, rLo := 0, rHi := e, how := how }

/-- Recursive doubling for one rank (R487): the phases in which it sends or receives, in order. -/
def rdPhases (size r e : Nat) (bf : Bool) : List Phase :=
  let lg := Nat.log2 size
  let p := 2 ^ lg
  let x := size - p
  let fold : List Phase :=
    if r ≥ p then [(Phase.idle 0).sends (r - p) e] else if r < x then [(Phase.idle 0).takes (r + p) e 0] else []
  let exch : List Phase := if r < p then
      (List.range lg).map (fun k =>
        let q := r ^^^ (2 ^ k)
        let f := ((Phase.idle (k + 1)).sends q e).takes q e (if r < q then 0 else 1)
        { f with round := if bf && k + 1 = lg then some (0, e) else none })
    else []
  let last : Phase := { Phase.idle (lg + 1) with narrow := bf }
  let unfold : List Phase :=
    if r ≥ p then [last.takes (r - p) e 2] else if r < x then [last.sends (r + p) e] else []
  fold ++ exch ++ unfold

/-- Where a chunk of a half begins (R488). -/
def chunkLo (c e size : Nat) : Nat := c * e / size

/-- A phase of the ring for one rank (R488). -/
def ringPhase (size r e : Nat) (bf : Bool) (s : Nat) : Phase :=
  let nx := (r + 1) % size
  let pv := (r + size - 1) % size
  let gather := s + 1 ≥ size
  let c := if gather then (r + 1 + 2 * size - (s + 1 - size)) % size else (r + size - s) % size
  let g := if gather then (r + 2 * size - (s + 1 - size)) % size else (r + 2 * size - s - 1) % size
  { num := s, dst := some nx, sLo := chunkLo c e size, sHi := chunkLo (c + 1) e size, src := some pv, rLo := chunkLo g e size,
    rHi := chunkLo (g + 1) e size, how := if gather then 2 else 1, narrow := bf && gather,
    round := if bf && s + 2 = size then some (chunkLo nx e size, chunkLo (nx + 1) e size) else none }

/-- The phases a member goes through, by index. -/
def phaseAt (ring : Bool) (size r e : Nat) (bf : Bool) (i : Nat) : Option Phase :=
  if size = 1 then none
  else if ring then (if i < 2 * size - 2 then some (ringPhase size r e bf i) else none)
  else (rdPhases size r e bf)[i]?

def opPhase (o : ArcOp) : Option Phase :=
  let d := o.desc
  phaseAt o.ring (arSize d) (arRank d) (arCount d) (arDtype d = 1) o.phase

/-- The ranks whose map entries an operation uses (R507). -/
def ranksUsed (ring : Bool) (size r : Nat) : List Nat :=
  if size = 1 then [r]
  else if ring then [r, (r + 1) % size, (r + size - 1) % size]
  else r :: (rdPhases size r 1 false).flatMap (fun f => f.dst.toList ++ f.src.toList)

/-! ### Values (R479, R480) -/

/-- Bytes of one element as it travels. -/
def wireBytes (t : Nat) (narrow : Bool) : Nat := if t = 1 then (if narrow then 2 else 4) else arBytes t

/-- An FP32 value rounded to BF16, held as FP32 (R178 with SAT clear). -/
def roundBf (x : W64) : W64 :=
  BitVec.ofNat 64 ((convert spBf16 0 none (f32 (x.setWidth 32))).bits * 2 ^ 16)

/-- A value from its bytes: BF16 widens exactly to FP32. -/
def wireIn (t : Nat) (narrow : Bool) (x : Nat) : W64 := BitVec.ofNat 64 (if t = 1 && narrow then x * 2 ^ 16 else x)
def wireOut (t : Nat) (narrow : Bool) (v : W64) : Nat := if t = 1 && narrow then v.toNat / 2 ^ 16 else v.toNat

/-- The sum of two values (R479, R480). -/
def arAdd (t : Nat) (a b : W64) : W64 :=
  match t with
  | 2 => ((a.setWidth 32 : W32) + b.setWidth 32).setWidth 64
  | 3 => a + b
  | _ => (f32Add (a.setWidth 32) (b.setWidth 32)).setWidth 64

/-- The bytes of elements `lo` to `hi − 1` as they travel or as they are stored. -/
def valBytes (t : Nat) (narrow : Bool) (vals : NMap W64) (lo hi : Nat) : List Byte :=
  (List.range (hi - lo)).flatMap (fun i => natLe (wireBytes t narrow) (wireOut t narrow (nget 0 vals (lo + i))))

/-! ### Head checks (R506, R507) -/

def arRangeOk (m : Module) (p : Nat) (a : W64) (n : Nat) (wr : Bool) : Bool :=
  gaOk a && gaHere m a && gaTier a < 3 && allowed m p (gaTier a) (gaOff a) n && !(wr && touchesGuarded m p (gaTier a) (gaOff a) n)

def arAt (a : W64) (k : Nat) : W64 := BitVec.ofNat 64 (a.toNat + k)

/-- The ranges of an ALLREDUCE: its half's source, destination and scratch, and the rank map. -/
def arRanges (d : Desc) : List (W64 × Nat × Bool) :=
  let z := arBytes (arDtype d)
  let k := arCount d
  let own := if isCfg d || k = 0 then [] else
    [(arAt (d.a 16) (arFirst d * z), k * z, false), (arAt (d.a 24) (arFirst d * z), k * z, true)]
    ++ (if arDtype d = 1 then [(d.a 32, 4 * k, true)] else [])
  own ++ [(d.a 40, 4 * arSize d, false)]

def rangesMeet (x y : W64 × Nat × Bool) : Bool := gaTier x.1 = gaTier y.1 && overlap (gaOff x.1) x.2.1 (gaOff y.1) y.2.1

/-- Whether two of an ALLREDUCE's ranges overlap, other than its source and an equal destination (R507). -/
def arOverlap (d : Desc) : Bool :=
  let rs := arRanges d
  let n := rs.length
  let same := !isCfg d && d.a 16 = d.a 24
  (List.range n).any (fun i => (List.range n).any (fun j =>
    i < j && !(same && i = 0 && j = 1 && n > 2) &&
    (match rs[i]?, rs[j]? with
     | some x, some y => rangesMeet x y
     | _, _ => false)))

/-- Reads map entries (R481). -/
def readEnts (w p : Nat) (a : W64) : List Nat → Module → NMap Nat × Module
  | [], m => ([], m)
  | r :: rest, m =>
    let x := hallRead w p (gaOff a + 4 * r) 4 m
    let y := readEnts w p a rest x.2
    (nput y.1 r (leNat x.1), y.2)

def entChip (e : Nat) : Nat := nfld e 0 13
def entPart (e : Nat) : Nat := nfld e 16 5
def entBad (e : Nat) : Bool := nfld e 13 3 != 0 || nfld e 21 11 != 0

/-- The refusal code of a descriptor before its map is read. -/
def arRefusal (m : Module) (a : Nat) (d : Desc) : Option Nat :=
  let z := arBytes (arDtype d)
  let cfg := isCfg d
  firstCode [
    (0x10, (!cfg && arElems d = 0) || arSize d = 0 || arSize d > 8192 || arRank d ≥ arSize d || (!cfg && arDtype d > 3)),
    (0x11, if cfg then a != 0 else arHalf d != a),
    (0x12, (arRanges d).any (fun r => !arRangeOk m d.part r.1 r.2.1 r.2.2) || gaTier (d.a 40) != 0
      || (!cfg && (decide (arDtype d = 1) != decide (d.a 32 ≠ 0)))),
    (0x13, (d.a 40).toNat % 8 != 0 || (!cfg && ((d.a 16).toNat % z != 0 || (d.a 24).toNat % z != 0 || (d.a 32).toNat % 4 != 0))),
    (0x14, arOverlap d),
    (0x15, sliceless m d.part || !m.rte.chipValid)]

/-- The refusal code that the map gives. -/
def mapRefusal (m : Module) (d : Desc) (ents : NMap Nat) : Option Nat :=
  let own (e : Nat) : Bool := entChip e = m.rte.chip.toNat && entPart e = d.part
  firstCode [
    (0x16, !own (nget 0 ents (arRank d))),
    (0x17, ents.any (fun x => entBad x.2 || (x.1 != arRank d && own x.2)))]

/-! ### Ending an operation (R489, R495, R502, R518) -/

def setArcOp (a : Nat) (o : Option ArcOp) (m : Module) : Module :=
  let x := m.arc' a
  m.setArc a { x with op := o, lastProgress := m.clk.elapsed }

/-- An operation has ended: its later packets are late (R494). The last 64 are kept (log entry 17). -/
def arcEnded (a part opId : Nat) (m : Module) : Module :=
  let x := m.arc' a
  m.setArc a { x with op := none, ended := ((part, opId) :: x.ended).take 64, lastProgress := m.clk.elapsed }

def arcErrWord (opId phase code : Nat) : W64 := pack [(opId, 32), (phase, 16), (code, 0)]

/-- Free bytes over a range of memory (R495: undefined). -/
def undefRange (p : Nat) (a : W64) (n : Nat) (m : Module) : Module :=
  let x := freeBytes n m
  memWrite 2 p (gaTier a) false (gaOff a) x.1 x.2

/-- A running operation stops (R495, R496): code 1 PHASE_TIMEOUT, 2 LENGTH_MISMATCH. -/
def arcStop (a code : Nat) (m : Module) : Module :=
  match (m.arc' a).op with
  | none => m
  | some o =>
    let d := o.desc
    let ph := match opPhase o with
      | some f => f.num
      | none => 0
    let m := ((arRanges d).filter (fun r => r.2.2)).foldl (fun m r => undefRange d.part r.1 r.2.1 m) m
    let m := arcEnded a d.part (arOpId d).toNat m
    let x := m.arc' a
    let m := m.setArc a { x with
      timeouts := if code = 1 then x.timeouts + 1 else x.timeouts, errLast := arcErrWord (arOpId d).toNat ph code }
    complete 7 a d true (ev 0x14 code a 4 d.part d.ctx (arcErrWord (arOpId d).toNat ph 0) m)

/-- Writes bytes of an operation's result to its destination, from element `lo` of its half on; `bad` marks bytes that the Vestibule
read with an uncorrected error (R381). -/
def arcWrite (a : Nat) (d : Desc) (lo : Nat) (data : List Byte) (bad : List Bool) (m : Module) : Module :=
  let dst := arAt (d.a 24) ((arFirst d + lo) * arBytes (arDtype d))
  memWriteBad a d.part (gaTier dst) false (gaOff dst) data bad m

/-- Captures an operation's result (R518). -/
def arcCapture (d : Desc) (data : List Byte) (m : Module) : Module :=
  capture d.part (arOpId d) (arHalf d) (arDtype d) (arCount d) data m

/-- Stores the values of elements `lo` to `hi − 1` as they are formed: a BF16 operation's partials in its scratch range as FP32, all else in
the destination (R488, R492, R505). -/
def arcStore (a : Nat) (d : Desc) (partials : Bool) (vals : NMap W64) (lo hi : Nat) (m : Module) : Module :=
  let t := arDtype d
  if partials && t = 1 then memWrite a d.part (gaTier (d.a 32)) false (gaOff (d.a 32) + 4 * lo) (valBytes t false vals lo hi) m
  else arcWrite a d lo (valBytes t true vals lo hi) [] m

/-- An ALLREDUCE completes without error. -/
def arcDone (a : Nat) (d : Desc) (m : Module) : Module :=
  let x := m.arc' a
  complete 7 a d false (m.setArc a { x with ops := x.ops + 1, lastProgress := m.clk.elapsed })

/-! ### Packets (R485, R491 to R494) -/

/-- Local packets waiting at a wing's ports. -/
def injCount (m : Module) (w : Nat) : Nat := ((List.range 8).map (fun i => (m.port' (8 * w + i)).inj.length)).sum

/-- Sends an ARCADE packet to the member of a rank. -/
def arcSend (a : Nat) (o : ArcOp) (rank ph kind off : Nat) (payload : List Byte) (m : Module) : Module :=
  let d := o.desc
  let e := nget 0 o.ents rank
  let aux := BitVec.ofNat 64 (2 ^ 32 * (arOpId d).toNat + 2 ^ 31 * arHalf d + ph * 2 ^ 16 + kind * 2 ^ 14)
  let n := injCount m (1 - a)
  let m := inject a (slicePkt m 0x10 1 d.part (entChip e) (entPart e) 0 (BitVec.ofNat 64 off) aux payload) m
  let x := m.arc' a
  m.setArc a { x with
    tx := x.tx + BitVec.ofNat 64 payload.length
    xwing := if injCount m (1 - a) > n then x.xwing + 1 else x.xwing
    lastProgress := m.clk.elapsed }

/-- The pieces of a phase's DATA: offsets and bytes, 2,048 bytes to a packet (log entry 18). -/
def pieces : Nat → Nat → List Byte → List (Nat × List Byte)
  | 0, _, _ => []
  | n + 1, off, l => if l.isEmpty then [] else (off, l.take 2048) :: pieces n (off + 2048) (l.drop 2048)

/-- Sends a phase's DATA once READY for it has come (R492). -/
def arcData (a : Nat) (o : ArcOp) (f : Phase) (m : Module) : Module :=
  match f.dst with
  | none => m
  | some r =>
    let l := valBytes (arDtype o.desc) f.narrow o.vals f.sLo f.sHi
    let m := (pieces (l.length / 2048 + 1) 0 l).foldl (fun m x => arcSend a o r f.num 0 x.1 x.2 m) m
    setArcOp a (some { o with sent := true }) m

/-- The bytes a phase receives. -/
def phaseBytes (o : ArcOp) (f : Phase) : Nat :=
  match f.src with
  | none => 0
  | some _ => (f.rHi - f.rLo) * wireBytes (arDtype o.desc) f.narrow

/-- Rounds the elements that a phase rounds at its end (R487, R488). -/
def roundVals (vals : NMap W64) (lo hi : Nat) : NMap W64 :=
  (List.range (hi - lo)).foldl (fun v i => nset 0 v (lo + i) (roundBf (nget 0 v (lo + i)))) vals

/-- Goes on from the phase an operation has entered: sends its DATA when READY has come, ends it when all of R495 has happened,
and enters the next; `n` bounds the phases. -/
def arcRun (a : Nat) : Nat → Module → Module
  | 0, m => m
  | n + 1, m =>
    match (m.arc' a).op with
    | none => m
    | some o =>
      match opPhase o with
      | none =>
        let d := o.desc
        let m := arcCapture d (valBytes (arDtype d) true o.vals 0 (arCount d)) m
        arcDone a d (arcEnded a d.part (arOpId d).toNat m)
      | some f =>
        let m := if !o.sent && f.dst.isSome && o.readies.contains f.num then arcData a o f m else m
        match (m.arc' a).op with
        | none => m
        | some o =>
          if (f.dst.isNone || o.sent) && o.got ≥ phaseBytes o f then
            let (vals, m) := match f.round with
              | some r =>
                let v := roundVals o.vals r.1 r.2
                (v, arcStore a o.desc false v r.1 r.2 m)
              | none => (o.vals, m)
            let o := { o with vals := vals, phase := o.phase + 1, sent := false, got := 0, startAt := m.clk.elapsed }
            let m := setArcOp a (some o) m
            let m := match opPhase o with
              | some g => (match g.src with
                | some r => arcSend a o r g.num 1 0 [] m
                | none => m)
              | none => m
            arcRun a n m
          else m

/-- More steps than an operation has phases. -/
def arcFuel (o : ArcOp) : Nat := 2 * arSize o.desc + 16

def arcGo (a : Nat) (m : Module) : Module :=
  match (m.arc' a).op with
  | some o => arcRun a (arcFuel o) m
  | none => m

/-- An operation starts (R484, R486, R490, R493, R531): its source is read, and it enters its first phase. -/
def arcStart (a : Nat) (d : Desc) (ents : NMap Nat) (m : Module) : Module :=
  let t := arDtype d
  let z := arBytes t
  let k := arCount d
  let m := descStart 7 a d m
  if k = 0 then arcDone a d m
  else
    match serveCapture d (arOpId d) (arHalf d) t k (k * z) m with
    | (.from_ data bad, m) => arcDone a d (arcWrite a d 0 data bad m)
    | (.miss, m) => complete 7 a d true m
    | (.live, m) =>
      let src := arAt (d.a 16) (arFirst d * z)
      let (raw, _, m) := memRead a d.part (gaTier src) false (gaOff src) (k * z) m
      if arSize d = 1 then arcDone a d (arcCapture d raw (arcWrite a d 0 raw [] m))
      else
        let vals := (List.range k).foldl (fun v i => nset 0 v i (wireIn t true (le raw (z * i) z))) []
        let x := m.arc' a
        let mine (e : Early) : Bool := e.pkt.hdr.dstPart.toNat = d.part && fld e.pkt.hdr.aux 32 32 = (arOpId d).toNat
        let o : ArcOp := { desc := d, ring := arRing d, phase := 0, vals := vals, ents := ents,
                           readies := (x.early.filter mine).map (fun e => fld e.pkt.hdr.aux 16 15),
                           sent := false, got := 0, startAt := m.clk.elapsed,
                           limit := if arTmo d = 0 then max 1 x.tmoDef.toNat else arTmo d }
        let m := m.setArc a { x with
          op := some o, early := x.early.filter (fun e => !mine e), lastProgress := m.clk.elapsed
          ended := x.ended.filter (fun e => e != (d.part, (arOpId d).toNat)) }
        let m := match opPhase o with
          | some f => (match f.src with
            | some r => arcSend a o r f.num 1 0 [] m
            | none => m)
          | none => m
        arcGo a m

def arcRefuse (a code : Nat) (d : Desc) (m : Module) : Module :=
  let x := m.arc' a
  bodyRefused 7 a code d (m.setArc a { x with refused := x.refused + 1 })

/-- The descriptor an Arcade takes next, of a type (R137). -/
def arcHead (m : Module) (a ty : Nat) : Option (QKey × Desc) :=
  let x := m.arc' a
  if x.op.isNone && canStart m 7 a then
    match headShared m 7 a x.rr with
    | some (k, d) => if d.ty.toNat = ty then some (k, d) else none
    | none => none
  else none

/-- Checks a descriptor taken off its queue; `go` continues with the map entries. -/
def arcTake (a : Nat) (k : QKey) (d : Desc) (errs : List MemErr) (go : NMap Nat → Module → Module) (m : Module) : Module :=
  let m := dequeue k m
  let m := m.setArc a { m.arc' a with rr := k.sub }
  match arRefusal m a d with
  | some c => arcRefuse a c d m
  | none =>
    let m := memErrs d.part errs m
    let (ents, m) := readEnts a d.part (d.a 40) (ranksUsed (!isCfg d && arRing d) (arSize d) (arRank d)) m
    match mapRefusal m d ents with
    | some c => arcRefuse a c d m
    | none => go ents m

def execAllreduce (a : Fin 2) (errs : List MemErr) (s : State) : Out :=
  match arcHead s.m a.val 0x70 with
  | none => stop "ALLREDUCE"
  | some (k, d) => done s (arcTake a.val k d errs (fun ents m => arcStart a.val d ents m) s.m)

def execVoteCfg (a : Fin 2) (s : State) : Out :=
  match arcHead s.m a.val 0x71 with
  | none => stop "VOTE_CFG"
  | some (k, d) =>
    done s (arcTake a.val k d [] (fun _ m =>
      let m := passToCycle (m.clk.cycle + 1) (descStart 7 a.val d m)
      let c : VoteCfgRec := { map := d.a 40, size := arSize d, rank := arRank d, tmo := arTmo d }
      complete 7 a.val d false { m with vote := { m.vote with cfgs := nput m.vote.cfgs d.part c } }) s.m)

/-! ### Received ARCADE packets (R492 to R496) -/

def arcLate (a : Nat) (m : Module) : Module :=
  let x := m.arc' a
  m.setArc a { x with latePkt := satAdd x.latePkt 1 }

def earlyDropped (a : Nat) (m : Module) : Module :=
  let x := m.arc' a
  m.setArc a { x with earlyDrop := satAdd x.earlyDrop 1 }

/-- A READY before its operation (R493). -/
def holdReady (a : Nat) (k : Pkt) (m : Module) : Module :=
  let x := m.arc' a
  if x.early.length < 64 then m.setArc a { x with early := x.early ++ [{ pkt := k, at_ := m.clk.elapsed }] }
  else ev 0x14 6 a 2 31 0 (pack [(fld k.hdr.aux 32 32, 32), (k.hdr.srcChip.toNat, 0)]) (earlyDropped a m)

/-- Takes one received element into an operation's values; the sum formed, or the value written. -/
def takeVal (t how : Nat) (narrow : Bool) (old : W64) (x : Nat) : W64 :=
  let v := wireIn t narrow x
  match how with
  | 0 => arAdd t old v
  | 1 => arAdd t v old
  | _ => v

/-- Received DATA of the phase entered (R492, R496, R503). -/
def arcRecv (a : Nat) (o : ArcOp) (f : Phase) (k : Pkt) (pairDiff : Bool) (m : Module) : Module :=
  let d := o.desc
  let t := arDtype d
  let z := wireBytes t f.narrow
  let n := k.payload.length
  let off := k.hdr.addr.toNat
  let need := phaseBytes o f
  if o.got + n > need || off + n > need || n % z != 0 || off % z != 0 then arcStop a 2 m
  else
    let cnt := n / z
    let vals := (List.range cnt).foldl (fun v i =>
      let e := f.rLo + off / z + i
      nset 0 v e (takeVal t f.how f.narrow (nget 0 v e) (le k.payload (z * i) z))) o.vals
    let m := setArcOp a (some { o with vals := vals, got := o.got + n }) m
    let m := arcStore a d (f.how < 2) vals (f.rLo + off / z) (f.rLo + off / z + cnt) m
    let m := if f.how < 2 then
        let x := m.arc' a
        let m := m.setArc a { x with adds := x.adds + BitVec.ofNat 64 cnt }
        if fullMode m d.part then
          let m := compared a cnt m
          if pairDiff then mismatch a 7 a [a] d m else m
        else m
      else m
    arcGo a m

/-- Whether an ARCADE packet keeps its form: reserved bits zero, DATA or READY, and a READY empty (R23, R25, R491, R492; log entry 168). -/
def arcOk (k : Pkt) : Bool :=
  fld k.hdr.aux 0 14 = 0 && fld k.hdr.aux 14 2 < 2 && (fld k.hdr.aux 14 2 = 0 || k.payload.isEmpty)

/-- Whether a VOTE packet keeps its form: 8 bytes, and neither HALF nor READY (R500; log entry 168). -/
def voteOk (k : Pkt) : Bool := k.payload.length = 8 && fld k.hdr.aux 0 16 = 0 && !bit k.hdr.aux 31

/-- An ARCADE packet (R485, R492 to R494); one from the other wing's port crosses the Corridor (R33). -/
def arcPacket (k : Pkt) (pairDiff : Bool) (m : Module) : Module :=
  let h := k.hdr
  let a := pktHalf k
  let opId := fld h.aux 32 32
  let ph := fld h.aux 16 15
  let kind := fld h.aux 14 2
  let m := corridor k.via a (256 * flitCount h.len.toNat) m
  let x := m.arc' a
  let m := m.setArc a { x with rx := x.rx + BitVec.ofNat 64 k.payload.length, lastProgress := m.clk.elapsed }
  match x.op with
  | some o =>
    if o.desc.part = h.dstPart.toNat && (arOpId o.desc).toNat = opId then
      match opPhase o with
      | none => arcLate a m
      | some f =>
        if kind = 1 then
          if ph < f.num || o.readies.contains ph then arcLate a m
          else arcGo a (setArcOp a (some { o with readies := ph :: o.readies }) m)
        else if kind = 0 && ph = f.num then arcRecv a o f k pairDiff m
        else arcLate a m
    else if kind = 1 && !x.ended.contains (h.dstPart.toNat, opId) then holdReady a k m
    else arcLate a m
  | none =>
    if kind = 1 && !x.ended.contains (h.dstPart.toNat, opId) then holdReady a k m else arcLate a m

def execArcade (pairDiff : Bool) (s : State) : Out :=
  match takeTy 0x10 s.m with
  | none => stop "ARCADE"
  | some (k, m) => done s (if arcOk k then arcPacket k pairDiff m else m)

/-! ### The commit vote (R500 to R502) -/

def vtPhase (o : VoteOp) : Option Phase := phaseAt false o.cfg.size o.cfg.rank 1 false o.phase

def setVote (p : Nat) (o : Option VoteOp) (m : Module) : Module :=
  let v := m.vote
  { m with vote := { v with
      running := (match o with
        | some o => nput v.running p o
        | none => v.running.filter (fun x => x.1 != p))
      lastProgress := m.clk.elapsed } }

/-- A vote has ended: the registers, the event, and the Vestibule. -/
def voteEnd (p : Nat) (n : Beat) (failed : Bool) (res : W32) (ph size : Nat) (m : Module) : Module :=
  let m := setVote p none m
  let v := m.vote
  let lo := n.toNat % 2 ^ 32
  let m := { m with vote := { v with
    ended := ((p, lo) :: v.ended).take 64
    lastStep := nset (false, 0) v.lastStep p (failed, n)
    lastRes := nset (0, 0) v.lastRes p ((beatNow m).setWidth 32, res) } }
  if failed then voteFailed p n (ev 0x14 5 0 4 p 0 (pack [(lo, 32), (ph, 16)]) m)
  else voteDone p n res size (ev 0x14 4 0 0 p 0 (pack [(res.toNat, 32), (lo, 0)]) m)

/-- The VOTE packet of a phase. -/
def voteSend (p : Nat) (o : VoteOp) (f : Phase) (m : Module) : Module :=
  match f.dst with
  | none => m
  | some r =>
    let e := nget 0 o.ents r
    let aux := BitVec.ofNat 64 (2 ^ 32 * (o.step.toNat % 2 ^ 32) + f.num * 2 ^ 16)
    inject 0 (slicePkt m 0x11 0 p (entChip e) (entPart e) 0 0 aux (natLe 8 o.value.toNat)) m

/-- The early VOTE packet of a vote's phase, if one is held (R501). -/
def earlyVote (m : Module) (p : Nat) (o : VoteOp) (f : Phase) : Option Early :=
  m.vote.early.find? (fun e => e.pkt.hdr.dstPart.toNat = p && fld e.pkt.hdr.aux 32 32 = o.step.toNat % 2 ^ 32
    && fld e.pkt.hdr.aux 16 15 = f.num)

def voteTake (o : VoteOp) (f : Phase) (x : W32) : VoteOp :=
  { o with value := if f.how = 2 then x else o.value + x, got := true }

/-- Goes on from the phase a vote has entered; `fresh` when it has just entered it and its packet is due. -/
def voteRun (p : Nat) : Nat → Bool → Module → Module
  | 0, _, m => m
  | n + 1, fresh, m =>
    match nfind m.vote.running p with
    | none => m
    | some o =>
      match vtPhase o with
      | none => voteEnd p o.step false o.value 0 o.cfg.size m
      | some f =>
        let m := if fresh then voteSend p o f m else m
        let (o, m) := if !o.got && f.src.isSome then
            (match earlyVote m p o f with
             | some e =>
               let o := voteTake o f (BitVec.ofNat 32 (le e.pkt.payload 0 4))
               (o, setVote p (some o) { m with vote := { m.vote with early := m.vote.early.erase e } })
             | none => (o, m))
          else (o, m)
        if f.src.isNone || o.got then
          voteRun p n true (setVote p (some { o with phase := o.phase + 1, got := false, startAt := m.clk.elapsed }) m)
        else m

/-- Starts a vote now (R500); with no configuration it fails (R502). -/
def voteBegin (p : Nat) (n : Beat) (value : W32) (m : Module) : Module :=
  match nfind m.vote.cfgs p with
  | none => voteEnd p n true value 0 0 m
  | some c =>
    let (ents, m) := readEnts 0 p c.map (ranksUsed false c.size c.rank) m
    let o : VoteOp := { cfg := c, step := n, phase := 0, value := value, ents := ents, got := false, startAt := m.clk.elapsed,
                        limit := if c.tmo = 0 then max 1 (m.arc' 0).voteTmo.toNat else c.tmo }
    let m := setVote p (some o) { m with vote := { m.vote with ended := m.vote.ended.filter (fun e => e != (p, n.toNat % 2 ^ 32)) } }
    voteRun p 20 true m

/-- Votes that fell due while another ran start in order (R501). -/
def voteQueued (p : Nat) : Nat → Module → Module
  | 0, m => m
  | k + 1, m =>
    if (nfind m.vote.running p).isSome then m
    else
      match nget [] m.vote.queued p with
      | [] => m
      | (n, v) :: r => voteQueued p k (voteBegin p n v { m with vote := { m.vote with queued := nset [] m.vote.queued p r } })

def voteNext (p : Nat) (m : Module) : Module := voteQueued p (nget [] m.vote.queued p).length m

/-- A vote falls due (R500, R501). -/
def voteStart (p : Nat) (n : Beat) (value : W32) (m : Module) : Module :=
  if (nfind m.vote.running p).isSome then
    { m with vote := { m.vote with queued := nset [] m.vote.queued p (nget [] m.vote.queued p ++ [(n, value)]) } }
  else voteNext p (voteBegin p n value m)

/-- A VOTE packet (R500, R501, R503). -/
def votePacket (k : Pkt) (pairDiff : Bool) (m : Module) : Module :=
  let h := k.hdr
  let p := h.dstPart.toNat
  let opId := fld h.aux 32 32
  let ph := fld h.aux 16 15
  let m := { m with vote := { m.vote with lastProgress := m.clk.elapsed } }
  let hold (m : Module) : Module :=
    if m.vote.early.length < 64 then { m with vote := { m.vote with early := m.vote.early ++ [{ pkt := k, at_ := m.clk.elapsed }] } }
    else ev 0x14 6 0 2 31 0 (pack [(opId, 32), (h.srcChip.toNat, 0)]) (earlyDropped 0 m)
  match nfind m.vote.running p with
  | none => if m.vote.ended.contains (p, opId) then arcLate 0 m else hold m
  | some o =>
    if o.step.toNat % 2 ^ 32 = opId then
      match vtPhase o with
      | none => arcLate 0 m
      | some f =>
        if ph > f.num then hold m
        else if ph = f.num && f.src.isSome && !o.got then
          let m := setVote p (some (voteTake o f (BitVec.ofNat 32 (le k.payload 0 4)))) m
          let m := if f.how < 2 && fullMode m p then
              let m := compared 0 1 m
              let d : Desc := { part := p, ctx := 0, ty := 0, flags := 0, len := 0, seq := o.step.setWidth 64, bytes := [] }
              if pairDiff then mismatch 0 7 0 [0] d m else m
            else m
          voteNext p (voteRun p 20 false m)
        else arcLate 0 m
    else if m.vote.ended.contains (p, opId) then arcLate 0 m else hold m

def execVote (pairDiff : Bool) (s : State) : Out :=
  match takeTy 0x11 s.m with
  | none => stop "VOTE"
  | some (k, m) => done s (if voteOk k then votePacket k pairDiff (corridor k.via 0 (256 * flitCount k.hdr.len.toNat) m) else m)

/-- A running vote fails (R502, R582). -/
def voteFail (p : Nat) (m : Module) : Module :=
  match nfind m.vote.running p with
  | none => m
  | some o =>
    let ph := match vtPhase o with
      | some f => f.num
      | none => 0
    voteNext p (voteEnd p o.step true o.value ph o.cfg.size m)

/-- The phase timer of an operation, or of a partition's vote, reaches its limit (R495, R501, R502). -/
def execPhaseTimeout (u : Option (Fin 2)) (part : Fin 16) (s : State) : Out :=
  match u with
  | some a =>
    match (s.m.arc' a).op with
    | none => stop "PHASE_TIMEOUT"
    | some o => done s (arcStop a.val 1 (passTo (o.startAt + o.limit * 1024) s.m))
  | none =>
    match nfind s.m.vote.running part.val with
    | none => stop "PHASE_TIMEOUT"
    | some o => done s (voteFail part.val (passTo (o.startAt + o.limit * 1024) s.m))

/-- A held READY, or for Arcade 0 a held VOTE packet, has waited 65,536 beats (R493, R501): the one held longest. -/
def execEarlyReadyExpiry (a : Fin 2) (s : State) : Out :=
  let due (e : Early) : Nat := e.at_ + 65536 * 1024
  match (s.m.arc' a).early, (if a.val = 0 then s.m.vote.early else []) with
  | [], [] => stop "EARLY_READY_EXPIRY"
  | e :: r, v =>
    match v with
    | f :: q =>
      if f.at_ < e.at_ then
        let m := passTo (due f) s.m
        done s (earlyDropped a.val { m with vote := { m.vote with early := q } })
      else
        let m := passTo (due e) s.m
        done s (earlyDropped a.val (m.setArc a.val { m.arc' a.val with early := r }))
    | [] =>
      let m := passTo (due e) s.m
      done s (earlyDropped a.val (m.setArc a.val { m.arc' a.val with early := r }))
  | [], f :: q =>
    let m := passTo (due f) s.m
    done s (earlyDropped a.val { m with vote := { m.vote with early := q } })

/-! ### Notices and resets (R497, R508, R564, R582) -/

/-- Adds beats to the timers of a partition's running operations (R497, R582). -/
def arcExtend (p beats : Nat) (m : Module) : Module :=
  let m := [0, 1].foldl (fun m a =>
    match (m.arc' a).op with
    | some o =>
      if o.desc.part = p then
        ev 0x14 3 a 1 p o.desc.ctx (BitVec.ofNat 64 beats)
          (m.setArc a { m.arc' a with op := some { o with limit := o.limit + beats } })
      else m
    | none => m) m
  match nfind m.vote.running p with
  | some o =>
    ev 0x14 3 0 1 p 0 (BitVec.ofNat 64 beats)
      { m with vote := { m.vote with running := nput m.vote.running p { o with limit := o.limit + beats } } }
  | none => m

/-- Ends a partition's running operations and vote (R582). -/
def arcAbort (p : Nat) (m : Module) : Module :=
  let m := [0, 1].foldl (fun m a =>
    match (m.arc' a).op with
    | some o => if o.desc.part = p then arcStop a 1 m else m
    | none => m) m
  voteFail p m

/-- The votes of the partitions that meet a condition end without completion; `cfg` clears their configurations too (R508). -/
def voteDrop (ok : Nat → Bool) (cfg : Bool) (m : Module) : Module :=
  let v := m.vote
  { m with vote := { v with
      running := v.running.filter (fun x => !ok x.1), queued := v.queued.filter (fun x => !ok x.1)
      cfgs := if cfg then v.cfgs.filter (fun x => !ok x.1) else v.cfgs } }

/-- The running operation of an Arcade ends without completion when its partition meets a condition. -/
def arcDrop (a : Nat) (ok : Nat → Bool) (m : Module) : Module :=
  match (m.arc' a).op with
  | some o => if ok o.desc.part then arcEnded a o.desc.part (arOpId o.desc).toNat m else m
  | none => m

/-- ARC_CNT_CLR (R510): 0x020 to 0x060. -/
def arcClear (x : Arc) : Arc :=
  { x with ops := 0, tx := 0, rx := 0, adds := 0, timeouts := 0, latePkt := 0, earlyDrop := 0, refused := 0, xwing := 0 }
def execArcCntClr (a : Fin 2) (s : State) : Out := done s (s.m.setArc a.val (arcClear (s.m.arc' a.val)))

end Sys2Proof.Machine
end

