-- ==== Sys2Proof/Machine/Vst.lean ====
section
/-! DEFINITION. The Vestibule (chapter 13): its descriptors, STEP, COMMIT and CUT, replay and resolution commands, cuts and drains,
and its configuration. -/

namespace Sys2Proof.Machine

/-! ### Engines that execute (R530, R562) -/

/-- The descriptors that an engine has started and not completed. -/
def execDescs (m : Module) (cls idx : Nat) : List Desc :=
  match cls with
  | 0 => (m.gal' idx).ops.map (·.desc)
  | 1 => (m.bal' idx).held.toList.map (·.desc) ++ (m.bal' idx).ups.map (·.desc)
  | 2 => (m.lnd' idx).op.toList.map (·.desc)
  | 3 => (m.ris' idx).op.toList.map (·.desc)
  | 4 => (m.win' idx).op.toList.map (·.desc)
  | 5 => (m.nwl' idx).op.toList.map (·.desc)
  | 6 => (m.flt' idx).ops.map (·.desc)
  | 7 => (m.arc' idx).op.toList.map (·.desc)
  | _ => []

/-- The queues of a class and unit, with their descriptors. -/
def queuesOf (m : Module) (cls idx : Nat) : List (QKey × List Desc) := m.queues.filter (fun x => x.1.cls = cls && x.1.idx = idx)

/-- Whether a unit has a descriptor queued or executing. -/
def unitBusy (m : Module) (cls idx : Nat) : Bool := !(queuesOf m cls idx).isEmpty || !(execDescs m cls idx).isEmpty

/-- The engines that a partition owns, as (queue class, index). -/
def ownedEngines (m : Module) (p : Nat) : List (Nat × Nat) :=
  [0, 1, 2, 3, 4, 6].flatMap (fun c =>
    match svcOf c with
    | some k => ((List.range (qclsCount c)).filter (fun i => owner m k i = some p)).map (fun i => (c, i))
    | none => [])

def partBusy (m : Module) (p : Nat) : Bool := (ownedEngines m p).any (fun e => unitBusy m e.1 e.2)

/-! ### Copies inside the slow tier and to it (R381) -/

/-- Copies bytes of a partition's memory, poison code words included (R381). -/
def vstCopy (p tier src dstTier dst n : Nat) (m : Module) : Module :=
  let (bs, bad, m) := memRead 2 p tier false src n m
  memWriteBad 2 p dstTier false dst bs bad m

def shardSize (v : Vst) : Nat := (regionOf v.shard).2
def snapBase (v : Vst) : Nat := (regionOf v.snap).1

/-! ### Mirror packets (R536) -/

/-- Sends a MIRROR packet of a partition to a chip and partition; the tag it carries. -/
def mirSend (p chip part kind : Nat) (step : Beat) (off hi : Nat) (payload : List Byte) (m : Module) : Nat × Module :=
  let (tag, m) := newTag m
  let aux := BitVec.ofNat 64 (2 ^ 60 * kind + 2 ^ 48 * hi + step.toNat)
  let m := inject 2 (slicePkt m 0x18 2 p chip part tag (BitVec.ofNat 64 off) aux payload) m
  let x := m.mir' p
  (tag, m.setMir p { x with tx := x.tx + BitVec.ofNat 64 payload.length })

/-- The 32-byte sectors of a payload of which a byte carries an uncorrected error. -/
def badSectors (bad : List Bool) : List Nat :=
  (List.range (ceilDiv bad.length 32)).filter (fun i => ((bad.drop (32 * i)).take 32).any id)

/-- The bytes of a payload whose sectors arrived as poison. -/
def badBytes (sectors : List Nat) (n : Nat) : List Bool := (List.range n).map (fun i => sectors.contains (i / 32))

/-- Sends a MIRROR packet whose bytes the mirror engine has read: it says which sectors are poison (R381; log entry 170). -/
def mirSendRead (p chip part kind : Nat) (step : Beat) (off : Nat) (x : List Byte × List Bool) (m : Module) : Nat × Module :=
  let r := mirSend p chip part kind step off 0 x.1 m
  let l := badSectors x.2
  (r.1, if l.isEmpty then r.2 else emit (.poison r.1 l) r.2)

def nameValid (w : W32) : Bool := bit w 31
def nameChip (w : W32) : Nat := fld w 0 13
def namePart (w : W32) : Nat := fld w 16 5

/-- The bytes of a slot header that R516 lays out; the others are reserved and not carried (log entry 19). -/
def headerCarried : Nat := 480

/-- A slot header goes to the partner as an INPUT packet (R520, R536). -/
def sendInput (p k : Nat) (m : Module) : Module :=
  let x := m.mir' p
  match nfind (m.vst' p).slots k with
  | some s =>
    if nameValid x.partner then
      (mirSend p (nameChip x.partner) (namePart x.partner) 4 s.step 0 0 ((slotHeader s).take headerCarried) m).2
    else m
  | none => m

/-! ### Cuts (R545) -/

/-- Takes the cut of a committed step, or aborts it. -/
def takeCut (p : Nat) (k : Beat) (m : Module) : Module :=
  let v := m.vst' p
  let m := m.setVst p { v with cut := none }
  if v.snapSt = .copying || v.snapSt = .draining || (regionOf v.snap).2 < shardSize v then vstEv p 0x0C 2 0 (k.setWidth 64) m
  else
    let r := regionOf v.shard
    let m := flushCache p (fun l => l.tier = 2 && overlap (256 * l.addr) 256 r.1 r.2) m
    let v := m.vst' p
    m.setVst p { v with snapSt := .copying, snapStep := k }

/-- Arms a cut (R545). -/
def armCut (p : Nat) (k : Beat) (m : Module) : Module :=
  if vstServes m p then m.setVst p { m.vst' p with cut := some k } else m

/-- Whether a step is committed: its slot says so, or it was the last step committed and its slot has been released. -/
def stepCommitted (v : Vst) (k : Beat) : Bool :=
  match slotOfStep v k with
  | some (_, s) => s.st = .committed
  | none => v.committed = k

/-! ### STEP and COMMIT alarms (R327, R520, R525) -/

def openStep (p k : Nat) (n : Beat) (m : Module) : Module :=
  let m := setStepComp p (n.setWidth 32) m
  let seeds := (List.range 8).map (seedOf m (homeWing p) p)
  let s : VSlot := { st := .open, step := n, norec := false, taint := false, verifiedSeen := false, voting := false, replayed := false,
                     replayMode := 0, s := n.setWidth 32, seeds := seeds, batches := [], captures := [], used := 4096,
                     openedAt := m.clk.elapsed, verifiedBeat := none, soloNext0 := 0, soloNext1 := 0, result := 0, deep := levelNow m.pwr }
  let v := m.vst' p
  let m := m.setVst p { v with slots := nput v.slots k s }
  let m := { m with wdg := { m.wdg with partProgress := nset 0 m.wdg.partProgress p m.clk.elapsed } }
  let m := sendInput p k (writeHeader p k m)
  match (m.vst' p).cut with
  | some c => if c + 1 = n && stepCommitted (m.vst' p) c then takeCut p c m else m
  | none => m

/-- The STEP alarm of step n fires (R327, R520, R525). -/
def vstStep (p : Nat) (n : Beat) (m : Module) : Module :=
  let m := setStepComp p (n.setWidth 32) { m with pwr := { m.pwr with deepest := nset 0 m.pwr.deepest p (levelNow m.pwr) } }
  if !vstServes m p then m
  else
    let v := m.vst' p
    if holdSet v then vstEv p 9 2 0 (pack [(2, 56), (n.toNat, 0)]) m
    else
      let inOrder := match newestSlot v (fun _ => true) with
        | some x => x.2.step + 1 = n
        | none => true
      if !inOrder then vstEv p 8 2 0 (n.setWidth 64) m
      else
        match (List.range v.depthN).find? (fun k => (nfind v.slots k).isNone) with
        | some k => openStep p k n m
        | none =>
          match oldestSlot v (fun s => s.st = .committed) with
          | some (k, s) =>
            let m := freeSlot p k m
            let v := m.vst' p
            openStep p k n (vstEv p 4 4 0 (stepDetail s.step 0) (m.setVst p { v with overflows := v.overflows + 1 }))
          | none => vstEv p 8 2 0 (n.setWidth 64) m

/-- Starts a step's vote. -/
def beginVote (p k : Nat) (s : VSlot) (value : Bool) (m : Module) : Module :=
  voteStart p s.step (if value then 1 else 0) (updSlot p k (fun s => { s with voting := true }) m)

/-- The COMMIT alarm of step n fires (R520, R531). -/
def vstCommit (p : Nat) (n : Beat) (m : Module) : Module :=
  if !vstServes m p then m
  else
    match slotOfStep (m.vst' p) n with
    | some (k, s) =>
      if liveSt s.st && !s.voting && s.replayMode < 2 then beginVote p k s (s.st = .verified) m
      else vstEv p 9 2 0 (pack [(3, 56), (n.toNat, 0)]) m
    | none => vstEv p 9 2 0 (pack [(3, 56), (n.toNat, 0)]) m

/-! ### Descriptors (R526, R527, R549) -/

def vstPushOk (d : Desc) : Bool :=
  match d.ty.toNat with
  | 0x80 => d.len = 48 && nfld d.flags.toNat 1 11 = 0
  | 0x81 => d.len = 32 && d.flags = 0 && zeros d.bytes 22 10
  | 0x82 => d.len = 32 && d.flags = 0 && zeros d.bytes 22 2
  | _ => false

def stStep (d : Desc) : Beat := BitVec.ofNat 48 (d.f 16 8)

/-- The head of a partition's Vestibule queue, when it is of a type and no AWAIT stands before it. -/
def vstHead (m : Module) (p ty : Nat) : Option (QKey × Desc) :=
  let k : QKey := ⟨8, 0, p⟩
  if (m.vst' p).awaits.isEmpty then
    match queue m k with
    | d :: _ => if d.ty.toNat = ty then some (k, d) else none
    | [] => none
  else none

def retainRefusal (m : Module) (d : Desc) : Option Nat :=
  let a := d.a 16
  let n := d.f 24 8
  firstCode [
    (0x10, (match newestSlot (m.vst' d.part) (fun s => s.st = .open) with
      | some (_, s) => s.batches.length ≥ 4
      | none => true) || n = 0 || n > 2 ^ 40),
    (0x11, !(gaOk a && gaHere m a && gaTier a < 3 && allowed m d.part (gaTier a) (gaOff a) n)
      || touchesGuarded m d.part (gaTier a) (gaOff a) n),
    (0x14, !vstServes m d.part)]

/-- A batch record is written (R517). -/
def retain (d : Desc) (m : Module) : Module :=
  let p := d.part
  match newestSlot (m.vst' p) (fun s => s.st = .open) with
  | none => m
  | some (k, s) =>
    let a := d.a 16
    let n := d.f 24 8
    let (bs, bad, m) := memRead 2 p (gaTier a) false (gaOff a) n m
    let (off, m) := if d.fl 0 || s.norec then (none, m) else reserve p k s n m
    let m := match off with
      | some o => memWriteBad 2 p 2 false o bs bad m
      | none => m
    let b : BatchRec := { addr := a, len := d.a 24, digestMode := d.fl 0, handle := slice d.bytes 32 16, digest := sha384 bs, off := off }
    writeHeader p k (updSlot p k (fun s => { s with batches := s.batches ++ [b] }) m)

def execRetain (p : Fin 16) (s : State) : Out :=
  match vstHead s.m p 0x80 with
  | none => stop "RETAIN"
  | some (k, d) =>
    let m := dequeue k s.m
    match retainRefusal m d with
    | some c => done s (bodyRefused 8 0 c d m)
    | none => done s (complete 8 0 d false (retain d (descStart 8 0 d m)))

def doneRefusal (m : Module) (d : Desc) : Option Nat :=
  firstCode [
    (0x12, (match slotOfStep (m.vst' d.part) (stStep d) with
      | some (_, s) => s.st != .open
      | none => true)),
    (0x14, !vstServes m d.part)]

/-- A DONE moves its step to COMPUTED; in the next cycle the Baluster reports the step checked (R520, R594). -/
def doDone (d : Desc) (m : Module) : Module :=
  match slotOfStep (m.vst' d.part) (stStep d) with
  | none => m
  | some (k, _) =>
    let m := complete 8 0 d false (updSlot d.part k (fun s => { s with st := .computed }) (descStart 8 0 d m))
    if wingUp m (homeWing d.part) then stepChecked d.part (stStep d) (passToCycle (m.clk.cycle + 1) m) else m

def execDone (p : Fin 16) (s : State) : Out :=
  match vstHead s.m p 0x81 with
  | none => stop "DONE"
  | some (k, d) =>
    let m := dequeue k s.m
    match doneRefusal m d with
    | some c => done s (bodyRefused 8 0 c d m)
    | none => done s (doDone d m)

def awaitRefusal (m : Module) (d : Desc) : Option Nat :=
  firstCode [
    (0x11, !hallAt m d.part (d.a 24) 0 8 || (d.a 24).toNat % 8 != 0),
    (0x12, (slotOfStep (m.vst' d.part) (stStep d)).isNone),
    (0x14, !vstServes m d.part)]

def execAwait (p : Fin 16) (s : State) : Out :=
  match vstHead s.m p 0x82 with
  | none => stop "AWAIT"
  | some (k, d) =>
    let m := dequeue k s.m
    match awaitRefusal m d with
    | some c => done s (bodyRefused 8 0 c d m)
    | none => done s (descStart 8 0 d (m.setVst p { m.vst' p with awaits := [d] }))

/-- Whether a step lies before another (R106). -/
def stepBefore (a b : Beat) : Bool := !atOrAfter a b

/-- Whether every cut copy and every SEND of a step before m has finished reading SHARD (R527). -/
def shardRead (m : Module) (p : Nat) (n : Beat) : Bool :=
  let v := m.vst' p
  !(v.snapSt = .copying && stepBefore v.snapStep n)
  && (match (m.mir' p).send with
      | some o => o.endTag.isSome || !stepBefore (stStep o.desc) n
      | none => true)
  && !((queue m ⟨9, 0, p⟩).any (fun d => d.ty = 0x88 && stepBefore (stStep d) n))

/-- The outcome of an AWAIT: the word it writes (R527), or none when its step is no longer held and never committed. -/
def awaitOutcome (m : Module) (d : Desc) : Option (Option Nat) :=
  let p := d.part
  let n := stStep d
  match slotOfStep (m.vst' p) n with
  | some (_, s) =>
    match s.st with
    | .committed => if shardRead m p n then some (some (2 ^ 32 * s.result.toNat + 1)) else none
    | .failed => some (some (2 ^ 32 * s.result.toNat + 2))
    | .undecided => some (some (2 ^ 32 * s.result.toNat + 3))
    | _ => none
  | none =>
    if atOrAfter (m.vst' p).committed n then
      let res := if (nget (false, 0) m.vote.lastStep p).2 = n then (nget (0, 0) m.vote.lastRes p).2.toNat else 0
      if shardRead m p n then some (some (2 ^ 32 * res + 1)) else none
    else some none

def execAwaitComplete (p : Fin 16) (s : State) : Out :=
  match (s.m.vst' p).awaits with
  | [] => stop "AWAIT_COMPLETE"
  | d :: r =>
    match awaitOutcome s.m d with
    | none => stop "AWAIT_COMPLETE"
    | some w =>
      let m := s.m.setVst p { s.m.vst' p with awaits := r }
      match w with
      | some x => done s (complete 8 0 d false (hallWrite 2 p (gaOff (d.a 24)) (natLe 8 x) m))
      | none => done s (complete 8 0 d true m)

/-! ### Release (R524) -/

def outAcked (x : Mir) (k : Beat) : Bool :=
  !nameValid x.partner || (match x.outAck with
    | some a => atOrAfter a k
    | none => false)

def inHeld (x : Mir) (k : Beat) : Bool :=
  !nameValid x.source || (match x.inC with
    | some c => atOrAfter c.2 k
    | none => false)

def execReleased (p : Fin 16) (s : State) : Out :=
  match oldestSlot (s.m.vst' p) (fun _ => true) with
  | none => stop "RELEASED"
  | some (k, x) =>
    if x.st = .committed && outAcked (s.m.mir' p) x.step && inHeld (s.m.mir' p) x.step then
      done s (vstEv p 0x0A 0 0 (x.step.setWidth 64) (freeSlot p k s.m))
    else stop "RELEASED"

/-! ### Commands (R528 to R530) -/

/-- A command is refused (R530). -/
def cmdRefuse (p code : Nat) (m : Module) : Module :=
  vstEv p 6 2 0 (BitVec.ofNat 64 code) (m.setVst p { m.vst' p with lastCode := BitVec.ofNat 8 code })

/-- Commands 1 to 6 as VST_CMD is written: armed for VST_CMD_BEAT, or refused when that beat has passed. -/
def vstArm (p op : Nat) (m : Module) : Module :=
  let v := m.vst' p
  let b := v.cmdBeat
  let now := beatNow m
  if (b != now && atOrAfter now b) || (b = now && m.clk.time.toNat % 1024 != 0) then cmdRefuse p 6 m
  else m.setVst p { v with armedCmd := v.armedCmd ++ [(op, v.cmdStep, b)] }

def execReplayLive (p : Fin 16) (s : State) : Out := done s (vstArm p 1 s.m)
def execReplaySolo (p : Fin 16) (s : State) : Out := done s (vstArm p 2 s.m)
def execReplaySoloCommitted (p : Fin 16) (s : State) : Out := done s (vstArm p 3 s.m)
def execRevote (p : Fin 16) (s : State) : Out := done s (vstArm p 4 s.m)
def execResolveCommit (p : Fin 16) (s : State) : Out := done s (vstArm p 5 s.m)
def execResolveAbort (p : Fin 16) (s : State) : Out := done s (vstArm p 6 s.m)

/-- Whether a DIGEST range differs from its record (R530 code 0x04), and the module after the ranges are read. -/
def digestBad (p : Nat) (s : VSlot) (m : Module) : Bool × Module :=
  s.batches.foldl (fun (a : Bool × Module) b =>
    if b.digestMode then
      let x := memRead 2 p (gaTier b.addr) false (gaOff b.addr) b.len.toNat a.2
      (a.1 || sha384 x.1 != b.digest, x.2.2)
    else a) (false, m)

/-- The states in which a command is allowed (R528). -/
def cmdAllowed (op : Nat) (s : VSlot) : Bool :=
  !s.voting &&
  match op with
  | 1 => s.st = .failed || s.st = .undecided
  | 2 => s.st = .failed || s.st = .undecided
  | 3 => s.st = .failed
  | 4 => s.st = .undecided || (s.st = .verified && s.replayMode = 2)
  | 5 => s.st = .undecided && s.verifiedSeen
  | _ => s.st = .undecided

/-- The bytes of a slot area in use once its captures are discarded: the header and the COPY bytes. -/
def usedWithout (base : Nat) (s : VSlot) : Nat :=
  s.batches.foldl (fun a b => match b.off with
    | some o => max a (o - base + b.len.toNat)
    | none => a) 4096

/-- A replay takes effect (R529). -/
def replay (p k op : Nat) (s : VSlot) (m : Module) : Module :=
  let m := (List.zip (List.range 8) s.seeds).foldl (fun m x => setSeed p x.1 x.2 m) m
  let m := setStepComp p (s.step.setWidth 32) m
  let m := s.batches.foldl (fun m b => match b.off with
    | some o => vstCopy p 2 o (gaTier b.addr) (gaOff b.addr) b.len.toNat m
    | none => m) m
  let base := (m.vst' p).slotBase k
  let m := updSlot p k (fun s =>
    let s : VSlot := { s with
      st := .open, taint := false, verifiedSeen := false, replayed := true, replayMode := op, soloNext0 := 0, soloNext1 := 0 }
    if op = 1 then
      { s with captures := [], used := usedWithout base s, norec := s.batches.any (fun b => !b.digestMode && b.off.isNone) }
    else s) m
  let v := m.vst' p
  let m := vstEv p 5 1 0 (stepDetail s.step op) (m.setVst p { v with replays := v.replays + 1 })
  (List.range 8).foldl (fun m c => setGate p c 15 m) m

/-- A command takes effect at its beat, or is refused (R528 to R530, R744). -/
def cmdEffect (p op : Nat) (n : Beat) (m : Module) : Module :=
  let v := m.vst' p
  match slotOfStep v n with
  | none => cmdRefuse p 1 m
  | some (k, s) =>
    let rep := op ≤ 3
    let older := v.slots.any (fun x => stepBefore x.2.step n && x.2.st != .committed)
    let (bad, m) := if rep then digestBad p s m else (false, m)
    match firstCode [(2, rep && older), (3, rep && partBusy m p), (4, bad), (5, !cmdAllowed op s), (7, (op = 2 || op = 3) && s.norec)] with
    | some c => cmdRefuse p c m
    | none =>
      match op with
      | 4 => beginVote p k s (s.verifiedSeen && !s.taint) m
      | 5 => commitStep p k 0 (beatNow m) m
      | 6 => cutFails p n (updSlot p k (fun s => { s with st := .failed }) m)
      | _ => replay p k op s m

/-- The armed command whose beat comes first. -/
def nextCmd (l : List (Nat × Beat × Beat)) : Option (Nat × Beat × Beat) :=
  l.foldl (fun a x =>
    match a with
    | none => some x
    | some y => if stepBefore x.2.2 y.2.2 then some x else a) none

def execVstCommandBeat (p : Fin 16) (s : State) : Out :=
  match nextCmd (s.m.vst' p).armedCmd with
  | none => stop "VST_COMMAND_BEAT"
  | some c =>
    let m := s.m.setVst p { s.m.vst' p with armedCmd := (s.m.vst' p).armedCmd.erase c }
    done s (cmdEffect p c.1 c.2.1 (passToBeat c.2.2 m))

def execCutCommand (p : Fin 16) (s : State) : Out := done s (armCut p (s.m.vst' p).cmdStep s.m)

/-- CLEAR frees every slot, which clears HOLD (R528). -/
def vstClear (p : Nat) (m : Module) : Module := m.setVst p { m.vst' p with slots := [] }
def execClear (p : Fin 16) (s : State) : Out := done s (vstClear p s.m)

/-- The copy of SHARD to SNAP ends (R545). -/
def execCutTaken (p : Fin 16) (s : State) : Out :=
  let v := s.m.vst' p
  if v.snapSt = .copying then
    let m := vstCopy p 2 (regionOf v.shard).1 2 (snapBase v) (shardSize v) s.m
    done s (vstEv p 0x0B 1 0 (v.snapStep.setWidth 64) (m.setVst p { m.vst' p with snapSt := .valid }))
  else stop "CUT_TAKEN"

/-! ### Drains (R546, R547, R669) -/

/-- The header of a checkpoint object (R546; the places of its fields: log entry 20). -/
def objHeader (m : Module) (p : Nat) (bs : List Byte) : List Byte :=
  let v := m.vst' p
  slice (natLe 8 0x4C54434B ++ natLe 8 v.snapStep.toNat ++ natLe 8 m.rte.chip.toNat ++ natLe 8 p ++ natLe 8 bs.length ++ sha384 bs) 0 4096

/-- SHARD's bytes in records, each sealed with its tag (R669). -/
def objRecords (key : List Byte) (obj : W64) (head : List Byte) : Nat → Nat → List Byte → List Byte
  | 0, _, _ => []
  | n + 1, i, l =>
    if l.isEmpty then []
    else
      let e := gcmSeal key (natLe 8 obj.toNat ++ natLe 4 i) head (l.take 65536)
      e.1 ++ e.2 ++ objRecords key obj head n (i + 1) (l.drop 65536)

/-- The object that a drain writes. -/
def drainObject (p : Nat) (key : List Byte) (m : Module) : List Byte × Module :=
  let v := m.vst' p
  let x := memRead 2 p 2 false (snapBase v) (shardSize v) m
  let h := objHeader x.2.2 p x.1
  (h ++ objRecords key v.drainObj h (x.1.length / 65536 + 1) 0 x.1, x.2.2)

/-- The object's length in bytes. -/
def objLen (v : Vst) : Nat := 4096 + shardSize v + 16 * ceilDiv (shardSize v) 65536

def drainEv (p code sev n : Nat) (m : Module) : Module := vstEv p code sev 0 (BitVec.ofNat 64 n) m

/-- Starts a drain of a VALID snapshot; `go` sends the object. -/
def drainStart (p : Nat) (fab : Bool) (go : List Byte → Module → Module) (m : Module) : Module :=
  let v := m.vst' p
  if v.snapSt = .valid then
    match nfind m.sec.ckeys p with
    | none => drainEv p 0x0F 4 0 m
    | some key =>
      let (obj, m) := drainObject p key m
      let v := m.vst' p
      go obj (m.setVst p { v with
        snapSt := .draining, drainDone := 0, drainFab := fab, drainTags := [], drainLateSeen := false, drainAckAt := m.clk.elapsed })
  else m

def drainHost (p : Nat) (m : Module) : Module :=
  drainStart p false (fun obj m => emit (.hostWrite (m.vst' p).drainDst obj) m) m

/-- A CKPT packet (R546, R547); its bytes count as sent by the mirror engine. -/
def ckptSend (p off : Nat) (payload : List Byte) (m : Module) : Module :=
  let v := m.vst' p
  let (tag, m) := newTag m
  let k := plainPkt 0x19 2 (fld v.drainDst 0 13) tag v.drainObj payload
  let k : Pkt := { k with hdr := { k.hdr with
    addr := BitVec.ofNat 64 off, srcPart := BitVec.ofNat 5 p, dstPart := BitVec.ofNat 5 (fld v.drainDst 16 5) } }
  let m := inject 2 k m
  let v := m.vst' p
  let m := m.setVst p { v with drainTags := v.drainTags ++ [(tag, off)] }
  let x := m.mir' p
  m.setMir p { x with tx := x.tx + BitVec.ofNat 64 payload.length }

def ckptPieces : Nat → Nat → List Byte → List (Nat × List Byte)
  | 0, _, _ => []
  | n + 1, off, l => if l.isEmpty then [] else (off, l.take 4096) :: ckptPieces n (off + 4096) (l.drop 4096)

def drainFabric (p : Nat) (m : Module) : Module :=
  drainStart p true (fun obj m => (ckptPieces (obj.length / 4096 + 1) 0 obj).foldl (fun m x => ckptSend p x.1 x.2 m) m) m

def execDrainHost (p : Fin 16) (s : State) : Out := done s (drainHost p s.m)
def execDrainFabric (p : Fin 16) (s : State) : Out := done s (drainFabric p s.m)

/-- A gateway acknowledges a CKPT packet. -/
def drainAck (p tag : Nat) (m : Module) : Module :=
  let v := m.vst' p
  match v.drainTags.find? (fun x => x.1 = tag) with
  | none => m
  | some x =>
    m.setVst p { v with
      drainTags := v.drainTags.erase x, drainDone := v.drainDone + BitVec.ofNat 64 (min 4096 (objLen v - x.2))
      drainAckAt := m.clk.elapsed }

def execDrainDone (p : Fin 16) (s : State) : Out :=
  let v := s.m.vst' p
  if v.snapSt = .draining && v.drainTags.isEmpty then
    done s (drainEv p 0x0D 1 (objLen v) (s.m.setVst p { v with snapSt := .drained, drainDone := BitVec.ofNat 64 (objLen v) }))
  else stop "DRAIN_DONE"

/-- MIR_TMO in nanoseconds (R553). -/
def mirTmo (x : Mir) : Nat := max 1 x.tmo.toNat * 1024

/-- Where a drain that fails stands: the offset of the first byte not acknowledged. -/
def drainOffset (v : Vst) : Nat :=
  match v.drainTags with
  | x :: _ => x.2
  | [] => v.drainDone.toNat

def drainFail (p : Nat) (m : Module) : Module :=
  let v := m.vst' p
  drainEv p 0x0F 4 (drainOffset v) (m.setVst p { v with snapSt := .valid, drainTags := [] })

def execDrainError (p : Fin 16) (s : State) : Out :=
  let v := s.m.vst' p
  if v.snapSt = .draining && (!v.drainFab || !v.drainTags.isEmpty) then
    done s (drainFail p (passTo (v.drainAckAt + mirTmo (s.m.mir' p)) s.m))
  else stop "DRAIN_ERROR"

def execDrainLate (p : Fin 16) (s : State) : Out :=
  let v := s.m.vst' p
  if v.snapSt = .draining && !v.drainLateSeen then
    let m := passToBeat v.drainDeadline s.m
    done s (drainEv p 0x0E 4 (objLen v - v.drainDone.toNat) (m.setVst p { m.vst' p with drainLateSeen := true }))
  else stop "DRAIN_LATE"

/-- A CKPT packet for local delivery is discarded (R547). -/
def execCkpt (s : State) : Out :=
  match s.m.rte.local_ with
  | k :: r => if k.hdr.ty = 0x19 then done s (deliver k { s.m with rte := { s.m.rte with local_ := r } }) else stop "CKPT"
  | [] => stop "CKPT"

/-! ### Configuration (R513, R515, R550) -/

def cfgIgnored (p : Nat) (m : Module) : Module := m.setVst p { m.vst' p with cfgIgn := true, cfgIgnAt := instant m }

/-- A write of VST_CFG: one that sets ENABLE for a partition of no slice is ignored whole (R513), and DEPTH stays while ENABLE is 1
(R515). -/
def vstCfgWrite (p : Nat) (val : W64) (m : Module) : Module :=
  let v := m.vst' p
  let depth := BitVec.ofNat 4 (fld val 0 4)
  if bit val 8 && (prec m p).slice = 0xFFF then cfgIgnored p m
  else
    let m := m.setVst p { v with depth := if v.enable then v.depth else depth, enable := bit val 8 }
    if v.enable && depth != v.depth then cfgIgnored p m else m

/-- Whether a region keeps R372 against every other region of the module. -/
def regionOk (m : Module) (p : Nat) (r : BitVec 44) (others : List (Nat × Nat)) : Bool :=
  let x := regionOf r
  x.2 = 0 || (allowed m p 2 x.1 x.2 && others.all (fun o => !overlap x.1 x.2 o.1 o.2))

/-- The regions of a partition: VEST, SHARD, SNAP and MIRROR. -/
def regionsOf (m : Module) (p : Nat) : List (Nat × Nat × Nat) :=
  let v := m.vst' p
  [(0, regionOf v.vest), (1, regionOf v.shard), (2, regionOf v.snap), (3, regionOf (m.mir' p).region)]

/-- The regions of the module other than one. -/
def otherRegions (m : Module) (p which : Nat) : List (Nat × Nat) :=
  (List.range 16).flatMap (fun q => ((regionsOf m q).filter (fun x => !(q = p && x.1 = which))).map (·.2))

/-- A region value as a register write gives it (R550). -/
def regionVal (val : W64) : BitVec 44 := BitVec.ofNat 44 (2 ^ 32 * fld val 32 12 + fld val 0 12)

/-- A write of a region register: 0 VEST, 1 SHARD, 2 SNAP, 3 MIRROR (R515, R553). -/
def regionWrite (p which : Nat) (val : W64) (m : Module) : Module :=
  let v := m.vst' p
  if v.enable then cfgIgnored p m
  else
    let r := regionVal val
    if !regionOk m p r (otherRegions m p which) then m.setVst p { v with regionBad := true, regionBadAt := instant m }
    else
      match which with
      | 0 => m.setVst p { v with vest := r }
      | 1 => m.setVst p { v with shard := r }
      | 2 => m.setVst p { v with snap := r }
      | _ => m.setMir p { m.mir' p with region := r }

def execVstCfgWrite (p : Fin 16) (val : W64) (s : State) : Out := done s (vstCfgWrite p val s.m)
def execVstRegionWrite (p : Fin 16) (region : Fin 3) (val : W64) (s : State) : Out := done s (regionWrite p region.val val s.m)
def execMirRegionWrite (p : Fin 16) (val : W64) (s : State) : Out := done s (regionWrite p 3 val s.m)

end Sys2Proof.Machine
end

