-- ==== Sys2Proof/Machine/Mir.lean ====
section
/-! DEFINITION. The mirror engine (chapter 13): SEND, the inbound transfer, RESTORE, and the packets that return to a requester.
The layouts of the mirror packets' payloads that the spec leaves open are the model's (log entry 19). -/

namespace Sys2Proof.Machine

/-! ### SEND (R526, R537, R538, R549) -/

def mirPushOk (d : Desc) : Bool :=
  d.ty = 0x88 && d.len = 48 && nfld d.flags.toNat 1 11 = 0 && zeros d.bytes 22 2 && d.f 32 2 < 2 ^ 13 && zeros d.bytes 34 14

def sdEntries (d : Desc) : Nat := d.f 32 2

/-- The range entries of a list (R537): offsets and lengths. -/
def parseList : Nat → List Byte → List (Nat × Nat)
  | 0, _ => []
  | n + 1, l => (le l 0 8, le l 8 8) :: parseList n (l.drop 16)

def listBytes (l : List (Nat × Nat)) : List Byte := l.flatMap (fun x => natLe 8 x.1 ++ natLe 8 x.2)

/-- Whether a list keeps R537; `from_` is the end of the range before, past its first byte even when it is empty. -/
def listOk (size : Nat) : Nat → List (Nat × Nat) → Bool
  | _, [] => true
  | from_, x :: r =>
    x.1 % 4096 = 0 && x.2 % 4096 = 0 && x.1 ≥ from_ && x.1 + x.2 ≤ size && listOk size (x.1 + max 1 x.2) r

def readList (d : Desc) (m : Module) : List (Nat × Nat) × Module :=
  let x := hallRead 2 d.part (gaOff (d.a 24)) (16 * sdEntries d) m
  (parseList (sdEntries d) x.1, x.2)

def sendRefusal (m : Module) (d : Desc) : Option Nat :=
  let p := d.part
  let n := sdEntries d
  let full := d.fl 0
  let at_ := hallAt m p (d.a 24) 0 (16 * max 1 n) && (d.a 24).toNat % 8 = 0
  firstCode [
    (0x11, !full && !at_),
    (0x12, (match slotOfStep (m.vst' p) (stStep d) with
      | some (_, s) => s.st != .committed
      | none => true)),
    (0x13, !full && (n = 0 || n > 4096 || !listOk (shardSize (m.vst' p)) 0 (readList d m).1)),
    (0x14, !vstServes m p || !nameValid (m.mir' p).partner)]

/-- Sends a packet of a kind to the partner. -/
def toPartner (p kind : Nat) (step : Beat) (off : Nat) (payload : List Byte) (m : Module) : Nat × Module :=
  let x := m.mir' p
  mirSend p (nameChip x.partner) (namePart x.partner) kind step off 0 payload m

/-- BEGIN: base step, FULL, SHARD size and entry count. -/
def beginPayload (base : Beat) (full : Bool) (size entries : Nat) : List Byte :=
  natLe 8 (2 ^ 63 * b2n full + base.toNat) ++ natLe 8 size ++ natLe 8 entries

def sendBegin (d : Desc) (full resent : Bool) (ranges : List (Nat × Nat)) (m : Module) : Module :=
  let p := d.part
  let n := stStep d
  let size := shardSize (m.vst' p)
  let (tag, m) := toPartner p 0 n 0 (beginPayload (n - 1) full size (if full then 0 else ranges.length)) m
  let o : SendOp := { desc := d, full := full, resent := resent, beginTag := tag, endTag := none, tags := [],
                      ranges := if full then [(0, size)] else ranges, lastAck := m.clk.elapsed }
  m.setMir p { m.mir' p with send := some o }

def execSend (p : Fin 16) (s : State) : Out :=
  let k : QKey := ⟨9, 0, p⟩
  match (s.m.mir' p).send, queue s.m k with
  | none, d :: _ =>
    let m := dequeue k s.m
    match sendRefusal m d with
    | some c => done s (bodyRefused 9 0 c d m)
    | none =>
      let m := descStart 9 0 d m
      let (l, m) := if d.fl 0 then ([], m) else readList d m
      done s (sendBegin d (d.fl 0) false l m)
  | _, _ => stop "SEND"

/-- Sends bytes in packets of 2,048; the tags they carry. -/
def sendPieces (p kind : Nat) (step : Beat) (ps : List (Nat × List Byte)) (m : Module) : List Nat × Module :=
  ps.foldl (fun (a : List Nat × Module) x =>
    let y := toPartner p kind step x.1 x.2 a.2
    (a.1 ++ [y.1], y.2)) ([], m)

def piecesFrom (off : Nat) (l : List Byte) : List (Nat × List Byte) := pieces (l.length / 2048 + 1) off l

/-- Bytes that were read, from an offset on, in packets of 2,048 with what was bad of each. -/
def readPieces (off : Nat) (x : List Byte × List Bool) : List (Nat × List Byte × List Bool) :=
  (piecesFrom off x.1).map (fun y => (y.1, y.2, (x.2.drop (y.1 - off)).take 2048))

/-- LIST, DATA and END, once BEGIN is accepted (R538). -/
def sendBody (p : Nat) (o : SendOp) (m : Module) : Module :=
  let n := stStep o.desc
  let (t1, m) := if o.full then ([], m) else sendPieces p 1 n (piecesFrom 0 (listBytes o.ranges)) m
  let base := (regionOf (m.vst' p).shard).1
  let (t2, m) := o.ranges.foldl (fun (a : List Nat × Module) r =>
    let x := memRead 2 p 2 false (base + r.1) r.2 a.2
    let w := (x.2.2.mir' p).partner
    (readPieces r.1 (x.1, x.2.1)).foldl (fun (a : List Nat × Module) y =>
      let z := mirSendRead p (nameChip w) (namePart w) 2 n y.1 y.2 a.2
      (a.1 ++ [z.1], z.2)) (a.1, x.2.2)) ([], m)
  let total := (o.ranges.map (·.2)).sum
  let (t3, m) := toPartner p 3 n 0 (natLe 8 total) m
  m.setMir p { m.mir' p with send := some { o with endTag := some t3, tags := t1 ++ t2, lastAck := m.clk.elapsed } }

/-- The END of a SEND is acknowledged (R538). -/
def sendDone (p : Nat) (o : SendOp) (m : Module) : Module :=
  let x := m.mir' p
  let n := stStep o.desc
  let m := m.setMir p { x with send := none, outAck := some n, fulls := if o.full then x.fulls + 1 else x.fulls }
  complete 9 0 o.desc false (mirEv p 1 0 o.desc.ctx (n.setWidth 64) m)

/-- An answer to a packet of a SEND. -/
def sendAck (p : Nat) (o : SendOp) (tag reason : Nat) (refused : Bool) (m : Module) : Module :=
  let x := m.mir' p
  let n := stStep o.desc
  if refused then
    let m := m.setMir p { x with lastRefusal := BitVec.ofNat 4 reason }
    if tag = o.beginTag && o.endTag.isNone && reason = 1 && !o.full && !o.resent then
      sendBegin o.desc true true [] (mirEv p 2 2 o.desc.ctx (n.setWidth 64) m)
    else m
  else if o.endTag.isNone then (if tag = o.beginTag then sendBody p o m else m)
  else if o.endTag = some tag then sendDone p o m
  else m.setMir p { x with send := some { o with tags := o.tags.filter (· != tag), lastAck := m.clk.elapsed } }

def execMirrorTimeout (p : Fin 16) (s : State) : Out :=
  match (s.m.mir' p).send with
  | none => stop "MIRROR_TIMEOUT"
  | some o =>
    let m := passTo (o.lastAck + mirTmo (s.m.mir' p)) s.m
    let m := m.setMir p { m.mir' p with send := none }
    done s (complete 9 0 o.desc true (mirEv p 3 4 o.desc.ctx ((stStep o.desc).setWidth 64) m))

/-! ### Inbound transfers (R534, R536, R539, R540) -/

def mKind (k : Pkt) : Nat := fld k.hdr.aux 60 4
def mStep (k : Pkt) : Beat := BitVec.ofNat 48 (fld k.hdr.aux 0 48)

/-- Takes the first accepted MIRROR packet of a kind; its bytes count as received. -/
def takeMir (kind : Nat) (m : Module) : Option (Nat × Pkt × Module) :=
  match takeAccepted (fun k => k.hdr.ty = 0x18 && mKind k = kind) m with
  | none => none
  | some (k, m) =>
    let p := k.hdr.dstPart.toNat
    let x := m.mir' p
    some (p, k, m.setMir p { x with rx := x.rx + BitVec.ofNat 64 k.payload.length })

def nameIs (w : W32) (k : Pkt) : Bool := nameValid w && nameChip w = k.hdr.srcChip.toNat && namePart w = k.hdr.srcPart.toNat

def mAck (k : Pkt) (m : Module) : Module := reply k 6 0 [] m

/-- An inbound packet is refused (R534, R539, R554). -/
def mRefuse (p reason : Nat) (k : Pkt) (m : Module) : Module :=
  let m := m.setMir p { m.mir' p with lastRefusal := BitVec.ofNat 4 reason }
  mirEv p 8 2 0 (BitVec.ofNat 64 (reason * 256)) (refuse k reason m)

/-- The two buffers of the MIRROR region: the base of one, and their size. -/
def bufBase (x : Mir) (second : Bool) : Nat := (regionOf x.region).1 + (if second then (regionOf x.region).2 / 2 else 0)
def bufSize (x : Mir) : Nat := (regionOf x.region).2 / 2
/-- Which buffer is W. -/
def bufW (x : Mir) : Bool :=
  match x.inC with
  | some c => !c.1
  | none => false

/-- A BEGIN (R539). -/
def doBegin (p : Nat) (k : Pkt) (m : Module) : Module :=
  let x := m.mir' p
  let full := bit (BitVec.ofNat 64 (le k.payload 0 8)) 63
  let base : Beat := BitVec.ofNat 48 (le k.payload 0 8)
  let size := le k.payload 8 8
  if !nameIs x.source k then mRefuse p 3 k m
  else if size > bufSize x then mRefuse p 2 k m
  else if !full && !((x.inC.map (·.2)) = some base) then mRefuse p 1 k m
  else
    let m := if full then m else
      match x.lastRanges with
      | some l => l.foldl (fun m r => vstCopy p 2 (bufBase x (!bufW x) + r.1) 2 (bufBase x (bufW x) + r.1) r.2 m) m
      | none => vstCopy p 2 (bufBase x (!bufW x)) 2 (bufBase x (bufW x)) size m
    let i : InXfer := { step := mStep k, full := full, size := size, entries := le k.payload 16 8, ranges := [], bytes := 0,
                        wrote := false, lastAt := m.clk.elapsed }
    mAck k (m.setMir p { m.mir' p with inX := some i })

def execMirBegin (s : State) : Out :=
  match takeMir 0 s.m with
  | none => stop "MIR_BEGIN"
  | some (p, k, m) => done s (doBegin p k m)

/-- The running transfer that a LIST, DATA or END belongs to: from the source, and of its step. -/
def inFor (p : Nat) (k : Pkt) (m : Module) : Option InXfer :=
  let x := m.mir' p
  match x.inX with
  | some i => if nameIs x.source k && i.step = mStep k then some i else none
  | none => none

/-- A packet that belongs to no running transfer: refused when it is not from the source, otherwise not answered. -/
def mStray (p : Nat) (k : Pkt) (m : Module) : Module := if nameIs (m.mir' p).source k then m else mRefuse p 3 k m

def execMirList (s : State) : Out :=
  match takeMir 1 s.m with
  | none => stop "MIR_LIST"
  | some (p, k, m) =>
    match inFor p k m with
    | none => done s (mStray p k m)
    | some i =>
      let i := { i with ranges := (i.ranges ++ parseList (k.payload.length / 16) k.payload).take 4096, lastAt := m.clk.elapsed }
      done s (mAck k (m.setMir p { m.mir' p with inX := some i }))

/-- DATA of the running transfer; `bad` names the sectors of the payload that the source sent as poison (R381; log entry 170). -/
def execMirData (bad : List Nat) (s : State) : Out :=
  match takeMir 2 s.m with
  | none => stop "MIR_DATA"
  | some (p, k, m) =>
    match inFor p k m with
    | none => done s (mStray p k m)
    | some i =>
      let n := k.payload.length
      let off := k.hdr.addr.toNat
      if off + n > i.size then done s m
      else
        let x := m.mir' p
        let m := memWriteBad 2 p 2 false (bufBase x (bufW x) + off) k.payload (badBytes bad n) m
        let i := { i with bytes := i.bytes + n, wrote := true, lastAt := m.clk.elapsed }
        done s (mAck k (m.setMir p { m.mir' p with inX := some i }))

/-- An END whose byte count matches makes W the complete buffer (R539). -/
def doEnd (p : Nat) (k : Pkt) (i : InXfer) (m : Module) : Module :=
  if le k.payload 0 8 = i.bytes then
    let x := m.mir' p
    let m := m.setMir p { x with
      inC := some (bufW x, i.step), inCSize := i.size, inX := none, lastRanges := if i.full then none else some i.ranges }
    mirEv p 4 0 0 (i.step.setWidth 64) (mAck k m)
  else m

def execMirEnd (s : State) : Out :=
  match takeMir 3 s.m with
  | none => stop "MIR_END"
  | some (p, k, m) =>
    match inFor p k m with
    | none => done s (mStray p k m)
    | some i => done s (doEnd p k i m)

/-- An INPUT header is kept among the last eight (R540). -/
def execMirInput (s : State) : Out :=
  match takeMir 4 s.m with
  | none => stop "MIR_INPUT"
  | some (p, k, m) =>
    let x := m.mir' p
    if nameIs x.source k then
      let l := x.inputs ++ [k.payload]
      done s (mAck k (m.setMir p { x with inputs := l.drop (l.length - 8) }))
    else done s (mRefuse p 3 k m)

def execInAborted (p : Fin 16) (s : State) : Out :=
  match (s.m.mir' p).inX with
  | none => stop "IN_ABORTED"
  | some i =>
    let m := passTo (i.lastAt + mirTmo (s.m.mir' p)) s.m
    done s (mirEv p 5 2 0 (i.step.setWidth 64) (m.setMir p { m.mir' p with inX := none }))

def discardW (p : Nat) (m : Module) : Module := m.setMir p { m.mir' p with inX := none }
def execDiscardInboundW (p : Fin 16) (s : State) : Out := done s (discardW p s.m)

/-! ### RESTORE (R541) -/

/-- MIR_CMD RESTORE. -/
def mirRestore (p : Nat) (m : Module) : Module :=
  let v := m.vst' p
  let x := m.mir' p
  if v.enable && v.slots.isEmpty && nameValid x.partner && x.restore.isNone then
    let (tag, m) := toPartner p 5 0 0 [] m
    m.setMir p { m.mir' p with restore := some { bytes := 0, lastAt := m.clk.elapsed, tag := tag, slots := [] } }
  else m

def execRestore (p : Fin 16) (s : State) : Out := done s (mirRestore p s.m)

/-- A restore fails and holds no slot. -/
def restoreFail (p : Nat) (r : Restore) (m : Module) : Module :=
  mirEv p 7 4 0 (BitVec.ofNat 64 r.bytes) (m.setMir p { m.mir' p with restore := none })

def execRestoreFailed (p : Fin 16) (s : State) : Out :=
  match (s.m.mir' p).restore with
  | none => stop "RESTORE_FAILED"
  | some r => done s (restoreFail p r (passTo (r.lastAt + mirTmo (s.m.mir' p)) s.m))

/-- The captures of a slot for a spare: records laid one after another from offset 4,096 (R518). -/
def captureStream (p : Nat) : List Capture → Nat → Module → List (Nat × List Byte × List Bool) × Module
  | [], _, m => ([], m)
  | c :: r, off, m =>
    let n := c.elems * arBytes c.dtype
    let x := captureData p n c m
    let y := captureStream p r (off + captureSize n) x.2.2
    ((off, captureHead c.opId c.half c.dtype c.elems ++ x.1, List.replicate 64 false ++ x.2.1) :: y.1, y.2)

/-- One INPUT header and its captures go to the fetcher (R541). -/
def sendResult (p chip part : Nat) (h : List Byte) (m : Module) : Module :=
  let n : Beat := BitVec.ofNat 48 (le h 0 8)
  let slot := slotOfStep (m.vst' p) n
  let m := (mirSend p chip part 7 n 0 (if slot.isNone then 1 else 0) h m).2
  match slot with
  | none => m
  | some (_, s) =>
    let (rs, m) := captureStream p s.captures 4096 m
    rs.foldl (fun m r => (readPieces r.1 r.2).foldl (fun m x => (mirSendRead p chip part 7 n x.1 x.2 m).2) m) m

/-- A FETCH (R541): C streams as RDATA, then headers and captures of later steps, then RDONE. -/
def doFetch (p : Nat) (k : Pkt) (m : Module) : Module :=
  let x := m.mir' p
  let chip := k.hdr.srcChip.toNat
  let part := k.hdr.srcPart.toNat
  if !nameIs x.source k then mRefuse p 3 k m
  else
    match x.inC with
    | none => mRefuse p 1 k m
    | some c =>
      let m := mAck k m
      let (bs, bad, m) := memRead 2 p 2 false (bufBase x c.1) x.inCSize m
      let m := (readPieces 0 (bs, bad)).foldl (fun m y => (mirSendRead p chip part 6 c.2 y.1 y.2 m).2) m
      let later := x.inputs.filter (fun h => stepBefore c.2 (BitVec.ofNat 48 (le h 0 8)))
      let m := later.foldl (fun m h => sendResult p chip part h m) m
      (mirSend p chip part 8 c.2 0 0 [] m).2

def execFetch (s : State) : Out :=
  match takeMir 5 s.m with
  | none => stop "FETCH"
  | some (p, k, m) => done s (doFetch p k m)

/-- The running restore that a packet of the partner belongs to. -/
def restoreFor (p : Nat) (k : Pkt) (m : Module) : Option Restore :=
  let x := m.mir' p
  if nameIs x.partner k then x.restore else none

def execRdata (bad : List Nat) (s : State) : Out :=
  match takeMir 6 s.m with
  | none => stop "RDATA"
  | some (p, k, m) =>
    match restoreFor p k m with
    | none => done s m
    | some r =>
      let sh := regionOf (m.vst' p).shard
      let n := k.payload.length
      if k.hdr.addr.toNat + n > sh.2 then done s m
      else
        let m := memWriteBad 2 p 2 false (sh.1 + k.hdr.addr.toNat) k.payload (badBytes bad n) m
        done s (mAck k (m.setMir p { m.mir' p with restore := some { r with bytes := r.bytes + n, lastAt := m.clk.elapsed } }))

/-- A batch record from a slot header (R516). -/
def parseBatch (h : List Byte) (b : Nat) : BatchRec :=
  let o := 0x60 + 0x60 * b
  { addr := BitVec.ofNat 64 (le h o 8), len := BitVec.ofNat 64 (le h (o + 8) 8), digestMode := le h (o + 16) 1 = 1,
    handle := slice h (o + 24) 16, digest := slice h (o + 40) 48, off := none }

/-- The slot that a restored header stands for (R541): FAILED, NOREC when the partner holds no slot of the step. -/
def parseSlot (h : List Byte) (norec : Bool) (now : Nat) : VSlot :=
  { st := .failed, step := BitVec.ofNat 48 (le h 0 8), norec := norec, taint := false, verifiedSeen := false, voting := false,
    replayed := false, replayMode := 0, s := BitVec.ofNat 32 (le h 8 4),
    seeds := (List.range 8).map (fun i => BitVec.ofNat 64 (le h (0x10 + 8 * i) 8))
    batches := (List.range (min 4 (le h 0x50 1))).map (parseBatch h)
    captures := [], used := 4096, openedAt := now, verifiedBeat := none, soloNext0 := 0, soloNext1 := 0, result := 0 }

/-- An RRESULT: a header begins a slot, and capture records fill its area (R541). -/
def doResult (p : Nat) (k : Pkt) (bad : List Nat) (r : Restore) (m : Module) : Module :=
  let v := m.vst' p
  let n := k.payload.length
  let off := k.hdr.addr.toNat
  let r := { r with bytes := r.bytes + n, lastAt := m.clk.elapsed }
  let set (r : Restore) (m : Module) : Module := m.setMir p { m.mir' p with restore := some r }
  match findIdx? (fun s => s.step = mStep k) r.slots 0 with
  | none =>
    if r.slots.length < v.depthN && off = 0 then
      let s := parseSlot k.payload (fld k.hdr.aux 48 1 = 1) m.clk.elapsed
      let m := if v.area < 4096 then m else vstWrite p (v.slotBase r.slots.length) (slotHeader s) m
      set { r with slots := r.slots ++ [s] } m
    else set r m
  | some i =>
    if off < 4096 then set r m
    else if off + n > v.area then
      set { r with slots := r.slots.modify i (fun s => { s with norec := true }) } m
    else
      let m := memWriteBad 2 p 2 false (v.slotBase i + off) k.payload (badBytes bad n) m
      set { r with slots := r.slots.modify i (fun s => { s with used := max s.used (ceilDiv (off + n) 4096 * 4096) }) } m

def execRresult (bad : List Nat) (s : State) : Out :=
  match takeMir 7 s.m with
  | none => stop "RRESULT"
  | some (p, k, m) =>
    match restoreFor p k m with
    | none => done s m
    | some r => done s (mAck k (doResult p k bad r m))

/-- The capture records of a slot area from an offset to its used end (R518). -/
def parseCaptures (p base used : Nat) : Nat → Nat → Module → List Capture × Module
  | 0, _, m => ([], m)
  | n + 1, off, m =>
    if off + 64 > used then ([], m)
    else
      let (h, _, m) := memRead 2 p 2 false (base + off) 64 m
      let c : Capture := { opId := BitVec.ofNat 32 (le h 0 8), half := le h 8 8, dtype := le h 16 8, elems := le h 24 8, off := base + off }
      let y := parseCaptures p base used n (off + captureSize (c.elems * arBytes c.dtype)) m
      (c :: y.1, y.2)

/-- RDONE: the slots are built in FAILED, and VST_COMMITTED and MIR_OUT_ACK take C's version (R541). -/
def doRdone (p : Nat) (k : Pkt) (r : Restore) (m : Module) : Module :=
  let ver := mStep k
  let m := (List.zip (List.range r.slots.length) r.slots).foldl (fun m x =>
    let base := (m.vst' p).slotBase x.1
    let (cs, m) := parseCaptures p base x.2.used (x.2.used / 4096) 4096 m
    let v := m.vst' p
    m.setVst p { v with slots := nput v.slots x.1 { x.2 with captures := cs } }) m
  let m := m.setVst p { m.vst' p with committed := ver }
  let m := m.setMir p { m.mir' p with restore := none, outAck := some ver }
  mirEv p 6 1 0 (ver.setWidth 64) (mAck k m)

def execRdone (s : State) : Out :=
  match takeMir 8 s.m with
  | none => stop "RDONE"
  | some (p, k, m) =>
    match restoreFor p k m with
    | none => done s m
    | some r => done s (doRdone p k r m)

/-! ### Packets that return to a requester (R442, R444) -/

/-- Gives an answer to the Flight engine whose burst holds a tag. -/
def toFlights (tag : Nat) (ans : BurstAnswer) : List Nat → Module → Option Module
  | [], _ => none
  | f :: r, m =>
    match fltRespond f tag ans m with
    | some m => some m
    | none => toFlights tag ans r m

/-- Gives an acknowledgement to the SEND, restore or drain that waits for a tag. -/
def toMirror (tag reason : Nat) (refused : Bool) : List Nat → Module → Option Module
  | [], _ => none
  | p :: r, m =>
    let x := m.mir' p
    let isSend := match x.send with
      | some o => o.beginTag = tag || o.endTag = some tag || o.tags.contains tag
      | none => false
    if isSend then
      match x.send with
      | some o => some (sendAck p o tag reason refused m)
      | none => none
    else
      match x.restore with
      | some q =>
        if q.tag = tag then (if refused then some (restoreFail p q (m.setMir p { x with lastRefusal := BitVec.ofNat 4 reason })) else some m)
        else toMirror tag reason refused r m
      | none =>
        if (m.vst' p).drainTags.any (fun y => y.1 = tag) then some (if refused then m else drainAck p tag m)
        else toMirror tag reason refused r m

/-- Whether the AUX and LEN of a reply are in order (R444): the bits that it does not define are zero, the reason's too when nothing is
refused, and an ACK and a refusal have no payload. A reply with any of them set is discarded as a whole (R23; log entry 168). -/
def replyOk (k : Pkt) : Bool :=
  let a := k.hdr.aux
  fld a 16 16 = 0 && fld a 1 7 = 0 && (bit a 0 || fld a 8 8 = 0) && (k.payload.isEmpty || (k.hdr.ty = 4 && !bit a 0))

/-- A reply for a Flight engine crosses from the wing of the port it came in at (R33). -/
def replyCross (k : Pkt) (m : Module) : Module :=
  match tagEngine m k.hdr.tag.toNat with
  | some f => corridor k.via (f / 16) (256 * flitCount k.hdr.len.toNat) m
  | none => m

/-- An ACK returns to its requester; one that nothing waits for is discarded. -/
def doAck (k : Pkt) (m : Module) : Module :=
  let refused := bit k.hdr.aux 0
  let reason := fld k.hdr.aux 8 8
  let tag := k.hdr.tag.toNat
  match toFlights tag (if refused then .refused else .ack) (List.range 32) m with
  | some m => m
  | none =>
    match toMirror tag reason refused (List.range 16) m with
    | some m => m
    | none => m

def execAck (s : State) : Out :=
  match takeTy 6 s.m with
  | none => stop "ACK"
  | some (k, m) => done s (if replyOk k then doAck k (replyCross k m) else m)

/-- A READ_RESP returns the data of a burst, or its refusal. -/
def doReadResp (k : Pkt) (m : Module) : Module :=
  match toFlights k.hdr.tag.toNat (if bit k.hdr.aux 0 then .refused else .data k.payload) (List.range 32) m with
  | some m => m
  | none => m

def execReadResp (s : State) : Out :=
  match takeTy 4 s.m with
  | none => stop "READ_RESP"
  | some (k, m) => done s (if replyOk k then doReadResp k (replyCross k m) else m)

end Sys2Proof.Machine
end

