-- ==== Sys2Proof/Machine/Hlt.lean ====
section
/-! DEFINITION. The Balusters, the pattern packs, the lifetime health log and the Corridor (chapter 15). -/

namespace Sys2Proof.Machine

/-! ### CHK_SYNC (R595) -/

/-- The push checks of a Baluster descriptor (R134, R595). -/
def chkPushOk (d : Desc) : Bool := d.ty = 0x98 && d.len = 32 && d.flags = 0 && zeros d.bytes 24 8

/-- Whether OUT_ADDR lies in the partition's Hall and is a multiple of 8 (R595). -/
def syncAddrOk (m : Module) (d : Desc) : Bool := (d.a 16).toNat % 8 = 0 && hallAt m d.part (d.a 16) 0 8

def chkHead (m : Module) (w : Nat) : Option (QKey × Desc) :=
  if canStart m 11 w then headShared m 11 w (m.chk' w).rr else none

def execChkSync (w : Fin 2) (s : State) : Out :=
  match chkHead s.m w.val with
  | none => stop "CHK_SYNC"
  | some (k, d) =>
    let m := descStart 11 w.val d (dequeue k s.m)
    let m := m.setChk w.val { m.chk' w.val with rr := k.sub }
    if syncAddrOk m d then
      let m := passToCycle (m.clk.cycle + 1) m
      let m := hallWrite w.val d.part (gaOff (d.a 16)) (natLe 8 (nget 0 (m.chk' w.val).pmis d.part).toNat) m
      done s (complete 11 w.val d false m)
    else done s (bodyRefused 11 w.val 0x10 d m)

/-- CHK_CNT_CLR (R620). -/
def chkClear (x : Chk) : Chk := { x with cmp := 0 }
def execChkCntClr (w : Fin 2) (s : State) : Out := done s (s.m.setChk w.val (chkClear (s.m.chk' w.val)))

/-! ### Pattern packs (R597 to R600) -/

def hltEv (code unit sev : Nat) (d : W64) (m : Module) : Module := ev 0x19 code unit sev 31 0 d m

/-- Whether test record `i` of a pack keeps R598. -/
def testRecOk (b : List Byte) (i : Nat) : Bool :=
  let o := 64 + 64 * i
  decide (le b o 1 ≤ 6) && decide (le b (o + 4) 2 ≥ 1) && decide (le b (o + 0x0C) 4 + le b (o + 0x10) 4 ≤ b.length - 96)
    && decide (le b (o + 0x18) 4 ≥ 1) && decide (le b (o + 0x14) 4 + le b (o + 0x18) 4 ≤ 0x400000)
    && zeros b (o + 3) 1 && zeros b (o + 6) 2 && zeros b (o + 0x1C) 4

/-- Whether a pack's header and records are well formed (R597, R598, R600 code 0x01). -/
def packFormOk (b : List Byte) : Bool :=
  let n := le b 8 2
  decide (b.length ≥ 160) && decide (le b 0 4 = 0x4B504C48) && decide (le b 4 1 = 1) && decide (le b 5 1 ≤ 7)
    && decide (le b 6 1 < 4) && zeros b 7 1 && decide (1 ≤ n) && decide (n ≤ 256) && zeros b 0x0A 6 && decide (le b 0x10 8 ≠ 0)
    && decide (le b 0x18 4 ≠ 0) && decide (le b 0x1C 4 = b.length) && decide (b.length % 16 = 0) && zeros b 0x20 32
    && decide (64 + 64 * n + 96 ≤ b.length) && (List.range n).all (testRecOk b)

/-- Whether the pack's signature verifies under an enrolled key of pack use (R600, R673). -/
def packSigned (m : Module) (b : List Byte) : Bool :=
  let k := nget KeySlot.init m.sec.keySlots (le b 5 1)
  let n := b.length - 96
  k.st = 1 && bit k.use 1 && ecdsaOk k.key (sha384 (b.take n)) (b.drop n)

/-- Whether a running pattern test uses a pack slot. -/
def packInUse (m : Module) (slot : Nat) : Bool :=
  [0, 1].any (fun w => match (m.chk' w).run with
    | some r => decide (r.slot = slot)
    | none => false)

/-- Why a LOAD is refused (R600), the lowest code first. -/
def packRefusal (m : Module) (slot : Nat) (b : List Byte) : Option Nat :=
  if !packFormOk b then some 1
  else if !packSigned m b then some 2
  else if !bit (BitVec.ofNat 8 (le b 6 1)) (m.fused.grade.toNat - 1) then some 3
  else if m.hlt.packs.any (fun x => x.2.id.toNat = le b 0x10 8 && decide (x.2.ver.toNat ≥ le b 0x18 4)) then some 4
  else if packInUse m slot then some 5
  else none

def packRefuse (code : Nat) (m : Module) : Module :=
  hltEv 5 0xFFFF 2 (BitVec.ofNat 64 code) { m with hlt := { m.hlt with packCode := BitVec.ofNat 8 code } }

/-- HLT_PACK_LEN limited to 8 MiB (R623). -/
def packBytes (h : Hlt) : Nat := min h.packLen.toNat 8388608

/-- A pack fetched is checked and begins to be written to flash (R600). -/
def packTake (slot : Nat) (b : List Byte) (m : Module) : Module :=
  match packRefusal m slot b with
  | some c => packRefuse c m
  | none =>
    let p : Pack := { id := BitVec.ofNat 64 (le b 0x10 8), ver := BitVec.ofNat 32 (le b 0x18 4), tests := le b 8 2, bytes := b }
    { m with hlt := { m.hlt with packBusy := some (slot, p) } }

/-- A write of HLT_PACK_CMD: LOAD fetches the pack (R600). -/
def packLoad (val : W64) (r : FetchResult) (m : Module) : Module :=
  if !bit val 4 || m.hlt.packBusy.isSome then m
  else
    match r with
    | .error => packRefuse 6 m
    | .data bs => packTake (fld val 0 2) (slice bs 0 (packBytes m.hlt)) m

/-- Whether a fetch brought the bytes asked for, or failed. -/
def fetchWhole (n : Nat) (r : FetchResult) : Bool :=
  match r with
  | .error => true
  | .data b => decide (n ≤ b.length)

def execPackLoad (val : W64) (r : FetchResult) (s : State) : Out :=
  if fetchWhole (packBytes s.m.hlt) r then done s (packLoad val r s.m) else stop "PACK_LOAD"

/-- The flash write ends: the slot holds the pack, and a pack of the same PACK_ID elsewhere is erased (R600). -/
def execPackLoaded (s : State) : Out :=
  match s.m.hlt.packBusy with
  | none => stop "PACK_LOADED"
  | some (slot, p) =>
    let h := s.m.hlt
    let m := { s.m with hlt := { h with
      packs := nput (h.packs.filter (fun x => x.2.id != p.id)) slot p, packBusy := none } }
    done s (hltEv 4 0xFFFF 1 (BitVec.ofNat 64 slot) m)

/-! ### Pattern tests (R601 to R604) -/

/-- The event class of a service-unit class (R60, R76). -/
def svcEv (cls : Nat) : Nat :=
  match cls with
  | 0 => 0x05 | 1 => 0x07 | 2 => 0x08 | 3 => 0x09 | 4 => 0x0E | 5 => 0x04 | 6 => 0x0B | 7 => 0x0C | _ => 0x0D

/-- Why a START is refused (R601, R622). -/
def ptRefusal (m : Module) (w : Nat) (c : Chk) : Option Nat :=
  let u := c.ptUnit.toNat
  let cls := c.ptCls.toNat
  let pk := nfind m.hlt.packs c.ptSlot.toNat
  let sel := (List.range 256).filter (fun i => c.ptFirst.toNat ≤ i && i ≤ c.ptLast.toNat)
  if cls ≤ 8 && !unitOos m cls u && decide (u < clsCount cls) then some 1
  else if cls ≤ 6 && decide (wingOf cls u ≠ w) then some 2
  else match pk with
    | none => some 4
    | some p =>
      if cls > 6 || sel.any (fun i => decide (i < p.tests) && le p.bytes (64 + 64 * i) 1 != cls) then some 3
      else if c.ptLast.toNat ≥ p.tests then some 5
      else none

/-- The body that the first test loads into the test buffer (R599). -/
def testBody (p : Pack) (i : Nat) : List Byte :=
  let o := 64 + 64 * i
  slice p.bytes (le p.bytes (o + 0x0C) 4) (min (le p.bytes (o + 0x10) 4) 0x400000)

/-- The test buffer with bytes laid at an offset. -/
def bufferPut : Nat → List Byte → NMap Byte → NMap Byte
  | _, [], b => b
  | o, x :: r, b => bufferPut (o + 1) r (nset 0 b o x)

/-- START (R601, R622): every field of CHK_PT_STATUS clears, and the run begins or is refused. -/
def ptStart (w : Nat) (m : Module) : Module :=
  let c := m.chk' w
  if c.run.isSome then m
  else
    let c := { c with failTest := 0, temp := 0, reason := 0, notSoaked := false, ptSt := 0 }
    match ptRefusal m w c with
    | some r => m.setChk w { c with reason := BitVec.ofNat 3 r, ptSt := 6 }
    | none =>
      match nfind m.hlt.packs c.ptSlot.toNat with
      | none => m
      | some p =>
        let i := c.ptFirst.toNat
        let soak := decide (le p.bytes (64 + 64 * i + 1) 1 ≠ 0)
        let r : PtRun :=
          { unit := c.ptUnit.toNat, cls := c.ptCls.toNat, slot := c.ptSlot.toNat, first := i, last := c.ptLast.toNat, soaking := soak,
            startBeat := beatNow m, stopping := false }
        m.setChk w { c with run := some r, ptSt := if soak then 1 else 2, buffer := bufferPut 0 (testBody p i) [] }

def execPtStart (w : Fin 2) (s : State) : Out := done s (ptStart w.val s.m)

/-- DETAIL of the records of a pattern test (R619). -/
def ptDetail (r : PtRun) (hi lo : Nat) : W64 := pack [(r.unit, 32), (hi, 8), (lo, 0)]

/-- STOP (R604): the test ends after the current run. -/
def ptStop (w : Nat) (m : Module) : Module :=
  let c := m.chk' w
  match c.run with
  | some r => m.setChk w { c with run := some { r with stopping := true } }
  | none => m

def execPtStop (w : Fin 2) (s : State) : Out := done s (ptStop w.val s.m)

/-- A march on a Hall bank leaves of its contents nothing that the spec states (R599). -/
def ptSpoil (r : PtRun) (m : Module) : Module := if r.cls = 6 then loseUnit 0 r.unit m else m

/-- A running pattern test ends ABORTED (R596, R604). -/
def ptAbort (w : Nat) (m : Module) : Module :=
  let c := m.chk' w
  match c.run with
  | some r => ev 0x15 5 w 1 31 0 (ptDetail r 0 0) (ptSpoil r (m.setChk w { c with run := none, ptSt := 5 }))
  | none => m

/-- The soak of a test ends: its target was reached, or SOAK_MAX has passed (R602). -/
def execSoakEnd (w : Fin 2) (temp : BitVec 8) (reached : Bool) (s : State) : Out :=
  let c := s.m.chk' w.val
  match c.run with
  | none => stop "SOAK_END"
  | some r =>
    done s (s.m.setChk w.val { c with
      run := some { r with soaking := false }, ptSt := 2, temp := temp, notSoaked := c.notSoaked || !reached })

/-- Scores an event in the band of a temperature (R602, R605). -/
def scoreAt (t : Byte) (k cls unit : Nat) (m : Module) : Module :=
  let old := m.pwr.temp
  let m := score k cls unit { m with pwr := { m.pwr with temp := t } }
  { m with pwr := { m.pwr with temp := old } }

/-- A unit's LAST_PASS (R603). -/
def setPass (cls unit : Nat) (b : Beat) (m : Module) : Module :=
  let k := healthKey cls unit
  { m with hlt := { m.hlt with units := nset UnitHealth.init m.hlt.units k { m.hlt.unit k with pass := some b } } }

/-- The end of a pattern test (R602 to R604, R609). -/
def ptEnd (w : Nat) (r : PtRun) (o : PtOutcome) (m : Module) : Module :=
  let c := m.chk' w
  let c := { c with run := none, temp := o.temp, notSoaked := c.notSoaked || o.notSoaked }
  let cls := svcEv r.cls
  match o.failed with
  | some i =>
    let m := m.setChk w { c with ptSt := 4, failTest := BitVec.ofNat 8 i }
    let m := ev 0x15 4 w 2 31 0 (ptDetail r i o.temp.toNat) m
    suspectInterval cls r.unit (scoreAt o.temp 1 cls r.unit m)
  | none =>
    if r.stopping then ev 0x15 5 w 1 31 0 (ptDetail r 0 0) (m.setChk w { c with ptSt := 5 })
    else
      let m := setPass cls r.unit r.startBeat (m.setChk w { c with ptSt := 3 })
      ev 0x15 3 w 0 31 0 (ptDetail r 0 (r.last + 1 - r.first)) m

def execPatternTestEnd (w : Fin 2) (o : PtOutcome) (s : State) : Out :=
  match (s.m.chk' w.val).run with
  | none => stop "PATTERN_TEST_END"
  | some r =>
    let inSel := match o.failed with
      | some i => decide (r.first ≤ i) && decide (i ≤ r.last)
      | none => true
    if inSel then done s (ptEnd w.val r o (ptSpoil r s.m)) else stop "PATTERN_TEST_END"

/-! ### Windows (R607, R608) -/

/-- HLT_WIN as it acts (R623). -/
def hltWin (h : Hlt) : Nat := max 16 h.win.toNat

/-- The oldest sub-window drops out; at each sixteenth, a new window may record again (R607, R608). -/
def nextSub (h : Hlt) : Hlt :=
  let s := h.sub + 1
  let old := (s - 16) * 32
  { h with
    sub := s
    units := h.units.filterMap (fun x =>
      let u := { x.2 with
        cells := if s ≥ 16 then x.2.cells.filter (fun c => decide (c.1 ≥ old + 32)) else x.2.cells
        warned := x.2.warned && s % 16 != 0, lastingSeen := x.2.lastingSeen && s % 16 != 0 }
      if u = UnitHealth.init then none else some (x.1, u)) }

def execSubWindowEnd (s : State) : Out :=
  let due := s.m.hlt.subAt + hltWin s.m.hlt / 16 * 1024
  let m := passTo due s.m
  done s { m with hlt := { nextSub m.hlt with subAt := m.clk.elapsed } }

/-! ### The lifetime health log (R611 to R615) -/

def ringSize : Nat := 1048576

/-- Writes one buffered record to the flash ring, over the oldest when it is full (R611). -/
def ringStore (h : Hlt) (r : List Byte) : Hlt :=
  { h with
    ring := nput h.ring h.ringNext r
    ringOver := h.ringOver + b2n (nfind h.ring h.ringNext).isSome
    ringNext := (h.ringNext + 1) % ringSize }

/-- Writes the buffered records to flash (R612, R614). -/
def flushRing (m : Module) : Module :=
  { m with hlt := { m.hlt.sram.foldl ringStore m.hlt with sram := [], flushAt := m.clk.elapsed } }

def execEventRingFlush (s : State) : Out := done s (flushRing (passTo (s.m.hlt.flushAt + 1024 * 1024) s.m))

/-- The summary (R611; its layout: log entry 21). -/
def summaryBytes (m : Module) : List Byte :=
  let h := m.hlt
  natLe 8 h.seconds ++ natLe 4 h.powerOns.toNat ++ natLe 4 h.thermal.toNat
  ++ h.units.flatMap (fun x =>
      natLe 4 x.1 ++ natLe 4 x.2.lifeC ++ natLe 2 x.2.lifeH ++ natLe 2 x.2.lifeG ++ natLe 8 (match x.2.pass with
        | some b => 2 ^ 63 + b.toNat
        | none => 0))

def rewriteSummary (m : Module) : Module :=
  { m with hlt := { m.hlt with summary := (summaryBytes m).take 65536, summaryAt := m.clk.elapsed } }

def execSummaryRewrite (s : State) : Out :=
  done s (rewriteSummary (passTo (s.m.hlt.summaryAt + 3600 * 1000000000) s.m))

/-- The last-breath or reset record (R614; its layout: log entry 21); `cause` 1 HOLDUP_OK, 2 input loss, 3 power-cycle request. -/
def breathBytes (cause : Nat) (m : Module) : List Byte :=
  let x := m.pwr
  natLe 8 (beatNow m).toNat ++ natLe 8 cause
  ++ [x.temp, m.tray.hottestHbm, m.tray.hottestLpx, 0] ++ natLe 4 x.inputMw.toNat
  ++ (List.range 16).flatMap (fun i => match m.hlt.last16[i]? with
      | some e => e.bytes
      | none => List.replicate 32 0)
  ++ (List.range 16).flatMap (fun p => natLe 8 (m.vst' p).committed.toNat)
  ++ natLe 2 x.op ++ natLe 2 x.cap ++ natLe 4 (levelNow x)
  ++ (List.range 6).map (fun i => BitVec.ofNat 8 (x.reason (i + 1)).level) ++ [0, 0]

/-- Writes a record into the last-breath slot not written last, and the buffered ring records (R614). -/
def writeBreath (cause : Nat) (whole : Bool) (m : Module) : Module :=
  let m := flushRing m
  let h := m.hlt
  { m with hlt := { h with
    breathSlots := nput h.breathSlots h.breathNext (breathBytes cause m), breathNext := 1 - h.breathNext, breathWhole := whole } }

/-- A falling edge of HOLDUP_OK starts the last-breath write (R614, R685). -/
def execHoldupOkFall (s : State) : Out := done s (writeBreath 1 true { s.m with tray := { s.m.tray with holdupOk := false } })

/-- A hold-up voltage now, in units of 10 mV: the store charges at 0.25 A up to 50 V (R646, R683). -/
def holdVolts (m : Module) (base : Nat) : Nat := min 5000 (base + (m.clk.elapsed - m.pwr.measuredAt) * 125 / 10000000)
def measuredNow (m : Module) : Nat := holdVolts m m.pwr.measured.toNat
def derivedNow (m : Module) : Nat := holdVolts m m.pwr.derived.toNat

/-- Whether the hold-up store carries the last-breath write through: it does when ready (R647); below that the spec does not
say, and the outcome is a free value (log entry 22). -/
def breathSurvives (m : Module) : Bool × Module :=
  if measuredNow m ≥ 3000 then (true, m)
  else
    let x := freeVal m
    (bit x.1 0, x.2)

/-- The 54 V input falls below 44 V (R614, R638, R646, R683): the wing rails stop, the last breath is written from the hold-up
store, and the two request pins are let go. -/
def inputLoss (tenMv : BitVec 16) (m : Module) : Module :=
  let m := ev 0x1A 0x0B 0xFFFF 6 31 0 (tenMv.setWidth 64) m
  let x := breathSurvives m
  let m := writeBreath 2 x.1 x.2
  { m with
    tray := { m.tray with p54v := false, pwrcycReqN := true, thermTripN := true }
    pci := { m.pci with wingOut := [] } }

def execInputLoss (tenMv : BitVec 16) (s : State) : Out := done s (inputLoss tenMv s.m)

/-- HLT_RETIRE (R615): the unit joins the retired list, which holds up to 8,192 entries (R611). -/
def hltRetire (val : W64) (m : Module) : Module :=
  let u := (fld val 16 8, fld val 0 16, beatNow m)
  let h := m.hlt
  if h.retired.length < 8192 && !(h.retired.any (fun x => x.1 = u.1 && x.2.1 = u.2.1)) then
    { m with hlt := { h with retired := h.retired ++ [u] } }
  else m

def execHltRetire (val : W64) (s : State) : Out := done s (hltRetire val s.m)

/-- A thermal cycle counts (R613). -/
def execThermalCycle (s : State) : Out := done s { s.m with hlt := { s.m.hlt with thermal := satAdd s.m.hlt.thermal 1 } }

/-! ### The Corridor (R616, R617) -/

/-- A retried flit of module `k` at wing `w` (R616): counted, and recorded at most once per module in a window. -/
def execCrcRetry (w : Fin 2) (k : Fin 8) (s : State) : Out :=
  let c := s.m.cor' w.val
  let m := s.m.setCor w.val { c with retry := c.retry + 1 }
  let win := window m
  if c.seen.contains (k.val, win) then done s m
  else
    let m := m.setCor w.val { m.cor' w.val with seen := (k.val, win) :: c.seen.filter (fun x => x.1 != k.val) }
    done s (score 0 0x0F k.val (ev 0x0F 1 w.val 3 31 0 (BitVec.ofNat 64 k.val) m))

/-- A module is removed (R617): both ends lose it; it trains again at the next wing reset. -/
def execModuleDown (w : Fin 2) (k : Fin 8) (s : State) : Out :=
  if bit (s.m.cor' w.val).status k.val then
    let off (m : Module) (v : Nat) : Module :=
      m.setCor v { m.cor' v with status := (m.cor' v).status &&& ~~~(BitVec.ofNat 8 (2 ^ k.val)) }
    done s (score 1 0x0F k.val (ev 0x0F 2 w.val 4 31 0 (BitVec.ofNat 64 k.val) (off (off s.m 0) 1)))
  else stop "MODULE_DOWN"

end Sys2Proof.Machine
end

