-- ==== Sys2Proof/Machine/Fun.lean ====
section
/-! DEFINITION. The transcendental lane operations of a Landing (R311, R312): the value that each approximates, to far more places than
FP32 holds, and the results that its bound in units in the last place allows. -/

namespace Sys2Proof.Machine

/-! ### Fixed point with 600 fraction bits -/

def fxOne : Int := 2 ^ 600
def fxMul (a b : Int) : Int := a * b / fxOne
def fxDiv (a b : Int) : Int := a * fxOne / b

/-- A value whose exponent is at least −600. -/
def fxOf (v : Val) : Int :=
  match v with
  | .fin s m e => (if s then -1 else 1) * ((m <<< (e + 600).toNat : Nat) : Int)
  | _ => 0

/-- The value of a fixed-point number times 2^k. -/
def fxVal (x : Int) (k : Int) : Val := .fin (decide (x < 0)) x.natAbs (k - 600)

/-- ln 2, the sum of 1 / (k × 2^k). -/
def fxLn2 : Int := (List.range 620).foldl (fun (a : Int) (k : Nat) => a + fxOne / (((k : Int) + 1) * 2 ^ (k + 1))) 0

/-- The arc tangent of 1 / q. -/
def fxAtan (q : Int) : Int :=
  ((List.range 300).foldl (fun (a : Int × Int) i =>
    (a.1 + (if i % 2 = 0 then 1 else -1) * (a.2 / (2 * (i : Int) + 1)), a.2 / (q * q))) (0, fxOne / q)).1

/-- π by Machin's formula. -/
def fxPi : Int := 4 * (4 * fxAtan 5 - fxAtan 239)

/-- The square root of a positive fixed-point number. -/
def fxSqrt (x : Int) : Int := isqrt (x.toNat * 2 ^ 600)

/-- e^r for r from 0 to 1, by its power series. -/
def fxExp (r : Int) : Int :=
  ((List.range 160).foldl (fun (a : Int × Int) i => (a.1 + a.2, fxMul a.2 r / ((i : Int) + 1))) (0, fxOne)).1

/-- e^x, or 2^x: the integer power of two taken out, and the rest by the series. An operand of magnitude 2^10 or more lies far beyond
either end of FP32's range. -/
def expVal (base2 : Bool) (v : Val) : Val :=
  match vcmp (vabs v) (.fin false 1 10) with
  | some .lt =>
    let x := fxOf v
    if base2 then fxVal (fxExp (fxMul (x % fxOne) fxLn2)) (x / fxOne)
    else fxVal (fxExp (x % fxLn2)) (x / fxLn2)
  | _ => match v with
    | .fin s _ _ => .fin false 1 (if s then -2000 else 2000)
    | _ => .nan

/-- ln x, or log2 x, of a value above zero: its exponent, and the series of the area tangent for its significand. -/
def logVal (base2 : Bool) (v : Val) : Val :=
  match v with
  | .fin _ m e =>
    let l := Nat.log2 m
    let g : Int := fxOne * m / 2 ^ l
    let z := fxDiv (g - fxOne) (g + fxOne)
    let z2 := fxMul z z
    let s := ((List.range 220).foldl (fun (a : Int × Int) i => (a.1 + a.2 / (2 * (i : Int) + 1), fxMul a.2 z2)) (0, z)).1
    fxVal (if base2 then fxDiv (2 * s) fxLn2 + (e + l) * fxOne else 2 * s + (e + l) * fxLn2) 0
  | v => v

/-- A value just below another in magnitude. -/
def justBelow (v : Val) : Val :=
  match v with
  | .fin s m e => .fin s (m * 2 ^ 64 - 1) (e - 64)
  | v => v

def signed (s : Bool) (v : Val) : Val := if s then vneg v else v
def isNegV (v : Val) : Bool :=
  match v with
  | .fin s _ _ => s
  | .inf s => s
  | .nan => false

def tanhVal (v : Val) : Val :=
  if isZeroV v || vcmp (vabs v) (.fin false 1 (-30)) = some .lt then justBelow v
  else if vcmp (vabs v) (.fin false 1 6) != some .lt then signed (isNegV v) (justBelow (.fin false 1 0))
  else
    let x := expVal false (vscale (vabs v) 1)
    signed (isNegV v) (vdiv (vadd x (.fin true 1 0)) (vadd x (.fin false 1 0)))

def sigmoidVal (v : Val) : Val := let x := expVal false v; vdiv x (vadd x (.fin false 1 0))

/-- The series of erf, without its factor: Σ (−1)^n x^(2n + 1) / (n! (2n + 1)) with `x2` = x² below 128. -/
def fxErfSum (x x2 : Int) : Int :=
  ((List.range 720).foldl (fun (a : Int × Int) n => (a.1 + a.2 / (2 * (n : Int) + 1), -(fxMul a.2 x2) / ((n : Int) + 1))) (0, x)).1

def erfVal (v : Val) : Val :=
  let k := fxSqrt (fxDiv (4 * fxOne) fxPi)
  if vcmp (vabs v) (.fin false 1 (-60)) = some .lt then vmul v (fxVal k 0)
  else if vcmp (vabs v) (.fin false 8 0) != some .lt then signed (isNegV v) (justBelow (.fin false 1 0))
  else let x := fxOf v; fxVal (fxMul k (fxErfSum x (fxMul x x))) 0

/-- 1 + erf (a / √2), by the same series with a factor √(2 / π) before it. -/
def onePlusErf (v : Val) : Val :=
  if vcmp (vabs v) (.fin false 15 0) != some .lt then (if isNegV v then .fin false 1 (-400) else justBelow (.fin false 2 0))
  else
    let x := fxOf v
    fxVal (fxOne + fxMul (fxSqrt (fxDiv (2 * fxOne) fxPi)) (fxErfSum x (fxMul x x / 2))) 0

/-! ### The operations -/

/-- The FP32 results within `n` units in the last place of a value: which one it is, the free function of the operation and the operand
says (log entry 59). A value whose rounding overflows is an infinity. -/
def withinUlp (n opc : Nat) (a : W32) (v : Val) : Val :=
  match v with
  | .fin s m e =>
    let mag : Val := .fin false m e
    let r := (toF32 mag).toNat
    if r ≥ 0x7F800000 then .inf s
    else
      let c := vcmp (f32 (BitVec.ofNat 32 r)) mag
      let lo := if c = some .gt then r - 1 else r
      let first := if c = some .eq then lo - n else lo + 1 - n
      let last := min 0x7F800000 (lo + n)
      signed s (f32 (BitVec.ofNat 32 (first + (Config.lane opc a).toNat % (last + 1 - first))))
  | v => v

/-- The bound of a transcendental operation, in units in the last place (R311). -/
def ulpBound (opc : Nat) : Nat :=
  if opc ∈ [0x14, 0x16] then 1 else if opc ∈ [0x1B, 0x1C] then 3 else 2

/-- What an operation approximates at a finite operand (R311). -/
def funVal (opc : Nat) (a : Val) : Val :=
  match opc with
  | 0x14 => expVal true a
  | 0x15 => expVal false a
  | 0x16 => logVal true a
  | 0x17 => logVal false a
  | 0x18 => tanhVal a
  | 0x19 => sigmoidVal a
  | 0x1A => erfVal a
  | 0x1B => vmul a (sigmoidVal a)
  | _ => vscale (vmul a (onePlusErf a)) (-1)

/-- The limit of an operation at an infinite operand (DEDUCED, log entry 59); of SILU and GELU at −infinity, a product of infinity and
zero, none. -/
def funInf (opc : Nat) (neg : Bool) : Option Val :=
  match opc with
  | 0x18 => some (.fin neg 1 0)
  | 0x1A => some (.fin neg 1 0)
  | 0x19 => some (if neg then .fin false 0 0 else .fin false 1 0)
  | 0x14 => some (if neg then .fin false 0 0 else .inf false)
  | 0x15 => some (if neg then .fin false 0 0 else .inf false)
  | _ => if neg then none else some (.inf false)

/-- Whether an operand lies below zero (R312). -/
def belowZero (v : Val) : Bool :=
  match v with
  | .inf s => s
  | .fin s m _ => s && m != 0
  | .nan => false

/-- The transcendental operations: NaN, the results that R312 names, and otherwise a result within the bound of R311. -/
def laneFn (opc : Nat) (a : Val) : Val :=
  let isLog := opc = 0x16 || opc = 0x17
  match a with
  | .nan => .nan
  | .inf s =>
    if isLog && s then .nan
    else match funInf opc s with
      | some v => v
      | none => f32 (Config.lane opc (toF32 a))
  | .fin _ _ _ =>
    if isLog && isZeroV a then .inf true
    else if isLog && belowZero a then .nan
    else withinUlp (ulpBound opc) opc (toF32 a) (funVal opc a)

end Sys2Proof.Machine
end

