-- ==== Sys2Proof/Machine/Ris.lean ====
section
/-! DEFINITION. Risers (chapter 7): CONVERT with its MX scales, stream counters and completion. -/

namespace Sys2Proof.Machine

/-! ### Fields and checks (R264 to R281) -/

def cvRowLen (d : Desc) : Nat := nfld (d.f 80 4) 0 21
def cvRows (d : Desc) : Nat := nfld (d.f 84 4) 0 24
def cvSrc (d : Desc) : Byte := d.b 96
def cvDst (d : Desc) : Byte := d.b 97
def cvRnd (d : Desc) : Nat := fld d.flags 0 2
def cvAdj (d : Desc) : Int := sext (d.f 99 1) 8
def cvStream (d : Desc) : Nat := nfld (d.f 101 1) 0 4

/-- A specifier whose code is not reserved; MX is looked at at the head (R281). -/
def spCodeOk (b : Byte) : Bool := (fmtOf (spCode b)).isSome && !(spCode b = 0x30 && spSat b)

def risPushOk (d : Desc) : Bool :=
  d.ty = 0x40 && d.len = 112 && nfld d.flags.toNat 7 5 = 0 && nfld (d.f 80 4) 21 11 = 0 && nfld (d.f 84 4) 24 8 = 0
  && nfld (d.f 100 1) 3 5 = 0 && nfld (d.f 101 1) 4 4 = 0 && zeros d.bytes 102 10 && spCodeOk (cvSrc d) && spCodeOk (cvDst d)

/-- The pairs of R265: whether the pair narrows, and on which sides MX is allowed. -/
def cvPair (s d : Nat) : Option (Bool × Bool × Bool) :=
  let wide (c : Nat) : Bool := c = 0 || c = 1 || c = 2
  let mxAble (c : Nat) : Bool := (0x10 ≤ c && c ≤ 0x14) || c = 0x20
  let plain (c : Nat) : Bool := c = 0x21 || c = 0x22 || c = 0x23
  if s = 0 ∧ (d = 1 ∨ d = 2) then some (true, false, false)
  else if wide s && mxAble d then some (true, false, true)
  else if wide s && plain d then some (true, false, false)
  else if s = 0x30 && wide d then some (true, false, false)
  else if s = 0x24 ∧ (d = 0 ∨ d = 1) then some (true, false, false)
  else if (s = 1 ∨ s = 2) ∧ d = 0 then some (false, false, false)
  else if mxAble s && wide d then some (false, true, false)
  else if plain s && wide d then some (false, false, false)
  else none

def cvNarrow (d : Desc) : Bool :=
  match cvPair (spCode (cvSrc d)) (spCode (cvDst d)) with
  | some x => x.1
  | none => false

/-- The integer side that a zero point may stand on (R267). -/
def cvZpSide (d : Desc) : Byte := if cvNarrow d then cvDst d else cvSrc d

/-- A row length or stride that keeps packed elements on whole bytes (R279). -/
def packOk (sp : Byte) (n : Nat) : Bool :=
  if (spFmt sp).bits = 4 then n % 2 = 0 else if (spFmt sp).bits = 6 then n % 4 = 0 else true

def convertRefusal (m : Module) (r : Nat) (d : Desc) : Option Nat :=
  let src := cvSrc d
  let dst := cvDst d
  let n := cvRowLen d
  let rows := cvRows d
  let pair := cvPair (spCode src) (spCode dst)
  let mxBad := match pair with
    | some x => (spMx src && !x.2.1) || (spMx dst && !x.2.2)
    | none => true
  let qs := d.fl 4 || d.fl 5
  let zp := d.fl 2 || d.fl 3
  let aux := d.fl 3 || d.fl 5
  let side := cvZpSide d
  let mxRow (sp : Byte) (stride : Nat) : Bool :=
    spMx sp && (n % 32 != 0 || (rows > 1 && stride * 8 % (32 * (spFmt sp).bits) != 0))
  firstCode [
    (0x10, n = 0 || n > 1048576 || rows = 0 || !packOk src n || !packOk dst n),
    (0x11, mxBad),
    (0x12, (qs && (spMx src || spMx dst)) || (zp && !(zpOk side (if d.fl 3 then 0 else d.b 98) && !spMx src && !spMx dst))
      || (aux && d.a 48 = 0)),
    (0x13, mxRow src (d.f 64 4) || mxRow dst (d.f 68 4)),
    (0x14, !hallRows m d.part (d.a 16) (d.f 64 4) rows (spLen src n) || !hallRows m d.part (d.a 24) (d.f 68 4) rows (spLen dst n)
      || (spMx src && !hallRows m d.part (d.a 32) (d.f 72 4) rows (n / 32))
      || (spMx dst && !hallRows m d.part (d.a 40) (d.f 76 4) rows (n / 32))
      || (aux && !hallAt m d.part (d.a 48) 0 (8 * rows))),
    (0x15, gaOff (d.a 16) % 8 != 0 || gaOff (d.a 24) % 8 != 0 || gaOff (d.a 48) % 8 != 0 || d.f 64 4 % 8 != 0
      || d.f 68 4 % 8 != 0 || d.f 72 4 % 8 != 0 || d.f 76 4 % 8 != 0),
    (0x16, cvRnd d > 1 || (cvRnd d = 1 && !cvNarrow d) || cvAdj d < -8 || cvAdj d > 7),
    (0x17, oddPair m r d.part)]

/-! ### MX scales (R269 to R271) -/

def cvEmax (code : Nat) : Int :=
  match code with
  | 0x10 => 8 | 0x11 => 15 | 0x12 => 4 | 0x13 => 2 | 0x14 => 2 | _ => 0

/-- The largest finite value of a format. -/
def maxFinite (sp : Byte) : Val := decode (spCode sp) false (maxBits (spFmt sp))

/-- A magnitude, an infinity counting as the source's largest finite value (R269). -/
def magFin (src : Byte) (v : Val) : Val :=
  match v with
  | .inf _ => maxFinite src
  | .nan => zeroV
  | .fin _ m e => .fin false m e

/-- The larger of two magnitudes. -/
def maxMag (a b : Val) : Val := if vcmp a b = some .lt then b else a

/-- ⌊log2⌋ of a non-zero magnitude. -/
def floorLog2 (v : Val) : Option Int :=
  match v with
  | .fin _ m e => if m = 0 then none else some (magExp m e)
  | _ => none

/-- A block's scale byte (R269). -/
def scaleByte (src : Byte) (dst : Nat) (adj : Int) (vs : List Val) : Nat :=
  match floorLog2 ((vs.map (magFin src)).foldl maxMag zeroV) with
  | none => 127
  | some l => (max 0 (min 254 (l - cvEmax dst + 127 + adj))).toNat

/-! ### One element (R266, R272) -/

/-- What converting one element gives: its bits, how it counts, and its magnitude for AMAX. -/
structure ElemOut where
  bits : Nat
  clip : Bool
  nanrep : Bool
  under : Bool
  mag : Val

/-- Whether a stored element is zero, its zero point aside. -/
def storedZero (sp : Byte) (z : Int) (bits : Nat) : Bool :=
  if isIntFmt (spFmt sp) then decIntN (spFmt sp) bits = z else isZeroV (decode (spCode sp) (spMx sp) bits)

/-- `x` the source element's value, `y` what is rounded, `z` the zero point of an integer destination. -/
def elemOut (dst : Byte) (z : Int) (rnd : Option Nat) (x y : Val) : ElemOut :=
  let c := convert dst z rnd y
  { bits := c.bits, clip := c.clip, nanrep := c.nanrep
    under := isFinV x && !isZeroV x && storedZero dst z c.bits, mag := if isFinV x then vabs x else zeroV }

/-- One block of an MX destination: the scale byte and the elements (R269 to R271). -/
def mxBlock (src dst : Byte) (adj : Int) (rnds : List (Option Nat)) (xs : List Val) : Nat × List ElemOut :=
  if xs.any isNanV then
    (255, xs.map (fun x =>
      { bits := 0, clip := false, nanrep := isNanV x, under := isFinV x && !isZeroV x, mag := if isFinV x then vabs x else zeroV }))
  else
    let sb := scaleByte src (spCode dst) adj xs
    (sb, List.zipWith (fun r x => elemOut dst 0 r x (vscale x (127 - (sb : Int)))) rnds xs)

/-- The blocks of 32 of a list. -/
def chunks32 {α : Type} (l : List α) : List (List α) :=
  (List.range (ceilDiv l.length 32)).map (fun i => (l.drop (32 * i)).take 32)

/-- One row: the scale bytes of an MX destination and the elements. -/
def cvRow (d : Desc) (rnds : List (Option Nat)) (q : Val) (z : Int) (raw scl : List Byte) : List Byte × List ElemOut :=
  let src := cvSrc d
  let dst := cvDst d
  let n := cvRowLen d
  let nar := cvNarrow d
  let xs := (List.range n).map (fun i =>
    let v := elemVal src (if nar then 0 else z) raw i
    if spMx src then vmul v (scaleVal (scl.getD (i / 32) 0)) else v)
  if spMx dst then
    let bs := List.zipWith (mxBlock src dst (cvAdj d)) (chunks32 rnds) (chunks32 xs)
    (bs.map (fun b => BitVec.ofNat 8 b.1), bs.flatMap (·.2))
  else ([], List.zipWith (fun r x => elemOut dst (if nar then z else 0) r x (vmul x q)) rnds xs)

/-- FP32 rounded toward +infinity (R272). -/
def toF32Up (v : Val) : W32 :=
  let r := toF32 v
  match vcmp (f32 r) v with
  | some .lt => r + 1
  | _ => r

/-! ### CONVERT and its completion (R268, R273 to R283) -/

def risRefuse (r code : Nat) (d : Desc) (m : Module) : Module :=
  let x := m.ris' r
  bodyRefused 3 r code d (m.setRis r { x with refused := x.refused + 1 })

/-- A completion's counts added to its stream's set (R272, R273); HIGH is set when the share crosses THRESH (R275). -/
def setAdd (o : EngOp) (t : StreamSet) : StreamSet :=
  let t := { t with
    elems := t.elems + BitVec.ofNat 64 o.elems, clip := t.clip + BitVec.ofNat 64 o.clip
    nanrep := t.nanrep + BitVec.ofNat 64 o.nanrep, under := t.under + BitVec.ofNat 64 o.under
    amax := if t.amax.toNat < o.amax.toNat then o.amax else t.amax }
  { t with high := t.high || (decide (t.clip.toNat * 65536 > t.thresh.toNat * t.elems.toNat) && t.thresh != 0) }

/-- A stream set is cleared by a register write; THRESH is its own register and stays. Of a completion in the same cycle the counts
remain: the clear comes first (R274, R301). -/
def streamClear (m : Module) (set : Nat) (x : Ris) : Ris :=
  { x with sets := mapAt StreamSet.init x.sets set (fun t =>
      let t : StreamSet := { StreamSet.init with thresh := t.thresh }
      match x.last with
      | some o => if cvStream o.desc = set && sameCycle m x.lastAt then setAdd o t else t
      | none => t) }

/-- The set that a CONVERT with SCLR names is cleared as it starts (R274). -/
def startClear (set : Nat) (x : Ris) : Ris :=
  { x with sets := mapAt StreamSet.init x.sets set (fun t => { StreamSet.init with thresh := t.thresh }) }

/-- Converts the rows, writing each to memory; answers the elements converted. -/
def cvRun (r : Nat) (d : Desc) (seed : W64) (sc : W32) (m : Module) : List ElemOut × Module :=
  let w := r / 4
  let n := cvRowLen d
  (List.range (cvRows d)).foldl (fun (a : List ElemOut × Module) i =>
    let (raw, m) := hallRead w d.part (gaOff (d.a 16) + i * d.f 64 4) (spLen (cvSrc d) n) a.2
    let (scl, m) := if spMx (cvSrc d) then hallRead w d.part (gaOff (d.a 32) + i * d.f 72 4) (n / 32) m else ([], m)
    let (aux, m) := if d.fl 3 || d.fl 5 then hallRead w d.part (gaOff (d.a 48) + 8 * i) 8 m else ([], m)
    let q := if d.fl 5 then f32 (BitVec.ofNat 32 (le aux 0 4)) else if d.fl 4 then f32 (BitVec.ofNat 32 (d.f 88 4)) else one
    let z := if d.fl 3 then zeroPoint (cvZpSide d) (BitVec.ofNat 8 (le aux 4 1)) else if d.fl 2 then zeroPoint (cvZpSide d) (d.b 98) else 0
    let rnds := (List.range n).map (fun c =>
      if cvRnd d = 1 then some (draw seed d.part (d.f 92 4) (d.f 56 8 + i * n + c) sc 0 false) else none)
    let (sb, es) := cvRow d rnds q z raw scl
    let m := hallWrite w d.part (gaOff (d.a 24) + i * d.f 68 4) (packElems (spFmt (cvDst d)).bits (es.map (·.bits))) m
    let m := if spMx (cvDst d) then hallWrite w d.part (gaOff (d.a 40) + i * d.f 76 4) sb m else m
    (a.1 ++ es, m)) ([], m)

/-- In full mode the odd Riser runs the descriptor in lockstep (R295): its counters rise as the even one's do. -/
def risLockstep (r p : Nat) (m0 m : Module) : Module :=
  if fullMode m p && r % 2 = 0 then
    let e := m.ris' r
    let e0 := m0.ris' r
    let x := m.ris' (r + 1)
    m.setRis (r + 1) { x with
      busy := x.busy + (e.busy - e0.busy), elems := x.elems + (e.elems - e0.elems), stallHall := x.stallHall + (e.stallHall - e0.stallHall)
      stallNwl := x.stallNwl + (e.stallNwl - e0.stallNwl), lastProgress := e.lastProgress }
  else m

/-- The rate of a CONVERT in elements per cycle (R282). -/
def cvRate (d : Desc) : Nat :=
  let c := spCode (cvSrc d)
  if cvRnd d = 1 then 64 else if c = 0 || c = 0x24 || c = 0x30 then 128 else 256

/-- A CONVERT starts (R268, R283): its elements, and the schedule of what follows. The stalls that the command tells stand in its first
cycles, the Hall's first (DESIGN CHOICE, log entry 158); the others follow from the grant of lanes (R325). -/
def cvStart (r : Nat) (d : Desc) (hallStalls nwlStalls : Nat) (m : Module) : Module :=
  let w := r / 4
  let sr := cvRnd d = 1
  let m := if d.fl 6 then m.setRis r (startClear (cvStream d) (m.ris' r)) else m
  let (es, m) := cvRun r d (seedOf m w d.part (nfld (d.f 100 1) 0 3)) (stepComp m w d.part) m
  let cyc := cvRows d * ceilDiv (cvRowLen d) (cvRate d)
  let u := m.clk.cycle
  let ns := if sr then nwlStalls else 0
  let c0 := u + hallStalls + ns + 8
  let g := if sr then grantShare (requesters m w (r % 4)) 8 cyc c0 else ([], [], c0 + cyc)
  let nst := spanOf (u + hallStalls) ns ++ g.2.1
  let m := if sr then nwlCount w (8 * cyc) (spanSum nst) m else m
  let x := m.ris' r
  let op : EngOp := { desc := d, startC := u, doneC := g.2.2 + 24, elems := es.length,
                      clip := (es.filter (·.clip)).length, nanrep := (es.filter (·.nanrep)).length,
                      under := (es.filter (·.under)).length, amax := toF32Up ((es.map (·.mag)).foldl maxMag zeroV),
                      hallSt := spanOf u hallStalls, nwlSt := nst, draws := g.1, issues := [],
                      marks := [(u, 4), (g.2.2, 8)], failed := false }
  (hallLost w hallStalls m).setRis r { x with
    op := some op, busy := x.busy + BitVec.ofNat 64 (op.doneC - u), stallHall := x.stallHall + BitVec.ofNat 64 hallStalls
    stallNwl := x.stallNwl + BitVec.ofNat 64 (spanSum nst), lastProgress := m.clk.elapsed }

def execConvert (r : Fin 8) (hallStalls nwlStalls : Nat) (seedEcc : List EccHit) (errs : List MemErr) (s : State) : Out :=
  if (s.m.ris' r.val).op.isSome || !canStart s.m 3 r.val then stop "CONVERT"
  else
    match headOwned s.m 3 r.val with
    | none => stop "CONVERT"
    | some (k, d) =>
      let m0 := dequeue k s.m
      match convertRefusal m0 r.val d with
      | some c => done s (risRefuse r.val c d m0)
      | none =>
        let w := r.val / 4
        let m := if cvRnd d = 1 then nwlEcc w d seedEcc m0 else m0
        if cvRnd d = 1 && drawsRefused m w d.part then done s (complete 3 r.val d true (refuseDraw w d m))
        else
          done s (risLockstep r.val d.part m0 (cvStart r.val d hallStalls nwlStalls (memErrs d.part errs (descStart 3 r.val d m))))

/-- A completion adds its counts to the stream's set in one step (R273, R275). -/
def streamAdd (r : Nat) (o : EngOp) (m : Module) : Module :=
  let x := m.ris' r
  let t := nget StreamSet.init x.sets (cvStream o.desc)
  let t' := setAdd o t
  let m := m.setRis r { x with
    sets := nset StreamSet.init x.sets (cvStream o.desc) t', elems := x.elems + BitVec.ofNat 64 o.elems, last := some o
    lastAt := instant m }
  if t'.high && !t.high then ev 8 3 r 2 o.desc.part o.desc.ctx o.desc.seq m else m

def execRisComplete (r : Fin 8) (pairDiff : Bool) (s : State) : Out :=
  match (s.m.ris' r.val).op with
  | none => stop "RIS_COMPLETE"
  | some o =>
    let m0 := passToCycle o.doneC s.m
    let m := streamAdd r.val o m0
    let m := m.setRis r.val { m.ris' r.val with op := none, lastProgress := m.clk.elapsed }
    let m := risLockstep r.val o.desc.part m0 m
    let n := o.elems + (if spMx (cvDst o.desc) then o.elems / 32 else 0)
    let m := if fullMode m o.desc.part && !o.failed then comparePair (r.val / 4) 3 r.val n (b2n pairDiff) o.desc m else m
    done s (complete 3 r.val o.desc o.failed m)

def execStreamClear (r : Fin 8) (set : Fin 16) (s : State) : Out :=
  done s (s.m.setRis r.val (streamClear s.m set.val (s.m.ris' r.val)))

/-- The Riser whose descriptor a Riser runs: the even one for the odd one of a full-mode pair (R295). -/
def risLead (m : Module) (r : Nat) : Nat :=
  match owner m 2 r with
  | some p => if oddPair m r p then r - 1 else r
  | none => r

/-- What of RIS_BUSY, RIS_STALL_HALL and RIS_STALL_NWL is added and has not come to pass (R299). -/
def engLeft (now : Nat) (op : Option EngOp) : W64 × W64 × W64 :=
  (BitVec.ofNat 64 (opLeft now opSpan op), BitVec.ofNat 64 (opLeft now (·.hallSt) op), BitVec.ofNat 64 (opLeft now (·.nwlSt) op))

/-- RIS_CNT_CLR [0]: 0x018 to 0x038 to zero; what has started and not come to pass, `left`, is still to come. [1]: every stream set
(R299). -/
def risClear (left : W64 × W64 × W64) (x : Ris) : Ris :=
  { x with busy := left.1, elems := 0, stallHall := left.2.1, stallNwl := left.2.2, refused := 0 }
def risCntClr (r : Nat) (m : Module) : Module :=
  m.setRis r (risClear (engLeft m.clk.cycle (m.ris' (risLead m r)).op) (m.ris' r))
def risClearSets (m : Module) (x : Ris) : Ris := (List.range 16).foldl (fun x i => streamClear m i x) x

def execRisCntClr (r : Fin 8) (s : State) : Out := done s (risCntClr r.val s.m)
def execRisClearStreamSets (r : Fin 8) (s : State) : Out := done s (s.m.setRis r.val (risClearSets s.m (s.m.ris' r.val)))

end Sys2Proof.Machine
end

