-- ==== Sys2Proof/Machine/Win.lean ====
section
/-! DEFINITION. Winders (chapter 7): TRANSFORM, forward and inverse, and its completion. -/

namespace Sys2Proof.Machine

def wnRowLen (d : Desc) : Nat := nfld (d.f 48 4) 0 21
def wnRows (d : Desc) : Nat := nfld (d.f 52 4) 0 24
def wnSmooth (d : Desc) : Bool := d.fl 0
def wnSign (d : Desc) : Bool := d.fl 1
def wnWht (d : Desc) : Bool := d.fl 2
def wnInv (d : Desc) : Bool := d.fl 3
def wnLog (d : Desc) : Nat := nfld (d.f 62 1) 0 4
/-- The segment length, zero without a Walsh–Hadamard step (R293). -/
def wnSeg (d : Desc) : Nat := if wnWht d then 2 ^ wnLog d else 0

def winPushOk (d : Desc) : Bool :=
  d.ty = 0x48 && d.len = 80 && nfld d.flags.toNat 4 8 = 0 && nfld (d.f 48 4) 21 11 = 0 && nfld (d.f 52 4) 24 8 = 0
  && nfld (d.f 62 1) 4 4 = 0 && nfld (d.f 63 1) 3 5 = 0 && zeros d.bytes 64 16 && spCodeOk (d.b 60) && spCodeOk (d.b 61)

def winRefusal (m : Module) (d : Desc) : Option Nat :=
  let n := wnRowLen d
  let rows := wnRows d
  let wide (c : Nat) : Bool := c = 0 || c = 1 || c = 2
  firstCode [
    (0x10, n = 0 || n > 1048576 || rows = 0 || !(wnSmooth d || wnSign d || wnWht d)
      || (wnWht d && (wnLog d < 5 || wnLog d > 12 || n % wnSeg d != 0))),
    (0x11, !(wide (spCode (d.b 60)) || spCode (d.b 60) = 0x30) || !wide (spCode (d.b 61)) || spMx (d.b 60) || spMx (d.b 61)),
    (0x12, !hallRows m d.part (d.a 16) (d.f 40 4) rows (spLen (d.b 60) n)
      || !hallRows m d.part (d.a 24) (d.f 44 4) rows (spLen (d.b 61) n)
      || (wnSmooth d && !hallAt m d.part (d.a 32) 0 (4 * n))),
    (0x13, gaOff (d.a 16) % 8 != 0 || gaOff (d.a 24) % 8 != 0 || gaOff (d.a 32) % 8 != 0 || d.f 40 4 % 8 != 0 || d.f 44 4 % 8 != 0)]

/-- A value rounded to A48 (R157). -/
def rndA48 (v : Val) : Val := a48 (toA48 v)

/-- One butterfly stage: every pair (a, b) of columns i and i + h becomes (a + b, a − b), each rounded to A48 (R287, R288). -/
def whtStage (h : Nat) (l : List Val) : List Val :=
  (List.range l.length).map (fun i =>
    let x := l.getD i zeroV
    if i / h % 2 = 0 then rndA48 (vadd x (l.getD (i + h) zeroV))
    else rndA48 (vadd (l.getD (i - h) zeroV) (vneg x)))

/-- The `k` stages from `h` up (R287). -/
def whtGo : Nat → Nat → List Val → List Val
  | 0, _, l => l
  | k + 1, h, l => whtGo k (2 * h) (whtStage h l)

/-- The Walsh–Hadamard step of a row, segment by segment (R285, R286). -/
def whtRow (k : Nat) (scale : Nat) (l : List Val) : List Val :=
  (List.range (l.length / 2 ^ k)).flatMap (fun s =>
    (whtGo k 1 ((l.drop (s * 2 ^ k)).take (2 ^ k))).map (fun v => vscale v (-(scale : Int))))

/-- A row transformed: its values before the last rounding, and how many met a division by zero (R285 to R288). -/
def winRow (d : Desc) (signs : Nat → Bool) (sm : Nat → Val) (xs : List Val) : List Val × Nat :=
  let k := wnLog d
  let smoothF (l : List Val) : List Val := if wnSmooth d then List.zipWith (fun c x => vmul x (sm c)) (List.range l.length) l else l
  let sign (l : List Val) : List Val :=
    if wnSign d then List.zipWith (fun c x => if signs c then vneg x else x) (List.range l.length) l else l
  if wnInv d then
    let a := sign (if wnWht d then whtRow k (k / 2) xs else xs)
    if wnSmooth d then
      (List.zipWith (fun c x => rndA48 (vdiv x (sm c))) (List.range a.length) a,
        ((List.zip (List.range a.length) a).filter (fun e => isZeroV (sm e.1) && !isNanV e.2)).length)
    else (a, 0)
  else
    let a := sign (smoothF xs)
    (if wnWht d then whtRow k ((k + 1) / 2) a else a, 0)

/-- Whether d_c is −1 (R289). -/
def winSign (seed : W64) (d : Desc) (c : Nat) : Bool := draw seed d.part (d.f 56 4) c 0 0 false % 2 = 1

/-- A transformed row as it leaves the segment buffer: an entry in uncorrected error gives its value in error (R223, R294). `row` is the
buffer entry, `col` the segment and `elem` the row. -/
def bufRead (d : Desc) (hits : List EccHit) (i : Nat) (ys : List Val) : List Val :=
  let n := if wnWht d then wnSeg d else 4096
  (List.zip (List.range ys.length) ys).map (fun e =>
    match eccRead hits (fun h => h.elem = i && h.row = e.1 % n && h.col = e.1 / n) with
    | some v => a48 v
    | none => e.2)

/-- Transforms the rows: elements clipped, NaN-replaced and special, and the segment left in the buffer. -/
def winRun (w4 : Nat) (d : Desc) (seed : W64) (hits : List EccHit) (m : Module) : Nat × Nat × Nat × List Val × Module :=
  let w := w4 / 2
  let n := wnRowLen d
  let (smb, m) := if wnSmooth d then hallRead w d.part (gaOff (d.a 32)) (4 * n) m else ([], m)
  let sm (c : Nat) : Val := f32 (BitVec.ofNat 32 (le smb (4 * c) 4))
  (List.range (wnRows d)).foldl (fun (a : Nat × Nat × Nat × List Val × Module) i =>
    let (raw, m) := hallRead w d.part (gaOff (d.a 16) + i * d.f 40 4) (spLen (d.b 60) n) a.2.2.2.2
    let (ys, sp) := winRow d (winSign seed d) sm ((List.range n).map (elemVal (d.b 60) 0 raw))
    let c := convAll (d.b 61) (bufRead d hits i ys)
    (a.1 + c.2.1, a.2.1 + c.2.2, a.2.2.1 + sp, ys.drop (n - wnSeg d),
      hallWrite w d.part (gaOff (d.a 24) + i * d.f 44 4) c.1 m)) (0, 0, 0, [], m)

def winRefuse (u code : Nat) (d : Desc) (m : Module) : Module :=
  let x := m.win' u
  bodyRefused 4 u code d (m.setWin u { x with refused := x.refused + 1 })

/-- ECC errors met by a Winder (R294, R302). -/
def winEcc (u : Nat) (d : Desc) (hits : List EccHit) (m : Module) : Module :=
  let x := m.win' u
  let last := match eccLastHit hits with
    | some h => BitVec.ofNat 64 (h.row % 4096)
    | none => x.eccLast
  eccEvents 9 u d hits (m.setWin u { x with
    eccC := satAdd x.eccC (eccCount false hits), eccU := satAdd x.eccU (eccCount true hits), eccLast := last })

/-- A TRANSFORM starts (R285 to R293): its rows, and the schedule of what follows; stalls as a CONVERT's (log entry 158). -/
def wnStart (w : Nat) (d : Desc) (hallStalls nwlStalls : Nat) (ecc : List EccHit) (m : Module) : Module :=
  let g := w / 2
  let (clip, nan, sp, seg, m) := winRun w d (seedOf m g d.part (nfld (d.f 63 1) 0 3)) ecc m
  let cyc := wnRows d * ceilDiv (wnRowLen d) 128
  let ns := if wnSign d then nwlStalls else 0
  let u := m.clk.cycle
  let c0 := u + hallStalls + ns + 8
  let gr := if wnSign d then grantShare (requesters m g (4 + w % 2)) 16 cyc c0 else ([], [], c0 + cyc)
  let nst := spanOf (u + hallStalls) ns ++ gr.2.1
  let m := if wnSign d then nwlCount g (16 * cyc) (spanSum nst) m else m
  let x := m.win' w
  let op : EngOp := { desc := d, startC := u, doneC := gr.2.2 + 47 + ceilDiv (wnSeg d) 128 + 1, elems := wnRows d * wnRowLen d,
                      clip := clip, nanrep := nan, under := sp, amax := 0, hallSt := spanOf u hallStalls, nwlSt := nst, draws := gr.1,
                      issues := [], marks := [(u, 4), (gr.2.2, 8)], failed := false }
  (hallLost g hallStalls m).setWin w { x with
    op := some op, segment := seg.map toA48, busy := x.busy + BitVec.ofNat 64 (op.doneC - u)
    stallHall := x.stallHall + BitVec.ofNat 64 hallStalls, stallNwl := x.stallNwl + BitVec.ofNat 64 (spanSum nst)
    lastProgress := m.clk.elapsed }

def execTransform (w : Fin 4) (hallStalls nwlStalls : Nat) (ecc seedEcc : List EccHit) (errs : List MemErr) (s : State) : Out :=
  if (s.m.win' w.val).op.isSome || !canStart s.m 4 w.val then stop "TRANSFORM"
  else
    match headOwned s.m 4 w.val with
    | none => stop "TRANSFORM"
    | some (k, d) =>
      let m := dequeue k s.m
      match winRefusal m d with
      | some c => done s (winRefuse w.val c d m)
      | none =>
        let g := w.val / 2
        let m := if wnSign d then nwlEcc g d seedEcc m else m
        if wnSign d && drawsRefused m g d.part then done s (complete 4 w.val d true (refuseDraw g d m))
        else
          done s (wnStart w.val d hallStalls nwlStalls ecc (winEcc w.val d ecc (memErrs d.part errs (descStart 4 w.val d m))))

def execWinComplete (w : Fin 4) (s : State) : Out :=
  match (s.m.win' w.val).op with
  | none => stop "WIN_COMPLETE"
  | some o =>
    let m := passToCycle o.doneC s.m
    let x := m.win' w.val
    done s (complete 4 w.val o.desc o.failed (m.setWin w.val { x with
      op := none, elems := x.elems + BitVec.ofNat 64 o.elems
      clip := satAdd x.clip o.clip, nanrep := satAdd x.nanrep o.nanrep, special := satAdd x.special o.under
      lastProgress := m.clk.elapsed }))

/-- WIN_CNT_CLR: 0x018 to 0x048 to zero; what has started and not come to pass, `left`, is still to come (R302). -/
def winClear (left : W64 × W64 × W64) (x : Win) : Win :=
  { x with busy := left.1, elems := 0, stallHall := left.2.1, stallNwl := left.2.2, refused := 0, clip := 0, nanrep := 0, special := 0 }
def winCntClr (w : Nat) (m : Module) : Module := m.setWin w (winClear (engLeft m.clk.cycle (m.win' w).op) (m.win' w))
def execWinCntClr (w : Fin 4) (s : State) : Out := done s (winCntClr w.val s.m)

end Sys2Proof.Machine
end

