-- ==== Sys2Proof/Machine/Lnd.lean ====
section
/-! DEFINITION. Landings (chapter 8): the RUN descriptor, lane programs with their checks, their arithmetic and their issue
timing, and completion. -/

namespace Sys2Proof.Machine

/-! ### The RUN descriptor (R306 to R309) -/

def rnRows (d : Desc) : Nat := nfld (d.f 32 4) 0 24
def rnLen (d : Desc) : Nat := nfld (d.f 36 4) 0 21
def rnProg (d : Desc) : Nat := nfld (d.f 44 2) 0 9
def rnBf (d : Desc) : Bool := nfld (d.f 46 1) 0 1 = 1

def lndPushOk (d : Desc) : Bool :=
  d.ty = 0x30 && d.len = 336 && d.flags = 0 && nfld (d.f 32 4) 24 8 = 0 && nfld (d.f 36 4) 21 11 = 0
  && nfld (d.f 44 2) 9 7 = 0 && nfld (d.f 47 1) 3 5 = 0 && (List.range 16).all (fun i => zeros d.bytes (80 + 16 * i + 13) 3)

/-- A stream record (R307): address, row stride, format; `i` 0–7 inputs, 8–15 outputs. -/
def strAddr (d : Desc) (i : Nat) : W64 := d.a (80 + 16 * i)
def strStride (d : Desc) (i : Nat) : Nat := d.f (88 + 16 * i) 4
def strFmt (d : Desc) (i : Nat) : Byte := d.b (92 + 16 * i)
def strUsed (d : Desc) (i : Nat) : Bool := strAddr d i != 0
def strSize (d : Desc) (i : Nat) : Nat := (spFmt (strFmt d i)).bits / 8

def strFmtOk (d : Desc) (i : Nat) : Bool :=
  let c := spCode (strFmt d i)
  !spMx (strFmt d i) && (c = 0 || c = 1 || c = 2 || (i < 8 && (c = 0x24 || c = 0x10 || c = 0x11)))

def runRefusal (m : Module) (l : Nat) (d : Desc) : Option Nat :=
  let used := (List.range 16).filter (strUsed d)
  firstCode [
    (0x10, rnRows d = 0 || rnLen d = 0 || rnLen d > 1048576 || rnProg d = 0 || rnProg d > 256 || nfld (d.f 46 1) 1 7 != 0),
    (0x11, used.any (fun i => !strFmtOk d i)),
    (0x12, !hallAt m d.part (d.a 16) 0 (8 * rnProg d)
      || used.any (fun i => !hallRows m d.part (strAddr d i) (strStride d i) (rnRows d) (rnLen d * strSize d i))),
    (0x13, gaOff (d.a 16) % 8 != 0 || used.any (fun i => gaOff (strAddr d i) % 8 != 0 || strStride d i % strSize d i != 0)),
    (0x15, oddPair m l d.part)]

/-! ### Lane programs (R310, R311, R314, R315, R320) -/

structure LOp where
  opc : Nat
  d : Nat
  a : Nat
  b : Nat
  c : Nat
  ib : Bool
  rnd : Nat
  rsv : Bool
  imm : Nat

def lopOf (x : Nat) : LOp :=
  { opc := nfld x 56 8, d := nfld x 51 5, a := nfld x 46 5, b := nfld x 41 5, c := nfld x 36 5, ib := x.testBit 35,
    rnd := nfld x 33 2, rsv := x.testBit 32, imm := nfld x 0 32 }

/-- The kinds of operation: 1 one source, 2 two, 3 three, 4 reduction, 5 LDS, 6 STS, 7 IOTA, 8 RAND, 9 CVT, 10 PASS or END;
0 a reserved code (R311). -/
def lopKind (opc : Nat) : Nat :=
  if opc ∈ [0x01, 0x02, 0x03, 0x05, 0x06, 0x0A, 0x13] then 2
  else if opc ∈ [0x04, 0x0B] then 3
  else if opc ∈ [0x07, 0x08, 0x09, 0x10, 0x11, 0x12, 0x14, 0x15, 0x16, 0x17, 0x18, 0x19, 0x1A, 0x1B, 0x1C] then 1
  else if opc ∈ [0x20, 0x21] then 4
  else if opc = 0x22 then 5 else if opc = 0x23 then 6 else if opc = 0x28 then 7 else if opc = 0x29 then 8
  else if opc = 0x2A then 9 else if opc ∈ [0x3E, 0x3F] then 10 else 0

/-- The latency L of an operation (R311). -/
def lopLat (opc : Nat) : Nat :=
  if opc ∈ [0x01, 0x02, 0x03, 0x04, 0x2A] then 4
  else if opc ∈ [0x05, 0x06, 0x0A, 0x0B] then 2
  else if opc ∈ [0x10, 0x11, 0x12, 0x14, 0x15, 0x16, 0x17, 0x20] then 12
  else if opc ∈ [0x13, 0x18, 0x19, 0x1A] then 16
  else if opc ∈ [0x1B, 0x1C] then 20
  else if opc = 0x21 then 6 else if opc ∈ [0x22, 0x29] then 8 else 1

def usesA (k : Nat) : Bool := k ∈ [1, 2, 3, 4, 6, 9]
def usesB (o : LOp) (k : Nat) : Bool := k ∈ [2, 3] && !o.ib
def isSc (x : Nat) : Bool := 16 ≤ x && x < 24

/-- The sources an operation reads. -/
def lopSrcs (o : LOp) : List Nat :=
  let k := lopKind o.opc
  (if usesA k then [o.a] else []) ++ (if usesB o k then [o.b] else []) ++ (if k = 3 then [o.c] else [])

/-- The output stream that an operation writes. -/
def lopOut (o : LOp) : Option Nat :=
  let k := lopKind o.opc
  if k = 6 then some (o.imm % 8) else if k ∈ [1, 2, 3, 7, 8, 9] && o.d ≥ 24 then some (o.d - 24) else none

/-- Whether an operation is scalar (R315): a scalar destination, and no source but scalar registers and IB immediates; LDS and STS
issue as one. -/
def lopScalar (o : LOp) : Bool :=
  let k := lopKind o.opc
  k = 5 || k = 6 || (k ∈ [1, 2, 3, 4, 7, 8, 9] && isSc o.d && (lopSrcs o).all isSc)

/-- Whether an operation draws from the Newel (R314). -/
def lopDraws (o : LOp) : Bool := lopKind o.opc = 8 || (o.rnd = 1 && (lopKind o.opc = 9 || (lopOut o).isSome))

/-- Whether an operation that is no PASS or END keeps the rules of code 0x14 (R320). -/
def lopOk (d : Desc) (o : LOp) : Bool :=
  let k := lopKind o.opc
  let immMask := if o.ib then 2 ^ 32 else if k = 5 || k = 6 then 8 else if k = 8 then 4 else if k = 9 then 256 else 1
  k != 0 && k != 10 && !o.rsv
  && (!o.ib || k = 2 || k = 3)
  && (usesA k || o.a = 0) && (usesB o k || o.b = 0) && (k = 3 || o.c = 0) && (k != 6 || o.d = 0) && o.imm < immMask
  && (lopSrcs o).all (fun x => x < 24 || strUsed d (x - 24))
  && (k != 5 || strUsed d (o.imm % 8))
  && (match lopOut o with
      | some i => strUsed d (8 + i)
      | none => true)
  && (!(k = 4 || k = 5) || isSc o.d) && (k != 6 || isSc o.a)
  && (!(isSc o.d && k ∈ [1, 2, 3, 7, 8, 9]) || (lopSrcs o).all isSc)
  && (o.rnd = 0 || (o.rnd = 1 && (k = 9 || (match lopOut o with
      | some i => spCode (strFmt d (8 + i)) = 1 || spCode (strFmt d (8 + i)) = 2
      | none => false))))
  && (k != 9 || (let c := o.imm % 64; nfld o.imm 6 1 = 0 && (c = 1 || c = 2 || c = 0x10 || c = 0x11)))

/-- A word of PASS or END has no field in use. -/
def markOk (x : Nat) : Bool := x % 2 ^ 56 = 0

/-- The pass sections of a program, none when it breaks a rule (R317, R320). -/
def sections (d : Desc) : List Nat → List LOp → Option (List (List LOp))
  | [], _ => none
  | x :: r, cur =>
    let o := lopOf x
    if o.opc = 0x3F then (if markOk x && r.isEmpty then some [cur] else none)
    else if o.opc = 0x3E then
      (if markOk x then (match sections d r [] with
        | some l => some (cur :: l)
        | none => none) else none)
    else if lopOk d o then sections d r (cur ++ [o]) else none

def programOf (d : Desc) (bytes : List Byte) : Option (List (List LOp)) :=
  match sections d ((List.range (rnProg d)).map (fun i => le bytes (8 * i) 8)) [] with
  | some l => if l.length ≤ 3 then some l else none
  | none => none

/-! ### Lane arithmetic (R311, R312) -/

def laneSp (bf : Bool) : Byte := if bf then spBf16 else spFp32
/-- A lane's bits from a value, rounded once to the lane format. -/
def laneEnc (bf : Bool) (v : Val) : Nat := (convert (laneSp bf) 0 none v).bits
def laneDec (bf : Bool) (x : Nat) : Val := decode (spCode (laneSp bf)) false x

/-- The larger, or the smaller, of two values; two zeros of unlike sign are equal, and which is given is a free value of the
operand (log entry 14). -/
def laneMax (big : Bool) (a b : Val) : Val :=
  match vcmp a b with
  | none => .nan
  | some .eq => if a = b || (Config.lane 0x05 (toF32 a)).getLsbD 0 then a else b
  | some .lt => if big then b else a
  | some .gt => if big then a else b

/-- RSQRT: one of the two neighbours of the exact value, both within 1 ulp (R311); which is free. -/
def laneRsqrt (a : Val) : Val :=
  match a with
  | .nan => .nan
  | .inf s => if s then .nan else zeroV
  | .fin s m _ =>
    if m = 0 then .inf false
    else if s then .nan
    else
      let e := vdiv one (vsqrt a)
      let r := toF32 e
      match vcmp (f32 r) e with
      | some .eq => f32 r
      | some .lt => f32 (if (Config.lane 0x12 (toF32 a)).getLsbD 0 then r + 1 else r)
      | _ => f32 (if (Config.lane 0x12 (toF32 a)).getLsbD 0 then r - 1 else r)

/-- The value of an operation before its rounding to the lane format. -/
def laneVal (opc : Nat) (a b c : Val) : Val :=
  match opc with
  | 0x01 => vadd a b
  | 0x02 => vadd a (vneg b)
  | 0x03 => vmul a b
  | 0x04 => vadd (vmul a b) c
  | 0x05 => laneMax true a b
  | 0x06 => laneMax false a b
  | 0x07 => vabs a
  | 0x08 => vneg a
  | 0x09 => a
  | 0x0A => if vcmp a b = some .lt then one else zeroV
  | 0x0B => if isZeroV c then b else a
  | 0x10 => vdiv one a
  | 0x11 => vsqrt a
  | 0x12 => laneRsqrt a
  | 0x13 => vdiv a b
  | _ => laneFn opc a

/-! ### The run -/

/-- What a run carries from operation to operation: registers, counts, memory, the issue times of R318, the runs of cycles in which it
draws and in which it is granted no lanes (R314, R325), and when its operations issued. -/
structure RunSt where
  vr : NMap W32
  sr : NMap W32
  clip : Nat
  nanrep : Nat
  written : Nat
  m : Module
  t : Nat
  ready : NMap (List Nat × Nat)
  dep : Nat
  ops : Nat
  last : Nat
  lat : Nat
  draws : List (Nat × Nat × Nat)
  nst : List (Nat × Nat)
  issues : List (Nat × Nat)
  marks : List (Nat × Nat)

/-- Where a run is: its descriptor, Landing, seed and step, the requesters served before it (R325) and the ECC errors it meets, the row,
the bundle's first column, its active elements and the elements of its tiles. -/
structure RunAt where
  d : Desc
  l : Nat
  seed : W64
  sc : W32
  ahead : List (List (Nat × Nat × Nat))
  hits : List EccHit
  row : Nat
  col0 : Nat
  act : Nat
  n : Nat

def vrGet (bf : Bool) (vr : NMap W32) (r e : Nat) : Nat :=
  if bf then nfld (nget 0 vr (r * 2048 + e / 2)).toNat (16 * (e % 2)) 16 else (nget 0 vr (r * 2048 + e)).toNat

def vrPut (bf : Bool) (vr : NMap W32) (r e x : Nat) : NMap W32 :=
  if bf then
    let w := (nget 0 vr (r * 2048 + e / 2)).toNat
    nset 0 vr (r * 2048 + e / 2) (BitVec.ofNat 32 (if e % 2 = 0 then w / 65536 * 65536 + x else x * 65536 + w % 65536))
  else nset 0 vr (r * 2048 + e) (BitVec.ofNat 32 x)

def vrPutAll (bf : Bool) (vr : NMap W32) (r : Nat) (xs : List Nat) : NMap W32 :=
  (List.zip (List.range xs.length) xs).foldl (fun v e => vrPut bf v r e.1 e.2) vr

/-- The elements of an input stream in the bundle, in the lane format; +0 past the row's end (R305, R307, R308). -/
def streamIn (x : RunAt) (i : Nat) (m : Module) : List Val × Module :=
  let bf := rnBf x.d
  let sp := strFmt x.d i
  let (b, m) := hallRead (x.l / 8) x.d.part (gaOff (strAddr x.d i) + x.row * strStride x.d i + x.col0 * strSize x.d i) (x.act * strSize x.d i) m
  ((List.range x.n).map (fun e => if e < x.act then laneDec bf (laneEnc bf (elemVal sp 0 b e)) else zeroV), m)

/-- An operand's values over the bundle. -/
def operand (x : RunAt) (src : Nat) (s : RunSt) : List Val × RunSt :=
  if src < 16 then ((List.range x.n).map (fun e => laneDec (rnBf x.d) (vrGet (rnBf x.d) s.vr src e)), s)
  else if src < 24 then (List.replicate x.n (f32 (nget 0 s.sr (src - 16))), s)
  else
    let y := streamIn x (src - 24) s.m
    (y.1, { s with m := y.2 })

def runPos (x : RunAt) (col : Nat) : Nat := x.d.f 24 8 + x.row * rnLen x.d + col
def runDraw (x : RunAt) (col dr : Nat) : Nat := draw x.seed x.d.part (x.d.f 40 4) (runPos x col) x.sc dr false

/-- Writes values to an output stream from a column on (R305, R314). -/
def streamOut (x : RunAt) (i rnd col : Nat) (vs : List Val) (s : RunSt) : RunSt :=
  let k := 8 + i
  let cs := (List.zip (List.range vs.length) vs).map (fun e =>
    convert (strFmt x.d k) 0 (if rnd = 1 then some (runDraw x (col + e.1) 0) else none) e.2)
  let off := gaOff (strAddr x.d k) + x.row * strStride x.d k + col * strSize x.d k
  { s with
    clip := s.clip + (cs.filter (·.clip)).length, nanrep := s.nanrep + (cs.filter (·.nanrep)).length, written := s.written + vs.length
    m := hallWrite (x.l / 8) x.d.part off (packElems (spFmt (strFmt x.d k)).bits (cs.map (·.bits))) s.m }

/-- The FP32 tree of an RSUM, halving the span (R316). -/
def rsumTree : Nat → List W32 → W32
  | 0, l => l.getD 0 0
  | k + 1, l => rsumTree k (List.zipWith f32Add (l.take (l.length / 2)) (l.drop (l.length / 2)))

/-- A reduction of the bundle combined with the scalar (R316). -/
def reduceOp (bf : Bool) (opc act : Nat) (vs : List Val) (d : W32) : W32 :=
  if opc = 0x20 then
    let n := if bf then 4096 else 2048
    let l := (List.range n).map (fun i => if i < act then toF32 (vs.getD i zeroV) else 0)
    f32Add d (rsumTree (if bf then 12 else 11) l)
  else
    match vs.take act with
    | [] => d
    | v :: r => toF32 (laneMax true (f32 d) (r.foldl (laneMax true) v))

/-- The values an operation gives over the bundle, in the lane format, with what CVT clips. -/
def opValues (x : RunAt) (o : LOp) (n : Nat) (s : RunSt) : List Nat × RunSt :=
  let bf := rnBf x.d
  let k := lopKind o.opc
  let imm := List.replicate x.n (f32 (BitVec.ofNat 32 o.imm))
  let (a, s) := if usesA k then operand x o.a s else ([], s)
  let (b, s) := if k = 2 || k = 3 then (if o.ib then (imm, s) else operand x o.b s) else ([], s)
  let (c, s) := if k = 3 then operand x o.c s else ([], s)
  if k = 7 then ((List.range n).map (fun e => laneEnc bf (ofInt (x.col0 + e))), s)
  else if k = 8 then
    ((List.range n).map (fun e => laneEnc bf (.fin false (2 * runDraw x (x.col0 + e) (o.imm % 4) + 1) (-17))), s)
  else if k = 9 then
    let sp := BitVec.ofNat 8 o.imm
    let cs := (List.range n).map (fun e =>
      convert sp 0 (if o.rnd = 1 then some (runDraw x (x.col0 + e) 0) else none) (a.getD e zeroV))
    (cs.map (fun c => laneEnc bf (decode (spCode sp) false c.bits)),
      { s with clip := s.clip + (cs.filter (·.clip)).length, nanrep := s.nanrep + (cs.filter (·.nanrep)).length })
  else
    ((List.range n).map (fun e => laneEnc bf (laneVal o.opc (a.getD e zeroV) (b.getD e zeroV) (c.getD e zeroV))), s)

/-- One operation over one bundle (R317). -/
def runOp (x : RunAt) (o : LOp) (s : RunSt) : RunSt :=
  let bf := rnBf x.d
  let k := lopKind o.opc
  if k = 5 then
    let i := o.imm % 8
    let (b, m) := hallRead (x.l / 8) x.d.part (gaOff (strAddr x.d i) + x.row * strStride x.d i) (strSize x.d i) s.m
    let v := laneDec bf (laneEnc bf (elemVal (strFmt x.d i) 0 b 0))
    { s with m := m, sr := nset 0 s.sr (o.d - 16) (toF32 v) }
  else if k = 6 then streamOut x (o.imm % 8) o.rnd 0 [f32 (nget 0 s.sr (o.a - 16))] s
  else if k = 4 then
    let (a, s) := operand x o.a s
    { s with sr := nset 0 s.sr (o.d - 16) (reduceOp bf o.opc x.act a (nget 0 s.sr (o.d - 16))) }
  else
    let (vs, s) := opValues x o (if lopScalar o then 1 else x.n) s
    if o.d < 16 then { s with vr := vrPutAll bf s.vr o.d vs }
    else if o.d < 24 then { s with sr := nset 0 s.sr (o.d - 16) (toF32 (laneDec bf (vs.getD 0 0))) }
    else streamOut x (o.d - 24) o.rnd x.col0 ((vs.take x.act).map (laneDec bf)) s

/-- Register words in uncorrected error read as their values in error from the operation numbered `elem` on (R223, R322): `row` the
register, `col` the storage word. -/
def regsRead (x : RunAt) (s : RunSt) : RunSt :=
  (x.hits.filter (fun h => h.unc && !h.odd && h.elem = s.ops)).foldl (fun s h =>
    if h.row < 16 then { s with vr := nset 0 s.vr (h.row * 2048 + h.col % 2048) (h.val.setWidth 32) }
    else { s with sr := nset 0 s.sr (h.row % 8) (h.val.setWidth 32) }) s

/-- The register or stream that an operation writes, for R318. -/
def lopRes (o : LOp) : Option Nat :=
  match lopOut o with
  | some i => some (24 + i)
  | none => if lopKind o.opc = 10 || lopKind o.opc = 6 then none else some o.d

/-- Issue cycles that one tile of an operation takes (R311, R314); a scalar operation takes one (R315). -/
def tileCycles (bf : Bool) (o : LOp) : Nat :=
  if lopScalar o then 1
  else if lopDraws o then (if bf then 8 else 4)
  else if bf && 0x10 ≤ o.opc && o.opc ≤ 0x1C then 2 else 1

/-- The issue of one tile that can start in cycle `need` and takes `c` issue cycles: of one that draws, the cycles without lanes are
stalls (R314, R325). Answers the runs with lanes, those without, and the cycle after the last. -/
def issueTile (x : RunAt) (draws : Bool) (c need : Nat) : List (Nat × Nat × Nat) × List (Nat × Nat) × Nat :=
  if draws then grantShare x.ahead 16 c need else ([], [], need + c)

/-- The issue of an operation's tiles (R318). -/
def issueOp (x : RunAt) (o : LOp) (tiles : Nat) (s : RunSt) : RunSt :=
  let n := if lopScalar o then 1 else tiles
  let c := tileCycles (rnBf x.d) o
  let deps := ((lopSrcs o).filter (· < 24) ++ (match lopRes o with
    | some r => [r]
    | none => [])).filterMap (fun r => nfind s.ready r)
  let (times, s') := (List.range n).foldl (fun (a : List Nat × RunSt) j =>
    let s := a.2
    let need := deps.foldl (fun q y => max q (y.1.getD (min j (y.1.length - 1)) 0 + y.2)) s.t
    let g := issueTile x (lopDraws o) c need
    (a.1 ++ [g.2.2 - c], { s with t := g.2.2, dep := s.dep + (need - s.t), draws := s.draws ++ g.1, nst := s.nst ++ g.2.1 })) ([], s)
  let late := lopKind o.opc = 4 || lopKind o.opc = 5 || lopScalar o
  let ready := match lopRes o with
    | some r => nput s.ready r (if late then ([s'.t - 1], lopLat o.opc) else (times, lopLat o.opc))
    | none => s.ready
  { s' with
    ops := s.ops + 1, last := s'.t - 1, lat := times.getLastD 0 + lopLat o.opc, ready := ready
    issues := s.issues ++ [(times.headD 0, s'.dep - s.dep)] }

/-- One bundle of a pass section. -/
def runBundle (x : RunAt) (sec : List LOp) (s : RunSt) : RunSt :=
  sec.foldl (fun s o => issueOp x o (x.n / (if rnBf x.d then 1024 else 512)) (runOp x o (regsRead x s))) s

/-- All rows, pass sections and bundles (R304, R317). -/
def runAll (d : Desc) (l : Nat) (seed : W64) (sc : W32) (ahead : List (List (Nat × Nat × Nat))) (hits : List EccHit)
    (secs : List (List LOp)) (s : RunSt) : RunSt :=
  let bf := rnBf d
  let vl := if bf then 4096 else 2048
  let tl := if bf then 1024 else 512
  (List.range (rnRows d)).foldl (fun s row =>
    let s := { s with sr := (List.range 8).foldl (fun r i => nset 0 r i (BitVec.ofNat 32 (d.f (48 + 4 * i) 4))) [] }
    (List.zip (List.range secs.length) secs).foldl (fun s e =>
      let s := { s with marks := s.marks ++ [(s.t, 8 + e.1)] }
      (List.range (ceilDiv (rnLen d) vl)).foldl (fun s b =>
        let act := min vl (rnLen d - b * vl)
        runBundle { d := d, l := l, seed := seed, sc := sc, ahead := ahead, hits := hits, row := row, col0 := b * vl, act := act, n := ceilDiv act tl * tl } e.2 s) s) s) s

def lndRefuse (l code : Nat) (d : Desc) (m : Module) : Module :=
  let x := m.lnd' l
  bodyRefused 2 l code d (m.setLnd l { x with refused := x.refused + 1 })

/-- ECC errors met by a Landing (R322, R340). -/
def lndEcc (d : Desc) (l : Nat) (hits : List EccHit) (m : Module) : Module :=
  let x := m.lnd' l
  let last := match eccLastHit hits with
    | some h => pack [(h.row % 32, 11), (h.col % 2048, 0)]
    | none => x.eccLast
  eccEvents 7 l d hits (m.setLnd l { x with
    eccC := satAdd x.eccC (eccCount false hits), eccU := satAdd x.eccU (eccCount true hits), eccLast := last })

/-- In full mode the odd Landing runs the descriptor in lockstep (R321): its registers hold what the even one's hold, and its counters
rise as the even one's do. -/
def lndLockstep (l p : Nat) (m0 m : Module) : Module :=
  if fullMode m p && l % 2 = 0 then
    let e := m.lnd' l
    let e0 := m0.lnd' l
    let x := m.lnd' (l + 1)
    m.setLnd (l + 1) { x with
      vr := e.vr, sr := e.sr, busy := x.busy + (e.busy - e0.busy), ops := x.ops + (e.ops - e0.ops)
      stallDep := x.stallDep + (e.stallDep - e0.stallDep), stallHall := x.stallHall + (e.stallHall - e0.stallHall)
      stallNwl := x.stallNwl + (e.stallNwl - e0.stallNwl), clip := satAdd x.clip (e.clip - e0.clip).toNat
      nanrep := satAdd x.nanrep (e.nanrep - e0.nanrep).toNat, lastProgress := e.lastProgress }
  else m

/-- A RUN whose program has loaded and passed its check (R317 to R319): its operations, and the schedule of what follows. The stalls
that the command tells stand in its first cycles, the Hall's first (DESIGN CHOICE, log entry 158); those of its draws follow from the
grant of lanes (R325). -/
def rnStart (l : Nat) (d : Desc) (secs : List (List LOp)) (draws : Bool) (hallStalls nwlStalls : Nat) (ecc : List EccHit) (m : Module) :
    Module :=
  let w := l / 8
  let x := m.lnd' l
  let u := m.clk.cycle
  let ns := if draws then nwlStalls else 0
  let t0 := u + hallStalls + ns + ceilDiv (rnProg d) 32
  let r := runAll d l (seedOf m w d.part (nfld (d.f 47 1) 0 3)) (stepComp m w d.part) (requesters m w (6 + l % 8)) ecc secs
    { vr := x.vr, sr := x.sr, clip := 0, nanrep := 0, written := 0, m := m, t := t0, ready := [], dep := 0, ops := 0,
      last := t0 - 1, lat := t0 - 1, draws := [], nst := [], issues := [], marks := [] }
  let nst := spanOf (u + hallStalls) ns ++ r.nst
  let m := if draws then nwlCount w (drawsLeft 0 r.draws) (spanSum nst) r.m else r.m
  let op : EngOp := { desc := d, startC := u, doneC := max (r.last + 8) r.lat + 1, elems := r.written, clip := r.clip,
                      nanrep := r.nanrep, under := r.ops, amax := 0, hallSt := spanOf u hallStalls, nwlSt := nst, draws := r.draws,
                      issues := r.issues, marks := (u, 4) :: r.marks ++ [(r.last + 1, 12)], failed := false }
  let x := m.lnd' l
  addPLnd d.part (op.doneC - u) ((hallLost w hallStalls m).setLnd l { x with
    op := some op, vr := r.vr, sr := r.sr, busy := x.busy + BitVec.ofNat 64 (op.doneC - u), ops := x.ops + BitVec.ofNat 64 r.ops
    stallDep := x.stallDep + BitVec.ofNat 64 r.dep, stallHall := x.stallHall + BitVec.ofNat 64 hallStalls
    stallNwl := x.stallNwl + BitVec.ofNat 64 (spanSum nst), lastProgress := m.clk.elapsed })

def execRun (l : Fin 16) (hallStalls nwlStalls : Nat) (ecc seedEcc : List EccHit) (errs : List MemErr) (s : State) : Out :=
  if (s.m.lnd' l.val).op.isSome || !canStart s.m 2 l.val then stop "RUN"
  else
    match headOwned s.m 2 l.val with
    | none => stop "RUN"
    | some (k, d) =>
      let m0 := dequeue k s.m
      match runRefusal m0 l.val d with
      | some c => done s (lndRefuse l.val c d m0)
      | none =>
        let w := l.val / 8
        let (prog, m) := hallRead w d.part (gaOff (d.a 16)) (8 * rnProg d) (memErrs d.part errs (descStart 2 l.val d m0))
        match programOf d prog with
        | none => done s (lndRefuse l.val 0x14 d m)
        | some secs =>
          let draws := secs.any (fun sec => sec.any lopDraws)
          let m := if draws then nwlEcc w d seedEcc m else m
          if draws && drawsRefused m w d.part then done s (complete 2 l.val d true (refuseDraw w d m))
          else
            let m := eccBoth d.part l.val ecc (lndEcc d) m
            done s (lndLockstep l.val d.part m0 (rnStart l.val d secs draws hallStalls nwlStalls ecc m))

def execLndComplete (l : Fin 16) (pairDiff : Bool) (s : State) : Out :=
  match (s.m.lnd' l.val).op with
  | none => stop "LND_COMPLETE"
  | some o =>
    let m0 := passToCycle o.doneC s.m
    let x := m0.lnd' l.val
    let m := m0.setLnd l.val { x with
      op := none, clip := satAdd x.clip o.clip, nanrep := satAdd x.nanrep o.nanrep, lastProgress := m0.clk.elapsed }
    let m := lndLockstep l.val o.desc.part m0 m
    let m := if fullMode m o.desc.part && !o.failed then comparePair (l.val / 8) 2 l.val o.elems (b2n pairDiff) o.desc m else m
    done s (complete 2 l.val o.desc o.failed m)

/-- The Landing whose descriptor a Landing runs: the even one for the odd one of a full-mode pair (R321). -/
def lndLead (m : Module) (l : Nat) : Nat :=
  match owner m 1 l with
  | some p => if oddPair m l p then l - 1 else l
  | none => l

/-- What of LND_BUSY, LND_OPS, LND_STALL_DEP, LND_STALL_HALL and LND_STALL_NWL is added and has not come to pass (R340). -/
def lndLeft (now : Nat) (op : Option EngOp) : W64 × W64 × W64 × W64 × W64 :=
  let e := engLeft now op
  let is := match op with
    | some o => o.issues
    | none => []
  (e.1, BitVec.ofNat 64 (is.filter (fun i => now ≤ i.1)).length,
    BitVec.ofNat 64 ((is.map (fun i => spanLeft now (i.1 - i.2) i.1)).sum), e.2.1, e.2.2)

/-- LND_BUSY to LND_CLIP to zero; what has started and not come to pass, `left`, is still to come (R340). -/
def lndClear (left : W64 × W64 × W64 × W64 × W64) (x : Lnd) : Lnd :=
  { x with busy := left.1, ops := left.2.1, stallDep := left.2.2.1, stallHall := left.2.2.2.1, stallNwl := left.2.2.2.2, refused := 0,
           clip := 0, nanrep := 0 }
def lndCntClr (l : Nat) (m : Module) : Module :=
  m.setLnd l (lndClear (lndLeft m.clk.cycle (m.lnd' (lndLead m l)).op) (m.lnd' l))
def execLndCntClr (l : Fin 16) (s : State) : Out := done s (lndCntClr l.val s.m)

end Sys2Proof.Machine
end

