-- ==== Sys2Proof/Machine/Wdg.lean ====
section
/-! DEFINITION. The reset ladder: what the reset of each domain does, and how resets are ordered, escalated, performed, ended
and abandoned (chapter 14, R561 to R569). -/

namespace Sys2Proof.Machine

/-! ### Domains (R37, R562, R566) -/

def engQ (e : Eng) : Nat := engCode e.cls
def engOwner (m : Module) (e : Eng) : Option Nat :=
  match svcOf (engQ e) with
  | some c => owner m c e.idx
  | none => none
def engWing (e : Eng) : Nat := if e.cls = .voteUnit then 0 else qwing (engQ e) e.idx
def engCount (c : EngCls) : Nat := if c = .voteUnit then 1 else qclsCount (engCode c)

/-- Whether two engines are reset together: a Gallery and its Balcony are (R259). -/
def sameEng (a b : Eng) : Bool := decide (a.idx = b.idx) && (engQ a = engQ b || (engQ a ≤ 1 && engQ b ≤ 1))

/-- Whether a domain lies in another (R37, R566). -/
def insideDom (m : Module) (d big : Dom) : Bool :=
  match big, d with
  | .chip, _ => true
  | .wing w, .wing v => v = w
  | .wing w, .partition p => homeWing p.val = w.val
  | .wing w, .context p _ => homeWing p.val = w.val
  | .wing w, .engine e => engWing e = w.val
  | .partition p, .partition q => q = p
  | .partition p, .context q _ => q = p
  | .partition p, .engine e => engOwner m e = some p.val
  | .engine f, .engine e => sameEng e f
  | .context p c, .context q k => q = p && k = c
  | _, _ => false

def domPart (m : Module) (d : Dom) : Nat :=
  match d with
  | .context p _ => p.val
  | .partition p => p.val
  | .engine e => (engOwner m e).getD 31
  | _ => 31
def domUnit (d : Dom) : Nat :=
  match d with
  | .engine e => e.idx
  | .wing w => w.val
  | _ => 0xFFFF
def domCtx (d : Dom) : Nat :=
  match d with
  | .context _ c => c.val
  | _ => 0
def domLevel (d : Dom) : Nat :=
  match d with
  | .context _ _ => 1 | .engine _ => 2 | .partition _ => 3 | .wing _ => 4 | .chip => 5

/-- Whether a command names an existing target (R567). -/
def domExists (m : Module) (d : Dom) : Bool :=
  match d with
  | .context p _ => enabled m p.val
  | .partition p => enabled m p.val
  | .engine e => decide (e.idx < engCount e.cls) && (engQ e > 1 || bit m.fused.galPresent e.idx)
  | _ => true

def runningCovers (m : Module) (d : Dom) : Bool := m.wdg.running.any (fun r => insideDom m d r.dom)
def pendCovers (m : Module) (d : Dom) : Bool := m.wdg.pend.any (fun x => insideDom m d x.2)

def domEv (code sev : Nat) (d : Dom) (det : W64) (m : Module) : Module :=
  ev 0x18 code (domUnit d) sev (domPart m d) (domCtx d) det m

/-! ### Removing descriptors (R136, R563, R564) -/

/-- The descriptors of the queues that meet a condition, in queue order. -/
def queued (m : Module) (sel : QKey → Desc → Bool) : List (QKey × Desc) :=
  m.queues.flatMap (fun x => (x.2.filter (sel x.1)).map (fun d => (x.1, d)))

/-- Removes descriptors from their queues without a count. -/
def dropDescs (sel : QKey → Desc → Bool) (m : Module) : Module :=
  { m with queues := (m.queues.map (fun x => (x.1, x.2.filter (fun d => !sel x.1 d)))).filter (fun x => !x.2.isEmpty) }

/-- Removes descriptors from their queues; each completes with error, which a Flight engine counts (R416). -/
def removeDescs (sel : QKey → Desc → Bool) (m : Module) : Module :=
  (queued m sel).foldl (fun m x =>
    let m := if x.1.cls = 6 then
        let y := m.flt' x.1.idx
        m.setFlt x.1.idx { y with errors := y.errors + 1 }
      else m
    complete x.1.cls x.1.idx x.2 true m) (dropDescs sel m)

/-! ### Context resets (R563) -/

/-- A hart stops, and its stalled instruction is abandoned (R745). -/
def haltHart (h : Hart) : Hart := { h with run := false, on := false, wait := none, bpHalt := false, bpStep := false, bpSkip := false }

/-- Steps 1 to 3 of a context reset; `hold` leaves step 3 out (R563, R570). -/
def ctxReset (p c : Nat) (hold : Bool) (m : Module) : Module :=
  let m := match ctxHart m p c with
    | some hk => m.setHart hk (haltHart (m.hart hk))
    | none => m
  let mine (d : Desc) : Bool := d.part = p && d.ctx = c
  let m := removeDescs (fun k d => k.cls != 10 && mine d) m
  if hold then m
  else
    let m := removeDescs (fun k d => k.cls = 10 && k.sub < 16 && mine d) m
    { m with gates := nset 0 m.gates (p * 8 + c) 0 }

/-- The engines that execute a descriptor of a context, as (class, index) (R562). -/
def ctxEngines (m : Module) (p c : Nat) : List (Nat × Nat) :=
  (List.range 8).flatMap (fun k => ((List.range (qclsCount k)).filter (fun i =>
    (execDescs m k i).any (fun d => d.part = p && d.ctx = c))).map (fun i => (k, i)))

/-- Whether the Vestibule or the mirror engine executes a descriptor of a context: an AWAIT, or a SEND. -/
def ctxWaits (m : Module) (p c : Nat) : Bool :=
  (m.vst' p).awaits.any (fun d => d.ctx = c) || (m.mir' p).send.toList.any (fun o => o.desc.ctx = c)

/-! ### Engine resets (R224, R259, R297, R323, R344, R413, R419, R564, R596) -/

def galReset (x : Gal) : Gal :=
  { galClear (0, 0, 0, 0, 0) x with acc := [], weights := [], chk := [], ops := [], busyTo := 0, lastUpd := 0, rdFree := 0, grpFree := [] }
def balReset (x : Bal) : Bal :=
  { adpClear x with slots := [], scratch := [], tags := [], slice := [], held := none, freeC := 0, ups := [] }
def risReset (x : Ris) : Ris := { risClear (0, 0, 0) x with op := none, sets := [], last := none, lastAt := none }
def winReset (x : Win) : Win := { winClear (0, 0, 0) x with op := none, segment := [] }
def lndReset (x : Lnd) : Lnd := { lndClear (0, 0, 0, 0, 0) x with op := none, vr := [], sr := [] }

/-- The bursts in flight hold their tags until their responses, which are discarded, or their limits (R412, R413). -/
def fltReset (x : Flt) : Flt :=
  { x with
    ops := [], rd := 0, wr := 0, tagsMax := 0, stallTag := 0, stallFrom := none, refused := 0, errors := 0, late := 0
    orphans := x.orphans ++ x.ops.flatMap (fun o => (o.bursts.filter (fun b => b.kind != .held)).map (fun b =>
      ⟨b, o.desc.part, o.desc.ctx, o.desc.seq⟩)) }

/-- The descriptors whose comparison at a wing's Baluster is not yet made (R591, R596): a full-mode Landing or Riser executing, and a
Gallery read-out or an UP that is made and not complete in a checking mode. -/
def pendingCompares (m : Module) (w : Nat) : List (Nat × Nat × Desc) :=
  let checked (d : Desc) : Bool := (prec m d.part).check ≥ 1
  let full (d : Desc) : Bool := (prec m d.part).check = 2
  let g := (List.range 32).flatMap (fun i =>
    (((m.gal' (32 * w + i)).ops.filter (fun o => o.read && checked o.desc)).map (fun o => (0, 32 * w + i, o.desc)))
    ++ (((m.bal' (32 * w + i)).ups.filter (fun o => checked o.desc)).map (fun o => (1, 32 * w + i, o.desc))))
  let l := (List.range 8).flatMap (fun i => ((execDescs m 2 (8 * w + i)).filter full).map (fun d => (2, 8 * w + i, d)))
  let r := (List.range 4).flatMap (fun i => ((execDescs m 3 (4 * w + i)).filter full).map (fun d => (3, 4 * w + i, d)))
  g ++ l ++ r

/-- The descriptor with a given SEQ of an engine will complete with error. -/
def failOp (cls idx : Nat) (seq : W64) (m : Module) : Module :=
  let one (o : EngOp) : EngOp := if o.desc.seq = seq then { o with failed := true } else o
  match cls with
  | 0 => m.setGal idx { m.gal' idx with ops := (m.gal' idx).ops.map (fun o => if o.desc.seq = seq then { o with failed := true } else o) }
  | 1 => m.setBal idx { m.bal' idx with ups := (m.bal' idx).ups.map (fun o => if o.desc.seq = seq then { o with failed := true } else o) }
  | 2 => m.setLnd idx { m.lnd' idx with op := (m.lnd' idx).op.map one }
  | _ => m.setRis idx { m.ris' idx with op := (m.ris' idx).op.map one }

/-- The Baluster discards its pending comparisons and its pattern test (R596). -/
def chkReset (w : Nat) (m : Module) : Module :=
  ptAbort w ((pendingCompares m w).foldl (fun m x =>
    let c := m.chk' w
    let m := m.setChk w { c with lost := satAdd c.lost 1 }
    ev 0x15 2 w 4 x.2.2.part x.2.2.ctx (cmpDetail x.1 x.2.1 x.2.2) (failOp x.1 x.2.1 x.2.2.seq m)) m)

/-- The cycles that a Gallery, or a Landing, loses with what it ran do not count for their partition (R717). -/
def unpassGal (g : Nat) (m : Module) : Module :=
  let n := BitVec.ofNat 64 (busyLeft m.clk.cycle (m.gal' g) (m.bal' g))
  match galPart m g with
  | some p => { m with dbg := { m.dbg with pGal := mapAt 0 m.dbg.pGal p (· - n) } }
  | none => m
def unpassLnd (l : Nat) (m : Module) : Module :=
  match (m.lnd' l).op with
  | some o => { m with dbg := { m.dbg with
      pLnd := mapAt 0 m.dbg.pLnd o.desc.part (· - BitVec.ofNat 64 (opLeft m.clk.cycle opSpan (some o))) } }
  | none => m

/-- Clears an engine's own state. -/
def clearEngine (cls idx : Nat) (m : Module) : Module :=
  match cls with
  | 0 => let m := unpassGal idx m
         m.setGal idx (galReset (m.gal' idx))
  | 1 => m.setBal idx (balReset (m.bal' idx))
  | 2 => let m := unpassLnd idx m
         m.setLnd idx (lndReset (m.lnd' idx))
  | 3 => m.setRis idx (risReset (m.ris' idx))
  | 4 => m.setWin idx (winReset (m.win' idx))
  | 5 => m.setNwl idx { m.nwl' idx with op := none }
  | 6 => m.setFlt idx (fltReset (m.flt' idx))
  | 7 => let m := arcDrop idx (fun _ => true) m
         if idx = 0 then voteDrop (fun _ => true) false m else m
  | 11 => chkReset idx m
  | 12 => voteDrop (fun _ => true) false m
  | _ => m

/-- One engine: what it executes completes with error, then what is queued, then its state clears (R564); an Arcade's operation ends
without completion. -/
def resetUnit (cls idx : Nat) (m : Module) : Module :=
  let m := if cls = 7 then m else (execDescs m cls idx).foldl (fun m d => complete cls idx d true m) m
  clearEngine cls idx (removeDescs (fun k _ => k.cls = cls && k.idx = idx) m)

/-- An engine reset; Gallery n and Balcony n go together (R259). -/
def engineReset (cls idx : Nat) (m : Module) : Module :=
  if cls ≤ 1 then resetUnit 1 idx (resetUnit 0 idx m) else resetUnit cls idx m

/-! ### Partition, wing and chip resets (R125, R136, R327, R329, R366, R382, R508, R522, R562) -/

/-- The event class and unit of a suspect's engine score a verdict (R606). -/
def scoreEngine (k : Nat) (x : Nat × Nat) (m : Module) : Module := score k (evClsOf x.1) x.2 m

/-- Watchdogs paused during a phase count on from where they stood (R574): a hart or a partition of a suspect's partition. -/
def shiftTime (m : Module) (t : Nat) : Nat := t + (m.clk.elapsed - max t m.wdg.phaseAt)

def resumeWatchdogs (m : Module) : Module :=
  let ps := (List.range 16).filter (fun p => m.wdg.suspects.any (fun s => s.part = p))
  ps.foldl (fun m p =>
    let m := (List.range 8).foldl (fun m c => match ctxHart m p c with
      | some hk => m.setHart hk { m.hart hk with lastProgress := shiftTime m (m.hart hk).lastProgress }
      | none => m) m
    { m with wdg := { m.wdg with partProgress := nset 0 m.wdg.partProgress p (shiftTime m (nget 0 m.wdg.partProgress p)) } }) m

/-- The phase ends when no suspect waits or runs (R577). -/
def phaseCheck (m : Module) : Module :=
  let w := m.wdg
  if w.phase && w.suspects.all (fun s => s.verdict ≥ 2) then
    let m := resumeWatchdogs m
    let m := { m with wdg := { m.wdg with phase := false, gapFrom := none, slotOpen := none } }
    if w.suspects.all (fun s => s.verdict = 2) then
      match w.hung with
      | x :: _ => scoreEngine 2 x (ev 0x18 5 x.2 3 31 0 (BitVec.ofNat 64 w.suspects.length) m)
      | [] => m
    else m
  else m

/-- Taints every live step of a partition (R522). -/
def taintAll (p : Nat) (m : Module) : Module := (m.vst' p).slots.foldl (fun m x => taint p x.2.step m) m

/-- The suspects that meet a condition and wait or run are dropped; an open slot of one closes (R583). -/
def dropSuspects (sel : Suspect → Bool) (m : Module) : Module :=
  let w := m.wdg
  let hit (s : Suspect) : Bool := sel s && s.verdict ≤ 1
  let closes := match openSuspect w with
    | some s => hit s
    | none => false
  { m with wdg := { w with
    suspects := w.suspects.map (fun s => if hit s then { s with verdict := 4 } else s)
    slotOpen := if closes then none else w.slotOpen
    gapFrom := if closes then some (beatNow m) else w.gapFrom } }

def resetHart (_ : Hart) : Hart := Hart.init

/-- The harts of a partition's cores start over as after reset, halted. -/
def resetHarts (cores : List Nat) (m : Module) : Module :=
  cores.foldl (fun m c => (List.range 4).foldl (fun m h => m.setHart (4 * c + h) (resetHart (m.hart (4 * c + h)))) m) m

def ownedCores (m : Module) (p : Nat) : List Nat := (List.range 32).filter (fun c => owner m 5 c = some p)

/-- Zeroes a partition's seeds and S in both Newels (R329). -/
def zeroSeeds (p : Nat) (m : Module) : Module :=
  setStepComp p 0 ((List.range 8).foldl (fun m s => setSeed p s 0 m) m)

/-- The descriptors and the engines that a partition reset removes and clears. -/
def partEngines (p : Nat) (m : Module) : Module :=
  let own := ownedEngines m p
  let m := dropDescs (fun k d => (k.cls != 10 && d.part = p) || (k.cls = 10 && k.sub = p)
    || own.any (fun e => e.1 = k.cls && e.2 = k.idx)) m
  let m := own.foldl (fun m e => clearEngine e.1 e.2 m) m
  own.foldl (fun m e => if e.1 = 6 then
      m.setFlt e.2 { m.flt' e.2 with pfFilled := 0, pfUsed := 0, pfTimely := 0, pfWaste := 0, errLast := 0 } else m) m

/-- The work of a partition in the shared engines, which its reset removes. -/
def partShared (p : Nat) (m : Module) : Module :=
  let m := [0, 1].foldl (fun m n => match (m.nwl' n).op with
    | some o => if o.desc.part = p then m.setNwl n { m.nwl' n with op := none } else m
    | none => m) m
  voteDrop (fun q => q = p) true (arcDrop 1 (fun q => q = p) (arcDrop 0 (fun q => q = p) m))

/-- The registers of a partition in the shared units that its reset clears. -/
def partRegs (p : Nat) (m : Module) : Module :=
  let m := [0, 1].foldl (fun m w => m.setChk w { m.chk' w with pmis := nset 0 (m.chk' w).pmis p 0 }) m
  let m := m.setVst p { m.vst' p with awaits := [] }
  m.setMir p { m.mir' p with send := none }

/-- The completion counts and the gates of a partition's contexts, which its reset clears. -/
def partCounts (p : Nat) (m : Module) : Module :=
  { m with
    counts := m.counts.filter (fun x => x.1.1 / 8 != p)
    outstanding := m.outstanding.filter (fun x => x.1 / 8 != p)
    gates := m.gates.filter (fun x => x.1 / 8 != p) }

/-- What a partition reset removes and clears; `seeds` whether its seeds go too (R329). -/
def partClear (p : Nat) (seeds : Bool) (m : Module) : Module :=
  let m := partShared p (partEngines p m)
  let m := resetHarts (ownedCores m p) m
  let m := if seeds then zeroSeeds p m else m
  phaseCheck (dropSuspects (fun s => s.part = p) (taintAll p (partCounts p (partRegs p m))))

def partitionReset (p : Nat) (m : Module) : Module := partClear p true m

/-- The wings that hold a resource of a partition (R562). -/
def partWings (m : Module) (p : Nat) : List Nat :=
  [0, 1].filter (fun w => homeWing p = w || (List.range 9).any (fun c =>
    (List.range (clsCount c)).any (fun u => owner m c u = some p && wingOf c u = w)))

/-- The caches of a wing are lost (R366), with their counters and a command in progress (R20); prefetched sectors not used are wasted
(R409). -/
def loseCaches (w : Nat) (m : Module) : Module :=
  (List.range 16).foldl (fun m p =>
    let c := m.cache p
    if cacheWing m p = w then
      let n := dirtySectors c
      let m := (invalidateCache p m).setCache p PCache.init
      if n > 0 then ev 0x0B 3 (prec m p).hall0.last 4 p 0 (BitVec.ofNat 64 n) m else m
    else m) m

/-- The engines of a wing, as (queue class, index). -/
def wingEngines (w : Nat) : List (Nat × Nat) :=
  [0, 1, 2, 3, 4, 5, 6, 7, 11].flatMap (fun c => (List.range (qclsCount c / 2)).map (fun i => (c, w * (qclsCount c / 2) + i)))

/-- Whether a poison key (`poisonKey`) lies in a unit of a wing whose contents a wing reset loses. -/
def lostKey (w k : Nat) : Bool :=
  let t := k / 2 ^ 60
  t < 2 && (k % 2 ^ 60) * 32 / slotSize t / (tierUnits t / 2) = w

/-- The channel tests of a wing: each ends without DONE; the counts are kept, and the other registers return to their reset values
(R20, R379). -/
def wingTests (w : Nat) (m : Module) : Module :=
  let ks := (m.mem.tg.map (·.1)).filter (fun k => wingOf (chUnit k).1 (chUnit k).2 = w)
  ks.foldl (fun m k =>
    let t := tgGet m k
    let m := if t.running then testHalt k (testProgress k t m) m else m
    let t := tgGet m k
    tgSet k { Tg.init with errs := t.errs, first := t.first, bits := t.bits, passesDone := t.passesDone } m) m

/-- The `n` memory units of tier `t` that wing `w` holds lose their contents. -/
def loseUnits (t n w : Nat) (m : Module) : Module := (List.range n).foldl (fun m i => loseUnit t (n * w + i) m) m

/-- The registers of the `n` memory units of tier `t` that wing `w` holds. -/
def updUnits (t n w : Nat) (f : MemUnit → MemUnit) (m : Module) : Module :=
  (List.range n).foldl (fun m i => updMemUnit t (n * w + i) f m) m

/-- The poison marks of the contents that wing `w` loses. -/
def losePoison (w : Nat) (m : Module) : Module :=
  { m with mem := { m.mem with poison := m.mem.poison.filter (fun x => !lostKey w x.1) } }

/-- The memory of a wing: Hall and fast tier lose their contents, the slow tier refreshes itself; traffic and conflict counters clear;
channel tests end (R41, R379, R382). -/
def wingMemory (w : Nat) (m : Module) : Module :=
  let m := loseUnits 1 128 w (loseUnits 0 256 w (wingTests w m))
  let m := m.setHallW w (hallClear (m.hallW' w))
  let m := updUnits 2 12 w (fun u => { memClear u with selfRefresh := true }) (updUnits 1 4 w (fun u => { memClear u with trained := false }) m)
  losePoison w m

/-- A suspect phase ends with every pending entry dropped (R583). -/
def phaseDrop (m : Module) : Module :=
  let m := dropSuspects (fun _ => true) (if m.wdg.phase then resumeWatchdogs m else m)
  { m with wdg := { m.wdg with phase := false, slotOpen := none, gapFrom := none } }

/-- The Corridor's end in wing `w`, and what the other wing's end reads after it. -/
def corReset (w : Nat) (m : Module) : Module :=
  let m := (m.setCor (1 - w) { m.cor' (1 - w) with status := 0xFF }).setCor w Cor.init
  { m with dbg := { m.dbg with corTx := nset 0 m.dbg.corTx w 0, corRx := nset 0 m.dbg.corRx w 0 } }

/-- A wing reset (R562). -/
def wingReset (w : Nat) (m : Module) : Module :=
  let m := phaseDrop m
  let reached := (List.range 16).filter (fun p => homeWing p != w && (partWings m p).contains w)
  let m := loseCaches w m
  let m := ((List.range 16).filter (fun p => homeWing p = w)).foldl (fun m p => partClear p false m) m
  let m := (wingEngines w).foldl (fun m e => resetUnit e.1 e.2 m) m
  let m := m.setNwl w (nwlClear (0, 0) (m.nwl' w))
  let m := if w = 0 then voteDrop (fun _ => true) true m else m
  let m := m.setChk w { Chk.init with pmis := (m.chk' w).pmis }
  let m := resetHarts ((List.range 16).map (fun i => 16 * w + i)) m
  let m := wingMemory w m
  let m := corReset w m
  reached.foldl (fun m p => taintAll p m) m

/-- A chip reset: both wings, the seeds (R329) and FLT_CTRL (R419). -/
def chipReset (m : Module) : Module :=
  let m := wingReset 1 (wingReset 0 m)
  let m := (List.range 16).foldl (fun m p => zeroSeeds p m) m
  (List.range 32).foldl (fun m f => m.setFlt f { m.flt' f with tmo := Flt.init.tmo, maxShare := Flt.init.maxShare }) m

/-! ### Ordering (R561, R565, R566) -/

/-- One level higher (R562's overrun column, R565); an engine that no partition owns goes to its wing. -/
def oneUp (m : Module) (d : Dom) : List (Dom × Nat) :=
  match d with
  | .context p _ => [(.partition p, 3)]
  | .engine e =>
    match engOwner m e with
    | some p => [(.partition (Fin.ofNat 16 p), 3)]
    | none => [(.wing (Fin.ofNat 2 (engWing e)), 4)]
  | .partition p => (partWings m p.val).map (fun w => (.wing (Fin.ofNat 2 w), 4))
  | .wing _ => [(.chip, 5)]
  | .chip => [(.chip, 6)]

/-- Whether the next reset of a domain goes one level higher (R565). -/
def escalates (m : Module) (d : Dom) (level : Nat) : Bool :=
  let w := m.wdg
  let recent := w.history.filter (fun r => r.dom = d && r.level = level
    && decide (m.clk.elapsed < r.start + w.escWin.toNat * 1024))
  w.escCount != 0 && decide (level ≤ 5) && decide (recent.length ≥ w.escCount.toNat)

/-- A reset at a level waits to be performed, or for a command (R561). -/
def placeOrder (d : Dom) (level cause : Nat) (m : Module) : Module :=
  let w := m.wdg
  if level ≥ 6 then
    if (cause = 2 || w.pwrAuto) && !w.ordered.any (fun o => decide (o.level = 6)) then
      { m with wdg := { w with ordered := w.ordered ++ [{ dom := .chip, level := 6, cause := cause }] } }
    else m
  else if runningCovers m d || (cause != 2 && pendCovers m d) then m
  else if cause != 2 && !bit w.auto (level - 1) then
    { m with wdg := { w with pend := w.pend.filter (fun x => !insideDom m x.2 d) ++ [(level, d)] } }
  else if w.ordered.any (fun o => decide (o.level < 6) && insideDom m d o.dom) then m
  else
    { m with wdg := { w with
      ordered := w.ordered.filter (fun o => o.level = 6 || !insideDom m o.dom d) ++ [{ dom := d, level := level, cause := cause }] } }

/-- A reset is ordered: nothing inside a domain under reset or waiting for a command (R566), one level higher after COUNT resets
within WIN (R565). -/
def orderReset (d : Dom) (level cause : Nat) (m : Module) : Module :=
  if level ≤ 5 && (runningCovers m d || (cause != 2 && pendCovers m d)) then m
  else if escalates m d level then
    let up := oneUp m d
    let hi := match up with
      | x :: _ => x.2
      | [] => level
    let m := domEv 0x0A 2 d (pack [(hi, 4), (level, 0)]) m
    up.foldl (fun m t => placeOrder t.1 t.2 cause m) m
  else placeOrder d level cause m

def wdgBad (m : Module) : Module := { m with wdg := { m.wdg with badCmd := true, badCmdAt := instant m } }

/-! ### Power-cycle requests (R560, R569) -/

/-- Step 1 of R569: 0 escalation, 1 always-on watchdog, 2 command. -/
def powerRequest (cause : Nat) (m : Module) : Module :=
  match m.wdg.pwr with
  | some _ => if cause = 2 then wdgBad m else m
  | none =>
    let m := ev 0x18 0x0B 0xFFFF 6 31 0 (BitVec.ofNat 64 cause) m
    { m with wdg := { m.wdg with pwr := some (cause, m.clk.elapsed) } }

/-! ### Performing -/

def countReset (level : Nat) (w : Wdg) : Wdg :=
  match level with
  | 1 => { w with cntCtx := satAdd w.cntCtx 1 }
  | 2 => { w with cntEng := satAdd w.cntEng 1 }
  | 3 => { w with cntPart := satAdd w.cntPart 1 }
  | 4 => { w with cntWing := satAdd w.cntWing 1 }
  | _ => { w with cntChip := satAdd w.cntChip 1 }

/-- The reset itself. -/
def resetDom (d : Dom) (m : Module) : Module :=
  match d with
  | .context p c => ctxReset p.val c.val false m
  | .engine e => engineReset (engQ e) e.idx m
  | .partition p => partitionReset p.val m
  | .wing w => wingReset w.val m
  | .chip => chipReset m

/-- A reset begins: it is counted and remembered, what waited inside its domain is covered (R566, R567), and it acts. -/
def perform (o : ResetOrder) (m : Module) : Module :=
  if o.level ≥ 6 then powerRequest o.cause m
  else
    let r : ResetRec := { dom := o.dom, level := o.level, start := m.clk.elapsed }
    let w := countReset o.level m.wdg
    let m := { m with wdg := { w with
      pend := w.pend.filter (fun x => !insideDom m x.2 o.dom)
      ordered := w.ordered.filter (fun x => x.level = 6 || !insideDom m x.dom o.dom)
      running := w.running ++ [r]
      history := r :: w.history.filter (fun x => decide (m.clk.elapsed < x.start + w.escWin.toNat * 1024)) } }
    resetDom o.dom m

/-- WDG_RESET_CMD (R567): a domain inside one under reset, or one that does not exist, is refused. -/
def resetCommand (d : Dom) (level : Nat) (m : Module) : Module :=
  if level ≤ 5 && (!domExists m d || runningCovers m d) then wdgBad m
  else if level = 6 && m.wdg.pwr.isSome then wdgBad m
  else orderReset d level 2 m

/-- The domain and level that a write of WDG_RESET_CMD names (R588). -/
def resetTarget (val : W64) : Option (Dom × Nat) :=
  let unit := fld val 32 16
  let part := fld val 19 5
  let eng (c : EngCls) : Option (Dom × Nat) := some (.engine { cls := c, idx := unit }, 2)
  match fld val 0 3 with
  | 1 => if part < 16 then some (.context (Fin.ofNat 16 part) (Fin.ofNat 8 (fld val 16 3)), 1) else none
  | 2 => match fld val 28 4 with
    | 0 => eng .gallery | 1 => eng .balcony | 2 => eng .landing | 3 => eng .riser | 4 => eng .winder | 5 => eng .newel
    | 6 => eng .flight | 7 => eng .arcade | 11 => eng .baluster | _ => none
  | 3 => if part < 16 then some (.partition (Fin.ofNat 16 part), 3) else none
  | 4 => if unit < 2 then some (.wing (Fin.ofNat 2 unit), 4) else none
  | 5 => some (.chip, 5)
  | 6 => some (.chip, 6)
  | _ => none

/-- A write of WDG_RESET_CMD (R588). -/
def resetCmd (val : W64) (m : Module) : Module :=
  match resetTarget val with
  | none => wdgBad m
  | some t => resetCommand t.1 t.2 m

/-- Performs the reset ordered for a domain at a level. -/
def performOrdered (d : Dom) (level : Nat) (m : Module) : Option Module :=
  match m.wdg.ordered.find? (fun o => o.dom = d && o.level = level) with
  | some o => some (perform o { m with wdg := { m.wdg with ordered := m.wdg.ordered.erase o } })
  | none => none

/-- A row of the ladder: the reset ordered for the domain is performed; with none ordered, the row is the command of R567. -/
def resetRow (d : Dom) (level : Nat) (m : Module) : Module :=
  match performOrdered d level m with
  | some m => m
  | none =>
    let m := resetCommand d level m
    match performOrdered d level m with
    | some m => m
    | none => m

def execContextReset (part : Fin 16) (ctx : Fin 8) (s : State) : Out := done s (resetRow (.context part ctx) 1 s.m)
def execEngineReset (cls : EngCls) (idx : Nat) (s : State) : Out := done s (resetRow (.engine { cls := cls, idx := idx }) 2 s.m)
def execPartitionReset (part : Fin 16) (s : State) : Out := done s (resetRow (.partition part) 3 s.m)
def execWingReset (w : Fin 2) (s : State) : Out := done s (resetRow (.wing w) 4 s.m)
def execChipReset (s : State) : Out := done s (resetRow .chip 5 s.m)
def execPowerCycleRequest (s : State) : Out := done s (resetRow .chip 6 s.m)

/-- After 1,024 beats the reset record is written, unless the always-on watchdog asked, and the pin falls (R560, R569). -/
def execPwrcycReqNAssert (s : State) : Out :=
  match s.m.wdg.pwr with
  | none => stop "PWRCYC_REQ_N_ASSERT"
  | some (cause, at_) =>
    if !s.m.tray.pwrcycReqN then stop "PWRCYC_REQ_N_ASSERT"
    else
      let m := passTo (at_ + 1024 * 1024) s.m
      let m := if cause = 1 then m else writeBreath 3 true m
      done s { m with tray := { m.tray with pwrcycReqN := false }, wdg := { m.wdg with pwrLog := m.clk.elapsed } }

/-- The Kerdun controller logs the overdue request every 10 s (R583). -/
def execPwrcycOverdue (s : State) : Out :=
  match s.m.wdg.pwr with
  | none => stop "PWRCYC_OVERDUE"
  | some (cause, _) =>
    if s.m.tray.pwrcycReqN then stop "PWRCYC_OVERDUE"
    else
      let m := passTo (s.m.wdg.pwrLog + 10000000000) s.m
      let e := mkEvent 0x18 0x0B 0xFFFF 6 31 0 (BitVec.ofNat 64 cause) m
      done s { m with
        hlt := { m.hlt with sram := m.hlt.sram ++ [ringRecord e m] }
        wdg := { m.wdg with pwrLog := m.clk.elapsed } }

/-- The always-on watchdog fires (R560). -/
def execAonWatchdogFire (s : State) : Out := done s (if s.m.wdg.pwrAuto then powerRequest 1 s.m else s.m)

/-! ### Ends of resets (R562) -/

/-- Typical durations in beats. -/
def resetBeats (level : Nat) : Nat :=
  match level with
  | 1 => 1 | 2 => 2 | 3 => 64 | 4 => 40000 | _ => 80000

/-- Limits in beats. -/
def resetLimit (m : Module) (level : Nat) : Nat :=
  match level with
  | 1 => max 1 m.wdg.ctxDrain.toNat + 1 | 2 => 16 | 3 => 1024 | 4 => 200000 | _ => 400000

def dropRunning (d : Dom) (m : Module) : Module :=
  { m with wdg := { m.wdg with running := m.wdg.running.filter (fun r => r.dom != d) } }

/-- A wing comes back (R41, R329, R562): its HBM4 channels are trained, its packages leave self-refresh, its Newel copies the seeds
of the other wing's. -/
def wingBack (w : Nat) (m : Module) : Module :=
  let m := (List.range 4).foldl (fun m i => updMemUnit 1 (4 * w + i) (fun u => { u with trained := true }) m) m
  let m := (List.range 12).foldl (fun m i => updMemUnit 2 (12 * w + i) (fun u => { u with selfRefresh := false }) m) m
  let o := m.nwl' (1 - w)
  marginRec 0 w (m.setNwl w { m.nwl' w with seeds := o.seeds, step := o.step, bad := o.bad })

/-- The first hung engine of a phase is back: the gap before slot 0 begins (R572). -/
def phaseGap (d : Dom) (m : Module) : Module :=
  match d with
  | .engine e =>
    if m.wdg.phase && m.wdg.slotOpen.isNone && m.wdg.gapFrom.isNone && m.wdg.hung.contains (engQ e, e.idx) then
      { m with wdg := { m.wdg with gapFrom := some (beatNow m) } }
    else m
  | _ => m

/-- What the end of a reset brings back. -/
def domBack (d : Dom) (m : Module) : Module :=
  match d with
  | .wing w => wingBack w.val m
  | .chip => wingBack 1 (wingBack 0 m)
  | _ => phaseGap d m

def resetEnds (r : ResetRec) (m : Module) : Module :=
  let m := domBack r.dom (dropRunning r.dom m)
  domEv 8 1 r.dom (pack [((m.clk.elapsed - r.start) / 1024, 16), (r.level, 0)]) m

/-- A reset completes, after its typical duration (log entry 23); a context's waits for its executing descriptors (R563 step 4). -/
def execResetDone (d : Dom) (s : State) : Out :=
  match s.m.wdg.running.find? (fun r => r.dom = d) with
  | none => stop "RESET_DONE"
  | some r =>
    let busy := match d with
      | .context p c => !(ctxEngines s.m p.val c.val).isEmpty || ctxWaits s.m p.val c.val
      | _ => false
    if busy then stop "RESET_DONE" else done s (resetEnds r (passTo (r.start + resetBeats r.level * 1024) s.m))

end Sys2Proof.Machine
end

