-- ==== Sys2Proof/Machine/Sus.lean ====
section
/-! DEFINITION. Watchdogs that fire, overruns, suspect phases and slice notices (chapter 14, R556 to R561, R570 to R582). -/

namespace Sys2Proof.Machine

/-! ### Limits (R556, R585) -/

def ctxTmo (w : Wdg) : Nat := if w.ctxTmo = 0 then 0 else max 16 w.ctxTmo.toNat
def engTmo (w : Wdg) : Nat := max 16 w.engTmo.toNat
def partTmo (w : Wdg) : Nat := if w.partTmo = 0 then 0 else max 1024 w.partTmo.toNat
def slotMax (w : Wdg) : Nat := max 1 w.slotMax.toNat

/-! ### Slots (R572, R573, R577) -/

/-- The open slot ends with a verdict. -/
def endSlot (i v : Nat) (m : Module) : Module :=
  let w := m.wdg
  match w.suspects[i]? with
  | none => m
  | some s =>
    { m with wdg := { w with suspects := setAt w.suspects i { s with verdict := v }, slotOpen := none, gapFrom := some (beatNow m) } }

/-- A GUILTY verdict (R573): the suspect is held, and the verdict counts against the engine (R577). -/
def guilty (byMax : Bool) (m : Module) : Module :=
  match m.wdg.slotOpen with
  | none => m
  | some i =>
    match m.wdg.suspects[i]? with
    | none => m
    | some s =>
      let m := endSlot i 3 m
      let m := ctxReset s.part s.ctx true m
      let m := ev 0x18 4 s.unit 4 s.part s.ctx (pack [(b2n byMax, 8), (i, 0)]) m
      scoreEngine 1 (s.cls, s.unit) m

/-- The first suspect that waits. -/
def nextSuspect (w : Wdg) : Option (Nat × Suspect) :=
  match findIdx? (fun s => s.verdict = 0) w.suspects 0 with
  | none => none
  | some i => (w.suspects[i]?).map (fun s => (i, s))

/-- The registers of a hart that a slot restarts (R572). -/
def slotRegs (m : Module) (p : Nat) : NMap W64 :=
  let st := stepOf m p
  let x10 : W64 := if st = noStep then 0xFFFFFFFFFFFFFFFF else st.setWidth 64
  nset 0 (nset 0 [] 10 x10) 11 1

/-- Opens a suspect's slot (R572). -/
def openSlot (i : Nat) (s : Suspect) (m : Module) : Module :=
  let w := m.wdg
  let m := { m with wdg := { w with
    suspects := setAt w.suspects i { s with verdict := 1, exit := false }, slotOpen := some i, slotAt := m.clk.elapsed, gapFrom := none } }
  match ctxHart m s.part s.ctx with
  | none => m
  | some hk =>
    m.setHart hk { haltHart (m.hart hk) with
      run := true
      on := true
      pc := nget 0 w.entries (8 * s.part + s.ctx)
      xs := slotRegs m s.part
      resv := none
      lastProgress := m.clk.elapsed }

def execSlotOpen (s : State) : Out :=
  let w := s.m.wdg
  match w.gapFrom, nextSuspect w with
  | some b, some (i, x) =>
    if w.phase && w.slotOpen.isNone then
      done s (openSlot i x (passToBeat (b + w.slotGap.setWidth 48) s.m))
    else stop "SLOT_OPEN"
  | _, _ => stop "SLOT_OPEN"

/-- The open suspect has reached WDG_EXIT and everything it pushed has completed (R573). -/
def execSuspectClear (s : State) : Out :=
  match s.m.wdg.slotOpen, openSuspect s.m.wdg with
  | some i, some x =>
    if x.exit && nget 0 s.m.outstanding (8 * x.part + x.ctx) = 0 then
      done s (phaseCheck (ev 0x18 3 x.unit 1 x.part x.ctx (BitVec.ofNat 64 i) (endSlot i 2 s.m)))
    else stop "SUSPECT_CLEAR"
  | _, _ => stop "SUSPECT_CLEAR"

def execSlotMaxExpiry (s : State) : Out :=
  match s.m.wdg.slotOpen with
  | none => stop "SLOT_MAX_EXPIRY"
  | some _ => done s (phaseCheck (guilty true (passTo (s.m.wdg.slotAt + slotMax s.m.wdg * 1024) s.m)))

/-! ### Engine hangs (R570, R571, R578) -/

/-- Adds a context to a list unless it is there. -/
def addCtx (l : List (Nat × Nat × Bool)) (d : Desc) (exec : Bool) : List (Nat × Nat × Bool) :=
  if l.any (fun x => x.1 = d.part && x.2.1 = d.ctx) then l else l ++ [(d.part, d.ctx, exec)]

/-- Places a context by partition and then by context. -/
def insertCtx (x : Nat × Nat × Bool) : List (Nat × Nat × Bool) → List (Nat × Nat × Bool)
  | [] => [x]
  | y :: r => if x.1 * 8 + x.2.1 < y.1 * 8 + y.2.1 then x :: y :: r else y :: insertCtx x r

/-- The contexts with a descriptor at an engine: the executing ones first, then the queued ones in order (R570, R571). -/
def engineCtxs (m : Module) (cls idx : Nat) : List (Nat × Nat × Bool) :=
  let ex := (execDescs m cls idx).foldl (fun l d => addCtx l d true) []
  let qs := ((queuesOf m cls idx).flatMap (·.2)).foldl (fun l d => addCtx l d false) ex
  ex ++ (qs.drop ex.length).foldl (fun l x => insertCtx x l) []

/-- Adds the suspects of a hung engine to the table; those beyond the 32nd are dropped, and their partitions reset (R571). -/
def addSuspects (cls idx : Nat) (l : List (Nat × Nat × Bool)) (m : Module) : Module :=
  l.foldl (fun m x =>
    let s : Suspect := { verdict := 0, cls := cls, unit := idx, part := x.1, exec := x.2.2, ctx := x.2.1, exit := false }
    if m.wdg.suspects.length < 32 then { m with wdg := { m.wdg with suspects := m.wdg.suspects ++ [s] } }
    else
      orderReset (.partition (Fin.ofNat 16 x.1)) 3 0 (ev 0x18 0x0E idx 4 x.1 x.2.1 (BitVec.ofNat 64 x.2.1) m)) m

def hangEv (cls idx n : Nat) (m : Module) : Module := ev 0x18 2 idx 2 31 0 (pack [(cls, 52), (n, 0)]) m

/-- Steps 2 to 4 of R570. A second engine's suspects follow those in the table (R578). -/
def startPhase (e : Eng) (l : List (Nat × Nat × Bool)) (m : Module) : Module :=
  let cls := engQ e
  let w := m.wdg
  let m := if w.phase then { m with wdg := { w with hung := w.hung ++ [(cls, e.idx)] } }
    else { m with wdg := { w with phase := true, phaseAt := m.clk.elapsed, hung := [(cls, e.idx)], suspects := [], slotOpen := none, gapFrom := none } }
  let fresh := l.filter (fun x => !m.wdg.suspects.any (fun s => s.part = x.1 && s.ctx = x.2.1))
  let m := addSuspects cls e.idx fresh m
  let m := fresh.foldl (fun m x => ctxReset x.1 x.2.1 true m) m
  phaseCheck (perform { dom := .engine e, level := 2, cause := 0 } m)

/-- An engine hangs (R561, R565, R570, R573, R578); `whole` when a larger reset falls due in the same beat (R583). -/
def engineHang (e : Eng) (whole : Bool) (m : Module) : Module :=
  let cls := engQ e
  let d : Dom := .engine e
  if runningCovers m d || pendCovers m d then m
  else if whole then hangEv cls e.idx 0 m
  else if !bit m.wdg.auto 1 || escalates m d 2 then orderReset d 2 0 (hangEv cls e.idx 0 m)
  else
    let l := engineCtxs m cls e.idx
    let m := hangEv cls e.idx (min 32 l.length) m
    let m := match openSuspect m.wdg with
      | some s => if l.any (fun x => x.1 = s.part && x.2.1 = s.ctx) then guilty false m else m
      | none => m
    startPhase e l m

/-- Whether an engine's watchdog runs (R558): it holds a started descriptor; the Arcade and the vote unit also hold or have received a
packet; the Baluster's descriptor runs within one command. -/
def engineRuns (m : Module) (c : EngCls) (idx : Nat) : Bool :=
  match c with
  | .arcade => (m.arc' idx).op.isSome && (injCount m idx > 0 || m.rte.accepted.any (fun k => k.hdr.ty.toNat = 0x10))
  | .voteUnit => !m.vote.running.isEmpty && (injCount m 0 > 0 || m.rte.accepted.any (fun k => k.hdr.ty.toNat = 0x11))
  | .baluster => false
  | _ => !(execDescs m (engCode c) idx).isEmpty

/-- When an engine last made progress (R558). -/
def engineProgress (m : Module) (c : EngCls) (idx : Nat) : Nat :=
  match c with
  | .gallery => (m.gal' idx).lastProgress
  | .balcony => (m.bal' idx).lastProgress
  | .landing => (m.lnd' idx).lastProgress
  | .riser => (m.ris' idx).lastProgress
  | .winder => (m.win' idx).lastProgress
  | .newel => (m.nwl' idx).lastProgress
  | .flight => (m.flt' idx).lastProgress
  | .arcade => (m.arc' idx).lastProgress
  | .baluster => (m.chk' idx).lastProgress
  | .voteUnit => m.vote.lastProgress

/-! ### Context, partition and wing watchdogs (R556, R557, R559, R560, R574) -/

/-- The running harts of a partition's contexts. -/
def runningCtxs (m : Module) (p : Nat) : List Hart :=
  (List.range 8).filterMap (fun c => match ctxHart m p c with
    | some hk => if (m.hart hk).on then some (m.hart hk) else none
    | none => none)

def holdsSuspect (m : Module) (p : Nat) : Bool := m.wdg.phase && m.wdg.suspects.any (fun s => s.part = p)

/-- Whether a context has a descriptor queued or executing outside the Vestibule, mirror, Arcade and alarm queues (R557). -/
def owesOthers (m : Module) (p c : Nat) : Bool :=
  let mine (d : Desc) : Bool := d.part = p && d.ctx = c
  let far (k : Nat) : Bool := 7 ≤ k && k ≤ 10
  (m.queues.any (fun x => !far x.1.cls && x.2.any mine)) || (ctxEngines m p c).any (fun e => !far e.1)

/-- Whether a context's watchdog runs (R556, R557, R574, R734). -/
def ctxRuns (m : Module) (p c : Nat) (h : Hart) : Bool :=
  let waits := match h.wait with
    | some (.gate _) => true
    | some (.count k _) => 7 ≤ k.cls && k.cls ≤ 10
    | some .fence => !owesOthers m p c
    | _ => false
  let paused := holdsSuspect m p && (match openSuspect m.wdg with
    | some s => !(s.part = p && s.ctx = c)
    | none => true)
  enabled m p && h.on && !h.bpHalt && !waits && !paused && ctxTmo m.wdg != 0

/-- When a partition's watchdog falls due, while it runs (R556, R559, R574, R734). -/
def partDue (m : Module) (p : Nat) : Option Nat :=
  let hs := runningCtxs m p
  let gate (h : Hart) : Bool := match h.wait with
    | some (.gate _) => true
    | _ => false
  if enabled m p && !hs.isEmpty && !hs.all gate && !hs.any (·.bpHalt) && !holdsSuspect m p && partTmo m.wdg != 0 then
    some (nget 0 m.wdg.partProgress p + partTmo m.wdg * 1024)
  else none

def execCtxHang (part : Fin 16) (ctx : Fin 8) (s : State) : Out :=
  match ctxHart s.m part.val ctx.val with
  | none => stop "CTX_HANG"
  | some hk =>
    let h := s.m.hart hk
    if !ctxRuns s.m part.val ctx.val h then stop "CTX_HANG"
    else
      let m := passTo (h.lastProgress + ctxTmo s.m.wdg * 1024) s.m
      let d : Dom := .context part ctx
      if runningCovers m d || pendCovers m d then done s m
      else
        let m := ev 0x18 1 0xFFFF 4 part.val ctx.val h.pc m
        match openSuspect m.wdg with
        | some x =>
          if x.part = part.val && x.ctx = ctx.val then
            let m := guilty false m
            let hungEng : List Eng := ([EngCls.gallery, .balcony, .landing, .riser, .winder, .newel, .flight, .arcade, .baluster, .voteUnit].filter
              (fun c => engCode c = x.cls)).map (fun c => { cls := c, idx := x.unit })
            done s (phaseCheck (hungEng.foldl (fun m e => orderReset (.engine e) 2 0 m) m))
          else done s (orderReset d 1 0 m)
        | none => done s (orderReset d 1 0 m)

def execEngHang (cls : EngCls) (idx : Nat) (s : State) : Out :=
  let e : Eng := { cls := cls, idx := idx }
  if idx < engCount cls && engineRuns s.m cls idx then
    let due := engineProgress s.m cls idx + engTmo s.m.wdg * 1024
    let m := passTo due s.m
    let whole := match engOwner m e with
      | none => false
      | some p => match partDue m p with
        | some t => decide (t / 1024 ≤ m.clk.elapsed / 1024)
        | none => false
    done s (engineHang e whole m)
  else stop "ENG_HANG"

def execPartHang (part : Fin 16) (s : State) : Out :=
  match partDue s.m part.val with
  | none => stop "PART_HANG"
  | some t =>
    let m := passTo t s.m
    let d : Dom := .partition part
    if runningCovers m d || pendCovers m d then done s m
    else done s (orderReset d 3 0 (ev 0x18 6 0xFFFF 5 part.val 0 0 m))

/-- A wing's control network answers no heartbeat (R560); a wing not yet released has no heartbeat to miss. -/
def execWingHang (w : Fin 2) (s : State) : Out :=
  let d : Dom := .wing w
  if !wingUp s.m w.val || pendCovers s.m d then done s s.m
  else done s (orderReset d 4 0 (ev 0x18 7 w.val 5 31 0 (BitVec.ofNat 64 w.val) s.m))

/-! ### Overruns (R562) -/

/-- The engine class of a queue class. -/
def engOfQ (q : Nat) : EngCls :=
  match q with
  | 0 => .gallery | 1 => .balcony | 2 => .landing | 3 => .riser | 4 => .winder | 5 => .newel | 6 => .flight | 7 => .arcade
  | 11 => .baluster | _ => .voteUnit

/-- A reset that has not completed at its limit is abandoned, and the module escalates. -/
def execResetOverrun (d : Dom) (s : State) : Out :=
  match s.m.wdg.running.find? (fun r => r.dom = d) with
  | none => stop "RESET_OVERRUN"
  | some r =>
    let m := passTo (r.start + resetLimit s.m r.level * 1024) s.m
    let abandon (m : Module) : Module := domEv 9 5 d (BitVec.ofNat 64 r.level) (dropRunning d m)
    match d with
    | .context p c =>
      let es := ctxEngines m p.val c.val
      if es.isEmpty && !ctxWaits s.m p.val c.val then stop "RESET_OVERRUN"
      else done s (es.foldl (fun m e => engineHang { cls := engOfQ e.1, idx := e.2 } false m) (abandon m))
    | _ => done s ((oneUp m d).foldl (fun m t => orderReset t.1 t.2 0 m) (abandon m))

/-! ### Slice notices (R579 to R582) -/

/-- Whether a notice of this module has not yet left. -/
def noticeWaits (m : Module) : Bool :=
  m.port.any (fun p => p.2.inj.any (fun x => match x.flits with
    | f :: _ => (match f.hdr with
      | some h => decide (h.ty.toNat = 0x20)
      | none => false)
    | [] => false))

/-- A write of WDG_NOTICE_SEND (R580). -/
def noticeSend (kind : Nat) (m : Module) : Module :=
  if noticeWaits m || kind = 0 || kind > 3 then wdgBad m
  else
    let d := m.wdg.noticeDst
    let aux := pack [(kind, 60), (fld m.wdg.noticeArg 0 48, 0)]
    let k := plainPkt 0x20 0 (fld d 0 13) 0 aux []
    let h : Hdr := { k.hdr with slice := BitVec.ofNat 12 (fld d 48 12), epoch := BitVec.ofNat 8 (fld d 40 8),
                                dstPart := BitVec.ofNat 5 (fld d 32 5) }
    inject 2 { k with hdr := h } m

def execNoticeExtend (s : State) : Out := done s (noticeSend 1 s.m)
def execNoticeAbort (s : State) : Out := done s (noticeSend 2 s.m)
def execNoticeInfo (s : State) : Out := done s (noticeSend 3 s.m)

/-- Whether a chip is one that WDG_NOTICE_SRC names (R581). -/
def noticeFrom (w : Wdg) (chip : Nat) : Bool :=
  (bit w.noticeSrc 63 && decide (fld w.noticeSrc 48 13 = chip)) || (bit w.noticeSrc 31 && decide (fld w.noticeSrc 0 13 = chip))

/-- A notice that passed R462 (R581, R582). -/
def doNotice (k : Pkt) (m : Module) : Module :=
  let h := k.hdr
  let kind := fld h.aux 60 4
  let p := h.dstPart.toNat
  let reject (m : Module) : Module :=
    ev 0x18 0x0D 0xFFFF 2 31 0 (h.srcChip.setWidth 64) { m with wdg := { m.wdg with noticeRej := satAdd m.wdg.noticeRej 1 } }
  if !noticeFrom m.wdg h.srcChip.toNat || kind = 0 || kind > 3 || fld h.aux 48 12 ≠ 0 || k.payload.length ≠ 0 then reject m
  else
    let part := if p < 16 then p else 31
    let m := ev 0x18 0x0C 0xFFFF 1 part 0 (pack [(kind, 60), (fld h.aux 0 48, 0)]) m
    if h.slice = 0xFFF || p ≥ 16 then m
    else if kind = 1 then arcExtend p (fld h.aux 0 32) m
    else if kind = 2 then arcAbort p m
    else m

def execNotice (s : State) : Out :=
  match takeTy 0x20 s.m with
  | none => stop "NOTICE"
  | some (k, m) => done s (doNotice k m)

end Sys2Proof.Machine
end

