-- ==== Sys2Proof/Machine/Pwr.lean ====
section
/-! DEFINITION. Power, throttles, calibration and the hold-up store (chapter 16). -/

namespace Sys2Proof.Machine

def pwrEv (code sev : Nat) (d : W64) (m : Module) : Module := ev 0x1A code 0xFFFF sev 31 0 d m
def setPwr (m : Module) (x : Pwr) : Module := { m with pwr := x }
def setReason (r : Nat) (x : Reason) (m : Module) : Module :=
  { m with pwr := { m.pwr with reasons := nset Reason.init m.pwr.reasons r x } }

/-! ### Throttles (R635 to R637) -/

/-- The deepest level in force since each partition's last STEP, and during each step that a slot holds (R641). -/
def noteDeepest (m : Module) : Module :=
  let l := levelNow m.pwr
  (List.range 16).foldl (fun m p =>
    let v := m.vst' p
    { m.setVst p { v with slots := v.slots.map (fun x => (x.1, { x.2 with deep := max l x.2.deep })) } with
      pwr := { m.pwr with deepest := nset 0 m.pwr.deepest p (max l (nget 0 m.pwr.deepest p)) } }) m

/-- THROTTLE, at most once per reason in each window (R649). -/
def throttleEv (r : Nat) (m : Module) : Module :=
  let x := m.pwr.reason r
  let w := window m
  if x.seenWin = some w then m
  else pwrEv 3 1 (pack [(r, 60), (x.level, 52)]) (setReason r { x with seenWin := some w } m)

/-- A reason's level becomes `n` (limited to what the log entry holds); a level in force that rises from zero alerts the tray (R709). -/
def setLevel (r n : Nat) (m : Module) : Module :=
  let x := m.pwr.reason r
  let n := min 255 n
  let was := levelNow m.pwr
  let m := noteDeepest (setReason r { x with level := n, deepest := max n x.deepest, lastStep := m.clk.elapsed } m)
  if was = 0 && levelNow m.pwr != 0 then trayAlert 0x080 m else m

/-- A reason starts at a level. -/
def startReason (r n : Nat) (m : Module) : Module :=
  let x := m.pwr.reason r
  throttleEv r (setLevel r n (setReason r { x with active := true, level := 0, deepest := 0, start := beatNow m } m))

/-- A reason ends: its entry in the throttle log (R637). -/
def endReason (r : Nat) (m : Module) : Module :=
  let x := m.pwr.reason r
  let h := m.pwr.thrHead
  let w0 := pack [(r, 60), (min 255 x.deepest, 52), (x.start.toNat, 0)]
  let w1 : W64 := (beatNow m - x.start).setWidth 64
  let m := setReason r { x with active := false, level := 0, deepest := 0 } m
  { m with pwr := { m.pwr with thrLog := nput m.pwr.thrLog (h % 256) (w0, w1), thrHead := h + 1 } }

/-- A guard-band alarm is counted (R650). -/
def guardAlarm (m : Module) : Module := { m with pwr := { m.pwr with guard := satAdd m.pwr.guard 1 } }

/-- The level at which a reason starts (R636). -/
def firstLevel (r : Nat) : Nat := if r = 2 then 2 else 1

/-- A reason's cause comes (R636): reason 4 needs a tray limit, reason 5 comes only with a POWER alarm, and each guard-band alarm of
reason 6 counts and raises. -/
def execThrottle (reason : Fin 6) (s : State) : Out :=
  let r := reason.val + 1
  let x := s.m.pwr.reason r
  if r = 6 then
    if x.active then done s (throttleEv 6 (setLevel 6 (x.level + 1) (guardAlarm s.m)))
    else done s (startReason 6 1 (guardAlarm s.m))
  else if r = 5 || x.active || (r = 4 && s.m.pwr.trayLimit = 0) then stop "THROTTLE"
  else done s (startReason r (firstLevel r) s.m)

/-- Beats between two rises of a reason, and the levels of one (R636). -/
def riseBeats (r : Nat) : Nat := if r = 1 || r = 2 then 1 else 16
def riseLevels (r : Nat) : Nat := if r = 2 then 2 else 1
/-- Beats before a reason falls by one level (R636). -/
def fallBeats (r : Nat) : Nat := if r = 1 || r = 2 then 16 else if r = 6 then 1024 else 64

/-- A reason's level rises while its cause lasts, or falls by one when it is clear (R636). -/
def execThrottleLevelChange (reason : Fin 6) (up : Bool) (s : State) : Out :=
  let r := reason.val + 1
  let x := s.m.pwr.reason r
  if !x.active || r ≥ 5 then stop "THROTTLE_LEVEL_CHANGE"
  else if up then
    let m := passTo (x.lastStep + riseBeats r * 1024) s.m
    done s (throttleEv r (setLevel r (x.level + riseLevels r) m))
  else if x.level ≤ 1 then stop "THROTTLE_LEVEL_CHANGE"
  else done s (setLevel r (x.level - 1) (passTo (x.lastStep + fallBeats r * 1024) s.m))

/-- A reason ends (R636, R637): reasons 1 to 4 with their last level, reason 6 after 1,024 beats without an alarm. -/
def execThrottleEnd (reason : Fin 6) (s : State) : Out :=
  let r := reason.val + 1
  let x := s.m.pwr.reason r
  if !x.active || r = 5 || (r ≤ 4 && x.level > 1) then stop "THROTTLE_END"
  else done s (endReason r (passTo (x.lastStep + fallBeats r * 1024) s.m))

/-! ### Gating (R626, R627) -/

/-- Gated Galleries that execute nothing are cleared, with their Balconies; queues stay (R627). -/
def gateSweep (m : Module) : Module :=
  if m.pwr.op < 4 then m
  else (gatedList m).foldl (fun m g =>
    if (execDescs m 0 g).isEmpty && (execDescs m 1 g).isEmpty then
      (m.setGal g (galReset (m.gal' g))).setBal g (balReset (m.bal' g))
    else m) m

/-! ### POWER alarms (R629 to R632, R645) -/

/-- The band of a point: 0 is L (R181, R625). -/
def opBand (op : Nat) : Nat := if op < 4 then 0 else op

/-- A point's calibrated minimum voltage in mV. -/
def calMv (m : Module) (op : Nat) : Nat :=
  match nfind m.pwr.cal op with
  | some x => x.1.toNat
  | none => 0

/-- R630's checks of a POWER alarm, the lowest code first. -/
def powerRefusal (m : Module) (arg : W64) : Option Nat :=
  let kind := fld arg 60 4
  let cap := fld arg 0 11
  let shares := match m.img.active with
    | some t => powerSum t
    | none => 0
  firstCode [
    (1, (kind = 2 || kind = 3) && (cap < 600 || cap > 1400)),
    (2, (kind = 2 || kind = 3) && cap < shares),
    (3, (kind = 1 || kind = 3) && opBand (fld arg 56 3) != opBand m.pwr.op && m.pwr.bandLock)]

def opChangedEv (m : Module) : Module := pwrEv 1 1 (pack [(m.pwr.op, 56), (m.pwr.cap, 0)]) m

/-- The nanoseconds that a change of point takes, in whole beats (R631; log entry 171): the voltage moves 10 mV in each microsecond, after
the beat in which a clock falls, or before the five beats that it settles for; at most 16 beats. -/
def opTime (m : Module) (old new : Nat) : Nat :=
  let a := calMv m old
  let b := calMv m new
  let ramp := (max a b - min a b) * 100
  min 16 (ceilDiv (if opMhz new > opMhz old then ramp + 5 * 1024 else if opMhz new < opMhz old then 1024 + ramp else ramp) 1024) * 1024

/-- A change of point (R631): reason 5 ends, and starts again when a critical-path shift lowers the point (R636); a lower clock comes
at once, a higher one when the voltage has settled. -/
def setPoint (op : Nat) (crit : Bool) (m : Module) : Module :=
  let old := m.pwr.op
  if op = old then m
  else
    let m := gateSweep m
    let m := if (m.pwr.reason 5).active then endReason 5 m else m
    let raise := decide (opMhz op > opMhz m.pwr.clockOp)
    let due := m.clk.elapsed + opTime m old op
    let m := { m with pwr := { m.pwr with
      op := op, clockOp := if raise then m.pwr.clockOp else op, change := some { op := op, raise := raise, due := due } } }
    let m := if crit && op > old then startReason 5 (op - old) m else m
    calDueUpdate (gateSweep m)

/-- The effect of a POWER alarm (R629 to R631, R645). -/
def powerAlarm (arg : W64) (m : Module) : Module :=
  let kind := fld arg 60 4
  let op := fld arg 56 3
  let crit := bit arg 59
  if kind = 4 then
    let x := freeVal m
    let band := fld x.1 0 2
    let m := { x.2 with pwr := { x.2.pwr with loadBand := band } }
    if band < 3 then pwrEv 8 1 (BitVec.ofNat 64 band) m else { m with pwr := { m.pwr with recal := some m.clk.elapsed } }
  else
    match powerRefusal m arg with
    | some c => pwrEv 2 2 (BitVec.ofNat 64 c) m
    | none =>
      let same := decide (op = m.pwr.op)
      let m := if kind = 2 || kind = 3 then { m with pwr := { m.pwr with cap := fld arg 0 11 } } else m
      let m := if kind = 1 || kind = 3 then setPoint op crit m else m
      if kind = 2 || (kind = 3 && same) then opChangedEv m else m

/-- A change of point completes (R631). -/
def execOpChanged (s : State) : Out :=
  match s.m.pwr.change with
  | none => stop "OP_CHANGED"
  | some c =>
    let m := passTo c.due s.m
    done s (opChangedEv { m with pwr := { m.pwr with clockOp := c.op, change := none } })

/-! ### Temperature (R638) -/

def execThermWarn (temp : BitVec 8) (s : State) : Out :=
  if temp.toInt ≥ 105 then done s (pwrEv 4 2 (temp.setWidth 64) { s.m with pwr := { s.m.pwr with temp := temp } }) else ill

/-- The wing clocks stop and THERM_TRIP_N falls. -/
def execThermTrip (temp : BitVec 8) (s : State) : Out :=
  if temp.toInt ≥ 110 then
    let m := pwrEv 5 6 (temp.setWidth 64) { s.m with pwr := { s.m.pwr with temp := temp } }
    done s { m with tray := { m.tray with thermTripN := false }, pwr := { m.pwr with therm := true } }
  else ill

/-! ### Arrival slack (R640, R641) -/

/-- The slack of a step at its commit beat (R640). -/
def slackOf (m : Module) (p : Nat) (n : Beat) : W32 :=
  match slotOfStep (m.vst' p) n with
  | some (_, s) => if s.st = .verified then
      (match s.verifiedBeat with
       | some b => (beatNow m - b).setWidth 32
       | none => 0x80000000)
    else 0x80000000
  | none => 0x80000000

/-- A COMMIT alarm at the PWR block: the slack is recorded and, when asked for, sent (R640, R641). -/
def slackRecord (p : Nat) (n : Beat) (m : Module) : Module :=
  let v := slackOf m p n
  let deep := match slotOfStep (m.vst' p) n with
    | some (_, s) => s.deep
    | none => nget 0 m.pwr.deepest p
  let m := { m with pwr := { m.pwr with slack := nset (0, 0) m.pwr.slack p (n.setWidth 32, v) } }
  if m.pwr.slackTx then
    let body := natLe 6 n.toNat ++ [BitVec.ofNat 8 p, BitVec.ofNat 8 m.pwr.op] ++ natLe 4 v.toNat ++ [BitVec.ofNat 8 deep, 0, 0, 0]
    inject 2 (plainPkt 0x29 3 m.pwr.slackDst.toNat 0 0 body) m
  else m

/-! ### Calibration (R643 to R645) -/

/-- Whether the point in use is LIGHT (R643). -/
def lightNow (m : Module) : Bool :=
  match nfind m.pwr.cal m.pwr.op with
  | some x => x.2.2
  | none => false

/-- The points in use that are LIGHT, a bit for each point (R649; log entry 171). -/
def lightMask (m : Module) : Nat := if lightNow m then 2 ^ m.pwr.op else 0

/-- Sustained full load finds a LIGHT point or a port due for equalisation (R644). -/
def execCalDue (s : State) : Out :=
  if s.m.pwr.calDue || (!lightNow s.m && eqDue s.m = 0) then stop "CAL_DUE"
  else
    let m := { s.m with pwr := { s.m.pwr with calDue := true, loadBand := 3 } }
    done s (pwrEv 6 1 (pack [((eqDue m).toNat, 16), (lightMask m, 0)]) m)

/-- A recalibration ends after 64 beats (R645). -/
def execRecalDone (minMv : BitVec 16) (band : BitVec 2) (s : State) : Out :=
  match s.m.pwr.recal with
  | none => stop "RECAL_DONE"
  | some t =>
    let m := passTo (t + 64 * 1024) s.m
    let m := { m with pwr := { m.pwr with
      cal := nput m.pwr.cal m.pwr.op (minMv, band, false), recal := none, loadBand := band.toNat } }
    done s (calDueUpdate (pwrEv 7 0 (pack [(minMv.toNat, 16), (m.pwr.op, 0)]) m))

/-- The start-up calibration of every point (R643): its voltages are free, and with no load it is LIGHT. -/
def calibrate (m : Module) : Module :=
  (List.range 8).foldl (fun m o =>
    let x := freeVal m
    { x.2 with pwr := { x.2.pwr with cal := nput x.2.pwr.cal o (x.1.setWidth 16, 0, true) } }) m

/-! ### The hold-up store (R646 to R648) -/

/-- The measured voltage falls below 30 V (R647). -/
def execHoldupLow (tenMv : BitVec 16) (s : State) : Out :=
  if tenMv.toNat < 3000 then
    let m := { s.m with pwr := { s.m.pwr with
      derived := BitVec.ofNat 16 (derivedNow s.m), measured := tenMv, measuredAt := s.m.clk.elapsed } }
    done s (pwrEv 0x0A 2 (tenMv.setWidth 64) m)
  else ill

/-- The two voltages differ by more than 2 V for 16 beats (R648). -/
def execHoldupDisagree (derived measured : BitVec 16) (s : State) : Out :=
  let gap := max derived.toNat measured.toNat - min derived.toNat measured.toNat
  if gap > 200 then
    let m := { s.m with pwr := { s.m.pwr with
      derived := measured, measured := measured, measuredAt := s.m.clk.elapsed, disagree := satAdd s.m.pwr.disagree 1 } }
    done s (pwrEv 9 2 (pack [(derived.toNat, 16), (measured.toNat, 0)]) m)
  else ill

end Sys2Proof.Machine
end

