-- ==== Sys2Proof/Machine/Alarm.lean ====
section
/-! DEFINITION. Beat alarms: which alarm fires next, how late it is, and what it does (chapter 3, R120 to R126). -/

namespace Sys2Proof.Machine

/-- The beat-alarm queue of a partition; `modQ` is the module queue. -/
def partQ (p : Nat) : QKey := ⟨10, 0, p⟩
def alarmQ (q : Option (Fin 16)) : QKey :=
  match q with
  | some p => partQ p.val
  | none => modQ

/-- The queues in the order of R123: the module queue, then the partitions'. -/
def alarmQueues : List QKey := modQ :: (List.range 16).map partQ

/-- Nanoseconds from now to the start of a beat; zero or less once it has begun (R106: now is before a beat that is exactly 2^47
ahead). -/
def beatGap (b : Beat) (m : Module) : Int :=
  if atOrAfter (beatNow m) b then -((m.clk.time - BitVec.ofNat 58 (b.toNat * 1024)).toNat : Int)
  else ((BitVec.ofNat 58 (b.toNat * 1024) - m.clk.time).toNat : Int)

/-- How long the head of a queue still waits; none when the queue is empty. -/
def headGap (m : Module) (k : QKey) : Option Int := (queue m k).head?.map (fun d => beatGap (alarmBeat d) m)

/-- The queue whose head fires next (R120 to R123): the earliest beat, and among equal beats the first queue. -/
def nextAlarm (m : Module) : Option QKey :=
  (alarmQueues.foldl (fun (a : Option (Int × QKey)) k =>
    match headGap m k, a with
    | some g, some x => if g < x.1 then some (g, k) else some x
    | some g, none => some (g, k)
    | none, a => a) none).map (·.2)

/-- Whether an apply or a swap comes before alarms of a beat (R124, R465). -/
def applyFirst (m : Module) (b : Beat) : Bool :=
  (m.img.st = .armed && decide (beatGap m.img.armedBeat m ≤ beatGap b m))
  || (m.rte.st = .armed && decide (beatGap m.rte.armedBeat m ≤ beatGap b m))

/-- The lateness of an alarm in nanoseconds (R122): none when only alarms of the same beat, themselves not late, held it back. -/
def lateness (m : Module) (b : Beat) : Nat :=
  if m.beat.lastFireBeat = some b && decide (m.clk.elapsed ≤ m.beat.lastFire + 20) then 0 else (-(beatGap b m)).toNat

/-- The lateness counts of a partition's queue (R122, R139). -/
def countLate (p n : Nat) (m : Module) : Module :=
  { m with beat := { m.beat with
    almLate := mapAt (0, 0) m.beat.almLate p (fun x =>
      (satAdd x.1 1, if x.2.toNat < n then BitVec.ofNat 32 (min n (2 ^ 32 - 1)) else x.2))
    almLateAt := nset none m.beat.almLateAt p (instant m) } }

/-- A late alarm is recorded and counted (R122). -/
def alarmLate (k : QKey) (d : Desc) (n : Nat) (m : Module) : Module :=
  if n = 0 then m
  else if k.sub < 16 then countLate k.sub n (ev 0x03 4 0xFFFF 2 k.sub d.ctx (BitVec.ofNat 64 n) m)
  else ev 0x03 4 0xFFFF 2 31 0 (BitVec.ofNat 64 n) m

/-- The partition that an alarm's records name: none for the module queue. -/
def alarmPart (k : QKey) : Nat := if k.sub < 16 then k.sub else 31

/-- What the actions do (R119, R430, R629, R640). -/
def alarmEffect (k : QKey) (d : Desc) (m : Module) : Module :=
  let p := k.sub
  let arg := alarmArg d
  let n : Beat := arg.setWidth 48
  match alarmAction d with
  | 1 => setGate p d.ctx (fld arg 0 4) m
  | 2 => vstStep p n m
  | 3 => vstCommit p n (slackRecord p n m)
  | 4 => setGate p d.ctx (fld arg 0 4) (ev 0x03 5 0xFFFF 1 p d.ctx arg m)
  | 5 => armCut p n m
  | 6 => powerAlarm arg m
  | 7 => retrainAlarm arg m
  | _ => ev 0x03 8 0xFFFF 0 (alarmPart k) d.ctx arg m

/-- The head of a queue fires: it leaves its queue and completes, lateness is recorded, and its action takes effect. -/
def alarmFires (k : QKey) (d : Desc) (m : Module) : Module :=
  let b := alarmBeat d
  let n := lateness m b
  let m := alarmLate k d n (dequeue k m)
  let m := traceEv 3 (2 ^ 48 * alarmAction d + b.toNat) (alarmPart k) d.ctx 10 (alarmArg d) m
  let m := { m with beat := { m.beat with lastFire := m.clk.elapsed, lastFireBeat := if n = 0 then some b else none } }
  let m := alarmEffect k d m
  if k.sub < 16 then complete 10 0 d false m else m

def execAlarmFire (q : Option (Fin 16)) (s : State) : Out :=
  let k := alarmQ q
  match queue s.m k with
  | [] => stop "ALARM_FIRE"
  | d :: _ =>
    if nextAlarm s.m = some k && !applyFirst s.m (alarmBeat d) then
      done s (alarmFires k d (passToBeat (alarmBeat d) s.m))
    else stop "ALARM_FIRE"

end Sys2Proof.Machine
end

