-- ==== Sys2Proof/Machine/Rv.lean ====
section
/-! DEFINITION. The RV64IMAC instructions of a control core and the engine-queue extension: decoding and arithmetic (chapter 3, R132;
the base instruction set is PRESUMED from the RISC-V unprivileged specification, log entry 26). -/

namespace Sys2Proof.Machine

/-- A decoded instruction. `alu` carries the operation of `aluOp` and whether it works on 32 bits. -/
inductive Rv where
  | lui (rd : Nat) (imm : W64)
  | auipc (rd : Nat) (imm : W64)
  | jal (rd : Nat) (off : W64)
  | jalr (rd rs1 : Nat) (imm : W64)
  | branch (f3 rs1 rs2 : Nat) (off : W64)
  | load (f3 rd rs1 : Nat) (imm : W64)
  | store (f3 rs1 rs2 : Nat) (imm : W64)
  | aluImm (narrow : Bool) (op rd rs1 : Nat) (imm : W64)
  | alu (narrow : Bool) (op rd rs1 rs2 : Nat)
  | fence
  | amo (f5 : Nat) (wide : Bool) (rd rs1 rs2 : Nat)
  | eq (f3 rd rs1 rs2 : Nat)
deriving DecidableEq, Repr

/-- A number's low `w` bits, sign-extended to a register. -/
def sx (x w : Nat) : W64 := BitVec.ofInt 64 (sext x w)

/-! ### 32-bit encodings -/

def immI (w : Nat) : W64 := sx (nfld w 20 12) 12
def immS (w : Nat) : W64 := sx (nfld w 25 7 * 32 + nfld w 7 5) 12
def immB (w : Nat) : W64 := sx (nfld w 31 1 * 4096 + nfld w 7 1 * 2048 + nfld w 25 6 * 32 + nfld w 8 4 * 2) 13
def immU (w : Nat) : W64 := sx (nfld w 12 20 * 4096) 32
def immJ (w : Nat) : W64 := sx (2 ^ 20 * nfld w 31 1 + nfld w 12 8 * 2 ^ 12 + nfld w 20 1 * 2 ^ 11 + nfld w 21 10 * 2) 21

/-- OP-IMM: the shift forms carry their amount in six bits, or five for the narrow ones. -/
def decodeImm (narrow : Bool) (w : Nat) : Option Rv :=
  let rd := nfld w 7 5
  let rs1 := nfld w 15 5
  let f3 := nfld w 12 3
  let n := if narrow then 5 else 6
  let sh := BitVec.ofNat 64 (nfld w 20 n)
  let hi := nfld w (20 + n) (12 - n)
  let alt := if narrow then 0x20 else 0x10
  if f3 = 1 then (if hi = 0 then some (.aluImm narrow 1 rd rs1 sh) else none)
  else if f3 = 5 then
    (if hi = 0 then some (.aluImm narrow 5 rd rs1 sh) else if hi = alt then some (.aluImm narrow 13 rd rs1 sh) else none)
  else if narrow && f3 != 0 then none
  else some (.aluImm narrow f3 rd rs1 (immI w))

/-- OP: base, alternative (subtract, arithmetic shift) and multiply forms. -/
def decodeOp (narrow : Bool) (w : Nat) : Option Rv :=
  let f3 := nfld w 12 3
  let mk (op : Nat) : Option Rv := some (.alu narrow op (nfld w 7 5) (nfld w 15 5) (nfld w 20 5))
  match nfld w 25 7 with
  | 0 => if !narrow || f3 = 0 || f3 = 1 || f3 = 5 then mk f3 else none
  | 0x20 => if f3 = 0 || f3 = 5 then mk (8 + f3) else none
  | 1 => if !narrow || f3 = 0 || f3 ≥ 4 then mk (16 + f3) else none
  | _ => none

def amoCodes : List Nat := [0, 1, 2, 3, 4, 8, 0x0C, 0x10, 0x14, 0x18, 0x1C]

def decode32 (w : Nat) : Option Rv :=
  let rd := nfld w 7 5
  let f3 := nfld w 12 3
  let rs1 := nfld w 15 5
  let rs2 := nfld w 20 5
  match nfld w 0 7 with
  | 0x37 => some (.lui rd (immU w))
  | 0x17 => some (.auipc rd (immU w))
  | 0x6F => some (.jal rd (immJ w))
  | 0x67 => if f3 = 0 then some (.jalr rd rs1 (immI w)) else none
  | 0x63 => if f3 = 2 || f3 = 3 then none else some (.branch f3 rs1 rs2 (immB w))
  | 0x03 => if f3 = 7 then none else some (.load f3 rd rs1 (immI w))
  | 0x23 => if f3 > 3 then none else some (.store f3 rs1 rs2 (immS w))
  | 0x13 => decodeImm false w
  | 0x1B => decodeImm true w
  | 0x33 => decodeOp false w
  | 0x3B => decodeOp true w
  | 0x0F => if f3 = 0 then some .fence else none
  | 0x2F =>
    let f5 := nfld w 27 5
    if (f3 = 2 || f3 = 3) && amoCodes.contains f5 && !(f5 = 2 && rs2 != 0) then some (.amo f5 (f3 = 3) rd rs1 rs2) else none
  | 0x0B => if nfld w 25 7 = 0 && f3 ≤ 5 then some (.eq f3 rd rs1 rs2) else none
  | _ => none

/-! ### 16-bit encodings -/

def decodeC0 (w : Nat) : Option Rv :=
  let rd := 8 + nfld w 2 3
  let rs := 8 + nfld w 7 3
  let offW := BitVec.ofNat 64 (nfld w 10 3 * 8 + nfld w 6 1 * 4 + nfld w 5 1 * 64)
  let offD := BitVec.ofNat 64 (nfld w 10 3 * 8 + nfld w 5 2 * 64)
  match nfld w 13 3 with
  | 0 =>
    let imm := nfld w 11 2 * 16 + nfld w 7 4 * 64 + nfld w 6 1 * 4 + nfld w 5 1 * 8
    if imm = 0 then none else some (.aluImm false 0 rd 2 (BitVec.ofNat 64 imm))
  | 2 => some (.load 2 rd rs offW)
  | 3 => some (.load 3 rd rs offD)
  | 6 => some (.store 2 rs rd offW)
  | 7 => some (.store 3 rs rd offD)
  | _ => none

def immC6 (w : Nat) : W64 := sx (nfld w 12 1 * 32 + nfld w 2 5) 6
def shC (w : Nat) : W64 := BitVec.ofNat 64 (nfld w 12 1 * 32 + nfld w 2 5)

def immCJ (w : Nat) : W64 :=
  sx (nfld w 12 1 * 2048 + nfld w 11 1 * 16 + nfld w 9 2 * 256 + nfld w 8 1 * 1024 + nfld w 7 1 * 64 + nfld w 6 1 * 128
    + nfld w 3 3 * 2 + nfld w 2 1 * 32) 12
def immCB (w : Nat) : W64 :=
  sx (nfld w 12 1 * 256 + nfld w 10 2 * 8 + nfld w 5 2 * 64 + nfld w 3 2 * 2 + nfld w 2 1 * 32) 9

def decodeC1 (w : Nat) : Option Rv :=
  let rd := nfld w 7 5
  let rp := 8 + nfld w 7 3
  let rq := 8 + nfld w 2 3
  match nfld w 13 3 with
  | 0 => some (.aluImm false 0 rd rd (immC6 w))
  | 1 => if rd = 0 then none else some (.aluImm true 0 rd rd (immC6 w))
  | 2 => some (.aluImm false 0 rd 0 (immC6 w))
  | 3 =>
    if rd = 2 then
      let x := nfld w 12 1 * 512 + nfld w 6 1 * 16 + nfld w 5 1 * 64 + nfld w 3 2 * 128 + nfld w 2 1 * 32
      if x = 0 then none else some (.aluImm false 0 2 2 (sx x 10))
    else
      let x := nfld w 12 1 * 2 ^ 17 + nfld w 2 5 * 2 ^ 12
      if x = 0 then none else some (.lui rd (sx x 18))
  | 4 =>
    match nfld w 10 2 with
    | 0 => some (.aluImm false 5 rp rp (shC w))
    | 1 => some (.aluImm false 13 rp rp (shC w))
    | 2 => some (.aluImm false 7 rp rp (immC6 w))
    | _ =>
      match nfld w 12 1 * 4 + nfld w 5 2 with
      | 0 => some (.alu false 8 rp rp rq)
      | 1 => some (.alu false 4 rp rp rq)
      | 2 => some (.alu false 6 rp rp rq)
      | 3 => some (.alu false 7 rp rp rq)
      | 4 => some (.alu true 8 rp rp rq)
      | 5 => some (.alu true 0 rp rp rq)
      | _ => none
  | 5 => some (.jal 0 (immCJ w))
  | 6 => some (.branch 0 rp 0 (immCB w))
  | _ => some (.branch 1 rp 0 (immCB w))

def decodeC2 (w : Nat) : Option Rv :=
  let rd := nfld w 7 5
  let rs2 := nfld w 2 5
  match nfld w 13 3 with
  | 0 => some (.aluImm false 1 rd rd (shC w))
  | 2 => if rd = 0 then none else some (.load 2 rd 2 (BitVec.ofNat 64 (nfld w 12 1 * 32 + nfld w 4 3 * 4 + nfld w 2 2 * 64)))
  | 3 => if rd = 0 then none else some (.load 3 rd 2 (BitVec.ofNat 64 (nfld w 12 1 * 32 + nfld w 5 2 * 8 + nfld w 2 3 * 64)))
  | 4 =>
    if nfld w 12 1 = 0 then
      (if rs2 = 0 then (if rd = 0 then none else some (.jalr 0 rd 0)) else some (.alu false 0 rd 0 rs2))
    else if rs2 = 0 then (if rd = 0 then none else some (.jalr 1 rd 0))
    else some (.alu false 0 rd rd rs2)
  | 6 => some (.store 2 2 rs2 (BitVec.ofNat 64 (nfld w 9 4 * 4 + nfld w 7 2 * 64)))
  | 7 => some (.store 3 2 rs2 (BitVec.ofNat 64 (nfld w 10 3 * 8 + nfld w 7 3 * 64)))
  | _ => none

/-- A 16-bit instruction. -/
def decode16 (w : Nat) : Option Rv :=
  match w % 4 with
  | 0 => decodeC0 w
  | 1 => decodeC1 w
  | _ => decodeC2 w

/-! ### Arithmetic -/

def quotient (a b : Int) : Int := if b = 0 then -1 else Int.tdiv a b
def remainder (a b : Int) : Int := if b = 0 then a else Int.tmod a b

/-- An operation on words of width `n`: 0 to 7 by funct3, 8 subtract, 13 arithmetic shift, 16 to 23 multiply and divide. -/
def aluOp {n : Nat} (op : Nat) (a b : BitVec n) : BitVec n :=
  let sh := b.toNat % n
  match op with
  | 0 => a + b
  | 1 => BitVec.ofNat n (a.toNat * 2 ^ sh)
  | 2 => if a.toInt < b.toInt then 1 else 0
  | 3 => if a.toNat < b.toNat then 1 else 0
  | 4 => a ^^^ b
  | 5 => BitVec.ofNat n (a.toNat / 2 ^ sh)
  | 6 => a ||| b
  | 7 => a &&& b
  | 8 => a - b
  | 13 => BitVec.ofInt n (a.toInt / 2 ^ sh)
  | 16 => a * b
  | 17 => BitVec.ofInt n (a.toInt * b.toInt / 2 ^ n)
  | 18 => BitVec.ofInt n (a.toInt * b.toNat / 2 ^ n)
  | 19 => BitVec.ofNat n (a.toNat * b.toNat / 2 ^ n)
  | 20 => BitVec.ofInt n (quotient a.toInt b.toInt)
  | 21 => if b = 0 then BitVec.ofInt n (-1) else BitVec.ofNat n (a.toNat / b.toNat)
  | 22 => BitVec.ofInt n (remainder a.toInt b.toInt)
  | _ => if b = 0 then a else BitVec.ofNat n (a.toNat % b.toNat)

/-- The same on registers; a narrow one works on the low 32 bits and sign-extends. -/
def rvAlu (narrow : Bool) (op : Nat) (a b : W64) : W64 :=
  if narrow then (aluOp op (a.setWidth 32) (b.setWidth 32)).signExtend 64 else aluOp op a b

/-- Whether a branch is taken. -/
def taken (f3 : Nat) (a b : W64) : Bool :=
  match f3 with
  | 0 => a = b
  | 1 => a != b
  | 4 => decide (a.toInt < b.toInt)
  | 5 => decide (b.toInt ≤ a.toInt)
  | 6 => decide (a.toNat < b.toNat)
  | _ => decide (b.toNat ≤ a.toNat)

/-- The new memory value of an atomic update. -/
def amoVal {n : Nat} (f5 : Nat) (old x : BitVec n) : BitVec n :=
  match f5 with
  | 0 => old + x
  | 1 => x
  | 4 => old ^^^ x
  | 8 => old ||| x
  | 0x0C => old &&& x
  | 0x10 => if old.toInt ≤ x.toInt then old else x
  | 0x14 => if x.toInt ≤ old.toInt then old else x
  | 0x18 => if old.toNat ≤ x.toNat then old else x
  | _ => if x.toNat ≤ old.toNat then old else x

/-- The bytes of a load or store. -/
def accSize (f3 : Nat) : Nat := 2 ^ (f3 % 4)

/-- A loaded value extended to a register. -/
def loadExt (f3 : Nat) (x : Nat) : W64 := if f3 < 3 then sx x (8 * accSize f3) else BitVec.ofNat 64 x

end Sys2Proof.Machine
end

