-- ==== Sys2Proof/Machine/Sec.lean ====
section
/-! DEFINITION. The security lock, keys, attestation and link encryption (chapter 17). -/

namespace Sys2Proof.Machine

def secEv (code sev : Nat) (d : W64) (m : Module) : Module := ev 0x1B code 0xFFFF sev 31 0 d m
def setSec (x : Sec) (m : Module) : Module := { m with sec := x }

/-! ### The lock (R655 to R657) -/

/-- Whether a signing-key slot is enrolled for image use. -/
def imageKeyHeld (m : Module) : Bool := m.sec.keySlots.any (fun x => x.2.st = 1 && bit x.2.use 0)

/-- Whether an enabled partition has CHECK 0. -/
def uncheckedPart (m : Module) : Bool :=
  match m.img.active with
  | some t => t.parts.any (fun r => r.enable && r.check = 0)
  | none => false

/-- R656's conditions, the lowest code first. -/
def lockRefusal (m : Module) : Option Nat :=
  firstCode [(1, m.img.excActive), (2, m.img.st = .checked || m.img.st = .armed), (3, uncheckedPart m), (4, !imageKeyHeld m)]

/-- What the lock stops at once (R730, R736): the trace buffer is discarded and counted, and every hart halted at a breakpoint resumes. -/
def lockEffects (m : Module) : Module :=
  let d := m.dbg
  let m := { m with dbg := { d with lost := satAdd d.lost d.buffer.length, buffer := [], lostNow := 0 } }
  m.harts.foldl (fun m x => if x.2.bpHalt then
    m.setHart x.1 { x.2 with bpHalt := false, bpStep := false, lastProgress := m.clk.elapsed } else m) m

/-- A write of 1 to SEC_LOCK. -/
def secLock (m : Module) : Module :=
  if m.sec.locked then m
  else
    match lockRefusal m with
    | some c => secEv 2 2 (BitVec.ofNat 64 c) (setSec { m.sec with refusal := BitVec.ofNat 8 c } m)
    | none => secEv 1 1 0 (lockEffects (setSec { m.sec with locked := true } m))

def execSecLock (s : State) : Out := done s (secLock s.m)

/-- A write that meets the lock: counted, and recorded at most once in a window (R657, R677). -/
def lkIgnored (off : Nat) (m : Module) : Module :=
  let w := window m
  let x := { m.sec with lkIgn := satAdd m.sec.lkIgn 1, lkSeen := some w }
  if m.sec.lkSeen = some w then setSec x m else secEv 8 2 (BitVec.ofNat 64 off) (setSec x m)

/-! ### Signing keys (R673, R674) -/

def keySlot (m : Module) (i : Nat) : KeySlot := nget KeySlot.init m.sec.keySlots i
def wordsBytes (l : List W64) : List Byte := l.flatMap (fun x => natLe 8 x.toNat)
def keyBytes (m : Module) : List Byte := wordsBytes m.sec.keyData

def keyRefused (code : Nat) (m : Module) : Module :=
  secEv 5 2 (BitVec.ofNat 64 code) (setSec { m.sec with keyStatus := BitVec.ofNat 8 code } m)

/-- ENROL (R674). -/
def enrol (val : W64) (m : Module) : Module :=
  let i := fld val 0 3
  let k := keyBytes m
  let bad := firstCode [(1, (keySlot m i).st = 1), (2, m.sec.locked), (3, !onCurve (beNat (k.take 48)) (beNat (k.drop 48))),
    (4, m.sec.revoked.contains (sha384 k))]
  match bad with
  | some c => keyRefused c m
  | none =>
    let x : KeySlot := { key := k, use := BitVec.ofNat 2 (fld val 8 2), st := 1 }
    secEv 3 1 (BitVec.ofNat 64 i) (setSec { m.sec with keySlots := nput m.sec.keySlots i x } m)

/-- REVOKE (R674). -/
def revoke (val : W64) (m : Module) : Module :=
  let i := fld val 0 3
  let x := keySlot m i
  match firstCode [(5, x.st != 1), (6, m.sec.revoked.length ≥ 64)] with
  | some c => keyRefused c m
  | none =>
    secEv 4 2 (BitVec.ofNat 64 i) (setSec { m.sec with
      keySlots := nput m.sec.keySlots i { x with st := 2 }, revoked := m.sec.revoked ++ [sha384 x.key] } m)

/-- A write of SEC_KEY_CMD (R678). -/
def keyCmd (val : W64) (m : Module) : Module :=
  if fld val 4 2 = 1 then enrol val m else if fld val 4 2 = 2 then revoke val m else m

def execEnrol (val : W64) (s : State) : Out := done s (enrol val s.m)
def execRevoke (val : W64) (s : State) : Out := done s (revoke val s.m)

/-! ### Slice keys and checkpoint keys (R666, R667, R678, R680) -/

def sliceKeys (m : Module) (slice : Nat) : List SKey := m.sec.skeys.filter (fun k => k.slice = slice)

/-- Which held key a load replaces when both positions are full (R667). -/
def keyVictim (m : Module) (slice : Nat) : Option SKey :=
  let ks := sliceKeys m slice
  let old := ks.filter (fun k => k.epoch != curEpoch m slice)
  if ks.length < 2 then none
  else old.foldl (fun a k => match a with
    | none => some k
    | some x => if k.order < x.order then some k else some x) none

/-- A write of SEC_SKEY_CMD (R667, R678); an entry that holds no slice names no key, and the write does nothing. -/
def skeyLoad (val : W64) (m : Module) : Module :=
  let n := fld val 16 4
  let ep : Byte := BitVec.ofNat 8 (fld val 0 8)
  match m.img.active with
  | none => m
  | some t =>
    match t.slices[n]? with
    | none => m
    | some e =>
      let x := m.sec
      let held := (sliceKeys m e.slice).any (fun k => k.epoch = ep)
      let armed := m.rte.st = .armed
      if held || armed then
        setSec { x with skeyAt := instant m, skeyStatus := x.skeyStatus ||| BitVec.ofNat 2 (2 * b2n held + b2n armed) } m
      else
        let kept := match keyVictim m e.slice with
          | some v => x.skeys.erase v
          | none => x.skeys
        let k : SKey := { slice := e.slice, epoch := ep, key := wordsBytes x.skeyData, order := x.skeyOrder, counter := 0 }
        setSec { x with skeys := kept ++ [k], skeyOrder := x.skeyOrder + 1 } m

def execSkeyLoad (val : W64) (s : State) : Out := done s (skeyLoad val s.m)

/-- A write of SEC_CKEY_CMD (R678). -/
def ckeyLoad (p : Nat) (m : Module) : Module := setSec { m.sec with ckeys := nput m.sec.ckeys p (wordsBytes m.sec.ckeyData) } m
def ckeyClear (p : Nat) (m : Module) : Module := setSec { m.sec with ckeys := m.sec.ckeys.filter (fun x => x.1 != p) } m
def ckeyCmd (val : W64) (m : Module) : Module := if bit val 8 then ckeyClear (fld val 0 4) m else ckeyLoad (fld val 0 4) m

def execCkeyLoad (part : Fin 16) (s : State) : Out := done s (ckeyLoad part.val s.m)
def execCkeyClear (part : Fin 16) (s : State) : Out := done s (ckeyClear part.val s.m)

/-! ### Attestation (R671, R672) -/

/-- Bits set in a mask. -/
def popcount (x : Nat) (n : Nat) : Nat := ((List.range n).filter (fun i => x.testBit i)).length

/-- TOP_IDENT (R7). -/
def topIdent (m : Module) : W64 :=
  pack [(9, 32), (m.fused.grade.toNat, 24), (0xA1, 16), (popcount m.fused.galPresent.toNat 32, 8), (1, 0)]

/-- SEC_STATUS (R679). -/
def secStatus (m : Module) : W64 := pack [(m.sec.refusal.toNat, 8), (b2n m.img.excActive, 1), (b2n m.sec.locked, 0)]

/-- A signing-key slot's record, as measured (R672; its layout: log entry 24). -/
def keyRecord (m : Module) (i : Nat) : List Byte :=
  let k := keySlot m i
  slice k.key 0 96 ++ [k.use.setWidth 8, BitVec.ofNat 8 k.st]

def zeroDigest : List Byte := List.replicate 48 0

/-- The partition table section of the applied image, header included (R70). -/
def tableSection (m : Module) : List Byte :=
  match m.img.active with
  | some t => [1, 1, 0, 0] ++ natLe 4 (16 + t.table.length) ++ List.replicate 8 0 ++ t.table
  | none => []

/-- A measurement block (R672) for a requester: a virtual function's partition, or none for the physical function and the management
bus. -/
def measurement (m : Module) (vf : Option Nat) (i : Nat) : List Byte :=
  match i with
  | 1 => slice m.pci.fwDigest 0 48
  | 2 => natLe 4 m.pci.fwVersion.toNat
  | 3 => natLe 8 (topIdent m).toNat ++ natLe 8 m.fused.galPresent.toNat
  | 4 => natLe 8 (secStatus m).toNat
  | 5 => sha384 ((List.range 8).flatMap (keyRecord m))
  | 6 => (List.range 4).flatMap (fun s => match nfind m.hlt.packs s with
      | some p => natLe 8 p.id.toNat ++ natLe 4 p.ver.toNat ++ sha384 p.bytes
      | none => List.replicate 12 0 ++ zeroDigest)
  | 7 => match m.img.active with
      | some t => sha384 t.bytes
      | none => zeroDigest
  | 8 => match vf, m.img.active with
      | some p, some t => slice t.table (128 * p) 128
      | some _, none => List.replicate 128 0
      | none, _ => tableSection m
  | _ => []

def fnPart : Option Fn → Option Nat
  | some (.vf p) => some p.val
  | _ => none

/-- GET_MEASUREMENTS: blocks 1 to 8; index 0 asks for their number, 0xFF for all of them (SPDM 1.2: log entry 25). -/
def measure (fn : Option Fn) (index : Byte) (m : Module) : Module :=
  let i := index.toNat
  let v := fnPart fn
  if i = 0 then emit (.spdm fn 0x60 [8]) m
  else if i = 0xFF then emit (.spdm fn 0x60 ((List.range 8).flatMap (fun k => measurement m v (k + 1)))) m
  else if i ≤ 8 then emit (.spdm fn 0x60 (measurement m v i)) m
  else emit (.spdm fn 0x7F [1]) m

def execGetMeasurements (fn : Option Fn) (index : Byte) (s : State) : Out := done s (measure fn index s.m)

/-- The SPDM 1.2 request codes that the module serves (R671; the codes: log entry 25). -/
def spdmCodes : List Nat := [0x81, 0x82, 0x83, 0x84, 0xE1, 0xE3, 0xE4, 0xE5, 0xE9, 0xEC, 0xFE]

/-- An SPDM request: only version 1.2 is answered (R671). The contents of answers other than measurements are those of the SPDM
specification, which this spec does not repeat: a free value stands for them (log entry 25). -/
def spdm (fn : Option Fn) (version code : Byte) (body : List Byte) (m : Module) : Module :=
  if version != 0x12 then m
  else if code = 0xE0 then measure fn (BitVec.ofNat 8 (le body 1 1)) m
  else if spdmCodes.contains code.toNat then
    let x := freeVal m
    emit (.spdm fn (code &&& 0x7F) (natLe 8 x.1.toNat)) x.2
  else emit (.spdm fn 0x7F [7]) m

def execSpdmRequest (fn : Option Fn) (version : Byte) (code : Byte) (body : List Byte) (s : State) : Out :=
  done s (spdm fn version code body s.m)

/-! ### Link encryption (R670, R711) -/

/-- IDE_KM programs a stream's key and turns the stream on or off (R670). -/
def execIdeKm (stream : Fin 9) (key : List Byte) (on : Bool) (s : State) : Out :=
  if key.length = 32 then
    let x := s.m.pci
    let b : BitVec 9 := BitVec.ofNat 9 (2 ^ stream.val)
    done s { s.m with pci := { x with
      ide := if on then x.ide ||| b else x.ide &&& ~~~b
      ideKeys := if on then nput x.ideKeys stream.val key else x.ideKeys.filter (fun k => k.1 != stream.val) } }
  else ill

/-- A stream fails: it leaves its secure state (R670, R711). -/
def execIdeFail (stream : Fin 9) (s : State) : Out :=
  if bit s.m.pci.ide stream.val then
    let x := s.m.pci
    let m := { s.m with pci := { x with ide := x.ide &&& ~~~(BitVec.ofNat 9 (2 ^ stream.val)) } }
    done s (ev 0x1C 8 0xFFFF 4 31 0 (BitVec.ofNat 64 stream.val) m)
  else stop "IDE_FAIL"

end Sys2Proof.Machine
end

