-- ==== Sys2Proof/Machine/Hart.lean ====
section
/-! DEFINITION. The control cores' harts: their memory, what one instruction does, the engine-queue extension, starting and halting, and
breakpoints (chapter 3, R127 to R138, R745; R731 to R736). -/

namespace Sys2Proof.Machine

def hartKey (core h : Nat) : Nat := 4 * core + h

/-! ### Registers and memory (R129, R130) -/

/-- Register 0 reads as zero and discards writes. -/
def rvGet (h : Hart) (r : Nat) : W64 := if r = 0 then 0 else nget 0 h.xs r
def rvSet (r : Nat) (v : W64) (h : Hart) : Hart := if r = 0 then h else { h with xs := nset 0 h.xs r v }

def hallMap : Nat := 0x100000000

/-- The Hall offset of an address at or above the map's start. -/
def hallOff (a : W64) : Nat := (a - 0x100000000).toNat
def inScratch (a : W64) (n : Nat) : Bool := decide (a.toNat + n ≤ 0x4000)
def inHall (m : Module) (p : Nat) (a : W64) (n : Nat) : Bool :=
  decide (hallMap ≤ a.toNat) && allowed m p 0 (hallOff a) n
def inData (m : Module) (p : Nat) (a : W64) (n : Nat) : Bool := inScratch a n || inHall m p a n

/-- A read by a hart; what nothing has written in the core's data scratch reads as zero (log entry 27). -/
def hartRead (core p : Nat) (a : W64) (n : Nat) (m : Module) : List Byte × Module :=
  if inScratch a n then ((List.range n).map (fun i => nget 0 (m.core core).data (a.toNat + i)), m)
  else hallRead (core / 16) p (hallOff a) n m

def scratchPut : Nat → List Byte → List Host.Cell → List Host.Cell
  | _, [], l => l
  | o, x :: r, l => scratchPut (o + 1) r (nset 0 l o x)

/-- A store breaks the reservations of other harts that it overlaps: those of the core for the scratch, of the partition for the Hall. -/
def breakResv (hk p : Nat) (a : W64) (n : Nat) (m : Module) : Module :=
  m.harts.foldl (fun m x =>
    match x.2.resv with
    | some (b, k) =>
      let same := if inScratch a n then x.1 / 4 = hk / 4 else owner m 5 (x.1 / 4) = some p
      if x.1 != hk && same && b < a.toNat + n && a.toNat < b + k then m.setHart x.1 { x.2 with resv := none } else m
    | none => m) m

def hartWrite (hk p : Nat) (a : W64) (bs : List Byte) (m : Module) : Module :=
  let m := breakResv hk p a bs.length m
  if inScratch a bs.length then
    m.setCore (hk / 4) { m.core (hk / 4) with data := scratchPut a.toNat bs (m.core (hk / 4)).data }
  else hallWrite (hk / 4 / 16) p (hallOff a) bs m

/-! ### How an instruction ends -/

/-- The hart halts with a fault (R130, R148). -/
def hartFault (hk p c : Nat) (a : W64) (m : Module) : Module :=
  let h := m.hart hk
  ev 0x04 2 (hk / 4) 4 p c a (m.setHart hk { h with on := false, faulted := true, faultedAt := instant m, fault := a, wait := none, bpStep := false, bpSkip := false })

/-- A hart that steps over a breakpoint halts again after its instruction (R735). -/
def stepped (h : Hart) : Hart := { h with bpHalt := h.bpStep, bpStep := false, bpSkip := false }

/-- The hart retires an instruction and goes on at `pc` (R557). -/
def retire (hk : Nat) (pc : W64) (m : Module) : Module :=
  m.setHart hk (stepped { m.hart hk with pc := pc, lastProgress := m.clk.elapsed })

/-- The hart retires an instruction that writes a register. -/
def retireReg (hk rd : Nat) (v pc : W64) (m : Module) : Module := retire hk pc (m.setHart hk (rvSet rd v (m.hart hk)))

/-- The hart stalls in its instruction (R135, R557). -/
def stall (hk : Nat) (w : Wait) (m : Module) : Module := m.setHart hk { m.hart hk with wait := some w }

/-- A stalled instruction ends (R557: that restarts no watchdog). -/
def unstall (hk : Nat) (m : Module) : Module :=
  let h := m.hart hk
  m.setHart hk (stepped { h with wait := none, pc := h.pc + 4 })

/-! ### Queue IDs and pushes (R54 to R56, R133 to R135) -/

/-- A queue ID's class and index: bits [63:16] of the register have no meaning and are ignored (DESIGN CHOICE, log entry 150). -/
def qidCls (q : W64) : Nat := fld q 12 4
def qidIdx (q : W64) : Nat := fld q 0 12
def qidOk (q : W64) : Bool := decide (qidIdx q < qclsCount (qidCls q))

/-- The types of a queue class (R54). -/
def tyRange (cls ty : Nat) : Bool :=
  match cls with
  | 0 => ty / 16 = 1 | 1 => ty / 16 = 2 | 2 => ty / 16 = 3 | 3 => ty / 8 = 8 | 4 => ty / 8 = 9 | 5 => ty / 8 = 10 | 6 => ty / 16 = 6
  | 7 => ty / 8 = 14 | 8 => ty / 8 = 16 | 9 => ty / 8 = 17 | 10 => ty / 8 = 18 | 11 => ty / 8 = 19 | _ => false

/-- The checks of a descriptor's own type (R21 to R25, R53, R57). -/
def bodyOk (cls : Nat) (d : Desc) : Bool :=
  match cls with
  | 0 => galPushOk d | 1 => balPushOk d | 2 => lndPushOk d | 3 => risPushOk d | 4 => winPushOk d | 5 => nwlPushOk d
  | 6 => fltPushOk d | 7 => arcPushOk d | 8 => vstPushOk d | 9 => mirPushOk d | 10 => alarmOk false d | 11 => chkPushOk d | _ => false

/-- Whether the queue is one of the issuing partition's (R55, R133): an owned engine must be its own. -/
def queueMine (m : Module) (p cls idx : Nat) : Bool :=
  match svcOf cls with
  | some c => owner m c idx = some p
  | none => true

/-- Whether EQ.PUSH takes a descriptor (R134). -/
def pushAccepted (m : Module) (p c cls idx : Nat) (b : List Byte) : Bool :=
  let d := parseDesc b
  descVersion b = 1 && d.part = p && d.ctx = c && d.len = b.length && tyRange cls d.ty.toNat && queueMine m p cls idx && bodyOk cls d

/-- A refused push: rd is 1, and DESC_REFUSED (R134). -/
def pushRefused (hk p c rd : Nat) (det : W64) (m : Module) : Module :=
  retireReg hk rd 1 ((m.hart hk).pc + 4) (ev 0x04 1 (hk / 4) 2 p c det m)

/-- The wing of an engine's queue; the queues of the always-on domain are on no wing of their own, and reached from every core's (R133). -/
def queueWing (k : QKey) (w : Nat) : Nat := if k.cls ≤ 7 || k.cls = 11 then k.idx / (qclsCount k.cls / 2) else w

/-- Puts an accepted descriptor into its queue; `w` the wing of the control core that pushes it, from which it may cross the Corridor
(R33). -/
def pushInto (w : Nat) (k : QKey) (d : Desc) (m : Module) : Module :=
  let m := enqueue k d { m with dbg := m.dbg.cross w (queueWing k w) d.len }
  { m with outstanding := mapAt 0 m.outstanding (d.part * 8 + d.ctx) (· + 1) }

def queueFull (m : Module) (k : QKey) : Bool := decide ((queue m k).length ≥ queueDepth k)

/-- EQ.PUSH (R132 to R135). The VERSION of the header comes before the LENGTH, which a header of another version does not give (R24).
A descriptor outside the Hall banks of the partition, the data scratch among them, is an access outside the memory of R129 (DESIGN
CHOICE, log entry 151). -/
def eqPush (hk p c rd : Nat) (a q : W64) (m : Module) : Module :=
  if !qidOk q then pushRefused hk p c rd 0xFFFFFFFFFFFFFFFF m
  else if !inHall m p a 16 then hartFault hk p c a m
  else
    let w := hk / 4 / 16
    let x := hallRead w p (hallOff a) 16 m
    let m := x.2
    let len := (parseDesc x.1).len
    if descVersion x.1 != 1 || len < 16 || len % 16 != 0 || len > 512 then pushRefused hk p c rd (parseDesc x.1).seq m
    else if !inHall m p a len then hartFault hk p c a m
    else
      let y := hallRead w p (hallOff a) len m
      let m := y.2
      let d := parseDesc y.1
      let k := queueFor (qidCls q) (qidIdx q) p c
      if !pushAccepted m p c (qidCls q) (qidIdx q) y.1 then pushRefused hk p c rd d.seq m
      else if queueFull m k then stall hk (.push k d rd) m
      else retireReg hk rd 0 ((m.hart hk).pc + 4) (pushInto w k d m)

/-! ### The other engine-queue instructions (R132, R136) -/

/-- The completion count that a queue ID names; a reserved ID names none, and its count is free (log entry 28). -/
def qidCount (p c : Nat) (q : W64) (m : Module) : W32 × Module :=
  if qidOk q then (count m p c (qidCls q) (qidIdx q), m)
  else
    let x := freeVal m
    (x.1.setWidth 32, x.2)

/-- Whether a count is at or past another (R136). -/
def countPast (a n : W32) : Bool := decide ((a - n).toNat < 2 ^ 31)

/-- EQ.WAIT; a count has 32 bits, and bits [63:32] of rs2 are ignored (DESIGN CHOICE, log entry 152). -/
def eqWait (hk p c : Nat) (q n : W64) (m : Module) : Module :=
  let x := qidCount p c q m
  if countPast x.1 (n.setWidth 32) then retire hk ((x.2.hart hk).pc + 4) x.2
  else stall hk (.count ⟨qidCls q, qidIdx q, 0⟩ (n.setWidth 32)) x.2

def eqPoll (hk p c rd : Nat) (q : W64) (m : Module) : Module :=
  let x := qidCount p c q m
  retireReg hk rd (x.1.setWidth 64) ((x.2.hart hk).pc + 4) x.2

def gateSet (m : Module) (p c g : Nat) : Bool := bit (nget 0 m.gates (8 * p + c)) g
def clearGate (p c g : Nat) (m : Module) : Module :=
  { m with gates := nset 0 m.gates (8 * p + c) (nget 0 m.gates (8 * p + c) &&& ~~~(BitVec.ofNat 16 (2 ^ g))) }

def eqGate (hk p c g : Nat) (m : Module) : Module :=
  if gateSet m p c g then retire hk ((m.hart hk).pc + 4) (clearGate p c g m) else stall hk (.gate g) m

def eqBeat (hk rd : Nat) (m : Module) : Module := retireReg hk rd (m.clk.time.setWidth 64) ((m.hart hk).pc + 4) m

/-- Whether everything a context has pushed has completed. -/
def fenceDone (m : Module) (p c : Nat) : Bool := nget 0 m.outstanding (8 * p + c) = 0

def eqFence (hk p c : Nat) (m : Module) : Module :=
  if fenceDone m p c then retire hk ((m.hart hk).pc + 4) m else stall hk .fence m

/-! ### Executing one instruction -/

def rvLoad (hk p c len f3 rd : Nat) (a : W64) (m : Module) : Module :=
  let n := accSize f3
  if a.toNat % n != 0 || !inData m p a n then hartFault hk p c a m
  else
    let x := hartRead (hk / 4) p a n m
    retireReg hk rd (loadExt f3 (leNat x.1)) ((m.hart hk).pc + BitVec.ofNat 64 len) x.2

def rvStore (hk p c len f3 : Nat) (a v : W64) (m : Module) : Module :=
  let n := accSize f3
  if a.toNat % n != 0 || !inData m p a n then hartFault hk p c a m
  else retire hk ((m.hart hk).pc + BitVec.ofNat 64 len) (hartWrite hk p a (natLe n v.toNat) m)

/-- LR, SC and the atomic updates (the A extension). -/
def rvAmo (hk p c f5 : Nat) (wide : Bool) (rd : Nat) (a v : W64) (m : Module) : Module :=
  let n := if wide then 8 else 4
  let pc := (m.hart hk).pc + 4
  if a.toNat % n != 0 || !inData m p a n then hartFault hk p c a m
  else
    let f3 := if wide then 3 else 2
    if f5 = 3 then
      let ok := (m.hart hk).resv = some (a.toNat, n)
      let m := m.setHart hk { m.hart hk with resv := none }
      if ok then retireReg hk rd 0 pc (hartWrite hk p a (natLe n v.toNat) m) else retireReg hk rd 1 pc m
    else
      let x := hartRead (hk / 4) p a n m
      let old := leNat x.1
      if f5 = 2 then
        retireReg hk rd (loadExt f3 old) pc (x.2.setHart hk { x.2.hart hk with resv := some (a.toNat, n) })
      else
        let new := if wide then (amoVal f5 (BitVec.ofNat 64 old) v).toNat else (amoVal f5 (BitVec.ofNat 32 old) (v.setWidth 32)).toNat
        retireReg hk rd (loadExt f3 old) pc (hartWrite hk p a (natLe n new) x.2)

/-- The engine-queue instructions by funct3. -/
def rvEq (hk p c f3 rd : Nat) (a b : W64) (m : Module) : Module :=
  match f3 with
  | 0 => eqPush hk p c rd a b m
  | 1 => eqWait hk p c a b m
  | 2 => eqPoll hk p c rd a m
  | 3 => eqGate hk p c (fld a 0 4) m
  | 4 => eqBeat hk rd m
  | _ => eqFence hk p c m

/-- What an instruction of `len` bytes does (R131, R132). -/
def rvExec (hk p c len : Nat) (i : Rv) (m : Module) : Module :=
  let h := m.hart hk
  let next := h.pc + BitVec.ofNat 64 len
  let x (r : Nat) : W64 := rvGet h r
  match i with
  | .lui rd imm => retireReg hk rd imm next m
  | .auipc rd imm => retireReg hk rd (h.pc + imm) next m
  | .jal rd off => retireReg hk rd next (h.pc + off) m
  | .jalr rd rs1 imm => retireReg hk rd next ((x rs1 + imm) &&& ~~~1) m
  | .branch f3 rs1 rs2 off => retire hk (if taken f3 (x rs1) (x rs2) then h.pc + off else next) m
  | .load f3 rd rs1 imm => rvLoad hk p c len f3 rd (x rs1 + imm) m
  | .store f3 rs1 rs2 imm => rvStore hk p c len f3 (x rs1 + imm) (x rs2) m
  | .aluImm w op rd rs1 imm => retireReg hk rd (rvAlu w op (x rs1) imm) next m
  | .alu w op rd rs1 rs2 => retireReg hk rd (rvAlu w op (x rs1) (x rs2)) next m
  | .fence => retire hk next m
  | .amo f5 w rd rs1 rs2 => rvAmo hk p c f5 w rd (x rs1) (x rs2) m
  | .eq f3 rd rs1 rs2 => rvEq hk p c f3 rd (x rs1) (x rs2) m

/-! ### Fetching (R129, R130, R573, R731) -/

/-- What a fetch finds: an address it may not fetch from, no instruction, or an instruction and its length. -/
inductive Fetched where
  | bad (a : W64)
  | illegal
  | op (i : Rv) (len : Nat)
deriving DecidableEq, Repr

/-- The instruction cache's size in halfwords (R129). -/
def icacheCap : Nat := 8192

/-- Puts a fetched halfword into a core's instruction cache; a full cache gives up the entry at a position that is free (log entry 119). -/
def icachePut (core h : Nat) (bs : List Byte) (m : Module) : Module :=
  let x := m.core core
  if x.icache.length < icacheCap || (nfind x.icache h).isSome then m.setCore core { x with icache := nput x.icache h bs }
  else
    let v := freeVal m
    v.2.setCore core { x with icache := nput (x.icache.eraseIdx (v.1.toNat % x.icache.length)) h bs }

/-- A halfword of the Hall as a core fetches it (R129): where its instruction cache holds other bytes than the Hall now has, which of
the two it gets is free, since no rule says when the cache looks at the Hall again (log entry 119). -/
def fetchHalf (core p off : Nat) (m : Module) : Nat × Module :=
  let x := hallRead (core / 16) p off 2 m
  match nfind (m.core core).icache (off / 2) with
  | none => (leNat x.1, icachePut core (off / 2) x.1 x.2)
  | some old =>
    if old = x.1 then (leNat x.1, x.2)
    else
      let v := freeVal x.2
      if bit v.1 0 then (leNat old, v.2) else (leNat x.1, icachePut core (off / 2) x.1 v.2)

def fetchInstr (core p : Nat) (pc : W64) (m : Module) : Fetched × Module :=
  if pc.toNat % 2 != 0 || !inHall m p pc 2 then (.bad pc, m)
  else
    let x := fetchHalf core p (hallOff pc) m
    let lo := x.1
    if lo % 4 != 3 then
      (match decode16 lo with
       | some i => .op i 2
       | none => .illegal, x.2)
    else if !inHall m p (pc + 2) 2 then (.bad (pc + 2), x.2)
    else
      let y := fetchHalf core p (hallOff (pc + 2)) x.2
      (match decode32 (lo + 65536 * y.1) with
       | some i => .op i 4
       | none => .illegal, y.2)

/-- The partition and context of a hart that can issue (R127, R734): it runs, is not halted and is not stalled. -/
def hartReady (m : Module) (hk : Nat) : Option (Nat × Nat) :=
  let h := m.hart hk
  if h.on && !h.bpHalt && h.wait.isNone && wingUp m (hk / 64) && m.tray.thermTripN then hartCtx m hk else none

/-- Whether a hart's comparator meets its next fetch (R731, R736). -/
def bpMeets (m : Module) (hk : Nat) : Bool :=
  let b := nget 0 m.dbg.bp hk
  let h := m.hart hk
  !m.sec.locked && bit b 63 && !h.bpSkip && h.pc.toNat = fld b 2 38 * 4

def haltAtBp (h : Hart) : Hart := { h with bpHalt := true, bpStep := false, bpSkip := false }

/-- A breakpoint is met (R731, R732): the hart halts, with SCOPE 1 every running hart of its partition too. -/
def bpHit (hk p c : Nat) (m : Module) : Module :=
  let h := m.hart hk
  let others := if bit (nget 0 m.dbg.bp hk) 62 then
      (List.range 8).filterMap (fun k => match ctxHart m p k with
        | some x => if (m.hart x).on then some x else none
        | none => none)
    else []
  let m := (hk :: others).foldl (fun m x => m.setHart x (haltAtBp (m.hart x))) m
  let m := { m with dbg := { m.dbg with hitAt := nset 0 m.dbg.hitAt p (m.clk.elapsed + 1) } }
  let m := traceEv 6 (2 ^ 32 * (hk / 4) + hk % 4) p c 0 h.pc m
  ev 0x1D 3 (hk / 4) 1 p c (pack [(fld h.pc 2 38, 2), (hk % 4, 0)]) m

/-- The open suspect's hart fetches from its WDG_EXIT (R573). -/
def noteExit (hk p c : Nat) (m : Module) : Module :=
  match m.wdg.slotOpen, openSuspect m.wdg with
  | some i, some s =>
    if s.part = p && s.ctx = c && (m.hart hk).pc = nget 0 m.wdg.exits (8 * p + c) then
      { m with wdg := { m.wdg with suspects := setAt m.wdg.suspects i { s with exit := true } } }
    else m
  | _, _ => m

/-- A ready hart's next instruction. -/
def hartStep (hk p c : Nat) (m : Module) : Module :=
  if bpMeets m hk then bpHit hk p c m
  else
    let m := noteExit hk p c m
    let pc := (m.hart hk).pc
    match fetchInstr (hk / 4) p pc m with
    | (.bad a, m) => hartFault hk p c a m
    | (.illegal, m) => hartFault hk p c pc m
    | (.op i len, m) => rvExec hk p c len i m

/-- Whether the issue slot comes to a hart (R127): no hart between the one that issued last and it, in the round-robin order, can issue.
`waits` are the harts that wait for their instruction fetch or a data access. -/
def slotTurn (m : Module) (core h : Nat) (waits : BitVec 4) : Bool :=
  let last := (m.core core).last
  (List.range ((h + 3 - last) % 4)).all (fun i =>
    let x := (last + 1 + i) % 4
    bit waits x || (hartReady m (hartKey core x)).isNone)

/-- The partition and context of the hart that issues in this cycle, when it is the one named (R127). -/
def issues (m : Module) (core h : Nat) (waits : BitVec 4) : Option (Nat × Nat) :=
  if !bit waits h && slotTurn m core h waits then hartReady m (hartKey core h) else none

/-- The hart has issued. -/
def issued (core h : Nat) (m : Module) : Module := m.setCore core { m.core core with last := h }

def execHartInstruction (core : Fin 32) (hart : Fin 4) (waits : BitVec 4) (s : State) : Out :=
  match issues s.m core.val hart.val waits with
  | none => stop "HART_INSTRUCTION"
  | some (p, c) => done s (hartStep (hartKey core.val hart.val) p c (issued core.val hart.val s.m))

/-- Whether a hart's next instruction is the engine-queue instruction with a funct3. -/
def nextIsEq (hk p f3 : Nat) (m : Module) : Bool :=
  !bpMeets m hk && (match (fetchInstr (hk / 4) p (m.hart hk).pc m).1 with
    | .op (.eq g _ _ _) _ => g = f3
    | _ => false)

/-- A row of the extension: the hart's next instruction, when it is the one named. -/
def eqRow (row : String) (f3 : Nat) (core : Fin 32) (hart : Fin 4) (waits : BitVec 4) (s : State) : Out :=
  let hk := hartKey core.val hart.val
  match issues s.m core.val hart.val waits with
  | none => stop row
  | some (p, c) => if nextIsEq hk p f3 s.m then done s (hartStep hk p c (issued core.val hart.val s.m)) else stop row

def execEqPush (core : Fin 32) (hart : Fin 4) (waits : BitVec 4) (s : State) : Out := eqRow "EQ_PUSH" 0 core hart waits s
def execEqWait (core : Fin 32) (hart : Fin 4) (waits : BitVec 4) (s : State) : Out := eqRow "EQ_WAIT" 1 core hart waits s
def execEqPoll (core : Fin 32) (hart : Fin 4) (waits : BitVec 4) (s : State) : Out := eqRow "EQ_POLL" 2 core hart waits s
def execEqGate (core : Fin 32) (hart : Fin 4) (waits : BitVec 4) (s : State) : Out := eqRow "EQ_GATE" 3 core hart waits s
def execEqBeat (core : Fin 32) (hart : Fin 4) (waits : BitVec 4) (s : State) : Out := eqRow "EQ_BEAT" 4 core hart waits s
def execEqFence (core : Fin 32) (hart : Fin 4) (waits : BitVec 4) (s : State) : Out := eqRow "EQ_FENCE" 5 core hart waits s

/-! ### Stalls that end (R132, R135, R136) -/

/-- What a stalled hart waits for, while its stall can end: it runs and is not halted at a breakpoint (R732). -/
def waiting (m : Module) (hk : Nat) : Option (Wait × Nat × Nat) :=
  let h := m.hart hk
  if h.on && !h.bpHalt && wingUp m (hk / 64) && m.tray.thermTripN then
    match h.wait, hartCtx m hk with
    | some w, some (p, c) => some (w, p, c)
    | _, _ => none
  else none

/-- A stalled push ends when its queue has room; a queue whose unit the partition no longer owns refuses it (R89). -/
def execEqPushStallEnd (core : Fin 32) (hart : Fin 4) (s : State) : Out :=
  let hk := hartKey core.val hart.val
  match waiting s.m hk with
  | some (.push k d rd, p, c) =>
    if !queueMine s.m p k.cls k.idx then
      let m := ev 0x04 1 (hk / 4) 2 p c d.seq s.m
      done s (unstall hk (m.setHart hk (rvSet rd 1 (m.hart hk))))
    else if queueFull s.m k then stop "EQ_PUSH_STALL_END"
    else
      let m := pushInto (core.val / 16) k d s.m
      done s (unstall hk (m.setHart hk (rvSet rd 0 (m.hart hk))))
  | _ => stop "EQ_PUSH_STALL_END"

/-- The wait ends when the count is reached; for a reserved queue ID the count is free (log entry 28). -/
def execEqWaitSatisfied (core : Fin 32) (hart : Fin 4) (s : State) : Out :=
  let hk := hartKey core.val hart.val
  match waiting s.m hk with
  | some (.count k n, p, c) =>
    let x := qidCount p c (BitVec.ofNat 64 (k.cls * 4096 + k.idx)) s.m
    if countPast x.1 n then done s (unstall hk x.2) else stop "EQ_WAIT_SATISFIED"
  | _ => stop "EQ_WAIT_SATISFIED"

def execEqGateSatisfied (core : Fin 32) (hart : Fin 4) (s : State) : Out :=
  let hk := hartKey core.val hart.val
  match waiting s.m hk with
  | some (.gate g, p, c) => if gateSet s.m p c g then done s (unstall hk (clearGate p c g s.m)) else stop "EQ_GATE_SATISFIED"
  | _ => stop "EQ_GATE_SATISFIED"

def execEqFenceSatisfied (core : Fin 32) (hart : Fin 4) (s : State) : Out :=
  let hk := hartKey core.val hart.val
  match waiting s.m hk with
  | some (.fence, p, c) => if fenceDone s.m p c then done s (unstall hk s.m) else stop "EQ_FENCE_SATISFIED"
  | _ => stop "EQ_FENCE_SATISFIED"

/-! ### Starting and halting (R146, R147, R745) -/

/-- A RUN bit goes from 0 to 1; ignored while no enabled partition owns the core. The first running hart of a partition starts its
partition's watchdog (R556). Until stage READY it is ignored too (R694). -/
def hartStart (hk : Nat) (m : Module) : Module :=
  let h := m.hart hk
  match owner m 5 (hk / 4) with
  | none => m
  | some p =>
    if h.run || m.pci.stage != 8 then m
    else
      let first := (runningCtxs m p).isEmpty
      let m := m.setHart hk { haltHart h with
        run := true
        on := true
        bpSkip := false
        pc := h.boot
        xs := []
        resv := none
        lastProgress := m.clk.elapsed }
      if first then { m with wdg := { m.wdg with partProgress := nset 0 m.wdg.partProgress p m.clk.elapsed } } else m

/-- A write of 0 to a RUN bit. -/
def hartHalt (hk : Nat) (m : Module) : Module := m.setHart hk (haltHart (m.hart hk))

/-- A write of CC_CTRL. -/
def ccCtrl (core : Nat) (val : W64) (m : Module) : Module :=
  (List.range 4).foldl (fun m h => if bit val h then hartStart (hartKey core h) m else hartHalt (hartKey core h) m) m

def execHartStart (core : Fin 32) (hart : Fin 4) (s : State) : Out := done s (hartStart (hartKey core.val hart.val) s.m)
def execHartHalt (core : Fin 32) (hart : Fin 4) (s : State) : Out := done s (hartHalt (hartKey core.val hart.val) s.m)

/-! ### Breakpoint commands (R733 to R736) -/

/-- A hart leaves its breakpoint halt; its watchdogs count on (R734, R735). -/
def bpResume (hk : Nat) (step : Bool) (m : Module) : Module :=
  let h := m.hart hk
  if !h.bpHalt then m
  else
    let m := m.setHart hk { h with bpHalt := false, bpStep := step, bpSkip := true, lastProgress := m.clk.elapsed }
    match hartCtx m hk with
    | some (p, _) => { m with wdg := { m.wdg with partProgress := nset 0 m.wdg.partProgress p m.clk.elapsed } }
    | none => m

def execResume (core : Fin 32) (hart : Fin 4) (s : State) : Out := done s (bpResume (hartKey core.val hart.val) false s.m)
def execBpStep (core : Fin 32) (hart : Fin 4) (s : State) : Out := done s (bpResume (hartKey core.val hart.val) true s.m)

/-- A write of DBG_BP_CMD (R740). -/
def bpCmd (val : W64) (m : Module) : Module :=
  let hk := hartKey (fld val 8 5) (fld val 0 2)
  if fld val 4 2 = 1 then bpResume hk false m else if fld val 4 2 = 2 then bpResume hk true m else m

/-- The contexts of a partition that are halted at a breakpoint. -/
def bpCtxs (m : Module) (p : Nat) : List Nat :=
  (List.range 8).filter (fun c => match ctxHart m p c with
    | some hk => (m.hart hk).bpHalt
    | none => false)

/-- No descriptor of the halted contexts is queued or executing (R733). -/
def execDrained (part : Fin 16) (s : State) : Out :=
  let p := part.val
  let cs := bpCtxs s.m p
  let t := nget 0 s.m.dbg.hitAt p
  if t = 0 || cs.isEmpty || !cs.all (fun c => fenceDone s.m p c) then stop "DRAINED"
  else
    let m := { s.m with dbg := { s.m.dbg with hitAt := nset 0 s.m.dbg.hitAt p 0 } }
    done s (ev 0x1D 4 0xFFFF 1 p 0 (BitVec.ofNat 64 ((m.clk.elapsed + 1 - t) / 1024)) m)

end Sys2Proof.Machine
end

