-- ==== Sys2Proof/Machine/Dbg.lean ====
section
/-! DEFINITION. Telemetry, trace and dumps (chapter 19, R717 to R730). -/

namespace Sys2Proof.Machine

def dbgEv (code sev : Nat) (d : W64) (m : Module) : Module := ev 0x1D code 0xFFFF sev 31 0 d m

/-! ### Always-on counters (R717 to R719) -/

/-- Cycles of a partition's Galleries, and of its Landings, that are counted and have not passed. -/
def partGalLeft (m : Module) (p : Nat) : Nat :=
  ((List.range 64).map (fun g => if galPart m g = some p then busyLeft m.clk.cycle (m.gal' g) (m.bal' g) else 0)).sum
def partLndLeft (m : Module) (p : Nat) : Nat :=
  ((List.range 16).map (fun l => match (m.lnd' l).op with
    | some o => if o.desc.part = p then opLeft m.clk.cycle opSpan (some o) else 0
    | none => 0)).sum

/-- The seven counters of a partition, in the order of R717's table. -/
def partCounter (m : Module) (p i : Nat) : W64 :=
  let d := m.dbg
  match i with
  | 0 => nget 0 d.pGal p - BitVec.ofNat 64 (partGalLeft m p)
  | 1 => nget 0 d.pLnd p - BitVec.ofNat 64 (partLndLeft m p)
  | 2 => nget 0 d.pFlt p
  | 3 => nget 0 d.pDesc p
  | 4 => pack [((nget 0 d.pErrC p).toNat, 32), ((nget 0 d.pErrE p).toNat, 0)]
  | 5 => pack [(nget 0 d.pAlmMax p, 16), ((queue m ⟨10, 0, p⟩).length, 0)]
  | _ => pack [((nget 0 d.pComC p).toNat, 32), ((nget 0 d.pComF p).toNat, 0)]

/-- DBG_AON_CLR. -/
def aonClear (m : Module) : Module :=
  { m with dbg := { m.dbg with
    evtSev := []
    pGal := (List.range 16).foldl (fun l p => nset 0 l p (BitVec.ofNat 64 (partGalLeft m p))) []
    pLnd := (List.range 16).foldl (fun l p => nset 0 l p (BitVec.ofNat 64 (partLndLeft m p))) []
    pFlt := [], pDesc := [], pErrC := [], pErrE := [], pAlmMax := [], pComC := [], pComF := [] } }

/-- Under the lock the write is ignored and counted (R657); `0x90070` is the register's offset. -/
def execDbgAonClr (s : State) : Out := done s (if s.m.sec.locked then lkIgnored 0x90070 s.m else aonClear s.m)

/-! ### Telemetry (R720 to R722) -/

/-- A port's last congestion set: 152 bytes. -/
def cmapPayload (m : Module) (k : Nat) : List Byte :=
  let p := m.port' k
  natLe 8 p.cmapWin.toNat ++ (List.range 8).flatMap (fun v =>
    let x := vcOf p v
    x.last.flatMap (natLe 2) ++ natLe 2 x.lastX)

/-- The module's snapshot: 960 bytes. -/
def snapshotPayload (m : Module) : List Byte :=
  natLe 8 m.clk.time.toNat ++ (List.range 7).flatMap (fun s => natLe 8 (nget 0 m.dbg.evtSev s).toNat)
  ++ (List.range 16).flatMap (fun p => (List.range 7).flatMap (fun i => natLe 8 (partCounter m p i).toNat))

/-- Sends a TELEMETRY packet of a kind to a chip. -/
def sendTelemetry (kind port chip tag : Nat) (payload : List Byte) (m : Module) : Module :=
  inject 2 (plainPkt 0x29 3 chip tag (pack [(kind, 56), (port, 8)]) payload) m

/-- Whether DBG_TEL_SRC names a chip; it is laid out as WDG_NOTICE_SRC (R740). -/
def telFrom (m : Module) (chip : Nat) : Bool :=
  (bit m.dbg.telSrc 63 && decide (fld m.dbg.telSrc 48 13 = chip)) || (bit m.dbg.telSrc 31 && decide (fld m.dbg.telSrc 0 13 = chip))

/-- Whether a packet is a request that the module answers (R720, R721). -/
def telOk (k : Pkt) (m : Module) : Bool :=
  let a := k.hdr.aux
  fld a 56 8 = 1 && fld a 12 44 = 0 && (fld a 0 8 = 2 || fld a 0 8 = 4) && k.payload.isEmpty && telFrom m k.hdr.srcChip.toNat

/-- A TELEMETRY packet that passed R462. -/
def doTelemetry (k : Pkt) (m : Module) : Module :=
  let h := k.hdr
  if telOk k m then
    let port := fld h.aux 8 4
    if fld h.aux 0 8 = 2 then sendTelemetry 2 port h.srcChip.toNat h.tag.toNat (cmapPayload m port) m
    else sendTelemetry 4 0 h.srcChip.toNat h.tag.toNat (snapshotPayload m) m
  else dbgEv 7 2 (h.srcChip.setWidth 64) { m with dbg := { m.dbg with telRej := satAdd m.dbg.telRej 1 } }

def execTelemetry (s : State) : Out :=
  match takeTy 0x29 s.m with
  | none => stop "TELEMETRY"
  | some (k, m) => done s (doTelemetry k m)

/-- The period of the snapshots, in beats; 0 acts as 1. -/
def snapBeats (m : Module) : Nat := 1024 * max 1 (fld m.dbg.telCtrl 0 16)

/-- A SNAPSHOT leaves at each multiple of the period (R722). -/
def execSnapshotPeriod (s : State) : Out :=
  if bit s.m.dbg.telCtrl 63 then
    let b := nextMultiple (snapBeats s.m) s.m.dbg.snapBeat s.m
    let m := passToBeat b s.m
    done s (sendTelemetry 4 0 (fld m.dbg.telCtrl 32 13) 0 (snapshotPayload m) { m with dbg := { m.dbg with snapBeat := some b } })
  else stop "SNAPSHOT_PERIOD"

/-! ### The trace sink (R724, R725, R728) -/

/-- SINK_CHANGED, when the sink in use is another. -/
def sinkCheck (m : Module) : Module :=
  let n := sinkFor m
  if n = m.dbg.sinkNow then m else dbgEv 2 1 (BitVec.ofNat 64 n) { m with dbg := { m.dbg with sinkNow := n } }

/-- TRACE packets to the chip in DBG_TRACE_DST, of up to 128 records each (R725); none under the lock (R730). -/
def traceSend (m : Module) : Module :=
  let d := m.dbg
  if sinkFor m = 2 && !d.buffer.isEmpty && !m.sec.locked then
    inject 2 (plainPkt 0x2A 3 d.dst.toNat 0 0 (d.buffer.take 128).flatten) { m with dbg := { d with buffer := d.buffer.drop 128 } }
  else m

/-- Space returns after records were lost: a LOST record enters first (R724). -/
def lostEntry (m : Module) : Module :=
  let d := m.dbg
  let r := traceRecord 7 (min d.lostNow (2 ^ 32 - 1)) 31 0 0 m
  { m with dbg := { d with buffer := d.buffer ++ [r], lostNow := 0 } }

/-- A full buffer first drains one record into its sink, if it has one. -/
def execLostRecordEntry (s : State) : Out :=
  if s.m.dbg.lostNow = 0 then stop "LOST_RECORD_ENTRY"
  else
    let m := if s.m.dbg.buffer.length < traceCap then s.m else traceSend (pass 1 s.m)
    if m.dbg.buffer.length < traceCap then done s (lostEntry m) else stop "LOST_RECORD_ENTRY"

def setKport (up : Bool) (m : Module) : Module := sinkCheck { m with dbg := { m.dbg with kport := up } }
def execKportUp (s : State) : Out := done s (setKport true s.m)
def execKportDown (s : State) : Out := done s (setKport false s.m)

/-- A write of DBG_TRACE_CTRL (R742). -/
def traceCtrl (val : W64) (m : Module) : Module :=
  sinkCheck { m with dbg := { m.dbg with
    pcPer := BitVec.ofNat 16 (fld val 48 16)
    kinds := BitVec.ofNat 6 (fld val 32 6)
    stopFull := bit val 3
    sink := BitVec.ofNat 2 (fld val 1 2)
    enable := bit val 0
    pcAt := if fld val 48 16 = m.dbg.pcPer.toNat then m.dbg.pcAt else m.clk.cycle } }

/-! ### PC samples (R723) -/

/-- The harts that a sample reads: those running of the traced partitions. -/
def samplePcs (m : Module) : Module :=
  m.harts.foldl (fun m x =>
    match hartCtx m x.1 with
    | some (p, c) => if x.2.on && !x.2.bpHalt && bit m.dbg.part p then traceEv 5 (2 ^ 32 * (x.1 / 4) + x.1 % 4) p c 0 x.2.pc m else m
    | none => m) m

def execPcSample (s : State) : Out :=
  if capturing s.m && bit s.m.dbg.kinds 4 && s.m.dbg.pcPer != 0 then
    let m := passToCycle (s.m.dbg.pcAt + s.m.dbg.pcPer.toNat * 1024) s.m
    done s (samplePcs { m with dbg := { m.dbg with pcAt := m.clk.cycle } })
  else stop "PC_SAMPLE"

/-! ### Dumps (R729) -/

/-- Why a DUMP is refused. -/
def dumpRefusal (m : Module) : Option Nat :=
  let c := match traceRegion m with
    | some (_, _, c) => c
    | none => 0
  firstCode [
    (1, m.sec.locked), (2, (traceRegion m).isNone),
    (3, (traceRegion m).isSome && decide (m.dbg.dumpFirst.toNat + m.dbg.dumpCount.toNat > c)), (4, m.dbg.dumpRun.isSome)]

/-- DBG_DUMP_CMD. -/
def dumpStart (m : Module) : Module :=
  match dumpRefusal m with
  | some c => dbgEv 6 2 (BitVec.ofNat 64 c) m
  | none => { m with dbg := { m.dbg with dumpRun := some (m.dbg.dumpAddr, m.dbg.dumpFirst.toNat, m.dbg.dumpCount.toNat) } }

def execDump (s : State) : Out := done s (dumpStart s.m)

/-- Copies region records to host memory, each as it stands now. -/
def dumpCopy (tier base : Nat) (to_ : W64) (first : Nat) : Nat → Module → Module
  | 0, m => m
  | n + 1, m =>
    let x := readSector 16 tier (base + 32 * first) (base + 32 * first) m
    dumpCopy tier base (to_ + 32) (first + 1) n (emit (.hostWrite to_ x.1) x.2.2)

def execDumpDone (s : State) : Out :=
  match s.m.dbg.dumpRun with
  | none => stop "DUMP_DONE"
  | some (a, first, n) =>
    let m := match traceRegion s.m with
      | some (tier, base, _) => dumpCopy tier base a first n s.m
      | none => s.m
    done s (dbgEv 5 0 (BitVec.ofNat 64 n) { m with dbg := { m.dbg with dumpRun := none } })

end Sys2Proof.Machine
end

