-- ==== Sys2Proof/Machine/Apply.lean ====
section
/-! DEFINITION. The apply: the checks at the armed beat, what changes when the new structure takes effect, and the zeroing of memory that
follows (chapters 2 and 17, R84 to R98, R658, R659). -/

namespace Sys2Proof.Machine

/-! ### What an apply would change -/

/-- The units whose owner or service state differs, as (class, index). -/
def changedUnits (m : Module) (t : Struct) : List (Nat × Nat) :=
  (List.range 9).flatMap (fun c => ((List.range (clsCount c)).filter (fun u =>
    owner m c u != t.owner c u || unitOos m c u != t.isOos c u)).map (fun u => (c, u)))

/-- The queue classes of a service-unit class's engine (R68, R133). -/
def engClasses (c : Nat) : List Nat :=
  match c with
  | 0 => [0, 1] | 1 => [2] | 2 => [3] | 3 => [4] | 4 => [6] | _ => []

/-! ### The checks of the armed beat (R85, R365, R379, R604) -/

/-- Whether a unit lies in a domain under an engine or partition reset: it counts as executing a descriptor (R583). -/
def resetRuns (m : Module) (c u : Nat) : Bool :=
  m.wdg.running.any (fun r => match r.dom with
    | .engine e => (engClasses c).contains (engQ e) && e.idx = u
    | .partition p => owner m c u = some p.val
    | _ => false)

/-- Whether a range of this module's memory has a byte in a unit. -/
def rangeIn (m : Module) (p c u : Nat) (a : W64) (n : Nat) : Bool :=
  gaHere m a && tierCls (gaTier a) = c
    && [0, n - 1].any (fun i => place m p (gaTier a) (gaOff a + i) / slotSize (gaTier a) = u)

/-- Whether a Flight engine has a burst in flight to or from a memory unit. -/
def burstsIn (m : Module) (c u : Nat) : Bool :=
  m.flt.any (fun x => x.2.ops.any (fun o => o.bursts.any (fun b =>
    rangeIn m o.desc.part c u b.src b.len || rangeIn m o.desc.part c u b.dst b.len)))

/-- Whether a channel test or a pattern test runs on a unit. -/
def testRuns (m : Module) (c u : Nat) : Bool :=
  m.mem.tg.any (fun x => x.2.running && chUnit x.1 = (c, u))
  || [0, 1].any (fun w => match (m.chk' w).run with
    | some r => r.cls = c && r.unit = u
    | none => false)

/-- Whether a package's owner copies its shard for a cut (R545): the copy's reads and writes are outstanding (log entry 148). -/
def cutRuns (m : Module) (c u : Nat) : Bool :=
  c = 8 && (match owner m 8 u with
    | some p => (m.vst' p).snapSt = .copying
    | none => false)

/-- Whether a changed unit is busy (code 0x21). -/
def changeBusy (m : Module) (x : Nat × Nat) : Bool :=
  (engClasses x.1).any (fun q => unitBusy m q x.2) || resetRuns m x.1 x.2 || testRuns m x.1 x.2
  || ((x.1 = 7 || x.1 = 8) && burstsIn m x.1 x.2) || cutRuns m x.1 x.2

/-- Whether an apply changes what a partition's cache holds or covers (R365). -/
def cacheChanges (m : Module) (t : Struct) (ch : List (Nat × Nat)) (p : Nat) : Bool :=
  (prec m p).cache != (t.prec p).cache || (prec m p).hall0 != (t.prec p).hall0
  || ch.any (fun x => (x.1 = 7 || x.1 = 8) && (owner m x.1 x.2 = some p || t.owner x.1 x.2 = some p))

/-- The lines of a partition's cache in ways that hold a bank out of service under a structure: such a way holds no lines (R351). -/
def downLines (m : Module) (t : Struct) (p : Nat) : NMap CacheLine := (m.cache p).lines.filter (fun x => !wayUpIn t p (x.1 % 8))

/-- Dirty sectors that the change would lose or move count as requests outstanding (R365; log entry 163). -/
def dirtyOutstanding (m : Module) (t : Struct) (ch : List (Nat × Nat)) : Bool :=
  (List.range 16).any (fun p => dirtySectors (m.cache p) > 0 && cacheChanges m t ch p
    || (downLines m t p).any (fun x => x.2.dirty != 0))

/-- The lines of the ways that go out of service leave the cache (R351, R409). -/
def dropDown (m0 : Module) (t : Struct) (p : Nat) (m : Module) : Module :=
  (downLines m0 t p).foldl (fun m x => dropLine p x.1 (wasteMarks x.2 m)) m

/-- The apply-time checks, the lowest code first (R85, R744). -/
def applyRefusal (m : Module) (t : Struct) : Option Nat :=
  let ch := changedUnits m t
  firstCode [
    (0x21, ch.any (changeBusy m) || dirtyOutstanding m t ch),
    (0x22, decide (powerSum t > m.pwr.cap)),
    (0x24, !(wingUp m 0 && wingUp m 1))]

/-- A refused apply; code 0x22 logs the excess in watts (R94). -/
def refuseApply (service : Bool) (t : Struct) (code : Nat) (m : Module) : Module :=
  let m := applyRefused code m
  if code = 0x22 then
    { m with img := { m.img with
      errCount := 1, errLog := [(⟨0x22, if service then 4 else 1, 31, 0xFFFF, powerSum t - m.pwr.cap⟩ : ErrEnt).word] } }
  else m

/-! ### The effects -/

/-- The event class's service-unit class. -/
def svcOfEv (e : Nat) : Option Nat :=
  match e with
  | 0x05 => some 0 | 0x06 => some 0 | 0x07 => some 1 | 0x08 => some 2 | 0x09 => some 3 | 0x0E => some 4 | 0x04 => some 5 | 0x0B => some 6
  | 0x0C => some 7 | 0x0D => some 8 | _ => none

/-- RETIRED_OWNED, for each retired unit to which the image gives an owner (R615); a service image gives owners to the units it changes. -/
def retiredOwned (service : Bool) (ch : List (Nat × Nat)) (t : Struct) (m : Module) : Module :=
  m.hlt.retired.foldl (fun m x =>
    match svcOfEv x.1 with
    | some c =>
      match t.owner c x.2.1 with
      | some p => if !service || ch.contains (c, x.2.1) then ev 0x19 7 x.2.1 2 p 0 (pack [(x.1, 48), (x.2.1, 32)]) m else m
      | none => m
    | none => m) m

/-- The sectors of a unit are no longer poisoned. -/
def unpoison (tier u : Nat) (m : Module) : Module :=
  { m with mem := { m.mem with poison := m.mem.poison.filter (fun x =>
    !(x.1 / 2 ^ 60 = tier && (x.1 % 2 ^ 60) * 32 / slotSize tier = u)) } }

/-- A Hall bank or HBM4 channel is written with zero; a package that returns holds no content (R97, R658, R660). -/
def memChange (t : Struct) (was : Struct) (x : Nat × Nat) (m : Module) : Module :=
  if t.isOos x.1 x.2 then m
  else if x.1 = 6 then unpoison 0 x.2 (zeroUnit 0 x.2 m)
  else if x.1 = 7 then unpoison 1 x.2 (zeroUnit 1 x.2 m)
  else if x.1 = 8 && was.isOos 8 x.2 then unpoison 2 x.2 (loseUnit 2 x.2 m)
  else m

/-- The units that an apply has to zero; a channel that failed training is done at once (R693). -/
def scrubUnits (m : Module) (t : Struct) (ch : List (Nat × Nat)) : List (Nat × Nat) :=
  ch.filter (fun x => (x.1 = 6 || x.1 = 7) && !t.isOos x.1 x.2 && !m.mem.badUnits.contains x)

/-- An engine or control core whose owner changes, or that returns, starts as after its engine reset (R97, R659). -/
def engineChange (x : Nat × Nat) (m : Module) : Module :=
  if x.1 = 5 then resetHarts [x.2] m else (engClasses x.1).foldl (fun m q => clearEngine q x.2 m) m

/-- A partition that the apply enables: a partition reset and a new key pair (R659, R662). -/
def enablePart (p : Nat) (m : Module) : Module :=
  let m := partitionReset p m
  { m with mem := { m.mem with keyId := nset 0 m.mem.keyId p m.mem.nextKey, nextKey := m.mem.nextKey + 1 } }

/-- A partition that the apply disables: its alarms do not fire, and its checkpoint key is lost (R124, R680). -/
def disablePart (p : Nat) (m : Module) : Module := ckeyClear p (dropDescs (fun k _ => k.cls = 10 && k.sub = p) m)

/-- The slices of the new table: their epochs (R463), and the keys of removed slices discarded (R680). -/
def applySlices (t : Struct) (m : Module) : Module :=
  let eps := (List.zip (List.range 16) t.slices).foldl (fun a x => nset (0, 0) a x.1 (x.2.epoch, x.2.epoch)) []
  { m with
    rte := { m.rte with epochs := eps }
    sec := { m.sec with skeys := m.sec.skeys.filter (fun k => t.slices.any (fun e => e.slice = k.slice)) } }

def noStruct : Struct :=
  { parts := [], atomicDefault := 0, traceTier := 0, traceBase := 0, traceSize := 0, slices := [], oos := [], bytes := [], table := [] }

/-- The trace region starts anew where it moves (R727). -/
def regionStart (moved : Bool) (m : Module) : Module :=
  if moved then { m with dbg := { m.dbg with wptr := 0, regionFull := false, hold := none } } else { m with dbg := { m.dbg with hold := none } }

/-- The image block at an apply (R86, R98, R99). -/
def imgApplied (f : ImgFile) (t : Struct) (m : Module) : Module :=
  let x := m.img
  { m with img := { x with
    st := .applied
    active := some t
    activeId := f.id
    activeBeat := beatNow m
    late := x.armedLate.getD 0
    excActive := if f.service then x.excActive || x.excStaged else x.excStaged } }

/-- The partitions whose owned set or service state changes. -/
def partsChanged (m : Module) (t : Struct) (ch : List (Nat × Nat)) : List Nat :=
  (List.range 16).filter (fun p => ch.any (fun x => owner m x.1 x.2 = some p || t.owner x.1 x.2 = some p))

/-- APPLIED, the module's record first, then each changed partition's; APPLIED_LATE (R86, R98). -/
def applyRecords (f : ImgFile) (ps : List Nat) (late : Option Beat) (m : Module) : Module :=
  let m := imgEv 5 1 f.id m
  let m := ps.foldl (fun m p => ev 0x02 5 0xFFFF 1 p 0 f.id m) m
  match late with
  | some n => imgEv 8 2 (n.setWidth 64) m
  | none => m

/-- The new structure takes effect for every unit in one step (R84). -/
def applyStruct (f : ImgFile) (t : Struct) (m : Module) : Module :=
  let was := m.img.active.getD noStruct
  let ch := changedUnits m t
  let ps := partsChanged m t ch
  let moved := movesRegion m
  let on := (List.range 16).filter (fun p => !enabled m p && (t.prec p).enable)
  let off := (List.range 16).filter (fun p => enabled m p && !(t.prec p).enable)
  let drop := (List.range 16).filter (cacheChanges m t ch)
  let late := m.img.armedLate
  let m := drop.foldl (fun m p => invalidateCache p m) m
  let m := (List.range 16).foldl (fun m p => dropDown m t p m) m
  let m := imgApplied f t m
  let m := ch.foldl (fun m x => engineChange x (memChange t was x m)) m
  let m := { m with sec := { m.sec with scrub := m.sec.scrub.filter (fun x => !ch.contains x) ++ scrubUnits m t ch, scrubAt := m.clk.elapsed } }
  let m := off.foldl (fun m p => disablePart p m) m
  let m := on.foldl (fun m p => enablePart p m) m
  let m := sinkCheck (regionStart moved (applySlices t m))
  let m := gateSweep m
  let m := retiredOwned f.service ch t (applyRecords f ps late m)
  if m.pci.stage = 4 then { m with pci := { m.pci with stage := 5, stageAt := m.clk.elapsed } } else m

/-- The armed beat starts: the checks, then the change or the refusal. The trace unit is quiet in the beat before it when its region
moves (R727). -/
def execApply (s : State) : Out :=
  if s.m.img.st = .armed then
    let m := passToBeat s.m.img.armedBeat (match s.m.dbg.hold with
      | some b => if atOrAfter (beatNow s.m) b then s.m else passToBeat b s.m
      | none => s.m)
    match stagedStruct m with
    | none => done s (applyRefused 0x21 m)
    | some (f, t) =>
      match applyRefusal m t with
      | some c => done s (refuseApply f.service t c m)
      | none => done s (applyStruct f t m)
  else stop "APPLY"

/-! ### Zeroing (R658, R689) -/

/-- How long the zeroing takes: all channels in parallel, 32,768 beats; Hall banks alone, 2 µs. -/
def scrubTime (l : List (Nat × Nat)) : Nat := if l.any (fun x => x.1 = 7) then 32768 * 1024 else 2000

/-- READY (R689, R711). -/
def ready (m : Module) : Module :=
  let m := { m with pci := { m.pci with stage := 8, stageAt := m.clk.elapsed, readyBeat := (beatNow m).setWidth 32 } }
  ev 0x1C 7 0xFFFF 1 31 0 (BitVec.ofNat 64 (b2n m.pci.degraded)) m

/-- The last unit is zeroed: SCRUBBED, and from stage SCRUB the module is READY. Before that stage nothing is zeroed. -/
def execScrubbed (s : State) : Out :=
  let n := s.m.sec.scrub.length
  if s.m.pci.stage = 5 ∨ s.m.pci.stage = 6 ∨ (n = 0 ∧ s.m.pci.stage ≠ 7) then stop "SCRUBBED"
  else
    let m := passTo (s.m.sec.scrubAt + (if n = 0 then 0 else scrubTime s.m.sec.scrub)) s.m
    let m := { m with sec := { m.sec with scrub := [] } }
    let m := if n = 0 then m else secEv 9 0 (BitVec.ofNat 64 n) m
    done s (if m.pci.stage = 7 then ready m else m)

end Sys2Proof.Machine
end

