-- ==== Sys2Proof/Machine/Pci.lean ====
section
/-! DEFINITION. Start-up, the host link, event rings, and the tray SPI (chapter 18). -/

namespace Sys2Proof.Machine

def pciEv (code sev : Nat) (d : W64) (m : Module) : Module := ev 0x1C code 0xFFFF sev 31 0 d m
def setPci (x : Pci) (m : Module) : Module := { m with pci := x }
def enterStage (n : Nat) (m : Module) : Module := setPci { m.pci with stage := n, stageAt := m.clk.elapsed } m

/-! ### Power good (R683, R687, R689) -/

/-- What a unit's health keeps in flash: its totals and its LAST_PASS (R611). -/
def flashUnit (u : UnitHealth) : UnitHealth := { UnitHealth.init with lifeC := u.lifeC, lifeH := u.lifeH, lifeG := u.lifeG, pass := u.pass }

def flashUnits (l : NMap UnitHealth) : NMap UnitHealth :=
  l.foldl (fun a x => nset UnitHealth.init a x.1 (flashUnit x.2)) []

/-- The state of the last-breath slot that PCI and HLT_STATUS show after power-on: 0 none, 1 complete, 2 INCOMPLETE (R614, R623). -/
def breathState (h : Hlt) : Nat := if h.breathSlots.isEmpty then 0 else if h.breathWhole then 1 else 2

/-- The lifetime log after a power cycle: what the flash holds (R611). -/
def flashHlt (m : Module) : Hlt :=
  let h := m.hlt
  { Hlt.init with
    breath := breathState h, breathWhole := h.breathWhole, units := flashUnits h.units, packs := h.packs, ring := h.ring
    ringNext := h.ringNext, ringOver := h.ringOver, summary := h.summary, breathSlots := h.breathSlots, breathNext := h.breathNext
    margins := h.margins, retired := h.retired, seconds := h.seconds + m.clk.elapsed / 1000000000, thermal := h.thermal
    powerOns := h.powerOns + 1 }

/-- Every unit of a tier loses its contents. -/
def loseTier (units : Nat) (t : TierMem) : TierMem :=
  { cells := [], lost := (List.range units).foldl (fun l u => mapAt 0 l u (· + 1)) t.lost }

/-- The memory after a power cycle: contents and keys are gone (R662, R663). -/
def coldMem (b : MemBlk) : MemBlk :=
  { MemBlk.init with
    hall := loseTier 512 b.hall, fast := loseTier 256 b.fast, slow := loseTier 24 b.slow, nextKey := b.nextKey, freeCount := b.freeCount }

/-- The module right after power good: everything at its reset value but what is fused and what the flash holds (R20, R611, R673). -/
def coldStart (slot : BitVec 4) (m : Module) : Module :=
  { Module.init with
    fused := m.fused, mem := coldMem m.mem, hlt := flashHlt m, out := m.out
    sec := { Sec.init with keySlots := m.sec.keySlots, revoked := m.sec.revoked }
    pci := { Pci.init with slotId := slot, slotValid := decide (slot.toNat ≤ 8) } }

/-- SLOT_BAD and LAST_BREATH, where they are due (R614, R687). -/
def powerGood (slot : BitVec 4) (m : Module) : Module :=
  let m := coldStart slot m
  let m := if slot.toNat ≤ 8 then m else pciEv 4 2 (slot.setWidth 64) m
  if m.hlt.breath = 0 then m else hltEv 6 0xFFFF 1 (BitVec.ofNat 64 (b2n (m.hlt.breath = 2))) m

def execPowerGood (slot : BitVec 4) (s : State) : Out := done s (powerGood slot s.m)

/-! ### Start-up stages (R689 to R695) -/

/-- A firmware copy boots (R690): the always-on regions start, and every enabled port begins its bring-up. -/
def execFirmwareVerified (copyB : Bool) (digest : List Byte) (secVersion : BitVec 32) (s : State) : Out :=
  if digest.length ≠ 48 then ill
  else if s.m.pci.stage = 1 then
    let m := enterStage 2 s.m
    let m := setPci { m.pci with copyB := copyB, fwDigest := digest, fwVersion := secVersion } m
    done s ((List.range 16).foldl (fun m k =>
      if (m.port' k).enable then m.setPort k { m.port' k with since := m.clk.elapsed } else m) m)
  else stop "FIRMWARE_VERIFIED"

/-- The module fails in a stage: it stays so until a power cycle (R689). -/
def stageFailed (m : Module) : Module :=
  let c := m.pci.stage
  pciEv 5 6 (BitVec.ofNat 64 c) (setPci { m.pci with failStage := c, stage := 15, stageAt := m.clk.elapsed } m)

/-- Both firmware copies fail. -/
def execFirmwareCopiesFail (s : State) : Out :=
  if s.m.pci.stage = 1 then done s (stageFailed s.m) else stop "FIRMWARE_COPIES_FAIL"

def execAonComplete (s : State) : Out :=
  if s.m.pci.stage = 2 then done s (enterStage 3 s.m) else stop "AON_COMPLETE"

/-- When the hold-up store is at 30 V (R647, R683). -/
def storeReadyAt (m : Module) : Nat := m.pwr.measuredAt + 10000000 * (3000 - m.pwr.measured.toNat) / 125

/-- HOLDUP_OK is high and the store ready: the wing rails rise and the wings are released (R684). -/
def execWingRailsUp (s : State) : Out :=
  if s.m.pci.stage = 3 then
    let m := passTo (storeReadyAt s.m) s.m
    done s { m with
      tray := { m.tray with holdupOk := true }
      pci := { m.pci with wingOut := nset false (nset false m.pci.wingOut 0 true) 1 true } }
  else stop "WING_RAILS_UP"

/-- Both wings are out of reset; the points are calibrated (R643). -/
def execWingsOutOfReset (s : State) : Out :=
  if s.m.pci.stage = 3 && nget false s.m.pci.wingOut 0 && nget false s.m.pci.wingOut 1 then done s (calibrate (enterStage 4 s.m))
  else stop "WINGS_OUT_OF_RESET"

/-- Units that fail a test or training: listed in PCI_BIST_FAIL, which holds 32, and recorded (R692). -/
def listFailed (l : List (Nat × Nat)) (m : Module) : Module :=
  l.foldl (fun m x =>
    let c := m.pci
    pciEv 6 4 (pack [(x.1, 16), (x.2, 0)]) (setPci { c with
      degraded := true, bistFail := if c.bistFail.length < 32 then c.bistFail ++ [x] else c.bistFail } m)) m

/-- Every channel and package is trained, but those that failed (R689, R693). -/
def trainAll (failed : List (Nat × Nat)) (m : Module) : Module :=
  let m := (List.range 8).foldl (fun m k => updMemUnit 1 k (fun u => { u with trained := true }) m) m
  let m := (List.range 24).foldl (fun m k => updMemUnit 2 k (fun u => { u with trained := !failed.contains (8, k) }) m) m
  { m with
    mem := { m.mem with badUnits := failed }
    sec := { m.sec with scrub := m.sec.scrub.filter (fun x => !failed.contains x) } }

/-- Training completes: stage BIST. The failed units are HBM4 channels (0) and LPDDR5X packages (1). -/
def execMemTrainComplete (failed : List (Fin 2 × Nat)) (s : State) : Out :=
  if !failed.all (fun x => decide (x.2 < clsCount (7 + x.1.val))) then ill
  else if s.m.pci.stage = 5 then
    let l := failed.map (fun x => (7 + x.1.val, x.2))
    done s (listFailed l (marginRec 0 0 (trainAll l (enterStage 6 s.m))))
  else stop "MEM_TRAIN_COMPLETE"

/-- The built-in tests complete: stage SCRUB, in which the zeroing begins. -/
def execBistComplete (failed : List (Nat × Nat)) (s : State) : Out :=
  if !failed.all (fun x => decide (x.2 < clsCount x.1)) then ill
  else if s.m.pci.stage = 6 then
    let m := enterStage 7 s.m
    done s (listFailed failed { m with sec := { m.sec with scrubAt := m.clk.elapsed } })
  else stop "BIST_COMPLETE"

/-- A stage's limit in nanoseconds; none for a stage without one. -/
def stageLimit (n : Nat) : Option Nat :=
  match n with
  | 1 => some 500000000 | 2 => some 20000000 | 3 => some 2000000000 | 5 => some (200000 * 1024) | 6 => some (200000 * 1024)
  | 7 => some (65536 * 1024) | _ => none

def execStageFail (s : State) : Out :=
  match stageLimit s.m.pci.stage with
  | none => stop "STAGE_FAIL"
  | some n => done s (stageFailed (passTo (s.m.pci.stageAt + n) s.m))

/-- A change of the SLOT_ID strap is ignored and flagged (R687). -/
def execSlotIdChange (slot : BitVec 4) (s : State) : Out :=
  if slot = s.m.pci.slotId then done s s.m else done s (setPci { s.m.pci with slotChanged := true, slotChangedAt := instant s.m } s.m)

/-- Whether stage WINGS has been entered since power good; a module that failed before it never serves a request (log entry 173). -/
def wingsReached (x : Pci) : Bool := decide (3 ≤ x.stage) && !(x.stage = 15 && decide (x.failStage < 3))

/-- A configuration request (R691): retried during KERDUN and AON; served from WINGS on, after which the host may have enabled every
virtual function. -/
def execConfigurationRequest (s : State) : Out :=
  if !wingsReached s.m.pci then done s (emit (.config false) s.m)
  else if s.m.tray.perstN then done s (emit (.config true) (setPci { s.m.pci with vfOn := 0xFFFF } s.m))
  else stop "CONFIGURATION_REQUEST"

/-! ### The host link (R700 to R702, R711) -/

def linkOff (x : Pci) : Pci := { x with linkUp := false, width := 0, rate := 0, flit := false }

/-- The link goes down: LINK_DOWN with its width. -/
def linkFalls (m : Module) : Module :=
  if m.pci.linkUp then pciEv 2 2 (m.pci.width.setWidth 64) (setPci (linkOff m.pci) m) else m

/-- PERST_N falls (R701): the functions and the event rings go to reset, host bursts and an image fetch fail. -/
def perstFall (m : Module) : Module :=
  let m := { m with tray := { m.tray with perstN := false } }
  let m := setPci { m.pci with evr := [], vfOn := 0, ide := 0, ideKeys := [] } m
  let m := linkFalls m
  let m := (List.range 32).foldl (fun m f => hostBurstsFail f m) m
  if m.img.st = .staging then fetchFailed m else m

def execPerstNFall (s : State) : Out := if s.m.tray.perstN then done s (perstFall s.m) else stop "PERST_N_FALL"
def execPerstNRise (s : State) : Out :=
  if s.m.tray.perstN then stop "PERST_N_RISE" else done s { s.m with tray := { s.m.tray with perstN := true } }

/-- A Function Level Reset of a virtual function (R702). -/
def execVfFlr (p : Fin 16) (s : State) : Out :=
  done s (orderReset (.partition p) 3 2 (s.m.setEvr (p.val + 1) Evr.init))

/-- A Function Level Reset of the physical function: its registers, as PERST_N leaves them, and its ring (R701, R702). -/
def execPfFlr (s : State) : Out :=
  let m := s.m.setEvr 0 Evr.init
  done s (setPci { m.pci with vfOn := 0, ide := 0, ideKeys := [] } m)

/-- The widths and rates of the link (R696, R715). -/
def linkOk (width rate : Byte) : Bool :=
  [1, 2, 4, 8, 16].contains width.toNat && [2, 5, 8, 16, 32, 64].contains rate.toNat

def execLinkUp (width rate : Byte) (flit : Bool) (s : State) : Out :=
  if !linkOk width rate then ill
  else if s.m.tray.perstN then
    done s (pciEv 1 0 (pack [(width.toNat, 8), (rate.toNat, 0)])
      (setPci { s.m.pci with linkUp := true, width := width, rate := rate, flit := flit } s.m))
  else stop "LINK_UP"

def execLinkDown (s : State) : Out := if s.m.pci.linkUp then done s (linkFalls s.m) else stop "LINK_DOWN"

/-! ### Event rings (R703 to R705) -/

/-- The ring of a function: 0 the physical function's, p + 1 that of partition p's virtual function. -/
def ringOf (fn : Fn) : Nat :=
  match fn with
  | .pf => 0
  | .vf p => p.val + 1

/-- A write of EVR_HEAD: freed entries let the overflow record go (R704). -/
def headWrite (f : Nat) (val : W64) (m : Module) : Module :=
  ringOverflow f (m.setEvr f { m.evr' f with head := val.setWidth 32 })

def execEvrHeadWrite (fn : Fn) (val : W64) (s : State) : Out := done s (headWrite (ringOf fn) val s.m)

/-- The end of the interval MOD: one signal for the records written in it (R705). -/
def execMsixCoalesceEnd (fn : Fn) (s : State) : Out :=
  let f := ringOf fn
  let r := s.m.evr' f
  match r.lastSig with
  | none => stop "MSIX_COALESCE_END"
  | some t =>
    if r.unsig then
      let m := passTo (t + r.mod_.toNat * 1024) s.m
      done s (emit (.msix fn 0) (m.setEvr f { m.evr' f with unsig := false, lastSig := some m.clk.elapsed }))
    else stop "MSIX_COALESCE_END"

/-- PCI_CNT_CLR (R712). -/
def pciClear (x : Pci) : Pci :=
  { x with unmappedR := 0, unmappedW := 0, vfDenied := 0, spiShort := 0, spiExcess := 0, spiBad := 0 }
def execPciCntClr (s : State) : Out := done s (setPci (pciClear s.m.pci) s.m)

/-! ### The tray SPI (R706 to R709) -/

/-- Sensor readings are the environment's: a read finds free values (log entry 4). -/
def senseTemps (m : Module) : Module :=
  let x := freeVal m
  { x.2 with
    tray := { x.2.tray with hottestHbm := BitVec.ofNat 8 (fld x.1 8 8), hottestLpx := BitVec.ofNat 8 (fld x.1 16 8) }
    pwr := { x.2.pwr with temp := BitVec.ofNat 8 (fld x.1 0 8) } }

/-- The average input power is measured: free. -/
def senseAvg (m : Module) : Module :=
  let x := freeVal m
  { x.2 with pwr := { x.2.pwr with avgMw := x.1.setWidth 32 } }

/-- A tray register's value (R708); a sensor is read at that moment. -/
def trayRead (a : Nat) (m : Module) : W32 × Module :=
  let w (x : W64) : W32 := x.setWidth 32
  match a with
  | 0 => (w (pack [(9, 16), (m.fused.grade.toNat, 8), (0xA1, 0)]), m)
  | 1 => (w (pack [(m.pci.failStage, 4), (m.pci.stage, 0)]), m)
  | 2 => (m.tray.alert.setWidth 32, m)
  | 3 => (m.tray.alertEn, m)
  | 4 => (m.pwr.trayLimit.setWidth 32, m)
  | 5 =>
    let m := senseAvg m
    (w (pack [(min 65535 (m.pwr.avgMw.toNat / 1000), 16), (levelNow m.pwr, 8), (m.pwr.op, 0)]), m)
  | 6 =>
    let m := senseTemps m
    (w (pack [(m.tray.hottestLpx.toNat, 16), (m.tray.hottestHbm.toNat, 8), (m.pwr.temp.toNat, 0)]), m)
  | 7 => (w (pack [(b2n (measuredNow m ≥ 3000), 16), (measuredNow m, 0)]), m)
  | 8 => (w (pack [(b2n m.pci.slotValid, 4), (m.pci.slotId.toNat, 0)]), m)
  | 9 => (match m.wdg.pwr with
      | some x => w (pack [(1, 2), (x.1, 0)])
      | none => 0, m)
  | 10 => (w (pack [(m.tray.errShort.toNat, 16), (m.tray.errExcess.toNat, 0)]), m)
  | _ => (0, m)

/-- A write of PWR_TRAY_LIMIT. -/
def trayLimit (v : Nat) (m : Module) : Module := { m with pwr := { m.pwr with trayLimit := BitVec.ofNat 11 v } }

def trayWrite (a : Nat) (v : W32) (m : Module) : Module :=
  match a with
  | 2 => setTray { m.tray with alert := alertClear v m } m
  | 3 => setTray { m.tray with alertEn := v &&& 0x3FF } m
  | 4 => trayLimit (fld v 0 11) m
  | _ => m

def spiWords (cmd : W32) : Nat := fld cmd 20 4 + 1
def spiAddr (cmd : W32) (i : Nat) : Nat := (fld cmd 0 8 + i) % 256

/-- A command word with a reserved OP or a reserved bit (R707). -/
def spiReserved (cmd : W32) : Bool := decide (fld cmd 30 2 ≥ 2) || fld cmd 24 6 != 0 || fld cmd 8 12 != 0

/-- The registers of a read frame's complete words, in order. -/
def spiRead (cmd : W32) : Nat → Nat → Module → List W32 × Module
  | 0, _, m => ([], m)
  | n + 1, i, m =>
    let x := trayRead (spiAddr cmd i) m
    let y := spiRead cmd n (i + 1) x.2
    (x.1 :: y.1, y.2)

/-- How a frame of so many edges ends (R707): an incomplete word, or edges after its last data word. -/
def spiEdges (cmd : W32) (bits : Nat) (m : Module) : Module :=
  let want := 32 * (1 + spiWords cmd)
  if bits > want then
    setTray { alertSet 0x100 m with errExcess := satAdd m.tray.errExcess 1 }
      (setPci { m.pci with spiExcess := m.pci.spiExcess + 1 } m)
  else if bits % 32 != 0 then
    { m with
      tray := { m.tray with errShort := satAdd m.tray.errShort 1 }
      pci := { m.pci with spiShort := m.pci.spiShort + 1 } }
  else m

/-- The complete data words of a frame of so many edges. -/
def spiData (cmd : W32) (bits : Nat) : Nat := min (spiWords cmd) ((bits - 32) / 32)

/-- A frame with a bad command word: ignored, and counted. -/
def spiBadFrame (m : Module) : Module :=
  emit (.miso [m.tray.alert.setWidth 32]) (setPci { m.pci with spiBad := m.pci.spiBad + 1 } m)

/-- A read frame of `bits` edges: MISO carries TRAY_ALERT, the registers, and zero in any excess word. -/
def spiReadFrame (cmd : W32) (bits : Nat) (m : Module) : Module :=
  let head := m.tray.alert.setWidth 32
  let x := spiRead cmd (spiData cmd bits) 0 m
  let extra := List.replicate (bits / 32 - 1 - spiWords cmd) 0
  spiEdges cmd bits (emit (.miso ((head :: x.1) ++ extra)) x.2)

/-- A write frame: each complete data word is written. -/
def spiWriteFrame (cmd : W32) (words : List W32) (bits : Nat) (m : Module) : Module :=
  let head := m.tray.alert.setWidth 32
  let n := spiData cmd bits
  let m := (List.range n).foldl (fun m i => trayWrite (spiAddr cmd i) (words.getD i 0) m) m
  spiEdges cmd bits (emit (.miso (head :: List.replicate (bits / 32 - 1) 0)) m)

/-- A frame that ends inside its command word: the word is discarded, and counted. -/
def spiShortCmd (bits : Nat) (m : Module) : Module :=
  if bits = 0 then m
  else { m with
    tray := { m.tray with errShort := satAdd m.tray.errShort 1 }
    pci := { m.pci with spiShort := m.pci.spiShort + 1 } }

def execTraySpiRead (cmd : W32) (bits : Nat) (s : State) : Out :=
  if bits < 32 then done s (spiShortCmd bits s.m)
  else if spiReserved cmd then done s (spiBadFrame s.m)
  else if fld cmd 30 2 = 0 then done s (spiReadFrame cmd bits s.m)
  else ill

/-- A write frame; it needs as many words as its edges complete. -/
def execTraySpiWrite (cmd : W32) (words : List W32) (bits : Nat) (s : State) : Out :=
  if words.length < spiData cmd bits then ill
  else if bits < 32 then done s (spiShortCmd bits s.m)
  else if spiReserved cmd then done s (spiBadFrame s.m)
  else if fld cmd 30 2 = 1 then done s (spiWriteFrame cmd words bits s.m)
  else ill

def execTraySpiBadcmd (cmd : W32) (s : State) : Out := if spiReserved cmd then done s (spiBadFrame s.m) else ill

/-- SETDASA or ENTDAA (R710). -/
def execDynamicAddressAssignment (addr : BitVec 7) (s : State) : Out :=
  done s { s.m with tray := { s.m.tray with dynAddr := some addr } }

end Sys2Proof.Machine
end

