-- ==== Sys2Proof/Machine/RegRead.lean ====
section
/-! DEFINITION. The register map (R43, R44) and what each register reads as. -/

namespace Sys2Proof.Machine

/-! ### Where a register is (R43, R44) -/

/-- The blocks of BAR0. -/
inductive Blk where
  | top | img | beat | pwr | hlt | sec | wdg | vst | mir | dbg | pci | nut | rte | arc | gal | adp | lnd | ris | win | nwl | flt
  | hall | hbm | lpx | cc | chk | cor
deriving DecidableEq, Repr

/-- A block, the global index of the unit whose window it is, and the offset within that window. -/
structure RegPlace where
  blk : Blk
  unit : Nat
  off : Nat
deriving DecidableEq, Repr

/-- The blocks below NUT, each of 64 KiB (R43). -/
def lowBlk (b : Nat) : Option Blk :=
  [Blk.top, .img, .beat, .pwr, .hlt, .sec, .wdg, .vst, .mir, .dbg, .pci][b]?

/-- The unit `n` of a row of equal windows that starts at `base`, when the offset lies in it. -/
def inRow (o base size n first : Nat) (b : Blk) : Option RegPlace :=
  if base ≤ o ∧ o < base + size * n then some ⟨b, first + (o - base) / size, (o - base) % size⟩ else none

/-- A Gallery window holds its Balcony's from 0x8000 on (R44). -/
def galPlace (w o : Nat) : RegPlace :=
  let u := 32 * w + o / 0x10000
  if o % 0x10000 < 0x8000 then ⟨.gal, u, o % 0x10000⟩ else ⟨.adp, u, o % 0x10000 - 0x8000⟩

/-- The blocks of wing `w`'s window (R44). -/
def wingPlace (w o : Nat) : Option RegPlace :=
  if o < 0x200000 then some (galPlace w o)
  else inRow o 0x400000 0x10000 8 (8 * w) .lnd <|> inRow o 0x500000 0x10000 4 (4 * w) .ris
    <|> inRow o 0x580000 0x10000 2 (2 * w) .win <|> inRow o 0x600000 0x10000 1 w .nwl
    <|> inRow o 0x700000 0x1000 16 (16 * w) .flt <|> inRow o 0x800000 0x100000 1 w .hall
    <|> inRow o 0x900000 0x10000 4 (4 * w) .hbm <|> inRow o 0xA00000 0x1000 12 (12 * w) .lpx
    <|> inRow o 0xB00000 0x1000 16 (16 * w) .cc <|> inRow o 0xC00000 0x10000 1 w .chk <|> inRow o 0xD00000 0x10000 1 w .cor

/-- The window that a BAR0 offset of the physical function lies in; none for a reserved range (R43, R45). -/
def regPlace (off : Nat) : Option RegPlace :=
  if off < 0x100000 then (lowBlk (off / 0x10000)).map (fun b => ⟨b, 0, off % 0x10000⟩)
  else if off < 0x1000000 then
    inRow off 0x100000 0x1000 16 0 .nut <|> inRow off 0x110000 0x70000 1 0 .rte <|> inRow off 0x180000 0x8000 2 0 .arc
  else if off < 0x3000000 then wingPlace (off / 0x1000000 - 1) (off % 0x1000000)
  else none

/-- The wing whose reset closes a window (R46). -/
def RegPlace.wing (x : RegPlace) : Option Nat :=
  match x.blk with
  | .gal => some (x.unit / 32)
  | .adp => some (x.unit / 32)
  | .lnd => some (x.unit / 8)
  | .ris => some (x.unit / 4)
  | .win => some (x.unit / 2)
  | .flt => some (x.unit / 16)
  | .hbm => some (x.unit / 4)
  | .lpx => some (x.unit / 12)
  | .cc => some (x.unit / 16)
  | .nwl => some x.unit
  | .hall => some x.unit
  | .chk => some x.unit
  | .cor => some x.unit
  | _ => none

/-- Whether a window answers (R46). -/
def windowOpen (m : Module) (x : RegPlace) : Bool :=
  match x.wing with
  | some w => wingUp m w
  | none => true

/-- Whether a window is that of a Gallery or Balcony that is fused off: it reads as zero and ignores writes (R3, R28). -/
def fusedOff (m : Module) (x : RegPlace) : Bool := (x.blk = .gal || x.blk = .adp) && !bit m.fused.galPresent x.unit

/-! ### Small forms -/

/-- The value that a table of offsets and values gives at an offset. -/
def atOff : List (Nat × W64) → Nat → Option W64
  | [], _ => none
  | (k, v) :: r, o => if k = o then some v else atOff r o

/-- Row `i` of an array of `n` registers at `base`, `stride` apart. -/
def inArr (o base stride n : Nat) (f : Nat → W64) : Option W64 :=
  if base ≤ o ∧ o < base + stride * n ∧ (o - base) % stride = 0 then some (f ((o - base) / stride)) else none

def w64 (n : Nat) : W64 := BitVec.ofNat 64 n
def ofBool (b : Bool) (i : Nat) : Nat × Nat := (b2n b, i)
/-- Descriptors queued by each context, and by partitions from `lo` on (GAL_QDEPTH, NWL_QDEPTH0 and their like). -/
def ctxDepths (m : Module) (cls idx : Nat) : W64 := pack ((List.range 8).map (fun k => ((queue m ⟨cls, idx, k⟩).length, 5 * k)))
def partDepths (m : Module) (cls idx lo n : Nat) : W64 :=
  pack ((List.range n).map (fun k => ((queue m ⟨cls, idx, lo + k⟩).length, 5 * k)))

/-- Whether a unit is the odd member of a full-mode pair (R591). -/
def pairedOdd (m : Module) (cls u : Nat) : Bool :=
  match owner m cls u with
  | some p => oddPair m u p
  | none => false

/-- Whether a Gallery and its Balcony, or those that they run in lockstep with, execute nothing: one that executes gates when it has
done (R627). -/
def gateIdle (m : Module) (g : Nat) : Bool := (execDescs m 0 (pairLead m g)).isEmpty && (execDescs m 1 (pairLead m g)).isEmpty

/-! ### Chip-wide blocks -/

def topRead (m : Module) (o : Nat) : Option W64 := atOff [(0, topIdent m), (8, m.fused.galPresent)] o

def imgStCode (s : ImgSt) : Nat :=
  match s with
  | .idle => 0 | .staging => 1 | .staged => 2 | .checking => 3 | .checked => 4 | .armed => 5 | .applied => 6 | .failed => 7

/-- The out-of-service bits of a class from unit `lo` on (R93). -/
def oosMask (m : Module) (cls lo n : Nat) : Nat := maskOf n (fun i => unitOos m cls (lo + i))

/-- The IMG block (R99 to R102). -/
def imgRead (m : Module) (o : Nat) : Option W64 :=
  let x := m.img
  atOff [
    (0x000, pack [ofBool (x.devUnsigned && !m.sec.locked) 1, ofBool x.latePolicy 0]),
    (0x008, x.loadAddr), (0x010, x.loadLen.setWidth 64), (0x018, 0),
    (0x020, pack [(x.lastCode.toNat, 16), ofBool x.badCmd 9, ofBool x.dirty 8, (imgStCode x.st, 0)]),
    (0x028, x.applyBeat.setWidth 64), (0x030, x.activeId), (0x038, x.activeBeat.setWidth 64), (0x040, imgId m),
    (0x048, w64 (min x.errCount 65535)), (0x050, x.stIgnored.setWidth 64), (0x058, x.late.setWidth 64),
    (0x060, w64 (oosMask m 0 0 64)),
    (0x088, pack [(oosMask m 4 0 32, 32), (oosMask m 1 0 16, 16), (oosMask m 2 0 8, 8), (oosMask m 3 0 4, 4)]),
    (0x090, w64 (oosMask m 5 0 32)), (0x098, w64 (oosMask m 8 0 24))] o
  <|> inArr o 0x068 8 4 (fun k => w64 (oosMask m 7 (64 * k) 64))
  <|> inArr o 0x0A0 8 8 (fun k => w64 (oosMask m 6 (64 * k) 64))
  <|> inArr o 0x1000 8 256 (fun i => x.errLog.getD i 0)
  <|> inArr o 0x8000 8 4096 (fun i => w64 (le x.shadow (8 * i) 8))

def timeStCode (s : TimeSt) : Nat :=
  match s with
  | .free => 0 | .acquire => 1 | .locked => 2 | .holdover => 3 | .master => 4

/-- The BEAT block (R139 to R144). -/
def beatRead (m : Module) (o : Nat) : Option W64 :=
  let x := m.beat
  let valid := x.upEn && !x.master
  atOff [
    (0x000, m.clk.time.setWidth 64),
    (0x008, pack [(if valid then x.upPort.toNat else 0, 4), ofBool valid 3, (timeStCode x.st, 0)]),
    (0x010, pack [ofBool x.upEn 8, (x.upPort.toNat, 4), ofBool x.master 0]),
    (0x018, x.distMask.setWidth 64), (0x020, 0), (0x028, x.offset), (0x030, x.stray.setWidth 64), (0x038, w64 (holdNow m % 2 ^ 48)),
    (0x040, 0), (0x048, 0), (0x050, 0), (0x058, 0), (0x060, 0),
    (0x068, pack [ofBool x.mqRefused 8, ((queue m modQ).length, 0)])] o
  <|> inArr o 0x100 0x10 16 (fun p => match queue m (partQ p) with
      | d :: _ => (alarmBeat d).setWidth 64
      | [] => 0)
  <|> inArr o 0x108 0x10 16 (fun p => let y := nget (0, 0) x.almLate p; y.1 ++ y.2)

/-- THROTTLED: what a tenant sees of throttling (R639). -/
def throttled (m : Module) : Bool := levelNow m.pwr != 0 || (List.range 6).any (fun r => (m.pwr.reason (r + 1)).active)

/-- PWR_STATUS (R652). -/
def pwrStatus (m : Module) : W64 :=
  pack [(levelNow m.pwr, 40), (maskOf 6 (fun r => (m.pwr.reason (r + 1)).active), 32), ofBool (measuredNow m ≥ 3000) 3,
    ofBool m.pwr.calDue 2, ofBool (!m.tray.thermTripN) 1, ofBool (throttled m) 0]

/-- The PWR block (R650 to R652). -/
def pwrRead (m : Module) (o : Nat) : Option W64 :=
  let x := m.pwr
  let share := match m.img.active with
    | some t => powerSum t
    | none => 0
  atOff [
    (0x000, pack [ofBool x.slackTx 2, ofBool x.bandLock 1]), (0x008, pwrStatus m), (0x010, pack [(x.op, 56), (x.cap, 0)]),
    (0x018, pack [(levelNow x, 16), (galMhz x, 0)]), (0x020, x.inputMw.setWidth 64), (0x028, x.avgMw.setWidth 64), (0x030, x.energy),
    (0x038, w64 (share % 2048)), (0x040, x.trayLimit.setWidth 64), (0x048, x.thermThr.setWidth 64), (0x050, x.temp.setWidth 64),
    (0x058, x.slackDst.setWidth 64), (0x060, pack [(x.thrHead % 2 ^ 32, 32), (x.thrHead % 256, 0)]), (0x068, x.guard.setWidth 64),
    (0x070, pack [(derivedNow m, 32), (measuredNow m, 16), (x.disagree.toNat, 0)]), (0x078, (eqDue m).setWidth 64),
    (0x080, w64 (maskOf 64 (fun g => gated m g && gateIdle m g)))] o
  <|> inArr o 0x100 8 8 (fun i => match nfind x.cal i with
      | some c => pack [(c.1.toNat, 16), (c.2.1.toNat, 8), ofBool c.2.2 0]
      | none => 0)
  <|> inArr o 0x200 8 16 (fun p => let y := nget (0, 0) x.slack p; y.1 ++ y.2)
  <|> inArr o 0x1000 0x10 256 (fun i => ((nfind x.thrLog i).getD (0, 0)).1)
  <|> inArr o 0x1008 0x10 256 (fun i => ((nfind x.thrLog i).getD (0, 0)).2)

/-- The unit that HLT_UNIT_SEL names. -/
def selKey (h : Hlt) : Nat := healthKey (fld h.unitSel 16 8) (fld h.unitSel 0 16)

/-- Counts in the layout of HLT_UNIT_SUM, each at most what its field holds. -/
def sumWord (c h g : Nat) : W64 := pack [(min c (2 ^ 32 - 1), 32), (min h 65535, 16), (min g 65535, 0)]

/-- HLT_UNIT_PASS (R623). -/
def passWord (m : Module) : W64 :=
  let h := m.hlt
  let u := h.unit (selKey h)
  let retired := h.retired.any (fun x => svcEv x.1 * 65536 + x.2.1 = selKey h)
  pack [ofBool u.pass.isSome 63, ofBool retired 62, ofBool u.lasting 61, (match u.pass with
    | some b => b.toNat
    | none => 0, 0)]

/-- The bytes of a record of the event ring (R612). -/
def logRecord (h : Hlt) : List Byte := (nfind h.ring (fld h.logSel 0 32)).getD []

/-- Whether HLT_LOG_SEL names a record of the event ring; what the other areas hold has no layout in the spec. -/
def logInRing (h : Hlt) : Bool := fld h.logSel 32 4 = 4 && (nfind h.ring (fld h.logSel 0 32)).isSome

/-- The HLT block (R623). -/
def hltRead (m : Module) (o : Nat) : Option W64 :=
  let h := m.hlt
  let u := h.unit (selKey h)
  let t := totalSum h u
  atOff [
    (0x000, pack [(h.breath, 8)]), (0x008, h.win.setWidth 64), (0x010, h.thrC), (0x018, h.thrH), (0x020, h.thrG),
    (0x028, h.unitSel.setWidth 64), (0x030, sumWord t.1 t.2.1 t.2.2), (0x038, sumWord u.lifeC u.lifeH u.lifeG), (0x040, passWord m),
    (0x200, h.packAddr), (0x208, h.packLen.setWidth 64), (0x210, 0),
    (0x218, pack [ofBool h.packBusy.isSome 8, (h.packCode.toNat, 0)]), (0x300, h.logSel.setWidth 64),
    (0x308, pack [(h.ringOver % 2 ^ 32, 32), (h.ringNext, 0)]), (0x380, w64 (h.seconds + m.clk.elapsed / 1000000000)),
    (0x388, h.powerOns ++ h.thermal), (0x390, 0)] o
  <|> inArr o 0x100 8 32 (fun c => let x := cellSum h u c
      pack [(min x.1 65535, 32), (min x.2.1 65535, 16), (min x.2.2 65535, 0)])
  <|> inArr o 0x220 8 4 (fun s => match nfind h.packs s with
      | some p => pack [(p.ver.toNat, 32), (1, 31), (p.tests - 1, 0)]
      | none => 0)
  <|> inArr o 0x240 8 4 (fun s => match nfind h.packs s with
      | some p => p.id
      | none => 0)
  <|> inArr o 0x340 8 8 (fun i => w64 (le (logRecord h) (8 * i) 8))

/-- SEC_KEY_SLOT s (R678). -/
def keySlotWord (m : Module) (i : Nat) : W64 :=
  let x := keySlot m i
  if x.st = 0 then 0 else pack [(beNat ((sha384 x.key).take 6), 16), (x.use.toNat, 8), (x.st, 0)]

/-- SEC_SKEY_EP n (R678): the epochs of the keys held for a slice-table entry's slice. -/
def skeyEp (m : Module) (n : Nat) : W64 :=
  match m.img.active with
  | none => 0
  | some t =>
    match t.slices[n]? with
    | none => 0
    | some e =>
      let f (i hi lo : Nat) : List (Nat × Nat) := match (sliceKeys m e.slice)[i]? with
        | some k => [(1, hi), (k.epoch.toNat, lo)]
        | none => []
      pack (f 1 31 16 ++ f 0 15 0)

/-- The SEC block (R678, R679). -/
def secRead (m : Module) (o : Nat) : Option W64 :=
  let x := m.sec
  atOff [
    (0x000, secStatus m), (0x008, 0), (0x010, m.fused.devId), (0x018, x.lkIgn.setWidth 64), (0x020, x.gcmFail.setWidth 64),
    (0x028, x.noKey.setWidth 64), (0x030, w64 x.scrub.length), (0x0A0, 0), (0x0A8, x.keyStatus.setWidth 64), (0x220, 0),
    (0x228, x.skeyStatus.setWidth 64), (0x420, 0), (0x428, w64 (maskOf 16 (fun p => (nfind x.ckeys p).isSome)))] o
  <|> inArr o 0x040 8 12 (fun _ => 0) <|> inArr o 0x200 8 4 (fun _ => 0) <|> inArr o 0x400 8 4 (fun _ => 0)
  <|> inArr o 0x100 8 8 (keySlotWord m) <|> inArr o 0x300 8 16 (skeyEp m)

/-- WDG_STATUS (R587). -/
def wdgStatus (m : Module) : W64 :=
  let x := m.wdg
  pack [(x.suspects.length, 40), (x.slotOpen.getD 0xFF, 32), (x.pend.foldl (fun a y => max a y.1) 0, 16), ofBool x.phase 3,
    ofBool (!m.tray.pwrcycReqN) 2, ofBool x.badCmd 1]

/-- WDG_SUSPECT i (R589). -/
def suspectWord (x : Wdg) (i : Nat) : W64 :=
  match x.suspects[i]? with
  | none => 0
  | some s => pack [(1, 63), (s.verdict, 60), (s.cls, 52), (s.unit, 32), (s.part, 8), ofBool s.exec 4, (s.ctx, 0)]

/-- The WDG block (R585 to R589). -/
def wdgRead (m : Module) (o : Nat) : Option W64 :=
  let x := m.wdg
  atOff [
    (0x000, pack [ofBool x.pwrAuto 6, (x.auto.toNat, 1)]), (0x008, wdgStatus m), (0x010, x.ctxTmo.setWidth 64),
    (0x018, x.engTmo.setWidth 64), (0x020, x.partTmo.setWidth 64), (0x028, x.wingTmo.setWidth 64), (0x030, x.ctxDrain.setWidth 64),
    (0x038, pack [(x.escWin.toNat, 32), (x.escCount.toNat, 0)]), (0x040, pack [(x.slotMax.toNat, 32), (x.slotGap.toNat, 0)]),
    (0x048, 0), (0x050, x.noticeSrc), (0x058, x.noticeDst), (0x060, x.noticeArg), (0x068, 0),
    (0x070, pack [(x.cntCtx.toNat, 48), (x.cntEng.toNat, 32), (x.cntPart.toNat, 16), (x.cntWing.toNat, 8), (x.cntChip.toNat, 0)]),
    (0x078, x.noticeRej.setWidth 64)] o
  <|> inArr o 0x100 8 32 (suspectWord x)
  <|> inArr o 0x800 0x10 128 (fun k => nget 0 x.entries k) <|> inArr o 0x808 0x10 128 (fun k => nget 0 x.exits k)

def slotStCode (s : SlotSt) : Nat :=
  match s with
  | .open => 1 | .computed => 2 | .verified => 3 | .committed => 4 | .failed => 5 | .undecided => 6

/-- VST_SLOT s (R552). -/
def slotWord (v : Vst) (i : Nat) : W64 :=
  match nfind v.slots i with
  | none => 0
  | some s => pack [ofBool s.norec 57, ofBool s.taint 56, ofBool s.verifiedSeen 55, ofBool s.voting 54, ofBool s.replayed 53,
      (slotStCode s.st, 48), (s.step.toNat, 0)]

def snapCode (s : SnapSt) : Nat :=
  match s with
  | .empty => 0 | .copying => 1 | .valid => 2 | .draining => 3 | .drained => 4

/-- One partition's set of the VST block (R550 to R552). -/
def vstRead (m : Module) (p o : Nat) : Option W64 :=
  let v := m.vst' p
  atOff [
    (0x00, pack [ofBool v.enable 8, (v.depth.toNat, 0)]), (0x08, v.vest.setWidth 64), (0x10, v.shard.setWidth 64),
    (0x18, v.snap.setWidth 64), (0x20, 0), (0x28, v.cmdStep.setWidth 64), (0x30, v.cmdBeat.setWidth 64),
    (0x38, pack [(v.lastCode.toNat, 16), ofBool v.regionBad 12, ofBool v.cfgIgn 11, ofBool (soloSlot m p).isSome 10,
      ofBool (v.slots.any (fun x => x.2.replayMode != 0)) 9, ofBool (holdSet v) 8, (v.slots.length, 0)]),
    (0x40, v.committed.setWidth 64), (0x48, pack [(snapCode v.snapSt, 48), (v.snapStep.toNat, 0)]), (0x50, v.drainDst),
    (0x58, v.drainDeadline.setWidth 64), (0x60, v.drainObj), (0x68, v.drainDone),
    (0x70, pack [(v.replays.toNat, 48), (v.overflows.toNat, 32), (v.putsSupp.toNat, 0)])] o
  <|> inArr o 0x80 8 8 (slotWord v)

/-- One partition's set of the MIR block (R553, R554). -/
def mirRead (m : Module) (p o : Nat) : Option W64 :=
  let x := m.mir' p
  let v := m.vst' p
  atOff [
    (0x00, x.partner.setWidth 64), (0x08, x.region.setWidth 64), (0x10, x.source.setWidth 64), (0x18, 0),
    (0x20, pack [(x.lastRefusal.toNat, 4), ofBool (decide (v.snapSt = .draining) && v.drainFab) 3, ofBool x.restore.isSome 2,
      ofBool x.inX.isSome 1, ofBool x.send.isSome 0]),
    (0x28, match x.outAck with
      | some n => pack [(1, 63), (n.toNat, 0)]
      | none => 0),
    (0x30, match x.inC with
      | some c => pack [(1, 63), ofBool c.1 48, (c.2.toNat, 0)]
      | none => 0),
    (0x38, match x.inX with
      | some i => pack [(1, 63), (i.step.toNat, 0)]
      | none => 0),
    (0x40, x.tmo.setWidth 64), (0x48, x.tx), (0x50, x.rx), (0x58, x.fulls.setWidth 64)] o

/-- The partition sets of the VST and MIR blocks lie 0x100 apart (R550, R553). -/
def partSet (f : Nat → Nat → Option W64) (o : Nat) : Option W64 := if o < 0x1000 then f (o / 0x100) (o % 0x100) else none

/-- DBG_STATUS (R741). -/
def dbgStatus (m : Module) : W64 :=
  let x := m.dbg
  pack [(x.sinkNow, 5), ofBool x.regionFull 4, ofBool x.kport 3, ofBool x.dumpRun.isSome 2, ofBool (capturing m) 0]

/-- The harts halted at a breakpoint, from hart `lo` on (R740). -/
def haltedMask (m : Module) (lo : Nat) : W64 := w64 (maskOf 64 (fun i => (m.hart (lo + i)).bpHalt))

/-- The DBG block (R740 to R743). -/
def dbgRead (m : Module) (o : Nat) : Option W64 :=
  let x := m.dbg
  atOff [
    (0x000, dbgStatus m),
    (0x008, pack [(x.pcPer.toNat, 48), (x.kinds.toNat, 32), ofBool x.stopFull 3, (x.sink.toNat, 1), ofBool x.enable 0]),
    (0x010, x.part.setWidth 64), (0x018, x.cls.setWidth 64), (0x020, x.dst.setWidth 64), (0x028, w64 (x.wptr % 2 ^ 48)),
    (0x030, x.lost.setWidth 64), (0x038, x.dumpAddr), (0x040, x.dumpFirst.setWidth 64), (0x048, x.dumpCount.setWidth 64), (0x050, 0),
    (0x058, x.telCtrl), (0x060, x.telSrc), (0x068, x.telRej.setWidth 64), (0x070, 0), (0x078, 0), (0x080, haltedMask m 0),
    (0x088, haltedMask m 64)] o
  <|> inArr o 0x100 8 7 (fun s => nget 0 x.evtSev s)
  <|> (if 0x200 ≤ o ∧ o < 0x600 ∧ o % 8 = 0 ∧ o % 0x40 < 0x38 then some (partCounter m ((o - 0x200) / 0x40) (o % 0x40 / 8)) else none)
  <|> inArr o 0x1000 8 128 (fun k => nget 0 x.bp k)

/-- An event ring set (R713). -/
def evrRead (m : Module) (f o : Nat) : Option W64 :=
  let r := m.evr' f
  atOff [(0x00, r.base), (0x08, pack [(r.mod_.toNat, 16), (r.size.toNat, 8), ofBool r.enable 0]), (0x10, r.head.setWidth 64),
    (0x18, r.tail.setWidth 64), (0x20, r.lost.setWidth 64)] o

/-- The PCI block (R712 to R716). -/
def pciRead (m : Module) (o : Nat) : Option W64 :=
  let x := m.pci
  atOff [
    (0x000, pack [(x.rate.toNat, 16), (x.width.toNat, 8), ofBool x.flit 5, ofBool x.linkUp 0]),
    (0x008, pack [(x.readyBeat.toNat, 16), ofBool x.copyB 9, ofBool x.degraded 8, (x.failStage, 4), (x.stage, 0)]),
    (0x010, pack [ofBool x.slotChanged 5, ofBool x.slotValid 4, (x.slotId.toNat, 0)]), (0x018, x.unmappedW ++ x.unmappedR),
    (0x020, x.vfDenied.setWidth 64), (0x028, x.spiShort.setWidth 64), (0x030, x.spiExcess.setWidth 64), (0x038, x.spiBad.setWidth 64),
    (0x040, x.ide.setWidth 64), (0x048, 0)] o
  <|> inArr o 0x080 8 9 (fun s => (nget 0 x.slotMap s).setWidth 64)
  <|> inArr o 0x100 8 32 (fun i => match x.bistFail[i]? with
      | some u => pack [(1, 31), (u.1, 16), (u.2, 0)]
      | none => 0)
  <|> (if 0x1000 ≤ o ∧ o < 0x1440 then evrRead m ((o - 0x1000) / 0x40) (o % 0x40) else none)

/-- Four bins of a histogram, the lowest in [15:0]. -/
def binWord (l : List Nat) (i : Nat) : W64 := pack ((List.range 4).map (fun j => (l.getD (i + j) 0, 16 * j)))

/-- A port's window (R473 to R475). -/
def nutRead (m : Module) (k o : Nat) : Option W64 :=
  let p := m.port' k
  let c := p.cnt
  atOff [
    (0x000, pack [ofBool p.eqLight 31, ((spareNow m p).toNat, 24), (p.lanes.toNat, 12), (p.ver.toNat, 8), (portStCode p.st, 0)]),
    (0x008, pack [(p.verMax.toNat, 5), ofBool p.enable 0]), (0x010, p.delay.setWidth 64), (0x018, p.nbrDev),
    (0x020, p.nbrPort.setWidth 64), (0x028, w64 (headroom p.delay % 1024)), (0x070, p.tcWgt.setWidth 64),
    (0x078, p.tc0Limit.setWidth 64), (0x080, p.tailTmo.setWidth 64), (0x100, c.tx), (0x108, c.rx), (0x110, c.crc.setWidth 64),
    (0x118, c.orphan.setWidth 64), (0x120, c.trunc.setWidth 64), (0x128, c.lenBad.setWidth 64), (0x130, c.overrun.setWidth 64),
    (0x138, c.hdrBad.setWidth 64), (0x140, c.downDrop.setWidth 64), (0x148, c.tc0Shaped), (0x150, c.fcIgn.setWidth 64),
    (0x158, c.laneLoss.setWidth 64), (0x160, 0), (0x200, p.cmapWin.setWidth 64)] o
  <|> inArr o 0x030 8 8 (fun v => let x := vcOf p v; pack [(x.off, 16), (x.on, 0)])
  <|> inArr o 0x208 0x10 8 (fun v => binWord (vcOf p v).last 0)
  <|> inArr o 0x210 0x10 8 (fun v => binWord (vcOf p v).last 4)
  <|> inArr o 0x288 8 8 (fun v => w64 (vcOf p v).lastX)

def rteStCode (s : RteSt) : Nat :=
  match s with
  | .idle => 0 | .armed => 1 | .refused => 2

/-- Half `h` of a routing entry. -/
def entHalf (x : BitVec 128) (h : Nat) : W64 := w64 (fld x (64 * h) 64)

/-- RTE_EPOCH n (R476). -/
def epochWord (m : Module) (n : Nat) : W64 :=
  let e := nget (0, 0) m.rte.epochs n
  let s := match m.img.active with
    | some t => t.slices[n]?
    | none => none
  pack [(match s with
    | some x => x.slice
    | none => 0, 32), ofBool s.isSome 31, (e.1.toNat, 8), (e.2.toNat, 0)]

/-- The RTE block (R476, R477). -/
def rteRead (m : Module) (o : Nat) : Option W64 :=
  let x := m.rte
  atOff [
    (0x000, pack [ofBool x.chipValid 31, (x.chip.toNat, 0)]), (0x008, pack [ofBool (bit x.nextRaw 31) 31, (fld x.nextRaw 0 13, 0)]), (0x010, 0), (0x018, x.swapBeat.setWidth 64),
    (0x020, pack [(x.entry.toNat, 32), (x.lastCode.toNat, 16), ofBool x.badCmd 9, (rteStCode x.st, 0)]),
    (0x028, x.noRoute.setWidth 64), (0x030, x.stale.setWidth 64), (0x038, x.sliceRej.setWidth 64), (0x040, x.nopart.setWidth 64),
    (0x048, x.shadowIgn.setWidth 64), (0x050, 0)] o
  <|> inArr o 0x100 8 16 (epochWord m)
  <|> inArr o 0x10000 8 8192 (fun i => entHalf (nget 0 x.active (i / 2)) (i % 2))
  <|> inArr o 0x20000 8 8192 (fun i => entHalf (nget 0 x.shadow (i / 2)) (i % 2))

/-- ARC_STATUS (R511). -/
def arcStatus (m : Module) (a : Nat) : W64 :=
  let votes := if a = 0 then maskOf 16 (fun p => m.vote.running.any (fun x => x.1 = p)) else 0
  match (m.arc' a).op with
  | some o => pack [(fld (arOpId o.desc) 0 16, 48), (o.phase % 2 ^ 15, 33), (o.desc.part, 21), ofBool o.ring 16, (votes, 0)]
  | none => pack [(0x1F, 21), (votes, 0)]

/-- ARC_VOTE_STEP p and ARC_VOTE_RES p are live in Arcade 0's window (R510). -/
def voteStepWord (m : Module) (a p : Nat) : W64 :=
  let s := nget (false, 0) m.vote.lastStep p
  if a = 0 then pack [ofBool s.1 63, (s.2.toNat, 0)] else 0
def voteResWord (m : Module) (a p : Nat) : W64 :=
  let s := nget (0, 0) m.vote.lastRes p
  if a = 0 then s.1 ++ s.2 else 0

/-- An Arcade's window (R510 to R512). -/
def arcRead (m : Module) (a o : Nat) : Option W64 :=
  let x := m.arc' a
  atOff [
    (0x000, arcStatus m a), (0x008, pack [(x.voteTmo.toNat, 32), (x.tmoDef.toNat, 0)]), (0x010, partDepths m 7 a 0 12),
    (0x018, partDepths m 7 a 12 4), (0x020, x.ops), (0x028, x.tx), (0x030, x.rx), (0x038, x.adds), (0x040, x.timeouts.setWidth 64),
    (0x048, x.latePkt.setWidth 64), (0x050, x.earlyDrop.setWidth 64), (0x058, x.refused.setWidth 64), (0x060, x.xwing),
    (0x068, x.errLast), (0x070, 0)] o
  <|> inArr o 0x100 0x10 16 (voteStepWord m a) <|> inArr o 0x108 0x10 16 (voteResWord m a)

/-! ### Engines -/

/-- The kind of a stretch that a cycle lies in. -/
def segAt (l : List Seg) (c : Nat) : Option SegKind := (l.find? (fun s => s.start ≤ c && c < s.start + s.len)).map (·.kind)

/-- Whether a stream on the array is in a load (1), among its vectors (2), or over (R201, R227). -/
def streamPhase (l : List Seg) (c endC : Nat) : Option Nat :=
  if endC ≤ c then none
  else match segAt l c with
    | some .load => some 1
    | some .loadStall => some 1
    | _ => some 2

/-- The phase of a Gallery descriptor (R227): 1 loading, 2 streaming, 3 draining, 4 preloading. -/
def galPhase (m : Module) (o : GalOp) : Nat :=
  if o.preload then 4
  else if o.desc.ty = 0x10 then (streamPhase o.segs m.clk.cycle o.nextC).getD 3 else 3

/-- The descriptor that a Gallery executes, the last that has started, an UP while it streams (R247): its context, phase and SEQ. -/
def galNow (m : Module) (x : Gal) (b : Bal) : Option (Nat × Nat × W64) :=
  match b.ups.getLast? with
  | some u => match streamPhase u.segs m.clk.cycle u.endC with
    | some p => some (u.desc.ctx, p, u.desc.seq)
    | none => x.ops.getLast?.map (fun o => (o.desc.ctx, galPhase m o, o.desc.seq))
  | none => x.ops.getLast?.map (fun o => (o.desc.ctx, galPhase m o, o.desc.seq))

/-- The rows that a descriptor reads out or preloads, as the first and their number. -/
def opRows (o : GalOp) : Nat × Nat := if o.desc.ty = 0x10 then (mmRow0 o.desc, mmM o.desc) else (accRow0 o.desc, accM o.desc)

/-- Row groups being read out or preloaded: each of a descriptor's groups in turn, for 32 cycles (R197, R227). -/
def groupsHeld (m : Module) (x : Gal) : Nat :=
  let c := m.clk.cycle
  maskOf 8 (fun g => x.ops.any (fun o =>
    (o.readout || o.preload) && o.rdStart ≤ c && c ≤ o.rdEnd &&
    (groupsOf (opRows o).1 (opRows o).2)[(c - o.rdStart) / 32]? = some g))

/-- A Gallery's window (R226 to R228). The odd member of a full-mode pair shows the descriptor that it runs in lockstep (R221). -/
def galRead (m : Module) (g o : Nat) : Option W64 :=
  let x := m.gal' g
  let e := m.gal' (pairLead m g)
  let b := m.bal' (pairLead m g)
  let now := galNow m e b
  let left := galLeft m.clk.cycle e b
  let chk := match owner m 0 g with
    | some p => chkOn m p
    | none => false
  atOff [
    (0x000, pack ([(groupsHeld m e, 40), ofBool (pairedOdd m 0 g) 1, ofBool chk 0] ++ (match now with
      | some d => [(d.1, 32), (d.2.1, 24)]
      | none => []))),
    (0x008, match now with
      | some d => d.2.2
      | none => 0),
    (0x010, ctxDepths m 0 g), (0x018, x.busy - left.1), (0x020, x.vec - left.2.1), (0x028, x.stallLoad - left.2.2.1),
    (0x030, x.stallHall - left.2.2.2.1), (0x038, x.stallIlk - left.2.2.2.2),
    (0x040, x.refused.setWidth 64), (0x048, x.nanrep ++ x.clip), (0x050, x.chkPass), (0x058, x.chkFail.setWidth 64),
    (0x060, x.chkSkip.setWidth 64), (0x068, x.chkLast), (0x070, x.eccU ++ x.eccC), (0x078, x.eccLast), (0x080, 0)] o

/-- ADP_SLOT s (R261). -/
def adpSlotWord (x : Bal) (s : Nat) : W64 :=
  let e := nget Slot.init x.slots s
  pack [(e.variant.toNat, 32), ofBool e.valid 31, (e.fmt.toNat, 16), (e.r - 1, 0)]

/-- The descriptor that holds a Balcony, with its phase (R234, R262): a DOWN; an UP until its last vector has entered; or the one
selected at the head of the queues, an UP that waits for the array (3) or an SCR_READ, which is read until its command ends it (5). -/
def balHolds (m : Module) (b : Nat) : Option (Desc × Nat) :=
  let x := m.bal' b
  match x.held with
  | some h => some (h.desc, h.phase)
  | none =>
    match x.ups.find? (fun o => decide (m.clk.cycle < o.endC)) with
    | some o => some (o.desc, 4)
    | none =>
      match balHead m b 0x22, balHead m b 0x23 with
      | some (_, d), _ => some (d, 3)
      | none, some (_, d) => some (d, 5)
      | none, none => none

/-- A Balcony's window (R261, R262). The odd member of a full-mode pair shows the descriptor that it runs in lockstep (R257). -/
def adpRead (m : Module) (b o : Nat) : Option W64 :=
  let x := m.bal' b
  let now := balHolds m (pairLead m b)
  atOff [
    (0x000, pack ([ofBool (pairedOdd m 0 b) 1, ofBool now.isNone 0] ++ (match now with
      | some d => [(d.1.ctx, 32), (d.2, 24)]
      | none => []))),
    (0x008, match now with
      | some d => d.1.seq
      | none => 0),
    (0x010, ctxDepths m 1 b), (0x018, x.taps), (0x020, x.upVec), (0x028, x.stallHall), (0x030, x.refused.setWidth 64),
    (0x038, x.tapMiss.setWidth 64), (0x040, x.nanrep ++ x.clip), (0x048, x.tagBad.setWidth 64), (0x050, x.eccU ++ x.eccC),
    (0x058, x.eccLast), (0x060, 0)] o
  <|> inArr o 0x100 8 8 (adpSlotWord x)

/-- The mark in force of a descriptor executing: 4 × phase + pass section. -/
def markNow (m : Module) (o : EngOp) : Nat := o.marks.foldl (fun a k => if k.1 ≤ m.clk.cycle then k.2 else a) 0

/-- CTX and PHASE of an engine's status register, and its SEQ register (R300, R341). -/
def engStatus (m : Module) (op : Option EngOp) : List (Nat × Nat) :=
  match op with
  | some o => [(o.desc.ctx, 32), (markNow m o / 4, 24)]
  | none => []
def engSeq (op : Option EngOp) : W64 :=
  match op with
  | some o => o.desc.seq
  | none => 0

/-- The clipped share of a stream set (R275). -/
def clipShare (s : StreamSet) : Nat := if s.elems = 0 then 0 else 2 ^ 24 * s.clip.toNat / s.elems.toNat

/-- One register of a stream set (R299, R301). -/
def streamRead (s : StreamSet) (o : Nat) : Option W64 :=
  atOff [(0x00, s.elems), (0x08, s.clip), (0x10, s.nanrep), (0x18, s.under), (0x20, s.amax.setWidth 64), (0x28, w64 (clipShare s)),
    (0x30, s.thresh.setWidth 64), (0x38, pack [ofBool s.high 8])] o

/-- A Riser's window (R299 to R301). The odd member of a full-mode pair shows the descriptor that it runs in lockstep (R295). -/
def risRead (m : Module) (r o : Nat) : Option W64 :=
  let x := m.ris' r
  let op := (m.ris' (risLead m r)).op
  let left := engLeft m.clk.cycle op
  let sr := match op with
    | some d => decide (cvRnd d.desc = 1)
    | none => false
  atOff [
    (0x000, pack ([ofBool (pairedOdd m 2 r) 1, ofBool sr 0] ++ engStatus m op)), (0x008, engSeq op), (0x010, ctxDepths m 3 r),
    (0x018, x.busy - left.1), (0x020, x.elems), (0x028, x.stallHall - left.2.1), (0x030, x.stallNwl - left.2.2),
    (0x038, x.refused.setWidth 64), (0x040, 0)] o
  <|> (if 0x100 ≤ o ∧ o < 0x500 then streamRead (nget StreamSet.init x.sets ((o - 0x100) / 0x40)) (o % 0x40) else none)

/-- A Winder's window (R302). -/
def winRead (m : Module) (u o : Nat) : Option W64 :=
  let x := m.win' u
  let left := engLeft m.clk.cycle x.op
  atOff [
    (0x000, pack (engStatus m x.op)), (0x008, engSeq x.op), (0x010, ctxDepths m 4 u), (0x018, x.busy - left.1), (0x020, x.elems),
    (0x028, x.stallHall - left.2.1), (0x030, x.stallNwl - left.2.2), (0x038, x.refused.setWidth 64), (0x040, x.nanrep ++ x.clip),
    (0x048, x.special.setWidth 64), (0x050, x.eccU ++ x.eccC), (0x058, x.eccLast), (0x060, 0)] o

/-- A Landing's window (R340, R341). The odd member of a full-mode pair shows the descriptor that it runs in lockstep (R321). -/
def lndRead (m : Module) (l o : Nat) : Option W64 :=
  let x := m.lnd' l
  let op := (m.lnd' (lndLead m l)).op
  let left := lndLeft m.clk.cycle op
  let more := match op with
    | some d => [(markNow m d % 4, 16), ofBool (rnBf d.desc) 0]
    | none => []
  atOff [
    (0x000, pack ([ofBool (pairedOdd m 1 l) 1] ++ engStatus m op ++ more)), (0x008, engSeq op), (0x010, ctxDepths m 2 l),
    (0x018, x.busy - left.1), (0x020, x.ops - left.2.1), (0x028, x.stallDep - left.2.2.1), (0x030, x.stallHall - left.2.2.2.1),
    (0x038, x.stallNwl - left.2.2.2.2), (0x040, x.refused.setWidth 64),
    (0x048, x.nanrep ++ x.clip), (0x050, x.eccU ++ x.eccC), (0x058, x.eccLast), (0x060, 0)] o

/-- A Newel's window (R342, R343). -/
def nwlRead (m : Module) (w o : Nat) : Option W64 :=
  let x := m.nwl' w
  let left := nwlLeft m w
  let part := match x.op with
    | some d => d.desc.part
    | none => 0x1F
  let lanes := if m.clk.cycle = 0 then 0 else genLanes m w (m.clk.cycle - 1)
  atOff [
    (0x000, pack [(part, 16), (lanes, 0)]), (0x008, x.calls - left.1), (0x010, x.grantMiss - left.2), (0x018, x.refused.setWidth 64),
    (0x020, partDepths m 5 w 0 12), (0x028, partDepths m 5 w 12 4), (0x030, x.eccU ++ x.eccC), (0x038, 0)] o
  <|> inArr o 0x100 8 128 (fun k => nget 0 x.seeds k) <|> inArr o 0x800 8 16 (fun p => (nget 0 x.step p).setWidth 64)

/-- The descriptor that a Flight engine issues, or the oldest that it drains (R418). -/
def fltNow (x : Flt) : Option FltOp :=
  match x.ops.find? (fun o => !o.issuedAll && o.err = 0) with
  | some o => some o
  | none => x.ops.head?

/-- The phase of a Flight engine (R418): 1 issuing, 2 waiting for tags, 3 draining, 4 draining while a descriptor with
FENCE heads its queues (R392). -/
def fltPhase (m : Module) (f : Nat) : Nat :=
  match fltNow (m.flt' f) with
  | none => 0
  | some o =>
    if o.issuedAll || o.err != 0 then (match headOwned m 6 f with
      | some (_, d) => if d.fl 2 then 4 else 3
      | none => 3)
    else if !isGather o.desc && !needsTag m o.desc (walkSrc o.desc o.next) (walkDst o.desc o.next) then 1
    else if (tagFor m f).isNone then 2 else 1

/-- A Flight engine's window (R416 to R418). -/
def fltRegs (m : Module) (f o : Nat) : Option W64 :=
  let x := m.flt' f
  let now := fltNow x
  atOff [
    (0x000, pack ([(fltPhase m f, 0)] ++ (match now with
      | some d => [(d.desc.ctx, 32), (d.desc.ty.toNat % 16, 24)]
      | none => []))),
    (0x008, match now with
      | some d => d.desc.seq
      | none => 0),
    (0x010, ctxDepths m 6 f), (0x018, pack [(x.tmo.toNat, 32), (x.maxShare.toNat, 0)]), (0x020, x.rd), (0x028, x.wr),
    (0x030, pack [(x.tagsMax.toNat, 16), (tagsHeld m f false + tagsHeld m f true, 0)]), (0x038, x.stallTag + BitVec.ofNat 64 (stallPast m f)), (0x040, x.refused.setWidth 64),
    (0x048, x.late ++ x.errors), (0x050, x.pfFilled), (0x058, x.pfUsed), (0x060, x.pfTimely), (0x068, x.pfWaste), (0x070, x.errLast),
    (0x078, w64 (poolFree m (f / 16))), (0x080, 0)] o

/-! ### Memory, control cores, checking -/

/-- One partition's cache registers (R384 to R386). -/
def cacheRead (m : Module) (p o : Nat) : Option W64 :=
  let c := m.cache p
  atOff [(0x00, 0), (0x08, pack [(dirtySectors c, 32), ofBool (cacheSets m p != 0) 1, ofBool c.busy.isSome 0]), (0x10, c.hit),
    (0x18, c.miss), (0x20, c.wb), (0x28, c.atom), (0x30, c.ign.setWidth 64)] o

/-- The HALL block of a wing (R384): a partition's set is live on the wing that holds its HALL0. -/
def hallRegs (m : Module) (w o : Nat) : Option W64 :=
  let x := m.hallW' w
  atOff [(0x000, x.eccU ++ x.eccC), (0x008, x.eccLast), (0x010, x.conflict), (0x018, x.aged), (0x020, x.remote), (0x028, 0)] o
  <|> (if 0x100 ≤ o ∧ o < 0x500 then
        let p := (o - 0x100) / 0x40
        (cacheRead m p (o % 0x40)).map (fun v => if cacheWing m p = w then v else 0)
      else none)

/-- A channel test set (R388 to R390). -/
def tgRead (m : Module) (k o : Nat) : Option W64 :=
  let t := tgNow m k
  atOff [
    (0x00, pack [(t.passes.toNat, 16), (t.order.toNat, 10), (t.mode.toNat, 8), ofBool t.invert 7, (t.pattern.toNat, 4)]),
    (0x08, pack [(t.passesDone.toNat, 32), ofBool t.refused 2, ofBool t.isDone 1, ofBool t.running 0]), (0x10, t.base.setWidth 64),
    (0x18, t.len.setWidth 64), (0x20, t.seed.setWidth 64), (0x28, t.errs), (0x30, t.first.setWidth 64), (0x38, t.bits)] o
  <|> inArr o 0x40 8 4 (fun i => t.user.getD i 0)

/-- An HBM4 stack's or LPDDR5X package's window (R387); `tg` the first channel of its test sets, at `base`. -/
def memRegs (m : Module) (u : MemUnit) (base n tg o : Nat) : Option W64 :=
  atOff [(0x000, pack [ofBool u.selfRefresh 1, ofBool u.trained 0]), (0x008, u.temp.setWidth 64), (0x010, u.rd), (0x018, u.wr),
    (0x020, u.rmw), (0x028, u.atom), (0x030, u.eccU ++ u.eccC), (0x038, u.eccLast), (0x040, 0)] o
  <|> (if base ≤ o ∧ o < base + 0x80 * n then tgRead m (tg + (o - base) / 0x80) ((o - base) % 0x80) else none)

/-- A control core's window (R145 to R148). -/
def ccRead (m : Module) (c o : Nat) : Option W64 :=
  let h (i : Nat) : Hart := m.hart (hartKey c i)
  atOff [
    (0x000, w64 (maskOf 4 (fun i => (h i).run))),
    (0x008, pack [(maskOf 4 (fun i => (h i).faulted), 8), (maskOf 4 (fun i => (h i).wait.isSome), 4),
      (maskOf 4 (fun i => (h i).on && !(h i).bpHalt), 0)])] o
  <|> inArr o 0x010 8 4 (fun i => (h i).boot) <|> inArr o 0x030 8 4 (fun i => (h i).pc) <|> inArr o 0x050 8 4 (fun i => (h i).fault)

/-- The Baluster's window (R620 to R622). -/
def chkRead (m : Module) (w o : Nat) : Option W64 :=
  let x := m.chk' w
  atOff [
    (0x000, x.cmp), (0x008, x.mismatch.setWidth 64), (0x010, x.lost.setWidth 64), (0x018, x.last),
    (0x020, pack [(x.ptUnit.toNat, 48), (x.ptCls.toNat, 40), (x.ptSlot.toNat, 32), (x.ptFirst.toNat, 16), (x.ptLast.toNat, 8)]),
    (0x028, pack [(x.failTest.toNat, 48), (x.temp.toNat, 40), (x.reason.toNat, 32), ofBool x.notSoaked 3, (x.ptSt, 0)]), (0x030, 0)] o
  <|> inArr o 0x100 8 16 (fun p => (nget 0 x.pmis p).setWidth 64)

/-- The Corridor endpoint's window (R618). -/
def corRead (m : Module) (w o : Nat) : Option W64 :=
  let x := m.cor' w
  atOff [(0x000, x.status.setWidth 64), (0x008, x.retry), (0x010, x.repair.setWidth 64), (0x018, x.tx + nget 0 m.dbg.corTx w),
    (0x020, x.rx + nget 0 m.dbg.corRx w)] o

/-! ### The whole map -/

/-- What a register reads as; none where the window holds no register. -/
def regValue (m : Module) (x : RegPlace) : Option W64 :=
  let o := x.off
  match x.blk with
  | .top => topRead m o
  | .img => imgRead m o
  | .beat => beatRead m o
  | .pwr => pwrRead m o
  | .hlt => hltRead m o
  | .sec => secRead m o
  | .wdg => wdgRead m o
  | .vst => partSet (vstRead m) o
  | .mir => partSet (mirRead m) o
  | .dbg => dbgRead m o
  | .pci => pciRead m o
  | .nut => nutRead m x.unit o
  | .rte => rteRead m o
  | .arc => arcRead m x.unit o
  | .gal => galRead m x.unit o
  | .adp => adpRead m x.unit o
  | .lnd => lndRead m x.unit o
  | .ris => risRead m x.unit o
  | .win => winRead m x.unit o
  | .nwl => nwlRead m x.unit o
  | .flt => fltRegs m x.unit o
  | .hall => hallRegs m x.unit o
  | .hbm => memRegs m (memUnit m.mem 1 x.unit) 0x1000 32 (32 * x.unit) o
  | .lpx => memRegs m (memUnit m.mem 2 x.unit) 0x800 4 (256 + 4 * x.unit) o
  | .cc => ccRead m x.unit o
  | .chk => chkRead m x.unit o
  | .cor => corRead m x.unit o

/-- The hardware of a gated Gallery is reset before it is seen (R626), and a sensor is read at that moment: its value is the
environment's (log entry 4). -/
def sense (x : RegPlace) (m : Module) : Module :=
  let m := gateSweep m
  let v := freeVal m
  let p := v.2.pwr
  match x.blk, x.off with
  | .pwr, 0x020 => { v.2 with pwr := { p with inputMw := v.1.setWidth 32 } }
  | .pwr, 0x028 => senseAvg m
  | .pwr, 0x030 => { v.2 with pwr := { p with energy := p.energy + w64 (fld v.1 0 32) } }
  | .pwr, 0x050 => { v.2 with pwr := { p with temp := v.1.setWidth 8 } }
  | .hbm, 0x008 => updMemUnit 1 x.unit (fun u => { u with temp := v.1.setWidth 8 }) v.2
  | .lpx, 0x008 => updMemUnit 2 x.unit (fun u => { u with temp := v.1.setWidth 8 }) v.2
  | _, _ => m

/-- Whether a register read finds an open value: a log area with no layout in the spec. -/
def openLog (m : Module) (x : RegPlace) : Bool :=
  x.blk = .hlt && decide (0x340 ≤ x.off) && decide (x.off < 0x380) && x.off % 8 = 0 && !logInRing m.hlt

/-- A read of a register by the physical function's offset, a multiple of 8: its value, zero where there is none (R45, R46). -/
def regRead (off : Nat) (m : Module) : W64 × Module :=
  match regPlace off with
  | none => (0, unmapped false m)
  | some x =>
    if !windowOpen m x then (0, unmapped false m)
    else if fusedOff m x then (0, m)
    else
      let m := sense x m
      if openLog m x then freeVal m
      else
        match regValue m x with
        | some v => (v, m)
        | none => (0, unmapped false m)

end Sys2Proof.Machine
end

