-- ==== Sys2Proof/Machine/RegWrite.lean ====
section
/-! DEFINITION. What a write of each register does (R12 to R19, R22), the accesses of a virtual function (R698, R699, R714),
and the commands REGISTER_WRITE and REGISTER_READ. -/

namespace Sys2Proof.Machine

/-! ### How a write of 32 bits acts (R12 to R14) -/

/-- The forms of a register: fields that keep what a half write does not address; no field in the upper half; fields cleared
by writing 1; fields that are all write-only (R13, R14, R15). -/
inductive RegKind where
  | rw | low | w1c | wo
deriving DecidableEq, Repr

/-- Whether a register is write-only throughout (R14). -/
def isWo (b : Blk) (o : Nat) : Bool :=
  match b with
  | .img => o = 0x018
  | .beat => o = 0x020 || (0x040 ≤ o && o ≤ 0x060)
  | .hlt => o = 0x210 || o = 0x390
  | .sec => o = 0x008 || (0x040 ≤ o && o ≤ 0x0A0) || (0x200 ≤ o && o ≤ 0x220) || (0x400 ≤ o && o ≤ 0x420)
  | .wdg => o = 0x048 || o = 0x068
  | .vst => o % 0x100 = 0x20
  | .mir => o % 0x100 = 0x18
  | .dbg => o = 0x050 || o = 0x070 || o = 0x078
  | .pci => o = 0x048
  | .nut => o = 0x160
  | .rte => o = 0x010 || o = 0x050
  | .arc => o = 0x070
  | .gal => o = 0x080
  | .adp => o = 0x060
  | .ris => o = 0x040
  | .win => o = 0x060
  | .lnd => o = 0x060
  | .nwl => o = 0x038
  | .flt => o = 0x080
  | .hall => o = 0x028 || (0x100 ≤ o && o < 0x500 && o % 0x40 = 0)
  | .hbm => o = 0x040
  | .lpx => o = 0x040
  | .chk => o = 0x030
  | _ => false

/-- Whether a register clears bits by writing 1. -/
def isW1c (b : Blk) (o : Nat) : Bool :=
  match b with
  | .img => o = 0x020
  | .beat => 0x108 ≤ o && o < 0x200 + 8
  | .sec => o = 0x228
  | .wdg => o = 0x008
  | .vst => o % 0x100 = 0x38
  | .pci => o = 0x010
  | .rte => o = 0x020
  | .cc => o = 0x008
  | .hbm => 0x1000 ≤ o && o % 0x80 = 8
  | .lpx => 0x800 ≤ o && o % 0x80 = 8
  | _ => false

/-- Whether a register has every writable field in its lower half, and a write of it acts. -/
def isLow (b : Blk) (o : Nat) : Bool :=
  match b with
  | .img => o = 0
  | .beat => o = 0x010
  | .vst => o % 0x100 = 0
  | .nut => o = 0x008
  | .cc => o = 0
  | .pci => 0x1000 ≤ o && o % 0x40 = 0x10
  | .dbg => o = 0x010 || o = 0x018 || o = 0x020
  | _ => false

def regKind (b : Blk) (o : Nat) : RegKind :=
  if isWo b o then .wo else if isW1c b o then .w1c else if isLow b o then .low else .rw

/-- The 64-bit value that a half write brings: `cur` what the other half keeps. -/
def halfVal (upper : Bool) (val cur : W64) : W64 :=
  if upper then val.setWidth 32 ++ cur.setWidth 32 else (cur >>> 32).setWidth 32 ++ val.setWidth 32

/-- The state that a row of the command table leaves, or the state as it is. -/
def act (f : State → Out) (m : Module) : Module :=
  match f { pending := [], m := m } with
  | .next s => s.m
  | _ => m

/-- A write of 1 to a register that acts on bit 0. -/
def onOne (v : W64) (f : Module → Module) (m : Module) : Module := if bit v 0 then f m else m

/-- A write to a field that the security lock protects (R15, R657). -/
def lkWrite (off : Nat) (f : Module → Module) (m : Module) : Module := if m.sec.locked then lkIgnored off m else f m

/-! ### Chip-wide blocks -/

def imgAct (o : Nat) (v : W64) (m : Module) : Module :=
  let set (f : Img → Img) (m : Module) : Module := { m with img := f m.img }
  match o with
  | 0x000 =>
    let m := set (fun x => { x with latePolicy := bit v 0 }) m
    lkWrite 0x10000 (set (fun x => { x with devUnsigned := bit v 1 })) m
  | 0x008 => set (fun x => { x with loadAddr := v }) m
  | 0x010 => set (fun x => { x with loadLen := v.setWidth 21 }) m
  | 0x018 => imgCmd v m
  | 0x020 => if bit v 9 && !sameCycle m m.img.badCmdAt then set (fun x => { x with badCmd := false }) m else m
  | 0x028 => set (fun x => { x with applyBeat := v.setWidth 48 }) m
  | _ => m

def beatAct (o : Nat) (v : W64) (m : Module) : Module :=
  if o = 0x010 then gmCtrl v m
  else if o = 0x018 then { m with beat := { m.beat with distMask := v.setWidth 16 } }
  else if o = 0x020 then beatSet v m
  else if 0x040 ≤ o ∧ o < 0x060 then { m with beat := { m.beat with mqDesc := m.beat.mqDesc.set ((o - 0x040) / 8) v } }
  else if o = 0x060 then onOne v mqPush m
  else if 0x108 ≤ o ∧ o % 0x10 = 8 then
    let p := (o - 0x108) / 0x10
    if bit v 0 && !sameCycle m (nget none m.beat.almLateAt p) then
      { m with beat := { m.beat with almLate := nset (0, 0) m.beat.almLate p (0, 0) } }
    else m
  else m

def pwrAct (o : Nat) (v : W64) (m : Module) : Module :=
  let x := m.pwr
  match o with
  | 0x000 => setPwr m { x with slackTx := bit v 2, bandLock := bit v 1 }
  | 0x048 => setPwr m { x with thermThr := v.setWidth 8 }
  | 0x058 => setPwr m { x with slackDst := v.setWidth 13 }
  | _ => m

/-- What a fetch that a register write starts brings is the environment's: an error or bytes, as free values. -/
def freeFetch (n : Nat) (m : Module) : FetchResult × Module :=
  let x := freeVal m
  if bit x.1 0 then (.error, x.2)
  else
    let y := freeBytes n x.2
    (.data y.1, y.2)

/-- HLT_PACK_CMD (R600). -/
def packCmd (v : W64) (m : Module) : Module :=
  if bit v 4 then
    let r := freeFetch (packBytes m.hlt) m
    packLoad v r.1 r.2
  else m

def hltAct (o : Nat) (v : W64) (m : Module) : Module :=
  let set (f : Hlt → Hlt) (m : Module) : Module := { m with hlt := f m.hlt }
  match o with
  | 0x008 => set (fun h => { h with win := v.setWidth 48 }) m
  | 0x010 => lkWrite 0x40010 (set (fun h => { h with thrC := v })) m
  | 0x018 => lkWrite 0x40018 (set (fun h => { h with thrH := v })) m
  | 0x020 => lkWrite 0x40020 (set (fun h => { h with thrG := v })) m
  | 0x028 => set (fun h => { h with unitSel := v.setWidth 24 }) m
  | 0x200 => set (fun h => { h with packAddr := v }) m
  | 0x208 => set (fun h => { h with packLen := v.setWidth 24 }) m
  | 0x210 => packCmd v m
  | 0x300 => set (fun h => { h with logSel := v.setWidth 36 }) m
  | 0x390 => hltRetire v m
  | _ => m

def secAct (o : Nat) (v : W64) (m : Module) : Module :=
  let x := m.sec
  if o = 0x008 then onOne v secLock m
  else if 0x040 ≤ o ∧ o < 0x0A0 then setSec { x with keyData := x.keyData.set ((o - 0x040) / 8) v } m
  else if o = 0x0A0 then keyCmd v m
  else if 0x200 ≤ o ∧ o < 0x220 then setSec { x with skeyData := x.skeyData.set ((o - 0x200) / 8) v } m
  else if o = 0x220 then skeyLoad v m
  else if o = 0x228 then (if sameCycle m x.skeyAt then m else setSec { x with skeyStatus := x.skeyStatus &&& ~~~(v.setWidth 2) } m)
  else if 0x400 ≤ o ∧ o < 0x420 then setSec { x with ckeyData := x.ckeyData.set ((o - 0x400) / 8) v } m
  else if o = 0x420 then ckeyCmd v m
  else m

/-- The fields of WDG_NOTICE_SRC and DBG_TEL_SRC, of WDG_NOTICE_DST, and of MIR_PARTNER (R585, R740, R553). -/
def chipsMask : W64 := 0x9FFF000080001FFF
def dstMask : W64 := 0x0FFFFF1F00001FFF
def nameMask : W64 := 0x801F1FFF

def wdgAct (o : Nat) (v : W64) (m : Module) : Module :=
  let x := m.wdg
  let set (y : Wdg) : Module := { m with wdg := y }
  match o with
  | 0x000 => set { x with pwrAuto := bit v 6, auto := BitVec.ofNat 5 (fld v 1 5) }
  | 0x008 => if bit v 1 && !sameCycle m x.badCmdAt then set { x with badCmd := false } else m
  | 0x010 => set { x with ctxTmo := v.setWidth 32 }
  | 0x018 => set { x with engTmo := v.setWidth 16 }
  | 0x020 => set { x with partTmo := v.setWidth 32 }
  | 0x028 => set { x with wingTmo := v.setWidth 11 }
  | 0x030 => set { x with ctxDrain := v.setWidth 16 }
  | 0x038 => set { x with escWin := BitVec.ofNat 32 (fld v 32 32), escCount := v.setWidth 8 }
  | 0x040 => set { x with slotMax := BitVec.ofNat 32 (fld v 32 32), slotGap := v.setWidth 16 }
  | 0x048 => resetCmd v m
  | 0x050 => set { x with noticeSrc := v &&& chipsMask }
  | 0x058 => set { x with noticeDst := v &&& dstMask }
  | 0x060 => set { x with noticeArg := w64 (fld v 0 48) }
  | 0x068 => noticeSend (fld v 0 4) m
  | o =>
    if 0x800 ≤ o ∧ o < 0x1000 then
      (if o % 0x10 = 0 then set { x with entries := nset 0 x.entries ((o - 0x800) / 0x10) v }
       else set { x with exits := nset 0 x.exits ((o - 0x808) / 0x10) v })
    else m

/-- VST_CMD (R528); a code with no command does nothing. -/
def vstCmd (p : Nat) (v : W64) (m : Module) : Module :=
  let op := fld v 0 4
  if 1 ≤ op ∧ op ≤ 6 then vstArm p op m
  else
    match op with
    | 7 => armCut p (m.vst' p).cmdStep m
    | 8 => drainHost p m
    | 9 => drainFabric p m
    | 10 => vstClear p m
    | _ => m

def vstAct (p o : Nat) (v : W64) (m : Module) : Module :=
  let x := m.vst' p
  match o with
  | 0x00 => vstCfgWrite p v m
  | 0x08 => regionWrite p 0 v m
  | 0x10 => regionWrite p 1 v m
  | 0x18 => regionWrite p 2 v m
  | 0x20 => vstCmd p v m
  | 0x28 => m.setVst p { x with cmdStep := v.setWidth 48 }
  | 0x30 => m.setVst p { x with cmdBeat := v.setWidth 48 }
  | 0x38 => m.setVst p { x with
      regionBad := x.regionBad && (!bit v 12 || sameCycle m x.regionBadAt)
      cfgIgn := x.cfgIgn && (!bit v 11 || sameCycle m x.cfgIgnAt) }
  | 0x50 => m.setVst p { x with drainDst := v }
  | 0x58 => m.setVst p { x with drainDeadline := v.setWidth 48 }
  | 0x60 => m.setVst p { x with drainObj := v }
  | _ => m

def mirAct (p o : Nat) (v : W64) (m : Module) : Module :=
  let x := m.mir' p
  match o with
  | 0x00 => m.setMir p { x with partner := (v &&& nameMask).setWidth 32 }
  | 0x08 => regionWrite p 3 v m
  | 0x10 => m.setMir p { x with source := (v &&& nameMask).setWidth 32 }
  | 0x18 => if v = 1 then mirRestore p m else if v = 2 then discardW p m else m
  | 0x40 => m.setMir p { x with tmo := v.setWidth 16 }
  | _ => m

def dbgAct (o : Nat) (v : W64) (m : Module) : Module :=
  let set (f : Dbg → Dbg) (m : Module) : Module := { m with dbg := f m.dbg }
  match o with
  | 0x008 => lkWrite 0x90008 (traceCtrl v) m
  | 0x010 => lkWrite 0x90010 (set (fun x => { x with part := v.setWidth 16 })) m
  | 0x018 => lkWrite 0x90018 (set (fun x => { x with cls := v.setWidth 12 })) m
  | 0x020 => lkWrite 0x90020 (set (fun x => { x with dst := v.setWidth 13 })) m
  | 0x038 => set (fun x => { x with dumpAddr := v }) m
  | 0x040 => set (fun x => { x with dumpFirst := v.setWidth 48 }) m
  | 0x048 => set (fun x => { x with dumpCount := v.setWidth 32 }) m
  | 0x050 => onOne v dumpStart m
  | 0x058 => set (fun x => { x with telCtrl := v &&& 0x80001FFF0000FFFF }) m
  | 0x060 => set (fun x => { x with telSrc := v &&& chipsMask }) m
  | 0x070 => lkWrite 0x90070 (onOne v aonClear) m
  | 0x078 => bpCmd v m
  | o =>
    if 0x1000 ≤ o ∧ o < 0x1400 then
      lkWrite (0x90000 + o) (set (fun x => { x with bp := nset 0 x.bp ((o - 0x1000) / 8) (v &&& 0xC00000FFFFFFFFFC) })) m
    else m

/-- An event ring set (R713); its function is held in reset while PERST_N is low (R701). -/
def evrAct (f o : Nat) (v : W64) (m : Module) : Module :=
  let r := m.evr' f
  if !m.tray.perstN then m
  else
    match o with
    | 0x00 => m.setEvr f { r with base := v &&& 0xFFFFFFFFFFFFF000 }
    | 0x08 => ringOverflow f (m.setEvr f { r with
        mod_ := BitVec.ofNat 16 (fld v 16 16), size := BitVec.ofNat 5 (fld v 8 5), enable := bit v 0 })
    | 0x10 => headWrite f v m
    | _ => m

def pciAct (o : Nat) (v : W64) (m : Module) : Module :=
  let x := m.pci
  if o = 0x010 then (if bit v 5 && !sameCycle m x.slotChangedAt then setPci { x with slotChanged := false } m else m)
  else if o = 0x048 then onOne v (fun m => setPci (pciClear m.pci) m) m
  else if 0x080 ≤ o ∧ o < 0x0C8 then
    setPci { x with slotMap := nset 0 x.slotMap ((o - 0x080) / 8) (v.setWidth 32 &&& 0x80001FFF) } m
  else if 0x1000 ≤ o then evrAct ((o - 0x1000) / 0x40) (o % 0x40) v m
  else m

/-- ENABLE of a port (R422): a write of the value it holds does nothing. -/
def portSwitch (k : Fin 16) (on : Bool) (m : Module) : Module :=
  if on = (m.port' k).enable then m else if on then act (execPortEnable k) m else act (execPortDisable k) m

/-- NUT_CTRL (R475). -/
def nutCtrl (k : Fin 16) (v : W64) (m : Module) : Module :=
  let m := m.setPort k { m.port' k with verMax := BitVec.ofNat 2 (fld v 5 2) }
  let m := portSwitch k (bit v 0) m
  if bit v 1 then act (execRelease k) m else m

def nutAct (k o : Nat) (v : W64) (m : Module) : Module :=
  let p := m.port' k
  let f : Fin 16 := Fin.ofNat 16 k
  if o = 0x008 then nutCtrl f v m
  else if 0x030 ≤ o ∧ o < 0x070 then act (execNutFcThrWrite f (Fin.ofNat 8 ((o - 0x030) / 8)) v) m
  else if o = 0x070 then m.setPort k { p with tcWgt := v.setWidth 24 }
  else if o = 0x078 then m.setPort k { p with tc0Limit := v.setWidth 16 }
  else if o = 0x080 then m.setPort k { p with tailTmo := v.setWidth 10 }
  else if o = 0x160 then onOne v (act (execNutCntClr f)) m
  else m

/-- RTE_CMD (R476). -/
def rteCmd (v : W64) (m : Module) : Module :=
  if v = 1 then rteArm m else if v = 2 then rteCancel m else rteBad m

def rteAct (o : Nat) (v : W64) (m : Module) : Module :=
  let x := m.rte
  if o = 0x008 then { m with rte := { x with nextRaw := v } }
  else if o = 0x010 then rteCmd v m
  else if o = 0x018 then { m with rte := { x with swapBeat := v.setWidth 48 } }
  else if o = 0x020 then (if bit v 9 && !sameCycle m x.badCmdAt then { m with rte := { x with badCmd := false } } else m)
  else if o = 0x050 then onOne v (act execRteCntClr) m
  else if 0x100 ≤ o ∧ o < 0x180 then
    let n := (o - 0x100) / 8
    { m with rte := { x with epochs := nset (0, 0) x.epochs n (BitVec.ofNat 8 (fld v 8 8), (nget (0, 0) x.epochs n).2) } }
  else m

def arcAct (a o : Nat) (v : W64) (m : Module) : Module :=
  if o = 0x008 then m.setArc a { m.arc' a with voteTmo := BitVec.ofNat 16 (fld v 32 16), tmoDef := v.setWidth 16 }
  else if o = 0x070 then onOne v (act (execArcCntClr (Fin.ofNat 2 a))) m
  else m

/-! ### Wing blocks -/

def risAct (r o : Nat) (v : W64) (m : Module) : Module :=
  let x := m.ris' r
  let s := (o - 0x100) / 0x40
  if o = 0x040 then
    let m := if bit v 0 then risCntClr r m else m
    if bit v 1 then m.setRis r (risClearSets m (m.ris' r)) else m
  else if 0x100 ≤ o ∧ o % 0x40 = 0x30 then
    m.setRis r { x with sets := nset StreamSet.init x.sets s { nget StreamSet.init x.sets s with thresh := v.setWidth 16 } }
  else if 0x100 ≤ o ∧ o % 0x40 = 0x38 then onOne v (fun m => m.setRis r (streamClear m s x)) m
  else m

def fltAct (f o : Nat) (v : W64) (m : Module) : Module :=
  if o = 0x018 then settleFlt f (m.setFlt f { m.flt' f with tmo := BitVec.ofNat 16 (fld v 32 16), maxShare := v.setWidth 15 })
  else if o = 0x080 then onOne v (fltCntClr f) m
  else m

/-- HALL_CCTRL p (R385): with both bits set, INVALIDATE, which writes back what FLUSH would. -/
def cctrl (p : Nat) (v : W64) (m : Module) : Module :=
  if bit v 1 then cacheCommand p true m else if bit v 0 then cacheCommand p false m else m

def hallAct (w o : Nat) (v : W64) (m : Module) : Module :=
  let p := (o - 0x100) / 0x40
  if o = 0x028 then onOne v (fun m => m.setHallW w (hallClear (m.hallW' w))) m
  else if 0x100 ≤ o ∧ o % 0x40 = 0 ∧ cacheWing m p = w then cctrl p v m
  else m

/-- TG_CTRL (R389): the faults that a test so started meets are the hardware's, as free values (log entry 15). -/
def tgCtrl (k : Nat) (v : W64) (m : Module) : Module :=
  let m := tgSet k { tgGet m k with
    passes := BitVec.ofNat 16 (fld v 16 16), order := BitVec.ofNat 2 (fld v 10 2), mode := BitVec.ofNat 2 (fld v 8 2)
    invert := bit v 7, pattern := BitVec.ofNat 3 (fld v 4 3) } m
  let m := onOne v (fun m => testStart k (Config.testFaults m.mem.freeCount) m) m
  if bit v 1 then testStop k m else m

def tgAct (k o : Nat) (v : W64) (m : Module) : Module :=
  let t := tgGet m k
  if o = 0x00 then tgCtrl k v m
  else if o = 0x08 then tgSet k { t with
      refused := t.refused && (!bit v 2 || sameCycle m t.refusedAt)
      isDone := t.isDone && (!bit v 1 || sameCycle m t.isDoneAt) } m
  else if o = 0x10 then tgSet k { t with base := v.setWidth 35 } m
  else if o = 0x18 then tgSet k { t with len := v.setWidth 36 } m
  else if o = 0x20 then tgSet k { t with seed := v.setWidth 31 } m
  else if 0x40 ≤ o ∧ o < 0x60 then tgSet k { t with user := t.user.set ((o - 0x40) / 8) v } m
  else m

/-- A memory unit's window: its counters, and its channels' test sets from `base` on. -/
def memAct (tier u base tg o : Nat) (v : W64) (m : Module) : Module :=
  if o = 0x040 then onOne v (updMemUnit tier u memClear) m
  else if base ≤ o then tgAct (tg + (o - base) / 0x80) ((o - base) % 0x80) v m
  else m

/-- A control core's window (R145 to R148). CC_BOOTh keeps and gives back all 64 bits, and a hart starts at the address as written,
though R145 calls it 4-byte aligned (DESIGN CHOICE, log entry 155). -/
def ccAct (c o : Nat) (v : W64) (m : Module) : Module :=
  if o = 0x000 then ccCtrl c v m
  else if o = 0x008 then
    (List.range 4).foldl (fun m i =>
      let h := m.hart (hartKey c i)
      if bit v (8 + i) && !sameCycle m h.faultedAt then m.setHart (hartKey c i) { h with faulted := false } else m) m
  else if 0x010 ≤ o ∧ o < 0x030 then
    let k := hartKey c ((o - 0x010) / 8)
    m.setHart k { m.hart k with boot := v }
  else m

/-- CHK_PT_CTRL (R621): the fields, then START, then STOP. -/
def ptCtrl (w : Nat) (v : W64) (m : Module) : Module :=
  let m := m.setChk w { m.chk' w with
    ptUnit := BitVec.ofNat 16 (fld v 48 16), ptCls := BitVec.ofNat 4 (fld v 40 4), ptSlot := BitVec.ofNat 2 (fld v 32 2)
    ptFirst := BitVec.ofNat 8 (fld v 16 8), ptLast := BitVec.ofNat 8 (fld v 8 8) }
  let m := onOne v (ptStart w) m
  if bit v 1 then ptStop w m else m

def chkAct (w o : Nat) (v : W64) (m : Module) : Module :=
  if o = 0x020 then ptCtrl w v m
  else if o = 0x030 then onOne v (fun m => m.setChk w (chkClear (m.chk' w))) m
  else m

/-! ### The whole map -/

/-- What a whole value written to a register does; RO fields ignore it (R19), and so do reserved ones (R22). -/
def regAct (x : RegPlace) (v : W64) (m : Module) : Module :=
  let o := x.off
  let u := x.unit
  match x.blk with
  | .top => m
  | .img => imgAct o v m
  | .beat => beatAct o v m
  | .pwr => pwrAct o v m
  | .hlt => hltAct o v m
  | .sec => secAct o v m
  | .wdg => wdgAct o v m
  | .vst => vstAct (o / 0x100) (o % 0x100) v m
  | .mir => mirAct (o / 0x100) (o % 0x100) v m
  | .dbg => dbgAct o v m
  | .pci => pciAct o v m
  | .nut => nutAct u o v m
  | .rte => rteAct o v m
  | .arc => arcAct u o v m
  | .gal => if o = 0x080 then onOne v (galCntClr u) m else m
  | .adp => if o = 0x060 then onOne v (fun m => m.setBal u (adpClear (m.bal' u))) m else m
  | .lnd => if o = 0x060 then onOne v (lndCntClr u) m else m
  | .ris => risAct u o v m
  | .win => if o = 0x060 then onOne v (winCntClr u) m else m
  | .nwl => if o = 0x038 then onOne v (nwlCntClr u) m else m
  | .flt => fltAct u o v m
  | .hall => hallAct u o v m
  | .hbm => memAct 1 u 0x1000 (32 * u) o v m
  | .lpx => memAct 2 u 0x800 (256 + 4 * u) o v m
  | .cc => ccAct u o v m
  | .chk => chkAct u o v m
  | .cor => m

/-- A write-only register (R14): the upper half waits for the lower, and an action clears it. -/
def woWrite (base : Nat) (x : RegPlace) (bytes : Nat) (upper : Bool) (val : W64) (m : Module) : Module :=
  let hi := nget 0 m.pci.woHi base
  if bytes = 4 && upper then setPci { m.pci with woHi := nset 0 m.pci.woHi base (val.setWidth 32) } m
  else
    let m := setPci { m.pci with woHi := nset 0 m.pci.woHi base 0 } m
    regAct x (if bytes = 4 then hi ++ val.setWidth 32 else val) m

/-- A write that the module accepts, to a register that stands at `base`, with its value now. -/
def regSet (base : Nat) (x : RegPlace) (bytes : Nat) (upper : Bool) (val cur : W64) (m : Module) : Module :=
  match regKind x.blk x.off with
  | .wo => woWrite base x bytes upper val m
  | .w1c => regAct x (if bytes = 4 then halfVal upper val 0 else val) m
  | .low => if bytes = 4 && upper then m else regAct x (if bytes = 4 then halfVal upper val cur else val) m
  | .rw => regAct x (if bytes = 4 then halfVal upper val cur else val) m

/-- The windows of shadow copies, whose bytes are written as they are addressed (R79, R467). -/
def shadowAt (x : RegPlace) : Bool := (x.blk = .img && decide (x.off ≥ 0x8000)) || (x.blk = .rte && decide (0x20000 ≤ x.off ∧ x.off < 0x30000))

/-- A write of a register by the physical function's offset (R12 to R19, R45, R46); the access is one that R12 accepts. -/
def regWrite (off bytes : Nat) (val : W64) (m : Module) : Module :=
  let base := off / 8 * 8
  match regPlace base with
  | none => unmapped true m
  | some x =>
    if !windowOpen m x then unmapped true m
    else if fusedOff m x then m
    else if shadowAt x then
      let o := x.off + off % 8
      if x.blk = .img then imgShadowWrite (o - 0x8000) bytes val m else rteShadowWrite (o - 0x20000) bytes val m
    else
      match regValue m x with
      | none => unmapped true m
      | some cur => regSet base x bytes (off % 8 = 4) val cur m

/-! ### What a virtual function reaches (R698, R699, R714) -/

/-- Where an access of a virtual function goes: a register by the physical function's offset, its own page's two registers,
a window it may not reach, or nothing. -/
inductive VfPlace where
  | at (off : Nat)
  | ident
  | power
  | denied
  | nothing
deriving DecidableEq, Repr

/-- The service-unit class of a window that an owner reaches. -/
def ownedCls (b : Blk) : Option Nat :=
  match b with
  | .gal => some 0 | .adp => some 0 | .lnd => some 1 | .ris => some 2 | .win => some 3 | .flt => some 4 | .cc => some 5 | _ => none

/-- Where partition `p`'s virtual function finds the registers of its page (R714). -/
def vfPage (m : Module) (p base : Nat) : VfPlace :=
  let hall := 0x1000000 * (cacheWing m p + 1) + 0x800100 + 0x40 * p
  if base = 0 then .ident
  else if base = 0x100 then .power
  else if 0x200 ≤ base ∧ base ≤ 0x220 then .at (0xA1000 + 0x40 * (p + 1) + (base - 0x200))
  else if base = 0x300 then .at hall
  else if base = 0x308 then .at (hall + 8)
  else .nothing

/-- Where an access at a multiple of 8 goes. -/
def vfPlace (m : Module) (p base : Nat) : VfPlace :=
  if base < 0x10000 then vfPage m p base
  else if 0x1000000 ≤ base ∧ base < 0x3000000 then
    match regPlace base with
    | none => .denied
    | some x =>
      match ownedCls x.blk with
      | none => .denied
      | some c => if owner m c x.unit = some p then .at base else .denied
  else .nothing

def vfDeny (m : Module) : Module := setPci { m.pci with vfDenied := satAdd m.pci.vfDenied 1 } m

def vfRead (p base : Nat) (m : Module) : W64 × Module :=
  match vfPlace m p base with
  | .at off => regRead off m
  | .ident => (pack [ofBool (enabled m p) 8, (p, 0)], m)
  | .power => (pack [ofBool (throttled m) 0], m)
  | .denied => (0, vfDeny m)
  | .nothing => (0, m)

/-- FLT_CTRL is the physical function's alone (R417, R699). -/
def pfOnly (base : Nat) : Bool :=
  match regPlace base with
  | some x => x.blk = .flt && decide (x.off = 0x018)
  | none => false

def vfWrite (p off bytes : Nat) (val : W64) (m : Module) : Module :=
  match vfPlace m p (off / 8 * 8) with
  | .at o => if pfOnly o then vfDeny m else regWrite (o + off % 8) bytes val m
  | .denied => vfDeny m
  | _ => m

/-! ### The two commands (R12, R15, R697) -/

/-- The size of a function's BAR0 (R697). -/
def barSize (fn : Fn) : Nat :=
  match fn with
  | .pf => 0x10000000
  | .vf _ => 0x4000000

/-- The half of a register that a 32-bit read returns. -/
def readHalf (bytes off : Nat) (v : W64) : W64 :=
  if bytes = 4 then (if off % 8 = 4 then v >>> 32 else w64 (fld v 0 32)) else v

/-- A read of one register: its value and what the read leaves. -/
def fnRead (fn : Fn) (off bytes : Nat) (m : Module) : W64 × Module :=
  if !accepted off bytes then (0, unmapped false m)
  else
    let r := match fn with
      | .pf => regRead (off / 8 * 8) m
      | .vf p => vfRead p.val (off / 8 * 8) m
    (readHalf bytes off r.1, r.2)

def fnWrite (fn : Fn) (off bytes : Nat) (val : W64) (m : Module) : Module :=
  if !accepted off bytes then unmapped true m
  else
    match fn with
    | .pf => regWrite off bytes val m
    | .vf p => vfWrite p.val off bytes val m

def execRegisterRead (fn : Fn) (off bytes : Nat) (s : State) : Out :=
  if off < barSize fn then
    let r := fnRead fn off bytes s.m
    done s (emit (.readData fn off r.1) r.2)
  else ill

def execRegisterWrite (fn : Fn) (off bytes : Nat) (val : W64) (s : State) : Out :=
  if off < barSize fn then done s (fnWrite fn off bytes val s.m) else ill

end Sys2Proof.Machine
end

