-- ==== Sys2Proof/Machine/Mgmt.lean ====
section
/-! DEFINITION. The other paths to the registers: MGMT packets (R445, R446), the management bus (R710) and JTAG (R737, R738). -/

namespace Sys2Proof.Machine

/-- The BEAT, NUT and RTE blocks, which the fabric manager writes (R446, R710). -/
def managerBlk (off : Nat) : Bool :=
  match regPlace off with
  | some x => x.blk = .beat || x.blk = .nut || x.blk = .rte
  | none => false

/-! ### MGMT packets -/

/-- A MGMT response to SRC_CHIP: the request's TAG and BAR0 offset, AUX [0] set when refused (R445; an offset is a multiple of 8, so its
bit 0 is free for the refusal). -/
def mgmtReply (k : Pkt) (op : Nat) (refused : Bool) (payload : List Byte) (m : Module) : Module :=
  inject 2 (plainPkt 0x28 3 k.hdr.srcChip.toNat k.hdr.tag.toNat (pack [(op, 60), (fld k.hdr.aux 3 25, 3), ofBool refused 0]) payload) m

/-- Whether a request has its form (R445): SLICE 0xFFF and DST_PART 0x1F, no other AUX bit set, an offset that is a multiple of 8, and the
payload that its OP calls for. -/
def mgmtForm (k : Pkt) : Bool :=
  let a := k.hdr.aux
  k.hdr.slice = 0xFFF && k.hdr.dstPart = 31 && fld a 0 3 = 0 && fld a 28 32 = 0 && k.payload.length = (if fld a 60 4 = 2 then 8 else 0)

/-- A request from a chip that WDG_NOTICE_SRC names. -/
def mgmtServe (k : Pkt) (m : Module) : Module :=
  let off := fld k.hdr.aux 0 28
  if fld k.hdr.aux 60 4 = 1 then
    if mgmtForm k then
      let r := fnRead .pf off 8 m
      mgmtReply k 3 false (natLe 8 r.1.toNat) r.2
    else mgmtReply k 3 true [] m
  else if mgmtForm k && managerBlk off && !m.sec.locked then
    mgmtReply k 4 false [] (fnWrite .pf off 8 (w64 (leNat k.payload)) m)
  else mgmtReply k 4 true [] m

/-- A MGMT packet: a request is served or refused; one from any other chip is counted, and what is no request is discarded. -/
def doMgmt (k : Pkt) (m : Module) : Module :=
  if !noticeFrom m.wdg k.hdr.srcChip.toNat then { m with rte := { m.rte with sliceRej := m.rte.sliceRej + 1 } }
  else if fld k.hdr.aux 60 4 = 1 || fld k.hdr.aux 60 4 = 2 then mgmtServe k m
  else m

def execMgmt (s : State) : Out :=
  match takeTy 0x28 s.m with
  | none => stop "MGMT"
  | some (k, m) => done s (doMgmt k m)

/-! ### The management bus -/

/-- A vendor-defined read of a BAR0 register. -/
def execVendorRead (off : Nat) (s : State) : Out :=
  if off < barSize .pf then
    let r := fnRead .pf off 8 s.m
    done s (emit (.vendorReply r.1 false) r.2)
  else ill

/-- A vendor-defined write: of TRAY_LIMIT (R649), or of a register of the manager's blocks; any other is refused. -/
def execVendorWrite (off : Nat) (val : W64) (tray : Bool) (s : State) : Out :=
  if tray then done s (emit (.vendorReply 0 false) (trayLimit (fld val 0 11) s.m))
  else if off < barSize .pf then
    (if managerBlk off then done s (emit (.vendorReply 0 false) (fnWrite .pf off 8 val s.m))
     else done s (emit (.vendorReply 0 true) s.m))
  else ill

/-! ### JTAG -/

/-- An instruction that acts as BYPASS: one bit, which captures 0. -/
def jtagBypass (code : Byte) (m : Module) : Module := emit (.jtag 0) { m with jtag := { m.jtag with ir := code } }

/-- A boundary scan: what the cells capture is the pins', a free value (log entry 4). -/
def boundaryScan (code : Byte) (m : Module) : Module :=
  let x := freeVal m
  emit (.jtag (x.1.setWidth 96)) { x.2 with jtag := { x.2.jtag with ir := code, boundary := x.1 } }

def execExtest (s : State) : Out := done s (boundaryScan 0 s.m)
def execSamplePreload (s : State) : Out := done s (boundaryScan 2 s.m)

/-- IDCODE: version 1, part 9, manufacturer field 0x5B7. -/
def execIdcode (s : State) : Out := done s (emit (.jtag 0x10009B6F) { s.m with jtag := { s.m.jtag with ir := 1 } })

/-- DBGACC: the result of the last read shifts out as `dr` shifts in, and `dr` acts at Update-DR. -/
def dbgAccess (dr : BitVec 96) (m : Module) : Module :=
  let off := fld dr 64 28
  let m := emit (.jtag m.jtag.dr) { m with jtag := { m.jtag with ir := 0x20 } }
  if fld dr 92 2 = 1 then
    let r := fnRead .pf off 8 m
    { r.2 with jtag := { r.2.jtag with dr := r.1.setWidth 96 } }
  else if fld dr 92 2 = 2 then fnWrite .pf off 8 (dr.setWidth 64) m
  else m

def execDbgacc (dr : BitVec 96) (s : State) : Out := done s (if s.m.sec.locked then jtagBypass 0x20 s.m else dbgAccess dr s.m)

/-- BYPASS and every code that names no instruction. -/
def execBypass (code : Byte) (s : State) : Out :=
  if [0x00, 0x01, 0x02, 0x20].contains code.toNat then ill else done s (jtagBypass code s.m)

end Sys2Proof.Machine
end

