-- ==== Sys2Proof/Machine/Dispatch.lean ====
section
/-! DEFINITION. The one dispatch of the block: each command's own meaning. -/

namespace Sys2Proof.Machine

/-- The effect of a command on everything but the queue of waiting commands. -/
def exec (i : Instr) (s : State) : Host.Outcome State Fault Refusal :=
  match i with
  | .registerWrite fn off bytes val => Sys2Proof.Machine.execRegisterWrite fn off bytes val s
  | .flitSend p => Sys2Proof.Machine.execFlitSend p s
  | .registerRead fn off bytes => Sys2Proof.Machine.execRegisterRead fn off bytes s
  | .traySpiBadcmd cmd => Sys2Proof.Machine.execTraySpiBadcmd cmd s
  | .throttleLevelChange reason up => Sys2Proof.Machine.execThrottleLevelChange reason up s
  | .load => Sys2Proof.Machine.execLoad s
  | .fetchComplete r => Sys2Proof.Machine.execFetchComplete r s
  | .imgShadowWrite off bytes val => Sys2Proof.Machine.execImgShadowWrite off bytes val s
  | .check => Sys2Proof.Machine.execCheck s
  | .checkingEnd => Sys2Proof.Machine.execCheckingEnd s
  | .arm => Sys2Proof.Machine.execArm s
  | .cancel => Sys2Proof.Machine.execCancel s
  | .apply => Sys2Proof.Machine.execApply s
  | .scrubbed => Sys2Proof.Machine.execScrubbed s
  | .timePacketSend => Sys2Proof.Machine.execTimePacketSend s
  | .timePacketReceive port carried => Sys2Proof.Machine.execTimePacketReceive port carried s
  | .holdover => Sys2Proof.Machine.execHoldover s
  | .beatGmCtrlWrite val => Sys2Proof.Machine.execBeatGmCtrlWrite val s
  | .beatSet val => Sys2Proof.Machine.execBeatSet val s
  | .delayRemeasure port trips turn => Sys2Proof.Machine.execDelayRemeasure port trips turn s
  | .beatMqPush => Sys2Proof.Machine.execBeatMqPush s
  | .alarmFire q => Sys2Proof.Machine.execAlarmFire q s
  | .eqPush core hart waits => Sys2Proof.Machine.execEqPush core hart waits s
  | .eqPushStallEnd core hart => Sys2Proof.Machine.execEqPushStallEnd core hart s
  | .eqWait core hart waits => Sys2Proof.Machine.execEqWait core hart waits s
  | .eqWaitSatisfied core hart => Sys2Proof.Machine.execEqWaitSatisfied core hart s
  | .eqPoll core hart waits => Sys2Proof.Machine.execEqPoll core hart waits s
  | .eqGate core hart waits => Sys2Proof.Machine.execEqGate core hart waits s
  | .eqGateSatisfied core hart => Sys2Proof.Machine.execEqGateSatisfied core hart s
  | .eqBeat core hart waits => Sys2Proof.Machine.execEqBeat core hart waits s
  | .eqFence core hart waits => Sys2Proof.Machine.execEqFence core hart waits s
  | .eqFenceSatisfied core hart => Sys2Proof.Machine.execEqFenceSatisfied core hart s
  | .hartInstruction core hart waits => Sys2Proof.Machine.execHartInstruction core hart waits s
  | .hartStart core hart => Sys2Proof.Machine.execHartStart core hart s
  | .hartHalt core hart => Sys2Proof.Machine.execHartHalt core hart s
  | .matmul g stalls ecc balEcc errs => Sys2Proof.Machine.execMatmul g stalls ecc balEcc errs s
  | .accLoad g errs => Sys2Proof.Machine.execAccLoad g errs s
  | .accRead g => Sys2Proof.Machine.execAccRead g s
  | .galReadout g faults pairDiff ecc => Sys2Proof.Machine.execGalReadout g faults pairDiff ecc s
  | .galComplete g => Sys2Proof.Machine.execGalComplete g s
  | .galCntClr g => Sys2Proof.Machine.execGalCntClr g s
  | .slots b => Sys2Proof.Machine.execSlots b s
  | .down b => Sys2Proof.Machine.execDown b s
  | .up b stalls pairDiff ecc errs => Sys2Proof.Machine.execUp b stalls pairDiff ecc errs s
  | .upComplete b => Sys2Proof.Machine.execUpComplete b s
  | .scrRead b pairDiff ecc => Sys2Proof.Machine.execScrRead b pairDiff ecc s
  | .adpCntClr b => Sys2Proof.Machine.execAdpCntClr b s
  | .convert r hallStalls nwlStalls seedEcc errs => Sys2Proof.Machine.execConvert r hallStalls nwlStalls seedEcc errs s
  | .risComplete r pairDiff => Sys2Proof.Machine.execRisComplete r pairDiff s
  | .streamClear r set => Sys2Proof.Machine.execStreamClear r set s
  | .risCntClr r => Sys2Proof.Machine.execRisCntClr r s
  | .risClearStreamSets r => Sys2Proof.Machine.execRisClearStreamSets r s
  | .transform w hallStalls nwlStalls ecc seedEcc errs => Sys2Proof.Machine.execTransform w hallStalls nwlStalls ecc seedEcc errs s
  | .winComplete w => Sys2Proof.Machine.execWinComplete w s
  | .winCntClr w => Sys2Proof.Machine.execWinCntClr w s
  | .run l hallStalls nwlStalls ecc seedEcc errs => Sys2Proof.Machine.execRun l hallStalls nwlStalls ecc seedEcc errs s
  | .lndComplete l pairDiff => Sys2Proof.Machine.execLndComplete l pairDiff s
  | .lndCntClr l => Sys2Proof.Machine.execLndCntClr l s
  | .gen n misses ecc => Sys2Proof.Machine.execGen n misses ecc s
  | .genComplete n => Sys2Proof.Machine.execGenComplete n s
  | .seed n => Sys2Proof.Machine.execSeed n s
  | .nwlCntClr n => Sys2Proof.Machine.execNwlCntClr n s
  | .hallRequestAged bank req idx waited => Sys2Proof.Machine.execHallRequestAged bank req idx waited s
  | .flush p errs => Sys2Proof.Machine.execFlush p errs s
  | .invalidate p errs => Sys2Proof.Machine.execInvalidate p errs s
  | .cacheCommandDone p => Sys2Proof.Machine.execCacheCommandDone p s
  | .hallCntClr w => Sys2Proof.Machine.execHallCntClr w s
  | .hbmCntClr stack => Sys2Proof.Machine.execHbmCntClr stack s
  | .lpxCntClr pkg => Sys2Proof.Machine.execLpxCntClr pkg s
  | .testStart ch fails => Sys2Proof.Machine.execTestStart ch fails s
  | .testStop ch => Sys2Proof.Machine.execTestStop ch s
  | .channelTestEnd ch => Sys2Proof.Machine.execChannelTestEnd ch s
  | .move f => Sys2Proof.Machine.execMove f s
  | .gather f => Sys2Proof.Machine.execGather f s
  | .prefetch f => Sys2Proof.Machine.execPrefetch f s
  | .put f => Sys2Proof.Machine.execPut f s
  | .burstIssue f errs => Sys2Proof.Machine.execBurstIssue f errs s
  | .burstResponse f tag answer => Sys2Proof.Machine.execBurstResponse f tag answer s
  | .burstTimeout f tag => Sys2Proof.Machine.execBurstTimeout f tag s
  | .fltCntClr f => Sys2Proof.Machine.execFltCntClr f s
  | .portDisable p => Sys2Proof.Machine.execPortDisable p s
  | .portEnable p => Sys2Proof.Machine.execPortEnable p s
  | .release p => Sys2Proof.Machine.execRelease p s
  | .laneLock p lanes => Sys2Proof.Machine.execLaneLock p lanes s
  | .bringUpComplete p lanes farVer trips turn nbrDev nbrPort => Sys2Proof.Machine.execBringUpComplete p lanes farVer trips turn nbrDev nbrPort s
  | .bringUpTimeout p => Sys2Proof.Machine.execBringUpTimeout p s
  | .bringUpRetry p => Sys2Proof.Machine.execBringUpRetry p s
  | .laneLoss p lane => Sys2Proof.Machine.execLaneLoss p lane s
  | .lightLoss p => Sys2Proof.Machine.execLightLoss p s
  | .noFlitTimeout p => Sys2Proof.Machine.execNoFlitTimeout p s
  | .retrainDone p => Sys2Proof.Machine.execRetrainDone p s
  | .flitReceive p f => Sys2Proof.Machine.execFlitReceive p f s
  | .localDelivery => Sys2Proof.Machine.execLocalDelivery s
  | .tailTimeout p vc => Sys2Proof.Machine.execTailTimeout p vc s
  | .cmapWindowEnd => Sys2Proof.Machine.execCmapWindowEnd s
  | .nutFcThrWrite p vc val => Sys2Proof.Machine.execNutFcThrWrite p vc val s
  | .nutCntClr p => Sys2Proof.Machine.execNutCntClr p s
  | .write => Sys2Proof.Machine.execWrite s
  | .notify => Sys2Proof.Machine.execNotify s
  | .readReq errs => Sys2Proof.Machine.execReadReq errs s
  | .readResp => Sys2Proof.Machine.execReadResp s
  | .atomic errs => Sys2Proof.Machine.execAtomic errs s
  | .ack => Sys2Proof.Machine.execAck s
  | .mgmt => Sys2Proof.Machine.execMgmt s
  | .rteArm => Sys2Proof.Machine.execRteArm s
  | .rteCancel => Sys2Proof.Machine.execRteCancel s
  | .swap => Sys2Proof.Machine.execSwap s
  | .rteShadowWrite off bytes val => Sys2Proof.Machine.execRteShadowWrite off bytes val s
  | .rteCntClr => Sys2Proof.Machine.execRteCntClr s
  | .allreduce a errs => Sys2Proof.Machine.execAllreduce a errs s
  | .voteCfg a => Sys2Proof.Machine.execVoteCfg a s
  | .arcade pairDiff => Sys2Proof.Machine.execArcade pairDiff s
  | .phaseTimeout u part => Sys2Proof.Machine.execPhaseTimeout u part s
  | .earlyReadyExpiry a => Sys2Proof.Machine.execEarlyReadyExpiry a s
  | .vote pairDiff => Sys2Proof.Machine.execVote pairDiff s
  | .arcCntClr a => Sys2Proof.Machine.execArcCntClr a s
  | .retain p => Sys2Proof.Machine.execRetain p s
  | .done p => Sys2Proof.Machine.execDone p s
  | .await p => Sys2Proof.Machine.execAwait p s
  | .awaitComplete p => Sys2Proof.Machine.execAwaitComplete p s
  | .send p => Sys2Proof.Machine.execSend p s
  | .released p => Sys2Proof.Machine.execReleased p s
  | .replayLive p => Sys2Proof.Machine.execReplayLive p s
  | .replaySolo p => Sys2Proof.Machine.execReplaySolo p s
  | .replaySoloCommitted p => Sys2Proof.Machine.execReplaySoloCommitted p s
  | .revote p => Sys2Proof.Machine.execRevote p s
  | .resolveCommit p => Sys2Proof.Machine.execResolveCommit p s
  | .resolveAbort p => Sys2Proof.Machine.execResolveAbort p s
  | .vstCommandBeat p => Sys2Proof.Machine.execVstCommandBeat p s
  | .cutCommand p => Sys2Proof.Machine.execCutCommand p s
  | .cutTaken p => Sys2Proof.Machine.execCutTaken p s
  | .drainHost p => Sys2Proof.Machine.execDrainHost p s
  | .drainFabric p => Sys2Proof.Machine.execDrainFabric p s
  | .drainDone p => Sys2Proof.Machine.execDrainDone p s
  | .drainError p => Sys2Proof.Machine.execDrainError p s
  | .drainLate p => Sys2Proof.Machine.execDrainLate p s
  | .clear p => Sys2Proof.Machine.execClear p s
  | .ckpt => Sys2Proof.Machine.execCkpt s
  | .vstCfgWrite p val => Sys2Proof.Machine.execVstCfgWrite p val s
  | .vstRegionWrite p region val => Sys2Proof.Machine.execVstRegionWrite p region val s
  | .mirRegionWrite p val => Sys2Proof.Machine.execMirRegionWrite p val s
  | .mirBegin => Sys2Proof.Machine.execMirBegin s
  | .mirList => Sys2Proof.Machine.execMirList s
  | .mirData bad => Sys2Proof.Machine.execMirData bad s
  | .mirEnd => Sys2Proof.Machine.execMirEnd s
  | .mirInput => Sys2Proof.Machine.execMirInput s
  | .inAborted p => Sys2Proof.Machine.execInAborted p s
  | .mirrorTimeout p => Sys2Proof.Machine.execMirrorTimeout p s
  | .restore p => Sys2Proof.Machine.execRestore p s
  | .discardInboundW p => Sys2Proof.Machine.execDiscardInboundW p s
  | .fetch => Sys2Proof.Machine.execFetch s
  | .rdata bad => Sys2Proof.Machine.execRdata bad s
  | .rresult bad => Sys2Proof.Machine.execRresult bad s
  | .rdone => Sys2Proof.Machine.execRdone s
  | .restoreFailed p => Sys2Proof.Machine.execRestoreFailed p s
  | .ctxHang part ctx => Sys2Proof.Machine.execCtxHang part ctx s
  | .engHang cls idx => Sys2Proof.Machine.execEngHang cls idx s
  | .partHang part => Sys2Proof.Machine.execPartHang part s
  | .wingHang w => Sys2Proof.Machine.execWingHang w s
  | .aonWatchdogFire => Sys2Proof.Machine.execAonWatchdogFire s
  | .contextReset part ctx => Sys2Proof.Machine.execContextReset part ctx s
  | .engineReset cls idx => Sys2Proof.Machine.execEngineReset cls idx s
  | .partitionReset part => Sys2Proof.Machine.execPartitionReset part s
  | .wingReset w => Sys2Proof.Machine.execWingReset w s
  | .chipReset => Sys2Proof.Machine.execChipReset s
  | .powerCycleRequest => Sys2Proof.Machine.execPowerCycleRequest s
  | .pwrcycReqNAssert => Sys2Proof.Machine.execPwrcycReqNAssert s
  | .resetDone d => Sys2Proof.Machine.execResetDone d s
  | .resetOverrun d => Sys2Proof.Machine.execResetOverrun d s
  | .slotOpen => Sys2Proof.Machine.execSlotOpen s
  | .suspectClear => Sys2Proof.Machine.execSuspectClear s
  | .slotMaxExpiry => Sys2Proof.Machine.execSlotMaxExpiry s
  | .noticeExtend => Sys2Proof.Machine.execNoticeExtend s
  | .noticeAbort => Sys2Proof.Machine.execNoticeAbort s
  | .noticeInfo => Sys2Proof.Machine.execNoticeInfo s
  | .notice => Sys2Proof.Machine.execNotice s
  | .chkSync w => Sys2Proof.Machine.execChkSync w s
  | .chkCntClr w => Sys2Proof.Machine.execChkCntClr w s
  | .packLoad val r => Sys2Proof.Machine.execPackLoad val r s
  | .packLoaded => Sys2Proof.Machine.execPackLoaded s
  | .ptStart w => Sys2Proof.Machine.execPtStart w s
  | .ptStop w => Sys2Proof.Machine.execPtStop w s
  | .soakEnd w temp reached => Sys2Proof.Machine.execSoakEnd w temp reached s
  | .patternTestEnd w o => Sys2Proof.Machine.execPatternTestEnd w o s
  | .subWindowEnd => Sys2Proof.Machine.execSubWindowEnd s
  | .eventRingFlush => Sys2Proof.Machine.execEventRingFlush s
  | .summaryRewrite => Sys2Proof.Machine.execSummaryRewrite s
  | .holdupOkFall => Sys2Proof.Machine.execHoldupOkFall s
  | .inputLoss tenMv => Sys2Proof.Machine.execInputLoss tenMv s
  | .hltRetire val => Sys2Proof.Machine.execHltRetire val s
  | .crcRetry w m => Sys2Proof.Machine.execCrcRetry w m s
  | .moduleDown w m => Sys2Proof.Machine.execModuleDown w m s
  | .opChanged => Sys2Proof.Machine.execOpChanged s
  | .throttle reason => Sys2Proof.Machine.execThrottle reason s
  | .throttleEnd reason => Sys2Proof.Machine.execThrottleEnd reason s
  | .thermWarn temp => Sys2Proof.Machine.execThermWarn temp s
  | .thermTrip temp => Sys2Proof.Machine.execThermTrip temp s
  | .calDue => Sys2Proof.Machine.execCalDue s
  | .recalDone minMv band => Sys2Proof.Machine.execRecalDone minMv band s
  | .holdupLow tenMv => Sys2Proof.Machine.execHoldupLow tenMv s
  | .holdupDisagree derived measured => Sys2Proof.Machine.execHoldupDisagree derived measured s
  | .secLock => Sys2Proof.Machine.execSecLock s
  | .enrol val => Sys2Proof.Machine.execEnrol val s
  | .revoke val => Sys2Proof.Machine.execRevoke val s
  | .skeyLoad val => Sys2Proof.Machine.execSkeyLoad val s
  | .ckeyLoad part => Sys2Proof.Machine.execCkeyLoad part s
  | .ckeyClear part => Sys2Proof.Machine.execCkeyClear part s
  | .spdmRequest fn version code body => Sys2Proof.Machine.execSpdmRequest fn version code body s
  | .getMeasurements fn index => Sys2Proof.Machine.execGetMeasurements fn index s
  | .ideKm stream key on => Sys2Proof.Machine.execIdeKm stream key on s
  | .ideFail stream => Sys2Proof.Machine.execIdeFail stream s
  | .powerGood slot => Sys2Proof.Machine.execPowerGood slot s
  | .firmwareVerified copyB digest secVersion => Sys2Proof.Machine.execFirmwareVerified copyB digest secVersion s
  | .aonComplete => Sys2Proof.Machine.execAonComplete s
  | .wingRailsUp => Sys2Proof.Machine.execWingRailsUp s
  | .wingsOutOfReset => Sys2Proof.Machine.execWingsOutOfReset s
  | .memTrainComplete failed => Sys2Proof.Machine.execMemTrainComplete failed s
  | .bistComplete failed => Sys2Proof.Machine.execBistComplete failed s
  | .stageFail => Sys2Proof.Machine.execStageFail s
  | .slotIdChange slot => Sys2Proof.Machine.execSlotIdChange slot s
  | .perstNFall => Sys2Proof.Machine.execPerstNFall s
  | .perstNRise => Sys2Proof.Machine.execPerstNRise s
  | .vfFlr p => Sys2Proof.Machine.execVfFlr p s
  | .pfFlr => Sys2Proof.Machine.execPfFlr s
  | .linkUp width rate flit => Sys2Proof.Machine.execLinkUp width rate flit s
  | .linkDown => Sys2Proof.Machine.execLinkDown s
  | .evrHeadWrite fn val => Sys2Proof.Machine.execEvrHeadWrite fn val s
  | .msixCoalesceEnd fn => Sys2Proof.Machine.execMsixCoalesceEnd fn s
  | .traySpiRead cmd bits => Sys2Proof.Machine.execTraySpiRead cmd bits s
  | .traySpiWrite cmd words bits => Sys2Proof.Machine.execTraySpiWrite cmd words bits s
  | .dynamicAddressAssignment addr => Sys2Proof.Machine.execDynamicAddressAssignment addr s
  | .vendorRead off => Sys2Proof.Machine.execVendorRead off s
  | .vendorWrite off val tray => Sys2Proof.Machine.execVendorWrite off val tray s
  | .telemetry => Sys2Proof.Machine.execTelemetry s
  | .snapshotPeriod => Sys2Proof.Machine.execSnapshotPeriod s
  | .lostRecordEntry => Sys2Proof.Machine.execLostRecordEntry s
  | .kportUp => Sys2Proof.Machine.execKportUp s
  | .kportDown => Sys2Proof.Machine.execKportDown s
  | .dump => Sys2Proof.Machine.execDump s
  | .dumpDone => Sys2Proof.Machine.execDumpDone s
  | .drained part => Sys2Proof.Machine.execDrained part s
  | .resume core hart => Sys2Proof.Machine.execResume core hart s
  | .bpStep core hart => Sys2Proof.Machine.execBpStep core hart s
  | .dbgAonClr => Sys2Proof.Machine.execDbgAonClr s
  | .extest => Sys2Proof.Machine.execExtest s
  | .idcode => Sys2Proof.Machine.execIdcode s
  | .samplePreload => Sys2Proof.Machine.execSamplePreload s
  | .dbgacc dr => Sys2Proof.Machine.execDbgacc dr s
  | .bypass code => Sys2Proof.Machine.execBypass code s
  | .cmapSample => Sys2Proof.Machine.execCmapSample s
  | .pciCntClr => Sys2Proof.Machine.execPciCntClr s
  | .configurationRequest => Sys2Proof.Machine.execConfigurationRequest s
  | .firmwareCopiesFail => Sys2Proof.Machine.execFirmwareCopiesFail s
  | .pwrcycOverdue => Sys2Proof.Machine.execPwrcycOverdue s
  | .thermalCycle => Sys2Proof.Machine.execThermalCycle s
  | .pcSample => Sys2Proof.Machine.execPcSample s

end Sys2Proof.Machine
end

