-- ==== Sys2Proof/Machine/Tick.lean ====
section
/-! DEFINITION. What happens when no command waits: time passes. -/

namespace Sys2Proof.Machine

/-- One nanosecond of fabric time: the trace drains, into its region or port or as TRACE packets, and time goes on. -/
def tick (m : Module) : Module := traceSend (pass 1 m)

end Sys2Proof.Machine
end

