-- ==== Sys2Proof/WellFormed.lean ====
section
/-! DEFINITION. Which operands make a command of the block: the others name nothing that can come to the module. -/

namespace Sys2Proof

/-- The size of a function's BAR0 (R697). -/
def barBytes : Fn → Nat
  | .pf => 0x10000000
  | .vf _ => 0x4000000

/-- How many units a service-unit class has (R76). -/
def unitsOfClass (cls : Nat) : Nat := [64, 16, 8, 4, 32, 32, 512, 256, 24].getD cls 0

/-- A flit: head flits and no others carry a header (R431), and its content is at most 256 bytes. -/
def flitWf (f : Flit) : Bool :=
  (f.hdr.isSome == (decide (f.kind = 1) || decide (f.kind = 4))) && decide (f.content.length ≤ 256)

/-- A tray SPI command word with a reserved OP or a reserved bit (R706, R707). -/
def badCommand (cmd : W32) : Bool := cmd.getLsbD 31 || cmd &&& 0x3F0FFF00#32 != 0

/-- The complete data words of a frame of so many edges (R706). -/
def frameWords (cmd : W32) (bits : Nat) : Nat := min ((cmd >>> 20).toNat % 16 + 1) ((bits - 32) / 32)

/-- A frame of an operation: its command word, when complete and not bad, has that OP. -/
def frameWf (op : Nat) (cmd : W32) (bits : Nat) : Bool :=
  decide (bits < 32) || badCommand cmd || decide ((cmd >>> 30).toNat = op)

/-- A command with operands that can come to the module. -/
def Instr.wellFormed (i : Instr) : Bool :=
  match i with
  | .registerWrite fn off _ _ => decide (off < barBytes fn)
  | .flitSend _ => true
  | .registerRead fn off _ => decide (off < barBytes fn)
  | .traySpiBadcmd cmd => badCommand cmd
  | .throttleLevelChange _ _ => true
  | .load => true
  | .fetchComplete _ => true
  | .imgShadowWrite off _ _ => decide (off < 0x8000)
  | .check => true
  | .checkingEnd => true
  | .arm => true
  | .cancel => true
  | .apply => true
  | .scrubbed => true
  | .timePacketSend => true
  | .timePacketReceive _ _ => true
  | .holdover => true
  | .beatGmCtrlWrite _ => true
  | .beatSet _ => true
  | .delayRemeasure _ trips _ => decide (trips.length = 64)
  | .beatMqPush => true
  | .alarmFire _ => true
  | .eqPush _ _ _ => true
  | .eqPushStallEnd _ _ => true
  | .eqWait _ _ _ => true
  | .eqWaitSatisfied _ _ => true
  | .eqPoll _ _ _ => true
  | .eqGate _ _ _ => true
  | .eqGateSatisfied _ _ => true
  | .eqBeat _ _ _ => true
  | .eqFence _ _ _ => true
  | .eqFenceSatisfied _ _ => true
  | .hartInstruction _ _ _ => true
  | .hartStart _ _ => true
  | .hartHalt _ _ => true
  | .matmul _ _ _ _ _ => true
  | .accLoad _ _ => true
  | .accRead _ => true
  | .galReadout _ _ _ _ => true
  | .galComplete _ => true
  | .galCntClr _ => true
  | .slots _ => true
  | .down _ => true
  | .up _ _ _ _ _ => true
  | .upComplete _ => true
  | .scrRead _ _ _ => true
  | .adpCntClr _ => true
  | .convert _ _ _ _ _ => true
  | .risComplete _ _ => true
  | .streamClear _ _ => true
  | .risCntClr _ => true
  | .risClearStreamSets _ => true
  | .transform _ _ _ _ _ _ => true
  | .winComplete _ => true
  | .winCntClr _ => true
  | .run _ _ _ _ _ _ => true
  | .lndComplete _ _ => true
  | .lndCntClr _ => true
  | .gen _ _ _ => true
  | .genComplete _ => true
  | .seed _ => true
  | .nwlCntClr _ => true
  | .hallRequestAged _ _ _ _ => true
  | .flush _ _ => true
  | .invalidate _ _ => true
  | .cacheCommandDone _ => true
  | .hallCntClr _ => true
  | .hbmCntClr _ => true
  | .lpxCntClr _ => true
  | .testStart _ _ => true
  | .testStop _ => true
  | .channelTestEnd _ => true
  | .move _ => true
  | .gather _ => true
  | .prefetch _ => true
  | .put _ => true
  | .burstIssue _ _ => true
  | .burstResponse _ _ _ => true
  | .burstTimeout _ _ => true
  | .fltCntClr _ => true
  | .portDisable _ => true
  | .portEnable _ => true
  | .release _ => true
  | .laneLock _ _ => true
  | .bringUpComplete _ _ _ trips _ _ _ => decide (trips.length = 64)
  | .bringUpTimeout _ => true
  | .bringUpRetry _ => true
  | .laneLoss _ _ => true
  | .lightLoss _ => true
  | .noFlitTimeout _ => true
  | .retrainDone _ => true
  | .flitReceive _ f => flitWf f
  | .localDelivery => true
  | .tailTimeout _ _ => true
  | .cmapWindowEnd => true
  | .nutFcThrWrite _ _ _ => true
  | .nutCntClr _ => true
  | .write => true
  | .notify => true
  | .readReq _ => true
  | .readResp => true
  | .atomic _ => true
  | .ack => true
  | .mgmt => true
  | .rteArm => true
  | .rteCancel => true
  | .swap => true
  | .rteShadowWrite off _ _ => decide (off < 0x10000)
  | .rteCntClr => true
  | .allreduce _ _ => true
  | .voteCfg _ => true
  | .arcade _ => true
  | .phaseTimeout _ _ => true
  | .earlyReadyExpiry _ => true
  | .vote _ => true
  | .arcCntClr _ => true
  | .retain _ => true
  | .done _ => true
  | .await _ => true
  | .awaitComplete _ => true
  | .send _ => true
  | .released _ => true
  | .replayLive _ => true
  | .replaySolo _ => true
  | .replaySoloCommitted _ => true
  | .revote _ => true
  | .resolveCommit _ => true
  | .resolveAbort _ => true
  | .vstCommandBeat _ => true
  | .cutCommand _ => true
  | .cutTaken _ => true
  | .drainHost _ => true
  | .drainFabric _ => true
  | .drainDone _ => true
  | .drainError _ => true
  | .drainLate _ => true
  | .clear _ => true
  | .ckpt => true
  | .vstCfgWrite _ _ => true
  | .vstRegionWrite _ _ _ => true
  | .mirRegionWrite _ _ => true
  | .mirBegin => true
  | .mirList => true
  | .mirData _ => true
  | .mirEnd => true
  | .mirInput => true
  | .inAborted _ => true
  | .mirrorTimeout _ => true
  | .restore _ => true
  | .discardInboundW _ => true
  | .fetch => true
  | .rdata _ => true
  | .rresult _ => true
  | .rdone => true
  | .restoreFailed _ => true
  | .ctxHang _ _ => true
  | .engHang _ _ => true
  | .partHang _ => true
  | .wingHang _ => true
  | .aonWatchdogFire => true
  | .contextReset _ _ => true
  | .engineReset _ _ => true
  | .partitionReset _ => true
  | .wingReset _ => true
  | .chipReset => true
  | .powerCycleRequest => true
  | .pwrcycReqNAssert => true
  | .resetDone _ => true
  | .resetOverrun _ => true
  | .slotOpen => true
  | .suspectClear => true
  | .slotMaxExpiry => true
  | .noticeExtend => true
  | .noticeAbort => true
  | .noticeInfo => true
  | .notice => true
  | .chkSync _ => true
  | .chkCntClr _ => true
  | .packLoad _ _ => true
  | .packLoaded => true
  | .ptStart _ => true
  | .ptStop _ => true
  | .soakEnd _ _ _ => true
  | .patternTestEnd _ _ => true
  | .subWindowEnd => true
  | .eventRingFlush => true
  | .summaryRewrite => true
  | .holdupOkFall => true
  | .inputLoss _ => true
  | .hltRetire _ => true
  | .crcRetry _ _ => true
  | .moduleDown _ _ => true
  | .opChanged => true
  | .throttle _ => true
  | .throttleEnd _ => true
  | .thermWarn temp => decide (105 ≤ temp.toInt)
  | .thermTrip temp => decide (110 ≤ temp.toInt)
  | .calDue => true
  | .recalDone _ _ => true
  | .holdupLow tenMv => decide (tenMv.toNat < 3000)
  | .holdupDisagree a b => decide (200 < max a.toNat b.toNat - min a.toNat b.toNat)
  | .secLock => true
  | .enrol _ => true
  | .revoke _ => true
  | .skeyLoad _ => true
  | .ckeyLoad _ => true
  | .ckeyClear _ => true
  | .spdmRequest _ _ _ _ => true
  | .getMeasurements _ _ => true
  | .ideKm _ key _ => decide (key.length = 32)
  | .ideFail _ => true
  | .powerGood _ => true
  | .firmwareVerified _ digest _ => decide (digest.length = 48)
  | .aonComplete => true
  | .wingRailsUp => true
  | .wingsOutOfReset => true
  | .memTrainComplete failed => failed.all (fun x => decide (x.2 < if x.1 = 0 then 256 else 24))
  | .bistComplete failed => failed.all (fun x => decide (x.2 < unitsOfClass x.1))
  | .stageFail => true
  | .slotIdChange _ => true
  | .perstNFall => true
  | .perstNRise => true
  | .vfFlr _ => true
  | .pfFlr => true
  | .linkUp width rate _ => [1, 2, 4, 8, 16].contains width.toNat && [2, 5, 8, 16, 32, 64].contains rate.toNat
  | .linkDown => true
  | .evrHeadWrite _ _ => true
  | .msixCoalesceEnd _ => true
  | .traySpiRead cmd bits => frameWf 0 cmd bits
  | .traySpiWrite cmd words bits => frameWf 1 cmd bits && decide (frameWords cmd bits ≤ words.length)
  | .dynamicAddressAssignment _ => true
  | .vendorRead off => decide (off < barBytes .pf)
  | .vendorWrite off _ tray => tray || decide (off < barBytes .pf)
  | .telemetry => true
  | .snapshotPeriod => true
  | .lostRecordEntry => true
  | .kportUp => true
  | .kportDown => true
  | .dump => true
  | .dumpDone => true
  | .drained _ => true
  | .resume _ _ => true
  | .bpStep _ _ => true
  | .dbgAonClr => true
  | .extest => true
  | .idcode => true
  | .samplePreload => true
  | .dbgacc _ => true
  | .bypass code => !([0x00, 0x01, 0x02, 0x20].contains code.toNat)
  | .cmapSample => true
  | .pciCntClr => true
  | .configurationRequest => true
  | .firmwareCopiesFail => true
  | .pwrcycOverdue => true
  | .thermalCycle => true
  | .pcSample => true

end Sys2Proof
end

