-- ==== Sys2Proof/Safety.lean ====
section
/-! DEFINITION. The terms in which claims are made: completion, what a command leaves as it was, when each command is due, the
canonical form of the state's maps and memories, and well-formed queues. -/

namespace Sys2Proof.Machine

/-- A command answers a next state: the queue as it was, and hardware of which `P` holds. -/
def Completes (c : Instr) (s : State) (P : Module → Prop) : Prop :=
  ∃ m : Module, exec c s = .next { s with m := m } ∧ P m

/-- A command answers a next state: the queue as it was, and the hardware `m`. -/
def Does (c : Instr) (s : State) (m : Module) : Prop := exec c s = .next { s with m := m }

/-- The parts of the hardware. -/
inductive Part where
  | fused | clk | img | beat | queues | counts | gates | outstanding | harts | cores | gal | bal | ris | win | lnd | nwl
  | mem | flt | port | rte | arc | vote | vst | mir | wdg | chk | hlt | cor | pwr | sec | pci | tray | dbg | jtag | out
deriving DecidableEq, Repr

/-- A part is the same in two states of the hardware. -/
def Part.Same (a b : Module) : Part → Prop
  | .fused => b.fused = a.fused
  | .clk => b.clk = a.clk
  | .img => b.img = a.img
  | .beat => b.beat = a.beat
  | .queues => b.queues = a.queues
  | .counts => b.counts = a.counts
  | .gates => b.gates = a.gates
  | .outstanding => b.outstanding = a.outstanding
  | .harts => b.harts = a.harts
  | .cores => b.cores = a.cores
  | .gal => b.gal = a.gal
  | .bal => b.bal = a.bal
  | .ris => b.ris = a.ris
  | .win => b.win = a.win
  | .lnd => b.lnd = a.lnd
  | .nwl => b.nwl = a.nwl
  | .mem => b.mem = a.mem
  | .flt => b.flt = a.flt
  | .port => b.port = a.port
  | .rte => b.rte = a.rte
  | .arc => b.arc = a.arc
  | .vote => b.vote = a.vote
  | .vst => b.vst = a.vst
  | .mir => b.mir = a.mir
  | .wdg => b.wdg = a.wdg
  | .chk => b.chk = a.chk
  | .hlt => b.hlt = a.hlt
  | .cor => b.cor = a.cor
  | .pwr => b.pwr = a.pwr
  | .sec => b.sec = a.sec
  | .pci => b.pci = a.pci
  | .tray => b.tray = a.tray
  | .dbg => b.dbg = a.dbg
  | .jtag => b.jtag = a.jtag
  | .out => b.out = a.out

/-- Every part but those listed is the same: the frame of a command. -/
def SameBut (l : List Part) (a b : Module) : Prop := ∀ p : Part, p ∉ l → p.Same a b

/-- The parts that recording an event may change (R59 to R63, R612, R703, R709, R723): a step that it taints, the health log, the tray
alert, the rings, the trace buffer, and what the host is given. -/
def evParts : List Part := [.vst, .hlt, .pci, .tray, .dbg, .out]

/-- What a command does when it answers a next state: every part but those listed is as it was. -/
def Frame (c : Instr) (l : List Part) : Prop := ∀ s t : State, exec c s = .next t → SameBut l s.m t.m

/-- The parts that passing time may change: the clocks, the beat block's slew, and what the trace unit drains through (R725, R726): its
buffer, the memory and its counters, the corridor's counters, the Kerdun port. -/
def timeParts : List Part := [.clk, .beat, .mem, .cor, .dbg, .out]

/-- The parts that a completion changes (R136): counts, what is outstanding, progress (R557, R559), and records. -/
def doneParts : List Part := [.counts, .outstanding, .harts, .wdg] ++ evParts

/-- The parts that an engine's read of memory may change: the memory's caches and counters, the prefetch counters of the Flight engines,
the corridor's counters, and records. -/
def memParts : List Part := [.mem, .flt, .cor] ++ evParts

/-- The parts that sending a packet may change: the ports, the routing block, the corridor's counters, the slice keys, and records. -/
def sendParts : List Part := [.port, .rte, .cor, .sec] ++ evParts

/-- The parts that a command may change when it answers a next state; POWER_GOOD keeps nothing but what is fused. -/
def touches : Instr → List Part
  | .registerWrite _ _ _ _ => [.img, .queues, .counts, .outstanding, .harts, .gal, .bal, .ris, .win, .lnd, .nwl, .arc, .mir, .wdg, .chk, .pwr] ++ sendParts ++
      memParts ++ timeParts
  | .flitSend _ => [.port, .out]
  | .registerRead _ _ _ => [.gal, .bal, .mem, .pwr, .pci, .out]
  | .traySpiBadcmd _ => [.pci, .out]
  | .throttleLevelChange _ _ => [.pwr] ++ timeParts ++ evParts
  | .load => [.img] ++ evParts
  | .fetchComplete _ => [.img] ++ evParts
  | .imgShadowWrite _ _ _ => [.img, .pci]
  | .check => [.img]
  | .checkingEnd => [.img] ++ evParts
  | .arm => [.img] ++ evParts
  | .cancel => [.img] ++ evParts
  | .apply => [.img, .queues, .gates, .gal, .bal, .ris, .win, .lnd, .nwl, .rte, .arc, .vote, .mir, .chk, .sec] ++ doneParts ++ memParts
      ++ timeParts
  | .scrubbed => [.sec] ++ timeParts ++ evParts
  | .timePacketSend => [.port] ++ timeParts
  | .timePacketReceive _ _ => [.clk, .beat, .port] ++ evParts
  | .holdover => timeParts ++ evParts
  | .beatGmCtrlWrite _ => [.beat] ++ evParts
  | .beatSet _ => [.clk]
  | .delayRemeasure _ _ _ => [.beat, .port] ++ evParts
  | .beatMqPush => [.beat, .queues, .dbg]
  | .alarmFire _ => [.queues, .gates, .gal, .bal, .nwl, .vote, .mir, .pwr] ++ doneParts ++ sendParts ++ memParts ++ timeParts
  | .eqPush _ _ _ => [.queues, .gates, .outstanding, .harts, .cores, .wdg] ++ memParts
  | .eqPushStallEnd _ _ => [.queues, .outstanding, .harts] ++ evParts
  | .eqWait _ _ _ => [.queues, .gates, .outstanding, .harts, .cores, .wdg] ++ memParts
  | .eqWaitSatisfied _ _ => [.harts, .mem]
  | .eqPoll _ _ _ => [.queues, .gates, .outstanding, .harts, .cores, .wdg] ++ memParts
  | .eqGate _ _ _ => [.queues, .gates, .outstanding, .harts, .cores, .wdg] ++ memParts
  | .eqGateSatisfied _ _ => [.gates, .harts]
  | .eqBeat _ _ _ => [.queues, .gates, .outstanding, .harts, .cores, .wdg] ++ memParts
  | .eqFence _ _ _ => [.queues, .gates, .outstanding, .harts, .cores, .wdg] ++ memParts
  | .eqFenceSatisfied _ _ => [.harts]
  | .hartInstruction _ _ _ => [.queues, .gates, .outstanding, .harts, .cores, .wdg] ++ memParts
  | .hartStart _ _ => [.harts, .wdg]
  | .hartHalt _ _ => [.harts]
  | .matmul _ _ _ _ _ => [.queues, .gal, .bal] ++ doneParts ++ memParts ++ timeParts
  | .accLoad _ _ => [.queues, .gal, .bal] ++ doneParts ++ memParts ++ timeParts
  | .accRead _ => [.queues, .gal, .bal] ++ doneParts ++ timeParts
  | .galReadout _ _ _ _ => [.gal, .bal, .chk] ++ doneParts ++ memParts ++ timeParts
  | .galComplete _ => [.gal, .bal] ++ doneParts ++ timeParts
  | .galCntClr _ => [.gal]
  | .slots _ => [.queues, .gal, .bal] ++ doneParts ++ timeParts
  | .down _ => [.queues, .bal] ++ doneParts ++ timeParts
  | .up _ _ _ _ _ => [.queues, .gal, .bal, .chk] ++ doneParts ++ memParts ++ timeParts
  | .upComplete _ => [.bal] ++ doneParts ++ timeParts
  | .scrRead _ _ _ => [.queues, .gal, .bal, .chk] ++ doneParts ++ memParts ++ timeParts
  | .adpCntClr _ => [.bal]
  | .convert _ _ _ _ _ => [.queues, .ris, .nwl] ++ doneParts ++ memParts
  | .risComplete _ _ => [.ris, .chk] ++ doneParts ++ timeParts
  | .streamClear _ _ => [.ris]
  | .risCntClr _ => [.ris]
  | .risClearStreamSets _ => [.ris]
  | .transform _ _ _ _ _ _ => [.queues, .win, .nwl] ++ doneParts ++ memParts
  | .winComplete _ => [.win] ++ doneParts ++ timeParts
  | .winCntClr _ => [.win]
  | .run _ _ _ _ _ _ => [.queues, .lnd, .nwl] ++ doneParts ++ memParts
  | .lndComplete _ _ => [.lnd, .chk] ++ doneParts ++ timeParts
  | .lndCntClr _ => [.lnd]
  | .gen _ _ _ => [.queues, .nwl] ++ doneParts ++ memParts
  | .genComplete _ => [.nwl] ++ doneParts ++ timeParts
  | .seed _ => [.queues, .nwl] ++ doneParts ++ timeParts
  | .nwlCntClr _ => [.nwl]
  | .hallRequestAged _ _ _ _ => [.mem]
  | .flush _ _ => [.mem, .cor] ++ evParts
  | .invalidate _ _ => [.mem, .cor] ++ evParts
  | .cacheCommandDone _ => [.mem, .flt, .cor]
  | .hallCntClr _ => [.mem]
  | .hbmCntClr _ => [.mem]
  | .lpxCntClr _ => [.mem]
  | .testStart _ _ => [.mem]
  | .testStop _ => timeParts ++ evParts
  | .channelTestEnd _ => timeParts ++ evParts
  | .move _ => [.queues, .flt] ++ doneParts
  | .gather _ => [.queues, .flt] ++ doneParts
  | .prefetch _ => [.queues, .flt] ++ doneParts
  | .put _ => [.queues, .flt] ++ doneParts
  | .burstIssue _ _ => doneParts ++ sendParts ++ memParts
  | .burstResponse _ _ _ => doneParts ++ sendParts ++ memParts
  | .burstTimeout _ _ => doneParts ++ sendParts ++ memParts ++ timeParts
  | .fltCntClr _ => [.flt]
  | .portDisable _ => [.port]
  | .portEnable _ => [.port]
  | .release _ => [.port] ++ evParts
  | .laneLock _ _ => [.port]
  | .bringUpComplete _ _ _ _ _ _ _ => [.beat, .mem, .port, .pwr] ++ evParts
  | .bringUpTimeout _ => [.port] ++ timeParts
  | .bringUpRetry _ => [.port] ++ timeParts
  | .laneLoss _ _ => [.beat, .port] ++ evParts
  | .lightLoss _ => [.port] ++ evParts
  | .noFlitTimeout _ => [.port] ++ timeParts ++ evParts
  | .retrainDone _ => [.beat, .mem, .port, .pwr] ++ evParts
  | .flitReceive _ _ => [.port, .rte] ++ evParts
  | .localDelivery => sendParts
  | .tailTimeout _ _ => [.port] ++ timeParts ++ evParts
  | .cmapWindowEnd => [.port] ++ timeParts
  | .nutFcThrWrite _ _ _ => [.port]
  | .nutCntClr _ => [.port]
  | .write => sendParts ++ memParts
  | .notify => sendParts ++ memParts
  | .readReq _ => sendParts ++ memParts
  | .readResp => doneParts ++ sendParts ++ memParts
  | .atomic _ => sendParts ++ memParts
  | .ack => [.mir] ++ doneParts ++ sendParts ++ memParts
  | .mgmt => [.img, .queues, .counts, .outstanding, .harts, .gal, .bal, .ris, .win, .lnd, .nwl, .arc, .mir, .wdg, .chk, .pwr] ++ sendParts ++ memParts ++
      timeParts
  | .rteArm => [.rte] ++ evParts
  | .rteCancel => [.rte]
  | .swap => [.rte] ++ timeParts ++ evParts
  | .rteShadowWrite _ _ _ => [.rte, .pci, .dbg]
  | .rteCntClr => [.rte]
  | .allreduce _ _ => [.queues, .arc] ++ doneParts ++ sendParts ++ memParts
  | .voteCfg _ => [.queues, .arc, .vote] ++ doneParts ++ memParts ++ timeParts
  | .arcade _ => [.arc, .chk] ++ doneParts ++ sendParts ++ memParts
  | .phaseTimeout _ _ => [.arc, .vote] ++ doneParts ++ sendParts ++ memParts ++ timeParts
  | .earlyReadyExpiry _ => [.arc, .vote] ++ timeParts
  | .vote _ => [.arc, .vote, .chk] ++ sendParts ++ memParts
  | .arcCntClr _ => [.arc]
  | .retain _ => [.queues] ++ doneParts ++ memParts
  | .done _ => [.queues] ++ doneParts ++ timeParts
  | .await _ => [.queues] ++ doneParts
  | .awaitComplete _ => doneParts ++ memParts
  | .send _ => [.queues, .mir] ++ doneParts ++ sendParts ++ memParts
  | .released _ => evParts
  | .replayLive _ => evParts
  | .replaySolo _ => evParts
  | .replaySoloCommitted _ => evParts
  | .revote _ => evParts
  | .resolveCommit _ => evParts
  | .resolveAbort _ => evParts
  | .vstCommandBeat _ => [.gates, .harts, .nwl, .vote, .wdg] ++ sendParts ++ memParts ++ timeParts
  | .cutCommand _ => [.vst]
  | .cutTaken _ => memParts
  | .drainHost _ => memParts
  | .drainFabric _ => [.mir] ++ sendParts ++ memParts
  | .drainDone _ => evParts
  | .drainError _ => timeParts ++ evParts
  | .drainLate _ => timeParts ++ evParts
  | .clear _ => [.vst]
  | .ckpt => sendParts
  | .vstCfgWrite _ _ => [.vst]
  | .vstRegionWrite _ _ _ => [.vst, .mir]
  | .mirRegionWrite _ _ => [.vst, .mir]
  | .mirBegin => [.mir] ++ sendParts ++ memParts
  | .mirList => [.mir] ++ sendParts
  | .mirData _ => [.mir] ++ sendParts ++ memParts
  | .mirEnd => [.mir] ++ sendParts
  | .mirInput => [.mir] ++ sendParts
  | .inAborted _ => [.mir] ++ timeParts ++ evParts
  | .mirrorTimeout _ => [.mir] ++ doneParts ++ timeParts
  | .restore _ => [.mir] ++ sendParts
  | .discardInboundW _ => [.mir]
  | .fetch => [.mir] ++ sendParts ++ memParts
  | .rdata _ => [.mir] ++ sendParts ++ memParts
  | .rresult _ => [.mir] ++ sendParts ++ memParts
  | .rdone => [.mir] ++ sendParts ++ memParts
  | .restoreFailed _ => [.mir] ++ timeParts ++ evParts
  | .ctxHang _ _ => [.queues, .gates, .flt] ++ doneParts ++ timeParts
  | .engHang _ _ => [.queues, .gates, .gal, .bal, .ris, .win, .lnd, .nwl, .arc, .vote, .mir, .chk] ++ doneParts ++ memParts ++ timeParts
  | .partHang _ => [.wdg] ++ timeParts ++ evParts
  | .wingHang _ => [.wdg] ++ evParts
  | .aonWatchdogFire => [.wdg] ++ evParts
  | .contextReset _ _ => [.queues, .gates, .gal, .bal, .ris, .win, .lnd, .nwl, .arc, .vote, .mir, .chk] ++ doneParts ++ memParts ++
      timeParts
  | .engineReset _ _ => [.queues, .gates, .gal, .bal, .ris, .win, .lnd, .nwl, .arc, .vote, .mir, .chk] ++ doneParts ++ memParts ++
      timeParts
  | .partitionReset _ => [.queues, .gates, .gal, .bal, .ris, .win, .lnd, .nwl, .arc, .vote, .mir, .chk] ++ doneParts ++ memParts ++
      timeParts
  | .wingReset _ => [.queues, .gates, .gal, .bal, .ris, .win, .lnd, .nwl, .arc, .vote, .mir, .chk] ++ doneParts ++ memParts ++
      timeParts
  | .chipReset => [.queues, .gates, .gal, .bal, .ris, .win, .lnd, .nwl, .arc, .vote, .mir, .chk] ++ doneParts ++ memParts ++
      timeParts
  | .powerCycleRequest => [.queues, .gates, .gal, .bal, .ris, .win, .lnd, .nwl, .arc, .vote, .mir, .chk] ++ doneParts ++ memParts ++
      timeParts
  | .pwrcycReqNAssert => [.wdg, .hlt, .tray] ++ timeParts
  | .resetDone _ => [.nwl, .wdg] ++ timeParts ++ evParts
  | .resetOverrun _ => [.queues, .gates, .gal, .bal, .ris, .win, .lnd, .nwl, .arc, .vote, .mir, .chk] ++ doneParts ++ memParts ++
      timeParts
  | .slotOpen => [.harts, .wdg] ++ timeParts
  | .suspectClear => [.harts, .wdg] ++ evParts
  | .slotMaxExpiry => [.queues, .gates, .flt] ++ doneParts ++ timeParts
  | .noticeExtend => [.wdg] ++ sendParts
  | .noticeAbort => [.wdg] ++ sendParts
  | .noticeInfo => [.wdg] ++ sendParts
  | .notice => [.arc, .vote] ++ doneParts ++ sendParts ++ memParts
  | .chkSync _ => [.queues, .chk] ++ doneParts ++ memParts ++ timeParts
  | .chkCntClr _ => [.chk]
  | .packLoad _ _ => evParts
  | .packLoaded => evParts
  | .ptStart _ => [.chk]
  | .ptStop _ => [.chk]
  | .soakEnd _ _ _ => [.chk]
  | .patternTestEnd _ _ => [.mem, .chk, .pwr] ++ evParts
  | .subWindowEnd => [.hlt] ++ timeParts
  | .eventRingFlush => [.hlt] ++ timeParts
  | .summaryRewrite => [.hlt] ++ timeParts
  | .holdupOkFall => [.hlt, .tray]
  | .inputLoss _ => [.mem] ++ evParts
  | .hltRetire _ => [.hlt]
  | .crcRetry _ _ => [.cor] ++ evParts
  | .moduleDown _ _ => [.cor] ++ evParts
  | .opChanged => [.pwr] ++ timeParts ++ evParts
  | .throttle _ => [.pwr] ++ evParts
  | .throttleEnd _ => [.pwr] ++ timeParts
  | .thermWarn _ => [.pwr] ++ evParts
  | .thermTrip _ => [.pwr] ++ evParts
  | .calDue => [.pwr] ++ evParts
  | .recalDone _ _ => [.pwr] ++ timeParts ++ evParts
  | .holdupLow _ => [.pwr] ++ evParts
  | .holdupDisagree _ _ => [.pwr] ++ evParts
  | .secLock => [.harts, .sec] ++ evParts
  | .enrol _ => [.sec] ++ evParts
  | .revoke _ => [.sec] ++ evParts
  | .skeyLoad _ => [.sec]
  | .ckeyLoad _ => [.sec]
  | .ckeyClear _ => [.sec]
  | .spdmRequest _ _ _ _ => [.mem, .out]
  | .getMeasurements _ _ => [.out]
  | .ideKm _ _ _ => [.pci]
  | .ideFail _ => evParts
  | .powerGood _ => [.clk, .img, .beat, .queues, .counts, .gates, .outstanding, .harts, .cores, .gal, .bal, .ris, .win, .lnd, .nwl,
      .mem, .flt, .port, .rte, .arc, .vote, .vst, .mir, .wdg, .chk, .hlt, .cor, .pwr, .sec, .pci, .tray, .dbg, .jtag, .out]
  | .firmwareVerified _ _ _ => [.port, .pci]
  | .aonComplete => [.pci]
  | .wingRailsUp => [.pci, .tray] ++ timeParts
  | .wingsOutOfReset => [.mem, .pwr, .pci]
  | .memTrainComplete _ => [.mem, .sec] ++ evParts
  | .bistComplete _ => [.sec] ++ evParts
  | .stageFail => timeParts ++ evParts
  | .slotIdChange _ => [.pci]
  | .perstNFall => [.img] ++ doneParts ++ sendParts ++ memParts
  | .perstNRise => [.tray]
  | .vfFlr _ => [.wdg] ++ evParts
  | .pfFlr => [.pci]
  | .linkUp _ _ _ => evParts
  | .linkDown => evParts
  | .evrHeadWrite _ _ => [.pci, .out]
  | .msixCoalesceEnd _ => [.pci] ++ timeParts
  | .traySpiRead _ _ => [.mem, .pwr, .pci, .tray, .out]
  | .traySpiWrite _ _ _ => [.pwr, .pci, .tray, .out]
  | .dynamicAddressAssignment _ => [.tray]
  | .vendorRead _ => [.gal, .bal, .mem, .pwr, .pci, .out]
  | .vendorWrite _ _ _ => [.img, .queues, .counts, .outstanding, .harts, .gal, .bal, .ris, .win, .lnd, .nwl, .arc, .mir, .wdg, .chk, .pwr] ++ sendParts ++
      memParts ++ timeParts
  | .telemetry => sendParts
  | .snapshotPeriod => sendParts ++ timeParts
  | .lostRecordEntry => sendParts ++ timeParts
  | .kportUp => evParts
  | .kportDown => evParts
  | .dump => evParts
  | .dumpDone => [.mem] ++ evParts
  | .drained _ => evParts
  | .resume _ _ => [.harts, .wdg]
  | .bpStep _ _ => [.harts, .wdg]
  | .dbgAonClr => [.sec] ++ evParts
  | .extest => [.mem, .jtag, .out]
  | .idcode => [.jtag, .out]
  | .samplePreload => [.mem, .jtag, .out]
  | .dbgacc _ => [.img, .queues, .counts, .outstanding, .harts, .gal, .bal, .ris, .win, .lnd, .nwl, .arc, .mir, .wdg, .chk, .pwr, .jtag] ++ sendParts ++
      memParts ++ timeParts
  | .bypass _ => [.jtag, .out]
  | .cmapSample => [.port] ++ timeParts
  | .pciCntClr => [.pci]
  | .configurationRequest => [.pci, .out]
  | .firmwareCopiesFail => evParts
  | .pwrcycOverdue => [.wdg, .hlt] ++ timeParts
  | .thermalCycle => [.hlt]
  | .pcSample => timeParts ++ evParts

/-! ### When a command is due -/

/-- A packet of a type waits for its row. -/
def waits (ty : Nat) (m : Module) : Prop := ∃ k ∈ m.rte.accepted, k.hdr.ty.toNat = ty

/-- A mirror packet of a kind waits. -/
def mirWaits (kind : Nat) (m : Module) : Prop := ∃ k ∈ m.rte.accepted, k.hdr.ty = 0x18 ∧ mKind k = kind

/-- A descriptor of a type stands at a Gallery's head; one that no check refuses also has the array's turn: no UP takes it first (R247). -/
def galDue (g ty : Nat) (refused : Module → Desc → Bool) (m : Module) : Prop :=
  ∃ k d, galHead (settleBal g m) g ty = some (k, d)
    ∧ (refused (dequeue k (settleBal g m)) d = true ∨ galTurn g (dequeue k (settleBal g m)) ≠ none)

/-- A descriptor of a type stands at a Balcony's head once what holds the Balcony has ended (R234). -/
def balDue (b ty : Nat) (m : Module) : Prop := balHead (balTurn b (settleBal b m)) b ty ≠ none

/-- The answers that a burst of a kind can have. -/
def answerFits (k : BurstKind) (a : BurstAnswer) : Prop :=
  match a with
  | .data _ => k = .slotData ∨ k = .hostData ∨ k = .oldData
  | .ack => k = .localAck ∨ k = .slotAck ∨ k = .hostAck ∨ k = .notifyAck ∨ k = .fill
  | .refused => k = .slotData ∨ k = .oldData ∨ k = .slotAck ∨ k = .notifyAck
  | .hostError => k = .hostData ∨ k = .hostAck

/-- A tag names a burst that waits for such an answer, with data of its whole length, or one that is late: its burst has timed out or its
engine has been reset. -/
def answerDue (x : Flt) (tag : Nat) (a : BurstAnswer) (now : Nat) : Prop :=
  (∃ i o b, findBurst x tag = some (i, o, b) ∧ (burstDue x b < now ∨ answerFits b.kind a)
    ∧ ∀ l, a = .data l → answerLen x b ≤ l.length)
  ∨ findBurst x tag = none ∧ (orphanAt x tag ≠ none ∨ ∃ e ∈ x.dead, e.1 = tag)

/-- A reset of the domain runs. -/
def domRuns (m : Module) (d : Dom) : Prop := ∃ r ∈ m.wdg.running, r.dom = d

/-- A descriptor of a context still executes (R563). -/
def ctxHeld (m : Module) (p : Fin 16) (c : Fin 8) : Bool := !(ctxEngines m p.val c.val).isEmpty || ctxWaits m p.val c.val

/-- A hart issues, and its next instruction is the event-queue instruction of that code (R127, R131). -/
def eqIssues (f3 : Nat) (c : Fin 32) (h : Fin 4) (w : BitVec 4) (m : Module) : Prop :=
  ∃ p x, issues m c.val h.val w = some (p, x) ∧ nextIsEq (hartKey c.val h.val) p f3 m = true

/-- The states in which a command can come: the others are those in which what it names has not happened. -/
def due (c : Instr) (s : State) : Prop :=
  match c with
  | .registerWrite _ _ _ _ => True
  | .flitSend p => portUp (s.m.port' p) = true
  | .registerRead _ _ _ => True
  | .traySpiBadcmd _ => True
  | .throttleLevelChange r up =>
      (s.m.pwr.reason (r.val + 1)).active = true ∧ r.val < 4 ∧ (up = false → 1 < (s.m.pwr.reason (r.val + 1)).level)
  | .load => True
  | .fetchComplete r => s.m.img.st = .staging ∧ fetchWhole s.m.img.fetchLen r = true
  | .imgShadowWrite _ _ _ => True
  | .check => True
  | .checkingEnd => s.m.img.st = .checking
  | .arm => True
  | .cancel => True
  | .apply => s.m.img.st = .armed
  | .scrubbed => s.m.pci.stage ≠ 5 ∧ s.m.pci.stage ≠ 6 ∧ (s.m.sec.scrub ≠ [] ∨ s.m.pci.stage = 7)
  | .timePacketSend => s.m.beat.st = .master ∨ s.m.beat.st = .locked
  | .timePacketReceive _ _ => True
  | .holdover => s.m.beat.st = .locked
  | .beatGmCtrlWrite _ => True
  | .beatSet _ => True
  | .delayRemeasure p _ _ => portUp (s.m.port' p) = true ∨ p.val ∈ s.m.beat.remeasure
  | .beatMqPush => True
  | .alarmFire q => ∃ d r, queue s.m (alarmQ q) = d :: r ∧ nextAlarm s.m = some (alarmQ q) ∧ applyFirst s.m (alarmBeat d) = false
  | .eqPush c h w => eqIssues 0 c h w s.m
  | .eqPushStallEnd c h =>
      ∃ k d rd p x, waiting s.m (hartKey c.val h.val) = some (.push k d rd, p, x) ∧ (queueMine s.m p k.cls k.idx = true → queueFull s.m k = false)
  | .eqWait c h w => eqIssues 1 c h w s.m
  | .eqWaitSatisfied c h => ∃ k n p x, waiting s.m (hartKey c.val h.val) = some (.count k n, p, x)
      ∧ countPast (qidCount p x (BitVec.ofNat 64 (k.cls * 4096 + k.idx)) s.m).1 n = true
  | .eqPoll c h w => eqIssues 2 c h w s.m
  | .eqGate c h w => eqIssues 3 c h w s.m
  | .eqGateSatisfied c h => ∃ g p x, waiting s.m (hartKey c.val h.val) = some (.gate g, p, x) ∧ gateSet s.m p x g = true
  | .eqBeat c h w => eqIssues 4 c h w s.m
  | .eqFence c h w => eqIssues 5 c h w s.m
  | .eqFenceSatisfied c h => ∃ p x, waiting s.m (hartKey c.val h.val) = some (.fence, p, x) ∧ fenceDone s.m p x = true
  | .hartInstruction c h w => issues s.m c.val h.val w ≠ none
  | .hartStart _ _ => True
  | .hartHalt _ _ => True
  | .matmul g _ _ _ _ => galDue g.val 0x10 (fun m d => (matmulRefusal m g.val d).isSome || (pairInfo (d.b 74) (d.b 75)).isNone) s.m
  | .accLoad g _ => galDue g.val 0x11 (fun m d => (accRefusal m g.val d).isSome) s.m
  | .accRead g => galDue g.val 0x12 (fun m d => (accRefusal m g.val d).isSome) s.m
  | .galReadout g _ _ _ => ∃ o ∈ (s.m.gal' g.val).ops, o.readout = true ∧ o.read = false
  | .galComplete g => ∃ o r, (s.m.gal' g.val).ops = o :: r ∧ (o.readout = true → o.read = true)
  | .galCntClr _ => True
  | .slots b => balDue b.val 0x20 s.m
  | .down b => balDue b.val 0x21 s.m
  | .up b _ _ _ _ => balDue b.val 0x22 s.m
  | .upComplete b => (s.m.bal' b.val).ups ≠ []
  | .scrRead b _ _ => balDue b.val 0x23 s.m
  | .adpCntClr _ => True
  | .convert r _ _ _ _ => (s.m.ris' r.val).op = none ∧ canStart s.m 3 r.val = true ∧ headOwned s.m 3 r.val ≠ none
  | .risComplete r _ => (s.m.ris' r.val).op ≠ none
  | .streamClear _ _ => True
  | .risCntClr _ => True
  | .risClearStreamSets _ => True
  | .transform w _ _ _ _ _ => (s.m.win' w.val).op = none ∧ canStart s.m 4 w.val = true ∧ headOwned s.m 4 w.val ≠ none
  | .winComplete w => (s.m.win' w.val).op ≠ none
  | .winCntClr _ => True
  | .run l _ _ _ _ _ => (s.m.lnd' l.val).op = none ∧ canStart s.m 2 l.val = true ∧ headOwned s.m 2 l.val ≠ none
  | .lndComplete l _ => (s.m.lnd' l.val).op ≠ none
  | .lndCntClr _ => True
  | .gen n _ _ => nwlHead s.m n.val 0x50 ≠ none
  | .genComplete n => (s.m.nwl' n.val).op ≠ none
  | .seed n => nwlHead s.m n.val 0x51 ≠ none
  | .nwlCntClr _ => True
  | .hallRequestAged _ _ _ _ => True
  | .flush _ _ => True
  | .invalidate _ _ => True
  | .cacheCommandDone p => (s.m.cache p.val).busy ≠ none
  | .hallCntClr _ => True
  | .hbmCntClr _ => True
  | .lpxCntClr _ => True
  | .testStart _ _ => True
  | .testStop _ => True
  | .channelTestEnd ch => (tgGet s.m (chKey ch)).running = true
  | .move f => fltHead s.m f.val 0x60 ≠ none
  | .gather f => fltHead s.m f.val 0x61 ≠ none
  | .prefetch f => fltHead s.m f.val 0x62 ≠ none
  | .put f => fltHead s.m f.val 0x63 ≠ none
  | .burstIssue f _ => ∃ o ∈ (s.m.flt' f.val).ops, o.issuedAll = false ∧ o.err = 0
  | .burstResponse f tag ans => answerDue (s.m.flt' f.val) tag ans s.m.clk.elapsed
  | .burstTimeout f tag => findBurst (s.m.flt' f.val) tag ≠ none ∨ orphanAt (s.m.flt' f.val) tag ≠ none
  | .fltCntClr _ => True
  | .portDisable _ => True
  | .portEnable _ => True
  | .release _ => True
  | .laneLock p _ => (s.m.port' p).st = .down ∧ (s.m.port' p).enable = true
  | .bringUpComplete p lanes _ _ _ _ _ => (s.m.port' p).st = .training ∧ 4 ≤ (goodLanes lanes).length
  | .bringUpTimeout p => (s.m.port' p).st = .training
  | .bringUpRetry p => (s.m.port' p).st = .down ∧ (s.m.port' p).enable = true
  | .laneLoss p lane => bit (s.m.port' p).lanes lane = true
  | .lightLoss _ => True
  | .noFlitTimeout p => portUp (s.m.port' p) = true
  | .retrainDone p => (s.m.port' p).st = .up ∧ (s.m.port' p).retraining = true
  | .flitReceive p _ => (s.m.port' p).st ≠ .disabled ∧ (s.m.port' p).st ≠ .down
  | .localDelivery => s.m.rte.local_ ≠ []
  | .tailTimeout p vc => stalledPkt (vcOf (s.m.port' p) vc) ≠ none
  | .cmapWindowEnd => True
  | .nutFcThrWrite _ _ _ => True
  | .nutCntClr _ => True
  | .write => waits 1 s.m
  | .notify => waits 2 s.m
  | .readReq _ => waits 3 s.m
  | .readResp => waits 4 s.m
  | .atomic _ => waits 5 s.m
  | .ack => waits 6 s.m
  | .mgmt => waits 0x28 s.m
  | .rteArm => True
  | .rteCancel => True
  | .swap => s.m.rte.st = .armed ∧ ¬ (s.m.img.st = .armed ∧ s.m.img.armedBeat = s.m.rte.armedBeat)
  | .rteShadowWrite _ _ _ => True
  | .rteCntClr => True
  | .allreduce a _ => arcHead s.m a.val 0x70 ≠ none
  | .voteCfg a => arcHead s.m a.val 0x71 ≠ none
  | .arcade _ => waits 0x10 s.m
  | .phaseTimeout u p => (match u with
      | some a => (s.m.arc' a.val).op ≠ none
      | none => nfind s.m.vote.running p.val ≠ none)
  | .earlyReadyExpiry a => (s.m.arc' a.val).early ≠ [] ∨ a.val = 0 ∧ s.m.vote.early ≠ []
  | .vote _ => waits 0x11 s.m
  | .arcCntClr _ => True
  | .retain p => vstHead s.m p 0x80 ≠ none
  | .done p => vstHead s.m p 0x81 ≠ none
  | .await p => vstHead s.m p 0x82 ≠ none
  | .awaitComplete p => ∃ d r, (s.m.vst' p).awaits = d :: r ∧ awaitOutcome s.m d ≠ none
  | .send p => (s.m.mir' p).send = none ∧ queue s.m ⟨9, 0, p⟩ ≠ []
  | .released p => ∃ k x, oldestSlot (s.m.vst' p) (fun _ => true) = some (k, x) ∧ x.st = .committed
      ∧ outAcked (s.m.mir' p) x.step = true ∧ inHeld (s.m.mir' p) x.step = true
  | .replayLive _ => True
  | .replaySolo _ => True
  | .replaySoloCommitted _ => True
  | .revote _ => True
  | .resolveCommit _ => True
  | .resolveAbort _ => True
  | .vstCommandBeat p => (s.m.vst' p).armedCmd ≠ []
  | .cutCommand _ => True
  | .cutTaken p => (s.m.vst' p).snapSt = .copying
  | .drainHost _ => True
  | .drainFabric _ => True
  | .drainDone p => (s.m.vst' p).snapSt = .draining ∧ (s.m.vst' p).drainTags = []
  | .drainError p => (s.m.vst' p).snapSt = .draining ∧ ((s.m.vst' p).drainFab = false ∨ (s.m.vst' p).drainTags ≠ [])
  | .drainLate p => (s.m.vst' p).snapSt = .draining ∧ (s.m.vst' p).drainLateSeen = false
  | .clear _ => True
  | .ckpt => ∃ k r, s.m.rte.local_ = k :: r ∧ k.hdr.ty = 0x19
  | .vstCfgWrite _ _ => True
  | .vstRegionWrite _ _ _ => True
  | .mirRegionWrite _ _ => True
  | .mirBegin => mirWaits 0 s.m
  | .mirList => mirWaits 1 s.m
  | .mirData _ => mirWaits 2 s.m
  | .mirEnd => mirWaits 3 s.m
  | .mirInput => mirWaits 4 s.m
  | .inAborted p => (s.m.mir' p).inX ≠ none
  | .mirrorTimeout p => (s.m.mir' p).send ≠ none
  | .restore _ => True
  | .discardInboundW _ => True
  | .fetch => mirWaits 5 s.m
  | .rdata _ => mirWaits 6 s.m
  | .rresult _ => mirWaits 7 s.m
  | .rdone => mirWaits 8 s.m
  | .restoreFailed p => (s.m.mir' p).restore ≠ none
  | .ctxHang p c => ∃ hk, ctxHart s.m p.val c.val = some hk ∧ ctxRuns s.m p.val c.val (s.m.hart hk) = true
  | .engHang c i => i < engCount c ∧ engineRuns s.m c i = true
  | .partHang p => partDue s.m p.val ≠ none
  | .wingHang _ => True
  | .aonWatchdogFire => True
  | .contextReset _ _ => True
  | .engineReset _ _ => True
  | .partitionReset _ => True
  | .wingReset _ => True
  | .chipReset => True
  | .powerCycleRequest => True
  | .pwrcycReqNAssert => s.m.wdg.pwr ≠ none ∧ s.m.tray.pwrcycReqN = true
  | .resetDone d => domRuns s.m d ∧ (∀ p c, d = .context p c → ctxHeld s.m p c = false)
  | .resetOverrun d => domRuns s.m d ∧ (∀ p c, d = .context p c → ctxHeld s.m p c = true)
  | .slotOpen => s.m.wdg.gapFrom ≠ none ∧ nextSuspect s.m.wdg ≠ none ∧ s.m.wdg.phase = true ∧ s.m.wdg.slotOpen = none
  | .suspectClear => s.m.wdg.slotOpen ≠ none
      ∧ ∃ x, openSuspect s.m.wdg = some x ∧ x.exit = true ∧ nget 0 s.m.outstanding (8 * x.part + x.ctx) = 0
  | .slotMaxExpiry => s.m.wdg.slotOpen ≠ none
  | .noticeExtend => True
  | .noticeAbort => True
  | .noticeInfo => True
  | .notice => waits 0x20 s.m
  | .chkSync w => chkHead s.m w.val ≠ none
  | .chkCntClr _ => True
  | .packLoad _ r => fetchWhole (packBytes s.m.hlt) r = true
  | .packLoaded => s.m.hlt.packBusy ≠ none
  | .ptStart _ => True
  | .ptStop _ => True
  | .soakEnd w _ _ => (s.m.chk' w.val).run ≠ none
  | .patternTestEnd w o => ∃ r, (s.m.chk' w.val).run = some r ∧ ∀ i, o.failed = some i → r.first ≤ i ∧ i ≤ r.last
  | .subWindowEnd => True
  | .eventRingFlush => True
  | .summaryRewrite => True
  | .holdupOkFall => True
  | .inputLoss _ => True
  | .hltRetire _ => True
  | .crcRetry _ _ => True
  | .moduleDown w k => bit (s.m.cor' w.val).status k.val = true
  | .opChanged => s.m.pwr.change ≠ none
  | .throttle r => r.val = 5 ∨ r.val < 4 ∧ (s.m.pwr.reason (r.val + 1)).active = false ∧ (r.val = 3 → s.m.pwr.trayLimit ≠ 0)
  | .throttleEnd r => (s.m.pwr.reason (r.val + 1)).active = true ∧ r.val ≠ 4 ∧ (r.val < 4 → (s.m.pwr.reason (r.val + 1)).level ≤ 1)
  | .thermWarn _ => True
  | .thermTrip _ => True
  | .calDue => s.m.pwr.calDue = false ∧ (lightNow s.m = true ∨ eqDue s.m ≠ 0)
  | .recalDone _ _ => s.m.pwr.recal ≠ none
  | .holdupLow _ => True
  | .holdupDisagree _ _ => True
  | .secLock => True
  | .enrol _ => True
  | .revoke _ => True
  | .skeyLoad _ => True
  | .ckeyLoad _ => True
  | .ckeyClear _ => True
  | .spdmRequest _ _ _ _ => True
  | .getMeasurements _ _ => True
  | .ideKm _ _ _ => True
  | .ideFail n => bit s.m.pci.ide n.val = true
  | .powerGood _ => True
  | .firmwareVerified _ _ _ => s.m.pci.stage = 1
  | .aonComplete => s.m.pci.stage = 2
  | .wingRailsUp => s.m.pci.stage = 3
  | .wingsOutOfReset => s.m.pci.stage = 3 ∧ nget false s.m.pci.wingOut 0 = true ∧ nget false s.m.pci.wingOut 1 = true
  | .memTrainComplete _ => s.m.pci.stage = 5
  | .bistComplete _ => s.m.pci.stage = 6
  | .stageFail => stageLimit s.m.pci.stage ≠ none
  | .slotIdChange _ => True
  | .perstNFall => s.m.tray.perstN = true
  | .perstNRise => s.m.tray.perstN = false
  | .vfFlr _ => True
  | .pfFlr => True
  | .linkUp _ _ _ => s.m.tray.perstN = true
  | .linkDown => s.m.pci.linkUp = true
  | .evrHeadWrite _ _ => True
  | .msixCoalesceEnd fn => (s.m.evr' (ringOf fn)).lastSig ≠ none ∧ (s.m.evr' (ringOf fn)).unsig = true
  | .traySpiRead _ _ => True
  | .traySpiWrite _ _ _ => True
  | .dynamicAddressAssignment _ => True
  | .vendorRead _ => True
  | .vendorWrite _ _ _ => True
  | .telemetry => waits 0x29 s.m
  | .snapshotPeriod => bit s.m.dbg.telCtrl 63 = true
  | .lostRecordEntry => s.m.dbg.lostNow ≠ 0
      ∧ (s.m.dbg.buffer.length < traceCap ∨ (traceSend (pass 1 s.m)).dbg.buffer.length < traceCap)
  | .kportUp => True
  | .kportDown => True
  | .dump => True
  | .dumpDone => s.m.dbg.dumpRun ≠ none
  | .drained p => nget 0 s.m.dbg.hitAt p.val ≠ 0 ∧ bpCtxs s.m p.val ≠ [] ∧ ∀ c ∈ bpCtxs s.m p.val, fenceDone s.m p.val c = true
  | .resume _ _ => True
  | .bpStep _ _ => True
  | .dbgAonClr => True
  | .extest => True
  | .idcode => True
  | .samplePreload => True
  | .dbgacc _ => True
  | .bypass _ => True
  | .cmapSample => True
  | .pciCntClr => True
  | .configurationRequest => wingsReached s.m.pci = true → s.m.tray.perstN = true
  | .firmwareCopiesFail => s.m.pci.stage = 1
  | .pwrcycOverdue => s.m.wdg.pwr ≠ none ∧ s.m.tray.pwrcycReqN = false
  | .thermalCycle => True
  | .pcSample => capturing s.m = true ∧ bit s.m.dbg.kinds 4 = true ∧ s.m.dbg.pcPer ≠ 0

/-- The sparse maps of the units have strictly rising keys: each unit has one state. -/
def Module.canonical (m : Module) : Bool :=
  rising m.gates && rising m.harts && rising m.cores && rising m.gal && rising m.bal && rising m.ris
  && rising m.win && rising m.lnd && rising m.nwl && rising m.flt && rising m.port && rising m.arc && rising m.vst && rising m.mir
  && rising m.chk && rising m.cor && rising m.mem.caches && rising m.mem.hallW && rising m.mem.hbm && rising m.mem.lpx
  && rising m.mem.tg && rising m.pci.evr

/-- The canonical form of the state: of the units' maps and of the memory. -/
def Module.Inv (m : Module) : Prop := m.canonical = true ∧ Memory.wf m.mem = true

/-- Every command that waits has operands that can come to the module. -/
def State.queueWf (s : State) : Bool := s.pending.all Instr.wellFormed

end Sys2Proof.Machine
end

