-- ==== Sys2Proof/Certificates/Slice0/Obligations.lean ====
section
/-! DEFINITION. The statements for the provers, one definition for each. -/

open Sys2Proof Sys2Proof.Machine

/-! ### Structure image (chapter 2) -/

/-- LOAD, the end of its fetch, CHECK and the end of checking move the IMG block as R77's table says (with R95 and R103): the fetch
begins into empty shadow copies with the error log cleared, an earlier image is discarded first with CANCELLED recorded, a LOAD whose
address is not a multiple of 16 and a fetch that fails leave the single log entry of R103. The fetch takes at most 1 MiB and LOAD clears
IMG_ST_IGNORED (R99). ARM, CANCEL and a write of the shadow copies (R77, R79, R85, R86, R101): a beat that has passed is refused with
code 0x20, or with LATE_POLICY set the image is armed for the next beat; CANCEL discards the shadow copies; a command in any other state
sets BAD_CMD and does nothing else; a shadow write past what was fetched is counted and ignored as a whole. -/
def Obligations.ImageCommandsMoveTheBlock : Prop :=
  (
  ∀ s : State, let i := s.m.img
    let fresh (st : ImgSt) (x : Img) : Img := { x with
      st := st, dirty := false, errCount := 0, errLog := [], stIgnored := 0, shadow := [], fetchLen := min x.loadLen.toNat 1048576 }
    let failed (x : Img) : Img := { x with
      st := .failed, lastCode := 1, errCount := 1, errLog := [0x0100F800FFFF0000], shadow := [] }
    (i.loadAddr.toNat % 16 = 0 →
      ((i.st = .idle ∨ i.st = .failed ∨ i.st = .applied) → Does .load s { s.m with img := fresh .staging i })
      ∧ (¬ (i.st = .idle ∨ i.st = .failed ∨ i.st = .applied) →
        Completes .load s fun m => m.img = fresh .staging i
          ∧ m.out = (ev 0x02 7 0xFFFF 1 31 0 (BitVec.ofNat 64 (le i.shadow 0x10 8)) s.m).out))
    ∧ (i.loadAddr.toNat % 16 ≠ 0 → Completes .load s fun m => m.img = failed (fresh .staging i))
    ∧ (i.st = .staging →
      (∀ b : List Byte, i.fetchLen ≤ b.length → Does (.fetchComplete (.data b)) s
        (ev 0x02 1 0xFFFF 0 31 0 (BitVec.ofNat 64 (le (slice b 0 i.fetchLen) 0x10 8))
          { s.m with img := { i with st := .staged, shadow := slice b 0 i.fetchLen } }))
      ∧ Does (.fetchComplete .error) s { s.m with img := failed i })
    ∧ (i.st = .staged → Does .check s { s.m with img := { i with st := .checking } })
    ∧ (i.st ≠ .staged → Does .check s { s.m with img := { i with badCmd := true, badCmdAt := instant s.m } })
    ∧ (i.st = .checking →
      ((checkImage s.m).errs = [] → Does .checkingEnd s
        (ev 0x02 2 0xFFFF 0 31 0 (BitVec.ofNat 64 (le i.shadow 0x10 8))
          { s.m with img := { i with st := .checked, errCount := 0, errLog := [], excStaged := (checkImage s.m).waived } }))
      ∧ (∀ e r, (checkImage s.m).errs = e :: r → Does .checkingEnd s
        (ev 0x02 3 0xFFFF 2 31 0 (BitVec.ofNat 64 (min (r.length + 1) 65535))
          { s.m with img := { i with st := .failed, lastCode := BitVec.ofNat 8 e.code, errCount := min (r.length + 1) 65535,
                                     errLog := ((e :: r).take 256).map ErrEnt.word } }))))
  ∧ (
  ∀ s : State, let i := s.m.img
    (i.st = .checked →
      (atOrAfter (beatNow s.m) i.applyBeat = false → ∃ h, Does .arm s
        (ev 0x02 4 0xFFFF 0 31 0 (i.applyBeat.setWidth 64)
          { s.m with img := { i with st := .armed, armedBeat := i.applyBeat, armedLate := none }, dbg := { s.m.dbg with hold := h } }))
      ∧ (atOrAfter (beatNow s.m) i.applyBeat = true → i.latePolicy = false → Does .arm s
        (ev 0x02 6 0xFFFF 2 31 0 0x20 { s.m with img := { i with st := .failed, lastCode := 0x20 } }))
      ∧ (atOrAfter (beatNow s.m) i.applyBeat = true → i.latePolicy = true → ∃ h, Does .arm s
        (ev 0x02 4 0xFFFF 0 31 0 (i.applyBeat.setWidth 64)
          { s.m with img := { i with st := .armed, armedBeat := beatNow s.m + 1, armedLate := some (beatNow s.m + 1 - i.applyBeat) },
                     dbg := { s.m.dbg with hold := h } })))
    ∧ (i.st ≠ .checked → Does .arm s { s.m with img := { i with badCmd := true, badCmdAt := instant s.m } })
    ∧ ((i.st = .staged ∨ i.st = .checking ∨ i.st = .checked ∨ i.st = .armed) → Does .cancel s
      (ev 0x02 7 0xFFFF 1 31 0 (BitVec.ofNat 64 (le i.shadow 0x10 8))
        { s.m with img := { i with st := .idle, dirty := false, shadow := [] } }))
    ∧ (¬ (i.st = .staged ∨ i.st = .checking ∨ i.st = .checked ∨ i.st = .armed) →
      Does .cancel s { s.m with img := { i with badCmd := true, badCmdAt := instant s.m } })
    ∧ (∀ off bytes val, off < 32768 → (bytes = 4 ∨ bytes = 8) → off % bytes = 0 →
      (i.st = .staged → off + bytes ≤ i.shadow.length → Does (.imgShadowWrite off bytes val) s
        { s.m with img := { i with dirty := true, shadow := splice i.shadow off (natLe bytes val.toNat) } })
      ∧ (i.st = .staged → i.shadow.length < off + bytes → Does (.imgShadowWrite off bytes val) s
        { s.m with img := { i with stIgnored := i.stIgnored + 1 } })))

/-- At the start of the armed beat, where no check fails, the new structure is in force for every unit in one step (R77, R84); where one
fails, the structure in force stays and APPLY_REFUSED carries the lowest code (R85, R744); the last zeroed unit brings the count of
units to zero (R658). The trace region does not move here (R727). The last unit is zeroed: no unit is left to zero, SCRUBBED is recorded
with how many there were, and from stage SCRUB the module is READY (R658, R689). Where the rules are silent or can be read in two ways,
it rests on the model's choices of log entries 136, 138, 143. -/
def Obligations.ApplyAndScrub : Prop :=
  (
  ∀ s : State, s.m.img.st = .armed → s.m.dbg.hold = none → ∀ m1, m1 = passToBeat s.m.img.armedBeat s.m →
    (∀ f t, stagedStruct m1 = some (f, t) →
      (applyRefusal m1 t = none → Completes .apply s fun m =>
        m.img.st = .applied ∧ m.img.active = some t ∧ m.img.activeId = f.id ∧ m.img.activeBeat = beatNow m1 ∧ m.clk = m1.clk)
      ∧ (∀ c, applyRefusal m1 t = some c → Completes .apply s fun m =>
        m.img.st = .failed ∧ m.img.lastCode = BitVec.ofNat 8 c ∧ m.img.active = s.m.img.active
        ∧ SameBut [.clk, .beat, .mem, .cor, .img, .vst, .hlt, .pci, .tray, .dbg, .out] s.m m)))
  ∧ (
  ∀ s : State, let n := s.m.sec.scrub.length
    let at_ : Module := passTo (s.m.sec.scrubAt + (if n = 0 then 0 else scrubTime s.m.sec.scrub)) s.m
    (s.m.pci.stage ≠ 5 → s.m.pci.stage ≠ 6 → s.m.pci.stage ≠ 7 → n ≠ 0 →
      Does .scrubbed s (ev 0x1B 9 0xFFFF 0 31 0 (BitVec.ofNat 64 n) { at_ with sec := { at_.sec with scrub := [] } }))
    ∧ (s.m.pci.stage = 7 → Completes .scrubbed s fun m => m.sec.scrub = [] ∧ m.pci.stage = 8))

/-! ### Registers (chapter 1) -/

/-- An access that R12 does not accept, or one at an offset that holds no register, acts on no byte and is counted in PCI_UNMAPPED; the
read returns zero (R12, R45). 0x800000 lies in no window of R43. The access types of R15 on registers that have them, each access one of
the physical function at offset 0x60010 and on: RW (WDG_CTX_TMO, read back, and by halves WDG_ESC under R12), W1C (IMG_STATUS.BAD_CMD,
a bit that the hardware has set in the same cycle staying set, R17), WO (IMG_CMD reads as zero), RO (TOP_IDENT), LK (HLT_THR_C: written while the lock is not set, ignored and counted once it is). Where the
rules are silent or can be read in two ways, it rests on the model's choice of log entry 128. -/
def Obligations.RegisterAccessesFollowTheirTypes : Prop :=
  (
  ∀ (s : State) (fn : Fn) (off bytes : Nat) (val : W64), off < barSize fn →
    ((bytes ≠ 4 ∧ bytes ≠ 8) ∨ off % bytes ≠ 0 ∨ (fn = .pf ∧ off = 0x800000)) →
    Does (.registerWrite fn off bytes val) s { s.m with pci := { s.m.pci with unmappedW := satAdd s.m.pci.unmappedW 1 } }
    ∧ Does (.registerRead fn off bytes) s
        { s.m with pci := { s.m.pci with unmappedR := satAdd s.m.pci.unmappedR 1 }, out := .readData fn off 0 :: s.m.out })
  ∧ (
  ∀ (s : State) (val : W64),
    Does (.registerWrite .pf 0x60010 8 val) s { s.m with wdg := { s.m.wdg with ctxTmo := val.setWidth 32 } }
    ∧ Completes (.registerRead .pf 0x60010 8) s (fun m =>
        m.out = .readData .pf 0x60010 (s.m.wdg.ctxTmo.setWidth 64) :: s.m.out ∧ SameBut [.gal, .bal, .out] s.m m)
    ∧ Does (.registerWrite .pf 0x6003C 4 val) s { s.m with wdg := { s.m.wdg with escWin := val.setWidth 32 } }
    ∧ Does (.registerWrite .pf 0x60038 4 val) s { s.m with wdg := { s.m.wdg with escCount := val.setWidth 8 } }
    ∧ (bit val 9 = true → sameCycle s.m s.m.img.badCmdAt = false →
        Does (.registerWrite .pf 0x10020 8 val) s { s.m with img := { s.m.img with badCmd := false } })
    ∧ (sameCycle s.m s.m.img.badCmdAt = true → Does (.registerWrite .pf 0x10020 8 val) s s.m)
    ∧ (bit val 9 = false → Does (.registerWrite .pf 0x10020 8 val) s s.m)
    ∧ Completes (.registerRead .pf 0x10018 8) s (fun m => m.out = .readData .pf 0x10018 0 :: s.m.out ∧ SameBut [.gal, .bal, .out] s.m m)
    ∧ Does (.registerWrite .pf 0 8 val) s s.m
    ∧ (s.m.sec.locked = false → Does (.registerWrite .pf 0x40010 8 val) s { s.m with hlt := { s.m.hlt with thrC := val } })
    ∧ (s.m.sec.locked = true → Completes (.registerWrite .pf 0x40010 8 val) s fun m =>
        m.hlt.thrC = s.m.hlt.thrC ∧ m.sec.lkIgn = satAdd s.m.sec.lkIgn 1 ∧ SameBut [.vst, .hlt, .sec, .pci, .tray, .dbg, .out] s.m m))

/-! ### Beat time (chapter 3) -/

/-- R110: a time packet that arrives while MASTER is 1, while UP_EN is 0 or on another port is ignored and counted. -/
def Obligations.StrayTimePacketsAreIgnored : Prop :=
  ∀ (s : State) (p : Fin 16) (t : Time),
    (s.m.beat.master = true ∨ s.m.beat.upEn = false ∨ s.m.beat.upPort.toNat ≠ p.val) →
    Does (.timePacketReceive p t) s { recvLinks p.val 1 s.m with beat := { s.m.beat with stray := s.m.beat.stray + 1 } }

/-- A time packet through UP_PORT (R109, R111, R117): the offset is the carried time and the port's delay less the module's own time;
from FREE the module acquires, from LOCKED it stays locked while the offset is within 1,024 ns, steps back to ACQUIRE beyond that while
no image is applied, and keeps its state while one is; while the delay is to be measured again the packet is ignored. Every 1,024 beats
a MASTER or LOCKED module sends a packet that carries its time through each port of BEAT_DIST_MASK whose link is up (R108); 2,048 beats
without a packet, or UP_PORT down, bring HOLDOVER and its record (R117). Where the rules are silent or can be read in two ways, it rests
on the model's choices of log entries 35, 36. -/
def Obligations.TimePacketsMoveTheTimeState : Prop :=
  (
  ∀ (s : State) (p : Fin 16) (t : Time),
    s.m.beat.master = false → s.m.beat.upEn = true → s.m.beat.upPort.toNat = p.val →
    let o : Int := (t + BitVec.ofNat 58 ((s.m.port' p).delay.toNat / 100) - s.m.clk.time).toInt
    (s.m.beat.remeasure.contains p.val = true → Does (.timePacketReceive p t) s (recvLinks p.val 1 s.m))
    ∧ (s.m.beat.remeasure.contains p.val = false → Completes (.timePacketReceive p t) s fun m =>
        m.beat.offset = BitVec.ofInt 64 o
        ∧ (s.m.beat.st = .free → m.beat.st = .acquire)
        ∧ (s.m.beat.st = .acquire → 20 < o.natAbs → m.beat.st = .acquire)
        ∧ (s.m.beat.st = .acquire → o.natAbs ≤ 20 → 3 ≤ s.m.beat.good → m.beat.st = .locked)
        ∧ (s.m.beat.st = .locked → o.natAbs ≤ 1024 → m.beat.st = .locked ∧ m.beat.slew = o)
        ∧ (s.m.beat.st = .locked → 1024 < o.natAbs → s.m.img.active = none → m.beat.st = .acquire)
        ∧ (s.m.beat.st = .locked → 1024 < o.natAbs → s.m.img.active ≠ none → m.beat.st = .locked ∧ m.beat.slew = o)
        ∧ (s.m.beat.st = .holdover → o.natAbs ≤ 1024 → m.beat.st = .acquire)
        ∧ (s.m.beat.st = .holdover → 1024 < o.natAbs → s.m.img.active ≠ none → m.beat.st = .holdover)
        ∧ SameBut [.clk, .beat, .port, .vst, .hlt, .pci, .tray, .dbg, .out] s.m m))
  ∧ (
  ∀ s : State,
    ((s.m.beat.st = .master ∨ s.m.beat.st = .locked) → Completes .timePacketSend s fun m =>
      let b := nextMultiple 1024 s.m.beat.sentBeat s.m
      m.clk = (passToBeat b s.m).clk ∧ m.beat.sentBeat = some b
      ∧ (∀ p : Fin 16, bit s.m.beat.distMask p = true → (s.m.port' p).st = .up → .timePacket p m.clk.time ∈ m.out)
      ∧ SameBut [.clk, .beat, .mem, .port, .cor, .dbg, .out] s.m m)
    ∧ (s.m.beat.st = .locked → portUp (s.m.port' s.m.beat.upPort.toNat) = false → Does .holdover s
        (ev 0x03 2 0xFFFF 2 31 0 (s.m.beat.upPort.setWidth 64)
          { s.m with beat := { s.m.beat with st := .holdover, holdSince := s.m.clk.elapsed } }))
    ∧ (s.m.beat.st = .locked → portUp (s.m.port' s.m.beat.upPort.toNat) = true → Completes .holdover s fun m =>
        m.beat.st = .holdover ∧ m.clk = (passTo (s.m.beat.lastPacket + 2048 * 1024) s.m).clk))

/-- BEAT_GM_CTRL alone sets the role (R107, R117, R143): MASTER from 0 to 1 makes the module master at its own time, MASTER from 1 to 0
leaves it in HOLDOVER, each recording GM_CHANGE. BEAT_SET acts only in FREE or MASTER while no image is applied (R139). A measured delay
is the port's, and ends what R111 ignores. Where the rules are silent or can be read in two ways, it rests on the model's choice of log
entry 12. -/
def Obligations.TimeRegistersTakeWrites : Prop :=
  ∀ (s : State) (val : W64),
    Completes (.beatGmCtrlWrite val) s (fun m =>
      m.beat.master = bit val 0 ∧ m.beat.upEn = bit val 8 ∧ m.beat.upPort.toNat = fld val 4 4 ∧ m.clk = s.m.clk
      ∧ (s.m.beat.master = false → bit val 0 = true → m.beat.st = .master)
      ∧ (s.m.beat.master = true → bit val 0 = false → m.beat.st = .holdover)
      ∧ (s.m.beat.master = bit val 0 → m.beat.st = s.m.beat.st ∧ m.out = s.m.out))
    ∧ ((s.m.beat.st = .free ∨ s.m.beat.st = .master) → s.m.img.active = none →
        Does (.beatSet val) s { s.m with clk := { s.m.clk with time := val.setWidth 58 } })
    ∧ (¬ ((s.m.beat.st = .free ∨ s.m.beat.st = .master) ∧ s.m.img.active = none) → Does (.beatSet val) s s.m)
    ∧ (∀ (p : Fin 16) (trips : List W32) (turn : W32), s.m.Inv → trips.length = 64 →
        (portUp (s.m.port' p) = true ∨ s.m.beat.remeasure.contains p.val = true) →
        Completes (.delayRemeasure p trips turn) s fun m =>
          (m.port' p).delay = oneWay trips turn ∧ m.beat.remeasure.contains p.val = false
          ∧ SameBut [.beat, .port, .vst, .hlt, .pci, .tray, .dbg, .out] s.m m)

/-- A push to the module queue that is full, or whose PART or CTX is not zero, is refused with BEAT_MQ_STATUS bit 8 (R140, R141); one in
order is the queue's last. The head whose beat comes first fires at its beat, leaves its queue and completes, and GATE sets the gate of
its context (R119 to R123, R136). Where the rules are silent or can be read in two ways, it rests on the model's choices of log entries
142, 143. -/
def Obligations.AlarmsQueueAndFire : Prop :=
  ∀ s : State,
    let b := (s.m.beat.mqDesc.map (fun w => natLe 8 w.toNat)).flatten
    ((64 ≤ (queue s.m modQ).length ∨ (parseDesc b).part ≠ 0 ∨ (parseDesc b).ctx ≠ 0) →
      Does .beatMqPush s { s.m with beat := { s.m.beat with mqRefused := true } })
    ∧ ((queue s.m modQ).length < 64 → descVersion b = 1 → (parseDesc b).part = 0 → (parseDesc b).ctx = 0 →
        alarmOk true (parseDesc b) = true → Completes .beatMqPush s fun m =>
          queue m modQ = queue s.m modQ ++ [parseDesc b] ∧ m.beat = { s.m.beat with mqRefused := false }
          ∧ SameBut [.beat, .queues, .dbg] s.m m)
    ∧ (∀ (q : Option (Fin 16)) (d : Desc) (r : List Desc), queue s.m (alarmQ q) = d :: r → nextAlarm s.m = some (alarmQ q) →
        applyFirst s.m (alarmBeat d) = false → s.m.Inv → Completes (.alarmFire q) s fun m =>
          queue m (alarmQ q) = r ∧ m.clk = (passToBeat (alarmBeat d) s.m).clk
          ∧ ((alarmQ q).sub < 16 → count m d.part d.ctx 10 0 = count s.m d.part d.ctx 10 0 + 1)
          ∧ (alarmAction d = 1 → m.gates = nset 0 s.m.gates ((alarmQ q).sub * 8 + d.ctx)
              (nget 0 s.m.gates ((alarmQ q).sub * 8 + d.ctx) ||| BitVec.ofNat 16 (2 ^ fld (alarmArg d) 0 4))))

/-! ### Control cores (chapter 3) -/

/-- A RUN bit that starts a hart and one that is cleared (R147, R694, R745): the hart begins at CC_BOOTh with its integer registers
zero; a halted hart has its stalled instruction abandoned, and no queue, count or hart but its own changes. -/
def Obligations.RunBitsStartAndHaltHarts : Prop :=
  ∀ (s : State) (core : Fin 32) (hart : Fin 4), let hk := hartKey core.val hart.val; let h := s.m.hart hk
    (∀ p, owner s.m 5 core.val = some p → h.run = false → s.m.pci.stage = 8 → s.m.Inv → Completes (.hartStart core hart) s fun m =>
      m.hart hk = { h with run := true, on := true, wait := none, bpHalt := false, bpStep := false, bpSkip := false, pc := h.boot,
                           xs := [], resv := none, lastProgress := s.m.clk.elapsed }
      ∧ (∀ r, rvGet (m.hart hk) r = 0) ∧ (∀ j, j ≠ hk → m.hart j = s.m.hart j) ∧ SameBut [.harts, .wdg] s.m m)
    ∧ ((owner s.m 5 core.val = none ∨ s.m.pci.stage ≠ 8 ∨ h.run = true) → Does (.hartStart core hart) s s.m)
    ∧ (s.m.Inv → Completes (.hartHalt core hart) s fun m =>
      m.hart hk = { h with run := false, on := false, wait := none, bpHalt := false, bpStep := false, bpSkip := false }
      ∧ (∀ j, j ≠ hk → m.hart j = s.m.hart j) ∧ SameBut [.harts] s.m m)

/-- EQ.PUSH (R130, R132 to R135): a refused queue ID or descriptor writes 1 to rd and queues nothing; a descriptor outside the hart's
memory halts the hart; an accepted one is its queue's last, is outstanding, and writes 0 to rd; on a full queue the hart stalls and
nothing is queued. Where the rules are silent or can be read in two ways, it rests on the model's choices of log entries 66, 116, 118.
-/
def Obligations.EqPushQueuesRefusesOrStalls : Prop :=
  ∀ (s : State) (core : Fin 32) (hart : Fin 4) (waits : BitVec 4) (p c rd rs1 rs2 len : Nat) (m0 : Module), s.m.Inv →
    let hk := hartKey core.val hart.val
    let h := s.m.hart hk
    let a := rvGet h rs1
    let q := rvGet h rs2
    let ends (v : W64) : Hart := stepped { rvSet rd v h with pc := h.pc + 4, lastProgress := s.m.clk.elapsed }
    let x := hallRead (core.val / 16) p (hallOff a) 16 m0
    let n := (parseDesc x.1).len
    let y := hallRead (core.val / 16) p (hallOff a) n x.2
    let k := queueFor (qidCls q) (qidIdx q) p c
    let given := descVersion x.1 = 1 ∧ 16 ≤ n ∧ n % 16 = 0 ∧ n ≤ 512
    let faults : Hart := { h with
      on := false, faulted := true, faultedAt := instant s.m, fault := a, wait := none, bpStep := false, bpSkip := false }
    issues s.m core.val hart.val waits = some (p, c) → nextIsEq hk p 0 s.m = true →
    fetchInstr core.val p h.pc (noteExit hk p c (issued core.val hart.val s.m)) = (.op (.eq 0 rd rs1 rs2) len, m0) →
    Completes (.eqPush core hart waits) s fun m =>
      (∀ j, j ≠ hk → m.hart j = s.m.hart j)
      ∧ (qidOk q = false → m.hart hk = ends 1 ∧ m.queues = s.m.queues ∧ m.outstanding = s.m.outstanding)
      ∧ (qidOk q = true → inHall s.m p a 16 = false →
          m.hart hk = faults ∧ m.queues = s.m.queues ∧ m.outstanding = s.m.outstanding)
      ∧ (qidOk q = true → inHall s.m p a 16 = true →
          (¬ given → m.hart hk = ends 1 ∧ m.queues = s.m.queues ∧ m.outstanding = s.m.outstanding)
          ∧ (given → inHall s.m p a n = false → m.hart hk = faults ∧ m.queues = s.m.queues ∧ m.outstanding = s.m.outstanding)
          ∧ (given → inHall s.m p a n = true → pushAccepted s.m p c (qidCls q) (qidIdx q) y.1 = false →
              m.hart hk = ends 1 ∧ m.queues = s.m.queues ∧ m.outstanding = s.m.outstanding)
          ∧ (given → inHall s.m p a n = true → pushAccepted s.m p c (qidCls q) (qidIdx q) y.1 = true →
              ((queue s.m k).length < queueDepth k → m.hart hk = ends 0 ∧ queue m k = queue s.m k ++ [parseDesc y.1]
                ∧ (∀ j, j ≠ k → queue m j = queue s.m j)
                ∧ m.outstanding = nset 0 s.m.outstanding (8 * p + c) (nget 0 s.m.outstanding (8 * p + c) + 1))
              ∧ (queueDepth k ≤ (queue s.m k).length →
                  m.hart hk = { h with wait := some (.push k (parseDesc y.1) rd) } ∧ m.queues = s.m.queues
                  ∧ m.outstanding = s.m.outstanding)))

/-- EQ.WAIT, EQ.POLL, EQ.GATE, EQ.BEAT and EQ.FENCE (R132, R136): each retires, with rd written where it has one, when what it waits for
holds, and stalls the hart when it does not; EQ.GATE clears its gate. A stall ends when what it waits for comes about, and the hart goes
on behind its instruction (R132, R135, R136): the stalled push then queues its descriptor and writes 0 to rd, and not before its queue
has room, or writes 1 where the partition no longer owns the queue's unit (R89); a gate that is awaited is cleared. Where the rules are silent or can be read in two ways, it rests on the model's choices of
log entries 28, 115. -/
def Obligations.EngineQueueWaitsRetireStallAndEnd : Prop :=
  (
  ∀ (s : State) (core : Fin 32) (hart : Fin 4) (waits : BitVec 4) (p c f3 rd rs1 rs2 len : Nat) (m0 : Module), s.m.Inv →
    let hk := hartKey core.val hart.val
    let h := s.m.hart hk
    let a := rvGet h rs1
    let n : W32 := (rvGet h rs2).setWidth 32
    let cnt := count s.m p c (qidCls a) (qidIdx a)
    let ends (x : Hart) : Hart := stepped { x with pc := h.pc + 4, lastProgress := s.m.clk.elapsed }
    issues s.m core.val hart.val waits = some (p, c) → nextIsEq hk p f3 s.m = true →
    fetchInstr core.val p h.pc (noteExit hk p c (issued core.val hart.val s.m)) = (.op (.eq f3 rd rs1 rs2) len, m0) →
    (f3 = 1 → Completes (.eqWait core hart waits) s fun m =>
      (m.hart hk = ends h ∨ m.hart hk = { h with wait := some (.count ⟨qidCls a, qidIdx a, 0⟩ n) })
      ∧ (qidOk a = true → (m.hart hk = ends h ↔ countPast cnt n = true)))
    ∧ (f3 = 2 → Completes (.eqPoll core hart waits) s fun m =>
      (∃ v : W32, m.hart hk = ends (rvSet rd (v.setWidth 64) h))
      ∧ (qidOk a = true → m.hart hk = ends (rvSet rd (cnt.setWidth 64) h)))
    ∧ (f3 = 3 → Completes (.eqGate core hart waits) s fun m =>
      (gateSet s.m p c (fld a 0 4) = true → m.hart hk = ends h ∧ gateSet m p c (fld a 0 4) = false)
      ∧ (gateSet s.m p c (fld a 0 4) = false → m.hart hk = { h with wait := some (.gate (fld a 0 4)) } ∧ m.gates = s.m.gates))
    ∧ (f3 = 4 → Completes (.eqBeat core hart waits) s fun m => m.hart hk = ends (rvSet rd (s.m.clk.time.setWidth 64) h))
    ∧ (f3 = 5 → Completes (.eqFence core hart waits) s fun m =>
      (nget 0 s.m.outstanding (8 * p + c) = 0 → m.hart hk = ends h)
      ∧ (nget 0 s.m.outstanding (8 * p + c) ≠ 0 → m.hart hk = { h with wait := some .fence })))
  ∧ (
  ∀ (s : State) (core : Fin 32) (hart : Fin 4) (p c : Nat), s.m.Inv →
    let hk := hartKey core.val hart.val
    let h := s.m.hart hk
    let ends (x : Hart) : Hart := stepped { x with wait := none, pc := h.pc + 4 }
    (∀ k d rd, waiting s.m hk = some (.push k d rd, p, c) →
      (queueMine s.m p k.cls k.idx = true → (queue s.m k).length < queueDepth k → Completes (.eqPushStallEnd core hart) s fun m =>
        m.hart hk = ends (rvSet rd 0 h) ∧ queue m k = queue s.m k ++ [d] ∧ SameBut [.queues, .outstanding, .harts, .dbg] s.m m)
      ∧ (queueMine s.m p k.cls k.idx = false → Completes (.eqPushStallEnd core hart) s fun m =>
        m.hart hk = ends (rvSet rd 1 h) ∧ SameBut [.harts, .vst, .hlt, .pci, .tray, .dbg, .out] s.m m)
      ∧ (queueMine s.m p k.cls k.idx = true → queueDepth k ≤ (queue s.m k).length → exec (.eqPushStallEnd core hart) s = .refused (.notDue "EQ_PUSH_STALL_END")))
    ∧ (∀ cls idx n, waiting s.m hk = some (.count ⟨cls, idx, 0⟩ n, p, c) → cls < 16 → idx < qclsCount cls →
        countPast (count s.m p c cls idx) n = true → Does (.eqWaitSatisfied core hart) s (s.m.setHart hk (ends h)))
    ∧ (∀ g, waiting s.m hk = some (.gate g, p, c) → gateSet s.m p c g = true → Completes (.eqGateSatisfied core hart) s fun m =>
        m.hart hk = ends h ∧ m.gates = (clearGate p c g s.m).gates ∧ SameBut [.gates, .harts] s.m m)
    ∧ (waiting s.m hk = some (.fence, p, c) → nget 0 s.m.outstanding (8 * p + c) = 0 →
        Does (.eqFenceSatisfied core hart) s (s.m.setHart hk (ends h))))

/-- A hart's next instruction (R129 to R132): the forms that only write a register or move the program counter; loads and stores of the
data scratch, LR and SC; and the faults of R130. Register 0 reads as zero and takes no write. The base instruction set is PRESUMED (log
entry 26). Where the rules are silent or can be read in two ways, it rests on the model's choices of log entries 26, 27, 34, 117, 119.
-/
def Obligations.HartInstructionsWriteTheirDestination : Prop :=
  ∀ (s : State) (core : Fin 32) (hart : Fin 4) (waits : BitVec 4) (p c len : Nat) (i : Rv) (m0 : Module), s.m.Inv →
    let hk := hartKey core.val hart.val
    let h := s.m.hart hk
    let x := rvGet h
    let ends (pc : W64) (y : Hart) : Hart := stepped { y with pc := pc, lastProgress := s.m.clk.elapsed }
    let next := h.pc + BitVec.ofNat 64 len
    let halts (a : W64) : Hart := { h with
      on := false, faulted := true, faultedAt := instant s.m, fault := a, wait := none, bpStep := false, bpSkip := false }
    let fetched := fetchInstr core.val p h.pc (noteExit hk p c (issued core.val hart.val s.m))
    let sameData (m : Module) : Prop := ∀ j, (m.core j).data = (s.m.core j).data
    issues s.m core.val hart.val waits = some (p, c) → bpMeets s.m hk = false →
    (fetched = (.op i len, m0) → Completes (.hartInstruction core hart waits) s fun m =>
      (∀ rd v, i = .lui rd v → m.hart hk = ends next (rvSet rd v h))
      ∧ (∀ rd v, i = .auipc rd v → m.hart hk = ends next (rvSet rd (h.pc + v) h))
      ∧ (∀ rd v, i = .jal rd v → m.hart hk = ends (h.pc + v) (rvSet rd next h))
      ∧ (∀ rd r v, i = .jalr rd r v → m.hart hk = ends ((x r + v) &&& ~~~1) (rvSet rd next h))
      ∧ (∀ f3 r1 r2 v, i = .branch f3 r1 r2 v → m.hart hk = ends (if taken f3 (x r1) (x r2) then h.pc + v else next) h)
      ∧ (∀ w op rd r v, i = .aluImm w op rd r v → m.hart hk = ends next (rvSet rd (rvAlu w op (x r) v) h))
      ∧ (∀ w op rd r1 r2, i = .alu w op rd r1 r2 → m.hart hk = ends next (rvSet rd (rvAlu w op (x r1) (x r2)) h))
      ∧ (i = .fence → m.hart hk = ends next h)
      ∧ (∀ f3 rd r v, i = .load f3 rd r v → let a := x r + v
          (a.toNat % accSize f3 = 0 → inScratch a (accSize f3) = true → m.hart hk = ends next
            (rvSet rd (loadExt f3 (leNat ((List.range (accSize f3)).map fun j => nget 0 (s.m.core core.val).data (a.toNat + j)))) h))
          ∧ (a.toNat % accSize f3 ≠ 0 → m.hart hk = halts a ∧ sameData m))
      ∧ (∀ f3 r1 r2 v, i = .store f3 r1 r2 v → let a := x r1 + v
          (a.toNat % accSize f3 = 0 → inScratch a (accSize f3) = true → m.hart hk = ends next h ∧ m.mem = m0.mem
            ∧ (m.core core.val).data = scratchPut a.toNat (natLe (accSize f3) (x r2).toNat) (s.m.core core.val).data
            ∧ ∀ j, j ≠ core.val → (m.core j).data = (s.m.core j).data)
          ∧ (a.toNat % accSize f3 ≠ 0 → m.hart hk = halts a ∧ sameData m))
      ∧ (∀ rd r1 r2, i = .amo 2 true rd r1 r2 → (x r1).toNat % 8 = 0 → inScratch (x r1) 8 = true →
          (m.hart hk).resv = some ((x r1).toNat, 8) ∧ sameData m)
      ∧ (∀ rd r1 r2, i = .amo 3 true rd r1 r2 → (x r1).toNat % 8 = 0 → inScratch (x r1) 8 = true →
          (h.resv = some ((x r1).toNat, 8) → m.hart hk = ends (h.pc + 4) (rvSet rd 0 { h with resv := none })
            ∧ (m.core core.val).data = scratchPut (x r1).toNat (natLe 8 (x r2).toNat) (s.m.core core.val).data)
          ∧ (h.resv ≠ some ((x r1).toNat, 8) → m.hart hk = ends (h.pc + 4) (rvSet rd 1 { h with resv := none })
            ∧ sameData m)))
    ∧ (fetched = (.illegal, m0) → Completes (.hartInstruction core hart waits) s fun m =>
        m.hart hk = halts h.pc ∧ sameData m ∧ m.queues = s.m.queues)
    ∧ x 0 = 0 ∧ ∀ v, rvSet 0 v h = h

/-- Breakpoints on a hart (R731 to R735): an armed comparator halts the hart before the instruction at its address, which then has no
effect; RESUME and STEP let it go on, past the comparator it stopped at; DRAINED is recorded once with the whole beats since the hit. -/
def Obligations.BreakpointsHaltAndResumeHarts : Prop :=
  ∀ (s : State) (core : Fin 32) (hart : Fin 4), s.m.Inv →
    let hk := hartKey core.val hart.val
    let h := s.m.hart hk
    (∀ (waits : BitVec 4) p c, issues s.m core.val hart.val waits = some (p, c) → s.m.sec.locked = false → bit (nget 0 s.m.dbg.bp hk) 63 = true → h.bpSkip = false →
      h.pc.toNat = fld (nget 0 s.m.dbg.bp hk) 2 38 * 4 → Completes (.hartInstruction core hart waits) s fun m =>
        m.hart hk = { h with bpHalt := true, bpStep := false, bpSkip := false }
        ∧ m.dbg.hitAt = nset 0 s.m.dbg.hitAt p (s.m.clk.elapsed + 1)
        ∧ SameBut [.harts, .cores, .vst, .hlt, .pci, .tray, .dbg, .out] s.m m)
    ∧ (h.bpHalt = true → Completes (.resume core hart) s fun m =>
        m.hart hk = { h with bpHalt := false, bpStep := false, bpSkip := true, lastProgress := s.m.clk.elapsed }
        ∧ (∀ j, j ≠ hk → m.hart j = s.m.hart j) ∧ SameBut [.harts, .wdg] s.m m)
    ∧ (h.bpHalt = true → Completes (.bpStep core hart) s fun m =>
        m.hart hk = { h with bpHalt := false, bpStep := true, bpSkip := true, lastProgress := s.m.clk.elapsed }
        ∧ (∀ j, j ≠ hk → m.hart j = s.m.hart j) ∧ SameBut [.harts, .wdg] s.m m)
    ∧ (∀ p : Fin 16, let t := nget 0 s.m.dbg.hitAt p.val
        t ≠ 0 → bpCtxs s.m p ≠ [] → (∀ c ∈ bpCtxs s.m p, nget 0 s.m.outstanding (8 * p.val + c) = 0) → Does (.drained p) s
          (ev 0x1D 4 0xFFFF 1 p 0 (BitVec.ofNat 64 ((s.m.clk.elapsed + 1 - t) / 1024))
            { s.m with dbg := { s.m.dbg with hitAt := nset 0 s.m.dbg.hitAt p 0 } }))

/-! ### Galleries (chapter 5) -/

/-- A MATMUL at the head of its Gallery's queues that R207 does not refuse starts when its turn comes (R193, R199, R201): it leaves its
queue, joins the Gallery's descriptors in order, and touches no accumulator row but its own. With no stall and no group to wait for, L being 32 + c × M,
the next descriptor may start after KT × L cycles, and it completes as R201's table says. ACC_LOAD and ACC_READ (R208): each leaves its
queue and joins the Gallery's descriptors; ACC_LOAD sets columns N to 1,023 of its rows to zero and touches no other row; ACC_READ
leaves the store unchanged. Where the rules are silent or can be read in two ways, it rests on the model's choices of log entries 47,
48. -/
def Obligations.GalleryStartsMatmulAndMovesRows : Prop :=
  (
  ∀ (s : State) (g : Fin 64) (stalls : List Nat) (ecc balEcc : List EccHit) (errs : List MemErr) (k : QKey) (d : Desc) (kd c : Nat)
    (int : Bool), let m1 := dequeue k (settleBal g s.m)
    galHead (settleBal g s.m) g 0x10 = some (k, d) → matmulRefusal m1 g d = none → pairInfo (d.b 74) (d.b 75) = some (kd, c, int) →
    (galTurn g m1).isSome = true → s.m.Inv → Completes (.matmul g stalls ecc balEcc errs) s fun m =>
      queue m k = (queue s.m k).tail
      ∧ ((∀ h ∈ ecc, h.unc = true → h.store = 0 → mmRow0 d ≤ h.row % 256 ∧ h.row % 256 < mmRow0 d + mmM d) →
          ∀ r j, j < 1024 → (r < mmRow0 d ∨ mmRow0 d + mmM d ≤ r) →
          nget 0 (m.gal' g).acc (accKey r j) = nget 0 (s.m.gal' g).acc (accKey r j))
      ∧ ∃ o : GalOp, (m.gal' g).ops = (s.m.gal' g).ops ++ [o] ∧ o.desc = d ∧ o.readout = d.fl 1 ∧ o.read = false
          ∧ o.startC = m.clk.cycle ∧ m.clk = (passToCycle (s.m.gal' g).busyTo s.m).clk
          ∧ (stalls = [] → (s.m.gal' g).grpFree = [] → (s.m.gal' g).rdFree ≤ o.startC →
              let l := 32 + c * mmM d
              o.nextC = o.startC + mmKt d * l ∧ o.lastC = o.startC + mmKt d * l + 39
              ∧ (o.readout = false → o.doneC = o.startC + mmKt d * l + 40)
              ∧ (o.readout = true → let n := (groupsOf (mmRow0 d) (mmM d)).length
                  o.rdStart = o.startC + mmKt d * l + 40 ∧ o.rdEnd = o.startC + mmKt d * l + 39 + 32 * n
                  ∧ o.doneC = o.startC + mmKt d * l + 40 + 32 * n)))
  ∧ (
  ∀ (s : State) (g : Fin 64) (errs : List MemErr) (k : QKey) (d : Desc), s.m.Inv →
    let m1 := dequeue k (settleBal g s.m)
    accRefusal m1 g d = none → (galTurn g m1).isSome = true →
    (galHead (settleBal g s.m) g 0x11 = some (k, d) → Completes (.accLoad g errs) s fun m =>
      queue m k = (queue s.m k).tail
      ∧ (∃ o : GalOp, (m.gal' g).ops = (s.m.gal' g).ops ++ [o] ∧ o.desc = d ∧ o.preload = true ∧ o.readout = false
          ∧ o.startC = m.clk.cycle ∧ o.nextC = o.startC + 1)
      ∧ (∀ i j, i < accM d → accN d ≤ j → j < 1024 → nget 0 (m.gal' g).acc (accKey (accRow0 d + i) j) = 0)
      ∧ (∀ r j, j < 1024 → (r < accRow0 d ∨ accRow0 d + accM d ≤ r) →
          nget 0 (m.gal' g).acc (accKey r j) = nget 0 (s.m.gal' g).acc (accKey r j)))
    ∧ (galHead (settleBal g s.m) g 0x12 = some (k, d) → Completes (.accRead g) s fun m =>
      queue m k = (queue s.m k).tail ∧ (m.gal' g).acc = (s.m.gal' g).acc
      ∧ ∃ o : GalOp, (m.gal' g).ops = (s.m.gal' g).ops ++ [o] ∧ o.desc = d ∧ o.preload = false ∧ o.readout = true
          ∧ o.outAddr = d.a 16 ∧ o.startC = m.clk.cycle ∧ o.nextC = o.startC + 1))

/-- A descriptor that a Gallery refuses (R207) does no part of its work: the accumulator store and the descriptors in progress stay, the
refusal is counted in GAL_REFUSED, and the descriptor completes at once. A CONVERT, TRANSFORM or RUN that fails a check at the head of
its queue does no work: no memory changes, nothing executes, the refusal is counted, and it completes (R279, R295, R320). Where the
rules are silent or can be read in two ways, it rests on the model's choice of log entry 55. -/
def Obligations.RefusedDescriptorsDoNoWork : Prop :=
  (
  ∀ (s : State) (g : Fin 64) (stalls : List Nat) (ecc balEcc : List EccHit) (errs : List MemErr) (k : QKey) (d : Desc) (code : Nat), s.m.Inv →
    let m1 := dequeue k (settleBal g s.m)
    let refused (m : Module) : Prop :=
      queue m k = (queue s.m k).tail ∧ m.gal' g = { s.m.gal' g with refused := (s.m.gal' g).refused + 1 }
      ∧ count m d.part d.ctx 0 g = count s.m d.part d.ctx 0 g + 1 ∧ m.clk = s.m.clk
      ∧ ∃ m2, m.out = (complete 0 g d true (ev 5 code g 2 d.part d.ctx d.seq m2)).out
    (galHead (settleBal g s.m) g 0x10 = some (k, d) → matmulRefusal m1 g d = some code →
        Completes (.matmul g stalls ecc balEcc errs) s refused)
    ∧ (accRefusal m1 g d = some code →
        (galHead (settleBal g s.m) g 0x11 = some (k, d) → Completes (.accLoad g errs) s refused)
        ∧ (galHead (settleBal g s.m) g 0x12 = some (k, d) → Completes (.accRead g) s refused)))
  ∧ (
  ∀ (s : State) (h n c : Nat) (ecc seedEcc : List EccHit) (errs : List MemErr) (k : QKey) (d : Desc), s.m.Inv →
    let ends (cls idx : Nat) (m : Module) : Prop :=
      queue m k = (queue s.m k).tail ∧ m.mem = s.m.mem ∧ m.clk = s.m.clk
      ∧ count m d.part d.ctx cls idx = count s.m d.part d.ctx cls idx + 1
    (∀ r : Fin 8, (s.m.ris' r).op = none → canStart s.m 3 r = true → headOwned s.m 3 r = some (k, d) →
      convertRefusal (dequeue k s.m) r d = some c → Completes (.convert r h n seedEcc errs) s fun m =>
        ends 3 r m ∧ m.ris' r = { s.m.ris' r with refused := (s.m.ris' r).refused + 1 })
    ∧ (∀ w : Fin 4, (s.m.win' w).op = none → canStart s.m 4 w = true → headOwned s.m 4 w = some (k, d) →
      winRefusal (dequeue k s.m) d = some c → Completes (.transform w h n ecc seedEcc errs) s fun m =>
        ends 4 w m ∧ m.win' w = { s.m.win' w with refused := (s.m.win' w).refused + 1 })
    ∧ (∀ l : Fin 16, (s.m.lnd' l).op = none → canStart s.m 2 l = true → headOwned s.m 2 l = some (k, d) →
      runRefusal (dequeue k s.m) l d = some c → Completes (.run l h n ecc seedEcc errs) s fun m =>
        ends 2 l m ∧ m.lnd' l = { s.m.lnd' l with refused := (s.m.lnd' l).refused + 1 }))

/-- A read-out never clears the store (R197); the descriptor that started first completes first and raises its context's count (R199);
GAL_CNT_CLR sets the counters from 0x018 to 0x048 to zero (R226); of a descriptor in progress, what has not come to pass is still to
come. Where the rules are silent or can be read in two ways, it rests on the
model's choices of log entries 50, 51. -/
def Obligations.GalleryDescriptorsReadOutAndComplete : Prop :=
  ∀ (s : State) (g : Fin 64), s.m.Inv → let x := s.m.gal' g
    (∀ (faults : List CellFault) (diff : Bool) (ecc : List EccHit) (o : GalOp), x.ops.find? (fun o => o.readout && !o.read) = some o →
      Completes (.galReadout g faults diff ecc) s fun m =>
        (m.gal' g).ops = x.ops.map (fun q => if q = o then { q with read := true } else q)
        ∧ (faults = [] → (m.gal' g).acc = x.acc) ∧ m.clk = (passToCycle o.rdEnd (passToCycle o.rdStart s.m)).clk)
    ∧ (∀ o r, x.ops = o :: r → (o.readout = true → o.read = true) → Completes (.galComplete g) s fun m =>
        m.gal' g = { x with ops := r, lastProgress := m.clk.elapsed } ∧ m.clk = (passToCycle o.doneC s.m).clk
        ∧ count m o.desc.part o.desc.ctx 0 g = count s.m o.desc.part o.desc.ctx 0 g + 1)
    ∧ Completes (.galCntClr g) s (fun m =>
        (m.gal' g).refused = 0 ∧ (m.gal' g).clip = 0 ∧ (m.gal' g).nanrep = 0 ∧ (m.gal' g).acc = x.acc ∧ (m.gal' g).ops = x.ops
        ∧ SameBut [.gal] s.m m)
    ∧ (let e := pairLead s.m g
       (s.m.gal' e).ops = [] → (s.m.bal' e).ups = [] → Does (.galCntClr g) s (s.m.setGal g { x with
        busy := 0, vec := 0, stallLoad := 0, stallHall := 0, stallIlk := 0, refused := 0, clip := 0, nanrep := 0 }))

/-- SLOTS replaces the whole slot table, and an entry whose VALID bit is 0 is invalid (R235, R237); DOWN is held until a MATMUL of its
context starts (R234, R238, R239); SCR_READ leaves the scratch as it is (R252). Each leaves its queue; SLOTS and SCR_READ complete. UP
(R247, R249): it leaves its queue and runs on the Gallery's array; with no row selected it loads nothing, and otherwise, L being 32 + c
× Ms and no stall and no group to wait for, it completes KT_up × L + 40 cycles after its start. UP_COMPLETE lets it complete, and ADP_CNT_CLR sets
the counters from 0x018 to 0x048 to zero (R261). Where the rules are silent or can be read in two ways, it rests on the model's choices
of log entries 49, 52, 53. -/
def Obligations.BalconyDescriptorsRunAndComplete : Prop :=
  (
  ∀ (s : State) (b : Fin 64) (k : QKey) (d : Desc), s.m.Inv →
    let m1 := balTurn b (settleBal b s.m)
    let counted (m : Module) : Prop :=
      (s.m.bal' b).ups = [] → (s.m.bal' b).held = none → count m d.part d.ctx 1 b = count s.m d.part d.ctx 1 b + 1
    (balHead m1 b 0x20 = some (k, d) → slotsRefusal (dequeue k m1) b d = none → Completes (.slots b) s fun m =>
      queue m k = (queue s.m k).tail ∧ counted m
      ∧ (∀ i, i < 8 → nget Slot.init (m.bal' b).slots i = slotEntry d i)
      ∧ (∀ i, i < 8 → (d.b (16 + 32 * i + 22)).getLsbD 7 = false → (nget Slot.init (m.bal' b).slots i).valid = false))
    ∧ (balHead m1 b 0x21 = some (k, d) → downRefusal (dequeue k m1) b d = none → Completes (.down b) s fun m =>
      queue m k = (queue s.m k).tail ∧ m.clk = m1.clk
      ∧ (m.bal' b).held = some { desc := d, phase := 1, startC := m.clk.cycle, endC := 0, segs := [], doneC := 0, failed := false }
      ∧ (m.bal' b).slots = (s.m.bal' b).slots ∧ (m.bal' b).scratch = (s.m.bal' b).scratch ∧ m.gal = s.m.gal)
    ∧ (∀ diff ecc, balHead m1 b 0x23 = some (k, d) → scrRefusal (dequeue k m1) b d = none → Completes (.scrRead b diff ecc) s fun m =>
      queue m k = (queue s.m k).tail ∧ counted m ∧ (m.bal' b).scratch = (s.m.bal' b).scratch ∧ m.gal' b = s.m.gal' b))
  ∧ (
  ∀ (s : State) (b : Fin 64) (stalls : List Nat) (diff : Bool) (ecc : List EccHit) (errs : List MemErr) (k : QKey) (d : Desc)
    (kd c : Nat) (int : Bool), s.m.Inv →
    let m1 := balTurn b (settleBal b s.m)
    let m2 := settleBal b (passToCycle (s.m.gal' b).busyTo (dequeue k m1))
    let x := s.m.bal' b
    let rows := upSelected (balRead ecc x) d
    (balHead m1 b 0x22 = some (k, d) → upRefusal (dequeue k m1) b d = none → pairInfo (d.b 46) (d.b 47) = some (kd, c, int) →
      Completes (.up b stalls diff ecc errs) s fun m =>
        queue m k = (queue s.m k).tail ∧ m.clk = m2.clk
        ∧ (rows = [] → m.gal = s.m.gal
          ∧ ((m2.bal' b).ups = [] → (m.bal' b).ups = [] ∧ count m d.part d.ctx 1 b = count m2 d.part d.ctx 1 b + 1)
          ∧ ((m2.bal' b).ups ≠ [] → ∃ o, (m.bal' b).ups = (m2.bal' b).ups ++ [o] ∧ o.desc = d ∧ o.doneC = lastUpC (m2.bal' b)))
        ∧ (rows ≠ [] → ∃ o, (m.bal' b).ups = (m2.bal' b).ups ++ [o] ∧ o.desc = d ∧ o.phase = 4 ∧ o.startC = m.clk.cycle
          ∧ (stalls = [] → (s.m.gal' b).grpFree = [] → o.doneC = m.clk.cycle + upTiles d * (32 + c * rows.length) + 40)))
    ∧ (∀ o r, x.ups = o :: r → x.held = none → Completes (.upComplete b) s fun m =>
        m.clk = (passToCycle o.doneC s.m).clk ∧ (m.bal' b).ups = x.ups.filter (fun q => m.clk.cycle < q.doneC)
        ∧ (r = [] → o.doneC ≤ m.clk.cycle → count m o.desc.part o.desc.ctx 1 b = count s.m o.desc.part o.desc.ctx 1 b + 1))
    ∧ Does (.adpCntClr b) s (s.m.setBal b { x with
        taps := 0, upVec := 0, stallHall := 0, refused := 0, tapMiss := 0, clip := 0, nanrep := 0, tagBad := 0 }))

/-! ### Risers and Winders (chapter 7) -/

/-- CONVERT (R268, R274, R283): an accepted one leaves its queue and occupies its Riser until 8 + ROWS × ⌈ROW_LEN / rate⌉ + 24 cycles
and its stalls have passed, each stall counted; one that draws beside requesters before it in the grant order (R325) may take longer. Its completion adds its counts to its stream's set in one step (R272, R273). The clears
are those of R274 and R299: THRESH stays, and a completion of the same cycle counts after the clear. Where the rules are silent or can be read in two ways, it rests on the model's choices of log
entries 54, 55, 57. -/
def Obligations.RisersConvertAndCount : Prop :=
  ∀ (s : State) (r : Fin 8), s.m.Inv → let x := s.m.ris' r
    (∀ (h n : Nat) (seedEcc : List EccHit) (errs : List MemErr) (k : QKey) (d : Desc), x.op = none → canStart s.m 3 r = true →
      headOwned s.m 3 r = some (k, d) → convertRefusal (dequeue k s.m) r d = none →
      (cvRnd d = 1 → drawsRefused (nwlEcc (r.val / 4) d seedEcc (dequeue k s.m)) (r.val / 4) d.part = false) →
      let rate := if cvRnd d = 1 then 64 else if spCode (cvSrc d) = 0 ∨ spCode (cvSrc d) = 0x24 ∨ spCode (cvSrc d) = 0x30 then 128 else 256
      let ns := if cvRnd d = 1 then n else 0
      Completes (.convert r h n seedEcc errs) s fun m =>
        queue m k = (queue s.m k).tail ∧ m.clk = s.m.clk ∧ (m.ris' r).refused = x.refused
        ∧ (m.ris' r).stallHall = x.stallHall + BitVec.ofNat 64 h
        ∧ (m.ris' r).sets = (if d.fl 6 then startClear (cvStream d) x else x).sets
        ∧ ∃ o, (m.ris' r).op = some o ∧ o.desc = d ∧ o.startC = s.m.clk.cycle
            ∧ (m.ris' r).busy = x.busy + BitVec.ofNat 64 (o.doneC - o.startC)
            ∧ ((cvRnd d = 1 → ∀ l ∈ requesters s.m (r.val / 4) (r.val % 4), l = []) →
                (m.ris' r).stallNwl = x.stallNwl + BitVec.ofNat 64 ns
                ∧ o.doneC = o.startC + 8 + cvRows d * ceilDiv (cvRowLen d) rate + 24 + (h + ns)))
    ∧ (∀ (diff : Bool) (o : EngOp), x.op = some o → let t := nget StreamSet.init x.sets (cvStream o.desc)
        Completes (.risComplete r diff) s fun m =>
          (m.ris' r).op = none ∧ m.clk = (passToCycle o.doneC s.m).clk
          ∧ (m.ris' r).elems = x.elems + BitVec.ofNat 64 o.elems
          ∧ count m o.desc.part o.desc.ctx 3 r = count s.m o.desc.part o.desc.ctx 3 r + 1
          ∧ ∃ high, (m.ris' r).sets = nset StreamSet.init x.sets (cvStream o.desc) { t with
              elems := t.elems + BitVec.ofNat 64 o.elems, clip := t.clip + BitVec.ofNat 64 o.clip,
              nanrep := t.nanrep + BitVec.ofNat 64 o.nanrep, under := t.under + BitVec.ofNat 64 o.under,
              amax := if t.amax.toNat < o.amax.toNat then o.amax else t.amax, high := high })
    ∧ (∀ set : Fin 16, let t : StreamSet := { StreamSet.init with thresh := (nget StreamSet.init x.sets set).thresh }
        (sameCycle s.m x.lastAt = false → Does (.streamClear r set) s (s.m.setRis r { x with sets := nset StreamSet.init x.sets set t }))
        ∧ (∀ o, x.last = some o → cvStream o.desc = set → sameCycle s.m x.lastAt = true →
            Does (.streamClear r set) s (s.m.setRis r { x with sets := nset StreamSet.init x.sets set (setAdd o t) })))
    ∧ Completes (.risCntClr r) s (fun m => (m.ris' r).elems = 0 ∧ (m.ris' r).refused = 0 ∧ (m.ris' r).sets = x.sets
        ∧ (m.ris' r).op = x.op ∧ SameBut [.ris] s.m m)
    ∧ ((s.m.ris' (risLead s.m r)).op = none →
        Does (.risCntClr r) s (s.m.setRis r { x with busy := 0, elems := 0, stallHall := 0, stallNwl := 0, refused := 0 }))
    ∧ (sameCycle s.m x.lastAt = false → Does (.risClearStreamSets r) s (s.m.setRis r { x with sets := (List.range 16).foldl (fun l i =>
        nset StreamSet.init l i { StreamSet.init with thresh := (nget StreamSet.init l i).thresh }) x.sets }))

/-- TRANSFORM (R293): it leaves its queue and occupies its Winder until 8 + ROWS × ⌈ROW_LEN / 128⌉ + 47 + ⌈n / 128⌉ + 1 cycles and its
stalls have passed, longer where it draws beside requesters before it (R325). Its completion adds its counts; WIN_CNT_CLR zeroes 0x018 to 0x048 (R302). Where the rules are silent or can be read
in two ways, it rests on the model's choices of log entries 55, 57. -/
def Obligations.WindersTransformAndCount : Prop :=
  ∀ (s : State) (w : Fin 4), s.m.Inv → let x := s.m.win' w
    (∀ (h n : Nat) (ecc seedEcc : List EccHit) (errs : List MemErr) (k : QKey) (d : Desc), x.op = none → canStart s.m 4 w = true →
      headOwned s.m 4 w = some (k, d) → winRefusal (dequeue k s.m) d = none →
      (wnSign d = true → drawsRefused (nwlEcc (w.val / 2) d seedEcc (dequeue k s.m)) (w.val / 2) d.part = false) →
      let ns := if wnSign d then n else 0
      Completes (.transform w h n ecc seedEcc errs) s fun m =>
        queue m k = (queue s.m k).tail ∧ m.clk = s.m.clk ∧ (m.win' w).refused = x.refused
        ∧ (m.win' w).stallHall = x.stallHall + BitVec.ofNat 64 h
        ∧ ∃ o, (m.win' w).op = some o ∧ o.desc = d ∧ o.startC = s.m.clk.cycle
            ∧ (m.win' w).busy = x.busy + BitVec.ofNat 64 (o.doneC - o.startC)
            ∧ ((wnSign d = true → ∀ l ∈ requesters s.m (w.val / 2) (4 + w.val % 2), l = []) →
                (m.win' w).stallNwl = x.stallNwl + BitVec.ofNat 64 ns
                ∧ o.doneC = o.startC + 8 + wnRows d * ceilDiv (wnRowLen d) 128 + 47 + ceilDiv (wnSeg d) 128 + 1 + h + ns))
    ∧ (∀ o, x.op = some o → Completes (.winComplete w) s fun m =>
        m.clk = (passToCycle o.doneC s.m).clk
        ∧ m.win' w = { x with
            op := none, elems := x.elems + BitVec.ofNat 64 o.elems,
            clip := satAdd x.clip o.clip, nanrep := satAdd x.nanrep o.nanrep, special := satAdd x.special o.under,
            lastProgress := m.clk.elapsed }
        ∧ count m o.desc.part o.desc.ctx 4 w = count s.m o.desc.part o.desc.ctx 4 w + 1)
    ∧ Completes (.winCntClr w) s (fun m => (m.win' w).elems = 0 ∧ (m.win' w).refused = 0 ∧ (m.win' w).clip = 0 ∧ (m.win' w).nanrep = 0
        ∧ (m.win' w).special = 0 ∧ (m.win' w).op = x.op ∧ SameBut [.win] s.m m)
    ∧ (x.op = none → Does (.winCntClr w) s (s.m.setWin w { x with
        busy := 0, elems := 0, stallHall := 0, stallNwl := 0, refused := 0, clip := 0, nanrep := 0, special := 0 }))

/-- RUN (R317, R319, R320, R338): once its program loads and passes its checks it leaves its queue and occupies its Landing, its
busy cycles counted; its completion adds its counts and raises its context's count. LND_CNT_CLR zeroes 0x018 to 0x048 (R340). Where the
rules are silent or can be read in two ways, it rests on the model's choices of log entries 55, 57, 59. -/
def Obligations.LandingsRunProgramsAndComplete : Prop :=
  ∀ (s : State) (l : Fin 16), s.m.Inv → let x := s.m.lnd' l
    (∀ (h n : Nat) (ecc seedEcc : List EccHit) (errs : List MemErr) (k : QKey) (d : Desc) (secs : List (List LOp)),
      let y := hallRead (l.val / 8) d.part (gaOff (d.a 16)) (8 * rnProg d) (memErrs d.part errs (descStart 2 l d (dequeue k s.m)))
      x.op = none → canStart s.m 2 l = true → headOwned s.m 2 l = some (k, d) → runRefusal (dequeue k s.m) l d = none →
      programOf d y.1 = some secs →
      (secs.any (fun sec => sec.any lopDraws) = true →
        drawsRefused (nwlEcc (l.val / 8) d seedEcc y.2) (l.val / 8) d.part = false) →
      Completes (.run l h n ecc seedEcc errs) s fun m =>
        queue m k = (queue s.m k).tail ∧ m.clk = s.m.clk ∧ (m.lnd' l).refused = x.refused
        ∧ (m.lnd' l).stallHall = x.stallHall + BitVec.ofNat 64 h
        ∧ ∃ o, (m.lnd' l).op = some o ∧ o.desc = d ∧ o.startC = s.m.clk.cycle ∧ o.failed = false
            ∧ (m.lnd' l).busy = x.busy + BitVec.ofNat 64 (o.doneC - o.startC)
            ∧ (m.lnd' l).ops = x.ops + BitVec.ofNat 64 o.under)
    ∧ (∀ (diff : Bool) (o : EngOp), x.op = some o → Completes (.lndComplete l diff) s fun m =>
        m.clk = (passToCycle o.doneC s.m).clk
        ∧ m.lnd' l = { x with
            op := none, clip := satAdd x.clip o.clip,
            nanrep := satAdd x.nanrep o.nanrep, lastProgress := m.clk.elapsed }
        ∧ count m o.desc.part o.desc.ctx 2 l = count s.m o.desc.part o.desc.ctx 2 l + 1)
    ∧ Completes (.lndCntClr l) s (fun m => (m.lnd' l).refused = 0 ∧ (m.lnd' l).clip = 0 ∧ (m.lnd' l).nanrep = 0 ∧ (m.lnd' l).op = x.op
        ∧ (m.lnd' l).vr = x.vr ∧ SameBut [.lnd] s.m m)
    ∧ ((s.m.lnd' (lndLead s.m l)).op = none → Does (.lndCntClr l) s (s.m.setLnd l { x with
        busy := 0, ops := 0, stallDep := 0, stallHall := 0, stallNwl := 0, refused := 0, clip := 0, nanrep := 0 }))

/-- GEN writes the draws of its partition's seed and step to the Hall and occupies its Newel for as long as the lanes left to it take (all 32 where no other engine draws; R325, R330,
R335, R336); GEN_COMPLETE completes it. SEED writes both copies and completes a cycle later (R326, R334). NWL_CNT_CLR zeroes 0x008 to
0x018 (R342). Where the rules are silent or can be read in two ways, it rests on the model's choices of log entries 55, 56, 57, 58. -/
def Obligations.NewelsGenerateAndSeed : Prop :=
  ∀ (s : State) (n : Fin 2) (k : QKey) (d : Desc), s.m.Inv → let x := s.m.nwl' n
    (∀ (misses : Nat) (ecc : List EccHit), nwlHead s.m n 0x50 = some (k, d) →
      genRefusal (nwlServe n d.part (nwlEcc n d ecc (dequeue k s.m))) n d = none →
      let per := if genForm d = 0 ∨ genForm d = 2 then 8 else 4
      let step := if d.fl 0 then 0 else nget 0 x.step d.part
      Completes (.gen n misses ecc) s fun m =>
        queue m k = (queue s.m k).tail ∧ m.clk = s.m.clk
        ∧ (∃ m2, m2.mem = s.m.mem ∧ m2.img = s.m.img ∧ m.mem = (hallWrite n d.part (gaOff (d.a 16))
            (genBytes (nget 0 x.seeds (8 * d.part + nfld (d.f 41 1) 0 3)) step d) m2).mem)
        ∧ ∃ o, (m.nwl' n).op = some o ∧ o.desc = d ∧ o.startC = s.m.clk.cycle
            ∧ ((∀ l ∈ requesters s.m n 14, l = []) → o.doneC = o.startC + misses + ceilDiv (genCount d) (per * 32) + 1))
    ∧ (∀ o, x.op = some o → Completes (.genComplete n) s fun m =>
        m.nwl' n = { x with op := none, lastProgress := m.clk.elapsed } ∧ m.clk = (passToCycle o.doneC s.m).clk
        ∧ count m o.desc.part o.desc.ctx 5 n = count s.m o.desc.part o.desc.ctx 5 n + 1)
    ∧ (nwlHead s.m n 0x51 = some (k, d) → Completes (.seed n) s fun m =>
        queue m k = (queue s.m k).tail ∧ m.clk = (passToCycle (s.m.clk.cycle + 1) s.m).clk
        ∧ (∀ w, w < 2 → (m.nwl' w).seeds = nset 0 (s.m.nwl' w).seeds (8 * d.part + nfld (d.f 24 1) 0 3) (d.a 16)
            ∧ (m.nwl' w).step = (s.m.nwl' w).step)
        ∧ count m d.part d.ctx 5 n = count s.m d.part d.ctx 5 n + 1)
    ∧ Completes (.nwlCntClr n) s (fun m => (m.nwl' n).refused = 0 ∧ (m.nwl' n).seeds = x.seeds ∧ (m.nwl' n).op = x.op
        ∧ SameBut [.nwl] s.m m)
    ∧ ((∀ i, (s.m.ris' i).op = none) → (∀ i, (s.m.win' i).op = none) → (∀ i, (s.m.lnd' i).op = none) → x.op = none →
        Does (.nwlCntClr n) s (s.m.setNwl n { x with calls := 0, grantMiss := 0, refused := 0 }))

/-! ### Memory tiers (chapter 9) -/

/-- FLUSH and INVALIDATE (R364): while none runs, either writes back every dirty sector (where no two lines hold the same sector) and
leaves its line clean, and an INVALIDATE
leaves no line once it completes; a second command while BUSY is set is ignored and counted; a partition without a cache has none to
flush. Where the rules are silent or can be read in two ways, it rests on the model's choice of log entry 64. -/
def Obligations.CacheCommandsCleanAndInvalidate : Prop :=
  (
  ∀ (s : State) (p : Fin 16) (errs : List MemErr), s.m.Inv → let m1 := memErrs p.val errs s.m; let c := m1.cache p
    let cleaned := c.lines.foldl (fun l x => if x.2.dirty ≠ 0 then nput l x.1 { x.2 with dirty := 0 } else l) c.lines
    let spot (l : CacheLine) (i : Nat) : Nat × Nat := (l.tier, place m1 p l.tier (l.addr * 256 + i * 32) / 32)
    let apart : Prop := (∀ x ∈ c.lines, x.2.tier < 3 ∧ x.2.data.length = 256)
      ∧ ∀ x ∈ c.lines, ∀ y ∈ c.lines, ∀ i j, i < 8 → j < 8 → spot x.2 i = spot y.2 j → x = y ∧ i = j
    let written (m : Module) : Prop := apart → ∀ x ∈ c.lines, ∀ i, i < 8 → bit x.2.dirty i = true →
      (tierMem m.mem x.2.tier).getN (slotSize x.2.tier) x.2.tier ((spot x.2 i).2 * 32) 32 = slice x.2.data (i * 32) 32
    (c.busy = none → cacheSets m1 p ≠ 0 →
      Completes (.flush p errs) s (fun m => (m.cache p).lines = cleaned ∧ (m.cache p).busy = some false ∧ (m.cache p).ign = c.ign
        ∧ written m ∧ SameBut [.mem, .cor] m1 m)
      ∧ Completes (.invalidate p errs) s (fun m => (m.cache p).lines = cleaned ∧ (m.cache p).busy = some true ∧ (m.cache p).ign = c.ign
        ∧ written m ∧ SameBut [.mem, .cor] m1 m))
    ∧ (c.busy = none → cacheSets m1 p = 0 → Does (.flush p errs) s m1 ∧ Does (.invalidate p errs) s m1)
    ∧ (c.busy ≠ none → Does (.flush p errs) s (m1.setCache p { c with ign := c.ign + 1 })
        ∧ Does (.invalidate p errs) s (m1.setCache p { c with ign := c.ign + 1 })))
  ∧ (
  ∀ (s : State) (p : Fin 16), s.m.Inv → let c := s.m.cache p
    (c.busy = some false → Does (.cacheCommandDone p) s (s.m.setCache p { c with busy := none }))
    ∧ (c.busy = some true → Completes (.cacheCommandDone p) s fun m =>
        (m.cache p).lines = [] ∧ (m.cache p).busy = none ∧ SameBut [.mem, .flt, .cor] s.m m))

/-- R375: a test starts only on a channel whose unit is out of service under the applied image; a START on any other channel is ignored
and sets REFUSED. A running test, or on a unit out of service a reserved pattern, mode or order, leaves a START ignored. -/
def Obligations.ChannelTestsStartOutOfService : Prop :=
  ∀ (s : State) (ch : MemCh) (fails : List TestFail), s.m.Inv → let k := chKey ch; let t := tgGet s.m k
    let oos := unitOos s.m (chUnit k).1 (chUnit k).2
    let reserved := t.pattern = 7 ∨ t.mode = 3 ∨ t.order = 3
    (t.running = true → Does (.testStart ch fails) s s.m)
    ∧ (t.running = false → oos = true → reserved → Does (.testStart ch fails) s s.m)
    ∧ (t.running = false → oos = true → ¬ reserved → Completes (.testStart ch fails) s fun m =>
        tgGet m k = { t with running := true, startAt := s.m.clk.elapsed, faults := fails, freeAt := s.m.mem.freeCount, passesDone := 0,
                             errs := 0, first := 0, bits := 0 }
        ∧ (∀ j, j ≠ k → tgGet m j = tgGet s.m j) ∧ SameBut [.mem] s.m m)
    ∧ (t.running = false → oos = false → Does (.testStart ch fails) s
        (tgSet k { t with refused := true, refusedAt := instant s.m } s.m))

/-- A test ends by its last pass or by STOP (R376 to R379, R390): every sector that failed so far is counted, the first sets TG_FIRST, its
lanes are ORed into TG_BITS, PASSES_DONE says how many passes are whole, and TEST_DONE or TEST_FAIL is recorded; MODE 1 finds nothing and
MODE 2 writes nothing. A STOP with no test running does nothing. The memory's counters: a request that ages has lost at least 64 cycles
and is granted (R353), and the clears of R384 and R387 zero the counters they name and no other. What an aged request counts is DEDUCED
(log entries 62, 164). Where the rules are silent or can be read in two ways, it rests on the model's choices of log entries 15, 62, 63,
164. -/
def Obligations.ChannelTestsAndMemoryCounters : Prop :=
  (
  ∀ (s : State) (ch : MemCh), s.m.Inv → let k := chKey ch; let t := tgGet s.m k
    let ended (m1 : Module) (steps : Nat) (m : Module) : Prop :=
      let fs := testFails k t steps m1
      let errs : W64 := BitVec.ofNat 64 fs.length
      let cls := if k < 256 then 0x0C else 0x0D
      let unit := if k < 256 then k else (k - 256) / 4
      m.clk = m1.clk ∧ (t.mode = 1 → fs = [])
      ∧ ∃ m2, SameBut [.mem] m1 m2
        ∧ tgGet m2 k = { t with
            running := false, isDone := true, isDoneAt := instant m1, errs := errs,
            first := (if h : 0 < fs.length then BitVec.ofNat 35 fs[0].1 else 0), bits := fs.foldl (fun b f => b ||| f.2) 0,
            passesDone := BitVec.ofNat 16 (if passSteps k t = 0 then testPasses t else steps / passSteps k t) }
        ∧ (t.mode = 2 → m2.mem.hall = m1.mem.hall ∧ m2.mem.fast = m1.mem.fast ∧ m2.mem.slow = m1.mem.slow)
        ∧ m = (if errs = 0 then ev cls 4 unit 0 31 0 (BitVec.ofNat 64 (if k < 256 then k % 32 else (k - 256) % 4)) m2
            else ev cls 5 unit 2 31 0 errs m2)
    (t.running = true →
      Completes (.channelTestEnd ch) s (ended (passTo (testDue k t) s.m) (testSteps k t))
      ∧ Completes (.testStop ch) s (ended s.m (min (testSteps k t) (testProgress k t s.m + 1))))
    ∧ (t.running = false → Does (.testStop ch) s s.m))
  ∧ (
  ∀ s : State,
    (∀ (bank : Fin 512) (req : HallReq) (i waited : Nat), s.m.Inv → let h := s.m.hallW' (bank.val / 256)
      Completes (.hallRequestAged bank req i waited) s fun m =>
        m.hallW' (bank.val / 256) = { h with
          conflict := if hallStalled req then h.conflict else h.conflict + BitVec.ofNat 64 (max 64 waited), aged := h.aged + 1 }
        ∧ SameBut [.mem] s.m m)
    ∧ (∀ w : Fin 2, Does (.hallCntClr w) s (s.m.setHallW w { s.m.hallW' w with conflict := 0, aged := 0, remote := 0 }))
    ∧ (∀ k : Fin 8, Does (.hbmCntClr k) s (let u := nget MemUnit.init s.m.mem.hbm k
        { s.m with mem := { s.m.mem with hbm := nset MemUnit.init s.m.mem.hbm k { u with rd := 0, wr := 0, rmw := 0, atom := 0 } } }))
    ∧ (∀ k : Fin 24, Does (.lpxCntClr k) s (let u := nget MemUnit.init s.m.mem.lpx k
        { s.m with mem := { s.m.mem with lpx := nset MemUnit.init s.m.mem.lpx k { u with rd := 0, wr := 0, rmw := 0, atom := 0 } } })))

/-- MOVE, GATHER, PREFETCH and PUT (R392, R395, R400, R403, R405, R410): an accepted descriptor leaves its queue and joins its engine's
descriptors with nothing issued; one refused at the head moves nothing, is counted and completes. A PUT of a partition in a SOLO replay
completes at once and sends nothing (R531). Where the rules are silent or can be read in two ways, it rests on the model's choice of log
entry 65. -/
def Obligations.FlightDescriptorsStartOrAreRefused : Prop :=
  ∀ (s : State) (f : Fin 32) (k : QKey) (d : Desc), s.m.Inv → let x := s.m.flt' f
    let starts (total notify : Nat) (m : Module) : Prop :=
      queue m k = (queue s.m k).tail ∧ m.clk = s.m.clk ∧ m.flt' f = { x with
        ops := x.ops ++ [{ desc := d, next := 0, total := total, entry := 0, run := none, inEntry := 0, linOff := 0, issuedAll := false,
                           notify := notify, err := 0, bursts := [], atoms := [] }], lastProgress := s.m.clk.elapsed }
    let refused (m : Module) : Prop :=
      queue m k = (queue s.m k).tail ∧ m.clk = s.m.clk ∧ m.mem = s.m.mem ∧ m.flt' f = { x with refused := x.refused + 1, errors := x.errors + 1 }
      ∧ count m d.part d.ctx 6 f = count s.m d.part d.ctx 6 f + 1
    (fltHead s.m f 0x60 = some (k, d) →
      (moveRefusal (dequeue k s.m) d = none → Completes (.move f) s (starts (walkTotal d) 0))
      ∧ (moveRefusal (dequeue k s.m) d ≠ none → Completes (.move f) s refused))
    ∧ (fltHead s.m f 0x61 = some (k, d) →
      (gatherRefusal (dequeue k s.m) d = none → Completes (.gather f) s (starts (gaEntries d) 0))
      ∧ (gatherRefusal (dequeue k s.m) d ≠ none → Completes (.gather f) s refused))
    ∧ (fltHead s.m f 0x62 = some (k, d) →
      (prefetchRefusal (dequeue k s.m) d = none → Completes (.prefetch f) s (starts (walkTotal d) 0))
      ∧ (prefetchRefusal (dequeue k s.m) d ≠ none → Completes (.prefetch f) s refused))
    ∧ (fltHead s.m f 0x63 = some (k, d) →
      (soloSlot s.m d.part = none → putRefusal (dequeue k s.m) d = none → Completes (.put f) s (starts (puLen d) (if d.fl 3 then 1 else 0)))
      ∧ (soloSlot s.m d.part ≠ none → putRefusal s.m d = none → Completes (.put f) s fun m =>
          queue m k = (queue s.m k).tail ∧ m.flt = s.m.flt ∧ m.port = s.m.port
          ∧ (m.vst' d.part).putsSupp = (s.m.vst' d.part).putsSupp + 1
          ∧ count m d.part d.ctx 6 f = count s.m d.part d.ctx 6 f + 1)
      ∧ (putRefusal s.m d ≠ none → Completes (.put f) s refused))

/-- A burst of a MOVE (R395, R396, R407, R408): with no tag to hold, the engine stalls and its cycles are counted from then on;
otherwise, here between tiers of this module, the walk goes on by the burst's length, and from another slot the burst holds its tag and
waits for its data. A response releases its burst's tag, and the descriptor completes with its last
(R410, R411); a burst with no response in TMO beats fails, the descriptor then issues nothing more and completes with the error when its
tags are released (R412); a response after that is discarded and counted (R413). -/
def Obligations.BurstsIssueAnswerOrTimeOut : Prop :=
  (
  ∀ (s : State) (f : Fin 32) (o : FltOp) (r : List FltOp), s.m.Inv → let x := s.m.flt' f; let d := o.desc
    let src := mvSrcAt d o.next; let dst := mvDstAt d o.next
    x.ops = o :: r → o.issuedAll = false → o.err = 0 → d.ty = 0x60 →
    (needsTag s.m d src dst = true → tagFor s.m f = none →
      (x.stallFrom = none →
        Does (.burstIssue f []) s (s.m.setFlt f { x with stallTag := x.stallTag + 1, stallFrom := some s.m.clk.cycle }))
      ∧ (x.stallFrom ≠ none → Does (.burstIssue f []) s s.m))
    ∧ ((needsTag s.m d src dst = false ∨ tagFor s.m f ≠ none) → srcSide s.m d src = .here → dstSide s.m d dst = .here →
        o.next + mvBurst d o.next < o.total → Completes (.burstIssue f []) s fun m =>
          m.clk = s.m.clk ∧ m.queues = s.m.queues
          ∧ ∃ o', (m.flt' f).ops.head? = some o' ∧ o'.desc = d ∧ o'.next = o.next + mvBurst d o.next ∧ o'.issuedAll = false)
    ∧ (tagFor s.m f ≠ none → ∀ n c, srcSide s.m d src = .slot n → slotChip s.m n = some c → Completes (.burstIssue f []) s fun m =>
        m.clk = s.m.clk ∧ m.queues = s.m.queues ∧ m.mem = s.m.mem
        ∧ ∃ o' b, (m.flt' f).ops.head? = some o' ∧ o'.desc = d ∧ o'.next = o.next + mvBurst d o.next ∧ b ∈ o'.bursts
          ∧ b.kind = .slotData ∧ b.src = src ∧ b.dst = dst ∧ b.len = mvBurst d o.next ∧ b.issued = s.m.clk.elapsed))
  ∧ (
  ∀ (s : State) (f : Fin 32) (o : FltOp) (b : BurstRec), s.m.Inv → let x := s.m.flt' f; let d := o.desc
    let rest := o.bursts.filter fun c => c.tag != b.tag
    let left := (o.bursts.filter fun c => c.kind != .held).filter fun c => c.tag != b.tag
    let counted (m : Module) : Prop := count m d.part d.ctx 6 f = count s.m d.part d.ctx 6 f + 1
    (x.ops = [o] → findBurst x b.tag = some (0, o, b) →
      ((b.kind = .localAck ∨ b.kind = .slotAck ∨ b.kind = .hostAck) → b.mate = none → (o.notify = 0 ∨ o.notify = 2) →
        s.m.clk.elapsed ≤ burstDue x b →
        ((rest ≠ [] ∨ (o.issuedAll = false ∧ o.err = 0)) → Completes (.burstResponse f b.tag .ack) s fun m =>
          (m.flt' f).ops = [{ o with bursts := rest }] ∧ m.counts = s.m.counts)
        ∧ (rest = [] → (o.issuedAll = true ∨ o.err ≠ 0) → Completes (.burstResponse f b.tag .ack) s fun m =>
          (m.flt' f).ops = [] ∧ counted m ∧ (m.flt' f).errors = (if o.err = 0 then x.errors else x.errors + 1)))
      ∧ (o.err = 0 → Completes (.burstTimeout f b.tag) s fun m =>
          m.clk = (passTo (burstDue x b) s.m).clk
          ∧ (m.flt' f).errLast = pack [(0x20, 32), (0, 0)] ∧ (m.flt' f).dead = (b.tag, d.part, d.ctx, d.seq) :: x.dead
          ∧ (left ≠ [] → (m.flt' f).ops = [{ o with err := 0x20, bursts := left, atoms := [] }])
          ∧ (left = [] → (m.flt' f).ops = [] ∧ (m.flt' f).errors = x.errors + 1 ∧ counted m)))
    ∧ (∀ tag e, findBurst x tag = none → orphanAt x tag = none → x.dead.find? (fun y => y.1 = tag) = some e → Does (.burstResponse f tag .ack) s
        (ev 0x0E 0x25 f 1 e.2.1 e.2.2.1 e.2.2.2 (s.m.setFlt f { x with late := satAdd x.late 1, dead := x.dead.erase e })))
    ∧ Does (.fltCntClr f) s (s.m.setFlt f { x with
        rd := 0, wr := 0, tagsMax := 0, stallTag := 0, stallFrom := x.stallFrom.map (fun _ => s.m.clk.cycle), refused := 0, errors := 0, late := 0, pfFilled := 0, pfUsed := 0, pfTimely := 0,
        pfWaste := 0 }))

/-! ### Fabric ports (chapter 11) -/

/-- The moves of R422 that software and the light make: ENABLE cleared turns the port off and discards the flits it holds, ENABLE set brings
a DISABLED port to DOWN, RELEASE ends a quarantine by the lanes that hold lock, lane lock on four lanes starts training, and bring-up that takes 10 ms falls back,
to be retried after 100 ms. A lane that loses lock is counted (R422, R426, R427): the free spare takes over the lane's share; with none
free the port narrows to its four lowest good lanes from version 2 on and else goes DOWN. Light lost on every lane, or 10 µs without a
flit, brings the port DOWN. A retraining that ends records its band (R430). Where the rules are silent or can be read in two ways, it
rests on the model's choice of log entry 45. -/
def Obligations.PortsFollowLinkAndLanes : Prop :=
  (
  ∀ (s : State) (p : Fin 16), s.m.Inv → let q := s.m.port' p
    Completes (.portDisable p) s (fun m =>
      (m.port' p).st = .disabled ∧ (m.port' p).enable = false ∧ (m.port' p).inj = []
      ∧ (∀ v, (vcOf (m.port' p) v).occ = 0 ∧ ∀ c ∈ (vcOf (m.port' p) v).pkts, c.flits = [])
      ∧ (∃ n, (m.port' p).cnt.downDrop = satAdd (satAdd q.cnt.downDrop (heldPkts q)) n) ∧ SameBut [.port] s.m m)
    ∧ (q.st = .disabled → Does (.portEnable p) s (s.m.setPort p { q with enable := true, st := .down, since := s.m.clk.elapsed }))
    ∧ (q.st ≠ .disabled → Does (.portEnable p) s (s.m.setPort p { q with enable := true }))
    ∧ (q.st = .quarantined → let n := (goodLanes q.lanes).length
        Completes (.release p) s fun m =>
          (8 ≤ n → (m.port' p).st = .up) ∧ (4 ≤ n → n < 8 → 2 ≤ q.ver.toNat → (m.port' p).st = .narrow)
          ∧ (n < 8 → (n < 4 ∨ q.ver.toNat < 2) → (m.port' p).st = .down)
          ∧ (m.port' p).lastFlit = s.m.clk.elapsed ∧ (m.port' p).lanes = q.lanes
          ∧ SameBut [.port, .vst, .hlt, .pci, .tray, .dbg, .out] s.m m)
    ∧ (q.st ≠ .quarantined → Does (.release p) s s.m)
    ∧ (∀ lanes : BitVec 9, q.st = .down → q.enable = true →
        (4 ≤ (goodLanes lanes).length → Does (.laneLock p lanes) s
          (s.m.setPort p { q with st := .training, lanes := lanes, since := s.m.clk.elapsed }))
        ∧ ((goodLanes lanes).length < 4 → Does (.laneLock p lanes) s (s.m.setPort p { q with lanes := lanes })))
    ∧ (q.st = .training → let m := passTo (q.since + 10000000) s.m
        Does (.bringUpTimeout p) s (m.setPort p { q with st := .down, since := m.clk.elapsed }))
    ∧ (q.st = .down → q.enable = true → let m := passTo (q.since + 100000000) s.m
        Does (.bringUpRetry p) s (m.setPort p { q with since := m.clk.elapsed })))
  ∧ (
  ∀ (s : State) (p : Fin 16), s.m.Inv → let q := s.m.port' p
    (∀ lane : Fin 9, bit q.lanes lane = true → let left := q.lanes &&& ~~~(BitVec.ofNat 9 (2 ^ lane.val))
      Completes (.laneLoss p lane) s fun m =>
        (m.port' p).lanes = left ∧ (m.port' p).cnt.laneLoss = q.cnt.laneLoss + 1
        ∧ (lane.val ∉ q.active → (m.port' p).st = q.st ∧ (m.port' p).active = q.active)
        ∧ (q.st = .up → lane.val ∈ q.active →
            (lane.val < 8 → bit left 8 = true → q.spareFor = 15 →
              (m.port' p).st = .up ∧ (m.port' p).spareFor = BitVec.ofNat 4 lane.val
              ∧ (m.port' p).active = q.active.filter (· != lane.val) ++ [8])
            ∧ (¬ (lane.val < 8 ∧ bit left 8 = true ∧ q.spareFor = 15) →
              (2 ≤ q.ver.toNat → 4 ≤ (goodLanes left).length →
                (m.port' p).st = .narrow ∧ (m.port' p).active = (goodLanes left).take 4)
              ∧ (¬ (2 ≤ q.ver.toNat ∧ 4 ≤ (goodLanes left).length) → (m.port' p).st = .down)))
        ∧ (q.st = .narrow → lane.val ∈ q.active → ((m.port' p).st = .down ↔ ∀ l ∈ goodLanes left, l ∈ q.active)))
    ∧ Completes (.lightLoss p) s (fun m => (m.port' p).lanes = 0 ∧ m.clk = s.m.clk
        ∧ (portUp q = true → (m.port' p).st = .down) ∧ (portUp q = false → (m.port' p).st = q.st))
    ∧ (portUp q = true → Completes (.noFlitTimeout p) s fun m =>
        (m.port' p).st = .down ∧ m.clk = (passTo (q.lastFlit + 10000) s.m).clk)
    ∧ (q.st = .up → q.retraining = true → Completes (.retrainDone p) s fun m =>
        (m.port' p).st = .up ∧ (m.port' p).retraining = false ∧ (m.port' p).lanes = q.lanes
        ∧ (m.port' p).eqLight = decide (s.m.pwr.loadBand ≤ 1)))

/-- Bring-up completes (R422, R423, R428, R429): the port records its neighbour and its delay and runs the highest version both ends
allow; with eight good lanes it is UP, with four to seven NARROW from version 2 on and DOWN at version 1; one that hears its own
identity, or the neighbour that other ports hear, is QUARANTINED, and those other ports with it. Where the rules are silent or can be
read in two ways, it rests on the model's choices of log entries 43, 44. -/
def Obligations.BringUpDecidesThePortState : Prop :=
  ∀ (s : State) (p : Fin 16) (lanes : BitVec 9) (far : BitVec 2) (trips : List W32) (turn : W32) (dev : W64) (nbr : BitVec 4), s.m.Inv →
    let n := (goodLanes lanes).length
    let same (k : Nat) : Prop := (portUp (s.m.port' k) = true ∨ (s.m.port' k).st = .quarantined)
      ∧ (s.m.port' k).nbrDev = dev ∧ (s.m.port' k).nbrPort = nbr
    (s.m.port' p).st = .training → 4 ≤ n → trips.length = 64 → Completes (.bringUpComplete p lanes far trips turn dev nbr) s fun m =>
      (m.port' p).delay = oneWay trips turn ∧ (m.port' p).nbrDev = dev ∧ (m.port' p).nbrPort = nbr ∧ (m.port' p).lanes = lanes
      ∧ (m.port' p).ver = pickVer (s.m.port' p).verMax far
      ∧ ((dev = s.m.fused.devId ∨ ∃ k : Fin 16, k ≠ p ∧ same k) → (m.port' p).st = .quarantined)
      ∧ (∀ k : Fin 16, k ≠ p → same k → (m.port' k).st = .quarantined)
      ∧ (dev ≠ s.m.fused.devId → (∀ k : Fin 16, k ≠ p → ¬ same k) →
          (8 ≤ n → (m.port' p).st = .up)
          ∧ (n < 8 → 2 ≤ (pickVer (s.m.port' p).verMax far).toNat → (m.port' p).st = .narrow)
          ∧ (n < 8 → (pickVer (s.m.port' p).verMax far).toNat < 2 → (m.port' p).st = .down))

/-- Flits (R433, R448, R453, R468, R469): one whose CRC fails is discarded whole and counted, the XOFF vector before it staying in
force; a good one's vector takes force; one that belongs to no packet is an orphan; each slot sends one flit. The tail timer truncates
its packet and counts it. Flow control and the congestion map (R450, R470, R473): a write of thresholds that would break their sum, or
that sets ON at or above OFF, is ignored and counted; every port samples each virtual channel at the start of a beat, and counts once
each beat in which XOFF was set; at the end of a window the current set becomes the last and restarts from zero. Where the rules are silent or can be read in two ways, it rests on the
model's choices of log entries 41, 46. -/
def Obligations.FlitsThresholdsAndCongestionMaps : Prop :=
  (
  ∀ (s : State) (p : Fin 16), s.m.Inv → let q := s.m.port' p
    (∀ f : Flit, (f.hdr.isSome ↔ (f.kind = 1 ∨ f.kind = 4)) → f.content.length ≤ 256 → q.st ≠ .disabled → q.st ≠ .down →
      (flitCrcOk f = false → Completes (.flitReceive p f) s fun m =>
        m.port' p = { q with cnt := { q.cnt with rx := q.cnt.rx + 1, crc := satAdd q.cnt.crc 1 } } ∧ SameBut [.port] s.m m)
      ∧ (flitCrcOk f = true → (f.kind = 0 ∨ f.kind = 5 ∨ f.kind = 7) → Completes (.flitReceive p f) s fun m =>
        m.port' p = { q with cnt := { q.cnt with rx := q.cnt.rx + 1 }, farXoff := f.xoff, lastFlit := s.m.clk.elapsed }
        ∧ SameBut [.port] s.m m)
      ∧ (flitCrcOk f = true → (f.kind = 2 ∨ f.kind = 3 ∨ f.kind = 6) → portUp q = true → bufferUsed q + flitSize f ≤ 524288 →
          (∀ c, (vcOf q (2 * f.tc.toNat + b2n f.vcb)).pkts.getLast? = some c → c.ended = true) →
          Completes (.flitReceive p f) s fun m =>
            m.port' p = { q with cnt := { q.cnt with rx := q.cnt.rx + 1, orphan := satAdd q.cnt.orphan 1 }, farXoff := f.xoff,
                                 lastFlit := s.m.clk.elapsed } ∧ SameBut [.port] s.m m))
    ∧ (portUp q = true → Completes (.flitSend p) s fun m =>
        (∃ f : Flit, m.out = .flit p f :: s.m.out ∧ flitCrcOk f = true) ∧ (m.port' p).cnt.tx = q.cnt.tx + 1
        ∧ SameBut [.port, .out] s.m m)
    ∧ (∀ (v : Fin 8) (c : InPkt), stalledPkt (vcOf q v) = some c → Completes (.tailTimeout p v) s fun m =>
        m.clk = (passTo (c.lastAt + max 1 q.tailTmo.toNat * 1000) s.m).clk ∧ (m.port' p).cnt.trunc = satAdd q.cnt.trunc 1
        ∧ (c.out < 16 → let c' : InPkt := { c with ended := true, truncated := true, mark := true }
            c' ∈ (vcOf (m.port' p) v).pkts)))
  ∧ (
  ∀ s : State, s.m.Inv →
    (∀ (p : Fin 16) (v : Fin 8) (val : W64), let q := s.m.port' p
      let next := setVc q v (xoffUpdate { vcOf q v with off := fld val 16 10, on := fld val 0 10 })
      ((fld val 16 10 ≤ fld val 0 10 ∨ 512 - headroom q.delay < offSum next) →
        Does (.nutFcThrWrite p v val) s (s.m.setPort p { q with cnt := { q.cnt with fcIgn := q.cnt.fcIgn + 1 } }))
      ∧ (¬ (fld val 16 10 ≤ fld val 0 10 ∨ 512 - headroom q.delay < offSum next) →
        Does (.nutFcThrWrite p v val) s (s.m.setPort p next)))
    ∧ (let b := nextMultiple 1 s.m.beat.sampleAt s.m
       let counted (x : VcSt) : VcSt := if s.m.beat.xoffAt = some b then x else countXoff x
       let close := b.toNat % 1024 = 0 ∧ b ≠ 0 ∧ s.m.beat.cmapAt ≠ some (b.toNat / 1024 - 1)
       Completes .cmapSample s (fun m => m.clk = (passToBeat b s.m).clk ∧ m.beat.sampleAt = some b
        ∧ (m.beat.cmapBy = true ↔ close ∨ s.m.beat.cmapBy = true)
        ∧ ∀ (p : Fin 16) (v : Fin 8), let x := counted (vcOf (s.m.port' p) v)
            (close → vcOf (m.port' p) v = sampleVc (rollVc x)) ∧ (¬ close → vcOf (m.port' p) v = sampleVc x)))
    ∧ (s.m.beat.cmapBy = true → Does .cmapWindowEnd s { s.m with beat := { s.m.beat with cmapBy := false } })
    ∧ (s.m.beat.cmapBy = false → let k := nextWindow s.m; let b : Beat := BitVec.ofNat 48 ((k + 1) * 1024)
        Completes .cmapWindowEnd s fun m => m.beat.cmapAt = some k ∧ m.clk = (passToBeat b s.m).clk
        ∧ ∀ p : Fin 16, (m.port' p).cmapWin = BitVec.ofNat 48 k ∧ ∀ v : Fin 8, let y := vcOf (s.m.port' p) v
            let x := if s.m.beat.xoffAt = some b then y else countXoff y
            vcOf (m.port' p) v = { x with
              last := x.hist, lastX := x.histX, hist := [0, 0, 0, 0, 0, 0, 0, 0], histX := 0 })
    ∧ (∀ p : Fin 16, Does (.nutCntClr p) s (s.m.setPort p { s.m.port' p with cnt :=
        { tx := 0, rx := 0, crc := 0, orphan := 0, trunc := 0, lenBad := 0, overrun := 0, hdrBad := 0, downDrop := 0,
          tc0Shaped := 0, fcIgn := 0, laneLoss := 0 } })))

/-- Local delivery (R462): what SLICE 0xFFF carries goes to the function its TYPE names and any other TYPE is counted; a stale epoch is
discarded with no reply; a slice this module does not hold is counted, its packet refused when its TYPE has a reply. -/
def Obligations.LocalDeliveryChecksInOrder : Prop :=
  ∀ (s : State) (k : Pkt) (r : List Pkt), s.m.rte.local_ = k :: r →
    let m1 : Module := { s.m with rte := { s.m.rte with local_ := r } }
    let sl := k.hdr.slice.toNat
    (sl = 0xFFF → (k.hdr.ty = 0x28 ∨ k.hdr.ty = 0x29 ∨ k.hdr.ty = 0x2A ∨ k.hdr.ty = 0x20) →
      Does .localDelivery s { m1 with rte := { m1.rte with accepted := s.m.rte.accepted ++ [k] } })
    ∧ (sl = 0xFFF → ¬ (k.hdr.ty = 0x28 ∨ k.hdr.ty = 0x29 ∨ k.hdr.ty = 0x2A ∨ k.hdr.ty = 0x20) → Completes .localDelivery s fun m =>
        m.rte.local_ = r ∧ m.rte.accepted = s.m.rte.accepted ∧ m.rte.sliceRej = s.m.rte.sliceRej + 1)
    ∧ (sl ≠ 0xFFF → (sliceIdx s.m sl).isSome = true → k.hdr.epoch ≠ curEpoch s.m sl → Completes .localDelivery s fun m =>
        m.rte.local_ = r ∧ m.rte.accepted = s.m.rte.accepted ∧ m.rte.stale = s.m.rte.stale + 1 ∧ m.port = s.m.port)
    ∧ (sl ≠ 0xFFF → sliceIdx s.m sl = none → Completes .localDelivery s fun m =>
        m.rte.accepted = s.m.rte.accepted ∧ m.rte.sliceRej = s.m.rte.sliceRej + 1
        ∧ (hasReply k.hdr.ty.toNat = false → m.rte.local_ = r ∧ m.port = s.m.port))
    ∧ (sl ≠ 0xFFF → (sliceIdx s.m sl).isSome = true → k.hdr.epoch = curEpoch s.m sl → member s.m sl k.hdr.dstPart.toNat = true →
        (k.hdr.tc = 0 ∨ k.hdr.len = 0) → wingUp s.m (homeWing k.hdr.dstPart.toNat) = true →
        (∀ w, targetWing m1 k = some w → wingUp s.m w = true) → (k.hdr.ty = 0x18 → mirOk k = true) →
        Does .localDelivery s { m1 with rte := { m1.rte with accepted := s.m.rte.accepted ++ [k] } })

/-- A WRITE to the Hall (R350, R356, R440, R444): the bytes of its payload stand where its offsets are placed, every other byte of every
tier is as it was, and it is acknowledged; one that fails a check writes nothing and is refused with the check's reason. -/
def Obligations.WritesStoreTheirBytesAndNoOthers : Prop :=
  ∀ (s : State) (k : Pkt), s.m.rte.accepted.find? (fun x => x.hdr.ty.toNat = 1) = some k → s.m.Inv →
    let m1 : Module := { s.m with rte := { s.m.rte with accepted := s.m.rte.accepted.erase k } }
    let n := k.payload.length; let o := gaOff k.hdr.addr; let p := k.hdr.dstPart.toNat
    let z := slotSize 0
    let at_ (x : Nat) : Nat := place s.m p 0 x / 32 * 32 + x % 32
    let fits := decide (1 ≤ n) && decide (n ≤ 2048) && decide (o / 2048 = (o + n - 1) / 2048) && decide (fld k.hdr.aux 0 32 = 0)
    (∀ reason, dataReason k n true fits m1 = some reason → Does .write s
      (ev 0x0E 0x24 0xFFFF 2 31 0 (k.hdr.srcChip.setWidth 64) (refuse k reason m1)))
    ∧ (dataReason k n true fits m1 = none → gaTier k.hdr.addr = 0 → Completes .write s fun m =>
        (∃ m2, m2.mem = m.mem ∧ m2.port = s.m.port ∧ m2.rte = m1.rte ∧ m = reply k 6 0 [] m2)
        ∧ (∀ a, (∀ x, o ≤ x → x < o + n → at_ x ≠ a) → m.mem.hall.get z 0 a = s.m.mem.hall.get z 0 a)
        ∧ m.mem.fast = s.m.mem.fast ∧ m.mem.slow = s.m.mem.slow
        ∧ (o / 32 = (o + n - 1) / 32 → ∀ i b, k.payload[i]? = some b → m.mem.hall.get z 0 (at_ o + i) = b))

/-- READ_REQ, NOTIFY and ATOMIC (R441 to R444): one that passes its checks reads, writes or updates the memory it names and is answered
with the bytes read, an ACK, or the old values; one that fails is refused and changes no memory. ACK and READ_RESP go to the Flight
engine whose burst holds their TAG, and one that nothing waits for, or that sets a bit R444 reserves, is discarded (R23, R411, R413,
R444). A MGMT request acts only from a chip
of WDG_NOTICE_SRC: it reads any register, writes the BEAT, NUT and RTE blocks while the lock is clear, and is refused otherwise (R445,
R446). Where the rules are silent or can be read in two ways, it rests on the model's choice of log entry 127. -/
def Obligations.RequestsAndAnswersAct : Prop :=
  (
  ∀ (s : State) (k : Pkt), let p := k.hdr.dstPart.toNat; let o := gaOff k.hdr.addr; let t := gaTier k.hdr.addr
    let m1 : Module := { s.m with rte := { s.m.rte with accepted := s.m.rte.accepted.erase k } }
    let refused (reason : Nat) : Module := ev 0x0E 0x24 0xFFFF 2 31 0 (k.hdr.srcChip.setWidth 64) (refuse k reason m1)
    let first (ty : Nat) : Prop := s.m.rte.accepted.find? (fun x => x.hdr.ty.toNat = ty) = some k
    (first 2 → let fits := k.payload.length = 8 && o % 8 = 0 && t = 0 && fld k.hdr.aux 0 32 = 0
      (dataReason k 8 true fits m1 = none → Does .notify s (reply k 6 0 [] (memWrite k.via p 0 false o k.payload m1)))
      ∧ ∀ c, dataReason k 8 true fits m1 = some c → Does .notify s (refused c))
    ∧ (first 3 → let n := fld k.hdr.aux 0 9
      let fits := decide (1 ≤ n) && decide (n ≤ 256) && o / 256 = (o + n - 1) / 256 && k.payload.length = 0 && fld k.hdr.aux 9 23 = 0
      (dataReason k n false fits m1 = none → Does (.readReq []) s
        (let x := memRead k.via p t false o n m1; reply k 4 0 x.1 x.2.2))
      ∧ ∀ c, dataReason k n false fits m1 = some c → Does (.readReq []) s (refused c))
    ∧ (first 5 → let n := k.payload.length; let op := fld k.hdr.aux 0 4; let z := atomSize op
      (∀ c, atomReason k m1 = some c → Does (.atomic []) s (refused c))
      ∧ ((z = 0 ∨ t = 0 ∨ n % z ≠ 0 ∨ o % z ≠ 0 ∨ n = 0 ∨ 256 < n) → ∃ c, atomReason k m1 = some c ∧ Does (.atomic []) s (refused c))
      ∧ (atomReason k m1 = none → let x := atomRun k.via p t op o (n / z) k.payload m1
          (atomFetches op = true → Does (.atomic []) s (reply k 4 0 x.1 x.2))
          ∧ (atomFetches op = false → Does (.atomic []) s (reply k 6 0 [] x.2)))))
  ∧ (
  ∀ (s : State) (k : Pkt),
    let m1 : Module := { s.m with rte := { s.m.rte with accepted := s.m.rte.accepted.erase k } }
    let first (ty : Nat) : Prop := s.m.rte.accepted.find? (fun x => x.hdr.ty.toNat = ty) = some k
    let tag := k.hdr.tag.toNat
    (first 6 → let ans : BurstAnswer := if bit k.hdr.aux 0 then .refused else .ack
      (replyOk k = false → Does .ack s m1)
      ∧ (∀ (f : Nat) (m2 : Module), replyOk k = true → f < 32 → (∀ j, j < f → fltRespond j tag ans (replyCross k m1) = none) →
        fltRespond f tag ans (replyCross k m1) = some m2 → Does .ack s m2)
      ∧ (replyOk k = true → (∀ j, j < 32 → fltRespond j tag ans (replyCross k m1) = none) → s.m.mir = [] → s.m.vst = [] →
        Does .ack s (replyCross k m1)))
    ∧ (first 4 → let ans : BurstAnswer := if bit k.hdr.aux 0 then .refused else .data k.payload
      (replyOk k = false → Does .readResp s m1)
      ∧ (∀ (f : Nat) (m2 : Module), replyOk k = true → f < 32 → (∀ j, j < f → fltRespond j tag ans (replyCross k m1) = none) →
        fltRespond f tag ans (replyCross k m1) = some m2 → Does .readResp s m2)
      ∧ (replyOk k = true → (∀ j, j < 32 → fltRespond j tag ans (replyCross k m1) = none) → Does .readResp s (replyCross k m1)))
    ∧ (first 0x28 → let off := fld k.hdr.aux 0 28; let op := fld k.hdr.aux 60 4
      let trusted := noticeFrom s.m.wdg k.hdr.srcChip.toNat
      (trusted = false → Does .mgmt s { m1 with rte := { m1.rte with sliceRej := s.m.rte.sliceRej + 1 } })
      ∧ (trusted = true → op = 1 → mgmtForm k = true → Does .mgmt s
          (let r := fnRead .pf off 8 m1; mgmtReply k 3 false (natLe 8 r.1.toNat) r.2))
      ∧ (trusted = true → op = 2 → mgmtForm k = true → managerBlk off = true → s.m.sec.locked = false → Does .mgmt s
          (mgmtReply k 4 false [] (fnWrite .pf off 8 (w64 (leNat k.payload)) m1)))
      ∧ (trusted = true → op = 2 → (managerBlk off = false ∨ s.m.sec.locked = true) → Does .mgmt s (mgmtReply k 4 true [] m1))))

/-- The routing block (R464 to R467, R476): ARM for a beat that has passed is refused with code 0x03, CANCEL disarms; at the armed beat
the checked shadow table, chip ID and epochs take force together and the shadow table stays, or nothing changes and the refusal is
recorded; a shadow write while armed is ignored and counted. Where the rules are silent or can be read in two ways, it rests on the
model's choices of log entries 39, 40, 133. -/
def Obligations.RoutingTablesSwapAtTheirBeat : Prop :=
  ∀ s : State, let r := s.m.rte
    (atOrAfter (beatNow s.m) r.swapBeat = false → Does .rteArm s
      { s.m with rte := { r with st := .armed, armedBeat := r.swapBeat } })
    ∧ (atOrAfter (beatNow s.m) r.swapBeat = true → Does .rteArm s
      (ev 0x13 2 0xFFFF 2 31 0 3 { s.m with rte := { r with st := .refused, lastCode := 3, entry := 0 } }))
    ∧ (r.st = .armed → Does .rteCancel s { s.m with rte := { r with st := .idle } })
    ∧ (r.st ≠ .armed → Does .rteCancel s { s.m with rte := { r with badCmd := true, badCmdAt := instant s.m } })
    ∧ (r.st = .armed → ¬ (s.m.img.st = .armed ∧ s.m.img.armedBeat = r.armedBeat) → ∀ m1, m1 = passToBeat r.armedBeat s.m →
        (swapCheck m1 = none → Does .swap s (ev 0x13 1 0xFFFF 1 31 0 (r.armedBeat.setWidth 64) { m1 with rte := { r with
          st := .idle, active := r.shadow, chipValid := bit r.nextRaw 31, chip := BitVec.ofNat 13 (fld r.nextRaw 0 13),
          epochs := r.epochs.map (fun x => (x.1, (x.2.1, x.2.1))) } }))
        ∧ (∀ c e, swapCheck m1 = some (c, e) → Does .swap s (ev 0x13 2 0xFFFF 2 31 0 (pack [(e, 16), (c, 0)])
            { m1 with rte := { r with st := .refused, lastCode := BitVec.ofNat 8 c, entry := BitVec.ofNat 16 e } })))
    ∧ (∀ off bytes val, off < 65536 → (bytes = 4 ∨ bytes = 8) → off % bytes = 0 →
        (r.st = .armed → Does (.rteShadowWrite off bytes val) s { s.m with rte := { r with shadowIgn := r.shadowIgn + 1 } })
        ∧ (r.st ≠ .armed → Completes (.rteShadowWrite off bytes val) s fun m =>
            (∀ j, j ≠ off / 16 → nget 0 m.rte.shadow j = nget 0 r.shadow j) ∧ m.rte.active = r.active
            ∧ SameBut [.rte, .dbg] s.m m))
    ∧ Does .rteCntClr s { s.m with rte := { r with noRoute := 0, stale := 0, sliceRej := 0, nopart := 0, shadowIgn := 0 } }

/-! ### Arcade (chapter 12) -/

/-- ALLREDUCE and VOTE_CFG (R484 to R490, R499, R507, R509): one that its checks refuse is counted and completes with no part of its
work; an operation of a single member completes at once; one whose first phase sends enters it and waits for READY; VOTE_CFG sets its
partition's configuration and completes in the next cycle, and a vote that runs keeps its own. Where the rules are silent or can be read
in two ways, it rests on the model's choices of log entries 67, 68, 72. -/
def Obligations.ArcadesTakeDescriptors : Prop :=
  ∀ (s : State) (a : Fin 2) (k : QKey) (d : Desc), s.m.Inv → let x := s.m.arc' a
    let m1 := (dequeue k s.m).setArc a { x with rr := k.sub }
    let counted (m : Module) : Prop := count m d.part d.ctx 7 a = count s.m d.part d.ctx 7 a + 1
    let refused (m : Module) : Prop :=
      queue m k = (queue s.m k).tail ∧ counted m ∧ m.arc' a = { x with rr := k.sub, refused := x.refused + 1 } ∧ m.vote = s.m.vote
      ∧ m.mem = s.m.mem
    let ents := readEnts a d.part (d.a 40) (ranksUsed (!isCfg d && arRing d) (arSize d) (arRank d)) m1
    (arcHead s.m a 0x70 = some (k, d) →
      (arRefusal m1 a d ≠ none → ∀ errs, Completes (.allreduce a errs) s refused)
      ∧ (arRefusal m1 a d = none → mapRefusal ents.2 d ents.1 = none → arCount d ≠ 0 → soloSlot s.m d.part = none →
          openSuspect s.m.wdg = none →
          (arSize d = 1 → Completes (.allreduce a []) s fun m =>
            queue m k = (queue s.m k).tail ∧ counted m ∧ (m.arc' a).op = none ∧ (m.arc' a).ops = x.ops + 1)
          ∧ (∀ f, x.early = [] → phaseAt (arRing d) (arSize d) (arRank d) (arCount d) (arDtype d = 1) 0 = some f → f.dst ≠ none →
              Completes (.allreduce a []) s fun m =>
                queue m k = (queue s.m k).tail ∧ m.counts = s.m.counts ∧ m.clk = s.m.clk
                ∧ ∃ o, (m.arc' a).op = some o ∧ o.desc = d ∧ o.phase = 0 ∧ o.ents = ents.1 ∧ o.readies = [] ∧ o.sent = false
                    ∧ o.startAt = s.m.clk.elapsed ∧ o.limit = (if arTmo d = 0 then max 1 x.tmoDef.toNat else arTmo d))))
    ∧ (arcHead s.m a 0x71 = some (k, d) →
      (arRefusal m1 a d ≠ none → Completes (.voteCfg a) s refused)
      ∧ (arRefusal m1 a d = none → mapRefusal ents.2 d ents.1 = none → Completes (.voteCfg a) s fun m =>
          queue m k = (queue s.m k).tail ∧ counted m ∧ m.clk = (passToCycle (s.m.clk.cycle + 1) s.m).clk
          ∧ m.vote.cfgs = nput s.m.vote.cfgs d.part { map := d.a 40, size := arSize d, rank := arRank d, tmo := arTmo d }
          ∧ m.vote.running = s.m.vote.running))

/-- ARCADE and VOTE packets (R23, R491 to R496, R501): one whose reserved fields are not zero or whose length is not its kind's is
discarded; READY of an operation not started is held, or dropped and counted when 64 are; of the
running one it is noted; DATA adds to the values it names, and more than the phase's bytes stops the operation with LENGTH_MISMATCH;
what belongs to no running or coming operation is counted as late. Where the rules are silent or can be read in two ways, it rests on
the model's choices of log entries 17, 69, 70, 73. -/
def Obligations.ArcadePacketsAreTakenHeldOrLate : Prop :=
  ∀ (s : State) (k : Pkt) (diff : Bool), s.m.Inv →
    let first (ty : Nat) : Prop := s.m.rte.accepted.find? (fun x => x.hdr.ty.toNat = ty) = some k
    let a := fld k.hdr.aux 31 1; let x := s.m.arc' a
    let id := fld k.hdr.aux 32 32; let ph := fld k.hdr.aux 16 15; let kind := fld k.hdr.aux 14 2; let p := k.hdr.dstPart.toNat
    let got : W64 := x.rx + BitVec.ofNat 64 k.payload.length
    let taken : Module := { s.m with rte := { s.m.rte with accepted := s.m.rte.accepted.erase k } }
    (first 0x10 → arcOk k = false → Does (.arcade diff) s taken)
    ∧ (first 0x11 → voteOk k = false → Does (.vote diff) s taken)
    ∧ (first 0x10 → arcOk k = true →
      (x.op = none →
        (kind = 1 → (p, id) ∉ x.ended → x.early.length < 64 → Completes (.arcade diff) s fun m =>
          m.arc' a = { x with rx := got, early := x.early ++ [{ pkt := k, at_ := s.m.clk.elapsed }], lastProgress := s.m.clk.elapsed })
        ∧ (kind = 1 → (p, id) ∉ x.ended → 64 ≤ x.early.length → Completes (.arcade diff) s fun m =>
          m.arc' a = { x with rx := got, earlyDrop := satAdd x.earlyDrop 1, lastProgress := s.m.clk.elapsed })
        ∧ ((kind ≠ 1 ∨ (p, id) ∈ x.ended) → Completes (.arcade diff) s fun m =>
          m.arc' a = { x with rx := got, latePkt := satAdd x.latePkt 1, lastProgress := s.m.clk.elapsed }))
      ∧ (∀ o f, x.op = some o → o.desc.part = p → (arOpId o.desc).toNat = id → opPhase o = some f →
        (kind = 1 → f.num < ph → ph ∉ o.readies → f.num ∉ o.readies → o.sent = false → f.dst ≠ none →
          Completes (.arcade diff) s fun m => (m.arc' a).op = some { o with readies := ph :: o.readies })
        ∧ (kind = 0 → ph = f.num → let n := k.payload.length; let off := k.hdr.addr.toNat; let z := wireBytes (arDtype o.desc) f.narrow
          (n % z = 0 → off % z = 0 → off + n ≤ phaseBytes o f → o.got + n < phaseBytes o f → f.num ∉ o.readies →
            Completes (.arcade diff) s fun m => (m.arc' a).op = some { o with
              got := o.got + n,
              vals := (List.range (n / z)).foldl (fun v i => nset 0 v (f.rLo + off / z + i)
                (takeVal (arDtype o.desc) f.how f.narrow (nget 0 v (f.rLo + off / z + i)) (le k.payload (z * i) z))) o.vals })
          ∧ (phaseBytes o f < o.got + n → Completes (.arcade diff) s fun m =>
            (m.arc' a).op = none ∧ (m.arc' a).errLast = arcErrWord id ph 2
            ∧ count m o.desc.part o.desc.ctx 7 a = count s.m o.desc.part o.desc.ctx 7 a + 1))
        ∧ (kind ≠ 1 → (kind ≠ 0 ∨ ph ≠ f.num) → Completes (.arcade diff) s fun m =>
          m.arc' a = { x with rx := got, latePkt := satAdd x.latePkt 1, lastProgress := s.m.clk.elapsed })))
    ∧ (first 0x11 → voteOk k = true → nfind s.m.vote.running p = none →
      ((p, id) ∈ s.m.vote.ended → Completes (.vote diff) s fun m =>
        m.arc' 0 = { s.m.arc' 0 with latePkt := satAdd (s.m.arc' 0).latePkt 1 } ∧ m.vote.early = s.m.vote.early)
      ∧ ((p, id) ∉ s.m.vote.ended → s.m.vote.early.length < 64 → Completes (.vote diff) s fun m =>
        m.vote.early = s.m.vote.early ++ [{ pkt := k, at_ := s.m.clk.elapsed }] ∧ m.vote.running = s.m.vote.running))

/-- Timers (R493, R495, R502, R510): an operation whose phase lasts too long stops with PHASE_TIMEOUT and completes with error; a vote
that does fails and is recorded as failed; a held READY that waits too long is dropped and counted; ARC_CNT_CLR zeroes 0x020 to 0x060.
Where the rules are silent or can be read in two ways, it rests on the model's choices of log entries 71, 73. -/
def Obligations.ArcadeTimersAndCounters : Prop :=
  ∀ (s : State) (a : Fin 2), s.m.Inv → let x := s.m.arc' a
    (∀ (p : Fin 16) (o : ArcOp) (f : Phase), x.op = some o → opPhase o = some f → Completes (.phaseTimeout (some a) p) s fun m =>
      (m.arc' a).op = none ∧ (m.arc' a).timeouts = x.timeouts + 1 ∧ (m.arc' a).errLast = arcErrWord (arOpId o.desc).toNat f.num 1
      ∧ m.clk = (passTo (o.startAt + o.limit * 1024) s.m).clk
      ∧ count m o.desc.part o.desc.ctx 7 a = count s.m o.desc.part o.desc.ctx 7 a + 1)
    ∧ (∀ (p : Fin 16) (o : VoteOp), nfind s.m.vote.running p.val = some o → nget [] s.m.vote.queued p.val = [] →
        Completes (.phaseTimeout none p) s fun m =>
          nfind m.vote.running p.val = none ∧ m.vote.lastStep = nset (false, 0) s.m.vote.lastStep p.val (true, o.step)
          ∧ m.clk = (passTo (o.startAt + o.limit * 1024) s.m).clk)
    ∧ (∀ e r, x.early = e :: r → (a.val = 0 → ∀ v ∈ s.m.vote.early.head?, e.at_ ≤ v.at_) → Completes (.earlyReadyExpiry a) s fun m =>
        m.arc' a = { x with early := r, earlyDrop := satAdd x.earlyDrop 1 }
        ∧ m.clk = (passTo (e.at_ + 65536 * 1024) s.m).clk)
    ∧ Does (.arcCntClr a) s (s.m.setArc a { x with
        ops := 0, tx := 0, rx := 0, adds := 0, timeouts := 0, latePkt := 0, earlyDrop := 0, refused := 0, xwing := 0 })

/-! ### Vestibule and mirror (chapter 13) -/

/-- Vestibule descriptors (R517, R520, R524, R526, R527, R549, R594): one that its checks refuse completes and changes no slot; RETAIN
writes a batch record into the newest OPEN step; DONE moves its step to COMPUTED, and to VERIFIED once its checks are made with TAINT
clear; AWAIT waits and then writes the outcome word; the oldest COMMITTED slot that meets R524 is freed; a CKPT packet is discarded.
Where the rules are silent or can be read in two ways, it rests on the model's choices of log entries 74, 79, 89. -/
def Obligations.VestibuleDescriptorsAct : Prop :=
  ∀ (s : State) (p : Fin 16), s.m.Inv → let v := s.m.vst' p
    (∀ (k : QKey) (d : Desc), d.part = p.val → let m1 := dequeue k s.m
      let counted (m : Module) : Prop := queue m k = (queue s.m k).tail ∧ count m p d.ctx 8 0 = count s.m p d.ctx 8 0 + 1
      let refused (m : Module) : Prop := counted m ∧ m.vst = s.m.vst ∧ m.mem = s.m.mem
      (vstHead s.m p 0x80 = some (k, d) →
        (retainRefusal m1 d ≠ none → Completes (.retain p) s refused)
        ∧ ∀ kk x, retainRefusal m1 d = none → newestSlot v (fun y => y.st = .open) = some (kk, x) → Completes (.retain p) s fun m =>
            counted m ∧ ∃ y b, (kk, y) ∈ (m.vst' p).slots ∧ y.st = .open ∧ y.step = x.step ∧ y.batches = x.batches ++ [b]
              ∧ b.addr = d.a 16 ∧ b.len = d.a 24 ∧ b.digestMode = d.fl 0 ∧ b.handle = slice d.bytes 32 16
              ∧ b.digest = sha384 (memRead 2 p (gaTier (d.a 16)) false (gaOff (d.a 16)) (d.f 24 8) (descStart 8 0 d m1)).1
              ∧ (d.fl 0 = true → b.off = none))
      ∧ (vstHead s.m p 0x81 = some (k, d) →
        (doneRefusal m1 d ≠ none → Completes (.done p) s refused)
        ∧ ∀ kk x, doneRefusal m1 d = none → slotOfStep v (stStep d) = some (kk, x) → nfind v.slots kk = some x →
            let checked := x.taint = false ∧ wingUp s.m (homeWing p) = true
            (¬ checked → Completes (.done p) s fun m => counted m ∧ (kk, { x with st := .computed }) ∈ (m.vst' p).slots)
            ∧ (checked → x.replayMode ≠ 3 → Completes (.done p) s fun m =>
                counted m ∧ ∃ y, (kk, y) ∈ (m.vst' p).slots ∧ y.st = .verified ∧ y.verifiedSeen = true ∧ y.step = x.step)
            ∧ (checked → x.replayMode = 3 → Completes (.done p) s fun m =>
                counted m ∧ (m.vst' p).committed = stStep d ∧ ∃ y, (kk, y) ∈ (m.vst' p).slots ∧ y.st = .committed ∧ y.step = x.step))
      ∧ (vstHead s.m p 0x82 = some (k, d) →
        (awaitRefusal m1 d ≠ none → Completes (.await p) s refused)
        ∧ (awaitRefusal m1 d = none → Completes (.await p) s fun m =>
            queue m k = (queue s.m k).tail ∧ m.counts = s.m.counts ∧ m.vst' p = { v with awaits := [d] } ∧ m.mem = s.m.mem)))
    ∧ (∀ (d : Desc) (r : List Desc) (kk c : Nat) (x : VSlot), v.awaits = d :: r → d.part = p.val → slotOfStep v (stStep d) = some (kk, x) →
        (x.st = .committed ∧ shardRead s.m p (stStep d) = true ∧ c = 1 ∨ x.st = .failed ∧ c = 2 ∨ x.st = .undecided ∧ c = 3) →
        Completes (.awaitComplete p) s fun m =>
          (m.vst' p).awaits = r ∧ count m p d.ctx 8 0 = count s.m p d.ctx 8 0 + 1
          ∧ m.mem = (hallWrite 2 p (gaOff (d.a 24)) (natLe 8 (2 ^ 32 * x.result.toNat + c)) (s.m.setVst p { v with awaits := r })).mem)
    ∧ (∀ kk x, oldestSlot v (fun _ => true) = some (kk, x) → x.st = .committed → outAcked (s.m.mir' p) x.step = true →
        inHeld (s.m.mir' p) x.step = true → Completes (.released p) s fun m =>
          m.vst' p = { v with slots := v.slots.filter (fun y => y.1 != kk) } ∧ SameBut evParts s.m m)
    ∧ (∀ (k : Pkt) (r : List Pkt), s.m.rte.local_ = k :: r → k.hdr.ty = 0x19 → k.hdr.slice = 0xFFF → Completes .ckpt s fun m =>
        m.rte.local_ = r ∧ m.rte.accepted = s.m.rte.accepted ∧ m.rte.sliceRej = s.m.rte.sliceRej + 1 ∧ m.port = s.m.port
        ∧ m.mem = s.m.mem)

/-- Vestibule commands (R528 to R530): one whose beat has passed is refused with code 6, another is armed; at its beat one that names no
held step is refused with code 1 and a replay past an older step that is not COMMITTED with code 2; RESOLVE_ABORT and RESOLVE_COMMIT
settle an UNDECIDED step, REVOTE votes again, and a replay reopens its step, clears TAINT and VERIFIED_SEEN, and sets gate 15 of every
context. Where the rules are silent or can be read in two ways, it rests on the model's choices of log entries 77, 78. -/
def Obligations.VestibuleCommandsReplayAndResolve : Prop :=
  ∀ (s : State) (p : Fin 16), s.m.Inv → let v := s.m.vst' p; let now := beatNow s.m
    let passed : Prop := v.cmdBeat ≠ now ∧ atOrAfter now v.cmdBeat = true ∨ v.cmdBeat = now ∧ s.m.clk.time.toNat % 1024 ≠ 0
    (∀ op c, (op, c) ∈ [(1, Instr.replayLive p), (2, .replaySolo p), (3, .replaySoloCommitted p), (4, .revote p), (5, .resolveCommit p),
        (6, .resolveAbort p)] →
      (¬ passed → Does c s (s.m.setVst p { v with armedCmd := v.armedCmd ++ [(op, v.cmdStep, v.cmdBeat)] }))
      ∧ (passed → Completes c s fun m => m.vst' p = { v with lastCode := 6 } ∧ SameBut evParts s.m m))
    ∧ (∀ op n b, nextCmd v.armedCmd = some (op, n, b) →
        let rest := v.armedCmd.erase (op, n, b)
        let refused (code : Byte) (m : Module) : Prop := m.vst' p = { v with armedCmd := rest, lastCode := code }
          ∧ m.clk = (passToBeat b s.m).clk
        (slotOfStep v n = none → Completes (.vstCommandBeat p) s (refused 1))
        ∧ ∀ kk x, slotOfStep v n = some (kk, x) → nfind v.slots kk = some x →
            let older := ∃ y ∈ v.slots, stepBefore y.2.step n = true ∧ y.2.st ≠ .committed
            (1 ≤ op → op ≤ 3 → older → (∀ y ∈ x.batches, y.digestMode = false) → Completes (.vstCommandBeat p) s (refused 2))
            ∧ (op = 6 → x.st = .undecided → x.voting = false → Completes (.vstCommandBeat p) s fun m =>
                (m.vst' p).slots = v.slots.map (fun y => if y.1 = kk then (kk, { y.2 with st := .failed }) else y)
                ∧ (m.vst' p).committed = v.committed)
            ∧ (op = 5 → x.st = .undecided → x.verifiedSeen = true → x.voting = false → Completes (.vstCommandBeat p) s fun m =>
                (m.vst' p).committed = n ∧ (kk, { x with st := .committed, replayMode := 0, result := 0 }) ∈ (m.vst' p).slots)
            ∧ (op = 4 → x.st = .undecided → x.voting = false → (nfind s.m.vote.running p.val).isSome = true →
                Completes (.vstCommandBeat p) s fun m => (kk, { x with voting := true }) ∈ (m.vst' p).slots
                  ∧ m.vote.queued = nset [] s.m.vote.queued p
                      (nget [] s.m.vote.queued p ++ [(n, if x.verifiedSeen && !x.taint then 1 else 0)]))
            ∧ (1 ≤ op → op ≤ 3 → ¬ older → partBusy s.m p = false → (∀ y ∈ x.batches, y.digestMode = false) → x.st = .failed →
                x.voting = false → (op = 1 ∨ x.norec = false) → Completes (.vstCommandBeat p) s fun m =>
                  (m.vst' p).replays = v.replays + 1 ∧ (m.vst' p).lastCode = v.lastCode
                  ∧ (∀ c, c < 8 → bit (nget 0 m.gates (p.val * 8 + c)) 15 = true)
                  ∧ ∃ y, (kk, y) ∈ (m.vst' p).slots ∧ y.st = .open ∧ y.step = n ∧ y.taint = false ∧ y.verifiedSeen = false
                      ∧ y.replayed = true ∧ y.replayMode = op ∧ y.seeds = x.seeds ∧ (op = 1 → y.captures = [])
                      ∧ (op ≠ 1 → y.captures = x.captures)))

/-- Cuts, drains and configuration (R513, R515, R528, R545, R546, R669): CUT arms, the copy ends with the snapshot VALID, a drain runs
only of a VALID snapshot under a checkpoint key and ends DRAINED, or VALID again on an error; CLEAR frees every slot; configuration is
accepted only while ENABLE is 0. Where the rules are silent or can be read in two ways, it rests on the model's choices of log entries
80, 81, 82. -/
def Obligations.SnapshotsDrainAndConfigurationHolds : Prop :=
  ∀ (s : State) (p : Fin 16), s.m.Inv → let v := s.m.vst' p; let set (x : Vst) := s.m.setVst p x
    (vstServes s.m p = true → Does (.cutCommand p) s (set { v with cut := some v.cmdStep }))
    ∧ (vstServes s.m p = false → Does (.cutCommand p) s s.m)
    ∧ (v.snapSt = .copying → Completes (.cutTaken p) s fun m =>
        (m.vst' p).snapSt = .valid ∧ (m.vst' p).snapStep = v.snapStep ∧ m.mir = s.m.mir
        ∧ m.mem = (vstCopy p 2 (regionOf v.shard).1 2 (snapBase v) (shardSize v) s.m).mem)
    ∧ (∀ (c : Instr) (fab : Bool), (c = .drainHost p ∧ fab = false ∨ c = .drainFabric p ∧ fab = true) →
        (v.snapSt ≠ .valid → Does c s s.m)
        ∧ (v.snapSt = .valid → nfind s.m.sec.ckeys p = none → Completes c s fun m => SameBut evParts s.m m ∧ m.vst = s.m.vst)
        ∧ (∀ key, v.snapSt = .valid → nfind s.m.sec.ckeys p = some key → Completes c s fun m =>
            (m.vst' p).snapSt = .draining ∧ (m.vst' p).drainDone = 0 ∧ (m.vst' p).drainFab = fab ∧ (m.vst' p).drainLateSeen = false
            ∧ (m.vst' p).snapStep = v.snapStep
            ∧ (fab = false → .hostWrite v.drainDst (drainObject p key s.m).1 ∈ m.out ∧ (m.vst' p).drainTags = [])))
    ∧ (v.snapSt = .draining →
        (v.drainTags = [] → Completes (.drainDone p) s fun m =>
          m.vst' p = { v with snapSt := .drained, drainDone := BitVec.ofNat 64 (objLen v) } ∧ SameBut evParts s.m m)
        ∧ (v.drainFab = false ∨ v.drainTags ≠ [] → Completes (.drainError p) s fun m =>
          m.vst' p = { v with snapSt := .valid, drainTags := [] } ∧ m.clk = (passTo (v.drainAckAt + mirTmo (s.m.mir' p)) s.m).clk)
        ∧ (v.drainLateSeen = false → Completes (.drainLate p) s fun m =>
          m.vst' p = { v with drainLateSeen := true } ∧ m.clk = (passToBeat v.drainDeadline s.m).clk))
    ∧ Does (.clear p) s (set { v with slots := [] })
    ∧ (∀ val : W64, let en := bit val 8; let depth := BitVec.ofNat 4 (fld val 0 4)
        let bad := (prec s.m p).slice = 0xFFF
        let ignored : Vst := { v with cfgIgn := true, cfgIgnAt := instant s.m }
        (en = true → bad → Does (.vstCfgWrite p val) s (set ignored))
        ∧ (v.enable = true → (en = false ∨ ¬ bad) → depth = v.depth → Does (.vstCfgWrite p val) s (set { v with enable := en }))
        ∧ (v.enable = true → (en = false ∨ ¬ bad) → depth ≠ v.depth → Does (.vstCfgWrite p val) s (set { ignored with enable := en }))
        ∧ (v.enable = false → (en = false ∨ ¬ bad) → Does (.vstCfgWrite p val) s (set { v with enable := en, depth := depth }))
        ∧ (v.enable = true → (∀ r, Does (.vstRegionWrite p r val) s (set ignored)) ∧ Does (.mirRegionWrite p val) s (set ignored))
        ∧ (v.enable = false → let r := regionVal val
            (regionOk s.m p r (otherRegions s.m p 0) = true → Does (.vstRegionWrite p 0 val) s (set { v with vest := r }))
            ∧ (regionOk s.m p r (otherRegions s.m p 1) = true → Does (.vstRegionWrite p 1 val) s (set { v with shard := r }))
            ∧ (regionOk s.m p r (otherRegions s.m p 2) = true → Does (.vstRegionWrite p 2 val) s (set { v with snap := r }))
            ∧ (regionOk s.m p r (otherRegions s.m p 3) = true →
                Does (.mirRegionWrite p val) s (s.m.setMir p { s.m.mir' p with region := r }))
            ∧ (let misplaced : Vst := { v with regionBad := true, regionBadAt := instant s.m }
              (∀ i, regionOk s.m p r (otherRegions s.m p i.val) = false → Does (.vstRegionWrite p i val) s (set misplaced))
              ∧ (regionOk s.m p r (otherRegions s.m p 3) = false → Does (.mirRegionWrite p val) s (set misplaced)))))

/-- The mirror engine's own work (R538, R539, R541, R549): a SEND that its checks refuse completes, another sends BEGIN and waits; one
not answered in time completes with its counts; RESTORE is accepted only while ENABLE is 1, no slot is held and MIR_PARTNER is valid; an
idle inbound transfer and an idle restore end, C and the slots as they were. Mirror packets (R534, R536, R539 to R541): BEGIN is
accepted from the source when FULL is set or its base equals C's version, and refused with its reason otherwise; LIST and DATA fill the
transfer, END makes W the complete buffer, INPUT keeps the last eight headers, FETCH is answered only to the source; RDATA, RRESULT and
RDONE of the partner restore SHARD, slots and versions. Where the rules are silent or can be read in two ways, it rests on the model's
choices of log entries 19, 83, 84, 85, 86, 87, 88. -/
def Obligations.MirrorSendsReceivesAndRestores : Prop :=
  (
  ∀ (s : State) (p : Fin 16), s.m.Inv → let x := s.m.mir' p; let v := s.m.vst' p; let tmo := mirTmo x
    (∀ (d : Desc) (r : List Desc), d.part = p.val → x.send = none → let k : QKey := ⟨9, 0, p⟩; queue s.m k = d :: r →
      let m1 := dequeue k s.m
      (sendRefusal m1 d ≠ none → Completes (.send p) s fun m =>
        queue m k = r ∧ count m p d.ctx 9 0 = count s.m p d.ctx 9 0 + 1 ∧ m.mir = s.m.mir ∧ m.port = s.m.port)
      ∧ (sendRefusal m1 d = none → Completes (.send p) s fun m =>
        queue m k = r ∧ m.counts = s.m.counts ∧ (m.mir' p).tx = x.tx + 24
        ∧ ∃ o, (m.mir' p).send = some o ∧ o.desc = d ∧ o.full = d.fl 0 ∧ o.resent = false ∧ o.endTag = none ∧ o.tags = []
            ∧ o.ranges = (if d.fl 0 then [(0, shardSize v)] else (readList d (descStart 9 0 d m1)).1)))
    ∧ (∀ o, x.send = some o → Completes (.mirrorTimeout p) s fun m =>
        m.mir' p = { x with send := none } ∧ m.clk = (passTo (o.lastAck + tmo) s.m).clk
        ∧ count m o.desc.part o.desc.ctx 9 0 = count s.m o.desc.part o.desc.ctx 9 0 + 1)
    ∧ (∀ i, x.inX = some i → Completes (.inAborted p) s fun m =>
        m.mir' p = { x with inX := none } ∧ m.clk = (passTo (i.lastAt + tmo) s.m).clk)
    ∧ Does (.discardInboundW p) s (s.m.setMir p { x with inX := none })
    ∧ (let ok := v.enable = true ∧ v.slots = [] ∧ nameValid x.partner = true ∧ x.restore = none
      (ok → Completes (.restore p) s fun m => m.vst = s.m.vst ∧ m.mem = s.m.mem
        ∧ ∃ r, m.mir' p = { x with restore := some r } ∧ r.bytes = 0 ∧ r.slots = [])
      ∧ (¬ ok → Does (.restore p) s s.m))
    ∧ (∀ r, x.restore = some r → Completes (.restoreFailed p) s fun m =>
        m.mir' p = { x with restore := none } ∧ m.vst' p = v ∧ m.clk = (passTo (r.lastAt + tmo) s.m).clk))
  ∧ (
  ∀ (s : State) (k : Pkt), s.m.Inv → let p := k.hdr.dstPart.toNat; let x := s.m.mir' p; let v := s.m.vst' p
    let n := k.payload.length; let off := k.hdr.addr.toNat
    let first (kind : Nat) : Prop := s.m.rte.accepted.find? (fun y => y.hdr.ty = 0x18 && mKind y = kind) = some k
    let xr : Mir := { x with rx := x.rx + BitVec.ofNat 64 n }
    let m1 := ({ s.m with rte := { s.m.rte with accepted := s.m.rte.accepted.erase k } }).setMir p xr
    let src := nameIs x.source k = true
    let refused (reason : BitVec 4) (m : Module) : Prop := m.mir' p = { xr with lastRefusal := reason } ∧ m.mem = s.m.mem
    let now := s.m.clk.elapsed
    (first 0 → let full := bit (BitVec.ofNat 64 (le k.payload 0 8)) 63; let size := le k.payload 8 8
      let base : Beat := BitVec.ofNat 48 (le k.payload 0 8)
      (¬ src → Completes .mirBegin s (refused 3))
      ∧ (src → bufSize x < size → Completes .mirBegin s (refused 2))
      ∧ (src → size ≤ bufSize x → full = false → x.inC.map (·.2) ≠ some base → Completes .mirBegin s (refused 1))
      ∧ (src → size ≤ bufSize x → (full = true ∨ x.inC.map (·.2) = some base) → Completes .mirBegin s fun m =>
          m.mir' p = { xr with inX := some { step := mStep k, full := full, size := size, entries := le k.payload 16 8, ranges := [],
                                             bytes := 0, wrote := false, lastAt := now } }
          ∧ (full = true → m.mem = s.m.mem)))
    ∧ (∀ i, x.inX = some i → i.step = mStep k → src →
        (first 1 → Completes .mirList s fun m => m.mir' p = { xr with inX := some { i with
          ranges := (i.ranges ++ parseList (n / 16) k.payload).take 4096, lastAt := now } })
        ∧ (first 2 → off + n ≤ i.size → ∀ bad, Completes (.mirData bad) s fun m =>
            m.mir' p = { xr with inX := some { i with bytes := i.bytes + n, wrote := true, lastAt := now } }
            ∧ m.mem = (memWriteBad 2 p 2 false (bufBase x (bufW x) + off) k.payload (badBytes bad n) m1).mem)
        ∧ (first 2 → i.size < off + n → ∀ bad, Does (.mirData bad) s m1)
        ∧ (first 3 → le k.payload 0 8 = i.bytes → Completes .mirEnd s fun m => m.mir' p = { xr with
            inC := some (bufW x, i.step), inCSize := i.size, inX := none, lastRanges := if i.full then none else some i.ranges })
        ∧ (first 3 → le k.payload 0 8 ≠ i.bytes → Does .mirEnd s m1))
    ∧ (∀ kind c bad, (kind, c) ∈ [(1, Instr.mirList), (2, .mirData bad), (3, .mirEnd)] → first kind →
        (¬ src → Completes c s (refused 3)) ∧ (src → x.inX = none → Does c s m1))
    ∧ (first 4 → (src → Completes .mirInput s fun m =>
          m.mir' p = { xr with inputs := (x.inputs ++ [k.payload]).drop (x.inputs.length + 1 - 8) })
        ∧ (¬ src → Completes .mirInput s (refused 3)))
    ∧ (first 5 → (¬ src → Completes .fetch s (refused 3)) ∧ (src → x.inC = none → Completes .fetch s (refused 1))
        ∧ (∀ c, src → x.inC = some c → Completes .fetch s fun m =>
            (m.mir' p).inC = x.inC ∧ (m.mir' p).inputs = x.inputs
            ∧ (x.inputs = [] → let chip := k.hdr.srcChip.toNat; let part := k.hdr.srcPart.toNat
                let y := memRead 2 p 2 false (bufBase x c.1) x.inCSize (mAck k m1)
                m = (mirSend p chip part 8 c.2 0 0 []
                  ((readPieces 0 (y.1, y.2.1)).foldl (fun m z => (mirSendRead p chip part 6 c.2 z.1 z.2 m).2) y.2.2)).2)))
    ∧ (∀ kind c bad, (kind, c) ∈ [(6, Instr.rdata bad), (7, .rresult bad), (8, .rdone)] → first kind → restoreFor p k m1 = none →
        Does c s m1)
    ∧ (∀ r, x.restore = some r → nameIs x.partner k = true → let sh := regionOf v.shard
        (first 6 → off + n ≤ sh.2 → ∀ bad, Completes (.rdata bad) s fun m =>
          m.mir' p = { xr with restore := some { r with bytes := r.bytes + n, lastAt := now } }
          ∧ m.mem = (memWriteBad 2 p 2 false (sh.1 + off) k.payload (badBytes bad n) m1).mem)
        ∧ (first 6 → sh.2 < off + n → ∀ bad, Does (.rdata bad) s m1)
        ∧ (first 7 → (∀ y ∈ r.slots, y.step ≠ mStep k) → r.slots.length < v.depthN → off = 0 → ∀ bad, Completes (.rresult bad) s fun m =>
            let q := { r with bytes := r.bytes + n, lastAt := now, slots := r.slots ++ [parseSlot k.payload (fld k.hdr.aux 48 1 = 1) now] }
            m.mir' p = { xr with restore := some q })
        ∧ (first 8 → v.slots = [] → (∀ y ∈ r.slots, y.st = .failed) → Completes .rdone s fun m =>
            (m.vst' p).committed = mStep k ∧ m.mir' p = { xr with restore := none, outAck := some (mStep k) }
            ∧ (m.vst' p).slots.map (fun y => y.2.step) = r.slots.map (·.step) ∧ ∀ y ∈ (m.vst' p).slots, y.2.st = .failed)))

/-! ### Watchdogs, resets, suspects, notices (chapter 14) -/

/-- Watchdogs (R556 to R561, R570, R571): with nothing under reset, pending or ordered and no escalation, one that fires orders its
domain's reset where AUTO has its level's bit, and leaves it pending and acts on nothing where it has not; an engine that hangs alone
starts a suspect phase of its contexts, the executing one first, and its reset begins. Power cycles (R560, R569, R583): asked for once,
the pin falls 1,024 beats later, and the overdue request is logged every 10 s. Where the rules are silent or can be read in two ways, it
rests on the model's choices of log entries 102, 103. -/
def Obligations.WatchdogsOrderResetsAndPowerCycles : Prop :=
  ∀ s : State, let w := s.m.wdg
    let quiet : Prop := w.running = [] ∧ w.pend = [] ∧ w.ordered = [] ∧ w.escCount = 0 ∧ openSuspect w = none
    let falls (d : Dom) (l : Nat) (m : Module) : Prop :=
      (bit w.auto (l - 1) = true → m.wdg.ordered = [{ dom := d, level := l, cause := 0 }] ∧ m.wdg.pend = [] ∧ m.wdg.running = [])
      ∧ (bit w.auto (l - 1) = false → m.wdg.ordered = [] ∧ m.wdg.pend = [(l, d)] ∧ m.wdg.running = [])
    (quiet →
      (∀ (p : Fin 16) (c : Fin 8) hk, ctxHart s.m p c = some hk → ctxRuns s.m p c (s.m.hart hk) = true → Completes (.ctxHang p c) s fun m =>
        falls (.context p c) 1 m ∧ m.clk = (passTo ((s.m.hart hk).lastProgress + ctxTmo w * 1024) s.m).clk ∧ m.harts = s.m.harts)
      ∧ (∀ (p : Fin 16) t, partDue s.m p = some t → Completes (.partHang p) s fun m =>
        falls (.partition p) 3 m ∧ m.clk = (passTo t s.m).clk ∧ m.harts = s.m.harts)
      ∧ (∀ v : Fin 2, wingUp s.m v = true → Completes (.wingHang v) s fun m => falls (.wing v) 4 m ∧ SameBut ([.wdg] ++ evParts) s.m m)
      ∧ (∀ (c : EngCls) (i : Nat), let e : Eng := { cls := c, idx := i }; let l := engineCtxs s.m (engQ e) i
        i < engCount c → engineRuns s.m c i = true → engOwner s.m e = none →
          (bit w.auto 1 = false → Completes (.engHang c i) s fun m => falls (.engine e) 2 m ∧ m.queues = s.m.queues ∧ m.harts = s.m.harts)
          ∧ (bit w.auto 1 = true → w.phase = false → l ≠ [] → l.length ≤ 32 → Completes (.engHang c i) s fun m =>
              m.wdg.phase = true ∧ m.wdg.hung = [(engQ e, i)] ∧ m.wdg.slotOpen = none
              ∧ (∃ r, m.wdg.running = [r] ∧ r.dom = .engine e ∧ r.level = 2)
              ∧ m.wdg.suspects = l.map (fun x => {
                  verdict := 0, cls := engQ e, unit := i, part := x.1, exec := x.2.2, ctx := x.2.1, exit := false }))))
    ∧ (w.pwrAuto = false → Does .aonWatchdogFire s s.m)
    ∧ (w.pwr = none →
        (w.pwrAuto = true → Completes .aonWatchdogFire s fun m =>
          m.wdg = { w with pwr := some (1, s.m.clk.elapsed) } ∧ SameBut ([.wdg] ++ evParts) s.m m)
        ∧ (w.ordered = [] → Completes .powerCycleRequest s fun m =>
          m.wdg = { w with pwr := some (2, s.m.clk.elapsed) } ∧ SameBut ([.wdg] ++ evParts) s.m m))
    ∧ (∀ cause at_, w.pwr = some (cause, at_) →
        (s.m.tray.pwrcycReqN = true → Completes .pwrcycReqNAssert s fun m =>
          m.tray.pwrcycReqN = false ∧ m.clk = (passTo (at_ + 1024 * 1024) s.m).clk ∧ m.wdg = { w with pwrLog := m.clk.elapsed }
          ∧ (cause = 1 → m.hlt = s.m.hlt) ∧ (cause ≠ 1 → m.hlt.breathNext = 1 - s.m.hlt.breathNext))
        ∧ (s.m.tray.pwrcycReqN = false → Completes .pwrcycOverdue s fun m =>
          m.tray = s.m.tray ∧ m.clk = (passTo (w.pwrLog + 10000000000) s.m).clk ∧ m.wdg = { w with pwrLog := m.clk.elapsed }
          ∧ m.hlt.sram.length = s.m.hlt.sram.length + 1))

/-- Resets (R327, R329, R522, R562 to R567): one that a command asks for, where its target exists and nothing is under reset, is counted
and begins. A context's halts its hart, empties its queues and clears its gates; an engine's empties its queues; a partition's clears
counts, gates and seeds and starts its harts over; a wing's and the chip's start their harts over and leave the slow tier. A reset ends
after its typical duration (log entry 23), and one past its limit is abandoned and escalates. Where the rules are silent or can be read
in two ways, it rests on the model's choices of log entries 23, 90, 99, 100, 101. -/
def Obligations.ResetsActOnTheirDomainsAndEnd : Prop :=
  ∀ s : State, s.m.Inv → let w := s.m.wdg
    let idle : Prop := ∀ x ∈ s.m.mem.tg, x.2.running = false
    let began (d : Dom) (l : Nat) (m : Module) : Prop := m.wdg.running = [{ dom := d, level := l, start := s.m.clk.elapsed }]
      ∧ m.wdg.ordered = [] ∧ m.clk = s.m.clk ∧ m.img = s.m.img
    (w.running = [] → w.ordered = [] → w.escCount = 0 →
      (∀ (p : Fin 16) (c : Fin 8), enabled s.m p = true → Completes (.contextReset p c) s fun m =>
        began (.context p c) 1 m ∧ m.wdg.cntCtx = satAdd w.cntCtx 1
        ∧ (∀ k d, d ∈ queue m k → d.part = p.val → d.ctx = c.val → k.cls = 10 ∧ 16 ≤ k.sub)
        ∧ nget 0 m.gates (p.val * 8 + c.val) = 0 ∧ (∀ j, j ≠ p.val * 8 + c.val → nget 0 m.gates j = nget 0 s.m.gates j)
        ∧ m.mem = s.m.mem ∧ m.gal = s.m.gal
        ∧ ∀ hk, ctxHart s.m p c = some hk → (m.hart hk).run = false ∧ (m.hart hk).on = false ∧ (m.hart hk).wait = none)
      ∧ (∀ (c : EngCls) (i : Nat), domExists s.m (.engine { cls := c, idx := i }) = true → Completes (.engineReset c i) s fun m =>
        began (.engine { cls := c, idx := i }) 2 m ∧ m.wdg.cntEng = satAdd w.cntEng 1 ∧ m.mem = s.m.mem ∧ m.gates = s.m.gates
        ∧ ∀ k : QKey, k.cls = engCode c → k.idx = i → queue m k = [])
      ∧ (∀ p : Fin 16, enabled s.m p = true → Completes (.partitionReset p) s fun m =>
        began (.partition p) 3 m ∧ m.wdg.cntPart = satAdd w.cntPart 1
        ∧ (∀ c, c < 8 → nget 0 m.gates (p.val * 8 + c) = 0 ∧ ∀ cls i, count m p c cls i = 0)
        ∧ (∀ core h, core < 32 → h < 4 → owner s.m 5 core = some p.val →
            { m.hart (4 * core + h) with lastProgress := 0 } = Hart.init)
        ∧ (∀ x ∈ (m.vst' p).slots, liveSt x.2.st = true → x.2.voting = false → x.2.taint = true)
        ∧ m.mem.hall = s.m.mem.hall ∧ m.mem.fast = s.m.mem.fast ∧ m.mem.slow = s.m.mem.slow)
      ∧ (∀ v : Fin 2, Completes (.wingReset v) s fun m =>
        began (.wing v) 4 m ∧ m.wdg.cntWing = satAdd w.cntWing 1 ∧ m.wdg.phase = false ∧ (idle → m.mem.slow = s.m.mem.slow)
        ∧ (∀ i, i < 64 → m.hart (64 * v.val + i) = Hart.init)
        ∧ ∀ x ∈ m.wdg.suspects, 2 ≤ x.verdict)
      ∧ Completes .chipReset s (fun m => began .chip 5 m ∧ m.wdg.cntChip = satAdd w.cntChip 1 ∧ (idle → m.mem.slow = s.m.mem.slow)
        ∧ ∀ i, i < 128 → { m.hart i with lastProgress := 0 } = Hart.init))
    ∧ (∀ (d : Dom) (r : ResetRec), w.running.find? (fun x => x.dom = d) = some r →
        (∀ p c, d ≠ .context p c) →
        Completes (.resetDone d) s (fun m => m.wdg.running = w.running.filter (fun x => x.dom != d)
          ∧ m.clk = (passTo (r.start + resetBeats r.level * 1024) s.m).clk
          ∧ ∀ v, d = .wing v → (m.nwl' v).seeds = (s.m.nwl' (1 - v.val)).seeds ∧ (m.nwl' v).step = (s.m.nwl' (1 - v.val)).step)
        ∧ (w.running = [r] → w.pend = [] → w.ordered = [] → w.escCount = 0 →
            Completes (.resetOverrun d) s fun m => m.clk = (passTo (r.start + resetLimit s.m r.level * 1024) s.m).clk
              ∧ m.wdg.running = []
              ∧ ∀ e p, d = .engine e → engOwner s.m e = some p → p < 16 →
                  (bit w.auto 2 = true → m.wdg.ordered = [{ dom := .partition (Fin.ofNat 16 p), level := 3, cause := 0 }])
                  ∧ (bit w.auto 2 = false → m.wdg.pend = [(3, .partition (Fin.ofNat 16 p))])))

/-- Suspects run again (R572, R573, R577): GAP beats after the gap began the next slot opens, its hart at its WDG_ENTRY address with x11
holding 1; it ends CLEAR when its hart has reached WDG_EXIT with nothing outstanding, and GUILTY after WDG_SLOT.MAX. Slice notices (R580
to R582): a notice leaves with its KIND and ARG, and one written while another waits is ignored and sets BAD_CMD; a received one is
accepted only from a chip that WDG_NOTICE_SRC names, counted otherwise; EXTEND lengthens the running phase timers of its partition,
ABORT ends its operations with error, INFO does nothing. Where the rules are silent or can be read in two ways, it rests on the model's
choice of log entry 104. -/
def Obligations.SuspectSlotsAndSliceNotices : Prop :=
  (
  ∀ s : State, s.m.Inv → let w := s.m.wdg
    (∀ b i x hk, w.gapFrom = some b → nextSuspect w = some (i, x) → w.phase = true → w.slotOpen = none → ctxHart s.m x.part x.ctx = some hk →
      Completes .slotOpen s fun m =>
        m.wdg.slotOpen = some i ∧ m.wdg.gapFrom = none ∧ m.wdg.suspects = w.suspects.set i { x with verdict := 1, exit := false }
        ∧ m.clk = (passToBeat (b + w.slotGap.setWidth 48) s.m).clk ∧ m.wdg.slotAt = m.clk.elapsed
        ∧ (m.hart hk).run = true ∧ (m.hart hk).on = true ∧ (m.hart hk).pc = nget 0 w.entries (8 * x.part + x.ctx)
        ∧ (∀ r, r ≠ 10 → r ≠ 11 → rvGet (m.hart hk) r = 0) ∧ rvGet (m.hart hk) 11 = 1
        ∧ rvGet (m.hart hk) 10 = (if stepOf s.m x.part = noStep then 0xFFFFFFFFFFFFFFFF else (stepOf s.m x.part).setWidth 64))
    ∧ (∀ i x, w.slotOpen = some i → w.suspects[i]? = some x →
        let ends (v : Nat) (m : Module) : Prop := m.wdg.slotOpen = none ∧ m.wdg.suspects = w.suspects.set i { x with verdict := v }
        (x.exit = true → nget 0 s.m.outstanding (8 * x.part + x.ctx) = 0 → Completes .suspectClear s fun m =>
          ends 2 m ∧ m.clk = s.m.clk ∧ (w.phase = true → (m.wdg.phase = true ↔ ∃ y ∈ m.wdg.suspects, y.verdict < 2)))
        ∧ Completes .slotMaxExpiry s (fun m =>
          ends 3 m ∧ m.clk = (passTo (w.slotAt + slotMax w * 1024) s.m).clk ∧ m.gates = s.m.gates
          ∧ ∀ hk, ctxHart s.m x.part x.ctx = some hk → (m.hart hk).run = false ∧ (m.hart hk).on = false)))
  ∧ (
  ∀ s : State, s.m.Inv → let w := s.m.wdg
    (∀ kind c, (kind, c) ∈ [(1, Instr.noticeExtend), (2, .noticeAbort), (3, .noticeInfo)] →
      (noticeWaits s.m = true → Does c s { s.m with wdg := { w with badCmd := true, badCmdAt := instant s.m } })
      ∧ (∀ e, noticeWaits s.m = false → s.m.rte.chipValid = true →
          routeOf s.m.rte.active (fld w.noticeDst 48 12) (fld w.noticeDst 0 13) = some e → e.out = 16 → Completes c s fun m =>
            m.wdg = w ∧ ∃ k : Pkt, m.rte.local_ = s.m.rte.local_ ++ [k] ∧ k.hdr.ty = 0x20 ∧ k.hdr.tc = 0 ∧ k.payload = []
              ∧ fld k.hdr.aux 60 4 = kind ∧ fld k.hdr.aux 0 48 = fld w.noticeArg 0 48
              ∧ k.hdr.slice.toNat = fld w.noticeDst 48 12 ∧ k.hdr.epoch.toNat = fld w.noticeDst 40 8
              ∧ k.hdr.dstPart.toNat = fld w.noticeDst 32 5 ∧ k.hdr.dstChip.toNat = fld w.noticeDst 0 13))
    ∧ (∀ k : Pkt, s.m.rte.accepted.find? (fun x => x.hdr.ty.toNat = 0x20) = some k →
        let p := k.hdr.dstPart.toNat; let kind := fld k.hdr.aux 60 4
        let here := k.hdr.slice ≠ 0xFFF ∧ p < 16 ∧ fld k.hdr.aux 48 12 = 0 ∧ k.payload = [] ∧ noticeFrom w k.hdr.srcChip.toNat = true
        (noticeFrom w k.hdr.srcChip.toNat = false → Completes .notice s fun m =>
          m.wdg = { w with noticeRej := satAdd w.noticeRej 1 } ∧ m.arc = s.m.arc ∧ m.vote = s.m.vote
          ∧ m.rte.accepted = s.m.rte.accepted.erase k)
        ∧ (here → kind = 1 → Completes .notice s fun m => m.wdg = w ∧
            (∀ (a : Fin 2) (o : ArcOp), (s.m.arc' a).op = some o → o.desc.part = p →
              (m.arc' a).op = some { o with limit := o.limit + fld k.hdr.aux 0 32 })
            ∧ ∀ o, nfind s.m.vote.running p = some o →
              m.vote.running = nput s.m.vote.running p { o with limit := o.limit + fld k.hdr.aux 0 32 })
        ∧ (here → kind = 2 → Completes .notice s fun m => ∀ (a : Fin 2) (o : ArcOp), (s.m.arc' a).op = some o →
            (o.desc.part = p → (m.arc' a).op = none ∧ count m p o.desc.ctx 7 a = count s.m p o.desc.ctx 7 a + 1)
            ∧ (o.desc.part ≠ p → (m.arc' a).op = some o))
        ∧ (here → kind = 3 → Completes .notice s fun m => SameBut ([.rte] ++ evParts) s.m m)))

/-! ### Checking, pattern packs, the health log (chapter 15) -/

/-- Balusters and pattern tests (R595, R600 to R604): CHK_SYNC writes CHK_PMIS in the next cycle and completes, or is refused; a LOAD
that fails a check sets its code and leaves the slots, another writes the slot and erases an older pack of its PACK_ID; a START runs or
is REFUSED with a reason and is ignored while a test runs; STOP, the end of the soak and the end of the run set the state they name.
Where the rules are silent or can be read in two ways, it rests on the model's choices of log entries 91, 92, 93, 131. -/
def Obligations.BalustersSyncLoadAndTest : Prop :=
  ∀ (s : State) (w : Fin 2), s.m.Inv → let h := s.m.hlt; let c := s.m.chk' w; let set (x : Chk) := s.m.setChk w x
    (∀ (k : QKey) (d : Desc), chkHead s.m w = some (k, d) →
      let m0 := descStart 11 w d (dequeue k s.m); let m1 := m0.setChk w { m0.chk' w with rr := k.sub }
      Completes (.chkSync w) s fun m =>
        queue m k = (queue s.m k).tail ∧ count m d.part d.ctx 11 w = count s.m d.part d.ctx 11 w + 1
        ∧ (syncAddrOk s.m d = true → m.clk = (passToCycle (s.m.clk.cycle + 1) s.m).clk
          ∧ m.mem = (hallWrite w d.part (gaOff (d.a 16)) (natLe 8 (nget 0 c.pmis d.part).toNat)
              (passToCycle (m1.clk.cycle + 1) m1)).mem)
        ∧ (syncAddrOk s.m d = false → m.clk = s.m.clk ∧ m.mem = s.m.mem))
    ∧ Does (.chkCntClr w) s (set { c with cmp := 0 })
    ∧ (∀ (val : W64) (bs : List Byte), packBytes h ≤ bs.length → let b := slice bs 0 (packBytes h)
        let refused (code : Byte) (m : Module) : Prop := m.hlt.packCode = code ∧ m.hlt.packs = h.packs ∧ m.hlt.packBusy = none
        ((bit val 4 = false ∨ h.packBusy ≠ none) → Does (.packLoad val (.data bs)) s s.m ∧ Does (.packLoad val .error) s s.m)
        ∧ (bit val 4 = true → h.packBusy = none → Completes (.packLoad val .error) s (refused 6)
            ∧ (∀ e, packRefusal s.m (fld val 0 2) b = some e → Completes (.packLoad val (.data bs)) s (refused (BitVec.ofNat 8 e)))
            ∧ (packRefusal s.m (fld val 0 2) b = none → Completes (.packLoad val (.data bs)) s fun m =>
                m.hlt.packs = h.packs ∧ m.hlt.packCode = h.packCode ∧ m.hlt.packBusy = some (fld val 0 2,
                  { id := BitVec.ofNat 64 (le b 0x10 8), ver := BitVec.ofNat 32 (le b 0x18 4), tests := le b 8 2, bytes := b }))))
    ∧ (∀ slot p, h.packBusy = some (slot, p) → Completes .packLoaded s fun m =>
        m.hlt.packBusy = none ∧ nfind m.hlt.packs slot = some p ∧ (∀ y ∈ m.hlt.packs, y.2.id = p.id → y.1 = slot)
        ∧ ∀ y ∈ h.packs, y.2.id ≠ p.id → y.1 ≠ slot → y ∈ m.hlt.packs)
    ∧ (c.run = none → let x : Chk := { c with failTest := 0, temp := 0, reason := 0, notSoaked := false, ptSt := 0 }
        (∀ r, ptRefusal s.m w x = some r → Does (.ptStart w) s (set { x with reason := BitVec.ofNat 3 r, ptSt := 6 }))
        ∧ (ptRefusal s.m w x = none → Completes (.ptStart w) s fun m => let y := m.chk' w
            (∃ r, y.run = some r ∧ r.unit = c.ptUnit.toNat ∧ r.cls = c.ptCls.toNat ∧ r.slot = c.ptSlot.toNat ∧ r.first = c.ptFirst.toNat
              ∧ r.last = c.ptLast.toNat ∧ r.startBeat = beatNow s.m ∧ r.stopping = false ∧ y.ptSt = (if r.soaking then 1 else 2))
            ∧ y.failTest = 0 ∧ y.reason = 0 ∧ y.notSoaked = false ∧ SameBut [.chk] s.m m)
        ∧ Does (.ptStop w) s s.m)
    ∧ (∀ r, c.run = some r →
        Does (.ptStart w) s s.m ∧ Does (.ptStop w) s (set { c with run := some { r with stopping := true } })
        ∧ (∀ temp reached, Does (.soakEnd w temp reached) s
            (set { c with run := some { r with soaking := false }, ptSt := 2, temp := temp, notSoaked := c.notSoaked || !reached }))
        ∧ (∀ o : PtOutcome,
            let x : Chk := { c with run := none, temp := o.temp, notSoaked := c.notSoaked || o.notSoaked }
            let key := healthKey (svcEv r.cls) r.unit
            (∀ i, o.failed = some i → r.first ≤ i → i ≤ r.last → Completes (.patternTestEnd w o) s fun m =>
              m.chk' w = { x with ptSt := 4, failTest := BitVec.ofNat 8 i } ∧ m.pwr = s.m.pwr
              ∧ (m.hlt.unit key).lifeH = (h.unit key).lifeH + 1 ∧ (m.hlt.unit key).pass = (h.unit key).pass)
            ∧ (o.failed = none → r.stopping = true → Completes (.patternTestEnd w o) s fun m =>
              m.chk' w = { x with ptSt := 5 } ∧ m.hlt.units = h.units)
            ∧ (o.failed = none → r.stopping = false → Completes (.patternTestEnd w o) s fun m =>
              m.chk' w = { x with ptSt := 3 } ∧ (m.hlt.unit key).pass = some r.startBeat ∧ (m.hlt.unit key).lifeH = (h.unit key).lifeH)))

/-- The health log and the Corridor (R607, R611 to R617, R646, R647): the oldest sub-window drops out, buffered records go to flash, the
summary is rewritten, the last-breath record goes to the slot not written last when HOLDUP_OK falls or the input is lost, a unit joins
the retired list once while it has room, a thermal cycle counts; a retried flit is counted, and a module removed is lost at both ends.
Where the rules are silent or can be read in two ways, it rests on the model's choices of log entries 94, 95, 97, 121. -/
def Obligations.HealthLogKeepsItsRecords : Prop :=
  ∀ s : State, s.m.Inv → let h := s.m.hlt
    Completes .subWindowEnd s (fun m => m.clk = (passTo (h.subAt + hltWin h / 16 * 1024) s.m).clk ∧ m.hlt.sub = h.sub + 1
        ∧ m.hlt.subAt = m.clk.elapsed ∧ (16 ≤ h.sub + 1 → ∀ u ∈ m.hlt.units, ∀ c ∈ u.2.cells, (h.sub + 1 - 15) * 32 ≤ c.1))
    ∧ Completes .eventRingFlush s (fun m => m.clk = (passTo (h.flushAt + 1024 * 1024) s.m).clk ∧ m.hlt.sram = []
        ∧ m.hlt.flushAt = m.clk.elapsed ∧ (h.ringNext < ringSize → m.hlt.ringNext = (h.ringNext + h.sram.length) % ringSize))
    ∧ Completes .summaryRewrite s (fun m => m.clk = (passTo (h.summaryAt + 3600 * 1000000000) s.m).clk
        ∧ m.hlt = { h with summary := (summaryBytes s.m).take 65536, summaryAt := m.clk.elapsed })
    ∧ Completes .holdupOkFall s (fun m => m.tray = { s.m.tray with holdupOk := false } ∧ m.hlt.breathNext = 1 - h.breathNext
        ∧ m.hlt.breathWhole = true ∧ m.hlt.sram = []
        ∧ (∃ m1, m1.pwr = s.m.pwr ∧ m1.vst = s.m.vst ∧ m1.clk = s.m.clk ∧ m1.hlt.last16 = h.last16
            ∧ nfind m.hlt.breathSlots h.breathNext = some (breathBytes 1 m1))
        ∧ SameBut [.tray, .hlt] s.m m)
    ∧ (∀ tenMv, Completes (.inputLoss tenMv) s fun m =>
        m.tray.p54v = false ∧ m.tray.pwrcycReqN = true ∧ m.tray.thermTripN = true ∧ (∀ v, wingUp m v = false)
        ∧ m.hlt.breathNext = 1 - h.breathNext ∧ m.hlt.sram = [] ∧ (3000 ≤ measuredNow s.m → m.hlt.breathWhole = true))
    ∧ (∀ val : W64, let cls := fld val 16 8; let idx := fld val 0 16
        let there := ∃ x ∈ h.retired, x.1 = cls ∧ x.2.1 = idx
        (h.retired.length < 8192 → ¬ there → Does (.hltRetire val) s
          { s.m with hlt := { h with retired := h.retired ++ [(cls, idx, beatNow s.m)] } })
        ∧ ((8192 ≤ h.retired.length ∨ there) → Does (.hltRetire val) s s.m))
    ∧ Does .thermalCycle s { s.m with hlt := { h with thermal := satAdd h.thermal 1 } }
    ∧ (∀ (w : Fin 2) (k : Fin 8), let c := s.m.cor' w; let off := ~~~(BitVec.ofNat 8 (2 ^ k.val))
        (c.seen.contains (k.val, window s.m) = true → Does (.crcRetry w k) s (s.m.setCor w { c with retry := c.retry + 1 }))
        ∧ (c.seen.contains (k.val, window s.m) = false → Completes (.crcRetry w k) s fun m =>
            (m.cor' w).retry = c.retry + 1 ∧ (m.cor' w).seen.contains (k.val, window s.m) = true ∧ m.cor' (1 - w.val) = s.m.cor' (1 - w.val)
            ∧ (m.hlt.unit (healthKey 0x0F k)).lifeC = (h.unit (healthKey 0x0F k)).lifeC + 1)
        ∧ (bit c.status k = true → Completes (.moduleDown w k) s fun m =>
            (∀ v : Fin 2, m.cor' v = { s.m.cor' v with status := (s.m.cor' v).status &&& off })
            ∧ (m.hlt.unit (healthKey 0x0F k)).lifeH = (h.unit (healthKey 0x0F k)).lifeH + 1))

/-! ### Power, throttles, calibration (chapter 16) -/

/-- Throttles and points (R631, R635 to R637, R650): a reason starts at its first level and rises and falls in its steps; reason 6
counts each guard-band alarm and rises with it; a reason that ends is logged with its deepest level, its start and its length; a change
of point completes when it falls due. Levels are kept to what the log entry holds. Temperature, calibration and the hold-up store (R638,
R643 to R648): THERM_WARN keeps the reading, THERM_TRIP also drops THERM_TRIP_N; CAL_DUE sets its bit; a recalibration ends 64 beats
after it began and gives its point a voltage that is not LIGHT; HOLDUP_LOW and HOLDUP_DISAGREE leave the measured voltage trusted, the
second counted. Where the rules are silent or can be read in two ways, it rests on the model's choices of log entries 106, 108, 109,
110, 111. -/
def Obligations.ThrottlesCalibrationAndHoldUp : Prop :=
  (
  ∀ s : State, let x := s.m.pwr
    (∀ reason : Fin 6, let r := reason.val + 1; let y := x.reason r
      (r < 5 → y.active = false → (r = 4 → x.trayLimit ≠ 0) → Completes (.throttle reason) s fun m => let z := m.pwr.reason r
        z.active = true ∧ z.level = (if r = 2 then 2 else 1) ∧ z.deepest = z.level ∧ z.start = beatNow s.m ∧ m.pwr.guard = x.guard
        ∧ m.pwr.op = x.op ∧ m.clk = s.m.clk)
      ∧ (r = 6 → Completes (.throttle reason) s fun m => let z := m.pwr.reason r
        z.active = true ∧ z.level = (if y.active then min 255 (y.level + 1) else 1) ∧ m.pwr.guard = satAdd x.guard 1 ∧ m.clk = s.m.clk)
      ∧ (r < 5 → y.active = true →
        Completes (.throttleLevelChange reason true) s (fun m => let z := m.pwr.reason r
          z.level = min 255 (y.level + if r = 2 then 2 else 1) ∧ z.active = true ∧ z.deepest = max z.level y.deepest
          ∧ m.clk = (passTo (y.lastStep + (if r ≤ 2 then 1 else 16) * 1024) s.m).clk ∧ z.lastStep = m.clk.elapsed)
        ∧ (1 < y.level → Completes (.throttleLevelChange reason false) s fun m => let z := m.pwr.reason r
          z.level = min 255 (y.level - 1) ∧ z.active = true ∧ z.start = y.start
          ∧ m.clk = (passTo (y.lastStep + (if r ≤ 2 then 16 else 64) * 1024) s.m).clk))
      ∧ (r ≠ 5 → y.active = true → (r ≤ 4 → y.level ≤ 1) → rising x.reasons = true → Completes (.throttleEnd reason) s fun m =>
        let z := m.pwr.reason r
        z.active = false ∧ z.level = 0 ∧ m.pwr.thrHead = x.thrHead + 1
        ∧ nfind m.pwr.thrLog (x.thrHead % 256)
          = some (pack [(r, 60), (min 255 y.deepest, 52), (y.start.toNat, 0)], (beatNow m - y.start).setWidth 64)))
    ∧ (∀ c, x.change = some c → Completes .opChanged s fun m =>
        m.pwr = { x with clockOp := c.op, change := none } ∧ m.clk = (passTo c.due s.m).clk))
  ∧ (
  ∀ s : State, let x := s.m.pwr
    (∀ temp : BitVec 8,
      (105 ≤ temp.toInt → Completes (.thermWarn temp) s fun m => m.pwr = { x with temp := temp } ∧ SameBut ([.pwr] ++ evParts) s.m m)
      ∧ (110 ≤ temp.toInt → Completes (.thermTrip temp) s fun m =>
          m.pwr = { x with temp := temp, therm := true } ∧ m.tray.thermTripN = false ∧ SameBut ([.pwr] ++ evParts) s.m m))
    ∧ (x.calDue = false → (lightNow s.m = true ∨ eqDue s.m ≠ 0) → Completes .calDue s fun m =>
        m.pwr = { x with calDue := true, loadBand := 3 } ∧ SameBut ([.pwr] ++ evParts) s.m m)
    ∧ (∀ t minMv band, x.recal = some t → Completes (.recalDone minMv band) s fun m =>
        m.clk = (passTo (t + 64 * 1024) s.m).clk ∧ m.pwr.recal = none ∧ m.pwr.loadBand = band.toNat ∧ m.pwr.op = x.op
        ∧ nfind m.pwr.cal x.op = some (minMv, band, false)
        ∧ (eqDue s.m = 0 → m.pwr.calDue = false) ∧ (eqDue s.m ≠ 0 → m.pwr.calDue = x.calDue))
    ∧ (∀ tenMv : BitVec 16, tenMv.toNat < 3000 → Completes (.holdupLow tenMv) s fun m =>
        m.pwr = { x with derived := BitVec.ofNat 16 (derivedNow s.m), measured := tenMv, measuredAt := s.m.clk.elapsed }
        ∧ measuredNow m = tenMv.toNat ∧ SameBut ([.pwr] ++ evParts) s.m m)
    ∧ (∀ a b : BitVec 16, 200 < max a.toNat b.toNat - min a.toNat b.toNat → Completes (.holdupDisagree a b) s fun m =>
        m.pwr = { x with derived := b, measured := b, measuredAt := s.m.clk.elapsed, disagree := satAdd x.disagree 1 }
        ∧ SameBut ([.pwr] ++ evParts) s.m m))

/-! ### Security and the host link (chapters 17 and 18) -/

/-- The lock and the keys (R655 to R657, R666, R667, R673, R674, R678, R736): SEC_LOCK is refused with the lowest code whose condition
holds, or sets the lock, discards the trace buffer and resumes the harts halted at breakpoints; ENROL and REVOKE do their work or are
refused with their codes; a slice key joins the held ones unless its epoch is held or a swap is armed; a checkpoint key is held or
cleared. Where the rules are silent or can be read in two ways, it rests on the model's choice of log entry 112. -/
def Obligations.LockAndKeysFollowTheirRules : Prop :=
  ∀ s : State, s.m.Inv → let x := s.m.sec
    let refused (code : Byte) (m : Module) : Prop := m.sec = { x with keyStatus := code } ∧ SameBut ([.sec] ++ evParts) s.m m
    (x.locked = true → Does .secLock s s.m)
    ∧ (x.locked = false →
        (∀ c, lockRefusal s.m = some c → Completes .secLock s fun m =>
          m.sec = { x with refusal := BitVec.ofNat 8 c } ∧ SameBut ([.sec] ++ evParts) s.m m)
        ∧ (lockRefusal s.m = none → Completes .secLock s fun m =>
            m.sec = { x with locked := true } ∧ m.dbg.buffer = [] ∧ m.dbg.lost = satAdd s.m.dbg.lost s.m.dbg.buffer.length
            ∧ (∀ k, (m.hart k).bpHalt = false ∧ ((s.m.hart k).bpHalt = false → m.hart k = s.m.hart k))
            ∧ SameBut ([.sec, .harts] ++ evParts) s.m m))
    ∧ (∀ val : W64, let i := fld val 0 3; let k := keyBytes s.m; let slot := keySlot s.m i
        let held := slot.st = 1; let point := onCurve (beNat (k.take 48)) (beNat (k.drop 48)) = true; let gone := sha384 k ∈ x.revoked
        (held → Completes (.enrol val) s (refused 1))
        ∧ (¬ held → x.locked = true → Completes (.enrol val) s (refused 2))
        ∧ (¬ held → x.locked = false → ¬ point → Completes (.enrol val) s (refused 3))
        ∧ (¬ held → x.locked = false → point → gone → Completes (.enrol val) s (refused 4))
        ∧ (¬ held → x.locked = false → point → ¬ gone → Completes (.enrol val) s fun m =>
            m.sec = { x with keySlots := nput x.keySlots i { key := k, use := BitVec.ofNat 2 (fld val 8 2), st := 1 } }
            ∧ SameBut ([.sec] ++ evParts) s.m m)
        ∧ (¬ held → Completes (.revoke val) s (refused 5))
        ∧ (held → 64 ≤ x.revoked.length → Completes (.revoke val) s (refused 6))
        ∧ (held → x.revoked.length < 64 → Completes (.revoke val) s fun m =>
            m.sec = { x with keySlots := nput x.keySlots i { slot with st := 2 }, revoked := x.revoked ++ [sha384 slot.key] }
            ∧ SameBut ([.sec] ++ evParts) s.m m))
    ∧ (∀ (val : W64) (t : Struct), s.m.img.active = some t → let ep : Byte := BitVec.ofNat 8 (fld val 0 8)
        (t.slices[fld val 16 4]? = none → Does (.skeyLoad val) s s.m)
        ∧ ∀ e, t.slices[fld val 16 4]? = some e → let held := ∃ k ∈ x.skeys, k.slice = e.slice ∧ k.epoch = ep
            ((held ∨ s.m.rte.st = .armed) → Completes (.skeyLoad val) s fun m => m.sec.skeys = x.skeys ∧ m.sec.skeyStatus ≠ 0
              ∧ SameBut [.sec] s.m m)
            ∧ (¬ held → s.m.rte.st ≠ .armed → Completes (.skeyLoad val) s fun m => SameBut [.sec] s.m m
              ∧ (∃ k ∈ m.sec.skeys, k.slice = e.slice ∧ k.epoch = ep ∧ k.key = wordsBytes x.skeyData ∧ k.counter = 0)
              ∧ (∀ k ∈ x.skeys, (k.slice ≠ e.slice ∨ k.epoch = curEpoch s.m e.slice) → k ∈ m.sec.skeys)
              ∧ (m.sec.skeys.length ≤ x.skeys.length + 1)))
    ∧ (∀ p : Fin 16, Does (.ckeyLoad p) s { s.m with sec := { x with ckeys := nput x.ckeys p (wordsBytes x.ckeyData) } }
        ∧ Completes (.ckeyClear p) s fun m => nfind m.sec.ckeys p = none ∧ (∀ q, q ≠ p.val → nfind m.sec.ckeys q = nfind x.ckeys q)
            ∧ SameBut [.sec] s.m m)

/-- Attestation and link encryption (R670 to R672, R711): a measurement block answers with its bytes, a request of another version is
not answered, other requests of SPDM 1.2 are answered (codes and bodies beyond R672: log entry 25, PRESUMED); a stream's key turns it on
or off, and a failed stream leaves its secure state. The host link (R691, R700 to R702, R711): configuration requests are retried in
KERDUN and AON and served later; PERST_N falling drops the link and the functions' state; a Function Level Reset resets its function
and, of a virtual function, orders its partition's reset; the link comes up and goes down as it is told. Where the rules are silent or
can be read in two ways, it rests on the model's choices of log entries 25, 113, 125, 128, 173. -/
def Obligations.RequestersAndHostLink : Prop :=
  (
  ∀ s : State,
    (∀ (fn : Option Fn) (i : Byte), 1 ≤ i.toNat → i.toNat ≤ 8 →
      Does (.getMeasurements fn i) s { s.m with out := .spdm fn 0x60 (measurement s.m (fnPart fn) i.toNat) :: s.m.out })
    ∧ (∀ (fn : Option Fn) (i : Byte), Completes (.getMeasurements fn i) s fun m =>
        SameBut [.out] s.m m ∧ ∃ code body, m.out = .spdm fn code body :: s.m.out)
    ∧ (∀ (fn : Option Fn) (v code : Byte) (body : List Byte),
        (v ≠ 0x12 → Does (.spdmRequest fn v code body) s s.m)
        ∧ (v = 0x12 → code = 0xE0 → exec (.spdmRequest fn v code body) s = exec (.getMeasurements fn (BitVec.ofNat 8 (le body 1 1))) s)
        ∧ (v = 0x12 → code ≠ 0xE0 → Completes (.spdmRequest fn v code body) s fun m => SameBut [.mem, .out] s.m m
            ∧ m.mem = { s.m.mem with freeCount := m.mem.freeCount }
            ∧ ∃ b, m.out = .spdm fn (if code.toNat ∈ spdmCodes then code &&& 0x7F else 0x7F) b :: s.m.out))
    ∧ (∀ (n : Fin 9) (key : List Byte), key.length = 32 →
        (∀ on, Completes (.ideKm n key on) s fun m => bit m.pci.ide n = on ∧ (∀ j, j ≠ n.val → bit m.pci.ide j = bit s.m.pci.ide j)
          ∧ (on = true → nfind m.pci.ideKeys n = some key) ∧ (on = false → nfind m.pci.ideKeys n = none) ∧ SameBut [.pci] s.m m))
    ∧ (∀ n : Fin 9, bit s.m.pci.ide n = true → Completes (.ideFail n) s fun m =>
        bit m.pci.ide n = false ∧ (∀ j, j ≠ n.val → bit m.pci.ide j = bit s.m.pci.ide j) ∧ SameBut evParts s.m m))
  ∧ (
  ∀ s : State, s.m.Inv → let x := s.m.pci; let t := s.m.tray
    (wingsReached x = false → Does .configurationRequest s { s.m with out := .config false :: s.m.out })
    ∧ (wingsReached x = true → t.perstN = true → Does .configurationRequest s
        { s.m with pci := { x with vfOn := 0xFFFF }, out := .config true :: s.m.out })
    ∧ (t.perstN = true → Completes .perstNFall s fun m =>
        m.tray.perstN = false ∧ m.pci.vfOn = 0 ∧ m.pci.ide = 0 ∧ m.pci.linkUp = false ∧ (∀ f, (m.evr' f).enable = false)
        ∧ (s.m.img.st = .staging → m.img.st = .failed ∧ m.img.lastCode = 1) ∧ (s.m.img.st ≠ .staging → m.img = s.m.img))
    ∧ (t.perstN = false → Does .perstNRise s { s.m with tray := { t with perstN := true } })
    ∧ (∀ p : Fin 16, s.m.wdg.running = [] → s.m.wdg.ordered = [] → s.m.wdg.escCount = 0 → Completes (.vfFlr p) s fun m =>
        m.evr' (p.val + 1) = Evr.init ∧ m.wdg = { s.m.wdg with ordered := [{ dom := .partition p, level := 3, cause := 2 }] }
        ∧ (∀ f, f ≠ p.val + 1 → m.evr' f = s.m.evr' f) ∧ SameBut [.wdg, .pci] s.m m)
    ∧ Completes .pfFlr s (fun m => m.evr' 0 = Evr.init ∧ m.pci.vfOn = 0 ∧ m.pci.ide = 0 ∧ (∀ f, f ≠ 0 → m.evr' f = s.m.evr' f) ∧ SameBut [.pci] s.m m)
    ∧ (∀ (w r : Byte) (flit : Bool), linkOk w r = true → t.perstN = true → Completes (.linkUp w r flit) s fun m =>
        m.pci.linkUp = true ∧ m.pci.width = w ∧ m.pci.rate = r ∧ m.pci.flit = flit ∧ SameBut evParts s.m m)
    ∧ (x.linkUp = true → Completes .linkDown s fun m => m.pci.linkUp = false ∧ m.pci.width = 0 ∧ m.pci.rate = 0
        ∧ SameBut evParts s.m m))

/-- Start-up (R20, R611, R643, R673, R683 to R695): power good puts everything at its reset value but what is fused or in flash; each
stage's end enters the next, a stage past its limit fails, and the strap's later changes are flagged. In what a power cycle keeps, the
health log's totals are as log entry 121 has them. Where the rules are silent or can be read in two ways, it rests on the model's
choices of log entries 120, 121, 122, 123. -/
def Obligations.StartUpGoesThroughItsStages : Prop :=
  ∀ s : State, let x := s.m.pci; let n := x.stage
    let enters (k : Nat) (m : Module) : Prop := m.pci.stage = k ∧ m.pci.stageAt = s.m.clk.elapsed
    (∀ slot : BitVec 4, Completes (.powerGood slot) s fun m =>
        m.fused = s.m.fused ∧ m.pci.stage = 1 ∧ m.pci.slotId = slot ∧ m.pci.slotValid = decide (slot.toNat ≤ 8)
        ∧ m.sec = { Sec.init with keySlots := s.m.sec.keySlots, revoked := s.m.sec.revoked }
        ∧ m.hlt.ring = s.m.hlt.ring ∧ m.hlt.retired = s.m.hlt.retired ∧ m.hlt.packs = s.m.hlt.packs
        ∧ m.hlt.powerOns = s.m.hlt.powerOns + 1
        ∧ (∀ p, p ∈ [Part.clk, .img, .beat, .queues, .counts, .gates, .outstanding, .harts, .cores, .gal, .bal, .ris, .win, .lnd, .nwl,
            .flt, .port, .rte, .arc, .vote, .vst, .mir, .wdg, .chk, .cor, .pwr, .jtag] → p.Same Module.init m)
        ∧ m.mem.caches = [] ∧ m.mem.hall.cells = [] ∧ m.mem.fast.cells = [] ∧ m.mem.slow.cells = [])
    ∧ (n = 1 → (∀ copyB digest ver, digest.length = 48 → Completes (.firmwareVerified copyB digest ver) s fun m =>
          enters 2 m ∧ m.pci.copyB = copyB ∧ m.pci.fwDigest = digest ∧ m.pci.fwVersion = ver ∧ SameBut [.pci, .port] s.m m)
        ∧ Completes .firmwareCopiesFail s (fun m => enters 15 m ∧ m.pci.failStage = 1 ∧ SameBut evParts s.m m))
    ∧ (n = 2 → Does .aonComplete s { s.m with pci := { x with stage := 3, stageAt := s.m.clk.elapsed } })
    ∧ (n = 3 → Completes .wingRailsUp s (fun m => m.pci.stage = 3 ∧ nget false m.pci.wingOut 0 = true ∧ nget false m.pci.wingOut 1 = true
          ∧ m.tray.holdupOk = true ∧ m.clk = (passTo (storeReadyAt s.m) s.m).clk)
        ∧ (nget false x.wingOut 0 = true → nget false x.wingOut 1 = true → Completes .wingsOutOfReset s fun m => enters 4 m
          ∧ ∀ o, o < 8 → ∃ v : BitVec 16, nfind m.pwr.cal o = some (v, 0, true)))
    ∧ (n = 5 → ∀ failed : List (Fin 2 × Nat), (∀ f ∈ failed, f.2 < clsCount (7 + f.1.val)) →
        Completes (.memTrainComplete failed) s fun m => let l := failed.map (fun f => (7 + f.1.val, f.2))
          enters 6 m ∧ m.mem.badUnits = l ∧ (∀ u ∈ m.sec.scrub, u ∈ s.m.sec.scrub ∧ u ∉ l)
          ∧ (m.pci.degraded = true ↔ x.degraded = true ∨ failed ≠ []))
    ∧ (n = 6 → ∀ failed : List (Nat × Nat), (∀ f ∈ failed, f.2 < clsCount f.1) → Completes (.bistComplete failed) s fun m =>
        enters 7 m ∧ m.sec = { s.m.sec with scrubAt := s.m.clk.elapsed } ∧ (m.pci.degraded = true ↔ x.degraded = true ∨ failed ≠ [])
        ∧ (x.bistFail.length + failed.length ≤ 32 → m.pci.bistFail = x.bistFail ++ failed))
    ∧ (∀ t, stageLimit n = some t → Completes .stageFail s fun m =>
        m.pci.stage = 15 ∧ m.pci.failStage = n ∧ m.clk = (passTo (x.stageAt + t) s.m).clk)
    ∧ (∀ slot, (slot = x.slotId → Does (.slotIdChange slot) s s.m)
        ∧ (slot ≠ x.slotId → Does (.slotIdChange slot) s { s.m with pci := { x with slotChanged := true, slotChangedAt := instant s.m } }))

/-! ### Event rings, sideband, telemetry, trace, JTAG (chapters 18 and 19) -/

/-- Event rings and the tray SPI (R704 to R709): a write of EVR_HEAD takes force, and the record of what was lost goes first once the
ring has room; a coalescing interval that ends signals the records written in it; a read frame carries TRAY_ALERT and the registers, a
write frame writes its words, short, excess and bad frames are counted. Where the rules are silent or can be read in two ways, it rests
on the model's choices of log entries 126, 128. -/
def Obligations.RingsAndTraySpiFramesAct : Prop :=
  ∀ s : State, s.m.Inv → let t := s.m.tray; let head := t.alert.setWidth 32
    let short : Module := { s.m with
      tray := { t with errShort := satAdd t.errShort 1 }, pci := { s.m.pci with spiShort := s.m.pci.spiShort + 1 } }
    let bad : Module := { s.m with pci := { s.m.pci with spiBad := s.m.pci.spiBad + 1 }, out := .miso [head] :: s.m.out }
    (∀ fn : Fn, let f := ringOf fn; let r := s.m.evr' f
      (∀ val : W64, let r1 : Evr := { r with head := val.setWidth 32 }
        ((r.lostSince = 0 ∨ r1.room = false) → Does (.evrHeadWrite fn val) s (s.m.setEvr f r1))
        ∧ (0 < r.lostSince → r1.room = true → Completes (.evrHeadWrite fn val) s fun m =>
            (m.evr' f).head = val.setWidth 32 ∧ (m.evr' f).lostSince = 0 ∧ (m.evr' f).tail = r.tail + 1
            ∧ (∃ i e, .record fn i e ∈ m.out) ∧ SameBut [.pci, .out] s.m m))
      ∧ (∀ t0, r.lastSig = some t0 → r.unsig = true → Completes (.msixCoalesceEnd fn) s fun m =>
          m.clk = (passTo (t0 + r.mod_.toNat * 1024) s.m).clk ∧ m.evr' f = { r with unsig := false, lastSig := some m.clk.elapsed }
          ∧ .msix fn 0 ∈ m.out))
    ∧ (∀ cmd : W32, spiReserved cmd = true →
        Does (.traySpiBadcmd cmd) s bad ∧ (∀ bits, 32 ≤ bits → Does (.traySpiRead cmd bits) s bad)
        ∧ ∀ ws bits, 32 ≤ bits → spiData cmd bits ≤ ws.length → Does (.traySpiWrite cmd ws bits) s bad)
    ∧ (∀ (cmd : W32) (ws : List W32) (bits : Nat), bits < 32 → spiData cmd bits ≤ ws.length →
        (bits = 0 → Does (.traySpiRead cmd bits) s s.m ∧ Does (.traySpiWrite cmd ws bits) s s.m)
        ∧ (bits ≠ 0 → Does (.traySpiRead cmd bits) s short ∧ Does (.traySpiWrite cmd ws bits) s short))
    ∧ (∀ (cmd : W32) (bits : Nat), spiReserved cmd = false → fld cmd 30 2 = 0 → 32 ≤ bits → Completes (.traySpiRead cmd bits) s fun m =>
        (∃ l, m.out = .miso (head :: l) :: s.m.out ∧ l.length = bits / 32 - 1
          ∧ ∀ i, i < spiData cmd bits → spiAddr cmd i ≠ 5 → spiAddr cmd i ≠ 6 → l[i]? = some (trayRead (spiAddr cmd i) s.m).1)
        ∧ (bits = 32 * (1 + spiWords cmd) → m.pci = s.m.pci ∧ m.tray.alert = t.alert)
        ∧ (32 * (1 + spiWords cmd) < bits → m.tray.errExcess = satAdd t.errExcess 1 ∧ m.tray.alert = t.alert ||| 0x100))
    ∧ (∀ (cmd v : W32), spiReserved cmd = false → fld cmd 30 2 = 1 → spiWords cmd = 1 → let a := spiAddr cmd 0
        Completes (.traySpiWrite cmd [v] 64) s fun m => m.out = .miso [head, 0] :: s.m.out
          ∧ m.tray.alert = (if a = 2 then t.alert &&& (~~~(v.setWidth 10) ||| alertHeld s.m) else t.alert)
          ∧ m.tray.alertEn = (if a = 3 then v &&& 0x3FF else t.alertEn)
          ∧ m.pwr = (if a = 4 then { s.m.pwr with trayLimit := BitVec.ofNat 11 (fld v 0 11) } else s.m.pwr)
          ∧ SameBut [.tray, .pwr, .out] s.m m)

/-- The management bus (R710, R712): a vendor read answers with the register, a vendor write acts on the tray limit and on the BEAT, NUT
and RTE blocks and is refused elsewhere; an address is assigned; PCI_CNT_CLR zeroes its counters. JTAG (R657, R737, R738): EXTEST and
SAMPLE/PRELOAD scan the boundary (the cells capture free values, log entry 4), IDCODE shifts the device's code, DBGACC shifts out the
last read and reads or writes a register, and acts as BYPASS under the lock. Where the rules are silent or can be read in two ways, it
rests on the model's choices of log entries 4, 33, 127. -/
def Obligations.ManagementBusAndJtagAct : Prop :=
  (
  ∀ s : State,
    (∀ off, off < barSize .pf → Does (.vendorRead off) s
      (let r := fnRead .pf off 8 s.m; { r.2 with out := .vendorReply r.1 false :: r.2.out }))
    ∧ (∀ off (val : W64), Does (.vendorWrite off val true) s { s.m with
        pwr := { s.m.pwr with trayLimit := BitVec.ofNat 11 (fld val 0 11) }, out := .vendorReply 0 false :: s.m.out })
    ∧ (∀ off val, off < barSize .pf → managerBlk off = false →
        Does (.vendorWrite off val false) s { s.m with out := .vendorReply 0 true :: s.m.out })
    ∧ (∀ off val, off < barSize .pf → managerBlk off = true → Does (.vendorWrite off val false) s
        (let m := fnWrite .pf off 8 val s.m; { m with out := .vendorReply 0 false :: m.out }))
    ∧ (∀ addr, Does (.dynamicAddressAssignment addr) s { s.m with tray := { s.m.tray with dynAddr := some addr } })
    ∧ Does .pciCntClr s { s.m with pci := { s.m.pci with
        unmappedR := 0, unmappedW := 0, vfDenied := 0, spiShort := 0, spiExcess := 0, spiBad := 0 } })
  ∧ (
  ∀ s : State, let j := s.m.jtag
    let bypass (code : Byte) : Module := { s.m with jtag := { j with ir := code }, out := .jtag 0 :: s.m.out }
    (∀ c ir, (c, ir) ∈ [(Instr.extest, (0 : Byte)), (.samplePreload, 2)] → Completes c s fun m => ∃ v : W64,
      m = { s.m with jtag := { j with ir := ir, boundary := v }, out := .jtag (v.setWidth 96) :: s.m.out,
                     mem := { s.m.mem with freeCount := s.m.mem.freeCount + 1 } })
    ∧ Does .idcode s { s.m with jtag := { j with ir := 1 }, out := .jtag 0x10009B6F :: s.m.out }
    ∧ (∀ dr : BitVec 96, let off := fld dr 64 28
        let m1 : Module := { s.m with jtag := { j with ir := 0x20 }, out := .jtag j.dr :: s.m.out }
        (s.m.sec.locked = true → Does (.dbgacc dr) s (bypass 0x20))
        ∧ (s.m.sec.locked = false →
            (fld dr 92 2 = 1 → let r := fnRead .pf off 8 m1
              Does (.dbgacc dr) s { r.2 with jtag := { r.2.jtag with dr := r.1.setWidth 96 } })
            ∧ (fld dr 92 2 = 2 → Does (.dbgacc dr) s (fnWrite .pf off 8 (dr.setWidth 64) m1))
            ∧ (fld dr 92 2 = 0 ∨ fld dr 92 2 = 3 → Does (.dbgacc dr) s m1)))
    ∧ (∀ code : Byte, code.toNat ∉ [0x00, 0x01, 0x02, 0x20] → Does (.bypass code) s (bypass code)))

/-- Telemetry and trace (R717, R720 to R725, R728, R729): an accepted request is answered and any other counted; a snapshot leaves at
its beat; a LOST record enters once there is room; PC samples fall at their cycle; the Kerdun port changes the sink; a dump is refused
with its code or runs and ends; DBG_AON_CLR clears its counters and is ignored under the lock. Where the rules are silent or can be read
in two ways, it rests on the model's choices of log entries 139, 140, 141. -/
def Obligations.TelemetryTraceAndDumpsAct : Prop :=
  ∀ s : State, s.m.Inv → let d := s.m.dbg
    (∀ k : Pkt, s.m.rte.accepted.find? (fun x => x.hdr.ty.toNat = 0x29) = some k →
      let m1 : Module := { s.m with rte := { s.m.rte with accepted := s.m.rte.accepted.erase k } }
      let port := fld k.hdr.aux 8 4; let chip := k.hdr.srcChip.toNat; let tag := k.hdr.tag.toNat
      (telOk k s.m = false → Completes .telemetry s fun m =>
        m.dbg.telRej = satAdd d.telRej 1 ∧ m.rte = m1.rte ∧ m.port = s.m.port ∧ SameBut ([.rte] ++ evParts) s.m m)
      ∧ (telOk k s.m = true → fld k.hdr.aux 0 8 = 2 → Does .telemetry s (sendTelemetry 2 port chip tag (cmapPayload s.m port) m1))
      ∧ (telOk k s.m = true → fld k.hdr.aux 0 8 = 4 → Does .telemetry s (sendTelemetry 4 0 chip tag (snapshotPayload s.m) m1)))
    ∧ (bit d.telCtrl 63 = true → Completes .snapshotPeriod s fun m =>
        let b := nextMultiple (snapBeats s.m) d.snapBeat s.m
        m.dbg.snapBeat = some b ∧ m.clk = (passToBeat b s.m).clk)
    ∧ (d.lostNow ≠ 0 → d.buffer.length < traceCap → Completes .lostRecordEntry s fun m =>
        m.dbg = { d with lostNow := 0, buffer := d.buffer ++ [traceRecord 7 (min d.lostNow (2 ^ 32 - 1)) 31 0 0 s.m] }
        ∧ SameBut [.dbg] s.m m)
    ∧ (capturing s.m = true → bit d.kinds 4 = true → d.pcPer ≠ 0 → Completes .pcSample s fun m =>
        m.clk = (passToCycle (d.pcAt + d.pcPer.toNat * 1024) s.m).clk ∧ m.dbg.pcAt = m.clk.cycle ∧ m.harts = s.m.harts)
    ∧ (∀ up : Bool, Completes (if up then .kportUp else .kportDown) s fun m =>
        m.dbg.kport = up ∧ m.dbg.sinkNow = sinkFor m ∧ SameBut evParts s.m m)
    ∧ (∀ c, dumpRefusal s.m = some c → Completes .dump s fun m => m.dbg.dumpRun = d.dumpRun ∧ SameBut evParts s.m m)
    ∧ (dumpRefusal s.m = none → Does .dump s
        { s.m with dbg := { d with dumpRun := some (d.dumpAddr, d.dumpFirst.toNat, d.dumpCount.toNat) } })
    ∧ (∀ a first n tier base size, d.dumpRun = some (a, first, n) → traceRegion s.m = some (tier, base, size) →
        Completes .dumpDone s fun m => m.dbg.dumpRun = none ∧ m.harts = s.m.harts
          ∧ (0 < n → .hostWrite a (sectorBytes 16 tier (base + 32 * first) (base + 32 * first) s.m).1 ∈ m.out))
    ∧ (s.m.sec.locked = true → Completes .dbgAonClr s fun m => m.sec.lkIgn = satAdd s.m.sec.lkIgn 1 ∧ m.dbg.pDesc = d.pDesc
        ∧ SameBut ([.sec] ++ evParts) s.m m)
    ∧ (s.m.sec.locked = false → Completes .dbgAonClr s fun m => SameBut [.dbg] s.m m
        ∧ (∀ i, nget 0 m.dbg.evtSev i = 0) ∧ ∀ p i, i ≠ 5 → partCounter m p i = 0)

/-! ### Frames -/

/-- The frame of every command: when it answers a next state, every part of the hardware but those that `touches` names for it is as it
was. POWER_GOOD keeps no part but what is fused. And where a command completes: with operands that can come to the module, each answers a
next state in every state in which it is `due`, and in the others it is refused by name; no command ends in any other way. -/
def Obligations.EveryCommandKeepsTheRest : Prop :=
  (∀ c : Instr, Frame c (touches c))
  ∧ ∀ (c : Instr) (s : State), c.wellFormed = true →
      (due c s → Completes c s fun m => SameBut (touches c) s.m m) ∧ (¬ due c s → ∃ row, exec c s = .refused (.notDue row))

/-! ### The whole block -/

/-- A step takes the command at the front of the queue, and only it: it is that command's effect with the rest of the queue waiting; a
command never touches the commands that wait. On an empty queue the block lets time pass (the model's choice: log entry 29). -/
def Obligations.StepTakesTheFrontCommand : Prop :=
  (∀ (s : State) (c : Instr), step { s with pending := c :: s.pending } = exec c s)
  ∧ (∀ (s : State) (c : Instr) (rest : List Instr), s.pending = c :: rest → step s = exec c { s with pending := rest })
  ∧ (∀ (s t : State) (c : Instr), exec c s = .next t → t.pending = s.pending)
  ∧ ∀ s : State, s.pending = [] → ∃ m, step s = .next { s with m := m } ∧ m.clk = (pass 1 s.m).clk

/-- A command whose operands can name nothing that comes to the module is refused as ill-formed, whatever the state (the operands that
make no command are the model's choice: log entry 5). -/
def Obligations.IllFormedCommandsAreRefused : Prop :=
  ∀ (c : Instr) (s : State), c.wellFormed = false → exec c s = .refused .illFormed

/-- The state after reset: no command waits, every map and memory is canonical, no structure is in force, the security lock is clear,
and the module is in its first start-up stage (R20, R655, R689; log entry 120). -/
def Obligations.ResetIsCanonicalAndIdle : Prop :=
  State.reset.pending = [] ∧ State.reset.m.Inv ∧ State.reset.queueWf = true ∧ State.reset.m.img.active = none
  ∧ State.reset.m.img.st = .idle ∧ State.reset.m.sec.locked = false ∧ State.reset.m.pci.stage = 1
  ∧ (∀ k, queue State.reset.m k = []) ∧ (∀ p c cls i, count State.reset.m p c cls i = 0) ∧ ∀ w, wingUp State.reset.m w = false

/-- Every step keeps the canonical form of the units' maps and of the memories, from every state that has it: each unit has one state,
and a memory lists each byte once, in order, and none that reads as an unlisted byte does. -/
def Obligations.EveryStepKeepsTheCanonicalForm : Prop :=
  ∀ s t : State, s.m.Inv → step s = .next t → t.m.Inv

/-- What is fused never changes, and once the security lock is set no step but POWER_GOOD clears it (R8, R655). -/
def Obligations.FusesAndTheLockStay : Prop :=
  ∀ s t : State, step s = .next t → t.m.fused = s.m.fused
    ∧ (s.m.sec.locked = true → (∀ slot, s.pending.head? ≠ some (.powerGood slot)) → t.m.sec.locked = true)

/-- The structure in force changes only when an image is applied at its beat, or the module starts afresh (R78, R88, R92): no other
command, no access through a register window and no packet changes it. -/
def Obligations.OnlyApplyChangesTheStructureInForce : Prop :=
  ∀ s t : State, step s = .next t → s.pending.head? ≠ some .apply → (∀ slot, s.pending.head? ≠ some (.powerGood slot)) →
    t.m.img.active = s.m.img.active

/-- A virtual function's write reaches only what its partition owns (R698, R699, R714): engines and control cores of others, other
functions' event rings and other partitions' caches are as they were, and so are the image, the routing tables, the health log, the
security block and everything else of the module. Where the rules are silent or can be read in two ways, it rests on the model's choice
of log entry 128. -/
def Obligations.VirtualFunctionsReachOnlyTheirOwn : Prop :=
  ∀ (s t : State) (p : Fin 16) (off bytes : Nat) (val : W64), s.m.Inv → exec (.registerWrite (.vf p) off bytes val) s = .next t →
    SameBut [.harts, .gal, .bal, .ris, .win, .lnd, .flt, .mem, .wdg, .cor, .pci, .out] s.m t.m
    ∧ (∀ u, owner s.m 0 u ≠ some p.val → t.m.gal' u = s.m.gal' u ∧ t.m.bal' u = s.m.bal' u)
    ∧ (∀ u, owner s.m 1 u ≠ some p.val → t.m.lnd' u = s.m.lnd' u) ∧ (∀ u, owner s.m 2 u ≠ some p.val → t.m.ris' u = s.m.ris' u)
    ∧ (∀ u, owner s.m 3 u ≠ some p.val → t.m.win' u = s.m.win' u) ∧ (∀ u, owner s.m 4 u ≠ some p.val → t.m.flt' u = s.m.flt' u)
    ∧ (∀ c h, h < 4 → owner s.m 5 c ≠ some p.val → t.m.hart (4 * c + h) = s.m.hart (4 * c + h))
    ∧ (∀ f, f ≠ p.val + 1 → t.m.evr' f = s.m.evr' f) ∧ (∀ q, q ≠ p.val → t.m.cache q = s.m.cache q)
    ∧ t.m.wdg.running = s.m.wdg.running ∧ t.m.wdg.ordered = s.m.wdg.ordered ∧ t.m.wdg.pend = s.m.wdg.pend

/-- An engine's command leaves every other engine of its class as it was: Galleries and Balconies (chapters 5 and 6), Risers,
Winders, Landings (chapters 7 and 8), but for the second member of a lockstep pair (R221, R257, R295, R321); and the Newels' own
commands the other Newel. -/
def Obligations.EnginesOfAClassAreSeparate : Prop :=
  ∀ s t : State, s.m.Inv →
    (∀ (g : Fin 64) (c : Instr), ((∃ a b e h, c = .matmul g a b e h) ∨ (∃ a, c = .accLoad g a) ∨ c = .accRead g
        ∨ (∃ a b e, c = .galReadout g a b e) ∨ c = .galComplete g ∨ c = .galCntClr g ∨ c = .slots g ∨ c = .down g
        ∨ (∃ a b e h, c = .up g a b e h) ∨ c = .upComplete g ∨ (∃ a b, c = .scrRead g a b) ∨ c = .adpCntClr g) → exec c s = .next t →
      ∀ j, j ≠ g.val → (g.val % 2 = 0 → j ≠ g.val + 1) → t.m.gal' j = s.m.gal' j ∧ t.m.bal' j = s.m.bal' j)
    ∧ (∀ (r : Fin 8) (c : Instr), ((∃ a b e h, c = .convert r a b e h) ∨ (∃ a, c = .risComplete r a) ∨ (∃ a, c = .streamClear r a)
        ∨ c = .risCntClr r ∨ c = .risClearStreamSets r) → exec c s = .next t →
      ∀ j, j ≠ r.val → (r.val % 2 = 0 → j ≠ r.val + 1) → t.m.ris' j = s.m.ris' j)
    ∧ (∀ (w : Fin 4) (c : Instr), ((∃ a b e h i, c = .transform w a b e h i) ∨ c = .winComplete w ∨ c = .winCntClr w) → exec c s = .next t →
      ∀ j, j ≠ w.val → t.m.win' j = s.m.win' j)
    ∧ (∀ (l : Fin 16) (c : Instr), ((∃ a b e h i, c = .run l a b e h i) ∨ (∃ a, c = .lndComplete l a) ∨ c = .lndCntClr l) → exec c s = .next t →
      ∀ j, j ≠ l.val → (l.val % 2 = 0 → j ≠ l.val + 1) → t.m.lnd' j = s.m.lnd' j)
    ∧ (∀ (n : Fin 2) (c : Instr), ((∃ a b, c = .gen n a b) ∨ c = .genComplete n ∨ c = .nwlCntClr n) → exec c s = .next t →
      ∀ j, j ≠ n.val → t.m.nwl' j = s.m.nwl' j)
end

