-- ==== Sys2Proof/Laws/Maps.lean ====
section
/-! SUPPORT. Sparse maps and memory: reads after writes, and the canonical form that every write keeps. -/

namespace Sys2Proof.Laws
open Sys2Proof.Machine

variable {α : Type}

/-- Every key of a list is above a bound. -/
def above (k : Nat) (l : List (Nat × α)) : Prop := ∀ x ∈ l, k < x.1

theorem rising_cons {k : Nat} {v : α} {l : List (Nat × α)} : rising ((k, v) :: l) = true ↔ above k l ∧ rising l = true := by
  induction l generalizing k v with
  | nil => simp [rising, above]
  | cons x r ih =>
    obtain ⟨k', v'⟩ := x
    simp only [rising, Bool.and_eq_true, decide_eq_true_eq, above, List.mem_cons, forall_eq_or_imp]
    constructor
    · rintro ⟨h, hr⟩
      exact ⟨⟨h, fun x hx => lt_trans h ((ih.1 hr).1 x hx)⟩, hr⟩
    · rintro ⟨⟨h, _⟩, hr⟩
      exact ⟨h, hr⟩

theorem nget_above {d : α} {k : Nat} {l : List (Nat × α)} (h : above k l) : nget d l k = d := by
  induction l with
  | nil => rfl
  | cons x r ih =>
    obtain ⟨k', v'⟩ := x
    have hk : k < k' := h (k', v') (by simp)
    simp only [nget, if_neg (by omega : ¬k' = k)]
    exact ih (fun y hy => h y (by simp [hy]))

/-- A write of one key leaves every other key's entry alone. -/
theorem nget_nset_of_ne [DecidableEq α] {d v : α} {l : List (Nat × α)} {k j : Nat} (h : j ≠ k) :
    nget d (nset d l k v) j = nget d l j := by
  induction l with
  | nil => by_cases hv : v = d <;> simp [nset, nget, hv, Ne.symm h]
  | cons x r ih =>
    obtain ⟨k', v'⟩ := x
    have hk : ¬k = j := fun e => h e.symm
    simp only [nset]
    split_ifs with h1 h2 h3 h4
    · rfl
    · simp [nget, hk]
    · subst h3; simp [nget, hk]
    · subst h3; simp [nget, hk]
    · simp only [nget, ih]

/-- A read after a write of the same key gives the value written. -/
theorem nget_nset_self [DecidableEq α] {d v : α} {l : List (Nat × α)} {k : Nat} (h : rising l = true) :
    nget d (nset d l k v) k = v := by
  induction l with
  | nil => by_cases hv : v = d <;> simp [nset, nget, hv]
  | cons x r ih =>
    obtain ⟨k', v'⟩ := x
    obtain ⟨ha, hr⟩ := rising_cons.1 h
    simp only [nset]
    split_ifs with h1 h2 h3 h4
    · subst h2
      simp only [nget, if_neg (by omega : ¬k' = k)]
      exact nget_above fun y hy => lt_trans h1 (ha y hy)
    · simp [nget]
    · subst h3 h4
      exact nget_above ha
    · simp [nget]
    · simp only [nget, if_neg (by omega : ¬k' = k)]
      exact ih hr

theorem above_nset [DecidableEq α] {d v : α} {l : List (Nat × α)} {b k : Nat} (h : above b l) (hk : b < k) :
    above b (nset d l k v) := by
  induction l with
  | nil => by_cases hv : v = d <;> simp [nset, hv, above, hk]
  | cons x r ih =>
    obtain ⟨k', v'⟩ := x
    have hb : b < k' := h (k', v') (by simp)
    have hr : above b r := fun y hy => h y (by simp [hy])
    simp only [nset]
    split_ifs
    · exact h
    · intro y hy; simp only [List.mem_cons] at hy; rcases hy with rfl | rfl | hy
      · exact hk
      · exact hb
      · exact hr y hy
    · exact hr
    · intro y hy; simp only [List.mem_cons] at hy; rcases hy with rfl | hy
      · exact hk
      · exact hr y hy
    · intro y hy; simp only [List.mem_cons] at hy; rcases hy with rfl | hy
      · exact hb
      · exact ih hr y hy

/-- A write keeps the keys rising. -/
@[simp] theorem rising_nset [DecidableEq α] {d v : α} {l : List (Nat × α)} {k : Nat} (h : rising l = true) :
    rising (nset d l k v) = true := by
  induction l with
  | nil => by_cases hv : v = d <;> simp [nset, hv, rising]
  | cons x r ih =>
    obtain ⟨k', v'⟩ := x
    obtain ⟨ha, hr⟩ := rising_cons.1 h
    simp only [nset]
    split_ifs with h1 _ h2
    · exact h
    · refine rising_cons.2 ⟨?_, h⟩
      intro y hy; simp only [List.mem_cons] at hy; rcases hy with rfl | hy
      · exact h1
      · exact lt_trans h1 (ha y hy)
    · exact hr
    · subst h2; exact rising_cons.2 ⟨ha, hr⟩
    · exact rising_cons.2 ⟨above_nset ha (by omega), ih hr⟩

theorem above_nput {l : List (Nat × α)} {b k : Nat} {v : α} (h : above b l) (hk : b < k) : above b (nput l k v) := by
  induction l with
  | nil => simp [nput, above, hk]
  | cons x r ih =>
    obtain ⟨k', v'⟩ := x
    have hb : b < k' := h (k', v') (by simp)
    have hr : above b r := fun y hy => h y (by simp [hy])
    simp only [nput]
    split_ifs
    · intro y hy; simp only [List.mem_cons] at hy; rcases hy with rfl | rfl | hy
      · exact hk
      · exact hb
      · exact hr y hy
    · intro y hy; simp only [List.mem_cons] at hy; rcases hy with rfl | hy
      · exact hk
      · exact hr y hy
    · intro y hy; simp only [List.mem_cons] at hy; rcases hy with rfl | hy
      · exact hb
      · exact ih hr y hy

theorem rising_nput {l : List (Nat × α)} {k : Nat} {v : α} (h : rising l = true) : rising (nput l k v) = true := by
  induction l with
  | nil => simp [nput, rising]
  | cons x r ih =>
    obtain ⟨k', v'⟩ := x
    obtain ⟨ha, hr⟩ := rising_cons.1 h
    simp only [nput]
    split_ifs with h1 h2
    · refine rising_cons.2 ⟨?_, h⟩
      intro y hy; simp only [List.mem_cons] at hy; rcases hy with rfl | hy
      · exact h1
      · exact lt_trans h1 (ha y hy)
    · subst h2; exact rising_cons.2 ⟨ha, hr⟩
    · exact rising_cons.2 ⟨above_nput ha (by omega), ih hr⟩

theorem rising_iff_pairwise {l : List (Nat × α)} : rising l = true ↔ l.Pairwise (fun x y => x.1 < y.1) := by
  induction l with
  | nil => simp [rising]
  | cons x r ih =>
    obtain ⟨k, v⟩ := x
    rw [rising_cons, List.pairwise_cons, ih]
    exact Iff.rfl

theorem rising_filter {l : List (Nat × α)} {p : Nat × α → Bool} (h : rising l = true) : rising (l.filter p) = true :=
  rising_iff_pairwise.2 (List.Pairwise.filter p (rising_iff_pairwise.1 h))

theorem rising_map {β : Type} {l : List (Nat × α)} {f : Nat × α → Nat × β} (hf : ∀ x, (f x).1 = x.1) (h : rising l = true) :
    rising (l.map f) = true := by
  rw [rising_iff_pairwise, List.pairwise_map]
  simpa [hf] using rising_iff_pairwise.1 h

theorem mem_nset [DecidableEq α] {d v : α} {l : List (Nat × α)} {k : Nat} {x : Nat × α} (h : x ∈ nset d l k v) :
    (x = (k, v) ∧ v ≠ d) ∨ x ∈ l := by
  induction l with
  | nil => by_cases hv : v = d <;> simp_all [nset]
  | cons y r ih =>
    obtain ⟨k', v'⟩ := y
    simp only [nset] at h
    split_ifs at h <;> simp_all <;> tauto

theorem mem_nput {l : List (Nat × α)} {k : Nat} {v : α} {x : Nat × α} (h : x ∈ nput l k v) : x = (k, v) ∨ x ∈ l := by
  induction l with
  | nil => simp_all [nput]
  | cons y r ih =>
    obtain ⟨k', v'⟩ := y
    simp only [nput] at h
    split_ifs at h <;> simp_all <;> tauto


end Sys2Proof.Laws
end

