-- ==== Sys2Proof/Laws/Eff.lean ====
section
/-! SUPPORT. What every operation keeps (the canonical form of the state, what is fused, a security lock that is set), and which
parts of the hardware it leaves as they were. -/

namespace Sys2Proof.Laws
open Sys2Proof.Machine

/-- The second state has what is fused in the first, keeps its canonical form, and keeps a lock that is set. -/
structure Keeps (a b : Module) : Prop where
  fused : b.fused = a.fused
  lock : a.sec.locked = true → b.sec.locked = true
  inv : a.Inv → b.Inv

variable {a b c : Module}

/-- All that `Keeps` speaks of. -/
def core (m : Module) :=
  (m.fused, m.sec.locked, (m.gates, m.harts, m.cores, m.gal, m.bal, m.ris, m.win, m.lnd, m.nwl, m.flt, m.port, m.arc),
   (m.vst, m.mir, m.chk, m.cor, m.mem.caches, m.mem.hallW, m.mem.hbm, m.mem.lpx, m.mem.tg, m.pci.evr),
   (m.mem.hall, m.mem.fast, m.mem.slow))


theorem Keeps.refl (a : Module) : Keeps a a := ⟨rfl, id, id⟩

theorem Keeps.trans (h : Keeps a b) (k : Keeps b c) : Keeps a c :=
  ⟨k.fused.trans h.fused, k.lock ∘ h.lock, k.inv ∘ h.inv⟩

theorem Keeps.of_core (h : core b = core a) : Keeps a b := by
  simp only [core, Prod.mk.injEq] at h
  obtain ⟨h1, h2, ⟨g1, g3, g4, g5, g6, g7, g8, g9, g10, g11, g12, g13⟩, ⟨k1, k2, k3, k4, k5, k6, k7, k8, k9, k10⟩, l1, l2, l3⟩ := h
  refine ⟨h1, fun x => by rw [h2]; exact x, fun x => ?_⟩
  simpa only [Module.Inv, Module.canonical, Memory.wf, g1, g3, g4, g5, g6, g7, g8, g9, g10, g11, g12, g13, k1, k2, k3, k4, k5,
    k6, k7, k8, k9, k10, l1, l2, l3] using x

/-- An update of parts of which `Keeps` does not speak. -/
theorem Keeps.upd {x_clk x_img x_beat x_queues x_counts x_outstanding x_mem x_rte x_vote x_wdg x_hlt x_pwr x_sec x_pci x_tray x_dbg x_jtag x_out}
    (h : Keeps a b) (h1 : Sec.locked x_sec = b.sec.locked) (h2 : MemBlk.caches x_mem = b.mem.caches) (h3 : x_mem.hallW = b.mem.hallW)
    (h4 : x_mem.hbm = b.mem.hbm) (h5 : x_mem.lpx = b.mem.lpx) (h6 : x_mem.tg = b.mem.tg) (h7 : x_mem.hall = b.mem.hall)
    (h8 : x_mem.fast = b.mem.fast) (h9 : x_mem.slow = b.mem.slow) (h10 : Pci.evr x_pci = b.pci.evr) :
    Keeps a (Machine.Module.mk b.fused x_clk x_img x_beat x_queues x_counts b.gates x_outstanding b.harts b.cores b.gal b.bal b.ris b.win b.lnd b.nwl x_mem b.flt b.port x_rte b.arc x_vote b.vst b.mir x_wdg b.chk x_hlt b.cor x_pwr x_sec x_pci x_tray x_dbg x_jtag x_out) := by
  refine h.trans (.of_core ?_)
  simp only [core, h1, h2, h3, h4, h5, h6, h7, h8, h9, h10]

/-- A change of the canonical parts that keeps them canonical. -/
theorem Keeps.of_inv (hf : b.fused = a.fused) (hl : b.sec.locked = a.sec.locked) (hi : a.Inv → b.Inv) : Keeps a b :=
  ⟨hf, fun x => by rw [hl]; exact x, hi⟩

/-- A write of one partition's Vestibule. -/
theorem Keeps.vst {v : NMap Vst} (h : Keeps a b) (hr : rising b.vst = true → rising v = true) :
    Keeps a { b with vst := v } := by
  refine h.trans (.of_inv rfl rfl fun x => ?_)
  simp only [Module.Inv, Module.canonical, Bool.and_eq_true] at x ⊢
  simp_all

/-- A write of a context's gates. -/
theorem Keeps.gates {v : NMap (BitVec 16)} (h : Keeps a b) (hr : rising b.gates = true → rising v = true) :
    Keeps a { b with gates := v } := by
  refine h.trans (.of_inv rfl rfl fun x => ?_)
  simp only [Module.Inv, Module.canonical, Bool.and_eq_true] at x ⊢
  simp_all

/-- A write of a core's scratch memory, instruction cache or issue turn. -/
theorem Keeps.cores {v : NMap Core} (h : Keeps a b) (hr : rising b.cores = true → rising v = true) :
    Keeps a { b with cores := v } := by
  refine h.trans (.of_inv rfl rfl fun x => ?_)
  simp only [Module.Inv, Module.canonical, Bool.and_eq_true] at x ⊢
  simp_all

/-! ### The memory's canonical form -/

theorem wf_put {z x : Nat} {v : Byte} {t : TierMem} (h : t.wf z = true) : (t.put z x v).wf z = true := by
  simp only [TierMem.wf, Bool.and_eq_true, List.all_eq_true, Bool.or_eq_true, bne_iff_ne, ne_eq] at h ⊢
  obtain ⟨hr, ha⟩ := h
  unfold TierMem.put
  split_ifs with h0
  · refine ⟨rising_nset hr, fun y hy => ?_⟩
    rcases mem_nset hy with ⟨rfl, hv⟩ | hy
    · exact .inl hv
    · exact ha y hy
  · refine ⟨rising_nput hr, fun y hy => ?_⟩
    rcases mem_nput hy with rfl | hy
    · exact .inr h0
    · exact ha y hy

theorem wf_putN {z x : Nat} {l : List Byte} {t : TierMem} (h : t.wf z = true) : (t.putN z x l).wf z = true := by
  induction l generalizing t x with
  | nil => exact h
  | cons v r ih => exact ih (wf_put h)

theorem wf_drop {z u n : Nat} {t : TierMem} (h : t.wf z = true) :
    TierMem.wf z { cells := t.cells.filter (fun c => c.1 / z != u), lost := nset 0 t.lost u n } = true := by
  simp only [TierMem.wf, Bool.and_eq_true, List.all_eq_true, Bool.or_eq_true, bne_iff_ne, ne_eq] at h ⊢
  refine ⟨rising_filter h.1, fun y hy => ?_⟩
  simp only [List.mem_filter, bne_iff_ne, ne_eq] at hy
  rw [nget_nset_of_ne hy.2]
  exact h.2 y hy.1

/-- A tier's new contents, canonical where the old ones are. -/
theorem Keeps.tier {k : Nat} {t : TierMem} (h : Keeps a b)
    (ht : (tierMem b.mem k).wf (slotSize k) = true → t.wf (slotSize k) = true) :
    Keeps a { b with mem := setTierMem b.mem k t } := by
  refine h.trans (.of_inv rfl rfl fun x => ?_)
  obtain ⟨x, w⟩ := x
  simp only [Module.canonical, Bool.and_eq_true] at x
  simp only [Memory.wf, Bool.and_eq_true] at w
  unfold setTierMem
  unfold tierMem at ht
  split
  · simp_all [Module.Inv, Module.canonical, Memory.wf]
  · split
    · simp_all [Module.Inv, Module.canonical, Memory.wf]
    · have hs : slotSize k = slotSize 2 := by unfold slotSize; simp [*]
      simp_all [Module.Inv, Module.canonical, Memory.wf]

/-! ### Frames -/

variable {l k : List Part}

/-- Every part of the first list is in the second. -/
def sub (l k : List Part) : Bool := l.all (fun p => k.any (fun q => q = p))

theorem sub_mem (h : sub l k = true) {p : Part} (hp : p ∈ l) : p ∈ k := by
  simp only [sub, List.all_eq_true, List.any_eq_true, decide_eq_true_eq] at h
  obtain ⟨q, hq, rfl⟩ := h p hp
  exact hq

theorem sameBut_refl (l : List Part) (a : Module) : SameBut l a a := fun p _ => by cases p <;> rfl

theorem sameBut_trans (h : SameBut l a b) (g : SameBut l b c) : SameBut l a c := fun p hp => by
  have h := h p hp
  have g := g p hp
  cases p <;> exact Eq.trans g h

theorem sameBut_mono (h : SameBut l a b) (hs : sub l k = true) : SameBut k a b := fun p hp => h p fun hq => hp (sub_mem hs hq)

/-- The first value where the list has the part, else the second. -/
def pick {α : Type} (l : List Part) (p : Part) (x y : α) : α := bif l.any (fun q => q = p) then x else y

/-- The second state in the parts listed, the first in all others. -/
def blend (l : List Part) (a b : Module) : Module :=
  Machine.Module.mk (pick l .fused b.fused a.fused) (pick l .clk b.clk a.clk) (pick l .img b.img a.img) (pick l .beat b.beat a.beat) (pick l .queues b.queues a.queues) (pick l .counts b.counts a.counts) (pick l .gates b.gates a.gates) (pick l .outstanding b.outstanding a.outstanding) (pick l .harts b.harts a.harts) (pick l .cores b.cores a.cores) (pick l .gal b.gal a.gal) (pick l .bal b.bal a.bal) (pick l .ris b.ris a.ris) (pick l .win b.win a.win) (pick l .lnd b.lnd a.lnd) (pick l .nwl b.nwl a.nwl) (pick l .mem b.mem a.mem) (pick l .flt b.flt a.flt) (pick l .port b.port a.port) (pick l .rte b.rte a.rte) (pick l .arc b.arc a.arc) (pick l .vote b.vote a.vote) (pick l .vst b.vst a.vst) (pick l .mir b.mir a.mir) (pick l .wdg b.wdg a.wdg) (pick l .chk b.chk a.chk) (pick l .hlt b.hlt a.hlt) (pick l .cor b.cor a.cor) (pick l .pwr b.pwr a.pwr) (pick l .sec b.sec a.sec) (pick l .pci b.pci a.pci) (pick l .tray b.tray a.tray) (pick l .dbg b.dbg a.dbg) (pick l .jtag b.jtag a.jtag) (pick l .out b.out a.out)

theorem pick_of_not {α : Type} {p : Part} {x y : α} (h : p ∉ l) : pick l p x y = y := by
  have : l.any (fun q => q = p) = false := by
    simp only [List.any_eq_false, decide_eq_true_eq]
    rintro q hq rfl
    exact h hq
  rw [pick, this]; rfl

theorem sameBut_of_blend (h : blend l a b = b) : SameBut l a b := fun p hp => by
  cases p <;> exact (congrArg _ h).symm.trans (pick_of_not hp)

/-! ### Both together -/

/-- What an operation keeps, and the parts that it may change. -/
structure Eff (l : List Part) (a b : Module) : Prop where
  keeps : Keeps a b
  same : SameBut l a b

theorem Eff.refl (a : Module) : Eff l a a := ⟨.refl a, sameBut_refl l a⟩

theorem Eff.trans (h : Eff l a b) (g : Eff l b c) : Eff l a c := ⟨h.1.trans g.1, sameBut_trans h.2 g.2⟩

theorem Eff.mono (h : Eff k a b) (hs : sub k l = true) : Eff l a b := ⟨h.1, sameBut_mono h.2 hs⟩

theorem Eff.after (g : Eff k b c) (hs : sub k l = true) (h : Eff l a b) : Eff l a c := h.trans (g.mono hs)

/-- An update of parts of which `Keeps` does not speak. -/
theorem Eff.upd {x_clk x_img x_beat x_queues x_counts x_outstanding x_mem x_rte x_vote x_wdg x_hlt x_pwr x_sec x_pci x_tray x_dbg x_jtag x_out}
    (h : Eff l a b) (h1 : Sec.locked x_sec = b.sec.locked) (h2 : MemBlk.caches x_mem = b.mem.caches) (h3 : x_mem.hallW = b.mem.hallW)
    (h4 : x_mem.hbm = b.mem.hbm) (h5 : x_mem.lpx = b.mem.lpx) (h6 : x_mem.tg = b.mem.tg) (h7 : x_mem.hall = b.mem.hall)
    (h8 : x_mem.fast = b.mem.fast) (h9 : x_mem.slow = b.mem.slow) (h10 : Pci.evr x_pci = b.pci.evr)
    (hb : blend l b (Machine.Module.mk b.fused x_clk x_img x_beat x_queues x_counts b.gates x_outstanding b.harts b.cores b.gal b.bal b.ris b.win b.lnd b.nwl x_mem b.flt b.port x_rte b.arc x_vote b.vst b.mir x_wdg b.chk x_hlt b.cor x_pwr x_sec x_pci x_tray x_dbg x_jtag x_out) = Machine.Module.mk b.fused x_clk x_img x_beat x_queues x_counts b.gates x_outstanding b.harts b.cores b.gal b.bal b.ris b.win b.lnd b.nwl x_mem b.flt b.port x_rte b.arc x_vote b.vst b.mir x_wdg b.chk x_hlt b.cor x_pwr x_sec x_pci x_tray x_dbg x_jtag x_out) :
    Eff l a (Machine.Module.mk b.fused x_clk x_img x_beat x_queues x_counts b.gates x_outstanding b.harts b.cores b.gal b.bal b.ris b.win b.lnd b.nwl x_mem b.flt b.port x_rte b.arc x_vote b.vst b.mir x_wdg b.chk x_hlt b.cor x_pwr x_sec x_pci x_tray x_dbg x_jtag x_out) :=
  ⟨Keeps.upd h.1 h1 h2 h3 h4 h5 h6 h7 h8 h9 h10, sameBut_trans h.2 (sameBut_of_blend hb)⟩

theorem Eff.of_inv (hf : b.fused = a.fused) (hl : b.sec.locked = a.sec.locked) (hi : a.Inv → b.Inv) (hb : blend l a b = b) : Eff l a b :=
  ⟨.of_inv hf hl hi, sameBut_of_blend hb⟩

theorem Eff.of_keeps (hk : Keeps a b) (hb : blend l a b = b) : Eff l a b := ⟨hk, sameBut_of_blend hb⟩

theorem Eff.vst {v : NMap Vst} (h : Eff l a b) (hr : rising b.vst = true → rising v = true) (hs : sub [.vst] l = true) :
    Eff l a { b with vst := v } :=
  ⟨.vst h.1 hr, sameBut_trans h.2 (sameBut_mono (sameBut_of_blend (l := [.vst]) rfl) hs)⟩

theorem Eff.gates {v : NMap (BitVec 16)} (h : Eff l a b) (hr : rising b.gates = true → rising v = true) (hs : sub [.gates] l = true) :
    Eff l a { b with gates := v } :=
  ⟨.gates h.1 hr, sameBut_trans h.2 (sameBut_mono (sameBut_of_blend (l := [.gates]) rfl) hs)⟩

theorem Eff.cores {v : NMap Core} (h : Eff l a b) (hr : rising b.cores = true → rising v = true) (hs : sub [.cores] l = true) :
    Eff l a { b with cores := v } :=
  ⟨.cores h.1 hr, sameBut_trans h.2 (sameBut_mono (sameBut_of_blend (l := [.cores]) rfl) hs)⟩

theorem Eff.ite {p : Prop} [Decidable p] (h : Eff l a b) (k : Eff l a c) : Eff l a (if p then b else c) := by
  split <;> assumption

theorem Eff.fold {α : Type} {g : Module → α → Module} {r : List α} (h : Eff l a b) (hg : ∀ m x, Eff l m (g m x)) :
    Eff l a (r.foldl g b) := by
  induction r generalizing b with
  | nil => exact h
  | cons x r ih => exact ih (h.trans (hg b x))

theorem Eff.foldSnd {α β : Type} {g : β × Module → α → β × Module} {r : List α} {x : β × Module} (h : Eff l a x.2)
    (hg : ∀ (u : β) m e, Eff l m (g (u, m) e).2) : Eff l a (r.foldl g x).2 := by
  induction r generalizing x with
  | nil => exact h
  | cons e r ih => exact ih (h.trans (hg x.1 x.2 e))

theorem Eff.foldFst {α β : Type} {g : Module × β → α → Module × β} {r : List α} {x : Module × β} (h : Eff l a x.1)
    (hg : ∀ m (u : β) e, Eff l m (g (m, u) e).1) : Eff l a (r.foldl g x).1 := by
  induction r generalizing x with
  | nil => exact h
  | cons e r ih => exact ih (h.trans (hg x.1 x.2 e))

theorem Eff.foldThird {α β γ : Type} {g : β × γ × Module → α → β × γ × Module} {r : List α} {x : β × γ × Module}
    (h : Eff l a x.2.2) (hg : ∀ (u : β) (v : γ) m e, Eff l m (g (u, v, m) e).2.2) : Eff l a (r.foldl g x).2.2 := by
  induction r generalizing x with
  | nil => exact h
  | cons e r ih => exact ih (h.trans (hg x.1 x.2.1 x.2.2 e))

theorem Eff.foldFifth {α β γ δ ε : Type} {g : β × γ × δ × ε × Module → α → β × γ × δ × ε × Module} {r : List α}
    {x : β × γ × δ × ε × Module} (h : Eff l a x.2.2.2.2)
    (hg : ∀ (u : β) (v : γ) (y : δ) (z : ε) m e, Eff l m (g (u, v, y, z, m) e).2.2.2.2) : Eff l a (r.foldl g x).2.2.2.2 := by
  induction r generalizing x with
  | nil => exact h
  | cons e r ih => exact ih (h.trans (hg x.1 x.2.1 x.2.2.1 x.2.2.2.1 x.2.2.2.2 e))

theorem Eff.snd {β : Type} {p : β × Module} {x : β} (g : Eff k b p.2) (e : p = (x, c)) (hs : sub k l = true) (h : Eff l a b) :
    Eff l a c := by
  subst e; exact h.trans (g.mono hs)

theorem Eff.fst {β : Type} {p : Module × β} {x : β} (g : Eff k b p.1) (e : p = (c, x)) (hs : sub k l = true) (h : Eff l a b) :
    Eff l a c := by
  subst e; exact h.trans (g.mono hs)

theorem Eff.third {β γ : Type} {p : β × γ × Module} {x : β} {y : γ} (g : Eff k b p.2.2) (e : p = (x, y, c))
    (hs : sub k l = true) (h : Eff l a b) : Eff l a c := by
  subst e; exact h.trans (g.mono hs)

theorem Eff.fourth {β γ δ : Type} {p : β × γ × δ × Module} {x : β} {y : γ} {z : δ} (g : Eff k b p.2.2.2) (e : p = (x, y, z, c))
    (hs : sub k l = true) (h : Eff l a b) : Eff l a c := by
  subst e; exact h.trans (g.mono hs)

theorem Eff.fifth {β γ δ ε : Type} {p : β × γ × δ × ε × Module} {x : β} {y : γ} {z : δ} {w : ε} (g : Eff k b p.2.2.2.2)
    (e : p = (x, y, z, w, c)) (hs : sub k l = true) (h : Eff l a b) : Eff l a c := by
  subst e; exact h.trans (g.mono hs)

theorem Eff.opt {o : Option Module} (g : ∀ x, o = some x → Eff k b x) (e : o = some c) (hs : sub k l = true) (h : Eff l a b) :
    Eff l a c := h.trans ((g c e).mono hs)

theorem Eff.opt2 {β : Type} {o : Option (β × Module)} {x : β} (g : ∀ u d, o = some (u, d) → Eff k b d) (e : o = some (x, c))
    (hs : sub k l = true) (h : Eff l a b) : Eff l a c := h.trans ((g x c e).mono hs)

theorem Eff.opt3 {β γ : Type} {o : Option (β × γ × Module)} {x : β} {y : γ} (g : ∀ u v d, o = some (u, v, d) → Eff k b d)
    (e : o = some (x, y, c)) (hs : sub k l = true) (h : Eff l a b) : Eff l a c := h.trans ((g x y c e).mono hs)

theorem Eff.iteSnd {β : Type} {p : Prop} [Decidable p] {x y : β × Module} {u : β} (e : (if p then x else y) = (u, c))
    (hx : Eff l a x.2) (hy : Eff l a y.2) : Eff l a c := by
  split at e <;> subst e <;> assumption

/-- A tier's new contents, canonical where the old ones are. -/
theorem Eff.tier {i : Nat} {t : TierMem} (h : Eff l a b)
    (ht : (tierMem b.mem i).wf (slotSize i) = true → t.wf (slotSize i) = true) (hs : sub [.mem] l = true) :
    Eff l a { b with mem := setTierMem b.mem i t } :=
  ⟨.tier h.1 ht, sameBut_trans h.2 (sameBut_mono (sameBut_of_blend (l := [.mem]) rfl) hs)⟩

/-! ### Outcomes -/

/-- Where an outcome is a next state, the commands that wait are those of the state before, and the hardware keeps what `Eff`
says. -/
structure EffOut (l : List Part) (s : State) (o : Out) : Prop where
  out : ∀ t, o = .next t → t.pending = s.pending ∧ Eff l s.m t.m

/-- Where an outcome is a next state, the commands that wait are those of the state before, and the hardware keeps what `Keeps`
says. -/
structure KeepsOut (s : State) (o : Out) : Prop where
  out : ∀ t, o = .next t → t.pending = s.pending ∧ Keeps s.m t.m

theorem EffOut.keeps {s : State} {o : Out} (h : EffOut l s o) : KeepsOut s o :=
  ⟨fun t e => ⟨(h.out t e).1, (h.out t e).2.keeps⟩⟩

theorem EffOut.done {s : State} {m : Machine.Module} (h : Eff l s.m m) : EffOut l s (Machine.done s m) :=
  ⟨by rintro t ⟨⟩; exact ⟨rfl, h⟩⟩

theorem EffOut.stop {s : State} {r : String} : EffOut l s (Machine.stop r) := ⟨by rintro t ⟨⟩⟩

theorem EffOut.ill {s : State} : EffOut l s Machine.ill := ⟨by rintro t ⟨⟩⟩

theorem EffOut.mono {s : State} {o : Out} (h : EffOut k s o) (hs : sub k l = true) : EffOut l s o :=
  ⟨fun t e => ⟨(h.out t e).1, (h.out t e).2.mono hs⟩⟩

end Sys2Proof.Laws
end

