-- ==== Sys2Proof/Laws/EffOps.lean ====
section
/-! SUPPORT. What the operations of Ops.lean keep, and what they may change. -/

namespace Sys2Proof.Laws
open Sys2Proof.Machine

theorem eff_setHart (m : Module) (k : ℕ) (h : Hart) : Eff [.harts] m (Module.setHart m k h) := by
  refine .of_inv rfl rfl (fun h => ?_) rfl
  obtain ⟨h, w⟩ := h
  simp only [Module.canonical, Bool.and_eq_true] at h
  simp_all [Module.Inv, Module.canonical, Module.setHart, mapAt, rising_nset, Memory.wf]

theorem eff_setCore (m : Module) (k : Nat) (x : Core) : Eff [.cores] m (Module.setCore m k x) := by
  unfold Module.setCore
  iterate 24 all_goals try first
    | with_reducible exact Eff.refl _
    | with_reducible assumption
    | intro _
    | extract_lets
    | with_reducible apply Eff.ite
    | (fail_if_no_progress ((with_reducible refine Eff.upd ?_ rfl rfl rfl rfl rfl rfl rfl rfl rfl rfl ?_); rotate_left; exact rfl))
    | with_reducible refine Eff.cores ?_ (fun h => rising_nset h) (by decide)
    | split
    | dsimp only
    | dsimp +zetaDelta only

theorem eff_setGal (m : Module) (k : ℕ) (x : Gal) : Eff [.gal] m (Module.setGal m k x) := by
  refine .of_inv rfl rfl (fun h => ?_) rfl
  obtain ⟨h, w⟩ := h
  simp only [Module.canonical, Bool.and_eq_true] at h
  simp_all [Module.Inv, Module.canonical, Module.setGal, mapAt, rising_nset, Memory.wf]

theorem eff_setBal (m : Module) (k : ℕ) (x : Bal) : Eff [.bal] m (Module.setBal m k x) := by
  refine .of_inv rfl rfl (fun h => ?_) rfl
  obtain ⟨h, w⟩ := h
  simp only [Module.canonical, Bool.and_eq_true] at h
  simp_all [Module.Inv, Module.canonical, Module.setBal, mapAt, rising_nset, Memory.wf]

theorem eff_setRis (m : Module) (k : ℕ) (x : Ris) : Eff [.ris] m (Module.setRis m k x) := by
  refine .of_inv rfl rfl (fun h => ?_) rfl
  obtain ⟨h, w⟩ := h
  simp only [Module.canonical, Bool.and_eq_true] at h
  simp_all [Module.Inv, Module.canonical, Module.setRis, mapAt, rising_nset, Memory.wf]

theorem eff_setWin (m : Module) (k : ℕ) (x : Win) : Eff [.win] m (Module.setWin m k x) := by
  refine .of_inv rfl rfl (fun h => ?_) rfl
  obtain ⟨h, w⟩ := h
  simp only [Module.canonical, Bool.and_eq_true] at h
  simp_all [Module.Inv, Module.canonical, Module.setWin, mapAt, rising_nset, Memory.wf]

theorem eff_setLnd (m : Module) (k : ℕ) (x : Lnd) : Eff [.lnd] m (Module.setLnd m k x) := by
  refine .of_inv rfl rfl (fun h => ?_) rfl
  obtain ⟨h, w⟩ := h
  simp only [Module.canonical, Bool.and_eq_true] at h
  simp_all [Module.Inv, Module.canonical, Module.setLnd, mapAt, rising_nset, Memory.wf]

theorem eff_setNwl (m : Module) (k : ℕ) (x : Nwl) : Eff [.nwl] m (Module.setNwl m k x) := by
  refine .of_inv rfl rfl (fun h => ?_) rfl
  obtain ⟨h, w⟩ := h
  simp only [Module.canonical, Bool.and_eq_true] at h
  simp_all [Module.Inv, Module.canonical, Module.setNwl, mapAt, rising_nset, Memory.wf]

theorem eff_setFlt (m : Module) (k : ℕ) (x : Flt) : Eff [.flt] m (Module.setFlt m k x) := by
  refine .of_inv rfl rfl (fun h => ?_) rfl
  obtain ⟨h, w⟩ := h
  simp only [Module.canonical, Bool.and_eq_true] at h
  simp_all [Module.Inv, Module.canonical, Module.setFlt, mapAt, rising_nset, Memory.wf]

theorem eff_setPort (m : Module) (k : ℕ) (x : Port) : Eff [.port] m (Module.setPort m k x) := by
  refine .of_inv rfl rfl (fun h => ?_) rfl
  obtain ⟨h, w⟩ := h
  simp only [Module.canonical, Bool.and_eq_true] at h
  simp_all [Module.Inv, Module.canonical, Module.setPort, mapAt, rising_nset, Memory.wf]

theorem eff_setArc (m : Module) (k : ℕ) (x : Arc) : Eff [.arc] m (Module.setArc m k x) := by
  refine .of_inv rfl rfl (fun h => ?_) rfl
  obtain ⟨h, w⟩ := h
  simp only [Module.canonical, Bool.and_eq_true] at h
  simp_all [Module.Inv, Module.canonical, Module.setArc, mapAt, rising_nset, Memory.wf]

theorem eff_setVst (m : Module) (k : ℕ) (x : Vst) : Eff [.vst] m (Module.setVst m k x) := by
  refine .of_inv rfl rfl (fun h => ?_) rfl
  obtain ⟨h, w⟩ := h
  simp only [Module.canonical, Bool.and_eq_true] at h
  simp_all [Module.Inv, Module.canonical, Module.setVst, mapAt, rising_nset, Memory.wf]

theorem eff_setMir (m : Module) (k : ℕ) (x : Mir) : Eff [.mir] m (Module.setMir m k x) := by
  refine .of_inv rfl rfl (fun h => ?_) rfl
  obtain ⟨h, w⟩ := h
  simp only [Module.canonical, Bool.and_eq_true] at h
  simp_all [Module.Inv, Module.canonical, Module.setMir, mapAt, rising_nset, Memory.wf]

theorem eff_setChk (m : Module) (k : ℕ) (x : Chk) : Eff [.chk] m (Module.setChk m k x) := by
  refine .of_inv rfl rfl (fun h => ?_) rfl
  obtain ⟨h, w⟩ := h
  simp only [Module.canonical, Bool.and_eq_true] at h
  simp_all [Module.Inv, Module.canonical, Module.setChk, mapAt, rising_nset, Memory.wf]

theorem eff_setCor (m : Module) (k : ℕ) (x : Cor) : Eff [.cor] m (Module.setCor m k x) := by
  refine .of_inv rfl rfl (fun h => ?_) rfl
  obtain ⟨h, w⟩ := h
  simp only [Module.canonical, Bool.and_eq_true] at h
  simp_all [Module.Inv, Module.canonical, Module.setCor, mapAt, rising_nset, Memory.wf]

theorem eff_setCache (m : Module) (p : ℕ) (x : PCache) : Eff [.mem] m (Module.setCache m p x) := by
  refine .of_inv rfl rfl (fun h => ?_) rfl
  obtain ⟨h, w⟩ := h
  simp only [Module.canonical, Bool.and_eq_true] at h
  simp_all [Module.Inv, Module.canonical, Module.setCache, mapAt, rising_nset, Memory.wf]

theorem eff_setHallW (m : Module) (w : ℕ) (x : HallWing) : Eff [.mem] m (Module.setHallW m w x) := by
  refine .of_inv rfl rfl (fun h => ?_) rfl
  obtain ⟨h, w⟩ := h
  simp only [Module.canonical, Bool.and_eq_true] at h
  simp_all [Module.Inv, Module.canonical, Module.setHallW, mapAt, rising_nset, Memory.wf]

theorem eff_setEvr (m : Module) (f : ℕ) (x : Evr) : Eff [.pci] m (Module.setEvr m f x) := by
  refine .of_inv rfl rfl (fun h => ?_) rfl
  obtain ⟨h, w⟩ := h
  simp only [Module.canonical, Bool.and_eq_true] at h
  simp_all [Module.Inv, Module.canonical, Module.setEvr, mapAt, rising_nset, Memory.wf]

theorem eff_emit (o : Output) (m : Module) : Eff [.out] m (emit o m) := by
  unfold emit
  iterate 24 all_goals try first
    | with_reducible exact Eff.refl _
    | with_reducible assumption
    | intro _
    | extract_lets
    | with_reducible apply Eff.ite
    | (fail_if_no_progress ((with_reducible refine Eff.upd ?_ rfl rfl rfl rfl rfl rfl rfl rfl rfl rfl ?_); rotate_left; exact rfl))
    | split
    | dsimp only
    | dsimp +zetaDelta only

theorem eff_advance (n : Nat) (m : Module) : Eff [.clk, .beat] m (advance n m) := by
  unfold advance
  iterate 24 all_goals try first
    | with_reducible exact Eff.refl _
    | with_reducible assumption
    | intro _
    | extract_lets
    | with_reducible apply Eff.ite
    | (fail_if_no_progress ((with_reducible refine Eff.upd ?_ rfl rfl rfl rfl rfl rfl rfl rfl rfl rfl ?_); rotate_left; exact rfl))
    | split
    | dsimp only
    | dsimp +zetaDelta only

theorem eff_advanceTo (t : Nat) (m : Module) : Eff [.clk, .beat] m (advanceTo t m) := by
  unfold advanceTo
  iterate 24 all_goals try first
    | with_reducible exact Eff.refl _
    | with_reducible assumption
    | (with_reducible apply Eff.after (eff_advance ..); · decide)
    | intro _
    | extract_lets
    | with_reducible apply Eff.ite
    | split
    | dsimp only
    | dsimp +zetaDelta only

theorem eff_advanceToBeat (b : Beat) (m : Module) : Eff [.clk, .beat] m (advanceToBeat b m) := by
  unfold advanceToBeat
  iterate 24 all_goals try first
    | with_reducible exact Eff.refl _
    | with_reducible assumption
    | (with_reducible apply Eff.after (eff_advance ..); · decide)
    | intro _
    | extract_lets
    | with_reducible apply Eff.ite
    | split
    | dsimp only
    | dsimp +zetaDelta only

theorem eff_advanceToCycle (c : Nat) (m : Module) : Eff [.clk, .beat] m (advanceToCycle c m) := by
  unfold advanceToCycle
  iterate 24 all_goals try first
    | with_reducible exact Eff.refl _
    | with_reducible assumption
    | (with_reducible apply Eff.after (eff_advance ..); · decide)
    | intro _
    | extract_lets
    | with_reducible apply Eff.ite
    | split
    | dsimp only
    | dsimp +zetaDelta only

theorem eff_freeVal (m : Module) : Eff [.mem] m (freeVal m).2 := by
  unfold freeVal
  iterate 24 all_goals try first
    | with_reducible exact Eff.refl _
    | with_reducible assumption
    | intro _
    | extract_lets
    | with_reducible apply Eff.ite
    | (fail_if_no_progress ((with_reducible refine Eff.upd ?_ rfl rfl rfl rfl rfl rfl rfl rfl rfl rfl ?_); rotate_left; exact rfl))
    | split
    | (with_reducible refine Eff.iteSnd (by assumption) ?_ ?_)
    | dsimp only
    | dsimp +zetaDelta only

theorem eff_taint (p : Nat) (step : Beat) (m : Module) : Eff [.vst] m (taint p step m) := by
  unfold taint
  iterate 24 all_goals try first
    | with_reducible exact Eff.refl _
    | with_reducible assumption
    | intro _
    | extract_lets
    | with_reducible apply Eff.ite
    | (fail_if_no_progress ((with_reducible refine Eff.upd ?_ rfl rfl rfl rfl rfl rfl rfl rfl rfl rfl ?_); rotate_left; exact rfl))
    | with_reducible refine Eff.vst ?_ (fun h => rising_nset h) (by decide)
    | split
    | dsimp only
    | dsimp +zetaDelta only

theorem eff_unmapped (write : Bool) (m : Module) : Eff [.pci] m (unmapped write m) := by
  unfold unmapped
  iterate 24 all_goals try first
    | with_reducible exact Eff.refl _
    | with_reducible assumption
    | intro _
    | extract_lets
    | with_reducible apply Eff.ite
    | (fail_if_no_progress ((with_reducible refine Eff.upd ?_ rfl rfl rfl rfl rfl rfl rfl rfl rfl rfl ?_); rotate_left; exact rfl))
    | split
    | dsimp only
    | dsimp +zetaDelta only

theorem eff_setTray (t : Tray) (m : Module) : Eff [.tray] m (setTray t m) := by
  unfold setTray
  iterate 24 all_goals try first
    | with_reducible exact Eff.refl _
    | with_reducible assumption
    | intro _
    | extract_lets
    | with_reducible apply Eff.ite
    | (fail_if_no_progress ((with_reducible refine Eff.upd ?_ rfl rfl rfl rfl rfl rfl rfl rfl rfl rfl ?_); rotate_left; exact rfl))
    | split
    | dsimp only
    | dsimp +zetaDelta only

theorem eff_trayAlert (b : BitVec 10) (m : Module) : Eff [.tray] m (trayAlert b m) := by
  unfold trayAlert
  iterate 24 all_goals try first
    | with_reducible exact Eff.refl _
    | with_reducible assumption
    | (with_reducible apply Eff.after (eff_setTray ..); · decide)
    | intro _
    | extract_lets
    | with_reducible apply Eff.ite
    | split
    | dsimp only
    | dsimp +zetaDelta only

theorem eff_ringSignal (f : Nat) (r : Evr) (m : Module) : Eff [.pci, .out] m (ringSignal f r m) := by
  unfold ringSignal
  iterate 24 all_goals try first
    | with_reducible exact Eff.refl _
    | with_reducible assumption
    | (with_reducible apply Eff.after (eff_setEvr ..); · decide)
    | (with_reducible apply Eff.after (eff_emit ..); · decide)
    | intro _
    | extract_lets
    | with_reducible apply Eff.ite
    | (fail_if_no_progress ((with_reducible refine Eff.upd ?_ rfl rfl rfl rfl rfl rfl rfl rfl rfl rfl ?_); rotate_left; exact rfl))
    | split
    | dsimp only
    | dsimp +zetaDelta only

theorem eff_ringWrite (f : Nat) (e : Event) (m : Module) : Eff [.pci, .out] m (ringWrite f e m) := by
  unfold ringWrite
  iterate 24 all_goals try first
    | with_reducible exact Eff.refl _
    | with_reducible assumption
    | (with_reducible apply Eff.after (eff_emit ..); · decide)
    | (with_reducible apply Eff.after (eff_ringSignal ..); · decide)
    | intro _
    | extract_lets
    | with_reducible apply Eff.ite
    | (fail_if_no_progress ((with_reducible refine Eff.upd ?_ rfl rfl rfl rfl rfl rfl rfl rfl rfl rfl ?_); rotate_left; exact rfl))
    | split
    | dsimp only
    | dsimp +zetaDelta only

theorem eff_ringOverflow (f : Nat) (m : Module) : Eff [.pci, .out] m (ringOverflow f m) := by
  unfold ringOverflow
  iterate 24 all_goals try first
    | with_reducible exact Eff.refl _
    | with_reducible assumption
    | (with_reducible apply Eff.after (eff_ringWrite ..); · decide)
    | (with_reducible apply Eff.after (eff_setEvr ..); · decide)
    | intro _
    | extract_lets
    | with_reducible apply Eff.ite
    | (fail_if_no_progress ((with_reducible refine Eff.upd ?_ rfl rfl rfl rfl rfl rfl rfl rfl rfl rfl ?_); rotate_left; exact rfl))
    | split
    | dsimp only
    | dsimp +zetaDelta only

theorem eff_ringPut (f : Nat) (e : Event) (m : Module) : Eff [.pci, .out] m (ringPut f e m) := by
  unfold ringPut
  iterate 24 all_goals try first
    | with_reducible exact Eff.refl _
    | with_reducible assumption
    | (with_reducible apply Eff.after (eff_ringOverflow ..); · decide)
    | (with_reducible apply Eff.after (eff_ringWrite ..); · decide)
    | (with_reducible apply Eff.after (eff_setEvr ..); · decide)
    | intro _
    | extract_lets
    | with_reducible apply Eff.ite
    | (fail_if_no_progress ((with_reducible refine Eff.upd ?_ rfl rfl rfl rfl rfl rfl rfl rfl rfl rfl ?_); rotate_left; exact rfl))
    | split
    | dsimp only
    | dsimp +zetaDelta only

theorem eff_note (e : Event) (m : Module) : Eff [.vst, .hlt, .pci, .tray, .dbg, .out] m (note e m) := by
  unfold note
  iterate 24 all_goals try first
    | with_reducible exact Eff.refl _
    | with_reducible assumption
    | (with_reducible apply Eff.after (eff_taint ..); · decide)
    | (with_reducible apply Eff.after (eff_trayAlert ..); · decide)
    | (with_reducible apply Eff.after (eff_ringPut ..); · decide)
    | intro _
    | extract_lets
    | with_reducible apply Eff.ite
    | (fail_if_no_progress ((with_reducible refine Eff.upd ?_ rfl rfl rfl rfl rfl rfl rfl rfl rfl rfl ?_); rotate_left; exact rfl))
    | split
    | dsimp only
    | dsimp +zetaDelta only

theorem eff_traceBuffer (r : List Byte) (m : Module) : Eff [.vst, .hlt, .pci, .tray, .dbg, .out] m (traceBuffer r m) := by
  unfold traceBuffer
  iterate 24 all_goals try first
    | with_reducible exact Eff.refl _
    | with_reducible assumption
    | (with_reducible apply Eff.after (eff_note ..); · decide)
    | intro _
    | extract_lets
    | with_reducible apply Eff.ite
    | (fail_if_no_progress ((with_reducible refine Eff.upd ?_ rfl rfl rfl rfl rfl rfl rfl rfl rfl rfl ?_); rotate_left; exact rfl))
    | split
    | dsimp only
    | dsimp +zetaDelta only

theorem eff_traceEv (kind : Nat) (w0 : Nat) (part : Nat) (ctx : Nat) (qcls : Nat) (w3 : W64) (m : Module) : Eff [.vst, .hlt, .pci, .tray, .dbg, .out] m (traceEv kind w0 part ctx qcls w3 m) := by
  unfold traceEv
  iterate 24 all_goals try first
    | with_reducible exact Eff.refl _
    | with_reducible assumption
    | (with_reducible apply Eff.after (eff_traceBuffer ..); · decide)
    | intro _
    | extract_lets
    | with_reducible apply Eff.ite
    | split
    | dsimp only
    | dsimp +zetaDelta only

theorem eff_evRec (e : Event) (m : Module) : Eff [.vst, .hlt, .pci, .tray, .dbg, .out] m (evRec e m) := by
  unfold evRec
  iterate 24 all_goals try first
    | with_reducible exact Eff.refl _
    | with_reducible assumption
    | (with_reducible apply Eff.after (eff_note ..); · decide)
    | (with_reducible apply Eff.after (eff_traceEv ..); · decide)
    | intro _
    | extract_lets
    | with_reducible apply Eff.ite
    | split
    | dsimp only
    | dsimp +zetaDelta only

theorem eff_ev (cls : Nat) (code : Nat) (unit : Nat) (sev : Nat) (part : Nat) (ctx : Nat) (detail : W64) (m : Module) : Eff [.vst, .hlt, .pci, .tray, .dbg, .out] m (ev cls code unit sev part ctx detail m) := by
  unfold ev
  iterate 24 all_goals try first
    | with_reducible exact Eff.refl _
    | with_reducible assumption
    | (with_reducible apply Eff.after (eff_evRec ..); · decide)
    | intro _
    | extract_lets
    | with_reducible apply Eff.ite
    | split
    | dsimp only
    | dsimp +zetaDelta only

theorem eff_suspectInterval (cls : Nat) (unit : Nat) (m : Module) : Eff [.vst, .hlt, .pci, .tray, .dbg, .out] m (suspectInterval cls unit m) := by
  unfold suspectInterval
  iterate 24 all_goals try first
    | with_reducible exact Eff.refl _
    | with_reducible assumption
    | (with_reducible apply Eff.after (eff_ev ..); · decide)
    | intro _
    | extract_lets
    | with_reducible apply Eff.ite
    | (fail_if_no_progress ((with_reducible refine Eff.upd ?_ rfl rfl rfl rfl rfl rfl rfl rfl rfl rfl ?_); rotate_left; exact rfl))
    | split
    | dsimp only
    | dsimp +zetaDelta only

theorem eff_score (k : Nat) (cls : Nat) (unit : Nat) (m : Module) : Eff [.vst, .hlt, .pci, .tray, .dbg, .out] m (score k cls unit m) := by
  unfold score
  iterate 24 all_goals try first
    | with_reducible exact Eff.refl _
    | with_reducible assumption
    | (with_reducible apply Eff.after (eff_ev ..); · decide)
    | (with_reducible apply Eff.after (eff_suspectInterval ..); · decide)
    | intro _
    | extract_lets
    | with_reducible apply Eff.ite
    | (fail_if_no_progress ((with_reducible refine Eff.upd ?_ rfl rfl rfl rfl rfl rfl rfl rfl rfl rfl ?_); rotate_left; exact rfl))
    | split
    | dsimp only
    | dsimp +zetaDelta only

theorem eff_evS (k : Nat) (cls : Nat) (code : Nat) (unit : Nat) (sev : Nat) (part : Nat) (ctx : Nat) (detail : W64) (m : Module) : Eff [.vst, .hlt, .pci, .tray, .dbg, .out] m (evS k cls code unit sev part ctx detail m) := by
  unfold evS
  iterate 24 all_goals try first
    | with_reducible exact Eff.refl _
    | with_reducible assumption
    | (with_reducible apply Eff.after (eff_score ..); · decide)
    | (with_reducible apply Eff.after (eff_ev ..); · decide)
    | intro _
    | extract_lets
    | with_reducible apply Eff.ite
    | split
    | dsimp only
    | dsimp +zetaDelta only

theorem eff_setQueue (k : QKey) (l : List Desc) (m : Module) : Eff [.queues] m (setQueue k l m) := by
  unfold setQueue
  iterate 24 all_goals try first
    | with_reducible exact Eff.refl _
    | with_reducible assumption
    | intro _
    | extract_lets
    | with_reducible apply Eff.ite
    | (fail_if_no_progress ((with_reducible refine Eff.upd ?_ rfl rfl rfl rfl rfl rfl rfl rfl rfl rfl ?_); rotate_left; exact rfl))
    | split
    | dsimp only
    | dsimp +zetaDelta only

theorem eff_progress (part : Nat) (ctx : Nat) (m : Module) : Eff [.harts, .wdg] m (progress part ctx m) := by
  unfold progress
  iterate 24 all_goals try first
    | with_reducible exact Eff.refl _
    | with_reducible assumption
    | (with_reducible apply Eff.after (eff_setHart ..); · decide)
    | intro _
    | extract_lets
    | with_reducible apply Eff.ite
    | (fail_if_no_progress ((with_reducible refine Eff.upd ?_ rfl rfl rfl rfl rfl rfl rfl rfl rfl rfl ?_); rotate_left; exact rfl))
    | split
    | dsimp only
    | dsimp +zetaDelta only

theorem eff_descStart (cls : Nat) (idx : Nat) (d : Desc) (m : Module) : Eff [.vst, .hlt, .pci, .tray, .dbg, .out] m (descStart cls idx d m) := by
  unfold descStart
  iterate 24 all_goals try first
    | with_reducible exact Eff.refl _
    | with_reducible assumption
    | (with_reducible apply Eff.after (eff_traceEv ..); · decide)
    | intro _
    | extract_lets
    | with_reducible apply Eff.ite
    | split
    | dsimp only
    | dsimp +zetaDelta only

theorem eff_complete (cls : Nat) (idx : Nat) (d : Desc) (err : Bool) (m : Module) : Eff [.counts, .outstanding, .harts, .vst, .wdg, .hlt, .pci, .tray, .dbg, .out] m (complete cls idx d err m) := by
  unfold complete
  iterate 24 all_goals try first
    | with_reducible exact Eff.refl _
    | with_reducible assumption
    | (with_reducible apply Eff.after (eff_progress ..); · decide)
    | (with_reducible apply Eff.after (eff_traceEv ..); · decide)
    | intro _
    | extract_lets
    | with_reducible apply Eff.ite
    | (fail_if_no_progress ((with_reducible refine Eff.upd ?_ rfl rfl rfl rfl rfl rfl rfl rfl rfl rfl ?_); rotate_left; exact rfl))
    | split
    | dsimp only
    | dsimp +zetaDelta only

theorem eff_noteDepth (k : QKey) (m : Module) : Eff [.dbg] m (noteDepth k m) := by
  unfold noteDepth
  iterate 24 all_goals try first
    | with_reducible exact Eff.refl _
    | with_reducible assumption
    | intro _
    | extract_lets
    | with_reducible apply Eff.ite
    | (fail_if_no_progress ((with_reducible refine Eff.upd ?_ rfl rfl rfl rfl rfl rfl rfl rfl rfl rfl ?_); rotate_left; exact rfl))
    | split
    | dsimp only
    | dsimp +zetaDelta only

theorem eff_enqueue (k : QKey) (d : Desc) (m : Module) : Eff [.queues, .dbg] m (enqueue k d m) := by
  unfold enqueue
  iterate 24 all_goals try first
    | with_reducible exact Eff.refl _
    | with_reducible assumption
    | (with_reducible apply Eff.after (eff_noteDepth ..); · decide)
    | (with_reducible apply Eff.after (eff_setQueue ..); · decide)
    | intro _
    | extract_lets
    | with_reducible apply Eff.ite
    | split
    | dsimp only
    | dsimp +zetaDelta only

theorem eff_dequeue (k : QKey) (m : Module) : Eff [.queues] m (dequeue k m) := by
  unfold dequeue
  iterate 24 all_goals try first
    | with_reducible exact Eff.refl _
    | with_reducible assumption
    | (with_reducible apply Eff.after (eff_setQueue ..); · decide)
    | intro _
    | extract_lets
    | with_reducible apply Eff.ite
    | split
    | dsimp only
    | dsimp +zetaDelta only

theorem eff_bodyRefused (cls : Nat) (idx : Nat) (code : Nat) (d : Desc) (m : Module) : Eff [.counts, .outstanding, .harts, .vst, .wdg, .hlt, .pci, .tray, .dbg, .out] m (bodyRefused cls idx code d m) := by
  unfold bodyRefused
  iterate 24 all_goals try first
    | with_reducible exact Eff.refl _
    | with_reducible assumption
    | (with_reducible apply Eff.after (eff_complete ..); · decide)
    | (with_reducible apply Eff.after (eff_ev ..); · decide)
    | intro _
    | extract_lets
    | with_reducible apply Eff.ite
    | split
    | dsimp only
    | dsimp +zetaDelta only

theorem eff_addPGal (p : Nat) (n : Nat) (m : Module) : Eff [.dbg] m (addPGal p n m) := by
  unfold addPGal
  iterate 24 all_goals try first
    | with_reducible exact Eff.refl _
    | with_reducible assumption
    | intro _
    | extract_lets
    | with_reducible apply Eff.ite
    | (fail_if_no_progress ((with_reducible refine Eff.upd ?_ rfl rfl rfl rfl rfl rfl rfl rfl rfl rfl ?_); rotate_left; exact rfl))
    | split
    | dsimp only
    | dsimp +zetaDelta only

theorem eff_addPLnd (p : Nat) (n : Nat) (m : Module) : Eff [.dbg] m (addPLnd p n m) := by
  unfold addPLnd
  iterate 24 all_goals try first
    | with_reducible exact Eff.refl _
    | with_reducible assumption
    | intro _
    | extract_lets
    | with_reducible apply Eff.ite
    | (fail_if_no_progress ((with_reducible refine Eff.upd ?_ rfl rfl rfl rfl rfl rfl rfl rfl rfl rfl ?_); rotate_left; exact rfl))
    | split
    | dsimp only
    | dsimp +zetaDelta only

theorem eff_addPFlt (p : Nat) (n : Nat) (m : Module) : Eff [.dbg] m (addPFlt p n m) := by
  unfold addPFlt
  iterate 24 all_goals try first
    | with_reducible exact Eff.refl _
    | with_reducible assumption
    | intro _
    | extract_lets
    | with_reducible apply Eff.ite
    | (fail_if_no_progress ((with_reducible refine Eff.upd ?_ rfl rfl rfl rfl rfl rfl rfl rfl rfl rfl ?_); rotate_left; exact rfl))
    | split
    | dsimp only
    | dsimp +zetaDelta only

theorem eff_setGate (part : Nat) (ctx : Nat) (g : Nat) (m : Module) : Eff [.gates, .harts, .vst, .wdg, .hlt, .pci, .tray, .dbg, .out] m (setGate part ctx g m) := by
  unfold setGate
  iterate 24 all_goals try first
    | with_reducible exact Eff.refl _
    | with_reducible assumption
    | (with_reducible apply Eff.after (eff_progress ..); · decide)
    | (with_reducible apply Eff.after (eff_ev ..); · decide)
    | intro _
    | extract_lets
    | with_reducible apply Eff.ite
    | (fail_if_no_progress ((with_reducible refine Eff.upd ?_ rfl rfl rfl rfl rfl rfl rfl rfl rfl rfl ?_); rotate_left; exact rfl))
    | with_reducible refine Eff.gates ?_ (fun h => rising_nset h) (by decide)
    | with_reducible refine Eff.gates ?_ (fun h => rising_filter h) (by decide)
    | split
    | dsimp only
    | dsimp +zetaDelta only

end Sys2Proof.Laws
end

