-- ==== Sys2Proof/Laws/EffMem.lean ====
section
/-! SUPPORT. What the operations of Mem.lean keep, and what they may change. -/

namespace Sys2Proof.Laws
open Sys2Proof.Machine

theorem eff_zeroUnit (tier : ℕ) (u : ℕ) (m : Module) : Eff [.mem] m (zeroUnit tier u m) := by
  exact Eff.tier (.refl m) (fun h => wf_drop h) (by decide)

theorem eff_loseUnit (tier : ℕ) (u : ℕ) (m : Module) : Eff [.mem] m (loseUnit tier u m) := by
  exact Eff.tier (.refl m) (fun h => wf_drop h) (by decide)

theorem eff_updMemUnit (tier : ℕ) (k : ℕ) (f : MemUnit → MemUnit) (m : Module) : Eff [.mem] m (updMemUnit tier k f m) := by
  refine .of_inv rfl rfl (fun h => ?_) rfl
  obtain ⟨h, w⟩ := h
  simp only [Module.canonical, Bool.and_eq_true] at h
  simp only [Module.Inv, Module.canonical, updMemUnit, setMemUnit]
  split <;> simp_all [rising_nset, Memory.wf]

theorem eff_corridor (src : Nat) (dst : Nat) (n : Nat) (m : Module) : Eff [.cor] m (corridor src dst n m) := by
  unfold corridor
  iterate 24 all_goals try first
    | with_reducible exact Eff.refl _
    | with_reducible assumption
    | (with_reducible apply Eff.after (eff_setCor ..); · decide)
    | intro _
    | extract_lets
    | with_reducible apply Eff.ite
    | (fail_if_no_progress ((with_reducible refine Eff.upd ?_ rfl rfl rfl rfl rfl rfl rfl rfl rfl rfl ?_); rotate_left; exact rfl))
    | split
    | dsimp only
    | dsimp +zetaDelta only

theorem eff_hallAccess (w : Nat) (bw : Nat) (n : Nat) (write : Bool) (m : Module) : Eff [.mem, .cor] m (hallAccess w bw n write m) := by
  unfold hallAccess
  iterate 24 all_goals try first
    | with_reducible exact Eff.refl _
    | with_reducible assumption
    | (with_reducible apply Eff.after (eff_corridor ..); · decide)
    | (with_reducible apply Eff.after (eff_setHallW ..); · decide)
    | intro _
    | extract_lets
    | with_reducible apply Eff.ite
    | (fail_if_no_progress ((with_reducible refine Eff.upd ?_ rfl rfl rfl rfl rfl rfl rfl rfl rfl rfl ?_); rotate_left; exact rfl))
    | split
    | dsimp only
    | dsimp +zetaDelta only

theorem eff_hallLost (w : Nat) (n : Nat) (m : Module) : Eff [.mem] m (hallLost w n m) := by
  unfold hallLost
  iterate 24 all_goals try first
    | with_reducible exact Eff.refl _
    | with_reducible assumption
    | (with_reducible apply Eff.after (eff_setHallW ..); · decide)
    | intro _
    | extract_lets
    | with_reducible apply Eff.ite
    | (fail_if_no_progress ((with_reducible refine Eff.upd ?_ rfl rfl rfl rfl rfl rfl rfl rfl rfl rfl ?_); rotate_left; exact rfl))
    | split
    | dsimp only
    | dsimp +zetaDelta only

theorem eff_setPoison (tier : Nat) (phys : Nat) (v : Bool) (m : Module) : Eff [.mem] m (setPoison tier phys v m) := by
  unfold setPoison
  iterate 24 all_goals try first
    | with_reducible exact Eff.refl _
    | with_reducible assumption
    | intro _
    | extract_lets
    | with_reducible apply Eff.ite
    | (fail_if_no_progress ((with_reducible refine Eff.upd ?_ rfl rfl rfl rfl rfl rfl rfl rfl rfl rfl ?_); rotate_left; exact rfl))
    | split
    | dsimp only
    | dsimp +zetaDelta only

theorem eff_eccTally (unc : Bool) (tier : Nat) (phys : Nat) (m : Module) : Eff [.mem] m (eccTally unc tier phys m) := by
  unfold eccTally
  iterate 24 all_goals try first
    | with_reducible exact Eff.refl _
    | with_reducible assumption
    | (with_reducible apply Eff.after (eff_setHallW ..); · decide)
    | (with_reducible apply Eff.after (eff_updMemUnit ..); · decide)
    | intro _
    | extract_lets
    | with_reducible apply Eff.ite
    | (fail_if_no_progress ((with_reducible refine Eff.upd ?_ rfl rfl rfl rfl rfl rfl rfl rfl rfl rfl ?_); rotate_left; exact rfl))
    | split
    | dsimp only
    | dsimp +zetaDelta only

theorem eff_sectorUnc (tier : Nat) (phys : Nat) (off : Nat) (p : Nat) (m : Module) : Eff [.mem, .vst, .hlt, .pci, .tray, .dbg, .out] m (sectorUnc tier phys off p m) := by
  unfold sectorUnc
  iterate 24 all_goals try first
    | with_reducible exact Eff.refl _
    | with_reducible assumption
    | (with_reducible apply Eff.after (eff_evS ..); · decide)
    | (with_reducible apply Eff.after (eff_eccTally ..); · decide)
    | intro _
    | extract_lets
    | with_reducible apply Eff.ite
    | split
    | dsimp only
    | dsimp +zetaDelta only

theorem eff_sectorCor (tier : Nat) (phys : Nat) (off : Nat) (p : Nat) (m : Module) : Eff [.mem, .vst, .hlt, .pci, .tray, .dbg, .out] m (sectorCor tier phys off p m) := by
  unfold sectorCor
  iterate 24 all_goals try first
    | with_reducible exact Eff.refl _
    | with_reducible assumption
    | (with_reducible apply Eff.after (eff_evS ..); · decide)
    | (with_reducible apply Eff.after (eff_eccTally ..); · decide)
    | intro _
    | extract_lets
    | with_reducible apply Eff.ite
    | split
    | dsimp only
    | dsimp +zetaDelta only

theorem eff_sectorBytes (p : Nat) (tier : Nat) (off : Nat) (phys : Nat) (m : Module) : Eff [.mem] m (sectorBytes p tier off phys m).2 := by
  unfold sectorBytes
  iterate 24 all_goals try first
    | with_reducible exact Eff.refl _
    | with_reducible assumption
    | intro _
    | extract_lets
    | with_reducible apply Eff.ite
    | (fail_if_no_progress ((with_reducible refine Eff.upd ?_ rfl rfl rfl rfl rfl rfl rfl rfl rfl rfl ?_); rotate_left; exact rfl))
    | split
    | (with_reducible refine Eff.iteSnd (by assumption) ?_ ?_)
    | dsimp only
    | dsimp +zetaDelta only

theorem eff_readSector (p : Nat) (tier : Nat) (off : Nat) (phys : Nat) (m : Module) : Eff [.mem, .vst, .hlt, .pci, .tray, .dbg, .out] m (readSector p tier off phys m).2.2 := by
  unfold readSector
  iterate 24 all_goals try first
    | with_reducible exact Eff.refl _
    | with_reducible assumption
    | (with_reducible apply Eff.after (eff_sectorBytes ..); · decide)
    | (with_reducible apply Eff.snd (eff_sectorBytes ..); with_reducible assumption; · decide)
    | (with_reducible apply Eff.after (eff_sectorUnc ..); · decide)
    | intro _
    | extract_lets
    | with_reducible apply Eff.ite
    | split
    | (with_reducible refine Eff.iteSnd (by assumption) ?_ ?_)
    | dsimp only
    | dsimp +zetaDelta only

theorem eff_storeSector (p : Nat) (tier : Nat) (off : Nat) (phys : Nat) (bs : List Byte) (poisoned : Bool) (m : Module) : Eff [.mem] m (storeSector p tier off phys bs poisoned m) := by
  unfold storeSector
  iterate 24 all_goals try first
    | with_reducible exact Eff.refl _
    | with_reducible assumption
    | (with_reducible apply Eff.after (eff_setPoison ..); · decide)
    | intro _
    | extract_lets
    | with_reducible apply Eff.ite
    | (fail_if_no_progress ((with_reducible refine Eff.upd ?_ rfl rfl rfl rfl rfl rfl rfl rfl rfl rfl ?_); rotate_left; exact rfl))
    | ((with_reducible refine Eff.tier ?_ ?_ (by decide)); rotate_left; first | exact fun h => wf_putN h | exact fun h => wf_put h | exact fun h => wf_drop h)
    | split
    | dsimp only
    | dsimp +zetaDelta only

theorem eff_writeSector (p : Nat) (tier : Nat) (off : Nat) (phys : Nat) (lo : Nat) (bs : List Byte) (poisoned : Bool) (m : Module) : Eff [.mem, .vst, .hlt, .pci, .tray, .dbg, .out] m (writeSector p tier off phys lo bs poisoned m) := by
  unfold writeSector
  iterate 24 all_goals try first
    | with_reducible exact Eff.refl _
    | with_reducible assumption
    | (with_reducible apply Eff.after (eff_storeSector ..); · decide)
    | (with_reducible apply Eff.after (eff_sectorBytes ..); · decide)
    | (with_reducible apply Eff.snd (eff_sectorBytes ..); with_reducible assumption; · decide)
    | (with_reducible apply Eff.after (eff_readSector ..); · decide)
    | (with_reducible apply Eff.third (eff_readSector ..); with_reducible assumption; · decide)
    | intro _
    | extract_lets
    | with_reducible apply Eff.ite
    | split
    | (with_reducible refine Eff.iteSnd (by assumption) ?_ ?_)
    | dsimp only
    | dsimp +zetaDelta only

theorem eff_countRead (w : Nat) (tier : Nat) (phys : Nat) (n : Nat) (m : Module) : Eff [.mem, .cor] m (countRead w tier phys n m) := by
  unfold countRead
  iterate 24 all_goals try first
    | with_reducible exact Eff.refl _
    | with_reducible assumption
    | (with_reducible apply Eff.after (eff_hallAccess ..); · decide)
    | (with_reducible apply Eff.after (eff_updMemUnit ..); · decide)
    | intro _
    | extract_lets
    | with_reducible apply Eff.ite
    | (fail_if_no_progress ((with_reducible refine Eff.upd ?_ rfl rfl rfl rfl rfl rfl rfl rfl rfl rfl ?_); rotate_left; exact rfl))
    | split
    | dsimp only
    | dsimp +zetaDelta only

theorem eff_countWrite (w : Nat) (tier : Nat) (phys : Nat) (n : Nat) (m : Module) : Eff [.mem, .cor] m (countWrite w tier phys n m) := by
  unfold countWrite
  iterate 24 all_goals try first
    | with_reducible exact Eff.refl _
    | with_reducible assumption
    | (with_reducible apply Eff.after (eff_hallAccess ..); · decide)
    | (with_reducible apply Eff.after (eff_updMemUnit ..); · decide)
    | intro _
    | extract_lets
    | with_reducible apply Eff.ite
    | (fail_if_no_progress ((with_reducible refine Eff.upd ?_ rfl rfl rfl rfl rfl rfl rfl rfl rfl rfl ?_); rotate_left; exact rfl))
    | split
    | dsimp only
    | dsimp +zetaDelta only

theorem eff_putLine (p : Nat) (key : Nat) (l : CacheLine) (m : Module) : Eff [.mem] m (putLine p key l m) := by
  unfold putLine
  iterate 24 all_goals try first
    | with_reducible exact Eff.refl _
    | with_reducible assumption
    | (with_reducible apply Eff.after (eff_setCache ..); · decide)
    | intro _
    | extract_lets
    | with_reducible apply Eff.ite
    | (fail_if_no_progress ((with_reducible refine Eff.upd ?_ rfl rfl rfl rfl rfl rfl rfl rfl rfl rfl ?_); rotate_left; exact rfl))
    | split
    | dsimp only
    | dsimp +zetaDelta only

theorem eff_useLine (p : Nat) (key : Nat) (l : CacheLine) (m : Module) : Eff [.mem] m (useLine p key l m) := by
  unfold useLine
  iterate 24 all_goals try first
    | with_reducible exact Eff.refl _
    | with_reducible assumption
    | (with_reducible apply Eff.after (eff_setCache ..); · decide)
    | intro _
    | extract_lets
    | with_reducible apply Eff.ite
    | (fail_if_no_progress ((with_reducible refine Eff.upd ?_ rfl rfl rfl rfl rfl rfl rfl rfl rfl rfl ?_); rotate_left; exact rfl))
    | split
    | dsimp only
    | dsimp +zetaDelta only

theorem eff_wasteMarks (l : CacheLine) (m : Module) : Eff [.flt] m (wasteMarks l m) := by
  unfold wasteMarks
  iterate 24 all_goals try first
    | with_reducible exact Eff.refl _
    | with_reducible assumption
    | (with_reducible apply Eff.after (eff_setFlt ..); · decide)
    | intro _
    | extract_lets
    | with_reducible apply Eff.ite
    | with_reducible apply Eff.fold
    | (fail_if_no_progress ((with_reducible refine Eff.upd ?_ rfl rfl rfl rfl rfl rfl rfl rfl rfl rfl ?_); rotate_left; exact rfl))
    | split
    | (with_reducible refine Eff.iteSnd (by assumption) ?_ ?_)
    | dsimp only
    | dsimp +zetaDelta only
    | with_reducible apply Eff.foldSnd
    | with_reducible apply Eff.foldFst
    | with_reducible apply Eff.foldThird

theorem eff_demandMark (s : Nat) (l : CacheLine) (m : Module) : Eff [.flt] m (demandMark s l m).2 := by
  unfold demandMark
  iterate 24 all_goals try first
    | with_reducible exact Eff.refl _
    | with_reducible assumption
    | (with_reducible apply Eff.after (eff_setFlt ..); · decide)
    | intro _
    | extract_lets
    | with_reducible apply Eff.ite
    | (fail_if_no_progress ((with_reducible refine Eff.upd ?_ rfl rfl rfl rfl rfl rfl rfl rfl rfl rfl ?_); rotate_left; exact rfl))
    | split
    | (with_reducible refine Eff.iteSnd (by assumption) ?_ ?_)
    | dsimp only
    | dsimp +zetaDelta only

theorem eff_writeBack (p : Nat) (l : CacheLine) (m : Module) : Eff [.mem, .cor] m (writeBack p l m).2 := by
  unfold writeBack
  iterate 24 all_goals try first
    | with_reducible exact Eff.refl _
    | with_reducible assumption
    | (with_reducible apply Eff.after (eff_hallAccess ..); · decide)
    | (with_reducible apply Eff.after (eff_countWrite ..); · decide)
    | (with_reducible apply Eff.after (eff_storeSector ..); · decide)
    | intro _
    | extract_lets
    | with_reducible apply Eff.ite
    | with_reducible apply Eff.fold
    | split
    | (with_reducible refine Eff.iteSnd (by assumption) ?_ ?_)
    | dsimp only
    | dsimp +zetaDelta only
    | with_reducible apply Eff.foldSnd
    | with_reducible apply Eff.foldFst
    | with_reducible apply Eff.foldThird

theorem eff_cleanLine (p : Nat) (key : Nat) (l : CacheLine) (m : Module) : Eff [.mem, .cor] m (cleanLine p key l m) := by
  unfold cleanLine
  iterate 24 all_goals try first
    | with_reducible exact Eff.refl _
    | with_reducible assumption
    | (with_reducible apply Eff.after (eff_writeBack ..); · decide)
    | (with_reducible apply Eff.snd (eff_writeBack ..); with_reducible assumption; · decide)
    | (with_reducible apply Eff.after (eff_setCache ..); · decide)
    | intro _
    | extract_lets
    | with_reducible apply Eff.ite
    | (fail_if_no_progress ((with_reducible refine Eff.upd ?_ rfl rfl rfl rfl rfl rfl rfl rfl rfl rfl ?_); rotate_left; exact rfl))
    | split
    | (with_reducible refine Eff.iteSnd (by assumption) ?_ ?_)
    | dsimp only
    | dsimp +zetaDelta only

theorem eff_dropLine (p : Nat) (key : Nat) (m : Module) : Eff [.mem] m (dropLine p key m) := by
  unfold dropLine
  iterate 24 all_goals try first
    | with_reducible exact Eff.refl _
    | with_reducible assumption
    | (with_reducible apply Eff.after (eff_setCache ..); · decide)
    | intro _
    | extract_lets
    | with_reducible apply Eff.ite
    | (fail_if_no_progress ((with_reducible refine Eff.upd ?_ rfl rfl rfl rfl rfl rfl rfl rfl rfl rfl ?_); rotate_left; exact rfl))
    | split
    | dsimp only
    | dsimp +zetaDelta only

theorem eff_allocLine (p : Nat) (tier : Nat) (off : Nat) (m : Module) : ∀ u v c, allocLine p tier off m = some (u, v, c) → Eff [.mem, .flt, .cor] m c := by
  intro u v c h
  unfold allocLine at h
  try dsimp only at h
  repeat' split at h
  all_goals first
    | (simp only [reduceCtorEq] at h; done)
    | (simp only [Option.some.injEq, Prod.mk.injEq] at h; obtain ⟨rfl, rfl, rfl⟩ := h)
    | skip
  iterate 24 all_goals try first
    | with_reducible exact Eff.refl _
    | with_reducible assumption
    | (with_reducible apply Eff.after (eff_wasteMarks ..); · decide)
    | (with_reducible apply Eff.after (eff_cleanLine ..); · decide)
    | (with_reducible apply Eff.after (eff_dropLine ..); · decide)
    | intro _
    | extract_lets
    | with_reducible apply Eff.ite
    | with_reducible apply Eff.fold
    | (fail_if_no_progress ((with_reducible refine Eff.upd ?_ rfl rfl rfl rfl rfl rfl rfl rfl rfl rfl ?_); rotate_left; exact rfl))
    | split
    | (with_reducible refine Eff.iteSnd (by assumption) ?_ ?_)
    | dsimp only
    | dsimp +zetaDelta only
    | with_reducible apply Eff.foldSnd
    | with_reducible apply Eff.foldFst
    | with_reducible apply Eff.foldThird

theorem eff_fillLine (p : Nat) (l : CacheLine) (pf : Option (Nat × Nat)) (m : Module) : Eff [.mem, .flt, .vst, .hlt, .cor, .pci, .tray, .dbg, .out] m (fillLine p l pf m).2 := by
  unfold fillLine
  iterate 24 all_goals try first
    | with_reducible exact Eff.refl _
    | with_reducible assumption
    | (with_reducible apply Eff.after (eff_hallAccess ..); · decide)
    | (with_reducible apply Eff.after (eff_countRead ..); · decide)
    | (with_reducible apply Eff.after (eff_readSector ..); · decide)
    | (with_reducible apply Eff.third (eff_readSector ..); with_reducible assumption; · decide)
    | (with_reducible apply Eff.after (eff_setFlt ..); · decide)
    | intro _
    | extract_lets
    | with_reducible apply Eff.ite
    | with_reducible apply Eff.fold
    | (fail_if_no_progress ((with_reducible refine Eff.upd ?_ rfl rfl rfl rfl rfl rfl rfl rfl rfl rfl ?_); rotate_left; exact rfl))
    | split
    | (with_reducible refine Eff.iteSnd (by assumption) ?_ ?_)
    | dsimp only
    | dsimp +zetaDelta only
    | with_reducible apply Eff.foldSnd
    | with_reducible apply Eff.foldFst
    | with_reducible apply Eff.foldThird

theorem eff_countLookup (p : Nat) (hit : Bool) (m : Module) : Eff [.mem] m (countLookup p hit m) := by
  unfold countLookup
  iterate 24 all_goals try first
    | with_reducible exact Eff.refl _
    | with_reducible assumption
    | (with_reducible apply Eff.after (eff_setCache ..); · decide)
    | intro _
    | extract_lets
    | with_reducible apply Eff.ite
    | (fail_if_no_progress ((with_reducible refine Eff.upd ?_ rfl rfl rfl rfl rfl rfl rfl rfl rfl rfl ?_); rotate_left; exact rfl))
    | split
    | dsimp only
    | dsimp +zetaDelta only

theorem eff_lineUnc (p : Nat) (key : Nat) (l : CacheLine) (off : Nat) (m : Module) : Eff [.mem, .vst, .hlt, .pci, .tray, .dbg, .out] m (lineUnc p key l off m) := by
  unfold lineUnc
  iterate 24 all_goals try first
    | with_reducible exact Eff.refl _
    | with_reducible assumption
    | (with_reducible apply Eff.after (eff_sectorUnc ..); · decide)
    | intro _
    | extract_lets
    | with_reducible apply Eff.ite
    | split
    | dsimp only
    | dsimp +zetaDelta only

theorem eff_readParts (w : Nat) (p : Nat) (tier : Nat) (line : Option (Nat × CacheLine)) (fresh : Byte) (l : List (Nat × Nat × Nat)) (m : Module) : Eff [.mem, .flt, .vst, .hlt, .cor, .pci, .tray, .dbg, .out] m (readParts w p tier line fresh l m).2.2 := by
  induction l generalizing m with
  | nil => exact Eff.refl _
  | cons x r ih =>
    obtain ⟨off, lo, n⟩ := x
    unfold readParts
    iterate 24 all_goals try first
      | with_reducible exact Eff.refl _
      | with_reducible assumption
      | (with_reducible apply Eff.after (eff_demandMark ..); · decide)
      | (with_reducible apply Eff.snd (eff_demandMark ..); with_reducible assumption; · decide)
      | (with_reducible apply Eff.after (eff_putLine ..); · decide)
      | (with_reducible apply Eff.after (eff_lineUnc ..); · decide)
      | (with_reducible apply Eff.after (eff_hallAccess ..); · decide)
      | (with_reducible apply Eff.after (eff_countRead ..); · decide)
      | (with_reducible apply Eff.after (eff_readSector ..); · decide)
      | (with_reducible apply Eff.third (eff_readSector ..); with_reducible assumption; · decide)
      | (with_reducible apply Eff.after (ih ..); · decide)
      | intro _
      | extract_lets
      | with_reducible apply Eff.ite
      | (fail_if_no_progress ((with_reducible refine Eff.upd ?_ rfl rfl rfl rfl rfl rfl rfl rfl rfl rfl ?_); rotate_left; exact rfl))
      | split
      | (with_reducible refine Eff.iteSnd (by assumption) ?_ ?_)
      | dsimp only
      | dsimp +zetaDelta only

theorem eff_touchLine (use : Bool) (p : Nat) (key : Nat) (l : CacheLine) (m : Module) : Eff [.mem] m (touchLine use p key l m) := by
  unfold touchLine
  iterate 24 all_goals try first
    | with_reducible exact Eff.refl _
    | with_reducible assumption
    | (with_reducible apply Eff.after (eff_useLine ..); · decide)
    | intro _
    | extract_lets
    | with_reducible apply Eff.ite
    | split
    | dsimp only
    | dsimp +zetaDelta only

theorem eff_readBlock (w : Nat) (p : Nat) (tier : Nat) (alloc : Bool) (off : Nat) (n : Nat) (m : Module) : Eff [.mem, .flt, .vst, .hlt, .cor, .pci, .tray, .dbg, .out] m (readBlock w p tier alloc off n m).2.2 := by
  unfold readBlock
  iterate 24 all_goals try first
    | with_reducible exact Eff.refl _
    | with_reducible assumption
    | (with_reducible apply Eff.after (eff_readParts ..); · decide)
    | (with_reducible apply Eff.third (eff_readParts ..); with_reducible assumption; · decide)
    | (with_reducible apply Eff.after (eff_countRead ..); · decide)
    | (with_reducible apply Eff.after (eff_countLookup ..); · decide)
    | (with_reducible apply Eff.after (eff_fillLine ..); · decide)
    | (with_reducible apply Eff.snd (eff_fillLine ..); with_reducible assumption; · decide)
    | (with_reducible apply Eff.after (eff_touchLine ..); · decide)
    | (with_reducible apply Eff.opt3 (eff_allocLine _ _ _ _); with_reducible assumption; · decide)
    | (with_reducible apply Eff.after (eff_useLine ..); · decide)
    | intro _
    | extract_lets
    | with_reducible apply Eff.ite
    | (fail_if_no_progress ((with_reducible refine Eff.upd ?_ rfl rfl rfl rfl rfl rfl rfl rfl rfl rfl ?_); rotate_left; exact rfl))
    | split
    | (with_reducible refine Eff.iteSnd (by assumption) ?_ ?_)
    | dsimp only
    | dsimp +zetaDelta only

theorem eff_memRead (w : Nat) (p : Nat) (tier : Nat) (alloc : Bool) (off : Nat) (n : Nat) (m : Module) : Eff [.mem, .flt, .vst, .hlt, .cor, .pci, .tray, .dbg, .out] m (memRead w p tier alloc off n m).2.2 := by
  unfold memRead
  iterate 24 all_goals try first
    | with_reducible exact Eff.refl _
    | with_reducible assumption
    | (with_reducible apply Eff.after (eff_readBlock ..); · decide)
    | (with_reducible apply Eff.third (eff_readBlock ..); with_reducible assumption; · decide)
    | intro _
    | extract_lets
    | with_reducible apply Eff.ite
    | with_reducible apply Eff.fold
    | split
    | (with_reducible refine Eff.iteSnd (by assumption) ?_ ?_)
    | dsimp only
    | dsimp +zetaDelta only
    | with_reducible apply Eff.foldSnd
    | with_reducible apply Eff.foldFst
    | with_reducible apply Eff.foldThird

theorem eff_writeParts (w : Nat) (p : Nat) (tier : Nat) (alloc : Bool) (key : Option Nat) (l : List (Nat × Nat × Nat)) (bs : List Byte) (bad : List Bool) (m : Module) : Eff [.mem, .flt, .vst, .hlt, .cor, .pci, .tray, .dbg, .out] m (writeParts w p tier alloc key l bs bad m) := by
  induction l generalizing bs bad m with
  | nil => exact Eff.refl _
  | cons x r ih =>
    obtain ⟨off, lo, n⟩ := x
    unfold writeParts
    iterate 24 all_goals try first
      | with_reducible exact Eff.refl _
      | with_reducible assumption
      | (with_reducible apply Eff.after (eff_writeSector ..); · decide)
      | (with_reducible apply Eff.after (eff_countWrite ..); · decide)
      | (with_reducible apply Eff.after (eff_demandMark ..); · decide)
      | (with_reducible apply Eff.snd (eff_demandMark ..); with_reducible assumption; · decide)
      | (with_reducible apply Eff.after (eff_hallAccess ..); · decide)
      | (with_reducible apply Eff.after (eff_putLine ..); · decide)
      | (with_reducible apply Eff.after (ih ..); · decide)
      | intro _
      | extract_lets
      | with_reducible apply Eff.ite
      | (fail_if_no_progress ((with_reducible refine Eff.upd ?_ rfl rfl rfl rfl rfl rfl rfl rfl rfl rfl ?_); rotate_left; exact rfl))
      | split
      | (with_reducible refine Eff.iteSnd (by assumption) ?_ ?_)
      | dsimp only
      | dsimp +zetaDelta only

theorem eff_writeBlock (w : Nat) (p : Nat) (tier : Nat) (alloc : Bool) (off : Nat) (bs : List Byte) (bad : List Bool) (m : Module) : Eff [.mem, .flt, .vst, .hlt, .cor, .pci, .tray, .dbg, .out] m (writeBlock w p tier alloc off bs bad m) := by
  unfold writeBlock
  iterate 24 all_goals try first
    | with_reducible exact Eff.refl _
    | with_reducible assumption
    | (with_reducible apply Eff.after (eff_writeParts ..); · decide)
    | (with_reducible apply Eff.after (eff_countWrite ..); · decide)
    | (with_reducible apply Eff.after (eff_touchLine ..); · decide)
    | (with_reducible apply Eff.after (eff_countLookup ..); · decide)
    | (with_reducible apply Eff.opt3 (eff_allocLine _ _ _ _); with_reducible assumption; · decide)
    | (with_reducible apply Eff.after (eff_useLine ..); · decide)
    | intro _
    | extract_lets
    | with_reducible apply Eff.ite
    | (fail_if_no_progress ((with_reducible refine Eff.upd ?_ rfl rfl rfl rfl rfl rfl rfl rfl rfl rfl ?_); rotate_left; exact rfl))
    | split
    | dsimp only
    | dsimp +zetaDelta only

theorem eff_memWriteBad (w : Nat) (p : Nat) (tier : Nat) (alloc : Bool) (off : Nat) (bs : List Byte) (bad : List Bool) (m : Module) : Eff [.mem, .flt, .vst, .hlt, .cor, .pci, .tray, .dbg, .out] m (memWriteBad w p tier alloc off bs bad m) := by
  unfold memWriteBad
  iterate 24 all_goals try first
    | with_reducible exact Eff.refl _
    | with_reducible assumption
    | (with_reducible apply Eff.after (eff_writeBlock ..); · decide)
    | intro _
    | extract_lets
    | with_reducible apply Eff.ite
    | with_reducible apply Eff.fold
    | split
    | (with_reducible refine Eff.iteSnd (by assumption) ?_ ?_)
    | dsimp only
    | dsimp +zetaDelta only
    | with_reducible apply Eff.foldSnd
    | with_reducible apply Eff.foldFst
    | with_reducible apply Eff.foldThird

theorem eff_memWrite (w : Nat) (p : Nat) (tier : Nat) (alloc : Bool) (off : Nat) (bs : List Byte) (m : Module) : Eff [.mem, .flt, .vst, .hlt, .cor, .pci, .tray, .dbg, .out] m (memWrite w p tier alloc off bs m) := by
  unfold memWrite
  iterate 24 all_goals try first
    | with_reducible exact Eff.refl _
    | with_reducible assumption
    | (with_reducible apply Eff.after (eff_memWriteBad ..); · decide)
    | intro _
    | extract_lets
    | with_reducible apply Eff.ite
    | split
    | dsimp only
    | dsimp +zetaDelta only

theorem eff_hallRead (w : Nat) (p : Nat) (off : Nat) (n : Nat) (m : Module) : Eff [.mem, .flt, .vst, .hlt, .cor, .pci, .tray, .dbg, .out] m (hallRead w p off n m).2 := by
  unfold hallRead
  iterate 24 all_goals try first
    | with_reducible exact Eff.refl _
    | with_reducible assumption
    | (with_reducible apply Eff.after (eff_memRead ..); · decide)
    | (with_reducible apply Eff.third (eff_memRead ..); with_reducible assumption; · decide)
    | intro _
    | extract_lets
    | with_reducible apply Eff.ite
    | split
    | (with_reducible refine Eff.iteSnd (by assumption) ?_ ?_)
    | dsimp only
    | dsimp +zetaDelta only

theorem eff_hallWrite (w : Nat) (p : Nat) (off : Nat) (bs : List Byte) (m : Module) : Eff [.mem, .flt, .vst, .hlt, .cor, .pci, .tray, .dbg, .out] m (hallWrite w p off bs m) := by
  unfold hallWrite
  iterate 24 all_goals try first
    | with_reducible exact Eff.refl _
    | with_reducible assumption
    | (with_reducible apply Eff.after (eff_memWrite ..); · decide)
    | intro _
    | extract_lets
    | with_reducible apply Eff.ite
    | split
    | dsimp only
    | dsimp +zetaDelta only

theorem eff_spoilSector (tier : Nat) (phys : Nat) (data : List Byte) (m : Module) : Eff [.mem] m (spoilSector tier phys data m) := by
  unfold spoilSector
  iterate 24 all_goals try first
    | with_reducible exact Eff.refl _
    | with_reducible assumption
    | (with_reducible apply Eff.after (eff_setPoison ..); · decide)
    | intro _
    | extract_lets
    | with_reducible apply Eff.ite
    | (fail_if_no_progress ((with_reducible refine Eff.upd ?_ rfl rfl rfl rfl rfl rfl rfl rfl rfl rfl ?_); rotate_left; exact rfl))
    | ((with_reducible refine Eff.tier ?_ ?_ (by decide)); rotate_left; first | exact fun h => wf_putN h | exact fun h => wf_put h | exact fun h => wf_drop h)
    | split
    | dsimp only
    | dsimp +zetaDelta only

theorem eff_memErr (p : Nat) (e : MemErr) (m : Module) : Eff [.mem, .vst, .hlt, .pci, .tray, .dbg, .out] m (memErr p e m) := by
  unfold memErr
  iterate 24 all_goals try first
    | with_reducible exact Eff.refl _
    | with_reducible assumption
    | (with_reducible apply Eff.after (eff_putLine ..); · decide)
    | (with_reducible apply Eff.after (eff_sectorCor ..); · decide)
    | (with_reducible apply Eff.after (eff_spoilSector ..); · decide)
    | intro _
    | extract_lets
    | with_reducible apply Eff.ite
    | (fail_if_no_progress ((with_reducible refine Eff.upd ?_ rfl rfl rfl rfl rfl rfl rfl rfl rfl rfl ?_); rotate_left; exact rfl))
    | split
    | dsimp only
    | dsimp +zetaDelta only

theorem eff_memErrs (p : Nat) (errs : List MemErr) (m : Module) : Eff [.mem, .vst, .hlt, .pci, .tray, .dbg, .out] m (memErrs p errs m) := by
  unfold memErrs
  iterate 24 all_goals try first
    | with_reducible exact Eff.refl _
    | with_reducible assumption
    | (with_reducible apply Eff.after (eff_memErr ..); · decide)
    | intro _
    | extract_lets
    | with_reducible apply Eff.ite
    | with_reducible apply Eff.fold
    | split
    | (with_reducible refine Eff.iteSnd (by assumption) ?_ ?_)
    | dsimp only
    | dsimp +zetaDelta only
    | with_reducible apply Eff.foldSnd
    | with_reducible apply Eff.foldFst
    | with_reducible apply Eff.foldThird

theorem eff_cacheAtomic (w : Nat) (p : Nat) (tier : Nat) (op : Nat) (off : Nat) (arg : List Byte) (m : Module) : Eff [.mem, .flt, .vst, .hlt, .cor, .pci, .tray, .dbg, .out] m (cacheAtomic w p tier op off arg m).2 := by
  unfold cacheAtomic
  iterate 24 all_goals try first
    | with_reducible exact Eff.refl _
    | with_reducible assumption
    | (with_reducible apply Eff.after (eff_readBlock ..); · decide)
    | (with_reducible apply Eff.third (eff_readBlock ..); with_reducible assumption; · decide)
    | (with_reducible apply Eff.after (eff_writeParts ..); · decide)
    | (with_reducible apply Eff.after (eff_setCache ..); · decide)
    | intro _
    | extract_lets
    | with_reducible apply Eff.ite
    | (fail_if_no_progress ((with_reducible refine Eff.upd ?_ rfl rfl rfl rfl rfl rfl rfl rfl rfl rfl ?_); rotate_left; exact rfl))
    | split
    | (with_reducible refine Eff.iteSnd (by assumption) ?_ ?_)
    | dsimp only
    | dsimp +zetaDelta only

theorem eff_evictFor (p : Nat) (tier : Nat) (off : Nat) (m : Module) : Eff [.mem, .flt, .cor] m (evictFor p tier off m) := by
  unfold evictFor
  iterate 24 all_goals try first
    | with_reducible exact Eff.refl _
    | with_reducible assumption
    | (with_reducible apply Eff.after (eff_countLookup ..); · decide)
    | (with_reducible apply Eff.after (eff_cleanLine ..); · decide)
    | (with_reducible apply Eff.after (eff_dropLine ..); · decide)
    | (with_reducible apply Eff.after (eff_wasteMarks ..); · decide)
    | intro _
    | extract_lets
    | with_reducible apply Eff.ite
    | (fail_if_no_progress ((with_reducible refine Eff.upd ?_ rfl rfl rfl rfl rfl rfl rfl rfl rfl rfl ?_); rotate_left; exact rfl))
    | split
    | dsimp only
    | dsimp +zetaDelta only

theorem eff_sideAtomic (p : Nat) (tier : Nat) (op : Nat) (off : Nat) (arg : List Byte) (m : Module) : Eff [.mem, .flt, .vst, .hlt, .cor, .pci, .tray, .dbg, .out] m (sideAtomic p tier op off arg m).2 := by
  unfold sideAtomic
  iterate 24 all_goals try first
    | with_reducible exact Eff.refl _
    | with_reducible assumption
    | (with_reducible apply Eff.after (eff_evictFor ..); · decide)
    | (with_reducible apply Eff.after (eff_readSector ..); · decide)
    | (with_reducible apply Eff.third (eff_readSector ..); with_reducible assumption; · decide)
    | (with_reducible apply Eff.after (eff_storeSector ..); · decide)
    | (with_reducible apply Eff.after (eff_updMemUnit ..); · decide)
    | intro _
    | extract_lets
    | with_reducible apply Eff.ite
    | (fail_if_no_progress ((with_reducible refine Eff.upd ?_ rfl rfl rfl rfl rfl rfl rfl rfl rfl rfl ?_); rotate_left; exact rfl))
    | split
    | (with_reducible refine Eff.iteSnd (by assumption) ?_ ?_)
    | dsimp only
    | dsimp +zetaDelta only

theorem eff_memAtomic (w : Nat) (p : Nat) (tier : Nat) (op : Nat) (off : Nat) (arg : List Byte) (m : Module) : Eff [.mem, .flt, .vst, .hlt, .cor, .pci, .tray, .dbg, .out] m (memAtomic w p tier op off arg m).2 := by
  unfold memAtomic
  iterate 24 all_goals try first
    | with_reducible exact Eff.refl _
    | with_reducible assumption
    | (with_reducible apply Eff.after (eff_cacheAtomic ..); · decide)
    | (with_reducible apply Eff.snd (eff_cacheAtomic ..); with_reducible assumption; · decide)
    | (with_reducible apply Eff.after (eff_sideAtomic ..); · decide)
    | (with_reducible apply Eff.snd (eff_sideAtomic ..); with_reducible assumption; · decide)
    | intro _
    | extract_lets
    | with_reducible apply Eff.ite
    | split
    | (with_reducible refine Eff.iteSnd (by assumption) ?_ ?_)
    | dsimp only
    | dsimp +zetaDelta only

theorem eff_flushCache (p : Nat) (sel : CacheLine → Bool) (m : Module) : Eff [.mem, .cor] m (flushCache p sel m) := by
  unfold flushCache
  iterate 24 all_goals try first
    | with_reducible exact Eff.refl _
    | with_reducible assumption
    | (with_reducible apply Eff.after (eff_cleanLine ..); · decide)
    | intro _
    | extract_lets
    | with_reducible apply Eff.ite
    | with_reducible apply Eff.fold
    | split
    | (with_reducible refine Eff.iteSnd (by assumption) ?_ ?_)
    | dsimp only
    | dsimp +zetaDelta only
    | with_reducible apply Eff.foldSnd
    | with_reducible apply Eff.foldFst
    | with_reducible apply Eff.foldThird

theorem eff_invalidateCache (p : Nat) (m : Module) : Eff [.mem, .flt] m (invalidateCache p m) := by
  unfold invalidateCache
  iterate 24 all_goals try first
    | with_reducible exact Eff.refl _
    | with_reducible assumption
    | (with_reducible apply Eff.after (eff_wasteMarks ..); · decide)
    | (with_reducible apply Eff.after (eff_setCache ..); · decide)
    | intro _
    | extract_lets
    | with_reducible apply Eff.ite
    | with_reducible apply Eff.fold
    | (fail_if_no_progress ((with_reducible refine Eff.upd ?_ rfl rfl rfl rfl rfl rfl rfl rfl rfl rfl ?_); rotate_left; exact rfl))
    | split
    | (with_reducible refine Eff.iteSnd (by assumption) ?_ ?_)
    | dsimp only
    | dsimp +zetaDelta only
    | with_reducible apply Eff.foldSnd
    | with_reducible apply Eff.foldFst
    | with_reducible apply Eff.foldThird

theorem eff_drainOne (m : Module) : Eff [.mem, .cor, .dbg, .out] m (drainOne m) := by
  unfold drainOne
  iterate 24 all_goals try first
    | with_reducible exact Eff.refl _
    | with_reducible assumption
    | (with_reducible apply Eff.after (eff_storeSector ..); · decide)
    | (with_reducible apply Eff.after (eff_countWrite ..); · decide)
    | (with_reducible apply Eff.after (eff_emit ..); · decide)
    | intro _
    | extract_lets
    | with_reducible apply Eff.ite
    | (fail_if_no_progress ((with_reducible refine Eff.upd ?_ rfl rfl rfl rfl rfl rfl rfl rfl rfl rfl ?_); rotate_left; exact rfl))
    | split
    | dsimp only
    | dsimp +zetaDelta only

theorem eff_drainTrace (n : ℕ) (m : Module) : Eff [.mem, .cor, .dbg, .out] m (drainTrace n m) := by
  induction n generalizing m with
  | zero => exact Eff.refl _
  | succ n ih => exact (eff_drainOne m).trans (ih _)

theorem eff_pass (n : Nat) (m : Module) : Eff [.clk, .beat, .mem, .cor, .dbg, .out] m (Machine.pass n m) := by
  unfold Machine.pass
  iterate 24 all_goals try first
    | with_reducible exact Eff.refl _
    | with_reducible assumption
    | (with_reducible apply Eff.after (eff_advance ..); · decide)
    | (with_reducible apply Eff.after (eff_drainTrace ..); · decide)
    | intro _
    | extract_lets
    | with_reducible apply Eff.ite
    | split
    | dsimp only
    | dsimp +zetaDelta only

theorem eff_passTo (t : Nat) (m : Module) : Eff [.clk, .beat, .mem, .cor, .dbg, .out] m (passTo t m) := by
  unfold passTo
  iterate 24 all_goals try first
    | with_reducible exact Eff.refl _
    | with_reducible assumption
    | (with_reducible apply Eff.after (eff_pass ..); · decide)
    | intro _
    | extract_lets
    | with_reducible apply Eff.ite
    | split
    | dsimp only
    | dsimp +zetaDelta only

theorem eff_passToBeat (b : Beat) (m : Module) : Eff [.clk, .beat, .mem, .cor, .dbg, .out] m (passToBeat b m) := by
  unfold passToBeat
  iterate 24 all_goals try first
    | with_reducible exact Eff.refl _
    | with_reducible assumption
    | (with_reducible apply Eff.after (eff_pass ..); · decide)
    | intro _
    | extract_lets
    | with_reducible apply Eff.ite
    | split
    | dsimp only
    | dsimp +zetaDelta only

theorem eff_passToCycle (c : Nat) (m : Module) : Eff [.clk, .beat, .mem, .cor, .dbg, .out] m (passToCycle c m) := by
  unfold passToCycle
  iterate 24 all_goals try first
    | with_reducible exact Eff.refl _
    | with_reducible assumption
    | (with_reducible apply Eff.after (eff_pass ..); · decide)
    | intro _
    | extract_lets
    | with_reducible apply Eff.ite
    | split
    | dsimp only
    | dsimp +zetaDelta only

end Sys2Proof.Laws
end

