-- ==== Sys2Proof/Laws/EffFab.lean ====
section
/-! SUPPORT. What the operations of Fab.lean keep, and what they may change. -/

namespace Sys2Proof.Laws
open Sys2Proof.Machine

theorem eff_oncePerSlice {l : List Part} {code slice : ℕ} {f : Module → Module} {a m : Module} (h : Eff l a m) (hf : ∀ m, Eff l m (f m))
    (hs : sub [.rte] l = true) : Eff l a (oncePerSlice code slice f m) := by
  refine h.trans ?_
  unfold oncePerSlice
  extract_lets
  split
  · exact .refl _
  · refine Eff.trans ?_ (hf _)
    exact Eff.mono (k := [.rte]) (.of_keeps (.of_core rfl) rfl) hs

theorem eff_noRoute (slice : Nat) (chip : Nat) (m : Module) : Eff [.rte, .vst, .hlt, .pci, .tray, .dbg, .out] m (noRoute slice chip m) := by
  unfold noRoute
  iterate 24 all_goals try first
    | with_reducible exact Eff.refl _
    | with_reducible assumption
    | with_reducible refine eff_oncePerSlice ?_ ?_ (by decide)
    | (with_reducible apply Eff.after (eff_ev ..); · decide)
    | intro _
    | extract_lets
    | with_reducible apply Eff.ite
    | (fail_if_no_progress ((with_reducible refine Eff.upd ?_ rfl rfl rfl rfl rfl rfl rfl rfl rfl rfl ?_); rotate_left; exact rfl))
    | split
    | dsimp only
    | dsimp +zetaDelta only

theorem eff_sliceReject (h : Hdr) (m : Module) : Eff [.rte, .vst, .hlt, .pci, .tray, .dbg, .out] m (sliceReject h m) := by
  unfold sliceReject
  iterate 24 all_goals try first
    | with_reducible exact Eff.refl _
    | with_reducible assumption
    | with_reducible refine eff_oncePerSlice ?_ ?_ (by decide)
    | (with_reducible apply Eff.after (eff_ev ..); · decide)
    | intro _
    | extract_lets
    | with_reducible apply Eff.ite
    | (fail_if_no_progress ((with_reducible refine Eff.upd ?_ rfl rfl rfl rfl rfl rfl rfl rfl rfl rfl ?_); rotate_left; exact rfl))
    | split
    | dsimp only
    | dsimp +zetaDelta only

theorem eff_protect (k : Pkt) (m : Module) : Eff [.vst, .hlt, .sec, .pci, .tray, .dbg, .out] m (protect k m).2 := by
  unfold protect
  iterate 24 all_goals try first
    | with_reducible exact Eff.refl _
    | with_reducible assumption
    | (with_reducible apply Eff.after (eff_ev ..); · decide)
    | intro _
    | extract_lets
    | with_reducible apply Eff.ite
    | (fail_if_no_progress ((with_reducible refine Eff.upd ?_ rfl rfl rfl rfl rfl rfl rfl rfl rfl rfl ?_); rotate_left; exact rfl))
    | split
    | (with_reducible refine Eff.iteSnd (by assumption) ?_ ?_)
    | dsimp only
    | dsimp +zetaDelta only

theorem eff_inject (w : Nat) (k : Pkt) (m : Module) : Eff [.port, .rte, .vst, .hlt, .cor, .sec, .pci, .tray, .dbg, .out] m (inject w k m) := by
  unfold inject
  iterate 24 all_goals try first
    | with_reducible exact Eff.refl _
    | with_reducible assumption
    | (with_reducible apply Eff.after (eff_protect ..); · decide)
    | (with_reducible apply Eff.snd (eff_protect ..); with_reducible assumption; · decide)
    | (with_reducible apply Eff.after (eff_noRoute ..); · decide)
    | (with_reducible apply Eff.after (eff_setPort ..); · decide)
    | (with_reducible apply Eff.after (eff_corridor ..); · decide)
    | intro _
    | extract_lets
    | with_reducible apply Eff.ite
    | (fail_if_no_progress ((with_reducible refine Eff.upd ?_ rfl rfl rfl rfl rfl rfl rfl rfl rfl rfl ?_); rotate_left; exact rfl))
    | split
    | dsimp only
    | dsimp +zetaDelta only

theorem eff_newTag (m : Module) : Eff [.rte] m (newTag m).2 := by
  unfold newTag
  iterate 24 all_goals try first
    | with_reducible exact Eff.refl _
    | with_reducible assumption
    | intro _
    | extract_lets
    | with_reducible apply Eff.ite
    | (fail_if_no_progress ((with_reducible refine Eff.upd ?_ rfl rfl rfl rfl rfl rfl rfl rfl rfl rfl ?_); rotate_left; exact rfl))
    | split
    | (with_reducible refine Eff.iteSnd (by assumption) ?_ ?_)
    | dsimp only
    | dsimp +zetaDelta only

theorem eff_reply (k : Pkt) (ty : Nat) (auxLo : Nat) (payload : List Byte) (m : Module) : Eff [.port, .rte, .vst, .hlt, .cor, .sec, .pci, .tray, .dbg, .out] m (reply k ty auxLo payload m) := by
  unfold reply
  iterate 24 all_goals try first
    | with_reducible exact Eff.refl _
    | with_reducible assumption
    | (with_reducible apply Eff.after (eff_inject ..); · decide)
    | intro _
    | extract_lets
    | with_reducible apply Eff.ite
    | (fail_if_no_progress ((with_reducible refine Eff.upd ?_ rfl rfl rfl rfl rfl rfl rfl rfl rfl rfl ?_); rotate_left; exact rfl))
    | split
    | dsimp only
    | dsimp +zetaDelta only

theorem eff_refuse (k : Pkt) (reason : Nat) (m : Module) : Eff [.port, .rte, .vst, .hlt, .cor, .sec, .pci, .tray, .dbg, .out] m (refuse k reason m) := by
  unfold refuse
  iterate 24 all_goals try first
    | with_reducible exact Eff.refl _
    | with_reducible assumption
    | (with_reducible apply Eff.after (eff_reply ..); · decide)
    | intro _
    | extract_lets
    | with_reducible apply Eff.ite
    | split
    | dsimp only
    | dsimp +zetaDelta only

theorem eff_takeAccepted (ok : Pkt → Bool) (m : Module) : ∀ u c, takeAccepted ok m = some (u, c) → Eff [.rte] m c := by
  intro u c h
  unfold takeAccepted at h
  try dsimp only at h
  repeat' split at h
  all_goals first
    | (simp only [reduceCtorEq] at h; done)
    | (simp only [Option.some.injEq, Prod.mk.injEq] at h; obtain ⟨rfl, rfl⟩ := h)
    | skip
  iterate 24 all_goals try first
    | with_reducible exact Eff.refl _
    | with_reducible assumption
    | intro _
    | extract_lets
    | with_reducible apply Eff.ite
    | (fail_if_no_progress ((with_reducible refine Eff.upd ?_ rfl rfl rfl rfl rfl rfl rfl rfl rfl rfl ?_); rotate_left; exact rfl))
    | split
    | dsimp only
    | dsimp +zetaDelta only

theorem eff_takeTy (ty : Nat) (m : Module) : ∀ u c, takeTy ty m = some (u, c) → Eff [.rte] m c := by
  intro u c h
  unfold takeTy at h
  try dsimp only at h
  repeat' split at h
  all_goals first
    | (simp only [reduceCtorEq] at h; done)
    | (simp only [Option.some.injEq, Prod.mk.injEq] at h; obtain ⟨rfl, rfl⟩ := h)
    | skip
  iterate 24 all_goals try first
    | with_reducible exact Eff.refl _
    | with_reducible assumption
    | (with_reducible apply Eff.opt2 (eff_takeAccepted _ _); with_reducible assumption; · decide)
    | intro _
    | extract_lets
    | with_reducible apply Eff.ite
    | split
    | dsimp only
    | dsimp +zetaDelta only

theorem eff_rxRefused (k : Pkt) (reason : Nat) (m : Module) : Eff [.port, .rte, .vst, .hlt, .cor, .sec, .pci, .tray, .dbg, .out] m (rxRefused k reason m) := by
  unfold rxRefused
  iterate 24 all_goals try first
    | with_reducible exact Eff.refl _
    | with_reducible assumption
    | (with_reducible apply Eff.after (eff_ev ..); · decide)
    | (with_reducible apply Eff.after (eff_refuse ..); · decide)
    | intro _
    | extract_lets
    | with_reducible apply Eff.ite
    | split
    | dsimp only
    | dsimp +zetaDelta only

theorem eff_refuse1 (k : Pkt) (m : Module) : Eff [.port, .rte, .vst, .hlt, .cor, .sec, .pci, .tray, .dbg, .out] m (refuse1 k m) := by
  unfold refuse1
  iterate 24 all_goals try first
    | with_reducible exact Eff.refl _
    | with_reducible assumption
    | (with_reducible apply Eff.after (eff_rxRefused ..); · decide)
    | (with_reducible apply Eff.after (eff_refuse ..); · decide)
    | intro _
    | extract_lets
    | with_reducible apply Eff.ite
    | split
    | dsimp only
    | dsimp +zetaDelta only

theorem eff_deliver (k : Pkt) (m : Module) : Eff [.port, .rte, .vst, .hlt, .cor, .sec, .pci, .tray, .dbg, .out] m (deliver k m) := by
  unfold deliver
  iterate 24 all_goals try first
    | with_reducible exact Eff.refl _
    | with_reducible assumption
    | (with_reducible apply Eff.after (eff_sliceReject ..); · decide)
    | with_reducible refine eff_oncePerSlice ?_ ?_ (by decide)
    | (with_reducible apply Eff.after (eff_ev ..); · decide)
    | (with_reducible apply Eff.after (eff_refuse1 ..); · decide)
    | intro _
    | extract_lets
    | with_reducible apply Eff.ite
    | (fail_if_no_progress ((with_reducible refine Eff.upd ?_ rfl rfl rfl rfl rfl rfl rfl rfl rfl rfl ?_); rotate_left; exact rfl))
    | split
    | dsimp only
    | dsimp +zetaDelta only

theorem eff_execLocalDelivery (s : State) : EffOut [.port, .rte, .vst, .hlt, .cor, .sec, .pci, .tray, .dbg, .out] s (execLocalDelivery s) := by
  unfold execLocalDelivery
  iterate 24 all_goals try first
    | with_reducible exact EffOut.stop
    | with_reducible exact EffOut.ill
    | with_reducible refine EffOut.done ?_
    | with_reducible exact Eff.refl _
    | with_reducible assumption
    | (with_reducible apply Eff.after (eff_deliver ..); · decide)
    | exact (eff_done ..).mono (by decide)
    | intro _
    | extract_lets
    | with_reducible apply Eff.ite
    | (fail_if_no_progress ((with_reducible refine Eff.upd ?_ rfl rfl rfl rfl rfl rfl rfl rfl rfl rfl ?_); rotate_left; exact rfl))
    | split
    | dsimp only
    | dsimp +zetaDelta only

theorem eff_doWrite (k : Pkt) (m : Module) : Eff [.mem, .flt, .port, .rte, .vst, .hlt, .cor, .sec, .pci, .tray, .dbg, .out] m (doWrite k m) := by
  unfold doWrite
  iterate 24 all_goals try first
    | with_reducible exact Eff.refl _
    | with_reducible assumption
    | (with_reducible apply Eff.after (eff_rxRefused ..); · decide)
    | (with_reducible apply Eff.after (eff_reply ..); · decide)
    | (with_reducible apply Eff.after (eff_memWrite ..); · decide)
    | intro _
    | extract_lets
    | with_reducible apply Eff.ite
    | (fail_if_no_progress ((with_reducible refine Eff.upd ?_ rfl rfl rfl rfl rfl rfl rfl rfl rfl rfl ?_); rotate_left; exact rfl))
    | split
    | dsimp only
    | dsimp +zetaDelta only

theorem eff_doNotify (k : Pkt) (m : Module) : Eff [.mem, .flt, .port, .rte, .vst, .hlt, .cor, .sec, .pci, .tray, .dbg, .out] m (doNotify k m) := by
  unfold doNotify
  iterate 24 all_goals try first
    | with_reducible exact Eff.refl _
    | with_reducible assumption
    | (with_reducible apply Eff.after (eff_rxRefused ..); · decide)
    | (with_reducible apply Eff.after (eff_reply ..); · decide)
    | (with_reducible apply Eff.after (eff_memWrite ..); · decide)
    | intro _
    | extract_lets
    | with_reducible apply Eff.ite
    | (fail_if_no_progress ((with_reducible refine Eff.upd ?_ rfl rfl rfl rfl rfl rfl rfl rfl rfl rfl ?_); rotate_left; exact rfl))
    | split
    | dsimp only
    | dsimp +zetaDelta only

theorem eff_doReadReq (k : Pkt) (m : Module) : Eff [.mem, .flt, .port, .rte, .vst, .hlt, .cor, .sec, .pci, .tray, .dbg, .out] m (doReadReq k m) := by
  unfold doReadReq
  iterate 24 all_goals try first
    | with_reducible exact Eff.refl _
    | with_reducible assumption
    | (with_reducible apply Eff.after (eff_rxRefused ..); · decide)
    | (with_reducible apply Eff.after (eff_memRead ..); · decide)
    | (with_reducible apply Eff.third (eff_memRead ..); with_reducible assumption; · decide)
    | (with_reducible apply Eff.after (eff_reply ..); · decide)
    | intro _
    | extract_lets
    | with_reducible apply Eff.ite
    | (fail_if_no_progress ((with_reducible refine Eff.upd ?_ rfl rfl rfl rfl rfl rfl rfl rfl rfl rfl ?_); rotate_left; exact rfl))
    | split
    | dsimp only
    | dsimp +zetaDelta only

theorem eff_atomRun (w p tier op off n : ℕ) (bs : List Byte) (m : Module) : Eff [.mem, .flt, .vst, .hlt, .cor, .pci, .tray, .dbg, .out] m (atomRun w p tier op off n bs m).2 := by
  induction n generalizing off bs m with
  | zero => exact .refl _
  | succ n ih => exact (eff_memAtomic ..).trans (ih ..)

theorem eff_doAtomic (k : Pkt) (m : Module) : Eff [.mem, .flt, .port, .rte, .vst, .hlt, .cor, .sec, .pci, .tray, .dbg, .out] m (doAtomic k m) := by
  unfold doAtomic
  iterate 24 all_goals try first
    | with_reducible exact Eff.refl _
    | with_reducible assumption
    | (with_reducible apply Eff.after (eff_rxRefused ..); · decide)
    | (with_reducible apply Eff.after (eff_atomRun ..); · decide)
    | (with_reducible apply Eff.snd (eff_atomRun ..); with_reducible assumption; · decide)
    | (with_reducible apply Eff.after (eff_reply ..); · decide)
    | intro _
    | extract_lets
    | with_reducible apply Eff.ite
    | (fail_if_no_progress ((with_reducible refine Eff.upd ?_ rfl rfl rfl rfl rfl rfl rfl rfl rfl rfl ?_); rotate_left; exact rfl))
    | split
    | dsimp only
    | dsimp +zetaDelta only

theorem eff_execWrite (s : State) : EffOut [.mem, .flt, .port, .rte, .vst, .hlt, .cor, .sec, .pci, .tray, .dbg, .out] s (execWrite s) := by
  unfold execWrite
  iterate 24 all_goals try first
    | with_reducible exact EffOut.stop
    | with_reducible exact EffOut.ill
    | with_reducible refine EffOut.done ?_
    | with_reducible exact Eff.refl _
    | with_reducible assumption
    | (with_reducible apply Eff.opt2 (eff_takeTy _ _); with_reducible assumption; · decide)
    | (with_reducible apply Eff.after (eff_doWrite ..); · decide)
    | exact (eff_done ..).mono (by decide)
    | intro _
    | extract_lets
    | with_reducible apply Eff.ite
    | (fail_if_no_progress ((with_reducible refine Eff.upd ?_ rfl rfl rfl rfl rfl rfl rfl rfl rfl rfl ?_); rotate_left; exact rfl))
    | split
    | dsimp only
    | dsimp +zetaDelta only

theorem eff_execNotify (s : State) : EffOut [.mem, .flt, .port, .rte, .vst, .hlt, .cor, .sec, .pci, .tray, .dbg, .out] s (execNotify s) := by
  unfold execNotify
  iterate 24 all_goals try first
    | with_reducible exact EffOut.stop
    | with_reducible exact EffOut.ill
    | with_reducible refine EffOut.done ?_
    | with_reducible exact Eff.refl _
    | with_reducible assumption
    | (with_reducible apply Eff.opt2 (eff_takeTy _ _); with_reducible assumption; · decide)
    | (with_reducible apply Eff.after (eff_doNotify ..); · decide)
    | exact (eff_done ..).mono (by decide)
    | intro _
    | extract_lets
    | with_reducible apply Eff.ite
    | (fail_if_no_progress ((with_reducible refine Eff.upd ?_ rfl rfl rfl rfl rfl rfl rfl rfl rfl rfl ?_); rotate_left; exact rfl))
    | split
    | dsimp only
    | dsimp +zetaDelta only

theorem eff_execReadReq (errs : List MemErr) (s : State) : EffOut [.mem, .flt, .port, .rte, .vst, .hlt, .cor, .sec, .pci, .tray, .dbg, .out] s (execReadReq errs s) := by
  unfold execReadReq
  iterate 24 all_goals try first
    | with_reducible exact EffOut.stop
    | with_reducible exact EffOut.ill
    | with_reducible refine EffOut.done ?_
    | with_reducible exact Eff.refl _
    | with_reducible assumption
    | (with_reducible apply Eff.opt2 (eff_takeTy _ _); with_reducible assumption; · decide)
    | (with_reducible apply Eff.after (eff_doReadReq ..); · decide)
    | (with_reducible apply Eff.after (eff_memErrs ..); · decide)
    | exact (eff_done ..).mono (by decide)
    | intro _
    | extract_lets
    | with_reducible apply Eff.ite
    | (fail_if_no_progress ((with_reducible refine Eff.upd ?_ rfl rfl rfl rfl rfl rfl rfl rfl rfl rfl ?_); rotate_left; exact rfl))
    | split
    | dsimp only
    | dsimp +zetaDelta only

theorem eff_execAtomic (errs : List MemErr) (s : State) : EffOut [.mem, .flt, .port, .rte, .vst, .hlt, .cor, .sec, .pci, .tray, .dbg, .out] s (execAtomic errs s) := by
  unfold execAtomic
  iterate 24 all_goals try first
    | with_reducible exact EffOut.stop
    | with_reducible exact EffOut.ill
    | with_reducible refine EffOut.done ?_
    | with_reducible exact Eff.refl _
    | with_reducible assumption
    | (with_reducible apply Eff.opt2 (eff_takeTy _ _); with_reducible assumption; · decide)
    | (with_reducible apply Eff.after (eff_doAtomic ..); · decide)
    | (with_reducible apply Eff.after (eff_memErrs ..); · decide)
    | exact (eff_done ..).mono (by decide)
    | intro _
    | extract_lets
    | with_reducible apply Eff.ite
    | (fail_if_no_progress ((with_reducible refine Eff.upd ?_ rfl rfl rfl rfl rfl rfl rfl rfl rfl rfl ?_); rotate_left; exact rfl))
    | split
    | dsimp only
    | dsimp +zetaDelta only

end Sys2Proof.Laws
end

