-- ==== Sys2Proof/Laws/EffNut.lean ====
section
/-! SUPPORT. What the operations of Nut.lean keep, and what they may change. -/

namespace Sys2Proof.Laws
open Sys2Proof.Machine

theorem eff_clampThr (k : Nat) (m : Module) : Eff [.port, .vst, .hlt, .pci, .tray, .dbg, .out] m (clampThr k m) := by
  unfold clampThr
  iterate 24 all_goals try first
    | with_reducible exact Eff.refl _
    | with_reducible assumption
    | (with_reducible apply Eff.after (eff_ev ..); · decide)
    | (with_reducible apply Eff.after (eff_setPort ..); · decide)
    | intro _
    | extract_lets
    | with_reducible apply Eff.ite
    | with_reducible apply Eff.fold
    | (fail_if_no_progress ((with_reducible refine Eff.upd ?_ rfl rfl rfl rfl rfl rfl rfl rfl rfl rfl ?_); rotate_left; exact rfl))
    | split
    | (with_reducible refine Eff.iteSnd (by assumption) ?_ ?_)
    | dsimp only
    | dsimp +zetaDelta only
    | with_reducible apply Eff.foldSnd
    | with_reducible apply Eff.foldFst
    | with_reducible apply Eff.foldThird

theorem eff_execNutFcThrWrite (p : Fin 16) (vc : Fin 8) (val : W64) (s : State) : EffOut [.port] s (execNutFcThrWrite p vc val s) := by
  unfold execNutFcThrWrite
  iterate 24 all_goals try first
    | with_reducible exact EffOut.stop
    | with_reducible exact EffOut.ill
    | with_reducible refine EffOut.done ?_
    | with_reducible exact Eff.refl _
    | with_reducible assumption
    | (with_reducible apply Eff.after (eff_setPort ..); · decide)
    | exact (eff_done ..).mono (by decide)
    | intro _
    | extract_lets
    | with_reducible apply Eff.ite
    | (fail_if_no_progress ((with_reducible refine Eff.upd ?_ rfl rfl rfl rfl rfl rfl rfl rfl rfl rfl ?_); rotate_left; exact rfl))
    | split
    | dsimp only
    | dsimp +zetaDelta only

theorem eff_linkFlit (k : Nat) (kind : Nat) (a : W64) (b : Nat) (m : Module) : Eff [.port, .out] m (linkFlit k kind a b m) := by
  unfold linkFlit
  iterate 24 all_goals try first
    | with_reducible exact Eff.refl _
    | with_reducible assumption
    | (with_reducible apply Eff.after (eff_setPort ..); · decide)
    | (with_reducible apply Eff.after (eff_emit ..); · decide)
    | intro _
    | extract_lets
    | with_reducible apply Eff.ite
    | (fail_if_no_progress ((with_reducible refine Eff.upd ?_ rfl rfl rfl rfl rfl rfl rfl rfl rfl rfl ?_); rotate_left; exact rfl))
    | split
    | dsimp only
    | dsimp +zetaDelta only

theorem eff_recvLinks (k : Nat) (n : Nat) (m : Module) : Eff [.port] m (recvLinks k n m) := by
  unfold recvLinks
  iterate 24 all_goals try first
    | with_reducible exact Eff.refl _
    | with_reducible assumption
    | (with_reducible apply Eff.after (eff_setPort ..); · decide)
    | intro _
    | extract_lets
    | with_reducible apply Eff.ite
    | (fail_if_no_progress ((with_reducible refine Eff.upd ?_ rfl rfl rfl rfl rfl rfl rfl rfl rfl rfl ?_); rotate_left; exact rfl))
    | split
    | dsimp only
    | dsimp +zetaDelta only

theorem eff_sendLink (k : Nat) (msg : LinkMsg) (m : Module) : Eff [.port, .out] m (sendLink k msg m) := by
  unfold sendLink
  iterate 24 all_goals try first
    | with_reducible exact Eff.refl _
    | with_reducible assumption
    | (with_reducible apply Eff.after (eff_emit ..); · decide)
    | (with_reducible apply Eff.after (eff_linkFlit ..); · decide)
    | intro _
    | extract_lets
    | with_reducible apply Eff.ite
    | (fail_if_no_progress ((with_reducible refine Eff.upd ?_ rfl rfl rfl rfl rfl rfl rfl rfl rfl rfl ?_); rotate_left; exact rfl))
    | split
    | dsimp only
    | dsimp +zetaDelta only

theorem eff_sendTime (k : Nat) (m : Module) : Eff [.port, .out] m (sendTime k m) := by
  unfold sendTime
  iterate 24 all_goals try first
    | with_reducible exact Eff.refl _
    | with_reducible assumption
    | (with_reducible apply Eff.after (eff_emit ..); · decide)
    | (with_reducible apply Eff.after (eff_linkFlit ..); · decide)
    | intro _
    | extract_lets
    | with_reducible apply Eff.ite
    | split
    | dsimp only
    | dsimp +zetaDelta only

theorem eff_sendDelays (k : Nat) (m : Module) : Eff [.port, .out] m (sendDelays k m) := by
  unfold sendDelays
  iterate 24 all_goals try first
    | with_reducible exact Eff.refl _
    | with_reducible assumption
    | (with_reducible apply Eff.after (eff_sendLink ..); · decide)
    | intro _
    | extract_lets
    | with_reducible apply Eff.ite
    | with_reducible apply Eff.fold
    | split
    | (with_reducible refine Eff.iteSnd (by assumption) ?_ ?_)
    | dsimp only
    | dsimp +zetaDelta only
    | with_reducible apply Eff.foldSnd
    | with_reducible apply Eff.foldFst
    | with_reducible apply Eff.foldThird

theorem eff_portDownEv (k : Nat) (old : PortSt) (m : Module) : Eff [.vst, .hlt, .pci, .tray, .dbg, .out] m (portDownEv k old m) := by
  unfold portDownEv
  iterate 24 all_goals try first
    | with_reducible exact Eff.refl _
    | with_reducible assumption
    | (with_reducible apply Eff.after (eff_ev ..); · decide)
    | intro _
    | extract_lets
    | with_reducible apply Eff.ite
    | split
    | dsimp only
    | dsimp +zetaDelta only

theorem eff_dropRouted (k : ℕ) (m : Module) : Eff [.port] m (dropRouted k m) := by
  unfold dropRouted
  extract_lets n m1 r p
  refine Eff.trans ?_ ((eff_setPort ..).mono (by decide))
  refine Eff.foldSnd ((eff_setPort ..).mono (by decide)) fun u m e => ?_
  refine Eff.foldSnd ((eff_setPort ..).mono (by decide)) fun u m v => ?_
  dsimp only
  split
  · exact .refl _
  · exact (eff_setPort ..).mono (by decide)

theorem eff_portGoDown (k : Nat) (m : Module) : Eff [.port, .vst, .hlt, .pci, .tray, .dbg, .out] m (portGoDown k m) := by
  unfold portGoDown
  iterate 24 all_goals try first
    | with_reducible exact Eff.refl _
    | with_reducible assumption
    | (with_reducible apply Eff.after (eff_dropRouted ..); · decide)
    | (with_reducible apply Eff.after (eff_setPort ..); · decide)
    | (with_reducible apply Eff.after (eff_portDownEv ..); · decide)
    | intro _
    | extract_lets
    | with_reducible apply Eff.ite
    | (fail_if_no_progress ((with_reducible refine Eff.upd ?_ rfl rfl rfl rfl rfl rfl rfl rfl rfl rfl ?_); rotate_left; exact rfl))
    | split
    | dsimp only
    | dsimp +zetaDelta only

theorem eff_needRemeasure (k : Nat) (m : Module) : Eff [.beat] m (needRemeasure k m) := by
  unfold needRemeasure
  iterate 24 all_goals try first
    | with_reducible exact Eff.refl _
    | with_reducible assumption
    | intro _
    | extract_lets
    | with_reducible apply Eff.ite
    | (fail_if_no_progress ((with_reducible refine Eff.upd ?_ rfl rfl rfl rfl rfl rfl rfl rfl rfl rfl ?_); rotate_left; exact rfl))
    | split
    | dsimp only
    | dsimp +zetaDelta only

theorem eff_portDisable (k : Nat) (m : Module) : Eff [.port] m (portDisable k m) := by
  unfold portDisable
  iterate 24 all_goals try first
    | with_reducible exact Eff.refl _
    | with_reducible assumption
    | (with_reducible apply Eff.after (eff_dropRouted ..); · decide)
    | (with_reducible apply Eff.after (eff_setPort ..); · decide)
    | intro _
    | extract_lets
    | with_reducible apply Eff.ite
    | (fail_if_no_progress ((with_reducible refine Eff.upd ?_ rfl rfl rfl rfl rfl rfl rfl rfl rfl rfl ?_); rotate_left; exact rfl))
    | split
    | dsimp only
    | dsimp +zetaDelta only

theorem eff_execPortDisable (p : Fin 16) (s : State) : EffOut [.port] s (execPortDisable p s) := by
  unfold execPortDisable
  iterate 24 all_goals try first
    | with_reducible exact EffOut.stop
    | with_reducible exact EffOut.ill
    | with_reducible refine EffOut.done ?_
    | with_reducible exact Eff.refl _
    | with_reducible assumption
    | (with_reducible apply Eff.after (eff_portDisable ..); · decide)
    | exact (eff_done ..).mono (by decide)
    | intro _
    | extract_lets
    | with_reducible apply Eff.ite
    | split
    | dsimp only
    | dsimp +zetaDelta only

theorem eff_execPortEnable (p : Fin 16) (s : State) : EffOut [.port] s (execPortEnable p s) := by
  unfold execPortEnable
  iterate 24 all_goals try first
    | with_reducible exact EffOut.stop
    | with_reducible exact EffOut.ill
    | with_reducible refine EffOut.done ?_
    | with_reducible exact Eff.refl _
    | with_reducible assumption
    | (with_reducible apply Eff.after (eff_setPort ..); · decide)
    | exact (eff_done ..).mono (by decide)
    | intro _
    | extract_lets
    | with_reducible apply Eff.ite
    | (fail_if_no_progress ((with_reducible refine Eff.upd ?_ rfl rfl rfl rfl rfl rfl rfl rfl rfl rfl ?_); rotate_left; exact rfl))
    | split
    | dsimp only
    | dsimp +zetaDelta only

theorem eff_release (k : Nat) (m : Module) : Eff [.port, .vst, .hlt, .pci, .tray, .dbg, .out] m (release k m) := by
  unfold release
  iterate 24 all_goals try first
    | with_reducible exact Eff.refl _
    | with_reducible assumption
    | (with_reducible apply Eff.after (eff_setPort ..); · decide)
    | (with_reducible apply Eff.after (eff_portDownEv ..); · decide)
    | intro _
    | extract_lets
    | with_reducible apply Eff.ite
    | (fail_if_no_progress ((with_reducible refine Eff.upd ?_ rfl rfl rfl rfl rfl rfl rfl rfl rfl rfl ?_); rotate_left; exact rfl))
    | split
    | dsimp only
    | dsimp +zetaDelta only

theorem eff_execRelease (p : Fin 16) (s : State) : EffOut [.port, .vst, .hlt, .pci, .tray, .dbg, .out] s (execRelease p s) := by
  unfold execRelease
  iterate 24 all_goals try first
    | with_reducible exact EffOut.stop
    | with_reducible exact EffOut.ill
    | with_reducible refine EffOut.done ?_
    | with_reducible exact Eff.refl _
    | with_reducible assumption
    | (with_reducible apply Eff.after (eff_release ..); · decide)
    | exact (eff_done ..).mono (by decide)
    | intro _
    | extract_lets
    | with_reducible apply Eff.ite
    | split
    | dsimp only
    | dsimp +zetaDelta only

theorem eff_execLaneLock (p : Fin 16) (lanes : BitVec 9) (s : State) : EffOut [.port] s (execLaneLock p lanes s) := by
  unfold execLaneLock
  iterate 24 all_goals try first
    | with_reducible exact EffOut.stop
    | with_reducible exact EffOut.ill
    | with_reducible refine EffOut.done ?_
    | with_reducible exact Eff.refl _
    | with_reducible assumption
    | (with_reducible apply Eff.after (eff_setPort ..); · decide)
    | exact (eff_done ..).mono (by decide)
    | intro _
    | extract_lets
    | with_reducible apply Eff.ite
    | (fail_if_no_progress ((with_reducible refine Eff.upd ?_ rfl rfl rfl rfl rfl rfl rfl rfl rfl rfl ?_); rotate_left; exact rfl))
    | split
    | dsimp only
    | dsimp +zetaDelta only

theorem eff_marginRec (kind : Nat) (unit : Nat) (m : Module) : Eff [.mem, .hlt] m (marginRec kind unit m) := by
  unfold marginRec
  iterate 24 all_goals try first
    | with_reducible exact Eff.refl _
    | with_reducible assumption
    | (with_reducible apply Eff.after (eff_freeVal ..); · decide)
    | (with_reducible apply Eff.snd (eff_freeVal ..); with_reducible assumption; · decide)
    | intro _
    | extract_lets
    | with_reducible apply Eff.ite
    | (fail_if_no_progress ((with_reducible refine Eff.upd ?_ rfl rfl rfl rfl rfl rfl rfl rfl rfl rfl ?_); rotate_left; exact rfl))
    | split
    | (with_reducible refine Eff.iteSnd (by assumption) ?_ ?_)
    | dsimp only
    | dsimp +zetaDelta only

theorem eff_quarantineTwin (p : Nat) (k : Nat) (m : Module) : Eff [.port, .vst, .hlt, .pci, .tray, .dbg, .out] m (quarantineTwin p k m) := by
  unfold quarantineTwin
  iterate 24 all_goals try first
    | with_reducible exact Eff.refl _
    | with_reducible assumption
    | (with_reducible apply Eff.after (eff_ev ..); · decide)
    | (with_reducible apply Eff.after (eff_dropRouted ..); · decide)
    | (with_reducible apply Eff.after (eff_setPort ..); · decide)
    | intro _
    | extract_lets
    | with_reducible apply Eff.ite
    | (fail_if_no_progress ((with_reducible refine Eff.upd ?_ rfl rfl rfl rfl rfl rfl rfl rfl rfl rfl ?_); rotate_left; exact rfl))
    | split
    | dsimp only
    | dsimp +zetaDelta only

theorem eff_bringUpEnd (p : Nat) (q : Port) (m : Module) : Eff [.port, .vst, .hlt, .pci, .tray, .dbg, .out] m (bringUpEnd p q m) := by
  unfold bringUpEnd
  iterate 24 all_goals try first
    | with_reducible exact Eff.refl _
    | with_reducible assumption
    | (with_reducible apply Eff.after (eff_clampThr ..); · decide)
    | (with_reducible apply Eff.after (eff_setPort ..); · decide)
    | (with_reducible apply Eff.after (eff_quarantineTwin ..); · decide)
    | (with_reducible apply Eff.after (eff_ev ..); · decide)
    | (with_reducible apply Eff.after (eff_evS ..); · decide)
    | (with_reducible apply Eff.after (eff_portDownEv ..); · decide)
    | intro _
    | extract_lets
    | with_reducible apply Eff.ite
    | with_reducible apply Eff.fold
    | (fail_if_no_progress ((with_reducible refine Eff.upd ?_ rfl rfl rfl rfl rfl rfl rfl rfl rfl rfl ?_); rotate_left; exact rfl))
    | split
    | (with_reducible refine Eff.iteSnd (by assumption) ?_ ?_)
    | dsimp only
    | dsimp +zetaDelta only
    | with_reducible apply Eff.foldSnd
    | with_reducible apply Eff.foldFst
    | with_reducible apply Eff.foldThird

theorem eff_calDueUpdate (m : Module) : Eff [.pwr] m (calDueUpdate m) := by
  unfold calDueUpdate
  iterate 24 all_goals try first
    | with_reducible exact Eff.refl _
    | with_reducible assumption
    | intro _
    | extract_lets
    | with_reducible apply Eff.ite
    | (fail_if_no_progress ((with_reducible refine Eff.upd ?_ rfl rfl rfl rfl rfl rfl rfl rfl rfl rfl ?_); rotate_left; exact rfl))
    | split
    | dsimp only
    | dsimp +zetaDelta only

theorem eff_remeasured (k : Nat) (m : Module) : Eff [.beat] m (remeasured k m) := by
  unfold remeasured
  iterate 24 all_goals try first
    | with_reducible exact Eff.refl _
    | with_reducible assumption
    | intro _
    | extract_lets
    | with_reducible apply Eff.ite
    | (fail_if_no_progress ((with_reducible refine Eff.upd ?_ rfl rfl rfl rfl rfl rfl rfl rfl rfl rfl ?_); rotate_left; exact rfl))
    | split
    | dsimp only
    | dsimp +zetaDelta only

theorem eff_execBringUpComplete (p : Fin 16) (lanes : BitVec 9) (farVer : BitVec 2) (trips : List W32) (turn : W32) (nbrDev : W64) (nbrPort : BitVec 4) (s : State) : EffOut [.beat, .mem, .port, .vst, .hlt, .pwr, .pci, .tray, .dbg, .out] s (execBringUpComplete p lanes farVer trips turn nbrDev nbrPort s) := by
  unfold execBringUpComplete
  iterate 24 all_goals try first
    | with_reducible exact EffOut.stop
    | with_reducible exact EffOut.ill
    | with_reducible refine EffOut.done ?_
    | with_reducible exact Eff.refl _
    | with_reducible assumption
    | (with_reducible apply Eff.after (eff_recvLinks ..); · decide)
    | (with_reducible apply Eff.after (eff_sendLink ..); · decide)
    | (with_reducible apply Eff.after (eff_sendDelays ..); · decide)
    | (with_reducible apply Eff.after (eff_calDueUpdate ..); · decide)
    | (with_reducible apply Eff.after (eff_bringUpEnd ..); · decide)
    | (with_reducible apply Eff.after (eff_marginRec ..); · decide)
    | (with_reducible apply Eff.after (eff_remeasured ..); · decide)
    | exact (eff_done ..).mono (by decide)
    | intro _
    | extract_lets
    | with_reducible apply Eff.ite
    | (fail_if_no_progress ((with_reducible refine Eff.upd ?_ rfl rfl rfl rfl rfl rfl rfl rfl rfl rfl ?_); rotate_left; exact rfl))
    | split
    | dsimp only
    | dsimp +zetaDelta only

theorem eff_execBringUpTimeout (p : Fin 16) (s : State) : EffOut [.clk, .beat, .mem, .port, .cor, .dbg, .out] s (execBringUpTimeout p s) := by
  unfold execBringUpTimeout
  iterate 24 all_goals try first
    | with_reducible exact EffOut.stop
    | with_reducible exact EffOut.ill
    | with_reducible refine EffOut.done ?_
    | with_reducible exact Eff.refl _
    | with_reducible assumption
    | (with_reducible apply Eff.after (eff_passTo ..); · decide)
    | (with_reducible apply Eff.after (eff_setPort ..); · decide)
    | exact (eff_done ..).mono (by decide)
    | intro _
    | extract_lets
    | with_reducible apply Eff.ite
    | (fail_if_no_progress ((with_reducible refine Eff.upd ?_ rfl rfl rfl rfl rfl rfl rfl rfl rfl rfl ?_); rotate_left; exact rfl))
    | split
    | dsimp only
    | dsimp +zetaDelta only

theorem eff_execBringUpRetry (p : Fin 16) (s : State) : EffOut [.clk, .beat, .mem, .port, .cor, .dbg, .out] s (execBringUpRetry p s) := by
  unfold execBringUpRetry
  iterate 24 all_goals try first
    | with_reducible exact EffOut.stop
    | with_reducible exact EffOut.ill
    | with_reducible refine EffOut.done ?_
    | with_reducible exact Eff.refl _
    | with_reducible assumption
    | (with_reducible apply Eff.after (eff_passTo ..); · decide)
    | (with_reducible apply Eff.after (eff_setPort ..); · decide)
    | exact (eff_done ..).mono (by decide)
    | intro _
    | extract_lets
    | with_reducible apply Eff.ite
    | (fail_if_no_progress ((with_reducible refine Eff.upd ?_ rfl rfl rfl rfl rfl rfl rfl rfl rfl rfl ?_); rotate_left; exact rfl))
    | split
    | dsimp only
    | dsimp +zetaDelta only

theorem eff_narrowPort (k : Nat) (m : Module) : Eff [.beat, .port, .vst, .hlt, .pci, .tray, .dbg, .out] m (narrowPort k m) := by
  unfold narrowPort
  iterate 24 all_goals try first
    | with_reducible exact Eff.refl _
    | with_reducible assumption
    | (with_reducible apply Eff.after (eff_needRemeasure ..); · decide)
    | (with_reducible apply Eff.after (eff_sendLink ..); · decide)
    | (with_reducible apply Eff.after (eff_setPort ..); · decide)
    | (with_reducible apply Eff.after (eff_evS ..); · decide)
    | (with_reducible apply Eff.after (eff_portGoDown ..); · decide)
    | intro _
    | extract_lets
    | with_reducible apply Eff.ite
    | (fail_if_no_progress ((with_reducible refine Eff.upd ?_ rfl rfl rfl rfl rfl rfl rfl rfl rfl rfl ?_); rotate_left; exact rfl))
    | split
    | dsimp only
    | dsimp +zetaDelta only

theorem eff_execLaneLoss (p : Fin 16) (lane : Fin 9) (s : State) : EffOut [.beat, .port, .vst, .hlt, .pci, .tray, .dbg, .out] s (execLaneLoss p lane s) := by
  unfold execLaneLoss
  iterate 24 all_goals try first
    | with_reducible exact EffOut.stop
    | with_reducible exact EffOut.ill
    | with_reducible refine EffOut.done ?_
    | with_reducible exact Eff.refl _
    | with_reducible assumption
    | (with_reducible apply Eff.after (eff_setPort ..); · decide)
    | (with_reducible apply Eff.after (eff_needRemeasure ..); · decide)
    | (with_reducible apply Eff.after (eff_sendLink ..); · decide)
    | (with_reducible apply Eff.after (eff_evS ..); · decide)
    | (with_reducible apply Eff.after (eff_narrowPort ..); · decide)
    | (with_reducible apply Eff.after (eff_portGoDown ..); · decide)
    | exact (eff_done ..).mono (by decide)
    | intro _
    | extract_lets
    | with_reducible apply Eff.ite
    | (fail_if_no_progress ((with_reducible refine Eff.upd ?_ rfl rfl rfl rfl rfl rfl rfl rfl rfl rfl ?_); rotate_left; exact rfl))
    | split
    | dsimp only
    | dsimp +zetaDelta only

theorem eff_execLightLoss (p : Fin 16) (s : State) : EffOut [.port, .vst, .hlt, .pci, .tray, .dbg, .out] s (execLightLoss p s) := by
  unfold execLightLoss
  iterate 24 all_goals try first
    | with_reducible exact EffOut.stop
    | with_reducible exact EffOut.ill
    | with_reducible refine EffOut.done ?_
    | with_reducible exact Eff.refl _
    | with_reducible assumption
    | (with_reducible apply Eff.after (eff_portGoDown ..); · decide)
    | (with_reducible apply Eff.after (eff_setPort ..); · decide)
    | exact (eff_done ..).mono (by decide)
    | intro _
    | extract_lets
    | with_reducible apply Eff.ite
    | (fail_if_no_progress ((with_reducible refine Eff.upd ?_ rfl rfl rfl rfl rfl rfl rfl rfl rfl rfl ?_); rotate_left; exact rfl))
    | split
    | dsimp only
    | dsimp +zetaDelta only

theorem eff_execNoFlitTimeout (p : Fin 16) (s : State) : EffOut [.clk, .beat, .mem, .port, .vst, .hlt, .cor, .pci, .tray, .dbg, .out] s (execNoFlitTimeout p s) := by
  unfold execNoFlitTimeout
  iterate 24 all_goals try first
    | with_reducible exact EffOut.stop
    | with_reducible exact EffOut.ill
    | with_reducible refine EffOut.done ?_
    | with_reducible exact Eff.refl _
    | with_reducible assumption
    | (with_reducible apply Eff.after (eff_portGoDown ..); · decide)
    | (with_reducible apply Eff.after (eff_passTo ..); · decide)
    | exact (eff_done ..).mono (by decide)
    | intro _
    | extract_lets
    | with_reducible apply Eff.ite
    | split
    | dsimp only
    | dsimp +zetaDelta only

theorem eff_execRetrainDone (p : Fin 16) (s : State) : EffOut [.beat, .mem, .port, .vst, .hlt, .pwr, .pci, .tray, .dbg, .out] s (execRetrainDone p s) := by
  unfold execRetrainDone
  iterate 24 all_goals try first
    | with_reducible exact EffOut.stop
    | with_reducible exact EffOut.ill
    | with_reducible refine EffOut.done ?_
    | with_reducible exact Eff.refl _
    | with_reducible assumption
    | (with_reducible apply Eff.after (eff_setPort ..); · decide)
    | (with_reducible apply Eff.after (eff_calDueUpdate ..); · decide)
    | (with_reducible apply Eff.after (eff_needRemeasure ..); · decide)
    | (with_reducible apply Eff.after (eff_ev ..); · decide)
    | (with_reducible apply Eff.after (eff_marginRec ..); · decide)
    | exact (eff_done ..).mono (by decide)
    | intro _
    | extract_lets
    | with_reducible apply Eff.ite
    | (fail_if_no_progress ((with_reducible refine Eff.upd ?_ rfl rfl rfl rfl rfl rfl rfl rfl rfl rfl ?_); rotate_left; exact rfl))
    | split
    | dsimp only
    | dsimp +zetaDelta only

theorem eff_retrainAlarm (mask : W64) (m : Module) : Eff [.port, .vst, .hlt, .pci, .tray, .dbg, .out] m (retrainAlarm mask m) := by
  unfold retrainAlarm
  iterate 24 all_goals try first
    | with_reducible exact Eff.refl _
    | with_reducible assumption
    | (with_reducible apply Eff.after (eff_ev ..); · decide)
    | (with_reducible apply Eff.after (eff_sendLink ..); · decide)
    | (with_reducible apply Eff.after (eff_setPort ..); · decide)
    | intro _
    | extract_lets
    | with_reducible apply Eff.ite
    | with_reducible apply Eff.fold
    | (fail_if_no_progress ((with_reducible refine Eff.upd ?_ rfl rfl rfl rfl rfl rfl rfl rfl rfl rfl ?_); rotate_left; exact rfl))
    | split
    | (with_reducible refine Eff.iteSnd (by assumption) ?_ ?_)
    | dsimp only
    | dsimp +zetaDelta only
    | with_reducible apply Eff.foldSnd
    | with_reducible apply Eff.foldFst
    | with_reducible apply Eff.foldThird

theorem eff_execDelayRemeasure (port : Fin 16) (trips : List W32) (turn : W32) (s : State) : EffOut [.beat, .port, .vst, .hlt, .pci, .tray, .dbg, .out] s (execDelayRemeasure port trips turn s) := by
  unfold execDelayRemeasure
  iterate 24 all_goals try first
    | with_reducible exact EffOut.stop
    | with_reducible exact EffOut.ill
    | with_reducible refine EffOut.done ?_
    | with_reducible exact Eff.refl _
    | with_reducible assumption
    | (with_reducible apply Eff.after (eff_sendDelays ..); · decide)
    | (with_reducible apply Eff.after (eff_recvLinks ..); · decide)
    | (with_reducible apply Eff.after (eff_setPort ..); · decide)
    | (with_reducible apply Eff.after (eff_clampThr ..); · decide)
    | (with_reducible apply Eff.after (eff_remeasured ..); · decide)
    | exact (eff_done ..).mono (by decide)
    | intro _
    | extract_lets
    | with_reducible apply Eff.ite
    | (fail_if_no_progress ((with_reducible refine Eff.upd ?_ rfl rfl rfl rfl rfl rfl rfl rfl rfl rfl ?_); rotate_left; exact rfl))
    | split
    | dsimp only
    | dsimp +zetaDelta only

theorem eff_cntUpd (k : Nat) (f : PortCnt → PortCnt) (m : Module) : Eff [.port] m (cntUpd k f m) := by
  unfold cntUpd
  iterate 24 all_goals try first
    | with_reducible exact Eff.refl _
    | with_reducible assumption
    | (with_reducible apply Eff.after (eff_setPort ..); · decide)
    | intro _
    | extract_lets
    | with_reducible apply Eff.ite
    | (fail_if_no_progress ((with_reducible refine Eff.upd ?_ rfl rfl rfl rfl rfl rfl rfl rfl rfl rfl ?_); rotate_left; exact rfl))
    | split
    | dsimp only
    | dsimp +zetaDelta only

theorem eff_endLocal (k : Nat) (c : InPkt) (m : Module) : Eff [.port, .rte] m (endLocal k c m) := by
  unfold endLocal
  iterate 24 all_goals try first
    | with_reducible exact Eff.refl _
    | with_reducible assumption
    | (with_reducible apply Eff.after (eff_cntUpd ..); · decide)
    | intro _
    | extract_lets
    | with_reducible apply Eff.ite
    | (fail_if_no_progress ((with_reducible refine Eff.upd ?_ rfl rfl rfl rfl rfl rfl rfl rfl rfl rfl ?_); rotate_left; exact rfl))
    | split
    | dsimp only
    | dsimp +zetaDelta only

theorem eff_settle (k : Nat) (v : Nat) (c : InPkt) (rest : List InPkt) (m : Module) : Eff [.port, .rte] m (settle k v c rest m) := by
  unfold settle
  iterate 24 all_goals try first
    | with_reducible exact Eff.refl _
    | with_reducible assumption
    | (with_reducible apply Eff.after (eff_setPort ..); · decide)
    | (with_reducible apply Eff.after (eff_endLocal ..); · decide)
    | intro _
    | extract_lets
    | with_reducible apply Eff.ite
    | (fail_if_no_progress ((with_reducible refine Eff.upd ?_ rfl rfl rfl rfl rfl rfl rfl rfl rfl rfl ?_); rotate_left; exact rfl))
    | split
    | dsimp only
    | dsimp +zetaDelta only

theorem eff_headRoute (k : Nat) (h : Hdr) (vcb : Bool) (m : Module) : Eff [.port, .rte, .vst, .hlt, .pci, .tray, .dbg, .out] m (headRoute k h vcb m).2.2 := by
  unfold headRoute
  iterate 24 all_goals try first
    | with_reducible exact Eff.refl _
    | with_reducible assumption
    | (with_reducible apply Eff.after (eff_noRoute ..); · decide)
    | (with_reducible apply Eff.after (eff_cntUpd ..); · decide)
    | intro _
    | extract_lets
    | with_reducible apply Eff.ite
    | (fail_if_no_progress ((with_reducible refine Eff.upd ?_ rfl rfl rfl rfl rfl rfl rfl rfl rfl rfl ?_); rotate_left; exact rfl))
    | split
    | (with_reducible refine Eff.iteSnd (by assumption) ?_ ?_)
    | dsimp only
    | dsimp +zetaDelta only

theorem eff_addOcc (k : Nat) (v : Nat) (n : Nat) (m : Module) : Eff [.port] m (addOcc k v n m) := by
  unfold addOcc
  iterate 24 all_goals try first
    | with_reducible exact Eff.refl _
    | with_reducible assumption
    | (with_reducible apply Eff.after (eff_setPort ..); · decide)
    | intro _
    | extract_lets
    | with_reducible apply Eff.ite
    | (fail_if_no_progress ((with_reducible refine Eff.upd ?_ rfl rfl rfl rfl rfl rfl rfl rfl rfl rfl ?_); rotate_left; exact rfl))
    | split
    | dsimp only
    | dsimp +zetaDelta only

theorem eff_recvHead (k : Nat) (v : Nat) (f : Flit) (h : Hdr) (m : Module) : Eff [.port, .rte, .vst, .hlt, .pci, .tray, .dbg, .out] m (recvHead k v f h m) := by
  unfold recvHead
  iterate 24 all_goals try first
    | with_reducible exact Eff.refl _
    | with_reducible assumption
    | (with_reducible apply Eff.after (eff_cntUpd ..); · decide)
    | (with_reducible apply Eff.after (eff_headRoute ..); · decide)
    | (with_reducible apply Eff.third (eff_headRoute ..); with_reducible assumption; · decide)
    | (with_reducible apply Eff.after (eff_settle ..); · decide)
    | (with_reducible apply Eff.after (eff_addOcc ..); · decide)
    | intro _
    | extract_lets
    | with_reducible apply Eff.ite
    | (fail_if_no_progress ((with_reducible refine Eff.upd ?_ rfl rfl rfl rfl rfl rfl rfl rfl rfl rfl ?_); rotate_left; exact rfl))
    | split
    | (with_reducible refine Eff.iteSnd (by assumption) ?_ ?_)
    | dsimp only
    | dsimp +zetaDelta only

theorem eff_recvMore (k : Nat) (v : Nat) (f : Flit) (m : Module) : Eff [.port, .rte] m (recvMore k v f m) := by
  unfold recvMore
  iterate 24 all_goals try first
    | with_reducible exact Eff.refl _
    | with_reducible assumption
    | (with_reducible apply Eff.after (eff_cntUpd ..); · decide)
    | (with_reducible apply Eff.after (eff_settle ..); · decide)
    | (with_reducible apply Eff.after (eff_addOcc ..); · decide)
    | intro _
    | extract_lets
    | with_reducible apply Eff.ite
    | (fail_if_no_progress ((with_reducible refine Eff.upd ?_ rfl rfl rfl rfl rfl rfl rfl rfl rfl rfl ?_); rotate_left; exact rfl))
    | split
    | dsimp only
    | dsimp +zetaDelta only

theorem eff_receiveFlit (k : Nat) (f : Flit) (m : Module) : Eff [.port, .rte, .vst, .hlt, .pci, .tray, .dbg, .out] m (receiveFlit k f m) := by
  unfold receiveFlit
  iterate 24 all_goals try first
    | with_reducible exact Eff.refl _
    | with_reducible assumption
    | (with_reducible apply Eff.after (eff_cntUpd ..); · decide)
    | (with_reducible apply Eff.after (eff_setPort ..); · decide)
    | (with_reducible apply Eff.after (eff_recvHead ..); · decide)
    | (with_reducible apply Eff.after (eff_recvMore ..); · decide)
    | intro _
    | extract_lets
    | with_reducible apply Eff.ite
    | (fail_if_no_progress ((with_reducible refine Eff.upd ?_ rfl rfl rfl rfl rfl rfl rfl rfl rfl rfl ?_); rotate_left; exact rfl))
    | split
    | dsimp only
    | dsimp +zetaDelta only

theorem eff_execFlitReceive (p : Fin 16) (f : Flit) (s : State) : EffOut [.port, .rte, .vst, .hlt, .pci, .tray, .dbg, .out] s (execFlitReceive p f s) := by
  unfold execFlitReceive
  iterate 24 all_goals try first
    | with_reducible exact EffOut.stop
    | with_reducible exact EffOut.ill
    | with_reducible refine EffOut.done ?_
    | with_reducible exact Eff.refl _
    | with_reducible assumption
    | (with_reducible apply Eff.after (eff_receiveFlit ..); · decide)
    | exact (eff_done ..).mono (by decide)
    | intro _
    | extract_lets
    | with_reducible apply Eff.ite
    | split
    | dsimp only
    | dsimp +zetaDelta only

theorem eff_execTailTimeout (p : Fin 16) (vc : Fin 8) (s : State) : EffOut [.clk, .beat, .mem, .port, .vst, .hlt, .cor, .pci, .tray, .dbg, .out] s (execTailTimeout p vc s) := by
  unfold execTailTimeout
  iterate 24 all_goals try first
    | with_reducible exact EffOut.stop
    | with_reducible exact EffOut.ill
    | with_reducible refine EffOut.done ?_
    | with_reducible exact Eff.refl _
    | with_reducible assumption
    | (with_reducible apply Eff.after (eff_passTo ..); · decide)
    | (with_reducible apply Eff.after (eff_setPort ..); · decide)
    | (with_reducible apply Eff.after (eff_cntUpd ..); · decide)
    | (with_reducible apply Eff.after (eff_ev ..); · decide)
    | exact (eff_done ..).mono (by decide)
    | intro _
    | extract_lets
    | with_reducible apply Eff.ite
    | (fail_if_no_progress ((with_reducible refine Eff.upd ?_ rfl rfl rfl rfl rfl rfl rfl rfl rfl rfl ?_); rotate_left; exact rfl))
    | split
    | dsimp only
    | dsimp +zetaDelta only

theorem eff_allVcs (f : VcSt → VcSt) (m : Module) : Eff [.port] m (allVcs f m) := by
  unfold allVcs
  iterate 24 all_goals try first
    | with_reducible exact Eff.refl _
    | with_reducible assumption
    | (with_reducible apply Eff.after (eff_setPort ..); · decide)
    | intro _
    | extract_lets
    | with_reducible apply Eff.ite
    | with_reducible apply Eff.fold
    | split
    | (with_reducible refine Eff.iteSnd (by assumption) ?_ ?_)
    | dsimp only
    | dsimp +zetaDelta only
    | with_reducible apply Eff.foldSnd
    | with_reducible apply Eff.foldFst
    | with_reducible apply Eff.foldThird

theorem eff_beatXoff (b : Beat) (m : Module) : Eff [.beat, .port] m (beatXoff b m) := by
  unfold beatXoff
  iterate 24 all_goals try first
    | with_reducible exact Eff.refl _
    | with_reducible assumption
    | (with_reducible apply Eff.after (eff_allVcs ..); · decide)
    | intro _
    | extract_lets
    | with_reducible apply Eff.ite
    | (fail_if_no_progress ((with_reducible refine Eff.upd ?_ rfl rfl rfl rfl rfl rfl rfl rfl rfl rfl ?_); rotate_left; exact rfl))
    | split
    | dsimp only
    | dsimp +zetaDelta only

theorem eff_closeWindow (k : Nat) (m : Module) : Eff [.beat, .port] m (closeWindow k m) := by
  unfold closeWindow
  iterate 24 all_goals try first
    | with_reducible exact Eff.refl _
    | with_reducible assumption
    | (with_reducible apply Eff.after (eff_allVcs ..); · decide)
    | (with_reducible apply Eff.after (eff_setPort ..); · decide)
    | intro _
    | extract_lets
    | with_reducible apply Eff.ite
    | with_reducible apply Eff.fold
    | (fail_if_no_progress ((with_reducible refine Eff.upd ?_ rfl rfl rfl rfl rfl rfl rfl rfl rfl rfl ?_); rotate_left; exact rfl))
    | split
    | (with_reducible refine Eff.iteSnd (by assumption) ?_ ?_)
    | dsimp only
    | dsimp +zetaDelta only
    | with_reducible apply Eff.foldSnd
    | with_reducible apply Eff.foldFst
    | with_reducible apply Eff.foldThird

theorem eff_sampleBeat (b : Beat) (m : Module) : Eff [.beat, .port] m (sampleBeat b m) := by
  unfold sampleBeat
  extract_lets k close m1
  have h : Eff [.beat, .port] m m1 := (Eff.ite (eff_closeWindow ..) (.refl _)).trans ((eff_allVcs ..).mono (by decide))
  clear_value m1 close
  exact h.trans (.of_keeps (.of_core rfl) rfl)

theorem eff_execCmapSample (s : State) : EffOut [.clk, .beat, .mem, .port, .cor, .dbg, .out] s (execCmapSample s) := by
  unfold execCmapSample
  iterate 24 all_goals try first
    | with_reducible exact EffOut.stop
    | with_reducible exact EffOut.ill
    | with_reducible refine EffOut.done ?_
    | with_reducible exact Eff.refl _
    | with_reducible assumption
    | (with_reducible apply Eff.after (eff_sampleBeat ..); · decide)
    | (with_reducible apply Eff.after (eff_beatXoff ..); · decide)
    | (with_reducible apply Eff.after (eff_passToBeat ..); · decide)
    | exact (eff_done ..).mono (by decide)
    | intro _
    | extract_lets
    | with_reducible apply Eff.ite
    | split
    | dsimp only
    | dsimp +zetaDelta only

theorem eff_execCmapWindowEnd (s : State) : EffOut [.clk, .beat, .mem, .port, .cor, .dbg, .out] s (execCmapWindowEnd s) := by
  unfold execCmapWindowEnd
  iterate 24 all_goals try first
    | with_reducible exact EffOut.stop
    | with_reducible exact EffOut.ill
    | with_reducible refine EffOut.done ?_
    | with_reducible exact Eff.refl _
    | with_reducible assumption
    | (with_reducible apply Eff.after (eff_closeWindow ..); · decide)
    | (with_reducible apply Eff.after (eff_beatXoff ..); · decide)
    | (with_reducible apply Eff.after (eff_passToBeat ..); · decide)
    | exact (eff_done ..).mono (by decide)
    | intro _
    | extract_lets
    | with_reducible apply Eff.ite
    | (fail_if_no_progress ((with_reducible refine Eff.upd ?_ rfl rfl rfl rfl rfl rfl rfl rfl rfl rfl ?_); rotate_left; exact rfl))
    | split
    | dsimp only
    | dsimp +zetaDelta only

theorem eff_execNutCntClr (p : Fin 16) (s : State) : EffOut [.port] s (execNutCntClr p s) := by
  unfold execNutCntClr
  iterate 24 all_goals try first
    | with_reducible exact EffOut.stop
    | with_reducible exact EffOut.ill
    | with_reducible refine EffOut.done ?_
    | with_reducible exact Eff.refl _
    | with_reducible assumption
    | (with_reducible apply Eff.after (eff_setPort ..); · decide)
    | exact (eff_done ..).mono (by decide)
    | intro _
    | extract_lets
    | with_reducible apply Eff.ite
    | (fail_if_no_progress ((with_reducible refine Eff.upd ?_ rfl rfl rfl rfl rfl rfl rfl rfl rfl rfl ?_); rotate_left; exact rfl))
    | split
    | dsimp only
    | dsimp +zetaDelta only

theorem eff_takeFlit (k : Nat) (v : Nat) (g : Grant) (m : Module) : Eff [.port] m (takeFlit k v g m) := by
  unfold takeFlit
  iterate 24 all_goals try first
    | with_reducible exact Eff.refl _
    | with_reducible assumption
    | (with_reducible apply Eff.after (eff_setPort ..); · decide)
    | intro _
    | extract_lets
    | with_reducible apply Eff.ite
    | (fail_if_no_progress ((with_reducible refine Eff.upd ?_ rfl rfl rfl rfl rfl rfl rfl rfl rfl rfl ?_); rotate_left; exact rfl))
    | split
    | dsimp only
    | dsimp +zetaDelta only

theorem eff_putFlit (k : Nat) (f : Flit) (m : Module) : Eff [.port, .out] m (putFlit k f m) := by
  unfold putFlit
  iterate 24 all_goals try first
    | with_reducible exact Eff.refl _
    | with_reducible assumption
    | (with_reducible apply Eff.after (eff_emit ..); · decide)
    | (with_reducible apply Eff.after (eff_cntUpd ..); · decide)
    | intro _
    | extract_lets
    | with_reducible apply Eff.ite
    | (fail_if_no_progress ((with_reducible refine Eff.upd ?_ rfl rfl rfl rfl rfl rfl rfl rfl rfl rfl ?_); rotate_left; exact rfl))
    | split
    | dsimp only
    | dsimp +zetaDelta only

theorem eff_sendFlit (k : Nat) (m : Module) : Eff [.port, .out] m (sendFlit k m) := by
  unfold sendFlit
  iterate 24 all_goals try first
    | with_reducible exact Eff.refl _
    | with_reducible assumption
    | (with_reducible apply Eff.after (eff_cntUpd ..); · decide)
    | (with_reducible apply Eff.after (eff_putFlit ..); · decide)
    | (with_reducible apply Eff.after (eff_takeFlit ..); · decide)
    | (with_reducible apply Eff.after (eff_setPort ..); · decide)
    | intro _
    | extract_lets
    | with_reducible apply Eff.ite
    | (fail_if_no_progress ((with_reducible refine Eff.upd ?_ rfl rfl rfl rfl rfl rfl rfl rfl rfl rfl ?_); rotate_left; exact rfl))
    | split
    | dsimp only
    | dsimp +zetaDelta only

theorem eff_execFlitSend (p : Fin 16) (s : State) : EffOut [.port, .out] s (execFlitSend p s) := by
  unfold execFlitSend
  iterate 24 all_goals try first
    | with_reducible exact EffOut.stop
    | with_reducible exact EffOut.ill
    | with_reducible refine EffOut.done ?_
    | with_reducible exact Eff.refl _
    | with_reducible assumption
    | (with_reducible apply Eff.after (eff_sendFlit ..); · decide)
    | exact (eff_done ..).mono (by decide)
    | intro _
    | extract_lets
    | with_reducible apply Eff.ite
    | split
    | dsimp only
    | dsimp +zetaDelta only

theorem eff_rteRefuse (code : Nat) (entry : Nat) (m : Module) : Eff [.rte, .vst, .hlt, .pci, .tray, .dbg, .out] m (rteRefuse code entry m) := by
  unfold rteRefuse
  iterate 24 all_goals try first
    | with_reducible exact Eff.refl _
    | with_reducible assumption
    | (with_reducible apply Eff.after (eff_ev ..); · decide)
    | intro _
    | extract_lets
    | with_reducible apply Eff.ite
    | (fail_if_no_progress ((with_reducible refine Eff.upd ?_ rfl rfl rfl rfl rfl rfl rfl rfl rfl rfl ?_); rotate_left; exact rfl))
    | split
    | dsimp only
    | dsimp +zetaDelta only

theorem eff_rteArm (m : Module) : Eff [.rte, .vst, .hlt, .pci, .tray, .dbg, .out] m (rteArm m) := by
  unfold rteArm
  iterate 24 all_goals try first
    | with_reducible exact Eff.refl _
    | with_reducible assumption
    | (with_reducible apply Eff.after (eff_rteRefuse ..); · decide)
    | intro _
    | extract_lets
    | with_reducible apply Eff.ite
    | (fail_if_no_progress ((with_reducible refine Eff.upd ?_ rfl rfl rfl rfl rfl rfl rfl rfl rfl rfl ?_); rotate_left; exact rfl))
    | split
    | dsimp only
    | dsimp +zetaDelta only

theorem eff_rteBad (m : Module) : Eff [.rte] m (rteBad m) := by
  unfold rteBad
  iterate 24 all_goals try first
    | with_reducible exact Eff.refl _
    | with_reducible assumption
    | intro _
    | extract_lets
    | with_reducible apply Eff.ite
    | (fail_if_no_progress ((with_reducible refine Eff.upd ?_ rfl rfl rfl rfl rfl rfl rfl rfl rfl rfl ?_); rotate_left; exact rfl))
    | split
    | dsimp only
    | dsimp +zetaDelta only

theorem eff_rteCancel (m : Module) : Eff [.rte] m (rteCancel m) := by
  unfold rteCancel
  iterate 24 all_goals try first
    | with_reducible exact Eff.refl _
    | with_reducible assumption
    | (with_reducible apply Eff.after (eff_rteBad ..); · decide)
    | intro _
    | extract_lets
    | with_reducible apply Eff.ite
    | (fail_if_no_progress ((with_reducible refine Eff.upd ?_ rfl rfl rfl rfl rfl rfl rfl rfl rfl rfl ?_); rotate_left; exact rfl))
    | split
    | dsimp only
    | dsimp +zetaDelta only

theorem eff_execRteArm (s : State) : EffOut [.rte, .vst, .hlt, .pci, .tray, .dbg, .out] s (execRteArm s) := by
  unfold execRteArm
  iterate 24 all_goals try first
    | with_reducible exact EffOut.stop
    | with_reducible exact EffOut.ill
    | with_reducible refine EffOut.done ?_
    | with_reducible exact Eff.refl _
    | with_reducible assumption
    | (with_reducible apply Eff.after (eff_rteArm ..); · decide)
    | exact (eff_done ..).mono (by decide)
    | intro _
    | extract_lets
    | with_reducible apply Eff.ite
    | split
    | dsimp only
    | dsimp +zetaDelta only

theorem eff_execRteCancel (s : State) : EffOut [.rte] s (execRteCancel s) := by
  unfold execRteCancel
  iterate 24 all_goals try first
    | with_reducible exact EffOut.stop
    | with_reducible exact EffOut.ill
    | with_reducible refine EffOut.done ?_
    | with_reducible exact Eff.refl _
    | with_reducible assumption
    | (with_reducible apply Eff.after (eff_rteCancel ..); · decide)
    | exact (eff_done ..).mono (by decide)
    | intro _
    | extract_lets
    | with_reducible apply Eff.ite
    | split
    | dsimp only
    | dsimp +zetaDelta only

theorem eff_doSwap (m : Module) : Eff [.rte, .vst, .hlt, .pci, .tray, .dbg, .out] m (doSwap m) := by
  unfold doSwap
  iterate 24 all_goals try first
    | with_reducible exact Eff.refl _
    | with_reducible assumption
    | (with_reducible apply Eff.after (eff_ev ..); · decide)
    | intro _
    | extract_lets
    | with_reducible apply Eff.ite
    | (fail_if_no_progress ((with_reducible refine Eff.upd ?_ rfl rfl rfl rfl rfl rfl rfl rfl rfl rfl ?_); rotate_left; exact rfl))
    | split
    | dsimp only
    | dsimp +zetaDelta only

theorem eff_execSwap (s : State) : EffOut [.clk, .beat, .mem, .rte, .vst, .hlt, .cor, .pci, .tray, .dbg, .out] s (execSwap s) := by
  unfold execSwap
  iterate 24 all_goals try first
    | with_reducible exact EffOut.stop
    | with_reducible exact EffOut.ill
    | with_reducible refine EffOut.done ?_
    | with_reducible exact Eff.refl _
    | with_reducible assumption
    | (with_reducible apply Eff.after (eff_passToBeat ..); · decide)
    | (with_reducible apply Eff.after (eff_rteRefuse ..); · decide)
    | (with_reducible apply Eff.after (eff_doSwap ..); · decide)
    | exact (eff_done ..).mono (by decide)
    | intro _
    | extract_lets
    | with_reducible apply Eff.ite
    | (fail_if_no_progress ((with_reducible refine Eff.upd ?_ rfl rfl rfl rfl rfl rfl rfl rfl rfl rfl ?_); rotate_left; exact rfl))
    | split
    | dsimp only
    | dsimp +zetaDelta only

theorem eff_rteShadowWrite (off : Nat) (bytes : Nat) (val : W64) (m : Module) : Eff [.rte, .dbg] m (rteShadowWrite off bytes val m) := by
  unfold rteShadowWrite
  iterate 24 all_goals try first
    | with_reducible exact Eff.refl _
    | with_reducible assumption
    | intro _
    | extract_lets
    | with_reducible apply Eff.ite
    | (fail_if_no_progress ((with_reducible refine Eff.upd ?_ rfl rfl rfl rfl rfl rfl rfl rfl rfl rfl ?_); rotate_left; exact rfl))
    | split
    | dsimp only
    | dsimp +zetaDelta only

theorem eff_execRteShadowWrite (off : Nat) (bytes : Nat) (val : W64) (s : State) : EffOut [.rte, .pci, .dbg] s (execRteShadowWrite off bytes val s) := by
  unfold execRteShadowWrite
  iterate 24 all_goals try first
    | with_reducible exact EffOut.stop
    | with_reducible exact EffOut.ill
    | with_reducible refine EffOut.done ?_
    | with_reducible exact Eff.refl _
    | with_reducible assumption
    | (with_reducible apply Eff.after (eff_rteShadowWrite ..); · decide)
    | (with_reducible apply Eff.after (eff_unmapped ..); · decide)
    | exact (eff_done ..).mono (by decide)
    | intro _
    | extract_lets
    | with_reducible apply Eff.ite
    | split
    | dsimp only
    | dsimp +zetaDelta only

theorem eff_execRteCntClr (s : State) : EffOut [.rte] s (execRteCntClr s) := by
  unfold execRteCntClr
  iterate 24 all_goals try first
    | with_reducible exact EffOut.stop
    | with_reducible exact EffOut.ill
    | with_reducible refine EffOut.done ?_
    | with_reducible exact Eff.refl _
    | with_reducible assumption
    | exact (eff_done ..).mono (by decide)
    | intro _
    | extract_lets
    | with_reducible apply Eff.ite
    | (fail_if_no_progress ((with_reducible refine Eff.upd ?_ rfl rfl rfl rfl rfl rfl rfl rfl rfl rfl ?_); rotate_left; exact rfl))
    | split
    | dsimp only
    | dsimp +zetaDelta only

end Sys2Proof.Laws
end

