-- ==== Sys2Proof/Laws/EffPwr.lean ====
section
/-! SUPPORT. What the operations of Pwr.lean keep, and what they may change. -/

namespace Sys2Proof.Laws
open Sys2Proof.Machine

theorem eff_pwrEv (code : Nat) (sev : Nat) (d : W64) (m : Module) : Eff [.vst, .hlt, .pci, .tray, .dbg, .out] m (pwrEv code sev d m) := by
  unfold pwrEv
  iterate 24 all_goals try first
    | with_reducible exact Eff.refl _
    | with_reducible assumption
    | (with_reducible apply Eff.after (eff_ev ..); · decide)
    | intro _
    | extract_lets
    | with_reducible apply Eff.ite
    | split
    | dsimp only
    | dsimp +zetaDelta only

theorem eff_setPwr (m : Module) (x : Pwr) : Eff [.pwr] m (setPwr m x) := by
  unfold setPwr
  iterate 24 all_goals try first
    | with_reducible exact Eff.refl _
    | with_reducible assumption
    | intro _
    | extract_lets
    | with_reducible apply Eff.ite
    | (fail_if_no_progress ((with_reducible refine Eff.upd ?_ rfl rfl rfl rfl rfl rfl rfl rfl rfl rfl ?_); rotate_left; exact rfl))
    | split
    | dsimp only
    | dsimp +zetaDelta only

theorem eff_setReason (r : Nat) (x : Reason) (m : Module) : Eff [.pwr] m (setReason r x m) := by
  unfold setReason
  iterate 24 all_goals try first
    | with_reducible exact Eff.refl _
    | with_reducible assumption
    | intro _
    | extract_lets
    | with_reducible apply Eff.ite
    | (fail_if_no_progress ((with_reducible refine Eff.upd ?_ rfl rfl rfl rfl rfl rfl rfl rfl rfl rfl ?_); rotate_left; exact rfl))
    | split
    | dsimp only
    | dsimp +zetaDelta only

theorem eff_noteDeepest (m : Module) : Eff [.vst, .pwr] m (noteDeepest m) := by
  unfold noteDeepest
  iterate 24 all_goals try first
    | with_reducible exact Eff.refl _
    | with_reducible assumption
    | (with_reducible apply Eff.after (eff_setVst ..); · decide)
    | intro _
    | extract_lets
    | with_reducible apply Eff.ite
    | with_reducible apply Eff.fold
    | (fail_if_no_progress ((with_reducible refine Eff.upd ?_ rfl rfl rfl rfl rfl rfl rfl rfl rfl rfl ?_); rotate_left; exact rfl))
    | split
    | (with_reducible refine Eff.iteSnd (by assumption) ?_ ?_)
    | dsimp only
    | dsimp +zetaDelta only
    | with_reducible apply Eff.foldSnd
    | with_reducible apply Eff.foldFst
    | with_reducible apply Eff.foldThird

theorem eff_throttleEv (r : Nat) (m : Module) : Eff [.vst, .hlt, .pwr, .pci, .tray, .dbg, .out] m (throttleEv r m) := by
  unfold throttleEv
  iterate 24 all_goals try first
    | with_reducible exact Eff.refl _
    | with_reducible assumption
    | (with_reducible apply Eff.after (eff_pwrEv ..); · decide)
    | (with_reducible apply Eff.after (eff_setReason ..); · decide)
    | intro _
    | extract_lets
    | with_reducible apply Eff.ite
    | (fail_if_no_progress ((with_reducible refine Eff.upd ?_ rfl rfl rfl rfl rfl rfl rfl rfl rfl rfl ?_); rotate_left; exact rfl))
    | split
    | dsimp only
    | dsimp +zetaDelta only

theorem eff_setLevel (r : Nat) (n : Nat) (m : Module) : Eff [.vst, .pwr, .tray] m (setLevel r n m) := by
  unfold setLevel
  iterate 24 all_goals try first
    | with_reducible exact Eff.refl _
    | with_reducible assumption
    | (with_reducible apply Eff.after (eff_noteDeepest ..); · decide)
    | (with_reducible apply Eff.after (eff_setReason ..); · decide)
    | (with_reducible apply Eff.after (eff_trayAlert ..); · decide)
    | intro _
    | extract_lets
    | with_reducible apply Eff.ite
    | (fail_if_no_progress ((with_reducible refine Eff.upd ?_ rfl rfl rfl rfl rfl rfl rfl rfl rfl rfl ?_); rotate_left; exact rfl))
    | split
    | dsimp only
    | dsimp +zetaDelta only

theorem eff_startReason (r : Nat) (n : Nat) (m : Module) : Eff [.vst, .hlt, .pwr, .pci, .tray, .dbg, .out] m (startReason r n m) := by
  unfold startReason
  iterate 24 all_goals try first
    | with_reducible exact Eff.refl _
    | with_reducible assumption
    | (with_reducible apply Eff.after (eff_throttleEv ..); · decide)
    | (with_reducible apply Eff.after (eff_setLevel ..); · decide)
    | (with_reducible apply Eff.after (eff_setReason ..); · decide)
    | intro _
    | extract_lets
    | with_reducible apply Eff.ite
    | (fail_if_no_progress ((with_reducible refine Eff.upd ?_ rfl rfl rfl rfl rfl rfl rfl rfl rfl rfl ?_); rotate_left; exact rfl))
    | split
    | dsimp only
    | dsimp +zetaDelta only

theorem eff_endReason (r : Nat) (m : Module) : Eff [.pwr] m (endReason r m) := by
  unfold endReason
  iterate 24 all_goals try first
    | with_reducible exact Eff.refl _
    | with_reducible assumption
    | (with_reducible apply Eff.after (eff_setReason ..); · decide)
    | intro _
    | extract_lets
    | with_reducible apply Eff.ite
    | (fail_if_no_progress ((with_reducible refine Eff.upd ?_ rfl rfl rfl rfl rfl rfl rfl rfl rfl rfl ?_); rotate_left; exact rfl))
    | split
    | dsimp only
    | dsimp +zetaDelta only

theorem eff_guardAlarm (m : Module) : Eff [.pwr] m (guardAlarm m) := by
  unfold guardAlarm
  iterate 24 all_goals try first
    | with_reducible exact Eff.refl _
    | with_reducible assumption
    | intro _
    | extract_lets
    | with_reducible apply Eff.ite
    | (fail_if_no_progress ((with_reducible refine Eff.upd ?_ rfl rfl rfl rfl rfl rfl rfl rfl rfl rfl ?_); rotate_left; exact rfl))
    | split
    | dsimp only
    | dsimp +zetaDelta only

theorem eff_execThrottle (reason : Fin 6) (s : State) : EffOut [.vst, .hlt, .pwr, .pci, .tray, .dbg, .out] s (execThrottle reason s) := by
  unfold execThrottle
  iterate 24 all_goals try first
    | with_reducible exact EffOut.stop
    | with_reducible exact EffOut.ill
    | with_reducible refine EffOut.done ?_
    | with_reducible exact Eff.refl _
    | with_reducible assumption
    | (with_reducible apply Eff.after (eff_throttleEv ..); · decide)
    | (with_reducible apply Eff.after (eff_setLevel ..); · decide)
    | (with_reducible apply Eff.after (eff_guardAlarm ..); · decide)
    | (with_reducible apply Eff.after (eff_startReason ..); · decide)
    | exact (eff_done ..).mono (by decide)
    | intro _
    | extract_lets
    | with_reducible apply Eff.ite
    | split
    | dsimp only
    | dsimp +zetaDelta only

theorem eff_execThrottleLevelChange (reason : Fin 6) (up : Bool) (s : State) : EffOut [.clk, .beat, .mem, .vst, .hlt, .cor, .pwr, .pci, .tray, .dbg, .out] s (execThrottleLevelChange reason up s) := by
  unfold execThrottleLevelChange
  iterate 24 all_goals try first
    | with_reducible exact EffOut.stop
    | with_reducible exact EffOut.ill
    | with_reducible refine EffOut.done ?_
    | with_reducible exact Eff.refl _
    | with_reducible assumption
    | (with_reducible apply Eff.after (eff_passTo ..); · decide)
    | (with_reducible apply Eff.after (eff_throttleEv ..); · decide)
    | (with_reducible apply Eff.after (eff_setLevel ..); · decide)
    | exact (eff_done ..).mono (by decide)
    | intro _
    | extract_lets
    | with_reducible apply Eff.ite
    | split
    | dsimp only
    | dsimp +zetaDelta only

theorem eff_execThrottleEnd (reason : Fin 6) (s : State) : EffOut [.clk, .beat, .mem, .cor, .pwr, .dbg, .out] s (execThrottleEnd reason s) := by
  unfold execThrottleEnd
  iterate 24 all_goals try first
    | with_reducible exact EffOut.stop
    | with_reducible exact EffOut.ill
    | with_reducible refine EffOut.done ?_
    | with_reducible exact Eff.refl _
    | with_reducible assumption
    | (with_reducible apply Eff.after (eff_endReason ..); · decide)
    | (with_reducible apply Eff.after (eff_passTo ..); · decide)
    | exact (eff_done ..).mono (by decide)
    | intro _
    | extract_lets
    | with_reducible apply Eff.ite
    | split
    | dsimp only
    | dsimp +zetaDelta only

theorem eff_gateSweep (m : Module) : Eff [.gal, .bal] m (gateSweep m) := by
  unfold gateSweep
  iterate 24 all_goals try first
    | with_reducible exact Eff.refl _
    | with_reducible assumption
    | (with_reducible apply Eff.after (eff_setGal ..); · decide)
    | (with_reducible apply Eff.after (eff_setBal ..); · decide)
    | intro _
    | extract_lets
    | with_reducible apply Eff.ite
    | with_reducible apply Eff.fold
    | split
    | (with_reducible refine Eff.iteSnd (by assumption) ?_ ?_)
    | dsimp only
    | dsimp +zetaDelta only
    | with_reducible apply Eff.foldSnd
    | with_reducible apply Eff.foldFst
    | with_reducible apply Eff.foldThird

theorem eff_opChangedEv (m : Module) : Eff [.vst, .hlt, .pci, .tray, .dbg, .out] m (opChangedEv m) := by
  unfold opChangedEv
  iterate 24 all_goals try first
    | with_reducible exact Eff.refl _
    | with_reducible assumption
    | (with_reducible apply Eff.after (eff_pwrEv ..); · decide)
    | intro _
    | extract_lets
    | with_reducible apply Eff.ite
    | split
    | dsimp only
    | dsimp +zetaDelta only

theorem eff_setPoint (op : Nat) (crit : Bool) (m : Module) : Eff [.gal, .bal, .vst, .hlt, .pwr, .pci, .tray, .dbg, .out] m (setPoint op crit m) := by
  unfold setPoint
  iterate 24 all_goals try first
    | with_reducible exact Eff.refl _
    | with_reducible assumption
    | (with_reducible apply Eff.after (eff_gateSweep ..); · decide)
    | (with_reducible apply Eff.after (eff_endReason ..); · decide)
    | (with_reducible apply Eff.after (eff_startReason ..); · decide)
    | (with_reducible apply Eff.after (eff_calDueUpdate ..); · decide)
    | intro _
    | extract_lets
    | with_reducible apply Eff.ite
    | (fail_if_no_progress ((with_reducible refine Eff.upd ?_ rfl rfl rfl rfl rfl rfl rfl rfl rfl rfl ?_); rotate_left; exact rfl))
    | split
    | dsimp only
    | dsimp +zetaDelta only

theorem eff_powerAlarm (arg : W64) (m : Module) : Eff [.gal, .bal, .mem, .vst, .hlt, .pwr, .pci, .tray, .dbg, .out] m (powerAlarm arg m) := by
  unfold powerAlarm
  iterate 24 all_goals try first
    | with_reducible exact Eff.refl _
    | with_reducible assumption
    | (with_reducible apply Eff.after (eff_freeVal ..); · decide)
    | (with_reducible apply Eff.snd (eff_freeVal ..); with_reducible assumption; · decide)
    | (with_reducible apply Eff.after (eff_pwrEv ..); · decide)
    | (with_reducible apply Eff.after (eff_setPoint ..); · decide)
    | (with_reducible apply Eff.after (eff_opChangedEv ..); · decide)
    | intro _
    | extract_lets
    | with_reducible apply Eff.ite
    | (fail_if_no_progress ((with_reducible refine Eff.upd ?_ rfl rfl rfl rfl rfl rfl rfl rfl rfl rfl ?_); rotate_left; exact rfl))
    | split
    | dsimp only
    | dsimp +zetaDelta only

theorem eff_execOpChanged (s : State) : EffOut [.clk, .beat, .mem, .vst, .hlt, .cor, .pwr, .pci, .tray, .dbg, .out] s (execOpChanged s) := by
  unfold execOpChanged
  iterate 24 all_goals try first
    | with_reducible exact EffOut.stop
    | with_reducible exact EffOut.ill
    | with_reducible refine EffOut.done ?_
    | with_reducible exact Eff.refl _
    | with_reducible assumption
    | (with_reducible apply Eff.after (eff_passTo ..); · decide)
    | (with_reducible apply Eff.after (eff_opChangedEv ..); · decide)
    | exact (eff_done ..).mono (by decide)
    | intro _
    | extract_lets
    | with_reducible apply Eff.ite
    | (fail_if_no_progress ((with_reducible refine Eff.upd ?_ rfl rfl rfl rfl rfl rfl rfl rfl rfl rfl ?_); rotate_left; exact rfl))
    | split
    | dsimp only
    | dsimp +zetaDelta only

theorem eff_execThermWarn (temp : BitVec 8) (s : State) : EffOut [.vst, .hlt, .pwr, .pci, .tray, .dbg, .out] s (execThermWarn temp s) := by
  unfold execThermWarn
  iterate 24 all_goals try first
    | with_reducible exact EffOut.stop
    | with_reducible exact EffOut.ill
    | with_reducible refine EffOut.done ?_
    | with_reducible exact Eff.refl _
    | with_reducible assumption
    | (with_reducible apply Eff.after (eff_pwrEv ..); · decide)
    | exact (eff_done ..).mono (by decide)
    | intro _
    | extract_lets
    | with_reducible apply Eff.ite
    | (fail_if_no_progress ((with_reducible refine Eff.upd ?_ rfl rfl rfl rfl rfl rfl rfl rfl rfl rfl ?_); rotate_left; exact rfl))
    | split
    | dsimp only
    | dsimp +zetaDelta only

theorem eff_execThermTrip (temp : BitVec 8) (s : State) : EffOut [.vst, .hlt, .pwr, .pci, .tray, .dbg, .out] s (execThermTrip temp s) := by
  unfold execThermTrip
  iterate 24 all_goals try first
    | with_reducible exact EffOut.stop
    | with_reducible exact EffOut.ill
    | with_reducible refine EffOut.done ?_
    | with_reducible exact Eff.refl _
    | with_reducible assumption
    | (with_reducible apply Eff.after (eff_pwrEv ..); · decide)
    | exact (eff_done ..).mono (by decide)
    | intro _
    | extract_lets
    | with_reducible apply Eff.ite
    | (fail_if_no_progress ((with_reducible refine Eff.upd ?_ rfl rfl rfl rfl rfl rfl rfl rfl rfl rfl ?_); rotate_left; exact rfl))
    | split
    | dsimp only
    | dsimp +zetaDelta only

theorem eff_slackRecord (p : Nat) (n : Beat) (m : Module) : Eff [.port, .rte, .vst, .hlt, .cor, .pwr, .sec, .pci, .tray, .dbg, .out] m (slackRecord p n m) := by
  unfold slackRecord
  iterate 24 all_goals try first
    | with_reducible exact Eff.refl _
    | with_reducible assumption
    | (with_reducible apply Eff.after (eff_inject ..); · decide)
    | intro _
    | extract_lets
    | with_reducible apply Eff.ite
    | (fail_if_no_progress ((with_reducible refine Eff.upd ?_ rfl rfl rfl rfl rfl rfl rfl rfl rfl rfl ?_); rotate_left; exact rfl))
    | split
    | dsimp only
    | dsimp +zetaDelta only

theorem eff_execCalDue (s : State) : EffOut [.vst, .hlt, .pwr, .pci, .tray, .dbg, .out] s (execCalDue s) := by
  unfold execCalDue
  iterate 24 all_goals try first
    | with_reducible exact EffOut.stop
    | with_reducible exact EffOut.ill
    | with_reducible refine EffOut.done ?_
    | with_reducible exact Eff.refl _
    | with_reducible assumption
    | (with_reducible apply Eff.after (eff_pwrEv ..); · decide)
    | exact (eff_done ..).mono (by decide)
    | intro _
    | extract_lets
    | with_reducible apply Eff.ite
    | (fail_if_no_progress ((with_reducible refine Eff.upd ?_ rfl rfl rfl rfl rfl rfl rfl rfl rfl rfl ?_); rotate_left; exact rfl))
    | split
    | dsimp only
    | dsimp +zetaDelta only

theorem eff_execRecalDone (minMv : BitVec 16) (band : BitVec 2) (s : State) : EffOut [.clk, .beat, .mem, .vst, .hlt, .cor, .pwr, .pci, .tray, .dbg, .out] s (execRecalDone minMv band s) := by
  unfold execRecalDone
  iterate 24 all_goals try first
    | with_reducible exact EffOut.stop
    | with_reducible exact EffOut.ill
    | with_reducible refine EffOut.done ?_
    | with_reducible exact Eff.refl _
    | with_reducible assumption
    | (with_reducible apply Eff.after (eff_passTo ..); · decide)
    | (with_reducible apply Eff.after (eff_calDueUpdate ..); · decide)
    | (with_reducible apply Eff.after (eff_pwrEv ..); · decide)
    | exact (eff_done ..).mono (by decide)
    | intro _
    | extract_lets
    | with_reducible apply Eff.ite
    | (fail_if_no_progress ((with_reducible refine Eff.upd ?_ rfl rfl rfl rfl rfl rfl rfl rfl rfl rfl ?_); rotate_left; exact rfl))
    | split
    | dsimp only
    | dsimp +zetaDelta only

theorem eff_calibrate (m : Module) : Eff [.mem, .pwr] m (calibrate m) := by
  unfold calibrate
  iterate 24 all_goals try first
    | with_reducible exact Eff.refl _
    | with_reducible assumption
    | (with_reducible apply Eff.after (eff_freeVal ..); · decide)
    | (with_reducible apply Eff.snd (eff_freeVal ..); with_reducible assumption; · decide)
    | intro _
    | extract_lets
    | with_reducible apply Eff.ite
    | with_reducible apply Eff.fold
    | (fail_if_no_progress ((with_reducible refine Eff.upd ?_ rfl rfl rfl rfl rfl rfl rfl rfl rfl rfl ?_); rotate_left; exact rfl))
    | split
    | (with_reducible refine Eff.iteSnd (by assumption) ?_ ?_)
    | dsimp only
    | dsimp +zetaDelta only
    | with_reducible apply Eff.foldSnd
    | with_reducible apply Eff.foldFst
    | with_reducible apply Eff.foldThird

theorem eff_execHoldupLow (tenMv : BitVec 16) (s : State) : EffOut [.vst, .hlt, .pwr, .pci, .tray, .dbg, .out] s (execHoldupLow tenMv s) := by
  unfold execHoldupLow
  iterate 24 all_goals try first
    | with_reducible exact EffOut.stop
    | with_reducible exact EffOut.ill
    | with_reducible refine EffOut.done ?_
    | with_reducible exact Eff.refl _
    | with_reducible assumption
    | (with_reducible apply Eff.after (eff_pwrEv ..); · decide)
    | exact (eff_done ..).mono (by decide)
    | intro _
    | extract_lets
    | with_reducible apply Eff.ite
    | (fail_if_no_progress ((with_reducible refine Eff.upd ?_ rfl rfl rfl rfl rfl rfl rfl rfl rfl rfl ?_); rotate_left; exact rfl))
    | split
    | dsimp only
    | dsimp +zetaDelta only

theorem eff_execHoldupDisagree (derived : BitVec 16) (measured : BitVec 16) (s : State) : EffOut [.vst, .hlt, .pwr, .pci, .tray, .dbg, .out] s (execHoldupDisagree derived measured s) := by
  unfold execHoldupDisagree
  iterate 24 all_goals try first
    | with_reducible exact EffOut.stop
    | with_reducible exact EffOut.ill
    | with_reducible refine EffOut.done ?_
    | with_reducible exact Eff.refl _
    | with_reducible assumption
    | (with_reducible apply Eff.after (eff_pwrEv ..); · decide)
    | exact (eff_done ..).mono (by decide)
    | intro _
    | extract_lets
    | with_reducible apply Eff.ite
    | (fail_if_no_progress ((with_reducible refine Eff.upd ?_ rfl rfl rfl rfl rfl rfl rfl rfl rfl rfl ?_); rotate_left; exact rfl))
    | split
    | dsimp only
    | dsimp +zetaDelta only

end Sys2Proof.Laws
end

