-- ==== Sys2Proof/Laws/EffCmp.lean ====
section
/-! SUPPORT. What the operations of Cmp.lean keep, and what they may change. -/

namespace Sys2Proof.Laws
open Sys2Proof.Machine

theorem eff_compared (w : Nat) (n : Nat) (m : Module) : Eff [.chk] m (compared w n m) := by
  unfold compared
  iterate 24 all_goals try first
    | with_reducible exact Eff.refl _
    | with_reducible assumption
    | (with_reducible apply Eff.after (eff_setChk ..); · decide)
    | intro _
    | extract_lets
    | with_reducible apply Eff.ite
    | (fail_if_no_progress ((with_reducible refine Eff.upd ?_ rfl rfl rfl rfl rfl rfl rfl rfl rfl rfl ?_); rotate_left; exact rfl))
    | split
    | dsimp only
    | dsimp +zetaDelta only

theorem eff_mismatch (w : Nat) (qcls : Nat) (unit : Nat) (scored : List Nat) (d : Desc) (m : Module) : Eff [.vst, .chk, .hlt, .pci, .tray, .dbg, .out] m (mismatch w qcls unit scored d m) := by
  unfold mismatch
  iterate 24 all_goals try first
    | with_reducible exact Eff.refl _
    | with_reducible assumption
    | (with_reducible apply Eff.after (eff_setChk ..); · decide)
    | (with_reducible apply Eff.after (eff_score ..); · decide)
    | (with_reducible apply Eff.after (eff_ev ..); · decide)
    | intro _
    | extract_lets
    | with_reducible apply Eff.ite
    | with_reducible apply Eff.fold
    | (fail_if_no_progress ((with_reducible refine Eff.upd ?_ rfl rfl rfl rfl rfl rfl rfl rfl rfl rfl ?_); rotate_left; exact rfl))
    | split
    | (with_reducible refine Eff.iteSnd (by assumption) ?_ ?_)
    | dsimp only
    | dsimp +zetaDelta only
    | with_reducible apply Eff.foldSnd
    | with_reducible apply Eff.foldFst
    | with_reducible apply Eff.foldThird

theorem eff_comparePair (w : Nat) (qcls : Nat) (unit : Nat) (n : Nat) (bad : Nat) (d : Desc) (m : Module) : Eff [.vst, .chk, .hlt, .pci, .tray, .dbg, .out] m (comparePair w qcls unit n bad d m) := by
  unfold comparePair
  iterate 24 all_goals try first
    | with_reducible exact Eff.refl _
    | with_reducible assumption
    | (with_reducible apply Eff.after (eff_mismatch ..); · decide)
    | (with_reducible apply Eff.after (eff_compared ..); · decide)
    | intro _
    | extract_lets
    | with_reducible apply Eff.ite
    | with_reducible apply Eff.fold
    | split
    | (with_reducible refine Eff.iteSnd (by assumption) ?_ ?_)
    | dsimp only
    | dsimp +zetaDelta only
    | with_reducible apply Eff.foldSnd
    | with_reducible apply Eff.foldFst
    | with_reducible apply Eff.foldThird

theorem eff_eccEvents (cls : Nat) (unit : Nat) (d : Desc) (hits : List EccHit) (m : Module) : Eff [.vst, .hlt, .pci, .tray, .dbg, .out] m (eccEvents cls unit d hits m) := by
  unfold eccEvents
  iterate 24 all_goals try first
    | with_reducible exact Eff.refl _
    | with_reducible assumption
    | (with_reducible apply Eff.after (eff_evS ..); · decide)
    | intro _
    | extract_lets
    | with_reducible apply Eff.ite
    | with_reducible apply Eff.fold
    | split
    | (with_reducible refine Eff.iteSnd (by assumption) ?_ ?_)
    | dsimp only
    | dsimp +zetaDelta only
    | with_reducible apply Eff.foldSnd
    | with_reducible apply Eff.foldFst
    | with_reducible apply Eff.foldThird

theorem eff_readRows (w p : ℕ) (a : W64) (stride n k : ℕ) (m : Module) : Eff [.mem, .flt, .vst, .hlt, .cor, .pci, .tray, .dbg, .out] m (readRows w p a stride n k m).2 := by
  induction k with
  | zero => exact .refl _
  | succ k ih => exact ih.trans (eff_hallRead ..)

end Sys2Proof.Laws
end

