-- ==== Sys2Proof/Laws/EffFlt.lean ====
section
/-! SUPPORT. What the operations of Flt.lean keep, and what they may change. -/

namespace Sys2Proof.Laws
open Sys2Proof.Machine

theorem eff_updFltOp (f : Nat) (i : Nat) (g : FltOp → FltOp) (m : Module) : Eff [.flt] m (updFltOp f i g m) := by
  unfold updFltOp
  iterate 24 all_goals try first
    | with_reducible exact Eff.refl _
    | with_reducible assumption
    | (with_reducible apply Eff.after (eff_setFlt ..); · decide)
    | intro _
    | extract_lets
    | with_reducible apply Eff.ite
    | (fail_if_no_progress ((with_reducible refine Eff.upd ?_ rfl rfl rfl rfl rfl rfl rfl rfl rfl rfl ?_); rotate_left; exact rfl))
    | split
    | dsimp only
    | dsimp +zetaDelta only

theorem eff_tagStall (f : Nat) (m : Module) : Eff [.flt] m (tagStall f m) := by
  unfold tagStall
  iterate 24 all_goals try first
    | with_reducible exact Eff.refl _
    | with_reducible assumption
    | (with_reducible apply Eff.after (eff_setFlt ..); · decide)
    | intro _
    | extract_lets
    | with_reducible apply Eff.ite
    | (fail_if_no_progress ((with_reducible refine Eff.upd ?_ rfl rfl rfl rfl rfl rfl rfl rfl rfl rfl ?_); rotate_left; exact rfl))
    | split
    | dsimp only
    | dsimp +zetaDelta only

theorem eff_stallEnd (f : Nat) (m : Module) : Eff [.flt] m (stallEnd f m) := by
  unfold stallEnd
  iterate 24 all_goals try first
    | with_reducible exact Eff.refl _
    | with_reducible assumption
    | (with_reducible apply Eff.after (eff_setFlt ..); · decide)
    | intro _
    | extract_lets
    | with_reducible apply Eff.ite
    | (fail_if_no_progress ((with_reducible refine Eff.upd ?_ rfl rfl rfl rfl rfl rfl rfl rfl rfl rfl ?_); rotate_left; exact rfl))
    | split
    | dsimp only
    | dsimp +zetaDelta only

theorem eff_noteTags (f : Nat) (m : Module) : Eff [.flt] m (noteTags f m) := by
  unfold noteTags
  iterate 24 all_goals try first
    | with_reducible exact Eff.refl _
    | with_reducible assumption
    | (with_reducible apply Eff.after (eff_setFlt ..); · decide)
    | intro _
    | extract_lets
    | with_reducible apply Eff.ite
    | (fail_if_no_progress ((with_reducible refine Eff.upd ?_ rfl rfl rfl rfl rfl rfl rfl rfl rfl rfl ?_); rotate_left; exact rfl))
    | split
    | dsimp only
    | dsimp +zetaDelta only

theorem eff_addBurst (f : Nat) (i : Nat) (b : BurstRec) (m : Module) : Eff [.flt] m (addBurst f i b m) := by
  unfold addBurst
  iterate 24 all_goals try first
    | with_reducible exact Eff.refl _
    | with_reducible assumption
    | (with_reducible apply Eff.after (eff_noteTags ..); · decide)
    | (with_reducible apply Eff.after (eff_updFltOp ..); · decide)
    | intro _
    | extract_lets
    | with_reducible apply Eff.ite
    | (fail_if_no_progress ((with_reducible refine Eff.upd ?_ rfl rfl rfl rfl rfl rfl rfl rfl rfl rfl ?_); rotate_left; exact rfl))
    | split
    | dsimp only
    | dsimp +zetaDelta only

theorem eff_dropBurst (f : Nat) (i : Nat) (tag : Nat) (m : Module) : Eff [.flt] m (dropBurst f i tag m) := by
  unfold dropBurst
  iterate 24 all_goals try first
    | with_reducible exact Eff.refl _
    | with_reducible assumption
    | (with_reducible apply Eff.after (eff_updFltOp ..); · decide)
    | intro _
    | extract_lets
    | with_reducible apply Eff.ite
    | (fail_if_no_progress ((with_reducible refine Eff.upd ?_ rfl rfl rfl rfl rfl rfl rfl rfl rfl rfl ?_); rotate_left; exact rfl))
    | split
    | dsimp only
    | dsimp +zetaDelta only

theorem eff_fltRead (f : Nat) (p : Nat) (n : Nat) (m : Module) : Eff [.flt, .dbg] m (fltRead f p n m) := by
  unfold fltRead
  iterate 24 all_goals try first
    | with_reducible exact Eff.refl _
    | with_reducible assumption
    | (with_reducible apply Eff.after (eff_addPFlt ..); · decide)
    | (with_reducible apply Eff.after (eff_setFlt ..); · decide)
    | intro _
    | extract_lets
    | with_reducible apply Eff.ite
    | (fail_if_no_progress ((with_reducible refine Eff.upd ?_ rfl rfl rfl rfl rfl rfl rfl rfl rfl rfl ?_); rotate_left; exact rfl))
    | split
    | dsimp only
    | dsimp +zetaDelta only

theorem eff_fltWrote (f : Nat) (p : Nat) (n : Nat) (m : Module) : Eff [.flt, .dbg] m (fltWrote f p n m) := by
  unfold fltWrote
  iterate 24 all_goals try first
    | with_reducible exact Eff.refl _
    | with_reducible assumption
    | (with_reducible apply Eff.after (eff_addPFlt ..); · decide)
    | (with_reducible apply Eff.after (eff_setFlt ..); · decide)
    | intro _
    | extract_lets
    | with_reducible apply Eff.ite
    | (fail_if_no_progress ((with_reducible refine Eff.upd ?_ rfl rfl rfl rfl rfl rfl rfl rfl rfl rfl ?_); rotate_left; exact rfl))
    | split
    | dsimp only
    | dsimp +zetaDelta only

theorem eff_fltError (f : Nat) (i : Nat) (code : Nat) (m : Module) : Eff [.flt, .vst, .hlt, .pci, .tray, .dbg, .out] m (fltError f i code m) := by
  unfold fltError
  iterate 24 all_goals try first
    | with_reducible exact Eff.refl _
    | with_reducible assumption
    | (with_reducible apply Eff.after (eff_setFlt ..); · decide)
    | (with_reducible apply Eff.after (eff_updFltOp ..); · decide)
    | (with_reducible apply Eff.after (eff_ev ..); · decide)
    | intro _
    | extract_lets
    | with_reducible apply Eff.ite
    | (fail_if_no_progress ((with_reducible refine Eff.upd ?_ rfl rfl rfl rfl rfl rfl rfl rfl rfl rfl ?_); rotate_left; exact rfl))
    | split
    | dsimp only
    | dsimp +zetaDelta only

theorem eff_sendNotify (f : Nat) (i : Nat) (o : FltOp) (m : Module) : Eff [.flt, .port, .rte, .vst, .hlt, .cor, .sec, .pci, .tray, .dbg, .out] m (sendNotify f i o m) := by
  unfold sendNotify
  iterate 24 all_goals try first
    | with_reducible exact Eff.refl _
    | with_reducible assumption
    | (with_reducible apply Eff.after (eff_tagStall ..); · decide)
    | (with_reducible apply Eff.after (eff_newTag ..); · decide)
    | (with_reducible apply Eff.snd (eff_newTag ..); with_reducible assumption; · decide)
    | (with_reducible apply Eff.after (eff_inject ..); · decide)
    | (with_reducible apply Eff.after (eff_updFltOp ..); · decide)
    | (with_reducible apply Eff.after (eff_addBurst ..); · decide)
    | intro _
    | extract_lets
    | with_reducible apply Eff.ite
    | (fail_if_no_progress ((with_reducible refine Eff.upd ?_ rfl rfl rfl rfl rfl rfl rfl rfl rfl rfl ?_); rotate_left; exact rfl))
    | split
    | (with_reducible refine Eff.iteSnd (by assumption) ?_ ?_)
    | dsimp only
    | dsimp +zetaDelta only

theorem eff_settleGo (f n : ℕ) (m : Module) : Eff [.counts, .outstanding, .harts, .flt, .vst, .wdg, .hlt, .pci, .tray, .dbg, .out] m (settleGo f n m) := by
  induction n generalizing m with
  | zero => exact Eff.refl _
  | succ n ih =>
    unfold settleGo
    iterate 24 all_goals try first
      | with_reducible exact Eff.refl _
      | with_reducible assumption
      | (with_reducible apply Eff.after (eff_setFlt ..); · decide)
      | (with_reducible apply Eff.after (eff_complete ..); · decide)
      | (with_reducible apply Eff.after (ih ..); · decide)
      | intro _
      | extract_lets
      | with_reducible apply Eff.ite
      | with_reducible apply Eff.fold
      | (fail_if_no_progress ((with_reducible refine Eff.upd ?_ rfl rfl rfl rfl rfl rfl rfl rfl rfl rfl ?_); rotate_left; exact rfl))
      | split

theorem eff_sendDue (f : Nat) (m : Module) : Eff [.flt, .port, .rte, .vst, .hlt, .cor, .sec, .pci, .tray, .dbg, .out] m (sendDue f m) := by
  unfold sendDue
  iterate 24 all_goals try first
    | with_reducible exact Eff.refl _
    | with_reducible assumption
    | (with_reducible apply Eff.after (eff_sendNotify ..); · decide)
    | intro _
    | extract_lets
    | with_reducible apply Eff.ite
    | with_reducible apply Eff.fold
    | split
    | (with_reducible refine Eff.iteSnd (by assumption) ?_ ?_)
    | dsimp only
    | dsimp +zetaDelta only
    | with_reducible apply Eff.foldSnd
    | with_reducible apply Eff.foldFst
    | with_reducible apply Eff.foldThird

theorem eff_settleFlt (f : Nat) (m : Module) : Eff [.counts, .outstanding, .harts, .flt, .port, .rte, .vst, .wdg, .hlt, .cor, .sec, .pci, .tray, .dbg, .out] m (settleFlt f m) := by
  unfold settleFlt
  iterate 24 all_goals try first
    | with_reducible exact Eff.refl _
    | with_reducible assumption
    | (with_reducible apply Eff.after (eff_settleGo ..); · decide)
    | (with_reducible apply Eff.after (eff_sendDue ..); · decide)
    | (with_reducible apply Eff.after (eff_stallEnd ..); · decide)
    | intro _
    | extract_lets
    | with_reducible apply Eff.ite
    | with_reducible apply Eff.fold
    | split
    | (with_reducible refine Eff.iteSnd (by assumption) ?_ ?_)
    | dsimp only
    | dsimp +zetaDelta only
    | with_reducible apply Eff.foldSnd
    | with_reducible apply Eff.foldFst
    | with_reducible apply Eff.foldThird

theorem eff_fltRefuse (f : Nat) (code : Nat) (d : Desc) (m : Module) : Eff [.counts, .outstanding, .harts, .flt, .vst, .wdg, .hlt, .pci, .tray, .dbg, .out] m (fltRefuse f code d m) := by
  unfold fltRefuse
  iterate 24 all_goals try first
    | with_reducible exact Eff.refl _
    | with_reducible assumption
    | (with_reducible apply Eff.after (eff_bodyRefused ..); · decide)
    | (with_reducible apply Eff.after (eff_setFlt ..); · decide)
    | intro _
    | extract_lets
    | with_reducible apply Eff.ite
    | (fail_if_no_progress ((with_reducible refine Eff.upd ?_ rfl rfl rfl rfl rfl rfl rfl rfl rfl rfl ?_); rotate_left; exact rfl))
    | split
    | dsimp only
    | dsimp +zetaDelta only

theorem eff_fltStart (row : String) (f : Fin 32) (ty : Nat) (refusal : Module → Desc → Option Nat) (total : Desc → Nat) (s : State) : EffOut [.queues, .counts, .outstanding, .harts, .flt, .vst, .wdg, .hlt, .pci, .tray, .dbg, .out] s (fltStart row f ty refusal total s) := by
  unfold fltStart
  iterate 24 all_goals try first
    | with_reducible exact EffOut.stop
    | with_reducible exact EffOut.ill
    | with_reducible refine EffOut.done ?_
    | with_reducible exact Eff.refl _
    | with_reducible assumption
    | (with_reducible apply Eff.after (eff_dequeue ..); · decide)
    | (with_reducible apply Eff.after (eff_fltRefuse ..); · decide)
    | (with_reducible apply Eff.after (eff_descStart ..); · decide)
    | (with_reducible apply Eff.after (eff_setFlt ..); · decide)
    | exact (eff_done ..).mono (by decide)
    | intro _
    | extract_lets
    | with_reducible apply Eff.ite
    | (fail_if_no_progress ((with_reducible refine Eff.upd ?_ rfl rfl rfl rfl rfl rfl rfl rfl rfl rfl ?_); rotate_left; exact rfl))
    | split
    | dsimp only
    | dsimp +zetaDelta only

theorem eff_execMove (f : Fin 32) (s : State) : EffOut [.queues, .counts, .outstanding, .harts, .flt, .vst, .wdg, .hlt, .pci, .tray, .dbg, .out] s (execMove f s) := by
  unfold execMove
  iterate 24 all_goals try first
    | with_reducible exact EffOut.stop
    | with_reducible exact EffOut.ill
    | with_reducible refine EffOut.done ?_
    | with_reducible exact Eff.refl _
    | with_reducible assumption
    | exact (eff_fltStart ..).mono (by decide)
    | exact (eff_fltStart ..).mono (by decide)
    | intro _
    | extract_lets
    | with_reducible apply Eff.ite
    | split
    | dsimp only
    | dsimp +zetaDelta only

theorem eff_execGather (f : Fin 32) (s : State) : EffOut [.queues, .counts, .outstanding, .harts, .flt, .vst, .wdg, .hlt, .pci, .tray, .dbg, .out] s (execGather f s) := by
  unfold execGather
  iterate 24 all_goals try first
    | with_reducible exact EffOut.stop
    | with_reducible exact EffOut.ill
    | with_reducible refine EffOut.done ?_
    | with_reducible exact Eff.refl _
    | with_reducible assumption
    | exact (eff_fltStart ..).mono (by decide)
    | exact (eff_fltStart ..).mono (by decide)
    | intro _
    | extract_lets
    | with_reducible apply Eff.ite
    | split
    | dsimp only
    | dsimp +zetaDelta only

theorem eff_execPrefetch (f : Fin 32) (s : State) : EffOut [.queues, .counts, .outstanding, .harts, .flt, .vst, .wdg, .hlt, .pci, .tray, .dbg, .out] s (execPrefetch f s) := by
  unfold execPrefetch
  iterate 24 all_goals try first
    | with_reducible exact EffOut.stop
    | with_reducible exact EffOut.ill
    | with_reducible refine EffOut.done ?_
    | with_reducible exact Eff.refl _
    | with_reducible assumption
    | exact (eff_fltStart ..).mono (by decide)
    | exact (eff_fltStart ..).mono (by decide)
    | intro _
    | extract_lets
    | with_reducible apply Eff.ite
    | split
    | dsimp only
    | dsimp +zetaDelta only

theorem eff_putSuppressed (f : Nat) (k : QKey) (d : Desc) (m : Module) : Eff [.queues, .counts, .outstanding, .harts, .vst, .wdg, .hlt, .pci, .tray, .dbg, .out] m (putSuppressed f k d m) := by
  unfold putSuppressed
  iterate 24 all_goals try first
    | with_reducible exact Eff.refl _
    | with_reducible assumption
    | (with_reducible apply Eff.after (eff_descStart ..); · decide)
    | (with_reducible apply Eff.after (eff_dequeue ..); · decide)
    | (with_reducible apply Eff.after (eff_complete ..); · decide)
    | (with_reducible apply Eff.after (eff_setVst ..); · decide)
    | intro _
    | extract_lets
    | with_reducible apply Eff.ite
    | (fail_if_no_progress ((with_reducible refine Eff.upd ?_ rfl rfl rfl rfl rfl rfl rfl rfl rfl rfl ?_); rotate_left; exact rfl))
    | split
    | dsimp only
    | dsimp +zetaDelta only

theorem eff_execPut (f : Fin 32) (s : State) : EffOut [.queues, .counts, .outstanding, .harts, .flt, .vst, .wdg, .hlt, .pci, .tray, .dbg, .out] s (execPut f s) := by
  unfold execPut
  iterate 24 all_goals try first
    | with_reducible exact EffOut.stop
    | with_reducible exact EffOut.ill
    | with_reducible refine EffOut.done ?_
    | with_reducible exact Eff.refl _
    | with_reducible assumption
    | (with_reducible apply Eff.after (eff_putSuppressed ..); · decide)
    | exact (eff_fltStart ..).mono (by decide)
    | exact (eff_done ..).mono (by decide)
    | exact (eff_fltStart ..).mono (by decide)
    | intro _
    | extract_lets
    | with_reducible apply Eff.ite
    | (fail_if_no_progress ((with_reducible refine Eff.upd ?_ rfl rfl rfl rfl rfl rfl rfl rfl rfl rfl ?_); rotate_left; exact rfl))
    | split
    | dsimp only
    | dsimp +zetaDelta only

theorem eff_freeBytes (n : ℕ) (m : Module) : Eff [.mem] m (freeBytes n m).2 := by
  induction n generalizing m with
  | zero => exact .refl _
  | succ n ih => exact (eff_freeVal m).trans (ih _)

theorem eff_localWrite (f : Nat) (d : Desc) (dst : W64) (data : List Byte) (bad : List Bool) (m : Module) : Eff [.mem, .flt, .vst, .hlt, .cor, .pci, .tray, .dbg, .out] m (localWrite f d dst data bad m) := by
  unfold localWrite
  iterate 24 all_goals try first
    | with_reducible exact Eff.refl _
    | with_reducible assumption
    | (with_reducible apply Eff.after (eff_fltWrote ..); · decide)
    | (with_reducible apply Eff.after (eff_memWriteBad ..); · decide)
    | intro _
    | extract_lets
    | with_reducible apply Eff.ite
    | split
    | dsimp only
    | dsimp +zetaDelta only

theorem eff_writeOld (f : Nat) (i : Nat) (d : Desc) (b : BurstRec) (ack : Bool) (old : List Byte) (m : Module) : Eff [.mem, .flt, .port, .rte, .vst, .hlt, .cor, .sec, .pci, .tray, .dbg, .out] m (writeOld f i d b ack old m) := by
  unfold writeOld
  iterate 24 all_goals try first
    | with_reducible exact Eff.refl _
    | with_reducible assumption
    | (with_reducible apply Eff.after (eff_inject ..); · decide)
    | (with_reducible apply Eff.after (eff_addBurst ..); · decide)
    | (with_reducible apply Eff.after (eff_fltWrote ..); · decide)
    | (with_reducible apply Eff.after (eff_dropBurst ..); · decide)
    | (with_reducible apply Eff.after (eff_fltError ..); · decide)
    | (with_reducible apply Eff.after (eff_localWrite ..); · decide)
    | intro _
    | extract_lets
    | with_reducible apply Eff.ite
    | (fail_if_no_progress ((with_reducible refine Eff.upd ?_ rfl rfl rfl rfl rfl rfl rfl rfl rfl rfl ?_); rotate_left; exact rfl))
    | split
    | dsimp only
    | dsimp +zetaDelta only

theorem eff_writeOlds (f : Nat) (i : Nat) (d : Desc) (ack : Bool) (l : List BurstRec) (old : List Byte) (m : Module) : Eff [.mem, .flt, .port, .rte, .vst, .hlt, .cor, .sec, .pci, .tray, .dbg, .out] m (writeOlds f i d ack l old m) := by
  induction l generalizing old m with
  | nil => exact Eff.refl _
  | cons x r ih =>
    unfold writeOlds
    iterate 24 all_goals try first
      | with_reducible exact Eff.refl _
      | with_reducible assumption
      | (with_reducible apply Eff.after (eff_writeOld ..); · decide)
      | (with_reducible apply Eff.after (ih ..); · decide)
      | intro _
      | extract_lets
      | with_reducible apply Eff.ite
      | split
      | dsimp only
      | dsimp +zetaDelta only

theorem eff_sendAtoms (f : Nat) (i : Nat) (d : Desc) (b : BurstRec) (mate : Option BurstRec) (data : List Byte) (m : Module) : Eff [.mem, .flt, .port, .rte, .vst, .hlt, .cor, .sec, .pci, .tray, .dbg, .out] m (sendAtoms f i d b mate data m) := by
  unfold sendAtoms
  iterate 24 all_goals try first
    | with_reducible exact Eff.refl _
    | with_reducible assumption
    | (with_reducible apply Eff.after (eff_fltWrote ..); · decide)
    | (with_reducible apply Eff.after (eff_dropBurst ..); · decide)
    | (with_reducible apply Eff.after (eff_fltError ..); · decide)
    | (with_reducible apply Eff.after (eff_addBurst ..); · decide)
    | (with_reducible apply Eff.after (eff_inject ..); · decide)
    | (with_reducible apply Eff.after (eff_atomRun ..); · decide)
    | (with_reducible apply Eff.snd (eff_atomRun ..); with_reducible assumption; · decide)
    | (with_reducible apply Eff.after (eff_writeOlds ..); · decide)
    | intro _
    | extract_lets
    | with_reducible apply Eff.ite
    | with_reducible apply Eff.fold
    | (fail_if_no_progress ((with_reducible refine Eff.upd ?_ rfl rfl rfl rfl rfl rfl rfl rfl rfl rfl ?_); rotate_left; exact rfl))
    | split
    | (with_reducible refine Eff.iteSnd (by assumption) ?_ ?_)
    | dsimp only
    | dsimp +zetaDelta only
    | with_reducible apply Eff.foldSnd
    | with_reducible apply Eff.foldFst
    | with_reducible apply Eff.foldThird

theorem eff_setAtoms (f : Nat) (i : Nat) (l : List AtomPart) (m : Module) : Eff [.flt] m (setAtoms f i l m) := by
  unfold setAtoms
  iterate 24 all_goals try first
    | with_reducible exact Eff.refl _
    | with_reducible assumption
    | (with_reducible apply Eff.after (eff_updFltOp ..); · decide)
    | intro _
    | extract_lets
    | with_reducible apply Eff.ite
    | (fail_if_no_progress ((with_reducible refine Eff.upd ?_ rfl rfl rfl rfl rfl rfl rfl rfl rfl rfl ?_); rotate_left; exact rfl))
    | split
    | dsimp only
    | dsimp +zetaDelta only

theorem eff_drainAtoms (f : Nat) (i : Nat) (d : Desc) (n : Nat) (m : Module) : Eff [.mem, .flt, .port, .rte, .vst, .hlt, .cor, .sec, .pci, .tray, .dbg, .out] m (drainAtoms f i d n m) := by
  induction n generalizing m with
  | zero => exact Eff.refl _
  | succ k ih =>
    unfold drainAtoms
    iterate 24 all_goals try first
      | with_reducible exact Eff.refl _
      | with_reducible assumption
      | (with_reducible apply Eff.after (eff_setAtoms ..); · decide)
      | (with_reducible apply Eff.after (eff_sendAtoms ..); · decide)
      | (with_reducible apply Eff.after (ih ..); · decide)
      | intro _
      | extract_lets
      | with_reducible apply Eff.ite
      | (fail_if_no_progress ((with_reducible refine Eff.upd ?_ rfl rfl rfl rfl rfl rfl rfl rfl rfl rfl ?_); rotate_left; exact rfl))
      | split
      | dsimp only
      | dsimp +zetaDelta only

theorem eff_atomData (f : Nat) (i : Nat) (d : Desc) (b : BurstRec) (data : List Byte) (m : Module) : Eff [.mem, .flt, .port, .rte, .vst, .hlt, .cor, .sec, .pci, .tray, .dbg, .out] m (atomData f i d b data m) := by
  unfold atomData
  iterate 24 all_goals try first
    | with_reducible exact Eff.refl _
    | with_reducible assumption
    | (with_reducible apply Eff.after (eff_addBurst ..); · decide)
    | (with_reducible apply Eff.after (eff_updFltOp ..); · decide)
    | (with_reducible apply Eff.after (eff_drainAtoms ..); · decide)
    | intro _
    | extract_lets
    | with_reducible apply Eff.ite
    | (fail_if_no_progress ((with_reducible refine Eff.upd ?_ rfl rfl rfl rfl rfl rfl rfl rfl rfl rfl ?_); rotate_left; exact rfl))
    | split
    | dsimp only
    | dsimp +zetaDelta only

theorem eff_putData (f : Nat) (i : Nat) (d : Desc) (tagged : Bool) (b : BurstRec) (data : List Byte) (bad : List Bool) (m : Module) : Eff [.mem, .flt, .port, .rte, .vst, .hlt, .cor, .sec, .pci, .tray, .dbg, .out] m (putData f i d tagged b data bad m) := by
  unfold putData
  iterate 24 all_goals try first
    | with_reducible exact Eff.refl _
    | with_reducible assumption
    | (with_reducible apply Eff.after (eff_atomData ..); · decide)
    | (with_reducible apply Eff.after (eff_freeBytes ..); · decide)
    | (with_reducible apply Eff.snd (eff_freeBytes ..); with_reducible assumption; · decide)
    | (with_reducible apply Eff.after (eff_addBurst ..); · decide)
    | (with_reducible apply Eff.after (eff_dropBurst ..); · decide)
    | (with_reducible apply Eff.after (eff_fltError ..); · decide)
    | (with_reducible apply Eff.after (eff_emit ..); · decide)
    | (with_reducible apply Eff.after (eff_fltWrote ..); · decide)
    | (with_reducible apply Eff.after (eff_inject ..); · decide)
    | (with_reducible apply Eff.after (eff_localWrite ..); · decide)
    | intro _
    | extract_lets
    | with_reducible apply Eff.ite
    | (fail_if_no_progress ((with_reducible refine Eff.upd ?_ rfl rfl rfl rfl rfl rfl rfl rfl rfl rfl ?_); rotate_left; exact rfl))
    | split
    | (with_reducible refine Eff.iteSnd (by assumption) ?_ ?_)
    | dsimp only
    | dsimp +zetaDelta only

theorem eff_beginBurst (f : Nat) (i : Nat) (d : Desc) (tagged : Bool) (b : BurstRec) (m : Module) : Eff [.mem, .flt, .port, .rte, .vst, .hlt, .cor, .sec, .pci, .tray, .dbg, .out] m (beginBurst f i d tagged b m) := by
  unfold beginBurst
  iterate 24 all_goals try first
    | with_reducible exact Eff.refl _
    | with_reducible assumption
    | (with_reducible apply Eff.after (eff_fltRead ..); · decide)
    | (with_reducible apply Eff.after (eff_addBurst ..); · decide)
    | (with_reducible apply Eff.after (eff_fltError ..); · decide)
    | (with_reducible apply Eff.after (eff_inject ..); · decide)
    | (with_reducible apply Eff.after (eff_memRead ..); · decide)
    | (with_reducible apply Eff.third (eff_memRead ..); with_reducible assumption; · decide)
    | (with_reducible apply Eff.after (eff_putData ..); · decide)
    | intro _
    | extract_lets
    | with_reducible apply Eff.ite
    | (fail_if_no_progress ((with_reducible refine Eff.upd ?_ rfl rfl rfl rfl rfl rfl rfl rfl rfl rfl ?_); rotate_left; exact rfl))
    | split
    | (with_reducible refine Eff.iteSnd (by assumption) ?_ ?_)
    | dsimp only
    | dsimp +zetaDelta only

theorem eff_putBurst (f : Nat) (i : Nat) (d : Desc) (b : BurstRec) (m : Module) : Eff [.mem, .flt, .port, .rte, .vst, .hlt, .cor, .sec, .pci, .tray, .dbg, .out] m (putBurst f i d b m) := by
  unfold putBurst
  iterate 24 all_goals try first
    | with_reducible exact Eff.refl _
    | with_reducible assumption
    | (with_reducible apply Eff.after (eff_fltRead ..); · decide)
    | (with_reducible apply Eff.after (eff_memRead ..); · decide)
    | (with_reducible apply Eff.third (eff_memRead ..); with_reducible assumption; · decide)
    | (with_reducible apply Eff.after (eff_addBurst ..); · decide)
    | (with_reducible apply Eff.after (eff_inject ..); · decide)
    | (with_reducible apply Eff.after (eff_fltWrote ..); · decide)
    | intro _
    | extract_lets
    | with_reducible apply Eff.ite
    | (fail_if_no_progress ((with_reducible refine Eff.upd ?_ rfl rfl rfl rfl rfl rfl rfl rfl rfl rfl ?_); rotate_left; exact rfl))
    | split
    | (with_reducible refine Eff.iteSnd (by assumption) ?_ ?_)
    | dsimp only
    | dsimp +zetaDelta only

theorem eff_prefetchBurst (f : Nat) (i : Nat) (d : Desc) (b : BurstRec) (m : Module) : Eff [.mem, .flt, .vst, .hlt, .cor, .pci, .tray, .dbg, .out] m (prefetchBurst f i d b m) := by
  unfold prefetchBurst
  iterate 24 all_goals try first
    | with_reducible exact Eff.refl _
    | with_reducible assumption
    | (with_reducible apply Eff.after (eff_fltRead ..); · decide)
    | (with_reducible apply Eff.after (eff_countLookup ..); · decide)
    | (with_reducible apply Eff.after (eff_fillLine ..); · decide)
    | (with_reducible apply Eff.snd (eff_fillLine ..); with_reducible assumption; · decide)
    | (with_reducible apply Eff.after (eff_addBurst ..); · decide)
    | (with_reducible apply Eff.after (eff_useLine ..); · decide)
    | (with_reducible apply Eff.opt3 (eff_allocLine _ _ _ _); with_reducible assumption; · decide)
    | intro _
    | extract_lets
    | with_reducible apply Eff.ite
    | (fail_if_no_progress ((with_reducible refine Eff.upd ?_ rfl rfl rfl rfl rfl rfl rfl rfl rfl rfl ?_); rotate_left; exact rfl))
    | split
    | (with_reducible refine Eff.iteSnd (by assumption) ?_ ?_)
    | dsimp only
    | dsimp +zetaDelta only

theorem eff_fillArrived (f : Nat) (d : Desc) (b : BurstRec) (m : Module) : Eff [.mem] m (fillArrived f d b m) := by
  unfold fillArrived
  iterate 24 all_goals try first
    | with_reducible exact Eff.refl _
    | with_reducible assumption
    | (with_reducible apply Eff.after (eff_putLine ..); · decide)
    | intro _
    | extract_lets
    | with_reducible apply Eff.ite
    | (fail_if_no_progress ((with_reducible refine Eff.upd ?_ rfl rfl rfl rfl rfl rfl rfl rfl rfl rfl ?_); rotate_left; exact rfl))
    | split
    | dsimp only
    | dsimp +zetaDelta only

theorem eff_issueOne (f : Nat) (i : Nat) (d : Desc) (src : W64) (dst : W64) (len : Nat) (adv : FltOp → FltOp) (m : Module) : Eff [.counts, .outstanding, .harts, .mem, .flt, .port, .rte, .vst, .wdg, .hlt, .cor, .sec, .pci, .tray, .dbg, .out] m (issueOne f i d src dst len adv m) := by
  unfold issueOne
  iterate 24 all_goals try first
    | with_reducible exact Eff.refl _
    | with_reducible assumption
    | (with_reducible apply Eff.after (eff_tagStall ..); · decide)
    | (with_reducible apply Eff.after (eff_updFltOp ..); · decide)
    | (with_reducible apply Eff.after (eff_stallEnd ..); · decide)
    | (with_reducible apply Eff.after (eff_newTag ..); · decide)
    | (with_reducible apply Eff.snd (eff_newTag ..); with_reducible assumption; · decide)
    | (with_reducible apply Eff.after (eff_putBurst ..); · decide)
    | (with_reducible apply Eff.after (eff_prefetchBurst ..); · decide)
    | (with_reducible apply Eff.after (eff_beginBurst ..); · decide)
    | (with_reducible apply Eff.after (eff_settleFlt ..); · decide)
    | (with_reducible apply Eff.after (eff_noteTags ..); · decide)
    | intro _
    | extract_lets
    | with_reducible apply Eff.ite
    | (fail_if_no_progress ((with_reducible refine Eff.upd ?_ rfl rfl rfl rfl rfl rfl rfl rfl rfl rfl ?_); rotate_left; exact rfl))
    | split
    | (with_reducible refine Eff.iteSnd (by assumption) ?_ ?_)
    | dsimp only
    | dsimp +zetaDelta only

theorem eff_issueWalk (f : Nat) (i : Nat) (o : FltOp) (m : Module) : Eff [.counts, .outstanding, .harts, .mem, .flt, .port, .rte, .vst, .wdg, .hlt, .cor, .sec, .pci, .tray, .dbg, .out] m (issueWalk f i o m) := by
  unfold issueWalk
  iterate 24 all_goals try first
    | with_reducible exact Eff.refl _
    | with_reducible assumption
    | (with_reducible apply Eff.after (eff_issueOne ..); · decide)
    | intro _
    | extract_lets
    | with_reducible apply Eff.ite
    | (fail_if_no_progress ((with_reducible refine Eff.upd ?_ rfl rfl rfl rfl rfl rfl rfl rfl rfl rfl ?_); rotate_left; exact rfl))
    | split
    | dsimp only
    | dsimp +zetaDelta only

theorem eff_issueGather (f : Nat) (i : Nat) (o : FltOp) (m : Module) : Eff [.counts, .outstanding, .harts, .mem, .flt, .port, .rte, .vst, .wdg, .hlt, .cor, .sec, .pci, .tray, .dbg, .out] m (issueGather f i o m) := by
  unfold issueGather
  iterate 24 all_goals try first
    | with_reducible exact Eff.refl _
    | with_reducible assumption
    | (with_reducible apply Eff.after (eff_hallRead ..); · decide)
    | (with_reducible apply Eff.snd (eff_hallRead ..); with_reducible assumption; · decide)
    | (with_reducible apply Eff.after (eff_settleFlt ..); · decide)
    | (with_reducible apply Eff.after (eff_fltError ..); · decide)
    | (with_reducible apply Eff.after (eff_updFltOp ..); · decide)
    | (with_reducible apply Eff.after (eff_issueOne ..); · decide)
    | intro _
    | extract_lets
    | with_reducible apply Eff.ite
    | (fail_if_no_progress ((with_reducible refine Eff.upd ?_ rfl rfl rfl rfl rfl rfl rfl rfl rfl rfl ?_); rotate_left; exact rfl))
    | split
    | (with_reducible refine Eff.iteSnd (by assumption) ?_ ?_)
    | dsimp only
    | dsimp +zetaDelta only

theorem eff_execBurstIssue (f : Fin 32) (errs : List MemErr) (s : State) : EffOut [.counts, .outstanding, .harts, .mem, .flt, .port, .rte, .vst, .wdg, .hlt, .cor, .sec, .pci, .tray, .dbg, .out] s (execBurstIssue f errs s) := by
  unfold execBurstIssue
  iterate 24 all_goals try first
    | with_reducible exact EffOut.stop
    | with_reducible exact EffOut.ill
    | with_reducible refine EffOut.done ?_
    | with_reducible exact Eff.refl _
    | with_reducible assumption
    | (with_reducible apply Eff.after (eff_memErrs ..); · decide)
    | (with_reducible apply Eff.after (eff_issueGather ..); · decide)
    | (with_reducible apply Eff.after (eff_issueWalk ..); · decide)
    | exact (eff_done ..).mono (by decide)
    | intro _
    | extract_lets
    | with_reducible apply Eff.ite
    | (fail_if_no_progress ((with_reducible refine Eff.upd ?_ rfl rfl rfl rfl rfl rfl rfl rfl rfl rfl ?_); rotate_left; exact rfl))
    | split
    | dsimp only
    | dsimp +zetaDelta only

theorem eff_fltAnswer (f : Nat) (i : Nat) (o : FltOp) (b : BurstRec) (ans : BurstAnswer) (m : Module) : ∀ c, fltAnswer f i o b ans m = some c → Eff [.counts, .outstanding, .harts, .mem, .flt, .port, .rte, .vst, .wdg, .hlt, .cor, .sec, .pci, .tray, .dbg, .out] m c := by
  intro c h
  unfold fltAnswer at h
  try dsimp only at h
  repeat' split at h
  all_goals first
    | (simp only [reduceCtorEq] at h; done)
    | (simp only [Option.some.injEq] at h; subst h)
    | skip
  iterate 24 all_goals try first
    | with_reducible exact Eff.refl _
    | with_reducible assumption
    | (with_reducible apply Eff.after (eff_settleFlt ..); · decide)
    | (with_reducible apply Eff.after (eff_dropBurst ..); · decide)
    | (with_reducible apply Eff.after (eff_putData ..); · decide)
    | (with_reducible apply Eff.after (eff_writeOlds ..); · decide)
    | (with_reducible apply Eff.after (eff_fillArrived ..); · decide)
    | (with_reducible apply Eff.after (eff_fltError ..); · decide)
    | intro _
    | extract_lets
    | with_reducible apply Eff.ite
    | with_reducible apply Eff.fold
    | (fail_if_no_progress ((with_reducible refine Eff.upd ?_ rfl rfl rfl rfl rfl rfl rfl rfl rfl rfl ?_); rotate_left; exact rfl))
    | split
    | (with_reducible refine Eff.iteSnd (by assumption) ?_ ?_)
    | dsimp only
    | dsimp +zetaDelta only
    | with_reducible apply Eff.foldSnd
    | with_reducible apply Eff.foldFst
    | with_reducible apply Eff.foldThird

theorem eff_lateResponse (f : Nat) (tag : Nat) (m : Module) : ∀ c, lateResponse f tag m = some c → Eff [.flt, .vst, .hlt, .pci, .tray, .dbg, .out] m c := by
  intro c h
  unfold lateResponse at h
  try dsimp only at h
  repeat' split at h
  all_goals first
    | (simp only [reduceCtorEq] at h; done)
    | (simp only [Option.some.injEq] at h; subst h)
    | skip
  iterate 24 all_goals try first
    | with_reducible exact Eff.refl _
    | with_reducible assumption
    | (with_reducible apply Eff.after (eff_ev ..); · decide)
    | (with_reducible apply Eff.after (eff_setFlt ..); · decide)
    | intro _
    | extract_lets
    | with_reducible apply Eff.ite
    | (fail_if_no_progress ((with_reducible refine Eff.upd ?_ rfl rfl rfl rfl rfl rfl rfl rfl rfl rfl ?_); rotate_left; exact rfl))
    | split
    | dsimp only
    | dsimp +zetaDelta only

theorem eff_burstFail (f : Nat) (i : Nat) (code : Nat) (o : FltOp) (b : BurstRec) (m : Module) : Eff [.counts, .outstanding, .harts, .flt, .port, .rte, .vst, .wdg, .hlt, .cor, .sec, .pci, .tray, .dbg, .out] m (burstFail f i code o b m) := by
  unfold burstFail
  iterate 24 all_goals try first
    | with_reducible exact Eff.refl _
    | with_reducible assumption
    | (with_reducible apply Eff.after (eff_dropBurst ..); · decide)
    | (with_reducible apply Eff.after (eff_fltError ..); · decide)
    | (with_reducible apply Eff.after (eff_settleFlt ..); · decide)
    | (with_reducible apply Eff.after (eff_setFlt ..); · decide)
    | intro _
    | extract_lets
    | with_reducible apply Eff.ite
    | (fail_if_no_progress ((with_reducible refine Eff.upd ?_ rfl rfl rfl rfl rfl rfl rfl rfl rfl rfl ?_); rotate_left; exact rfl))
    | split
    | dsimp only
    | dsimp +zetaDelta only

theorem eff_orphanEnd (f : Nat) (o : Orphan) (timedOut : Bool) (m : Module) : Eff [.counts, .outstanding, .harts, .flt, .port, .rte, .vst, .wdg, .hlt, .cor, .sec, .pci, .tray, .dbg, .out] m (orphanEnd f o timedOut m) := by
  unfold orphanEnd
  iterate 24 all_goals try first
    | with_reducible exact Eff.refl _
    | with_reducible assumption
    | (with_reducible apply Eff.after (eff_settleFlt ..); · decide)
    | (with_reducible apply Eff.after (eff_setFlt ..); · decide)
    | intro _
    | extract_lets
    | with_reducible apply Eff.ite
    | (fail_if_no_progress ((with_reducible refine Eff.upd ?_ rfl rfl rfl rfl rfl rfl rfl rfl rfl rfl ?_); rotate_left; exact rfl))
    | split
    | dsimp only
    | dsimp +zetaDelta only

theorem eff_fltRespond (f : Nat) (tag : Nat) (ans : BurstAnswer) (m : Module) : ∀ c, fltRespond f tag ans m = some c → Eff [.counts, .outstanding, .harts, .mem, .flt, .port, .rte, .vst, .wdg, .hlt, .cor, .sec, .pci, .tray, .dbg, .out] m c := by
  intro c h
  unfold fltRespond at h
  try dsimp only at h
  repeat' split at h
  all_goals first
    | (simp only [reduceCtorEq] at h; done)
    | (simp only [Option.some.injEq] at h; subst h)
    | skip
  iterate 24 all_goals try first
    | with_reducible exact Eff.refl _
    | with_reducible assumption
    | (with_reducible apply Eff.opt (eff_lateResponse _ _ _); with_reducible assumption; · decide)
    | (with_reducible apply Eff.after (eff_burstFail ..); · decide)
    | (with_reducible apply Eff.opt (eff_fltAnswer _ _ _ _ _ _); with_reducible assumption; · decide)
    | (with_reducible apply Eff.after (eff_orphanEnd ..); · decide)
    | intro _
    | extract_lets
    | with_reducible apply Eff.ite
    | (fail_if_no_progress ((with_reducible refine Eff.upd ?_ rfl rfl rfl rfl rfl rfl rfl rfl rfl rfl ?_); rotate_left; exact rfl))
    | split
    | dsimp only
    | dsimp +zetaDelta only

theorem eff_execBurstResponse (f : Fin 32) (tag : Nat) (answer : BurstAnswer) (s : State) : EffOut [.counts, .outstanding, .harts, .mem, .flt, .port, .rte, .vst, .wdg, .hlt, .cor, .sec, .pci, .tray, .dbg, .out] s (execBurstResponse f tag answer s) := by
  unfold execBurstResponse
  iterate 24 all_goals try first
    | with_reducible exact EffOut.stop
    | with_reducible exact EffOut.ill
    | with_reducible refine EffOut.done ?_
    | with_reducible exact Eff.refl _
    | with_reducible assumption
    | (with_reducible apply Eff.opt (eff_fltRespond _ _ _ _); with_reducible assumption; · decide)
    | exact (eff_done ..).mono (by decide)
    | intro _
    | extract_lets
    | with_reducible apply Eff.ite
    | (fail_if_no_progress ((with_reducible refine Eff.upd ?_ rfl rfl rfl rfl rfl rfl rfl rfl rfl rfl ?_); rotate_left; exact rfl))
    | split
    | dsimp only
    | dsimp +zetaDelta only

theorem eff_execBurstTimeout (f : Fin 32) (tag : Nat) (s : State) : EffOut [.clk, .beat, .counts, .outstanding, .harts, .mem, .flt, .port, .rte, .vst, .wdg, .hlt, .cor, .sec, .pci, .tray, .dbg, .out] s (execBurstTimeout f tag s) := by
  unfold execBurstTimeout
  iterate 24 all_goals try first
    | with_reducible exact EffOut.stop
    | with_reducible exact EffOut.ill
    | with_reducible refine EffOut.done ?_
    | with_reducible exact Eff.refl _
    | with_reducible assumption
    | (with_reducible apply Eff.after (eff_burstFail ..); · decide)
    | (with_reducible apply Eff.after (eff_passTo ..); · decide)
    | (with_reducible apply Eff.after (eff_orphanEnd ..); · decide)
    | exact (eff_done ..).mono (by decide)
    | intro _
    | extract_lets
    | with_reducible apply Eff.ite
    | (fail_if_no_progress ((with_reducible refine Eff.upd ?_ rfl rfl rfl rfl rfl rfl rfl rfl rfl rfl ?_); rotate_left; exact rfl))
    | split
    | dsimp only
    | dsimp +zetaDelta only

theorem eff_hostBurstsFail (f : Nat) (m : Module) : Eff [.counts, .outstanding, .harts, .mem, .flt, .port, .rte, .vst, .wdg, .hlt, .cor, .sec, .pci, .tray, .dbg, .out] m (hostBurstsFail f m) := by
  unfold hostBurstsFail
  iterate 24 all_goals try first
    | with_reducible exact Eff.refl _
    | with_reducible assumption
    | (with_reducible apply Eff.opt (eff_fltRespond _ _ _ _); with_reducible assumption; · decide)
    | intro _
    | extract_lets
    | with_reducible apply Eff.ite
    | with_reducible apply Eff.fold
    | (fail_if_no_progress ((with_reducible refine Eff.upd ?_ rfl rfl rfl rfl rfl rfl rfl rfl rfl rfl ?_); rotate_left; exact rfl))
    | split
    | (with_reducible refine Eff.iteSnd (by assumption) ?_ ?_)
    | dsimp only
    | dsimp +zetaDelta only
    | with_reducible apply Eff.foldSnd
    | with_reducible apply Eff.foldFst
    | with_reducible apply Eff.foldThird

theorem eff_fltCntClr (f : Nat) (m : Module) : Eff [.flt] m (fltCntClr f m) := by
  unfold fltCntClr
  iterate 24 all_goals try first
    | with_reducible exact Eff.refl _
    | with_reducible assumption
    | (with_reducible apply Eff.after (eff_setFlt ..); · decide)
    | intro _
    | extract_lets
    | with_reducible apply Eff.ite
    | split
    | dsimp only
    | dsimp +zetaDelta only

theorem eff_execFltCntClr (f : Fin 32) (s : State) : EffOut [.flt] s (execFltCntClr f s) := by
  unfold execFltCntClr
  iterate 24 all_goals try first
    | with_reducible exact EffOut.stop
    | with_reducible exact EffOut.ill
    | with_reducible refine EffOut.done ?_
    | with_reducible exact Eff.refl _
    | with_reducible assumption
    | (with_reducible apply Eff.after (eff_fltCntClr ..); · decide)
    | exact (eff_done ..).mono (by decide)
    | intro _
    | extract_lets
    | with_reducible apply Eff.ite
    | split
    | dsimp only
    | dsimp +zetaDelta only

end Sys2Proof.Laws
end

