-- ==== Sys2Proof/Laws/EffSteps.lean ====
section
/-! SUPPORT. What the operations of Steps.lean keep, and what they may change. -/

namespace Sys2Proof.Laws
open Sys2Proof.Machine

theorem eff_updSlot (p : Nat) (k : Nat) (f : VSlot → VSlot) (m : Module) : Eff [.vst] m (updSlot p k f m) := by
  unfold updSlot
  iterate 24 all_goals try first
    | with_reducible exact Eff.refl _
    | with_reducible assumption
    | (with_reducible apply Eff.after (eff_setVst ..); · decide)
    | intro _
    | extract_lets
    | with_reducible apply Eff.ite
    | (fail_if_no_progress ((with_reducible refine Eff.upd ?_ rfl rfl rfl rfl rfl rfl rfl rfl rfl rfl ?_); rotate_left; exact rfl))
    | split
    | dsimp only
    | dsimp +zetaDelta only

theorem eff_freeSlot (p : Nat) (k : Nat) (m : Module) : Eff [.vst] m (freeSlot p k m) := by
  unfold freeSlot
  iterate 24 all_goals try first
    | with_reducible exact Eff.refl _
    | with_reducible assumption
    | (with_reducible apply Eff.after (eff_setVst ..); · decide)
    | intro _
    | extract_lets
    | with_reducible apply Eff.ite
    | (fail_if_no_progress ((with_reducible refine Eff.upd ?_ rfl rfl rfl rfl rfl rfl rfl rfl rfl rfl ?_); rotate_left; exact rfl))
    | split
    | dsimp only
    | dsimp +zetaDelta only

theorem eff_vstEv (p : Nat) (code : Nat) (sev : Nat) (ctx : Nat) (d : W64) (m : Module) : Eff [.vst, .hlt, .pci, .tray, .dbg, .out] m (vstEv p code sev ctx d m) := by
  unfold vstEv
  iterate 24 all_goals try first
    | with_reducible exact Eff.refl _
    | with_reducible assumption
    | (with_reducible apply Eff.after (eff_ev ..); · decide)
    | intro _
    | extract_lets
    | with_reducible apply Eff.ite
    | split
    | dsimp only
    | dsimp +zetaDelta only

theorem eff_mirEv (p : Nat) (code : Nat) (sev : Nat) (ctx : Nat) (d : W64) (m : Module) : Eff [.vst, .hlt, .pci, .tray, .dbg, .out] m (mirEv p code sev ctx d m) := by
  unfold mirEv
  iterate 24 all_goals try first
    | with_reducible exact Eff.refl _
    | with_reducible assumption
    | (with_reducible apply Eff.after (eff_ev ..); · decide)
    | intro _
    | extract_lets
    | with_reducible apply Eff.ite
    | split
    | dsimp only
    | dsimp +zetaDelta only

theorem eff_vstWrite (p : Nat) (off : Nat) (bs : List Byte) (m : Module) : Eff [.mem, .flt, .vst, .hlt, .cor, .pci, .tray, .dbg, .out] m (vstWrite p off bs m) := by
  unfold vstWrite
  iterate 24 all_goals try first
    | with_reducible exact Eff.refl _
    | with_reducible assumption
    | (with_reducible apply Eff.after (eff_memWrite ..); · decide)
    | intro _
    | extract_lets
    | with_reducible apply Eff.ite
    | split
    | dsimp only
    | dsimp +zetaDelta only

theorem eff_writeHeader (p : Nat) (k : Nat) (m : Module) : Eff [.mem, .flt, .vst, .hlt, .cor, .pci, .tray, .dbg, .out] m (writeHeader p k m) := by
  unfold writeHeader
  iterate 24 all_goals try first
    | with_reducible exact Eff.refl _
    | with_reducible assumption
    | (with_reducible apply Eff.after (eff_vstWrite ..); · decide)
    | intro _
    | extract_lets
    | with_reducible apply Eff.ite
    | (fail_if_no_progress ((with_reducible refine Eff.upd ?_ rfl rfl rfl rfl rfl rfl rfl rfl rfl rfl ?_); rotate_left; exact rfl))
    | split
    | dsimp only
    | dsimp +zetaDelta only

theorem eff_reserve (p : Nat) (k : Nat) (s : VSlot) (n : Nat) (m : Module) : Eff [.vst, .hlt, .pci, .tray, .dbg, .out] m (reserve p k s n m).2 := by
  unfold reserve
  iterate 24 all_goals try first
    | with_reducible exact Eff.refl _
    | with_reducible assumption
    | (with_reducible apply Eff.after (eff_updSlot ..); · decide)
    | (with_reducible apply Eff.after (eff_vstEv ..); · decide)
    | (with_reducible apply Eff.after (eff_setVst ..); · decide)
    | intro _
    | extract_lets
    | with_reducible apply Eff.ite
    | (fail_if_no_progress ((with_reducible refine Eff.upd ?_ rfl rfl rfl rfl rfl rfl rfl rfl rfl rfl ?_); rotate_left; exact rfl))
    | split
    | (with_reducible refine Eff.iteSnd (by assumption) ?_ ?_)
    | dsimp only
    | dsimp +zetaDelta only

theorem eff_capture (p : Nat) (opId : W32) (half : Nat) (dtype : Nat) (elems : Nat) (data : List Byte) (m : Module) : Eff [.mem, .flt, .vst, .hlt, .cor, .pci, .tray, .dbg, .out] m (capture p opId half dtype elems data m) := by
  unfold capture
  iterate 24 all_goals try first
    | with_reducible exact Eff.refl _
    | with_reducible assumption
    | (with_reducible apply Eff.after (eff_reserve ..); · decide)
    | (with_reducible apply Eff.snd (eff_reserve ..); with_reducible assumption; · decide)
    | (with_reducible apply Eff.after (eff_vstWrite ..); · decide)
    | (with_reducible apply Eff.after (eff_updSlot ..); · decide)
    | intro _
    | extract_lets
    | with_reducible apply Eff.ite
    | (fail_if_no_progress ((with_reducible refine Eff.upd ?_ rfl rfl rfl rfl rfl rfl rfl rfl rfl rfl ?_); rotate_left; exact rfl))
    | split
    | dsimp only
    | dsimp +zetaDelta only

theorem eff_captureData (p : Nat) (n : Nat) (c : Capture) (m : Module) : Eff [.mem, .flt, .vst, .hlt, .cor, .pci, .tray, .dbg, .out] m (captureData p n c m).2.2 := by
  unfold captureData
  iterate 24 all_goals try first
    | with_reducible exact Eff.refl _
    | with_reducible assumption
    | (with_reducible apply Eff.after (eff_memRead ..); · decide)
    | (with_reducible apply Eff.third (eff_memRead ..); with_reducible assumption; · decide)
    | intro _
    | extract_lets
    | with_reducible apply Eff.ite
    | split
    | (with_reducible refine Eff.iteSnd (by assumption) ?_ ?_)
    | dsimp only
    | dsimp +zetaDelta only

theorem eff_serveCapture (d : Desc) (opId : W32) (half : Nat) (dtype : Nat) (elems : Nat) (n : Nat) (m : Module) : Eff [.mem, .flt, .vst, .hlt, .cor, .pci, .tray, .dbg, .out] m (serveCapture d opId half dtype elems n m).2 := by
  unfold serveCapture
  iterate 24 all_goals try first
    | with_reducible exact Eff.refl _
    | with_reducible assumption
    | (with_reducible apply Eff.after (eff_updSlot ..); · decide)
    | (with_reducible apply Eff.after (eff_captureData ..); · decide)
    | (with_reducible apply Eff.third (eff_captureData ..); with_reducible assumption; · decide)
    | (with_reducible apply Eff.after (eff_taint ..); · decide)
    | (with_reducible apply Eff.after (eff_vstEv ..); · decide)
    | intro _
    | extract_lets
    | with_reducible apply Eff.ite
    | (fail_if_no_progress ((with_reducible refine Eff.upd ?_ rfl rfl rfl rfl rfl rfl rfl rfl rfl rfl ?_); rotate_left; exact rfl))
    | split
    | (with_reducible refine Eff.iteSnd (by assumption) ?_ ?_)
    | dsimp only
    | dsimp +zetaDelta only

theorem eff_commitStep (p : Nat) (k : Nat) (res : W32) (beat : Beat) (m : Module) : Eff [.vst, .hlt, .pci, .tray, .dbg, .out] m (commitStep p k res beat m) := by
  unfold commitStep
  iterate 24 all_goals try first
    | with_reducible exact Eff.refl _
    | with_reducible assumption
    | (with_reducible apply Eff.after (eff_updSlot ..); · decide)
    | (with_reducible apply Eff.after (eff_vstEv ..); · decide)
    | (with_reducible apply Eff.after (eff_setVst ..); · decide)
    | intro _
    | extract_lets
    | with_reducible apply Eff.ite
    | (fail_if_no_progress ((with_reducible refine Eff.upd ?_ rfl rfl rfl rfl rfl rfl rfl rfl rfl rfl ?_); rotate_left; exact rfl))
    | split
    | dsimp only
    | dsimp +zetaDelta only

theorem eff_cutFails (p : Nat) (n : Beat) (m : Module) : Eff [.vst, .hlt, .pci, .tray, .dbg, .out] m (cutFails p n m) := by
  unfold cutFails
  iterate 24 all_goals try first
    | with_reducible exact Eff.refl _
    | with_reducible assumption
    | (with_reducible apply Eff.after (eff_vstEv ..); · decide)
    | (with_reducible apply Eff.after (eff_setVst ..); · decide)
    | intro _
    | extract_lets
    | with_reducible apply Eff.ite
    | (fail_if_no_progress ((with_reducible refine Eff.upd ?_ rfl rfl rfl rfl rfl rfl rfl rfl rfl rfl ?_); rotate_left; exact rfl))
    | split
    | dsimp only
    | dsimp +zetaDelta only

theorem eff_failStep (p : Nat) (k : Nat) (st : SlotSt) (res : W32) (code : Nat) (det : W64) (m : Module) : Eff [.vst, .hlt, .pci, .tray, .dbg, .out] m (failStep p k st res code det m) := by
  unfold failStep
  iterate 24 all_goals try first
    | with_reducible exact Eff.refl _
    | with_reducible assumption
    | (with_reducible apply Eff.after (eff_updSlot ..); · decide)
    | (with_reducible apply Eff.after (eff_vstEv ..); · decide)
    | (with_reducible apply Eff.after (eff_cutFails ..); · decide)
    | intro _
    | extract_lets
    | with_reducible apply Eff.ite
    | (fail_if_no_progress ((with_reducible refine Eff.upd ?_ rfl rfl rfl rfl rfl rfl rfl rfl rfl rfl ?_); rotate_left; exact rfl))
    | split
    | dsimp only
    | dsimp +zetaDelta only

theorem eff_voteDone (p : Nat) (n : Beat) (res : W32) (size : Nat) (m : Module) : Eff [.vst, .hlt, .pci, .tray, .dbg, .out] m (voteDone p n res size m) := by
  unfold voteDone
  iterate 24 all_goals try first
    | with_reducible exact Eff.refl _
    | with_reducible assumption
    | (with_reducible apply Eff.after (eff_commitStep ..); · decide)
    | (with_reducible apply Eff.after (eff_failStep ..); · decide)
    | intro _
    | extract_lets
    | with_reducible apply Eff.ite
    | (fail_if_no_progress ((with_reducible refine Eff.upd ?_ rfl rfl rfl rfl rfl rfl rfl rfl rfl rfl ?_); rotate_left; exact rfl))
    | split
    | dsimp only
    | dsimp +zetaDelta only

theorem eff_voteFailed (p : Nat) (n : Beat) (m : Module) : Eff [.vst, .hlt, .pci, .tray, .dbg, .out] m (voteFailed p n m) := by
  unfold voteFailed
  iterate 24 all_goals try first
    | with_reducible exact Eff.refl _
    | with_reducible assumption
    | (with_reducible apply Eff.after (eff_failStep ..); · decide)
    | intro _
    | extract_lets
    | with_reducible apply Eff.ite
    | (fail_if_no_progress ((with_reducible refine Eff.upd ?_ rfl rfl rfl rfl rfl rfl rfl rfl rfl rfl ?_); rotate_left; exact rfl))
    | split
    | dsimp only
    | dsimp +zetaDelta only

theorem eff_stepChecked (p : Nat) (n : Beat) (m : Module) : Eff [.vst, .hlt, .pci, .tray, .dbg, .out] m (stepChecked p n m) := by
  unfold stepChecked
  iterate 24 all_goals try first
    | with_reducible exact Eff.refl _
    | with_reducible assumption
    | (with_reducible apply Eff.after (eff_updSlot ..); · decide)
    | (with_reducible apply Eff.after (eff_commitStep ..); · decide)
    | intro _
    | extract_lets
    | with_reducible apply Eff.ite
    | (fail_if_no_progress ((with_reducible refine Eff.upd ?_ rfl rfl rfl rfl rfl rfl rfl rfl rfl rfl ?_); rotate_left; exact rfl))
    | split
    | dsimp only
    | dsimp +zetaDelta only

end Sys2Proof.Laws
end

