-- ==== Sys2Proof/Laws/EffArc.lean ====
section
/-! SUPPORT. What the operations of Arc.lean keep, and what they may change. -/

namespace Sys2Proof.Laws
open Sys2Proof.Machine

theorem eff_readEnts (w p : ℕ) (a : W64) (l : List ℕ) (m : Module) : Eff [.mem, .flt, .vst, .hlt, .cor, .pci, .tray, .dbg, .out] m (readEnts w p a l m).2 := by
  induction l generalizing m with
  | nil => exact .refl _
  | cons r rest ih => exact (eff_hallRead ..).trans (ih _)

theorem eff_setArcOp (a : Nat) (o : Option ArcOp) (m : Module) : Eff [.arc] m (setArcOp a o m) := by
  unfold setArcOp
  iterate 24 all_goals try first
    | with_reducible exact Eff.refl _
    | with_reducible assumption
    | (with_reducible apply Eff.after (eff_setArc ..); · decide)
    | intro _
    | extract_lets
    | with_reducible apply Eff.ite
    | (fail_if_no_progress ((with_reducible refine Eff.upd ?_ rfl rfl rfl rfl rfl rfl rfl rfl rfl rfl ?_); rotate_left; exact rfl))
    | split
    | dsimp only
    | dsimp +zetaDelta only

theorem eff_arcEnded (a : Nat) (part : Nat) (opId : Nat) (m : Module) : Eff [.arc] m (arcEnded a part opId m) := by
  unfold arcEnded
  iterate 24 all_goals try first
    | with_reducible exact Eff.refl _
    | with_reducible assumption
    | (with_reducible apply Eff.after (eff_setArc ..); · decide)
    | intro _
    | extract_lets
    | with_reducible apply Eff.ite
    | (fail_if_no_progress ((with_reducible refine Eff.upd ?_ rfl rfl rfl rfl rfl rfl rfl rfl rfl rfl ?_); rotate_left; exact rfl))
    | split
    | dsimp only
    | dsimp +zetaDelta only

theorem eff_undefRange (p : Nat) (a : W64) (n : Nat) (m : Module) : Eff [.mem, .flt, .vst, .hlt, .cor, .pci, .tray, .dbg, .out] m (undefRange p a n m) := by
  unfold undefRange
  iterate 24 all_goals try first
    | with_reducible exact Eff.refl _
    | with_reducible assumption
    | (with_reducible apply Eff.after (eff_freeBytes ..); · decide)
    | (with_reducible apply Eff.snd (eff_freeBytes ..); with_reducible assumption; · decide)
    | (with_reducible apply Eff.after (eff_memWrite ..); · decide)
    | intro _
    | extract_lets
    | with_reducible apply Eff.ite
    | split
    | dsimp only
    | dsimp +zetaDelta only

theorem eff_arcStop (a : Nat) (code : Nat) (m : Module) : Eff [.counts, .outstanding, .harts, .mem, .flt, .arc, .vst, .wdg, .hlt, .cor, .pci, .tray, .dbg, .out] m (arcStop a code m) := by
  unfold arcStop
  iterate 24 all_goals try first
    | with_reducible exact Eff.refl _
    | with_reducible assumption
    | (with_reducible apply Eff.after (eff_undefRange ..); · decide)
    | (with_reducible apply Eff.after (eff_arcEnded ..); · decide)
    | (with_reducible apply Eff.after (eff_setArc ..); · decide)
    | (with_reducible apply Eff.after (eff_complete ..); · decide)
    | (with_reducible apply Eff.after (eff_ev ..); · decide)
    | intro _
    | extract_lets
    | with_reducible apply Eff.ite
    | with_reducible apply Eff.fold
    | (fail_if_no_progress ((with_reducible refine Eff.upd ?_ rfl rfl rfl rfl rfl rfl rfl rfl rfl rfl ?_); rotate_left; exact rfl))
    | split
    | (with_reducible refine Eff.iteSnd (by assumption) ?_ ?_)
    | dsimp only
    | dsimp +zetaDelta only
    | with_reducible apply Eff.foldSnd
    | with_reducible apply Eff.foldFst
    | with_reducible apply Eff.foldThird

theorem eff_arcWrite (a : Nat) (d : Desc) (lo : Nat) (data : List Byte) (bad : List Bool) (m : Module) : Eff [.mem, .flt, .vst, .hlt, .cor, .pci, .tray, .dbg, .out] m (arcWrite a d lo data bad m) := by
  unfold arcWrite
  iterate 24 all_goals try first
    | with_reducible exact Eff.refl _
    | with_reducible assumption
    | (with_reducible apply Eff.after (eff_memWriteBad ..); · decide)
    | intro _
    | extract_lets
    | with_reducible apply Eff.ite
    | split
    | dsimp only
    | dsimp +zetaDelta only

theorem eff_arcCapture (d : Desc) (data : List Byte) (m : Module) : Eff [.mem, .flt, .vst, .hlt, .cor, .pci, .tray, .dbg, .out] m (arcCapture d data m) := by
  unfold arcCapture
  iterate 24 all_goals try first
    | with_reducible exact Eff.refl _
    | with_reducible assumption
    | (with_reducible apply Eff.after (eff_capture ..); · decide)
    | intro _
    | extract_lets
    | with_reducible apply Eff.ite
    | split
    | dsimp only
    | dsimp +zetaDelta only

theorem eff_arcStore (a : Nat) (d : Desc) (partials : Bool) (vals : NMap W64) (lo : Nat) (hi : Nat) (m : Module) : Eff [.mem, .flt, .vst, .hlt, .cor, .pci, .tray, .dbg, .out] m (arcStore a d partials vals lo hi m) := by
  unfold arcStore
  iterate 24 all_goals try first
    | with_reducible exact Eff.refl _
    | with_reducible assumption
    | (with_reducible apply Eff.after (eff_memWrite ..); · decide)
    | (with_reducible apply Eff.after (eff_arcWrite ..); · decide)
    | intro _
    | extract_lets
    | with_reducible apply Eff.ite
    | split
    | dsimp only
    | dsimp +zetaDelta only

theorem eff_arcDone (a : Nat) (d : Desc) (m : Module) : Eff [.counts, .outstanding, .harts, .arc, .vst, .wdg, .hlt, .pci, .tray, .dbg, .out] m (arcDone a d m) := by
  unfold arcDone
  iterate 24 all_goals try first
    | with_reducible exact Eff.refl _
    | with_reducible assumption
    | (with_reducible apply Eff.after (eff_complete ..); · decide)
    | (with_reducible apply Eff.after (eff_setArc ..); · decide)
    | intro _
    | extract_lets
    | with_reducible apply Eff.ite
    | (fail_if_no_progress ((with_reducible refine Eff.upd ?_ rfl rfl rfl rfl rfl rfl rfl rfl rfl rfl ?_); rotate_left; exact rfl))
    | split
    | dsimp only
    | dsimp +zetaDelta only

theorem eff_arcSend (a : Nat) (o : ArcOp) (rank : Nat) (ph : Nat) (kind : Nat) (off : Nat) (payload : List Byte) (m : Module) : Eff [.port, .rte, .arc, .vst, .hlt, .cor, .sec, .pci, .tray, .dbg, .out] m (arcSend a o rank ph kind off payload m) := by
  unfold arcSend
  iterate 24 all_goals try first
    | with_reducible exact Eff.refl _
    | with_reducible assumption
    | (with_reducible apply Eff.after (eff_inject ..); · decide)
    | (with_reducible apply Eff.after (eff_setArc ..); · decide)
    | intro _
    | extract_lets
    | with_reducible apply Eff.ite
    | (fail_if_no_progress ((with_reducible refine Eff.upd ?_ rfl rfl rfl rfl rfl rfl rfl rfl rfl rfl ?_); rotate_left; exact rfl))
    | split
    | dsimp only
    | dsimp +zetaDelta only

theorem eff_arcData (a : Nat) (o : ArcOp) (f : Phase) (m : Module) : Eff [.port, .rte, .arc, .vst, .hlt, .cor, .sec, .pci, .tray, .dbg, .out] m (arcData a o f m) := by
  unfold arcData
  iterate 24 all_goals try first
    | with_reducible exact Eff.refl _
    | with_reducible assumption
    | (with_reducible apply Eff.after (eff_arcSend ..); · decide)
    | (with_reducible apply Eff.after (eff_setArcOp ..); · decide)
    | intro _
    | extract_lets
    | with_reducible apply Eff.ite
    | with_reducible apply Eff.fold
    | (fail_if_no_progress ((with_reducible refine Eff.upd ?_ rfl rfl rfl rfl rfl rfl rfl rfl rfl rfl ?_); rotate_left; exact rfl))
    | split
    | (with_reducible refine Eff.iteSnd (by assumption) ?_ ?_)
    | dsimp only
    | dsimp +zetaDelta only
    | with_reducible apply Eff.foldSnd
    | with_reducible apply Eff.foldFst
    | with_reducible apply Eff.foldThird

theorem eff_arcRun (a : Nat) (n : Nat) (m : Module) : Eff [.counts, .outstanding, .harts, .mem, .flt, .port, .rte, .arc, .vst, .wdg, .hlt, .cor, .sec, .pci, .tray, .dbg, .out] m (arcRun a n m) := by
  induction n generalizing m with
  | zero => exact Eff.refl _
  | succ k ih =>
    unfold arcRun
    iterate 40 all_goals try first
      | with_reducible exact Eff.refl _
      | with_reducible assumption
      | (with_reducible apply Eff.after (eff_arcCapture ..); · decide)
      | (with_reducible apply Eff.after (eff_arcDone ..); · decide)
      | (with_reducible apply Eff.after (eff_arcEnded ..); · decide)
      | (with_reducible apply Eff.after (eff_arcData ..); · decide)
      | (with_reducible apply Eff.after (eff_arcStore ..); · decide)
      | (with_reducible apply Eff.after (eff_setArcOp ..); · decide)
      | (with_reducible apply Eff.after (eff_arcSend ..); · decide)
      | (with_reducible apply Eff.after (ih ..); · decide)
      | intro _
      | extract_lets
      | with_reducible apply Eff.ite
      | (fail_if_no_progress ((with_reducible refine Eff.upd ?_ rfl rfl rfl rfl rfl rfl rfl rfl rfl rfl ?_); rotate_left; exact rfl))
      | split
      | (with_reducible refine Eff.iteSnd (by assumption) ?_ ?_)
      | dsimp only
      | dsimp +zetaDelta only

theorem eff_arcGo (a : Nat) (m : Module) : Eff [.counts, .outstanding, .harts, .mem, .flt, .port, .rte, .arc, .vst, .wdg, .hlt, .cor, .sec, .pci, .tray, .dbg, .out] m (arcGo a m) := by
  unfold arcGo
  iterate 24 all_goals try first
    | with_reducible exact Eff.refl _
    | with_reducible assumption
    | (with_reducible apply Eff.after (eff_arcRun ..); · decide)
    | intro _
    | extract_lets
    | with_reducible apply Eff.ite
    | (fail_if_no_progress ((with_reducible refine Eff.upd ?_ rfl rfl rfl rfl rfl rfl rfl rfl rfl rfl ?_); rotate_left; exact rfl))
    | split
    | dsimp only
    | dsimp +zetaDelta only

theorem eff_arcStart (a : Nat) (d : Desc) (ents : NMap Nat) (m : Module) : Eff [.counts, .outstanding, .harts, .mem, .flt, .port, .rte, .arc, .vst, .wdg, .hlt, .cor, .sec, .pci, .tray, .dbg, .out] m (arcStart a d ents m) := by
  unfold arcStart
  iterate 24 all_goals try first
    | with_reducible exact Eff.refl _
    | with_reducible assumption
    | (with_reducible apply Eff.after (eff_descStart ..); · decide)
    | (with_reducible apply Eff.after (eff_arcDone ..); · decide)
    | (with_reducible apply Eff.after (eff_serveCapture ..); · decide)
    | (with_reducible apply Eff.snd (eff_serveCapture ..); with_reducible assumption; · decide)
    | (with_reducible apply Eff.after (eff_arcWrite ..); · decide)
    | (with_reducible apply Eff.after (eff_complete ..); · decide)
    | (with_reducible apply Eff.after (eff_memRead ..); · decide)
    | (with_reducible apply Eff.third (eff_memRead ..); with_reducible assumption; · decide)
    | (with_reducible apply Eff.after (eff_arcCapture ..); · decide)
    | (with_reducible apply Eff.after (eff_setArc ..); · decide)
    | (with_reducible apply Eff.after (eff_arcSend ..); · decide)
    | (with_reducible apply Eff.after (eff_arcGo ..); · decide)
    | intro _
    | extract_lets
    | with_reducible apply Eff.ite
    | with_reducible apply Eff.fold
    | (fail_if_no_progress ((with_reducible refine Eff.upd ?_ rfl rfl rfl rfl rfl rfl rfl rfl rfl rfl ?_); rotate_left; exact rfl))
    | split
    | (with_reducible refine Eff.iteSnd (by assumption) ?_ ?_)
    | dsimp only
    | dsimp +zetaDelta only
    | with_reducible apply Eff.foldSnd
    | with_reducible apply Eff.foldFst
    | with_reducible apply Eff.foldThird

theorem eff_arcRefuse (a : Nat) (code : Nat) (d : Desc) (m : Module) : Eff [.counts, .outstanding, .harts, .arc, .vst, .wdg, .hlt, .pci, .tray, .dbg, .out] m (arcRefuse a code d m) := by
  unfold arcRefuse
  iterate 24 all_goals try first
    | with_reducible exact Eff.refl _
    | with_reducible assumption
    | (with_reducible apply Eff.after (eff_bodyRefused ..); · decide)
    | (with_reducible apply Eff.after (eff_setArc ..); · decide)
    | intro _
    | extract_lets
    | with_reducible apply Eff.ite
    | (fail_if_no_progress ((with_reducible refine Eff.upd ?_ rfl rfl rfl rfl rfl rfl rfl rfl rfl rfl ?_); rotate_left; exact rfl))
    | split
    | dsimp only
    | dsimp +zetaDelta only

theorem eff_arcTake {l : List Part} {a : ℕ} {k : QKey} {d : Desc} {errs : List MemErr} {go : NMap ℕ → Module → Module} {b m : Module}
    (h : Eff l b m) (hg : ∀ e m, Eff l m (go e m)) (hs : sub [.queues, .counts, .outstanding, .harts, .mem, .flt, .arc, .vst, .wdg, .hlt, .cor, .pci, .tray, .dbg, .out] l = true) : Eff l b (arcTake a k d errs go m) := by
  refine h.trans ?_
  unfold arcTake
  extract_lets m1 x1 m2
  have h2 : Eff [.queues, .counts, .outstanding, .harts, .mem, .flt, .arc, .vst, .wdg, .hlt, .cor, .pci, .tray, .dbg, .out] m m2 := ((eff_dequeue ..).mono (by decide)).trans ((eff_setArc ..).mono (by decide))
  refine (h2.mono hs).trans ?_
  clear_value m2
  split
  · exact Eff.mono (k := [.queues, .counts, .outstanding, .harts, .mem, .flt, .arc, .vst, .wdg, .hlt, .cor, .pci, .tray, .dbg, .out]) ((eff_arcRefuse ..).mono (by decide)) hs
  refine (Eff.mono (k := [.queues, .counts, .outstanding, .harts, .mem, .flt, .arc, .vst, .wdg, .hlt, .cor, .pci, .tray, .dbg, .out]) ((eff_memErrs d.part errs m2).mono (by decide)) hs).trans ?_
  split
  rename_i ents m4 e4
  refine (Eff.mono (k := [.queues, .counts, .outstanding, .harts, .mem, .flt, .arc, .vst, .wdg, .hlt, .cor, .pci, .tray, .dbg, .out]) (Eff.snd (eff_readEnts ..) e4 (by decide) (.refl _)) hs).trans ?_
  split
  · exact Eff.mono (k := [.queues, .counts, .outstanding, .harts, .mem, .flt, .arc, .vst, .wdg, .hlt, .cor, .pci, .tray, .dbg, .out]) ((eff_arcRefuse ..).mono (by decide)) hs
  · exact hg ..

theorem eff_execAllreduce (a : Fin 2) (errs : List MemErr) (s : State) : EffOut [.queues, .counts, .outstanding, .harts, .mem, .flt, .port, .rte, .arc, .vst, .wdg, .hlt, .cor, .sec, .pci, .tray, .dbg, .out] s (execAllreduce a errs s) := by
  unfold execAllreduce
  iterate 24 all_goals try first
    | with_reducible exact EffOut.stop
    | with_reducible exact EffOut.ill
    | with_reducible refine EffOut.done ?_
    | with_reducible exact Eff.refl _
    | with_reducible assumption
    | with_reducible refine eff_arcTake ?_ ?_ (by decide)
    | (with_reducible apply Eff.after (eff_arcStart ..); · decide)
    | exact (eff_done ..).mono (by decide)
    | intro _
    | extract_lets
    | with_reducible apply Eff.ite
    | (fail_if_no_progress ((with_reducible refine Eff.upd ?_ rfl rfl rfl rfl rfl rfl rfl rfl rfl rfl ?_); rotate_left; exact rfl))
    | split
    | dsimp only
    | dsimp +zetaDelta only

theorem eff_execVoteCfg (a : Fin 2) (s : State) : EffOut [.clk, .beat, .queues, .counts, .outstanding, .harts, .mem, .flt, .arc, .vote, .vst, .wdg, .hlt, .cor, .pci, .tray, .dbg, .out] s (execVoteCfg a s) := by
  unfold execVoteCfg
  iterate 24 all_goals try first
    | with_reducible exact EffOut.stop
    | with_reducible exact EffOut.ill
    | with_reducible refine EffOut.done ?_
    | with_reducible exact Eff.refl _
    | with_reducible assumption
    | with_reducible refine eff_arcTake ?_ ?_ (by decide)
    | (with_reducible apply Eff.after (eff_passToCycle ..); · decide)
    | (with_reducible apply Eff.after (eff_descStart ..); · decide)
    | (with_reducible apply Eff.after (eff_complete ..); · decide)
    | exact (eff_done ..).mono (by decide)
    | intro _
    | extract_lets
    | with_reducible apply Eff.ite
    | (fail_if_no_progress ((with_reducible refine Eff.upd ?_ rfl rfl rfl rfl rfl rfl rfl rfl rfl rfl ?_); rotate_left; exact rfl))
    | split
    | dsimp only
    | dsimp +zetaDelta only

theorem eff_arcLate (a : Nat) (m : Module) : Eff [.arc] m (arcLate a m) := by
  unfold arcLate
  iterate 24 all_goals try first
    | with_reducible exact Eff.refl _
    | with_reducible assumption
    | (with_reducible apply Eff.after (eff_setArc ..); · decide)
    | intro _
    | extract_lets
    | with_reducible apply Eff.ite
    | (fail_if_no_progress ((with_reducible refine Eff.upd ?_ rfl rfl rfl rfl rfl rfl rfl rfl rfl rfl ?_); rotate_left; exact rfl))
    | split
    | dsimp only
    | dsimp +zetaDelta only

theorem eff_earlyDropped (a : Nat) (m : Module) : Eff [.arc] m (earlyDropped a m) := by
  unfold earlyDropped
  iterate 24 all_goals try first
    | with_reducible exact Eff.refl _
    | with_reducible assumption
    | (with_reducible apply Eff.after (eff_setArc ..); · decide)
    | intro _
    | extract_lets
    | with_reducible apply Eff.ite
    | (fail_if_no_progress ((with_reducible refine Eff.upd ?_ rfl rfl rfl rfl rfl rfl rfl rfl rfl rfl ?_); rotate_left; exact rfl))
    | split
    | dsimp only
    | dsimp +zetaDelta only

theorem eff_holdReady (a : Nat) (k : Pkt) (m : Module) : Eff [.arc, .vst, .hlt, .pci, .tray, .dbg, .out] m (holdReady a k m) := by
  unfold holdReady
  iterate 24 all_goals try first
    | with_reducible exact Eff.refl _
    | with_reducible assumption
    | (with_reducible apply Eff.after (eff_setArc ..); · decide)
    | (with_reducible apply Eff.after (eff_ev ..); · decide)
    | (with_reducible apply Eff.after (eff_earlyDropped ..); · decide)
    | intro _
    | extract_lets
    | with_reducible apply Eff.ite
    | (fail_if_no_progress ((with_reducible refine Eff.upd ?_ rfl rfl rfl rfl rfl rfl rfl rfl rfl rfl ?_); rotate_left; exact rfl))
    | split
    | dsimp only
    | dsimp +zetaDelta only

theorem eff_arcRecv (a : Nat) (o : ArcOp) (f : Phase) (k : Pkt) (pairDiff : Bool) (m : Module) : Eff [.counts, .outstanding, .harts, .mem, .flt, .port, .rte, .arc, .vst, .wdg, .chk, .hlt, .cor, .sec, .pci, .tray, .dbg, .out] m (arcRecv a o f k pairDiff m) := by
  unfold arcRecv
  iterate 24 all_goals try first
    | with_reducible exact Eff.refl _
    | with_reducible assumption
    | (with_reducible apply Eff.after (eff_arcStop ..); · decide)
    | (with_reducible apply Eff.after (eff_setArcOp ..); · decide)
    | (with_reducible apply Eff.after (eff_arcStore ..); · decide)
    | (with_reducible apply Eff.after (eff_setArc ..); · decide)
    | (with_reducible apply Eff.after (eff_compared ..); · decide)
    | (with_reducible apply Eff.after (eff_mismatch ..); · decide)
    | (with_reducible apply Eff.after (eff_arcGo ..); · decide)
    | intro _
    | extract_lets
    | with_reducible apply Eff.ite
    | with_reducible apply Eff.fold
    | (fail_if_no_progress ((with_reducible refine Eff.upd ?_ rfl rfl rfl rfl rfl rfl rfl rfl rfl rfl ?_); rotate_left; exact rfl))
    | split
    | (with_reducible refine Eff.iteSnd (by assumption) ?_ ?_)
    | dsimp only
    | dsimp +zetaDelta only
    | with_reducible apply Eff.foldSnd
    | with_reducible apply Eff.foldFst
    | with_reducible apply Eff.foldThird

theorem eff_arcPacket (k : Pkt) (pairDiff : Bool) (m : Module) : Eff [.counts, .outstanding, .harts, .mem, .flt, .port, .rte, .arc, .vst, .wdg, .chk, .hlt, .cor, .sec, .pci, .tray, .dbg, .out] m (arcPacket k pairDiff m) := by
  unfold arcPacket
  iterate 24 all_goals try first
    | with_reducible exact Eff.refl _
    | with_reducible assumption
    | (with_reducible apply Eff.after (eff_corridor ..); · decide)
    | (with_reducible apply Eff.after (eff_setArc ..); · decide)
    | (with_reducible apply Eff.after (eff_arcLate ..); · decide)
    | (with_reducible apply Eff.after (eff_arcGo ..); · decide)
    | (with_reducible apply Eff.after (eff_setArcOp ..); · decide)
    | (with_reducible apply Eff.after (eff_arcRecv ..); · decide)
    | (with_reducible apply Eff.after (eff_holdReady ..); · decide)
    | intro _
    | extract_lets
    | with_reducible apply Eff.ite
    | (fail_if_no_progress ((with_reducible refine Eff.upd ?_ rfl rfl rfl rfl rfl rfl rfl rfl rfl rfl ?_); rotate_left; exact rfl))
    | split
    | dsimp only
    | dsimp +zetaDelta only

theorem eff_execArcade (pairDiff : Bool) (s : State) : EffOut [.counts, .outstanding, .harts, .mem, .flt, .port, .rte, .arc, .vst, .wdg, .chk, .hlt, .cor, .sec, .pci, .tray, .dbg, .out] s (execArcade pairDiff s) := by
  unfold execArcade
  iterate 24 all_goals try first
    | with_reducible exact EffOut.stop
    | with_reducible exact EffOut.ill
    | with_reducible refine EffOut.done ?_
    | with_reducible exact Eff.refl _
    | with_reducible assumption
    | (with_reducible apply Eff.opt2 (eff_takeTy _ _); with_reducible assumption; · decide)
    | (with_reducible apply Eff.after (eff_arcPacket ..); · decide)
    | exact (eff_done ..).mono (by decide)
    | intro _
    | extract_lets
    | with_reducible apply Eff.ite
    | (fail_if_no_progress ((with_reducible refine Eff.upd ?_ rfl rfl rfl rfl rfl rfl rfl rfl rfl rfl ?_); rotate_left; exact rfl))
    | split
    | dsimp only
    | dsimp +zetaDelta only

theorem eff_setVote (p : Nat) (o : Option VoteOp) (m : Module) : Eff [.vote] m (setVote p o m) := by
  unfold setVote
  iterate 24 all_goals try first
    | with_reducible exact Eff.refl _
    | with_reducible assumption
    | intro _
    | extract_lets
    | with_reducible apply Eff.ite
    | (fail_if_no_progress ((with_reducible refine Eff.upd ?_ rfl rfl rfl rfl rfl rfl rfl rfl rfl rfl ?_); rotate_left; exact rfl))
    | split
    | dsimp only
    | dsimp +zetaDelta only

theorem eff_voteEnd (p : Nat) (n : Beat) (failed : Bool) (res : W32) (ph : Nat) (size : Nat) (m : Module) : Eff [.vote, .vst, .hlt, .pci, .tray, .dbg, .out] m (voteEnd p n failed res ph size m) := by
  unfold voteEnd
  iterate 24 all_goals try first
    | with_reducible exact Eff.refl _
    | with_reducible assumption
    | (with_reducible apply Eff.after (eff_setVote ..); · decide)
    | (with_reducible apply Eff.after (eff_voteFailed ..); · decide)
    | (with_reducible apply Eff.after (eff_ev ..); · decide)
    | (with_reducible apply Eff.after (eff_voteDone ..); · decide)
    | intro _
    | extract_lets
    | with_reducible apply Eff.ite
    | (fail_if_no_progress ((with_reducible refine Eff.upd ?_ rfl rfl rfl rfl rfl rfl rfl rfl rfl rfl ?_); rotate_left; exact rfl))
    | split
    | dsimp only
    | dsimp +zetaDelta only

theorem eff_voteSend (p : Nat) (o : VoteOp) (f : Phase) (m : Module) : Eff [.port, .rte, .vst, .hlt, .cor, .sec, .pci, .tray, .dbg, .out] m (voteSend p o f m) := by
  unfold voteSend
  iterate 24 all_goals try first
    | with_reducible exact Eff.refl _
    | with_reducible assumption
    | (with_reducible apply Eff.after (eff_inject ..); · decide)
    | intro _
    | extract_lets
    | with_reducible apply Eff.ite
    | (fail_if_no_progress ((with_reducible refine Eff.upd ?_ rfl rfl rfl rfl rfl rfl rfl rfl rfl rfl ?_); rotate_left; exact rfl))
    | split
    | dsimp only
    | dsimp +zetaDelta only

theorem eff_voteRun (p n : ℕ) (fresh : Bool) (m : Module) : Eff [.port, .rte, .vote, .vst, .hlt, .cor, .sec, .pci, .tray, .dbg, .out] m (voteRun p n fresh m) := by
  induction n generalizing fresh m with
  | zero => exact .refl _
  | succ n ih =>
    unfold voteRun
    split
    · exact .refl _
    split
    · exact (eff_voteEnd ..).mono (by decide)
    extract_lets m1
    have h1 : Eff [.port, .rte, .vote, .vst, .hlt, .cor, .sec, .pci, .tray, .dbg, .out] m m1 := by
      show Eff [.port, .rte, .vote, .vst, .hlt, .cor, .sec, .pci, .tray, .dbg, .out] m (if _ then _ else _)
      split
      · exact (eff_voteSend ..).mono (by decide)
      · exact .refl _
    refine h1.trans ?_
    clear_value m1
    split
    rename_i o2 m2 e2
    have h2 : Eff [.port, .rte, .vote, .vst, .hlt, .cor, .sec, .pci, .tray, .dbg, .out] m1 m2 := by
      split at e2
      · split at e2
        · obtain ⟨-, rfl⟩ := Prod.mk.injEq .. ▸ e2
          refine Eff.trans ?_ ((eff_setVote ..).mono (by decide))
          exact .of_keeps (.of_core rfl) rfl
        · obtain ⟨-, rfl⟩ := Prod.mk.injEq .. ▸ e2
          exact .refl _
      · obtain ⟨-, rfl⟩ := Prod.mk.injEq .. ▸ e2
        exact .refl _
    refine h2.trans ?_
    split
    · exact ((eff_setVote ..).mono (by decide)).trans (ih ..)
    · exact .refl _

theorem eff_voteBegin (p : Nat) (n : Beat) (value : W32) (m : Module) : Eff [.mem, .flt, .port, .rte, .vote, .vst, .hlt, .cor, .sec, .pci, .tray, .dbg, .out] m (voteBegin p n value m) := by
  unfold voteBegin
  iterate 24 all_goals try first
    | with_reducible exact Eff.refl _
    | with_reducible assumption
    | (with_reducible apply Eff.after (eff_voteEnd ..); · decide)
    | (with_reducible apply Eff.after (eff_readEnts ..); · decide)
    | (with_reducible apply Eff.snd (eff_readEnts ..); with_reducible assumption; · decide)
    | (with_reducible apply Eff.after (eff_setVote ..); · decide)
    | (with_reducible apply Eff.after (eff_voteRun ..); · decide)
    | intro _
    | extract_lets
    | with_reducible apply Eff.ite
    | (fail_if_no_progress ((with_reducible refine Eff.upd ?_ rfl rfl rfl rfl rfl rfl rfl rfl rfl rfl ?_); rotate_left; exact rfl))
    | split
    | (with_reducible refine Eff.iteSnd (by assumption) ?_ ?_)
    | dsimp only
    | dsimp +zetaDelta only

theorem eff_voteQueued (p k : ℕ) (m : Module) : Eff [.mem, .flt, .port, .rte, .vote, .vst, .hlt, .cor, .sec, .pci, .tray, .dbg, .out] m (voteQueued p k m) := by
  induction k generalizing m with
  | zero => exact Eff.refl _
  | succ k ih =>
    unfold voteQueued
    iterate 24 all_goals try first
      | with_reducible exact Eff.refl _
      | with_reducible assumption
      | (with_reducible apply Eff.after (eff_voteBegin ..); · decide)
      | (with_reducible apply Eff.after (ih ..); · decide)
      | intro _
      | extract_lets
      | with_reducible apply Eff.ite
      | with_reducible apply Eff.fold
      | (fail_if_no_progress ((with_reducible refine Eff.upd ?_ rfl rfl rfl rfl rfl rfl rfl rfl rfl rfl ?_); rotate_left; exact rfl))
      | split

theorem eff_voteNext (p : Nat) (m : Module) : Eff [.mem, .flt, .port, .rte, .vote, .vst, .hlt, .cor, .sec, .pci, .tray, .dbg, .out] m (voteNext p m) := by
  unfold voteNext
  iterate 24 all_goals try first
    | with_reducible exact Eff.refl _
    | with_reducible assumption
    | (with_reducible apply Eff.after (eff_voteQueued ..); · decide)
    | intro _
    | extract_lets
    | with_reducible apply Eff.ite
    | split
    | dsimp only
    | dsimp +zetaDelta only

theorem eff_voteStart (p : Nat) (n : Beat) (value : W32) (m : Module) : Eff [.mem, .flt, .port, .rte, .vote, .vst, .hlt, .cor, .sec, .pci, .tray, .dbg, .out] m (voteStart p n value m) := by
  unfold voteStart
  iterate 24 all_goals try first
    | with_reducible exact Eff.refl _
    | with_reducible assumption
    | (with_reducible apply Eff.after (eff_voteNext ..); · decide)
    | (with_reducible apply Eff.after (eff_voteBegin ..); · decide)
    | intro _
    | extract_lets
    | with_reducible apply Eff.ite
    | (fail_if_no_progress ((with_reducible refine Eff.upd ?_ rfl rfl rfl rfl rfl rfl rfl rfl rfl rfl ?_); rotate_left; exact rfl))
    | split
    | dsimp only
    | dsimp +zetaDelta only

theorem eff_votePacket (k : Pkt) (pairDiff : Bool) (m : Module) : Eff [.mem, .flt, .port, .rte, .arc, .vote, .vst, .chk, .hlt, .cor, .sec, .pci, .tray, .dbg, .out] m (votePacket k pairDiff m) := by
  unfold votePacket
  iterate 24 all_goals try first
    | with_reducible exact Eff.refl _
    | with_reducible assumption
    | (with_reducible apply Eff.after (eff_ev ..); · decide)
    | (with_reducible apply Eff.after (eff_earlyDropped ..); · decide)
    | (with_reducible apply Eff.after (eff_arcLate ..); · decide)
    | (with_reducible apply Eff.after (eff_setVote ..); · decide)
    | (with_reducible apply Eff.after (eff_compared ..); · decide)
    | (with_reducible apply Eff.after (eff_mismatch ..); · decide)
    | (with_reducible apply Eff.after (eff_voteNext ..); · decide)
    | (with_reducible apply Eff.after (eff_voteRun ..); · decide)
    | intro _
    | extract_lets
    | with_reducible apply Eff.ite
    | (fail_if_no_progress ((with_reducible refine Eff.upd ?_ rfl rfl rfl rfl rfl rfl rfl rfl rfl rfl ?_); rotate_left; exact rfl))
    | split
    | dsimp only
    | dsimp +zetaDelta only

theorem eff_execVote (pairDiff : Bool) (s : State) : EffOut [.mem, .flt, .port, .rte, .arc, .vote, .vst, .chk, .hlt, .cor, .sec, .pci, .tray, .dbg, .out] s (execVote pairDiff s) := by
  unfold execVote
  iterate 24 all_goals try first
    | with_reducible exact EffOut.stop
    | with_reducible exact EffOut.ill
    | with_reducible refine EffOut.done ?_
    | with_reducible exact Eff.refl _
    | with_reducible assumption
    | (with_reducible apply Eff.opt2 (eff_takeTy _ _); with_reducible assumption; · decide)
    | (with_reducible apply Eff.after (eff_votePacket ..); · decide)
    | (with_reducible apply Eff.after (eff_corridor ..); · decide)
    | exact (eff_done ..).mono (by decide)
    | intro _
    | extract_lets
    | with_reducible apply Eff.ite
    | (fail_if_no_progress ((with_reducible refine Eff.upd ?_ rfl rfl rfl rfl rfl rfl rfl rfl rfl rfl ?_); rotate_left; exact rfl))
    | split
    | dsimp only
    | dsimp +zetaDelta only

theorem eff_voteFail (p : Nat) (m : Module) : Eff [.mem, .flt, .port, .rte, .vote, .vst, .hlt, .cor, .sec, .pci, .tray, .dbg, .out] m (voteFail p m) := by
  unfold voteFail
  iterate 24 all_goals try first
    | with_reducible exact Eff.refl _
    | with_reducible assumption
    | (with_reducible apply Eff.after (eff_voteNext ..); · decide)
    | (with_reducible apply Eff.after (eff_voteEnd ..); · decide)
    | intro _
    | extract_lets
    | with_reducible apply Eff.ite
    | (fail_if_no_progress ((with_reducible refine Eff.upd ?_ rfl rfl rfl rfl rfl rfl rfl rfl rfl rfl ?_); rotate_left; exact rfl))
    | split
    | dsimp only
    | dsimp +zetaDelta only

theorem eff_execPhaseTimeout (u : Option (Fin 2)) (part : Fin 16) (s : State) : EffOut [.clk, .beat, .counts, .outstanding, .harts, .mem, .flt, .port, .rte, .arc, .vote, .vst, .wdg, .hlt, .cor, .sec, .pci, .tray, .dbg, .out] s (execPhaseTimeout u part s) := by
  unfold execPhaseTimeout
  iterate 24 all_goals try first
    | with_reducible exact EffOut.stop
    | with_reducible exact EffOut.ill
    | with_reducible refine EffOut.done ?_
    | with_reducible exact Eff.refl _
    | with_reducible assumption
    | (with_reducible apply Eff.after (eff_arcStop ..); · decide)
    | (with_reducible apply Eff.after (eff_passTo ..); · decide)
    | (with_reducible apply Eff.after (eff_voteFail ..); · decide)
    | exact (eff_done ..).mono (by decide)
    | intro _
    | extract_lets
    | with_reducible apply Eff.ite
    | (fail_if_no_progress ((with_reducible refine Eff.upd ?_ rfl rfl rfl rfl rfl rfl rfl rfl rfl rfl ?_); rotate_left; exact rfl))
    | split
    | dsimp only
    | dsimp +zetaDelta only

theorem eff_voteEarly (q : List Early) (m : Module) : Eff [.vote] m { m with vote := { m.vote with early := q } } :=
  .of_keeps (.of_core rfl) rfl

theorem eff_execEarlyReadyExpiry (a : Fin 2) (s : State) : EffOut [.clk, .beat, .mem, .arc, .vote, .cor, .dbg, .out] s (execEarlyReadyExpiry a s) := by
  have hv : ∀ t q, Eff [.clk, .beat, .mem, .arc, .vote, .cor, .dbg, .out] s.m (earlyDropped a.val { passTo t s.m with vote := { (passTo t s.m).vote with early := q } }) := fun t q =>
    (((eff_passTo ..).mono (by decide)).trans ((eff_voteEarly ..).mono (by decide))).trans ((eff_earlyDropped ..).mono (by decide))
  have ha : ∀ t x, Eff [.clk, .beat, .mem, .arc, .vote, .cor, .dbg, .out] s.m (earlyDropped a.val ((passTo t s.m).setArc a.val x)) := fun t x =>
    (((eff_passTo ..).mono (by decide)).trans ((eff_setArc ..).mono (by decide))).trans ((eff_earlyDropped ..).mono (by decide))
  rw [execEarlyReadyExpiry]
  split
  · exact .stop
  · split
    · split
      · exact .done (hv ..)
      · exact .done (ha ..)
    · exact .done (ha ..)
  · exact .done (hv ..)

theorem eff_arcExtend (p : Nat) (beats : Nat) (m : Module) : Eff [.arc, .vote, .vst, .hlt, .pci, .tray, .dbg, .out] m (arcExtend p beats m) := by
  unfold arcExtend
  iterate 24 all_goals try first
    | with_reducible exact Eff.refl _
    | with_reducible assumption
    | (with_reducible apply Eff.after (eff_ev ..); · decide)
    | (with_reducible apply Eff.after (eff_setArc ..); · decide)
    | intro _
    | extract_lets
    | with_reducible apply Eff.ite
    | with_reducible apply Eff.fold
    | (fail_if_no_progress ((with_reducible refine Eff.upd ?_ rfl rfl rfl rfl rfl rfl rfl rfl rfl rfl ?_); rotate_left; exact rfl))
    | split
    | (with_reducible refine Eff.iteSnd (by assumption) ?_ ?_)
    | dsimp only
    | dsimp +zetaDelta only
    | with_reducible apply Eff.foldSnd
    | with_reducible apply Eff.foldFst
    | with_reducible apply Eff.foldThird

theorem eff_arcAbort (p : Nat) (m : Module) : Eff [.counts, .outstanding, .harts, .mem, .flt, .port, .rte, .arc, .vote, .vst, .wdg, .hlt, .cor, .sec, .pci, .tray, .dbg, .out] m (arcAbort p m) := by
  unfold arcAbort
  iterate 24 all_goals try first
    | with_reducible exact Eff.refl _
    | with_reducible assumption
    | (with_reducible apply Eff.after (eff_arcStop ..); · decide)
    | (with_reducible apply Eff.after (eff_voteFail ..); · decide)
    | intro _
    | extract_lets
    | with_reducible apply Eff.ite
    | with_reducible apply Eff.fold
    | (fail_if_no_progress ((with_reducible refine Eff.upd ?_ rfl rfl rfl rfl rfl rfl rfl rfl rfl rfl ?_); rotate_left; exact rfl))
    | split
    | (with_reducible refine Eff.iteSnd (by assumption) ?_ ?_)
    | dsimp only
    | dsimp +zetaDelta only
    | with_reducible apply Eff.foldSnd
    | with_reducible apply Eff.foldFst
    | with_reducible apply Eff.foldThird

theorem eff_voteDrop (ok : Nat → Bool) (cfg : Bool) (m : Module) : Eff [.vote] m (voteDrop ok cfg m) := by
  unfold voteDrop
  iterate 24 all_goals try first
    | with_reducible exact Eff.refl _
    | with_reducible assumption
    | intro _
    | extract_lets
    | with_reducible apply Eff.ite
    | (fail_if_no_progress ((with_reducible refine Eff.upd ?_ rfl rfl rfl rfl rfl rfl rfl rfl rfl rfl ?_); rotate_left; exact rfl))
    | split
    | dsimp only
    | dsimp +zetaDelta only

theorem eff_arcDrop (a : Nat) (ok : Nat → Bool) (m : Module) : Eff [.arc] m (arcDrop a ok m) := by
  unfold arcDrop
  iterate 24 all_goals try first
    | with_reducible exact Eff.refl _
    | with_reducible assumption
    | (with_reducible apply Eff.after (eff_arcEnded ..); · decide)
    | intro _
    | extract_lets
    | with_reducible apply Eff.ite
    | (fail_if_no_progress ((with_reducible refine Eff.upd ?_ rfl rfl rfl rfl rfl rfl rfl rfl rfl rfl ?_); rotate_left; exact rfl))
    | split
    | dsimp only
    | dsimp +zetaDelta only

theorem eff_execArcCntClr (a : Fin 2) (s : State) : EffOut [.arc] s (execArcCntClr a s) := by
  unfold execArcCntClr
  iterate 24 all_goals try first
    | with_reducible exact EffOut.stop
    | with_reducible exact EffOut.ill
    | with_reducible refine EffOut.done ?_
    | with_reducible exact Eff.refl _
    | with_reducible assumption
    | (with_reducible apply Eff.after (eff_setArc ..); · decide)
    | exact (eff_done ..).mono (by decide)
    | intro _
    | extract_lets
    | with_reducible apply Eff.ite
    | split
    | dsimp only
    | dsimp +zetaDelta only

end Sys2Proof.Laws
end

