-- ==== Sys2Proof/Laws/EffNwl.lean ====
section
/-! SUPPORT. What the operations of Nwl.lean keep, and what they may change. -/

namespace Sys2Proof.Laws
open Sys2Proof.Machine

theorem eff_setStepComp (p : Nat) (s : W32) (m : Module) : Eff [.nwl] m (setStepComp p s m) := by
  unfold setStepComp
  iterate 24 all_goals try first
    | with_reducible exact Eff.refl _
    | with_reducible assumption
    | (with_reducible apply Eff.after (eff_setNwl ..); · decide)
    | intro _
    | extract_lets
    | with_reducible apply Eff.ite
    | (fail_if_no_progress ((with_reducible refine Eff.upd ?_ rfl rfl rfl rfl rfl rfl rfl rfl rfl rfl ?_); rotate_left; exact rfl))
    | split
    | dsimp only
    | dsimp +zetaDelta only

theorem eff_setSeed (p : Nat) (slot : Nat) (v : W64) (m : Module) : Eff [.nwl] m (setSeed p slot v m) := by
  unfold setSeed
  iterate 24 all_goals try first
    | with_reducible exact Eff.refl _
    | with_reducible assumption
    | (with_reducible apply Eff.after (eff_setNwl ..); · decide)
    | intro _
    | extract_lets
    | with_reducible apply Eff.ite
    | (fail_if_no_progress ((with_reducible refine Eff.upd ?_ rfl rfl rfl rfl rfl rfl rfl rfl rfl rfl ?_); rotate_left; exact rfl))
    | split
    | dsimp only
    | dsimp +zetaDelta only

theorem eff_refuseDraw (w : Nat) (d : Desc) (m : Module) : Eff [.nwl, .vst, .hlt, .pci, .tray, .dbg, .out] m (refuseDraw w d m) := by
  unfold refuseDraw
  iterate 24 all_goals try first
    | with_reducible exact Eff.refl _
    | with_reducible assumption
    | (with_reducible apply Eff.after (eff_ev ..); · decide)
    | (with_reducible apply Eff.after (eff_setNwl ..); · decide)
    | intro _
    | extract_lets
    | with_reducible apply Eff.ite
    | (fail_if_no_progress ((with_reducible refine Eff.upd ?_ rfl rfl rfl rfl rfl rfl rfl rfl rfl rfl ?_); rotate_left; exact rfl))
    | split
    | dsimp only
    | dsimp +zetaDelta only

theorem eff_nwlCount (w : Nat) (calls : Nat) (misses : Nat) (m : Module) : Eff [.nwl] m (nwlCount w calls misses m) := by
  unfold nwlCount
  iterate 24 all_goals try first
    | with_reducible exact Eff.refl _
    | with_reducible assumption
    | (with_reducible apply Eff.after (eff_setNwl ..); · decide)
    | intro _
    | extract_lets
    | with_reducible apply Eff.ite
    | (fail_if_no_progress ((with_reducible refine Eff.upd ?_ rfl rfl rfl rfl rfl rfl rfl rfl rfl rfl ?_); rotate_left; exact rfl))
    | split
    | dsimp only
    | dsimp +zetaDelta only

theorem eff_nwlEcc (n : Nat) (d : Desc) (hits : List EccHit) (m : Module) : Eff [.nwl, .vst, .hlt, .pci, .tray, .dbg, .out] m (nwlEcc n d hits m) := by
  unfold nwlEcc
  iterate 24 all_goals try first
    | with_reducible exact Eff.refl _
    | with_reducible assumption
    | (with_reducible apply Eff.after (eff_evS ..); · decide)
    | (with_reducible apply Eff.after (eff_setNwl ..); · decide)
    | intro _
    | extract_lets
    | with_reducible apply Eff.ite
    | with_reducible apply Eff.fold
    | (fail_if_no_progress ((with_reducible refine Eff.upd ?_ rfl rfl rfl rfl rfl rfl rfl rfl rfl rfl ?_); rotate_left; exact rfl))
    | split
    | (with_reducible refine Eff.iteSnd (by assumption) ?_ ?_)
    | dsimp only
    | dsimp +zetaDelta only
    | with_reducible apply Eff.foldSnd
    | with_reducible apply Eff.foldFst
    | with_reducible apply Eff.foldThird

theorem eff_nwlServe (n : Nat) (p : Nat) (m : Module) : Eff [.nwl] m (nwlServe n p m) := by
  unfold nwlServe
  iterate 24 all_goals try first
    | with_reducible exact Eff.refl _
    | with_reducible assumption
    | (with_reducible apply Eff.after (eff_setNwl ..); · decide)
    | intro _
    | extract_lets
    | with_reducible apply Eff.ite
    | (fail_if_no_progress ((with_reducible refine Eff.upd ?_ rfl rfl rfl rfl rfl rfl rfl rfl rfl rfl ?_); rotate_left; exact rfl))
    | split
    | dsimp only
    | dsimp +zetaDelta only

theorem eff_execGen (n : Fin 2) (misses : Nat) (ecc : List EccHit) (s : State) : EffOut [.queues, .counts, .outstanding, .harts, .nwl, .mem, .flt, .vst, .wdg, .hlt, .cor, .pci, .tray, .dbg, .out] s (execGen n misses ecc s) := by
  unfold execGen
  iterate 24 all_goals try first
    | with_reducible exact EffOut.stop
    | with_reducible exact EffOut.ill
    | with_reducible refine EffOut.done ?_
    | with_reducible exact Eff.refl _
    | with_reducible assumption
    | (with_reducible apply Eff.after (eff_nwlServe ..); · decide)
    | (with_reducible apply Eff.after (eff_nwlEcc ..); · decide)
    | (with_reducible apply Eff.after (eff_dequeue ..); · decide)
    | (with_reducible apply Eff.after (eff_setNwl ..); · decide)
    | (with_reducible apply Eff.after (eff_bodyRefused ..); · decide)
    | (with_reducible apply Eff.after (eff_descStart ..); · decide)
    | (with_reducible apply Eff.after (eff_hallWrite ..); · decide)
    | (with_reducible apply Eff.after (eff_nwlCount ..); · decide)
    | exact (eff_done ..).mono (by decide)
    | intro _
    | extract_lets
    | with_reducible apply Eff.ite
    | (fail_if_no_progress ((with_reducible refine Eff.upd ?_ rfl rfl rfl rfl rfl rfl rfl rfl rfl rfl ?_); rotate_left; exact rfl))
    | split
    | dsimp only
    | dsimp +zetaDelta only

theorem eff_execGenComplete (n : Fin 2) (s : State) : EffOut [.clk, .beat, .counts, .outstanding, .harts, .nwl, .mem, .vst, .wdg, .hlt, .cor, .pci, .tray, .dbg, .out] s (execGenComplete n s) := by
  unfold execGenComplete
  iterate 24 all_goals try first
    | with_reducible exact EffOut.stop
    | with_reducible exact EffOut.ill
    | with_reducible refine EffOut.done ?_
    | with_reducible exact Eff.refl _
    | with_reducible assumption
    | (with_reducible apply Eff.after (eff_passToCycle ..); · decide)
    | (with_reducible apply Eff.after (eff_complete ..); · decide)
    | (with_reducible apply Eff.after (eff_setNwl ..); · decide)
    | exact (eff_done ..).mono (by decide)
    | intro _
    | extract_lets
    | with_reducible apply Eff.ite
    | (fail_if_no_progress ((with_reducible refine Eff.upd ?_ rfl rfl rfl rfl rfl rfl rfl rfl rfl rfl ?_); rotate_left; exact rfl))
    | split
    | dsimp only
    | dsimp +zetaDelta only

theorem eff_execSeed (n : Fin 2) (s : State) : EffOut [.clk, .beat, .queues, .counts, .outstanding, .harts, .nwl, .mem, .vst, .wdg, .hlt, .cor, .pci, .tray, .dbg, .out] s (execSeed n s) := by
  unfold execSeed
  iterate 24 all_goals try first
    | with_reducible exact EffOut.stop
    | with_reducible exact EffOut.ill
    | with_reducible refine EffOut.done ?_
    | with_reducible exact Eff.refl _
    | with_reducible assumption
    | (with_reducible apply Eff.after (eff_descStart ..); · decide)
    | (with_reducible apply Eff.after (eff_nwlServe ..); · decide)
    | (with_reducible apply Eff.after (eff_dequeue ..); · decide)
    | (with_reducible apply Eff.after (eff_setSeed ..); · decide)
    | (with_reducible apply Eff.after (eff_passToCycle ..); · decide)
    | (with_reducible apply Eff.after (eff_complete ..); · decide)
    | exact (eff_done ..).mono (by decide)
    | intro _
    | extract_lets
    | with_reducible apply Eff.ite
    | (fail_if_no_progress ((with_reducible refine Eff.upd ?_ rfl rfl rfl rfl rfl rfl rfl rfl rfl rfl ?_); rotate_left; exact rfl))
    | split
    | dsimp only
    | dsimp +zetaDelta only

theorem eff_nwlCntClr (n : Nat) (m : Module) : Eff [.nwl] m (nwlCntClr n m) := by
  unfold nwlCntClr
  iterate 24 all_goals try first
    | with_reducible exact Eff.refl _
    | with_reducible assumption
    | (with_reducible apply Eff.after (eff_setNwl ..); · decide)
    | intro _
    | extract_lets
    | with_reducible apply Eff.ite
    | split
    | dsimp only
    | dsimp +zetaDelta only

theorem eff_execNwlCntClr (n : Fin 2) (s : State) : EffOut [.nwl] s (execNwlCntClr n s) := by
  unfold execNwlCntClr
  iterate 24 all_goals try first
    | with_reducible exact EffOut.stop
    | with_reducible exact EffOut.ill
    | with_reducible refine EffOut.done ?_
    | with_reducible exact Eff.refl _
    | with_reducible assumption
    | (with_reducible apply Eff.after (eff_nwlCntClr ..); · decide)
    | exact (eff_done ..).mono (by decide)
    | intro _
    | extract_lets
    | with_reducible apply Eff.ite
    | split
    | dsimp only
    | dsimp +zetaDelta only

end Sys2Proof.Laws
end

