-- ==== Sys2Proof/Laws/EffVst.lean ====
section
/-! SUPPORT. What the operations of Vst.lean keep, and what they may change. -/

namespace Sys2Proof.Laws
open Sys2Proof.Machine

theorem eff_vstCopy (p : Nat) (tier : Nat) (src : Nat) (dstTier : Nat) (dst : Nat) (n : Nat) (m : Module) : Eff [.mem, .flt, .vst, .hlt, .cor, .pci, .tray, .dbg, .out] m (vstCopy p tier src dstTier dst n m) := by
  unfold vstCopy
  iterate 24 all_goals try first
    | with_reducible exact Eff.refl _
    | with_reducible assumption
    | (with_reducible apply Eff.after (eff_memRead ..); · decide)
    | (with_reducible apply Eff.third (eff_memRead ..); with_reducible assumption; · decide)
    | (with_reducible apply Eff.after (eff_memWriteBad ..); · decide)
    | intro _
    | extract_lets
    | with_reducible apply Eff.ite
    | split
    | (with_reducible refine Eff.iteSnd (by assumption) ?_ ?_)
    | dsimp only
    | dsimp +zetaDelta only

theorem eff_mirSend (p : Nat) (chip : Nat) (part : Nat) (kind : Nat) (step : Beat) (off : Nat) (hi : Nat) (payload : List Byte) (m : Module) : Eff [.port, .rte, .vst, .mir, .hlt, .cor, .sec, .pci, .tray, .dbg, .out] m (mirSend p chip part kind step off hi payload m).2 := by
  unfold mirSend
  iterate 24 all_goals try first
    | with_reducible exact Eff.refl _
    | with_reducible assumption
    | (with_reducible apply Eff.after (eff_newTag ..); · decide)
    | (with_reducible apply Eff.snd (eff_newTag ..); with_reducible assumption; · decide)
    | (with_reducible apply Eff.after (eff_inject ..); · decide)
    | (with_reducible apply Eff.after (eff_setMir ..); · decide)
    | intro _
    | extract_lets
    | with_reducible apply Eff.ite
    | (fail_if_no_progress ((with_reducible refine Eff.upd ?_ rfl rfl rfl rfl rfl rfl rfl rfl rfl rfl ?_); rotate_left; exact rfl))
    | split
    | (with_reducible refine Eff.iteSnd (by assumption) ?_ ?_)
    | dsimp only
    | dsimp +zetaDelta only

theorem eff_mirSendRead (p : Nat) (chip : Nat) (part : Nat) (kind : Nat) (step : Beat) (off : Nat) (x : List Byte × List Bool) (m : Module) : Eff [.port, .rte, .vst, .mir, .hlt, .cor, .sec, .pci, .tray, .dbg, .out] m (mirSendRead p chip part kind step off x m).2 := by
  unfold mirSendRead
  iterate 24 all_goals try first
    | with_reducible exact Eff.refl _
    | with_reducible assumption
    | (with_reducible apply Eff.after (eff_mirSend ..); · decide)
    | (with_reducible apply Eff.snd (eff_mirSend ..); with_reducible assumption; · decide)
    | (with_reducible apply Eff.after (eff_emit ..); · decide)
    | intro _
    | extract_lets
    | with_reducible apply Eff.ite
    | split
    | (with_reducible refine Eff.iteSnd (by assumption) ?_ ?_)
    | dsimp only
    | dsimp +zetaDelta only

theorem eff_sendInput (p : Nat) (k : Nat) (m : Module) : Eff [.port, .rte, .vst, .mir, .hlt, .cor, .sec, .pci, .tray, .dbg, .out] m (sendInput p k m) := by
  unfold sendInput
  iterate 24 all_goals try first
    | with_reducible exact Eff.refl _
    | with_reducible assumption
    | (with_reducible apply Eff.after (eff_mirSend ..); · decide)
    | (with_reducible apply Eff.snd (eff_mirSend ..); with_reducible assumption; · decide)
    | intro _
    | extract_lets
    | with_reducible apply Eff.ite
    | (fail_if_no_progress ((with_reducible refine Eff.upd ?_ rfl rfl rfl rfl rfl rfl rfl rfl rfl rfl ?_); rotate_left; exact rfl))
    | split
    | dsimp only
    | dsimp +zetaDelta only

theorem eff_takeCut (p : Nat) (k : Beat) (m : Module) : Eff [.mem, .vst, .hlt, .cor, .pci, .tray, .dbg, .out] m (takeCut p k m) := by
  unfold takeCut
  iterate 24 all_goals try first
    | with_reducible exact Eff.refl _
    | with_reducible assumption
    | (with_reducible apply Eff.after (eff_setVst ..); · decide)
    | (with_reducible apply Eff.after (eff_vstEv ..); · decide)
    | (with_reducible apply Eff.after (eff_flushCache ..); · decide)
    | intro _
    | extract_lets
    | with_reducible apply Eff.ite
    | (fail_if_no_progress ((with_reducible refine Eff.upd ?_ rfl rfl rfl rfl rfl rfl rfl rfl rfl rfl ?_); rotate_left; exact rfl))
    | split
    | dsimp only
    | dsimp +zetaDelta only

theorem eff_armCut (p : Nat) (k : Beat) (m : Module) : Eff [.vst] m (armCut p k m) := by
  unfold armCut
  iterate 24 all_goals try first
    | with_reducible exact Eff.refl _
    | with_reducible assumption
    | (with_reducible apply Eff.after (eff_setVst ..); · decide)
    | intro _
    | extract_lets
    | with_reducible apply Eff.ite
    | (fail_if_no_progress ((with_reducible refine Eff.upd ?_ rfl rfl rfl rfl rfl rfl rfl rfl rfl rfl ?_); rotate_left; exact rfl))
    | split
    | dsimp only
    | dsimp +zetaDelta only

theorem eff_openStep (p : Nat) (k : Nat) (n : Beat) (m : Module) : Eff [.nwl, .mem, .flt, .port, .rte, .vst, .mir, .wdg, .hlt, .cor, .sec, .pci, .tray, .dbg, .out] m (openStep p k n m) := by
  unfold openStep
  iterate 24 all_goals try first
    | with_reducible exact Eff.refl _
    | with_reducible assumption
    | (with_reducible apply Eff.after (eff_setStepComp ..); · decide)
    | (with_reducible apply Eff.after (eff_setVst ..); · decide)
    | (with_reducible apply Eff.after (eff_sendInput ..); · decide)
    | (with_reducible apply Eff.after (eff_writeHeader ..); · decide)
    | (with_reducible apply Eff.after (eff_takeCut ..); · decide)
    | intro _
    | extract_lets
    | with_reducible apply Eff.ite
    | (fail_if_no_progress ((with_reducible refine Eff.upd ?_ rfl rfl rfl rfl rfl rfl rfl rfl rfl rfl ?_); rotate_left; exact rfl))
    | split
    | dsimp only
    | dsimp +zetaDelta only

theorem eff_vstStep (p : Nat) (n : Beat) (m : Module) : Eff [.nwl, .mem, .flt, .port, .rte, .vst, .mir, .wdg, .hlt, .cor, .pwr, .sec, .pci, .tray, .dbg, .out] m (vstStep p n m) := by
  unfold vstStep
  iterate 24 all_goals try first
    | with_reducible exact Eff.refl _
    | with_reducible assumption
    | (with_reducible apply Eff.after (eff_setStepComp ..); · decide)
    | (with_reducible apply Eff.after (eff_vstEv ..); · decide)
    | (with_reducible apply Eff.after (eff_openStep ..); · decide)
    | (with_reducible apply Eff.after (eff_freeSlot ..); · decide)
    | (with_reducible apply Eff.after (eff_setVst ..); · decide)
    | intro _
    | extract_lets
    | with_reducible apply Eff.ite
    | (fail_if_no_progress ((with_reducible refine Eff.upd ?_ rfl rfl rfl rfl rfl rfl rfl rfl rfl rfl ?_); rotate_left; exact rfl))
    | split
    | dsimp only
    | dsimp +zetaDelta only

theorem eff_beginVote (p : Nat) (k : Nat) (s : VSlot) (value : Bool) (m : Module) : Eff [.mem, .flt, .port, .rte, .vote, .vst, .hlt, .cor, .sec, .pci, .tray, .dbg, .out] m (beginVote p k s value m) := by
  unfold beginVote
  iterate 24 all_goals try first
    | with_reducible exact Eff.refl _
    | with_reducible assumption
    | (with_reducible apply Eff.after (eff_voteStart ..); · decide)
    | (with_reducible apply Eff.after (eff_updSlot ..); · decide)
    | intro _
    | extract_lets
    | with_reducible apply Eff.ite
    | (fail_if_no_progress ((with_reducible refine Eff.upd ?_ rfl rfl rfl rfl rfl rfl rfl rfl rfl rfl ?_); rotate_left; exact rfl))
    | split
    | dsimp only
    | dsimp +zetaDelta only

theorem eff_vstCommit (p : Nat) (n : Beat) (m : Module) : Eff [.mem, .flt, .port, .rte, .vote, .vst, .hlt, .cor, .sec, .pci, .tray, .dbg, .out] m (vstCommit p n m) := by
  unfold vstCommit
  iterate 24 all_goals try first
    | with_reducible exact Eff.refl _
    | with_reducible assumption
    | (with_reducible apply Eff.after (eff_beginVote ..); · decide)
    | (with_reducible apply Eff.after (eff_vstEv ..); · decide)
    | intro _
    | extract_lets
    | with_reducible apply Eff.ite
    | (fail_if_no_progress ((with_reducible refine Eff.upd ?_ rfl rfl rfl rfl rfl rfl rfl rfl rfl rfl ?_); rotate_left; exact rfl))
    | split
    | dsimp only
    | dsimp +zetaDelta only

theorem eff_retain (d : Desc) (m : Module) : Eff [.mem, .flt, .vst, .hlt, .cor, .pci, .tray, .dbg, .out] m (retain d m) := by
  unfold retain
  iterate 24 all_goals try first
    | with_reducible exact Eff.refl _
    | with_reducible assumption
    | (with_reducible apply Eff.after (eff_memRead ..); · decide)
    | (with_reducible apply Eff.third (eff_memRead ..); with_reducible assumption; · decide)
    | (with_reducible apply Eff.after (eff_reserve ..); · decide)
    | (with_reducible apply Eff.snd (eff_reserve ..); with_reducible assumption; · decide)
    | (with_reducible apply Eff.after (eff_memWriteBad ..); · decide)
    | (with_reducible apply Eff.after (eff_writeHeader ..); · decide)
    | (with_reducible apply Eff.after (eff_updSlot ..); · decide)
    | intro _
    | extract_lets
    | with_reducible apply Eff.ite
    | (fail_if_no_progress ((with_reducible refine Eff.upd ?_ rfl rfl rfl rfl rfl rfl rfl rfl rfl rfl ?_); rotate_left; exact rfl))
    | split
    | (with_reducible refine Eff.iteSnd (by assumption) ?_ ?_)
    | dsimp only
    | dsimp +zetaDelta only

theorem eff_execRetain (p : Fin 16) (s : State) : EffOut [.queues, .counts, .outstanding, .harts, .mem, .flt, .vst, .wdg, .hlt, .cor, .pci, .tray, .dbg, .out] s (execRetain p s) := by
  unfold execRetain
  iterate 24 all_goals try first
    | with_reducible exact EffOut.stop
    | with_reducible exact EffOut.ill
    | with_reducible refine EffOut.done ?_
    | with_reducible exact Eff.refl _
    | with_reducible assumption
    | (with_reducible apply Eff.after (eff_dequeue ..); · decide)
    | (with_reducible apply Eff.after (eff_bodyRefused ..); · decide)
    | (with_reducible apply Eff.after (eff_complete ..); · decide)
    | (with_reducible apply Eff.after (eff_retain ..); · decide)
    | (with_reducible apply Eff.after (eff_descStart ..); · decide)
    | exact (eff_done ..).mono (by decide)
    | intro _
    | extract_lets
    | with_reducible apply Eff.ite
    | (fail_if_no_progress ((with_reducible refine Eff.upd ?_ rfl rfl rfl rfl rfl rfl rfl rfl rfl rfl ?_); rotate_left; exact rfl))
    | split
    | dsimp only
    | dsimp +zetaDelta only

theorem eff_doDone (d : Desc) (m : Module) : Eff [.clk, .beat, .counts, .outstanding, .harts, .mem, .vst, .wdg, .hlt, .cor, .pci, .tray, .dbg, .out] m (doDone d m) := by
  unfold doDone
  iterate 24 all_goals try first
    | with_reducible exact Eff.refl _
    | with_reducible assumption
    | (with_reducible apply Eff.after (eff_complete ..); · decide)
    | (with_reducible apply Eff.after (eff_updSlot ..); · decide)
    | (with_reducible apply Eff.after (eff_descStart ..); · decide)
    | (with_reducible apply Eff.after (eff_stepChecked ..); · decide)
    | (with_reducible apply Eff.after (eff_passToCycle ..); · decide)
    | intro _
    | extract_lets
    | with_reducible apply Eff.ite
    | (fail_if_no_progress ((with_reducible refine Eff.upd ?_ rfl rfl rfl rfl rfl rfl rfl rfl rfl rfl ?_); rotate_left; exact rfl))
    | split
    | dsimp only
    | dsimp +zetaDelta only

theorem eff_execDone (p : Fin 16) (s : State) : EffOut [.clk, .beat, .queues, .counts, .outstanding, .harts, .mem, .vst, .wdg, .hlt, .cor, .pci, .tray, .dbg, .out] s (execDone p s) := by
  unfold execDone
  iterate 24 all_goals try first
    | with_reducible exact EffOut.stop
    | with_reducible exact EffOut.ill
    | with_reducible refine EffOut.done ?_
    | with_reducible exact Eff.refl _
    | with_reducible assumption
    | (with_reducible apply Eff.after (eff_dequeue ..); · decide)
    | (with_reducible apply Eff.after (eff_bodyRefused ..); · decide)
    | (with_reducible apply Eff.after (eff_doDone ..); · decide)
    | exact (eff_done ..).mono (by decide)
    | intro _
    | extract_lets
    | with_reducible apply Eff.ite
    | (fail_if_no_progress ((with_reducible refine Eff.upd ?_ rfl rfl rfl rfl rfl rfl rfl rfl rfl rfl ?_); rotate_left; exact rfl))
    | split
    | dsimp only
    | dsimp +zetaDelta only

theorem eff_execAwait (p : Fin 16) (s : State) : EffOut [.queues, .counts, .outstanding, .harts, .vst, .wdg, .hlt, .pci, .tray, .dbg, .out] s (execAwait p s) := by
  unfold execAwait
  iterate 24 all_goals try first
    | with_reducible exact EffOut.stop
    | with_reducible exact EffOut.ill
    | with_reducible refine EffOut.done ?_
    | with_reducible exact Eff.refl _
    | with_reducible assumption
    | (with_reducible apply Eff.after (eff_dequeue ..); · decide)
    | (with_reducible apply Eff.after (eff_bodyRefused ..); · decide)
    | (with_reducible apply Eff.after (eff_descStart ..); · decide)
    | (with_reducible apply Eff.after (eff_setVst ..); · decide)
    | exact (eff_done ..).mono (by decide)
    | intro _
    | extract_lets
    | with_reducible apply Eff.ite
    | (fail_if_no_progress ((with_reducible refine Eff.upd ?_ rfl rfl rfl rfl rfl rfl rfl rfl rfl rfl ?_); rotate_left; exact rfl))
    | split
    | dsimp only
    | dsimp +zetaDelta only

theorem eff_execAwaitComplete (p : Fin 16) (s : State) : EffOut [.counts, .outstanding, .harts, .mem, .flt, .vst, .wdg, .hlt, .cor, .pci, .tray, .dbg, .out] s (execAwaitComplete p s) := by
  unfold execAwaitComplete
  iterate 24 all_goals try first
    | with_reducible exact EffOut.stop
    | with_reducible exact EffOut.ill
    | with_reducible refine EffOut.done ?_
    | with_reducible exact Eff.refl _
    | with_reducible assumption
    | (with_reducible apply Eff.after (eff_setVst ..); · decide)
    | (with_reducible apply Eff.after (eff_complete ..); · decide)
    | (with_reducible apply Eff.after (eff_hallWrite ..); · decide)
    | exact (eff_done ..).mono (by decide)
    | intro _
    | extract_lets
    | with_reducible apply Eff.ite
    | (fail_if_no_progress ((with_reducible refine Eff.upd ?_ rfl rfl rfl rfl rfl rfl rfl rfl rfl rfl ?_); rotate_left; exact rfl))
    | split
    | dsimp only
    | dsimp +zetaDelta only

theorem eff_execReleased (p : Fin 16) (s : State) : EffOut [.vst, .hlt, .pci, .tray, .dbg, .out] s (execReleased p s) := by
  unfold execReleased
  iterate 24 all_goals try first
    | with_reducible exact EffOut.stop
    | with_reducible exact EffOut.ill
    | with_reducible refine EffOut.done ?_
    | with_reducible exact Eff.refl _
    | with_reducible assumption
    | (with_reducible apply Eff.after (eff_vstEv ..); · decide)
    | (with_reducible apply Eff.after (eff_freeSlot ..); · decide)
    | exact (eff_done ..).mono (by decide)
    | intro _
    | extract_lets
    | with_reducible apply Eff.ite
    | (fail_if_no_progress ((with_reducible refine Eff.upd ?_ rfl rfl rfl rfl rfl rfl rfl rfl rfl rfl ?_); rotate_left; exact rfl))
    | split
    | dsimp only
    | dsimp +zetaDelta only

theorem eff_cmdRefuse (p : Nat) (code : Nat) (m : Module) : Eff [.vst, .hlt, .pci, .tray, .dbg, .out] m (cmdRefuse p code m) := by
  unfold cmdRefuse
  iterate 24 all_goals try first
    | with_reducible exact Eff.refl _
    | with_reducible assumption
    | (with_reducible apply Eff.after (eff_vstEv ..); · decide)
    | (with_reducible apply Eff.after (eff_setVst ..); · decide)
    | intro _
    | extract_lets
    | with_reducible apply Eff.ite
    | (fail_if_no_progress ((with_reducible refine Eff.upd ?_ rfl rfl rfl rfl rfl rfl rfl rfl rfl rfl ?_); rotate_left; exact rfl))
    | split
    | dsimp only
    | dsimp +zetaDelta only

theorem eff_vstArm (p : Nat) (op : Nat) (m : Module) : Eff [.vst, .hlt, .pci, .tray, .dbg, .out] m (vstArm p op m) := by
  unfold vstArm
  iterate 24 all_goals try first
    | with_reducible exact Eff.refl _
    | with_reducible assumption
    | (with_reducible apply Eff.after (eff_cmdRefuse ..); · decide)
    | (with_reducible apply Eff.after (eff_setVst ..); · decide)
    | intro _
    | extract_lets
    | with_reducible apply Eff.ite
    | (fail_if_no_progress ((with_reducible refine Eff.upd ?_ rfl rfl rfl rfl rfl rfl rfl rfl rfl rfl ?_); rotate_left; exact rfl))
    | split
    | dsimp only
    | dsimp +zetaDelta only

theorem eff_execReplayLive (p : Fin 16) (s : State) : EffOut [.vst, .hlt, .pci, .tray, .dbg, .out] s (execReplayLive p s) := by
  unfold execReplayLive
  iterate 24 all_goals try first
    | with_reducible exact EffOut.stop
    | with_reducible exact EffOut.ill
    | with_reducible refine EffOut.done ?_
    | with_reducible exact Eff.refl _
    | with_reducible assumption
    | (with_reducible apply Eff.after (eff_vstArm ..); · decide)
    | exact (eff_done ..).mono (by decide)
    | intro _
    | extract_lets
    | with_reducible apply Eff.ite
    | split
    | dsimp only
    | dsimp +zetaDelta only

theorem eff_execReplaySolo (p : Fin 16) (s : State) : EffOut [.vst, .hlt, .pci, .tray, .dbg, .out] s (execReplaySolo p s) := by
  unfold execReplaySolo
  iterate 24 all_goals try first
    | with_reducible exact EffOut.stop
    | with_reducible exact EffOut.ill
    | with_reducible refine EffOut.done ?_
    | with_reducible exact Eff.refl _
    | with_reducible assumption
    | (with_reducible apply Eff.after (eff_vstArm ..); · decide)
    | exact (eff_done ..).mono (by decide)
    | intro _
    | extract_lets
    | with_reducible apply Eff.ite
    | split
    | dsimp only
    | dsimp +zetaDelta only

theorem eff_execReplaySoloCommitted (p : Fin 16) (s : State) : EffOut [.vst, .hlt, .pci, .tray, .dbg, .out] s (execReplaySoloCommitted p s) := by
  unfold execReplaySoloCommitted
  iterate 24 all_goals try first
    | with_reducible exact EffOut.stop
    | with_reducible exact EffOut.ill
    | with_reducible refine EffOut.done ?_
    | with_reducible exact Eff.refl _
    | with_reducible assumption
    | (with_reducible apply Eff.after (eff_vstArm ..); · decide)
    | exact (eff_done ..).mono (by decide)
    | intro _
    | extract_lets
    | with_reducible apply Eff.ite
    | split
    | dsimp only
    | dsimp +zetaDelta only

theorem eff_execRevote (p : Fin 16) (s : State) : EffOut [.vst, .hlt, .pci, .tray, .dbg, .out] s (execRevote p s) := by
  unfold execRevote
  iterate 24 all_goals try first
    | with_reducible exact EffOut.stop
    | with_reducible exact EffOut.ill
    | with_reducible refine EffOut.done ?_
    | with_reducible exact Eff.refl _
    | with_reducible assumption
    | (with_reducible apply Eff.after (eff_vstArm ..); · decide)
    | exact (eff_done ..).mono (by decide)
    | intro _
    | extract_lets
    | with_reducible apply Eff.ite
    | split
    | dsimp only
    | dsimp +zetaDelta only

theorem eff_execResolveCommit (p : Fin 16) (s : State) : EffOut [.vst, .hlt, .pci, .tray, .dbg, .out] s (execResolveCommit p s) := by
  unfold execResolveCommit
  iterate 24 all_goals try first
    | with_reducible exact EffOut.stop
    | with_reducible exact EffOut.ill
    | with_reducible refine EffOut.done ?_
    | with_reducible exact Eff.refl _
    | with_reducible assumption
    | (with_reducible apply Eff.after (eff_vstArm ..); · decide)
    | exact (eff_done ..).mono (by decide)
    | intro _
    | extract_lets
    | with_reducible apply Eff.ite
    | split
    | dsimp only
    | dsimp +zetaDelta only

theorem eff_execResolveAbort (p : Fin 16) (s : State) : EffOut [.vst, .hlt, .pci, .tray, .dbg, .out] s (execResolveAbort p s) := by
  unfold execResolveAbort
  iterate 24 all_goals try first
    | with_reducible exact EffOut.stop
    | with_reducible exact EffOut.ill
    | with_reducible refine EffOut.done ?_
    | with_reducible exact Eff.refl _
    | with_reducible assumption
    | (with_reducible apply Eff.after (eff_vstArm ..); · decide)
    | exact (eff_done ..).mono (by decide)
    | intro _
    | extract_lets
    | with_reducible apply Eff.ite
    | split
    | dsimp only
    | dsimp +zetaDelta only

theorem eff_digestBad (p : Nat) (s : VSlot) (m : Module) : Eff [.mem, .flt, .vst, .hlt, .cor, .pci, .tray, .dbg, .out] m (digestBad p s m).2 := by
  unfold digestBad
  iterate 24 all_goals try first
    | with_reducible exact Eff.refl _
    | with_reducible assumption
    | (with_reducible apply Eff.after (eff_memRead ..); · decide)
    | (with_reducible apply Eff.third (eff_memRead ..); with_reducible assumption; · decide)
    | intro _
    | extract_lets
    | with_reducible apply Eff.ite
    | with_reducible apply Eff.fold
    | split
    | (with_reducible refine Eff.iteSnd (by assumption) ?_ ?_)
    | dsimp only
    | dsimp +zetaDelta only
    | with_reducible apply Eff.foldSnd
    | with_reducible apply Eff.foldFst
    | with_reducible apply Eff.foldThird

theorem eff_replay (p : Nat) (k : Nat) (op : Nat) (s : VSlot) (m : Module) : Eff [.gates, .harts, .nwl, .mem, .flt, .vst, .wdg, .hlt, .cor, .pci, .tray, .dbg, .out] m (replay p k op s m) := by
  unfold replay
  iterate 24 all_goals try first
    | with_reducible exact Eff.refl _
    | with_reducible assumption
    | (with_reducible apply Eff.after (eff_setSeed ..); · decide)
    | (with_reducible apply Eff.after (eff_setStepComp ..); · decide)
    | (with_reducible apply Eff.after (eff_vstCopy ..); · decide)
    | (with_reducible apply Eff.after (eff_updSlot ..); · decide)
    | (with_reducible apply Eff.after (eff_vstEv ..); · decide)
    | (with_reducible apply Eff.after (eff_setVst ..); · decide)
    | (with_reducible apply Eff.after (eff_setGate ..); · decide)
    | intro _
    | extract_lets
    | with_reducible apply Eff.ite
    | with_reducible apply Eff.fold
    | (fail_if_no_progress ((with_reducible refine Eff.upd ?_ rfl rfl rfl rfl rfl rfl rfl rfl rfl rfl ?_); rotate_left; exact rfl))
    | split
    | (with_reducible refine Eff.iteSnd (by assumption) ?_ ?_)
    | dsimp only
    | dsimp +zetaDelta only
    | with_reducible apply Eff.foldSnd
    | with_reducible apply Eff.foldFst
    | with_reducible apply Eff.foldThird

theorem eff_cmdEffect (p op : ℕ) (n : Beat) (m : Module) : Eff [.gates, .harts, .nwl, .mem, .flt, .port, .rte, .vote, .vst, .wdg, .hlt, .cor, .sec, .pci, .tray, .dbg, .out] m (cmdEffect p op n m) := by
  unfold cmdEffect
  extract_lets v
  split
  · exact (eff_cmdRefuse ..).mono (by decide)
  rename_i k s _
  split
  rename_i bad m1 e1
  refine (Eff.iteSnd e1 ((eff_digestBad ..).mono (by decide)) (.refl _)).trans ?_
  clear e1
  split
  · exact (eff_cmdRefuse ..).mono (by decide)
  split
  · exact (eff_beginVote ..).mono (by decide)
  · exact (eff_commitStep ..).mono (by decide)
  · exact ((eff_updSlot ..).mono (by decide)).trans ((eff_cutFails ..).mono (by decide))
  · exact (eff_replay ..).mono (by decide)

theorem eff_execVstCommandBeat (p : Fin 16) (s : State) : EffOut [.clk, .beat, .gates, .harts, .nwl, .mem, .flt, .port, .rte, .vote, .vst, .wdg, .hlt, .cor, .sec, .pci, .tray, .dbg, .out] s (execVstCommandBeat p s) := by
  unfold execVstCommandBeat
  iterate 24 all_goals try first
    | with_reducible exact EffOut.stop
    | with_reducible exact EffOut.ill
    | with_reducible refine EffOut.done ?_
    | with_reducible exact Eff.refl _
    | with_reducible assumption
    | (with_reducible apply Eff.after (eff_setVst ..); · decide)
    | (with_reducible apply Eff.after (eff_cmdEffect ..); · decide)
    | (with_reducible apply Eff.after (eff_passToBeat ..); · decide)
    | exact (eff_done ..).mono (by decide)
    | intro _
    | extract_lets
    | with_reducible apply Eff.ite
    | (fail_if_no_progress ((with_reducible refine Eff.upd ?_ rfl rfl rfl rfl rfl rfl rfl rfl rfl rfl ?_); rotate_left; exact rfl))
    | split
    | dsimp only
    | dsimp +zetaDelta only

theorem eff_execCutCommand (p : Fin 16) (s : State) : EffOut [.vst] s (execCutCommand p s) := by
  unfold execCutCommand
  iterate 24 all_goals try first
    | with_reducible exact EffOut.stop
    | with_reducible exact EffOut.ill
    | with_reducible refine EffOut.done ?_
    | with_reducible exact Eff.refl _
    | with_reducible assumption
    | (with_reducible apply Eff.after (eff_armCut ..); · decide)
    | exact (eff_done ..).mono (by decide)
    | intro _
    | extract_lets
    | with_reducible apply Eff.ite
    | split
    | dsimp only
    | dsimp +zetaDelta only

theorem eff_vstClear (p : Nat) (m : Module) : Eff [.vst] m (vstClear p m) := by
  unfold vstClear
  iterate 24 all_goals try first
    | with_reducible exact Eff.refl _
    | with_reducible assumption
    | (with_reducible apply Eff.after (eff_setVst ..); · decide)
    | intro _
    | extract_lets
    | with_reducible apply Eff.ite
    | (fail_if_no_progress ((with_reducible refine Eff.upd ?_ rfl rfl rfl rfl rfl rfl rfl rfl rfl rfl ?_); rotate_left; exact rfl))
    | split
    | dsimp only
    | dsimp +zetaDelta only

theorem eff_execClear (p : Fin 16) (s : State) : EffOut [.vst] s (execClear p s) := by
  unfold execClear
  iterate 24 all_goals try first
    | with_reducible exact EffOut.stop
    | with_reducible exact EffOut.ill
    | with_reducible refine EffOut.done ?_
    | with_reducible exact Eff.refl _
    | with_reducible assumption
    | (with_reducible apply Eff.after (eff_vstClear ..); · decide)
    | exact (eff_done ..).mono (by decide)
    | intro _
    | extract_lets
    | with_reducible apply Eff.ite
    | split
    | dsimp only
    | dsimp +zetaDelta only

theorem eff_execCutTaken (p : Fin 16) (s : State) : EffOut [.mem, .flt, .vst, .hlt, .cor, .pci, .tray, .dbg, .out] s (execCutTaken p s) := by
  unfold execCutTaken
  iterate 24 all_goals try first
    | with_reducible exact EffOut.stop
    | with_reducible exact EffOut.ill
    | with_reducible refine EffOut.done ?_
    | with_reducible exact Eff.refl _
    | with_reducible assumption
    | (with_reducible apply Eff.after (eff_vstCopy ..); · decide)
    | (with_reducible apply Eff.after (eff_vstEv ..); · decide)
    | (with_reducible apply Eff.after (eff_setVst ..); · decide)
    | exact (eff_done ..).mono (by decide)
    | intro _
    | extract_lets
    | with_reducible apply Eff.ite
    | (fail_if_no_progress ((with_reducible refine Eff.upd ?_ rfl rfl rfl rfl rfl rfl rfl rfl rfl rfl ?_); rotate_left; exact rfl))
    | split
    | dsimp only
    | dsimp +zetaDelta only

theorem eff_drainObject (p : Nat) (key : List Byte) (m : Module) : Eff [.mem, .flt, .vst, .hlt, .cor, .pci, .tray, .dbg, .out] m (drainObject p key m).2 := by
  unfold drainObject
  iterate 24 all_goals try first
    | with_reducible exact Eff.refl _
    | with_reducible assumption
    | (with_reducible apply Eff.after (eff_memRead ..); · decide)
    | (with_reducible apply Eff.third (eff_memRead ..); with_reducible assumption; · decide)
    | intro _
    | extract_lets
    | with_reducible apply Eff.ite
    | split
    | (with_reducible refine Eff.iteSnd (by assumption) ?_ ?_)
    | dsimp only
    | dsimp +zetaDelta only

theorem eff_drainEv (p : Nat) (code : Nat) (sev : Nat) (n : Nat) (m : Module) : Eff [.vst, .hlt, .pci, .tray, .dbg, .out] m (drainEv p code sev n m) := by
  unfold drainEv
  iterate 24 all_goals try first
    | with_reducible exact Eff.refl _
    | with_reducible assumption
    | (with_reducible apply Eff.after (eff_vstEv ..); · decide)
    | intro _
    | extract_lets
    | with_reducible apply Eff.ite
    | split
    | dsimp only
    | dsimp +zetaDelta only

theorem eff_drainStart {l : List Part} {p : ℕ} {fab : Bool} {go : List Byte → Module → Module} {a m : Module} (h : Eff l a m)
    (hg : ∀ o m, Eff l m (go o m)) (hs : sub [.mem, .flt, .vst, .hlt, .cor, .pci, .tray, .dbg, .out] l = true) : Eff l a (drainStart p fab go m) := by
  refine h.trans ?_
  unfold drainStart
  extract_lets v
  split
  · split
    · refine Eff.mono (k := [.mem, .flt, .vst, .hlt, .cor, .pci, .tray, .dbg, .out]) ?_ hs
      exact (eff_drainEv ..).mono (by decide)
    · split
      rename_i obj m1 e1
      refine Eff.trans (Eff.mono (k := [.mem, .flt, .vst, .hlt, .cor, .pci, .tray, .dbg, .out]) ?_ hs) (hg ..)
      exact (Eff.snd (eff_drainObject ..) e1 (by decide) (.refl _)).trans ((eff_setVst ..).mono (by decide))
  · exact .refl _

theorem eff_drainHost (p : Nat) (m : Module) : Eff [.mem, .flt, .vst, .hlt, .cor, .pci, .tray, .dbg, .out] m (drainHost p m) := by
  unfold drainHost
  iterate 24 all_goals try first
    | with_reducible exact Eff.refl _
    | with_reducible assumption
    | with_reducible refine eff_drainStart ?_ ?_ (by decide)
    | (with_reducible apply Eff.after (eff_emit ..); · decide)
    | intro _
    | extract_lets
    | with_reducible apply Eff.ite
    | split
    | dsimp only
    | dsimp +zetaDelta only

theorem eff_ckptSend (p : Nat) (off : Nat) (payload : List Byte) (m : Module) : Eff [.port, .rte, .vst, .mir, .hlt, .cor, .sec, .pci, .tray, .dbg, .out] m (ckptSend p off payload m) := by
  unfold ckptSend
  iterate 24 all_goals try first
    | with_reducible exact Eff.refl _
    | with_reducible assumption
    | (with_reducible apply Eff.after (eff_newTag ..); · decide)
    | (with_reducible apply Eff.snd (eff_newTag ..); with_reducible assumption; · decide)
    | (with_reducible apply Eff.after (eff_inject ..); · decide)
    | (with_reducible apply Eff.after (eff_setVst ..); · decide)
    | (with_reducible apply Eff.after (eff_setMir ..); · decide)
    | intro _
    | extract_lets
    | with_reducible apply Eff.ite
    | (fail_if_no_progress ((with_reducible refine Eff.upd ?_ rfl rfl rfl rfl rfl rfl rfl rfl rfl rfl ?_); rotate_left; exact rfl))
    | split
    | (with_reducible refine Eff.iteSnd (by assumption) ?_ ?_)
    | dsimp only
    | dsimp +zetaDelta only

theorem eff_drainFabric (p : Nat) (m : Module) : Eff [.mem, .flt, .port, .rte, .vst, .mir, .hlt, .cor, .sec, .pci, .tray, .dbg, .out] m (drainFabric p m) := by
  unfold drainFabric
  iterate 24 all_goals try first
    | with_reducible exact Eff.refl _
    | with_reducible assumption
    | with_reducible refine eff_drainStart ?_ ?_ (by decide)
    | (with_reducible apply Eff.after (eff_ckptSend ..); · decide)
    | intro _
    | extract_lets
    | with_reducible apply Eff.ite
    | with_reducible apply Eff.fold
    | split
    | (with_reducible refine Eff.iteSnd (by assumption) ?_ ?_)
    | dsimp only
    | dsimp +zetaDelta only
    | with_reducible apply Eff.foldSnd
    | with_reducible apply Eff.foldFst
    | with_reducible apply Eff.foldThird

theorem eff_execDrainHost (p : Fin 16) (s : State) : EffOut [.mem, .flt, .vst, .hlt, .cor, .pci, .tray, .dbg, .out] s (execDrainHost p s) := by
  unfold execDrainHost
  iterate 24 all_goals try first
    | with_reducible exact EffOut.stop
    | with_reducible exact EffOut.ill
    | with_reducible refine EffOut.done ?_
    | with_reducible exact Eff.refl _
    | with_reducible assumption
    | (with_reducible apply Eff.after (eff_drainHost ..); · decide)
    | exact (eff_done ..).mono (by decide)
    | intro _
    | extract_lets
    | with_reducible apply Eff.ite
    | split
    | dsimp only
    | dsimp +zetaDelta only

theorem eff_execDrainFabric (p : Fin 16) (s : State) : EffOut [.mem, .flt, .port, .rte, .vst, .mir, .hlt, .cor, .sec, .pci, .tray, .dbg, .out] s (execDrainFabric p s) := by
  unfold execDrainFabric
  iterate 24 all_goals try first
    | with_reducible exact EffOut.stop
    | with_reducible exact EffOut.ill
    | with_reducible refine EffOut.done ?_
    | with_reducible exact Eff.refl _
    | with_reducible assumption
    | (with_reducible apply Eff.after (eff_drainFabric ..); · decide)
    | exact (eff_done ..).mono (by decide)
    | intro _
    | extract_lets
    | with_reducible apply Eff.ite
    | split
    | dsimp only
    | dsimp +zetaDelta only

theorem eff_drainAck (p : Nat) (tag : Nat) (m : Module) : Eff [.vst] m (drainAck p tag m) := by
  unfold drainAck
  iterate 24 all_goals try first
    | with_reducible exact Eff.refl _
    | with_reducible assumption
    | (with_reducible apply Eff.after (eff_setVst ..); · decide)
    | intro _
    | extract_lets
    | with_reducible apply Eff.ite
    | (fail_if_no_progress ((with_reducible refine Eff.upd ?_ rfl rfl rfl rfl rfl rfl rfl rfl rfl rfl ?_); rotate_left; exact rfl))
    | split
    | dsimp only
    | dsimp +zetaDelta only

theorem eff_execDrainDone (p : Fin 16) (s : State) : EffOut [.vst, .hlt, .pci, .tray, .dbg, .out] s (execDrainDone p s) := by
  unfold execDrainDone
  iterate 24 all_goals try first
    | with_reducible exact EffOut.stop
    | with_reducible exact EffOut.ill
    | with_reducible refine EffOut.done ?_
    | with_reducible exact Eff.refl _
    | with_reducible assumption
    | (with_reducible apply Eff.after (eff_drainEv ..); · decide)
    | (with_reducible apply Eff.after (eff_setVst ..); · decide)
    | exact (eff_done ..).mono (by decide)
    | intro _
    | extract_lets
    | with_reducible apply Eff.ite
    | (fail_if_no_progress ((with_reducible refine Eff.upd ?_ rfl rfl rfl rfl rfl rfl rfl rfl rfl rfl ?_); rotate_left; exact rfl))
    | split
    | dsimp only
    | dsimp +zetaDelta only

theorem eff_drainFail (p : Nat) (m : Module) : Eff [.vst, .hlt, .pci, .tray, .dbg, .out] m (drainFail p m) := by
  unfold drainFail
  iterate 24 all_goals try first
    | with_reducible exact Eff.refl _
    | with_reducible assumption
    | (with_reducible apply Eff.after (eff_drainEv ..); · decide)
    | (with_reducible apply Eff.after (eff_setVst ..); · decide)
    | intro _
    | extract_lets
    | with_reducible apply Eff.ite
    | (fail_if_no_progress ((with_reducible refine Eff.upd ?_ rfl rfl rfl rfl rfl rfl rfl rfl rfl rfl ?_); rotate_left; exact rfl))
    | split
    | dsimp only
    | dsimp +zetaDelta only

theorem eff_execDrainError (p : Fin 16) (s : State) : EffOut [.clk, .beat, .mem, .vst, .hlt, .cor, .pci, .tray, .dbg, .out] s (execDrainError p s) := by
  unfold execDrainError
  iterate 24 all_goals try first
    | with_reducible exact EffOut.stop
    | with_reducible exact EffOut.ill
    | with_reducible refine EffOut.done ?_
    | with_reducible exact Eff.refl _
    | with_reducible assumption
    | (with_reducible apply Eff.after (eff_drainFail ..); · decide)
    | (with_reducible apply Eff.after (eff_passTo ..); · decide)
    | exact (eff_done ..).mono (by decide)
    | intro _
    | extract_lets
    | with_reducible apply Eff.ite
    | split
    | dsimp only
    | dsimp +zetaDelta only

theorem eff_execDrainLate (p : Fin 16) (s : State) : EffOut [.clk, .beat, .mem, .vst, .hlt, .cor, .pci, .tray, .dbg, .out] s (execDrainLate p s) := by
  unfold execDrainLate
  iterate 24 all_goals try first
    | with_reducible exact EffOut.stop
    | with_reducible exact EffOut.ill
    | with_reducible refine EffOut.done ?_
    | with_reducible exact Eff.refl _
    | with_reducible assumption
    | (with_reducible apply Eff.after (eff_passToBeat ..); · decide)
    | (with_reducible apply Eff.after (eff_drainEv ..); · decide)
    | (with_reducible apply Eff.after (eff_setVst ..); · decide)
    | exact (eff_done ..).mono (by decide)
    | intro _
    | extract_lets
    | with_reducible apply Eff.ite
    | (fail_if_no_progress ((with_reducible refine Eff.upd ?_ rfl rfl rfl rfl rfl rfl rfl rfl rfl rfl ?_); rotate_left; exact rfl))
    | split
    | dsimp only
    | dsimp +zetaDelta only

theorem eff_execCkpt (s : State) : EffOut [.port, .rte, .vst, .hlt, .cor, .sec, .pci, .tray, .dbg, .out] s (execCkpt s) := by
  unfold execCkpt
  iterate 24 all_goals try first
    | with_reducible exact EffOut.stop
    | with_reducible exact EffOut.ill
    | with_reducible refine EffOut.done ?_
    | with_reducible exact Eff.refl _
    | with_reducible assumption
    | (with_reducible apply Eff.after (eff_deliver ..); · decide)
    | exact (eff_done ..).mono (by decide)
    | intro _
    | extract_lets
    | with_reducible apply Eff.ite
    | (fail_if_no_progress ((with_reducible refine Eff.upd ?_ rfl rfl rfl rfl rfl rfl rfl rfl rfl rfl ?_); rotate_left; exact rfl))
    | split
    | dsimp only
    | dsimp +zetaDelta only

theorem eff_cfgIgnored (p : Nat) (m : Module) : Eff [.vst] m (cfgIgnored p m) := by
  unfold cfgIgnored
  iterate 24 all_goals try first
    | with_reducible exact Eff.refl _
    | with_reducible assumption
    | (with_reducible apply Eff.after (eff_setVst ..); · decide)
    | intro _
    | extract_lets
    | with_reducible apply Eff.ite
    | (fail_if_no_progress ((with_reducible refine Eff.upd ?_ rfl rfl rfl rfl rfl rfl rfl rfl rfl rfl ?_); rotate_left; exact rfl))
    | split
    | dsimp only
    | dsimp +zetaDelta only

theorem eff_vstCfgWrite (p : Nat) (val : W64) (m : Module) : Eff [.vst] m (vstCfgWrite p val m) := by
  unfold vstCfgWrite
  iterate 24 all_goals try first
    | with_reducible exact Eff.refl _
    | with_reducible assumption
    | (with_reducible apply Eff.after (eff_cfgIgnored ..); · decide)
    | (with_reducible apply Eff.after (eff_setVst ..); · decide)
    | intro _
    | extract_lets
    | with_reducible apply Eff.ite
    | (fail_if_no_progress ((with_reducible refine Eff.upd ?_ rfl rfl rfl rfl rfl rfl rfl rfl rfl rfl ?_); rotate_left; exact rfl))
    | split
    | dsimp only
    | dsimp +zetaDelta only

theorem eff_regionWrite (p : Nat) (which : Nat) (val : W64) (m : Module) : Eff [.vst, .mir] m (regionWrite p which val m) := by
  unfold regionWrite
  iterate 24 all_goals try first
    | with_reducible exact Eff.refl _
    | with_reducible assumption
    | (with_reducible apply Eff.after (eff_cfgIgnored ..); · decide)
    | (with_reducible apply Eff.after (eff_setVst ..); · decide)
    | (with_reducible apply Eff.after (eff_setMir ..); · decide)
    | intro _
    | extract_lets
    | with_reducible apply Eff.ite
    | (fail_if_no_progress ((with_reducible refine Eff.upd ?_ rfl rfl rfl rfl rfl rfl rfl rfl rfl rfl ?_); rotate_left; exact rfl))
    | split
    | dsimp only
    | dsimp +zetaDelta only

theorem eff_execVstCfgWrite (p : Fin 16) (val : W64) (s : State) : EffOut [.vst] s (execVstCfgWrite p val s) := by
  unfold execVstCfgWrite
  iterate 24 all_goals try first
    | with_reducible exact EffOut.stop
    | with_reducible exact EffOut.ill
    | with_reducible refine EffOut.done ?_
    | with_reducible exact Eff.refl _
    | with_reducible assumption
    | (with_reducible apply Eff.after (eff_vstCfgWrite ..); · decide)
    | exact (eff_done ..).mono (by decide)
    | intro _
    | extract_lets
    | with_reducible apply Eff.ite
    | split
    | dsimp only
    | dsimp +zetaDelta only

theorem eff_execVstRegionWrite (p : Fin 16) (region : Fin 3) (val : W64) (s : State) : EffOut [.vst, .mir] s (execVstRegionWrite p region val s) := by
  unfold execVstRegionWrite
  iterate 24 all_goals try first
    | with_reducible exact EffOut.stop
    | with_reducible exact EffOut.ill
    | with_reducible refine EffOut.done ?_
    | with_reducible exact Eff.refl _
    | with_reducible assumption
    | (with_reducible apply Eff.after (eff_regionWrite ..); · decide)
    | exact (eff_done ..).mono (by decide)
    | intro _
    | extract_lets
    | with_reducible apply Eff.ite
    | split
    | dsimp only
    | dsimp +zetaDelta only

theorem eff_execMirRegionWrite (p : Fin 16) (val : W64) (s : State) : EffOut [.vst, .mir] s (execMirRegionWrite p val s) := by
  unfold execMirRegionWrite
  iterate 24 all_goals try first
    | with_reducible exact EffOut.stop
    | with_reducible exact EffOut.ill
    | with_reducible refine EffOut.done ?_
    | with_reducible exact Eff.refl _
    | with_reducible assumption
    | (with_reducible apply Eff.after (eff_regionWrite ..); · decide)
    | exact (eff_done ..).mono (by decide)
    | intro _
    | extract_lets
    | with_reducible apply Eff.ite
    | split
    | dsimp only
    | dsimp +zetaDelta only

end Sys2Proof.Laws
end

