-- ==== Sys2Proof/Laws/EffAlarm.lean ====
section
/-! SUPPORT. What the operations of Alarm.lean keep, and what they may change. -/

namespace Sys2Proof.Laws
open Sys2Proof.Machine

theorem eff_countLate (p : Nat) (n : Nat) (m : Module) : Eff [.beat] m (countLate p n m) := by
  unfold countLate
  iterate 24 all_goals try first
    | with_reducible exact Eff.refl _
    | with_reducible assumption
    | intro _
    | extract_lets
    | with_reducible apply Eff.ite
    | (fail_if_no_progress ((with_reducible refine Eff.upd ?_ rfl rfl rfl rfl rfl rfl rfl rfl rfl rfl ?_); rotate_left; exact rfl))
    | split
    | dsimp only
    | dsimp +zetaDelta only

theorem eff_alarmLate (k : QKey) (d : Desc) (n : Nat) (m : Module) : Eff [.beat, .vst, .hlt, .pci, .tray, .dbg, .out] m (alarmLate k d n m) := by
  unfold alarmLate
  iterate 24 all_goals try first
    | with_reducible exact Eff.refl _
    | with_reducible assumption
    | (with_reducible apply Eff.after (eff_countLate ..); · decide)
    | (with_reducible apply Eff.after (eff_ev ..); · decide)
    | intro _
    | extract_lets
    | with_reducible apply Eff.ite
    | split
    | dsimp only
    | dsimp +zetaDelta only

theorem eff_alarmEffect (k : QKey) (d : Desc) (m : Module) : Eff [.gates, .harts, .gal, .bal, .nwl, .mem, .flt, .port, .rte, .vote, .vst, .mir, .wdg, .hlt, .cor, .pwr, .sec, .pci, .tray, .dbg, .out] m (alarmEffect k d m) := by
  unfold alarmEffect
  iterate 24 all_goals try first
    | with_reducible exact Eff.refl _
    | with_reducible assumption
    | (with_reducible apply Eff.after (eff_setGate ..); · decide)
    | (with_reducible apply Eff.after (eff_vstStep ..); · decide)
    | (with_reducible apply Eff.after (eff_vstCommit ..); · decide)
    | (with_reducible apply Eff.after (eff_slackRecord ..); · decide)
    | (with_reducible apply Eff.after (eff_ev ..); · decide)
    | (with_reducible apply Eff.after (eff_armCut ..); · decide)
    | (with_reducible apply Eff.after (eff_powerAlarm ..); · decide)
    | (with_reducible apply Eff.after (eff_retrainAlarm ..); · decide)
    | intro _
    | extract_lets
    | with_reducible apply Eff.ite
    | (fail_if_no_progress ((with_reducible refine Eff.upd ?_ rfl rfl rfl rfl rfl rfl rfl rfl rfl rfl ?_); rotate_left; exact rfl))
    | split
    | dsimp only
    | dsimp +zetaDelta only

theorem eff_alarmFires (k : QKey) (d : Desc) (m : Module) : Eff [.beat, .queues, .counts, .gates, .outstanding, .harts, .gal, .bal, .nwl, .mem, .flt, .port, .rte, .vote, .vst, .mir, .wdg, .hlt, .cor, .pwr, .sec, .pci, .tray, .dbg, .out] m (alarmFires k d m) := by
  unfold alarmFires
  iterate 24 all_goals try first
    | with_reducible exact Eff.refl _
    | with_reducible assumption
    | (with_reducible apply Eff.after (eff_alarmLate ..); · decide)
    | (with_reducible apply Eff.after (eff_dequeue ..); · decide)
    | (with_reducible apply Eff.after (eff_traceEv ..); · decide)
    | (with_reducible apply Eff.after (eff_alarmEffect ..); · decide)
    | (with_reducible apply Eff.after (eff_complete ..); · decide)
    | intro _
    | extract_lets
    | with_reducible apply Eff.ite
    | (fail_if_no_progress ((with_reducible refine Eff.upd ?_ rfl rfl rfl rfl rfl rfl rfl rfl rfl rfl ?_); rotate_left; exact rfl))
    | split
    | dsimp only
    | dsimp +zetaDelta only

theorem eff_execAlarmFire (q : Option (Fin 16)) (s : State) : EffOut [.clk, .beat, .queues, .counts, .gates, .outstanding, .harts, .gal, .bal, .nwl, .mem, .flt, .port, .rte, .vote, .vst, .mir, .wdg, .hlt, .cor, .pwr, .sec, .pci, .tray, .dbg, .out] s (execAlarmFire q s) := by
  unfold execAlarmFire
  iterate 24 all_goals try first
    | with_reducible exact EffOut.stop
    | with_reducible exact EffOut.ill
    | with_reducible refine EffOut.done ?_
    | with_reducible exact Eff.refl _
    | with_reducible assumption
    | (with_reducible apply Eff.after (eff_alarmFires ..); · decide)
    | (with_reducible apply Eff.after (eff_passToBeat ..); · decide)
    | exact (eff_done ..).mono (by decide)
    | intro _
    | extract_lets
    | with_reducible apply Eff.ite
    | (fail_if_no_progress ((with_reducible refine Eff.upd ?_ rfl rfl rfl rfl rfl rfl rfl rfl rfl rfl ?_); rotate_left; exact rfl))
    | split
    | dsimp only
    | dsimp +zetaDelta only

end Sys2Proof.Laws
end

