-- ==== Sys2Proof/Laws/EffSec.lean ====
section
/-! SUPPORT. What the operations of Sec.lean keep, and what they may change. -/

namespace Sys2Proof.Laws
open Sys2Proof.Machine

theorem eff_secEv (code : Nat) (sev : Nat) (d : W64) (m : Module) : Eff [.vst, .hlt, .pci, .tray, .dbg, .out] m (secEv code sev d m) := by
  unfold secEv
  iterate 24 all_goals try first
    | with_reducible exact Eff.refl _
    | with_reducible assumption
    | (with_reducible apply Eff.after (eff_ev ..); · decide)
    | intro _
    | extract_lets
    | with_reducible apply Eff.ite
    | split
    | dsimp only
    | dsimp +zetaDelta only

theorem eff_setSec {l : List Part} {x : Sec} {a m : Module} (hs : sub [.sec] l = true) (k : Eff l a m)
    (h : m.sec.locked = true → x.locked = true) : Eff l a (setSec x m) :=
  k.trans (Eff.mono (k := [.sec]) ⟨⟨rfl, h, id⟩, sameBut_of_blend rfl⟩ hs)

theorem eff_lockEffects (m : Module) : Eff [.harts, .dbg] m (lockEffects m) := by
  unfold lockEffects
  iterate 24 all_goals try first
    | with_reducible exact Eff.refl _
    | with_reducible assumption
    | (with_reducible apply Eff.after (eff_setHart ..); · decide)
    | intro _
    | extract_lets
    | with_reducible apply Eff.ite
    | with_reducible apply Eff.fold
    | (fail_if_no_progress ((with_reducible refine Eff.upd ?_ rfl rfl rfl rfl rfl rfl rfl rfl rfl rfl ?_); rotate_left; exact rfl))
    | split
    | (with_reducible refine Eff.iteSnd (by assumption) ?_ ?_)
    | dsimp only
    | dsimp +zetaDelta only
    | with_reducible apply Eff.foldSnd
    | with_reducible apply Eff.foldFst
    | with_reducible apply Eff.foldThird

theorem eff_secLock (m : Module) : Eff [.harts, .vst, .hlt, .sec, .pci, .tray, .dbg, .out] m (secLock m) := by
  unfold secLock
  iterate 24 all_goals try first
    | with_reducible exact Eff.refl _
    | with_reducible assumption
    | (with_reducible apply Eff.after (eff_secEv ..); · decide)
    | (with_reducible apply eff_setSec; · decide)
    | exact fun h => h
    | exact fun _ => rfl
    | (with_reducible apply Eff.after (eff_lockEffects ..); · decide)
    | intro _
    | extract_lets
    | with_reducible apply Eff.ite
    | (fail_if_no_progress ((with_reducible refine Eff.upd ?_ rfl rfl rfl rfl rfl rfl rfl rfl rfl rfl ?_); rotate_left; exact rfl))
    | split
    | dsimp only
    | dsimp +zetaDelta only

theorem eff_execSecLock (s : State) : EffOut [.harts, .vst, .hlt, .sec, .pci, .tray, .dbg, .out] s (execSecLock s) := by
  unfold execSecLock
  iterate 24 all_goals try first
    | with_reducible exact EffOut.stop
    | with_reducible exact EffOut.ill
    | with_reducible refine EffOut.done ?_
    | with_reducible exact Eff.refl _
    | with_reducible assumption
    | (with_reducible apply Eff.after (eff_secLock ..); · decide)
    | exact (eff_done ..).mono (by decide)
    | intro _
    | extract_lets
    | with_reducible apply Eff.ite
    | split
    | dsimp only
    | dsimp +zetaDelta only

theorem eff_lkIgnored (off : Nat) (m : Module) : Eff [.vst, .hlt, .sec, .pci, .tray, .dbg, .out] m (lkIgnored off m) := by
  unfold lkIgnored
  iterate 24 all_goals try first
    | with_reducible exact Eff.refl _
    | with_reducible assumption
    | (with_reducible apply eff_setSec; · decide)
    | exact fun h => h
    | exact fun _ => rfl
    | (with_reducible apply Eff.after (eff_secEv ..); · decide)
    | intro _
    | extract_lets
    | with_reducible apply Eff.ite
    | (fail_if_no_progress ((with_reducible refine Eff.upd ?_ rfl rfl rfl rfl rfl rfl rfl rfl rfl rfl ?_); rotate_left; exact rfl))
    | split
    | dsimp only
    | dsimp +zetaDelta only

theorem eff_keyRefused (code : Nat) (m : Module) : Eff [.vst, .hlt, .sec, .pci, .tray, .dbg, .out] m (keyRefused code m) := by
  unfold keyRefused
  iterate 24 all_goals try first
    | with_reducible exact Eff.refl _
    | with_reducible assumption
    | (with_reducible apply Eff.after (eff_secEv ..); · decide)
    | (with_reducible apply eff_setSec; · decide)
    | exact fun h => h
    | exact fun _ => rfl
    | intro _
    | extract_lets
    | with_reducible apply Eff.ite
    | (fail_if_no_progress ((with_reducible refine Eff.upd ?_ rfl rfl rfl rfl rfl rfl rfl rfl rfl rfl ?_); rotate_left; exact rfl))
    | split
    | dsimp only
    | dsimp +zetaDelta only

theorem eff_enrol (val : W64) (m : Module) : Eff [.vst, .hlt, .sec, .pci, .tray, .dbg, .out] m (enrol val m) := by
  unfold enrol
  iterate 24 all_goals try first
    | with_reducible exact Eff.refl _
    | with_reducible assumption
    | (with_reducible apply Eff.after (eff_keyRefused ..); · decide)
    | (with_reducible apply Eff.after (eff_secEv ..); · decide)
    | (with_reducible apply eff_setSec; · decide)
    | exact fun h => h
    | exact fun _ => rfl
    | intro _
    | extract_lets
    | with_reducible apply Eff.ite
    | (fail_if_no_progress ((with_reducible refine Eff.upd ?_ rfl rfl rfl rfl rfl rfl rfl rfl rfl rfl ?_); rotate_left; exact rfl))
    | split
    | dsimp only
    | dsimp +zetaDelta only

theorem eff_revoke (val : W64) (m : Module) : Eff [.vst, .hlt, .sec, .pci, .tray, .dbg, .out] m (revoke val m) := by
  unfold revoke
  iterate 24 all_goals try first
    | with_reducible exact Eff.refl _
    | with_reducible assumption
    | (with_reducible apply Eff.after (eff_keyRefused ..); · decide)
    | (with_reducible apply Eff.after (eff_secEv ..); · decide)
    | (with_reducible apply eff_setSec; · decide)
    | exact fun h => h
    | exact fun _ => rfl
    | intro _
    | extract_lets
    | with_reducible apply Eff.ite
    | (fail_if_no_progress ((with_reducible refine Eff.upd ?_ rfl rfl rfl rfl rfl rfl rfl rfl rfl rfl ?_); rotate_left; exact rfl))
    | split
    | dsimp only
    | dsimp +zetaDelta only

theorem eff_keyCmd (val : W64) (m : Module) : Eff [.vst, .hlt, .sec, .pci, .tray, .dbg, .out] m (keyCmd val m) := by
  unfold keyCmd
  iterate 24 all_goals try first
    | with_reducible exact Eff.refl _
    | with_reducible assumption
    | (with_reducible apply Eff.after (eff_enrol ..); · decide)
    | (with_reducible apply Eff.after (eff_revoke ..); · decide)
    | intro _
    | extract_lets
    | with_reducible apply Eff.ite
    | split
    | dsimp only
    | dsimp +zetaDelta only

theorem eff_execEnrol (val : W64) (s : State) : EffOut [.vst, .hlt, .sec, .pci, .tray, .dbg, .out] s (execEnrol val s) := by
  unfold execEnrol
  iterate 24 all_goals try first
    | with_reducible exact EffOut.stop
    | with_reducible exact EffOut.ill
    | with_reducible refine EffOut.done ?_
    | with_reducible exact Eff.refl _
    | with_reducible assumption
    | (with_reducible apply Eff.after (eff_enrol ..); · decide)
    | exact (eff_done ..).mono (by decide)
    | intro _
    | extract_lets
    | with_reducible apply Eff.ite
    | split
    | dsimp only
    | dsimp +zetaDelta only

theorem eff_execRevoke (val : W64) (s : State) : EffOut [.vst, .hlt, .sec, .pci, .tray, .dbg, .out] s (execRevoke val s) := by
  unfold execRevoke
  iterate 24 all_goals try first
    | with_reducible exact EffOut.stop
    | with_reducible exact EffOut.ill
    | with_reducible refine EffOut.done ?_
    | with_reducible exact Eff.refl _
    | with_reducible assumption
    | (with_reducible apply Eff.after (eff_revoke ..); · decide)
    | exact (eff_done ..).mono (by decide)
    | intro _
    | extract_lets
    | with_reducible apply Eff.ite
    | split
    | dsimp only
    | dsimp +zetaDelta only

theorem eff_skeyLoad (val : W64) (m : Module) : Eff [.sec] m (skeyLoad val m) := by
  unfold skeyLoad
  iterate 24 all_goals try first
    | with_reducible exact Eff.refl _
    | with_reducible assumption
    | (with_reducible apply eff_setSec; · decide)
    | exact fun h => h
    | exact fun _ => rfl
    | intro _
    | extract_lets
    | with_reducible apply Eff.ite
    | (fail_if_no_progress ((with_reducible refine Eff.upd ?_ rfl rfl rfl rfl rfl rfl rfl rfl rfl rfl ?_); rotate_left; exact rfl))
    | split
    | dsimp only
    | dsimp +zetaDelta only

theorem eff_execSkeyLoad (val : W64) (s : State) : EffOut [.sec] s (execSkeyLoad val s) := by
  unfold execSkeyLoad
  iterate 24 all_goals try first
    | with_reducible exact EffOut.stop
    | with_reducible exact EffOut.ill
    | with_reducible refine EffOut.done ?_
    | with_reducible exact Eff.refl _
    | with_reducible assumption
    | (with_reducible apply Eff.after (eff_skeyLoad ..); · decide)
    | exact (eff_done ..).mono (by decide)
    | intro _
    | extract_lets
    | with_reducible apply Eff.ite
    | split
    | dsimp only
    | dsimp +zetaDelta only

theorem eff_ckeyLoad (p : Nat) (m : Module) : Eff [.sec] m (ckeyLoad p m) := by
  unfold ckeyLoad
  iterate 24 all_goals try first
    | with_reducible exact Eff.refl _
    | with_reducible assumption
    | (with_reducible apply eff_setSec; · decide)
    | exact fun h => h
    | exact fun _ => rfl
    | intro _
    | extract_lets
    | with_reducible apply Eff.ite
    | (fail_if_no_progress ((with_reducible refine Eff.upd ?_ rfl rfl rfl rfl rfl rfl rfl rfl rfl rfl ?_); rotate_left; exact rfl))
    | split
    | dsimp only
    | dsimp +zetaDelta only

theorem eff_ckeyClear (p : Nat) (m : Module) : Eff [.sec] m (ckeyClear p m) := by
  unfold ckeyClear
  iterate 24 all_goals try first
    | with_reducible exact Eff.refl _
    | with_reducible assumption
    | (with_reducible apply eff_setSec; · decide)
    | exact fun h => h
    | exact fun _ => rfl
    | intro _
    | extract_lets
    | with_reducible apply Eff.ite
    | (fail_if_no_progress ((with_reducible refine Eff.upd ?_ rfl rfl rfl rfl rfl rfl rfl rfl rfl rfl ?_); rotate_left; exact rfl))
    | split
    | dsimp only
    | dsimp +zetaDelta only

theorem eff_ckeyCmd (val : W64) (m : Module) : Eff [.sec] m (ckeyCmd val m) := by
  unfold ckeyCmd
  iterate 24 all_goals try first
    | with_reducible exact Eff.refl _
    | with_reducible assumption
    | (with_reducible apply Eff.after (eff_ckeyClear ..); · decide)
    | (with_reducible apply Eff.after (eff_ckeyLoad ..); · decide)
    | intro _
    | extract_lets
    | with_reducible apply Eff.ite
    | split
    | dsimp only
    | dsimp +zetaDelta only

theorem eff_execCkeyLoad (part : Fin 16) (s : State) : EffOut [.sec] s (execCkeyLoad part s) := by
  unfold execCkeyLoad
  iterate 24 all_goals try first
    | with_reducible exact EffOut.stop
    | with_reducible exact EffOut.ill
    | with_reducible refine EffOut.done ?_
    | with_reducible exact Eff.refl _
    | with_reducible assumption
    | (with_reducible apply Eff.after (eff_ckeyLoad ..); · decide)
    | exact (eff_done ..).mono (by decide)
    | intro _
    | extract_lets
    | with_reducible apply Eff.ite
    | split
    | dsimp only
    | dsimp +zetaDelta only

theorem eff_execCkeyClear (part : Fin 16) (s : State) : EffOut [.sec] s (execCkeyClear part s) := by
  unfold execCkeyClear
  iterate 24 all_goals try first
    | with_reducible exact EffOut.stop
    | with_reducible exact EffOut.ill
    | with_reducible refine EffOut.done ?_
    | with_reducible exact Eff.refl _
    | with_reducible assumption
    | (with_reducible apply Eff.after (eff_ckeyClear ..); · decide)
    | exact (eff_done ..).mono (by decide)
    | intro _
    | extract_lets
    | with_reducible apply Eff.ite
    | split
    | dsimp only
    | dsimp +zetaDelta only

theorem eff_measure (fn : Option Fn) (index : Byte) (m : Module) : Eff [.out] m (Machine.measure fn index m) := by
  unfold Machine.measure
  iterate 24 all_goals try first
    | with_reducible exact Eff.refl _
    | with_reducible assumption
    | (with_reducible apply Eff.after (eff_emit ..); · decide)
    | intro _
    | extract_lets
    | with_reducible apply Eff.ite
    | split
    | dsimp only
    | dsimp +zetaDelta only

theorem eff_execGetMeasurements (fn : Option Fn) (index : Byte) (s : State) : EffOut [.out] s (execGetMeasurements fn index s) := by
  unfold execGetMeasurements
  iterate 24 all_goals try first
    | with_reducible exact EffOut.stop
    | with_reducible exact EffOut.ill
    | with_reducible refine EffOut.done ?_
    | with_reducible exact Eff.refl _
    | with_reducible assumption
    | (with_reducible apply Eff.after (eff_measure ..); · decide)
    | exact (eff_done ..).mono (by decide)
    | intro _
    | extract_lets
    | with_reducible apply Eff.ite
    | split
    | dsimp only
    | dsimp +zetaDelta only

theorem eff_spdm (fn : Option Fn) (version : Byte) (code : Byte) (body : List Byte) (m : Module) : Eff [.mem, .out] m (spdm fn version code body m) := by
  unfold spdm
  iterate 24 all_goals try first
    | with_reducible exact Eff.refl _
    | with_reducible assumption
    | (with_reducible apply Eff.after (eff_measure ..); · decide)
    | (with_reducible apply Eff.after (eff_freeVal ..); · decide)
    | (with_reducible apply Eff.snd (eff_freeVal ..); with_reducible assumption; · decide)
    | (with_reducible apply Eff.after (eff_emit ..); · decide)
    | intro _
    | extract_lets
    | with_reducible apply Eff.ite
    | split
    | dsimp only
    | dsimp +zetaDelta only

theorem eff_execSpdmRequest (fn : Option Fn) (version : Byte) (code : Byte) (body : List Byte) (s : State) : EffOut [.mem, .out] s (execSpdmRequest fn version code body s) := by
  unfold execSpdmRequest
  iterate 24 all_goals try first
    | with_reducible exact EffOut.stop
    | with_reducible exact EffOut.ill
    | with_reducible refine EffOut.done ?_
    | with_reducible exact Eff.refl _
    | with_reducible assumption
    | (with_reducible apply Eff.after (eff_spdm ..); · decide)
    | exact (eff_done ..).mono (by decide)
    | intro _
    | extract_lets
    | with_reducible apply Eff.ite
    | split
    | dsimp only
    | dsimp +zetaDelta only

theorem eff_execIdeKm (stream : Fin 9) (key : List Byte) (on : Bool) (s : State) : EffOut [.pci] s (execIdeKm stream key on s) := by
  unfold execIdeKm
  iterate 24 all_goals try first
    | with_reducible exact EffOut.stop
    | with_reducible exact EffOut.ill
    | with_reducible refine EffOut.done ?_
    | with_reducible exact Eff.refl _
    | with_reducible assumption
    | exact (eff_done ..).mono (by decide)
    | intro _
    | extract_lets
    | with_reducible apply Eff.ite
    | (fail_if_no_progress ((with_reducible refine Eff.upd ?_ rfl rfl rfl rfl rfl rfl rfl rfl rfl rfl ?_); rotate_left; exact rfl))
    | split
    | dsimp only
    | dsimp +zetaDelta only

theorem eff_execIdeFail (stream : Fin 9) (s : State) : EffOut [.vst, .hlt, .pci, .tray, .dbg, .out] s (execIdeFail stream s) := by
  unfold execIdeFail
  iterate 24 all_goals try first
    | with_reducible exact EffOut.stop
    | with_reducible exact EffOut.ill
    | with_reducible refine EffOut.done ?_
    | with_reducible exact Eff.refl _
    | with_reducible assumption
    | (with_reducible apply Eff.after (eff_ev ..); · decide)
    | exact (eff_done ..).mono (by decide)
    | intro _
    | extract_lets
    | with_reducible apply Eff.ite
    | (fail_if_no_progress ((with_reducible refine Eff.upd ?_ rfl rfl rfl rfl rfl rfl rfl rfl rfl rfl ?_); rotate_left; exact rfl))
    | split
    | dsimp only
    | dsimp +zetaDelta only

end Sys2Proof.Laws
end

