-- ==== Sys2Proof/Laws/EffDbg.lean ====
section
/-! SUPPORT. What the operations of Dbg.lean keep, and what they may change. -/

namespace Sys2Proof.Laws
open Sys2Proof.Machine

theorem eff_dbgEv (code : Nat) (sev : Nat) (d : W64) (m : Module) : Eff [.vst, .hlt, .pci, .tray, .dbg, .out] m (dbgEv code sev d m) := by
  unfold dbgEv
  iterate 24 all_goals try first
    | with_reducible exact Eff.refl _
    | with_reducible assumption
    | (with_reducible apply Eff.after (eff_ev ..); · decide)
    | intro _
    | extract_lets
    | with_reducible apply Eff.ite
    | split
    | dsimp only
    | dsimp +zetaDelta only

theorem eff_aonClear (m : Module) : Eff [.dbg] m (aonClear m) := by
  unfold aonClear
  iterate 24 all_goals try first
    | with_reducible exact Eff.refl _
    | with_reducible assumption
    | intro _
    | extract_lets
    | with_reducible apply Eff.ite
    | with_reducible apply Eff.fold
    | (fail_if_no_progress ((with_reducible refine Eff.upd ?_ rfl rfl rfl rfl rfl rfl rfl rfl rfl rfl ?_); rotate_left; exact rfl))
    | split
    | (with_reducible refine Eff.iteSnd (by assumption) ?_ ?_)
    | dsimp only
    | dsimp +zetaDelta only
    | with_reducible apply Eff.foldSnd
    | with_reducible apply Eff.foldFst
    | with_reducible apply Eff.foldThird

theorem eff_execDbgAonClr (s : State) : EffOut [.vst, .hlt, .sec, .pci, .tray, .dbg, .out] s (execDbgAonClr s) := by
  unfold execDbgAonClr
  iterate 24 all_goals try first
    | with_reducible exact EffOut.stop
    | with_reducible exact EffOut.ill
    | with_reducible refine EffOut.done ?_
    | with_reducible exact Eff.refl _
    | with_reducible assumption
    | (with_reducible apply Eff.after (eff_lkIgnored ..); · decide)
    | (with_reducible apply Eff.after (eff_aonClear ..); · decide)
    | exact (eff_done ..).mono (by decide)
    | intro _
    | extract_lets
    | with_reducible apply Eff.ite
    | split
    | dsimp only
    | dsimp +zetaDelta only

theorem eff_sendTelemetry (kind : Nat) (port : Nat) (chip : Nat) (tag : Nat) (payload : List Byte) (m : Module) : Eff [.port, .rte, .vst, .hlt, .cor, .sec, .pci, .tray, .dbg, .out] m (sendTelemetry kind port chip tag payload m) := by
  unfold sendTelemetry
  iterate 24 all_goals try first
    | with_reducible exact Eff.refl _
    | with_reducible assumption
    | (with_reducible apply Eff.after (eff_inject ..); · decide)
    | intro _
    | extract_lets
    | with_reducible apply Eff.ite
    | split
    | dsimp only
    | dsimp +zetaDelta only

theorem eff_doTelemetry (k : Pkt) (m : Module) : Eff [.port, .rte, .vst, .hlt, .cor, .sec, .pci, .tray, .dbg, .out] m (doTelemetry k m) := by
  unfold doTelemetry
  iterate 24 all_goals try first
    | with_reducible exact Eff.refl _
    | with_reducible assumption
    | (with_reducible apply Eff.after (eff_sendTelemetry ..); · decide)
    | (with_reducible apply Eff.after (eff_dbgEv ..); · decide)
    | intro _
    | extract_lets
    | with_reducible apply Eff.ite
    | (fail_if_no_progress ((with_reducible refine Eff.upd ?_ rfl rfl rfl rfl rfl rfl rfl rfl rfl rfl ?_); rotate_left; exact rfl))
    | split
    | dsimp only
    | dsimp +zetaDelta only

theorem eff_execTelemetry (s : State) : EffOut [.port, .rte, .vst, .hlt, .cor, .sec, .pci, .tray, .dbg, .out] s (execTelemetry s) := by
  unfold execTelemetry
  iterate 24 all_goals try first
    | with_reducible exact EffOut.stop
    | with_reducible exact EffOut.ill
    | with_reducible refine EffOut.done ?_
    | with_reducible exact Eff.refl _
    | with_reducible assumption
    | (with_reducible apply Eff.opt2 (eff_takeTy _ _); with_reducible assumption; · decide)
    | (with_reducible apply Eff.after (eff_doTelemetry ..); · decide)
    | exact (eff_done ..).mono (by decide)
    | intro _
    | extract_lets
    | with_reducible apply Eff.ite
    | (fail_if_no_progress ((with_reducible refine Eff.upd ?_ rfl rfl rfl rfl rfl rfl rfl rfl rfl rfl ?_); rotate_left; exact rfl))
    | split
    | dsimp only
    | dsimp +zetaDelta only

theorem eff_execSnapshotPeriod (s : State) : EffOut [.clk, .beat, .mem, .port, .rte, .vst, .hlt, .cor, .sec, .pci, .tray, .dbg, .out] s (execSnapshotPeriod s) := by
  unfold execSnapshotPeriod
  iterate 24 all_goals try first
    | with_reducible exact EffOut.stop
    | with_reducible exact EffOut.ill
    | with_reducible refine EffOut.done ?_
    | with_reducible exact Eff.refl _
    | with_reducible assumption
    | (with_reducible apply Eff.after (eff_passToBeat ..); · decide)
    | (with_reducible apply Eff.after (eff_sendTelemetry ..); · decide)
    | exact (eff_done ..).mono (by decide)
    | intro _
    | extract_lets
    | with_reducible apply Eff.ite
    | (fail_if_no_progress ((with_reducible refine Eff.upd ?_ rfl rfl rfl rfl rfl rfl rfl rfl rfl rfl ?_); rotate_left; exact rfl))
    | split
    | dsimp only
    | dsimp +zetaDelta only

theorem eff_sinkCheck (m : Module) : Eff [.vst, .hlt, .pci, .tray, .dbg, .out] m (sinkCheck m) := by
  unfold sinkCheck
  iterate 24 all_goals try first
    | with_reducible exact Eff.refl _
    | with_reducible assumption
    | (with_reducible apply Eff.after (eff_dbgEv ..); · decide)
    | intro _
    | extract_lets
    | with_reducible apply Eff.ite
    | (fail_if_no_progress ((with_reducible refine Eff.upd ?_ rfl rfl rfl rfl rfl rfl rfl rfl rfl rfl ?_); rotate_left; exact rfl))
    | split
    | dsimp only
    | dsimp +zetaDelta only

theorem eff_traceSend (m : Module) : Eff [.port, .rte, .vst, .hlt, .cor, .sec, .pci, .tray, .dbg, .out] m (traceSend m) := by
  unfold traceSend
  iterate 24 all_goals try first
    | with_reducible exact Eff.refl _
    | with_reducible assumption
    | (with_reducible apply Eff.after (eff_inject ..); · decide)
    | intro _
    | extract_lets
    | with_reducible apply Eff.ite
    | (fail_if_no_progress ((with_reducible refine Eff.upd ?_ rfl rfl rfl rfl rfl rfl rfl rfl rfl rfl ?_); rotate_left; exact rfl))
    | split
    | dsimp only
    | dsimp +zetaDelta only

theorem eff_lostEntry (m : Module) : Eff [.dbg] m (lostEntry m) := by
  unfold lostEntry
  iterate 24 all_goals try first
    | with_reducible exact Eff.refl _
    | with_reducible assumption
    | intro _
    | extract_lets
    | with_reducible apply Eff.ite
    | (fail_if_no_progress ((with_reducible refine Eff.upd ?_ rfl rfl rfl rfl rfl rfl rfl rfl rfl rfl ?_); rotate_left; exact rfl))
    | split
    | dsimp only
    | dsimp +zetaDelta only

theorem eff_execLostRecordEntry (s : State) : EffOut [.clk, .beat, .mem, .port, .rte, .vst, .hlt, .cor, .sec, .pci, .tray, .dbg, .out] s (execLostRecordEntry s) := by
  unfold execLostRecordEntry
  iterate 24 all_goals try first
    | with_reducible exact EffOut.stop
    | with_reducible exact EffOut.ill
    | with_reducible refine EffOut.done ?_
    | with_reducible exact Eff.refl _
    | with_reducible assumption
    | (with_reducible apply Eff.after (eff_traceSend ..); · decide)
    | (with_reducible apply Eff.after (eff_pass ..); · decide)
    | (with_reducible apply Eff.after (eff_lostEntry ..); · decide)
    | exact (eff_done ..).mono (by decide)
    | intro _
    | extract_lets
    | with_reducible apply Eff.ite
    | split
    | dsimp only
    | dsimp +zetaDelta only

theorem eff_setKport (up : Bool) (m : Module) : Eff [.vst, .hlt, .pci, .tray, .dbg, .out] m (setKport up m) := by
  unfold setKport
  iterate 24 all_goals try first
    | with_reducible exact Eff.refl _
    | with_reducible assumption
    | (with_reducible apply Eff.after (eff_sinkCheck ..); · decide)
    | intro _
    | extract_lets
    | with_reducible apply Eff.ite
    | (fail_if_no_progress ((with_reducible refine Eff.upd ?_ rfl rfl rfl rfl rfl rfl rfl rfl rfl rfl ?_); rotate_left; exact rfl))
    | split
    | dsimp only
    | dsimp +zetaDelta only

theorem eff_execKportUp (s : State) : EffOut [.vst, .hlt, .pci, .tray, .dbg, .out] s (execKportUp s) := by
  unfold execKportUp
  iterate 24 all_goals try first
    | with_reducible exact EffOut.stop
    | with_reducible exact EffOut.ill
    | with_reducible refine EffOut.done ?_
    | with_reducible exact Eff.refl _
    | with_reducible assumption
    | (with_reducible apply Eff.after (eff_setKport ..); · decide)
    | exact (eff_done ..).mono (by decide)
    | intro _
    | extract_lets
    | with_reducible apply Eff.ite
    | split
    | dsimp only
    | dsimp +zetaDelta only

theorem eff_execKportDown (s : State) : EffOut [.vst, .hlt, .pci, .tray, .dbg, .out] s (execKportDown s) := by
  unfold execKportDown
  iterate 24 all_goals try first
    | with_reducible exact EffOut.stop
    | with_reducible exact EffOut.ill
    | with_reducible refine EffOut.done ?_
    | with_reducible exact Eff.refl _
    | with_reducible assumption
    | (with_reducible apply Eff.after (eff_setKport ..); · decide)
    | exact (eff_done ..).mono (by decide)
    | intro _
    | extract_lets
    | with_reducible apply Eff.ite
    | split
    | dsimp only
    | dsimp +zetaDelta only

theorem eff_traceCtrl (val : W64) (m : Module) : Eff [.vst, .hlt, .pci, .tray, .dbg, .out] m (traceCtrl val m) := by
  unfold traceCtrl
  iterate 24 all_goals try first
    | with_reducible exact Eff.refl _
    | with_reducible assumption
    | (with_reducible apply Eff.after (eff_sinkCheck ..); · decide)
    | intro _
    | extract_lets
    | with_reducible apply Eff.ite
    | (fail_if_no_progress ((with_reducible refine Eff.upd ?_ rfl rfl rfl rfl rfl rfl rfl rfl rfl rfl ?_); rotate_left; exact rfl))
    | split
    | dsimp only
    | dsimp +zetaDelta only

theorem eff_samplePcs (m : Module) : Eff [.vst, .hlt, .pci, .tray, .dbg, .out] m (samplePcs m) := by
  unfold samplePcs
  iterate 24 all_goals try first
    | with_reducible exact Eff.refl _
    | with_reducible assumption
    | (with_reducible apply Eff.after (eff_traceEv ..); · decide)
    | intro _
    | extract_lets
    | with_reducible apply Eff.ite
    | with_reducible apply Eff.fold
    | (fail_if_no_progress ((with_reducible refine Eff.upd ?_ rfl rfl rfl rfl rfl rfl rfl rfl rfl rfl ?_); rotate_left; exact rfl))
    | split
    | (with_reducible refine Eff.iteSnd (by assumption) ?_ ?_)
    | dsimp only
    | dsimp +zetaDelta only
    | with_reducible apply Eff.foldSnd
    | with_reducible apply Eff.foldFst
    | with_reducible apply Eff.foldThird

theorem eff_execPcSample (s : State) : EffOut [.clk, .beat, .mem, .vst, .hlt, .cor, .pci, .tray, .dbg, .out] s (execPcSample s) := by
  unfold execPcSample
  iterate 24 all_goals try first
    | with_reducible exact EffOut.stop
    | with_reducible exact EffOut.ill
    | with_reducible refine EffOut.done ?_
    | with_reducible exact Eff.refl _
    | with_reducible assumption
    | (with_reducible apply Eff.after (eff_passToCycle ..); · decide)
    | (with_reducible apply Eff.after (eff_samplePcs ..); · decide)
    | exact (eff_done ..).mono (by decide)
    | intro _
    | extract_lets
    | with_reducible apply Eff.ite
    | (fail_if_no_progress ((with_reducible refine Eff.upd ?_ rfl rfl rfl rfl rfl rfl rfl rfl rfl rfl ?_); rotate_left; exact rfl))
    | split
    | dsimp only
    | dsimp +zetaDelta only

theorem eff_dumpStart (m : Module) : Eff [.vst, .hlt, .pci, .tray, .dbg, .out] m (dumpStart m) := by
  unfold dumpStart
  iterate 24 all_goals try first
    | with_reducible exact Eff.refl _
    | with_reducible assumption
    | (with_reducible apply Eff.after (eff_dbgEv ..); · decide)
    | intro _
    | extract_lets
    | with_reducible apply Eff.ite
    | (fail_if_no_progress ((with_reducible refine Eff.upd ?_ rfl rfl rfl rfl rfl rfl rfl rfl rfl rfl ?_); rotate_left; exact rfl))
    | split
    | dsimp only
    | dsimp +zetaDelta only

theorem eff_execDump (s : State) : EffOut [.vst, .hlt, .pci, .tray, .dbg, .out] s (execDump s) := by
  unfold execDump
  iterate 24 all_goals try first
    | with_reducible exact EffOut.stop
    | with_reducible exact EffOut.ill
    | with_reducible refine EffOut.done ?_
    | with_reducible exact Eff.refl _
    | with_reducible assumption
    | (with_reducible apply Eff.after (eff_dumpStart ..); · decide)
    | exact (eff_done ..).mono (by decide)
    | intro _
    | extract_lets
    | with_reducible apply Eff.ite
    | split
    | dsimp only
    | dsimp +zetaDelta only

theorem eff_dumpCopy (tier base : ℕ) (to_ : W64) (first n : ℕ) (m : Module) : Eff [.mem, .vst, .hlt, .pci, .tray, .dbg, .out] m (dumpCopy tier base to_ first n m) := by
  induction n generalizing to_ first m with
  | zero => exact .refl _
  | succ n ih =>
    rw [dumpCopy]
    exact (((eff_readSector ..).mono (by decide)).trans ((eff_emit ..).mono (by decide))).trans (ih ..)

theorem eff_execDumpDone (s : State) : EffOut [.mem, .vst, .hlt, .pci, .tray, .dbg, .out] s (execDumpDone s) := by
  unfold execDumpDone
  iterate 24 all_goals try first
    | with_reducible exact EffOut.stop
    | with_reducible exact EffOut.ill
    | with_reducible refine EffOut.done ?_
    | with_reducible exact Eff.refl _
    | with_reducible assumption
    | (with_reducible apply Eff.after (eff_dumpCopy ..); · decide)
    | (with_reducible apply Eff.after (eff_dbgEv ..); · decide)
    | exact (eff_done ..).mono (by decide)
    | intro _
    | extract_lets
    | with_reducible apply Eff.ite
    | (fail_if_no_progress ((with_reducible refine Eff.upd ?_ rfl rfl rfl rfl rfl rfl rfl rfl rfl rfl ?_); rotate_left; exact rfl))
    | split
    | dsimp only
    | dsimp +zetaDelta only

end Sys2Proof.Laws
end

