-- ==== Sys2Proof/Laws/EffImg.lean ====
section
/-! SUPPORT. What the operations of Img.lean keep, and what they may change. -/

namespace Sys2Proof.Laws
open Sys2Proof.Machine

theorem eff_imgEv (code : Nat) (sev : Nat) (d : W64) (m : Module) : Eff [.vst, .hlt, .pci, .tray, .dbg, .out] m (imgEv code sev d m) := by
  unfold imgEv
  iterate 24 all_goals try first
    | with_reducible exact Eff.refl _
    | with_reducible assumption
    | (with_reducible apply Eff.after (eff_ev ..); · decide)
    | intro _
    | extract_lets
    | with_reducible apply Eff.ite
    | split
    | dsimp only
    | dsimp +zetaDelta only

theorem eff_imgBad (m : Module) : Eff [.img] m (imgBad m) := by
  unfold imgBad
  iterate 24 all_goals try first
    | with_reducible exact Eff.refl _
    | with_reducible assumption
    | intro _
    | extract_lets
    | with_reducible apply Eff.ite
    | (fail_if_no_progress ((with_reducible refine Eff.upd ?_ rfl rfl rfl rfl rfl rfl rfl rfl rfl rfl ?_); rotate_left; exact rfl))
    | split
    | dsimp only
    | dsimp +zetaDelta only

theorem eff_fetchFailed (m : Module) : Eff [.img] m (fetchFailed m) := by
  unfold fetchFailed
  iterate 24 all_goals try first
    | with_reducible exact Eff.refl _
    | with_reducible assumption
    | intro _
    | extract_lets
    | with_reducible apply Eff.ite
    | (fail_if_no_progress ((with_reducible refine Eff.upd ?_ rfl rfl rfl rfl rfl rfl rfl rfl rfl rfl ?_); rotate_left; exact rfl))
    | split
    | dsimp only
    | dsimp +zetaDelta only

theorem eff_imgLoad (m : Module) : Eff [.img, .vst, .hlt, .pci, .tray, .dbg, .out] m (imgLoad m) := by
  unfold imgLoad
  iterate 24 all_goals try first
    | with_reducible exact Eff.refl _
    | with_reducible assumption
    | (with_reducible apply Eff.after (eff_imgEv ..); · decide)
    | (with_reducible apply Eff.after (eff_fetchFailed ..); · decide)
    | intro _
    | extract_lets
    | with_reducible apply Eff.ite
    | (fail_if_no_progress ((with_reducible refine Eff.upd ?_ rfl rfl rfl rfl rfl rfl rfl rfl rfl rfl ?_); rotate_left; exact rfl))
    | split
    | dsimp only
    | dsimp +zetaDelta only

theorem eff_imgCheckCmd (m : Module) : Eff [.img] m (imgCheckCmd m) := by
  unfold imgCheckCmd
  iterate 24 all_goals try first
    | with_reducible exact Eff.refl _
    | with_reducible assumption
    | (with_reducible apply Eff.after (eff_imgBad ..); · decide)
    | intro _
    | extract_lets
    | with_reducible apply Eff.ite
    | (fail_if_no_progress ((with_reducible refine Eff.upd ?_ rfl rfl rfl rfl rfl rfl rfl rfl rfl rfl ?_); rotate_left; exact rfl))
    | split
    | dsimp only
    | dsimp +zetaDelta only

theorem eff_applyRefused (code : Nat) (m : Module) : Eff [.img, .vst, .hlt, .pci, .tray, .dbg, .out] m (applyRefused code m) := by
  unfold applyRefused
  iterate 24 all_goals try first
    | with_reducible exact Eff.refl _
    | with_reducible assumption
    | (with_reducible apply Eff.after (eff_imgEv ..); · decide)
    | intro _
    | extract_lets
    | with_reducible apply Eff.ite
    | (fail_if_no_progress ((with_reducible refine Eff.upd ?_ rfl rfl rfl rfl rfl rfl rfl rfl rfl rfl ?_); rotate_left; exact rfl))
    | split
    | dsimp only
    | dsimp +zetaDelta only

theorem eff_armFor (b : Beat) (late : Option Beat) (m : Module) : Eff [.img, .dbg] m (armFor b late m) := by
  unfold armFor
  iterate 24 all_goals try first
    | with_reducible exact Eff.refl _
    | with_reducible assumption
    | intro _
    | extract_lets
    | with_reducible apply Eff.ite
    | (fail_if_no_progress ((with_reducible refine Eff.upd ?_ rfl rfl rfl rfl rfl rfl rfl rfl rfl rfl ?_); rotate_left; exact rfl))
    | split
    | dsimp only
    | dsimp +zetaDelta only

theorem eff_imgArm (m : Module) : Eff [.img, .vst, .hlt, .pci, .tray, .dbg, .out] m (imgArm m) := by
  unfold imgArm
  iterate 24 all_goals try first
    | with_reducible exact Eff.refl _
    | with_reducible assumption
    | (with_reducible apply Eff.after (eff_imgEv ..); · decide)
    | (with_reducible apply Eff.after (eff_armFor ..); · decide)
    | (with_reducible apply Eff.after (eff_applyRefused ..); · decide)
    | (with_reducible apply Eff.after (eff_imgBad ..); · decide)
    | intro _
    | extract_lets
    | with_reducible apply Eff.ite
    | split
    | dsimp only
    | dsimp +zetaDelta only

theorem eff_imgCancel (m : Module) : Eff [.img, .vst, .hlt, .pci, .tray, .dbg, .out] m (imgCancel m) := by
  unfold imgCancel
  iterate 24 all_goals try first
    | with_reducible exact Eff.refl _
    | with_reducible assumption
    | (with_reducible apply Eff.after (eff_imgEv ..); · decide)
    | (with_reducible apply Eff.after (eff_imgBad ..); · decide)
    | intro _
    | extract_lets
    | with_reducible apply Eff.ite
    | (fail_if_no_progress ((with_reducible refine Eff.upd ?_ rfl rfl rfl rfl rfl rfl rfl rfl rfl rfl ?_); rotate_left; exact rfl))
    | split
    | dsimp only
    | dsimp +zetaDelta only

theorem eff_imgCmd (val : W64) (m : Module) : Eff [.img, .vst, .hlt, .pci, .tray, .dbg, .out] m (imgCmd val m) := by
  unfold imgCmd
  iterate 24 all_goals try first
    | with_reducible exact Eff.refl _
    | with_reducible assumption
    | (with_reducible apply Eff.after (eff_imgLoad ..); · decide)
    | (with_reducible apply Eff.after (eff_imgCheckCmd ..); · decide)
    | (with_reducible apply Eff.after (eff_imgArm ..); · decide)
    | (with_reducible apply Eff.after (eff_imgCancel ..); · decide)
    | (with_reducible apply Eff.after (eff_imgBad ..); · decide)
    | intro _
    | extract_lets
    | with_reducible apply Eff.ite
    | split
    | dsimp only
    | dsimp +zetaDelta only

theorem eff_execLoad (s : State) : EffOut [.img, .vst, .hlt, .pci, .tray, .dbg, .out] s (execLoad s) := by
  unfold execLoad
  iterate 24 all_goals try first
    | with_reducible exact EffOut.stop
    | with_reducible exact EffOut.ill
    | with_reducible refine EffOut.done ?_
    | with_reducible exact Eff.refl _
    | with_reducible assumption
    | (with_reducible apply Eff.after (eff_imgLoad ..); · decide)
    | exact (eff_done ..).mono (by decide)
    | intro _
    | extract_lets
    | with_reducible apply Eff.ite
    | split
    | dsimp only
    | dsimp +zetaDelta only

theorem eff_execCheck (s : State) : EffOut [.img] s (execCheck s) := by
  unfold execCheck
  iterate 24 all_goals try first
    | with_reducible exact EffOut.stop
    | with_reducible exact EffOut.ill
    | with_reducible refine EffOut.done ?_
    | with_reducible exact Eff.refl _
    | with_reducible assumption
    | (with_reducible apply Eff.after (eff_imgCheckCmd ..); · decide)
    | exact (eff_done ..).mono (by decide)
    | intro _
    | extract_lets
    | with_reducible apply Eff.ite
    | split
    | dsimp only
    | dsimp +zetaDelta only

theorem eff_execArm (s : State) : EffOut [.img, .vst, .hlt, .pci, .tray, .dbg, .out] s (execArm s) := by
  unfold execArm
  iterate 24 all_goals try first
    | with_reducible exact EffOut.stop
    | with_reducible exact EffOut.ill
    | with_reducible refine EffOut.done ?_
    | with_reducible exact Eff.refl _
    | with_reducible assumption
    | (with_reducible apply Eff.after (eff_imgArm ..); · decide)
    | exact (eff_done ..).mono (by decide)
    | intro _
    | extract_lets
    | with_reducible apply Eff.ite
    | split
    | dsimp only
    | dsimp +zetaDelta only

theorem eff_execCancel (s : State) : EffOut [.img, .vst, .hlt, .pci, .tray, .dbg, .out] s (execCancel s) := by
  unfold execCancel
  iterate 24 all_goals try first
    | with_reducible exact EffOut.stop
    | with_reducible exact EffOut.ill
    | with_reducible refine EffOut.done ?_
    | with_reducible exact Eff.refl _
    | with_reducible assumption
    | (with_reducible apply Eff.after (eff_imgCancel ..); · decide)
    | exact (eff_done ..).mono (by decide)
    | intro _
    | extract_lets
    | with_reducible apply Eff.ite
    | split
    | dsimp only
    | dsimp +zetaDelta only

theorem eff_execFetchComplete (r : FetchResult) (s : State) : EffOut [.img, .vst, .hlt, .pci, .tray, .dbg, .out] s (execFetchComplete r s) := by
  unfold execFetchComplete
  iterate 24 all_goals try first
    | with_reducible exact EffOut.stop
    | with_reducible exact EffOut.ill
    | with_reducible refine EffOut.done ?_
    | with_reducible exact Eff.refl _
    | with_reducible assumption
    | (with_reducible apply Eff.after (eff_fetchFailed ..); · decide)
    | (with_reducible apply Eff.after (eff_imgEv ..); · decide)
    | exact (eff_done ..).mono (by decide)
    | intro _
    | extract_lets
    | with_reducible apply Eff.ite
    | (fail_if_no_progress ((with_reducible refine Eff.upd ?_ rfl rfl rfl rfl rfl rfl rfl rfl rfl rfl ?_); rotate_left; exact rfl))
    | split
    | dsimp only
    | dsimp +zetaDelta only

theorem eff_imgShadowWrite (off : Nat) (bytes : Nat) (val : W64) (m : Module) : Eff [.img] m (imgShadowWrite off bytes val m) := by
  unfold imgShadowWrite
  iterate 24 all_goals try first
    | with_reducible exact Eff.refl _
    | with_reducible assumption
    | intro _
    | extract_lets
    | with_reducible apply Eff.ite
    | (fail_if_no_progress ((with_reducible refine Eff.upd ?_ rfl rfl rfl rfl rfl rfl rfl rfl rfl rfl ?_); rotate_left; exact rfl))
    | split
    | dsimp only
    | dsimp +zetaDelta only

theorem eff_execImgShadowWrite (off : Nat) (bytes : Nat) (val : W64) (s : State) : EffOut [.img, .pci] s (execImgShadowWrite off bytes val s) := by
  unfold execImgShadowWrite
  iterate 24 all_goals try first
    | with_reducible exact EffOut.stop
    | with_reducible exact EffOut.ill
    | with_reducible refine EffOut.done ?_
    | with_reducible exact Eff.refl _
    | with_reducible assumption
    | (with_reducible apply Eff.after (eff_imgShadowWrite ..); · decide)
    | (with_reducible apply Eff.after (eff_unmapped ..); · decide)
    | exact (eff_done ..).mono (by decide)
    | intro _
    | extract_lets
    | with_reducible apply Eff.ite
    | split
    | dsimp only
    | dsimp +zetaDelta only

theorem eff_execCheckingEnd (s : State) : EffOut [.img, .vst, .hlt, .pci, .tray, .dbg, .out] s (execCheckingEnd s) := by
  unfold execCheckingEnd
  iterate 24 all_goals try first
    | with_reducible exact EffOut.stop
    | with_reducible exact EffOut.ill
    | with_reducible refine EffOut.done ?_
    | with_reducible exact Eff.refl _
    | with_reducible assumption
    | (with_reducible apply Eff.after (eff_imgEv ..); · decide)
    | exact (eff_done ..).mono (by decide)
    | intro _
    | extract_lets
    | with_reducible apply Eff.ite
    | (fail_if_no_progress ((with_reducible refine Eff.upd ?_ rfl rfl rfl rfl rfl rfl rfl rfl rfl rfl ?_); rotate_left; exact rfl))
    | split
    | dsimp only
    | dsimp +zetaDelta only

end Sys2Proof.Laws
end

