-- ==== Sys2Proof/Laws/EffMemRows.lean ====
section
/-! SUPPORT. What the operations of MemRows.lean keep, and what they may change. -/

namespace Sys2Proof.Laws
open Sys2Proof.Machine

theorem eff_execHallRequestAged (bank : Fin 512) (req : HallReq) (_idx : Nat) (waited : Nat) (s : State) : EffOut [.mem] s (execHallRequestAged bank req _idx waited s) := by
  unfold execHallRequestAged
  iterate 24 all_goals try first
    | with_reducible exact EffOut.stop
    | with_reducible exact EffOut.ill
    | with_reducible refine EffOut.done ?_
    | with_reducible exact Eff.refl _
    | with_reducible assumption
    | (with_reducible apply Eff.after (eff_hallLost ..); · decide)
    | (with_reducible apply Eff.after (eff_setHallW ..); · decide)
    | exact (eff_done ..).mono (by decide)
    | intro _
    | extract_lets
    | with_reducible apply Eff.ite
    | (fail_if_no_progress ((with_reducible refine Eff.upd ?_ rfl rfl rfl rfl rfl rfl rfl rfl rfl rfl ?_); rotate_left; exact rfl))
    | split
    | dsimp only
    | dsimp +zetaDelta only

theorem eff_cacheCommand (p : Nat) (inv : Bool) (m : Module) : Eff [.mem, .cor] m (cacheCommand p inv m) := by
  unfold cacheCommand
  iterate 24 all_goals try first
    | with_reducible exact Eff.refl _
    | with_reducible assumption
    | (with_reducible apply Eff.after (eff_setCache ..); · decide)
    | (with_reducible apply Eff.after (eff_flushCache ..); · decide)
    | intro _
    | extract_lets
    | with_reducible apply Eff.ite
    | (fail_if_no_progress ((with_reducible refine Eff.upd ?_ rfl rfl rfl rfl rfl rfl rfl rfl rfl rfl ?_); rotate_left; exact rfl))
    | split
    | dsimp only
    | dsimp +zetaDelta only

theorem eff_cacheDone (p : Nat) (inv : Bool) (m : Module) : Eff [.mem, .flt, .cor] m (cacheDone p inv m) := by
  unfold cacheDone
  iterate 24 all_goals try first
    | with_reducible exact Eff.refl _
    | with_reducible assumption
    | (with_reducible apply Eff.after (eff_invalidateCache ..); · decide)
    | (with_reducible apply Eff.after (eff_flushCache ..); · decide)
    | (with_reducible apply Eff.after (eff_setCache ..); · decide)
    | intro _
    | extract_lets
    | with_reducible apply Eff.ite
    | (fail_if_no_progress ((with_reducible refine Eff.upd ?_ rfl rfl rfl rfl rfl rfl rfl rfl rfl rfl ?_); rotate_left; exact rfl))
    | split
    | dsimp only
    | dsimp +zetaDelta only

theorem eff_execFlush (p : Fin 16) (errs : List MemErr) (s : State) : EffOut [.mem, .vst, .hlt, .cor, .pci, .tray, .dbg, .out] s (execFlush p errs s) := by
  unfold execFlush
  iterate 24 all_goals try first
    | with_reducible exact EffOut.stop
    | with_reducible exact EffOut.ill
    | with_reducible refine EffOut.done ?_
    | with_reducible exact Eff.refl _
    | with_reducible assumption
    | (with_reducible apply Eff.after (eff_cacheCommand ..); · decide)
    | (with_reducible apply Eff.after (eff_memErrs ..); · decide)
    | exact (eff_done ..).mono (by decide)
    | intro _
    | extract_lets
    | with_reducible apply Eff.ite
    | split
    | dsimp only
    | dsimp +zetaDelta only

theorem eff_execInvalidate (p : Fin 16) (errs : List MemErr) (s : State) : EffOut [.mem, .vst, .hlt, .cor, .pci, .tray, .dbg, .out] s (execInvalidate p errs s) := by
  unfold execInvalidate
  iterate 24 all_goals try first
    | with_reducible exact EffOut.stop
    | with_reducible exact EffOut.ill
    | with_reducible refine EffOut.done ?_
    | with_reducible exact Eff.refl _
    | with_reducible assumption
    | (with_reducible apply Eff.after (eff_cacheCommand ..); · decide)
    | (with_reducible apply Eff.after (eff_memErrs ..); · decide)
    | exact (eff_done ..).mono (by decide)
    | intro _
    | extract_lets
    | with_reducible apply Eff.ite
    | split
    | dsimp only
    | dsimp +zetaDelta only

theorem eff_execCacheCommandDone (p : Fin 16) (s : State) : EffOut [.mem, .flt, .cor] s (execCacheCommandDone p s) := by
  unfold execCacheCommandDone
  iterate 24 all_goals try first
    | with_reducible exact EffOut.stop
    | with_reducible exact EffOut.ill
    | with_reducible refine EffOut.done ?_
    | with_reducible exact Eff.refl _
    | with_reducible assumption
    | (with_reducible apply Eff.after (eff_cacheDone ..); · decide)
    | exact (eff_done ..).mono (by decide)
    | intro _
    | extract_lets
    | with_reducible apply Eff.ite
    | (fail_if_no_progress ((with_reducible refine Eff.upd ?_ rfl rfl rfl rfl rfl rfl rfl rfl rfl rfl ?_); rotate_left; exact rfl))
    | split
    | dsimp only
    | dsimp +zetaDelta only

theorem eff_execHallCntClr (w : Fin 2) (s : State) : EffOut [.mem] s (execHallCntClr w s) := by
  unfold execHallCntClr
  iterate 24 all_goals try first
    | with_reducible exact EffOut.stop
    | with_reducible exact EffOut.ill
    | with_reducible refine EffOut.done ?_
    | with_reducible exact Eff.refl _
    | with_reducible assumption
    | (with_reducible apply Eff.after (eff_setHallW ..); · decide)
    | exact (eff_done ..).mono (by decide)
    | intro _
    | extract_lets
    | with_reducible apply Eff.ite
    | split
    | dsimp only
    | dsimp +zetaDelta only

theorem eff_execHbmCntClr (stack : Fin 8) (s : State) : EffOut [.mem] s (execHbmCntClr stack s) := by
  unfold execHbmCntClr
  iterate 24 all_goals try first
    | with_reducible exact EffOut.stop
    | with_reducible exact EffOut.ill
    | with_reducible refine EffOut.done ?_
    | with_reducible exact Eff.refl _
    | with_reducible assumption
    | (with_reducible apply Eff.after (eff_updMemUnit ..); · decide)
    | exact (eff_done ..).mono (by decide)
    | intro _
    | extract_lets
    | with_reducible apply Eff.ite
    | split
    | dsimp only
    | dsimp +zetaDelta only

theorem eff_execLpxCntClr (pkg : Fin 24) (s : State) : EffOut [.mem] s (execLpxCntClr pkg s) := by
  unfold execLpxCntClr
  iterate 24 all_goals try first
    | with_reducible exact EffOut.stop
    | with_reducible exact EffOut.ill
    | with_reducible refine EffOut.done ?_
    | with_reducible exact Eff.refl _
    | with_reducible assumption
    | (with_reducible apply Eff.after (eff_updMemUnit ..); · decide)
    | exact (eff_done ..).mono (by decide)
    | intro _
    | extract_lets
    | with_reducible apply Eff.ite
    | split
    | dsimp only
    | dsimp +zetaDelta only

theorem eff_tgSet (k : ℕ) (t : Tg) (m : Module) : Eff [.mem] m (tgSet k t m) := by
  refine .of_inv rfl rfl (fun h => ?_) rfl
  obtain ⟨h, w⟩ := h
  simp only [Module.canonical, Bool.and_eq_true] at h
  simp_all [Module.Inv, Module.canonical, tgSet, mapAt, rising_nset, Memory.wf]

theorem eff_testWrites (k : Nat) (t : Tg) (steps : Nat) (m : Module) : Eff [.clk, .beat, .mem, .cor, .dbg, .out] m (testWrites k t steps m) := by
  unfold testWrites
  iterate 24 all_goals try first
    | with_reducible exact Eff.refl _
    | with_reducible assumption
    | (with_reducible apply Eff.after (eff_storeSector ..); · decide)
    | (with_reducible apply Eff.after (eff_pass ..); · decide)
    | intro _
    | extract_lets
    | with_reducible apply Eff.ite
    | with_reducible apply Eff.fold
    | split
    | (with_reducible refine Eff.iteSnd (by assumption) ?_ ?_)
    | dsimp only
    | dsimp +zetaDelta only
    | with_reducible apply Eff.foldSnd
    | with_reducible apply Eff.foldFst
    | with_reducible apply Eff.foldThird

theorem eff_testStart (k : Nat) (faults : List TestFail) (m : Module) : Eff [.mem] m (testStart k faults m) := by
  unfold testStart
  iterate 24 all_goals try first
    | with_reducible exact Eff.refl _
    | with_reducible assumption
    | (with_reducible apply Eff.after (eff_tgSet ..); · decide)
    | intro _
    | extract_lets
    | with_reducible apply Eff.ite
    | (fail_if_no_progress ((with_reducible refine Eff.upd ?_ rfl rfl rfl rfl rfl rfl rfl rfl rfl rfl ?_); rotate_left; exact rfl))
    | split
    | dsimp only
    | dsimp +zetaDelta only

theorem eff_testHalt (k : Nat) (steps : Nat) (m : Module) : Eff [.clk, .beat, .mem, .cor, .dbg, .out] m (testHalt k steps m) := by
  unfold testHalt
  iterate 24 all_goals try first
    | with_reducible exact Eff.refl _
    | with_reducible assumption
    | (with_reducible apply Eff.after (eff_testWrites ..); · decide)
    | (with_reducible apply Eff.after (eff_tgSet ..); · decide)
    | intro _
    | extract_lets
    | with_reducible apply Eff.ite
    | (fail_if_no_progress ((with_reducible refine Eff.upd ?_ rfl rfl rfl rfl rfl rfl rfl rfl rfl rfl ?_); rotate_left; exact rfl))
    | split
    | dsimp only
    | dsimp +zetaDelta only

theorem eff_testEnd (k : Nat) (steps : Nat) (m : Module) : Eff [.clk, .beat, .mem, .vst, .hlt, .cor, .pci, .tray, .dbg, .out] m (testEnd k steps m) := by
  unfold testEnd
  iterate 24 all_goals try first
    | with_reducible exact Eff.refl _
    | with_reducible assumption
    | (with_reducible apply Eff.after (eff_testHalt ..); · decide)
    | (with_reducible apply Eff.after (eff_tgSet ..); · decide)
    | (with_reducible apply Eff.after (eff_ev ..); · decide)
    | intro _
    | extract_lets
    | with_reducible apply Eff.ite
    | (fail_if_no_progress ((with_reducible refine Eff.upd ?_ rfl rfl rfl rfl rfl rfl rfl rfl rfl rfl ?_); rotate_left; exact rfl))
    | split
    | dsimp only
    | dsimp +zetaDelta only

theorem eff_testStop (k : Nat) (m : Module) : Eff [.clk, .beat, .mem, .vst, .hlt, .cor, .pci, .tray, .dbg, .out] m (testStop k m) := by
  unfold testStop
  iterate 24 all_goals try first
    | with_reducible exact Eff.refl _
    | with_reducible assumption
    | (with_reducible apply Eff.after (eff_testEnd ..); · decide)
    | intro _
    | extract_lets
    | with_reducible apply Eff.ite
    | split
    | dsimp only
    | dsimp +zetaDelta only

theorem eff_execTestStart (ch : MemCh) (fails : List TestFail) (s : State) : EffOut [.mem] s (execTestStart ch fails s) := by
  unfold execTestStart
  iterate 24 all_goals try first
    | with_reducible exact EffOut.stop
    | with_reducible exact EffOut.ill
    | with_reducible refine EffOut.done ?_
    | with_reducible exact Eff.refl _
    | with_reducible assumption
    | (with_reducible apply Eff.after (eff_testStart ..); · decide)
    | exact (eff_done ..).mono (by decide)
    | intro _
    | extract_lets
    | with_reducible apply Eff.ite
    | split
    | dsimp only
    | dsimp +zetaDelta only

theorem eff_execTestStop (ch : MemCh) (s : State) : EffOut [.clk, .beat, .mem, .vst, .hlt, .cor, .pci, .tray, .dbg, .out] s (execTestStop ch s) := by
  unfold execTestStop
  iterate 24 all_goals try first
    | with_reducible exact EffOut.stop
    | with_reducible exact EffOut.ill
    | with_reducible refine EffOut.done ?_
    | with_reducible exact Eff.refl _
    | with_reducible assumption
    | (with_reducible apply Eff.after (eff_testStop ..); · decide)
    | exact (eff_done ..).mono (by decide)
    | intro _
    | extract_lets
    | with_reducible apply Eff.ite
    | split
    | dsimp only
    | dsimp +zetaDelta only

theorem eff_execChannelTestEnd (ch : MemCh) (s : State) : EffOut [.clk, .beat, .mem, .vst, .hlt, .cor, .pci, .tray, .dbg, .out] s (execChannelTestEnd ch s) := by
  unfold execChannelTestEnd
  iterate 24 all_goals try first
    | with_reducible exact EffOut.stop
    | with_reducible exact EffOut.ill
    | with_reducible refine EffOut.done ?_
    | with_reducible exact Eff.refl _
    | with_reducible assumption
    | (with_reducible apply Eff.after (eff_testEnd ..); · decide)
    | (with_reducible apply Eff.after (eff_passTo ..); · decide)
    | exact (eff_done ..).mono (by decide)
    | intro _
    | extract_lets
    | with_reducible apply Eff.ite
    | split
    | dsimp only
    | dsimp +zetaDelta only

end Sys2Proof.Laws
end

