-- ==== Sys2Proof/Laws/EffWdg.lean ====
section
/-! SUPPORT. What the operations of Wdg.lean keep, and what they may change. -/

namespace Sys2Proof.Laws
open Sys2Proof.Machine

theorem eff_domEv (code : Nat) (sev : Nat) (d : Dom) (det : W64) (m : Module) : Eff [.vst, .hlt, .pci, .tray, .dbg, .out] m (domEv code sev d det m) := by
  unfold domEv
  iterate 24 all_goals try first
    | with_reducible exact Eff.refl _
    | with_reducible assumption
    | (with_reducible apply Eff.after (eff_ev ..); · decide)
    | intro _
    | extract_lets
    | with_reducible apply Eff.ite
    | split
    | dsimp only
    | dsimp +zetaDelta only

theorem eff_dropDescs (sel : QKey → Desc → Bool) (m : Module) : Eff [.queues] m (dropDescs sel m) := by
  unfold dropDescs
  iterate 24 all_goals try first
    | with_reducible exact Eff.refl _
    | with_reducible assumption
    | intro _
    | extract_lets
    | with_reducible apply Eff.ite
    | (fail_if_no_progress ((with_reducible refine Eff.upd ?_ rfl rfl rfl rfl rfl rfl rfl rfl rfl rfl ?_); rotate_left; exact rfl))
    | split
    | dsimp only
    | dsimp +zetaDelta only

theorem eff_removeDescs (sel : QKey → Desc → Bool) (m : Module) : Eff [.queues, .counts, .outstanding, .harts, .flt, .vst, .wdg, .hlt, .pci, .tray, .dbg, .out] m (removeDescs sel m) := by
  unfold removeDescs
  iterate 24 all_goals try first
    | with_reducible exact Eff.refl _
    | with_reducible assumption
    | (with_reducible apply Eff.after (eff_setFlt ..); · decide)
    | (with_reducible apply Eff.after (eff_complete ..); · decide)
    | (with_reducible apply Eff.after (eff_dropDescs ..); · decide)
    | intro _
    | extract_lets
    | with_reducible apply Eff.ite
    | with_reducible apply Eff.fold
    | (fail_if_no_progress ((with_reducible refine Eff.upd ?_ rfl rfl rfl rfl rfl rfl rfl rfl rfl rfl ?_); rotate_left; exact rfl))
    | split
    | (with_reducible refine Eff.iteSnd (by assumption) ?_ ?_)
    | dsimp only
    | dsimp +zetaDelta only
    | with_reducible apply Eff.foldSnd
    | with_reducible apply Eff.foldFst
    | with_reducible apply Eff.foldThird

theorem eff_ctxReset (p : Nat) (c : Nat) (hold : Bool) (m : Module) : Eff [.queues, .counts, .gates, .outstanding, .harts, .flt, .vst, .wdg, .hlt, .pci, .tray, .dbg, .out] m (ctxReset p c hold m) := by
  unfold ctxReset
  iterate 24 all_goals try first
    | with_reducible exact Eff.refl _
    | with_reducible assumption
    | (with_reducible apply Eff.after (eff_setHart ..); · decide)
    | (with_reducible apply Eff.after (eff_removeDescs ..); · decide)
    | intro _
    | extract_lets
    | with_reducible apply Eff.ite
    | (fail_if_no_progress ((with_reducible refine Eff.upd ?_ rfl rfl rfl rfl rfl rfl rfl rfl rfl rfl ?_); rotate_left; exact rfl))
    | with_reducible refine Eff.gates ?_ (fun h => rising_nset h) (by decide)
    | with_reducible refine Eff.gates ?_ (fun h => rising_filter h) (by decide)
    | split
    | dsimp only
    | dsimp +zetaDelta only

theorem eff_failOp (cls : Nat) (idx : Nat) (seq : W64) (m : Module) : Eff [.gal, .bal, .ris, .lnd] m (failOp cls idx seq m) := by
  unfold failOp
  iterate 24 all_goals try first
    | with_reducible exact Eff.refl _
    | with_reducible assumption
    | (with_reducible apply Eff.after (eff_setGal ..); · decide)
    | (with_reducible apply Eff.after (eff_setBal ..); · decide)
    | (with_reducible apply Eff.after (eff_setLnd ..); · decide)
    | (with_reducible apply Eff.after (eff_setRis ..); · decide)
    | intro _
    | extract_lets
    | with_reducible apply Eff.ite
    | (fail_if_no_progress ((with_reducible refine Eff.upd ?_ rfl rfl rfl rfl rfl rfl rfl rfl rfl rfl ?_); rotate_left; exact rfl))
    | split
    | dsimp only
    | dsimp +zetaDelta only

theorem eff_chkReset (w : Nat) (m : Module) : Eff [.gal, .bal, .ris, .lnd, .mem, .vst, .chk, .hlt, .pci, .tray, .dbg, .out] m (chkReset w m) := by
  unfold chkReset
  iterate 24 all_goals try first
    | with_reducible exact Eff.refl _
    | with_reducible assumption
    | (with_reducible apply Eff.after (eff_ptAbort ..); · decide)
    | (with_reducible apply Eff.after (eff_setChk ..); · decide)
    | (with_reducible apply Eff.after (eff_ev ..); · decide)
    | (with_reducible apply Eff.after (eff_failOp ..); · decide)
    | intro _
    | extract_lets
    | with_reducible apply Eff.ite
    | with_reducible apply Eff.fold
    | (fail_if_no_progress ((with_reducible refine Eff.upd ?_ rfl rfl rfl rfl rfl rfl rfl rfl rfl rfl ?_); rotate_left; exact rfl))
    | split
    | (with_reducible refine Eff.iteSnd (by assumption) ?_ ?_)
    | dsimp only
    | dsimp +zetaDelta only
    | with_reducible apply Eff.foldSnd
    | with_reducible apply Eff.foldFst
    | with_reducible apply Eff.foldThird

theorem eff_unpassGal (g : Nat) (m : Module) : Eff [.dbg] m (unpassGal g m) := by
  unfold unpassGal
  iterate 24 all_goals try first
    | with_reducible exact Eff.refl _
    | with_reducible assumption
    | intro _
    | extract_lets
    | with_reducible apply Eff.ite
    | (fail_if_no_progress ((with_reducible refine Eff.upd ?_ rfl rfl rfl rfl rfl rfl rfl rfl rfl rfl ?_); rotate_left; exact rfl))
    | split
    | dsimp only
    | dsimp +zetaDelta only

theorem eff_unpassLnd (l : Nat) (m : Module) : Eff [.dbg] m (unpassLnd l m) := by
  unfold unpassLnd
  iterate 24 all_goals try first
    | with_reducible exact Eff.refl _
    | with_reducible assumption
    | intro _
    | extract_lets
    | with_reducible apply Eff.ite
    | (fail_if_no_progress ((with_reducible refine Eff.upd ?_ rfl rfl rfl rfl rfl rfl rfl rfl rfl rfl ?_); rotate_left; exact rfl))
    | split
    | dsimp only
    | dsimp +zetaDelta only

theorem eff_clearEngine (cls : Nat) (idx : Nat) (m : Module) : Eff [.gal, .bal, .ris, .win, .lnd, .nwl, .mem, .flt, .arc, .vote, .vst, .chk, .hlt, .pci, .tray, .dbg, .out] m (clearEngine cls idx m) := by
  unfold clearEngine
  iterate 24 all_goals try first
    | with_reducible exact Eff.refl _
    | with_reducible assumption
    | (with_reducible apply Eff.after (eff_unpassGal ..); · decide)
    | (with_reducible apply Eff.after (eff_setGal ..); · decide)
    | (with_reducible apply Eff.after (eff_setBal ..); · decide)
    | (with_reducible apply Eff.after (eff_unpassLnd ..); · decide)
    | (with_reducible apply Eff.after (eff_setLnd ..); · decide)
    | (with_reducible apply Eff.after (eff_setRis ..); · decide)
    | (with_reducible apply Eff.after (eff_setWin ..); · decide)
    | (with_reducible apply Eff.after (eff_setNwl ..); · decide)
    | (with_reducible apply Eff.after (eff_setFlt ..); · decide)
    | (with_reducible apply Eff.after (eff_arcDrop ..); · decide)
    | (with_reducible apply Eff.after (eff_voteDrop ..); · decide)
    | (with_reducible apply Eff.after (eff_chkReset ..); · decide)
    | intro _
    | extract_lets
    | with_reducible apply Eff.ite
    | (fail_if_no_progress ((with_reducible refine Eff.upd ?_ rfl rfl rfl rfl rfl rfl rfl rfl rfl rfl ?_); rotate_left; exact rfl))
    | split
    | dsimp only
    | dsimp +zetaDelta only

theorem eff_resetUnit (cls : Nat) (idx : Nat) (m : Module) : Eff [.queues, .counts, .outstanding, .harts, .gal, .bal, .ris, .win, .lnd, .nwl, .mem, .flt, .arc, .vote, .vst, .wdg, .chk, .hlt, .pci, .tray, .dbg, .out] m (resetUnit cls idx m) := by
  unfold resetUnit
  iterate 24 all_goals try first
    | with_reducible exact Eff.refl _
    | with_reducible assumption
    | (with_reducible apply Eff.after (eff_complete ..); · decide)
    | (with_reducible apply Eff.after (eff_clearEngine ..); · decide)
    | (with_reducible apply Eff.after (eff_removeDescs ..); · decide)
    | intro _
    | extract_lets
    | with_reducible apply Eff.ite
    | with_reducible apply Eff.fold
    | split
    | (with_reducible refine Eff.iteSnd (by assumption) ?_ ?_)
    | dsimp only
    | dsimp +zetaDelta only
    | with_reducible apply Eff.foldSnd
    | with_reducible apply Eff.foldFst
    | with_reducible apply Eff.foldThird

theorem eff_engineReset (cls : Nat) (idx : Nat) (m : Module) : Eff [.queues, .counts, .outstanding, .harts, .gal, .bal, .ris, .win, .lnd, .nwl, .mem, .flt, .arc, .vote, .vst, .wdg, .chk, .hlt, .pci, .tray, .dbg, .out] m (engineReset cls idx m) := by
  unfold engineReset
  iterate 24 all_goals try first
    | with_reducible exact Eff.refl _
    | with_reducible assumption
    | (with_reducible apply Eff.after (eff_resetUnit ..); · decide)
    | intro _
    | extract_lets
    | with_reducible apply Eff.ite
    | split
    | dsimp only
    | dsimp +zetaDelta only

theorem eff_scoreEngine (k : Nat) (x : Nat × Nat) (m : Module) : Eff [.vst, .hlt, .pci, .tray, .dbg, .out] m (scoreEngine k x m) := by
  unfold scoreEngine
  iterate 24 all_goals try first
    | with_reducible exact Eff.refl _
    | with_reducible assumption
    | (with_reducible apply Eff.after (eff_score ..); · decide)
    | intro _
    | extract_lets
    | with_reducible apply Eff.ite
    | split
    | dsimp only
    | dsimp +zetaDelta only

theorem eff_resumeWatchdogs (m : Module) : Eff [.harts, .wdg] m (resumeWatchdogs m) := by
  unfold resumeWatchdogs
  iterate 24 all_goals try first
    | with_reducible exact Eff.refl _
    | with_reducible assumption
    | (with_reducible apply Eff.after (eff_setHart ..); · decide)
    | intro _
    | extract_lets
    | with_reducible apply Eff.ite
    | with_reducible apply Eff.fold
    | (fail_if_no_progress ((with_reducible refine Eff.upd ?_ rfl rfl rfl rfl rfl rfl rfl rfl rfl rfl ?_); rotate_left; exact rfl))
    | split
    | (with_reducible refine Eff.iteSnd (by assumption) ?_ ?_)
    | dsimp only
    | dsimp +zetaDelta only
    | with_reducible apply Eff.foldSnd
    | with_reducible apply Eff.foldFst
    | with_reducible apply Eff.foldThird

theorem eff_phaseCheck (m : Module) : Eff [.harts, .vst, .wdg, .hlt, .pci, .tray, .dbg, .out] m (phaseCheck m) := by
  unfold phaseCheck
  iterate 24 all_goals try first
    | with_reducible exact Eff.refl _
    | with_reducible assumption
    | (with_reducible apply Eff.after (eff_resumeWatchdogs ..); · decide)
    | (with_reducible apply Eff.after (eff_scoreEngine ..); · decide)
    | (with_reducible apply Eff.after (eff_ev ..); · decide)
    | intro _
    | extract_lets
    | with_reducible apply Eff.ite
    | (fail_if_no_progress ((with_reducible refine Eff.upd ?_ rfl rfl rfl rfl rfl rfl rfl rfl rfl rfl ?_); rotate_left; exact rfl))
    | split
    | dsimp only
    | dsimp +zetaDelta only

theorem eff_taintAll (p : Nat) (m : Module) : Eff [.vst] m (taintAll p m) := by
  unfold taintAll
  iterate 24 all_goals try first
    | with_reducible exact Eff.refl _
    | with_reducible assumption
    | (with_reducible apply Eff.after (eff_taint ..); · decide)
    | intro _
    | extract_lets
    | with_reducible apply Eff.ite
    | with_reducible apply Eff.fold
    | split
    | (with_reducible refine Eff.iteSnd (by assumption) ?_ ?_)
    | dsimp only
    | dsimp +zetaDelta only
    | with_reducible apply Eff.foldSnd
    | with_reducible apply Eff.foldFst
    | with_reducible apply Eff.foldThird

theorem eff_dropSuspects (sel : Suspect → Bool) (m : Module) : Eff [.wdg] m (dropSuspects sel m) := by
  unfold dropSuspects
  iterate 24 all_goals try first
    | with_reducible exact Eff.refl _
    | with_reducible assumption
    | intro _
    | extract_lets
    | with_reducible apply Eff.ite
    | (fail_if_no_progress ((with_reducible refine Eff.upd ?_ rfl rfl rfl rfl rfl rfl rfl rfl rfl rfl ?_); rotate_left; exact rfl))
    | split
    | dsimp only
    | dsimp +zetaDelta only

theorem eff_resetHarts (cores : List Nat) (m : Module) : Eff [.harts] m (resetHarts cores m) := by
  unfold resetHarts
  iterate 24 all_goals try first
    | with_reducible exact Eff.refl _
    | with_reducible assumption
    | (with_reducible apply Eff.after (eff_setHart ..); · decide)
    | intro _
    | extract_lets
    | with_reducible apply Eff.ite
    | with_reducible apply Eff.fold
    | split
    | (with_reducible refine Eff.iteSnd (by assumption) ?_ ?_)
    | dsimp only
    | dsimp +zetaDelta only
    | with_reducible apply Eff.foldSnd
    | with_reducible apply Eff.foldFst
    | with_reducible apply Eff.foldThird

theorem eff_zeroSeeds (p : Nat) (m : Module) : Eff [.nwl] m (zeroSeeds p m) := by
  unfold zeroSeeds
  iterate 24 all_goals try first
    | with_reducible exact Eff.refl _
    | with_reducible assumption
    | (with_reducible apply Eff.after (eff_setStepComp ..); · decide)
    | (with_reducible apply Eff.after (eff_setSeed ..); · decide)
    | intro _
    | extract_lets
    | with_reducible apply Eff.ite
    | with_reducible apply Eff.fold
    | split
    | (with_reducible refine Eff.iteSnd (by assumption) ?_ ?_)
    | dsimp only
    | dsimp +zetaDelta only
    | with_reducible apply Eff.foldSnd
    | with_reducible apply Eff.foldFst
    | with_reducible apply Eff.foldThird

theorem eff_partEngines (p : Nat) (m : Module) : Eff [.queues, .gal, .bal, .ris, .win, .lnd, .nwl, .mem, .flt, .arc, .vote, .vst, .chk, .hlt, .pci, .tray, .dbg, .out] m (partEngines p m) := by
  unfold partEngines
  iterate 24 all_goals try first
    | with_reducible exact Eff.refl _
    | with_reducible assumption
    | (with_reducible apply Eff.after (eff_dropDescs ..); · decide)
    | (with_reducible apply Eff.after (eff_clearEngine ..); · decide)
    | (with_reducible apply Eff.after (eff_setFlt ..); · decide)
    | intro _
    | extract_lets
    | with_reducible apply Eff.ite
    | with_reducible apply Eff.fold
    | (fail_if_no_progress ((with_reducible refine Eff.upd ?_ rfl rfl rfl rfl rfl rfl rfl rfl rfl rfl ?_); rotate_left; exact rfl))
    | split
    | (with_reducible refine Eff.iteSnd (by assumption) ?_ ?_)
    | dsimp only
    | dsimp +zetaDelta only
    | with_reducible apply Eff.foldSnd
    | with_reducible apply Eff.foldFst
    | with_reducible apply Eff.foldThird

theorem eff_partShared (p : Nat) (m : Module) : Eff [.nwl, .arc, .vote] m (partShared p m) := by
  unfold partShared
  iterate 24 all_goals try first
    | with_reducible exact Eff.refl _
    | with_reducible assumption
    | (with_reducible apply Eff.after (eff_setNwl ..); · decide)
    | (with_reducible apply Eff.after (eff_voteDrop ..); · decide)
    | (with_reducible apply Eff.after (eff_arcDrop ..); · decide)
    | intro _
    | extract_lets
    | with_reducible apply Eff.ite
    | with_reducible apply Eff.fold
    | (fail_if_no_progress ((with_reducible refine Eff.upd ?_ rfl rfl rfl rfl rfl rfl rfl rfl rfl rfl ?_); rotate_left; exact rfl))
    | split
    | (with_reducible refine Eff.iteSnd (by assumption) ?_ ?_)
    | dsimp only
    | dsimp +zetaDelta only
    | with_reducible apply Eff.foldSnd
    | with_reducible apply Eff.foldFst
    | with_reducible apply Eff.foldThird

theorem eff_partRegs (p : Nat) (m : Module) : Eff [.vst, .mir, .chk] m (partRegs p m) := by
  unfold partRegs
  iterate 24 all_goals try first
    | with_reducible exact Eff.refl _
    | with_reducible assumption
    | (with_reducible apply Eff.after (eff_setChk ..); · decide)
    | (with_reducible apply Eff.after (eff_setVst ..); · decide)
    | (with_reducible apply Eff.after (eff_setMir ..); · decide)
    | intro _
    | extract_lets
    | with_reducible apply Eff.ite
    | with_reducible apply Eff.fold
    | (fail_if_no_progress ((with_reducible refine Eff.upd ?_ rfl rfl rfl rfl rfl rfl rfl rfl rfl rfl ?_); rotate_left; exact rfl))
    | split
    | (with_reducible refine Eff.iteSnd (by assumption) ?_ ?_)
    | dsimp only
    | dsimp +zetaDelta only
    | with_reducible apply Eff.foldSnd
    | with_reducible apply Eff.foldFst
    | with_reducible apply Eff.foldThird

theorem eff_partCounts (p : ℕ) (m : Module) : Eff [.counts, .gates, .outstanding] m (partCounts p m) := by
  refine .of_inv rfl rfl (fun h => ?_) rfl
  obtain ⟨h, w⟩ := h
  simp only [Module.canonical, Bool.and_eq_true] at h
  simp_all [Module.Inv, Module.canonical, partCounts, rising_filter, Memory.wf]

theorem eff_partClear (p : Nat) (seeds : Bool) (m : Module) : Eff [.queues, .counts, .gates, .outstanding, .harts, .gal, .bal, .ris, .win, .lnd, .nwl, .mem, .flt, .arc, .vote, .vst, .mir, .wdg, .chk, .hlt, .pci, .tray, .dbg, .out] m (partClear p seeds m) := by
  unfold partClear
  iterate 24 all_goals try first
    | with_reducible exact Eff.refl _
    | with_reducible assumption
    | (with_reducible apply Eff.after (eff_partShared ..); · decide)
    | (with_reducible apply Eff.after (eff_partEngines ..); · decide)
    | (with_reducible apply Eff.after (eff_resetHarts ..); · decide)
    | (with_reducible apply Eff.after (eff_zeroSeeds ..); · decide)
    | (with_reducible apply Eff.after (eff_phaseCheck ..); · decide)
    | (with_reducible apply Eff.after (eff_dropSuspects ..); · decide)
    | (with_reducible apply Eff.after (eff_taintAll ..); · decide)
    | (with_reducible apply Eff.after (eff_partCounts ..); · decide)
    | (with_reducible apply Eff.after (eff_partRegs ..); · decide)
    | intro _
    | extract_lets
    | with_reducible apply Eff.ite
    | split
    | dsimp only
    | dsimp +zetaDelta only

theorem eff_partitionReset (p : Nat) (m : Module) : Eff [.queues, .counts, .gates, .outstanding, .harts, .gal, .bal, .ris, .win, .lnd, .nwl, .mem, .flt, .arc, .vote, .vst, .mir, .wdg, .chk, .hlt, .pci, .tray, .dbg, .out] m (partitionReset p m) := by
  unfold partitionReset
  iterate 24 all_goals try first
    | with_reducible exact Eff.refl _
    | with_reducible assumption
    | (with_reducible apply Eff.after (eff_partClear ..); · decide)
    | intro _
    | extract_lets
    | with_reducible apply Eff.ite
    | split
    | dsimp only
    | dsimp +zetaDelta only

theorem eff_loseCaches (w : Nat) (m : Module) : Eff [.mem, .flt, .vst, .hlt, .pci, .tray, .dbg, .out] m (loseCaches w m) := by
  unfold loseCaches
  iterate 24 all_goals try first
    | with_reducible exact Eff.refl _
    | with_reducible assumption
    | (with_reducible apply Eff.after (eff_invalidateCache ..); · decide)
    | (with_reducible apply Eff.after (eff_setCache ..); · decide)
    | (with_reducible apply Eff.after (eff_ev ..); · decide)
    | intro _
    | extract_lets
    | with_reducible apply Eff.ite
    | with_reducible apply Eff.fold
    | split
    | (with_reducible refine Eff.iteSnd (by assumption) ?_ ?_)
    | dsimp only
    | dsimp +zetaDelta only
    | with_reducible apply Eff.foldSnd
    | with_reducible apply Eff.foldFst
    | with_reducible apply Eff.foldThird

theorem eff_wingTests (w : Nat) (m : Module) : Eff [.clk, .beat, .mem, .cor, .dbg, .out] m (wingTests w m) := by
  unfold wingTests
  iterate 24 all_goals try first
    | with_reducible exact Eff.refl _
    | with_reducible assumption
    | (with_reducible apply Eff.after (eff_testHalt ..); · decide)
    | (with_reducible apply Eff.after (eff_tgSet ..); · decide)
    | intro _
    | extract_lets
    | with_reducible apply Eff.ite
    | with_reducible apply Eff.fold
    | (fail_if_no_progress ((with_reducible refine Eff.upd ?_ rfl rfl rfl rfl rfl rfl rfl rfl rfl rfl ?_); rotate_left; exact rfl))
    | split
    | (with_reducible refine Eff.iteSnd (by assumption) ?_ ?_)
    | dsimp only
    | dsimp +zetaDelta only
    | with_reducible apply Eff.foldSnd
    | with_reducible apply Eff.foldFst
    | with_reducible apply Eff.foldThird

theorem eff_loseUnits (t : Nat) (n : Nat) (w : Nat) (m : Module) : Eff [.mem] m (loseUnits t n w m) := by
  unfold loseUnits
  iterate 24 all_goals try first
    | with_reducible exact Eff.refl _
    | with_reducible assumption
    | (with_reducible apply Eff.after (eff_loseUnit ..); · decide)
    | intro _
    | extract_lets
    | with_reducible apply Eff.ite
    | with_reducible apply Eff.fold
    | split
    | (with_reducible refine Eff.iteSnd (by assumption) ?_ ?_)
    | dsimp only
    | dsimp +zetaDelta only
    | with_reducible apply Eff.foldSnd
    | with_reducible apply Eff.foldFst
    | with_reducible apply Eff.foldThird

theorem eff_updUnits (t : Nat) (n : Nat) (w : Nat) (f : MemUnit → MemUnit) (m : Module) : Eff [.mem] m (updUnits t n w f m) := by
  unfold updUnits
  iterate 24 all_goals try first
    | with_reducible exact Eff.refl _
    | with_reducible assumption
    | (with_reducible apply Eff.after (eff_updMemUnit ..); · decide)
    | intro _
    | extract_lets
    | with_reducible apply Eff.ite
    | with_reducible apply Eff.fold
    | split
    | (with_reducible refine Eff.iteSnd (by assumption) ?_ ?_)
    | dsimp only
    | dsimp +zetaDelta only
    | with_reducible apply Eff.foldSnd
    | with_reducible apply Eff.foldFst
    | with_reducible apply Eff.foldThird

theorem eff_losePoison (w : Nat) (m : Module) : Eff [.mem] m (losePoison w m) := by
  unfold losePoison
  iterate 24 all_goals try first
    | with_reducible exact Eff.refl _
    | with_reducible assumption
    | intro _
    | extract_lets
    | with_reducible apply Eff.ite
    | (fail_if_no_progress ((with_reducible refine Eff.upd ?_ rfl rfl rfl rfl rfl rfl rfl rfl rfl rfl ?_); rotate_left; exact rfl))
    | split
    | dsimp only
    | dsimp +zetaDelta only

theorem eff_wingMemory (w : ℕ) (m : Module) : Eff [.clk, .beat, .mem, .cor, .dbg, .out] m (wingMemory w m) := by
  unfold wingMemory
  extract_lets m1 m2 m3
  have h1 : Eff [.clk, .beat, .mem, .cor, .dbg, .out] m m1 :=
    ((eff_wingTests ..).mono (by decide)).trans (((eff_loseUnits ..).trans (eff_loseUnits ..)).mono (by decide))
  have h2 : Eff [.clk, .beat, .mem, .cor, .dbg, .out] m m2 := h1.trans ((eff_setHallW ..).mono (by decide))
  clear_value m2
  exact h2.trans ((((eff_updUnits ..).trans (eff_updUnits ..)).mono (by decide)).trans ((eff_losePoison ..).mono (by decide)))

theorem eff_phaseDrop (m : Module) : Eff [.harts, .wdg] m (phaseDrop m) := by
  unfold phaseDrop
  iterate 24 all_goals try first
    | with_reducible exact Eff.refl _
    | with_reducible assumption
    | (with_reducible apply Eff.after (eff_dropSuspects ..); · decide)
    | (with_reducible apply Eff.after (eff_resumeWatchdogs ..); · decide)
    | intro _
    | extract_lets
    | with_reducible apply Eff.ite
    | (fail_if_no_progress ((with_reducible refine Eff.upd ?_ rfl rfl rfl rfl rfl rfl rfl rfl rfl rfl ?_); rotate_left; exact rfl))
    | split
    | dsimp only
    | dsimp +zetaDelta only

theorem eff_corReset (w : Nat) (m : Module) : Eff [.cor, .dbg] m (corReset w m) := by
  unfold corReset
  iterate 24 all_goals try first
    | with_reducible exact Eff.refl _
    | with_reducible assumption
    | (with_reducible apply Eff.after (eff_setCor ..); · decide)
    | intro _
    | extract_lets
    | with_reducible apply Eff.ite
    | (fail_if_no_progress ((with_reducible refine Eff.upd ?_ rfl rfl rfl rfl rfl rfl rfl rfl rfl rfl ?_); rotate_left; exact rfl))
    | split
    | dsimp only
    | dsimp +zetaDelta only

theorem eff_wingReset (w : Nat) (m : Module) : Eff [.clk, .beat, .queues, .counts, .gates, .outstanding, .harts, .gal, .bal, .ris, .win, .lnd, .nwl, .mem, .flt, .arc, .vote, .vst, .mir, .wdg, .chk, .hlt, .cor, .pci, .tray, .dbg, .out] m (wingReset w m) := by
  unfold wingReset
  iterate 60 all_goals try first
    | with_reducible exact Eff.refl _
    | with_reducible assumption
    | (with_reducible apply Eff.after (eff_phaseDrop ..); · decide)
    | (with_reducible apply Eff.after (eff_loseCaches ..); · decide)
    | (with_reducible apply Eff.after (eff_partClear ..); · decide)
    | (with_reducible apply Eff.after (eff_resetUnit ..); · decide)
    | (with_reducible apply Eff.after (eff_setNwl ..); · decide)
    | (with_reducible apply Eff.after (eff_voteDrop ..); · decide)
    | (with_reducible apply Eff.after (eff_setChk ..); · decide)
    | (with_reducible apply Eff.after (eff_resetHarts ..); · decide)
    | (with_reducible apply Eff.after (eff_wingMemory ..); · decide)
    | (with_reducible apply Eff.after (eff_corReset ..); · decide)
    | (with_reducible apply Eff.after (eff_taintAll ..); · decide)
    | intro _
    | extract_lets
    | with_reducible apply Eff.ite
    | with_reducible apply Eff.fold
    | (fail_if_no_progress ((with_reducible refine Eff.upd ?_ rfl rfl rfl rfl rfl rfl rfl rfl rfl rfl ?_); rotate_left; exact rfl))
    | (with_reducible refine Eff.iteSnd (by assumption) ?_ ?_)
    | with_reducible apply Eff.foldSnd
    | with_reducible apply Eff.foldFst
    | with_reducible apply Eff.foldThird

theorem eff_chipReset (m : Module) : Eff [.clk, .beat, .queues, .counts, .gates, .outstanding, .harts, .gal, .bal, .ris, .win, .lnd, .nwl, .mem, .flt, .arc, .vote, .vst, .mir, .wdg, .chk, .hlt, .cor, .pci, .tray, .dbg, .out] m (chipReset m) := by
  unfold chipReset
  iterate 24 all_goals try first
    | with_reducible exact Eff.refl _
    | with_reducible assumption
    | (with_reducible apply Eff.after (eff_wingReset ..); · decide)
    | (with_reducible apply Eff.after (eff_zeroSeeds ..); · decide)
    | (with_reducible apply Eff.after (eff_setFlt ..); · decide)
    | intro _
    | extract_lets
    | with_reducible apply Eff.ite
    | with_reducible apply Eff.fold
    | (fail_if_no_progress ((with_reducible refine Eff.upd ?_ rfl rfl rfl rfl rfl rfl rfl rfl rfl rfl ?_); rotate_left; exact rfl))
    | split
    | (with_reducible refine Eff.iteSnd (by assumption) ?_ ?_)
    | dsimp only
    | dsimp +zetaDelta only
    | with_reducible apply Eff.foldSnd
    | with_reducible apply Eff.foldFst
    | with_reducible apply Eff.foldThird

theorem eff_placeOrder (d : Dom) (level : Nat) (cause : Nat) (m : Module) : Eff [.wdg] m (placeOrder d level cause m) := by
  unfold placeOrder
  iterate 24 all_goals try first
    | with_reducible exact Eff.refl _
    | with_reducible assumption
    | intro _
    | extract_lets
    | with_reducible apply Eff.ite
    | (fail_if_no_progress ((with_reducible refine Eff.upd ?_ rfl rfl rfl rfl rfl rfl rfl rfl rfl rfl ?_); rotate_left; exact rfl))
    | split
    | dsimp only
    | dsimp +zetaDelta only

theorem eff_orderReset (d : Dom) (level : Nat) (cause : Nat) (m : Module) : Eff [.vst, .wdg, .hlt, .pci, .tray, .dbg, .out] m (orderReset d level cause m) := by
  unfold orderReset
  iterate 24 all_goals try first
    | with_reducible exact Eff.refl _
    | with_reducible assumption
    | (with_reducible apply Eff.after (eff_domEv ..); · decide)
    | (with_reducible apply Eff.after (eff_placeOrder ..); · decide)
    | intro _
    | extract_lets
    | with_reducible apply Eff.ite
    | with_reducible apply Eff.fold
    | (fail_if_no_progress ((with_reducible refine Eff.upd ?_ rfl rfl rfl rfl rfl rfl rfl rfl rfl rfl ?_); rotate_left; exact rfl))
    | split
    | (with_reducible refine Eff.iteSnd (by assumption) ?_ ?_)
    | dsimp only
    | dsimp +zetaDelta only
    | with_reducible apply Eff.foldSnd
    | with_reducible apply Eff.foldFst
    | with_reducible apply Eff.foldThird

theorem eff_wdgBad (m : Module) : Eff [.wdg] m (wdgBad m) := by
  unfold wdgBad
  iterate 24 all_goals try first
    | with_reducible exact Eff.refl _
    | with_reducible assumption
    | intro _
    | extract_lets
    | with_reducible apply Eff.ite
    | (fail_if_no_progress ((with_reducible refine Eff.upd ?_ rfl rfl rfl rfl rfl rfl rfl rfl rfl rfl ?_); rotate_left; exact rfl))
    | split
    | dsimp only
    | dsimp +zetaDelta only

theorem eff_powerRequest (cause : Nat) (m : Module) : Eff [.vst, .wdg, .hlt, .pci, .tray, .dbg, .out] m (powerRequest cause m) := by
  unfold powerRequest
  iterate 24 all_goals try first
    | with_reducible exact Eff.refl _
    | with_reducible assumption
    | (with_reducible apply Eff.after (eff_wdgBad ..); · decide)
    | (with_reducible apply Eff.after (eff_ev ..); · decide)
    | intro _
    | extract_lets
    | with_reducible apply Eff.ite
    | (fail_if_no_progress ((with_reducible refine Eff.upd ?_ rfl rfl rfl rfl rfl rfl rfl rfl rfl rfl ?_); rotate_left; exact rfl))
    | split
    | dsimp only
    | dsimp +zetaDelta only

theorem eff_resetDom (d : Dom) (m : Module) : Eff [.clk, .beat, .queues, .counts, .gates, .outstanding, .harts, .gal, .bal, .ris, .win, .lnd, .nwl, .mem, .flt, .arc, .vote, .vst, .mir, .wdg, .chk, .hlt, .cor, .pci, .tray, .dbg, .out] m (resetDom d m) := by
  unfold resetDom
  iterate 24 all_goals try first
    | with_reducible exact Eff.refl _
    | with_reducible assumption
    | (with_reducible apply Eff.after (eff_ctxReset ..); · decide)
    | (with_reducible apply Eff.after (eff_engineReset ..); · decide)
    | (with_reducible apply Eff.after (eff_partitionReset ..); · decide)
    | (with_reducible apply Eff.after (eff_wingReset ..); · decide)
    | (with_reducible apply Eff.after (eff_chipReset ..); · decide)
    | intro _
    | extract_lets
    | with_reducible apply Eff.ite
    | (fail_if_no_progress ((with_reducible refine Eff.upd ?_ rfl rfl rfl rfl rfl rfl rfl rfl rfl rfl ?_); rotate_left; exact rfl))
    | split
    | dsimp only
    | dsimp +zetaDelta only

theorem eff_perform (o : ResetOrder) (m : Module) : Eff [.clk, .beat, .queues, .counts, .gates, .outstanding, .harts, .gal, .bal, .ris, .win, .lnd, .nwl, .mem, .flt, .arc, .vote, .vst, .mir, .wdg, .chk, .hlt, .cor, .pci, .tray, .dbg, .out] m (perform o m) := by
  unfold perform
  iterate 24 all_goals try first
    | with_reducible exact Eff.refl _
    | with_reducible assumption
    | (with_reducible apply Eff.after (eff_powerRequest ..); · decide)
    | (with_reducible apply Eff.after (eff_resetDom ..); · decide)
    | intro _
    | extract_lets
    | with_reducible apply Eff.ite
    | (fail_if_no_progress ((with_reducible refine Eff.upd ?_ rfl rfl rfl rfl rfl rfl rfl rfl rfl rfl ?_); rotate_left; exact rfl))
    | split
    | dsimp only
    | dsimp +zetaDelta only

theorem eff_resetCommand (d : Dom) (level : Nat) (m : Module) : Eff [.vst, .wdg, .hlt, .pci, .tray, .dbg, .out] m (resetCommand d level m) := by
  unfold resetCommand
  iterate 24 all_goals try first
    | with_reducible exact Eff.refl _
    | with_reducible assumption
    | (with_reducible apply Eff.after (eff_wdgBad ..); · decide)
    | (with_reducible apply Eff.after (eff_orderReset ..); · decide)
    | intro _
    | extract_lets
    | with_reducible apply Eff.ite
    | split
    | dsimp only
    | dsimp +zetaDelta only

theorem eff_resetCmd (val : W64) (m : Module) : Eff [.vst, .wdg, .hlt, .pci, .tray, .dbg, .out] m (resetCmd val m) := by
  unfold resetCmd
  iterate 24 all_goals try first
    | with_reducible exact Eff.refl _
    | with_reducible assumption
    | (with_reducible apply Eff.after (eff_wdgBad ..); · decide)
    | (with_reducible apply Eff.after (eff_resetCommand ..); · decide)
    | intro _
    | extract_lets
    | with_reducible apply Eff.ite
    | (fail_if_no_progress ((with_reducible refine Eff.upd ?_ rfl rfl rfl rfl rfl rfl rfl rfl rfl rfl ?_); rotate_left; exact rfl))
    | split
    | dsimp only
    | dsimp +zetaDelta only

theorem eff_performOrdered (d : Dom) (level : Nat) (m : Module) : ∀ c, performOrdered d level m = some c → Eff [.clk, .beat, .queues, .counts, .gates, .outstanding, .harts, .gal, .bal, .ris, .win, .lnd, .nwl, .mem, .flt, .arc, .vote, .vst, .mir, .wdg, .chk, .hlt, .cor, .pci, .tray, .dbg, .out] m c := by
  intro c h
  unfold performOrdered at h
  try dsimp only at h
  repeat' split at h
  all_goals first
    | (simp only [reduceCtorEq] at h; done)
    | (simp only [Option.some.injEq] at h; subst h)
    | skip
  iterate 24 all_goals try first
    | with_reducible exact Eff.refl _
    | with_reducible assumption
    | (with_reducible apply Eff.after (eff_perform ..); · decide)
    | intro _
    | extract_lets
    | with_reducible apply Eff.ite
    | (fail_if_no_progress ((with_reducible refine Eff.upd ?_ rfl rfl rfl rfl rfl rfl rfl rfl rfl rfl ?_); rotate_left; exact rfl))
    | split
    | dsimp only
    | dsimp +zetaDelta only

theorem eff_resetRow (d : Dom) (level : Nat) (m : Module) : Eff [.clk, .beat, .queues, .counts, .gates, .outstanding, .harts, .gal, .bal, .ris, .win, .lnd, .nwl, .mem, .flt, .arc, .vote, .vst, .mir, .wdg, .chk, .hlt, .cor, .pci, .tray, .dbg, .out] m (resetRow d level m) := by
  unfold resetRow
  iterate 24 all_goals try first
    | with_reducible exact Eff.refl _
    | with_reducible assumption
    | (with_reducible apply Eff.opt (eff_performOrdered _ _ _); with_reducible assumption; · decide)
    | (with_reducible apply Eff.after (eff_resetCommand ..); · decide)
    | intro _
    | extract_lets
    | with_reducible apply Eff.ite
    | (fail_if_no_progress ((with_reducible refine Eff.upd ?_ rfl rfl rfl rfl rfl rfl rfl rfl rfl rfl ?_); rotate_left; exact rfl))
    | split
    | dsimp only
    | dsimp +zetaDelta only

theorem eff_execContextReset (part : Fin 16) (ctx : Fin 8) (s : State) : EffOut [.clk, .beat, .queues, .counts, .gates, .outstanding, .harts, .gal, .bal, .ris, .win, .lnd, .nwl, .mem, .flt, .arc, .vote, .vst, .mir, .wdg, .chk, .hlt, .cor, .pci, .tray, .dbg, .out] s (execContextReset part ctx s) := by
  unfold execContextReset
  iterate 24 all_goals try first
    | with_reducible exact EffOut.stop
    | with_reducible exact EffOut.ill
    | with_reducible refine EffOut.done ?_
    | with_reducible exact Eff.refl _
    | with_reducible assumption
    | (with_reducible apply Eff.after (eff_resetRow ..); · decide)
    | exact (eff_done ..).mono (by decide)
    | intro _
    | extract_lets
    | with_reducible apply Eff.ite
    | split
    | dsimp only
    | dsimp +zetaDelta only

theorem eff_execEngineReset (cls : EngCls) (idx : Nat) (s : State) : EffOut [.clk, .beat, .queues, .counts, .gates, .outstanding, .harts, .gal, .bal, .ris, .win, .lnd, .nwl, .mem, .flt, .arc, .vote, .vst, .mir, .wdg, .chk, .hlt, .cor, .pci, .tray, .dbg, .out] s (execEngineReset cls idx s) := by
  unfold execEngineReset
  iterate 24 all_goals try first
    | with_reducible exact EffOut.stop
    | with_reducible exact EffOut.ill
    | with_reducible refine EffOut.done ?_
    | with_reducible exact Eff.refl _
    | with_reducible assumption
    | (with_reducible apply Eff.after (eff_resetRow ..); · decide)
    | exact (eff_done ..).mono (by decide)
    | intro _
    | extract_lets
    | with_reducible apply Eff.ite
    | split
    | dsimp only
    | dsimp +zetaDelta only

theorem eff_execPartitionReset (part : Fin 16) (s : State) : EffOut [.clk, .beat, .queues, .counts, .gates, .outstanding, .harts, .gal, .bal, .ris, .win, .lnd, .nwl, .mem, .flt, .arc, .vote, .vst, .mir, .wdg, .chk, .hlt, .cor, .pci, .tray, .dbg, .out] s (execPartitionReset part s) := by
  unfold execPartitionReset
  iterate 24 all_goals try first
    | with_reducible exact EffOut.stop
    | with_reducible exact EffOut.ill
    | with_reducible refine EffOut.done ?_
    | with_reducible exact Eff.refl _
    | with_reducible assumption
    | (with_reducible apply Eff.after (eff_resetRow ..); · decide)
    | exact (eff_done ..).mono (by decide)
    | intro _
    | extract_lets
    | with_reducible apply Eff.ite
    | split
    | dsimp only
    | dsimp +zetaDelta only

theorem eff_execWingReset (w : Fin 2) (s : State) : EffOut [.clk, .beat, .queues, .counts, .gates, .outstanding, .harts, .gal, .bal, .ris, .win, .lnd, .nwl, .mem, .flt, .arc, .vote, .vst, .mir, .wdg, .chk, .hlt, .cor, .pci, .tray, .dbg, .out] s (execWingReset w s) := by
  unfold execWingReset
  iterate 24 all_goals try first
    | with_reducible exact EffOut.stop
    | with_reducible exact EffOut.ill
    | with_reducible refine EffOut.done ?_
    | with_reducible exact Eff.refl _
    | with_reducible assumption
    | (with_reducible apply Eff.after (eff_resetRow ..); · decide)
    | exact (eff_done ..).mono (by decide)
    | intro _
    | extract_lets
    | with_reducible apply Eff.ite
    | split
    | dsimp only
    | dsimp +zetaDelta only

theorem eff_execChipReset (s : State) : EffOut [.clk, .beat, .queues, .counts, .gates, .outstanding, .harts, .gal, .bal, .ris, .win, .lnd, .nwl, .mem, .flt, .arc, .vote, .vst, .mir, .wdg, .chk, .hlt, .cor, .pci, .tray, .dbg, .out] s (execChipReset s) := by
  unfold execChipReset
  iterate 24 all_goals try first
    | with_reducible exact EffOut.stop
    | with_reducible exact EffOut.ill
    | with_reducible refine EffOut.done ?_
    | with_reducible exact Eff.refl _
    | with_reducible assumption
    | (with_reducible apply Eff.after (eff_resetRow ..); · decide)
    | exact (eff_done ..).mono (by decide)
    | intro _
    | extract_lets
    | with_reducible apply Eff.ite
    | split
    | dsimp only
    | dsimp +zetaDelta only

theorem eff_execPowerCycleRequest (s : State) : EffOut [.clk, .beat, .queues, .counts, .gates, .outstanding, .harts, .gal, .bal, .ris, .win, .lnd, .nwl, .mem, .flt, .arc, .vote, .vst, .mir, .wdg, .chk, .hlt, .cor, .pci, .tray, .dbg, .out] s (execPowerCycleRequest s) := by
  unfold execPowerCycleRequest
  iterate 24 all_goals try first
    | with_reducible exact EffOut.stop
    | with_reducible exact EffOut.ill
    | with_reducible refine EffOut.done ?_
    | with_reducible exact Eff.refl _
    | with_reducible assumption
    | (with_reducible apply Eff.after (eff_resetRow ..); · decide)
    | exact (eff_done ..).mono (by decide)
    | intro _
    | extract_lets
    | with_reducible apply Eff.ite
    | split
    | dsimp only
    | dsimp +zetaDelta only

theorem eff_execPwrcycReqNAssert (s : State) : EffOut [.clk, .beat, .mem, .wdg, .hlt, .cor, .tray, .dbg, .out] s (execPwrcycReqNAssert s) := by
  unfold execPwrcycReqNAssert
  iterate 24 all_goals try first
    | with_reducible exact EffOut.stop
    | with_reducible exact EffOut.ill
    | with_reducible refine EffOut.done ?_
    | with_reducible exact Eff.refl _
    | with_reducible assumption
    | (with_reducible apply Eff.after (eff_passTo ..); · decide)
    | (with_reducible apply Eff.after (eff_writeBreath ..); · decide)
    | exact (eff_done ..).mono (by decide)
    | intro _
    | extract_lets
    | with_reducible apply Eff.ite
    | (fail_if_no_progress ((with_reducible refine Eff.upd ?_ rfl rfl rfl rfl rfl rfl rfl rfl rfl rfl ?_); rotate_left; exact rfl))
    | split
    | dsimp only
    | dsimp +zetaDelta only

theorem eff_hltWdg (x : Hlt) (y : Wdg) (m : Module) : Eff [.wdg, .hlt] m { m with hlt := x, wdg := y } := .of_keeps (.of_core rfl) rfl

theorem eff_execPwrcycOverdue (s : State) : EffOut [.clk, .beat, .mem, .wdg, .hlt, .cor, .dbg, .out] s (execPwrcycOverdue s) := by
  rw [execPwrcycOverdue]
  split
  · exact .stop
  · split
    · exact .stop
    · exact .done (((eff_passTo ..).mono (by decide)).trans ((eff_hltWdg ..).mono (by decide)))

theorem eff_execAonWatchdogFire (s : State) : EffOut [.vst, .wdg, .hlt, .pci, .tray, .dbg, .out] s (execAonWatchdogFire s) := by
  unfold execAonWatchdogFire
  iterate 24 all_goals try first
    | with_reducible exact EffOut.stop
    | with_reducible exact EffOut.ill
    | with_reducible refine EffOut.done ?_
    | with_reducible exact Eff.refl _
    | with_reducible assumption
    | (with_reducible apply Eff.after (eff_powerRequest ..); · decide)
    | exact (eff_done ..).mono (by decide)
    | intro _
    | extract_lets
    | with_reducible apply Eff.ite
    | split
    | dsimp only
    | dsimp +zetaDelta only

theorem eff_dropRunning (d : Dom) (m : Module) : Eff [.wdg] m (dropRunning d m) := by
  unfold dropRunning
  iterate 24 all_goals try first
    | with_reducible exact Eff.refl _
    | with_reducible assumption
    | intro _
    | extract_lets
    | with_reducible apply Eff.ite
    | (fail_if_no_progress ((with_reducible refine Eff.upd ?_ rfl rfl rfl rfl rfl rfl rfl rfl rfl rfl ?_); rotate_left; exact rfl))
    | split
    | dsimp only
    | dsimp +zetaDelta only

theorem eff_wingBack (w : Nat) (m : Module) : Eff [.nwl, .mem, .hlt] m (wingBack w m) := by
  unfold wingBack
  iterate 24 all_goals try first
    | with_reducible exact Eff.refl _
    | with_reducible assumption
    | (with_reducible apply Eff.after (eff_updMemUnit ..); · decide)
    | (with_reducible apply Eff.after (eff_marginRec ..); · decide)
    | (with_reducible apply Eff.after (eff_setNwl ..); · decide)
    | intro _
    | extract_lets
    | with_reducible apply Eff.ite
    | with_reducible apply Eff.fold
    | (fail_if_no_progress ((with_reducible refine Eff.upd ?_ rfl rfl rfl rfl rfl rfl rfl rfl rfl rfl ?_); rotate_left; exact rfl))
    | split
    | (with_reducible refine Eff.iteSnd (by assumption) ?_ ?_)
    | dsimp only
    | dsimp +zetaDelta only
    | with_reducible apply Eff.foldSnd
    | with_reducible apply Eff.foldFst
    | with_reducible apply Eff.foldThird

theorem eff_phaseGap (d : Dom) (m : Module) : Eff [.wdg] m (phaseGap d m) := by
  unfold phaseGap
  iterate 24 all_goals try first
    | with_reducible exact Eff.refl _
    | with_reducible assumption
    | intro _
    | extract_lets
    | with_reducible apply Eff.ite
    | (fail_if_no_progress ((with_reducible refine Eff.upd ?_ rfl rfl rfl rfl rfl rfl rfl rfl rfl rfl ?_); rotate_left; exact rfl))
    | split
    | dsimp only
    | dsimp +zetaDelta only

theorem eff_domBack (d : Dom) (m : Module) : Eff [.nwl, .mem, .wdg, .hlt] m (domBack d m) := by
  unfold domBack
  iterate 24 all_goals try first
    | with_reducible exact Eff.refl _
    | with_reducible assumption
    | (with_reducible apply Eff.after (eff_wingBack ..); · decide)
    | (with_reducible apply Eff.after (eff_phaseGap ..); · decide)
    | intro _
    | extract_lets
    | with_reducible apply Eff.ite
    | (fail_if_no_progress ((with_reducible refine Eff.upd ?_ rfl rfl rfl rfl rfl rfl rfl rfl rfl rfl ?_); rotate_left; exact rfl))
    | split
    | dsimp only
    | dsimp +zetaDelta only

theorem eff_resetEnds (r : ResetRec) (m : Module) : Eff [.nwl, .mem, .vst, .wdg, .hlt, .pci, .tray, .dbg, .out] m (resetEnds r m) := by
  unfold resetEnds
  iterate 24 all_goals try first
    | with_reducible exact Eff.refl _
    | with_reducible assumption
    | (with_reducible apply Eff.after (eff_domBack ..); · decide)
    | (with_reducible apply Eff.after (eff_dropRunning ..); · decide)
    | (with_reducible apply Eff.after (eff_domEv ..); · decide)
    | intro _
    | extract_lets
    | with_reducible apply Eff.ite
    | split
    | dsimp only
    | dsimp +zetaDelta only

theorem eff_execResetDone (d : Dom) (s : State) : EffOut [.clk, .beat, .nwl, .mem, .vst, .wdg, .hlt, .cor, .pci, .tray, .dbg, .out] s (execResetDone d s) := by
  unfold execResetDone
  iterate 24 all_goals try first
    | with_reducible exact EffOut.stop
    | with_reducible exact EffOut.ill
    | with_reducible refine EffOut.done ?_
    | with_reducible exact Eff.refl _
    | with_reducible assumption
    | (with_reducible apply Eff.after (eff_resetEnds ..); · decide)
    | (with_reducible apply Eff.after (eff_passTo ..); · decide)
    | exact (eff_done ..).mono (by decide)
    | intro _
    | extract_lets
    | with_reducible apply Eff.ite
    | (fail_if_no_progress ((with_reducible refine Eff.upd ?_ rfl rfl rfl rfl rfl rfl rfl rfl rfl rfl ?_); rotate_left; exact rfl))
    | split
    | dsimp only
    | dsimp +zetaDelta only

end Sys2Proof.Laws
end

