-- ==== Sys2Proof/Laws/EffApply.lean ====
section
/-! SUPPORT. What the operations of Apply.lean keep, and what they may change. -/

namespace Sys2Proof.Laws
open Sys2Proof.Machine

theorem eff_dropDown (m0 : Module) (t : Struct) (p : Nat) (m : Module) : Eff [.mem, .flt] m (dropDown m0 t p m) := by
  unfold dropDown
  iterate 24 all_goals try first
    | with_reducible exact Eff.refl _
    | with_reducible assumption
    | (with_reducible apply Eff.after (eff_dropLine ..); · decide)
    | (with_reducible apply Eff.after (eff_wasteMarks ..); · decide)
    | intro _
    | extract_lets
    | with_reducible apply Eff.ite
    | with_reducible apply Eff.fold
    | split
    | (with_reducible refine Eff.iteSnd (by assumption) ?_ ?_)
    | dsimp only
    | dsimp +zetaDelta only
    | with_reducible apply Eff.foldSnd
    | with_reducible apply Eff.foldFst
    | with_reducible apply Eff.foldThird

theorem eff_refuseApply (service : Bool) (t : Struct) (code : Nat) (m : Module) : Eff [.img, .vst, .hlt, .pci, .tray, .dbg, .out] m (refuseApply service t code m) := by
  unfold refuseApply
  iterate 24 all_goals try first
    | with_reducible exact Eff.refl _
    | with_reducible assumption
    | (with_reducible apply Eff.after (eff_applyRefused ..); · decide)
    | intro _
    | extract_lets
    | with_reducible apply Eff.ite
    | (fail_if_no_progress ((with_reducible refine Eff.upd ?_ rfl rfl rfl rfl rfl rfl rfl rfl rfl rfl ?_); rotate_left; exact rfl))
    | split
    | dsimp only
    | dsimp +zetaDelta only

theorem eff_retiredOwned (service : Bool) (ch : List (Nat × Nat)) (t : Struct) (m : Module) : Eff [.vst, .hlt, .pci, .tray, .dbg, .out] m (retiredOwned service ch t m) := by
  unfold retiredOwned
  iterate 24 all_goals try first
    | with_reducible exact Eff.refl _
    | with_reducible assumption
    | (with_reducible apply Eff.after (eff_ev ..); · decide)
    | intro _
    | extract_lets
    | with_reducible apply Eff.ite
    | with_reducible apply Eff.fold
    | (fail_if_no_progress ((with_reducible refine Eff.upd ?_ rfl rfl rfl rfl rfl rfl rfl rfl rfl rfl ?_); rotate_left; exact rfl))
    | split
    | (with_reducible refine Eff.iteSnd (by assumption) ?_ ?_)
    | dsimp only
    | dsimp +zetaDelta only
    | with_reducible apply Eff.foldSnd
    | with_reducible apply Eff.foldFst
    | with_reducible apply Eff.foldThird

theorem eff_unpoison (tier : Nat) (u : Nat) (m : Module) : Eff [.mem] m (unpoison tier u m) := by
  unfold unpoison
  iterate 24 all_goals try first
    | with_reducible exact Eff.refl _
    | with_reducible assumption
    | intro _
    | extract_lets
    | with_reducible apply Eff.ite
    | (fail_if_no_progress ((with_reducible refine Eff.upd ?_ rfl rfl rfl rfl rfl rfl rfl rfl rfl rfl ?_); rotate_left; exact rfl))
    | split
    | dsimp only
    | dsimp +zetaDelta only

theorem eff_memChange (t : Struct) (was : Struct) (x : Nat × Nat) (m : Module) : Eff [.mem] m (memChange t was x m) := by
  unfold memChange
  iterate 24 all_goals try first
    | with_reducible exact Eff.refl _
    | with_reducible assumption
    | (with_reducible apply Eff.after (eff_unpoison ..); · decide)
    | (with_reducible apply Eff.after (eff_zeroUnit ..); · decide)
    | (with_reducible apply Eff.after (eff_loseUnit ..); · decide)
    | intro _
    | extract_lets
    | with_reducible apply Eff.ite
    | split
    | dsimp only
    | dsimp +zetaDelta only

theorem eff_engineChange (x : Nat × Nat) (m : Module) : Eff [.harts, .gal, .bal, .ris, .win, .lnd, .nwl, .mem, .flt, .arc, .vote, .vst, .chk, .hlt, .pci, .tray, .dbg, .out] m (engineChange x m) := by
  unfold engineChange
  iterate 24 all_goals try first
    | with_reducible exact Eff.refl _
    | with_reducible assumption
    | (with_reducible apply Eff.after (eff_resetHarts ..); · decide)
    | (with_reducible apply Eff.after (eff_clearEngine ..); · decide)
    | intro _
    | extract_lets
    | with_reducible apply Eff.ite
    | with_reducible apply Eff.fold
    | split
    | (with_reducible refine Eff.iteSnd (by assumption) ?_ ?_)
    | dsimp only
    | dsimp +zetaDelta only
    | with_reducible apply Eff.foldSnd
    | with_reducible apply Eff.foldFst
    | with_reducible apply Eff.foldThird

theorem eff_memKeys (x : NMap ℕ) (y : ℕ) (m : Module) : Eff [.mem] m { m with mem := { m.mem with keyId := x, nextKey := y } } :=
  .of_keeps (.of_core rfl) rfl

theorem eff_enablePart (p : ℕ) (m : Module) : Eff [.queues, .counts, .gates, .outstanding, .harts, .gal, .bal, .ris, .win, .lnd, .nwl, .mem, .flt, .arc, .vote, .vst, .mir, .wdg, .chk, .hlt, .pci, .tray, .dbg, .out] m (enablePart p m) := by
  rw [enablePart]
  exact ((eff_partitionReset ..).mono (by decide)).trans ((eff_memKeys ..).mono (by decide))

theorem eff_disablePart (p : Nat) (m : Module) : Eff [.queues, .sec] m (disablePart p m) := by
  unfold disablePart
  iterate 24 all_goals try first
    | with_reducible exact Eff.refl _
    | with_reducible assumption
    | (with_reducible apply Eff.after (eff_ckeyClear ..); · decide)
    | (with_reducible apply Eff.after (eff_dropDescs ..); · decide)
    | intro _
    | extract_lets
    | with_reducible apply Eff.ite
    | split
    | dsimp only
    | dsimp +zetaDelta only

theorem eff_applySlices (t : Struct) (m : Module) : Eff [.rte, .sec] m (applySlices t m) := by
  unfold applySlices
  iterate 24 all_goals try first
    | with_reducible exact Eff.refl _
    | with_reducible assumption
    | intro _
    | extract_lets
    | with_reducible apply Eff.ite
    | with_reducible apply Eff.fold
    | (fail_if_no_progress ((with_reducible refine Eff.upd ?_ rfl rfl rfl rfl rfl rfl rfl rfl rfl rfl ?_); rotate_left; exact rfl))
    | split
    | (with_reducible refine Eff.iteSnd (by assumption) ?_ ?_)
    | dsimp only
    | dsimp +zetaDelta only
    | with_reducible apply Eff.foldSnd
    | with_reducible apply Eff.foldFst
    | with_reducible apply Eff.foldThird

theorem eff_regionStart (moved : Bool) (m : Module) : Eff [.dbg] m (regionStart moved m) := by
  unfold regionStart
  iterate 24 all_goals try first
    | with_reducible exact Eff.refl _
    | with_reducible assumption
    | intro _
    | extract_lets
    | with_reducible apply Eff.ite
    | (fail_if_no_progress ((with_reducible refine Eff.upd ?_ rfl rfl rfl rfl rfl rfl rfl rfl rfl rfl ?_); rotate_left; exact rfl))
    | split
    | dsimp only
    | dsimp +zetaDelta only

theorem eff_imgApplied (f : ImgFile) (t : Struct) (m : Module) : Eff [.img] m (imgApplied f t m) := by
  unfold imgApplied
  iterate 24 all_goals try first
    | with_reducible exact Eff.refl _
    | with_reducible assumption
    | intro _
    | extract_lets
    | with_reducible apply Eff.ite
    | (fail_if_no_progress ((with_reducible refine Eff.upd ?_ rfl rfl rfl rfl rfl rfl rfl rfl rfl rfl ?_); rotate_left; exact rfl))
    | split
    | dsimp only
    | dsimp +zetaDelta only

theorem eff_applyRecords (f : ImgFile) (ps : List Nat) (late : Option Beat) (m : Module) : Eff [.vst, .hlt, .pci, .tray, .dbg, .out] m (applyRecords f ps late m) := by
  unfold applyRecords
  iterate 24 all_goals try first
    | with_reducible exact Eff.refl _
    | with_reducible assumption
    | (with_reducible apply Eff.after (eff_imgEv ..); · decide)
    | (with_reducible apply Eff.after (eff_ev ..); · decide)
    | intro _
    | extract_lets
    | with_reducible apply Eff.ite
    | with_reducible apply Eff.fold
    | (fail_if_no_progress ((with_reducible refine Eff.upd ?_ rfl rfl rfl rfl rfl rfl rfl rfl rfl rfl ?_); rotate_left; exact rfl))
    | split
    | (with_reducible refine Eff.iteSnd (by assumption) ?_ ?_)
    | dsimp only
    | dsimp +zetaDelta only
    | with_reducible apply Eff.foldSnd
    | with_reducible apply Eff.foldFst
    | with_reducible apply Eff.foldThird

theorem eff_applyStruct (f : ImgFile) (t : Struct) (m : Module) : Eff [.img, .queues, .counts, .gates, .outstanding, .harts, .gal, .bal, .ris, .win, .lnd, .nwl, .mem, .flt, .rte, .arc, .vote, .vst, .mir, .wdg, .chk, .hlt, .sec, .pci, .tray, .dbg, .out] m (applyStruct f t m) := by
  unfold applyStruct
  iterate 80 all_goals try first
    | with_reducible exact Eff.refl _
    | with_reducible assumption
    | (with_reducible apply Eff.after (eff_invalidateCache ..); · decide)
    | (with_reducible apply Eff.after (eff_dropDown ..); · decide)
    | (with_reducible apply Eff.after (eff_imgApplied ..); · decide)
    | (with_reducible apply Eff.after (eff_engineChange ..); · decide)
    | (with_reducible apply Eff.after (eff_memChange ..); · decide)
    | (with_reducible apply Eff.after (eff_disablePart ..); · decide)
    | (with_reducible apply Eff.after (eff_enablePart ..); · decide)
    | (with_reducible apply Eff.after (eff_sinkCheck ..); · decide)
    | (with_reducible apply Eff.after (eff_regionStart ..); · decide)
    | (with_reducible apply Eff.after (eff_applySlices ..); · decide)
    | (with_reducible apply Eff.after (eff_gateSweep ..); · decide)
    | (with_reducible apply Eff.after (eff_retiredOwned ..); · decide)
    | (with_reducible apply Eff.after (eff_applyRecords ..); · decide)
    | intro _
    | extract_lets
    | with_reducible apply Eff.ite
    | with_reducible apply Eff.fold
    | (fail_if_no_progress ((with_reducible refine Eff.upd ?_ rfl rfl rfl rfl rfl rfl rfl rfl rfl rfl ?_); rotate_left; exact rfl))
    | split
    | (with_reducible refine Eff.iteSnd (by assumption) ?_ ?_)
    | with_reducible apply Eff.foldSnd
    | with_reducible apply Eff.foldFst
    | with_reducible apply Eff.foldThird

theorem eff_execApply (s : State) : EffOut [.clk, .img, .beat, .queues, .counts, .gates, .outstanding, .harts, .gal, .bal, .ris, .win, .lnd, .nwl, .mem, .flt, .rte, .arc, .vote, .vst, .mir, .wdg, .chk, .hlt, .cor, .sec, .pci, .tray, .dbg, .out] s (execApply s) := by
  unfold execApply
  iterate 24 all_goals try first
    | with_reducible exact EffOut.stop
    | with_reducible exact EffOut.ill
    | with_reducible refine EffOut.done ?_
    | with_reducible exact Eff.refl _
    | with_reducible assumption
    | (with_reducible apply Eff.after (eff_passToBeat ..); · decide)
    | (with_reducible apply Eff.after (eff_applyRefused ..); · decide)
    | (with_reducible apply Eff.after (eff_refuseApply ..); · decide)
    | (with_reducible apply Eff.after (eff_applyStruct ..); · decide)
    | exact (eff_done ..).mono (by decide)
    | intro _
    | extract_lets
    | with_reducible apply Eff.ite
    | (fail_if_no_progress ((with_reducible refine Eff.upd ?_ rfl rfl rfl rfl rfl rfl rfl rfl rfl rfl ?_); rotate_left; exact rfl))
    | split
    | dsimp only
    | dsimp +zetaDelta only

theorem eff_ready (m : Module) : Eff [.vst, .hlt, .pci, .tray, .dbg, .out] m (ready m) := by
  unfold ready
  iterate 24 all_goals try first
    | with_reducible exact Eff.refl _
    | with_reducible assumption
    | (with_reducible apply Eff.after (eff_ev ..); · decide)
    | intro _
    | extract_lets
    | with_reducible apply Eff.ite
    | (fail_if_no_progress ((with_reducible refine Eff.upd ?_ rfl rfl rfl rfl rfl rfl rfl rfl rfl rfl ?_); rotate_left; exact rfl))
    | split
    | dsimp only
    | dsimp +zetaDelta only

theorem eff_execScrubbed (s : State) : EffOut [.clk, .beat, .mem, .vst, .hlt, .cor, .sec, .pci, .tray, .dbg, .out] s (execScrubbed s) := by
  unfold execScrubbed
  iterate 24 all_goals try first
    | with_reducible exact EffOut.stop
    | with_reducible exact EffOut.ill
    | with_reducible refine EffOut.done ?_
    | with_reducible exact Eff.refl _
    | with_reducible assumption
    | (with_reducible apply Eff.after (eff_passTo ..); · decide)
    | (with_reducible apply Eff.after (eff_secEv ..); · decide)
    | (with_reducible apply Eff.after (eff_ready ..); · decide)
    | exact (eff_done ..).mono (by decide)
    | intro _
    | extract_lets
    | with_reducible apply Eff.ite
    | (fail_if_no_progress ((with_reducible refine Eff.upd ?_ rfl rfl rfl rfl rfl rfl rfl rfl rfl rfl ?_); rotate_left; exact rfl))
    | split
    | dsimp only
    | dsimp +zetaDelta only

end Sys2Proof.Laws
end

