-- ==== Sys2Proof/Laws/EffGalArr.lean ====
section
/-! SUPPORT. What the operations of GalArr.lean keep, and what they may change. -/

namespace Sys2Proof.Laws
open Sys2Proof.Machine

theorem eff_lockstep (g : Nat) (p : Nat) (m0 : Module) (m : Module) : Eff [.gal, .bal] m (lockstep g p m0 m) := by
  unfold lockstep
  iterate 24 all_goals try first
    | with_reducible exact Eff.refl _
    | with_reducible assumption
    | (with_reducible apply Eff.after (eff_setGal ..); · decide)
    | (with_reducible apply Eff.after (eff_setBal ..); · decide)
    | intro _
    | extract_lets
    | with_reducible apply Eff.ite
    | (fail_if_no_progress ((with_reducible refine Eff.upd ?_ rfl rfl rfl rfl rfl rfl rfl rfl rfl rfl ?_); rotate_left; exact rfl))
    | split
    | dsimp only
    | dsimp +zetaDelta only

end Sys2Proof.Laws
end

