-- ==== Sys2Proof/Laws/EffBal.lean ====
section
/-! SUPPORT. What the operations of Bal.lean keep, and what they may change. -/

namespace Sys2Proof.Laws
open Sys2Proof.Machine

theorem eff_eccBoth {l : List Part} {p u : ℕ} {hits : List EccHit} {f : ℕ → List EccHit → Module → Module} {a m : Module} (k : Eff l a m)
    (hf : ∀ u h m, Eff l m (f u h m)) : Eff l a (eccBoth p u hits f m) := by
  unfold eccBoth
  extract_lets m1
  have h : Eff l a m1 := k.trans (hf ..)
  split
  · exact h.trans (hf ..)
  · exact h

theorem eff_balEcc (d : Desc) (b : Nat) (hits : List EccHit) (m : Module) : Eff [.bal, .vst, .hlt, .pci, .tray, .dbg, .out] m (balEcc d b hits m) := by
  unfold balEcc
  iterate 24 all_goals try first
    | with_reducible exact Eff.refl _
    | with_reducible assumption
    | (with_reducible apply Eff.after (eff_eccEvents ..); · decide)
    | (with_reducible apply Eff.after (eff_setBal ..); · decide)
    | intro _
    | extract_lets
    | with_reducible apply Eff.ite
    | (fail_if_no_progress ((with_reducible refine Eff.upd ?_ rfl rfl rfl rfl rfl rfl rfl rfl rfl rfl ?_); rotate_left; exact rfl))
    | split
    | dsimp only
    | dsimp +zetaDelta only

theorem eff_settleBal (b : Nat) (m : Module) : Eff [.counts, .outstanding, .harts, .bal, .vst, .wdg, .hlt, .pci, .tray, .dbg, .out] m (settleBal b m) := by
  unfold settleBal
  iterate 24 all_goals try first
    | with_reducible exact Eff.refl _
    | with_reducible assumption
    | (with_reducible apply Eff.after (eff_setBal ..); · decide)
    | (with_reducible apply Eff.after (eff_complete ..); · decide)
    | intro _
    | extract_lets
    | with_reducible apply Eff.ite
    | with_reducible apply Eff.fold
    | (fail_if_no_progress ((with_reducible refine Eff.upd ?_ rfl rfl rfl rfl rfl rfl rfl rfl rfl rfl ?_); rotate_left; exact rfl))
    | split
    | (with_reducible refine Eff.iteSnd (by assumption) ?_ ?_)
    | dsimp only
    | dsimp +zetaDelta only
    | with_reducible apply Eff.foldSnd
    | with_reducible apply Eff.foldFst
    | with_reducible apply Eff.foldThird

theorem eff_balTurn (b : Nat) (m : Module) : Eff [.clk, .beat, .counts, .outstanding, .harts, .bal, .mem, .vst, .wdg, .hlt, .cor, .pci, .tray, .dbg, .out] m (balTurn b m) := by
  unfold balTurn
  iterate 24 all_goals try first
    | with_reducible exact Eff.refl _
    | with_reducible assumption
    | (with_reducible apply Eff.after (eff_settleBal ..); · decide)
    | (with_reducible apply Eff.after (eff_passToCycle ..); · decide)
    | intro _
    | extract_lets
    | with_reducible apply Eff.ite
    | (fail_if_no_progress ((with_reducible refine Eff.upd ?_ rfl rfl rfl rfl rfl rfl rfl rfl rfl rfl ?_); rotate_left; exact rfl))
    | split
    | dsimp only
    | dsimp +zetaDelta only

theorem eff_adpRefuse (b : Nat) (code : Nat) (d : Desc) (m : Module) : Eff [.clk, .beat, .counts, .outstanding, .harts, .bal, .mem, .vst, .wdg, .hlt, .cor, .pci, .tray, .dbg, .out] m (adpRefuse b code d m) := by
  unfold adpRefuse
  iterate 24 all_goals try first
    | with_reducible exact Eff.refl _
    | with_reducible assumption
    | (with_reducible apply Eff.after (eff_settleBal ..); · decide)
    | (with_reducible apply Eff.after (eff_passToCycle ..); · decide)
    | (with_reducible apply Eff.after (eff_bodyRefused ..); · decide)
    | (with_reducible apply Eff.after (eff_setBal ..); · decide)
    | intro _
    | extract_lets
    | with_reducible apply Eff.ite
    | (fail_if_no_progress ((with_reducible refine Eff.upd ?_ rfl rfl rfl rfl rfl rfl rfl rfl rfl rfl ?_); rotate_left; exact rfl))
    | split
    | dsimp only
    | dsimp +zetaDelta only

theorem eff_downEnd (b : Nat) (o : BalOp) (m : Module) : Eff [.counts, .outstanding, .harts, .bal, .vst, .wdg, .hlt, .pci, .tray, .dbg, .out] m (downEnd b o m) := by
  unfold downEnd
  iterate 24 all_goals try first
    | with_reducible exact Eff.refl _
    | with_reducible assumption
    | (with_reducible apply Eff.after (eff_settleBal ..); · decide)
    | (with_reducible apply Eff.after (eff_setBal ..); · decide)
    | intro _
    | extract_lets
    | with_reducible apply Eff.ite
    | (fail_if_no_progress ((with_reducible refine Eff.upd ?_ rfl rfl rfl rfl rfl rfl rfl rfl rfl rfl ?_); rotate_left; exact rfl))
    | split
    | dsimp only
    | dsimp +zetaDelta only

theorem eff_downRefuse (b : Nat) (code : Nat) (o : BalOp) (m : Module) : Eff [.counts, .outstanding, .harts, .bal, .vst, .wdg, .hlt, .pci, .tray, .dbg, .out] m (downRefuse b code o m) := by
  unfold downRefuse
  iterate 24 all_goals try first
    | with_reducible exact Eff.refl _
    | with_reducible assumption
    | (with_reducible apply Eff.after (eff_downEnd ..); · decide)
    | (with_reducible apply Eff.after (eff_ev ..); · decide)
    | (with_reducible apply Eff.after (eff_setBal ..); · decide)
    | intro _
    | extract_lets
    | with_reducible apply Eff.ite
    | (fail_if_no_progress ((with_reducible refine Eff.upd ?_ rfl rfl rfl rfl rfl rfl rfl rfl rfl rfl ?_); rotate_left; exact rfl))
    | split
    | dsimp only
    | dsimp +zetaDelta only

theorem eff_execSlots (b : Fin 64) (s : State) : EffOut [.clk, .beat, .queues, .counts, .outstanding, .harts, .gal, .bal, .mem, .vst, .wdg, .hlt, .cor, .pci, .tray, .dbg, .out] s (execSlots b s) := by
  unfold execSlots
  iterate 24 all_goals try first
    | with_reducible exact EffOut.stop
    | with_reducible exact EffOut.ill
    | with_reducible refine EffOut.done ?_
    | with_reducible exact Eff.refl _
    | with_reducible assumption
    | (with_reducible apply Eff.after (eff_balTurn ..); · decide)
    | (with_reducible apply Eff.after (eff_settleBal ..); · decide)
    | (with_reducible apply Eff.after (eff_dequeue ..); · decide)
    | (with_reducible apply Eff.after (eff_adpRefuse ..); · decide)
    | (with_reducible apply Eff.after (eff_descStart ..); · decide)
    | (with_reducible apply Eff.after (eff_passToCycle ..); · decide)
    | (with_reducible apply Eff.after (eff_setBal ..); · decide)
    | (with_reducible apply Eff.after (eff_complete ..); · decide)
    | (with_reducible apply Eff.after (eff_lockstep ..); · decide)
    | exact (eff_done ..).mono (by decide)
    | intro _
    | extract_lets
    | with_reducible apply Eff.ite
    | with_reducible apply Eff.fold
    | (fail_if_no_progress ((with_reducible refine Eff.upd ?_ rfl rfl rfl rfl rfl rfl rfl rfl rfl rfl ?_); rotate_left; exact rfl))
    | split
    | (with_reducible refine Eff.iteSnd (by assumption) ?_ ?_)
    | dsimp only
    | dsimp +zetaDelta only
    | with_reducible apply Eff.foldSnd
    | with_reducible apply Eff.foldFst
    | with_reducible apply Eff.foldThird

theorem eff_execDown (b : Fin 64) (s : State) : EffOut [.clk, .beat, .queues, .counts, .outstanding, .harts, .bal, .mem, .vst, .wdg, .hlt, .cor, .pci, .tray, .dbg, .out] s (execDown b s) := by
  unfold execDown
  iterate 24 all_goals try first
    | with_reducible exact EffOut.stop
    | with_reducible exact EffOut.ill
    | with_reducible refine EffOut.done ?_
    | with_reducible exact Eff.refl _
    | with_reducible assumption
    | (with_reducible apply Eff.after (eff_balTurn ..); · decide)
    | (with_reducible apply Eff.after (eff_settleBal ..); · decide)
    | (with_reducible apply Eff.after (eff_dequeue ..); · decide)
    | (with_reducible apply Eff.after (eff_adpRefuse ..); · decide)
    | (with_reducible apply Eff.after (eff_descStart ..); · decide)
    | (with_reducible apply Eff.after (eff_setBal ..); · decide)
    | exact (eff_done ..).mono (by decide)
    | intro _
    | extract_lets
    | with_reducible apply Eff.ite
    | (fail_if_no_progress ((with_reducible refine Eff.upd ?_ rfl rfl rfl rfl rfl rfl rfl rfl rfl rfl ?_); rotate_left; exact rfl))
    | split
    | dsimp only
    | dsimp +zetaDelta only

theorem eff_slotStations (w : Nat) (p : Nat) (kd : Nat) (kt : Nat) (int : Bool) (x : Bal) (m : Module) : Eff [.mem, .flt, .vst, .hlt, .cor, .pci, .tray, .dbg, .out] m (slotStations w p kd kt int x m).2.2 := by
  unfold slotStations
  iterate 24 all_goals try first
    | with_reducible exact Eff.refl _
    | with_reducible assumption
    | (with_reducible apply Eff.after (eff_readRows ..); · decide)
    | (with_reducible apply Eff.snd (eff_readRows ..); with_reducible assumption; · decide)
    | intro _
    | extract_lets
    | with_reducible apply Eff.ite
    | with_reducible apply Eff.fold
    | split
    | (with_reducible refine Eff.iteSnd (by assumption) ?_ ?_)
    | dsimp only
    | dsimp +zetaDelta only
    | with_reducible apply Eff.foldSnd
    | with_reducible apply Eff.foldFst
    | with_reducible apply Eff.foldThird

theorem eff_tap (g : Nat) (d : Desc) (kd : Nat) (c : Nat) (kt : Nat) (int : Bool) (row0 : Nat) (n : Nat) (stalls : Nat) (doneC : Nat) (ecc : List EccHit) (rows : List ActRow) (m : Module) : Eff [.counts, .outstanding, .harts, .bal, .mem, .flt, .vst, .wdg, .hlt, .cor, .pci, .tray, .dbg, .out] m (tap g d kd c kt int row0 n stalls doneC ecc rows m) := by
  unfold tap
  iterate 24 all_goals try first
    | with_reducible exact Eff.refl _
    | with_reducible assumption
    | (with_reducible apply Eff.after (eff_downEnd ..); · decide)
    | (with_reducible apply Eff.after (eff_ev ..); · decide)
    | (with_reducible apply Eff.after (eff_setBal ..); · decide)
    | (with_reducible apply Eff.after (eff_downRefuse ..); · decide)
    | (with_reducible apply Eff.after (eff_hallRead ..); · decide)
    | (with_reducible apply Eff.snd (eff_hallRead ..); with_reducible assumption; · decide)
    | with_reducible refine eff_eccBoth ?_ ?_
    | (with_reducible apply Eff.after (eff_balEcc ..); · decide)
    | (with_reducible apply Eff.after (eff_slotStations ..); · decide)
    | (with_reducible apply Eff.third (eff_slotStations ..); with_reducible assumption; · decide)
    | intro _
    | extract_lets
    | with_reducible apply Eff.ite
    | with_reducible apply Eff.fold
    | (fail_if_no_progress ((with_reducible refine Eff.upd ?_ rfl rfl rfl rfl rfl rfl rfl rfl rfl rfl ?_); rotate_left; exact rfl))
    | split
    | (with_reducible refine Eff.iteSnd (by assumption) ?_ ?_)
    | dsimp only
    | dsimp +zetaDelta only
    | with_reducible apply Eff.foldSnd
    | with_reducible apply Eff.foldFst
    | with_reducible apply Eff.foldThird

theorem eff_upStart (b : Nat) (d : Desc) (stalls : List Nat) (kd : Nat) (c : Nat) (int : Bool) (ecc : List EccHit) (rows : List Nat) (m : Module) : Eff [.gal, .bal, .mem, .flt, .vst, .hlt, .cor, .pci, .tray, .dbg, .out] m (upStart b d stalls kd c int ecc rows m).2 := by
  unfold upStart
  iterate 24 all_goals try first
    | with_reducible exact Eff.refl _
    | with_reducible assumption
    | (with_reducible apply Eff.after (eff_readRows ..); · decide)
    | (with_reducible apply Eff.snd (eff_readRows ..); with_reducible assumption; · decide)
    | (with_reducible apply Eff.after (eff_hallLost ..); · decide)
    | (with_reducible apply Eff.after (eff_addPGal ..); · decide)
    | (with_reducible apply Eff.after (eff_setGal ..); · decide)
    | (with_reducible apply Eff.after (eff_setBal ..); · decide)
    | intro _
    | extract_lets
    | with_reducible apply Eff.ite
    | (fail_if_no_progress ((with_reducible refine Eff.upd ?_ rfl rfl rfl rfl rfl rfl rfl rfl rfl rfl ?_); rotate_left; exact rfl))
    | split
    | (with_reducible refine Eff.iteSnd (by assumption) ?_ ?_)
    | dsimp only
    | dsimp +zetaDelta only

theorem eff_execUp (b : Fin 64) (stalls : List Nat) (pairDiff : Bool) (ecc : List EccHit) (errs : List MemErr) (s : State) : EffOut [.clk, .beat, .queues, .counts, .outstanding, .harts, .gal, .bal, .mem, .flt, .vst, .wdg, .chk, .hlt, .cor, .pci, .tray, .dbg, .out] s (execUp b stalls pairDiff ecc errs s) := by
  unfold execUp
  iterate 24 all_goals try first
    | with_reducible exact EffOut.stop
    | with_reducible exact EffOut.ill
    | with_reducible refine EffOut.done ?_
    | with_reducible exact Eff.refl _
    | with_reducible assumption
    | (with_reducible apply Eff.after (eff_balTurn ..); · decide)
    | (with_reducible apply Eff.after (eff_settleBal ..); · decide)
    | (with_reducible apply Eff.after (eff_dequeue ..); · decide)
    | (with_reducible apply Eff.after (eff_adpRefuse ..); · decide)
    | (with_reducible apply Eff.after (eff_passToCycle ..); · decide)
    | with_reducible refine eff_eccBoth ?_ ?_
    | (with_reducible apply Eff.after (eff_balEcc ..); · decide)
    | (with_reducible apply Eff.after (eff_memErrs ..); · decide)
    | (with_reducible apply Eff.after (eff_descStart ..); · decide)
    | (with_reducible apply Eff.after (eff_setBal ..); · decide)
    | (with_reducible apply Eff.after (eff_upStart ..); · decide)
    | (with_reducible apply Eff.snd (eff_upStart ..); with_reducible assumption; · decide)
    | (with_reducible apply Eff.after (eff_lockstep ..); · decide)
    | (with_reducible apply Eff.after (eff_comparePair ..); · decide)
    | exact (eff_done ..).mono (by decide)
    | intro _
    | extract_lets
    | with_reducible apply Eff.ite
    | (fail_if_no_progress ((with_reducible refine Eff.upd ?_ rfl rfl rfl rfl rfl rfl rfl rfl rfl rfl ?_); rotate_left; exact rfl))
    | split
    | dsimp only
    | dsimp +zetaDelta only

theorem eff_execUpComplete (b : Fin 64) (s : State) : EffOut [.clk, .beat, .counts, .outstanding, .harts, .bal, .mem, .vst, .wdg, .hlt, .cor, .pci, .tray, .dbg, .out] s (execUpComplete b s) := by
  unfold execUpComplete
  iterate 24 all_goals try first
    | with_reducible exact EffOut.stop
    | with_reducible exact EffOut.ill
    | with_reducible refine EffOut.done ?_
    | with_reducible exact Eff.refl _
    | with_reducible assumption
    | (with_reducible apply Eff.after (eff_settleBal ..); · decide)
    | (with_reducible apply Eff.after (eff_passToCycle ..); · decide)
    | exact (eff_done ..).mono (by decide)
    | intro _
    | extract_lets
    | with_reducible apply Eff.ite
    | (fail_if_no_progress ((with_reducible refine Eff.upd ?_ rfl rfl rfl rfl rfl rfl rfl rfl rfl rfl ?_); rotate_left; exact rfl))
    | split
    | dsimp only
    | dsimp +zetaDelta only

theorem eff_scrWrite (b : Nat) (x : Bal) (d : Desc) (rows : List Nat) (m : Module) : Eff [.bal, .mem, .flt, .vst, .hlt, .cor, .pci, .tray, .dbg, .out] m (scrWrite b x d rows m) := by
  unfold scrWrite
  iterate 24 all_goals try first
    | with_reducible exact Eff.refl _
    | with_reducible assumption
    | (with_reducible apply Eff.after (eff_setBal ..); · decide)
    | (with_reducible apply Eff.after (eff_hallWrite ..); · decide)
    | intro _
    | extract_lets
    | with_reducible apply Eff.ite
    | with_reducible apply Eff.fold
    | (fail_if_no_progress ((with_reducible refine Eff.upd ?_ rfl rfl rfl rfl rfl rfl rfl rfl rfl rfl ?_); rotate_left; exact rfl))
    | split
    | (with_reducible refine Eff.iteSnd (by assumption) ?_ ?_)
    | dsimp only
    | dsimp +zetaDelta only
    | with_reducible apply Eff.foldSnd
    | with_reducible apply Eff.foldFst
    | with_reducible apply Eff.foldThird

theorem eff_execScrRead (b : Fin 64) (pairDiff : Bool) (ecc : List EccHit) (s : State) : EffOut [.clk, .beat, .queues, .counts, .outstanding, .harts, .gal, .bal, .mem, .flt, .vst, .wdg, .chk, .hlt, .cor, .pci, .tray, .dbg, .out] s (execScrRead b pairDiff ecc s) := by
  unfold execScrRead
  iterate 24 all_goals try first
    | with_reducible exact EffOut.stop
    | with_reducible exact EffOut.ill
    | with_reducible refine EffOut.done ?_
    | with_reducible exact Eff.refl _
    | with_reducible assumption
    | (with_reducible apply Eff.after (eff_balTurn ..); · decide)
    | (with_reducible apply Eff.after (eff_settleBal ..); · decide)
    | (with_reducible apply Eff.after (eff_dequeue ..); · decide)
    | (with_reducible apply Eff.after (eff_adpRefuse ..); · decide)
    | with_reducible refine eff_eccBoth ?_ ?_
    | (with_reducible apply Eff.after (eff_balEcc ..); · decide)
    | (with_reducible apply Eff.after (eff_descStart ..); · decide)
    | (with_reducible apply Eff.after (eff_passToCycle ..); · decide)
    | (with_reducible apply Eff.after (eff_scrWrite ..); · decide)
    | (with_reducible apply Eff.after (eff_hallWrite ..); · decide)
    | (with_reducible apply Eff.after (eff_lockstep ..); · decide)
    | (with_reducible apply Eff.after (eff_comparePair ..); · decide)
    | (with_reducible apply Eff.after (eff_complete ..); · decide)
    | exact (eff_done ..).mono (by decide)
    | intro _
    | extract_lets
    | with_reducible apply Eff.ite
    | (fail_if_no_progress ((with_reducible refine Eff.upd ?_ rfl rfl rfl rfl rfl rfl rfl rfl rfl rfl ?_); rotate_left; exact rfl))
    | split
    | dsimp only
    | dsimp +zetaDelta only

theorem eff_execAdpCntClr (b : Fin 64) (s : State) : EffOut [.bal] s (execAdpCntClr b s) := by
  unfold execAdpCntClr
  iterate 24 all_goals try first
    | with_reducible exact EffOut.stop
    | with_reducible exact EffOut.ill
    | with_reducible refine EffOut.done ?_
    | with_reducible exact Eff.refl _
    | with_reducible assumption
    | (with_reducible apply Eff.after (eff_setBal ..); · decide)
    | exact (eff_done ..).mono (by decide)
    | intro _
    | extract_lets
    | with_reducible apply Eff.ite
    | split
    | dsimp only
    | dsimp +zetaDelta only

end Sys2Proof.Laws
end

