-- ==== Sys2Proof/Laws/EffGal.lean ====
section
/-! SUPPORT. What the operations of Gal.lean keep, and what they may change. -/

namespace Sys2Proof.Laws
open Sys2Proof.Machine

theorem eff_galRefuse (g : Nat) (code : Nat) (d : Desc) (m : Module) : Eff [.counts, .outstanding, .harts, .gal, .vst, .wdg, .hlt, .pci, .tray, .dbg, .out] m (galRefuse g code d m) := by
  unfold galRefuse
  iterate 24 all_goals try first
    | with_reducible exact Eff.refl _
    | with_reducible assumption
    | (with_reducible apply Eff.after (eff_bodyRefused ..); · decide)
    | (with_reducible apply Eff.after (eff_setGal ..); · decide)
    | intro _
    | extract_lets
    | with_reducible apply Eff.ite
    | (fail_if_no_progress ((with_reducible refine Eff.upd ?_ rfl rfl rfl rfl rfl rfl rfl rfl rfl rfl ?_); rotate_left; exact rfl))
    | split
    | dsimp only
    | dsimp +zetaDelta only

theorem eff_galEcc (d : Desc) (g : Nat) (hits : List EccHit) (m : Module) : Eff [.gal, .vst, .hlt, .pci, .tray, .dbg, .out] m (galEcc d g hits m) := by
  unfold galEcc
  iterate 24 all_goals try first
    | with_reducible exact Eff.refl _
    | with_reducible assumption
    | (with_reducible apply Eff.after (eff_eccEvents ..); · decide)
    | (with_reducible apply Eff.after (eff_setGal ..); · decide)
    | intro _
    | extract_lets
    | with_reducible apply Eff.ite
    | (fail_if_no_progress ((with_reducible refine Eff.upd ?_ rfl rfl rfl rfl rfl rfl rfl rfl rfl rfl ?_); rotate_left; exact rfl))
    | split
    | dsimp only
    | dsimp +zetaDelta only

theorem eff_galTurn (g : Nat) (m : Module) : ∀ c, galTurn g m = some c → Eff [.clk, .beat, .counts, .outstanding, .harts, .bal, .mem, .vst, .wdg, .hlt, .cor, .pci, .tray, .dbg, .out] m c := by
  intro c h
  unfold galTurn at h
  try dsimp only at h
  repeat' split at h
  all_goals first
    | (simp only [reduceCtorEq] at h; done)
    | (simp only [Option.some.injEq] at h; subst h)
    | skip
  iterate 24 all_goals try first
    | with_reducible exact Eff.refl _
    | with_reducible assumption
    | (with_reducible apply Eff.after (eff_settleBal ..); · decide)
    | (with_reducible apply Eff.after (eff_passToCycle ..); · decide)
    | intro _
    | extract_lets
    | with_reducible apply Eff.ite
    | split
    | dsimp only
    | dsimp +zetaDelta only

theorem eff_actRows (w : Nat) (d : Desc) (kd : Nat) (m : Module) : Eff [.mem, .flt, .vst, .hlt, .cor, .pci, .tray, .dbg, .out] m (actRows w d kd m).2 := by
  unfold actRows
  iterate 24 all_goals try first
    | with_reducible exact Eff.refl _
    | with_reducible assumption
    | (with_reducible apply Eff.after (eff_readRows ..); · decide)
    | (with_reducible apply Eff.snd (eff_readRows ..); with_reducible assumption; · decide)
    | intro _
    | extract_lets
    | with_reducible apply Eff.ite
    | split
    | (with_reducible refine Eff.iteSnd (by assumption) ?_ ?_)
    | dsimp only
    | dsimp +zetaDelta only

theorem eff_mmStation (w : Nat) (d : Desc) (kd : Nat) (int : Bool) (m : Module) : Eff [.mem, .flt, .vst, .hlt, .cor, .pci, .tray, .dbg, .out] m (mmStation w d kd int m).2.2 := by
  unfold mmStation
  iterate 24 all_goals try first
    | with_reducible exact Eff.refl _
    | with_reducible assumption
    | (with_reducible apply Eff.after (eff_readRows ..); · decide)
    | (with_reducible apply Eff.snd (eff_readRows ..); with_reducible assumption; · decide)
    | (with_reducible apply Eff.after (eff_hallRead ..); · decide)
    | (with_reducible apply Eff.snd (eff_hallRead ..); with_reducible assumption; · decide)
    | intro _
    | extract_lets
    | with_reducible apply Eff.ite
    | split
    | (with_reducible refine Eff.iteSnd (by assumption) ?_ ?_)
    | dsimp only
    | dsimp +zetaDelta only

theorem eff_mmStart (g : Nat) (d : Desc) (stalls : List Nat) (kd : Nat) (c : Nat) (int : Bool) (ecc : List EccHit) (balHits : List EccHit) (m : Module) : Eff [.counts, .outstanding, .harts, .gal, .bal, .mem, .flt, .vst, .wdg, .hlt, .cor, .pci, .tray, .dbg, .out] m (mmStart g d stalls kd c int ecc balHits m) := by
  unfold mmStart
  iterate 24 all_goals try first
    | with_reducible exact Eff.refl _
    | with_reducible assumption
    | (with_reducible apply Eff.after (eff_actRows ..); · decide)
    | (with_reducible apply Eff.snd (eff_actRows ..); with_reducible assumption; · decide)
    | (with_reducible apply Eff.after (eff_mmStation ..); · decide)
    | (with_reducible apply Eff.third (eff_mmStation ..); with_reducible assumption; · decide)
    | (with_reducible apply Eff.after (eff_setGal ..); · decide)
    | (with_reducible apply Eff.after (eff_tap ..); · decide)
    | (with_reducible apply Eff.after (eff_addPGal ..); · decide)
    | (with_reducible apply Eff.after (eff_hallLost ..); · decide)
    | intro _
    | extract_lets
    | with_reducible apply Eff.ite
    | (fail_if_no_progress ((with_reducible refine Eff.upd ?_ rfl rfl rfl rfl rfl rfl rfl rfl rfl rfl ?_); rotate_left; exact rfl))
    | split
    | (with_reducible refine Eff.iteSnd (by assumption) ?_ ?_)
    | dsimp only
    | dsimp +zetaDelta only

theorem eff_execMatmul (g : Fin 64) (stalls : List Nat) (ecc : List EccHit) (balEcc : List EccHit) (errs : List MemErr) (s : State) : EffOut [.clk, .beat, .queues, .counts, .outstanding, .harts, .gal, .bal, .mem, .flt, .vst, .wdg, .hlt, .cor, .pci, .tray, .dbg, .out] s (execMatmul g stalls ecc balEcc errs s) := by
  unfold execMatmul
  iterate 24 all_goals try first
    | with_reducible exact EffOut.stop
    | with_reducible exact EffOut.ill
    | with_reducible refine EffOut.done ?_
    | with_reducible exact Eff.refl _
    | with_reducible assumption
    | (with_reducible apply Eff.after (eff_settleBal ..); · decide)
    | (with_reducible apply Eff.after (eff_dequeue ..); · decide)
    | (with_reducible apply Eff.after (eff_galRefuse ..); · decide)
    | (with_reducible apply Eff.opt (eff_galTurn _ _); with_reducible assumption; · decide)
    | with_reducible refine eff_eccBoth ?_ ?_
    | (with_reducible apply Eff.after (eff_galEcc ..); · decide)
    | (with_reducible apply Eff.after (eff_memErrs ..); · decide)
    | (with_reducible apply Eff.after (eff_descStart ..); · decide)
    | (with_reducible apply Eff.after (eff_lockstep ..); · decide)
    | (with_reducible apply Eff.after (eff_mmStart ..); · decide)
    | (with_reducible apply Eff.after (eff_balEcc ..); · decide)
    | exact (eff_done ..).mono (by decide)
    | intro _
    | extract_lets
    | with_reducible apply Eff.ite
    | (fail_if_no_progress ((with_reducible refine Eff.upd ?_ rfl rfl rfl rfl rfl rfl rfl rfl rfl rfl ?_); rotate_left; exact rfl))
    | split
    | dsimp only
    | dsimp +zetaDelta only

theorem eff_accStart (g : Nat) (d : Desc) (load : Bool) (x : Gal) (m : Module) : Eff [.gal, .dbg] m (accStart g d load x m) := by
  unfold accStart
  iterate 24 all_goals try first
    | with_reducible exact Eff.refl _
    | with_reducible assumption
    | (with_reducible apply Eff.after (eff_addPGal ..); · decide)
    | (with_reducible apply Eff.after (eff_setGal ..); · decide)
    | intro _
    | extract_lets
    | with_reducible apply Eff.ite
    | (fail_if_no_progress ((with_reducible refine Eff.upd ?_ rfl rfl rfl rfl rfl rfl rfl rfl rfl rfl ?_); rotate_left; exact rfl))
    | split
    | (with_reducible refine Eff.iteSnd (by assumption) ?_ ?_)
    | dsimp only
    | dsimp +zetaDelta only

theorem eff_execAccLoad (g : Fin 64) (errs : List MemErr) (s : State) : EffOut [.clk, .beat, .queues, .counts, .outstanding, .harts, .gal, .bal, .mem, .flt, .vst, .wdg, .hlt, .cor, .pci, .tray, .dbg, .out] s (execAccLoad g errs s) := by
  unfold execAccLoad
  iterate 24 all_goals try first
    | with_reducible exact EffOut.stop
    | with_reducible exact EffOut.ill
    | with_reducible refine EffOut.done ?_
    | with_reducible exact Eff.refl _
    | with_reducible assumption
    | (with_reducible apply Eff.after (eff_settleBal ..); · decide)
    | (with_reducible apply Eff.after (eff_dequeue ..); · decide)
    | (with_reducible apply Eff.after (eff_galRefuse ..); · decide)
    | (with_reducible apply Eff.opt (eff_galTurn _ _); with_reducible assumption; · decide)
    | (with_reducible apply Eff.after (eff_memErrs ..); · decide)
    | (with_reducible apply Eff.after (eff_descStart ..); · decide)
    | (with_reducible apply Eff.after (eff_readRows ..); · decide)
    | (with_reducible apply Eff.snd (eff_readRows ..); with_reducible assumption; · decide)
    | (with_reducible apply Eff.after (eff_lockstep ..); · decide)
    | (with_reducible apply Eff.after (eff_accStart ..); · decide)
    | exact (eff_done ..).mono (by decide)
    | intro _
    | extract_lets
    | with_reducible apply Eff.ite
    | with_reducible apply Eff.fold
    | (fail_if_no_progress ((with_reducible refine Eff.upd ?_ rfl rfl rfl rfl rfl rfl rfl rfl rfl rfl ?_); rotate_left; exact rfl))
    | split
    | (with_reducible refine Eff.iteSnd (by assumption) ?_ ?_)
    | dsimp only
    | dsimp +zetaDelta only
    | with_reducible apply Eff.foldSnd
    | with_reducible apply Eff.foldFst
    | with_reducible apply Eff.foldThird

theorem eff_execAccRead (g : Fin 64) (s : State) : EffOut [.clk, .beat, .queues, .counts, .outstanding, .harts, .gal, .bal, .mem, .vst, .wdg, .hlt, .cor, .pci, .tray, .dbg, .out] s (execAccRead g s) := by
  unfold execAccRead
  iterate 24 all_goals try first
    | with_reducible exact EffOut.stop
    | with_reducible exact EffOut.ill
    | with_reducible refine EffOut.done ?_
    | with_reducible exact Eff.refl _
    | with_reducible assumption
    | (with_reducible apply Eff.after (eff_settleBal ..); · decide)
    | (with_reducible apply Eff.after (eff_dequeue ..); · decide)
    | (with_reducible apply Eff.after (eff_galRefuse ..); · decide)
    | (with_reducible apply Eff.opt (eff_galTurn _ _); with_reducible assumption; · decide)
    | (with_reducible apply Eff.after (eff_descStart ..); · decide)
    | (with_reducible apply Eff.after (eff_lockstep ..); · decide)
    | (with_reducible apply Eff.after (eff_accStart ..); · decide)
    | exact (eff_done ..).mono (by decide)
    | intro _
    | extract_lets
    | with_reducible apply Eff.ite
    | (fail_if_no_progress ((with_reducible refine Eff.upd ?_ rfl rfl rfl rfl rfl rfl rfl rfl rfl rfl ?_); rotate_left; exact rfl))
    | split
    | dsimp only
    | dsimp +zetaDelta only

theorem eff_checkOne (g : Nat) (d : Desc) (row : Nat) (grp : Nat) (v : ChkCell × W64) (m : Module) : Eff [.gal, .vst, .chk, .hlt, .pci, .tray, .dbg, .out] m (checkOne g d row grp v m) := by
  unfold checkOne
  iterate 24 all_goals try first
    | with_reducible exact Eff.refl _
    | with_reducible assumption
    | (with_reducible apply Eff.after (eff_setGal ..); · decide)
    | (with_reducible apply Eff.after (eff_compared ..); · decide)
    | (with_reducible apply Eff.after (eff_mismatch ..); · decide)
    | intro _
    | extract_lets
    | with_reducible apply Eff.ite
    | (fail_if_no_progress ((with_reducible refine Eff.upd ?_ rfl rfl rfl rfl rfl rfl rfl rfl rfl rfl ?_); rotate_left; exact rfl))
    | split
    | dsimp only
    | dsimp +zetaDelta only

theorem eff_writeRead (g : Nat) (o : GalOp) (fs : List CellFault) (rows : List (Nat × List W64)) (m : Module) : Eff [.gal, .mem, .flt, .vst, .hlt, .cor, .pci, .tray, .dbg, .out] m (writeRead g o fs rows m) := by
  unfold writeRead
  iterate 24 all_goals try first
    | with_reducible exact Eff.refl _
    | with_reducible assumption
    | (with_reducible apply Eff.after (eff_setGal ..); · decide)
    | (with_reducible apply Eff.after (eff_hallWrite ..); · decide)
    | intro _
    | extract_lets
    | with_reducible apply Eff.ite
    | with_reducible apply Eff.fold
    | (fail_if_no_progress ((with_reducible refine Eff.upd ?_ rfl rfl rfl rfl rfl rfl rfl rfl rfl rfl ?_); rotate_left; exact rfl))
    | split
    | (with_reducible refine Eff.iteSnd (by assumption) ?_ ?_)
    | dsimp only
    | dsimp +zetaDelta only
    | with_reducible apply Eff.foldSnd
    | with_reducible apply Eff.foldFst
    | with_reducible apply Eff.foldThird

theorem eff_execGalReadout (g : Fin 64) (faults : List CellFault) (pairDiff : Bool) (ecc : List EccHit) (s : State) : EffOut [.clk, .beat, .counts, .outstanding, .harts, .gal, .bal, .mem, .flt, .vst, .wdg, .chk, .hlt, .cor, .pci, .tray, .dbg, .out] s (execGalReadout g faults pairDiff ecc s) := by
  unfold execGalReadout
  iterate 24 all_goals try first
    | with_reducible exact EffOut.stop
    | with_reducible exact EffOut.ill
    | with_reducible refine EffOut.done ?_
    | with_reducible exact Eff.refl _
    | with_reducible assumption
    | (with_reducible apply Eff.after (eff_settleBal ..); · decide)
    | (with_reducible apply Eff.after (eff_passToCycle ..); · decide)
    | with_reducible refine eff_eccBoth ?_ ?_
    | (with_reducible apply Eff.after (eff_galEcc ..); · decide)
    | (with_reducible apply Eff.after (eff_setGal ..); · decide)
    | (with_reducible apply Eff.after (eff_lockstep ..); · decide)
    | (with_reducible apply Eff.after (eff_writeRead ..); · decide)
    | (with_reducible apply Eff.after (eff_comparePair ..); · decide)
    | (with_reducible apply Eff.after (eff_checkOne ..); · decide)
    | exact (eff_done ..).mono (by decide)
    | intro _
    | extract_lets
    | with_reducible apply Eff.ite
    | with_reducible apply Eff.fold
    | (fail_if_no_progress ((with_reducible refine Eff.upd ?_ rfl rfl rfl rfl rfl rfl rfl rfl rfl rfl ?_); rotate_left; exact rfl))
    | split
    | (with_reducible refine Eff.iteSnd (by assumption) ?_ ?_)
    | dsimp only
    | dsimp +zetaDelta only
    | with_reducible apply Eff.foldSnd
    | with_reducible apply Eff.foldFst
    | with_reducible apply Eff.foldThird

theorem eff_execGalComplete (g : Fin 64) (s : State) : EffOut [.clk, .beat, .counts, .outstanding, .harts, .gal, .bal, .mem, .vst, .wdg, .hlt, .cor, .pci, .tray, .dbg, .out] s (execGalComplete g s) := by
  unfold execGalComplete
  iterate 24 all_goals try first
    | with_reducible exact EffOut.stop
    | with_reducible exact EffOut.ill
    | with_reducible refine EffOut.done ?_
    | with_reducible exact Eff.refl _
    | with_reducible assumption
    | (with_reducible apply Eff.after (eff_settleBal ..); · decide)
    | (with_reducible apply Eff.after (eff_passToCycle ..); · decide)
    | (with_reducible apply Eff.after (eff_setGal ..); · decide)
    | (with_reducible apply Eff.after (eff_complete ..); · decide)
    | exact (eff_done ..).mono (by decide)
    | intro _
    | extract_lets
    | with_reducible apply Eff.ite
    | (fail_if_no_progress ((with_reducible refine Eff.upd ?_ rfl rfl rfl rfl rfl rfl rfl rfl rfl rfl ?_); rotate_left; exact rfl))
    | split
    | dsimp only
    | dsimp +zetaDelta only

theorem eff_galCntClr (g : Nat) (m : Module) : Eff [.gal] m (galCntClr g m) := by
  unfold galCntClr
  iterate 24 all_goals try first
    | with_reducible exact Eff.refl _
    | with_reducible assumption
    | (with_reducible apply Eff.after (eff_setGal ..); · decide)
    | intro _
    | extract_lets
    | with_reducible apply Eff.ite
    | split
    | dsimp only
    | dsimp +zetaDelta only

theorem eff_execGalCntClr (g : Fin 64) (s : State) : EffOut [.gal] s (execGalCntClr g s) := by
  unfold execGalCntClr
  iterate 24 all_goals try first
    | with_reducible exact EffOut.stop
    | with_reducible exact EffOut.ill
    | with_reducible refine EffOut.done ?_
    | with_reducible exact Eff.refl _
    | with_reducible assumption
    | (with_reducible apply Eff.after (eff_galCntClr ..); · decide)
    | exact (eff_done ..).mono (by decide)
    | intro _
    | extract_lets
    | with_reducible apply Eff.ite
    | split
    | dsimp only
    | dsimp +zetaDelta only

end Sys2Proof.Laws
end

