-- ==== Sys2Proof/Laws/EffHart.lean ====
section
/-! SUPPORT. What the operations of Hart.lean keep, and what they may change. -/

namespace Sys2Proof.Laws
open Sys2Proof.Machine

theorem eff_hartRead (core : Nat) (p : Nat) (a : W64) (n : Nat) (m : Module) : Eff [.mem, .flt, .vst, .hlt, .cor, .pci, .tray, .dbg, .out] m (hartRead core p a n m).2 := by
  unfold hartRead
  iterate 24 all_goals try first
    | with_reducible exact Eff.refl _
    | with_reducible assumption
    | (with_reducible apply Eff.after (eff_hallRead ..); · decide)
    | (with_reducible apply Eff.snd (eff_hallRead ..); with_reducible assumption; · decide)
    | intro _
    | extract_lets
    | with_reducible apply Eff.ite
    | split
    | (with_reducible refine Eff.iteSnd (by assumption) ?_ ?_)
    | dsimp only
    | dsimp +zetaDelta only

theorem eff_breakResv (hk : Nat) (p : Nat) (a : W64) (n : Nat) (m : Module) : Eff [.harts] m (breakResv hk p a n m) := by
  unfold breakResv
  iterate 24 all_goals try first
    | with_reducible exact Eff.refl _
    | with_reducible assumption
    | (with_reducible apply Eff.after (eff_setHart ..); · decide)
    | intro _
    | extract_lets
    | with_reducible apply Eff.ite
    | with_reducible apply Eff.fold
    | (fail_if_no_progress ((with_reducible refine Eff.upd ?_ rfl rfl rfl rfl rfl rfl rfl rfl rfl rfl ?_); rotate_left; exact rfl))
    | split
    | (with_reducible refine Eff.iteSnd (by assumption) ?_ ?_)
    | dsimp only
    | dsimp +zetaDelta only
    | with_reducible apply Eff.foldSnd
    | with_reducible apply Eff.foldFst
    | with_reducible apply Eff.foldThird

theorem eff_hartWrite (hk : Nat) (p : Nat) (a : W64) (bs : List Byte) (m : Module) : Eff [.harts, .cores, .mem, .flt, .vst, .hlt, .cor, .pci, .tray, .dbg, .out] m (hartWrite hk p a bs m) := by
  unfold hartWrite
  iterate 24 all_goals try first
    | with_reducible exact Eff.refl _
    | with_reducible assumption
    | (with_reducible apply Eff.after (eff_breakResv ..); · decide)
    | (with_reducible apply Eff.after (eff_setCore ..); · decide)
    | (with_reducible apply Eff.after (eff_hallWrite ..); · decide)
    | intro _
    | extract_lets
    | with_reducible apply Eff.ite
    | (fail_if_no_progress ((with_reducible refine Eff.upd ?_ rfl rfl rfl rfl rfl rfl rfl rfl rfl rfl ?_); rotate_left; exact rfl))
    | split
    | dsimp only
    | dsimp +zetaDelta only

theorem eff_hartFault (hk : Nat) (p : Nat) (c : Nat) (a : W64) (m : Module) : Eff [.harts, .vst, .hlt, .pci, .tray, .dbg, .out] m (hartFault hk p c a m) := by
  unfold hartFault
  iterate 24 all_goals try first
    | with_reducible exact Eff.refl _
    | with_reducible assumption
    | (with_reducible apply Eff.after (eff_ev ..); · decide)
    | (with_reducible apply Eff.after (eff_setHart ..); · decide)
    | intro _
    | extract_lets
    | with_reducible apply Eff.ite
    | (fail_if_no_progress ((with_reducible refine Eff.upd ?_ rfl rfl rfl rfl rfl rfl rfl rfl rfl rfl ?_); rotate_left; exact rfl))
    | split
    | dsimp only
    | dsimp +zetaDelta only

theorem eff_retire (hk : Nat) (pc : W64) (m : Module) : Eff [.harts] m (retire hk pc m) := by
  unfold retire
  iterate 24 all_goals try first
    | with_reducible exact Eff.refl _
    | with_reducible assumption
    | (with_reducible apply Eff.after (eff_setHart ..); · decide)
    | intro _
    | extract_lets
    | with_reducible apply Eff.ite
    | (fail_if_no_progress ((with_reducible refine Eff.upd ?_ rfl rfl rfl rfl rfl rfl rfl rfl rfl rfl ?_); rotate_left; exact rfl))
    | split
    | dsimp only
    | dsimp +zetaDelta only

theorem eff_retireReg (hk : Nat) (rd : Nat) (v : W64) (pc : W64) (m : Module) : Eff [.harts] m (retireReg hk rd v pc m) := by
  unfold retireReg
  iterate 24 all_goals try first
    | with_reducible exact Eff.refl _
    | with_reducible assumption
    | (with_reducible apply Eff.after (eff_retire ..); · decide)
    | (with_reducible apply Eff.after (eff_setHart ..); · decide)
    | intro _
    | extract_lets
    | with_reducible apply Eff.ite
    | split
    | dsimp only
    | dsimp +zetaDelta only

theorem eff_stall (hk : Nat) (w : Wait) (m : Module) : Eff [.harts] m (stall hk w m) := by
  unfold stall
  iterate 24 all_goals try first
    | with_reducible exact Eff.refl _
    | with_reducible assumption
    | (with_reducible apply Eff.after (eff_setHart ..); · decide)
    | intro _
    | extract_lets
    | with_reducible apply Eff.ite
    | (fail_if_no_progress ((with_reducible refine Eff.upd ?_ rfl rfl rfl rfl rfl rfl rfl rfl rfl rfl ?_); rotate_left; exact rfl))
    | split
    | dsimp only
    | dsimp +zetaDelta only

theorem eff_unstall (hk : Nat) (m : Module) : Eff [.harts] m (unstall hk m) := by
  unfold unstall
  iterate 24 all_goals try first
    | with_reducible exact Eff.refl _
    | with_reducible assumption
    | (with_reducible apply Eff.after (eff_setHart ..); · decide)
    | intro _
    | extract_lets
    | with_reducible apply Eff.ite
    | (fail_if_no_progress ((with_reducible refine Eff.upd ?_ rfl rfl rfl rfl rfl rfl rfl rfl rfl rfl ?_); rotate_left; exact rfl))
    | split
    | dsimp only
    | dsimp +zetaDelta only

theorem eff_pushRefused (hk : Nat) (p : Nat) (c : Nat) (rd : Nat) (det : W64) (m : Module) : Eff [.harts, .vst, .hlt, .pci, .tray, .dbg, .out] m (pushRefused hk p c rd det m) := by
  unfold pushRefused
  iterate 24 all_goals try first
    | with_reducible exact Eff.refl _
    | with_reducible assumption
    | (with_reducible apply Eff.after (eff_retireReg ..); · decide)
    | (with_reducible apply Eff.after (eff_ev ..); · decide)
    | intro _
    | extract_lets
    | with_reducible apply Eff.ite
    | split
    | dsimp only
    | dsimp +zetaDelta only

theorem eff_pushInto (w : Nat) (k : QKey) (d : Desc) (m : Module) : Eff [.queues, .outstanding, .dbg] m (pushInto w k d m) := by
  unfold pushInto
  iterate 24 all_goals try first
    | with_reducible exact Eff.refl _
    | with_reducible assumption
    | (with_reducible apply Eff.after (eff_enqueue ..); · decide)
    | intro _
    | extract_lets
    | with_reducible apply Eff.ite
    | (fail_if_no_progress ((with_reducible refine Eff.upd ?_ rfl rfl rfl rfl rfl rfl rfl rfl rfl rfl ?_); rotate_left; exact rfl))
    | split
    | dsimp only
    | dsimp +zetaDelta only

theorem eff_eqPush (hk : Nat) (p : Nat) (c : Nat) (rd : Nat) (a : W64) (q : W64) (m : Module) : Eff [.queues, .outstanding, .harts, .mem, .flt, .vst, .hlt, .cor, .pci, .tray, .dbg, .out] m (eqPush hk p c rd a q m) := by
  unfold eqPush
  iterate 24 all_goals try first
    | with_reducible exact Eff.refl _
    | with_reducible assumption
    | (with_reducible apply Eff.after (eff_pushRefused ..); · decide)
    | (with_reducible apply Eff.after (eff_hartFault ..); · decide)
    | (with_reducible apply Eff.after (eff_hallRead ..); · decide)
    | (with_reducible apply Eff.snd (eff_hallRead ..); with_reducible assumption; · decide)
    | (with_reducible apply Eff.after (eff_stall ..); · decide)
    | (with_reducible apply Eff.after (eff_retireReg ..); · decide)
    | (with_reducible apply Eff.after (eff_pushInto ..); · decide)
    | intro _
    | extract_lets
    | with_reducible apply Eff.ite
    | split
    | dsimp only
    | dsimp +zetaDelta only

theorem eff_qidCount (p : Nat) (c : Nat) (q : W64) (m : Module) : Eff [.mem] m (qidCount p c q m).2 := by
  unfold qidCount
  iterate 24 all_goals try first
    | with_reducible exact Eff.refl _
    | with_reducible assumption
    | (with_reducible apply Eff.after (eff_freeVal ..); · decide)
    | (with_reducible apply Eff.snd (eff_freeVal ..); with_reducible assumption; · decide)
    | intro _
    | extract_lets
    | with_reducible apply Eff.ite
    | split
    | (with_reducible refine Eff.iteSnd (by assumption) ?_ ?_)
    | dsimp only
    | dsimp +zetaDelta only

theorem eff_eqWait (hk : Nat) (p : Nat) (c : Nat) (q : W64) (n : W64) (m : Module) : Eff [.harts, .mem] m (eqWait hk p c q n m) := by
  unfold eqWait
  iterate 24 all_goals try first
    | with_reducible exact Eff.refl _
    | with_reducible assumption
    | (with_reducible apply Eff.after (eff_qidCount ..); · decide)
    | (with_reducible apply Eff.snd (eff_qidCount ..); with_reducible assumption; · decide)
    | (with_reducible apply Eff.after (eff_retire ..); · decide)
    | (with_reducible apply Eff.after (eff_stall ..); · decide)
    | intro _
    | extract_lets
    | with_reducible apply Eff.ite
    | split
    | dsimp only
    | dsimp +zetaDelta only

theorem eff_eqPoll (hk : Nat) (p : Nat) (c : Nat) (rd : Nat) (q : W64) (m : Module) : Eff [.harts, .mem] m (eqPoll hk p c rd q m) := by
  unfold eqPoll
  iterate 24 all_goals try first
    | with_reducible exact Eff.refl _
    | with_reducible assumption
    | (with_reducible apply Eff.after (eff_qidCount ..); · decide)
    | (with_reducible apply Eff.snd (eff_qidCount ..); with_reducible assumption; · decide)
    | (with_reducible apply Eff.after (eff_retireReg ..); · decide)
    | intro _
    | extract_lets
    | with_reducible apply Eff.ite
    | split
    | dsimp only
    | dsimp +zetaDelta only

theorem eff_clearGate (p : Nat) (c : Nat) (g : Nat) (m : Module) : Eff [.gates] m (clearGate p c g m) := by
  unfold clearGate
  iterate 24 all_goals try first
    | with_reducible exact Eff.refl _
    | with_reducible assumption
    | intro _
    | extract_lets
    | with_reducible apply Eff.ite
    | (fail_if_no_progress ((with_reducible refine Eff.upd ?_ rfl rfl rfl rfl rfl rfl rfl rfl rfl rfl ?_); rotate_left; exact rfl))
    | with_reducible refine Eff.gates ?_ (fun h => rising_nset h) (by decide)
    | with_reducible refine Eff.gates ?_ (fun h => rising_filter h) (by decide)
    | split
    | dsimp only
    | dsimp +zetaDelta only

theorem eff_eqGate (hk : Nat) (p : Nat) (c : Nat) (g : Nat) (m : Module) : Eff [.gates, .harts] m (eqGate hk p c g m) := by
  unfold eqGate
  iterate 24 all_goals try first
    | with_reducible exact Eff.refl _
    | with_reducible assumption
    | (with_reducible apply Eff.after (eff_retire ..); · decide)
    | (with_reducible apply Eff.after (eff_clearGate ..); · decide)
    | (with_reducible apply Eff.after (eff_stall ..); · decide)
    | intro _
    | extract_lets
    | with_reducible apply Eff.ite
    | split
    | dsimp only
    | dsimp +zetaDelta only

theorem eff_eqBeat (hk : Nat) (rd : Nat) (m : Module) : Eff [.harts] m (eqBeat hk rd m) := by
  unfold eqBeat
  iterate 24 all_goals try first
    | with_reducible exact Eff.refl _
    | with_reducible assumption
    | (with_reducible apply Eff.after (eff_retireReg ..); · decide)
    | intro _
    | extract_lets
    | with_reducible apply Eff.ite
    | split
    | dsimp only
    | dsimp +zetaDelta only

theorem eff_eqFence (hk : Nat) (p : Nat) (c : Nat) (m : Module) : Eff [.harts] m (eqFence hk p c m) := by
  unfold eqFence
  iterate 24 all_goals try first
    | with_reducible exact Eff.refl _
    | with_reducible assumption
    | (with_reducible apply Eff.after (eff_retire ..); · decide)
    | (with_reducible apply Eff.after (eff_stall ..); · decide)
    | intro _
    | extract_lets
    | with_reducible apply Eff.ite
    | split
    | dsimp only
    | dsimp +zetaDelta only

theorem eff_rvLoad (hk : Nat) (p : Nat) (c : Nat) (len : Nat) (f3 : Nat) (rd : Nat) (a : W64) (m : Module) : Eff [.harts, .mem, .flt, .vst, .hlt, .cor, .pci, .tray, .dbg, .out] m (rvLoad hk p c len f3 rd a m) := by
  unfold rvLoad
  iterate 24 all_goals try first
    | with_reducible exact Eff.refl _
    | with_reducible assumption
    | (with_reducible apply Eff.after (eff_hartFault ..); · decide)
    | (with_reducible apply Eff.after (eff_hartRead ..); · decide)
    | (with_reducible apply Eff.snd (eff_hartRead ..); with_reducible assumption; · decide)
    | (with_reducible apply Eff.after (eff_retireReg ..); · decide)
    | intro _
    | extract_lets
    | with_reducible apply Eff.ite
    | split
    | dsimp only
    | dsimp +zetaDelta only

theorem eff_rvStore (hk : Nat) (p : Nat) (c : Nat) (len : Nat) (f3 : Nat) (a : W64) (v : W64) (m : Module) : Eff [.harts, .cores, .mem, .flt, .vst, .hlt, .cor, .pci, .tray, .dbg, .out] m (rvStore hk p c len f3 a v m) := by
  unfold rvStore
  iterate 24 all_goals try first
    | with_reducible exact Eff.refl _
    | with_reducible assumption
    | (with_reducible apply Eff.after (eff_hartFault ..); · decide)
    | (with_reducible apply Eff.after (eff_retire ..); · decide)
    | (with_reducible apply Eff.after (eff_hartWrite ..); · decide)
    | intro _
    | extract_lets
    | with_reducible apply Eff.ite
    | split
    | dsimp only
    | dsimp +zetaDelta only

theorem eff_rvAmo (hk : Nat) (p : Nat) (c : Nat) (f5 : Nat) (wide : Bool) (rd : Nat) (a : W64) (v : W64) (m : Module) : Eff [.harts, .cores, .mem, .flt, .vst, .hlt, .cor, .pci, .tray, .dbg, .out] m (rvAmo hk p c f5 wide rd a v m) := by
  unfold rvAmo
  iterate 24 all_goals try first
    | with_reducible exact Eff.refl _
    | with_reducible assumption
    | (with_reducible apply Eff.after (eff_hartFault ..); · decide)
    | (with_reducible apply Eff.after (eff_setHart ..); · decide)
    | (with_reducible apply Eff.after (eff_retireReg ..); · decide)
    | (with_reducible apply Eff.after (eff_hartWrite ..); · decide)
    | (with_reducible apply Eff.after (eff_hartRead ..); · decide)
    | (with_reducible apply Eff.snd (eff_hartRead ..); with_reducible assumption; · decide)
    | intro _
    | extract_lets
    | with_reducible apply Eff.ite
    | (fail_if_no_progress ((with_reducible refine Eff.upd ?_ rfl rfl rfl rfl rfl rfl rfl rfl rfl rfl ?_); rotate_left; exact rfl))
    | split
    | dsimp only
    | dsimp +zetaDelta only

theorem eff_rvEq (hk : Nat) (p : Nat) (c : Nat) (f3 : Nat) (rd : Nat) (a : W64) (b : W64) (m : Module) : Eff [.queues, .gates, .outstanding, .harts, .mem, .flt, .vst, .hlt, .cor, .pci, .tray, .dbg, .out] m (rvEq hk p c f3 rd a b m) := by
  unfold rvEq
  iterate 24 all_goals try first
    | with_reducible exact Eff.refl _
    | with_reducible assumption
    | (with_reducible apply Eff.after (eff_eqPush ..); · decide)
    | (with_reducible apply Eff.after (eff_eqWait ..); · decide)
    | (with_reducible apply Eff.after (eff_eqPoll ..); · decide)
    | (with_reducible apply Eff.after (eff_eqGate ..); · decide)
    | (with_reducible apply Eff.after (eff_eqBeat ..); · decide)
    | (with_reducible apply Eff.after (eff_eqFence ..); · decide)
    | intro _
    | extract_lets
    | with_reducible apply Eff.ite
    | (fail_if_no_progress ((with_reducible refine Eff.upd ?_ rfl rfl rfl rfl rfl rfl rfl rfl rfl rfl ?_); rotate_left; exact rfl))
    | split
    | dsimp only
    | dsimp +zetaDelta only

theorem eff_rvExec (hk : Nat) (p : Nat) (c : Nat) (len : Nat) (i : Rv) (m : Module) : Eff [.queues, .gates, .outstanding, .harts, .cores, .mem, .flt, .vst, .hlt, .cor, .pci, .tray, .dbg, .out] m (rvExec hk p c len i m) := by
  unfold rvExec
  iterate 24 all_goals try first
    | with_reducible exact Eff.refl _
    | with_reducible assumption
    | (with_reducible apply Eff.after (eff_retireReg ..); · decide)
    | (with_reducible apply Eff.after (eff_retire ..); · decide)
    | (with_reducible apply Eff.after (eff_rvLoad ..); · decide)
    | (with_reducible apply Eff.after (eff_rvStore ..); · decide)
    | (with_reducible apply Eff.after (eff_rvAmo ..); · decide)
    | (with_reducible apply Eff.after (eff_rvEq ..); · decide)
    | intro _
    | extract_lets
    | with_reducible apply Eff.ite
    | (fail_if_no_progress ((with_reducible refine Eff.upd ?_ rfl rfl rfl rfl rfl rfl rfl rfl rfl rfl ?_); rotate_left; exact rfl))
    | split
    | dsimp only
    | dsimp +zetaDelta only

theorem eff_icachePut (core : Nat) (h : Nat) (bs : List Byte) (m : Module) : Eff [.cores, .mem] m (icachePut core h bs m) := by
  unfold icachePut
  iterate 24 all_goals try first
    | with_reducible exact Eff.refl _
    | with_reducible assumption
    | (with_reducible apply Eff.after (eff_setCore ..); · decide)
    | (with_reducible apply Eff.after (eff_freeVal ..); · decide)
    | (with_reducible apply Eff.snd (eff_freeVal ..); with_reducible assumption; · decide)
    | intro _
    | extract_lets
    | with_reducible apply Eff.ite
    | (fail_if_no_progress ((with_reducible refine Eff.upd ?_ rfl rfl rfl rfl rfl rfl rfl rfl rfl rfl ?_); rotate_left; exact rfl))
    | split
    | dsimp only
    | dsimp +zetaDelta only

theorem eff_fetchHalf (core : Nat) (p : Nat) (off : Nat) (m : Module) : Eff [.cores, .mem, .flt, .vst, .hlt, .cor, .pci, .tray, .dbg, .out] m (fetchHalf core p off m).2 := by
  unfold fetchHalf
  iterate 24 all_goals try first
    | with_reducible exact Eff.refl _
    | with_reducible assumption
    | (with_reducible apply Eff.after (eff_hallRead ..); · decide)
    | (with_reducible apply Eff.snd (eff_hallRead ..); with_reducible assumption; · decide)
    | (with_reducible apply Eff.after (eff_icachePut ..); · decide)
    | (with_reducible apply Eff.after (eff_freeVal ..); · decide)
    | (with_reducible apply Eff.snd (eff_freeVal ..); with_reducible assumption; · decide)
    | intro _
    | extract_lets
    | with_reducible apply Eff.ite
    | (fail_if_no_progress ((with_reducible refine Eff.upd ?_ rfl rfl rfl rfl rfl rfl rfl rfl rfl rfl ?_); rotate_left; exact rfl))
    | split
    | (with_reducible refine Eff.iteSnd (by assumption) ?_ ?_)
    | dsimp only
    | dsimp +zetaDelta only

theorem eff_fetchInstr (core : Nat) (p : Nat) (pc : W64) (m : Module) : Eff [.cores, .mem, .flt, .vst, .hlt, .cor, .pci, .tray, .dbg, .out] m (fetchInstr core p pc m).2 := by
  unfold fetchInstr
  iterate 24 all_goals try first
    | with_reducible exact Eff.refl _
    | with_reducible assumption
    | (with_reducible apply Eff.after (eff_fetchHalf ..); · decide)
    | (with_reducible apply Eff.snd (eff_fetchHalf ..); with_reducible assumption; · decide)
    | intro _
    | extract_lets
    | with_reducible apply Eff.ite
    | (fail_if_no_progress ((with_reducible refine Eff.upd ?_ rfl rfl rfl rfl rfl rfl rfl rfl rfl rfl ?_); rotate_left; exact rfl))
    | split
    | (with_reducible refine Eff.iteSnd (by assumption) ?_ ?_)
    | dsimp only
    | dsimp +zetaDelta only

theorem eff_bpHit (hk : Nat) (p : Nat) (c : Nat) (m : Module) : Eff [.harts, .vst, .hlt, .pci, .tray, .dbg, .out] m (bpHit hk p c m) := by
  unfold bpHit
  iterate 24 all_goals try first
    | with_reducible exact Eff.refl _
    | with_reducible assumption
    | (with_reducible apply Eff.after (eff_setHart ..); · decide)
    | (with_reducible apply Eff.after (eff_traceEv ..); · decide)
    | (with_reducible apply Eff.after (eff_ev ..); · decide)
    | intro _
    | extract_lets
    | with_reducible apply Eff.ite
    | with_reducible apply Eff.fold
    | (fail_if_no_progress ((with_reducible refine Eff.upd ?_ rfl rfl rfl rfl rfl rfl rfl rfl rfl rfl ?_); rotate_left; exact rfl))
    | split
    | (with_reducible refine Eff.iteSnd (by assumption) ?_ ?_)
    | dsimp only
    | dsimp +zetaDelta only
    | with_reducible apply Eff.foldSnd
    | with_reducible apply Eff.foldFst
    | with_reducible apply Eff.foldThird

theorem eff_noteExit (hk : Nat) (p : Nat) (c : Nat) (m : Module) : Eff [.wdg] m (noteExit hk p c m) := by
  unfold noteExit
  iterate 24 all_goals try first
    | with_reducible exact Eff.refl _
    | with_reducible assumption
    | intro _
    | extract_lets
    | with_reducible apply Eff.ite
    | (fail_if_no_progress ((with_reducible refine Eff.upd ?_ rfl rfl rfl rfl rfl rfl rfl rfl rfl rfl ?_); rotate_left; exact rfl))
    | split
    | dsimp only
    | dsimp +zetaDelta only

theorem eff_hartStep (hk : Nat) (p : Nat) (c : Nat) (m : Module) : Eff [.queues, .gates, .outstanding, .harts, .cores, .mem, .flt, .vst, .wdg, .hlt, .cor, .pci, .tray, .dbg, .out] m (hartStep hk p c m) := by
  unfold hartStep
  iterate 24 all_goals try first
    | with_reducible exact Eff.refl _
    | with_reducible assumption
    | (with_reducible apply Eff.after (eff_bpHit ..); · decide)
    | (with_reducible apply Eff.after (eff_noteExit ..); · decide)
    | (with_reducible apply Eff.after (eff_fetchInstr ..); · decide)
    | (with_reducible apply Eff.snd (eff_fetchInstr ..); with_reducible assumption; · decide)
    | (with_reducible apply Eff.after (eff_hartFault ..); · decide)
    | (with_reducible apply Eff.after (eff_rvExec ..); · decide)
    | intro _
    | extract_lets
    | with_reducible apply Eff.ite
    | (fail_if_no_progress ((with_reducible refine Eff.upd ?_ rfl rfl rfl rfl rfl rfl rfl rfl rfl rfl ?_); rotate_left; exact rfl))
    | split
    | dsimp only
    | dsimp +zetaDelta only

theorem eff_issued (core : Nat) (h : Nat) (m : Module) : Eff [.cores] m (issued core h m) := by
  unfold issued
  iterate 24 all_goals try first
    | with_reducible exact Eff.refl _
    | with_reducible assumption
    | (with_reducible apply Eff.after (eff_setCore ..); · decide)
    | intro _
    | extract_lets
    | with_reducible apply Eff.ite
    | (fail_if_no_progress ((with_reducible refine Eff.upd ?_ rfl rfl rfl rfl rfl rfl rfl rfl rfl rfl ?_); rotate_left; exact rfl))
    | split
    | dsimp only
    | dsimp +zetaDelta only

theorem eff_execHartInstruction (core : Fin 32) (hart : Fin 4) (waits : BitVec 4) (s : State) : EffOut [.queues, .gates, .outstanding, .harts, .cores, .mem, .flt, .vst, .wdg, .hlt, .cor, .pci, .tray, .dbg, .out] s (execHartInstruction core hart waits s) := by
  unfold execHartInstruction
  iterate 24 all_goals try first
    | with_reducible exact EffOut.stop
    | with_reducible exact EffOut.ill
    | with_reducible refine EffOut.done ?_
    | with_reducible exact Eff.refl _
    | with_reducible assumption
    | (with_reducible apply Eff.after (eff_hartStep ..); · decide)
    | (with_reducible apply Eff.after (eff_issued ..); · decide)
    | exact (eff_done ..).mono (by decide)
    | intro _
    | extract_lets
    | with_reducible apply Eff.ite
    | (fail_if_no_progress ((with_reducible refine Eff.upd ?_ rfl rfl rfl rfl rfl rfl rfl rfl rfl rfl ?_); rotate_left; exact rfl))
    | split
    | dsimp only
    | dsimp +zetaDelta only

theorem eff_eqRow (row : String) (f3 : Nat) (core : Fin 32) (hart : Fin 4) (waits : BitVec 4) (s : State) : EffOut [.queues, .gates, .outstanding, .harts, .cores, .mem, .flt, .vst, .wdg, .hlt, .cor, .pci, .tray, .dbg, .out] s (eqRow row f3 core hart waits s) := by
  unfold eqRow
  iterate 24 all_goals try first
    | with_reducible exact EffOut.stop
    | with_reducible exact EffOut.ill
    | with_reducible refine EffOut.done ?_
    | with_reducible exact Eff.refl _
    | with_reducible assumption
    | (with_reducible apply Eff.after (eff_hartStep ..); · decide)
    | (with_reducible apply Eff.after (eff_issued ..); · decide)
    | exact (eff_done ..).mono (by decide)
    | intro _
    | extract_lets
    | with_reducible apply Eff.ite
    | (fail_if_no_progress ((with_reducible refine Eff.upd ?_ rfl rfl rfl rfl rfl rfl rfl rfl rfl rfl ?_); rotate_left; exact rfl))
    | split
    | dsimp only
    | dsimp +zetaDelta only

theorem eff_execEqPush (core : Fin 32) (hart : Fin 4) (waits : BitVec 4) (s : State) : EffOut [.queues, .gates, .outstanding, .harts, .cores, .mem, .flt, .vst, .wdg, .hlt, .cor, .pci, .tray, .dbg, .out] s (execEqPush core hart waits s) := by
  unfold execEqPush
  iterate 24 all_goals try first
    | with_reducible exact EffOut.stop
    | with_reducible exact EffOut.ill
    | with_reducible refine EffOut.done ?_
    | with_reducible exact Eff.refl _
    | with_reducible assumption
    | exact (eff_eqRow ..).mono (by decide)
    | exact (eff_eqRow ..).mono (by decide)
    | intro _
    | extract_lets
    | with_reducible apply Eff.ite
    | split
    | dsimp only
    | dsimp +zetaDelta only

theorem eff_execEqWait (core : Fin 32) (hart : Fin 4) (waits : BitVec 4) (s : State) : EffOut [.queues, .gates, .outstanding, .harts, .cores, .mem, .flt, .vst, .wdg, .hlt, .cor, .pci, .tray, .dbg, .out] s (execEqWait core hart waits s) := by
  unfold execEqWait
  iterate 24 all_goals try first
    | with_reducible exact EffOut.stop
    | with_reducible exact EffOut.ill
    | with_reducible refine EffOut.done ?_
    | with_reducible exact Eff.refl _
    | with_reducible assumption
    | exact (eff_eqRow ..).mono (by decide)
    | exact (eff_eqRow ..).mono (by decide)
    | intro _
    | extract_lets
    | with_reducible apply Eff.ite
    | split
    | dsimp only
    | dsimp +zetaDelta only

theorem eff_execEqPoll (core : Fin 32) (hart : Fin 4) (waits : BitVec 4) (s : State) : EffOut [.queues, .gates, .outstanding, .harts, .cores, .mem, .flt, .vst, .wdg, .hlt, .cor, .pci, .tray, .dbg, .out] s (execEqPoll core hart waits s) := by
  unfold execEqPoll
  iterate 24 all_goals try first
    | with_reducible exact EffOut.stop
    | with_reducible exact EffOut.ill
    | with_reducible refine EffOut.done ?_
    | with_reducible exact Eff.refl _
    | with_reducible assumption
    | exact (eff_eqRow ..).mono (by decide)
    | exact (eff_eqRow ..).mono (by decide)
    | intro _
    | extract_lets
    | with_reducible apply Eff.ite
    | split
    | dsimp only
    | dsimp +zetaDelta only

theorem eff_execEqGate (core : Fin 32) (hart : Fin 4) (waits : BitVec 4) (s : State) : EffOut [.queues, .gates, .outstanding, .harts, .cores, .mem, .flt, .vst, .wdg, .hlt, .cor, .pci, .tray, .dbg, .out] s (execEqGate core hart waits s) := by
  unfold execEqGate
  iterate 24 all_goals try first
    | with_reducible exact EffOut.stop
    | with_reducible exact EffOut.ill
    | with_reducible refine EffOut.done ?_
    | with_reducible exact Eff.refl _
    | with_reducible assumption
    | exact (eff_eqRow ..).mono (by decide)
    | exact (eff_eqRow ..).mono (by decide)
    | intro _
    | extract_lets
    | with_reducible apply Eff.ite
    | split
    | dsimp only
    | dsimp +zetaDelta only

theorem eff_execEqBeat (core : Fin 32) (hart : Fin 4) (waits : BitVec 4) (s : State) : EffOut [.queues, .gates, .outstanding, .harts, .cores, .mem, .flt, .vst, .wdg, .hlt, .cor, .pci, .tray, .dbg, .out] s (execEqBeat core hart waits s) := by
  unfold execEqBeat
  iterate 24 all_goals try first
    | with_reducible exact EffOut.stop
    | with_reducible exact EffOut.ill
    | with_reducible refine EffOut.done ?_
    | with_reducible exact Eff.refl _
    | with_reducible assumption
    | exact (eff_eqRow ..).mono (by decide)
    | exact (eff_eqRow ..).mono (by decide)
    | intro _
    | extract_lets
    | with_reducible apply Eff.ite
    | split
    | dsimp only
    | dsimp +zetaDelta only

theorem eff_execEqFence (core : Fin 32) (hart : Fin 4) (waits : BitVec 4) (s : State) : EffOut [.queues, .gates, .outstanding, .harts, .cores, .mem, .flt, .vst, .wdg, .hlt, .cor, .pci, .tray, .dbg, .out] s (execEqFence core hart waits s) := by
  unfold execEqFence
  iterate 24 all_goals try first
    | with_reducible exact EffOut.stop
    | with_reducible exact EffOut.ill
    | with_reducible refine EffOut.done ?_
    | with_reducible exact Eff.refl _
    | with_reducible assumption
    | exact (eff_eqRow ..).mono (by decide)
    | exact (eff_eqRow ..).mono (by decide)
    | intro _
    | extract_lets
    | with_reducible apply Eff.ite
    | split
    | dsimp only
    | dsimp +zetaDelta only

theorem eff_execEqPushStallEnd (core : Fin 32) (hart : Fin 4) (s : State) : EffOut [.queues, .outstanding, .harts, .vst, .hlt, .pci, .tray, .dbg, .out] s (execEqPushStallEnd core hart s) := by
  unfold execEqPushStallEnd
  iterate 24 all_goals try first
    | with_reducible exact EffOut.stop
    | with_reducible exact EffOut.ill
    | with_reducible refine EffOut.done ?_
    | with_reducible exact Eff.refl _
    | with_reducible assumption
    | (with_reducible apply Eff.after (eff_ev ..); · decide)
    | (with_reducible apply Eff.after (eff_unstall ..); · decide)
    | (with_reducible apply Eff.after (eff_setHart ..); · decide)
    | (with_reducible apply Eff.after (eff_pushInto ..); · decide)
    | exact (eff_done ..).mono (by decide)
    | intro _
    | extract_lets
    | with_reducible apply Eff.ite
    | (fail_if_no_progress ((with_reducible refine Eff.upd ?_ rfl rfl rfl rfl rfl rfl rfl rfl rfl rfl ?_); rotate_left; exact rfl))
    | split
    | dsimp only
    | dsimp +zetaDelta only

theorem eff_execEqWaitSatisfied (core : Fin 32) (hart : Fin 4) (s : State) : EffOut [.harts, .mem] s (execEqWaitSatisfied core hart s) := by
  unfold execEqWaitSatisfied
  iterate 24 all_goals try first
    | with_reducible exact EffOut.stop
    | with_reducible exact EffOut.ill
    | with_reducible refine EffOut.done ?_
    | with_reducible exact Eff.refl _
    | with_reducible assumption
    | (with_reducible apply Eff.after (eff_qidCount ..); · decide)
    | (with_reducible apply Eff.snd (eff_qidCount ..); with_reducible assumption; · decide)
    | (with_reducible apply Eff.after (eff_unstall ..); · decide)
    | exact (eff_done ..).mono (by decide)
    | intro _
    | extract_lets
    | with_reducible apply Eff.ite
    | (fail_if_no_progress ((with_reducible refine Eff.upd ?_ rfl rfl rfl rfl rfl rfl rfl rfl rfl rfl ?_); rotate_left; exact rfl))
    | split
    | dsimp only
    | dsimp +zetaDelta only

theorem eff_execEqGateSatisfied (core : Fin 32) (hart : Fin 4) (s : State) : EffOut [.gates, .harts] s (execEqGateSatisfied core hart s) := by
  unfold execEqGateSatisfied
  iterate 24 all_goals try first
    | with_reducible exact EffOut.stop
    | with_reducible exact EffOut.ill
    | with_reducible refine EffOut.done ?_
    | with_reducible exact Eff.refl _
    | with_reducible assumption
    | (with_reducible apply Eff.after (eff_unstall ..); · decide)
    | (with_reducible apply Eff.after (eff_clearGate ..); · decide)
    | exact (eff_done ..).mono (by decide)
    | intro _
    | extract_lets
    | with_reducible apply Eff.ite
    | (fail_if_no_progress ((with_reducible refine Eff.upd ?_ rfl rfl rfl rfl rfl rfl rfl rfl rfl rfl ?_); rotate_left; exact rfl))
    | split
    | dsimp only
    | dsimp +zetaDelta only

theorem eff_execEqFenceSatisfied (core : Fin 32) (hart : Fin 4) (s : State) : EffOut [.harts] s (execEqFenceSatisfied core hart s) := by
  unfold execEqFenceSatisfied
  iterate 24 all_goals try first
    | with_reducible exact EffOut.stop
    | with_reducible exact EffOut.ill
    | with_reducible refine EffOut.done ?_
    | with_reducible exact Eff.refl _
    | with_reducible assumption
    | (with_reducible apply Eff.after (eff_unstall ..); · decide)
    | exact (eff_done ..).mono (by decide)
    | intro _
    | extract_lets
    | with_reducible apply Eff.ite
    | (fail_if_no_progress ((with_reducible refine Eff.upd ?_ rfl rfl rfl rfl rfl rfl rfl rfl rfl rfl ?_); rotate_left; exact rfl))
    | split
    | dsimp only
    | dsimp +zetaDelta only

theorem eff_hartStart (hk : Nat) (m : Module) : Eff [.harts, .wdg] m (hartStart hk m) := by
  unfold hartStart
  iterate 24 all_goals try first
    | with_reducible exact Eff.refl _
    | with_reducible assumption
    | (with_reducible apply Eff.after (eff_setHart ..); · decide)
    | intro _
    | extract_lets
    | with_reducible apply Eff.ite
    | (fail_if_no_progress ((with_reducible refine Eff.upd ?_ rfl rfl rfl rfl rfl rfl rfl rfl rfl rfl ?_); rotate_left; exact rfl))
    | split
    | dsimp only
    | dsimp +zetaDelta only

theorem eff_hartHalt (hk : Nat) (m : Module) : Eff [.harts] m (hartHalt hk m) := by
  unfold hartHalt
  iterate 24 all_goals try first
    | with_reducible exact Eff.refl _
    | with_reducible assumption
    | (with_reducible apply Eff.after (eff_setHart ..); · decide)
    | intro _
    | extract_lets
    | with_reducible apply Eff.ite
    | split
    | dsimp only
    | dsimp +zetaDelta only

theorem eff_ccCtrl (core : Nat) (val : W64) (m : Module) : Eff [.harts, .wdg] m (ccCtrl core val m) := by
  unfold ccCtrl
  iterate 24 all_goals try first
    | with_reducible exact Eff.refl _
    | with_reducible assumption
    | (with_reducible apply Eff.after (eff_hartStart ..); · decide)
    | (with_reducible apply Eff.after (eff_hartHalt ..); · decide)
    | intro _
    | extract_lets
    | with_reducible apply Eff.ite
    | with_reducible apply Eff.fold
    | split
    | (with_reducible refine Eff.iteSnd (by assumption) ?_ ?_)
    | dsimp only
    | dsimp +zetaDelta only
    | with_reducible apply Eff.foldSnd
    | with_reducible apply Eff.foldFst
    | with_reducible apply Eff.foldThird

theorem eff_execHartStart (core : Fin 32) (hart : Fin 4) (s : State) : EffOut [.harts, .wdg] s (execHartStart core hart s) := by
  unfold execHartStart
  iterate 24 all_goals try first
    | with_reducible exact EffOut.stop
    | with_reducible exact EffOut.ill
    | with_reducible refine EffOut.done ?_
    | with_reducible exact Eff.refl _
    | with_reducible assumption
    | (with_reducible apply Eff.after (eff_hartStart ..); · decide)
    | exact (eff_done ..).mono (by decide)
    | intro _
    | extract_lets
    | with_reducible apply Eff.ite
    | split
    | dsimp only
    | dsimp +zetaDelta only

theorem eff_execHartHalt (core : Fin 32) (hart : Fin 4) (s : State) : EffOut [.harts] s (execHartHalt core hart s) := by
  unfold execHartHalt
  iterate 24 all_goals try first
    | with_reducible exact EffOut.stop
    | with_reducible exact EffOut.ill
    | with_reducible refine EffOut.done ?_
    | with_reducible exact Eff.refl _
    | with_reducible assumption
    | (with_reducible apply Eff.after (eff_hartHalt ..); · decide)
    | exact (eff_done ..).mono (by decide)
    | intro _
    | extract_lets
    | with_reducible apply Eff.ite
    | split
    | dsimp only
    | dsimp +zetaDelta only

theorem eff_bpResume (hk : Nat) (step : Bool) (m : Module) : Eff [.harts, .wdg] m (bpResume hk step m) := by
  unfold bpResume
  iterate 24 all_goals try first
    | with_reducible exact Eff.refl _
    | with_reducible assumption
    | (with_reducible apply Eff.after (eff_setHart ..); · decide)
    | intro _
    | extract_lets
    | with_reducible apply Eff.ite
    | (fail_if_no_progress ((with_reducible refine Eff.upd ?_ rfl rfl rfl rfl rfl rfl rfl rfl rfl rfl ?_); rotate_left; exact rfl))
    | split
    | dsimp only
    | dsimp +zetaDelta only

theorem eff_execResume (core : Fin 32) (hart : Fin 4) (s : State) : EffOut [.harts, .wdg] s (execResume core hart s) := by
  unfold execResume
  iterate 24 all_goals try first
    | with_reducible exact EffOut.stop
    | with_reducible exact EffOut.ill
    | with_reducible refine EffOut.done ?_
    | with_reducible exact Eff.refl _
    | with_reducible assumption
    | (with_reducible apply Eff.after (eff_bpResume ..); · decide)
    | exact (eff_done ..).mono (by decide)
    | intro _
    | extract_lets
    | with_reducible apply Eff.ite
    | split
    | dsimp only
    | dsimp +zetaDelta only

theorem eff_execBpStep (core : Fin 32) (hart : Fin 4) (s : State) : EffOut [.harts, .wdg] s (execBpStep core hart s) := by
  unfold execBpStep
  iterate 24 all_goals try first
    | with_reducible exact EffOut.stop
    | with_reducible exact EffOut.ill
    | with_reducible refine EffOut.done ?_
    | with_reducible exact Eff.refl _
    | with_reducible assumption
    | (with_reducible apply Eff.after (eff_bpResume ..); · decide)
    | exact (eff_done ..).mono (by decide)
    | intro _
    | extract_lets
    | with_reducible apply Eff.ite
    | split
    | dsimp only
    | dsimp +zetaDelta only

theorem eff_bpCmd (val : W64) (m : Module) : Eff [.harts, .wdg] m (bpCmd val m) := by
  unfold bpCmd
  iterate 24 all_goals try first
    | with_reducible exact Eff.refl _
    | with_reducible assumption
    | (with_reducible apply Eff.after (eff_bpResume ..); · decide)
    | intro _
    | extract_lets
    | with_reducible apply Eff.ite
    | split
    | dsimp only
    | dsimp +zetaDelta only

theorem eff_execDrained (part : Fin 16) (s : State) : EffOut [.vst, .hlt, .pci, .tray, .dbg, .out] s (execDrained part s) := by
  unfold execDrained
  iterate 24 all_goals try first
    | with_reducible exact EffOut.stop
    | with_reducible exact EffOut.ill
    | with_reducible refine EffOut.done ?_
    | with_reducible exact Eff.refl _
    | with_reducible assumption
    | (with_reducible apply Eff.after (eff_ev ..); · decide)
    | exact (eff_done ..).mono (by decide)
    | intro _
    | extract_lets
    | with_reducible apply Eff.ite
    | (fail_if_no_progress ((with_reducible refine Eff.upd ?_ rfl rfl rfl rfl rfl rfl rfl rfl rfl rfl ?_); rotate_left; exact rfl))
    | split
    | dsimp only
    | dsimp +zetaDelta only

end Sys2Proof.Laws
end

