-- ==== Sys2Proof/Laws/EffLnd.lean ====
section
/-! SUPPORT. What the operations of Lnd.lean keep, and what they may change. -/

namespace Sys2Proof.Laws
open Sys2Proof.Machine

theorem eff_streamIn (x : RunAt) (i : ℕ) (m : Module) : Eff [.mem, .flt, .vst, .hlt, .cor, .pci, .tray, .dbg, .out] m (streamIn x i m).2 := by
  have h : ∀ o n, Eff [.mem, .flt, .vst, .hlt, .cor, .pci, .tray, .dbg, .out] m (hallRead (x.l / 8) x.d.part o n m).2 := fun o n => (eff_hallRead ..).mono (by decide)
  unfold streamIn
  extract_lets bf sp
  split
  rename_i b m1 e
  exact Eff.snd (h _ _) e (by decide) (.refl _)

theorem eff_operand (x : RunAt) (src : ℕ) (s : RunSt) : Eff [.mem, .flt, .vst, .hlt, .cor, .pci, .tray, .dbg, .out] s.m (operand x src s).2.m := by
  unfold operand
  split
  · exact .refl _
  split
  · exact .refl _
  · exact (eff_streamIn ..).mono (by decide)

theorem eff_streamOut (x : RunAt) (i rnd col : ℕ) (vs : List Val) (s : RunSt) : Eff [.mem, .flt, .vst, .hlt, .cor, .pci, .tray, .dbg, .out] s.m (streamOut x i rnd col vs s).m :=
  eff_hallWrite ..

theorem eff_operandIf (x : RunAt) (src : ℕ) (p : Prop) [Decidable p] (l : List Val) (s : RunSt) :
    Eff [.mem, .flt, .vst, .hlt, .cor, .pci, .tray, .dbg, .out] s.m (if p then operand x src s else (l, s)).2.m := by
  split
  · exact (eff_operand ..).mono (by decide)
  · exact .refl _

theorem eff_opValues (x : RunAt) (o : LOp) (n : ℕ) (s : RunSt) : Eff [.mem, .flt, .vst, .hlt, .cor, .pci, .tray, .dbg, .out] s.m (opValues x o n s).2.m := by
  rw [opValues]
  generalize List.replicate x.n (f32 (BitVec.ofNat 32 o.imm)) = imm
  generalize lopKind o.opc = k
  have h1 : Eff [.mem, .flt, .vst, .hlt, .cor, .pci, .tray, .dbg, .out] s.m (if usesA k = true then operand x o.a s else ([], s)).2.m := (eff_operandIf ..).mono (by decide)
  split
  rename_i a s1 e1
  rw [e1] at h1
  have h2 : Eff [.mem, .flt, .vst, .hlt, .cor, .pci, .tray, .dbg, .out] s1.m (if (decide (k = 2) || decide (k = 3)) = true then if o.ib = true then (imm, s1) else operand x o.b s1 else ([], s1)).2.m := by
    split
    · split
      · exact .refl _
      · exact (eff_operand ..).mono (by decide)
    · exact .refl _
  split
  rename_i b s2 e2
  rw [e2] at h2
  have h3 : Eff [.mem, .flt, .vst, .hlt, .cor, .pci, .tray, .dbg, .out] s2.m (if k = 3 then operand x o.c s2 else ([], s2)).2.m := (eff_operandIf ..).mono (by decide)
  split
  rename_i c s3 e3
  rw [e3] at h3
  have h := (h1.trans h2).trans h3
  split
  · exact h
  split
  · exact h
  split
  · exact h
  · exact h

theorem eff_runOp (x : RunAt) (o : LOp) (s : RunSt) : Eff [.mem, .flt, .vst, .hlt, .cor, .pci, .tray, .dbg, .out] s.m (runOp x o s).m := by
  rw [runOp]
  split
  · have h := eff_hallRead (x.l / 8) x.d.part (gaOff (strAddr x.d (o.imm % 8)) + x.row * strStride x.d (o.imm % 8))
      (strSize x.d (o.imm % 8)) s.m
    extract_lets i
    split
    rename_i b m1 e
    rw [e] at h
    exact h
  split
  · exact (eff_streamOut ..).mono (by decide)
  split
  · have h := eff_operand x o.a s
    split
    rename_i a s1 e
    rw [e] at h
    exact h
  have h := eff_opValues x o (if lopScalar o = true then 1 else x.n) s
  split
  rename_i vs s1 e
  rw [e] at h
  split
  · exact h
  split
  · exact h
  · exact h.trans ((eff_streamOut ..).mono (by decide))

theorem eff_issueOp (x : RunAt) (o : LOp) (tiles : ℕ) (s : RunSt) : Eff [] s.m (issueOp x o tiles s).m := by
  have hf {β : Type} (g : List Nat × RunSt → β → List Nat × RunSt) (hg : ∀ a j, (g a j).2.m = a.2.m) (r : List β) (a : List Nat × RunSt) :
      (r.foldl g a).2.m = a.2.m := by
    induction r generalizing a with
    | nil => rfl
    | cons j r ih => exact (ih _).trans (hg a j)
  rw [issueOp]
  extract_lets
  split
  rename_i e
  have h := (hf _ ?_ _ _).symm.trans (congrArg (fun a => a.2.m) e)
  · dsimp only at h ⊢
    rw [← h]
    exact .refl _
  · exact fun _ _ => rfl

theorem eff_runFold {k : List Part} {α : Type} {g : RunSt → α → RunSt} (l : List α) (s : RunSt) (hg : ∀ s x, Eff k s.m (g s x).m) :
    Eff k s.m (l.foldl g s).m := by
  induction l generalizing s with
  | nil => exact .refl _
  | cons x r ih => exact (hg s x).trans (ih _)

theorem eff_regsRead (x : RunAt) (s : RunSt) : Eff [] s.m (regsRead x s).m := by
  unfold regsRead
  refine eff_runFold _ _ fun s h => ?_
  split <;> exact .refl _

theorem eff_runBundle (x : RunAt) (sec : List LOp) (s : RunSt) : Eff [.mem, .flt, .vst, .hlt, .cor, .pci, .tray, .dbg, .out] s.m (runBundle x sec s).m :=
  eff_runFold _ _ fun _ _ => (((eff_regsRead ..).mono (by decide)).trans ((eff_runOp ..).mono (by decide))).trans ((eff_issueOp ..).mono (by decide))

theorem eff_runAll (d : Desc) (l : ℕ) (seed : W64) (sc : W32) (ahead : List (List (ℕ × ℕ × ℕ))) (hits : List EccHit)
    (secs : List (List LOp)) (s : RunSt) :
    Eff [.mem, .flt, .vst, .hlt, .cor, .pci, .tray, .dbg, .out] s.m (runAll d l seed sc ahead hits secs s).m := by
  unfold runAll
  extract_lets bf vl tl
  refine eff_runFold _ _ fun s row => ?_
  extract_lets s1
  refine (show Eff [.mem, .flt, .vst, .hlt, .cor, .pci, .tray, .dbg, .out] s.m s1.m from .refl _).trans (eff_runFold _ _ fun s e => ?_)
  extract_lets s2
  exact (show Eff [.mem, .flt, .vst, .hlt, .cor, .pci, .tray, .dbg, .out] s.m s2.m from .refl _).trans (eff_runFold _ _ fun s b => eff_runBundle ..)

theorem eff_lndRefuse (l : ℕ) (code : ℕ) (d : Desc) (m : Module) : Eff [.counts, .outstanding, .harts, .lnd, .vst, .wdg, .hlt, .pci, .tray, .dbg, .out] m (lndRefuse l code d m) := by
  unfold lndRefuse
  iterate 24 all_goals try first
    | with_reducible exact Eff.refl _
    | with_reducible assumption
    | (with_reducible apply Eff.after (eff_setLnd ..); · decide)
    | (with_reducible apply Eff.after (eff_bodyRefused ..); · decide)

theorem eff_lndEcc (d : Desc) (l : Nat) (hits : List EccHit) (m : Module) : Eff [.lnd, .vst, .hlt, .pci, .tray, .dbg, .out] m (lndEcc d l hits m) := by
  unfold lndEcc
  iterate 24 all_goals try first
    | with_reducible exact Eff.refl _
    | with_reducible assumption
    | (with_reducible apply Eff.after (eff_eccEvents ..); · decide)
    | (with_reducible apply Eff.after (eff_setLnd ..); · decide)
    | intro _
    | extract_lets
    | with_reducible apply Eff.ite
    | (fail_if_no_progress ((with_reducible refine Eff.upd ?_ rfl rfl rfl rfl rfl rfl rfl rfl rfl rfl ?_); rotate_left; exact rfl))
    | split
    | dsimp only
    | dsimp +zetaDelta only

theorem eff_lndLockstep (l : Nat) (p : Nat) (m0 : Module) (m : Module) : Eff [.lnd] m (lndLockstep l p m0 m) := by
  unfold lndLockstep
  iterate 24 all_goals try first
    | with_reducible exact Eff.refl _
    | with_reducible assumption
    | (with_reducible apply Eff.after (eff_setLnd ..); · decide)
    | intro _
    | extract_lets
    | with_reducible apply Eff.ite
    | (fail_if_no_progress ((with_reducible refine Eff.upd ?_ rfl rfl rfl rfl rfl rfl rfl rfl rfl rfl ?_); rotate_left; exact rfl))
    | split
    | dsimp only
    | dsimp +zetaDelta only

theorem eff_rnStart (l : Nat) (d : Desc) (secs : List (List LOp)) (draws : Bool) (hallStalls : Nat) (nwlStalls : Nat) (ecc : List EccHit) (m : Module) : Eff [.lnd, .nwl, .mem, .flt, .vst, .hlt, .cor, .pci, .tray, .dbg, .out] m (rnStart l d secs draws hallStalls nwlStalls ecc m) := by
  unfold rnStart
  iterate 24 all_goals try first
    | with_reducible exact Eff.refl _
    | with_reducible assumption
    | (with_reducible apply Eff.after (eff_nwlCount ..); · decide)
    | (with_reducible apply Eff.after (eff_addPLnd ..); · decide)
    | (with_reducible apply Eff.after (eff_hallLost ..); · decide)
    | (with_reducible apply Eff.after (eff_setLnd ..); · decide)
    | (with_reducible apply Eff.after (eff_runAll ..); · decide)
    | intro _
    | extract_lets
    | with_reducible apply Eff.ite
    | (fail_if_no_progress ((with_reducible refine Eff.upd ?_ rfl rfl rfl rfl rfl rfl rfl rfl rfl rfl ?_); rotate_left; exact rfl))
    | split
    | dsimp only
    | dsimp +zetaDelta only

theorem eff_execRun (l : Fin 16) (hallStalls : Nat) (nwlStalls : Nat) (ecc : List EccHit) (seedEcc : List EccHit) (errs : List MemErr) (s : State) : EffOut [.queues, .counts, .outstanding, .harts, .lnd, .nwl, .mem, .flt, .vst, .wdg, .hlt, .cor, .pci, .tray, .dbg, .out] s (execRun l hallStalls nwlStalls ecc seedEcc errs s) := by
  unfold execRun
  iterate 24 all_goals try first
    | with_reducible exact EffOut.stop
    | with_reducible exact EffOut.ill
    | with_reducible refine EffOut.done ?_
    | with_reducible exact Eff.refl _
    | with_reducible assumption
    | (with_reducible apply Eff.after (eff_dequeue ..); · decide)
    | (with_reducible apply Eff.after (eff_lndRefuse ..); · decide)
    | (with_reducible apply Eff.after (eff_hallRead ..); · decide)
    | (with_reducible apply Eff.snd (eff_hallRead ..); with_reducible assumption; · decide)
    | (with_reducible apply Eff.after (eff_memErrs ..); · decide)
    | (with_reducible apply Eff.after (eff_descStart ..); · decide)
    | (with_reducible apply Eff.after (eff_nwlEcc ..); · decide)
    | (with_reducible apply Eff.after (eff_complete ..); · decide)
    | (with_reducible apply Eff.after (eff_refuseDraw ..); · decide)
    | with_reducible refine eff_eccBoth ?_ ?_
    | (with_reducible apply Eff.after (eff_lndEcc ..); · decide)
    | (with_reducible apply Eff.after (eff_lndLockstep ..); · decide)
    | (with_reducible apply Eff.after (eff_rnStart ..); · decide)
    | exact (eff_done ..).mono (by decide)
    | intro _
    | extract_lets
    | with_reducible apply Eff.ite
    | (fail_if_no_progress ((with_reducible refine Eff.upd ?_ rfl rfl rfl rfl rfl rfl rfl rfl rfl rfl ?_); rotate_left; exact rfl))
    | split
    | (with_reducible refine Eff.iteSnd (by assumption) ?_ ?_)
    | dsimp only
    | dsimp +zetaDelta only

theorem eff_execLndComplete (l : Fin 16) (pairDiff : Bool) (s : State) : EffOut [.clk, .beat, .counts, .outstanding, .harts, .lnd, .mem, .vst, .wdg, .chk, .hlt, .cor, .pci, .tray, .dbg, .out] s (execLndComplete l pairDiff s) := by
  unfold execLndComplete
  iterate 24 all_goals try first
    | with_reducible exact EffOut.stop
    | with_reducible exact EffOut.ill
    | with_reducible refine EffOut.done ?_
    | with_reducible exact Eff.refl _
    | with_reducible assumption
    | (with_reducible apply Eff.after (eff_passToCycle ..); · decide)
    | (with_reducible apply Eff.after (eff_setLnd ..); · decide)
    | (with_reducible apply Eff.after (eff_lndLockstep ..); · decide)
    | (with_reducible apply Eff.after (eff_comparePair ..); · decide)
    | (with_reducible apply Eff.after (eff_complete ..); · decide)
    | exact (eff_done ..).mono (by decide)
    | intro _
    | extract_lets
    | with_reducible apply Eff.ite
    | (fail_if_no_progress ((with_reducible refine Eff.upd ?_ rfl rfl rfl rfl rfl rfl rfl rfl rfl rfl ?_); rotate_left; exact rfl))
    | split
    | dsimp only
    | dsimp +zetaDelta only

theorem eff_lndCntClr (l : Nat) (m : Module) : Eff [.lnd] m (lndCntClr l m) := by
  unfold lndCntClr
  iterate 24 all_goals try first
    | with_reducible exact Eff.refl _
    | with_reducible assumption
    | (with_reducible apply Eff.after (eff_setLnd ..); · decide)
    | intro _
    | extract_lets
    | with_reducible apply Eff.ite
    | split
    | dsimp only
    | dsimp +zetaDelta only

theorem eff_execLndCntClr (l : Fin 16) (s : State) : EffOut [.lnd] s (execLndCntClr l s) := by
  unfold execLndCntClr
  iterate 24 all_goals try first
    | with_reducible exact EffOut.stop
    | with_reducible exact EffOut.ill
    | with_reducible refine EffOut.done ?_
    | with_reducible exact Eff.refl _
    | with_reducible assumption
    | (with_reducible apply Eff.after (eff_lndCntClr ..); · decide)
    | exact (eff_done ..).mono (by decide)
    | intro _
    | extract_lets
    | with_reducible apply Eff.ite
    | split
    | dsimp only
    | dsimp +zetaDelta only

end Sys2Proof.Laws
end

