-- ==== Sys2Proof/Laws/EffPci.lean ====
section
/-! SUPPORT. What the operations of Pci.lean keep, and what they may change. -/

namespace Sys2Proof.Laws
open Sys2Proof.Machine

theorem eff_pciEv (code : Nat) (sev : Nat) (d : W64) (m : Module) : Eff [.vst, .hlt, .pci, .tray, .dbg, .out] m (pciEv code sev d m) := by
  unfold pciEv
  iterate 24 all_goals try first
    | with_reducible exact Eff.refl _
    | with_reducible assumption
    | (with_reducible apply Eff.after (eff_ev ..); · decide)
    | intro _
    | extract_lets
    | with_reducible apply Eff.ite
    | split
    | dsimp only
    | dsimp +zetaDelta only

theorem eff_setPci {l : List Part} {x : Pci} {a m : Module} (hs : sub [.pci] l = true) (k : Eff l a m)
    (h : rising m.pci.evr = true → rising x.evr = true) : Eff l a (setPci x m) := by
  refine k.trans (Eff.mono (k := [.pci]) (.of_inv rfl rfl (fun y => ?_) rfl) hs)
  simp only [Module.Inv, Module.canonical, Bool.and_eq_true, setPci] at y ⊢
  simp_all

theorem eff_enterStage (n : Nat) (m : Module) : Eff [.pci] m (enterStage n m) := by
  unfold enterStage
  iterate 24 all_goals try first
    | with_reducible exact Eff.refl _
    | with_reducible assumption
    | (with_reducible apply eff_setPci; · decide)
    | exact fun h => h
    | exact fun _ => rfl
    | intro _
    | extract_lets
    | with_reducible apply Eff.ite
    | (fail_if_no_progress ((with_reducible refine Eff.upd ?_ rfl rfl rfl rfl rfl rfl rfl rfl rfl rfl ?_); rotate_left; exact rfl))
    | split
    | dsimp only
    | dsimp +zetaDelta only

theorem eff_execFirmwareVerified (copyB : Bool) (digest : List Byte) (secVersion : BitVec 32) (s : State) : EffOut [.port, .pci] s (execFirmwareVerified copyB digest secVersion s) := by
  unfold execFirmwareVerified
  iterate 24 all_goals try first
    | with_reducible exact EffOut.stop
    | with_reducible exact EffOut.ill
    | with_reducible refine EffOut.done ?_
    | with_reducible exact Eff.refl _
    | with_reducible assumption
    | (with_reducible apply Eff.after (eff_enterStage ..); · decide)
    | (with_reducible apply eff_setPci; · decide)
    | exact fun h => h
    | exact fun _ => rfl
    | (with_reducible apply Eff.after (eff_setPort ..); · decide)
    | exact (eff_done ..).mono (by decide)
    | intro _
    | extract_lets
    | with_reducible apply Eff.ite
    | with_reducible apply Eff.fold
    | (fail_if_no_progress ((with_reducible refine Eff.upd ?_ rfl rfl rfl rfl rfl rfl rfl rfl rfl rfl ?_); rotate_left; exact rfl))
    | split
    | (with_reducible refine Eff.iteSnd (by assumption) ?_ ?_)
    | dsimp only
    | dsimp +zetaDelta only
    | with_reducible apply Eff.foldSnd
    | with_reducible apply Eff.foldFst
    | with_reducible apply Eff.foldThird

theorem eff_stageFailed (m : Module) : Eff [.vst, .hlt, .pci, .tray, .dbg, .out] m (stageFailed m) := by
  unfold stageFailed
  iterate 24 all_goals try first
    | with_reducible exact Eff.refl _
    | with_reducible assumption
    | (with_reducible apply Eff.after (eff_pciEv ..); · decide)
    | (with_reducible apply eff_setPci; · decide)
    | exact fun h => h
    | exact fun _ => rfl
    | intro _
    | extract_lets
    | with_reducible apply Eff.ite
    | (fail_if_no_progress ((with_reducible refine Eff.upd ?_ rfl rfl rfl rfl rfl rfl rfl rfl rfl rfl ?_); rotate_left; exact rfl))
    | split
    | dsimp only
    | dsimp +zetaDelta only

theorem eff_execFirmwareCopiesFail (s : State) : EffOut [.vst, .hlt, .pci, .tray, .dbg, .out] s (execFirmwareCopiesFail s) := by
  unfold execFirmwareCopiesFail
  iterate 24 all_goals try first
    | with_reducible exact EffOut.stop
    | with_reducible exact EffOut.ill
    | with_reducible refine EffOut.done ?_
    | with_reducible exact Eff.refl _
    | with_reducible assumption
    | (with_reducible apply Eff.after (eff_stageFailed ..); · decide)
    | exact (eff_done ..).mono (by decide)
    | intro _
    | extract_lets
    | with_reducible apply Eff.ite
    | split
    | dsimp only
    | dsimp +zetaDelta only

theorem eff_execAonComplete (s : State) : EffOut [.pci] s (execAonComplete s) := by
  unfold execAonComplete
  iterate 24 all_goals try first
    | with_reducible exact EffOut.stop
    | with_reducible exact EffOut.ill
    | with_reducible refine EffOut.done ?_
    | with_reducible exact Eff.refl _
    | with_reducible assumption
    | (with_reducible apply Eff.after (eff_enterStage ..); · decide)
    | exact (eff_done ..).mono (by decide)
    | intro _
    | extract_lets
    | with_reducible apply Eff.ite
    | split
    | dsimp only
    | dsimp +zetaDelta only

theorem eff_execWingRailsUp (s : State) : EffOut [.clk, .beat, .mem, .cor, .pci, .tray, .dbg, .out] s (execWingRailsUp s) := by
  unfold execWingRailsUp
  iterate 24 all_goals try first
    | with_reducible exact EffOut.stop
    | with_reducible exact EffOut.ill
    | with_reducible refine EffOut.done ?_
    | with_reducible exact Eff.refl _
    | with_reducible assumption
    | (with_reducible apply Eff.after (eff_passTo ..); · decide)
    | exact (eff_done ..).mono (by decide)
    | intro _
    | extract_lets
    | with_reducible apply Eff.ite
    | (fail_if_no_progress ((with_reducible refine Eff.upd ?_ rfl rfl rfl rfl rfl rfl rfl rfl rfl rfl ?_); rotate_left; exact rfl))
    | split
    | dsimp only
    | dsimp +zetaDelta only

theorem eff_execWingsOutOfReset (s : State) : EffOut [.mem, .pwr, .pci] s (execWingsOutOfReset s) := by
  unfold execWingsOutOfReset
  iterate 24 all_goals try first
    | with_reducible exact EffOut.stop
    | with_reducible exact EffOut.ill
    | with_reducible refine EffOut.done ?_
    | with_reducible exact Eff.refl _
    | with_reducible assumption
    | (with_reducible apply Eff.after (eff_calibrate ..); · decide)
    | (with_reducible apply Eff.after (eff_enterStage ..); · decide)
    | exact (eff_done ..).mono (by decide)
    | intro _
    | extract_lets
    | with_reducible apply Eff.ite
    | split
    | dsimp only
    | dsimp +zetaDelta only

theorem eff_listFailed (l : List (Nat × Nat)) (m : Module) : Eff [.vst, .hlt, .pci, .tray, .dbg, .out] m (listFailed l m) := by
  unfold listFailed
  iterate 24 all_goals try first
    | with_reducible exact Eff.refl _
    | with_reducible assumption
    | (with_reducible apply Eff.after (eff_pciEv ..); · decide)
    | (with_reducible apply eff_setPci; · decide)
    | exact fun h => h
    | exact fun _ => rfl
    | intro _
    | extract_lets
    | with_reducible apply Eff.ite
    | with_reducible apply Eff.fold
    | (fail_if_no_progress ((with_reducible refine Eff.upd ?_ rfl rfl rfl rfl rfl rfl rfl rfl rfl rfl ?_); rotate_left; exact rfl))
    | split
    | (with_reducible refine Eff.iteSnd (by assumption) ?_ ?_)
    | dsimp only
    | dsimp +zetaDelta only
    | with_reducible apply Eff.foldSnd
    | with_reducible apply Eff.foldFst
    | with_reducible apply Eff.foldThird

theorem eff_trainAll (failed : List (Nat × Nat)) (m : Module) : Eff [.mem, .sec] m (trainAll failed m) := by
  unfold trainAll
  iterate 24 all_goals try first
    | with_reducible exact Eff.refl _
    | with_reducible assumption
    | (with_reducible apply Eff.after (eff_updMemUnit ..); · decide)
    | intro _
    | extract_lets
    | with_reducible apply Eff.ite
    | with_reducible apply Eff.fold
    | (fail_if_no_progress ((with_reducible refine Eff.upd ?_ rfl rfl rfl rfl rfl rfl rfl rfl rfl rfl ?_); rotate_left; exact rfl))
    | split
    | (with_reducible refine Eff.iteSnd (by assumption) ?_ ?_)
    | dsimp only
    | dsimp +zetaDelta only
    | with_reducible apply Eff.foldSnd
    | with_reducible apply Eff.foldFst
    | with_reducible apply Eff.foldThird

theorem eff_execMemTrainComplete (failed : List (Fin 2 × Nat)) (s : State) : EffOut [.mem, .vst, .hlt, .sec, .pci, .tray, .dbg, .out] s (execMemTrainComplete failed s) := by
  unfold execMemTrainComplete
  iterate 24 all_goals try first
    | with_reducible exact EffOut.stop
    | with_reducible exact EffOut.ill
    | with_reducible refine EffOut.done ?_
    | with_reducible exact Eff.refl _
    | with_reducible assumption
    | (with_reducible apply Eff.after (eff_listFailed ..); · decide)
    | (with_reducible apply Eff.after (eff_marginRec ..); · decide)
    | (with_reducible apply Eff.after (eff_trainAll ..); · decide)
    | (with_reducible apply Eff.after (eff_enterStage ..); · decide)
    | exact (eff_done ..).mono (by decide)
    | intro _
    | extract_lets
    | with_reducible apply Eff.ite
    | split
    | dsimp only
    | dsimp +zetaDelta only

theorem eff_execBistComplete (failed : List (Nat × Nat)) (s : State) : EffOut [.vst, .hlt, .sec, .pci, .tray, .dbg, .out] s (execBistComplete failed s) := by
  unfold execBistComplete
  iterate 24 all_goals try first
    | with_reducible exact EffOut.stop
    | with_reducible exact EffOut.ill
    | with_reducible refine EffOut.done ?_
    | with_reducible exact Eff.refl _
    | with_reducible assumption
    | (with_reducible apply Eff.after (eff_enterStage ..); · decide)
    | (with_reducible apply Eff.after (eff_listFailed ..); · decide)
    | exact (eff_done ..).mono (by decide)
    | intro _
    | extract_lets
    | with_reducible apply Eff.ite
    | (fail_if_no_progress ((with_reducible refine Eff.upd ?_ rfl rfl rfl rfl rfl rfl rfl rfl rfl rfl ?_); rotate_left; exact rfl))
    | split
    | dsimp only
    | dsimp +zetaDelta only

theorem eff_execStageFail (s : State) : EffOut [.clk, .beat, .mem, .vst, .hlt, .cor, .pci, .tray, .dbg, .out] s (execStageFail s) := by
  unfold execStageFail
  iterate 24 all_goals try first
    | with_reducible exact EffOut.stop
    | with_reducible exact EffOut.ill
    | with_reducible refine EffOut.done ?_
    | with_reducible exact Eff.refl _
    | with_reducible assumption
    | (with_reducible apply Eff.after (eff_stageFailed ..); · decide)
    | (with_reducible apply Eff.after (eff_passTo ..); · decide)
    | exact (eff_done ..).mono (by decide)
    | intro _
    | extract_lets
    | with_reducible apply Eff.ite
    | (fail_if_no_progress ((with_reducible refine Eff.upd ?_ rfl rfl rfl rfl rfl rfl rfl rfl rfl rfl ?_); rotate_left; exact rfl))
    | split
    | dsimp only
    | dsimp +zetaDelta only

theorem eff_execSlotIdChange (slot : BitVec 4) (s : State) : EffOut [.pci] s (execSlotIdChange slot s) := by
  unfold execSlotIdChange
  iterate 24 all_goals try first
    | with_reducible exact EffOut.stop
    | with_reducible exact EffOut.ill
    | with_reducible refine EffOut.done ?_
    | with_reducible exact Eff.refl _
    | with_reducible assumption
    | (with_reducible apply eff_setPci; · decide)
    | exact fun h => h
    | exact fun _ => rfl
    | exact (eff_done ..).mono (by decide)
    | intro _
    | extract_lets
    | with_reducible apply Eff.ite
    | (fail_if_no_progress ((with_reducible refine Eff.upd ?_ rfl rfl rfl rfl rfl rfl rfl rfl rfl rfl ?_); rotate_left; exact rfl))
    | split
    | dsimp only
    | dsimp +zetaDelta only

theorem eff_execConfigurationRequest (s : State) : EffOut [.pci, .out] s (execConfigurationRequest s) := by
  unfold execConfigurationRequest
  iterate 24 all_goals try first
    | with_reducible exact EffOut.stop
    | with_reducible exact EffOut.ill
    | with_reducible refine EffOut.done ?_
    | with_reducible exact Eff.refl _
    | with_reducible assumption
    | (with_reducible apply Eff.after (eff_emit ..); · decide)
    | (with_reducible apply eff_setPci; · decide)
    | exact fun h => h
    | exact fun _ => rfl
    | exact (eff_done ..).mono (by decide)
    | intro _
    | extract_lets
    | with_reducible apply Eff.ite
    | (fail_if_no_progress ((with_reducible refine Eff.upd ?_ rfl rfl rfl rfl rfl rfl rfl rfl rfl rfl ?_); rotate_left; exact rfl))
    | split
    | dsimp only
    | dsimp +zetaDelta only

theorem eff_linkFalls (m : Module) : Eff [.vst, .hlt, .pci, .tray, .dbg, .out] m (linkFalls m) := by
  unfold linkFalls
  iterate 24 all_goals try first
    | with_reducible exact Eff.refl _
    | with_reducible assumption
    | (with_reducible apply Eff.after (eff_pciEv ..); · decide)
    | (with_reducible apply eff_setPci; · decide)
    | exact fun h => h
    | exact fun _ => rfl
    | intro _
    | extract_lets
    | with_reducible apply Eff.ite
    | split
    | dsimp only
    | dsimp +zetaDelta only

theorem eff_perstFall (m : Module) : Eff [.img, .counts, .outstanding, .harts, .mem, .flt, .port, .rte, .vst, .wdg, .hlt, .cor, .sec, .pci, .tray, .dbg, .out] m (perstFall m) := by
  unfold perstFall
  iterate 24 all_goals try first
    | with_reducible exact Eff.refl _
    | with_reducible assumption
    | (with_reducible apply eff_setPci; · decide)
    | exact fun h => h
    | exact fun _ => rfl
    | (with_reducible apply Eff.after (eff_linkFalls ..); · decide)
    | (with_reducible apply Eff.after (eff_hostBurstsFail ..); · decide)
    | (with_reducible apply Eff.after (eff_fetchFailed ..); · decide)
    | intro _
    | extract_lets
    | with_reducible apply Eff.ite
    | with_reducible apply Eff.fold
    | (fail_if_no_progress ((with_reducible refine Eff.upd ?_ rfl rfl rfl rfl rfl rfl rfl rfl rfl rfl ?_); rotate_left; exact rfl))
    | split
    | (with_reducible refine Eff.iteSnd (by assumption) ?_ ?_)
    | dsimp only
    | dsimp +zetaDelta only
    | with_reducible apply Eff.foldSnd
    | with_reducible apply Eff.foldFst
    | with_reducible apply Eff.foldThird

theorem eff_execPerstNFall (s : State) : EffOut [.img, .counts, .outstanding, .harts, .mem, .flt, .port, .rte, .vst, .wdg, .hlt, .cor, .sec, .pci, .tray, .dbg, .out] s (execPerstNFall s) := by
  unfold execPerstNFall
  iterate 24 all_goals try first
    | with_reducible exact EffOut.stop
    | with_reducible exact EffOut.ill
    | with_reducible refine EffOut.done ?_
    | with_reducible exact Eff.refl _
    | with_reducible assumption
    | (with_reducible apply Eff.after (eff_perstFall ..); · decide)
    | exact (eff_done ..).mono (by decide)
    | intro _
    | extract_lets
    | with_reducible apply Eff.ite
    | split
    | dsimp only
    | dsimp +zetaDelta only

theorem eff_execPerstNRise (s : State) : EffOut [.tray] s (execPerstNRise s) := by
  unfold execPerstNRise
  iterate 24 all_goals try first
    | with_reducible exact EffOut.stop
    | with_reducible exact EffOut.ill
    | with_reducible refine EffOut.done ?_
    | with_reducible exact Eff.refl _
    | with_reducible assumption
    | exact (eff_done ..).mono (by decide)
    | intro _
    | extract_lets
    | with_reducible apply Eff.ite
    | (fail_if_no_progress ((with_reducible refine Eff.upd ?_ rfl rfl rfl rfl rfl rfl rfl rfl rfl rfl ?_); rotate_left; exact rfl))
    | split
    | dsimp only
    | dsimp +zetaDelta only

theorem eff_execVfFlr (p : Fin 16) (s : State) : EffOut [.vst, .wdg, .hlt, .pci, .tray, .dbg, .out] s (execVfFlr p s) := by
  unfold execVfFlr
  iterate 24 all_goals try first
    | with_reducible exact EffOut.stop
    | with_reducible exact EffOut.ill
    | with_reducible refine EffOut.done ?_
    | with_reducible exact Eff.refl _
    | with_reducible assumption
    | (with_reducible apply Eff.after (eff_orderReset ..); · decide)
    | (with_reducible apply Eff.after (eff_setEvr ..); · decide)
    | exact (eff_done ..).mono (by decide)
    | intro _
    | extract_lets
    | with_reducible apply Eff.ite
    | split
    | dsimp only
    | dsimp +zetaDelta only

theorem eff_execPfFlr (s : State) : EffOut [.pci] s (execPfFlr s) := by
  unfold execPfFlr
  iterate 24 all_goals try first
    | with_reducible exact EffOut.stop
    | with_reducible exact EffOut.ill
    | with_reducible refine EffOut.done ?_
    | with_reducible exact Eff.refl _
    | with_reducible assumption
    | (with_reducible apply Eff.after (eff_setEvr ..); · decide)
    | (with_reducible apply eff_setPci; · decide)
    | exact fun h => h
    | exact fun _ => rfl
    | exact (eff_done ..).mono (by decide)
    | intro _
    | extract_lets
    | with_reducible apply Eff.ite
    | (fail_if_no_progress ((with_reducible refine Eff.upd ?_ rfl rfl rfl rfl rfl rfl rfl rfl rfl rfl ?_); rotate_left; exact rfl))
    | split
    | dsimp only
    | dsimp +zetaDelta only

theorem eff_execLinkUp (width : Byte) (rate : Byte) (flit : Bool) (s : State) : EffOut [.vst, .hlt, .pci, .tray, .dbg, .out] s (execLinkUp width rate flit s) := by
  unfold execLinkUp
  iterate 24 all_goals try first
    | with_reducible exact EffOut.stop
    | with_reducible exact EffOut.ill
    | with_reducible refine EffOut.done ?_
    | with_reducible exact Eff.refl _
    | with_reducible assumption
    | (with_reducible apply Eff.after (eff_pciEv ..); · decide)
    | (with_reducible apply eff_setPci; · decide)
    | exact fun h => h
    | exact fun _ => rfl
    | exact (eff_done ..).mono (by decide)
    | intro _
    | extract_lets
    | with_reducible apply Eff.ite
    | (fail_if_no_progress ((with_reducible refine Eff.upd ?_ rfl rfl rfl rfl rfl rfl rfl rfl rfl rfl ?_); rotate_left; exact rfl))
    | split
    | dsimp only
    | dsimp +zetaDelta only

theorem eff_execLinkDown (s : State) : EffOut [.vst, .hlt, .pci, .tray, .dbg, .out] s (execLinkDown s) := by
  unfold execLinkDown
  iterate 24 all_goals try first
    | with_reducible exact EffOut.stop
    | with_reducible exact EffOut.ill
    | with_reducible refine EffOut.done ?_
    | with_reducible exact Eff.refl _
    | with_reducible assumption
    | (with_reducible apply Eff.after (eff_linkFalls ..); · decide)
    | exact (eff_done ..).mono (by decide)
    | intro _
    | extract_lets
    | with_reducible apply Eff.ite
    | split
    | dsimp only
    | dsimp +zetaDelta only

theorem eff_headWrite (f : Nat) (val : W64) (m : Module) : Eff [.pci, .out] m (headWrite f val m) := by
  unfold headWrite
  iterate 24 all_goals try first
    | with_reducible exact Eff.refl _
    | with_reducible assumption
    | (with_reducible apply Eff.after (eff_ringOverflow ..); · decide)
    | (with_reducible apply Eff.after (eff_setEvr ..); · decide)
    | intro _
    | extract_lets
    | with_reducible apply Eff.ite
    | (fail_if_no_progress ((with_reducible refine Eff.upd ?_ rfl rfl rfl rfl rfl rfl rfl rfl rfl rfl ?_); rotate_left; exact rfl))
    | split
    | dsimp only
    | dsimp +zetaDelta only

theorem eff_execEvrHeadWrite (fn : Fn) (val : W64) (s : State) : EffOut [.pci, .out] s (execEvrHeadWrite fn val s) := by
  unfold execEvrHeadWrite
  iterate 24 all_goals try first
    | with_reducible exact EffOut.stop
    | with_reducible exact EffOut.ill
    | with_reducible refine EffOut.done ?_
    | with_reducible exact Eff.refl _
    | with_reducible assumption
    | (with_reducible apply Eff.after (eff_headWrite ..); · decide)
    | exact (eff_done ..).mono (by decide)
    | intro _
    | extract_lets
    | with_reducible apply Eff.ite
    | split
    | dsimp only
    | dsimp +zetaDelta only

theorem eff_execMsixCoalesceEnd (fn : Fn) (s : State) : EffOut [.clk, .beat, .mem, .cor, .pci, .dbg, .out] s (execMsixCoalesceEnd fn s) := by
  unfold execMsixCoalesceEnd
  iterate 24 all_goals try first
    | with_reducible exact EffOut.stop
    | with_reducible exact EffOut.ill
    | with_reducible refine EffOut.done ?_
    | with_reducible exact Eff.refl _
    | with_reducible assumption
    | (with_reducible apply Eff.after (eff_passTo ..); · decide)
    | (with_reducible apply Eff.after (eff_emit ..); · decide)
    | (with_reducible apply Eff.after (eff_setEvr ..); · decide)
    | exact (eff_done ..).mono (by decide)
    | intro _
    | extract_lets
    | with_reducible apply Eff.ite
    | (fail_if_no_progress ((with_reducible refine Eff.upd ?_ rfl rfl rfl rfl rfl rfl rfl rfl rfl rfl ?_); rotate_left; exact rfl))
    | split
    | dsimp only
    | dsimp +zetaDelta only

theorem eff_execPciCntClr (s : State) : EffOut [.pci] s (execPciCntClr s) := by
  unfold execPciCntClr
  iterate 24 all_goals try first
    | with_reducible exact EffOut.stop
    | with_reducible exact EffOut.ill
    | with_reducible refine EffOut.done ?_
    | with_reducible exact Eff.refl _
    | with_reducible assumption
    | (with_reducible apply eff_setPci; · decide)
    | exact fun h => h
    | exact fun _ => rfl
    | exact (eff_done ..).mono (by decide)
    | intro _
    | extract_lets
    | with_reducible apply Eff.ite
    | split
    | dsimp only
    | dsimp +zetaDelta only

theorem eff_senseTemps (m : Module) : Eff [.mem, .pwr, .tray] m (senseTemps m) := by
  unfold senseTemps
  iterate 24 all_goals try first
    | with_reducible exact Eff.refl _
    | with_reducible assumption
    | (with_reducible apply Eff.after (eff_freeVal ..); · decide)
    | (with_reducible apply Eff.snd (eff_freeVal ..); with_reducible assumption; · decide)
    | intro _
    | extract_lets
    | with_reducible apply Eff.ite
    | (fail_if_no_progress ((with_reducible refine Eff.upd ?_ rfl rfl rfl rfl rfl rfl rfl rfl rfl rfl ?_); rotate_left; exact rfl))
    | split
    | dsimp only
    | dsimp +zetaDelta only

theorem eff_senseAvg (m : Module) : Eff [.mem, .pwr] m (senseAvg m) := by
  unfold senseAvg
  iterate 24 all_goals try first
    | with_reducible exact Eff.refl _
    | with_reducible assumption
    | (with_reducible apply Eff.after (eff_freeVal ..); · decide)
    | (with_reducible apply Eff.snd (eff_freeVal ..); with_reducible assumption; · decide)
    | intro _
    | extract_lets
    | with_reducible apply Eff.ite
    | (fail_if_no_progress ((with_reducible refine Eff.upd ?_ rfl rfl rfl rfl rfl rfl rfl rfl rfl rfl ?_); rotate_left; exact rfl))
    | split
    | dsimp only
    | dsimp +zetaDelta only

theorem eff_trayRead (a : Nat) (m : Module) : Eff [.mem, .pwr, .tray] m (trayRead a m).2 := by
  unfold trayRead
  iterate 24 all_goals try first
    | with_reducible exact Eff.refl _
    | with_reducible assumption
    | (with_reducible apply Eff.after (eff_senseAvg ..); · decide)
    | (with_reducible apply Eff.after (eff_senseTemps ..); · decide)
    | intro _
    | extract_lets
    | with_reducible apply Eff.ite
    | (fail_if_no_progress ((with_reducible refine Eff.upd ?_ rfl rfl rfl rfl rfl rfl rfl rfl rfl rfl ?_); rotate_left; exact rfl))
    | split
    | (with_reducible refine Eff.iteSnd (by assumption) ?_ ?_)
    | dsimp only
    | dsimp +zetaDelta only

theorem eff_trayLimit (v : Nat) (m : Module) : Eff [.pwr] m (trayLimit v m) := by
  unfold trayLimit
  iterate 24 all_goals try first
    | with_reducible exact Eff.refl _
    | with_reducible assumption
    | intro _
    | extract_lets
    | with_reducible apply Eff.ite
    | (fail_if_no_progress ((with_reducible refine Eff.upd ?_ rfl rfl rfl rfl rfl rfl rfl rfl rfl rfl ?_); rotate_left; exact rfl))
    | split
    | dsimp only
    | dsimp +zetaDelta only

theorem eff_trayWrite (a : Nat) (v : W32) (m : Module) : Eff [.pwr, .tray] m (trayWrite a v m) := by
  unfold trayWrite
  iterate 24 all_goals try first
    | with_reducible exact Eff.refl _
    | with_reducible assumption
    | (with_reducible apply Eff.after (eff_setTray ..); · decide)
    | (with_reducible apply Eff.after (eff_trayLimit ..); · decide)
    | intro _
    | extract_lets
    | with_reducible apply Eff.ite
    | (fail_if_no_progress ((with_reducible refine Eff.upd ?_ rfl rfl rfl rfl rfl rfl rfl rfl rfl rfl ?_); rotate_left; exact rfl))
    | split
    | dsimp only
    | dsimp +zetaDelta only

theorem eff_spiRead (cmd : W32) (n i : ℕ) (m : Module) : Eff [.mem, .pwr, .tray] m (spiRead cmd n i m).2 := by
  induction n generalizing i m with
  | zero => exact .refl _
  | succ n ih => exact (eff_trayRead ..).trans (ih ..)

theorem eff_spiEdges (cmd : W32) (bits : Nat) (m : Module) : Eff [.pci, .tray] m (spiEdges cmd bits m) := by
  unfold spiEdges
  iterate 24 all_goals try first
    | with_reducible exact Eff.refl _
    | with_reducible assumption
    | (with_reducible apply Eff.after (eff_setTray ..); · decide)
    | (with_reducible apply eff_setPci; · decide)
    | exact fun h => h
    | exact fun _ => rfl
    | intro _
    | extract_lets
    | with_reducible apply Eff.ite
    | (fail_if_no_progress ((with_reducible refine Eff.upd ?_ rfl rfl rfl rfl rfl rfl rfl rfl rfl rfl ?_); rotate_left; exact rfl))
    | split
    | dsimp only
    | dsimp +zetaDelta only

theorem eff_spiBadFrame (m : Module) : Eff [.pci, .out] m (spiBadFrame m) := by
  unfold spiBadFrame
  iterate 24 all_goals try first
    | with_reducible exact Eff.refl _
    | with_reducible assumption
    | (with_reducible apply Eff.after (eff_emit ..); · decide)
    | (with_reducible apply eff_setPci; · decide)
    | exact fun h => h
    | exact fun _ => rfl
    | intro _
    | extract_lets
    | with_reducible apply Eff.ite
    | (fail_if_no_progress ((with_reducible refine Eff.upd ?_ rfl rfl rfl rfl rfl rfl rfl rfl rfl rfl ?_); rotate_left; exact rfl))
    | split
    | dsimp only
    | dsimp +zetaDelta only

theorem eff_spiReadFrame (cmd : W32) (bits : Nat) (m : Module) : Eff [.mem, .pwr, .pci, .tray, .out] m (spiReadFrame cmd bits m) := by
  unfold spiReadFrame
  iterate 24 all_goals try first
    | with_reducible exact Eff.refl _
    | with_reducible assumption
    | (with_reducible apply Eff.after (eff_spiRead ..); · decide)
    | (with_reducible apply Eff.snd (eff_spiRead ..); with_reducible assumption; · decide)
    | (with_reducible apply Eff.after (eff_spiEdges ..); · decide)
    | (with_reducible apply Eff.after (eff_emit ..); · decide)
    | intro _
    | extract_lets
    | with_reducible apply Eff.ite
    | split
    | dsimp only
    | dsimp +zetaDelta only

theorem eff_spiWriteFrame (cmd : W32) (words : List W32) (bits : Nat) (m : Module) : Eff [.pwr, .pci, .tray, .out] m (spiWriteFrame cmd words bits m) := by
  unfold spiWriteFrame
  iterate 24 all_goals try first
    | with_reducible exact Eff.refl _
    | with_reducible assumption
    | (with_reducible apply Eff.after (eff_trayWrite ..); · decide)
    | (with_reducible apply Eff.after (eff_spiEdges ..); · decide)
    | (with_reducible apply Eff.after (eff_emit ..); · decide)
    | intro _
    | extract_lets
    | with_reducible apply Eff.ite
    | with_reducible apply Eff.fold
    | split
    | (with_reducible refine Eff.iteSnd (by assumption) ?_ ?_)
    | dsimp only
    | dsimp +zetaDelta only
    | with_reducible apply Eff.foldSnd
    | with_reducible apply Eff.foldFst
    | with_reducible apply Eff.foldThird

theorem eff_spiShortCmd (bits : Nat) (m : Module) : Eff [.pci, .tray] m (spiShortCmd bits m) := by
  unfold spiShortCmd
  iterate 24 all_goals try first
    | with_reducible exact Eff.refl _
    | with_reducible assumption
    | intro _
    | extract_lets
    | with_reducible apply Eff.ite
    | (fail_if_no_progress ((with_reducible refine Eff.upd ?_ rfl rfl rfl rfl rfl rfl rfl rfl rfl rfl ?_); rotate_left; exact rfl))
    | split
    | dsimp only
    | dsimp +zetaDelta only

theorem eff_execTraySpiRead (cmd : W32) (bits : Nat) (s : State) : EffOut [.mem, .pwr, .pci, .tray, .out] s (execTraySpiRead cmd bits s) := by
  unfold execTraySpiRead
  iterate 24 all_goals try first
    | with_reducible exact EffOut.stop
    | with_reducible exact EffOut.ill
    | with_reducible refine EffOut.done ?_
    | with_reducible exact Eff.refl _
    | with_reducible assumption
    | (with_reducible apply Eff.after (eff_spiShortCmd ..); · decide)
    | (with_reducible apply Eff.after (eff_spiBadFrame ..); · decide)
    | (with_reducible apply Eff.after (eff_spiReadFrame ..); · decide)
    | exact (eff_done ..).mono (by decide)
    | intro _
    | extract_lets
    | with_reducible apply Eff.ite
    | split
    | dsimp only
    | dsimp +zetaDelta only

theorem eff_execTraySpiWrite (cmd : W32) (words : List W32) (bits : Nat) (s : State) : EffOut [.pwr, .pci, .tray, .out] s (execTraySpiWrite cmd words bits s) := by
  unfold execTraySpiWrite
  iterate 24 all_goals try first
    | with_reducible exact EffOut.stop
    | with_reducible exact EffOut.ill
    | with_reducible refine EffOut.done ?_
    | with_reducible exact Eff.refl _
    | with_reducible assumption
    | (with_reducible apply Eff.after (eff_spiShortCmd ..); · decide)
    | (with_reducible apply Eff.after (eff_spiBadFrame ..); · decide)
    | (with_reducible apply Eff.after (eff_spiWriteFrame ..); · decide)
    | exact (eff_done ..).mono (by decide)
    | intro _
    | extract_lets
    | with_reducible apply Eff.ite
    | split
    | dsimp only
    | dsimp +zetaDelta only

theorem eff_execTraySpiBadcmd (cmd : W32) (s : State) : EffOut [.pci, .out] s (execTraySpiBadcmd cmd s) := by
  unfold execTraySpiBadcmd
  iterate 24 all_goals try first
    | with_reducible exact EffOut.stop
    | with_reducible exact EffOut.ill
    | with_reducible refine EffOut.done ?_
    | with_reducible exact Eff.refl _
    | with_reducible assumption
    | (with_reducible apply Eff.after (eff_spiBadFrame ..); · decide)
    | exact (eff_done ..).mono (by decide)
    | intro _
    | extract_lets
    | with_reducible apply Eff.ite
    | split
    | dsimp only
    | dsimp +zetaDelta only

theorem eff_execDynamicAddressAssignment (addr : BitVec 7) (s : State) : EffOut [.tray] s (execDynamicAddressAssignment addr s) := by
  unfold execDynamicAddressAssignment
  iterate 24 all_goals try first
    | with_reducible exact EffOut.stop
    | with_reducible exact EffOut.ill
    | with_reducible refine EffOut.done ?_
    | with_reducible exact Eff.refl _
    | with_reducible assumption
    | exact (eff_done ..).mono (by decide)
    | intro _
    | extract_lets
    | with_reducible apply Eff.ite
    | (fail_if_no_progress ((with_reducible refine Eff.upd ?_ rfl rfl rfl rfl rfl rfl rfl rfl rfl rfl ?_); rotate_left; exact rfl))
    | split
    | dsimp only
    | dsimp +zetaDelta only

end Sys2Proof.Laws
end

