-- ==== Sys2Proof/Laws/EffMir.lean ====
section
/-! SUPPORT. What the operations of Mir.lean keep, and what they may change. -/

namespace Sys2Proof.Laws
open Sys2Proof.Machine

theorem eff_readList (d : Desc) (m : Module) : Eff [.mem, .flt, .vst, .hlt, .cor, .pci, .tray, .dbg, .out] m (readList d m).2 := by
  unfold readList
  iterate 24 all_goals try first
    | with_reducible exact Eff.refl _
    | with_reducible assumption
    | (with_reducible apply Eff.after (eff_hallRead ..); · decide)
    | (with_reducible apply Eff.snd (eff_hallRead ..); with_reducible assumption; · decide)
    | intro _
    | extract_lets
    | with_reducible apply Eff.ite
    | split
    | (with_reducible refine Eff.iteSnd (by assumption) ?_ ?_)
    | dsimp only
    | dsimp +zetaDelta only

theorem eff_toPartner (p : Nat) (kind : Nat) (step : Beat) (off : Nat) (payload : List Byte) (m : Module) : Eff [.port, .rte, .vst, .mir, .hlt, .cor, .sec, .pci, .tray, .dbg, .out] m (toPartner p kind step off payload m).2 := by
  unfold toPartner
  iterate 24 all_goals try first
    | with_reducible exact Eff.refl _
    | with_reducible assumption
    | (with_reducible apply Eff.after (eff_mirSend ..); · decide)
    | (with_reducible apply Eff.snd (eff_mirSend ..); with_reducible assumption; · decide)
    | intro _
    | extract_lets
    | with_reducible apply Eff.ite
    | split
    | (with_reducible refine Eff.iteSnd (by assumption) ?_ ?_)
    | dsimp only
    | dsimp +zetaDelta only

theorem eff_sendBegin (d : Desc) (full : Bool) (resent : Bool) (ranges : List (Nat × Nat)) (m : Module) : Eff [.port, .rte, .vst, .mir, .hlt, .cor, .sec, .pci, .tray, .dbg, .out] m (sendBegin d full resent ranges m) := by
  unfold sendBegin
  iterate 24 all_goals try first
    | with_reducible exact Eff.refl _
    | with_reducible assumption
    | (with_reducible apply Eff.after (eff_toPartner ..); · decide)
    | (with_reducible apply Eff.snd (eff_toPartner ..); with_reducible assumption; · decide)
    | (with_reducible apply Eff.after (eff_setMir ..); · decide)
    | intro _
    | extract_lets
    | with_reducible apply Eff.ite
    | (fail_if_no_progress ((with_reducible refine Eff.upd ?_ rfl rfl rfl rfl rfl rfl rfl rfl rfl rfl ?_); rotate_left; exact rfl))
    | split
    | (with_reducible refine Eff.iteSnd (by assumption) ?_ ?_)
    | dsimp only
    | dsimp +zetaDelta only

theorem eff_execSend (p : Fin 16) (s : State) : EffOut [.queues, .counts, .outstanding, .harts, .mem, .flt, .port, .rte, .vst, .mir, .wdg, .hlt, .cor, .sec, .pci, .tray, .dbg, .out] s (execSend p s) := by
  unfold execSend
  iterate 24 all_goals try first
    | with_reducible exact EffOut.stop
    | with_reducible exact EffOut.ill
    | with_reducible refine EffOut.done ?_
    | with_reducible exact Eff.refl _
    | with_reducible assumption
    | (with_reducible apply Eff.after (eff_dequeue ..); · decide)
    | (with_reducible apply Eff.after (eff_bodyRefused ..); · decide)
    | (with_reducible apply Eff.after (eff_descStart ..); · decide)
    | (with_reducible apply Eff.after (eff_readList ..); · decide)
    | (with_reducible apply Eff.snd (eff_readList ..); with_reducible assumption; · decide)
    | (with_reducible apply Eff.after (eff_sendBegin ..); · decide)
    | exact (eff_done ..).mono (by decide)
    | intro _
    | extract_lets
    | with_reducible apply Eff.ite
    | (fail_if_no_progress ((with_reducible refine Eff.upd ?_ rfl rfl rfl rfl rfl rfl rfl rfl rfl rfl ?_); rotate_left; exact rfl))
    | split
    | (with_reducible refine Eff.iteSnd (by assumption) ?_ ?_)
    | dsimp only
    | dsimp +zetaDelta only

theorem eff_sendPieces (p : Nat) (kind : Nat) (step : Beat) (ps : List (Nat × List Byte)) (m : Module) : Eff [.port, .rte, .vst, .mir, .hlt, .cor, .sec, .pci, .tray, .dbg, .out] m (sendPieces p kind step ps m).2 := by
  unfold sendPieces
  iterate 24 all_goals try first
    | with_reducible exact Eff.refl _
    | with_reducible assumption
    | (with_reducible apply Eff.after (eff_toPartner ..); · decide)
    | (with_reducible apply Eff.snd (eff_toPartner ..); with_reducible assumption; · decide)
    | intro _
    | extract_lets
    | with_reducible apply Eff.ite
    | with_reducible apply Eff.fold
    | split
    | (with_reducible refine Eff.iteSnd (by assumption) ?_ ?_)
    | dsimp only
    | dsimp +zetaDelta only
    | with_reducible apply Eff.foldSnd
    | with_reducible apply Eff.foldFst
    | with_reducible apply Eff.foldThird

theorem eff_sendBody (p : Nat) (o : SendOp) (m : Module) : Eff [.mem, .flt, .port, .rte, .vst, .mir, .hlt, .cor, .sec, .pci, .tray, .dbg, .out] m (sendBody p o m) := by
  unfold sendBody
  iterate 24 all_goals try first
    | with_reducible exact Eff.refl _
    | with_reducible assumption
    | (with_reducible apply Eff.after (eff_sendPieces ..); · decide)
    | (with_reducible apply Eff.snd (eff_sendPieces ..); with_reducible assumption; · decide)
    | (with_reducible apply Eff.after (eff_memRead ..); · decide)
    | (with_reducible apply Eff.third (eff_memRead ..); with_reducible assumption; · decide)
    | (with_reducible apply Eff.after (eff_mirSendRead ..); · decide)
    | (with_reducible apply Eff.snd (eff_mirSendRead ..); with_reducible assumption; · decide)
    | (with_reducible apply Eff.after (eff_toPartner ..); · decide)
    | (with_reducible apply Eff.snd (eff_toPartner ..); with_reducible assumption; · decide)
    | (with_reducible apply Eff.after (eff_setMir ..); · decide)
    | intro _
    | extract_lets
    | with_reducible apply Eff.ite
    | with_reducible apply Eff.fold
    | (fail_if_no_progress ((with_reducible refine Eff.upd ?_ rfl rfl rfl rfl rfl rfl rfl rfl rfl rfl ?_); rotate_left; exact rfl))
    | split
    | (with_reducible refine Eff.iteSnd (by assumption) ?_ ?_)
    | dsimp only
    | dsimp +zetaDelta only
    | with_reducible apply Eff.foldSnd
    | with_reducible apply Eff.foldFst
    | with_reducible apply Eff.foldThird

theorem eff_sendDone (p : Nat) (o : SendOp) (m : Module) : Eff [.counts, .outstanding, .harts, .vst, .mir, .wdg, .hlt, .pci, .tray, .dbg, .out] m (sendDone p o m) := by
  unfold sendDone
  iterate 24 all_goals try first
    | with_reducible exact Eff.refl _
    | with_reducible assumption
    | (with_reducible apply Eff.after (eff_setMir ..); · decide)
    | (with_reducible apply Eff.after (eff_complete ..); · decide)
    | (with_reducible apply Eff.after (eff_mirEv ..); · decide)
    | intro _
    | extract_lets
    | with_reducible apply Eff.ite
    | (fail_if_no_progress ((with_reducible refine Eff.upd ?_ rfl rfl rfl rfl rfl rfl rfl rfl rfl rfl ?_); rotate_left; exact rfl))
    | split
    | dsimp only
    | dsimp +zetaDelta only

theorem eff_sendAck (p : Nat) (o : SendOp) (tag : Nat) (reason : Nat) (refused : Bool) (m : Module) : Eff [.counts, .outstanding, .harts, .mem, .flt, .port, .rte, .vst, .mir, .wdg, .hlt, .cor, .sec, .pci, .tray, .dbg, .out] m (sendAck p o tag reason refused m) := by
  unfold sendAck
  iterate 24 all_goals try first
    | with_reducible exact Eff.refl _
    | with_reducible assumption
    | (with_reducible apply Eff.after (eff_setMir ..); · decide)
    | (with_reducible apply Eff.after (eff_sendBegin ..); · decide)
    | (with_reducible apply Eff.after (eff_mirEv ..); · decide)
    | (with_reducible apply Eff.after (eff_sendBody ..); · decide)
    | (with_reducible apply Eff.after (eff_sendDone ..); · decide)
    | intro _
    | extract_lets
    | with_reducible apply Eff.ite
    | (fail_if_no_progress ((with_reducible refine Eff.upd ?_ rfl rfl rfl rfl rfl rfl rfl rfl rfl rfl ?_); rotate_left; exact rfl))
    | split
    | dsimp only
    | dsimp +zetaDelta only

theorem eff_execMirrorTimeout (p : Fin 16) (s : State) : EffOut [.clk, .beat, .counts, .outstanding, .harts, .mem, .vst, .mir, .wdg, .hlt, .cor, .pci, .tray, .dbg, .out] s (execMirrorTimeout p s) := by
  unfold execMirrorTimeout
  iterate 24 all_goals try first
    | with_reducible exact EffOut.stop
    | with_reducible exact EffOut.ill
    | with_reducible refine EffOut.done ?_
    | with_reducible exact Eff.refl _
    | with_reducible assumption
    | (with_reducible apply Eff.after (eff_passTo ..); · decide)
    | (with_reducible apply Eff.after (eff_setMir ..); · decide)
    | (with_reducible apply Eff.after (eff_complete ..); · decide)
    | (with_reducible apply Eff.after (eff_mirEv ..); · decide)
    | exact (eff_done ..).mono (by decide)
    | intro _
    | extract_lets
    | with_reducible apply Eff.ite
    | (fail_if_no_progress ((with_reducible refine Eff.upd ?_ rfl rfl rfl rfl rfl rfl rfl rfl rfl rfl ?_); rotate_left; exact rfl))
    | split
    | dsimp only
    | dsimp +zetaDelta only

theorem eff_takeMir (kind : Nat) (m : Module) : ∀ u v c, takeMir kind m = some (u, v, c) → Eff [.rte, .mir] m c := by
  intro u v c h
  unfold takeMir at h
  try dsimp only at h
  repeat' split at h
  all_goals first
    | (simp only [reduceCtorEq] at h; done)
    | (simp only [Option.some.injEq, Prod.mk.injEq] at h; obtain ⟨rfl, rfl, rfl⟩ := h)
    | skip
  iterate 24 all_goals try first
    | with_reducible exact Eff.refl _
    | with_reducible assumption
    | (with_reducible apply Eff.opt2 (eff_takeAccepted _ _); with_reducible assumption; · decide)
    | (with_reducible apply Eff.after (eff_setMir ..); · decide)
    | intro _
    | extract_lets
    | with_reducible apply Eff.ite
    | (fail_if_no_progress ((with_reducible refine Eff.upd ?_ rfl rfl rfl rfl rfl rfl rfl rfl rfl rfl ?_); rotate_left; exact rfl))
    | split
    | dsimp only
    | dsimp +zetaDelta only

theorem eff_mAck (k : Pkt) (m : Module) : Eff [.port, .rte, .vst, .hlt, .cor, .sec, .pci, .tray, .dbg, .out] m (mAck k m) := by
  unfold mAck
  iterate 24 all_goals try first
    | with_reducible exact Eff.refl _
    | with_reducible assumption
    | (with_reducible apply Eff.after (eff_reply ..); · decide)
    | intro _
    | extract_lets
    | with_reducible apply Eff.ite
    | split
    | dsimp only
    | dsimp +zetaDelta only

theorem eff_mRefuse (p : Nat) (reason : Nat) (k : Pkt) (m : Module) : Eff [.port, .rte, .vst, .mir, .hlt, .cor, .sec, .pci, .tray, .dbg, .out] m (mRefuse p reason k m) := by
  unfold mRefuse
  iterate 24 all_goals try first
    | with_reducible exact Eff.refl _
    | with_reducible assumption
    | (with_reducible apply Eff.after (eff_setMir ..); · decide)
    | (with_reducible apply Eff.after (eff_mirEv ..); · decide)
    | (with_reducible apply Eff.after (eff_refuse ..); · decide)
    | intro _
    | extract_lets
    | with_reducible apply Eff.ite
    | (fail_if_no_progress ((with_reducible refine Eff.upd ?_ rfl rfl rfl rfl rfl rfl rfl rfl rfl rfl ?_); rotate_left; exact rfl))
    | split
    | dsimp only
    | dsimp +zetaDelta only

theorem eff_doBegin (p : Nat) (k : Pkt) (m : Module) : Eff [.mem, .flt, .port, .rte, .vst, .mir, .hlt, .cor, .sec, .pci, .tray, .dbg, .out] m (doBegin p k m) := by
  unfold doBegin
  iterate 24 all_goals try first
    | with_reducible exact Eff.refl _
    | with_reducible assumption
    | (with_reducible apply Eff.after (eff_mRefuse ..); · decide)
    | (with_reducible apply Eff.after (eff_vstCopy ..); · decide)
    | (with_reducible apply Eff.after (eff_mAck ..); · decide)
    | (with_reducible apply Eff.after (eff_setMir ..); · decide)
    | intro _
    | extract_lets
    | with_reducible apply Eff.ite
    | with_reducible apply Eff.fold
    | (fail_if_no_progress ((with_reducible refine Eff.upd ?_ rfl rfl rfl rfl rfl rfl rfl rfl rfl rfl ?_); rotate_left; exact rfl))
    | split
    | (with_reducible refine Eff.iteSnd (by assumption) ?_ ?_)
    | dsimp only
    | dsimp +zetaDelta only
    | with_reducible apply Eff.foldSnd
    | with_reducible apply Eff.foldFst
    | with_reducible apply Eff.foldThird

theorem eff_execMirBegin (s : State) : EffOut [.mem, .flt, .port, .rte, .vst, .mir, .hlt, .cor, .sec, .pci, .tray, .dbg, .out] s (execMirBegin s) := by
  unfold execMirBegin
  iterate 24 all_goals try first
    | with_reducible exact EffOut.stop
    | with_reducible exact EffOut.ill
    | with_reducible refine EffOut.done ?_
    | with_reducible exact Eff.refl _
    | with_reducible assumption
    | (with_reducible apply Eff.opt3 (eff_takeMir _ _); with_reducible assumption; · decide)
    | (with_reducible apply Eff.after (eff_doBegin ..); · decide)
    | exact (eff_done ..).mono (by decide)
    | intro _
    | extract_lets
    | with_reducible apply Eff.ite
    | (fail_if_no_progress ((with_reducible refine Eff.upd ?_ rfl rfl rfl rfl rfl rfl rfl rfl rfl rfl ?_); rotate_left; exact rfl))
    | split
    | dsimp only
    | dsimp +zetaDelta only

theorem eff_mStray (p : Nat) (k : Pkt) (m : Module) : Eff [.port, .rte, .vst, .mir, .hlt, .cor, .sec, .pci, .tray, .dbg, .out] m (mStray p k m) := by
  unfold mStray
  iterate 24 all_goals try first
    | with_reducible exact Eff.refl _
    | with_reducible assumption
    | (with_reducible apply Eff.after (eff_mRefuse ..); · decide)
    | intro _
    | extract_lets
    | with_reducible apply Eff.ite
    | split
    | dsimp only
    | dsimp +zetaDelta only

theorem eff_execMirList (s : State) : EffOut [.port, .rte, .vst, .mir, .hlt, .cor, .sec, .pci, .tray, .dbg, .out] s (execMirList s) := by
  unfold execMirList
  iterate 24 all_goals try first
    | with_reducible exact EffOut.stop
    | with_reducible exact EffOut.ill
    | with_reducible refine EffOut.done ?_
    | with_reducible exact Eff.refl _
    | with_reducible assumption
    | (with_reducible apply Eff.opt3 (eff_takeMir _ _); with_reducible assumption; · decide)
    | (with_reducible apply Eff.after (eff_mStray ..); · decide)
    | (with_reducible apply Eff.after (eff_mAck ..); · decide)
    | (with_reducible apply Eff.after (eff_setMir ..); · decide)
    | exact (eff_done ..).mono (by decide)
    | intro _
    | extract_lets
    | with_reducible apply Eff.ite
    | (fail_if_no_progress ((with_reducible refine Eff.upd ?_ rfl rfl rfl rfl rfl rfl rfl rfl rfl rfl ?_); rotate_left; exact rfl))
    | split
    | dsimp only
    | dsimp +zetaDelta only

theorem eff_execMirData (bad : List Nat) (s : State) : EffOut [.mem, .flt, .port, .rte, .vst, .mir, .hlt, .cor, .sec, .pci, .tray, .dbg, .out] s (execMirData bad s) := by
  unfold execMirData
  iterate 24 all_goals try first
    | with_reducible exact EffOut.stop
    | with_reducible exact EffOut.ill
    | with_reducible refine EffOut.done ?_
    | with_reducible exact Eff.refl _
    | with_reducible assumption
    | (with_reducible apply Eff.opt3 (eff_takeMir _ _); with_reducible assumption; · decide)
    | (with_reducible apply Eff.after (eff_mStray ..); · decide)
    | (with_reducible apply Eff.after (eff_memWriteBad ..); · decide)
    | (with_reducible apply Eff.after (eff_mAck ..); · decide)
    | (with_reducible apply Eff.after (eff_setMir ..); · decide)
    | exact (eff_done ..).mono (by decide)
    | intro _
    | extract_lets
    | with_reducible apply Eff.ite
    | (fail_if_no_progress ((with_reducible refine Eff.upd ?_ rfl rfl rfl rfl rfl rfl rfl rfl rfl rfl ?_); rotate_left; exact rfl))
    | split
    | dsimp only
    | dsimp +zetaDelta only

theorem eff_doEnd (p : Nat) (k : Pkt) (i : InXfer) (m : Module) : Eff [.port, .rte, .vst, .mir, .hlt, .cor, .sec, .pci, .tray, .dbg, .out] m (doEnd p k i m) := by
  unfold doEnd
  iterate 24 all_goals try first
    | with_reducible exact Eff.refl _
    | with_reducible assumption
    | (with_reducible apply Eff.after (eff_setMir ..); · decide)
    | (with_reducible apply Eff.after (eff_mirEv ..); · decide)
    | (with_reducible apply Eff.after (eff_mAck ..); · decide)
    | intro _
    | extract_lets
    | with_reducible apply Eff.ite
    | (fail_if_no_progress ((with_reducible refine Eff.upd ?_ rfl rfl rfl rfl rfl rfl rfl rfl rfl rfl ?_); rotate_left; exact rfl))
    | split
    | dsimp only
    | dsimp +zetaDelta only

theorem eff_execMirEnd (s : State) : EffOut [.port, .rte, .vst, .mir, .hlt, .cor, .sec, .pci, .tray, .dbg, .out] s (execMirEnd s) := by
  unfold execMirEnd
  iterate 24 all_goals try first
    | with_reducible exact EffOut.stop
    | with_reducible exact EffOut.ill
    | with_reducible refine EffOut.done ?_
    | with_reducible exact Eff.refl _
    | with_reducible assumption
    | (with_reducible apply Eff.opt3 (eff_takeMir _ _); with_reducible assumption; · decide)
    | (with_reducible apply Eff.after (eff_mStray ..); · decide)
    | (with_reducible apply Eff.after (eff_doEnd ..); · decide)
    | exact (eff_done ..).mono (by decide)
    | intro _
    | extract_lets
    | with_reducible apply Eff.ite
    | (fail_if_no_progress ((with_reducible refine Eff.upd ?_ rfl rfl rfl rfl rfl rfl rfl rfl rfl rfl ?_); rotate_left; exact rfl))
    | split
    | dsimp only
    | dsimp +zetaDelta only

theorem eff_execMirInput (s : State) : EffOut [.port, .rte, .vst, .mir, .hlt, .cor, .sec, .pci, .tray, .dbg, .out] s (execMirInput s) := by
  unfold execMirInput
  iterate 24 all_goals try first
    | with_reducible exact EffOut.stop
    | with_reducible exact EffOut.ill
    | with_reducible refine EffOut.done ?_
    | with_reducible exact Eff.refl _
    | with_reducible assumption
    | (with_reducible apply Eff.opt3 (eff_takeMir _ _); with_reducible assumption; · decide)
    | (with_reducible apply Eff.after (eff_mAck ..); · decide)
    | (with_reducible apply Eff.after (eff_setMir ..); · decide)
    | (with_reducible apply Eff.after (eff_mRefuse ..); · decide)
    | exact (eff_done ..).mono (by decide)
    | intro _
    | extract_lets
    | with_reducible apply Eff.ite
    | (fail_if_no_progress ((with_reducible refine Eff.upd ?_ rfl rfl rfl rfl rfl rfl rfl rfl rfl rfl ?_); rotate_left; exact rfl))
    | split
    | dsimp only
    | dsimp +zetaDelta only

theorem eff_execInAborted (p : Fin 16) (s : State) : EffOut [.clk, .beat, .mem, .vst, .mir, .hlt, .cor, .pci, .tray, .dbg, .out] s (execInAborted p s) := by
  unfold execInAborted
  iterate 24 all_goals try first
    | with_reducible exact EffOut.stop
    | with_reducible exact EffOut.ill
    | with_reducible refine EffOut.done ?_
    | with_reducible exact Eff.refl _
    | with_reducible assumption
    | (with_reducible apply Eff.after (eff_passTo ..); · decide)
    | (with_reducible apply Eff.after (eff_mirEv ..); · decide)
    | (with_reducible apply Eff.after (eff_setMir ..); · decide)
    | exact (eff_done ..).mono (by decide)
    | intro _
    | extract_lets
    | with_reducible apply Eff.ite
    | (fail_if_no_progress ((with_reducible refine Eff.upd ?_ rfl rfl rfl rfl rfl rfl rfl rfl rfl rfl ?_); rotate_left; exact rfl))
    | split
    | dsimp only
    | dsimp +zetaDelta only

theorem eff_discardW (p : Nat) (m : Module) : Eff [.mir] m (discardW p m) := by
  unfold discardW
  iterate 24 all_goals try first
    | with_reducible exact Eff.refl _
    | with_reducible assumption
    | (with_reducible apply Eff.after (eff_setMir ..); · decide)
    | intro _
    | extract_lets
    | with_reducible apply Eff.ite
    | (fail_if_no_progress ((with_reducible refine Eff.upd ?_ rfl rfl rfl rfl rfl rfl rfl rfl rfl rfl ?_); rotate_left; exact rfl))
    | split
    | dsimp only
    | dsimp +zetaDelta only

theorem eff_execDiscardInboundW (p : Fin 16) (s : State) : EffOut [.mir] s (execDiscardInboundW p s) := by
  unfold execDiscardInboundW
  iterate 24 all_goals try first
    | with_reducible exact EffOut.stop
    | with_reducible exact EffOut.ill
    | with_reducible refine EffOut.done ?_
    | with_reducible exact Eff.refl _
    | with_reducible assumption
    | (with_reducible apply Eff.after (eff_discardW ..); · decide)
    | exact (eff_done ..).mono (by decide)
    | intro _
    | extract_lets
    | with_reducible apply Eff.ite
    | split
    | dsimp only
    | dsimp +zetaDelta only

theorem eff_mirRestore (p : Nat) (m : Module) : Eff [.port, .rte, .vst, .mir, .hlt, .cor, .sec, .pci, .tray, .dbg, .out] m (mirRestore p m) := by
  unfold mirRestore
  iterate 24 all_goals try first
    | with_reducible exact Eff.refl _
    | with_reducible assumption
    | (with_reducible apply Eff.after (eff_toPartner ..); · decide)
    | (with_reducible apply Eff.snd (eff_toPartner ..); with_reducible assumption; · decide)
    | (with_reducible apply Eff.after (eff_setMir ..); · decide)
    | intro _
    | extract_lets
    | with_reducible apply Eff.ite
    | (fail_if_no_progress ((with_reducible refine Eff.upd ?_ rfl rfl rfl rfl rfl rfl rfl rfl rfl rfl ?_); rotate_left; exact rfl))
    | split
    | (with_reducible refine Eff.iteSnd (by assumption) ?_ ?_)
    | dsimp only
    | dsimp +zetaDelta only

theorem eff_execRestore (p : Fin 16) (s : State) : EffOut [.port, .rte, .vst, .mir, .hlt, .cor, .sec, .pci, .tray, .dbg, .out] s (execRestore p s) := by
  unfold execRestore
  iterate 24 all_goals try first
    | with_reducible exact EffOut.stop
    | with_reducible exact EffOut.ill
    | with_reducible refine EffOut.done ?_
    | with_reducible exact Eff.refl _
    | with_reducible assumption
    | (with_reducible apply Eff.after (eff_mirRestore ..); · decide)
    | exact (eff_done ..).mono (by decide)
    | intro _
    | extract_lets
    | with_reducible apply Eff.ite
    | split
    | dsimp only
    | dsimp +zetaDelta only

theorem eff_restoreFail (p : Nat) (r : Restore) (m : Module) : Eff [.vst, .mir, .hlt, .pci, .tray, .dbg, .out] m (restoreFail p r m) := by
  unfold restoreFail
  iterate 24 all_goals try first
    | with_reducible exact Eff.refl _
    | with_reducible assumption
    | (with_reducible apply Eff.after (eff_mirEv ..); · decide)
    | (with_reducible apply Eff.after (eff_setMir ..); · decide)
    | intro _
    | extract_lets
    | with_reducible apply Eff.ite
    | (fail_if_no_progress ((with_reducible refine Eff.upd ?_ rfl rfl rfl rfl rfl rfl rfl rfl rfl rfl ?_); rotate_left; exact rfl))
    | split
    | dsimp only
    | dsimp +zetaDelta only

theorem eff_execRestoreFailed (p : Fin 16) (s : State) : EffOut [.clk, .beat, .mem, .vst, .mir, .hlt, .cor, .pci, .tray, .dbg, .out] s (execRestoreFailed p s) := by
  unfold execRestoreFailed
  iterate 24 all_goals try first
    | with_reducible exact EffOut.stop
    | with_reducible exact EffOut.ill
    | with_reducible refine EffOut.done ?_
    | with_reducible exact Eff.refl _
    | with_reducible assumption
    | (with_reducible apply Eff.after (eff_restoreFail ..); · decide)
    | (with_reducible apply Eff.after (eff_passTo ..); · decide)
    | exact (eff_done ..).mono (by decide)
    | intro _
    | extract_lets
    | with_reducible apply Eff.ite
    | (fail_if_no_progress ((with_reducible refine Eff.upd ?_ rfl rfl rfl rfl rfl rfl rfl rfl rfl rfl ?_); rotate_left; exact rfl))
    | split
    | dsimp only
    | dsimp +zetaDelta only

theorem eff_captureStream (p : ℕ) (l : List Capture) (off : ℕ) (m : Module) : Eff [.mem, .flt, .vst, .hlt, .cor, .pci, .tray, .dbg, .out] m (captureStream p l off m).2 := by
  induction l generalizing off m with
  | nil => exact .refl _
  | cons c r ih => exact (eff_captureData ..).trans (ih ..)

theorem eff_sendResult (p : Nat) (chip : Nat) (part : Nat) (h : List Byte) (m : Module) : Eff [.mem, .flt, .port, .rte, .vst, .mir, .hlt, .cor, .sec, .pci, .tray, .dbg, .out] m (sendResult p chip part h m) := by
  unfold sendResult
  iterate 24 all_goals try first
    | with_reducible exact Eff.refl _
    | with_reducible assumption
    | (with_reducible apply Eff.after (eff_mirSend ..); · decide)
    | (with_reducible apply Eff.snd (eff_mirSend ..); with_reducible assumption; · decide)
    | (with_reducible apply Eff.after (eff_captureStream ..); · decide)
    | (with_reducible apply Eff.snd (eff_captureStream ..); with_reducible assumption; · decide)
    | (with_reducible apply Eff.after (eff_mirSendRead ..); · decide)
    | (with_reducible apply Eff.snd (eff_mirSendRead ..); with_reducible assumption; · decide)
    | intro _
    | extract_lets
    | with_reducible apply Eff.ite
    | with_reducible apply Eff.fold
    | (fail_if_no_progress ((with_reducible refine Eff.upd ?_ rfl rfl rfl rfl rfl rfl rfl rfl rfl rfl ?_); rotate_left; exact rfl))
    | split
    | (with_reducible refine Eff.iteSnd (by assumption) ?_ ?_)
    | dsimp only
    | dsimp +zetaDelta only
    | with_reducible apply Eff.foldSnd
    | with_reducible apply Eff.foldFst
    | with_reducible apply Eff.foldThird

theorem eff_doFetch (p : Nat) (k : Pkt) (m : Module) : Eff [.mem, .flt, .port, .rte, .vst, .mir, .hlt, .cor, .sec, .pci, .tray, .dbg, .out] m (doFetch p k m) := by
  unfold doFetch
  iterate 24 all_goals try first
    | with_reducible exact Eff.refl _
    | with_reducible assumption
    | (with_reducible apply Eff.after (eff_mRefuse ..); · decide)
    | (with_reducible apply Eff.after (eff_mAck ..); · decide)
    | (with_reducible apply Eff.after (eff_memRead ..); · decide)
    | (with_reducible apply Eff.third (eff_memRead ..); with_reducible assumption; · decide)
    | (with_reducible apply Eff.after (eff_mirSendRead ..); · decide)
    | (with_reducible apply Eff.snd (eff_mirSendRead ..); with_reducible assumption; · decide)
    | (with_reducible apply Eff.after (eff_sendResult ..); · decide)
    | (with_reducible apply Eff.after (eff_mirSend ..); · decide)
    | (with_reducible apply Eff.snd (eff_mirSend ..); with_reducible assumption; · decide)
    | intro _
    | extract_lets
    | with_reducible apply Eff.ite
    | with_reducible apply Eff.fold
    | (fail_if_no_progress ((with_reducible refine Eff.upd ?_ rfl rfl rfl rfl rfl rfl rfl rfl rfl rfl ?_); rotate_left; exact rfl))
    | split
    | (with_reducible refine Eff.iteSnd (by assumption) ?_ ?_)
    | dsimp only
    | dsimp +zetaDelta only
    | with_reducible apply Eff.foldSnd
    | with_reducible apply Eff.foldFst
    | with_reducible apply Eff.foldThird

theorem eff_execFetch (s : State) : EffOut [.mem, .flt, .port, .rte, .vst, .mir, .hlt, .cor, .sec, .pci, .tray, .dbg, .out] s (execFetch s) := by
  unfold execFetch
  iterate 24 all_goals try first
    | with_reducible exact EffOut.stop
    | with_reducible exact EffOut.ill
    | with_reducible refine EffOut.done ?_
    | with_reducible exact Eff.refl _
    | with_reducible assumption
    | (with_reducible apply Eff.opt3 (eff_takeMir _ _); with_reducible assumption; · decide)
    | (with_reducible apply Eff.after (eff_doFetch ..); · decide)
    | exact (eff_done ..).mono (by decide)
    | intro _
    | extract_lets
    | with_reducible apply Eff.ite
    | (fail_if_no_progress ((with_reducible refine Eff.upd ?_ rfl rfl rfl rfl rfl rfl rfl rfl rfl rfl ?_); rotate_left; exact rfl))
    | split
    | dsimp only
    | dsimp +zetaDelta only

theorem eff_execRdata (bad : List Nat) (s : State) : EffOut [.mem, .flt, .port, .rte, .vst, .mir, .hlt, .cor, .sec, .pci, .tray, .dbg, .out] s (execRdata bad s) := by
  unfold execRdata
  iterate 24 all_goals try first
    | with_reducible exact EffOut.stop
    | with_reducible exact EffOut.ill
    | with_reducible refine EffOut.done ?_
    | with_reducible exact Eff.refl _
    | with_reducible assumption
    | (with_reducible apply Eff.opt3 (eff_takeMir _ _); with_reducible assumption; · decide)
    | (with_reducible apply Eff.after (eff_memWriteBad ..); · decide)
    | (with_reducible apply Eff.after (eff_mAck ..); · decide)
    | (with_reducible apply Eff.after (eff_setMir ..); · decide)
    | exact (eff_done ..).mono (by decide)
    | intro _
    | extract_lets
    | with_reducible apply Eff.ite
    | (fail_if_no_progress ((with_reducible refine Eff.upd ?_ rfl rfl rfl rfl rfl rfl rfl rfl rfl rfl ?_); rotate_left; exact rfl))
    | split
    | dsimp only
    | dsimp +zetaDelta only

theorem eff_doResult (p : Nat) (k : Pkt) (bad : List Nat) (r : Restore) (m : Module) : Eff [.mem, .flt, .vst, .mir, .hlt, .cor, .pci, .tray, .dbg, .out] m (doResult p k bad r m) := by
  unfold doResult
  iterate 24 all_goals try first
    | with_reducible exact Eff.refl _
    | with_reducible assumption
    | (with_reducible apply Eff.after (eff_setMir ..); · decide)
    | (with_reducible apply Eff.after (eff_vstWrite ..); · decide)
    | (with_reducible apply Eff.after (eff_memWriteBad ..); · decide)
    | intro _
    | extract_lets
    | with_reducible apply Eff.ite
    | (fail_if_no_progress ((with_reducible refine Eff.upd ?_ rfl rfl rfl rfl rfl rfl rfl rfl rfl rfl ?_); rotate_left; exact rfl))
    | split
    | dsimp only
    | dsimp +zetaDelta only

theorem eff_execRresult (bad : List Nat) (s : State) : EffOut [.mem, .flt, .port, .rte, .vst, .mir, .hlt, .cor, .sec, .pci, .tray, .dbg, .out] s (execRresult bad s) := by
  unfold execRresult
  iterate 24 all_goals try first
    | with_reducible exact EffOut.stop
    | with_reducible exact EffOut.ill
    | with_reducible refine EffOut.done ?_
    | with_reducible exact Eff.refl _
    | with_reducible assumption
    | (with_reducible apply Eff.opt3 (eff_takeMir _ _); with_reducible assumption; · decide)
    | (with_reducible apply Eff.after (eff_mAck ..); · decide)
    | (with_reducible apply Eff.after (eff_doResult ..); · decide)
    | exact (eff_done ..).mono (by decide)
    | intro _
    | extract_lets
    | with_reducible apply Eff.ite
    | (fail_if_no_progress ((with_reducible refine Eff.upd ?_ rfl rfl rfl rfl rfl rfl rfl rfl rfl rfl ?_); rotate_left; exact rfl))
    | split
    | dsimp only
    | dsimp +zetaDelta only

theorem eff_parseCaptures (p base used n off : ℕ) (m : Module) : Eff [.mem, .flt, .vst, .hlt, .cor, .pci, .tray, .dbg, .out] m (parseCaptures p base used n off m).2 := by
  induction n generalizing off m with
  | zero => exact .refl _
  | succ n ih =>
    rw [parseCaptures]
    split
    · exact .refl _
    have h := eff_memRead 2 p 2 false (base + off) 64 m
    generalize memRead 2 p 2 false (base + off) 64 m = x at h ⊢
    obtain ⟨b, u, m1⟩ := x
    exact h.trans (ih ..)

theorem eff_doRdone (p : Nat) (k : Pkt) (r : Restore) (m : Module) : Eff [.mem, .flt, .port, .rte, .vst, .mir, .hlt, .cor, .sec, .pci, .tray, .dbg, .out] m (doRdone p k r m) := by
  unfold doRdone
  iterate 24 all_goals try first
    | with_reducible exact Eff.refl _
    | with_reducible assumption
    | (with_reducible apply Eff.after (eff_parseCaptures ..); · decide)
    | (with_reducible apply Eff.snd (eff_parseCaptures ..); with_reducible assumption; · decide)
    | (with_reducible apply Eff.after (eff_setVst ..); · decide)
    | (with_reducible apply Eff.after (eff_setMir ..); · decide)
    | (with_reducible apply Eff.after (eff_mirEv ..); · decide)
    | (with_reducible apply Eff.after (eff_mAck ..); · decide)
    | intro _
    | extract_lets
    | with_reducible apply Eff.ite
    | with_reducible apply Eff.fold
    | (fail_if_no_progress ((with_reducible refine Eff.upd ?_ rfl rfl rfl rfl rfl rfl rfl rfl rfl rfl ?_); rotate_left; exact rfl))
    | split
    | (with_reducible refine Eff.iteSnd (by assumption) ?_ ?_)
    | dsimp only
    | dsimp +zetaDelta only
    | with_reducible apply Eff.foldSnd
    | with_reducible apply Eff.foldFst
    | with_reducible apply Eff.foldThird

theorem eff_execRdone (s : State) : EffOut [.mem, .flt, .port, .rte, .vst, .mir, .hlt, .cor, .sec, .pci, .tray, .dbg, .out] s (execRdone s) := by
  unfold execRdone
  iterate 24 all_goals try first
    | with_reducible exact EffOut.stop
    | with_reducible exact EffOut.ill
    | with_reducible refine EffOut.done ?_
    | with_reducible exact Eff.refl _
    | with_reducible assumption
    | (with_reducible apply Eff.opt3 (eff_takeMir _ _); with_reducible assumption; · decide)
    | (with_reducible apply Eff.after (eff_doRdone ..); · decide)
    | exact (eff_done ..).mono (by decide)
    | intro _
    | extract_lets
    | with_reducible apply Eff.ite
    | (fail_if_no_progress ((with_reducible refine Eff.upd ?_ rfl rfl rfl rfl rfl rfl rfl rfl rfl rfl ?_); rotate_left; exact rfl))
    | split
    | dsimp only
    | dsimp +zetaDelta only

theorem eff_toFlights (tag : ℕ) (ans : BurstAnswer) (l : List ℕ) (m : Module) :
    ∀ x, toFlights tag ans l m = some x → Eff [.counts, .outstanding, .harts, .mem, .flt, .port, .rte, .vst, .wdg, .hlt, .cor, .sec, .pci, .tray, .dbg, .out] m x := by
  induction l with
  | nil => intro x h; simp [toFlights] at h
  | cons f r ih =>
    intro x h
    rw [toFlights] at h
    split at h
    · rename_i y e
      cases h
      exact (eff_fltRespond _ _ _ _ _ e).mono (by decide)
    · exact ih x h

theorem eff_toMirror (tag reason : ℕ) (refused : Bool) (l : List ℕ) (m : Module) :
    ∀ x, toMirror tag reason refused l m = some x → Eff [.counts, .outstanding, .harts, .mem, .flt, .port, .rte, .vst, .mir, .wdg, .hlt, .cor, .sec, .pci, .tray, .dbg, .out] m x := by
  induction l with
  | nil => intro x h; simp [toMirror] at h
  | cons p r ih =>
    intro x h
    rw [toMirror] at h
    repeat' split at h
    all_goals first
      | exact ih x h
      | (cases h
         try split
         all_goals first
           | exact (eff_sendAck ..).mono (by decide)
           | exact ((eff_setMir ..).mono (by decide)).trans ((eff_restoreFail ..).mono (by decide))
           | exact .refl _
           | exact (eff_drainAck ..).mono (by decide))

theorem eff_replyCross (k : Pkt) (m : Module) : Eff [.cor] m (replyCross k m) := by
  unfold replyCross
  iterate 24 all_goals try first
    | with_reducible exact Eff.refl _
    | with_reducible assumption
    | (with_reducible apply Eff.after (eff_corridor ..); · decide)
    | intro _
    | extract_lets
    | with_reducible apply Eff.ite
    | (fail_if_no_progress ((with_reducible refine Eff.upd ?_ rfl rfl rfl rfl rfl rfl rfl rfl rfl rfl ?_); rotate_left; exact rfl))
    | split
    | dsimp only
    | dsimp +zetaDelta only

theorem eff_doAck (k : Pkt) (m : Module) : Eff [.counts, .outstanding, .harts, .mem, .flt, .port, .rte, .vst, .mir, .wdg, .hlt, .cor, .sec, .pci, .tray, .dbg, .out] m (doAck k m) := by
  unfold doAck
  iterate 24 all_goals try first
    | with_reducible exact Eff.refl _
    | with_reducible assumption
    | (with_reducible apply Eff.opt (eff_toFlights _ _ _ _); with_reducible assumption; · decide)
    | (with_reducible apply Eff.opt (eff_toMirror _ _ _ _ _); with_reducible assumption; · decide)
    | intro _
    | extract_lets
    | with_reducible apply Eff.ite
    | (fail_if_no_progress ((with_reducible refine Eff.upd ?_ rfl rfl rfl rfl rfl rfl rfl rfl rfl rfl ?_); rotate_left; exact rfl))
    | split
    | dsimp only
    | dsimp +zetaDelta only

theorem eff_execAck (s : State) : EffOut [.counts, .outstanding, .harts, .mem, .flt, .port, .rte, .vst, .mir, .wdg, .hlt, .cor, .sec, .pci, .tray, .dbg, .out] s (execAck s) := by
  unfold execAck
  iterate 24 all_goals try first
    | with_reducible exact EffOut.stop
    | with_reducible exact EffOut.ill
    | with_reducible refine EffOut.done ?_
    | with_reducible exact Eff.refl _
    | with_reducible assumption
    | (with_reducible apply Eff.opt2 (eff_takeTy _ _); with_reducible assumption; · decide)
    | (with_reducible apply Eff.after (eff_doAck ..); · decide)
    | (with_reducible apply Eff.after (eff_replyCross ..); · decide)
    | exact (eff_done ..).mono (by decide)
    | intro _
    | extract_lets
    | with_reducible apply Eff.ite
    | (fail_if_no_progress ((with_reducible refine Eff.upd ?_ rfl rfl rfl rfl rfl rfl rfl rfl rfl rfl ?_); rotate_left; exact rfl))
    | split
    | dsimp only
    | dsimp +zetaDelta only

theorem eff_doReadResp (k : Pkt) (m : Module) : Eff [.counts, .outstanding, .harts, .mem, .flt, .port, .rte, .vst, .wdg, .hlt, .cor, .sec, .pci, .tray, .dbg, .out] m (doReadResp k m) := by
  unfold doReadResp
  iterate 24 all_goals try first
    | with_reducible exact Eff.refl _
    | with_reducible assumption
    | (with_reducible apply Eff.opt (eff_toFlights _ _ _ _); with_reducible assumption; · decide)
    | intro _
    | extract_lets
    | with_reducible apply Eff.ite
    | (fail_if_no_progress ((with_reducible refine Eff.upd ?_ rfl rfl rfl rfl rfl rfl rfl rfl rfl rfl ?_); rotate_left; exact rfl))
    | split
    | dsimp only
    | dsimp +zetaDelta only

theorem eff_execReadResp (s : State) : EffOut [.counts, .outstanding, .harts, .mem, .flt, .port, .rte, .vst, .wdg, .hlt, .cor, .sec, .pci, .tray, .dbg, .out] s (execReadResp s) := by
  unfold execReadResp
  iterate 24 all_goals try first
    | with_reducible exact EffOut.stop
    | with_reducible exact EffOut.ill
    | with_reducible refine EffOut.done ?_
    | with_reducible exact Eff.refl _
    | with_reducible assumption
    | (with_reducible apply Eff.opt2 (eff_takeTy _ _); with_reducible assumption; · decide)
    | (with_reducible apply Eff.after (eff_doReadResp ..); · decide)
    | (with_reducible apply Eff.after (eff_replyCross ..); · decide)
    | exact (eff_done ..).mono (by decide)
    | intro _
    | extract_lets
    | with_reducible apply Eff.ite
    | (fail_if_no_progress ((with_reducible refine Eff.upd ?_ rfl rfl rfl rfl rfl rfl rfl rfl rfl rfl ?_); rotate_left; exact rfl))
    | split
    | dsimp only
    | dsimp +zetaDelta only

end Sys2Proof.Laws
end

