-- ==== Sys2Proof/Laws/EffRegRead.lean ====
section
/-! SUPPORT. What the operations of RegRead.lean keep, and what they may change. -/

namespace Sys2Proof.Laws
open Sys2Proof.Machine

theorem eff_sense (x : RegPlace) (m : Module) : Eff [.gal, .bal, .mem, .pwr] m (sense x m) := by
  unfold sense
  iterate 24 all_goals try first
    | with_reducible exact Eff.refl _
    | with_reducible assumption
    | (with_reducible apply Eff.after (eff_gateSweep ..); · decide)
    | (with_reducible apply Eff.after (eff_freeVal ..); · decide)
    | (with_reducible apply Eff.snd (eff_freeVal ..); with_reducible assumption; · decide)
    | (with_reducible apply Eff.after (eff_senseAvg ..); · decide)
    | (with_reducible apply Eff.after (eff_updMemUnit ..); · decide)
    | intro _
    | extract_lets
    | with_reducible apply Eff.ite
    | (fail_if_no_progress ((with_reducible refine Eff.upd ?_ rfl rfl rfl rfl rfl rfl rfl rfl rfl rfl ?_); rotate_left; exact rfl))
    | split
    | dsimp only
    | dsimp +zetaDelta only

theorem eff_regRead (off : Nat) (m : Module) : Eff [.gal, .bal, .mem, .pwr, .pci] m (regRead off m).2 := by
  unfold regRead
  iterate 24 all_goals try first
    | with_reducible exact Eff.refl _
    | with_reducible assumption
    | (with_reducible apply Eff.after (eff_unmapped ..); · decide)
    | (with_reducible apply Eff.after (eff_sense ..); · decide)
    | (with_reducible apply Eff.after (eff_freeVal ..); · decide)
    | (with_reducible apply Eff.snd (eff_freeVal ..); with_reducible assumption; · decide)
    | intro _
    | extract_lets
    | with_reducible apply Eff.ite
    | (fail_if_no_progress ((with_reducible refine Eff.upd ?_ rfl rfl rfl rfl rfl rfl rfl rfl rfl rfl ?_); rotate_left; exact rfl))
    | split
    | (with_reducible refine Eff.iteSnd (by assumption) ?_ ?_)
    | dsimp only
    | dsimp +zetaDelta only

end Sys2Proof.Laws
end

