-- ==== Sys2Proof/Laws/EffRis.lean ====
section
/-! SUPPORT. What the operations of Ris.lean keep, and what they may change. -/

namespace Sys2Proof.Laws
open Sys2Proof.Machine

theorem eff_risRefuse (r : Nat) (code : Nat) (d : Desc) (m : Module) : Eff [.counts, .outstanding, .harts, .ris, .vst, .wdg, .hlt, .pci, .tray, .dbg, .out] m (risRefuse r code d m) := by
  unfold risRefuse
  iterate 24 all_goals try first
    | with_reducible exact Eff.refl _
    | with_reducible assumption
    | (with_reducible apply Eff.after (eff_bodyRefused ..); · decide)
    | (with_reducible apply Eff.after (eff_setRis ..); · decide)
    | intro _
    | extract_lets
    | with_reducible apply Eff.ite
    | (fail_if_no_progress ((with_reducible refine Eff.upd ?_ rfl rfl rfl rfl rfl rfl rfl rfl rfl rfl ?_); rotate_left; exact rfl))
    | split
    | dsimp only
    | dsimp +zetaDelta only

theorem eff_cvRun (r : ℕ) (d : Desc) (seed : W64) (sc : W32) (m : Module) : Eff [.mem, .flt, .vst, .hlt, .cor, .pci, .tray, .dbg, .out] m (cvRun r d seed sc m).2 := by
  unfold cvRun
  extract_lets w n
  refine Eff.foldSnd (.refl _) fun u m e => ?_
  beta_reduce
  split
  rename_i raw m1 e1
  split
  rename_i scl m2 e2
  split
  rename_i aux m3 e3
  have h : Eff [.mem, .flt, .vst, .hlt, .cor, .pci, .tray, .dbg, .out] m m3 := Eff.iteSnd e3
    ((Eff.iteSnd e2 ((Eff.snd (eff_hallRead ..) e1 (by decide) (.refl _)).trans ((eff_hallRead ..).mono (by decide)))
      (Eff.snd (eff_hallRead ..) e1 (by decide) (.refl _))).trans ((eff_hallRead ..).mono (by decide)))
    (Eff.iteSnd e2 ((Eff.snd (eff_hallRead ..) e1 (by decide) (.refl _)).trans ((eff_hallRead ..).mono (by decide)))
      (Eff.snd (eff_hallRead ..) e1 (by decide) (.refl _)))
  refine h.trans ?_
  extract_lets q z rnds
  split
  extract_lets mw
  have hw : Eff [.mem, .flt, .vst, .hlt, .cor, .pci, .tray, .dbg, .out] m3 mw := (eff_hallWrite ..).mono (by decide)
  show Eff [.mem, .flt, .vst, .hlt, .cor, .pci, .tray, .dbg, .out] m3 (if _ then _ else mw)
  split
  · exact hw.trans ((eff_hallWrite ..).mono (by decide))
  · exact hw

theorem eff_risLockstep (r : Nat) (p : Nat) (m0 : Module) (m : Module) : Eff [.ris] m (risLockstep r p m0 m) := by
  unfold risLockstep
  iterate 24 all_goals try first
    | with_reducible exact Eff.refl _
    | with_reducible assumption
    | (with_reducible apply Eff.after (eff_setRis ..); · decide)
    | intro _
    | extract_lets
    | with_reducible apply Eff.ite
    | (fail_if_no_progress ((with_reducible refine Eff.upd ?_ rfl rfl rfl rfl rfl rfl rfl rfl rfl rfl ?_); rotate_left; exact rfl))
    | split
    | dsimp only
    | dsimp +zetaDelta only

theorem eff_cvStart (r : Nat) (d : Desc) (hallStalls : Nat) (nwlStalls : Nat) (m : Module) : Eff [.ris, .nwl, .mem, .flt, .vst, .hlt, .cor, .pci, .tray, .dbg, .out] m (cvStart r d hallStalls nwlStalls m) := by
  unfold cvStart
  iterate 24 all_goals try first
    | with_reducible exact Eff.refl _
    | with_reducible assumption
    | (with_reducible apply Eff.after (eff_setRis ..); · decide)
    | (with_reducible apply Eff.after (eff_cvRun ..); · decide)
    | (with_reducible apply Eff.snd (eff_cvRun ..); with_reducible assumption; · decide)
    | (with_reducible apply Eff.after (eff_nwlCount ..); · decide)
    | (with_reducible apply Eff.after (eff_hallLost ..); · decide)
    | intro _
    | extract_lets
    | with_reducible apply Eff.ite
    | with_reducible apply Eff.fold
    | (fail_if_no_progress ((with_reducible refine Eff.upd ?_ rfl rfl rfl rfl rfl rfl rfl rfl rfl rfl ?_); rotate_left; exact rfl))
    | split
    | (with_reducible refine Eff.iteSnd (by assumption) ?_ ?_)
    | dsimp only
    | dsimp +zetaDelta only
    | with_reducible apply Eff.foldSnd
    | with_reducible apply Eff.foldFst
    | with_reducible apply Eff.foldThird

theorem eff_execConvert (r : Fin 8) (hallStalls : Nat) (nwlStalls : Nat) (seedEcc : List EccHit) (errs : List MemErr) (s : State) : EffOut [.queues, .counts, .outstanding, .harts, .ris, .nwl, .mem, .flt, .vst, .wdg, .hlt, .cor, .pci, .tray, .dbg, .out] s (execConvert r hallStalls nwlStalls seedEcc errs s) := by
  unfold execConvert
  iterate 24 all_goals try first
    | with_reducible exact EffOut.stop
    | with_reducible exact EffOut.ill
    | with_reducible refine EffOut.done ?_
    | with_reducible exact Eff.refl _
    | with_reducible assumption
    | (with_reducible apply Eff.after (eff_dequeue ..); · decide)
    | (with_reducible apply Eff.after (eff_risRefuse ..); · decide)
    | (with_reducible apply Eff.after (eff_nwlEcc ..); · decide)
    | (with_reducible apply Eff.after (eff_complete ..); · decide)
    | (with_reducible apply Eff.after (eff_refuseDraw ..); · decide)
    | (with_reducible apply Eff.after (eff_risLockstep ..); · decide)
    | (with_reducible apply Eff.after (eff_cvStart ..); · decide)
    | (with_reducible apply Eff.after (eff_memErrs ..); · decide)
    | (with_reducible apply Eff.after (eff_descStart ..); · decide)
    | exact (eff_done ..).mono (by decide)
    | intro _
    | extract_lets
    | with_reducible apply Eff.ite
    | (fail_if_no_progress ((with_reducible refine Eff.upd ?_ rfl rfl rfl rfl rfl rfl rfl rfl rfl rfl ?_); rotate_left; exact rfl))
    | split
    | dsimp only
    | dsimp +zetaDelta only

theorem eff_streamAdd (r : Nat) (o : EngOp) (m : Module) : Eff [.ris, .vst, .hlt, .pci, .tray, .dbg, .out] m (streamAdd r o m) := by
  unfold streamAdd
  iterate 24 all_goals try first
    | with_reducible exact Eff.refl _
    | with_reducible assumption
    | (with_reducible apply Eff.after (eff_setRis ..); · decide)
    | (with_reducible apply Eff.after (eff_ev ..); · decide)
    | intro _
    | extract_lets
    | with_reducible apply Eff.ite
    | (fail_if_no_progress ((with_reducible refine Eff.upd ?_ rfl rfl rfl rfl rfl rfl rfl rfl rfl rfl ?_); rotate_left; exact rfl))
    | split
    | dsimp only
    | dsimp +zetaDelta only

theorem eff_execRisComplete (r : Fin 8) (pairDiff : Bool) (s : State) : EffOut [.clk, .beat, .counts, .outstanding, .harts, .ris, .mem, .vst, .wdg, .chk, .hlt, .cor, .pci, .tray, .dbg, .out] s (execRisComplete r pairDiff s) := by
  unfold execRisComplete
  iterate 24 all_goals try first
    | with_reducible exact EffOut.stop
    | with_reducible exact EffOut.ill
    | with_reducible refine EffOut.done ?_
    | with_reducible exact Eff.refl _
    | with_reducible assumption
    | (with_reducible apply Eff.after (eff_passToCycle ..); · decide)
    | (with_reducible apply Eff.after (eff_streamAdd ..); · decide)
    | (with_reducible apply Eff.after (eff_setRis ..); · decide)
    | (with_reducible apply Eff.after (eff_risLockstep ..); · decide)
    | (with_reducible apply Eff.after (eff_comparePair ..); · decide)
    | (with_reducible apply Eff.after (eff_complete ..); · decide)
    | exact (eff_done ..).mono (by decide)
    | intro _
    | extract_lets
    | with_reducible apply Eff.ite
    | (fail_if_no_progress ((with_reducible refine Eff.upd ?_ rfl rfl rfl rfl rfl rfl rfl rfl rfl rfl ?_); rotate_left; exact rfl))
    | split
    | dsimp only
    | dsimp +zetaDelta only

theorem eff_execStreamClear (r : Fin 8) (set : Fin 16) (s : State) : EffOut [.ris] s (execStreamClear r set s) := by
  unfold execStreamClear
  iterate 24 all_goals try first
    | with_reducible exact EffOut.stop
    | with_reducible exact EffOut.ill
    | with_reducible refine EffOut.done ?_
    | with_reducible exact Eff.refl _
    | with_reducible assumption
    | (with_reducible apply Eff.after (eff_setRis ..); · decide)
    | exact (eff_done ..).mono (by decide)
    | intro _
    | extract_lets
    | with_reducible apply Eff.ite
    | split
    | dsimp only
    | dsimp +zetaDelta only

theorem eff_risCntClr (r : Nat) (m : Module) : Eff [.ris] m (risCntClr r m) := by
  unfold risCntClr
  iterate 24 all_goals try first
    | with_reducible exact Eff.refl _
    | with_reducible assumption
    | (with_reducible apply Eff.after (eff_setRis ..); · decide)
    | intro _
    | extract_lets
    | with_reducible apply Eff.ite
    | split
    | dsimp only
    | dsimp +zetaDelta only

theorem eff_execRisCntClr (r : Fin 8) (s : State) : EffOut [.ris] s (execRisCntClr r s) := by
  unfold execRisCntClr
  iterate 24 all_goals try first
    | with_reducible exact EffOut.stop
    | with_reducible exact EffOut.ill
    | with_reducible refine EffOut.done ?_
    | with_reducible exact Eff.refl _
    | with_reducible assumption
    | (with_reducible apply Eff.after (eff_risCntClr ..); · decide)
    | exact (eff_done ..).mono (by decide)
    | intro _
    | extract_lets
    | with_reducible apply Eff.ite
    | split
    | dsimp only
    | dsimp +zetaDelta only

theorem eff_execRisClearStreamSets (r : Fin 8) (s : State) : EffOut [.ris] s (execRisClearStreamSets r s) := by
  unfold execRisClearStreamSets
  iterate 24 all_goals try first
    | with_reducible exact EffOut.stop
    | with_reducible exact EffOut.ill
    | with_reducible refine EffOut.done ?_
    | with_reducible exact Eff.refl _
    | with_reducible assumption
    | (with_reducible apply Eff.after (eff_setRis ..); · decide)
    | exact (eff_done ..).mono (by decide)
    | intro _
    | extract_lets
    | with_reducible apply Eff.ite
    | split
    | dsimp only
    | dsimp +zetaDelta only

end Sys2Proof.Laws
end

