-- ==== Sys2Proof/Laws/EffSus.lean ====
section
/-! SUPPORT. What the operations of Sus.lean keep, and what they may change. -/

namespace Sys2Proof.Laws
open Sys2Proof.Machine

theorem eff_endSlot (i : Nat) (v : Nat) (m : Module) : Eff [.wdg] m (endSlot i v m) := by
  unfold endSlot
  iterate 24 all_goals try first
    | with_reducible exact Eff.refl _
    | with_reducible assumption
    | intro _
    | extract_lets
    | with_reducible apply Eff.ite
    | (fail_if_no_progress ((with_reducible refine Eff.upd ?_ rfl rfl rfl rfl rfl rfl rfl rfl rfl rfl ?_); rotate_left; exact rfl))
    | split
    | dsimp only
    | dsimp +zetaDelta only

theorem eff_guilty (byMax : Bool) (m : Module) : Eff [.queues, .counts, .gates, .outstanding, .harts, .flt, .vst, .wdg, .hlt, .pci, .tray, .dbg, .out] m (guilty byMax m) := by
  unfold guilty
  iterate 24 all_goals try first
    | with_reducible exact Eff.refl _
    | with_reducible assumption
    | (with_reducible apply Eff.after (eff_endSlot ..); · decide)
    | (with_reducible apply Eff.after (eff_ctxReset ..); · decide)
    | (with_reducible apply Eff.after (eff_ev ..); · decide)
    | (with_reducible apply Eff.after (eff_scoreEngine ..); · decide)
    | intro _
    | extract_lets
    | with_reducible apply Eff.ite
    | (fail_if_no_progress ((with_reducible refine Eff.upd ?_ rfl rfl rfl rfl rfl rfl rfl rfl rfl rfl ?_); rotate_left; exact rfl))
    | split
    | dsimp only
    | dsimp +zetaDelta only

theorem eff_openSlot (i : Nat) (s : Suspect) (m : Module) : Eff [.harts, .wdg] m (openSlot i s m) := by
  unfold openSlot
  iterate 24 all_goals try first
    | with_reducible exact Eff.refl _
    | with_reducible assumption
    | (with_reducible apply Eff.after (eff_setHart ..); · decide)
    | intro _
    | extract_lets
    | with_reducible apply Eff.ite
    | (fail_if_no_progress ((with_reducible refine Eff.upd ?_ rfl rfl rfl rfl rfl rfl rfl rfl rfl rfl ?_); rotate_left; exact rfl))
    | split
    | dsimp only
    | dsimp +zetaDelta only

theorem eff_execSlotOpen (s : State) : EffOut [.clk, .beat, .harts, .mem, .wdg, .cor, .dbg, .out] s (execSlotOpen s) := by
  unfold execSlotOpen
  iterate 24 all_goals try first
    | with_reducible exact EffOut.stop
    | with_reducible exact EffOut.ill
    | with_reducible refine EffOut.done ?_
    | with_reducible exact Eff.refl _
    | with_reducible assumption
    | (with_reducible apply Eff.after (eff_openSlot ..); · decide)
    | (with_reducible apply Eff.after (eff_passToBeat ..); · decide)
    | exact (eff_done ..).mono (by decide)
    | intro _
    | extract_lets
    | with_reducible apply Eff.ite
    | (fail_if_no_progress ((with_reducible refine Eff.upd ?_ rfl rfl rfl rfl rfl rfl rfl rfl rfl rfl ?_); rotate_left; exact rfl))
    | split
    | dsimp only
    | dsimp +zetaDelta only

theorem eff_execSuspectClear (s : State) : EffOut [.harts, .vst, .wdg, .hlt, .pci, .tray, .dbg, .out] s (execSuspectClear s) := by
  unfold execSuspectClear
  iterate 24 all_goals try first
    | with_reducible exact EffOut.stop
    | with_reducible exact EffOut.ill
    | with_reducible refine EffOut.done ?_
    | with_reducible exact Eff.refl _
    | with_reducible assumption
    | (with_reducible apply Eff.after (eff_phaseCheck ..); · decide)
    | (with_reducible apply Eff.after (eff_ev ..); · decide)
    | (with_reducible apply Eff.after (eff_endSlot ..); · decide)
    | exact (eff_done ..).mono (by decide)
    | intro _
    | extract_lets
    | with_reducible apply Eff.ite
    | (fail_if_no_progress ((with_reducible refine Eff.upd ?_ rfl rfl rfl rfl rfl rfl rfl rfl rfl rfl ?_); rotate_left; exact rfl))
    | split
    | dsimp only
    | dsimp +zetaDelta only

theorem eff_execSlotMaxExpiry (s : State) : EffOut [.clk, .beat, .queues, .counts, .gates, .outstanding, .harts, .mem, .flt, .vst, .wdg, .hlt, .cor, .pci, .tray, .dbg, .out] s (execSlotMaxExpiry s) := by
  unfold execSlotMaxExpiry
  iterate 24 all_goals try first
    | with_reducible exact EffOut.stop
    | with_reducible exact EffOut.ill
    | with_reducible refine EffOut.done ?_
    | with_reducible exact Eff.refl _
    | with_reducible assumption
    | (with_reducible apply Eff.after (eff_phaseCheck ..); · decide)
    | (with_reducible apply Eff.after (eff_guilty ..); · decide)
    | (with_reducible apply Eff.after (eff_passTo ..); · decide)
    | exact (eff_done ..).mono (by decide)
    | intro _
    | extract_lets
    | with_reducible apply Eff.ite
    | (fail_if_no_progress ((with_reducible refine Eff.upd ?_ rfl rfl rfl rfl rfl rfl rfl rfl rfl rfl ?_); rotate_left; exact rfl))
    | split
    | dsimp only
    | dsimp +zetaDelta only

theorem eff_addSuspects (cls : Nat) (idx : Nat) (l : List (Nat × Nat × Bool)) (m : Module) : Eff [.vst, .wdg, .hlt, .pci, .tray, .dbg, .out] m (addSuspects cls idx l m) := by
  unfold addSuspects
  iterate 24 all_goals try first
    | with_reducible exact Eff.refl _
    | with_reducible assumption
    | (with_reducible apply Eff.after (eff_orderReset ..); · decide)
    | (with_reducible apply Eff.after (eff_ev ..); · decide)
    | intro _
    | extract_lets
    | with_reducible apply Eff.ite
    | with_reducible apply Eff.fold
    | (fail_if_no_progress ((with_reducible refine Eff.upd ?_ rfl rfl rfl rfl rfl rfl rfl rfl rfl rfl ?_); rotate_left; exact rfl))
    | split
    | (with_reducible refine Eff.iteSnd (by assumption) ?_ ?_)
    | dsimp only
    | dsimp +zetaDelta only
    | with_reducible apply Eff.foldSnd
    | with_reducible apply Eff.foldFst
    | with_reducible apply Eff.foldThird

theorem eff_hangEv (cls : Nat) (idx : Nat) (n : Nat) (m : Module) : Eff [.vst, .hlt, .pci, .tray, .dbg, .out] m (hangEv cls idx n m) := by
  unfold hangEv
  iterate 24 all_goals try first
    | with_reducible exact Eff.refl _
    | with_reducible assumption
    | (with_reducible apply Eff.after (eff_ev ..); · decide)
    | intro _
    | extract_lets
    | with_reducible apply Eff.ite
    | split
    | dsimp only
    | dsimp +zetaDelta only

theorem eff_startPhase (e : Eng) (l : List (Nat × Nat × Bool)) (m : Module) : Eff [.clk, .beat, .queues, .counts, .gates, .outstanding, .harts, .gal, .bal, .ris, .win, .lnd, .nwl, .mem, .flt, .arc, .vote, .vst, .mir, .wdg, .chk, .hlt, .cor, .pci, .tray, .dbg, .out] m (startPhase e l m) := by
  unfold startPhase
  iterate 24 all_goals try first
    | with_reducible exact Eff.refl _
    | with_reducible assumption
    | (with_reducible apply Eff.after (eff_addSuspects ..); · decide)
    | (with_reducible apply Eff.after (eff_ctxReset ..); · decide)
    | (with_reducible apply Eff.after (eff_phaseCheck ..); · decide)
    | (with_reducible apply Eff.after (eff_perform ..); · decide)
    | intro _
    | extract_lets
    | with_reducible apply Eff.ite
    | with_reducible apply Eff.fold
    | (fail_if_no_progress ((with_reducible refine Eff.upd ?_ rfl rfl rfl rfl rfl rfl rfl rfl rfl rfl ?_); rotate_left; exact rfl))
    | split
    | (with_reducible refine Eff.iteSnd (by assumption) ?_ ?_)
    | dsimp only
    | dsimp +zetaDelta only
    | with_reducible apply Eff.foldSnd
    | with_reducible apply Eff.foldFst
    | with_reducible apply Eff.foldThird

theorem eff_engineHang (e : Eng) (whole : Bool) (m : Module) : Eff [.clk, .beat, .queues, .counts, .gates, .outstanding, .harts, .gal, .bal, .ris, .win, .lnd, .nwl, .mem, .flt, .arc, .vote, .vst, .mir, .wdg, .chk, .hlt, .cor, .pci, .tray, .dbg, .out] m (engineHang e whole m) := by
  unfold engineHang
  iterate 24 all_goals try first
    | with_reducible exact Eff.refl _
    | with_reducible assumption
    | (with_reducible apply Eff.after (eff_hangEv ..); · decide)
    | (with_reducible apply Eff.after (eff_orderReset ..); · decide)
    | (with_reducible apply Eff.after (eff_guilty ..); · decide)
    | (with_reducible apply Eff.after (eff_startPhase ..); · decide)
    | intro _
    | extract_lets
    | with_reducible apply Eff.ite
    | (fail_if_no_progress ((with_reducible refine Eff.upd ?_ rfl rfl rfl rfl rfl rfl rfl rfl rfl rfl ?_); rotate_left; exact rfl))
    | split
    | dsimp only
    | dsimp +zetaDelta only

theorem eff_execCtxHang (part : Fin 16) (ctx : Fin 8) (s : State) : EffOut [.clk, .beat, .queues, .counts, .gates, .outstanding, .harts, .mem, .flt, .vst, .wdg, .hlt, .cor, .pci, .tray, .dbg, .out] s (execCtxHang part ctx s) := by
  unfold execCtxHang
  iterate 24 all_goals try first
    | with_reducible exact EffOut.stop
    | with_reducible exact EffOut.ill
    | with_reducible refine EffOut.done ?_
    | with_reducible exact Eff.refl _
    | with_reducible assumption
    | (with_reducible apply Eff.after (eff_passTo ..); · decide)
    | (with_reducible apply Eff.after (eff_ev ..); · decide)
    | (with_reducible apply Eff.after (eff_guilty ..); · decide)
    | (with_reducible apply Eff.after (eff_phaseCheck ..); · decide)
    | (with_reducible apply Eff.after (eff_orderReset ..); · decide)
    | exact (eff_done ..).mono (by decide)
    | intro _
    | extract_lets
    | with_reducible apply Eff.ite
    | with_reducible apply Eff.fold
    | (fail_if_no_progress ((with_reducible refine Eff.upd ?_ rfl rfl rfl rfl rfl rfl rfl rfl rfl rfl ?_); rotate_left; exact rfl))
    | split
    | (with_reducible refine Eff.iteSnd (by assumption) ?_ ?_)
    | dsimp only
    | dsimp +zetaDelta only
    | with_reducible apply Eff.foldSnd
    | with_reducible apply Eff.foldFst
    | with_reducible apply Eff.foldThird

theorem eff_execEngHang (cls : EngCls) (idx : Nat) (s : State) : EffOut [.clk, .beat, .queues, .counts, .gates, .outstanding, .harts, .gal, .bal, .ris, .win, .lnd, .nwl, .mem, .flt, .arc, .vote, .vst, .mir, .wdg, .chk, .hlt, .cor, .pci, .tray, .dbg, .out] s (execEngHang cls idx s) := by
  unfold execEngHang
  iterate 24 all_goals try first
    | with_reducible exact EffOut.stop
    | with_reducible exact EffOut.ill
    | with_reducible refine EffOut.done ?_
    | with_reducible exact Eff.refl _
    | with_reducible assumption
    | (with_reducible apply Eff.after (eff_passTo ..); · decide)
    | (with_reducible apply Eff.after (eff_engineHang ..); · decide)
    | exact (eff_done ..).mono (by decide)
    | intro _
    | extract_lets
    | with_reducible apply Eff.ite
    | (fail_if_no_progress ((with_reducible refine Eff.upd ?_ rfl rfl rfl rfl rfl rfl rfl rfl rfl rfl ?_); rotate_left; exact rfl))
    | split
    | dsimp only
    | dsimp +zetaDelta only

theorem eff_execPartHang (part : Fin 16) (s : State) : EffOut [.clk, .beat, .mem, .vst, .wdg, .hlt, .cor, .pci, .tray, .dbg, .out] s (execPartHang part s) := by
  unfold execPartHang
  iterate 24 all_goals try first
    | with_reducible exact EffOut.stop
    | with_reducible exact EffOut.ill
    | with_reducible refine EffOut.done ?_
    | with_reducible exact Eff.refl _
    | with_reducible assumption
    | (with_reducible apply Eff.after (eff_passTo ..); · decide)
    | (with_reducible apply Eff.after (eff_orderReset ..); · decide)
    | (with_reducible apply Eff.after (eff_ev ..); · decide)
    | exact (eff_done ..).mono (by decide)
    | intro _
    | extract_lets
    | with_reducible apply Eff.ite
    | (fail_if_no_progress ((with_reducible refine Eff.upd ?_ rfl rfl rfl rfl rfl rfl rfl rfl rfl rfl ?_); rotate_left; exact rfl))
    | split
    | dsimp only
    | dsimp +zetaDelta only

theorem eff_execWingHang (w : Fin 2) (s : State) : EffOut [.vst, .wdg, .hlt, .pci, .tray, .dbg, .out] s (execWingHang w s) := by
  unfold execWingHang
  iterate 24 all_goals try first
    | with_reducible exact EffOut.stop
    | with_reducible exact EffOut.ill
    | with_reducible refine EffOut.done ?_
    | with_reducible exact Eff.refl _
    | with_reducible assumption
    | (with_reducible apply Eff.after (eff_orderReset ..); · decide)
    | (with_reducible apply Eff.after (eff_ev ..); · decide)
    | exact (eff_done ..).mono (by decide)
    | intro _
    | extract_lets
    | with_reducible apply Eff.ite
    | split
    | dsimp only
    | dsimp +zetaDelta only

theorem eff_execResetOverrun (d : Dom) (s : State) : EffOut [.clk, .beat, .queues, .counts, .gates, .outstanding, .harts, .gal, .bal, .ris, .win, .lnd, .nwl, .mem, .flt, .arc, .vote, .vst, .mir, .wdg, .chk, .hlt, .cor, .pci, .tray, .dbg, .out] s (execResetOverrun d s) := by
  unfold execResetOverrun
  iterate 24 all_goals try first
    | with_reducible exact EffOut.stop
    | with_reducible exact EffOut.ill
    | with_reducible refine EffOut.done ?_
    | with_reducible exact Eff.refl _
    | with_reducible assumption
    | (with_reducible apply Eff.after (eff_passTo ..); · decide)
    | (with_reducible apply Eff.after (eff_domEv ..); · decide)
    | (with_reducible apply Eff.after (eff_dropRunning ..); · decide)
    | (with_reducible apply Eff.after (eff_engineHang ..); · decide)
    | (with_reducible apply Eff.after (eff_orderReset ..); · decide)
    | exact (eff_done ..).mono (by decide)
    | intro _
    | extract_lets
    | with_reducible apply Eff.ite
    | with_reducible apply Eff.fold
    | (fail_if_no_progress ((with_reducible refine Eff.upd ?_ rfl rfl rfl rfl rfl rfl rfl rfl rfl rfl ?_); rotate_left; exact rfl))
    | split
    | (with_reducible refine Eff.iteSnd (by assumption) ?_ ?_)
    | dsimp only
    | dsimp +zetaDelta only
    | with_reducible apply Eff.foldSnd
    | with_reducible apply Eff.foldFst
    | with_reducible apply Eff.foldThird

theorem eff_noticeSend (kind : Nat) (m : Module) : Eff [.port, .rte, .vst, .wdg, .hlt, .cor, .sec, .pci, .tray, .dbg, .out] m (noticeSend kind m) := by
  unfold noticeSend
  iterate 24 all_goals try first
    | with_reducible exact Eff.refl _
    | with_reducible assumption
    | (with_reducible apply Eff.after (eff_wdgBad ..); · decide)
    | (with_reducible apply Eff.after (eff_inject ..); · decide)
    | intro _
    | extract_lets
    | with_reducible apply Eff.ite
    | (fail_if_no_progress ((with_reducible refine Eff.upd ?_ rfl rfl rfl rfl rfl rfl rfl rfl rfl rfl ?_); rotate_left; exact rfl))
    | split
    | dsimp only
    | dsimp +zetaDelta only

theorem eff_execNoticeExtend (s : State) : EffOut [.port, .rte, .vst, .wdg, .hlt, .cor, .sec, .pci, .tray, .dbg, .out] s (execNoticeExtend s) := by
  unfold execNoticeExtend
  iterate 24 all_goals try first
    | with_reducible exact EffOut.stop
    | with_reducible exact EffOut.ill
    | with_reducible refine EffOut.done ?_
    | with_reducible exact Eff.refl _
    | with_reducible assumption
    | (with_reducible apply Eff.after (eff_noticeSend ..); · decide)
    | exact (eff_done ..).mono (by decide)
    | intro _
    | extract_lets
    | with_reducible apply Eff.ite
    | split
    | dsimp only
    | dsimp +zetaDelta only

theorem eff_execNoticeAbort (s : State) : EffOut [.port, .rte, .vst, .wdg, .hlt, .cor, .sec, .pci, .tray, .dbg, .out] s (execNoticeAbort s) := by
  unfold execNoticeAbort
  iterate 24 all_goals try first
    | with_reducible exact EffOut.stop
    | with_reducible exact EffOut.ill
    | with_reducible refine EffOut.done ?_
    | with_reducible exact Eff.refl _
    | with_reducible assumption
    | (with_reducible apply Eff.after (eff_noticeSend ..); · decide)
    | exact (eff_done ..).mono (by decide)
    | intro _
    | extract_lets
    | with_reducible apply Eff.ite
    | split
    | dsimp only
    | dsimp +zetaDelta only

theorem eff_execNoticeInfo (s : State) : EffOut [.port, .rte, .vst, .wdg, .hlt, .cor, .sec, .pci, .tray, .dbg, .out] s (execNoticeInfo s) := by
  unfold execNoticeInfo
  iterate 24 all_goals try first
    | with_reducible exact EffOut.stop
    | with_reducible exact EffOut.ill
    | with_reducible refine EffOut.done ?_
    | with_reducible exact Eff.refl _
    | with_reducible assumption
    | (with_reducible apply Eff.after (eff_noticeSend ..); · decide)
    | exact (eff_done ..).mono (by decide)
    | intro _
    | extract_lets
    | with_reducible apply Eff.ite
    | split
    | dsimp only
    | dsimp +zetaDelta only

theorem eff_doNotice (k : Pkt) (m : Module) : Eff [.counts, .outstanding, .harts, .mem, .flt, .port, .rte, .arc, .vote, .vst, .wdg, .hlt, .cor, .sec, .pci, .tray, .dbg, .out] m (doNotice k m) := by
  unfold doNotice
  iterate 24 all_goals try first
    | with_reducible exact Eff.refl _
    | with_reducible assumption
    | (with_reducible apply Eff.after (eff_ev ..); · decide)
    | (with_reducible apply Eff.after (eff_arcExtend ..); · decide)
    | (with_reducible apply Eff.after (eff_arcAbort ..); · decide)
    | intro _
    | extract_lets
    | with_reducible apply Eff.ite
    | (fail_if_no_progress ((with_reducible refine Eff.upd ?_ rfl rfl rfl rfl rfl rfl rfl rfl rfl rfl ?_); rotate_left; exact rfl))
    | split
    | dsimp only
    | dsimp +zetaDelta only

theorem eff_execNotice (s : State) : EffOut [.counts, .outstanding, .harts, .mem, .flt, .port, .rte, .arc, .vote, .vst, .wdg, .hlt, .cor, .sec, .pci, .tray, .dbg, .out] s (execNotice s) := by
  unfold execNotice
  iterate 24 all_goals try first
    | with_reducible exact EffOut.stop
    | with_reducible exact EffOut.ill
    | with_reducible refine EffOut.done ?_
    | with_reducible exact Eff.refl _
    | with_reducible assumption
    | (with_reducible apply Eff.opt2 (eff_takeTy _ _); with_reducible assumption; · decide)
    | (with_reducible apply Eff.after (eff_doNotice ..); · decide)
    | exact (eff_done ..).mono (by decide)
    | intro _
    | extract_lets
    | with_reducible apply Eff.ite
    | (fail_if_no_progress ((with_reducible refine Eff.upd ?_ rfl rfl rfl rfl rfl rfl rfl rfl rfl rfl ?_); rotate_left; exact rfl))
    | split
    | dsimp only
    | dsimp +zetaDelta only

end Sys2Proof.Laws
end

