-- ==== Sys2Proof/Laws/EffWin.lean ====
section
/-! SUPPORT. What the operations of Win.lean keep, and what they may change. -/

namespace Sys2Proof.Laws
open Sys2Proof.Machine

theorem eff_winRun (w4 : ℕ) (d : Desc) (seed : W64) (hits : List EccHit) (m : Module) : Eff [.mem, .flt, .vst, .hlt, .cor, .pci, .tray, .dbg, .out] m (winRun w4 d seed hits m).2.2.2.2 := by
  unfold winRun
  extract_lets w n
  split
  rename_i smb m1 e1
  refine (Eff.iteSnd e1 ((eff_hallRead ..).mono (by decide)) (.refl _)).trans ?_
  extract_lets sm
  refine Eff.foldFifth (.refl _) fun u v y z m e => ?_
  beta_reduce
  split
  rename_i raw m2 e2
  split
  exact (Eff.snd (eff_hallRead ..) e2 (by decide) (.refl _)).trans ((eff_hallWrite ..).mono (by decide))

theorem eff_winRefuse (u : Nat) (code : Nat) (d : Desc) (m : Module) : Eff [.counts, .outstanding, .harts, .win, .vst, .wdg, .hlt, .pci, .tray, .dbg, .out] m (winRefuse u code d m) := by
  unfold winRefuse
  iterate 24 all_goals try first
    | with_reducible exact Eff.refl _
    | with_reducible assumption
    | (with_reducible apply Eff.after (eff_bodyRefused ..); · decide)
    | (with_reducible apply Eff.after (eff_setWin ..); · decide)
    | intro _
    | extract_lets
    | with_reducible apply Eff.ite
    | (fail_if_no_progress ((with_reducible refine Eff.upd ?_ rfl rfl rfl rfl rfl rfl rfl rfl rfl rfl ?_); rotate_left; exact rfl))
    | split
    | dsimp only
    | dsimp +zetaDelta only

theorem eff_winEcc (u : Nat) (d : Desc) (hits : List EccHit) (m : Module) : Eff [.win, .vst, .hlt, .pci, .tray, .dbg, .out] m (winEcc u d hits m) := by
  unfold winEcc
  iterate 24 all_goals try first
    | with_reducible exact Eff.refl _
    | with_reducible assumption
    | (with_reducible apply Eff.after (eff_eccEvents ..); · decide)
    | (with_reducible apply Eff.after (eff_setWin ..); · decide)
    | intro _
    | extract_lets
    | with_reducible apply Eff.ite
    | (fail_if_no_progress ((with_reducible refine Eff.upd ?_ rfl rfl rfl rfl rfl rfl rfl rfl rfl rfl ?_); rotate_left; exact rfl))
    | split
    | dsimp only
    | dsimp +zetaDelta only

theorem eff_wnStart (w : Nat) (d : Desc) (hallStalls : Nat) (nwlStalls : Nat) (ecc : List EccHit) (m : Module) : Eff [.win, .nwl, .mem, .flt, .vst, .hlt, .cor, .pci, .tray, .dbg, .out] m (wnStart w d hallStalls nwlStalls ecc m) := by
  unfold wnStart
  iterate 24 all_goals try first
    | with_reducible exact Eff.refl _
    | with_reducible assumption
    | (with_reducible apply Eff.after (eff_winRun ..); · decide)
    | (with_reducible apply Eff.fifth (eff_winRun ..); with_reducible assumption; · decide)
    | (with_reducible apply Eff.after (eff_nwlCount ..); · decide)
    | (with_reducible apply Eff.after (eff_hallLost ..); · decide)
    | (with_reducible apply Eff.after (eff_setWin ..); · decide)
    | intro _
    | extract_lets
    | with_reducible apply Eff.ite
    | (fail_if_no_progress ((with_reducible refine Eff.upd ?_ rfl rfl rfl rfl rfl rfl rfl rfl rfl rfl ?_); rotate_left; exact rfl))
    | split
    | (with_reducible refine Eff.iteSnd (by assumption) ?_ ?_)
    | dsimp only
    | dsimp +zetaDelta only

theorem eff_execTransform (w : Fin 4) (hallStalls : Nat) (nwlStalls : Nat) (ecc : List EccHit) (seedEcc : List EccHit) (errs : List MemErr) (s : State) : EffOut [.queues, .counts, .outstanding, .harts, .win, .nwl, .mem, .flt, .vst, .wdg, .hlt, .cor, .pci, .tray, .dbg, .out] s (execTransform w hallStalls nwlStalls ecc seedEcc errs s) := by
  unfold execTransform
  iterate 24 all_goals try first
    | with_reducible exact EffOut.stop
    | with_reducible exact EffOut.ill
    | with_reducible refine EffOut.done ?_
    | with_reducible exact Eff.refl _
    | with_reducible assumption
    | (with_reducible apply Eff.after (eff_dequeue ..); · decide)
    | (with_reducible apply Eff.after (eff_winRefuse ..); · decide)
    | (with_reducible apply Eff.after (eff_nwlEcc ..); · decide)
    | (with_reducible apply Eff.after (eff_complete ..); · decide)
    | (with_reducible apply Eff.after (eff_refuseDraw ..); · decide)
    | (with_reducible apply Eff.after (eff_wnStart ..); · decide)
    | (with_reducible apply Eff.after (eff_winEcc ..); · decide)
    | (with_reducible apply Eff.after (eff_memErrs ..); · decide)
    | (with_reducible apply Eff.after (eff_descStart ..); · decide)
    | exact (eff_done ..).mono (by decide)
    | intro _
    | extract_lets
    | with_reducible apply Eff.ite
    | (fail_if_no_progress ((with_reducible refine Eff.upd ?_ rfl rfl rfl rfl rfl rfl rfl rfl rfl rfl ?_); rotate_left; exact rfl))
    | split
    | dsimp only
    | dsimp +zetaDelta only

theorem eff_execWinComplete (w : Fin 4) (s : State) : EffOut [.clk, .beat, .counts, .outstanding, .harts, .win, .mem, .vst, .wdg, .hlt, .cor, .pci, .tray, .dbg, .out] s (execWinComplete w s) := by
  unfold execWinComplete
  iterate 24 all_goals try first
    | with_reducible exact EffOut.stop
    | with_reducible exact EffOut.ill
    | with_reducible refine EffOut.done ?_
    | with_reducible exact Eff.refl _
    | with_reducible assumption
    | (with_reducible apply Eff.after (eff_passToCycle ..); · decide)
    | (with_reducible apply Eff.after (eff_complete ..); · decide)
    | (with_reducible apply Eff.after (eff_setWin ..); · decide)
    | exact (eff_done ..).mono (by decide)
    | intro _
    | extract_lets
    | with_reducible apply Eff.ite
    | (fail_if_no_progress ((with_reducible refine Eff.upd ?_ rfl rfl rfl rfl rfl rfl rfl rfl rfl rfl ?_); rotate_left; exact rfl))
    | split
    | dsimp only
    | dsimp +zetaDelta only

theorem eff_winCntClr (w : Nat) (m : Module) : Eff [.win] m (winCntClr w m) := by
  unfold winCntClr
  iterate 24 all_goals try first
    | with_reducible exact Eff.refl _
    | with_reducible assumption
    | (with_reducible apply Eff.after (eff_setWin ..); · decide)
    | intro _
    | extract_lets
    | with_reducible apply Eff.ite
    | split
    | dsimp only
    | dsimp +zetaDelta only

theorem eff_execWinCntClr (w : Fin 4) (s : State) : EffOut [.win] s (execWinCntClr w s) := by
  unfold execWinCntClr
  iterate 24 all_goals try first
    | with_reducible exact EffOut.stop
    | with_reducible exact EffOut.ill
    | with_reducible refine EffOut.done ?_
    | with_reducible exact Eff.refl _
    | with_reducible assumption
    | (with_reducible apply Eff.after (eff_winCntClr ..); · decide)
    | exact (eff_done ..).mono (by decide)
    | intro _
    | extract_lets
    | with_reducible apply Eff.ite
    | split
    | dsimp only
    | dsimp +zetaDelta only

end Sys2Proof.Laws
end

