-- ==== Sys2Proof/Laws/EffRegWrite.lean ====
section
/-! SUPPORT. What the operations of RegWrite.lean keep, and what they may change. -/

namespace Sys2Proof.Laws
open Sys2Proof.Machine

theorem eff_act {l : List Part} {f : State → Out} {a m : Module} (k : Eff l a m) (hf : ∀ s, EffOut l s (f s)) : Eff l a (act f m) := by
  unfold act
  split
  · rename_i s e
    exact k.trans ((hf _).out _ e).2
  · exact k

theorem eff_onOne {l : List Part} {v : W64} {f : Module → Module} {a m : Module} (k : Eff l a m) (hf : ∀ m, Eff l m (f m)) :
    Eff l a (onOne v f m) := by
  unfold onOne
  split
  · exact k.trans (hf _)
  · exact k

theorem eff_lkWrite {l : List Part} {off : ℕ} {f : Module → Module} {a m : Module} (k : Eff l a m) (hf : ∀ m, Eff l m (f m))
    (hs : sub [.vst, .hlt, .sec, .pci, .tray, .dbg, .out] l = true) : Eff l a (lkWrite off f m) := by
  unfold lkWrite
  split
  · exact k.trans (Eff.mono (k := [.vst, .hlt, .sec, .pci, .tray, .dbg, .out]) ((eff_lkIgnored ..).mono (by decide)) hs)
  · exact k.trans (hf _)

theorem eff_imgAct (o : Nat) (v : W64) (m : Module) : Eff [.img, .vst, .hlt, .sec, .pci, .tray, .dbg, .out] m (imgAct o v m) := by
  unfold imgAct
  iterate 24 all_goals try first
    | with_reducible exact Eff.refl _
    | with_reducible assumption
    | with_reducible refine eff_lkWrite ?_ ?_ (by decide)
    | (with_reducible apply Eff.after (eff_imgCmd ..); · decide)
    | intro _
    | extract_lets
    | with_reducible apply Eff.ite
    | (fail_if_no_progress ((with_reducible refine Eff.upd ?_ rfl rfl rfl rfl rfl rfl rfl rfl rfl rfl ?_); rotate_left; exact rfl))
    | split
    | dsimp only
    | dsimp +zetaDelta only

theorem eff_beatAct (o : Nat) (v : W64) (m : Module) : Eff [.clk, .beat, .queues, .vst, .hlt, .pci, .tray, .dbg, .out] m (beatAct o v m) := by
  unfold beatAct
  iterate 24 all_goals try first
    | with_reducible exact Eff.refl _
    | with_reducible assumption
    | (with_reducible apply Eff.after (eff_gmCtrl ..); · decide)
    | (with_reducible apply Eff.after (eff_beatSet ..); · decide)
    | with_reducible apply eff_onOne
    | (with_reducible apply Eff.after (eff_mqPush ..); · decide)
    | intro _
    | extract_lets
    | with_reducible apply Eff.ite
    | (fail_if_no_progress ((with_reducible refine Eff.upd ?_ rfl rfl rfl rfl rfl rfl rfl rfl rfl rfl ?_); rotate_left; exact rfl))
    | split
    | dsimp only
    | dsimp +zetaDelta only

theorem eff_pwrAct (o : Nat) (v : W64) (m : Module) : Eff [.pwr] m (pwrAct o v m) := by
  unfold pwrAct
  iterate 24 all_goals try first
    | with_reducible exact Eff.refl _
    | with_reducible assumption
    | (with_reducible apply Eff.after (eff_setPwr ..); · decide)
    | intro _
    | extract_lets
    | with_reducible apply Eff.ite
    | (fail_if_no_progress ((with_reducible refine Eff.upd ?_ rfl rfl rfl rfl rfl rfl rfl rfl rfl rfl ?_); rotate_left; exact rfl))
    | split
    | dsimp only
    | dsimp +zetaDelta only

theorem eff_freeFetch (n : Nat) (m : Module) : Eff [.mem] m (freeFetch n m).2 := by
  unfold freeFetch
  iterate 24 all_goals try first
    | with_reducible exact Eff.refl _
    | with_reducible assumption
    | (with_reducible apply Eff.after (eff_freeVal ..); · decide)
    | (with_reducible apply Eff.snd (eff_freeVal ..); with_reducible assumption; · decide)
    | (with_reducible apply Eff.after (eff_freeBytes ..); · decide)
    | (with_reducible apply Eff.snd (eff_freeBytes ..); with_reducible assumption; · decide)
    | intro _
    | extract_lets
    | with_reducible apply Eff.ite
    | split
    | (with_reducible refine Eff.iteSnd (by assumption) ?_ ?_)
    | dsimp only
    | dsimp +zetaDelta only

theorem eff_packCmd (v : W64) (m : Module) : Eff [.mem, .vst, .hlt, .pci, .tray, .dbg, .out] m (packCmd v m) := by
  unfold packCmd
  iterate 24 all_goals try first
    | with_reducible exact Eff.refl _
    | with_reducible assumption
    | (with_reducible apply Eff.after (eff_freeFetch ..); · decide)
    | (with_reducible apply Eff.snd (eff_freeFetch ..); with_reducible assumption; · decide)
    | (with_reducible apply Eff.after (eff_packLoad ..); · decide)
    | intro _
    | extract_lets
    | with_reducible apply Eff.ite
    | split
    | dsimp only
    | dsimp +zetaDelta only

theorem eff_hltAct (o : Nat) (v : W64) (m : Module) : Eff [.mem, .vst, .hlt, .sec, .pci, .tray, .dbg, .out] m (hltAct o v m) := by
  unfold hltAct
  iterate 24 all_goals try first
    | with_reducible exact Eff.refl _
    | with_reducible assumption
    | with_reducible refine eff_lkWrite ?_ ?_ (by decide)
    | (with_reducible apply Eff.after (eff_packCmd ..); · decide)
    | (with_reducible apply Eff.after (eff_hltRetire ..); · decide)
    | intro _
    | extract_lets
    | with_reducible apply Eff.ite
    | (fail_if_no_progress ((with_reducible refine Eff.upd ?_ rfl rfl rfl rfl rfl rfl rfl rfl rfl rfl ?_); rotate_left; exact rfl))
    | split
    | dsimp only
    | dsimp +zetaDelta only

theorem eff_secAct (o : Nat) (v : W64) (m : Module) : Eff [.harts, .vst, .hlt, .sec, .pci, .tray, .dbg, .out] m (secAct o v m) := by
  unfold secAct
  iterate 24 all_goals try first
    | with_reducible exact Eff.refl _
    | with_reducible assumption
    | with_reducible apply eff_onOne
    | (with_reducible apply Eff.after (eff_secLock ..); · decide)
    | (with_reducible apply eff_setSec; · decide)
    | exact fun h => h
    | exact fun _ => rfl
    | (with_reducible apply Eff.after (eff_keyCmd ..); · decide)
    | (with_reducible apply Eff.after (eff_skeyLoad ..); · decide)
    | (with_reducible apply Eff.after (eff_ckeyCmd ..); · decide)
    | intro _
    | extract_lets
    | with_reducible apply Eff.ite
    | (fail_if_no_progress ((with_reducible refine Eff.upd ?_ rfl rfl rfl rfl rfl rfl rfl rfl rfl rfl ?_); rotate_left; exact rfl))
    | split
    | dsimp only
    | dsimp +zetaDelta only

theorem eff_wdgAct (o : Nat) (v : W64) (m : Module) : Eff [.port, .rte, .vst, .wdg, .hlt, .cor, .sec, .pci, .tray, .dbg, .out] m (wdgAct o v m) := by
  unfold wdgAct
  iterate 24 all_goals try first
    | with_reducible exact Eff.refl _
    | with_reducible assumption
    | (with_reducible apply Eff.after (eff_resetCmd ..); · decide)
    | (with_reducible apply Eff.after (eff_noticeSend ..); · decide)
    | intro _
    | extract_lets
    | with_reducible apply Eff.ite
    | (fail_if_no_progress ((with_reducible refine Eff.upd ?_ rfl rfl rfl rfl rfl rfl rfl rfl rfl rfl ?_); rotate_left; exact rfl))
    | split
    | dsimp only
    | dsimp +zetaDelta only

theorem eff_vstCmd (p : Nat) (v : W64) (m : Module) : Eff [.mem, .flt, .port, .rte, .vst, .mir, .hlt, .cor, .sec, .pci, .tray, .dbg, .out] m (vstCmd p v m) := by
  unfold vstCmd
  iterate 24 all_goals try first
    | with_reducible exact Eff.refl _
    | with_reducible assumption
    | (with_reducible apply Eff.after (eff_vstArm ..); · decide)
    | (with_reducible apply Eff.after (eff_armCut ..); · decide)
    | (with_reducible apply Eff.after (eff_drainHost ..); · decide)
    | (with_reducible apply Eff.after (eff_drainFabric ..); · decide)
    | (with_reducible apply Eff.after (eff_vstClear ..); · decide)
    | intro _
    | extract_lets
    | with_reducible apply Eff.ite
    | (fail_if_no_progress ((with_reducible refine Eff.upd ?_ rfl rfl rfl rfl rfl rfl rfl rfl rfl rfl ?_); rotate_left; exact rfl))
    | split
    | dsimp only
    | dsimp +zetaDelta only

theorem eff_vstAct (p : Nat) (o : Nat) (v : W64) (m : Module) : Eff [.mem, .flt, .port, .rte, .vst, .mir, .hlt, .cor, .sec, .pci, .tray, .dbg, .out] m (vstAct p o v m) := by
  unfold vstAct
  iterate 24 all_goals try first
    | with_reducible exact Eff.refl _
    | with_reducible assumption
    | (with_reducible apply Eff.after (eff_vstCfgWrite ..); · decide)
    | (with_reducible apply Eff.after (eff_regionWrite ..); · decide)
    | (with_reducible apply Eff.after (eff_vstCmd ..); · decide)
    | (with_reducible apply Eff.after (eff_setVst ..); · decide)
    | intro _
    | extract_lets
    | with_reducible apply Eff.ite
    | (fail_if_no_progress ((with_reducible refine Eff.upd ?_ rfl rfl rfl rfl rfl rfl rfl rfl rfl rfl ?_); rotate_left; exact rfl))
    | split
    | dsimp only
    | dsimp +zetaDelta only

theorem eff_mirAct (p : Nat) (o : Nat) (v : W64) (m : Module) : Eff [.port, .rte, .vst, .mir, .hlt, .cor, .sec, .pci, .tray, .dbg, .out] m (mirAct p o v m) := by
  unfold mirAct
  iterate 24 all_goals try first
    | with_reducible exact Eff.refl _
    | with_reducible assumption
    | (with_reducible apply Eff.after (eff_setMir ..); · decide)
    | (with_reducible apply Eff.after (eff_regionWrite ..); · decide)
    | (with_reducible apply Eff.after (eff_mirRestore ..); · decide)
    | (with_reducible apply Eff.after (eff_discardW ..); · decide)
    | intro _
    | extract_lets
    | with_reducible apply Eff.ite
    | (fail_if_no_progress ((with_reducible refine Eff.upd ?_ rfl rfl rfl rfl rfl rfl rfl rfl rfl rfl ?_); rotate_left; exact rfl))
    | split
    | dsimp only
    | dsimp +zetaDelta only

theorem eff_dbgAct (o : Nat) (v : W64) (m : Module) : Eff [.harts, .vst, .wdg, .hlt, .sec, .pci, .tray, .dbg, .out] m (dbgAct o v m) := by
  unfold dbgAct
  iterate 24 all_goals try first
    | with_reducible exact Eff.refl _
    | with_reducible assumption
    | with_reducible refine eff_lkWrite ?_ ?_ (by decide)
    | (with_reducible apply Eff.after (eff_traceCtrl ..); · decide)
    | with_reducible apply eff_onOne
    | (with_reducible apply Eff.after (eff_dumpStart ..); · decide)
    | (with_reducible apply Eff.after (eff_aonClear ..); · decide)
    | (with_reducible apply Eff.after (eff_bpCmd ..); · decide)
    | intro _
    | extract_lets
    | with_reducible apply Eff.ite
    | (fail_if_no_progress ((with_reducible refine Eff.upd ?_ rfl rfl rfl rfl rfl rfl rfl rfl rfl rfl ?_); rotate_left; exact rfl))
    | split
    | dsimp only
    | dsimp +zetaDelta only

theorem eff_evrAct (f : Nat) (o : Nat) (v : W64) (m : Module) : Eff [.pci, .out] m (evrAct f o v m) := by
  unfold evrAct
  iterate 24 all_goals try first
    | with_reducible exact Eff.refl _
    | with_reducible assumption
    | (with_reducible apply Eff.after (eff_setEvr ..); · decide)
    | (with_reducible apply Eff.after (eff_ringOverflow ..); · decide)
    | (with_reducible apply Eff.after (eff_headWrite ..); · decide)
    | intro _
    | extract_lets
    | with_reducible apply Eff.ite
    | (fail_if_no_progress ((with_reducible refine Eff.upd ?_ rfl rfl rfl rfl rfl rfl rfl rfl rfl rfl ?_); rotate_left; exact rfl))
    | split
    | dsimp only
    | dsimp +zetaDelta only

theorem eff_pciAct (o : Nat) (v : W64) (m : Module) : Eff [.pci, .out] m (pciAct o v m) := by
  unfold pciAct
  iterate 24 all_goals try first
    | with_reducible exact Eff.refl _
    | with_reducible assumption
    | (with_reducible apply eff_setPci; · decide)
    | exact fun h => h
    | exact fun _ => rfl
    | with_reducible apply eff_onOne
    | (with_reducible apply Eff.after (eff_evrAct ..); · decide)
    | intro _
    | extract_lets
    | with_reducible apply Eff.ite
    | (fail_if_no_progress ((with_reducible refine Eff.upd ?_ rfl rfl rfl rfl rfl rfl rfl rfl rfl rfl ?_); rotate_left; exact rfl))
    | split
    | dsimp only
    | dsimp +zetaDelta only

theorem eff_portSwitch (k : Fin 16) (on : Bool) (m : Module) : Eff [.port] m (portSwitch k on m) := by
  unfold portSwitch
  iterate 24 all_goals try first
    | with_reducible exact Eff.refl _
    | with_reducible assumption
    | with_reducible apply eff_act
    | exact (eff_execPortEnable ..).mono (by decide)
    | exact (eff_execPortDisable ..).mono (by decide)
    | intro _
    | extract_lets
    | with_reducible apply Eff.ite
    | split
    | dsimp only
    | dsimp +zetaDelta only

theorem eff_nutCtrl (k : Fin 16) (v : W64) (m : Module) : Eff [.port, .vst, .hlt, .pci, .tray, .dbg, .out] m (nutCtrl k v m) := by
  unfold nutCtrl
  iterate 24 all_goals try first
    | with_reducible exact Eff.refl _
    | with_reducible assumption
    | (with_reducible apply Eff.after (eff_setPort ..); · decide)
    | (with_reducible apply Eff.after (eff_portSwitch ..); · decide)
    | with_reducible apply eff_act
    | exact (eff_execRelease ..).mono (by decide)
    | intro _
    | extract_lets
    | with_reducible apply Eff.ite
    | (fail_if_no_progress ((with_reducible refine Eff.upd ?_ rfl rfl rfl rfl rfl rfl rfl rfl rfl rfl ?_); rotate_left; exact rfl))

theorem eff_nutAct (k : Nat) (o : Nat) (v : W64) (m : Module) : Eff [.port, .vst, .hlt, .pci, .tray, .dbg, .out] m (nutAct k o v m) := by
  unfold nutAct
  iterate 24 all_goals try first
    | with_reducible exact Eff.refl _
    | with_reducible assumption
    | (with_reducible apply Eff.after (eff_nutCtrl ..); · decide)
    | with_reducible apply eff_act
    | (with_reducible apply Eff.after (eff_setPort ..); · decide)
    | with_reducible apply eff_onOne
    | exact (eff_execNutFcThrWrite ..).mono (by decide)
    | exact (eff_execNutCntClr ..).mono (by decide)
    | intro _
    | extract_lets
    | with_reducible apply Eff.ite
    | (fail_if_no_progress ((with_reducible refine Eff.upd ?_ rfl rfl rfl rfl rfl rfl rfl rfl rfl rfl ?_); rotate_left; exact rfl))
    | split
    | dsimp only
    | dsimp +zetaDelta only

theorem eff_rteCmd (v : W64) (m : Module) : Eff [.rte, .vst, .hlt, .pci, .tray, .dbg, .out] m (rteCmd v m) := by
  unfold rteCmd
  iterate 24 all_goals try first
    | with_reducible exact Eff.refl _
    | with_reducible assumption
    | (with_reducible apply Eff.after (eff_rteArm ..); · decide)
    | (with_reducible apply Eff.after (eff_rteCancel ..); · decide)
    | (with_reducible apply Eff.after (eff_rteBad ..); · decide)
    | intro _
    | extract_lets
    | with_reducible apply Eff.ite
    | split
    | dsimp only
    | dsimp +zetaDelta only

theorem eff_rteAct (o : Nat) (v : W64) (m : Module) : Eff [.rte, .vst, .hlt, .pci, .tray, .dbg, .out] m (rteAct o v m) := by
  unfold rteAct
  iterate 24 all_goals try first
    | with_reducible exact Eff.refl _
    | with_reducible assumption
    | (with_reducible apply Eff.after (eff_rteCmd ..); · decide)
    | with_reducible apply eff_onOne
    | with_reducible apply eff_act
    | exact (eff_execRteCntClr ..).mono (by decide)
    | intro _
    | extract_lets
    | with_reducible apply Eff.ite
    | (fail_if_no_progress ((with_reducible refine Eff.upd ?_ rfl rfl rfl rfl rfl rfl rfl rfl rfl rfl ?_); rotate_left; exact rfl))
    | split
    | dsimp only
    | dsimp +zetaDelta only

theorem eff_arcAct (a : Nat) (o : Nat) (v : W64) (m : Module) : Eff [.arc] m (arcAct a o v m) := by
  unfold arcAct
  iterate 24 all_goals try first
    | with_reducible exact Eff.refl _
    | with_reducible assumption
    | (with_reducible apply Eff.after (eff_setArc ..); · decide)
    | with_reducible apply eff_onOne
    | with_reducible apply eff_act
    | exact (eff_execArcCntClr ..).mono (by decide)
    | intro _
    | extract_lets
    | with_reducible apply Eff.ite
    | (fail_if_no_progress ((with_reducible refine Eff.upd ?_ rfl rfl rfl rfl rfl rfl rfl rfl rfl rfl ?_); rotate_left; exact rfl))
    | split
    | dsimp only
    | dsimp +zetaDelta only

theorem eff_risAct (r : Nat) (o : Nat) (v : W64) (m : Module) : Eff [.ris] m (risAct r o v m) := by
  unfold risAct
  iterate 24 all_goals try first
    | with_reducible exact Eff.refl _
    | with_reducible assumption
    | (with_reducible apply Eff.after (eff_risCntClr ..); · decide)
    | (with_reducible apply Eff.after (eff_setRis ..); · decide)
    | with_reducible apply eff_onOne
    | intro _
    | extract_lets
    | with_reducible apply Eff.ite
    | (fail_if_no_progress ((with_reducible refine Eff.upd ?_ rfl rfl rfl rfl rfl rfl rfl rfl rfl rfl ?_); rotate_left; exact rfl))
    | split
    | dsimp only
    | dsimp +zetaDelta only

theorem eff_fltAct (f : Nat) (o : Nat) (v : W64) (m : Module) : Eff [.counts, .outstanding, .harts, .flt, .port, .rte, .vst, .wdg, .hlt, .cor, .sec, .pci, .tray, .dbg, .out] m (fltAct f o v m) := by
  unfold fltAct
  iterate 24 all_goals try first
    | with_reducible exact Eff.refl _
    | with_reducible assumption
    | (with_reducible apply Eff.after (eff_settleFlt ..); · decide)
    | (with_reducible apply Eff.after (eff_setFlt ..); · decide)
    | with_reducible apply eff_onOne
    | (with_reducible apply Eff.after (eff_fltCntClr ..); · decide)
    | intro _
    | extract_lets
    | with_reducible apply Eff.ite
    | (fail_if_no_progress ((with_reducible refine Eff.upd ?_ rfl rfl rfl rfl rfl rfl rfl rfl rfl rfl ?_); rotate_left; exact rfl))
    | split
    | dsimp only
    | dsimp +zetaDelta only

theorem eff_cctrl (p : Nat) (v : W64) (m : Module) : Eff [.mem, .cor] m (cctrl p v m) := by
  unfold cctrl
  iterate 24 all_goals try first
    | with_reducible exact Eff.refl _
    | with_reducible assumption
    | (with_reducible apply Eff.after (eff_cacheCommand ..); · decide)
    | intro _
    | extract_lets
    | with_reducible apply Eff.ite
    | split
    | dsimp only
    | dsimp +zetaDelta only

theorem eff_hallAct (w : Nat) (o : Nat) (v : W64) (m : Module) : Eff [.mem, .cor] m (hallAct w o v m) := by
  unfold hallAct
  iterate 24 all_goals try first
    | with_reducible exact Eff.refl _
    | with_reducible assumption
    | with_reducible apply eff_onOne
    | (with_reducible apply Eff.after (eff_setHallW ..); · decide)
    | (with_reducible apply Eff.after (eff_cctrl ..); · decide)
    | intro _
    | extract_lets
    | with_reducible apply Eff.ite
    | split
    | dsimp only
    | dsimp +zetaDelta only

theorem eff_tgCtrl (k : Nat) (v : W64) (m : Module) : Eff [.clk, .beat, .mem, .vst, .hlt, .cor, .pci, .tray, .dbg, .out] m (tgCtrl k v m) := by
  unfold tgCtrl
  iterate 24 all_goals try first
    | with_reducible exact Eff.refl _
    | with_reducible assumption
    | (with_reducible apply Eff.after (eff_tgSet ..); · decide)
    | with_reducible apply eff_onOne
    | (with_reducible apply Eff.after (eff_testStart ..); · decide)
    | (with_reducible apply Eff.after (eff_testStop ..); · decide)
    | intro _
    | extract_lets
    | with_reducible apply Eff.ite
    | (fail_if_no_progress ((with_reducible refine Eff.upd ?_ rfl rfl rfl rfl rfl rfl rfl rfl rfl rfl ?_); rotate_left; exact rfl))
    | split
    | dsimp only
    | dsimp +zetaDelta only

theorem eff_tgAct (k : Nat) (o : Nat) (v : W64) (m : Module) : Eff [.clk, .beat, .mem, .vst, .hlt, .cor, .pci, .tray, .dbg, .out] m (tgAct k o v m) := by
  unfold tgAct
  iterate 24 all_goals try first
    | with_reducible exact Eff.refl _
    | with_reducible assumption
    | (with_reducible apply Eff.after (eff_tgCtrl ..); · decide)
    | (with_reducible apply Eff.after (eff_tgSet ..); · decide)
    | intro _
    | extract_lets
    | with_reducible apply Eff.ite
    | (fail_if_no_progress ((with_reducible refine Eff.upd ?_ rfl rfl rfl rfl rfl rfl rfl rfl rfl rfl ?_); rotate_left; exact rfl))
    | split
    | dsimp only
    | dsimp +zetaDelta only

theorem eff_memAct (tier : Nat) (u : Nat) (base : Nat) (tg : Nat) (o : Nat) (v : W64) (m : Module) : Eff [.clk, .beat, .mem, .vst, .hlt, .cor, .pci, .tray, .dbg, .out] m (memAct tier u base tg o v m) := by
  unfold memAct
  iterate 24 all_goals try first
    | with_reducible exact Eff.refl _
    | with_reducible assumption
    | with_reducible apply eff_onOne
    | (with_reducible apply Eff.after (eff_updMemUnit ..); · decide)
    | (with_reducible apply Eff.after (eff_tgAct ..); · decide)
    | intro _
    | extract_lets
    | with_reducible apply Eff.ite
    | split
    | dsimp only
    | dsimp +zetaDelta only

theorem eff_ccAct (c : Nat) (o : Nat) (v : W64) (m : Module) : Eff [.harts, .wdg] m (ccAct c o v m) := by
  unfold ccAct
  iterate 24 all_goals try first
    | with_reducible exact Eff.refl _
    | with_reducible assumption
    | (with_reducible apply Eff.after (eff_ccCtrl ..); · decide)
    | (with_reducible apply Eff.after (eff_setHart ..); · decide)
    | intro _
    | extract_lets
    | with_reducible apply Eff.ite
    | with_reducible apply Eff.fold
    | (fail_if_no_progress ((with_reducible refine Eff.upd ?_ rfl rfl rfl rfl rfl rfl rfl rfl rfl rfl ?_); rotate_left; exact rfl))
    | split
    | (with_reducible refine Eff.iteSnd (by assumption) ?_ ?_)
    | dsimp only
    | dsimp +zetaDelta only
    | with_reducible apply Eff.foldSnd
    | with_reducible apply Eff.foldFst
    | with_reducible apply Eff.foldThird

theorem eff_ptCtrl (w : Nat) (v : W64) (m : Module) : Eff [.chk] m (ptCtrl w v m) := by
  unfold ptCtrl
  iterate 24 all_goals try first
    | with_reducible exact Eff.refl _
    | with_reducible assumption
    | (with_reducible apply Eff.after (eff_setChk ..); · decide)
    | with_reducible apply eff_onOne
    | (with_reducible apply Eff.after (eff_ptStart ..); · decide)
    | (with_reducible apply Eff.after (eff_ptStop ..); · decide)
    | intro _
    | extract_lets
    | with_reducible apply Eff.ite
    | (fail_if_no_progress ((with_reducible refine Eff.upd ?_ rfl rfl rfl rfl rfl rfl rfl rfl rfl rfl ?_); rotate_left; exact rfl))
    | split
    | dsimp only
    | dsimp +zetaDelta only

theorem eff_chkAct (w : Nat) (o : Nat) (v : W64) (m : Module) : Eff [.chk] m (chkAct w o v m) := by
  unfold chkAct
  iterate 24 all_goals try first
    | with_reducible exact Eff.refl _
    | with_reducible assumption
    | (with_reducible apply Eff.after (eff_ptCtrl ..); · decide)
    | with_reducible apply eff_onOne
    | (with_reducible apply Eff.after (eff_setChk ..); · decide)
    | intro _
    | extract_lets
    | with_reducible apply Eff.ite
    | split
    | dsimp only
    | dsimp +zetaDelta only

theorem eff_regAct (x : RegPlace) (v : W64) (m : Module) : Eff [.clk, .img, .beat, .queues, .counts, .outstanding, .harts, .gal, .bal, .ris, .win, .lnd, .nwl, .mem, .flt, .port, .rte, .arc, .vst, .mir, .wdg, .chk, .hlt, .cor, .pwr, .sec, .pci, .tray, .dbg, .out] m (regAct x v m) := by
  unfold regAct
  iterate 24 all_goals try first
    | with_reducible exact Eff.refl _
    | with_reducible assumption
    | (with_reducible apply Eff.after (eff_imgAct ..); · decide)
    | (with_reducible apply Eff.after (eff_beatAct ..); · decide)
    | (with_reducible apply Eff.after (eff_pwrAct ..); · decide)
    | (with_reducible apply Eff.after (eff_hltAct ..); · decide)
    | (with_reducible apply Eff.after (eff_secAct ..); · decide)
    | (with_reducible apply Eff.after (eff_wdgAct ..); · decide)
    | (with_reducible apply Eff.after (eff_vstAct ..); · decide)
    | (with_reducible apply Eff.after (eff_mirAct ..); · decide)
    | (with_reducible apply Eff.after (eff_dbgAct ..); · decide)
    | (with_reducible apply Eff.after (eff_pciAct ..); · decide)
    | (with_reducible apply Eff.after (eff_nutAct ..); · decide)
    | (with_reducible apply Eff.after (eff_rteAct ..); · decide)
    | (with_reducible apply Eff.after (eff_arcAct ..); · decide)
    | with_reducible apply eff_onOne
    | (with_reducible apply Eff.after (eff_galCntClr ..); · decide)
    | (with_reducible apply Eff.after (eff_setBal ..); · decide)
    | (with_reducible apply Eff.after (eff_lndCntClr ..); · decide)
    | (with_reducible apply Eff.after (eff_risAct ..); · decide)
    | (with_reducible apply Eff.after (eff_winCntClr ..); · decide)
    | (with_reducible apply Eff.after (eff_nwlCntClr ..); · decide)
    | (with_reducible apply Eff.after (eff_fltAct ..); · decide)
    | (with_reducible apply Eff.after (eff_hallAct ..); · decide)
    | (with_reducible apply Eff.after (eff_memAct ..); · decide)
    | (with_reducible apply Eff.after (eff_ccAct ..); · decide)
    | (with_reducible apply Eff.after (eff_chkAct ..); · decide)
    | intro _
    | extract_lets
    | with_reducible apply Eff.ite
    | (fail_if_no_progress ((with_reducible refine Eff.upd ?_ rfl rfl rfl rfl rfl rfl rfl rfl rfl rfl ?_); rotate_left; exact rfl))
    | split
    | dsimp only
    | dsimp +zetaDelta only

theorem eff_woWrite (base : Nat) (x : RegPlace) (bytes : Nat) (upper : Bool) (val : W64) (m : Module) : Eff [.clk, .img, .beat, .queues, .counts, .outstanding, .harts, .gal, .bal, .ris, .win, .lnd, .nwl, .mem, .flt, .port, .rte, .arc, .vst, .mir, .wdg, .chk, .hlt, .cor, .pwr, .sec, .pci, .tray, .dbg, .out] m (woWrite base x bytes upper val m) := by
  unfold woWrite
  iterate 24 all_goals try first
    | with_reducible exact Eff.refl _
    | with_reducible assumption
    | (with_reducible apply eff_setPci; · decide)
    | exact fun h => h
    | exact fun _ => rfl
    | (with_reducible apply Eff.after (eff_regAct ..); · decide)
    | intro _
    | extract_lets
    | with_reducible apply Eff.ite
    | (fail_if_no_progress ((with_reducible refine Eff.upd ?_ rfl rfl rfl rfl rfl rfl rfl rfl rfl rfl ?_); rotate_left; exact rfl))
    | split
    | dsimp only
    | dsimp +zetaDelta only

theorem eff_regSet (base : Nat) (x : RegPlace) (bytes : Nat) (upper : Bool) (val : W64) (cur : W64) (m : Module) : Eff [.clk, .img, .beat, .queues, .counts, .outstanding, .harts, .gal, .bal, .ris, .win, .lnd, .nwl, .mem, .flt, .port, .rte, .arc, .vst, .mir, .wdg, .chk, .hlt, .cor, .pwr, .sec, .pci, .tray, .dbg, .out] m (regSet base x bytes upper val cur m) := by
  unfold regSet
  iterate 24 all_goals try first
    | with_reducible exact Eff.refl _
    | with_reducible assumption
    | (with_reducible apply Eff.after (eff_woWrite ..); · decide)
    | (with_reducible apply Eff.after (eff_regAct ..); · decide)
    | intro _
    | extract_lets
    | with_reducible apply Eff.ite
    | (fail_if_no_progress ((with_reducible refine Eff.upd ?_ rfl rfl rfl rfl rfl rfl rfl rfl rfl rfl ?_); rotate_left; exact rfl))
    | split
    | dsimp only
    | dsimp +zetaDelta only

theorem eff_regWrite (off : Nat) (bytes : Nat) (val : W64) (m : Module) : Eff [.clk, .img, .beat, .queues, .counts, .outstanding, .harts, .gal, .bal, .ris, .win, .lnd, .nwl, .mem, .flt, .port, .rte, .arc, .vst, .mir, .wdg, .chk, .hlt, .cor, .pwr, .sec, .pci, .tray, .dbg, .out] m (regWrite off bytes val m) := by
  unfold regWrite
  iterate 24 all_goals try first
    | with_reducible exact Eff.refl _
    | with_reducible assumption
    | (with_reducible apply Eff.after (eff_unmapped ..); · decide)
    | (with_reducible apply Eff.after (eff_imgShadowWrite ..); · decide)
    | (with_reducible apply Eff.after (eff_rteShadowWrite ..); · decide)
    | (with_reducible apply Eff.after (eff_regSet ..); · decide)
    | intro _
    | extract_lets
    | with_reducible apply Eff.ite
    | (fail_if_no_progress ((with_reducible refine Eff.upd ?_ rfl rfl rfl rfl rfl rfl rfl rfl rfl rfl ?_); rotate_left; exact rfl))
    | split
    | dsimp only
    | dsimp +zetaDelta only

theorem eff_vfDeny (m : Module) : Eff [.pci] m (vfDeny m) := by
  unfold vfDeny
  iterate 24 all_goals try first
    | with_reducible exact Eff.refl _
    | with_reducible assumption
    | (with_reducible apply eff_setPci; · decide)
    | exact fun h => h
    | exact fun _ => rfl
    | intro _
    | extract_lets
    | with_reducible apply Eff.ite
    | (fail_if_no_progress ((with_reducible refine Eff.upd ?_ rfl rfl rfl rfl rfl rfl rfl rfl rfl rfl ?_); rotate_left; exact rfl))
    | split
    | dsimp only
    | dsimp +zetaDelta only

theorem eff_vfRead (p : Nat) (base : Nat) (m : Module) : Eff [.gal, .bal, .mem, .pwr, .pci] m (vfRead p base m).2 := by
  unfold vfRead
  iterate 24 all_goals try first
    | with_reducible exact Eff.refl _
    | with_reducible assumption
    | (with_reducible apply Eff.after (eff_regRead ..); · decide)
    | (with_reducible apply Eff.snd (eff_regRead ..); with_reducible assumption; · decide)
    | (with_reducible apply Eff.after (eff_vfDeny ..); · decide)
    | intro _
    | extract_lets
    | with_reducible apply Eff.ite
    | (fail_if_no_progress ((with_reducible refine Eff.upd ?_ rfl rfl rfl rfl rfl rfl rfl rfl rfl rfl ?_); rotate_left; exact rfl))
    | split
    | (with_reducible refine Eff.iteSnd (by assumption) ?_ ?_)
    | dsimp only
    | dsimp +zetaDelta only

theorem eff_vfWrite (p : Nat) (off : Nat) (bytes : Nat) (val : W64) (m : Module) : Eff [.clk, .img, .beat, .queues, .counts, .outstanding, .harts, .gal, .bal, .ris, .win, .lnd, .nwl, .mem, .flt, .port, .rte, .arc, .vst, .mir, .wdg, .chk, .hlt, .cor, .pwr, .sec, .pci, .tray, .dbg, .out] m (vfWrite p off bytes val m) := by
  unfold vfWrite
  iterate 24 all_goals try first
    | with_reducible exact Eff.refl _
    | with_reducible assumption
    | (with_reducible apply Eff.after (eff_vfDeny ..); · decide)
    | (with_reducible apply Eff.after (eff_regWrite ..); · decide)
    | intro _
    | extract_lets
    | with_reducible apply Eff.ite
    | (fail_if_no_progress ((with_reducible refine Eff.upd ?_ rfl rfl rfl rfl rfl rfl rfl rfl rfl rfl ?_); rotate_left; exact rfl))
    | split
    | dsimp only
    | dsimp +zetaDelta only

theorem eff_fnRead (fn : Fn) (off : Nat) (bytes : Nat) (m : Module) : Eff [.gal, .bal, .mem, .pwr, .pci] m (fnRead fn off bytes m).2 := by
  unfold fnRead
  iterate 24 all_goals try first
    | with_reducible exact Eff.refl _
    | with_reducible assumption
    | (with_reducible apply Eff.after (eff_unmapped ..); · decide)
    | (with_reducible apply Eff.after (eff_regRead ..); · decide)
    | (with_reducible apply Eff.snd (eff_regRead ..); with_reducible assumption; · decide)
    | (with_reducible apply Eff.after (eff_vfRead ..); · decide)
    | (with_reducible apply Eff.snd (eff_vfRead ..); with_reducible assumption; · decide)
    | intro _
    | extract_lets
    | with_reducible apply Eff.ite
    | (fail_if_no_progress ((with_reducible refine Eff.upd ?_ rfl rfl rfl rfl rfl rfl rfl rfl rfl rfl ?_); rotate_left; exact rfl))
    | split
    | (with_reducible refine Eff.iteSnd (by assumption) ?_ ?_)
    | dsimp only
    | dsimp +zetaDelta only

theorem eff_fnWrite (fn : Fn) (off : Nat) (bytes : Nat) (val : W64) (m : Module) : Eff [.clk, .img, .beat, .queues, .counts, .outstanding, .harts, .gal, .bal, .ris, .win, .lnd, .nwl, .mem, .flt, .port, .rte, .arc, .vst, .mir, .wdg, .chk, .hlt, .cor, .pwr, .sec, .pci, .tray, .dbg, .out] m (fnWrite fn off bytes val m) := by
  unfold fnWrite
  iterate 24 all_goals try first
    | with_reducible exact Eff.refl _
    | with_reducible assumption
    | (with_reducible apply Eff.after (eff_unmapped ..); · decide)
    | (with_reducible apply Eff.after (eff_regWrite ..); · decide)
    | (with_reducible apply Eff.after (eff_vfWrite ..); · decide)
    | intro _
    | extract_lets
    | with_reducible apply Eff.ite
    | (fail_if_no_progress ((with_reducible refine Eff.upd ?_ rfl rfl rfl rfl rfl rfl rfl rfl rfl rfl ?_); rotate_left; exact rfl))
    | split
    | dsimp only
    | dsimp +zetaDelta only

theorem eff_execRegisterRead (fn : Fn) (off : Nat) (bytes : Nat) (s : State) : EffOut [.gal, .bal, .mem, .pwr, .pci, .out] s (execRegisterRead fn off bytes s) := by
  unfold execRegisterRead
  iterate 24 all_goals try first
    | with_reducible exact EffOut.stop
    | with_reducible exact EffOut.ill
    | with_reducible refine EffOut.done ?_
    | with_reducible exact Eff.refl _
    | with_reducible assumption
    | (with_reducible apply Eff.after (eff_fnRead ..); · decide)
    | (with_reducible apply Eff.snd (eff_fnRead ..); with_reducible assumption; · decide)
    | (with_reducible apply Eff.after (eff_emit ..); · decide)
    | exact (eff_done ..).mono (by decide)
    | intro _
    | extract_lets
    | with_reducible apply Eff.ite
    | split
    | dsimp only
    | dsimp +zetaDelta only

theorem eff_execRegisterWrite (fn : Fn) (off : Nat) (bytes : Nat) (val : W64) (s : State) : EffOut [.clk, .img, .beat, .queues, .counts, .outstanding, .harts, .gal, .bal, .ris, .win, .lnd, .nwl, .mem, .flt, .port, .rte, .arc, .vst, .mir, .wdg, .chk, .hlt, .cor, .pwr, .sec, .pci, .tray, .dbg, .out] s (execRegisterWrite fn off bytes val s) := by
  unfold execRegisterWrite
  iterate 24 all_goals try first
    | with_reducible exact EffOut.stop
    | with_reducible exact EffOut.ill
    | with_reducible refine EffOut.done ?_
    | with_reducible exact Eff.refl _
    | with_reducible assumption
    | (with_reducible apply Eff.after (eff_fnWrite ..); · decide)
    | exact (eff_done ..).mono (by decide)
    | intro _
    | extract_lets
    | with_reducible apply Eff.ite
    | split
    | dsimp only
    | dsimp +zetaDelta only

end Sys2Proof.Laws
end

