-- ==== Sys2Proof/Laws/EffMgmt.lean ====
section
/-! SUPPORT. What the operations of Mgmt.lean keep, and what they may change. -/

namespace Sys2Proof.Laws
open Sys2Proof.Machine

theorem eff_mgmtReply (k : Pkt) (op : Nat) (refused : Bool) (payload : List Byte) (m : Module) : Eff [.port, .rte, .vst, .hlt, .cor, .sec, .pci, .tray, .dbg, .out] m (mgmtReply k op refused payload m) := by
  unfold mgmtReply
  iterate 24 all_goals try first
    | with_reducible exact Eff.refl _
    | with_reducible assumption
    | (with_reducible apply Eff.after (eff_inject ..); · decide)
    | intro _
    | extract_lets
    | with_reducible apply Eff.ite
    | split
    | dsimp only
    | dsimp +zetaDelta only

theorem eff_mgmtServe (k : Pkt) (m : Module) : Eff [.clk, .img, .beat, .queues, .counts, .outstanding, .harts, .gal, .bal, .ris, .win, .lnd, .nwl, .mem, .flt, .port, .rte, .arc, .vst, .mir, .wdg, .chk, .hlt, .cor, .pwr, .sec, .pci, .tray, .dbg, .out] m (mgmtServe k m) := by
  unfold mgmtServe
  iterate 24 all_goals try first
    | with_reducible exact Eff.refl _
    | with_reducible assumption
    | (with_reducible apply Eff.after (eff_fnRead ..); · decide)
    | (with_reducible apply Eff.snd (eff_fnRead ..); with_reducible assumption; · decide)
    | (with_reducible apply Eff.after (eff_mgmtReply ..); · decide)
    | (with_reducible apply Eff.after (eff_fnWrite ..); · decide)
    | intro _
    | extract_lets
    | with_reducible apply Eff.ite
    | split
    | dsimp only
    | dsimp +zetaDelta only

theorem eff_doMgmt (k : Pkt) (m : Module) : Eff [.clk, .img, .beat, .queues, .counts, .outstanding, .harts, .gal, .bal, .ris, .win, .lnd, .nwl, .mem, .flt, .port, .rte, .arc, .vst, .mir, .wdg, .chk, .hlt, .cor, .pwr, .sec, .pci, .tray, .dbg, .out] m (doMgmt k m) := by
  unfold doMgmt
  iterate 24 all_goals try first
    | with_reducible exact Eff.refl _
    | with_reducible assumption
    | (with_reducible apply Eff.after (eff_mgmtServe ..); · decide)
    | intro _
    | extract_lets
    | with_reducible apply Eff.ite
    | (fail_if_no_progress ((with_reducible refine Eff.upd ?_ rfl rfl rfl rfl rfl rfl rfl rfl rfl rfl ?_); rotate_left; exact rfl))
    | split
    | dsimp only
    | dsimp +zetaDelta only

theorem eff_execMgmt (s : State) : EffOut [.clk, .img, .beat, .queues, .counts, .outstanding, .harts, .gal, .bal, .ris, .win, .lnd, .nwl, .mem, .flt, .port, .rte, .arc, .vst, .mir, .wdg, .chk, .hlt, .cor, .pwr, .sec, .pci, .tray, .dbg, .out] s (execMgmt s) := by
  unfold execMgmt
  iterate 24 all_goals try first
    | with_reducible exact EffOut.stop
    | with_reducible exact EffOut.ill
    | with_reducible refine EffOut.done ?_
    | with_reducible exact Eff.refl _
    | with_reducible assumption
    | (with_reducible apply Eff.opt2 (eff_takeTy _ _); with_reducible assumption; · decide)
    | (with_reducible apply Eff.after (eff_doMgmt ..); · decide)
    | exact (eff_done ..).mono (by decide)
    | intro _
    | extract_lets
    | with_reducible apply Eff.ite
    | (fail_if_no_progress ((with_reducible refine Eff.upd ?_ rfl rfl rfl rfl rfl rfl rfl rfl rfl rfl ?_); rotate_left; exact rfl))
    | split
    | dsimp only
    | dsimp +zetaDelta only

theorem eff_execVendorRead (off : Nat) (s : State) : EffOut [.gal, .bal, .mem, .pwr, .pci, .out] s (execVendorRead off s) := by
  unfold execVendorRead
  iterate 24 all_goals try first
    | with_reducible exact EffOut.stop
    | with_reducible exact EffOut.ill
    | with_reducible refine EffOut.done ?_
    | with_reducible exact Eff.refl _
    | with_reducible assumption
    | (with_reducible apply Eff.after (eff_fnRead ..); · decide)
    | (with_reducible apply Eff.snd (eff_fnRead ..); with_reducible assumption; · decide)
    | (with_reducible apply Eff.after (eff_emit ..); · decide)
    | exact (eff_done ..).mono (by decide)
    | intro _
    | extract_lets
    | with_reducible apply Eff.ite
    | split
    | dsimp only
    | dsimp +zetaDelta only

theorem eff_execVendorWrite (off : Nat) (val : W64) (tray : Bool) (s : State) : EffOut [.clk, .img, .beat, .queues, .counts, .outstanding, .harts, .gal, .bal, .ris, .win, .lnd, .nwl, .mem, .flt, .port, .rte, .arc, .vst, .mir, .wdg, .chk, .hlt, .cor, .pwr, .sec, .pci, .tray, .dbg, .out] s (execVendorWrite off val tray s) := by
  unfold execVendorWrite
  iterate 24 all_goals try first
    | with_reducible exact EffOut.stop
    | with_reducible exact EffOut.ill
    | with_reducible refine EffOut.done ?_
    | with_reducible exact Eff.refl _
    | with_reducible assumption
    | (with_reducible apply Eff.after (eff_emit ..); · decide)
    | (with_reducible apply Eff.after (eff_trayLimit ..); · decide)
    | (with_reducible apply Eff.after (eff_fnWrite ..); · decide)
    | exact (eff_done ..).mono (by decide)
    | intro _
    | extract_lets
    | with_reducible apply Eff.ite
    | split
    | dsimp only
    | dsimp +zetaDelta only

theorem eff_jtagBypass (code : Byte) (m : Module) : Eff [.jtag, .out] m (jtagBypass code m) := by
  unfold jtagBypass
  iterate 24 all_goals try first
    | with_reducible exact Eff.refl _
    | with_reducible assumption
    | (with_reducible apply Eff.after (eff_emit ..); · decide)
    | intro _
    | extract_lets
    | with_reducible apply Eff.ite
    | (fail_if_no_progress ((with_reducible refine Eff.upd ?_ rfl rfl rfl rfl rfl rfl rfl rfl rfl rfl ?_); rotate_left; exact rfl))
    | split
    | dsimp only
    | dsimp +zetaDelta only

theorem eff_boundaryScan (code : Byte) (m : Module) : Eff [.mem, .jtag, .out] m (boundaryScan code m) := by
  unfold boundaryScan
  iterate 24 all_goals try first
    | with_reducible exact Eff.refl _
    | with_reducible assumption
    | (with_reducible apply Eff.after (eff_freeVal ..); · decide)
    | (with_reducible apply Eff.snd (eff_freeVal ..); with_reducible assumption; · decide)
    | (with_reducible apply Eff.after (eff_emit ..); · decide)
    | intro _
    | extract_lets
    | with_reducible apply Eff.ite
    | (fail_if_no_progress ((with_reducible refine Eff.upd ?_ rfl rfl rfl rfl rfl rfl rfl rfl rfl rfl ?_); rotate_left; exact rfl))
    | split
    | dsimp only
    | dsimp +zetaDelta only

theorem eff_execExtest (s : State) : EffOut [.mem, .jtag, .out] s (execExtest s) := by
  unfold execExtest
  iterate 24 all_goals try first
    | with_reducible exact EffOut.stop
    | with_reducible exact EffOut.ill
    | with_reducible refine EffOut.done ?_
    | with_reducible exact Eff.refl _
    | with_reducible assumption
    | (with_reducible apply Eff.after (eff_boundaryScan ..); · decide)
    | exact (eff_done ..).mono (by decide)
    | intro _
    | extract_lets
    | with_reducible apply Eff.ite
    | split
    | dsimp only
    | dsimp +zetaDelta only

theorem eff_execSamplePreload (s : State) : EffOut [.mem, .jtag, .out] s (execSamplePreload s) := by
  unfold execSamplePreload
  iterate 24 all_goals try first
    | with_reducible exact EffOut.stop
    | with_reducible exact EffOut.ill
    | with_reducible refine EffOut.done ?_
    | with_reducible exact Eff.refl _
    | with_reducible assumption
    | (with_reducible apply Eff.after (eff_boundaryScan ..); · decide)
    | exact (eff_done ..).mono (by decide)
    | intro _
    | extract_lets
    | with_reducible apply Eff.ite
    | split
    | dsimp only
    | dsimp +zetaDelta only

theorem eff_execIdcode (s : State) : EffOut [.jtag, .out] s (execIdcode s) := by
  unfold execIdcode
  iterate 24 all_goals try first
    | with_reducible exact EffOut.stop
    | with_reducible exact EffOut.ill
    | with_reducible refine EffOut.done ?_
    | with_reducible exact Eff.refl _
    | with_reducible assumption
    | (with_reducible apply Eff.after (eff_emit ..); · decide)
    | exact (eff_done ..).mono (by decide)
    | intro _
    | extract_lets
    | with_reducible apply Eff.ite
    | (fail_if_no_progress ((with_reducible refine Eff.upd ?_ rfl rfl rfl rfl rfl rfl rfl rfl rfl rfl ?_); rotate_left; exact rfl))
    | split
    | dsimp only
    | dsimp +zetaDelta only

theorem eff_dbgAccess (dr : BitVec 96) (m : Module) : Eff [.clk, .img, .beat, .queues, .counts, .outstanding, .harts, .gal, .bal, .ris, .win, .lnd, .nwl, .mem, .flt, .port, .rte, .arc, .vst, .mir, .wdg, .chk, .hlt, .cor, .pwr, .sec, .pci, .tray, .dbg, .jtag, .out] m (dbgAccess dr m) := by
  unfold dbgAccess
  iterate 24 all_goals try first
    | with_reducible exact Eff.refl _
    | with_reducible assumption
    | (with_reducible apply Eff.after (eff_emit ..); · decide)
    | (with_reducible apply Eff.after (eff_fnRead ..); · decide)
    | (with_reducible apply Eff.snd (eff_fnRead ..); with_reducible assumption; · decide)
    | (with_reducible apply Eff.after (eff_fnWrite ..); · decide)
    | intro _
    | extract_lets
    | with_reducible apply Eff.ite
    | (fail_if_no_progress ((with_reducible refine Eff.upd ?_ rfl rfl rfl rfl rfl rfl rfl rfl rfl rfl ?_); rotate_left; exact rfl))
    | split
    | dsimp only
    | dsimp +zetaDelta only

theorem eff_execDbgacc (dr : BitVec 96) (s : State) : EffOut [.clk, .img, .beat, .queues, .counts, .outstanding, .harts, .gal, .bal, .ris, .win, .lnd, .nwl, .mem, .flt, .port, .rte, .arc, .vst, .mir, .wdg, .chk, .hlt, .cor, .pwr, .sec, .pci, .tray, .dbg, .jtag, .out] s (execDbgacc dr s) := by
  unfold execDbgacc
  iterate 24 all_goals try first
    | with_reducible exact EffOut.stop
    | with_reducible exact EffOut.ill
    | with_reducible refine EffOut.done ?_
    | with_reducible exact Eff.refl _
    | with_reducible assumption
    | (with_reducible apply Eff.after (eff_jtagBypass ..); · decide)
    | (with_reducible apply Eff.after (eff_dbgAccess ..); · decide)
    | exact (eff_done ..).mono (by decide)
    | intro _
    | extract_lets
    | with_reducible apply Eff.ite
    | split
    | dsimp only
    | dsimp +zetaDelta only

theorem eff_execBypass (code : Byte) (s : State) : EffOut [.jtag, .out] s (execBypass code s) := by
  unfold execBypass
  iterate 24 all_goals try first
    | with_reducible exact EffOut.stop
    | with_reducible exact EffOut.ill
    | with_reducible refine EffOut.done ?_
    | with_reducible exact Eff.refl _
    | with_reducible assumption
    | (with_reducible apply Eff.after (eff_jtagBypass ..); · decide)
    | exact (eff_done ..).mono (by decide)
    | intro _
    | extract_lets
    | with_reducible apply Eff.ite
    | split
    | dsimp only
    | dsimp +zetaDelta only

end Sys2Proof.Laws
end

