-- ==== Sys2Proof/Laws/EffTick.lean ====
section
/-! SUPPORT. What the operations of Tick.lean keep, and what they may change. -/

namespace Sys2Proof.Laws
open Sys2Proof.Machine

theorem eff_tick (m : Module) : Eff [.clk, .beat, .mem, .port, .rte, .vst, .hlt, .cor, .sec, .pci, .tray, .dbg, .out] m (tick m) := by
  unfold tick
  iterate 24 all_goals try first
    | with_reducible exact Eff.refl _
    | with_reducible assumption
    | (with_reducible apply Eff.after (eff_traceSend ..); · decide)
    | (with_reducible apply Eff.after (eff_pass ..); · decide)
    | intro _
    | extract_lets
    | with_reducible apply Eff.ite
    | split
    | dsimp only
    | dsimp +zetaDelta only

end Sys2Proof.Laws
end

