-- ==== Sys2Proof/Laws/State.lean ====
section
/-! SUPPORT. The small lemmas of the state: what each update leaves of every field of the hardware, and reading a unit's state after
it is set. -/

namespace Sys2Proof.Laws
open Sys2Proof.Machine

variable (m : Module)

/-! ### setHart -/

@[simp] theorem setHart_fused (k : ℕ) (x : Hart) : (Module.setHart m k x).fused = m.fused := rfl
@[simp] theorem setHart_clk (k : ℕ) (x : Hart) : (Module.setHart m k x).clk = m.clk := rfl
@[simp] theorem setHart_img (k : ℕ) (x : Hart) : (Module.setHart m k x).img = m.img := rfl
@[simp] theorem setHart_beat (k : ℕ) (x : Hart) : (Module.setHart m k x).beat = m.beat := rfl
@[simp] theorem setHart_queues (k : ℕ) (x : Hart) : (Module.setHart m k x).queues = m.queues := rfl
@[simp] theorem setHart_counts (k : ℕ) (x : Hart) : (Module.setHart m k x).counts = m.counts := rfl
@[simp] theorem setHart_gates (k : ℕ) (x : Hart) : (Module.setHart m k x).gates = m.gates := rfl
@[simp] theorem setHart_outstanding (k : ℕ) (x : Hart) : (Module.setHart m k x).outstanding = m.outstanding := rfl
@[simp] theorem setHart_cores (k : ℕ) (x : Hart) : (Module.setHart m k x).cores = m.cores := rfl
@[simp] theorem setHart_gal (k : ℕ) (x : Hart) : (Module.setHart m k x).gal = m.gal := rfl
@[simp] theorem setHart_bal (k : ℕ) (x : Hart) : (Module.setHart m k x).bal = m.bal := rfl
@[simp] theorem setHart_ris (k : ℕ) (x : Hart) : (Module.setHart m k x).ris = m.ris := rfl
@[simp] theorem setHart_win (k : ℕ) (x : Hart) : (Module.setHart m k x).win = m.win := rfl
@[simp] theorem setHart_lnd (k : ℕ) (x : Hart) : (Module.setHart m k x).lnd = m.lnd := rfl
@[simp] theorem setHart_nwl (k : ℕ) (x : Hart) : (Module.setHart m k x).nwl = m.nwl := rfl
@[simp] theorem setHart_mem (k : ℕ) (x : Hart) : (Module.setHart m k x).mem = m.mem := rfl
@[simp] theorem setHart_flt (k : ℕ) (x : Hart) : (Module.setHart m k x).flt = m.flt := rfl
@[simp] theorem setHart_port (k : ℕ) (x : Hart) : (Module.setHart m k x).port = m.port := rfl
@[simp] theorem setHart_rte (k : ℕ) (x : Hart) : (Module.setHart m k x).rte = m.rte := rfl
@[simp] theorem setHart_arc (k : ℕ) (x : Hart) : (Module.setHart m k x).arc = m.arc := rfl
@[simp] theorem setHart_vote (k : ℕ) (x : Hart) : (Module.setHart m k x).vote = m.vote := rfl
@[simp] theorem setHart_vst (k : ℕ) (x : Hart) : (Module.setHart m k x).vst = m.vst := rfl
@[simp] theorem setHart_mir (k : ℕ) (x : Hart) : (Module.setHart m k x).mir = m.mir := rfl
@[simp] theorem setHart_wdg (k : ℕ) (x : Hart) : (Module.setHart m k x).wdg = m.wdg := rfl
@[simp] theorem setHart_chk (k : ℕ) (x : Hart) : (Module.setHart m k x).chk = m.chk := rfl
@[simp] theorem setHart_hlt (k : ℕ) (x : Hart) : (Module.setHart m k x).hlt = m.hlt := rfl
@[simp] theorem setHart_cor (k : ℕ) (x : Hart) : (Module.setHart m k x).cor = m.cor := rfl
@[simp] theorem setHart_pwr (k : ℕ) (x : Hart) : (Module.setHart m k x).pwr = m.pwr := rfl
@[simp] theorem setHart_sec (k : ℕ) (x : Hart) : (Module.setHart m k x).sec = m.sec := rfl
@[simp] theorem setHart_pci (k : ℕ) (x : Hart) : (Module.setHart m k x).pci = m.pci := rfl
@[simp] theorem setHart_tray (k : ℕ) (x : Hart) : (Module.setHart m k x).tray = m.tray := rfl
@[simp] theorem setHart_dbg (k : ℕ) (x : Hart) : (Module.setHart m k x).dbg = m.dbg := rfl
@[simp] theorem setHart_jtag (k : ℕ) (x : Hart) : (Module.setHart m k x).jtag = m.jtag := rfl
@[simp] theorem setHart_out (k : ℕ) (x : Hart) : (Module.setHart m k x).out = m.out := rfl

@[simp] theorem setHart_get (k : ℕ) (x : Hart) (h : rising m.harts = true) : Module.hart (Module.setHart m k x) k = x := nget_nset_self h
@[simp] theorem setHart_get_ne (k : ℕ) (x : Hart) (j : ℕ) (h : j ≠ k) : Module.hart (Module.setHart m k x) j = Module.hart m j := nget_nset_of_ne h

/-! ### setCore -/

@[simp] theorem setCore_fused (k : ℕ) (x : Core) : (Module.setCore m k x).fused = m.fused := rfl
@[simp] theorem setCore_clk (k : ℕ) (x : Core) : (Module.setCore m k x).clk = m.clk := rfl
@[simp] theorem setCore_img (k : ℕ) (x : Core) : (Module.setCore m k x).img = m.img := rfl
@[simp] theorem setCore_beat (k : ℕ) (x : Core) : (Module.setCore m k x).beat = m.beat := rfl
@[simp] theorem setCore_queues (k : ℕ) (x : Core) : (Module.setCore m k x).queues = m.queues := rfl
@[simp] theorem setCore_counts (k : ℕ) (x : Core) : (Module.setCore m k x).counts = m.counts := rfl
@[simp] theorem setCore_gates (k : ℕ) (x : Core) : (Module.setCore m k x).gates = m.gates := rfl
@[simp] theorem setCore_outstanding (k : ℕ) (x : Core) : (Module.setCore m k x).outstanding = m.outstanding := rfl
@[simp] theorem setCore_harts (k : ℕ) (x : Core) : (Module.setCore m k x).harts = m.harts := rfl
@[simp] theorem setCore_gal (k : ℕ) (x : Core) : (Module.setCore m k x).gal = m.gal := rfl
@[simp] theorem setCore_bal (k : ℕ) (x : Core) : (Module.setCore m k x).bal = m.bal := rfl
@[simp] theorem setCore_ris (k : ℕ) (x : Core) : (Module.setCore m k x).ris = m.ris := rfl
@[simp] theorem setCore_win (k : ℕ) (x : Core) : (Module.setCore m k x).win = m.win := rfl
@[simp] theorem setCore_lnd (k : ℕ) (x : Core) : (Module.setCore m k x).lnd = m.lnd := rfl
@[simp] theorem setCore_nwl (k : ℕ) (x : Core) : (Module.setCore m k x).nwl = m.nwl := rfl
@[simp] theorem setCore_mem (k : ℕ) (x : Core) : (Module.setCore m k x).mem = m.mem := rfl
@[simp] theorem setCore_flt (k : ℕ) (x : Core) : (Module.setCore m k x).flt = m.flt := rfl
@[simp] theorem setCore_port (k : ℕ) (x : Core) : (Module.setCore m k x).port = m.port := rfl
@[simp] theorem setCore_rte (k : ℕ) (x : Core) : (Module.setCore m k x).rte = m.rte := rfl
@[simp] theorem setCore_arc (k : ℕ) (x : Core) : (Module.setCore m k x).arc = m.arc := rfl
@[simp] theorem setCore_vote (k : ℕ) (x : Core) : (Module.setCore m k x).vote = m.vote := rfl
@[simp] theorem setCore_vst (k : ℕ) (x : Core) : (Module.setCore m k x).vst = m.vst := rfl
@[simp] theorem setCore_mir (k : ℕ) (x : Core) : (Module.setCore m k x).mir = m.mir := rfl
@[simp] theorem setCore_wdg (k : ℕ) (x : Core) : (Module.setCore m k x).wdg = m.wdg := rfl
@[simp] theorem setCore_chk (k : ℕ) (x : Core) : (Module.setCore m k x).chk = m.chk := rfl
@[simp] theorem setCore_hlt (k : ℕ) (x : Core) : (Module.setCore m k x).hlt = m.hlt := rfl
@[simp] theorem setCore_cor (k : ℕ) (x : Core) : (Module.setCore m k x).cor = m.cor := rfl
@[simp] theorem setCore_pwr (k : ℕ) (x : Core) : (Module.setCore m k x).pwr = m.pwr := rfl
@[simp] theorem setCore_sec (k : ℕ) (x : Core) : (Module.setCore m k x).sec = m.sec := rfl
@[simp] theorem setCore_pci (k : ℕ) (x : Core) : (Module.setCore m k x).pci = m.pci := rfl
@[simp] theorem setCore_tray (k : ℕ) (x : Core) : (Module.setCore m k x).tray = m.tray := rfl
@[simp] theorem setCore_dbg (k : ℕ) (x : Core) : (Module.setCore m k x).dbg = m.dbg := rfl
@[simp] theorem setCore_jtag (k : ℕ) (x : Core) : (Module.setCore m k x).jtag = m.jtag := rfl
@[simp] theorem setCore_out (k : ℕ) (x : Core) : (Module.setCore m k x).out = m.out := rfl

@[simp] theorem setCore_get (k : ℕ) (x : Core) (h : rising m.cores = true) : Module.core (Module.setCore m k x) k = x := nget_nset_self h
@[simp] theorem setCore_get_ne (k : ℕ) (x : Core) (j : ℕ) (h : j ≠ k) : Module.core (Module.setCore m k x) j = Module.core m j := nget_nset_of_ne h

/-! ### setGal -/

@[simp] theorem setGal_fused (k : ℕ) (x : Gal) : (Module.setGal m k x).fused = m.fused := rfl
@[simp] theorem setGal_clk (k : ℕ) (x : Gal) : (Module.setGal m k x).clk = m.clk := rfl
@[simp] theorem setGal_img (k : ℕ) (x : Gal) : (Module.setGal m k x).img = m.img := rfl
@[simp] theorem setGal_beat (k : ℕ) (x : Gal) : (Module.setGal m k x).beat = m.beat := rfl
@[simp] theorem setGal_queues (k : ℕ) (x : Gal) : (Module.setGal m k x).queues = m.queues := rfl
@[simp] theorem setGal_counts (k : ℕ) (x : Gal) : (Module.setGal m k x).counts = m.counts := rfl
@[simp] theorem setGal_gates (k : ℕ) (x : Gal) : (Module.setGal m k x).gates = m.gates := rfl
@[simp] theorem setGal_outstanding (k : ℕ) (x : Gal) : (Module.setGal m k x).outstanding = m.outstanding := rfl
@[simp] theorem setGal_harts (k : ℕ) (x : Gal) : (Module.setGal m k x).harts = m.harts := rfl
@[simp] theorem setGal_cores (k : ℕ) (x : Gal) : (Module.setGal m k x).cores = m.cores := rfl
@[simp] theorem setGal_bal (k : ℕ) (x : Gal) : (Module.setGal m k x).bal = m.bal := rfl
@[simp] theorem setGal_ris (k : ℕ) (x : Gal) : (Module.setGal m k x).ris = m.ris := rfl
@[simp] theorem setGal_win (k : ℕ) (x : Gal) : (Module.setGal m k x).win = m.win := rfl
@[simp] theorem setGal_lnd (k : ℕ) (x : Gal) : (Module.setGal m k x).lnd = m.lnd := rfl
@[simp] theorem setGal_nwl (k : ℕ) (x : Gal) : (Module.setGal m k x).nwl = m.nwl := rfl
@[simp] theorem setGal_mem (k : ℕ) (x : Gal) : (Module.setGal m k x).mem = m.mem := rfl
@[simp] theorem setGal_flt (k : ℕ) (x : Gal) : (Module.setGal m k x).flt = m.flt := rfl
@[simp] theorem setGal_port (k : ℕ) (x : Gal) : (Module.setGal m k x).port = m.port := rfl
@[simp] theorem setGal_rte (k : ℕ) (x : Gal) : (Module.setGal m k x).rte = m.rte := rfl
@[simp] theorem setGal_arc (k : ℕ) (x : Gal) : (Module.setGal m k x).arc = m.arc := rfl
@[simp] theorem setGal_vote (k : ℕ) (x : Gal) : (Module.setGal m k x).vote = m.vote := rfl
@[simp] theorem setGal_vst (k : ℕ) (x : Gal) : (Module.setGal m k x).vst = m.vst := rfl
@[simp] theorem setGal_mir (k : ℕ) (x : Gal) : (Module.setGal m k x).mir = m.mir := rfl
@[simp] theorem setGal_wdg (k : ℕ) (x : Gal) : (Module.setGal m k x).wdg = m.wdg := rfl
@[simp] theorem setGal_chk (k : ℕ) (x : Gal) : (Module.setGal m k x).chk = m.chk := rfl
@[simp] theorem setGal_hlt (k : ℕ) (x : Gal) : (Module.setGal m k x).hlt = m.hlt := rfl
@[simp] theorem setGal_cor (k : ℕ) (x : Gal) : (Module.setGal m k x).cor = m.cor := rfl
@[simp] theorem setGal_pwr (k : ℕ) (x : Gal) : (Module.setGal m k x).pwr = m.pwr := rfl
@[simp] theorem setGal_sec (k : ℕ) (x : Gal) : (Module.setGal m k x).sec = m.sec := rfl
@[simp] theorem setGal_pci (k : ℕ) (x : Gal) : (Module.setGal m k x).pci = m.pci := rfl
@[simp] theorem setGal_tray (k : ℕ) (x : Gal) : (Module.setGal m k x).tray = m.tray := rfl
@[simp] theorem setGal_dbg (k : ℕ) (x : Gal) : (Module.setGal m k x).dbg = m.dbg := rfl
@[simp] theorem setGal_jtag (k : ℕ) (x : Gal) : (Module.setGal m k x).jtag = m.jtag := rfl
@[simp] theorem setGal_out (k : ℕ) (x : Gal) : (Module.setGal m k x).out = m.out := rfl

@[simp] theorem setGal_get (k : ℕ) (x : Gal) (h : rising m.gal = true) : Module.gal' (Module.setGal m k x) k = x := nget_nset_self h
@[simp] theorem setGal_get_ne (k : ℕ) (x : Gal) (j : ℕ) (h : j ≠ k) : Module.gal' (Module.setGal m k x) j = Module.gal' m j := nget_nset_of_ne h

/-! ### setBal -/

@[simp] theorem setBal_fused (k : ℕ) (x : Bal) : (Module.setBal m k x).fused = m.fused := rfl
@[simp] theorem setBal_clk (k : ℕ) (x : Bal) : (Module.setBal m k x).clk = m.clk := rfl
@[simp] theorem setBal_img (k : ℕ) (x : Bal) : (Module.setBal m k x).img = m.img := rfl
@[simp] theorem setBal_beat (k : ℕ) (x : Bal) : (Module.setBal m k x).beat = m.beat := rfl
@[simp] theorem setBal_queues (k : ℕ) (x : Bal) : (Module.setBal m k x).queues = m.queues := rfl
@[simp] theorem setBal_counts (k : ℕ) (x : Bal) : (Module.setBal m k x).counts = m.counts := rfl
@[simp] theorem setBal_gates (k : ℕ) (x : Bal) : (Module.setBal m k x).gates = m.gates := rfl
@[simp] theorem setBal_outstanding (k : ℕ) (x : Bal) : (Module.setBal m k x).outstanding = m.outstanding := rfl
@[simp] theorem setBal_harts (k : ℕ) (x : Bal) : (Module.setBal m k x).harts = m.harts := rfl
@[simp] theorem setBal_cores (k : ℕ) (x : Bal) : (Module.setBal m k x).cores = m.cores := rfl
@[simp] theorem setBal_gal (k : ℕ) (x : Bal) : (Module.setBal m k x).gal = m.gal := rfl
@[simp] theorem setBal_ris (k : ℕ) (x : Bal) : (Module.setBal m k x).ris = m.ris := rfl
@[simp] theorem setBal_win (k : ℕ) (x : Bal) : (Module.setBal m k x).win = m.win := rfl
@[simp] theorem setBal_lnd (k : ℕ) (x : Bal) : (Module.setBal m k x).lnd = m.lnd := rfl
@[simp] theorem setBal_nwl (k : ℕ) (x : Bal) : (Module.setBal m k x).nwl = m.nwl := rfl
@[simp] theorem setBal_mem (k : ℕ) (x : Bal) : (Module.setBal m k x).mem = m.mem := rfl
@[simp] theorem setBal_flt (k : ℕ) (x : Bal) : (Module.setBal m k x).flt = m.flt := rfl
@[simp] theorem setBal_port (k : ℕ) (x : Bal) : (Module.setBal m k x).port = m.port := rfl
@[simp] theorem setBal_rte (k : ℕ) (x : Bal) : (Module.setBal m k x).rte = m.rte := rfl
@[simp] theorem setBal_arc (k : ℕ) (x : Bal) : (Module.setBal m k x).arc = m.arc := rfl
@[simp] theorem setBal_vote (k : ℕ) (x : Bal) : (Module.setBal m k x).vote = m.vote := rfl
@[simp] theorem setBal_vst (k : ℕ) (x : Bal) : (Module.setBal m k x).vst = m.vst := rfl
@[simp] theorem setBal_mir (k : ℕ) (x : Bal) : (Module.setBal m k x).mir = m.mir := rfl
@[simp] theorem setBal_wdg (k : ℕ) (x : Bal) : (Module.setBal m k x).wdg = m.wdg := rfl
@[simp] theorem setBal_chk (k : ℕ) (x : Bal) : (Module.setBal m k x).chk = m.chk := rfl
@[simp] theorem setBal_hlt (k : ℕ) (x : Bal) : (Module.setBal m k x).hlt = m.hlt := rfl
@[simp] theorem setBal_cor (k : ℕ) (x : Bal) : (Module.setBal m k x).cor = m.cor := rfl
@[simp] theorem setBal_pwr (k : ℕ) (x : Bal) : (Module.setBal m k x).pwr = m.pwr := rfl
@[simp] theorem setBal_sec (k : ℕ) (x : Bal) : (Module.setBal m k x).sec = m.sec := rfl
@[simp] theorem setBal_pci (k : ℕ) (x : Bal) : (Module.setBal m k x).pci = m.pci := rfl
@[simp] theorem setBal_tray (k : ℕ) (x : Bal) : (Module.setBal m k x).tray = m.tray := rfl
@[simp] theorem setBal_dbg (k : ℕ) (x : Bal) : (Module.setBal m k x).dbg = m.dbg := rfl
@[simp] theorem setBal_jtag (k : ℕ) (x : Bal) : (Module.setBal m k x).jtag = m.jtag := rfl
@[simp] theorem setBal_out (k : ℕ) (x : Bal) : (Module.setBal m k x).out = m.out := rfl

@[simp] theorem setBal_get (k : ℕ) (x : Bal) (h : rising m.bal = true) : Module.bal' (Module.setBal m k x) k = x := nget_nset_self h
@[simp] theorem setBal_get_ne (k : ℕ) (x : Bal) (j : ℕ) (h : j ≠ k) : Module.bal' (Module.setBal m k x) j = Module.bal' m j := nget_nset_of_ne h

/-! ### setRis -/

@[simp] theorem setRis_fused (k : ℕ) (x : Ris) : (Module.setRis m k x).fused = m.fused := rfl
@[simp] theorem setRis_clk (k : ℕ) (x : Ris) : (Module.setRis m k x).clk = m.clk := rfl
@[simp] theorem setRis_img (k : ℕ) (x : Ris) : (Module.setRis m k x).img = m.img := rfl
@[simp] theorem setRis_beat (k : ℕ) (x : Ris) : (Module.setRis m k x).beat = m.beat := rfl
@[simp] theorem setRis_queues (k : ℕ) (x : Ris) : (Module.setRis m k x).queues = m.queues := rfl
@[simp] theorem setRis_counts (k : ℕ) (x : Ris) : (Module.setRis m k x).counts = m.counts := rfl
@[simp] theorem setRis_gates (k : ℕ) (x : Ris) : (Module.setRis m k x).gates = m.gates := rfl
@[simp] theorem setRis_outstanding (k : ℕ) (x : Ris) : (Module.setRis m k x).outstanding = m.outstanding := rfl
@[simp] theorem setRis_harts (k : ℕ) (x : Ris) : (Module.setRis m k x).harts = m.harts := rfl
@[simp] theorem setRis_cores (k : ℕ) (x : Ris) : (Module.setRis m k x).cores = m.cores := rfl
@[simp] theorem setRis_gal (k : ℕ) (x : Ris) : (Module.setRis m k x).gal = m.gal := rfl
@[simp] theorem setRis_bal (k : ℕ) (x : Ris) : (Module.setRis m k x).bal = m.bal := rfl
@[simp] theorem setRis_win (k : ℕ) (x : Ris) : (Module.setRis m k x).win = m.win := rfl
@[simp] theorem setRis_lnd (k : ℕ) (x : Ris) : (Module.setRis m k x).lnd = m.lnd := rfl
@[simp] theorem setRis_nwl (k : ℕ) (x : Ris) : (Module.setRis m k x).nwl = m.nwl := rfl
@[simp] theorem setRis_mem (k : ℕ) (x : Ris) : (Module.setRis m k x).mem = m.mem := rfl
@[simp] theorem setRis_flt (k : ℕ) (x : Ris) : (Module.setRis m k x).flt = m.flt := rfl
@[simp] theorem setRis_port (k : ℕ) (x : Ris) : (Module.setRis m k x).port = m.port := rfl
@[simp] theorem setRis_rte (k : ℕ) (x : Ris) : (Module.setRis m k x).rte = m.rte := rfl
@[simp] theorem setRis_arc (k : ℕ) (x : Ris) : (Module.setRis m k x).arc = m.arc := rfl
@[simp] theorem setRis_vote (k : ℕ) (x : Ris) : (Module.setRis m k x).vote = m.vote := rfl
@[simp] theorem setRis_vst (k : ℕ) (x : Ris) : (Module.setRis m k x).vst = m.vst := rfl
@[simp] theorem setRis_mir (k : ℕ) (x : Ris) : (Module.setRis m k x).mir = m.mir := rfl
@[simp] theorem setRis_wdg (k : ℕ) (x : Ris) : (Module.setRis m k x).wdg = m.wdg := rfl
@[simp] theorem setRis_chk (k : ℕ) (x : Ris) : (Module.setRis m k x).chk = m.chk := rfl
@[simp] theorem setRis_hlt (k : ℕ) (x : Ris) : (Module.setRis m k x).hlt = m.hlt := rfl
@[simp] theorem setRis_cor (k : ℕ) (x : Ris) : (Module.setRis m k x).cor = m.cor := rfl
@[simp] theorem setRis_pwr (k : ℕ) (x : Ris) : (Module.setRis m k x).pwr = m.pwr := rfl
@[simp] theorem setRis_sec (k : ℕ) (x : Ris) : (Module.setRis m k x).sec = m.sec := rfl
@[simp] theorem setRis_pci (k : ℕ) (x : Ris) : (Module.setRis m k x).pci = m.pci := rfl
@[simp] theorem setRis_tray (k : ℕ) (x : Ris) : (Module.setRis m k x).tray = m.tray := rfl
@[simp] theorem setRis_dbg (k : ℕ) (x : Ris) : (Module.setRis m k x).dbg = m.dbg := rfl
@[simp] theorem setRis_jtag (k : ℕ) (x : Ris) : (Module.setRis m k x).jtag = m.jtag := rfl
@[simp] theorem setRis_out (k : ℕ) (x : Ris) : (Module.setRis m k x).out = m.out := rfl

@[simp] theorem setRis_get (k : ℕ) (x : Ris) (h : rising m.ris = true) : Module.ris' (Module.setRis m k x) k = x := nget_nset_self h
@[simp] theorem setRis_get_ne (k : ℕ) (x : Ris) (j : ℕ) (h : j ≠ k) : Module.ris' (Module.setRis m k x) j = Module.ris' m j := nget_nset_of_ne h

/-! ### setWin -/

@[simp] theorem setWin_fused (k : ℕ) (x : Win) : (Module.setWin m k x).fused = m.fused := rfl
@[simp] theorem setWin_clk (k : ℕ) (x : Win) : (Module.setWin m k x).clk = m.clk := rfl
@[simp] theorem setWin_img (k : ℕ) (x : Win) : (Module.setWin m k x).img = m.img := rfl
@[simp] theorem setWin_beat (k : ℕ) (x : Win) : (Module.setWin m k x).beat = m.beat := rfl
@[simp] theorem setWin_queues (k : ℕ) (x : Win) : (Module.setWin m k x).queues = m.queues := rfl
@[simp] theorem setWin_counts (k : ℕ) (x : Win) : (Module.setWin m k x).counts = m.counts := rfl
@[simp] theorem setWin_gates (k : ℕ) (x : Win) : (Module.setWin m k x).gates = m.gates := rfl
@[simp] theorem setWin_outstanding (k : ℕ) (x : Win) : (Module.setWin m k x).outstanding = m.outstanding := rfl
@[simp] theorem setWin_harts (k : ℕ) (x : Win) : (Module.setWin m k x).harts = m.harts := rfl
@[simp] theorem setWin_cores (k : ℕ) (x : Win) : (Module.setWin m k x).cores = m.cores := rfl
@[simp] theorem setWin_gal (k : ℕ) (x : Win) : (Module.setWin m k x).gal = m.gal := rfl
@[simp] theorem setWin_bal (k : ℕ) (x : Win) : (Module.setWin m k x).bal = m.bal := rfl
@[simp] theorem setWin_ris (k : ℕ) (x : Win) : (Module.setWin m k x).ris = m.ris := rfl
@[simp] theorem setWin_lnd (k : ℕ) (x : Win) : (Module.setWin m k x).lnd = m.lnd := rfl
@[simp] theorem setWin_nwl (k : ℕ) (x : Win) : (Module.setWin m k x).nwl = m.nwl := rfl
@[simp] theorem setWin_mem (k : ℕ) (x : Win) : (Module.setWin m k x).mem = m.mem := rfl
@[simp] theorem setWin_flt (k : ℕ) (x : Win) : (Module.setWin m k x).flt = m.flt := rfl
@[simp] theorem setWin_port (k : ℕ) (x : Win) : (Module.setWin m k x).port = m.port := rfl
@[simp] theorem setWin_rte (k : ℕ) (x : Win) : (Module.setWin m k x).rte = m.rte := rfl
@[simp] theorem setWin_arc (k : ℕ) (x : Win) : (Module.setWin m k x).arc = m.arc := rfl
@[simp] theorem setWin_vote (k : ℕ) (x : Win) : (Module.setWin m k x).vote = m.vote := rfl
@[simp] theorem setWin_vst (k : ℕ) (x : Win) : (Module.setWin m k x).vst = m.vst := rfl
@[simp] theorem setWin_mir (k : ℕ) (x : Win) : (Module.setWin m k x).mir = m.mir := rfl
@[simp] theorem setWin_wdg (k : ℕ) (x : Win) : (Module.setWin m k x).wdg = m.wdg := rfl
@[simp] theorem setWin_chk (k : ℕ) (x : Win) : (Module.setWin m k x).chk = m.chk := rfl
@[simp] theorem setWin_hlt (k : ℕ) (x : Win) : (Module.setWin m k x).hlt = m.hlt := rfl
@[simp] theorem setWin_cor (k : ℕ) (x : Win) : (Module.setWin m k x).cor = m.cor := rfl
@[simp] theorem setWin_pwr (k : ℕ) (x : Win) : (Module.setWin m k x).pwr = m.pwr := rfl
@[simp] theorem setWin_sec (k : ℕ) (x : Win) : (Module.setWin m k x).sec = m.sec := rfl
@[simp] theorem setWin_pci (k : ℕ) (x : Win) : (Module.setWin m k x).pci = m.pci := rfl
@[simp] theorem setWin_tray (k : ℕ) (x : Win) : (Module.setWin m k x).tray = m.tray := rfl
@[simp] theorem setWin_dbg (k : ℕ) (x : Win) : (Module.setWin m k x).dbg = m.dbg := rfl
@[simp] theorem setWin_jtag (k : ℕ) (x : Win) : (Module.setWin m k x).jtag = m.jtag := rfl
@[simp] theorem setWin_out (k : ℕ) (x : Win) : (Module.setWin m k x).out = m.out := rfl

@[simp] theorem setWin_get (k : ℕ) (x : Win) (h : rising m.win = true) : Module.win' (Module.setWin m k x) k = x := nget_nset_self h
@[simp] theorem setWin_get_ne (k : ℕ) (x : Win) (j : ℕ) (h : j ≠ k) : Module.win' (Module.setWin m k x) j = Module.win' m j := nget_nset_of_ne h

/-! ### setLnd -/

@[simp] theorem setLnd_fused (k : ℕ) (x : Lnd) : (Module.setLnd m k x).fused = m.fused := rfl
@[simp] theorem setLnd_clk (k : ℕ) (x : Lnd) : (Module.setLnd m k x).clk = m.clk := rfl
@[simp] theorem setLnd_img (k : ℕ) (x : Lnd) : (Module.setLnd m k x).img = m.img := rfl
@[simp] theorem setLnd_beat (k : ℕ) (x : Lnd) : (Module.setLnd m k x).beat = m.beat := rfl
@[simp] theorem setLnd_queues (k : ℕ) (x : Lnd) : (Module.setLnd m k x).queues = m.queues := rfl
@[simp] theorem setLnd_counts (k : ℕ) (x : Lnd) : (Module.setLnd m k x).counts = m.counts := rfl
@[simp] theorem setLnd_gates (k : ℕ) (x : Lnd) : (Module.setLnd m k x).gates = m.gates := rfl
@[simp] theorem setLnd_outstanding (k : ℕ) (x : Lnd) : (Module.setLnd m k x).outstanding = m.outstanding := rfl
@[simp] theorem setLnd_harts (k : ℕ) (x : Lnd) : (Module.setLnd m k x).harts = m.harts := rfl
@[simp] theorem setLnd_cores (k : ℕ) (x : Lnd) : (Module.setLnd m k x).cores = m.cores := rfl
@[simp] theorem setLnd_gal (k : ℕ) (x : Lnd) : (Module.setLnd m k x).gal = m.gal := rfl
@[simp] theorem setLnd_bal (k : ℕ) (x : Lnd) : (Module.setLnd m k x).bal = m.bal := rfl
@[simp] theorem setLnd_ris (k : ℕ) (x : Lnd) : (Module.setLnd m k x).ris = m.ris := rfl
@[simp] theorem setLnd_win (k : ℕ) (x : Lnd) : (Module.setLnd m k x).win = m.win := rfl
@[simp] theorem setLnd_nwl (k : ℕ) (x : Lnd) : (Module.setLnd m k x).nwl = m.nwl := rfl
@[simp] theorem setLnd_mem (k : ℕ) (x : Lnd) : (Module.setLnd m k x).mem = m.mem := rfl
@[simp] theorem setLnd_flt (k : ℕ) (x : Lnd) : (Module.setLnd m k x).flt = m.flt := rfl
@[simp] theorem setLnd_port (k : ℕ) (x : Lnd) : (Module.setLnd m k x).port = m.port := rfl
@[simp] theorem setLnd_rte (k : ℕ) (x : Lnd) : (Module.setLnd m k x).rte = m.rte := rfl
@[simp] theorem setLnd_arc (k : ℕ) (x : Lnd) : (Module.setLnd m k x).arc = m.arc := rfl
@[simp] theorem setLnd_vote (k : ℕ) (x : Lnd) : (Module.setLnd m k x).vote = m.vote := rfl
@[simp] theorem setLnd_vst (k : ℕ) (x : Lnd) : (Module.setLnd m k x).vst = m.vst := rfl
@[simp] theorem setLnd_mir (k : ℕ) (x : Lnd) : (Module.setLnd m k x).mir = m.mir := rfl
@[simp] theorem setLnd_wdg (k : ℕ) (x : Lnd) : (Module.setLnd m k x).wdg = m.wdg := rfl
@[simp] theorem setLnd_chk (k : ℕ) (x : Lnd) : (Module.setLnd m k x).chk = m.chk := rfl
@[simp] theorem setLnd_hlt (k : ℕ) (x : Lnd) : (Module.setLnd m k x).hlt = m.hlt := rfl
@[simp] theorem setLnd_cor (k : ℕ) (x : Lnd) : (Module.setLnd m k x).cor = m.cor := rfl
@[simp] theorem setLnd_pwr (k : ℕ) (x : Lnd) : (Module.setLnd m k x).pwr = m.pwr := rfl
@[simp] theorem setLnd_sec (k : ℕ) (x : Lnd) : (Module.setLnd m k x).sec = m.sec := rfl
@[simp] theorem setLnd_pci (k : ℕ) (x : Lnd) : (Module.setLnd m k x).pci = m.pci := rfl
@[simp] theorem setLnd_tray (k : ℕ) (x : Lnd) : (Module.setLnd m k x).tray = m.tray := rfl
@[simp] theorem setLnd_dbg (k : ℕ) (x : Lnd) : (Module.setLnd m k x).dbg = m.dbg := rfl
@[simp] theorem setLnd_jtag (k : ℕ) (x : Lnd) : (Module.setLnd m k x).jtag = m.jtag := rfl
@[simp] theorem setLnd_out (k : ℕ) (x : Lnd) : (Module.setLnd m k x).out = m.out := rfl

@[simp] theorem setLnd_get (k : ℕ) (x : Lnd) (h : rising m.lnd = true) : Module.lnd' (Module.setLnd m k x) k = x := nget_nset_self h
@[simp] theorem setLnd_get_ne (k : ℕ) (x : Lnd) (j : ℕ) (h : j ≠ k) : Module.lnd' (Module.setLnd m k x) j = Module.lnd' m j := nget_nset_of_ne h

/-! ### setNwl -/

@[simp] theorem setNwl_fused (k : ℕ) (x : Nwl) : (Module.setNwl m k x).fused = m.fused := rfl
@[simp] theorem setNwl_clk (k : ℕ) (x : Nwl) : (Module.setNwl m k x).clk = m.clk := rfl
@[simp] theorem setNwl_img (k : ℕ) (x : Nwl) : (Module.setNwl m k x).img = m.img := rfl
@[simp] theorem setNwl_beat (k : ℕ) (x : Nwl) : (Module.setNwl m k x).beat = m.beat := rfl
@[simp] theorem setNwl_queues (k : ℕ) (x : Nwl) : (Module.setNwl m k x).queues = m.queues := rfl
@[simp] theorem setNwl_counts (k : ℕ) (x : Nwl) : (Module.setNwl m k x).counts = m.counts := rfl
@[simp] theorem setNwl_gates (k : ℕ) (x : Nwl) : (Module.setNwl m k x).gates = m.gates := rfl
@[simp] theorem setNwl_outstanding (k : ℕ) (x : Nwl) : (Module.setNwl m k x).outstanding = m.outstanding := rfl
@[simp] theorem setNwl_harts (k : ℕ) (x : Nwl) : (Module.setNwl m k x).harts = m.harts := rfl
@[simp] theorem setNwl_cores (k : ℕ) (x : Nwl) : (Module.setNwl m k x).cores = m.cores := rfl
@[simp] theorem setNwl_gal (k : ℕ) (x : Nwl) : (Module.setNwl m k x).gal = m.gal := rfl
@[simp] theorem setNwl_bal (k : ℕ) (x : Nwl) : (Module.setNwl m k x).bal = m.bal := rfl
@[simp] theorem setNwl_ris (k : ℕ) (x : Nwl) : (Module.setNwl m k x).ris = m.ris := rfl
@[simp] theorem setNwl_win (k : ℕ) (x : Nwl) : (Module.setNwl m k x).win = m.win := rfl
@[simp] theorem setNwl_lnd (k : ℕ) (x : Nwl) : (Module.setNwl m k x).lnd = m.lnd := rfl
@[simp] theorem setNwl_mem (k : ℕ) (x : Nwl) : (Module.setNwl m k x).mem = m.mem := rfl
@[simp] theorem setNwl_flt (k : ℕ) (x : Nwl) : (Module.setNwl m k x).flt = m.flt := rfl
@[simp] theorem setNwl_port (k : ℕ) (x : Nwl) : (Module.setNwl m k x).port = m.port := rfl
@[simp] theorem setNwl_rte (k : ℕ) (x : Nwl) : (Module.setNwl m k x).rte = m.rte := rfl
@[simp] theorem setNwl_arc (k : ℕ) (x : Nwl) : (Module.setNwl m k x).arc = m.arc := rfl
@[simp] theorem setNwl_vote (k : ℕ) (x : Nwl) : (Module.setNwl m k x).vote = m.vote := rfl
@[simp] theorem setNwl_vst (k : ℕ) (x : Nwl) : (Module.setNwl m k x).vst = m.vst := rfl
@[simp] theorem setNwl_mir (k : ℕ) (x : Nwl) : (Module.setNwl m k x).mir = m.mir := rfl
@[simp] theorem setNwl_wdg (k : ℕ) (x : Nwl) : (Module.setNwl m k x).wdg = m.wdg := rfl
@[simp] theorem setNwl_chk (k : ℕ) (x : Nwl) : (Module.setNwl m k x).chk = m.chk := rfl
@[simp] theorem setNwl_hlt (k : ℕ) (x : Nwl) : (Module.setNwl m k x).hlt = m.hlt := rfl
@[simp] theorem setNwl_cor (k : ℕ) (x : Nwl) : (Module.setNwl m k x).cor = m.cor := rfl
@[simp] theorem setNwl_pwr (k : ℕ) (x : Nwl) : (Module.setNwl m k x).pwr = m.pwr := rfl
@[simp] theorem setNwl_sec (k : ℕ) (x : Nwl) : (Module.setNwl m k x).sec = m.sec := rfl
@[simp] theorem setNwl_pci (k : ℕ) (x : Nwl) : (Module.setNwl m k x).pci = m.pci := rfl
@[simp] theorem setNwl_tray (k : ℕ) (x : Nwl) : (Module.setNwl m k x).tray = m.tray := rfl
@[simp] theorem setNwl_dbg (k : ℕ) (x : Nwl) : (Module.setNwl m k x).dbg = m.dbg := rfl
@[simp] theorem setNwl_jtag (k : ℕ) (x : Nwl) : (Module.setNwl m k x).jtag = m.jtag := rfl
@[simp] theorem setNwl_out (k : ℕ) (x : Nwl) : (Module.setNwl m k x).out = m.out := rfl

@[simp] theorem setNwl_get (k : ℕ) (x : Nwl) (h : rising m.nwl = true) : Module.nwl' (Module.setNwl m k x) k = x := nget_nset_self h
@[simp] theorem setNwl_get_ne (k : ℕ) (x : Nwl) (j : ℕ) (h : j ≠ k) : Module.nwl' (Module.setNwl m k x) j = Module.nwl' m j := nget_nset_of_ne h

/-! ### setFlt -/

@[simp] theorem setFlt_fused (k : ℕ) (x : Flt) : (Module.setFlt m k x).fused = m.fused := rfl
@[simp] theorem setFlt_clk (k : ℕ) (x : Flt) : (Module.setFlt m k x).clk = m.clk := rfl
@[simp] theorem setFlt_img (k : ℕ) (x : Flt) : (Module.setFlt m k x).img = m.img := rfl
@[simp] theorem setFlt_beat (k : ℕ) (x : Flt) : (Module.setFlt m k x).beat = m.beat := rfl
@[simp] theorem setFlt_queues (k : ℕ) (x : Flt) : (Module.setFlt m k x).queues = m.queues := rfl
@[simp] theorem setFlt_counts (k : ℕ) (x : Flt) : (Module.setFlt m k x).counts = m.counts := rfl
@[simp] theorem setFlt_gates (k : ℕ) (x : Flt) : (Module.setFlt m k x).gates = m.gates := rfl
@[simp] theorem setFlt_outstanding (k : ℕ) (x : Flt) : (Module.setFlt m k x).outstanding = m.outstanding := rfl
@[simp] theorem setFlt_harts (k : ℕ) (x : Flt) : (Module.setFlt m k x).harts = m.harts := rfl
@[simp] theorem setFlt_cores (k : ℕ) (x : Flt) : (Module.setFlt m k x).cores = m.cores := rfl
@[simp] theorem setFlt_gal (k : ℕ) (x : Flt) : (Module.setFlt m k x).gal = m.gal := rfl
@[simp] theorem setFlt_bal (k : ℕ) (x : Flt) : (Module.setFlt m k x).bal = m.bal := rfl
@[simp] theorem setFlt_ris (k : ℕ) (x : Flt) : (Module.setFlt m k x).ris = m.ris := rfl
@[simp] theorem setFlt_win (k : ℕ) (x : Flt) : (Module.setFlt m k x).win = m.win := rfl
@[simp] theorem setFlt_lnd (k : ℕ) (x : Flt) : (Module.setFlt m k x).lnd = m.lnd := rfl
@[simp] theorem setFlt_nwl (k : ℕ) (x : Flt) : (Module.setFlt m k x).nwl = m.nwl := rfl
@[simp] theorem setFlt_mem (k : ℕ) (x : Flt) : (Module.setFlt m k x).mem = m.mem := rfl
@[simp] theorem setFlt_port (k : ℕ) (x : Flt) : (Module.setFlt m k x).port = m.port := rfl
@[simp] theorem setFlt_rte (k : ℕ) (x : Flt) : (Module.setFlt m k x).rte = m.rte := rfl
@[simp] theorem setFlt_arc (k : ℕ) (x : Flt) : (Module.setFlt m k x).arc = m.arc := rfl
@[simp] theorem setFlt_vote (k : ℕ) (x : Flt) : (Module.setFlt m k x).vote = m.vote := rfl
@[simp] theorem setFlt_vst (k : ℕ) (x : Flt) : (Module.setFlt m k x).vst = m.vst := rfl
@[simp] theorem setFlt_mir (k : ℕ) (x : Flt) : (Module.setFlt m k x).mir = m.mir := rfl
@[simp] theorem setFlt_wdg (k : ℕ) (x : Flt) : (Module.setFlt m k x).wdg = m.wdg := rfl
@[simp] theorem setFlt_chk (k : ℕ) (x : Flt) : (Module.setFlt m k x).chk = m.chk := rfl
@[simp] theorem setFlt_hlt (k : ℕ) (x : Flt) : (Module.setFlt m k x).hlt = m.hlt := rfl
@[simp] theorem setFlt_cor (k : ℕ) (x : Flt) : (Module.setFlt m k x).cor = m.cor := rfl
@[simp] theorem setFlt_pwr (k : ℕ) (x : Flt) : (Module.setFlt m k x).pwr = m.pwr := rfl
@[simp] theorem setFlt_sec (k : ℕ) (x : Flt) : (Module.setFlt m k x).sec = m.sec := rfl
@[simp] theorem setFlt_pci (k : ℕ) (x : Flt) : (Module.setFlt m k x).pci = m.pci := rfl
@[simp] theorem setFlt_tray (k : ℕ) (x : Flt) : (Module.setFlt m k x).tray = m.tray := rfl
@[simp] theorem setFlt_dbg (k : ℕ) (x : Flt) : (Module.setFlt m k x).dbg = m.dbg := rfl
@[simp] theorem setFlt_jtag (k : ℕ) (x : Flt) : (Module.setFlt m k x).jtag = m.jtag := rfl
@[simp] theorem setFlt_out (k : ℕ) (x : Flt) : (Module.setFlt m k x).out = m.out := rfl

@[simp] theorem setFlt_get (k : ℕ) (x : Flt) (h : rising m.flt = true) : Module.flt' (Module.setFlt m k x) k = x := nget_nset_self h
@[simp] theorem setFlt_get_ne (k : ℕ) (x : Flt) (j : ℕ) (h : j ≠ k) : Module.flt' (Module.setFlt m k x) j = Module.flt' m j := nget_nset_of_ne h

/-! ### setPort -/

@[simp] theorem setPort_fused (k : ℕ) (x : Port) : (Module.setPort m k x).fused = m.fused := rfl
@[simp] theorem setPort_clk (k : ℕ) (x : Port) : (Module.setPort m k x).clk = m.clk := rfl
@[simp] theorem setPort_img (k : ℕ) (x : Port) : (Module.setPort m k x).img = m.img := rfl
@[simp] theorem setPort_beat (k : ℕ) (x : Port) : (Module.setPort m k x).beat = m.beat := rfl
@[simp] theorem setPort_queues (k : ℕ) (x : Port) : (Module.setPort m k x).queues = m.queues := rfl
@[simp] theorem setPort_counts (k : ℕ) (x : Port) : (Module.setPort m k x).counts = m.counts := rfl
@[simp] theorem setPort_gates (k : ℕ) (x : Port) : (Module.setPort m k x).gates = m.gates := rfl
@[simp] theorem setPort_outstanding (k : ℕ) (x : Port) : (Module.setPort m k x).outstanding = m.outstanding := rfl
@[simp] theorem setPort_harts (k : ℕ) (x : Port) : (Module.setPort m k x).harts = m.harts := rfl
@[simp] theorem setPort_cores (k : ℕ) (x : Port) : (Module.setPort m k x).cores = m.cores := rfl
@[simp] theorem setPort_gal (k : ℕ) (x : Port) : (Module.setPort m k x).gal = m.gal := rfl
@[simp] theorem setPort_bal (k : ℕ) (x : Port) : (Module.setPort m k x).bal = m.bal := rfl
@[simp] theorem setPort_ris (k : ℕ) (x : Port) : (Module.setPort m k x).ris = m.ris := rfl
@[simp] theorem setPort_win (k : ℕ) (x : Port) : (Module.setPort m k x).win = m.win := rfl
@[simp] theorem setPort_lnd (k : ℕ) (x : Port) : (Module.setPort m k x).lnd = m.lnd := rfl
@[simp] theorem setPort_nwl (k : ℕ) (x : Port) : (Module.setPort m k x).nwl = m.nwl := rfl
@[simp] theorem setPort_mem (k : ℕ) (x : Port) : (Module.setPort m k x).mem = m.mem := rfl
@[simp] theorem setPort_flt (k : ℕ) (x : Port) : (Module.setPort m k x).flt = m.flt := rfl
@[simp] theorem setPort_rte (k : ℕ) (x : Port) : (Module.setPort m k x).rte = m.rte := rfl
@[simp] theorem setPort_arc (k : ℕ) (x : Port) : (Module.setPort m k x).arc = m.arc := rfl
@[simp] theorem setPort_vote (k : ℕ) (x : Port) : (Module.setPort m k x).vote = m.vote := rfl
@[simp] theorem setPort_vst (k : ℕ) (x : Port) : (Module.setPort m k x).vst = m.vst := rfl
@[simp] theorem setPort_mir (k : ℕ) (x : Port) : (Module.setPort m k x).mir = m.mir := rfl
@[simp] theorem setPort_wdg (k : ℕ) (x : Port) : (Module.setPort m k x).wdg = m.wdg := rfl
@[simp] theorem setPort_chk (k : ℕ) (x : Port) : (Module.setPort m k x).chk = m.chk := rfl
@[simp] theorem setPort_hlt (k : ℕ) (x : Port) : (Module.setPort m k x).hlt = m.hlt := rfl
@[simp] theorem setPort_cor (k : ℕ) (x : Port) : (Module.setPort m k x).cor = m.cor := rfl
@[simp] theorem setPort_pwr (k : ℕ) (x : Port) : (Module.setPort m k x).pwr = m.pwr := rfl
@[simp] theorem setPort_sec (k : ℕ) (x : Port) : (Module.setPort m k x).sec = m.sec := rfl
@[simp] theorem setPort_pci (k : ℕ) (x : Port) : (Module.setPort m k x).pci = m.pci := rfl
@[simp] theorem setPort_tray (k : ℕ) (x : Port) : (Module.setPort m k x).tray = m.tray := rfl
@[simp] theorem setPort_dbg (k : ℕ) (x : Port) : (Module.setPort m k x).dbg = m.dbg := rfl
@[simp] theorem setPort_jtag (k : ℕ) (x : Port) : (Module.setPort m k x).jtag = m.jtag := rfl
@[simp] theorem setPort_out (k : ℕ) (x : Port) : (Module.setPort m k x).out = m.out := rfl

@[simp] theorem setPort_get (k : ℕ) (x : Port) (h : rising m.port = true) : Module.port' (Module.setPort m k x) k = x := nget_nset_self h
@[simp] theorem setPort_get_ne (k : ℕ) (x : Port) (j : ℕ) (h : j ≠ k) : Module.port' (Module.setPort m k x) j = Module.port' m j := nget_nset_of_ne h

/-! ### setArc -/

@[simp] theorem setArc_fused (k : ℕ) (x : Arc) : (Module.setArc m k x).fused = m.fused := rfl
@[simp] theorem setArc_clk (k : ℕ) (x : Arc) : (Module.setArc m k x).clk = m.clk := rfl
@[simp] theorem setArc_img (k : ℕ) (x : Arc) : (Module.setArc m k x).img = m.img := rfl
@[simp] theorem setArc_beat (k : ℕ) (x : Arc) : (Module.setArc m k x).beat = m.beat := rfl
@[simp] theorem setArc_queues (k : ℕ) (x : Arc) : (Module.setArc m k x).queues = m.queues := rfl
@[simp] theorem setArc_counts (k : ℕ) (x : Arc) : (Module.setArc m k x).counts = m.counts := rfl
@[simp] theorem setArc_gates (k : ℕ) (x : Arc) : (Module.setArc m k x).gates = m.gates := rfl
@[simp] theorem setArc_outstanding (k : ℕ) (x : Arc) : (Module.setArc m k x).outstanding = m.outstanding := rfl
@[simp] theorem setArc_harts (k : ℕ) (x : Arc) : (Module.setArc m k x).harts = m.harts := rfl
@[simp] theorem setArc_cores (k : ℕ) (x : Arc) : (Module.setArc m k x).cores = m.cores := rfl
@[simp] theorem setArc_gal (k : ℕ) (x : Arc) : (Module.setArc m k x).gal = m.gal := rfl
@[simp] theorem setArc_bal (k : ℕ) (x : Arc) : (Module.setArc m k x).bal = m.bal := rfl
@[simp] theorem setArc_ris (k : ℕ) (x : Arc) : (Module.setArc m k x).ris = m.ris := rfl
@[simp] theorem setArc_win (k : ℕ) (x : Arc) : (Module.setArc m k x).win = m.win := rfl
@[simp] theorem setArc_lnd (k : ℕ) (x : Arc) : (Module.setArc m k x).lnd = m.lnd := rfl
@[simp] theorem setArc_nwl (k : ℕ) (x : Arc) : (Module.setArc m k x).nwl = m.nwl := rfl
@[simp] theorem setArc_mem (k : ℕ) (x : Arc) : (Module.setArc m k x).mem = m.mem := rfl
@[simp] theorem setArc_flt (k : ℕ) (x : Arc) : (Module.setArc m k x).flt = m.flt := rfl
@[simp] theorem setArc_port (k : ℕ) (x : Arc) : (Module.setArc m k x).port = m.port := rfl
@[simp] theorem setArc_rte (k : ℕ) (x : Arc) : (Module.setArc m k x).rte = m.rte := rfl
@[simp] theorem setArc_vote (k : ℕ) (x : Arc) : (Module.setArc m k x).vote = m.vote := rfl
@[simp] theorem setArc_vst (k : ℕ) (x : Arc) : (Module.setArc m k x).vst = m.vst := rfl
@[simp] theorem setArc_mir (k : ℕ) (x : Arc) : (Module.setArc m k x).mir = m.mir := rfl
@[simp] theorem setArc_wdg (k : ℕ) (x : Arc) : (Module.setArc m k x).wdg = m.wdg := rfl
@[simp] theorem setArc_chk (k : ℕ) (x : Arc) : (Module.setArc m k x).chk = m.chk := rfl
@[simp] theorem setArc_hlt (k : ℕ) (x : Arc) : (Module.setArc m k x).hlt = m.hlt := rfl
@[simp] theorem setArc_cor (k : ℕ) (x : Arc) : (Module.setArc m k x).cor = m.cor := rfl
@[simp] theorem setArc_pwr (k : ℕ) (x : Arc) : (Module.setArc m k x).pwr = m.pwr := rfl
@[simp] theorem setArc_sec (k : ℕ) (x : Arc) : (Module.setArc m k x).sec = m.sec := rfl
@[simp] theorem setArc_pci (k : ℕ) (x : Arc) : (Module.setArc m k x).pci = m.pci := rfl
@[simp] theorem setArc_tray (k : ℕ) (x : Arc) : (Module.setArc m k x).tray = m.tray := rfl
@[simp] theorem setArc_dbg (k : ℕ) (x : Arc) : (Module.setArc m k x).dbg = m.dbg := rfl
@[simp] theorem setArc_jtag (k : ℕ) (x : Arc) : (Module.setArc m k x).jtag = m.jtag := rfl
@[simp] theorem setArc_out (k : ℕ) (x : Arc) : (Module.setArc m k x).out = m.out := rfl

@[simp] theorem setArc_get (k : ℕ) (x : Arc) (h : rising m.arc = true) : Module.arc' (Module.setArc m k x) k = x := nget_nset_self h
@[simp] theorem setArc_get_ne (k : ℕ) (x : Arc) (j : ℕ) (h : j ≠ k) : Module.arc' (Module.setArc m k x) j = Module.arc' m j := nget_nset_of_ne h

/-! ### setVst -/

@[simp] theorem setVst_fused (k : ℕ) (x : Vst) : (Module.setVst m k x).fused = m.fused := rfl
@[simp] theorem setVst_clk (k : ℕ) (x : Vst) : (Module.setVst m k x).clk = m.clk := rfl
@[simp] theorem setVst_img (k : ℕ) (x : Vst) : (Module.setVst m k x).img = m.img := rfl
@[simp] theorem setVst_beat (k : ℕ) (x : Vst) : (Module.setVst m k x).beat = m.beat := rfl
@[simp] theorem setVst_queues (k : ℕ) (x : Vst) : (Module.setVst m k x).queues = m.queues := rfl
@[simp] theorem setVst_counts (k : ℕ) (x : Vst) : (Module.setVst m k x).counts = m.counts := rfl
@[simp] theorem setVst_gates (k : ℕ) (x : Vst) : (Module.setVst m k x).gates = m.gates := rfl
@[simp] theorem setVst_outstanding (k : ℕ) (x : Vst) : (Module.setVst m k x).outstanding = m.outstanding := rfl
@[simp] theorem setVst_harts (k : ℕ) (x : Vst) : (Module.setVst m k x).harts = m.harts := rfl
@[simp] theorem setVst_cores (k : ℕ) (x : Vst) : (Module.setVst m k x).cores = m.cores := rfl
@[simp] theorem setVst_gal (k : ℕ) (x : Vst) : (Module.setVst m k x).gal = m.gal := rfl
@[simp] theorem setVst_bal (k : ℕ) (x : Vst) : (Module.setVst m k x).bal = m.bal := rfl
@[simp] theorem setVst_ris (k : ℕ) (x : Vst) : (Module.setVst m k x).ris = m.ris := rfl
@[simp] theorem setVst_win (k : ℕ) (x : Vst) : (Module.setVst m k x).win = m.win := rfl
@[simp] theorem setVst_lnd (k : ℕ) (x : Vst) : (Module.setVst m k x).lnd = m.lnd := rfl
@[simp] theorem setVst_nwl (k : ℕ) (x : Vst) : (Module.setVst m k x).nwl = m.nwl := rfl
@[simp] theorem setVst_mem (k : ℕ) (x : Vst) : (Module.setVst m k x).mem = m.mem := rfl
@[simp] theorem setVst_flt (k : ℕ) (x : Vst) : (Module.setVst m k x).flt = m.flt := rfl
@[simp] theorem setVst_port (k : ℕ) (x : Vst) : (Module.setVst m k x).port = m.port := rfl
@[simp] theorem setVst_rte (k : ℕ) (x : Vst) : (Module.setVst m k x).rte = m.rte := rfl
@[simp] theorem setVst_arc (k : ℕ) (x : Vst) : (Module.setVst m k x).arc = m.arc := rfl
@[simp] theorem setVst_vote (k : ℕ) (x : Vst) : (Module.setVst m k x).vote = m.vote := rfl
@[simp] theorem setVst_mir (k : ℕ) (x : Vst) : (Module.setVst m k x).mir = m.mir := rfl
@[simp] theorem setVst_wdg (k : ℕ) (x : Vst) : (Module.setVst m k x).wdg = m.wdg := rfl
@[simp] theorem setVst_chk (k : ℕ) (x : Vst) : (Module.setVst m k x).chk = m.chk := rfl
@[simp] theorem setVst_hlt (k : ℕ) (x : Vst) : (Module.setVst m k x).hlt = m.hlt := rfl
@[simp] theorem setVst_cor (k : ℕ) (x : Vst) : (Module.setVst m k x).cor = m.cor := rfl
@[simp] theorem setVst_pwr (k : ℕ) (x : Vst) : (Module.setVst m k x).pwr = m.pwr := rfl
@[simp] theorem setVst_sec (k : ℕ) (x : Vst) : (Module.setVst m k x).sec = m.sec := rfl
@[simp] theorem setVst_pci (k : ℕ) (x : Vst) : (Module.setVst m k x).pci = m.pci := rfl
@[simp] theorem setVst_tray (k : ℕ) (x : Vst) : (Module.setVst m k x).tray = m.tray := rfl
@[simp] theorem setVst_dbg (k : ℕ) (x : Vst) : (Module.setVst m k x).dbg = m.dbg := rfl
@[simp] theorem setVst_jtag (k : ℕ) (x : Vst) : (Module.setVst m k x).jtag = m.jtag := rfl
@[simp] theorem setVst_out (k : ℕ) (x : Vst) : (Module.setVst m k x).out = m.out := rfl

@[simp] theorem setVst_get (k : ℕ) (x : Vst) (h : rising m.vst = true) : Module.vst' (Module.setVst m k x) k = x := nget_nset_self h
@[simp] theorem setVst_get_ne (k : ℕ) (x : Vst) (j : ℕ) (h : j ≠ k) : Module.vst' (Module.setVst m k x) j = Module.vst' m j := nget_nset_of_ne h

/-! ### setMir -/

@[simp] theorem setMir_fused (k : ℕ) (x : Mir) : (Module.setMir m k x).fused = m.fused := rfl
@[simp] theorem setMir_clk (k : ℕ) (x : Mir) : (Module.setMir m k x).clk = m.clk := rfl
@[simp] theorem setMir_img (k : ℕ) (x : Mir) : (Module.setMir m k x).img = m.img := rfl
@[simp] theorem setMir_beat (k : ℕ) (x : Mir) : (Module.setMir m k x).beat = m.beat := rfl
@[simp] theorem setMir_queues (k : ℕ) (x : Mir) : (Module.setMir m k x).queues = m.queues := rfl
@[simp] theorem setMir_counts (k : ℕ) (x : Mir) : (Module.setMir m k x).counts = m.counts := rfl
@[simp] theorem setMir_gates (k : ℕ) (x : Mir) : (Module.setMir m k x).gates = m.gates := rfl
@[simp] theorem setMir_outstanding (k : ℕ) (x : Mir) : (Module.setMir m k x).outstanding = m.outstanding := rfl
@[simp] theorem setMir_harts (k : ℕ) (x : Mir) : (Module.setMir m k x).harts = m.harts := rfl
@[simp] theorem setMir_cores (k : ℕ) (x : Mir) : (Module.setMir m k x).cores = m.cores := rfl
@[simp] theorem setMir_gal (k : ℕ) (x : Mir) : (Module.setMir m k x).gal = m.gal := rfl
@[simp] theorem setMir_bal (k : ℕ) (x : Mir) : (Module.setMir m k x).bal = m.bal := rfl
@[simp] theorem setMir_ris (k : ℕ) (x : Mir) : (Module.setMir m k x).ris = m.ris := rfl
@[simp] theorem setMir_win (k : ℕ) (x : Mir) : (Module.setMir m k x).win = m.win := rfl
@[simp] theorem setMir_lnd (k : ℕ) (x : Mir) : (Module.setMir m k x).lnd = m.lnd := rfl
@[simp] theorem setMir_nwl (k : ℕ) (x : Mir) : (Module.setMir m k x).nwl = m.nwl := rfl
@[simp] theorem setMir_mem (k : ℕ) (x : Mir) : (Module.setMir m k x).mem = m.mem := rfl
@[simp] theorem setMir_flt (k : ℕ) (x : Mir) : (Module.setMir m k x).flt = m.flt := rfl
@[simp] theorem setMir_port (k : ℕ) (x : Mir) : (Module.setMir m k x).port = m.port := rfl
@[simp] theorem setMir_rte (k : ℕ) (x : Mir) : (Module.setMir m k x).rte = m.rte := rfl
@[simp] theorem setMir_arc (k : ℕ) (x : Mir) : (Module.setMir m k x).arc = m.arc := rfl
@[simp] theorem setMir_vote (k : ℕ) (x : Mir) : (Module.setMir m k x).vote = m.vote := rfl
@[simp] theorem setMir_vst (k : ℕ) (x : Mir) : (Module.setMir m k x).vst = m.vst := rfl
@[simp] theorem setMir_wdg (k : ℕ) (x : Mir) : (Module.setMir m k x).wdg = m.wdg := rfl
@[simp] theorem setMir_chk (k : ℕ) (x : Mir) : (Module.setMir m k x).chk = m.chk := rfl
@[simp] theorem setMir_hlt (k : ℕ) (x : Mir) : (Module.setMir m k x).hlt = m.hlt := rfl
@[simp] theorem setMir_cor (k : ℕ) (x : Mir) : (Module.setMir m k x).cor = m.cor := rfl
@[simp] theorem setMir_pwr (k : ℕ) (x : Mir) : (Module.setMir m k x).pwr = m.pwr := rfl
@[simp] theorem setMir_sec (k : ℕ) (x : Mir) : (Module.setMir m k x).sec = m.sec := rfl
@[simp] theorem setMir_pci (k : ℕ) (x : Mir) : (Module.setMir m k x).pci = m.pci := rfl
@[simp] theorem setMir_tray (k : ℕ) (x : Mir) : (Module.setMir m k x).tray = m.tray := rfl
@[simp] theorem setMir_dbg (k : ℕ) (x : Mir) : (Module.setMir m k x).dbg = m.dbg := rfl
@[simp] theorem setMir_jtag (k : ℕ) (x : Mir) : (Module.setMir m k x).jtag = m.jtag := rfl
@[simp] theorem setMir_out (k : ℕ) (x : Mir) : (Module.setMir m k x).out = m.out := rfl

@[simp] theorem setMir_get (k : ℕ) (x : Mir) (h : rising m.mir = true) : Module.mir' (Module.setMir m k x) k = x := nget_nset_self h
@[simp] theorem setMir_get_ne (k : ℕ) (x : Mir) (j : ℕ) (h : j ≠ k) : Module.mir' (Module.setMir m k x) j = Module.mir' m j := nget_nset_of_ne h

/-! ### setChk -/

@[simp] theorem setChk_fused (k : ℕ) (x : Chk) : (Module.setChk m k x).fused = m.fused := rfl
@[simp] theorem setChk_clk (k : ℕ) (x : Chk) : (Module.setChk m k x).clk = m.clk := rfl
@[simp] theorem setChk_img (k : ℕ) (x : Chk) : (Module.setChk m k x).img = m.img := rfl
@[simp] theorem setChk_beat (k : ℕ) (x : Chk) : (Module.setChk m k x).beat = m.beat := rfl
@[simp] theorem setChk_queues (k : ℕ) (x : Chk) : (Module.setChk m k x).queues = m.queues := rfl
@[simp] theorem setChk_counts (k : ℕ) (x : Chk) : (Module.setChk m k x).counts = m.counts := rfl
@[simp] theorem setChk_gates (k : ℕ) (x : Chk) : (Module.setChk m k x).gates = m.gates := rfl
@[simp] theorem setChk_outstanding (k : ℕ) (x : Chk) : (Module.setChk m k x).outstanding = m.outstanding := rfl
@[simp] theorem setChk_harts (k : ℕ) (x : Chk) : (Module.setChk m k x).harts = m.harts := rfl
@[simp] theorem setChk_cores (k : ℕ) (x : Chk) : (Module.setChk m k x).cores = m.cores := rfl
@[simp] theorem setChk_gal (k : ℕ) (x : Chk) : (Module.setChk m k x).gal = m.gal := rfl
@[simp] theorem setChk_bal (k : ℕ) (x : Chk) : (Module.setChk m k x).bal = m.bal := rfl
@[simp] theorem setChk_ris (k : ℕ) (x : Chk) : (Module.setChk m k x).ris = m.ris := rfl
@[simp] theorem setChk_win (k : ℕ) (x : Chk) : (Module.setChk m k x).win = m.win := rfl
@[simp] theorem setChk_lnd (k : ℕ) (x : Chk) : (Module.setChk m k x).lnd = m.lnd := rfl
@[simp] theorem setChk_nwl (k : ℕ) (x : Chk) : (Module.setChk m k x).nwl = m.nwl := rfl
@[simp] theorem setChk_mem (k : ℕ) (x : Chk) : (Module.setChk m k x).mem = m.mem := rfl
@[simp] theorem setChk_flt (k : ℕ) (x : Chk) : (Module.setChk m k x).flt = m.flt := rfl
@[simp] theorem setChk_port (k : ℕ) (x : Chk) : (Module.setChk m k x).port = m.port := rfl
@[simp] theorem setChk_rte (k : ℕ) (x : Chk) : (Module.setChk m k x).rte = m.rte := rfl
@[simp] theorem setChk_arc (k : ℕ) (x : Chk) : (Module.setChk m k x).arc = m.arc := rfl
@[simp] theorem setChk_vote (k : ℕ) (x : Chk) : (Module.setChk m k x).vote = m.vote := rfl
@[simp] theorem setChk_vst (k : ℕ) (x : Chk) : (Module.setChk m k x).vst = m.vst := rfl
@[simp] theorem setChk_mir (k : ℕ) (x : Chk) : (Module.setChk m k x).mir = m.mir := rfl
@[simp] theorem setChk_wdg (k : ℕ) (x : Chk) : (Module.setChk m k x).wdg = m.wdg := rfl
@[simp] theorem setChk_hlt (k : ℕ) (x : Chk) : (Module.setChk m k x).hlt = m.hlt := rfl
@[simp] theorem setChk_cor (k : ℕ) (x : Chk) : (Module.setChk m k x).cor = m.cor := rfl
@[simp] theorem setChk_pwr (k : ℕ) (x : Chk) : (Module.setChk m k x).pwr = m.pwr := rfl
@[simp] theorem setChk_sec (k : ℕ) (x : Chk) : (Module.setChk m k x).sec = m.sec := rfl
@[simp] theorem setChk_pci (k : ℕ) (x : Chk) : (Module.setChk m k x).pci = m.pci := rfl
@[simp] theorem setChk_tray (k : ℕ) (x : Chk) : (Module.setChk m k x).tray = m.tray := rfl
@[simp] theorem setChk_dbg (k : ℕ) (x : Chk) : (Module.setChk m k x).dbg = m.dbg := rfl
@[simp] theorem setChk_jtag (k : ℕ) (x : Chk) : (Module.setChk m k x).jtag = m.jtag := rfl
@[simp] theorem setChk_out (k : ℕ) (x : Chk) : (Module.setChk m k x).out = m.out := rfl

@[simp] theorem setChk_get (k : ℕ) (x : Chk) (h : rising m.chk = true) : Module.chk' (Module.setChk m k x) k = x := nget_nset_self h
@[simp] theorem setChk_get_ne (k : ℕ) (x : Chk) (j : ℕ) (h : j ≠ k) : Module.chk' (Module.setChk m k x) j = Module.chk' m j := nget_nset_of_ne h

/-! ### setCor -/

@[simp] theorem setCor_fused (k : ℕ) (x : Cor) : (Module.setCor m k x).fused = m.fused := rfl
@[simp] theorem setCor_clk (k : ℕ) (x : Cor) : (Module.setCor m k x).clk = m.clk := rfl
@[simp] theorem setCor_img (k : ℕ) (x : Cor) : (Module.setCor m k x).img = m.img := rfl
@[simp] theorem setCor_beat (k : ℕ) (x : Cor) : (Module.setCor m k x).beat = m.beat := rfl
@[simp] theorem setCor_queues (k : ℕ) (x : Cor) : (Module.setCor m k x).queues = m.queues := rfl
@[simp] theorem setCor_counts (k : ℕ) (x : Cor) : (Module.setCor m k x).counts = m.counts := rfl
@[simp] theorem setCor_gates (k : ℕ) (x : Cor) : (Module.setCor m k x).gates = m.gates := rfl
@[simp] theorem setCor_outstanding (k : ℕ) (x : Cor) : (Module.setCor m k x).outstanding = m.outstanding := rfl
@[simp] theorem setCor_harts (k : ℕ) (x : Cor) : (Module.setCor m k x).harts = m.harts := rfl
@[simp] theorem setCor_cores (k : ℕ) (x : Cor) : (Module.setCor m k x).cores = m.cores := rfl
@[simp] theorem setCor_gal (k : ℕ) (x : Cor) : (Module.setCor m k x).gal = m.gal := rfl
@[simp] theorem setCor_bal (k : ℕ) (x : Cor) : (Module.setCor m k x).bal = m.bal := rfl
@[simp] theorem setCor_ris (k : ℕ) (x : Cor) : (Module.setCor m k x).ris = m.ris := rfl
@[simp] theorem setCor_win (k : ℕ) (x : Cor) : (Module.setCor m k x).win = m.win := rfl
@[simp] theorem setCor_lnd (k : ℕ) (x : Cor) : (Module.setCor m k x).lnd = m.lnd := rfl
@[simp] theorem setCor_nwl (k : ℕ) (x : Cor) : (Module.setCor m k x).nwl = m.nwl := rfl
@[simp] theorem setCor_mem (k : ℕ) (x : Cor) : (Module.setCor m k x).mem = m.mem := rfl
@[simp] theorem setCor_flt (k : ℕ) (x : Cor) : (Module.setCor m k x).flt = m.flt := rfl
@[simp] theorem setCor_port (k : ℕ) (x : Cor) : (Module.setCor m k x).port = m.port := rfl
@[simp] theorem setCor_rte (k : ℕ) (x : Cor) : (Module.setCor m k x).rte = m.rte := rfl
@[simp] theorem setCor_arc (k : ℕ) (x : Cor) : (Module.setCor m k x).arc = m.arc := rfl
@[simp] theorem setCor_vote (k : ℕ) (x : Cor) : (Module.setCor m k x).vote = m.vote := rfl
@[simp] theorem setCor_vst (k : ℕ) (x : Cor) : (Module.setCor m k x).vst = m.vst := rfl
@[simp] theorem setCor_mir (k : ℕ) (x : Cor) : (Module.setCor m k x).mir = m.mir := rfl
@[simp] theorem setCor_wdg (k : ℕ) (x : Cor) : (Module.setCor m k x).wdg = m.wdg := rfl
@[simp] theorem setCor_chk (k : ℕ) (x : Cor) : (Module.setCor m k x).chk = m.chk := rfl
@[simp] theorem setCor_hlt (k : ℕ) (x : Cor) : (Module.setCor m k x).hlt = m.hlt := rfl
@[simp] theorem setCor_pwr (k : ℕ) (x : Cor) : (Module.setCor m k x).pwr = m.pwr := rfl
@[simp] theorem setCor_sec (k : ℕ) (x : Cor) : (Module.setCor m k x).sec = m.sec := rfl
@[simp] theorem setCor_pci (k : ℕ) (x : Cor) : (Module.setCor m k x).pci = m.pci := rfl
@[simp] theorem setCor_tray (k : ℕ) (x : Cor) : (Module.setCor m k x).tray = m.tray := rfl
@[simp] theorem setCor_dbg (k : ℕ) (x : Cor) : (Module.setCor m k x).dbg = m.dbg := rfl
@[simp] theorem setCor_jtag (k : ℕ) (x : Cor) : (Module.setCor m k x).jtag = m.jtag := rfl
@[simp] theorem setCor_out (k : ℕ) (x : Cor) : (Module.setCor m k x).out = m.out := rfl

@[simp] theorem setCor_get (k : ℕ) (x : Cor) (h : rising m.cor = true) : Module.cor' (Module.setCor m k x) k = x := nget_nset_self h
@[simp] theorem setCor_get_ne (k : ℕ) (x : Cor) (j : ℕ) (h : j ≠ k) : Module.cor' (Module.setCor m k x) j = Module.cor' m j := nget_nset_of_ne h

/-! ### setCache -/

@[simp] theorem setCache_fused (k : ℕ) (x : PCache) : (Module.setCache m k x).fused = m.fused := rfl
@[simp] theorem setCache_clk (k : ℕ) (x : PCache) : (Module.setCache m k x).clk = m.clk := rfl
@[simp] theorem setCache_img (k : ℕ) (x : PCache) : (Module.setCache m k x).img = m.img := rfl
@[simp] theorem setCache_beat (k : ℕ) (x : PCache) : (Module.setCache m k x).beat = m.beat := rfl
@[simp] theorem setCache_queues (k : ℕ) (x : PCache) : (Module.setCache m k x).queues = m.queues := rfl
@[simp] theorem setCache_counts (k : ℕ) (x : PCache) : (Module.setCache m k x).counts = m.counts := rfl
@[simp] theorem setCache_gates (k : ℕ) (x : PCache) : (Module.setCache m k x).gates = m.gates := rfl
@[simp] theorem setCache_outstanding (k : ℕ) (x : PCache) : (Module.setCache m k x).outstanding = m.outstanding := rfl
@[simp] theorem setCache_harts (k : ℕ) (x : PCache) : (Module.setCache m k x).harts = m.harts := rfl
@[simp] theorem setCache_cores (k : ℕ) (x : PCache) : (Module.setCache m k x).cores = m.cores := rfl
@[simp] theorem setCache_gal (k : ℕ) (x : PCache) : (Module.setCache m k x).gal = m.gal := rfl
@[simp] theorem setCache_bal (k : ℕ) (x : PCache) : (Module.setCache m k x).bal = m.bal := rfl
@[simp] theorem setCache_ris (k : ℕ) (x : PCache) : (Module.setCache m k x).ris = m.ris := rfl
@[simp] theorem setCache_win (k : ℕ) (x : PCache) : (Module.setCache m k x).win = m.win := rfl
@[simp] theorem setCache_lnd (k : ℕ) (x : PCache) : (Module.setCache m k x).lnd = m.lnd := rfl
@[simp] theorem setCache_nwl (k : ℕ) (x : PCache) : (Module.setCache m k x).nwl = m.nwl := rfl
@[simp] theorem setCache_flt (k : ℕ) (x : PCache) : (Module.setCache m k x).flt = m.flt := rfl
@[simp] theorem setCache_port (k : ℕ) (x : PCache) : (Module.setCache m k x).port = m.port := rfl
@[simp] theorem setCache_rte (k : ℕ) (x : PCache) : (Module.setCache m k x).rte = m.rte := rfl
@[simp] theorem setCache_arc (k : ℕ) (x : PCache) : (Module.setCache m k x).arc = m.arc := rfl
@[simp] theorem setCache_vote (k : ℕ) (x : PCache) : (Module.setCache m k x).vote = m.vote := rfl
@[simp] theorem setCache_vst (k : ℕ) (x : PCache) : (Module.setCache m k x).vst = m.vst := rfl
@[simp] theorem setCache_mir (k : ℕ) (x : PCache) : (Module.setCache m k x).mir = m.mir := rfl
@[simp] theorem setCache_wdg (k : ℕ) (x : PCache) : (Module.setCache m k x).wdg = m.wdg := rfl
@[simp] theorem setCache_chk (k : ℕ) (x : PCache) : (Module.setCache m k x).chk = m.chk := rfl
@[simp] theorem setCache_hlt (k : ℕ) (x : PCache) : (Module.setCache m k x).hlt = m.hlt := rfl
@[simp] theorem setCache_cor (k : ℕ) (x : PCache) : (Module.setCache m k x).cor = m.cor := rfl
@[simp] theorem setCache_pwr (k : ℕ) (x : PCache) : (Module.setCache m k x).pwr = m.pwr := rfl
@[simp] theorem setCache_sec (k : ℕ) (x : PCache) : (Module.setCache m k x).sec = m.sec := rfl
@[simp] theorem setCache_pci (k : ℕ) (x : PCache) : (Module.setCache m k x).pci = m.pci := rfl
@[simp] theorem setCache_tray (k : ℕ) (x : PCache) : (Module.setCache m k x).tray = m.tray := rfl
@[simp] theorem setCache_dbg (k : ℕ) (x : PCache) : (Module.setCache m k x).dbg = m.dbg := rfl
@[simp] theorem setCache_jtag (k : ℕ) (x : PCache) : (Module.setCache m k x).jtag = m.jtag := rfl
@[simp] theorem setCache_out (k : ℕ) (x : PCache) : (Module.setCache m k x).out = m.out := rfl

/-! ### setHallW -/

@[simp] theorem setHallW_fused (k : ℕ) (x : HallWing) : (Module.setHallW m k x).fused = m.fused := rfl
@[simp] theorem setHallW_clk (k : ℕ) (x : HallWing) : (Module.setHallW m k x).clk = m.clk := rfl
@[simp] theorem setHallW_img (k : ℕ) (x : HallWing) : (Module.setHallW m k x).img = m.img := rfl
@[simp] theorem setHallW_beat (k : ℕ) (x : HallWing) : (Module.setHallW m k x).beat = m.beat := rfl
@[simp] theorem setHallW_queues (k : ℕ) (x : HallWing) : (Module.setHallW m k x).queues = m.queues := rfl
@[simp] theorem setHallW_counts (k : ℕ) (x : HallWing) : (Module.setHallW m k x).counts = m.counts := rfl
@[simp] theorem setHallW_gates (k : ℕ) (x : HallWing) : (Module.setHallW m k x).gates = m.gates := rfl
@[simp] theorem setHallW_outstanding (k : ℕ) (x : HallWing) : (Module.setHallW m k x).outstanding = m.outstanding := rfl
@[simp] theorem setHallW_harts (k : ℕ) (x : HallWing) : (Module.setHallW m k x).harts = m.harts := rfl
@[simp] theorem setHallW_cores (k : ℕ) (x : HallWing) : (Module.setHallW m k x).cores = m.cores := rfl
@[simp] theorem setHallW_gal (k : ℕ) (x : HallWing) : (Module.setHallW m k x).gal = m.gal := rfl
@[simp] theorem setHallW_bal (k : ℕ) (x : HallWing) : (Module.setHallW m k x).bal = m.bal := rfl
@[simp] theorem setHallW_ris (k : ℕ) (x : HallWing) : (Module.setHallW m k x).ris = m.ris := rfl
@[simp] theorem setHallW_win (k : ℕ) (x : HallWing) : (Module.setHallW m k x).win = m.win := rfl
@[simp] theorem setHallW_lnd (k : ℕ) (x : HallWing) : (Module.setHallW m k x).lnd = m.lnd := rfl
@[simp] theorem setHallW_nwl (k : ℕ) (x : HallWing) : (Module.setHallW m k x).nwl = m.nwl := rfl
@[simp] theorem setHallW_flt (k : ℕ) (x : HallWing) : (Module.setHallW m k x).flt = m.flt := rfl
@[simp] theorem setHallW_port (k : ℕ) (x : HallWing) : (Module.setHallW m k x).port = m.port := rfl
@[simp] theorem setHallW_rte (k : ℕ) (x : HallWing) : (Module.setHallW m k x).rte = m.rte := rfl
@[simp] theorem setHallW_arc (k : ℕ) (x : HallWing) : (Module.setHallW m k x).arc = m.arc := rfl
@[simp] theorem setHallW_vote (k : ℕ) (x : HallWing) : (Module.setHallW m k x).vote = m.vote := rfl
@[simp] theorem setHallW_vst (k : ℕ) (x : HallWing) : (Module.setHallW m k x).vst = m.vst := rfl
@[simp] theorem setHallW_mir (k : ℕ) (x : HallWing) : (Module.setHallW m k x).mir = m.mir := rfl
@[simp] theorem setHallW_wdg (k : ℕ) (x : HallWing) : (Module.setHallW m k x).wdg = m.wdg := rfl
@[simp] theorem setHallW_chk (k : ℕ) (x : HallWing) : (Module.setHallW m k x).chk = m.chk := rfl
@[simp] theorem setHallW_hlt (k : ℕ) (x : HallWing) : (Module.setHallW m k x).hlt = m.hlt := rfl
@[simp] theorem setHallW_cor (k : ℕ) (x : HallWing) : (Module.setHallW m k x).cor = m.cor := rfl
@[simp] theorem setHallW_pwr (k : ℕ) (x : HallWing) : (Module.setHallW m k x).pwr = m.pwr := rfl
@[simp] theorem setHallW_sec (k : ℕ) (x : HallWing) : (Module.setHallW m k x).sec = m.sec := rfl
@[simp] theorem setHallW_pci (k : ℕ) (x : HallWing) : (Module.setHallW m k x).pci = m.pci := rfl
@[simp] theorem setHallW_tray (k : ℕ) (x : HallWing) : (Module.setHallW m k x).tray = m.tray := rfl
@[simp] theorem setHallW_dbg (k : ℕ) (x : HallWing) : (Module.setHallW m k x).dbg = m.dbg := rfl
@[simp] theorem setHallW_jtag (k : ℕ) (x : HallWing) : (Module.setHallW m k x).jtag = m.jtag := rfl
@[simp] theorem setHallW_out (k : ℕ) (x : HallWing) : (Module.setHallW m k x).out = m.out := rfl

/-! ### setEvr -/

@[simp] theorem setEvr_fused (k : ℕ) (x : Evr) : (Module.setEvr m k x).fused = m.fused := rfl
@[simp] theorem setEvr_clk (k : ℕ) (x : Evr) : (Module.setEvr m k x).clk = m.clk := rfl
@[simp] theorem setEvr_img (k : ℕ) (x : Evr) : (Module.setEvr m k x).img = m.img := rfl
@[simp] theorem setEvr_beat (k : ℕ) (x : Evr) : (Module.setEvr m k x).beat = m.beat := rfl
@[simp] theorem setEvr_queues (k : ℕ) (x : Evr) : (Module.setEvr m k x).queues = m.queues := rfl
@[simp] theorem setEvr_counts (k : ℕ) (x : Evr) : (Module.setEvr m k x).counts = m.counts := rfl
@[simp] theorem setEvr_gates (k : ℕ) (x : Evr) : (Module.setEvr m k x).gates = m.gates := rfl
@[simp] theorem setEvr_outstanding (k : ℕ) (x : Evr) : (Module.setEvr m k x).outstanding = m.outstanding := rfl
@[simp] theorem setEvr_harts (k : ℕ) (x : Evr) : (Module.setEvr m k x).harts = m.harts := rfl
@[simp] theorem setEvr_cores (k : ℕ) (x : Evr) : (Module.setEvr m k x).cores = m.cores := rfl
@[simp] theorem setEvr_gal (k : ℕ) (x : Evr) : (Module.setEvr m k x).gal = m.gal := rfl
@[simp] theorem setEvr_bal (k : ℕ) (x : Evr) : (Module.setEvr m k x).bal = m.bal := rfl
@[simp] theorem setEvr_ris (k : ℕ) (x : Evr) : (Module.setEvr m k x).ris = m.ris := rfl
@[simp] theorem setEvr_win (k : ℕ) (x : Evr) : (Module.setEvr m k x).win = m.win := rfl
@[simp] theorem setEvr_lnd (k : ℕ) (x : Evr) : (Module.setEvr m k x).lnd = m.lnd := rfl
@[simp] theorem setEvr_nwl (k : ℕ) (x : Evr) : (Module.setEvr m k x).nwl = m.nwl := rfl
@[simp] theorem setEvr_mem (k : ℕ) (x : Evr) : (Module.setEvr m k x).mem = m.mem := rfl
@[simp] theorem setEvr_flt (k : ℕ) (x : Evr) : (Module.setEvr m k x).flt = m.flt := rfl
@[simp] theorem setEvr_port (k : ℕ) (x : Evr) : (Module.setEvr m k x).port = m.port := rfl
@[simp] theorem setEvr_rte (k : ℕ) (x : Evr) : (Module.setEvr m k x).rte = m.rte := rfl
@[simp] theorem setEvr_arc (k : ℕ) (x : Evr) : (Module.setEvr m k x).arc = m.arc := rfl
@[simp] theorem setEvr_vote (k : ℕ) (x : Evr) : (Module.setEvr m k x).vote = m.vote := rfl
@[simp] theorem setEvr_vst (k : ℕ) (x : Evr) : (Module.setEvr m k x).vst = m.vst := rfl
@[simp] theorem setEvr_mir (k : ℕ) (x : Evr) : (Module.setEvr m k x).mir = m.mir := rfl
@[simp] theorem setEvr_wdg (k : ℕ) (x : Evr) : (Module.setEvr m k x).wdg = m.wdg := rfl
@[simp] theorem setEvr_chk (k : ℕ) (x : Evr) : (Module.setEvr m k x).chk = m.chk := rfl
@[simp] theorem setEvr_hlt (k : ℕ) (x : Evr) : (Module.setEvr m k x).hlt = m.hlt := rfl
@[simp] theorem setEvr_cor (k : ℕ) (x : Evr) : (Module.setEvr m k x).cor = m.cor := rfl
@[simp] theorem setEvr_pwr (k : ℕ) (x : Evr) : (Module.setEvr m k x).pwr = m.pwr := rfl
@[simp] theorem setEvr_sec (k : ℕ) (x : Evr) : (Module.setEvr m k x).sec = m.sec := rfl
@[simp] theorem setEvr_tray (k : ℕ) (x : Evr) : (Module.setEvr m k x).tray = m.tray := rfl
@[simp] theorem setEvr_dbg (k : ℕ) (x : Evr) : (Module.setEvr m k x).dbg = m.dbg := rfl
@[simp] theorem setEvr_jtag (k : ℕ) (x : Evr) : (Module.setEvr m k x).jtag = m.jtag := rfl
@[simp] theorem setEvr_out (k : ℕ) (x : Evr) : (Module.setEvr m k x).out = m.out := rfl

/-! ### emit -/

@[simp] theorem emit_fused (o : Output) : (emit o m).fused = m.fused := rfl
@[simp] theorem emit_clk (o : Output) : (emit o m).clk = m.clk := rfl
@[simp] theorem emit_img (o : Output) : (emit o m).img = m.img := rfl
@[simp] theorem emit_beat (o : Output) : (emit o m).beat = m.beat := rfl
@[simp] theorem emit_queues (o : Output) : (emit o m).queues = m.queues := rfl
@[simp] theorem emit_counts (o : Output) : (emit o m).counts = m.counts := rfl
@[simp] theorem emit_gates (o : Output) : (emit o m).gates = m.gates := rfl
@[simp] theorem emit_outstanding (o : Output) : (emit o m).outstanding = m.outstanding := rfl
@[simp] theorem emit_harts (o : Output) : (emit o m).harts = m.harts := rfl
@[simp] theorem emit_cores (o : Output) : (emit o m).cores = m.cores := rfl
@[simp] theorem emit_gal (o : Output) : (emit o m).gal = m.gal := rfl
@[simp] theorem emit_bal (o : Output) : (emit o m).bal = m.bal := rfl
@[simp] theorem emit_ris (o : Output) : (emit o m).ris = m.ris := rfl
@[simp] theorem emit_win (o : Output) : (emit o m).win = m.win := rfl
@[simp] theorem emit_lnd (o : Output) : (emit o m).lnd = m.lnd := rfl
@[simp] theorem emit_nwl (o : Output) : (emit o m).nwl = m.nwl := rfl
@[simp] theorem emit_mem (o : Output) : (emit o m).mem = m.mem := rfl
@[simp] theorem emit_flt (o : Output) : (emit o m).flt = m.flt := rfl
@[simp] theorem emit_port (o : Output) : (emit o m).port = m.port := rfl
@[simp] theorem emit_rte (o : Output) : (emit o m).rte = m.rte := rfl
@[simp] theorem emit_arc (o : Output) : (emit o m).arc = m.arc := rfl
@[simp] theorem emit_vote (o : Output) : (emit o m).vote = m.vote := rfl
@[simp] theorem emit_vst (o : Output) : (emit o m).vst = m.vst := rfl
@[simp] theorem emit_mir (o : Output) : (emit o m).mir = m.mir := rfl
@[simp] theorem emit_wdg (o : Output) : (emit o m).wdg = m.wdg := rfl
@[simp] theorem emit_chk (o : Output) : (emit o m).chk = m.chk := rfl
@[simp] theorem emit_hlt (o : Output) : (emit o m).hlt = m.hlt := rfl
@[simp] theorem emit_cor (o : Output) : (emit o m).cor = m.cor := rfl
@[simp] theorem emit_pwr (o : Output) : (emit o m).pwr = m.pwr := rfl
@[simp] theorem emit_sec (o : Output) : (emit o m).sec = m.sec := rfl
@[simp] theorem emit_pci (o : Output) : (emit o m).pci = m.pci := rfl
@[simp] theorem emit_tray (o : Output) : (emit o m).tray = m.tray := rfl
@[simp] theorem emit_dbg (o : Output) : (emit o m).dbg = m.dbg := rfl
@[simp] theorem emit_jtag (o : Output) : (emit o m).jtag = m.jtag := rfl

/-! ### setQueue -/

@[simp] theorem setQueue_fused (k : QKey) (l : List Desc) : (setQueue k l m).fused = m.fused := rfl
@[simp] theorem setQueue_clk (k : QKey) (l : List Desc) : (setQueue k l m).clk = m.clk := rfl
@[simp] theorem setQueue_img (k : QKey) (l : List Desc) : (setQueue k l m).img = m.img := rfl
@[simp] theorem setQueue_beat (k : QKey) (l : List Desc) : (setQueue k l m).beat = m.beat := rfl
@[simp] theorem setQueue_counts (k : QKey) (l : List Desc) : (setQueue k l m).counts = m.counts := rfl
@[simp] theorem setQueue_gates (k : QKey) (l : List Desc) : (setQueue k l m).gates = m.gates := rfl
@[simp] theorem setQueue_outstanding (k : QKey) (l : List Desc) : (setQueue k l m).outstanding = m.outstanding := rfl
@[simp] theorem setQueue_harts (k : QKey) (l : List Desc) : (setQueue k l m).harts = m.harts := rfl
@[simp] theorem setQueue_cores (k : QKey) (l : List Desc) : (setQueue k l m).cores = m.cores := rfl
@[simp] theorem setQueue_gal (k : QKey) (l : List Desc) : (setQueue k l m).gal = m.gal := rfl
@[simp] theorem setQueue_bal (k : QKey) (l : List Desc) : (setQueue k l m).bal = m.bal := rfl
@[simp] theorem setQueue_ris (k : QKey) (l : List Desc) : (setQueue k l m).ris = m.ris := rfl
@[simp] theorem setQueue_win (k : QKey) (l : List Desc) : (setQueue k l m).win = m.win := rfl
@[simp] theorem setQueue_lnd (k : QKey) (l : List Desc) : (setQueue k l m).lnd = m.lnd := rfl
@[simp] theorem setQueue_nwl (k : QKey) (l : List Desc) : (setQueue k l m).nwl = m.nwl := rfl
@[simp] theorem setQueue_mem (k : QKey) (l : List Desc) : (setQueue k l m).mem = m.mem := rfl
@[simp] theorem setQueue_flt (k : QKey) (l : List Desc) : (setQueue k l m).flt = m.flt := rfl
@[simp] theorem setQueue_port (k : QKey) (l : List Desc) : (setQueue k l m).port = m.port := rfl
@[simp] theorem setQueue_rte (k : QKey) (l : List Desc) : (setQueue k l m).rte = m.rte := rfl
@[simp] theorem setQueue_arc (k : QKey) (l : List Desc) : (setQueue k l m).arc = m.arc := rfl
@[simp] theorem setQueue_vote (k : QKey) (l : List Desc) : (setQueue k l m).vote = m.vote := rfl
@[simp] theorem setQueue_vst (k : QKey) (l : List Desc) : (setQueue k l m).vst = m.vst := rfl
@[simp] theorem setQueue_mir (k : QKey) (l : List Desc) : (setQueue k l m).mir = m.mir := rfl
@[simp] theorem setQueue_wdg (k : QKey) (l : List Desc) : (setQueue k l m).wdg = m.wdg := rfl
@[simp] theorem setQueue_chk (k : QKey) (l : List Desc) : (setQueue k l m).chk = m.chk := rfl
@[simp] theorem setQueue_hlt (k : QKey) (l : List Desc) : (setQueue k l m).hlt = m.hlt := rfl
@[simp] theorem setQueue_cor (k : QKey) (l : List Desc) : (setQueue k l m).cor = m.cor := rfl
@[simp] theorem setQueue_pwr (k : QKey) (l : List Desc) : (setQueue k l m).pwr = m.pwr := rfl
@[simp] theorem setQueue_sec (k : QKey) (l : List Desc) : (setQueue k l m).sec = m.sec := rfl
@[simp] theorem setQueue_pci (k : QKey) (l : List Desc) : (setQueue k l m).pci = m.pci := rfl
@[simp] theorem setQueue_tray (k : QKey) (l : List Desc) : (setQueue k l m).tray = m.tray := rfl
@[simp] theorem setQueue_dbg (k : QKey) (l : List Desc) : (setQueue k l m).dbg = m.dbg := rfl
@[simp] theorem setQueue_jtag (k : QKey) (l : List Desc) : (setQueue k l m).jtag = m.jtag := rfl
@[simp] theorem setQueue_out (k : QKey) (l : List Desc) : (setQueue k l m).out = m.out := rfl

@[simp] theorem emit_out_eq (o : Output) : (emit o m).out = o :: m.out := rfl

/-! ### Queues -/

theorem alGet_alSet {κ α : Type} [DecidableEq κ] {d v : α} {l : List (κ × α)} {k : κ} : alGet d (alSet l k v) k = v := by
  induction l with
  | nil => simp [alSet, alGet]
  | cons x r ih =>
    obtain ⟨k', v'⟩ := x
    by_cases h : k' = k <;> simp [alSet, alGet, h, ih]

theorem alGet_alSet_ne {κ α : Type} [DecidableEq κ] {d v : α} {l : List (κ × α)} {k j : κ} (h : j ≠ k) :
    alGet d (alSet l k v) j = alGet d l j := by
  induction l with
  | nil => simp [alSet, alGet, Ne.symm h]
  | cons x r ih =>
    obtain ⟨k', v'⟩ := x
    by_cases h' : k' = k
    · subst h'; simp [alSet, alGet, Ne.symm h]
    · simp [alSet, alGet, h', ih]

theorem alGet_alDel {κ α : Type} [DecidableEq κ] {d : α} {l : List (κ × α)} {k : κ} : alGet d (alDel l k) k = d := by
  induction l with
  | nil => rfl
  | cons x r ih =>
    obtain ⟨k', v'⟩ := x
    by_cases h : k' = k <;> simp [alDel, alGet, h, ih]

theorem alGet_alDel_ne {κ α : Type} [DecidableEq κ] {d : α} {l : List (κ × α)} {k j : κ} (h : j ≠ k) :
    alGet d (alDel l k) j = alGet d l j := by
  induction l with
  | nil => rfl
  | cons x r ih =>
    obtain ⟨k', v'⟩ := x
    by_cases h' : k' = k
    · subst h'; simp [alDel, alGet, Ne.symm h, ih]
    · simp [alDel, alGet, h', ih]

/-- A queue that is set holds what it is set to. -/
@[simp] theorem queue_setQueue (k : QKey) (l : List Desc) : queue (setQueue k l m) k = l := by
  unfold queue setQueue
  split
  · rename_i h
    rw [alGet_alDel]
    exact (List.isEmpty_iff.1 h).symm
  · exact alGet_alSet

/-- Setting a queue leaves every other. -/
theorem queue_setQueue_ne (k j : QKey) (l : List Desc) (h : j ≠ k) : queue (setQueue k l m) j = queue m j := by
  unfold queue setQueue
  split
  · exact alGet_alDel_ne h
  · exact alGet_alSet_ne h

/-- A queue's head leaves it. -/
@[simp] theorem queue_dequeue (k : QKey) : queue (dequeue k m) k = (queue m k).tail := queue_setQueue ..

theorem queue_dequeue_ne (k j : QKey) (h : j ≠ k) : queue (dequeue k m) j = queue m j := queue_setQueue_ne _ _ _ _ h

end Sys2Proof.Laws
end

