-- ==== Sys2Proof/Laws/Event.lean ====
section
/-! SUPPORT. What recording an event changes inside the parts that it touches: of the host link only the rings, of the tray only the
alert and its interrupts, of the health block only the lifetime ring's buffer and the last records. -/

namespace Sys2Proof.Laws
open Sys2Proof.Machine

/-- What recording an event keeps inside the parts it touches. -/
structure EvKeeps (a b : Module) : Prop where
  pci : b.pci = { a.pci with evr := b.pci.evr }
  tray : b.tray = { a.tray with alert := b.tray.alert, alertAt := b.tray.alertAt, ibi := b.tray.ibi }
  hlt : b.hlt = { a.hlt with sram := b.hlt.sram, last16 := b.hlt.last16 }

theorem EvKeeps.refl (a : Module) : EvKeeps a a := ⟨rfl, rfl, rfl⟩

theorem EvKeeps.trans {a b c : Module} (h : EvKeeps a b) (k : EvKeeps b c) : EvKeeps a c := by
  obtain ⟨h1, h2, h3⟩ := h
  obtain ⟨k1, k2, k3⟩ := k
  refine ⟨?_, ?_, ?_⟩
  · rw [k1, h1]
  · rw [k2, h2]
  · rw [k3, h3]

/-- Nothing but the rings, the tray's alert and the two lists of the health block. -/
theorem EvKeeps.of_eq {a b : Module} (h1 : b.pci = a.pci) (h2 : b.tray = a.tray) (h3 : b.hlt = a.hlt) : EvKeeps a b := by
  refine ⟨?_, ?_, ?_⟩
  · rw [h1]
  · rw [h2]
  · rw [h3]

theorem evKeeps_emit (o : Output) (m : Module) : EvKeeps m (emit o m) := .of_eq rfl rfl rfl

theorem evKeeps_setEvr (f : ℕ) (r : Evr) (m : Module) : EvKeeps m (m.setEvr f r) := ⟨rfl, rfl, rfl⟩

theorem evKeeps_ringSignal (f : ℕ) (r : Evr) (m : Module) : EvKeeps m (ringSignal f r m) := by
  unfold ringSignal
  extract_lets w
  split
  · exact evKeeps_setEvr ..
  · exact (evKeeps_setEvr ..).trans (evKeeps_emit ..)

theorem evKeeps_ringWrite (f : ℕ) (e : Event) (m : Module) : EvKeeps m (ringWrite f e m) := by
  unfold ringWrite
  extract_lets r m1 m2
  have h : EvKeeps m m2 := (evKeeps_emit ..).trans (evKeeps_ringSignal ..)
  split
  · exact h.trans (evKeeps_emit ..)
  · exact h

theorem evKeeps_ringPut (f : ℕ) (e : Event) (m : Module) : EvKeeps m (ringPut f e m) := by
  unfold ringPut
  extract_lets m1 r
  have h : EvKeeps m m1 := by
    dsimp only [m1]
    unfold ringOverflow
    extract_lets r
    split
    · exact (evKeeps_setEvr ..).trans (evKeeps_ringWrite ..)
    · exact .refl _
  split
  · exact h.trans (evKeeps_ringWrite ..)
  · exact h.trans (evKeeps_setEvr ..)

theorem evKeeps_trayAlert (x : BitVec 10) (m : Module) : EvKeeps m (trayAlert x m) := ⟨rfl, rfl, rfl⟩

theorem evKeeps_note (e : Event) (m : Module) : EvKeeps m (note e m) := by
  unfold note
  extract_lets p bad d m1 m2 h m3 m4 m5
  have h2 : EvKeeps m m2 := by
    refine .of_eq ?_ ?_ ?_ <;> dsimp only [m2] <;> split <;> rfl
  have h3 : EvKeeps m2 m3 := by
    clear h2
    dsimp only [m3, h]
    generalize m2 = x
    exact ⟨rfl, rfl, rfl⟩
  have h4 : EvKeeps m3 m4 := evKeeps_trayAlert ..
  have h6 : EvKeeps m m4 := (h2.trans h3).trans h4
  clear h2 h3 h4
  have h5 : EvKeeps m m5 := by
    dsimp only [m5]
    clear m5
    clear_value m4
    exact h6.trans (evKeeps_ringPut 0 e m4)
  clear h6
  clear_value m5
  split
  · exact h5.trans (evKeeps_ringPut ..)
  · exact h5

theorem evKeeps_traceBuffer (r : List Byte) (m : Module) : EvKeeps m (traceBuffer r m) := by
  unfold traceBuffer
  extract_lets d need lr m1
  split
  · exact .of_eq rfl rfl rfl
  · split
    · exact .of_eq rfl rfl rfl
    · refine EvKeeps.trans ?_ (evKeeps_note ..)
      exact .of_eq rfl rfl rfl

theorem evKeeps_traceEv (kind w0 part ctx qcls : ℕ) (w3 : W64) (m : Module) : EvKeeps m (traceEv kind w0 part ctx qcls w3 m) := by
  unfold traceEv
  extract_lets
  split
  · exact evKeeps_traceBuffer ..
  · exact .refl _

/-- Recording an event. -/
theorem evKeeps_ev (cls code unit sev part ctx : ℕ) (detail : W64) (m : Module) : EvKeeps m (ev cls code unit sev part ctx detail m) :=
  (evKeeps_note ..).trans (evKeeps_traceEv ..)

/-- A descriptor's start and its completion. -/
theorem evKeeps_descStart (cls idx : ℕ) (d : Desc) (m : Module) : EvKeeps m (descStart cls idx d m) := evKeeps_traceEv ..

theorem evKeeps_complete (cls idx : ℕ) (d : Desc) (err : Bool) (m : Module) : EvKeeps m (complete cls idx d err m) := by
  unfold complete
  extract_lets k g m1 m2
  refine EvKeeps.trans ?_ (evKeeps_traceEv ..)
  dsimp only [m2]
  unfold progress
  extract_lets m3
  refine EvKeeps.trans (b := m3) ?_ (.of_eq rfl rfl rfl)
  dsimp only [m3]
  split <;> exact .of_eq rfl rfl rfl

/-- The completion count of the descriptor's context at the target rises by one, and the descriptor is no longer outstanding. -/
theorem complete_counts (cls idx : ℕ) (d : Desc) (err : Bool) (m : Module) :
    (complete cls idx d err m).counts = alSet m.counts (countKey d.part d.ctx cls idx) (count m d.part d.ctx cls idx + 1) := by
  unfold complete
  extract_lets k g m1 m2
  rw [(eff_traceEv ..).same .counts (by decide)]
  exact (eff_progress ..).same .counts (by decide)

theorem complete_outstanding (cls idx : ℕ) (d : Desc) (err : Bool) (m : Module) :
    (complete cls idx d err m).outstanding = mapAt 0 m.outstanding (d.part * 8 + d.ctx) (· - 1) := by
  unfold complete
  extract_lets k g m1 m2
  rw [(eff_traceEv ..).same .outstanding (by decide)]
  exact (eff_progress ..).same .outstanding (by decide)

theorem count_complete (cls idx : ℕ) (d : Desc) (err : Bool) (m : Module) :
    count (complete cls idx d err m) d.part d.ctx cls idx = count m d.part d.ctx cls idx + 1 := by
  rw [count, complete_counts, alGet_alSet]

end Sys2Proof.Laws
end

