-- ==== Sys2Proof/Laws/Exec.lean ====
section
/-! SUPPORT. What a command and a step keep. -/

namespace Sys2Proof.Laws
open Sys2Proof.Machine

/-- Every command but POWER_GOOD leaves the commands that wait, and keeps what `Keeps` says. -/
theorem keeps_exec (i : Instr) (s : State) (hi : ∀ slot, i ≠ .powerGood slot) : KeepsOut s (exec i s) := by
  cases i with
  | powerGood slot => exact absurd rfl (hi slot)
  | registerWrite a0 a1 a2 a3 => exact (eff_execRegisterWrite a0 a1 a2 a3 s).keeps
  | flitSend a0 => exact (eff_execFlitSend a0 s).keeps
  | registerRead a0 a1 a2 => exact (eff_execRegisterRead a0 a1 a2 s).keeps
  | traySpiBadcmd a0 => exact (eff_execTraySpiBadcmd a0 s).keeps
  | throttleLevelChange a0 a1 => exact (eff_execThrottleLevelChange a0 a1 s).keeps
  | load => exact (eff_execLoad s).keeps
  | fetchComplete a0 => exact (eff_execFetchComplete a0 s).keeps
  | imgShadowWrite a0 a1 a2 => exact (eff_execImgShadowWrite a0 a1 a2 s).keeps
  | check => exact (eff_execCheck s).keeps
  | checkingEnd => exact (eff_execCheckingEnd s).keeps
  | arm => exact (eff_execArm s).keeps
  | cancel => exact (eff_execCancel s).keeps
  | apply => exact (eff_execApply s).keeps
  | scrubbed => exact (eff_execScrubbed s).keeps
  | timePacketSend => exact (eff_execTimePacketSend s).keeps
  | timePacketReceive a0 a1 => exact (eff_execTimePacketReceive a0 a1 s).keeps
  | holdover => exact (eff_execHoldover s).keeps
  | beatGmCtrlWrite a0 => exact (eff_execBeatGmCtrlWrite a0 s).keeps
  | beatSet a0 => exact (eff_execBeatSet a0 s).keeps
  | delayRemeasure a0 a1 a2 => exact (eff_execDelayRemeasure a0 a1 a2 s).keeps
  | beatMqPush => exact (eff_execBeatMqPush s).keeps
  | alarmFire a0 => exact (eff_execAlarmFire a0 s).keeps
  | eqPush a0 a1 a2 => exact (eff_execEqPush a0 a1 a2 s).keeps
  | eqPushStallEnd a0 a1 => exact (eff_execEqPushStallEnd a0 a1 s).keeps
  | eqWait a0 a1 a2 => exact (eff_execEqWait a0 a1 a2 s).keeps
  | eqWaitSatisfied a0 a1 => exact (eff_execEqWaitSatisfied a0 a1 s).keeps
  | eqPoll a0 a1 a2 => exact (eff_execEqPoll a0 a1 a2 s).keeps
  | eqGate a0 a1 a2 => exact (eff_execEqGate a0 a1 a2 s).keeps
  | eqGateSatisfied a0 a1 => exact (eff_execEqGateSatisfied a0 a1 s).keeps
  | eqBeat a0 a1 a2 => exact (eff_execEqBeat a0 a1 a2 s).keeps
  | eqFence a0 a1 a2 => exact (eff_execEqFence a0 a1 a2 s).keeps
  | eqFenceSatisfied a0 a1 => exact (eff_execEqFenceSatisfied a0 a1 s).keeps
  | hartInstruction a0 a1 a2 => exact (eff_execHartInstruction a0 a1 a2 s).keeps
  | hartStart a0 a1 => exact (eff_execHartStart a0 a1 s).keeps
  | hartHalt a0 a1 => exact (eff_execHartHalt a0 a1 s).keeps
  | matmul a0 a1 a2 a3 a4 => exact (eff_execMatmul a0 a1 a2 a3 a4 s).keeps
  | accLoad a0 a1 => exact (eff_execAccLoad a0 a1 s).keeps
  | accRead a0 => exact (eff_execAccRead a0 s).keeps
  | galReadout a0 a1 a2 a3 => exact (eff_execGalReadout a0 a1 a2 a3 s).keeps
  | galComplete a0 => exact (eff_execGalComplete a0 s).keeps
  | galCntClr a0 => exact (eff_execGalCntClr a0 s).keeps
  | slots a0 => exact (eff_execSlots a0 s).keeps
  | down a0 => exact (eff_execDown a0 s).keeps
  | up a0 a1 a2 a3 a4 => exact (eff_execUp a0 a1 a2 a3 a4 s).keeps
  | upComplete a0 => exact (eff_execUpComplete a0 s).keeps
  | scrRead a0 a1 a2 => exact (eff_execScrRead a0 a1 a2 s).keeps
  | adpCntClr a0 => exact (eff_execAdpCntClr a0 s).keeps
  | convert a0 a1 a2 a3 a4 => exact (eff_execConvert a0 a1 a2 a3 a4 s).keeps
  | risComplete a0 a1 => exact (eff_execRisComplete a0 a1 s).keeps
  | streamClear a0 a1 => exact (eff_execStreamClear a0 a1 s).keeps
  | risCntClr a0 => exact (eff_execRisCntClr a0 s).keeps
  | risClearStreamSets a0 => exact (eff_execRisClearStreamSets a0 s).keeps
  | transform a0 a1 a2 a3 a4 a5 => exact (eff_execTransform a0 a1 a2 a3 a4 a5 s).keeps
  | winComplete a0 => exact (eff_execWinComplete a0 s).keeps
  | winCntClr a0 => exact (eff_execWinCntClr a0 s).keeps
  | run a0 a1 a2 a3 a4 a5 => exact (eff_execRun a0 a1 a2 a3 a4 a5 s).keeps
  | lndComplete a0 a1 => exact (eff_execLndComplete a0 a1 s).keeps
  | lndCntClr a0 => exact (eff_execLndCntClr a0 s).keeps
  | gen a0 a1 a2 => exact (eff_execGen a0 a1 a2 s).keeps
  | genComplete a0 => exact (eff_execGenComplete a0 s).keeps
  | seed a0 => exact (eff_execSeed a0 s).keeps
  | nwlCntClr a0 => exact (eff_execNwlCntClr a0 s).keeps
  | hallRequestAged a0 a1 a2 a3 => exact (eff_execHallRequestAged a0 a1 a2 a3 s).keeps
  | flush a0 a1 => exact (eff_execFlush a0 a1 s).keeps
  | invalidate a0 a1 => exact (eff_execInvalidate a0 a1 s).keeps
  | cacheCommandDone a0 => exact (eff_execCacheCommandDone a0 s).keeps
  | hallCntClr a0 => exact (eff_execHallCntClr a0 s).keeps
  | hbmCntClr a0 => exact (eff_execHbmCntClr a0 s).keeps
  | lpxCntClr a0 => exact (eff_execLpxCntClr a0 s).keeps
  | testStart a0 a1 => exact (eff_execTestStart a0 a1 s).keeps
  | testStop a0 => exact (eff_execTestStop a0 s).keeps
  | channelTestEnd a0 => exact (eff_execChannelTestEnd a0 s).keeps
  | move a0 => exact (eff_execMove a0 s).keeps
  | gather a0 => exact (eff_execGather a0 s).keeps
  | prefetch a0 => exact (eff_execPrefetch a0 s).keeps
  | put a0 => exact (eff_execPut a0 s).keeps
  | burstIssue a0 a1 => exact (eff_execBurstIssue a0 a1 s).keeps
  | burstResponse a0 a1 a2 => exact (eff_execBurstResponse a0 a1 a2 s).keeps
  | burstTimeout a0 a1 => exact (eff_execBurstTimeout a0 a1 s).keeps
  | fltCntClr a0 => exact (eff_execFltCntClr a0 s).keeps
  | portDisable a0 => exact (eff_execPortDisable a0 s).keeps
  | portEnable a0 => exact (eff_execPortEnable a0 s).keeps
  | release a0 => exact (eff_execRelease a0 s).keeps
  | laneLock a0 a1 => exact (eff_execLaneLock a0 a1 s).keeps
  | bringUpComplete a0 a1 a2 a3 a4 a5 a6 => exact (eff_execBringUpComplete a0 a1 a2 a3 a4 a5 a6 s).keeps
  | bringUpTimeout a0 => exact (eff_execBringUpTimeout a0 s).keeps
  | bringUpRetry a0 => exact (eff_execBringUpRetry a0 s).keeps
  | laneLoss a0 a1 => exact (eff_execLaneLoss a0 a1 s).keeps
  | lightLoss a0 => exact (eff_execLightLoss a0 s).keeps
  | noFlitTimeout a0 => exact (eff_execNoFlitTimeout a0 s).keeps
  | retrainDone a0 => exact (eff_execRetrainDone a0 s).keeps
  | flitReceive a0 a1 => exact (eff_execFlitReceive a0 a1 s).keeps
  | localDelivery => exact (eff_execLocalDelivery s).keeps
  | tailTimeout a0 a1 => exact (eff_execTailTimeout a0 a1 s).keeps
  | cmapWindowEnd => exact (eff_execCmapWindowEnd s).keeps
  | nutFcThrWrite a0 a1 a2 => exact (eff_execNutFcThrWrite a0 a1 a2 s).keeps
  | nutCntClr a0 => exact (eff_execNutCntClr a0 s).keeps
  | write => exact (eff_execWrite s).keeps
  | notify => exact (eff_execNotify s).keeps
  | readReq a0 => exact (eff_execReadReq a0 s).keeps
  | readResp => exact (eff_execReadResp s).keeps
  | atomic a0 => exact (eff_execAtomic a0 s).keeps
  | ack => exact (eff_execAck s).keeps
  | mgmt => exact (eff_execMgmt s).keeps
  | rteArm => exact (eff_execRteArm s).keeps
  | rteCancel => exact (eff_execRteCancel s).keeps
  | swap => exact (eff_execSwap s).keeps
  | rteShadowWrite a0 a1 a2 => exact (eff_execRteShadowWrite a0 a1 a2 s).keeps
  | rteCntClr => exact (eff_execRteCntClr s).keeps
  | allreduce a0 a1 => exact (eff_execAllreduce a0 a1 s).keeps
  | voteCfg a0 => exact (eff_execVoteCfg a0 s).keeps
  | arcade a0 => exact (eff_execArcade a0 s).keeps
  | phaseTimeout a0 a1 => exact (eff_execPhaseTimeout a0 a1 s).keeps
  | earlyReadyExpiry a0 => exact (eff_execEarlyReadyExpiry a0 s).keeps
  | vote a0 => exact (eff_execVote a0 s).keeps
  | arcCntClr a0 => exact (eff_execArcCntClr a0 s).keeps
  | retain a0 => exact (eff_execRetain a0 s).keeps
  | done a0 => exact (eff_execDone a0 s).keeps
  | await a0 => exact (eff_execAwait a0 s).keeps
  | awaitComplete a0 => exact (eff_execAwaitComplete a0 s).keeps
  | send a0 => exact (eff_execSend a0 s).keeps
  | released a0 => exact (eff_execReleased a0 s).keeps
  | replayLive a0 => exact (eff_execReplayLive a0 s).keeps
  | replaySolo a0 => exact (eff_execReplaySolo a0 s).keeps
  | replaySoloCommitted a0 => exact (eff_execReplaySoloCommitted a0 s).keeps
  | revote a0 => exact (eff_execRevote a0 s).keeps
  | resolveCommit a0 => exact (eff_execResolveCommit a0 s).keeps
  | resolveAbort a0 => exact (eff_execResolveAbort a0 s).keeps
  | vstCommandBeat a0 => exact (eff_execVstCommandBeat a0 s).keeps
  | cutCommand a0 => exact (eff_execCutCommand a0 s).keeps
  | cutTaken a0 => exact (eff_execCutTaken a0 s).keeps
  | drainHost a0 => exact (eff_execDrainHost a0 s).keeps
  | drainFabric a0 => exact (eff_execDrainFabric a0 s).keeps
  | drainDone a0 => exact (eff_execDrainDone a0 s).keeps
  | drainError a0 => exact (eff_execDrainError a0 s).keeps
  | drainLate a0 => exact (eff_execDrainLate a0 s).keeps
  | clear a0 => exact (eff_execClear a0 s).keeps
  | ckpt => exact (eff_execCkpt s).keeps
  | vstCfgWrite a0 a1 => exact (eff_execVstCfgWrite a0 a1 s).keeps
  | vstRegionWrite a0 a1 a2 => exact (eff_execVstRegionWrite a0 a1 a2 s).keeps
  | mirRegionWrite a0 a1 => exact (eff_execMirRegionWrite a0 a1 s).keeps
  | mirBegin => exact (eff_execMirBegin s).keeps
  | mirList => exact (eff_execMirList s).keeps
  | mirData a0 => exact (eff_execMirData a0 s).keeps
  | mirEnd => exact (eff_execMirEnd s).keeps
  | mirInput => exact (eff_execMirInput s).keeps
  | inAborted a0 => exact (eff_execInAborted a0 s).keeps
  | mirrorTimeout a0 => exact (eff_execMirrorTimeout a0 s).keeps
  | restore a0 => exact (eff_execRestore a0 s).keeps
  | discardInboundW a0 => exact (eff_execDiscardInboundW a0 s).keeps
  | fetch => exact (eff_execFetch s).keeps
  | rdata a0 => exact (eff_execRdata a0 s).keeps
  | rresult a0 => exact (eff_execRresult a0 s).keeps
  | rdone => exact (eff_execRdone s).keeps
  | restoreFailed a0 => exact (eff_execRestoreFailed a0 s).keeps
  | ctxHang a0 a1 => exact (eff_execCtxHang a0 a1 s).keeps
  | engHang a0 a1 => exact (eff_execEngHang a0 a1 s).keeps
  | partHang a0 => exact (eff_execPartHang a0 s).keeps
  | wingHang a0 => exact (eff_execWingHang a0 s).keeps
  | aonWatchdogFire => exact (eff_execAonWatchdogFire s).keeps
  | contextReset a0 a1 => exact (eff_execContextReset a0 a1 s).keeps
  | engineReset a0 a1 => exact (eff_execEngineReset a0 a1 s).keeps
  | partitionReset a0 => exact (eff_execPartitionReset a0 s).keeps
  | wingReset a0 => exact (eff_execWingReset a0 s).keeps
  | chipReset => exact (eff_execChipReset s).keeps
  | powerCycleRequest => exact (eff_execPowerCycleRequest s).keeps
  | pwrcycReqNAssert => exact (eff_execPwrcycReqNAssert s).keeps
  | resetDone a0 => exact (eff_execResetDone a0 s).keeps
  | resetOverrun a0 => exact (eff_execResetOverrun a0 s).keeps
  | slotOpen => exact (eff_execSlotOpen s).keeps
  | suspectClear => exact (eff_execSuspectClear s).keeps
  | slotMaxExpiry => exact (eff_execSlotMaxExpiry s).keeps
  | noticeExtend => exact (eff_execNoticeExtend s).keeps
  | noticeAbort => exact (eff_execNoticeAbort s).keeps
  | noticeInfo => exact (eff_execNoticeInfo s).keeps
  | notice => exact (eff_execNotice s).keeps
  | chkSync a0 => exact (eff_execChkSync a0 s).keeps
  | chkCntClr a0 => exact (eff_execChkCntClr a0 s).keeps
  | packLoad a0 a1 => exact (eff_execPackLoad a0 a1 s).keeps
  | packLoaded => exact (eff_execPackLoaded s).keeps
  | ptStart a0 => exact (eff_execPtStart a0 s).keeps
  | ptStop a0 => exact (eff_execPtStop a0 s).keeps
  | soakEnd a0 a1 a2 => exact (eff_execSoakEnd a0 a1 a2 s).keeps
  | patternTestEnd a0 a1 => exact (eff_execPatternTestEnd a0 a1 s).keeps
  | subWindowEnd => exact (eff_execSubWindowEnd s).keeps
  | eventRingFlush => exact (eff_execEventRingFlush s).keeps
  | summaryRewrite => exact (eff_execSummaryRewrite s).keeps
  | holdupOkFall => exact (eff_execHoldupOkFall s).keeps
  | inputLoss a0 => exact (eff_execInputLoss a0 s).keeps
  | hltRetire a0 => exact (eff_execHltRetire a0 s).keeps
  | crcRetry a0 a1 => exact (eff_execCrcRetry a0 a1 s).keeps
  | moduleDown a0 a1 => exact (eff_execModuleDown a0 a1 s).keeps
  | opChanged => exact (eff_execOpChanged s).keeps
  | throttle a0 => exact (eff_execThrottle a0 s).keeps
  | throttleEnd a0 => exact (eff_execThrottleEnd a0 s).keeps
  | thermWarn a0 => exact (eff_execThermWarn a0 s).keeps
  | thermTrip a0 => exact (eff_execThermTrip a0 s).keeps
  | calDue => exact (eff_execCalDue s).keeps
  | recalDone a0 a1 => exact (eff_execRecalDone a0 a1 s).keeps
  | holdupLow a0 => exact (eff_execHoldupLow a0 s).keeps
  | holdupDisagree a0 a1 => exact (eff_execHoldupDisagree a0 a1 s).keeps
  | secLock => exact (eff_execSecLock s).keeps
  | enrol a0 => exact (eff_execEnrol a0 s).keeps
  | revoke a0 => exact (eff_execRevoke a0 s).keeps
  | skeyLoad a0 => exact (eff_execSkeyLoad a0 s).keeps
  | ckeyLoad a0 => exact (eff_execCkeyLoad a0 s).keeps
  | ckeyClear a0 => exact (eff_execCkeyClear a0 s).keeps
  | spdmRequest a0 a1 a2 a3 => exact (eff_execSpdmRequest a0 a1 a2 a3 s).keeps
  | getMeasurements a0 a1 => exact (eff_execGetMeasurements a0 a1 s).keeps
  | ideKm a0 a1 a2 => exact (eff_execIdeKm a0 a1 a2 s).keeps
  | ideFail a0 => exact (eff_execIdeFail a0 s).keeps
  | firmwareVerified a0 a1 a2 => exact (eff_execFirmwareVerified a0 a1 a2 s).keeps
  | aonComplete => exact (eff_execAonComplete s).keeps
  | wingRailsUp => exact (eff_execWingRailsUp s).keeps
  | wingsOutOfReset => exact (eff_execWingsOutOfReset s).keeps
  | memTrainComplete a0 => exact (eff_execMemTrainComplete a0 s).keeps
  | bistComplete a0 => exact (eff_execBistComplete a0 s).keeps
  | stageFail => exact (eff_execStageFail s).keeps
  | slotIdChange a0 => exact (eff_execSlotIdChange a0 s).keeps
  | perstNFall => exact (eff_execPerstNFall s).keeps
  | perstNRise => exact (eff_execPerstNRise s).keeps
  | vfFlr a0 => exact (eff_execVfFlr a0 s).keeps
  | pfFlr => exact (eff_execPfFlr s).keeps
  | linkUp a0 a1 a2 => exact (eff_execLinkUp a0 a1 a2 s).keeps
  | linkDown => exact (eff_execLinkDown s).keeps
  | evrHeadWrite a0 a1 => exact (eff_execEvrHeadWrite a0 a1 s).keeps
  | msixCoalesceEnd a0 => exact (eff_execMsixCoalesceEnd a0 s).keeps
  | traySpiRead a0 a1 => exact (eff_execTraySpiRead a0 a1 s).keeps
  | traySpiWrite a0 a1 a2 => exact (eff_execTraySpiWrite a0 a1 a2 s).keeps
  | dynamicAddressAssignment a0 => exact (eff_execDynamicAddressAssignment a0 s).keeps
  | vendorRead a0 => exact (eff_execVendorRead a0 s).keeps
  | vendorWrite a0 a1 a2 => exact (eff_execVendorWrite a0 a1 a2 s).keeps
  | telemetry => exact (eff_execTelemetry s).keeps
  | snapshotPeriod => exact (eff_execSnapshotPeriod s).keeps
  | lostRecordEntry => exact (eff_execLostRecordEntry s).keeps
  | kportUp => exact (eff_execKportUp s).keeps
  | kportDown => exact (eff_execKportDown s).keeps
  | dump => exact (eff_execDump s).keeps
  | dumpDone => exact (eff_execDumpDone s).keeps
  | drained a0 => exact (eff_execDrained a0 s).keeps
  | resume a0 a1 => exact (eff_execResume a0 a1 s).keeps
  | bpStep a0 a1 => exact (eff_execBpStep a0 a1 s).keeps
  | dbgAonClr => exact (eff_execDbgAonClr s).keeps
  | extest => exact (eff_execExtest s).keeps
  | idcode => exact (eff_execIdcode s).keeps
  | samplePreload => exact (eff_execSamplePreload s).keeps
  | dbgacc a0 => exact (eff_execDbgacc a0 s).keeps
  | bypass a0 => exact (eff_execBypass a0 s).keeps
  | cmapSample => exact (eff_execCmapSample s).keeps
  | pciCntClr => exact (eff_execPciCntClr s).keeps
  | configurationRequest => exact (eff_execConfigurationRequest s).keeps
  | firmwareCopiesFail => exact (eff_execFirmwareCopiesFail s).keeps
  | pwrcycOverdue => exact (eff_execPwrcycOverdue s).keeps
  | thermalCycle => exact (eff_execThermalCycle s).keeps
  | pcSample => exact (eff_execPcSample s).keeps

/-- A cold start leaves what is fused, and leaves every map and memory canonical. -/
theorem coldStart_inv (slot : BitVec 4) (m : Module) : (coldStart slot m).fused = m.fused ∧ (coldStart slot m).Inv := by
  refine ⟨rfl, ?_, ?_⟩
  · rfl
  · rfl

end Sys2Proof.Laws
end

