-- ==== Sys2Proof/Tests/Slice0.lean ====
section
/-! SUPPORT. Tests on fixed values, and for the statements of Certificates/Slice0/Obligations.lean one theorem each, named `wit_` and what it is about, in
which a concrete state and operands meet the hypotheses of each of its clauses. -/

namespace Sys2Proof.Tests

open Sys2Proof Sys2Proof.Machine

set_option Elab.async false

/-! ### Small states -/

/-- The module after reset, changed as told, with no command waiting. -/
def st (f : Module → Module) : State := { pending := [], m := f Module.init }

/-- The canonical form, as a test that evaluates. -/
def good (m : Module) : Bool := m.canonical && Memory.wf m.mem
theorem good_inv {m : Module} (h : good m = true) : m.Inv := by simpa [good, Module.Inv] using h

/-- A partition that owns every unit of wing A, sixteen Hall banks, and a cache. -/
def part0 : PRec :=
  { PRec.zero with
    enable := true, slice := 5, power := 100, gal := 0xFFFFFFFF, flt := 0xFFFF, lnd := 0xFF, ris := 0xF, win := 3, cc := 3,
    lpx := 0xFFF, hbm := BitVec.ofNat 256 (2 ^ 128 - 1), hall0 := ⟨true, 63, 0⟩, cache := 8, hbmIl := 1, lpxIl := 1 }

def struct0 : Struct :=
  { parts := part0 :: List.replicate 15 PRec.zero, atomicDefault := 0, traceTier := 1, traceBase := 0, traceSize := 0,
    slices := [⟨5, 1, 0⟩], oos := [], bytes := [], table := [] }

/-- A module in stage READY under an applied image whose partition 0 owns wing A. -/
def running (m : Module) : Module :=
  { m with img := { m.img with st := .applied, active := some struct0 }, pci := { m.pci with stage := 8, wingOut := [(0, true), (1, true)] } }

def base : State := st running

theorem test_base_inv : base.m.Inv := by
  constructor <;> decide +kernel

theorem test_owner : owner base.m 5 0 = some 0 ∧ enabled base.m 0 = true ∧ hallAt base.m 0 0x0F00000000000000 0 4096 = true ∧ canStart base.m 0 0 = true := by
  decide +kernel

/-- A descriptor's bytes: the common header (R53) and a body. -/
def dbytes (part ctx ty flags len : Nat) (body : List Byte) : List Byte :=
  natLe 8 1 ++ natLe 8 (len + 2 ^ 32 * flags + 2 ^ 44 * ctx + 2 ^ 47 * part + 2 ^ 52 * ty + 2 ^ 60) ++ body

def desc (part ctx ty flags len : Nat) (body : List Byte) : Desc := parseDesc (dbytes part ctx ty flags len body)

/-- What a check answers of a parsed pair, from what it answers under a map. -/
theorem of_map {α β γ : Type} {o : Option (α × β)} {g : α × β → γ} {c : γ} (h : o.map g = some c) :
    ∃ a b, o = some (a, b) ∧ g (a, b) = c := by
  cases o with
  | none => cases h
  | some x => exact ⟨x.1, x.2, rfl, by simpa using h⟩

theorem of_fst {α β : Type} {x : α × β} {a : α} (h : x.1 = a) : ∃ b, x = (a, b) := ⟨x.2, by rw [← h]⟩

/-- Bytes of the Hall of wing A in partition 0's memory, from an offset on. -/
def hall (off : Nat) (b : List Byte) (m : Module) : Module := hallWrite 0 0 off b m

theorem of_map1 {α β : Type} {o : Option α} {g : α → β} {c : β} (h : o.map g = some c) : ∃ a, o = some a ∧ g a = c := by
  cases o with
  | none => cases h
  | some x => exact ⟨x, rfl, by simpa using h⟩

/-- Bytes 16 on of a descriptor: fields (offset in the descriptor, bytes, value) over zeros. -/
def body (n : Nat) (fs : List (Nat × Nat × Nat)) : List Byte :=
  fs.foldl (fun b f => splice b (f.1 - 16) (natLe f.2.1 f.2.2)) (List.replicate (n - 16) 0)

/-- A descriptor of partition 0, context 0. -/
def d0 (ty flags len : Nat) (fs : List (Nat × Nat × Nat)) : Desc := desc 0 0 ty flags len (body len fs)

/-- This module's Hall address of an offset, as a field. -/
def here (a off : Nat) : Nat × Nat × Nat := (a, 8, 0x0F00000000000000 + off)

/-- One descriptor waits in a queue. -/
def queued (k : QKey) (d : Desc) (m : Module) : Module := { running m with queues := [(k, [d])] }

def portAs (p : Nat) (f : Port → Port) (m : Module) : Module := m.setPort p (f (m.port' p))

/-- A Vestibule slot. -/
def vslot (s : SlotSt) (step : Beat) : VSlot :=
  { st := s, step := step, norec := false, taint := false, verifiedSeen := false, voting := false, replayed := false, replayMode := 0, s := 0,
    seeds := [], batches := [], captures := [], used := 4096, openedAt := 0, verifiedBeat := none, soloNext0 := 0, soloNext1 := 0, result := 0 }

/-! ### Structure image (chapter 2) -/

/-- A service image with an empty list, for the structure above. -/
def image0 : List Byte :=
  natLe 4 0x55544352 ++ [1, 1, 1, 0] ++ List.replicate 8 0xFF ++ natLe 8 7 ++ natLe 8 0 ++ natLe 4 176 ++ natLe 2 1 ++ List.replicate 26 0
  ++ ([4, 1, 0, 0] ++ natLe 4 16 ++ List.replicate 8 0) ++ List.replicate 96 0

def withImg (st : ImgSt) (m : Module) : Module :=
  let m := running m
  { m with img := { m.img with st := st, devUnsigned := true, shadow := image0, fetchLen := 176, loadLen := 176, applyBeat := 40 } }

def late (m : Module) : Module := { m with img := { m.img with applyBeat := BitVec.ofNat 48 (2 ^ 48 - 2) } }

theorem wit_image_load : (st (withImg .failed)).m.img.loadAddr.toNat % 16 = 0 ∧ (st (withImg .armed)).m.img.loadAddr.toNat % 16 = 0
    ∧ (8 : W64).toNat % 16 ≠ 0 ∧ image0.length = 176 := by decide +kernel
theorem wit_image_checked : (checkImage (withImg .checking Module.init)).errs = [] := by decide +kernel
theorem wit_image_fails : (checkImage { withImg .checking Module.init with fused := { Fused.init with grade := 2 } }).errs
    = [⟨3, 0, 31, 0xFFFF, 0⟩] := by decide +kernel
theorem wit_image_arm : atOrAfter (beatNow (st (withImg .checked)).m) (st (withImg .checked)).m.img.applyBeat = false
    ∧ atOrAfter (beatNow (late (withImg .checked Module.init))) (late (withImg .checked Module.init)).img.applyBeat = true
    ∧ (late (withImg .checked Module.init)).img.latePolicy = false := by decide +kernel
theorem wit_image_shadow : (172 : Nat) + 4 ≤ (st (withImg .staged)).m.img.shadow.length
    ∧ (st (withImg .staged)).m.img.shadow.length < 176 + 8 := by decide +kernel

def armedAt (m : Module) : Module := { withImg .armed m with img := { (withImg .armed m).img with armedBeat := 1 } }
theorem wit_apply : (st armedAt).m.dbg.hold = none ∧ ∃ f t, stagedStruct (passToBeat 1 (armedAt Module.init)) = some (f, t)
    ∧ applyRefusal (passToBeat 1 (armedAt Module.init)) t = none :=
  ⟨by decide +kernel, of_map (g := fun x => applyRefusal (passToBeat 1 (armedAt Module.init)) x.2) (by decide +kernel)⟩

def wingsOut (m : Module) : Module := { m with pci := { m.pci with wingOut := [(0, true)] } }
theorem wit_apply_refused : ∃ f t, stagedStruct (passToBeat 1 (wingsOut (armedAt Module.init))) = some (f, t)
    ∧ applyRefusal (passToBeat 1 (wingsOut (armedAt Module.init))) t = some 0x24 :=
  of_map (g := fun x => applyRefusal (passToBeat 1 (wingsOut (armedAt Module.init))) x.2) (by decide +kernel)

theorem wit_scrubbed : base.m.pci.stage ≠ 5 ∧ base.m.pci.stage ≠ 6 ∧ base.m.pci.stage ≠ 7
    ∧ ({ base.m.sec with scrub := [(7, 0)] } : Sec).scrub.length ≠ 0 := by decide +kernel

/-! ### Registers (chapter 1) -/

theorem wit_unaccepted : (0x10020 : Nat) < barSize .pf ∧ (2 : Nat) ≠ 4 ∧ (2 : Nat) ≠ 8 ∧ 0x800000 < barSize .pf
    ∧ 0x3FFFFFC < barSize (.vf 0) ∧ 0x3FFFFFC % 8 ≠ 0 := by decide +kernel
theorem wit_access_types : bit (0x200 : W64) 9 = true ∧ bit (0 : W64) 9 = false ∧ base.m.sec.locked = false
    ∧ ({ base.m.sec with locked := true } : Sec).locked = true ∧ sameCycle base.m base.m.img.badCmdAt = false
    ∧ sameCycle base.m (instant base.m) = true := by decide +kernel

/-! ### Beat time (chapter 3) -/

def withBeat (f : BeatBlk → BeatBlk) (m : Module) : Module := { running m with beat := f m.beat }
def up (s : TimeSt) (b : BeatBlk) : BeatBlk := { b with st := s, upEn := true, upPort := 2, good := 3 }

theorem wit_stray : ({ BeatBlk.init with master := true } : BeatBlk).master = true ∧ BeatBlk.init.upEn = false
    ∧ (up .free BeatBlk.init).upPort.toNat ≠ (3 : Fin 16).val := by decide +kernel

/-- The offset of a packet that carries a time, through port 2 with no delay. -/
theorem wit_time_packet : (up .free BeatBlk.init).master = false ∧ (up .free BeatBlk.init).upEn = true
    ∧ (up .free BeatBlk.init).upPort.toNat = (2 : Fin 16).val ∧ ({ up .free BeatBlk.init with remeasure := [2] } : BeatBlk).remeasure.contains 2 = true
    ∧ (up .free BeatBlk.init).remeasure.contains 2 = false := by decide +kernel
theorem wit_time_offsets : let s := st (withBeat (up .locked))
    let o (t : Time) : Int := (t + BitVec.ofNat 58 ((s.m.port' 2).delay.toNat / 100) - s.m.clk.time).toInt
    20 < (o 21).natAbs ∧ (o 20).natAbs ≤ 20 ∧ 3 ≤ s.m.beat.good ∧ (o 1024).natAbs ≤ 1024 ∧ 1024 < (o 1025).natAbs
    ∧ s.m.img.active ≠ none ∧ (st id).m.img.active = none := by decide +kernel

theorem wit_time_leaves : (up .master BeatBlk.init).st = .master ∧ bit (4 : W64) 2 = true
    ∧ ((portAs 2 (fun x => { x with st := .up }) Module.init).port' 2).st = .up
    ∧ portUp ((st (withBeat (up .locked))).m.port' 2) = false
    ∧ portUp ((portAs 2 (fun x => { x with st := .narrow }) Module.init).port' 2) = true := by decide +kernel
theorem wit_delay : good (withBeat (fun b => { b with remeasure := [2] }) Module.init) = true ∧ (List.replicate 64 (7 : W32)).length = 64
    ∧ (withBeat (fun b => { b with remeasure := [2] }) Module.init).beat.remeasure.contains 2 = true := by decide +kernel
theorem wit_time_registers : bit (1 : W64) 0 = true ∧ bit (0 : W64) 0 = false ∧ (st id).m.beat.st = .free ∧ (st id).m.img.active = none
    ∧ base.m.img.active ≠ none ∧ portUp ((portAs 2 (fun x => { x with st := .up }) Module.init).port' 2) = true := by decide +kernel

/-- A GATE alarm for gate 3 at beat 5. -/
def gate3 (part ctx : Nat) : Desc := desc part ctx 0x90 0 32 (natLe 6 5 ++ [1, 0] ++ natLe 8 3)
/-- The same alarm with another action and argument. -/
def alarm (part ctx act arg : Nat) : Desc := desc part ctx 0x90 0 32 (natLe 6 5 ++ [BitVec.ofNat 8 act, 0] ++ natLe 8 arg)
def mqWords (d : Desc) : List W64 := (List.range 4).map (fun i => BitVec.ofNat 64 (le d.bytes (8 * i) 8))
def withAlarm (m : Module) : Module :=
  { running m with beat := { m.beat with mqDesc := mqWords (alarm 0 0 8 0) }, queues := [(alarmQ (some 0), [gate3 0 2])] }

theorem wit_alarm_push : let s := st withAlarm
    let b := (s.m.beat.mqDesc.map (fun w => natLe 8 w.toNat)).flatten
    (queue s.m modQ).length < 64 ∧ descVersion b = 1 ∧ (parseDesc b).part = 0 ∧ (parseDesc b).ctx = 0 ∧ alarmOk true (parseDesc b) = true := by
  decide +kernel
theorem wit_alarm_refused : (parseDesc ((mqWords (gate3 0 1)).map (fun w => natLe 8 w.toNat)).flatten).ctx ≠ 0
    ∧ (parseDesc ((mqWords (gate3 1 0)).map (fun w => natLe 8 w.toNat)).flatten).part ≠ 0
    ∧ 64 ≤ (queue { Module.init with queues := [(modQ, List.replicate 64 (gate3 0 0))] } modQ).length := by decide +kernel
theorem wit_alarm_fires : let s := st withAlarm
    queue s.m (alarmQ (some 0)) = gate3 0 2 :: [] ∧ nextAlarm s.m = some (alarmQ (some 0)) ∧ applyFirst s.m (alarmBeat (gate3 0 2)) = false
    ∧ good s.m = true ∧ (alarmQ (some 0)).sub < 16 ∧ alarmAction (gate3 0 2) = 1 := by decide +kernel

/-! ### Control cores (chapter 3) -/

/-- Hart 0 of core 0 runs at the start of its partition's Hall, where an instruction stands. -/
def hartAt (w : Nat) (f : Hart → Hart) (m : Module) : Module :=
  let m := hall 0 (natLe 4 w) (running m)
  m.setHart 0 (f { m.hart 0 with run := true, on := true, pc := 0x100000000, xs := [(1, 0x100000100), (2, 0x4000), (3, 0x20)] })

def onHart (w : Nat) : State := st (hartAt w id)
def eqWord (f3 : Nat) : Nat := 0x0B + 2 ^ 7 * 4 + 2 ^ 12 * f3 + 2 ^ 15 * 1 + 2 ^ 20 * 2

theorem wit_hart_start : owner base.m 5 0 = some 0 ∧ (base.m.hart 0).run = false ∧ base.m.pci.stage = 8 ∧ owner base.m 5 2 = none
    ∧ (st id).m.pci.stage ≠ 8 ∧ ((onHart 0).m.hart 0).run = true := by decide +kernel

theorem wit_eq_ready (f3 : Nat) (h : f3 < 6) : issues (onHart (eqWord f3)).m 0 0 0 = some (0, 0)
    ∧ nextIsEq 0 0 f3 (onHart (eqWord f3)).m = true ∧ good (onHart (eqWord f3)).m = true
    ∧ ∃ m0, fetchInstr 0 0 ((onHart (eqWord f3)).m.hart 0).pc (noteExit 0 0 0 (issued 0 0 (onHart (eqWord f3)).m)) = (.op (.eq f3 4 1 2) 4, m0) := by
  interval_cases f3 <;> exact ⟨by decide +kernel, by decide +kernel, by decide +kernel, of_fst (by decide +kernel)⟩

/-- A GAL_READ of partition 0's Gallery 0. -/
def slotsBytes : List Byte := dbytes 0 0 0x20 0 272 (List.replicate 256 0)

/-- EQ.PUSH into Balcony 0's queue, a descriptor in the Hall at 0x100. -/
def pushing : Module := hall 0x100 slotsBytes (hartAt (eqWord 0) (fun h => { h with xs := [(1, 0x100000100), (2, 0x1000)] }) Module.init)

theorem wit_eq_push : good pushing = true ∧ issues pushing 0 0 0 = some (0, 0) ∧ nextIsEq 0 0 0 pushing = true ∧ qidOk 0x1000 = true ∧ qidOk 0x1FFF = false ∧ inHall pushing 0 0x100000100 16 = true ∧ inHall pushing 0 0x10000000 16 = false
    ∧ (16 ≤ slotsBytes.length ∧ slotsBytes.length % 16 = 0 ∧ slotsBytes.length ≤ 512) ∧ inHall pushing 0 0x100000100 272 = true
    ∧ pushAccepted pushing 0 0 1 0 slotsBytes = true ∧ pushAccepted pushing 0 1 1 0 slotsBytes = false
    ∧ (queue pushing (queueFor 1 0 0 0)).length < queueDepth (queueFor 1 0 0 0)
    ∧ queueDepth (queueFor 1 0 0 0) ≤ (queue { pushing with queues := [(⟨1, 0, 0⟩, List.replicate 16 (parseDesc slotsBytes))] } ⟨1, 0, 0⟩).length := by
  decide +kernel
theorem wit_eq_push_read : ∃ m0, fetchInstr 0 0 (pushing.hart 0).pc (noteExit 0 0 0 (issued 0 0 pushing)) = (.op (.eq 0 4 1 2) 4, m0)
    ∧ (hallRead 0 0 0x100 272 (hallRead 0 0 0x100 16 m0).2).1 = slotsBytes := by
  obtain ⟨m0, h⟩ : ∃ m0, fetchInstr 0 0 (pushing.hart 0).pc (noteExit 0 0 0 (issued 0 0 pushing)) = (.op (.eq 0 4 1 2) 4, m0) := of_fst (by decide +kernel)
  refine ⟨m0, h, ?_⟩
  have e : m0 = (fetchInstr 0 0 (pushing.hart 0).pc (noteExit 0 0 0 (issued 0 0 pushing))).2 := by rw [h]
  rw [e]; decide +kernel

theorem wit_eq_holds : let m := (onHart (eqWord 3)).m
    countPast (count m 0 0 1 0) 0 = true ∧ countPast (count m 0 0 1 0) 1 = false ∧ gateSet m 0 0 3 = false
    ∧ gateSet { m with gates := [(0, 8)] } 0 0 3 = true ∧ nget 0 m.outstanding 0 = 0 ∧ nget 0 [(0, 1)] 0 ≠ 0 := by decide +kernel

def stalledOn (w : Wait) : Module := hartAt (eqWord 0) (fun h => { h with wait := some w }) Module.init
theorem wit_stalls : waiting (stalledOn (.push ⟨1, 0, 0⟩ (parseDesc slotsBytes) 4)) 0 = some (.push ⟨1, 0, 0⟩ (parseDesc slotsBytes) 4, 0, 0)
    ∧ waiting (stalledOn (.count ⟨1, 0, 0⟩ 0)) 0 = some (.count ⟨1, 0, 0⟩ 0, 0, 0) ∧ 1 < 16 ∧ 0 < qclsCount 1
    ∧ countPast (count (stalledOn (.count ⟨1, 0, 0⟩ 0)) 0 0 1 0) 0 = true
    ∧ waiting { stalledOn (.gate 3) with gates := [(0, 8)] } 0 = some (.gate 3, 0, 0)
    ∧ waiting (stalledOn .fence) 0 = some (.fence, 0, 0) ∧ nget 0 (stalledOn .fence).outstanding 0 = 0
    ∧ (queue (stalledOn .fence) ⟨1, 0, 0⟩).length < queueDepth ⟨1, 0, 0⟩
    ∧ queueMine (stalledOn .fence) 0 1 0 = true ∧ queueMine (stalledOn .fence) 0 1 63 = false
    ∧ queueDepth ⟨1, 0, 0⟩ ≤ (queue { stalledOn .fence with queues := [(⟨1, 0, 0⟩, List.replicate 16 (parseDesc slotsBytes))] } ⟨1, 0, 0⟩).length
    ∧ good (stalledOn .fence) = true := by decide +kernel

/-- One encoded instruction for each form of which the statement on harts says something: x5 and the like as RISC-V numbers them. -/
theorem wit_instructions : issues (onHart 0x13).m 0 0 0 = some (0, 0) ∧ good (onHart 0x13).m = true ∧ bpMeets (onHart 0x13).m 0 = false
    ∧ decode32 0x123452B7 = some (.lui 5 0x12345000) ∧ decode32 0x00001297 = some (.auipc 5 0x1000) ∧ decode32 0x008002EF = some (.jal 5 8)
    ∧ decode32 0x004082E7 = some (.jalr 5 1 4) ∧ decode32 0x00208463 = some (.branch 0 1 2 8) ∧ decode32 0x00508293 = some (.aluImm false 0 5 1 5)
    ∧ decode32 0x002082B3 = some (.alu false 0 5 1 2) ∧ decode32 0x0000000F = some .fence ∧ decode32 0x0001B283 = some (.load 3 5 3 0)
    ∧ decode32 0x0051B023 = some (.store 3 3 5 0) ∧ decode32 0x1001B2AF = some (.amo 2 true 5 3 0) ∧ decode32 0x1851B2AF = some (.amo 3 true 5 3 5)
    ∧ inScratch 0x20 8 = true ∧ (0x20 : W64).toNat % 8 = 0 ∧ (0x21 : W64).toNat % 8 ≠ 0 := by decide +kernel
theorem wit_fetch : (∃ m0, fetchInstr 0 0 ((onHart 0x0051B023).m.hart 0).pc (noteExit 0 0 0 (issued 0 0 (onHart 0x0051B023).m)) = (.op (.store 3 3 5 0) 4, m0))
    ∧ ∃ m0, fetchInstr 0 0 ((onHart 0x7F).m.hart 0).pc (noteExit 0 0 0 (issued 0 0 (onHart 0x7F).m)) = (.illegal, m0) :=
  ⟨of_fst (by decide +kernel), of_fst (by decide +kernel)⟩

def armedBp : Module := { (onHart 0x13).m with dbg := { Dbg.init with bp := [(0, 0x8000000100000000)] } }
def haltedBp : Module := hartAt 0x13 (fun h => { h with bpHalt := true }) { Module.init with dbg := { Dbg.init with hitAt := [(0, 1)] } }
theorem wit_breakpoints : issues armedBp 0 0 0 = some (0, 0) ∧ armedBp.sec.locked = false ∧ bit (nget 0 armedBp.dbg.bp 0) 63 = true
    ∧ (armedBp.hart 0).bpSkip = false ∧ (armedBp.hart 0).pc.toNat = fld (nget 0 armedBp.dbg.bp 0) 2 38 * 4 ∧ good armedBp = true
    ∧ (haltedBp.hart 0).bpHalt = true ∧ good haltedBp = true ∧ nget 0 haltedBp.dbg.hitAt 0 ≠ 0 ∧ bpCtxs haltedBp 0 ≠ []
    ∧ (∀ c ∈ bpCtxs haltedBp 0, nget 0 haltedBp.outstanding (8 * 0 + c) = 0) := by decide +kernel

/-! ### Galleries and Balconies (chapters 5, 6) -/

/-- A MATMUL of one FP8 row and one FP8 tile with a read-out, at an FP32 stride of 8 bytes. -/
def mm (rows : Nat) : Desc :=
  d0 0x10 2 96 [here 16 0x1000, here 24 0x2000, here 32 0x3000, (56, 4, 32), (60, 4, 8), (64, 4, 256), (68, 2, 1), (70, 2, rows), (74, 1, 0x10), (75, 1, 0x10)]
def accD (ty n : Nat) : Desc := d0 ty 0 48 [here 16 0x1000, (24, 4, 8), (28, 2, n)]
def galQ (d : Desc) : Module := queued ⟨0, 0, 0⟩ d Module.init

theorem wit_matmul : galHead (settleBal 0 (galQ (mm 1))) 0 0x10 = some (⟨0, 0, 0⟩, mm 1)
    ∧ matmulRefusal (dequeue ⟨0, 0, 0⟩ (settleBal 0 (galQ (mm 1)))) 0 (mm 1) = none
    ∧ pairInfo ((mm 1).b 74) ((mm 1).b 75) = some (32, 1, false) ∧ good (galQ (mm 1)) = true ∧ ((galQ (mm 1)).gal' 0).grpFree = []
    ∧ (galTurn 0 (dequeue ⟨0, 0, 0⟩ (settleBal 0 (galQ (mm 1))))).isSome = true ∧ ((galQ (mm 1)).gal' 0).rdFree = 0 ∧ (mm 1).fl 1 = true := by decide +kernel
theorem wit_matmul_refused : galHead (settleBal 0 (galQ (mm 0))) 0 0x10 = some (⟨0, 0, 0⟩, mm 0)
    ∧ matmulRefusal (dequeue ⟨0, 0, 0⟩ (settleBal 0 (galQ (mm 0)))) 0 (mm 0) = some 0x11 := by decide +kernel
theorem wit_acc : galHead (settleBal 0 (galQ (accD 0x11 1))) 0 0x11 = some (⟨0, 0, 0⟩, accD 0x11 1)
    ∧ accRefusal (dequeue ⟨0, 0, 0⟩ (settleBal 0 (galQ (accD 0x11 1)))) 0 (accD 0x11 1) = none
    ∧ galHead (settleBal 0 (galQ (accD 0x12 1))) 0 0x12 = some (⟨0, 0, 0⟩, accD 0x12 1)
    ∧ accRefusal (dequeue ⟨0, 0, 0⟩ (settleBal 0 (galQ (accD 0x12 1)))) 0 (accD 0x12 1) = none
    ∧ (galTurn 0 (dequeue ⟨0, 0, 0⟩ (settleBal 0 (galQ (accD 0x11 1))))).isSome = true ∧ good (galQ (accD 0x11 1)) = true
    ∧ (galTurn 0 (dequeue ⟨0, 0, 0⟩ (settleBal 0 (galQ (accD 0x12 1))))).isSome = true ∧ good (galQ (accD 0x12 1)) = true := by decide +kernel
theorem wit_acc_refused : galHead (settleBal 0 (galQ (accD 0x11 0))) 0 0x11 = some (⟨0, 0, 0⟩, accD 0x11 0)
    ∧ accRefusal (dequeue ⟨0, 0, 0⟩ (settleBal 0 (galQ (accD 0x11 0)))) 0 (accD 0x11 0) = some 0x11
    ∧ galHead (settleBal 0 (galQ (accD 0x12 0))) 0 0x12 = some (⟨0, 0, 0⟩, accD 0x12 0)
    ∧ accRefusal (dequeue ⟨0, 0, 0⟩ (settleBal 0 (galQ (accD 0x12 0)))) 0 (accD 0x12 0) = some 0x11 := by decide +kernel

def galOp (readout read : Bool) : GalOp :=
  { desc := mm 1, segs := [], startC := 0, nextC := 33, lastC := 72, rdStart := 73, rdEnd := 104, doneC := 105, rows := [], cells := [], readout := readout,
    read := read, preload := false, outAddr := 0, outStride := 8, outFmt := 0, failed := false }
theorem wit_readout : ({ Gal.init with ops := [galOp true false] } : Gal).ops.find? (fun o => o.readout && !o.read) = some (galOp true false)
    ∧ ({ Gal.init with ops := [galOp true true] } : Gal).ops = galOp true true :: [] ∧ ((galOp true true).readout = true → (galOp true true).read = true)
    ∧ good (base.m.setGal 0 { Gal.init with ops := [galOp true true] }) = true ∧ pairLead base.m 0 = 0 ∧ (base.m.gal' 0).ops = []
    ∧ (base.m.bal' 0).ups = [] := by decide +kernel

def slotsD : Desc := parseDesc slotsBytes
def downD : Desc := d0 0x21 0 48 [here 24 0x1000]
def scrD : Desc := d0 0x23 0 48 [here 16 0x1000, (32, 4, 8), (38, 1, 15)]
def upD : Desc := d0 0x22 0 48 [here 16 0x2000, (32, 4, 256), (40, 2, 1), (46, 1, 0x10), (47, 1, 0x10)]
def balQ (d : Desc) : Module := queued ⟨1, 0, 0⟩ d Module.init
def slot0 (m : Module) : Module :=
  m.setBal 0 { m.bal' 0 with slots := [(0, { Slot.init with valid := true, kt := 1, r := 1, fmt := 0x10 })] }
def tagged (m : Module) : Module := m.setBal 0 { m.bal' 0 with tags := [(0, 0x80)] }

def turn (m : Module) : Module := balTurn 0 (settleBal 0 m)
theorem wit_balcony : balHead (turn (balQ slotsD)) 0 0x20 = some (⟨1, 0, 0⟩, slotsD)
    ∧ slotsRefusal (dequeue ⟨1, 0, 0⟩ (turn (balQ slotsD))) 0 slotsD = none ∧ (slotsD.b (16 + 32 * 7 + 22)).getLsbD 7 = false
    ∧ balHead (turn (balQ downD)) 0 0x21 = some (⟨1, 0, 0⟩, downD)
    ∧ downRefusal (dequeue ⟨1, 0, 0⟩ (turn (balQ downD))) 0 downD = none
    ∧ balHead (turn (balQ scrD)) 0 0x23 = some (⟨1, 0, 0⟩, scrD)
    ∧ scrRefusal (dequeue ⟨1, 0, 0⟩ (turn (balQ scrD))) 0 scrD = none
    ∧ good (balQ slotsD) = true ∧ good (balQ downD) = true ∧ good (balQ scrD) = true
    ∧ ((balQ scrD).bal' 0).ups = [] ∧ ((balQ scrD).bal' 0).held = none := by decide +kernel
theorem wit_up : balHead (turn (slot0 (balQ upD))) 0 0x22 = some (⟨1, 0, 0⟩, upD)
    ∧ upRefusal (dequeue ⟨1, 0, 0⟩ (turn (slot0 (balQ upD)))) 0 upD = none ∧ pairInfo (upD.b 46) (upD.b 47) = some (32, 1, false)
    ∧ good (slot0 (balQ upD)) = true ∧ upSelected (balRead [] ((slot0 (balQ upD)).bal' 0)) upD ≠ []
    ∧ upSelected (balRead [] ((tagged (slot0 (balQ upD))).bal' 0)) upD = [] ∧ good (tagged (slot0 (balQ upD))) = true
    ∧ (let m := turn (slot0 (balQ upD))
       ((settleBal 0 (passToCycle ((slot0 (balQ upD)).gal' 0).busyTo (dequeue ⟨1, 0, 0⟩ m))).bal' 0).ups = [])
    ∧ ((slot0 (balQ upD)).gal' 0).grpFree = []
    ∧ 1 ≤ upTiles upD := by decide +kernel
theorem wit_up_complete : let o : BalOp := { desc := upD, phase := 4, startC := 0, endC := 0, segs := [], doneC := 0, failed := false }
    ({ Bal.init with ups := [o] } : Bal).ups = o :: [] ∧ ({ Bal.init with ups := [o] } : Bal).held = none ∧ o.doneC ≤ base.m.clk.cycle := by
  decide +kernel

/-! ### Risers, Winders, Landings and Newels (chapters 7, 8) -/

def convD (rnd n : Nat) : Desc :=
  d0 0x40 rnd 112 [here 16 0x1000, here 24 0x2000, (64, 4, 8), (68, 4, 8), (80, 4, n), (84, 4, 1), (96, 1, 0), (97, 1, 1)]
def winD (fl n : Nat) : Desc := d0 0x48 fl 64 [here 16 0x1000, here 24 0x2000, here 32 0x3000, (40, 4, 8), (44, 4, 8), (48, 4, n), (52, 4, 1)]
def runD (rows : Nat) : Desc := d0 0x30 0 304 [here 16 0x1000, (32, 4, rows), (36, 4, 1), (44, 2, 1)]
def genD (form : Nat) : Desc := d0 0x50 0 48 [here 16 0x1000, (32, 4, 8), (40, 1, form)]
def seedD : Desc := d0 0x51 0 32 [(16, 8, 9), (24, 1, 3)]

def engOp (d : Desc) : EngOp :=
  { desc := d, startC := 0, doneC := 9, elems := 1, clip := 0, nanrep := 0, under := 0, amax := 0, hallSt := [], nwlSt := [], draws := [], issues := [],
    marks := [], failed := false }
theorem wit_convert : let m := queued ⟨3, 0, 0⟩ (convD 1 1) Module.init
    (m.ris' 0).op = none ∧ canStart m 3 0 = true ∧ headOwned m 3 0 = some (⟨3, 0, 0⟩, convD 1 1)
    ∧ convertRefusal (dequeue ⟨3, 0, 0⟩ m) 0 (convD 1 1) = none ∧ cvRnd (convD 1 1) = 1 ∧ drawsRefused (nwlEcc 0 (convD 1 1) [] (dequeue ⟨3, 0, 0⟩ m)) 0 0 = false ∧ good m = true
    ∧ (∀ l ∈ requesters m 0 0, l = []) ∧ (∀ l ∈ requesters m 0 3, l = []) ∧ (risLead m 0 = 0 ∧ (m.ris' 0).op = none)
    ∧ convertRefusal (dequeue ⟨3, 0, 0⟩ m) 0 (convD 1 0) = some 0x10
    ∧ headOwned (queued ⟨3, 0, 0⟩ (convD 1 0) Module.init) 3 0 = some (⟨3, 0, 0⟩, convD 1 0) := by decide +kernel
theorem wit_transform : let m := queued ⟨4, 0, 0⟩ (winD 2 1) Module.init
    (m.win' 0).op = none ∧ canStart m 4 0 = true ∧ headOwned m 4 0 = some (⟨4, 0, 0⟩, winD 2 1)
    ∧ winRefusal (dequeue ⟨4, 0, 0⟩ m) (winD 2 1) = none ∧ wnSign (winD 2 1) = true ∧ drawsRefused (nwlEcc 0 (winD 2 1) [] (dequeue ⟨4, 0, 0⟩ m)) 0 0 = false ∧ good m = true
    ∧ (∀ l ∈ requesters m 0 4, l = [])
    ∧ winRefusal (dequeue ⟨4, 0, 0⟩ m) (winD 2 0) = some 0x10
    ∧ headOwned (queued ⟨4, 0, 0⟩ (winD 2 0) Module.init) 4 0 = some (⟨4, 0, 0⟩, winD 2 0) := by decide +kernel
theorem wit_run : let m := hall 0x1000 (natLe 8 0x3F00000000000000) (queued ⟨2, 0, 0⟩ (runD 1) Module.init)
    ((m.lnd' 0).op = none ∧ canStart m 2 0 = true ∧ headOwned m 2 0 = some (⟨2, 0, 0⟩, runD 1) ∧ good m = true
      ∧ runRefusal (dequeue ⟨2, 0, 0⟩ m) 0 (runD 1) = none ∧ runRefusal (dequeue ⟨2, 0, 0⟩ m) 0 (runD 0) = some 0x10)
    ∧ ∃ secs : List (List LOp), programOf (runD 1) (hallRead 0 0 (gaOff ((runD 1).a 16)) (8 * rnProg (runD 1))
        (memErrs 0 [] (descStart 2 0 (runD 1) (dequeue ⟨2, 0, 0⟩ m)))).1 = some secs ∧ secs.map List.length = [0] :=
  ⟨by decide +kernel, of_map1 (g := fun l : List (List LOp) => l.map List.length) (c := [0]) (by decide +kernel)⟩
theorem wit_run_refused : headOwned (queued ⟨2, 0, 0⟩ (runD 0) Module.init) 2 0 = some (⟨2, 0, 0⟩, runD 0) ∧ lndLead base.m 0 = 0
    ∧ (base.m.lnd' 0).op = none ∧ ∀ l ∈ requesters base.m 0 14, l = [] := by decide +kernel
theorem wit_stream_clear : let x : Ris := { Ris.init with last := some (engOp (convD 1 1)), lastAt := instant base.m }
    sameCycle base.m x.lastAt = true ∧ x.last = some (engOp (convD 1 1)) ∧ cvStream (engOp (convD 1 1)).desc = (0 : Fin 16)
    ∧ sameCycle base.m Ris.init.lastAt = false ∧ good (base.m.setRis 0 x) = true := by decide +kernel
theorem wit_idle_engines : (∀ i, (base.m.ris' i).op = none) ∧ (∀ i, (base.m.win' i).op = none) ∧ ∀ i, (base.m.lnd' i).op = none :=
  ⟨fun _ => rfl, fun _ => rfl, fun _ => rfl⟩
theorem wit_newel : nwlHead (queued ⟨5, 0, 0⟩ (genD 2) Module.init) 0 0x50 = some (⟨5, 0, 0⟩, genD 2)
    ∧ genRefusal (nwlServe 0 0 (nwlEcc 0 (genD 2) [] (dequeue ⟨5, 0, 0⟩ (queued ⟨5, 0, 0⟩ (genD 2) Module.init)))) 0 (genD 2) = none
    ∧ nwlHead (queued ⟨5, 0, 0⟩ seedD Module.init) 0 0x51 = some (⟨5, 0, 0⟩, seedD) := by decide +kernel
theorem wit_engine_op : ({ Ris.init with op := some (engOp (convD 1 1)) } : Ris).op = some (engOp (convD 1 1))
    ∧ ({ Win.init with op := some (engOp (winD 2 1)) } : Win).op = some (engOp (winD 2 1))
    ∧ ({ Lnd.init with op := some (engOp (runD 1)) } : Lnd).op = some (engOp (runD 1))
    ∧ ({ Nwl.init with op := some (engOp (genD 2)) } : Nwl).op = some (engOp (genD 2)) := by decide +kernel

/-! ### Memory and Flight engines (chapters 9, 10) -/

def withTg (t : Tg) (m : Module) : Module := tgSet 0 t m
theorem wit_cache : (running Module.init).cache 0 = PCache.init ∧ PCache.init.busy = none ∧ cacheSets base.m 0 ≠ 0 ∧ cacheSets base.m 1 = 0
    ∧ ({ PCache.init with busy := some true } : PCache).busy ≠ none ∧ good base.m = true ∧ (memErrs 0 [] base.m).cache 0 = PCache.init := by
  decide +kernel
/-- A cache of one line of fast memory whose first sector is dirty. -/
def line0 : CacheLine :=
  { tier := 1, addr := 0, valid := 1, dirty := 1, data := List.replicate 256 7, used := 0, bad := 0, own := 0, marks := [] }
theorem wit_cache_lines : let m := (running Module.init).setCache 0 { PCache.init with lines := [(0, line0)] }
    let spot (l : CacheLine) (i : Nat) : Nat × Nat := (l.tier, place m 0 l.tier (l.addr * 256 + i * 32) / 32)
    (∀ x ∈ (m.cache 0).lines, x.2.tier < 3 ∧ x.2.data.length = 256) ∧ bit line0.dirty 0 = true ∧ good m = true
    ∧ (∀ i : Fin 8, ∀ j : Fin 8, spot line0 i = spot line0 j → i = j) ∧ (m.cache 0).lines = [(0, line0)] := by decide +kernel
def outOfService (m : Module) : Module :=
  { running m with img := { (running m).img with active := some { struct0 with oos := [(7, 0)] } } }
theorem wit_channel_test : ¬ ((tgGet base.m 0).running = true ∨ (tgGet base.m 0).pattern = 7 ∨ (tgGet base.m 0).mode = 3 ∨ (tgGet base.m 0).order = 3)
    ∧ ({ tgGet base.m 0 with pattern := 7 } : Tg).pattern = 7 ∧ unitOos (outOfService Module.init) (chUnit 0).1 (chUnit 0).2 = true
    ∧ unitOos base.m (chUnit 0).1 (chUnit 0).2 = false ∧ ({ tgGet base.m 0 with running := true } : Tg).running = true
    ∧ good (withTg { tgGet base.m 0 with running := true } (running Module.init)) = true
    ∧ (tgGet (withTg { tgGet base.m 0 with running := true } (running Module.init)) 0).running = true
    ∧ good (outOfService Module.init) = true := by decide +kernel

def walkD (ty fl src dst len : Nat) : Desc :=
  d0 ty fl 128 [here 16 src, here 24 dst, (32, 4, len), (36, 4, 1), (40, 4, 1), (44, 4, 1), (48, 4, 1)]
/-- The fast tier begins at tier code 1. -/
def fast : Nat := 2 ^ 54
def moveD (len : Nat) : Desc := walkD 0x60 0 0x1000 0x2000 len
def gathD (n : Nat) : Desc := d0 0x61 0 48 [here 16 0x1000, here 24 0x2000, (32, 4, n)]
def prefD (len : Nat) : Desc := walkD 0x62 0 fast 0 len
def putD (len : Nat) : Desc := d0 0x63 0 64 [here 16 0x1000, here 24 0x2000, (48, 4, len), (52, 2, 9), (54, 1, 0)]
def fltQ (d : Desc) : Module := queued ⟨6, 0, 0⟩ d Module.init
def soloOn (m : Module) : Module :=
  m.setVst 0 { m.vst' 0 with slots := [(0, { vslot .open 1 with replayMode := 2 })] }

theorem wit_flight_heads : fltHead (fltQ (moveD 64)) 0 0x60 = some (⟨6, 0, 0⟩, moveD 64) ∧ fltHead (fltQ (gathD 1)) 0 0x61 = some (⟨6, 0, 0⟩, gathD 1)
    ∧ fltHead (fltQ (prefD 32)) 0 0x62 = some (⟨6, 0, 0⟩, prefD 32) ∧ fltHead (fltQ (putD 64)) 0 0x63 = some (⟨6, 0, 0⟩, putD 64)
    ∧ fltHead (fltQ (moveD 0)) 0 0x60 = some (⟨6, 0, 0⟩, moveD 0) ∧ fltHead (fltQ (gathD 0)) 0 0x61 = some (⟨6, 0, 0⟩, gathD 0)
    ∧ fltHead (fltQ (prefD 0)) 0 0x62 = some (⟨6, 0, 0⟩, prefD 0) ∧ fltHead (fltQ (putD 0)) 0 0x63 = some (⟨6, 0, 0⟩, putD 0) := by decide +kernel
theorem wit_flight_accepted : moveRefusal (dequeue ⟨6, 0, 0⟩ (fltQ (moveD 64))) (moveD 64) = none
    ∧ gatherRefusal (dequeue ⟨6, 0, 0⟩ (fltQ (gathD 1))) (gathD 1) = none ∧ prefetchRefusal (dequeue ⟨6, 0, 0⟩ (fltQ (prefD 32))) (prefD 32) = none
    ∧ putRefusal (dequeue ⟨6, 0, 0⟩ (fltQ (putD 64))) (putD 64) = none ∧ soloSlot (fltQ (putD 64)) 0 = none
    ∧ soloSlot (soloOn (fltQ (putD 64))) 0 ≠ none ∧ putRefusal (soloOn (fltQ (putD 64))) (putD 64) = none
    ∧ good (soloOn (fltQ (putD 64))) = true ∧ good (fltQ (moveD 64)) = true ∧ good (fltQ (gathD 1)) = true ∧ good (fltQ (prefD 32)) = true
    ∧ good (fltQ (putD 64)) = true := by decide +kernel
theorem wit_flight_refused : moveRefusal (dequeue ⟨6, 0, 0⟩ (fltQ (moveD 0))) (moveD 0) ≠ none
    ∧ gatherRefusal (dequeue ⟨6, 0, 0⟩ (fltQ (gathD 0))) (gathD 0) ≠ none ∧ prefetchRefusal (dequeue ⟨6, 0, 0⟩ (fltQ (prefD 0))) (prefD 0) ≠ none
    ∧ putRefusal (fltQ (putD 0)) (putD 0) ≠ none := by decide +kernel

def fltOp (d : Desc) (total : Nat) (bs : List BurstRec) : FltOp :=
  { desc := d, next := 0, total := total, entry := 0, run := none, inEntry := 0, linOff := 0, issuedAll := false, notify := 0, err := 0, bursts := bs,
    atoms := [] }
def fltWith (os : List FltOp) (f : Flt → Flt) (m : Module) : Module :=
  let m := running m
  m.setFlt 0 (f { m.flt' 0 with ops := os })
def burst (tag : Nat) : BurstRec := { tag := tag, issued := 0, kind := .localAck, src := 0, dst := 0, len := 64, shared := false, mate := none }

theorem wit_burst_issue : let o := fltOp (moveD 512) 512 []
    let m := fltWith [o] id Module.init
    (m.flt' 0).ops = o :: [] ∧ o.issuedAll = false ∧ o.err = 0 ∧ o.desc.ty = 0x60
    ∧ needsTag m o.desc (mvSrcAt o.desc 0) (mvDstAt o.desc 0) = false ∧ srcSide m o.desc (mvSrcAt o.desc 0) = .here
    ∧ dstSide m o.desc (mvDstAt o.desc 0) = .here ∧ o.next + mvBurst o.desc o.next < o.total ∧ good m = true := by decide +kernel
/-- With the 512 reserved tags held and no shared one allowed, an engine has no tag. -/
theorem wit_burst_stalls : let o := fltOp (walkD 0x60 0 0x1000 fast 512) 512 []
    let full := { fltOp (moveD 64) 64 ((List.range 512).map burst) with issuedAll := true }
    let m := fltWith [o, full] (fun x => { x with maxShare := 0 }) Module.init
    needsTag m o.desc (mvSrcAt o.desc 0) (mvDstAt o.desc 0) = true ∧ tagFor m 0 = none ∧ (m.flt' 0).ops = o :: [full]
    ∧ (m.flt' 0).stallFrom = none ∧ good m = true := by decide +kernel
/-- A MOVE whose source is in slot 3, where chip 9 is. -/
def slotD : Desc := d0 0x60 0 128 [(16, 8, 0x0300000000001000), here 24 0x2000, (32, 4, 512), (36, 4, 1), (40, 4, 1), (44, 4, 1), (48, 4, 1)]
theorem wit_burst_from_slot : let o := fltOp slotD 512 []
    let m0 := fltWith [o] id Module.init
    let m : Module := { m0 with pci := { m0.pci with slotMap := [(3, 0x80000009)] } }
    (m.flt' 0).ops = o :: [] ∧ o.issuedAll = false ∧ o.err = 0 ∧ o.desc.ty = 0x60 ∧ tagFor m 0 ≠ none
    ∧ srcSide m o.desc (mvSrcAt o.desc 0) = .slot 3 ∧ slotChip m 3 = some 9 ∧ good m = true := by decide +kernel
theorem wit_burst_answers : let b := burst 7
    let o := fltOp (moveD 64) 64 [b]
    findBurst ({ Flt.init with ops := [o] } : Flt) 7 = some (0, o, b) ∧ (b.kind = .localAck ∧ o.notify = 0)
    ∧ o.bursts.filter (fun c => c.tag != 7) = [] ∧ (o.issuedAll = false ∧ o.err = 0) ∧ ({ o with issuedAll := true } : FltOp).issuedAll = true
    ∧ (fltOp (moveD 64) 64 [burst 7, burst 8]).bursts.filter (fun c => c.tag != 7) ≠ []
    ∧ findBurst ({ Flt.init with dead := [(7, 0, 0, 1)] } : Flt) 7 = none
    ∧ b.mate = none ∧ base.m.clk.elapsed ≤ burstDue Flt.init b ∧ orphanAt ({ Flt.init with dead := [(7, 0, 0, 1)] } : Flt) 7 = none
    ∧ (o.bursts.filter fun c => c.kind != .held).filter (fun c => c.tag != 7) = []
    ∧ (([burst 7, burst 8]).filter fun c => c.kind != .held).filter (fun c => c.tag != 7) ≠ []
    ∧ good (fltWith [o] id Module.init) = true
    ∧ ({ Flt.init with dead := [(7, 0, 0, 1)] } : Flt).dead.find? (fun y => y.1 = 7) = some (7, 0, 0, 1) := by decide +kernel

/-! ### Fabric (chapter 11) -/

def portSt (s : PortSt) (p : Port) : Port := { p with st := s, enable := true }
theorem wit_ports : Port.init.st ≠ .quarantined ∧ (portSt .disabled Port.init).st = .disabled ∧ (portSt .quarantined Port.init).st = .quarantined
    ∧ (portSt .down Port.init).st = .down ∧ (portSt .down Port.init).enable = true ∧ 4 ≤ (goodLanes 0x0F).length ∧ (goodLanes 7).length < 4
    ∧ (portSt .training Port.init).st = .training ∧ good (portAs 0 (portSt .training) Module.init) = true := by decide +kernel
theorem wit_bring_up : let m := portAs 1 (fun p => { portSt .up p with nbrKnown := true, nbrDev := 7, nbrPort := 2 }) (portAs 0 (portSt .training) Module.init)
    (m.port' 0).st = PortSt.training ∧ 8 ≤ (goodLanes 0xFF).length ∧ 4 ≤ (goodLanes 0x0F).length ∧ (goodLanes 0x0F).length < 8
    ∧ ((m.port' 1).nbrKnown = true ∧ (m.port' 1).nbrDev = 7 ∧ (m.port' 1).nbrPort = 2) ∧ (m.port' 3).nbrKnown = false ∧ m.fused.devId = 1
    ∧ (List.replicate 64 (0 : W32)).length = 64 ∧ portUp (m.port' 1) = true ∧ 2 ≤ (pickVer 2 2).toNat ∧ (pickVer 1 2).toNat < 2 ∧ good m = true := by decide +kernel
theorem wit_lanes : let q : Port := { portSt .up Port.init with lanes := 0x1FF, active := [0, 1, 2, 3, 4, 5, 6, 7], spareFor := 15, ver := 2 }
    bit q.lanes 3 = true ∧ 3 ∈ q.active ∧ 8 ∉ q.active ∧ q.st = .up ∧ bit (q.lanes &&& ~~~(BitVec.ofNat 9 (2 ^ 3))) 8 = true ∧ q.spareFor = 15
    ∧ 2 ≤ q.ver.toNat ∧ 4 ≤ (goodLanes (q.lanes &&& ~~~(BitVec.ofNat 9 (2 ^ 3)))).length ∧ ¬ (2 ≤ ({ q with ver := 1 } : Port).ver.toNat)
    ∧ ({ q with spareFor := 2 } : Port).spareFor ≠ 15 ∧ (portSt .narrow q).st = .narrow ∧ portUp q = true ∧ portUp Port.init = false
    ∧ ({ q with retraining := true } : Port).retraining = true := by decide +kernel

def hdr0 (ty : Nat) : Hdr :=
  { ver := 1, ty := BitVec.ofNat 8 ty, tc := 0, slice := 5, epoch := 0, len := 0, dstChip := 0, srcChip := 3, dstPart := 0, srcPart := 0, tag := 7,
    addr := 0x0F00000000001000, aux := 0, rsv := 0 }
def flit (kind : Nat) : Flit := { crc := 0, kind := BitVec.ofNat 3 kind, tc := 0, vcb := false, xoff := 3, rsv := 0, hdr := none, content := [] }
theorem test_crc_right (f : Flit) : flitCrcOk (flitWithCrc f) = true := by simp [flitCrcOk, flitWithCrc, flitBytes0]
theorem test_crc_wrong (f : Flit) : flitCrcOk { f with crc := ~~~ (flitWithCrc f).crc } = false := by
  simp [flitCrcOk, flitWithCrc, flitBytes0]
theorem wit_flits : ((flit 2).hdr.isSome ↔ ((flit 2).kind = 1 ∨ (flit 2).kind = 4)) ∧ (flit 2).content.length ≤ 256
    ∧ (portSt .up Port.init).st ≠ .disabled ∧ (portSt .up Port.init).st ≠ .down ∧ portUp (portSt .up Port.init) = true
    ∧ bufferUsed (portSt .up Port.init) + flitSize (flit 2) ≤ 524288 ∧ (vcOf (portSt .up Port.init) 0).pkts.getLast? = none := by decide +kernel
def inPkt : InPkt :=
  { hdr := hdr0 1, out := 3, outVc := 0, flits := [], got := 1, sent := 1, content := [], ended := false, truncated := false, mark := false,
    lastAt := 0 }
theorem wit_tail : stalledPkt (vcOf (setVc Port.init 0 { VcSt.init false with pkts := [inPkt] }) 0) = some inPkt ∧ inPkt.out < 16 := by decide +kernel
/-- A beat that closes a window, and one that does not. -/
theorem wit_congestion : let at_ (t : Nat) : Module := { Module.init with clk := { Module.init.clk with time := BitVec.ofNat 58 t } }
    nextMultiple 1 none (at_ (1023 * 1024 + 5)) = 1024 ∧ (1024 : Beat).toNat % 1024 = 0 ∧ (at_ 0).beat.cmapAt ≠ some ((1024 : Beat).toNat / 1024 - 1)
    ∧ nextMultiple 1 none (at_ 5) = 1 ∧ (1 : Beat).toNat % 1024 ≠ 0 ∧ (at_ 0).beat.cmapBy = false
    ∧ ({ BeatBlk.init with cmapBy := true } : BeatBlk).cmapBy = true ∧ good (at_ 5) = true := by decide +kernel
theorem wit_thresholds : let q := Port.init
    let next (v : W64) := setVc q 0 (xoffUpdate { vcOf q 0 with off := fld v 16 10, on := fld v 0 10 })
    fld (0x00100010 : W64) 16 10 ≤ fld (0x00100010 : W64) 0 10 ∧ 512 - headroom q.delay < offSum (next 0x03FF0010)
    ∧ ¬ (fld (0x00080004 : W64) 16 10 ≤ fld (0x00080004 : W64) 0 10 ∨ 512 - headroom q.delay < offSum (next 0x00080004)) := by decide +kernel

def pkt (ty : Nat) (h : Hdr → Hdr) (b : List Byte) : Pkt := { hdr := h (hdr0 ty), payload := b }
def noSlice (h : Hdr) : Hdr := { h with slice := 0xFFF }
theorem wit_local : (noSlice (hdr0 0x28)).slice.toNat = 0xFFF ∧ (hdr0 0x28).ty = 0x28 ∧ (hdr0 1).ty ≠ 0x28 ∧ (hdr0 1).slice.toNat ≠ 0xFFF
    ∧ (sliceIdx base.m 5).isSome = true ∧ (1 : Byte) ≠ curEpoch base.m 5 ∧ (0 : Byte) = curEpoch base.m 5 ∧ sliceIdx base.m 6 = none
    ∧ hasReply 4 = false ∧ member base.m 5 0 = true ∧ (hdr0 1).tc = 0 ∧ wingUp base.m (homeWing 0) = true
    ∧ targetWing base.m (pkt 1 id []) = some 0 ∧ (hdr0 1).ty ≠ 0x18
    ∧ mirOk (pkt 0x18 (fun h => { h with aux := 3 }) []) = true := by decide +kernel

def accepted (k : Pkt) (m : Module) : Module := { running m with rte := { m.rte with accepted := [k] } }
theorem wit_write : (accepted (pkt 1 id [1, 2]) Module.init).rte.accepted.find? (fun x => x.hdr.ty.toNat = 1) = some (pkt 1 id [1, 2])
    ∧ dataReason (pkt 1 id [1, 2]) 2 true true base.m = none ∧ gaTier (pkt 1 id [1, 2]).hdr.addr = 0
    ∧ dataReason (pkt 1 (fun h => { h with addr := 0x0F00000018000000 }) [1]) 1 true true base.m = some 4
    ∧ 0x1000 / 32 = (0x1000 + 2 - 1) / 32 ∧ good (accepted (pkt 1 id [1, 2]) Module.init) = true := by decide +kernel
theorem wit_requests : dataReason (pkt 2 id (natLe 8 1)) 8 true true base.m = none ∧ dataReason (pkt 2 id (natLe 8 1)) 8 true false base.m = some 4
    ∧ dataReason (pkt 3 (fun h => { h with aux := 32 }) []) 32 false true base.m = none ∧ dataReason (pkt 3 id []) 0 false false base.m = some 4
    ∧ atomReason (pkt 5 id (natLe 4 1)) base.m = some 5 ∧ atomSize 6 = 0 ∧ atomSize 0 ≠ 0 ∧ atomFetches 4 = true ∧ atomFetches 0 = false
    ∧ atomReason (pkt 5 (fun h => { h with addr := 0x0F40000000001000 }) (natLe 4 1)) base.m = none
    ∧ gaTier (0x0F40000000001000 : W64) ≠ 0 ∧ atomReason (pkt 5 id (natLe 3 1)) base.m = some 4 := by decide +kernel
theorem wit_answers : let k := pkt 6 id []
    let m := fltWith [fltOp (moveD 64) 64 [burst 7, burst 8]] id (accepted k Module.init)
    (∀ j : Fin 32, fltRespond j 7 .ack (replyCross k base.m) = none) ∧ (∃ m2, fltRespond 0 7 .ack (replyCross k m) = some m2) ∧ base.m.mir = []
    ∧ base.m.vst = [] ∧ m.rte.accepted.find? (fun x => x.hdr.ty.toNat = 6) = some k ∧ replyOk k = true
    ∧ replyOk (pkt 6 (fun h => { h with aux := 2 }) []) = false ∧ replyOk (pkt 4 id [1]) = true := by
  refine ⟨by decide +kernel, Option.isSome_iff_exists.mp (by decide +kernel), by decide +kernel, by decide +kernel, by decide +kernel,
    by decide +kernel, by decide +kernel, by decide +kernel⟩
theorem wit_read_answer : ∃ m2, fltRespond 0 7 (.data (List.replicate 64 1))
    (replyCross (pkt 4 id []) <| fltWith [fltOp (moveD 64) 64 [{ burst 7 with kind := .slotData, dst := 0x0F00000000002000 }]] id Module.init) = some m2 :=
  Option.isSome_iff_exists.mp (by decide +kernel)
def listens (m : Module) : Module := { m with wdg := { m.wdg with noticeSrc := 0x80000003 } }
theorem wit_mgmt : noticeFrom (listens Module.init).wdg 3 = true ∧ noticeFrom Module.init.wdg 3 = false
    ∧ mgmtForm (pkt 0x28 (fun h => { h with slice := 0xFFF, dstPart := 31, aux := 0x1000000000020020 }) []) = true ∧ fld (0x1000000000020020 : W64) 60 4 = 1
    ∧ mgmtForm (pkt 0x28 (fun h => { h with slice := 0xFFF, dstPart := 31, aux := 0x2000000000020018 }) (natLe 8 1)) = true ∧ fld (0x2000000000020018 : W64) 60 4 = 2
    ∧ managerBlk 0x20018 = true ∧ managerBlk 0x60010 = false ∧ Module.init.sec.locked = false := by decide +kernel
def swapping (raw : W64) (m : Module) : Module := { running m with rte := { m.rte with st := .armed, armedBeat := 1, nextRaw := raw } }
theorem wit_swap : (swapping 0 Module.init).rte.st = .armed ∧ ¬ ((swapping 0 Module.init).img.st = .armed ∧ (swapping 0 Module.init).img.armedBeat = 1)
    ∧ swapCheck (passToBeat 1 (swapping 0 Module.init)) = none ∧ swapCheck (passToBeat 1 (swapping 0x2000 Module.init)) = some (5, 0)
    ∧ atOrAfter (beatNow base.m) 1 = false ∧ atOrAfter (beatNow base.m) 0 = true ∧ base.m.rte.st ≠ .armed := by decide +kernel

/-! ### Arcade (chapter 12) -/

/-- An ALLREDUCE of eight FP32 elements among `size` members at rank 0, its map at 0x3000. -/
def arD (fl size : Nat) : Desc := d0 0x70 fl 80 [here 16 0x1000, here 24 0x2000, here 40 0x3000, (48, 4, 8), (52, 4, 7), (56, 2, size)]
def cfgD (size : Nat) : Desc := d0 0x71 0 80 [here 40 0x3000, (56, 2, size)]
/-- Partition 0 of chip 0, and of chip 1, in the map. -/
def arcQ (d : Desc) : Module :=
  let m := queued ⟨7, 0, 0⟩ d Module.init
  hall 0x3000 (natLe 4 0 ++ natLe 4 1) { m with rte := { m.rte with chipValid := true } }
def arcM1 (d : Desc) : Module := (dequeue ⟨7, 0, 0⟩ (arcQ d)).setArc 0 { Arc.init with rr := 0 }

theorem wit_allreduce (size : Nat) (h : size = 1 ∨ size = 2) : arcHead (arcQ (arD 0 size)) 0 0x70 = some (⟨7, 0, 0⟩, arD 0 size)
    ∧ arRefusal (arcM1 (arD 0 size)) 0 (arD 0 size) = none
    ∧ mapRefusal (readEnts 0 0 ((arD 0 size).a 40) (ranksUsed (arRing (arD 0 size)) (arSize (arD 0 size)) (arRank (arD 0 size))) (arcM1 (arD 0 size))).2
        (arD 0 size) (readEnts 0 0 ((arD 0 size).a 40) (ranksUsed (arRing (arD 0 size)) (arSize (arD 0 size)) (arRank (arD 0 size)))
          (arcM1 (arD 0 size))).1 = none
    ∧ arCount (arD 0 size) ≠ 0 ∧ soloSlot (arcQ (arD 0 size)) 0 = none ∧ openSuspect (arcQ (arD 0 size)).wdg = none
    ∧ good (arcQ (arD 0 size)) = true := by
  rcases h with rfl | rfl <;> decide +kernel
theorem wit_allreduce_phase : ∃ f, phaseAt (arRing (arD 0 2)) (arSize (arD 0 2)) (arRank (arD 0 2)) (arCount (arD 0 2)) (arDtype (arD 0 2) = 1) 0 = some f
    ∧ f.dst = some 1 := of_map1 (g := fun f : Phase => f.dst) (by decide +kernel)
theorem wit_arc_refused : arcHead (arcQ (arD 0 0)) 0 0x70 = some (⟨7, 0, 0⟩, arD 0 0) ∧ arRefusal (arcM1 (arD 0 0)) 0 (arD 0 0) ≠ none
    ∧ arcHead (arcQ (cfgD 0)) 0 0x71 = some (⟨7, 0, 0⟩, cfgD 0) ∧ arRefusal (arcM1 (cfgD 0)) 0 (cfgD 0) ≠ none := by decide +kernel
theorem wit_vote_cfg : arcHead (arcQ (cfgD 2)) 0 0x71 = some (⟨7, 0, 0⟩, cfgD 2) ∧ arRefusal (arcM1 (cfgD 2)) 0 (cfgD 2) = none
    ∧ mapRefusal (readEnts 0 0 ((cfgD 2).a 40) (ranksUsed false 2 0) (arcM1 (cfgD 2))).2 (cfgD 2)
        (readEnts 0 0 ((cfgD 2).a 40) (ranksUsed false 2 0) (arcM1 (cfgD 2))).1 = none := by decide +kernel

/-- An ARCADE packet of operation 7, phase and kind as told. -/
def arcPkt (ty ph kind : Nat) (b : List Byte) : Pkt :=
  pkt ty (fun h => { h with addr := 0, aux := BitVec.ofNat 64 (2 ^ 32 * 7 + 2 ^ 16 * ph + 2 ^ 14 * kind) }) b
def arcOp (ph : Nat) : ArcOp :=
  { desc := arD 0 2, ring := false, phase := ph, vals := [], ents := [(0, 0), (1, 1)], readies := [], sent := false, got := 0, startAt := 0, limit := 5 }
theorem wit_arcade_idle : Arc.init.op = none ∧ Arc.init.early.length < 64 ∧ (0, 7) ∉ Arc.init.ended
    ∧ 64 ≤ (List.replicate 64 ({ pkt := arcPkt 0x10 1 1 [], at_ := 0 } : Early)).length ∧ (0, 7) ∈ ({ Arc.init with ended := [(0, 7)] } : Arc).ended
    ∧ fld (arcPkt 0x10 1 1 []).hdr.aux 31 1 = 0 ∧ fld (arcPkt 0x10 1 1 []).hdr.aux 32 32 = 7 ∧ fld (arcPkt 0x10 1 1 []).hdr.aux 16 15 = 1
    ∧ fld (arcPkt 0x10 1 1 []).hdr.aux 14 2 = 1
    ∧ (accepted (arcPkt 0x10 1 1 []) Module.init).rte.accepted.find? (fun x => x.hdr.ty.toNat = 0x10) = some (arcPkt 0x10 1 1 []) := by decide +kernel
theorem wit_arcade_forms : arcOk (arcPkt 0x10 1 1 []) = true ∧ arcOk (arcPkt 0x10 1 0 (List.replicate 8 0)) = true ∧ arcOk (arcPkt 0x10 1 2 []) = false
    ∧ voteOk (arcPkt 0x11 1 0 (List.replicate 8 0)) = true ∧ voteOk (arcPkt 0x11 1 1 []) = false
    ∧ good (accepted (arcPkt 0x10 1 1 []) Module.init) = true
    ∧ (accepted (arcPkt 0x11 1 0 (List.replicate 8 0)) Module.init).rte.accepted.find? (fun x => x.hdr.ty.toNat = 0x11)
      = some (arcPkt 0x11 1 0 (List.replicate 8 0)) := by decide +kernel
theorem wit_arcade_running : (arcOp 0).desc.part = 0 ∧ (arOpId (arcOp 0).desc).toNat = 7
    ∧ ∃ f, opPhase (arcOp 0) = some f ∧ (f.num, f.dst, f.narrow, phaseBytes (arcOp 0) f) = (1, some 1, false, 32) :=
  ⟨by decide +kernel, by decide +kernel, of_map1 (g := fun f : Phase => (f.num, f.dst, f.narrow, phaseBytes (arcOp 0) f)) (by decide +kernel)⟩
theorem wit_arcade_data : 1 < fld (arcPkt 0x10 2 1 []).hdr.aux 16 15 ∧ 2 ∉ (arcOp 0).readies ∧ 1 ∉ (arcOp 0).readies ∧ (arcOp 0).sent = false
    ∧ (arcPkt 0x10 1 0 (List.replicate 8 0)).payload.length % wireBytes 0 false = 0 ∧ (0 : Nat) + 8 ≤ 32 ∧ (0 : Nat) + 8 < 32 ∧ 32 < 0 + 36
    ∧ fld (arcPkt 0x10 2 0 []).hdr.aux 14 2 ≠ 1 ∧ fld (arcPkt 0x10 2 0 []).hdr.aux 16 15 ≠ 1 := by decide +kernel
def voteOp : VoteOp :=
  { cfg := { map := 0, size := 2, rank := 0, tmo := 5 }, step := 3, phase := 0, value := 1, ents := [], got := false, startAt := 0, limit := 5 }
theorem wit_vote : nfind VoteUnit.init.running 0 = none ∧ (0, 7) ∈ ({ VoteUnit.init with ended := [(0, 7)] } : VoteUnit).ended
    ∧ (0, 7) ∉ VoteUnit.init.ended ∧ VoteUnit.init.early.length < 64
    ∧ nfind ({ VoteUnit.init with running := [(0, voteOp)] } : VoteUnit).running 0 = some voteOp ∧ nget [] VoteUnit.init.queued 0 = [] := by decide +kernel
theorem wit_early : let e : Early := { pkt := arcPkt 0x10 1 1 [], at_ := 4 }
    ({ Arc.init with early := [e] } : Arc).early = e :: [] ∧ ∀ v ∈ ([{ e with at_ := 9 }] : List Early).head?, e.at_ ≤ v.at_ := by decide +kernel

/-! ### Vestibule and mirror (chapter 13) -/

def vstWith (f : Vst → Vst) (m : Module) : Module :=
  let m := running m
  m.setVst 0 (f { m.vst' 0 with enable := true })
def vstQ (d : Desc) (f : Vst → Vst) : Module := { vstWith f Module.init with queues := [(⟨8, 0, 0⟩, [d])] }
def held (x : VSlot) (v : Vst) : Vst := { v with slots := [(0, x)] }
def retainD (n : Nat) : Desc := d0 0x80 1 48 [here 16 0x1000, (24, 8, n)]
def doneD : Desc := d0 0x81 0 32 [(16, 8, 3)]
def awaitD : Desc := d0 0x82 0 32 [(16, 8, 3), here 24 0x1000]

theorem wit_retain : let m := vstQ (retainD 32) (held (vslot .open 3))
    vstHead m 0 0x80 = some (⟨8, 0, 0⟩, retainD 32) ∧ retainRefusal (dequeue ⟨8, 0, 0⟩ m) (retainD 32) = none
    ∧ newestSlot (m.vst' 0) (fun y => y.st = .open) = some (0, vslot .open 3) ∧ (retainD 32).fl 0 = true ∧ good m = true
    ∧ vstHead (vstQ (retainD 0) id) 0 0x80 = some (⟨8, 0, 0⟩, retainD 0)
    ∧ retainRefusal (dequeue ⟨8, 0, 0⟩ (vstQ (retainD 0) id)) (retainD 0) ≠ none := by decide +kernel
theorem wit_done : let m := vstQ doneD (held (vslot .open 3))
    vstHead m 0 0x81 = some (⟨8, 0, 0⟩, doneD) ∧ doneRefusal (dequeue ⟨8, 0, 0⟩ m) doneD = none
    ∧ slotOfStep (m.vst' 0) (stStep doneD) = some (0, vslot .open 3) ∧ nfind (m.vst' 0).slots 0 = some (vslot .open 3)
    ∧ (vslot .open 3).taint = false ∧ wingUp m (homeWing 0) = true ∧ (vslot .open 3).replayMode ≠ 3
    ∧ ({ vslot .open 3 with replayMode := 3 } : VSlot).replayMode = 3 ∧ ¬ (({ vslot .open 3 with taint := true } : VSlot).taint = false)
    ∧ doneRefusal (dequeue ⟨8, 0, 0⟩ (vstQ doneD id)) doneD ≠ none := by decide +kernel
theorem wit_await : let m := vstQ awaitD (held (vslot .open 3))
    vstHead m 0 0x82 = some (⟨8, 0, 0⟩, awaitD) ∧ awaitRefusal (dequeue ⟨8, 0, 0⟩ m) awaitD = none
    ∧ awaitRefusal (dequeue ⟨8, 0, 0⟩ (vstQ awaitD id)) awaitD ≠ none
    ∧ slotOfStep (held (vslot .failed 3) Vst.init) (stStep awaitD) = some (0, vslot .failed 3) ∧ (vslot .failed 3).st = .failed
    ∧ (vslot .committed 3).st = .committed ∧ shardRead m 0 (stStep awaitD) = true ∧ (vslot .undecided 3).st = .undecided
    ∧ ({ Vst.init with awaits := [awaitD] } : Vst).awaits = awaitD :: [] := by decide +kernel
theorem wit_released : let m := vstWith (held (vslot .committed 3)) Module.init
    oldestSlot (m.vst' 0) (fun _ => true) = some (0, vslot .committed 3) ∧ outAcked (m.mir' 0) 3 = true ∧ inHeld (m.mir' 0) 3 = true
    ∧ (pkt 0x19 noSlice []).hdr.ty = 0x19 ∧ (pkt 0x19 noSlice []).hdr.slice = 0xFFF := by decide +kernel

/-- A command of operation `op` waits for beat 1 and names step 3. -/
def cmdAt (op : Nat) (x : VSlot) : Module := vstWith (fun v => { held x v with armedCmd := [(op, 3, 1)] }) Module.init
theorem wit_vst_command : let v := (vstWith (fun v => { v with cmdBeat := 5 }) Module.init).vst' 0
    let late := (vstWith (fun v => { v with cmdBeat := BitVec.ofNat 48 (2 ^ 48 - 2) }) Module.init).vst' 0
    ¬ ((v.cmdBeat ≠ beatNow base.m ∧ atOrAfter (beatNow base.m) v.cmdBeat = true)
      ∨ (v.cmdBeat = beatNow base.m ∧ base.m.clk.time.toNat % 1024 ≠ 0))
    ∧ (late.cmdBeat ≠ beatNow base.m ∧ atOrAfter (beatNow base.m) late.cmdBeat = true) := by decide +kernel
theorem wit_vst_beat (op : Nat) (h : 1 ≤ op ∧ op ≤ 6) : nextCmd ((cmdAt op (vslot .failed 3)).vst' 0).armedCmd = some (op, 3, 1)
    ∧ slotOfStep ((cmdAt op (vslot .failed 3)).vst' 0) 3 = some (0, vslot .failed 3)
    ∧ nfind ((cmdAt op (vslot .failed 3)).vst' 0).slots 0 = some (vslot .failed 3)
    ∧ ¬ (∃ y ∈ ((cmdAt op (vslot .failed 3)).vst' 0).slots, stepBefore y.2.step 3 = true ∧ y.2.st ≠ .committed)
    ∧ partBusy (cmdAt op (vslot .failed 3)) 0 = false ∧ (∀ y ∈ (vslot .failed 3).batches, y.digestMode = false) := by
  obtain ⟨h, h'⟩ := h
  interval_cases op <;> decide +kernel
theorem wit_vst_cases : slotOfStep Vst.init 3 = none ∧ stepBefore 2 3 = true ∧ (vslot .open 2).st ≠ .committed
    ∧ (vslot .undecided 3).st = .undecided ∧ (vslot .undecided 3).voting = false ∧ ({ vslot .undecided 3 with verifiedSeen := true } : VSlot).verifiedSeen = true
    ∧ (nfind ({ VoteUnit.init with running := [(0, voteOp)] } : VoteUnit).running 0).isSome = true ∧ (vslot .failed 3).norec = false := by decide +kernel

theorem wit_snapshots : vstServes (vstWith id Module.init) 0 = true ∧ vstServes base.m 0 = false
    ∧ ({ Vst.init with snapSt := .copying } : Vst).snapSt = .copying ∧ Vst.init.snapSt ≠ .valid ∧ nfind base.m.sec.ckeys 0 = none
    ∧ ({ Vst.init with snapSt := .valid } : Vst).snapSt = .valid ∧ ({ Vst.init with snapSt := .draining } : Vst).drainTags = []
    ∧ good (vstWith id Module.init) = true ∧ Vst.init.drainLateSeen = false ∧ Vst.init.drainFab = false := by decide +kernel
theorem wit_snapshot_key : (nfind [(0, List.replicate 32 (1 : Byte))] 0).isSome = true := by decide +kernel
theorem wit_configuration : (prec base.m 0).slice ≠ 0xFFF ∧ (prec base.m 1).slice = 0xFFF ∧ bit (0x104 : W64) 8 = true ∧ bit (4 : W64) 8 = false
    ∧ Vst.init.enable = false ∧ regionOk base.m 0 (regionVal 0x100000000) (otherRegions base.m 0 0) = true
    ∧ regionOk base.m 0 (regionVal 0xFFF00000000) (otherRegions base.m 0 0) = false
    ∧ regionOk base.m 0 (regionVal 0xFFF00000000) (otherRegions base.m 0 3) = false
    ∧ regionOk base.m 0 (regionVal 0) (otherRegions base.m 0 1) = true ∧ regionOk base.m 0 (regionVal 0) (otherRegions base.m 0 2) = true
    ∧ regionOk base.m 0 (regionVal 0) (otherRegions base.m 0 3) = true := by decide +kernel

/-- Partition 0 of chip 3 is the partner and the source. -/
def mirWith (f : Mir → Mir) (m : Module) : Module := m.setMir 0 (f { m.mir' 0 with partner := 0x80000003, source := 0x80000003 })
def sendD (fl : Nat) : Desc := d0 0x88 fl 48 [(16, 8, 3), here 24 0x1000]
def sendQ (fl : Nat) : Module := mirWith id { vstWith (held (vslot .committed 3)) Module.init with queues := [(⟨9, 0, 0⟩, [sendD fl])] }
def sendOp : SendOp := { desc := sendD 1, full := true, resent := false, beginTag := 1, endTag := none, tags := [], ranges := [], lastAck := 0 }
def inX : InXfer := { step := 3, full := true, size := 64, entries := 0, ranges := [], bytes := 0, wrote := false, lastAt := 0 }
theorem wit_send : queue (sendQ 1) ⟨9, 0, 0⟩ = sendD 1 :: [] ∧ ((sendQ 1).mir' 0).send = none
    ∧ sendRefusal (dequeue ⟨9, 0, 0⟩ (sendQ 1)) (sendD 1) = none ∧ sendRefusal (dequeue ⟨9, 0, 0⟩ (sendQ 0)) (sendD 0) ≠ none
    ∧ ({ Mir.init with send := some sendOp } : Mir).send = some sendOp ∧ ({ Mir.init with inX := some inX } : Mir).inX = some inX := by decide +kernel
def restore0 : Restore := { bytes := 0, lastAt := 0, tag := 1, slots := [] }
theorem wit_restore : let m := mirWith id (vstWith id Module.init)
    (m.vst' 0).enable = true ∧ (m.vst' 0).slots = [] ∧ nameValid (m.mir' 0).partner = true ∧ (m.mir' 0).restore = none
    ∧ ({ Mir.init with restore := some restore0 } : Mir).restore = some restore0 ∧ ¬ (nameValid Mir.init.partner = true) := by decide +kernel

def mirPkt (kind : Nat) (b : List Byte) : Pkt := pkt 0x18 (fun h => { h with addr := 0, aux := BitVec.ofNat 64 (2 ^ 60 * kind + 3) }) b
/-- BEGIN's words: the base with FULL in bit 63, the size, the entries. -/
def beginB (w0 size : Nat) : List Byte := natLe 8 w0 ++ natLe 8 size ++ natLe 8 0
theorem wit_mirror_first (kind : Nat) (h : kind ≤ 8) :
    (accepted (mirPkt kind []) Module.init).rte.accepted.find? (fun y => y.hdr.ty = 0x18 && mKind y = kind) = some (mirPkt kind []) := by
  interval_cases kind <;> decide +kernel
theorem wit_mirror : let x := (mirWith id (running Module.init)).mir' 0
    let m := mirWith (fun x => { x with region := BitVec.ofNat 44 (2 ^ 32 * 2) }) (running Module.init)
    nameIs x.source (mirPkt 0 []) = true ∧ ¬ (nameIs Mir.init.source (mirPkt 0 []) = true) ∧ bufSize x < 64 ∧ 64 ≤ bufSize (m.mir' 0)
    ∧ bit (BitVec.ofNat 64 (le (beginB (2 ^ 63) 64) 0 8)) 63 = true ∧ bit (BitVec.ofNat 64 (le (beginB 2 64) 0 8)) 63 = false
    ∧ le (beginB 2 64) 8 8 = 64 ∧ x.inC.map (·.2) ≠ some (BitVec.ofNat 48 (le (beginB 2 64) 0 8))
    ∧ ({ x with inC := some (true, 2) } : Mir).inC.map (·.2) = some (BitVec.ofNat 48 (le (beginB 2 64) 0 8))
    ∧ inX.step = mStep (mirPkt 1 []) ∧ (mirPkt 2 (List.replicate 64 1)).payload.length + 0 ≤ inX.size ∧ inX.size < 0 + 65
    ∧ le (natLe 8 0) 0 8 = inX.bytes ∧ le (natLe 8 1) 0 8 ≠ inX.bytes ∧ x.inX = none ∧ x.inC = none ∧ x.inputs = []
    ∧ restoreFor 0 (mirPkt 6 []) (running Module.init) = none ∧ nameIs x.partner (mirPkt 6 []) = true := by decide +kernel
theorem wit_mirror_restore : let sh := regionOf (BitVec.ofNat 44 (2 ^ 32))
    (0 : Nat) + 64 ≤ sh.2 ∧ (regionOf Vst.init.shard).2 < 0 + 64 ∧ (∀ y ∈ restore0.slots, y.step ≠ mStep (mirPkt 7 []))
    ∧ restore0.slots.length < Vst.init.depthN ∧ (mirPkt 7 []).hdr.addr.toNat = 0 ∧ Vst.init.slots = [] ∧ (∀ y ∈ restore0.slots, y.st = .failed) := by
  decide +kernel

/-! ### Watchdogs, resets, suspects, notices (chapter 14) -/

def wdgWith (f : Wdg → Wdg) (m : Module) : Module := { m with wdg := f { m.wdg with escCount := 0 } }
def hung : Module := wdgWith id (hartAt 0x13 id Module.init)
/-- Gallery 0 of partition 0, and Gallery 60, which nobody owns, with a descriptor each. -/
def busyGal : Module :=
  let m := wdgWith id (running Module.init)
  (m.setGal 0 { Gal.init with ops := [galOp true false] }).setGal 60 { Gal.init with ops := [galOp true false] }

theorem wit_watchdogs : ctxHart hung 0 0 = some 0 ∧ ctxRuns hung 0 0 (hung.hart 0) = true ∧ partDue hung 0 = some (262144 * 1024)
    ∧ wingUp hung 1 = true ∧ engineRuns busyGal .gallery 60 = true ∧ engOwner busyGal { cls := .gallery, idx := 60 } = none ∧ 60 < engCount .gallery
    ∧ (engineCtxs busyGal (engQ { cls := .gallery, idx := 60 }) 60).length = 1 ∧ busyGal.wdg.phase = false
    ∧ bit busyGal.wdg.auto 1 = true ∧ bit ({ busyGal.wdg with auto := 0 } : Wdg).auto 1 = false
    ∧ (hung.wdg.running = [] ∧ hung.wdg.pend = [] ∧ hung.wdg.ordered = [] ∧ hung.wdg.escCount = 0 ∧ openSuspect hung.wdg = none) := by decide +kernel
theorem wit_power_cycle : Wdg.init.pwrAuto = true ∧ Wdg.init.pwr = none ∧ ({ Wdg.init with pwrAuto := false } : Wdg).pwrAuto = false
    ∧ ({ Wdg.init with pwr := some (2, 7) } : Wdg).pwr = some (2, 7) ∧ Module.init.tray.pwrcycReqN = true := by decide +kernel
theorem wit_resets : enabled hung 0 = true ∧ domExists hung (.engine { cls := .gallery, idx := 63 }) = true
    ∧ domExists hung (.engine { cls := .voteUnit, idx := 0 }) = true ∧ owner hung 5 0 = some 0 ∧ ctxHart hung 0 7 = some 7 := by decide +kernel

def recOf (d : Dom) (l : Nat) : ResetRec := { dom := d, level := l, start := 4 }
theorem wit_resets_run (d : Dom) (l : Nat) : ({ Wdg.init with running := [recOf d l] } : Wdg).running.find? (fun x => x.dom = d) = some (recOf d l)
    ∧ ({ Wdg.init with running := [recOf d l] } : Wdg).running = [recOf d l] := by simp [recOf]
theorem wit_overrun_owner : engOwner hung { cls := .gallery, idx := 31 } = some 0 := by decide +kernel

def suspect (v : Nat) (exit : Bool) : Suspect := { verdict := v, cls := 0, unit := 0, part := 0, exec := true, ctx := 0, exit := exit }
def phase0 (f : Wdg → Wdg) : Module := wdgWith (fun w => f { w with phase := true }) (hartAt 0x13 id Module.init)
theorem wit_slots : let m := phase0 (fun w => { w with gapFrom := some 3, suspects := [suspect 2 true, suspect 0 false] })
    m.wdg.gapFrom = some 3 ∧ nextSuspect m.wdg = some (1, suspect 0 false) ∧ m.wdg.phase = true ∧ m.wdg.slotOpen = none
    ∧ ctxHart m (suspect 0 false).part (suspect 0 false).ctx = some 0 ∧ good m = true := by decide +kernel
theorem wit_slot_ends : let m := phase0 (fun w => { w with slotOpen := some 0, suspects := [suspect 1 true] })
    m.wdg.slotOpen = some 0 ∧ m.wdg.suspects[0]? = some (suspect 1 true) ∧ (suspect 1 true).exit = true
    ∧ nget 0 m.outstanding (8 * (suspect 1 true).part + (suspect 1 true).ctx) = 0 ∧ good m = true := by decide +kernel

/-- A route of every chip and slice to LOCAL. -/
def routed (m : Module) : Module :=
  { m with rte := { m.rte with chipValid := true, active := [(0, BitVec.ofNat 128 (2 ^ 63 + 2 ^ 62 + 16 * 2 ^ 32 + 0x1FFF * 2 ^ 96))] } }
/-- A notice waits at port 0. -/
def waitingNotice : Module :=
  portAs 0 (fun q => { q with inj := [{ part := 16, vc := 0, flits := [{ flit 4 with hdr := some (hdr0 0x20) }] }] }) Module.init
theorem wit_notices_sent : noticeWaits waitingNotice = true ∧ noticeWaits (routed Module.init) = false ∧ (routed Module.init).rte.chipValid = true
    ∧ (routeOf (routed Module.init).rte.active (fld (routed Module.init).wdg.noticeDst 48 12) (fld (routed Module.init).wdg.noticeDst 0 13)).map (·.out)
      = some 16 ∧ good waitingNotice = true := by decide +kernel
theorem wit_reset_idle : (∀ x ∈ base.m.mem.tg, x.2.running = false) ∧ base.m.wdg.running = [] ∧ base.m.wdg.ordered = [] := by decide +kernel
def noticePkt (kind n : Nat) : Pkt := pkt 0x20 (fun h => { h with addr := 0, aux := BitVec.ofNat 64 (2 ^ 60 * kind + n) }) []
theorem wit_notices (kind : Nat) (h : 1 ≤ kind ∧ kind ≤ 3) : let k := noticePkt kind 9; let w : Wdg := { Wdg.init with noticeSrc := 0x8003000000000000 }
    (accepted k Module.init).rte.accepted.find? (fun x => x.hdr.ty.toNat = 0x20) = some k ∧ noticeFrom Wdg.init k.hdr.srcChip.toNat = false
    ∧ fld k.hdr.aux 48 12 = 0 ∧ k.hdr.slice ≠ 0xFFF ∧ k.hdr.dstPart.toNat < 16 ∧ k.payload = [] ∧ noticeFrom w k.hdr.srcChip.toNat = true ∧ fld k.hdr.aux 60 4 = kind := by
  obtain ⟨h, h'⟩ := h
  interval_cases kind <;> decide +kernel
theorem wit_notice_running : (({ Arc.init with op := some (arcOp 0) } : Arc)).op = some (arcOp 0) ∧ (arcOp 0).desc.part = 0
    ∧ ({ arcOp 0 with desc := desc 3 0 0x70 0 80 [] } : ArcOp).desc.part ≠ 0
    ∧ nfind ({ VoteUnit.init with running := [(0, voteOp)] } : VoteUnit).running 0 = some voteOp := by decide +kernel

/-! ### Checking, pattern packs, the health log (chapter 15) -/

def syncD (a : Nat) : Desc := d0 0xA0 0 32 [(16, 8, a)]
def syncQ (a : Nat) : Module := queued ⟨11, 0, 0⟩ (syncD a) Module.init
theorem wit_sync : chkHead (syncQ 0x0F00000000001000) 0 = some (⟨11, 0, 0⟩, syncD 0x0F00000000001000)
    ∧ syncAddrOk (syncQ 0x0F00000000001000) (syncD 0x0F00000000001000) = true
    ∧ chkHead (syncQ 0x0F00000000001004) 0 = some (⟨11, 0, 0⟩, syncD 0x0F00000000001004)
    ∧ syncAddrOk (syncQ 0x0F00000000001004) (syncD 0x0F00000000001004) = false ∧ good (syncQ 0x0F00000000001000) = true := by decide +kernel

/-- A pack of one test of Galleries, for modules of grade 1. -/
def packBody : List Byte :=
  natLe 4 0x4B504C48 ++ [1, 0, 1, 0] ++ natLe 2 1 ++ List.replicate 6 0 ++ natLe 8 7 ++ natLe 4 1 ++ natLe 4 224 ++ List.replicate 32 0
  ++ ([0, 0, 0, 0, 1] ++ List.replicate 11 0 ++ natLe 4 16 ++ natLe 4 0 ++ natLe 4 1 ++ List.replicate 36 0)
/-- The pack under the key of secret value 1, with 1 as the random value: r is the generator's x, and s is the digest plus r. -/
def packSigned0 : List Byte :=
  packBody ++ natBe 48 p384Gx ++ natBe 48 0x629561a9b6fb13fd8e80594b094579cbe78c0c74d314ee9ab910dae168060010fa55e34e2ca7e8ab5edef65510ff1fc5
def signer (m : Module) : Module :=
  { m with sec := { m.sec with keySlots := [(0, { key := natBe 48 p384Gx ++ natBe 48 p384Gy, use := 2, st := 1 })] }
           fused := { m.fused with grade := 1 }, hlt := { m.hlt with packLen := 224 } }
def packOf : Pack := { id := 7, ver := 1, tests := 1, bytes := packSigned0 }
theorem wit_pack : packBytes (signer Module.init).hlt ≤ packSigned0.length ∧ bit (0x10 : W64) 4 = true ∧ bit (0 : W64) 4 = false
    ∧ (signer Module.init).hlt.packBusy = none
    ∧ packRefusal (signer Module.init) (fld (0x10 : W64) 0 2) (slice packSigned0 0 (packBytes (signer Module.init).hlt)) = none
    ∧ packRefusal (signer Module.init) 0 (List.replicate 224 0) = some 1
    ∧ ({ Hlt.init with packBusy := some (3, packOf) } : Hlt).packBusy = some (3, packOf) := by decide +kernel

/-- Gallery 31 is out of service, and pack slot 0 holds the pack above. -/
def testing (m : Module) : Module :=
  let m := running (signer m)
  { m with img := { m.img with active := some { struct0 with oos := [(0, 31)] } }, hlt := { m.hlt with packs := [(0, packOf)] } }
def chkFor (unit : Nat) : Chk := { Chk.init with ptUnit := BitVec.ofNat 16 unit }
def ptRun (stopping : Bool) : PtRun :=
  { unit := 31, cls := 0, slot := 0, first := 0, last := 0, soaking := false, startBeat := 0, stopping := stopping }
theorem wit_tests : (chkFor 31).run = none
    ∧ ptRefusal (testing Module.init) 0 { chkFor 31 with failTest := 0, temp := 0, reason := 0, notSoaked := false, ptSt := 0 } = none
    ∧ ptRefusal (testing Module.init) 0 { chkFor 30 with failTest := 0, temp := 0, reason := 0, notSoaked := false, ptSt := 0 } = some 1
    ∧ ({ Chk.init with run := some (ptRun true) } : Chk).run = some (ptRun true)
    ∧ (ptRun true).stopping = true ∧ (ptRun false).stopping = false ∧ (ptRun false).first ≤ 0 ∧ 0 ≤ (ptRun false).last
    ∧ good (testing Module.init) = true := by decide +kernel

theorem wit_health : let h := Hlt.init
    h.ringNext < ringSize ∧ h.retired.length < 8192 ∧ (¬ ∃ x ∈ h.retired, x.1 = 5 ∧ x.2.1 = 9)
    ∧ (∃ x ∈ ({ h with retired := [(5, 9, 0)] } : Hlt).retired, x.1 = 5 ∧ x.2.1 = 9)
    ∧ 16 ≤ ({ h with sub := 15 } : Hlt).sub + 1 := by decide +kernel
theorem wit_holdup : let m : Module := { Module.init with pwr := { Module.init.pwr with measured := 3000 } }
    3000 ≤ measuredNow m := by decide +kernel
theorem wit_corridor : let c : Cor := { Cor.init with seen := [(7, 0)], status := 0xFF }
    c.seen.contains ((7 : Fin 8).val, window Module.init) = true ∧ Cor.init.seen.contains ((7 : Fin 8).val, window Module.init) = false
    ∧ bit c.status (7 : Fin 8) = true := by decide +kernel

/-! ### Power, throttles, calibration (chapter 16) -/

def reasonOf (a : Bool) (l : Nat) : Reason := { active := a, level := l, deepest := l, start := 3, lastStep := 0, seenWin := none }
theorem wit_throttle : ({ Pwr.init with trayLimit := 100 } : Pwr).trayLimit ≠ 0 ∧ (Pwr.init.reason 1).active = false
    ∧ (({ Pwr.init with reasons := [(1, reasonOf true 2)] } : Pwr).reason 1).active = true
    ∧ 1 < (({ Pwr.init with reasons := [(1, reasonOf true 2)] } : Pwr).reason 1).level
    ∧ (({ Pwr.init with reasons := [(4, reasonOf true 1)] } : Pwr).reason 4).level ≤ 1 ∧ rising [(4, reasonOf true 1)] = true
    ∧ (({ Pwr.init with reasons := [(6, reasonOf true 2)] } : Pwr).reason 6).active = true
    ∧ ({ Pwr.init with change := some { op := 3, raise := true, due := 9 } } : Pwr).change = some { op := 3, raise := true, due := 9 } := by
  decide +kernel
theorem wit_calibration : (105 : Int) ≤ (105 : BitVec 8).toInt ∧ (110 : Int) ≤ (110 : BitVec 8).toInt
    ∧ Pwr.init.calDue = false ∧ lightNow { Module.init with pwr := { Pwr.init with cal := [(Pwr.init.op, (700, 0, true))] } } = true
    ∧ eqDue (portAs 2 (fun x => { x with eqLight := true }) Module.init) ≠ 0
    ∧ ({ Pwr.init with recal := some 0 } : Pwr).recal = some 0 ∧ (2999 : BitVec 16).toNat < 3000
    ∧ 200 < max (4000 : BitVec 16).toNat (4201 : BitVec 16).toNat - min (4000 : BitVec 16).toNat (4201 : BitVec 16).toNat := by decide +kernel

/-! ### Security and the host link (chapters 17 and 18) -/

def points (m : Module) : Module :=
  let w (i : Nat) (l : List Byte) : W64 := BitVec.ofNat 64 (le l (8 * i) 8)
  { m with sec := { m.sec with keyData := (List.range 12).map (fun i => w i (natBe 48 p384Gx ++ natBe 48 p384Gy)) } }
theorem wit_lock : Sec.init.locked = false ∧ ({ Sec.init with locked := true } : Sec).locked = true
    ∧ lockRefusal { Module.init with img := { Module.init.img with st := .armed } } = some 2
    ∧ lockRefusal { Module.init with sec := { Sec.init with keySlots := [(0, { key := [], use := 1, st := 1 })] } } = none := by decide +kernel
theorem wit_enrol : (keySlot Module.init 7).st ≠ 1 ∧ (keySlot (signer Module.init) 0).st = 1
    ∧ onCurve (beNat ((keyBytes (points Module.init)).take 48)) (beNat ((keyBytes (points Module.init)).drop 48)) = true
    ∧ ¬ (onCurve (beNat ((keyBytes Module.init).take 48)) (beNat ((keyBytes Module.init).drop 48)) = true)
    ∧ sha384 (keyBytes (points Module.init)) ∉ (points Module.init).sec.revoked
    ∧ 64 ≤ (List.replicate 64 ([] : List Byte)).length ∧ (signer Module.init).sec.revoked.length < 64 := by decide +kernel
theorem wit_revoked (l : List Byte) : sha384 l ∈ [sha384 l] := List.mem_singleton.2 rfl
def skey0 (ep : Byte) : SKey := { slice := 5, epoch := ep, key := [], order := 0, counter := 0 }
theorem wit_skey : base.m.img.active = some struct0 ∧ struct0.slices[fld (0x100 : W64) 16 4]? = some ⟨5, 1, 0⟩ ∧ struct0.slices[fld (0x10000 : W64) 16 4]? = none
    ∧ (∃ k ∈ [skey0 1], k.slice = 5 ∧ k.epoch = 1) ∧ (¬ ∃ k ∈ [skey0 1], k.slice = 5 ∧ k.epoch = 2) ∧ base.m.rte.st ≠ .armed
    ∧ ({ base.m.rte with st := .armed } : Rte).st = .armed := by decide +kernel

theorem wit_requesters : 1 ≤ (8 : Byte).toNat ∧ (8 : Byte).toNat ≤ 8 ∧ (0x11 : Byte) ≠ 0x12 ∧ (List.replicate 32 (0 : Byte)).length = 32
    ∧ bit (0x100 : BitVec 9) (8 : Fin 9) = true := by decide +kernel
theorem wit_wings_reached : wingsReached { Pci.init with stage := 2 } = false ∧ wingsReached { Pci.init with stage := 3 } = true := by decide +kernel
theorem wit_host_link : Module.init.pci.stage = 1 ∧ base.m.pci.stage = 8 ∧ ({ Tray.init with perstN := true } : Tray).perstN = true
    ∧ ({ Tray.init with perstN := false } : Tray).perstN = false
    ∧ (withImg .staging Module.init).img.st = .staging ∧ base.m.img.st ≠ .staging ∧ linkOk 16 64 = true
    ∧ ({ Pci.init with linkUp := true } : Pci).linkUp = true := by decide +kernel
def atStage (n : Nat) : Module := { Module.init with pci := { Module.init.pci with stage := n } }
theorem wit_start_up : (atStage 1).pci.stage = 1 ∧ (List.replicate 48 (0 : Byte)).length = 48 ∧ (atStage 2).pci.stage = 2 ∧ (atStage 3).pci.stage = 3
    ∧ nget false (({ (atStage 3).pci with wingOut := [(0, true), (1, true)] } : Pci)).wingOut 0 = true
    ∧ nget false (({ (atStage 3).pci with wingOut := [(0, true), (1, true)] } : Pci)).wingOut 1 = true
    ∧ (∀ f ∈ [((1 : Fin 2), 23)], f.2 < clsCount (7 + f.1.val)) ∧ (∀ f ∈ [(8, 23)], f.2 < clsCount f.1)
    ∧ (atStage 6).pci.bistFail.length + [(8, 23)].length ≤ 32 ∧ stageLimit 7 = some (65536 * 1024)
    ∧ (0 : BitVec 4) ≠ 9 ∧ good (atStage 6) = true := by decide +kernel

/-! ### Event rings, sideband, telemetry, trace, JTAG (chapters 18 and 19) -/

def ring0 : Evr := { Evr.init with enable := true, lostSince := 3, lastSig := some 0, unsig := true }
theorem wit_rings : Evr.init.lostSince = 0 ∧ 0 < ring0.lostSince ∧ ({ ring0 with head := 0 } : Evr).room = true
    ∧ ({ ring0 with enable := false, head := 0 } : Evr).room = false ∧ ring0.lastSig = some 0 ∧ ring0.unsig = true := by decide +kernel
theorem wit_frames : spiReserved 0x80000000 = true ∧ spiReserved 0x01000000 = true ∧ spiReserved 0x00000100 = true
    ∧ spiData 0x80000000 32 ≤ ([] : List W32).length ∧ (31 : Nat) < 32 ∧ spiData 0 31 ≤ ([] : List W32).length
    ∧ spiReserved 0x00F00000 = false ∧ fld (0x00F00000 : W32) 30 2 = 0 ∧ spiData 0x00F00000 (32 * (1 + spiWords 0x00F00000)) = 16
    ∧ spiAddr 0x00F00000 0 ≠ 5 ∧ spiAddr 0x00F00000 0 ≠ 6 ∧ 32 * (1 + spiWords 0) < 96
    ∧ spiReserved 0x40000004 = false ∧ fld (0x40000004 : W32) 30 2 = 1 ∧ spiWords 0x40000004 = 1 ∧ spiAddr 0x40000004 0 = 4 := by decide +kernel
theorem wit_alert : alertHeld base.m = 0
    ∧ alertHeld { base.m with tray := { base.m.tray with alertAt := [(3, instant base.m)] } } = 8 := by decide +kernel
theorem wit_management : 0x2FFFFF8 < barSize .pf ∧ managerBlk 0x2FFFFF8 = false ∧ managerBlk 0x100000 = true := by decide +kernel
theorem wit_jtag : fld (BitVec.ofNat 96 (2 ^ 92)) 92 2 = 1 ∧ fld (BitVec.ofNat 96 (2 ^ 93)) 92 2 = 2 ∧ fld (BitVec.ofNat 96 (3 * 2 ^ 92)) 92 2 = 3
    ∧ (0xFF : Byte).toNat ∉ [0x00, 0x01, 0x02, 0x20] := by decide +kernel

def telPkt (what : Nat) : Pkt := pkt 0x29 (fun h => { h with addr := 0, aux := BitVec.ofNat 64 (2 ^ 56 + what) }) []
def asked (what : Nat) : Module :=
  let m := accepted (telPkt what) Module.init
  { m with dbg := { m.dbg with telSrc := 0x8003000000000000, telCtrl := 0x8000000000000000 } }
theorem wit_telemetry (what : Nat) (h : what = 2 ∨ what = 4) :
    (asked what).rte.accepted.find? (fun x => x.hdr.ty.toNat = 0x29) = some (telPkt what) ∧ telOk (telPkt what) (asked what) = true
    ∧ fld (telPkt what).hdr.aux 0 8 = what ∧ telOk (telPkt what) Module.init = false ∧ bit (asked what).dbg.telCtrl 63 = true
    ∧ good (asked what) = true := by
  rcases h with rfl | rfl <;> decide +kernel
def traced (m : Module) : Module :=
  let m := running m
  { m with img := { m.img with active := some { struct0 with traceTier := 2, traceSize := 1 } }
           dbg := { m.dbg with enable := true, kinds := 0x3F, pcPer := 1, dumpCount := 32768 } }
theorem wit_trace : dumpRefusal (traced Module.init) = none ∧ dumpRefusal Module.init = some 2 ∧ capturing (traced Module.init) = true
    ∧ bit (traced Module.init).dbg.kinds 4 = true ∧ (traced Module.init).dbg.pcPer ≠ 0 ∧ traceRegion (traced Module.init) = some (2, 0, 32768)
    ∧ ({ Dbg.init with dumpRun := some (0, 0, 1) } : Dbg).dumpRun = some (0, 0, 1) ∧ ({ Dbg.init with lostNow := 1 } : Dbg).lostNow ≠ 0
    ∧ Dbg.init.buffer.length < traceCap ∧ good (traced Module.init) = true := by decide +kernel

/-! ### The whole block -/

/-- Whether an outcome is a next state whose module meets a test. -/
def nextWith (f : Module → Bool) : Out → Bool
  | .next s => f s.m
  | .fault _ => false
  | .refused _ => false

theorem wit_step : step { base with pending := [.hltRetire 0x50009, .chipReset] } = exec (.hltRetire 0x50009) { base with pending := [.chipReset] }
    ∧ nextWith (fun m => m.hlt.retired = [(5, 9, 0)]) (step { base with pending := [.hltRetire 0x50009, .chipReset] }) = true := by
  constructor
  · rfl
  · decide +kernel
theorem wit_canonical_step : State.reset.m.canonical = true
    ∧ nextWith (fun m => m.canonical) (step { State.reset with pending := [.aonWatchdogFire] }) = true := by decide +kernel
theorem wit_lock_kept : let s : State := { st running with pending := [.chipReset] }
    let l : State := { s with m := { s.m with sec := { s.m.sec with locked := true } } }
    l.m.sec.locked = true ∧ nextWith (fun m => m.sec.locked) (step l) = true := by decide +kernel
theorem wit_structure_kept : nextWith (fun m => m.img.active == some struct0) (step { base with pending := [.chipReset] }) = true := by decide +kernel
/-- Virtual function 0 writes in its own window; Gallery 32, which it does not own, stays as it was. -/
theorem wit_vf_write : nextWith (fun m => (m.gal' 32) == Gal.init) (exec (.registerWrite (.vf 0) 0x10 8 1) base) = true := by decide +kernel
theorem wit_engines : nextWith (fun _ => true) (exec (.galCntClr 5) base) = true ∧ nextWith (fun _ => true) (exec (.adpCntClr 5) base) = true
    ∧ nextWith (fun _ => true) (exec (.risCntClr 7) base) = true ∧ nextWith (fun _ => true) (exec (.winCntClr 3) base) = true
    ∧ nextWith (fun _ => true) (exec (.lndCntClr 15) base) = true ∧ nextWith (fun _ => true) (exec (.nwlCntClr 1) base) = true := by decide +kernel
/-- A command that is due, and one that is not. -/
theorem wit_due : due (.galCntClr 5) base ∧ (Instr.galCntClr 5).wellFormed = true ∧ ¬ due .opChanged base ∧ Instr.opChanged.wellFormed = true :=
  ⟨trivial, by decide +kernel, fun h => h (by decide +kernel), by decide +kernel⟩
theorem wit_frame : nextWith (fun m => m.mem == base.m.mem && m.gal == base.m.gal) (exec (.risCntClr 7) base) = true := by decide +kernel

/-- The states of the witnesses above that meet a premise on the canonical form. -/
theorem wit_canonical_states : ∀ m ∈ [vstQ doneD (held (vslot .open 3)), vstQ awaitD (held (vslot .open 3)), cmdAt 1 (vslot .failed 3), sendQ 1,
    mirWith id (vstWith id Module.init), hung, busyGal, phase0 (fun w => { w with slotOpen := some 0, suspects := [suspect 1 true] }), arcQ (cfgD 2),
    accepted (mirPkt 0 []) Module.init, accepted (noticePkt 1 9) Module.init, signer Module.init, points Module.init, atStage 1,
    queued ⟨5, 0, 0⟩ (genD 2) Module.init, queued ⟨5, 0, 0⟩ seedD Module.init, pushing, stalledOn .fence], good m = true := by decide +kernel

/-! ### Ill-formed commands, one for each check of WellFormed -/

theorem test_ill_formed : ∀ c ∈ [
      Instr.registerWrite .pf 0x10000000 8 0, .registerRead (.vf 3) 0x4000000 8, .traySpiBadcmd 0x40000004, .imgShadowWrite 0x8000 8 0,
      .flitReceive 0 { flit 1 with hdr := none }, .flitReceive 0 { flit 2 with hdr := some (hdr0 1) },
      .flitReceive 0 { flit 2 with content := List.replicate 257 0 }, .rteShadowWrite 0x10000 8 0, .thermWarn 104, .thermTrip 109,
      .holdupLow 3000, .holdupDisagree 4000 4200, .ideKm 0 (List.replicate 31 0) true, .firmwareVerified false (List.replicate 47 0) 1,
      .memTrainComplete [(1, 24)], .memTrainComplete [(0, 256)], .bistComplete [(0, 64)], .linkUp 3 5 false, .linkUp 16 7 false,
      .traySpiRead 0x40000000 64, .traySpiWrite 0 [0] 64, .traySpiWrite 0x40000000 [] 64, .vendorRead 0x10000000, .vendorWrite 0x10000000 0 false,
      .bypass 0x20, .delayRemeasure 0 [] 0, .bringUpComplete 0 0 0 [] 0 0 0], c.wellFormed = false := by decide +kernel
theorem test_ill_formed_refused (s : State) : exec (.thermTrip 109) s = .refused .illFormed ∧ exec (.bypass 2) s = .refused .illFormed := by
  constructor <;> rfl

/-! ### Values that the spec works out, and values that the named standards give -/

/-- Chapter 1's windows of Gallery 45, Balcony 45, Flight engine 20 and port 11. -/
theorem test_windows : regPlace 0x020D0000 = some ⟨.gal, 45, 0⟩ ∧ regPlace 0x020D8000 = some ⟨.adp, 45, 0⟩
    ∧ regPlace 0x02704000 = some ⟨.flt, 20, 0⟩ ∧ regPlace 0x0010B000 = some ⟨.nut, 11, 0⟩ := by decide +kernel
/-- Chapter 1's slow-tier address in slot 3, and in this module. -/
theorem test_address : gaSlot 0x0380001234567800 = 3 ∧ gaTier 0x0380001234567800 = 2 ∧ gaOff 0x0380001234567800 = 0x1234567800
    ∧ gaSlot 0x0F80001234567800 = 15 ∧ gaOff 0x0F80001234567800 = 0x1234567800 := by decide +kernel
/-- Chapter 4's rounding of 1 + 2^-8 to BF16. -/
theorem test_rounding : (convert 0x01 0 (some 0x8000) (f32 0x3F808000)).bits = 0x3F81 ∧ (convert 0x01 0 (some 0x7FFF) (f32 0x3F808000)).bits = 0x3F80
    ∧ (convert 0x01 0 none (f32 0x3F808000)).bits = 0x3F80 := by decide +kernel
/-- TOP_GAL_PRESENT of the part that the scope chapter works out: wing A lacks Galleries 3, 9, 17 and 30. -/
theorem test_present : topRead { Module.init with fused := { Fused.init with galPresent := 0xFFFFFFFFBFFDFDF7 } } 8 = some 0xFFFFFFFFBFFDFDF7
    ∧ (bitsOf (~~~(0xFFFFFFFFBFFDFDF7 : W64))) = [3, 9, 17, 30] := by decide +kernel
/-- A route of every chip and slice to LOCAL, laid out as chapter 11's table of an entry's fields: CHIP_LO and CHIP_HI in word 1. -/
theorem test_route_entry : let e := rent (BitVec.ofNat 128 (2 ^ 63 + 2 ^ 62 + 16 * 2 ^ 32 + 5 * 2 ^ 64 + 0x1FFF * 2 ^ 96))
    e.valid = true ∧ e.any = true ∧ e.out = 16 ∧ e.lo = 5 ∧ e.hi = 0x1FFF ∧ e.rsvBad = false := by decide +kernel
/-- Philox-4×32-10 of zeros, as its authors' known answers give it. -/
theorem test_philox : philoxGo 10 (0, 0, 0, 0, 0, 0) = [0x6627E8D5, 0xE169C58D, 0xBC57AC4C, 0x9B00DBD8] := by decide +kernel
/-- CRC-32C of the digits 1 to 9. -/
theorem test_crc : crc32c [0x31, 0x32, 0x33, 0x34, 0x35, 0x36, 0x37, 0x38, 0x39] = 0xE3069283 := by decide +kernel
/-- SHA-384 of "abc" (its first and last words). -/
theorem test_sha : slice (sha384 [0x61, 0x62, 0x63]) 0 8 = natBe 8 0xCB00753F45A35E8B ∧ slice (sha384 [0x61, 0x62, 0x63]) 40 8 = natBe 8 0x58BAECA134C825A7 := by
  decide +kernel
/-- The table spells no command in bits, so none decodes and nothing is put in front. -/
theorem test_no_word (s : State) (n w : Nat) : decodeTableWord n w = none ∧ s.withFetchWord n w = s := ⟨rfl, rfl⟩

/-! ### Single steps -/

theorem test_addi : nextWith (fun m => rvGet (m.hart 0) 5 == 0x100000105 && (m.hart 0).pc == 0x100000004) (exec (.hartInstruction 0 0 0) (onHart 0x00508293))
    = true := by decide +kernel
/-- LUI of a word with bit 31 set extends its sign. -/
theorem test_lui : nextWith (fun m => rvGet (m.hart 0) 5 == 0xFFFFFFFF80000000) (exec (.hartInstruction 0 0 0) (onHart 0x800002B7)) = true := by
  decide +kernel
theorem test_branch_taken : nextWith (fun m => (m.hart 0).pc == 0x100000008) (exec (.hartInstruction 0 0 0) (onHart 0x00209463)) = true := by
  decide +kernel
theorem test_illegal_stops : nextWith (fun m => (m.hart 0).faulted && !(m.hart 0).on) (exec (.hartInstruction 0 0 0) (onHart 0x7F)) = true := by
  decide +kernel
theorem test_write : nextWith (fun m => (hallRead 0 0 0x1000 4 m).1 == [1, 2, 0, 0]) (exec .write (st (accepted (pkt 1 id [1, 2])))) = true := by
  decide +kernel
/-- A GATE alarm of context 2 for gate 3. -/
theorem test_alarm_gate : nextWith (fun m => m.gates == [(2, 8)] && (queue m (alarmQ (some 0))).isEmpty) (exec (.alarmFire (some 0)) (st withAlarm))
    = true := by decide +kernel
theorem test_not_due : (match exec .opChanged State.reset with
    | .refused r => r == .notDue "OP_CHANGED"
    | _ => false) = true := by decide +kernel

end Sys2Proof.Tests
end

/-! ### Each command completes exactly where it is due (O52) -/

namespace Sys2Proof.Scope
open Sys2Proof.Machine Sys2Proof.Laws

/-- An outcome that is a next state where `d` holds, with the commands that wait as they were, and a refusal by name where it does not. -/
inductive Answers (d : Prop) (s : State) : Out → Prop
  | done {m : Module} (h : d) : Answers d s (Machine.done s m)
  | stop {r : String} (h : ¬ d) : Answers d s (Machine.stop r)

variable {d p : Prop} {s : State} {m : Module} {r : String} {o o' : Out}

theorem Answers.completes (h : Answers d s o) (hd : d) : ∃ m, o = .next { s with m := m } := by
  cases h with
  | done => exact ⟨_, rfl⟩
  | stop hn => exact absurd hd hn

theorem Answers.refuses (h : Answers d s o) (hd : ¬ d) : ∃ row, o = .refused (.notDue row) := by
  cases h with
  | done h => exact absurd h hd
  | stop => exact ⟨_, rfl⟩

theorem Answers.congr {d' : Prop} (h : Answers d s o) (e : d' ↔ d) : Answers d' s o := by
  rwa [propext e]

theorem Answers.ite [Decidable p] (h : p → Answers d s o) (h' : ¬ p → Answers d s o') : Answers d s (if p then o else o') := by
  split
  · exact h ‹_›
  · exact h' ‹_›

/-- The command that completes exactly where its guard holds. -/
theorem Answers.doneIf [Decidable p] (h : d ↔ p) : Answers d s (if p then Machine.done s m else Machine.stop r) :=
  .ite (fun g => .done (h.2 g)) fun g => .stop (mt h.1 g)

/-- The command that completes exactly where its guard does not hold. -/
theorem Answers.stopIf [Decidable p] (h : d ↔ ¬ p) : Answers d s (if p then Machine.stop r else Machine.done s m) :=
  .ite (fun g => .stop fun k => h.1 k g) fun g => .done (h.2 g)

/-- The command that always completes, in one of two ways. -/
theorem Answers.doneEither [Decidable p] {m' : Module} (h : d) : Answers d s (if p then Machine.done s m else Machine.done s m') :=
  .ite (fun _ => .done h) fun _ => .done h

/-- Operands that can come to the module pass the check on them. -/
theorem Answers.wellFormed [Decidable p] (h : p) (k : Answers d s o) : Answers d s (if p then o else ill) := by
  rwa [if_pos h]

theorem Answers.notIllFormed [Decidable p] (h : ¬ p) (k : Answers d s o) : Answers d s (if p then ill else o) := by
  rwa [if_neg h]

theorem ne_none_of_eq_some {α : Type} {x : Option α} {y : α} (h : x = some y) : x ≠ none := h ▸ Option.some_ne_none y

theorem ne_nil_of_eq_cons {α : Type} {l t : List α} {y : α} (h : l = y :: t) : l ≠ [] := h ▸ List.cons_ne_nil y t

theorem find?_ne_none_iff {α : Type} {l : List α} {q : α → Bool} : l.find? q ≠ none ↔ ∃ x ∈ l, q x = true := by
  rw [← Option.isSome_iff_ne_none, List.find?_isSome]

/-! #### Packets that wait -/

theorem takeAccepted_ne_none {ok : Pkt → Bool} {m : Module} : takeAccepted ok m ≠ none ↔ ∃ k ∈ m.rte.accepted, ok k = true := by
  rw [← find?_ne_none_iff, takeAccepted]
  split <;> simp [*]

theorem takeTy_ne_none {ty : Nat} {m : Module} : takeTy ty m ≠ none ↔ waits ty m := by
  simp [takeTy, takeAccepted_ne_none, waits]

theorem takeMir_ne_none {kind : Nat} {m : Module} : takeMir kind m ≠ none ↔ mirWaits kind m := by
  have h := @takeAccepted_ne_none (fun k => k.hdr.ty = 0x18 && mKind k = kind) m
  simp only [Bool.and_eq_true, decide_eq_true_eq] at h
  rw [mirWaits, ← h, takeMir]
  split
  next e => exact iff_of_false (fun g => g rfl) fun g => g e
  next e => exact iff_of_true (Option.some_ne_none _) (ne_none_of_eq_some e)

end Sys2Proof.Scope

namespace Sys2Proof.Scope
open Sys2Proof.Machine Sys2Proof.Laws

variable {s : State}

/-! #### Operands that can come to the module -/

theorem lt_barSize {fn : Fn} {off : Nat} (h : decide (off < barBytes fn) = true) : off < barSize fn := by
  cases fn <;> exact of_decide_eq_true h

theorem clsCount_eq_unitsOfClass (cls : Nat) : clsCount cls = unitsOfClass cls := by
  by_cases h : cls < 9
  · interval_cases cls <;> rfl
  · obtain ⟨n, rfl⟩ := Nat.exists_eq_add_of_le (not_lt.1 h)
    rw [Nat.add_comm]
    rfl

/-- HBM4 has 256 channels and LPDDR5X 24 packages. -/
theorem clsCount_channels (k : Fin 2) : clsCount (7 + k.val) = if k = 0 then 256 else 24 := by
  fin_cases k <;> rfl

/-- A mask of `k` bits at `l` picks a field. -/
theorem and_mask_eq_zero_iff (n k l : Nat) : n &&& ((2 ^ k - 1) <<< l) = 0 ↔ n / 2 ^ l % 2 ^ k = 0 := by
  have h : n &&& ((2 ^ k - 1) <<< l) = (n / 2 ^ l % 2 ^ k) <<< l := by
    refine Nat.eq_of_testBit_eq fun i => ?_
    by_cases hi : l ≤ i
    · simp [Nat.testBit_shiftLeft, Nat.testBit_div_two_pow, hi, Bool.and_comm]
    · simp [Nat.testBit_shiftLeft, hi]
  rw [h, Nat.shiftLeft_eq_zero_iff]

/-- A reserved OP, or a bit set in a field of a command word that is reserved (R706, R707). -/
theorem badCommand_eq_spiReserved (cmd : W32) : badCommand cmd = spiReserved cmd := by
  have hmask : cmd &&& 0x3F0FFF00#32 = 0 ↔ cmd.toNat / 2 ^ 24 % 2 ^ 6 = 0 ∧ cmd.toNat / 2 ^ 8 % 2 ^ 12 = 0 := by
    rw [← and_mask_eq_zero_iff, ← and_mask_eq_zero_iff, ← Nat.or_eq_zero_iff, ← Nat.and_or_distrib_left, ← BitVec.toNat_inj,
      BitVec.toNat_and]
    rfl
  have hop : cmd.getLsbD 31 = true ↔ 2 ≤ cmd.toNat / 2 ^ 30 % 2 ^ 2 := by
    rw [BitVec.getLsbD, Nat.testBit_eq_decide_div_mod_eq, decide_eq_true_eq]
    have := cmd.isLt
    omega
  rw [Bool.eq_iff_iff]
  simp only [badCommand, spiReserved, fld, nfld, Bool.or_eq_true, bne_iff_ne, ne_eq, hmask, hop, decide_eq_true_eq, ge_iff_le,
    Nat.shiftRight_eq_div_pow]
  tauto

/-! #### Searches -/

theorem exists_findIdx? {α : Type} {q : α → Bool} {l : List α} {n i : Nat} (h : findIdx? q l n = some i) :
    ∃ j x, i = n + j ∧ l[j]? = some x ∧ q x = true := by
  induction l generalizing n with
  | nil => simp [findIdx?] at h
  | cons a r ih =>
    rw [findIdx?] at h
    split at h
    next ha => exact ⟨0, a, by simpa using h.symm, rfl, ha⟩
    next =>
      obtain ⟨j, x, hj, hx, hq⟩ := ih h
      exact ⟨j + 1, x, by omega, by simpa using hx, hq⟩

theorem findIdx?_ne_none {α : Type} {q : α → Bool} {l : List α} {n : Nat} : findIdx? q l n ≠ none ↔ ∃ x ∈ l, q x = true := by
  induction l generalizing n with
  | nil => simp [findIdx?]
  | cons a r ih =>
    rw [findIdx?]
    split <;> simp_all

/-- Among commands that are armed, one is the next. -/
theorem nextCmd_ne_none {l : List (Nat × Beat × Beat)} : nextCmd l ≠ none ↔ l ≠ [] := by
  cases l with
  | nil => simp [nextCmd]
  | cons x t =>
    refine iff_of_true (List.foldlRecOn (motive := (· ≠ none)) t _ (Option.some_ne_none x) fun a ha y _ => ?_) (List.cons_ne_nil _ _)
    split
    · exact Option.some_ne_none _
    · split <;> simp

/-! #### Commands whose guard has more than one part -/

theorem answers_execLocalDelivery : Answers (due .localDelivery s) s (execLocalDelivery s) := by
  unfold execLocalDelivery
  split
  next h => exact .stop (· h)
  next h => exact .done (ne_nil_of_eq_cons h)

theorem answers_execUpComplete (b : Fin 64) : Answers (due (.upComplete b) s) s (execUpComplete b s) := by
  unfold execUpComplete
  split
  next h => exact .stop (· h)
  next h => exact .done (ne_nil_of_eq_cons h)

theorem answers_execCkpt : Answers (due .ckpt s) s (execCkpt s) := by
  unfold execCkpt
  dsimp only [due]
  split
  next h => exact .doneIf (by simp [h])
  next h => exact .stop (by simp [h])

theorem answers_execGalComplete (g : Fin 64) : Answers (due (.galComplete g) s) s (execGalComplete g s) := by
  unfold execGalComplete
  dsimp only [due]
  split
  next h => exact .stop (by simp [h])
  next h => exact .stopIf (by simp [h])

theorem answers_execGalReadout (g : Fin 64) (f : List CellFault) (pd : Bool) (ecc : List EccHit) :
    Answers (due (.galReadout g f pd ecc) s) s (execGalReadout g f pd ecc s) := by
  unfold execGalReadout
  have h : due (.galReadout g f pd ecc) s ↔ (s.m.gal' g.val).ops.find? (fun o => o.readout && !o.read) ≠ none := by
    simp [due]
  refine .congr ?_ h
  split
  next h => exact .stop (· h)
  next h => exact .done (ne_none_of_eq_some h)

theorem answers_execMsixCoalesceEnd (fn : Fn) : Answers (due (.msixCoalesceEnd fn) s) s (execMsixCoalesceEnd fn s) := by
  unfold execMsixCoalesceEnd
  dsimp only [due]
  split
  next h => exact .stop (·.1 h)
  next h => exact .doneIf (by simp [h])

theorem answers_execPwrcycReqNAssert : Answers (due .pwrcycReqNAssert s) s (execPwrcycReqNAssert s) := by
  unfold execPwrcycReqNAssert
  dsimp only [due]
  split
  next h => exact .stop (·.1 h)
  next h => exact .stopIf (by simp [h])

theorem answers_execPwrcycOverdue : Answers (due .pwrcycOverdue s) s (execPwrcycOverdue s) := by
  unfold execPwrcycOverdue
  dsimp only [due]
  split
  next h => exact .stop (·.1 h)
  next h => exact .stopIf (by simp [h])

theorem answers_execSlotOpen : Answers (due .slotOpen s) s (execSlotOpen s) := by
  unfold execSlotOpen
  dsimp only [due]
  split
  next hg hn => exact .doneIf (by simp [hg, hn])
  next h =>
    refine .stop fun ⟨hb, hx, _⟩ => ?_
    obtain ⟨b, hb⟩ := Option.ne_none_iff_exists'.1 hb
    obtain ⟨x, hx⟩ := Option.ne_none_iff_exists'.1 hx
    exact h _ _ _ hb hx

theorem answers_execSuspectClear : Answers (due .suspectClear s) s (execSuspectClear s) := by
  unfold execSuspectClear
  dsimp only [due]
  split
  next hi hx => exact .doneIf (by simp [hi, hx])
  next h =>
    refine .stop fun ⟨hb, x, hx, _⟩ => ?_
    obtain ⟨b, hb⟩ := Option.ne_none_iff_exists'.1 hb
    exact h _ _ hb hx

theorem answers_execResetDone (d : Dom) : Answers (due (.resetDone d) s) s (execResetDone d s) := by
  unfold execResetDone
  dsimp only [due]
  have hr : domRuns s.m d ↔ s.m.wdg.running.find? (fun r => r.dom = d) ≠ none := by simp [domRuns]
  split
  next h => exact .stop (fun g => hr.1 g.1 h)
  next h =>
    refine .stopIf ?_
    have := hr.2 (ne_none_of_eq_some h)
    cases d <;> simp_all [ctxHeld]

/-- The passing of time leaves the descriptors that engines execute. -/
theorem execDescs_eq_of_same {a b : Module} (h : SameBut timeParts a b) (cls i : Nat) : execDescs b cls i = execDescs a cls i := by
  have hg : b.gal = a.gal := h .gal (by decide)
  have hb : b.bal = a.bal := h .bal (by decide)
  have hl : b.lnd = a.lnd := h .lnd (by decide)
  have hr : b.ris = a.ris := h .ris (by decide)
  have hw : b.win = a.win := h .win (by decide)
  have hn : b.nwl = a.nwl := h .nwl (by decide)
  have hf : b.flt = a.flt := h .flt (by decide)
  have ha : b.arc = a.arc := h .arc (by decide)
  simp only [execDescs, Module.gal', Module.bal', Module.lnd', Module.ris', Module.win', Module.nwl', Module.flt', Module.arc',
    hg, hb, hl, hr, hw, hn, hf, ha]

theorem ctxEngines_eq_of_same {a b : Module} (h : SameBut timeParts a b) (p c : Nat) : ctxEngines b p c = ctxEngines a p c := by
  simp only [ctxEngines, execDescs_eq_of_same h]

theorem answers_execResetOverrun (d : Dom) : Answers (due (.resetOverrun d) s) s (execResetOverrun d s) := by
  unfold execResetOverrun
  dsimp only [due]
  have hr : domRuns s.m d ↔ s.m.wdg.running.find? (fun r => r.dom = d) ≠ none := by simp [domRuns]
  split
  next h => exact .stop (fun g => hr.1 g.1 h)
  next h =>
    have hd := hr.2 (ne_none_of_eq_some h)
    split
    next p c =>
      refine .stopIf ?_
      rw [ctxEngines_eq_of_same (eff_passTo ..).same]
      simpa [hd, ctxHeld] using imp_iff_not_or.symm
    next hn => exact .done ⟨hd, fun p c e => absurd e (hn p c)⟩

theorem answers_execCtxHang (p : Fin 16) (c : Fin 8) : Answers (due (.ctxHang p c) s) s (execCtxHang p c s) := by
  unfold execCtxHang
  dsimp only [due]
  split
  next h => exact .stop (by simp [h])
  next hk h =>
    refine .ite (fun g => .stop (by simp_all)) fun g => ?_
    have hd : ∃ hk, ctxHart s.m p.val c.val = some hk ∧ ctxRuns s.m p.val c.val (s.m.hart hk) = true := ⟨hk, h, by simpa using g⟩
    (repeat' split) <;> exact .done hd

theorem answers_execPatternTestEnd (w : Fin 2) (o : PtOutcome) : Answers (due (.patternTestEnd w o) s) s (execPatternTestEnd w o s) := by
  unfold execPatternTestEnd
  dsimp only [due]
  split
  next h => exact .stop (by simp [h])
  next r h =>
    refine .doneIf ?_
    cases ho : o.failed <;> simp [h]

theorem answers_execReleased (p : Fin 16) : Answers (due (.released p) s) s (execReleased p s) := by
  unfold execReleased
  dsimp only [due]
  split
  next h => exact .stop (by simp [h])
  next h => exact .doneIf (by simp [h, and_assoc])

theorem answers_execSend (p : Fin 16) : Answers (due (.send p) s) s (execSend p s) := by
  unfold execSend
  dsimp only [due]
  split
  next hs hq =>
    have hd := And.intro hs (ne_nil_of_eq_cons hq)
    split <;> exact .done hd
  next h =>
    refine .stop fun ⟨hs, hq⟩ => ?_
    obtain ⟨d, t, e⟩ := List.exists_cons_of_ne_nil hq
    exact h _ _ hs e

theorem answers_execAwaitComplete (p : Fin 16) : Answers (due (.awaitComplete p) s) s (execAwaitComplete p s) := by
  unfold execAwaitComplete
  dsimp only [due]
  split
  next h => exact .stop (by simp [h])
  next h =>
    split
    next ho => exact .stop (by simp [h, ho])
    next ho =>
      have hd := And.intro h (ne_none_of_eq_some ho)
      split <;> exact .done ⟨_, _, hd⟩

theorem answers_execFetchComplete (f : FetchResult) : Answers (due (.fetchComplete f) s) s (execFetchComplete f s) := by
  refine .ite (fun h => ?_) fun h => .stop (h ·.1)
  dsimp only [due]
  split
  next => exact .done ⟨h, rfl⟩
  next => exact .stopIf (by simp [h, fetchWhole])

theorem answers_execAlarmFire (q : Option (Fin 16)) : Answers (due (.alarmFire q) s) s (execAlarmFire q s) := by
  unfold execAlarmFire
  dsimp only [due]
  split
  next h => exact .stop (by simp [h])
  next h => exact .doneIf (by simp [h])

theorem answers_eqRow (row : String) (f3 : Nat) (c : Fin 32) (h : Fin 4) (w : BitVec 4) :
    Answers (eqIssues f3 c h w s.m) s (eqRow row f3 c h w s) := by
  unfold eqRow eqIssues
  dsimp only
  split
  next e => exact .stop (by simp [e])
  next e => exact .doneIf (by simp [e])

theorem answers_execEqPushStallEnd (c : Fin 32) (h : Fin 4) : Answers (due (.eqPushStallEnd c h) s) s (execEqPushStallEnd c h s) := by
  unfold execEqPushStallEnd
  dsimp only [due]
  split
  next hw =>
    refine .ite (fun g => .done ?_) fun g => .stopIf ?_
    · simp_all
    · simp_all
  next hw => exact .stop (by rintro ⟨k, d, rd, p, x, e, -⟩; exact hw _ _ _ _ _ e)

theorem answers_execEqWaitSatisfied (c : Fin 32) (h : Fin 4) : Answers (due (.eqWaitSatisfied c h) s) s (execEqWaitSatisfied c h s) := by
  unfold execEqWaitSatisfied
  dsimp only [due]
  split
  next hw => exact .doneIf (by simp [hw])
  next hw => exact .stop (by rintro ⟨k, n, p, x, e, -⟩; exact hw _ _ _ _ e)

theorem answers_execEqGateSatisfied (c : Fin 32) (h : Fin 4) : Answers (due (.eqGateSatisfied c h) s) s (execEqGateSatisfied c h s) := by
  unfold execEqGateSatisfied
  dsimp only [due]
  split
  next hw => exact .doneIf (by simp [hw])
  next hw => exact .stop (by rintro ⟨g, p, x, e, -⟩; exact hw _ _ _ e)

theorem answers_execEqFenceSatisfied (c : Fin 32) (h : Fin 4) : Answers (due (.eqFenceSatisfied c h) s) s (execEqFenceSatisfied c h s) := by
  unfold execEqFenceSatisfied
  dsimp only [due]
  split
  next hw => exact .doneIf (by simp [hw])
  next hw => exact .stop (by rintro ⟨p, x, e, -⟩; exact hw _ _ e)

theorem answers_execPhaseTimeout (u : Option (Fin 2)) (p : Fin 16) : Answers (due (.phaseTimeout u p) s) s (execPhaseTimeout u p s) := by
  unfold execPhaseTimeout
  dsimp only [due]
  cases u with
  | none =>
    dsimp only
    split
    next h => exact .stop (· h)
    next h => exact .done (ne_none_of_eq_some h)
  | some a =>
    dsimp only
    split
    next h => exact .stop (· h)
    next h => exact .done (ne_none_of_eq_some h)

theorem answers_execEarlyReadyExpiry (a : Fin 2) : Answers (due (.earlyReadyExpiry a) s) s (execEarlyReadyExpiry a s) := by
  unfold execEarlyReadyExpiry
  dsimp only [due]
  split
  next he hv => exact .stop (by simp_all)
  next he =>
    have hd : _ ∨ a.val = 0 ∧ s.m.vote.early ≠ [] := .inl (ne_nil_of_eq_cons he)
    (repeat' split) <;> exact .done hd
  next he hv => exact .done (.inr (by split_ifs at hv with h0; exact ⟨h0, ne_nil_of_eq_cons hv⟩))

theorem answers_execVstCommandBeat (p : Fin 16) : Answers (due (.vstCommandBeat p) s) s (execVstCommandBeat p s) := by
  unfold execVstCommandBeat
  refine .congr ?_ nextCmd_ne_none.symm
  split
  next h => exact .stop (· h)
  next h => exact .done (ne_none_of_eq_some h)

theorem answers_execBurstIssue (f : Fin 32) (errs : List MemErr) : Answers (due (.burstIssue f errs) s) s (execBurstIssue f errs s) := by
  unfold execBurstIssue
  have hd : due (.burstIssue f errs) s ↔ findIdx? (fun o => !o.issuedAll && o.err = 0) (s.m.flt' f.val).ops 0 ≠ none := by
    simp [findIdx?_ne_none, due]
  refine .congr ?_ hd
  split
  next h => exact .stop (· h)
  next i h =>
    obtain ⟨j, x, hj, hx, -⟩ := exists_findIdx? h
    obtain rfl : i = j := by omega
    rw [hx]
    exact .done (ne_none_of_eq_some h)

theorem answers_execBurstTimeout (f : Fin 32) (tag : Nat) : Answers (due (.burstTimeout f tag) s) s (execBurstTimeout f tag s) := by
  unfold execBurstTimeout
  dsimp only [due]
  split
  next h => exact .done (.inl (ne_none_of_eq_some h))
  next h =>
    split
    next ho => exact .done (.inr (ne_none_of_eq_some ho))
    next ho => exact .stop (by simp [h, ho])

theorem not_galDue {g ty : Nat} {refused : Module → Desc → Bool} {m : Module} (h : galHead (settleBal g m) g ty = none) :
    ¬ galDue g ty refused m := by
  simp [galDue, h]

theorem galDue_iff_of_head {g ty : Nat} {refused : Module → Desc → Bool} {m : Module} {k : QKey} {d : Desc}
    (h : galHead (settleBal g m) g ty = some (k, d)) :
    galDue g ty refused m ↔ refused (dequeue k (settleBal g m)) d = true ∨ galTurn g (dequeue k (settleBal g m)) ≠ none := by
  simp [galDue, h]

theorem answers_execMatmul (g : Fin 64) (st : List Nat) (ecc be : List EccHit) (errs : List MemErr) :
    Answers (due (.matmul g st ecc be errs) s) s (execMatmul g st ecc be errs s) := by
  unfold execMatmul
  dsimp only [due]
  split
  next h => exact .stop (not_galDue h)
  next k d h =>
    rw [galDue_iff_of_head h]
    split
    next hr => exact .done (.inl (by simp [hr]))
    next hr hp => exact .done (.inl (by simp [hp]))
    next hr hp =>
      split
      next ht => exact .stop (by simp [hr, hp, ht])
      next ht => exact .done (.inr (ne_none_of_eq_some ht))

theorem answers_execAccLoad (g : Fin 64) (errs : List MemErr) : Answers (due (.accLoad g errs) s) s (execAccLoad g errs s) := by
  unfold execAccLoad
  dsimp only [due]
  split
  next h => exact .stop (not_galDue h)
  next k d h =>
    rw [galDue_iff_of_head h]
    split
    next hr => exact .done (.inl (by simp [hr]))
    next hr =>
      split
      next ht => exact .stop (by simp [hr, ht])
      next ht => exact .done (.inr (ne_none_of_eq_some ht))

theorem answers_execAccRead (g : Fin 64) : Answers (due (.accRead g) s) s (execAccRead g s) := by
  unfold execAccRead
  dsimp only [due]
  split
  next h => exact .stop (not_galDue h)
  next k d h =>
    rw [galDue_iff_of_head h]
    split
    next hr => exact .done (.inl (by simp [hr]))
    next hr =>
      split
      next ht => exact .stop (by simp [hr, ht])
      next ht => exact .done (.inr (ne_none_of_eq_some ht))

theorem canStart_guard {α : Type} {op : Option α} {b : Bool} : (op.isSome || !b) = true ↔ ¬ (op = none ∧ b = true) := by
  cases op <;> simp

theorem answers_execConvert (u : Fin 8) (hs ns : Nat) (se : List EccHit) (errs : List MemErr) :
    Answers (due (.convert u hs ns se errs) s) s (execConvert u hs ns se errs s) := by
  refine .ite (fun h => .stop fun ⟨ho, hc, _⟩ => canStart_guard.1 h ⟨ho, hc⟩) fun h => ?_
  obtain ⟨ho, hc⟩ := not_not.1 (mt canStart_guard.2 h)
  dsimp only [due]
  split
  next hh => exact .stop (·.2.2 hh)
  next hh =>
    have hd := And.intro ho (And.intro hc (ne_none_of_eq_some hh))
    (repeat' split) <;> exact .done hd

theorem answers_execTransform (u : Fin 4) (hs ns : Nat) (ecc se : List EccHit) (errs : List MemErr) :
    Answers (due (.transform u hs ns ecc se errs) s) s (execTransform u hs ns ecc se errs s) := by
  refine .ite (fun h => .stop fun ⟨ho, hc, _⟩ => canStart_guard.1 h ⟨ho, hc⟩) fun h => ?_
  obtain ⟨ho, hc⟩ := not_not.1 (mt canStart_guard.2 h)
  dsimp only [due]
  split
  next hh => exact .stop (·.2.2 hh)
  next hh =>
    have hd := And.intro ho (And.intro hc (ne_none_of_eq_some hh))
    (repeat' split) <;> exact .done hd

theorem answers_execRun (u : Fin 16) (hs ns : Nat) (ecc se : List EccHit) (errs : List MemErr) :
    Answers (due (.run u hs ns ecc se errs) s) s (execRun u hs ns ecc se errs s) := by
  refine .ite (fun h => .stop fun ⟨ho, hc, _⟩ => canStart_guard.1 h ⟨ho, hc⟩) fun h => ?_
  obtain ⟨ho, hc⟩ := not_not.1 (mt canStart_guard.2 h)
  dsimp only [due]
  split
  next hh => exact .stop (·.2.2 hh)
  next hh =>
    have hd := And.intro ho (And.intro hc (ne_none_of_eq_some hh))
    (repeat' split) <;> exact .done hd

/-- A Flight descriptor starts, or is refused, where one of its type stands at the engine's head. -/
theorem answers_fltStart (row : String) (f : Fin 32) (ty : Nat) (refusal : Module → Desc → Option Nat) (total : Desc → Nat) :
    Answers (fltHead s.m f.val ty ≠ none) s (fltStart row f ty refusal total s) := by
  unfold fltStart
  split
  next h => exact .stop (· h)
  next h =>
    have hd := ne_none_of_eq_some h
    dsimp only
    split <;> exact .done hd

theorem answers_execPut (f : Fin 32) : Answers (due (.put f) s) s (execPut f s) := by
  unfold execPut
  split
  next h => exact .stop (· h)
  next h => exact .ite (fun _ => .done (ne_none_of_eq_some h)) fun _ => answers_fltStart ..

end Sys2Proof.Scope

namespace Sys2Proof.Scope
open Sys2Proof.Machine Sys2Proof.Laws

variable {s : State}

/-! #### Answers to a Flight engine's bursts (R411 to R413) -/

/-- A read after a write of the same key gives the value written, in any map, where that value is not the one that is not listed. -/
theorem nget_nset_of_ne_default {α : Type} [DecidableEq α] {d v : α} {l : NMap α} {k : Nat} (hv : v ≠ d) :
    nget d (nset d l k v) k = v := by
  induction l with
  | nil => simp [nset, nget, hv]
  | cons x r ih =>
    obtain ⟨k', v'⟩ := x
    simp only [nset, hv, if_false]
    split_ifs with h1 h2
    · simp [nget]
    · simp [nget]
    · simp [nget, Ne.symm h2, ih]

/-- The engine keeps the tag of a burst that timed out: a response for it will be late. -/
def DeadTag (f tag : Nat) (m : Module) : Prop := ∃ e ∈ (m.flt' f).dead, e.1 = tag

variable {f g i tag : Nat} {m : Module}

theorem deadTag_of_flt_eq {m' : Module} (h : m'.flt = m.flt) (hd : DeadTag f tag m) : DeadTag f tag m' := by
  rwa [DeadTag, Module.flt', h]

theorem deadTag_setFlt_self {x : Flt} (h : ∃ e ∈ x.dead, e.1 = tag) : DeadTag f tag (m.setFlt f x) := by
  have hx : x ≠ Flt.init := by
    rintro rfl
    obtain ⟨e, he, -⟩ := h
    exact absurd he List.not_mem_nil
  rwa [DeadTag, Module.flt', Module.setFlt, nget_nset_of_ne_default hx]

/-- A change of an engine that leaves its dead tags. -/
theorem deadTag_setFlt {x : Flt} (hx : x.dead = (m.flt' g).dead) (hd : DeadTag f tag m) : DeadTag f tag (m.setFlt g x) := by
  by_cases h : f = g
  · subst h
    exact deadTag_setFlt_self (hx ▸ hd)
  · rwa [DeadTag, setFlt_get_ne _ _ _ _ h]

theorem deadTag_updFltOp {u : FltOp → FltOp} (hd : DeadTag f tag m) : DeadTag f tag (updFltOp g i u m) := by
  unfold updFltOp
  dsimp only
  split
  · exact deadTag_setFlt rfl hd
  · exact hd

theorem deadTag_addBurst {b : BurstRec} (hd : DeadTag f tag m) : DeadTag f tag (addBurst g i b m) :=
  deadTag_setFlt rfl (deadTag_updFltOp hd)

theorem deadTag_tagStall (hd : DeadTag f tag m) : DeadTag f tag (tagStall g m) := by
  unfold tagStall
  dsimp only
  split
  · exact hd
  · exact deadTag_setFlt rfl hd

theorem deadTag_stallEnd (hd : DeadTag f tag m) : DeadTag f tag (stallEnd g m) := by
  unfold stallEnd
  dsimp only
  split
  · exact deadTag_setFlt rfl hd
  · exact hd

theorem deadTag_sendNotify {o : FltOp} (hd : DeadTag f tag m) : DeadTag f tag (sendNotify g i o m) := by
  unfold sendNotify
  dsimp only
  split
  · exact deadTag_tagStall hd
  · refine deadTag_addBurst (deadTag_updFltOp (deadTag_of_flt_eq ((eff_inject ..).same .flt (by decide)) ?_))
    exact deadTag_of_flt_eq rfl hd

theorem deadTag_sendDue (hd : DeadTag f tag m) : DeadTag f tag (sendDue g m) := by
  refine List.foldlRecOn _ _ hd fun m h x _ => ?_
  split
  · exact deadTag_sendNotify h
  · exact h

theorem deadTag_settleGo (n : Nat) (hd : DeadTag f tag m) : DeadTag f tag (settleGo g n m) := by
  induction n generalizing m with
  | zero => exact hd
  | succ n ih =>
    unfold settleGo
    split
    · exact hd
    · split
      · exact ih (deadTag_of_flt_eq ((eff_complete ..).same .flt (by decide)) (deadTag_setFlt rfl hd))
      · exact hd

/-- What follows when bursts end leaves the tags whose responses will be late. -/
theorem deadTag_settleFlt (hd : DeadTag f tag m) : DeadTag f tag (settleFlt g m) :=
  List.foldlRecOn _ _ (deadTag_settleGo _ (deadTag_sendDue hd)) fun _ h _ _ => deadTag_sendDue (deadTag_stallEnd h)

theorem deadTag_burstFail {code : Nat} {o : FltOp} {b : BurstRec} : DeadTag f b.tag (burstFail f i code o b m) := by
  unfold burstFail
  exact deadTag_settleFlt (deadTag_setFlt_self ⟨_, List.mem_cons_self .., rfl⟩)

theorem deadTag_orphanEnd {o : Orphan} : DeadTag f o.burst.tag (orphanEnd f o true m) := by
  unfold orphanEnd
  exact deadTag_settleFlt (deadTag_setFlt_self ⟨_, List.mem_cons_self .., rfl⟩)

theorem lateResponse_ne_none : lateResponse f tag m ≠ none ↔ DeadTag f tag m := by
  have h : (m.flt' f).dead.find? (fun e => e.1 = tag) ≠ none ↔ DeadTag f tag m := by simp [DeadTag]
  unfold lateResponse
  rw [← h]
  dsimp only
  split
  next e => exact iff_of_false (fun g => g rfl) fun g => g e
  next e => exact iff_of_true (Option.some_ne_none _) (ne_none_of_eq_some e)

/-- An answer ends its burst exactly where it is one that the burst waits for. -/
theorem fltAnswer_ne_none {o : FltOp} {b : BurstRec} {ans : BurstAnswer} : fltAnswer f i o b ans m ≠ none ↔ answerFits b.kind ans := by
  unfold fltAnswer
  cases b.kind <;> cases ans <;> simp [answerFits]

theorem findBurst_tag {x : Flt} {o : FltOp} {b : BurstRec} (h : findBurst x tag = some (i, o, b)) : b.tag = tag := by
  suffices ∀ y, findBurst x tag = some y → y.2.2.tag = tag from this _ h
  unfold findBurst
  refine List.foldlRecOn (motive := fun a : Option (ℕ × FltOp × BurstRec) => ∀ y, a = some y → y.2.2.tag = tag) _ _ nofun fun a ha e _ y hy => ?_
  split at hy
  · exact ha y hy
  · split at hy
    next hb =>
      obtain rfl := Option.some.inj hy
      simpa using List.find?_some hb
    next => cases hy

theorem orphanAt_tag {x : Flt} {o : Orphan} (h : orphanAt x tag = some o) : o.burst.tag = tag := by
  simpa using List.find?_some h

/-- An answer that is not short brings at least the bytes that its burst asked for. -/
theorem answerShort_of_found {x : Flt} {o : FltOp} {b : BurstRec} {ans : BurstAnswer} (h : findBurst x tag = some (i, o, b)) :
    answerShort x tag ans = false ↔ ∀ l, ans = .data l → answerLen x b ≤ l.length := by
  cases ans <;> simp [answerShort, h]

theorem answerShort_of_not_found {x : Flt} {ans : BurstAnswer} (h : findBurst x tag = none) : answerShort x tag ans = false := by
  cases ans <;> simp [answerShort, h]

theorem fltRespond_of_found {o : FltOp} {b : BurstRec} {ans : BurstAnswer} (h : findBurst (m.flt' f) tag = some (i, o, b)) :
    fltRespond f tag ans m ≠ none ↔ burstDue (m.flt' f) b < m.clk.elapsed ∨ answerFits b.kind ans := by
  rw [fltRespond, h]
  dsimp only
  split
  next hl => exact iff_of_true (lateResponse_ne_none.2 (findBurst_tag h ▸ deadTag_burstFail)) (.inl hl)
  next hl => rw [fltAnswer_ne_none, or_iff_right hl]

theorem fltRespond_of_not_found {ans : BurstAnswer} (h : findBurst (m.flt' f) tag = none) :
    fltRespond f tag ans m ≠ none ↔ orphanAt (m.flt' f) tag ≠ none ∨ DeadTag f tag m := by
  rw [fltRespond, h]
  dsimp only
  split
  next o ho =>
    refine iff_of_true ?_ (.inl (ne_none_of_eq_some ho))
    split
    · exact lateResponse_ne_none.2 (orphanAt_tag ho ▸ deadTag_orphanEnd)
    · exact Option.some_ne_none _
  next ho => rw [lateResponse_ne_none, or_iff_right (not_not.2 ho)]

/-- A response is due exactly where the engine takes it. -/
theorem answerDue_iff {ans : BurstAnswer} :
    answerDue (m.flt' f) tag ans m.clk.elapsed ↔ answerShort (m.flt' f) tag ans = false ∧ fltRespond f tag ans m ≠ none := by
  rcases h : findBurst (m.flt' f) tag with _ | ⟨i, o, b⟩
  · simp [answerDue, h, answerShort_of_not_found h, fltRespond_of_not_found h, DeadTag]
  · rw [answerShort_of_found h, fltRespond_of_found h]
    simp [answerDue, h, and_comm]

theorem answers_execBurstResponse (f : Fin 32) (tag : Nat) (ans : BurstAnswer) :
    Answers (due (.burstResponse f tag ans) s) s (execBurstResponse f tag ans s) := by
  refine .congr ?_ answerDue_iff
  refine .ite (fun h => .stop fun g => ?_) fun h => ?_
  · simp [h] at g
  · split
    next e => exact .done ⟨by simpa using h, ne_none_of_eq_some e⟩
    next e => exact .stop (·.2 e)

end Sys2Proof.Scope

namespace Sys2Proof.Scope
open Sys2Proof.Machine Sys2Proof.Laws

variable {s : State}

/-! #### Throttles, calibration, the trace's lost records, the routing swap and scrubbing -/

theorem answers_execThrottle (r : Fin 6) : Answers (due (.throttle r) s) s (execThrottle r s) := by
  refine .ite (fun h => .doneEither (.inl (by omega))) fun h => .stopIf ?_
  have hr : r.val ≠ 5 := by omega
  dsimp only [due]
  simp
  grind

theorem answers_execThrottleLevelChange (r : Fin 6) (up : Bool) :
    Answers (due (.throttleLevelChange r up) s) s (execThrottleLevelChange r up s) := by
  refine .ite (fun h => .stop ?_) fun h => .ite (fun hu => .done ?_) fun hu => .stopIf ?_
  all_goals simp [due] at h ⊢
  · intro ha hr
    simp [ha] at h
    omega
  · exact ⟨h.1, by omega, by simp [hu]⟩
  · simp [h, hu]

theorem answers_execThrottleEnd (r : Fin 6) : Answers (due (.throttleEnd r) s) s (execThrottleEnd r s) := by
  refine .stopIf ?_
  dsimp only [due]
  simp [and_assoc]

theorem answers_execCalDue : Answers (due .calDue s) s (execCalDue s) := by
  refine .stopIf ?_
  dsimp only [due]
  cases lightNow s.m <;> simp

theorem answers_execLostRecordEntry : Answers (due .lostRecordEntry s) s (execLostRecordEntry s) := by
  refine .ite (fun h => .stop (·.1 h)) fun h => ?_
  dsimp only [due]
  by_cases hc : s.m.dbg.buffer.length < traceCap
  · rw [if_pos hc]
    exact .doneIf (by simp [h, hc])
  · rw [if_neg hc]
    exact .doneIf (by simp [h, hc])

theorem answers_execSwap : Answers (due .swap s) s (execSwap s) := by
  refine .ite (fun h => .ite (fun h' => .stop (·.2 h')) fun h' => ?_) fun h => .stop (h ·.1)
  dsimp only
  split <;> exact .done ⟨h, h'⟩

theorem answers_execScrubbed : Answers (due .scrubbed s) s (execScrubbed s) := by
  refine .stopIf ?_
  simp only [due, List.length_eq_zero_iff]
  tauto

theorem answers_execLaneLoss (p : Fin 16) (l : Fin 9) : Answers (due (.laneLoss p l) s) s (execLaneLoss p l s) := by
  refine .ite (fun h => ?_) .stop
  dsimp only
  (repeat' split) <;> exact .done h

theorem answers_execCheckingEnd : Answers (due .checkingEnd s) s (execCheckingEnd s) := by
  refine .ite (fun h => ?_) .stop
  dsimp only
  split <;> exact .done h

theorem answers_execApply : Answers (due .apply s) s (execApply s) := by
  refine .ite (fun h => ?_) .stop
  dsimp only
  generalize passToBeat _ _ = m
  (repeat' split) <;> exact .done h

theorem answers_execConfigurationRequest : Answers (due .configurationRequest s) s (execConfigurationRequest s) := by
  refine .ite (fun h => .done fun g => ?_) fun h => .doneIf ?_
  · simp [g] at h
  · simp [due, show wingsReached s.m.pci = true by simpa using h]

/-! #### The tray's SPI frames (R706, R707) -/

/-- The command word of a frame that is neither short nor reserved names the operation of its row. -/
theorem op_of_frameWf {op bits : Nat} {cmd : W32} (h : frameWf op cmd bits = true) (hb : ¬ bits < 32) (hr : ¬ spiReserved cmd = true) :
    fld cmd 30 2 = op := by
  rw [frameWf, badCommand_eq_spiReserved, Bool.or_eq_true, Bool.or_eq_true, decide_eq_true_eq, decide_eq_true_eq, or_assoc,
    or_iff_right hb, or_iff_right hr, BitVec.toNat_ushiftRight] at h
  rw [fld, nfld, h, ← h]
  have := cmd.isLt
  simp only [Nat.shiftRight_eq_div_pow]
  omega

theorem answers_execTraySpiRead {cmd : W32} {bits : Nat} (h : frameWf 0 cmd bits = true) :
    Answers True s (execTraySpiRead cmd bits s) :=
  .ite (fun _ => .done trivial) fun hb => .ite (fun _ => .done trivial) fun hr => .wellFormed (op_of_frameWf h hb hr) (.done trivial)

theorem answers_execTraySpiWrite {cmd : W32} {words : List W32} {bits : Nat}
    (h : (frameWf 1 cmd bits && decide (frameWords cmd bits ≤ words.length)) = true) : Answers True s (execTraySpiWrite cmd words bits s) := by
  rw [Bool.and_eq_true, decide_eq_true_eq] at h
  have hw : ¬ words.length < spiData cmd bits := by
    have hf : spiData cmd bits = frameWords cmd bits := by simp [spiData, spiWords, frameWords, fld, nfld]
    omega
  exact .notIllFormed hw <| .ite (fun _ => .done trivial) fun hb => .ite (fun _ => .done trivial) fun hr =>
    .wellFormed (op_of_frameWf h.1 hb hr) (.done trivial)

/-! #### Every command -/

/-- A command with operands that can come to the module completes where it is due, and is refused by name elsewhere. -/
theorem answers_exec (i : Instr) (s : State) (hi : i.wellFormed = true) : Answers (due i s) s (exec i s) := by
  cases i
  -- one guard
  case flitSend | timePacketSend | holdover | bringUpRetry | retrainDone | noFlitTimeout | bringUpTimeout | channelTestEnd | cutTaken
      | packLoad | moduleDown | ideFail | aonComplete | wingRailsUp | firmwareCopiesFail | perstNFall | snapshotPeriod | linkDown =>
    exact .doneIf .rfl
  case wingsOutOfReset | drainDone | drainError | drainLate | engHang | pcSample => exact .doneIf (by simp [due, and_assoc])
  case perstNRise | drained => exact .stopIf (by simp [due, and_assoc])
  case laneLock => exact .ite (fun h => .doneEither h) .stop
  -- a check on the operands
  case thermWarn | thermTrip | holdupLow | holdupDisagree | ideKm => exact .wellFormed (of_decide_eq_true hi) (.done trivial)
  case imgShadowWrite | rteShadowWrite => exact .wellFormed (of_decide_eq_true hi) (.doneEither trivial)
  case registerWrite | registerRead | vendorRead => exact .wellFormed (lt_barSize hi) (.done trivial)
  case vendorWrite off val tray =>
    exact .ite (fun _ => .done trivial) fun ht =>
      .wellFormed (lt_barSize ((Bool.or_eq_true_iff.1 hi).resolve_left ht)) (.doneEither trivial)
  case delayRemeasure => exact .notIllFormed (not_not.2 (of_decide_eq_true hi)) (.doneIf (by simp [due]))
  case bringUpComplete | firmwareVerified => exact .notIllFormed (not_not.2 (of_decide_eq_true hi)) (.doneIf .rfl)
  case memTrainComplete failed =>
    refine .notIllFormed ?_ (.doneIf .rfl)
    simp only [Instr.wellFormed, ← clsCount_channels] at hi
    simp [hi]
  case bistComplete failed =>
    refine .notIllFormed ?_ (.doneIf .rfl)
    simp only [Instr.wellFormed, ← clsCount_eq_unitsOfClass] at hi
    simp [hi]
  case flitReceive p f =>
    refine .notIllFormed ?_ (.stopIf (by simp [due]))
    simp [Instr.wellFormed, flitWf] at hi ⊢
    simp [hi]
  case linkUp w r f =>
    have hl : linkOk w r = true := hi
    exact .notIllFormed (by simp [hl]) (.doneIf .rfl)
  case bypass => exact .notIllFormed (by simpa [Instr.wellFormed] using hi) (.done trivial)
  case traySpiBadcmd cmd => exact .wellFormed (badCommand_eq_spiReserved cmd ▸ hi) (.done trivial)
  case traySpiRead => exact answers_execTraySpiRead hi
  case traySpiWrite => exact answers_execTraySpiWrite hi
  -- one of two effects
  case portEnable | lightLoss | cmapWindowEnd | nutFcThrWrite | crcRetry | wingHang | slotIdChange => exact .doneEither trivial
  case timePacketReceive => exact .ite (fun _ => .done trivial) fun _ => .doneEither trivial
  -- a packet that waits
  case write | notify | readReq | readResp | atomic | ack | mgmt | arcade | vote | notice | telemetry =>
    dsimp only [due, exec, execWrite, execNotify, execReadReq, execReadResp, execAtomic, execAck, execMgmt, execArcade, execVote, execNotice, execTelemetry]
    rw [← takeTy_ne_none]
    split
    next h => exact .stop (· h)
    next h => exact .done (ne_none_of_eq_some h)
  case mirBegin | mirList | mirData | mirEnd | mirInput | fetch | rdata | rresult | rdone =>
    dsimp only [due, exec, execMirBegin, execMirList, execMirData, execMirEnd, execMirInput, execFetch, execRdata, execRresult, execRdone]
    rw [← takeMir_ne_none]
    split
    next h => exact .stop (· h)
    next h =>
      have hd := ne_none_of_eq_some h
      (repeat' split) <;> exact .done hd
  -- something that is in progress, or a descriptor at a queue's head
  case genComplete | risComplete | winComplete | lndComplete | cacheCommandDone | soakEnd | inAborted | mirrorTimeout | restoreFailed
      | partHang | packLoaded | opChanged | recalDone | stageFail | dumpDone | hartInstruction | slots | down | up | scrRead | gen | seed
      | allreduce | voteCfg | retain | done | await | chkSync | tailTimeout | slotMaxExpiry =>
    dsimp only [due, balDue, exec, execGenComplete, execRisComplete, execWinComplete, execLndComplete, execCacheCommandDone, execSoakEnd,
      execInAborted, execMirrorTimeout, execRestoreFailed, execPartHang, execPackLoaded, execOpChanged, execRecalDone, execStageFail,
      execDumpDone, execHartInstruction, execSlots, execDown, execUp, execScrRead, execGen, execSeed, execAllreduce, execVoteCfg,
      execRetain, execDone, execAwait, execChkSync, execTailTimeout, execSlotMaxExpiry]
    split
    next h => exact .stop (· h)
    next h =>
      have hd := ne_none_of_eq_some h
      (repeat' split) <;> exact .done hd
  case move | gather | prefetch => exact answers_fltStart ..
  case eqPush | eqWait | eqPoll | eqGate | eqBeat | eqFence => exact answers_eqRow ..
  -- guards of their own
  case put => exact answers_execPut _
  case localDelivery => exact answers_execLocalDelivery
  case upComplete => exact answers_execUpComplete _
  case ckpt => exact answers_execCkpt
  case galComplete => exact answers_execGalComplete _
  case galReadout => exact answers_execGalReadout ..
  case msixCoalesceEnd => exact answers_execMsixCoalesceEnd _
  case pwrcycReqNAssert => exact answers_execPwrcycReqNAssert
  case pwrcycOverdue => exact answers_execPwrcycOverdue
  case slotOpen => exact answers_execSlotOpen
  case suspectClear => exact answers_execSuspectClear
  case resetDone => exact answers_execResetDone _
  case resetOverrun => exact answers_execResetOverrun _
  case ctxHang => exact answers_execCtxHang ..
  case patternTestEnd => exact answers_execPatternTestEnd ..
  case released => exact answers_execReleased _
  case send => exact answers_execSend _
  case awaitComplete => exact answers_execAwaitComplete _
  case fetchComplete => exact answers_execFetchComplete _
  case alarmFire => exact answers_execAlarmFire _
  case eqPushStallEnd => exact answers_execEqPushStallEnd ..
  case eqWaitSatisfied => exact answers_execEqWaitSatisfied ..
  case eqGateSatisfied => exact answers_execEqGateSatisfied ..
  case eqFenceSatisfied => exact answers_execEqFenceSatisfied ..
  case phaseTimeout => exact answers_execPhaseTimeout ..
  case earlyReadyExpiry => exact answers_execEarlyReadyExpiry _
  case vstCommandBeat => exact answers_execVstCommandBeat _
  case burstIssue => exact answers_execBurstIssue ..
  case burstResponse => exact answers_execBurstResponse ..
  case burstTimeout => exact answers_execBurstTimeout ..
  case matmul => exact answers_execMatmul ..
  case accLoad => exact answers_execAccLoad ..
  case accRead => exact answers_execAccRead _
  case convert => exact answers_execConvert ..
  case transform => exact answers_execTransform ..
  case run => exact answers_execRun ..
  case throttle => exact answers_execThrottle _
  case throttleLevelChange => exact answers_execThrottleLevelChange ..
  case throttleEnd => exact answers_execThrottleEnd _
  case calDue => exact answers_execCalDue
  case lostRecordEntry => exact answers_execLostRecordEntry
  case swap => exact answers_execSwap
  case scrubbed => exact answers_execScrubbed
  case laneLoss => exact answers_execLaneLoss ..
  case checkingEnd => exact answers_execCheckingEnd
  case apply => exact answers_execApply
  case configurationRequest => exact answers_execConfigurationRequest
  -- commands that are due in every state
  all_goals exact .done trivial

end Sys2Proof.Scope

/-! ### What each command leaves as it was (O52) -/

namespace Sys2Proof.Scope
open Sys2Proof.Machine Sys2Proof.Laws

/-- Every command but POWER_GOOD keeps every part that `touches` does not name for it. -/
theorem effOut_exec (i : Instr) (s : State) (hi : ∀ slot, i ≠ .powerGood slot) : EffOut (touches i) s (exec i s) := by
  cases i with
  | powerGood slot => exact absurd rfl (hi slot)
  | registerWrite a0 a1 a2 a3 => exact (eff_execRegisterWrite a0 a1 a2 a3 s).mono rfl
  | flitSend a0 => exact (eff_execFlitSend a0 s).mono rfl
  | registerRead a0 a1 a2 => exact (eff_execRegisterRead a0 a1 a2 s).mono rfl
  | traySpiBadcmd a0 => exact (eff_execTraySpiBadcmd a0 s).mono rfl
  | throttleLevelChange a0 a1 => exact (eff_execThrottleLevelChange a0 a1 s).mono rfl
  | load => exact (eff_execLoad s).mono rfl
  | fetchComplete a0 => exact (eff_execFetchComplete a0 s).mono rfl
  | imgShadowWrite a0 a1 a2 => exact (eff_execImgShadowWrite a0 a1 a2 s).mono rfl
  | check => exact (eff_execCheck s).mono rfl
  | checkingEnd => exact (eff_execCheckingEnd s).mono rfl
  | arm => exact (eff_execArm s).mono rfl
  | cancel => exact (eff_execCancel s).mono rfl
  | apply => exact (eff_execApply s).mono rfl
  | scrubbed => exact (eff_execScrubbed s).mono rfl
  | timePacketSend => exact (eff_execTimePacketSend s).mono rfl
  | timePacketReceive a0 a1 => exact (eff_execTimePacketReceive a0 a1 s).mono rfl
  | holdover => exact (eff_execHoldover s).mono rfl
  | beatGmCtrlWrite a0 => exact (eff_execBeatGmCtrlWrite a0 s).mono rfl
  | beatSet a0 => exact (eff_execBeatSet a0 s).mono rfl
  | delayRemeasure a0 a1 a2 => exact (eff_execDelayRemeasure a0 a1 a2 s).mono rfl
  | beatMqPush => exact (eff_execBeatMqPush s).mono rfl
  | alarmFire a0 => exact (eff_execAlarmFire a0 s).mono rfl
  | eqPush a0 a1 a2 => exact (eff_execEqPush a0 a1 a2 s).mono rfl
  | eqPushStallEnd a0 a1 => exact (eff_execEqPushStallEnd a0 a1 s).mono rfl
  | eqWait a0 a1 a2 => exact (eff_execEqWait a0 a1 a2 s).mono rfl
  | eqWaitSatisfied a0 a1 => exact (eff_execEqWaitSatisfied a0 a1 s).mono rfl
  | eqPoll a0 a1 a2 => exact (eff_execEqPoll a0 a1 a2 s).mono rfl
  | eqGate a0 a1 a2 => exact (eff_execEqGate a0 a1 a2 s).mono rfl
  | eqGateSatisfied a0 a1 => exact (eff_execEqGateSatisfied a0 a1 s).mono rfl
  | eqBeat a0 a1 a2 => exact (eff_execEqBeat a0 a1 a2 s).mono rfl
  | eqFence a0 a1 a2 => exact (eff_execEqFence a0 a1 a2 s).mono rfl
  | eqFenceSatisfied a0 a1 => exact (eff_execEqFenceSatisfied a0 a1 s).mono rfl
  | hartInstruction a0 a1 a2 => exact (eff_execHartInstruction a0 a1 a2 s).mono rfl
  | hartStart a0 a1 => exact (eff_execHartStart a0 a1 s).mono rfl
  | hartHalt a0 a1 => exact (eff_execHartHalt a0 a1 s).mono rfl
  | matmul a0 a1 a2 a3 a4 => exact (eff_execMatmul a0 a1 a2 a3 a4 s).mono rfl
  | accLoad a0 a1 => exact (eff_execAccLoad a0 a1 s).mono rfl
  | accRead a0 => exact (eff_execAccRead a0 s).mono rfl
  | galReadout a0 a1 a2 a3 => exact (eff_execGalReadout a0 a1 a2 a3 s).mono rfl
  | galComplete a0 => exact (eff_execGalComplete a0 s).mono rfl
  | galCntClr a0 => exact (eff_execGalCntClr a0 s).mono rfl
  | slots a0 => exact (eff_execSlots a0 s).mono rfl
  | down a0 => exact (eff_execDown a0 s).mono rfl
  | up a0 a1 a2 a3 a4 => exact (eff_execUp a0 a1 a2 a3 a4 s).mono rfl
  | upComplete a0 => exact (eff_execUpComplete a0 s).mono rfl
  | scrRead a0 a1 a2 => exact (eff_execScrRead a0 a1 a2 s).mono rfl
  | adpCntClr a0 => exact (eff_execAdpCntClr a0 s).mono rfl
  | convert a0 a1 a2 a3 a4 => exact (eff_execConvert a0 a1 a2 a3 a4 s).mono rfl
  | risComplete a0 a1 => exact (eff_execRisComplete a0 a1 s).mono rfl
  | streamClear a0 a1 => exact (eff_execStreamClear a0 a1 s).mono rfl
  | risCntClr a0 => exact (eff_execRisCntClr a0 s).mono rfl
  | risClearStreamSets a0 => exact (eff_execRisClearStreamSets a0 s).mono rfl
  | transform a0 a1 a2 a3 a4 a5 => exact (eff_execTransform a0 a1 a2 a3 a4 a5 s).mono rfl
  | winComplete a0 => exact (eff_execWinComplete a0 s).mono rfl
  | winCntClr a0 => exact (eff_execWinCntClr a0 s).mono rfl
  | run a0 a1 a2 a3 a4 a5 => exact (eff_execRun a0 a1 a2 a3 a4 a5 s).mono rfl
  | lndComplete a0 a1 => exact (eff_execLndComplete a0 a1 s).mono rfl
  | lndCntClr a0 => exact (eff_execLndCntClr a0 s).mono rfl
  | gen a0 a1 a2 => exact (eff_execGen a0 a1 a2 s).mono rfl
  | genComplete a0 => exact (eff_execGenComplete a0 s).mono rfl
  | seed a0 => exact (eff_execSeed a0 s).mono rfl
  | nwlCntClr a0 => exact (eff_execNwlCntClr a0 s).mono rfl
  | hallRequestAged a0 a1 a2 a3 => exact (eff_execHallRequestAged a0 a1 a2 a3 s).mono rfl
  | flush a0 a1 => exact (eff_execFlush a0 a1 s).mono rfl
  | invalidate a0 a1 => exact (eff_execInvalidate a0 a1 s).mono rfl
  | cacheCommandDone a0 => exact (eff_execCacheCommandDone a0 s).mono rfl
  | hallCntClr a0 => exact (eff_execHallCntClr a0 s).mono rfl
  | hbmCntClr a0 => exact (eff_execHbmCntClr a0 s).mono rfl
  | lpxCntClr a0 => exact (eff_execLpxCntClr a0 s).mono rfl
  | testStart a0 a1 => exact (eff_execTestStart a0 a1 s).mono rfl
  | testStop a0 => exact (eff_execTestStop a0 s).mono rfl
  | channelTestEnd a0 => exact (eff_execChannelTestEnd a0 s).mono rfl
  | move a0 => exact (eff_execMove a0 s).mono rfl
  | gather a0 => exact (eff_execGather a0 s).mono rfl
  | prefetch a0 => exact (eff_execPrefetch a0 s).mono rfl
  | put a0 => exact (eff_execPut a0 s).mono rfl
  | burstIssue a0 a1 => exact (eff_execBurstIssue a0 a1 s).mono rfl
  | burstResponse a0 a1 a2 => exact (eff_execBurstResponse a0 a1 a2 s).mono rfl
  | burstTimeout a0 a1 => exact (eff_execBurstTimeout a0 a1 s).mono rfl
  | fltCntClr a0 => exact (eff_execFltCntClr a0 s).mono rfl
  | portDisable a0 => exact (eff_execPortDisable a0 s).mono rfl
  | portEnable a0 => exact (eff_execPortEnable a0 s).mono rfl
  | release a0 => exact (eff_execRelease a0 s).mono rfl
  | laneLock a0 a1 => exact (eff_execLaneLock a0 a1 s).mono rfl
  | bringUpComplete a0 a1 a2 a3 a4 a5 a6 => exact (eff_execBringUpComplete a0 a1 a2 a3 a4 a5 a6 s).mono rfl
  | bringUpTimeout a0 => exact (eff_execBringUpTimeout a0 s).mono rfl
  | bringUpRetry a0 => exact (eff_execBringUpRetry a0 s).mono rfl
  | laneLoss a0 a1 => exact (eff_execLaneLoss a0 a1 s).mono rfl
  | lightLoss a0 => exact (eff_execLightLoss a0 s).mono rfl
  | noFlitTimeout a0 => exact (eff_execNoFlitTimeout a0 s).mono rfl
  | retrainDone a0 => exact (eff_execRetrainDone a0 s).mono rfl
  | flitReceive a0 a1 => exact (eff_execFlitReceive a0 a1 s).mono rfl
  | localDelivery => exact (eff_execLocalDelivery s).mono rfl
  | tailTimeout a0 a1 => exact (eff_execTailTimeout a0 a1 s).mono rfl
  | cmapWindowEnd => exact (eff_execCmapWindowEnd s).mono rfl
  | nutFcThrWrite a0 a1 a2 => exact (eff_execNutFcThrWrite a0 a1 a2 s).mono rfl
  | nutCntClr a0 => exact (eff_execNutCntClr a0 s).mono rfl
  | write => exact (eff_execWrite s).mono rfl
  | notify => exact (eff_execNotify s).mono rfl
  | readReq a0 => exact (eff_execReadReq a0 s).mono rfl
  | readResp => exact (eff_execReadResp s).mono rfl
  | atomic a0 => exact (eff_execAtomic a0 s).mono rfl
  | ack => exact (eff_execAck s).mono rfl
  | mgmt => exact (eff_execMgmt s).mono rfl
  | rteArm => exact (eff_execRteArm s).mono rfl
  | rteCancel => exact (eff_execRteCancel s).mono rfl
  | swap => exact (eff_execSwap s).mono rfl
  | rteShadowWrite a0 a1 a2 => exact (eff_execRteShadowWrite a0 a1 a2 s).mono rfl
  | rteCntClr => exact (eff_execRteCntClr s).mono rfl
  | allreduce a0 a1 => exact (eff_execAllreduce a0 a1 s).mono rfl
  | voteCfg a0 => exact (eff_execVoteCfg a0 s).mono rfl
  | arcade a0 => exact (eff_execArcade a0 s).mono rfl
  | phaseTimeout a0 a1 => exact (eff_execPhaseTimeout a0 a1 s).mono rfl
  | earlyReadyExpiry a0 => exact (eff_execEarlyReadyExpiry a0 s).mono rfl
  | vote a0 => exact (eff_execVote a0 s).mono rfl
  | arcCntClr a0 => exact (eff_execArcCntClr a0 s).mono rfl
  | retain a0 => exact (eff_execRetain a0 s).mono rfl
  | done a0 => exact (eff_execDone a0 s).mono rfl
  | await a0 => exact (eff_execAwait a0 s).mono rfl
  | awaitComplete a0 => exact (eff_execAwaitComplete a0 s).mono rfl
  | send a0 => exact (eff_execSend a0 s).mono rfl
  | released a0 => exact (eff_execReleased a0 s).mono rfl
  | replayLive a0 => exact (eff_execReplayLive a0 s).mono rfl
  | replaySolo a0 => exact (eff_execReplaySolo a0 s).mono rfl
  | replaySoloCommitted a0 => exact (eff_execReplaySoloCommitted a0 s).mono rfl
  | revote a0 => exact (eff_execRevote a0 s).mono rfl
  | resolveCommit a0 => exact (eff_execResolveCommit a0 s).mono rfl
  | resolveAbort a0 => exact (eff_execResolveAbort a0 s).mono rfl
  | vstCommandBeat a0 => exact (eff_execVstCommandBeat a0 s).mono rfl
  | cutCommand a0 => exact (eff_execCutCommand a0 s).mono rfl
  | cutTaken a0 => exact (eff_execCutTaken a0 s).mono rfl
  | drainHost a0 => exact (eff_execDrainHost a0 s).mono rfl
  | drainFabric a0 => exact (eff_execDrainFabric a0 s).mono rfl
  | drainDone a0 => exact (eff_execDrainDone a0 s).mono rfl
  | drainError a0 => exact (eff_execDrainError a0 s).mono rfl
  | drainLate a0 => exact (eff_execDrainLate a0 s).mono rfl
  | clear a0 => exact (eff_execClear a0 s).mono rfl
  | ckpt => exact (eff_execCkpt s).mono rfl
  | vstCfgWrite a0 a1 => exact (eff_execVstCfgWrite a0 a1 s).mono rfl
  | vstRegionWrite a0 a1 a2 => exact (eff_execVstRegionWrite a0 a1 a2 s).mono rfl
  | mirRegionWrite a0 a1 => exact (eff_execMirRegionWrite a0 a1 s).mono rfl
  | mirBegin => exact (eff_execMirBegin s).mono rfl
  | mirList => exact (eff_execMirList s).mono rfl
  | mirData a0 => exact (eff_execMirData a0 s).mono rfl
  | mirEnd => exact (eff_execMirEnd s).mono rfl
  | mirInput => exact (eff_execMirInput s).mono rfl
  | inAborted a0 => exact (eff_execInAborted a0 s).mono rfl
  | mirrorTimeout a0 => exact (eff_execMirrorTimeout a0 s).mono rfl
  | restore a0 => exact (eff_execRestore a0 s).mono rfl
  | discardInboundW a0 => exact (eff_execDiscardInboundW a0 s).mono rfl
  | fetch => exact (eff_execFetch s).mono rfl
  | rdata a0 => exact (eff_execRdata a0 s).mono rfl
  | rresult a0 => exact (eff_execRresult a0 s).mono rfl
  | rdone => exact (eff_execRdone s).mono rfl
  | restoreFailed a0 => exact (eff_execRestoreFailed a0 s).mono rfl
  | ctxHang a0 a1 => exact (eff_execCtxHang a0 a1 s).mono rfl
  | engHang a0 a1 => exact (eff_execEngHang a0 a1 s).mono rfl
  | partHang a0 => exact (eff_execPartHang a0 s).mono rfl
  | wingHang a0 => exact (eff_execWingHang a0 s).mono rfl
  | aonWatchdogFire => exact (eff_execAonWatchdogFire s).mono rfl
  | contextReset a0 a1 => exact (eff_execContextReset a0 a1 s).mono rfl
  | engineReset a0 a1 => exact (eff_execEngineReset a0 a1 s).mono rfl
  | partitionReset a0 => exact (eff_execPartitionReset a0 s).mono rfl
  | wingReset a0 => exact (eff_execWingReset a0 s).mono rfl
  | chipReset => exact (eff_execChipReset s).mono rfl
  | powerCycleRequest => exact (eff_execPowerCycleRequest s).mono rfl
  | pwrcycReqNAssert => exact (eff_execPwrcycReqNAssert s).mono rfl
  | resetDone a0 => exact (eff_execResetDone a0 s).mono rfl
  | resetOverrun a0 => exact (eff_execResetOverrun a0 s).mono rfl
  | slotOpen => exact (eff_execSlotOpen s).mono rfl
  | suspectClear => exact (eff_execSuspectClear s).mono rfl
  | slotMaxExpiry => exact (eff_execSlotMaxExpiry s).mono rfl
  | noticeExtend => exact (eff_execNoticeExtend s).mono rfl
  | noticeAbort => exact (eff_execNoticeAbort s).mono rfl
  | noticeInfo => exact (eff_execNoticeInfo s).mono rfl
  | notice => exact (eff_execNotice s).mono rfl
  | chkSync a0 => exact (eff_execChkSync a0 s).mono rfl
  | chkCntClr a0 => exact (eff_execChkCntClr a0 s).mono rfl
  | packLoad a0 a1 => exact (eff_execPackLoad a0 a1 s).mono rfl
  | packLoaded => exact (eff_execPackLoaded s).mono rfl
  | ptStart a0 => exact (eff_execPtStart a0 s).mono rfl
  | ptStop a0 => exact (eff_execPtStop a0 s).mono rfl
  | soakEnd a0 a1 a2 => exact (eff_execSoakEnd a0 a1 a2 s).mono rfl
  | patternTestEnd a0 a1 => exact (eff_execPatternTestEnd a0 a1 s).mono rfl
  | subWindowEnd => exact (eff_execSubWindowEnd s).mono rfl
  | eventRingFlush => exact (eff_execEventRingFlush s).mono rfl
  | summaryRewrite => exact (eff_execSummaryRewrite s).mono rfl
  | holdupOkFall => exact (eff_execHoldupOkFall s).mono rfl
  | inputLoss a0 => exact (eff_execInputLoss a0 s).mono rfl
  | hltRetire a0 => exact (eff_execHltRetire a0 s).mono rfl
  | crcRetry a0 a1 => exact (eff_execCrcRetry a0 a1 s).mono rfl
  | moduleDown a0 a1 => exact (eff_execModuleDown a0 a1 s).mono rfl
  | opChanged => exact (eff_execOpChanged s).mono rfl
  | throttle a0 => exact (eff_execThrottle a0 s).mono rfl
  | throttleEnd a0 => exact (eff_execThrottleEnd a0 s).mono rfl
  | thermWarn a0 => exact (eff_execThermWarn a0 s).mono rfl
  | thermTrip a0 => exact (eff_execThermTrip a0 s).mono rfl
  | calDue => exact (eff_execCalDue s).mono rfl
  | recalDone a0 a1 => exact (eff_execRecalDone a0 a1 s).mono rfl
  | holdupLow a0 => exact (eff_execHoldupLow a0 s).mono rfl
  | holdupDisagree a0 a1 => exact (eff_execHoldupDisagree a0 a1 s).mono rfl
  | secLock => exact (eff_execSecLock s).mono rfl
  | enrol a0 => exact (eff_execEnrol a0 s).mono rfl
  | revoke a0 => exact (eff_execRevoke a0 s).mono rfl
  | skeyLoad a0 => exact (eff_execSkeyLoad a0 s).mono rfl
  | ckeyLoad a0 => exact (eff_execCkeyLoad a0 s).mono rfl
  | ckeyClear a0 => exact (eff_execCkeyClear a0 s).mono rfl
  | spdmRequest a0 a1 a2 a3 => exact (eff_execSpdmRequest a0 a1 a2 a3 s).mono rfl
  | getMeasurements a0 a1 => exact (eff_execGetMeasurements a0 a1 s).mono rfl
  | ideKm a0 a1 a2 => exact (eff_execIdeKm a0 a1 a2 s).mono rfl
  | ideFail a0 => exact (eff_execIdeFail a0 s).mono rfl
  | firmwareVerified a0 a1 a2 => exact (eff_execFirmwareVerified a0 a1 a2 s).mono rfl
  | aonComplete => exact (eff_execAonComplete s).mono rfl
  | wingRailsUp => exact (eff_execWingRailsUp s).mono rfl
  | wingsOutOfReset => exact (eff_execWingsOutOfReset s).mono rfl
  | memTrainComplete a0 => exact (eff_execMemTrainComplete a0 s).mono rfl
  | bistComplete a0 => exact (eff_execBistComplete a0 s).mono rfl
  | stageFail => exact (eff_execStageFail s).mono rfl
  | slotIdChange a0 => exact (eff_execSlotIdChange a0 s).mono rfl
  | perstNFall => exact (eff_execPerstNFall s).mono rfl
  | perstNRise => exact (eff_execPerstNRise s).mono rfl
  | vfFlr a0 => exact (eff_execVfFlr a0 s).mono rfl
  | pfFlr => exact (eff_execPfFlr s).mono rfl
  | linkUp a0 a1 a2 => exact (eff_execLinkUp a0 a1 a2 s).mono rfl
  | linkDown => exact (eff_execLinkDown s).mono rfl
  | evrHeadWrite a0 a1 => exact (eff_execEvrHeadWrite a0 a1 s).mono rfl
  | msixCoalesceEnd a0 => exact (eff_execMsixCoalesceEnd a0 s).mono rfl
  | traySpiRead a0 a1 => exact (eff_execTraySpiRead a0 a1 s).mono rfl
  | traySpiWrite a0 a1 a2 => exact (eff_execTraySpiWrite a0 a1 a2 s).mono rfl
  | dynamicAddressAssignment a0 => exact (eff_execDynamicAddressAssignment a0 s).mono rfl
  | vendorRead a0 => exact (eff_execVendorRead a0 s).mono rfl
  | vendorWrite a0 a1 a2 => exact (eff_execVendorWrite a0 a1 a2 s).mono rfl
  | telemetry => exact (eff_execTelemetry s).mono rfl
  | snapshotPeriod => exact (eff_execSnapshotPeriod s).mono rfl
  | lostRecordEntry => exact (eff_execLostRecordEntry s).mono rfl
  | kportUp => exact (eff_execKportUp s).mono rfl
  | kportDown => exact (eff_execKportDown s).mono rfl
  | dump => exact (eff_execDump s).mono rfl
  | dumpDone => exact (eff_execDumpDone s).mono rfl
  | drained a0 => exact (eff_execDrained a0 s).mono rfl
  | resume a0 a1 => exact (eff_execResume a0 a1 s).mono rfl
  | bpStep a0 a1 => exact (eff_execBpStep a0 a1 s).mono rfl
  | dbgAonClr => exact (eff_execDbgAonClr s).mono rfl
  | extest => exact (eff_execExtest s).mono rfl
  | idcode => exact (eff_execIdcode s).mono rfl
  | samplePreload => exact (eff_execSamplePreload s).mono rfl
  | dbgacc a0 => exact (eff_execDbgacc a0 s).mono rfl
  | bypass a0 => exact (eff_execBypass a0 s).mono rfl
  | cmapSample => exact (eff_execCmapSample s).mono rfl
  | pciCntClr => exact (eff_execPciCntClr s).mono rfl
  | configurationRequest => exact (eff_execConfigurationRequest s).mono rfl
  | firmwareCopiesFail => exact (eff_execFirmwareCopiesFail s).mono rfl
  | pwrcycOverdue => exact (eff_execPwrcycOverdue s).mono rfl
  | thermalCycle => exact (eff_execThermalCycle s).mono rfl
  | pcSample => exact (eff_execPcSample s).mono rfl

/-- POWER_GOOD leaves what is fused. -/
theorem powerGood_fused (slot : BitVec 4) (m : Module) : (powerGood slot m).fused = m.fused := by
  unfold powerGood
  extract_lets m1 m2
  have h1 : m2.fused = m1.fused := by
    dsimp only [m2]
    split
    · rfl
    · exact (eff_ev ..).same .fused (by decide)
  have h2 : m2.fused = m.fused := h1
  split
  · exact h2
  · exact ((eff_ev ..).same .fused (by decide)).trans h2

theorem fused_not_mem_touches (i : Instr) : Part.fused ∉ touches i := by
  cases i <;> exact of_decide_eq_true rfl

theorem frame_powerGood (slot : BitVec 4) (s : State) : SameBut (touches (.powerGood slot)) s.m (powerGood slot s.m) := fun p hp => by
  obtain rfl : p = .fused := by cases p <;> simp [touches] at hp ⊢
  exact powerGood_fused slot s.m

theorem frame_exec (i : Instr) : Frame i (touches i) := fun s t h => by
  by_cases hi : ∃ slot, i = .powerGood slot
  · obtain ⟨slot, rfl⟩ := hi
    cases h
    exact frame_powerGood slot s
  · exact ((effOut_exec i s fun slot e => hi ⟨slot, e⟩).out t h).2.same

end Sys2Proof.Scope

section
open Sys2Proof Sys2Proof.Machine

/-- Settles O52: the frame by what each command's effect may change, and where it completes by the guard of each command. -/
theorem everyCommandKeepsTheRest : Obligations.EveryCommandKeepsTheRest := by
  refine ⟨Scope.frame_exec, fun c s hc => ⟨fun hd => ?_, (Scope.answers_exec c s hc).refuses⟩⟩
  obtain ⟨m, h⟩ := (Scope.answers_exec c s hc).completes hd
  exact ⟨m, h, Scope.frame_exec c s _ h⟩

/-- Settles O57: every command but POWER_GOOD keeps a lock that is set, and a cold start keeps what is fused. -/
theorem fusesAndTheLockStay : Obligations.FusesAndTheLockStay := by
  intro s t h
  unfold step at h
  split at h
  next hp =>
    cases h
    exact ⟨(Laws.eff_tick s.m).keeps.fused, fun hl _ => (Laws.eff_tick s.m).keeps.lock hl⟩
  next c rest hp =>
    refine ⟨Scope.frame_exec c _ t h .fused (Scope.fused_not_mem_touches c), fun hl hg => ?_⟩
    refine ((Laws.keeps_exec c _ fun slot e => hg slot ?_).out t h).2.lock hl
    rw [hp, e, List.head?_cons]

/-- Settles O55, by evaluating the state after reset. -/
theorem resetIsCanonicalAndIdle : Obligations.ResetIsCanonicalAndIdle := by
  refine ⟨rfl, ⟨?_, ?_⟩, rfl, rfl, rfl, rfl, rfl, fun _ => rfl, fun _ _ _ _ => rfl, fun _ => rfl⟩
  · rfl
  · rfl

end

/-! ### Start-up (O48) -/

namespace Sys2Proof.Scope
open Sys2Proof.Machine Sys2Proof.Laws

variable {s : State} {m : Module} {c : Instr} {P : Module → Prop}

theorem completes_of_done (h : exec c s = .next { s with m := m }) (hP : P m) : Completes c s P := ⟨m, h, hP⟩

/-- A command that completes leaves every part that `touches` does not name. -/
theorem sameBut_of_exec (h : exec c s = .next { s with m := m }) : SameBut (touches c) s.m m := frame_exec c s _ h

/-! #### Events of no partition -/

/-- An event of no partition taints no step. -/
theorem note_vst {e : Event} (h : 16 ≤ e.part.toNat) (m : Module) : (note e m).vst = m.vst := by
  have hp : ¬ e.part.toNat < 16 := not_lt.2 h
  unfold note
  extract_lets p bad d m1 m2 hl m3 m4 m5
  have h2 : m2.vst = m.vst := by simp [m2, m1, p, hp]
  have h5 : m5.vst = m4.vst := (eff_ringPut 0 e m4).same .vst (by decide)
  have h4 : m4.vst = m3.vst := (eff_trayAlert _ m3).same .vst (by decide)
  rw [if_neg hp, h5, h4]
  exact h2

theorem traceEv_vst (kind w0 part ctx qcls : Nat) (w3 : W64) (m : Module) : (traceEv kind w0 part ctx qcls w3 m).vst = m.vst := by
  unfold traceEv
  extract_lets d partOk clsOk
  split
  · unfold traceBuffer
    extract_lets d need lr m1
    split
    · rfl
    · split
      · rfl
      · exact note_vst (by simp [mkEvent]) _
  · rfl

theorem ev_vst (cls code unit sev ctx : Nat) (d : W64) (m : Module) : (ev cls code unit sev 31 ctx d m).vst = m.vst := by
  unfold ev evRec
  exact (traceEv_vst ..).trans (note_vst (by simp [mkEvent]) m)

/-- What an event of no partition may change. -/
theorem sameBut_ev (cls code unit sev ctx : Nat) (d : W64) (m : Module) :
    SameBut [.hlt, .pci, .tray, .dbg, .out] m (ev cls code unit sev 31 ctx d m) := fun p hp => by
  by_cases h : p = .vst
  · subst h
    exact ev_vst ..
  · exact (eff_ev ..).same p (by simp_all)

/-! #### Power good (R20, R611, R683, R689) -/

/-- After a cold start, POWER_GOOD only records events of no partition. -/
theorem powerGood_coldStart (slot : BitVec 4) (m : Module) :
    EvKeeps (coldStart slot m) (powerGood slot m) ∧ SameBut [.hlt, .pci, .tray, .dbg, .out] (coldStart slot m) (powerGood slot m) := by
  unfold powerGood
  extract_lets m1 m2
  have h : EvKeeps m1 m2 ∧ SameBut [.hlt, .pci, .tray, .dbg, .out] m1 m2 := by
    dsimp only [m2]
    split
    · exact ⟨.refl _, sameBut_refl _ _⟩
    · exact ⟨evKeeps_ev .., sameBut_ev _ _ _ _ _ _ _⟩
  split
  · exact h
  · exact ⟨h.1.trans (evKeeps_ev ..), sameBut_trans h.2 (sameBut_ev _ _ _ _ _ _ _)⟩

/-- The parts that a cold start keeps or fills from the flash, and those that the records of power good change. -/
theorem sameBut_powerGood (slot : BitVec 4) (m : Module) :
    SameBut [.fused, .mem, .hlt, .pci, .sec, .tray, .dbg, .out] Module.init (powerGood slot m) :=
  have hc : SameBut [.fused, .mem, .hlt, .pci, .sec, .out] Module.init (coldStart slot m) := sameBut_of_blend rfl
  sameBut_trans (sameBut_mono hc rfl) (sameBut_mono (powerGood_coldStart slot m).2 rfl)

/-! #### Calibration at start-up (R643) -/

theorem nfind_nput_self {α : Type} (l : List (Nat × α)) (k : Nat) (v : α) : nfind (nput l k v) k = some v := by
  induction l with
  | nil => simp [nput, nfind]
  | cons x r ih =>
    obtain ⟨k', v'⟩ := x
    simp only [nput]
    split_ifs with h1 h2
    · simp [nfind]
    · simp [nfind]
    · simp [nfind, Ne.symm h2, ih]

theorem nfind_nput_of_ne {α : Type} {l : List (Nat × α)} {k j : Nat} {v : α} (h : j ≠ k) : nfind (nput l k v) j = nfind l j := by
  induction l with
  | nil => simp [nput, nfind, Ne.symm h]
  | cons x r ih =>
    obtain ⟨k', v'⟩ := x
    simp only [nput]
    split_ifs with h1 h2
    · simp [nfind, Ne.symm h]
    · simp [nfind, ← h2, Ne.symm h]
    · simp [nfind, ih]

/-- Calibrates one operating point. -/
def calibratePoint (m : Module) (o : Nat) : Module :=
  let x := freeVal m
  { x.2 with pwr := { x.2.pwr with cal := nput x.2.pwr.cal o (x.1.setWidth 16, 0, true) } }

/-- Every point that is calibrated has a voltage, at load band 0 in LIGHT (log entry 110). -/
theorem calibrate_points (m : Module) (n : Nat) :
    ∀ o < n, ∃ v : BitVec 16, nfind ((List.range n).foldl calibratePoint m).pwr.cal o = some (v, 0, true) := by
  induction n with
  | zero => simp
  | succ n ih =>
    intro o ho
    rw [List.range_succ, List.foldl_append]
    by_cases h : o = n
    · subst h
      exact ⟨_, nfind_nput_self ..⟩
    · obtain ⟨v, hv⟩ := ih o (by omega)
      exact ⟨v, (nfind_nput_of_ne h).trans hv⟩

/-! #### Units that fail (R692) -/

/-- Of the host link, the list of failed units, the degraded mark and the event rings change. -/
theorem listFailed_pci (l : List (Nat × Nat)) (m : Module) : ∃ v b,
    (listFailed l m).pci = { m.pci with evr := v, degraded := m.pci.degraded || !l.isEmpty, bistFail := b }
    ∧ (m.pci.bistFail.length + l.length ≤ 32 → b = m.pci.bistFail ++ l) := by
  induction l generalizing m with
  | nil => exact ⟨m.pci.evr, m.pci.bistFail, by simp [listFailed], by simp⟩
  | cons x l ih =>
    let c := m.pci
    let m1 := setPci { c with degraded := true, bistFail := if c.bistFail.length < 32 then c.bistFail ++ [x] else c.bistFail } m
    have hk := (evKeeps_ev 0x1C 6 0xFFFF 4 31 0 (pack [(x.1, 16), (x.2, 0)]) m1).pci
    obtain ⟨v, b, hb, hf⟩ := ih (pciEv 6 4 (pack [(x.1, 16), (x.2, 0)]) m1)
    refine ⟨v, b, ?_, fun hl => ?_⟩
    · refine hb.trans ?_
      rw [pciEv, hk]
      simp [m1, setPci, c]
    · rw [List.length_cons] at hl
      rw [pciEv, hk] at hf
      have h32 : m.pci.bistFail.length < 32 := by omega
      simp only [m1, setPci, c, if_pos h32, List.length_append, List.length_singleton] at hf
      rw [hf (by omega), List.append_assoc, List.singleton_append]

theorem trainAll_scrub (l : List (Nat × Nat)) (m : Module) :
    (trainAll l m).sec.scrub = m.sec.scrub.filter (fun x => !l.contains x) := by
  unfold trainAll
  extract_lets m1 m2
  have h1 : m1.sec = m.sec := List.foldlRecOn (motive := fun x : Module => x.sec = m.sec) _ _ rfl fun x hx k _ => hx
  have h2 : m2.sec = m1.sec := List.foldlRecOn (motive := fun x : Module => x.sec = m1.sec) _ _ rfl fun x hx k _ => hx
  exact congrArg (fun x : Sec => x.scrub.filter fun y => !l.contains y) (h2.trans h1)

/-! #### The stages (R689 to R695) -/

/-- The module has entered a start-up stage now. -/
def Enters (s : State) (k : Nat) (m : Module) : Prop := m.pci.stage = k ∧ m.pci.stageAt = s.m.clk.elapsed

/-- A module that fails stays in stage 15, with the stage that failed. -/
theorem stageFailed_pci (m : Module) :
    ∃ v, (stageFailed m).pci = { m.pci with evr := v, failStage := m.pci.stage, stage := 15, stageAt := m.clk.elapsed } :=
  ⟨_, (evKeeps_ev ..).pci⟩

/-- An enabled port begins its bring-up now (R690). -/
def beginBringUp (m : Module) (k : Nat) : Module :=
  if (m.port' k).enable then m.setPort k { m.port' k with since := m.clk.elapsed } else m

theorem foldl_beginBringUp_pci (l : List Nat) (m : Module) : (l.foldl beginBringUp m).pci = m.pci := by
  refine List.foldlRecOn (motive := fun x : Module => x.pci = m.pci) l _ rfl fun x hx k _ => ?_
  unfold beginBringUp
  split
  · exact hx
  · exact hx

theorem firmwareVerified_enters (h : s.m.pci.stage = 1) (copyB : Bool) (digest : List Byte) (ver : BitVec 32) (hd : digest.length = 48) :
    Completes (.firmwareVerified copyB digest ver) s fun m =>
      Enters s 2 m ∧ m.pci.copyB = copyB ∧ m.pci.fwDigest = digest ∧ m.pci.fwVersion = ver ∧ SameBut [.pci, .port] s.m m := by
  let a := setPci { s.m.pci with stage := 2, stageAt := s.m.clk.elapsed, copyB := copyB, fwDigest := digest, fwVersion := ver } s.m
  have he : exec (.firmwareVerified copyB digest ver) s = .next { s with m := (List.range 16).foldl beginBringUp a } := by
    dsimp only [exec, execFirmwareVerified]
    rw [if_neg (not_not.2 hd), if_pos h]
    rfl
  have hp := foldl_beginBringUp_pci (List.range 16) a
  exact completes_of_done he ⟨⟨congrArg Pci.stage hp, congrArg Pci.stageAt hp⟩, congrArg Pci.copyB hp, congrArg Pci.fwDigest hp,
    congrArg Pci.fwVersion hp, sameBut_mono (sameBut_of_exec he) rfl⟩

theorem firmwareCopiesFail_fails (h : s.m.pci.stage = 1) :
    Completes .firmwareCopiesFail s fun m => Enters s 15 m ∧ m.pci.failStage = 1 ∧ SameBut evParts s.m m := by
  have he : exec .firmwareCopiesFail s = .next { s with m := stageFailed s.m } := if_pos h
  obtain ⟨v, hv⟩ := stageFailed_pci s.m
  exact completes_of_done he ⟨by simp [Enters, hv], by simp [hv, h], sameBut_of_exec he⟩

theorem wingRailsUp_releases (h : s.m.pci.stage = 3) :
    Completes .wingRailsUp s fun m => m.pci.stage = 3 ∧ nget false m.pci.wingOut 0 = true ∧ nget false m.pci.wingOut 1 = true
      ∧ m.tray.holdupOk = true ∧ m.clk = (passTo (storeReadyAt s.m) s.m).clk := by
  refine completes_of_done (if_pos h) ⟨?_, ?_, ?_, rfl, rfl⟩
  · exact (congrArg Pci.stage ((eff_passTo ..).same .pci (by decide))).trans h
  · exact (nget_nset_of_ne (by decide)).trans (nget_nset_of_ne_default (by decide))
  · exact nget_nset_of_ne_default (by decide)

theorem wingsOutOfReset_enters (h : s.m.pci.stage = 3) (h0 : nget false s.m.pci.wingOut 0 = true) (h1 : nget false s.m.pci.wingOut 1 = true) :
    Completes .wingsOutOfReset s fun m => Enters s 4 m ∧ ∀ o, o < 8 → ∃ v : BitVec 16, nfind m.pwr.cal o = some (v, 0, true) := by
  refine completes_of_done (if_pos (by simp [h, h0, h1])) ⟨?_, calibrate_points _ 8⟩
  have hp : (calibrate (enterStage 4 s.m)).pci = (enterStage 4 s.m).pci := (eff_calibrate _).same .pci (by decide)
  exact ⟨congrArg Pci.stage hp, congrArg Pci.stageAt hp⟩

theorem memTrainComplete_enters (h : s.m.pci.stage = 5) (failed : List (Fin 2 × Nat)) (hf : ∀ f ∈ failed, f.2 < clsCount (7 + f.1.val)) :
    Completes (.memTrainComplete failed) s fun m => let l := failed.map (fun f => (7 + f.1.val, f.2))
      Enters s 6 m ∧ m.mem.badUnits = l ∧ (∀ u ∈ m.sec.scrub, u ∈ s.m.sec.scrub ∧ u ∉ l)
      ∧ (m.pci.degraded = true ↔ s.m.pci.degraded = true ∨ failed ≠ []) := by
  let l := failed.map (fun f => (7 + f.1.val, f.2))
  let a := marginRec 0 0 (trainAll l (enterStage 6 s.m))
  have he : exec (.memTrainComplete failed) s = .next { s with m := listFailed l a } := by
    dsimp only [exec, execMemTrainComplete]
    rw [if_neg (by simpa using hf), if_pos h]
    rfl
  have hp : a.pci = (enterStage 6 s.m).pci :=
    ((eff_marginRec ..).same .pci (by decide)).trans ((eff_trainAll ..).same .pci (by decide))
  have hs : (listFailed l a).sec = (trainAll l (enterStage 6 s.m)).sec :=
    ((eff_listFailed ..).same .sec (by decide)).trans ((eff_marginRec ..).same .sec (by decide))
  have hm : (listFailed l a).mem = a.mem := (eff_listFailed ..).same .mem (by decide)
  obtain ⟨v, b, hl, -⟩ := listFailed_pci l a
  rw [hp] at hl
  have hd : (listFailed l a).pci.degraded = (s.m.pci.degraded || !l.isEmpty) := congrArg Pci.degraded hl
  refine completes_of_done he ⟨⟨congrArg Pci.stage hl, congrArg Pci.stageAt hl⟩, ?_, fun u hu => ?_, ?_⟩
  · rw [hm]
    rfl
  · rw [hs, trainAll_scrub] at hu
    have hu : u ∈ s.m.sec.scrub.filter (fun x => !l.contains x) := hu
    simpa only [List.mem_filter, Bool.not_eq_true', List.contains_eq_mem, decide_eq_false_iff_not] using hu
  · rw [hd]
    simp [l]

theorem bistComplete_enters (h : s.m.pci.stage = 6) (failed : List (Nat × Nat)) (hf : ∀ f ∈ failed, f.2 < clsCount f.1) :
    Completes (.bistComplete failed) s fun m => Enters s 7 m ∧ m.sec = { s.m.sec with scrubAt := s.m.clk.elapsed }
      ∧ (m.pci.degraded = true ↔ s.m.pci.degraded = true ∨ failed ≠ [])
      ∧ (s.m.pci.bistFail.length + failed.length ≤ 32 → m.pci.bistFail = s.m.pci.bistFail ++ failed) := by
  let a : Module := { enterStage 7 s.m with sec := { s.m.sec with scrubAt := s.m.clk.elapsed } }
  have he : exec (.bistComplete failed) s = .next { s with m := listFailed failed a } := by
    dsimp only [exec, execBistComplete]
    rw [if_neg (by simpa using hf), if_pos h]
    rfl
  obtain ⟨v, b, hl, hb⟩ := listFailed_pci failed a
  have hd : (listFailed failed a).pci.degraded = (s.m.pci.degraded || !failed.isEmpty) := congrArg Pci.degraded hl
  refine completes_of_done he ⟨⟨congrArg Pci.stage hl, congrArg Pci.stageAt hl⟩, (eff_listFailed ..).same .sec (by decide), ?_, fun hn => ?_⟩
  · rw [hd]
    simp
  · rw [hl]
    exact hb hn

theorem stageFail_fails {t : Nat} (h : stageLimit s.m.pci.stage = some t) : Completes .stageFail s fun m =>
    m.pci.stage = 15 ∧ m.pci.failStage = s.m.pci.stage ∧ m.clk = (passTo (s.m.pci.stageAt + t) s.m).clk := by
  have he : exec .stageFail s = .next { s with m := stageFailed (passTo (s.m.pci.stageAt + t) s.m) } := by
    dsimp only [exec, execStageFail]
    rw [h]
    rfl
  have hp : (passTo (s.m.pci.stageAt + t) s.m).pci = s.m.pci := (eff_passTo ..).same .pci (by decide)
  obtain ⟨v, hv⟩ := stageFailed_pci (passTo (s.m.pci.stageAt + t) s.m)
  exact completes_of_done he ⟨by simp [hv], by simp [hv, hp], (eff_stageFailed _).same .clk (by decide)⟩

/-- Power good puts everything at its reset value but what is fused and what the flash holds. -/
theorem powerGood_resets (slot : BitVec 4) : Completes (.powerGood slot) s fun m =>
    m.fused = s.m.fused ∧ m.pci.stage = 1 ∧ m.pci.slotId = slot ∧ m.pci.slotValid = decide (slot.toNat ≤ 8)
    ∧ m.sec = { Sec.init with keySlots := s.m.sec.keySlots, revoked := s.m.sec.revoked }
    ∧ m.hlt.ring = s.m.hlt.ring ∧ m.hlt.retired = s.m.hlt.retired ∧ m.hlt.packs = s.m.hlt.packs
    ∧ m.hlt.powerOns = s.m.hlt.powerOns + 1
    ∧ (∀ p, p ∈ [Part.clk, .img, .beat, .queues, .counts, .gates, .outstanding, .harts, .cores, .gal, .bal, .ris, .win, .lnd, .nwl,
        .flt, .port, .rte, .arc, .vote, .vst, .mir, .wdg, .chk, .cor, .pwr, .jtag] → p.Same Module.init m)
    ∧ m.mem.caches = [] ∧ m.mem.hall.cells = [] ∧ m.mem.fast.cells = [] ∧ m.mem.slow.cells = [] := by
  obtain ⟨⟨hp, -, hh⟩, hs⟩ := powerGood_coldStart slot s.m
  have hmem : (powerGood slot s.m).mem = (coldStart slot s.m).mem := hs .mem (by decide)
  refine completes_of_done rfl ⟨hs .fused (by decide), ?_, ?_, ?_, hs .sec (by decide), ?_, ?_, ?_, ?_, fun p hl => ?_, ?_, ?_, ?_, ?_⟩
  any_goals rw [hp]; rfl
  any_goals rw [hh]; rfl
  any_goals rw [hmem]; rfl
  exact sameBut_powerGood slot s.m p (by cases p <;> simp at hl ⊢)

end Sys2Proof.Scope

section
open Sys2Proof Sys2Proof.Machine Sys2Proof.Scope

/-- Settles O48, by what each stage's command does where it is due. -/
theorem startUpGoesThroughItsStages : Obligations.StartUpGoesThroughItsStages := fun _ =>
  ⟨fun slot => powerGood_resets slot,
    fun h => ⟨fun copyB digest ver => firmwareVerified_enters h copyB digest ver, firmwareCopiesFail_fails h⟩,
    fun h => if_pos h,
    fun h => ⟨wingRailsUp_releases h, wingsOutOfReset_enters h⟩,
    fun h => memTrainComplete_enters h,
    fun h => bistComplete_enters h,
    fun _ h => stageFail_fails h,
    fun _ => ⟨fun h => if_pos h, fun h => if_neg h⟩⟩

end

/-! ### Register accesses (O3) -/

namespace Sys2Proof.Scope
open Sys2Proof.Machine Sys2Proof.Laws

variable {s : State} {m : Module}

/-! #### Accesses that no register takes (R12, R45) -/

/-- No window of the physical function holds 0x800000 (R43). -/
theorem regPlace_reserved : regPlace 0x800000 = none := by decide

theorem not_accepted_or_reserved {fn : Fn} {off bytes : Nat}
    (h : (bytes ≠ 4 ∧ bytes ≠ 8) ∨ off % bytes ≠ 0 ∨ (fn = .pf ∧ off = 0x800000)) :
    accepted off bytes = false ∨ (fn = .pf ∧ off = 0x800000) := by
  rcases h with ⟨h4, h8⟩ | h | h
  · exact .inl (by simp [accepted, h4, h8])
  · exact .inl (by simp [accepted, h])
  · exact .inr h

/-- A write that R12 does not accept, or one of a reserved range, acts on no byte and is counted. -/
theorem fnWrite_unmapped {fn : Fn} {off bytes : Nat} (val : W64)
    (h : accepted off bytes = false ∨ (fn = .pf ∧ off = 0x800000)) (m : Module) : fnWrite fn off bytes val m = unmapped true m := by
  by_cases ha : accepted off bytes = false
  · simp [fnWrite, ha]
  · obtain ⟨rfl, rfl⟩ := h.resolve_left ha
    simp [fnWrite, ha, regWrite, regPlace_reserved]

theorem fnRead_unmapped {fn : Fn} {off bytes : Nat}
    (h : accepted off bytes = false ∨ (fn = .pf ∧ off = 0x800000)) (m : Module) : fnRead fn off bytes m = (0, unmapped false m) := by
  by_cases ha : accepted off bytes = false
  · simp [fnRead, ha]
  · obtain ⟨rfl, rfl⟩ := h.resolve_left ha
    simp [fnRead, ha, regRead, regPlace_reserved, readHalf, fld, nfld, w64]

/-! #### Registers of the chip-wide blocks -/

/-- A write of a register of the physical function that no wing's reset closes and that is no shadow copy. -/
theorem does_write {off bytes : Nat} {val cur : W64} {m' : Module} (x : RegPlace) (hs : off < barSize .pf) (ha : accepted off bytes = true)
    (hp : regPlace (off / 8 * 8) = some x) (hw : windowOpen s.m x = true) (hf : fusedOff s.m x = false) (hh : shadowAt x = false)
    (hv : regValue s.m x = some cur) (hr : regSet (off / 8 * 8) x bytes (off % 8 = 4) val cur s.m = m') :
    Does (.registerWrite .pf off bytes val) s m' := by
  have h : fnWrite .pf off bytes val s.m = m' := by
    simp only [fnWrite, ha, regWrite, hp, hw, hf, hh, hv, hr, Bool.not_true, if_false, Bool.false_eq_true]
  exact (if_pos hs).trans (congrArg (done s) h)

/-- A read of a whole register of the physical function, of a block in which nothing is sensed. -/
theorem completes_read {off : Nat} {v : W64} (x : RegPlace) (hs : off < barSize .pf) (ha : accepted off 8 = true)
    (hp : regPlace (off / 8 * 8) = some x) (hw : windowOpen s.m x = true) (hf : fusedOff s.m x = false)
    (hq : sense x s.m = gateSweep s.m) (hl : openLog (gateSweep s.m) x = false) (hv : regValue (gateSweep s.m) x = some v) :
    Completes (.registerRead .pf off 8) s fun m => m.out = .readData .pf off v :: s.m.out ∧ SameBut [.gal, .bal, .out] s.m m := by
  have h : fnRead .pf off 8 s.m = (v, gateSweep s.m) := by
    simp [fnRead, ha, regRead, hp, hw, hf, hq, hl, hv, readHalf]
  have he : exec (.registerRead .pf off 8) s = .next { s with m := emit (.readData .pf off v) (gateSweep s.m) } := by
    dsimp only [exec, execRegisterRead]
    rw [if_pos hs, h]
    rfl
  have hg := (eff_gateSweep s.m).same
  exact completes_of_done he ⟨congrArg _ (hg .out (by decide)),
    sameBut_trans (sameBut_mono hg rfl) (sameBut_mono (eff_emit ..).same rfl)⟩

/-! #### The halves of WDG_ESC (R12) -/

/-- WDG_ESC as it reads: the window of escalation in the upper half, the count in the lower (R585). -/
def escWord (w : Wdg) : W64 := pack [(w.escWin.toNat, 32), (w.escCount.toNat, 0)]

theorem regValue_wdgEsc (m : Module) : regValue m ⟨.wdg, 0, 0x38⟩ = some (escWord m.wdg) := rfl

theorem fld_upper (x : W64) : BitVec.ofNat 32 (fld x 32 32) = (x >>> 32).setWidth 32 := by
  simp [fld, nfld, ← BitVec.toNat_inj]

theorem append_upper (a b : BitVec 32) : (((a ++ b : BitVec (32 + 32)) : W64) >>> 32).setWidth 32 = a := by
  refine BitVec.eq_of_getLsbD_eq fun i hi => ?_
  rw [BitVec.getLsbD_setWidth, BitVec.getLsbD_ushiftRight, BitVec.getLsbD_append]
  simp [hi]

theorem append_lower (a b : BitVec 32) : ((a ++ b : BitVec (32 + 32)) : W64).setWidth 8 = b.setWidth 8 := by
  refine BitVec.eq_of_getLsbD_eq fun i hi => ?_
  rw [BitVec.getLsbD_setWidth, BitVec.getLsbD_setWidth, BitVec.getLsbD_append, if_pos (by omega)]

theorem pack_two (a b la lb : Nat) : pack [(a, la), (b, lb)] = BitVec.ofNat 64 (a <<< la) ||| BitVec.ofNat 64 (b <<< lb) := by
  simp [pack]

theorem escWord_eq (w : Wdg) : escWord w = (w.escWin ++ w.escCount.setWidth 32 : BitVec (32 + 32)) := by
  refine BitVec.eq_of_toNat_eq ?_
  have hw : w.escWin.toNat <<< 32 % 2 ^ 64 = w.escWin.toNat <<< 32 := Nat.mod_eq_of_lt (by have := w.escWin.isLt; omega)
  have hc : w.escCount.toNat % 2 ^ 64 = w.escCount.toNat % 2 ^ 32 := by have := w.escCount.isLt; omega
  rw [BitVec.toNat_append, escWord, pack_two, BitVec.toNat_or, BitVec.toNat_ofNat, BitVec.toNat_ofNat, BitVec.toNat_setWidth,
    Nat.shiftLeft_zero, hw, hc]

theorem escWord_upper (w : Wdg) : (escWord w >>> 32).setWidth 32 = w.escWin := by
  rw [escWord_eq, append_upper]

theorem escWord_lower (w : Wdg) : (escWord w).setWidth 8 = w.escCount := by
  rw [escWord_eq, append_lower]
  exact BitVec.setWidth_setWidth_of_le _ (by decide) |>.trans (BitVec.setWidth_eq _)

theorem halfVal_upper_upper (val cur : W64) : BitVec.ofNat 32 (fld (halfVal true val cur) 32 32) = val.setWidth 32 :=
  (fld_upper _).trans (append_upper ..)

theorem halfVal_upper_lower (val cur : W64) : (halfVal true val cur).setWidth 8 = cur.setWidth 8 :=
  (append_lower ..).trans (BitVec.setWidth_setWidth_of_le _ (by decide))

theorem halfVal_lower_upper (val cur : W64) : BitVec.ofNat 32 (fld (halfVal false val cur) 32 32) = (cur >>> 32).setWidth 32 :=
  (fld_upper _).trans (append_upper ..)

theorem halfVal_lower_lower (val cur : W64) : (halfVal false val cur).setWidth 8 = val.setWidth 8 :=
  (append_lower ..).trans (BitVec.setWidth_setWidth_of_le _ (by decide))

theorem write_wdgEsc_upper (val : W64) :
    Does (.registerWrite .pf 0x6003C 4 val) s { s.m with wdg := { s.m.wdg with escWin := val.setWidth 32 } } := by
  refine does_write ⟨.wdg, 0, 0x38⟩ (by decide) rfl rfl rfl rfl rfl (regValue_wdgEsc s.m) ?_
  show wdgAct 0x38 (halfVal true val (escWord s.m.wdg)) s.m = _
  simp only [wdgAct, halfVal_upper_upper, halfVal_upper_lower, escWord_lower]

theorem write_wdgEsc_lower (val : W64) :
    Does (.registerWrite .pf 0x60038 4 val) s { s.m with wdg := { s.m.wdg with escCount := val.setWidth 8 } } := by
  refine does_write ⟨.wdg, 0, 0x38⟩ (by decide) rfl rfl rfl rfl rfl (regValue_wdgEsc s.m) ?_
  show wdgAct 0x38 (halfVal false val (escWord s.m.wdg)) s.m = _
  simp only [wdgAct, halfVal_lower_upper, halfVal_lower_lower, escWord_upper]

theorem write_imgStatus {val : W64} {m' : Module} (h : imgAct 0x20 val s.m = m') : Does (.registerWrite .pf 0x10020 8 val) s m' :=
  does_write ⟨.img, 0, 0x20⟩ (by decide) rfl rfl rfl rfl rfl rfl h

theorem write_hltThrC {val : W64} {m' : Module} (h : hltAct 0x10 val s.m = m') : Does (.registerWrite .pf 0x40010 8 val) s m' :=
  does_write ⟨.hlt, 0, 0x10⟩ (by decide) rfl rfl rfl rfl rfl rfl h

/-- A write that the lock refuses changes nothing of the register, and is counted (R657). -/
theorem lkIgnored_counts (off : Nat) (m : Module) : (lkIgnored off m).hlt.thrC = m.hlt.thrC
    ∧ (lkIgnored off m).sec.lkIgn = satAdd m.sec.lkIgn 1 := by
  unfold lkIgnored
  extract_lets w x
  split
  · exact ⟨rfl, rfl⟩
  · exact ⟨by rw [secEv, (evKeeps_ev ..).hlt]; rfl, congrArg Sec.lkIgn ((eff_ev ..).same .sec (by decide))⟩

end Sys2Proof.Scope

section
open Sys2Proof Sys2Proof.Machine Sys2Proof.Scope

/-- Settles O3, by where each access goes in the register map and what the register there does. -/
theorem registerAccessesFollowTheirTypes : Obligations.RegisterAccessesFollowTheirTypes := by
  refine ⟨fun s fn off bytes val hs h => ?_, fun s val => ⟨?_, ?_, write_wdgEsc_upper val, write_wdgEsc_lower val, ?_, ?_, ?_, ?_, ?_, ?_, ?_⟩⟩
  · have h := not_accepted_or_reserved h
    constructor
    · exact (if_pos hs).trans (congrArg (done s) (fnWrite_unmapped val h s.m))
    · refine (if_pos hs).trans ?_
      rw [fnRead_unmapped h]
      rfl
  · exact does_write ⟨.wdg, 0, 0x10⟩ (by decide) rfl rfl rfl rfl rfl rfl rfl
  · exact completes_read ⟨.wdg, 0, 0x10⟩ (by decide) rfl rfl rfl rfl rfl rfl
      (congrArg (fun w : Wdg => some (w.ctxTmo.setWidth 64)) ((Laws.eff_gateSweep s.m).same .wdg (by decide)))
  · intro hb hc
    exact write_imgStatus (if_pos (by simp [hb, hc]))
  · intro hc
    exact write_imgStatus (if_neg (by simp [hc]))
  · intro hb
    exact write_imgStatus (if_neg (by simp [hb]))
  · exact completes_read ⟨.img, 0, 0x18⟩ (by decide) rfl rfl rfl rfl rfl rfl rfl
  · exact does_write ⟨.top, 0, 0⟩ (by decide) rfl rfl rfl rfl rfl rfl rfl
  · intro hl
    exact write_hltThrC (if_neg (by simp [hl]))
  · intro hl
    exact completes_of_done (write_hltThrC (if_pos hl))
      ⟨(lkIgnored_counts ..).1, (lkIgnored_counts ..).2, (Laws.eff_lkIgnored ..).same⟩

end

/-! ### The structure in force (O58) -/

namespace Sys2Proof.Scope
open Sys2Proof.Machine Sys2Proof.Laws

/-! #### The IMG block's own commands (R77 to R103) -/

@[simp] theorem imgEv_img (code sev : Nat) (d : W64) (m : Module) : (imgEv code sev d m).img = m.img :=
  (eff_imgEv ..).same .img (by decide)

theorem imgEv_active (code sev : Nat) (d : W64) (m : Module) : (imgEv code sev d m).img.active = m.img.active :=
  congrArg Img.active (imgEv_img ..)

/-- The IMG block as a fetch begins: empty shadow copies, an empty error log, IMG_ST_IGNORED cleared (R77, R99). -/
def fetchingImg (x : Img) : Img := { x with
  st := .staging, dirty := false, errCount := 0, errLog := [], stIgnored := 0, shadow := [], fetchLen := min x.loadLen.toNat 1048576 }

/-- The IMG block after a failed fetch, with the single log entry of R103. -/
def failedImg (x : Img) : Img := { x with
  st := .failed, lastCode := 1, errCount := 1, errLog := [0x0100F800FFFF0000], shadow := [] }

/-- The image that LOAD discards has its CANCELLED recorded. -/
def discardStaged (m : Module) : Module :=
  if m.img.st = .staging ∨ m.img.st = .staged ∨ m.img.st = .checking ∨ m.img.st = .checked ∨ m.img.st = .armed then
    imgEv 7 1 (imgId m) m
  else m

@[simp] theorem discardStaged_img (m : Module) : (discardStaged m).img = m.img := by
  unfold discardStaged
  split
  · exact imgEv_img ..
  · rfl

theorem imgLoad_of_aligned {m : Module} (h : m.img.loadAddr.toNat % 16 = 0) :
    imgLoad m = { discardStaged m with img := fetchingImg m.img } := by
  have hi := discardStaged_img m
  refine (if_neg ?_).trans ?_
  · show ¬ ((discardStaged m).img.loadAddr.toNat % 16 != 0) = true
    simp [h]
  · exact congrArg (fun x => { discardStaged m with img := fetchingImg x }) hi

theorem imgLoad_of_unaligned {m : Module} (h : m.img.loadAddr.toNat % 16 ≠ 0) :
    imgLoad m = { discardStaged m with img := failedImg (fetchingImg m.img) } := by
  have hi := discardStaged_img m
  refine (if_pos ?_).trans ?_
  · show ((discardStaged m).img.loadAddr.toNat % 16 != 0) = true
    simp [h]
  · exact congrArg (fun x => { discardStaged m with img := failedImg (fetchingImg x) }) hi

theorem imgLoad_active (m : Module) : (imgLoad m).img.active = m.img.active := by
  by_cases h : m.img.loadAddr.toNat % 16 = 0
  · rw [imgLoad_of_aligned h]
    rfl
  · rw [imgLoad_of_unaligned h]
    rfl

theorem imgCheckCmd_active (m : Module) : (imgCheckCmd m).img.active = m.img.active := by
  unfold imgCheckCmd
  split <;> rfl

theorem imgArm_active (m : Module) : (imgArm m).img.active = m.img.active := by
  unfold imgArm
  dsimp only
  split_ifs
  · simp [armFor]
  · simp [applyRefused]
  · simp [armFor]
  · rfl

theorem imgCancel_active (m : Module) : (imgCancel m).img.active = m.img.active := by
  unfold imgCancel
  split
  · exact imgEv_active ..
  · rfl

theorem imgShadowWrite_active (off bytes : Nat) (val : W64) (m : Module) : (imgShadowWrite off bytes val m).img.active = m.img.active := by
  unfold imgShadowWrite
  split <;> rfl

/-- No code of IMG_CMD changes the structure in force: ARM names the beat, and APPLY comes at it (R78). -/
theorem imgCmd_active (v : W64) (m : Module) : (imgCmd v m).img.active = m.img.active := by
  unfold imgCmd
  split_ifs
  · exact imgLoad_active m
  · exact imgCheckCmd_active m
  · exact imgArm_active m
  · exact imgCancel_active m
  · rfl

/-! #### The writes of registers (R12 to R19) -/

theorem lkIgnored_active (off : Nat) (m : Module) : (lkIgnored off m).img.active = m.img.active :=
  congrArg Img.active ((eff_lkIgnored ..).same .img (by decide))

theorem imgAct_active (o : Nat) (v : W64) (m : Module) : (imgAct o v m).img.active = m.img.active := by
  unfold imgAct
  dsimp only
  split
  · unfold lkWrite
    split
    · exact lkIgnored_active ..
    · rfl
  · rfl
  · rfl
  · exact imgCmd_active v m
  · split <;> rfl
  · rfl
  · rfl

/-- A register whose one bit clears an engine's counters leaves the IMG block. -/
theorem img_clearBit {p : Prop} [Decidable p] {f : Module → Module} (v : W64) (m : Module) (hf : (f m).img = m.img) :
    (if p then onOne v f m else m).img = m.img := by
  unfold onOne
  split_ifs
  · exact hf
  · rfl
  · rfl

/-- A register of another block leaves the IMG block. -/
theorem regAct_img {x : RegPlace} (hx : x.blk ≠ .img) (v : W64) (m : Module) : (regAct x v m).img = m.img := by
  obtain ⟨blk, u, o⟩ := x
  cases blk with
  | img => exact absurd rfl hx
  | top | cor => rfl
  | beat => exact (eff_beatAct ..).same .img (by decide)
  | pwr => exact (eff_pwrAct ..).same .img (by decide)
  | hlt => exact (eff_hltAct ..).same .img (by decide)
  | sec => exact (eff_secAct ..).same .img (by decide)
  | wdg => exact (eff_wdgAct ..).same .img (by decide)
  | vst => exact (eff_vstAct ..).same .img (by decide)
  | mir => exact (eff_mirAct ..).same .img (by decide)
  | dbg => exact (eff_dbgAct ..).same .img (by decide)
  | pci => exact (eff_pciAct ..).same .img (by decide)
  | nut => exact (eff_nutAct ..).same .img (by decide)
  | rte => exact (eff_rteAct ..).same .img (by decide)
  | arc => exact (eff_arcAct ..).same .img (by decide)
  | ris => exact (eff_risAct ..).same .img (by decide)
  | flt => exact (eff_fltAct ..).same .img (by decide)
  | hall => exact (eff_hallAct ..).same .img (by decide)
  | hbm | lpx => exact (eff_memAct ..).same .img (by decide)
  | cc => exact (eff_ccAct ..).same .img (by decide)
  | chk => exact (eff_chkAct ..).same .img (by decide)
  | gal => exact img_clearBit v m ((eff_galCntClr ..).same .img (by decide))
  | lnd => exact img_clearBit v m ((eff_lndCntClr ..).same .img (by decide))
  | win => exact img_clearBit v m ((eff_winCntClr ..).same .img (by decide))
  | nwl => exact img_clearBit v m ((eff_nwlCntClr ..).same .img (by decide))
  | adp => exact img_clearBit v m rfl

theorem regAct_active (x : RegPlace) (v : W64) (m : Module) : (regAct x v m).img.active = m.img.active := by
  by_cases hx : x.blk = .img
  · have h : regAct x v m = imgAct x.off v m := by
      simp only [regAct, hx]
    rw [h, imgAct_active]
  · rw [regAct_img hx]

theorem woWrite_active (base : Nat) (x : RegPlace) (bytes : Nat) (upper : Bool) (val : W64) (m : Module) :
    (woWrite base x bytes upper val m).img.active = m.img.active := by
  unfold woWrite
  dsimp only
  split
  · rfl
  · exact regAct_active ..

theorem regSet_active (base : Nat) (x : RegPlace) (bytes : Nat) (upper : Bool) (val cur : W64) (m : Module) :
    (regSet base x bytes upper val cur m).img.active = m.img.active := by
  unfold regSet
  split
  · exact woWrite_active ..
  · exact regAct_active ..
  · split
    · rfl
    · exact regAct_active ..
  · exact regAct_active ..

theorem unmapped_img (w : Bool) (m : Module) : (unmapped w m).img = m.img := (eff_unmapped ..).same .img (by decide)

theorem regWrite_active (off bytes : Nat) (val : W64) (m : Module) : (regWrite off bytes val m).img.active = m.img.active := by
  have hu : (unmapped true m).img.active = m.img.active := congrArg Img.active (unmapped_img ..)
  unfold regWrite
  dsimp only
  split
  · exact hu
  · split_ifs
    · exact hu
    · rfl
    · exact imgShadowWrite_active ..
    · exact congrArg Img.active ((eff_rteShadowWrite ..).same .img (by decide))
    · split
      · exact hu
      · exact regSet_active ..

theorem vfWrite_active (p off bytes : Nat) (val : W64) (m : Module) : (vfWrite p off bytes val m).img.active = m.img.active := by
  unfold vfWrite
  split
  · split
    · rfl
    · exact regWrite_active ..
  · rfl
  · rfl

/-- No access through a register window changes the structure in force (R78). -/
theorem fnWrite_active (fn : Fn) (off bytes : Nat) (val : W64) (m : Module) : (fnWrite fn off bytes val m).img.active = m.img.active := by
  unfold fnWrite
  split
  · exact congrArg Img.active (unmapped_img ..)
  · split
    · exact regWrite_active ..
    · exact vfWrite_active ..

/-! #### The other paths to the registers -/

theorem mgmtReply_img (k : Pkt) (op : Nat) (refused : Bool) (payload : List Byte) (m : Module) :
    (mgmtReply k op refused payload m).img = m.img := (eff_mgmtReply ..).same .img (by decide)

theorem fnRead_img (fn : Fn) (off bytes : Nat) (m : Module) : (fnRead fn off bytes m).2.img = m.img :=
  (eff_fnRead ..).same .img (by decide)

/-- No packet changes the structure in force (R446). -/
theorem doMgmt_active (k : Pkt) (m : Module) : (doMgmt k m).img.active = m.img.active := by
  unfold doMgmt mgmtServe
  dsimp only
  split_ifs
  · rfl
  · rw [mgmtReply_img, fnRead_img]
  · rw [mgmtReply_img]
  · rw [mgmtReply_img, fnWrite_active]
  · rw [mgmtReply_img]
  · rfl

theorem dbgAccess_active (dr : BitVec 96) (m : Module) : (dbgAccess dr m).img.active = m.img.active := by
  unfold dbgAccess
  dsimp only
  split_ifs
  · exact congrArg Img.active (fnRead_img ..)
  · exact fnWrite_active ..
  · rfl

/-- A fold whose steps each leave the IMG block leaves it. -/
theorem foldl_img {α : Type} {g : Module → α → Module} {l : List α} {m : Module} (hg : ∀ x e, (g x e).img = x.img) :
    (l.foldl g m).img = m.img :=
  List.foldlRecOn (motive := fun x : Module => x.img = m.img) l g rfl fun x hx e _ => (hg x e).trans hx

/-- The host link's fall ends a fetch, and leaves the structure in force (R88). -/
theorem perstFall_active (m : Module) : (perstFall m).img.active = m.img.active := by
  unfold perstFall
  extract_lets tr m1 pc m2 m3 m4
  have h3 : m3.img = m.img := (eff_linkFalls m2).same .img (by decide)
  have h4 : m4.img = m3.img := foldl_img fun x f => (eff_hostBurstsFail ..).same .img (by decide)
  have h : m4.img.active = m.img.active := congrArg Img.active (h4.trans h3)
  clear_value m4
  split
  · exact h
  · exact h

/-! #### Every command -/

/-- Where an outcome is a next state, the structure in force is that of the state before. -/
structure KeepsStruct (s : State) (o : Out) : Prop where
  active : ∀ t, o = .next t → t.m.img.active = s.m.img.active

variable {s : State}

theorem KeepsStruct.done {m : Module} (h : m.img.active = s.m.img.active) : KeepsStruct s (done s m) := ⟨by rintro t ⟨⟩; exact h⟩
theorem KeepsStruct.stop {r : String} : KeepsStruct s (stop r) := ⟨by rintro t ⟨⟩⟩
theorem KeepsStruct.ill : KeepsStruct s ill := ⟨by rintro t ⟨⟩⟩

theorem keepsStruct_fetchComplete (r : FetchResult) : KeepsStruct s (execFetchComplete r s) := by
  unfold execFetchComplete
  split
  · split
    · exact .done rfl
    · split
      · exact .stop
      · exact .done (imgEv_active ..)
  · exact .stop

theorem keepsStruct_imgShadowWrite (off bytes : Nat) (val : W64) : KeepsStruct s (execImgShadowWrite off bytes val s) := by
  unfold execImgShadowWrite
  split_ifs
  · exact .done (imgShadowWrite_active ..)
  · exact .done (congrArg Img.active (unmapped_img ..))
  · exact .ill

theorem keepsStruct_checkingEnd : KeepsStruct s (execCheckingEnd s) := by
  unfold execCheckingEnd
  split
  · dsimp only
    split
    · exact .done (imgEv_active ..)
    · exact .done (imgEv_active ..)
  · exact .stop

theorem keepsStruct_perstNFall : KeepsStruct s (execPerstNFall s) := by
  unfold execPerstNFall
  split
  · exact .done (perstFall_active _)
  · exact .stop

theorem keepsStruct_registerWrite (fn : Fn) (off bytes : Nat) (val : W64) : KeepsStruct s (execRegisterWrite fn off bytes val s) := by
  unfold execRegisterWrite
  split
  · exact .done (fnWrite_active ..)
  · exact .ill

theorem keepsStruct_mgmt : KeepsStruct s (execMgmt s) := by
  unfold execMgmt
  split
  · exact .stop
  next k m h =>
    have hm : m.img = s.m.img := (eff_takeTy _ _ _ _ h).same .img (by decide)
    exact .done ((doMgmt_active k m).trans (congrArg Img.active hm))

theorem keepsStruct_vendorWrite (off : Nat) (val : W64) (tray : Bool) : KeepsStruct s (execVendorWrite off val tray s) := by
  unfold execVendorWrite
  split_ifs
  · exact .done (congrArg Img.active ((eff_trayLimit (fld val 0 11) s.m).same .img (by decide)))
  · exact .done (fnWrite_active ..)
  · exact .done rfl
  · exact .ill

theorem keepsStruct_dbgacc (dr : BitVec 96) : KeepsStruct s (execDbgacc dr s) := by
  unfold execDbgacc
  split
  · exact .done rfl
  · exact .done (dbgAccess_active ..)

/-- A command that does not reach the IMG block leaves the structure in force. -/
theorem keepsStruct_of_not_touches {c : Instr} (h : .img ∉ touches c) : KeepsStruct s (exec c s) :=
  ⟨fun t e => congrArg Img.active (frame_exec c s t e .img h)⟩

/-- Every command but APPLY and POWER_GOOD leaves the structure in force: those that reach the IMG block by what they do there, all
others by what they touch. -/
theorem keepsStruct_exec (c : Instr) (ha : c ≠ .apply) (hp : ∀ slot, c ≠ .powerGood slot) : KeepsStruct s (exec c s) := by
  cases c
  case apply => exact absurd rfl ha
  case powerGood slot => exact absurd rfl (hp slot)
  case load => exact .done (imgLoad_active _)
  case fetchComplete => exact keepsStruct_fetchComplete _
  case imgShadowWrite => exact keepsStruct_imgShadowWrite ..
  case check => exact .done (imgCheckCmd_active _)
  case checkingEnd => exact keepsStruct_checkingEnd
  case arm => exact .done (imgArm_active _)
  case cancel => exact .done (imgCancel_active _)
  case perstNFall => exact keepsStruct_perstNFall
  case registerWrite => exact keepsStruct_registerWrite ..
  case mgmt => exact keepsStruct_mgmt
  case vendorWrite => exact keepsStruct_vendorWrite ..
  case dbgacc => exact keepsStruct_dbgacc _
  all_goals exact keepsStruct_of_not_touches (of_decide_eq_true rfl)

end Sys2Proof.Scope

section
open Sys2Proof Sys2Proof.Machine

/-- Settles O58, by what the commands that reach the IMG block do there and the frame of all others. -/
theorem onlyApplyChangesTheStructureInForce : Obligations.OnlyApplyChangesTheStructureInForce := by
  intro s t h ha hp
  unfold step at h
  split at h
  next =>
    cases h
    exact congrArg Img.active ((Laws.eff_tick s.m).same .img (by decide))
  next c rest hq =>
    rw [hq, List.head?_cons] at ha hp
    exact (Scope.keepsStruct_exec (s := { s with pending := rest }) c (fun e => ha (congrArg some e))
      fun slot e => hp slot (congrArg some e)).active t h

end

/-! ### The IMG block's commands (O1) -/

namespace Sys2Proof.Scope
open Sys2Proof.Machine Sys2Proof.Laws

variable {s : State} {m : Module}

/-! #### LOAD and the end of its fetch (R77, R95, R99, R103) -/

/-- No image is held that LOAD would discard. -/
def NoImage (m : Module) : Prop := m.img.st = .idle ∨ m.img.st = .failed ∨ m.img.st = .applied

theorem discardStaged_of_noImage (h : NoImage m) : discardStaged m = m := by
  refine if_neg ?_
  rcases h with h | h | h <;> simp [h]

theorem discardStaged_of_image (h : ¬ NoImage m) : discardStaged m = imgEv 7 1 (imgId m) m := by
  refine if_pos ?_
  unfold NoImage at h
  cases hs : m.img.st <;> simp [hs] at h ⊢

/-- The IMAGE_ID of the image in the shadow copies. -/
def shadowId (x : Img) : W64 := BitVec.ofNat 64 (le x.shadow 0x10 8)

theorem load_begins (ha : s.m.img.loadAddr.toNat % 16 = 0) (h : NoImage s.m) :
    Does .load s { s.m with img := fetchingImg s.m.img } := by
  refine congrArg (done s) ((imgLoad_of_aligned ha).trans ?_)
  rw [discardStaged_of_noImage h]

theorem load_discards (ha : s.m.img.loadAddr.toNat % 16 = 0) (h : ¬ NoImage s.m) :
    Completes .load s fun m => m.img = fetchingImg s.m.img
      ∧ m.out = (ev 0x02 7 0xFFFF 1 31 0 (shadowId s.m.img) s.m).out := by
  refine completes_of_done (congrArg (done s) (imgLoad_of_aligned ha)) ⟨rfl, ?_⟩
  rw [discardStaged_of_image h]
  rfl

theorem load_unaligned (ha : s.m.img.loadAddr.toNat % 16 ≠ 0) :
    Completes .load s fun m => m.img = failedImg (fetchingImg s.m.img) :=
  completes_of_done (congrArg (done s) (imgLoad_of_unaligned ha)) rfl

/-- A fetch that ends with at least the bytes asked for stages the image. -/
theorem fetchComplete_stages (h : s.m.img.st = .staging) {b : List Byte} (hb : s.m.img.fetchLen ≤ b.length) :
    Does (.fetchComplete (.data b)) s
      (ev 0x02 1 0xFFFF 0 31 0 (BitVec.ofNat 64 (le (slice b 0 s.m.img.fetchLen) 0x10 8))
        { s.m with img := { s.m.img with st := .staged, shadow := slice b 0 s.m.img.fetchLen } }) :=
  (if_pos h).trans (if_neg (not_lt.2 hb))

theorem fetchComplete_fails (h : s.m.img.st = .staging) :
    Does (.fetchComplete .error) s { s.m with img := failedImg s.m.img } := if_pos h

/-! #### CHECK and the end of checking (R77, R81, R95) -/

theorem check_begins (h : s.m.img.st = .staged) : Does .check s { s.m with img := { s.m.img with st := .checking } } :=
  congrArg (done s) (if_pos h)

theorem check_refused (h : s.m.img.st ≠ .staged) : Does .check s (imgBad s.m) := congrArg (done s) (if_neg h)

theorem checkingEnd_passes (h : s.m.img.st = .checking) (he : (checkImage s.m).errs = []) :
    Does .checkingEnd s (ev 0x02 2 0xFFFF 0 31 0 (shadowId s.m.img)
      { s.m with img := { s.m.img with st := .checked, errCount := 0, errLog := [], excStaged := (checkImage s.m).waived } }) := by
  refine (if_pos h).trans ?_
  dsimp only
  split
  · rfl
  next e r hr => exact absurd (hr.symm.trans he) (List.cons_ne_nil e r)

theorem checkingEnd_fails (h : s.m.img.st = .checking) {e : ErrEnt} {r : List ErrEnt} (he : (checkImage s.m).errs = e :: r) :
    Does .checkingEnd s (ev 0x02 3 0xFFFF 2 31 0 (BitVec.ofNat 64 (min (r.length + 1) 65535))
      { s.m with img := { s.m.img with
        st := .failed, lastCode := BitVec.ofNat 8 e.code, errCount := min (r.length + 1) 65535
        errLog := ((e :: r).take 256).map ErrEnt.word } }) := by
  refine (if_pos h).trans ?_
  dsimp only
  split
  next hr => exact absurd (hr.symm.trans he) (List.cons_ne_nil e r).symm
  next e' r' hr =>
    obtain ⟨rfl, rfl⟩ := List.cons.inj (hr.symm.trans he)
    rw [hr]
    rfl

/-! #### ARM and CANCEL (R77, R85, R86) -/

/-- A beat to come is armed, and the trace region is held where the image moves it. -/
theorem arm_armed (h : s.m.img.st = .checked) (hb : atOrAfter (beatNow s.m) s.m.img.applyBeat = false) :
    Does .arm s (imgEv 4 0 (s.m.img.applyBeat.setWidth 64) (armFor s.m.img.applyBeat none s.m)) := by
  refine congrArg (done s) ((if_pos h).trans (if_neg ?_))
  simp [hb]

theorem arm_refused (h : s.m.img.st = .checked) (hb : atOrAfter (beatNow s.m) s.m.img.applyBeat = true)
    (hl : s.m.img.latePolicy = false) : Does .arm s (applyRefused 0x20 s.m) := by
  refine congrArg (done s) ((if_pos h).trans ((if_pos hb).trans (if_neg ?_)))
  simp [hl]

theorem arm_late (h : s.m.img.st = .checked) (hb : atOrAfter (beatNow s.m) s.m.img.applyBeat = true) (hl : s.m.img.latePolicy = true) :
    Does .arm s (imgEv 4 0 (s.m.img.applyBeat.setWidth 64)
      (armFor (beatNow s.m + 1) (some (beatNow s.m + 1 - s.m.img.applyBeat)) s.m)) :=
  congrArg (done s) ((if_pos h).trans ((if_pos hb).trans (if_pos hl)))

theorem arm_ignored (h : s.m.img.st ≠ .checked) : Does .arm s (imgBad s.m) := congrArg (done s) (if_neg h)

theorem cancel_discards
    (h : s.m.img.st = .staged ∨ s.m.img.st = .checking ∨ s.m.img.st = .checked ∨ s.m.img.st = .armed) :
    Does .cancel s (ev 0x02 7 0xFFFF 1 31 0 (shadowId s.m.img)
      { s.m with img := { s.m.img with st := .idle, dirty := false, shadow := [] } }) := congrArg (done s) (if_pos h)

theorem cancel_ignored
    (h : ¬ (s.m.img.st = .staged ∨ s.m.img.st = .checking ∨ s.m.img.st = .checked ∨ s.m.img.st = .armed)) :
    Does .cancel s (imgBad s.m) := congrArg (done s) (if_neg h)

/-! #### Writes of the shadow copies (R78, R79, R101) -/

theorem execImgShadowWrite_of_accepted {off bytes : Nat} (val : W64) (ho : off < 32768) (hb : bytes = 4 ∨ bytes = 8) (ha : off % bytes = 0) :
    Does (.imgShadowWrite off bytes val) s (imgShadowWrite off bytes val s.m) := by
  refine (if_pos ho).trans (if_pos ?_)
  rcases hb with rfl | rfl <;> simp [accepted, ha]

theorem imgShadowWrite_inside {off bytes : Nat} (val : W64) (h : m.img.st = .staged) (hl : off + bytes ≤ m.img.shadow.length) :
    imgShadowWrite off bytes val m =
      { m with img := { m.img with dirty := true, shadow := splice m.img.shadow off (natLe bytes val.toNat) } } :=
  if_pos (by simp [h, hl])

/-- A write past what was fetched is ignored as a whole, and counted. -/
theorem imgShadowWrite_outside {off bytes : Nat} (val : W64) (hl : m.img.shadow.length < off + bytes) :
    imgShadowWrite off bytes val m = { m with img := { m.img with stIgnored := m.img.stIgnored + 1 } } :=
  if_neg (by simp [hl])

end Sys2Proof.Scope

section
open Sys2Proof Sys2Proof.Machine Sys2Proof.Scope

/-- Settles O1, by what each command does in each state of the block. -/
theorem imageCommandsMoveTheBlock : Obligations.ImageCommandsMoveTheBlock := by
  constructor
  · intro s
    refine ⟨fun ha => ⟨load_begins ha, load_discards ha⟩, load_unaligned, fun h => ⟨fun b => fetchComplete_stages h, fetchComplete_fails h⟩,
      check_begins, check_refused, fun h => ⟨checkingEnd_passes h, fun e r => checkingEnd_fails h⟩⟩
  · intro s
    refine ⟨fun h => ⟨fun hb => ⟨_, arm_armed h hb⟩, arm_refused h, fun hb hl => ⟨_, arm_late h hb hl⟩⟩, arm_ignored, cancel_discards,
      cancel_ignored, fun off bytes val ho hb ha => ⟨fun h hl => ?_, fun _ hl => ?_⟩⟩
    · rw [← imgShadowWrite_inside val h hl]
      exact execImgShadowWrite_of_accepted val ho hb ha
    · rw [← imgShadowWrite_outside val hl]
      exact execImgShadowWrite_of_accepted val ho hb ha

end

/-! ### The armed beat and the end of the scrub (O2) -/

namespace Sys2Proof.Scope
open Sys2Proof.Machine Sys2Proof.Laws

variable {s : State} {m : Module} {f : ImgFile} {t : Struct}

/-! #### The apply (R84 to R86, R98) -/

/-- The IMG block at an apply rests on the block and the clock before it alone. -/
theorem imgApplied_img_congr {a b : Module} (hi : a.img = b.img) (hc : a.clk = b.clk) :
    (imgApplied f t a).img = (imgApplied f t b).img := by
  simp only [imgApplied, beatNow, hi, hc]

/-- What else takes effect with the new structure leaves the IMG block. -/
theorem applyStruct_img (f : ImgFile) (t : Struct) (m : Module) : (applyStruct f t m).img = (imgApplied f t m).img := by
  unfold applyStruct
  extract_lets was ch ps moved on off drop late m1 m2 m3 m4 sc m5 m6 m7 m8 m9 m10
  have h1 : Eff [.mem, .flt] m m1 := Eff.fold (.refl m) fun x p => eff_invalidateCache p x
  have h2 : Eff [.mem, .flt] m m2 := h1.fold fun x p => eff_dropDown x t p x
  have h3 : m3.img = (imgApplied f t m).img := imgApplied_img_congr (h2.same .img (by decide)) (h2.same .clk (by decide))
  have h4 : m4.img = m3.img := foldl_img fun x e =>
    ((eff_engineChange ..).same .img (by decide)).trans ((eff_memChange ..).same .img (by decide))
  have h6 : m6.img = m4.img := foldl_img fun x p => (eff_disablePart ..).same .img (by decide)
  have h7 : m7.img = m6.img := foldl_img fun x p => (eff_enablePart ..).same .img (by decide)
  have h8 : m8.img = m7.img := ((eff_sinkCheck _).same .img (by decide)).trans
    (((eff_regionStart ..).same .img (by decide)).trans ((eff_applySlices ..).same .img (by decide)))
  have h9 : m9.img = m8.img := (eff_gateSweep _).same .img (by decide)
  have h10 : m10.img = m9.img := ((eff_retiredOwned ..).same .img (by decide)).trans ((eff_applyRecords ..).same .img (by decide))
  have h : m10.img = (imgApplied f t m).img := by rw [h10, h9, h8, h7, h6, h4, h3]
  split
  · exact h
  · exact h

/-- A refused apply changes of the IMG block its state, the code and the error log. -/
theorem refuseApply_img (service : Bool) (t : Struct) (c : Nat) (m : Module) : ∃ n l, (refuseApply service t c m).img =
    { m.img with st := .failed, lastCode := BitVec.ofNat 8 c, errCount := n, errLog := l } := by
  have h : (applyRefused c m).img = { m.img with st := .failed, lastCode := BitVec.ofNat 8 c } := imgEv_img ..
  unfold refuseApply
  dsimp only
  split
  · exact ⟨_, _, by rw [h]⟩
  · exact ⟨_, _, h⟩

section
variable {m1 : Module} (h : s.m.img.st = .armed) (hh : s.m.dbg.hold = none) (h1 : m1 = passToBeat s.m.img.armedBeat s.m)
  (hs : stagedStruct m1 = some (f, t))
include h hh h1 hs

/-- Where no check fails, the armed beat brings the new structure. -/
theorem exec_apply_of_accepted (hr : applyRefusal m1 t = none) : exec .apply s = done s (applyStruct f t m1) := by
  subst h1
  refine (if_pos h).trans ?_
  simp only [hh, hs, hr]

/-- Where a check fails, the armed beat brings the refusal with its code. -/
theorem exec_apply_of_refused {c : Nat} (hr : applyRefusal m1 t = some c) : exec .apply s = done s (refuseApply f.service t c m1) := by
  subst h1
  refine (if_pos h).trans ?_
  simp only [hh, hs, hr]

theorem apply_takesForce (hr : applyRefusal m1 t = none) : Completes .apply s fun m =>
    m.img.st = .applied ∧ m.img.active = some t ∧ m.img.activeId = f.id ∧ m.img.activeBeat = beatNow m1 ∧ m.clk = m1.clk := by
  refine completes_of_done (exec_apply_of_accepted h hh h1 hs hr) ?_
  rw [applyStruct_img]
  exact ⟨rfl, rfl, rfl, rfl, (eff_applyStruct ..).same .clk (by decide)⟩

theorem apply_refused {c : Nat} (hr : applyRefusal m1 t = some c) : Completes .apply s fun m =>
    m.img.st = .failed ∧ m.img.lastCode = BitVec.ofNat 8 c ∧ m.img.active = s.m.img.active
      ∧ SameBut [.clk, .beat, .mem, .cor, .img, .vst, .hlt, .pci, .tray, .dbg, .out] s.m m := by
  have hp : Eff [.clk, .beat, .mem, .cor, .dbg, .out] s.m m1 := h1 ▸ eff_passToBeat ..
  have ha : m1.img.active = s.m.img.active := congrArg Img.active (hp.same .img (by decide))
  obtain ⟨n, l, hi⟩ := refuseApply_img f.service t c m1
  refine completes_of_done (exec_apply_of_refused h hh h1 hs hr) ⟨congrArg Img.st hi, congrArg Img.lastCode hi, ?_, ?_⟩
  · exact (congrArg Img.active hi).trans ha
  · exact ((hp.mono rfl).trans ((eff_refuseApply ..).mono rfl)).same

end

/-! #### The last zeroed unit (R658, R689) -/

/-- The module as the last unit is zeroed, before the record. -/
def scrubEnd (m : Module) : Module :=
  let a := passTo (m.sec.scrubAt + (if m.sec.scrub.length = 0 then 0 else scrubTime m.sec.scrub)) m
  { a with sec := { a.sec with scrub := [] } }

/-- SCRUBBED is recorded with the number of units, where there were any. -/
def scrubRecorded (n : Nat) (m : Module) : Module := if n = 0 then m else secEv 9 0 (BitVec.ofNat 64 n) m

theorem exec_scrubbed (h : ¬ (s.m.pci.stage = 5 ∨ s.m.pci.stage = 6 ∨ (s.m.sec.scrub.length = 0 ∧ s.m.pci.stage ≠ 7))) :
    exec .scrubbed s = done s (let m := scrubRecorded s.m.sec.scrub.length (scrubEnd s.m)
      if m.pci.stage = 7 then ready m else m) := if_neg h

/-- The record leaves the stage, and no unit is left to zero. -/
theorem scrubRecorded_scrubEnd (n : Nat) (m : Module) :
    (scrubRecorded n (scrubEnd m)).pci.stage = m.pci.stage ∧ (scrubRecorded n (scrubEnd m)).sec.scrub = [] := by
  have hp : (scrubEnd m).pci = m.pci := (eff_passTo ..).same .pci (by decide)
  unfold scrubRecorded
  split
  · exact ⟨congrArg Pci.stage hp, rfl⟩
  · refine ⟨?_, congrArg Sec.scrub ((eff_secEv ..).same .sec (by decide))⟩
    rw [secEv, (evKeeps_ev ..).pci, hp]

theorem ready_stage (m : Module) : (ready m).pci.stage = 8 ∧ (ready m).sec = m.sec :=
  ⟨congrArg Pci.stage (evKeeps_ev ..).pci, (eff_ready m).same .sec (by decide)⟩

theorem scrubbed_records (h5 : s.m.pci.stage ≠ 5) (h6 : s.m.pci.stage ≠ 6) (h7 : s.m.pci.stage ≠ 7) (hn : s.m.sec.scrub.length ≠ 0) :
    Does .scrubbed s (ev 0x1B 9 0xFFFF 0 31 0 (BitVec.ofNat 64 s.m.sec.scrub.length) (scrubEnd s.m)) := by
  have hs := (scrubRecorded_scrubEnd s.m.sec.scrub.length s.m).1
  refine (exec_scrubbed (by simp [h5, h6, hn])).trans (congrArg (done s) ((if_neg (hs ▸ h7)).trans (if_neg hn)))

theorem scrubbed_ready (h7 : s.m.pci.stage = 7) : Completes .scrubbed s fun m => m.sec.scrub = [] ∧ m.pci.stage = 8 := by
  obtain ⟨hs, hz⟩ := scrubRecorded_scrubEnd s.m.sec.scrub.length s.m
  obtain ⟨hr, hc⟩ := ready_stage (scrubRecorded s.m.sec.scrub.length (scrubEnd s.m))
  refine completes_of_done ((exec_scrubbed (by simp [h7])).trans (congrArg (done s) (if_pos (hs.trans h7)))) ⟨?_, hr⟩
  rw [hc, hz]

end Sys2Proof.Scope

section
open Sys2Proof Sys2Proof.Machine Sys2Proof.Scope

/-- Settles O2, by the outcome of the checks at the armed beat and by the stage in which the last unit is zeroed. -/
theorem applyAndScrub : Obligations.ApplyAndScrub := by
  constructor
  · intro s h hh m1 h1 f t hs
    exact ⟨apply_takesForce h hh h1 hs, fun c => apply_refused h hh h1 hs⟩
  · intro s
    exact ⟨scrubbed_records, scrubbed_ready⟩

end

/-! ### Beat time (O4, O5, O6) -/

namespace Sys2Proof.Scope
open Sys2Proof.Machine Sys2Proof.Laws

variable {s : State} {m : Module}

/-! #### The canonical maps -/

theorem inv_maps (h : m.Inv) : rising m.gates = true ∧ rising m.harts = true ∧ rising m.cores = true ∧ rising m.port = true := by
  have hc := h.1
  simp only [Module.canonical, Bool.and_eq_true] at hc
  simp [hc]

theorem rising_gates (h : m.Inv) : rising m.gates = true := by
  obtain ⟨hg, -⟩ := inv_maps h
  exact hg

theorem rising_harts (h : m.Inv) : rising m.harts = true := by
  obtain ⟨-, hh, -⟩ := inv_maps h
  exact hh

theorem rising_cores (h : m.Inv) : rising m.cores = true := by
  obtain ⟨-, -, hc, -⟩ := inv_maps h
  exact hc

theorem rising_port (h : m.Inv) : rising m.port = true := by
  obtain ⟨-, -, -, hp⟩ := inv_maps h
  exact hp

/-! #### Time packets (R109 to R111) -/

theorem timePacketReceive_stray {p : Fin 16} (t : Time)
    (h : s.m.beat.master = true ∨ s.m.beat.upEn = false ∨ s.m.beat.upPort.toNat ≠ p.val) :
    Does (.timePacketReceive p t) s { recvLinks p.val 1 s.m with beat := { s.m.beat with stray := s.m.beat.stray + 1 } } :=
  if_pos (by simpa [recvLinks, or_assoc] using h)

/-- The offset of a packet that carries the time `t` through port `p` (R109). -/
def packetOffset (p : Nat) (t : Time) (m : Module) : Int :=
  (t + BitVec.ofNat 58 ((m.port' p).delay.toNat / 100) - m.clk.time).toInt

/-- The module notes a packet's offset and arrival. -/
def noteOffset (o : Int) (m : Module) : Module :=
  { m with beat := { m.beat with offset := ofsWord o, lastPacket := m.clk.elapsed } }

/-- A packet that R110 and R111 let count. -/
theorem exec_timePacketReceive_taken {p : Fin 16} (t : Time) (hm : s.m.beat.master = false) (hu : s.m.beat.upEn = true)
    (hp : s.m.beat.upPort.toNat = p.val) (hr : s.m.beat.remeasure.contains p.val = false) :
    exec (.timePacketReceive p t) s = done s (timeOffset (packetOffset p t (recvLinks p 1 s.m))
      (noteOffset (packetOffset p t (recvLinks p 1 s.m)) (recvLinks p 1 s.m))) :=
  (if_neg (by simp [recvLinks, hm, hu, hp])).trans (if_neg (by simpa [recvLinks] using hr))

@[simp] theorem beatEv_beat (code sev : Nat) (d : W64) (m : Module) : (beatEv code sev d m).beat = m.beat :=
  (eff_beatEv ..).same .beat (by decide)

theorem acquire_offset (o : Int) (m : Module) : (acquire o m).beat.offset = m.beat.offset := by
  unfold acquire correct
  dsimp only
  split_ifs
  · rfl
  · rfl
  · rw [beatEv_beat]
    rfl
  · rfl

/-- No row of R117's table touches the offset noted. -/
theorem timeOffset_offset (o : Int) (m : Module) : (timeOffset o m).beat.offset = m.beat.offset := by
  unfold timeOffset
  dsimp only
  split
  case h_1 | h_2 => exact acquire_offset ..
  case h_3 =>
    split_ifs
    · rw [beatEv_beat]
      rfl
    · rw [beatEv_beat]
      rfl
    · rfl
  case h_4 =>
    split_ifs
    · rw [beatEv_beat]
      rfl
    · rfl
  case h_5 => rfl

/-- A state in no canonical form: port 0 has two entries, and the one that is read becomes the port's reset state as a flit arrives,
which takes it off the list, so that the other, with a delay of 1 ns, comes to light. -/
def doubledPort : State :=
  { pending := [], m := { Module.init with
      beat := { BeatBlk.init with upEn := true }
      port := [(0, { Port.init with cnt := { PortCnt.init with rx := -1 } }), (0, { Port.init with delay := 100 })] } }

theorem doubledPort_offsets : packetOffset 0 0 doubledPort.m = 0 ∧ packetOffset 0 0 (recvLinks 0 1 doubledPort.m) = 1 := by
  decide +kernel

/-! #### Time packets of a state in canonical form (R108, R109, R111, R117) -/

theorem correct_st (o : Int) (m : Module) : (correct o m).beat.st = m.beat.st := by
  unfold correct
  split <;> rfl

theorem acquire_far {o : Int} (h : 20 < o.natAbs) (m : Module) : (acquire o m).beat.st = m.beat.st := by
  rw [show acquire o m = _ from if_pos h]
  exact correct_st ..

theorem acquire_near {o : Int} (h : o.natAbs ≤ 20) (hg : m.beat.good < 3) : (acquire o m).beat.st = m.beat.st := by
  rw [show acquire o m = _ from if_neg (not_lt.2 h)]
  dsimp only
  rw [if_neg (by omega)]
  rfl

theorem acquire_locks {o : Int} (h : o.natAbs ≤ 20) (hg : 3 ≤ m.beat.good) : (acquire o m).beat.st = .locked := by
  rw [show acquire o m = _ from if_neg (not_lt.2 h)]
  exact (congrArg (fun x : Module => x.beat.st) (if_pos (show m.beat.good + 1 ≥ 4 by omega))).trans (congrArg BeatBlk.st (beatEv_beat ..))

/-- The rows of R117's table for a packet that is taken (log entries 35 and 36). -/
theorem timeOffset_rows (o : Int) (m : Module) :
    (m.beat.st = .free → (timeOffset o m).beat.st = .acquire)
    ∧ (m.beat.st = .acquire → 20 < o.natAbs → (timeOffset o m).beat.st = .acquire)
    ∧ (m.beat.st = .acquire → o.natAbs ≤ 20 → 3 ≤ m.beat.good → (timeOffset o m).beat.st = .locked)
    ∧ (m.beat.st = .locked → o.natAbs ≤ 1024 → (timeOffset o m).beat.st = .locked ∧ (timeOffset o m).beat.slew = o)
    ∧ (m.beat.st = .locked → 1024 < o.natAbs → m.img.active = none → (timeOffset o m).beat.st = .acquire)
    ∧ (m.beat.st = .locked → 1024 < o.natAbs → m.img.active ≠ none →
        (timeOffset o m).beat.st = .locked ∧ (timeOffset o m).beat.slew = o)
    ∧ (m.beat.st = .holdover → o.natAbs ≤ 1024 → (timeOffset o m).beat.st = .acquire)
    ∧ (m.beat.st = .holdover → 1024 < o.natAbs → m.img.active ≠ none → (timeOffset o m).beat.st = .holdover) := by
  refine ⟨fun h => ?_, fun h hf => ?_, fun h hn hg => ?_, fun h hn => ?_, fun h hf ha => ?_, fun h hf ha => ?_, fun h hn => ?_,
    fun h hf ha => ?_⟩ <;> simp only [timeOffset, h]
  · by_cases hn : o.natAbs ≤ 20
    · exact acquire_near hn (show 0 < 3 by decide)
    · exact acquire_far (not_le.1 hn) _
  · exact (acquire_far hf m).trans h
  · exact acquire_locks hn hg
  · rw [if_neg (by simpa using hn)]
    exact ⟨h, rfl⟩
  · rw [if_pos (by simpa using hf), if_neg (by simp [imageApplied, ha]), beatEv_beat]
    rfl
  · rw [if_pos (by simpa using hf), if_pos (by simpa [imageApplied, Option.isSome_iff_ne_none] using ha), beatEv_beat]
    exact ⟨h, rfl⟩
  · rw [if_neg (by simp [hn])]
    rfl
  · rw [if_pos (by simpa [imageApplied, Option.isSome_iff_ne_none, hf] using ha), beatEv_beat]
    exact h

/-- In canonical form, the arrival of the packet's flit leaves the delay of its port. -/
theorem packetOffset_recvLinks (hi : m.Inv) (p : Nat) (t : Time) (n : Nat) : packetOffset p t (recvLinks p n m) = packetOffset p t m := by
  have h := setPort_get m p { m.port' p with lastFlit := m.clk.elapsed, cnt := { (m.port' p).cnt with rx := (m.port' p).cnt.rx + BitVec.ofNat 64 n } }
    (rising_port hi)
  simp only [packetOffset, recvLinks, h]
  rfl

/-- A time packet that is taken, in a state in canonical form: what O5 says of it holds there. -/
theorem timePacketReceive_moves {p : Fin 16} (t : Time) (hi : s.m.Inv) (hm : s.m.beat.master = false) (hu : s.m.beat.upEn = true)
    (hp : s.m.beat.upPort.toNat = p.val) (hr : s.m.beat.remeasure.contains p.val = false) :
    Completes (.timePacketReceive p t) s fun m => let o := packetOffset p t s.m
      m.beat.offset = BitVec.ofInt 64 o
      ∧ (s.m.beat.st = .free → m.beat.st = .acquire)
      ∧ (s.m.beat.st = .acquire → 20 < o.natAbs → m.beat.st = .acquire)
      ∧ (s.m.beat.st = .acquire → o.natAbs ≤ 20 → 3 ≤ s.m.beat.good → m.beat.st = .locked)
      ∧ (s.m.beat.st = .locked → o.natAbs ≤ 1024 → m.beat.st = .locked ∧ m.beat.slew = o)
      ∧ (s.m.beat.st = .locked → 1024 < o.natAbs → s.m.img.active = none → m.beat.st = .acquire)
      ∧ (s.m.beat.st = .locked → 1024 < o.natAbs → s.m.img.active ≠ none → m.beat.st = .locked ∧ m.beat.slew = o)
      ∧ (s.m.beat.st = .holdover → o.natAbs ≤ 1024 → m.beat.st = .acquire)
      ∧ (s.m.beat.st = .holdover → 1024 < o.natAbs → s.m.img.active ≠ none → m.beat.st = .holdover)
      ∧ SameBut [.clk, .beat, .port, .vst, .hlt, .pci, .tray, .dbg, .out] s.m m := by
  have he := exec_timePacketReceive_taken t hm hu hp hr
  rw [packetOffset_recvLinks hi] at he
  obtain ⟨h1, h2, h3, h4, h5, h6, h7, h8⟩ := timeOffset_rows (packetOffset p t s.m) (noteOffset (packetOffset p t s.m) (recvLinks p 1 s.m))
  exact completes_of_done he ⟨timeOffset_offset .., h1, h2, h3, h4, h5, h6, h7, h8, sameBut_of_exec he⟩

/-! #### Packets that leave, and silence (R108, R117) -/

/-- One port's turn as time packets leave: a port of BEAT_DIST_MASK whose link is up sends one. -/
def sendTimeTurn (m : Module) (p : Nat) : Module :=
  if bit m.beat.distMask p && ((m.port' p).st = .up || (m.port' p).st = .narrow || (m.port' p).st = .quarantined) then sendTime p m
  else m

theorem sameBut_sendTimeTurn (m : Module) (p : Nat) : SameBut [.port, .out] m (sendTimeTurn m p) := by
  unfold sendTimeTurn
  split
  · exact (eff_sendTime ..).same
  · exact sameBut_refl _ _

theorem sendTimeTurn_port_ne {p q : Nat} (m : Module) (h : p ≠ q) : (sendTimeTurn m q).port' p = m.port' p := by
  unfold sendTimeTurn
  split
  · exact setPort_get_ne _ _ _ _ h
  · rfl

theorem mem_out_sendTimeTurn {x : Output} (m : Module) (p : Nat) (h : x ∈ m.out) : x ∈ (sendTimeTurn m p).out := by
  unfold sendTimeTurn
  split
  · exact List.mem_cons_of_mem _ (List.mem_cons_of_mem _ h)
  · exact h

theorem mem_out_foldl_sendTimeTurn {x : Output} (l : List Nat) (m : Module) (h : x ∈ m.out) : x ∈ (l.foldl sendTimeTurn m).out :=
  List.foldlRecOn (motive := fun y : Module => x ∈ y.out) l _ h fun y hy p _ => mem_out_sendTimeTurn y p hy

/-- Every port of the mask whose link is up has sent the module's time when all have had their turn. -/
theorem mem_out_of_turns {p : Nat} {l : List Nat} (hl : p ∈ l) (m : Module) (hb : bit m.beat.distMask p = true)
    (hu : (m.port' p).st = .up) : .timePacket p m.clk.time ∈ (l.foldl sendTimeTurn m).out := by
  induction l generalizing m with
  | nil => cases hl
  | cons q l ih =>
    have hs := sameBut_sendTimeTurn m q
    by_cases h : p = q
    · subst h
      refine mem_out_foldl_sendTimeTurn l _ ?_
      rw [sendTimeTurn, if_pos (by simp [hb, hu])]
      exact List.mem_cons_self
    · rw [← show (sendTimeTurn m q).clk = m.clk from hs .clk (by decide)]
      refine ih ((List.mem_cons.1 hl).resolve_left h) _ ?_ ?_
      · rwa [show (sendTimeTurn m q).beat = m.beat from hs .beat (by decide)]
      · rwa [sendTimeTurn_port_ne m h]

/-- Time that passes leaves the mask of the ports that time packets leave through. -/
theorem passToBeat_distMask (b : Beat) (m : Module) : (passToBeat b m).beat.distMask = m.beat.distMask :=
  have h : (drainTrace (min (nsToBeat b m) m.dbg.buffer.length) m).beat = m.beat := (eff_drainTrace ..).same .beat (by decide)
  (congrArg BeatBlk.distMask h :)

/-- The module at the beat at which its time packets leave. -/
def atSend (m : Module) : Module :=
  let b := nextMultiple 1024 m.beat.sentBeat m
  { passToBeat b m with beat := { (passToBeat b m).beat with sentBeat := some b } }

theorem timePacketSend_sends (h : s.m.beat.st = .master ∨ s.m.beat.st = .locked) : Completes .timePacketSend s fun m =>
    let b := nextMultiple 1024 s.m.beat.sentBeat s.m
    m.clk = (passToBeat b s.m).clk ∧ m.beat.sentBeat = some b
    ∧ (∀ p : Fin 16, bit s.m.beat.distMask p = true → (s.m.port' p).st = .up → .timePacket p m.clk.time ∈ m.out)
    ∧ SameBut [.clk, .beat, .mem, .port, .cor, .dbg, .out] s.m m := by
  have he : exec .timePacketSend s = .next { s with m := (List.range 16).foldl sendTimeTurn (atSend s.m) } := if_pos h
  have hs : SameBut [.port, .out] (atSend s.m) ((List.range 16).foldl sendTimeTurn (atSend s.m)) :=
    List.foldlRecOn (motive := SameBut [.port, .out] (atSend s.m)) _ _ (sameBut_refl _ _)
      fun x hx p _ => sameBut_trans hx (sameBut_sendTimeTurn x p)
  have hc := hs .clk (by decide)
  refine completes_of_done he ⟨hc, congrArg BeatBlk.sentBeat (hs .beat (by decide)), fun p hb hu => ?_, sameBut_mono (sameBut_of_exec he) rfl⟩
  rw [show (List.foldl sendTimeTurn _ _).clk = _ from hc]
  refine mem_out_of_turns (List.mem_range.2 p.isLt) (atSend s.m) ?_ ?_
  · rwa [show (atSend s.m).beat.distMask = _ from passToBeat_distMask ..]
  · rwa [show (atSend s.m).port' p = s.m.port' p from congrArg (fun l => nget Port.init l p.val) ((eff_passToBeat ..).same .port (by decide))]

theorem holdover_down (h : s.m.beat.st = .locked) (hd : portUp (s.m.port' s.m.beat.upPort.toNat) = false) :
    Does .holdover s (ev 0x03 2 0xFFFF 2 31 0 (s.m.beat.upPort.setWidth 64)
      { s.m with beat := { s.m.beat with st := .holdover, holdSince := s.m.clk.elapsed } }) := by
  refine (if_pos h).trans ?_
  simp only [hd, Bool.false_eq_true, if_false, enterTime, holdNow, h]
  rfl

theorem holdover_silent (h : s.m.beat.st = .locked) (hu : portUp (s.m.port' s.m.beat.upPort.toNat) = true) :
    Completes .holdover s fun m =>
      m.beat.st = .holdover ∧ m.clk = (passTo (s.m.beat.lastPacket + 2048 * 1024) s.m).clk := by
  let a := passTo (s.m.beat.lastPacket + 2048 * 1024) s.m
  have he : exec .holdover s = done s (beatEv 2 2 (a.beat.upPort.setWidth 64) (enterTime .holdover a)) :=
    (if_pos h).trans (by simp only [hu, if_true, a])
  exact completes_of_done he ⟨congrArg BeatBlk.st (beatEv_beat ..), (eff_beatEv ..).same .clk (by decide)⟩

/-! #### BEAT_GM_CTRL and BEAT_SET (R107, R117, R139, R143) -/

/-- The fields of BEAT_GM_CTRL are set. -/
def setRole (val : W64) (m : Module) : Module :=
  { m with beat := { m.beat with master := bit val 0, upEn := bit val 8, upPort := BitVec.ofNat 4 (fld val 4 4) } }

theorem gmCtrl_of_same (val : W64) (h : m.beat.master = bit val 0) : gmCtrl val m = setRole val m :=
  (if_neg (by simp [h])).trans (if_neg (by simp [h]))

theorem gmCtrl_of_rise (val : W64) (h : m.beat.master = false) (hv : bit val 0 = true) :
    gmCtrl val m = beatEv 6 1 1 (slewTime 0 (enterTime .master (setRole val m))) := if_pos (by simp [h, hv])

theorem gmCtrl_of_fall (val : W64) (h : m.beat.master = true) (hv : bit val 0 = false) :
    gmCtrl val m = beatEv 6 1 0 (enterTime .holdover (setRole val m)) :=
  (if_neg (by simp [h, hv])).trans (if_pos (by simp [h, hv]))

/-- The role is what BEAT_GM_CTRL says, whichever of the three cases it is. -/
theorem gmCtrl_role (val : W64) (m : Module) : (gmCtrl val m).beat.master = bit val 0 ∧ (gmCtrl val m).beat.upEn = bit val 8
    ∧ (gmCtrl val m).beat.upPort = BitVec.ofNat 4 (fld val 4 4) := by
  by_cases h : m.beat.master = bit val 0
  · rw [gmCtrl_of_same val h]
    exact ⟨rfl, rfl, rfl⟩
  · cases hv : bit val 0
    · rw [gmCtrl_of_fall val (by simpa [hv] using h) hv, beatEv_beat]
      exact ⟨hv, rfl, rfl⟩
    · rw [gmCtrl_of_rise val (by simpa [hv] using h) hv, beatEv_beat]
      exact ⟨hv, rfl, rfl⟩

theorem gmCtrlWrite_setsRole (val : W64) : Completes (.beatGmCtrlWrite val) s fun m =>
    m.beat.master = bit val 0 ∧ m.beat.upEn = bit val 8 ∧ m.beat.upPort.toNat = fld val 4 4 ∧ m.clk = s.m.clk
    ∧ (s.m.beat.master = false → bit val 0 = true → m.beat.st = .master)
    ∧ (s.m.beat.master = true → bit val 0 = false → m.beat.st = .holdover)
    ∧ (s.m.beat.master = bit val 0 → m.beat.st = s.m.beat.st ∧ m.out = s.m.out) := by
  obtain ⟨hm, hu, hp⟩ := gmCtrl_role val s.m
  refine completes_of_done rfl ⟨hm, hu, ?_, (eff_gmCtrl ..).same .clk (by decide), fun h hv => ?_, fun h hv => ?_, fun h => ?_⟩
  · rw [hp, BitVec.toNat_ofNat]
    exact Nat.mod_mod ..
  · rw [gmCtrl_of_rise val h hv, beatEv_beat]
    rfl
  · rw [gmCtrl_of_fall val h hv, beatEv_beat]
    rfl
  · rw [gmCtrl_of_same val h]
    exact ⟨rfl, rfl⟩

theorem beatSet_acts (val : W64) (h : s.m.beat.st = .free ∨ s.m.beat.st = .master) (hi : s.m.img.active = none) :
    Does (.beatSet val) s { s.m with clk := { s.m.clk with time := val.setWidth 58 } } :=
  congrArg (done s) (if_pos (by simpa [imageApplied, hi] using h))

theorem beatSet_ignored (val : W64) (h : ¬ ((s.m.beat.st = .free ∨ s.m.beat.st = .master) ∧ s.m.img.active = none)) :
    Does (.beatSet val) s s.m :=
  congrArg (done s) (if_neg (by simpa [imageApplied] using h))

/-! #### A measured delay (R111, R425) -/

theorem foldl_vcs_delay (f : Port → Nat → VcSt) (l : List Nat) (p : Port) :
    (l.foldl (fun p v => setVc p v (f p v)) p).delay = p.delay :=
  List.foldlRecOn (motive := fun x : Port => x.delay = p.delay) l _ rfl fun _ hx _ _ => hx

/-- Thresholds that a delay lowers leave the delay itself (R450). -/
theorem clampThr_delay (k : Nat) (h : rising m.port = true) : ((clampThr k m).port' k).delay = (m.port' k).delay := by
  unfold clampThr
  dsimp only
  split
  · rw [Module.port', (eff_ev ..).same .port (by decide)]
    refine (congrArg Port.delay (setPort_get _ k _ h)).trans ?_
    exact foldl_vcs_delay ..
  · rfl

/-- The delay of a port is `d` from now on, and its packets count once more (R111). -/
def recordDelay (k : Nat) (d : W32) (m : Module) : Module := clampThr k (remeasured k (m.setPort k { m.port' k with delay := d }))

theorem recordDelay_records (k : Nat) (d : W32) (h : rising m.port = true) :
    ((recordDelay k d m).port' k).delay = d ∧ (recordDelay k d m).beat.remeasure.contains k = false := by
  constructor
  · refine (clampThr_delay k (rising_nset h)).trans (congrArg Port.delay (setPort_get m k _ h))
  · rw [recordDelay, (eff_clampThr ..).same .beat (by decide)]
    simp [remeasured]

theorem delayRemeasure_measures {p : Fin 16} {trips : List W32} (turn : W32) (hi : s.m.Inv) (hl : trips.length = 64)
    (hu : portUp (s.m.port' p) = true ∨ s.m.beat.remeasure.contains p.val = true) :
    Completes (.delayRemeasure p trips turn) s fun m => (m.port' p).delay = oneWay trips turn
      ∧ m.beat.remeasure.contains p.val = false ∧ SameBut [.beat, .port, .vst, .hlt, .pci, .tray, .dbg, .out] s.m m := by
  have he : exec (.delayRemeasure p trips turn) s =
      .next { s with m := recordDelay p (oneWay trips turn) (sendDelays p (recvLinks p trips.length s.m)) } :=
    (if_neg (not_not.2 hl)).trans (if_pos hu)
  have hr := rising_port (((eff_recvLinks p trips.length s.m).keeps.trans (eff_sendDelays p _).keeps).inv hi)
  obtain ⟨hd, hc⟩ := recordDelay_records p (oneWay trips turn) hr
  exact completes_of_done he ⟨hd, hc, sameBut_of_exec he⟩

end Sys2Proof.Scope

section
open Sys2Proof Sys2Proof.Machine Sys2Proof.Scope

/-- Settles O4, by the first guard of the packet's arrival. -/
theorem strayTimePacketsAreIgnored : Obligations.StrayTimePacketsAreIgnored := fun _ _ t h => timePacketReceive_stray t h

/-- Refutes O5: the statement speaks of every state, and where the ports' map is in no canonical form, the arrival of the packet's flit
may change the delay that the offset takes. In canonical form its first half holds (`timePacketReceive_moves`), and its second half holds
in every state (`timePacketSend_sends`, `holdover_down`, `holdover_silent`). -/
theorem not_timePacketsMoveTheTimeState : ¬ Obligations.TimePacketsMoveTheTimeState := by
  intro h
  obtain ⟨m, he, ho, -⟩ := (h.1 doubledPort 0 0 rfl rfl rfl).2 rfl
  rw [exec_timePacketReceive_taken (p := 0) 0 rfl rfl rfl rfl] at he
  cases he
  rw [timeOffset_offset] at ho
  have ho : ofsWord (packetOffset 0 0 (recvLinks 0 1 doubledPort.m)) = ofsWord (packetOffset 0 0 doubledPort.m) := ho
  rw [doubledPort_offsets.1, doubledPort_offsets.2] at ho
  exact absurd ho (by decide)

/-- Settles O6, by the three cases of a write of BEAT_GM_CTRL, the guard of BEAT_SET, and what a measured delay leaves. -/
theorem timeRegistersTakeWrites : Obligations.TimeRegistersTakeWrites := fun _ val =>
  ⟨gmCtrlWrite_setsRole val, beatSet_acts val, beatSet_ignored val, fun _ _ turn => delayRemeasure_measures turn⟩

end

/-! ### Beat alarms (O7) -/

namespace Sys2Proof.Scope
open Sys2Proof.Machine Sys2Proof.Laws

variable {s : State}

/-! #### Pushes to the module queue (R140, R141) -/

/-- The descriptor's bytes that BEAT_MQ_DESC0 to 3 hold. -/
def mqBytes (m : Module) : List Byte := (m.beat.mqDesc.map (fun w => natLe 8 w.toNat)).flatten

theorem mqPush_refuses
    (h : 64 ≤ (queue s.m modQ).length ∨ (parseDesc (mqBytes s.m)).part ≠ 0 ∨ (parseDesc (mqBytes s.m)).ctx ≠ 0) :
    Does .beatMqPush s { s.m with beat := { s.m.beat with mqRefused := true } } := by
  refine congrArg (done s) (if_pos ?_)
  simp only [mqBytes] at h
  rcases h with h | h | h <;> simp [h]

theorem mqPush_queues (hl : (queue s.m modQ).length < 64) (hv : descVersion (mqBytes s.m) = 1)
    (hp : (parseDesc (mqBytes s.m)).part = 0) (hc : (parseDesc (mqBytes s.m)).ctx = 0)
    (ha : alarmOk true (parseDesc (mqBytes s.m)) = true) : Completes .beatMqPush s fun m =>
      queue m modQ = queue s.m modQ ++ [parseDesc (mqBytes s.m)] ∧ m.beat = { s.m.beat with mqRefused := false }
      ∧ SameBut [.beat, .queues, .dbg] s.m m := by
  simp only [mqBytes] at hv hp hc ha ⊢
  have he : exec .beatMqPush s = done s (enqueue modQ (parseDesc (mqBytes s.m)) { s.m with beat := { s.m.beat with mqRefused := false } }) :=
    congrArg (done s) (if_neg (by simp [hv, hp, hc, ha, hl]))
  exact completes_of_done he ⟨queue_setQueue .., rfl, sameBut_of_exec he⟩

/-! #### Alarms that fire (R119 to R123, R136) -/

/-- The alarm has left its queue, its lateness and its record are noted (R122, R723). -/
def alarmNoted (k : QKey) (d : Desc) (m : Module) : Module :=
  let n := lateness m (alarmBeat d)
  let a := traceEv 3 (2 ^ 48 * alarmAction d + (alarmBeat d).toNat) (alarmPart k) d.ctx 10 (alarmArg d) (alarmLate k d n (dequeue k m))
  { a with beat := { a.beat with lastFire := a.clk.elapsed, lastFireBeat := if n = 0 then some (alarmBeat d) else none } }

theorem alarmFires_eq (k : QKey) (d : Desc) (m : Module) : alarmFires k d m =
    if k.sub < 16 then complete 10 0 d false (alarmEffect k d (alarmNoted k d m)) else alarmEffect k d (alarmNoted k d m) := rfl

/-- Noting the alarm changes neither the counts nor the gates, and of the queues the alarm's own alone. -/
theorem sameBut_alarmNoted (k : QKey) (d : Desc) (m : Module) :
    SameBut [.beat, .vst, .hlt, .pci, .tray, .dbg, .out] (dequeue k m) (alarmNoted k d m) :=
  sameBut_trans (eff_alarmLate ..).same (sameBut_trans (sameBut_mono (eff_traceEv ..).same rfl) (sameBut_of_blend rfl))

@[simp] theorem alarmNoted_queues (k : QKey) (d : Desc) (m : Module) : (alarmNoted k d m).queues = (dequeue k m).queues :=
  sameBut_alarmNoted k d m .queues (by decide)

@[simp] theorem alarmNoted_counts (k : QKey) (d : Desc) (m : Module) : (alarmNoted k d m).counts = m.counts :=
  sameBut_alarmNoted k d m .counts (by decide)

@[simp] theorem alarmNoted_gates (k : QKey) (d : Desc) (m : Module) : (alarmNoted k d m).gates = m.gates :=
  sameBut_alarmNoted k d m .gates (by decide)

theorem alarmFires_queue (k : QKey) (d : Desc) (m : Module) : queue (alarmFires k d m) k = (queue m k).tail := by
  have h : (alarmFires k d m).queues = (dequeue k m).queues := by
    rw [alarmFires_eq, ← alarmNoted_queues k d m, ← (eff_alarmEffect k d (alarmNoted k d m)).same .queues (by decide)]
    split
    · exact (eff_complete ..).same .queues (by decide)
    · rfl
  rw [queue, h]
  exact queue_dequeue m k

theorem alarmFires_count {k : QKey} (d : Desc) (m : Module) (hk : k.sub < 16) :
    count (alarmFires k d m) d.part d.ctx 10 0 = count m d.part d.ctx 10 0 + 1 := by
  rw [alarmFires_eq, if_pos hk, count_complete, count, (eff_alarmEffect ..).same .counts (by decide), alarmNoted_counts,
    count]

theorem setGate_gates (p c g : Nat) (m : Module) :
    (setGate p c g m).gates = nset 0 m.gates (p * 8 + c) (nget 0 m.gates (p * 8 + c) ||| BitVec.ofNat 16 (2 ^ g)) := by
  have h : ∀ x : Module, (progress p c x).gates = x.gates := fun x => (eff_progress ..).same .gates (by decide)
  unfold setGate
  dsimp only
  split
  · rw [(eff_ev ..).same .gates (by decide), h]
  · exact h _

/-- GATE sets the gate that the alarm names (R119). -/
theorem alarmFires_gates (k : QKey) {d : Desc} (m : Module) (ha : alarmAction d = 1) : (alarmFires k d m).gates =
    nset 0 m.gates (k.sub * 8 + d.ctx) (nget 0 m.gates (k.sub * 8 + d.ctx) ||| BitVec.ofNat 16 (2 ^ fld (alarmArg d) 0 4)) := by
  have h : (alarmEffect k d (alarmNoted k d m)).gates = (setGate k.sub d.ctx (fld (alarmArg d) 0 4) (alarmNoted k d m)).gates := by
    simp only [alarmEffect, ha]
  rw [setGate_gates, alarmNoted_gates] at h
  rw [alarmFires_eq, ← h]
  split
  · exact (eff_complete ..).same .gates (by decide)
  · rfl

theorem exec_alarmFire {q : Option (Fin 16)} {d : Desc} {r : List Desc} (hq : queue s.m (alarmQ q) = d :: r)
    (hn : nextAlarm s.m = some (alarmQ q)) (hf : applyFirst s.m (alarmBeat d) = false) :
    exec (.alarmFire q) s = done s (alarmFires (alarmQ q) d (passToBeat (alarmBeat d) s.m)) := by
  show execAlarmFire q s = _
  unfold execAlarmFire
  simp [hq, hn, hf]

theorem alarmFire_fires {q : Option (Fin 16)} {d : Desc} {r : List Desc} (hq : queue s.m (alarmQ q) = d :: r)
    (hn : nextAlarm s.m = some (alarmQ q)) (hf : applyFirst s.m (alarmBeat d) = false) : Completes (.alarmFire q) s fun m =>
      queue m (alarmQ q) = r ∧ m.clk = (passToBeat (alarmBeat d) s.m).clk
      ∧ ((alarmQ q).sub < 16 → count m d.part d.ctx 10 0 = count s.m d.part d.ctx 10 0 + 1)
      ∧ (alarmAction d = 1 → m.gates = nset 0 s.m.gates ((alarmQ q).sub * 8 + d.ctx)
          (nget 0 s.m.gates ((alarmQ q).sub * 8 + d.ctx) ||| BitVec.ofNat 16 (2 ^ fld (alarmArg d) 0 4))) := by
  have hp := (eff_passToBeat (alarmBeat d) s.m).same
  refine completes_of_done (exec_alarmFire hq hn hf)
    ⟨?_, (eff_alarmFires ..).same .clk (by decide), fun hk => ?_, fun ha => ?_⟩
  · rw [alarmFires_queue, queue, hp .queues (by decide), ← queue, hq, List.tail_cons]
  · rw [alarmFires_count d _ hk, count, hp .counts (by decide), ← count]
  · rw [alarmFires_gates _ _ ha, hp .gates (by decide)]

end Sys2Proof.Scope

section
open Sys2Proof Sys2Proof.Machine Sys2Proof.Scope

/-- Settles O7, by the guard of a push and by what an alarm's firing leaves in its queue, the counts and the gates. -/
theorem alarmsQueueAndFire : Obligations.AlarmsQueueAndFire := fun _ =>
  ⟨mqPush_refuses, mqPush_queues, fun _ _ _ hq hn hf _ => alarmFire_fires hq hn hf⟩

end

/-! ### Harts that start and halt (O8) -/

namespace Sys2Proof.Scope
open Sys2Proof.Machine Sys2Proof.Laws

variable {s : State} {m : Module}

/-! #### RUN bits (R147, R694, R745) -/

theorem hartKey_core (core : Fin 32) (hart : Fin 4) : hartKey core.val hart.val / 4 = core.val := by
  unfold hartKey
  omega

/-- The hart begins at CC_BOOTh with its integer registers zero. -/
def startedHart (now : Nat) (h : Hart) : Hart :=
  { haltHart h with run := true, on := true, bpSkip := false, pc := h.boot, xs := [], resv := none, lastProgress := now }

theorem hartStart_ignored {hk : Nat} (h : owner m 5 (hk / 4) = none ∨ m.pci.stage ≠ 8 ∨ (m.hart hk).run = true) : hartStart hk m = m := by
  unfold hartStart
  dsimp only
  split
  · rfl
  · rename_i p hp
    refine if_pos ?_
    rcases h with h | h | h
    · exact absurd (h.symm.trans hp) nofun
    · simp [h]
    · simp [h]

/-- A hart that starts is set going, and no other; the first of its partition starts the partition's watchdog (R556). -/
theorem hartStart_starts {hk p : Nat} (ho : owner m 5 (hk / 4) = some p) (hr : (m.hart hk).run = false) (hs : m.pci.stage = 8)
    (hi : m.Inv) : (hartStart hk m).hart hk = startedHart m.clk.elapsed (m.hart hk) ∧ ∀ j, j ≠ hk → (hartStart hk m).hart j = m.hart j := by
  have h : (hartStart hk m).harts = (m.setHart hk (startedHart m.clk.elapsed (m.hart hk))).harts := by
    unfold hartStart
    simp only [ho, hr, hs]
    rw [if_neg (by simp)]
    split <;> rfl
  constructor
  · rw [Module.hart, h]
    exact setHart_get _ _ _ (rising_harts hi)
  · intro j hj
    rw [Module.hart, h]
    exact setHart_get_ne _ _ _ j hj

theorem execHartStart_starts {core : Fin 32} {hart : Fin 4} {p : Nat} (ho : owner s.m 5 core.val = some p)
    (hr : (s.m.hart (hartKey core.val hart.val)).run = false) (hs : s.m.pci.stage = 8) (hi : s.m.Inv) :
    Completes (.hartStart core hart) s fun m =>
      m.hart (hartKey core.val hart.val) = startedHart s.m.clk.elapsed (s.m.hart (hartKey core.val hart.val))
      ∧ (∀ r, rvGet (m.hart (hartKey core.val hart.val)) r = 0) ∧ (∀ j, j ≠ hartKey core.val hart.val → m.hart j = s.m.hart j)
      ∧ SameBut [.harts, .wdg] s.m m := by
  obtain ⟨hk, hj⟩ := hartStart_starts (by rwa [hartKey_core]) hr hs hi
  refine completes_of_done rfl ⟨hk, fun r => ?_, hj, (eff_hartStart ..).same⟩
  rw [hk, rvGet]
  exact ite_self 0

theorem execHartHalt_halts {core : Fin 32} {hart : Fin 4} (hi : s.m.Inv) : Completes (.hartHalt core hart) s fun m =>
    m.hart (hartKey core.val hart.val) = haltHart (s.m.hart (hartKey core.val hart.val))
    ∧ (∀ j, j ≠ hartKey core.val hart.val → m.hart j = s.m.hart j) ∧ SameBut [.harts] s.m m :=
  completes_of_done rfl ⟨setHart_get _ _ _ (rising_harts hi), setHart_get_ne _ _ _, (eff_hartHalt ..).same⟩

end Sys2Proof.Scope

section
open Sys2Proof Sys2Proof.Machine Sys2Proof.Scope

/-- Settles O8, by what a RUN bit that takes effect leaves of the harts, and its guard. -/
theorem runBitsStartAndHaltHarts : Obligations.RunBitsStartAndHaltHarts := fun _ core hart =>
  ⟨fun _ => execHartStart_starts, fun h => congrArg (done _) (hartStart_ignored (by rwa [hartKey_core])), execHartHalt_halts⟩

end

/-! ### A hart's next instruction (for O9, O10 and O11) -/

namespace Sys2Proof.Scope
open Sys2Proof.Machine Sys2Proof.Laws

variable {s : State} {m a b : Module} {hk : Nat} {x : Hart}

/-! #### How an instruction ends (R130, R135, R557) -/

/-- A hart as it goes on at `pc`. -/
def retired (now : Nat) (pc : W64) (h : Hart) : Hart := stepped { h with pc := pc, lastProgress := now }

/-- A hart that halts at an instant with a fault (R130, R148). -/
def faultedHart (t : SetAt) (a : W64) (h : Hart) : Hart :=
  { h with on := false, faulted := true, faultedAt := t, fault := a, wait := none, bpStep := false, bpSkip := false }

/-- The harts of the second state are those of the first, but for one, which is as told. -/
structure HartIs (hk : Nat) (x : Hart) (a b : Module) : Prop where
  self : b.hart hk = x
  others : ∀ j, j ≠ hk → b.hart j = a.hart j

theorem HartIs.of_harts {a' b' : Module} (h : HartIs hk x a b) (ha : a'.harts = a.harts) (hb : b'.harts = b.harts) : HartIs hk x a' b' := by
  obtain ⟨h1, h2⟩ := h
  simp only [Module.hart] at h1 h2
  constructor
  · rw [Module.hart, hb, h1]
  · intro j hj
    rw [Module.hart, Module.hart, hb, ha, h2 j hj]

theorem hartIs_setHart (x : Hart) (h : rising m.harts = true) : HartIs hk x m (m.setHart hk x) :=
  ⟨setHart_get m hk x h, setHart_get_ne m hk x⟩

/-- A hart and the clocks stand in the second state as in the first. -/
structure SameHart (hk : Nat) (a m : Module) : Prop where
  hart : m.hart hk = a.hart hk
  clk : m.clk = a.clk
  rising : rising m.harts = true

theorem SameHart.retire (h : SameHart hk a m) (pc : W64) : HartIs hk (retired a.clk.elapsed pc (a.hart hk)) m (retire hk pc m) := by
  rw [← h.hart, ← h.clk]
  exact hartIs_setHart _ h.rising

theorem SameHart.retireReg (h : SameHart hk a m) (rd : Nat) (v pc : W64) :
    HartIs hk (retired a.clk.elapsed pc (rvSet rd v (a.hart hk))) m (retireReg hk rd v pc m) := by
  have hs := hartIs_setHart (hk := hk) (rvSet rd v (m.hart hk)) h.rising
  have hr : HartIs hk _ _ (Machine.retireReg hk rd v pc m) := SameHart.retire ⟨rfl, rfl, rising_nset h.rising⟩ pc
  rw [hs.self, setHart_clk, h.hart, h.clk] at hr
  exact ⟨hr.self, fun j hj => (hr.others j hj).trans (h.hart ▸ hs.others j hj)⟩

theorem SameHart.stall (h : SameHart hk a m) (w : Wait) : HartIs hk { a.hart hk with wait := some w } m (stall hk w m) := by
  rw [← h.hart]
  exact hartIs_setHart _ h.rising

theorem SameHart.hartFault (h : SameHart hk a m) (p c : Nat) (z : W64) :
    HartIs hk (faultedHart (instant a) z (a.hart hk)) m (hartFault hk p c z m) := by
  rw [← h.hart, instant, ← h.clk]
  exact (hartIs_setHart _ h.rising).of_harts rfl ((eff_ev ..).same .harts (by decide))

theorem rvSet_pc (rd : Nat) (v : W64) (h : Hart) : (rvSet rd v h).pc = h.pc := by
  unfold rvSet
  split <;> rfl

/-! #### Issue and fetch (R127, R129) -/

/-- The parts that the fetch of an instruction may change. -/
def fetchParts : List Part := [.cores, .wdg] ++ memParts

/-- What a hart's instruction looks at stands after its fetch as it stood before. -/
structure Seen (a b : Module) : Prop where
  harts : b.harts = a.harts
  queues : b.queues = a.queues
  counts : b.counts = a.counts
  gates : b.gates = a.gates
  outstanding : b.outstanding = a.outstanding
  clk : b.clk = a.clk
  img : b.img = a.img

theorem seen_of_eff (h : Eff fetchParts a b) : Seen a b :=
  ⟨h.same .harts (by decide), h.same .queues (by decide), h.same .counts (by decide), h.same .gates (by decide),
    h.same .outstanding (by decide), h.same .clk (by decide), h.same .img (by decide)⟩

theorem Seen.trans {d : Module} (h : Seen a b) (k : Seen b d) : Seen a d :=
  ⟨k.harts.trans h.harts, k.queues.trans h.queues, k.counts.trans h.counts, k.gates.trans h.gates, k.outstanding.trans h.outstanding,
    k.clk.trans h.clk, k.img.trans h.img⟩

theorem Seen.hart (h : Seen a b) (j : Nat) : b.hart j = a.hart j := by
  rw [Module.hart, h.harts, Module.hart]

theorem Seen.queue (h : Seen a b) (k : QKey) : queue b k = queue a k := by
  rw [Machine.queue, h.queues, Machine.queue]

theorem Seen.sameHart (h : Seen a b) (hi : a.Inv) : SameHart hk a b := ⟨h.hart hk, h.clk, h.harts ▸ rising_harts hi⟩

/-- What the fetch of a hart's next instruction finds, and what it leaves. -/
def fetchNow (core hart p c : Nat) (m : Module) : Fetched × Module :=
  fetchInstr core p (m.hart (hartKey core hart)).pc (noteExit (hartKey core hart) p c (issued core hart m))

variable {core : Fin 32} {hart : Fin 4} {waits : BitVec 4} {p c len : Nat} {f : Fetched} {i : Rv} {m0 : Module}

theorem eff_fetchNow (hf : fetchNow core hart p c m = (f, m0)) : Eff fetchParts m m0 := by
  have h : Eff fetchParts m (fetchNow core hart p c m).2 :=
    ((eff_issued ..).mono rfl).trans (((eff_noteExit ..).mono rfl).trans ((eff_fetchInstr ..).mono rfl))
  rwa [hf] at h

theorem noteExit_hart (hk p c : Nat) (m : Module) (j : Nat) : (noteExit hk p c m).hart j = m.hart j := by
  rw [Module.hart, (eff_noteExit ..).same .harts (by decide), Module.hart]

/-- A hart that meets no comparator does what its fetch finds. -/
theorem hartStep_issued (hb : bpMeets m (hartKey core hart) = false) (hf : fetchNow core hart p c m = (f, m0)) :
    hartStep (hartKey core hart) p c (issued core hart m) =
      match f with
      | .bad a => hartFault (hartKey core hart) p c a m0
      | .illegal => hartFault (hartKey core hart) p c (m.hart (hartKey core hart)).pc m0
      | .op i len => rvExec (hartKey core hart) p c len i m0 := by
  have hpc : (noteExit (hartKey core hart) p c (issued core hart m)).hart (hartKey core hart) = m.hart (hartKey core hart) :=
    noteExit_hart ..
  refine (if_neg (Bool.not_eq_true _ ▸ hb)).trans ?_
  simp only [hpc, hartKey_core]
  unfold fetchNow at hf
  rw [hf]
  cases f <;> rfl

theorem exec_hartInstruction (hi : issues s.m core hart waits = some (p, c)) :
    exec (.hartInstruction core hart waits) s = done s (hartStep (hartKey core hart) p c (issued core hart s.m)) := by
  show execHartInstruction core hart waits s = _
  unfold execHartInstruction
  rw [hi]

theorem bpMeets_of_nextIsEq {f3 : Nat} (h : nextIsEq hk p f3 m = true) : bpMeets m hk = false := by
  unfold nextIsEq at h
  simp only [Bool.and_eq_true, Bool.not_eq_true'] at h
  exact h.1

/-- A row of the engine-queue extension runs the instruction that it names. -/
theorem eqRow_runs {f3 rd rs1 rs2 : Nat} (row : String) (hi : issues s.m core hart waits = some (p, c))
    (hn : nextIsEq (hartKey core hart) p f3 s.m = true) (hf : fetchNow core hart p c s.m = (.op (.eq f3 rd rs1 rs2) len, m0)) :
    eqRow row f3 core hart waits s = done s (rvEq (hartKey core hart) p c f3 rd (rvGet (s.m.hart (hartKey core hart)) rs1)
      (rvGet (s.m.hart (hartKey core hart)) rs2) m0) := by
  have hh := (seen_of_eff (eff_fetchNow hf)).hart (hartKey core hart)
  unfold eqRow
  simp only [hi, hn, if_true]
  rw [hartStep_issued (bpMeets_of_nextIsEq hn) hf, ← hh]
  rfl

end Sys2Proof.Scope

/-! ### EQ.PUSH (O9) -/

namespace Sys2Proof.Scope
open Sys2Proof.Machine Sys2Proof.Laws

variable {a b m : Module} {hk p c rd w : Nat} {x : Hart} {q z : W64}

/-! #### What a fetch or a read of the Hall leaves -/

theorem owner_congr (h : b.img = a.img) (cls u : Nat) : owner b cls u = owner a cls u := by
  rw [owner, owner, h]

/-- A partition's ranges of the Hall rest on the structure in force alone. -/
theorem inHall_congr (h : b.img = a.img) (p : Nat) (z : W64) (n : Nat) : inHall b p z n = inHall a p z n := by
  rw [inHall, inHall, allowed, allowed, h]

theorem queueMine_congr (h : b.img = a.img) (p cls idx : Nat) : queueMine b p cls idx = queueMine a p cls idx := by
  unfold queueMine
  split
  · rw [owner_congr h]
  · rfl

theorem pushAccepted_congr (h : b.img = a.img) (p c cls idx : Nat) (l : List Byte) :
    pushAccepted b p c cls idx l = pushAccepted a p c cls idx l := by
  simp only [pushAccepted, queueMine_congr h]

theorem Seen.queueFull (h : Seen a b) (k : QKey) : queueFull b k = queueFull a k := by
  rw [Machine.queueFull, h.queue, Machine.queueFull]

/-! #### Pushes that queue nothing (R130, R134, R135) -/

/-- The hart is as told, and nothing is queued or outstanding that was not. -/
structure NotQueued (hk : Nat) (x : Hart) (a b : Module) : Prop where
  hart : HartIs hk x a b
  queues : b.queues = a.queues
  outstanding : b.outstanding = a.outstanding

theorem NotQueued.of_seen (h : NotQueued hk x m b) (hs : Seen a m) : NotQueued hk x a b :=
  ⟨h.hart.of_harts hs.harts.symm rfl, h.queues.trans hs.queues, h.outstanding.trans hs.outstanding⟩

theorem NotQueued.facts (h : NotQueued hk x a b) : b.hart hk = x ∧ b.queues = a.queues ∧ b.outstanding = a.outstanding :=
  ⟨h.hart.self, h.queues, h.outstanding⟩

/-- A refused push writes 1 to rd. -/
theorem pushRefused_notQueued (hi : a.Inv) (hs : Seen a m) (det : W64) :
    NotQueued hk (retired a.clk.elapsed ((a.hart hk).pc + 4) (rvSet rd 1 (a.hart hk))) a (pushRefused hk p c rd det m) := by
  have he := (eff_ev 0x04 1 (hk / 4) 2 p c det m : Eff evParts _ _)
  have hm : Seen a (ev 0x04 1 (hk / 4) 2 p c det m) := hs.trans (seen_of_eff (he.mono rfl))
  have hr := (hm.sameHart hi (hk := hk)).retireReg rd 1 ((m.hart hk).pc + 4)
  rw [hs.hart] at hr
  exact ⟨hs.hart hk ▸ hr.of_harts hm.harts.symm rfl, hm.queues, hm.outstanding⟩

theorem hartFault_notQueued (hi : a.Inv) (hs : Seen a m) (z : W64) :
    NotQueued hk (faultedHart (instant a) z (a.hart hk)) a (hartFault hk p c z m) := by
  have hf := (eff_hartFault hk p c z m).same
  exact NotQueued.of_seen ⟨(hs.sameHart hi).hartFault p c z, hf .queues (by decide), hf .outstanding (by decide)⟩ hs

theorem stall_notQueued (hi : a.Inv) (hs : Seen a m) (v : Wait) : NotQueued hk { a.hart hk with wait := some v } a (stall hk v m) :=
  NotQueued.of_seen ⟨(hs.sameHart hi).stall v, rfl, rfl⟩ hs

/-! #### A push that its queue takes -/

theorem pushInto_queues (w : Nat) (k : QKey) (d : Desc) (m : Module) :
    (pushInto w k d m).queues = (setQueue k (queue m k ++ [d]) m).queues := by
  unfold pushInto enqueue
  exact (eff_noteDepth ..).same .queues (by decide)

theorem queue_pushInto_self (w : Nat) (k : QKey) (d : Desc) (m : Module) : queue (pushInto w k d m) k = queue m k ++ [d] := by
  rw [queue, pushInto_queues, ← queue, queue_setQueue]

theorem queue_pushInto_ne {j k : QKey} (w : Nat) (d : Desc) (m : Module) (h : j ≠ k) : queue (pushInto w k d m) j = queue m j := by
  rw [queue, pushInto_queues, ← queue, queue_setQueue_ne _ _ _ _ h]

theorem pushInto_outstanding (w : Nat) (k : QKey) (d : Desc) (m : Module) :
    (pushInto w k d m).outstanding = mapAt 0 m.outstanding (d.part * 8 + d.ctx) (· + 1) := by
  unfold pushInto
  dsimp only
  rw [(eff_enqueue ..).same .outstanding (by decide)]

theorem sameHart_pushInto (h : SameHart hk a m) (w : Nat) (k : QKey) (d : Desc) : SameHart hk a (pushInto w k d m) := by
  have hp := (eff_pushInto w k d m).same
  have hh : (pushInto w k d m).harts = m.harts := hp .harts (by decide)
  refine ⟨?_, (hp .clk (by decide)).trans h.clk, hh ▸ h.rising⟩
  rw [Module.hart, hh, ← Module.hart, h.hart]

/-- The hart is as told, and one descriptor stands behind those of its queue. -/
structure Queued (hk : Nat) (x : Hart) (k : QKey) (d : Desc) (a b : Module) : Prop where
  hart : HartIs hk x a b
  last : queue b k = queue a k ++ [d]
  others : ∀ j, j ≠ k → queue b j = queue a j
  outstanding : b.outstanding = nset 0 a.outstanding (8 * d.part + d.ctx) (nget 0 a.outstanding (8 * d.part + d.ctx) + 1)

theorem pushInto_queued (hi : a.Inv) (hs : Seen a m) (w : Nat) (k : QKey) (d : Desc) :
    Queued hk (retired a.clk.elapsed ((a.hart hk).pc + 4) (rvSet rd 0 (a.hart hk))) k d a
      (retireReg hk rd 0 ((m.hart hk).pc + 4) (pushInto w k d m)) := by
  have hh : (pushInto w k d m).harts = a.harts := ((eff_pushInto ..).same .harts (by decide)).trans hs.harts
  have hr := (sameHart_pushInto (hs.sameHart hi) w k d (hk := hk)).retireReg rd 0 ((m.hart hk).pc + 4)
  rw [hs.hart] at hr
  refine ⟨hs.hart hk ▸ hr.of_harts hh.symm rfl, ?_, fun j hne => ?_, ?_⟩
  · exact (queue_pushInto_self ..).trans (by rw [hs.queue])
  · exact (queue_pushInto_ne _ _ _ hne).trans (hs.queue j)
  · refine (pushInto_outstanding ..).trans ?_
    rw [mapAt, hs.outstanding, Nat.mul_comm d.part 8]

/-! #### The branches of EQ.PUSH (R132 to R135) -/

/-- The read of the descriptor's header, and the read of the whole of it, by a core of wing `w`. -/
def headRead (w p : Nat) (z : W64) (m : Module) : List Byte × Module := hallRead w p (hallOff z) 16 m
def bodyRead (w p : Nat) (z : W64) (m : Module) : List Byte × Module :=
  hallRead w p (hallOff z) (parseDesc (headRead w p z m).1).len (headRead w p z m).2

/-- A header of version 1 that gives a length in order (R24, R53; log entry 118). -/
def HeaderOk (l : List Byte) : Prop :=
  descVersion l = 1 ∧ 16 ≤ (parseDesc l).len ∧ (parseDesc l).len % 16 = 0 ∧ (parseDesc l).len ≤ 512

theorem eqPush_badQueue (hq : qidOk q = false) : eqPush hk p c rd z q m = pushRefused hk p c rd 0xFFFFFFFFFFFFFFFF m :=
  if_pos (by simp [hq])

section
variable (he : Eff fetchParts a m)
include he

theorem seen_headRead (w p : Nat) (z : W64) : Seen a (headRead w p z m).2 := seen_of_eff (he.trans ((eff_hallRead ..).mono rfl))

theorem seen_bodyRead (w p : Nat) (z : W64) : Seen a (bodyRead w p z m).2 :=
  seen_of_eff (he.trans (Eff.trans ((eff_hallRead w p (hallOff z) 16 m).mono rfl) ((eff_hallRead ..).mono rfl)))

variable (hq : qidOk q = true)
include hq

theorem eqPush_headOutside (hh : inHall a p z 16 = false) : eqPush hk p c rd z q m = hartFault hk p c z m := by
  rw [← inHall_congr (seen_of_eff he).img] at hh
  exact (if_neg (by simp [hq])).trans (if_pos (by simp [hh]))

variable (hw : hk / 4 / 16 = w) (hh : inHall a p z 16 = true)
include hw hh

theorem eqPush_headBad (hg : ¬ HeaderOk (headRead w p z m).1) :
    eqPush hk p c rd z q m = pushRefused hk p c rd (parseDesc (headRead w p z m).1).seq (headRead w p z m).2 := by
  subst hw
  rw [← inHall_congr (seen_of_eff he).img] at hh
  refine (if_neg (by simp [hq])).trans ((if_neg (by simp [hh])).trans (if_pos ?_))
  simp only [HeaderOk, headRead] at hg
  simp only [Bool.or_eq_true, bne_iff_ne, decide_eq_true_eq]
  omega

/-- With the header in order, the whole descriptor is read where it lies in the partition's Hall. -/
theorem eqPush_headOk (hg : HeaderOk (headRead w p z m).1) : eqPush hk p c rd z q m =
    if !inHall a p z (parseDesc (headRead w p z m).1).len then hartFault hk p c z (headRead w p z m).2
    else if !pushAccepted a p c (qidCls q) (qidIdx q) (bodyRead w p z m).1 then
      pushRefused hk p c rd (parseDesc (bodyRead w p z m).1).seq (bodyRead w p z m).2
    else if queueFull a (queueFor (qidCls q) (qidIdx q) p c) then
      stall hk (.push (queueFor (qidCls q) (qidIdx q) p c) (parseDesc (bodyRead w p z m).1) rd) (bodyRead w p z m).2
    else retireReg hk rd 0 (((bodyRead w p z m).2.hart hk).pc + 4)
      (pushInto w (queueFor (qidCls q) (qidIdx q) p c) (parseDesc (bodyRead w p z m).1) (bodyRead w p z m).2) := by
  subst hw
  have hb := seen_bodyRead he (hk / 4 / 16) p z
  rw [← inHall_congr (seen_headRead he (hk / 4 / 16) p z).img, ← pushAccepted_congr hb.img, ← hb.queueFull]
  rw [← inHall_congr (seen_of_eff he).img] at hh
  refine (if_neg (by simp [hq])).trans ((if_neg (by simp [hh])).trans (if_neg ?_))
  simp only [HeaderOk, headRead] at hg
  simp only [Bool.or_eq_true, bne_iff_ne, decide_eq_true_eq]
  omega

end

/-- An accepted descriptor is of the context that pushes it. -/
theorem pushAccepted_context {cls idx : Nat} {l : List Byte} (h : pushAccepted m p c cls idx l = true) :
    (parseDesc l).part = p ∧ (parseDesc l).ctx = c := by
  simp only [pushAccepted, Bool.and_eq_true, decide_eq_true_eq] at h
  simp [h]

/-! #### What EQ.PUSH leaves, from the state before its fetch -/

section
variable (he : Eff fetchParts a m) (hi : a.Inv)
include he hi

/-- Whatever comes of a push, it is its own hart alone that it changes. -/
theorem eqPush_others (hw : hk / 4 / 16 = w) : ∀ j, j ≠ hk → (eqPush hk p c rd z q m).hart j = a.hart j := by
  have hb := seen_bodyRead he w p z
  have hd := seen_headRead he w p z
  by_cases hq : qidOk q = true
  case neg => exact (eqPush_badQueue (by simpa using hq)) ▸ (pushRefused_notQueued hi (seen_of_eff he) _).hart.others
  by_cases hh : inHall a p z 16 = true
  case neg => exact (eqPush_headOutside he hq (by simpa using hh)) ▸ (hartFault_notQueued hi (seen_of_eff he) z).hart.others
  by_cases hg : HeaderOk (headRead w p z m).1
  case neg => exact (eqPush_headBad he hq hw hh hg) ▸ (pushRefused_notQueued hi hd _).hart.others
  rw [eqPush_headOk he hq hw hh hg]
  split_ifs
  · exact (hartFault_notQueued hi hd z).hart.others
  · exact (pushRefused_notQueued hi hb _).hart.others
  · exact (stall_notQueued hi hb _).hart.others
  · exact (pushInto_queued hi hb w _ _).hart.others

end

end Sys2Proof.Scope

section
open Sys2Proof Sys2Proof.Machine Sys2Proof.Scope

/-- Settles O9, by the branches of the push, each with what it leaves of the hart and of the queues. -/
theorem eqPushQueuesRefusesOrStalls : Obligations.EqPushQueuesRefusesOrStalls := by
  intro s core hart waits p c rd rs1 rs2 len m0 hi hk h z q ends x n y k given faults hiss hn hf
  have he := eff_fetchNow hf
  have hw : hk / 4 / 16 = core.val / 16 := by rw [hartKey_core]
  have hd := seen_headRead he (core.val / 16) p z
  have hb := seen_bodyRead he (core.val / 16) p z
  refine completes_of_done (eqRow_runs "EQ_PUSH" hiss hn hf) ⟨eqPush_others he hi hw, fun hq => ?_, fun hq hh => ?_, fun hq hh =>
    ⟨fun hg => ?_, fun hg ho => ?_, fun hg ho ha => ?_, fun hg ho ha => ⟨fun hr => ?_, fun hr => ?_⟩⟩⟩
  all_goals rw [rvEq]
  · rw [eqPush_badQueue hq]
    exact (pushRefused_notQueued hi (seen_of_eff he) _).facts
  · rw [eqPush_headOutside he hq hh]
    exact (hartFault_notQueued hi (seen_of_eff he) z).facts
  · rw [eqPush_headBad he hq hw hh hg]
    exact (pushRefused_notQueued hi hd _).facts
  all_goals rw [eqPush_headOk he hq hw hh hg]
  · rw [if_pos (by rw [Bool.not_eq_true']; exact ho)]
    exact (hartFault_notQueued hi hd z).facts
  all_goals rw [if_neg (by rw [Bool.not_eq_true', Bool.not_eq_false]; exact ho)]
  · rw [if_pos (by rw [Bool.not_eq_true']; exact ha)]
    exact (pushRefused_notQueued hi hb _).facts
  all_goals rw [if_neg (by rw [Bool.not_eq_true', Bool.not_eq_false]; exact ha)]
  · rw [if_neg (by rw [queueFull, decide_eq_true_eq, not_le]; exact hr)]
    obtain ⟨⟨hx, -⟩, hl, ho, hout⟩ := pushInto_queued hi hb (hk := hk) (rd := rd) (core.val / 16) k (parseDesc y.1)
    obtain ⟨hp, hc⟩ := pushAccepted_context ha
    rw [hp, hc] at hout
    exact ⟨hx, hl, ho, hout⟩
  · rw [if_pos (by rw [queueFull, decide_eq_true_eq]; exact hr)]
    exact (stall_notQueued hi hb _).facts

end

/-! ### EQ.WAIT, EQ.POLL, EQ.GATE, EQ.BEAT, EQ.FENCE and the stalls that end (O10) -/

namespace Sys2Proof.Scope
open Sys2Proof.Machine Sys2Proof.Laws

variable {s : State} {a m : Module} {hk p c g rd : Nat} {q : W64}

/-! #### Completion counts and gates (R136) -/

/-- A count that a queue ID names is read without a free value (log entry 28). -/
theorem qidCount_of_ok (h : qidOk q = true) (p c : Nat) (m : Module) :
    qidCount p c q m = (count m p c (qidCls q) (qidIdx q), m) := if_pos h

theorem Seen.count (h : Seen a m) (p c cls idx : Nat) : count m p c cls idx = count a p c cls idx := by
  rw [Machine.count, h.counts, Machine.count]

theorem Seen.gateSet (h : Seen a m) (p c g : Nat) : gateSet m p c g = gateSet a p c g := by
  rw [Machine.gateSet, h.gates, Machine.gateSet]

theorem Seen.fenceDone (h : Seen a m) (p c : Nat) : fenceDone m p c = fenceDone a p c := by
  rw [Machine.fenceDone, h.outstanding, Machine.fenceDone]

theorem seen_qidCount (h : Seen a m) (p c : Nat) (q : W64) : Seen a (qidCount p c q m).2 :=
  h.trans (seen_of_eff ((eff_qidCount ..).mono rfl))

theorem bit_and_not_pow (x : BitVec 16) (h : g < 16) : bit (x &&& ~~~(BitVec.ofNat 16 (2 ^ g))) g = false := by
  have hb : (~~~(BitVec.ofNat 16 (2 ^ g))).getLsbD g = false := by
    simp only [BitVec.getLsbD_not, BitVec.getLsbD_ofNat, Nat.testBit_two_pow_self, h, decide_true, Bool.and_self, Bool.not_true, Bool.and_false]
  rw [bit, BitVec.testBit_toNat, BitVec.getLsbD_and, hb, Bool.and_false]

/-- A gate that is cleared is not set. -/
theorem gateSet_clearGate (hr : rising m.gates = true) (p c : Nat) (h : g < 16) : gateSet (clearGate p c g m) p c g = false := by
  refine (congrArg (fun x => bit x g) (nget_nset_self hr)).trans ?_
  exact bit_and_not_pow _ h

/-- A hart that goes on is not one that stalls. -/
theorem retired_ne_stalled (t : Nat) (h : Hart) (v : Wait) : { h with wait := some v } ≠ retired t (h.pc + 4) h := fun e => by
  have hpc : h.pc = h.pc + 4 := congrArg Hart.pc e
  bv_omega

/-! #### What each instruction leaves of its hart (R132, R136) -/

section
variable (hi : a.Inv) (hs : Seen a m)
include hi hs

/-- EQ.WAIT goes on or stalls as the count says; a count that is not free is that of the state before. -/
theorem eqWait_leaves (v : W64) :
    ((eqWait hk p c q v m).hart hk = retired a.clk.elapsed ((a.hart hk).pc + 4) (a.hart hk)
      ∨ (eqWait hk p c q v m).hart hk = { a.hart hk with wait := some (.count ⟨qidCls q, qidIdx q, 0⟩ (v.setWidth 32)) })
    ∧ (qidOk q = true → ((eqWait hk p c q v m).hart hk = retired a.clk.elapsed ((a.hart hk).pc + 4) (a.hart hk)
      ↔ countPast (count a p c (qidCls q) (qidIdx q)) (v.setWidth 32) = true)) := by
  have hc := seen_qidCount hs p c q
  have hx : qidOk q = true → (qidCount p c q m).1 = count a p c (qidCls q) (qidIdx q) := fun hq => by
    rw [qidCount_of_ok hq, hs.count]
  unfold eqWait
  dsimp only
  rw [hc.hart]
  split
  next hp =>
    have hr := ((hc.sameHart hi (hk := hk)).retire ((a.hart hk).pc + 4)).self
    exact ⟨.inl hr, fun hq => iff_of_true hr (hx hq ▸ hp)⟩
  next hp =>
    have hr := ((hc.sameHart hi (hk := hk)).stall (.count ⟨qidCls q, qidIdx q, 0⟩ (v.setWidth 32))).self
    exact ⟨.inr hr, fun hq => iff_of_false (hr ▸ retired_ne_stalled _ _ _) (hx hq ▸ hp)⟩

theorem eqPoll_leaves : (eqPoll hk p c rd q m).hart hk =
    retired a.clk.elapsed ((a.hart hk).pc + 4) (rvSet rd ((qidCount p c q m).1.setWidth 64) (a.hart hk)) := by
  have hc := seen_qidCount hs p c q
  unfold eqPoll
  dsimp only
  rw [hc.hart]
  exact ((hc.sameHart hi).retireReg ..).self

theorem eqPoll_count (hq : qidOk q = true) : (eqPoll hk p c rd q m).hart hk =
    retired a.clk.elapsed ((a.hart hk).pc + 4) (rvSet rd ((count a p c (qidCls q) (qidIdx q)).setWidth 64) (a.hart hk)) := by
  rw [eqPoll_leaves hi hs, qidCount_of_ok hq, hs.count]

theorem eqGate_set (hg : gateSet a p c g = true) (h16 : g < 16) :
    (eqGate hk p c g m).hart hk = retired a.clk.elapsed ((a.hart hk).pc + 4) (a.hart hk) ∧ gateSet (eqGate hk p c g m) p c g = false := by
  rw [← hs.gateSet] at hg
  have hm : SameHart hk a (clearGate p c g m) := ⟨hs.hart hk, hs.clk, hs.harts ▸ rising_harts hi⟩
  rw [show eqGate hk p c g m = _ from if_pos hg, hs.hart]
  exact ⟨(hm.retire _).self, gateSet_clearGate (hs.gates ▸ rising_gates hi) p c h16⟩

theorem eqGate_clear (hg : gateSet a p c g = false) :
    (eqGate hk p c g m).hart hk = { a.hart hk with wait := some (.gate g) } ∧ (eqGate hk p c g m).gates = a.gates := by
  rw [← hs.gateSet] at hg
  rw [show eqGate hk p c g m = _ from if_neg (by simp [hg])]
  exact ⟨((hs.sameHart hi).stall _).self, hs.gates⟩

theorem eqBeat_hart : (eqBeat hk rd m).hart hk =
    retired a.clk.elapsed ((a.hart hk).pc + 4) (rvSet rd (a.clk.time.setWidth 64) (a.hart hk)) := by
  unfold eqBeat
  rw [hs.hart, hs.clk]
  exact ((hs.sameHart hi).retireReg ..).self

theorem eqFence_done (h : nget 0 a.outstanding (8 * p + c) = 0) :
    (eqFence hk p c m).hart hk = retired a.clk.elapsed ((a.hart hk).pc + 4) (a.hart hk) := by
  rw [show eqFence hk p c m = _ from if_pos (by rw [hs.fenceDone]; exact decide_eq_true h), hs.hart]
  exact ((hs.sameHart hi).retire _).self

theorem eqFence_waits (h : nget 0 a.outstanding (8 * p + c) ≠ 0) : (eqFence hk p c m).hart hk = { a.hart hk with wait := some .fence } := by
  rw [show eqFence hk p c m = _ from if_neg (by rw [hs.fenceDone, fenceDone, decide_eq_true_eq]; exact h)]
  exact ((hs.sameHart hi).stall _).self

end

/-! #### Stalls that end (R89, R132, R135, R136) -/

/-- A hart as it goes on behind the instruction at `pc` in which it was stalled. -/
def unstalled (pc : W64) (h : Hart) : Hart := stepped { h with wait := none, pc := pc + 4 }

theorem unstall_hart (h : SameHart hk a m) : (unstall hk m).hart hk = unstalled (a.hart hk).pc (a.hart hk) := by
  rw [← h.hart]
  exact setHart_get _ _ _ h.rising

/-- The hart writes a register as its stall ends. -/
def answered (hk rd : Nat) (v : W64) (m : Module) : Module := unstall hk (m.setHart hk (rvSet rd v (m.hart hk)))

theorem answered_hart (h : SameHart hk a m) (rd : Nat) (v : W64) :
    (answered hk rd v m).hart hk = unstalled (a.hart hk).pc (rvSet rd v (a.hart hk)) := by
  have hs := setHart_get m hk (rvSet rd v (m.hart hk)) h.rising
  refine (unstall_hart ⟨rfl, rfl, rising_nset h.rising⟩).trans ?_
  rw [hs, rvSet_pc, h.hart]

theorem sameBut_answered (hk rd : Nat) (v : W64) (m : Module) : SameBut [.harts] m (answered hk rd v m) := sameBut_of_blend rfl

theorem qid_of_queue {cls idx : Nat} (hc : cls < 16) (hx : idx < qclsCount cls) :
    qidCls (BitVec.ofNat 64 (cls * 4096 + idx)) = cls ∧ qidIdx (BitVec.ofNat 64 (cls * 4096 + idx)) = idx := by
  have h : idx < 4096 := hx.trans (by unfold qclsCount; split <;> decide)
  have hn : (BitVec.ofNat 64 (cls * 4096 + idx)).toNat = cls * 4096 + idx := by
    rw [BitVec.toNat_ofNat]
    omega
  simp only [qidCls, qidIdx, fld, nfld, hn, Nat.shiftRight_eq_div_pow]
  omega

section
variable {core : Fin 32} {hart : Fin 4} {k : QKey} {d : Desc} (hi : s.m.Inv)
  (hw : waiting s.m (hartKey core hart) = some (.push k d rd, p, c))
include hw

theorem eqPushStallEnd_full (hm : queueMine s.m p k.cls k.idx = true) (hf : queueDepth k ≤ (queue s.m k).length) :
    exec (.eqPushStallEnd core hart) s = .refused (.notDue "EQ_PUSH_STALL_END") := by
  show execEqPushStallEnd core hart s = _
  unfold execEqPushStallEnd
  simp [hw, hm, queueFull, hf, stop]

include hi

theorem eqPushStallEnd_queues (hm : queueMine s.m p k.cls k.idx = true) (hf : (queue s.m k).length < queueDepth k) :
    Completes (.eqPushStallEnd core hart) s fun m =>
      m.hart (hartKey core hart) = unstalled (s.m.hart (hartKey core hart)).pc (rvSet rd 0 (s.m.hart (hartKey core hart)))
      ∧ queue m k = queue s.m k ++ [d] ∧ SameBut [.queues, .outstanding, .harts, .dbg] s.m m := by
  have he : exec (.eqPushStallEnd core hart) s = done s (answered (hartKey core hart) rd 0 (pushInto (core.val / 16) k d s.m)) := by
    show execEqPushStallEnd core hart s = _
    unfold execEqPushStallEnd
    simp [hw, hm, queueFull, hf, answered]
  have hs : SameHart (hartKey core hart) s.m s.m := ⟨rfl, rfl, rising_harts hi⟩
  exact completes_of_done he ⟨answered_hart (sameHart_pushInto hs ..) rd 0, queue_pushInto_self (core.val / 16) k d s.m,
    sameBut_trans (sameBut_mono (eff_pushInto ..).same rfl) (sameBut_mono (sameBut_answered _ _ _ _) rfl)⟩

/-- A queue whose unit the partition no longer owns refuses the push (R89). -/
theorem eqPushStallEnd_refused (hm : queueMine s.m p k.cls k.idx = false) :
    Completes (.eqPushStallEnd core hart) s fun m =>
      m.hart (hartKey core hart) = unstalled (s.m.hart (hartKey core hart)).pc (rvSet rd 1 (s.m.hart (hartKey core hart)))
      ∧ SameBut [.harts, .vst, .hlt, .pci, .tray, .dbg, .out] s.m m := by
  let a := ev 0x04 1 (hartKey core hart / 4) 2 p c d.seq s.m
  have he : exec (.eqPushStallEnd core hart) s = done s (answered (hartKey core hart) rd 1 a) := by
    show execEqPushStallEnd core hart s = _
    unfold execEqPushStallEnd
    simp [hw, hm, answered, a]
  have ha : Eff evParts s.m a := eff_ev ..
  exact completes_of_done he ⟨answered_hart ((seen_of_eff (ha.mono rfl)).sameHart hi) rd 1,
    sameBut_trans (sameBut_mono ha.same rfl) (sameBut_mono (sameBut_answered _ _ _ _) rfl)⟩

end

section
variable {core : Fin 32} {hart : Fin 4}

theorem eqWaitSatisfied_ends {cls idx : Nat} {n : W32} (hw : waiting s.m (hartKey core hart) = some (.count ⟨cls, idx, 0⟩ n, p, c))
    (hc : cls < 16) (hx : idx < qclsCount cls) (hn : countPast (count s.m p c cls idx) n = true) :
    Does (.eqWaitSatisfied core hart) s (unstall (hartKey core hart) s.m) := by
  obtain ⟨h1, h2⟩ := qid_of_queue hc hx
  have hq : qidOk (BitVec.ofNat 64 (cls * 4096 + idx)) = true := by rw [qidOk, h1, h2, decide_eq_true hx]
  show execEqWaitSatisfied core hart s = _
  unfold execEqWaitSatisfied
  simp only [hw, qidCount_of_ok hq, h1, h2, hn, if_true]
  rfl

theorem eqGateSatisfied_ends (hi : s.m.Inv) (hw : waiting s.m (hartKey core hart) = some (.gate g, p, c))
    (hg : gateSet s.m p c g = true) : Completes (.eqGateSatisfied core hart) s fun m =>
      m.hart (hartKey core hart) = unstalled (s.m.hart (hartKey core hart)).pc (s.m.hart (hartKey core hart))
      ∧ m.gates = (clearGate p c g s.m).gates ∧ SameBut [.gates, .harts] s.m m := by
  have he : exec (.eqGateSatisfied core hart) s = done s (unstall (hartKey core hart) (clearGate p c g s.m)) := by
    show execEqGateSatisfied core hart s = _
    unfold execEqGateSatisfied
    simp only [hw, hg, if_true]
  have hs : SameHart (hartKey core hart) s.m (clearGate p c g s.m) := ⟨rfl, rfl, show rising s.m.harts = true from rising_harts hi⟩
  exact completes_of_done he ⟨unstall_hart hs, rfl, sameBut_of_exec he⟩

theorem eqFenceSatisfied_ends (hw : waiting s.m (hartKey core hart) = some (.fence, p, c))
    (ho : nget 0 s.m.outstanding (8 * p + c) = 0) : Does (.eqFenceSatisfied core hart) s (unstall (hartKey core hart) s.m) := by
  show execEqFenceSatisfied core hart s = _
  unfold execEqFenceSatisfied
  simp only [hw, fenceDone, ho, decide_true, if_true]
  rfl

end

end Sys2Proof.Scope

section
open Sys2Proof Sys2Proof.Machine Sys2Proof.Scope

/-- Settles O10, by what each instruction leaves of its hart, and by what each stall's end does where it is due. -/
theorem engineQueueWaitsRetireStallAndEnd : Obligations.EngineQueueWaitsRetireStallAndEnd := by
  constructor
  · intro s core hart waits p c f3 rd rs1 rs2 len m0 hi hk h q n cnt ends hiss hn hf
    have hs := seen_of_eff (eff_fetchNow hf)
    refine ⟨?_, ?_, ?_, ?_, ?_⟩ <;> rintro rfl
    · exact completes_of_done (eqRow_runs "EQ_WAIT" hiss hn hf) (eqWait_leaves hi hs _)
    · exact completes_of_done (eqRow_runs "EQ_POLL" hiss hn hf) ⟨⟨_, eqPoll_leaves hi hs⟩, eqPoll_count hi hs⟩
    · exact completes_of_done (eqRow_runs "EQ_GATE" hiss hn hf)
        ⟨fun hg => eqGate_set hi hs hg (Nat.mod_lt _ (by decide)), eqGate_clear hi hs⟩
    · exact completes_of_done (eqRow_runs "EQ_BEAT" hiss hn hf) (eqBeat_hart hi hs)
    · exact completes_of_done (eqRow_runs "EQ_FENCE" hiss hn hf) ⟨eqFence_done hi hs, eqFence_waits hi hs⟩
  · intro s core hart p c hi hk h ends
    refine ⟨fun k d rd hw => ⟨eqPushStallEnd_queues hi hw, eqPushStallEnd_refused hi hw, eqPushStallEnd_full hw⟩,
      fun cls idx n hw hc hx hn => eqWaitSatisfied_ends hw hc hx hn, fun g hw hg => eqGateSatisfied_ends hi hw hg,
      fun hw ho => eqFenceSatisfied_ends hw ho⟩

end

/-! ### Register forms, loads, stores, LR and SC (O11) -/

namespace Sys2Proof.Scope
open Sys2Proof.Machine Sys2Proof.Laws

variable {s : State} {a b m : Module} {hk p c len f3 rd k : Nat} {z v : W64}

/-! #### The data scratch (R129) -/

/-- Every core's data scratch is as it was. -/
structure SameData (a b : Module) : Prop where
  data : ∀ j, (b.core j).data = (a.core j).data

theorem SameData.trans {d : Module} (h : SameData a b) (k : SameData b d) : SameData a d :=
  ⟨fun j => (k.data j).trans (h.data j)⟩

theorem sameData_of_cores (h : b.cores = a.cores) : SameData a b := ⟨fun j => by rw [Module.core, h, Module.core]⟩

theorem sameData_setCore {x : Core} (hr : rising m.cores = true) (hx : x.data = (m.core k).data) : SameData m (m.setCore k x) := by
  refine ⟨fun j => ?_⟩
  by_cases hj : j = k
  · rw [hj, setCore_get _ _ _ hr, hx]
  · rw [setCore_get_ne _ _ _ _ hj]

theorem sameData_of_eff {l : List Part} (h : Eff l a b) (hl : Part.cores ∉ l) : SameData a b := sameData_of_cores (h.same .cores hl)

theorem sameData_icachePut (hi : m.Inv) (core h : Nat) (bs : List Byte) : SameData m (icachePut core h bs m) := by
  have hr := rising_cores hi
  unfold icachePut
  dsimp only
  split
  · exact sameData_setCore hr rfl
  · exact (sameData_of_eff (eff_freeVal m) (by decide)).trans (sameData_setCore hr rfl)

/-- A fetch fills the instruction cache and leaves the data scratch. -/
theorem sameData_fetchHalf (hi : m.Inv) (core p off : Nat) : SameData m (fetchHalf core p off m).2 := by
  have hx := eff_hallRead (core / 16) p off 2 m
  have hv := eff_freeVal (hallRead (core / 16) p off 2 m).2
  have dx : SameData m _ := sameData_of_eff hx (by decide)
  have dv : SameData m _ := dx.trans (sameData_of_eff hv (by decide))
  unfold fetchHalf
  dsimp only
  split
  · exact dx.trans (sameData_icachePut (hx.keeps.inv hi) ..)
  · split
    · exact dx
    · split
      · exact dv
      · exact dv.trans (sameData_icachePut (hv.keeps.inv (hx.keeps.inv hi)) ..)

theorem sameData_fetchInstr (hi : m.Inv) (core p : Nat) (pc : W64) : SameData m (fetchInstr core p pc m).2 := by
  have h1 := sameData_fetchHalf hi core p (hallOff pc)
  unfold fetchInstr
  dsimp only
  split
  · exact ⟨fun _ => rfl⟩
  · split
    · exact h1
    · split
      · exact h1
      · exact h1.trans (sameData_fetchHalf ((eff_fetchHalf ..).keeps.inv hi) ..)

theorem sameData_fetchNow {core hart : Nat} {f : Fetched} {m0 : Module} (hi : m.Inv) (hf : fetchNow core hart p c m = (f, m0)) :
    SameData m m0 := by
  have he := (eff_issued core hart m).keeps.trans (eff_noteExit (hartKey core hart) p c _).keeps
  have h : SameData m (fetchNow core hart p c m).2 :=
    have hs : SameData m (issued core hart m) := sameData_setCore (rising_cores hi) rfl
    (hs.trans (sameData_of_eff (eff_noteExit ..) (by decide))).trans (sameData_fetchInstr (he.inv hi) ..)
  rwa [hf] at h

/-! #### Loads, and accesses that are not aligned (R130) -/

/-- The bytes of a core's data scratch from an address on. -/
def scratchBytes (core : Nat) (z : W64) (n : Nat) (m : Module) : List Byte :=
  (List.range n).map fun j => nget 0 (m.core core).data (z.toNat + j)

theorem hartRead_scratch {core n : Nat} (h : inScratch z n = true) : hartRead core p z n m = (scratchBytes core z n m, m) := if_pos h

theorem inData_of_scratch {n : Nat} (h : inScratch z n = true) : inData m p z n = true := by
  rw [inData, h, Bool.true_or]

theorem SameData.scratchBytes (h : SameData a b) (core : Nat) (z : W64) (n : Nat) : scratchBytes core z n b = scratchBytes core z n a := by
  rw [Scope.scratchBytes, h.data core, Scope.scratchBytes]

theorem rvLoad_scratch (ha : z.toNat % accSize f3 = 0) (hz : inScratch z (accSize f3) = true) : rvLoad hk p c len f3 rd z m =
    retireReg hk rd (loadExt f3 (leNat (scratchBytes (hk / 4) z (accSize f3) m))) ((m.hart hk).pc + BitVec.ofNat 64 len) m := by
  rw [show rvLoad hk p c len f3 rd z m = _ from if_neg (by simp [ha, inData_of_scratch hz]), hartRead_scratch hz]

theorem rvLoad_misaligned (ha : z.toNat % accSize f3 ≠ 0) : rvLoad hk p c len f3 rd z m = hartFault hk p c z m :=
  if_pos (by simp [ha])

theorem rvStore_misaligned (ha : z.toNat % accSize f3 ≠ 0) : rvStore hk p c len f3 z v m = hartFault hk p c z m :=
  if_pos (by simp [ha])

theorem rvStore_scratch (ha : z.toNat % accSize f3 = 0) (hz : inScratch z (accSize f3) = true) : rvStore hk p c len f3 z v m =
    retire hk ((m.hart hk).pc + BitVec.ofNat 64 len) (hartWrite hk p z (natLe (accSize f3) v.toNat) m) :=
  if_neg (by simp [ha, inData_of_scratch hz])

/-! #### Stores to the data scratch -/

theorem length_natLe (n v : Nat) : (natLe n v).length = n := by
  induction n generalizing v with
  | zero => rfl
  | succ n ih => exact congrArg (· + 1) (ih _)

/-- A store breaks reservations of other harts alone. -/
theorem sameHart_breakResv (h : SameHart hk a m) (p : Nat) (z : W64) (n : Nat) : SameHart hk a (breakResv hk p z n m) := by
  refine List.foldlRecOn (motive := SameHart hk a) m.harts _ h fun x hx y _ => ?_
  split
  · extract_lets same
    split
    next hc =>
      simp only [Bool.and_eq_true, bne_iff_ne] at hc
      obtain ⟨⟨⟨hne, -⟩, -⟩, -⟩ := hc
      exact ⟨(setHart_get_ne _ _ _ _ hne.symm).trans hx.hart, hx.clk, rising_nset hx.rising⟩
    next => exact hx
  · exact hx

/-- What a store to the data scratch leaves: the hart and the memory, and every byte but those stored. -/
structure Stored (hk : Nat) (z : W64) (bs : List Byte) (a b : Module) : Prop where
  hart : SameHart hk a b
  mem : b.mem = a.mem
  data : (b.core (hk / 4)).data = scratchPut z.toNat bs (a.core (hk / 4)).data
  others : ∀ j, j ≠ hk / 4 → b.core j = a.core j

theorem hartWrite_scratch {bs : List Byte} (hr : rising m.harts = true) (hc : rising m.cores = true) (hz : inScratch z bs.length = true) :
    Stored hk z bs m (hartWrite hk p z bs m) := by
  have he := (eff_breakResv hk p z bs.length m).same
  have hcores : (breakResv hk p z bs.length m).cores = m.cores := he .cores (by decide)
  have hcore : ∀ j, (breakResv hk p z bs.length m).core j = m.core j := fun j => by rw [Module.core, hcores, Module.core]
  obtain ⟨hh, hclk, hrise⟩ := sameHart_breakResv (hk := hk) ⟨rfl, rfl, hr⟩ p z bs.length
  rw [show hartWrite hk p z bs m = _ from if_pos hz]
  refine ⟨⟨hh, hclk, hrise⟩, he .mem (by decide), ?_, fun j hj => ?_⟩
  · rw [setCore_get _ _ _ (hcores ▸ hc), hcore]
  · exact (setCore_get_ne _ _ _ j hj).trans (hcore j)

/-! #### LR and SC (the A extension) -/

theorem rvAmo_lr (ha : z.toNat % 8 = 0) (hz : inScratch z 8 = true) : rvAmo hk p c 2 true rd z v m =
    retireReg hk rd (loadExt 3 (leNat (scratchBytes (hk / 4) z 8 m))) ((m.hart hk).pc + 4)
      (m.setHart hk { m.hart hk with resv := some (z.toNat, 8) }) := by
  rw [show rvAmo hk p c 2 true rd z v m = _ from if_neg (by simp [ha, inData_of_scratch hz])]
  simp only [if_true, hartRead_scratch hz]
  rfl

/-- The reservation of a hart is given up as it stores. -/
def dropResv (hk : Nat) (m : Module) : Module := m.setHart hk { m.hart hk with resv := none }

theorem dropResv_hart (h : rising m.harts = true) : (dropResv hk m).hart hk = { m.hart hk with resv := none } := setHart_get _ _ _ h

/-- The hart goes on without its reservation. -/
theorem retireReg_dropResv (hm : SameHart hk a m) (hb : SameHart hk (dropResv hk m) b) (rd : Nat) (v pc : W64) :
    (retireReg hk rd v pc b).hart hk = retired a.clk.elapsed pc (rvSet rd v { a.hart hk with resv := none }) := by
  rw [(hb.retireReg ..).self, dropResv_hart hm.rising, hm.hart, ← hm.clk]
  rfl

theorem rvSet_resv (rd : Nat) (v : W64) (h : Hart) : (rvSet rd v h).resv = h.resv := by
  unfold rvSet
  split <;> rfl

theorem rvAmo_sc (ha : z.toNat % 8 = 0) (hz : inScratch z 8 = true) : rvAmo hk p c 3 true rd z v m =
    if (m.hart hk).resv = some (z.toNat, 8) then
      retireReg hk rd 0 ((m.hart hk).pc + 4) (hartWrite hk p z (natLe 8 v.toNat) (dropResv hk m))
    else retireReg hk rd 1 ((m.hart hk).pc + 4) (dropResv hk m) := by
  rw [show rvAmo hk p c 3 true rd z v m = _ from if_neg (by simp [ha, inData_of_scratch hz])]
  rfl

/-! #### What each leaves, from the state before its fetch -/

section
variable (hi : a.Inv) (hs : Seen a m) (hd : SameData a m)
include hi hs hd

theorem hartFault_leaves (p c : Nat) (z : W64) :
    (hartFault hk p c z m).hart hk = faultedHart (instant a) z (a.hart hk) ∧ ∀ j, ((hartFault hk p c z m).core j).data = (a.core j).data :=
  ⟨((hs.sameHart hi).hartFault p c z).self, (hd.trans (sameData_of_eff (eff_hartFault ..) (by decide))).data⟩

theorem rvLoad_leaves (ha : z.toNat % accSize f3 = 0) (hz : inScratch z (accSize f3) = true) : (rvLoad hk p c len f3 rd z m).hart hk =
    retired a.clk.elapsed ((a.hart hk).pc + BitVec.ofNat 64 len)
      (rvSet rd (loadExt f3 (leNat (scratchBytes (hk / 4) z (accSize f3) a))) (a.hart hk)) := by
  rw [rvLoad_scratch ha hz, hd.scratchBytes, hs.hart]
  exact ((hs.sameHart hi).retireReg ..).self

theorem rvStore_leaves (hc : rising m.cores = true) (ha : z.toNat % accSize f3 = 0) (hz : inScratch z (accSize f3) = true) :
    (rvStore hk p c len f3 z v m).hart hk = retired a.clk.elapsed ((a.hart hk).pc + BitVec.ofNat 64 len) (a.hart hk)
    ∧ (rvStore hk p c len f3 z v m).mem = m.mem
    ∧ ((rvStore hk p c len f3 z v m).core (hk / 4)).data = scratchPut z.toNat (natLe (accSize f3) v.toNat) (a.core (hk / 4)).data
    ∧ ∀ j, j ≠ hk / 4 → ((rvStore hk p c len f3 z v m).core j).data = (a.core j).data := by
  have hm : SameHart hk a m := hs.sameHart hi
  obtain ⟨⟨hh, hclk, hr⟩, hmem, hdata, ho⟩ := hartWrite_scratch (hk := hk) (p := p) (bs := natLe (accSize f3) v.toNat) hm.rising hc
    (by rwa [length_natLe])
  rw [rvStore_scratch ha hz, hs.hart]
  refine ⟨(SameHart.retire ⟨hh.trans hm.hart, hclk.trans hm.clk, hr⟩ _).self, hmem, hdata.trans (by rw [hd.data]), fun j hj => ?_⟩
  exact (congrArg Core.data (ho j hj)).trans (hd.data j)

theorem rvLr_leaves (ha : z.toNat % 8 = 0) (hz : inScratch z 8 = true) :
    ((rvAmo hk p c 2 true rd z v m).hart hk).resv = some (z.toNat, 8)
    ∧ ∀ j, ((rvAmo hk p c 2 true rd z v m).core j).data = (a.core j).data := by
  have hx := setHart_get m hk { m.hart hk with resv := some (z.toNat, 8) } (hs.sameHart hi (hk := hk)).rising
  rw [rvAmo_lr ha hz]
  refine ⟨?_, hd.data⟩
  rw [(SameHart.retireReg ⟨rfl, rfl, rising_nset (hs.sameHart hi (hk := hk)).rising⟩ rd _ _).self, hx]
  exact rvSet_resv ..

theorem rvSc_fails (ha : z.toNat % 8 = 0) (hz : inScratch z 8 = true) (hr : (a.hart hk).resv ≠ some (z.toNat, 8)) :
    (rvAmo hk p c 3 true rd z v m).hart hk = retired a.clk.elapsed ((a.hart hk).pc + 4) (rvSet rd 1 { a.hart hk with resv := none })
    ∧ ∀ j, ((rvAmo hk p c 3 true rd z v m).core j).data = (a.core j).data := by
  have hm : SameHart hk a m := hs.sameHart hi
  rw [rvAmo_sc ha hz, hs.hart, if_neg hr]
  exact ⟨retireReg_dropResv hm ⟨rfl, rfl, rising_nset hm.rising⟩ rd 1 _, hd.data⟩

theorem rvSc_stores (hc : rising m.cores = true) (ha : z.toNat % 8 = 0) (hz : inScratch z 8 = true)
    (hr : (a.hart hk).resv = some (z.toNat, 8)) :
    (rvAmo hk p c 3 true rd z v m).hart hk = retired a.clk.elapsed ((a.hart hk).pc + 4) (rvSet rd 0 { a.hart hk with resv := none })
    ∧ ((rvAmo hk p c 3 true rd z v m).core (hk / 4)).data = scratchPut z.toNat (natLe 8 v.toNat) (a.core (hk / 4)).data := by
  have hm : SameHart hk a m := hs.sameHart hi
  have hw := hartWrite_scratch (hk := hk) (p := p) (m := dropResv hk m) (bs := natLe 8 v.toNat) (rising_nset hm.rising) hc
    (by rwa [length_natLe])
  rw [rvAmo_sc ha hz, hs.hart, if_pos hr]
  exact ⟨retireReg_dropResv hm hw.hart rd 0 _, hw.data.trans (congrArg (scratchPut z.toNat _) (hd.data _))⟩

end

end Sys2Proof.Scope

section
open Sys2Proof Sys2Proof.Machine Sys2Proof.Scope

/-- Settles O11, by what each form leaves of its hart and of the data scratch. -/
theorem hartInstructionsWriteTheirDestination : Obligations.HartInstructionsWriteTheirDestination := by
  intro s core hart waits p c len i m0 hi hk h x ends next halts fetched sameData hiss hb
  refine ⟨fun hf => ?_, fun hf => ?_, rfl, fun _ => rfl⟩
  · have hs := seen_of_eff (eff_fetchNow hf)
    have hd := sameData_fetchNow hi hf
    have hc := rising_cores ((eff_fetchNow hf).keeps.inv hi)
    have he : exec (.hartInstruction core hart waits) s = done s (rvExec hk p c len i m0) :=
      (exec_hartInstruction hiss).trans (congrArg (done s) (hartStep_issued hb hf))
    have hm : SameHart hk s.m m0 := hs.sameHart hi
    have hh : m0.hart hk = h := hm.hart
    have hk4 : hk / 4 = core.val := hartKey_core core hart
    have hr : ∀ rd v pc, (retireReg hk rd v pc m0).hart hk = ends pc (rvSet rd v h) := fun rd v pc => (hm.retireReg rd v pc).self
    have hj : ∀ pc, (retire hk pc m0).hart hk = ends pc h := fun pc => (hm.retire pc).self
    refine completes_of_done he ⟨?_, ?_, ?_, ?_, ?_, ?_, ?_, ?_, ?_, ?_, ?_, ?_⟩
    · rintro rd v rfl
      simp only [rvExec, hh]
      exact hr ..
    · rintro rd v rfl
      simp only [rvExec, hh]
      exact hr ..
    · rintro rd v rfl
      simp only [rvExec, hh]
      exact hr ..
    · rintro rd r v rfl
      simp only [rvExec, hh]
      exact hr ..
    · rintro f3 r1 r2 v rfl
      simp only [rvExec, hh]
      exact hj _
    · rintro w op rd r v rfl
      simp only [rvExec, hh]
      exact hr ..
    · rintro w op rd r1 r2 rfl
      simp only [rvExec, hh]
      exact hr ..
    · rintro rfl
      simp only [rvExec, hh]
      exact hj _
    · rintro f3 rd r v rfl
      simp only [rvExec, hh]
      refine ⟨fun ha hz => ?_, fun ha => ?_⟩
      · rw [rvLoad_leaves hi hs hd ha hz, hk4]
        rfl
      · rw [rvLoad_misaligned ha]
        exact hartFault_leaves hi hs hd ..
    · rintro f3 r1 r2 v rfl
      simp only [rvExec, hh]
      refine ⟨fun ha hz => ?_, fun ha => ?_⟩
      · exact hk4 ▸ rvStore_leaves hi hs hd hc ha hz
      · rw [rvStore_misaligned ha]
        exact hartFault_leaves hi hs hd ..
    · rintro rd r1 r2 rfl ha hz
      simp only [rvExec, hh]
      exact rvLr_leaves hi hs hd ha hz
    · rintro rd r1 r2 rfl ha hz
      simp only [rvExec, hh]
      exact ⟨fun hv => hk4 ▸ rvSc_stores hi hs hd hc ha hz hv, rvSc_fails hi hs hd ha hz⟩
  · have hs := seen_of_eff (eff_fetchNow hf)
    have he : exec (.hartInstruction core hart waits) s = done s (hartFault hk p c h.pc m0) :=
      (exec_hartInstruction hiss).trans (congrArg (done s) (hartStep_issued hb hf))
    obtain ⟨hx, hd⟩ := hartFault_leaves (hk := hk) hi hs (sameData_fetchNow hi hf) p c h.pc
    exact completes_of_done he ⟨hx, hd, ((Laws.eff_hartFault ..).same .queues (by decide)).trans hs.queues⟩

end

/-! ### Engines of a class (O60) -/

namespace Sys2Proof.Scope
open Sys2Proof.Machine Sys2Proof.Laws

-- One proof after another: side by side, those of this section hold more memory than the check allows.
set_option Elab.async false

/-! #### What stands in two states of the hardware -/

section
variable {α β : Type} {f : Module → β} {a b c m : Module} {s : State}

/-- What `f` gives of the hardware stands in the second state as in the first. -/
def SameAt (f : Module → β) (a b : Module) : Prop := f b = f a

theorem SameAt.refl (a : Module) : SameAt f a a := rfl

theorem SameAt.trans (h : SameAt f a b) (k : SameAt f b c) : SameAt f a c := Eq.trans k h

theorem SameAt.ite {p : Prop} [Decidable p] (h : SameAt f a b) (k : SameAt f a c) : SameAt f a (if p then b else c) := by
  split <;> assumption

theorem SameAt.fold {g : Module → α → Module} {r : List α} (h : SameAt f a b) (hg : ∀ m x, SameAt f m (g m x)) :
    SameAt f a (r.foldl g b) := by
  induction r generalizing b with
  | nil => exact h
  | cons x r ih => exact ih (h.trans (hg b x))

/-- Where an outcome is a next state, `f` gives of its hardware what it gave before. -/
structure SameOut (f : Module → β) (s : State) (o : Out) : Prop where
  out : ∀ t, o = .next t → SameAt f s.m t.m

theorem SameOut.done (h : SameAt f s.m m) : SameOut f s (Machine.done s m) := ⟨by rintro t ⟨⟩; exact h⟩

theorem SameOut.stop {r : String} : SameOut f s (Machine.stop r) := ⟨by rintro t ⟨⟩⟩

end

section
variable {l : List Part} {a b m : Module} {j : Nat}

/-- A Gallery with its Balcony. -/
def pairAt (j : Nat) (m : Module) : Gal × Bal := (m.gal' j, m.bal' j)

theorem samePair_of_eff (h : Eff l a b) (hg : Part.gal ∉ l := by decide) (hb : Part.bal ∉ l := by decide) :
    SameAt (pairAt j) a b := by
  have h1 : b.gal = a.gal := h.same .gal hg
  have h2 : b.bal = a.bal := h.same .bal hb
  rw [SameAt, pairAt, pairAt, Module.gal', Module.bal', h1, h2]
  rfl

theorem sameRis_of_eff (h : Eff l a b) (hl : Part.ris ∉ l := by decide) : SameAt (·.ris' j) a b :=
  congrArg (nget Ris.init · j) (h.same .ris hl)

theorem sameWin_of_eff (h : Eff l a b) (hl : Part.win ∉ l := by decide) : SameAt (·.win' j) a b :=
  congrArg (nget Win.init · j) (h.same .win hl)

theorem sameLnd_of_eff (h : Eff l a b) (hl : Part.lnd ∉ l := by decide) : SameAt (·.lnd' j) a b :=
  congrArg (nget Lnd.init · j) (h.same .lnd hl)

theorem sameNwl_of_eff (h : Eff l a b) (hl : Part.nwl ∉ l := by decide) : SameAt (·.nwl' j) a b :=
  congrArg (nget Nwl.init · j) (h.same .nwl hl)

/-! #### Galleries and Balconies (R199, R221, R257) -/

variable {g : Nat}

theorem samePair_setGal (h : j ≠ g) (x : Gal) (m : Module) : SameAt (pairAt j) m (m.setGal g x) :=
  congrArg (·, m.bal' j) (setGal_get_ne m g x j h)

theorem samePair_setBal (h : j ≠ g) (x : Bal) (m : Module) : SameAt (pairAt j) m (m.setBal g x) :=
  congrArg (m.gal' j, ·) (setBal_get_ne m g x j h)

/-- What a Balcony's settling keeps: what its own updates and completions keep. -/
theorem SameAt.settleBal {β : Type} {f : Module → β} (hb : ∀ x m, SameAt f m (m.setBal g x))
    (hc : ∀ d err m, SameAt f m (complete 1 g d err m)) (m : Module) : SameAt f m (settleBal g m) := by
  unfold Machine.settleBal
  extract_lets x due m1 m2 x2
  have h2 : SameAt f m m2 := (hb _ m).fold fun _ _ => hc ..
  split
  · exact .ite (h2.trans ((hb _ m2).trans (hc ..))) h2
  · exact h2

theorem samePair_settleBal (h : j ≠ g) (m : Module) : SameAt (pairAt j) m (settleBal g m) :=
  .settleBal (samePair_setBal h) (fun _ _ _ => samePair_of_eff (eff_complete ..)) m

theorem samePair_balTurn (h : j ≠ g) (m : Module) : SameAt (pairAt j) m (balTurn g m) :=
  (samePair_of_eff (eff_passToCycle ..)).trans (samePair_settleBal h _)

theorem samePair_adpRefuse (h : j ≠ g) (code : Nat) (d : Desc) (m : Module) : SameAt (pairAt j) m (adpRefuse g code d m) :=
  (samePair_of_eff (eff_passToCycle ..)).trans ((samePair_settleBal h _).trans
    ((samePair_setBal h _ _).trans (samePair_of_eff (eff_bodyRefused ..))))

theorem samePair_downEnd (h : j ≠ g) (o : BalOp) (m : Module) : SameAt (pairAt j) m (downEnd g o m) :=
  (samePair_setBal h _ m).trans (samePair_settleBal h _)

theorem samePair_downRefuse (h : j ≠ g) (code : Nat) (o : BalOp) (m : Module) : SameAt (pairAt j) m (downRefuse g code o m) :=
  (samePair_setBal h _ m).trans ((samePair_of_eff (eff_ev ..)).trans (samePair_downEnd h o _))

theorem samePair_galRefuse (h : j ≠ g) (code : Nat) (d : Desc) (m : Module) : SameAt (pairAt j) m (galRefuse g code d m) :=
  (samePair_setGal h _ m).trans (samePair_of_eff (eff_bodyRefused ..))

theorem samePair_galEcc (h : j ≠ g) (d : Desc) (hits : List EccHit) (m : Module) : SameAt (pairAt j) m (galEcc d g hits m) :=
  (samePair_setGal h _ m).trans (samePair_of_eff (eff_eccEvents ..))

theorem samePair_balEcc (h : j ≠ g) (d : Desc) (hits : List EccHit) (m : Module) : SameAt (pairAt j) m (balEcc d g hits m) :=
  (samePair_setBal h _ m).trans (samePair_of_eff (eff_eccEvents ..))

/-- A unit is neither the one named nor the second member of its pair. -/
structure Away (g j : Nat) : Prop where
  self : j ≠ g
  partner : g % 2 = 0 → j ≠ g + 1

theorem SameAt.eccBoth {β : Type} {f : Module → β} {p : Nat} {hits : List EccHit} {F : Nat → List EccHit → Module → Module}
    (ha : Away g j) (hf : ∀ u, j ≠ u → ∀ hits m, SameAt f m (F u hits m)) : SameAt f m (eccBoth p g hits F m) := by
  unfold Machine.eccBoth
  extract_lets m1
  have h1 : SameAt f m m1 := hf g ha.self ..
  split
  next h =>
    simp only [Bool.and_eq_true, decide_eq_true_eq] at h
    exact h1.trans (hf (g + 1) (ha.partner h.2) _ _)
  next => exact h1

theorem samePair_lockstep (ha : Away g j) (p : Nat) (m0 m : Module) : SameAt (pairAt j) m (lockstep g p m0 m) := by
  unfold lockstep
  extract_lets e e0 b b0 x y m1
  split
  next h =>
    simp only [Bool.and_eq_true, decide_eq_true_eq] at h
    exact (samePair_setGal (ha.partner h.2) _ m).trans (samePair_setBal (ha.partner h.2) _ _)
  next => exact .refl m

theorem samePair_galTurn (h : j ≠ g) (ht : galTurn g m = some a) : SameAt (pairAt j) m a := by
  unfold galTurn at ht
  extract_lets m1 at ht
  split at ht
  · cases ht
  · rw [← Option.some.inj ht]
    exact (samePair_of_eff (eff_passToCycle ..)).trans (samePair_settleBal h _)

theorem samePair_tap (ha : Away g j) (d : Desc) (kd c kt : Nat) (int : Bool) (row0 n stalls doneC : Nat) (ecc : List EccHit)
    (rows : List ActRow) (m : Module) : SameAt (pairAt j) m (tap g d kd c kt int row0 n stalls doneC ecc rows m) := by
  unfold tap
  extract_lets x
  split
  · exact .refl m
  next o _ =>
    split
    · exact .refl m
    split
    · exact (samePair_setBal ha.self _ m).trans ((samePair_of_eff (eff_ev ..)).trans (samePair_downEnd ha.self o _))
    split
    · exact samePair_downRefuse ha.self ..
    have hr := samePair_of_eff (j := j) (eff_hallRead (g / 32) d.part (gaOff (o.desc.a 24)) n m)
    split
    next tags m1 e =>
    rw [e] at hr
    extract_lets x1 x2 m2
    have h2 : SameAt (pairAt j) m m2 := hr.trans (samePair_setBal ha.self _ m1)
    split
    next => exact h2.trans (samePair_downRefuse ha.self ..)
    next m3 x3 _ _ _ =>
      have h3 : SameAt (pairAt j) m m3 := h2.trans (.eccBoth ha fun u hu => samePair_balEcc hu _)
      have hs := samePair_of_eff (j := j) (eff_slotStations (g / 32) d.part kd kt int x3 m3)
      split
      next sts sl m4 e4 =>
      rw [e4] at hs
      exact (h3.trans hs).trans (samePair_setBal ha.self _ m4)

theorem samePair_mmStart (ha : Away g j) (d : Desc) (stalls : List Nat) (kd c : Nat) (int : Bool) (ecc balHits : List EccHit)
    (m : Module) : SameAt (pairAt j) m (mmStart g d stalls kd c int ecc balHits m) := by
  unfold mmStart
  extract_lets w kt k row0
  have hr := samePair_of_eff (j := j) (eff_actRows w d kd m)
  split
  next acts m1 e1 =>
  rw [e1] at hr
  have hs := samePair_of_eff (j := j) (eff_mmStation w d kd int m1)
  split
  next st last m2 e2 =>
  rw [e2] at hs
  extract_lets x u chk
  split
  extract_lets x1
  split
  extract_lets op rdBusy m3
  have h3 : SameAt (pairAt j) m m3 := (hr.trans hs).trans (samePair_setGal ha.self _ m2)
  exact h3.trans ((samePair_of_eff (eff_hallLost ..)).trans ((samePair_of_eff (eff_addPGal ..)).trans (samePair_tap ha ..)))

theorem samePair_accStart (h : j ≠ g) (d : Desc) (load : Bool) (x : Gal) (m : Module) :
    SameAt (pairAt j) m (accStart g d load x m) :=
  (samePair_setGal h _ m).trans (samePair_of_eff (eff_addPGal ..))

theorem samePair_checkOne (h : j ≠ g) (d : Desc) (row grp : Nat) (v : ChkCell × W64) (m : Module) :
    SameAt (pairAt j) m (checkOne g d row grp v m) := by
  unfold checkOne
  extract_lets x
  split
  · exact samePair_setGal h _ m
  · exact (samePair_setGal h _ m).trans (samePair_of_eff (eff_compared ..))
  · exact (samePair_setGal h _ m).trans ((samePair_of_eff (eff_compared ..)).trans (samePair_of_eff (eff_mismatch ..)))

theorem samePair_writeRead (h : j ≠ g) (o : GalOp) (fs : List CellFault) (rows : List (Nat × List W64)) (m : Module) :
    SameAt (pairAt j) m (writeRead g o fs rows m) :=
  (SameAt.refl m).fold fun _ _ => (samePair_setGal h ..).trans (samePair_of_eff (eff_hallWrite ..))

theorem samePair_upStart (h : j ≠ g) (d : Desc) (stalls : List Nat) (kd c : Nat) (int : Bool) (ecc : List EccHit) (rows : List Nat)
    (m : Module) : SameAt (pairAt j) m (upStart g d stalls kd c int ecc rows m).2 := by
  unfold upStart
  extract_lets kt n w
  have hr := samePair_of_eff (j := j) (eff_readRows w d.part (d.a 16) (d.f 32 4) (spLen (d.b 47) (n * kd)) kt m)
  split
  next tiles m1 e1 =>
  rw [e1] at hr
  have hs : SameAt (pairAt j) m1
      (if spMx (d.b 47) then readRows w d.part (d.a 24) 2048 (n * (kd / 32)) kt m1 else ([], m1)).2 := by
    split
    · exact samePair_of_eff (eff_readRows ..)
    · exact .refl m1
  split
  next scales m2 e2 =>
  rw [e2] at hs
  exact (hr.trans hs).trans ((samePair_of_eff (eff_hallLost ..)).trans ((samePair_setGal h ..).trans
    ((samePair_of_eff (eff_addPGal ..)).trans (samePair_setBal h ..))))

theorem samePair_scrWrite (h : j ≠ g) (x : Bal) (d : Desc) (rows : List Nat) (m : Module) :
    SameAt (pairAt j) m (scrWrite g x d rows m) :=
  (SameAt.refl m).fold fun _ _ => (samePair_setBal h ..).trans (samePair_of_eff (eff_hallWrite ..))

end

section
variable {g : Fin 64} {j : Nat} (ha : Away g j) (s : State)
include ha

theorem sameOut_execMatmul (stalls : List Nat) (ecc bHits : List EccHit) (errs : List MemErr) :
    SameOut (pairAt j) s (execMatmul g stalls ecc bHits errs s) := by
  unfold execMatmul
  extract_lets m1
  split
  · exact .stop
  next k d _ =>
  extract_lets m2
  have h2 : SameAt (pairAt j) s.m m2 := (samePair_settleBal ha.self s.m).trans (samePair_of_eff (eff_dequeue ..))
  split
  · exact .done (h2.trans (samePair_galRefuse ha.self ..))
  · exact .done (h2.trans (samePair_galRefuse ha.self ..))
  split
  · exact .stop
  next m3 ht =>
  have h3 : SameAt (pairAt j) s.m (memErrs d.part errs (descStart 0 g d m3)) :=
    (h2.trans (samePair_galTurn ha.self ht)).trans
      ((samePair_of_eff (eff_descStart ..)).trans (samePair_of_eff (eff_memErrs ..)))
  exact .done (h3.trans ((SameAt.eccBoth ha fun u hu => samePair_galEcc hu d).trans
    ((samePair_mmStart ha ..).trans (samePair_lockstep ha ..))))

theorem sameOut_execAccLoad (errs : List MemErr) : SameOut (pairAt j) s (execAccLoad g errs s) := by
  unfold execAccLoad
  extract_lets m1
  split
  · exact .stop
  next k d _ =>
  extract_lets m2
  have h2 : SameAt (pairAt j) s.m m2 := (samePair_settleBal ha.self s.m).trans (samePair_of_eff (eff_dequeue ..))
  split
  · exact .done (h2.trans (samePair_galRefuse ha.self ..))
  split
  · exact .stop
  next m3 ht =>
  extract_lets m4
  have h4 : SameAt (pairAt j) s.m m4 := (h2.trans (samePair_galTurn ha.self ht)).trans
    ((samePair_of_eff (eff_descStart ..)).trans (samePair_of_eff (eff_memErrs ..)))
  have hr := samePair_of_eff (j := j) (eff_readRows (g / 32) d.part (d.a 16) (d.f 24 4) (spLen (d.b 32) (accN d)) (accM d) m4)
  split
  next rows m5 e =>
  rw [e] at hr
  exact .done ((h4.trans hr).trans ((samePair_accStart ha.self ..).trans (samePair_lockstep ha ..)))

theorem sameOut_execAccRead : SameOut (pairAt j) s (execAccRead g s) := by
  unfold execAccRead
  extract_lets m1
  split
  · exact .stop
  next k d _ =>
  extract_lets m2
  have h2 : SameAt (pairAt j) s.m m2 := (samePair_settleBal ha.self s.m).trans (samePair_of_eff (eff_dequeue ..))
  split
  · exact .done (h2.trans (samePair_galRefuse ha.self ..))
  split
  · exact .stop
  next m3 ht =>
  exact .done ((h2.trans (samePair_galTurn ha.self ht)).trans ((samePair_of_eff (eff_descStart ..)).trans
    ((samePair_accStart ha.self ..).trans (samePair_lockstep ha ..))))

theorem sameOut_execGalReadout (faults : List CellFault) (diff : Bool) (ecc : List EccHit) :
    SameOut (pairAt j) s (execGalReadout g faults diff ecc s) := by
  unfold execGalReadout
  split
  · exact .stop
  next o _ =>
  extract_lets m0 m1 x cells m2 at_ rows m3 m4
  have h3 : SameAt (pairAt j) s.m m3 :=
    (samePair_of_eff (eff_passToCycle ..)).trans ((samePair_settleBal ha.self _).trans ((samePair_of_eff (eff_passToCycle ..)).trans
      ((SameAt.eccBoth ha fun u hu => samePair_galEcc hu _).trans ((samePair_setGal ha.self _ m1).trans
        ((samePair_writeRead ha.self ..).trans (samePair_lockstep ha ..))))))
  refine .done (.ite h3 (.ite (h3.trans (samePair_of_eff (eff_comparePair ..))) (h3.fold fun _ _ => samePair_checkOne ha.self ..)))

theorem sameOut_execGalComplete : SameOut (pairAt j) s (execGalComplete g s) := by
  unfold execGalComplete
  split
  · exact .stop
  split
  · exact .stop
  · exact .done ((samePair_of_eff (eff_passToCycle ..)).trans ((samePair_settleBal ha.self _).trans
      ((samePair_setGal ha.self ..).trans (samePair_of_eff (eff_complete ..)))))

theorem sameOut_execGalCntClr : SameOut (pairAt j) s (execGalCntClr g s) := .done (samePair_setGal ha.self ..)

theorem sameOut_execSlots : SameOut (pairAt j) s (execSlots g s) := by
  unfold execSlots
  extract_lets m1
  have h1 : SameAt (pairAt j) s.m m1 := (samePair_settleBal ha.self s.m).trans (samePair_balTurn ha.self _)
  split
  · exact .stop
  next k d _ =>
  extract_lets m2
  have h2 : SameAt (pairAt j) s.m m2 := h1.trans (samePair_of_eff (eff_dequeue ..))
  split
  · exact .done (h2.trans (samePair_adpRefuse ha.self ..))
  · exact .done (h2.trans ((samePair_of_eff (eff_descStart ..)).trans ((samePair_of_eff (eff_passToCycle ..)).trans
      ((samePair_settleBal ha.self _).trans ((samePair_setBal ha.self ..).trans ((samePair_lockstep ha ..).trans
        (samePair_of_eff (eff_complete ..))))))))

theorem sameOut_execDown : SameOut (pairAt j) s (execDown g s) := by
  unfold execDown
  extract_lets m1
  have h1 : SameAt (pairAt j) s.m m1 := (samePair_settleBal ha.self s.m).trans (samePair_balTurn ha.self _)
  split
  · exact .stop
  next k d _ =>
  extract_lets m2
  have h2 : SameAt (pairAt j) s.m m2 := h1.trans (samePair_of_eff (eff_dequeue ..))
  split
  · exact .done (h2.trans (samePair_adpRefuse ha.self ..))
  · exact .done (h2.trans ((samePair_of_eff (eff_descStart ..)).trans (samePair_setBal ha.self ..)))

theorem sameOut_execUp (stalls : List Nat) (diff : Bool) (ecc : List EccHit) (errs : List MemErr) :
    SameOut (pairAt j) s (execUp g stalls diff ecc errs s) := by
  unfold execUp
  extract_lets m1
  have h1 : SameAt (pairAt j) s.m m1 := (samePair_settleBal ha.self s.m).trans (samePair_balTurn ha.self _)
  split
  · exact .stop
  next k d _ =>
  extract_lets m2
  have h2 : SameAt (pairAt j) s.m m2 := h1.trans (samePair_of_eff (eff_dequeue ..))
  split
  · exact .done (h2.trans (samePair_adpRefuse ha.self ..))
  · exact .done (h2.trans (samePair_adpRefuse ha.self ..))
  next m3 m4 x rows u _ _ kd c int _ _ =>
  have h3 : SameAt (pairAt j) m2 m3 := (samePair_of_eff (eff_passToCycle ..)).trans (samePair_settleBal ha.self _)
  have h4 : SameAt (pairAt j) s.m m4 := (h2.trans h3).trans
    ((samePair_of_eff (eff_descStart ..)).trans ((samePair_of_eff (eff_memErrs ..)).trans
      (SameAt.eccBoth ha fun u hu => samePair_balEcc hu d)))
  split
  · exact .done (h4.trans ((samePair_setBal ha.self ..).trans (samePair_settleBal ha.self _)))
  · extract_lets r m5
    have h5 : SameAt (pairAt j) s.m m5 := h4.trans ((samePair_upStart ha.self ..).trans (samePair_lockstep ha ..))
    exact .done (.ite (h5.trans (samePair_of_eff (eff_comparePair ..))) h5)

theorem sameOut_execUpComplete : SameOut (pairAt j) s (execUpComplete g s) := by
  unfold execUpComplete
  split
  · exact .stop
  · exact .done ((samePair_of_eff (eff_passToCycle ..)).trans (samePair_settleBal ha.self _))

theorem sameOut_execScrRead (diff : Bool) (ecc : List EccHit) : SameOut (pairAt j) s (execScrRead g diff ecc s) := by
  unfold execScrRead
  extract_lets m1
  have h1 : SameAt (pairAt j) s.m m1 := (samePair_settleBal ha.self s.m).trans (samePair_balTurn ha.self _)
  split
  · exact .stop
  next k d _ =>
  extract_lets m2
  have h2 : SameAt (pairAt j) s.m m2 := h1.trans (samePair_of_eff (eff_dequeue ..))
  split
  · exact .done (h2.trans (samePair_adpRefuse ha.self ..))
  next m3 x rows m4 m5 m6 m7 _ _ _ =>
  have h5 : SameAt (pairAt j) s.m m5 :=
    h2.trans ((samePair_of_eff (eff_descStart ..)).trans ((SameAt.eccBoth ha fun u hu => samePair_balEcc hu d).trans
      ((samePair_of_eff (eff_passToCycle ..)).trans ((samePair_settleBal ha.self _).trans (samePair_scrWrite ha.self ..)))))
  have h6 : SameAt (pairAt j) s.m m6 := .ite h5 (h5.trans (samePair_of_eff (eff_hallWrite ..)))
  have h7 : SameAt (pairAt j) s.m m7 := h6.trans (samePair_lockstep ha ..)
  exact .done ((SameAt.ite (h7.trans (samePair_of_eff (eff_comparePair ..))) h7).trans (samePair_of_eff (eff_complete ..)))

theorem sameOut_execAdpCntClr : SameOut (pairAt j) s (execAdpCntClr g s) := .done (samePair_setBal ha.self ..)

end

/-! #### Risers (R283, R295, R299) -/

section
variable {j : Nat} {m : Module}

theorem sameRis_setRis {r : Nat} (h : j ≠ r) (x : Ris) (m : Module) : SameAt (·.ris' j) m (m.setRis r x) := setRis_get_ne m r x j h

theorem sameRis_risLockstep {r : Nat} (ha : Away r j) (p : Nat) (m0 m : Module) : SameAt (·.ris' j) m (risLockstep r p m0 m) := by
  unfold risLockstep
  extract_lets e e0 x
  split
  next h =>
    simp only [Bool.and_eq_true, decide_eq_true_eq] at h
    exact sameRis_setRis (ha.partner h.2) _ m
  next => exact .refl m

theorem sameRis_cvStart {r : Nat} (h : j ≠ r) (d : Desc) (hallStalls nwlStalls : Nat) (m : Module) :
    SameAt (·.ris' j) m (cvStart r d hallStalls nwlStalls m) := by
  unfold cvStart
  extract_lets w sr m1
  have h1 : SameAt (·.ris' j) m m1 := .ite (sameRis_setRis h _ m) (.refl m)
  have hr := sameRis_of_eff (j := j) (eff_cvRun r d (seedOf m1 w d.part (nfld (d.f 100 1) 0 3)) (stepComp m1 w d.part) m1)
  split
  next cyc ns _ es m2 e =>
  rw [e] at hr
  extract_lets u c0 gr nst m3 x op
  have h3 : SameAt (·.ris' j) m2 m3 := .ite (sameRis_of_eff (eff_nwlCount ..)) (.refl m2)
  exact (h1.trans (hr.trans h3)).trans ((sameRis_of_eff (eff_hallLost ..)).trans (sameRis_setRis h ..))

theorem sameRis_streamAdd {r : Nat} (h : j ≠ r) (o : EngOp) (m : Module) : SameAt (·.ris' j) m (streamAdd r o m) := by
  unfold streamAdd
  extract_lets x t t' m1
  have h1 : SameAt (·.ris' j) m m1 := sameRis_setRis h _ m
  exact .ite (h1.trans (sameRis_of_eff (eff_ev ..))) h1

theorem sameOut_execConvert {r : Fin 8} (ha : Away r j) (hs ns : Nat) (ecc : List EccHit) (errs : List MemErr) (s : State) :
    SameOut (·.ris' j) s (execConvert r hs ns ecc errs s) := by
  unfold execConvert
  split
  · exact .stop
  split
  · exact .stop
  next k d _ =>
  extract_lets m0
  have h0 : SameAt (·.ris' j) s.m m0 := sameRis_of_eff (eff_dequeue ..)
  split
  · exact .done (h0.trans ((sameRis_setRis ha.self ..).trans (sameRis_of_eff (eff_bodyRefused ..))))
  next w m1 _ _ =>
  have h1 : SameAt (·.ris' j) s.m m1 := h0.trans (.ite (sameRis_of_eff (eff_nwlEcc ..)) (.refl m0))
  split
  · exact .done (h1.trans ((sameRis_of_eff (eff_refuseDraw ..)).trans (sameRis_of_eff (eff_complete ..))))
  · exact .done (h1.trans ((sameRis_of_eff (eff_descStart ..)).trans ((sameRis_of_eff (eff_memErrs ..)).trans
      ((sameRis_cvStart ha.self ..).trans (sameRis_risLockstep ha ..)))))

theorem sameOut_execRisComplete {r : Fin 8} (ha : Away r j) (diff : Bool) (s : State) :
    SameOut (·.ris' j) s (execRisComplete r diff s) := by
  unfold execRisComplete
  split
  · exact .stop
  next o _ =>
  extract_lets m0 m1 x m2 m3 n m4
  have h3 : SameAt (·.ris' j) s.m m3 := (sameRis_of_eff (eff_passToCycle ..)).trans ((sameRis_streamAdd ha.self ..).trans
    ((sameRis_setRis ha.self _ m1).trans (sameRis_risLockstep ha o.desc.part m0 m2)))
  exact .done ((SameAt.ite (h3.trans (sameRis_of_eff (eff_comparePair ..))) h3).trans (sameRis_of_eff (eff_complete ..)))

theorem sameOut_execStreamClear {r : Fin 8} (h : j ≠ r) (set : Fin 16) (s : State) :
    SameOut (·.ris' j) s (execStreamClear r set s) := .done (sameRis_setRis h ..)

theorem sameOut_execRisCntClr {r : Fin 8} (h : j ≠ r) (s : State) : SameOut (·.ris' j) s (execRisCntClr r s) :=
  .done (sameRis_setRis h ..)

theorem sameOut_execRisClearStreamSets {r : Fin 8} (h : j ≠ r) (s : State) : SameOut (·.ris' j) s (execRisClearStreamSets r s) :=
  .done (sameRis_setRis h ..)

/-! #### Winders (R293, R302) -/

theorem sameWin_setWin {w : Nat} (h : j ≠ w) (x : Win) (m : Module) : SameAt (·.win' j) m (m.setWin w x) := setWin_get_ne m w x j h

theorem sameWin_wnStart {w : Nat} (h : j ≠ w) (d : Desc) (hallStalls nwlStalls : Nat) (ecc : List EccHit) (m : Module) :
    SameAt (·.win' j) m (wnStart w d hallStalls nwlStalls ecc m) := by
  unfold wnStart
  extract_lets g
  have hr := sameWin_of_eff (j := j) (eff_winRun w d (seedOf m g d.part (nfld (d.f 63 1) 0 3)) ecc m)
  split
  next cyc ns _ clip nan sp seg m2 e =>
  rw [e] at hr
  extract_lets u c0 gr nst m3 x op
  have h3 : SameAt (·.win' j) m2 m3 := .ite (sameWin_of_eff (eff_nwlCount ..)) (.refl m2)
  exact (hr.trans h3).trans ((sameWin_of_eff (eff_hallLost ..)).trans (sameWin_setWin h ..))

theorem sameOut_execTransform {w : Fin 4} (h : j ≠ w) (hs ns : Nat) (ecc seedEcc : List EccHit) (errs : List MemErr) (s : State) :
    SameOut (·.win' j) s (execTransform w hs ns ecc seedEcc errs s) := by
  unfold execTransform
  split
  · exact .stop
  split
  · exact .stop
  next k d _ =>
  extract_lets m0
  have h0 : SameAt (·.win' j) s.m m0 := sameWin_of_eff (eff_dequeue ..)
  split
  · exact .done (h0.trans ((sameWin_setWin h ..).trans (sameWin_of_eff (eff_bodyRefused ..))))
  next g m1 _ _ =>
  have h1 : SameAt (·.win' j) s.m m1 := h0.trans (.ite (sameWin_of_eff (eff_nwlEcc ..)) (.refl m0))
  split
  · exact .done (h1.trans ((sameWin_of_eff (eff_refuseDraw ..)).trans (sameWin_of_eff (eff_complete ..))))
  · exact .done (h1.trans ((sameWin_of_eff (eff_descStart ..)).trans ((sameWin_of_eff (eff_memErrs ..)).trans
      ((sameWin_setWin h ..).trans ((sameWin_of_eff (eff_eccEvents ..)).trans (sameWin_wnStart h ..))))))

theorem sameOut_execWinComplete {w : Fin 4} (h : j ≠ w) (s : State) : SameOut (·.win' j) s (execWinComplete w s) := by
  unfold execWinComplete
  split
  · exact .stop
  · exact .done ((sameWin_of_eff (eff_passToCycle ..)).trans ((sameWin_setWin h ..).trans (sameWin_of_eff (eff_complete ..))))

theorem sameOut_execWinCntClr {w : Fin 4} (h : j ≠ w) (s : State) : SameOut (·.win' j) s (execWinCntClr w s) :=
  .done (sameWin_setWin h ..)

/-! #### Landings (R319, R321, R340) -/

theorem sameLnd_setLnd {u : Nat} (h : j ≠ u) (x : Lnd) (m : Module) : SameAt (·.lnd' j) m (m.setLnd u x) := setLnd_get_ne m u x j h

theorem sameLnd_lndRefuse {u : Nat} (h : j ≠ u) (code : Nat) (d : Desc) (m : Module) : SameAt (·.lnd' j) m (lndRefuse u code d m) :=
  (sameLnd_setLnd h _ m).trans (sameLnd_of_eff (eff_bodyRefused ..))

theorem sameLnd_lndEcc {u : Nat} (h : j ≠ u) (d : Desc) (hits : List EccHit) (m : Module) :
    SameAt (·.lnd' j) m (lndEcc d u hits m) :=
  (sameLnd_setLnd h _ m).trans (sameLnd_of_eff (eff_eccEvents ..))

theorem sameLnd_lndLockstep {u : Nat} (ha : Away u j) (p : Nat) (m0 m : Module) : SameAt (·.lnd' j) m (lndLockstep u p m0 m) := by
  unfold lndLockstep
  extract_lets e e0 x
  split
  next h =>
    simp only [Bool.and_eq_true, decide_eq_true_eq] at h
    exact sameLnd_setLnd (ha.partner h.2) _ m
  next => exact .refl m

theorem sameLnd_rnStart {u : Nat} (h : j ≠ u) (d : Desc) (secs : List (List LOp)) (draws : Bool) (hallStalls nwlStalls : Nat)
    (ecc : List EccHit) (m : Module) : SameAt (·.lnd' j) m (rnStart u d secs draws hallStalls nwlStalls ecc m) := by
  unfold rnStart
  extract_lets w x c ns t0 r nst m1 op y
  have hr : SameAt (·.lnd' j) m r.m := sameLnd_of_eff (l := memParts) (Eff.after (eff_runAll ..) (by decide) (.refl m))
  have h1 : SameAt (·.lnd' j) r.m m1 := .ite (sameLnd_of_eff (eff_nwlCount ..)) (.refl r.m)
  exact (hr.trans h1).trans ((sameLnd_of_eff (eff_hallLost ..)).trans ((sameLnd_setLnd h ..).trans (sameLnd_of_eff (eff_addPLnd ..))))

theorem sameOut_execRun {u : Fin 16} (ha : Away u j) (hs ns : Nat) (ecc seedEcc : List EccHit) (errs : List MemErr) (s : State) :
    SameOut (·.lnd' j) s (execRun u hs ns ecc seedEcc errs s) := by
  unfold execRun
  split
  · exact .stop
  split
  · exact .stop
  next k d _ =>
  extract_lets m0
  have h0 : SameAt (·.lnd' j) s.m m0 := sameLnd_of_eff (eff_dequeue ..)
  split
  · exact .done (h0.trans (sameLnd_lndRefuse ha.self ..))
  next w _ _ =>
  have h1 : SameAt (·.lnd' j) s.m (memErrs d.part errs (descStart 2 u d m0)) :=
    h0.trans ((sameLnd_of_eff (eff_descStart ..)).trans (sameLnd_of_eff (eff_memErrs ..)))
  have hr := sameLnd_of_eff (j := j)
    (eff_hallRead w d.part (gaOff (d.a 16)) (8 * rnProg d) (memErrs d.part errs (descStart 2 u d m0)))
  split
  next prog m2 e =>
  rw [e] at hr
  split
  · exact .done ((h1.trans hr).trans (sameLnd_lndRefuse ha.self ..))
  extract_lets draws m3
  have h3 : SameAt (·.lnd' j) s.m m3 := (h1.trans hr).trans (.ite (sameLnd_of_eff (eff_nwlEcc ..)) (.refl m2))
  split
  · exact .done (h3.trans ((sameLnd_of_eff (eff_refuseDraw ..)).trans (sameLnd_of_eff (eff_complete ..))))
  · exact .done (h3.trans ((SameAt.eccBoth ha fun v hv => sameLnd_lndEcc hv d).trans
      ((sameLnd_rnStart ha.self ..).trans (sameLnd_lndLockstep ha ..))))

theorem sameOut_execLndComplete {u : Fin 16} (ha : Away u j) (diff : Bool) (s : State) :
    SameOut (·.lnd' j) s (execLndComplete u diff s) := by
  unfold execLndComplete
  split
  · exact .stop
  next o _ =>
  extract_lets m0 x m1 m2 m3
  have h2 : SameAt (·.lnd' j) s.m m2 := (sameLnd_of_eff (eff_passToCycle ..)).trans
    ((sameLnd_setLnd ha.self _ m0).trans (sameLnd_lndLockstep ha ..))
  exact .done ((SameAt.ite (h2.trans (sameLnd_of_eff (eff_comparePair ..))) h2).trans (sameLnd_of_eff (eff_complete ..)))

theorem sameOut_execLndCntClr {u : Fin 16} (h : j ≠ u) (s : State) : SameOut (·.lnd' j) s (execLndCntClr u s) :=
  .done (sameLnd_setLnd h ..)

/-! #### Newels (R336, R342) -/

theorem sameNwl_setNwl {n : Nat} (h : j ≠ n) (x : Nwl) (m : Module) : SameAt (·.nwl' j) m (m.setNwl n x) := setNwl_get_ne m n x j h

theorem sameNwl_nwlEcc {n : Nat} (h : j ≠ n) (d : Desc) (hits : List EccHit) (m : Module) :
    SameAt (·.nwl' j) m (nwlEcc n d hits m) :=
  ((SameAt.refl m).fold fun _ _ => (sameNwl_setNwl h ..).trans (sameNwl_of_eff (eff_evS ..))).fold fun _ _ =>
    (sameNwl_setNwl h ..).trans (sameNwl_of_eff (eff_evS ..))

theorem sameOut_execGen {n : Fin 2} (h : j ≠ n) (misses : Nat) (ecc : List EccHit) (s : State) :
    SameOut (·.nwl' j) s (execGen n misses ecc s) := by
  unfold execGen
  split
  · exact .stop
  next k d _ =>
  extract_lets m1
  have h1 : SameAt (·.nwl' j) s.m m1 := (sameNwl_of_eff (eff_dequeue ..)).trans
    ((sameNwl_nwlEcc h ..).trans (sameNwl_setNwl h ..))
  split
  · exact .done (h1.trans ((sameNwl_setNwl h ..).trans (sameNwl_of_eff (eff_bodyRefused ..))))
  · exact .done (h1.trans ((sameNwl_of_eff (eff_descStart ..)).trans ((sameNwl_of_eff (eff_hallWrite ..)).trans
      ((sameNwl_setNwl h ..).trans (sameNwl_setNwl h ..)))))

theorem sameOut_execGenComplete {n : Fin 2} (h : j ≠ n) (s : State) : SameOut (·.nwl' j) s (execGenComplete n s) := by
  unfold execGenComplete
  split
  · exact .stop
  · exact .done ((sameNwl_of_eff (eff_passToCycle ..)).trans ((sameNwl_setNwl h ..).trans (sameNwl_of_eff (eff_complete ..))))

theorem sameOut_execNwlCntClr {n : Fin 2} (h : j ≠ n) (s : State) : SameOut (·.nwl' j) s (execNwlCntClr n s) :=
  .done (sameNwl_setNwl h ..)

end

end Sys2Proof.Scope

section
open Sys2Proof Sys2Proof.Machine Sys2Proof.Scope

/-- Settles O60: each command's effect on its class is a chain of updates of its own engine and, of an even one, of its pair's second
member. -/
theorem enginesOfAClassAreSeparate : Obligations.EnginesOfAClassAreSeparate := by
  intro s t _
  refine ⟨fun g c hc h j hj hp => ?_, fun r c hc h j hj hp => ?_, fun w c hc h j hj => ?_, fun l c hc h j hj hp => ?_,
    fun n c hc h j hj => ?_⟩
  · have ha : Away g j := ⟨hj, hp⟩
    suffices hs : SameAt (pairAt j) s.m t.m from Prod.ext_iff.1 hs
    obtain ⟨a, b, e, i, rfl⟩ | ⟨a, rfl⟩ | rfl | ⟨a, b, e, rfl⟩ | rfl | rfl | rfl | rfl | ⟨a, b, e, i, rfl⟩ | rfl | ⟨a, b, rfl⟩ | rfl := hc
    · exact (sameOut_execMatmul ha s a b e i).out t h
    · exact (sameOut_execAccLoad ha s a).out t h
    · exact (sameOut_execAccRead ha s).out t h
    · exact (sameOut_execGalReadout ha s a b e).out t h
    · exact (sameOut_execGalComplete ha s).out t h
    · exact (sameOut_execGalCntClr ha s).out t h
    · exact (sameOut_execSlots ha s).out t h
    · exact (sameOut_execDown ha s).out t h
    · exact (sameOut_execUp ha s a b e i).out t h
    · exact (sameOut_execUpComplete ha s).out t h
    · exact (sameOut_execScrRead ha s a b).out t h
    · exact (sameOut_execAdpCntClr ha s).out t h
  · have ha : Away r j := ⟨hj, hp⟩
    obtain ⟨a, b, e, i, rfl⟩ | ⟨a, rfl⟩ | ⟨a, rfl⟩ | rfl | rfl := hc
    · exact (sameOut_execConvert ha a b e i s).out t h
    · exact (sameOut_execRisComplete ha a s).out t h
    · exact (sameOut_execStreamClear hj a s).out t h
    · exact (sameOut_execRisCntClr hj s).out t h
    · exact (sameOut_execRisClearStreamSets hj s).out t h
  · obtain ⟨a, b, e, i, k, rfl⟩ | rfl | rfl := hc
    · exact (sameOut_execTransform hj a b e i k s).out t h
    · exact (sameOut_execWinComplete hj s).out t h
    · exact (sameOut_execWinCntClr hj s).out t h
  · have ha : Away l j := ⟨hj, hp⟩
    obtain ⟨a, b, e, i, k, rfl⟩ | ⟨a, rfl⟩ | rfl := hc
    · exact (sameOut_execRun ha a b e i k s).out t h
    · exact (sameOut_execLndComplete ha a s).out t h
    · exact (sameOut_execLndCntClr hj s).out t h
  · obtain ⟨a, b, rfl⟩ | rfl | rfl := hc
    · exact (sameOut_execGen hj a b s).out t h
    · exact (sameOut_execGenComplete hj s).out t h
    · exact (sameOut_execNwlCntClr hj s).out t h

end

/-! ### Refused descriptors (O14) -/

namespace Sys2Proof.Scope
open Sys2Proof.Machine Sys2Proof.Laws

variable {s : State} {a b m : Module} {l : List Part} {k : QKey} {d : Desc}

/-! #### The canonical maps of the engines -/

theorem inv_engines (h : m.Inv) :
    rising m.gal = true ∧ rising m.ris = true ∧ rising m.win = true ∧ rising m.lnd = true := by
  have hc := h.1
  simp only [Module.canonical, Bool.and_eq_true] at hc
  simp [hc]

theorem rising_gal (h : m.Inv) : rising m.gal = true := by
  obtain ⟨hg, -⟩ := inv_engines h
  exact hg

theorem rising_ris (h : m.Inv) : rising m.ris = true := by
  obtain ⟨-, hr, -⟩ := inv_engines h
  exact hr

theorem rising_win (h : m.Inv) : rising m.win = true := by
  obtain ⟨-, -, hw, -⟩ := inv_engines h
  exact hw

theorem rising_lnd (h : m.Inv) : rising m.lnd = true := by
  obtain ⟨-, -, -, hl⟩ := inv_engines h
  exact hl

theorem gal'_of_eff {j : Nat} (h : Eff l a b) (hl : Part.gal ∉ l := by decide) : b.gal' j = a.gal' j :=
  congrArg (nget Gal.init · j) (h.same .gal hl)

theorem queue_of_eff {j : QKey} (h : Eff l a b) (hl : Part.queues ∉ l := by decide) : queue b j = queue a j :=
  congrArg (alGet [] · j) (h.same .queues hl)

theorem count_of_eff {p c cls i : Nat} (h : Eff l a b) (hl : Part.counts ∉ l := by decide) : count b p c cls i = count a p c cls i :=
  congrArg (alGet 0 · _) (h.same .counts hl)

/-! #### Completion counts (R136) -/

/-- A completion leaves the counts of the targets of other classes. -/
theorem count_complete_ne {cls cls' : Nat} (h : cls' ≠ cls) (idx : Nat) (d : Desc) (err : Bool) (m : Module) (p c i : Nat) :
    count (complete cls idx d err m) p c cls' i = count m p c cls' i := by
  rw [count, complete_counts, alGet_alSet_ne (by simp [countKey, h]), count]

theorem count_settleBal {cls : Nat} (h : cls ≠ 1) (g : Nat) (m : Module) (p c i : Nat) :
    count (settleBal g m) p c cls i = count m p c cls i :=
  SameAt.settleBal (f := (count · p c cls i)) (fun _ _ => rfl) (fun d err m => count_complete_ne h g d err m p c i) m

/-- A descriptor that is refused after it left its queue, and what it leaves of the queue, the memory, the clocks and the counts. -/
theorem bodyRefused_ends (h : Eff l (dequeue k m) b) (hl : ∀ p ∈ l, p ∉ [Part.queues, .mem, .clk, .counts]) (cls idx code : Nat) :
    let m' := bodyRefused cls idx code d b
    queue m' k = (queue m k).tail ∧ m'.mem = m.mem ∧ m'.clk = m.clk
    ∧ count m' d.part d.ctx cls idx = count m d.part d.ctx cls idx + 1 := by
  intro m'
  have he : Eff _ b m' := eff_bodyRefused cls idx code d b
  have hd : Eff _ m (dequeue k m) := eff_dequeue k m
  have hq : Part.queues ∉ l := fun hp => hl _ hp (by decide)
  have hm : Part.mem ∉ l := fun hp => hl _ hp (by decide)
  have hc : Part.clk ∉ l := fun hp => hl _ hp (by decide)
  have hn : Part.counts ∉ l := fun hp => hl _ hp (by decide)
  refine ⟨?_, ?_, ?_, ?_⟩
  · rw [queue_of_eff he, queue_of_eff h hq, queue_dequeue]
  · exact (he.same .mem (by decide)).trans ((h.same .mem hm).trans (hd.same .mem (by decide)))
  · exact (he.same .clk (by decide)).trans ((h.same .clk hc).trans (hd.same .clk (by decide)))
  · refine (count_complete ..).trans (congrArg (· + 1) ?_)
    exact (count_of_eff (eff_ev ..)).trans ((count_of_eff h hn).trans (count_of_eff hd))

/-! #### Galleries (R207) -/

/-- What a Gallery's refusal of a descriptor leaves. -/
structure GalRefused (g : Nat) (k : QKey) (d : Desc) (code : Nat) (a b : Module) : Prop where
  queue : queue b k = (queue a k).tail
  gal : b.gal' g = { a.gal' g with refused := (a.gal' g).refused + 1 }
  count : count b d.part d.ctx 0 g = count a d.part d.ctx 0 g + 1
  clk : b.clk = a.clk
  out : ∃ m2, b.out = (complete 0 g d true (ev 5 code g 2 d.part d.ctx d.seq m2)).out

theorem galRefuse_refuses (hi : m.Inv) (g : Nat) (k : QKey) (d : Desc) (code : Nat) :
    GalRefused g k d code m (galRefuse g code d (dequeue k (settleBal g m))) := by
  have hs := eff_settleBal g m
  have hd := eff_dequeue k (settleBal g m)
  have hg : (dequeue k (settleBal g m)).gal' g = m.gal' g := (gal'_of_eff hd).trans (gal'_of_eff hs)
  have hr := rising_gal ((hs.keeps.trans hd.keeps).inv hi)
  obtain ⟨hq, -, hc, hn⟩ := bodyRefused_ends (d := d) (k := k) (m := settleBal g m) (eff_setGal _ g
    { m.gal' g with refused := (m.gal' g).refused + 1 }) (by decide) 0 g code
  unfold galRefuse
  rw [hg]
  refine ⟨hq.trans ?_, (gal'_of_eff (eff_bodyRefused ..)).trans (setGal_get _ g _ hr), hn.trans ?_, hc.trans (hs.same .clk (by decide)),
    _, rfl⟩
  · rw [queue_of_eff hs]
  · rw [count_settleBal (by decide)]

section
variable {g : Fin 64} {code : Nat}

theorem exec_matmul_refused (stalls : List Nat) (ecc bHits : List EccHit) (errs : List MemErr)
    (hh : galHead (settleBal g s.m) g 0x10 = some (k, d)) (hr : matmulRefusal (dequeue k (settleBal g s.m)) g d = some code) :
    exec (.matmul g stalls ecc bHits errs) s = done s (galRefuse g code d (dequeue k (settleBal g s.m))) := by
  show execMatmul g stalls ecc bHits errs s = _
  unfold execMatmul
  simp only [hh, hr]

theorem exec_accLoad_refused (errs : List MemErr) (hh : galHead (settleBal g s.m) g 0x11 = some (k, d))
    (hr : accRefusal (dequeue k (settleBal g s.m)) g d = some code) :
    exec (.accLoad g errs) s = done s (galRefuse g code d (dequeue k (settleBal g s.m))) := by
  show execAccLoad g errs s = _
  unfold execAccLoad
  simp only [hh, hr]

theorem exec_accRead_refused (hh : galHead (settleBal g s.m) g 0x12 = some (k, d))
    (hr : accRefusal (dequeue k (settleBal g s.m)) g d = some code) :
    exec (.accRead g) s = done s (galRefuse g code d (dequeue k (settleBal g s.m))) := by
  show execAccRead g s = _
  unfold execAccRead
  simp only [hh, hr]

end

/-! #### Risers, Winders and Landings (R281, R292, R320) -/

section
variable {c : Nat} (h n : Nat) (ecc seedEcc : List EccHit) (errs : List MemErr)

theorem exec_convert_refused {r : Fin 8} (ho : (s.m.ris' r).op = none) (hc : canStart s.m 3 r = true)
    (hh : headOwned s.m 3 r = some (k, d)) (hr : convertRefusal (dequeue k s.m) r d = some c) :
    exec (.convert r h n seedEcc errs) s = done s (risRefuse r c d (dequeue k s.m)) := by
  show execConvert r h n seedEcc errs s = _
  unfold execConvert
  simp [ho, hc, hh, hr]

theorem exec_transform_refused {w : Fin 4} (ho : (s.m.win' w).op = none) (hc : canStart s.m 4 w = true)
    (hh : headOwned s.m 4 w = some (k, d)) (hr : winRefusal (dequeue k s.m) d = some c) :
    exec (.transform w h n ecc seedEcc errs) s = done s (winRefuse w c d (dequeue k s.m)) := by
  show execTransform w h n ecc seedEcc errs s = _
  unfold execTransform
  simp [ho, hc, hh, hr]

theorem exec_run_refused {u : Fin 16} (ho : (s.m.lnd' u).op = none) (hc : canStart s.m 2 u = true)
    (hh : headOwned s.m 2 u = some (k, d)) (hr : runRefusal (dequeue k s.m) u d = some c) :
    exec (.run u h n ecc seedEcc errs) s = done s (lndRefuse u c d (dequeue k s.m)) := by
  show execRun u h n ecc seedEcc errs s = _
  unfold execRun
  simp [ho, hc, hh, hr]

end

theorem risRefuse_ris (hi : m.Inv) (r code : Nat) (k : QKey) (d : Desc) :
    (risRefuse r code d (dequeue k m)).ris' r = { m.ris' r with refused := (m.ris' r).refused + 1 } :=
  Eq.trans (sameRis_of_eff (eff_bodyRefused ..)) (setRis_get _ r _ (rising_ris ((eff_dequeue k m).keeps.inv hi)))

theorem winRefuse_win (hi : m.Inv) (w code : Nat) (k : QKey) (d : Desc) :
    (winRefuse w code d (dequeue k m)).win' w = { m.win' w with refused := (m.win' w).refused + 1 } :=
  Eq.trans (sameWin_of_eff (eff_bodyRefused ..)) (setWin_get _ w _ (rising_win ((eff_dequeue k m).keeps.inv hi)))

theorem lndRefuse_lnd (hi : m.Inv) (u code : Nat) (k : QKey) (d : Desc) :
    (lndRefuse u code d (dequeue k m)).lnd' u = { m.lnd' u with refused := (m.lnd' u).refused + 1 } :=
  Eq.trans (sameLnd_of_eff (eff_bodyRefused ..)) (setLnd_get _ u _ (rising_lnd ((eff_dequeue k m).keeps.inv hi)))

end Sys2Proof.Scope

section
open Sys2Proof Sys2Proof.Machine Sys2Proof.Scope

/-- Settles O14, by what a refusal leaves of the queue, the unit, the memory, the clocks and the counts. -/
theorem refusedDescriptorsDoNoWork : Obligations.RefusedDescriptorsDoNoWork := by
  refine ⟨?_, ?_⟩
  · intro s g stalls ecc balEcc errs k d code hi m1 refused
    have hr : refused (galRefuse g code d m1) := by
      obtain ⟨hq, hg, hn, hc, ho⟩ := galRefuse_refuses hi g k d code
      exact ⟨hq, hg, hn, hc, ho⟩
    exact ⟨fun hh hf => completes_of_done (exec_matmul_refused stalls ecc balEcc errs hh hf) hr,
      fun hf => ⟨fun hh => completes_of_done (exec_accLoad_refused errs hh hf) hr,
        fun hh => completes_of_done (exec_accRead_refused hh hf) hr⟩⟩
  · intro s h n c ecc seedEcc errs k d hi ends
    exact ⟨fun r ho hc hh hf => completes_of_done (exec_convert_refused h n seedEcc errs ho hc hh hf)
        ⟨bodyRefused_ends (Laws.eff_setRis ..) (by decide) .., risRefuse_ris hi ..⟩,
      fun w ho hc hh hf => completes_of_done (exec_transform_refused h n ecc seedEcc errs ho hc hh hf)
        ⟨bodyRefused_ends (Laws.eff_setWin ..) (by decide) .., winRefuse_win hi ..⟩,
      fun l ho hc hh hf => completes_of_done (exec_run_refused h n ecc seedEcc errs ho hc hh hf)
        ⟨bodyRefused_ends (Laws.eff_setLnd ..) (by decide) .., lndRefuse_lnd hi ..⟩⟩

end

/-! ### Read-outs and completions of Galleries (O15) -/

namespace Sys2Proof.Scope
open Sys2Proof.Machine Sys2Proof.Laws

variable {s : State} {a b c m : Module} {l : List Part} {g : Nat}

/-! #### The passing of time (R104, R635) -/

/-- What the clocks go by. -/
def timeAt (m : Module) : Clk × BeatBlk × Pwr × Bool := (m.clk, m.beat, m.pwr, m.tray.thermTripN)

theorem sameTime_of_eff (h : Eff l a b) (ht : EvKeeps a b) (hc : Part.clk ∉ l := by decide) (hb : Part.beat ∉ l := by decide)
    (hp : Part.pwr ∉ l := by decide) : SameAt timeAt a b := by
  have h1 : b.clk = a.clk := h.same .clk hc
  have h2 : b.beat = a.beat := h.same .beat hb
  have h3 : b.pwr = a.pwr := h.same .pwr hp
  have h4 : b.tray.thermTripN = a.tray.thermTripN := by rw [ht.tray]
  rw [SameAt, timeAt, timeAt, h1, h2, h3, h4]

theorem sameTime_settleBal (g : Nat) (m : Module) : SameAt timeAt m (settleBal g m) :=
  .settleBal (f := timeAt) (fun _ _ => rfl) (fun _ _ _ => sameTime_of_eff (eff_complete ..) (evKeeps_complete ..)) m

theorem sameTime_drainTrace (n : Nat) (m : Module) : SameAt timeAt m (drainTrace n m) := by
  have h := eff_drainTrace n m
  exact sameTime_of_eff h (.of_eq (h.same .pci (by decide)) (h.same .tray (by decide)) (h.same .hlt (by decide)))

theorem clk_advance (h : SameAt timeAt a b) (n : Nat) : (advance n b).clk = (advance n a).clk := by
  obtain ⟨h1, h2, h3, h4⟩ : b.clk = a.clk ∧ b.beat = a.beat ∧ b.pwr = a.pwr ∧ b.tray.thermTripN = a.tray.thermTripN := by
    simpa [SameAt, timeAt] using h
  simp only [advance, h1, h2, h3, h4]

/-- Time passes to a cycle as the clocks go, whatever else the hardware holds. -/
theorem clk_passToCycle (h : SameAt timeAt a b) (t : Nat) : (passToCycle t b).clk = (passToCycle t a).clk := by
  have hc : b.clk = a.clk := congrArg (·.1) h
  have hp : b.pwr = a.pwr := congrArg (·.2.2.1) h
  have hd (n k n' : Nat) : (advance n (drainTrace k b)).clk = (advance n (drainTrace n' a)).clk :=
    (clk_advance (h.trans (sameTime_drainTrace k b)) n).trans (clk_advance (sameTime_drainTrace n' a) n).symm
  unfold passToCycle
  rw [hc, hp]
  split
  · exact hc
  · exact hd ..

/-! #### What a Gallery's stores and schedule hold -/

/-- What a descriptor finds in a Gallery that starts it: the accumulator, the descriptors in progress, and when its row groups and its
read-out are free. -/
def galStore (x : Gal) : NMap W64 × List GalOp × NMap Nat × Nat := (x.acc, x.ops, x.grpFree, x.rdFree)

/-- The clocks and what a Gallery holds stand, where the state is canonical. -/
structure Steady (g : Nat) (a b : Module) : Prop where
  inv : a.Inv → b.Inv
  clk : b.clk = a.clk
  store : a.Inv → galStore (b.gal' g) = galStore (a.gal' g)

theorem Steady.refl (m : Module) : Steady g m m := ⟨id, rfl, fun _ => rfl⟩

theorem Steady.trans (h : Steady g a b) (k : Steady g b c) : Steady g a c :=
  ⟨k.inv ∘ h.inv, k.clk.trans h.clk, fun hi => (k.store (h.inv hi)).trans (h.store hi)⟩

theorem Steady.ite {p : Prop} [Decidable p] (h : Steady g a b) (k : Steady g a c) : Steady g a (if p then b else c) := by
  split <;> assumption

theorem Steady.fold {α : Type} {f : Module → α → Module} {r : List α} (h : Steady g a b) (hf : ∀ m x, Steady g m (f m x)) :
    Steady g a (r.foldl f b) := by
  induction r generalizing b with
  | nil => exact h
  | cons x r ih => exact ih (h.trans (hf b x))

theorem steady_of_eff (h : Eff l a b) (hc : Part.clk ∉ l := by decide) (hg : Part.gal ∉ l := by decide) : Steady g a b :=
  ⟨h.keeps.inv, h.same .clk hc, fun _ => congrArg galStore (gal'_of_eff h hg)⟩

theorem steady_setGal {x : Gal} (h : galStore x = galStore (m.gal' g) := by rfl) : Steady g m (m.setGal g x) :=
  ⟨(eff_setGal ..).keeps.inv, rfl, fun hi => (congrArg galStore (setGal_get m g x (rising_gal hi))).trans h⟩

theorem steady_setGal_ne {u : Nat} (h : g ≠ u) (x : Gal) (m : Module) : Steady g m (m.setGal u x) :=
  ⟨(eff_setGal ..).keeps.inv, rfl, fun _ => congrArg galStore (setGal_get_ne m u x g h)⟩

theorem steady_galEcc (u : Nat) (d : Desc) (hits : List EccHit) (m : Module) : Steady g m (galEcc d u hits m) := by
  unfold galEcc
  extract_lets x last
  refine Steady.trans ?_ (steady_of_eff (eff_eccEvents ..))
  obtain rfl | h := eq_or_ne g u
  · exact steady_setGal
  · exact steady_setGal_ne h _ m

theorem steady_eccBoth (p u : Nat) (d : Desc) (hits : List EccHit) (m : Module) : Steady g m (eccBoth p u hits (galEcc d) m) := by
  unfold eccBoth
  extract_lets m1
  have h1 : Steady g m m1 := steady_galEcc ..
  exact .ite (h1.trans (steady_galEcc ..)) h1

theorem steady_lockstep (p : Nat) (m0 m : Module) : Steady g m (lockstep g p m0 m) := by
  unfold lockstep
  extract_lets e e0 b b0 x y m1
  exact .ite ((steady_setGal_ne (by omega) _ m).trans (steady_of_eff (eff_setBal ..))) (.refl m)

theorem steady_checkOne (d : Desc) (row grp : Nat) (v : ChkCell × W64) (m : Module) : Steady g m (checkOne g d row grp v m) := by
  unfold checkOne
  extract_lets x
  split
  · exact steady_setGal
  · exact (steady_setGal (g := g)).trans (steady_of_eff (eff_compared ..))
  · exact (steady_setGal (g := g)).trans ((steady_of_eff (eff_compared ..)).trans (steady_of_eff (eff_mismatch ..)))

theorem steady_writeRead (o : GalOp) (fs : List CellFault) (rows : List (Nat × List W64)) (m : Module) :
    Steady g m (writeRead g o fs rows m) :=
  (Steady.refl m).fold fun _ _ => (steady_setGal (g := g)).trans (steady_of_eff (eff_hallWrite ..))

/-! #### Read-out and completion (R197, R199) -/

/-- An outcome is a next state: the queue as it was, and hardware of which `P` holds. -/
def Ends (s : State) (P : Module → Prop) (o : Out) : Prop := ∃ m : Module, o = .next { s with m := m } ∧ P m

theorem ends_done {P : Module → Prop} (h : P m) : Ends s P (done s m) := ⟨m, rfl, h⟩

theorem execGalReadout_reads {g : Fin 64} (hi : s.m.Inv) (faults : List CellFault) (diff : Bool) (ecc : List EccHit) {o : GalOp}
    (h : (s.m.gal' g).ops.find? (fun o => o.readout && !o.read) = some o) :
    Ends s (fun m => (m.gal' g).ops = (s.m.gal' g).ops.map (fun q => if q = o then { q with read := true } else q)
      ∧ (faults = [] → (m.gal' g).acc = (s.m.gal' g).acc) ∧ m.clk = (passToCycle o.rdEnd (passToCycle o.rdStart s.m)).clk)
      (execGalReadout g faults diff ecc s) := by
  unfold execGalReadout
  split
  next hn => simp [h] at hn
  next o' ho =>
  obtain rfl : o = o' := Option.some.inj (h.symm.trans ho)
  extract_lets m0 m1 x cells m2 at_ rows m3 bad m4
  have h0 : Eff (.bal :: timeParts ++ doneParts) s.m m0 :=
    ((eff_passToCycle o.rdStart s.m).mono rfl).trans ((eff_settleBal ..).mono rfl)
  have hp : Eff timeParts m0 (passToCycle o.rdEnd m0) := eff_passToCycle o.rdEnd m0
  have hi0 : (passToCycle o.rdEnd m0).Inv := (h0.keeps.trans hp.keeps).inv hi
  have h1 : Steady g (passToCycle o.rdEnd m0) m1 := steady_eccBoth ..
  have hx : galStore (m1.gal' g) = galStore (s.m.gal' g) := by
    rw [h1.store hi0, gal'_of_eff hp, gal'_of_eff h0]
  have h3 : Steady g m2 m3 := (steady_writeRead ..).trans (steady_lockstep ..)
  have h4 : Steady g m2 m4 :=
    .ite h3 (.ite (h3.trans (steady_of_eff (eff_comparePair ..))) (h3.fold fun _ _ => steady_checkOne ..))
  have hi1 : m1.Inv := h1.inv hi0
  have h2 : m2.gal' g = _ := setGal_get m1 g _ (rising_gal hi1)
  have hs := h4.store ((eff_setGal ..).keeps.inv hi1)
  rw [h2] at hs
  simp only [galStore, Prod.mk.injEq] at hs hx
  obtain ⟨hacc, hops, -⟩ := hs
  obtain ⟨xacc, xops, -⟩ := hx
  refine ends_done ⟨?_, fun hf => ?_, ?_⟩
  · rw [hops, ← xops]
  · rw [hacc, ← xacc]
    simp [cells, hf, x]
  · rw [h4.clk, setGal_clk, h1.clk]
    exact clk_passToCycle (sameTime_settleBal ..) _

theorem execGalComplete_ends {g : Fin 64} (hi : s.m.Inv) {o : GalOp} {r : List GalOp} (ho : (s.m.gal' g).ops = o :: r)
    (hr : o.readout = true → o.read = true) :
    Ends s (fun m => m.gal' g = { s.m.gal' g with ops := r, lastProgress := m.clk.elapsed } ∧ m.clk = (passToCycle o.doneC s.m).clk
      ∧ count m o.desc.part o.desc.ctx 0 g = count s.m o.desc.part o.desc.ctx 0 g + 1) (execGalComplete g s) := by
  unfold execGalComplete
  split
  next hn => simp [ho] at hn
  next o' r' ho' =>
  obtain ⟨rfl, rfl⟩ : o = o' ∧ r = r' := List.cons.inj (ho.symm.trans ho')
  split
  next hn => simp_all
  extract_lets x m1 y m2
  have hp : Eff timeParts s.m (passToCycle o.doneC s.m) := eff_passToCycle o.doneC s.m
  have h1 : Eff _ (passToCycle o.doneC s.m) m1 := eff_settleBal ..
  have h2 : Eff [.gal] m1 m2 := eff_setGal ..
  have he := eff_complete 0 g o.desc o.failed m2
  have hi1 : m1.Inv := (hp.keeps.trans h1.keeps).inv hi
  have hclk : (complete 0 g o.desc o.failed m2).clk = m1.clk := he.same .clk (by decide)
  have hx : y = x := (gal'_of_eff h1).trans (gal'_of_eff hp)
  refine ends_done ⟨?_, hclk.trans (h1.same .clk (by decide)), ?_⟩
  · rw [hclk, gal'_of_eff he, setGal_get m1 g _ (rising_gal hi1), hx]
  · rw [count_complete, count_of_eff h2, count_settleBal (by decide), count_of_eff hp]

/-! #### GAL_CNT_CLR (R226) -/

/-- Where nothing is in progress on a Gallery's array, nothing is still to come. -/
theorem galLeft_idle {x : Gal} {b : Bal} (hx : x.ops = []) (hb : b.ups = []) (now : Nat) : galLeft now x b = (0, 0, 0, 0, 0) := by
  simp [galLeft, busyLeft, galStreams, galSegs, segsLeft, hx, hb]

theorem galCntClr_gal' {g : Nat} (hi : m.Inv) : (galCntClr g m).gal' g =
    galClear (galLeft m.clk.cycle (m.gal' (pairLead m g)) (m.bal' (pairLead m g))) (m.gal' g) :=
  setGal_get m g _ (rising_gal hi)

end Sys2Proof.Scope

section
open Sys2Proof Sys2Proof.Machine Sys2Proof.Scope

/-- Settles O15, by what a read-out and a completion leave of the Gallery, the clocks and the counts, and by what is cleared. -/
theorem galleryDescriptorsReadOutAndComplete : Obligations.GalleryDescriptorsReadOutAndComplete := by
  intro s g hi x
  refine ⟨fun faults diff ecc o ho => execGalReadout_reads hi faults diff ecc ho, fun o r ho hr => execGalComplete_ends hi ho hr,
    ?_, fun ho hu => ?_⟩
  · have hg := galCntClr_gal' (g := g) hi
    refine completes_of_done (m := galCntClr g s.m) rfl ⟨?_, ?_, ?_, ?_, ?_, (Laws.eff_galCntClr ..).same⟩
    all_goals rw [hg]; rfl
  · refine congrArg (done s) ?_
    unfold galCntClr
    dsimp only
    rw [galLeft_idle ho hu]
    rfl

end

/-! ### Descriptors that a Gallery starts (O13) -/

namespace Sys2Proof.Scope
open Sys2Proof.Machine Sys2Proof.Laws

/-! #### Folds and sparse maps -/

section
variable {α β γ : Type} {d : β} {k : Nat} {l : List (Nat × β)} {p : Nat × β → Bool}

theorem foldl_keeps {f : β → γ} {g : β → α → β} {r : List α} (h : ∀ b, ∀ x ∈ r, f (g b x) = f b) (b : β) :
    f (r.foldl g b) = f b :=
  List.foldlRecOn (motive := fun y => f y = f b) r g rfl fun y hy x hx => (h y x hx).trans hy

theorem nget_filter (h : ∀ v, p (k, v) = true) : nget d (l.filter p) k = nget d l k := by
  induction l with
  | nil => rfl
  | cons x r ih =>
    obtain ⟨k', v⟩ := x
    by_cases hk : k' = k
    · subst hk
      simp [nget, h]
    · cases hp : p (k', v) <;> simp [nget, hp, hk, ih]

theorem nget_filter_out (h : ∀ v, p (k, v) = false) : nget d (l.filter p) k = d := by
  induction l with
  | nil => rfl
  | cons x r ih =>
    obtain ⟨k', v⟩ := x
    by_cases hk : k' = k
    · subst hk
      simp [h, ih]
    · cases hp : p (k', v) <;> simp [nget, hp, hk, ih]

theorem nget_map {f : Nat × β → Nat × β} (hf : ∀ x, (f x).1 = x.1) (h : ∀ v, f (k, v) = (k, v)) :
    nget d (l.map f) k = nget d l k := by
  induction l with
  | nil => rfl
  | cons x r ih =>
    obtain ⟨k', v⟩ := x
    by_cases hk : k' = k
    · subst hk
      simp [nget, h]
    · simp [nget, hf, hk, ih]

end

/-! #### Accumulator rows (R192, R196, R208) -/

section
variable {r j n : Nat} {st : Station} {a : ActRow}

theorem accKey_div (r : Nat) (hj : j < 1024) : accKey r j / 1024 = r := by
  unfold accKey
  omega

theorem accKey_ne {r' j' : Nat} (h : r ≠ r') (hj : j < 1024) (hj' : j' < 1024) : accKey r j ≠ accKey r' j' := by
  unfold accKey
  omega

/-- A row of a stream updates no accumulator row but its own. -/
theorem accRow_others (rep : Bool) (hr : r ≠ a.row) (hj : j < 1024) (hn : st.n ≤ 1024) (acc : NMap W64) :
    nget 0 (accRow rep st a acc) (accKey r j) = nget 0 acc (accKey r j) := by
  unfold accRow
  extract_lets pads pv acc1 inPad
  have h1 : nget 0 acc1 (accKey r j) = nget 0 acc (accKey r j) :=
    foldl_keeps (f := (nget 0 · (accKey r j))) (fun b x hx =>
      nget_nset_of_ne (accKey_ne hr hj (by simp only [List.mem_range] at hx; omega))) acc
  have hp : inPad (accKey r j) = false := by simp [inPad, accKey_div r hj, hr]
  split
  · split
    · rw [nget_filter (by simp [hp]), h1]
    · rw [nget_filter (by simp [hp]), nget_map (fun x => by split <;> rfl) (by simp [hp]), h1]
  · refine (foldl_keeps (f := (nget 0 · (accKey r j))) (fun b x hx => ?_) acc1).trans h1
    exact nget_nset_of_ne (accKey_ne hr hj (by simp only [List.mem_range] at hx; omega))

/-- What the schedule of a stream goes by. -/
def galPlan (x : Gal) : List GalOp × NMap Nat × Nat := (x.ops, x.grpFree, x.rdFree)

theorem streamRows_plan (chk rep : Bool) (st : Station) (rows : List ActRow) (x : Gal) :
    galPlan (streamRows chk rep st rows x) = galPlan x := by
  unfold streamRows
  exact foldl_keeps (f := galPlan) (fun _ _ _ => by rfl) x

theorem streamRows_others (chk rep : Bool) {rows : List ActRow} (hr : ∀ a ∈ rows, r ≠ a.row) (hj : j < 1024) (hn : st.n ≤ 1024)
    (x : Gal) : nget 0 (streamRows chk rep st rows x).acc (accKey r j) = nget 0 x.acc (accKey r j) :=
  foldl_keeps (f := fun x : Gal => nget 0 x.acc (accKey r j)) (fun _ a ha => accRow_others rep (hr a ha) hj hn _) x

theorem stretches_keeps {S β : Type} {f : S → β} {run : Nat → Nat → S → S} {tot : Nat} {l : List (Nat × (S → S))}
    (hr : ∀ b n s, f (run b n s) = f s) (hl : ∀ e ∈ l, ∀ s, f (e.2 s) = f s) (b0 : Nat) (s : S) :
    f (stretches run tot b0 l s) = f s := by
  induction l generalizing b0 s with
  | nil => exact hr ..
  | cons e r ih =>
    obtain ⟨b, g⟩ := e
    have ih := fun b0 s => ih (fun e he => hl e (List.mem_cons_of_mem _ he)) b0 s
    have hg : ∀ s, f (g s) = f s := hl (b, g) (List.mem_cons_self ..)
    unfold stretches
    split
    · rw [ih, hg]
    · rw [ih, hg, hr]

theorem streamHits_plan (chk rep : Bool) (st : Station) (rows : List ActRow) (hits : List EccHit) (x : Gal) :
    galPlan (streamHits chk rep st rows hits x) = galPlan x := by
  refine stretches_keeps (fun b n y => ?_) (fun e he y => ?_) 0 x
  · split
    · rfl
    · exact streamRows_plan ..
  · obtain ⟨h, -, rfl⟩ := List.mem_map.1 he
    rfl

/-- A stream updates no accumulator row but its own, where it meets no uncorrected error of another. -/
theorem streamHits_others (chk rep : Bool) {rows : List ActRow} (hr : ∀ a ∈ rows, r ≠ a.row) (hj : j < 1024) (hn : st.n ≤ 1024)
    {hits : List EccHit} (hh : ∀ h ∈ hits, h.unc = true → h.store = 0 → r ≠ h.row % 256) (x : Gal) :
    nget 0 (streamHits chk rep st rows hits x).acc (accKey r j) = nget 0 x.acc (accKey r j) := by
  refine stretches_keeps (f := fun x : Gal => nget 0 x.acc (accKey r j)) (fun b n y => ?_) (fun e he y => ?_) 0 x
  · split
    · rfl
    · refine streamRows_others (st := st.part b n) _ _ (fun a ha => ?_) hj hn y
      obtain ⟨a', ha', rfl⟩ := List.mem_map.1 ha
      exact hr a' ha'
  · obtain ⟨h, hm, rfl⟩ := List.mem_map.1 he
    simp only [List.mem_filter, Bool.and_eq_true, decide_eq_true_eq] at hm
    obtain ⟨hm, ⟨hu, -⟩, hs⟩ := hm
    exact nget_nset_of_ne (accKey_ne (hh h hm hu hs) hj (Nat.mod_lt _ (by decide)))

/-! #### Preloaded rows (R208) -/

variable {vs : List W64} {row : Nat}

theorem preloadRow_plan (chk : Bool) (row : Nat) (vs : List W64) (x : Gal) : galPlan (preloadRow chk row vs x) = galPlan x := rfl

theorem preloadRow_others (chk : Bool) (hr : r ≠ row) (hj : j < 1024) (hv : vs.length ≤ 1024) (x : Gal) :
    nget 0 (preloadRow chk row vs x).acc (accKey r j) = nget 0 x.acc (accKey r j) := by
  refine (foldl_keeps (f := (nget 0 · (accKey r j))) (fun b e he => ?_) _).trans (nget_filter (by simp [accKey_div r hj, hr]))
  have hc := List.mem_range.1 (List.of_mem_zip he).1
  exact nget_nset_of_ne (accKey_ne hr hj (by omega))

theorem preloadRow_clears (chk : Bool) (hv : vs.length ≤ j) (hj : j < 1024) (x : Gal) :
    nget 0 (preloadRow chk row vs x).acc (accKey row j) = 0 := by
  refine (foldl_keeps (f := (nget 0 · (accKey row j))) (fun b e he => ?_) _).trans (nget_filter_out (by simp [accKey_div row hj]))
  have hc := List.mem_range.1 (List.of_mem_zip he).1
  exact nget_nset_of_ne (by unfold accKey; omega)

/-- The preload of several rows, from `row0` on, each with `n` values that `val` gives. -/
def preloadRows (chk : Bool) (row0 : Nat) (val : List Byte → List W64) (rows : List (List Byte)) (x : Gal) : Gal :=
  (List.zip (List.range rows.length) rows).foldl (fun x e => preloadRow chk (row0 + e.1) (val e.2) x) x

variable {row0 : Nat} {val : List Byte → List W64} {rows : List (List Byte)}

theorem preloadRows_plan (chk : Bool) (row0 : Nat) (val : List Byte → List W64) (rows : List (List Byte)) (x : Gal) :
    galPlan (preloadRows chk row0 val rows x) = galPlan x := by
  unfold preloadRows
  exact foldl_keeps (f := galPlan) (fun _ _ _ => by rfl) x

theorem preloadRows_others (chk : Bool) (hr : r < row0 ∨ row0 + rows.length ≤ r) (hj : j < 1024) (hv : ∀ l, (val l).length ≤ 1024)
    (x : Gal) : nget 0 (preloadRows chk row0 val rows x).acc (accKey r j) = nget 0 x.acc (accKey r j) := by
  refine foldl_keeps (f := fun x : Gal => nget 0 x.acc (accKey r j)) (fun y e he => ?_) x
  have hi := List.mem_range.1 (List.of_mem_zip he).1
  exact preloadRow_others chk (by omega) hj (hv _) y

theorem preloadRows_clears (chk : Bool) {i : Nat} (hi : i < rows.length) (hv : ∀ l, (val l).length ≤ j) (hj : j < 1024) (x : Gal) :
    nget 0 (preloadRows chk row0 val rows x).acc (accKey (row0 + i) j) = 0 := by
  suffices h : ∀ l : List (Nat × List Byte), ∀ y : Gal, (i ∈ l.map (·.1) ∨ nget 0 y.acc (accKey (row0 + i) j) = 0) →
      nget 0 (l.foldl (fun x e => preloadRow chk (row0 + e.1) (val e.2) x) y).acc (accKey (row0 + i) j) = 0 by
    exact h _ x (.inl (by simp [List.map_fst_zip, hi]))
  intro l
  induction l with
  | nil => simp
  | cons e r ih =>
    intro y hy
    refine ih _ ?_
    by_cases he : e.1 = i
    · exact .inr (he ▸ preloadRow_clears chk (hv _) hj y)
    · rw [preloadRow_others chk (by omega) hj ((hv _).trans hj.le)]
      simpa [Ne.symm he] using hy

end

/-! #### The cycle schedule (R193 to R201) -/

theorem addSeg_end (k : SegKind) (per n : Nat) (x : List Seg × Nat) : (addSeg k per n x).2 = x.2 + n := by
  unfold addSeg
  split
  next h => omega
  next h =>
    split
    · split <;> rfl
    · rfl

/-- A fold each of whose steps takes `c` cycles. -/
theorem foldl_cycles {α β : Type} {f : β × Nat → α → β × Nat} {c : Nat} (h : ∀ x e, (f x e).2 = x.2 + c) (l : List α) (x : β × Nat) :
    (l.foldl f x).2 = x.2 + l.length * c := by
  induction l generalizing x with
  | nil => simp
  | cons e r ih =>
    rw [List.foldl_cons, ih, h, List.length_cons, Nat.succ_mul]
    omega

/-- With no stall and no group to wait for, a tile takes its 32 loads and its vectors. -/
theorem tileSegs_end (c : Nat) (rows : List Nat) (i0 : Nat) (x : List Seg × Nat) :
    (tileSegs [] [] c rows i0 x).2 = x.2 + (32 + c * rows.length) := by
  unfold tileSegs
  extract_lets y
  have hy : y.2 = x.2 + 32 := (foldl_cycles (c := 1) (fun x e => by simp [addSeg_end]) (List.range 32) x).trans (by simp)
  rw [foldl_cycles (c := c) (fun x e => by simp [addSeg_end, nget]), hy]
  simp [Nat.mul_comm, Nat.add_assoc]

theorem mmSched_end {x : Gal} (hx : x.grpFree = []) (u c kt : Nat) (rows : List Nat) :
    (mmSched x u [] c kt rows).2 = u + kt * (32 + c * rows.length) := by
  unfold mmSched
  rw [hx, foldl_cycles (fun y e => tileSegs_end ..), List.length_range]

/-- A read-out or preload that waits for nothing begins in its cycle and takes 32 cycles for each group. -/
theorem rdPlan_free {x : Gal} {t : Nat} (hg : x.grpFree = []) (hr : x.rdFree ≤ t) (gs : List Nat) :
    (rdPlan x t gs).1.1 = t ∧ (rdPlan x t gs).1.2.1 = t + 32 * gs.length - 1 := by
  have hw : rdWait x t gs = 0 := by
    unfold rdWait
    exact foldl_keeps (f := id) (fun b e _ => by simp [hg, nget]) 0
  simp [rdPlan, rdSched, hw, hr]

variable {s : State} {a b m : Module} {d : Desc} {g : Nat} {k : QKey}

/-! #### What a descriptor reads (R201, R208) -/

theorem readRows_length (w p : Nat) (a : W64) (stride n k : Nat) (m : Module) : (readRows w p a stride n k m).1.length = k := by
  induction k with
  | zero => rfl
  | succ k ih => simp [readRows, ih]

theorem actRows_rows (w : Nat) (d : Desc) (kd : Nat) (m : Module) :
    (actRows w d kd m).1.map (·.row) = (List.range (mmM d)).map (mmRow0 d + ·) := by
  unfold actRows
  extract_lets a k z
  split
  split
  rw [List.map_map]
  rfl

theorem mmStation_n (w : Nat) (d : Desc) (kd : Nat) (int : Bool) (m : Module) : (mmStation w d kd int m).1.n = mmN d := by
  unfold mmStation
  extract_lets sp n
  split
  split
  split
  rfl

theorem of_firstCode_none {l : List (Nat × Bool)} {c : Nat} {p : Bool} (h : firstCode l = none) (hm : (c, p) ∈ l) : p = false := by
  have hf := List.find?_eq_none.1 (Option.map_eq_none_iff.1 h) _ hm
  simpa using hf

theorem mmN_le_of_accepted (h : matmulRefusal m g d = none) : mmN d ≤ 1024 := by
  have hn := of_firstCode_none (c := 0x11) (p := decide (mmN d = 0) || decide (mmN d > 1024) || decide (mmKt d = 0)) h (by simp)
  simp only [Bool.or_eq_false_iff, decide_eq_false_iff_not, not_lt] at hn
  obtain ⟨⟨-, hn⟩, -⟩ := hn
  exact hn

theorem accN_le_of_accepted (h : accRefusal m g d = none) : accN d ≤ 1024 := by
  have hn := of_firstCode_none (c := 0x11) (p := decide (accN d = 0) || decide (accN d > 1024)) h (by simp)
  simp only [Bool.or_eq_false_iff, decide_eq_false_iff_not, not_lt] at hn
  obtain ⟨-, hn⟩ := hn
  exact hn

/-! #### A MATMUL that starts (R193, R199, R201) -/

/-- The table of R201, for a MATMUL that waits for nothing. -/
def MmTimes (c : Nat) (d : Desc) (o : GalOp) : Prop :=
  let l := 32 + c * mmM d
  o.nextC = o.startC + mmKt d * l ∧ o.lastC = o.startC + mmKt d * l + 39
  ∧ (o.readout = false → o.doneC = o.startC + mmKt d * l + 40)
  ∧ (o.readout = true → let n := (groupsOf (mmRow0 d) (mmM d)).length
      o.rdStart = o.startC + mmKt d * l + 40 ∧ o.rdEnd = o.startC + mmKt d * l + 39 + 32 * n
      ∧ o.doneC = o.startC + mmKt d * l + 40 + 32 * n)

/-- What the start of a MATMUL leaves of its Gallery and of the clocks. -/
structure MmStarted (g : Nat) (d : Desc) (stalls : List Nat) (c : Nat) (ecc : List EccHit) (a b : Module) : Prop where
  clk : b.clk = a.clk
  rows : ∀ r j, j < 1024 → (r < mmRow0 d ∨ mmRow0 d + mmM d ≤ r) → (∀ h ∈ ecc, h.unc = true → h.store = 0 → r ≠ h.row % 256) →
    nget 0 (b.gal' g).acc (accKey r j) = nget 0 (a.gal' g).acc (accKey r j)
  op : ∃ o : GalOp, (b.gal' g).ops = (a.gal' g).ops ++ [o] ∧ o.desc = d ∧ o.readout = d.fl 1 ∧ o.read = false
    ∧ o.startC = a.clk.cycle ∧ (stalls = [] → (a.gal' g).grpFree = [] → (a.gal' g).rdFree ≤ o.startC → MmTimes c d o)

/-- A read-out, where a MATMUL has one, begins 40 cycles after the array is free, if it waits for nothing. -/
theorem mmRead_free {x : Gal} {e : Nat} {rd : Nat × Nat × NMap Nat} {ws : List Seg} {r : Bool} {gs : List Nat} {f : NMap Nat}
    (h : (if r then rdPlan x (e + 40) gs else ((e + 40, e + 39, f), [])) = (rd, ws)) (hg : x.grpFree = []) (hr : x.rdFree ≤ e) :
    rd.1 = e + 40 ∧ rd.2.1 = e + 39 + (if r then 32 * gs.length else 0) := by
  split at h
  · obtain ⟨h1, h2⟩ := rdPlan_free (t := e + 40) hg (by omega) gs
    rw [h] at h1 h2
    rw [if_pos ‹_›]
    exact ⟨h1, h2.trans (by omega)⟩
  · cases h
    simp_all

theorem mmTimes_of_free {o : GalOp} {c : Nat} (he : o.nextC = o.startC + mmKt d * (32 + c * mmM d)) (hl : o.lastC = o.nextC + 39)
    (hs : o.rdStart = o.nextC + 40)
    (hd : o.rdEnd = o.nextC + 39 + (if o.readout then 32 * (groupsOf (mmRow0 d) (mmM d)).length else 0)) (hc : o.doneC = o.rdEnd + 1) :
    MmTimes c d o := by
  refine ⟨he, hl.trans (by rw [he]), fun hr => ?_, fun hr => ?_⟩
  all_goals rw [hr] at hd
  · rw [hc, hd, he]
    rfl
  · simp only [if_true] at hd
    exact ⟨by omega, by omega, by omega⟩

theorem mmStart_started (hi : m.Inv) (hn : mmN d ≤ 1024) (stalls : List Nat) (kd c : Nat) (int : Bool) (ecc balHits : List EccHit) :
    MmStarted g d stalls c ecc m (mmStart g d stalls kd c int ecc balHits m) := by
  unfold mmStart
  extract_lets w kt k row0
  have hr := eff_actRows w d kd m
  have hrow := actRows_rows w d kd m
  split
  next acts m1 e1 =>
  rw [e1] at hr hrow
  have hs := eff_mmStation w d kd int m1
  have hst := mmStation_n w d kd int m1
  split
  next st last m2 e2 =>
  rw [e2] at hs hst
  extract_lets x u chk
  split
  next segs e e3 =>
  extract_lets x1
  split
  next rd ws e4 =>
  extract_lets op rdBusy m3
  have hu : u = m.clk.cycle := congrArg Clk.cycle ((hs.same .clk (by decide)).trans (hr.same .clk (by decide)))
  have hx : x = m.gal' g := (gal'_of_eff hs).trans (gal'_of_eff hr)
  have hi2 : m2.Inv := (hr.keeps.trans hs.keeps).inv hi
  have h3 : m3.gal' g = _ := setGal_get m2 g _ (rising_gal hi2)
  have hend : Steady g m3 (tap g d kd c kt int row0 k (segSum [.loadStall, .vecStall] segs) (e + 40) balHits acts
      (addPGal d.part (streamBusy x u e + rdBusy) (hallLost w (segSum [.loadStall, .vecStall] segs) m3))) :=
    (steady_of_eff (eff_hallLost ..)).trans ((steady_of_eff (eff_addPGal ..)).trans (steady_of_eff (eff_tap ..)))
  have hstore := hend.store ((eff_setGal ..).keeps.inv hi2)
  rw [h3] at hstore
  simp only [galStore, Prod.mk.injEq] at hstore
  obtain ⟨hacc, hops, -⟩ := hstore
  have hplan : galPlan x1 = galPlan x := streamHits_plan ..
  simp only [galPlan, Prod.mk.injEq] at hplan
  obtain ⟨pops, pgrp, prd⟩ := hplan
  refine ⟨hend.clk.trans ((hs.same .clk (by decide)).trans (hr.same .clk (by decide))), fun r j hj ho hh => ?_, op, ?_, rfl, rfl, rfl, hu,
    fun hs0 hg0 hrd0 => ?_⟩
  · rw [hacc, ← hx]
    refine streamHits_others (st := readWeights (d.b 75) ecc st) _ _ (fun a ha => ?_) hj (hst.trans_le hn) hh x
    have hm : a.row ∈ acts.map (·.row) := List.mem_map_of_mem ha
    rw [hrow] at hm
    obtain ⟨i, hi, hm⟩ := List.mem_map.1 hm
    have := List.mem_range.1 hi
    omega
  · rw [hops, pops, hx]
  · have hend' : e = u + kt * (32 + c * k) := by
      have h := mmSched_end (x := x) (hx ▸ hg0) u c kt (acts.map (·.row))
      rw [hs0] at e3
      rw [e3, hrow] at h
      simpa using h
    obtain ⟨hs1, hd1⟩ := mmRead_free e4 (pgrp.trans (hx ▸ hg0)) (by rw [prd, hx]; exact hrd0.trans (by show u ≤ e; omega))
    exact mmTimes_of_free hend' rfl hs1 hd1 rfl

/-! #### A descriptor's turn (R199) -/

/-- What the turn of the descriptor at the head of queue `k` leaves. -/
structure Turned (g : Nat) (k : QKey) (a b : Module) : Prop where
  inv : b.Inv
  clk : b.clk = (passToCycle (a.gal' g).busyTo a).clk
  gal : b.gal' g = a.gal' g
  queue : queue b k = (queue a k).tail

theorem galTurn_turned (hi : a.Inv) (h : galTurn g (dequeue k (settleBal g a)) = some b) : Turned g k a b := by
  have hs := eff_settleBal g a
  have hd := eff_dequeue k (settleBal g a)
  have ht := eff_galTurn g _ b h
  have hg : (dequeue k (settleBal g a)).gal' g = a.gal' g := (gal'_of_eff hd).trans (gal'_of_eff hs)
  have htime : SameAt timeAt a (dequeue k (settleBal g a)) := sameTime_settleBal g a
  refine ⟨(hs.keeps.trans (hd.keeps.trans ht.keeps)).inv hi, ?_, (gal'_of_eff ht).trans hg, ?_⟩
  · simp only [galTurn] at h
    split at h
    · cases h
    · cases h
      exact ((eff_settleBal ..).same .clk (by decide)).trans (hg ▸ clk_passToCycle htime _)
  · rw [queue_of_eff ht, queue_dequeue, queue_of_eff hs]

/-! #### ACC_LOAD and ACC_READ that start (R208) -/

/-- What the start of an ACC_LOAD or ACC_READ leaves of its Gallery, `x` being its state with the rows loaded. -/
structure AccStarted (g : Nat) (d : Desc) (load : Bool) (x : Gal) (a b : Module) : Prop where
  clk : b.clk = a.clk
  acc : (b.gal' g).acc = x.acc
  op : ∃ o : GalOp, (b.gal' g).ops = x.ops ++ [o] ∧ o.desc = d ∧ o.preload = load ∧ o.readout = !load ∧ o.outAddr = d.a 16
    ∧ o.startC = a.clk.cycle ∧ o.nextC = o.startC + 1

theorem accStart_started (hi : m.Inv) (d : Desc) (load : Bool) (x : Gal) : AccStarted g d load x m (accStart g d load x m) := by
  unfold accStart
  extract_lets u k t
  split
  extract_lets ws op
  refine ⟨rfl, ?_, op, ?_, rfl, rfl, rfl, rfl, rfl, rfl⟩
  all_goals rw [gal'_of_eff (eff_addPGal ..), setGal_get m g _ (rising_gal hi)]

/-! #### The three commands -/

theorem MmStarted.of_steady {stalls : List Nat} {c : Nat} {ecc : List EccHit} {a' b' : Module} (h : MmStarted g d stalls c ecc a' b)
    (ha : Steady g a a') (hia : a.Inv) (hb : Steady g b b') (hib : b.Inv) : MmStarted g d stalls c ecc a b' := by
  have sa := ha.store hia
  have sb := hb.store hib
  simp only [galStore, Prod.mk.injEq] at sa sb
  obtain ⟨aacc, aops, agrp, ard⟩ := sa
  obtain ⟨bacc, bops, -⟩ := sb
  obtain ⟨hclk, hrows, o, hops, hd, hr, hn, hs, ht⟩ := h
  refine ⟨hb.clk.trans (hclk.trans ha.clk), fun r j hj ho hh => ?_, o, ?_, hd, hr, hn, hs.trans (congrArg _ ha.clk), ?_⟩
  · rw [bacc, hrows r j hj ho hh, aacc]
  · rw [bops, hops, aops]
  · rwa [agrp, ard] at ht

theorem AccStarted.of_steady {load : Bool} {x : Gal} {a' b' : Module} (h : AccStarted g d load x a' b)
    (ha : Steady g a a') (hb : Steady g b b') (hib : b.Inv) : AccStarted g d load x a b' := by
  have sb := hb.store hib
  simp only [galStore, Prod.mk.injEq] at sb
  obtain ⟨bacc, bops, -⟩ := sb
  obtain ⟨hclk, hacc, o, hops, hd, hl, hr, ho, hs, hn⟩ := h
  exact ⟨hb.clk.trans (hclk.trans ha.clk), bacc.trans hacc, o, bops.trans hops, hd, hl, hr, ho, hs.trans (congrArg _ ha.clk), hn⟩

section
variable {g : Fin 64}

theorem matmul_starts (hi : b.Inv) (stalls : List Nat) (ecc balEcc : List EccHit) (errs : List MemErr) {kd c : Nat} {int : Bool}
    (hh : galHead (settleBal g s.m) g 0x10 = some (k, d)) (hr : matmulRefusal (dequeue k (settleBal g s.m)) g d = none)
    (hp : pairInfo (d.b 74) (d.b 75) = some (kd, c, int)) (ht : galTurn g (dequeue k (settleBal g s.m)) = some b) :
    Completes (.matmul g stalls ecc balEcc errs) s fun m => queue m k = queue b k ∧ MmStarted g d stalls c ecc b m := by
  have he : exec (.matmul g stalls ecc balEcc errs) s = done s (lockstep g d.part (dequeue k (settleBal g s.m))
      (mmStart g d stalls kd c int ecc balEcc (eccBoth d.part g ecc (galEcc d) (memErrs d.part errs (descStart 0 g d b))))) := by
    show execMatmul g stalls ecc balEcc errs s = _
    unfold execMatmul
    simp only [hh, hr, hp, ht]
  have ha : Steady g b (eccBoth d.part g ecc (galEcc d) (memErrs d.part errs (descStart 0 g d b))) :=
    (steady_of_eff (eff_descStart ..)).trans ((steady_of_eff (eff_memErrs ..)).trans (steady_eccBoth ..))
  refine completes_of_done he ⟨?_, (mmStart_started (ha.inv hi) (mmN_le_of_accepted hr) ..).of_steady ha hi (steady_lockstep ..)
    ((eff_mmStart ..).keeps.inv (ha.inv hi))⟩
  rw [queue_of_eff (eff_lockstep ..), queue_of_eff (eff_mmStart ..),
    queue_of_eff (eff_eccBoth (.refl _) fun u h m => eff_galEcc d u h m), queue_of_eff (eff_memErrs ..), queue_of_eff (eff_descStart ..)]

/-- What an ACC_LOAD makes of the rows of its Gallery. -/
structure AccLoaded (d : Desc) (x y : Gal) : Prop where
  plan : galPlan y = galPlan x
  clears : ∀ i j, i < accM d → accN d ≤ j → j < 1024 → nget 0 y.acc (accKey (accRow0 d + i) j) = 0
  others : ∀ r j, j < 1024 → (r < accRow0 d ∨ accRow0 d + accM d ≤ r) → nget 0 y.acc (accKey r j) = nget 0 x.acc (accKey r j)

theorem accLoaded_preloadRows (chk : Bool) {val : List Byte → List W64} {rows : List (List Byte)} (hr : rows.length = accM d)
    (hn : accN d ≤ 1024) (hv : ∀ l, (val l).length = accN d) (x : Gal) : AccLoaded d x (preloadRows chk (accRow0 d) val rows x) where
  plan := preloadRows_plan ..
  clears _ _ hi hj hj' := preloadRows_clears chk (hi.trans_eq hr.symm) (fun l => (hv l).trans_le hj) hj' x
  others _ _ hj ho := preloadRows_others chk (hr ▸ ho) hj (fun l => (hv l).trans_le hn) x

theorem AccLoaded.of_steady {x : Gal} (h : AccLoaded d (b.gal' g) x) (ha : Steady g a b) (hi : a.Inv) : AccLoaded d (a.gal' g) x := by
  have sa := ha.store hi
  simp only [galStore, Prod.mk.injEq] at sa
  obtain ⟨aacc, aops, agrp, ard⟩ := sa
  refine ⟨h.plan.trans ?_, h.clears, fun r j hj ho => ?_⟩
  · simp only [galPlan, aops, agrp, ard]
  · rw [h.others r j hj ho, aacc]

theorem accLoad_starts (hi : b.Inv) (errs : List MemErr) (hh : galHead (settleBal g s.m) g 0x11 = some (k, d))
    (hr : accRefusal (dequeue k (settleBal g s.m)) g d = none) (ht : galTurn g (dequeue k (settleBal g s.m)) = some b) :
    Completes (.accLoad g errs) s fun m =>
      queue m k = queue b k ∧ ∃ x, AccLoaded d (b.gal' g) x ∧ AccStarted g d true x b m := by
  let m1 := memErrs d.part errs (descStart 0 g d b)
  let rd := readRows (g.val / 32) d.part (d.a 16) (d.f 24 4) (spLen (d.b 32) (accN d)) (accM d) m1
  let val (l : List Byte) : List W64 := (List.range (accN d)).map (fun j => toA48 (elemVal (d.b 32) 0 l j))
  let x := preloadRows (chkOn rd.2 d.part) (accRow0 d) val rd.1 (rd.2.gal' g)
  have he : exec (.accLoad g errs) s = done s (lockstep g d.part (dequeue k (settleBal g s.m)) (accStart g d true x rd.2)) := by
    show execAccLoad g errs s = _
    unfold execAccLoad
    simp only [hh, hr, ht]
    rfl
  have ha : Steady g b rd.2 :=
    (steady_of_eff (eff_descStart ..)).trans ((steady_of_eff (eff_memErrs ..)).trans (steady_of_eff (eff_readRows ..)))
  have hx : AccLoaded d (rd.2.gal' g) x :=
    accLoaded_preloadRows _ (readRows_length ..) (accN_le_of_accepted hr) (fun l => by simp [val]) _
  refine completes_of_done he ⟨?_, x, hx.of_steady ha hi, (accStart_started (ha.inv hi) ..).of_steady ha (steady_lockstep ..)
    ((eff_accStart ..).keeps.inv (ha.inv hi))⟩
  rw [queue_of_eff (eff_lockstep ..), queue_of_eff (eff_accStart ..), queue_of_eff (eff_readRows ..), queue_of_eff (eff_memErrs ..),
    queue_of_eff (eff_descStart ..)]

theorem accRead_starts (hi : b.Inv) (hh : galHead (settleBal g s.m) g 0x12 = some (k, d))
    (hr : accRefusal (dequeue k (settleBal g s.m)) g d = none) (ht : galTurn g (dequeue k (settleBal g s.m)) = some b) :
    Completes (.accRead g) s fun m => queue m k = queue b k ∧ AccStarted g d false (b.gal' g) b m := by
  have he : exec (.accRead g) s = done s (lockstep g d.part (dequeue k (settleBal g s.m))
      (accStart g d false ((descStart 0 g d b).gal' g) (descStart 0 g d b))) := by
    show execAccRead g s = _
    unfold execAccRead
    simp only [hh, hr, ht]
  have hg : (descStart 0 g d b).gal' g = b.gal' g := gal'_of_eff (eff_descStart ..)
  have ha : Steady g b (descStart 0 g d b) := steady_of_eff (eff_descStart ..)
  rw [hg] at he
  refine completes_of_done he ⟨?_, (accStart_started (ha.inv hi) ..).of_steady ha (steady_lockstep ..)
    ((eff_accStart ..).keeps.inv (ha.inv hi))⟩
  rw [queue_of_eff (eff_lockstep ..), queue_of_eff (eff_accStart ..), queue_of_eff (eff_descStart ..)]

end

end Sys2Proof.Scope

section
open Sys2Proof Sys2Proof.Machine Sys2Proof.Scope

/-- Settles O13, by what the turn of a descriptor leaves of the Gallery and the clocks, and what each of the three then starts. -/
theorem galleryStartsMatmulAndMovesRows : Obligations.GalleryStartsMatmulAndMovesRows := by
  refine ⟨fun s g stalls ecc balEcc errs k d kd c int => ?_, fun s g errs k d hi => ?_⟩
  · intro m1 hh hr hp ht hi
    obtain ⟨b, hb⟩ := Option.isSome_iff_exists.1 ht
    have t := galTurn_turned hi hb
    obtain ⟨m, he, hq, hm⟩ := matmul_starts t.inv stalls ecc balEcc errs hh hr hp hb
    obtain ⟨o, hops, hd, hro, hre, hst, htime⟩ := hm.op
    have hclk : m.clk = (passToCycle (s.m.gal' g).busyTo s.m).clk := hm.clk.trans t.clk
    refine ⟨m, he, hq.trans t.queue, fun hecc r j hj ho => ?_, o, t.gal ▸ hops, hd, hro, hre, hst.trans (congrArg _ hm.clk.symm), hclk,
      t.gal ▸ htime⟩
    rw [← t.gal]
    refine hm.rows r j hj ho fun h hh hu h0 => ?_
    have := hecc h hh hu h0
    omega
  · intro m1 hr ht
    obtain ⟨b, hb⟩ := Option.isSome_iff_exists.1 ht
    have t := galTurn_turned hi hb
    refine ⟨fun hh => ?_, fun hh => ?_⟩
    · obtain ⟨m, he, hq, x, hx, hm⟩ := accLoad_starts t.inv errs hh hr hb
      obtain ⟨o, hops, hd, hl, hro, -, hst, hn⟩ := hm.op
      have hxo : x.ops = (s.m.gal' g).ops := (congrArg (·.1) hx.plan).trans (congrArg Gal.ops t.gal)
      refine ⟨m, he, hq.trans t.queue, ⟨o, hxo ▸ hops, hd, hl, hro, hst.trans (congrArg _ hm.clk.symm), hn⟩, ?_, ?_⟩
      · rw [hm.acc]
        exact hx.clears
      · rw [hm.acc, ← t.gal]
        exact hx.others
    · obtain ⟨m, he, hq, hm⟩ := accRead_starts t.inv hh hr hb
      obtain ⟨o, hops, hd, hl, hro, ha, hst, hn⟩ := hm.op
      exact ⟨m, he, hq.trans t.queue, hm.acc.trans (congrArg Gal.acc t.gal), o, t.gal ▸ hops, hd, hl, hro, ha,
        hst.trans (congrArg _ hm.clk.symm), hn⟩

end

/-! ### SLOTS, DOWN, UP and SCR_READ (O16) -/

namespace Sys2Proof.Scope
open Sys2Proof.Machine Sys2Proof.Laws

variable {s : State} {a c m m' : Module} {l : List Part} {b : Nat} {k : QKey} {d : Desc}

/-! #### What a Balcony holds -/

theorem rising_bal (h : m.Inv) : rising m.bal = true := by
  have hc := h.1
  simp only [Module.canonical, Bool.and_eq_true] at hc
  simp [hc]

theorem bal'_of_eff {j : Nat} (h : Eff l a c) (hl : Part.bal ∉ l := by decide) : c.bal' j = a.bal' j :=
  congrArg (nget Bal.init · j) (h.same .bal hl)

theorem queue_of_queues (h : c.queues = a.queues) (k : QKey) : queue c k = queue a k := congrArg (alGet [] · k) h

theorem count_of_counts (h : c.counts = a.counts) (p x cls i : Nat) : count c p x cls i = count a p x cls i :=
  congrArg (alGet 0 · _) h

/-- What a Balcony's descriptors read: its slots, its scratch and its tags. -/
def balTables (x : Bal) : NMap Slot × NMap W64 × NMap Byte := (x.slots, x.scratch, x.tags)

/-- The same, and the descriptors selected. -/
def balStore (x : Bal) : (NMap Slot × NMap W64 × NMap Byte) × List BalOp × Option BalOp := (balTables x, x.ups, x.held)

/-- No UP is in the pipeline and no DOWN is held. -/
def BalIdle (x : Bal) : Prop := x.ups = [] ∧ x.held = none

/-- Balcony `b` holds what it held, no time passed, no descriptor left its queue and none completed. -/
structure BalSteady (b : Nat) (a m : Module) : Prop where
  inv : a.Inv → m.Inv
  clk : m.clk = a.clk
  queues : m.queues = a.queues
  counts : m.counts = a.counts
  gal : m.gal' b = a.gal' b
  store : a.Inv → balStore (m.bal' b) = balStore (a.bal' b)

theorem BalSteady.tables (h : BalSteady b a m) (hi : a.Inv) : balTables (m.bal' b) = balTables (a.bal' b) :=
  congrArg (·.1) (h.store hi)

theorem BalSteady.slots (h : BalSteady b a m) (hi : a.Inv) : (m.bal' b).slots = (a.bal' b).slots := congrArg (·.1) (h.tables hi)

theorem BalSteady.ups (h : BalSteady b a m) (hi : a.Inv) : (m.bal' b).ups = (a.bal' b).ups := congrArg (·.2.1) (h.store hi)

theorem BalSteady.held (h : BalSteady b a m) (hi : a.Inv) : (m.bal' b).held = (a.bal' b).held := congrArg (·.2.2) (h.store hi)

theorem BalSteady.refl (m : Module) : BalSteady b m m := ⟨id, rfl, rfl, rfl, rfl, fun _ => rfl⟩

theorem BalSteady.trans (h : BalSteady b a m) (k : BalSteady b m c) : BalSteady b a c :=
  ⟨k.inv ∘ h.inv, k.clk.trans h.clk, k.queues.trans h.queues, k.counts.trans h.counts, k.gal.trans h.gal,
    fun hi => (k.store (h.inv hi)).trans (h.store hi)⟩

theorem BalSteady.ite {p : Prop} [Decidable p] (h : BalSteady b a m) (k : BalSteady b a c) :
    BalSteady b a (if p then m else c) := by
  split <;> assumption

theorem BalSteady.fold {α : Type} {f : Module → α → Module} {r : List α} (h : BalSteady b a m)
    (hf : ∀ m x, BalSteady b m (f m x)) : BalSteady b a (r.foldl f m) := by
  induction r generalizing m with
  | nil => exact h
  | cons x r ih => exact ih (h.trans (hf m x))

theorem BalSteady.of_eff (h : Eff l a m) (hl : ∀ p ∈ l, p ∉ [Part.clk, .queues, .counts, .gal, .bal] := by decide) :
    BalSteady b a m := by
  have hn : ∀ p ∈ [Part.clk, .queues, .counts, .gal, .bal], p ∉ l := fun p hp hm => hl p hm hp
  exact ⟨h.keeps.inv, h.same .clk (hn _ (by decide)), h.same .queues (hn _ (by decide)), h.same .counts (hn _ (by decide)),
    gal'_of_eff h (hn _ (by decide)), fun _ => congrArg balStore (bal'_of_eff h (hn _ (by decide)))⟩

theorem BalSteady.setBal {x : Bal} (h : balStore x = balStore (m.bal' b) := by rfl) : BalSteady b m (m.setBal b x) :=
  ⟨(eff_setBal ..).keeps.inv, rfl, rfl, rfl, rfl, fun hi => (congrArg balStore (setBal_get m b x (rising_bal hi))).trans h⟩

theorem BalSteady.setBal_ne {u : Nat} (h : b ≠ u) (x : Bal) (m : Module) : BalSteady b m (m.setBal u x) :=
  ⟨(eff_setBal ..).keeps.inv, rfl, rfl, rfl, rfl, fun _ => congrArg balStore (setBal_get_ne m u x b h)⟩

theorem BalSteady.setGal_ne {u : Nat} (h : b ≠ u) (x : Gal) (m : Module) : BalSteady b m (m.setGal u x) :=
  ⟨(eff_setGal ..).keeps.inv, rfl, rfl, rfl, setGal_get_ne m u x b h, fun _ => rfl⟩

theorem BalSteady.balEcc (u : Nat) (d : Desc) (hits : List EccHit) (m : Module) : BalSteady b m (balEcc d u hits m) := by
  unfold Machine.balEcc
  extract_lets x last
  refine BalSteady.trans ?_ (.of_eff (eff_eccEvents ..))
  obtain rfl | h := eq_or_ne b u
  · exact .setBal
  · exact .setBal_ne h _ m

theorem BalSteady.eccBoth (p u : Nat) (d : Desc) (hits : List EccHit) (m : Module) :
    BalSteady b m (eccBoth p u hits (Machine.balEcc d) m) := by
  unfold Machine.eccBoth
  extract_lets m1
  have h1 : BalSteady b m m1 := .balEcc ..
  exact .ite (h1.trans (.balEcc ..)) h1

theorem BalSteady.lockstep (p : Nat) (m0 m : Module) : BalSteady b m (lockstep b p m0 m) := by
  unfold Machine.lockstep
  extract_lets e e0 y y0 x z m1
  exact .ite ((BalSteady.setGal_ne (by omega) _ m).trans (.setBal_ne (by omega) ..)) (.refl m)

theorem BalSteady.scrWrite (x : Bal) (d : Desc) (rows : List Nat) (m : Module) : BalSteady b m (scrWrite b x d rows m) :=
  (BalSteady.refl m).fold fun _ _ => (BalSteady.setBal (b := b)).trans (.of_eff (eff_hallWrite ..))

/-- What a Balcony's descriptors read is as it was; where it is idle it stays so and nothing completes. -/
structure BalKept (b : Nat) (a m : Module) : Prop where
  inv : a.Inv → m.Inv
  queues : m.queues = a.queues
  gal : m.gal' b = a.gal' b
  tables : a.Inv → balTables (m.bal' b) = balTables (a.bal' b)
  held : a.Inv → (a.bal' b).held = none → (m.bal' b).held = none
  idle : a.Inv → BalIdle (a.bal' b) → BalIdle (m.bal' b) ∧ m.counts = a.counts

theorem BalKept.trans (h : BalKept b a m) (k : BalKept b m c) : BalKept b a c := by
  refine ⟨k.inv ∘ h.inv, k.queues.trans h.queues, k.gal.trans h.gal, fun hi => (k.tables (h.inv hi)).trans (h.tables hi),
    fun hi hh => k.held (h.inv hi) (h.held hi hh), fun hi hx => ?_⟩
  obtain ⟨hm, hn⟩ := h.idle hi hx
  obtain ⟨hc, hn'⟩ := k.idle (h.inv hi) hm
  exact ⟨hc, hn'.trans hn⟩

theorem BalSteady.kept (h : BalSteady b a m) : BalKept b a m where
  inv := h.inv
  queues := h.queues
  gal := h.gal
  tables := h.tables
  held hi hh := (h.held hi).trans hh
  idle hi hx := ⟨⟨(h.ups hi).trans hx.1, (h.held hi).trans hx.2⟩, h.counts⟩

/-! #### What ends (R234, R244) -/

/-- The UPs that have ended. -/
def upsDue (b : Nat) (m : Module) : List BalOp := (m.bal' b).ups.filter (fun o => o.doneC ≤ m.clk.cycle)

/-- The UPs still in the pipeline. -/
def upsLeft (b : Nat) (m : Module) : List BalOp := (m.bal' b).ups.filter (fun o => m.clk.cycle < o.doneC)

theorem eff_completeUps (b : Nat) (r : List BalOp) (m : Module) :
    Eff doneParts m (r.foldl (fun m o => complete 1 b o.desc o.failed m) m) :=
  (Eff.refl m).fold fun _ _ => (eff_complete ..).mono rfl

/-- The Balcony after its settling: the UPs that have ended are gone, and so may be a DOWN it held. -/
theorem settleBal_bal' (hi : m.Inv) : let x := m.bal' b; let y := (settleBal b m).bal' b
    balTables y = balTables x ∧ y.ups = upsLeft b m ∧ (x.held = none → y.held = none) := by
  unfold settleBal
  extract_lets x due m1 m2 x2 y
  have he : Eff doneParts m1 m2 := eff_completeUps b due m1
  have hi2 : m2.Inv := ((eff_setBal ..).keeps.trans he.keeps).inv hi
  obtain ⟨ht, hu, hh⟩ : balTables x2 = balTables x ∧ x2.ups = upsLeft b m ∧ x2.held = x.held := by
    rw [show x2 = _ from (bal'_of_eff he).trans (setBal_get m b _ (rising_bal hi))]
    exact ⟨rfl, rfl, rfl⟩
  dsimp only [y]
  split
  · split
    · rw [bal'_of_eff (eff_complete ..), setBal_get m2 b _ (rising_bal hi2)]
      exact ⟨ht, hu, fun _ => rfl⟩
    · exact ⟨ht, hu, hh.trans⟩
  · exact ⟨ht, hu, hh.trans⟩

/-- Where no DOWN is held, what ends are UPs. -/
theorem settleBal_unheld (hi : m.Inv) (hh : (m.bal' b).held = none) :
    ∃ y, settleBal b m = (upsDue b m).foldl (fun m o => complete 1 b o.desc o.failed m) (m.setBal b y) := by
  unfold settleBal
  extract_lets x due m1 m2 x2
  have he : Eff doneParts m1 m2 := eff_completeUps b due m1
  have h2 : x2 = _ := (bal'_of_eff he).trans (setBal_get m b _ (rising_bal hi))
  have hn : x2.held = none := (congrArg Bal.held h2).trans hh
  split
  next ho => simp [hn] at ho
  next => exact ⟨_, rfl⟩

theorem counts_settleBal_none (hi : m.Inv) (hh : (m.bal' b).held = none) (hd : upsDue b m = []) :
    (settleBal b m).counts = m.counts := by
  obtain ⟨y, hy⟩ := settleBal_unheld hi hh
  rw [hy, hd]
  rfl

theorem count_settleBal_one (hi : m.Inv) (hh : (m.bal' b).held = none) {o : BalOp} (hd : upsDue b m = [o]) :
    count (settleBal b m) o.desc.part o.desc.ctx 1 b = count m o.desc.part o.desc.ctx 1 b + 1 := by
  obtain ⟨y, hy⟩ := settleBal_unheld hi hh
  rw [hy, hd]
  exact count_complete ..

theorem BalKept.settleBal (b : Nat) (m : Module) : BalKept b m (settleBal b m) := by
  have he := eff_settleBal b m
  refine ⟨he.keeps.inv, he.same .queues (by decide), gal'_of_eff he, fun hi => ?_, fun hi hh => ?_, fun hi hx => ?_⟩
  all_goals obtain ⟨ht, hu, hn⟩ := settleBal_bal' (b := b) hi
  · exact ht
  · exact hn hh
  · obtain ⟨hx, hh⟩ := hx
    exact ⟨⟨by simp [hu, upsLeft, hx], hn hh⟩, counts_settleBal_none hi hh (by simp [upsDue, hx])⟩

theorem BalKept.passToCycle (b t : Nat) (m : Module) : BalKept b m (passToCycle t m) := by
  have he := eff_passToCycle t m
  have hb : (Machine.passToCycle t m).bal' b = m.bal' b := bal'_of_eff he
  refine ⟨he.keeps.inv, he.same .queues (by decide), gal'_of_eff he, fun _ => congrArg balTables hb, fun _ hh => ?_, fun _ hx => ?_⟩
  all_goals rw [hb]
  · exact hh
  · exact ⟨hx, he.same .counts (by decide)⟩

theorem BalKept.balTurn (b : Nat) (m : Module) : BalKept b m (balTurn b m) :=
  (BalKept.passToCycle ..).trans (.settleBal ..)

/-! #### A descriptor taken from its queue (R234) -/

/-- What the selection of the descriptor at the head of queue `k` leaves: as `BalKept`, but for that queue. -/
structure BalTaken (b : Nat) (k : QKey) (a m : Module) : Prop where
  inv : m.Inv
  tail : queue m k = (queue a k).tail
  gal : m.gal = a.gal
  tables : balTables (m.bal' b) = balTables (a.bal' b)
  held : (m.bal' b).held = none
  idle : BalIdle (a.bal' b) → BalIdle (m.bal' b) ∧ m.counts = a.counts

theorem balHead_held {ty : Nat} (h : balHead m b ty = some (k, d)) : (m.bal' b).held = none := by
  unfold balHead at h
  split at h
  next hc => simpa using (Bool.and_eq_true_iff.1 hc).1
  next => cases h

theorem balTaken (hi : a.Inv) {ty : Nat} (h : balHead (balTurn b (settleBal b a)) b ty = some (k, d)) :
    BalTaken b k a (dequeue k (balTurn b (settleBal b a))) := by
  have ht : BalKept b a (balTurn b (settleBal b a)) := (BalKept.settleBal b a).trans (.balTurn ..)
  have hd := eff_dequeue k (balTurn b (settleBal b a))
  have hb : (dequeue k (balTurn b (settleBal b a))).bal' b = (balTurn b (settleBal b a)).bal' b := bal'_of_eff hd
  have hg : (dequeue k (balTurn b (settleBal b a))).gal = a.gal := (hd.same .gal (by decide)).trans
    (((eff_balTurn ..).same .gal (by decide)).trans ((eff_settleBal ..).same .gal (by decide)))
  refine ⟨hd.keeps.inv (ht.inv hi), ?_, hg, ?_, ?_, fun hx => ?_⟩
  · rw [queue_dequeue, queue_of_queues ht.queues]
  · rw [hb, ht.tables hi]
  · rw [hb, balHead_held h]
  · obtain ⟨hy, hc⟩ := ht.idle hi hx
    rw [hb]
    exact ⟨hy, (hd.same .counts (by decide)).trans hc⟩

theorem BalTaken.of_kept (t : BalTaken b k a m) (h : BalKept b m m') (hg : m'.gal = m.gal) : BalTaken b k a m' := by
  refine ⟨h.inv t.inv, (queue_of_queues h.queues k).trans t.tail, hg.trans t.gal, (h.tables t.inv).trans t.tables, h.held t.inv t.held,
    fun hx => ?_⟩
  obtain ⟨hm, ha⟩ := t.idle hx
  obtain ⟨hm', hc⟩ := h.idle t.inv hm
  exact ⟨hm', hc.trans ha⟩

/-- A descriptor that completes after it was taken: its queue has lost it, and where the Balcony was idle its count has risen by one. -/
theorem BalTaken.complete_ends (t : BalTaken b k a m) (hq : m'.queues = m.queues)
    (hc : BalIdle (m.bal' b) → m'.counts = m.counts) :
    queue (complete 1 b d false m') k = (queue a k).tail
    ∧ (BalIdle (a.bal' b) → count (complete 1 b d false m') d.part d.ctx 1 b = count a d.part d.ctx 1 b + 1) := by
  refine ⟨?_, fun hx => ?_⟩
  · rw [queue_of_eff (eff_complete ..), queue_of_queues hq, t.tail]
  · obtain ⟨hm, ha⟩ := t.idle hx
    rw [count_complete, count_of_counts ((hc hm).trans ha)]

/-! #### SLOTS, DOWN and SCR_READ (R235 to R239, R252) -/

/-- A table whose entries are set one after another holds each of them. -/
theorem nget_foldl_nset {α : Type} [DecidableEq α] (e : α) (f : Nat → α) {n i : Nat} (hi : i < n) :
    nget e ((List.range n).foldl (fun (l : NMap α) j => nset e l j (f j)) []) i = f i := by
  suffices h : ∀ n, let t := (List.range n).foldl (fun (l : NMap α) j => nset e l j (f j)) []
      rising t = true ∧ ∀ i, i < n → nget e t i = f i from (h n).2 i hi
  intro n
  induction n with
  | zero => exact ⟨rfl, fun i hi => absurd hi (Nat.not_lt_zero i)⟩
  | succ n ih =>
    obtain ⟨hr, hn⟩ := ih
    simp only [List.range_succ, List.foldl_append, List.foldl_cons, List.foldl_nil]
    refine ⟨rising_nset hr, fun i hi => ?_⟩
    obtain rfl | hne := eq_or_ne i n
    · exact nget_nset_self hr
    · rw [nget_nset_of_ne hne, hn i (by omega)]

theorem slotEntry_invalid {i : Nat} (h : (d.b (16 + 32 * i + 22)).getLsbD 7 = false) : slotEntry d i = Slot.init := by
  unfold slotEntry
  extract_lets o
  rw [if_neg (by rw [h]; decide)]

section
variable {u : Fin 64}

theorem slots_completes (hi : s.m.Inv) (hh : balHead (balTurn u (settleBal u s.m)) u 0x20 = some (k, d))
    (hr : slotsRefusal (dequeue k (balTurn u (settleBal u s.m))) u d = none) :
    Completes (.slots u) s fun m => (queue m k = (queue s.m k).tail
      ∧ (BalIdle (s.m.bal' u) → count m d.part d.ctx 1 u = count s.m d.part d.ctx 1 u + 1))
      ∧ ∀ i, i < 8 → nget Slot.init (m.bal' u).slots i = slotEntry d i := by
  show Ends s _ (execSlots u s)
  unfold execSlots
  extract_lets m
  simp -zeta only [show balHead m u 0x20 = _ from hh]
  extract_lets m0 m1 m2 x m3
  simp -zeta only [show slotsRefusal m0 u d = _ from hr]
  have t : BalTaken u k s.m m0 := balTaken hi hh
  clear_value m0
  have h2 : BalKept u m0 m2 := (BalSteady.of_eff (eff_descStart ..)).kept.trans ((BalKept.passToCycle ..).trans (.settleBal ..))
  have hl : BalSteady u m3 (lockstep u d.part m0 m3) := .lockstep ..
  have he : Eff [.bal] m2 m3 := eff_setBal ..
  have hq : m3.queues = m0.queues := (he.same .queues (by decide)).trans h2.queues
  have hc : m3.counts = m2.counts := he.same .counts (by decide)
  refine ends_done ⟨t.complete_ends (hl.queues.trans hq) fun hx => hl.counts.trans (hc.trans (h2.idle t.inv hx).2), fun i hi8 => ?_⟩
  have h3 : m3.bal' u = _ := setBal_get m2 u _ (rising_bal (h2.inv t.inv))
  rw [bal'_of_eff (eff_complete ..), hl.slots (he.keeps.inv (h2.inv t.inv)), h3]
  dsimp only
  exact nget_foldl_nset Slot.init (slotEntry d) hi8

theorem down_completes (hi : s.m.Inv) (hh : balHead (balTurn u (settleBal u s.m)) u 0x21 = some (k, d))
    (hr : downRefusal (dequeue k (balTurn u (settleBal u s.m))) u d = none) :
    Completes (.down u) s fun m => queue m k = (queue s.m k).tail ∧ m.clk = (balTurn u (settleBal u s.m)).clk
      ∧ (m.bal' u).held = some { desc := d, phase := 1, startC := m.clk.cycle, endC := 0, segs := [], doneC := 0, failed := false }
      ∧ (m.bal' u).slots = (s.m.bal' u).slots ∧ (m.bal' u).scratch = (s.m.bal' u).scratch
      ∧ m.gal = s.m.gal := by
  show Ends s _ (execDown u s)
  unfold execDown
  extract_lets m
  simp -zeta only [show balHead m u 0x21 = _ from hh]
  extract_lets m0 m1 x
  simp -zeta only [show downRefusal m0 u d = _ from hr]
  have t : BalTaken u k s.m m0 := balTaken hi hh
  have hc : m0.clk = m.clk := (eff_dequeue ..).same .clk (by decide)
  clear_value m0
  have he : Eff _ m0 m1 := eff_descStart ..
  have hx : x = m0.bal' u := bal'_of_eff he
  have hb := setBal_get m1 u { x with
    held := some { desc := d, phase := 1, startC := m1.clk.cycle, endC := 0, segs := [], doneC := 0, failed := false }
    lastProgress := m1.clk.elapsed } (rising_bal (he.keeps.inv t.inv))
  have ht := t.tables
  refine ends_done ⟨(queue_of_eff he).trans t.tail, (he.same .clk (by decide)).trans hc, ?_, ?_, ?_,
    (he.same .gal (by decide)).trans t.gal⟩
  all_goals rw [hb]
  · rfl
  · exact (congrArg Bal.slots hx).trans (congrArg (·.1) ht)
  · exact (congrArg Bal.scratch hx).trans (congrArg (·.2.1) ht)

theorem scrRead_completes (hi : s.m.Inv) (diff : Bool) (ecc : List EccHit)
    (hh : balHead (balTurn u (settleBal u s.m)) u 0x23 = some (k, d))
    (hr : scrRefusal (dequeue k (balTurn u (settleBal u s.m))) u d = none) :
    Completes (.scrRead u diff ecc) s fun m => (queue m k = (queue s.m k).tail
      ∧ (BalIdle (s.m.bal' u) → count m d.part d.ctx 1 u = count s.m d.part d.ctx 1 u + 1))
      ∧ (m.bal' u).scratch = (s.m.bal' u).scratch ∧ m.gal' u = s.m.gal' u := by
  show Ends s _ (execScrRead u diff ecc s)
  unfold execScrRead
  extract_lets m
  simp -zeta only [show balHead m u 0x23 = _ from hh]
  extract_lets m0 m1 x rows m2 m3 m4 m5 m6
  simp -zeta only [show scrRefusal m0 u d = _ from hr]
  have t : BalTaken u k s.m m0 := balTaken hi hh
  clear_value m0
  have h1 : BalSteady u m0 m1 := (BalSteady.of_eff (eff_descStart ..)).trans (.eccBoth ..)
  have h2 : BalKept u m0 (settleBal u m2) := h1.kept.trans ((BalKept.passToCycle ..).trans (.settleBal ..))
  have h3 : BalSteady u (settleBal u m2) m3 := .scrWrite ..
  have h4 : BalSteady u (settleBal u m2) m4 := .ite h3 (h3.trans (.of_eff (eff_hallWrite ..)))
  have h5 : BalSteady u (settleBal u m2) m5 := h4.trans (.lockstep ..)
  have h6 : BalKept u m0 m6 := h2.trans (BalSteady.ite (h5.trans (.of_eff (eff_comparePair ..))) h5).kept
  refine ends_done ⟨t.complete_ends h6.queues fun hx => (h6.idle t.inv hx).2, ?_, ?_⟩
  · rw [bal'_of_eff (eff_complete ..)]
    exact congrArg (·.2.1) ((h6.tables t.inv).trans t.tables)
  · rw [gal'_of_eff (eff_complete ..), h6.gal]
    exact congrArg (nget Gal.init · u) t.gal

end
/-! #### UP (R234, R245 to R249) -/

/-- The rows that an UP passes go by the slots and the tags, whatever errors its reads meet. -/
theorem upSelected_balRead {x y : Bal} (h : balTables x = balTables y) (hits : List EccHit) (d : Desc) :
    upSelected (balRead hits x) d = upSelected (balRead hits y) d := by
  have hr : balTables (balRead hits x) = balTables (balRead hits y) := by
    unfold balRead
    induction hits.filter (fun h => h.unc && !h.odd) generalizing x y with
    | nil => exact h
    | cons e r ih =>
      refine ih ?_
      simp only [balTables, Prod.mk.injEq] at h ⊢
      obtain ⟨h1, h2, h3⟩ := h
      split
      · simp [h1, h2, h3]
      · split <;> simp [h1, h2, h3]
  simp only [balTables, Prod.mk.injEq] at hr
  obtain ⟨hs, -, ht⟩ := hr
  have htag (r : Nat) : tagSlot (balRead hits x) r = tagSlot (balRead hits y) r := by
    unfold tagSlot
    rw [hs, ht]
  simp only [upSelected, htag]

/-- No UP in the pipeline completes after the last. -/
theorem doneC_le_lastUpC {x : Bal} {o : BalOp} (h : o ∈ x.ups) : o.doneC ≤ lastUpC x := by
  suffices hm : ∀ (r : List BalOp) n, n ≤ r.foldl (fun a o => max a o.doneC) n
      ∧ ∀ o ∈ r, o.doneC ≤ r.foldl (fun a o => max a o.doneC) n from (hm x.ups 0).2 o h
  intro r
  induction r with
  | nil => simp
  | cons q r ih =>
    intro n
    obtain ⟨hn, hr⟩ := ih (max n q.doneC)
    simp only [List.foldl_cons, List.mem_cons, forall_eq_or_imp]
    exact ⟨by omega, by omega, hr⟩

theorem lastUpC_congr {x y : Bal} (h : x.ups = y.ups) : lastUpC x = lastUpC y := by rw [lastUpC, lastUpC, h]

/-- What an UP with rows to pass leaves of its Balcony: it stands last in the pipeline, and with no stall and no row group to wait for
it has the cycles of R249. -/
def UpStarted (b : Nat) (d : Desc) (stalls : List Nat) (n : Nat) (rows : List Nat) (g : Gal) (a m : Module) : Prop :=
  ∃ o : BalOp, (m.bal' b).ups = (a.bal' b).ups ++ [o] ∧ o.desc = d ∧ o.phase = 4 ∧ o.startC = a.clk.cycle
    ∧ (stalls = [] → g.grpFree = [] → o.doneC = a.clk.cycle + upTiles d * (32 + n * rows.length) + 40)

theorem upStart_starts (hi : m.Inv) (stalls : List Nat) (kd n : Nat) (int : Bool) (ecc : List EccHit) (rows : List Nat) :
    UpStarted b d stalls n rows (m.gal' b) m (upStart b d stalls kd n int ecc rows m).2 := by
  unfold upStart
  extract_lets kt cols w
  have hr := eff_readRows w d.part (d.a 16) (d.f 32 4) (spLen (d.b 47) (cols * kd)) kt m
  split
  next tiles m1 e1 =>
  rw [e1] at hr
  have hs : Eff memParts m1 (if spMx (d.b 47) then readRows w d.part (d.a 24) 2048 (cols * (kd / 32)) kt m1 else ([], m1)).2 := by
    split
    · exact (eff_readRows ..).mono rfl
    · exact .refl m1
  split
  next scales m2 e2 =>
  rw [e2] at hs
  extract_lets x g feeds convs st acts u
  split
  next segs e e3 =>
  extract_lets g1 m3 m4
  have hm : Eff memParts m m2 := (hr.mono rfl).trans hs
  have hx : x = m.bal' b := bal'_of_eff hm
  have hg : g = m.gal' b := gal'_of_eff hm
  have hu : u = m.clk.cycle := congrArg Clk.cycle (hm.same .clk (by decide))
  have h4 : Eff [.mem, .gal, .dbg] m2 m4 :=
    ((eff_hallLost ..).mono rfl).trans (((eff_setGal ..).mono rfl).trans ((eff_addPGal ..).mono rfl))
  have hi4 : m4.Inv := (hm.keeps.trans h4.keeps).inv hi
  refine ⟨_, (congrArg Bal.ups (setBal_get m4 b _ (rising_bal hi4))).trans (congrArg (·.ups ++ _) hx), rfl, rfl, hu, fun h0 hf => ?_⟩
  have he : e = u + kt * (32 + n * rows.length) := by
    have h := mmSched_end (hg ▸ hf) u n kt rows
    rwa [← h0, e3] at h
  exact congrArg (· + 40) (hu ▸ he)

/-- An UP with no row to pass completes after the UPs before it, at once where there is none (R234, R248). -/
structure UpNothing (b : Nat) (d : Desc) (a m : Module) : Prop where
  alone : (a.bal' b).ups = [] → (m.bal' b).ups = [] ∧ count m d.part d.ctx 1 b = count a d.part d.ctx 1 b + 1
  after : (a.bal' b).ups ≠ [] → ∃ o : BalOp, (m.bal' b).ups = (a.bal' b).ups ++ [o] ∧ o.desc = d ∧ o.doneC = lastUpC (a.bal' b)

theorem upNothing_settleBal (hi : m.Inv) {y : Bal} {o : BalOp} (hh : y.held = none) (hm : y.ups = (a.bal' b).ups ++ [o])
    (hc : m.counts = a.counts) (hr : ∀ q ∈ (a.bal' b).ups, m.clk.cycle < q.doneC) (hd : o.desc = d)
    (ho : o.doneC = max m.clk.cycle (lastUpC (a.bal' b))) : UpNothing b d a (settleBal b (m.setBal b y)) := by
  have hy : (m.setBal b y).bal' b = y := setBal_get m b y (rising_bal hi)
  have hi' : (m.setBal b y).Inv := (eff_setBal ..).keeps.inv hi
  obtain ⟨-, hu, -⟩ := settleBal_bal' (b := b) hi'
  refine ⟨fun h0 => ?_, fun hn => ⟨o, ?_, hd, ?_⟩⟩
  · have hl : o.doneC = m.clk.cycle := by simp [ho, lastUpC, h0]
    have h1 := count_settleBal_one hi' (hy ▸ hh) (o := o) (by simp [upsDue, hy, hm, h0, hl])
    rw [hd] at h1
    exact ⟨by simp [hu, upsLeft, hy, hm, h0, hl], h1.trans (congrArg (· + 1) (count_of_counts hc ..))⟩
  all_goals
    obtain ⟨q, hq⟩ := List.exists_mem_of_ne_nil _ hn
    have h1 := hr q hq
    have h2 := doneC_le_lastUpC hq
  · rw [hu, upsLeft, hy, hm]
    refine List.filter_eq_self.2 fun p hp => decide_eq_true (?_ : m.clk.cycle < p.doneC)
    obtain hp | hp := List.mem_append.1 hp
    · exact hr p hp
    · rw [List.mem_singleton.1 hp]
      omega
  · omega

theorem settleBal_left (hi : m.Inv) : ∀ q ∈ ((settleBal b m).bal' b).ups, (settleBal b m).clk.cycle < q.doneC := by
  obtain ⟨-, hu, -⟩ := settleBal_bal' (b := b) hi
  intro q hq
  rw [hu, upsLeft, List.mem_filter] at hq
  rw [show (settleBal b m).clk = m.clk from (eff_settleBal ..).same .clk (by decide)]
  exact of_decide_eq_true hq.2

section
variable {u : Fin 64}

theorem up_completes (hi : s.m.Inv) (stalls : List Nat) (diff : Bool) (ecc : List EccHit) (errs : List MemErr) {kd n : Nat} {int : Bool}
    (hh : balHead (balTurn u (settleBal u s.m)) u 0x22 = some (k, d))
    (hr : upRefusal (dequeue k (balTurn u (settleBal u s.m))) u d = none) (hp : pairInfo (d.b 46) (d.b 47) = some (kd, n, int)) :
    let m2 := settleBal u (passToCycle (s.m.gal' u).busyTo (dequeue k (balTurn u (settleBal u s.m))))
    let rows := upSelected (balRead ecc (s.m.bal' u)) d
    Completes (.up u stalls diff ecc errs) s fun m =>
      queue m k = (queue s.m k).tail ∧ m.clk = m2.clk ∧ (rows = [] → m.gal = s.m.gal ∧ UpNothing u d m2 m)
      ∧ (rows ≠ [] → UpStarted u d stalls n rows (s.m.gal' u) m2 m) := by
  extract_lets a2 rows
  show Ends s _ (execUp u stalls diff ecc errs s)
  unfold execUp
  extract_lets m
  simp -zeta only [show balHead m u 0x22 = _ from hh]
  extract_lets m0 m2 m4 x rows' now
  simp -zeta only [show upRefusal m0 u d = _ from hr, hp]
  have t : BalTaken u k s.m m0 := balTaken hi hh
  have hg0 : m0.gal' u = s.m.gal' u := congrArg (nget Gal.init · u) t.gal
  have ha : a2 = m2 := congrArg (fun x : Gal => settleBal u (passToCycle x.busyTo m0)) hg0.symm
  rw [ha]
  clear ha a2
  clear_value m0
  have t2 : BalTaken u k s.m m2 := t.of_kept ((BalKept.passToCycle ..).trans (.settleBal ..))
    (((eff_settleBal ..).same .gal (by decide)).trans ((eff_passToCycle ..).same .gal (by decide)))
  have hl : ∀ q ∈ (m2.bal' u).ups, m2.clk.cycle < q.doneC := settleBal_left ((eff_passToCycle ..).keeps.inv t.inv)
  clear_value m2
  have e4 : Eff (.bal :: memParts) m2 m4 :=
    eff_eccBoth (((eff_descStart ..).mono rfl).trans ((eff_memErrs ..).mono rfl)) fun u h m => (eff_balEcc d u h m).mono rfl
  have h4 : BalSteady u m2 m4 := (BalSteady.of_eff (eff_descStart ..)).trans ((BalSteady.of_eff (eff_memErrs ..)).trans (.eccBoth ..))
  clear_value m4
  have t4 : BalTaken u k s.m m4 := t2.of_kept h4.kept (e4.same .gal (by decide))
  have hrows : rows' = rows := upSelected_balRead t4.tables ecc d
  have hups : (m4.bal' u).ups = (m2.bal' u).ups := h4.ups t2.inv
  split
  next h0 =>
    have h0 : rows = [] := hrows ▸ List.isEmpty_iff.1 h0
    have he {y : Bal} : Eff (.bal :: doneParts) m4 (settleBal u (m4.setBal u y)) :=
      ((eff_setBal ..).mono rfl).trans ((eff_settleBal ..).mono rfl)
    refine ends_done ⟨(queue_of_eff he).trans t4.tail, (he.same .clk (by decide)).trans h4.clk, fun _ =>
      ⟨(he.same .gal (by decide)).trans t4.gal, ?_⟩, fun hn => absurd h0 hn⟩
    exact upNothing_settleBal t4.inv t4.held (congrArg (· ++ _) hups) h4.counts (h4.clk ▸ hl) rfl
      (congrArg (max _) (lastUpC_congr hups))
  next h0 =>
    have h0 : rows ≠ [] := fun h => h0 (by rw [hrows, h]; rfl)
    extract_lets r m5
    have hr5 : BalSteady u r.2 m5 := .lockstep ..
    have h5 : BalSteady u r.2 (if fullMode m5 d.part then comparePair (u / 32) 1 u r.1.length (b2n diff) d m5 else m5) :=
      .ite (hr5.trans (.of_eff (eff_comparePair ..))) hr5
    have er : Eff _ m4 r.2 := eff_upStart ..
    obtain ⟨o, hu, ho⟩ : UpStarted u d stalls n rows' (m4.gal' u) m4 r.2 := upStart_starts t4.inv ..
    refine ends_done ⟨?_, h5.clk.trans ((er.same .clk (by decide)).trans h4.clk), fun h => absurd h h0, fun _ => ⟨o, ?_, ?_⟩⟩
    · rw [queue_of_queues h5.queues, queue_of_eff er, t4.tail]
    · rw [h5.ups (er.keeps.inv t4.inv), hu, hups]
    · rw [← hrows, ← h4.clk, show s.m.gal' u = m4.gal' u from congrArg (nget Gal.init · u) t4.gal.symm]
      exact ho

theorem upComplete_completes (hi : s.m.Inv) {o : BalOp} {r : List BalOp} (hu : (s.m.bal' u).ups = o :: r)
    (hh : (s.m.bal' u).held = none) :
    Completes (.upComplete u) s fun m => m.clk = (passToCycle o.doneC s.m).clk
      ∧ (m.bal' u).ups = (s.m.bal' u).ups.filter (fun q => m.clk.cycle < q.doneC)
      ∧ (r = [] → o.doneC ≤ m.clk.cycle → count m o.desc.part o.desc.ctx 1 u = count s.m o.desc.part o.desc.ctx 1 u + 1) := by
  have he : exec (.upComplete u) s = done s (settleBal u (passToCycle o.doneC s.m)) := by
    show execUpComplete u s = _
    unfold execUpComplete
    rw [hu]
  have hp := eff_passToCycle o.doneC s.m
  have hb : (passToCycle o.doneC s.m).bal' u = s.m.bal' u := bal'_of_eff hp
  have hi1 := hp.keeps.inv hi
  have hc : (settleBal u (passToCycle o.doneC s.m)).clk = (passToCycle o.doneC s.m).clk := (eff_settleBal ..).same .clk (by decide)
  obtain ⟨-, hl, -⟩ := settleBal_bal' (b := u) hi1
  refine completes_of_done he ⟨hc, ?_, fun h0 hd => ?_⟩
  · rw [hl, upsLeft, hb, hc]
  · rw [hc] at hd
    rw [count_settleBal_one hi1 (hb ▸ hh) (by simp [upsDue, hb, hu, h0, hd]), count_of_eff hp]

end

end Sys2Proof.Scope

section
open Sys2Proof Sys2Proof.Machine Sys2Proof.Scope

/-- Settles O16, by what the selection of a descriptor leaves of its Balcony, what each of the four then makes of it, and what ends. -/
theorem balconyDescriptorsRunAndComplete : Obligations.BalconyDescriptorsRunAndComplete := by
  refine ⟨fun s b k d hi => ⟨fun hh hr => ?_, fun hh hr => ?_, fun diff ecc hh hr => ?_⟩,
    fun s b stalls diff ecc errs k d kd c int hi => ⟨fun hh hr hp => ?_, fun o r hu hh => upComplete_completes hi hu hh, rfl⟩⟩
  · obtain ⟨m, he, ⟨hq, hc⟩, hs⟩ := slots_completes hi hh hr
    refine ⟨m, he, hq, fun hu hn => hc ⟨hu, hn⟩, hs, fun i hi8 hv => ?_⟩
    rw [hs i hi8, slotEntry_invalid hv]
    rfl
  · exact down_completes hi hh hr
  · obtain ⟨m, he, ⟨hq, hc⟩, hs⟩ := scrRead_completes hi diff ecc hh hr
    exact ⟨m, he, hq, fun hu hn => hc ⟨hu, hn⟩, hs⟩
  · obtain ⟨m, he, hq, hclk, h0, h1⟩ := up_completes hi stalls diff ecc errs hh hr hp
    refine ⟨m, he, hq, hclk, fun hn => ?_, fun hn => ?_⟩
    · obtain ⟨hg, ha, hb⟩ := h0 hn
      exact ⟨hg, ha, hb⟩
    · rw [hclk]
      exact h1 hn

end

/-! ### Risers (O17) -/

namespace Sys2Proof.Scope
open Sys2Proof.Machine Sys2Proof.Laws

variable {s : State} {a b m : Module} {l : List Part} {k : QKey} {d : Desc}

/-! #### The grant of lanes where no one before draws (R325) -/

section
variable {rs : List (List (Nat × Nat × Nat))} {share : Nat}

theorem grantPoints_of_idle (h : ∀ r ∈ rs, r = []) : grantPoints rs = [] :=
  foldl_keeps (f := id) (fun b r hr => by rw [h r hr]; rfl) []

theorem lanesLeft_of_idle (h : ∀ r ∈ rs, r = []) (c : Nat) : lanesLeft rs c = 32 :=
  foldl_keeps (f := id) (fun b r hr => by rw [h r hr]; rfl) 32

theorem ceilDiv_mul (h : 0 < share) (n : Nat) : ceilDiv (share * n) share = n := by
  rw [ceilDiv, Nat.add_sub_assoc h, Nat.mul_add_div h, Nat.div_eq_of_lt (by omega), Nat.add_zero]

/-- A requester whose share is free in every cycle draws without a stall. -/
theorem grantShare_of_idle (h : ∀ r ∈ rs, r = []) (h0 : 0 < share) (hs : share ≤ 32) (n c : Nat) :
    (grantShare rs share n c).2 = ([], c + n) := by
  have hl : max 1 (if share ≤ 32 then share else 0) = share := by rw [if_pos hs]; omega
  simp only [grantShare, grantPoints_of_idle h, grant, lanesLeft_of_idle h, hl, one_mul, ceilDiv_mul h0]
  split
  next hn => simp [(Nat.mul_eq_zero.1 hn).resolve_left h0.ne']
  next => rfl

/-- A descriptor that draws nothing, or draws where no one before does, takes its `n` cycles without a stall. -/
theorem runs_of_idle {p : Prop} [Decidable p] (h : p → ∀ r ∈ rs, r = []) (h0 : 0 < share) (hs : share ≤ 32) (n c : Nat) :
    (if p then grantShare rs share n c else ([], [], c + n)).2 = ([], c + n) := by
  split
  next hp => exact grantShare_of_idle (h hp) h0 hs n c
  next => rfl

theorem spanSum_spanOf (c n : Nat) : spanSum (spanOf c n) = n := by
  unfold spanOf
  split
  next h => exact h.symm
  next => simp [spanSum]

/-- Who draws depends on the descriptors that run. -/
theorem requesters_congr (hr : ∀ j, (b.ris' j).op = (a.ris' j).op) (hw : ∀ j, (b.win' j).op = (a.win' j).op) (hl : b.lnd = a.lnd)
    (w n : Nat) : requesters b w n = requesters a w n := by
  simp only [requesters, hr, hw, Module.lnd', hl]

theorem ris'_of_eff {j : Nat} (h : Eff l a b) (hl : Part.ris ∉ l := by decide) : b.ris' j = a.ris' j := sameRis_of_eff h hl

theorem win'_of_eff {j : Nat} (h : Eff l a b) (hl : Part.win ∉ l := by decide) : b.win' j = a.win' j := sameWin_of_eff h hl

theorem requesters_of_eff {w n : Nat} (h : Eff l a b) (hr : Part.ris ∉ l := by decide) (hw : Part.win ∉ l := by decide)
    (hl : Part.lnd ∉ l := by decide) : requesters b w n = requesters a w n :=
  requesters_congr (fun _ => congrArg Ris.op (ris'_of_eff h hr)) (fun _ => congrArg Win.op (win'_of_eff h hw)) (h.same .lnd hl) w n

end

/-! #### A descriptor of an owned engine that is accepted (R137, R338) -/

/-- What comes between a descriptor's leaving its queue and its start: the read of its seed, the trace, the memory errors met. -/
theorem eff_accepted {p : Prop} [Decidable p] (cls u g : Nat) (d : Desc) (seedEcc : List EccHit) (errs : List MemErr) (m : Module) :
    Eff ([.nwl, .mem] ++ evParts) m (memErrs d.part errs (descStart cls u d (if p then nwlEcc g d seedEcc m else m))) := by
  have h : Eff ([.nwl, .mem] ++ evParts) m (if p then nwlEcc g d seedEcc m else m) := .ite ((eff_nwlEcc ..).mono rfl) (.refl m)
  exact h.trans (((eff_descStart ..).mono rfl).trans ((eff_memErrs ..).mono rfl))

/-! #### CONVERT (R268, R283) -/

theorem cvRate_eq (d : Desc) : cvRate d =
    if cvRnd d = 1 then 64 else if spCode (cvSrc d) = 0 ∨ spCode (cvSrc d) = 0x24 ∨ spCode (cvSrc d) = 0x30 then 128 else 256 := by
  simp only [cvRate, Bool.or_eq_true, decide_eq_true_eq, or_assoc]

theorem requesters_setRis (hi : m.Inv) {r : Nat} {x : Ris} (hx : x.op = (m.ris' r).op) (w n : Nat) :
    requesters (m.setRis r x) w n = requesters m w n := by
  refine requesters_congr (a := m) (b := m.setRis r x) (fun j => ?_) (fun _ => rfl) rfl w n
  obtain rfl | h := eq_or_ne j r
  · rw [setRis_get m j x (rising_ris hi), hx]
  · rw [setRis_get_ne m r x j h]

/-- What the start of a CONVERT in cycle `u` makes of its Riser: `x` before it, `y` after it. The command tells `h` and `n` stalls; `rs`
is what the requesters before it draw. -/
structure CvStarted (d : Desc) (h n u : Nat) (rs : List (List (Nat × Nat × Nat))) (x y : Ris) : Prop where
  refused : y.refused = x.refused
  stallHall : y.stallHall = x.stallHall + BitVec.ofNat 64 h
  sets : y.sets = (if d.fl 6 then startClear (cvStream d) x else x).sets
  op : ∃ o, y.op = some o ∧ o.desc = d ∧ o.startC = u ∧ y.busy = x.busy + BitVec.ofNat 64 (o.doneC - o.startC)
    ∧ ((cvRnd d = 1 → ∀ l ∈ rs, l = []) → let ns := if cvRnd d = 1 then n else 0
      y.stallNwl = x.stallNwl + BitVec.ofNat 64 ns
      ∧ o.doneC = o.startC + 8 + cvRows d * ceilDiv (cvRowLen d) (cvRate d) + 24 + (h + ns))

section
variable (hi : m.Inv) (c : Bool) (set r : Nat)
include hi

/-- The clear of SCLR leaves all of its Riser but the stream sets (R274). -/
theorem sclr_ris' : (if c then m.setRis r (startClear set (m.ris' r)) else m).ris' r =
    { m.ris' r with sets := (if c then startClear set (m.ris' r) else m.ris' r).sets } := by
  cases c
  · rfl
  · exact setRis_get m r _ (rising_ris hi)

theorem requesters_sclr (w n : Nat) :
    requesters (if c then m.setRis r (startClear set (m.ris' r)) else m) w n = requesters m w n := by
  cases c
  · rfl
  · exact requesters_setRis hi (by rfl) w n

end

theorem cvStart_started (hi : m.Inv) (r : Nat) (d : Desc) (h n : Nat) :
    CvStarted d h n m.clk.cycle (requesters m (r / 4) (r % 4)) (m.ris' r) ((cvStart r d h n m).ris' r) := by
  unfold cvStart
  extract_lets w sr m1
  have h1 : Eff [.ris] m m1 := .ite (eff_setRis ..) (.refl m)
  have hx1 : m1.ris' r = _ := sclr_ris' hi ..
  have hq1 : requesters m1 w (r % 4) = _ := requesters_sclr hi ..
  have hr := eff_cvRun r d (seedOf m1 w d.part (nfld (d.f 100 1) 0 3)) (stepComp m1 w d.part) m1
  split
  next cyc ns _ es m2 e =>
  rw [e] at hr
  extract_lets u c0 g nst m3 x op
  have h3 : Eff [.nwl] m2 m3 := .ite (eff_nwlCount ..) (.refl m2)
  have hl : Eff [.mem] m3 (hallLost w h m3) := eff_hallLost ..
  have hi3 : (hallLost w h m3).Inv := (h1.keeps.trans (hr.keeps.trans (h3.keeps.trans hl.keeps))).inv hi
  have hu : u = m.clk.cycle := congrArg Clk.cycle ((hr.same .clk (by decide)).trans (h1.same .clk (by decide)))
  have hx : x = _ := (ris'_of_eff h3).trans ((ris'_of_eff hr).trans hx1)
  have hq : requesters m2 w (r % 4) = _ := (requesters_of_eff hr).trans hq1
  rw [setRis_get _ r _ (rising_ris hi3)]
  refine ⟨by rw [hx], by rw [hx], by rw [hx], op, rfl, rfl, hu, by rw [hx], fun hfree => ?_⟩
  have hg : g.2 = ([], c0 + cyc) := runs_of_idle (hq ▸ hfree) (by decide) (by decide) ..
  have hn : spanSum nst = ns := by
    simp only [nst, hg, List.append_nil, spanSum_spanOf]
  have hd : op.doneC = c0 + cyc + 24 := congrArg (·.2 + 24) hg
  refine ⟨by rw [hn, hx], ?_⟩
  show op.doneC = u + 8 + cyc + 24 + (h + ns)
  omega

theorem exec_convert_accepted {r : Fin 8} (h n : Nat) (seedEcc : List EccHit) (errs : List MemErr) (ho : (s.m.ris' r).op = none)
    (hc : canStart s.m 3 r = true) (hh : headOwned s.m 3 r = some (k, d)) (hr : convertRefusal (dequeue k s.m) r d = none)
    (hd : cvRnd d = 1 → drawsRefused (nwlEcc (r.val / 4) d seedEcc (dequeue k s.m)) (r.val / 4) d.part = false) :
    exec (.convert r h n seedEcc errs) s = done s (risLockstep r d.part (dequeue k s.m) (cvStart r d h n (memErrs d.part errs
      (descStart 3 r d (if cvRnd d = 1 then nwlEcc (r.val / 4) d seedEcc (dequeue k s.m) else dequeue k s.m))))) := by
  show execConvert r h n seedEcc errs s = _
  unfold execConvert
  simp only [ho, hc, hh, hr]
  by_cases h1 : cvRnd d = 1
  · simp [h1, hd h1]
  · simp [h1]

theorem risLockstep_ris' (r p : Nat) (m0 m : Module) : (risLockstep r p m0 m).ris' r = m.ris' r := by
  unfold risLockstep
  extract_lets e e0 x
  exact SameAt.ite (f := (·.ris' r)) (sameRis_setRis (by omega) _ m) (.refl m)

theorem convert_completes {r : Fin 8} (hi : s.m.Inv) (h n : Nat) (seedEcc : List EccHit) (errs : List MemErr)
    (ho : (s.m.ris' r).op = none) (hc : canStart s.m 3 r = true) (hh : headOwned s.m 3 r = some (k, d))
    (hr : convertRefusal (dequeue k s.m) r d = none)
    (hd : cvRnd d = 1 → drawsRefused (nwlEcc (r.val / 4) d seedEcc (dequeue k s.m)) (r.val / 4) d.part = false) :
    Completes (.convert r h n seedEcc errs) s fun m => queue m k = (queue s.m k).tail ∧ m.clk = s.m.clk
      ∧ CvStarted d h n s.m.clk.cycle (requesters s.m (r.val / 4) (r.val % 4)) (s.m.ris' r) (m.ris' r) := by
  refine completes_of_done (exec_convert_accepted h n seedEcc errs ho hc hh hr hd) ?_
  have h0 := eff_dequeue k s.m
  generalize he : memErrs d.part errs _ = m1
  have h1 : Eff ([.nwl, .mem] ++ evParts) (dequeue k s.m) m1 := he ▸ eff_accepted ..
  have h2 := eff_cvStart r d h n m1
  have h3 := eff_risLockstep r d.part (dequeue k s.m) (cvStart r d h n m1)
  have hx : m1.ris' r = s.m.ris' r := (ris'_of_eff h1).trans (ris'_of_eff h0)
  have hclk : m1.clk = s.m.clk := (h1.same .clk (by decide)).trans (h0.same .clk (by decide))
  have hq : requesters m1 (r.val / 4) (r.val % 4) = requesters s.m (r.val / 4) (r.val % 4) :=
    (requesters_of_eff h1).trans (requesters_of_eff h0)
  have hs := cvStart_started ((h0.keeps.trans h1.keeps).inv hi) r d h n
  rw [hx, hclk, hq] at hs
  refine ⟨?_, (h3.same .clk (by decide)).trans ((h2.same .clk (by decide)).trans hclk), ?_⟩
  · rw [queue_of_eff h3, queue_of_eff h2, queue_of_eff h1, queue_dequeue]
  · rwa [risLockstep_ris']

/-! #### Its completion (R272, R273) -/

theorem streamAdd_ris' (hi : m.Inv) (r : Nat) (o : EngOp) : let x := m.ris' r
    (streamAdd r o m).ris' r = { x with
      sets := nset StreamSet.init x.sets (cvStream o.desc) (setAdd o (nget StreamSet.init x.sets (cvStream o.desc)))
      elems := x.elems + BitVec.ofNat 64 o.elems, last := some o, lastAt := instant m } := by
  unfold streamAdd
  extract_lets x t t' m1
  have h1 : m1.ris' r = _ := setRis_get m r _ (rising_ris hi)
  split
  · exact (ris'_of_eff (eff_ev ..)).trans h1
  · exact h1

theorem risComplete_completes {r : Fin 8} (hi : s.m.Inv) (diff : Bool) {o : EngOp} (ho : (s.m.ris' r).op = some o) :
    let x := s.m.ris' r
    Completes (.risComplete r diff) s fun m => (m.ris' r).op = none ∧ m.clk = (passToCycle o.doneC s.m).clk
      ∧ (m.ris' r).elems = x.elems + BitVec.ofNat 64 o.elems
      ∧ count m o.desc.part o.desc.ctx 3 r = count s.m o.desc.part o.desc.ctx 3 r + 1
      ∧ (m.ris' r).sets = nset StreamSet.init x.sets (cvStream o.desc) (setAdd o (nget StreamSet.init x.sets (cvStream o.desc))) := by
  intro x
  show Ends s _ (execRisComplete r diff s)
  unfold execRisComplete
  simp -zeta only [ho]
  extract_lets m0 m1 x1 m2 m3 n m4
  have h0 : Eff timeParts s.m m0 := eff_passToCycle ..
  have h1 : Eff ([.ris] ++ evParts) m0 m1 := (eff_streamAdd ..).mono rfl
  have h2 : Eff [.ris] m1 m2 := eff_setRis ..
  have h3 : Eff [.ris] m2 m3 := eff_risLockstep ..
  have h4 : Eff ([.chk] ++ evParts) m3 m4 := .ite ((eff_comparePair ..).mono rfl) (.refl m3)
  have hc := eff_complete 3 r o.desc o.failed m4
  have hi0 : m0.Inv := h0.keeps.inv hi
  have hx1 : x1 = _ := streamAdd_ris' hi0 r o
  rw [show m0.ris' r = x from ris'_of_eff h0] at hx1
  have hx : (complete 3 r o.desc o.failed m4).ris' r = { x1 with op := none, lastProgress := m1.clk.elapsed } :=
    (ris'_of_eff hc).trans ((ris'_of_eff h4).trans ((risLockstep_ris' ..).trans
      (setRis_get m1 r _ (rising_ris (h1.keeps.inv hi0)))))
  refine ends_done ⟨?_, ?_, ?_, ?_, ?_⟩
  · rw [hx]
  · exact (hc.same .clk (by decide)).trans ((h4.same .clk (by decide)).trans ((h3.same .clk (by decide)).trans
      ((h2.same .clk (by decide)).trans (h1.same .clk (by decide)))))
  · rw [hx, hx1]
  · rw [count_complete, count_of_eff h4, count_of_eff h3, count_of_eff h2, count_of_eff h1, count_of_eff h0]
  · rw [hx, hx1]

/-! #### Clears (R274, R299) -/

/-- A stream set as a clear leaves it. -/
def setCleared (t : StreamSet) : StreamSet := { StreamSet.init with thresh := t.thresh }

theorem streamClear_earlier {x : Ris} (h : sameCycle m x.lastAt = false) (set : Nat) :
    streamClear m set x = { x with sets := mapAt StreamSet.init x.sets set setCleared } := by
  unfold streamClear
  congr 2
  funext t
  split
  · rw [h, Bool.and_false]
    rfl
  · rfl

theorem streamClear_now {x : Ris} {o : EngOp} (ho : x.last = some o) {set : Nat} (hs : cvStream o.desc = set)
    (h : sameCycle m x.lastAt = true) :
    streamClear m set x = { x with sets := mapAt StreamSet.init x.sets set (fun t => setAdd o (setCleared t)) } := by
  simp [streamClear, ho, hs, h, setCleared]

theorem risClearSets_earlier {x : Ris} (h : sameCycle m x.lastAt = false) : risClearSets m x =
    { x with sets := (List.range 16).foldl (fun l i => mapAt StreamSet.init l i setCleared) x.sets } := by
  unfold risClearSets
  generalize List.range 16 = r
  induction r generalizing x with
  | nil => rfl
  | cons i r ih =>
    rw [List.foldl_cons, List.foldl_cons, streamClear_earlier h]
    exact ih h

theorem risCntClr_ris' (hi : m.Inv) (r : Nat) :
    (risCntClr r m).ris' r = risClear (engLeft m.clk.cycle (m.ris' (risLead m r)).op) (m.ris' r) :=
  setRis_get m r _ (rising_ris hi)

/-- Where nothing runs on an engine, nothing is still to come. -/
theorem engLeft_idle {op : Option EngOp} (h : op = none) (now : Nat) : engLeft now op = (0, 0, 0) := by
  rw [h]
  rfl

end Sys2Proof.Scope

section
open Sys2Proof Sys2Proof.Machine Sys2Proof.Scope

/-- Settles O17, by what the start and the completion of a CONVERT leave of its Riser, and by what each clear writes. -/
theorem risersConvertAndCount : Obligations.RisersConvertAndCount := by
  intro s r hi x
  refine ⟨fun h n seedEcc errs k d ho hc hh hr hd => ?_, fun diff o ho => ?_, fun set => ⟨fun hs => ?_, fun o ho hset hs => ?_⟩, ?_,
    fun ho => ?_, fun hs => ?_⟩
  · obtain ⟨m, he, hq, hclk, hs⟩ := convert_completes hi h n seedEcc errs ho hc hh hr hd
    obtain ⟨o, hop, hdesc, hst, hb, ht⟩ := hs.op
    rw [cvRate_eq] at ht
    exact ⟨m, he, hq, hclk, hs.refused, hs.stallHall, hs.sets, o, hop, hdesc, hst, hb, ht⟩
  · obtain ⟨m, he, hop, hclk, hel, hn, hs⟩ := risComplete_completes hi diff ho
    exact ⟨m, he, hop, hclk, hel, hn, _, hs⟩
  · exact congrArg (fun y => done s (s.m.setRis r y)) (streamClear_earlier hs _)
  · exact congrArg (fun y => done s (s.m.setRis r y)) (streamClear_now ho hset hs)
  · have hx := risCntClr_ris' hi r
    refine completes_of_done (m := risCntClr r s.m) rfl ⟨?_, ?_, ?_, ?_, (Laws.eff_risCntClr ..).same⟩
    all_goals rw [hx]; rfl
  · exact congrArg (fun l => done s (s.m.setRis r (risClear l x))) (engLeft_idle ho _)
  · exact congrArg (fun y => done s (s.m.setRis r y)) (risClearSets_earlier hs)

end

/-! ### Winders (O18) -/

namespace Sys2Proof.Scope
open Sys2Proof.Machine Sys2Proof.Laws

variable {s : State} {m : Module} {k : QKey} {d : Desc}

/-! #### TRANSFORM (R293, R294) -/

theorem requesters_setWin (hi : m.Inv) {u : Nat} {x : Win} (hx : x.op = (m.win' u).op) (w n : Nat) :
    requesters (m.setWin u x) w n = requesters m w n := by
  refine requesters_congr (a := m) (b := m.setWin u x) (fun _ => rfl) (fun j => ?_) rfl w n
  obtain rfl | h := eq_or_ne j u
  · rw [setWin_get m j x (rising_win hi), hx]
  · rw [setWin_get_ne m u x j h]

/-- What the start of a TRANSFORM in cycle `u` makes of its Winder: `x` before it, `y` after it. The command tells `h` and `n` stalls;
`rs` is what the requesters before it draw. -/
structure WnStarted (d : Desc) (h n u : Nat) (rs : List (List (Nat × Nat × Nat))) (x y : Win) : Prop where
  refused : y.refused = x.refused
  stallHall : y.stallHall = x.stallHall + BitVec.ofNat 64 h
  op : ∃ o, y.op = some o ∧ o.desc = d ∧ o.startC = u ∧ y.busy = x.busy + BitVec.ofNat 64 (o.doneC - o.startC)
    ∧ ((wnSign d = true → ∀ l ∈ rs, l = []) → let ns := if wnSign d then n else 0
      y.stallNwl = x.stallNwl + BitVec.ofNat 64 ns
      ∧ o.doneC = o.startC + 8 + wnRows d * ceilDiv (wnRowLen d) 128 + 47 + ceilDiv (wnSeg d) 128 + 1 + h + ns)

theorem wnStart_started (hi : m.Inv) (w : Nat) (d : Desc) (h n : Nat) (ecc : List EccHit) :
    WnStarted d h n m.clk.cycle (requesters m (w / 2) (4 + w % 2)) (m.win' w) ((wnStart w d h n ecc m).win' w) := by
  unfold wnStart
  extract_lets g
  have hr := eff_winRun w d (seedOf m g d.part (nfld (d.f 63 1) 0 3)) ecc m
  split
  next cyc ns _ clip nan sp seg m2 e =>
  rw [e] at hr
  extract_lets u c0 gr nst m3 x op
  have h3 : Eff [.nwl] m2 m3 := .ite (eff_nwlCount ..) (.refl m2)
  have hl : Eff [.mem] m3 (hallLost g h m3) := eff_hallLost ..
  have hi3 : (hallLost g h m3).Inv := (hr.keeps.trans (h3.keeps.trans hl.keeps)).inv hi
  have hu : u = m.clk.cycle := congrArg Clk.cycle (hr.same .clk (by decide))
  have hx : x = m.win' w := (win'_of_eff h3).trans (win'_of_eff hr)
  have hq : requesters m2 g (4 + w % 2) = requesters m g (4 + w % 2) := requesters_of_eff hr
  rw [setWin_get _ w _ (rising_win hi3), ← hx]
  refine ⟨rfl, rfl, op, rfl, rfl, hu, rfl, fun hfree => ?_⟩
  have hg : gr.2 = ([], c0 + cyc) := runs_of_idle (hq ▸ hfree) (by decide) (by decide) ..
  have hn : spanSum nst = ns := by
    simp only [nst, hg, List.append_nil, spanSum_spanOf]
  have hd : op.doneC = c0 + cyc + 47 + ceilDiv (wnSeg d) 128 + 1 := congrArg (·.2 + 47 + ceilDiv (wnSeg d) 128 + 1) hg
  refine ⟨by rw [hn], ?_⟩
  show op.doneC = u + 8 + cyc + 47 + ceilDiv (wnSeg d) 128 + 1 + h + ns
  omega

/-- The ECC errors that a Winder meets change its ECC registers alone. -/
theorem winEcc_win' (hi : m.Inv) (w : Nat) (d : Desc) (hits : List EccHit) :
    ∃ c u a, (winEcc w d hits m).win' w = { m.win' w with eccC := c, eccU := u, eccLast := a } := by
  unfold winEcc
  extract_lets x last
  exact ⟨_, _, _, (win'_of_eff (eff_eccEvents ..)).trans (setWin_get m w _ (rising_win hi))⟩

theorem requesters_winEcc (hi : m.Inv) (u : Nat) (d : Desc) (hits : List EccHit) (w n : Nat) :
    requesters (winEcc u d hits m) w n = requesters m w n := by
  unfold winEcc
  extract_lets x last
  exact (requesters_of_eff (eff_eccEvents ..)).trans (requesters_setWin hi (by rfl) w n)

theorem exec_transform_accepted {w : Fin 4} (h n : Nat) (ecc seedEcc : List EccHit) (errs : List MemErr) (ho : (s.m.win' w).op = none)
    (hc : canStart s.m 4 w = true) (hh : headOwned s.m 4 w = some (k, d)) (hr : winRefusal (dequeue k s.m) d = none)
    (hd : wnSign d = true → drawsRefused (nwlEcc (w.val / 2) d seedEcc (dequeue k s.m)) (w.val / 2) d.part = false) :
    exec (.transform w h n ecc seedEcc errs) s = done s (wnStart w d h n ecc (winEcc w d ecc (memErrs d.part errs
      (descStart 4 w d (if wnSign d then nwlEcc (w.val / 2) d seedEcc (dequeue k s.m) else dequeue k s.m))))) := by
  show execTransform w h n ecc seedEcc errs s = _
  unfold execTransform
  simp only [ho, hc, hh, hr]
  by_cases h1 : wnSign d = true
  · simp [h1, hd h1]
  · simp [h1]

theorem transform_completes {w : Fin 4} (hi : s.m.Inv) (h n : Nat) (ecc seedEcc : List EccHit) (errs : List MemErr)
    (ho : (s.m.win' w).op = none) (hc : canStart s.m 4 w = true) (hh : headOwned s.m 4 w = some (k, d))
    (hr : winRefusal (dequeue k s.m) d = none)
    (hd : wnSign d = true → drawsRefused (nwlEcc (w.val / 2) d seedEcc (dequeue k s.m)) (w.val / 2) d.part = false) :
    Completes (.transform w h n ecc seedEcc errs) s fun m => queue m k = (queue s.m k).tail ∧ m.clk = s.m.clk
      ∧ WnStarted d h n s.m.clk.cycle (requesters s.m (w.val / 2) (4 + w.val % 2)) (s.m.win' w) (m.win' w) := by
  refine completes_of_done (exec_transform_accepted h n ecc seedEcc errs ho hc hh hr hd) ?_
  have h0 := eff_dequeue k s.m
  generalize he : memErrs d.part errs _ = m1
  have h1 : Eff ([.nwl, .mem] ++ evParts) (dequeue k s.m) m1 := he ▸ eff_accepted ..
  have h2 := eff_winEcc w d ecc m1
  have h3 := eff_wnStart w d h n ecc (winEcc w d ecc m1)
  have hi1 : m1.Inv := (h0.keeps.trans h1.keeps).inv hi
  have hclk : (winEcc w d ecc m1).clk = s.m.clk :=
    (h2.same .clk (by decide)).trans ((h1.same .clk (by decide)).trans (h0.same .clk (by decide)))
  have hq : requesters (winEcc w d ecc m1) (w.val / 2) (4 + w.val % 2) = requesters s.m (w.val / 2) (4 + w.val % 2) :=
    (requesters_winEcc hi1 ..).trans ((requesters_of_eff h1).trans (requesters_of_eff h0))
  obtain ⟨c, u, a, hx⟩ := winEcc_win' hi1 w d ecc
  have hs := wnStart_started (h2.keeps.inv hi1) w d h n ecc
  rw [hclk, hq, hx, (win'_of_eff h1).trans (win'_of_eff h0)] at hs
  obtain ⟨hrf, hsh, hop⟩ := hs
  refine ⟨?_, (h3.same .clk (by decide)).trans hclk, hrf, hsh, hop⟩
  rw [queue_of_eff h3, queue_of_eff h2, queue_of_eff h1, queue_dequeue]

/-! #### Its completion and the clear (R293, R302) -/

theorem winComplete_completes {w : Fin 4} (hi : s.m.Inv) {o : EngOp} (ho : (s.m.win' w).op = some o) : let x := s.m.win' w
    Completes (.winComplete w) s fun m => m.clk = (passToCycle o.doneC s.m).clk
      ∧ m.win' w = { x with
          op := none, elems := x.elems + BitVec.ofNat 64 o.elems,
          clip := satAdd x.clip o.clip, nanrep := satAdd x.nanrep o.nanrep, special := satAdd x.special o.under,
          lastProgress := m.clk.elapsed }
      ∧ count m o.desc.part o.desc.ctx 4 w = count s.m o.desc.part o.desc.ctx 4 w + 1 := by
  intro x
  show Ends s _ (execWinComplete w s)
  unfold execWinComplete
  simp -zeta only [ho]
  extract_lets m0 x0
  have h0 : Eff timeParts s.m m0 := eff_passToCycle ..
  have hx : x0 = x := win'_of_eff h0
  rw [hx]
  generalize hm : m0.setWin w _ = m1
  have h1 : Eff [.win] m0 m1 := hm ▸ eff_setWin ..
  have hc := eff_complete 4 w o.desc o.failed m1
  have hclk : (complete 4 w o.desc o.failed m1).clk = m0.clk := (hc.same .clk (by decide)).trans (h1.same .clk (by decide))
  refine ends_done ⟨hclk, ?_, ?_⟩
  · rw [hclk, win'_of_eff hc, ← hm, setWin_get m0 w _ (rising_win (h0.keeps.inv hi))]
  · rw [count_complete, count_of_eff h1, count_of_eff h0]

theorem winCntClr_win' (hi : m.Inv) (w : Nat) :
    (winCntClr w m).win' w = winClear (engLeft m.clk.cycle (m.win' w).op) (m.win' w) :=
  setWin_get m w _ (rising_win hi)

end Sys2Proof.Scope

section
open Sys2Proof Sys2Proof.Machine Sys2Proof.Scope

/-- Settles O18, by what the start and the completion of a TRANSFORM leave of its Winder, and by what its clear writes. -/
theorem windersTransformAndCount : Obligations.WindersTransformAndCount := by
  intro s w hi x
  refine ⟨fun h n ecc seedEcc errs k d ho hc hh hr hd => ?_, fun o ho => winComplete_completes hi ho, ?_, fun ho => ?_⟩
  · obtain ⟨m, he, hq, hclk, hs⟩ := transform_completes hi h n ecc seedEcc errs ho hc hh hr hd
    exact ⟨m, he, hq, hclk, hs.refused, hs.stallHall, hs.op⟩
  · have hx := winCntClr_win' hi w
    refine completes_of_done (m := winCntClr w s.m) rfl ⟨?_, ?_, ?_, ?_, ?_, ?_, (Laws.eff_winCntClr ..).same⟩
    all_goals rw [hx]; rfl
  · exact congrArg (fun l => done s (s.m.setWin w (winClear l x))) (engLeft_idle ho _)

end

/-! ### Landings (O19) -/

namespace Sys2Proof.Scope
open Sys2Proof.Machine Sys2Proof.Laws

variable {s : State} {a b m : Module} {l : List Part} {k : QKey} {d : Desc}

theorem lnd'_of_eff {j : Nat} (h : Eff l a b) (hl : Part.lnd ∉ l := by decide) : b.lnd' j = a.lnd' j := sameLnd_of_eff h hl

/-! #### RUN (R317, R319, R322) -/

/-- What the start of a RUN in cycle `u` makes of its Landing: `x` before it, `y` after it. The command tells `h` stalls. -/
structure RnStarted (d : Desc) (h u : Nat) (x y : Lnd) : Prop where
  refused : y.refused = x.refused
  stallHall : y.stallHall = x.stallHall + BitVec.ofNat 64 h
  op : ∃ o, y.op = some o ∧ o.desc = d ∧ o.startC = u ∧ o.failed = false
    ∧ y.busy = x.busy + BitVec.ofNat 64 (o.doneC - o.startC) ∧ y.ops = x.ops + BitVec.ofNat 64 o.under

theorem rnStart_started (hi : m.Inv) (l : Nat) (d : Desc) (secs : List (List LOp)) (draws : Bool) (h n : Nat) (ecc : List EccHit) :
    RnStarted d h m.clk.cycle (m.lnd' l) ((rnStart l d secs draws h n ecc m).lnd' l) := by
  unfold rnStart
  extract_lets w x u ns t0 r nst m1 op y
  have hr : Eff memParts m r.m := .after (eff_runAll ..) (by decide) (.refl m)
  have h1 : Eff [.nwl] r.m m1 := .ite (eff_nwlCount ..) (.refl r.m)
  have hl : Eff [.mem] m1 (hallLost w h m1) := eff_hallLost ..
  have hy : y = m.lnd' l := (lnd'_of_eff h1).trans (lnd'_of_eff hr)
  have hil : (hallLost w h m1).Inv := (hr.keeps.trans (h1.keeps.trans hl.keeps)).inv hi
  have hset := setLnd_get (hallLost w h m1) l
  rw [(lnd'_of_eff (eff_addPLnd ..)).trans (hset _ (rising_lnd hil)), ← hy]
  exact ⟨rfl, rfl, op, rfl, rfl, rfl, rfl, rfl, rfl⟩

/-- The ECC errors that a Landing meets change its ECC registers alone. -/
theorem lndEcc_lnd' (hi : m.Inv) (l : Nat) (d : Desc) (hits : List EccHit) :
    ∃ c u a, (lndEcc d l hits m).lnd' l = { m.lnd' l with eccC := c, eccU := u, eccLast := a } := by
  unfold lndEcc
  extract_lets x last
  exact ⟨_, _, _, (lnd'_of_eff (eff_eccEvents ..)).trans (setLnd_get m l _ (rising_lnd hi))⟩

/-- Of the ECC errors that a pair's Landings meet, those of the second leave the first. -/
theorem eccBoth_lnd' (hi : m.Inv) (p l : Nat) (d : Desc) (hits : List EccHit) :
    ∃ c u a, (eccBoth p l hits (lndEcc d) m).lnd' l = { m.lnd' l with eccC := c, eccU := u, eccLast := a } := by
  unfold eccBoth
  extract_lets m1
  obtain ⟨c, u, a, h1⟩ := lndEcc_lnd' hi l d (hits.filter (!·.odd))
  refine ⟨c, u, a, ?_⟩
  split
  · exact Eq.trans (sameLnd_lndEcc (by omega) ..) h1
  · exact h1

theorem lndLockstep_lnd' (l p : Nat) (m0 m : Module) : (lndLockstep l p m0 m).lnd' l = m.lnd' l := by
  unfold lndLockstep
  extract_lets e e0 x
  exact SameAt.ite (f := (·.lnd' l)) (sameLnd_setLnd (by omega) _ m) (.refl m)

/-- The program of a RUN as its Landing reads it, and the hardware after the read. -/
def rnLoaded (u : Nat) (d : Desc) (errs : List MemErr) (m : Module) : List Byte × Module :=
  hallRead (u / 8) d.part (gaOff (d.a 16)) (8 * rnProg d) (memErrs d.part errs (descStart 2 u d m))

theorem eff_rnLoaded (u : Nat) (d : Desc) (errs : List MemErr) (m : Module) : Eff memParts m (rnLoaded u d errs m).2 :=
  ((eff_descStart ..).mono rfl).trans (((eff_memErrs ..).mono rfl).trans ((eff_hallRead ..).mono rfl))

theorem exec_run_accepted {u : Fin 16} (h n : Nat) (ecc seedEcc : List EccHit) {errs : List MemErr} {prog : List Byte}
    {secs : List (List LOp)} {draws : Bool} (ho : (s.m.lnd' u).op = none) (hc : canStart s.m 2 u = true)
    (hh : headOwned s.m 2 u = some (k, d)) (hr : runRefusal (dequeue k s.m) u d = none)
    (hl : rnLoaded u d errs (dequeue k s.m) = (prog, m)) (hp : programOf d prog = some secs)
    (hs : (secs.any fun sec => sec.any lopDraws) = draws)
    (hd : draws = true → drawsRefused (nwlEcc (u.val / 8) d seedEcc m) (u.val / 8) d.part = false) :
    exec (.run u h n ecc seedEcc errs) s = done s (lndLockstep u d.part (dequeue k s.m) (rnStart u d secs draws h n ecc
      (eccBoth d.part u ecc (lndEcc d) (if draws then nwlEcc (u.val / 8) d seedEcc m else m)))) := by
  show execRun u h n ecc seedEcc errs s = _
  unfold execRun
  unfold rnLoaded at hl
  simp only [ho, hc, hh, hr, hl, hp, hs]
  cases draws
  · simp
  · simp [hd rfl]

theorem run_completes {u : Fin 16} (hi : s.m.Inv) (h n : Nat) (ecc seedEcc : List EccHit) (errs : List MemErr)
    {secs : List (List LOp)} (ho : (s.m.lnd' u).op = none) (hc : canStart s.m 2 u = true)
    (hh : headOwned s.m 2 u = some (k, d)) (hr : runRefusal (dequeue k s.m) u d = none)
    (hp : programOf d (rnLoaded u d errs (dequeue k s.m)).1 = some secs)
    (hd : (secs.any fun sec => sec.any lopDraws) = true →
      drawsRefused (nwlEcc (u.val / 8) d seedEcc (rnLoaded u d errs (dequeue k s.m)).2) (u.val / 8) d.part = false) :
    Completes (.run u h n ecc seedEcc errs) s fun m => queue m k = (queue s.m k).tail ∧ m.clk = s.m.clk
      ∧ RnStarted d h s.m.clk.cycle (s.m.lnd' u) (m.lnd' u) := by
  have hl := eff_rnLoaded u d errs (dequeue k s.m)
  rcases e : rnLoaded u d errs (dequeue k s.m) with ⟨prog, m1⟩
  rw [e] at hl hp hd
  generalize hs : (secs.any fun sec => sec.any lopDraws) = draws at hd
  refine completes_of_done (exec_run_accepted h n ecc seedEcc ho hc hh hr e hp hs hd) ?_
  have h0 : Eff [.queues] s.m (dequeue k s.m) := eff_dequeue k s.m
  generalize hm : (if draws = true then nwlEcc (u.val / 8) d seedEcc m1 else m1) = m2
  have h2 : Eff ([.nwl] ++ evParts) m1 m2 := hm ▸ .ite (eff_nwlEcc ..) (.refl m1)
  have hb : Eff ([.lnd] ++ evParts) m2 (eccBoth d.part u ecc (lndEcc d) m2) := eff_eccBoth (.refl m2) fun _ _ _ => eff_lndEcc ..
  generalize hm3 : eccBoth d.part u ecc (lndEcc d) m2 = m3 at hb
  have h3 := eff_rnStart u d secs draws h n ecc m3
  have h4 := eff_lndLockstep u d.part (dequeue k s.m) (rnStart u d secs draws h n ecc m3)
  have hi2 : m2.Inv := (h0.keeps.trans (hl.keeps.trans h2.keeps)).inv hi
  have hclk : m3.clk = s.m.clk := (hb.same .clk (by decide)).trans ((h2.same .clk (by decide)).trans
    ((hl.same .clk (by decide)).trans (h0.same .clk (by decide))))
  have hx : m2.lnd' u = s.m.lnd' u := (lnd'_of_eff h2).trans ((lnd'_of_eff hl).trans (lnd'_of_eff h0))
  obtain ⟨c, v, a, hx3⟩ := eccBoth_lnd' hi2 d.part u d ecc
  have hst := rnStart_started (hb.keeps.inv hi2) u d secs draws h n ecc
  rw [hclk, ← hm3, hx3, hx, hm3] at hst
  obtain ⟨hrf, hsh, hop⟩ := hst
  refine ⟨?_, (h4.same .clk (by decide)).trans ((h3.same .clk (by decide)).trans hclk), ?_⟩
  · rw [queue_of_eff h4, queue_of_eff h3, queue_of_eff hb, queue_of_eff h2, queue_of_eff hl, queue_dequeue]
  · rw [lndLockstep_lnd']
    exact ⟨hrf, hsh, hop⟩

/-! #### Its completion and the clear (R321, R338, R340) -/

theorem lndComplete_completes {u : Fin 16} (hi : s.m.Inv) (diff : Bool) {o : EngOp} (ho : (s.m.lnd' u).op = some o) :
    let x := s.m.lnd' u
    Completes (.lndComplete u diff) s fun m => m.clk = (passToCycle o.doneC s.m).clk
      ∧ m.lnd' u = { x with
          op := none, clip := satAdd x.clip o.clip, nanrep := satAdd x.nanrep o.nanrep, lastProgress := m.clk.elapsed }
      ∧ count m o.desc.part o.desc.ctx 2 u = count s.m o.desc.part o.desc.ctx 2 u + 1 := by
  intro x
  show Ends s _ (execLndComplete u diff s)
  unfold execLndComplete
  simp -zeta only [ho]
  extract_lets m0 y m1 m2 m3
  have h0 : Eff timeParts s.m m0 := eff_passToCycle ..
  have h1 : Eff [.lnd] m0 m1 := eff_setLnd ..
  have h2 : Eff [.lnd] m1 m2 := eff_lndLockstep ..
  have h3 : Eff ([.chk] ++ evParts) m2 m3 := .ite ((eff_comparePair ..).mono rfl) (.refl m2)
  have hc := eff_complete 2 u o.desc o.failed m3
  have hy : y = x := lnd'_of_eff h0
  have hclk : (complete 2 u o.desc o.failed m3).clk = m0.clk := (hc.same .clk (by decide)).trans
    ((h3.same .clk (by decide)).trans ((h2.same .clk (by decide)).trans (h1.same .clk (by decide))))
  refine ends_done ⟨hclk, ?_, ?_⟩
  · rw [hclk, lnd'_of_eff hc, lnd'_of_eff h3, lndLockstep_lnd', setLnd_get m0 u _ (rising_lnd (h0.keeps.inv hi)), hy]
  · rw [count_complete, count_of_eff h3, count_of_eff h2, count_of_eff h1, count_of_eff h0]

theorem lndCntClr_lnd' (hi : m.Inv) (u : Nat) :
    (lndCntClr u m).lnd' u = lndClear (lndLeft m.clk.cycle (m.lnd' (lndLead m u)).op) (m.lnd' u) :=
  setLnd_get m u _ (rising_lnd hi)

/-- Where nothing runs on a Landing, nothing is still to come. -/
theorem lndLeft_idle {op : Option EngOp} (h : op = none) (now : Nat) : lndLeft now op = (0, 0, 0, 0, 0) := by
  rw [h]
  rfl

end Sys2Proof.Scope

section
open Sys2Proof Sys2Proof.Machine Sys2Proof.Scope

/-- Settles O19, by what the start and the completion of a RUN leave of its Landing, and by what its clear writes. -/
theorem landingsRunProgramsAndComplete : Obligations.LandingsRunProgramsAndComplete := by
  intro s l hi x
  refine ⟨?_, fun diff o ho => lndComplete_completes hi diff ho, ?_, fun ho => ?_⟩
  · intro h n ecc seedEcc errs k d secs y ho hc hh hr hp hd
    obtain ⟨m, he, hq, hclk, hs⟩ := run_completes hi h n ecc seedEcc errs ho hc hh hr hp hd
    exact ⟨m, he, hq, hclk, hs.refused, hs.stallHall, hs.op⟩
  · have hx := lndCntClr_lnd' hi l
    refine completes_of_done (m := lndCntClr l s.m) rfl ⟨?_, ?_, ?_, ?_, ?_, (Laws.eff_lndCntClr ..).same⟩
    all_goals rw [hx]; rfl
  · exact congrArg (fun v => done s (s.m.setLnd l (lndClear v x))) (lndLeft_idle ho _)

end

/-! ### Newels (O20) -/

namespace Sys2Proof.Scope
open Sys2Proof.Machine Sys2Proof.Laws

variable {s : State} {a b c m : Module} {l : List Part} {k : QKey} {d : Desc} {n w : Nat}

theorem rising_nwl (h : m.Inv) : rising m.nwl = true := by
  have hc := h.1
  simp only [Module.canonical, Bool.and_eq_true] at hc
  simp [hc]

theorem nwl'_of_eff {j : Nat} (h : Eff l a b) (hl : Part.nwl ∉ l := by decide) : b.nwl' j = a.nwl' j := sameNwl_of_eff h hl

/-! #### The seeds and the steps that a Newel holds (R326 to R329) -/

/-- The seeds and the steps of a Newel. -/
def nwlStore (w : Nat) (m : Module) : NMap W64 × NMap W32 := ((m.nwl' w).seeds, (m.nwl' w).step)

/-- A Newel's seeds and steps stand, where the state is canonical. -/
structure StoreKept (w : Nat) (a b : Module) : Prop where
  inv : a.Inv → b.Inv
  store : a.Inv → nwlStore w b = nwlStore w a

theorem StoreKept.refl (m : Module) : StoreKept w m m := ⟨id, fun _ => rfl⟩

theorem StoreKept.trans (h : StoreKept w a b) (g : StoreKept w b c) : StoreKept w a c :=
  ⟨g.inv ∘ h.inv, fun hi => (g.store (h.inv hi)).trans (h.store hi)⟩

theorem StoreKept.fold {α : Type} {f : Module → α → Module} {r : List α} (h : StoreKept w a b) (hf : ∀ m x, StoreKept w m (f m x)) :
    StoreKept w a (r.foldl f b) := by
  induction r generalizing b with
  | nil => exact h
  | cons x r ih => exact ih (h.trans (hf b x))

theorem StoreKept.of_eff (h : Eff l a b) (hl : Part.nwl ∉ l := by decide) : StoreKept w a b :=
  ⟨h.keeps.inv, fun _ => by simp only [nwlStore, nwl'_of_eff h hl]⟩

/-- A change of a Newel that leaves its seeds and steps. -/
theorem StoreKept.setNwl {x : Nwl} (hs : x.seeds = (m.nwl' n).seeds := by rfl) (ht : x.step = (m.nwl' n).step := by rfl) :
    StoreKept w m (m.setNwl n x) := by
  refine ⟨(eff_setNwl ..).keeps.inv, fun hi => ?_⟩
  obtain rfl | h := eq_or_ne w n
  · simp only [nwlStore, setNwl_get m w x (rising_nwl hi), hs, ht]
  · simp only [nwlStore, setNwl_get_ne m n x w h]

/-- The errors that a Newel meets in its seeds mark slots and leave what these hold (R338). -/
theorem StoreKept.nwlEcc (n : Nat) (d : Desc) (hits : List EccHit) (m : Module) : StoreKept w m (nwlEcc n d hits m) :=
  ((StoreKept.refl m).fold fun _ _ => (StoreKept.setNwl).trans (.of_eff (eff_evS ..))).fold fun _ _ =>
    (StoreKept.setNwl).trans (.of_eff (eff_evS ..))

theorem StoreKept.nwlServe (n p : Nat) (m : Module) : StoreKept w m (nwlServe n p m) := .setNwl

/-! #### GEN (R325, R335, R336) -/

/-- Where no engine draws, all 32 lanes are left, and each draws `per` in a cycle. -/
theorem grant_of_idle {rs : List (List (Nat × Nat × Nat))} (h : ∀ r ∈ rs, r = []) {need : Nat} (h0 : need ≠ 0) (per c : Nat) :
    (grant rs id per (grantPoints rs) need c).2.2 = c + ceilDiv need (per * 32) := by
  simp [grantPoints_of_idle h, grant, lanesLeft_of_idle h, h0]

theorem genCount_ne_zero_of_accepted (h : genRefusal m n d = none) : genCount d ≠ 0 := by
  have hc := of_firstCode_none (c := 0x10)
    (p := decide (genCount d = 0) || decide (genForm d > 3) || (decide (genForm d = 2) && genCount d % 8 != 0)) h (by simp)
  simp only [Bool.or_eq_false_iff, decide_eq_false_iff_not] at hc
  obtain ⟨⟨h0, -⟩, -⟩ := hc
  exact h0

/-- A GEN taken from its queue for service, and the errors that its seed's read meets (R137, R338). -/
def genTaken (n : Nat) (k : QKey) (d : Desc) (ecc : List EccHit) (m : Module) : Module := nwlServe n d.part (nwlEcc n d ecc (dequeue k m))

theorem eff_genTaken (n : Nat) (k : QKey) (d : Desc) (ecc : List EccHit) (m : Module) :
    Eff ([.queues, .nwl] ++ evParts) m (genTaken n k d ecc m) :=
  ((eff_dequeue ..).mono rfl).trans (((eff_nwlEcc ..).mono rfl).trans ((eff_nwlServe ..).mono rfl))

theorem StoreKept.genTaken (n : Nat) (k : QKey) (d : Desc) (ecc : List EccHit) (m : Module) : StoreKept w m (genTaken n k d ecc m) :=
  (StoreKept.of_eff (eff_dequeue k m)).trans ((StoreKept.nwlEcc ..).trans (.nwlServe ..))

theorem queue_genTaken (n : Nat) (k : QKey) (d : Desc) (ecc : List EccHit) (m : Module) :
    queue (genTaken n k d ecc m) k = (queue m k).tail := by
  rw [genTaken, queue_of_eff (eff_nwlServe ..), queue_of_eff (eff_nwlEcc ..), queue_dequeue]

/-- The bytes of a GEN that a Newel starts (R336). -/
def genOut (d : Desc) (x : Nwl) : List Byte :=
  genBytes (nget 0 x.seeds (8 * d.part + nfld (d.f 41 1) 0 3)) (if d.fl 0 then 0 else nget 0 x.step d.part) d

theorem gen_completes {n : Fin 2} (hi : s.m.Inv) (misses : Nat) (ecc : List EccHit) (hh : nwlHead s.m n 0x50 = some (k, d))
    (hr : genRefusal (genTaken n k d ecc s.m) n d = none) :
    let per := if genForm d = 0 ∨ genForm d = 2 then 8 else 4
    Completes (.gen n misses ecc) s fun m => queue m k = (queue s.m k).tail ∧ m.clk = s.m.clk
      ∧ (∃ m2, m2.mem = s.m.mem ∧ m2.img = s.m.img
        ∧ m.mem = (hallWrite n d.part (gaOff (d.a 16)) (genOut d (s.m.nwl' n)) m2).mem)
      ∧ ∃ o, (m.nwl' n).op = some o ∧ o.desc = d ∧ o.startC = s.m.clk.cycle
        ∧ ((∀ l ∈ requesters s.m n 14, l = []) → o.doneC = o.startC + misses + ceilDiv (genCount d) (per * 32) + 1) := by
  intro per
  show Ends s _ (execGen n misses ecc s)
  unfold execGen
  simp -zeta only [hh, ← genTaken.eq_1]
  extract_lets m1 _ _ m2 seed sc per' m3 u rs g m4 op _
  have hr1 : genRefusal m1 n d = none := hr
  simp -zeta only [hr1]
  have h1 : Eff ([.queues, .nwl] ++ evParts) s.m m1 := eff_genTaken ..
  have h2 : Eff evParts m1 m2 := eff_descStart ..
  have h3 : Eff memParts m2 m3 := (eff_hallWrite ..).mono rfl
  have h4 : Eff [.nwl] m3 m4 := eff_nwlCount ..
  have h5 : Eff [.nwl] m4 (m4.setNwl n { m4.nwl' n with op := some op }) := eff_setNwl ..
  have hi4 : m4.Inv := (h1.keeps.trans (h2.keeps.trans (h3.keeps.trans h4.keeps))).inv hi
  have hst : nwlStore n m2 = nwlStore n s.m := ((StoreKept.genTaken n k d ecc s.m).trans (.of_eff h2)).store hi
  have hbytes : genBytes seed sc d = genOut d (s.m.nwl' n) := by
    simp only [nwlStore, Prod.mk.injEq] at hst
    obtain ⟨hseeds, hstep⟩ := hst
    simp only [genOut, seed, sc, seedOf, stepComp, hseeds, hstep]
  have hclk : m3.clk = s.m.clk := (h3.same .clk (by decide)).trans ((h2.same .clk (by decide)).trans (h1.same .clk (by decide)))
  refine ends_done ⟨?_, ?_, ⟨m2, ?_, ?_, ?_⟩, op, ?_, ?_, ?_, fun hfree => ?_⟩
  · rw [queue_of_eff h5, queue_of_eff h4, queue_of_eff h3, queue_of_eff h2]
    exact queue_genTaken ..
  · exact (h5.same .clk (by decide)).trans ((h4.same .clk (by decide)).trans hclk)
  · exact (h2.same .mem (by decide)).trans (h1.same .mem (by decide))
  · exact (h2.same .img (by decide)).trans (h1.same .img (by decide))
  · rw [← hbytes]
    exact (h5.same .mem (by decide)).trans (h4.same .mem (by decide))
  · rw [setNwl_get m4 n _ (rising_nwl hi4)]
  · rfl
  · exact congrArg Clk.cycle hclk
  · have hrs : rs = requesters s.m n 14 := (requesters_of_eff h3).trans ((requesters_of_eff h2).trans (requesters_of_eff h1))
    have hper : per' = per := by simp [per', per]
    have hg : g.2.2 = u + misses + ceilDiv (genCount d) (per' * 32) :=
      grant_of_idle (hrs ▸ hfree) (genCount_ne_zero_of_accepted hr) ..
    show g.2.2 + 1 = u + misses + ceilDiv (genCount d) (per * 32) + 1
    rw [hg, hper]

/-! #### GEN_COMPLETE -/

theorem genComplete_completes {n : Fin 2} (hi : s.m.Inv) {o : EngOp} (ho : (s.m.nwl' n).op = some o) :
    Completes (.genComplete n) s fun m => m.nwl' n = { s.m.nwl' n with op := none, lastProgress := m.clk.elapsed }
      ∧ m.clk = (passToCycle o.doneC s.m).clk ∧ count m o.desc.part o.desc.ctx 5 n = count s.m o.desc.part o.desc.ctx 5 n + 1 := by
  show Ends s _ (execGenComplete n s)
  unfold execGenComplete
  simp -zeta only [ho]
  extract_lets x m0 y
  have h0 : Eff timeParts s.m m0 := eff_passToCycle ..
  generalize hm : m0.setNwl n _ = m1
  have h1 : Eff [.nwl] m0 m1 := hm ▸ eff_setNwl ..
  have hc := eff_complete 5 n o.desc o.failed m1
  have hclk : (complete 5 n o.desc o.failed m1).clk = m0.clk := (hc.same .clk (by decide)).trans (h1.same .clk (by decide))
  refine ends_done ⟨?_, hclk, ?_⟩
  · rw [hclk, nwl'_of_eff hc, ← hm, setNwl_get m0 n _ (rising_nwl (h0.keeps.inv hi)), show y = x from nwl'_of_eff h0]
  · rw [count_complete, count_of_eff h1, count_of_eff h0]

/-! #### SEED (R326, R334) -/

/-- A SEED writes both copies of a seed and leaves the steps. -/
theorem nwlStore_setSeed (hi : m.Inv) (hw : w < 2) (p slot : Nat) (v : W64) :
    nwlStore w (setSeed p slot v m) = (nset 0 (m.nwl' w).seeds (8 * p + slot) v, (m.nwl' w).step) := by
  unfold setSeed
  extract_lets f
  have h0 : Eff [.nwl] m (m.setNwl 0 (f (m.nwl' 0))) := eff_setNwl ..
  obtain rfl | rfl : w = 0 ∨ w = 1 := by omega
  · rw [nwlStore, setNwl_get_ne _ 1 _ 0 (by decide), setNwl_get m 0 _ (rising_nwl hi)]
  · rw [nwlStore, setNwl_get _ 1 _ (rising_nwl (h0.keeps.inv hi))]

theorem seed_completes {n : Fin 2} (hi : s.m.Inv) (hh : nwlHead s.m n 0x51 = some (k, d)) :
    Completes (.seed n) s fun m => queue m k = (queue s.m k).tail ∧ m.clk = (passToCycle (s.m.clk.cycle + 1) s.m).clk
      ∧ (∀ w, w < 2 → (m.nwl' w).seeds = nset 0 (s.m.nwl' w).seeds (8 * d.part + nfld (d.f 24 1) 0 3) (d.a 16)
        ∧ (m.nwl' w).step = (s.m.nwl' w).step)
      ∧ count m d.part d.ctx 5 n = count s.m d.part d.ctx 5 n + 1 := by
  show Ends s _ (execSeed n s)
  unfold execSeed
  simp -zeta only [hh]
  extract_lets m1 m2
  have h0 : Eff [.queues] s.m (dequeue k s.m) := eff_dequeue ..
  have hsv : Eff [.nwl] (dequeue k s.m) (nwlServe n d.part (dequeue k s.m)) := eff_nwlServe ..
  have hst : Eff evParts (nwlServe n d.part (dequeue k s.m)) m1 := eff_descStart ..
  have ht : SameAt timeAt s.m m1 := sameTime_of_eff (a := nwlServe n d.part (dequeue k s.m)) hst (evKeeps_descStart ..)
  have hp : Eff timeParts m1 (passToCycle (m1.clk.cycle + 1) m1) := eff_passToCycle ..
  have h2 : Eff [.nwl] (passToCycle (m1.clk.cycle + 1) m1) m2 := eff_setSeed ..
  have hc := eff_complete 5 n d false m2
  have hi1 : m1.Inv := (h0.keeps.trans (hsv.keeps.trans hst.keeps)).inv hi
  have hclk : m1.clk = s.m.clk := congrArg (·.1) ht
  refine ends_done ⟨?_, ?_, fun w hw => ?_, ?_⟩
  · rw [queue_of_eff hc, queue_of_eff h2, queue_of_eff hp, queue_of_eff hst, queue_of_eff hsv, queue_dequeue]
  · rw [hc.same .clk (by decide), h2.same .clk (by decide), hclk]
    exact clk_passToCycle ht _
  · have h1 : nwlStore w m1 = nwlStore w s.m :=
      ((StoreKept.of_eff h0).trans ((StoreKept.nwlServe n d.part _).trans (.of_eff hst))).store hi
    have hip : (passToCycle (m1.clk.cycle + 1) m1).Inv := hp.keeps.inv hi1
    have h3 : nwlStore w (complete 5 n d false m2) = _ :=
      ((StoreKept.of_eff hc).store (h2.keeps.inv hip)).trans (nwlStore_setSeed hip hw d.part _ (d.a 16))
    simp only [nwlStore, nwl'_of_eff hp, Prod.mk.injEq] at h1 h3
    obtain ⟨hs1, ht1⟩ := h1
    obtain ⟨hs3, ht3⟩ := h3
    exact ⟨by rw [hs3, hs1], by rw [ht3, ht1]⟩
  · rw [count_complete, count_of_eff h2, count_of_eff hp, count_of_eff hst, count_of_eff hsv, count_of_eff h0]

/-! #### NWL_CNT_CLR (R342) -/

theorem nwlCntClr_nwl' (hi : m.Inv) (n : Nat) : (nwlCntClr n m).nwl' n = nwlClear (nwlLeft m n) (m.nwl' n) :=
  setNwl_get m n _ (rising_nwl hi)

/-- Where nothing runs that draws, nothing is still to come. -/
theorem nwlLeft_idle (hr : ∀ i, (m.ris' i).op = none) (hw : ∀ i, (m.win' i).op = none) (hl : ∀ i, (m.lnd' i).op = none)
    (hn : (m.nwl' n).op = none) : nwlLeft m n = (0, 0) := by
  simp [nwlLeft, hr, hw, hl, hn]

end Sys2Proof.Scope

section
open Sys2Proof Sys2Proof.Machine Sys2Proof.Scope

/-- Settles O20, by what a GEN writes and how long it takes, what its completion and a SEED leave, and what the clear writes. -/
theorem newelsGenerateAndSeed : Obligations.NewelsGenerateAndSeed := by
  intro s n k d hi x
  refine ⟨fun misses ecc hh hr => gen_completes hi misses ecc hh hr, fun o ho => genComplete_completes hi ho, fun hh => seed_completes hi hh,
    ?_, fun hr hw hl hn => ?_⟩
  · have hx := nwlCntClr_nwl' hi n
    refine completes_of_done (m := nwlCntClr n s.m) rfl ⟨?_, ?_, ?_, (Laws.eff_nwlCntClr ..).same⟩
    all_goals rw [hx]; rfl
  · exact congrArg (fun v => done s (s.m.setNwl n (nwlClear v x))) (nwlLeft_idle hr hw hl hn)

end

/-! ### Resets (O41) -/

namespace Sys2Proof.Scope
open Sys2Proof.Machine Sys2Proof.Laws

variable {b m : Module} {w : Nat} {r : PtRun}

/-! #### A reset that a command asks for (R566, R567) -/

/-- Where nothing is under reset or ordered and no count escalates, the reset of a domain that exists acts at once: beforehand only the
ladder's own records change. -/
theorem resetRow_acts {d : Dom} {level : Nat} (hr : m.wdg.running = []) (ho : m.wdg.ordered = []) (he : m.wdg.escCount = 0)
    (hl : level ≤ 5) (hd : domExists m d = true) : ∃ x, resetRow d level m = resetDom d { m with wdg := x } := by
  have h6 : ¬ level ≥ 6 := by omega
  have hn : performOrdered d level m = none := by simp [performOrdered, ho]
  have hc : resetCommand d level m = { m with wdg := { m.wdg with ordered := [{ dom := d, level := level, cause := 2 }] } } := by
    simp [resetCommand, orderReset, escalates, placeOrder, runningCovers, hr, ho, he, hd, hl, h6, show level ≠ 6 by omega]
  rw [resetRow, hn]
  dsimp only
  rw [hc, performOrdered]
  simp only [List.find?_cons, decide_true, Bool.and_self, perform, h6, if_false]
  exact ⟨_, rfl⟩

/-! #### The reset of a Baluster (R596, R599) -/

theorem rising_chk (h : m.Inv) : rising m.chk = true := by
  have hc := h.1
  simp only [Module.canonical, Bool.and_eq_true] at hc
  simp [hc]

theorem chk'_of_eff {l : List Part} {j : Nat} (h : Eff l m b) (hl : Part.chk ∉ l := by decide) : b.chk' j = m.chk' j :=
  congrArg (nget Chk.init · j) (h.same .chk hl)

theorem ptSpoil_mem (h : b.mem = m.mem) (r : PtRun) : (ptSpoil r b).mem = (ptSpoil r m).mem := by
  unfold ptSpoil loseUnit
  split
  · simp only [h]
  · exact h

/-- The end of a pattern test leaves in memory what its march leaves of a Hall bank. -/
theorem ptAbort_mem (h : (m.chk' w).run = some r) : (ptAbort w m).mem = (ptSpoil r m).mem := by
  unfold ptAbort
  simp only [h]
  exact ((eff_ev ..).same .mem (by decide)).trans (ptSpoil_mem (setChk_mem ..) r)

/-- A comparison that a Baluster discards is counted and recorded, and its descriptor will complete with error. -/
def lostCompare (w : Nat) (m : Module) (x : Nat × Nat × Desc) : Module :=
  ev 0x15 2 w 4 x.2.2.part x.2.2.ctx (cmpDetail x.1 x.2.1 x.2.2)
    (failOp x.1 x.2.1 x.2.2.seq (m.setChk w { m.chk' w with lost := satAdd (m.chk' w).lost 1 }))

theorem chkReset_eq (w : Nat) (m : Module) : chkReset w m = ptAbort w ((pendingCompares m w).foldl (lostCompare w) m) := rfl

/-- The state is canonical, the memory is that of `m`, and the Baluster's pattern test is `r`. -/
def PtStands (w : Nat) (m : Module) (r : PtRun) (b : Module) : Prop := b.Inv ∧ b.mem = m.mem ∧ (b.chk' w).run = some r

theorem ptStands_lostCompare (h : PtStands w m r b) (x : Nat × Nat × Desc) : PtStands w m r (lostCompare w b x) := by
  obtain ⟨hi, hm, hr⟩ := h
  have h1 : Eff [.chk] b (b.setChk w { b.chk' w with lost := satAdd (b.chk' w).lost 1 }) := eff_setChk ..
  have h2 : Eff ([.gal, .bal, .ris, .lnd] ++ evParts) _ (lostCompare w b x) := ((eff_failOp ..).mono rfl).trans ((eff_ev ..).mono rfl)
  refine ⟨h2.keeps.inv (h1.keeps.inv hi), (h2.same .mem (by decide)).trans hm, ?_⟩
  rw [chk'_of_eff h2, setChk_get b w _ (rising_chk hi)]
  exact hr

/-- The comparisons that a Baluster's reset discards leave its pattern test and the memory. -/
theorem chkReset_mem (hi : m.Inv) (h : (m.chk' w).run = some r) : (chkReset w m).mem = (ptSpoil r m).mem := by
  rw [chkReset_eq]
  obtain ⟨-, hm, hr⟩ := List.foldlRecOn (motive := PtStands w m r) (pendingCompares m w) (lostCompare w) ⟨hi, rfl, h⟩
    fun _ hb x _ => ptStands_lostCompare hb x
  exact (ptAbort_mem hr).trans (ptSpoil_mem hm r)

theorem engineReset_baluster (w : Nat) (m : Module) :
    engineReset 11 w m = chkReset w (removeDescs (fun k _ => k.cls = 11 && k.idx = w) m) := by
  simp [engineReset, resetUnit, execDescs, clearEngine]

/-- The reset of a Baluster that runs a pattern test leaves in memory what the test's march leaves. -/
theorem engineReset_baluster_mem (hi : m.Inv) (h : (m.chk' w).run = some r) : (engineReset 11 w m).mem = (ptSpoil r m).mem := by
  rw [engineReset_baluster]
  generalize hm : removeDescs _ m = b
  have he : Eff ([.queues, .flt] ++ doneParts) m b := hm ▸ (eff_removeDescs ..).mono rfl
  have hr : (b.chk' w).run = some r := by rwa [chk'_of_eff he]
  exact (chkReset_mem (he.keeps.inv hi) hr).trans (ptSpoil_mem (he.same .mem (by decide)) r)

/-- A pattern test that marches on Hall bank 5. -/
def bankMarch : PtRun :=
  { unit := 5, cls := 6, slot := 0, first := 0, last := 0, soaking := false, startBeat := 0, stopping := false }

/-- The state after reset, with COUNT of WDG_ESC written 0 and a march under way at Baluster 0. -/
def marching : State :=
  { pending := [], m := { Module.init with
      wdg := { Wdg.init with escCount := 0 }
      chk := [(0, { Chk.init with run := some bankMarch })] } }

end Sys2Proof.Scope

section
open Sys2Proof Sys2Proof.Machine Sys2Proof.Scope

/-- Refutes O41: of an engine's reset the statement says that it leaves the memory, and that of a Baluster ends a pattern test under way,
whose march on a Hall bank leaves nothing of the bank's contents (R596, R599): the bank counts one loss more. -/
theorem not_resetsActOnTheirDomainsAndEnd : ¬ Obligations.ResetsActOnTheirDomainsAndEnd := by
  intro h
  have hi : marching.m.Inv := ⟨rfl, rfl⟩
  obtain ⟨hcmd, -⟩ := h marching hi
  obtain ⟨-, heng, -⟩ := hcmd rfl rfl rfl
  obtain ⟨m, he, -, -, hmem, -⟩ := heng .baluster 0 rfl
  obtain ⟨x, hx⟩ := resetRow_acts (m := marching.m) (d := .engine { cls := .baluster, idx := 0 }) (level := 2) rfl rfl rfl (by decide) rfl
  have hm : resetRow (.engine { cls := .baluster, idx := 0 }) 2 marching.m = m := by
    cases he
    rfl
  have hspoil : m.mem = (ptSpoil bankMarch marching.m).mem := by
    rw [← hm, hx]
    exact engineReset_baluster_mem (m := { marching.m with wdg := x }) (w := 0) (r := bankMarch) ⟨rfl, rfl⟩ rfl
  have hlost : (ptSpoil bankMarch marching.m).mem.hall.lost = marching.m.mem.hall.lost := by rw [← hspoil, hmem]
  exact absurd hlost (by decide)

end

/-! ### The canonical form (O56) -/

namespace Sys2Proof.Scope
open Sys2Proof.Machine Sys2Proof.Laws

variable {s t : State}

/-- POWER_GOOD leaves every map and memory canonical, whatever they were: after a cold start it only records events. -/
theorem powerGood_inv (slot : BitVec 4) (m : Module) : (powerGood slot m).Inv := by
  unfold powerGood
  extract_lets m1 m2
  obtain ⟨-, h1⟩ := coldStart_inv slot m
  have h2 : m2.Inv := by
    dsimp only [m2]
    split
    · exact h1
    · exact (eff_ev ..).keeps.inv h1
  split
  · exact h2
  · exact (eff_ev ..).keeps.inv h2

/-- A command that answers a next state keeps the canonical form. -/
theorem exec_inv (c : Instr) (hi : s.m.Inv) (h : exec c s = .next t) : t.m.Inv := by
  by_cases hp : ∃ slot, c = .powerGood slot
  · obtain ⟨slot, rfl⟩ := hp
    cases h
    exact powerGood_inv slot s.m
  · obtain ⟨-, hk⟩ := (keeps_exec c s fun slot e => hp ⟨slot, e⟩).out t h
    exact hk.inv hi

end Sys2Proof.Scope

section
open Sys2Proof Sys2Proof.Machine Sys2Proof.Scope

/-- Settles O56: time that passes and every command but POWER_GOOD keep the form, and POWER_GOOD leaves it of itself. -/
theorem everyStepKeepsTheCanonicalForm : Obligations.EveryStepKeepsTheCanonicalForm := by
  intro s t hi h
  unfold step at h
  split at h
  next =>
    cases h
    exact (Laws.eff_tick s.m).keeps.inv hi
  next c rest _ => exact exec_inv (s := { s with pending := rest }) c hi h

end

/-! ### Memory tiers (O21, O22, O23) -/

namespace Sys2Proof.Scope
open Sys2Proof.Machine Sys2Proof.Laws

/-! #### Finding an entry of a sparse map after a write -/

section
variable {α : Type} {d v : α} {l : List (Nat × α)} {j k : Nat}

theorem nfind_above (h : above k l) : nfind l k = none := by
  induction l with
  | nil => rfl
  | cons x r ih =>
    obtain ⟨k', v'⟩ := x
    have hk : k < k' := h (k', v') (by simp)
    rw [nfind, if_neg (by omega)]
    exact ih fun y hy => h y (by simp [hy])

theorem nfind_nset_of_ne [DecidableEq α] (h : j ≠ k) : nfind (nset d l k v) j = nfind l j := by
  induction l with
  | nil => by_cases hv : v = d <;> simp [nset, nfind, hv, Ne.symm h]
  | cons x r ih =>
    obtain ⟨k', v'⟩ := x
    simp only [nset]
    split_ifs with h1 h2 h3 h4
    · rfl
    · simp [nfind, Ne.symm h]
    · simp [nfind, ← h3, Ne.symm h]
    · simp [nfind, ← h3, Ne.symm h]
    · simp only [nfind, ih]

theorem nfind_nset_self [DecidableEq α] (h : rising l = true) : nfind (nset d l k v) k = if v = d then none else some v := by
  induction l with
  | nil => by_cases hv : v = d <;> simp [nset, nfind, hv]
  | cons x r ih =>
    obtain ⟨k', v'⟩ := x
    obtain ⟨ha, hr⟩ := rising_cons.1 h
    simp only [nset]
    split_ifs with h1 h2 h3 h4
    · rw [nfind, if_neg (by omega)]
      exact nfind_above fun y hy => lt_trans h1 (ha y hy)
    · simp [nfind]
    · exact nfind_above (h3 ▸ ha)
    · simp [nfind]
    all_goals simp_all [nfind, Ne.symm h3]

end

/-! #### The bytes of a tier after a store (R345) -/

section
variable {z tier a b n x : Nat} {v : Byte} {l : List Byte} {t : TierMem}

theorem put_lost (z a : Nat) (v : Byte) (t : TierMem) : (t.put z a v).lost = t.lost := by
  unfold TierMem.put
  split <;> rfl

theorem get_put_self (h : t.wf z = true) : (t.put z a v).get z tier a = v := by
  simp only [TierMem.wf, Bool.and_eq_true] at h
  obtain ⟨hr, -⟩ := h
  unfold TierMem.put
  split_ifs with h0
  · rw [TierMem.get, nfind_nset_self hr]
    split_ifs with hv <;> simp [h0, hv]
  · simp [TierMem.get, nfind_nput_self]

theorem get_put_of_ne (h : x ≠ a) : (t.put z a v).get z tier x = t.get z tier x := by
  have hc : nfind (t.put z a v).cells x = nfind t.cells x := by
    unfold TierMem.put
    split
    · exact nfind_nset_of_ne h
    · exact nfind_nput_of_ne h
  rw [TierMem.get, TierMem.get, hc, put_lost]

theorem get_putN_of_outside (h : x < a ∨ a + l.length ≤ x) : (t.putN z a l).get z tier x = t.get z tier x := by
  induction l generalizing a t with
  | nil => rfl
  | cons v r ih =>
    simp only [List.length_cons] at h
    exact (ih (by omega)).trans (get_put_of_ne (by omega))

theorem getN_succ (z tier a n : Nat) (t : TierMem) : t.getN z tier a (n + 1) = t.get z tier a :: t.getN z tier (a + 1) n := by
  simp [TierMem.getN, List.range_succ_eq_map, Nat.add_right_comm, Nat.add_assoc]

/-- A read of the bytes just stored gives them. -/
theorem getN_putN_self (h : t.wf z = true) : (t.putN z a l).getN z tier a l.length = l := by
  induction l generalizing a t with
  | nil => rfl
  | cons v r ih =>
    rw [List.length_cons, getN_succ, TierMem.putN, ih (wf_put h), get_putN_of_outside (by omega), get_put_self h]

/-- A store leaves the bytes beside it. -/
theorem getN_putN_of_apart (h : b + n ≤ a ∨ a + l.length ≤ b) : (t.putN z a l).getN z tier b n = t.getN z tier b n :=
  List.map_congr_left fun i hi => get_putN_of_outside (by have := List.mem_range.1 hi; omega)

end

/-! #### What each operation leaves of the memory -/

section
variable {m a b : Module} {l : List Part}

/-- The maps of the memory of which the canonical form speaks. -/
theorem inv_mem (h : m.Inv) : rising m.mem.caches = true ∧ rising m.mem.hallW = true ∧ rising m.mem.tg = true ∧ Memory.wf m.mem = true := by
  obtain ⟨hc, hw⟩ := h
  simp only [Module.canonical, Bool.and_eq_true] at hc
  simp [hc, hw]

theorem rising_caches (h : m.Inv) : rising m.mem.caches = true := by
  obtain ⟨hc, -⟩ := inv_mem h
  exact hc

theorem rising_hallW (h : m.Inv) : rising m.mem.hallW = true := by
  obtain ⟨-, hw, -⟩ := inv_mem h
  exact hw

theorem rising_tg (h : m.Inv) : rising m.mem.tg = true := by
  obtain ⟨-, -, ht, -⟩ := inv_mem h
  exact ht

theorem wf_tierMem (h : m.Inv) (tier : Nat) : (tierMem m.mem tier).wf (slotSize tier) = true := by
  obtain ⟨-, -, -, hw⟩ := inv_mem h
  simp only [Memory.wf, Bool.and_eq_true] at hw
  obtain ⟨⟨h0, h1⟩, h2⟩ := hw
  by_cases ht : tier = 0
  · exact ht ▸ h0
  · by_cases ht' : tier = 1
    · exact ht' ▸ h1
    · have hs : slotSize tier = slotSize 2 := by simp [slotSize, ht, ht']
      simpa [tierMem, ht, ht', hs] using h2

theorem cache_setCache (h : m.Inv) (p : Nat) (x : PCache) : (m.setCache p x).cache p = x := nget_nset_self (rising_caches h)

theorem hallW'_setHallW (h : m.Inv) (w : Nat) (x : HallWing) : (m.setHallW w x).hallW' w = x := nget_nset_self (rising_hallW h)

theorem tgGet_tgSet (h : m.Inv) (k : Nat) (x : Tg) : tgGet (tgSet k x m) k = x := nget_nset_self (rising_tg h)

theorem tgGet_tgSet_of_ne {j k : Nat} (h : j ≠ k) (x : Tg) (m : Module) : tgGet (tgSet k x m) j = tgGet m j := nget_nset_of_ne h

/-- The contents of the tiers. -/
def tiersAt (m : Module) : TierMem × TierMem × TierMem := (m.mem.hall, m.mem.fast, m.mem.slow)

/-- The caches and the channel-test sets. -/
def setsAt (m : Module) : NMap PCache × NMap Tg := (m.mem.caches, m.mem.tg)

theorem sameSets_of_mem (h : b.mem = a.mem) : SameAt setsAt a b := congrArg (fun x : MemBlk => (x.caches, x.tg)) h

theorem sameSets_of_eff (h : Eff l a b) (hl : Part.mem ∉ l := by decide) : SameAt setsAt a b :=
  sameSets_of_mem (h.same .mem hl)

theorem tierMem_of_tiers (h : SameAt tiersAt a b) (tier : Nat) : tierMem b.mem tier = tierMem a.mem tier := by
  simp only [SameAt, tiersAt, Prod.mk.injEq] at h
  obtain ⟨h0, h1, h2⟩ := h
  simp only [tierMem, h0, h1, h2]

theorem cache_of_sets (h : SameAt setsAt a b) (p : Nat) : b.cache p = a.cache p :=
  congrArg (fun x : NMap PCache × NMap Tg => nget PCache.init x.1 p) h

theorem tgGet_of_sets (h : SameAt setsAt a b) (k : Nat) : tgGet b k = tgGet a k :=
  congrArg (fun x : NMap PCache × NMap Tg => nget Tg.init x.2 k) h

/-- A count of an access changes neither contents nor sets (R354, R387). -/
theorem counted_hallAccess (w bw n : Nat) (write : Bool) (m : Module) :
    SameAt tiersAt m (hallAccess w bw n write m) ∧ SameAt setsAt m (hallAccess w bw n write m) := by
  have hc : ∀ i j (x : Module), (corridor i j n x).mem = x.mem := fun i j x => (eff_corridor i j n x).same .mem (by decide)
  unfold hallAccess SameAt tiersAt setsAt
  split
  · dsimp only
    split <;> rw [hc] <;> exact ⟨rfl, rfl⟩
  · exact ⟨rfl, rfl⟩

theorem counted_countWrite (w tier phys n : Nat) (m : Module) :
    SameAt tiersAt m (countWrite w tier phys n m) ∧ SameAt setsAt m (countWrite w tier phys n m) := by
  unfold countWrite
  split
  · exact counted_hallAccess ..
  · unfold updMemUnit setMemUnit
    split <;> exact ⟨rfl, rfl⟩

theorem sameSets_storeSector (p tier off phys : Nat) (bs : List Byte) (poisoned : Bool) (m : Module) :
    SameAt setsAt m (storeSector p tier off phys bs poisoned m) := by
  simp only [SameAt, setsAt, storeSector, setPoison, setTierMem]
  split_ifs <;> rfl

/-- A sector store puts its bytes at the start of its sector, in its tier. -/
theorem tierMem_storeSector (p tier off phys : Nat) (bs : List Byte) (poisoned : Bool) (m : Module) :
    tierMem (storeSector p tier off phys bs poisoned m).mem tier = (tierMem m.mem tier).putN (slotSize tier) (phys / 32 * 32) bs := by
  simp only [storeSector, setPoison, setTierMem, tierMem]
  split_ifs <;> rfl

theorem tierMem_storeSector_of_ne {j tier : Nat} (h : j ≠ tier) (hj : j < 3) (ht : tier < 3) (p off phys : Nat) (bs : List Byte)
    (poisoned : Bool) (m : Module) : tierMem (storeSector p tier off phys bs poisoned m).mem j = tierMem m.mem j := by
  have hs : ∀ (b : MemBlk) t, tierMem (setTierMem b tier t) j = tierMem b j := fun b t => by
    grind [setTierMem, tierMem]
  unfold storeSector setPoison
  dsimp only
  split <;> exact hs ..

theorem sameSets_drainOne (m : Module) : SameAt setsAt m (drainOne m) := by
  unfold drainOne
  extract_lets d
  split
  next => exact .refl m
  next =>
    split
    next =>
      split
      next => exact .refl m
      next =>
        refine .ite (.refl m) ?_
        extract_lets off m1
        have h1 : SameAt setsAt m m1 := sameSets_of_mem rfl
        exact h1.trans ((counted_countWrite ..).2.trans (sameSets_storeSector ..))
    next => exact sameSets_of_mem rfl
    next => exact .refl m

theorem sameSets_drainTrace (n : Nat) (m : Module) : SameAt setsAt m (drainTrace n m) := by
  induction n generalizing m with
  | zero => exact .refl m
  | succ n ih => exact (sameSets_drainOne m).trans (ih _)

/-- Passing time, in which the trace drains, leaves the caches and the channel-test sets. -/
theorem sameSets_passTo (n : Nat) (m : Module) : SameAt setsAt m (passTo n m) := by
  unfold passTo Machine.pass
  exact (sameSets_drainTrace ..).trans (sameSets_of_eff (eff_advance ..))

end
end Sys2Proof.Scope

/-! ### Channel tests and the memory's counters (O22, O23) -/

namespace Sys2Proof.Scope
open Sys2Proof.Machine Sys2Proof.Laws

variable {s : State} {m : Module} {k : Nat}

/-! #### START (R375, R389) -/

/-- A channel whose unit is in service refuses a START. -/
theorem testStart_refused (fails : List TestFail) (hr : (tgGet m k).running = false) (ho : unitOos m (chUnit k).1 (chUnit k).2 = false) :
    testStart k fails m = tgSet k { tgGet m k with refused := true, refusedAt := instant m } m := by
  simp [testStart, hr, ho]

theorem testStart_running (fails : List TestFail) (hr : (tgGet m k).running = true) : testStart k fails m = m := if_pos hr

/-- The set of a channel whose test begins: its results are zero, and the faults that it will meet are those of the hardware. -/
def startedTg (m : Module) (fails : List TestFail) (t : Tg) : Tg :=
  { t with
    running := true, startAt := m.clk.elapsed, faults := fails, freeAt := m.mem.freeCount, passesDone := 0, errs := 0, first := 0, bits := 0 }

/-- Whether a register holds a reserved code (R376, R377). -/
def TgReserved (t : Tg) : Prop := t.pattern = 7 ∨ t.mode = 3 ∨ t.order = 3

/-- The module when a test has begun on a channel. -/
def testBegun (k : Nat) (fails : List TestFail) (m : Module) : Module :=
  tgSet k (startedTg m fails (tgGet m k)) { m with mem := { m.mem with freeCount := m.mem.freeCount + 1 } }

theorem testStart_outOfService (fails : List TestFail) (hr : (tgGet m k).running = false)
    (ho : unitOos m (chUnit k).1 (chUnit k).2 = true) : testStart k fails m =
      if (tgGet m k).pattern = 7 || (tgGet m k).mode = 3 || (tgGet m k).order = 3 then m else testBegun k fails m := by
  simp only [testStart, hr, ho]
  rfl

theorem testStart_reserved (fails : List TestFail) (hr : (tgGet m k).running = false) (ho : unitOos m (chUnit k).1 (chUnit k).2 = true)
    (hx : TgReserved (tgGet m k)) : testStart k fails m = m :=
  (testStart_outOfService fails hr ho).trans (if_pos (by simpa [TgReserved, or_assoc] using hx))

theorem testStart_starts (fails : List TestFail) (hr : (tgGet m k).running = false) (ho : unitOos m (chUnit k).1 (chUnit k).2 = true)
    (hx : ¬ TgReserved (tgGet m k)) : testStart k fails m = testBegun k fails m :=
  (testStart_outOfService fails hr ho).trans (if_neg (by simpa [TgReserved, or_assoc] using hx))

theorem sameBut_testBegun (k : Nat) (fails : List TestFail) (m : Module) : SameBut [.mem] m (testBegun k fails m) := sameBut_of_blend rfl

theorem tgGet_testBegun (hi : m.Inv) (k : Nat) (fails : List TestFail) :
    tgGet (testBegun k fails m) k = startedTg m fails (tgGet m k) ∧ ∀ j, j ≠ k → tgGet (testBegun k fails m) j = tgGet m j :=
  ⟨nget_nset_self (rising_tg hi), fun _ hj => tgGet_tgSet_of_ne hj ..⟩

/-! #### The end of a test (R376 to R379, R390) -/

/-- What a test writes of its range changes nothing but the contents of the tiers. -/
theorem eff_testWrites_mem (k : Nat) (t : Tg) (steps : Nat) (m : Module) : Eff [.mem] m (testWrites k t steps m) := by
  unfold testWrites
  split
  · exact .refl m
  · exact .fold (.refl m) fun m x => .ite (eff_storeSector ..) (.refl m)

theorem sameSets_testWrites (k : Nat) (t : Tg) (steps : Nat) (m : Module) : SameAt setsAt m (testWrites k t steps m) := by
  unfold testWrites
  split
  · exact .refl m
  · exact .fold (.refl m) fun m x => .ite (sameSets_storeSector ..) (.refl m)

/-- The set of a channel whose test ends after some of its steps. -/
def endedTg (k : Nat) (t : Tg) (steps : Nat) (m : Module) : Tg :=
  { testResult k t steps m with running := false, isDone := true, isDoneAt := instant m }

theorem endedTg_eq (k : Nat) (t : Tg) (steps : Nat) (m : Module) : let fs := testFails k t steps m
    endedTg k t steps m = { t with
      running := false, isDone := true, isDoneAt := instant m, errs := BitVec.ofNat 64 fs.length
      first := (if h : 0 < fs.length then BitVec.ofNat 35 fs[0].1 else 0), bits := fs.foldl (fun b f => b ||| f.2) 0
      passesDone := BitVec.ofNat 16 (if passSteps k t = 0 then testPasses t else steps / passSteps k t) } := by
  intro fs
  have hf : (testResult k t steps m).first = if h : 0 < fs.length then BitVec.ofNat 35 fs[0].1 else 0 := by
    cases h : testFails k t steps m <;> simp [testResult, fs, h]
  rw [← hf]
  rfl

/-- A test that ended, before its outcome is recorded: what it wrote stands in the memory, and its set shows what it found. -/
def testOver (k : Nat) (t : Tg) (steps : Nat) (m : Module) : Module :=
  tgSet k (endedTg k t steps m) (testWrites k t steps (tgSet k { testResult k t steps m with running := false } m))

theorem testEnd_records (hi : m.Inv) (k steps : Nat) : let t := tgGet m k; let e := endedTg k t steps m
    testEnd k steps m =
      if e.errs = 0 then ev (tierEvCls (chTier k)) 4 (chUnit k).2 0 31 0 (BitVec.ofNat 64 (chIndex k)) (testOver k t steps m)
      else ev (tierEvCls (chTier k)) 5 (chUnit k).2 2 31 0 e.errs (testOver k t steps m) := by
  intro t e
  have hw : Eff [.mem] m (testHalt k steps m) := (eff_tgSet ..).trans (eff_testWrites_mem ..)
  have hg : tgGet (testHalt k steps m) k = { testResult k t steps m with running := false } :=
    (tgGet_of_sets (sameSets_testWrites ..) k).trans (tgGet_tgSet hi ..)
  have hn : instant (testHalt k steps m) = instant m := congrArg (fun c : Clk => some (c.elapsed, c.cycle)) (hw.same .clk (by decide))
  unfold testEnd
  simp only [hg, hn]
  rfl

/-- What the end of a test leaves: the statement's own words. -/
def TestEnded (k : Nat) (t : Tg) (a : Module) (steps : Nat) (m : Module) : Prop :=
  let fs := testFails k t steps a
  let errs : W64 := BitVec.ofNat 64 fs.length
  let cls := if k < 256 then 0x0C else 0x0D
  let unit := if k < 256 then k else (k - 256) / 4
  m.clk = a.clk ∧ (t.mode = 1 → fs = [])
  ∧ ∃ b, SameBut [.mem] a b
    ∧ tgGet b k = { t with
        running := false, isDone := true, isDoneAt := instant a, errs := errs,
        first := (if h : 0 < fs.length then BitVec.ofNat 35 fs[0].1 else 0), bits := fs.foldl (fun b f => b ||| f.2) 0,
        passesDone := BitVec.ofNat 16 (if passSteps k t = 0 then testPasses t else steps / passSteps k t) }
    ∧ (t.mode = 2 → b.mem.hall = a.mem.hall ∧ b.mem.fast = a.mem.fast ∧ b.mem.slow = a.mem.slow)
    ∧ m = (if errs = 0 then ev cls 4 unit 0 31 0 (BitVec.ofNat 64 (if k < 256 then k % 32 else (k - 256) % 4)) b
        else ev cls 5 unit 2 31 0 errs b)

/-- The event class and the unit of a channel's memory (R383). -/
theorem chEvent (k : Nat) : tierEvCls (chTier k) = (if k < 256 then 0x0C else 0x0D)
    ∧ (chUnit k).2 = if k < 256 then k else (k - 256) / 4 := by
  unfold chTier chUnit
  split <;> exact ⟨rfl, rfl⟩

theorem testFails_of_writeOnly {t : Tg} (h : t.mode = 1) (k steps : Nat) (m : Module) : testFails k t steps m = [] := if_pos h

theorem testWrites_of_readOnly {t : Tg} (h : t.mode = 2) (k steps : Nat) (m : Module) : testWrites k t steps m = m := if_pos h

theorem eff_testOver (k : Nat) (t : Tg) (steps : Nat) (m : Module) : Eff [.mem] m (testOver k t steps m) :=
  (eff_tgSet ..).trans ((eff_testWrites_mem ..).trans (eff_tgSet ..))

theorem tgGet_testOver (hi : m.Inv) (k : Nat) (t : Tg) (steps : Nat) : tgGet (testOver k t steps m) k = endedTg k t steps m :=
  tgGet_tgSet (((eff_tgSet ..).trans (eff_testWrites_mem ..)).keeps.inv hi) ..

theorem testEnd_ended (hi : m.Inv) (k steps : Nat) : TestEnded k (tgGet m k) m steps (testEnd k steps m) := by
  obtain ⟨hcls, hunit⟩ := chEvent k
  have he := testEnd_records hi k steps
  refine ⟨?_, fun h => testFails_of_writeOnly h .., testOver k (tgGet m k) steps m, (eff_testOver ..).same, ?_, fun h => ?_, ?_⟩
  · rw [he]
    have ho := (eff_testOver k (tgGet m k) steps m).same .clk (by decide)
    split <;> exact ((eff_ev ..).same .clk (by decide)).trans ho
  · exact (tgGet_testOver hi ..).trans (endedTg_eq ..)
  · rw [testOver, testWrites_of_readOnly h]
    exact ⟨rfl, rfl, rfl⟩
  · rw [← hcls, ← hunit]
    exact he

/-- CHANNEL_TEST_END lets the test take its last step, in which time its set stays as it is. -/
theorem channelTestEnd_ends {ch : MemCh} (hi : s.m.Inv) (hr : (tgGet s.m (chKey ch)).running = true) : let t := tgGet s.m (chKey ch)
    Completes (.channelTestEnd ch) s (TestEnded (chKey ch) t (passTo (testDue (chKey ch) t) s.m) (testSteps (chKey ch) t)) := by
  intro t
  have ht : tgGet (passTo (testDue (chKey ch) t) s.m) (chKey ch) = t := tgGet_of_sets (sameSets_passTo ..) _
  have h := testEnd_ended ((eff_passTo (testDue (chKey ch) t) s.m).keeps.inv hi) (chKey ch) (testSteps (chKey ch) t)
  rw [ht] at h
  exact ⟨_, if_pos hr, h⟩

/-- STOP ends a running test after the sector in progress. -/
theorem testStop_ends {ch : MemCh} (hi : s.m.Inv) (hr : (tgGet s.m (chKey ch)).running = true) : let t := tgGet s.m (chKey ch)
    Completes (.testStop ch) s (TestEnded (chKey ch) t s.m (min (testSteps (chKey ch) t) (testProgress (chKey ch) t s.m + 1))) :=
  ⟨_, congrArg (done s) (if_pos hr), testEnd_ended hi ..⟩

theorem testStop_idle {ch : MemCh} (hr : (tgGet s.m (chKey ch)).running = false) : Does (.testStop ch) s s.m :=
  congrArg (done s) (if_neg (by simp [hr]))

/-! #### Aged requests (R353) -/

theorem hallRequestAged_counts (hi : s.m.Inv) (bank : Fin 512) (req : HallReq) (i waited : Nat) : let h := s.m.hallW' (bank.val / 256)
    Completes (.hallRequestAged bank req i waited) s fun m =>
      m.hallW' (bank.val / 256) = { h with
        conflict := if hallStalled req then h.conflict else h.conflict + BitVec.ofNat 64 (max 64 waited), aged := h.aged + 1 }
      ∧ SameBut [.mem] s.m m := by
  intro h
  refine completes_of_done rfl ⟨?_, ((Eff.ite (.refl _) (eff_hallLost ..)).trans (eff_setHallW ..)).same⟩
  split
  · exact hallW'_setHallW hi ..
  · rw [hallW'_setHallW ((eff_hallLost ..).keeps.inv hi), hallLost, hallW'_setHallW hi]

end Sys2Proof.Scope

section
open Sys2Proof Sys2Proof.Machine Sys2Proof.Scope

/-- Settles O22, by the branches of START: what it sets where it begins a test, and what it leaves in the others. -/
theorem channelTestsStartOutOfService : Obligations.ChannelTestsStartOutOfService := by
  intro s ch fails hi k t oos reserved
  refine ⟨fun hr => ?_, fun hr ho hx => ?_, fun hr ho hx => ?_, fun hr ho => ?_⟩
  · exact congrArg (done s) (testStart_running fails hr)
  · exact congrArg (done s) (testStart_reserved fails hr ho hx)
  · obtain ⟨hk, hj⟩ := tgGet_testBegun hi k fails
    exact ⟨_, congrArg (done s) (testStart_starts fails hr ho hx), hk, hj, sameBut_testBegun k fails s.m⟩
  · exact congrArg (done s) (testStart_refused fails hr ho)

/-- Settles O23, by what the end of a test leaves, with its set standing while time passes to its last step, and by what an aged request
counts; the clears write what they name. -/
theorem channelTestsAndMemoryCounters : Obligations.ChannelTestsAndMemoryCounters :=
  ⟨fun _ _ hi => ⟨fun hr => ⟨channelTestEnd_ends hi hr, testStop_ends hi hr⟩, testStop_idle⟩,
    fun _ => ⟨fun bank req i waited hi => hallRequestAged_counts hi bank req i waited, fun _ => rfl, fun _ => rfl, fun _ => rfl⟩⟩

end

/-! ### Cache commands (O21) -/

namespace Sys2Proof.Scope
open Sys2Proof.Machine Sys2Proof.Laws

/-! #### A fold that establishes a fact -/

/-- A fold over a list that holds `x` establishes what `x` establishes and every element of the list keeps, where `I` holds throughout. -/
theorem foldl_establishes {α β : Type} {I P : β → Prop} {g : β → α → β} {r : List α} {x : α} (hx : x ∈ r)
    (hI : ∀ b, ∀ y ∈ r, I b → I (g b y)) (he : ∀ b, I b → P (g b x))
    (hk : ∀ b, ∀ y ∈ r, I b → P b → P (g b y)) {b : β} (hb : I b) : P (r.foldl g b) := by
  obtain ⟨u, v, rfl⟩ := List.append_of_mem hx
  rw [List.foldl_append, List.foldl_cons]
  have hu : I (u.foldl g b) := List.foldlRecOn (motive := I) u g hb fun c hc y hy => hI c y (by simp [hy]) hc
  have hv : I (v.foldl g (g (u.foldl g b) x)) ∧ P (v.foldl g (g (u.foldl g b) x)) :=
    List.foldlRecOn (motive := fun c => I c ∧ P c) v g ⟨hI _ x hx hu, he _ hu⟩ fun c hc y hy =>
      ⟨hI c y (by simp [hy]) hc.1, hk c y (by simp [hy]) hc.1 hc.2⟩
  exact hv.2

variable {s : State} {a m : Module} {p : Nat}

/-! #### Sectors -/

/-- The bytes of a sector of a tier. -/
def sectorData (q : Nat × Nat) (m : Module) : List Byte := (tierMem m.mem q.1).getN (slotSize q.1) q.1 (q.2 * 32) 32

theorem sectorData_storeSector_self (hi : m.Inv) {bs : List Byte} (hl : bs.length = 32) (p tier off phys : Nat) (poisoned : Bool) :
    sectorData (tier, phys / 32) (storeSector p tier off phys bs poisoned m) = bs := by
  have h := getN_putN_self (tier := tier) (a := phys / 32 * 32) (l := bs) (wf_tierMem hi tier)
  rw [hl] at h
  rw [sectorData, tierMem_storeSector]
  exact h

/-- A sector store leaves every other sector. -/
theorem sectorData_storeSector_of_ne {q : Nat × Nat} {tier phys : Nat} {bs : List Byte} (hq : q ≠ (tier, phys / 32)) (hq3 : q.1 < 3)
    (ht : tier < 3) (hl : bs.length = 32) (p off : Nat) (poisoned : Bool) (m : Module) :
    sectorData q (storeSector p tier off phys bs poisoned m) = sectorData q m := by
  obtain ⟨i, n⟩ := q
  by_cases h : i = tier
  · subst h
    have hn : n ≠ phys / 32 := fun e => hq (by rw [e])
    rw [sectorData, tierMem_storeSector]
    exact getN_putN_of_apart (by omega)
  · rw [sectorData, tierMem_storeSector_of_ne h hq3 ht, sectorData]

theorem sectorData_of_tiers {b : Module} (h : SameAt tiersAt a b) (q : Nat × Nat) : sectorData q b = sectorData q a := by
  rw [sectorData, tierMem_of_tiers h, sectorData]

/-! #### A line is written back (R363) -/

/-- The tier and the sector in which a partition's line keeps its sector `i`: it depends on the structure in force alone (R350). -/
def lineSector (m : Module) (p : Nat) (l : CacheLine) (i : Nat) : Nat × Nat := (l.tier, place m p l.tier (l.addr * 256 + i * 32) / 32)

theorem place_of_img {b : Module} (h : b.img = a.img) (p tier off : Nat) : place b p tier off = place a p tier off := by
  unfold place
  rw [h]

theorem lineSector_of_img {b : Module} (h : b.img = a.img) (p : Nat) (l : CacheLine) (i : Nat) : lineSector b p l i = lineSector a p l i := by
  rw [lineSector, place_of_img h, lineSector]

/-- One sector of a line goes to memory where it is dirty. -/
def sectorBack (p : Nat) (l : CacheLine) (x : Nat × Module) (i : Nat) : Nat × Module :=
  if bit l.dirty i then
    let off := l.addr * 256 + i * 32
    let ph := place x.2 p l.tier off
    let m := hallAccess (ctlWing l.tier ph) (cacheWing x.2 p) 32 false (countWrite 2 l.tier ph 32 x.2)
    (x.1 + 1, storeSector p l.tier off ph (slice l.data (i * 32) 32) (bit l.bad i) m)
  else x

theorem writeBack_eq (p : Nat) (l : CacheLine) (m : Module) : writeBack p l m = (List.range 8).foldl (sectorBack p l) (0, m) := rfl

/-- Before a sector goes to memory its access is counted, in which the contents and the canonical form stand. -/
theorem sectorBack_dirty {l : CacheLine} {i : Nat} (hd : bit l.dirty i = true) (x : Nat × Module) : ∃ b, Eff [.mem, .cor] x.2 b
    ∧ SameAt tiersAt x.2 b ∧ SameAt setsAt x.2 b ∧ (sectorBack p l x i).2 =
      storeSector p l.tier (l.addr * 256 + i * 32) (place x.2 p l.tier (l.addr * 256 + i * 32)) (slice l.data (i * 32) 32) (bit l.bad i) b := by
  rw [sectorBack, if_pos hd]
  obtain ⟨hw, hw'⟩ := counted_countWrite 2 l.tier (place x.2 p l.tier (l.addr * 256 + i * 32)) 32 x.2
  exact ⟨_, (eff_countWrite ..).trans (eff_hallAccess ..), hw.trans (counted_hallAccess ..).1, hw'.trans (counted_hallAccess ..).2, rfl⟩

theorem sectorBack_clean {l : CacheLine} {i : Nat} (hd : ¬ bit l.dirty i = true) (x : Nat × Module) : sectorBack p l x i = x := if_neg hd

theorem eff_sectorBack (p : Nat) (l : CacheLine) (x : Nat × Module) (i : Nat) : Eff [.mem, .cor] x.2 (sectorBack p l x i).2 := by
  by_cases hd : bit l.dirty i = true
  · obtain ⟨b, he, -, -, h⟩ := sectorBack_dirty (p := p) hd x
    rw [h]
    exact he.trans ((eff_storeSector ..).mono rfl)
  · rw [sectorBack_clean hd]
    exact .refl _

theorem sameSets_sectorBack (p : Nat) (l : CacheLine) (x : Nat × Module) (i : Nat) : SameAt setsAt x.2 (sectorBack p l x i).2 := by
  by_cases hd : bit l.dirty i = true
  · obtain ⟨b, -, -, hs, h⟩ := sectorBack_dirty (p := p) hd x
    rw [h]
    exact hs.trans (sameSets_storeSector ..)
  · rw [sectorBack_clean hd]
    exact .refl _

theorem length_slice (l : List Byte) (off n : Nat) : (slice l off n).length = n := by
  simp only [slice, List.length_append, List.length_take, List.length_replicate]
  omega

theorem sectorData_sectorBack_self {l : CacheLine} {i : Nat} (hd : bit l.dirty i = true) {x : Nat × Module} (hi : x.2.Inv) :
    sectorData (lineSector x.2 p l i) (sectorBack p l x i).2 = slice l.data (i * 32) 32 := by
  obtain ⟨b, he, -, -, h⟩ := sectorBack_dirty (p := p) hd x
  rw [h]
  exact sectorData_storeSector_self (he.keeps.inv hi) (length_slice ..) ..

theorem sectorData_sectorBack_of_ne {l : CacheLine} {i : Nat} {q : Nat × Nat} {x : Nat × Module} (hq : q ≠ lineSector x.2 p l i) (hq3 : q.1 < 3)
    (ht : l.tier < 3) : sectorData q (sectorBack p l x i).2 = sectorData q x.2 := by
  by_cases hd : bit l.dirty i = true
  · obtain ⟨b, -, hs, -, h⟩ := sectorBack_dirty (p := p) hd x
    rw [h, sectorData_storeSector_of_ne hq hq3 ht (length_slice ..), sectorData_of_tiers hs]
  · rw [sectorBack_clean hd]

/-- The state is canonical, and the structure in force is that of `a`. -/
structure Under (a m : Module) : Prop where
  inv : m.Inv
  img : m.img = a.img

theorem Under.of_eff {b : Module} {l : List Part} (h : Under a m) (he : Eff l m b) (hl : Part.img ∉ l := by decide) : Under a b :=
  ⟨he.keeps.inv h.inv, (he.same .img hl).trans h.img⟩

theorem under_sectorBack (l : CacheLine) (i : Nat) {x : Nat × Module} (h : Under a x.2) : Under a (sectorBack p l x i).2 :=
  h.of_eff (eff_sectorBack ..)

theorem sectorData_foldl_sectorBack_of_ne {l : CacheLine} {q : Nat × Nat} {r : List Nat} (hq : ∀ i ∈ r, q ≠ lineSector a p l i) (hq3 : q.1 < 3)
    (ht : l.tier < 3) {x : Nat × Module} (h : Under a x.2) : sectorData q (r.foldl (sectorBack p l) x).2 = sectorData q x.2 := by
  induction r generalizing x with
  | nil => rfl
  | cons i r ih =>
    have hi : q ≠ lineSector x.2 p l i := by
      rw [lineSector_of_img h.img]
      exact hq i (by simp)
    exact (ih (fun j hj => hq j (by simp [hj])) (under_sectorBack l i h)).trans (sectorData_sectorBack_of_ne hi hq3 ht)

theorem sectorData_foldl_sectorBack_self {l : CacheLine} {i : Nat} {r : List Nat} (hi : i ∈ r) (hd : bit l.dirty i = true) (ht : l.tier < 3)
    (hs : ∀ j ∈ r, lineSector a p l i = lineSector a p l j → i = j) {x : Nat × Module} (h : Under a x.2) :
    sectorData (lineSector a p l i) (r.foldl (sectorBack p l) x).2 = slice l.data (i * 32) 32 := by
  have he : ∀ y : Nat × Module, Under a y.2 → sectorData (lineSector a p l i) (sectorBack p l y i).2 = slice l.data (i * 32) 32 :=
    fun y hy => by
      rw [← lineSector_of_img hy.img]
      exact sectorData_sectorBack_self hd hy.inv
  refine foldl_establishes (I := fun y : Nat × Module => Under a y.2)
    (P := fun y => sectorData (lineSector a p l i) y.2 = slice l.data (i * 32) 32) hi (fun y j _ => under_sectorBack l j) he
    (fun y j hj hy hv => ?_) h
  by_cases hij : i = j
  · exact hij ▸ he y hy
  · refine (sectorData_sectorBack_of_ne (fun e => hij (hs j hj ?_)) ht ht).trans hv
    rwa [lineSector_of_img hy.img] at e

/-- A line that is written back leaves the sectors in which it keeps none of its own. -/
theorem sectorData_writeBack_of_ne {l : CacheLine} {q : Nat × Nat} (h : Under a m) (hq : ∀ i, i < 8 → q ≠ lineSector a p l i) (hq3 : q.1 < 3)
    (ht : l.tier < 3) : sectorData q (writeBack p l m).2 = sectorData q m := by
  rw [writeBack_eq]
  exact sectorData_foldl_sectorBack_of_ne (fun i hi => hq i (List.mem_range.1 hi)) hq3 ht h

/-- A line whose sectors lie apart has each dirty one in memory once it is written back. -/
theorem sectorData_writeBack_self {l : CacheLine} {i : Nat} (h : Under a m) (hi : i < 8) (hd : bit l.dirty i = true) (ht : l.tier < 3)
    (hs : ∀ j, j < 8 → lineSector a p l i = lineSector a p l j → i = j) :
    sectorData (lineSector a p l i) (writeBack p l m).2 = slice l.data (i * 32) 32 := by
  rw [writeBack_eq]
  exact sectorData_foldl_sectorBack_self (List.mem_range.2 hi) hd ht (fun j hj => hs j (List.mem_range.1 hj)) h

theorem sameSets_writeBack (p : Nat) (l : CacheLine) (m : Module) : SameAt setsAt m (writeBack p l m).2 := by
  rw [writeBack_eq]
  exact foldl_keeps (f := fun x : Nat × Module => setsAt x.2) (fun x i _ => sameSets_sectorBack p l x i) (0, m)

/-! #### A line is cleaned -/

theorem cleanLine_eq (p key : Nat) (l : CacheLine) (m : Module) : cleanLine p key l m =
    let x := writeBack p l m
    let c := x.2.cache p
    x.2.setCache p { c with wb := c.wb + BitVec.ofNat 64 x.1, lines := nput c.lines key { l with dirty := 0 } } := by
  unfold cleanLine
  generalize writeBack p l m = x
  rfl

theorem cleanLine_cache (hi : m.Inv) (key : Nat) (l : CacheLine) : (cleanLine p key l m).cache p = { m.cache p with
    wb := (m.cache p).wb + BitVec.ofNat 64 (writeBack p l m).1, lines := nput (m.cache p).lines key { l with dirty := 0 } } := by
  have h : (writeBack p l m).2.cache p = m.cache p := cache_of_sets (sameSets_writeBack ..) p
  rw [cleanLine_eq, cache_setCache ((eff_writeBack ..).keeps.inv hi), h]

theorem sectorData_cleanLine (q : Nat × Nat) (key : Nat) (l : CacheLine) (m : Module) :
    sectorData q (cleanLine p key l m) = sectorData q (writeBack p l m).2 := by
  rw [cleanLine_eq]
  exact sectorData_of_tiers rfl q

/-- A line that is dirty is cleaned. -/
def cleanDirty (p : Nat) (m : Module) (x : Nat × CacheLine) : Module := if x.2.dirty ≠ 0 then cleanLine p x.1 x.2 m else m

/-- The lines of a cache, each dirty one of a list clean. -/
def cleanedLines (r : List (Nat × CacheLine)) (lines : NMap CacheLine) : NMap CacheLine :=
  r.foldl (fun l x => if x.2.dirty ≠ 0 then nput l x.1 { x.2 with dirty := 0 } else l) lines

theorem flushCache_eq (p : Nat) (m : Module) : flushCache p (fun _ => true) m = (m.cache p).lines.foldl (cleanDirty p) m := by
  unfold flushCache cleanDirty
  simp

theorem eff_cleanDirty (p : Nat) (m : Module) (x : Nat × CacheLine) : Eff [.mem, .cor] m (cleanDirty p m x) :=
  .ite (eff_cleanLine ..) (.refl m)

/-- What a flush leaves of the cache itself: every line clean, and neither BUSY nor the ignored count changed. -/
theorem cache_foldl_cleanDirty (hi : m.Inv) (r : List (Nat × CacheLine)) : let c := (r.foldl (cleanDirty p) m).cache p
    c.lines = cleanedLines r (m.cache p).lines ∧ c.busy = (m.cache p).busy ∧ c.ign = (m.cache p).ign := by
  induction r generalizing m with
  | nil => exact ⟨rfl, rfl, rfl⟩
  | cons x r ih =>
    obtain ⟨hl, hb, hg⟩ := ih ((eff_cleanDirty p m x).keeps.inv hi)
    have hc := cleanLine_cache (p := p) hi x.1 x.2
    rw [List.foldl_cons, cleanedLines, List.foldl_cons]
    refine ⟨hl.trans ?_, hb.trans ?_, hg.trans ?_⟩
    all_goals
      unfold cleanDirty
      split
    · rw [hc]
      rfl
    · rfl
    · rw [hc]
    · rfl
    · rw [hc]
    · rfl

/-! #### A flush (R364) -/

/-- No two lines of a list hold the same sector, and each is a line of a tier (the statement's own words). -/
def Apart (a : Module) (p : Nat) (lines : List (Nat × CacheLine)) : Prop :=
  (∀ x ∈ lines, x.2.tier < 3 ∧ x.2.data.length = 256)
  ∧ ∀ x ∈ lines, ∀ y ∈ lines, ∀ i j, i < 8 → j < 8 → lineSector a p x.2 i = lineSector a p y.2 j → x = y ∧ i = j

/-- Every dirty sector of a list of lines stands in memory. -/
def Written (a : Module) (p : Nat) (lines : List (Nat × CacheLine)) (m : Module) : Prop :=
  ∀ x ∈ lines, ∀ i, i < 8 → bit x.2.dirty i = true → sectorData (lineSector a p x.2 i) m = slice x.2.data (i * 32) 32

theorem dirty_ne_zero {x : CacheLine} {i : Nat} (h : bit x.dirty i = true) : x.dirty ≠ 0 := fun e => by
  simp [bit, e] at h

/-- The flush of lines that lie apart leaves every dirty sector in memory: its own line writes it, and no other line touches it. -/
theorem written_foldl_cleanDirty {lines : List (Nat × CacheLine)} (hi : m.Inv) (ha : Apart m p lines) :
    Written m p lines (lines.foldl (cleanDirty p) m) := by
  obtain ⟨ht, hs⟩ := ha
  intro x hx i h8 hd
  obtain ⟨htx, -⟩ := ht x hx
  have he : ∀ b, Under m b → sectorData (lineSector m p x.2 i) (cleanDirty p b x) = slice x.2.data (i * 32) 32 := fun b hb => by
    rw [cleanDirty, if_pos (dirty_ne_zero hd), sectorData_cleanLine]
    exact sectorData_writeBack_self hb h8 hd htx fun j hj e => (hs x hx x hx i j h8 hj e).2
  refine foldl_establishes (I := Under m) (P := fun b => sectorData (lineSector m p x.2 i) b = slice x.2.data (i * 32) 32) hx
    (fun b y _ hb => hb.of_eff (eff_cleanDirty p b y)) he (fun b y hy hb hv => ?_) ⟨hi, rfl⟩
  by_cases hxy : x = y
  · exact hxy ▸ he b hb
  · obtain ⟨hty, -⟩ := ht y hy
    have hk : sectorData (lineSector m p x.2 i) (cleanDirty p b y) = sectorData (lineSector m p x.2 i) b := by
      unfold cleanDirty
      split
      · exact sectorData_writeBack_of_ne hb (fun j hj e => hxy (hs x hx y hy i j h8 hj e).1) htx hty
      · rfl
    exact hk.trans hv

/-! #### The commands -/

/-- What FLUSH and INVALIDATE leave while they run. -/
structure Flushing (p : Nat) (inv : Bool) (a m : Module) : Prop where
  lines : (m.cache p).lines = cleanedLines (a.cache p).lines (a.cache p).lines
  busy : (m.cache p).busy = some inv
  ign : (m.cache p).ign = (a.cache p).ign
  written : Apart a p (a.cache p).lines → Written a p (a.cache p).lines m
  same : SameBut [.mem, .cor] a m

theorem cacheCommand_flushes (hi : m.Inv) (hb : (m.cache p).busy = none) (hc : cacheSets m p ≠ 0) (inv : Bool) :
    Flushing p inv m (cacheCommand p inv m) := by
  have he : cacheCommand p inv m =
      let b := (m.cache p).lines.foldl (cleanDirty p) m
      b.setCache p { b.cache p with busy := some inv } := by
    rw [← flushCache_eq]
    simp [cacheCommand, hb, hc]
  have hf : Eff [.mem, .cor] m ((m.cache p).lines.foldl (cleanDirty p) m) := .fold (.refl m) (eff_cleanDirty p)
  have hg : (cacheCommand p inv m).cache p = _ := he ▸ cache_setCache (hf.keeps.inv hi) p _
  obtain ⟨hl, -, hn⟩ := cache_foldl_cleanDirty (p := p) hi (m.cache p).lines
  exact ⟨by rw [hg]; exact hl, by rw [hg], by rw [hg]; exact hn, fun ha => he ▸ written_foldl_cleanDirty hi ha,
    (eff_cacheCommand ..).same⟩

theorem cacheCommand_uncached (hb : (m.cache p).busy = none) (hc : cacheSets m p = 0) (inv : Bool) : cacheCommand p inv m = m := by
  simp [cacheCommand, hb, hc]

/-- A second command while BUSY is set is ignored and counted. -/
theorem cacheCommand_busy (hb : (m.cache p).busy ≠ none) (inv : Bool) :
    cacheCommand p inv m = m.setCache p { m.cache p with ign := (m.cache p).ign + 1 } :=
  if_pos (Option.isSome_iff_ne_none.2 hb)

/-- The end of a FLUSH clears BUSY and nothing else. -/
theorem cacheCommandDone_flush {p : Fin 16} (hb : (s.m.cache p).busy = some false) :
    Does (.cacheCommandDone p) s (s.m.setCache p { s.m.cache p with busy := none }) := by
  show execCacheCommandDone p s = _
  rw [execCacheCommandDone, hb]
  rfl

/-- The end of an INVALIDATE leaves no line. -/
theorem cacheCommandDone_invalidate {p : Fin 16} (hi : s.m.Inv) (hb : (s.m.cache p).busy = some true) :
    Completes (.cacheCommandDone p) s fun m =>
      (m.cache p).lines = [] ∧ (m.cache p).busy = none ∧ SameBut [.mem, .flt, .cor] s.m m := by
  have he : exec (.cacheCommandDone p) s = .next { s with m := cacheDone p true s.m } := by
    show execCacheCommandDone p s = _
    rw [execCacheCommandDone, hb]
    rfl
  have h1 : (flushCache p (fun _ => true) s.m).Inv := (eff_flushCache ..).keeps.inv hi
  have h2 : (invalidateCache p (flushCache p (fun _ => true) s.m)).Inv := (eff_invalidateCache ..).keeps.inv h1
  have hl : ((invalidateCache p (flushCache p (fun _ => true) s.m)).cache p).lines = [] := by
    unfold invalidateCache
    extract_lets b c
    have hw : Eff [.flt] (flushCache p (fun _ => true) s.m) b := .fold (.refl _) fun m x => eff_wasteMarks x.2 m
    rw [cache_setCache (hw.keeps.inv h1)]
  have hd : (cacheDone p true s.m).cache p = _ := cache_setCache h2 p _
  exact ⟨_, he, by rw [hd]; exact hl, by rw [hd], (eff_cacheDone ..).same⟩

end Sys2Proof.Scope

section
open Sys2Proof Sys2Proof.Machine Sys2Proof.Scope

/-- Settles O21, by what a flush leaves of the cache and of the memory, and by what the end of a command leaves. -/
theorem cacheCommandsCleanAndInvalidate : Obligations.CacheCommandsCleanAndInvalidate := by
  refine ⟨fun s p errs hi => ?_, fun s p hi => ⟨cacheCommandDone_flush, cacheCommandDone_invalidate hi⟩⟩
  intro m1 c cleaned spot apart written
  have h1 : m1.Inv := (Laws.eff_memErrs ..).keeps.inv hi
  refine ⟨fun hb hc => ?_, fun hb hc => ?_, fun hb => ?_⟩
  · have hf := cacheCommand_flushes h1 hb hc
    exact ⟨⟨_, rfl, (hf false).lines, (hf false).busy, (hf false).ign, (hf false).written, (hf false).same⟩,
      ⟨_, rfl, (hf true).lines, (hf true).busy, (hf true).ign, (hf true).written, (hf true).same⟩⟩
  · have hn := cacheCommand_uncached hb hc
    exact ⟨congrArg (done s) (hn false), congrArg (done s) (hn true)⟩
  · have hn := cacheCommand_busy hb
    exact ⟨congrArg (done s) (hn false), congrArg (done s) (hn true)⟩

end

/-! ### MOVE, GATHER, PREFETCH and PUT (O24) -/

namespace Sys2Proof.Scope
open Sys2Proof.Machine Sys2Proof.Laws

variable {s : State} {a b m : Module} {l : List Part} {k : QKey} {d : Desc} {f : Nat}

/-! #### The canonical maps, and what a completion leaves -/

theorem rising_flt (h : m.Inv) : rising m.flt = true := by
  have hc := h.1
  simp only [Module.canonical, Bool.and_eq_true] at hc
  simp [hc]

theorem rising_vst (h : m.Inv) : rising m.vst = true := by
  have hc := h.1
  simp only [Module.canonical, Bool.and_eq_true] at hc
  simp [hc]

theorem flt'_of_eff (h : Eff l a b) (hl : Part.flt ∉ l := by decide) : b.flt' f = a.flt' f :=
  congrArg (nget Flt.init · f) (h.same .flt hl)

/-- An outcome that leaves `P` leaves what follows from it. -/
theorem Ends.imp {P Q : Module → Prop} {o : Out} (h : Ends s P o) (hp : ∀ m, P m → Q m) : Ends s Q o := by
  obtain ⟨m, ho, hm⟩ := h
  exact ⟨m, ho, hp m hm⟩

theorem complete_vst (cls idx : Nat) (d : Desc) (err : Bool) (m : Module) : (complete cls idx d err m).vst = m.vst := by
  unfold complete
  extract_lets k g m1 m2
  rw [traceEv_vst]
  exact (eff_progress ..).same .vst (by decide)

/-! #### A descriptor's turn (R392, R410) -/

theorem fltHead_ty {ty : Nat} (h : fltHead m f ty = some (k, d)) : d.ty.toNat = ty := by
  unfold fltHead at h
  dsimp only at h
  split at h
  · split at h
    · split at h
      next hd =>
        simp only [Option.some.injEq, Prod.mk.injEq] at h
        simp only [Bool.and_eq_true, decide_eq_true_eq] at hd
        obtain ⟨-, rfl⟩ := h
        exact hd.1
      · cases h
    · cases h
  · cases h

theorem isPut_of_head {ty : Nat} (h : fltHead m f ty = some (k, d)) : isPut d = decide (ty = 0x63) := by
  have ht : ty = d.ty.toNat := (fltHead_ty h).symm
  rw [isPut, ht]
  exact decide_eq_decide.2 BitVec.toNat_inj.symm

theorem putRefusal_dequeue (k : QKey) (m : Module) (d : Desc) : putRefusal (dequeue k m) d = putRefusal m d := rfl

/-- A Flight descriptor with nothing issued. -/
def freshOp (d : Desc) (total notify : Nat) : FltOp :=
  { desc := d, next := 0, total := total, entry := 0, run := none, inEntry := 0, linOff := 0, issuedAll := false, notify := notify,
    err := 0, bursts := [], atoms := [] }

/-- What the start of a descriptor leaves. -/
structure FltStarts (f : Nat) (k : QKey) (o : FltOp) (a b : Module) : Prop where
  queue : queue b k = (queue a k).tail
  clk : b.clk = a.clk
  flt : b.flt' f = { a.flt' f with ops := (a.flt' f).ops ++ [o], lastProgress := a.clk.elapsed }

/-- What the refusal of a descriptor at the head of its queue leaves. -/
structure FltRefused (f : Nat) (k : QKey) (d : Desc) (a b : Module) : Prop where
  queue : queue b k = (queue a k).tail
  clk : b.clk = a.clk
  mem : b.mem = a.mem
  flt : b.flt' f = { a.flt' f with refused := (a.flt' f).refused + 1, errors := (a.flt' f).errors + 1 }
  count : count b d.part d.ctx 6 f = count a d.part d.ctx 6 f + 1

theorem fltRefuse_refused (hi : m.Inv) (f code : Nat) (k : QKey) (d : Desc) : FltRefused f k d m (fltRefuse f code d (dequeue k m)) := by
  have hd : Eff [.queues] m (dequeue k m) := eff_dequeue ..
  obtain ⟨hq, hm, hc, hn⟩ := bodyRefused_ends (d := d) (k := k) (m := m)
    (eff_setFlt (dequeue k m) f { m.flt' f with refused := (m.flt' f).refused + 1, errors := (m.flt' f).errors + 1 }) (by decide) 6 f code
  refine ⟨hq, hc, hm, ?_, hn⟩
  exact (flt'_of_eff (eff_bodyRefused ..)).trans (setFlt_get _ f _ (rising_flt (hd.keeps.inv hi)))

section
variable {row : String} {f : Fin 32} {ty : Nat} {refusal : Module → Desc → Option Nat} {total : Desc → Nat}

theorem fltStart_starts (hi : s.m.Inv) (hh : fltHead s.m f ty = some (k, d)) (hr : refusal (dequeue k s.m) d = none) :
    Ends s (FltStarts f k (freshOp d (total d) (if ty = 0x63 && d.fl 3 then 1 else 0)) s.m) (fltStart row f ty refusal total s) := by
  unfold fltStart
  simp -zeta only [hh]
  extract_lets m0 m1 x o
  simp -zeta only [show refusal m0 d = none from hr]
  have h0 : Eff [.queues] s.m m0 := eff_dequeue ..
  have h1 : Eff evParts m0 m1 := eff_descStart ..
  have h2 := eff_setFlt m1 f { x with ops := x.ops ++ [o], lastProgress := m1.clk.elapsed }
  have hx : x = s.m.flt' f := (flt'_of_eff h1).trans (flt'_of_eff h0)
  have hc : m1.clk = s.m.clk := (h1.same .clk (by decide)).trans (h0.same .clk (by decide))
  have ho : o = freshOp d (total d) (if ty = 0x63 && d.fl 3 then 1 else 0) := by
    simp only [o, freshOp, isPut_of_head hh]
  refine ends_done ⟨?_, hc, ?_⟩
  · rw [queue_of_eff h2, queue_of_eff h1, queue_dequeue]
  · rw [setFlt_get m1 f _ (rising_flt ((h0.keeps.trans h1.keeps).inv hi)), hx, hc, ho]

theorem fltStart_refuses (hi : s.m.Inv) (hh : fltHead s.m f ty = some (k, d)) (hr : refusal (dequeue k s.m) d ≠ none) :
    Ends s (FltRefused f k d s.m) (fltStart row f ty refusal total s) := by
  obtain ⟨c, hc⟩ := Option.ne_none_iff_exists'.1 hr
  have he : fltStart row f ty refusal total s = done s (fltRefuse f c d (dequeue k s.m)) := by
    unfold fltStart
    simp only [hh, hc]
  exact he ▸ ends_done (fltRefuse_refused hi ..)

end

/-! #### PUT in a SOLO replay (R531) -/

/-- What a PUT that is not sent leaves. -/
structure PutSuppressed (f : Nat) (k : QKey) (d : Desc) (a b : Module) : Prop where
  queue : queue b k = (queue a k).tail
  flt : b.flt = a.flt
  port : b.port = a.port
  putsSupp : (b.vst' d.part).putsSupp = (a.vst' d.part).putsSupp + 1
  count : count b d.part d.ctx 6 f = count a d.part d.ctx 6 f + 1

theorem putSuppressed_suppresses (hi : m.Inv) (f : Nat) (k : QKey) (d : Desc) : PutSuppressed f k d m (putSuppressed f k d m) := by
  have he := eff_putSuppressed f k d m
  unfold putSuppressed
  extract_lets m1 v
  have h0 : Eff [.queues] m (dequeue k m) := eff_dequeue ..
  have h1 : Eff evParts (dequeue k m) m1 := eff_descStart ..
  have h2 := eff_setVst m1 d.part { v with putsSupp := v.putsSupp + 1 }
  have hc := eff_complete 6 f d false (m1.setVst d.part { v with putsSupp := v.putsSupp + 1 })
  have hv : m1.vst = m.vst := traceEv_vst ..
  refine ⟨?_, he.same .flt (by decide), he.same .port (by decide), ?_, ?_⟩
  · rw [queue_of_eff hc, queue_of_eff h2, queue_of_eff h1, queue_dequeue]
  · rw [Module.vst', complete_vst, ← Module.vst', setVst_get m1 _ _ (rising_vst ((h0.keeps.trans h1.keeps).inv hi))]
    show (nget Vst.init m1.vst d.part).putsSupp + 1 = _
    rw [hv]
    rfl
  · rw [count_complete, count_of_eff h2, count_of_eff h1, count_of_eff h0]

/-- A PUT of a partition in no SOLO replay, and one that is refused, start or are refused as the others. -/
theorem execPut_starts {f : Fin 32} (hh : fltHead s.m f 0x63 = some (k, d)) (h : soloSlot s.m d.part = none ∨ putRefusal s.m d ≠ none) :
    execPut f s = fltStart "PUT" f 0x63 putRefusal puLen s := by
  unfold execPut
  simp only [hh]
  refine if_neg fun hc => ?_
  simp only [Bool.and_eq_true, Option.isSome_iff_ne_none, Option.isNone_iff_eq_none] at hc
  exact h.elim hc.1 (fun hr => hr hc.2)

theorem execPut_suppressed {f : Fin 32} (hh : fltHead s.m f 0x63 = some (k, d)) (hs : soloSlot s.m d.part ≠ none)
    (hr : putRefusal s.m d = none) : execPut f s = done s (putSuppressed f k d s.m) := by
  unfold execPut
  simp only [hh]
  exact if_pos (by simp [hr, Option.isSome_iff_ne_none.2 hs])

end Sys2Proof.Scope

section
open Sys2Proof Sys2Proof.Machine Sys2Proof.Scope

/-- Settles O24, by what a start and a refusal leave, whichever descriptor it is, and by what a PUT that is not sent leaves. -/
theorem flightDescriptorsStartOrAreRefused : Obligations.FlightDescriptorsStartOrAreRefused := by
  intro s f k d hi x starts refused
  have hs (total notify : Nat) (m : Module) (h : FltStarts f k (freshOp d total notify) s.m m) : starts total notify m :=
    ⟨h.queue, h.clk, h.flt⟩
  have hr (m : Module) (h : FltRefused f k d s.m m) : refused m := ⟨h.queue, h.clk, h.mem, h.flt, h.count⟩
  refine ⟨fun hh => ⟨fun ha => ?_, fun ha => ?_⟩, fun hh => ⟨fun ha => ?_, fun ha => ?_⟩, fun hh => ⟨fun ha => ?_, fun ha => ?_⟩,
    fun hh => ⟨fun hn ha => ?_, fun hn ha => ?_, fun ha => ?_⟩⟩
  · exact (fltStart_starts hi hh ha).imp (hs _ 0)
  · exact (fltStart_refuses hi hh ha).imp hr
  · exact (fltStart_starts hi hh ha).imp (hs _ 0)
  · exact (fltStart_refuses hi hh ha).imp hr
  · exact (fltStart_starts hi hh ha).imp (hs _ 0)
  · exact (fltStart_refuses hi hh ha).imp hr
  · show Ends s _ (execPut f s)
    rw [execPut_starts hh (.inl hn)]
    exact (fltStart_starts hi hh ha).imp (hs _ _)
  · have hp := putSuppressed_suppresses hi f k d
    exact ⟨_, execPut_suppressed hh hn ha, hp.queue, hp.flt, hp.port, hp.putsSupp, hp.count⟩
  · show Ends s _ (execPut f s)
    rw [execPut_starts hh (.inr ha)]
    exact (fltStart_refuses hi hh ((putRefusal_dequeue ..).trans_ne ha)).imp hr

end

/-! ### Bursts (O25) -/

namespace Sys2Proof.Scope
open Sys2Proof.Machine Sys2Proof.Laws

/-- What a command that completes leaves holds of the state that it answers. -/
theorem of_completes {c : Instr} {s : State} {m : Module} {P : Module → Prop} (he : exec c s = done s m) (h : Completes c s P) : P m := by
  obtain ⟨m', hn, hp⟩ := h
  rw [he] at hn
  cases hn
  exact hp

/-- The first descriptor that has bursts to issue issues the next one of its walk. -/
theorem exec_burstIssue_walk {s : State} {f : Fin 32} {o : FltOp} {r : List FltOp} (ho : (s.m.flt' f).ops = o :: r)
    (hn : o.issuedAll = false) (he : o.err = 0) (hd : isGather o.desc = false) :
    exec (.burstIssue f []) s = done s (issueWalk f 0 o s.m) := by
  have hm : memErrs o.desc.part [] s.m = s.m := rfl
  show execBurstIssue f [] s = _
  simp [execBurstIssue, findIdx?, ho, hn, he, hd, hm]

/-- A MOVE with ATOMIC: it adds 512 bytes of this module's Hall to its fast tier as FP32 values. -/
def addMove : Desc :=
  { part := 0, ctx := 0, ty := 0x60, flags := 2, len := 128, seq := 1
    bytes := List.replicate 16 0 ++ natLe 8 0x0F00000000001000 ++ natLe 8 0x0F40000000000000 ++ natLe 4 512
      ++ natLe 4 1 ++ natLe 4 1 ++ natLe 4 1 ++ natLe 4 1 ++ List.replicate 76 0 }

/-- A burst of updates that waits for its turn and leads to slot 3, where PCI_SLOT_MAP of the reset state names no chip. -/
def strayBurst : BurstRec :=
  { tag := 7, issued := 0, kind := .held, src := 0x0F00000000001000, dst := 0x0300000000000000, len := 4, shared := false, mate := none }

/-- The MOVE before it has issued a byte of its own, with the stray burst's operand read. -/
def strayOp : FltOp :=
  { desc := addMove, next := 0, total := 512, entry := 0, run := none, inEntry := 0, linOff := 0, issuedAll := false, notify := 0, err := 0
    bursts := [strayBurst], atoms := [⟨7, some [0, 0, 0, 0]⟩] }

/-- The state after reset, with the MOVE at Flight engine 0. -/
def strayMove : State := { pending := [], m := Module.init.setFlt 0 { Flt.init with ops := [strayOp] } }

/-- The next burst of the MOVE lies between the Hall and the fast tier of this module, has a tag, and is not the last. -/
theorem strayMove_burst : srcSide strayMove.m addMove (mvSrcAt addMove 0) = .here ∧ dstSide strayMove.m addMove (mvDstAt addMove 0) = .here
    ∧ tagFor strayMove.m 0 ≠ none ∧ strayOp.next + mvBurst addMove strayOp.next < strayOp.total := by
  decide +kernel

/-- The stray burst's turn comes first, and it fails: the MOVE issues nothing more, its bursts are released, and it completes. -/
theorem strayMove_ends : ((issueWalk 0 0 strayOp strayMove.m).flt' 0).ops = [] := by
  decide +kernel

end Sys2Proof.Scope

section
open Sys2Proof Sys2Proof.Machine Sys2Proof.Scope

/-- Refutes O25, in its clause on a burst between tiers of this module: the statement speaks of every state in canonical form, and in one
whose MOVE holds a burst of updates that leads to a slot of no chip, that burst's turn comes first (R370): it fails, and the MOVE issues
nothing more and completes with the error (R412), so that it does not stand at the engine with its walk moved on. -/
theorem not_burstsIssueAnswerOrTimeOut : ¬ Obligations.BurstsIssueAnswerOrTimeOut := by
  intro h
  have hi : strayMove.m.Inv := ⟨rfl, rfl⟩
  obtain ⟨hsrc, hdst, htag, hlen⟩ := strayMove_burst
  obtain ⟨-, hwalk, -⟩ := h.1 strayMove 0 strayOp [] hi rfl rfl rfl rfl
  obtain ⟨-, -, o, ho, -⟩ := of_completes (exec_burstIssue_walk (f := 0) (s := strayMove) rfl rfl rfl rfl) (hwalk (.inr htag) hsrc hdst hlen)
  change ((issueWalk 0 0 strayOp strayMove.m).flt' 0).ops.head? = _ at ho
  rw [strayMove_ends] at ho
  cases ho

end

/-! ### Requests and answers of the fabric (O31) -/

namespace Sys2Proof.Scope
open Sys2Proof.Machine Sys2Proof.Laws

variable {s : State} {m m' : Module} {k : Pkt}

/-! #### A packet taken from those that wait -/

/-- The first accepted packet of a type. -/
def firstOf (ty : Nat) (m : Module) : Option Pkt := m.rte.accepted.find? fun x => x.hdr.ty.toNat = ty

/-- A packet has left those that are accepted. -/
def taken (k : Pkt) (m : Module) : Module := { m with rte := { m.rte with accepted := m.rte.accepted.erase k } }

theorem takeTy_of_first {ty : Nat} (h : firstOf ty m = some k) : takeTy ty m = some (k, taken k m) := by
  unfold takeTy takeAccepted
  rw [show m.rte.accepted.find? _ = some k from h]
  rfl

theorem execNotify_of_first (h : firstOf 2 s.m = some k) : execNotify s = done s (doNotify k (taken k s.m)) := by
  rw [execNotify, takeTy_of_first h]

theorem execReadReq_of_first (h : firstOf 3 s.m = some k) : execReadReq [] s = done s (doReadReq k (taken k s.m)) := by
  rw [execReadReq, takeTy_of_first h]
  rfl

theorem execAtomic_of_first (h : firstOf 5 s.m = some k) : execAtomic [] s = done s (doAtomic k (taken k s.m)) := by
  rw [execAtomic, takeTy_of_first h]
  rfl

theorem execAck_of_first (h : firstOf 6 s.m = some k) :
    execAck s = done s (if replyOk k then doAck k (replyCross k (taken k s.m)) else taken k s.m) := by
  rw [execAck, takeTy_of_first h]

theorem execReadResp_of_first (h : firstOf 4 s.m = some k) :
    execReadResp s = done s (if replyOk k then doReadResp k (replyCross k (taken k s.m)) else taken k s.m) := by
  rw [execReadResp, takeTy_of_first h]

theorem execMgmt_of_first (h : firstOf 0x28 s.m = some k) : execMgmt s = done s (doMgmt k (taken k s.m)) := by
  rw [execMgmt, takeTy_of_first h]

/-! #### Requests on this module's memory (R441 to R444) -/

/-- What a NOTIFY's own form asks (R441). -/
def notifyFits (k : Pkt) : Bool :=
  k.payload.length = 8 && gaOff k.hdr.addr % 8 = 0 && gaTier k.hdr.addr = 0 && fld k.hdr.aux 0 32 = 0

theorem doNotify_refused {c : Nat} (h : dataReason k 8 true (notifyFits k) m = some c) : doNotify k m = rxRefused k c m := by
  unfold doNotify
  unfold notifyFits at h
  simp only [h]

theorem doNotify_accepted (h : dataReason k 8 true (notifyFits k) m = none) :
    doNotify k m = reply k 6 0 [] (memWrite k.via k.hdr.dstPart.toNat 0 false (gaOff k.hdr.addr) k.payload m) := by
  unfold doNotify
  unfold notifyFits at h
  simp only [h]

/-- What a READ_REQ's own form asks (R442). -/
def readFits (k : Pkt) : Bool :=
  let n := fld k.hdr.aux 0 9
  let o := gaOff k.hdr.addr
  n ≥ 1 && n ≤ 256 && o / 256 = (o + n - 1) / 256 && k.payload.length = 0 && fld k.hdr.aux 9 23 = 0

theorem doReadReq_refused {c : Nat} (h : dataReason k (fld k.hdr.aux 0 9) false (readFits k) m = some c) :
    doReadReq k m = rxRefused k c m := by
  unfold doReadReq
  unfold readFits at h
  simp only [h]

/-- The bytes that a READ_REQ reads, and the module after the read. -/
def readAsked (k : Pkt) (m : Module) : List Byte × List Bool × Module :=
  memRead k.via k.hdr.dstPart.toNat (gaTier k.hdr.addr) false (gaOff k.hdr.addr) (fld k.hdr.aux 0 9) m

theorem doReadReq_accepted (h : dataReason k (fld k.hdr.aux 0 9) false (readFits k) m = none) :
    doReadReq k m = reply k 4 0 (readAsked k m).1 (readAsked k m).2.2 := by
  unfold doReadReq readAsked
  unfold readFits at h
  simp only [h]

theorem doAtomic_refused {c : Nat} (h : atomReason k m = some c) : doAtomic k m = rxRefused k c m := by
  unfold doAtomic
  simp only [h]

/-- The old values of an ATOMIC's elements, and the module after its updates. -/
def atomAsked (k : Pkt) (m : Module) : List Byte × Module :=
  let op := fld k.hdr.aux 0 4
  atomRun k.via k.hdr.dstPart.toNat (gaTier k.hdr.addr) op (gaOff k.hdr.addr) (k.payload.length / atomSize op) k.payload m

theorem doAtomic_fetches (h : atomReason k m = none) (hf : atomFetches (fld k.hdr.aux 0 4) = true) :
    doAtomic k m = reply k 4 0 (atomAsked k m).1 (atomAsked k m).2 := by
  unfold doAtomic
  simp only [h, hf, if_true]
  rfl

theorem doAtomic_updates (h : atomReason k m = none) (hf : atomFetches (fld k.hdr.aux 0 4) = false) :
    doAtomic k m = reply k 6 0 [] (atomAsked k m).2 := by
  unfold doAtomic
  simp only [h, hf]
  rfl

/-- An update that nothing refuses is of an operation that is defined, on whole, aligned elements of 1 to 256 bytes, and not of the
Hall. -/
theorem of_atomReason_none (h : atomReason k m = none) : let z := atomSize (fld k.hdr.aux 0 4); let n := k.payload.length
    z ≠ 0 ∧ gaTier k.hdr.addr ≠ 0 ∧ n % z = 0 ∧ gaOff k.hdr.addr % z = 0 ∧ n ≠ 0 ∧ n ≤ 256 := by
  simp only [atomReason, firstCode, dataConds, List.cons_append, List.nil_append, Option.map_eq_none_iff, List.find?_eq_none,
    List.forall_mem_cons, Bool.not_eq_true, Bool.or_eq_false_iff, Bool.not_eq_false', Bool.and_eq_true, Bool.or_eq_true,
    decide_eq_true_eq, decide_eq_false_iff_not, ge_iff_le] at h
  obtain ⟨-, -, ⟨-, ⟨⟨⟨h1, h256⟩, -⟩, -⟩, hz⟩, ⟨hz0, ht⟩, -⟩ := h
  obtain ⟨hn, ho⟩ := hz.resolve_left hz0
  exact ⟨hz0, ht, hn, ho, Nat.one_le_iff_ne_zero.1 h1, h256⟩

theorem atomReason_ne_none (h : let z := atomSize (fld k.hdr.aux 0 4); let n := k.payload.length
    z = 0 ∨ gaTier k.hdr.addr = 0 ∨ n % z ≠ 0 ∨ gaOff k.hdr.addr % z ≠ 0 ∨ n = 0 ∨ 256 < n) : atomReason k m ≠ none := by
  intro hn
  obtain ⟨hz, ht, hnz, hoz, h0, h256⟩ := of_atomReason_none hn
  omega

/-! #### Answers (R411, R413, R444) -/

theorem toFlights_eq_findSome? (tag : Nat) (ans : BurstAnswer) (l : List Nat) (m : Module) :
    toFlights tag ans l m = l.findSome? (fltRespond · tag ans m) := by
  induction l with
  | nil => rfl
  | cons f r ih =>
    rw [toFlights, List.findSome?_cons]
    split <;> simp [*]

/-- The first engine that takes an answer is the one it goes to. -/
theorem toFlights_first {tag i n : Nat} {ans : BurstAnswer} (hi : i < n) (hl : ∀ j, j < i → fltRespond j tag ans m = none)
    (hr : fltRespond i tag ans m = some m') : toFlights tag ans (List.range n) m = some m' := by
  rw [toFlights_eq_findSome?]
  induction n with
  | zero => omega
  | succ n ih =>
    rw [List.range_succ, List.findSome?_append]
    obtain h | rfl : i < n ∨ i = n := by omega
    · rw [ih h, Option.some_or]
    · rw [List.findSome?_eq_none_iff.2 (by simpa using hl)]
      simp [hr]

theorem toFlights_none {tag n : Nat} {ans : BurstAnswer} (h : ∀ j, j < n → fltRespond j tag ans m = none) :
    toFlights tag ans (List.range n) m = none := by
  rw [toFlights_eq_findSome?]
  simpa using h

/-- Where the mirror and the Vestibule are as after reset, nothing of them waits for a tag. -/
theorem toMirror_idle (hm : m.mir = []) (hv : m.vst = []) (tag reason : Nat) (refused : Bool) (l : List Nat) :
    toMirror tag reason refused l m = none := by
  induction l with
  | nil => rfl
  | cons p r ih =>
    have h1 : m.mir' p = Mir.init := by rw [Module.mir', hm]; rfl
    have h2 : m.vst' p = Vst.init := by rw [Module.vst', hv]; rfl
    rw [toMirror, h1, h2]
    exact ih

section
variable {i : Nat}

theorem execAck_malformed (hf : firstOf 6 s.m = some k) (hk : replyOk k = false) : execAck s = done s (taken k s.m) := by
  rw [execAck_of_first hf, hk]
  rfl

/-- The answer that an ACK gives to a burst. -/
def ackAnswer (k : Pkt) : BurstAnswer := if bit k.hdr.aux 0 then .refused else .ack

theorem execAck_first (hf : firstOf 6 s.m = some k) (hk : replyOk k = true) (hi : i < 32)
    (hl : ∀ j, j < i → fltRespond j k.hdr.tag.toNat (ackAnswer k) (replyCross k (taken k s.m)) = none)
    (hr : fltRespond i k.hdr.tag.toNat (ackAnswer k) (replyCross k (taken k s.m)) = some m) : execAck s = done s m := by
  rw [execAck_of_first hf, if_pos hk, doAck, ← ackAnswer, toFlights_first hi hl hr]

/-- An ACK that nothing waits for is discarded. -/
theorem execAck_unawaited (hf : firstOf 6 s.m = some k) (hk : replyOk k = true)
    (h : ∀ j, j < 32 → fltRespond j k.hdr.tag.toNat (ackAnswer k) (replyCross k (taken k s.m)) = none) (hm : s.m.mir = [])
    (hv : s.m.vst = []) : execAck s = done s (replyCross k (taken k s.m)) := by
  have hx : Eff [.cor] (taken k s.m) (replyCross k (taken k s.m)) := eff_replyCross ..
  rw [execAck_of_first hf, if_pos hk, doAck, ← ackAnswer, toFlights_none h]
  simp only [toMirror_idle ((hx.same .mir (by decide)).trans hm) ((hx.same .vst (by decide)).trans hv)]

theorem execReadResp_malformed (hf : firstOf 4 s.m = some k) (hk : replyOk k = false) : execReadResp s = done s (taken k s.m) := by
  rw [execReadResp_of_first hf, hk]
  rfl

/-- The answer that a READ_RESP gives to a burst. -/
def dataAnswer (k : Pkt) : BurstAnswer := if bit k.hdr.aux 0 then .refused else .data k.payload

theorem execReadResp_first (hf : firstOf 4 s.m = some k) (hk : replyOk k = true) (hi : i < 32)
    (hl : ∀ j, j < i → fltRespond j k.hdr.tag.toNat (dataAnswer k) (replyCross k (taken k s.m)) = none)
    (hr : fltRespond i k.hdr.tag.toNat (dataAnswer k) (replyCross k (taken k s.m)) = some m) : execReadResp s = done s m := by
  rw [execReadResp_of_first hf, if_pos hk, doReadResp, ← dataAnswer, toFlights_first hi hl hr]

theorem execReadResp_unawaited (hf : firstOf 4 s.m = some k) (hk : replyOk k = true)
    (h : ∀ j, j < 32 → fltRespond j k.hdr.tag.toNat (dataAnswer k) (replyCross k (taken k s.m)) = none) :
    execReadResp s = done s (replyCross k (taken k s.m)) := by
  rw [execReadResp_of_first hf, if_pos hk, doReadResp, ← dataAnswer, toFlights_none h]

end

/-! #### MGMT (R445, R446) -/

theorem doMgmt_untrusted (h : noticeFrom m.wdg k.hdr.srcChip.toNat = false) :
    doMgmt k m = { m with rte := { m.rte with sliceRej := m.rte.sliceRej + 1 } } :=
  if_pos (by simp [h])

section
variable (ht : noticeFrom m.wdg k.hdr.srcChip.toNat = true)
include ht

theorem doMgmt_reads (ho : fld k.hdr.aux 60 4 = 1) (hf : mgmtForm k = true) : doMgmt k m =
    mgmtReply k 3 false (natLe 8 (fnRead .pf (fld k.hdr.aux 0 28) 8 m).1.toNat) (fnRead .pf (fld k.hdr.aux 0 28) 8 m).2 := by
  simp [doMgmt, mgmtServe, ht, ho, hf]

theorem doMgmt_writes (ho : fld k.hdr.aux 60 4 = 2) (hf : mgmtForm k = true) (hb : managerBlk (fld k.hdr.aux 0 28) = true)
    (hl : m.sec.locked = false) :
    doMgmt k m = mgmtReply k 4 false [] (fnWrite .pf (fld k.hdr.aux 0 28) 8 (w64 (leNat k.payload)) m) := by
  simp [doMgmt, mgmtServe, ht, ho, hf, hb, hl]

theorem doMgmt_refuses (ho : fld k.hdr.aux 60 4 = 2) (h : managerBlk (fld k.hdr.aux 0 28) = false ∨ m.sec.locked = true) :
    doMgmt k m = mgmtReply k 4 true [] m := by
  obtain h | h := h <;> simp [doMgmt, mgmtServe, ht, ho, h]

end

end Sys2Proof.Scope

section
open Sys2Proof Sys2Proof.Machine Sys2Proof.Scope

/-- Settles O31, by the packet's leaving those that wait and what it then does: the checks of the three requests, the first engine that
takes an answer, and the source, the operation and the place of a MGMT request. -/
theorem requestsAndAnswersAct : Obligations.RequestsAndAnswersAct := by
  refine ⟨fun s k => ?_, fun s k => ?_⟩
  · intro p o t m1 refused first
    refine ⟨fun hf => ⟨fun hr => ?_, fun c hr => ?_⟩, fun hf => ⟨fun hr => ?_, fun c hr => ?_⟩, fun hf => ?_⟩
    · exact (execNotify_of_first hf).trans (congrArg (done s) (doNotify_accepted hr))
    · exact (execNotify_of_first hf).trans (congrArg (done s) (doNotify_refused hr))
    · exact (execReadReq_of_first hf).trans (congrArg (done s) (doReadReq_accepted hr))
    · exact (execReadReq_of_first hf).trans (congrArg (done s) (doReadReq_refused hr))
    · have hrefuse (c : Nat) (hr : atomReason k m1 = some c) : Does (.atomic []) s (refused c) :=
        (execAtomic_of_first hf).trans (congrArg (done s) (doAtomic_refused hr))
      refine ⟨hrefuse, fun hx => ?_, fun hr => ⟨fun ha => ?_, fun ha => ?_⟩⟩
      · obtain ⟨c, hc⟩ := Option.ne_none_iff_exists'.1 (atomReason_ne_none (k := k) (m := m1) hx)
        exact ⟨c, hc, hrefuse c hc⟩
      · exact (execAtomic_of_first hf).trans (congrArg (done s) (doAtomic_fetches hr ha))
      · exact (execAtomic_of_first hf).trans (congrArg (done s) (doAtomic_updates hr ha))
  · intro m1 first tag
    refine ⟨fun hf => ⟨execAck_malformed hf, fun f m2 hk hi hl hr => execAck_first hf hk hi hl hr, execAck_unawaited hf⟩,
      fun hf => ⟨execReadResp_malformed hf, fun f m2 hk hi hl hr => execReadResp_first hf hk hi hl hr, execReadResp_unawaited hf⟩,
      fun hf => ⟨fun ht => ?_, fun ht ho hm => ?_, fun ht ho hm hb hl => ?_, fun ht ho hb => ?_⟩⟩
    · exact (execMgmt_of_first hf).trans (congrArg (done s) (doMgmt_untrusted (m := taken k s.m) ht))
    · exact (execMgmt_of_first hf).trans (congrArg (done s) (doMgmt_reads (m := taken k s.m) ht ho hm))
    · exact (execMgmt_of_first hf).trans (congrArg (done s) (doMgmt_writes (m := taken k s.m) ht ho hm hb hl))
    · exact (execMgmt_of_first hf).trans (congrArg (done s) (doMgmt_refuses (m := taken k s.m) ht ho hb))

end

/-! ### The routing block and local delivery (O32, O29) -/

namespace Sys2Proof.Scope
open Sys2Proof.Machine Sys2Proof.Laws

variable {s : State} {m m1 : Module} {k : Pkt} {r : List Pkt}

/-! #### Table swaps (R464 to R467, R476) -/

theorem rteArm_arms (h : atOrAfter (beatNow s.m) s.m.rte.swapBeat = false) :
    Does .rteArm s { s.m with rte := { s.m.rte with st := .armed, armedBeat := s.m.rte.swapBeat } } :=
  congrArg (done s) (if_neg (by simp [h]))

theorem rteArm_refuses (h : atOrAfter (beatNow s.m) s.m.rte.swapBeat = true) :
    Does .rteArm s (ev 0x13 2 0xFFFF 2 31 0 3 { s.m with rte := { s.m.rte with st := .refused, lastCode := 3, entry := 0 } }) :=
  congrArg (done s) (if_pos h)

theorem rteCancel_disarms (h : s.m.rte.st = .armed) : Does .rteCancel s { s.m with rte := { s.m.rte with st := .idle } } :=
  congrArg (done s) (if_pos h)

theorem rteCancel_ignored (h : s.m.rte.st ≠ .armed) :
    Does .rteCancel s { s.m with rte := { s.m.rte with badCmd := true, badCmdAt := instant s.m } } :=
  congrArg (done s) (if_neg h)

section
variable (h : s.m.rte.st = .armed) (hi : ¬ (s.m.img.st = .armed ∧ s.m.img.armedBeat = s.m.rte.armedBeat))
  (h1 : m1 = passToBeat s.m.rte.armedBeat s.m)
include h hi h1

/-- Where no check fails, the armed beat brings the shadow table. -/
theorem exec_swap_of_passed (hc : swapCheck m1 = none) : exec .swap s = done s (doSwap m1) := by
  subst h1
  refine (if_pos h).trans ((if_neg hi).trans ?_)
  simp only [hc]

/-- Where a check fails, the armed beat brings the refusal with its code and entry. -/
theorem exec_swap_of_failed {c e : Nat} (hc : swapCheck m1 = some (c, e)) : exec .swap s = done s (rteRefuse c e m1) := by
  subst h1
  refine (if_pos h).trans ((if_neg hi).trans ?_)
  simp only [hc]

theorem swap_takesForce (hc : swapCheck m1 = none) :
    Does .swap s (ev 0x13 1 0xFFFF 1 31 0 (s.m.rte.armedBeat.setWidth 64) { m1 with rte := { s.m.rte with
      st := .idle, active := s.m.rte.shadow, chipValid := bit s.m.rte.nextRaw 31, chip := BitVec.ofNat 13 (fld s.m.rte.nextRaw 0 13),
      epochs := s.m.rte.epochs.map (fun x => (x.1, (x.2.1, x.2.1))) } }) := by
  have hr : m1.rte = s.m.rte := h1 ▸ (eff_passToBeat ..).same .rte (by decide)
  rw [← hr]
  exact exec_swap_of_passed h hi h1 hc

theorem swap_refused {c e : Nat} (hc : swapCheck m1 = some (c, e)) :
    Does .swap s (ev 0x13 2 0xFFFF 2 31 0 (pack [(e, 16), (c, 0)])
      { m1 with rte := { s.m.rte with st := .refused, lastCode := BitVec.ofNat 8 c, entry := BitVec.ofNat 16 e } }) := by
  have hr : m1.rte = s.m.rte := h1 ▸ (eff_passToBeat ..).same .rte (by decide)
  rw [← hr]
  exact exec_swap_of_failed h hi h1 hc

end

theorem exec_rteShadowWrite {off bytes : Nat} (val : W64) (ho : off < 65536) (hb : bytes = 4 ∨ bytes = 8) (ha : off % bytes = 0) :
    exec (.rteShadowWrite off bytes val) s = done s (rteShadowWrite off bytes val s.m) := by
  refine (if_pos ho).trans (if_pos ?_)
  rcases hb with rfl | rfl <;> simp [accepted, ha]

theorem rteShadowWrite_armed (off bytes : Nat) (val : W64) (h : m.rte.st = .armed) :
    rteShadowWrite off bytes val m = { m with rte := { m.rte with shadowIgn := m.rte.shadowIgn + 1 } } := if_pos h

/-- A write that the block takes reaches one entry of the shadow table. -/
theorem rteShadowWrite_stores (off bytes : Nat) (val : W64) (h : m.rte.st ≠ .armed) : ∃ x,
    rteShadowWrite off bytes val m =
      { m with dbg := m.dbg.cross 0 1 bytes, rte := { m.rte with shadow := nset 0 m.rte.shadow (off / 16) x } } :=
  ⟨_, if_neg h⟩

theorem rteShadowWrite_completes {off bytes : Nat} (val : W64) (ho : off < 65536) (hb : bytes = 4 ∨ bytes = 8) (ha : off % bytes = 0)
    (h : s.m.rte.st ≠ .armed) : Completes (.rteShadowWrite off bytes val) s fun m =>
      (∀ j, j ≠ off / 16 → nget 0 m.rte.shadow j = nget 0 s.m.rte.shadow j) ∧ m.rte.active = s.m.rte.active
      ∧ SameBut [.rte, .dbg] s.m m := by
  obtain ⟨x, hx⟩ := rteShadowWrite_stores off bytes val h
  refine completes_of_done (exec_rteShadowWrite val ho hb ha) ?_
  rw [hx]
  exact ⟨fun j hj => nget_nset_of_ne hj, rfl, sameBut_of_blend rfl⟩

/-! #### What counting a packet, and sending one, leave of the routing block -/

/-- An event that is recorded once in each window leaves the routing block but for the note that it was. -/
theorem oncePerSlice_rte {f : Module → Module} (hf : ∀ m, (f m).rte = m.rte) (code slice : Nat) (m : Module) :
    ∃ l, (oncePerSlice code slice f m).rte = { m.rte with seen := l } := by
  unfold oncePerSlice
  dsimp only
  split
  · exact ⟨_, rfl⟩
  · exact ⟨_, hf _⟩

theorem ev_rte (cls code unit sev part ctx : Nat) (d : W64) (m : Module) : (ev cls code unit sev part ctx d m).rte = m.rte :=
  (eff_ev ..).same .rte (by decide)

/-- A packet that is counted and reported once a window leaves the packets of the routing block as they were. -/
theorem sliceReject_rte (h : Hdr) (m : Module) :
    ∃ l, (sliceReject h m).rte = { m.rte with sliceRej := m.rte.sliceRej + 1, seen := l } :=
  oncePerSlice_rte (fun _ => ev_rte ..) ..

theorem sliceReject_port (h : Hdr) (m : Module) : (sliceReject h m).port = m.port := (eff_sliceReject ..).same .port (by decide)

/-- The packets that R462 accepted, and the count of those it refused. -/
def deliveredAt (m : Module) : List Pkt × W32 := (m.rte.accepted, m.rte.sliceRej)

theorem sameDelivered_of_eff {a b : Module} {l : List Part} (h : Eff l a b) (hl : Part.rte ∉ l := by decide) : SameAt deliveredAt a b :=
  congrArg (fun x : Rte => (x.accepted, x.sliceRej)) (h.same .rte hl)

theorem sameDelivered_noRoute (slice chip : Nat) (m : Module) : SameAt deliveredAt m (noRoute slice chip m) := by
  obtain ⟨l, hl⟩ := oncePerSlice_rte (f := ev 0x13 4 0xFFFF 2 31 0 (pack [(slice, 16), (chip, 0)])) (fun _ => ev_rte ..) 4 slice
    { m with rte := { m.rte with noRoute := m.rte.noRoute + 1 } }
  rw [SameAt, deliveredAt, deliveredAt, show (noRoute slice chip m).rte = _ from hl]

/-- A packet that this module sends, wherever it goes, is none that R462 has accepted or refused. -/
theorem sameDelivered_inject (w : Nat) (k : Pkt) (m : Module) : SameAt deliveredAt m (inject w k m) := by
  unfold inject
  split
  · rfl
  · extract_lets h x _ y
    have hr : SameAt deliveredAt m y.2 := by
      dsimp only [y]
      split
      · exact sameDelivered_of_eff (eff_protect ..)
      · rfl
    split
    · exact hr
    · refine hr.trans ?_
      extract_lets
      split
      · exact sameDelivered_noRoute ..
      · split
        · dsimp only
          split
          · exact sameDelivered_of_eff (l := [.port, .cor]) (((eff_setPort ..).mono rfl).trans ((eff_corridor ..).mono rfl))
          · rfl
        · split <;> rfl

theorem sameDelivered_refuse (k : Pkt) (reason : Nat) (m : Module) : SameAt deliveredAt m (refuse k reason m) := sameDelivered_inject ..

theorem sameDelivered_refuse1 (k : Pkt) (m : Module) : SameAt deliveredAt m (refuse1 k m) := by
  unfold refuse1
  dsimp only
  split_ifs
  · exact (sameDelivered_refuse ..).trans (sameDelivered_of_eff (eff_ev ..))
  · exact sameDelivered_refuse ..
  · rfl

theorem refuse1_of_noReply (h : hasReply k.hdr.ty.toNat = false) (m : Module) : refuse1 k m = m := by
  have hm : ¬ ((k.hdr.ty.toNat = 1 || k.hdr.ty.toNat = 2 || k.hdr.ty.toNat = 3 || k.hdr.ty.toNat = 5) = true) := by
    simp_all [hasReply]
  exact (if_neg hm).trans (if_neg (by simp [h]))

/-! #### Local delivery (R462) -/

/-- The module whose first packet for local delivery has been taken, with `r` left. -/
def popped (r : List Pkt) (m : Module) : Module := { m with rte := { m.rte with local_ := r } }

/-- A packet that has passed R462. -/
def acceptedAs (k : Pkt) (m : Module) : Module := { m with rte := { m.rte with accepted := m.rte.accepted ++ [k] } }

theorem exec_localDelivery (h : s.m.rte.local_ = k :: r) : exec .localDelivery s = done s (deliver k (popped r s.m)) := by
  show execLocalDelivery s = _
  simp only [execLocalDelivery, h]
  rfl

/-- The TYPEs of the module's functions, which SLICE 0xFFF carries. -/
def ofFunction (k : Pkt) : Prop := k.hdr.ty = 0x28 ∨ k.hdr.ty = 0x29 ∨ k.hdr.ty = 0x2A ∨ k.hdr.ty = 0x20

theorem ofFunction_iff : ofFunction k ↔
    (k.hdr.ty.toNat = 0x28 || k.hdr.ty.toNat = 0x29 || k.hdr.ty.toNat = 0x2A || k.hdr.ty.toNat = 0x20) = true := by
  simp [ofFunction, ← BitVec.toNat_inj, or_assoc]

theorem deliver_function (hs : k.hdr.slice.toNat = 0xFFF) (ht : ofFunction k) : deliver k m = acceptedAs k m :=
  (if_pos hs).trans (if_pos (ofFunction_iff.1 ht))

theorem deliver_otherType (hs : k.hdr.slice.toNat = 0xFFF) (ht : ¬ ofFunction k) : deliver k m = sliceReject k.hdr m :=
  (if_pos hs).trans (if_neg (mt ofFunction_iff.2 ht))

/-- A packet of an epoch that has passed is counted, and reported once a window. -/
theorem deliver_stale (hs : k.hdr.slice.toNat ≠ 0xFFF) (hi : (sliceIdx m k.hdr.slice.toNat).isSome = true)
    (he : k.hdr.epoch ≠ curEpoch m k.hdr.slice.toNat) :
    (∃ l, (deliver k m).rte = { m.rte with stale := m.rte.stale + 1, seen := l }) ∧ (deliver k m).port = m.port := by
  rw [show deliver k m = _ from (if_neg hs).trans (if_pos (by simp [hi, he]))]
  exact ⟨oncePerSlice_rte (fun _ => ev_rte ..) .., (eff_oncePerSlice (l := [.rte] ++ evParts)
    (.of_keeps (.of_core rfl) rfl) (fun m => (eff_ev ..).mono rfl) rfl).same .port (by decide)⟩

theorem deliver_foreign (hs : k.hdr.slice.toNat ≠ 0xFFF) (hi : sliceIdx m k.hdr.slice.toNat = none) :
    deliver k m = refuse1 k (sliceReject k.hdr m) :=
  (if_neg hs).trans ((if_neg (by simp [hi])).trans (if_pos (by simp [hi])))

theorem deliver_accepts (hs : k.hdr.slice.toNat ≠ 0xFFF) (hi : (sliceIdx m k.hdr.slice.toNat).isSome = true)
    (he : k.hdr.epoch = curEpoch m k.hdr.slice.toNat) (hm : member m k.hdr.slice.toNat k.hdr.dstPart.toNat = true)
    (hp : k.hdr.tc = 0 ∨ k.hdr.len = 0) (hw : wingUp m (homeWing k.hdr.dstPart.toNat) = true)
    (ht : ∀ w, targetWing m k = some w → wingUp m w = true) (hk : k.hdr.ty = 0x18 → mirOk k = true) :
    deliver k m = acceptedAs k m := by
  have ho : protectedPkt k.hdr = false := by rcases hp with hp | hp <;> simp [protectedPkt, hp]
  have hr : ¬ ((k.hdr.ty.toNat = 0x18 && !mirOk k) = true) := by
    simp only [Bool.and_eq_true, decide_eq_true_eq, Bool.not_eq_true', not_and, Bool.not_eq_false]
    exact fun h => hk (BitVec.eq_of_toNat_eq h)
  refine (if_neg hs).trans ((if_neg (by simp [he])).trans ((if_neg (by simp [Option.isSome_iff_ne_none.1 hi, hm])).trans ?_))
  simp only [ho, Bool.false_eq_true, if_false, hw, Bool.true_and]
  rw [if_neg hr]
  refine if_pos ?_
  split
  · exact ht _ ‹_›
  · rfl

end Sys2Proof.Scope

section
open Sys2Proof Sys2Proof.Machine Sys2Proof.Scope

/-- Settles O32, by the guards of ARM, CANCEL and the swap, and by the one entry that a shadow write reaches. -/
theorem routingTablesSwapAtTheirBeat : Obligations.RoutingTablesSwapAtTheirBeat := by
  intro s
  refine ⟨rteArm_arms, rteArm_refuses, rteCancel_disarms, rteCancel_ignored,
    fun h hi m1 h1 => ⟨swap_takesForce h hi h1, fun c e => swap_refused h hi h1⟩,
    fun off bytes val ho hb ha => ⟨fun h => ?_, rteShadowWrite_completes val ho hb ha⟩, rfl⟩
  rw [← rteShadowWrite_armed off bytes val h]
  exact exec_rteShadowWrite val ho hb ha

/-- Settles O29, by the branch of R462's checks that each packet takes. -/
theorem localDeliveryChecksInOrder : Obligations.LocalDeliveryChecksInOrder := by
  intro s k r hq
  have he := exec_localDelivery hq
  refine ⟨fun hs ht => ?_, fun hs ht => ?_, fun hs hi hk => ?_, fun hs hi => ?_, fun hs hi hk hm hp hw ht hf => ?_⟩
  · exact he.trans (congrArg (done s) (deliver_function hs ht))
  · obtain ⟨l, hl⟩ := sliceReject_rte k.hdr (popped r s.m)
    rw [deliver_otherType hs ht] at he
    refine completes_of_done he ?_
    rw [hl]
    exact ⟨rfl, rfl, rfl⟩
  · obtain ⟨⟨l, hl⟩, hp⟩ := deliver_stale (m := popped r s.m) hs hi hk
    refine completes_of_done he ?_
    rw [hl]
    exact ⟨rfl, rfl, rfl, hp⟩
  · obtain ⟨l, hl⟩ := sliceReject_rte k.hdr (popped r s.m)
    obtain ⟨ha, hj⟩ := Prod.mk.inj (sameDelivered_refuse1 k (sliceReject k.hdr (popped r s.m)))
    rw [deliver_foreign (m := popped r s.m) hs hi] at he
    refine completes_of_done he ⟨?_, ?_, fun hn => ?_⟩
    · rw [ha, hl]
      rfl
    · rw [hj, hl]
      rfl
    · rw [refuse1_of_noReply hn, hl]
      exact ⟨rfl, sliceReject_port ..⟩
  · exact he.trans (congrArg (done s) (deliver_accepts (m := popped r s.m) hs hi hk hm hp hw ht hf))

end

/-! ### Fabric ports (O26) -/

namespace Sys2Proof.Scope
open Sys2Proof.Machine Sys2Proof.Laws

variable {s : State} {a b c m : Module} {l : List Part} {i j k v w : Nat} {q x : Port} {P : Port → Prop}

/-! #### What holds of a port -/

theorem port'_of_eff (h : Eff l a b) (hl : Part.port ∉ l := by decide) : b.port' j = a.port' j :=
  congrArg (nget Port.init · j) (h.same .port hl)

/-- The state is canonical, and of port `j` holds `P`. -/
structure PortIs (j : Nat) (P : Port → Prop) (m : Module) : Prop where
  inv : m.Inv
  holds : P (m.port' j)

theorem PortIs.of_eff (h : PortIs j P a) (he : Eff l a b) (hl : Part.port ∉ l := by decide) : PortIs j P b :=
  ⟨he.keeps.inv h.inv, by rw [port'_of_eff he hl]; exact h.holds⟩

theorem PortIs.setPort (h : PortIs j P m) (hx : j = k → P x) : PortIs j P (m.setPort k x) := by
  refine ⟨(eff_setPort ..).keeps.inv h.inv, ?_⟩
  by_cases hj : j = k
  · subst hj
    rw [setPort_get m j x (rising_port h.inv)]
    exact hx rfl
  · rw [setPort_get_ne m k x j hj]
    exact h.holds

theorem PortIs.setPort_self (hi : m.Inv) (hx : P x) : PortIs j P (m.setPort j x) :=
  ⟨(eff_setPort ..).keeps.inv hi, by rw [setPort_get m j x (rising_port hi)]; exact hx⟩

/-! #### Input channels (R447) -/

theorem vcOf_setVc_self (q : Port) (v : Nat) (x : VcSt) : vcOf (setVc q v x) v = x := by
  simp [vcOf, setVc, nfind_nput_self]

theorem vcOf_setVc_of_ne (q : Port) (x : VcSt) (h : w ≠ v) : vcOf (setVc q v x) w = vcOf q w := by
  simp [vcOf, setVc, nfind_nput_of_ne h]

theorem nfind_map_snd {α : Type} (f : α → α) (l : List (Nat × α)) (k : Nat) :
    nfind (l.map fun x => (x.1, f x.2)) k = (nfind l k).map f := by
  induction l with
  | nil => rfl
  | cons x r ih =>
    simp only [List.map_cons, nfind, ih]
    split <;> rfl

/-- What holds of all that `f` gives, and of a channel without an entry, holds of every channel once `f` has changed each entry. -/
theorem vcOf_map {f : VcSt → VcSt} {R : VcSt → Prop} (hf : ∀ x, R (f x)) (h0 : ∀ big, R (VcSt.init big)) (q : Port) (v : Nat) :
    R (vcOf { q with vcs := q.vcs.map fun x => (x.1, f x.2) } v) := by
  simp only [vcOf, nfind_map_snd]
  cases nfind q.vcs v with
  | none => exact h0 _
  | some x => exact hf x

/-! #### Packets routed to a port that carries no traffic (R471) -/

/-- A port after the packets of channel `v` that are routed to `k` have been discarded. -/
def channelDropped (k v : Nat) (q : Port) : Port :=
  let x := vcOf q v
  let freed := (x.pkts.filter (fun c => c.out = k)).foldl (fun b c => b + (c.flits.map flitSize).sum) 0
  let pk := (x.pkts.map (fun c => if c.out = k then { c with out := 17, flits := [] } else c)).filter (fun c => !(c.out ≥ 17 && c.ended))
  setVc q v (xoffUpdate { x with pkts := pk, occ := x.occ - freed })

/-- Channel `v` of port `i` has its turn: its packets routed to `k` are counted and discarded. -/
def channelTurn (k i : Nat) (a : Nat × Module) (v : Nat) : Nat × Module :=
  let hit := (vcOf (a.2.port' i) v).pkts.filter (fun c => c.out = k)
  if hit.isEmpty then a else (a.1 + hit.length, a.2.setPort i (channelDropped k v (a.2.port' i)))

/-- Port `i` has its turn, channel after channel. -/
def portTurn (k : Nat) (a : Nat × Module) (i : Nat) : Nat × Module :=
  (List.range 8).foldl (channelTurn k i) (a.1, a.2.setPort i (a.2.port' i))

/-- Nothing waits for injection at port `k`. -/
def injCleared (k : Nat) (m : Module) : Module := m.setPort k { m.port' k with inj := [], owner := [] }

/-- The number of packets discarded, and the module without them. -/
@[irreducible] def routedDropped (k : Nat) (m : Module) : Nat × Module :=
  (List.range 16).foldl (portTurn k) ((m.port' k).inj.length, injCleared k m)

/-- The discarded packets are counted at their port. -/
def dropCounted (k n : Nat) (m : Module) : Module :=
  m.setPort k { m.port' k with cnt := { (m.port' k).cnt with downDrop := satAdd (m.port' k).cnt.downDrop n } }

theorem dropRouted_eq (k : Nat) (m : Module) : dropRouted k m = dropCounted k (routedDropped k m).1 (routedDropped k m).2 := by
  unfold dropRouted
  extract_lets n _ m1 r p
  have hr : r = routedDropped k m := by
    unfold routedDropped
    refine congrArg (List.foldl · (n, m1) (List.range 16)) (funext fun a => funext fun i => ?_)
    exact congrArg (List.foldl · (a.1, a.2.setPort i (a.2.port' i)) (List.range 8)) rfl
  clear_value r
  rw [← hr]
  rfl

/-- What the discard in a channel keeps of every port, the discard in all of them keeps. -/
theorem PortIs.routedDropped (hd : ∀ q v, P q → P (channelDropped k v q)) (h : PortIs j P (injCleared k m)) :
    PortIs j P (routedDropped k m).2 := by
  unfold Scope.routedDropped
  refine List.foldlRecOn (motive := fun a : Nat × Module => PortIs j P a.2) _ _ h fun a ha i _ => ?_
  have h0 : PortIs j P (a.2.setPort i (a.2.port' i)) := ha.setPort fun e => e ▸ ha.holds
  refine List.foldlRecOn (motive := fun a : Nat × Module => PortIs j P a.2) _ _ h0 fun b hb v _ => ?_
  unfold channelTurn
  dsimp only
  split
  · exact hb
  · exact hb.setPort fun e => hd _ _ (e ▸ hb.holds)

/-! #### A port's link -/

/-- What a port holds but for its traffic, the counts of its traffic, and when its last flit came. -/
def linkOf (q : Port) : Port :=
  { q with vcs := [], inj := [], owner := [], lastFlit := 0, cnt := { PortCnt.init with laneLoss := q.cnt.laneLoss } }

/-- Two ports of one link differ in their traffic alone. -/
theorem eq_of_linkOf (h : linkOf q = linkOf x) : q = { x with
    vcs := q.vcs, inj := q.inj, owner := q.owner, lastFlit := q.lastFlit, cnt := { q.cnt with laneLoss := x.cnt.laneLoss } } := by
  calc q = { linkOf q with
      vcs := q.vcs, inj := q.inj, owner := q.owner, lastFlit := q.lastFlit,
      cnt := { q.cnt with laneLoss := (linkOf q).cnt.laneLoss } } := rfl
    _ = _ := by rw [h]; rfl

/-- The link of port `j` is as it was, where the state is canonical. -/
structure LinkKept (j : Nat) (a b : Module) : Prop where
  inv : a.Inv → b.Inv
  link : a.Inv → linkOf (b.port' j) = linkOf (a.port' j)

theorem LinkKept.refl (m : Module) : LinkKept j m m := ⟨id, fun _ => rfl⟩

theorem LinkKept.trans (h : LinkKept j a b) (g : LinkKept j b c) : LinkKept j a c :=
  ⟨g.inv ∘ h.inv, fun hi => (g.link (h.inv hi)).trans (h.link hi)⟩

theorem LinkKept.fold {α : Type} {f : Module → α → Module} {r : List α} (h : LinkKept j a b) (hf : ∀ m, ∀ x ∈ r, LinkKept j m (f m x)) :
    LinkKept j a (r.foldl f b) :=
  List.foldlRecOn (motive := LinkKept j a) r f h fun m hm x hx => hm.trans (hf m x hx)

theorem LinkKept.of_eff (h : Eff l a b) (hl : Part.port ∉ l := by decide) : LinkKept j a b :=
  ⟨h.keeps.inv, fun _ => congrArg linkOf (port'_of_eff h hl)⟩

theorem LinkKept.setPort (h : linkOf x = linkOf (m.port' k)) : LinkKept j m (m.setPort k x) :=
  ⟨(eff_setPort ..).keeps.inv, fun hi =>
    (PortIs.setPort (P := fun y => linkOf y = linkOf (m.port' j)) ⟨hi, rfl⟩ fun e => by subst e; exact h).holds⟩

theorem LinkKept.setPort_of_ne (h : j ≠ k) (x : Port) : LinkKept j m (m.setPort k x) :=
  ⟨(eff_setPort ..).keeps.inv, fun _ => by rw [setPort_get_ne m k x j h]⟩

theorem LinkKept.dropRouted (k : Nat) (m : Module) : LinkKept j m (dropRouted k m) := by
  refine ⟨(eff_dropRouted ..).keeps.inv, fun hi => ?_⟩
  have h : PortIs j (fun y => linkOf y = linkOf (m.port' j)) (routedDropped k m).2 :=
    .routedDropped (fun _ _ => id) (.setPort ⟨hi, rfl⟩ fun e => by subst e; rfl)
  rw [dropRouted_eq]
  exact (h.setPort fun e => by subst e; exact h.holds).holds

theorem LinkKept.recvLinks (k n : Nat) (m : Module) : LinkKept j m (recvLinks k n m) := .setPort rfl

theorem LinkKept.sendLink (k : Nat) (msg : LinkMsg) (m : Module) : LinkKept j m (sendLink k msg m) := by
  have h (kind n : Nat) (a : W64) : LinkKept j m (linkFlit k kind a n m) :=
    .trans (b := m.setPort k { m.port' k with cnt := { (m.port' k).cnt with tx := (m.port' k).cnt.tx + 1 } }) (.setPort rfl)
      (.of_eff (eff_emit _ _))
  refine .trans ?_ (.of_eff (eff_emit ..))
  cases msg <;> exact h ..

theorem LinkKept.sendDelays (k : Nat) (m : Module) : LinkKept j m (sendDelays k m) := .fold (.refl m) fun _ _ _ => .sendLink ..

theorem linkOf_foldl_setVc (f : Port → Nat → VcSt) (r : List Nat) (q : Port) :
    linkOf (r.foldl (fun p v => setVc p v (f p v)) q) = linkOf q :=
  foldl_keeps (f := linkOf) (g := fun p v => setVc p v (f p v)) (fun _ _ _ => rfl) q

/-- Thresholds that a delay lowers leave the link (R450). -/
theorem LinkKept.clampThr (k : Nat) (m : Module) : LinkKept j m (clampThr k m) := by
  unfold Machine.clampThr
  dsimp only
  split
  · exact .trans (.setPort (linkOf_foldl_setVc ..)) (.of_eff (eff_ev ..))
  · exact .refl m

/-- The link of a port that is set, after what keeps it. -/
theorem linkOf_after_setPort (hi : m.Inv) (h : LinkKept k (m.setPort k x) b) : linkOf (b.port' k) = linkOf x := by
  have h0 : PortIs k (· = x) (m.setPort k x) := .setPort_self hi rfl
  exact (h.link h0.inv).trans (congrArg linkOf h0.holds)

/-- A port that has gone DOWN at the instant `now`. -/
def downed (now : Nat) (q : Port) : Port := { q with st := .down, since := now, active := [], retraining := false }

/-- A port goes DOWN with its link's state else as it was. -/
theorem portGoDown_link (hi : m.Inv) (k : Nat) :
    linkOf ((portGoDown k m).port' k) = linkOf (downed m.clk.elapsed (m.port' k)) := by
  unfold portGoDown
  exact linkOf_after_setPort hi ((LinkKept.dropRouted ..).trans (.of_eff (eff_ev ..)))

/-! #### ENABLE (R422) -/

/-- A port whose ENABLE is cleared, before what is routed to it is discarded. -/
def disabledPort (m : Module) (q : Port) : Port :=
  { q with
    enable := false, st := .disabled, active := [], inj := [], owner := [], retraining := false
    vcs := q.vcs.map fun x => (x.1, xoffUpdate { x.2 with pkts := cutPkts m x.2.pkts, occ := 0 })
    cnt := { q.cnt with downDrop := satAdd q.cnt.downDrop (heldPkts q) } }

theorem portDisable_eq (k : Nat) (m : Module) : portDisable k m = dropRouted k (m.setPort k (disabledPort m (m.port' k))) := rfl

/-- An input channel that holds no flit. -/
def NoFlits (x : VcSt) : Prop := x.occ = 0 ∧ ∀ c ∈ x.pkts, c.flits = []

/-- A port that holds no flit, with the count of discarded packets `d`. -/
def Emptied (d : W32) (q : Port) : Prop := q.inj = [] ∧ q.cnt.downDrop = d ∧ ∀ v, NoFlits (vcOf q v)

theorem emptied_disabledPort (m : Module) (q : Port) : Emptied (satAdd q.cnt.downDrop (heldPkts q)) (disabledPort m q) := by
  refine ⟨rfl, rfl, vcOf_map (R := NoFlits) (f := fun x => xoffUpdate { x with pkts := cutPkts m x.pkts, occ := 0 })
    (fun x => ⟨rfl, fun c hc => ?_⟩) (fun big => ⟨rfl, fun c hc => absurd hc List.not_mem_nil⟩)
    { disabledPort m q with vcs := q.vcs }⟩
  obtain ⟨e, -, rfl⟩ := List.mem_map.1 (show c ∈ cutPkts m x.pkts from hc)
  rfl

theorem Emptied.channelDropped {d : W32} (h : Emptied d q) (k v : Nat) : Emptied d (channelDropped k v q) := by
  obtain ⟨hj, hd, hv⟩ := h
  refine ⟨hj, hd, fun w => ?_⟩
  by_cases hw : w = v
  · subst hw
    obtain ⟨ho, hp⟩ := hv w
    rw [Scope.channelDropped, vcOf_setVc_self]
    refine ⟨by simp [xoffUpdate, ho], fun c hc => ?_⟩
    obtain ⟨e, he, rfl⟩ := List.mem_map.1 (List.mem_filter.1 hc).1
    split
    · rfl
    · exact hp e he
  · rw [Scope.channelDropped, vcOf_setVc_of_ne _ _ hw]
    exact hv w

theorem portDisable_empties (hi : m.Inv) (k : Nat) : ∃ n,
    Emptied (satAdd (satAdd (m.port' k).cnt.downDrop (heldPkts (m.port' k))) n) ((portDisable k m).port' k) := by
  obtain ⟨d, hd⟩ : ∃ d, d = satAdd (m.port' k).cnt.downDrop (heldPkts (m.port' k)) := ⟨_, rfl⟩
  have h0 : PortIs k (Emptied d) (m.setPort k (disabledPort m (m.port' k))) := .setPort_self hi (hd ▸ emptied_disabledPort m (m.port' k))
  have h1 : PortIs k (Emptied d) (injCleared k (m.setPort k (disabledPort m (m.port' k)))) := h0.setPort fun _ => ⟨rfl, h0.holds.2⟩
  have h := PortIs.routedDropped (fun q v hq => hq.channelDropped k v) h1
  obtain ⟨hj, hc, hv⟩ := h.holds
  rw [portDisable_eq, dropRouted_eq, ← hd, ← hc]
  exact ⟨_, PortIs.holds (PortIs.setPort_self h.inv ⟨hj, rfl, hv⟩)⟩

theorem portDisable_link (hi : m.Inv) (k : Nat) :
    linkOf ((portDisable k m).port' k) = linkOf (disabledPort m (m.port' k)) := by
  rw [portDisable_eq]
  exact linkOf_after_setPort hi (.dropRouted ..)

theorem portDisable_completes {p : Fin 16} (hi : s.m.Inv) : Completes (.portDisable p) s fun m =>
    (m.port' p).st = .disabled ∧ (m.port' p).enable = false ∧ (m.port' p).inj = []
    ∧ (∀ v, NoFlits (vcOf (m.port' p) v))
    ∧ (∃ n, (m.port' p).cnt.downDrop = satAdd (satAdd (s.m.port' p).cnt.downDrop (heldPkts (s.m.port' p))) n)
    ∧ SameBut [.port] s.m m := by
  have hl := eq_of_linkOf (portDisable_link hi p)
  obtain ⟨n, hj, hd, hv⟩ := portDisable_empties hi p
  have he : exec (.portDisable p) s = .next { s with m := portDisable p s.m } := rfl
  exact completes_of_done he ⟨congrArg Port.st hl, congrArg Port.enable hl, hj, hv, ⟨n, hd⟩, sameBut_of_exec he⟩

/-! #### The lanes that a port takes (R422, R427) -/

theorem takeLanes_eq (q : Port) :
    takeLanes q = { q with st := (takeLanes q).st, active := (takeLanes q).active, spareFor := (takeLanes q).spareFor } := by
  unfold takeLanes
  dsimp only
  split
  · rfl
  · split <;> rfl

theorem takeLanes_up (h : 8 ≤ (goodLanes q.lanes).length) : (takeLanes q).st = .up := congrArg Port.st (if_pos h)

theorem takeLanes_narrow (h : (goodLanes q.lanes).length < 8) (h4 : 4 ≤ (goodLanes q.lanes).length) (hv : 2 ≤ q.ver.toNat) :
    (takeLanes q).st = .narrow := congrArg Port.st ((if_neg (not_le.2 h)).trans (if_pos (by simp [h4, hv])))

theorem takeLanes_down (h : (goodLanes q.lanes).length < 8) (hv : (goodLanes q.lanes).length < 4 ∨ q.ver.toNat < 2) :
    (takeLanes q).st = .down := congrArg Port.st ((if_neg (not_le.2 h)).trans (if_neg (by simp; omega)))

/-- RELEASE leaves a quarantined port with the lanes that it can take. -/
theorem release_port (hi : m.Inv) (h : (m.port' k).st = .quarantined) : (release k m).port' k =
    takeLanes { m.port' k with lastFlit := m.clk.elapsed, since := m.clk.elapsed } := by
  rw [show release k m = _ from if_pos h]
  dsimp only
  split
  · exact (port'_of_eff (eff_ev ..)).trans (setPort_get m k _ (rising_port hi))
  · exact setPort_get m k _ (rising_port hi)

theorem release_completes {p : Fin 16} (hi : s.m.Inv) (h : (s.m.port' p).st = .quarantined) :
    let q := s.m.port' p; let n := (goodLanes q.lanes).length
    Completes (.release p) s fun m =>
      (8 ≤ n → (m.port' p).st = .up) ∧ (4 ≤ n → n < 8 → 2 ≤ q.ver.toNat → (m.port' p).st = .narrow)
      ∧ (n < 8 → (n < 4 ∨ q.ver.toNat < 2) → (m.port' p).st = .down)
      ∧ (m.port' p).lastFlit = s.m.clk.elapsed ∧ (m.port' p).lanes = q.lanes
      ∧ SameBut [.port, .vst, .hlt, .pci, .tray, .dbg, .out] s.m m := by
  intro q n
  have he : exec (.release p) s = .next { s with m := release p s.m } := rfl
  refine completes_of_done he ?_
  rw [release_port hi h]
  have ht := takeLanes_eq { q with lastFlit := s.m.clk.elapsed, since := s.m.clk.elapsed }
  exact ⟨fun h8 => takeLanes_up h8, fun h4 h8 hv => takeLanes_narrow h8 h4 hv, fun h8 hv => takeLanes_down h8 hv,
    (congrArg Port.lastFlit ht :), (congrArg Port.lanes ht :), sameBut_of_exec he⟩

/-! #### Lane lock and bring-up's limits (R422) -/

section
variable {p : Fin 16} {lane : Fin 9} {y : Port}

theorem portEnable_fromDisabled (h : (s.m.port' p).st = .disabled) : Does (.portEnable p) s
    (s.m.setPort p { s.m.port' p with enable := true, st := .down, since := s.m.clk.elapsed }) := if_pos h

theorem portEnable_else (h : (s.m.port' p).st ≠ .disabled) : Does (.portEnable p) s
    (s.m.setPort p { s.m.port' p with enable := true }) := if_neg h

theorem release_else (h : (s.m.port' p).st ≠ .quarantined) : Does (.release p) s s.m := congrArg (done s) (if_neg h)

theorem laneLock_trains {lanes : BitVec 9} (h : (s.m.port' p).st = .down) (he : (s.m.port' p).enable = true)
    (hn : 4 ≤ (goodLanes lanes).length) : Does (.laneLock p lanes) s
      (s.m.setPort p { s.m.port' p with st := .training, lanes := lanes, since := s.m.clk.elapsed }) :=
  (if_pos ⟨h, he⟩).trans (if_pos hn)

theorem laneLock_few {lanes : BitVec 9} (h : (s.m.port' p).st = .down) (he : (s.m.port' p).enable = true)
    (hn : (goodLanes lanes).length < 4) : Does (.laneLock p lanes) s (s.m.setPort p { s.m.port' p with lanes := lanes }) :=
  (if_pos ⟨h, he⟩).trans (if_neg (not_le.2 hn))

theorem bringUpTimeout_falls (h : (s.m.port' p).st = .training) :
    let m := passTo ((s.m.port' p).since + 10000000) s.m
    Does (.bringUpTimeout p) s (m.setPort p { s.m.port' p with st := .down, since := m.clk.elapsed }) := if_pos h

theorem bringUpRetry_waits (h : (s.m.port' p).st = .down) (he : (s.m.port' p).enable = true) :
    let m := passTo ((s.m.port' p).since + 100000000) s.m
    Does (.bringUpRetry p) s (m.setPort p { s.m.port' p with since := m.clk.elapsed }) := if_pos ⟨h, he⟩

/-! #### A lane that loses lock (R426, R427) -/

/-- A port that has lost a lane: what still holds lock, and the count. -/
def laneLost (lane : Nat) (q : Port) : Port :=
  { q with lanes := q.lanes &&& ~~~(BitVec.ofNat 9 (2 ^ lane)), cnt := { q.cnt with laneLoss := q.cnt.laneLoss + 1 } }

/-- A port whose spare has taken over the lane's share. -/
def spareTaken (lane : Nat) (q : Port) : Port :=
  { q with spareFor := BitVec.ofNat 4 lane, active := q.active.filter (· != lane) ++ [8], retraining := false }

/-- A port narrowed to its four lowest good lanes. -/
def narrowed (q : Port) : Port :=
  { q with st := .narrow, active := (goodLanes q.lanes).take 4, spareFor := 15, retraining := false }

/-- A narrow port that has taken the good lane `l` for the lost one. -/
def laneSwapped (lane l : Nat) (q : Port) : Port := { q with active := q.active.filter (· != lane) ++ [l] }

/-- Port `k` tells the far end of its lanes, and its time packets wait for a new measurement where they are followed. -/
theorem LinkKept.told (k : Nat) (msg : LinkMsg) (m : Module) : LinkKept j m (needRemeasure k (Machine.sendLink k msg m)) :=
  (LinkKept.sendLink k msg m).trans (.of_eff (eff_needRemeasure ..))

theorem narrowPort_narrows (hi : m.Inv) (hv : 2 ≤ (m.port' k).ver.toNat) (hg : 4 ≤ (goodLanes (m.port' k).lanes).length) :
    linkOf ((narrowPort k m).port' k) = linkOf (narrowed (m.port' k)) := by
  rw [show narrowPort k m = _ from if_pos (by simp [hv, hg])]
  exact linkOf_after_setPort hi ((LinkKept.told ..).trans (.of_eff (eff_evS ..)))

theorem narrowPort_down (hi : m.Inv) (h : ¬ (2 ≤ (m.port' k).ver.toNat ∧ 4 ≤ (goodLanes (m.port' k).lanes).length)) :
    linkOf ((narrowPort k m).port' k) = linkOf (downed m.clk.elapsed (m.port' k)) := by
  rw [show narrowPort k m = _ from if_neg (by simpa using h)]
  exact portGoDown_link hi k

/-- What the loss of a lane's lock makes of the port `q` (R422, R426, R427). -/
def LaneLossMoves (lane : Fin 9) (q x : Port) : Prop :=
  let left := q.lanes &&& ~~~(BitVec.ofNat 9 (2 ^ lane.val))
  x.lanes = left ∧ x.cnt.laneLoss = q.cnt.laneLoss + 1
  ∧ (lane.val ∉ q.active → x.st = q.st ∧ x.active = q.active)
  ∧ (q.st = .up → lane.val ∈ q.active →
      (lane.val < 8 → bit left 8 = true → q.spareFor = 15 →
        x.st = .up ∧ x.spareFor = BitVec.ofNat 4 lane.val ∧ x.active = q.active.filter (· != lane.val) ++ [8])
      ∧ (¬ (lane.val < 8 ∧ bit left 8 = true ∧ q.spareFor = 15) →
        (2 ≤ q.ver.toNat → 4 ≤ (goodLanes left).length → x.st = .narrow ∧ x.active = (goodLanes left).take 4)
        ∧ (¬ (2 ≤ q.ver.toNat ∧ 4 ≤ (goodLanes left).length) → x.st = .down)))
  ∧ (q.st = .narrow → lane.val ∈ q.active → (x.st = .down ↔ ∀ l ∈ goodLanes left, l ∈ q.active))

theorem LaneLossMoves.of_link (h : LaneLossMoves lane q x) (hl : linkOf y = linkOf x) : LaneLossMoves lane q y := by
  rw [eq_of_linkOf hl]
  exact h

theorem laneLost_moves (h : lane.val ∈ q.active → q.st ≠ .up ∧ q.st ≠ .narrow) : LaneLossMoves lane q (laneLost lane q) :=
  ⟨rfl, rfl, fun _ => ⟨rfl, rfl⟩, fun hs ha => absurd hs (h ha).1, fun hs ha => absurd hs (h ha).2⟩

theorem spareTaken_moves (hs : q.st = .up) (ha : lane.val ∈ q.active)
    (h : lane.val < 8 ∧ bit (laneLost lane q).lanes 8 = true ∧ q.spareFor = 15) :
    LaneLossMoves lane q (spareTaken lane (laneLost lane q)) :=
  ⟨rfl, rfl, fun hn => absurd ha hn, fun _ _ => ⟨fun _ _ _ => ⟨hs, rfl, rfl⟩, fun hn => absurd h hn⟩, fun hn => by simp [hs] at hn⟩

section
variable (hs : q.st = .up) (ha : lane.val ∈ q.active) (h : ¬ (lane.val < 8 ∧ bit (laneLost lane q).lanes 8 = true ∧ q.spareFor = 15))
include hs ha h

theorem narrowed_moves (hw : 2 ≤ q.ver.toNat ∧ 4 ≤ (goodLanes (laneLost lane q).lanes).length) :
    LaneLossMoves lane q (narrowed (laneLost lane q)) :=
  ⟨rfl, rfl, fun hn => absurd ha hn,
    fun _ _ => ⟨fun h1 h2 h3 => absurd ⟨h1, h2, h3⟩ h, fun _ => ⟨fun _ _ => ⟨rfl, rfl⟩, fun hn => absurd hw hn⟩⟩, fun hn => by simp [hs] at hn⟩

theorem downed_moves (now : Nat) (hw : ¬ (2 ≤ q.ver.toNat ∧ 4 ≤ (goodLanes (laneLost lane q).lanes).length)) :
    LaneLossMoves lane q (downed now (laneLost lane q)) :=
  ⟨rfl, rfl, fun hn => absurd ha hn,
    fun _ _ => ⟨fun h1 h2 h3 => absurd ⟨h1, h2, h3⟩ h, fun _ => ⟨fun h1 h2 => absurd ⟨h1, h2⟩ hw, fun _ => rfl⟩⟩, fun hn => by simp [hs] at hn⟩

end

section
variable (hs : q.st = .narrow) (ha : lane.val ∈ q.active)
include hs ha

theorem laneSwapped_moves {l : Nat} (hl : l ∈ goodLanes (laneLost lane q).lanes) (hn : l ∉ q.active) :
    LaneLossMoves lane q (laneSwapped lane l (laneLost lane q)) := by
  refine ⟨rfl, rfl, fun hn => absurd ha hn, fun hu => by simp [hs] at hu, fun _ _ => ⟨fun hd => ?_, fun h => absurd (h l hl) hn⟩⟩
  have hd : q.st = .down := hd
  simp [hs] at hd

theorem downed_moves_of_narrow (now : Nat) (hn : ∀ l ∈ goodLanes (laneLost lane q).lanes, l ∈ q.active) :
    LaneLossMoves lane q (downed now (laneLost lane q)) :=
  ⟨rfl, rfl, fun hn => absurd ha hn, fun hu => by simp [hs] at hu, fun _ _ => ⟨fun _ => hn, fun _ => rfl⟩⟩

end

section
variable (hi : s.m.Inv) (hb : bit (s.m.port' p).lanes lane = true)
include hi hb

/-- Where a port in use loses one of its lanes, it takes the spare, narrows or goes DOWN. -/
theorem laneLoss_of_up (hs : (s.m.port' p).st = .up) (ha : lane.val ∈ (s.m.port' p).active) :
    Completes (.laneLoss p lane) s fun m => LaneLossMoves lane (s.m.port' p) (m.port' p) := by
  obtain ⟨hi0, hp⟩ : PortIs p (· = laneLost lane (s.m.port' p)) (s.m.setPort p (laneLost lane (s.m.port' p))) := .setPort_self hi rfl
  have hu := ((if_pos hb).trans ((if_pos hs).trans (if_neg (by simpa using ha))) : exec (.laneLoss p lane) s = _)
  by_cases h : lane.val < 8 ∧ bit (laneLost lane (s.m.port' p)).lanes 8 = true ∧ (s.m.port' p).spareFor = 15
  · refine completes_of_done (hu.trans (if_pos ?_)) ((spareTaken_moves hs ha h).of_link ?_)
    · simp only [Bool.and_eq_true, decide_eq_true_eq, and_assoc]
      exact h
    · exact linkOf_after_setPort hi0 ((LinkKept.told ..).trans (.of_eff (eff_evS ..)))
  · refine completes_of_done (hu.trans (if_neg ?_)) ?_
    · simp only [Bool.and_eq_true, decide_eq_true_eq, and_assoc]
      exact h
    · by_cases hw : 2 ≤ (s.m.port' p).ver.toNat ∧ 4 ≤ (goodLanes (laneLost lane (s.m.port' p)).lanes).length
      · have hn := narrowPort_narrows (k := p) hi0
        rw [hp] at hn
        exact (narrowed_moves hs ha h hw).of_link (hn hw.1 hw.2)
      · have hn := narrowPort_down (k := p) hi0
        rw [hp] at hn
        exact (downed_moves hs ha h _ hw).of_link (hn hw)

/-- Where a narrow port loses one of its lanes, it takes another good one or goes DOWN. -/
theorem laneLoss_of_narrow (hs : (s.m.port' p).st = .narrow) (ha : lane.val ∈ (s.m.port' p).active) :
    Completes (.laneLoss p lane) s fun m => LaneLossMoves lane (s.m.port' p) (m.port' p) := by
  obtain ⟨hi0, hp⟩ : PortIs p (· = laneLost lane (s.m.port' p)) (s.m.setPort p (laneLost lane (s.m.port' p))) := .setPort_self hi rfl
  have hf (l : Nat) : l ∈ (goodLanes (laneLost lane (s.m.port' p)).lanes).filter (fun l => !(s.m.port' p).active.contains l) ↔
      l ∈ goodLanes (laneLost lane (s.m.port' p)).lanes ∧ l ∉ (s.m.port' p).active := by simp
  have hn : ¬ (laneLost lane (s.m.port' p)).st = .up := by
    rw [show (laneLost lane (s.m.port' p)).st = .narrow from hs]
    decide
  cases hr : (goodLanes (laneLost lane (s.m.port' p)).lanes).filter (fun l => !(s.m.port' p).active.contains l) with
  | cons l r =>
    obtain ⟨hl, hx⟩ := (hf l).1 (hr ▸ List.mem_cons_self)
    refine completes_of_done (m := needRemeasure p (sendLink p (.lanes (laneLost lane (s.m.port' p)).lanes 15)
      ((s.m.setPort p (laneLost lane (s.m.port' p))).setPort p (laneSwapped lane l (laneLost lane (s.m.port' p))))))
      ((if_pos hb).trans ((if_neg hn).trans ((if_pos hs).trans ((if_neg (by simpa using ha)).trans ?_))))
      ((laneSwapped_moves hs ha hl hx).of_link (linkOf_after_setPort hi0 (.told ..)))
    split
    next h =>
      obtain ⟨rfl, -⟩ := List.cons.inj (hr.symm.trans h)
      rfl
    next h => exact absurd (hr.symm.trans h) (List.cons_ne_nil l r)
  | nil =>
    have hd := portGoDown_link hi0 p
    rw [hp] at hd
    refine completes_of_done (m := portGoDown p (s.m.setPort p (laneLost lane (s.m.port' p))))
      ((if_pos hb).trans ((if_neg hn).trans ((if_pos hs).trans ((if_neg (by simpa using ha)).trans ?_))))
      ((downed_moves_of_narrow hs ha _ fun l hl => ?_).of_link hd)
    · split
      next h => exact absurd (hr.symm.trans h).symm (List.cons_ne_nil _ _)
      next => rfl
    · by_contra hx
      exact absurd (hr ▸ (hf l).2 ⟨hl, hx⟩) List.not_mem_nil

/-- A lane that carries no share, or that of a port that carries no traffic, is lost and counted alone. -/
theorem laneLoss_else (h : lane.val ∈ (s.m.port' p).active → (s.m.port' p).st ≠ .up ∧ (s.m.port' p).st ≠ .narrow) :
    Completes (.laneLoss p lane) s fun m => LaneLossMoves lane (s.m.port' p) (m.port' p) := by
  obtain ⟨-, hp⟩ : PortIs p (· = laneLost lane (s.m.port' p)) (s.m.setPort p (laneLost lane (s.m.port' p))) := .setPort_self hi rfl
  have he : exec (.laneLoss p lane) s = done s (s.m.setPort p (laneLost lane (s.m.port' p))) := by
    by_cases ha : lane.val ∈ (s.m.port' p).active
    · obtain ⟨h1, h2⟩ := h ha
      exact (if_pos hb).trans ((if_neg h1).trans (if_neg h2))
    · refine (if_pos hb).trans ?_
      dsimp only
      split
      · exact if_pos (by simpa using ha)
      · split
        · exact if_pos (by simpa using ha)
        · rfl
  refine completes_of_done he ?_
  rw [hp]
  exact laneLost_moves h

theorem laneLoss_completes : Completes (.laneLoss p lane) s fun m => LaneLossMoves lane (s.m.port' p) (m.port' p) := by
  by_cases ha : lane.val ∈ (s.m.port' p).active
  · cases hs : (s.m.port' p).st with
    | up => exact laneLoss_of_up hi hb hs ha
    | narrow => exact laneLoss_of_narrow hi hb hs ha
    | _ => exact laneLoss_else hi hb fun _ => by simp [hs]
  · exact laneLoss_else hi hb fun h => absurd h ha

end

/-! #### Light lost, silence and the end of a retraining (R422, R427, R430) -/

theorem lightLoss_completes (hi : s.m.Inv) : Completes (.lightLoss p) s fun m =>
    (m.port' p).lanes = 0 ∧ m.clk = s.m.clk
    ∧ (portUp (s.m.port' p) = true → (m.port' p).st = .down) ∧ (portUp (s.m.port' p) = false → (m.port' p).st = (s.m.port' p).st) := by
  obtain ⟨hi0, hp⟩ : PortIs p (· = { s.m.port' p with lanes := 0 }) (s.m.setPort p { s.m.port' p with lanes := 0 }) := .setPort_self hi rfl
  by_cases hu : portUp (s.m.port' p) = true
  · have hd := portGoDown_link hi0 p
    rw [hp] at hd
    have hd := eq_of_linkOf hd
    exact completes_of_done (if_pos hu) ⟨congrArg Port.lanes hd, (eff_portGoDown ..).same .clk (by decide), fun _ => congrArg Port.st hd,
      fun hn => by simp [hu] at hn⟩
  · exact completes_of_done (if_neg hu) ⟨by rw [hp], rfl, fun h => absurd h hu, fun _ => by rw [hp]⟩

theorem noFlitTimeout_completes (hi : s.m.Inv) (hu : portUp (s.m.port' p) = true) : Completes (.noFlitTimeout p) s fun m =>
    (m.port' p).st = .down ∧ m.clk = (passTo ((s.m.port' p).lastFlit + 10000) s.m).clk := by
  have hd := portGoDown_link ((eff_passTo ((s.m.port' p).lastFlit + 10000) s.m).keeps.inv hi) p
  exact completes_of_done (if_pos hu) ⟨congrArg Port.st (eq_of_linkOf hd), (eff_portGoDown ..).same .clk (by decide)⟩

theorem retrainDone_completes (hi : s.m.Inv) (hs : (s.m.port' p).st = .up) (hr : (s.m.port' p).retraining = true) :
    Completes (.retrainDone p) s fun m =>
      (m.port' p).st = .up ∧ (m.port' p).retraining = false ∧ (m.port' p).lanes = (s.m.port' p).lanes
      ∧ (m.port' p).eqLight = decide (s.m.pwr.loadBand ≤ 1) := by
  have hp (m : Module) : (calDueUpdate (needRemeasure p (ev 0x12 9 p 0 31 0 9 (marginRec 1 p m)))).port' p = m.port' p :=
    (port'_of_eff (eff_calDueUpdate ..)).trans <| (port'_of_eff (eff_needRemeasure ..)).trans <| (port'_of_eff (eff_ev ..)).trans <|
      port'_of_eff (eff_marginRec ..)
  refine completes_of_done (if_pos ⟨hs, hr⟩) ?_
  rw [hp, setPort_get _ _ _ (rising_port hi)]
  exact ⟨hs, rfl, rfl, rfl⟩

end

end Sys2Proof.Scope

section
open Sys2Proof Sys2Proof.Machine Sys2Proof.Scope

/-- Settles O26, by what each move leaves of the port's link, with what is discarded beside it. -/
theorem portsFollowLinkAndLanes : Obligations.PortsFollowLinkAndLanes := by
  constructor
  · intro s p hi
    exact ⟨portDisable_completes hi, portEnable_fromDisabled, portEnable_else, release_completes hi, release_else,
      fun _ h he => ⟨laneLock_trains h he, laneLock_few h he⟩, bringUpTimeout_falls, bringUpRetry_waits⟩
  · intro s p hi
    exact ⟨fun _ => laneLoss_completes hi, lightLoss_completes hi, noFlitTimeout_completes hi, retrainDone_completes hi⟩

end

/-! ### Bring-up (O27) -/

namespace Sys2Proof.Scope
open Sys2Proof.Machine Sys2Proof.Laws

variable {s : State} {m : Module} {j k p : Nat} {q : Port} {dev : W64} {nbr : BitVec 4} {lanes : BitVec 9} {trips : List W32}

/-! #### Ports that hear one neighbour (R429) -/

/-- The port hears the neighbour `dev`, its port `nbr`, and carries traffic or is quarantined (log entry 169). -/
def Hears (dev : W64) (nbr : BitVec 4) (q : Port) : Prop := (portUp q = true ∨ q.st = .quarantined) ∧ q.nbrDev = dev ∧ q.nbrPort = nbr

theorem Hears.of_link {x : Port} (hl : linkOf q = linkOf x) : Hears dev nbr q ↔ Hears dev nbr x := by
  rw [eq_of_linkOf hl]
  rfl

theorem mem_twins : k ∈ twins m p dev nbr ↔ k < 16 ∧ k ≠ p ∧ Hears dev nbr (m.port' k) := by
  simp [twins, Hears, and_assoc]

theorem LinkKept.quarantineTwin (h : j ≠ k) (p : Nat) (m : Module) : LinkKept j m (quarantineTwin p k m) := by
  unfold Machine.quarantineTwin
  dsimp only
  split
  · exact .refl m
  · exact (LinkKept.setPort_of_ne h _).trans ((LinkKept.dropRouted ..).trans (.of_eff (eff_ev ..)))

theorem quarantineTwin_quarantines (hi : m.Inv) (p k : Nat) : ((quarantineTwin p k m).port' k).st = .quarantined := by
  unfold quarantineTwin
  dsimp only
  split
  · assumption
  · exact congrArg Port.st (eq_of_linkOf (linkOf_after_setPort hi ((LinkKept.dropRouted ..).trans (.of_eff (eff_ev ..)))))

/-- Every port of the list is quarantined when all have had their turn. -/
theorem foldl_quarantineTwin (hi : m.Inv) {l : List Nat} (hk : k ∈ l) (p : Nat) :
    ((l.foldl (fun m k => quarantineTwin p k m) m).port' k).st = .quarantined := by
  refine foldl_establishes (I := Module.Inv) (P := fun m => (m.port' k).st = .quarantined) hk
    (fun b y _ hb => (eff_quarantineTwin p y b).keeps.inv hb) (fun b hb => quarantineTwin_quarantines hb p k) (fun b y _ hb hs => ?_) hi
  by_cases h : k = y
  · subst h
    exact quarantineTwin_quarantines hb p k
  · exact (congrArg Port.st (eq_of_linkOf ((LinkKept.quarantineTwin h p b).link hb))).trans hs

/-! #### The outcome (R422, R429) -/

/-- A port that takes its lanes but carries no traffic. -/
def quarantinedPort (q : Port) : Port := { takeLanes q with st := .quarantined }

/-- The port hears this module, or a neighbour that other ports hear. -/
def Misheard (m : Module) (p : Nat) (q : Port) : Prop := q.nbrDev = m.fused.devId ∨ twins m p q.nbrDev q.nbrPort ≠ []

theorem bringUpEnd_quarantines (hi : m.Inv) (h : Misheard m p q) : linkOf ((bringUpEnd p q m).port' p) = linkOf (quarantinedPort q)
    ∧ ∀ k ∈ twins m p q.nbrDev q.nbrPort, ((bringUpEnd p q m).port' k).st = .quarantined := by
  have hc : (decide (q.nbrDev = m.fused.devId) || !(twins m p q.nbrDev q.nbrPort).isEmpty) = true := by
    simpa [Misheard, List.isEmpty_iff] using h
  rw [show bringUpEnd p q m = _ from if_pos hc]
  constructor
  · exact linkOf_after_setPort hi ((LinkKept.clampThr ..).trans ((LinkKept.of_eff (eff_ev ..)).trans
      (.fold (.refl _) fun _ _ hx => .quarantineTwin (Ne.symm (mem_twins.1 hx).2.1) ..)))
  · intro k hk
    exact foldl_quarantineTwin ((eff_ev ..).keeps.inv ((eff_clampThr ..).keeps.inv ((eff_setPort ..).keeps.inv hi))) hk p

theorem bringUpEnd_takesLanes (hi : m.Inv) (h : ¬ Misheard m p q) : linkOf ((bringUpEnd p q m).port' p) = linkOf (takeLanes q) := by
  have hc : ¬ (decide (q.nbrDev = m.fused.devId) || !(twins m p q.nbrDev q.nbrPort).isEmpty) = true := by
    simpa [Misheard, List.isEmpty_iff] using h
  rw [show bringUpEnd p q m = _ from if_neg hc]
  split
  · exact linkOf_after_setPort hi ((LinkKept.of_eff (eff_ev ..)).trans (.clampThr ..))
  · exact linkOf_after_setPort hi (((LinkKept.of_eff (eff_ev ..)).trans (.of_eff (eff_evS ..))).trans (.clampThr ..))
  · exact linkOf_after_setPort hi (.of_eff (eff_ev ..))

/-! #### BRING_UP_COMPLETE (R423, R428) -/

/-- The module once the lanes, the delay and the identities have been exchanged at port `p`. -/
def exchanged (p : Nat) (lanes : BitVec 9) (n : Nat) (m : Module) : Module :=
  sendLink p (.discovery (recvLinks p n m).fused.devId p) (sendDelays p (sendLink p (.lanes lanes 15) (recvLinks p n m)))

/-- The margins are recorded, and the delay counts as measured. -/
def recorded (p : Nat) (m : Module) : Module := marginRec 1 p (remeasured p m)

/-- What a port knows at the end of its bring-up. -/
def broughtUp (m : Module) (lanes : BitVec 9) (far : BitVec 2) (delay : W32) (dev : W64) (nbr : BitVec 4) (q : Port) : Port :=
  { q with
    lanes := lanes, ver := pickVer q.verMax far, delay := delay, nbrDev := dev, nbrPort := nbr, nbrKnown := true
    farXoff := 0, vcs := q.vcs.map (fun x => (x.1, { x.2 with xoff := false }))
    eqLight := decide (m.pwr.loadBand ≤ 1), lastFlit := m.clk.elapsed, since := m.clk.elapsed }

theorem exec_bringUpComplete {p : Fin 16} (far : BitVec 2) (turn : W32) (dev : W64) (nbr : BitVec 4)
    (hs : (s.m.port' p).st = .training) (hn : 4 ≤ (goodLanes lanes).length) (ht : trips.length = 64) :
    let m := exchanged p lanes (trips.length + 2) s.m
    exec (.bringUpComplete p lanes far trips turn dev nbr) s = done s (calDueUpdate (bringUpEnd p
      (broughtUp m lanes far (oneWay trips turn) dev nbr (m.port' p)) (recorded p m))) :=
  (if_neg (not_not.2 ht)).trans (if_pos ⟨hs, hn⟩)

theorem eff_exchanged (p : Nat) (lanes : BitVec 9) (n : Nat) (m : Module) : Eff [.port, .out] m (exchanged p lanes n m) :=
  ((eff_recvLinks ..).mono rfl).trans ((eff_sendLink ..).trans ((eff_sendDelays ..).trans (eff_sendLink ..)))

theorem eff_recorded (p : Nat) (m : Module) : Eff [.beat, .mem, .hlt] m (recorded p m) :=
  .trans (b := remeasured p m) (.of_keeps (.of_core rfl) rfl) ((eff_marginRec ..).mono rfl)

theorem LinkKept.exchanged (p : Nat) (lanes : BitVec 9) (n : Nat) (m : Module) : LinkKept j m (exchanged p lanes n m) :=
  (LinkKept.recvLinks ..).trans ((LinkKept.sendLink ..).trans ((LinkKept.sendDelays ..).trans (.sendLink ..)))

/-- What the port knows stays with it, whether or not it carries traffic. -/
theorem known_of_link {x : Port} (h : linkOf x = linkOf (takeLanes q) ∨ linkOf x = linkOf (quarantinedPort q)) :
    x.delay = q.delay ∧ x.nbrDev = q.nbrDev ∧ x.nbrPort = q.nbrPort ∧ x.lanes = q.lanes ∧ x.ver = q.ver := by
  have ht := takeLanes_eq q
  have hq : quarantinedPort q = { q with st := .quarantined, active := (takeLanes q).active, spareFor := (takeLanes q).spareFor } :=
    congrArg (fun x : Port => { x with st := .quarantined }) ht
  rcases h with h | h
  · rw [ht] at h
    rw [eq_of_linkOf h]
    exact ⟨rfl, rfl, rfl, rfl, rfl⟩
  · rw [hq] at h
    rw [eq_of_linkOf h]
    exact ⟨rfl, rfl, rfl, rfl, rfl⟩

/-- A bring-up hears wrongly where the port hears this module, or a neighbour that another port hears. -/
theorem misheard_iff {p : Fin 16} {b : Module} (hf : b.fused = m.fused) (hk : ∀ k, linkOf (b.port' k) = linkOf (m.port' k)) :
    Misheard b p q ↔ (q.nbrDev = m.fused.devId ∨ ∃ k : Fin 16, k ≠ p ∧ Hears q.nbrDev q.nbrPort (m.port' k)) := by
  rw [Misheard, hf, ne_eq, List.eq_nil_iff_forall_not_mem]
  push Not
  refine or_congr Iff.rfl ⟨?_, ?_⟩
  · rintro ⟨k, ht⟩
    obtain ⟨h16, hne, hh⟩ := mem_twins.1 ht
    exact ⟨⟨k, h16⟩, fun e => hne (congrArg Fin.val e), (Hears.of_link (hk k)).1 hh⟩
  · rintro ⟨k, hne, hh⟩
    exact ⟨k, mem_twins.2 ⟨k.isLt, fun e => hne (Fin.ext e), (Hears.of_link (hk k)).2 hh⟩⟩

/-- What the end of a bring-up makes of the ports of `a`, with `q` what port `p` knows. -/
def BroughtUp (p : Fin 16) (q : Port) (a b : Module) : Prop :=
  let n := (goodLanes q.lanes).length; let same (k : Fin 16) : Prop := Hears q.nbrDev q.nbrPort (a.port' k)
  (b.port' p).delay = q.delay ∧ (b.port' p).nbrDev = q.nbrDev ∧ (b.port' p).nbrPort = q.nbrPort ∧ (b.port' p).lanes = q.lanes
  ∧ (b.port' p).ver = q.ver
  ∧ ((q.nbrDev = a.fused.devId ∨ ∃ k : Fin 16, k ≠ p ∧ same k) → (b.port' p).st = .quarantined)
  ∧ (∀ k : Fin 16, k ≠ p → same k → (b.port' k).st = .quarantined)
  ∧ (q.nbrDev ≠ a.fused.devId → (∀ k : Fin 16, k ≠ p → ¬ same k) →
      (8 ≤ n → (b.port' p).st = .up) ∧ (n < 8 → 2 ≤ q.ver.toNat → (b.port' p).st = .narrow)
      ∧ (n < 8 → q.ver.toNat < 2 → (b.port' p).st = .down))

theorem bringUpEnd_broughtUp {p : Fin 16} {b : Module} (hi : b.Inv) (hf : b.fused = m.fused)
    (hk : ∀ k, linkOf (b.port' k) = linkOf (m.port' k)) (hn : 4 ≤ (goodLanes q.lanes).length) : BroughtUp p q m (bringUpEnd p q b) := by
  have hm := misheard_iff (p := p) (q := q) hf hk
  by_cases h : Misheard b p q
  · obtain ⟨hl, hx⟩ := bringUpEnd_quarantines hi h
    obtain ⟨hd, hv, hb, ha, hr⟩ := known_of_link (.inr hl)
    have hs : ((bringUpEnd p q b).port' p).st = .quarantined := congrArg Port.st (eq_of_linkOf hl)
    refine ⟨hd, hv, hb, ha, hr, fun _ => hs, fun k hne hh => hx k ?_, fun h1 h2 => ?_⟩
    · exact mem_twins.2 ⟨k.isLt, fun e => hne (Fin.ext e), (Hears.of_link (hk k)).2 hh⟩
    · rcases hm.1 h with h3 | ⟨k, h3, h4⟩
      · exact absurd h3 h1
      · exact absurd h4 (h2 k h3)
  · have hl := bringUpEnd_takesLanes hi h
    obtain ⟨hd, hv, hb, ha, hr⟩ := known_of_link (.inl hl)
    have hs : ((bringUpEnd p q b).port' p).st = (takeLanes q).st := by rw [eq_of_linkOf hl]
    refine ⟨hd, hv, hb, ha, hr, fun h1 => absurd (hm.2 h1) h, fun k hne hh => absurd (hm.2 (.inr ⟨k, hne, hh⟩)) h, fun _ _ => ?_⟩
    rw [hs]
    exact ⟨takeLanes_up, fun h8 => takeLanes_narrow h8 hn, fun h8 h2 => takeLanes_down h8 (.inr h2)⟩

theorem bringUpComplete_completes {p : Fin 16} (far : BitVec 2) (turn : W32) (hi : s.m.Inv) (hs : (s.m.port' p).st = .training)
    (hn : 4 ≤ (goodLanes lanes).length) (ht : trips.length = 64) :
    Completes (.bringUpComplete p lanes far trips turn dev nbr) s (BroughtUp p { s.m.port' p with
      lanes := lanes, ver := pickVer (s.m.port' p).verMax far, delay := oneWay trips turn, nbrDev := dev, nbrPort := nbr } s.m) := by
  obtain ⟨m1, h1⟩ : ∃ m1, m1 = exchanged p lanes (trips.length + 2) s.m := ⟨_, rfl⟩
  have hx (j : Nat) : LinkKept j s.m m1 := h1 ▸ .exchanged ..
  have hk (j : Nat) : LinkKept j s.m (recorded p m1) := (hx j).trans (.of_eff (eff_recorded ..))
  have hf : (recorded p m1).fused = s.m.fused :=
    ((eff_recorded ..).same .fused (by decide)).trans (h1 ▸ (eff_exchanged ..).same .fused (by decide))
  have hv : (m1.port' p).verMax = (s.m.port' p).verMax := by rw [eq_of_linkOf ((hx p).link hi)]
  have hb := bringUpEnd_broughtUp (p := p) (q := broughtUp m1 lanes far (oneWay trips turn) dev nbr (m1.port' p))
    ((hk p).inv hi) hf (fun k => (hk k).link hi) hn
  refine completes_of_done (exec_bringUpComplete far turn dev nbr hs hn ht) ?_
  rw [← h1]
  generalize bringUpEnd p (broughtUp m1 lanes far (oneWay trips turn) dev nbr (m1.port' p)) (recorded p m1) = b at hb ⊢
  have hc (j : Nat) : (calDueUpdate b).port' j = b.port' j := port'_of_eff (eff_calDueUpdate ..)
  simpa only [BroughtUp, broughtUp, hv, hc] using hb

end Sys2Proof.Scope

section
open Sys2Proof Sys2Proof.Machine Sys2Proof.Scope

/-- Settles O27, by the two ends of a bring-up: one that hears wrongly quarantines, and any other takes the lanes that it can. -/
theorem bringUpDecidesThePortState : Obligations.BringUpDecidesThePortState :=
  fun _ _ _ far _ turn _ _ hi hs hn ht => bringUpComplete_completes far turn hi hs hn ht

end

/-! ### Flits, thresholds and congestion maps (O28) -/

namespace Sys2Proof.Scope
open Sys2Proof.Machine Sys2Proof.Laws

variable {s : State} {m : Module} {j k v : Nat} {q : Port} {f : Flit} {p : Fin 16}

/-! #### Flits that arrive (R433, R448, R469) -/

theorem cntUpd_inv (hi : m.Inv) (k : Nat) (g : PortCnt → PortCnt) : (cntUpd k g m).Inv := (eff_cntUpd ..).keeps.inv hi

theorem cntUpd_get (hi : m.Inv) (k : Nat) (g : PortCnt → PortCnt) :
    (cntUpd k g m).port' k = { m.port' k with cnt := g (m.port' k).cnt } := setPort_get m k _ (rising_port hi)

/-- A flit has been counted at port `k`. -/
def flitCounted (k : Nat) (m : Module) : Module := cntUpd k (fun x => { x with rx := x.rx + 1 }) m

theorem flitCounted_inv (hi : m.Inv) (k : Nat) : (flitCounted k m).Inv := cntUpd_inv hi k _

theorem flitCounted_get (hi : m.Inv) (k : Nat) :
    (flitCounted k m).port' k = { m.port' k with cnt := { (m.port' k).cnt with rx := (m.port' k).cnt.rx + 1 } } := cntUpd_get hi k _

/-- A good flit has been counted, and its XOFF vector has taken force. -/
def vectorTaken (k : Nat) (f : Flit) (m : Module) : Module :=
  (flitCounted k m).setPort k { (flitCounted k m).port' k with farXoff := f.xoff, lastFlit := m.clk.elapsed }

theorem vectorTaken_get (hi : m.Inv) (k : Nat) (f : Flit) : (vectorTaken k f m).port' k = { m.port' k with
    cnt := { (m.port' k).cnt with rx := (m.port' k).cnt.rx + 1 }, farXoff := f.xoff, lastFlit := m.clk.elapsed } := by
  rw [vectorTaken, setPort_get _ _ _ (rising_port (flitCounted_inv hi k)), flitCounted_get hi]

theorem eff_vectorTaken (k : Nat) (f : Flit) (m : Module) : Eff [.port] m (vectorTaken k f m) := (eff_cntUpd ..).trans (eff_setPort ..)

theorem receiveFlit_bad (h : flitCrcOk f = false) :
    receiveFlit k f m = cntUpd k (fun x => { x with crc := satAdd x.crc 1 }) (flitCounted k m) := if_pos (by simp [h])

/-- Flits that carry no packet's content end with their vector. -/
theorem receiveFlit_link (h : flitCrcOk f = true) (hk : f.kind = 0 ∨ f.kind = 5 ∨ f.kind = 7) : receiveFlit k f m = vectorTaken k f m := by
  refine (if_neg (by simp [h])).trans (if_pos ?_)
  rcases hk with hk | hk | hk <;> simp [hk]

theorem recvMore_orphan (h : ∀ c, (vcOf (m.port' k) v).pkts.getLast? = some c → c.ended = true) :
    recvMore k v f m = cntUpd k (fun c => { c with orphan := satAdd c.orphan 1 }) m := by
  unfold recvMore
  dsimp only
  split
  · rfl
  next c hc => exact if_pos (h c hc)

theorem receiveFlit_orphan (hi : m.Inv) (h : flitCrcOk f = true) (hk : f.kind = 2 ∨ f.kind = 3 ∨ f.kind = 6)
    (hu : portUp (m.port' k) = true) (hb : bufferUsed (m.port' k) + flitSize f ≤ 524288)
    (hc : ∀ c, (vcOf (m.port' k) (2 * f.tc.toNat + b2n f.vcb)).pkts.getLast? = some c → c.ended = true) :
    receiveFlit k f m = cntUpd k (fun c => { c with orphan := satAdd c.orphan 1 }) (vectorTaken k f m) := by
  have hn : f.kind.toNat = 2 ∨ f.kind.toNat = 3 ∨ f.kind.toNat = 6 := by rcases hk with hk | hk | hk <;> simp [hk]
  have h1 : ¬ (f.kind.toNat = 0 || f.kind.toNat = 5 || f.kind.toNat = 7 || !portUp ((flitCounted k m).port' k)) = true := by
    rw [flitCounted_get hi]
    have : portUp { m.port' k with cnt := { (m.port' k).cnt with rx := (m.port' k).cnt.rx + 1 } } = true := hu
    simp only [this, Bool.not_true, Bool.or_false, Bool.or_eq_true, decide_eq_true_eq]
    omega
  have h2 : ¬ bufferUsed ((flitCounted k m).port' k) + flitSize f > 524288 := by
    rw [flitCounted_get hi]
    exact not_lt.2 hb
  refine (if_neg (by simp [h])).trans ((if_neg h1).trans ((if_neg h2).trans ?_))
  have ho : recvMore k (2 * f.tc.toNat + b2n f.vcb) f (vectorTaken k f m) = _ := recvMore_orphan (by rw [vectorTaken_get hi]; exact hc)
  split
  · omega
  · omega
  · omega
  · omega
  · exact ho

theorem exec_flitReceive (hh : f.hdr.isSome ↔ (f.kind = 1 ∨ f.kind = 4)) (hl : f.content.length ≤ 256)
    (h1 : (s.m.port' p).st ≠ .disabled) (h2 : (s.m.port' p).st ≠ .down) : exec (.flitReceive p f) s = done s (receiveFlit p f s.m) :=
  (if_neg (by simp only [ne_eq, propext hh, not_true_eq_false, false_or]; omega)).trans (if_neg (by simp [h1, h2]))

section
variable (he : exec (.flitReceive p f) s = done s (receiveFlit p f s.m)) (hi : s.m.Inv)
include he hi

theorem flitReceive_bad (h : flitCrcOk f = false) : let q := s.m.port' p
    Completes (.flitReceive p f) s fun m =>
      m.port' p = { q with cnt := { q.cnt with rx := q.cnt.rx + 1, crc := satAdd q.cnt.crc 1 } } ∧ SameBut [.port] s.m m := by
  rw [receiveFlit_bad h] at he
  refine completes_of_done he ⟨?_, ((eff_cntUpd ..).trans (eff_cntUpd ..)).same⟩
  rw [cntUpd_get (flitCounted_inv hi p), flitCounted_get hi]

theorem flitReceive_link (h : flitCrcOk f = true) (hk : f.kind = 0 ∨ f.kind = 5 ∨ f.kind = 7) : let q := s.m.port' p
    Completes (.flitReceive p f) s fun m =>
      m.port' p = { q with cnt := { q.cnt with rx := q.cnt.rx + 1 }, farXoff := f.xoff, lastFlit := s.m.clk.elapsed }
      ∧ SameBut [.port] s.m m := by
  rw [receiveFlit_link h hk] at he
  exact completes_of_done he ⟨vectorTaken_get hi p f, (eff_vectorTaken ..).same⟩

theorem flitReceive_orphan (h : flitCrcOk f = true) (hk : f.kind = 2 ∨ f.kind = 3 ∨ f.kind = 6) (hu : portUp (s.m.port' p) = true)
    (hb : bufferUsed (s.m.port' p) + flitSize f ≤ 524288)
    (hc : ∀ c, (vcOf (s.m.port' p) (2 * f.tc.toNat + b2n f.vcb)).pkts.getLast? = some c → c.ended = true) : let q := s.m.port' p
    Completes (.flitReceive p f) s fun m =>
      m.port' p = { q with cnt := { q.cnt with rx := q.cnt.rx + 1, orphan := satAdd q.cnt.orphan 1 }, farXoff := f.xoff,
                           lastFlit := s.m.clk.elapsed } ∧ SameBut [.port] s.m m := by
  rw [receiveFlit_orphan hi h hk hu hb hc] at he
  refine completes_of_done he ⟨?_, ((eff_vectorTaken ..).trans (eff_cntUpd ..)).same⟩
  rw [cntUpd_get ((eff_vectorTaken ..).keeps.inv hi), vectorTaken_get hi]

end

/-! #### Flits that leave (R432, R453) -/

theorem flitCrcOk_flitWithCrc (f : Flit) : flitCrcOk (flitWithCrc f) = true := decide_eq_true rfl

theorem PortIs.takeFlit {t : W64} (h : PortIs j (·.cnt.tx = t) m) (k v : Nat) (g : Grant) : PortIs j (·.cnt.tx = t) (takeFlit k v g m) := by
  cases g with
  | input src iv => exact h.setPort fun e => by subst e; exact h.holds
  | inj i x cr => exact h.setPort fun e => by subst e; exact h.holds

/-- A slot puts one flit on the fibre, after steps that send nothing. -/
theorem sendFlit_eq (hi : m.Inv) (k : Nat) : ∃ f b,
    sendFlit k m = putFlit k f b ∧ PortIs k (·.cnt.tx = (m.port' k).cnt.tx) b ∧ b.out = m.out := by
  unfold sendFlit
  extract_lets m1
  have h1 : PortIs k (·.cnt.tx = (m.port' k).cnt.tx) m1 ∧ m1.out = m.out := by
    dsimp only [m1]
    split
    · exact ⟨.setPort ⟨hi, rfl⟩ fun _ => rfl, rfl⟩
    · exact ⟨⟨hi, rfl⟩, rfl⟩
  split
  · exact ⟨_, m1, rfl, h1⟩
  next v f g d t _ =>
    have h2 := h1.1.takeFlit k v g
    exact ⟨_, _, rfl, h2.setPort fun _ => h2.holds, ((eff_takeFlit k v g m1).same .out (by decide)).trans h1.2⟩

theorem flitSend_completes (hi : s.m.Inv) (hu : portUp (s.m.port' p) = true) : Completes (.flitSend p) s fun m =>
    (∃ f : Flit, m.out = .flit p f :: s.m.out ∧ flitCrcOk f = true) ∧ (m.port' p).cnt.tx = (s.m.port' p).cnt.tx + 1
    ∧ SameBut [.port, .out] s.m m := by
  have he : exec (.flitSend p) s = done s (sendFlit p s.m) := if_pos hu
  obtain ⟨f, b, hf, hb, ho⟩ := sendFlit_eq hi p
  refine completes_of_done he ⟨?_, ?_, sameBut_of_exec he⟩
  · rw [hf, ← ho]
    exact ⟨_, rfl, flitCrcOk_flitWithCrc _⟩
  · rw [hf, ← hb.holds]
    exact congrArg (fun q : Port => q.cnt.tx) (cntUpd_get hb.inv p fun x => { x with tx := x.tx + 1 })

/-! #### A tail that never comes (R468) -/

theorem mem_truncated {c : InPkt} {l : List InPkt} (hc : c ∈ l) (ho : c.out < 16) :
    { c with ended := true, truncated := true, mark := true } ∈
      (l.map (fun d => if d = c then truncate c else d)).filter (fun d => !(d.out ≥ 16 && d.ended)) := by
  refine List.mem_filter.2 ⟨List.mem_map.2 ⟨c, hc, ?_⟩, by simp [ho]⟩
  rw [if_pos rfl, truncate, decide_eq_true ho]

theorem tailTimeout_completes {v : Fin 8} {c : InPkt} (hi : s.m.Inv) (h : stalledPkt (vcOf (s.m.port' p) v) = some c) : let q := s.m.port' p
    Completes (.tailTimeout p v) s fun m =>
      m.clk = (passTo (c.lastAt + max 1 q.tailTmo.toNat * 1000) s.m).clk ∧ (m.port' p).cnt.trunc = satAdd q.cnt.trunc 1
      ∧ (c.out < 16 → let c' : InPkt := { c with ended := true, truncated := true, mark := true }
          c' ∈ (vcOf (m.port' p) v).pkts) := by
  intro q
  obtain ⟨b, hb⟩ : ∃ b, b = passTo (c.lastAt + max 1 q.tailTmo.toNat * 1000) s.m := ⟨_, rfl⟩
  have hp : b.port' p = s.m.port' p := hb ▸ port'_of_eff (eff_passTo ..)
  have hib : b.Inv := hb ▸ (eff_passTo ..).keeps.inv hi
  have he : ∃ d, exec (.tailTimeout p v) s = done s (ev 0x12 6 p 2 31 0 d (cntUpd p (fun y => { y with trunc := satAdd y.trunc 1 })
      (b.setPort p (setVc (b.port' p) v { vcOf (b.port' p) v with pkts :=
        ((vcOf (b.port' p) v).pkts.map (fun d => if d = c then truncate c else d)).filter (fun d => !(d.out ≥ 16 && d.ended)) })))) := by
    subst hb
    refine ⟨pack [(c.hdr.srcChip.toNat, 32), (v.val, 0)], ?_⟩
    show execTailTimeout p v s = _
    simp only [execTailTimeout, h]
    rfl
  obtain ⟨d, he⟩ := he
  refine completes_of_done he ⟨?_, ?_⟩
  · rw [← hb]
    exact (eff_ev ..).same .clk (by decide)
  · rw [port'_of_eff (eff_ev ..), cntUpd_get ((eff_setPort ..).keeps.inv hib), setPort_get _ _ _ (rising_port hib), hp]
    refine ⟨rfl, fun ho => ?_⟩
    refine (congrArg VcSt.pkts (vcOf_setVc_self (s.m.port' p) v _)).symm ▸ ?_
    exact mem_truncated (List.mem_of_find?_eq_some h) ho

/-! #### Every channel of every port (R470) -/

theorem vcOf_foldl_setVc (g : VcSt → VcSt) (n : Nat) (q : Port) (v : Nat) :
    vcOf ((List.range n).foldl (fun p v => setVc p v (g (vcOf p v))) q) v = if v < n then g (vcOf q v) else vcOf q v := by
  induction n with
  | zero => simp
  | succ n ih =>
    rw [List.range_succ, List.foldl_append, List.foldl_cons, List.foldl_nil]
    obtain rfl | hv := eq_or_ne v n
    · rw [vcOf_setVc_self, ih, if_neg (by omega), if_pos (by omega)]
    · rw [vcOf_setVc_of_ne _ _ hv, ih]
      simp only [show v < n + 1 ↔ v < n by omega]

/-- Where every port is set in turn, each is set from what it was. -/
theorem foldl_setPort (g : Port → Port) (hi : m.Inv) (n : Nat) : let b := (List.range n).foldl (fun m k => m.setPort k (g (m.port' k))) m
    b.Inv ∧ ∀ k, b.port' k = if k < n then g (m.port' k) else m.port' k := by
  induction n with
  | zero => exact ⟨hi, fun k => by simp⟩
  | succ n ih =>
    obtain ⟨hb, hp⟩ := ih
    rw [List.range_succ, List.foldl_append, List.foldl_cons, List.foldl_nil]
    refine ⟨(eff_setPort ..).keeps.inv hb, fun k => ?_⟩
    obtain rfl | hk := eq_or_ne k n
    · rw [setPort_get _ _ _ (rising_port hb), hp, if_neg (by omega), if_pos (by omega)]
    · rw [setPort_get_ne _ _ _ _ hk, hp]
      simp only [show k < n + 1 ↔ k < n by omega]

theorem vcOf_allVcs (hi : m.Inv) (g : VcSt → VcSt) (p : Fin 16) (v : Fin 8) :
    vcOf ((allVcs g m).port' p) v = g (vcOf (m.port' p) v) := by
  obtain ⟨-, hp⟩ := foldl_setPort (fun q => (List.range 8).foldl (fun p v => setVc p v (g (vcOf p v))) q) hi 16
  rw [show (allVcs g m).port' p = _ from (hp p).trans (if_pos p.isLt), vcOf_foldl_setVc, if_pos v.isLt]

/-- A channel as the beat before `b` ends: counted once. -/
def counted (b : Beat) (m : Module) (x : VcSt) : VcSt := if m.beat.xoffAt = some b then x else countXoff x

theorem vcOf_beatXoff (hi : m.Inv) (b : Beat) (p : Fin 16) (v : Fin 8) :
    vcOf ((beatXoff b m).port' p) v = counted b m (vcOf (m.port' p) v) := by
  unfold beatXoff counted
  split
  · rfl
  · exact vcOf_allVcs (m := { m with beat := { m.beat with xoffAt := some b } }) hi countXoff p v

theorem beatXoff_beat (b : Beat) (m : Module) : (beatXoff b m).beat = { m.beat with xoffAt := some b } := by
  unfold beatXoff
  split
  next h => rw [← h]
  · exact (eff_allVcs ..).same .beat (by decide)

theorem allVcs_inv (hi : m.Inv) (g : VcSt → VcSt) : (allVcs g m).Inv := (eff_allVcs ..).keeps.inv hi

theorem allVcs_beat (g : VcSt → VcSt) (m : Module) : (allVcs g m).beat = m.beat := (eff_allVcs ..).same .beat (by decide)

/-! #### The end of a window (R470) -/

/-- Every port notes the window `k` as its last. -/
def windowNoted (k : Nat) (m : Module) : Module :=
  (List.range 16).foldl (fun m i => m.setPort i { m.port' i with cmapWin := BitVec.ofNat 48 k }) m

/-- Window `k` is the last one that ended. -/
def windowEnded (k : Nat) (m : Module) : Module := { m with beat := { m.beat with cmapAt := some k } }

theorem closeWindow_eq (k : Nat) (m : Module) : closeWindow k m = windowNoted k (allVcs rollVc (windowEnded k m)) := rfl

theorem windowNoted_beat (k : Nat) (m : Module) : (windowNoted k m).beat = m.beat :=
  foldl_keeps (f := fun m : Module => m.beat) (g := fun m i => m.setPort i { m.port' i with cmapWin := BitVec.ofNat 48 k })
    (fun _ _ _ => rfl) m

theorem windowNoted_port (hi : m.Inv) (k : Nat) (p : Fin 16) :
    (windowNoted k m).port' p = { m.port' p with cmapWin := BitVec.ofNat 48 k } := by
  obtain ⟨-, hp⟩ := foldl_setPort (fun q => { q with cmapWin := BitVec.ofNat 48 k }) hi 16
  exact (hp p).trans (if_pos p.isLt)

theorem closeWindow_beat (k : Nat) (m : Module) : (closeWindow k m).beat = { m.beat with cmapAt := some k } := by
  rw [closeWindow_eq, windowNoted_beat, allVcs_beat, windowEnded]

theorem closeWindow_port (hi : m.Inv) (k : Nat) (p : Fin 16) : let q := (closeWindow k m).port' p
    q.cmapWin = BitVec.ofNat 48 k ∧ ∀ v : Fin 8, vcOf q v = rollVc (vcOf (m.port' p) v) := by
  rw [closeWindow_eq, windowNoted_port (allVcs_inv (m := windowEnded k m) hi rollVc)]
  refine ⟨rfl, fun v => ?_⟩
  generalize ha : (allVcs rollVc (windowEnded k m)).port' p = a
  have hv : vcOf a v = rollVc (vcOf (m.port' p) v) := ha ▸ vcOf_allVcs (m := windowEnded k m) hi rollVc p v
  exact hv

/-! #### The start of a beat (R470) -/

theorem passToBeat_beat (b : Beat) (m : Module) :
    (passToBeat b m).beat.xoffAt = m.beat.xoffAt ∧ (passToBeat b m).beat.cmapAt = m.beat.cmapAt
    ∧ (passToBeat b m).beat.cmapBy = m.beat.cmapBy := by
  have h : (drainTrace (min (nsToBeat b m) m.dbg.buffer.length) m).beat = m.beat := (eff_drainTrace ..).same .beat (by decide)
  exact ⟨(congrArg BeatBlk.xoffAt h :), (congrArg BeatBlk.cmapAt h :), (congrArg BeatBlk.cmapBy h :)⟩

/-- The module as beat `b` starts: time has passed to it, and the beat before it has been counted. -/
def beatStarted (b : Beat) (m : Module) : Module := beatXoff b (passToBeat b m)

theorem eff_beatStarted (b : Beat) (m : Module) : Eff ([.port] ++ timeParts) m (beatStarted b m) :=
  ((eff_passToBeat ..).mono rfl).trans ((eff_beatXoff ..).mono rfl)

theorem beatStarted_clk (b : Beat) (m : Module) : (beatStarted b m).clk = (passToBeat b m).clk := (eff_beatXoff ..).same .clk (by decide)

theorem vcOf_beatStarted (hi : m.Inv) (b : Beat) (p : Fin 16) (v : Fin 8) :
    vcOf ((beatStarted b m).port' p) v = counted b m (vcOf (m.port' p) v) := by
  rw [beatStarted, vcOf_beatXoff ((eff_passToBeat ..).keeps.inv hi), port'_of_eff (eff_passToBeat ..), counted, counted,
    (passToBeat_beat b m).1]

theorem beatStarted_beat (b : Beat) (m : Module) :
    (beatStarted b m).beat.cmapAt = m.beat.cmapAt ∧ (beatStarted b m).beat.cmapBy = m.beat.cmapBy := by
  obtain ⟨-, ha, hb⟩ := passToBeat_beat b m
  rw [beatStarted, beatXoff_beat]
  exact ⟨ha, hb⟩

/-- Beat `b` is the first of a window, and the window before it has not ended. -/
def Closes (b : Beat) (m : Module) : Prop := b.toNat % 1024 = 0 ∧ b ≠ 0 ∧ m.beat.cmapAt ≠ some (b.toNat / 1024 - 1)

/-- What the sample of beat `b` samples: the channels, in a new window where the beat is its first. -/
def windowed (b : Beat) (c : Bool) (m : Module) : Module := if c then closeWindow (b.toNat / 1024 - 1) m else m

theorem windowed_true (b : Beat) (m : Module) : windowed b true m = closeWindow (b.toNat / 1024 - 1) m := if_pos rfl

theorem windowed_false (b : Beat) (m : Module) : windowed b false m = m := if_neg Bool.false_ne_true

theorem sampleBeat_eq (b : Beat) (m : Module) : ∃ c, (c = true ↔ Closes b m) ∧ sampleBeat b m =
    let n := allVcs sampleVc (windowed b c m)
    { n with beat := { n.beat with sampleAt := some b, cmapBy := c || n.beat.cmapBy } } := by
  refine ⟨b.toNat % 1024 = 0 && b.toNat != 0 && m.beat.cmapAt != some (b.toNat / 1024 - 1), ?_, rfl⟩
  simp [Closes, and_assoc, BitVec.toNat_eq]

theorem eff_windowed (b : Beat) (c : Bool) (m : Module) : Eff [.beat, .port] m (windowed b c m) := by
  cases c
  · rw [windowed_false]
    exact .refl m
  · rw [windowed_true]
    exact eff_closeWindow ..

theorem windowed_cmapBy (b : Beat) (c : Bool) (m : Module) : (windowed b c m).beat.cmapBy = m.beat.cmapBy := by
  cases c
  · rw [windowed_false]
  · rw [windowed_true, closeWindow_beat]

/-- The start of a beat: the beat before it is counted, its first sample opens a window, and every channel is sampled. -/
theorem cmapSample_completes (hi : s.m.Inv) : let b := nextMultiple 1 s.m.beat.sampleAt s.m
    Completes .cmapSample s fun m => m.clk = (passToBeat b s.m).clk ∧ m.beat.sampleAt = some b
      ∧ (m.beat.cmapBy = true ↔ Closes b s.m ∨ s.m.beat.cmapBy = true)
      ∧ ∀ (p : Fin 16) (v : Fin 8), let x := counted b s.m (vcOf (s.m.port' p) v)
          (Closes b s.m → vcOf (m.port' p) v = sampleVc (rollVc x)) ∧ (¬ Closes b s.m → vcOf (m.port' p) v = sampleVc x) := by
  intro b
  obtain ⟨m0, h0⟩ : ∃ m0, m0 = beatStarted b s.m := ⟨_, rfl⟩
  have hi0 : m0.Inv := h0 ▸ (eff_beatStarted ..).keeps.inv hi
  obtain ⟨hca, hcb⟩ : m0.beat.cmapAt = s.m.beat.cmapAt ∧ m0.beat.cmapBy = s.m.beat.cmapBy := h0 ▸ beatStarted_beat b s.m
  have h1 (p : Fin 16) (v : Fin 8) : vcOf (m0.port' p) v = counted b s.m (vcOf (s.m.port' p) v) := h0 ▸ vcOf_beatStarted hi b p v
  have hk0 : m0.clk = (passToBeat b s.m).clk := h0 ▸ beatStarted_clk ..
  have he : exec .cmapSample s = done s (sampleBeat b m0) := h0 ▸ rfl
  clear h0
  obtain ⟨c, hc, hs⟩ := sampleBeat_eq b m0
  have hc : c = true ↔ Closes b s.m := by rw [hc, Closes, Closes, hca]
  have hw := eff_windowed b c m0
  obtain ⟨n, hn⟩ : ∃ n, n = allVcs sampleVc (windowed b c m0) := ⟨_, rfl⟩
  have hnk : n.clk = m0.clk := hn ▸ ((eff_allVcs ..).same .clk (by decide)).trans (hw.same .clk (by decide))
  have hnb : n.beat = (windowed b c m0).beat := hn ▸ (eff_allVcs ..).same .beat (by decide)
  have hv (p : Fin 16) (v : Fin 8) : vcOf (n.port' p) v = sampleVc (vcOf ((windowed b c m0).port' p) v) :=
    hn ▸ vcOf_allVcs (hw.keeps.inv hi0) sampleVc p v
  rw [hs, ← hn] at he
  clear hs hn
  refine completes_of_done he ⟨hnk.trans hk0, rfl, ?_, fun p v => ⟨fun h => (hv p v).trans ?_, fun h => (hv p v).trans ?_⟩⟩
  · show (c || n.beat.cmapBy) = true ↔ _
    rw [hnb, windowed_cmapBy, hcb, Bool.or_eq_true, hc]
  · rw [hc.2 h, windowed_true, (closeWindow_port hi0 _ p).2, h1]
  · rw [Bool.eq_false_iff.2 (mt hc.1 h), windowed_false, h1]

theorem cmapWindowEnd_closed (h : s.m.beat.cmapBy = true) :
    Does .cmapWindowEnd s { s.m with beat := { s.m.beat with cmapBy := false } } := if_pos h

theorem cmapWindowEnd_completes (hi : s.m.Inv) (h : s.m.beat.cmapBy = false) :
    let k := nextWindow s.m; let b : Beat := BitVec.ofNat 48 ((k + 1) * 1024)
    Completes .cmapWindowEnd s fun m => m.beat.cmapAt = some k ∧ m.clk = (passToBeat b s.m).clk
      ∧ ∀ p : Fin 16, (m.port' p).cmapWin = BitVec.ofNat 48 k ∧ ∀ v : Fin 8,
          vcOf (m.port' p) v = rollVc (counted b s.m (vcOf (s.m.port' p) v)) := by
  intro k b
  have he : exec .cmapWindowEnd s = done s (closeWindow k (beatStarted b s.m)) := if_neg (by simp [h])
  refine completes_of_done he ⟨?_, ?_, fun p => ?_⟩
  · rw [closeWindow_beat]
  · exact ((eff_closeWindow ..).same .clk (by decide)).trans (beatStarted_clk ..)
  · obtain ⟨hw, hv⟩ := closeWindow_port ((eff_beatStarted b s.m).keeps.inv hi) k p
    exact ⟨hw, fun v => (hv v).trans (congrArg rollVc (vcOf_beatStarted hi b p v))⟩

/-! #### Thresholds (R450) -/

/-- The port with the thresholds that a write sets. -/
def thresholdsSet (v : Nat) (val : W64) (q : Port) : Port :=
  setVc q v (xoffUpdate { vcOf q v with off := fld val 16 10, on := fld val 0 10 })

/-- The write breaks the rules of the thresholds: ON at or above OFF, or a sum of OFF beyond what the headroom leaves. -/
def ThresholdsBad (v : Nat) (val : W64) (q : Port) : Prop :=
  fld val 16 10 ≤ fld val 0 10 ∨ 512 - headroom q.delay < offSum (thresholdsSet v val q)

theorem nutFcThrWrite_ignored {v : Fin 8} {val : W64} (h : ThresholdsBad v val (s.m.port' p)) : let q := s.m.port' p
    Does (.nutFcThrWrite p v val) s (s.m.setPort p { q with cnt := { q.cnt with fcIgn := q.cnt.fcIgn + 1 } }) := if_pos h

theorem nutFcThrWrite_sets {v : Fin 8} {val : W64} (h : ¬ ThresholdsBad v val (s.m.port' p)) :
    Does (.nutFcThrWrite p v val) s (s.m.setPort p (thresholdsSet v val (s.m.port' p))) := if_neg h

end Sys2Proof.Scope

section
open Sys2Proof Sys2Proof.Machine Sys2Proof.Scope

/-- Settles O28, by what each kind of flit leaves of its port, and by what the start of a beat and the end of a window make of every
channel. -/
theorem flitsThresholdsAndCongestionMaps : Obligations.FlitsThresholdsAndCongestionMaps := by
  constructor
  · intro s p hi
    refine ⟨fun f hh hl h1 h2 => ?_, flitSend_completes hi, fun v c => tailTimeout_completes hi⟩
    have he := exec_flitReceive hh hl h1 h2
    exact ⟨flitReceive_bad he hi, flitReceive_link he hi, flitReceive_orphan he hi⟩
  · intro s hi
    exact ⟨fun p v val => ⟨nutFcThrWrite_ignored, nutFcThrWrite_sets⟩, cmapSample_completes hi, cmapWindowEnd_closed,
      cmapWindowEnd_completes hi, fun _ => rfl⟩

end

/-! ### Arcades (O33, O34, O35) -/

namespace Sys2Proof.Scope
open Sys2Proof.Machine Sys2Proof.Laws

variable {m m' : Module} {l : List Part} {a : Nat} {o : ArcOp} {f : Phase}

theorem rising_arc (h : m.Inv) : rising m.arc = true := by
  have hc := h.1
  simp only [Module.canonical, Bool.and_eq_true] at hc
  simp [hc]

theorem arc'_of_eff (h : Eff l m m') (hl : Part.arc ∉ l := by decide) : m'.arc' a = m.arc' a :=
  congrArg (nget Arc.init · a) (h.same .arc hl)

theorem vote_of_eff (h : Eff l m m') (hl : Part.vote ∉ l := by decide) : m'.vote = m.vote := h.same .vote hl

theorem clk_of_eff (h : Eff l m m') (hl : Part.clk ∉ l := by decide) : m'.clk = m.clk := h.same .clk hl

theorem setArc_arc' (hi : m.Inv) (x : Arc) : (m.setArc a x).arc' a = x := setArc_get m a x (rising_arc hi)

/-! #### An operation in a phase (R492, R495) -/

theorem setArcOp_arc' (hi : m.Inv) (x : Option ArcOp) :
    (setArcOp a x m).arc' a = { m.arc' a with op := x, lastProgress := m.clk.elapsed } := setArc_arc' hi _

theorem arcEnded_arc' (hi : m.Inv) (part opId : Nat) : (arcEnded a part opId m).arc' a =
    { m.arc' a with op := none, ended := ((part, opId) :: (m.arc' a).ended).take 64, lastProgress := m.clk.elapsed } := setArc_arc' hi _

/-- The phase an operation is in has not ended: its DATA has not left, or bytes are still to come (R495). -/
def PhaseOpen (o : ArcOp) (f : Phase) : Prop := f.dst ≠ none ∧ o.sent = false ∨ o.got < phaseBytes o f

/-- An operation whose phase has not ended, and for which READY of that phase has not come, waits. -/
theorem arcRun_waits (ho : (m.arc' a).op = some o) (hf : opPhase o = some f) (hr : f.num ∉ o.readies) (hw : PhaseOpen o f) (n : Nat) :
    arcRun a n m = m := by
  have hd : (!o.sent && f.dst.isSome && o.readies.contains f.num) = false := by simp [hr]
  have he : ((f.dst.isNone || o.sent) && decide (o.got ≥ phaseBytes o f)) = false := by
    obtain ⟨hs, hn⟩ | hg := hw
    · simp [hs, hn]
    · simp [Nat.not_le.2 hg]
  cases n with
  | zero => rfl
  | succ n =>
    unfold arcRun
    simp only [ho, hf, hd, he, Bool.false_eq_true, if_false]

theorem arcGo_waits (ho : (m.arc' a).op = some o) (hf : opPhase o = some f) (hr : f.num ∉ o.readies) (hw : PhaseOpen o f) :
    arcGo a m = m := by
  unfold arcGo
  simp only [ho]
  exact arcRun_waits ho hf hr hw _

/-- What a stop for `code` leaves of an operation's Arcade and the counts (R495, R496). -/
structure ArcStopped (a code : Nat) (o : ArcOp) (f : Phase) (m m' : Module) : Prop where
  op : (m'.arc' a).op = none
  timeouts : (m'.arc' a).timeouts = if code = 1 then (m.arc' a).timeouts + 1 else (m.arc' a).timeouts
  errLast : (m'.arc' a).errLast = arcErrWord (arOpId o.desc).toNat f.num code
  count : count m' o.desc.part o.desc.ctx 7 a = count m o.desc.part o.desc.ctx 7 a + 1

theorem arcStop_stops (hi : m.Inv) (code : Nat) (ho : (m.arc' a).op = some o) (hf : opPhase o = some f) :
    ArcStopped a code o f m (arcStop a code m) := by
  unfold arcStop
  simp -zeta only [ho, hf]
  extract_lets d ph m1 m2 x m3
  have h1 : Eff [.mem, .flt, .vst, .hlt, .cor, .pci, .tray, .dbg, .out] m m1 := Eff.fold (.refl m) fun _ _ => eff_undefRange ..
  have h2 : Eff [.arc] m1 m2 := eff_arcEnded ..
  have h3 : Eff [.arc] m2 m3 := eff_setArc ..
  have h4 := eff_ev 0x14 code a 4 d.part d.ctx (arcErrWord (arOpId d).toNat f.num 0) m3
  have h5 := eff_complete 7 a d true (ev 0x14 code a 4 d.part d.ctx (arcErrWord (arOpId d).toNat f.num 0) m3)
  have hi1 : m1.Inv := h1.keeps.inv hi
  have hx : x = _ := arcEnded_arc' hi1 d.part (arOpId d).toNat
  have hm3 : m3.arc' a = _ := setArc_arc' (h2.keeps.inv hi1) _
  have hm : (complete 7 a d true (ev 0x14 code a 4 d.part d.ctx (arcErrWord (arOpId d).toNat f.num 0) m3)).arc' a = _ :=
    (arc'_of_eff h5).trans ((arc'_of_eff h4).trans hm3)
  refine ⟨?_, ?_, ?_, ?_⟩
  · rw [hm, hx]
  · rw [hm, hx, arc'_of_eff h1]
  · rw [hm]
  · rw [count_complete, count_of_eff h4, count_of_eff h3, count_of_eff h2, count_of_eff h1]

end Sys2Proof.Scope

/-! ### The Arcade's timers and counters (O35) -/

namespace Sys2Proof.Scope
open Sys2Proof.Machine Sys2Proof.Laws

variable {s : State} {m : Module}

/-! #### A phase that lasts too long (R495, R502) -/

theorem nfind_filter_self {α : Type} (l : List (Nat × α)) (k : Nat) : nfind (l.filter fun x => x.1 != k) k = none := by
  induction l with
  | nil => rfl
  | cons x r ih =>
    obtain ⟨k', v⟩ := x
    by_cases h : k' = k
    · simp [h, ih]
    · simp [nfind, h, ih]

/-- What the end of a partition's vote leaves of the vote unit. -/
theorem voteEnd_vote (p : Nat) (n : Beat) (failed : Bool) (res : W32) (ph size : Nat) (m : Module) :
    (voteEnd p n failed res ph size m).vote = { m.vote with
      running := m.vote.running.filter fun x => x.1 != p
      lastProgress := m.clk.elapsed
      ended := ((p, n.toNat % 2 ^ 32) :: m.vote.ended).take 64
      lastStep := nset (false, 0) m.vote.lastStep p (failed, n)
      lastRes := nset (0, 0) m.vote.lastRes p ((beatNow m).setWidth 32, res) } := by
  unfold voteEnd
  extract_lets m1 v lo m2
  split
  · exact (vote_of_eff (eff_voteFailed ..)).trans (vote_of_eff (eff_ev ..))
  · exact (vote_of_eff (eff_voteDone ..)).trans (vote_of_eff (eff_ev ..))

/-- A running vote that fails where no other waits for its turn. -/
theorem voteFail_vote {p : Nat} {o : VoteOp} (ho : nfind m.vote.running p = some o) (hq : nget [] m.vote.queued p = []) :
    nfind (voteFail p m).vote.running p = none
    ∧ (voteFail p m).vote.lastStep = nset (false, 0) m.vote.lastStep p (true, o.step) := by
  unfold voteFail
  simp -zeta only [ho]
  extract_lets ph
  have hv := voteEnd_vote p o.step true o.value ph o.cfg.size m
  generalize voteEnd p o.step true o.value ph o.cfg.size m = m1 at hv
  have hn : voteNext p m1 = m1 := by
    rw [voteNext, hv]
    simp only [hq]
    rfl
  rw [hn, hv]
  exact ⟨nfind_filter_self .., rfl⟩

theorem exec_phaseTimeout_op {a : Fin 2} {o : ArcOp} (p : Fin 16) (ho : (s.m.arc' a).op = some o) :
    exec (.phaseTimeout (some a) p) s = done s (arcStop a 1 (passTo (o.startAt + o.limit * 1024) s.m)) := by
  show execPhaseTimeout (some a) p s = _
  simp only [execPhaseTimeout, ho]

theorem exec_phaseTimeout_vote {p : Fin 16} {o : VoteOp} (ho : nfind s.m.vote.running p = some o) :
    exec (.phaseTimeout none p) s = done s (voteFail p (passTo (o.startAt + o.limit * 1024) s.m)) := by
  show execPhaseTimeout none p s = _
  simp only [execPhaseTimeout, ho]

theorem phaseTimeout_stops {a : Fin 2} {o : ArcOp} {f : Phase} (hi : s.m.Inv) (p : Fin 16) (ho : (s.m.arc' a).op = some o)
    (hf : opPhase o = some f) : Completes (.phaseTimeout (some a) p) s fun m =>
      (m.arc' a).op = none ∧ (m.arc' a).timeouts = (s.m.arc' a).timeouts + 1
      ∧ (m.arc' a).errLast = arcErrWord (arOpId o.desc).toNat f.num 1
      ∧ m.clk = (passTo (o.startAt + o.limit * 1024) s.m).clk
      ∧ count m o.desc.part o.desc.ctx 7 a = count s.m o.desc.part o.desc.ctx 7 a + 1 := by
  have hp := eff_passTo (o.startAt + o.limit * 1024) s.m
  have h := arcStop_stops (hp.keeps.inv hi) 1 ((congrArg Arc.op (arc'_of_eff hp)).trans ho) hf
  refine completes_of_done (exec_phaseTimeout_op p ho) ⟨h.op, ?_, h.errLast, clk_of_eff (eff_arcStop ..), ?_⟩
  · rw [h.timeouts, if_pos rfl, arc'_of_eff hp]
  · rw [h.count, count_of_eff hp]

theorem phaseTimeout_fails {p : Fin 16} {o : VoteOp} (ho : nfind s.m.vote.running p = some o) (hq : nget [] s.m.vote.queued p = []) :
    Completes (.phaseTimeout none p) s fun m =>
      nfind m.vote.running p = none ∧ m.vote.lastStep = nset (false, 0) s.m.vote.lastStep p (true, o.step)
      ∧ m.clk = (passTo (o.startAt + o.limit * 1024) s.m).clk := by
  have hv := vote_of_eff (eff_passTo (o.startAt + o.limit * 1024) s.m)
  obtain ⟨hr, hl⟩ := voteFail_vote (m := passTo (o.startAt + o.limit * 1024) s.m) (by rwa [hv]) (by rwa [hv])
  exact completes_of_done (exec_phaseTimeout_vote ho) ⟨hr, hl.trans (by rw [hv]), clk_of_eff (eff_voteFail ..)⟩

/-! #### A READY held too long (R493) -/

theorem earlyDropped_arc' (hi : m.Inv) (a : Nat) :
    (earlyDropped a m).arc' a = { m.arc' a with earlyDrop := satAdd (m.arc' a).earlyDrop 1 } := setArc_arc' hi _

/-- The READY held longest expires where no VOTE packet of Arcade 0 has waited longer. -/
theorem exec_earlyReadyExpiry_ready {a : Fin 2} {e : Early} {r : List Early} (he : (s.m.arc' a).early = e :: r)
    (hv : a.val = 0 → ∀ v ∈ s.m.vote.early.head?, e.at_ ≤ v.at_) :
    let m := passTo (e.at_ + 65536 * 1024) s.m
    exec (.earlyReadyExpiry a) s = done s (earlyDropped a (m.setArc a { m.arc' a with early := r })) := by
  have hw : ∀ v ∈ (if a.val = 0 then s.m.vote.early else []).head?, e.at_ ≤ v.at_ := by
    split
    next h0 => exact hv h0
    next => simp
  show execEarlyReadyExpiry a s = _
  unfold execEarlyReadyExpiry
  simp only [he]
  cases hq : (if a.val = 0 then s.m.vote.early else []) with
  | nil => rfl
  | cons f q =>
    have hle : e.at_ ≤ f.at_ := hw f (by rw [hq]; rfl)
    exact if_neg (Nat.not_lt.2 hle)

theorem earlyReadyExpiry_drops {a : Fin 2} {e : Early} {r : List Early} (hi : s.m.Inv) (he : (s.m.arc' a).early = e :: r)
    (hv : a.val = 0 → ∀ v ∈ s.m.vote.early.head?, e.at_ ≤ v.at_) : Completes (.earlyReadyExpiry a) s fun m =>
      m.arc' a = { s.m.arc' a with early := r, earlyDrop := satAdd (s.m.arc' a).earlyDrop 1 }
      ∧ m.clk = (passTo (e.at_ + 65536 * 1024) s.m).clk := by
  have hp := eff_passTo (e.at_ + 65536 * 1024) s.m
  have hs := eff_setArc (passTo (e.at_ + 65536 * 1024) s.m) a
    { (passTo (e.at_ + 65536 * 1024) s.m).arc' a with early := r }
  refine completes_of_done (exec_earlyReadyExpiry_ready he hv) ⟨?_, rfl⟩
  rw [earlyDropped_arc' ((hp.keeps.trans hs.keeps).inv hi), setArc_arc' (hp.keeps.inv hi), arc'_of_eff hp]

end Sys2Proof.Scope

section
open Sys2Proof Sys2Proof.Machine Sys2Proof.Scope

/-- Settles O35, by what a stop leaves of an Arcade, what the end of a vote leaves of the vote unit, and what a READY that expires
leaves of those held. -/
theorem arcadeTimersAndCounters : Obligations.ArcadeTimersAndCounters := by
  intro s a hi
  exact ⟨fun p _ _ ho hf => phaseTimeout_stops hi p ho hf, fun _ _ ho hq => phaseTimeout_fails ho hq,
    fun _ _ he hv => earlyReadyExpiry_drops hi he hv, rfl⟩

end

/-! ### ARCADE and VOTE packets (O34) -/

namespace Sys2Proof.Scope
open Sys2Proof.Machine Sys2Proof.Laws

variable {s : State} {m : Module} {a : Nat} {o : ArcOp} {f : Phase} {k : Pkt} (diff : Bool)

/-! #### An ARCADE packet that arrives (R485, R491) -/

/-- The OP_ID, the phase and the kind that an ARCADE packet names. -/
abbrev pktOpId (k : Pkt) : Nat := fld k.hdr.aux 32 32
abbrev pktPhase (k : Pkt) : Nat := fld k.hdr.aux 16 15
abbrev pktKind (k : Pkt) : Nat := fld k.hdr.aux 14 2

/-- The partition and the OP_ID that a packet names. -/
abbrev pktKey (k : Pkt) : Nat × Nat := (k.hdr.dstPart.toNat, pktOpId k)

/-- An ARCADE packet has crossed to its half, and its bytes are counted there. -/
def arcArrived (k : Pkt) (m : Module) : Module :=
  let m := corridor k.via (pktHalf k) (256 * flitCount k.hdr.len.toNat) m
  let x := m.arc' (pktHalf k)
  m.setArc (pktHalf k) { x with rx := x.rx + BitVec.ofNat 64 k.payload.length, lastProgress := m.clk.elapsed }

theorem eff_arcArrived (k : Pkt) (m : Module) : Eff [.cor, .arc] m (arcArrived k m) :=
  ((eff_corridor ..).mono rfl).trans ((eff_setArc ..).mono rfl)

theorem arcArrived_clk (k : Pkt) (m : Module) : (arcArrived k m).clk = m.clk := clk_of_eff (eff_arcArrived k m)

/-- The Arcade that a packet comes to, with the packet's bytes counted. -/
def arcRx (k : Pkt) (m : Module) : Arc :=
  { m.arc' (pktHalf k) with
    rx := (m.arc' (pktHalf k)).rx + BitVec.ofNat 64 k.payload.length, lastProgress := m.clk.elapsed }

theorem arcArrived_arc' (hi : m.Inv) (k : Pkt) : (arcArrived k m).arc' (pktHalf k) = arcRx k m := by
  have hc : Eff [.cor] m _ := eff_corridor k.via (pktHalf k) (256 * flitCount k.hdr.len.toNat) m
  refine (setArc_arc' (hc.keeps.inv hi) _).trans ?_
  rw [arcRx, arc'_of_eff hc, clk_of_eff hc]

/-- Where no operation runs, a READY of one that has not ended is held, and anything else is late. -/
theorem arcPacket_idle (ho : (m.arc' (pktHalf k)).op = none) : arcPacket k diff m =
    if pktKind k = 1 ∧ pktKey k ∉ (m.arc' (pktHalf k)).ended then holdReady (pktHalf k) k (arcArrived k m)
    else arcLate (pktHalf k) (arcArrived k m) := by
  unfold arcPacket
  extract_lets h a opId ph kind m1 x m2
  have hx : x = m.arc' a := arc'_of_eff (eff_corridor ..)
  have hm : m2 = arcArrived k m := rfl
  clear_value m2
  subst hm
  simp [hx, ho, a, kind, opId, h]

/-- A packet of the operation that runs. -/
theorem arcPacket_running (ho : (m.arc' (pktHalf k)).op = some o) (hp : o.desc.part = k.hdr.dstPart.toNat)
    (hn : (arOpId o.desc).toNat = pktOpId k) (hf : opPhase o = some f) : arcPacket k diff m =
    if pktKind k = 1 then
      if pktPhase k < f.num ∨ pktPhase k ∈ o.readies then arcLate (pktHalf k) (arcArrived k m)
      else arcGo (pktHalf k) (setArcOp (pktHalf k) (some { o with readies := pktPhase k :: o.readies }) (arcArrived k m))
    else if pktKind k = 0 ∧ pktPhase k = f.num then arcRecv (pktHalf k) o f k diff (arcArrived k m)
    else arcLate (pktHalf k) (arcArrived k m) := by
  unfold arcPacket
  extract_lets h a opId ph kind m1 x m2
  have hx : x = m.arc' a := arc'_of_eff (eff_corridor ..)
  have hm : m2 = arcArrived k m := rfl
  clear_value m2
  subst hm
  simp [hx, ho, hp, hn, hf, a, kind, ph, opId, h]

/-! #### READY held or taken, and what is late (R493, R494) -/

theorem arcLate_arc' (hi : m.Inv) (a : Nat) : (arcLate a m).arc' a = { m.arc' a with latePkt := satAdd (m.arc' a).latePkt 1 } :=
  setArc_arc' hi _

theorem holdReady_holds (hi : m.Inv) (h : (m.arc' a).early.length < 64) (k : Pkt) : (holdReady a k m).arc' a =
    { m.arc' a with early := (m.arc' a).early ++ [{ pkt := k, at_ := m.clk.elapsed }] } := by
  unfold holdReady
  dsimp only
  rw [if_pos h, setArc_arc' hi]

theorem holdReady_drops (hi : m.Inv) (h : 64 ≤ (m.arc' a).early.length) (k : Pkt) : (holdReady a k m).arc' a =
    { m.arc' a with earlyDrop := satAdd (m.arc' a).earlyDrop 1 } := by
  unfold holdReady
  dsimp only
  rw [if_neg (Nat.not_lt.2 h), arc'_of_eff (eff_ev ..), earlyDropped_arc' hi]

/-! #### DATA (R492, R496) -/

/-- The values of an operation with those that a packet of DATA brings. -/
def takenVals (o : ArcOp) (f : Phase) (k : Pkt) : NMap W64 :=
  let t := arDtype o.desc
  let z := wireBytes t f.narrow
  (List.range (k.payload.length / z)).foldl (fun v i =>
    let e := f.rLo + k.hdr.addr.toNat / z + i
    nset 0 v e (takeVal t f.how f.narrow (nget 0 v e) (le k.payload (z * i) z))) o.vals

/-- The place and the length of a packet's DATA are whole elements within the phase. -/
def DataFits (o : ArcOp) (f : Phase) (k : Pkt) : Prop :=
  let z := wireBytes (arDtype o.desc) f.narrow
  k.payload.length % z = 0 ∧ k.hdr.addr.toNat % z = 0 ∧ k.hdr.addr.toNat + k.payload.length ≤ phaseBytes o f

/-- DATA beyond the bytes of its phase stops the operation. -/
theorem arcRecv_stops (h : phaseBytes o f < o.got + k.payload.length) : arcRecv a o f k diff m = arcStop a 2 m := by
  unfold arcRecv
  exact if_pos (by simp [h])

/-- DATA that does not complete its phase, before READY of that phase has come, is taken and no more. -/
theorem arcRecv_takes (hi : m.Inv) (hd : DataFits o f k) (hg : o.got + k.payload.length < phaseBytes o f) (hf : opPhase o = some f)
    (hr : f.num ∉ o.readies) :
    ((arcRecv a o f k diff m).arc' a).op = some { o with got := o.got + k.payload.length, vals := takenVals o f k } := by
  obtain ⟨hn, hz, hl⟩ := hd
  unfold arcRecv
  extract_lets d t z n off need cnt vals m1 m2 x m3 m5 m4
  have hok : ¬ (decide (o.got + n > need) || decide (off + n > need) || n % z != 0 || off % z != 0) = true := by
    simp only [Bool.or_eq_true, decide_eq_true_eq, bne_iff_ne, not_or, not_not, gt_iff_lt, Nat.not_lt]
    exact ⟨⟨⟨hg.le, hl⟩, hn⟩, hz⟩
  rw [if_neg hok]
  have h1 : Eff [.arc] m m1 := eff_setArcOp ..
  have h2 := eff_arcStore a d (f.how < 2) vals (f.rLo + off / z) (f.rLo + off / z + cnt) m1
  have hi2 : m2.Inv := (h1.keeps.trans h2.keeps).inv hi
  have ho2 : (m2.arc' a).op = some { o with vals := vals, got := o.got + n } :=
    congrArg Arc.op ((arc'_of_eff h2).trans (setArcOp_arc' hi _))
  have hm3 : m3.arc' a = { x with adds := x.adds + BitVec.ofNat 64 cnt } := setArc_arc' hi2 _
  have hc : m4.arc' a = (if f.how < 2 then m3 else m2).arc' a := by
    dsimp only [m4]
    split
    · split
      · split
        · exact (arc'_of_eff (eff_mismatch ..)).trans (arc'_of_eff (eff_compared ..))
        · exact arc'_of_eff (eff_compared ..)
      · rfl
    · rfl
  have ho4 : (m4.arc' a).op = some { o with vals := vals, got := o.got + n } := by
    rw [hc]
    split
    · rw [hm3]
      exact ho2
    · exact ho2
  rw [arcGo_waits (f := f) ho4 hf hr (.inr hg), ho4]
  rfl

/-! #### The command ARCADE -/

theorem exec_arcade_malformed (hf : firstOf 0x10 s.m = some k) (hk : arcOk k = false) :
    exec (.arcade diff) s = done s (taken k s.m) := by
  show execArcade diff s = _
  rw [execArcade, takeTy_of_first hf]
  simp [hk]

theorem exec_arcade_first (hf : firstOf 0x10 s.m = some k) (hk : arcOk k = true) :
    exec (.arcade diff) s = done s (arcPacket k diff (taken k s.m)) := by
  show execArcade diff s = _
  rw [execArcade, takeTy_of_first hf]
  simp [hk]

section
variable (hi : s.m.Inv) (hf : firstOf 0x10 s.m = some k) (hk : arcOk k = true)
include hi hf hk

theorem arcade_held (ho : (s.m.arc' (pktHalf k)).op = none) (h1 : pktKind k = 1) (he : pktKey k ∉ (s.m.arc' (pktHalf k)).ended)
    (hl : (s.m.arc' (pktHalf k)).early.length < 64) : Completes (.arcade diff) s fun m => m.arc' (pktHalf k) =
      { arcRx k s.m with early := (s.m.arc' (pktHalf k)).early ++ [{ pkt := k, at_ := s.m.clk.elapsed }] } := by
  have hx := arcArrived_arc' (m := taken k s.m) hi k
  refine completes_of_done (exec_arcade_first diff hf hk) ?_
  rw [arcPacket_idle (m := taken k s.m) diff ho, if_pos ⟨h1, he⟩,
    holdReady_holds ((eff_arcArrived k (taken k s.m)).keeps.inv hi) (by rw [hx]; exact hl), hx, arcArrived_clk]
  rfl

theorem arcade_dropped (ho : (s.m.arc' (pktHalf k)).op = none) (h1 : pktKind k = 1) (he : pktKey k ∉ (s.m.arc' (pktHalf k)).ended)
    (hl : 64 ≤ (s.m.arc' (pktHalf k)).early.length) : Completes (.arcade diff) s fun m => m.arc' (pktHalf k) =
      { arcRx k s.m with earlyDrop := satAdd (s.m.arc' (pktHalf k)).earlyDrop 1 } := by
  have hx := arcArrived_arc' (m := taken k s.m) hi k
  refine completes_of_done (exec_arcade_first diff hf hk) ?_
  rw [arcPacket_idle (m := taken k s.m) diff ho, if_pos ⟨h1, he⟩,
    holdReady_drops ((eff_arcArrived k (taken k s.m)).keeps.inv hi) (by rw [hx]; exact hl), hx]
  rfl

/-- A packet that is neither READY of an operation to come nor of the operation that runs is counted as late. -/
theorem arcade_late (hl : arcPacket k diff (taken k s.m) = arcLate (pktHalf k) (arcArrived k (taken k s.m))) :
    Completes (.arcade diff) s fun m => m.arc' (pktHalf k) =
      { arcRx k s.m with latePkt := satAdd (s.m.arc' (pktHalf k)).latePkt 1 } := by
  refine completes_of_done (exec_arcade_first diff hf hk) ?_
  rw [hl, arcLate_arc' ((eff_arcArrived k (taken k s.m)).keeps.inv hi), arcArrived_arc' (m := taken k s.m) hi]
  rfl

theorem arcade_idle_late (ho : (s.m.arc' (pktHalf k)).op = none) (h : pktKind k ≠ 1 ∨ pktKey k ∈ (s.m.arc' (pktHalf k)).ended) :
    Completes (.arcade diff) s fun m => m.arc' (pktHalf k) =
      { arcRx k s.m with latePkt := satAdd (s.m.arc' (pktHalf k)).latePkt 1 } :=
  arcade_late diff hi hf hk ((arcPacket_idle (m := taken k s.m) diff ho).trans (if_neg fun hc => h.elim (· hc.1) hc.2))

/-! A packet of the operation that runs. -/

variable (ho : (s.m.arc' (pktHalf k)).op = some o) (hp : o.desc.part = k.hdr.dstPart.toNat) (hn : (arOpId o.desc).toNat = pktOpId k)
  (hph : opPhase o = some f)
include ho hp hn hph

/-- READY of a later phase is noted. -/
theorem arcade_ready (h1 : pktKind k = 1) (hl : f.num < pktPhase k) (hr : pktPhase k ∉ o.readies) (hc : f.num ∉ o.readies)
    (hs : o.sent = false) (hd : f.dst ≠ none) : Completes (.arcade diff) s fun m =>
      (m.arc' (pktHalf k)).op = some { o with readies := pktPhase k :: o.readies } := by
  refine completes_of_done (exec_arcade_first diff hf hk) ?_
  rw [arcPacket_running (m := taken k s.m) diff ho hp hn hph, if_pos h1, if_neg (not_or.2 ⟨by omega, hr⟩)]
  have hi' : (arcArrived k (taken k s.m)).Inv := (eff_arcArrived k (taken k s.m)).keeps.inv hi
  have hop := congrArg Arc.op (setArcOp_arc' (a := pktHalf k) hi' (some { o with readies := pktPhase k :: o.readies }))
  rw [arcGo_waits (f := f) hop hph (by simp [hc, hl.ne]) (.inl ⟨hd, hs⟩), hop]

/-- DATA of the phase entered, with bytes still to come, is added to the values. -/
theorem arcade_data (h0 : pktKind k = 0) (he : pktPhase k = f.num) (hd : DataFits o f k)
    (hg : o.got + k.payload.length < phaseBytes o f) (hr : f.num ∉ o.readies) : Completes (.arcade diff) s fun m =>
      (m.arc' (pktHalf k)).op = some { o with got := o.got + k.payload.length, vals := takenVals o f k } := by
  refine completes_of_done (exec_arcade_first diff hf hk) ?_
  rw [arcPacket_running (m := taken k s.m) diff ho hp hn hph, if_neg (by omega), if_pos ⟨h0, he⟩]
  exact arcRecv_takes diff ((eff_arcArrived k (taken k s.m)).keeps.inv hi) hd hg hph hr

/-- DATA beyond the bytes of the phase entered stops the operation. -/
theorem arcade_tooLong (h0 : pktKind k = 0) (he : pktPhase k = f.num) (hg : phaseBytes o f < o.got + k.payload.length) :
    Completes (.arcade diff) s fun m =>
      (m.arc' (pktHalf k)).op = none ∧ (m.arc' (pktHalf k)).errLast = arcErrWord (pktOpId k) (pktPhase k) 2
      ∧ count m o.desc.part o.desc.ctx 7 (pktHalf k) = count s.m o.desc.part o.desc.ctx 7 (pktHalf k) + 1 := by
  have ha := eff_arcArrived k (taken k s.m)
  have hop := congrArg Arc.op (arcArrived_arc' (m := taken k s.m) hi k)
  have h := arcStop_stops (ha.keeps.inv hi) 2 (hop.trans ho) hph
  refine completes_of_done (exec_arcade_first diff hf hk) ?_
  rw [arcPacket_running (m := taken k s.m) diff ho hp hn hph, if_neg (by omega), if_pos ⟨h0, he⟩, arcRecv_stops diff hg]
  exact ⟨h.op, h.errLast.trans (by rw [hn, he]), h.count.trans (congrArg (· + 1) (count_of_eff (a := taken k s.m) ha))⟩

/-- DATA of another phase is late. -/
theorem arcade_running_late (h1 : pktKind k ≠ 1) (hd : pktKind k ≠ 0 ∨ pktPhase k ≠ f.num) :
    Completes (.arcade diff) s fun m => m.arc' (pktHalf k) =
      { arcRx k s.m with latePkt := satAdd (s.m.arc' (pktHalf k)).latePkt 1 } := by
  refine arcade_late diff hi hf hk ?_
  rw [arcPacket_running (m := taken k s.m) diff ho hp hn hph, if_neg h1, if_neg fun hc => hd.elim (· hc.1) (· hc.2)]

end

/-! #### The command VOTE (R501) -/

theorem exec_vote_malformed (hf : firstOf 0x11 s.m = some k) (hk : voteOk k = false) :
    exec (.vote diff) s = done s (taken k s.m) := by
  show execVote diff s = _
  rw [execVote, takeTy_of_first hf]
  simp [hk]

/-- A VOTE packet has crossed to wing A. -/
def voteArrived (k : Pkt) (m : Module) : Module := corridor k.via 0 (256 * flitCount k.hdr.len.toNat) m

theorem exec_vote_first (hf : firstOf 0x11 s.m = some k) (hk : voteOk k = true) :
    exec (.vote diff) s = done s (votePacket k diff (voteArrived k (taken k s.m))) := by
  show execVote diff s = _
  rw [execVote, takeTy_of_first hf]
  simp [hk, voteArrived]

/-- Where no vote of its partition runs, a packet of a vote that has ended is late. -/
theorem votePacket_late (hi : m.Inv) (hr : nfind m.vote.running k.hdr.dstPart.toNat = none) (he : pktKey k ∈ m.vote.ended) :
    (votePacket k diff m).arc' 0 = { m.arc' 0 with latePkt := satAdd (m.arc' 0).latePkt 1 }
    ∧ (votePacket k diff m).vote.early = m.vote.early := by
  have hl : votePacket k diff m = arcLate 0 { m with vote := { m.vote with lastProgress := m.clk.elapsed } } := by
    unfold votePacket
    simp [hr, he]
  rw [hl]
  exact ⟨arcLate_arc' (m := { m with vote := { m.vote with lastProgress := m.clk.elapsed } }) hi 0, rfl⟩

/-- Any other is held while fewer than 64 are. -/
theorem votePacket_held (hr : nfind m.vote.running k.hdr.dstPart.toNat = none) (he : pktKey k ∉ m.vote.ended)
    (hl : m.vote.early.length < 64) : votePacket k diff m = { m with vote := { m.vote with
      lastProgress := m.clk.elapsed, early := m.vote.early ++ [{ pkt := k, at_ := m.clk.elapsed }] } } := by
  unfold votePacket
  simp [hr, he, hl]

section
variable (hf : firstOf 0x11 s.m = some k) (hk : voteOk k = true) (hr : nfind s.m.vote.running k.hdr.dstPart.toNat = none)
include hf hk hr

theorem vote_late (hi : s.m.Inv) (he : pktKey k ∈ s.m.vote.ended) : Completes (.vote diff) s fun m =>
    m.arc' 0 = { s.m.arc' 0 with latePkt := satAdd (s.m.arc' 0).latePkt 1 } ∧ m.vote.early = s.m.vote.early := by
  have hc : Eff [.cor] (taken k s.m) (voteArrived k (taken k s.m)) := eff_corridor ..
  have hv : (voteArrived k (taken k s.m)).vote = (taken k s.m).vote := vote_of_eff hc
  have hx : (voteArrived k (taken k s.m)).arc' 0 = (taken k s.m).arc' 0 := arc'_of_eff hc
  obtain ⟨ha, hn⟩ := votePacket_late diff (hc.keeps.inv hi) (by rwa [hv]) (by rwa [hv])
  exact completes_of_done (exec_vote_first diff hf hk) ⟨ha.trans (by rw [hx]; rfl), hn.trans (by rw [hv]; rfl)⟩

theorem vote_held (he : pktKey k ∉ s.m.vote.ended) (hl : s.m.vote.early.length < 64) : Completes (.vote diff) s fun m =>
    m.vote.early = s.m.vote.early ++ [{ pkt := k, at_ := s.m.clk.elapsed }] ∧ m.vote.running = s.m.vote.running := by
  have hc : Eff [.cor] (taken k s.m) (voteArrived k (taken k s.m)) := eff_corridor ..
  have hv : (voteArrived k (taken k s.m)).vote = (taken k s.m).vote := vote_of_eff hc
  have ht : (voteArrived k (taken k s.m)).clk = (taken k s.m).clk := clk_of_eff hc
  refine completes_of_done (exec_vote_first diff hf hk) ?_
  rw [votePacket_held diff (by rwa [hv]) (by rwa [hv]) (by rwa [hv])]
  have hn : (voteArrived k (taken k s.m)).vote.running = s.m.vote.running := congrArg VoteUnit.running hv
  exact ⟨by rw [hv, ht]; rfl, hn⟩

end

end Sys2Proof.Scope

section
open Sys2Proof Sys2Proof.Machine Sys2Proof.Scope

/-- Settles O34, by what a packet is where no operation runs, what it is to the operation that runs, and what a VOTE packet is where no
vote runs. -/
theorem arcadePacketsAreTakenHeldOrLate : Obligations.ArcadePacketsAreTakenHeldOrLate := by
  intro s k diff hi first a x id ph kind p got m1
  refine ⟨exec_arcade_malformed diff, exec_vote_malformed diff, fun hf hk => ⟨fun ho => ?_, fun o f ho hp hn hph => ?_⟩,
    fun hf hk hr => ⟨vote_late diff hf hk hr hi, vote_held diff hf hk hr⟩⟩
  · exact ⟨arcade_held diff hi hf hk ho, arcade_dropped diff hi hf hk ho, arcade_idle_late diff hi hf hk ho⟩
  · exact ⟨arcade_ready diff hi hf hk ho hp hn hph, fun h0 he => ⟨fun hz ho' hl hg hr =>
      arcade_data diff hi hf hk ho hp hn hph h0 he ⟨hz, ho', hl⟩ hg hr, arcade_tooLong diff hi hf hk ho hp hn hph h0 he⟩,
      arcade_running_late diff hi hf hk ho hp hn hph⟩

end

/-! ### ALLREDUCE and VOTE_CFG (O33) -/

namespace Sys2Proof.Scope
open Sys2Proof.Machine Sys2Proof.Laws

variable {s : State} {m a b c : Module} {l : List Part}

/-! #### What recording an event leaves (R522, R531) -/

/-- Of the Vestibule, an event taints at most the step that it names. -/
theorem note_vst_or (e : Event) (m : Module) :
    (note e m).vst = m.vst ∨ (note e m).vst = (taint e.part.toNat e.step m).vst := by
  unfold note
  extract_lets p bad d m1 m2 hl m3 m4 m5
  have h4 : m4.vst = m2.vst := (eff_trayAlert _ m3).same .vst (by decide)
  have h5 : m5.vst = m4.vst := (eff_ringPut 0 e m4).same .vst (by decide)
  have h2 : m2.vst = m.vst ∨ m2.vst = (taint p e.step m).vst := by
    dsimp only [m2]
    split
    · exact .inr rfl
    · exact .inl rfl
  have h : (if p < 16 then ringPut (p + 1) e m5 else m5).vst = m2.vst := by
    split
    · exact ((eff_ringPut (p + 1) e m5).same .vst (by decide)).trans (h5.trans h4)
    · exact h5.trans h4
  rwa [h]

/-- A taint starts no SOLO replay. -/
theorem soloSlot_taint (hi : m.Inv) {p : Nat} (h : soloSlot m p = none) (q : Nat) (step : Beat) : soloSlot (taint q step m) p = none := by
  obtain rfl | hq := eq_or_ne p q
  · unfold soloSlot at h ⊢
    rw [List.find?_eq_none] at h ⊢
    intro y hy
    rw [show (taint p step m).vst' p = _ from setVst_get m p _ (rising_vst hi)] at hy
    obtain ⟨x, hx, rfl⟩ := List.mem_map.1 hy
    have hs := h x hx
    split <;> exact hs
  · exact (congrArg (fun v : Vst => v.slots.find? _) (setVst_get_ne m q _ p hq)).trans h

/-- What recording events leaves: the thermal trip, and no SOLO replay where none ran. -/
structure Noted (a b : Module) : Prop where
  inv : a.Inv → b.Inv
  trip : b.tray.thermTripN = a.tray.thermTripN
  solo : a.Inv → ∀ p, soloSlot a p = none → soloSlot b p = none

theorem Noted.refl (m : Module) : Noted m m := ⟨id, rfl, fun _ _ => id⟩

theorem Noted.trans (h : Noted a b) (k : Noted b c) : Noted a c :=
  ⟨k.inv ∘ h.inv, k.trip.trans h.trip, fun hi p => k.solo (h.inv hi) p ∘ h.solo hi p⟩

theorem Noted.ite {p : Prop} [Decidable p] (h : Noted a b) (k : Noted a c) : Noted a (if p then b else c) := by
  split <;> assumption

theorem Noted.of_vst (h : Eff l a b) (ht : b.tray.thermTripN = a.tray.thermTripN) (hv : b.vst = a.vst) : Noted a b :=
  ⟨h.keeps.inv, ht, fun _ p hp => by rwa [soloSlot, Module.vst', hv]⟩

theorem Noted.of_eff (h : Eff l a b) (hv : Part.vst ∉ l := by decide) (ht : Part.tray ∉ l := by decide) : Noted a b :=
  .of_vst h (congrArg Tray.thermTripN (h.same .tray ht)) (h.same .vst hv)

theorem thermTripN_of_evKeeps (h : EvKeeps a b) : b.tray.thermTripN = a.tray.thermTripN := by rw [h.tray]

theorem noted_ev (cls code unit sev part ctx : Nat) (d : W64) (m : Module) : Noted m (ev cls code unit sev part ctx d m) := by
  refine ⟨(eff_ev ..).keeps.inv, thermTripN_of_evKeeps (evKeeps_ev ..), fun hi p hp => ?_⟩
  have hv : (ev cls code unit sev part ctx d m).vst = (note (mkEvent cls code unit sev part ctx d m) m).vst := traceEv_vst ..
  rw [soloSlot, Module.vst', hv]
  obtain h | h := note_vst_or (mkEvent cls code unit sev part ctx d m) m
  · rwa [h]
  · rw [h]
    exact soloSlot_taint hi hp ..

theorem noted_descStart (cls idx : Nat) (d : Desc) (m : Module) : Noted m (descStart cls idx d m) :=
  .of_vst (eff_descStart ..) (thermTripN_of_evKeeps (evKeeps_descStart ..)) (traceEv_vst ..)

theorem noted_score (k cls unit : Nat) (m : Module) : Noted m (score k cls unit m) := by
  unfold score
  extract_lets h key cell u u1 cc t thr warn last doWarn doLast u2 m1 det m2
  have h1 : Noted m m1 := ⟨(Eff.upd (l := [.hlt]) (.refl m) rfl rfl rfl rfl rfl rfl rfl rfl rfl rfl rfl).keeps.inv, rfl, fun _ _ => id⟩
  have h2 : Noted m m2 := .ite (h1.trans (noted_ev ..)) h1
  exact .ite (h2.trans ((noted_ev ..).trans (noted_ev ..))) h2

/-! #### What a read of the Hall leaves (R380) -/

theorem noted_readSector (p tier off phys : Nat) (m : Module) : Noted m (readSector p tier off phys m).2.2 := by
  have h : Noted m (sectorBytes p tier off phys m).2 := .of_eff (eff_sectorBytes ..)
  unfold readSector
  dsimp only
  split
  · exact h.trans ((Noted.of_eff (eff_eccTally ..)).trans ((noted_ev ..).trans (noted_score ..)))
  · exact h

theorem noted_readParts (w p tier : Nat) (fresh : Byte) (r : List (Nat × Nat × Nat)) (m : Module) :
    Noted m (readParts w p tier none fresh r m).2.2 := by
  induction r generalizing m with
  | nil => exact .refl m
  | cons x r ih => exact (Noted.of_eff (eff_countRead ..)).trans ((noted_readSector ..).trans (ih _))

theorem noted_readBlock (w p off n : Nat) (alloc : Bool) (m : Module) : Noted m (readBlock w p 0 alloc off n m).2.2 := by
  unfold readBlock
  simp only [decide_true, Bool.true_or, if_true]
  exact (noted_readParts ..).trans (.of_eff (eff_countRead ..))

theorem noted_hallRead (w p off n : Nat) (m : Module) : Noted m (hallRead w p off n m).2 := by
  unfold hallRead memRead
  generalize ([] : List Byte) = x
  generalize ([] : List Bool) = y
  induction blocksOf off n generalizing x y m with
  | nil => exact .refl m
  | cons e r ih => exact (noted_readBlock ..).trans (ih ..)

theorem noted_readEnts (w p : Nat) (z : W64) (r : List Nat) (m : Module) : Noted m (readEnts w p z r m).2 := by
  induction r generalizing m with
  | nil => exact .refl m
  | cons e r ih => exact (noted_hallRead ..).trans (ih _)

end Sys2Proof.Scope

namespace Sys2Proof.Scope
open Sys2Proof.Machine Sys2Proof.Laws

variable {s : State} {m : Module} {a : Nat} {k : QKey} {d : Desc}

/-! #### A descriptor that an Arcade takes (R137, R506, R507) -/

theorem op_none_of_arcHead {ty : Nat} (h : arcHead m a ty = some (k, d)) : (m.arc' a).op = none := by
  unfold arcHead at h
  dsimp only at h
  split at h
  next hc =>
    simp only [Bool.and_eq_true, Option.isNone_iff_eq_none] at hc
    exact hc.1
  next => cases h

/-- A descriptor has left its queue, and the turn is its partition's. -/
def arcTaken (a : Nat) (k : QKey) (m : Module) : Module := (dequeue k m).setArc a { m.arc' a with rr := k.sub }

theorem eff_arcTaken (a : Nat) (k : QKey) (m : Module) : Eff [.queues, .arc] m (arcTaken a k m) :=
  ((eff_dequeue ..).mono rfl).trans ((eff_setArc ..).mono rfl)

theorem arcTaken_queue (a : Nat) (k : QKey) (m : Module) : queue (arcTaken a k m) k = (queue m k).tail := queue_dequeue m k

theorem arcTaken_arc' (hi : m.Inv) (k : QKey) : (arcTaken a k m).arc' a = { m.arc' a with rr := k.sub } :=
  setArc_arc' ((eff_dequeue k m).keeps.inv hi) _

/-- The map entries of the ranks that a descriptor needs, and the module after their reads. -/
def arcEnts (a : Nat) (d : Desc) (m : Module) : NMap Nat × Module :=
  readEnts a d.part (d.a 40) (ranksUsed (!isCfg d && arRing d) (arSize d) (arRank d)) m

section
variable {errs : List MemErr} {go : NMap Nat → Module → Module}

theorem arcTake_refused {c : Nat} (h : arRefusal (arcTaken a k m) a d = some c) :
    arcTake a k d errs go m = arcRefuse a c d (arcTaken a k m) := by
  unfold arcTake
  extract_lets m1 x m2 m3
  have hm : m2 = arcTaken a k m := rfl
  clear_value m2
  subst hm
  simp only [h]

theorem arcTake_goes (h : arRefusal (arcTaken a k m) a d = none)
    (he : mapRefusal (arcEnts a d (arcTaken a k m)).2 d (arcEnts a d (arcTaken a k m)).1 = none) :
    arcTake a k d [] go m = go (arcEnts a d (arcTaken a k m)).1 (arcEnts a d (arcTaken a k m)).2 := by
  unfold arcTake
  extract_lets m1 x m2 m3
  have hm : m2 = arcTaken a k m := rfl
  clear_value m2
  subst hm
  have he' : mapRefusal (readEnts a d.part (d.a 40) (ranksUsed (!isCfg d && arRing d) (arSize d) (arRank d)) m3).2 d
    (readEnts a d.part (d.a 40) (ranksUsed (!isCfg d && arRing d) (arSize d) (arRank d)) m3).1 = none := he
  simp only [h, he']
  rfl

end

/-! #### Refusal (R507) -/

/-- What the refusal of a descriptor at the head of its queue leaves. -/
structure ArcRefused (a : Nat) (k : QKey) (d : Desc) (m m' : Module) : Prop where
  queue : queue m' k = (queue m k).tail
  count : count m' d.part d.ctx 7 a = count m d.part d.ctx 7 a + 1
  arc : m'.arc' a = { m.arc' a with rr := k.sub, refused := (m.arc' a).refused + 1 }
  vote : m'.vote = m.vote
  mem : m'.mem = m.mem

theorem arcRefuse_refused (hi : m.Inv) (a code : Nat) (k : QKey) (d : Desc) : ArcRefused a k d m (arcRefuse a code d (arcTaken a k m)) := by
  have hx : (arcTaken a k m).arc' a = { m.arc' a with rr := k.sub } := arcTaken_arc' hi k
  have ht := eff_arcTaken a k m
  have h0 : Eff [.arc] (dequeue k m) (arcTaken a k m) := eff_setArc ..
  unfold arcRefuse
  generalize arcTaken a k m = m1 at hx ht h0
  dsimp only
  have h1 := eff_setArc m1 a { m1.arc' a with refused := (m1.arc' a).refused + 1 }
  have hx2 : (m1.setArc a { m1.arc' a with refused := (m1.arc' a).refused + 1 }).arc' a = _ := setArc_arc' (ht.keeps.inv hi) _
  generalize m1.setArc a { m1.arc' a with refused := (m1.arc' a).refused + 1 } = m2 at h1 hx2
  have hr := eff_bodyRefused 7 a code d m2
  obtain ⟨hq, hm, -, hn⟩ := bodyRefused_ends (d := d) (h0.trans h1) (by decide) 7 a code
  refine ⟨hq, hn, ?_, (vote_of_eff hr).trans ((vote_of_eff h1).trans (vote_of_eff ht)), hm⟩
  rw [arc'_of_eff hr, hx2, hx]

/-! #### ALLREDUCE (R484 to R490) -/

/-- Where no SOLO replay runs and no suspect slot is open, an operation is served live. -/
theorem serveCapture_live (hs : soloSlot m d.part = none) (hw : openSuspect m.wdg = none) (opId : W32) (half dtype elems n : Nat) :
    serveCapture d opId half dtype elems n m = (.live, m) := by
  unfold serveCapture
  simp only [hs, hw]

/-- A live operation starts, and has read its source: the bytes, and the module after the read. -/
def arcRead (a : Nat) (d : Desc) (m : Module) : List Byte × Module :=
  let z := arBytes (arDtype d)
  let src := arAt (d.a 16) (arFirst d * z)
  let x := memRead a d.part (gaTier src) false (gaOff src) (arCount d * z) (descStart 7 a d m)
  (x.1, x.2.2)

theorem eff_arcRead (a : Nat) (d : Desc) (m : Module) : Eff memParts m (arcRead a d m).2 :=
  ((eff_descStart ..).mono rfl).trans ((eff_memRead ..).mono rfl)

/-- The values of the elements that an operation reads. -/
def arcVals (d : Desc) (raw : List Byte) : NMap W64 :=
  let z := arBytes (arDtype d)
  (List.range (arCount d)).foldl (fun v i => nset 0 v i (wireIn (arDtype d) true (le raw (z * i) z))) []

/-- An operation in its first phase, where no packet of it came before it. -/
def freshArcOp (d : Desc) (ents : NMap Nat) (vals : NMap W64) (x : Arc) (now : Nat) : ArcOp :=
  { desc := d, ring := arRing d, phase := 0, vals := vals, ents := ents, readies := [], sent := false, got := 0, startAt := now
    limit := if arTmo d = 0 then max 1 x.tmoDef.toNat else arTmo d }

/-- The Arcade of an operation that has just entered its first phase. -/
def arcEntered (a : Nat) (o : ArcOp) (m : Module) : Module :=
  let x := m.arc' a
  m.setArc a { x with
    op := some o, lastProgress := m.clk.elapsed, ended := x.ended.filter (fun e => e != (o.desc.part, (arOpId o.desc).toNat)) }

/-- READY for the DATA of a phase leaves. -/
def arcInvite (a : Nat) (o : ArcOp) (f : Phase) (m : Module) : Module :=
  match f.src with
  | some r => arcSend a o r f.num 1 0 [] m
  | none => m

theorem arcSend_op (hi : m.Inv) (o : ArcOp) (rank ph kind off : Nat) (bs : List Byte) :
    ((arcSend a o rank ph kind off bs m).arc' a).op = (m.arc' a).op := by
  unfold arcSend
  extract_lets d e aux n m1 x
  have h : Eff _ m m1 := eff_inject ..
  have hx : x = m.arc' a := arc'_of_eff h
  rw [setArc_arc' (h.keeps.inv hi), hx]

theorem arcInvite_op (hi : m.Inv) (o : ArcOp) (f : Phase) : ((arcInvite a o f m).arc' a).op = (m.arc' a).op := by
  unfold arcInvite
  split
  · exact arcSend_op hi ..
  · rfl

theorem eff_arcInvite (a : Nat) (o : ArcOp) (f : Phase) (m : Module) : Eff (.arc :: sendParts) m (arcInvite a o f m) := by
  unfold arcInvite
  split
  · exact (eff_arcSend ..).mono rfl
  · exact .refl m

section
variable (hi : m.Inv) (hs : soloSlot m d.part = none) (hw : openSuspect m.wdg = none) (hk : arCount d ≠ 0) (ents : NMap Nat)
include hi hs hw hk

/-- The operation of a single member ends at its start. -/
theorem arcStart_single (h1 : arSize d = 1) : arcStart a d ents m =
    arcDone a d (arcCapture d (arcRead a d m).1 (arcWrite a d 0 (arcRead a d m).1 [] (arcRead a d m).2)) := by
  have hs' := (noted_descStart 7 a d m).solo hi _ hs
  have hw' : openSuspect (descStart 7 a d m).wdg = none := by rwa [(eff_descStart 7 a d m).same .wdg (by decide)]
  unfold arcStart
  simp only [if_neg hk, serveCapture_live hs' hw', if_pos h1]
  rfl

/-- Any other enters its first phase. -/
theorem arcStart_enters (h1 : arSize d ≠ 1) (he : (m.arc' a).early = []) {o : ArcOp} {f : Phase}
    (ho : o = freshArcOp d ents (arcVals d (arcRead a d m).1) (m.arc' a) m.clk.elapsed) (hf : opPhase o = some f) :
    arcStart a d ents m = arcGo a (arcInvite a o f (arcEntered a o (arcRead a d m).2)) := by
  have hs' := (noted_descStart 7 a d m).solo hi _ hs
  have hw' : openSuspect (descStart 7 a d m).wdg = none := by rwa [(eff_descStart 7 a d m).same .wdg (by decide)]
  have hr := eff_arcRead a d m
  have hx : (arcRead a d m).2.arc' a = m.arc' a := arc'_of_eff hr
  have hc : (arcRead a d m).2.clk = m.clk := clk_of_eff hr
  unfold arcStart
  extract_lets t z k m1
  rw [if_neg hk, serveCapture_live hs' hw']
  simp -zeta only [if_neg h1]
  extract_lets vals x o1 m2 m3
  have hx1 : x = m.arc' a := hx
  have hn : x.early = [] := (congrArg Arc.early hx1).trans he
  have ho1 : o1 = o := by
    have hc1 : o1.startAt = m.clk.elapsed := congrArg Clk.elapsed hc
    have hr1 : o1.readies = [] := by simp only [o1, hn, List.filter_nil, List.map_nil]
    rw [ho, freshArcOp, ← hx1, ← hc1, ← hr1]
    rfl
  have hm2 : m2 = arcEntered a o (arcRead a d m).2 := by
    have hx2 : (arcRead a d m).2.arc' a = x := rfl
    simp only [m2, ho1, hn, List.filter_nil, arcEntered, hx2, show o.desc = d by rw [ho]; rfl]
    rfl
  have hm3 : m3 = arcInvite a o f m2 := by
    simp only [m3, ho1, hf]
    rfl
  rw [hm3, hm2]

end

end Sys2Proof.Scope

namespace Sys2Proof.Scope
open Sys2Proof.Machine Sys2Proof.Laws

variable {s : State} {k : QKey} {d : Desc}

/-! #### The commands (R486, R499) -/

section
variable {m m' : Module} {a : Nat}

/-- A descriptor that is about to be served has left its queue, and its map is read. -/
structure ArcReady (a : Nat) (k : QKey) (m m' : Module) : Prop where
  noted : Noted m m'
  eff : Eff ([.queues, .arc] ++ memParts) m m'
  queue : queue m' k = (queue m k).tail
  arc : m'.arc' a = { m.arc' a with rr := k.sub }

theorem arcEnts_ready (hi : m.Inv) (a : Nat) (k : QKey) (d : Desc) : ArcReady a k m (arcEnts a d (arcTaken a k m)).2 := by
  have ht := eff_arcTaken a k m
  have hr : Eff _ (arcTaken a k m) (arcEnts a d (arcTaken a k m)).2 := eff_readEnts ..
  refine ⟨(Noted.of_eff ht).trans (noted_readEnts ..), (ht.mono rfl).trans (hr.mono rfl), ?_, ?_⟩
  · rw [queue_of_eff hr, arcTaken_queue]
  · rw [arc'_of_eff hr, arcTaken_arc' hi]

theorem sameTime_of_noted {l : List Part} (h : Eff l m m') (hn : Noted m m') (hc : Part.clk ∉ l := by decide)
    (hb : Part.beat ∉ l := by decide) (hp : Part.pwr ∉ l := by decide) : SameAt timeAt m m' := by
  have h2 : m'.beat = m.beat := h.same .beat hb
  have h3 : m'.pwr = m.pwr := h.same .pwr hp
  rw [SameAt, timeAt, timeAt, clk_of_eff h hc, h2, h3, hn.trip]

/-- An operation that ends where it starts. -/
theorem arcDone_ends (hi : m.Inv) (a : Nat) (d : Desc) :
    ((arcDone a d m).arc' a).op = (m.arc' a).op ∧ ((arcDone a d m).arc' a).ops = (m.arc' a).ops + 1
    ∧ count (arcDone a d m) d.part d.ctx 7 a = count m d.part d.ctx 7 a + 1 := by
  have hx : (arcDone a d m).arc' a = { m.arc' a with ops := (m.arc' a).ops + 1, lastProgress := m.clk.elapsed } :=
    (arc'_of_eff (eff_complete ..)).trans (setArc_arc' hi _)
  exact ⟨by rw [hx], by rw [hx], (count_complete ..).trans (congrArg (· + 1) (count_of_eff (eff_setArc m a _)))⟩

/-- An operation whose first phase sends has entered it, and waits for READY. -/
theorem arcGo_enters (hi : m.Inv) {o : ArcOp} {f : Phase} (hf : opPhase o = some f) (hr : o.readies = []) (hs : o.sent = false)
    (hd : f.dst ≠ none) : let m' := arcGo a (arcInvite a o f (arcEntered a o m))
    (m'.arc' a).op = some o ∧ Eff (.arc :: sendParts) m m' := by
  have h1 : Eff [.arc] m (arcEntered a o m) := eff_setArc ..
  have h2 := eff_arcInvite a o f (arcEntered a o m)
  have hx : (arcEntered a o m).arc' a = _ := setArc_arc' hi _
  have ho : ((arcInvite a o f (arcEntered a o m)).arc' a).op = some o := by rw [arcInvite_op (h1.keeps.inv hi), hx]
  rw [arcGo_waits ho hf (by simp [hr]) (.inl ⟨hd, hs⟩)]
  exact ⟨ho, (h1.mono rfl).trans h2⟩

end

section
variable {a : Fin 2}

theorem exec_allreduce (errs : List MemErr) (hh : arcHead s.m a 0x70 = some (k, d)) :
    exec (.allreduce a errs) s = done s (arcTake a k d errs (fun ents m => arcStart a d ents m) s.m) := by
  show execAllreduce a errs s = _
  simp only [execAllreduce, hh]

/-- The configuration of a partition's votes is set. -/
def cfgStored (d : Desc) (m : Module) : Module :=
  { m with vote := { m.vote with
    cfgs := nput m.vote.cfgs d.part { map := d.a 40, size := arSize d, rank := arRank d, tmo := arTmo d } } }

theorem eff_cfgStored (d : Desc) (m : Module) : Eff [.vote] m (cfgStored d m) :=
  .upd (.refl m) rfl rfl rfl rfl rfl rfl rfl rfl rfl rfl rfl

/-- VOTE_CFG sets its partition's configuration and completes in the next cycle. -/
def voteConfigured (a : Nat) (d : Desc) (m : Module) : Module :=
  complete 7 a d false (cfgStored d (passToCycle (m.clk.cycle + 1) (descStart 7 a d m)))

theorem exec_voteCfg (hh : arcHead s.m a 0x71 = some (k, d)) :
    exec (.voteCfg a) s = done s (arcTake a k d [] (fun _ m => voteConfigured a d m) s.m) := by
  show execVoteCfg a s = _
  simp only [execVoteCfg, hh]
  rfl

theorem allreduce_refused (hi : s.m.Inv) (hh : arcHead s.m a 0x70 = some (k, d)) (hr : arRefusal (arcTaken a k s.m) a d ≠ none)
    (errs : List MemErr) : Completes (.allreduce a errs) s (ArcRefused a k d s.m) := by
  obtain ⟨c, hc⟩ := Option.ne_none_iff_exists'.1 hr
  exact completes_of_done (exec_allreduce errs hh) (arcTake_refused hc ▸ arcRefuse_refused hi a c k d)

theorem voteCfg_refused (hi : s.m.Inv) (hh : arcHead s.m a 0x71 = some (k, d)) (hr : arRefusal (arcTaken a k s.m) a d ≠ none) :
    Completes (.voteCfg a) s (ArcRefused a k d s.m) := by
  obtain ⟨c, hc⟩ := Option.ne_none_iff_exists'.1 hr
  exact completes_of_done (exec_voteCfg hh) (arcTake_refused hc ▸ arcRefuse_refused hi a c k d)

/-! A descriptor that its checks accept; `e` its map entries and the module after their reads. -/

variable (hi : s.m.Inv) (hr : arRefusal (arcTaken a k s.m) a d = none) {e : NMap Nat × Module}
  (he : e = arcEnts a d (arcTaken a k s.m)) (hm : mapRefusal e.2 d e.1 = none)
include hi hr he hm

theorem voteCfg_configures (hh : arcHead s.m a 0x71 = some (k, d)) : Completes (.voteCfg a) s fun m =>
    queue m k = (queue s.m k).tail ∧ count m d.part d.ctx 7 a = count s.m d.part d.ctx 7 a + 1
    ∧ m.clk = (passToCycle (s.m.clk.cycle + 1) s.m).clk
    ∧ m.vote.cfgs = nput s.m.vote.cfgs d.part { map := d.a 40, size := arSize d, rank := arRank d, tmo := arTmo d }
    ∧ m.vote.running = s.m.vote.running := by
  subst he
  refine completes_of_done (exec_voteCfg hh) ?_
  rw [arcTake_goes hr hm]
  have h0 := arcEnts_ready hi a k d
  generalize (arcEnts a d (arcTaken a k s.m)).2 = m at h0
  unfold voteConfigured
  have hd := eff_descStart 7 a d m
  have ht : SameAt timeAt s.m (descStart 7 a d m) :=
    (sameTime_of_noted h0.eff h0.noted).trans (sameTime_of_noted hd (noted_descStart ..))
  have h1 : Eff timeParts _ (passToCycle (m.clk.cycle + 1) (descStart 7 a d m)) := eff_passToCycle ..
  have hp : (passToCycle (m.clk.cycle + 1) (descStart 7 a d m)).clk = (passToCycle (s.m.clk.cycle + 1) s.m).clk := by
    rw [clk_of_eff h0.eff]
    exact clk_passToCycle ht _
  generalize passToCycle (m.clk.cycle + 1) (descStart 7 a d m) = m1 at h1 hp
  have h2 := eff_cfgStored d m1
  have hc := eff_complete 7 a d false (cfgStored d m1)
  have hv : m1.vote = s.m.vote := (vote_of_eff h1).trans ((vote_of_eff hd).trans (vote_of_eff h0.eff))
  refine ⟨?_, ?_, ?_, ?_, ?_⟩
  · rw [queue_of_eff hc, queue_of_eff h2, queue_of_eff h1, queue_of_eff hd, h0.queue]
  · rw [count_complete, count_of_eff h2, count_of_eff h1, count_of_eff hd, count_of_eff h0.eff]
  · rw [clk_of_eff hc, clk_of_eff h2, hp]
  · rw [vote_of_eff hc, ← hv]
    rfl
  · rw [vote_of_eff hc, ← hv]
    rfl

variable (hh : arcHead s.m a 0x70 = some (k, d)) (hk : arCount d ≠ 0) (hs : soloSlot s.m d.part = none)
  (hw : openSuspect s.m.wdg = none)
include hh hk hs hw

/-- Served live, the operation of a single member is done. -/
theorem allreduce_single (h1 : arSize d = 1) : Completes (.allreduce a []) s fun m =>
    queue m k = (queue s.m k).tail ∧ count m d.part d.ctx 7 a = count s.m d.part d.ctx 7 a + 1
    ∧ (m.arc' a).op = none ∧ (m.arc' a).ops = (s.m.arc' a).ops + 1 := by
  subst he
  refine completes_of_done (exec_allreduce [] hh) ?_
  rw [arcTake_goes hr hm]
  have h0 := arcEnts_ready hi a k d
  generalize arcEnts a d (arcTaken a k s.m) = e at h0
  have hw0 : openSuspect e.2.wdg = none := by rwa [h0.eff.same .wdg (by decide)]
  rw [arcStart_single (h0.noted.inv hi) (h0.noted.solo hi _ hs) hw0 hk e.1 h1]
  have h3 : Eff memParts e.2 (arcWrite a d 0 (arcRead a d e.2).1 [] (arcRead a d e.2).2) :=
    (eff_arcRead a d e.2).trans ((eff_arcWrite ..).mono rfl)
  have h4 : Eff memParts e.2 (arcCapture d (arcRead a d e.2).1 (arcWrite a d 0 (arcRead a d e.2).1 [] (arcRead a d e.2).2)) :=
    h3.trans ((eff_arcCapture ..).mono rfl)
  generalize arcCapture d _ _ = m4 at h4
  obtain ⟨hop, hops, hn⟩ := arcDone_ends (m := m4) (h4.keeps.inv (h0.noted.inv hi)) a d
  refine ⟨?_, ?_, ?_, ?_⟩
  · rw [queue_of_eff (eff_arcDone a d m4), queue_of_eff h4, h0.queue]
  · rw [hn, count_of_eff h4, count_of_eff h0.eff]
  · rw [hop, arc'_of_eff h4, h0.arc]
    exact op_none_of_arcHead hh
  · rw [hops, arc'_of_eff h4, h0.arc]

/-- Served live, an operation whose first phase sends is in that phase. -/
theorem allreduce_enters {f : Phase} (hx : (s.m.arc' a).early = [])
    (hf : phaseAt (arRing d) (arSize d) (arRank d) (arCount d) (arDtype d = 1) 0 = some f) (hd : f.dst ≠ none) :
    Completes (.allreduce a []) s fun m => queue m k = (queue s.m k).tail ∧ m.counts = s.m.counts ∧ m.clk = s.m.clk
      ∧ (m.arc' a).op = some (freshArcOp d e.1 (arcVals d (arcRead a d e.2).1) (s.m.arc' a) s.m.clk.elapsed) := by
  subst he
  refine completes_of_done (exec_allreduce [] hh) ?_
  rw [arcTake_goes hr hm]
  have h0 := arcEnts_ready hi a k d
  generalize arcEnts a d (arcTaken a k s.m) = e at h0
  have h1 : arSize d ≠ 1 := fun h => by simp [phaseAt, h] at hf
  have hw0 : openSuspect e.2.wdg = none := by rwa [h0.eff.same .wdg (by decide)]
  have hx0 : (e.2.arc' a).early = [] := by rw [h0.arc]; exact hx
  have ho : freshArcOp d e.1 (arcVals d (arcRead a d e.2).1) (s.m.arc' a) s.m.clk.elapsed
      = freshArcOp d e.1 (arcVals d (arcRead a d e.2).1) (e.2.arc' a) e.2.clk.elapsed := by
    rw [h0.arc, clk_of_eff h0.eff]
    rfl
  have hf0 : opPhase (freshArcOp d e.1 (arcVals d (arcRead a d e.2).1) (s.m.arc' a) s.m.clk.elapsed) = some f := hf
  rw [arcStart_enters (h0.noted.inv hi) (h0.noted.solo hi _ hs) hw0 hk e.1 h1 hx0 ho hf0]
  have h3 := eff_arcRead a d e.2
  obtain ⟨hop, h4⟩ := arcGo_enters (a := a) (h3.keeps.inv (h0.noted.inv hi)) hf0 rfl rfl hd
  refine ⟨?_, ?_, ?_, hop⟩
  · rw [queue_of_eff h4, queue_of_eff h3, h0.queue]
  · exact (h4.same .counts (by decide)).trans ((h3.same .counts (by decide)).trans (h0.eff.same .counts (by decide)))
  · rw [clk_of_eff h4, clk_of_eff h3, clk_of_eff h0.eff]

end

end Sys2Proof.Scope

section
open Sys2Proof Sys2Proof.Machine Sys2Proof.Scope

/-- Settles O33, by what a refusal leaves, what the read of the rank map leaves, and how an operation starts where it is served live. -/
theorem arcadesTakeDescriptors : Obligations.ArcadesTakeDescriptors := by
  intro s a k d hi x m1 counted refused ents
  have hrf (m : Machine.Module) (h : ArcRefused a k d s.m m) : refused m := ⟨h.queue, h.count, h.arc, h.vote, h.mem⟩
  refine ⟨fun hh => ⟨fun hr errs => ?_, fun hr hm hk hs hw => ⟨?_, fun f hx hf hd => ?_⟩⟩, fun hh => ⟨fun hr => ?_, fun hr hm => ?_⟩⟩
  · exact Ends.imp (allreduce_refused hi hh hr errs) hrf
  · exact allreduce_single hi hr rfl hm hh hk hs hw
  · refine Ends.imp (allreduce_enters hi hr rfl hm hh hk hs hw hx hf hd) fun m h => ?_
    obtain ⟨hq, hn, hc, ho⟩ := h
    exact ⟨hq, hn, hc, _, ho, rfl, rfl, rfl, rfl, rfl, rfl, rfl⟩
  · exact Ends.imp (voteCfg_refused hi hh hr) hrf
  · exact voteCfg_configures hi hr rfl hm hh

end

/-! ### What a virtual function's write reaches (O59) -/

namespace Sys2Proof.Scope
open Sys2Proof.Machine Sys2Proof.Laws

variable {a b c m : Module} {p : Nat}

/-! #### Nothing but a partition's own -/

/-- The parts in which a virtual function's partition owns something. -/
def vfParts : List Part := [.harts, .gal, .bal, .ris, .win, .lnd, .flt, .mem, .wdg, .cor, .pci, .out]

/-- What the reset ladder has under way. -/
def ladderAt (m : Module) : List ResetRec × List ResetOrder × List (Nat × Dom) := (m.wdg.running, m.wdg.ordered, m.wdg.pend)

/-- Between two states nothing changes but what partition `p` owns (R698, R699, R714). -/
structure OwnOnly (p : Nat) (a b : Module) : Prop where
  same : SameBut vfParts a b
  gal : ∀ u, owner a 0 u ≠ some p → SameAt (pairAt u) a b
  lnd : ∀ u, owner a 1 u ≠ some p → b.lnd' u = a.lnd' u
  ris : ∀ u, owner a 2 u ≠ some p → b.ris' u = a.ris' u
  win : ∀ u, owner a 3 u ≠ some p → b.win' u = a.win' u
  flt : ∀ u, owner a 4 u ≠ some p → b.flt' u = a.flt' u
  hart : ∀ u i, i < 4 → owner a 5 u ≠ some p → b.hart (4 * u + i) = a.hart (4 * u + i)
  evr : ∀ f, f ≠ p + 1 → b.evr' f = a.evr' f
  cache : ∀ q, q ≠ p → b.cache q = a.cache q
  ladder : SameAt ladderAt a b

namespace OwnOnly

theorem img (h : OwnOnly p a b) : b.img = a.img := h.same .img (by decide)

theorem owner_eq (h : OwnOnly p a b) (k u : Nat) : owner b k u = owner a k u := owner_congr h.img k u

theorem refl (a : Module) : OwnOnly p a a :=
  ⟨sameBut_refl _ a, fun _ _ => rfl, fun _ _ => rfl, fun _ _ => rfl, fun _ _ => rfl, fun _ _ => rfl, fun _ _ _ _ => rfl, fun _ _ => rfl,
    fun _ _ => rfl, rfl⟩

theorem trans (h : OwnOnly p a b) (k : OwnOnly p b c) : OwnOnly p a c where
  same := sameBut_trans h.same k.same
  gal u hu := (h.gal u hu).trans (k.gal u (h.owner_eq .. ▸ hu))
  lnd u hu := (k.lnd u (h.owner_eq .. ▸ hu)).trans (h.lnd u hu)
  ris u hu := (k.ris u (h.owner_eq .. ▸ hu)).trans (h.ris u hu)
  win u hu := (k.win u (h.owner_eq .. ▸ hu)).trans (h.win u hu)
  flt u hu := (k.flt u (h.owner_eq .. ▸ hu)).trans (h.flt u hu)
  hart u i hi hu := (k.hart u i hi (h.owner_eq .. ▸ hu)).trans (h.hart u i hi hu)
  evr f hf := (k.evr f hf).trans (h.evr f hf)
  cache q hq := (k.cache q hq).trans (h.cache q hq)
  ladder := h.ladder.trans k.ladder

theorem ite {q : Prop} [Decidable q] (h : OwnOnly p a b) (k : OwnOnly p a c) : OwnOnly p a (if q then b else c) := by
  split <;> assumption

theorem onOne {v : W64} {f : Module → Module} (h : OwnOnly p m (f m)) : OwnOnly p m (Machine.onOne v f m) := h.ite (.refl m)

/-- A fold whose every turn keeps to what is the partition's own, in the structure in force. -/
theorem fold {α : Type} {g : Module → α → Module} {r : List α} (hg : ∀ b, b.img = m.img → ∀ x ∈ r, OwnOnly p b (g b x)) :
    OwnOnly p m (r.foldl g m) :=
  List.foldlRecOn (motive := OwnOnly p m) r g (.refl m) fun b h x hx => h.trans (hg b h.img x hx)

/-- A change of the host link, the memory, the Corridor or what is given out that keeps the event rings and caches of others. -/
theorem of_shared (h : SameBut [.mem, .cor, .pci, .out] a b) (he : ∀ f, f ≠ p + 1 → b.evr' f = a.evr' f)
    (hc : ∀ q, q ≠ p → b.cache q = a.cache q) : OwnOnly p a b where
  same := sameBut_mono h rfl
  gal u _ := congrArg₂ (fun x y => (nget Gal.init x u, nget Bal.init y u)) (h .gal (by decide)) (h .bal (by decide))
  lnd u _ := congrArg (nget Lnd.init · u) (h .lnd (by decide))
  ris u _ := congrArg (nget Ris.init · u) (h .ris (by decide))
  win u _ := congrArg (nget Win.init · u) (h .win (by decide))
  flt u _ := congrArg (nget Flt.init · u) (h .flt (by decide))
  hart u i _ _ := congrArg (nget Hart.init · (4 * u + i)) (h .harts (by decide))
  evr := he
  cache := hc
  ladder := congrArg (fun w : Wdg => (w.running, w.ordered, w.pend)) (h .wdg (by decide))

theorem setPci {x : Pci} (hx : x.evr = m.pci.evr) : OwnOnly p m (setPci x m) :=
  .of_shared (sameBut_of_blend rfl) (fun f _ => congrArg (nget Evr.init · f) hx) fun _ _ => rfl

theorem setEvr (x : Evr) (m : Module) : OwnOnly p m (m.setEvr (p + 1) x) :=
  .of_shared (sameBut_of_blend rfl) (fun _ hf => nget_nset_of_ne hf) fun _ _ => rfl

theorem setCache (x : PCache) (m : Module) : OwnOnly p m (m.setCache p x) :=
  .of_shared (sameBut_of_blend rfl) (fun _ _ => rfl) fun _ hq => nget_nset_of_ne hq

theorem emit (o : Output) (m : Module) : OwnOnly p m (emit o m) :=
  .of_shared (sameBut_of_blend rfl) (fun _ _ => rfl) fun _ _ => rfl

/-- The progress that the watchdogs keep of the partitions is no part of the reset ladder. -/
theorem partProgress (x : NMap Nat) (m : Module) : OwnOnly p m { m with wdg := { m.wdg with partProgress := x } } :=
  { refl m with same := sameBut_of_blend rfl }

section
variable {u : Nat}

/-- A unit that the partition owns is not one that it does not own. -/
theorem ne_of_owner {k j : Nat} (hu : owner m k u = some p) (hj : owner m k j ≠ some p) : j ≠ u := fun e => hj (e ▸ hu)

theorem setGal (hu : owner m 0 u = some p) (x : Gal) : OwnOnly p m (m.setGal u x) :=
  { refl m with same := sameBut_of_blend rfl, gal := fun _ hj => samePair_setGal (ne_of_owner hu hj) x m }

theorem setBal (hu : owner m 0 u = some p) (x : Bal) : OwnOnly p m (m.setBal u x) :=
  { refl m with same := sameBut_of_blend rfl, gal := fun _ hj => samePair_setBal (ne_of_owner hu hj) x m }

theorem setLnd (hu : owner m 1 u = some p) (x : Lnd) : OwnOnly p m (m.setLnd u x) :=
  { refl m with same := sameBut_of_blend rfl, lnd := fun _ hj => setLnd_get_ne m u x _ (ne_of_owner hu hj) }

theorem setRis (hu : owner m 2 u = some p) (x : Ris) : OwnOnly p m (m.setRis u x) :=
  { refl m with same := sameBut_of_blend rfl, ris := fun _ hj => setRis_get_ne m u x _ (ne_of_owner hu hj) }

theorem setWin (hu : owner m 3 u = some p) (x : Win) : OwnOnly p m (m.setWin u x) :=
  { refl m with same := sameBut_of_blend rfl, win := fun _ hj => setWin_get_ne m u x _ (ne_of_owner hu hj) }

theorem setFlt (hu : owner m 4 u = some p) (x : Flt) : OwnOnly p m (m.setFlt u x) :=
  { refl m with same := sameBut_of_blend rfl, flt := fun _ hj => setFlt_get_ne m u x _ (ne_of_owner hu hj) }

theorem setHart {i : Nat} (hu : owner m 5 u = some p) (hi : i < 4) (x : Hart) : OwnOnly p m (m.setHart (hartKey u i) x) :=
  { refl m with
    same := sameBut_of_blend rfl
    hart := fun j k hk hj => setHart_get_ne m _ x _ (by have := ne_of_owner hu hj; unfold hartKey; omega) }

end

end OwnOnly

/-! #### Event rings and cache commands (R364, R704, R714) -/

theorem ownOnly_ringSignal (r : Evr) (m : Module) : OwnOnly p m (ringSignal (p + 1) r m) := by
  unfold ringSignal
  exact .ite (.setEvr _ m) ((OwnOnly.setEvr _ m).trans (.emit ..))

theorem ownOnly_ringWrite (e : Event) (m : Module) : OwnOnly p m (ringWrite (p + 1) e m) := by
  unfold ringWrite
  have h := (OwnOnly.emit (p := p) (.record (ringFn (p + 1)) ((m.evr' (p + 1)).tail.toNat % (m.evr' (p + 1)).cap) e) m).trans
    (ownOnly_ringSignal { m.evr' (p + 1) with tail := (m.evr' (p + 1)).tail + 1 } _)
  exact .ite (h.trans (.emit ..)) h

theorem ownOnly_ringOverflow (m : Module) : OwnOnly p m (ringOverflow (p + 1) m) := by
  unfold ringOverflow
  exact .ite ((OwnOnly.setEvr _ m).trans (ownOnly_ringWrite ..)) (.refl m)

theorem ownOnly_evrAct (o : Nat) (v : W64) (m : Module) : OwnOnly p m (evrAct (p + 1) o v m) := by
  unfold evrAct
  refine .ite (.refl m) ?_
  split
  · exact .setEvr _ m
  · exact (OwnOnly.setEvr _ m).trans (ownOnly_ringOverflow _)
  · exact (OwnOnly.setEvr _ m).trans (ownOnly_ringOverflow _)
  · exact .refl m

theorem ownOnly_cleanDirty (m : Module) (x : Nat × CacheLine) : OwnOnly p m (cleanDirty p m x) := by
  refine .ite ?_ (.refl m)
  rw [cleanLine_eq]
  exact (OwnOnly.of_shared (sameBut_mono (eff_writeBack ..).same rfl)
    (fun f _ => congrArg (fun y : Pci => nget Evr.init y.evr f) ((eff_writeBack p x.2 m).same .pci (by decide)))
    fun q _ => cache_of_sets (sameSets_writeBack ..) q).trans (.setCache ..)

theorem ownOnly_cacheCommand (inv : Bool) (m : Module) : OwnOnly p m (cacheCommand p inv m) := by
  unfold cacheCommand
  refine .ite (.setCache ..) (.ite (.refl m) (.trans ?_ (.setCache ..)))
  rw [flushCache_eq]
  exact .fold fun b _ x _ => ownOnly_cleanDirty b x

theorem ownOnly_hallAct {d : Nat} (hd : d < 0x40) (w : Nat) (v : W64) (m : Module) : OwnOnly p m (hallAct w (0x100 + 0x40 * p + d) v m) := by
  have hp : (0x100 + 0x40 * p + d - 0x100) / 0x40 = p := by omega
  have h28 : ¬ 0x100 + 0x40 * p + d = 0x028 := by omega
  unfold hallAct
  rw [hp]
  dsimp only
  rw [if_neg h28]
  exact .ite (.ite (ownOnly_cacheCommand ..) (.ite (ownOnly_cacheCommand ..) (.refl m))) (.refl m)

theorem ownOnly_pciAct {d : Nat} (hd : d < 0x40) (v : W64) (m : Module) : OwnOnly p m (pciAct (0x1000 + 0x40 * (p + 1) + d) v m) := by
  have hf : (0x1000 + 0x40 * (p + 1) + d - 0x1000) / 0x40 = p + 1 := by omega
  unfold pciAct
  dsimp only
  rw [if_neg (by omega), if_neg (by omega), if_neg (by omega), if_pos (by omega), hf]
  exact ownOnly_evrAct ..

/-! #### Control cores (R145 to R148) -/

section
variable {u i : Nat}

theorem ownOnly_hartStart (hu : owner m 5 u = some p) (hi : i < 4) : OwnOnly p m (hartStart (hartKey u i) m) := by
  unfold hartStart
  dsimp only
  split
  · exact .refl m
  · exact .ite (.refl m) (.ite ((OwnOnly.setHart hu hi _).trans (.partProgress ..)) (.setHart hu hi _))

theorem ownOnly_ccCtrl (hu : owner m 5 u = some p) (v : W64) : OwnOnly p m (ccCtrl u v m) :=
  .fold fun b hb _ hi =>
    have ho : owner b 5 u = some p := (owner_congr hb 5 u).trans hu
    .ite (ownOnly_hartStart ho (List.mem_range.1 hi)) (.setHart ho (List.mem_range.1 hi) _)

theorem ownOnly_ccAct (hu : owner m 5 u = some p) (o : Nat) (v : W64) : OwnOnly p m (ccAct u o v m) := by
  unfold ccAct
  refine .ite (ownOnly_ccCtrl hu v) (.ite (.fold fun b hb i hi => ?_) ?_)
  · exact .ite (.setHart ((owner_congr hb 5 u).trans hu) (List.mem_range.1 hi) _) (.refl b)
  · split
    · exact .setHart hu (by omega) _
    · exact .refl m

end

/-! #### Registers of a window -/

section
variable {x : RegPlace} {k : Nat}

/-- A register of an owner's window acts on that unit alone; FLT_CTRL is no virtual function's (R417, R699). -/
theorem ownOnly_regAct (hk : ownedCls x.blk = some k) (hu : owner m k x.unit = some p) (hf : ¬ (x.blk = .flt ∧ x.off = 0x018)) (v : W64) :
    OwnOnly p m (regAct x v m) := by
  obtain ⟨blk, u, o⟩ := x
  unfold regAct
  cases blk <;> cases hk
  case gal => exact .ite (.onOne (.setGal hu _)) (.refl m)
  case adp => exact .ite (.onOne (.setBal hu _)) (.refl m)
  case lnd => exact .ite (.onOne (.setLnd hu _)) (.refl m)
  case win => exact .ite (.onOne (.setWin hu _)) (.refl m)
  case cc => exact ownOnly_ccAct hu o v
  case flt =>
    have h18 : o ≠ 0x018 := fun e => hf ⟨rfl, e⟩
    dsimp only
    unfold fltAct
    rw [if_neg h18]
    exact .ite (.onOne (.setFlt hu _)) (.refl m)
  case ris =>
    dsimp only
    unfold risAct
    refine .ite ?_ (.ite (.setRis hu _) (.ite (.onOne (.setRis hu _)) (.refl m)))
    have h0 : OwnOnly p m (if bit v 0 = true then risCntClr u m else m) := .ite (.setRis hu _) (.refl m)
    exact .ite (h0.trans (.setRis ((h0.owner_eq 2 u).trans hu) _)) h0

/-- A write of a register whose acts keep to what is the partition's own. -/
theorem ownOnly_regSet (h : ∀ v b, b.img = m.img → OwnOnly p b (regAct x v b)) (base bytes : Nat) (upper : Bool) (val cur : W64) :
    OwnOnly p m (regSet base x bytes upper val cur m) := by
  unfold regSet
  split
  · exact .ite (.setPci rfl) (.trans (b := setPci { m.pci with woHi := nset 0 m.pci.woHi base 0 } m) (.setPci rfl) (h _ _ rfl))
  · exact h _ m rfl
  · exact .ite (.refl m) (h _ m rfl)
  · exact h _ m rfl

theorem ownOnly_regWrite {off r : Nat} (h8 : off % 8 = 0) (hr : r < 8)
    (h : ∀ x, regPlace off = some x → shadowAt x = false ∧ ∀ v b, b.img = m.img → OwnOnly p b (regAct x v b)) (bytes : Nat) (val : W64) :
    OwnOnly p m (regWrite (off + r) bytes val m) := by
  have hb : (off + r) / 8 * 8 = off := by omega
  have hn : OwnOnly p m (unmapped true m) := .setPci rfl
  unfold regWrite
  rw [hb]
  dsimp only
  split
  · exact hn
  next x hx =>
    obtain ⟨hs, ha⟩ := h x hx
    rw [hs]
    refine .ite hn (.ite (.refl m) ?_)
    rw [if_neg Bool.false_ne_true]
    split
    · exact hn
    · exact ownOnly_regSet ha ..

end

/-! #### Where a virtual function's write goes (R698, R714) -/

theorem regPlace_ring {d : Nat} (hp : p < 16) (hd : d < 0x40) :
    regPlace (0xA1000 + 0x40 * (p + 1) + d) = some ⟨.pci, 0, 0x1000 + 0x40 * (p + 1) + d⟩ := by
  have h1 : (0xA1000 + 0x40 * (p + 1) + d) / 0x10000 = 10 := by omega
  have h2 : (0xA1000 + 0x40 * (p + 1) + d) % 0x10000 = 0x1000 + 0x40 * (p + 1) + d := by omega
  rw [regPlace, if_pos (by omega), h1, h2]
  rfl

theorem inRow_beyond {o base size n first : Nat} {b : Blk} (h : base + size * n ≤ o) : inRow o base size n first b = none :=
  if_neg (by omega)

theorem regPlace_hall {w o : Nat} (hw : w < 2) (ho : o < 0x100000) :
    regPlace (0x1000000 * (w + 1) + 0x800000 + o) = some ⟨.hall, w, o⟩ := by
  have h1 : (0x1000000 * (w + 1) + 0x800000 + o) / 0x1000000 - 1 = w := by omega
  have h2 : (0x1000000 * (w + 1) + 0x800000 + o) % 0x1000000 = 0x800000 + o := by omega
  rw [regPlace, if_neg (by omega), if_neg (by omega), if_pos (by omega), h1, h2]
  have hr : inRow (0x800000 + o) 0x800000 0x100000 1 w .hall = some ⟨.hall, w, o⟩ := by
    rw [inRow, if_pos (by omega)]
    simp
    omega
  rw [wingPlace, if_neg (by omega), inRow_beyond (by omega), inRow_beyond (by omega), inRow_beyond (by omega), inRow_beyond (by omega),
    inRow_beyond (by omega), hr]
  rfl

theorem regPlace_beyond {off : Nat} (h : 0x3000000 ≤ off) : regPlace off = none := by
  rw [regPlace, if_neg (by omega), if_neg (by omega), if_neg (by omega)]

/-- Where the access of a virtual function goes to a register: one of a unit that its partition owns, or one of its page. -/
theorem vfPlace_at {base o : Nat} (h : vfPlace m p base = .at o) :
    (o = base ∧ ∃ x k, regPlace base = some x ∧ ownedCls x.blk = some k ∧ owner m k x.unit = some p)
    ∨ (∃ d, d ≤ 0x20 ∧ base = 0x200 + d ∧ o = 0xA1000 + 0x40 * (p + 1) + d)
    ∨ ∃ d, (d = 0 ∨ d = 8) ∧ o = 0x1000000 * (cacheWing m p + 1) + 0x800000 + (0x100 + 0x40 * p + d) := by
  unfold vfPlace at h
  split_ifs at h with hp hw
  · unfold vfPage at h
    dsimp only at h
    split_ifs at h with h0 h1 h2 h3 h4
    · exact .inr (.inl ⟨base - 0x200, by omega, by omega, (VfPlace.at.inj h).symm⟩)
    · exact .inr (.inr ⟨0, .inl rfl, by have := VfPlace.at.inj h; omega⟩)
    · exact .inr (.inr ⟨8, .inr rfl, by have := VfPlace.at.inj h; omega⟩)
  · split at h
    · cases h
    next x hx =>
      split at h
      · cases h
      next k hk =>
        split_ifs at h with ho
        cases h
        exact .inl ⟨rfl, x, k, hx, hk, ho⟩

/-- A virtual function's write reaches only what its partition owns. -/
theorem ownOnly_vfWrite (hp : p < 16) (off bytes : Nat) (val : W64) (m : Module) : OwnOnly p m (vfWrite p off bytes val m) := by
  have hd : OwnOnly p m (vfDeny m) := .setPci rfl
  unfold vfWrite
  split
  next o h =>
    split_ifs with hf
    · exact hd
    have hr : off % 8 < 8 := Nat.mod_lt _ (by decide)
    rcases vfPlace_at h with ⟨rfl, x, k, hx, hk, hu⟩ | ⟨d, hd, hb, rfl⟩ | ⟨d, hd, rfl⟩
    · refine ownOnly_regWrite (by omega) hr (fun y hy => ?_) bytes val
      obtain rfl : x = y := Option.some.inj (hx.symm.trans hy)
      refine ⟨?_, fun v b hb => ownOnly_regAct hk ((owner_congr hb ..).trans hu) (fun e => hf ?_) v⟩
      · obtain ⟨blk, u, o⟩ := x
        cases blk <;> cases hk <;> rfl
      · rw [pfOnly, hx]
        simp [e]
    · refine ownOnly_regWrite (by omega) hr (fun y hy => ?_) bytes val
      obtain rfl := Option.some.inj ((regPlace_ring hp (by omega : d < 0x40)).symm.trans hy)
      exact ⟨rfl, fun v b _ => ownOnly_pciAct (by omega) v b⟩
    · refine ownOnly_regWrite (by omega) hr (fun y hy => ?_) bytes val
      by_cases hw : cacheWing m p < 2
      · obtain rfl := Option.some.inj ((regPlace_hall hw (by omega)).symm.trans hy)
        exact ⟨rfl, fun v b _ => ownOnly_hallAct (by omega) _ v b⟩
      · rw [regPlace_beyond (by omega)] at hy
        cases hy
  · exact hd
  · exact .refl m

end Sys2Proof.Scope

section
open Sys2Proof Sys2Proof.Machine Sys2Proof.Scope

/-- Settles O59, by where a virtual function's write can go and by what the registers there act on. -/
theorem virtualFunctionsReachOnlyTheirOwn : Obligations.VirtualFunctionsReachOnlyTheirOwn := by
  intro s t p off bytes val _ he
  have h : OwnOnly p.val s.m t.m := by
    dsimp only [exec, execRegisterWrite] at he
    split_ifs at he with ho <;> cases he
    unfold fnWrite
    exact .ite (.setPci rfl) (ownOnly_vfWrite p.isLt ..)
  have hg : ∀ u, owner s.m 0 u ≠ some p.val → t.m.gal' u = s.m.gal' u ∧ t.m.bal' u = s.m.bal' u := fun u hu =>
    Prod.mk.inj (h.gal u hu)
  obtain ⟨hr, ho⟩ := Prod.mk.inj h.ladder
  obtain ⟨ho, hq⟩ := Prod.mk.inj ho
  exact ⟨h.same, hg, h.lnd, h.ris, h.win, h.flt, fun u i => h.hart u i, h.evr, h.cache, hr, ho, hq⟩

end

/-! ### A step, and operands that can name nothing (O53, O54) -/

namespace Sys2Proof.Scope
open Sys2Proof.Machine Sys2Proof.Laws

variable {s : State}

/-! #### The front command (log entry 29) -/

/-- No command touches the commands that wait. -/
theorem pending_exec {c : Instr} {t : State} (h : exec c s = .next t) : t.pending = s.pending := by
  by_cases hc : ∃ slot, c = .powerGood slot
  · obtain ⟨slot, rfl⟩ := hc
    cases h
    rfl
  · exact ((keeps_exec c s fun slot e => hc ⟨slot, e⟩).out t h).1

/-- On an empty queue 1 ns passes; what the trace unit then sends leaves the clocks. -/
theorem clk_tick (m : Module) : (tick m).clk = (pass 1 m).clk := (eff_traceSend _).same .clk (by decide)

/-! #### Operands that make no command (log entry 5) -/

theorem not_lt_barSize {fn : Fn} {off : Nat} (h : decide (off < barBytes fn) = false) : ¬ off < barSize fn := by
  cases fn <;> exact of_decide_eq_false h

theorem ill_flitReceive {p : Fin 16} {f : Flit} (h : flitWf f = false) : execFlitReceive p f s = ill := by
  refine if_pos ?_
  by_cases hl : f.content.length ≤ 256
  · refine .inl ?_
    have hk : ¬ f.hdr.isSome = (decide (f.kind = 1) || decide (f.kind = 4)) := by simpa [flitWf, hl] using h
    rw [Bool.eq_iff_iff, Bool.or_eq_true, decide_eq_true_eq, decide_eq_true_eq] at hk
    exact mt propext_iff.1 hk
  · exact .inr (not_le.1 hl)

/-- A frame of another operation than its row's is neither short nor reserved, and its command word names another. -/
theorem op_of_not_frameWf {op bits : Nat} {cmd : W32} (h : frameWf op cmd bits = false) :
    ¬ bits < 32 ∧ ¬ spiReserved cmd = true ∧ fld cmd 30 2 ≠ op := by
  rw [frameWf, badCommand_eq_spiReserved] at h
  simp only [Bool.or_eq_false_iff, decide_eq_false_iff_not, BitVec.toNat_ushiftRight] at h
  obtain ⟨⟨hb, hr⟩, ho⟩ := h
  refine ⟨hb, Bool.not_eq_true _ ▸ hr, fun e => ho ?_⟩
  rw [← e, fld, nfld]
  have := cmd.isLt
  simp only [Nat.shiftRight_eq_div_pow]
  omega

theorem ill_traySpiRead {cmd : W32} {bits : Nat} (h : frameWf 0 cmd bits = false) : execTraySpiRead cmd bits s = ill := by
  obtain ⟨hb, hr, ho⟩ := op_of_not_frameWf h
  rw [execTraySpiRead, if_neg hb, if_neg hr, if_neg ho]

theorem ill_traySpiWrite {cmd : W32} {words : List W32} {bits : Nat}
    (h : (frameWf 1 cmd bits && decide (frameWords cmd bits ≤ words.length)) = false) : execTraySpiWrite cmd words bits s = ill := by
  unfold execTraySpiWrite
  by_cases hw : words.length < spiData cmd bits
  · exact if_pos hw
  · have hf : frameWords cmd bits ≤ words.length := not_lt.1 (by simpa [spiData, spiWords, frameWords, fld, nfld] using hw)
    obtain ⟨hb, hr, ho⟩ := op_of_not_frameWf (by simpa [hf] using h)
    rw [if_neg hw, if_neg hb, if_neg hr, if_neg ho]

/-- A command whose operands make none is refused by the check on them, which comes first. -/
theorem ill_exec (c : Instr) (s : State) (h : c.wellFormed = false) : exec c s = ill := by
  cases c
  -- a bound or a length that is not met
  case thermWarn | thermTrip | holdupLow | holdupDisagree | ideKm | imgShadowWrite | rteShadowWrite => exact if_neg (of_decide_eq_false h)
  case delayRemeasure | bringUpComplete | firmwareVerified => exact if_pos (of_decide_eq_false h)
  -- an offset outside its function's BAR0
  case registerWrite | registerRead | vendorRead => exact if_neg (not_lt_barSize h)
  case vendorWrite off val tray =>
    obtain ⟨rfl, ho⟩ := Bool.or_eq_false_iff.1 h
    exact if_neg (not_lt_barSize (fn := .pf) ho)
  -- units that do not exist
  case memTrainComplete failed =>
    simp only [Instr.wellFormed, ← clsCount_channels] at h
    exact if_pos (by simp [h])
  case bistComplete failed =>
    simp only [Instr.wellFormed, ← clsCount_eq_unitsOfClass] at h
    exact if_pos (by simp [h])
  -- a flit, a link, a scan and a frame that cannot be
  case flitReceive => exact ill_flitReceive h
  case linkUp width rate flit =>
    have hl : linkOk width rate = false := h
    exact if_pos (by simp [hl])
  case bypass => exact if_pos (Bool.not_eq_eq_eq_not.1 h)
  case traySpiBadcmd cmd =>
    have hr : spiReserved cmd = false := badCommand_eq_spiReserved cmd ▸ h
    exact if_neg (by simp [hr])
  case traySpiRead => exact ill_traySpiRead h
  case traySpiWrite => exact ill_traySpiWrite h
  -- operands that make a command whatever they are
  all_goals cases h

end Sys2Proof.Scope

section
open Sys2Proof Sys2Proof.Machine Sys2Proof.Scope

/-- Settles O54, by the check on the operands of each command. -/
theorem illFormedCommandsAreRefused : Obligations.IllFormedCommandsAreRefused := ill_exec

/-- Settles O53, by the two cases of a step, and that no command touches the commands that wait. -/
theorem stepTakesTheFrontCommand : Obligations.StepTakesTheFrontCommand := by
  refine ⟨fun _ _ => rfl, fun s c rest h => ?_, fun _ _ _ h => pending_exec h, fun s h => ?_⟩
  · rw [step, h]
  · exact ⟨tick s.m, by rw [step, h], clk_tick s.m⟩

end

/-! ### Entries of a map -/

namespace Sys2Proof.Scope
open Sys2Proof.Machine Sys2Proof.Laws

variable {α : Type} {l : List (Nat × α)} {k j : Nat} {v d : α}

theorem nget_of_mem (hr : rising l = true) (h : (k, v) ∈ l) : nget d l k = v := by
  induction l with
  | nil => simp at h
  | cons x r ih =>
    obtain ⟨k', w⟩ := x
    obtain ⟨ha, hr'⟩ := rising_cons.1 hr
    rcases List.mem_cons.1 h with h | h
    · obtain ⟨rfl, rfl⟩ := Prod.mk.inj h
      simp [nget]
    · rw [nget, if_neg (ha _ h).ne, ih hr' h]

theorem mem_of_nget (h : nget d l k ≠ d) : (k, nget d l k) ∈ l := by
  induction l with
  | nil => exact absurd rfl h
  | cons x r ih =>
    obtain ⟨k', w⟩ := x
    by_cases hk : k' = k
    · subst hk
      simp [nget]
    · simp only [nget, if_neg hk] at h ⊢
      exact List.mem_cons_of_mem _ (ih h)

theorem nfind_filter_of_ne (h : j ≠ k) : nfind (l.filter fun x => x.1 != k) j = nfind l j := by
  induction l with
  | nil => rfl
  | cons x r ih =>
    obtain ⟨k', w⟩ := x
    by_cases hj : k' = j
    · subst hj
      simp [nfind, h]
    · by_cases hk : k' = k <;> simp [nfind, hj, hk, ih, h.symm]

end Sys2Proof.Scope

/-! ### What recording an event leaves -/

namespace Sys2Proof.Scope
open Sys2Proof.Machine Sys2Proof.Laws

variable {m : Module}

/-- The debug block without the counts that recording an event moves: the Corridor's bytes and the counts of events (R33, R717). -/
def uncounted (d : Dbg) : Dbg := { d with corTx := [], corRx := [], evtSev := [], pErrE := [] }

theorem uncounted_cross (src dst n : Nat) (d : Dbg) : uncounted (d.cross src dst n) = uncounted d := by
  unfold Dbg.cross
  split <;> rfl

theorem uncounted_note (e : Event) (m : Module) : uncounted (note e m).dbg = uncounted m.dbg := by
  unfold note
  extract_lets p bad d m1 m2 h m3 m4 m5
  have h1 : uncounted m1.dbg = uncounted m.dbg := uncounted_cross (evWing e) 0 32 m.dbg
  have h2 : m2.dbg = m1.dbg := by
    dsimp only [m2]
    split
    · exact (eff_taint p e.step m1).same .dbg (by decide)
    · rfl
  have h5 : m5.dbg = m2.dbg := (eff_ringPut 0 e m4).same .dbg (by decide)
  split
  · rw [(eff_ringPut (p + 1) e m5).same .dbg (by decide), h5, h2, h1]
  · rw [h5, h2, h1]

/-- A trace record is captured under no lock (R730). -/
theorem traceEv_locked {m : Module} (h : m.sec.locked = true) (kind w0 part ctx qcls : Nat) (w3 : W64) :
    traceEv kind w0 part ctx qcls w3 m = m := if_neg (by simp [capturing, h])

theorem uncounted_ev_locked {m : Module} (h : m.sec.locked = true) (cls code unit sev part ctx : Nat) (d : W64) :
    uncounted (ev cls code unit sev part ctx d m).dbg = uncounted m.dbg := by
  unfold ev evRec
  rw [traceEv_locked]
  · exact uncounted_note ..
  · exact (congrArg Sec.locked ((eff_note ..).same .sec (by decide))).trans h

/-- The debug block without what recording an event changes: those counts, and the trace buffer with its losses (R62, R724). -/
def unrecorded (d : Dbg) : Dbg := { uncounted d with buffer := [], lost := 0, lostNow := 0, lostWin := none }

theorem unrecorded_note (e : Event) (m : Module) : unrecorded (note e m).dbg = unrecorded m.dbg :=
  congrArg (fun d => { d with buffer := [], lost := 0, lostNow := 0, lostWin := none }) (uncounted_note e m)

theorem unrecorded_traceEv (kind w0 part ctx qcls : Nat) (w3 : W64) (m : Module) :
    unrecorded (traceEv kind w0 part ctx qcls w3 m).dbg = unrecorded m.dbg := by
  unfold traceEv
  extract_lets d partOk clsOk
  split
  · unfold traceBuffer
    extract_lets d' need lr m1
    split
    · rfl
    · split
      · rfl
      · exact unrecorded_note ..
  · rfl

theorem unrecorded_ev (cls code unit sev part ctx : Nat) (d : W64) (m : Module) :
    unrecorded (ev cls code unit sev part ctx d m).dbg = unrecorded m.dbg :=
  (unrecorded_traceEv ..).trans (unrecorded_note ..)

/-- An event taints a step only from severity 4 on, of a partition, and not of the class of a Vestibule or of the mirror (R522). -/
def taints (e : Event) : Bool := decide (e.sev.toNat ≥ 4) && decide (e.part.toNat < 16) && e.cls != 0x16 && e.cls != 0x17

theorem note_vst_untainting {e : Event} (h : taints e = false) (m : Module) : (note e m).vst = m.vst := by
  unfold note
  extract_lets p bad d m1 m2 hl m3 m4 m5
  have h2 : m2.vst = m1.vst := congrArg Module.vst (if_neg (Bool.eq_false_iff.1 h))
  have h5 : m5.vst = m2.vst := (eff_ringPut 0 e m4).same .vst (by decide)
  split
  · exact ((eff_ringPut (p + 1) e m5).same .vst (by decide)).trans (h5.trans h2)
  · exact h5.trans h2

theorem ev_vst_untainting {cls code unit sev part ctx : Nat} {d : W64} {m : Module}
    (h : taints (mkEvent cls code unit sev part ctx d m) = false) : (ev cls code unit sev part ctx d m).vst = m.vst :=
  (traceEv_vst ..).trans (note_vst_untainting h m)

end Sys2Proof.Scope

/-! ### Breakpoints (O12) -/

namespace Sys2Proof.Scope
open Sys2Proof.Machine Sys2Proof.Laws

variable {s : State} {m : Module} {hk p c : Nat}

/-- The harts of a list halt at a breakpoint. -/
def haltAll (l : List Nat) (m : Module) : Module := l.foldl (fun m x => m.setHart x (haltAtBp (m.hart x))) m

/-- The instant of a partition's last hit (R739), kept as its successor. -/
def hitNow (p : Nat) (m : Module) : Module :=
  { m with dbg := { m.dbg with hitAt := nset 0 m.dbg.hitAt p (m.clk.elapsed + 1) } }

/-- A comparator that is met halts its hart first, with whatever others, notes the instant, and is traced and recorded. -/
theorem bpHit_eq (hk p c : Nat) (m : Module) : ∃ (l : List Nat) (w : Nat) (d : W64),
    bpHit hk p c m = ev 0x1D 3 (hk / 4) 1 p c d (traceEv 6 w p c 0 (m.hart hk).pc (hitNow p (haltAll (hk :: l) m))) :=
  ⟨_, _, _, rfl⟩

theorem eff_haltAll (l : List Nat) (m : Module) : Eff [.harts] m (haltAll l m) :=
  .fold (.refl m) fun _ _ => eff_setHart ..

theorem haltAll_hart (l : List Nat) (hr : rising m.harts = true) : (haltAll (hk :: l) m).hart hk = haltAtBp (m.hart hk) := by
  refine (List.foldlRecOn (motive := fun a : Module => rising a.harts = true ∧ a.hart hk = haltAtBp (m.hart hk)) l _ ?_ ?_).2
  · exact ⟨rising_nset hr, setHart_get m hk _ hr⟩
  · rintro a ⟨ha, hh⟩ x -
    refine ⟨rising_nset ha, ?_⟩
    by_cases hx : hk = x
    · subst hx
      rw [setHart_get a hk _ ha, hh]
      rfl
    · rw [setHart_get_ne _ _ _ _ hx, hh]

theorem bpHit_hart (hi : m.Inv) : (bpHit hk p c m).hart hk = haltAtBp (m.hart hk) := by
  obtain ⟨l, w, d, h⟩ := bpHit_eq hk p c m
  have h2 : (bpHit hk p c m).harts = (haltAll (hk :: l) m).harts := by
    rw [h, (eff_ev ..).same .harts (by decide), (eff_traceEv ..).same .harts (by decide)]
    rfl
  exact (congrArg (nget Hart.init · hk) h2).trans (haltAll_hart l (rising_harts hi))

theorem bpHit_hitAt (hk p c : Nat) (m : Module) : (bpHit hk p c m).dbg.hitAt = nset 0 m.dbg.hitAt p (m.clk.elapsed + 1) := by
  obtain ⟨l, w, d, h⟩ := bpHit_eq hk p c m
  have h1 := eff_haltAll (hk :: l) m
  have h2 : (bpHit hk p c m).dbg.hitAt = (hitNow p (haltAll (hk :: l) m)).dbg.hitAt := by
    rw [h]
    exact congrArg Dbg.hitAt (a₁ := unrecorded _) (a₂ := unrecorded _) ((unrecorded_ev ..).trans (unrecorded_traceEv ..))
  rw [h2, hitNow, h1.same .dbg (by decide), h1.same .clk (by decide)]

/-- A hart that issues and whose comparator is met does nothing else. -/
theorem hartStep_bpMeets (h : bpMeets m hk = true) : hartStep hk p c m = bpHit hk p c m := if_pos h

theorem bpMeets_iff : bpMeets m hk = true ↔ m.sec.locked = false ∧ bit (nget 0 m.dbg.bp hk) 63 = true ∧ (m.hart hk).bpSkip = false
    ∧ (m.hart hk).pc.toNat = fld (nget 0 m.dbg.bp hk) 2 38 * 4 := by
  simp [bpMeets, and_assoc]

/-- A hart halted at a breakpoint goes on (R734, R735); nothing but it, and its partition's watchdog, changes. -/
theorem bpResume_hart {step : Bool} (hi : m.Inv) (hb : (m.hart hk).bpHalt = true) :
    (bpResume hk step m).hart hk
      = { m.hart hk with bpHalt := false, bpStep := step, bpSkip := true, lastProgress := m.clk.elapsed }
    ∧ ∀ j, j ≠ hk → (bpResume hk step m).hart j = m.hart j := by
  unfold bpResume
  rw [if_neg (by simp [hb])]
  extract_lets m1
  have h1 : m1.hart hk = _ := setHart_get m hk _ (rising_harts hi)
  have h2 : ∀ j, j ≠ hk → m1.hart j = m.hart j := fun j hj => setHart_get_ne _ _ _ _ hj
  split
  · exact ⟨h1, h2⟩
  · exact ⟨h1, h2⟩

end Sys2Proof.Scope

section
open Sys2Proof Sys2Proof.Machine Sys2Proof.Scope

/-- Settles O12, by what meeting a comparator and going on do to the hart, and by what recording an event leaves of the debug block. -/
theorem breakpointsHaltAndResumeHarts : Obligations.BreakpointsHaltAndResumeHarts := by
  intro s core hart hi hk h
  refine ⟨fun waits p c his hl hb hs hp => ?_, fun hb => ?_, fun hb => ?_, fun p => ?_⟩
  · have h1 := Laws.eff_issued core.val hart.val s.m
    have hm : bpMeets (issued core.val hart.val s.m) hk = true := bpMeets_iff.2 ⟨hl, hb, hs, hp⟩
    refine completes_of_done (m := bpHit hk p c (issued core.val hart.val s.m))
      ((exec_hartInstruction his).trans (congrArg (done s) (hartStep_bpMeets hm))) ⟨bpHit_hart (h1.keeps.inv hi), bpHit_hitAt .., ?_⟩
    exact ((h1.mono rfl).trans ((Laws.eff_bpHit ..).mono rfl)).same
  · obtain ⟨h1, h2⟩ := bpResume_hart (step := false) hi hb
    exact completes_of_done (m := bpResume hk false s.m) rfl ⟨h1, h2, (Laws.eff_bpResume ..).same⟩
  · obtain ⟨h1, h2⟩ := bpResume_hart (step := true) hi hb
    exact completes_of_done (m := bpResume hk true s.m) rfl ⟨h1, h2, (Laws.eff_bpResume ..).same⟩
  · intro t ht hc hf
    show execDrained p s = _
    unfold execDrained
    extract_lets p' cs t' m1
    refine if_neg ?_
    simpa [p', cs, t', t, ht, hc, fenceDone, List.isEmpty_iff] using hf

end

/-! ### The management bus and JTAG (O50) -/

section
open Sys2Proof Sys2Proof.Machine Sys2Proof.Scope

/-- Settles O50, by the branch of each row that the statement names. -/
theorem managementBusAndJtagAct : Obligations.ManagementBusAndJtagAct := by
  refine ⟨fun s => ⟨fun off ho => if_pos ho, fun off val => rfl, fun off val ho hb => ?_, fun off val ho hb => ?_, fun addr => rfl, rfl⟩,
    fun s => ⟨?_, rfl, fun dr => ⟨fun hl => ?_, fun hl => ?_⟩, fun code hc => ?_⟩⟩
  · exact (if_pos ho).trans (if_neg (Bool.eq_false_iff.1 hb))
  · exact (if_pos ho).trans (if_pos hb)
  · intro c ir h
    rcases List.mem_pair.1 h with h | h <;> obtain ⟨rfl, rfl⟩ := Prod.mk.inj h <;> exact ⟨_, rfl, _, rfl⟩
  · exact congrArg (done s) (if_pos hl)
  · have hd : exec (.dbgacc dr) s = done s (dbgAccess dr s.m) := congrArg (done s) (if_neg (by simp [hl]))
    refine ⟨fun h => ?_, fun h => ?_, fun h => ?_⟩
    · exact hd.trans (congrArg (done s) (if_pos h))
    · exact hd.trans (congrArg (done s) ((if_neg (by omega)).trans (if_pos h)))
    · exact hd.trans (congrArg (done s) ((if_neg (by omega)).trans (if_neg (by omega))))
  · exact if_neg (by simpa using hc)

end

/-! ### The lock and the keys (O46) -/

namespace Sys2Proof.Scope
open Sys2Proof.Machine Sys2Proof.Laws

variable {s : State} {m : Module} {x : Sec} {c : Instr} {code sev : Nat} {d : W64}

theorem sameBut_setSec (h : m.sec.locked = true → x.locked = true) : SameBut [.sec] m (setSec x m) :=
  (eff_setSec rfl (.refl m) h).same

/-- A row that leaves the security block as `x` and records it. -/
theorem completes_secEv {P : Module → Prop} (hl : s.m.sec.locked = true → x.locked = true) (h : exec c s = done s (secEv code sev d (setSec x s.m)))
    (hP : ∀ m, m.sec = x → SameBut ([.sec] ++ evParts) s.m m → P m) : Completes c s P := by
  have he := eff_secEv code sev d (setSec x s.m)
  refine completes_of_done h (hP _ (he.same .sec (by decide)) ?_)
  exact (Eff.trans (eff_setSec (x := x) rfl (Eff.refl s.m) hl) (he.mono rfl)).same

/-! #### The lock -/

/-- A hart of the list resumes when it is halted at a breakpoint (R736). -/
def wakeHart (m : Module) (x : Nat × Hart) : Module :=
  if x.2.bpHalt then m.setHart x.1 { x.2 with bpHalt := false, bpStep := false, lastProgress := m.clk.elapsed } else m

/-- The trace buffer is discarded and counted (R730). -/
def dropTrace (m : Module) : Module :=
  { m with dbg := { m.dbg with lost := satAdd m.dbg.lost m.dbg.buffer.length, buffer := [], lostNow := 0 } }

theorem lockEffects_eq (m : Module) : lockEffects m = m.harts.foldl wakeHart (dropTrace m) := rfl

theorem wakeHart_hart_of_ne {y : Nat × Hart} {k : Nat} (h : k ≠ y.1) : (wakeHart m y).hart k = m.hart k := by
  unfold wakeHart
  split
  · exact setHart_get_ne _ _ _ _ h
  · rfl

theorem rising_wakeHart {y : Nat × Hart} (h : rising m.harts = true) : rising (wakeHart m y).harts = true := by
  unfold wakeHart
  split
  · exact rising_nset h
  · exact h

theorem wakeHart_bpHalt {y : Nat × Hart} (hr : rising m.harts = true) (hy : y.2.bpHalt = true) :
    ((wakeHart m y).hart y.1).bpHalt = false := by
  rw [wakeHart, if_pos hy, setHart_get _ _ _ hr]

theorem wakeHart_of_not {y : Nat × Hart} (hy : y.2.bpHalt = false) : wakeHart m y = m := if_neg (by simp [hy])

theorem lockEffects_hart_of_not (hi : m.Inv) {k : Nat} (hk : (m.hart k).bpHalt = false) : (lockEffects m).hart k = m.hart k := by
  rw [lockEffects_eq]
  refine foldl_keeps (f := (Module.hart · k)) (fun b y hy => ?_) (dropTrace m)
  by_cases he : k = y.1
  · have hs : m.hart y.1 = y.2 := nget_of_mem (rising_harts hi) hy
    exact congrArg (Module.hart · k) (wakeHart_of_not (by rw [← hs, ← he, hk]))
  · exact wakeHart_hart_of_ne he

theorem lockEffects_bpHalt (hi : m.Inv) (k : Nat) : ((lockEffects m).hart k).bpHalt = false := by
  by_cases hk : (m.hart k).bpHalt = false
  · rw [lockEffects_hart_of_not hi hk, hk]
  · have hne : m.hart k ≠ Hart.init := fun h => hk (h ▸ rfl)
    rw [lockEffects_eq]
    refine foldl_establishes (I := fun b : Module => rising b.harts = true) (P := fun b => (b.hart k).bpHalt = false)
      (x := (k, m.hart k)) (mem_of_nget hne) (fun b y _ hb => rising_wakeHart hb) (fun b hb => wakeHart_bpHalt hb (by simpa using hk))
      (fun b y _ hb hp => ?_) (rising_harts hi)
    cases hy : y.2.bpHalt
    · rwa [wakeHart_of_not hy]
    · by_cases he : k = y.1
      · exact he ▸ wakeHart_bpHalt hb hy
      · rwa [wakeHart_hart_of_ne he]

theorem lockEffects_dbg (m : Module) : (lockEffects m).dbg = (dropTrace m).dbg := by
  rw [lockEffects_eq]
  refine foldl_keeps (f := Module.dbg) (fun b y _ => ?_) _
  unfold wakeHart
  split <;> rfl

/-- The row that sets the lock (R656, R730, R736). -/
theorem secLock_locks {m : Module} (hl : m.sec.locked = false) (hr : lockRefusal m = none) :
    secLock m = secEv 1 1 0 (lockEffects (setSec { m.sec with locked := true } m)) := by
  simp [secLock, hl, hr]

theorem secLock_refuses {m : Module} {c : Nat} (hl : m.sec.locked = false) (hr : lockRefusal m = some c) :
    secLock m = secEv 2 2 (BitVec.ofNat 64 c) (setSec { m.sec with refusal := BitVec.ofNat 8 c } m) := by
  simp [secLock, hl, hr]

theorem secLock_acts (hi : s.m.Inv) (hl : s.m.sec.locked = false) (hr : lockRefusal s.m = none) : Completes .secLock s fun m =>
    m.sec = { s.m.sec with locked := true } ∧ m.dbg.buffer = [] ∧ m.dbg.lost = satAdd s.m.dbg.lost s.m.dbg.buffer.length
    ∧ (∀ k, (m.hart k).bpHalt = false ∧ ((s.m.hart k).bpHalt = false → m.hart k = s.m.hart k))
    ∧ SameBut ([.sec, .harts] ++ evParts) s.m m := by
  let m0 := setSec { s.m.sec with locked := true } s.m
  have h0 : Eff [.sec] s.m m0 := eff_setSec rfl (.refl _) fun _ => rfl
  have h1 : Eff [.harts, .dbg] m0 (lockEffects m0) := eff_lockEffects m0
  have h2 : Eff evParts (lockEffects m0) (secEv 1 1 0 (lockEffects m0)) := eff_secEv ..
  have hsec : (lockEffects m0).sec = { s.m.sec with locked := true } := h1.same .sec (by decide)
  have hd : uncounted (secEv 1 1 0 (lockEffects m0)).dbg = uncounted (dropTrace m0).dbg :=
    (uncounted_ev_locked (by rw [hsec]) ..).trans (congrArg uncounted (lockEffects_dbg m0))
  have hh : ∀ k, (secEv 1 1 0 (lockEffects m0)).hart k = (lockEffects m0).hart k :=
    fun k => congrArg (nget Hart.init · k) (h2.same .harts (by decide))
  refine completes_of_done (congrArg (done s) (secLock_locks hl hr)) ⟨(h2.same .sec (by decide)).trans hsec, ?_, ?_, fun k => ⟨?_, fun hk => ?_⟩, ?_⟩
  · exact congrArg Dbg.buffer hd
  · exact congrArg Dbg.lost hd
  · rw [hh]
    exact lockEffects_bpHalt (h0.keeps.inv hi) k
  · rw [hh]
    exact lockEffects_hart_of_not (h0.keeps.inv hi) hk
  · exact ((h0.mono rfl).trans ((h1.mono rfl).trans (h2.mono rfl))).same

/-! #### Slice keys (R667) -/

/-- Whether a slice's key of an epoch is held. -/
def keyHeld (m : Module) (slice : Nat) (ep : Byte) : Bool := (sliceKeys m slice).any (fun k => k.epoch = ep)

theorem keyHeld_iff {slice : Nat} {ep : Byte} : keyHeld m slice ep = true ↔ ∃ k ∈ m.sec.skeys, k.slice = slice ∧ k.epoch = ep := by
  simp [keyHeld, sliceKeys]

/-- The keys that stay beside a new one: all but the one that gives way. -/
def keysKept (m : Module) (slice : Nat) : List SKey :=
  match keyVictim m slice with
  | some v => m.sec.skeys.erase v
  | none => m.sec.skeys

/-- The key that SEC_SKEY_CMD loads. -/
def newKey (m : Module) (slice : Nat) (ep : Byte) : SKey :=
  { slice := slice, epoch := ep, key := wordsBytes m.sec.skeyData, order := m.sec.skeyOrder, counter := 0 }

variable {val : W64} {t : Struct} {e : SliceEnt}

/-- An entry of the slice table that is not there names no key (R678). -/
theorem skeyLoad_of_none (ht : m.img.active = some t) (he : t.slices[fld val 16 4]? = none) : skeyLoad val m = m := by
  unfold skeyLoad
  simp only [ht, he]

theorem skeyLoad_refuses (ht : m.img.active = some t) (he : t.slices[fld val 16 4]? = some e)
    (h : keyHeld m e.slice (BitVec.ofNat 8 (fld val 0 8)) = true ∨ m.rte.st = .armed) :
    skeyLoad val m = setSec { m.sec with
      skeyAt := instant m
      skeyStatus := m.sec.skeyStatus ||| BitVec.ofNat 2 (2 * b2n (keyHeld m e.slice (BitVec.ofNat 8 (fld val 0 8)))
        + b2n (m.rte.st = .armed)) } m := by
  unfold skeyLoad
  simp only [ht, he]
  exact if_pos (by simpa [keyHeld] using h)

theorem skeyLoad_loads (ht : m.img.active = some t) (he : t.slices[fld val 16 4]? = some e)
    (h : keyHeld m e.slice (BitVec.ofNat 8 (fld val 0 8)) = false) (ha : m.rte.st ≠ .armed) :
    skeyLoad val m = setSec { m.sec with
      skeys := keysKept m e.slice ++ [newKey m e.slice (BitVec.ofNat 8 (fld val 0 8))], skeyOrder := m.sec.skeyOrder + 1 } m := by
  unfold skeyLoad
  simp only [ht, he]
  exact if_neg (by simpa [keyHeld, ha] using h)

/-- A refused load leaves a status. -/
theorem skeyStatus_ne_zero (b : BitVec 2) {p q : Bool} (h : p = true ∨ q = true) : b ||| BitVec.ofNat 2 (2 * b2n p + b2n q) ≠ 0 := by
  revert b p q
  decide

/-- The key that gives way is an old one of the slice, not the one in force. -/
theorem of_keyVictim {slice : Nat} {v : SKey} (h : keyVictim m slice = some v) : v.slice = slice ∧ v.epoch ≠ curEpoch m slice := by
  unfold keyVictim at h
  extract_lets ks old at h
  split at h
  · cases h
  · have hold : ∀ o, old.foldl (fun a k => match a with
        | none => some k
        | some x => if k.order < x.order then some k else some x) none = some o → o ∈ old := by
      refine List.foldlRecOn (motive := fun a : Option SKey => ∀ o, a = some o → o ∈ old) old _ nofun fun a ha k hk o ho => ?_
      split at ho
      · exact Option.some.inj ho ▸ hk
      · split at ho
        · exact Option.some.inj ho ▸ hk
        · exact ha o ho
    simpa [old, ks, sliceKeys, and_assoc] using (List.mem_filter.1 (hold v h)).imp_left fun hv => (List.mem_filter.1 hv).2

theorem mem_keysKept {slice : Nat} {k : SKey} (hk : k ∈ m.sec.skeys) (h : k.slice ≠ slice ∨ k.epoch = curEpoch m slice) :
    k ∈ keysKept m slice := by
  unfold keysKept
  split
  next v hv =>
    obtain ⟨h1, h2⟩ := of_keyVictim hv
    exact (List.mem_erase_of_ne (by rintro rfl; exact h.elim (· h1) h2)).2 hk
  · exact hk

theorem length_keysKept (m : Module) (slice : Nat) : (keysKept m slice).length ≤ m.sec.skeys.length := by
  unfold keysKept
  split
  · exact List.length_erase_le
  · exact le_rfl

/-! #### Signing keys (R674) -/

/-- Whether the key in SEC_KEY_DATA is a point of the curve. -/
def keyOnCurve (m : Module) : Bool := onCurve (beNat ((keyBytes m).take 48)) (beNat ((keyBytes m).drop 48))

/-- Whether that key is revoked. -/
def keyGone (m : Module) : Bool := m.sec.revoked.contains (sha384 (keyBytes m))

/-- The code of a refused ENROL. -/
def enrolRefusal (held locked on gone : Bool) : Option Nat := firstCode [(1, held), (2, locked), (3, !on), (4, gone)]

/-- The slot with the key in it. -/
def enrolled (val : W64) (m : Module) : Sec :=
  { m.sec with keySlots := nput m.sec.keySlots (fld val 0 3) { key := keyBytes m, use := BitVec.ofNat 2 (fld val 8 2), st := 1 } }

/-- The slot revoked, and its key's digest among the revoked ones. -/
def revokedKey (val : W64) (m : Module) : Sec :=
  { m.sec with
    keySlots := nput m.sec.keySlots (fld val 0 3) { keySlot m (fld val 0 3) with st := 2 }
    revoked := m.sec.revoked ++ [sha384 (keySlot m (fld val 0 3)).key] }

theorem enrol_eq (val : W64) (m : Module) : enrol val m =
    match enrolRefusal ((keySlot m (fld val 0 3)).st = 1) m.sec.locked (keyOnCurve m) (keyGone m) with
    | some c => keyRefused c m
    | none => secEv 3 1 (BitVec.ofNat 64 (fld val 0 3)) (setSec (enrolled val m) m) := rfl

/-- The code of a refused REVOKE. -/
def revokeRefusal (held full : Bool) : Option Nat := firstCode [(5, !held), (6, full)]

theorem revoke_eq (val : W64) (m : Module) : revoke val m =
    match revokeRefusal ((keySlot m (fld val 0 3)).st = 1) (m.sec.revoked.length ≥ 64) with
    | some c => keyRefused c m
    | none => secEv 4 2 (BitVec.ofNat 64 (fld val 0 3)) (setSec (revokedKey val m) m) := rfl

/-- A refused key command leaves its code alone. -/
theorem completes_keyRefused {n : Nat} (h : exec c s = done s (keyRefused n s.m)) : Completes c s fun m =>
    m.sec = { s.m.sec with keyStatus := BitVec.ofNat 8 n } ∧ SameBut ([.sec] ++ evParts) s.m m :=
  completes_secEv (x := { s.m.sec with keyStatus := BitVec.ofNat 8 n }) (fun hl => hl) h fun _ h1 h2 => ⟨h1, h2⟩

section
variable {val : W64} {n : Nat} {held locked on gone full : Bool}

theorem enrol_refused (h1 : decide ((keySlot s.m (fld val 0 3)).st = 1) = held) (h2 : s.m.sec.locked = locked)
    (h3 : keyOnCurve s.m = on) (h4 : keyGone s.m = gone) (h : enrolRefusal held locked on gone = some n) :
    Completes (.enrol val) s fun m =>
      m.sec = { s.m.sec with keyStatus := BitVec.ofNat 8 n } ∧ SameBut ([.sec] ++ evParts) s.m m :=
  completes_keyRefused (congrArg (done s) (by rw [enrol_eq, h1, h2, h3, h4, h]))

theorem enrol_taken (h1 : decide ((keySlot s.m (fld val 0 3)).st = 1) = held) (h2 : s.m.sec.locked = locked)
    (h3 : keyOnCurve s.m = on) (h4 : keyGone s.m = gone) (h : enrolRefusal held locked on gone = none) :
    Completes (.enrol val) s fun m => m.sec = enrolled val s.m ∧ SameBut ([.sec] ++ evParts) s.m m :=
  completes_secEv (x := enrolled val s.m) (fun hl => hl) (congrArg (done s) (by rw [enrol_eq, h1, h2, h3, h4, h]))
    fun _ h1 h2 => ⟨h1, h2⟩

theorem revoke_refused (h1 : decide ((keySlot s.m (fld val 0 3)).st = 1) = held) (h2 : decide (s.m.sec.revoked.length ≥ 64) = full)
    (h : revokeRefusal held full = some n) : Completes (.revoke val) s fun m =>
      m.sec = { s.m.sec with keyStatus := BitVec.ofNat 8 n } ∧ SameBut ([.sec] ++ evParts) s.m m :=
  completes_keyRefused (congrArg (done s) (by rw [revoke_eq, h1, h2, h]))

theorem revoke_taken (h1 : decide ((keySlot s.m (fld val 0 3)).st = 1) = held) (h2 : decide (s.m.sec.revoked.length ≥ 64) = full)
    (h : revokeRefusal held full = none) :
    Completes (.revoke val) s fun m => m.sec = revokedKey val s.m ∧ SameBut ([.sec] ++ evParts) s.m m :=
  completes_secEv (x := revokedKey val s.m) (fun hl => hl) (congrArg (done s) (by rw [revoke_eq, h1, h2, h])) fun _ h1 h2 => ⟨h1, h2⟩

end

end Sys2Proof.Scope

section
open Sys2Proof Sys2Proof.Machine Sys2Proof.Scope

/-- Settles O46, by the first refusal code whose condition holds, and by what the lock, a load and a clear leave of the keys. -/
theorem lockAndKeysFollowTheirRules : Obligations.LockAndKeysFollowTheirRules := by
  intro s hi x refused
  refine ⟨fun hl => ?_, fun hl => ⟨fun c hc => ?_, fun hr => secLock_acts hi hl hr⟩, fun val => ?_, fun val t ht => ?_, fun p => ⟨rfl, ?_⟩⟩
  · exact congrArg (done s) (if_pos hl)
  · exact completes_secEv (x := { s.m.sec with refusal := BitVec.ofNat 8 c }) (fun hl => hl)
      (congrArg (done s) (secLock_refuses hl hc)) fun _ h1 h2 => ⟨h1, h2⟩
  · intro i k slot held point gone
    have hg : keyGone s.m = true ↔ gone := List.contains_iff_mem
    refine ⟨fun h1 => ?_, fun h1 h2 => ?_, fun h1 h2 h3 => ?_, fun h1 h2 h3 h4 => ?_, fun h1 h2 h3 h4 => ?_, fun h1 => ?_, fun h1 h2 => ?_,
      fun h1 h2 => ?_⟩
    · exact enrol_refused (n := 1) (decide_eq_true h1) rfl rfl rfl rfl
    · exact enrol_refused (n := 2) (decide_eq_false h1) h2 rfl rfl rfl
    · exact enrol_refused (n := 3) (decide_eq_false h1) h2 (Bool.eq_false_iff.2 h3) rfl rfl
    · exact enrol_refused (n := 4) (decide_eq_false h1) h2 h3 (hg.2 h4) rfl
    · exact enrol_taken (decide_eq_false h1) h2 h3 (Bool.eq_false_iff.2 fun h => h4 (hg.1 h)) rfl
    · exact revoke_refused (n := 5) (decide_eq_false h1) rfl rfl
    · exact revoke_refused (n := 6) (decide_eq_true h1) (decide_eq_true h2) rfl
    · exact revoke_taken (decide_eq_true h1) (decide_eq_false (not_le.2 h2)) rfl
  · intro ep
    refine ⟨fun he => congrArg (done s) (skeyLoad_of_none ht he), fun e he => ?_⟩
    intro held
    refine ⟨fun h => ?_, fun h ha => ?_⟩
    · have hk := skeyLoad_refuses ht he (h.imp_left keyHeld_iff.2)
      exact completes_of_done (congrArg (done s) hk) ⟨rfl, skeyStatus_ne_zero _ (h.imp keyHeld_iff.2 (by simp)), sameBut_setSec id⟩
    · have hf : keyHeld s.m e.slice ep = false := Bool.eq_false_iff.2 fun hk => h (keyHeld_iff.1 hk)
      refine completes_of_done (congrArg (done s) (skeyLoad_loads ht he hf ha)) ⟨sameBut_setSec id,
        ⟨newKey s.m e.slice ep, ?_⟩, fun k hk h => ?_, ?_⟩
      · simp [setSec, newKey, ep, x]
      · exact List.mem_append_left _ (mem_keysKept hk h)
      · simpa [setSec] using length_keysKept s.m e.slice
  · exact completes_of_done (m := ckeyClear p.val s.m) rfl ⟨nfind_filter_self .., fun q hq => nfind_filter_of_ne hq,
      sameBut_setSec (x := { s.m.sec with ckeys := s.m.sec.ckeys.filter (fun y => y.1 != p.val) }) id⟩

end

/-! ### Throttles, calibration and the hold-up store (O45) -/

namespace Sys2Proof.Scope
open Sys2Proof.Machine Sys2Proof.Laws

variable {s : State} {m : Module} {r n : Nat} {x y w : Pwr} {z : Reason}

/-! #### Reasons -/

/-- A throttle reason without the window in which it was last recorded. -/
def seenless (z : Reason) : Reason := { z with seenWin := none }

/-- A power block whose reason `r` is `z`, whenever it was recorded last, and which is otherwise `x` but for the deepest levels. -/
structure ReasonIs (r : Nat) (z : Reason) (x y : Pwr) : Prop where
  reason : seenless (y.reason r) = seenless z
  rest : y = { x with reasons := y.reasons, deepest := y.deepest }

namespace ReasonIs

theorem refl (r : Nat) (x : Pwr) : ReasonIs r (x.reason r) x x := ⟨rfl, rfl⟩

theorem trans (h : ReasonIs r z x y) (k : ReasonIs r (y.reason r) y w) : ReasonIs r z x w :=
  ⟨k.reason.trans h.reason, by rw [k.rest, h.rest]⟩

theorem active (h : ReasonIs r z x y) : (y.reason r).active = z.active :=
  (congrArg Reason.active h.reason :)
theorem level (h : ReasonIs r z x y) : (y.reason r).level = z.level :=
  (congrArg Reason.level h.reason :)
theorem deepest (h : ReasonIs r z x y) : (y.reason r).deepest = z.deepest :=
  (congrArg Reason.deepest h.reason :)
theorem start (h : ReasonIs r z x y) : (y.reason r).start = z.start :=
  (congrArg Reason.start h.reason :)
theorem lastStep (h : ReasonIs r z x y) : (y.reason r).lastStep = z.lastStep :=
  (congrArg Reason.lastStep h.reason :)
theorem guard (h : ReasonIs r z x y) : y.guard = x.guard :=
  (congrArg Pwr.guard h.rest :)
theorem op (h : ReasonIs r z x y) : y.op = x.op :=
  (congrArg Pwr.op h.rest :)

end ReasonIs

/-- A reason that is active is not the one that stands for none. -/
theorem reason_setReason (hz : z.active = true) : (setReason r z m).pwr.reason r = z :=
  nget_nset_of_ne_default (by rintro rfl; cases hz)

theorem setReason_is (hz : z.active = true) : ReasonIs r z m.pwr (setReason r z m).pwr :=
  ⟨congrArg seenless (reason_setReason hz), rfl⟩

theorem noteDeepest_pwr (m : Module) : (noteDeepest m).pwr = { m.pwr with deepest := (noteDeepest m).pwr.deepest } := by
  unfold noteDeepest
  exact List.foldlRecOn (motive := fun a : Module => a.pwr = { m.pwr with deepest := a.pwr.deepest }) _ _ rfl
    fun a ha p _ => by
      dsimp only
      rw [ha]

/-- A reason once its level is `n` (R636). -/
def levelled (n now : Nat) (z : Reason) : Reason :=
  { z with level := min 255 n, deepest := max (min 255 n) z.deepest, lastStep := now }

theorem noteDeepest_is (r : Nat) (m : Module) : ReasonIs r (m.pwr.reason r) m.pwr (noteDeepest m).pwr := by
  have h := noteDeepest_pwr m
  generalize (noteDeepest m).pwr = y at h
  refine ⟨?_, ?_⟩
  · rw [h]
    rfl
  · rw [h]

theorem setLevel_pwr (r n : Nat) (m : Module) :
    (setLevel r n m).pwr = (noteDeepest (setReason r (levelled n m.clk.elapsed (m.pwr.reason r)) m)).pwr := by
  unfold setLevel
  extract_lets x n' was m1
  have h : m1 = noteDeepest (setReason r (levelled n m.clk.elapsed (m.pwr.reason r)) m) := by
    unfold levelled
    rfl
  rw [h]
  split
  · exact (eff_trayAlert ..).same .pwr (by decide)
  · rfl

theorem setLevel_is (h : (m.pwr.reason r).active = true) :
    ReasonIs r (levelled n m.clk.elapsed (m.pwr.reason r)) m.pwr (setLevel r n m).pwr := by
  rw [setLevel_pwr]
  exact (setReason_is (z := levelled n m.clk.elapsed (m.pwr.reason r)) h).trans (noteDeepest_is ..)

theorem throttleEv_is (h : (m.pwr.reason r).active = true) : ReasonIs r (m.pwr.reason r) m.pwr (throttleEv r m).pwr := by
  unfold throttleEv
  extract_lets x w
  split
  · exact .refl r m.pwr
  · rw [(eff_pwrEv ..).same .pwr (by decide)]
    have hs : ReasonIs r { x with seenWin := some w } m.pwr (setReason r { x with seenWin := some w } m).pwr := setReason_is h
    exact ⟨hs.reason, hs.rest⟩

/-- A reason that begins now (R636). -/
def begun (m : Module) (z : Reason) : Reason := { z with active := true, level := 0, deepest := 0, start := beatNow m }

theorem startReason_is (r n : Nat) (m : Module) :
    ReasonIs r (levelled n m.clk.elapsed (begun m (m.pwr.reason r))) m.pwr (startReason r n m).pwr := by
  have h1 : ReasonIs r (begun m (m.pwr.reason r)) m.pwr (setReason r (begun m (m.pwr.reason r)) m).pwr := setReason_is rfl
  have h2 := setLevel_is (n := n) (m := setReason r (begun m (m.pwr.reason r)) m) h1.active
  rw [reason_setReason rfl] at h2
  have h3 := throttleEv_is (m := setLevel r n (setReason r (begun m (m.pwr.reason r)) m)) h2.active
  exact ⟨(h2.trans h3).reason, ((h2.trans h3).rest).trans rfl⟩

/-- A reason that rises by an alarm or while its cause lasts (R636). -/
theorem raise_is (h : (m.pwr.reason r).active = true) : ReasonIs r (levelled n m.clk.elapsed (m.pwr.reason r)) m.pwr
    (throttleEv r (setLevel r n m)).pwr := by
  have h1 := setLevel_is (n := n) h
  exact h1.trans (throttleEv_is (h1.active.trans h))

theorem clk_raise (r n : Nat) (m : Module) : (throttleEv r (setLevel r n m)).clk = m.clk :=
  ((eff_throttleEv ..).same .clk (by decide)).trans ((eff_setLevel ..).same .clk (by decide))

theorem pwr_passTo (t : Nat) (m : Module) : (passTo t m).pwr = m.pwr := (eff_passTo t m).same .pwr (by decide)

/-! #### The rows of throttles (R636, R637) -/

section
variable {reason : Fin 6}

theorem riseBeats_eq (h : r < 5) (h0 : 0 < r) : riseBeats r = if r ≤ 2 then 1 else 16 := by
  unfold riseBeats
  split <;> simp_all <;> omega

theorem fallBeats_eq (h : r < 5) (h0 : 0 < r) : fallBeats r = if r ≤ 2 then 16 else 64 := by
  unfold fallBeats
  split
  · rw [if_pos (by simp_all; omega)]
  · rw [if_neg (by omega), if_neg (by simp_all; omega)]

theorem throttle_starts (hr : r = reason.val + 1) (h5 : r < 5) (ha : (s.m.pwr.reason r).active = false)
    (h4 : r = 4 → s.m.pwr.trayLimit ≠ 0) : Completes (.throttle reason) s fun m =>
      ReasonIs r (levelled (firstLevel r) s.m.clk.elapsed (begun s.m (s.m.pwr.reason r))) s.m.pwr m.pwr ∧ m.clk = s.m.clk := by
  subst hr
  refine completes_of_done ((if_neg (by omega)).trans (if_neg ?_)) ⟨startReason_is .., (eff_startReason ..).same .clk (by decide)⟩
  simpa [ha, show reason.val + 1 ≠ 5 by omega] using h4

/-- A guard-band alarm raises reason 6, or starts it. -/
def guarded (m : Module) (z : Reason) : Reason :=
  if z.active then levelled (z.level + 1) m.clk.elapsed z else levelled 1 m.clk.elapsed (begun m z)

theorem guarded_active (m : Module) (z : Reason) : (guarded m z).active = true := by
  unfold guarded
  split
  next h => exact h
  · rfl

theorem guarded_level (m : Module) (z : Reason) : (guarded m z).level = if z.active then min 255 (z.level + 1) else 1 := by
  unfold guarded
  split <;> rfl

theorem throttle_guards (hr : reason.val + 1 = 6) : Completes (.throttle reason) s fun m =>
    ReasonIs 6 (guarded s.m (s.m.pwr.reason 6)) (guardAlarm s.m).pwr m.pwr ∧ m.clk = s.m.clk := by
  by_cases ha : (s.m.pwr.reason 6).active = true
  · have h := raise_is (m := guardAlarm s.m) (n := (s.m.pwr.reason 6).level + 1) ha
    refine completes_of_done ((if_pos hr).trans (if_pos (by rw [hr]; exact ha))) ⟨?_, ?_⟩
    · rw [guarded, if_pos ha, hr]
      exact h
    · exact clk_raise ..
  · refine completes_of_done ((if_pos hr).trans (if_neg (by rw [hr]; exact ha))) ⟨?_, ?_⟩
    · rw [guarded, if_neg ha]
      have h := startReason_is 6 1 (guardAlarm s.m)
      exact h
    · exact (eff_startReason ..).same .clk (by decide)

theorem throttle_rises (hr : r = reason.val + 1) (h5 : r < 5) (ha : (s.m.pwr.reason r).active = true) :
    Completes (.throttleLevelChange reason true) s fun m =>
      ReasonIs r (levelled ((s.m.pwr.reason r).level + riseLevels r) m.clk.elapsed (s.m.pwr.reason r)) s.m.pwr m.pwr
      ∧ m.clk = (passTo ((s.m.pwr.reason r).lastStep + (if r ≤ 2 then 1 else 16) * 1024) s.m).clk := by
  have hb := riseBeats_eq h5 (by omega)
  subst hr
  refine completes_of_done ((if_neg (by simp [ha]; omega)).trans (if_pos rfl)) ?_
  rw [clk_raise, ← hb]
  have hp := pwr_passTo ((s.m.pwr.reason (reason.val + 1)).lastStep + riseBeats (reason.val + 1) * 1024) s.m
  have h := raise_is (r := reason.val + 1) (n := (s.m.pwr.reason (reason.val + 1)).level + riseLevels (reason.val + 1)) (by rw [hp]; exact ha)
  rw [hp] at h
  exact ⟨h, rfl⟩

theorem throttle_falls (hr : r = reason.val + 1) (h5 : r < 5) (ha : (s.m.pwr.reason r).active = true)
    (h1 : 1 < (s.m.pwr.reason r).level) : Completes (.throttleLevelChange reason false) s fun m =>
      ReasonIs r (levelled ((s.m.pwr.reason r).level - 1) m.clk.elapsed (s.m.pwr.reason r)) s.m.pwr m.pwr
      ∧ m.clk = (passTo ((s.m.pwr.reason r).lastStep + (if r ≤ 2 then 16 else 64) * 1024) s.m).clk := by
  have hb := fallBeats_eq h5 (by omega)
  subst hr
  refine completes_of_done ((if_neg (by simp [ha]; omega)).trans ((if_neg (by simp)).trans (if_neg (by omega)))) ?_
  rw [(eff_setLevel ..).same .clk (by decide), ← hb]
  have hp := pwr_passTo ((s.m.pwr.reason (reason.val + 1)).lastStep + fallBeats (reason.val + 1) * 1024) s.m
  have h := setLevel_is (r := reason.val + 1) (n := (s.m.pwr.reason (reason.val + 1)).level - 1) (by rw [hp]; exact ha)
  rw [hp] at h
  exact ⟨h, rfl⟩

end

theorem endReason_reason (h : rising m.pwr.reasons = true) :
    (endReason r m).pwr.reason r = { m.pwr.reason r with active := false, level := 0, deepest := 0 } := nget_nset_self h

theorem endReason_logs (r : Nat) (m : Module) : nfind (endReason r m).pwr.thrLog (m.pwr.thrHead % 256) =
    some (pack [(r, 60), (min 255 (m.pwr.reason r).deepest, 52), ((m.pwr.reason r).start.toNat, 0)],
      (beatNow (endReason r m) - (m.pwr.reason r).start).setWidth 64) := nfind_nput_self ..

/-- A row that leaves the power block as `x` and records it. -/
theorem completes_pwrEv {P : Module → Prop} {c : Instr} {code sev : Nat} {d : W64}
    (h : exec c s = done s (pwrEv code sev d (setPwr s.m x)))
    (hP : ∀ m, m.pwr = x → m.clk = s.m.clk → SameBut ([.pwr] ++ evParts) s.m m → P m) : Completes c s P := by
  have he := eff_pwrEv code sev d (setPwr s.m x)
  exact completes_of_done h (hP _ (he.same .pwr (by decide)) (he.same .clk (by decide))
    (((eff_setPwr s.m x).mono rfl).trans (he.mono rfl)).same)

/-! #### Recalibration (R645) -/

theorem eqDue_congr {a b : Module} (h : b.port = a.port) : eqDue b = eqDue a := by
  unfold eqDue Module.port'
  rw [h]

theorem calDueUpdate_clears (hl : lightNow m = false) (he : eqDue m = 0) :
    calDueUpdate m = { m with pwr := { m.pwr with calDue := false } } :=
  if_pos (by rw [Bool.and_eq_true, Bool.not_eq_true', decide_eq_true_eq]; exact ⟨hl, he⟩)

theorem calDueUpdate_keeps (he : eqDue m ≠ 0) : calDueUpdate m = m :=
  if_neg (by rw [Bool.and_eq_true, decide_eq_true_eq]; exact fun h => he h.2)

theorem throttle_ends {reason : Fin 6} (hr : r = reason.val + 1) (h5 : r ≠ 5) (ha : (s.m.pwr.reason r).active = true)
    (h1 : r ≤ 4 → (s.m.pwr.reason r).level ≤ 1) (hs : rising s.m.pwr.reasons = true) : Completes (.throttleEnd reason) s fun m =>
      m.pwr.reason r = { s.m.pwr.reason r with active := false, level := 0, deepest := 0 } ∧ m.pwr.thrHead = s.m.pwr.thrHead + 1
      ∧ nfind m.pwr.thrLog (s.m.pwr.thrHead % 256) = some (pack [(r, 60), (min 255 (s.m.pwr.reason r).deepest, 52),
          ((s.m.pwr.reason r).start.toNat, 0)], (beatNow m - (s.m.pwr.reason r).start).setWidth 64) := by
  subst hr
  let m := passTo ((s.m.pwr.reason (reason.val + 1)).lastStep + fallBeats (reason.val + 1) * 1024) s.m
  have hp : m.pwr = s.m.pwr := pwr_passTo ..
  have hz := endReason_reason (r := reason.val + 1) (m := m) (by rw [hp]; exact hs)
  have hl := endReason_logs (reason.val + 1) m
  rw [hp] at hz hl
  refine completes_of_done (m := endReason (reason.val + 1) m) (if_neg ?_) ⟨hz, congrArg (fun p : Pwr => p.thrHead + 1) hp, hl⟩
  simpa [ha, h5] using h1

theorem lightNow_congr {a b : Module} (h : b.pwr = a.pwr) : lightNow b = lightNow a := by
  unfold lightNow
  rw [h]

/-- A recalibration ends (R645): what it leaves of the power block, CAL_DUE apart. -/
def recalibrated (minMv : BitVec 16) (band : BitVec 2) (m : Module) : Module :=
  { m with pwr := { m.pwr with
      cal := nput m.pwr.cal m.pwr.op (minMv, band, false), recal := none, loadBand := band.toNat } }

theorem recalibrated_light (minMv : BitVec 16) (band : BitVec 2) (m : Module) : lightNow (recalibrated minMv band m) = false := by
  unfold lightNow recalibrated
  dsimp only
  rw [nfind_nput_self]

theorem recalDone_ends {t : Nat} (minMv : BitVec 16) (band : BitVec 2) (h : s.m.pwr.recal = some t) :
    Completes (.recalDone minMv band) s fun m => m.clk = (passTo (t + 64 * 1024) s.m).clk
      ∧ m.pwr = { s.m.pwr with
          cal := nput s.m.pwr.cal s.m.pwr.op (minMv, band, false), recal := none, loadBand := band.toNat
          calDue := if eqDue s.m = 0 then false else s.m.pwr.calDue } := by
  let m0 := recalibrated minMv band (passTo (t + 64 * 1024) s.m)
  let m1 := pwrEv 7 0 (pack [(minMv.toNat, 16), (m0.pwr.op, 0)]) m0
  have h1 : Eff evParts m0 m1 := eff_pwrEv ..
  have hp : m1.pwr = (recalibrated minMv band s.m).pwr :=
    (h1.same .pwr (by decide)).trans (congrArg (fun p : Pwr => ({ p with
      cal := nput p.cal p.op (minMv, band, false), recal := none, loadBand := band.toNat } : Pwr)) (pwr_passTo ..))
  have hl : lightNow m1 = false := (lightNow_congr hp).trans (recalibrated_light minMv band s.m)
  have he : eqDue m1 = eqDue s.m := eqDue_congr ((h1.same .port (by decide)).trans ((eff_passTo ..).same .port (by decide)))
  have hc : m1.clk = (passTo (t + 64 * 1024) s.m).clk := h1.same .clk (by decide)
  have hx : exec (.recalDone minMv band) s = done s (calDueUpdate m1) := by
    show execRecalDone minMv band s = _
    unfold execRecalDone
    rw [h]
    rfl
  refine completes_of_done hx ?_
  clear_value m1
  by_cases hz : eqDue s.m = 0
  · rw [calDueUpdate_clears hl (he.trans hz), if_pos hz]
    exact ⟨hc, congrArg (fun p : Pwr => { p with calDue := false }) hp⟩
  · rw [calDueUpdate_keeps (he ▸ hz), if_neg hz]
    exact ⟨hc, hp⟩

/-- A voltage just measured is the hold-up voltage now. -/
theorem measuredNow_of_measuredAt (h : m.pwr.measuredAt = m.clk.elapsed) (hm : m.pwr.measured.toNat < 3000) :
    measuredNow m = m.pwr.measured.toNat := by
  simp [measuredNow, holdVolts, h]
  omega

end Sys2Proof.Scope

section
open Sys2Proof Sys2Proof.Machine Sys2Proof.Scope

/-- Settles O45, by what each row of a throttle leaves of its reason, and of the rest of the power block. -/
theorem throttlesCalibrationAndHoldUp : Obligations.ThrottlesCalibrationAndHoldUp := by
  refine ⟨fun s => ?_, fun s => ?_⟩
  · intro x
    refine ⟨fun reason => ?_, fun c hc => ?_⟩
    · intro r y
      refine ⟨fun h5 ha h4 => ?_, fun h6 => ?_, fun h5 ha => ⟨?_, fun h1 => ?_⟩, fun h5 ha h1 hr => ?_⟩
      · refine (throttle_starts rfl h5 ha h4).imp fun m ⟨he, h, hc⟩ => ⟨he, ?_⟩
        have hl : min 255 (firstLevel r) = if r = 2 then 2 else 1 := by
          unfold firstLevel
          split <;> rfl
        refine ⟨h.active, h.level.trans hl, ?_, h.start, h.guard, h.op, hc⟩
        rw [h.deepest, h.level]
        exact Nat.max_zero _
      · have hy : y = s.m.pwr.reason 6 := congrArg s.m.pwr.reason h6
        refine (throttle_guards h6).imp fun m ⟨he, h, hc⟩ => ⟨he, ?_⟩
        dsimp only
        rw [h6, h.active, h.level, hy, guarded_active, guarded_level]
        exact ⟨rfl, rfl, h.guard, hc⟩
      · refine (throttle_rises rfl h5 ha).imp fun m ⟨he, h, hc⟩ => ⟨he, h.level, h.active.trans ha, ?_, hc, h.lastStep⟩
        rw [h.deepest, h.level]
        rfl
      · exact (throttle_falls rfl h5 ha h1).imp fun m ⟨he, h, hc⟩ => ⟨he, h.level, h.active.trans ha, h.start, hc⟩
      · refine (throttle_ends rfl h5 ha h1 hr).imp fun m ⟨he, hz, hh, hl⟩ => ⟨he, ?_, ?_, hh, hl⟩
        · rw [hz]
        · rw [hz]
    · have hx : exec .opChanged s = done s (opChangedEv (setPwr (passTo c.due s.m)
          { (passTo c.due s.m).pwr with clockOp := c.op, change := none })) := by
        show execOpChanged s = _
        unfold execOpChanged
        rw [hc]
        rfl
      have he := Laws.eff_opChangedEv (setPwr (passTo c.due s.m) { (passTo c.due s.m).pwr with clockOp := c.op, change := none })
      refine completes_of_done hx ⟨(he.same .pwr (by decide)).trans ?_, he.same .clk (by decide)⟩
      exact congrArg (fun p : Pwr => { p with clockOp := c.op, change := none }) (pwr_passTo ..)
  · intro x
    refine ⟨fun temp => ⟨fun ht => ?_, fun ht => ?_⟩, fun hd hl => ?_, fun t minMv band ht => ?_, fun v hv => ?_, fun a b hab => ?_⟩
    · exact completes_pwrEv (if_pos ht) fun m h1 _ h2 => ⟨h1, h2⟩
    · have he := Laws.eff_pwrEv 5 6 (temp.setWidth 64) (setPwr s.m { x with temp := temp })
      have hx : exec (.thermTrip temp) s = _ := if_pos ht
      exact completes_of_done hx ⟨congrArg (fun p : Pwr => { p with therm := true }) (he.same .pwr (by decide)), rfl,
        sameBut_of_exec hx⟩
    · refine completes_pwrEv (if_neg ?_) fun m h1 _ h2 => ⟨h1, h2⟩
      have hd' : s.m.pwr.calDue = false := hd
      rcases hl with hl | hl
      · simp [hd', hl]
      · have he : decide (eqDue s.m = 0) = false := decide_eq_false hl
        rw [hd', he, Bool.and_false]
        decide
    · refine (recalDone_ends minMv band ht).imp fun m ⟨he, hc, hp⟩ => ⟨he, hc, ?_⟩
      rw [hp]
      exact ⟨rfl, rfl, rfl, nfind_nput_self .., fun h => if_pos h, fun h => if_neg h⟩
    · refine completes_pwrEv (if_pos hv) fun m h1 hc h2 => ⟨h1, ?_, h2⟩
      have hm := measuredNow_of_measuredAt (m := m) (by rw [h1, hc]) (by rw [h1]; exact hv)
      rw [hm, h1]
    · exact completes_pwrEv (if_pos hab) fun m h1 _ h2 => ⟨h1, h2⟩

end

/-! ### Requesters and the host link (O47) -/

namespace Sys2Proof.Scope
open Sys2Proof.Machine Sys2Proof.Laws

variable {s : State} {a b c m m' : Module} {l : List Part}

/-! #### Rings that are off take no record (R701, R703) -/

/-- Every event ring is off. -/
def RingsOff (m : Module) : Prop := rising m.pci.evr = true ∧ ∀ f, (m.evr' f).enable = false

/-- What is done changes nothing of the host link but its rings, and turns none of them on. -/
structure Quiet (a b : Module) : Prop where
  pci : b.pci = { a.pci with evr := b.pci.evr }
  perst : b.tray.perstN = a.tray.perstN
  off : RingsOff a → RingsOff b

theorem Quiet.refl (m : Module) : Quiet m m := ⟨rfl, rfl, id⟩

theorem Quiet.trans (h : Quiet a b) (k : Quiet b c) : Quiet a c := ⟨by rw [k.pci, h.pci], k.perst.trans h.perst, k.off ∘ h.off⟩

/-- Read backwards: what is done last is quiet, and what is done before. -/
theorem Quiet.after (k : Quiet b c) (h : Quiet a b) : Quiet a c := h.trans k

theorem Quiet.of_pci (h : b.pci = a.pci) (ht : b.tray.perstN = a.tray.perstN) : Quiet a b :=
  ⟨by rw [h], ht, fun ha => by
    unfold RingsOff Module.evr'
    rw [h]
    exact ha⟩

theorem Quiet.of_eff (h : Eff l a b) (hl : Part.pci ∉ l ∧ Part.tray ∉ l) : Quiet a b :=
  .of_pci (h.same .pci hl.1) (congrArg Tray.perstN (h.same .tray hl.2))

theorem Quiet.fold {α : Type} {g : Module → α → Module} {r : List α} (h : Quiet a b) (hg : ∀ m, ∀ x ∈ r, Quiet m (g m x)) :
    Quiet a (r.foldl g b) :=
  List.foldlRecOn (motive := Quiet a) r g h fun _ hm x hx => hm.trans (hg _ x hx)

/-- A ring that is off loses the record (R704). -/
theorem ringPut_off {f : Nat} {e : Event} (h : RingsOff m) : ringPut f e m =
    m.setEvr f { m.evr' f with lost := satAdd (m.evr' f).lost 1, lostSince := (m.evr' f).lostSince + 1 } := by
  have hr : (m.evr' f).room = false := by simp [Evr.room, h.2 f]
  have ho : ringOverflow f m = m := if_neg (by simp [hr])
  unfold ringPut
  rw [ho]
  exact if_neg (by simp [hr])

theorem ringsOff_setEvr {f : Nat} {r : Evr} (h : RingsOff m) (hr : r.enable = false) : RingsOff (m.setEvr f r) := by
  refine ⟨rising_nset h.1, fun j => ?_⟩
  by_cases hj : j = f
  · subst hj
    exact (congrArg Evr.enable (nget_nset_self h.1)).trans hr
  · exact (congrArg Evr.enable (nget_nset_of_ne hj)).trans (h.2 j)

theorem quiet_ringPut (f : Nat) (e : Event) (m : Module) : Quiet m (ringPut f e m) :=
  ⟨(evKeeps_ringPut f e m).pci, (congrArg Tray.perstN (evKeeps_ringPut f e m).tray :), fun h => ringPut_off (e := e) h ▸ ringsOff_setEvr h (h.2 f)⟩

theorem quiet_note (e : Event) (m : Module) : Quiet m (note e m) := by
  unfold note
  extract_lets p bad d m1 m2 h m3 m4 m5
  have h2 : Quiet m m2 := by
    refine Quiet.trans (b := m1) (.of_pci rfl rfl) ?_
    dsimp only [m2]
    split
    · exact .of_eff (eff_taint ..) (by decide)
    · exact .refl m1
  have h5 : Quiet m m5 := h2.trans ((Quiet.of_pci (a := m2) (b := m4) rfl rfl).trans (quiet_ringPut 0 e m4))
  split
  · exact h5.trans (quiet_ringPut ..)
  · exact h5

theorem quiet_traceEv (kind w0 part ctx qcls : Nat) (w3 : W64) (m : Module) : Quiet m (traceEv kind w0 part ctx qcls w3 m) := by
  unfold traceEv
  extract_lets d partOk clsOk
  split
  · unfold traceBuffer
    extract_lets d' need lr m1
    split
    · exact .of_pci rfl rfl
    · split
      · exact .of_pci rfl rfl
      · refine Quiet.trans ?_ (quiet_note ..)
        exact .of_pci rfl rfl
  · exact .refl m

theorem quiet_ev (cls code unit sev part ctx : Nat) (d : W64) (m : Module) : Quiet m (ev cls code unit sev part ctx d m) :=
  (quiet_note ..).trans (quiet_traceEv ..)

theorem quiet_complete (cls idx : Nat) (d : Desc) (err : Bool) (m : Module) : Quiet m (complete cls idx d err m) := by
  unfold complete
  extract_lets k g m1 m2
  refine (quiet_traceEv ..).after ((Quiet.of_eff (eff_progress ..) (by decide)).after ?_)
  exact .of_pci rfl rfl

/-! #### The end of a Flight engine's bursts (R410 to R413) -/

theorem quiet_noRoute (sl chip : Nat) (m : Module) : Quiet m (noRoute sl chip m) := by
  unfold noRoute oncePerSlice
  extract_lets m1 k old
  split
  · exact .of_pci rfl rfl
  · refine Quiet.trans ?_ (quiet_ev ..)
    exact .of_pci rfl rfl

theorem quiet_protect (k : Pkt) (m : Module) : Quiet m (protect k m).2 := by
  unfold protect
  extract_lets sl m1
  split
  · refine Quiet.trans ?_ (quiet_ev ..)
    exact .of_pci rfl rfl
  · exact .of_pci rfl rfl

theorem quiet_inject (w : Nat) (k : Pkt) (m : Module) : Quiet m (inject w k m) := by
  unfold inject
  split
  · exact .of_pci rfl rfl
  extract_lets h x k' r m1
  have h1 : Quiet m m1 := by
    dsimp only [m1, r]
    split
    · exact quiet_protect ..
    · exact .refl m
  split
  · exact h1
  split
  · exact (quiet_noRoute ..).after h1
  split
  · extract_lets p i m2
    split
    · exact (Quiet.of_eff (eff_corridor ..) (by decide)).after ((Quiet.of_eff (eff_setPort ..) (by decide)).after h1)
    · exact (Quiet.of_eff (eff_setPort ..) (by decide)).after h1
  · split
    · exact h1.trans (.of_pci rfl rfl)
    · exact h1.trans (.of_pci rfl rfl)

theorem quiet_sendNotify (f i : Nat) (o : FltOp) (m : Module) : Quiet m (sendNotify f i o m) := by
  unfold sendNotify
  extract_lets d
  split
  · exact .of_eff (eff_tagStall ..) (by decide)
  · refine (Quiet.of_eff (eff_addBurst ..) (by decide)).after ((Quiet.of_eff (eff_updFltOp ..) (by decide)).after
      ((quiet_inject ..).after ?_))
    exact .of_eff (eff_newTag ..) (by decide)

theorem quiet_settleGo (f n : Nat) (m : Module) : Quiet m (settleGo f n m) := by
  induction n generalizing m with
  | zero => exact .refl m
  | succ n ih =>
    unfold settleGo
    split
    · exact .refl m
    · split
      · exact (ih _).after ((quiet_complete ..).after (.of_eff (eff_setFlt ..) (by decide)))
      · exact .refl m

theorem quiet_sendDue (f : Nat) (m : Module) : Quiet m (sendDue f m) :=
  (Quiet.refl m).fold fun m x _ => by
    split
    · exact quiet_sendNotify ..
    · exact .refl m

theorem quiet_settleFlt (f : Nat) (m : Module) : Quiet m (settleFlt f m) := by
  refine Quiet.fold ((quiet_settleGo ..).after (quiet_sendDue ..)) fun m x _ => ?_
  exact (quiet_sendDue ..).after (.of_eff (eff_stallEnd ..) (by decide))

theorem quiet_fltError (f i code : Nat) (m : Module) : Quiet m (fltError f i code m) := by
  unfold fltError
  extract_lets x
  split
  · exact .refl m
  · exact (quiet_ev ..).after ((Quiet.of_eff (eff_updFltOp ..) (by decide)).after (.of_eff (eff_setFlt ..) (by decide)))

theorem quiet_burstFail (f i code : Nat) (o : FltOp) (b : BurstRec) (m : Module) : Quiet m (burstFail f i code o b m) := by
  unfold burstFail
  exact (quiet_settleFlt ..).after ((Quiet.of_eff (eff_setFlt ..) (by decide)).after
    ((Quiet.of_eff (eff_dropBurst ..) (by decide)).after (quiet_fltError ..)))

theorem quiet_orphanEnd (f : Nat) (o : Orphan) (late : Bool) (m : Module) : Quiet m (orphanEnd f o late m) := by
  unfold orphanEnd
  exact (quiet_settleFlt ..).after (.of_eff (eff_setFlt ..) (by decide))

theorem quiet_lateResponse {f tag : Nat} (h : lateResponse f tag m = some m') : Quiet m m' := by
  unfold lateResponse at h
  extract_lets x at h
  split at h
  · cases h
  · cases h
    exact (quiet_ev ..).after (.of_eff (eff_setFlt ..) (by decide))

/-- A burst that a host error ends, released. -/
def hostErrorEnds (f i : Nat) (b : BurstRec) (m : Module) : Module :=
  settleFlt f ((mateOf (fltError f i 0x23 m) f i b).foldl (fun m a => dropBurst f i a.tag m)
    (dropBurst f i b.tag (fltError f i 0x23 m)))

theorem quiet_hostErrorEnds (f i : Nat) (b : BurstRec) (m : Module) : Quiet m (hostErrorEnds f i b m) := by
  unfold hostErrorEnds
  refine (quiet_settleFlt ..).after (Quiet.fold ?_ fun m x _ => .of_eff (eff_dropBurst ..) (by decide))
  exact (Quiet.of_eff (eff_dropBurst ..) (by decide)).after (quiet_fltError ..)

/-- A host error ends a burst of host data or of a host write, and no other. -/
theorem fltAnswer_hostError (f i : Nat) (o : FltOp) (b : BurstRec) (m : Module) : fltAnswer f i o b .hostError m =
    match b.kind with
    | .hostData => some (hostErrorEnds f i b m)
    | .hostAck => some (hostErrorEnds f i b m)
    | _ => none := by
  unfold fltAnswer
  extract_lets d release onData
  cases b.kind <;> rfl

theorem quiet_fltAnswer {f i : Nat} {o : FltOp} {b : BurstRec} (h : fltAnswer f i o b .hostError m = some m') : Quiet m m' := by
  rw [fltAnswer_hostError] at h
  split at h
  · exact Option.some.inj h ▸ quiet_hostErrorEnds ..
  · exact Option.some.inj h ▸ quiet_hostErrorEnds ..
  · cases h

theorem quiet_fltRespond {f tag : Nat} (h : fltRespond f tag .hostError m = some m') : Quiet m m' := by
  unfold fltRespond at h
  extract_lets x at h
  split at h
  · split at h
    · exact (quiet_burstFail ..).trans (quiet_lateResponse h)
    · exact quiet_fltAnswer h
  · split at h
    · split at h
      · exact (quiet_orphanEnd ..).trans (quiet_lateResponse h)
      · exact Option.some.inj h ▸ quiet_orphanEnd ..
    · exact quiet_lateResponse h

theorem quiet_hostBurstsFail (f : Nat) (m : Module) : Quiet m (hostBurstsFail f m) :=
  (Quiet.refl m).fold fun m x _ => by
    split
    next h => exact quiet_fltRespond h
    · exact .refl m

/-! #### PERST_N and the resets of functions (R701, R702) -/

theorem quiet_linkFalls (m : Module) : Quiet (setPci (if m.pci.linkUp then linkOff m.pci else m.pci) m) (linkFalls m) := by
  unfold linkFalls
  split
  · exact quiet_ev ..
  · exact .refl m

/-- The functions in reset (R701). -/
def functionsReset (m : Module) : Module :=
  setPci { m.pci with evr := [], vfOn := 0, ide := 0, ideKeys := [] } { m with tray := { m.tray with perstN := false } }

/-- PERST_N falls, but for an image fetch. -/
def perstDrop (m : Module) : Module := (List.range 32).foldl (fun m f => hostBurstsFail f m) (linkFalls (functionsReset m))

theorem perstFall_eq (m : Module) : perstFall m = if (perstDrop m).img.st = .staging then fetchFailed (perstDrop m) else perstDrop m := by
  unfold perstFall perstDrop functionsReset
  dsimp only

theorem perstDrop_img (m : Module) : (perstDrop m).img = m.img := by
  have h : Eff [.counts, .outstanding, .harts, .mem, .flt, .port, .rte, .vst, .wdg, .hlt, .cor, .sec, .pci, .tray, .dbg, .out]
      (linkFalls (functionsReset m)) (perstDrop m) := Eff.fold (.refl _) fun _ _ => eff_hostBurstsFail ..
  exact (h.same .img (by decide)).trans ((eff_linkFalls ..).same .img (by decide))

theorem quiet_perstDrop (m : Module) : Quiet (setPci
    (if m.pci.linkUp then linkOff (functionsReset m).pci else (functionsReset m).pci) (functionsReset m)) (perstDrop m) :=
  (quiet_linkFalls (functionsReset m)).fold fun m x _ => quiet_hostBurstsFail x m

theorem ringsOff_none (h : m.pci.evr = []) : RingsOff m := by
  unfold RingsOff Module.evr'
  rw [h]
  exact ⟨rfl, fun _ => rfl⟩

/-- What PERST_N's fall leaves of the tray and the host link. -/
theorem perstDrop_off (m : Module) : (perstDrop m).tray.perstN = false ∧ (perstDrop m).pci.vfOn = 0 ∧ (perstDrop m).pci.ide = 0
    ∧ (perstDrop m).pci.linkUp = false ∧ ∀ f, ((perstDrop m).evr' f).enable = false := by
  have h := quiet_perstDrop m
  have hp := h.pci
  refine ⟨h.perst, ?_, ?_, ?_, (h.off (ringsOff_none ?_)).2⟩
  · rw [hp]
    cases m.pci.linkUp <;> rfl
  · rw [hp]
    cases m.pci.linkUp <;> rfl
  · rw [hp]
    cases hl : m.pci.linkUp
    · exact hl
    · rfl
  · cases m.pci.linkUp <;> rfl

theorem perstFall_leaves (m : Module) : (perstFall m).tray = (perstDrop m).tray ∧ (perstFall m).pci = (perstDrop m).pci
    ∧ (m.img.st = .staging → (perstFall m).img.st = .failed ∧ (perstFall m).img.lastCode = 1)
    ∧ (m.img.st ≠ .staging → (perstFall m).img = m.img) := by
  have h := perstDrop_img m
  rw [perstFall_eq, h]
  generalize perstDrop m = d at h
  split
  next hs => exact ⟨rfl, rfl, fun _ => ⟨rfl, rfl⟩, (absurd hs ·)⟩
  next hs => exact ⟨rfl, rfl, (absurd · hs), fun _ => h⟩

theorem rising_evr (h : m.Inv) : rising m.pci.evr = true := by
  have h1 := h.1
  unfold Module.canonical at h1
  simp only [Bool.and_eq_true] at h1
  exact h1.2

theorem evr_setEvr_ne {f j : Nat} (r : Evr) (h : j ≠ f) : (m.setEvr f r).evr' j = m.evr' j := nget_nset_of_ne h

theorem evr_setEvr {f : Nat} (r : Evr) (h : m.Inv) : (m.setEvr f r).evr' f = r := nget_nset_self (rising_evr h)

/-- A reset is ordered where nothing is under reset, pending or ordered, and none escalates (R565, R566). -/
theorem orderReset_idle {d : Dom} {level : Nat} (hl : level < 6) (hr : m.wdg.running = []) (ho : m.wdg.ordered = [])
    (he : m.wdg.escCount = 0) :
    orderReset d level 2 m = { m with wdg := { m.wdg with ordered := [{ dom := d, level := level, cause := 2 }] } } := by
  have hc : runningCovers m d = false := by simp [runningCovers, hr]
  have hx : escalates m d level = false := by simp [escalates, he]
  unfold orderReset
  rw [if_neg (by simp [hc]), hx]
  simp [placeOrder, hc, ho, not_le.2 hl]

/-! #### Requests (R670 to R672) -/

theorem measure_block {fn : Option Fn} {i : Byte} (h1 : 1 ≤ i.toNat) (h8 : i.toNat ≤ 8) :
    Machine.measure fn i m = emit (.spdm fn 0x60 (measurement m (fnPart fn) i.toNat)) m := by
  unfold Machine.measure
  extract_lets k v
  rw [if_neg (by omega), if_neg (by omega), if_pos h8]

theorem measure_emits (fn : Option Fn) (i : Byte) (m : Module) : ∃ code body, Machine.measure fn i m = emit (.spdm fn code body) m := by
  unfold Machine.measure
  extract_lets k v
  split
  · exact ⟨_, _, rfl⟩
  split
  · exact ⟨_, _, rfl⟩
  split
  · exact ⟨_, _, rfl⟩
  · exact ⟨_, _, rfl⟩

/-- The bit of a stream. -/
theorem bit_stream (n : Fin 9) (j : Nat) : bit (BitVec.ofNat 9 (2 ^ n.val)) j = decide (n.val = j) := by
  have h : (BitVec.ofNat 9 (2 ^ n.val)).toNat = 2 ^ n.val := Nat.mod_eq_of_lt (Nat.pow_lt_pow_right (by decide) n.isLt)
  rw [bit, h, Nat.testBit_two_pow]

theorem bit_or (x y : BitVec 9) (j : Nat) : bit (x ||| y) j = (bit x j || bit y j) := BitVec.getLsbD_or

theorem bit_and_not (x y : BitVec 9) (j : Nat) : bit (x &&& ~~~y) j = (bit x j && !bit y j) := by
  have hx : bit x j = true → j < 9 := fun h => BitVec.lt_of_getLsbD h
  refine (BitVec.getLsbD_and ..).trans ?_
  rw [BitVec.getLsbD_not]
  change (bit x j && (decide (j < 9) && !bit y j)) = _
  cases hb : bit x j
  · rfl
  · simp [hx hb]

/-- A stream's bit set, and one cleared. -/
theorem ide_on (x : BitVec 9) (n : Fin 9) : bit (x ||| BitVec.ofNat 9 (2 ^ n.val)) n = true
    ∧ ∀ j, j ≠ n.val → bit (x ||| BitVec.ofNat 9 (2 ^ n.val)) j = bit x j :=
  ⟨by rw [bit_or, bit_stream, decide_eq_true rfl, Bool.or_true],
    fun j hj => by rw [bit_or, bit_stream, decide_eq_false hj.symm, Bool.or_false]⟩

theorem ide_off (x : BitVec 9) (n : Fin 9) : bit (x &&& ~~~(BitVec.ofNat 9 (2 ^ n.val))) n = false
    ∧ ∀ j, j ≠ n.val → bit (x &&& ~~~(BitVec.ofNat 9 (2 ^ n.val))) j = bit x j :=
  ⟨by rw [bit_and_not, bit_stream, decide_eq_true rfl, Bool.not_true, Bool.and_false],
    fun j hj => by rw [bit_and_not, bit_stream, decide_eq_false hj.symm, Bool.not_false, Bool.and_true]⟩

/-- A row that leaves the host link as `x`, with the same rings, and records it. -/
theorem completes_pciEv {P : Module → Prop} {c : Instr} {x : Pci} {code sev : Nat} {d : W64} (hx : x.evr = s.m.pci.evr)
    (h : exec c s = done s (pciEv code sev d (setPci x s.m)))
    (hP : ∀ m, m.pci = { x with evr := m.pci.evr } → SameBut evParts s.m m → P m) : Completes c s P := by
  have he := eff_pciEv code sev d (setPci x s.m)
  refine completes_of_done h (hP _ (evKeeps_ev ..).pci ?_)
  exact (Eff.trans (eff_setPci (x := x) rfl (Eff.refl s.m) fun hr => hx ▸ hr) (he.mono rfl)).same

theorem ideKm_keys {n : Fin 9} {key : List Byte} (hk : key.length = 32) (on : Bool) : Completes (.ideKm n key on) s fun m =>
    bit m.pci.ide n = on ∧ (∀ j, j ≠ n.val → bit m.pci.ide j = bit s.m.pci.ide j) ∧ (on = true → nfind m.pci.ideKeys n = some key)
    ∧ (on = false → nfind m.pci.ideKeys n = none) ∧ SameBut [.pci] s.m m := by
  refine completes_of_done (if_pos hk) ?_
  cases on
  · obtain ⟨h1, h2⟩ := ide_off s.m.pci.ide n
    exact ⟨h1, h2, nofun, fun _ => nfind_filter_self .., sameBut_of_blend rfl⟩
  · obtain ⟨h1, h2⟩ := ide_on s.m.pci.ide n
    exact ⟨h1, h2, fun _ => nfind_nput_self .., nofun, sameBut_of_blend rfl⟩

theorem ideFail_ends {n : Fin 9} (hn : bit s.m.pci.ide n = true) : Completes (.ideFail n) s fun m =>
    bit m.pci.ide n = false ∧ (∀ j, j ≠ n.val → bit m.pci.ide j = bit s.m.pci.ide j) ∧ SameBut evParts s.m m := by
  obtain ⟨h1, h2⟩ := ide_off s.m.pci.ide n
  refine completes_pciEv (x := { s.m.pci with ide := s.m.pci.ide &&& ~~~(BitVec.ofNat 9 (2 ^ n.val)) }) rfl (if_pos hn)
    fun m hp hs => ?_
  rw [hp]
  exact ⟨h1, h2, hs⟩

theorem linkUp_comes {w r : Byte} {flit : Bool} (hl : linkOk w r = true) (hp : s.m.tray.perstN = true) :
    Completes (.linkUp w r flit) s fun m => m.pci.linkUp = true ∧ m.pci.width = w ∧ m.pci.rate = r ∧ m.pci.flit = flit
      ∧ SameBut evParts s.m m := by
  refine completes_pciEv (x := { s.m.pci with linkUp := true, width := w, rate := r, flit := flit }) rfl
    ((if_neg (by simp [hl])).trans (if_pos hp)) fun m hm hs => ?_
  rw [hm]
  exact ⟨rfl, rfl, rfl, rfl, hs⟩

theorem linkDown_goes (hl : s.m.pci.linkUp = true) : Completes .linkDown s fun m =>
    m.pci.linkUp = false ∧ m.pci.width = 0 ∧ m.pci.rate = 0 ∧ SameBut evParts s.m m := by
  refine completes_pciEv (x := linkOff s.m.pci) rfl ((if_pos hl).trans (congrArg (done s) (if_pos hl))) fun m hm hs => ?_
  rw [hm]
  exact ⟨rfl, rfl, rfl, hs⟩

theorem spdm_other {fn : Option Fn} {code : Byte} {body : List Byte} (hc : code ≠ 0xE0) :
    Completes (.spdmRequest fn 0x12 code body) s fun m => SameBut [.mem, .out] s.m m
      ∧ m.mem = { s.m.mem with freeCount := m.mem.freeCount }
      ∧ ∃ b, m.out = .spdm fn (if code.toNat ∈ spdmCodes then code &&& 0x7F else 0x7F) b :: s.m.out := by
  have hx : exec (.spdmRequest fn 0x12 code body) s = done s (if spdmCodes.contains code.toNat then
      emit (.spdm fn (code &&& 0x7F) (natLe 8 (freeVal s.m).1.toNat)) (freeVal s.m).2 else emit (.spdm fn 0x7F [7]) s.m) :=
    congrArg (done s) ((if_neg (by decide)).trans (if_neg hc))
  refine completes_of_done hx ⟨sameBut_of_exec hx, ?_, ?_⟩
  · split <;> rfl
  · by_cases h : code.toNat ∈ spdmCodes
    · rw [if_pos (List.contains_iff_mem.2 h), if_pos h]
      exact ⟨_, rfl⟩
    · rw [if_neg (h ∘ List.contains_iff_mem.1), if_neg h]
      exact ⟨_, rfl⟩

end Sys2Proof.Scope

section
open Sys2Proof Sys2Proof.Machine Sys2Proof.Scope

/-- Settles O47, by the branch of each row, and by what the failure of host bursts leaves of the host link. -/
theorem requestersAndHostLink : Obligations.RequestersAndHostLink := by
  refine ⟨fun s => ⟨fun fn i h1 h8 => ?_, fun fn i => ?_, fun fn v code body => ⟨fun hv => ?_, fun hv hc => ?_, fun hv hc => ?_⟩,
    fun n key hk on => ideKm_keys hk on, fun n hn => ?_⟩, fun s hi => ?_⟩
  · exact congrArg (done s) (measure_block h1 h8)
  · obtain ⟨code, body, h⟩ := measure_emits fn i s.m
    exact completes_of_done (congrArg (done s) h) ⟨(Laws.eff_emit ..).same, code, body, rfl⟩
  · exact congrArg (done s) (if_pos (by simpa using hv))
  · subst hv hc
    rfl
  · subst hv
    exact spdm_other hc
  · exact ideFail_ends hn
  · intro x t
    refine ⟨fun hw => ?_, fun hw hp => ?_, fun hp => ?_, fun hp => ?_, fun p hr ho he => ?_, ?_, fun w r flit hl hp => ?_, fun hl => ?_⟩
    · exact if_pos (by simp [show wingsReached s.m.pci = false from hw])
    · exact (if_neg (by simp [show wingsReached s.m.pci = true from hw])).trans (if_pos hp)
    · obtain ⟨h1, h2, h3, h4, h5⟩ := perstDrop_off s.m
      obtain ⟨ht, hx, hs, hn⟩ := perstFall_leaves s.m
      refine completes_of_done (if_pos hp) ⟨by rw [ht, h1], by rw [hx, h2], by rw [hx, h3], by rw [hx, h4], fun f => ?_, hs, hn⟩
      rw [Module.evr', hx]
      exact h5 f
    · exact if_neg (by simp [show s.m.tray.perstN = false from hp])
    · have hx := orderReset_idle (m := s.m.setEvr (p.val + 1) Evr.init) (d := .partition p) (level := 3) (by decide) hr ho he
      refine completes_of_done (congrArg (done s) hx) ⟨evr_setEvr _ hi, rfl, fun f hf => evr_setEvr_ne _ hf, ?_⟩
      exact Laws.sameBut_of_blend rfl
    · refine completes_of_done (m := setPci _ _) rfl ⟨evr_setEvr _ hi, rfl, rfl, fun f hf => evr_setEvr_ne _ hf, ?_⟩
      exact Laws.sameBut_of_blend rfl
    · exact linkUp_comes hl hp
    · exact linkDown_goes hl

end

/-! ### The health log and the Corridor (O44) -/

namespace Sys2Proof.Scope
open Sys2Proof.Machine Sys2Proof.Laws

variable {s : State} {m : Module} {k cls unit : Nat}

/-! #### Scores (R605) -/

theorem ev_hlt (c code u sev part ctx : Nat) (d : W64) (m : Module) : (ev c code u sev part ctx d m).hlt =
    { m.hlt with sram := (ev c code u sev part ctx d m).hlt.sram, last16 := (ev c code u sev part ctx d m).hlt.last16 } :=
  (evKeeps_ev c code u sev part ctx d m).hlt

theorem ev_units (c code u sev part ctx : Nat) (d : W64) (m : Module) : (ev c code u sev part ctx d m).hlt.units = m.hlt.units :=
  (congrArg Hlt.units (ev_hlt c code u sev part ctx d m) :)

/-- A score adds to its unit's life counts; what it records leaves the units alone. -/
theorem score_units (k cls unit : Nat) (m : Module) : ∃ u : UnitHealth,
    (score k cls unit m).hlt.units = nset UnitHealth.init m.hlt.units (healthKey cls unit) u
    ∧ u.lifeC = (m.hlt.unit (healthKey cls unit)).lifeC + (if k = 0 then 1 else 0)
    ∧ u.lifeH = (m.hlt.unit (healthKey cls unit)).lifeH + (if k = 1 then 1 else 0)
    ∧ u.pass = (m.hlt.unit (healthKey cls unit)).pass := by
  unfold score
  extract_lets h key cell u0 u1 c t thr warn last doWarn doLast u2 m1 det m2
  refine ⟨u2, ?_, ?_, ?_, rfl⟩
  · have h2 : m2.hlt.units = nset UnitHealth.init h.units key u2 := by
      dsimp only [m2]
      split
      · exact ev_units ..
      · rfl
    split
    · unfold suspectInterval
      rw [ev_units, ev_units]
      exact h2
    · exact h2
  · dsimp only [u2, u1, u0]
    split <;> rfl
  · dsimp only [u2, u1, u0]
    split <;> rfl

theorem score_corr (cls unit : Nat) (m : Module) : ((score 0 cls unit m).hlt.unit (healthKey cls unit)).lifeC
    = (m.hlt.unit (healthKey cls unit)).lifeC + 1 := by
  obtain ⟨u, hu, hc, -⟩ := score_units 0 cls unit m
  have hn : u ≠ UnitHealth.init := by
    rintro rfl
    exact absurd hc (Nat.succ_ne_zero _).symm
  rw [Hlt.unit, hu, nget_nset_of_ne_default hn, hc, if_pos rfl]

theorem score_hard (cls unit : Nat) (m : Module) :
    ((score 1 cls unit m).hlt.unit (healthKey cls unit)).lifeH = (m.hlt.unit (healthKey cls unit)).lifeH + 1
    ∧ ((score 1 cls unit m).hlt.unit (healthKey cls unit)).pass = (m.hlt.unit (healthKey cls unit)).pass := by
  obtain ⟨u, hu, -, hh, hp⟩ := score_units 1 cls unit m
  have hn : u ≠ UnitHealth.init := by
    rintro rfl
    exact absurd hh (Nat.succ_ne_zero _).symm
  rw [Hlt.unit, hu, nget_nset_of_ne_default hn]
  exact ⟨hh, hp⟩

/-! #### Windows, the ring and the last breath (R607, R611 to R614) -/

/-- After sixteen sub-windows no cell is older than the window. -/
theorem nextSub_cells {h : Hlt} (hs : 16 ≤ h.sub + 1) : ∀ u ∈ (nextSub h).units, ∀ c ∈ u.2.cells, (h.sub + 1 - 15) * 32 ≤ c.1 := by
  intro u hu c hc
  obtain ⟨x, -, hx⟩ := List.mem_filterMap.1 hu
  simp only [ge_iff_le, if_pos hs, Option.ite_none_left_eq_some, Option.some.injEq] at hx
  obtain ⟨-, rfl⟩ := hx
  simp only [List.mem_filter, decide_eq_true_eq] at hc
  omega

/-- What the ring's records leave of the health log: the ring, its place and what it overwrote. -/
theorem ringStore_foldl (l : List (List Byte)) (h : Hlt) : l.foldl ringStore h =
    { h with ring := (l.foldl ringStore h).ring, ringOver := (l.foldl ringStore h).ringOver, ringNext := (l.foldl ringStore h).ringNext }
    ∧ (h.ringNext < ringSize → (l.foldl ringStore h).ringNext = (h.ringNext + l.length) % ringSize) := by
  induction l generalizing h with
  | nil => exact ⟨rfl, fun hn => (Nat.mod_eq_of_lt hn).symm⟩
  | cons r l ih =>
    obtain ⟨h1, h2⟩ := ih (ringStore h r)
    refine ⟨?_, fun hn => ?_⟩
    · rw [List.foldl_cons, h1]
      rfl
    · rw [List.foldl_cons, h2 (Nat.mod_lt _ (by decide))]
      show ((h.ringNext + 1) % ringSize + l.length) % ringSize = (h.ringNext + (l.length + 1)) % ringSize
      rw [Nat.mod_add_mod]
      congr 1
      omega

theorem flushRing_hlt (m : Module) : (flushRing m).hlt = { m.hlt with
    ring := (flushRing m).hlt.ring, ringOver := (flushRing m).hlt.ringOver, ringNext := (flushRing m).hlt.ringNext,
    sram := [], flushAt := m.clk.elapsed } :=
  congrArg (fun h : Hlt => { h with sram := [], flushAt := m.clk.elapsed }) (ringStore_foldl m.hlt.sram m.hlt).1

theorem flushRing_last16 (m : Module) : (flushRing m).hlt.last16 = m.hlt.last16 := (congrArg Hlt.last16 (flushRing_hlt m) :)

theorem flushRing_ringNext (h : m.hlt.ringNext < ringSize) :
    (flushRing m).hlt.ringNext = (m.hlt.ringNext + m.hlt.sram.length) % ringSize := (ringStore_foldl m.hlt.sram m.hlt).2 h

theorem writeBreath_leaves (cause : Nat) (whole : Bool) (m : Module) :
    (writeBreath cause whole m).hlt.breathNext = 1 - m.hlt.breathNext ∧ (writeBreath cause whole m).hlt.breathWhole = whole
    ∧ (writeBreath cause whole m).hlt.sram = []
    ∧ nfind (writeBreath cause whole m).hlt.breathSlots m.hlt.breathNext = some (breathBytes cause (flushRing m)) := by
  have hb : (flushRing m).hlt.breathNext = m.hlt.breathNext := (congrArg Hlt.breathNext (flushRing_hlt m) :)
  refine ⟨congrArg (1 - ·) hb, rfl, rfl, ?_⟩
  rw [← hb]
  exact nfind_nput_self ..

/-- The last-breath write goes through where the store is ready (R647). -/
theorem breathSurvives_ready (h : 3000 ≤ measuredNow m) : (breathSurvives m).1 = true := by
  unfold breathSurvives
  rw [if_pos h]

theorem measuredNow_congr {a b : Module} (hc : b.clk = a.clk) (hp : b.pwr = a.pwr) : measuredNow b = measuredNow a := by
  unfold measuredNow holdVolts
  rw [hc, hp]

theorem inputLoss_leaves (tenMv : BitVec 16) (m : Module) : (inputLoss tenMv m).hlt.breathNext = 1 - m.hlt.breathNext
    ∧ (inputLoss tenMv m).hlt.sram = [] ∧ (3000 ≤ measuredNow m → (inputLoss tenMv m).hlt.breathWhole = true) := by
  let m1 := ev 0x1A 0x0B 0xFFFF 6 31 0 (tenMv.setWidth 64) m
  have he : Eff evParts m m1 := eff_ev ..
  have hx : (breathSurvives m1).2.hlt = m1.hlt := (eff_breathSurvives m1).same .hlt (by decide)
  have hb : m1.hlt.breathNext = m.hlt.breathNext := (congrArg Hlt.breathNext (ev_hlt ..) :)
  obtain ⟨h1, h2, h3, -⟩ := writeBreath_leaves 2 (breathSurvives m1).1 (breathSurvives m1).2
  refine ⟨h1.trans ?_, h3, fun h => h2.trans (breathSurvives_ready ?_)⟩
  · rw [hx, hb]
  · rwa [measuredNow_congr (he.same .clk (by decide)) (he.same .pwr (by decide))]

theorem hlt_passTo (t : Nat) (m : Module) : (passTo t m).hlt = m.hlt := (eff_passTo t m).same .hlt (by decide)

/-- A sub-window ends now. -/
def subEnded (m : Module) : Module := { m with hlt := { nextSub m.hlt with subAt := m.clk.elapsed } }

theorem subWindowEnd_ends (s : State) : Completes .subWindowEnd s fun m =>
    m.clk = (passTo (s.m.hlt.subAt + hltWin s.m.hlt / 16 * 1024) s.m).clk ∧ m.hlt.sub = s.m.hlt.sub + 1 ∧ m.hlt.subAt = m.clk.elapsed
    ∧ (16 ≤ s.m.hlt.sub + 1 → ∀ u ∈ m.hlt.units, ∀ c ∈ u.2.cells, (s.m.hlt.sub + 1 - 15) * 32 ≤ c.1) := by
  have hp := hlt_passTo (s.m.hlt.subAt + hltWin s.m.hlt / 16 * 1024) s.m
  refine completes_of_done (m := subEnded (passTo (s.m.hlt.subAt + hltWin s.m.hlt / 16 * 1024) s.m)) rfl
    ⟨rfl, congrArg (·.sub + 1) hp, rfl, fun h16 => ?_⟩
  have hc := nextSub_cells (h := (passTo (s.m.hlt.subAt + hltWin s.m.hlt / 16 * 1024) s.m).hlt) (by rw [hp]; exact h16)
  rw [congrArg Hlt.sub hp] at hc
  exact hc

theorem eventRingFlush_ends (s : State) : Completes .eventRingFlush s fun m =>
    m.clk = (passTo (s.m.hlt.flushAt + 1024 * 1024) s.m).clk ∧ m.hlt.sram = [] ∧ m.hlt.flushAt = m.clk.elapsed
    ∧ (s.m.hlt.ringNext < ringSize → m.hlt.ringNext = (s.m.hlt.ringNext + s.m.hlt.sram.length) % ringSize) := by
  have hp := hlt_passTo (s.m.hlt.flushAt + 1024 * 1024) s.m
  refine completes_of_done (m := flushRing (passTo (s.m.hlt.flushAt + 1024 * 1024) s.m)) rfl ⟨rfl, rfl, rfl, fun hn => ?_⟩
  rw [flushRing_ringNext (by rwa [hp]), hp]

theorem summaryRewrite_ends (s : State) : Completes .summaryRewrite s fun m =>
    m.clk = (passTo (s.m.hlt.summaryAt + 3600 * 1000000000) s.m).clk
    ∧ m.hlt = { s.m.hlt with summary := (summaryBytes s.m).take 65536, summaryAt := m.clk.elapsed } := by
  have hp := hlt_passTo (s.m.hlt.summaryAt + 3600 * 1000000000) s.m
  generalize hm : passTo (s.m.hlt.summaryAt + 3600 * 1000000000) s.m = m at hp
  refine completes_of_done (m := rewriteSummary m) (congrArg (done s) (congrArg rewriteSummary hm)) ⟨rfl, ?_⟩
  unfold rewriteSummary summaryBytes
  rw [hp]

theorem holdupOkFall_ends (s : State) : Completes .holdupOkFall s fun m =>
    m.tray = { s.m.tray with holdupOk := false } ∧ m.hlt.breathNext = 1 - s.m.hlt.breathNext
    ∧ m.hlt.breathWhole = true ∧ m.hlt.sram = []
    ∧ (∃ m1, m1.pwr = s.m.pwr ∧ m1.vst = s.m.vst ∧ m1.clk = s.m.clk ∧ m1.hlt.last16 = s.m.hlt.last16
        ∧ nfind m.hlt.breathSlots s.m.hlt.breathNext = some (breathBytes 1 m1))
    ∧ SameBut [.tray, .hlt] s.m m := by
  obtain ⟨h1, h2, h3, h4⟩ := writeBreath_leaves 1 true { s.m with tray := { s.m.tray with holdupOk := false } }
  have hx : exec .holdupOkFall s = done s (writeBreath 1 true { s.m with tray := { s.m.tray with holdupOk := false } }) := rfl
  refine completes_of_done hx ⟨rfl, h1, h2, h3,
    ⟨flushRing { s.m with tray := { s.m.tray with holdupOk := false } }, rfl, rfl, rfl, ?_, h4⟩, sameBut_mono (sameBut_of_exec hx) rfl⟩
  exact flushRing_last16 _

theorem hltRetire_keeps (s : State) (val : W64) :
    (s.m.hlt.retired.length < 8192 → (¬ ∃ x ∈ s.m.hlt.retired, x.1 = fld val 16 8 ∧ x.2.1 = fld val 0 16) → Does (.hltRetire val) s
      { s.m with hlt := { s.m.hlt with retired := s.m.hlt.retired ++ [(fld val 16 8, fld val 0 16, beatNow s.m)] } })
    ∧ ((8192 ≤ s.m.hlt.retired.length ∨ ∃ x ∈ s.m.hlt.retired, x.1 = fld val 16 8 ∧ x.2.1 = fld val 0 16) →
      Does (.hltRetire val) s s.m) := by
  have ht : s.m.hlt.retired.any (fun x => x.1 = fld val 16 8 && x.2.1 = fld val 0 16) = true
      ↔ ∃ x ∈ s.m.hlt.retired, x.1 = fld val 16 8 ∧ x.2.1 = fld val 0 16 := by simp
  rw [← ht]
  refine ⟨fun hl hn => congrArg (done s) (if_pos ?_), fun h => congrArg (done s) (if_neg ?_)⟩
  · rw [Bool.and_eq_true, decide_eq_true_eq, Bool.not_eq_true']
    exact ⟨hl, Bool.eq_false_iff.2 hn⟩
  · rw [Bool.and_eq_true, decide_eq_true_eq, Bool.not_eq_true']
    rintro ⟨hl, hn⟩
    rcases h with h | h
    · omega
    · exact Bool.eq_false_iff.1 hn h

/-! #### The Corridor (R616, R617) -/

theorem rising_cor (h : m.Inv) : rising m.cor = true := by
  have h1 := h.1
  unfold Module.canonical at h1
  simp only [Bool.and_eq_true] at h1
  simp [h1]

/-- A retry that is recorded for the first time in its window. -/
theorem crcRetry_records (hi : s.m.Inv) (w : Fin 2) (k : Fin 8) (hs : (s.m.cor' w).seen.contains (k.val, window s.m) = false) :
    Completes (.crcRetry w k) s fun m => (m.cor' w).retry = (s.m.cor' w).retry + 1
      ∧ (m.cor' w).seen.contains (k.val, window s.m) = true ∧ m.cor' (1 - w.val) = s.m.cor' (1 - w.val)
      ∧ (m.hlt.unit (healthKey 0x0F k)).lifeC = (s.m.hlt.unit (healthKey 0x0F k)).lifeC + 1 := by
  let m1 := s.m.setCor w.val { s.m.cor' w with retry := (s.m.cor' w).retry + 1 }
  let m2 := m1.setCor w.val
    { m1.cor' w with seen := (k.val, window s.m) :: (s.m.cor' w).seen.filter (fun x => x.1 != k.val) }
  have hr : rising m1.cor = true := rising_nset (rising_cor hi)
  have h1 : m1.cor' w = _ := setCor_get _ w.val _ (rising_cor hi)
  have h2 : m2.cor' w = _ := setCor_get _ w.val _ hr
  have hx : exec (.crcRetry w k) s = done s (score 0 0x0F k.val (ev 0x0F 1 w.val 3 31 0 (BitVec.ofNat 64 k.val) m2)) :=
    if_neg (Bool.eq_false_iff.1 hs)
  have he : (score 0 0x0F k.val (ev 0x0F 1 w.val 3 31 0 (BitVec.ofNat 64 k.val) m2)).cor = m2.cor :=
    ((eff_score ..).same .cor (by decide)).trans ((eff_ev ..).same .cor (by decide))
  have hw : (1 - w.val) ≠ w.val := by omega
  refine completes_of_done hx ⟨?_, ?_, ?_, ?_⟩
  · rw [Module.cor', he, ← Module.cor', h2, h1]
  · rw [Module.cor', he, ← Module.cor', h2]
    simp
  · rw [Module.cor', he]
    exact (setCor_get_ne m1 w.val _ _ hw).trans (setCor_get_ne s.m w.val _ _ hw)
  · rw [score_corr, Hlt.unit, ev_units]
    rfl

/-- A module that is removed is lost at both ends. -/
theorem moduleDown_loses (hi : s.m.Inv) (w : Fin 2) (k : Fin 8) (hb : bit (s.m.cor' w).status k = true) :
    Completes (.moduleDown w k) s fun m =>
      (∀ v : Fin 2, m.cor' v = { s.m.cor' v with status := (s.m.cor' v).status &&& ~~~(BitVec.ofNat 8 (2 ^ k.val)) })
      ∧ (m.hlt.unit (healthKey 0x0F k)).lifeH = (s.m.hlt.unit (healthKey 0x0F k)).lifeH + 1 := by
  let m1 := s.m.setCor 0 { s.m.cor' 0 with status := (s.m.cor' 0).status &&& ~~~(BitVec.ofNat 8 (2 ^ k.val)) }
  let m2 := m1.setCor 1 { m1.cor' 1 with status := (m1.cor' 1).status &&& ~~~(BitVec.ofNat 8 (2 ^ k.val)) }
  have hr : rising m1.cor = true := rising_nset (rising_cor hi)
  have h1 : m1.cor' 1 = s.m.cor' 1 := setCor_get_ne s.m 0 _ 1 (by decide)
  have he : (score 1 0x0F k.val (ev 0x0F 2 w.val 4 31 0 (BitVec.ofNat 64 k.val) m2)).cor = m2.cor :=
    ((eff_score ..).same .cor (by decide)).trans ((eff_ev ..).same .cor (by decide))
  refine completes_of_done (if_pos hb) ⟨fun v => ?_, ?_⟩
  · rw [Module.cor', he]
    match v with
    | 0 => exact (setCor_get_ne m1 1 _ 0 (by decide)).trans (setCor_get s.m 0 _ (rising_cor hi))
    | 1 => exact (setCor_get m1 1 _ hr).trans (by rw [h1]; rfl)
  · rw [(score_hard ..).1, Hlt.unit, ev_units]
    rfl

end Sys2Proof.Scope

section
open Sys2Proof Sys2Proof.Machine Sys2Proof.Scope

/-- Settles O44, by what each row leaves of the health log, and by the score of a retry and of a module's loss. -/
theorem healthLogKeepsItsRecords : Obligations.HealthLogKeepsItsRecords := by
  intro s hi h
  refine ⟨?_, ?_, ?_, ?_, fun tenMv => ?_, fun val => ?_, rfl, fun w k => ⟨fun hs => if_pos hs, crcRetry_records hi w k, moduleDown_loses hi w k⟩⟩
  · exact subWindowEnd_ends s
  · exact eventRingFlush_ends s
  · exact summaryRewrite_ends s
  · exact holdupOkFall_ends s
  · obtain ⟨h1, h2, h3⟩ := inputLoss_leaves tenMv s.m
    exact completes_of_done (m := inputLoss tenMv s.m) rfl ⟨rfl, rfl, rfl, fun v => rfl, h1, h2, h3⟩
  · intro cls idx there
    exact hltRetire_keeps s val

end

/-! ### Event rings and the tray SPI (O49) -/

namespace Sys2Proof.Scope
open Sys2Proof.Machine Sys2Proof.Laws

variable {s : State} {a b m : Module} {cmd : W32} {bits : Nat}

/-! #### Event rings (R704, R705) -/

theorem ringFn_ringOf (fn : Fn) : ringFn (ringOf fn) = fn := by
  cases fn with
  | pf => rfl
  | vf p =>
    show Fn.vf (Fin.ofNat 16 (p.val + 1 - 1)) = _
    rw [Nat.add_sub_cancel]
    exact congrArg Fn.vf (Fin.ext (Nat.mod_eq_of_lt p.isLt))

/-- A signal changes of its ring only when it was last signalled. -/
theorem ringSignal_leaves (f : Nat) (r : Evr) (hr : rising m.pci.evr = true) :
    (∃ u t, (ringSignal f r m).evr' f = { r with unsig := u, lastSig := t }) ∧ ∀ o ∈ m.out, o ∈ (ringSignal f r m).out := by
  unfold ringSignal
  extract_lets w
  split
  · exact ⟨⟨true, r.lastSig, nget_nset_self hr⟩, fun _ h => h⟩
  · exact ⟨⟨false, some m.clk.elapsed, nget_nset_self hr⟩, fun _ h => List.mem_cons_of_mem _ h⟩

/-- A record is written at the ring's tail. -/
theorem ringWrite_leaves (f : Nat) (e : Event) (hr : rising m.pci.evr = true) :
    (∃ u t, (ringWrite f e m).evr' f = { m.evr' f with tail := (m.evr' f).tail + 1, unsig := u, lastSig := t })
    ∧ ∃ i, .record (ringFn f) i e ∈ (ringWrite f e m).out := by
  let o : Output := .record (ringFn f) ((m.evr' f).tail.toNat % (m.evr' f).cap) e
  let m1 := emit o m
  obtain ⟨h1, h2⟩ := ringSignal_leaves f { m.evr' f with tail := (m.evr' f).tail + 1 } (m := m1) hr
  have ho : o ∈ (ringSignal f { m.evr' f with tail := (m.evr' f).tail + 1 } m1).out := h2 o List.mem_cons_self
  unfold ringWrite
  dsimp only
  split
  · exact ⟨h1, _, List.mem_cons_of_mem _ ho⟩
  · exact ⟨h1, _, ho⟩

/-- A head write that leaves no loss to tell, or no room to tell it in. -/
theorem headWrite_of_not {f : Nat} {val : W64} (hi : m.Inv)
    (h : (m.evr' f).lostSince = 0 ∨ Evr.room { m.evr' f with head := val.setWidth 32 } = false) :
    headWrite f val m = m.setEvr f { m.evr' f with head := val.setWidth 32 } := by
  have hr : (m.setEvr f { m.evr' f with head := val.setWidth 32 }).evr' f = { m.evr' f with head := val.setWidth 32 } :=
    evr_setEvr _ hi
  unfold headWrite ringOverflow
  dsimp only
  rw [hr]
  refine if_neg ?_
  rw [Bool.and_eq_true, decide_eq_true_eq]
  rintro ⟨hl, hm⟩
  rcases h with h | h
  · exact (Nat.ne_of_gt hl) h
  · rw [h] at hm
    cases hm

/-- The record of what was lost goes first once the ring has room. -/
theorem headWrite_overflows {fn : Fn} {val : W64} (hi : s.m.Inv) (hl : 0 < (s.m.evr' (ringOf fn)).lostSince)
    (hm : Evr.room { s.m.evr' (ringOf fn) with head := val.setWidth 32 } = true) : Completes (.evrHeadWrite fn val) s fun m =>
      (m.evr' (ringOf fn)).head = val.setWidth 32 ∧ (m.evr' (ringOf fn)).lostSince = 0
      ∧ (m.evr' (ringOf fn)).tail = (s.m.evr' (ringOf fn)).tail + 1 ∧ (∃ i e, .record fn i e ∈ m.out)
      ∧ SameBut [.pci, .out] s.m m := by
  let r1 : Evr := { s.m.evr' (ringOf fn) with head := val.setWidth 32 }
  let m1 := s.m.setEvr (ringOf fn) r1
  let m2 := m1.setEvr (ringOf fn) { r1 with lostSince := 0 }
  have h1 : m1.evr' (ringOf fn) = r1 := evr_setEvr _ hi
  have hr1 : rising m1.pci.evr = true := rising_nset (rising_evr hi)
  have h2 : m2.evr' (ringOf fn) = { r1 with lostSince := 0 } := nget_nset_self hr1
  have hx : headWrite (ringOf fn) val s.m = ringWrite (ringOf fn) (overflowRec (s.m.evr' (ringOf fn)).lostSince m1) m2 := by
    show ringOverflow (ringOf fn) m1 = _
    unfold ringOverflow
    dsimp only
    rw [h1]
    exact if_pos (by rw [Bool.and_eq_true, decide_eq_true_eq]; exact ⟨hl, hm⟩)
  obtain ⟨⟨u, t, hw⟩, i, ho⟩ := ringWrite_leaves (ringOf fn) (overflowRec (s.m.evr' (ringOf fn)).lostSince m1) (m := m2)
    (rising_nset hr1)
  refine completes_of_done (congrArg (done s) hx) ⟨?_, ?_, ?_, ⟨i, _, ringFn_ringOf fn ▸ ho⟩, ?_⟩
  · rw [hw, h2]
  · rw [hw, h2]
  · rw [hw, h2]
  · exact hx ▸ (eff_headWrite ..).same

theorem msixCoalesceEnd_signals {fn : Fn} {t0 : Nat} (hi : s.m.Inv) (ht : (s.m.evr' (ringOf fn)).lastSig = some t0)
    (hu : (s.m.evr' (ringOf fn)).unsig = true) : Completes (.msixCoalesceEnd fn) s fun m =>
      m.clk = (passTo (t0 + (s.m.evr' (ringOf fn)).mod_.toNat * 1024) s.m).clk
      ∧ m.evr' (ringOf fn) = { s.m.evr' (ringOf fn) with unsig := false, lastSig := some m.clk.elapsed } ∧ .msix fn 0 ∈ m.out := by
  have hp := eff_passTo (t0 + (s.m.evr' (ringOf fn)).mod_.toNat * 1024) s.m
  generalize hm : passTo (t0 + (s.m.evr' (ringOf fn)).mod_.toNat * 1024) s.m = m at hp
  have he : m.evr' (ringOf fn) = s.m.evr' (ringOf fn) := congrArg (nget Evr.init · (ringOf fn)) (congrArg Pci.evr (hp.same .pci (by decide)))
  have hx : exec (.msixCoalesceEnd fn) s = done s (emit (.msix fn 0)
      (m.setEvr (ringOf fn) { m.evr' (ringOf fn) with unsig := false, lastSig := some m.clk.elapsed })) := by
    show execMsixCoalesceEnd fn s = _
    unfold execMsixCoalesceEnd
    dsimp only
    rw [ht]
    dsimp only
    rw [if_pos hu, hm]
  refine completes_of_done hx ⟨rfl, ?_, List.mem_cons_self⟩
  exact (evr_setEvr _ (hp.keeps.inv hi)).trans (by rw [he]; rfl)

/-! #### The tray SPI (R706 to R709) -/

/-- What reading the sensors changes: their last readings, and the free values drawn. -/
def Sensed (a b : Module) : Prop := ∃ x avg t hb lp, b = { a with
  mem := x, pwr := { a.pwr with avgMw := avg, temp := t }, tray := { a.tray with hottestHbm := hb, hottestLpx := lp } }

theorem Sensed.refl (m : Module) : Sensed m m := ⟨_, _, _, _, _, rfl⟩

theorem sensed_trayRead (n : Nat) (m : Module) : Sensed m (trayRead n m).2 := by
  unfold trayRead
  split <;> exact ⟨_, _, _, _, _, rfl⟩

theorem Sensed.trans {c : Module} (h : Sensed a b) (k : Sensed b c) : Sensed a c := by
  obtain ⟨_, _, _, _, _, rfl⟩ := h
  obtain ⟨_, _, _, _, _, rfl⟩ := k
  exact ⟨_, _, _, _, _, rfl⟩

/-- A register that is no sensor reads as it did. -/
theorem trayRead_of_sensed {n : Nat} (h : Sensed a b) (h5 : n ≠ 5) (h6 : n ≠ 6) : (trayRead n b).1 = (trayRead n a).1 := by
  obtain ⟨_, _, _, _, _, rfl⟩ := h
  unfold trayRead
  split
  case h_6 => exact absurd rfl h5
  case h_7 => exact absurd rfl h6
  all_goals rfl

theorem spiRead_leaves (cmd : W32) (n i : Nat) (m : Module) : Sensed m (spiRead cmd n i m).2 ∧ (spiRead cmd n i m).1.length = n
    ∧ ∀ j, j < n → spiAddr cmd (i + j) ≠ 5 → spiAddr cmd (i + j) ≠ 6 →
      (spiRead cmd n i m).1[j]? = some (trayRead (spiAddr cmd (i + j)) m).1 := by
  induction n generalizing i m with
  | zero => exact ⟨.refl m, rfl, fun j hj => absurd hj (Nat.not_lt_zero j)⟩
  | succ n ih =>
    have h0 := sensed_trayRead (spiAddr cmd i) m
    obtain ⟨h1, h2, h3⟩ := ih (i + 1) (trayRead (spiAddr cmd i) m).2
    refine ⟨h0.trans h1, congrArg (· + 1) h2, fun j hj h5 h6 => ?_⟩
    cases j with
    | zero => rfl
    | succ j =>
      have hij : i + (j + 1) = i + 1 + j := by omega
      rw [hij] at h5 h6 ⊢
      exact (h3 j (by omega) h5 h6).trans (congrArg some (trayRead_of_sensed h0 h5 h6))

/-- A read frame's words: the alert first, the registers, and zero in what is beyond them. -/
theorem readFrame_words (cmd : W32) (hb : 32 ≤ bits) (m : Module) : ∃ l b, Sensed m b
    ∧ spiReadFrame cmd bits m = spiEdges cmd bits (emit (.miso (m.tray.alert.setWidth 32 :: l)) b) ∧ l.length = bits / 32 - 1
    ∧ ∀ i, i < spiData cmd bits → spiAddr cmd i ≠ 5 → spiAddr cmd i ≠ 6 → l[i]? = some (trayRead (spiAddr cmd i) m).1 := by
  obtain ⟨h1, h2, h3⟩ := spiRead_leaves cmd (spiData cmd bits) 0 m
  refine ⟨(spiRead cmd (spiData cmd bits) 0 m).1 ++ List.replicate (bits / 32 - 1 - spiWords cmd) 0, _, h1, rfl, ?_, fun i hi h5 h6 => ?_⟩
  · rw [List.length_append, h2, List.length_replicate]
    unfold spiData
    omega
  · rw [List.getElem?_append_left (by omega)]
    have h := h3 i hi
    rw [Nat.zero_add] at h
    exact h h5 h6

theorem spiEdges_out (cmd : W32) (bits : Nat) (m : Module) : (spiEdges cmd bits m).out = m.out := by
  unfold spiEdges
  extract_lets want
  split
  · rfl
  · split <;> rfl

theorem spiEdges_whole (h : bits = 32 * (1 + spiWords cmd)) : spiEdges cmd bits m = m := by
  unfold spiEdges
  extract_lets want
  rw [if_neg (by omega), if_neg (by simp; omega)]

theorem spiEdges_excess (h : 32 * (1 + spiWords cmd) < bits) : (spiEdges cmd bits m).tray.errExcess = satAdd m.tray.errExcess 1
    ∧ (spiEdges cmd bits m).tray.alert = m.tray.alert ||| 0x100 := by
  unfold spiEdges
  extract_lets want
  rw [if_pos h]
  exact ⟨rfl, rfl⟩

theorem traySpiRead_reads (hr : spiReserved cmd = false) (ho : fld cmd 30 2 = 0) (hb : 32 ≤ bits) :
    Completes (.traySpiRead cmd bits) s fun m =>
      (∃ l, m.out = .miso (s.m.tray.alert.setWidth 32 :: l) :: s.m.out ∧ l.length = bits / 32 - 1
        ∧ ∀ i, i < spiData cmd bits → spiAddr cmd i ≠ 5 → spiAddr cmd i ≠ 6 → l[i]? = some (trayRead (spiAddr cmd i) s.m).1)
      ∧ (bits = 32 * (1 + spiWords cmd) → m.pci = s.m.pci ∧ m.tray.alert = s.m.tray.alert)
      ∧ (32 * (1 + spiWords cmd) < bits → m.tray.errExcess = satAdd s.m.tray.errExcess 1
          ∧ m.tray.alert = s.m.tray.alert ||| 0x100) := by
  obtain ⟨l, b, ⟨_, _, _, _, _, rfl⟩, hx, hl, hv⟩ := readFrame_words cmd hb s.m
  have he : exec (.traySpiRead cmd bits) s = done s (spiReadFrame cmd bits s.m) :=
    (if_neg (by omega)).trans ((if_neg (by rw [hr]; decide)).trans (if_pos ho))
  rw [hx] at he
  refine completes_of_done he ⟨⟨l, spiEdges_out .., hl, hv⟩, fun h => ?_, fun h => spiEdges_excess h⟩
  rw [spiEdges_whole h]
  exact ⟨rfl, rfl⟩

/-- A write frame of one whole word. -/
theorem traySpiWrite_writes {v : W32} (hr : spiReserved cmd = false) (ho : fld cmd 30 2 = 1) (hw : spiWords cmd = 1) :
    Does (.traySpiWrite cmd [v] 64) s (emit (.miso [s.m.tray.alert.setWidth 32, 0]) (trayWrite (spiAddr cmd 0) v s.m)) := by
  have hd : spiData cmd 64 = 1 := by simp [spiData, hw]
  have hx : exec (.traySpiWrite cmd [v] 64) s = done s (spiWriteFrame cmd [v] 64 s.m) :=
    (if_neg (by simp [hd])).trans ((if_neg (by decide)).trans ((if_neg (by rw [hr]; decide)).trans (if_pos ho)))
  have hf : spiWriteFrame cmd [v] 64 s.m
      = spiEdges cmd 64 (emit (.miso [s.m.tray.alert.setWidth 32, 0]) (trayWrite (spiAddr cmd 0) v s.m)) := by
    unfold spiWriteFrame
    rw [hd]
    rfl
  rw [Does, hx, hf, spiEdges_whole (by rw [hw])]
  rfl

theorem trayWrite_leaves (n : Nat) (v : W32) (m : Module) :
    (trayWrite n v m).out = m.out
    ∧ (trayWrite n v m).tray.alert = (if n = 2 then m.tray.alert &&& (~~~(v.setWidth 10) ||| alertHeld m) else m.tray.alert)
    ∧ (trayWrite n v m).tray.alertEn = (if n = 3 then v &&& 0x3FF else m.tray.alertEn)
    ∧ (trayWrite n v m).pwr = (if n = 4 then { m.pwr with trayLimit := BitVec.ofNat 11 (fld v 0 11) } else m.pwr) := by
  unfold trayWrite
  split
  · exact ⟨rfl, rfl, rfl, rfl⟩
  · exact ⟨rfl, rfl, rfl, rfl⟩
  · exact ⟨rfl, rfl, rfl, rfl⟩
  · next h2 h3 h4 =>
    rw [if_neg (h2 ·), if_neg (h3 ·), if_neg (h4 ·)]
    exact ⟨rfl, rfl, rfl, rfl⟩

end Sys2Proof.Scope

section
open Sys2Proof Sys2Proof.Machine Sys2Proof.Scope

/-- Settles O49, by what a record leaves of its ring, and by the words and the edges of a frame. -/
theorem ringsAndTraySpiFramesAct : Obligations.RingsAndTraySpiFramesAct := by
  intro s hi t head short bad
  refine ⟨fun fn => ?_, fun cmd hr => ⟨?_, fun bits hb => ?_, fun ws bits hb hw => ?_⟩, fun cmd ws bits hb hw => ⟨fun h0 => ?_, fun h0 => ?_⟩,
    fun cmd bits hr ho hb => traySpiRead_reads hr ho hb, fun cmd v hr ho hw => ?_⟩
  · intro f r
    refine ⟨fun val => ?_, fun t0 ht hu => msixCoalesceEnd_signals hi ht hu⟩
    intro r1
    exact ⟨fun h => congrArg (done s) (headWrite_of_not hi h), fun hl hm => headWrite_overflows hi hl hm⟩
  · exact if_pos hr
  · exact (if_neg (by omega)).trans (if_pos hr)
  · exact (if_neg (by omega)).trans ((if_neg (by omega)).trans (if_pos hr))
  · exact ⟨(if_pos hb).trans (congrArg (done s) (if_pos h0)),
      (if_neg (by omega)).trans ((if_pos hb).trans (congrArg (done s) (if_pos h0)))⟩
  · exact ⟨(if_pos hb).trans (congrArg (done s) (if_neg h0)),
      (if_neg (by omega)).trans ((if_pos hb).trans (congrArg (done s) (if_neg h0)))⟩
  · intro a
    obtain ⟨h1, h2, h3, h4⟩ := trayWrite_leaves a v s.m
    refine ⟨_, traySpiWrite_writes hr ho hw, congrArg (_ :: ·) h1, h2, h3, h4, ?_⟩
    exact ((Laws.eff_trayWrite a v s.m).mono rfl |>.trans ((Laws.eff_emit ..).mono rfl)).same

end

/-! ### Balusters and pattern tests (O43) -/

namespace Sys2Proof.Scope
open Sys2Proof.Machine Sys2Proof.Laws

variable {s : State} {a b m : Module} {w : Nat} {k : QKey} {d : Desc}

/-! #### CHK_SYNC (R595) -/

/-- Where a descriptor may write is the structure's to say, and the slot's. -/
theorem syncAddrOk_congr (hi : b.img = a.img) (hp : EvKeeps a b) : syncAddrOk b d = syncAddrOk a d := by
  unfold syncAddrOk hallAt gaHere allowed
  rw [hi, hp.pci]

/-- A CHK_SYNC that has left its queue and begun. -/
def syncBegun (w : Nat) (k : QKey) (d : Desc) (m : Module) : Module :=
  let m0 := descStart 11 w d (dequeue k m)
  m0.setChk w { m0.chk' w with rr := k.sub }

theorem eff_syncBegun (w : Nat) (k : QKey) (d : Desc) (m : Module) :
    Eff [.chk, .vst, .hlt, .pci, .tray, .dbg, .out] (dequeue k m) (syncBegun w k d m) :=
  ((eff_descStart 11 w d (dequeue k m)).mono rfl).trans ((eff_setChk ..).mono rfl)

theorem evKeeps_syncBegun (w : Nat) (k : QKey) (d : Desc) (m : Module) : EvKeeps m (syncBegun w k d m) := by
  have h0 : EvKeeps m (dequeue k m) := by
    have he := eff_dequeue k m
    exact .of_eq (he.same .pci (by decide)) (he.same .tray (by decide)) (he.same .hlt (by decide))
  exact (h0.trans (evKeeps_descStart ..)).trans (.of_eq rfl rfl rfl)

/-- A CHK_SYNC that is in order: the next cycle, the write, and the completion. -/
def syncDone (w : Nat) (d : Desc) (m : Module) : Module :=
  let m := passToCycle (m.clk.cycle + 1) m
  complete 11 w d false (hallWrite w d.part (gaOff (d.a 16)) (natLe 8 (nget 0 (m.chk' w).pmis d.part).toNat) m)

theorem exec_chkSync {w : Fin 2} (h : chkHead s.m w = some (k, d)) : exec (.chkSync w) s = done s
    (if syncAddrOk (syncBegun w k d s.m) d then syncDone w d (syncBegun w k d s.m)
      else bodyRefused 11 w 0x10 d (syncBegun w k d s.m)) := by
  show execChkSync w s = _
  unfold execChkSync
  rw [h]
  exact (apply_ite (done s) _ _ _).symm

/-- The counts of mismatches are as they were when the descriptor began. -/
theorem syncBegun_pmis (hi : m.Inv) : ((syncBegun w k d m).chk' w).pmis = (m.chk' w).pmis := by
  have hd := eff_dequeue k m
  have h0 := eff_descStart 11 w d (dequeue k m)
  have h1 : (syncBegun w k d m).chk' w = _ := setChk_get (descStart 11 w d (dequeue k m)) w _ (rising_chk ((hd.keeps.trans h0.keeps).inv hi))
  rw [h1, chk'_of_eff h0, chk'_of_eff hd]

theorem syncDone_leaves (hi : m.Inv) : (syncDone w d (syncBegun w k d m)).clk = (passToCycle (m.clk.cycle + 1) m).clk
    ∧ (syncDone w d (syncBegun w k d m)).mem = (hallWrite w d.part (gaOff (d.a 16)) (natLe 8 (nget 0 (m.chk' w).pmis d.part).toNat)
        (passToCycle ((syncBegun w k d m).clk.cycle + 1) (syncBegun w k d m))).mem
    ∧ queue (syncDone w d (syncBegun w k d m)) k = (queue m k).tail
    ∧ count (syncDone w d (syncBegun w k d m)) d.part d.ctx 11 w = count m d.part d.ctx 11 w + 1 := by
  let m1 := syncBegun w k d m
  let m2 := passToCycle (m1.clk.cycle + 1) m1
  let m3 := hallWrite w d.part (gaOff (d.a 16)) (natLe 8 (nget 0 (m2.chk' w).pmis d.part).toNat) m2
  have hd := eff_dequeue k m
  have h1 : Eff _ (dequeue k m) m1 := eff_syncBegun w k d m
  have h2 : Eff timeParts m1 m2 := eff_passToCycle ..
  have h3 : Eff _ m2 m3 := eff_hallWrite ..
  have h4 : Eff _ m3 (complete 11 w d false m3) := eff_complete ..
  have hp : (m2.chk' w).pmis = (m.chk' w).pmis := by rw [chk'_of_eff h2, syncBegun_pmis hi]
  have ht : SameAt timeAt m m1 := sameTime_of_eff ((hd.mono rfl).trans (h1.mono rfl) : Eff (.queues :: [.chk, .vst, .hlt, .pci, .tray, .dbg, .out]) m m1)
    (evKeeps_syncBegun w k d m)
  have hc : m1.clk = m.clk := (h1.same .clk (by decide)).trans (hd.same .clk (by decide))
  refine ⟨?_, ?_, ?_, ?_⟩
  · rw [← clk_passToCycle ht, ← hc]
    exact (h4.same .clk (by decide)).trans (h3.same .clk (by decide))
  · rw [← hp]
    exact h4.same .mem (by decide)
  · exact (queue_of_eff h4).trans ((queue_of_eff h3).trans ((queue_of_eff h2).trans ((queue_of_eff h1).trans (queue_dequeue m k))))
  · exact (count_complete 11 w d false m3).trans (congrArg (· + 1)
      ((count_of_eff h3).trans ((count_of_eff h2).trans ((count_of_eff h1).trans (count_of_eff hd)))))

theorem chkSync_acts {w : Fin 2} (hi : s.m.Inv) (h : chkHead s.m w = some (k, d)) : Completes (.chkSync w) s fun m =>
    queue m k = (queue s.m k).tail ∧ count m d.part d.ctx 11 w = count s.m d.part d.ctx 11 w + 1
    ∧ (syncAddrOk s.m d = true → m.clk = (passToCycle (s.m.clk.cycle + 1) s.m).clk
      ∧ m.mem = (hallWrite w d.part (gaOff (d.a 16)) (natLe 8 (nget 0 (s.m.chk' w).pmis d.part).toNat)
          (passToCycle ((syncBegun w k d s.m).clk.cycle + 1) (syncBegun w k d s.m))).mem)
    ∧ (syncAddrOk s.m d = false → m.clk = s.m.clk ∧ m.mem = s.m.mem) := by
  have ha : syncAddrOk (syncBegun w k d s.m) d = syncAddrOk s.m d := syncAddrOk_congr
    (((eff_syncBegun w k d s.m).same .img (by decide)).trans ((eff_dequeue k s.m).same .img (by decide))) (evKeeps_syncBegun ..)
  have hx := exec_chkSync h
  rw [ha] at hx
  cases hs : syncAddrOk s.m d
  · rw [hs, if_neg (by decide)] at hx
    obtain ⟨h1, h2, h3, h4⟩ := bodyRefused_ends (d := d) (eff_syncBegun w k d s.m) (by decide) 11 w 0x10
    exact completes_of_done hx ⟨h1, h4, nofun, fun _ => ⟨h3, h2⟩⟩
  · rw [hs, if_pos rfl] at hx
    obtain ⟨h1, h2, h3, h4⟩ := syncDone_leaves (w := w) (k := k) (d := d) hi
    exact completes_of_done hx ⟨h3, h4, fun _ => ⟨h1, h2⟩, nofun⟩

/-! #### Pattern packs (R600) -/

theorem hltEv_packs (code unit sev : Nat) (d : W64) (m : Module) : (hltEv code unit sev d m).hlt.packCode = m.hlt.packCode
    ∧ (hltEv code unit sev d m).hlt.packs = m.hlt.packs ∧ (hltEv code unit sev d m).hlt.packBusy = m.hlt.packBusy := by
  have h := ev_hlt 0x19 code unit sev 31 0 d m
  exact ⟨(congrArg Hlt.packCode h :), (congrArg Hlt.packs h :), (congrArg Hlt.packBusy h :)⟩

/-- A LOAD that is refused sets its code and leaves the slots. -/
theorem packRefuse_leaves (c : Nat) (m : Module) : (packRefuse c m).hlt.packCode = BitVec.ofNat 8 c
    ∧ (packRefuse c m).hlt.packs = m.hlt.packs ∧ (packRefuse c m).hlt.packBusy = m.hlt.packBusy := hltEv_packs ..

theorem exec_packLoad_error (val : W64) (s : State) : exec (.packLoad val .error) s = done s (packLoad val .error s.m) := by
  show execPackLoad val .error s = _
  exact if_pos rfl

theorem exec_packLoad_data {bs : List Byte} (val : W64) (h : packBytes s.m.hlt ≤ bs.length) :
    exec (.packLoad val (.data bs)) s = done s (packLoad val (.data bs) s.m) := if_pos (decide_eq_true h)

theorem packLoad_ignored {val : W64} (r : FetchResult) (h : bit val 4 = false ∨ m.hlt.packBusy ≠ none) : packLoad val r m = m := by
  refine if_pos ?_
  rcases h with h | h
  · simp [h]
  · simp [Option.isSome_iff_ne_none.2 h]

theorem packLoad_fetches {val : W64} (r : FetchResult) (hb : bit val 4 = true) (hn : m.hlt.packBusy = none) : packLoad val r m =
    match r with
    | .error => packRefuse 6 m
    | .data bs => packTake (fld val 0 2) (slice bs 0 (packBytes m.hlt)) m := if_neg (by simp [hb, hn])

theorem mem_nput {α : Type} {l : List (Nat × α)} {k : Nat} {v : α} {y : Nat × α} (h : y ∈ l) (hk : y.1 ≠ k) : y ∈ nput l k v := by
  induction l with
  | nil => cases h
  | cons x r ih =>
    obtain ⟨j, z⟩ := x
    unfold nput
    split
    · exact List.mem_cons_of_mem _ h
    · split
      next hj =>
        rcases List.mem_cons.1 h with rfl | h
        · exact absurd hj.symm hk
        · exact List.mem_cons_of_mem _ h
      · rcases List.mem_cons.1 h with rfl | h
        · exact List.mem_cons_self
        · exact List.mem_cons_of_mem _ (ih h)

/-- The flash write ends: the pack is in its slot, and the only one of its PACK_ID. -/
theorem packLoaded_stores {slot : Nat} {p : Pack} (h : s.m.hlt.packBusy = some (slot, p)) : Completes .packLoaded s fun m =>
    m.hlt.packBusy = none ∧ nfind m.hlt.packs slot = some p ∧ (∀ y ∈ m.hlt.packs, y.2.id = p.id → y.1 = slot)
    ∧ ∀ y ∈ s.m.hlt.packs, y.2.id ≠ p.id → y.1 ≠ slot → y ∈ m.hlt.packs := by
  let l := s.m.hlt.packs.filter (fun x => x.2.id != p.id)
  obtain ⟨-, h2, h3⟩ := hltEv_packs 4 0xFFFF 1 (BitVec.ofNat 64 slot)
    { s.m with hlt := { s.m.hlt with packs := nput l slot p, packBusy := none } }
  have hx : exec .packLoaded s = done s (hltEv 4 0xFFFF 1 (BitVec.ofNat 64 slot)
      { s.m with hlt := { s.m.hlt with packs := nput l slot p, packBusy := none } }) := by
    show execPackLoaded s = _
    unfold execPackLoaded
    rw [h]
  refine completes_of_done hx ⟨h3, ?_, ?_, ?_⟩ <;> rw [h2]
  · exact nfind_nput_self ..
  · intro y hy hid
    rcases Laws.mem_nput hy with rfl | hy
    · rfl
    · exact absurd hid (by simpa using (List.mem_filter.1 hy).2)
  · exact fun y hy hid hs => mem_nput (List.mem_filter.2 ⟨hy, by simpa using hid⟩) hs

/-! #### Pattern tests (R601 to R604) -/

/-- CHK_PT_STATUS as a START clears it (R622). -/
def ptCleared (c : Chk) : Chk := { c with failTest := 0, temp := 0, reason := 0, notSoaked := false, ptSt := 0 }

theorem ptStart_running {r : PtRun} (h : (m.chk' w).run = some r) : ptStart w m = m := if_pos (by rw [h]; rfl)

theorem ptStart_refused {r : Nat} (h : (m.chk' w).run = none) (hr : ptRefusal m w (ptCleared (m.chk' w)) = some r) :
    ptStart w m = m.setChk w { ptCleared (m.chk' w) with reason := BitVec.ofNat 3 r, ptSt := 6 } := by
  unfold ptStart
  extract_lets c x
  rw [if_neg (by simp [c, h])]
  have hx : ptRefusal m w x = some r := hr
  rw [hx]
  rfl

/-- A START in order names a pack that a slot holds. -/
theorem pack_of_ptRefusal {c : Chk} (h : ptRefusal m w c = none) : ∃ p, nfind m.hlt.packs c.ptSlot.toNat = some p := by
  unfold ptRefusal at h
  cases hp : nfind m.hlt.packs c.ptSlot.toNat with
  | some p => exact ⟨p, rfl⟩
  | none =>
    rw [hp] at h
    dsimp only at h
    split at h
    · cases h
    · split at h <;> cases h

theorem ptStart_runs (h : (m.chk' w).run = none) (hr : ptRefusal m w (ptCleared (m.chk' w)) = none) : ∃ (soak : Bool) (b : NMap Byte),
    ptStart w m = m.setChk w { ptCleared (m.chk' w) with
      run := some { unit := (m.chk' w).ptUnit.toNat, cls := (m.chk' w).ptCls.toNat, slot := (m.chk' w).ptSlot.toNat
                    first := (m.chk' w).ptFirst.toNat, last := (m.chk' w).ptLast.toNat, soaking := soak, startBeat := beatNow m
                    stopping := false }
      ptSt := if soak then 1 else 2
      buffer := b } := by
  obtain ⟨p, hp⟩ := pack_of_ptRefusal hr
  refine ⟨decide (le p.bytes (64 + 64 * (m.chk' w).ptFirst.toNat + 1) 1 ≠ 0), bufferPut 0 (testBody p (m.chk' w).ptFirst.toNat) [], ?_⟩
  unfold ptStart
  extract_lets c x
  rw [if_neg (by simp [c, h])]
  have hx : ptRefusal m w x = none := hr
  have hq : nfind m.hlt.packs x.ptSlot.toNat = some p := hp
  rw [hx]
  dsimp only
  rw [hq]
  rfl

/-- The state that a run leaves of its Baluster's test, but for the outcome. -/
def ptOver (c : Chk) (o : PtOutcome) : Chk := { c with run := none, temp := o.temp, notSoaked := c.notSoaked || o.notSoaked }

theorem exec_patternTestEnd {w : Fin 2} {r : PtRun} {o : PtOutcome} (h : (s.m.chk' w).run = some r)
    (ho : ∀ i, o.failed = some i → r.first ≤ i ∧ i ≤ r.last) :
    exec (.patternTestEnd w o) s = done s (ptEnd w r o (ptSpoil r s.m)) := by
  show execPatternTestEnd w o s = _
  unfold execPatternTestEnd
  rw [h]
  dsimp only
  cases hf : o.failed with
  | none => exact if_pos rfl
  | some i => exact if_pos (by simp [ho i hf])

/-- A score in the band of another temperature leaves the module's own. -/
theorem scoreAt_leaves (t : Byte) (cls unit : Nat) (m : Module) : (scoreAt t 1 cls unit m).pwr = m.pwr
    ∧ ((scoreAt t 1 cls unit m).hlt.unit (healthKey cls unit)).lifeH = (m.hlt.unit (healthKey cls unit)).lifeH + 1
    ∧ ((scoreAt t 1 cls unit m).hlt.unit (healthKey cls unit)).pass = (m.hlt.unit (healthKey cls unit)).pass := by
  have hs := score_hard cls unit { m with pwr := { m.pwr with temp := t } }
  have hp := (eff_score 1 cls unit { m with pwr := { m.pwr with temp := t } }).same .pwr (by decide)
  unfold scoreAt
  generalize score 1 cls unit { m with pwr := { m.pwr with temp := t } } = b at hs hp
  refine ⟨?_, hs⟩
  dsimp only
  rw [hp]

/-- What a record of the Baluster leaves. -/
theorem chkEv_leaves (code sev : Nat) (d : W64) (m : Module) (j : Nat) :
    (ev 0x15 code w sev 31 0 d m).chk' j = m.chk' j ∧ (ev 0x15 code w sev 31 0 d m).hlt.units = m.hlt.units
    ∧ (ev 0x15 code w sev 31 0 d m).pwr = m.pwr :=
  ⟨chk'_of_eff (eff_ev ..), ev_units .., (eff_ev ..).same .pwr (by decide)⟩

variable {r : PtRun} {o : PtOutcome}

/-- A run that finds a failing test (R603, R609). -/
theorem ptEnd_failed (hi : m.Inv) {i : Nat} (ho : o.failed = some i) :
    (ptEnd w r o m).chk' w = { ptOver (m.chk' w) o with ptSt := 4, failTest := BitVec.ofNat 8 i } ∧ (ptEnd w r o m).pwr = m.pwr
    ∧ ((ptEnd w r o m).hlt.unit (healthKey (svcEv r.cls) r.unit)).lifeH = (m.hlt.unit (healthKey (svcEv r.cls) r.unit)).lifeH + 1
    ∧ ((ptEnd w r o m).hlt.unit (healthKey (svcEv r.cls) r.unit)).pass = (m.hlt.unit (healthKey (svcEv r.cls) r.unit)).pass := by
  let m1 := m.setChk w { ptOver (m.chk' w) o with ptSt := 4, failTest := BitVec.ofNat 8 i }
  let m2 := ev 0x15 4 w 2 31 0 (ptDetail r i o.temp.toNat) m1
  let m3 := scoreAt o.temp 1 (svcEv r.cls) r.unit m2
  have hx : ptEnd w r o m = suspectInterval (svcEv r.cls) r.unit m3 := by
    unfold ptEnd
    rw [ho]
    rfl
  obtain ⟨h1, h2, h3⟩ := chkEv_leaves (w := w) 4 2 (ptDetail r i o.temp.toNat) m1 w
  obtain ⟨h4, h5, h6⟩ := scoreAt_leaves o.temp (svcEv r.cls) r.unit m2
  have hs : (suspectInterval (svcEv r.cls) r.unit m3).hlt.units = m3.hlt.units := ev_units ..
  have hu : m2.hlt.unit (healthKey (svcEv r.cls) r.unit) = m.hlt.unit (healthKey (svcEv r.cls) r.unit) :=
    congrArg (nget UnitHealth.init · _) h2
  rw [hx, Hlt.unit, hs, ← Hlt.unit]
  refine ⟨?_, ?_, ?_, ?_⟩
  · rw [chk'_of_eff (eff_suspectInterval ..), chk'_of_eff (eff_scoreAt ..), h1]
    exact setChk_get m w _ (rising_chk hi)
  · exact ((eff_suspectInterval ..).same .pwr (by decide)).trans (h4.trans h3)
  · rw [h5, hu]
  · rw [h6, hu]

/-- A run that STOP ends (R604). -/
theorem ptEnd_stopped (hi : m.Inv) (ho : o.failed = none) (hs : r.stopping = true) :
    (ptEnd w r o m).chk' w = { ptOver (m.chk' w) o with ptSt := 5 } ∧ (ptEnd w r o m).hlt.units = m.hlt.units := by
  have hx : ptEnd w r o m = ev 0x15 5 w 1 31 0 (ptDetail r 0 0) (m.setChk w { ptOver (m.chk' w) o with ptSt := 5 }) := by
    unfold ptEnd
    rw [ho]
    exact if_pos hs
  obtain ⟨h1, h2, -⟩ := chkEv_leaves (w := w) 5 1 (ptDetail r 0 0) (m.setChk w { ptOver (m.chk' w) o with ptSt := 5 }) w
  rw [hx, h1, h2]
  exact ⟨setChk_get m w _ (rising_chk hi), rfl⟩

theorem setPass_unit (cls unit : Nat) (t : Beat) (m : Module) : (setPass cls unit t m).hlt.unit (healthKey cls unit)
    = { m.hlt.unit (healthKey cls unit) with pass := some t } :=
  nget_nset_of_ne_default fun h => nomatch (congrArg UnitHealth.pass h : some t = none)

/-- A run whose tests all pass (R603). -/
theorem ptEnd_passed (hi : m.Inv) (ho : o.failed = none) (hs : r.stopping = false) :
    (ptEnd w r o m).chk' w = { ptOver (m.chk' w) o with ptSt := 3 }
    ∧ ((ptEnd w r o m).hlt.unit (healthKey (svcEv r.cls) r.unit)).pass = some r.startBeat
    ∧ ((ptEnd w r o m).hlt.unit (healthKey (svcEv r.cls) r.unit)).lifeH = (m.hlt.unit (healthKey (svcEv r.cls) r.unit)).lifeH := by
  let m1 := m.setChk w { ptOver (m.chk' w) o with ptSt := 3 }
  let m2 := setPass (svcEv r.cls) r.unit r.startBeat m1
  have hx : ptEnd w r o m = ev 0x15 3 w 0 31 0 (ptDetail r 0 (r.last + 1 - r.first)) m2 := by
    unfold ptEnd
    rw [ho]
    exact if_neg (by rw [hs]; decide)
  obtain ⟨h1, h2, -⟩ := chkEv_leaves (w := w) 3 0 (ptDetail r 0 (r.last + 1 - r.first)) m2 w
  rw [hx, h1, Hlt.unit, h2, ← Hlt.unit, setPass_unit]
  exact ⟨setChk_get m w _ (rising_chk hi), rfl, rfl⟩

/-- What a march spoils is memory alone. -/
theorem ptSpoil_leaves (r : PtRun) (m : Module) : (ptSpoil r m).chk' w = m.chk' w ∧ (ptSpoil r m).hlt = m.hlt
    ∧ (ptSpoil r m).pwr = m.pwr :=
  ⟨chk'_of_eff (eff_ptSpoil r m), (eff_ptSpoil r m).same .hlt (by decide), (eff_ptSpoil r m).same .pwr (by decide)⟩

end Sys2Proof.Scope

section
open Sys2Proof Sys2Proof.Machine Sys2Proof.Scope

/-- Settles O43, by the branch of each row, and by what the end of a run leaves of its Baluster and of its unit's health. -/
theorem balustersSyncLoadAndTest : Obligations.BalustersSyncLoadAndTest := by
  intro s w hi h c set
  refine ⟨fun k d hk => ?_, rfl, fun val bs hb => ?_, fun slot p hp => packLoaded_stores hp, fun hc => ?_, fun r hr => ⟨?_, ?_, fun temp reached => ?_, fun o => ?_⟩⟩
  · exact chkSync_acts hi hk
  · intro b refused
    have hd := exec_packLoad_data val hb
    refine ⟨fun hn => ⟨?_, ?_⟩, fun h4 hn => ⟨?_, fun e he => ?_, fun he => ?_⟩⟩
    · exact hd.trans (congrArg (done s) (packLoad_ignored _ hn))
    · exact (exec_packLoad_error val s).trans (congrArg (done s) (packLoad_ignored _ hn))
    · obtain ⟨h1, h2, h3⟩ := packRefuse_leaves 6 s.m
      exact completes_of_done ((exec_packLoad_error val s).trans (congrArg (done s) (packLoad_fetches _ h4 hn))) ⟨h1, h2, h3.trans hn⟩
    · obtain ⟨h1, h2, h3⟩ := packRefuse_leaves e s.m
      have hx : packTake (fld val 0 2) b s.m = packRefuse e s.m := by
        unfold packTake
        rw [he]
      exact completes_of_done (hd.trans (congrArg (done s) ((packLoad_fetches _ h4 hn).trans hx))) ⟨h1, h2, h3.trans hn⟩
    · have hx : packTake (fld val 0 2) b s.m = { s.m with hlt := { s.m.hlt with packBusy := some (fld val 0 2,
          { id := BitVec.ofNat 64 (le b 0x10 8), ver := BitVec.ofNat 32 (le b 0x18 4), tests := le b 8 2, bytes := b }) } } := by
        unfold packTake
        rw [he]
      exact completes_of_done (hd.trans (congrArg (done s) ((packLoad_fetches _ h4 hn).trans hx))) ⟨rfl, rfl, rfl⟩
  · intro x
    refine ⟨fun r hr => congrArg (done s) (ptStart_refused hc hr), fun hr => ?_, ?_⟩
    · obtain ⟨soak, buf, hx⟩ := ptStart_runs hc hr
      have hg := fun y => Laws.setChk_get s.m w y (rising_chk hi)
      refine completes_of_done (congrArg (done s) hx) ?_
      dsimp only
      rw [hg]
      exact ⟨⟨_, rfl, rfl, rfl, rfl, rfl, rfl, rfl, rfl, rfl⟩, rfl, rfl, rfl, (Laws.eff_setChk ..).same⟩
    · refine congrArg (done s) ?_
      unfold ptStop
      dsimp only
      rw [show (s.m.chk' w).run = none from hc]
  · exact congrArg (done s) (ptStart_running hr)
  · refine congrArg (done s) ?_
    unfold ptStop
    dsimp only
    rw [show (s.m.chk' w).run = some r from hr]
  · show execSoakEnd w temp reached s = _
    unfold execSoakEnd
    dsimp only
    rw [show (s.m.chk' w).run = some r from hr]
    rfl
  · intro x key
    obtain ⟨hp1, hp2, hp3⟩ := ptSpoil_leaves (w := w.val) r s.m
    have hj : (ptSpoil r s.m).Inv := (Laws.eff_ptSpoil r s.m).keeps.inv hi
    refine ⟨fun i hf h1 h2 => ?_, fun hf hs => ?_, fun hf hs => ?_⟩
    · have he := exec_patternTestEnd (o := o) hr fun j hj => Option.some.inj (hj.symm.trans hf) ▸ ⟨h1, h2⟩
      obtain ⟨h3, h4, h5, h6⟩ := ptEnd_failed (w := w.val) (r := r) hj hf
      rw [hp1] at h3
      rw [hp3] at h4
      rw [hp2] at h5 h6
      exact completes_of_done he ⟨h3, h4, h5, h6⟩
    · have he := exec_patternTestEnd (o := o) hr fun j hj => nomatch hj.symm.trans hf
      obtain ⟨h3, h4⟩ := ptEnd_stopped (w := w.val) (r := r) hj hf hs
      rw [hp1] at h3
      rw [hp2] at h4
      exact completes_of_done he ⟨h3, h4⟩
    · have he := exec_patternTestEnd (o := o) hr fun j hj => nomatch hj.symm.trans hf
      obtain ⟨h3, h4, h5⟩ := ptEnd_passed (w := w.val) (r := r) hj hf hs
      rw [hp1] at h3
      rw [hp2] at h5
      exact completes_of_done he ⟨h3, h4, h5⟩

end

/-! ### What events leave of the Vestibule (R522) -/

namespace Sys2Proof.Scope
open Sys2Proof.Machine Sys2Proof.Laws

variable {m a b c : Module} {l : List Part}

/-- A slot without what an event changes of it: TAINT, and VERIFIED that falls back to COMPUTED. -/
def bareSlot (s : VSlot) : VSlot := { s with taint := false, st := if s.st = .verified then .computed else s.st }

/-- A partition's Vestibule without what an event changes of it. -/
def bare (v : Vst) : Vst := { v with slots := v.slots.map (fun x => (x.1, bareSlot x.2)) }

/-- Events only have come between two states, as far as the Vestibule goes. -/
structure Tainted (a b : Module) : Prop where
  inv : a.Inv → b.Inv
  vst : a.Inv → ∀ p, bare (b.vst' p) = bare (a.vst' p)

theorem Tainted.refl (m : Module) : Tainted m m := ⟨id, fun _ _ => rfl⟩

theorem Tainted.trans (h : Tainted a b) (k : Tainted b c) : Tainted a c :=
  ⟨k.inv ∘ h.inv, fun hi p => (k.vst (h.inv hi) p).trans (h.vst hi p)⟩

theorem Tainted.of_vst (h : Eff l a b) (hv : b.vst = a.vst) : Tainted a b :=
  ⟨h.keeps.inv, fun _ p => by rw [Module.vst', hv]; rfl⟩

theorem Tainted.of_eff (h : Eff l a b) (hl : Part.vst ∉ l := by decide) : Tainted a b := .of_vst h (h.same .vst hl)

theorem Tainted.ite {p : Prop} [Decidable p] (h : Tainted a b) (k : Tainted a c) : Tainted a (if p then b else c) := by
  split <;> assumption

theorem Tainted.foldl {α : Type} {g : Module → α → Module} (hg : ∀ m x, Tainted m (g m x)) (r : List α) (m : Module) :
    Tainted m (r.foldl g m) :=
  List.foldlRecOn r g (motive := fun x => Tainted m x) (.refl m) fun _ h x _ => h.trans (hg _ x)

theorem tainted_taint (p : Nat) (step : Beat) (m : Module) : Tainted m (taint p step m) := by
  refine ⟨(eff_taint p step m).keeps.inv, fun hi q => ?_⟩
  obtain rfl | hq := eq_or_ne q p
  · rw [show (taint q step m).vst' q = _ from setVst_get m q _ (rising_vst hi)]
    simp only [bare, List.map_map]
    congr 1
    refine List.map_congr_left fun x _ => ?_
    dsimp only [Function.comp]
    split
    · simp only [bareSlot, Prod.mk.injEq, true_and]
      split <;> simp_all
    · rfl
  · exact congrArg bare (setVst_get_ne m p _ q hq)

theorem tainted_ev (cls code unit sev part ctx : Nat) (d : W64) (m : Module) : Tainted m (ev cls code unit sev part ctx d m) := by
  have hn : Tainted m (note (mkEvent cls code unit sev part ctx d m) m) := by
    obtain h | h := note_vst_or (mkEvent cls code unit sev part ctx d m) m
    · exact .of_vst (eff_note ..) h
    · refine ⟨(eff_note ..).keeps.inv, fun hi p => ?_⟩
      rw [Module.vst', h]
      exact (tainted_taint ..).vst hi p
  exact hn.trans (.of_vst (eff_traceEv ..) (traceEv_vst ..))

/-! #### Events of the whole module taint nothing -/

theorem ev_vst_whole (cls code unit sev ctx : Nat) (d : W64) (m : Module) : (ev cls code unit sev 31 ctx d m).vst = m.vst :=
  ev_vst_untainting (by simp [taints, mkEvent])

theorem vstEv_vst (p code sev ctx : Nat) (d : W64) (m : Module) : (vstEv p code sev ctx d m).vst = m.vst :=
  ev_vst_untainting (by simp [taints, mkEvent])

theorem mirEv_vst (p code sev ctx : Nat) (d : W64) (m : Module) : (mirEv p code sev ctx d m).vst = m.vst :=
  ev_vst_untainting (by simp [taints, mkEvent])

theorem score_vst (k cls unit : Nat) (m : Module) : (score k cls unit m).vst = m.vst := by
  unfold score
  extract_lets h key cell u u1 cc t thr warn last doWarn doLast u2 m1 det m2
  have h2 : m2.vst = m.vst := by
    dsimp only [m2]
    split
    · exact ev_vst_whole ..
    · rfl
  split
  · exact (ev_vst_whole ..).trans ((ev_vst_whole ..).trans h2)
  · exact h2

theorem oncePerSlice_vst {f : Module → Module} (hf : ∀ m, (f m).vst = m.vst) (code slice : Nat) (m : Module) :
    (oncePerSlice code slice f m).vst = m.vst := by
  unfold oncePerSlice
  dsimp only
  split
  · rfl
  · exact hf _

theorem protect_vst (k : Pkt) (m : Module) : (protect k m).2.vst = m.vst := by
  unfold protect
  dsimp only
  split
  · exact ev_vst_whole ..
  · rfl

/-- A packet that leaves touches no Vestibule. -/
theorem inject_vst (w : Nat) (k : Pkt) (m : Module) : (inject w k m).vst = m.vst := by
  unfold inject
  split
  · rfl
  · extract_lets h x _ y
    have hr : y.2.vst = m.vst := by
      dsimp only [y]
      split
      · exact protect_vst ..
      · rfl
    split
    · exact hr
    · refine Eq.trans ?_ hr
      extract_lets
      split
      · exact oncePerSlice_vst (fun _ => ev_vst_whole ..) ..
      · split
        · dsimp only
          split
          · exact (((eff_setPort ..).mono rfl).trans ((eff_corridor ..).mono rfl) : Eff [.port, .cor] _ _).same .vst (by decide)
          · rfl
        · split <;> rfl

theorem setGate_vst (part ctx g : Nat) (m : Module) : (setGate part ctx g m).vst = m.vst := by
  unfold setGate
  extract_lets k x m'
  have h : m'.vst = m.vst := (eff_progress ..).same .vst (by decide)
  split
  · exact (ev_vst_untainting (by simp [taints, mkEvent])).trans h
  · exact h

/-! #### Reads and writes of memory (R381) -/

theorem tainted_evS (k cls code unit sev part ctx : Nat) (d : W64) (m : Module) : Tainted m (evS k cls code unit sev part ctx d m) :=
  (tainted_ev ..).trans (.of_vst (eff_score ..) (score_vst ..))

theorem tainted_sectorUnc (tier phys off p : Nat) (m : Module) : Tainted m (sectorUnc tier phys off p m) :=
  (Tainted.of_eff (eff_eccTally ..)).trans (tainted_evS ..)

theorem tainted_readSector (p tier off phys : Nat) (m : Module) : Tainted m (readSector p tier off phys m).2.2 := by
  have h : Tainted m (sectorBytes p tier off phys m).2 := .of_eff (eff_sectorBytes ..)
  unfold readSector
  dsimp only
  split
  · exact h.trans (tainted_sectorUnc ..)
  · exact h

theorem tainted_writeSector (p tier off phys lo : Nat) (bs : List Byte) (poisoned : Bool) (m : Module) :
    Tainted m (writeSector p tier off phys lo bs poisoned m) := by
  unfold writeSector
  split
  · exact .of_eff (eff_storeSector ..)
  · have h : Tainted m (if tier = 0 then sectorBytes p tier off phys m else
        let x := readSector p tier off phys m
        (x.1, x.2.2)).2 := by
      split
      · exact .of_eff (eff_sectorBytes ..)
      · exact tainted_readSector ..
    exact h.trans (.of_eff (eff_storeSector ..))

theorem tainted_fillLine (p : Nat) (l : CacheLine) (pf : Option (Nat × Nat)) (m : Module) : Tainted m (fillLine p l pf m).2 := by
  unfold fillLine
  refine List.foldlRecOn (motive := fun x : CacheLine × Module => Tainted m x.2) _ _ (.refl m) fun x hx s _ => ?_
  dsimp only
  split
  · exact hx
  · cases pf with
    | none => exact hx.trans ((Tainted.of_eff (eff_countRead ..)).trans ((Tainted.of_eff (eff_hallAccess ..)).trans (tainted_readSector ..)))
    | some e => exact hx.trans ((Tainted.of_eff (eff_countRead ..)).trans ((Tainted.of_eff (eff_hallAccess ..)).trans
        ((tainted_readSector ..).trans (.of_eff (eff_setFlt ..)))))

theorem tainted_lineUnc (p key : Nat) (l : CacheLine) (off : Nat) (m : Module) : Tainted m (lineUnc p key l off m) := by
  unfold lineUnc
  dsimp only
  split
  · exact tainted_sectorUnc ..
  · split
    · exact tainted_sectorUnc ..
    · exact .refl m

theorem tainted_readParts (w p tier : Nat) (line : Option (Nat × CacheLine)) (fresh : Byte) (r : List (Nat × Nat × Nat)) (m : Module) :
    Tainted m (readParts w p tier line fresh r m).2.2 := by
  induction r generalizing m with
  | nil => exact .refl m
  | cons x r ih =>
    obtain ⟨off, lo, n⟩ := x
    have hu (c : Bool) (k : Nat) (l : CacheLine) (m : Module) : Tainted m (if c then m else lineUnc p k l off m) := by
      cases c
      · exact tainted_lineUnc ..
      · exact .refl m
    unfold readParts
    extract_lets s line' ph m1
    clear_value line'
    cases line' with
    | some x => exact (Tainted.of_eff (eff_demandMark ..)).trans ((Tainted.of_eff (eff_putLine ..)).trans
        ((hu ..).trans ((Tainted.of_eff (eff_hallAccess ..)).trans (ih _))))
    | none => exact (Tainted.of_eff (eff_countRead ..)).trans ((tainted_readSector ..).trans (ih _))

theorem tainted_touchLine (use : Bool) (p key : Nat) (l : CacheLine) (m : Module) : Tainted m (touchLine use p key l m) :=
  .of_eff (eff_touchLine ..)

theorem tainted_countLookup (p : Nat) (hit : Bool) (m : Module) : Tainted m (countLookup p hit m) := .of_eff (eff_countLookup ..)

theorem tainted_readBlock (w p tier : Nat) (alloc : Bool) (off n : Nat) (m : Module) :
    Tainted m (readBlock w p tier alloc off n m).2.2 := by
  unfold readBlock
  split
  · dsimp only
    split
    · exact (tainted_readParts ..).trans (.of_eff (eff_countRead ..))
    · exact tainted_readParts ..
  · split
    next k l _ =>
      extract_lets hit m1
      have hf : Tainted m1 (if !hit && alloc then fillLine p l none m1 else (l, m1)).2 := by
        split
        · exact tainted_fillLine ..
        · exact .refl m1
      generalize (if !hit && alloc then fillLine p l none m1 else (l, m1)) = y at hf ⊢
      exact (tainted_countLookup ..).trans (hf.trans ((tainted_touchLine ..).trans (tainted_readParts ..)))
    next =>
      extract_lets m1
      refine (tainted_countLookup p false m).trans ?_
      split
      · split
        next k l m2 ha =>
          have hf : Tainted m2 (fillLine p l none m2).2 := tainted_fillLine ..
          generalize fillLine p l none m2 = y at hf ⊢
          exact (Tainted.of_eff (eff_allocLine _ _ _ _ _ _ _ ha)).trans (hf.trans
            ((Tainted.of_eff (eff_useLine ..)).trans (tainted_readParts ..)))
        next => exact tainted_readParts ..
      · exact tainted_readParts ..

theorem tainted_memRead (w p tier : Nat) (alloc : Bool) (off n : Nat) (m : Module) : Tainted m (memRead w p tier alloc off n m).2.2 :=
  List.foldlRecOn (motive := fun x : List Byte × List Bool × Module => Tainted m x.2.2) _ _ (.refl m)
    fun _ h _ _ => h.trans (tainted_readBlock ..)

theorem tainted_writeParts (w p tier : Nat) (alloc : Bool) (key : Option Nat) (r : List (Nat × Nat × Nat)) (bs : List Byte)
    (bad : List Bool) (m : Module) : Tainted m (writeParts w p tier alloc key r bs bad m) := by
  induction r generalizing bs bad m with
  | nil => exact .refl m
  | cons x r ih =>
    obtain ⟨off, lo, n⟩ := x
    unfold writeParts
    extract_lets s isBad line toMem m1
    have hm (m : Module) : Tainted m (toMem m) := (Tainted.of_eff (eff_countWrite ..)).trans (tainted_writeSector ..)
    clear_value line toMem
    suffices h1 : Tainted m m1 from h1.trans (ih ..)
    cases line with
    | some x =>
      refine Tainted.ite ?_ (hm m)
      exact (Tainted.of_eff (eff_demandMark ..)).trans ((Tainted.of_eff (eff_putLine ..)).trans (.of_eff (eff_hallAccess ..)))
    | none => exact hm m

theorem tainted_writeBlock (w p tier : Nat) (alloc : Bool) (off : Nat) (bs : List Byte) (bad : List Bool) (m : Module) :
    Tainted m (writeBlock w p tier alloc off bs bad m) := by
  unfold writeBlock
  extract_lets parts m0 m1
  split
  · split
    · exact (tainted_writeParts ..).trans (.of_eff (eff_countWrite ..))
    · exact tainted_writeParts ..
  · split
    · exact (tainted_countLookup ..).trans ((tainted_touchLine ..).trans (tainted_writeParts ..))
    · refine (tainted_countLookup p false m).trans ?_
      split
      · split
        next ha =>
          exact (Tainted.of_eff (eff_allocLine _ _ _ _ _ _ _ ha)).trans ((Tainted.of_eff (eff_useLine ..)).trans (tainted_writeParts ..))
        next => exact tainted_writeParts ..
      · exact tainted_writeParts ..

theorem tainted_memWriteBad (w p tier : Nat) (alloc : Bool) (off : Nat) (bs : List Byte) (bad : List Bool) (m : Module) :
    Tainted m (memWriteBad w p tier alloc off bs bad m) :=
  List.foldlRecOn (motive := fun x : Nat × Module => Tainted m x.2) _ _ (.refl m) fun _ h _ _ => h.trans (tainted_writeBlock ..)

theorem tainted_memWrite (w p tier : Nat) (alloc : Bool) (off : Nat) (bs : List Byte) (m : Module) :
    Tainted m (memWrite w p tier alloc off bs m) := tainted_memWriteBad ..

theorem tainted_vstCopy (p tier src dstTier dst n : Nat) (m : Module) : Tainted m (vstCopy p tier src dstTier dst n m) :=
  (tainted_memRead ..).trans (tainted_memWriteBad ..)

/-! #### The slots after events -/

theorem Tainted.same {α : Type} (h : Tainted a b) (hi : a.Inv) (p : Nat) {f : Vst → α} (hf : ∀ v, f (bare v) = f v) :
    f (b.vst' p) = f (a.vst' p) :=
  (hf _).symm.trans ((congrArg f (h.vst hi p)).trans (hf _))

/-- A slot is still held, changed at most by a taint. -/
theorem Tainted.mem_slots (h : Tainted a b) (hi : a.Inv) {p k : Nat} {x : VSlot} (hx : (k, x) ∈ (a.vst' p).slots) :
    ∃ y, (k, y) ∈ (b.vst' p).slots ∧ bareSlot y = bareSlot x := by
  have hs : (b.vst' p).slots.map _ = (a.vst' p).slots.map _ := congrArg Vst.slots (h.vst hi p)
  have := List.mem_map_of_mem (f := fun x : Nat × VSlot => (x.1, bareSlot x.2)) hx
  rw [← hs] at this
  obtain ⟨⟨k', y⟩, hy, he⟩ := List.mem_map.1 this
  obtain ⟨rfl, he⟩ := Prod.mk.inj he
  exact ⟨y, hy, he⟩

end Sys2Proof.Scope

/-! ### Cuts, drains and the Vestibule's configuration (O38) -/

namespace Sys2Proof.Scope
open Sys2Proof.Machine Sys2Proof.Laws

variable {s : State} {m a b : Module} {c : Instr} {p : Nat} {v : Vst} {P : Module → Prop}

section
variable {α : Type} [DecidableEq α] {d : α} {l : List (Nat × α)} {k : Nat}

theorem nset_of_above (h : above k l) (y : α) : nset d l k y = if y = d then l else (k, y) :: l := by
  cases l with
  | nil => rfl
  | cons x r => exact if_pos (h x List.mem_cons_self)

theorem nset_nset (hr : rising l = true) (x y : α) : nset d (nset d l k x) k y = nset d l k y := by
  induction l with
  | nil => by_cases hx : x = d <;> simp [nset, hx]
  | cons z r ih =>
    obtain ⟨k', v⟩ := z
    obtain ⟨ha, hr'⟩ := rising_cons.1 hr
    rcases lt_trichotomy k k' with h | rfl | h
    · by_cases hx : x = d <;> simp [nset, h, hx]
    · by_cases hx : x = d
      · simp [nset, hx, nset_of_above ha]
      · simp [nset, hx]
    · have h1 : ¬ k < k' := by omega
      have h2 : ¬ k = k' := by omega
      simp [nset, h1, h2, ih hr']

end

/-- The last value that a partition's Vestibule is given stays. -/
theorem setVst_setVst (hi : m.Inv) (x y : Vst) : (m.setVst p x).setVst p y = m.setVst p y :=
  congrArg (fun l => { m with vst := l }) (nset_nset (rising_vst hi) x y)

theorem vst'_of_vst (h : b.vst = a.vst) (q : Nat) : b.vst' q = a.vst' q := by
  rw [Module.vst', h]
  rfl

theorem vst'_of_eff {l : List Part} (h : Eff l a b) (hl : Part.vst ∉ l := by decide) (q : Nat) : b.vst' q = a.vst' q :=
  vst'_of_vst (h.same .vst hl) q

theorem mir'_of_eff {l : List Part} (h : Eff l a b) (hl : Part.mir ∉ l := by decide) (q : Nat) : b.mir' q = a.mir' q := by
  rw [Module.mir', show b.mir = a.mir from h.same .mir hl]
  rfl

/-- A command that ends by recording an event of a Vestibule changes no Vestibule by it, and of the rest what a record does. -/
theorem completes_vstEv {x : Module} {code sev ctx : Nat} {d : W64} (he : exec c s = done s (vstEv p code sev ctx d x))
    (hP : ∀ m, m.vst = x.vst → SameBut evParts x m → P m) : Completes c s P :=
  completes_of_done he (hP _ (vstEv_vst ..) (eff_vstEv ..).same)

theorem sameBut_setVst (k : Nat) (x : Vst) (m : Module) : SameBut evParts m (m.setVst k x) :=
  ((eff_setVst m k x).mono rfl : Eff evParts _ _).same

/-! #### Cuts (R545) -/

theorem cutTaken_ends {p : Fin 16} (hi : s.m.Inv) (hs : (s.m.vst' p).snapSt = .copying) {x : Module}
    (hx : x = vstCopy p 2 (regionOf (s.m.vst' p).shard).1 2 (snapBase (s.m.vst' p)) (shardSize (s.m.vst' p)) s.m) :
    Completes (.cutTaken p) s fun m =>
      (m.vst' p).snapSt = .valid ∧ (m.vst' p).snapStep = (s.m.vst' p).snapStep ∧ m.mir = s.m.mir ∧ m.mem = x.mem := by
  have he : exec (.cutTaken p) s = done s (vstEv p 0x0B 1 0 ((s.m.vst' p).snapStep.setWidth 64)
      (x.setVst p { x.vst' p with snapSt := .valid })) := by
    subst hx
    exact if_pos hs
  have ht : Tainted s.m x := hx ▸ tainted_vstCopy ..
  have hf : x.mir = s.m.mir := hx ▸ (eff_vstCopy ..).same .mir (by decide)
  refine completes_vstEv he fun m hv hm => ?_
  have hg : m.vst' p = { x.vst' p with snapSt := .valid } :=
    (vst'_of_vst hv p).trans (setVst_get x p _ (rising_vst (ht.inv hi)))
  refine ⟨by rw [hg], ?_, (hm .mir (by decide)).trans hf, hm .mem (by decide)⟩
  rw [hg]
  exact ht.same hi p (f := Vst.snapStep) fun _ => rfl

/-! #### Drains (R546, R547, R669) -/

/-- A drain has begun. -/
def draining (p : Nat) (fab : Bool) (m : Module) : Module :=
  m.setVst p { m.vst' p with
    snapSt := .draining, drainDone := 0, drainFab := fab, drainTags := [], drainLateSeen := false, drainAckAt := m.clk.elapsed }

section
variable {fab : Bool} {go : List Byte → Module → Module} {key : List Byte}

theorem drainStart_of_not_valid (h : (m.vst' p).snapSt ≠ .valid) : drainStart p fab go m = m := if_neg h

theorem drainStart_unkeyed (h : (m.vst' p).snapSt = .valid) (hk : nfind m.sec.ckeys p = none) :
    drainStart p fab go m = vstEv p 0x0F 4 0 0 m := by
  unfold drainStart
  simp only [h, if_true, hk]
  rfl

theorem drainStart_begins (h : (m.vst' p).snapSt = .valid) (hk : nfind m.sec.ckeys p = some key) :
    drainStart p fab go m = go (drainObject p key m).1 (draining p fab (drainObject p key m).2) := by
  unfold drainStart
  simp only [h, if_true, hk]
  rfl

end

theorem tainted_drainObject (p : Nat) (key : List Byte) (m : Module) : Tainted m (drainObject p key m).2 := tainted_memRead ..

theorem tags_setVst (hv : b.vst = m.vst) (hi : b.Inv) (t : List (Nat × Nat)) :
    ∃ l, (b.setVst p { b.vst' p with drainTags := t }).vst' p = { m.vst' p with drainTags := l } :=
  ⟨t, (setVst_get b p _ (rising_vst hi)).trans (by rw [vst'_of_vst hv])⟩

/-- A CKPT packet that is sent leaves the Vestibules as they were but for the packets that the drain waits for. -/
theorem ckptSend_vst' (hi : m.Inv) (off : Nat) (bs : List Byte) :
    ∃ l, (ckptSend p off bs m).vst' p = { m.vst' p with drainTags := l } := by
  exact tags_setVst (b := inject 2 _ (newTag m).2) (inject_vst ..) ((eff_inject ..).keeps.inv ((eff_newTag m).keeps.inv hi)) _

/-- What a drain in progress holds, its packets apart. -/
theorem ckptSends_vst' (hi : m.Inv) (l : List (Nat × List Byte)) :
    ∃ t, (l.foldl (fun m x => ckptSend p x.1 x.2 m) m).vst' p = { m.vst' p with drainTags := t } := by
  have h : (l.foldl (fun m x => ckptSend p x.1 x.2 m) m).Inv
      ∧ ∃ t, (l.foldl (fun m x => ckptSend p x.1 x.2 m) m).vst' p = { m.vst' p with drainTags := t } :=
    List.foldlRecOn (motive := fun x : Module => x.Inv ∧ ∃ t, x.vst' p = { m.vst' p with drainTags := t }) l _ ⟨hi, _, rfl⟩
      fun x ⟨hx, t, ht⟩ y _ => by
        obtain ⟨t', h'⟩ := ckptSend_vst' (p := p) hx y.1 y.2
        exact ⟨(eff_ckptSend ..).keeps.inv hx, t', by rw [h', ht]⟩
  exact h.2

section
variable {p : Fin 16}

/-- DRAIN_HOST or DRAIN_FABRIC is refused without a VALID snapshot and without a key. -/
theorem drain_refused {go : List Byte → Module → Module} {fab : Bool} (he : exec c s = done s (drainStart p fab go s.m)) :
    ((s.m.vst' p).snapSt ≠ .valid → Does c s s.m)
    ∧ ((s.m.vst' p).snapSt = .valid → nfind s.m.sec.ckeys p = none → Completes c s fun m => SameBut evParts s.m m ∧ m.vst = s.m.vst) :=
  ⟨fun h => he.trans (congrArg (done s) (drainStart_of_not_valid h)),
    fun h hk => completes_vstEv (he.trans (congrArg (done s) (drainStart_unkeyed h hk))) fun _ hv hm => ⟨hm, hv⟩⟩

/-- What the start of a drain sets. -/
theorem draining_vst' (hi : s.m.Inv) (key : List Byte) (fab : Bool) {x : Vst}
    (hx : x = (draining p fab (drainObject p key s.m).2).vst' p) :
    x.snapSt = .draining ∧ x.drainDone = 0 ∧ x.drainFab = fab ∧ x.drainLateSeen = false ∧ x.snapStep = (s.m.vst' p).snapStep
    ∧ x.drainTags = [] ∧ x.drainDst = (s.m.vst' p).drainDst := by
  have ht : Tainted s.m (drainObject p key s.m).2 := tainted_drainObject ..
  rw [draining, setVst_get _ _ _ (rising_vst (ht.inv hi))] at hx
  subst hx
  exact ⟨rfl, rfl, rfl, rfl, ht.same hi p (f := Vst.snapStep) fun _ => rfl, rfl, ht.same hi p (f := Vst.drainDst) fun _ => rfl⟩

variable {key : List Byte} (hi : s.m.Inv) (hs : (s.m.vst' p).snapSt = .valid) (hk : nfind s.m.sec.ckeys p = some key)
include hi hs hk

theorem drainHost_begins : Completes (.drainHost p) s fun m =>
    (m.vst' p).snapSt = .draining ∧ (m.vst' p).drainDone = 0 ∧ (m.vst' p).drainFab = false ∧ (m.vst' p).drainLateSeen = false
    ∧ (m.vst' p).snapStep = (s.m.vst' p).snapStep
    ∧ .hostWrite (s.m.vst' p).drainDst (drainObject p key s.m).1 ∈ m.out ∧ (m.vst' p).drainTags = [] := by
  obtain ⟨h1, h2, h3, h4, h5, h6, h7⟩ := draining_vst' hi key false rfl
  refine completes_of_done (congrArg (done s) (drainStart_begins hs hk)) ⟨h1, h2, h3, h4, h5, ?_, h6⟩
  rw [← h7]
  exact List.mem_cons_self

theorem drainFabric_begins : Completes (.drainFabric p) s fun m =>
    (m.vst' p).snapSt = .draining ∧ (m.vst' p).drainDone = 0 ∧ (m.vst' p).drainFab = true ∧ (m.vst' p).drainLateSeen = false
    ∧ (m.vst' p).snapStep = (s.m.vst' p).snapStep := by
  obtain ⟨h1, h2, h3, h4, h5, -⟩ := draining_vst' hi key true rfl
  have i1 : (draining p true (drainObject p key s.m).2).Inv := (eff_setVst ..).keeps.inv ((tainted_drainObject ..).inv hi)
  refine completes_of_done (congrArg (done s) (drainStart_begins hs hk)) ?_
  obtain ⟨t, ht⟩ := ckptSends_vst' (p := p) i1
    (ckptPieces ((drainObject p key s.m).1.length / 4096 + 1) 0 (drainObject p key s.m).1)
  rw [ht]
  exact ⟨h1, h2, h3, h4, h5⟩

end

section
variable {p : Fin 16} (hi : s.m.Inv) (hs : (s.m.vst' p).snapSt = .draining)
include hi hs

theorem drainDone_ends (ht : (s.m.vst' p).drainTags = []) : Completes (.drainDone p) s fun m =>
    m.vst' p = { s.m.vst' p with snapSt := .drained, drainDone := BitVec.ofNat 64 (objLen (s.m.vst' p)) } ∧ SameBut evParts s.m m :=
  completes_vstEv (if_pos (by simp [hs, ht])) fun _ hv hm =>
    ⟨(vst'_of_vst hv p).trans (setVst_get _ _ _ (rising_vst hi)), sameBut_trans (sameBut_setVst _ _ _) hm⟩

theorem drainError_ends (h : (s.m.vst' p).drainFab = false ∨ (s.m.vst' p).drainTags ≠ []) : Completes (.drainError p) s fun m =>
    m.vst' p = { s.m.vst' p with snapSt := .valid, drainTags := [] }
    ∧ m.clk = (passTo ((s.m.vst' p).drainAckAt + mirTmo (s.m.mir' p)) s.m).clk := by
  have hp := eff_passTo ((s.m.vst' p).drainAckAt + mirTmo (s.m.mir' p)) s.m
  refine completes_vstEv (if_pos (by simpa [hs] using h)) fun m hv hm => ⟨?_, hm .clk (by decide)⟩
  rw [vst'_of_vst hv, setVst_get _ _ _ (rising_vst (hp.keeps.inv hi)), vst'_of_eff hp]

theorem drainLate_ends (h : (s.m.vst' p).drainLateSeen = false) : Completes (.drainLate p) s fun m =>
    m.vst' p = { s.m.vst' p with drainLateSeen := true } ∧ m.clk = (passToBeat (s.m.vst' p).drainDeadline s.m).clk := by
  have hp := eff_passToBeat (s.m.vst' p).drainDeadline s.m
  refine completes_vstEv (if_pos (by simp [hs, h])) fun m hv hm => ⟨?_, hm .clk (by decide)⟩
  rw [vst'_of_vst hv, setVst_get _ _ _ (rising_vst (hp.keeps.inv hi)), vst'_of_eff hp]

end

/-! #### Configuration (R513, R515, R550) -/

/-- A write that the Vestibule's configuration ignores. -/
def ignoredAt (m : Module) (v : Vst) : Vst := { v with cfgIgn := true, cfgIgnAt := instant m }

section
variable {val : W64}

theorem vstCfgWrite_sliceless (he : bit val 8 = true) (hp : (prec m p).slice = 0xFFF) :
    vstCfgWrite p val m = m.setVst p (ignoredAt m (m.vst' p)) := if_pos (by simp [he, hp])

variable (h : bit val 8 = false ∨ ¬ (prec m p).slice = 0xFFF)
include h

theorem vstCfgWrite_disabled (hv : (m.vst' p).enable = false) :
    vstCfgWrite p val m = m.setVst p { m.vst' p with enable := bit val 8, depth := BitVec.ofNat 4 (fld val 0 4) } := by
  unfold vstCfgWrite
  simp only [hv]
  rw [if_neg (by simpa [imp_iff_not_or] using h)]
  rfl

theorem vstCfgWrite_kept (hv : (m.vst' p).enable = true) (hd : BitVec.ofNat 4 (fld val 0 4) = (m.vst' p).depth) :
    vstCfgWrite p val m = m.setVst p { m.vst' p with enable := bit val 8 } := by
  unfold vstCfgWrite
  simp only [hv, hd]
  rw [if_neg (by simpa [imp_iff_not_or] using h)]
  simp

theorem vstCfgWrite_ignored (hi : m.Inv) (hv : (m.vst' p).enable = true) (hd : BitVec.ofNat 4 (fld val 0 4) ≠ (m.vst' p).depth) :
    vstCfgWrite p val m = m.setVst p { ignoredAt m (m.vst' p) with enable := bit val 8 } := by
  unfold vstCfgWrite
  simp only [hv]
  rw [if_neg (by simpa [imp_iff_not_or] using h), if_pos (by simpa using hd)]
  unfold cfgIgnored
  rw [setVst_setVst hi, setVst_get _ _ _ (rising_vst hi)]
  rfl

end

section
variable {val : W64} {which : Nat}

theorem regionWrite_enabled (hv : (m.vst' p).enable = true) : regionWrite p which val m = m.setVst p (ignoredAt m (m.vst' p)) := if_pos hv

theorem regionWrite_misplaced (hv : (m.vst' p).enable = false) (h : regionOk m p (regionVal val) (otherRegions m p which) = false) :
    regionWrite p which val m = m.setVst p { m.vst' p with regionBad := true, regionBadAt := instant m } :=
  (if_neg (by simp [hv])).trans (if_pos (by simp [h]))

theorem regionWrite_placed (hv : (m.vst' p).enable = false) (h : regionOk m p (regionVal val) (otherRegions m p which) = true) :
    regionWrite p which val m = match which with
      | 0 => m.setVst p { m.vst' p with vest := regionVal val }
      | 1 => m.setVst p { m.vst' p with shard := regionVal val }
      | 2 => m.setVst p { m.vst' p with snap := regionVal val }
      | _ => m.setMir p { m.mir' p with region := regionVal val } := by
  unfold regionWrite
  simp only [hv, h, Bool.not_true, Bool.false_eq_true, if_false]
  rcases which with _ | _ | _ | _ <;> rfl

end

end Sys2Proof.Scope

section
open Sys2Proof Sys2Proof.Machine Sys2Proof.Scope

/-- Settles O38, by what the copy, the start and the end of a drain leave of a Vestibule, and the cases of a write of its configuration. -/
theorem snapshotsDrainAndConfigurationHolds : Obligations.SnapshotsDrainAndConfigurationHolds := by
  intro s p hi v set
  refine ⟨fun h => congrArg (done s) (if_pos h), fun h => congrArg (done s) (if_neg (by simp [h])), fun h => cutTaken_ends hi h rfl, ?_,
    fun h => ⟨drainDone_ends hi h, drainError_ends hi h, drainLate_ends hi h⟩, rfl, fun val => ?_⟩
  · rintro c fab (⟨rfl, rfl⟩ | ⟨rfl, rfl⟩)
    · obtain ⟨h1, h2⟩ := drain_refused (s := s) (p := p) (c := .drainHost p) rfl
      refine ⟨h1, h2, fun key h hk => (drainHost_begins hi h hk).imp fun m ⟨he, a, b, c, d, e, f, g⟩ => ⟨he, a, b, c, d, e, fun _ => ⟨f, g⟩⟩⟩
    · obtain ⟨h1, h2⟩ := drain_refused (s := s) (p := p) (c := .drainFabric p) rfl
      refine ⟨h1, h2, fun key h hk => (drainFabric_begins hi h hk).imp fun m ⟨he, a, b, c, d, e⟩ => ⟨he, a, b, c, d, e, nofun⟩⟩
  · intro en depth bad ignored
    refine ⟨fun he hb => congrArg (done s) (vstCfgWrite_sliceless he hb), fun hv h hd => congrArg (done s) (vstCfgWrite_kept h hv hd),
      fun hv h hd => congrArg (done s) (vstCfgWrite_ignored h hi hv hd), fun hv h => congrArg (done s) (vstCfgWrite_disabled h hv),
      fun hv => ⟨fun r => congrArg (done s) (regionWrite_enabled hv), congrArg (done s) (regionWrite_enabled hv)⟩, fun hv => ?_⟩
    intro r
    exact ⟨fun h => congrArg (done s) (regionWrite_placed hv h), fun h => congrArg (done s) (regionWrite_placed hv h),
      fun h => congrArg (done s) (regionWrite_placed hv h), fun h => congrArg (done s) (regionWrite_placed hv h),
      fun i h => congrArg (done s) (regionWrite_misplaced hv h), fun h => congrArg (done s) (regionWrite_misplaced hv h)⟩

end

/-! ### Vestibule descriptors, the release of slots, CKPT packets (O36) -/

namespace Sys2Proof.Scope
open Sys2Proof.Machine Sys2Proof.Laws

variable {s : State} {m a b : Module} {p k : Nat} {d : Desc} {v : Vst} {n : Beat} {P Q : VSlot → Prop} {f : VSlot → VSlot} {x : VSlot}

/-! #### What a descriptor that starts, completes or is refused leaves of the Vestibule -/

theorem descStart_vst (cls idx : Nat) (d : Desc) (m : Module) : (descStart cls idx d m).vst = m.vst := traceEv_vst ..

theorem bodyRefused_vst (cls idx code : Nat) (d : Desc) (m : Module) : (bodyRefused cls idx code d m).vst = m.vst :=
  (complete_vst ..).trans (ev_vst_untainting (by simp [taints, mkEvent]))

theorem progress_running (part ctx : Nat) (m : Module) : (progress part ctx m).wdg.running = m.wdg.running := by
  unfold progress
  extract_lets m1
  have h1 : m1.wdg = m.wdg := by
    dsimp only [m1]
    split <;> rfl
  exact (congrArg Wdg.running h1 :)

theorem complete_running (cls idx : Nat) (d : Desc) (err : Bool) (m : Module) : (complete cls idx d err m).wdg.running = m.wdg.running := by
  unfold complete
  extract_lets
  exact (congrArg Wdg.running ((eff_traceEv ..).same .wdg (by decide))).trans (progress_running ..)

theorem wingUp_congr (hp : b.pci.wingOut = a.pci.wingOut) (hr : b.wdg.running = a.wdg.running) (w : Nat) : wingUp b w = wingUp a w := by
  unfold wingUp
  rw [hp, hr]

theorem wingUp_complete (cls idx : Nat) (d : Desc) (err : Bool) (m : Module) (w : Nat) :
    wingUp (complete cls idx d err m) w = wingUp m w :=
  wingUp_congr (by rw [(evKeeps_complete ..).pci]) (complete_running ..) w

theorem wingUp_of_eff {l : List Part} (h : Eff l a b) (hk : EvKeeps a b) (hl : Part.wdg ∉ l := by decide) (w : Nat) :
    wingUp b w = wingUp a w :=
  wingUp_congr (by rw [hk.pci]) (congrArg Wdg.running (h.same .wdg hl)) w

/-! #### Slots (R514, R520) -/

theorem newestSlot_mem {ok : VSlot → Bool} (h : newestSlot v ok = some (k, x)) : (k, x) ∈ v.slots ∧ ok x = true := by
  have hm : ∀ y ∈ newestSlot v ok, y ∈ v.slots ∧ ok y.2 = true := by
    refine List.foldlRecOn (motive := fun a => ∀ y ∈ a, y ∈ v.slots ∧ ok y.2 = true) _ _ (by simp) fun a ha y hy => ?_
    split
    next hok =>
      have hy' : ∀ z ∈ some y, z ∈ v.slots ∧ ok z.2 = true := fun z hz => by
        obtain rfl := Option.some.inj hz
        exact ⟨hy, hok⟩
      split
      · exact hy'
      · split
        · exact hy'
        · exact ha
    next => exact ha
  exact hm _ h

/-- A change of one slot of a Vestibule. -/
def slotSet (k : Nat) (f : VSlot → VSlot) (l : List (Nat × VSlot)) : List (Nat × VSlot) := l.map fun y => if y.1 = k then (k, f y.2) else y

theorem updSlot_vst' (hi : m.Inv) (f : VSlot → VSlot) :
    (updSlot p k f m).vst' p = { m.vst' p with slots := slotSet k f (m.vst' p).slots } := setVst_get _ _ _ (rising_vst hi)

theorem mem_slotSet {l : List (Nat × VSlot)} (h : (k, x) ∈ l) (f : VSlot → VSlot) : (k, f x) ∈ slotSet k f l :=
  List.mem_map.2 ⟨(k, x), h, if_pos rfl⟩

theorem nfind_slotSet (l : List (Nat × VSlot)) (f : VSlot → VSlot) : nfind (slotSet k f l) k = (nfind l k).map f := by
  induction l with
  | nil => rfl
  | cons y r ih =>
    obtain ⟨j, y⟩ := y
    by_cases hj : j = k
    · subst hj
      simp [slotSet, nfind]
    · simpa [slotSet, nfind, hj] using ih

theorem slotOfStep_mem (h : slotOfStep v n = some (k, x)) : (k, x) ∈ v.slots ∧ x.step = n :=
  ⟨List.mem_of_find?_eq_some h, by simpa using List.find?_some h⟩

theorem slotOfStep_set (hf : ∀ y, (f y).step = y.step) (h : slotOfStep v n = some (k, x)) :
    slotOfStep { v with slots := slotSet k f v.slots } n = some (k, f x) := by
  unfold slotOfStep slotSet at *
  rw [List.find?_map, show ((fun y : Nat × VSlot => decide (y.2.step = n)) ∘ fun y => if y.1 = k then (k, f y.2) else y)
    = fun y : Nat × VSlot => decide (y.2.step = n) from ?_, h]
  · simp
  · funext y
    dsimp only [Function.comp]
    split
    · simp [hf]
    · rfl

/-- A partition holds a slot that meets a condition. -/
structure Holds (p k : Nat) (P : VSlot → Prop) (m : Module) : Prop where
  inv : m.Inv
  slot : ∃ y, (k, y) ∈ (m.vst' p).slots ∧ P y

theorem Holds.of_vst (h : Holds p k P a) (hi : b.Inv) (hv : b.vst = a.vst) : Holds p k P b := ⟨hi, by rw [vst'_of_vst hv]; exact h.slot⟩

theorem Holds.updSlot (h : Holds p k P m) (hf : ∀ y, P y → Q (f y)) : Holds p k Q (Machine.updSlot p k f m) := by
  obtain ⟨y, hy, hP⟩ := h.slot
  refine ⟨(eff_updSlot ..).keeps.inv h.inv, f y, ?_, hf y hP⟩
  rw [updSlot_vst' h.inv]
  exact mem_slotSet hy f

theorem Holds.tainted (h : Holds p k P a) (ht : Tainted a b) (hP : ∀ x y, bareSlot y = bareSlot x → P x → P y) : Holds p k P b := by
  obtain ⟨x, hx, hp⟩ := h.slot
  obtain ⟨y, hy, he⟩ := ht.mem_slots h.inv hx
  exact ⟨ht.inv h.inv, y, hy, hP x y he hp⟩

theorem Holds.setVst (h : Holds p k P m) {v : Vst} (hv : v.slots = (m.vst' p).slots) : Holds p k P (m.setVst p v) :=
  ⟨(eff_setVst ..).keeps.inv h.inv, by rw [setVst_get _ _ _ (rising_vst h.inv), hv]; exact h.slot⟩

theorem Holds.vstEv (h : Holds p k P m) (q code sev ctx : Nat) (w : W64) : Holds p k P (Machine.vstEv q code sev ctx w m) :=
  h.of_vst ((eff_vstEv ..).keeps.inv h.inv) (vstEv_vst ..)

/-- Taking room in a slot area leaves of the slot all but the room in use and NOREC. -/
theorem Holds.reserve (h : Holds p k P m) (hP : ∀ y u r, P y → P { y with used := u, norec := r }) (s : VSlot) (n : Nat) :
    Holds p k P (Machine.reserve p k s n m).2 := by
  unfold Machine.reserve
  extract_lets v m1 v1
  have h1 : Holds p k P m1 := h.updSlot fun y hy => hP y y.used true hy
  have h2 : Holds p k P (m1.setVst p { v1 with overflows := v1.overflows + 1 }) := h1.setVst rfl
  clear_value m1
  split
  · exact h2.vstEv ..
  · exact h.updSlot fun y hy => hP y (y.used + n) y.norec hy

/-! #### Refusals -/

/-- A descriptor that its checks refuse leaves its queue, completes, and changes no slot. -/
theorem vst_refused {c : Instr} {key : QKey} {code : Nat} (hd : d.part = p) (he : exec c s = done s (bodyRefused 8 0 code d (dequeue key s.m))) :
    Completes c s fun m => (queue m key = (queue s.m key).tail ∧ count m p d.ctx 8 0 = count s.m p d.ctx 8 0 + 1)
      ∧ m.vst = s.m.vst ∧ m.mem = s.m.mem := by
  subst hd
  obtain ⟨hq, hm, -, hc⟩ := bodyRefused_ends (d := d) (.refl (dequeue key s.m)) (l := []) (by simp) 8 0 code
  exact completes_of_done he ⟨⟨hq, hc⟩, bodyRefused_vst .., hm⟩

/-! #### RETAIN (R517) -/

/-- The room that a batch takes in its slot's area. -/
def batchRoom (d : Desc) (k : Nat) (s : VSlot) (m : Module) : Option Nat × Module :=
  if d.fl 0 || s.norec then (none, m) else reserve d.part k s (d.f 24 8) m

/-- The bytes of a batch. -/
def batchRead (d : Desc) (m : Module) : List Byte × List Bool × Module :=
  memRead 2 d.part (gaTier (d.a 16)) false (gaOff (d.a 16)) (d.f 24 8) m

/-- A batch's bytes are copied into its slot's area, where they have room. -/
def batchStored (d : Desc) (k : Nat) (s : VSlot) (m : Module) : Module :=
  match (batchRoom d k s (batchRead d m).2.2).1 with
  | some o => memWriteBad 2 d.part 2 false o (batchRead d m).1 (batchRead d m).2.1 (batchRoom d k s (batchRead d m).2.2).2
  | none => (batchRoom d k s (batchRead d m).2.2).2

def batchRec (d : Desc) (k : Nat) (s : VSlot) (m : Module) : BatchRec :=
  { addr := d.a 16, len := d.a 24, digestMode := d.fl 0, handle := slice d.bytes 32 16, digest := sha384 (batchRead d m).1,
    off := (batchRoom d k s (batchRead d m).2.2).1 }

theorem retain_eq (h : newestSlot (m.vst' d.part) (fun y => y.st = .open) = some (k, x)) :
    retain d m = writeHeader d.part k (updSlot d.part k (fun y => { y with batches := y.batches ++ [batchRec d k x m] })
      (batchStored d k x m)) := by
  unfold retain
  simp only [h]
  rfl

theorem batchRec_digest (h : d.fl 0 = true) : (batchRec d k x m).off = none := congrArg Prod.fst (if_pos (by simp [h]))

/-- An event leaves an OPEN slot OPEN, with its step and its batches. -/
theorem openSlot_of_bare {x y : VSlot} {l : List BatchRec} (he : bareSlot y = bareSlot x) :
    x.st = .open ∧ x.step = n ∧ x.batches = l → y.st = .open ∧ y.step = n ∧ y.batches = l := by
  rintro ⟨h1, rfl, rfl⟩
  have hst : (bareSlot y).st = (bareSlot x).st := congrArg VSlot.st he
  refine ⟨?_, (congrArg VSlot.step he :), (congrArg VSlot.batches he :)⟩
  simp only [bareSlot, h1] at hst
  split at hst
  · cases hst
  · simpa using hst

theorem batchStored_holds (hi : m.Inv) (h : newestSlot (m.vst' d.part) (fun y => y.st = .open) = some (k, x)) :
    Holds d.part k (fun y => y.st = .open ∧ y.step = x.step ∧ y.batches = x.batches) (batchStored d k x m) := by
  obtain ⟨hx, ho⟩ := newestSlot_mem h
  have h0 : Holds d.part k (fun y => y.st = .open ∧ y.step = x.step ∧ y.batches = x.batches) m :=
    ⟨hi, x, hx, by simpa using ho, rfl, rfl⟩
  have h1 := h0.tainted (b := (batchRead d m).2.2) (tainted_memRead ..) fun _ _ => openSlot_of_bare
  have h2 : Holds d.part k (fun y => y.st = .open ∧ y.step = x.step ∧ y.batches = x.batches) (batchRoom d k x (batchRead d m).2.2).2 := by
    unfold batchRoom
    split
    · exact h1
    · exact h1.reserve (fun _ _ _ h => h) ..
  unfold batchStored
  split
  · exact h2.tainted (tainted_memWriteBad ..) fun _ _ => openSlot_of_bare
  · exact h2

theorem tainted_writeHeader (p k : Nat) (m : Module) : Tainted m (writeHeader p k m) := by
  unfold writeHeader
  dsimp only
  split
  · split
    · exact .refl m
    · exact tainted_memWrite ..
  · exact .refl m

theorem retain_holds (hi : m.Inv) (h : newestSlot (m.vst' d.part) (fun y => y.st = .open) = some (k, x)) :
    ∃ y, (k, y) ∈ ((retain d m).vst' d.part).slots ∧ y.st = .open ∧ y.step = x.step ∧ y.batches = x.batches ++ [batchRec d k x m] := by
  have h1 : Holds d.part k (fun y => y.st = .open ∧ y.step = x.step ∧ y.batches = x.batches ++ [batchRec d k x m])
      (updSlot d.part k (fun y => { y with batches := y.batches ++ [batchRec d k x m] }) (batchStored d k x m)) :=
    (batchStored_holds hi h).updSlot fun y ⟨h1, h2, h3⟩ => ⟨h1, h2, by rw [h3]⟩
  rw [retain_eq h]
  exact (h1.tainted (tainted_writeHeader ..) fun _ _ => openSlot_of_bare).slot

/-! #### The commands -/

section
variable {p : Fin 16} {key : QKey}

theorem retain_refused (hh : vstHead s.m p 0x80 = some (key, d)) {c : Nat} (hr : retainRefusal (dequeue key s.m) d = some c) :
    exec (.retain p) s = done s (bodyRefused 8 0 c d (dequeue key s.m)) := by
  show execRetain p s = _
  unfold execRetain
  simp only [hh, hr]

theorem retain_done (hh : vstHead s.m p 0x80 = some (key, d)) (hr : retainRefusal (dequeue key s.m) d = none) :
    exec (.retain p) s = done s (complete 8 0 d false (retain d (descStart 8 0 d (dequeue key s.m)))) := by
  show execRetain p s = _
  unfold execRetain
  simp only [hh, hr]

theorem retain_retains (hi : s.m.Inv) (hd : d.part = p) (hh : vstHead s.m p 0x80 = some (key, d))
    (hr : retainRefusal (dequeue key s.m) d = none) (hx : newestSlot (s.m.vst' p) (fun y => y.st = .open) = some (k, x)) :
    Completes (.retain p) s fun m =>
      (queue m key = (queue s.m key).tail ∧ count m p d.ctx 8 0 = count s.m p d.ctx 8 0 + 1)
      ∧ ∃ y, (k, y) ∈ (m.vst' p).slots ∧ y.st = .open ∧ y.step = x.step
        ∧ y.batches = x.batches ++ [batchRec d k x (descStart 8 0 d (dequeue key s.m))] := by
  have he1 : Eff _ (dequeue key s.m) (descStart 8 0 d (dequeue key s.m)) := eff_descStart ..
  have hv1 : (descStart 8 0 d (dequeue key s.m)).vst = s.m.vst := descStart_vst ..
  have hi1 : (descStart 8 0 d (dequeue key s.m)).Inv := he1.keeps.inv ((eff_dequeue ..).keeps.inv hi)
  have he2 : Eff _ (dequeue key s.m) (retain d (descStart 8 0 d (dequeue key s.m))) :=
    (he1.mono rfl : Eff [.mem, .flt, .vst, .hlt, .cor, .pci, .tray, .dbg, .out] _ _).trans (eff_retain ..)
  refine completes_of_done (retain_done hh hr) ⟨⟨?_, ?_⟩, ?_⟩
  · rw [queue_of_eff (eff_complete ..), queue_of_eff he2, queue_dequeue]
  · rw [← hd, count_complete, count_of_eff he2]
    rfl
  · rw [vst'_of_vst (complete_vst ..), ← hd]
    exact retain_holds hi1 (by rw [vst'_of_vst hv1, hd]; exact hx)

theorem done_refused (hh : vstHead s.m p 0x81 = some (key, d)) {c : Nat} (hr : doneRefusal (dequeue key s.m) d = some c) :
    exec (.done p) s = done s (bodyRefused 8 0 c d (dequeue key s.m)) := by
  show execDone p s = _
  unfold execDone
  simp only [hh, hr]

theorem done_done (hh : vstHead s.m p 0x81 = some (key, d)) (hr : doneRefusal (dequeue key s.m) d = none) :
    exec (.done p) s = done s (doDone d (dequeue key s.m)) := by
  show execDone p s = _
  unfold execDone
  simp only [hh, hr]

theorem await_refused (hh : vstHead s.m p 0x82 = some (key, d)) {c : Nat} (hr : awaitRefusal (dequeue key s.m) d = some c) :
    exec (.await p) s = done s (bodyRefused 8 0 c d (dequeue key s.m)) := by
  show execAwait p s = _
  unfold execAwait
  simp only [hh, hr]

theorem await_waits (hi : s.m.Inv) (hh : vstHead s.m p 0x82 = some (key, d)) (hr : awaitRefusal (dequeue key s.m) d = none) :
    Completes (.await p) s fun m => queue m key = (queue s.m key).tail ∧ m.counts = s.m.counts
      ∧ m.vst' p = { s.m.vst' p with awaits := [d] } ∧ m.mem = s.m.mem := by
  have he : exec (.await p) s
      = done s (descStart 8 0 d ((dequeue key s.m).setVst p { s.m.vst' p with awaits := [d] })) := by
    show execAwait p s = _
    unfold execAwait
    simp only [hh, hr]
    rfl
  have hd : Eff _ _ _ := eff_descStart 8 0 d ((dequeue key s.m).setVst p { s.m.vst' p with awaits := [d] })
  refine completes_of_done he ⟨(queue_of_eff hd).trans (queue_dequeue ..), hd.same .counts (by decide), ?_, hd.same .mem (by decide)⟩
  rw [vst'_of_vst (descStart_vst ..)]
  exact setVst_get _ _ _ (rising_vst hi)

end

/-! #### DONE (R520, R594) -/

/-- The slot of a step that commits. -/
def committedSlot (res : W32) (s : VSlot) : VSlot := { s with st := .committed, voting := false, replayMode := 0, result := res }

theorem commitStep_vst' (hi : m.Inv) (h : nfind (m.vst' p).slots k = some x) (res : W32) (beat : Beat) :
    (commitStep p k res beat m).vst' p
      = { m.vst' p with slots := slotSet k (committedSlot res) (m.vst' p).slots, committed := x.step } := by
  unfold commitStep
  simp only [h]
  rw [vst'_of_vst (vstEv_vst ..), setVst_get _ _ _ (rising_vst ((eff_updSlot ..).keeps.inv hi)), updSlot_vst' hi]
  rfl

/-- The slot of a step whose checks are made. -/
def verifiedSlot (beat : Beat) (s : VSlot) : VSlot := { s with st := .verified, verifiedSeen := true, verifiedBeat := some beat }

theorem stepChecked_tainted (h : slotOfStep (m.vst' p) n = some (k, x)) (hx : x.taint = true) : stepChecked p n m = m := by
  unfold stepChecked
  simp [h, hx]

theorem stepChecked_verifies (h : slotOfStep (m.vst' p) n = some (k, x)) (hs : x.st = .computed) (hx : x.taint = false)
    (hr : x.replayMode ≠ 3) : stepChecked p n m = updSlot p k (verifiedSlot (beatNow m)) m := by
  unfold stepChecked
  simp only [h, hs, hx, hr, if_false]
  rfl

theorem stepChecked_commits (h : slotOfStep (m.vst' p) n = some (k, x)) (hs : x.st = .computed) (hx : x.taint = false)
    (hr : x.replayMode = 3) : ∃ b, stepChecked p n m = commitStep p k 0 b (updSlot p k (verifiedSlot (beatNow m)) m) := by
  unfold stepChecked
  simp only [h, hs, hx, hr]
  exact ⟨_, rfl⟩

/-- The slot of a step whose DONE has come. -/
def computedSlot (s : VSlot) : VSlot := { s with st := .computed }

/-- A step is computed, and its DONE complete. -/
def doneStep (d : Desc) (k : Nat) (m : Module) : Module :=
  complete 8 0 d false (updSlot d.part k computedSlot (descStart 8 0 d m))

/-- The cycle after it. -/
def doneNext (d : Desc) (k : Nat) (m : Module) : Module := passToCycle ((doneStep d k m).clk.cycle + 1) (doneStep d k m)

theorem doDone_eq (h : slotOfStep (m.vst' d.part) (stStep d) = some (k, x)) :
    doDone d m = if wingUp (doneStep d k m) (homeWing d.part) then stepChecked d.part (stStep d) (doneNext d k m) else doneStep d k m := by
  unfold doDone
  simp only [h]
  rfl

theorem doneStep_vst' (hi : m.Inv) : (doneStep d k m).vst' d.part
    = { m.vst' d.part with slots := slotSet k computedSlot (m.vst' d.part).slots } := by
  have hv : (descStart 8 0 d m).vst = m.vst := descStart_vst ..
  rw [doneStep, vst'_of_vst (complete_vst ..), updSlot_vst' ((eff_descStart ..).keeps.inv hi), vst'_of_vst hv]

theorem eff_doneStep (d : Desc) (k : Nat) (m : Module) :
    Eff [.counts, .outstanding, .harts, .vst, .wdg, .hlt, .pci, .tray, .dbg, .out] m (doneStep d k m) :=
  ((eff_descStart ..).mono rfl).trans (((eff_updSlot ..).mono rfl).trans (eff_complete ..))

theorem doneStep_wingUp (d : Desc) (k : Nat) (m : Module) (w : Nat) : wingUp (doneStep d k m) w = wingUp m w := by
  have hv : wingUp (updSlot d.part k computedSlot (descStart 8 0 d m)) w = wingUp m w :=
    wingUp_of_eff (eff_descStart 8 0 d m) (evKeeps_descStart ..) (by decide) w
  rw [doneStep, wingUp_complete, hv]

theorem doneStep_count (d : Desc) (k : Nat) (m : Module) : count (doneStep d k m) d.part d.ctx 8 0 = count m d.part d.ctx 8 0 + 1 := by
  have h : Eff [.vst, .hlt, .pci, .tray, .dbg, .out] m (updSlot d.part k computedSlot (descStart 8 0 d m)) :=
    (eff_descStart ..).trans ((eff_updSlot ..).mono rfl)
  rw [doneStep, count_complete, count_of_eff h]

theorem eff_doneNext (d : Desc) (k : Nat) (m : Module) :
    Eff [.clk, .beat, .mem, .cor, .dbg, .out] (doneStep d k m) (doneNext d k m) := eff_passToCycle ..

/-- Whatever the check finds, a DONE leaves its queue and is counted. -/
theorem doDone_counts (h : slotOfStep (m.vst' d.part) (stStep d) = some (k, x)) (key : QKey) :
    queue (doDone d m) key = queue m key ∧ count (doDone d m) d.part d.ctx 8 0 = count m d.part d.ctx 8 0 + 1 := by
  have hq : queue (doneStep d k m) key = queue m key := queue_of_eff (eff_doneStep ..)
  rw [doDone_eq h]
  split
  · have hc : Eff _ _ _ := eff_stepChecked d.part (stStep d) (doneNext d k m)
    rw [queue_of_eff hc, count_of_eff hc, queue_of_eff (eff_doneNext ..), count_of_eff (eff_doneNext ..), doneStep_count]
    exact ⟨hq, rfl⟩
  · exact ⟨hq, doneStep_count ..⟩

section
variable (hi : m.Inv) (h : slotOfStep (m.vst' d.part) (stStep d) = some (k, x))
include hi h

theorem doDone_unchecked (hc : ¬ (x.taint = false ∧ wingUp m (homeWing d.part) = true)) :
    (k, (computedSlot x)) ∈ ((doDone d m).vst' d.part).slots := by
  have hv : (doneNext d k m).vst' d.part = (doneStep d k m).vst' d.part := vst'_of_eff (eff_doneNext ..) (by decide) _
  have hm : (k, (computedSlot x)) ∈ ((doneStep d k m).vst' d.part).slots := by
    rw [doneStep_vst' hi]
    exact mem_slotSet (slotOfStep_mem h).1 computedSlot
  have hs : slotOfStep ((doneNext d k m).vst' d.part) (stStep d) = some (k, (computedSlot x)) := by
    rw [hv, doneStep_vst' hi]
    exact slotOfStep_set (f := computedSlot) (fun _ => rfl) h
  rw [doDone_eq h, doneStep_wingUp]
  split
  next hw =>
    have hx : x.taint = true := by simpa [hw] using hc
    rwa [stepChecked_tainted hs hx, hv]
  next => exact hm

variable (hx : x.taint = false) (hw : wingUp m (homeWing d.part) = true)
include hx hw

theorem doDone_verifies (hr : x.replayMode ≠ 3) :
    ∃ b, (k, verifiedSlot b (computedSlot x)) ∈ ((doDone d m).vst' d.part).slots := by
  have hv : (doneNext d k m).vst' d.part = (doneStep d k m).vst' d.part := vst'_of_eff (eff_doneNext ..) (by decide) _
  have hi' : (doneNext d k m).Inv := (eff_doneNext ..).keeps.inv ((eff_doneStep ..).keeps.inv hi)
  have hs : slotOfStep ((doneNext d k m).vst' d.part) (stStep d) = some (k, (computedSlot x)) := by
    rw [hv, doneStep_vst' hi]
    exact slotOfStep_set (f := computedSlot) (fun _ => rfl) h
  rw [doDone_eq h, doneStep_wingUp, if_pos hw, stepChecked_verifies hs rfl hx hr, updSlot_vst' hi']
  exact ⟨_, mem_slotSet (slotOfStep_mem hs).1 (verifiedSlot _)⟩

theorem doDone_commits (hf : nfind (m.vst' d.part).slots k = some x) (hr : x.replayMode = 3) :
    ((doDone d m).vst' d.part).committed = stStep d
    ∧ ∃ b, (k, committedSlot 0 (verifiedSlot b (computedSlot x))) ∈ ((doDone d m).vst' d.part).slots := by
  have hv : (doneNext d k m).vst' d.part = (doneStep d k m).vst' d.part := vst'_of_eff (eff_doneNext ..) (by decide) _
  have hi' : (doneNext d k m).Inv := (eff_doneNext ..).keeps.inv ((eff_doneStep ..).keeps.inv hi)
  have hs : slotOfStep ((doneNext d k m).vst' d.part) (stStep d) = some (k, (computedSlot x)) := by
    rw [hv, doneStep_vst' hi]
    exact slotOfStep_set (f := computedSlot) (fun _ => rfl) h
  obtain ⟨b, hb⟩ := stepChecked_commits hs rfl hx hr
  have hf' : nfind ((updSlot d.part k (verifiedSlot (beatNow (doneNext d k m))) (doneNext d k m)).vst' d.part).slots k
      = some (verifiedSlot (beatNow (doneNext d k m)) (computedSlot x)) := by
    rw [updSlot_vst' hi', nfind_slotSet, hv, doneStep_vst' hi, nfind_slotSet, hf]
    rfl
  rw [doDone_eq h, doneStep_wingUp, if_pos hw, hb, commitStep_vst' ((eff_updSlot ..).keeps.inv hi') hf']
  refine ⟨(slotOfStep_mem h).2, beatNow (doneNext d k m), mem_slotSet (x := verifiedSlot _ (computedSlot x)) ?_ (committedSlot 0)⟩
  rw [updSlot_vst' hi']
  exact mem_slotSet (slotOfStep_mem hs).1 (verifiedSlot _)

end

/-! #### The outcome of an AWAIT (R527), the release of a slot (R524), CKPT packets (R547) -/

theorem awaitOutcome_held {c : Nat} (h : slotOfStep (m.vst' d.part) (stStep d) = some (k, x))
    (hc : x.st = .committed ∧ shardRead m d.part (stStep d) = true ∧ c = 1 ∨ x.st = .failed ∧ c = 2 ∨ x.st = .undecided ∧ c = 3) :
    awaitOutcome m d = some (some (2 ^ 32 * x.result.toNat + c)) := by
  unfold awaitOutcome
  rcases hc with ⟨hs, hr, rfl⟩ | ⟨hs, rfl⟩ | ⟨hs, rfl⟩
  · simp only [h, hs, hr, if_true]
  · simp only [h, hs]
  · simp only [h, hs]

section
variable {p : Fin 16}

theorem awaitComplete_writes (hi : s.m.Inv) {r : List Desc} {w : Nat} (ha : (s.m.vst' p).awaits = d :: r)
    (hw : awaitOutcome s.m d = some (some w)) : Completes (.awaitComplete p) s fun m =>
      (m.vst' p).awaits = r ∧ count m d.part d.ctx 8 0 = count s.m d.part d.ctx 8 0 + 1
      ∧ m.mem = (hallWrite 2 p (gaOff (d.a 24)) (natLe 8 w) (s.m.setVst p { s.m.vst' p with awaits := r })).mem := by
  have hi1 : (s.m.setVst p { s.m.vst' p with awaits := r }).Inv := (eff_setVst ..).keeps.inv hi
  have ht : Tainted (s.m.setVst p { s.m.vst' p with awaits := r })
      (hallWrite 2 p (gaOff (d.a 24)) (natLe 8 w) (s.m.setVst p { s.m.vst' p with awaits := r })) := tainted_memWrite ..
  have he : exec (.awaitComplete p) s = done s (complete 8 0 d false
      (hallWrite 2 p (gaOff (d.a 24)) (natLe 8 w) (s.m.setVst p { s.m.vst' p with awaits := r }))) := by
    show execAwaitComplete p s = _
    unfold execAwaitComplete
    simp only [ha, hw]
  refine completes_of_done he ⟨?_, ?_, (eff_complete ..).same .mem (by decide)⟩
  · rw [vst'_of_vst (complete_vst ..), ht.same hi1 p (f := Vst.awaits) fun _ => rfl, setVst_get _ _ _ (rising_vst hi)]
  · rw [count_complete, count_of_eff (eff_hallWrite ..)]
    rfl

theorem released_frees (hi : s.m.Inv) (ho : oldestSlot (s.m.vst' p) (fun _ => true) = some (k, x)) (hs : x.st = .committed)
    (ha : outAcked (s.m.mir' p) x.step = true) (hh : inHeld (s.m.mir' p) x.step = true) : Completes (.released p) s fun m =>
      m.vst' p = { s.m.vst' p with slots := (s.m.vst' p).slots.filter (fun y => y.1 != k) } ∧ SameBut evParts s.m m := by
  have he : exec (.released p) s = done s (vstEv p 0x0A 0 0 (x.step.setWidth 64) (freeSlot p k s.m)) := by
    show execReleased p s = _
    unfold execReleased
    simp only [ho]
    exact if_pos (by simp [hs, ha, hh])
  exact completes_vstEv he fun m hv hm =>
    ⟨(vst'_of_vst hv p).trans (setVst_get _ _ _ (rising_vst hi)), sameBut_trans (sameBut_setVst _ _ _) hm⟩

theorem ckpt_discarded {k : Pkt} {r : List Pkt} (hl : s.m.rte.local_ = k :: r) (ht : k.hdr.ty = 0x19) (hs : k.hdr.slice = 0xFFF) :
    Completes .ckpt s fun m => m.rte.local_ = r ∧ m.rte.accepted = s.m.rte.accepted ∧ m.rte.sliceRej = s.m.rte.sliceRej + 1
      ∧ m.port = s.m.port ∧ m.mem = s.m.mem := by
  have hd : deliver k (popped r s.m) = sliceReject k.hdr (popped r s.m) :=
    deliver_otherType (by rw [hs]; rfl) (by simp [ofFunction, ht])
  have he : exec .ckpt s = done s (sliceReject k.hdr (popped r s.m)) := by
    show execCkpt s = _
    unfold execCkpt
    simp only [hl, ht, if_true]
    exact congrArg (done s) hd
  obtain ⟨l, hr⟩ := sliceReject_rte k.hdr (popped r s.m)
  exact completes_of_done he ⟨by rw [hr]; rfl, by rw [hr]; rfl, by rw [hr]; rfl, sliceReject_port .., (eff_sliceReject ..).same .mem (by decide)⟩

end

end Sys2Proof.Scope

section
open Sys2Proof Sys2Proof.Machine Sys2Proof.Scope

/-- Settles O36, by what a refusal leaves, by the slot that RETAIN and DONE change, and by what an AWAIT writes. -/
theorem vestibuleDescriptorsAct : Obligations.VestibuleDescriptorsAct := by
  intro s p hi v
  refine ⟨fun k d hd => ?_, fun d r kk c x ha hd hs hc => ?_, fun kk x ho hs ha hh => released_frees hi ho hs ha hh,
    fun k r hl ht hs => ckpt_discarded hl ht hs⟩
  · intro m1 counted refused
    have hv : m1.vst' d.part = v := by rw [hd]; rfl
    refine ⟨fun hh => ⟨fun hr => ?_, fun kk x hr hx => ?_⟩, fun hh => ⟨fun hr => ?_, fun kk x hr hx hf => ?_⟩,
      fun hh => ⟨fun hr => ?_, fun hr => await_waits hi hh hr⟩⟩
    · obtain ⟨c, hc⟩ := Option.ne_none_iff_exists'.1 hr
      exact vst_refused hd (retain_refused hh hc)
    · refine (retain_retains hi hd hh hr hx).imp fun m ⟨he, hc, y, hy, h1, h2, h3⟩ => ⟨he, hc, y, _, hy, h1, h2, h3, rfl, rfl, rfl, rfl, ?_,
        batchRec_digest⟩
      rw [← hd]
      rfl
    · obtain ⟨c, hc⟩ := Option.ne_none_iff_exists'.1 hr
      exact vst_refused hd (done_refused hh hc)
    · have hi1 : m1.Inv := (Laws.eff_dequeue ..).keeps.inv hi
      have hx1 : slotOfStep (m1.vst' d.part) (stStep d) = some (kk, x) := by rw [hv]; exact hx
      have hf1 : nfind (m1.vst' d.part).slots kk = some x := by rw [hv]; exact hf
      have hc1 : counted (doDone d m1) := by
        obtain ⟨hq, hc⟩ := doDone_counts hx1 k
        exact ⟨hq.trans (Laws.queue_dequeue ..), hd ▸ hc⟩
      intro checked
      refine ⟨fun hc => completes_of_done (done_done hh hr) ⟨hc1, ?_⟩, fun ⟨ht, hw⟩ hm => completes_of_done (done_done hh hr) ⟨hc1, ?_⟩,
        fun ⟨ht, hw⟩ hm => completes_of_done (done_done hh hr) ⟨hc1, ?_⟩⟩
      · exact hd ▸ doDone_unchecked hi1 hx1 (hd ▸ hc)
      · obtain ⟨b, hb⟩ := doDone_verifies hi1 hx1 ht (hd ▸ hw) hm
        exact ⟨verifiedSlot b (computedSlot x), hd ▸ hb, rfl, rfl, rfl⟩
      · obtain ⟨hcm, b, hb⟩ := doDone_commits hi1 hx1 ht (hd ▸ hw) hf1 hm
        exact ⟨hd ▸ hcm, committedSlot 0 (verifiedSlot b (computedSlot x)), hd ▸ hb, rfl, rfl⟩
    · obtain ⟨c, hc⟩ := Option.ne_none_iff_exists'.1 hr
      exact vst_refused hd (await_refused hh hc)
  · have hw := awaitOutcome_held (m := s.m) (d := d) (by rw [hd]; exact hs) (by rw [hd]; exact hc)
    exact (awaitComplete_writes hi ha hw).imp fun m ⟨he, h1, h2, h3⟩ => ⟨he, h1, hd ▸ h2, h3⟩

end

/-! ### Vestibule commands (O37) -/

namespace Sys2Proof.Scope
open Sys2Proof.Machine Sys2Proof.Laws

variable {s : State} {m a b : Module} {c : Instr} {p k op : Nat} {n at_ : Beat} {x : VSlot}

/-! #### What the clocks and a partition's engines rest on -/

/-- Time passes to a beat as the clocks go, whatever else the hardware holds. -/
theorem clk_passToBeat (h : SameAt timeAt a b) (t : Beat) : (passToBeat t b).clk = (passToBeat t a).clk := by
  have hc : b.clk = a.clk := congrArg (·.1) h
  have hb : b.beat = a.beat := congrArg (·.2.1) h
  have hn : nsToBeat t b = nsToBeat t a := by
    unfold nsToBeat beatNow
    rw [hc, hb]
  unfold passToBeat Machine.pass
  rw [hn]
  exact (clk_advance (h.trans (sameTime_drainTrace _ b)) _).trans (clk_advance (sameTime_drainTrace _ a) _).symm

/-- The parts by which a partition's engines are busy (R530). -/
def busyParts : List Part := [.img, .queues, .gal, .bal, .lnd, .ris, .win, .nwl, .flt, .arc]

theorem partBusy_congr (h : ∀ q ∈ busyParts, q.Same a b) (p : Nat) : partBusy b p = partBusy a p := by
  have hi : b.img = a.img := h .img (by decide)
  have hu (c i : Nat) : unitBusy b c i = unitBusy a c i := by
    have hq : b.queues = a.queues := h .queues (by decide)
    have h0 : b.gal = a.gal := h .gal (by decide)
    have h1 : b.bal = a.bal := h .bal (by decide)
    have h2 : b.lnd = a.lnd := h .lnd (by decide)
    have h3 : b.ris = a.ris := h .ris (by decide)
    have h4 : b.win = a.win := h .win (by decide)
    have h5 : b.nwl = a.nwl := h .nwl (by decide)
    have h6 : b.flt = a.flt := h .flt (by decide)
    have h7 : b.arc = a.arc := h .arc (by decide)
    unfold unitBusy queuesOf execDescs
    simp only [hq, Module.gal', Module.bal', Module.lnd', Module.ris', Module.win', Module.nwl', Module.flt', Module.arc', h0, h1, h2, h3,
      h4, h5, h6, h7]
  have ho : ownedEngines b p = ownedEngines a p := by
    unfold ownedEngines
    simp only [owner_congr hi]
  unfold partBusy
  rw [ho]
  simp only [hu]

/-! #### A command is armed, or refused as it is written (R528) -/

/-- The beat of a command has passed. -/
def beatPassed (b : Beat) (m : Module) : Prop :=
  b ≠ beatNow m ∧ atOrAfter (beatNow m) b = true ∨ b = beatNow m ∧ m.clk.time.toNat % 1024 ≠ 0

theorem vstArm_refuses (h : beatPassed (m.vst' p).cmdBeat m) : vstArm p op m = cmdRefuse p 6 m :=
  if_pos (by simpa [beatPassed] using h)

theorem vstArm_arms (h : ¬ beatPassed (m.vst' p).cmdBeat m) :
    vstArm p op m = m.setVst p { m.vst' p with armedCmd := (m.vst' p).armedCmd ++ [(op, (m.vst' p).cmdStep, (m.vst' p).cmdBeat)] } :=
  if_neg (by simpa [beatPassed] using h)

theorem cmdRefuse_completes {x : Module} {code : Nat} (hi : x.Inv) (he : exec c s = done s (cmdRefuse p code x)) :
    Completes c s fun m => m.vst' p = { x.vst' p with lastCode := BitVec.ofNat 8 code } ∧ SameBut evParts x m :=
  completes_vstEv he fun _ hv hm =>
    ⟨(vst'_of_vst hv p).trans (setVst_get _ _ _ (rising_vst hi)), sameBut_trans (sameBut_setVst _ _ _) hm⟩

theorem vstCommand_armed (hi : s.m.Inv) (he : exec c s = done s (vstArm p op s.m)) :
    (¬ beatPassed (s.m.vst' p).cmdBeat s.m → Does c s (s.m.setVst p { s.m.vst' p with
      armedCmd := (s.m.vst' p).armedCmd ++ [(op, (s.m.vst' p).cmdStep, (s.m.vst' p).cmdBeat)] }))
    ∧ (beatPassed (s.m.vst' p).cmdBeat s.m → Completes c s fun m => m.vst' p = { s.m.vst' p with lastCode := 6 } ∧ SameBut evParts s.m m) :=
  ⟨fun h => he.trans (congrArg (done s) (vstArm_arms h)),
    fun h => cmdRefuse_completes hi (he.trans (congrArg (done s) (vstArm_refuses h)))⟩

/-! #### A command takes effect (R528 to R530) -/

/-- A step is older than one that a command names, and not COMMITTED. -/
def olderHeld (v : Vst) (n : Beat) : Prop := ∃ y ∈ v.slots, stepBefore y.2.step n = true ∧ y.2.st ≠ .committed

theorem olderHeld_iff {v : Vst} : v.slots.any (fun x => stepBefore x.2.step n && x.2.st != .committed) = true ↔ olderHeld v n := by
  simp [olderHeld]

theorem digestBad_undigested (h : ∀ y ∈ x.batches, y.digestMode = false) (p : Nat) (m : Module) : digestBad p x m = (false, m) :=
  foldl_keeps (f := id) (fun _ y hy => by simp [h y hy]) _

theorem cmdEffect_unheld (h : slotOfStep (m.vst' p) n = none) : cmdEffect p op n m = cmdRefuse p 1 m := by
  unfold cmdEffect
  simp only [h]

section
variable (h : slotOfStep (m.vst' p) n = some (k, x))
include h

theorem cmdEffect_older (ho : op ≤ 3) (hd : ∀ y ∈ x.batches, y.digestMode = false) (hl : olderHeld (m.vst' p) n) :
    cmdEffect p op n m = cmdRefuse p 2 m := by
  unfold cmdEffect
  simp only [h, ho, olderHeld_iff.2 hl, digestBad_undigested hd]
  rfl

theorem cmdEffect_abort (hs : x.st = .undecided) (hv : x.voting = false) :
    cmdEffect p 6 n m = cutFails p n (updSlot p k (fun s => { s with st := .failed }) m) := by
  unfold cmdEffect
  simp [h, firstCode, cmdAllowed, hs, hv]

theorem cmdEffect_commit (hs : x.st = .undecided) (hv : x.voting = false) (hq : x.verifiedSeen = true) :
    cmdEffect p 5 n m = commitStep p k 0 (beatNow m) m := by
  unfold cmdEffect
  simp [h, firstCode, cmdAllowed, hs, hv, hq]

theorem cmdEffect_revote (hs : x.st = .undecided) (hv : x.voting = false) :
    cmdEffect p 4 n m = beginVote p k x (x.verifiedSeen && !x.taint) m := by
  unfold cmdEffect
  simp [h, firstCode, cmdAllowed, hs, hv]

theorem cmdEffect_replay (h1 : 1 ≤ op) (ho : op ≤ 3) (hd : ∀ y ∈ x.batches, y.digestMode = false) (hl : ¬ olderHeld (m.vst' p) n)
    (hb : partBusy m p = false) (hs : x.st = .failed) (hv : x.voting = false) (hn : op = 1 ∨ x.norec = false) :
    cmdEffect p op n m = replay p k op x m := by
  have hl' := Bool.eq_false_iff.2 (mt olderHeld_iff.1 hl)
  unfold cmdEffect
  simp only [h, ho, hl', digestBad_undigested hd]
  obtain rfl | rfl | rfl : op = 1 ∨ op = 2 ∨ op = 3 := by omega
  · simp [firstCode, cmdAllowed, hs, hv, hb]
  · simp [firstCode, cmdAllowed, hs, hv, hb, hn.resolve_left (by decide)]
  · simp [firstCode, cmdAllowed, hs, hv, hb, hn.resolve_left (by decide)]

end

theorem cutFails_vst' (hi : m.Inv) : ∃ t, (cutFails p n m).vst' p = { m.vst' p with cut := t } := by
  unfold cutFails
  dsimp only
  split
  · exact ⟨none, (vst'_of_vst (vstEv_vst ..) p).trans (setVst_get _ _ _ (rising_vst hi))⟩
  · exact ⟨_, rfl⟩

theorem voteStart_queued (h : (nfind m.vote.running p).isSome = true) (value : W32) : voteStart p n value m
    = { m with vote := { m.vote with queued := nset [] m.vote.queued p (nget [] m.vote.queued p ++ [(n, value)]) } } := if_pos h

/-! #### A replay (R529) -/

/-- What a replay makes of the slot of its step. -/
def replayedSlot (op base : Nat) (s : VSlot) : VSlot :=
  let s : VSlot := { s with
    st := .open, taint := false, verifiedSeen := false, replayed := true, replayMode := op, soloNext0 := 0, soloNext1 := 0 }
  if op = 1 then
    { s with captures := [], used := usedWithout base s, norec := s.batches.any (fun b => !b.digestMode && b.off.isNone) }
  else s

/-- The seeds, the step and the batches of a replayed step are back. -/
def replayLoaded (p : Nat) (s : VSlot) (m : Module) : Module :=
  s.batches.foldl (fun m b => match b.off with
    | some o => vstCopy p 2 o (gaTier b.addr) (gaOff b.addr) b.len.toNat m
    | none => m) (setStepComp p (s.step.setWidth 32) ((List.zip (List.range 8) s.seeds).foldl (fun m x => setSeed p x.1 x.2 m) m))

/-- Its slot is OPEN again, and the replay counted. -/
def replayOpened (p k op : Nat) (s : VSlot) (m : Module) : Module :=
  let m := updSlot p k (replayedSlot op ((m.vst' p).slotBase k)) m
  vstEv p 5 1 0 (stepDetail s.step op) (m.setVst p { m.vst' p with replays := (m.vst' p).replays + 1 })

theorem replay_eq (p k op : Nat) (s : VSlot) (m : Module) : replay p k op s m
    = (List.range 8).foldl (fun m c => setGate p c 15 m) (replayOpened p k op s (replayLoaded p s m)) := rfl

theorem tainted_replayLoaded (p : Nat) (s : VSlot) (m : Module) : Tainted m (replayLoaded p s m) := by
  have h1 : Tainted m ((List.zip (List.range 8) s.seeds).foldl (fun m x => setSeed p x.1 x.2 m) m) :=
    .foldl (fun _ _ => .of_eff (eff_setSeed ..)) ..
  refine h1.trans ((Tainted.of_eff (eff_setStepComp ..)).trans (.foldl (fun m b => ?_) ..))
  split
  · exact tainted_vstCopy ..
  · exact .refl m

theorem replayOpened_vst' (hi : m.Inv) (op : Nat) (s : VSlot) : (replayOpened p k op s m).vst' p
    = { m.vst' p with
        slots := slotSet k (replayedSlot op ((m.vst' p).slotBase k)) (m.vst' p).slots
        replays := (m.vst' p).replays + 1 } := by
  unfold replayOpened
  dsimp only
  rw [vst'_of_vst (vstEv_vst ..), setVst_get _ _ _ (rising_vst ((eff_updSlot ..).keeps.inv hi)), updSlot_vst' hi]

theorem setGates_vst' (p g : Nat) (l : List Nat) (m : Module) : (l.foldl (fun m c => setGate p c g m) m).vst' p = m.vst' p :=
  vst'_of_vst (foldl_keeps (f := Module.vst) (fun _ _ _ => setGate_vst ..) m) p

theorem bit_or_pow (y : BitVec 16) : bit (y ||| BitVec.ofNat 16 (2 ^ 15)) 15 = true :=
  BitVec.getLsbD_or.trans (by simp)

/-- Gate 15 of every context of the partition is set. -/
theorem setGates_all (hi : m.Inv) {j : Nat} (hj : j < 8) :
    bit (nget 0 ((List.range 8).foldl (fun m c => setGate p c 15 m) m).gates (p * 8 + j)) 15 = true := by
  refine foldl_establishes (I := Module.Inv) (P := fun m : Module => bit (nget 0 m.gates (p * 8 + j)) 15 = true) (x := j)
    (by simpa using hj) (fun b y _ hb => (eff_setGate ..).keeps.inv hb) (fun b hb => ?_) (fun b y _ hb hP => ?_) hi
  · rw [setGate_gates, nget_nset_self (rising_gates hb)]
    exact bit_or_pow _
  · rw [setGate_gates]
    obtain rfl | hy := eq_or_ne j y
    · rw [nget_nset_self (rising_gates hb)]
      exact bit_or_pow _
    · rwa [nget_nset_of_ne (by omega)]

theorem replay_leaves (hi : m.Inv) (hx : (k, x) ∈ (m.vst' p).slots) (op : Nat) :
    ((replay p k op x m).vst' p).replays = (m.vst' p).replays + 1 ∧ ((replay p k op x m).vst' p).lastCode = (m.vst' p).lastCode
    ∧ (∀ j, j < 8 → bit (nget 0 (replay p k op x m).gates (p * 8 + j)) 15 = true)
    ∧ ∃ y base, bareSlot y = bareSlot x ∧ (k, replayedSlot op base y) ∈ ((replay p k op x m).vst' p).slots := by
  have ht : Tainted m (replayLoaded p x m) := tainted_replayLoaded ..
  have hi1 : (replayLoaded p x m).Inv := ht.inv hi
  have hi2 : (replayOpened p k op x (replayLoaded p x m)).Inv :=
    (eff_vstEv ..).keeps.inv ((eff_setVst ..).keeps.inv ((eff_updSlot ..).keeps.inv hi1))
  obtain ⟨y, hy, he⟩ := ht.mem_slots hi hx
  rw [replay_eq, setGates_vst', replayOpened_vst' hi1]
  exact ⟨congrArg (· + 1) (ht.same hi p (f := Vst.replays) fun _ => rfl), ht.same hi p (f := Vst.lastCode) fun _ => rfl,
    fun j hj => setGates_all hi2 hj, y, _, he, mem_slotSet hy _⟩

/-! #### The command at its beat -/

section
variable {p : Fin 16} (hi : s.m.Inv) (hc : nextCmd (s.m.vst' p).armedCmd = some (op, n, at_))

/-- The command that comes first has left the armed ones, and its beat has come. -/
def cmdDue (p : Nat) (c : Nat × Beat × Beat) (m : Module) : Module :=
  passToBeat c.2.2 (m.setVst p { m.vst' p with armedCmd := (m.vst' p).armedCmd.erase c })

include hc in
theorem exec_vstCommandBeat : exec (.vstCommandBeat p) s = done s (cmdEffect p op n (cmdDue p (op, n, at_) s.m)) := by
  show execVstCommandBeat p s = _
  unfold execVstCommandBeat
  simp only [hc]
  rfl

theorem eff_cmdDue (p : Nat) (c : Nat × Beat × Beat) (m : Module) : Eff [.clk, .beat, .mem, .cor, .dbg, .out, .vst] m (cmdDue p c m) :=
  ((eff_setVst ..).mono rfl).trans ((eff_passToBeat ..).mono rfl)

theorem cmdDue_clk (p : Nat) (c : Nat × Beat × Beat) (m : Module) : (cmdDue p c m).clk = (passToBeat c.2.2 m).clk :=
  clk_passToBeat (a := m) (b := m.setVst p _) rfl _

include hi

theorem cmdDue_vst' (c : Nat × Beat × Beat) :
    (cmdDue p c s.m).vst' p = { s.m.vst' p with armedCmd := (s.m.vst' p).armedCmd.erase c } :=
  (vst'_of_eff (eff_passToBeat ..) (by decide) _).trans (setVst_get _ _ _ (rising_vst hi))

include hc

theorem command_refused {code : Nat} (he : cmdEffect p op n (cmdDue p (op, n, at_) s.m) = cmdRefuse p code (cmdDue p (op, n, at_) s.m)) :
    Completes (.vstCommandBeat p) s fun m =>
      m.vst' p = { s.m.vst' p with armedCmd := (s.m.vst' p).armedCmd.erase (op, n, at_), lastCode := BitVec.ofNat 8 code }
      ∧ m.clk = (passToBeat at_ s.m).clk := by
  refine (cmdRefuse_completes ((eff_cmdDue ..).keeps.inv hi) ((exec_vstCommandBeat hc).trans (congrArg (done s) he))).imp
    fun m ⟨he, hv, hm⟩ => ⟨he, ?_, (hm .clk (by decide)).trans (cmdDue_clk ..)⟩
  rw [hv, cmdDue_vst' hi]

variable (hs : slotOfStep (s.m.vst' p) n = some (k, x))
include hs

theorem command_aborts (ho : op = 6) (hu : x.st = .undecided) (hv : x.voting = false) : Completes (.vstCommandBeat p) s fun m =>
    (m.vst' p).slots = slotSet k (fun y => { y with st := .failed }) (s.m.vst' p).slots
    ∧ (m.vst' p).committed = (s.m.vst' p).committed := by
  subst ho
  have hi1 : (cmdDue p (6, n, at_) s.m).Inv := (eff_cmdDue ..).keeps.inv hi
  have hs1 : slotOfStep ((cmdDue p (6, n, at_) s.m).vst' p) n = some (k, x) := by
    rw [cmdDue_vst' hi]
    exact hs
  refine completes_of_done ((exec_vstCommandBeat hc).trans (congrArg (done s) (cmdEffect_abort hs1 hu hv))) ?_
  obtain ⟨t, ht⟩ := cutFails_vst' (p := p) (n := n) (m := updSlot p k (fun s => { s with st := .failed }) (cmdDue p (6, n, at_) s.m))
    ((eff_updSlot ..).keeps.inv hi1)
  rw [ht, updSlot_vst' hi1, cmdDue_vst' hi]
  exact ⟨rfl, rfl⟩

theorem command_commits (hf : nfind (s.m.vst' p).slots k = some x) (ho : op = 5) (hu : x.st = .undecided) (hq : x.verifiedSeen = true)
    (hv : x.voting = false) : Completes (.vstCommandBeat p) s fun m =>
      (m.vst' p).committed = n ∧ (k, { x with st := .committed, replayMode := 0, result := 0 }) ∈ (m.vst' p).slots := by
  subst ho
  have hi1 : (cmdDue p (5, n, at_) s.m).Inv := (eff_cmdDue ..).keeps.inv hi
  have hs1 : slotOfStep ((cmdDue p (5, n, at_) s.m).vst' p) n = some (k, x) := by
    rw [cmdDue_vst' hi]
    exact hs
  have hf1 : nfind ((cmdDue p (5, n, at_) s.m).vst' p).slots k = some x := by
    rw [cmdDue_vst' hi]
    exact hf
  refine completes_of_done ((exec_vstCommandBeat hc).trans (congrArg (done s) (cmdEffect_commit hs1 hu hv hq))) ?_
  rw [commitStep_vst' hi1 hf1]
  have hx : committedSlot 0 x = { x with st := .committed, replayMode := 0, result := 0 } := by
    unfold committedSlot
    rw [hv]
  exact ⟨(slotOfStep_mem hs1).2, hx ▸ mem_slotSet (slotOfStep_mem hs1).1 (committedSlot 0)⟩

theorem command_revotes (ho : op = 4) (hu : x.st = .undecided) (hv : x.voting = false)
    (hr : (nfind s.m.vote.running p.val).isSome = true) : Completes (.vstCommandBeat p) s fun m =>
      (k, { x with voting := true }) ∈ (m.vst' p).slots
      ∧ m.vote.queued = nset [] s.m.vote.queued p (nget [] s.m.vote.queued p ++ [(n, if x.verifiedSeen && !x.taint then 1 else 0)]) := by
  subst ho
  have hi1 : (cmdDue p (4, n, at_) s.m).Inv := (eff_cmdDue ..).keeps.inv hi
  have hs1 : slotOfStep ((cmdDue p (4, n, at_) s.m).vst' p) n = some (k, x) := by
    rw [cmdDue_vst' hi]
    exact hs
  have hw : (updSlot p k (fun s => { s with voting := true }) (cmdDue p (4, n, at_) s.m)).vote = s.m.vote :=
    (vote_of_eff (eff_updSlot ..)).trans (vote_of_eff (eff_cmdDue ..))
  have he : cmdEffect p 4 n (cmdDue p (4, n, at_) s.m) = voteStart p x.step (if x.verifiedSeen && !x.taint then 1 else 0)
      (updSlot p k (fun s => { s with voting := true }) (cmdDue p (4, n, at_) s.m)) := cmdEffect_revote hs1 hu hv
  rw [voteStart_queued (by rw [hw]; exact hr), (slotOfStep_mem hs).2] at he
  refine completes_of_done ((exec_vstCommandBeat hc).trans (congrArg (done s) he)) ⟨?_, by rw [hw]⟩
  show _ ∈ ((updSlot p k (fun s => { s with voting := true }) (cmdDue p (4, n, at_) s.m)).vst' p).slots
  rw [updSlot_vst' hi1]
  exact mem_slotSet (slotOfStep_mem hs1).1 fun s => { s with voting := true }

theorem command_older (ho : op ≤ 3) (hl : olderHeld (s.m.vst' p) n) (hd : ∀ y ∈ x.batches, y.digestMode = false) :
    Completes (.vstCommandBeat p) s fun m =>
      m.vst' p = { s.m.vst' p with armedCmd := (s.m.vst' p).armedCmd.erase (op, n, at_), lastCode := 2 }
      ∧ m.clk = (passToBeat at_ s.m).clk := by
  refine command_refused hi hc (cmdEffect_older (k := k) (x := x) ?_ ho hd ?_)
  · rw [cmdDue_vst' hi]
    exact hs
  · rw [cmdDue_vst' hi]
    exact hl

theorem command_replays (h1 : 1 ≤ op) (ho : op ≤ 3) (hl : ¬ olderHeld (s.m.vst' p) n) (hb : partBusy s.m p = false)
    (hd : ∀ y ∈ x.batches, y.digestMode = false) (hu : x.st = .failed) (hv : x.voting = false) (hn : op = 1 ∨ x.norec = false) :
    Completes (.vstCommandBeat p) s fun m =>
      (m.vst' p).replays = (s.m.vst' p).replays + 1 ∧ (m.vst' p).lastCode = (s.m.vst' p).lastCode
      ∧ (∀ j, j < 8 → bit (nget 0 m.gates (p.val * 8 + j)) 15 = true)
      ∧ ∃ y base, bareSlot y = bareSlot x ∧ (k, replayedSlot op base y) ∈ (m.vst' p).slots := by
  have hi1 : (cmdDue p (op, n, at_) s.m).Inv := (eff_cmdDue ..).keeps.inv hi
  have hs1 : slotOfStep ((cmdDue p (op, n, at_) s.m).vst' p) n = some (k, x) := by
    rw [cmdDue_vst' hi]
    exact hs
  have hl1 : ¬ olderHeld ((cmdDue p (op, n, at_) s.m).vst' p) n := by
    rw [cmdDue_vst' hi]
    exact hl
  have hb1 : partBusy (cmdDue p (op, n, at_) s.m) p = false :=
    (partBusy_congr (fun q hq => (eff_cmdDue ..).same q fun hm => absurd hq (by revert q; decide)) p).trans hb
  refine completes_of_done ((exec_vstCommandBeat hc).trans (congrArg (done s) (cmdEffect_replay hs1 h1 ho hd hl1 hb1 hu hv hn))) ?_
  obtain ⟨hr, hcd, hg, hy⟩ := replay_leaves hi1 (slotOfStep_mem hs1).1 op
  rw [cmdDue_vst' hi] at hr hcd
  exact ⟨hr, hcd, hg, hy⟩

end

/-- The slot of a step that is replayed. -/
theorem replayedSlot_fields {y : VSlot} (h : bareSlot y = bareSlot x) (op base : Nat) :
    let z := replayedSlot op base y
    z.st = .open ∧ z.step = x.step ∧ z.taint = false ∧ z.verifiedSeen = false ∧ z.replayed = true ∧ z.replayMode = op ∧ z.seeds = x.seeds
    ∧ (op = 1 → z.captures = []) ∧ (op ≠ 1 → z.captures = x.captures) := by
  have hs : y.step = x.step := (congrArg VSlot.step h :)
  have hd : y.seeds = x.seeds := (congrArg VSlot.seeds h :)
  have hc : y.captures = x.captures := (congrArg VSlot.captures h :)
  unfold replayedSlot
  by_cases h1 : op = 1 <;> simp [h1, hs, hd, hc]

end Sys2Proof.Scope

section
open Sys2Proof Sys2Proof.Machine Sys2Proof.Scope

/-- Settles O37, by the cases of a command at its beat, and by what a replay leaves of its slot and the gates. -/
theorem vestibuleCommandsReplayAndResolve : Obligations.VestibuleCommandsReplayAndResolve := by
  intro s p hi v now passed
  refine ⟨fun op c hc => ?_, fun op n b hc => ?_⟩
  · have he : exec c s = done s (vstArm p op s.m) := by
      simp only [List.mem_cons, Prod.mk.injEq, List.not_mem_nil, or_false] at hc
      obtain ⟨rfl, rfl⟩ | ⟨rfl, rfl⟩ | ⟨rfl, rfl⟩ | ⟨rfl, rfl⟩ | ⟨rfl, rfl⟩ | ⟨rfl, rfl⟩ := hc <;> rfl
    exact vstCommand_armed hi he
  · intro rest refused
    refine ⟨fun h => command_refused hi hc (cmdEffect_unheld (by rw [cmdDue_vst' hi]; exact h)), fun kk x hs hf => ?_⟩
    intro older
    refine ⟨fun _ ho hl hd => command_older hi hc hs ho hl hd, fun ho hu hv => command_aborts hi hc hs ho hu hv,
      fun ho hu hq hv => command_commits hi hc hs hf ho hu hq hv, fun ho hu hv hr => command_revotes hi hc hs ho hu hv hr,
      fun h1 ho hl hb hd hu hv hn => ?_⟩
    refine (command_replays hi hc hs h1 ho hl hb hd hu hv hn).imp fun m ⟨he, hr, hcd, hg, y, base, hy, hm⟩ => ⟨he, hr, hcd, hg, _, hm, ?_⟩
    obtain ⟨f1, f2, f3, f4, f5, f6, f7, f8, f9⟩ := replayedSlot_fields hy op base
    exact ⟨f1, f2.trans (slotOfStep_mem hs).2, f3, f4, f5, f6, f7, f8, f9⟩

end

/-! ### Suspects and slice notices (O42) -/

namespace Sys2Proof.Scope
open Sys2Proof.Machine Sys2Proof.Laws

variable {s : State} {m a b c : Module} {l : List Part}

/-! #### Progress (R557, R559): all that completions and resumed watchdogs leave of the harts and the watchdogs -/

/-- Progress only has been noted between two states, as far as the harts and the watchdogs go. -/
structure Progressed (a b : Module) : Prop where
  inv : a.Inv → b.Inv
  wdg : ∃ l, b.wdg = { a.wdg with partProgress := l }
  harts : a.Inv → ∀ k, ∃ t, b.hart k = { a.hart k with lastProgress := t }

theorem Progressed.refl (m : Module) : Progressed m m := ⟨id, ⟨_, rfl⟩, fun _ _ => ⟨_, rfl⟩⟩

theorem Progressed.trans (h : Progressed a b) (g : Progressed b c) : Progressed a c := by
  obtain ⟨u, hu⟩ := h.wdg
  obtain ⟨v, hv⟩ := g.wdg
  refine ⟨g.inv ∘ h.inv, ⟨v, by rw [hv, hu]⟩, fun hi k => ?_⟩
  obtain ⟨t, ht⟩ := h.harts hi k
  obtain ⟨t', ht'⟩ := g.harts (h.inv hi) k
  exact ⟨t', by rw [ht', ht]⟩

theorem hart_of_eff (h : Eff l a b) (hl : Part.harts ∉ l := by decide) (k : Nat) : b.hart k = a.hart k := by
  rw [Module.hart, show b.harts = a.harts from h.same .harts hl]
  rfl

theorem wdg_of_eff (h : Eff l a b) (hl : Part.wdg ∉ l := by decide) : b.wdg = a.wdg := h.same .wdg hl

theorem Progressed.of_eff (h : Eff l a b) (hh : Part.harts ∉ l := by decide) (hw : Part.wdg ∉ l := by decide) : Progressed a b :=
  ⟨h.keeps.inv, ⟨_, wdg_of_eff h hw⟩, fun _ k => ⟨_, hart_of_eff h hh k⟩⟩

theorem Progressed.foldl {α : Type} {g : Module → α → Module} (hg : ∀ m x, Progressed m (g m x)) (r : List α) (m : Module) :
    Progressed m (r.foldl g m) :=
  List.foldlRecOn r g (motive := fun x => Progressed m x) (.refl m) fun _ h x _ => h.trans (hg _ x)

theorem progressed_setHart (k t : Nat) (m : Module) : Progressed m (m.setHart k { m.hart k with lastProgress := t }) := by
  refine ⟨(eff_setHart ..).keeps.inv, ⟨_, rfl⟩, fun hi j => ?_⟩
  obtain rfl | hj := eq_or_ne j k
  · exact ⟨t, setHart_get _ _ _ (rising_harts hi)⟩
  · exact ⟨_, setHart_get_ne _ _ _ _ hj⟩

theorem progressed_noted (l : NMap Nat) (m : Module) : Progressed m { m with wdg := { m.wdg with partProgress := l } } :=
  ⟨(Eff.upd (l := [.wdg]) (.refl m) rfl rfl rfl rfl rfl rfl rfl rfl rfl rfl rfl).keeps.inv, ⟨l, rfl⟩, fun _ _ => ⟨_, rfl⟩⟩

theorem progressed_progress (part ctx : Nat) (m : Module) : Progressed m (progress part ctx m) := by
  unfold progress
  extract_lets m1
  have h : Progressed m m1 := by
    dsimp only [m1]
    split
    · exact progressed_setHart ..
    · exact .refl m
  exact h.trans (progressed_noted ..)

theorem progressed_complete (cls idx : Nat) (d : Desc) (err : Bool) (m : Module) : Progressed m (complete cls idx d err m) := by
  unfold complete
  extract_lets k g m1 m2
  have h1 : Progressed m m1 :=
    ⟨(Eff.upd (l := [.counts, .outstanding, .dbg]) (.refl m) rfl rfl rfl rfl rfl rfl rfl rfl rfl rfl rfl).keeps.inv, ⟨_, rfl⟩,
      fun _ _ => ⟨_, rfl⟩⟩
  exact h1.trans ((progressed_progress ..).trans (.of_eff (eff_traceEv ..)))

theorem progressed_removeDescs (sel : QKey → Desc → Bool) (m : Module) : Progressed m (removeDescs sel m) := by
  refine (Progressed.of_eff (eff_dropDescs sel m)).trans (.foldl (fun m x => ?_) ..)
  refine Progressed.trans ?_ (progressed_complete ..)
  split
  · exact .of_eff (eff_setFlt ..)
  · exact .refl m

theorem progressed_resumeWatchdogs (m : Module) : Progressed m (resumeWatchdogs m) := by
  refine .foldl (fun m p => ?_) ..
  refine Progressed.trans (.foldl (fun m c => ?_) ..) (progressed_noted ..)
  split
  · exact progressed_setHart ..
  · exact .refl m

/-! #### The end of a slot (R573, R577) -/

theorem openSuspect_of_slot {w : Wdg} {i : Nat} {x : Suspect} (ho : w.slotOpen = some i) (hx : w.suspects[i]? = some x) :
    openSuspect w = some x := by
  unfold openSuspect
  rw [ho]
  exact hx

/-- The watchdogs after the open slot has ended with a verdict. -/
def slotEnded (i v : Nat) (x : Suspect) (m : Module) : Wdg :=
  { m.wdg with suspects := m.wdg.suspects.set i { x with verdict := v }, slotOpen := none, gapFrom := some (beatNow m) }

theorem endSlot_of {i : Nat} {x : Suspect} (hx : m.wdg.suspects[i]? = some x) (v : Nat) :
    endSlot i v m = { m with wdg := slotEnded i v x m } := by
  unfold endSlot
  simp only [hx]
  rfl

/-- What the check for the end of a phase leaves. -/
structure PhaseChecked (a b : Module) : Prop where
  suspects : b.wdg.suspects = a.wdg.suspects
  slotOpen : a.wdg.slotOpen = none → b.wdg.slotOpen = none
  phase : a.wdg.phase = true → (b.wdg.phase = true ↔ ∃ y ∈ b.wdg.suspects, y.verdict < 2)
  harts : ∀ k, (b.hart k).run = (a.hart k).run ∧ (b.hart k).on = (a.hart k).on

/-- A phase ends. -/
def phaseEnds (m : Module) : Module :=
  { resumeWatchdogs m with wdg := { (resumeWatchdogs m).wdg with phase := false, gapFrom := none, slotOpen := none } }

theorem phaseCheck_checks (hi : m.Inv) : PhaseChecked m (phaseCheck m) := by
  by_cases hc : (m.wdg.phase && m.wdg.suspects.all (fun s => s.verdict ≥ 2)) = true
  · have hp := progressed_resumeWatchdogs m
    obtain ⟨t, ht⟩ := hp.wdg
    have he : ∃ k : Module, phaseCheck m = k ∧ Eff evParts (phaseEnds m) k := by
      refine ⟨_, rfl, ?_⟩
      unfold phaseCheck
      extract_lets w m1 _ m2
      have h2 : m2 = phaseEnds m := rfl
      clear_value m2
      subst h2
      rw [if_pos hc]
      split
      · split
        · exact ((eff_ev ..).mono rfl).trans ((eff_scoreEngine ..).mono rfl)
        · exact .refl _
      · exact .refl _
    obtain ⟨k, hk, he⟩ := he
    rw [hk]
    have hw : k.wdg = (phaseEnds m).wdg := wdg_of_eff he
    have hs : k.wdg.suspects = m.wdg.suspects := by
      rw [hw]
      exact (congrArg Wdg.suspects ht :)
    refine ⟨hs, fun _ => by rw [hw]; rfl, fun _ => ?_, fun j => ?_⟩
    · have hall : ∀ y ∈ m.wdg.suspects, 2 ≤ y.verdict := by simpa using ((Bool.and_eq_true _ _).mp hc).2
      have hf : k.wdg.phase = false := by
        rw [hw]
        rfl
      rw [hf, hs]
      refine ⟨nofun, fun ⟨y, hy, hv⟩ => absurd (hall y hy) (by omega)⟩
    · obtain ⟨t, hj⟩ := hp.harts hi j
      have hk : k.hart j = { m.hart j with lastProgress := t } := (hart_of_eff he (by decide) j).trans hj
      rw [hk]
      exact ⟨rfl, rfl⟩
  · have he : phaseCheck m = m := if_neg hc
    rw [he]
    refine ⟨rfl, id, fun hp => ?_, fun _ => ⟨rfl, rfl⟩⟩
    rw [hp] at hc ⊢
    simpa using hc

theorem suspectClear_ends {i : Nat} {x : Suspect} (hi : s.m.Inv) (ho : s.m.wdg.slotOpen = some i) (hx : s.m.wdg.suspects[i]? = some x)
    (he : x.exit = true) (hn : nget 0 s.m.outstanding (8 * x.part + x.ctx) = 0) : Completes .suspectClear s fun m =>
      (m.wdg.slotOpen = none ∧ m.wdg.suspects = s.m.wdg.suspects.set i { x with verdict := 2 }) ∧ m.clk = s.m.clk
      ∧ (s.m.wdg.phase = true → (m.wdg.phase = true ↔ ∃ y ∈ m.wdg.suspects, y.verdict < 2)) := by
  have hx' : exec .suspectClear s = done s (phaseCheck (ev 0x18 3 x.unit 1 x.part x.ctx (BitVec.ofNat 64 i) (endSlot i 2 s.m))) := by
    show execSuspectClear s = _
    unfold execSuspectClear
    simp only [ho, openSuspect_of_slot ho hx]
    exact if_pos (by simp [he, hn])
  have h1 : Eff [.wdg] s.m (endSlot i 2 s.m) := eff_endSlot ..
  have h2 : Eff _ (endSlot i 2 s.m) _ := eff_ev 0x18 3 x.unit 1 x.part x.ctx (BitVec.ofNat 64 i) _
  have hw : (ev 0x18 3 x.unit 1 x.part x.ctx (BitVec.ofNat 64 i) (endSlot i 2 s.m)).wdg = slotEnded i 2 x s.m :=
    (wdg_of_eff h2).trans (by rw [endSlot_of hx])
  obtain ⟨c1, c2, c3, -⟩ := phaseCheck_checks (h2.keeps.inv (h1.keeps.inv hi))
  rw [hw] at c1 c2 c3
  exact completes_of_done hx' ⟨⟨c2 rfl, c1⟩, (clk_of_eff (eff_phaseCheck ..)).trans ((clk_of_eff h2).trans (clk_of_eff h1)), c3⟩

/-- A context that is held: its hart stops, and its descriptors leave their queues (R563, R570). -/
theorem ctxReset_held (p q : Nat) (m : Module) : ∃ m1 sel, ctxReset p q true m = removeDescs sel m1 ∧ Eff [.harts] m m1
    ∧ (m.Inv → ∀ hk, ctxHart m p q = some hk → m1.hart hk = haltHart (m.hart hk)) := by
  unfold ctxReset
  extract_lets m1 mine m2
  refine ⟨m1, _, rfl, ?_, fun hi hk h => ?_⟩
  · dsimp only [m1]
    split
    · exact eff_setHart ..
    · exact .refl m
  · dsimp only [m1]
    rw [h]
    exact setHart_get _ _ _ (rising_harts hi)

/-- What a GUILTY verdict leaves of the watchdogs, the gates, the clocks and the suspect's hart. -/
structure Condemned (i : Nat) (x : Suspect) (a b : Module) : Prop where
  inv : b.Inv
  suspects : b.wdg.suspects = a.wdg.suspects.set i { x with verdict := 3 }
  slotOpen : b.wdg.slotOpen = none
  gates : b.gates = a.gates
  hart : ∀ hk, ctxHart a x.part x.ctx = some hk → (b.hart hk).run = false ∧ (b.hart hk).on = false

theorem guilty_condemns {i : Nat} {x : Suspect} (hi : m.Inv) (ho : m.wdg.slotOpen = some i) (hx : m.wdg.suspects[i]? = some x)
    (byMax : Bool) : Condemned i x m (guilty byMax m) := by
  obtain ⟨m1, sel, hr, h1, hh⟩ := ctxReset_held x.part x.ctx (endSlot i 3 m)
  have h0 : Eff [.wdg] m (endSlot i 3 m) := eff_endSlot ..
  have hi0 : (endSlot i 3 m).Inv := h0.keeps.inv hi
  have hi1 : m1.Inv := h1.keeps.inv hi0
  have hp := progressed_removeDescs sel m1
  have he : ∃ k : Module, guilty byMax m = k ∧ Eff evParts (removeDescs sel m1) k := by
    refine ⟨_, rfl, ?_⟩
    unfold guilty
    simp only [ho, hx, hr]
    exact ((eff_ev ..).mono rfl).trans ((eff_scoreEngine ..).mono rfl)
  obtain ⟨k, hk, he⟩ := he
  obtain ⟨t, ht⟩ := hp.wdg
  have hw : k.wdg = { slotEnded i 3 x m with partProgress := t } := by
    rw [wdg_of_eff he, ht, wdg_of_eff h1, endSlot_of hx]
  have hg : k.gates = m.gates :=
    (he.same .gates (by decide)).trans (((eff_removeDescs ..).same .gates (by decide)).trans
      ((h1.same .gates (by decide)).trans (h0.same .gates (by decide))))
  rw [hk]
  refine ⟨he.keeps.inv (hp.inv hi1), by rw [hw]; rfl, by rw [hw]; rfl, hg, fun j hj => ?_⟩
  have hc : ctxHart (endSlot i 3 m) x.part x.ctx = some j := by
    rw [endSlot_of hx]
    exact hj
  obtain ⟨u, hu⟩ := hp.harts hi1 j
  have hkj : k.hart j = { haltHart ((endSlot i 3 m).hart j) with lastProgress := u } := by
    rw [hart_of_eff he, hu, hh hi0 j hc]
  rw [hkj]
  exact ⟨rfl, rfl⟩

theorem ctxHart_congr (h : b.img = a.img) (p q : Nat) : ctxHart b p q = ctxHart a p q := by
  unfold ctxHart prec
  rw [h]
  simp only [owner_congr h]

theorem slotMaxExpiry_ends {i : Nat} {x : Suspect} (hi : s.m.Inv) (ho : s.m.wdg.slotOpen = some i)
    (hx : s.m.wdg.suspects[i]? = some x) : Completes .slotMaxExpiry s fun m =>
      (m.wdg.slotOpen = none ∧ m.wdg.suspects = s.m.wdg.suspects.set i { x with verdict := 3 })
      ∧ m.clk = (passTo (s.m.wdg.slotAt + slotMax s.m.wdg * 1024) s.m).clk ∧ m.gates = s.m.gates
      ∧ ∀ hk, ctxHart s.m x.part x.ctx = some hk → (m.hart hk).run = false ∧ (m.hart hk).on = false := by
  have h0 := eff_passTo (s.m.wdg.slotAt + slotMax s.m.wdg * 1024) s.m
  have he : exec .slotMaxExpiry s = done s (phaseCheck (guilty true (passTo (s.m.wdg.slotAt + slotMax s.m.wdg * 1024) s.m))) := by
    show execSlotMaxExpiry s = _
    unfold execSlotMaxExpiry
    rw [ho]
  generalize passTo (s.m.wdg.slotAt + slotMax s.m.wdg * 1024) s.m = m0 at h0 he ⊢
  have hw : m0.wdg = s.m.wdg := wdg_of_eff h0
  obtain ⟨g1, g2, g3, g4, g5⟩ := guilty_condemns (h0.keeps.inv hi) (by rw [hw]; exact ho) (by rw [hw]; exact hx) true
  obtain ⟨c1, c2, -, c4⟩ := phaseCheck_checks g1
  refine completes_of_done he ⟨⟨c2 g3, by rw [c1, g2, hw]⟩, (clk_of_eff (eff_phaseCheck ..)).trans (clk_of_eff (eff_guilty ..)), ?_,
    fun hk hc => ?_⟩
  · exact ((eff_phaseCheck ..).same .gates (by decide)).trans (g4.trans (h0.same .gates (by decide)))
  · obtain ⟨h1, h2⟩ := c4 hk
    obtain ⟨h3, h4⟩ := g5 hk (by rw [ctxHart_congr (h0.same .img (by decide))]; exact hc)
    exact ⟨h1.trans h3, h2.trans h4⟩

/-! #### The opening of a slot (R572) -/

/-- The watchdogs after a suspect's slot has opened. -/
def slotOpened (i : Nat) (x : Suspect) (m : Module) : Wdg :=
  { m.wdg with
    suspects := m.wdg.suspects.set i { x with verdict := 1, exit := false }, slotOpen := some i, slotAt := m.clk.elapsed, gapFrom := none }

/-- The hart of a suspect as its slot opens. -/
def slotHart (x : Suspect) (m : Module) (h : Hart) : Hart :=
  { haltHart h with
    run := true, on := true, pc := nget 0 m.wdg.entries (8 * x.part + x.ctx), xs := slotRegs m x.part, resv := none
    lastProgress := m.clk.elapsed }

theorem openSlot_opens {hk : Nat} {x : Suspect} (h : ctxHart m x.part x.ctx = some hk) (i : Nat) :
    openSlot i x m = { m with wdg := slotOpened i x m }.setHart hk (slotHart x m (m.hart hk)) := by
  have h' : ctxHart { m with wdg := slotOpened i x m } x.part x.ctx = some hk := h
  unfold openSlot
  simp only [show ({ m with wdg := { m.wdg with
    suspects := setAt m.wdg.suspects i { x with verdict := 1, exit := false }, slotOpen := some i, slotAt := m.clk.elapsed, gapFrom := none } }
      : Module) = { m with wdg := slotOpened i x m } from rfl, h']
  rfl

theorem slotHart_regs (x : Suspect) (m : Module) (h : Hart) :
    (∀ r, r ≠ 10 → r ≠ 11 → rvGet (slotHart x m h) r = 0) ∧ rvGet (slotHart x m h) 11 = 1
    ∧ rvGet (slotHart x m h) 10 = if stepOf m x.part = noStep then 0xFFFFFFFFFFFFFFFF else (stepOf m x.part).setWidth 64 := by
  have hr (v : W64) : rising (nset (0 : W64) [] 10 v) = true := rising_nset rfl
  refine ⟨fun r h0 h1 => ?_, ?_, ?_⟩
  · unfold rvGet
    split
    · rfl
    · exact (nget_nset_of_ne h1).trans (nget_nset_of_ne h0)
  · exact nget_nset_self (hr _)
  · exact (nget_nset_of_ne (by decide)).trans (nget_nset_self rfl)

theorem stepOf_congr (h : b.vst = a.vst) (p : Nat) : stepOf b p = stepOf a p := by
  unfold stepOf
  rw [vst'_of_vst h]

theorem slotOpen_opens {at_ : Beat} {i hk : Nat} {x : Suspect} (hi : s.m.Inv) (hg : s.m.wdg.gapFrom = some at_)
    (hx : nextSuspect s.m.wdg = some (i, x)) (hp : s.m.wdg.phase = true) (ho : s.m.wdg.slotOpen = none)
    (hc : ctxHart s.m x.part x.ctx = some hk) {m0 : Module} (h0 : m0 = passToBeat (at_ + s.m.wdg.slotGap.setWidth 48) s.m) :
    Completes .slotOpen s fun m => m.wdg = slotOpened i x m0 ∧ m.clk = m0.clk ∧ m.hart hk = slotHart x m0 (m0.hart hk) := by
  have he0 : Eff [.clk, .beat, .mem, .cor, .dbg, .out] s.m m0 := h0 ▸ eff_passToBeat ..
  have hi0 : m0.Inv := he0.keeps.inv hi
  have he : exec .slotOpen s = done s (openSlot i x m0) := by
    show execSlotOpen s = _
    unfold execSlotOpen
    simp only [hg, hx, h0]
    exact if_pos (by simp [hp, ho])
  have hc0 : ctxHart m0 x.part x.ctx = some hk := (ctxHart_congr (he0.same .img (by decide)) ..).trans hc
  refine completes_of_done (he.trans (congrArg (done s) (openSlot_opens hc0 i))) ⟨rfl, rfl, ?_⟩
  exact setHart_get _ _ _ (rising_harts hi0)

/-! #### A notice is sent (R580) -/

theorem noticeSend_waits (h : noticeWaits m = true) (kind : Nat) :
    noticeSend kind m = { m with wdg := { m.wdg with badCmd := true, badCmdAt := instant m } } := if_pos (by simp [h])

/-- The notice that a module sends. -/
def noticePkt (kind : Nat) (w : Wdg) : Pkt :=
  { hdr := { hdrZero with
      ty := 0x20, aux := pack [(kind, 60), (fld w.noticeArg 0 48, 0)], dstChip := BitVec.ofNat 16 (fld w.noticeDst 0 13)
      slice := BitVec.ofNat 12 (fld w.noticeDst 48 12), epoch := BitVec.ofNat 8 (fld w.noticeDst 40 8)
      dstPart := BitVec.ofNat 5 (fld w.noticeDst 32 5) }
    payload := [] }

theorem noticeSend_sends {kind : Nat} (h : noticeWaits m = false) (h1 : 1 ≤ kind) (h3 : kind ≤ 3) :
    noticeSend kind m = inject 2 (noticePkt kind m.wdg) m := by
  unfold noticeSend
  rw [if_neg (by simp [h]; omega)]
  rfl

/-- A packet that its route leads back to its module waits for local delivery. -/
theorem inject_local {w : Nat} {k : Pkt} {e : REnt} (hv : m.rte.chipValid = true) (hp : k.hdr.tc = 0)
    (hr : routeOf m.rte.active k.hdr.slice.toNat k.hdr.dstChip.toNat = some e) (ho : e.out = 16) :
    inject w k m = { m with rte := { m.rte with local_ := m.rte.local_ ++
      [{ hdr := { k.hdr with srcChip := m.rte.chip.setWidth 16, len := BitVec.ofNat 13 k.payload.length }, payload := k.payload, via := w }] } } := by
  unfold inject
  simp [hv, protectedPkt, hp, hr, ho]

theorem fld_lt {n : Nat} (x : BitVec n) (lo w : Nat) : fld x lo w < 2 ^ w := Nat.mod_lt _ (by positivity)

theorem pack_notice {kind x : Nat} (hk : kind < 16) (hx : x < 2 ^ 48) : (pack [(kind, 60), (x, 0)]).toNat = kind * 2 ^ 60 + x := by
  have h1 : (kind <<< 60) % 2 ^ 64 = kind <<< 60 := Nat.mod_eq_of_lt (by rw [Nat.shiftLeft_eq]; omega)
  have h2 : x % 2 ^ 64 = x := Nat.mod_eq_of_lt (by omega)
  have h0 : BitVec.toNat (0 : W64) = 0 := rfl
  have h3 := Nat.shiftLeft_add_eq_or_of_lt (show x < 2 ^ 60 by omega) kind
  simp only [pack, BitVec.toNat_or, BitVec.toNat_ofNat, Nat.shiftLeft_zero, h1, h2, h0, Nat.or_zero]
  rw [← h3, Nat.shiftLeft_eq]

theorem notice_sent {c : Instr} {kind : Nat} {e : REnt} (hx : exec c s = done s (noticeSend kind s.m)) (h1 : 1 ≤ kind) (h3 : kind ≤ 3)
    (hw : noticeWaits s.m = false) (hv : s.m.rte.chipValid = true)
    (hr : routeOf s.m.rte.active (fld s.m.wdg.noticeDst 48 12) (fld s.m.wdg.noticeDst 0 13) = some e) (ho : e.out = 16) :
    Completes c s fun m => m.wdg = s.m.wdg ∧ ∃ k : Pkt, m.rte.local_ = s.m.rte.local_ ++ [k] ∧ k.hdr.ty = 0x20 ∧ k.hdr.tc = 0 ∧ k.payload = []
      ∧ fld k.hdr.aux 60 4 = kind ∧ fld k.hdr.aux 0 48 = fld s.m.wdg.noticeArg 0 48
      ∧ k.hdr.slice.toNat = fld s.m.wdg.noticeDst 48 12 ∧ k.hdr.epoch.toNat = fld s.m.wdg.noticeDst 40 8
      ∧ k.hdr.dstPart.toNat = fld s.m.wdg.noticeDst 32 5 ∧ k.hdr.dstChip.toNat = fld s.m.wdg.noticeDst 0 13 := by
  have hn (w n lo : Nat) (hwn : w ≤ n) : (BitVec.ofNat n (fld s.m.wdg.noticeDst lo w)).toNat = fld s.m.wdg.noticeDst lo w :=
    BitVec.toNat_ofNat .. ▸ Nat.mod_eq_of_lt ((fld_lt ..).trans_le (Nat.pow_le_pow_right (by decide) hwn))
  have hp := pack_notice (kind := kind) (by omega) (fld_lt s.m.wdg.noticeArg 0 48)
  have hl : inject 2 (noticePkt kind s.m.wdg) s.m = _ := inject_local hv rfl
    (by rw [show (noticePkt kind s.m.wdg).hdr.slice.toNat = _ from hn 12 12 48 le_rfl,
          show (noticePkt kind s.m.wdg).hdr.dstChip.toNat = _ from hn 13 16 0 (by decide)]; exact hr) ho
  refine completes_of_done (hx.trans (congrArg (done s) ((noticeSend_sends hw h1 h3).trans hl)))
    ⟨rfl, _, rfl, rfl, rfl, rfl, ?_, ?_, hn 12 12 48 le_rfl, hn 8 8 40 le_rfl, hn 5 5 32 le_rfl, hn 13 16 0 (by decide)⟩
  · show nfld (pack [(kind, 60), (fld s.m.wdg.noticeArg 0 48, 0)]).toNat 60 4 = kind
    have := fld_lt s.m.wdg.noticeArg 0 48
    rw [hp, nfld, Nat.shiftRight_eq_div_pow]
    omega
  · show nfld (pack [(kind, 60), (fld s.m.wdg.noticeArg 0 48, 0)]).toNat 0 48 = _
    have := fld_lt s.m.wdg.noticeArg 0 48
    rw [hp, nfld, Nat.shiftRight_zero]
    omega

/-! #### The phase timers of a partition (R582) -/

/-- An Arcade's phase timer is lengthened where it runs an operation of a partition. -/
def extendOp (p beats : Nat) (m : Module) (a : Nat) : Module :=
  match (m.arc' a).op with
  | some o =>
    if o.desc.part = p then
      ev 0x14 3 a 1 p o.desc.ctx (BitVec.ofNat 64 beats) (m.setArc a { m.arc' a with op := some { o with limit := o.limit + beats } })
    else m
  | none => m

/-- The vote's phase timer is lengthened where a vote of the partition runs. -/
def extendVote (p beats : Nat) (m : Module) : Module :=
  match nfind m.vote.running p with
  | some o =>
    ev 0x14 3 0 1 p 0 (BitVec.ofNat 64 beats)
      { m with vote := { m.vote with running := nput m.vote.running p { o with limit := o.limit + beats } } }
  | none => m

theorem arcExtend_eq (p beats : Nat) (m : Module) : arcExtend p beats m = extendVote p beats (extendOp p beats (extendOp p beats m 0) 1) := rfl

variable {p beats j : Nat} {o : ArcOp}

theorem eff_extendOp (p beats a : Nat) (m : Module) : Eff (.arc :: evParts) m (extendOp p beats m a) := by
  unfold extendOp
  split
  · split
    · exact ((eff_setArc ..).mono rfl).trans ((eff_ev ..).mono rfl)
    · exact .refl m
  · exact .refl m

theorem extendOp_extends (hi : m.Inv) (ho : (m.arc' j).op = some o) (hp : o.desc.part = p) :
    ((extendOp p beats m j).arc' j).op = some { o with limit := o.limit + beats } := by
  unfold extendOp
  simp only [ho, hp, if_true]
  rw [arc'_of_eff (eff_ev ..), setArc_arc' hi]

theorem extendOp_ne {i : Nat} (h : i ≠ j) (m : Module) : (extendOp p beats m j).arc' i = m.arc' i := by
  unfold extendOp
  split
  · split
    · exact (arc'_of_eff (eff_ev ..)).trans (setArc_get_ne _ _ _ _ h)
    · rfl
  · rfl

theorem extendVote_arc' (i : Nat) (m : Module) : (extendVote p beats m).arc' i = m.arc' i := by
  unfold extendVote
  split
  · exact (arc'_of_eff (eff_ev ..)).trans rfl
  · rfl

theorem arcExtend_op (hi : m.Inv) {i : Fin 2} (ho : (m.arc' i).op = some o) (hp : o.desc.part = p) :
    ((arcExtend p beats m).arc' i).op = some { o with limit := o.limit + beats } := by
  have h1 : (extendOp p beats m 0).Inv := (eff_extendOp ..).keeps.inv hi
  rw [arcExtend_eq, extendVote_arc']
  obtain rfl | rfl : i = 0 ∨ i = 1 := by omega
  · change (m.arc' 0).op = some o at ho
    change ((extendOp p beats (extendOp p beats m 0) 1).arc' 0).op = _
    rw [extendOp_ne (by decide), extendOp_extends hi ho hp]
  · change (m.arc' 1).op = some o at ho
    change ((extendOp p beats (extendOp p beats m 0) 1).arc' 1).op = _
    exact extendOp_extends h1 (by rw [extendOp_ne (by decide)]; exact ho) hp

theorem arcExtend_vote {v : VoteOp} (hv : nfind m.vote.running p = some v) :
    (arcExtend p beats m).vote.running = nput m.vote.running p { v with limit := v.limit + beats } := by
  have h : (extendOp p beats (extendOp p beats m 0) 1).vote = m.vote := (vote_of_eff (eff_extendOp ..)).trans (vote_of_eff (eff_extendOp ..))
  rw [arcExtend_eq]
  unfold extendVote
  simp only [h, hv]
  exact congrArg VoteUnit.running (vote_of_eff (eff_ev ..))

/-! #### The end of a partition's operations (R582) -/

/-- An operation that stops ends, completes with error, and leaves the other Arcade and its counts. -/
theorem arcStop_ends (hi : m.Inv) (code : Nat) (ho : (m.arc' j).op = some o) :
    ((arcStop j code m).arc' j).op = none ∧ count (arcStop j code m) o.desc.part o.desc.ctx 7 j = count m o.desc.part o.desc.ctx 7 j + 1
    ∧ ∀ i, i ≠ j → (arcStop j code m).arc' i = m.arc' i ∧ ∀ q c, count (arcStop j code m) q c 7 i = count m q c 7 i := by
  unfold arcStop
  simp -zeta only [ho]
  extract_lets d ph m1 m2 x m3
  have h1 : Eff [.mem, .flt, .vst, .hlt, .cor, .pci, .tray, .dbg, .out] m m1 := Eff.fold (.refl m) fun _ _ => eff_undefRange ..
  have h2 : Eff [.arc] m1 m2 := eff_arcEnded ..
  have h3 : Eff [.arc] m2 m3 := eff_setArc ..
  have h4 := eff_ev 0x14 code j 4 d.part d.ctx (arcErrWord (arOpId d).toNat ph 0) m3
  have h5 := eff_complete 7 j d true (ev 0x14 code j 4 d.part d.ctx (arcErrWord (arOpId d).toNat ph 0) m3)
  have hi1 : m1.Inv := h1.keeps.inv hi
  have hx : x = _ := arcEnded_arc' hi1 d.part (arOpId d).toNat
  have hm3 : m3.arc' j = _ := setArc_arc' (h2.keeps.inv hi1) _
  refine ⟨?_, ?_, fun i hj => ⟨?_, fun q c => ?_⟩⟩
  · rw [arc'_of_eff h5, arc'_of_eff h4, hm3, hx]
  · rw [count_complete, count_of_eff h4, count_of_eff h3, count_of_eff h2, count_of_eff h1]
  · have h : m3.arc' i = m2.arc' i := setArc_get_ne _ _ _ _ hj
    have h' : m2.arc' i = m1.arc' i := setArc_get_ne _ _ _ _ hj
    rw [arc'_of_eff h5, arc'_of_eff h4, h, h', arc'_of_eff h1]
  · rw [count, complete_counts, alGet_alSet_ne (by simp [countKey, hj]), ← count, count_of_eff h4, count_of_eff h3, count_of_eff h2,
      count_of_eff h1]

/-- An Arcade's operation stops where it is a partition's. -/
def abortOp (p : Nat) (m : Module) (a : Nat) : Module :=
  match (m.arc' a).op with
  | some o => if o.desc.part = p then arcStop a 1 m else m
  | none => m

theorem arcAbort_eq (p : Nat) (m : Module) : arcAbort p m = voteFail p (abortOp p (abortOp p m 0) 1) := rfl

theorem abortOp_inv (hi : m.Inv) (p a : Nat) : (abortOp p m a).Inv := by
  unfold abortOp
  split
  · split
    · exact (eff_arcStop ..).keeps.inv hi
    · exact hi
  · exact hi

theorem abortOp_ne (hi : m.Inv) {i : Nat} (h : i ≠ j) (p : Nat) :
    (abortOp p m j).arc' i = m.arc' i ∧ ∀ q c, count (abortOp p m j) q c 7 i = count m q c 7 i := by
  unfold abortOp
  split
  next o ho =>
    split
    · exact (arcStop_ends hi 1 ho).2.2 i h
    · exact ⟨rfl, fun _ _ => rfl⟩
  next => exact ⟨rfl, fun _ _ => rfl⟩

theorem abortOp_ends (hi : m.Inv) (ho : (m.arc' j).op = some o) :
    (o.desc.part = p → ((abortOp p m j).arc' j).op = none ∧ count (abortOp p m j) p o.desc.ctx 7 j = count m p o.desc.ctx 7 j + 1)
    ∧ (o.desc.part ≠ p → ((abortOp p m j).arc' j).op = some o) := by
  unfold abortOp
  simp only [ho]
  refine ⟨fun hp => ?_, fun hp => ?_⟩
  · obtain ⟨h1, h2, -⟩ := arcStop_ends hi 1 ho
    subst hp
    rw [if_pos rfl]
    exact ⟨h1, h2⟩
  · rw [if_neg hp]
    exact ho

theorem arcAbort_ends (hi : m.Inv) {i : Fin 2} (ho : (m.arc' i).op = some o) :
    (o.desc.part = p → ((arcAbort p m).arc' i).op = none ∧ count (arcAbort p m) p o.desc.ctx 7 i = count m p o.desc.ctx 7 i + 1)
    ∧ (o.desc.part ≠ p → ((arcAbort p m).arc' i).op = some o) := by
  have hi1 := abortOp_inv hi p 0
  rw [arcAbort_eq, arc'_of_eff (eff_voteFail ..), count_of_eff (eff_voteFail ..)]
  obtain rfl | rfl : i = 0 ∨ i = 1 := by omega
  · obtain ⟨h1, h2⟩ := abortOp_ne hi1 (i := 0) (j := 1) (by decide) p
    have h := abortOp_ends (p := p) (j := 0) hi ho
    refine ⟨fun hp => ⟨(congrArg Arc.op h1).trans (h.1 hp).1, (h2 ..).trans (h.1 hp).2⟩, fun hp => (congrArg Arc.op h1).trans (h.2 hp)⟩
  · obtain ⟨h1, h2⟩ := abortOp_ne hi (i := 1) (j := 0) (by decide) p
    have h := abortOp_ends (p := p) (j := 1) hi1 ((congrArg Arc.op h1).trans ho)
    exact ⟨fun hp => ⟨(h.1 hp).1, (h.1 hp).2.trans (congrArg (· + 1) (h2 ..))⟩, h.2⟩

/-! #### A notice is received (R581, R582) -/

section
variable {k : Pkt}

theorem exec_notice (h : firstOf 0x20 s.m = some k) : exec .notice s = done s (doNotice k (taken k s.m)) := by
  show execNotice s = _
  unfold execNotice
  rw [takeTy_of_first h]

/-- A notice that its module refuses is counted. -/
def noticeCounted (m : Module) : Module := { m with wdg := { m.wdg with noticeRej := satAdd m.wdg.noticeRej 1 } }

theorem doNotice_unnamed (h : noticeFrom m.wdg k.hdr.srcChip.toNat = false) :
    doNotice k m = ev 0x18 0x0D 0xFFFF 2 31 0 (k.hdr.srcChip.setWidth 64) (noticeCounted m) := if_pos (by simp [h])

theorem notice_unnamed (hf : firstOf 0x20 s.m = some k) (h : noticeFrom s.m.wdg k.hdr.srcChip.toNat = false) :
    Completes .notice s fun m => m.wdg = { s.m.wdg with noticeRej := satAdd s.m.wdg.noticeRej 1 } ∧ m.arc = s.m.arc ∧ m.vote = s.m.vote
      ∧ m.rte.accepted = s.m.rte.accepted.erase k := by
  have he := eff_ev 0x18 0x0D 0xFFFF 2 31 0 (k.hdr.srcChip.setWidth 64) (noticeCounted (taken k s.m))
  have hd : doNotice k (taken k s.m) = _ := doNotice_unnamed h
  refine completes_of_done ((exec_notice hf).trans (congrArg (done s) hd)) ?_
  generalize ev 0x18 0x0D 0xFFFF 2 31 0 (k.hdr.srcChip.setWidth 64) (noticeCounted (taken k s.m)) = x at he ⊢
  exact ⟨he.same .wdg (by decide), he.same .arc (by decide), he.same .vote (by decide), congrArg Rte.accepted (he.same .rte (by decide))⟩

/-- A notice that its module takes is recorded. -/
def noticeTaken (k : Pkt) (m : Module) : Module :=
  ev 0x18 0x0C 0xFFFF 1 k.hdr.dstPart.toNat 0 (pack [(fld k.hdr.aux 60 4, 60), (fld k.hdr.aux 0 48, 0)]) m

theorem doNotice_named (hn : noticeFrom m.wdg k.hdr.srcChip.toNat = true) (hs : k.hdr.slice ≠ 0xFFF) (hp : k.hdr.dstPart.toNat < 16)
    (hz : fld k.hdr.aux 48 12 = 0) (hl : k.payload = []) (h1 : 1 ≤ fld k.hdr.aux 60 4) (h3 : fld k.hdr.aux 60 4 ≤ 3) :
    doNotice k m = if fld k.hdr.aux 60 4 = 1 then arcExtend k.hdr.dstPart.toNat (fld k.hdr.aux 0 32) (noticeTaken k m)
      else if fld k.hdr.aux 60 4 = 2 then arcAbort k.hdr.dstPart.toNat (noticeTaken k m) else noticeTaken k m := by
  have c1 : (!noticeFrom m.wdg k.hdr.srcChip.toNat || decide (fld k.hdr.aux 60 4 = 0) || decide (fld k.hdr.aux 60 4 > 3)
      || decide (fld k.hdr.aux 48 12 ≠ 0) || decide (k.payload.length ≠ 0)) = false := by
    simp [hn, hz, hl]
    omega
  have c2 : (decide (k.hdr.slice = 0xFFF) || decide (k.hdr.dstPart.toNat ≥ 16)) = false := by
    rw [decide_eq_false hs, decide_eq_false (by omega), Bool.or_false]
  unfold doNotice
  simp only [c1, c2, hp, if_true, Bool.false_eq_true, if_false]
  rfl

end

end Sys2Proof.Scope

section
open Sys2Proof Sys2Proof.Machine Sys2Proof.Scope

/-- Settles O42, by how a slot opens and ends, by the packet that a notice leaves as, and by what a notice that is taken does. -/
theorem suspectSlotsAndSliceNotices : Obligations.SuspectSlotsAndSliceNotices := by
  refine ⟨fun s hi => ?_, fun s hi => ?_⟩
  · intro w
    refine ⟨fun b i x hk hg hx hp ho hc => ?_, fun i x ho hx => ?_⟩
    · have h0 := Laws.eff_passToBeat (b + w.slotGap.setWidth 48) s.m
      refine (slotOpen_opens hi hg hx hp ho hc rfl).imp fun m ⟨he, hw, hm, hh⟩ => ⟨he, ?_⟩
      obtain ⟨r1, r2, r3⟩ := slotHart_regs x (passToBeat (b + w.slotGap.setWidth 48) s.m)
        ((passToBeat (b + w.slotGap.setWidth 48) s.m).hart hk)
      rw [stepOf_congr (h0.same .vst (by decide))] at r3
      rw [hw, hh]
      exact ⟨rfl, rfl, congrArg (fun w : Wdg => w.suspects.set i _) (wdg_of_eff h0), hm, by rw [hm]; rfl, rfl, rfl,
        congrArg (fun w : Wdg => nget 0 w.entries _) (wdg_of_eff h0), r1, r2, r3⟩
    · intro ends
      exact ⟨fun he hn => suspectClear_ends hi ho hx he hn, slotMaxExpiry_ends hi ho hx⟩
  · intro w
    refine ⟨fun kind c hc => ?_, fun k hf => ?_⟩
    · have hk : exec c s = done s (noticeSend kind s.m) ∧ 1 ≤ kind ∧ kind ≤ 3 := by
        simp only [List.mem_cons, Prod.mk.injEq, List.not_mem_nil, or_false] at hc
        obtain ⟨rfl, rfl⟩ | ⟨rfl, rfl⟩ | ⟨rfl, rfl⟩ := hc <;> exact ⟨rfl, by decide, by decide⟩
      obtain ⟨he, h1, h3⟩ := hk
      exact ⟨fun h => he.trans (congrArg (done s) (noticeSend_waits h kind)), fun e hw hv hr ho => notice_sent he h1 h3 hw hv hr ho⟩
    · intro p kind here
      have hx := exec_notice hf
      have hi1 : (noticeTaken k (taken k s.m)).Inv := (Laws.eff_ev ..).keeps.inv hi
      have ha (i : Nat) : (noticeTaken k (taken k s.m)).arc' i = s.m.arc' i := (arc'_of_eff (Laws.eff_ev ..)).trans rfl
      have hv : (noticeTaken k (taken k s.m)).vote = s.m.vote := (vote_of_eff (Laws.eff_ev ..)).trans rfl
      have hw : (noticeTaken k (taken k s.m)).wdg = w := (wdg_of_eff (Laws.eff_ev ..)).trans rfl
      refine ⟨fun hn => ?_, fun ⟨hs, hp, hz, hl, hn⟩ hk => ?_, fun ⟨hs, hp, hz, hl, hn⟩ hk => ?_, fun ⟨hs, hp, hz, hl, hn⟩ hk => ?_⟩
      · exact notice_unnamed hf hn
      · have hd := (doNotice_named (m := taken k s.m) hn hs hp hz hl (by omega) (by omega)).trans (if_pos hk)
        refine completes_of_done (hx.trans (congrArg (done s) hd)) ⟨(wdg_of_eff (Laws.eff_arcExtend ..)).trans hw, fun a o ho hpo => ?_, fun o ho => ?_⟩
        · exact arcExtend_op hi1 (by rw [ha]; exact ho) hpo
        · rw [arcExtend_vote (by rw [hv]; exact ho), hv]
      · have hd := (doNotice_named (m := taken k s.m) hn hs hp hz hl (by omega) (by omega)).trans ((if_neg (by omega)).trans (if_pos hk))
        refine completes_of_done (hx.trans (congrArg (done s) hd)) fun a o ho => ?_
        have hc : count (noticeTaken k (taken k s.m)) p o.desc.ctx 7 a = count s.m p o.desc.ctx 7 a := (count_of_eff (Laws.eff_ev ..)).trans rfl
        obtain ⟨h1, h2⟩ := arcAbort_ends (p := p) hi1 (i := a) (by rw [ha]; exact ho)
        exact ⟨fun hpo => ⟨(h1 hpo).1, (h1 hpo).2.trans (congrArg (· + 1) hc)⟩, h2⟩
      · have hd := (doNotice_named (m := taken k s.m) hn hs hp hz hl (by omega) (by omega)).trans ((if_neg (by omega)).trans (if_neg (by omega)))
        refine completes_of_done (hx.trans (congrArg (done s) hd)) ?_
        exact Laws.sameBut_trans (Laws.sameBut_of_blend (l := [.rte] ++ evParts) (b := taken k s.m) rfl) (((Laws.eff_ev ..).mono rfl).same)

end

/-! ### Watchdogs and power cycles (O40) -/

namespace Sys2Proof.Scope
open Sys2Proof.Machine Sys2Proof.Laws

variable {s : State} {m x a b : Module} {c : Instr} {d : Dom} {level : Nat} {w : Wdg} {l : List Part}

/-! #### A watchdog that fires where no reset stands (R561, R565, R566) -/

/-- Nothing is under reset, pending or ordered, nothing escalates, and no suspect's slot is open. -/
structure LadderIdle (w : Wdg) : Prop where
  running : w.running = []
  pend : w.pend = []
  ordered : w.ordered = []
  escCount : w.escCount = 0
  suspect : openSuspect w = none

/-- A reset of a domain is ordered where AUTO has its level's bit, and pending where it has not. -/
def Falls (w : Wdg) (d : Dom) (level : Nat) (m : Module) : Prop :=
  (bit w.auto (level - 1) = true → m.wdg.ordered = [{ dom := d, level := level, cause := 0 }] ∧ m.wdg.pend = [] ∧ m.wdg.running = [])
  ∧ (bit w.auto (level - 1) = false → m.wdg.ordered = [] ∧ m.wdg.pend = [(level, d)] ∧ m.wdg.running = [])

theorem runningCovers_idle (h : m.wdg.running = []) (d : Dom) : runningCovers m d = false := by simp [runningCovers, h]

theorem pendCovers_idle (h : m.wdg.pend = []) (d : Dom) : pendCovers m d = false := by simp [pendCovers, h]

theorem escalates_idle (h : m.wdg.escCount = 0) (d : Dom) (level : Nat) : escalates m d level = false := by simp [escalates, h]

theorem orderReset_falls (h : LadderIdle m.wdg) (hl : level < 6) (d : Dom) :
    Falls m.wdg d level (orderReset d level 0 m) ∧ SameBut [.wdg] m (orderReset d level 0 m) := by
  obtain ⟨hr, hp, ho, he, -⟩ := h
  have hx : orderReset d level 0 m = placeOrder d level 0 m := by
    unfold orderReset
    rw [if_neg (by simp [runningCovers_idle hr, pendCovers_idle hp]), escalates_idle he]
    rfl
  have hpl : placeOrder d level 0 m = if bit m.wdg.auto (level - 1) then
      { m with wdg := { m.wdg with ordered := [{ dom := d, level := level, cause := 0 }] } }
      else { m with wdg := { m.wdg with pend := [(level, d)] } } := by
    unfold placeOrder
    cases ha : bit m.wdg.auto (level - 1) <;> simp [not_le.2 hl, runningCovers_idle hr, pendCovers_idle hp, ho, hp, ha]
  refine ⟨?_, by rw [hx]; exact (eff_placeOrder ..).same⟩
  rw [hx, hpl]
  exact ⟨fun ha => by rw [if_pos ha]; exact ⟨rfl, hp, hr⟩, fun ha => by rw [if_neg (by simp [ha])]; exact ⟨ho, rfl, hr⟩⟩

/-- A command that ends by ordering its domain's reset. -/
theorem hang_falls (h : LadderIdle s.m.wdg) (hw : x.wdg = s.m.wdg) (hl : level < 6) (he : exec c s = done s (orderReset d level 0 x)) :
    Completes c s fun m => Falls s.m.wdg d level m ∧ SameBut [.wdg] x m := by
  obtain ⟨h1, h2⟩ := orderReset_falls (m := x) (by rwa [hw]) hl d
  exact completes_of_done he ⟨hw ▸ h1, h2⟩

theorem ctxHang_falls (h : LadderIdle s.m.wdg) {p : Fin 16} {q : Fin 8} {hk : Nat} (hc : ctxHart s.m p q = some hk)
    (hr : ctxRuns s.m p q (s.m.hart hk) = true) : Completes (.ctxHang p q) s fun m =>
      Falls s.m.wdg (.context p q) 1 m ∧ m.clk = (passTo ((s.m.hart hk).lastProgress + ctxTmo s.m.wdg * 1024) s.m).clk
      ∧ m.harts = s.m.harts := by
  have h0 := eff_passTo ((s.m.hart hk).lastProgress + ctxTmo s.m.wdg * 1024) s.m
  have hw0 := wdg_of_eff h0
  have h1 := eff_ev 0x18 1 0xFFFF 4 p q (s.m.hart hk).pc (passTo ((s.m.hart hk).lastProgress + ctxTmo s.m.wdg * 1024) s.m)
  have hw1 := (wdg_of_eff h1).trans hw0
  have he : exec (.ctxHang p q) s = done s (orderReset (.context p q) 1 0
      (ev 0x18 1 0xFFFF 4 p q (s.m.hart hk).pc (passTo ((s.m.hart hk).lastProgress + ctxTmo s.m.wdg * 1024) s.m))) := by
    show execCtxHang p q s = _
    unfold execCtxHang
    simp only [hc, hr, runningCovers_idle (m := passTo _ s.m) ((congrArg Wdg.running hw0).trans h.running),
      pendCovers_idle (m := passTo _ s.m) ((congrArg Wdg.pend hw0).trans h.pend), Bool.not_true, Bool.false_eq_true, if_false, Bool.or_false]
    rw [hw1, h.suspect]
  refine (hang_falls h hw1 (by decide) he).imp fun m ⟨he, hf, hm⟩ => ⟨he, hf, ?_, ?_⟩
  · exact (hm .clk (by decide)).trans (h1.same .clk (by decide))
  · exact (hm .harts (by decide)).trans ((h1.same .harts (by decide)).trans (h0.same .harts (by decide)))

theorem partHang_falls (h : LadderIdle s.m.wdg) {p : Fin 16} {t : Nat} (ht : partDue s.m p = some t) :
    Completes (.partHang p) s fun m => Falls s.m.wdg (.partition p) 3 m ∧ m.clk = (passTo t s.m).clk ∧ m.harts = s.m.harts := by
  have h0 := eff_passTo t s.m
  have hw0 := wdg_of_eff h0
  have h1 := eff_ev 0x18 6 0xFFFF 5 p 0 0 (passTo t s.m)
  have he : exec (.partHang p) s = done s (orderReset (.partition p) 3 0 (ev 0x18 6 0xFFFF 5 p 0 0 (passTo t s.m))) := by
    show execPartHang p s = _
    unfold execPartHang
    simp only [ht, runningCovers_idle (m := passTo t s.m) ((congrArg Wdg.running hw0).trans h.running),
      pendCovers_idle (m := passTo t s.m) ((congrArg Wdg.pend hw0).trans h.pend), Bool.false_eq_true, if_false, Bool.or_false]
  refine (hang_falls h ((wdg_of_eff h1).trans hw0) (by decide) he).imp fun m ⟨he, hf, hm⟩ => ⟨he, hf, ?_, ?_⟩
  · exact (hm .clk (by decide)).trans (h1.same .clk (by decide))
  · exact (hm .harts (by decide)).trans ((h1.same .harts (by decide)).trans (h0.same .harts (by decide)))

theorem wingHang_falls (h : LadderIdle s.m.wdg) {v : Fin 2} (hv : wingUp s.m v = true) :
    Completes (.wingHang v) s fun m => Falls s.m.wdg (.wing v) 4 m ∧ SameBut ([.wdg] ++ evParts) s.m m := by
  have h1 := eff_ev 0x18 7 v 5 31 0 (BitVec.ofNat 64 v) s.m
  have he : exec (.wingHang v) s = done s (orderReset (.wing v) 4 0 (ev 0x18 7 v 5 31 0 (BitVec.ofNat 64 v) s.m)) :=
    if_neg (by simp [hv, pendCovers_idle h.pend])
  exact (hang_falls h (wdg_of_eff h1) (by decide) he).imp fun m ⟨he, hf, hm⟩ =>
    ⟨he, hf, sameBut_trans (sameBut_mono h1.same rfl) (sameBut_mono hm rfl)⟩

/-! #### An engine that hangs (R561, R570, R571) -/

section
variable {cls : EngCls} {i : Nat}

/-- When an engine's watchdog falls due. -/
def engDue (cls : EngCls) (i : Nat) (m : Module) : Nat := engineProgress m cls i + engTmo m.wdg * 1024

theorem engOwner_congr (h : b.img = a.img) (e : Eng) : engOwner b e = engOwner a e := by
  unfold engOwner
  split
  · exact owner_congr h ..
  · rfl

theorem exec_engHang (hi : i < engCount cls) (hr : engineRuns s.m cls i = true) (ho : engOwner s.m { cls := cls, idx := i } = none) :
    exec (.engHang cls i) s = done s (engineHang { cls := cls, idx := i } false (passTo (engDue cls i s.m) s.m)) := by
  have h : engOwner (passTo (engDue cls i s.m) s.m) { cls := cls, idx := i } = none :=
    (engOwner_congr ((eff_passTo ..).same .img (by decide)) _).trans ho
  show execEngHang cls i s = _
  unfold execEngHang
  dsimp only
  rw [if_pos (by simp [hi, hr]), ← engDue, h]

theorem engineHang_pends (h : LadderIdle m.wdg) (ha : bit m.wdg.auto 1 = false) (e : Eng) :
    engineHang e false m = orderReset (.engine e) 2 0 (hangEv (engQ e) e.idx 0 m) := by
  unfold engineHang
  simp only [runningCovers_idle h.running, pendCovers_idle h.pend, ha, Bool.or_false, Bool.false_eq_true, if_false, Bool.not_false,
    Bool.true_or, if_true]

theorem engineHang_starts (h : LadderIdle m.wdg) (ha : bit m.wdg.auto 1 = true) (e : Eng) : engineHang e false m
    = startPhase e (engineCtxs m (engQ e) e.idx) (hangEv (engQ e) e.idx (min 32 (engineCtxs m (engQ e) e.idx).length) m) := by
  have hw (n : Nat) : (hangEv (engQ e) e.idx n m).wdg = m.wdg := wdg_of_eff (eff_hangEv ..)
  unfold engineHang
  simp only [runningCovers_idle h.running, pendCovers_idle h.pend, ha, Bool.or_false, Bool.false_eq_true, if_false, Bool.not_true,
    escalates_idle h.escCount, hw, h.suspect]

theorem engHang_pends (h : LadderIdle s.m.wdg) (hi : i < engCount cls) (hr : engineRuns s.m cls i = true)
    (ho : engOwner s.m { cls := cls, idx := i } = none) (ha : bit s.m.wdg.auto 1 = false) : Completes (.engHang cls i) s fun m =>
      Falls s.m.wdg (.engine { cls := cls, idx := i }) 2 m ∧ m.queues = s.m.queues ∧ m.harts = s.m.harts := by
  have h0 := eff_passTo (engDue cls i s.m) s.m
  have hw0 : (passTo (engDue cls i s.m) s.m).wdg = s.m.wdg := wdg_of_eff h0
  have h1 := eff_hangEv (engQ { cls := cls, idx := i }) i 0 (passTo (engDue cls i s.m) s.m)
  have he := (exec_engHang hi hr ho).trans (congrArg (done s) (engineHang_pends (by rwa [hw0]) (by rwa [hw0]) _))
  refine (hang_falls h ((wdg_of_eff h1).trans hw0) (by decide) he).imp fun m ⟨he, hf, hm⟩ => ⟨he, hf, ?_, ?_⟩
  · exact (hm .queues (by decide)).trans ((h1.same .queues (by decide)).trans (h0.same .queues (by decide)))
  · exact (hm .harts (by decide)).trans ((h1.same .harts (by decide)).trans (h0.same .harts (by decide)))

/-- The suspect that a context with a descriptor at a hung engine becomes. -/
def suspectOf (cls unit : Nat) (x : Nat × Nat × Bool) : Suspect :=
  { verdict := 0, cls := cls, unit := unit, part := x.1, exec := x.2.2, ctx := x.2.1, exit := false }

theorem addSuspects_room (cls unit : Nat) (r : List (Nat × Nat × Bool)) (m : Module) (h : m.wdg.suspects.length + r.length ≤ 32) :
    addSuspects cls unit r m = { m with wdg := { m.wdg with suspects := m.wdg.suspects ++ r.map (suspectOf cls unit) } } := by
  induction r generalizing m with
  | nil => simp [addSuspects]
  | cons x r ih =>
    have hl : m.wdg.suspects.length < 32 := by simp at h; omega
    have hx : addSuspects cls unit (x :: r) m
        = addSuspects cls unit r { m with wdg := { m.wdg with suspects := m.wdg.suspects ++ [suspectOf cls unit x] } } :=
      congrArg (addSuspects cls unit r) (if_pos hl)
    rw [hx, ih _ (by simp at h ⊢; omega)]
    simp

/-- The engine's contexts, as its queues and what it executes stand (R570, R571). -/
theorem engineCtxs_congr (h : ∀ q ∈ busyParts, q.Same a b) (cls i : Nat) : engineCtxs b cls i = engineCtxs a cls i := by
  have hq : b.queues = a.queues := h .queues (by decide)
  have h0 : b.gal = a.gal := h .gal (by decide)
  have h1 : b.bal = a.bal := h .bal (by decide)
  have h2 : b.lnd = a.lnd := h .lnd (by decide)
  have h3 : b.ris = a.ris := h .ris (by decide)
  have h4 : b.win = a.win := h .win (by decide)
  have h5 : b.nwl = a.nwl := h .nwl (by decide)
  have h6 : b.flt = a.flt := h .flt (by decide)
  have h7 : b.arc = a.arc := h .arc (by decide)
  unfold engineCtxs queuesOf execDescs
  simp only [hq, Module.gal', Module.bal', Module.lnd', Module.ris', Module.win', Module.nwl', Module.flt', Module.arc', h0, h1, h2, h3,
    h4, h5, h6, h7]

/-! Only progress is noted of the harts and the watchdogs while contexts are held and an engine is reset. -/

/-- Of the watchdogs, progress only has been noted between two states. -/
def SameLadder (a b : Module) : Prop := ∃ l, b.wdg = { a.wdg with partProgress := l }

theorem SameLadder.refl (m : Module) : SameLadder m m := ⟨_, rfl⟩

theorem SameLadder.trans {c : Module} (h : SameLadder a b) (g : SameLadder b c) : SameLadder a c := by
  obtain ⟨u, hu⟩ := h
  obtain ⟨v, hv⟩ := g
  exact ⟨v, by rw [hv, hu]⟩

theorem SameLadder.of_eff (h : Eff l a b) (hl : Part.wdg ∉ l := by decide) : SameLadder a b := ⟨_, wdg_of_eff h hl⟩

theorem SameLadder.foldl {α : Type} {g : Module → α → Module} (hg : ∀ m x, SameLadder m (g m x)) (r : List α) (m : Module) :
    SameLadder m (r.foldl g m) :=
  List.foldlRecOn r g (motive := fun x => SameLadder m x) (.refl m) fun _ h x _ => h.trans (hg _ x)

theorem sameLadder_ctxReset (p q : Nat) (m : Module) : SameLadder m (ctxReset p q true m) := by
  obtain ⟨m1, sel, hr, h1, -⟩ := ctxReset_held p q m
  rw [hr]
  exact (SameLadder.of_eff h1).trans (progressed_removeDescs sel m1).wdg

theorem sameLadder_resetUnit (cls i : Nat) (m : Module) : SameLadder m (resetUnit cls i m) := by
  unfold resetUnit
  extract_lets m1
  have h1 : SameLadder m m1 := by
    dsimp only [m1]
    split
    · exact .refl m
    · exact .foldl (fun m d => (progressed_complete ..).wdg) ..
  exact h1.trans (SameLadder.trans (progressed_removeDescs ..).wdg (.of_eff (eff_clearEngine ..)))

theorem sameLadder_engineReset (cls i : Nat) (m : Module) : SameLadder m (engineReset cls i m) := by
  unfold engineReset
  split
  · exact (sameLadder_resetUnit ..).trans (sameLadder_resetUnit ..)
  · exact sameLadder_resetUnit ..

/-- The watchdogs as a suspect phase of a hung engine begins. -/
def phaseStarted (e : Eng) (l : List (Nat × Nat × Bool)) (m : Module) : Wdg :=
  { m.wdg with phase := true, phaseAt := m.clk.elapsed, hung := [(engQ e, e.idx)], suspects := l.map (suspectOf (engQ e) e.idx)
               slotOpen := none, gapFrom := none }

/-- An engine's reset begins where nothing is under reset (R565). -/
theorem perform_engine (e : Eng) (m : Module) : SameLadder { m with wdg :=
      let w := countReset 2 m.wdg
      { w with
        pend := w.pend.filter (fun x => !insideDom m x.2 (.engine e))
        ordered := w.ordered.filter (fun x => x.level = 6 || !insideDom m x.dom (.engine e))
        running := w.running ++ [{ dom := .engine e, level := 2, start := m.clk.elapsed }]
        history := { dom := .engine e, level := 2, start := m.clk.elapsed }
          :: w.history.filter (fun x => decide (m.clk.elapsed < x.start + w.escWin.toNat * 1024)) } }
    (perform { dom := .engine e, level := 2, cause := 0 } m) := sameLadder_engineReset ..

/-- The contexts of a hung engine are suspects, and each is held. -/
theorem startPhase_starts {e : Eng} {l : List (Nat × Nat × Bool)} (hp : m.wdg.phase = false) (hr : m.wdg.running = []) (hn : l ≠ [])
    (h32 : l.length ≤ 32) : (startPhase e l m).wdg.phase = true ∧ (startPhase e l m).wdg.hung = [(engQ e, e.idx)]
      ∧ (startPhase e l m).wdg.slotOpen = none ∧ (∃ r, (startPhase e l m).wdg.running = [r] ∧ r.dom = .engine e ∧ r.level = 2)
      ∧ (startPhase e l m).wdg.suspects = l.map (suspectOf (engQ e) e.idx) := by
  have h0 : startPhase e l m = phaseCheck (perform { dom := .engine e, level := 2, cause := 0 }
      (l.foldl (fun m x => ctxReset x.1 x.2.1 true m) { m with wdg := phaseStarted e l m })) := by
    have hs := addSuspects_room (engQ e) e.idx l { m with wdg :=
      { m.wdg with phase := true, phaseAt := m.clk.elapsed, hung := [(engQ e, e.idx)], suspects := [], slotOpen := none, gapFrom := none } }
      (by simpa using h32)
    unfold startPhase
    simp only [hp, Bool.false_eq_true, if_false, List.any_nil, Bool.not_false, List.filter_true, hs]
    rfl
  obtain ⟨t, ht⟩ := SameLadder.foldl (g := fun m x => ctxReset x.1 x.2.1 true m) (fun _ _ => sameLadder_ctxReset ..) l
    { m with wdg := phaseStarted e l m }
  rw [h0]
  generalize l.foldl (fun m x => ctxReset x.1 x.2.1 true m) { m with wdg := phaseStarted e l m } = m1 at ht
  obtain ⟨u, hu⟩ := perform_engine e m1
  generalize perform { dom := .engine e, level := 2, cause := 0 } m1 = m2 at hu
  have hs : m2.wdg.suspects = l.map (suspectOf (engQ e) e.idx) := by
    rw [hu]
    exact (congrArg Wdg.suspects ht :)
  have hc : phaseCheck m2 = m2 := by
    refine if_neg ?_
    obtain ⟨y, r, rfl⟩ := List.exists_cons_of_ne_nil hn
    simp [hs, suspectOf]
  rw [hc, hs, hu]
  refine ⟨(congrArg Wdg.phase ht :), (congrArg Wdg.hung ht :), (congrArg Wdg.slotOpen ht :),
    ⟨{ dom := .engine e, level := 2, start := m1.clk.elapsed }, ?_, rfl, rfl⟩, rfl⟩
  have hr1 : m1.wdg.running = [] := (congrArg Wdg.running ht :).trans hr
  exact congrArg (· ++ _) hr1

theorem engHang_starts (h : LadderIdle s.m.wdg) (hi : i < engCount cls) (hr : engineRuns s.m cls i = true)
    (ho : engOwner s.m { cls := cls, idx := i } = none) (ha : bit s.m.wdg.auto 1 = true) (hp : s.m.wdg.phase = false)
    {r : List (Nat × Nat × Bool)} (hl : r = engineCtxs s.m (engQ { cls := cls, idx := i }) i) (hn : r ≠ []) (h32 : r.length ≤ 32) :
    Completes (.engHang cls i) s fun m =>
      m.wdg.phase = true ∧ m.wdg.hung = [(engQ { cls := cls, idx := i }, i)] ∧ m.wdg.slotOpen = none
      ∧ (∃ r, m.wdg.running = [r] ∧ r.dom = .engine { cls := cls, idx := i } ∧ r.level = 2)
      ∧ m.wdg.suspects = r.map (suspectOf (engQ { cls := cls, idx := i }) i) := by
  have h0 := eff_passTo (engDue cls i s.m) s.m
  have hw0 : (passTo (engDue cls i s.m) s.m).wdg = s.m.wdg := wdg_of_eff h0
  have hc : engineCtxs (passTo (engDue cls i s.m) s.m) (engQ { cls := cls, idx := i }) i = r :=
    (engineCtxs_congr (fun q hq => h0.same q fun hm => absurd hq (by revert q; decide)) ..).trans hl.symm
  have hx := engineHang_starts (m := passTo (engDue cls i s.m) s.m) (by rwa [hw0]) (by rwa [hw0]) { cls := cls, idx := i }
  rw [hc] at hx
  have hw1 : (hangEv (engQ { cls := cls, idx := i }) i (min 32 r.length) (passTo (engDue cls i s.m) s.m)).wdg = s.m.wdg :=
    (wdg_of_eff (eff_hangEv ..)).trans hw0
  exact completes_of_done ((exec_engHang hi hr ho).trans (congrArg (done s) hx))
    (startPhase_starts (e := { cls := cls, idx := i }) (by rw [hw1]; exact hp) (by rw [hw1]; exact h.running) hn h32)

end

/-! #### Power cycles (R560, R569, R583) -/

theorem powerRequest_asks (h : m.wdg.pwr = none) (cause : Nat) :
    (powerRequest cause m).wdg = { m.wdg with pwr := some (cause, m.clk.elapsed) } ∧ SameBut ([.wdg] ++ evParts) m (powerRequest cause m) := by
  have he := eff_ev 0x18 0x0B 0xFFFF 6 31 0 (BitVec.ofNat 64 cause) m
  refine ⟨?_, sameBut_mono (eff_powerRequest ..).same rfl⟩
  have hw := wdg_of_eff he
  have hc := clk_of_eff he
  unfold powerRequest
  simp only [h]
  rw [hw, hc]

theorem powerCycleRequest_asks (hp : s.m.wdg.pwr = none) (ho : s.m.wdg.ordered = []) : Completes .powerCycleRequest s fun m =>
    m.wdg = { s.m.wdg with pwr := some (2, s.m.clk.elapsed) } ∧ SameBut ([.wdg] ++ evParts) s.m m := by
  have hx : orderReset .chip 6 2 s.m = { s.m with wdg := { s.m.wdg with ordered := [{ dom := .chip, level := 6, cause := 2 }] } } := by
    simp [orderReset, escalates, placeOrder, ho]
  have hc : resetCommand .chip 6 s.m = { s.m with wdg := { s.m.wdg with ordered := [{ dom := .chip, level := 6, cause := 2 }] } } := by
    rw [← hx]
    simp [resetCommand, hp]
  have hn : performOrdered .chip 6 s.m = none := by simp [performOrdered, ho]
  have hd : performOrdered .chip 6 { s.m with wdg := { s.m.wdg with ordered := [{ dom := .chip, level := 6, cause := 2 }] } }
      = some (powerRequest 2 s.m) := by
    have hs : ({ s.m with wdg := { s.m.wdg with ordered := [] } } : Module) = s.m := by rw [← ho]
    simp [performOrdered, perform, hs]
  have he : exec .powerCycleRequest s = done s (powerRequest 2 s.m) := by
    show done s (resetRow .chip 6 s.m) = _
    unfold resetRow
    simp only [hn, hc, hd]
  exact completes_of_done he (powerRequest_asks hp 2)

section
variable {cause at_ : Nat} (h : s.m.wdg.pwr = some (cause, at_))
include h

theorem pwrcycReqNAssert_falls (hn : s.m.tray.pwrcycReqN = true) : Completes .pwrcycReqNAssert s fun m =>
    m.tray.pwrcycReqN = false ∧ m.clk = (passTo (at_ + 1024 * 1024) s.m).clk ∧ m.wdg = { s.m.wdg with pwrLog := m.clk.elapsed }
    ∧ (cause = 1 → m.hlt = s.m.hlt) ∧ (cause ≠ 1 → m.hlt.breathNext = 1 - s.m.hlt.breathNext) := by
  have h0 := eff_passTo (at_ + 1024 * 1024) s.m
  have hw0 : (passTo (at_ + 1024 * 1024) s.m).wdg = s.m.wdg := wdg_of_eff h0
  have hh0 : (passTo (at_ + 1024 * 1024) s.m).hlt = s.m.hlt := h0.same .hlt (by decide)
  generalize hm : passTo (at_ + 1024 * 1024) s.m = m0 at h0 hw0 hh0 ⊢
  obtain ⟨m1, he, hc, hw, h1, h2⟩ : ∃ m1 : Module, exec .pwrcycReqNAssert s = done s
      { m1 with tray := { m1.tray with pwrcycReqN := false }, wdg := { m1.wdg with pwrLog := m1.clk.elapsed } }
      ∧ m1.clk = m0.clk ∧ m1.wdg = s.m.wdg ∧ (cause = 1 → m1.hlt = s.m.hlt)
      ∧ (cause ≠ 1 → m1.hlt.breathNext = 1 - s.m.hlt.breathNext) := by
    refine ⟨if cause = 1 then m0 else writeBreath 3 true m0, ?_, ?_⟩
    · show execPwrcycReqNAssert s = _
      unfold execPwrcycReqNAssert
      simp only [h, hn, hm]
      rfl
    · split
      next hc => exact ⟨rfl, hw0, fun _ => hh0, fun h1 => absurd hc h1⟩
      next hc =>
        have hb := eff_writeBreath 3 true m0
        exact ⟨clk_of_eff hb, (wdg_of_eff hb).trans hw0, fun h1 => absurd h1 hc, fun _ => by rw [(writeBreath_leaves 3 true m0).1, hh0]⟩
  exact completes_of_done he ⟨rfl, hc, by rw [hw], h1, h2⟩

/-- The overdue request is logged. -/
def overdueLogged (cause : Nat) (m : Module) : Module :=
  { m with
    hlt := { m.hlt with sram := m.hlt.sram ++ [ringRecord (mkEvent 0x18 0x0B 0xFFFF 6 31 0 (BitVec.ofNat 64 cause) m) m] }
    wdg := { m.wdg with pwrLog := m.clk.elapsed } }

theorem exec_pwrcycOverdue (hn : s.m.tray.pwrcycReqN = false) {t : Nat} (ht : t = s.m.wdg.pwrLog + 10000000000) :
    exec .pwrcycOverdue s = done s (overdueLogged cause (passTo t s.m)) := by
  show execPwrcycOverdue s = _
  unfold execPwrcycOverdue
  simp only [h, hn, ← ht, Bool.false_eq_true, if_false]
  rfl

theorem pwrcycOverdue_logs (hn : s.m.tray.pwrcycReqN = false) : Completes .pwrcycOverdue s fun m =>
    m.tray = s.m.tray ∧ m.clk = (passTo (s.m.wdg.pwrLog + 10000000000) s.m).clk ∧ m.wdg = { s.m.wdg with pwrLog := m.clk.elapsed }
    ∧ m.hlt.sram.length = s.m.hlt.sram.length + 1 := by
  obtain ⟨t, ht⟩ : ∃ t, t = s.m.wdg.pwrLog + 10000000000 := ⟨_, rfl⟩
  rw [← ht]
  have h0 := eff_passTo t s.m
  have hw0 : (passTo t s.m).wdg = s.m.wdg := wdg_of_eff h0
  have hh0 : (passTo t s.m).hlt = s.m.hlt := h0.same .hlt (by decide)
  refine completes_of_done (exec_pwrcycOverdue h hn ht) ⟨h0.same .tray (by decide), rfl, ?_, ?_⟩
  · exact congrArg (fun w : Wdg => { w with pwrLog := (passTo t s.m).clk.elapsed }) hw0
  · simp [overdueLogged, hh0]

end

end Sys2Proof.Scope

section
open Sys2Proof Sys2Proof.Machine Sys2Proof.Scope

/-- Settles O40, by what a watchdog's order leaves where no reset stands, how a suspect phase starts, and how a power cycle is asked for. -/
theorem watchdogsOrderResetsAndPowerCycles : Obligations.WatchdogsOrderResetsAndPowerCycles := by
  intro s w quiet falls
  refine ⟨fun ⟨hr, hp, ho, he, hs⟩ => ?_, fun h => ?_, fun h => ⟨fun ha => ?_, powerCycleRequest_asks h⟩,
    fun cause at_ h => ⟨pwrcycReqNAssert_falls h, pwrcycOverdue_logs h⟩⟩
  · have h : LadderIdle w := ⟨hr, hp, ho, he, hs⟩
    exact ⟨fun p c hk hc hr => ctxHang_falls h hc hr, fun p t ht => partHang_falls h ht, fun v hv => wingHang_falls h hv,
      fun c i hi hr ho => ⟨engHang_pends h hi hr ho, fun ha hp hn h32 => engHang_starts h hi hr ho ha hp rfl hn h32⟩⟩
  · exact congrArg (done s) (if_neg (by simp [show s.m.wdg.pwrAuto = false from h]))
  · exact completes_of_done (congrArg (done s) (if_pos ha)) (powerRequest_asks h 1)

end

/-! ### The mirror engine: SEND, the inbound transfer, RESTORE (O39) -/

namespace Sys2Proof.Scope
open Sys2Proof.Machine Sys2Proof.Laws

variable {s : State} {m a b : Module} {d : Desc} {k : Pkt} {q : Nat}

theorem rising_mir (h : m.Inv) : rising m.mir = true := by
  have hc := h.1
  simp only [Module.canonical, Bool.and_eq_true] at hc
  simp [hc]

theorem setMir_mir' (hi : m.Inv) (p : Nat) (x : Mir) : (m.setMir p x).mir' p = x := setMir_get m p x (rising_mir hi)

/-- What a mirror packet that leaves does to the engine: its bytes count as sent (R542). -/
def txAdded (n : Nat) (x : Mir) : Mir := { x with tx := x.tx + BitVec.ofNat 64 n }

theorem mirSend_vst (p chip part kind : Nat) (step : Beat) (off hi : Nat) (payload : List Byte) (m : Module) :
    (mirSend p chip part kind step off hi payload m).2.vst = m.vst := inject_vst 2 _ (newTag m).2

theorem mirSend_mir' (hm : m.Inv) (p chip part kind : Nat) (step : Beat) (off hi : Nat) (payload : List Byte) :
    (mirSend p chip part kind step off hi payload m).2.mir' p = txAdded payload.length (m.mir' p) := by
  have ht : Eff [.rte] m (newTag m).2 := eff_newTag m
  have he : ∀ k, Eff _ (newTag m).2 (inject 2 k (newTag m).2) := fun k => eff_inject 2 k _
  refine (setMir_mir' ((he _).keeps.inv (ht.keeps.inv hm)) ..).trans (congrArg (txAdded payload.length) ?_)
  exact (mir'_of_eff (he _) (by decide) p).trans (mir'_of_eff ht (by decide) p)

theorem beginPayload_length (base : Beat) (full : Bool) (size entries : Nat) : (beginPayload base full size entries).length = 24 := by
  simp [beginPayload, length_natLe]

/-! #### SEND (R538, R549) -/

/-- A SEND that has sent BEGIN: of this descriptor, not yet further (R538). -/
structure Begun (d : Desc) (ranges : List (Nat × Nat)) (o : SendOp) : Prop where
  desc : o.desc = d
  full : o.full = d.fl 0
  resent : o.resent = false
  endTag : o.endTag = none
  tags : o.tags = []
  ranges : o.ranges = ranges

theorem sendBegin_begins (hi : m.Inv) (hd : d.part = q) (l : List (Nat × Nat)) :
    let x := (sendBegin d (d.fl 0) false l m).mir' q
    x.tx = (m.mir' q).tx + 24 ∧ ∃ o, x.send = some o ∧ Begun d (if d.fl 0 then [(0, shardSize (m.vst' q))] else l) o := by
  subst hd
  have hx := mirSend_mir' hi d.part (nameChip (m.mir' d.part).partner) (namePart (m.mir' d.part).partner) 0 (stStep d) 0 0
    (beginPayload (stStep d - 1) (d.fl 0) (shardSize (m.vst' d.part)) (if d.fl 0 then 0 else l.length))
  rw [beginPayload_length] at hx
  have he := setMir_mir' ((eff_toPartner d.part 0 (stStep d) 0 (beginPayload (stStep d - 1) (d.fl 0) (shardSize (m.vst' d.part))
    (if d.fl 0 then 0 else l.length)) m).keeps.inv hi) d.part
  refine ⟨(congrArg Mir.tx (he _)).trans (congrArg Mir.tx hx), _, congrArg Mir.send (he _), ⟨rfl, rfl, rfl, rfl, rfl, rfl⟩⟩

variable {p : Fin 16} {r : List Desc}

theorem send_refused (hx : (s.m.mir' p).send = none) (hq : queue s.m ⟨9, 0, p⟩ = d :: r) (hd : d.part = p.val)
    (hr : sendRefusal (dequeue ⟨9, 0, p⟩ s.m) d ≠ none) : Completes (.send p) s fun m =>
    queue m ⟨9, 0, p⟩ = r ∧ count m p d.ctx 9 0 = count s.m p d.ctx 9 0 + 1 ∧ m.mir = s.m.mir ∧ m.port = s.m.port := by
  obtain ⟨c, hc⟩ := Option.ne_none_iff_exists'.1 hr
  have he : exec (.send p) s = done s (bodyRefused 9 0 c d (dequeue ⟨9, 0, p⟩ s.m)) := by
    show execSend p s = _
    unfold execSend
    simp only [hx, hq, hc]
  have h1 : Eff _ s.m (dequeue ⟨9, 0, p⟩ s.m) := eff_dequeue ..
  have hc1 : queue (dequeue ⟨9, 0, p⟩ s.m) ⟨9, 0, p⟩ = r := by
    rw [queue_dequeue, hq]
    rfl
  generalize dequeue ⟨9, 0, p⟩ s.m = y at he h1 hc1
  have h2 : Eff _ y (bodyRefused 9 0 c d y) := eff_bodyRefused ..
  refine completes_of_done he ⟨(queue_of_eff h2).trans hc1, ?_, ?_, ?_⟩
  · rw [← hd]
    exact (count_complete ..).trans (congrArg (· + 1) ((count_of_eff (eff_ev ..)).trans (count_of_eff h1)))
  · exact (h2.same .mir (by decide)).trans (h1.same .mir (by decide))
  · exact (h2.same .port (by decide)).trans (h1.same .port (by decide))

/-- The range entries of a SEND and the module after they are read. -/
def sendRanges (d : Desc) (m : Module) : List (Nat × Nat) × Module := if d.fl 0 then ([], m) else readList d m

theorem send_starts (hi : s.m.Inv) (hx : (s.m.mir' p).send = none) (hq : queue s.m ⟨9, 0, p⟩ = d :: r) (hd : d.part = p.val)
    (hr : sendRefusal (dequeue ⟨9, 0, p⟩ s.m) d = none) : Completes (.send p) s fun m =>
    queue m ⟨9, 0, p⟩ = r ∧ m.counts = s.m.counts ∧ (m.mir' p).tx = (s.m.mir' p).tx + 24
    ∧ ∃ o, (m.mir' p).send = some o ∧ Begun d (if d.fl 0 then [(0, shardSize (s.m.vst' p))]
        else (readList d (descStart 9 0 d (dequeue ⟨9, 0, p⟩ s.m))).1) o := by
  have h1 : Eff _ s.m (dequeue ⟨9, 0, p⟩ s.m) := eff_dequeue ..
  have h2 : Eff _ (dequeue ⟨9, 0, p⟩ s.m) (descStart 9 0 d (dequeue ⟨9, 0, p⟩ s.m)) := eff_descStart 9 0 d _
  have hl1 : d.fl 0 = false → (sendRanges d (descStart 9 0 d (dequeue ⟨9, 0, p⟩ s.m))).1
      = (readList d (descStart 9 0 d (dequeue ⟨9, 0, p⟩ s.m))).1 := fun h => by simp [sendRanges, h]
  have h3 : Eff [.mem, .flt, .vst, .hlt, .cor, .pci, .tray, .dbg, .out] (descStart 9 0 d (dequeue ⟨9, 0, p⟩ s.m))
      (sendRanges d (descStart 9 0 d (dequeue ⟨9, 0, p⟩ s.m))).2 := by
    unfold sendRanges
    split
    · exact .refl _
    · exact eff_readList ..
  have hv3 : Tainted (descStart 9 0 d (dequeue ⟨9, 0, p⟩ s.m)) (sendRanges d (descStart 9 0 d (dequeue ⟨9, 0, p⟩ s.m))).2 := by
    unfold sendRanges
    split
    · exact .refl _
    · exact tainted_memRead ..
  have he : exec (.send p) s = done s (sendBegin d (d.fl 0) false (sendRanges d (descStart 9 0 d (dequeue ⟨9, 0, p⟩ s.m))).1
      (sendRanges d (descStart 9 0 d (dequeue ⟨9, 0, p⟩ s.m))).2) := by
    show execSend p s = _
    unfold execSend
    simp only [hx, hq, hr]
    rfl
  have hv2 := descStart_vst 9 0 d (dequeue ⟨9, 0, p⟩ s.m)
  have hi2 : (descStart 9 0 d (dequeue ⟨9, 0, p⟩ s.m)).Inv := h2.keeps.inv (h1.keeps.inv hi)
  generalize sendRanges d (descStart 9 0 d (dequeue ⟨9, 0, p⟩ s.m)) = y at he h3 hv3 hl1
  have h4 : Eff _ y.2 (sendBegin d (d.fl 0) false y.1 y.2) := eff_sendBegin ..
  obtain ⟨ht, o, ho, hb⟩ := sendBegin_begins (h3.keeps.inv hi2) hd y.1
  have hm : y.2.mir' p = s.m.mir' p :=
    (mir'_of_eff h3 (by decide) _).trans ((mir'_of_eff h2 (by decide) _).trans (mir'_of_eff h1 (by decide) _))
  have hs : shardSize (y.2.vst' p) = shardSize (s.m.vst' p) :=
    (hv3.same hi2 p (f := shardSize) fun _ => rfl).trans
      (congrArg shardSize ((vst'_of_vst hv2 _).trans (vst'_of_eff h1 (by decide) _)))
  have hl : (if d.fl 0 then [(0, shardSize (y.2.vst' p))] else y.1) = if d.fl 0 then [(0, shardSize (s.m.vst' p))]
      else (readList d (descStart 9 0 d (dequeue ⟨9, 0, p⟩ s.m))).1 := by
    split
    · rw [hs]
    next hf => exact hl1 (Bool.not_eq_true _ ▸ hf)
  refine completes_of_done he ⟨?_, ?_, ht.trans (by rw [hm]), o, ho, hl ▸ hb⟩
  · rw [queue_of_eff h4, queue_of_eff h3, queue_of_eff h2, queue_dequeue, hq]
    rfl
  · exact (h4.same .counts (by decide)).trans ((h3.same .counts (by decide)).trans
      ((h2.same .counts (by decide)).trans (h1.same .counts (by decide))))

/-! #### Timeouts (R538, R539, R541) -/

theorem mirrorTimeout_ends (hi : s.m.Inv) {o : SendOp} (ho : (s.m.mir' p).send = some o) :
    Completes (.mirrorTimeout p) s fun m => m.mir' p = { s.m.mir' p with send := none }
      ∧ m.clk = (passTo (o.lastAck + mirTmo (s.m.mir' p)) s.m).clk
      ∧ count m o.desc.part o.desc.ctx 9 0 = count s.m o.desc.part o.desc.ctx 9 0 + 1 := by
  have h1 : Eff _ s.m (passTo (o.lastAck + mirTmo (s.m.mir' p)) s.m) := eff_passTo ..
  have he : exec (.mirrorTimeout p) s = done s (complete 9 0 o.desc true (mirEv p 3 4 o.desc.ctx ((stStep o.desc).setWidth 64)
      ((passTo (o.lastAck + mirTmo (s.m.mir' p)) s.m).setMir p
        { (passTo (o.lastAck + mirTmo (s.m.mir' p)) s.m).mir' p with send := none }))) := by
    show execMirrorTimeout p s = _
    unfold execMirrorTimeout
    simp only [ho]
  generalize passTo (o.lastAck + mirTmo (s.m.mir' p)) s.m = y at h1 he
  refine completes_of_done he ⟨?_, ?_, ?_⟩
  · exact (mir'_of_eff (eff_complete ..) (by decide) _).trans ((mir'_of_eff (eff_mirEv ..) (by decide) _).trans
      ((setMir_mir' (h1.keeps.inv hi) ..).trans (by rw [mir'_of_eff h1])))
  · exact (clk_of_eff (eff_complete ..)).trans ((clk_of_eff (eff_mirEv ..)).trans (clk_of_eff (eff_setMir ..)))
  · refine (count_complete ..).trans (congrArg (· + 1) ?_)
    exact (count_of_eff (eff_mirEv ..)).trans ((count_of_eff (eff_setMir ..)).trans (count_of_eff h1))

theorem inAborted_ends (hi : s.m.Inv) {i : InXfer} (hx : (s.m.mir' p).inX = some i) :
    Completes (.inAborted p) s fun m => m.mir' p = { s.m.mir' p with inX := none }
      ∧ m.clk = (passTo (i.lastAt + mirTmo (s.m.mir' p)) s.m).clk := by
  have h1 : Eff _ s.m (passTo (i.lastAt + mirTmo (s.m.mir' p)) s.m) := eff_passTo ..
  have he : exec (.inAborted p) s = done s (mirEv p 5 2 0 (i.step.setWidth 64)
      ((passTo (i.lastAt + mirTmo (s.m.mir' p)) s.m).setMir p
        { (passTo (i.lastAt + mirTmo (s.m.mir' p)) s.m).mir' p with inX := none })) := by
    show execInAborted p s = _
    unfold execInAborted
    simp only [hx]
  generalize passTo (i.lastAt + mirTmo (s.m.mir' p)) s.m = y at h1 he
  refine completes_of_done he ⟨?_, (clk_of_eff (eff_mirEv ..)).trans (clk_of_eff (eff_setMir ..))⟩
  exact (mir'_of_eff (eff_mirEv ..) (by decide) _).trans ((setMir_mir' (h1.keeps.inv hi) ..).trans (by rw [mir'_of_eff h1]))

theorem restoreFailed_ends (hi : s.m.Inv) {q : Restore} (hx : (s.m.mir' p).restore = some q) :
    Completes (.restoreFailed p) s fun m => m.mir' p = { s.m.mir' p with restore := none } ∧ m.vst' p = s.m.vst' p
      ∧ m.clk = (passTo (q.lastAt + mirTmo (s.m.mir' p)) s.m).clk := by
  have h1 : Eff _ s.m (passTo (q.lastAt + mirTmo (s.m.mir' p)) s.m) := eff_passTo ..
  have he : exec (.restoreFailed p) s = done s (restoreFail p q (passTo (q.lastAt + mirTmo (s.m.mir' p)) s.m)) := by
    show execRestoreFailed p s = _
    unfold execRestoreFailed
    simp only [hx]
  generalize passTo (q.lastAt + mirTmo (s.m.mir' p)) s.m = y at h1 he
  refine completes_of_done he ⟨?_, ?_, (clk_of_eff (eff_mirEv ..)).trans (clk_of_eff (eff_setMir ..))⟩
  · exact (mir'_of_eff (eff_mirEv ..) (by decide) _).trans ((setMir_mir' (h1.keeps.inv hi) ..).trans (by rw [mir'_of_eff h1]))
  · exact (vst'_of_vst (mirEv_vst ..) _).trans ((vst'_of_eff (eff_setMir ..) (by decide) _).trans (vst'_of_eff h1 (by decide) _))

/-! #### RESTORE (R541) -/

/-- RESTORE is accepted. -/
def CanRestore (v : Vst) (x : Mir) : Prop := v.enable = true ∧ v.slots = [] ∧ nameValid x.partner = true ∧ x.restore = none

theorem canRestore_iff (v : Vst) (x : Mir) :
    (v.enable && v.slots.isEmpty && nameValid x.partner && x.restore.isNone) = true ↔ CanRestore v x := by
  simp [CanRestore, and_assoc]

theorem restore_starts (hi : s.m.Inv) (h : CanRestore (s.m.vst' p) (s.m.mir' p)) :
    Completes (.restore p) s fun m => m.vst = s.m.vst ∧ m.mem = s.m.mem
      ∧ ∃ r, m.mir' p = { s.m.mir' p with restore := some r } ∧ r.bytes = 0 ∧ r.slots = [] := by
  obtain ⟨y, hy⟩ : ∃ y, y = toPartner p 5 0 0 [] s.m := ⟨_, rfl⟩
  have h1 : Eff _ s.m y.2 := hy ▸ eff_toPartner p 5 0 0 [] s.m
  have hv : y.2.vst = s.m.vst := hy ▸ mirSend_vst ..
  have hm : y.2.mir' p = s.m.mir' p := by
    rw [hy]
    refine (mirSend_mir' hi ..).trans ?_
    simp [txAdded]
  refine completes_of_done (m := y.2.setMir p { y.2.mir' p with
    restore := some { bytes := 0, lastAt := y.2.clk.elapsed, tag := y.1, slots := [] } }) ?_
    ⟨hv, h1.same .mem (by decide), _, (setMir_mir' (h1.keeps.inv hi) ..).trans (by rw [hm]), rfl, rfl⟩
  show done s (mirRestore p s.m) = _
  unfold mirRestore
  rw [if_pos ((canRestore_iff ..).2 h), ← hy]
  rfl

theorem restore_refused (h : ¬ CanRestore (s.m.vst' p) (s.m.mir' p)) : Does (.restore p) s s.m :=
  congrArg (done s) (if_neg fun hc => h ((canRestore_iff ..).1 hc))

end Sys2Proof.Scope

/-! ### The mirror engine: the packets that come to it (O39) -/

namespace Sys2Proof.Scope
open Sys2Proof.Machine Sys2Proof.Laws

variable {s : State} {m a b : Module} {k : Pkt} {p kind : Nat} {i : InXfer} {bad : List Nat} {c : Instr}

/-! #### Taking a packet (R444) -/

/-- The partition whose engine a MIRROR packet names. -/
abbrev mirPart (k : Pkt) : Nat := k.hdr.dstPart.toNat

/-- The first accepted MIRROR packet of a kind. -/
def MirFirst (kind : Nat) (k : Pkt) (m : Module) : Prop :=
  m.rte.accepted.find? (fun y => y.hdr.ty = 0x18 && mKind y = kind) = some k

/-- What a mirror packet that is taken does to the engine: its bytes count as received. -/
def rxAdded (k : Pkt) (x : Mir) : Mir := { x with rx := x.rx + BitVec.ofNat 64 k.payload.length }

/-- The module once a MIRROR packet is taken. -/
def mirTaken (k : Pkt) (m : Module) : Module :=
  ({ m with rte := { m.rte with accepted := m.rte.accepted.erase k } }).setMir (mirPart k) (rxAdded k (m.mir' (mirPart k)))

theorem takeMir_of_first (h : MirFirst kind k m) : takeMir kind m = some ((mirPart k), k, mirTaken k m) := by
  unfold takeMir takeAccepted
  rw [show m.rte.accepted.find? _ = some k from h]
  rfl

theorem eff_mirTaken (k : Pkt) (m : Module) : Eff [.rte, .mir] m (mirTaken k m) := by
  unfold mirTaken
  exact (((Eff.refl m).upd rfl rfl rfl rfl rfl rfl rfl rfl rfl rfl rfl : Eff [.rte] _ _).mono rfl).trans ((eff_setMir ..).mono rfl)

theorem mirTaken_inv (hi : m.Inv) : (mirTaken k m).Inv := (eff_mirTaken k m).keeps.inv hi

theorem mirTaken_mir' (hi : m.Inv) : (mirTaken k m).mir' (mirPart k) = rxAdded k (m.mir' (mirPart k)) :=
  nget_nset_self (rising_mir hi)

theorem mirTaken_vst' (k : Pkt) (m : Module) (p : Nat) : (mirTaken k m).vst' p = m.vst' p := rfl

/-! #### Refusals (R534, R554) -/

theorem mAck_mir' (k : Pkt) (m : Module) (p : Nat) : (mAck k m).mir' p = m.mir' p := mir'_of_eff (eff_mAck k m) (by decide) p

/-- An acknowledgement of what was put into the engine. -/
theorem ackSet_mir' (hi : m.Inv) (x : Mir) : (mAck k (m.setMir p x)).mir' p = x := (mAck_mir' ..).trans (setMir_mir' hi p x)

/-- A packet that its partition's engine has refused. -/
def MirRefused (k : Pkt) (reason : BitVec 4) (s : State) (m : Module) : Prop :=
  m.mir' (mirPart k) = { rxAdded k (s.m.mir' (mirPart k)) with lastRefusal := reason } ∧ m.mem = s.m.mem

theorem mRefuse_refuses (hi : s.m.Inv) (reason : Nat) :
    MirRefused k (BitVec.ofNat 4 reason) s (mRefuse (mirPart k) reason k (mirTaken k s.m)) := by
  refine ⟨?_, ?_⟩
  · refine (mir'_of_eff (eff_mirEv ..) (by decide) _).trans ((mir'_of_eff (eff_refuse ..) (by decide) _).trans ?_)
    exact (setMir_mir' (mirTaken_inv hi) ..).trans (by rw [mirTaken_mir' hi])
  · exact ((eff_mRefuse ..).same .mem (by decide)).trans ((eff_mirTaken k s.m).same .mem (by decide))

/-! #### BEGIN (R539) -/

theorem exec_mirBegin (h : MirFirst 0 k s.m) : exec .mirBegin s = done s (doBegin (mirPart k) k (mirTaken k s.m)) := by
  show execMirBegin s = _
  unfold execMirBegin
  rw [takeMir_of_first h]

/-- What a BEGIN says: FULL, its base step and the size of SHARD. -/
def beginFull (k : Pkt) : Bool := bit (BitVec.ofNat 64 (le k.payload 0 8)) 63
def beginBase (k : Pkt) : Beat := BitVec.ofNat 48 (le k.payload 0 8)
def beginSize (k : Pkt) : Nat := le k.payload 8 8

/-- The transfer that a BEGIN opens. -/
def beginXfer (k : Pkt) (now : Nat) : InXfer :=
  { step := mStep k, full := beginFull k, size := beginSize k, entries := le k.payload 16 8, ranges := [], bytes := 0,
    wrote := false, lastAt := now }

/-- C is copied into W where the transfer is not a full one. -/
def beginCopy (p : Nat) (k : Pkt) (m : Module) : Module :=
  let x := m.mir' p
  if beginFull k then m else
    match x.lastRanges with
    | some l => l.foldl (fun m r => vstCopy p 2 (bufBase x (!bufW x) + r.1) 2 (bufBase x (bufW x) + r.1) r.2 m) m
    | none => vstCopy p 2 (bufBase x (!bufW x)) 2 (bufBase x (bufW x)) (beginSize k) m

theorem eff_beginCopy (p : Nat) (k : Pkt) (m : Module) :
    Eff [.mem, .flt, .vst, .hlt, .cor, .pci, .tray, .dbg, .out] m (beginCopy p k m) := by
  unfold beginCopy
  dsimp only
  split
  · exact .refl m
  · split
    · exact .fold (.refl m) fun _ _ => eff_vstCopy ..
    · exact eff_vstCopy ..

theorem doBegin_eq (p : Nat) (k : Pkt) (m : Module) : doBegin p k m =
    if !nameIs (m.mir' p).source k then mRefuse p 3 k m
    else if beginSize k > bufSize (m.mir' p) then mRefuse p 2 k m
    else if !beginFull k && !(((m.mir' p).inC.map (·.2)) = some (beginBase k)) then mRefuse p 1 k m
    else mAck k ((beginCopy p k m).setMir p
      { (beginCopy p k m).mir' p with inX := some (beginXfer k (beginCopy p k m).clk.elapsed) }) := rfl

variable (hi : s.m.Inv)
include hi

theorem mirBegin_foreign (hf : MirFirst 0 k s.m) (hs : ¬ nameIs (s.m.mir' (mirPart k)).source k = true) :
    Completes .mirBegin s (MirRefused k 3 s) := by
  refine completes_of_done (exec_mirBegin hf) ?_
  rw [doBegin_eq, mirTaken_mir' hi, if_pos (by simpa [rxAdded] using hs)]
  exact mRefuse_refuses hi 3

theorem mirBegin_large (hf : MirFirst 0 k s.m) (hs : nameIs (s.m.mir' (mirPart k)).source k = true)
    (hl : bufSize (s.m.mir' (mirPart k)) < beginSize k) : Completes .mirBegin s (MirRefused k 2 s) := by
  refine completes_of_done (exec_mirBegin hf) ?_
  rw [doBegin_eq, mirTaken_mir' hi, if_neg (by simpa [rxAdded] using hs), if_pos (by exact hl)]
  exact mRefuse_refuses hi 2

theorem mirBegin_unbased (hf : MirFirst 0 k s.m) (hs : nameIs (s.m.mir' (mirPart k)).source k = true)
    (hl : beginSize k ≤ bufSize (s.m.mir' (mirPart k))) (hn : beginFull k = false)
    (hb : (s.m.mir' (mirPart k)).inC.map (·.2) ≠ some (beginBase k)) : Completes .mirBegin s (MirRefused k 1 s) := by
  refine completes_of_done (exec_mirBegin hf) ?_
  rw [doBegin_eq, mirTaken_mir' hi, if_neg (by simpa [rxAdded] using hs), if_neg (by exact Nat.not_lt.2 hl),
    if_pos (by simpa [rxAdded, hn] using hb)]
  exact mRefuse_refuses hi 1

theorem mirBegin_opens (hf : MirFirst 0 k s.m) (hs : nameIs (s.m.mir' (mirPart k)).source k = true)
    (hl : beginSize k ≤ bufSize (s.m.mir' (mirPart k)))
    (hb : beginFull k = true ∨ (s.m.mir' (mirPart k)).inC.map (·.2) = some (beginBase k)) :
    Completes .mirBegin s fun m =>
      m.mir' (mirPart k) = { rxAdded k (s.m.mir' (mirPart k)) with inX := some (beginXfer k s.m.clk.elapsed) }
      ∧ (beginFull k = true → m.mem = s.m.mem) := by
  have h1 := eff_mirTaken k s.m
  have h2 := eff_beginCopy (mirPart k) k (mirTaken k s.m)
  refine completes_of_done (exec_mirBegin hf) ?_
  rw [doBegin_eq, mirTaken_mir' hi, if_neg (by simpa [rxAdded] using hs), if_neg (by exact Nat.not_lt.2 hl), if_neg ?hb]
  case hb =>
    obtain hb | hb := hb
    · simp [hb]
    · simp [rxAdded, hb]
  refine ⟨(ackSet_mir' (h2.keeps.inv (h1.keeps.inv hi)) _).trans ?_, fun h => ?_⟩
  · rw [mir'_of_eff h2, mirTaken_mir' hi, clk_of_eff h2, clk_of_eff h1]
  · refine ((eff_mAck ..).same .mem (by decide)).trans ?_
    rw [beginCopy, if_pos h]
    exact h1.same .mem (by decide)

/-! #### LIST, DATA, END and INPUT (R539, R540) -/

theorem inFor_running (hx : (s.m.mir' (mirPart k)).inX = some i) (ht : i.step = mStep k)
    (hs : nameIs (s.m.mir' (mirPart k)).source k = true) : inFor (mirPart k) k (mirTaken k s.m) = some i := by
  unfold inFor
  rw [mirTaken_mir' hi]
  simp [rxAdded, hx, ht, hs]

theorem inFor_none (h : nameIs (s.m.mir' (mirPart k)).source k = true → (s.m.mir' (mirPart k)).inX = none) :
    inFor (mirPart k) k (mirTaken k s.m) = none := by
  unfold inFor
  rw [mirTaken_mir' hi]
  dsimp only [rxAdded]
  split
  next j hj =>
    refine if_neg fun hc => ?_
    have := h (by simp_all)
    rw [hj] at this
    contradiction
  next => rfl

theorem mirList_keeps (hf : MirFirst 1 k s.m) (hr : inFor (mirPart k) k (mirTaken k s.m) = some i) :
    Completes .mirList s fun m => m.mir' (mirPart k) = { rxAdded k (s.m.mir' (mirPart k)) with inX := some { i with
      ranges := (i.ranges ++ parseList (k.payload.length / 16) k.payload).take 4096, lastAt := s.m.clk.elapsed } } := by
  refine completes_of_done (m := mAck k ((mirTaken k s.m).setMir (mirPart k) { (mirTaken k s.m).mir' (mirPart k) with
    inX := some { i with ranges := (i.ranges ++ parseList (k.payload.length / 16) k.payload).take 4096
                         lastAt := (mirTaken k s.m).clk.elapsed } })) ?_ ?_
  · show execMirList s = _
    unfold execMirList
    simp only [takeMir_of_first hf, hr]
    rfl
  · rw [ackSet_mir' (mirTaken_inv hi), mirTaken_mir' hi]
    rfl

/-- The module once the DATA of a transfer is in W. -/
def dataWritten (k : Pkt) (bad : List Nat) (m : Module) : Module :=
  memWriteBad 2 (mirPart k) 2 false (bufBase (m.mir' (mirPart k)) (bufW (m.mir' (mirPart k))) + k.hdr.addr.toNat)
    k.payload (badBytes bad k.payload.length) (mirTaken k m)

theorem mirData_fits (hf : MirFirst 2 k s.m) (hr : inFor (mirPart k) k (mirTaken k s.m) = some i)
    (hl : k.hdr.addr.toNat + k.payload.length ≤ i.size) (bad : List Nat) : Completes (.mirData bad) s fun m =>
      m.mir' (mirPart k) = { rxAdded k (s.m.mir' (mirPart k)) with inX := some { i with
        bytes := i.bytes + k.payload.length, wrote := true, lastAt := s.m.clk.elapsed } }
      ∧ m.mem = (dataWritten k bad s.m).mem := by
  have h1 := eff_mirTaken k s.m
  have h2 : Eff _ (mirTaken k s.m) (dataWritten k bad s.m) := eff_memWriteBad ..
  refine completes_of_done (m := mAck k ((dataWritten k bad s.m).setMir (mirPart k)
    { (dataWritten k bad s.m).mir' (mirPart k) with inX := some { i with
        bytes := i.bytes + k.payload.length, wrote := true, lastAt := (dataWritten k bad s.m).clk.elapsed } })) ?_ ⟨?_, ?_⟩
  · show execMirData bad s = _
    unfold execMirData
    simp only [takeMir_of_first hf, hr, if_neg (Nat.not_lt.2 hl), mirTaken_mir' hi]
    rfl
  · rw [ackSet_mir' (h2.keeps.inv (h1.keeps.inv hi)), mir'_of_eff h2, mirTaken_mir' hi, clk_of_eff h2, clk_of_eff h1]
  · exact (eff_mAck ..).same .mem (by decide)

omit hi in
theorem mirData_long (hf : MirFirst 2 k s.m) (hr : inFor (mirPart k) k (mirTaken k s.m) = some i)
    (hl : i.size < k.hdr.addr.toNat + k.payload.length) (bad : List Nat) : Does (.mirData bad) s (mirTaken k s.m) := by
  show execMirData bad s = _
  unfold execMirData
  simp only [takeMir_of_first hf, hr]
  exact if_pos hl

theorem mirEnd_completes (hf : MirFirst 3 k s.m) (hr : inFor (mirPart k) k (mirTaken k s.m) = some i)
    (hl : le k.payload 0 8 = i.bytes) : Completes .mirEnd s fun m =>
      m.mir' (mirPart k) = { rxAdded k (s.m.mir' (mirPart k)) with
        inC := some (bufW (s.m.mir' (mirPart k)), i.step), inCSize := i.size, inX := none,
        lastRanges := if i.full then none else some i.ranges } := by
  refine completes_of_done (m := doEnd (mirPart k) k i (mirTaken k s.m)) ?_ ?_
  · show execMirEnd s = _
    unfold execMirEnd
    simp only [takeMir_of_first hf, hr]
    rfl
  · rw [doEnd, if_pos hl, mirTaken_mir' hi]
    exact (mir'_of_eff (eff_mirEv ..) (by decide) _).trans (ackSet_mir' (mirTaken_inv hi) _)

omit hi in
theorem mirEnd_short (hf : MirFirst 3 k s.m) (hr : inFor (mirPart k) k (mirTaken k s.m) = some i)
    (hl : le k.payload 0 8 ≠ i.bytes) : Does .mirEnd s (mirTaken k s.m) := by
  show execMirEnd s = _
  unfold execMirEnd
  simp only [takeMir_of_first hf, hr]
  exact congrArg (done s) (if_neg hl)

omit hi in
/-- A LIST, DATA or END of no running transfer. -/
theorem exec_stray (hc : (kind, c) ∈ [(1, Instr.mirList), (2, .mirData bad), (3, .mirEnd)]) (hf : MirFirst kind k s.m)
    (hr : inFor (mirPart k) k (mirTaken k s.m) = none) :
    exec c s = done s (mStray (mirPart k) k (mirTaken k s.m)) := by
  simp only [List.mem_cons, Prod.mk.injEq, List.not_mem_nil, or_false] at hc
  obtain ⟨rfl, rfl⟩ | ⟨rfl, rfl⟩ | ⟨rfl, rfl⟩ := hc
  · show execMirList s = _
    unfold execMirList
    simp only [takeMir_of_first hf, hr]
  · show execMirData bad s = _
    unfold execMirData
    simp only [takeMir_of_first hf, hr]
  · show execMirEnd s = _
    unfold execMirEnd
    simp only [takeMir_of_first hf, hr]

theorem stray_foreign (hc : (kind, c) ∈ [(1, Instr.mirList), (2, .mirData bad), (3, .mirEnd)]) (hf : MirFirst kind k s.m)
    (hs : ¬ nameIs (s.m.mir' (mirPart k)).source k = true) : Completes c s (MirRefused k 3 s) := by
  refine completes_of_done (exec_stray hc hf (inFor_none hi fun h => absurd h hs)) ?_
  rw [mStray, mirTaken_mir' hi, if_neg (by exact hs)]
  exact mRefuse_refuses hi 3

theorem stray_ignored (hc : (kind, c) ∈ [(1, Instr.mirList), (2, .mirData bad), (3, .mirEnd)]) (hf : MirFirst kind k s.m)
    (hs : nameIs (s.m.mir' (mirPart k)).source k = true) (hx : (s.m.mir' (mirPart k)).inX = none) :
    Does c s (mirTaken k s.m) := by
  refine (exec_stray hc hf (inFor_none hi fun _ => hx)).trans (congrArg (done s) ?_)
  rw [mStray, mirTaken_mir' hi]
  exact if_pos hs

theorem mirInput_keeps (hf : MirFirst 4 k s.m) (hs : nameIs (s.m.mir' (mirPart k)).source k = true) :
    Completes .mirInput s fun m => m.mir' (mirPart k) = { rxAdded k (s.m.mir' (mirPart k)) with
      inputs := ((s.m.mir' (mirPart k)).inputs ++ [k.payload]).drop ((s.m.mir' (mirPart k)).inputs.length + 1 - 8) } := by
  refine completes_of_done (m := mAck k ((mirTaken k s.m).setMir (mirPart k) { rxAdded k (s.m.mir' (mirPart k)) with
    inputs := ((s.m.mir' (mirPart k)).inputs ++ [k.payload]).drop
      (((s.m.mir' (mirPart k)).inputs ++ [k.payload]).length - 8) })) ?_ ?_
  · show execMirInput s = _
    unfold execMirInput
    simp only [takeMir_of_first hf, mirTaken_mir' hi]
    exact if_pos hs
  · rw [ackSet_mir' (mirTaken_inv hi), List.length_append]
    rfl

theorem mirInput_foreign (hf : MirFirst 4 k s.m) (hs : ¬ nameIs (s.m.mir' (mirPart k)).source k = true) :
    Completes .mirInput s (MirRefused k 3 s) := by
  refine completes_of_done (m := mRefuse (mirPart k) 3 k (mirTaken k s.m)) ?_ (mRefuse_refuses hi 3)
  show execMirInput s = _
  unfold execMirInput
  simp only [takeMir_of_first hf, mirTaken_mir' hi]
  exact if_neg hs

end Sys2Proof.Scope

/-! ### The mirror engine: FETCH, and what a restore receives (O39) -/

namespace Sys2Proof.Scope
open Sys2Proof.Machine Sys2Proof.Laws

variable {s : State} {m a b c' : Module} {k : Pkt} {p kind : Nat} {l : List Part} {bad : List Nat} {c : Instr} {q : Restore}

/-! #### FETCH (R541) -/

/-- Packets only have left an engine between two states: its count of the bytes sent alone may differ. -/
structure Sent (p : Nat) (a b : Module) : Prop where
  inv : a.Inv → b.Inv
  mir : a.Inv → ∃ t, b.mir' p = { a.mir' p with tx := t }

theorem Sent.refl (m : Module) : Sent p m m := ⟨id, fun _ => ⟨_, rfl⟩⟩

theorem Sent.trans (h : Sent p a b) (g : Sent p b c') : Sent p a c' := by
  refine ⟨g.inv ∘ h.inv, fun hi => ?_⟩
  obtain ⟨t, ht⟩ := h.mir hi
  obtain ⟨u, hu⟩ := g.mir (h.inv hi)
  exact ⟨u, by rw [hu, ht]⟩

theorem Sent.of_eff (h : Eff l a b) (hl : Part.mir ∉ l := by decide) : Sent p a b :=
  ⟨h.keeps.inv, fun _ => ⟨_, mir'_of_eff h hl p⟩⟩

theorem Sent.foldl {α : Type} {g : Module → α → Module} (hg : ∀ m x, Sent p m (g m x)) (r : List α) (m : Module) :
    Sent p m (r.foldl g m) :=
  List.foldlRecOn r g (motive := fun x => Sent p m x) (.refl m) fun _ h x _ => h.trans (hg _ x)

theorem sent_mirSend (p chip part kind : Nat) (step : Beat) (off hi : Nat) (payload : List Byte) (m : Module) :
    Sent p m (mirSend p chip part kind step off hi payload m).2 :=
  ⟨(eff_mirSend ..).keeps.inv, fun h => ⟨_, mirSend_mir' h ..⟩⟩

theorem sent_mirSendRead (p chip part kind : Nat) (step : Beat) (off : Nat) (x : List Byte × List Bool) (m : Module) :
    Sent p m (mirSendRead p chip part kind step off x m).2 := by
  unfold mirSendRead
  dsimp only
  split
  · exact sent_mirSend ..
  · exact (sent_mirSend ..).trans (.of_eff (eff_emit ..))

theorem sent_sendResult (p chip part : Nat) (h : List Byte) (m : Module) : Sent p m (sendResult p chip part h m) := by
  unfold sendResult
  extract_lets n slot m1
  have h1 : Sent p m m1 := sent_mirSend ..
  clear_value slot m1
  cases slot with
  | none => exact h1
  | some x =>
    refine h1.trans ((Sent.of_eff (eff_captureStream p x.2.captures 4096 m1)).trans ?_)
    exact .foldl (fun _ _ => .foldl (fun _ _ => sent_mirSendRead ..) _ _) _ _

/-- The module once the bytes of C have left for the fetcher. -/
def bufferSent (k : Pkt) (x : Mir) (c : Bool × Beat) (m : Module) : Module :=
  let y := memRead 2 (mirPart k) 2 false (bufBase x c.1) x.inCSize (mAck k m)
  (readPieces 0 (y.1, y.2.1)).foldl
    (fun m z => (mirSendRead (mirPart k) k.hdr.srcChip.toNat k.hdr.srcPart.toNat 6 c.2 z.1 z.2 m).2) y.2.2

/-- The headers kept that follow the version of C. -/
def laterInputs (x : Mir) (c : Bool × Beat) : List (List Byte) :=
  x.inputs.filter (fun h => stepBefore c.2 (BitVec.ofNat 48 (le h 0 8)))

/-- The module once a FETCH is answered. -/
def fetchAnswered (k : Pkt) (x : Mir) (c : Bool × Beat) (m : Module) : Module :=
  (mirSend (mirPart k) k.hdr.srcChip.toNat k.hdr.srcPart.toNat 8 c.2 0 0 []
    ((laterInputs x c).foldl (fun m h => sendResult (mirPart k) k.hdr.srcChip.toNat k.hdr.srcPart.toNat h m)
      (bufferSent k x c m))).2

theorem sent_fetchAnswered (k : Pkt) (x : Mir) (c : Bool × Beat) (m : Module) :
    Sent (mirPart k) m (fetchAnswered k x c m) := by
  have h1 : Sent (mirPart k) m (bufferSent k x c m) := (Sent.of_eff (eff_mAck k m)).trans
    ((Sent.of_eff (eff_memRead ..)).trans (.foldl (fun _ _ => sent_mirSendRead ..) _ _))
  exact h1.trans ((Sent.foldl (fun _ _ => sent_sendResult ..) _ _).trans (sent_mirSend ..))

theorem exec_fetch (h : MirFirst 5 k s.m) : exec .fetch s = done s (doFetch (mirPart k) k (mirTaken k s.m)) := by
  show execFetch s = _
  unfold execFetch
  rw [takeMir_of_first h]

theorem fetch_foreign (hi : s.m.Inv) (hf : MirFirst 5 k s.m) (hs : ¬ nameIs (s.m.mir' (mirPart k)).source k = true) :
    Completes .fetch s (MirRefused k 3 s) := by
  refine completes_of_done (exec_fetch hf) ?_
  rw [doFetch, mirTaken_mir' hi, if_pos (by simpa [rxAdded] using hs)]
  exact mRefuse_refuses hi 3

theorem fetch_empty (hi : s.m.Inv) (hf : MirFirst 5 k s.m) (hs : nameIs (s.m.mir' (mirPart k)).source k = true)
    (hc : (s.m.mir' (mirPart k)).inC = none) : Completes .fetch s (MirRefused k 1 s) := by
  refine completes_of_done (m := mRefuse (mirPart k) 1 k (mirTaken k s.m)) ((exec_fetch hf).trans ?_) (mRefuse_refuses hi 1)
  rw [doFetch, mirTaken_mir' hi, if_neg (by simpa [rxAdded] using hs)]
  simp only [rxAdded, hc]
  rfl

theorem exec_fetch_answered (hi : s.m.Inv) (hf : MirFirst 5 k s.m) (hs : nameIs (s.m.mir' (mirPart k)).source k = true)
    {c : Bool × Beat} (hc : (s.m.mir' (mirPart k)).inC = some c) :
    exec .fetch s = done s (fetchAnswered k (rxAdded k (s.m.mir' (mirPart k))) c (mirTaken k s.m)) := by
  refine (exec_fetch hf).trans (congrArg (done s) ?_)
  rw [doFetch, mirTaken_mir' hi, if_neg (by simpa [rxAdded] using hs)]
  have hr : (rxAdded k (s.m.mir' (mirPart k))).inC = some c := hc
  generalize rxAdded k (s.m.mir' (mirPart k)) = x at hr
  simp only [hr]
  rfl

/-- With no header kept, nothing leaves between C and RDONE. -/
theorem fetchAnswered_of_no_inputs (k : Pkt) {x : Mir} (c : Bool × Beat) (h : x.inputs = []) (m : Module) : fetchAnswered k x c m =
    (mirSend (mirPart k) k.hdr.srcChip.toNat k.hdr.srcPart.toNat 8 c.2 0 0 [] (bufferSent k x c m)).2 := by
  simp only [fetchAnswered, laterInputs, h, List.filter_nil, List.foldl_nil]

theorem fetch_answers (hi : s.m.Inv) (hf : MirFirst 5 k s.m) (hs : nameIs (s.m.mir' (mirPart k)).source k = true)
    {c : Bool × Beat} (hc : (s.m.mir' (mirPart k)).inC = some c) : Completes .fetch s fun m =>
      (m.mir' (mirPart k)).inC = (s.m.mir' (mirPart k)).inC
      ∧ (m.mir' (mirPart k)).inputs = (s.m.mir' (mirPart k)).inputs
      ∧ ((s.m.mir' (mirPart k)).inputs = [] → m = (mirSend (mirPart k) k.hdr.srcChip.toNat k.hdr.srcPart.toNat 8 c.2
          0 0 [] (bufferSent k (s.m.mir' (mirPart k)) c (mirTaken k s.m))).2) := by
  obtain ⟨t, ht⟩ := (sent_fetchAnswered k (rxAdded k (s.m.mir' (mirPart k))) c (mirTaken k s.m)).mir (mirTaken_inv hi)
  rw [mirTaken_mir' hi] at ht
  exact completes_of_done (exec_fetch_answered hi hf hs hc)
    ⟨(congrArg Mir.inC ht :), (congrArg Mir.inputs ht :), fun h => fetchAnswered_of_no_inputs k c h _⟩

/-! #### What a restore receives (R541) -/

/-- The partner's packets, when no restore of the partition runs. -/
theorem exec_unrestored (hc : (kind, c) ∈ [(6, Instr.rdata bad), (7, .rresult bad), (8, .rdone)]) (hf : MirFirst kind k s.m)
    (hr : restoreFor (mirPart k) k (mirTaken k s.m) = none) : Does c s (mirTaken k s.m) := by
  simp only [List.mem_cons, Prod.mk.injEq, List.not_mem_nil, or_false] at hc
  obtain ⟨rfl, rfl⟩ | ⟨rfl, rfl⟩ | ⟨rfl, rfl⟩ := hc
  · show execRdata bad s = _
    unfold execRdata
    simp only [takeMir_of_first hf, hr]
    rfl
  · show execRresult bad s = _
    unfold execRresult
    simp only [takeMir_of_first hf, hr]
    rfl
  · show execRdone s = _
    unfold execRdone
    simp only [takeMir_of_first hf, hr]
    rfl

theorem restoreFor_running (hi : s.m.Inv) (hx : (s.m.mir' (mirPart k)).restore = some q)
    (hn : nameIs (s.m.mir' (mirPart k)).partner k = true) : restoreFor (mirPart k) k (mirTaken k s.m) = some q := by
  unfold restoreFor
  rw [mirTaken_mir' hi]
  exact (if_pos hn).trans hx

/-- The module once a packet of RDATA is in SHARD. -/
def shardWritten (k : Pkt) (bad : List Nat) (m : Module) : Module :=
  memWriteBad 2 (mirPart k) 2 false ((regionOf (m.vst' (mirPart k)).shard).1 + k.hdr.addr.toNat) k.payload
    (badBytes bad k.payload.length) (mirTaken k m)

theorem rdata_fits (hi : s.m.Inv) (hf : MirFirst 6 k s.m) (hr : restoreFor (mirPart k) k (mirTaken k s.m) = some q)
    (hl : k.hdr.addr.toNat + k.payload.length ≤ (regionOf (s.m.vst' (mirPart k)).shard).2) (bad : List Nat) :
    Completes (.rdata bad) s fun m =>
      m.mir' (mirPart k) = { rxAdded k (s.m.mir' (mirPart k)) with
        restore := some { q with bytes := q.bytes + k.payload.length, lastAt := s.m.clk.elapsed } }
      ∧ m.mem = (shardWritten k bad s.m).mem := by
  have h1 := eff_mirTaken k s.m
  have h2 : Eff _ (mirTaken k s.m) (shardWritten k bad s.m) := eff_memWriteBad ..
  refine completes_of_done (m := mAck k ((shardWritten k bad s.m).setMir (mirPart k)
    { (shardWritten k bad s.m).mir' (mirPart k) with restore := some { q with
        bytes := q.bytes + k.payload.length, lastAt := (shardWritten k bad s.m).clk.elapsed } })) ?_ ⟨?_, ?_⟩
  · show execRdata bad s = _
    unfold execRdata
    simp only [takeMir_of_first hf, hr, mirTaken_vst']
    exact if_neg (Nat.not_lt.2 hl)
  · rw [ackSet_mir' (h2.keeps.inv (h1.keeps.inv hi)), mir'_of_eff h2, mirTaken_mir' hi, clk_of_eff h2, clk_of_eff h1]
  · exact (eff_mAck ..).same .mem (by decide)

theorem rdata_long (hf : MirFirst 6 k s.m) (hr : restoreFor (mirPart k) k (mirTaken k s.m) = some q)
    (hl : (regionOf (s.m.vst' (mirPart k)).shard).2 < k.hdr.addr.toNat + k.payload.length) (bad : List Nat) :
    Does (.rdata bad) s (mirTaken k s.m) := by
  show execRdata bad s = _
  unfold execRdata
  simp only [takeMir_of_first hf, hr, mirTaken_vst']
  exact if_pos hl

theorem findIdx?_eq_none {α : Type} {t : α → Bool} {l : List α} (h : ∀ y ∈ l, t y = false) (n : Nat) : findIdx? t l n = none := by
  induction l generalizing n with
  | nil => rfl
  | cons y r ih =>
    rw [findIdx?, h y List.mem_cons_self]
    exact ih (fun z hz => h z (List.mem_cons_of_mem _ hz)) _

/-- A restore that has received a packet. -/
def restoreGot (k : Pkt) (now : Nat) (q : Restore) : Restore := { q with bytes := q.bytes + k.payload.length, lastAt := now }

/-- The slot that an RRESULT's header begins. -/
def resultSlot (k : Pkt) (now : Nat) : VSlot := parseSlot k.payload (fld k.hdr.aux 48 1 = 1) now

/-- The header of a new slot is written where the slot area has room for it. -/
def headerWritten (p : Nat) (k : Pkt) (q : Restore) (m : Module) : Module :=
  if (m.vst' p).area < 4096 then m
  else vstWrite p ((m.vst' p).slotBase q.slots.length) (slotHeader (resultSlot k m.clk.elapsed)) m

theorem eff_headerWritten (p : Nat) (k : Pkt) (q : Restore) (m : Module) :
    Eff [.mem, .flt, .vst, .hlt, .cor, .pci, .tray, .dbg, .out] m (headerWritten p k q m) := by
  unfold headerWritten
  split
  · exact .refl m
  · exact eff_vstWrite ..

/-- An RRESULT of a step not yet known begins a slot. -/
theorem doResult_begins (hn : ∀ y ∈ q.slots, y.step ≠ mStep k) (hd : q.slots.length < (m.vst' p).depthN) (ho : k.hdr.addr.toNat = 0) :
    doResult p k bad q m = (headerWritten p k q m).setMir p { (headerWritten p k q m).mir' p with
      restore := some { restoreGot k m.clk.elapsed q with slots := q.slots ++ [resultSlot k m.clk.elapsed] } } := by
  unfold doResult
  extract_lets v n off r set
  have hfind : findIdx? (fun s => decide (s.step = mStep k)) r.slots 0 = none :=
    findIdx?_eq_none (fun y hy => decide_eq_false (hn y hy)) 0
  rw [hfind]
  exact if_pos (by simpa [v, off, r] using ⟨hd, ho⟩)

theorem rresult_begins (hi : s.m.Inv) (hf : MirFirst 7 k s.m) (hr : restoreFor (mirPart k) k (mirTaken k s.m) = some q)
    (hn : ∀ y ∈ q.slots, y.step ≠ mStep k) (hd : q.slots.length < (s.m.vst' (mirPart k)).depthN)
    (ho : k.hdr.addr.toNat = 0) (bad : List Nat) : Completes (.rresult bad) s fun m =>
      m.mir' (mirPart k) = { rxAdded k (s.m.mir' (mirPart k)) with
        restore := some { restoreGot k s.m.clk.elapsed q with slots := q.slots ++ [resultSlot k s.m.clk.elapsed] } } := by
  have h1 := eff_mirTaken k s.m
  have h2 := eff_headerWritten (mirPart k) k q (mirTaken k s.m)
  refine completes_of_done (m := mAck k (doResult (mirPart k) k bad q (mirTaken k s.m))) ?_ ?_
  · show execRresult bad s = _
    unfold execRresult
    simp only [takeMir_of_first hf, hr]
    rfl
  · rw [doResult_begins (m := mirTaken k s.m) hn hd ho, ackSet_mir' (h2.keeps.inv (h1.keeps.inv hi)), mir'_of_eff h2,
      mirTaken_mir' hi, clk_of_eff h1]

/-! #### RDONE (R541) -/

theorem tainted_parseCaptures (p base used n off : Nat) (m : Module) : Tainted m (parseCaptures p base used n off m).2 := by
  induction n generalizing off m with
  | zero => exact .refl m
  | succ n ih =>
    unfold parseCaptures
    split
    · exact .refl m
    · exact (tainted_memRead ..).trans (ih ..)

theorem nput_of_above {α : Type} {l : List (Nat × α)} {n : Nat} (h : ∀ y ∈ l, y.1 < n) (v : α) : nput l n v = l ++ [(n, v)] := by
  induction l with
  | nil => rfl
  | cons y r ih =>
    obtain ⟨j, y⟩ := y
    have hj : j < n := h (j, y) List.mem_cons_self
    rw [nput, if_neg (Nat.lt_asymm hj), if_neg (Nat.ne_of_gt hj), ih fun z hz => h z (List.mem_cons_of_mem _ hz)]
    rfl

theorem failed_of_bareSlot {x y : VSlot} (h : bareSlot y = bareSlot x) (hx : x.st = .failed) : y.st = .failed := by
  have hs : (bareSlot y).st = (bareSlot x).st := congrArg VSlot.st h
  simp only [bareSlot, hx, reduceCtorEq, if_false] at hs
  split at hs
  · contradiction
  · exact hs

/-- A partition holds, in order and in FAILED, the slots of a list (R541). -/
structure Built (p : Nat) (l : List VSlot) (m : Module) : Prop where
  inv : m.Inv
  keys : (m.vst' p).slots.map (·.1) = List.range l.length
  steps : (m.vst' p).slots.map (·.2.step) = l.map (·.step)
  failed : ∀ y ∈ (m.vst' p).slots, y.2.st = .failed

theorem Built.tainted {r : List VSlot} (h : Built p r a) (ht : Tainted a b) : Built p r b := by
  have hs : (b.vst' p).slots.map (fun x => (x.1, bareSlot x.2)) = (a.vst' p).slots.map (fun x => (x.1, bareSlot x.2)) :=
    congrArg Vst.slots (ht.vst h.inv p)
  refine ⟨ht.inv h.inv, ?_, ?_, fun y hy => ?_⟩
  · have := congrArg (List.map (·.1)) hs
    simp only [List.map_map] at this
    exact this.trans h.keys
  · have := congrArg (List.map (·.2.step)) hs
    simp only [List.map_map] at this
    exact this.trans h.steps
  · have hm := List.mem_map_of_mem (f := fun x : Nat × VSlot => (x.1, bareSlot x.2)) hy
    rw [hs] at hm
    obtain ⟨x, hx, he⟩ := List.mem_map.1 hm
    exact failed_of_bareSlot (Prod.mk.inj he).2.symm (h.failed x hx)

/-- Puts one slot of a restore into the Vestibule, with the captures that its area holds. -/
def buildSlot (p : Nat) (m : Module) (x : Nat × VSlot) : Module :=
  let y := parseCaptures p ((m.vst' p).slotBase x.1) x.2.used (x.2.used / 4096) 4096 m
  y.2.setVst p { y.2.vst' p with slots := nput (y.2.vst' p).slots x.1 { x.2 with captures := y.1 } }

theorem eff_buildSlot (p : Nat) (m : Module) (x : Nat × VSlot) :
    Eff [.mem, .flt, .vst, .hlt, .cor, .pci, .tray, .dbg, .out] m (buildSlot p m x) :=
  (eff_parseCaptures ..).trans ((eff_setVst ..).mono rfl)

theorem Built.buildSlot {r : List VSlot} (h : Built p r m) {x : VSlot} (hx : x.st = .failed) :
    Built p (r ++ [x]) (buildSlot p m (r.length, x)) := by
  have h1 := h.tainted (tainted_parseCaptures p ((m.vst' p).slotBase r.length) x.used (x.used / 4096) 4096 m)
  unfold Scope.buildSlot
  dsimp only
  generalize parseCaptures p ((m.vst' p).slotBase r.length) x.used (x.used / 4096) 4096 m = y at h1
  have hn : nput (y.2.vst' p).slots r.length { x with captures := y.1 } = (y.2.vst' p).slots ++ [(r.length, { x with captures := y.1 })] :=
    nput_of_above (fun z hz => List.mem_range.1 (h1.keys ▸ List.mem_map_of_mem hz)) _
  have hv := setVst_get y.2 p { y.2.vst' p with slots := (y.2.vst' p).slots ++ [(r.length, { x with captures := y.1 })] }
    (rising_vst h1.inv)
  rw [hn]
  refine ⟨(eff_setVst ..).keeps.inv h1.inv, ?_, ?_, fun z hz => ?_⟩
  · rw [hv, List.map_append, h1.keys, List.length_append, List.length_singleton, List.range_succ]
    rfl
  · rw [hv, List.map_append, h1.steps, List.map_append]
    rfl
  · rw [hv] at hz
    obtain hz | hz := List.mem_append.1 hz
    · exact h1.failed z hz
    · exact List.mem_singleton.1 hz ▸ hx

theorem Built.foldl {r : List VSlot} (l : List VSlot) (h : Built p r m) (hl : ∀ y ∈ l, y.st = .failed) :
    Built p (r ++ l) ((List.zip (List.range' r.length l.length) l).foldl (Scope.buildSlot p) m) := by
  induction l generalizing r m with
  | nil => simpa using h
  | cons x l ih =>
    have hr := ih (h.buildSlot (hl x List.mem_cons_self)) fun y hy => hl y (List.mem_cons_of_mem _ hy)
    rw [List.append_assoc, List.length_append] at hr
    exact hr

/-- The module once the slots of a restore are built. -/
def slotsBuilt (p : Nat) (l : List VSlot) (m : Module) : Module := (List.zip (List.range l.length) l).foldl (buildSlot p) m

theorem eff_slotsBuilt (p : Nat) (l : List VSlot) (m : Module) :
    Eff [.mem, .flt, .vst, .hlt, .cor, .pci, .tray, .dbg, .out] m (slotsBuilt p l m) :=
  .fold (.refl m) fun _ _ => eff_buildSlot ..

theorem built_slotsBuilt {l : List VSlot} (hi : m.Inv) (hs : (m.vst' p).slots = []) (hl : ∀ y ∈ l, y.st = .failed) :
    Built p l (slotsBuilt p l m) := by
  have h0 : Built p [] m := ⟨hi, by rw [hs]; rfl, by rw [hs]; rfl, by simp [hs]⟩
  rw [slotsBuilt, List.range_eq_range']
  exact h0.foldl l hl

/-- The Vestibule that RDONE leaves: the version of C committed. -/
def committedTo (p : Nat) (ver : Beat) (m : Module) : Module := m.setVst p { m.vst' p with committed := ver }

theorem doRdone_eq (p : Nat) (k : Pkt) (q : Restore) (m : Module) : doRdone p k q m =
    mirEv p 6 1 0 ((mStep k).setWidth 64) (mAck k ((committedTo p (mStep k) (slotsBuilt p q.slots m)).setMir p
      { (committedTo p (mStep k) (slotsBuilt p q.slots m)).mir' p with restore := none, outAck := some (mStep k) })) := rfl

theorem rdone_restores (hi : s.m.Inv) (hf : MirFirst 8 k s.m) (hr : restoreFor (mirPart k) k (mirTaken k s.m) = some q)
    (hs : (s.m.vst' (mirPart k)).slots = []) (hq : ∀ y ∈ q.slots, y.st = .failed) : Completes .rdone s fun m =>
      (m.vst' (mirPart k)).committed = mStep k
      ∧ m.mir' (mirPart k) = { rxAdded k (s.m.mir' (mirPart k)) with restore := none, outAck := some (mStep k) }
      ∧ (m.vst' (mirPart k)).slots.map (fun y => y.2.step) = q.slots.map (·.step)
      ∧ ∀ y ∈ (m.vst' (mirPart k)).slots, y.2.st = .failed := by
  have hb : Built (mirPart k) q.slots (slotsBuilt (mirPart k) q.slots (mirTaken k s.m)) :=
    built_slotsBuilt (mirTaken_inv hi) hs hq
  have hm := mir'_of_eff (eff_slotsBuilt (mirPart k) q.slots (mirTaken k s.m)) (by decide) (mirPart k)
  rw [mirTaken_mir' hi] at hm
  have he : exec .rdone s = done s (doRdone (mirPart k) k q (mirTaken k s.m)) := by
    show execRdone s = _
    unfold execRdone
    simp only [takeMir_of_first hf, hr]
  rw [doRdone_eq] at he
  generalize slotsBuilt (mirPart k) q.slots (mirTaken k s.m) = y at he hb hm
  have hv := setVst_get y (mirPart k) { y.vst' (mirPart k) with committed := mStep k } (rising_vst hb.inv)
  have hc : Eff [.vst] y (committedTo (mirPart k) (mStep k) y) := eff_setVst ..
  refine completes_of_done he ?_
  have hw : ∀ z : Mir, (mirEv (mirPart k) 6 1 0 ((mStep k).setWidth 64) (mAck k
      ((committedTo (mirPart k) (mStep k) y).setMir (mirPart k) z))).vst' (mirPart k)
      = { y.vst' (mirPart k) with committed := mStep k } := fun z =>
    (vst'_of_vst ((mirEv_vst ..).trans (inject_vst ..)) _).trans hv
  refine ⟨congrArg Vst.committed (hw _), ?_, ?_, ?_⟩
  · refine (mir'_of_eff (eff_mirEv ..) (by decide) _).trans ((ackSet_mir' (hc.keeps.inv hb.inv) _).trans ?_)
    rw [mir'_of_eff hc, hm]
  · rw [hw]
    exact hb.steps
  · rw [hw]
    exact hb.failed

end Sys2Proof.Scope

section
open Sys2Proof Sys2Proof.Machine Sys2Proof.Scope

/-- Settles O39, by what taking a mirror packet leaves of the engine, and by a lemma for each command and packet; the slots that RDONE
builds are followed one by one. -/
theorem mirrorSendsReceivesAndRestores : Obligations.MirrorSendsReceivesAndRestores := by
  refine ⟨fun s p hi => ⟨fun d r hd hx hq => ⟨send_refused hx hq hd, fun hr => ?_⟩, fun o ho => mirrorTimeout_ends hi ho,
    fun i hx => inAborted_ends hi hx, rfl, ⟨restore_starts hi, restore_refused⟩, fun q hx => restoreFailed_ends hi hx⟩,
    fun s k hi => ?_⟩
  · exact (send_starts hi hx hq hd hr).imp fun m ⟨he, h1, h2, h3, o, ho, h⟩ =>
      ⟨he, h1, h2, h3, o, ho, h.desc, h.full, h.resent, h.endTag, h.tags, h.ranges⟩
  · refine ⟨fun hf => ⟨mirBegin_foreign hi hf, mirBegin_large hi hf, mirBegin_unbased hi hf, mirBegin_opens hi hf⟩,
      fun i hx ht hs => ?_, fun kind c bad hc hf => ⟨stray_foreign hi hc hf, stray_ignored hi hc hf⟩,
      fun hf => ⟨mirInput_keeps hi hf, mirInput_foreign hi hf⟩,
      fun hf => ⟨fetch_foreign hi hf, fetch_empty hi hf, fun c hs hc => fetch_answers hi hf hs hc⟩,
      fun kind c bad hc hf hr => exec_unrestored hc hf hr, fun q hx hn => ?_⟩
    · have hr := inFor_running hi hx ht hs
      exact ⟨fun hf => mirList_keeps hi hf hr, fun hf => mirData_fits hi hf hr, fun hf => mirData_long hf hr,
        fun hf => mirEnd_completes hi hf hr, fun hf => mirEnd_short hf hr⟩
    · have hr := restoreFor_running hi hx hn
      exact ⟨fun hf => rdata_fits hi hf hr, fun hf => rdata_long hf hr,
        fun hf hn hd ho => rresult_begins hi hf hr hn hd ho, fun hf hs hq => rdone_restores hi hf hr hs hq⟩

end
